-- ==== Sys2Proof/Word.lean ====
section
/-! DEFINITION. The word types of the model. -/

namespace Sys2Proof

/-- One byte of a memory, a request buffer or a frame. -/
abbrev Byte := BitVec 8

/-- A 32-bit word of a record image or a seal. -/
abbrev Word32 := BitVec 32

/-- A 64-bit word: an operation word (R176), a sample index (R30) or a wall time (R306). -/
abbrev Word64 := BitVec 64

end Sys2Proof
end

