-- ==== Sys2Proof/Syntax.lean ====
section
/-! DEFINITION. The commands of the NX256: one constructor of `Instr` for each row of the spec's opcode
table, with the row's operands. A row that is a mailbox command names only the mailbox, because the
request itself stands in that mailbox's request buffer (R335). A row that is an operation word names
only the tile, because the word stands in the tile's operation memory (R149). A row that something
outside the digital model decides (a measured value, a failed check, a received frame) carries it as
an operand. -/

namespace Sys2Proof

/-- An output channel of a converter island: XY channel DRV[n], probe channel PRB[t] or bias channel
BIAS[n] (R16). -/
inductive Channel where
  | drive (n : Fin 64)
  | probe (t : Fin 16)
  | bias (n : Fin 128)
deriving DecidableEq, Repr

/-- The two 12 V feeds (R365). -/
inductive Feed where
  | a
  | b
deriving DecidableEq, Repr

/-- The urgent triggers of the injected monitor sequence (R384). -/
inductive InjCause where
  | trip
  | shed
  | throttle
  | event
deriving DecidableEq, Repr

/-- What a read of the stream store meets in a beat (R240): a single-bit error of a word, or an uncorrectable error whose
re-read succeeds or fails. -/
inductive EccError where
  | single
  | transient
  | lasting
deriving DecidableEq, Repr

/-- A PTP message as it reaches the 25GBASE-R port (R314): what the clock needs of it. `announce` carries
the sender's rank in the best-master comparison; `sync` and `followUp` carry the master's origin time in
ns; `delayResp` the master's receive time. -/
inductive PtpMessage where
  | announce (grandmaster : BitVec 64) (priority1 priority2 : BitVec 8) (stepsRemoved : BitVec 16)
  | sync (twoStep : Bool) (originNs : BitVec 64)
  | followUp (originNs : BitVec 64)
  | delayReq
  | delayResp (receiveNs : BitVec 64)
deriving DecidableEq, Repr

/-- The PTP messages that the port sends at an interval of its own (R314). -/
inductive PtpKind where
  | announce
  | sync
  | delayReq
deriving DecidableEq, Repr

/-- The commands of the NX256. -/
inductive Instr where
  /-- SYS_INFO (R353). Command 0x0101 returns the part name, silicon revision, mode, boot image, ROM_ID, PATCH_ID,
  Jutan version and serial number. Operands: `m`: the mailbox that holds the request. -/
  | sysInfo (m : Fin 16)
  /-- MODE_GET (R403). Command 0x0102 returns the present mode, the previous mode, the cause of the last change
  and the time spent in the mode. Operands: `m`: the mailbox that holds the request. -/
  | modeGet (m : Fin 16)
  /-- MODE_SET (R394). Deferred command 0x0103 requests one of the allowed mode transitions and returns when the
  target mode is reached. Operands: `m`: the mailbox that holds the request. -/
  | modeSet (m : Fin 16)
  /-- MODE_SET_TIMEOUT (R356). The 10 s limit of a waiting MODE_SET expires, so the action is withdrawn and the
  command returns TIMEOUT. Operands: `m`: the mailbox of the deferred command. -/
  | modeSetTimeout (m : Fin 16)
  /-- SYSTEM_RESET (R407). Command 0x0104 with the confirm word writes its response, ramps bias to 0 and enters
  RESET. Operands: `m`: the mailbox that holds the request. -/
  | systemReset (m : Fin 16)
  /-- SELFTEST_REPORT (R400). Command 0x0105 returns the self-test result, the core that ran it and the bitmap of
  failed tests. Operands: `m`: the mailbox that holds the request. -/
  | selftestReport (m : Fin 16)
  /-- SYNC_ARM (R46). Command 0x0106 arms or disarms SYNC, and a disarm reports whether an edge was accepted.
  Operands: `m`: the mailbox that holds the request. -/
  | syncArm (m : Fin 16)
  /-- SYNC_PULSE (R51). Command 0x0107 sends one SYNC_OUT pulse of 4 REFCLK periods in PULSE mode. Operands: `m`:
  the mailbox that holds the request. -/
  | syncPulse (m : Fin 16)
  /-- IMAGE_WRITE (R357). Deferred command 0x0108 takes one part of a firmware image; the last part is
  authenticated and written to flash. Operands: `m`: the mailbox that holds the request. -/
  | imageWrite (m : Fin 16)
  /-- IMAGE_WRITE_TIMEOUT (R356). The 30 s limit of a waiting IMAGE_WRITE expires, and the command returns TIMEOUT
  with nothing changed. Operands: `m`: the mailbox of the deferred command. -/
  | imageWriteTimeout (m : Fin 16)
  /-- IMAGE_SELECT (R357). Command 0x0109 chooses an authenticated image for the next boot. Operands: `m`: the
  mailbox that holds the request. -/
  | imageSelect (m : Fin 16)
  /-- SLOT_BIND (R18). Command 0x0201 binds the drive, probe, acquisition and bias resources of a qubit slot.
  Operands: `m`: the mailbox that holds the request. -/
  | slotBind (m : Fin 16)
  /-- SLOT_GET (R17). Command 0x0202 returns the bindings of a slot. Operands: `m`: the mailbox that holds the
  request. -/
  | slotGet (m : Fin 16)
  /-- LIB_WRITE (R22). Command 0x0203 writes sealed blocks into a tile's pulse library, which ends the residency
  of any segment that uses them. Operands: `m`: the mailbox that holds the request. -/
  | libWrite (m : Fin 16)
  /-- LIB_READ (R242). Command 0x0204 reads library blocks with their seals, or returns FAULTED for a block that
  is poisoned or retired. Operands: `m`: the mailbox that holds the request. -/
  | libRead (m : Fin 16)
  /-- CTX_LOAD (R181). Command 0x0205 loads operation contexts, to a shadow copy while the tile is in an active
  run. Operands: `m`: the mailbox that holds the request. -/
  | ctxLoad (m : Fin 16)
  /-- CTX_READ (R181). Command 0x0206 returns the contexts in force and whether a load is pending. Operands: `m`:
  the mailbox that holds the request. -/
  | ctxRead (m : Fin 16)
  /-- WEIGHT_LOAD (R123). Command 0x0207 loads weight-set and progress-table blocks into the shadow bank.
  Operands: `m`: the mailbox that holds the request. -/
  | weightLoad (m : Fin 16)
  /-- PROGRAM_LOAD (R198). Command 0x0208 loads a tile's program list of segment identifiers. Operands: `m`: the
  mailbox that holds the request. -/
  | programLoad (m : Fin 16)
  /-- RUN_START (R358). Command 0x0301 forms a run group, assigns a group number and sets the base SI of the first
  shot. Operands: `m`: the mailbox that holds the request. -/
  | runStart (m : Fin 16)
  /-- RUN_STOP (R359). Deferred command 0x0302 ends a run after the shot in progress, or at once by HALT.
  Operands: `m`: the mailbox that holds the request. -/
  | runStop (m : Fin 16)
  /-- RUN_STOP_TIMEOUT (R356). The 6 s limit of a waiting RUN_STOP expires, and the command returns TIMEOUT.
  Operands: `m`: the mailbox of the deferred command. -/
  | runStopTimeout (m : Fin 16)
  /-- RUN_RESUME (R206). Command 0x0303 resumes a group that waits under RESUME once the missing segment is
  resident. Operands: `m`: the mailbox that holds the request. -/
  | runResume (m : Fin 16)
  /-- RUN_JUMP (R360). Command 0x0304 posts one jump request to each named tile. Operands: `m`: the mailbox that
  holds the request. -/
  | runJump (m : Fin 16)
  /-- RUN_STATUS (R208). Command 0x0305 returns the state, policy, mask and shot counts of a run group. Operands:
  `m`: the mailbox that holds the request. -/
  | runStatus (m : Fin 16)
  /-- EVC_STATUS_READ (R216). Command 0x0401 returns a range of event channel status records. Operands: `m`: the
  mailbox that holds the request. -/
  | evcStatusRead (m : Fin 16)
  /-- CUT_RESTORE (R224). Command 0x0402 clears CUT on every cut channel in one Hatband cycle. Operands: `m`: the
  mailbox that holds the request. -/
  | cutRestore (m : Fin 16)
  /-- FULLING_SUBMIT (R290). Command 0x0501 checks a batch of Fulling job descriptors as a whole and queues them.
  Operands: `m`: the mailbox that holds the request. -/
  | fullingSubmit (m : Fin 16)
  /-- STREAM_SAVE (R297). Command 0x0502 copies a stream context image to a store address. Operands: `m`: the
  mailbox that holds the request. -/
  | streamSave (m : Fin 16)
  /-- STREAM_RESTORE (R297). Command 0x0503 copies a stream context image back after checking its seals and
  STREAM_ID. Operands: `m`: the mailbox that holds the request. -/
  | streamRestore (m : Fin 16)
  /-- STREAM_RESET (R297). Command 0x0504 sets a stream context to VALID = 0 and empties its history. Operands:
  `m`: the mailbox that holds the request. -/
  | streamReset (m : Fin 16)
  /-- STREAM_STATE (R298). Command 0x0505 returns the state of a stream context. Operands: `m`: the mailbox that
  holds the request. -/
  | streamState (m : Fin 16)
  /-- HIST_READ (R126). Command 0x0506 returns rows of a slot's histogram bins, read between the binning of two
  shots. Operands: `m`: the mailbox that holds the request. -/
  | histRead (m : Fin 16)
  /-- HIST_DUMP (R277). Command 0x0507 forms one HISTOGRAM chunk of a slot's bins. Operands: `m`: the mailbox that
  holds the request. -/
  | histDump (m : Fin 16)
  /-- MODEL_FIT (R143). Deferred command 0x0508 fits a Gaussian mixture to a slot's histogram and writes the model
  shadow. Operands: `m`: the mailbox that holds the request. -/
  | modelFit (m : Fin 16)
  /-- REMOTE_DEST (R346). Command 0x0509 sets the destination of remote capture datagrams. Operands: `m`: the
  mailbox that holds the request. -/
  | remoteDest (m : Fin 16)
  /-- TIME_SET (R309). Command 0x0601 steps the wall clock under SOURCE NONE while STEPPED is 0. Operands: `m`:
  the mailbox that holds the request. -/
  | timeSet (m : Fin 16)
  /-- TIME_OF_DAY (R315). Command 0x0602 gives the whole second that the next PPS_IN edge marks. Operands: `m`:
  the mailbox that holds the request. -/
  | timeOfDay (m : Fin 16)
  /-- TIME_REARM (R309). Command 0x0603 clears STEPPED so that the next acquisition steps the clock. Operands:
  `m`: the mailbox that holds the request. -/
  | timeRearm (m : Fin 16)
  /-- PORT_ADDRESS (R346). Command 0x0604 sets the MAC and IP addresses of the 25GBASE-R port. Operands: `m`: the
  mailbox that holds the request. -/
  | portAddress (m : Fin 16)
  /-- PTP_STATUS (R314). Command 0x0605 returns the PTP port state, grandmaster, offset and path delay. Operands:
  `m`: the mailbox that holds the request. -/
  | ptpStatus (m : Fin 16)
  /-- ULP_STATUS (R272). Command 0x0701 returns the port status records of ULP[0..3]. Operands: `m`: the mailbox
  that holds the request. -/
  | ulpStatus (m : Fin 16)
  /-- TABLE_COMMIT (R265). Deferred command 0x0702 commits a port's shadow slot table and returns at the swap.
  Operands: `m`: the mailbox that holds the request. -/
  | tableCommit (m : Fin 16)
  /-- LINK_RETRAIN (R249). Command 0x0703 takes a port's receive direction DOWN and realigns it. Operands: `m`:
  the mailbox that holds the request. -/
  | linkRetrain (m : Fin 16)
  /-- TELEMETRY (R387). Command 0x0801 returns the feed readings, shed stage, throttle step and hottest sensor.
  Operands: `m`: the mailbox that holds the request. -/
  | telemetry (m : Fin 16)
  /-- SENSOR_READ (R389). Command 0x0802 returns the temperature and validity of every sensor. Operands: `m`: the
  mailbox that holds the request. -/
  | sensorRead (m : Fin 16)
  /-- MON_READ (R385). Command 0x0803 returns the last regular conversion of each named monitor point. Operands:
  `m`: the mailbox that holds the request. -/
  | monRead (m : Fin 16)
  /-- MON_CALIBRATE (R386). Deferred command 0x0804 runs the 38 ms monitor ADC self-calibration. Operands: `m`:
  the mailbox that holds the request. -/
  | monCalibrate (m : Fin 16)
  /-- BLOCK_TAPS (R362). Command 0x0901 returns the tap in force and the target of every trim of a Blocking group.
  Operands: `m`: the mailbox that holds the request. -/
  | blockTaps (m : Fin 16)
  /-- BLOCK_TARGET (R55). Command 0x0902 sets or removes the target tap of a trim of a held Blocking group.
  Operands: `m`: the mailbox that holds the request. -/
  | blockTarget (m : Fin 16)
  /-- PATCH_LOAD (R363). Command 0x0A01 takes one part of a microcode patch image; the last part is checked and
  staged. Operands: `m`: the mailbox that holds the request. -/
  | patchLoad (m : Fin 16)
  /-- PATCH_APPLY (R171). Deferred command 0x0A02 makes the staged patch pending, which stops dispatch on every
  engine. Operands: `m`: the mailbox that holds the request. -/
  | patchApply (m : Fin 16)
  /-- ENGINE_RESTART (R160). Deferred command 0x0A03 re-reads the control store and restarts a stopped engine.
  Operands: `m`: the mailbox that holds the request. -/
  | engineRestart (m : Fin 16)
  /-- LOG_DRAIN (R413). Command 0x0B01 returns the oldest error log entries and removes them. Operands: `m`: the
  mailbox that holds the request. -/
  | logDrain (m : Fin 16)
  /-- LOG_COUNTERS (R412). Command 0x0B02 returns LOST and the 64 class counters. Operands: `m`: the mailbox that
  holds the request. -/
  | logCounters (m : Fin 16)
  /-- LOG_FIRST (R412). Command 0x0B03 returns the first-error snapshot of a class. Operands: `m`: the mailbox
  that holds the request. -/
  | logFirst (m : Fin 16)
  /-- LOG_ACK_OVERFLOW (R413). Command 0x0B04 clears OVERFLOW only. Operands: `m`: the mailbox that holds the
  request. -/
  | logAckOverflow (m : Fin 16)
  /-- ECHO (R354). Command 0x0B05 returns its payload unchanged. Operands: `m`: the mailbox that holds the
  request. -/
  | echo (m : Fin 16)
  /-- PARAM_GET (R339). Command 0x0C01 reads one or more parameter records. Operands: `m`: the mailbox that holds
  the request. -/
  | paramGet (m : Fin 16)
  /-- PARAM_SET (R339). Command 0x0C02 checks every entry and then writes the masked fields of one or more
  records. Operands: `m`: the mailbox that holds the request. -/
  | paramSet (m : Fin 16)
  /-- RECORD_WRITE (R438). A write to a record field with no behaviour of its own stores the value, or goes to the
  record's shadow. Operands: `id`: the record identifier; `value`, `mask`: the record images of the entry. -/
  | recordWrite (m : Fin 16) (id value mask : Nat)
  /-- MATRIX_COMMIT (R78). A write of COMMIT schedules the tile's shadow crosstalk matrix to come into force.
  Operands: `m`: the mailbox of the PARAM_SET that carries the entry. -/
  | matrixCommit (m : Fin 16) (t : Fin 16)
  /-- MUTED_CLEAR (R82). A write of 1 to MUTED requests that the channel's power mute be cleared. Operands: `m`:
  the mailbox of the PARAM_SET that carries the entry. -/
  | mutedClear (m : Fin 16) (n : Fin 64)
  /-- BIAS_LATCH_CLEAR (R102). A write of 1 to COMP_LATCH or OL_LATCH clears it, and the condition is then judged
  afresh. Operands: `m`: the mailbox of the PARAM_SET that carries the entry; `comp`, `ol`: which latches a 1
  is written to. -/
  | biasLatchClear (m : Fin 16) (n : Fin 128) (comp ol : Bool)
  /-- WEIGHT_COMMIT (R123). A write to COMMIT_MASK commits the named weight sets. Operands: `m`: the mailbox of
  the PARAM_SET that carries the entry; `sets`: the COMMIT_MASK written. -/
  | weightCommit (m : Fin 16) (t : Fin 16) (sets : BitVec 32)
  /-- HIST_CLEAR (R133). A write of CLEAR zeroes a slot's bins and status counts. Operands: `m`: the mailbox of
  the PARAM_SET that carries the entry. -/
  | histClear (m : Fin 16) (s : Fin 256)
  /-- CHANNEL_CUT_CLEAR (R215). A write of 1 to CUT restores an event channel that a loop cut. Operands: `m`: the
  mailbox of the PARAM_SET that carries the entry. -/
  | channelCutClear (m : Fin 16) (c : Fin 512)
  /-- GROUP_RECORD_WRITE (R220). A write of a group record sets its STATE to INIT. Operands: `m`: the mailbox of
  the PARAM_SET that carries the entry. -/
  | groupRecordWrite (m : Fin 16) (g : Fin 32) (value mask : BitVec 64)
  /-- HCNT_CLEAR (R222). A write of CLEAR zeroes an event counter. Operands: `m`: the mailbox of the PARAM_SET
  that carries the entry. -/
  | hcntClear (m : Fin 16) (k : Fin 64)
  /-- STORE_ARBITER_COMMIT (R238). A write of COMMIT brings all 24 stream store rank and burst shadows into force
  together. Operands: `m`: the mailbox of the PARAM_SET that carries the entry. -/
  | storeArbiterCommit (m : Fin 16)
  /-- LIB_ARBITER_COMMIT (R245). A write of COMMIT brings a tile's shadow library ranks into force. Operands: `m`:
  the mailbox of the PARAM_SET that carries the entry. -/
  | libArbiterCommit (m : Fin 16) (t : Fin 16)
  /-- PORT_COMMIT (R265). A write of COMMIT to a port control record commits its shadow slot table. Operands: `m`:
  the mailbox of the PARAM_SET that carries the entry. -/
  | portCommit (m : Fin 16) (p : Fin 4)
  /-- ULP_POWER_WRITE (R267). A write of TX_POWER or RX_POWER requests nap, deep sleep or wake of a port
  direction. Operands: `m`: the mailbox of the PARAM_SET that carries the entry; `tx`, `rx`: the value written
  to TX_POWER, RX_POWER, where masked. -/
  | ulpPowerWrite (m : Fin 16) (p : Fin 4) (tx rx : Option (Fin 4))
  /-- ULP_TEST_WRITE (R268). A write of TEST puts a port's lanes into or out of PRBS lane test. Operands: `m`: the
  mailbox of the PARAM_SET that carries the entry. -/
  | ulpTestWrite (m : Fin 16) (p : Fin 4) (on : Bool)
  /-- ULP_LOOPBACK_WRITE (R270). A write of LOOPBACK selects serial or parallel loopback. Operands: `m`: the
  mailbox of the PARAM_SET that carries the entry. -/
  | ulpLoopbackWrite (m : Fin 16) (p : Fin 4) (v : Fin 4)
  /-- INJ_GO (R269). A write of INJ_GO starts SINGLE or BURST error injection, or starts or stops RATE injection.
  Operands: `m`: the mailbox of the PARAM_SET that carries the entry. -/
  | injGo (m : Fin 16) (p : Fin 4) (l : Fin 8)
  /-- SENSOR_FAILED_CLEAR (R375). A write of 1 to FAILED re-admits a sensor at its next sample. Operands: `m`: the
  mailbox of the PARAM_SET that carries the entry. -/
  | sensorFailedClear (m : Fin 16) (i : Fin 29)
  /-- RING_STALLED_CLEAR (R343). A write of 1 to STALLED lets a stalled capture ring take units again. Operands:
  `m`: the mailbox of the PARAM_SET that carries the entry. -/
  | ringStalledClear (m : Fin 16) (f : Fin 8) (c : Fin 16)
  /-- RING_ENABLE (R351). A write of ENABLE to a ring record runs or stops the ring, and an enable resets its PI
  and CI. Operands: `m`: the mailbox of the PARAM_SET that carries the entry. -/
  | ringEnable (m : Fin 16) (f : Fin 8) (i : Fin 33) (on : Bool)
  /-- CAP_RP_WRITE (R303). A write of CAP_RP consumes capture buffer bytes up to a chunk boundary. Operands: `m`:
  the mailbox of the PARAM_SET that carries the entry. -/
  | capRpWrite (m : Fin 16) (v : BitVec 64)
  /-- CAPTURE_BUFFER_SET (R302). A write of CAP_BASE or CAP_SIZE sets the capture buffer and resets CAP_WP, CAP_RP
  and every CHUNK_SEQ. Operands: `m`: the mailbox of the PARAM_SET that carries the entry; `base`, `size`: the
  CAP_BASE, CAP_SIZE written, where masked. -/
  | captureBufferSet (m : Fin 16) (base size : Option (BitVec 22))
  /-- OQ_ENABLE_WRITE (R304). Setting ENABLE of an output queue resets its WP and RP. Operands: `m`: the mailbox
  of the PARAM_SET that carries the entry. -/
  | oqEnableWrite (m : Fin 16) (q : Fin 16) (on : Bool)
  /-- OQ_RP_WRITE (R304). A write of RP consumes output queue bytes. Operands: `m`: the mailbox of the PARAM_SET
  that carries the entry. -/
  | oqRpWrite (m : Fin 16) (q : Fin 16) (v : BitVec 64)
  /-- TIME_SOURCE_WRITE (R311). A write that changes SOURCE puts the wall clock into holdover. Operands: `m`: the
  mailbox of the PARAM_SET that carries the entry. -/
  | timeSourceWrite (m : Fin 16) (src : Fin 4)
  /-- RATE_ADJ_WRITE (R312). A host write of RATE_ADJ under SOURCE NONE changes the clock increment from the next
  tick. Operands: `m`: the mailbox of the PARAM_SET that carries the entry. -/
  | rateAdjWrite (m : Fin 16) (v : BitVec 32)
  /-- OWNERSHIP_WRITE (R440). A write of the ownership record moves tiles between functions and ends the residency
  of their segments. Operands: `m`: the mailbox of the PARAM_SET that carries the entry. -/
  | ownershipWrite (m : Fin 16) (value mask : BitVec 64)
  /-- MAILBOX_ASSIGN_WRITE (R331). A write of the mailbox assignment record maps mailboxes to functions and slots.
  Operands: `m`: the mailbox of the PARAM_SET that carries the entry. -/
  | mailboxAssignWrite (m : Fin 16) (value mask : BitVec 128)
  /-- DOORBELL_WRITE (R335). A write to a slot's doorbell accepts the request when BUSY is 0. Operands: `f`, `k`:
  the function and its BAR0 slot; `tag`: the value written to the doorbell; `buf`: the bytes the host has put
  into the slot's request buffer. -/
  | doorbellWrite (f : Fin 8) (k : Fin 4) (tag : BitVec 16) (buf : List (BitVec 8))
  /-- HOST_MARK (R328). Any F0 write to HOST_MARK raises source 1113. Operands: `f`: the function whose BAR0 is
  written. -/
  | hostMark (f : Fin 8)
  /-- BAR4_READ (R329). A host read through the BAR4 window reads the stream store. Operands: `offset`: byte
  offset in the window; `len`: bytes read. -/
  | bar4Read (f : Fin 8) (offset : BitVec 28) (len : Fin 4097)
  /-- BAR4_WRITE (R330). A host write through the BAR4 window seals whole blocks on entry or merges partial
  blocks. Operands: `offset`: byte offset in the window. -/
  | bar4Write (f : Fin 8) (offset : BitVec 28) (data : List (BitVec 8))
  /-- MERGE_BLOCK_TIMEOUT (R330). 10 µs after a partial block's last write, the merge buffer fills the block from
  the store, seals it and writes it. Operands: `block`: the 256-byte block of the store that the merge buffer
  holds. -/
  | mergeBlockTimeout (block : BitVec 26)
  /-- REFILL_PI_WRITE (R341). The host advances the PI of a refill ring to post descriptors. -/
  | refillPiWrite (f : Fin 8) (r : Fin 16) (pi : BitVec 32)
  /-- REFILL_DESCRIPTOR (R342). A refill descriptor is checked in order and its segment is moved through staging
  to the tile. Operands: `desc`: the descriptor as the device fetches it from host memory; `data`, `seals`:
  what stands there at HOST_ADDR and SEAL_ADDR; `poisoned`: a beat of the staging region read back poisoned. -/
  | refillDescriptor (f : Fin 8) (r : Fin 16) (desc : BitVec 256) (data : List (BitVec 8)) (seals : List (BitVec 32)) (poisoned : Bool)
  /-- SEGMENT_RESIDENT (R204). The descriptor, words and library blocks of a segment have all arrived, so the
  segment is resident and its refill descriptor is written back. -/
  | segmentResident (f : Fin 8) (r : Fin 16)
  /-- CAPTURE_PI_WRITE (R343). The host advances the PI of a capture ring to post empty buffers. -/
  | capturePiWrite (f : Fin 8) (c : Fin 16) (pi : BitVec 32)
  /-- CAPTURE_RING_FILL (R343). A capture ring moves whole frames or chunks from its source into a host buffer and
  advances RP or CAP_RP. Operands: `desc`: the empty buffer's descriptor as the device fetches it. -/
  | captureRingFill (f : Fin 8) (c : Fin 16) (desc : BitVec 256)
  /-- CAPTURE_FLUSH_TIMEOUT (R343). FLUSH_US after its first unit, a capture buffer is written back. -/
  | captureFlushTimeout (f : Fin 8) (c : Fin 16)
  /-- COMPLETION_CI_WRITE (R344). The host advances the completion ring CI and frees entries. -/
  | completionCiWrite (f : Fin 8) (ci : BitVec 32)
  /-- PCIE_FLR (R323). A Function Level Reset halts the function's run groups, disables its rings and clears its
  mailboxes. -/
  | pcieFlr (f : Fin 8)
  /-- PCIE_LINK_UP (R322). The PCIe link comes up and held responses and writebacks are delivered. Operands:
  `rate`, `width`: what the link trained to, in the codes of R347. -/
  | pcieLinkUp (rate width : Fin 3)
  /-- NUMVFS_CHANGE (R326). NumVFs changes, and the tiles, channels and mailboxes of removed functions revert to
  F0. Operands: `n`: the new NumVFs. -/
  | numvfsChange (n : Fin 8)
  /-- SYNC_EDGE (R46). A SYNC_IN edge is captured, and it is accepted while armed or counted in SYNC_EXTRA_COUNT
  otherwise. Operands: `phi`: the measured phase in 9.765625 ps steps. -/
  | syncEdge (phi : Fin 1024)
  /-- BLOCKING_STEP (R55). A Blocking trim steps by one tap toward its measured error or its written target.
  Operands: `trim`: numbered as R362; `err`: the measured error in 1/256 tap, signed. -/
  | blockingStep (g : Fin 49) (trim : Fin 48) (err : Int)
  /-- FLIT_CRC_FAIL (R11). A die-link flit fails its CRC and is replayed once. Operands: `k`: the converter die's
  link. -/
  | flitCrcFail (k : Fin 4)
  /-- FLIT_REPLAY_FAIL (R12). A replayed flit also fails, so the module is retrained and the tiles it serves void
  their shot. Operands: `k`: the converter die's link. -/
  | flitReplayFail (k : Fin 4)
  /-- DIE_LINK_RETRAIN_DONE (R12). Die-link retraining completes, and the device enters SAFE if it failed.
  Operands: `k`: the converter die's link; `ok`: the module trained. -/
  | dieLinkRetrainDone (k : Fin 4) (ok : Bool)
  /-- SHOT_START (R201). At the base SI, each tile of a run group starts a shot and the shadows, commits and
  clears that were served come into force. -/
  | shotStart (g : Fin 16)
  /-- SHOT_OVERRUN (R32). A shot reaches tick 0xFFFF_FFFF without SHOT_END and is ended as VOID. -/
  | shotOverrun (t : Fin 16)
  /-- SEGMENT_FETCH_DEADLINE (R204). At B − 64 the tile checks that the chosen successor is resident. -/
  | segmentFetchDeadline (t : Fin 16)
  /-- SWITCH_POINT (R199). At B − 40 the engine chooses the successor segment, honouring or dropping any pending
  jump request. Operands: `sealBad`: an operation or context block of the successor, or a block of a weight set that its
  windows use (R122), fails its seal when it is loaded into the engine. -/
  | switchPoint (t : Fin 16) (sealBad : Bool)
  /-- SEGMENT_BOUNDARY (R199). A segment instance ends at B and its successor begins with that tick as SEG_BASE. -/
  | segmentBoundary (t : Fin 16)
  /-- SHOT_END_BOUNDARY (R202). A run group's shot ends, CRD sets the next base, and the run ends if its count or
  LAST is reached. -/
  | shotEndBoundary (g : Fin 16)
  /-- RECORDS_PASSED (R141). Once the shot has ended and every window is decided, the tile marks VOID, seals its
  records and passes them to the capture writer. -/
  | recordsPassed (t : Fin 16)
  /-- JUMP_REQUEST (R200). A jump request from RUN_JUMP or JUMP_EVC reaches the tile island and is pending,
  deferred or dropped. -/
  | jumpRequest (t : Fin 16)
  /-- PLAY (R180). Opcode 0x01 hands a pulse to a free playback unit of the tone. Operands: `t`: the tile whose
  engine stands at the word. -/
  | play (t : Fin 16)
  /-- PLAY_PARAM (R183). Opcode 0x02 plays a pulse with AMP, PHASE and FOFS taken from its extension word.
  Operands: `t`: the tile whose engine stands at the word. -/
  | playParam (t : Fin 16)
  /-- FRAME (R184). Opcode 0x08 schedules a phase-frame or frequency update of a tone. Operands: `t`: the tile
  whose engine stands at the word. -/
  | frame (t : Fin 16)
  /-- FRAME_UPDATE_APPLY (R64). A FRAME update acts on its tone from the first sample at or after its stamp,
  unless it would leave the band. Operands: `probe`, `u`: the tone, tile-local. -/
  | frameUpdateApply (t : Fin 16) (probe : Bool) (u : Fin 16)
  /-- BIAS_SET (R90). Opcode 0x10 schedules a new LEVEL for a bias channel. Operands: `t`: the tile whose engine
  stands at the word; `transit`: how many ticks the operation takes to become usable in its bias island. -/
  | biasSet (t : Fin 16) (transit : Fin 29)
  /-- BIAS_RAMP (R90). Opcode 0x11 schedules a linear ramp of LEVEL over N bias samples. Operands: `t`: the tile
  whose engine stands at the word; `transit`: how many ticks the operation takes to become usable in its bias
  island. -/
  | biasRamp (t : Fin 16) (transit : Fin 29)
  /-- BIAS_SINE (R90). Opcode 0x12 schedules the amplitude, frequency and phase of a bias sine. Operands: `t`: the
  tile whose engine stands at the word; `transit`: how many ticks the operation takes to become usable in its
  bias island. -/
  | biasSine (t : Fin 16) (transit : Fin 29)
  /-- BIAS_OP_ACT (R89). A bias operation acts at its due bias sample and switches the predistortion set when its
  selector differs. Operands: `sealBad`: the operation's block fails its seal at the bias island. -/
  | biasOpAct (n : Fin 128) (sealBad : Bool)
  /-- BIAS_RAMP_COMPLETE (R90). A ramp reaches sample N, where LEVEL equals v. -/
  | biasRampComplete (n : Fin 128)
  /-- SINE_FADE_END (R92). A fading bias sine reaches zero 80.0 ns after its fade began. -/
  | sineFadeEnd (n : Fin 128)
  /-- ACQUIRE (R117). Opcode 0x18 arms the slot's decision input and schedules an acquisition window. Operands:
  `t`: the tile whose engine stands at the word. -/
  | acquire (t : Fin 16)
  /-- TSET (R44). Opcode 0x19 selects a timing set for pulses that start nominally at T or later. Operands: `t`:
  the tile whose engine stands at the word. -/
  | tset (t : Fin 16)
  /-- WAIT_UNTIL (R188). Opcode 0x20 in UNTIL mode holds dispatch until the shot tick reaches T. Operands: `t`:
  the tile whose engine stands at the word. -/
  | waitUntil (t : Fin 16)
  /-- WAIT_UNTIL_END (R188). The shot tick reaches T and dispatch resumes. -/
  | waitUntilEnd (t : Fin 16)
  /-- WAIT_EVENT (R188). Opcode 0x20 in EVENT mode waits on an event channel latch and sets MARK when the wait
  ends. Operands: `t`: the tile whose engine stands at the word. -/
  | waitEvent (t : Fin 16)
  /-- WAIT_EVENT_TIMEOUT (R188). A WAIT in EVENT mode times out, raises WAIT_TIMEOUT, sets MARK and continues. -/
  | waitEventTimeout (t : Fin 16)
  /-- ALIGN (R187). Opcode 0x21 sets MARK to the next multiple of GRID at or after dispatch plus LEAD. Operands:
  `t`: the tile whose engine stands at the word. -/
  | align (t : Fin 16)
  /-- BRANCH_ON_DECISION (R191). BRANCH_ON of kind DECISION waits on a slot's decision input and branches on its
  outcome. Operands: `t`: the tile whose engine stands at the word. -/
  | branchOnDecision (t : Fin 16)
  /-- BRANCH_ON_EVENT (R189). BRANCH_ON of kind EVENT waits on an event channel and branches on its payload.
  Operands: `t`: the tile whose engine stands at the word. -/
  | branchOnEvent (t : Fin 16)
  /-- BRANCH_ON_COUNTER (R189). BRANCH_ON of kind COUNTER compares CNT[c] with V and branches. Operands: `t`: the
  tile whose engine stands at the word. -/
  | branchOnCounter (t : Fin 16)
  /-- BRANCH_ON_ALWAYS (R189). BRANCH_ON of kind ALWAYS branches to index 0. Operands: `t`: the tile whose engine
  stands at the word. -/
  | branchOnAlways (t : Fin 16)
  /-- BRANCH_ON_TIMEOUT (R189). A waiting BRANCH_ON times out and takes index 3. -/
  | branchOnTimeout (t : Fin 16)
  /-- SEG (R198). Opcode 0x30 ends a segment with the next list entry as successor. Operands: `t`: the tile whose
  engine stands at the word. -/
  | seg (t : Fin 16)
  /-- LOOP (R198). Opcode 0x31 repeats the segment until N instances have played. Operands: `t`: the tile whose
  engine stands at the word. -/
  | loop (t : Fin 16)
  /-- JUMP (R198). Opcode 0x32 ends a segment with a named list entry as successor. Operands: `t`: the tile whose
  engine stands at the word. -/
  | jump (t : Fin 16)
  /-- EMIT (R192). Opcode 0x38 holds dispatch until shot tick T to raise a sequencer EMIT event. Operands: `t`:
  the tile whose engine stands at the word. -/
  | emit (t : Fin 16)
  /-- EMIT_RAISE (R192). At tick T the EMIT source is raised with its payload and hop count. -/
  | emitRaise (t : Fin 16)
  /-- BARRIER (R193). Opcode 0x39 sends the tile's arrival to CRD and waits for release. Operands: `t`: the tile
  whose engine stands at the word. -/
  | barrier (t : Fin 16)
  /-- BARRIER_RELEASE (R193). The release tick is reached, and waiting engines continue with MARK set to it.
  Operands: `g`, `b`: the run group and the barrier number. -/
  | barrierRelease (g : Fin 16) (b : Fin 1024)
  /-- BARRIER_TIMEOUT (R193). A barrier timeout expires, so CRD sends a VOID order to every engine of the run
  group. Operands: `g`, `b`: the run group and the barrier number. -/
  | barrierTimeout (g : Fin 16) (b : Fin 1024)
  /-- COUNT_SET (R190). COUNT of kind SET loads CNT[c]. Operands: `t`: the tile whose engine stands at the word. -/
  | countSet (t : Fin 16)
  /-- COUNT_ADD (R190). COUNT of kind ADD adds a signed value to CNT[c]. Operands: `t`: the tile whose engine
  stands at the word. -/
  | countAdd (t : Fin 16)
  /-- COUNT_ADD_IF (R190). COUNT of kind ADD_IF adds 1 when a slot's decision in the shot matches the outcome
  mask. Operands: `t`: the tile whose engine stands at the word. -/
  | countAddIf (t : Fin 16)
  /-- SHOT_END (R198). Opcode 0x48 ends the shot at the segment boundary, and ends the run after this shot when
  LAST is 1. Operands: `t`: the tile whose engine stands at the word. -/
  | shotEnd (t : Fin 16)
  /-- BAD_OP (R194). An undefined opcode voids the shot, the tile stands down and its runs end as under ABORT.
  Operands: `t`: the tile whose engine stands at the word. -/
  | badOp (t : Fin 16)
  /-- BURST_ISSUE (R38). A playback unit or engine issues a stamped burst toward its island no earlier than 320 ns
  before its due SI. Operands: `probe`, `u`: the tone, tile-local; `transit`: how many ticks the burst takes
  to become usable in its island (at most the transport of R39 and one replay). -/
  | burstIssue (t : Fin 16) (probe : Bool) (u : Fin 16) (transit : Fin 29)
  /-- SAMPLE_RELEASE (R34). An island releases a held sample so that it reaches the ball at its due SI. Operands:
  `sealBad`: the block that the released samples come from fails its seal at the island. -/
  | sampleRelease (ch : Channel) (sealBad : Bool)
  /-- LATE_DETECT (R36). A sample is not usable when its release lead expires, so its channel is zeroed or held
  and the shot is voided. -/
  | lateDetect (ch : Channel)
  /-- POWER_MUTE (R81). The power integrator exceeds POWER_LIMIT, so the channel mutes from the next word, MUTED
  sets and the shot is voided. -/
  | powerMute (n : Fin 64)
  /-- PARK_RAMP_DONE (R98). A park ramp reaches its target. -/
  | parkRampDone (n : Fin 128)
  /-- PARK_OSC_HANDBACK (R99). Once SCLK has returned locked and the park ramp has reached its target, the island
  hands back to SCLK in steady state. Operands: `i`: the bias island. -/
  | parkOscHandback (i : Fin 8)
  /-- COMPLIANCE_TRIP (R100). The bias output voltage leaves ±COMP_WINDOW, so COMP_LATCH sets and COMP_ACTION
  applies. Operands: `v`: the output voltage of the compliance sample, signed, in 0.1 mV. -/
  | complianceTrip (n : Fin 128) (v : BitVec 16)
  /-- OPEN_LOAD_TRIP (R101). The sensed load current stays below 5 % of OUTPUT for 1.0 µs, so OL_LATCH sets and
  OL_ACTION applies. -/
  | openLoadTrip (n : Fin 128)
  /-- WINDOW_OPEN (R117). The window's first ADC sample reaches the ball, the window opens and any requested
  snapshot starts. -/
  | windowOpen (t : Fin 16)
  /-- ADC_OVERRANGE (R111). An ADC sample at full code increments OVR_COUNT, flags the open windows and may raise
  ACQ_FAULT. Operands: `k`: the sample within the present word. -/
  | adcOverrange (t : Fin 16) (k : Fin 16)
  /-- POUNCE_EVALUATE (R137). Pounce evaluates the discriminants at a usable point and stops the window when the
  margin reaches Λ, or decides it at the last point. Operands: `u`: the acquisition tone; `i`, `q`: the point as the
  fine tuner makes it with the reference phase FTW × SI, in the scale of R116; `sealBad`: its raw samples failed their
  seal. -/
  | pounceEvaluate (t : Fin 16) (u : Fin 16) (i q : BitVec 16) (sealBad : Bool)
  /-- DECISION_READY (R140). A decision becomes ready, is offered to the slot's Hatband source and sets the
  decision input. Operands: `u`: the acquisition tone. -/
  | decisionReady (t : Fin 16) (u : Fin 16)
  /-- SNAPSHOT_DONE (R125). A snapshot completes, SNAPSHOT_DONE is raised and a SNAPSHOT chunk is formed.
  Operands: `samples`: the ADC codes of the snapshot; `sealBad`: a block of them failed its seal at the tile island. -/
  | snapshotDone (t : Fin 16) (samples : List (BitVec 12)) (sealBad : Bool)
  /-- IQ_CHUNK_FORM (R280). An IQ chunk is formed after 15 spans of 64 points, or at the shot boundary. Operands:
  `points`: for each enabled tone in ascending order, the points of 10 ns that the stream averages, each as POUNCE_EVALUATE
  takes it. -/
  | iqChunkForm (t : Fin 16) (points : List (List (BitVec 16 × BitVec 16)))
  /-- MACHINE_CHECK (R159). A microword fails parity and is re-fetched once; a second failure stops the engine.
  Operands: `addr`: the control store address; `again`: the re-fetched microword fails too. -/
  | machineCheck (e : Fin 17) (addr : BitVec 15) (again : Bool)
  /-- INTERRUPT_TAKEN (R163). An engine acts on a usable HALT, VOID or ATTN interrupt, abandoning or holding the
  instance, and runs the handlers. -/
  | interruptTaken (e : Fin 17)
  /-- MICROWORD_WAIT_TIMEOUT (R158). A WAIT microword's timeout expires, and the engine goes to FAIL. -/
  | microwordWaitTimeout (e : Fin 17)
  /-- HATBAND_ARRIVAL (R212). Events arrive at a channel in one Hatband cycle and merge into one activation,
  unless the channel is gated or cut. Operands: `n`: how many of the events waiting for the channel, oldest
  first, arrive in this Hatband cycle. -/
  | hatbandArrival (c : Fin 512) (n : Fin 10)
  /-- HATBAND_DELIVERY (R217). 4.0 ns after arrival, an activation reaches every task input bound to the channel. -/
  | hatbandDelivery (c : Fin 512)
  /-- GROUP_SWITCH (R220). An activation of a group's ON or OFF channel sets or clears its STATE from the next
  Hatband cycle. -/
  | groupSwitch (g : Fin 32)
  /-- TRIG_IN_ACCEPT (R226). A TRIG_IN input holds its active level for FILTER samples, and the edge is accepted
  or dropped as overrate. -/
  | trigInAccept (i : Fin 8)
  /-- TRIG_IN_STUCK (R226). An input that stays active for STUCK is masked and raises TRIG_FAULT. -/
  | trigInStuck (i : Fin 8)
  /-- TRIG_IN_UNMASK (R226). After 1 ms continuously inactive, MASKED clears and TRIG_FAULT is raised with P = 3. -/
  | trigInUnmask (i : Fin 8)
  /-- TRIG_OUT_PULSE_END (R226). A TRIG_OUT pulse ends after WIDTH ticks. -/
  | trigOutPulseEnd (i : Fin 8)
  /-- STORE_UNCORRECTABLE (R240). A stream store read meets an uncorrectable error, and it is re-read and classed
  transient or lasting. Operands: `beat`: the 64-byte beat of the store; `e`: what its ECC finds, a single-bit error that it
  corrects among it. -/
  | storeUncorrectable (beat : BitVec 28) (e : EccError)
  /-- LIB_PARITY_ERROR (R242). A library read meets a parity error, and it is re-read and the block retired if the
  error is lasting. Operands: `row`: the library block number; `lasting`: the re-read fails too; `playback`:
  the read served a playback unit. -/
  | libParityError (t : Fin 16) (row : BitVec 14) (lasting playback : Bool)
  /-- LANE_LOCK (R248). A lane locks after 64 consecutive valid headers. Operands: `headers`: the headers that the hunting
  lane has found since it was last told any, oldest first. -/
  | laneLock (p : Fin 4) (l : Fin 8) (headers : List (BitVec 2))
  /-- LANE_LOCK_LOSS (R249). A lane loses lock, the direction goes DOWN and LANE_LOCK_LOST and LINK_DOWN are
  raised. Operands: `headers`: the headers that the locked lane has received since it was last told any, oldest first. -/
  | laneLockLoss (p : Fin 4) (l : Fin 8) (headers : List (BitVec 2))
  /-- SUPERFRAME_START (R251). A port transmitter starts a superframe and sends the control frame in slot 0. -/
  | superframeStart (p : Fin 4)
  /-- CONTROL_FRAME_RX (R253). A control frame is received and checked, which may bring the direction UP and
  drives acknowledgement, proposals and hash checks. Operands: `headers`: the headers of the slot's 8 blocks, lane l's
  in bits [2l+1:2l]; `frame`: its payload, descrambled. -/
  | controlFrameRx (p : Fin 4) (headers : BitVec 16) (frame : BitVec 512)
  /-- DECISION_FRAME_BUILD (R255). 2.4375 ns before a DEC_FIRST slot, a decision frame is built from the latched
  streams. Operands: `slot`: the DEC_FIRST slot the frame is built for. -/
  | decisionFrameBuild (p : Fin 4) (slot : BitVec 8)
  /-- DECISION_FRAME_RX (R257). A decision frame copy becomes usable and raises DEC_RX, DEC_MISSING, partner
  barrier arrivals or VOID orders. Operands: `second`: the second copy; `headers` and `frame` as in CONTROL_FRAME_RX. -/
  | decisionFrameRx (p : Fin 4) (second : Bool) (headers : BitVec 16) (frame : BitVec 512)
  /-- BULK_CELL_RX (R262). A bulk cell is received, checked and acknowledged, or discarded with NAK. Operands: `headers`
  and `cell` as in CONTROL_FRAME_RX. -/
  | bulkCellRx (p : Fin 4) (headers : BitVec 16) (cell : BitVec 512)
  /-- BULK_ACK_TIMEOUT (R262). ACK has not advanced for 8 superframes, so the sender resends from the oldest cell. -/
  | bulkAckTimeout (p : Fin 4)
  /-- SLOT_SWAP (R265). At superframe S both ends swap slot table banks, and SLOT_SWAP_DONE is raised. -/
  | slotSwap (p : Fin 4)
  /-- SWAP_TIMEOUT (R265). No swap happens within 1,024 superframes, so SWAP_PENDING clears and SWAP_FAILED sets. -/
  | swapTimeout (p : Fin 4)
  /-- LINK_SLEEP_ENTER (R267). A transmitter enters NAP or DEEP at the superframe boundary after two notices. -/
  | linkSleepEnter (p : Fin 4)
  /-- PRBS_CHECK_ERROR (R268). The lane checker counts a bit error, and the first after each read raises
  PRBS_ERROR. -/
  | prbsCheckError (p : Fin 4) (l : Fin 8)
  /-- AUTO_JOB_RETRY (R300). An AUTO job that failed runs again once its queue has room, or once more after a
  FAULTED failure. -/
  | autoJobRetry (q : Fin 16)
  /-- FULLING_JOB_START (R292). An engine starts the next waiting job of its queues, loading the stream context if
  needed. -/
  | fullingJobStart (e : Fin 8)
  /-- FULLING_FRAME_WRITE (R293). An engine checks space and writes one frame; a frame that does not fit fails the
  job with NO_SPACE. Operands: `bad`: which input blocks of the frame, by number in the frame, fail their
  seal; `poisoned`: a source or context beat reads poisoned. -/
  | fullingFrameWrite (e : Fin 8) (bad : List Nat) (poisoned : Bool)
  /-- FULLING_JOB_COMMIT (R294). A job's last frame is written, so WP advances, the context updates, the done
  source is raised and a completion is posted. -/
  | fullingJobCommit (e : Fin 8)
  /-- COMPARE_FIRE (R313). A compare unit fires when WALL_NS reaches TARGET, and it disarms or advances by PERIOD. -/
  | compareFire (u : Fin 32)
  /-- PTP_MESSAGE_RX (R314). A PTP event or general message is received and timestamped, and it drives the offset
  measurement. -/
  | ptpMessageRx (msg : PtpMessage)
  /-- PTP_MESSAGE_TX (R314). At its interval, the port sends an Announce, Sync or Delay_Req message. -/
  | ptpMessageTx (kind : PtpKind)
  /-- FEED_QUALIFY (R365). A feed stays in range for 20 ms and the device starts from it. Operands: `mv`: the
  feed's voltage at that moment, in mV. -/
  | feedQualify (feed : Feed) (mv : BitVec 16)
  /-- FEED_DROP (R366). A feed stays out of range for 10 µs, is dropped, and FEED_A_FAIL or FEED_B_FAIL is raised.
  Operands: `mv`: the feed's voltage at that moment, in mV. -/
  | feedDrop (feed : Feed) (mv : BitVec 16)
  /-- FEED_REJOIN (R366). A dropped feed stays in range for 20 ms and rejoins. Operands: `mv`: the feed's voltage
  at that moment, in mV. -/
  | feedRejoin (feed : Feed) (mv : BitVec 16)
  /-- SHED_STAGE_ENTER (R368). The best remaining feed falls below a threshold, and that shed stage's actions
  begin. Operands: `mv`: the voltage of the best remaining feed, in mV. -/
  | shedStageEnter (mv : BitVec 16)
  /-- SHED_STAGE_RECOVER (R370). The feed stays 150 mV above a threshold for 1 ms, and the device recovers from
  that stage. Operands: `mv`: the voltage of the best remaining feed, in mV. -/
  | shedStageRecover (mv : BitVec 16)
  /-- PMBUS_PAGE (R371). PMBus PAGE selects feed A and PSA, or feed B and PSB. Operands: `addr`: the 7-bit address of the
  transfer (R434), here and in the other PMBus rows. -/
  | pmbusPage (addr : BitVec 7) (page : BitVec 8)
  /-- PMBUS_OPERATION (R371). PMBus OPERATION 0x00 orders an orderly power-off, and 0x80 restarts after a thermal
  shutdown. -/
  | pmbusOperation (addr : BitVec 7) (op : BitVec 8)
  /-- PMBUS_STATUS_READ (R371). PMBus STATUS_WORD, STATUS_INPUT or STATUS_TEMPERATURE returns the drop, voltage
  and thermal flags. Operands: `code`: 0x79, 0x7C or 0x7D. -/
  | pmbusStatusRead (addr : BitVec 7) (code : BitVec 8)
  /-- PMBUS_READ_VALUE (R371). PMBus READ_VIN, READ_IIN, READ_PIN or READ_TEMPERATURE_1 returns a LINEAR11 reading
  of the page. Operands: `code`: 0x88, 0x89, 0x97 or 0x8D. -/
  | pmbusReadValue (addr : BitVec 7) (code : BitVec 8)
  /-- SENSOR_SAMPLE (R373). The monitor ADC samples a temperature sensor, which may enter or leave a threshold
  level. Operands: `reading`: in 0.01 °C; `convFault`: the conversion faulted; `stuck`: the 2 s test of R375
  holds at this sample. -/
  | sensorSample (i : Fin 29) (reading : Int) (convFault stuck : Bool)
  /-- MON_SEQ_DONE (R383). The regular sequence ends its run and MON_SEQ_DONE is raised. Operands: `codes`: the
  code and the wall time of the conversion of each entry 0 to REG_LAST. -/
  | monSeqDone (codes : List (BitVec 14 × BitVec 64))
  /-- MON_INJ_TRIGGER (R384). An urgent trigger starts the injected sequence when the conversion in progress ends. -/
  | monInjTrigger (cause : InjCause)
  /-- MON_INJ_DONE (R384). The injected sequence ends, MON_INJ_DONE is raised and the regular sequence resumes.
  Operands: `codes`: the conversion of each entry 0 to INJ_LAST; `wall`: the wall time of the first. -/
  | monInjDone (codes : List (BitVec 14)) (wall : BitVec 64)
  /-- MON_SELF_CAL_DONE (R386). The 38 ms monitor self-calibration ends and updates MON_CAL, or fails and leaves
  it unchanged. Operands: `offsets`, `gains`: the measured factors of paths 0 to 3, in the units of R392. -/
  | monSelfCalDone (offsets : List (BitVec 16)) (gains : List (BitVec 16))
  /-- SELFTEST_DONE (R400). Self-test completes and passes to CALIBRATE, or fails to SAFE. Operands: `failed`: the
  bitmap of failed tests. -/
  | selftestDone (failed : BitVec 64)
  /-- CROWN_SELF_DIAGNOSIS (R409). Every 10 ms the core in control runs a self-diagnosis and releases control if
  it fails. -/
  | crownSelfDiagnosis (pass : Bool)
  /-- FIRST_FULL_MEASUREMENT (R58). A group's first full measurement in CALIBRATE finds every trim within 0.75
  tap, and the group completes a calibration at once without a step. Operands: `errs`: the measured error of
  each trim in 1/256 tap. -/
  | firstFullMeasurement (g : Fin 49) (errs : List Int)
  /-- PRBS_SYNC (R268). A lane's PRBS checker self-synchronises to the received pattern, and PRBS_SYNC sets. -/
  | prbsSync (p : Fin 4) (l : Fin 8)
  /-- PCS_ALIGNMENT_CHANGE (R350). The 25GBASE-R PCS gains or loses alignment, and LINK_OK follows it. -/
  | pcsAlignmentChange (ok : Bool)
  /-- BULK_CELL_TX (R262). At each BULK slot, the transmitter sends one bulk cell with data or ACK only, and a
  data cell joins the unacknowledged window. -/
  | bulkCellTx (p : Fin 4)
  /-- MODEL_FIT_DONE (R143). The deferred model fit ends, writes the centres and covariance into the model shadow
  with VALID = 1, and returns the mixture weights. Operands: `m`: the mailbox of the deferred command. -/
  | modelFitDone (m : Fin 16)
  /-- ENGINE_RESTART_DONE (R160). The re-read of the whole control store ends, and the engine either restarts or
  stays stopped with FAULTED. Operands: `bad`: the first control store address that fails the re-read. -/
  | engineRestartDone (e : Fin 17) (bad : Option (BitVec 15))
  /-- SYSTEM_RESET_HOLD_END (R407). After a SYSTEM_RESET has held RESET for 10 µs, BOOT begins. -/
  | systemResetHoldEnd
  /-- PATCH_SWAP (R171). Once all 17 engines have stopped, the patch RAM and the match registers change together
  and the engines resume. -/
  | patchSwap
  /-- PATCH_WAIT_EXPIRY (R171). PATCH_WAIT expires before every engine has stopped, so the engines resume
  unchanged and the patch is discarded. -/
  | patchWaitExpiry
  /-- BAR4_SELF_REFRESH_TIMEOUT (R329). A BAR4 access that has waited 1 ms on self-refresh completes with
  Completer Abort, or is discarded if it is a write. -/
  | bar4SelfRefreshTimeout
  /-- PCIE_HOT_RESET (R323). A hot reset or link-down reset acts as an FLR of every function. -/
  | pcieHotReset
  /-- PERST_ASSERT (R407). PERST# resets only the host interface. -/
  | perstAssert
  /-- PCIE_LINK_DOWN (R322). The PCIe link goes down, PCIE_LINK_DOWN is raised, responses are held and runs
  continue. -/
  | pcieLinkDown
  /-- REMOTE_DATAGRAM_TX (R346). A UDP datagram of queue data leaves the 25GBASE-R port, and RP advances. -/
  | remoteDatagramTx
  /-- REFCLK_LOSS (R29). REFCLK is lost, REFCLK_OK and PLL_LOCK clear, and the device enters SAFE. -/
  | refclkLoss
  /-- PLL_LOCK (R29). The SCLK PLL acquires lock, SI starts counting and the wall clock starts. -/
  | pllLock
  /-- PLL_LOCK_LOSS (R29). The SCLK PLL loses lock, SI_VALID clears and the device enters SAFE with cause 0x0010. -/
  | pllLockLoss
  /-- SI_EPOCH (R48). Two REFCLK periods after the accepted capture edge, adjusted by EPOCH_ADJ, SI becomes 0 and
  SI_VALID sets. -/
  | siEpoch
  /-- SYNC_OUT_TRAINING_PULSE (R51). In TRAINING mode, SYNC_OUT sends a pulse every 1,024 REFCLK periods. -/
  | syncOutTrainingPulse
  /-- BIAS_SUPPLY_FAULT (R105). The bias supply leaves regulation, and the 50 Ω path engages within 100 ns. -/
  | biasSupplyFault
  /-- STORE_EMERGENCY_TAKE (R236). The refresh and patrol controller takes the data path for at most 32 cycles. -/
  | storeEmergencyTake
  /-- SCRUB_PASS_DONE (R236). A patrol pass over the store completes, and SCRUB_PASS_DONE is raised. -/
  | scrubPassDone
  /-- SELF_REFRESH_ENTER (R237). Once the grant in progress ends, the stream store enters self-refresh and the
  arbiter stops granting. -/
  | selfRefreshEnter
  /-- CHUNK_WRITTEN (R276). A chunk's last block is written, CAP_WP advances, and a DECISION chunk raises
  RECORD_BLOCK_READY. -/
  | chunkWritten
  /-- PPS_IN_EDGE (R315). A PPS_IN edge is stamped and raises source 867, acquiring time when due. -/
  | ppsInEdge
  /-- PPS_MISSING (R311). No PPS_IN edge comes within 1.1 s, so PPS_MISSING is raised and the clock enters
  holdover. -/
  | ppsMissing
  /-- PPS_OUT_RISE (R315). PPS_OUT rises in the first tick at or past a whole second. -/
  | ppsOutRise
  /-- PPS_OUT_FALL (R315). PPS_OUT falls after PPS_WIDTH ms. -/
  | ppsOutFall
  /-- PTP_ANNOUNCE_TIMEOUT (R311). No Announce comes within the receipt timeout, so the clock enters holdover. -/
  | ptpAnnounceTimeout
  /-- ULP_TIME_MEASURE (R316). Every 2,048 superframes Jutan measures the offset from a partner's TIME field and
  adjusts RATE_ADJ. -/
  | ulpTimeMeasure
  /-- RAILS_IN_REGULATION (R397). The rails reach regulation, BOOT begins and the loader starts. -/
  | railsInRegulation
  /-- PMBUS_REVISION (R371). PMBus PMBUS_REVISION returns 0x44. -/
  | pmbusRevision (addr : BitVec 7)
  /-- THROTTLE_STEP_CHANGE (R377). After a full THROTTLE_DWELL, the throttle step rises or falls at the next shot
  boundary. -/
  | throttleStepChange
  /-- ANALOG_TRIP (R379). A die comparator reaches 125 °C and stops every power stage within 10 µs. -/
  | analogTrip
  /-- POWER_RESTART (R378). Both feeds have been out of range for 100 ms, so a thermal or analog latch releases
  and the device may start again. -/
  | powerRestart
  /-- MON_REG_TRIGGER (R383). A TIMER, EVENT or PULSE_WIDTH trigger starts the regular sequence after START_DELAY,
  or is counted as dropped. -/
  | monRegTrigger
  /-- IMAGE_AUTHENTICATED (R398). The loader finishes reading and verifying a boot image, Jutan starts and
  SELFTEST begins, or SAFE in recovery form if none passes. -/
  | imageAuthenticated
  /-- CALIBRATE_COMPLETE (R401). Every group 0–47 has completed a calibration, or 50 ms has passed, so the device
  enters PARKED. -/
  | calibrateComplete
  /-- HEARTBEAT_TIMEOUT (R409). No heartbeat has come for 200 µs, so the standby core takes control. -/
  | heartbeatTimeout
  /-- CROWN_TAKEBACK (R410). A released core passes its once-a-second self-test and takes control back. -/
  | crownTakeback
  /-- CROWN_WATCHDOG (R411). Neither core has held control for 10 ms, so bias ramps to 0 and the device enters
  RESET. -/
  | crownWatchdog
  /-- RESET_N_ASSERT (R407). RESET_N has been low for 1.0 µs, so the device enters RESET and the bias DACs
  disconnect. -/
  | resetNAssert
  /-- RESET_N_RELEASE (R407). RESET_N rises and BOOT begins. -/
  | resetNRelease
  /-- ERROR_LOG_TAKE (R413). The log takes the report at the head of the intake queue, making a new entry,
  coalescing it or dropping it. -/
  | errorLogTake
  /-- REFCLK_PRESENT (R29). REFCLK returns at the input, and REFCLK_OK sets whatever PLL_LOCK reads. -/
  | refclkPresent
  /-- SYNC_OUT_PULSE_END (R51). A SYNC_OUT pulse ends after 4 REFCLK periods, 40.0 ns. -/
  | syncOutPulseEnd
  /-- FEED_OVER_VOLTAGE (R366). Both feeds lie above 13.2 V, and the device performs the actions of shed stage 6. -/
  | feedOverVoltage
  /-- FEEDS_BELOW_5V (R403). Both feeds fall below 5.0 V, so the power stages forget the held reset cause, and the
  next BOOT reports 0x0000. -/
  | feedsBelow5v
  /-- PERST_RELEASE (R397). PERST# is released, and PCIe training begins once the rails are in regulation. -/
  | perstRelease
  /-- IMAGE_FLASH_WRITTEN (R357). After the last part has authenticated, the flash write of the image completes,
  and the deferred IMAGE_WRITE returns. -/
  | imageFlashWritten
deriving DecidableEq, Repr

end Sys2Proof
end

