-- ==== Sys2Proof/Decode.lean ====
section
/-! DEFINITION. The decoder. The NX256 fetches no instructions, and no row of its operation table has bits (R354: a
command is named by the code in its request), so no word spells a command. -/

namespace Sys2Proof

/-- The command that a word of `nbits` bits spells by the table: none. -/
def decodeTableWord (_nbits _w : Nat) : Option Instr := none

end Sys2Proof
end

