-- ==== Sys2Proof/Config.lean ====
section
/-! DEFINITION. What one implementation fixes and the manual leaves open. Every free value is an opaque
constant: nothing in Lean can evaluate it or prove anything about its value, so a claim that holds of the
model holds whatever the hardware produces. The plain definitions are figures of the manual. -/

namespace Sys2Proof.Config

/-! ### Free values -/

/-- ROM_ID, "fixed" (R172). -/
opaque romId : BitVec 32
/-- The serial number that SYS_INFO returns (R353). -/
opaque serialNumber : BitVec 64
/-- Whether an ECDSA P-384 signature verifies and the key hash equals the fused one (R169, R398): both
rest on a fused key that the manual does not give. -/
opaque signatureGood : List Byte → Bool
/-- The microwords of the ROM (R154): their contents are not given. -/
opaque romWord : Nat → BitVec 128
/-- The issue queue and the handshake latch that a microword's AUX names, and whether a reserved wait condition holds at a
tick (R156): the numbers and the reserved conditions are not given. -/
opaque issueQueue : Nat → Nat
opaque handshake : Nat → Nat
opaque reservedCondition : Nat → Nat → Bool
/-- Whether a result that falls between two units of its scale takes the upper one, from the numerator and the
denominator of its exact value: the manual states no rounding (R68, R88, R93 to R95). A result that is a whole number of
units is exact. -/
opaque roundUp : Int → Nat → Bool
/-- The phasor at `num ÷ den` of a turn, in units of 2⁻³⁰ (R62, R68). A quarter turn is exact and does not come here. -/
opaque phasor : Nat → Nat → Int × Int
/-- The interpolator's response to one envelope sample at a distance in sixteenths of an SCLK sample on either side of
its instant, in units of 2⁻³⁰ (R70, R71): full weight at distance 0 and none beyond 4 envelope samples do not come here. -/
opaque impulse : Nat → Int
/-- The entries of the bias sine's table (R93), in units of 2⁻²⁴. -/
opaque sineEntry : Nat → Int
/-- What the bias chain makes of a value beyond its 40 bits (R94). -/
opaque overflow40 : Int → Int
/-- What the single-precision evaluation of a discriminant's signal part deviates from its exact value by before its last
rounding: the order of evaluation is not given (R135). Arguments: a and b, the state's centre, the model's covariance bits
and the scaled running sum; the state's number is none of them. -/
opaque discrDeviation : Rat → Rat → Rat × Rat → Nat → Int → Int → Rat
/-- The same of a residual (R144). -/
opaque residDeviation : Rat → Rat → Rat × Rat → Nat → Int → Int → Rat
/-- Jutan's fit of a Gaussian mixture (R143): from the histogram's configuration and bins, the number of states and the
starting centres, the six centres, σ_I, σ_Q, ρ, three weights, iterations and mean log-likelihood. -/
opaque fit : List Nat → Nat → List Int → List Int
/-- The DEFLATE stream that an engine makes of a frame's input with its preset window (R286): RFC 1951
admits many. -/
opaque deflate : List Byte → List Byte → List Byte
/-- The inflated form of a block-mode payload (R299): what RFC 1951 gives for a stream, none where it is
none. -/
opaque inflate : List Byte → Option (List Byte)
/-- Jutan's servo: the RATE_ADJ after a measurement, from the one in force and the offset (R309). -/
opaque servo : Int → Int → Int
/-- What is measured at a tick (R387): the voltage of feed A and B in mV (0, 1), their currents in mA (2, 3),
the input power in mW (4), and its share at each feed (5, 6). -/
opaque analogue : Nat → Nat → BitVec 32
/-- The PMBus LINEAR11 word of a value in thousandths of its unit (R371): LINEAR11 admits several. -/
opaque linear11 : Int → BitVec 16
/-- The lane settings that the board profile of boot flash holds, and whether its seal is good (R250, R399). -/
opaque boardProfile : Nat → BitVec 22
opaque profileSealGood : Bool
/-- The Jutan version that SYS_INFO returns while no image runs (R353, R406). -/
opaque loaderVersion : BitVec 32
/-- The regular entry that the monitor ADC begins next during a run, at a tick (R384, R390): what housekeeping takes of
its conversions is open. -/
opaque regPos : Nat → Nat
/-- The levels of the balls SMB_ADDR[1:0] (R434), which the board sets. -/
opaque smbAddr : BitVec 2
/-- The level at TRIG_IN ball `i` at a tick after the last edge that the model was told of (R226). -/
opaque pinLevel : Nat → Nat → Bool
/-- The bytes that a failed job has left beyond WP, or that a spare row holds: undefined (R242, R294). -/
opaque freeByte : Nat → Byte
/-- A fresh value of a measurement that the model's commands do not carry, drawn by a counter. -/
opaque freeWord : Nat → BitVec 64

/-! ### Figures of the manual -/

/-- WCLK ticks in 1 ms, 1 µs and 1 s (R28). -/
def ticksPerUs : Nat := 800
def ticksPerMs : Nat := 800000
def ticksPerS : Nat := 800000000
/-- INC of the wall clock without RATE_ADJ (R306): 1.25 ns in units of 2⁻³² ns. -/
def wallInc : Nat := 0x140000000
/-- The release lead in ticks and samples (R35). -/
def releaseLead : Nat := 8
/-- The lookahead in ticks (R38, R180). -/
def lookahead : Nat := 256
/-- The switch point and the fetch deadline before a boundary, in ticks (R199, R204). -/
def switchLead : Nat := 40
def fetchLead : Nat := 64
/-- A barrier's release after its last arrival, in ticks (R193). -/
def barrierLead : Nat := 48
/-- A superframe in units of 1/64 ns and the limits of R262 and R265, in superframes. -/
def superframeSlots : Nat := 256
def bulkAckSuperframes : Nat := 8
def swapSuperframes : Nat := 1024
/-- The Jutan region's size in bytes and the store's (R232). -/
def jutanRegion : Nat := 0x10000000
def storeBytes : Nat := 0x400000000

end Sys2Proof.Config
end

