-- ==== Sys2Proof/Machine/State.lean ====
section
/-! DEFINITION. The state of the NX256 as plain data, the state after reset, and the reasons a step can
stop. A register that the manual numbers as a record is held as that record's image (`records`), because
software reads and writes it whole (R338); everything else the manual gives the device has a field of its
own. Instants are counted in WCLK ticks (`clock.now`) or in SCLK samples (`clock.si`). -/

namespace Sys2Proof.Machine

/-- A sparse store: pairs of key and value, keys strictly rising, no value equal to the default. -/
abbrev SMap (α : Type) := List (Nat × α)

/-- The eight modes (R353), in the order of their codes. -/
inductive Mode where
  | reset
  | boot
  | selftest
  | calibrate
  | parked
  | run
  | survey
  | safe
deriving DecidableEq, Repr

/-- The status codes of R334, in the order of their codes. -/
inductive Status where
  | ok
  | busy
  | badCommand
  | badRecord
  | badValue
  | notOwner
  | guarded
  | refusedMode
  | refusedActive
  | noSpace
  | sealMismatch
  | timeout
  | faulted
deriving DecidableEq, Repr

/-- What the device sends out during one command. It is what an observer outside sees of that command. -/
inductive Output where
  /-- a Hatband source is raised, with payload P, flag F and hop count H (R210) -/
  | source (src p f h : Nat)
  /-- an MSI-X vector of a function is signalled (R345) -/
  | msix (f vector : Nat)
  /-- the device writes host memory: a ring writeback, a completion entry or a capture unit -/
  | hostWrite (f : Nat) (addr : Nat) (data : List Byte)
  /-- a read completion on PCIe, with the EP bit -/
  | completion (data : List Byte) (poisoned : Bool)
  /-- Unsupported Request -/
  | unsupported
  /-- Completer Abort -/
  | completerAbort
  /-- a write discarded and logged through AER (R329) -/
  | aer
  /-- a UDP datagram on the 25GBASE-R port (R346) -/
  | datagram (data : List Byte)
  /-- a PTP message on the 25GBASE-R port -/
  | ptp (kind : PtpKind) (wallNs : Nat)
  | ptpFollowUp (originNs : Nat)
  | ptpDelayResp (receiveNs : Nat)
  /-- a PMBus reply (R371) -/
  | pmbus (value : Nat)
  /-- a slot sent on a Uluforam port (R247, R251): its header, its 512 payload bits, and the 66-bit blocks that carry
  them on lanes 0 to 7, header in bits [1:0], with what error injection flips (R269) -/
  | ulpSlot (p header payload : Nat) (blocks : List Nat)
  /-- the same in loopback (R270): the port's own receiver has it, and the balls carry electrical idle -/
  | ulpLoop (p header payload : Nat) (blocks : List Nat)
  /-- the code of a record write that stands alone as a command -/
  | writeStatus (s : Status) (detail : Nat)
  /-- the codes of one word at a DAC: 16 of an XY or probe channel, 2 of a bias channel -/
  | samples (ch : Channel) (codes : List Int)
  /-- the level that an output ball takes: SYNC_OUT from a tick on, a later one withdrawing what an earlier one said of
  the ticks to come; PPS_OUT or TRIG_OUT at once -/
  | syncOut (high : Bool) (tick : Nat)
  | ppsOut (high : Bool)
  | trigOut (i : Nat) (high : Bool)
deriving DecidableEq, Repr

/-- The clocks and what hangs on them (R28 to R53, R306 to R316). -/
structure Clock where
  /-- WCLK ticks that have passed; the model's own measure of time, never reset -/
  now : Nat
  /-- the sample index SI (R30) -/
  si : Word64
  /-- WALL_NS and WALL_FRAC (R306) -/
  wallNs : Word64
  wallFrac : Word32
  /-- the wall clock has started at a PLL lock (R307) -/
  wallStarted : Bool
  /-- an accepted SYNC edge: the tick at which SI becomes 0 (R48) -/
  epochAt : Option Nat
  /-- an edge has been accepted since the last arm (R50) -/
  edgeAccepted : Bool
  /-- SYNC_OUT is high until this tick (R51) -/
  syncOutUntil : Option Nat
  /-- the tick of the last TRAINING pulse (R51) -/
  lastTraining : Option Nat
  /-- the second that the next PPS_IN edge marks (R315) -/
  timeOfDay : Option Word64
  /-- the tick of the last PPS_IN edge (R311) -/
  ppsLast : Option Nat
  /-- PPS_OUT is high until this tick, and the last second it marked (R315) -/
  ppsOutUntil : Option Nat
  ppsOutSecond : Option Nat
  /-- consecutive offsets within LOCK_WINDOW (R310) -/
  lockRun : Nat
  /-- the PTP port (R314): state as IEEE 1588-2019 numbers it, the selected master and the measurements -/
  ptpState : Nat
  ptpMaster : Option (Nat × Nat × Nat)
  ptpSteps : Nat
  ptpLastAnnounce : Nat
  ptpSyncRx : Option (Nat × Nat)
  ptpAwaitFollowUp : Bool
  ptpDelayTx : Option Nat
  ptpOffset : Word64
  ptpPathDelay : Nat
  ptpLastTx : List (PtpKind × Nat)
  /-- the TIME field last used of the followed partner, with the wall time of the same superframe, and the
  control frames since then that carried no valid one (R311, R316) -/
  ulpTime : Option (Nat × Nat)
  ulpTimeMissing : Nat
  ulpLastMeasure : Nat
  /-- the wall time, in units of 2⁻³² ns, at the start of each port's transmit superframe and of the one before
  (R316) -/
  frameWall : SMap (Nat × Nat)
deriving DecidableEq, Repr

/-- Blocking (R54 to R58). Trims are keyed 64 × group + trim. -/
structure Blocking where
  taps : SMap Nat
  /-- written targets, 0xFFFF for none (R55) -/
  targets : SMap Nat
  /-- trims that are stepping toward their measured error -/
  stepping : SMap Bool
  /-- the last measured error of each trim that has been measured, in 1/256 tap, signed -/
  errors : SMap Int
  /-- groups that have stepped since their last completion, and the tick of each group's last step -/
  stepped : SMap Bool
  lastStep : SMap Nat
  /-- the shot base at which a trim last stepped (R56: at most once at each boundary), and the tick of its last step
  (R55: one tap a step) -/
  stepBase : SMap Nat
  trimStep : SMap Nat
  /-- groups that have completed a calibration since CALIBRATE was entered (R401) -/
  calDone : List Nat
  /-- throttle step 1 in force for a tile in an active run: its steps are deferred (R377) -/
  deferred : SMap Bool
deriving DecidableEq, Repr

/-- One stretch of a tone's phase: from sample `start` on, the accumulator is
`acc + ftw × (SI − start)` and the frame is `frame` (R62). `before` is the accumulator at the sample before
`start`, which a CONTINUOUS change at `start` goes on from (R65, R66). -/
structure PhaseSeg where
  start : Nat
  before : Nat
  acc : Nat
  ftw : Nat
  frame : Nat
deriving DecidableEq, Repr

/-- A FRAME operation on its way to its tone (R64, R184), with the shot's base and its nominal tick and sample offset,
from which a later TSET places it anew (R44). -/
structure FrameUpdate where
  due : Nat
  base : Nat
  tick : Nat
  offs : Nat
  setFreq : Bool
  setFrame : Bool
  /-- ABSOLUTE rather than CONTINUOUS -/
  absolute : Bool
  ext : Nat
deriving DecidableEq, Repr

/-- A pulse in a playback unit (R68, R180, R183): sample 0 stands at sample `start` of the grid whose sample 0
is at `grid`, in sixteenths of an SCLK sample. `base` is its shot's base; `tick`, `offs`, `frac` and `dflt` are its nominal start, the fraction and the timing set of its context
(R33, R44), and `placed` its placed instant in sixteenths of a sample. `ready` is the half tick at which its first row
has been read (R231). -/
structure Pulse where
  base : Nat
  tick : Nat
  offs : Nat
  frac : Nat
  dflt : Nat
  placed : Nat
  ready : Nat
  libPtr : Nat
  libLen : Nat
  length : Nat
  amp : Nat
  phase : Nat
  fofs : Int
  grid : Nat
  start : Nat
deriving DecidableEq, Repr

/-- A burst of up to 32 envelope samples with its due stamp (R34). `usable` is the SI at which it is usable in
its island, none while its die link is being retrained; `blocks` the library blocks that each sample comes from. -/
structure Burst where
  due : Nat
  frac : Nat
  usable : Option Nat
  blocks : List (List Nat)
  samples : List (Int × Int)
deriving DecidableEq, Repr

/-- An envelope grid of a tone (R69): the SI of grid sample 0, the fraction, the next sample to issue, and the
sample after the last one of its pulses. -/
structure Grid where
  origin : Nat
  frac : Nat
  next : Nat
  stop : Nat
deriving DecidableEq, Repr

/-- A drive or probe tone at work; the grids in order of time. -/
structure Tone where
  segs : List PhaseSeg
  updates : List FrameUpdate
  units : List Pulse
  grids : List Grid
  bursts : List Burst
deriving DecidableEq, Repr

/-- Why an XY or probe channel outputs zero (R36, R23, R242, R203). -/
inductive ZeroCause where
  | late
  | badSeal
  | parity
  | standDown
deriving DecidableEq, Repr

/-- A value `num ÷ 2^exp`: the power integrator I, held exactly (R80). -/
structure Frac where
  num : Nat
  exp : Nat
deriving DecidableEq, Repr

/-- XY and probe synthesis. Tones are keyed 16t + u for drive and 256 + 16t + u for probe; channels n for
DRV[n] and 64 + t for PRB[t]. -/
structure Drive where
  tones : SMap Tone
  /-- zeroed channels, the cause, and the SI from which the output is zero -/
  zeroed : List (Nat × ZeroCause × Nat)
  /-- channels that have clipped in the segment in progress (R79) -/
  clipped : List Nat
  /-- requested clears of MUTED, with the SI at which each was served (R82) -/
  muteClear : SMap (List Nat)
  /-- the power integrator, and Σ x² of the word just released (R80) -/
  power : SMap Frac
  wordPower : SMap Nat
  /-- the committed matrix rows in force, by record identifier (R78), and the SI at which a tile's pending commit was
  served -/
  matrix : SMap Nat
  matrixCommit : SMap Nat
  /-- the values z that a drive tone's channel has released: the SI of each of the last words and its 16 values, newest
  first (R74: matrix rows delay them by up to 31 samples) -/
  released : SMap (List (Nat × List (Int × Int)))
  /-- the SI at which the last burst or bias operation of a tile was usable in its RF island (key t) and its bias island
  (16 + t): a crossing does not reorder (R15) -/
  arrived : SMap Nat
deriving DecidableEq, Repr

/-- What a bias operation does (R90). -/
inductive BiasAct where
  | level (v : Int)
  | ramp (v : Int) (n : Nat)
  | sine (amp ftw phase : Nat)
deriving DecidableEq, Repr

/-- A bias operation on its way to its channel (R89). `issued` is the SI at which its burst leaves the tile (R38),
`late` that R36 has judged it; `base`, `tick` and `dflt` are its shot's base, its nominal tick and the timing set of its
context (R44); `seg` is the SI at which its segment instance begins and `segId` that segment (R104); `block` the block
of operation memory that it came in (R23). -/
structure BiasOp where
  due : Nat
  issued : Nat
  usable : Option Nat
  late : Bool
  base : Nat
  tick : Nat
  dflt : Nat
  seg : Nat
  segId : Nat
  block : Nat
  pd : Nat
  act : BiasAct
deriving DecidableEq, Repr

/-- A ramp of LEVEL (R90): from `l0` at the sample before bias sample `start` to `v` over `n` samples. Bias samples are
counted in half ticks of the tick count, which neither an epoch nor a PLL lock sets back. -/
structure Ramp where
  l0 : Int
  v : Int
  n : Nat
  start : Nat
deriving DecidableEq, Repr

/-- A park ramp (R98): from `l0` at half tick `start` toward `target` at the PARK_SLEW `slew`; `connect` is false where
the 50 Ω path engages at its end. -/
structure ParkRamp where
  l0 : Int
  target : Int
  start : Nat
  slew : Nat
  connect : Bool
deriving DecidableEq, Repr

/-- A bias sine (R93), and the half tick from which it fades (R92). -/
structure Sine where
  amp : Nat
  ftw : Nat
  phase : Nat
  fade : Option Nat
deriving DecidableEq, Repr

/-- Why LEVEL is frozen (R102, R104, R105). -/
inductive HoldCause where
  | segment
  | standDown
  | latched
deriving DecidableEq, Repr

/-- What the operations of a bias channel command (R90, R93, R96): LEVEL in units of 2⁻¹⁶ code, a ramp of it, the sine
and the predistortion set. -/
structure Commanded where
  level : Int
  ramp : Option Ramp
  sine : Option Sine
  pdSet : Nat
deriving DecidableEq, Repr

/-- A bias channel. LEVEL and the chain's values are in units of 2⁻¹⁶ code (R88, R94). -/
structure Bias where
  cmd : Commanded
  /-- what was commanded before the half tick at which an operation of this tick acted: the tick's first sample may
  come before it (R89), and a ramp begins from the sample before (R90) -/
  was : Option (Nat × Commanded)
  park : Option ParkRamp
  /-- states of the IIR sections, and the FIR inputs of the samples before, newest first (R94, R95) -/
  iir : List Int
  fir : List Int
  holds : List HoldCause
  /-- where a segment hold stands, the SI at which that segment instance begins: its later operations are discarded
  (R104); the segment in which LATE has been reported (R36) -/
  heldSeg : Option Nat
  lateSeg : Option Nat
  ops : List BiasOp
  /-- requested clears of COMP_LATCH (bit 0) and OL_LATCH (bit 1), each with the SI at which it was served -/
  latchClear : List (Nat × Nat)
  /-- |OUTPUT| has been 328 codes or more, with OL_LATCH clear, without a break since this tick (R101) -/
  openSince : Option Nat
  /-- on the island's park oscillator since this tick (R99) -/
  parkOsc : Option Nat
  /-- the 50 Ω path is engaged whatever OUT_ENABLE says (R105) -/
  sink : Bool
deriving DecidableEq, Repr

/-- An ACQUIRE that waits for its first sample, or its open window (R117 to R121), with what its shot's base
brought into force: the model, the histogram configuration, INT_SHIFT, and the weight set with its progress
table. -/
structure Window where
  slot : Nat
  tone : Nat
  /-- the reference index W and OFS_ACQ in samples -/
  w : Int
  ofs : Int
  len : Nat
  snap : Bool
  pounce : Nat
  model : Nat
  hist : Nat
  shift : Nat
  /-- what the demodulation reference turns a point by that was demodulated against FTW × SI, in units of 2⁻⁴⁸ of a turn
  (R115) -/
  turn : Nat
  weights : SMap Nat
  /-- the run's shot number, and the SI of the shot's SHOT_END tick once it cuts the window off -/
  shot : Nat
  cutAt : Option Int
  /-- which ACQUIRE of the tile's shot made it (R191) -/
  serial : Nat
  points : Nat
  sumI : Int
  sumQ : Int
  /-- the first overrange sample in its spans (R111) -/
  ovrAt : Option Nat
  sat : Bool
  sealBad : Bool
  ordinal : Nat
  /-- later ACQUIRE operations discarded while this window was open (R119) -/
  overlaps : Nat
  /-- the decision once made: outcome, LOW_CONF, EARLY, STOP_INDEX, MARGIN, MODEL_INVALID -/
  decided : Option (Nat × Bool × Bool × Nat × Nat × Bool)
  /-- floor(64 × r) and whether r is 13.8125 or more, of a check window (R144) -/
  resid : Option (Nat × Bool)
deriving DecidableEq, Repr

/-- The records of one shot of a tile until they are passed (R141). -/
structure ShotLog where
  shot : Nat
  base : Nat
  wall : Nat
  void : Bool
  ended : Bool
  /-- the shot's records go to a DECISION chunk (R279) -/
  keep : Bool
  /-- the slots whose windows have opened, one entry a window -/
  opened : List Nat
  /-- decision records, 128 bits each, oldest first -/
  recs : List Nat
  /-- pending histogram points: slot, I, Q and the configuration they are binned under (R127) -/
  points : List (Nat × Int × Int × Nat)
  /-- pending residuals: slot, floor(64 r), outlier (R144) -/
  resids : List (Nat × Nat × Bool)
deriving DecidableEq, Repr

/-- The snapshot that a tile takes (R125): its first sample, its length in units of 256 samples, the event that
caused it, and the shot it falls in. `event` says that an event on SNAP_EVC asked for it. -/
structure Snapshot where
  start : Nat
  event : Bool
  len : Nat
  cause : Option (Nat × Nat)
  shot : Nat
  base : Nat
  wall : Nat
deriving DecidableEq, Repr

/-- The IQ recording of one shot of a tile (R280): the tones in it, what the demodulation reference turns the points of
each by (R115), the decimation, the index of the next point, and the SI at which it stops once that is known. -/
structure IqRun where
  shot : Nat
  base : Nat
  wall : Nat
  decim : Nat
  mask : Nat
  turns : List Nat
  ofs : Int
  next : Nat
  stop : Option Nat
deriving DecidableEq, Repr

/-- The acquisition of one tile. -/
structure Acq where
  waiting : List Window
  windows : List Window
  shots : List ShotLog
  snapshot : Option Snapshot
  /-- an overrange sample of this shot has raised ACQ_FAULT (R128) -/
  overranged : Bool
  /-- the IQ recordings that are not complete, oldest first -/
  iq : List IqRun
deriving DecidableEq, Repr

/-- Readout: per-tile acquisition, histogram bins (4096 × slot + 64i + q), weight sets and progress tables
(3200 × (32t + set) + word: 1,600 weights, then 1,600 entries), active and shadow. -/
structure Readout where
  acq : SMap Acq
  bins : SMap Nat
  weights : SMap Nat
  weightShadow : SMap Nat
  /-- the SI at which each pending commit of a weight set, and each pending CLEAR of a histogram, was served -/
  weightCommit : SMap (List Nat)
  histClear : SMap (List Nat)
  /-- DEC_REC and IQ_REC in force for a tile, and whether the capture of SURVEY is (R279) -/
  capture : SMap (Bool × Bool × Bool)
  surveyStep : SMap Nat
deriving DecidableEq, Repr

/-- One engine (R148 to R171): what its status record does not hold. -/
structure Engine where
  /-- an instance waits before its commit; how often it has been abandoned; an interrupt has been deferred by
  the guard (R163, R165) -/
  inst : Bool
  abandoned : Nat
  held : Bool
  /-- the pending latches of R162; ATTN inputs by number -/
  haltPending : Bool
  voidPending : Bool
  attnPending : List Nat
  /-- dispatch stands still for a pending patch since this tick (R171) -/
  patchStop : Option Nat
  /-- the tick in which the present wait began, and that in which its present instance began (R158: a wait that ends
  with REPEAT goes on in a new instance) -/
  waitSince : Option Nat
  microSince : Nat
  /-- the register file (R149): 256 registers of 64 bits -/
  regs : SMap Nat
deriving DecidableEq, Repr

/-- A segment descriptor as the tile keeps it (R196, R204). -/
structure Segment where
  opAddr : Nat
  opWords : Nat
  len : Nat
  libFirst : Nat
  libBlocks : Nat
  resident : Bool
deriving DecidableEq, Repr

/-- A jump request (R200). -/
structure Jump where
  entry : Nat
  hops : Nat
  evc : Option Nat
  deferred : Bool
deriving DecidableEq, Repr

/-- The run of one tile: what its run status record does not hold (R187 to R206). -/
structure TileRun where
  group : Option Nat
  /-- the base SI of the shot in play, or of the coming shot once the engine has begun on it -/
  base : Nat
  /-- the shot has started; the engine has begun on the coming shot (R199, R204: before its base) -/
  inShot : Bool
  prepared : Bool
  segBase : Nat
  /-- words of the segment in play, or of the successor once it is chosen -/
  pc : Nat
  /-- instances of the segment played, this one included -/
  instances : Nat
  /-- the end word has been dispatched -/
  ended : Bool
  /-- the switch point has been passed: the chosen list entry, none where the shot ends -/
  chosen : Option (Option Nat)
  chosenSeg : Option Nat
  chosenHops : Option (Nat × Nat)
  jump : Option Jump
  /-- RUN_JUMP and JUMP_EVC requests on their way -/
  jumps : List Jump
  mark : Nat
  tsets : List (Nat × Nat)
  latches : List (Nat × Nat × Nat × Nat)
  /-- decision inputs: slot, the ACQUIRE that armed it, and outcome with LOW_CONF once set (R191) -/
  inputs : List (Nat × Nat × Option (Nat × Bool))
  /-- ACQUIRE operations issued in the shot -/
  acquires : Nat
  /-- decisions of the shot: slot and outcome (R190) -/
  decisions : List (Nat × Nat)
  /-- H and channel of the last event whose wait ended in the shot (R223) -/
  lastHop : Option (Nat × Nat)
  /-- an EMIT that waits for its tick: T, k, payload -/
  emitAt : Option (Nat × Nat × Nat)
  /-- a WAIT UNTIL that waits for its tick -/
  untilTick : Option Nat
  barrier : Option Nat
  /-- the tick at which the tile stood down (R203) -/
  stoodDown : Option Nat
  voided : Bool
  /-- LAST of the SHOT_END that ended the tile's shot -/
  last : Bool
  /-- the tick of the tile's shot end boundary -/
  endTick : Option Nat
  /-- the fetch check of the coming instance has been made -/
  fetched : Bool
  /-- the check of the coming shot's first segment, made before the shot in play has ended (R204): it was resident -/
  first : Option Bool
  /-- what a first failed seal check awaits the second of (R25, R26), with the base of the shot in which it failed:
  library block numbers, 16384 + SEG_ID for the operation and context blocks of a segment, and 32768 + block of operation
  memory for bias operations -/
  suspect : List (Nat × Nat)
deriving DecidableEq, Repr

/-- A barrier of a shot (R193, R260): arrivals are tile, arrival tick and timeout. -/
structure Barrier where
  num : Nat
  mask : Nat
  partner : Bool
  arrivals : List (Nat × Int × Nat)
  /-- partner arrivals: port and BAR_TICK -/
  partners : List (Nat × Nat)
  release : Option Nat
deriving DecidableEq, Repr

/-- Where a run group stands (R201 to R206, R305). -/
inductive GroupState where
  | idle
  | running
  | waitResume
deriving DecidableEq, Repr

/-- A run group. -/
structure RunGroup where
  state : GroupState
  mask : Nat
  owner : Nat
  policy : Nat
  shots : Nat
  gap : Nat
  startEvc : Option Nat
  /-- the SI from which the next shot may begin; the base itself where no start event is awaited -/
  base : Nat
  inShot : Bool
  awaitStart : Bool
  /-- the run-start latch: P, F, H and the SI at which it became usable in CRD -/
  startLatch : Option (Nat × Nat × Nat × Nat)
  /-- H and channel of the activation that starts the coming shot -/
  startHops : Option (Nat × Nat)
  seq : Nat
  started : Bool
  voided : Nat
  shotVoid : Bool
  /-- the log entry for LATE of this shot has been made (R36) -/
  lateLogged : Bool
  /-- RUN_STOP of kind 0 has been served -/
  stopAfter : Bool
  /-- the run ends as under ABORT at this shot's boundary -/
  abort : Bool
  /-- tiles and segments that were not resident when checked (R206) -/
  missing : List (Nat × Nat)
  barriers : List Barrier
deriving DecidableEq, Repr

/-- Operation contexts, bindings, programs, segments and runs. Contexts are keyed 1024t + i, bindings
16t + n (six bytes, 0xFF for none), segments 1024t + SEG_ID, operation words 32768t + address. -/
structure Program where
  contexts : SMap Nat
  ctxShadow : SMap (List (Nat × Nat))
  bindings : SMap Nat
  lists : SMap (List Nat)
  segments : SMap Segment
  opMem : SMap Nat
  tiles : SMap TileRun
  groups : SMap RunGroup
deriving DecidableEq, Repr

/-- An event on its way to a channel, or an activation of it (R210, R212, R218): `src` is the source of the first of
the events that merged, and `held` that the activation has found a latch set already (R216). -/
structure Event where
  evc : Nat
  src : Nat
  p : Nat
  f : Nat
  h : Nat
  /-- sources that merged into it -/
  n : Nat
  held : Bool
deriving DecidableEq, Repr

/-- A trigger ball at work (R226). -/
structure Trig where
  lastEdge : Option Nat
  activeSince : Option Nat
  inactiveSince : Option Nat
  overrateSeen : Bool
  pulseUntil : Option Nat
  /-- the tick at which an edge or a change of the mask last told the filtered level -/
  seen : Option Nat
deriving DecidableEq, Repr

/-- Hatband (R210 to R226). -/
structure Hatband where
  arriving : List Event
  delivering : List Event
  /-- group switches of the next Hatband cycle: group and new STATE, and the ON switches of that cycle -/
  switching : List (Nat × Bool)
  trig : SMap Trig
  /-- monitor triggers latched: regular and injected, with H and channel (R383, R384) -/
  monReg : Option (Nat × Nat)
  monInj : Option (Nat × Nat)
deriving DecidableEq, Repr

/-- An arbiter (R230, R233): the beats that each requester still asks for, the grant in use with the beats left of its
burst, the requester last granted at each rank, a commit that is in force from the next cycle on (R238), the cycles for
which the emergency requester holds the path (R236), and the tick before which no grant is made (R237). -/
structure Arbiter where
  want : SMap Nat
  grant : Option (Nat × Nat)
  last : SMap Nat
  commit : Bool
  held : Nat
  openAt : Nat
deriving DecidableEq, Repr

/-- The memories (R229 to R245): bytes and seals of the libraries (2²² t + address; 16384 t + row) and of
the stream store (byte address; block number). -/
structure Memory where
  lib : SMap Byte
  libSeal : SMap Nat
  /-- retired library blocks that have not been rewritten, and blocks left without a spare row -/
  libPoison : List Nat
  libUnusable : List Nat
  store : SMap Byte
  storeSeal : SMap Nat
  /-- remapped pages not yet written in full, with the 64-byte beats written since; unusable pages -/
  pagePoison : SMap (List Nat)
  pageUnusable : List Nat
  /-- the library ranks in force of each tile: the image of bits [23:0] of its arbiter record (R245) -/
  libRanks : SMap Nat
  /-- the tick of the last emergency taking, and that at which the patrol's pass began (R236) -/
  lastTake : Option Nat
  passSince : Nat
  /-- the arbiters of the stream store and of each tile's library -/
  storeArb : Arbiter
  libArbs : SMap Arbiter
  /-- the half ticks at which the waiting first-row reads of a tile get their beat (R231) -/
  firstReads : SMap (List Nat)
deriving DecidableEq, Repr

/-- How a receive lane stands to the blocks (R248): its block boundary as a bit position modulo 66, the consecutive valid
headers found while it hunts, and of the last headers since it locked, newest first, whether each was invalid. -/
structure LaneAlign where
  boundary : Nat
  run : Nat
  recent : List Bool
deriving DecidableEq, Repr

/-- The framing, bulk sender and receiver, decision streams and table changes of a port (R246 to R270). -/
structure Port where
  /-- a control frame has passed its check since the direction was last DOWN (R249) -/
  controlOk : Bool
  /-- the transmit superframe number, and that of the last control frame sent plus 1 -/
  superframe : Nat
  lastFrame : Nat
  /-- the last control frame used: its superframe number was the port's own; its shadow hash -/
  sameFrame : Bool
  remoteShadow : Nat
  /-- stream latches: P, F, H+1 and the channel; kept and sent SEQ (R255 to R258) -/
  latches : SMap (Nat × Nat × Nat × Nat)
  seqSent : SMap Nat
  seqKept : SMap Nat
  keptValid : Bool
  /-- the first copy of the pair in hand: used, or failed (R257) -/
  firstUsed : Bool
  firstFailed : Bool
  /-- bulk: next SEQ to send, unacknowledged cells by SEQ and body, those to resend, queued data by channel -/
  txSeq : Nat
  unacked : List (Nat × Nat)
  resend : List (Nat × Nat)
  queue : List (Nat × List Byte)
  rxExpected : Nat
  /-- NAK is due in the next cell, and in the next control frame (R262) -/
  nakCell : Bool
  nakFrame : Bool
  /-- the expected cell has failed its check once -/
  rxFailed : Bool
  /-- the superframe in which ACK last advanced, or in which the oldest unacknowledged cell was sent -/
  ackSince : Nat
  /-- the commit: its superframe, own and partner's proposals, when the partner's came, and S -/
  commitAt : Option Nat
  proposal : Nat
  partnerProposal : Nat
  partnerProposalAt : Nat
  swapAt : Option Nat
  mismatchClearAt : Option Nat
  /-- control frames sent with a nap or deep-sleep notice, and received with one (R267) -/
  notices : Nat
  rxNotice : Nat
  /-- void order in flight (R260) -/
  voidOrder : Option Nat
  /-- the local arrival that every frame carries: number, BAR_TICK, run group -/
  barrierOut : Option (Nat × Nat × Nat)
  /-- the partner's arrival last received: number, BAR_TICK, and whether a barrier has taken it -/
  barrierIn : Option (Nat × Nat × Bool)
  /-- RATE injection runs, per lane; bits that the next block of a lane flips; a PRBS error has been signalled
  since the last read, per lane -/
  injecting : List Nat
  injected : SMap Nat
  prbsSeen : List Nat
  /-- FFE and CTLE settings in force, per lane (R250) -/
  lanes : SMap Nat
  /-- the last 58 scrambled bits that each transmit lane has sent, the latest in bit 0 (R247), and the alignment of each
  receive lane (R248) -/
  scrambled : SMap Nat
  aligns : SMap LaneAlign
deriving DecidableEq, Repr

/-- A chunk formed and not yet written, or written and not yet consumed (R276 to R282, R300). -/
structure Chunk where
  kind : Nat
  tile : Nat
  seq : Nat
  /-- data blocks; the whole chunk is 256 × (blocks + 1) bytes -/
  blocks : Nat
  image : List Byte
  /-- byte position in the ring, once written -/
  at_ : Nat
  /-- its AUTO job has been submitted; it has committed or been discarded (R300) -/
  submitted : Bool
  done : Bool
  /-- a raw sample of it failed its seal: the snapshot is marked bad (R23) -/
  bad : Bool
deriving DecidableEq, Repr

/-- A Fulling job (R290): its descriptor, its function, and whether AUTO submitted it. -/
structure Job where
  desc : Nat
  fn : Nat
  auto : Bool
  /-- AUTO: the position of its chunk, and the FAULTED runs so far (R300) -/
  chunkAt : Nat
  faults : Nat
  /-- AUTO: the job waits for a retry after NO_SPACE, or after FAULTED -/
  waitSpace : Bool
  waitFault : Bool
deriving DecidableEq, Repr

/-- A job at work in an engine (R292 to R295). -/
structure RunJob where
  job : Job
  queue : Nat
  /-- J, and the frames written -/
  bytes : Nat
  frames : Nat
  /-- source blocks taken; of an EXPAND job, 64-byte units -/
  taken : Nat
  /-- output blocks written by an EXPAND job -/
  written : Nat
  /-- the context and history as the job has left them so far -/
  ctx : Nat
  history : List Byte
  /-- the chunk that the delta transform is in: its kind, and the data blocks that are left of it (R288) -/
  chunkKind : Nat
  chunkLeft : Nat
  finished : Bool
  lastSeal : Nat
  /-- the tick at which the context is in the engine (R301) -/
  ready : Nat
deriving DecidableEq, Repr

/-- Capture and Fulling. -/
structure Capture where
  staging : List Chunk
  written : List Chunk
  seqs : SMap Nat
  /-- a drop has raised SURVEY_DROP since the status record was last read (R282) -/
  dropSeen : Bool
  jobs : List Job
  running : SMap RunJob
  contexts : SMap Nat
  history : SMap (List Byte)
  /-- contexts held in each engine, newest first; the queue each engine served last (R292, R297) -/
  held : SMap (List Nat)
  turn : SMap Nat
  /-- capture and Fulling resume at the next shot boundary (R370) -/
  resumeDue : Bool
deriving DecidableEq, Repr

/-- The response that a mailbox stores (R333, R337). -/
structure Response where
  command : Nat
  tag : Nat
  fn : Nat
  status : Status
  detail : Nat
  replayed : Bool
  payload : List Byte
deriving DecidableEq, Repr

/-- A mailbox (R328, R335, R337). -/
structure Mailbox where
  busy : Bool
  done : Bool
  drops : Nat
  request : List Byte
  /-- the response buffer, and the seal of the request that produced it; none before the first and after
  a reset of the function -/
  stored : Option (Response × Nat)
deriving DecidableEq, Repr

/-- What a deferred command waits for (R356). -/
inductive Wait where
  | modeSet (target : Mode)
  | imageWrite
  | runStop (group : Nat)
  | modelFit (slot states : Nat) (centres : List Int)
  | tableCommit (port : Nat)
  | monCalibrate
  | patchApply
  | engineRestart (engine : Nat)
deriving DecidableEq, Repr

/-- A deferred command: its mailbox, its request (COMMAND, SEQ_TAG, FUNCTION, seal), since when, and
whether its function has been reset in the meantime (R356). -/
structure Deferred where
  m : Nat
  command : Nat
  tag : Nat
  fn : Nat
  reqSeal : Nat
  since : Nat
  discard : Bool
  wait : Wait
deriving DecidableEq, Repr

/-- A partial block in the merge buffer (R330). -/
structure Merge where
  block : Nat
  bytes : SMap Byte
  last : Nat
deriving DecidableEq, Repr

/-- A refill descriptor whose data is on its way (R342). -/
structure Refill where
  desc : Nat
  segId : Nat
  seg : Segment
  words : List Nat
  blocks : List (List Byte)
  status : Status
deriving DecidableEq, Repr

/-- A host buffer that a capture ring is filling (R343). -/
structure CapBuf where
  desc : Nat
  filled : Nat
  units : Nat
  first : Nat
deriving DecidableEq, Repr

/-- A BAR4 access that waits for the end of self-refresh (R329). -/
structure Bar4Wait where
  fn : Nat
  addr : Nat
  len : Nat
  data : Option (List Byte)
  since : Nat
deriving DecidableEq, Repr

/-- The host interface (R320 to R351). Rings are keyed 64f + i, as in R351. -/
structure HostIf where
  mailboxes : SMap Mailbox
  /-- accepted requests that have not been served, in the order of R336 -/
  accepted : List Nat
  deferred : List Deferred
  pi : SMap Nat
  ci : SMap Nat
  refills : SMap Refill
  capBufs : SMap CapBuf
  lastSignal : SMap Nat
  merge : List Merge
  bar4 : List Bar4Wait
  /-- PERST# is asserted -/
  perst : Bool
  trainedWidth : Nat
  /-- outputs held while the link is down (R322) -/
  heldOut : List Output
  /-- the payloads of REMOTE_DEST and PORT_ADDRESS -/
  remoteDest : List Byte
  portAddress : List Byte
deriving DecidableEq, Repr

/-- A feed (R365, R366). -/
structure FeedState where
  qualified : Bool
  drawn : Bool
  mv : Nat
deriving DecidableEq, Repr

/-- The monitor ADC and the sensors, beyond their records (R373 to R386). -/
structure Monitor where
  /-- a regular run: the tick at which it starts, H and channel of an EVENT trigger -/
  regular : Option (Nat × Option (Nat × Nat))
  injected : Option (Option (Nat × Nat))
  /-- control record image written while a sequence runs (R390) -/
  controlNext : Option Nat
  calibrating : Option Nat
  /-- last regular result of each point: code and wall time (R385) -/
  results : SMap (Nat × Nat)
  lastTimer : Nat
  /-- last valid reading of a sensor, consecutive disagreeing samples, re-admission requested -/
  lastValid : SMap Int
  disagree : SMap Nat
  readmit : List Nat
  /-- since when the pulse-width condition has held, and whether this pulse has fired (R383) -/
  pulseSince : Option Nat
  pulseFired : Bool
  /-- urgent triggers that have occurred and have not yet been taken (R384) -/
  urgent : List InjCause
deriving DecidableEq, Repr

/-- Feeds, shedding, throttling and the latches of the power stages. -/
structure Power where
  feedA : FeedState
  feedB : FeedState
  /-- the tick of the last change of the throttle or its step (R377) -/
  lastThrottle : Nat
  /-- THERMAL_OFF and the analog trip latch (R378, R379); sensors that entered shutdown -/
  thermalOff : Bool
  analogTrip : Bool
  hot : List Nat
  /-- the cause that put the device into RESET, held above 5 V (R403) -/
  heldCause : Nat
  /-- times of the watchdog resets (R411); the device stays in RESET -/
  watchdogs : List Nat
  stayReset : Bool
  pmbusPage : Nat
  /-- drop and over-voltage flags of PMBus (R371) -/
  dropSeenA : Bool
  dropSeenB : Bool
  overVoltage : Bool
  /-- the rails are in regulation; RESET_N is high -/
  rails : Bool
  resetN : Bool
  /-- the tick at which a reset by command ends (R407) -/
  resetUntil : Option Nat
  /-- every bias channel ramps to 0, and at the ramps' end the device goes where this cause takes it: 1 to the
  reload of R395, any other to RESET -/
  ramp : Option Nat
deriving DecidableEq, Repr

/-- The Crown pair, beyond the mode record (R409 to R411). -/
structure Crown where
  /-- no core holds control since this tick -/
  noneSince : Option Nat
  /-- cores that have released control -/
  released : List Nat
  /-- the core and tick of the last take-back -/
  lastTakeback : Option (Nat × Nat)
  selftestResult : Nat
  selftestCore : Nat
  selftestFailed : Nat
  modeSince : Nat
  /-- the monitor calibration of CALIBRATE has ended, at this tick -/
  calEnded : Option Nat
  /-- converter dies whose link has failed to retrain, and whose link is being retrained (R12) -/
  linksDown : List Nat
  retraining : List Nat
deriving DecidableEq, Repr

/-- A fault report or a log entry (R412 to R414). While a report waits in the intake queue, `seq` is 1 where
it is the first of its class since RESET, and 0 otherwise. -/
structure LogEntry where
  seq : Nat
  cls : Nat
  lasting : Bool
  repeats : Nat
  mode : Nat
  wall : Nat
  si : Nat
  source : Nat
  detailA : Nat
  detailB : Nat
deriving DecidableEq, Repr

/-- The error log (R412 to R414). -/
structure Log where
  intake : List LogEntry
  entries : List LogEntry
  lastTake : Option Nat
  counters : SMap Nat
  snapshots : SMap LogEntry
deriving DecidableEq, Repr

/-- What boot flash holds across RESET (R398). -/
structure Flash where
  /-- image slots: the bytes of an authenticated image, none where there is none -/
  images : SMap (List Byte)
  selected : Nat
  running : Nat
  libRetired : List Nat
  pagesRetired : List Nat
deriving DecidableEq, Repr

/-- Images and patches that are being written or staged (R357, R363). -/
structure Upload where
  image : Option (Nat × Nat × List Byte)
  /-- the slot and bytes that are being written to flash -/
  flashing : Option (Nat × List Byte)
  patch : Option (Nat × List Byte)
  staged : Option (List Byte)
  /-- a patch is pending since this tick (R171) -/
  patchSince : Option Nat
  patchRam : SMap Nat
deriving DecidableEq, Repr

/-- The state of the device. -/
structure State where
  /-- the commands that wait, first in, first out -/
  pending : List Instr
  /-- what the last command sent out -/
  out : List Output
  mode : Mode
  clock : Clock
  /-- record images in force, by identifier; a record that is not listed has its reset image -/
  records : SMap Nat
  /-- pending shadow images of a record, each with the SI at which the write that left it was served, oldest first: those
  served by a base's switch point come into force at it, a later one at the next (R438, R439) -/
  shadows : SMap (List (Nat × Nat))
  blocking : Blocking
  drive : Drive
  bias : SMap Bias
  readout : Readout
  engines : SMap Engine
  program : Program
  hatband : Hatband
  memory : Memory
  ports : SMap Port
  capture : Capture
  host : HostIf
  monitor : Monitor
  power : Power
  crown : Crown
  log : Log
  flash : Flash
  upload : Upload
  /-- the model's own counter of free values drawn -/
  freeCount : Nat
deriving DecidableEq, Repr

/-! ### After reset -/

/-- The clocks after reset (R53, R318): nothing counts until the PLL locks. -/
def Clock.init : Clock :=
  { now := 0, si := 0, wallNs := 0, wallFrac := 0, wallStarted := false, epochAt := none,
    edgeAccepted := false, syncOutUntil := none, lastTraining := none, timeOfDay := none,
    ppsLast := none, ppsOutUntil := none, ppsOutSecond := none, lockRun := 0, ptpState := 1,
    ptpMaster := none, ptpSteps := 0, ptpLastAnnounce := 0, ptpSyncRx := none,
    ptpAwaitFollowUp := false, ptpDelayTx := none, ptpOffset := 0, ptpPathDelay := 0,
    ptpLastTx := [], ulpTime := none, ulpTimeMissing := 0, ulpLastMeasure := 0, frameWall := [] }

/-- Blocking after reset: every tap at its reset value (R53; DESIGN CHOICE where the manual gives none). -/
def Blocking.init : Blocking :=
  { taps := [], targets := [], stepping := [], errors := [], stepped := [], lastStep := [],
    stepBase := [], trimStep := [], calDone := [], deferred := [] }

/-- A tone at rest. -/
def Tone.init : Tone := { segs := [], updates := [], units := [], grids := [], bursts := [] }

/-- Drive synthesis after reset. -/
def Drive.init : Drive :=
  { tones := [], zeroed := [], clipped := [], muteClear := [], power := [], wordPower := [],
    matrix := [], matrixCommit := [], released := [], arrived := [] }

/-- A bias channel after reset (R96, R107): LEVEL 0, set 0, a settled chain. -/
def Bias.init : Bias :=
  { cmd := { level := 0, ramp := none, sine := none, pdSet := 0 }, was := none, park := none,
    iir := [0, 0, 0, 0, 0, 0, 0, 0], fir := [], holds := [], heldSeg := none, lateSeg := none, ops := [],
    latchClear := [], openSince := none, parkOsc := none, sink := false }

/-- The acquisition of a tile after reset. -/
def Acq.init : Acq :=
  { waiting := [], windows := [], shots := [], snapshot := none, overranged := false, iq := [] }

/-- Readout after reset. -/
def Readout.init : Readout :=
  { acq := [], bins := [], weights := [], weightShadow := [], weightCommit := [], histClear := [],
    capture := [], surveyStep := [] }

/-- An engine after reset: IDLE (R173). -/
def Engine.init : Engine :=
  { inst := false, abandoned := 0, held := false, haltPending := false, voidPending := false,
    attnPending := [], patchStop := none, waitSince := none, microSince := 0, regs := [] }

/-- A segment that was never loaded. -/
def Segment.init : Segment :=
  { opAddr := 0, opWords := 0, len := 0, libFirst := 0, libBlocks := 0, resident := false }

/-- A tile in no run (R208). -/
def TileRun.init : TileRun :=
  { group := none, base := 0, inShot := false, prepared := false, segBase := 0, pc := 0, instances := 0, ended := false,
    chosen := none, chosenSeg := none, chosenHops := none, jump := none, jumps := [], mark := 0,
    tsets := [], latches := [], inputs := [], acquires := 0, decisions := [], lastHop := none, emitAt := none,
    untilTick := none, barrier := none, stoodDown := none, voided := false, last := false,
    endTick := none, fetched := false, first := none, suspect := [] }

/-- A free run group. -/
def RunGroup.init : RunGroup :=
  { state := .idle, mask := 0, owner := 0, policy := 0, shots := 0, gap := 0, startEvc := none,
    base := 0, inShot := false, awaitStart := false, startLatch := none, startHops := none, seq := 0,
    started := false, voided := 0, shotVoid := false, lateLogged := false, stopAfter := false, abort := false,
    missing := [], barriers := [] }

/-- Programs after reset: no context, binding, segment or run. -/
def Program.init : Program :=
  { contexts := [], ctxShadow := [], bindings := [], lists := [], segments := [], opMem := [],
    tiles := [], groups := [] }

/-- A trigger ball after reset. -/
def Trig.init : Trig :=
  { lastEdge := none, activeSince := none, inactiveSince := none, overrateSeen := false,
    pulseUntil := none, seen := none }

/-- Hatband after reset. -/
def Hatband.init : Hatband :=
  { arriving := [], delivering := [], switching := [], trig := [], monReg := none, monInj := none }

/-- An arbiter with no request. -/
def Arbiter.init : Arbiter := { want := [], grant := none, last := [], commit := false, held := 0, openAt := 0 }

/-- The memories after reset: nothing listed. -/
def Memory.init : Memory :=
  { lib := [], libSeal := [], libPoison := [], libUnusable := [], store := [], storeSeal := [],
    pagePoison := [], pageUnusable := [], libRanks := [], lastTake := none, passSince := 0,
    storeArb := .init, libArbs := [], firstReads := [] }

/-- A Uluforam port after reset. -/
def Port.init : Port :=
  { controlOk := false, superframe := 0, lastFrame := 0, sameFrame := false, remoteShadow := 0,
    latches := [], seqSent := [], seqKept := [], keptValid := false, firstUsed := false,
    firstFailed := false, txSeq := 0, unacked := [], resend := [], queue := [],
    rxExpected := 0, nakCell := false, nakFrame := false, rxFailed := false, ackSince := 0,
    commitAt := none, proposal := 0, partnerProposal := 0, partnerProposalAt := 0, swapAt := none,
    mismatchClearAt := none, notices := 0, rxNotice := 0, voidOrder := none, barrierOut := none,
    barrierIn := none, injecting := [], injected := [], prbsSeen := [], lanes := [],
    scrambled := [], aligns := [] }

/-- A lane that has found no header yet. -/
def LaneAlign.init : LaneAlign := { boundary := 0, run := 0, recent := [] }

/-- Capture and Fulling after reset. -/
def Capture.init : Capture :=
  { staging := [], written := [], seqs := [], dropSeen := false, jobs := [], running := [],
    contexts := [], history := [], held := [], turn := [], resumeDue := false }

/-- A mailbox after reset. -/
def Mailbox.init : Mailbox :=
  { busy := false, done := false, drops := 0, request := [], stored := none }

/-- The host interface after reset: the link down, nothing posted. -/
def HostIf.init : HostIf :=
  { mailboxes := [], accepted := [], deferred := [], pi := [], ci := [], refills := [], capBufs := [],
    lastSignal := [], merge := [], bar4 := [], perst := false, trainedWidth := 0, heldOut := [],
    remoteDest := [], portAddress := [] }

/-- The monitor ADC after reset. -/
def Monitor.init : Monitor :=
  { regular := none, injected := none, controlNext := none, calibrating := none, results := [],
    lastTimer := 0, lastValid := [], disagree := [], readmit := [], pulseSince := none,
    pulseFired := false, urgent := [] }

/-- A feed that is not in range. -/
def FeedState.init : FeedState := { qualified := false, drawn := false, mv := 0 }

/-- Power after reset: no feed qualified, the rails down, RESET_N high. -/
def Power.init : Power :=
  { feedA := .init, feedB := .init, lastThrottle := 0, thermalOff := false, analogTrip := false,
    hot := [], heldCause := 0, watchdogs := [], stayReset := false, pmbusPage := 0,
    dropSeenA := false, dropSeenB := false, overVoltage := false, rails := false, resetN := true,
    resetUntil := none, ramp := none }

/-- The Crown pair after reset. -/
def Crown.init : Crown :=
  { noneSince := none, released := [], lastTakeback := none, selftestResult := 0,
    selftestCore := 0, selftestFailed := 0, modeSince := 0, calEnded := none,
    linksDown := [], retraining := [] }

/-- The error log after RESET (R413). -/
def Log.init : Log :=
  { intake := [], entries := [], lastTake := none, counters := [], snapshots := [] }

/-- Boot flash as the model starts: no authenticated image, a blank board profile. -/
def Flash.init : Flash :=
  { images := [], selected := 0, running := 0, libRetired := [],
    pagesRetired := [] }

/-- Nothing uploaded. -/
def Upload.init : Upload :=
  { image := none, flashing := none, patch := none, staged := none, patchSince := none, patchRam := [] }

/-- The device right after reset: mode RESET, every record at its reset image, nothing in any memory. -/
def State.reset : State :=
  { pending := [], out := [], mode := .reset, clock := .init, records := [], shadows := [],
    blocking := .init, drive := .init, bias := [], readout := .init, engines := [], program := .init,
    hatband := .init, memory := .init, ports := [], capture := .init, host := .init, monitor := .init,
    power := .init, crown := .init, log := .init, flash := .init, upload := .init, freeCount := 0 }

/-- The reasons a step can stop with a fault: the model raises none. The NX256 answers every command with an
effect, a status code or nothing, so no meaning ends in a fault; safe, since nothing is claimed to stop. -/
inductive Fault where
  /-- never raised; safe -/
  | none
deriving DecidableEq, Repr

/-- The reasons a command can be refused as having no meaning. -/
inductive Refusal where
  /-- raised by `exec` for a row that has no meaning yet; safe, since the model then stops -/
  | notModelled (mnemonic : String)
deriving DecidableEq, Repr

/-- What a command answers. -/
abbrev Result := Host.Outcome State Fault Refusal

end Sys2Proof.Machine
end

