-- ==== Sys2Proof/Machine/Records.lean ====
section
/-! DEFINITION. The parameter records: their identifiers, lengths and field maps, transcribed from the field
maps of the manual (each family's docstring names its rule). The field constants `F.<record>_<FIELD>` are
the manual's own names. A field that the manual gives for an index range has a count and a stride. -/

namespace Sys2Proof.Machine

/-- The record families. -/
inductive Rec where
  | lateStatus
  | timingSet
  | gridStatus
  | syncControl
  | blockGroup
  | blockControl
  | matrixRow
  | matrixControl
  | driveTone
  | xyConfig
  | xyStatus
  | biasConfig
  | biasStatus
  | biasIir
  | biasFir
  | probeTone
  | probeConfig
  | probeStatus
  | acqTone
  | acqConfig
  | acqStatus
  | weightControl
  | histConfig
  | histStatus
  | model
  | pounceStatus
  | tilePounce
  | mcVersion
  | patchControl
  | engineStatus
  | engineInterrupt
  | matchReg
  | program
  | runStatus
  | counters
  | channel
  | channelStatus
  | group
  | eventCounter
  | hatbandControl
  | trigIn
  | trigInStatus
  | trigOut
  | storeRequester
  | storeControl
  | storeStatus
  | libArbiter
  | libStatus
  | ulpControl
  | ulpStatus
  | slotTable
  | ulpStreams
  | ulpLane
  | capControl
  | capStatus
  | outQueue
  | fullingStatus
  | timeControl
  | timeStatus
  | compareUnit
  | linkStatus
  | ownership
  | mailboxAssign
  | bar4Window
  | ethPort
  | ring
  | powerStatus
  | thermalControl
  | sensor
  | monControl
  | monStatus
  | monEntries
  | monInjEntries
  | monInjResults
  | monCal
  | modeRecord
  | logStatus
deriving DecidableEq, Repr

/-- How a field is accessed (R339). -/
inductive Access where
  | rw
  | ro
  | rc
  | wo
  | w1c
deriving DecidableEq, Repr

/-- A field of a record family: its lowest bit, width, access and reset value; `n` copies of it stand
`stride` bits apart. -/
structure Field where
  record : Rec
  lo : Nat
  width : Nat
  acc : Access
  init : Nat
  n : Nat
  stride : Nat
deriving DecidableEq, Repr

/-- Where a family stands: its first identifier, how many records it has, their length in 32-bit words. -/
structure Place where
  base : Nat
  count : Nat
  words : Nat
deriving DecidableEq, Repr

/-- The first identifier, the number of records and the length in 32-bit words of a family. -/
def Rec.place : Rec → Place
  | .lateStatus => ⟨0x2080, 16, 2⟩
  | .timingSet => ⟨0x2100, 128, 8⟩
  | .gridStatus => ⟨0x2000, 1, 4⟩
  | .syncControl => ⟨0x2001, 1, 1⟩
  | .blockGroup => ⟨0x2200, 49, 4⟩
  | .blockControl => ⟨0x2240, 1, 2⟩
  | .matrixRow => ⟨0x2480, 256, 18⟩
  | .matrixControl => ⟨0x2580, 16, 2⟩
  | .driveTone => ⟨0x2300, 256, 4⟩
  | .xyConfig => ⟨0x2400, 64, 2⟩
  | .xyStatus => ⟨0x2440, 64, 4⟩
  | .biasConfig => ⟨0x2600, 128, 2⟩
  | .biasStatus => ⟨0x2680, 128, 4⟩
  | .biasIir => ⟨0x2800, 512, 12⟩
  | .biasFir => ⟨0x2A00, 512, 18⟩
  | .probeTone => ⟨0x2C00, 256, 4⟩
  | .probeConfig => ⟨0x2D00, 16, 2⟩
  | .probeStatus => ⟨0x2D10, 16, 4⟩
  | .acqTone => ⟨0x2E00, 256, 4⟩
  | .acqConfig => ⟨0x2F00, 16, 2⟩
  | .acqStatus => ⟨0x2F10, 16, 4⟩
  | .weightControl => ⟨0x2F20, 16, 2⟩
  | .histConfig => ⟨0x3000, 256, 4⟩
  | .histStatus => ⟨0x3100, 256, 3⟩
  | .model => ⟨0x3200, 256, 12⟩
  | .pounceStatus => ⟨0x3300, 256, 8⟩
  | .tilePounce => ⟨0x3400, 16, 2⟩
  | .mcVersion => ⟨0x3500, 1, 6⟩
  | .patchControl => ⟨0x3501, 1, 2⟩
  | .engineStatus => ⟨0x3510, 17, 8⟩
  | .engineInterrupt => ⟨0x3530, 17, 4⟩
  | .matchReg => ⟨0x3540, 64, 2⟩
  | .program => ⟨0x3600, 16, 2⟩
  | .runStatus => ⟨0x3610, 16, 8⟩
  | .counters => ⟨0x3620, 16, 16⟩
  | .channel => ⟨0x3800, 512, 2⟩
  | .channelStatus => ⟨0x3A00, 512, 4⟩
  | .group => ⟨0x3C00, 32, 2⟩
  | .eventCounter => ⟨0x3CB0, 64, 2⟩
  | .hatbandControl => ⟨0x3C40, 1, 2⟩
  | .trigIn => ⟨0x3C80, 8, 2⟩
  | .trigInStatus => ⟨0x3C90, 8, 4⟩
  | .trigOut => ⟨0x3CA0, 8, 2⟩
  | .storeRequester => ⟨0x3E00, 24, 4⟩
  | .storeControl => ⟨0x3E20, 1, 2⟩
  | .storeStatus => ⟨0x3E21, 1, 4⟩
  | .libArbiter => ⟨0x3E40, 16, 2⟩
  | .libStatus => ⟨0x3E60, 16, 2⟩
  | .ulpControl => ⟨0x4000, 4, 2⟩
  | .ulpStatus => ⟨0x4010, 4, 8⟩
  | .slotTable => ⟨0x4020, 8, 16⟩
  | .ulpStreams => ⟨0x4030, 4, 4⟩
  | .ulpLane => ⟨0x4040, 32, 4⟩
  | .capControl => ⟨0x4100, 1, 4⟩
  | .capStatus => ⟨0x4101, 1, 8⟩
  | .outQueue => ⟨0x4110, 16, 8⟩
  | .fullingStatus => ⟨0x4120, 1, 4⟩
  | .timeControl => ⟨0x4200, 1, 4⟩
  | .timeStatus => ⟨0x4201, 1, 10⟩
  | .compareUnit => ⟨0x4210, 32, 6⟩
  | .linkStatus => ⟨0x4400, 1, 2⟩
  | .ownership => ⟨0x4401, 1, 2⟩
  | .mailboxAssign => ⟨0x4402, 1, 4⟩
  | .bar4Window => ⟨0x4410, 8, 2⟩
  | .ethPort => ⟨0x4440, 1, 2⟩
  | .ring => ⟨0x4500, 512, 6⟩
  | .powerStatus => ⟨0x4300, 1, 6⟩
  | .thermalControl => ⟨0x4301, 1, 2⟩
  | .sensor => ⟨0x4310, 29, 4⟩
  | .monControl => ⟨0x4340, 1, 4⟩
  | .monStatus => ⟨0x4341, 1, 4⟩
  | .monEntries => ⟨0x4350, 4, 24⟩
  | .monInjEntries => ⟨0x4354, 1, 12⟩
  | .monInjResults => ⟨0x4355, 1, 6⟩
  | .monCal => ⟨0x4360, 4, 4⟩
  | .modeRecord => ⟨0x4800, 1, 6⟩
  | .logStatus => ⟨0x4801, 1, 4⟩

/-- The identifier of record `i` of a family. The machine names no record beyond a family's last; the remainder says
that two families never share one. -/
def Rec.id (r : Rec) (i : Nat) : Nat := r.place.base + i % r.place.count

/-- The key under which the machine holds record `i` of a family. The manual gives 0x3540 to two records, the
interrupt record of CRD (R174) and match register 0 (R175); the match registers are held apart. -/
def Rec.key (r : Rec) (i : Nat) : Nat := if r = .matchReg then 0x10000 + r.id i else r.id i

/-- The length of a family's records in 32-bit words. -/
def Rec.words (r : Rec) : Nat := r.place.words

/-- Every family. -/
def Rec.all : List Rec :=
  [Rec.lateStatus, Rec.timingSet, Rec.gridStatus, Rec.syncControl, Rec.blockGroup,
   Rec.blockControl, Rec.matrixRow, Rec.matrixControl, Rec.driveTone, Rec.xyConfig,
   Rec.xyStatus, Rec.biasConfig, Rec.biasStatus, Rec.biasIir, Rec.biasFir,
   Rec.probeTone, Rec.probeConfig, Rec.probeStatus, Rec.acqTone, Rec.acqConfig,
   Rec.acqStatus, Rec.weightControl, Rec.histConfig, Rec.histStatus, Rec.model,
   Rec.pounceStatus, Rec.tilePounce, Rec.mcVersion, Rec.patchControl, Rec.engineStatus,
   Rec.engineInterrupt, Rec.matchReg, Rec.program, Rec.runStatus, Rec.counters,
   Rec.channel, Rec.channelStatus, Rec.group, Rec.eventCounter, Rec.hatbandControl,
   Rec.trigIn, Rec.trigInStatus, Rec.trigOut, Rec.storeRequester, Rec.storeControl,
   Rec.storeStatus, Rec.libArbiter, Rec.libStatus, Rec.ulpControl, Rec.ulpStatus,
   Rec.slotTable, Rec.ulpStreams, Rec.ulpLane, Rec.capControl, Rec.capStatus,
   Rec.outQueue, Rec.fullingStatus, Rec.timeControl, Rec.timeStatus, Rec.compareUnit,
   Rec.linkStatus, Rec.ownership, Rec.mailboxAssign, Rec.bar4Window, Rec.ethPort,
   Rec.ring, Rec.powerStatus, Rec.thermalControl, Rec.sensor, Rec.monControl,
   Rec.monStatus, Rec.monEntries, Rec.monInjEntries, Rec.monInjResults, Rec.monCal,
   Rec.modeRecord, Rec.logStatus]

namespace F

/-! lateStatus (R40) -/
def lateStatus_LATE_COUNT : Field := ⟨.lateStatus, 0, 32, .ro, 0, 1, 0⟩
def lateStatus_MIN_MARGIN : Field := ⟨.lateStatus, 32, 8, .rc, 255, 1, 0⟩
def lateStatus_MIN_MARGIN_CH : Field := ⟨.lateStatus, 40, 4, .rc, 0, 1, 0⟩

/-! timingSet (R42) -/
def timingSet_OFS_DRV0 : Field := ⟨.timingSet, 0, 16, .rw, 0, 1, 0⟩
def timingSet_OFS_DRV1 : Field := ⟨.timingSet, 16, 16, .rw, 0, 1, 0⟩
def timingSet_OFS_DRV2 : Field := ⟨.timingSet, 32, 16, .rw, 0, 1, 0⟩
def timingSet_OFS_DRV3 : Field := ⟨.timingSet, 48, 16, .rw, 0, 1, 0⟩
def timingSet_OFS_PRB : Field := ⟨.timingSet, 64, 16, .rw, 0, 1, 0⟩
def timingSet_OFS_ACQ : Field := ⟨.timingSet, 80, 16, .rw, 0, 1, 0⟩
def timingSet_OFS_BIAS0 : Field := ⟨.timingSet, 96, 16, .rw, 0, 1, 0⟩
def timingSet_OFS_BIAS1 : Field := ⟨.timingSet, 112, 16, .rw, 0, 1, 0⟩
def timingSet_OFS_BIAS2 : Field := ⟨.timingSet, 128, 16, .rw, 0, 1, 0⟩
def timingSet_OFS_BIAS3 : Field := ⟨.timingSet, 144, 16, .rw, 0, 1, 0⟩
def timingSet_OFS_BIAS4 : Field := ⟨.timingSet, 160, 16, .rw, 0, 1, 0⟩
def timingSet_OFS_BIAS5 : Field := ⟨.timingSet, 176, 16, .rw, 0, 1, 0⟩
def timingSet_OFS_BIAS6 : Field := ⟨.timingSet, 192, 16, .rw, 0, 1, 0⟩
def timingSet_OFS_BIAS7 : Field := ⟨.timingSet, 208, 16, .rw, 0, 1, 0⟩

/-! gridStatus (R53) -/
def gridStatus_SI : Field := ⟨.gridStatus, 0, 64, .ro, 0, 1, 0⟩
def gridStatus_SI_VALID : Field := ⟨.gridStatus, 64, 1, .ro, 0, 1, 0⟩
def gridStatus_PLL_LOCK : Field := ⟨.gridStatus, 65, 1, .ro, 0, 1, 0⟩
def gridStatus_REFCLK_OK : Field := ⟨.gridStatus, 66, 1, .ro, 0, 1, 0⟩
def gridStatus_SYNC_ARMED : Field := ⟨.gridStatus, 67, 1, .ro, 0, 1, 0⟩
def gridStatus_SYNC_MARGIN_LOW : Field := ⟨.gridStatus, 68, 1, .ro, 0, 1, 0⟩
def gridStatus_SYNC_EXTRA_COUNT : Field := ⟨.gridStatus, 80, 16, .ro, 0, 1, 0⟩
def gridStatus_SYNC_ACCEPT_COUNT : Field := ⟨.gridStatus, 96, 32, .ro, 0, 1, 0⟩

/-! syncControl (R53) -/
def syncControl_SYNC_OUT_MODE : Field := ⟨.syncControl, 0, 2, .rw, 0, 1, 0⟩
def syncControl_EPOCH_ADJ : Field := ⟨.syncControl, 2, 3, .rw, 0, 1, 0⟩
def syncControl_SYNC_TAP : Field := ⟨.syncControl, 8, 8, .ro, 128, 1, 0⟩
def syncControl_SYNC_PHASE : Field := ⟨.syncControl, 16, 16, .ro, 0, 1, 0⟩

/-! blockGroup (R58) -/
def blockGroup_CAL_COUNT : Field := ⟨.blockGroup, 0, 32, .ro, 0, 1, 0⟩
def blockGroup_LAST_CAL_TIME : Field := ⟨.blockGroup, 32, 64, .ro, 0, 1, 0⟩
def blockGroup_HOLD : Field := ⟨.blockGroup, 96, 1, .rw, 0, 1, 0⟩
def blockGroup_ACTIVE : Field := ⟨.blockGroup, 97, 1, .ro, 0, 1, 0⟩
def blockGroup_WORST_ERROR : Field := ⟨.blockGroup, 104, 8, .ro, 0, 1, 0⟩
def blockGroup_STEP_INTERVAL : Field := ⟨.blockGroup, 112, 16, .rw, 20, 1, 0⟩

/-! blockControl (R58) -/
def blockControl_CAL_INTERVAL : Field := ⟨.blockControl, 0, 16, .rw, 20, 1, 0⟩

/-! matrixRow (R77) -/
def matrixRow_COEF_0 : Field := ⟨.matrixRow, 0, 32, .rw, 0, 1, 0⟩
def matrixRow_COEF_1 : Field := ⟨.matrixRow, 32, 32, .rw, 0, 1, 0⟩
def matrixRow_COEF_2 : Field := ⟨.matrixRow, 64, 32, .rw, 0, 1, 0⟩
def matrixRow_COEF_3 : Field := ⟨.matrixRow, 96, 32, .rw, 0, 1, 0⟩
def matrixRow_COEF_4 : Field := ⟨.matrixRow, 128, 32, .rw, 0, 1, 0⟩
def matrixRow_COEF_5 : Field := ⟨.matrixRow, 160, 32, .rw, 0, 1, 0⟩
def matrixRow_COEF_6 : Field := ⟨.matrixRow, 192, 32, .rw, 0, 1, 0⟩
def matrixRow_COEF_7 : Field := ⟨.matrixRow, 224, 32, .rw, 0, 1, 0⟩
def matrixRow_COEF_8 : Field := ⟨.matrixRow, 256, 32, .rw, 0, 1, 0⟩
def matrixRow_COEF_9 : Field := ⟨.matrixRow, 288, 32, .rw, 0, 1, 0⟩
def matrixRow_COEF_10 : Field := ⟨.matrixRow, 320, 32, .rw, 0, 1, 0⟩
def matrixRow_COEF_11 : Field := ⟨.matrixRow, 352, 32, .rw, 0, 1, 0⟩
def matrixRow_COEF_12 : Field := ⟨.matrixRow, 384, 32, .rw, 0, 1, 0⟩
def matrixRow_COEF_13 : Field := ⟨.matrixRow, 416, 32, .rw, 0, 1, 0⟩
def matrixRow_COEF_14 : Field := ⟨.matrixRow, 448, 32, .rw, 0, 1, 0⟩
def matrixRow_COEF_15 : Field := ⟨.matrixRow, 480, 32, .rw, 0, 1, 0⟩
def matrixRow_ROW_DELAY : Field := ⟨.matrixRow, 512, 5, .rw, 0, 1, 0⟩
def matrixRow_ROW_ENABLE : Field := ⟨.matrixRow, 517, 1, .rw, 0, 1, 0⟩

/-! matrixControl (R78) -/
def matrixControl_COMMIT : Field := ⟨.matrixControl, 0, 1, .wo, 0, 1, 0⟩
def matrixControl_PENDING : Field := ⟨.matrixControl, 1, 1, .ro, 0, 1, 0⟩
def matrixControl_COMMIT_COUNT : Field := ⟨.matrixControl, 16, 32, .ro, 0, 1, 0⟩

/-! driveTone (R84) -/
def driveTone_FTW : Field := ⟨.driveTone, 0, 48, .rw, 0, 1, 0⟩
def driveTone_FRAME : Field := ⟨.driveTone, 48, 32, .rw, 0, 1, 0⟩
def driveTone_ENABLE : Field := ⟨.driveTone, 80, 1, .rw, 0, 1, 0⟩
def driveTone_FREQ_MODE : Field := ⟨.driveTone, 81, 1, .rw, 0, 1, 0⟩

/-! xyConfig (R85) -/
def xyConfig_MODE : Field := ⟨.xyConfig, 0, 1, .rw, 0, 1, 0⟩
def xyConfig_OUT_ENABLE : Field := ⟨.xyConfig, 1, 1, .rw, 0, 1, 0⟩
def xyConfig_POWER_K : Field := ⟨.xyConfig, 2, 5, .rw, 10, 1, 0⟩
def xyConfig_POWER_ACTION : Field := ⟨.xyConfig, 7, 1, .rw, 0, 1, 0⟩
def xyConfig_POWER_LIMIT : Field := ⟨.xyConfig, 8, 16, .rw, 8192, 1, 0⟩

/-! xyStatus (R86) -/
def xyStatus_CLIP_COUNT : Field := ⟨.xyStatus, 0, 32, .ro, 0, 1, 0⟩
def xyStatus_CLIP_SEEN : Field := ⟨.xyStatus, 32, 1, .rc, 0, 1, 0⟩
def xyStatus_MUTED : Field := ⟨.xyStatus, 33, 1, .w1c, 0, 1, 0⟩
def xyStatus_POWER_NOW : Field := ⟨.xyStatus, 48, 16, .ro, 0, 1, 0⟩
def xyStatus_POWER_PEAK : Field := ⟨.xyStatus, 64, 16, .rc, 0, 1, 0⟩
def xyStatus_ENV_SAT : Field := ⟨.xyStatus, 80, 32, .ro, 0, 1, 0⟩

/-! biasConfig (R106) -/
def biasConfig_PARK_VALUE : Field := ⟨.biasConfig, 0, 16, .rw, 0, 1, 0⟩
def biasConfig_PARK_SLEW : Field := ⟨.biasConfig, 16, 16, .rw, 10, 1, 0⟩
def biasConfig_OUT_ENABLE : Field := ⟨.biasConfig, 32, 1, .rw, 0, 1, 0⟩
def biasConfig_COMP_ACTION : Field := ⟨.biasConfig, 33, 2, .rw, 0, 1, 0⟩
def biasConfig_OL_ACTION : Field := ⟨.biasConfig, 35, 2, .rw, 2, 1, 0⟩
def biasConfig_COMP_WINDOW : Field := ⟨.biasConfig, 37, 11, .rw, 1500, 1, 0⟩
def biasConfig_PD_BYPASS : Field := ⟨.biasConfig, 48, 1, .rw, 0, 1, 0⟩

/-! biasStatus (R107) -/
def biasStatus_LEVEL : Field := ⟨.biasStatus, 0, 16, .ro, 0, 1, 0⟩
def biasStatus_OUTPUT : Field := ⟨.biasStatus, 16, 16, .ro, 0, 1, 0⟩
def biasStatus_COMP_LATCH : Field := ⟨.biasStatus, 32, 1, .w1c, 0, 1, 0⟩
def biasStatus_OL_LATCH : Field := ⟨.biasStatus, 33, 1, .w1c, 0, 1, 0⟩
def biasStatus_HELD : Field := ⟨.biasStatus, 34, 1, .ro, 0, 1, 0⟩
def biasStatus_PARKED : Field := ⟨.biasStatus, 35, 1, .ro, 0, 1, 0⟩
def biasStatus_SINE_ON : Field := ⟨.biasStatus, 36, 1, .ro, 0, 1, 0⟩
def biasStatus_PD_SET : Field := ⟨.biasStatus, 37, 2, .ro, 0, 1, 0⟩
def biasStatus_VSENSE : Field := ⟨.biasStatus, 48, 16, .ro, 0, 1, 0⟩
def biasStatus_SAT_COUNT : Field := ⟨.biasStatus, 64, 32, .ro, 0, 1, 0⟩
def biasStatus_PARKED_DROP : Field := ⟨.biasStatus, 96, 32, .ro, 0, 1, 0⟩

/-! biasIir (R108) -/
def biasIir_SECT_0 : Field := ⟨.biasIir, 0, 40, .rw, 0, 1, 0⟩
def biasIir_SECT_1 : Field := ⟨.biasIir, 40, 40, .rw, 0, 1, 0⟩
def biasIir_SECT_2 : Field := ⟨.biasIir, 80, 40, .rw, 0, 1, 0⟩
def biasIir_SECT_3 : Field := ⟨.biasIir, 120, 40, .rw, 0, 1, 0⟩
def biasIir_SECT_4 : Field := ⟨.biasIir, 160, 40, .rw, 0, 1, 0⟩
def biasIir_SECT_5 : Field := ⟨.biasIir, 200, 40, .rw, 0, 1, 0⟩
def biasIir_SECT_6 : Field := ⟨.biasIir, 240, 40, .rw, 0, 1, 0⟩
def biasIir_SECT_7 : Field := ⟨.biasIir, 280, 40, .rw, 0, 1, 0⟩

/-! biasFir (R109) -/
def biasFir_TAP_0_1 : Field := ⟨.biasFir, 0, 32, .rw, 16384, 1, 0⟩
def biasFir_TAP_2_3 : Field := ⟨.biasFir, 32, 32, .rw, 0, 1, 0⟩
def biasFir_TAP_4_5 : Field := ⟨.biasFir, 64, 32, .rw, 0, 1, 0⟩
def biasFir_TAP_6_7 : Field := ⟨.biasFir, 96, 32, .rw, 0, 1, 0⟩
def biasFir_TAP_8_9 : Field := ⟨.biasFir, 128, 32, .rw, 0, 1, 0⟩
def biasFir_TAP_10_11 : Field := ⟨.biasFir, 160, 32, .rw, 0, 1, 0⟩
def biasFir_TAP_12_13 : Field := ⟨.biasFir, 192, 32, .rw, 0, 1, 0⟩
def biasFir_TAP_14_15 : Field := ⟨.biasFir, 224, 32, .rw, 0, 1, 0⟩
def biasFir_TAP_16_17 : Field := ⟨.biasFir, 256, 32, .rw, 0, 1, 0⟩
def biasFir_TAP_18_19 : Field := ⟨.biasFir, 288, 32, .rw, 0, 1, 0⟩
def biasFir_TAP_20_21 : Field := ⟨.biasFir, 320, 32, .rw, 0, 1, 0⟩
def biasFir_TAP_22_23 : Field := ⟨.biasFir, 352, 32, .rw, 0, 1, 0⟩
def biasFir_TAP_24_25 : Field := ⟨.biasFir, 384, 32, .rw, 0, 1, 0⟩
def biasFir_TAP_26_27 : Field := ⟨.biasFir, 416, 32, .rw, 0, 1, 0⟩
def biasFir_TAP_28_29 : Field := ⟨.biasFir, 448, 32, .rw, 0, 1, 0⟩
def biasFir_TAP_30_31 : Field := ⟨.biasFir, 480, 32, .rw, 0, 1, 0⟩
def biasFir_FIR_REF : Field := ⟨.biasFir, 512, 3, .rw, 0, 1, 0⟩

/-! probeTone (R129) -/
def probeTone_FTW : Field := ⟨.probeTone, 0, 48, .rw, 0, 1, 0⟩
def probeTone_FRAME : Field := ⟨.probeTone, 48, 32, .rw, 0, 1, 0⟩
def probeTone_ENABLE : Field := ⟨.probeTone, 80, 1, .rw, 0, 1, 0⟩
def probeTone_FREQ_MODE : Field := ⟨.probeTone, 81, 1, .rw, 0, 1, 0⟩

/-! probeConfig (R130) -/
def probeConfig_OUT_ENABLE : Field := ⟨.probeConfig, 0, 1, .rw, 0, 1, 0⟩

/-! probeStatus (R130) -/
def probeStatus_CLIP_COUNT : Field := ⟨.probeStatus, 0, 32, .ro, 0, 1, 0⟩
def probeStatus_CLIP_SEEN : Field := ⟨.probeStatus, 32, 1, .rc, 0, 1, 0⟩
def probeStatus_ENV_SAT : Field := ⟨.probeStatus, 64, 32, .ro, 0, 1, 0⟩

/-! acqTone (R131) -/
def acqTone_FTW : Field := ⟨.acqTone, 0, 48, .rw, 0, 1, 0⟩
def acqTone_PHASE_REF : Field := ⟨.acqTone, 48, 32, .rw, 0, 1, 0⟩
def acqTone_ENABLE : Field := ⟨.acqTone, 80, 1, .rw, 0, 1, 0⟩
def acqTone_CHANNEL : Field := ⟨.acqTone, 81, 5, .ro, 0, 1, 0⟩
def acqTone_INT_SHIFT : Field := ⟨.acqTone, 86, 5, .rw, 0, 1, 0⟩

/-! acqConfig (R132) -/
def acqConfig_ADC_ENABLE : Field := ⟨.acqConfig, 0, 1, .rw, 0, 1, 0⟩
def acqConfig_IQ_DECIM : Field := ⟨.acqConfig, 1, 3, .rw, 1, 1, 0⟩
def acqConfig_SNAP_LEN : Field := ⟨.acqConfig, 4, 9, .rw, 16, 1, 0⟩
def acqConfig_SNAP_EVC : Field := ⟨.acqConfig, 13, 9, .rw, 0, 1, 0⟩
def acqConfig_SNAP_EVC_EN : Field := ⟨.acqConfig, 22, 1, .rw, 0, 1, 0⟩

/-! acqStatus (R132) -/
def acqStatus_WINDOWS : Field := ⟨.acqStatus, 0, 32, .ro, 0, 1, 0⟩
def acqStatus_OVR_COUNT : Field := ⟨.acqStatus, 32, 32, .ro, 0, 1, 0⟩
def acqStatus_ACQ_OVERLAP : Field := ⟨.acqStatus, 64, 16, .ro, 0, 1, 0⟩
def acqStatus_NO_TONE : Field := ⟨.acqStatus, 80, 16, .ro, 0, 1, 0⟩
def acqStatus_SNAP_DROP : Field := ⟨.acqStatus, 96, 16, .ro, 0, 1, 0⟩
def acqStatus_SNAP_BUSY : Field := ⟨.acqStatus, 112, 1, .ro, 0, 1, 0⟩

/-! weightControl (R132) -/
def weightControl_COMMIT_MASK : Field := ⟨.weightControl, 0, 32, .wo, 0, 1, 0⟩
def weightControl_PENDING_MASK : Field := ⟨.weightControl, 32, 32, .ro, 0, 1, 0⟩

/-! histConfig (R133) -/
def histConfig_CENTRE_I : Field := ⟨.histConfig, 0, 32, .rw, 0, 1, 0⟩
def histConfig_CENTRE_Q : Field := ⟨.histConfig, 32, 32, .rw, 0, 1, 0⟩
def histConfig_SHIFT : Field := ⟨.histConfig, 64, 5, .rw, 16, 1, 0⟩
def histConfig_HIST_ENABLE : Field := ⟨.histConfig, 69, 1, .rw, 0, 1, 0⟩
def histConfig_CLEAR : Field := ⟨.histConfig, 70, 1, .wo, 0, 1, 0⟩

/-! histStatus (R133) -/
def histStatus_BINNED : Field := ⟨.histStatus, 0, 32, .ro, 0, 1, 0⟩
def histStatus_OUTSIDE : Field := ⟨.histStatus, 32, 32, .ro, 0, 1, 0⟩
def histStatus_HIST_OVER : Field := ⟨.histStatus, 64, 16, .ro, 0, 1, 0⟩
def histStatus_SAT : Field := ⟨.histStatus, 80, 1, .ro, 0, 1, 0⟩

/-! model (R146) -/
def model_MU0_I : Field := ⟨.model, 0, 32, .rw, 0, 1, 0⟩
def model_MU0_Q : Field := ⟨.model, 32, 32, .rw, 0, 1, 0⟩
def model_MU1_I : Field := ⟨.model, 64, 32, .rw, 0, 1, 0⟩
def model_MU1_Q : Field := ⟨.model, 96, 32, .rw, 0, 1, 0⟩
def model_MU2_I : Field := ⟨.model, 128, 32, .rw, 0, 1, 0⟩
def model_MU2_Q : Field := ⟨.model, 160, 32, .rw, 0, 1, 0⟩
def model_SIGMA_I : Field := ⟨.model, 192, 32, .rw, 0, 1, 0⟩
def model_SIGMA_Q : Field := ⟨.model, 224, 32, .rw, 0, 1, 0⟩
def model_RHO : Field := ⟨.model, 256, 16, .rw, 0, 1, 0⟩
def model_LOGPRIOR_0 : Field := ⟨.model, 272, 16, .rw, 0, 1, 0⟩
def model_LOGPRIOR_1 : Field := ⟨.model, 288, 16, .rw, 0, 1, 0⟩
def model_LOGPRIOR_2 : Field := ⟨.model, 304, 16, .rw, 0, 1, 0⟩
def model_VALID : Field := ⟨.model, 320, 1, .rw, 0, 1, 0⟩

/-! pounceStatus (R147) -/
def pounceStatus_DECISIONS : Field := ⟨.pounceStatus, 0, 32, .ro, 0, 1, 0⟩
def pounceStatus_EARLY_STOPS : Field := ⟨.pounceStatus, 32, 32, .ro, 0, 1, 0⟩
def pounceStatus_LOW_CONF_COUNT : Field := ⟨.pounceStatus, 64, 32, .ro, 0, 1, 0⟩
def pounceStatus_RESID_SUM : Field := ⟨.pounceStatus, 96, 32, .rc, 0, 1, 0⟩
def pounceStatus_RESID_N : Field := ⟨.pounceStatus, 128, 32, .rc, 0, 1, 0⟩
def pounceStatus_RESID_OUT : Field := ⟨.pounceStatus, 160, 32, .rc, 0, 1, 0⟩
def pounceStatus_LAST_OUTCOME : Field := ⟨.pounceStatus, 192, 2, .ro, 0, 1, 0⟩
def pounceStatus_LAST_LOW_CONF : Field := ⟨.pounceStatus, 194, 1, .ro, 0, 1, 0⟩
def pounceStatus_LAST_STOP : Field := ⟨.pounceStatus, 195, 11, .ro, 0, 1, 0⟩
def pounceStatus_MODEL_INVALID : Field := ⟨.pounceStatus, 206, 16, .ro, 0, 1, 0⟩

/-! tilePounce (R147) -/
def tilePounce_REC_OVER : Field := ⟨.tilePounce, 0, 32, .ro, 0, 1, 0⟩

/-! mcVersion (R172) -/
def mcVersion_ROM_ID : Field := ⟨.mcVersion, 0, 32, .ro, 0, 1, 0⟩
def mcVersion_PATCH_ID : Field := ⟨.mcVersion, 32, 32, .ro, 0, 1, 0⟩
def mcVersion_PATCH_HASH : Field := ⟨.mcVersion, 64, 64, .ro, 0, 1, 0⟩
def mcVersion_PATCH_PENDING : Field := ⟨.mcVersion, 128, 1, .ro, 0, 1, 0⟩

/-! patchControl (R172) -/
def patchControl_PATCH_WAIT : Field := ⟨.patchControl, 0, 16, .rw, 10, 1, 0⟩

/-! engineStatus (R173) -/
def engineStatus_STATE : Field := ⟨.engineStatus, 0, 2, .ro, 0, 1, 0⟩
def engineStatus_GUARD : Field := ⟨.engineStatus, 2, 1, .ro, 0, 1, 0⟩
def engineStatus_MC_LASTING : Field := ⟨.engineStatus, 3, 1, .ro, 0, 1, 0⟩
def engineStatus_HOLDOFF_MAX : Field := ⟨.engineStatus, 8, 8, .rc, 0, 1, 0⟩
def engineStatus_TIMEOUT_COUNT : Field := ⟨.engineStatus, 32, 32, .ro, 0, 1, 0⟩
def engineStatus_ABANDON_COUNT : Field := ⟨.engineStatus, 64, 32, .ro, 0, 1, 0⟩
def engineStatus_GUARD_COUNT : Field := ⟨.engineStatus, 96, 32, .ro, 0, 1, 0⟩
def engineStatus_MC_TRANSIENT : Field := ⟨.engineStatus, 128, 32, .ro, 0, 1, 0⟩
def engineStatus_LAST_MC_ADDR : Field := ⟨.engineStatus, 160, 15, .ro, 0, 1, 0⟩
def engineStatus_ATTN_MERGE : Field := ⟨.engineStatus, 192, 32, .ro, 0, 1, 0⟩

/-! engineInterrupt (R174) -/
def engineInterrupt_ATTN_0 : Field := ⟨.engineInterrupt, 0, 10, .rw, 0, 1, 0⟩
def engineInterrupt_ATTN_1 : Field := ⟨.engineInterrupt, 10, 10, .rw, 0, 1, 0⟩
def engineInterrupt_ATTN_2 : Field := ⟨.engineInterrupt, 20, 10, .rw, 0, 1, 0⟩
def engineInterrupt_ATTN_3 : Field := ⟨.engineInterrupt, 30, 10, .rw, 0, 1, 0⟩
def engineInterrupt_ATTN_4 : Field := ⟨.engineInterrupt, 40, 10, .rw, 0, 1, 0⟩
def engineInterrupt_ATTN_5 : Field := ⟨.engineInterrupt, 50, 10, .rw, 0, 1, 0⟩
def engineInterrupt_ATTN_6 : Field := ⟨.engineInterrupt, 60, 10, .rw, 0, 1, 0⟩
def engineInterrupt_ATTN_7 : Field := ⟨.engineInterrupt, 70, 10, .rw, 0, 1, 0⟩

/-! matchReg (R175) -/
def matchReg_ROM_ADDR : Field := ⟨.matchReg, 0, 14, .ro, 0, 1, 0⟩
def matchReg_PATCH_ADDR : Field := ⟨.matchReg, 14, 10, .ro, 0, 1, 0⟩
def matchReg_ENABLE : Field := ⟨.matchReg, 24, 1, .ro, 0, 1, 0⟩

/-! program (R207) -/
def program_JUMP_LATE : Field := ⟨.program, 0, 1, .rw, 0, 1, 0⟩
def program_JUMP_EVC : Field := ⟨.program, 1, 9, .rw, 0, 1, 0⟩
def program_JUMP_EVC_EN : Field := ⟨.program, 10, 1, .rw, 0, 1, 0⟩
def program_JUMP_EVC_ENTRY : Field := ⟨.program, 11, 8, .rw, 0, 1, 0⟩

/-! runStatus (R208) -/
def runStatus_RUN_STATE : Field := ⟨.runStatus, 0, 2, .ro, 0, 1, 0⟩
def runStatus_SEG_ID : Field := ⟨.runStatus, 2, 10, .ro, 0, 1, 0⟩
def runStatus_LIST_POS : Field := ⟨.runStatus, 12, 8, .ro, 0, 1, 0⟩
def runStatus_SHOT_SEQ : Field := ⟨.runStatus, 20, 32, .ro, 0, 1, 0⟩
def runStatus_VOID_SHOTS : Field := ⟨.runStatus, 64, 32, .ro, 0, 1, 0⟩
def runStatus_UNDERRUN_COUNT : Field := ⟨.runStatus, 96, 16, .ro, 0, 1, 0⟩
def runStatus_JUMP_DROP : Field := ⟨.runStatus, 112, 16, .ro, 0, 1, 0⟩
def runStatus_JUMP_DEFER : Field := ⟨.runStatus, 128, 16, .ro, 0, 1, 0⟩
def runStatus_JUMP_REPLACED : Field := ⟨.runStatus, 144, 16, .ro, 0, 1, 0⟩
def runStatus_MARK : Field := ⟨.runStatus, 160, 32, .ro, 0, 1, 0⟩

/-! counters (R208) -/
def counters_CNT : Field := ⟨.counters, 0, 32, .ro, 0, 16, 32⟩

/-! channel (R215) -/
def channel_SRC_EN : Field := ⟨.channel, 0, 9, .rw, 0, 1, 0⟩
def channel_OWNER : Field := ⟨.channel, 9, 4, .rw, 8, 1, 0⟩
def channel_GUARDED : Field := ⟨.channel, 13, 1, .rw, 0, 1, 0⟩
def channel_GROUP : Field := ⟨.channel, 14, 5, .rw, 0, 1, 0⟩
def channel_GROUP_GATE : Field := ⟨.channel, 19, 1, .rw, 0, 1, 0⟩
def channel_CUT : Field := ⟨.channel, 20, 1, .w1c, 0, 1, 0⟩

/-! channelStatus (R216) -/
def channelStatus_ACTIVATIONS : Field := ⟨.channelStatus, 0, 32, .ro, 0, 1, 0⟩
def channelStatus_MERGES : Field := ⟨.channelStatus, 32, 16, .ro, 0, 1, 0⟩
def channelStatus_LATCH_HELD : Field := ⟨.channelStatus, 48, 16, .ro, 0, 1, 0⟩
def channelStatus_GATED_DROP : Field := ⟨.channelStatus, 64, 16, .ro, 0, 1, 0⟩
def channelStatus_CUT_DROP : Field := ⟨.channelStatus, 80, 16, .ro, 0, 1, 0⟩
def channelStatus_LAST_P : Field := ⟨.channelStatus, 96, 2, .ro, 0, 1, 0⟩
def channelStatus_LAST_F : Field := ⟨.channelStatus, 98, 1, .ro, 0, 1, 0⟩
def channelStatus_LAST_H : Field := ⟨.channelStatus, 99, 2, .ro, 0, 1, 0⟩

/-! group (R221) -/
def group_ON_EVC : Field := ⟨.group, 0, 9, .rw, 0, 1, 0⟩
def group_ON_EN : Field := ⟨.group, 9, 1, .rw, 0, 1, 0⟩
def group_OFF_EVC : Field := ⟨.group, 10, 9, .rw, 0, 1, 0⟩
def group_OFF_EN : Field := ⟨.group, 19, 1, .rw, 0, 1, 0⟩
def group_INIT : Field := ⟨.group, 20, 1, .rw, 1, 1, 0⟩
def group_STATE : Field := ⟨.group, 21, 1, .ro, 1, 1, 0⟩

/-! eventCounter (R222) -/
def eventCounter_EVC : Field := ⟨.eventCounter, 0, 9, .rw, 0, 1, 0⟩
def eventCounter_ENABLE : Field := ⟨.eventCounter, 9, 1, .rw, 0, 1, 0⟩
def eventCounter_CLEAR : Field := ⟨.eventCounter, 10, 1, .wo, 0, 1, 0⟩
def eventCounter_COUNT : Field := ⟨.eventCounter, 32, 32, .ro, 0, 1, 0⟩

/-! hatbandControl (R225) -/
def hatbandControl_LOOP_POLICY : Field := ⟨.hatbandControl, 0, 1, .rw, 0, 1, 0⟩
def hatbandControl_LAST_LOOP_EVC : Field := ⟨.hatbandControl, 16, 9, .ro, 0, 1, 0⟩
def hatbandControl_LOOP_COUNT : Field := ⟨.hatbandControl, 32, 32, .ro, 0, 1, 0⟩

/-! trigIn (R226) -/
def trigIn_FILTER : Field := ⟨.trigIn, 0, 7, .rw, 4, 1, 0⟩
def trigIn_POLARITY : Field := ⟨.trigIn, 7, 1, .rw, 0, 1, 0⟩
def trigIn_MIN_INTERVAL : Field := ⟨.trigIn, 8, 16, .rw, 80, 1, 0⟩
def trigIn_STUCK : Field := ⟨.trigIn, 24, 16, .rw, 1000, 1, 0⟩
def trigIn_ENABLE : Field := ⟨.trigIn, 40, 1, .rw, 0, 1, 0⟩

/-! trigInStatus (R226) -/
def trigInStatus_EDGE_SI : Field := ⟨.trigInStatus, 0, 64, .ro, 0, 1, 0⟩
def trigInStatus_EDGES : Field := ⟨.trigInStatus, 64, 32, .ro, 0, 1, 0⟩
def trigInStatus_TRIG_OVERRATE : Field := ⟨.trigInStatus, 96, 16, .rc, 0, 1, 0⟩
def trigInStatus_MASKED : Field := ⟨.trigInStatus, 112, 1, .ro, 0, 1, 0⟩
def trigInStatus_LEVEL : Field := ⟨.trigInStatus, 113, 1, .ro, 0, 1, 0⟩
def trigInStatus_STUCK_COUNT : Field := ⟨.trigInStatus, 114, 14, .ro, 0, 1, 0⟩

/-! trigOut (R226) -/
def trigOut_EVC : Field := ⟨.trigOut, 0, 9, .rw, 0, 1, 0⟩
def trigOut_ENABLE : Field := ⟨.trigOut, 9, 1, .rw, 0, 1, 0⟩
def trigOut_WIDTH : Field := ⟨.trigOut, 10, 8, .rw, 16, 1, 0⟩
def trigOut_POLARITY : Field := ⟨.trigOut, 18, 1, .rw, 0, 1, 0⟩

/-! storeRequester (R243) -/
def storeRequester_RANK : Field := ⟨.storeRequester, 0, 4, .rw, 0, 1, 0⟩
def storeRequester_RANK_ACTIVE : Field := ⟨.storeRequester, 4, 4, .ro, 0, 1, 0⟩
def storeRequester_BURST : Field := ⟨.storeRequester, 8, 9, .rw, 0, 1, 0⟩
def storeRequester_BURST_ACTIVE : Field := ⟨.storeRequester, 17, 9, .ro, 0, 1, 0⟩
def storeRequester_GRANTS : Field := ⟨.storeRequester, 32, 32, .ro, 0, 1, 0⟩
def storeRequester_BEATS : Field := ⟨.storeRequester, 64, 64, .ro, 0, 1, 0⟩

/-! storeControl (R244) -/
def storeControl_COMMIT : Field := ⟨.storeControl, 0, 1, .wo, 0, 1, 0⟩
def storeControl_PENDING : Field := ⟨.storeControl, 1, 1, .ro, 0, 1, 0⟩
def storeControl_SCRUB_PERIOD : Field := ⟨.storeControl, 16, 8, .rw, 24, 1, 0⟩
def storeControl_COMMIT_COUNT : Field := ⟨.storeControl, 32, 32, .ro, 0, 1, 0⟩

/-! storeStatus (R244) -/
def storeStatus_CORRECTED : Field := ⟨.storeStatus, 0, 32, .ro, 0, 1, 0⟩
def storeStatus_TRANSIENT : Field := ⟨.storeStatus, 32, 16, .ro, 0, 1, 0⟩
def storeStatus_LASTING : Field := ⟨.storeStatus, 48, 16, .ro, 0, 1, 0⟩
def storeStatus_SPARES_LEFT : Field := ⟨.storeStatus, 64, 13, .ro, 4096, 1, 0⟩
def storeStatus_SELF_REFRESH : Field := ⟨.storeStatus, 77, 1, .ro, 0, 1, 0⟩
def storeStatus_SCRUB_PASSES : Field := ⟨.storeStatus, 96, 32, .ro, 0, 1, 0⟩

/-! libArbiter (R245) -/
def libArbiter_RANK_PLAYBACK : Field := ⟨.libArbiter, 0, 4, .ro, 0, 1, 0⟩
def libArbiter_RANK_REFILL : Field := ⟨.libArbiter, 4, 4, .rw, 1, 1, 0⟩
def libArbiter_RANK_HOST_WRITE : Field := ⟨.libArbiter, 8, 4, .rw, 2, 1, 0⟩
def libArbiter_RANK_READBACK : Field := ⟨.libArbiter, 12, 4, .rw, 3, 1, 0⟩
def libArbiter_RANK_CROWN : Field := ⟨.libArbiter, 16, 4, .rw, 4, 1, 0⟩
def libArbiter_RANK_SCRUB : Field := ⟨.libArbiter, 20, 4, .rw, 15, 1, 0⟩
def libArbiter_COMMIT : Field := ⟨.libArbiter, 24, 1, .wo, 0, 1, 0⟩

/-! libStatus (R245) -/
def libStatus_PARITY_TRANSIENT : Field := ⟨.libStatus, 0, 16, .ro, 0, 1, 0⟩
def libStatus_PARITY_LASTING : Field := ⟨.libStatus, 16, 16, .ro, 0, 1, 0⟩
def libStatus_SPARES_LEFT : Field := ⟨.libStatus, 32, 7, .ro, 64, 1, 0⟩

/-! ulpControl (R271) -/
def ulpControl_TX_POWER : Field := ⟨.ulpControl, 0, 2, .rw, 0, 1, 0⟩
def ulpControl_RX_POWER : Field := ⟨.ulpControl, 2, 2, .rw, 0, 1, 0⟩
def ulpControl_ENABLE : Field := ⟨.ulpControl, 4, 1, .rw, 0, 1, 0⟩
def ulpControl_BARRIER_PORT : Field := ⟨.ulpControl, 5, 1, .rw, 0, 1, 0⟩
def ulpControl_BAR_LEAD : Field := ⟨.ulpControl, 6, 10, .rw, 56, 1, 0⟩
def ulpControl_COMMIT : Field := ⟨.ulpControl, 16, 1, .wo, 0, 1, 0⟩
def ulpControl_TEST : Field := ⟨.ulpControl, 17, 1, .rw, 0, 1, 0⟩
def ulpControl_LOOPBACK : Field := ⟨.ulpControl, 18, 2, .rw, 0, 1, 0⟩

/-! ulpStatus (R272) -/
def ulpStatus_RX_STATE : Field := ⟨.ulpStatus, 0, 3, .ro, 0, 1, 0⟩
def ulpStatus_TX_STATE : Field := ⟨.ulpStatus, 3, 3, .ro, 0, 1, 0⟩
def ulpStatus_LANE_LOCK : Field := ⟨.ulpStatus, 6, 8, .ro, 0, 1, 0⟩
def ulpStatus_MISMATCH : Field := ⟨.ulpStatus, 14, 1, .ro, 0, 1, 0⟩
def ulpStatus_SWAP_PENDING : Field := ⟨.ulpStatus, 15, 1, .ro, 0, 1, 0⟩
def ulpStatus_SWAP_FAILED : Field := ⟨.ulpStatus, 16, 1, .rc, 0, 1, 0⟩
def ulpStatus_ACTIVE_BANK : Field := ⟨.ulpStatus, 17, 1, .ro, 0, 1, 0⟩
def ulpStatus_SUPERFRAME : Field := ⟨.ulpStatus, 32, 32, .ro, 0, 1, 0⟩
def ulpStatus_DEC_DUP_USED : Field := ⟨.ulpStatus, 64, 16, .ro, 0, 1, 0⟩
def ulpStatus_DEC_MISSING : Field := ⟨.ulpStatus, 80, 16, .ro, 0, 1, 0⟩
def ulpStatus_BULK_RETX : Field := ⟨.ulpStatus, 96, 16, .ro, 0, 1, 0⟩
def ulpStatus_BULK_LASTING : Field := ⟨.ulpStatus, 112, 16, .ro, 0, 1, 0⟩
def ulpStatus_LOCK_LOSS : Field := ⟨.ulpStatus, 128, 16, .ro, 0, 1, 0⟩
def ulpStatus_VOID_STALE : Field := ⟨.ulpStatus, 144, 16, .ro, 0, 1, 0⟩
def ulpStatus_ACTIVE_HASH : Field := ⟨.ulpStatus, 160, 32, .ro, 0, 1, 0⟩
def ulpStatus_REMOTE_HASH : Field := ⟨.ulpStatus, 192, 32, .ro, 0, 1, 0⟩

/-! slotTable (R273) -/
def slotTable_ENTRY : Field := ⟨.slotTable, 0, 2, .rw, 0, 256, 2⟩

/-! ulpStreams (R274) -/
def ulpStreams_STREAM : Field := ⟨.ulpStreams, 0, 10, .rw, 0, 8, 10⟩

/-! ulpLane (R275) -/
def ulpLane_FFE_PRE : Field := ⟨.ulpLane, 0, 6, .rw, 0, 1, 0⟩
def ulpLane_FFE_MAIN : Field := ⟨.ulpLane, 6, 6, .rw, 0, 1, 0⟩
def ulpLane_FFE_POST : Field := ⟨.ulpLane, 12, 6, .rw, 0, 1, 0⟩
def ulpLane_CTLE : Field := ⟨.ulpLane, 18, 4, .rw, 0, 1, 0⟩
def ulpLane_PRBS : Field := ⟨.ulpLane, 22, 2, .rw, 0, 1, 0⟩
def ulpLane_PRBS_CHECK : Field := ⟨.ulpLane, 24, 1, .rw, 0, 1, 0⟩
def ulpLane_INJ_MODE : Field := ⟨.ulpLane, 25, 2, .rw, 0, 1, 0⟩
def ulpLane_INJ_LEN : Field := ⟨.ulpLane, 27, 6, .rw, 0, 1, 0⟩
def ulpLane_INJ_RATE : Field := ⟨.ulpLane, 33, 6, .rw, 30, 1, 0⟩
def ulpLane_INJ_GO : Field := ⟨.ulpLane, 39, 1, .wo, 0, 1, 0⟩
def ulpLane_PRBS_ERRORS : Field := ⟨.ulpLane, 64, 32, .rc, 0, 1, 0⟩
def ulpLane_PRBS_SYNC : Field := ⟨.ulpLane, 96, 1, .ro, 0, 1, 0⟩

/-! capControl (R302) -/
def capControl_CAP_BASE : Field := ⟨.capControl, 0, 22, .rw, 65536, 1, 0⟩
def capControl_CAP_SIZE : Field := ⟨.capControl, 22, 22, .rw, 0, 1, 0⟩
def capControl_DEC_REC : Field := ⟨.capControl, 44, 1, .rw, 1, 1, 0⟩
def capControl_IQ_REC : Field := ⟨.capControl, 45, 16, .rw, 0, 1, 0⟩
def capControl_AUTO : Field := ⟨.capControl, 61, 1, .rw, 0, 1, 0⟩
def capControl_RESERVE : Field := ⟨.capControl, 64, 16, .rw, 16, 1, 0⟩

/-! capStatus (R303) -/
def capStatus_CAP_WP : Field := ⟨.capStatus, 0, 64, .ro, 0, 1, 0⟩
def capStatus_CAP_RP : Field := ⟨.capStatus, 64, 64, .rw, 0, 1, 0⟩
def capStatus_IQ_DROP : Field := ⟨.capStatus, 128, 32, .ro, 0, 1, 0⟩
def capStatus_DEC_DROP : Field := ⟨.capStatus, 160, 32, .ro, 0, 1, 0⟩
def capStatus_SURVEY_STEP : Field := ⟨.capStatus, 192, 3, .ro, 0, 1, 0⟩
def capStatus_SHED_STOP : Field := ⟨.capStatus, 195, 1, .ro, 0, 1, 0⟩

/-! outQueue (R304) -/
def outQueue_BASE : Field := ⟨.outQueue, 0, 22, .rw, 0, 1, 0⟩
def outQueue_SIZE : Field := ⟨.outQueue, 22, 22, .rw, 0, 1, 0⟩
def outQueue_ENABLE : Field := ⟨.outQueue, 44, 1, .rw, 0, 1, 0⟩
def outQueue_WP : Field := ⟨.outQueue, 64, 64, .ro, 0, 1, 0⟩
def outQueue_RP : Field := ⟨.outQueue, 128, 64, .rw, 0, 1, 0⟩
def outQueue_JOBS_DONE : Field := ⟨.outQueue, 192, 32, .ro, 0, 1, 0⟩
def outQueue_NO_SPACE_COUNT : Field := ⟨.outQueue, 224, 16, .ro, 0, 1, 0⟩
def outQueue_FAULT_COUNT : Field := ⟨.outQueue, 240, 16, .ro, 0, 1, 0⟩

/-! fullingStatus (R305) -/
def fullingStatus_ENGINE_BUSY : Field := ⟨.fullingStatus, 0, 8, .ro, 0, 1, 0⟩
def fullingStatus_THROTTLED : Field := ⟨.fullingStatus, 8, 1, .ro, 0, 1, 0⟩
def fullingStatus_JOBS_WAITING : Field := ⟨.fullingStatus, 16, 16, .ro, 0, 1, 0⟩
def fullingStatus_SEAL_BAD_BLOCKS : Field := ⟨.fullingStatus, 32, 32, .ro, 0, 1, 0⟩

/-! timeControl (R317) -/
def timeControl_SOURCE : Field := ⟨.timeControl, 0, 2, .rw, 0, 1, 0⟩
def timeControl_TIME_PORT : Field := ⟨.timeControl, 2, 2, .rw, 0, 1, 0⟩
def timeControl_PTP_ROLE : Field := ⟨.timeControl, 4, 1, .rw, 0, 1, 0⟩
def timeControl_PTP_TWO_STEP : Field := ⟨.timeControl, 5, 1, .rw, 0, 1, 0⟩
def timeControl_PTP_TRANSPORT : Field := ⟨.timeControl, 6, 2, .rw, 1, 1, 0⟩
def timeControl_PTP_DOMAIN : Field := ⟨.timeControl, 8, 8, .rw, 0, 1, 0⟩
def timeControl_PTP_PRIORITY1 : Field := ⟨.timeControl, 16, 8, .rw, 128, 1, 0⟩
def timeControl_PTP_PRIORITY2 : Field := ⟨.timeControl, 24, 8, .rw, 128, 1, 0⟩
def timeControl_LOG_ANNOUNCE : Field := ⟨.timeControl, 32, 3, .rw, 1, 1, 0⟩
def timeControl_LOG_SYNC : Field := ⟨.timeControl, 35, 3, .rw, 0, 1, 0⟩
def timeControl_LOG_DELAY_REQ : Field := ⟨.timeControl, 38, 3, .rw, 0, 1, 0⟩
def timeControl_ANNOUNCE_TIMEOUT : Field := ⟨.timeControl, 41, 8, .rw, 3, 1, 0⟩
def timeControl_PPS_OUT_EN : Field := ⟨.timeControl, 49, 1, .rw, 0, 1, 0⟩
def timeControl_PPS_WIDTH : Field := ⟨.timeControl, 50, 10, .rw, 100, 1, 0⟩
def timeControl_PPS_IN_POLARITY : Field := ⟨.timeControl, 60, 1, .rw, 0, 1, 0⟩
def timeControl_ULP_SERVE : Field := ⟨.timeControl, 61, 1, .rw, 0, 1, 0⟩
def timeControl_LOCK_WINDOW : Field := ⟨.timeControl, 64, 20, .rw, 100, 1, 0⟩

/-! timeStatus (R318) -/
def timeStatus_WALL_NS : Field := ⟨.timeStatus, 0, 64, .ro, 0, 1, 0⟩
def timeStatus_WALL_FRAC : Field := ⟨.timeStatus, 64, 32, .ro, 0, 1, 0⟩
def timeStatus_WALL_SI : Field := ⟨.timeStatus, 96, 64, .ro, 0, 1, 0⟩
def timeStatus_TIME_VALID : Field := ⟨.timeStatus, 160, 1, .ro, 0, 1, 0⟩
def timeStatus_STEPPED : Field := ⟨.timeStatus, 161, 1, .ro, 0, 1, 0⟩
def timeStatus_LOCKED : Field := ⟨.timeStatus, 162, 1, .ro, 0, 1, 0⟩
def timeStatus_HOLDOVER : Field := ⟨.timeStatus, 163, 1, .ro, 0, 1, 0⟩
def timeStatus_RATE_ADJ : Field := ⟨.timeStatus, 192, 32, .rw, 0, 1, 0⟩
def timeStatus_OFFSET : Field := ⟨.timeStatus, 224, 32, .ro, 0, 1, 0⟩
def timeStatus_STEP_COUNT : Field := ⟨.timeStatus, 256, 16, .ro, 0, 1, 0⟩

/-! compareUnit (R319) -/
def compareUnit_TARGET : Field := ⟨.compareUnit, 0, 64, .rw, 0, 1, 0⟩
def compareUnit_PERIOD : Field := ⟨.compareUnit, 64, 32, .rw, 0, 1, 0⟩
def compareUnit_ARM : Field := ⟨.compareUnit, 96, 1, .rw, 0, 1, 0⟩
def compareUnit_FIRED : Field := ⟨.compareUnit, 128, 32, .ro, 0, 1, 0⟩
def compareUnit_MISSED : Field := ⟨.compareUnit, 160, 16, .ro, 0, 1, 0⟩

/-! linkStatus (R347) -/
def linkStatus_RATE : Field := ⟨.linkStatus, 0, 2, .ro, 0, 1, 0⟩
def linkStatus_WIDTH : Field := ⟨.linkStatus, 2, 2, .ro, 0, 1, 0⟩
def linkStatus_LINK_UP : Field := ⟨.linkStatus, 4, 1, .ro, 0, 1, 0⟩
def linkStatus_SHED_X4 : Field := ⟨.linkStatus, 5, 1, .ro, 0, 1, 0⟩
def linkStatus_NUM_VFS : Field := ⟨.linkStatus, 6, 3, .ro, 0, 1, 0⟩
def linkStatus_LINK_DOWN_COUNT : Field := ⟨.linkStatus, 32, 32, .ro, 0, 1, 0⟩

/-! ownership (R348) -/
def ownership_OWNER : Field := ⟨.ownership, 0, 4, .rw, 0, 16, 4⟩

/-! mailboxAssign (R348) -/
def mailboxAssign_MBX : Field := ⟨.mailboxAssign, 0, 8, .rw, 0, 16, 8⟩

/-! bar4Window (R349) -/
def bar4Window_WIN_BASE : Field := ⟨.bar4Window, 0, 14, .rw, 256, 1, 0⟩

/-! ethPort (R350) -/
def ethPort_ENABLE : Field := ⟨.ethPort, 0, 1, .rw, 0, 1, 0⟩
def ethPort_FEC_EN : Field := ⟨.ethPort, 1, 1, .rw, 0, 1, 0⟩
def ethPort_REMOTE_EN : Field := ⟨.ethPort, 2, 1, .rw, 0, 1, 0⟩
def ethPort_REMOTE_Q : Field := ⟨.ethPort, 3, 4, .rw, 0, 1, 0⟩
def ethPort_LINK_OK : Field := ⟨.ethPort, 7, 1, .ro, 0, 1, 0⟩

/-! ring (R351) -/
def ring_BASE : Field := ⟨.ring, 0, 64, .rw, 0, 1, 0⟩
def ring_LOG2_SIZE : Field := ⟨.ring, 64, 4, .rw, 8, 1, 0⟩
def ring_ENABLE : Field := ⟨.ring, 68, 1, .rw, 0, 1, 0⟩
def ring_SOURCE : Field := ⟨.ring, 69, 5, .rw, 0, 1, 0⟩
def ring_STALLED : Field := ⟨.ring, 74, 1, .w1c, 0, 1, 0⟩
def ring_COALESCE : Field := ⟨.ring, 96, 16, .rw, 0, 1, 0⟩
def ring_FLUSH_US : Field := ⟨.ring, 112, 16, .rw, 100, 1, 0⟩
def ring_DESCRIPTORS : Field := ⟨.ring, 128, 32, .ro, 0, 1, 0⟩

/-! powerStatus (R387) -/
def powerStatus_VIN_A : Field := ⟨.powerStatus, 0, 16, .ro, 0, 1, 0⟩
def powerStatus_IIN_A : Field := ⟨.powerStatus, 16, 16, .ro, 0, 1, 0⟩
def powerStatus_VIN_B : Field := ⟨.powerStatus, 32, 16, .ro, 0, 1, 0⟩
def powerStatus_IIN_B : Field := ⟨.powerStatus, 48, 16, .ro, 0, 1, 0⟩
def powerStatus_FEED_A_OK : Field := ⟨.powerStatus, 64, 1, .ro, 0, 1, 0⟩
def powerStatus_FEED_B_OK : Field := ⟨.powerStatus, 65, 1, .ro, 0, 1, 0⟩
def powerStatus_SHED_STAGE : Field := ⟨.powerStatus, 66, 3, .ro, 0, 1, 0⟩
def powerStatus_THROTTLE_STEP : Field := ⟨.powerStatus, 69, 3, .ro, 0, 1, 0⟩
def powerStatus_THROTTLE_ENGAGED : Field := ⟨.powerStatus, 72, 1, .ro, 0, 1, 0⟩
def powerStatus_WARNING : Field := ⟨.powerStatus, 73, 1, .ro, 0, 1, 0⟩
def powerStatus_PIN : Field := ⟨.powerStatus, 96, 32, .ro, 0, 1, 0⟩
def powerStatus_FEED_A_DROPS : Field := ⟨.powerStatus, 128, 16, .ro, 0, 1, 0⟩
def powerStatus_FEED_B_DROPS : Field := ⟨.powerStatus, 144, 16, .ro, 0, 1, 0⟩
def powerStatus_SHED_ENTRIES : Field := ⟨.powerStatus, 160, 16, .ro, 0, 1, 0⟩

/-! thermalControl (R388) -/
def thermalControl_WARN_C : Field := ⟨.thermalControl, 0, 7, .rw, 95, 1, 0⟩
def thermalControl_THROTTLE_C : Field := ⟨.thermalControl, 7, 7, .rw, 105, 1, 0⟩
def thermalControl_SHUTDOWN_C : Field := ⟨.thermalControl, 14, 7, .rw, 118, 1, 0⟩
def thermalControl_FAIL_MODE : Field := ⟨.thermalControl, 21, 1, .rw, 0, 1, 0⟩
def thermalControl_NB_MARGIN : Field := ⟨.thermalControl, 22, 5, .rw, 6, 1, 0⟩
def thermalControl_THROTTLE_DWELL : Field := ⟨.thermalControl, 27, 10, .rw, 100, 1, 0⟩
def thermalControl_THR_SURVEY_STEP : Field := ⟨.thermalControl, 37, 3, .rw, 1, 1, 0⟩
def thermalControl_THR_HOST_CAP : Field := ⟨.thermalControl, 40, 8, .rw, 16, 1, 0⟩
def thermalControl_THR_GAP_FACTOR : Field := ⟨.thermalControl, 48, 4, .rw, 2, 1, 0⟩

/-! sensor (R389) -/
def sensor_TEMP : Field := ⟨.sensor, 0, 16, .ro, 0, 1, 0⟩
def sensor_EFFECTIVE : Field := ⟨.sensor, 16, 16, .ro, 0, 1, 0⟩
def sensor_FAILED : Field := ⟨.sensor, 32, 1, .w1c, 0, 1, 0⟩
def sensor_FAIL_CAUSE : Field := ⟨.sensor, 33, 2, .ro, 0, 1, 0⟩
def sensor_LEVEL : Field := ⟨.sensor, 35, 2, .ro, 0, 1, 0⟩
def sensor_FAST : Field := ⟨.sensor, 37, 1, .ro, 0, 1, 0⟩
def sensor_FAIL_COUNT : Field := ⟨.sensor, 48, 16, .ro, 0, 1, 0⟩
def sensor_PEAK : Field := ⟨.sensor, 64, 16, .rc, 0, 1, 0⟩

/-! monControl (R390) -/
def monControl_REG_TRIG : Field := ⟨.monControl, 0, 2, .rw, 0, 1, 0⟩
def monControl_REG_LAST : Field := ⟨.monControl, 2, 6, .rw, 0, 1, 0⟩
def monControl_INJ_LAST : Field := ⟨.monControl, 8, 3, .rw, 0, 1, 0⟩
def monControl_TIMER_PERIOD : Field := ⟨.monControl, 12, 16, .rw, 1000, 1, 0⟩
def monControl_REG_EVC : Field := ⟨.monControl, 28, 9, .rw, 0, 1, 0⟩
def monControl_INJ_EVC : Field := ⟨.monControl, 37, 9, .rw, 0, 1, 0⟩
def monControl_INJ_EVC_EN : Field := ⟨.monControl, 46, 1, .rw, 0, 1, 0⟩
def monControl_INJ_COMPLIANCE : Field := ⟨.monControl, 47, 1, .rw, 0, 1, 0⟩
def monControl_INJ_SAG : Field := ⟨.monControl, 48, 1, .rw, 0, 1, 0⟩
def monControl_INJ_THROTTLE : Field := ⟨.monControl, 49, 1, .rw, 0, 1, 0⟩
def monControl_START_DELAY : Field := ⟨.monControl, 51, 16, .rw, 0, 1, 0⟩
def monControl_PW_BIAS : Field := ⟨.monControl, 67, 7, .rw, 0, 1, 0⟩
def monControl_PW_THRESH : Field := ⟨.monControl, 74, 16, .rw, 0, 1, 0⟩
def monControl_PW_WIDTH : Field := ⟨.monControl, 90, 24, .rw, 1, 1, 0⟩

/-! monStatus (R390) -/
def monStatus_REG_BUSY : Field := ⟨.monStatus, 0, 1, .ro, 0, 1, 0⟩
def monStatus_INJ_BUSY : Field := ⟨.monStatus, 1, 1, .ro, 0, 1, 0⟩
def monStatus_REG_POS : Field := ⟨.monStatus, 2, 6, .ro, 0, 1, 0⟩
def monStatus_CAL_BUSY : Field := ⟨.monStatus, 8, 1, .ro, 0, 1, 0⟩
def monStatus_REG_TRIG_DROP : Field := ⟨.monStatus, 16, 16, .ro, 0, 1, 0⟩
def monStatus_INJ_TRIG_DROP : Field := ⟨.monStatus, 32, 16, .ro, 0, 1, 0⟩
def monStatus_LIMIT_COUNT : Field := ⟨.monStatus, 48, 16, .ro, 0, 1, 0⟩
def monStatus_REG_RUNS : Field := ⟨.monStatus, 64, 32, .ro, 0, 1, 0⟩
def monStatus_INJ_RUNS : Field := ⟨.monStatus, 96, 32, .ro, 0, 1, 0⟩

/-! monEntries (R391) -/
def monEntries_ENTRY : Field := ⟨.monEntries, 0, 48, .rw, 0, 16, 48⟩

/-! monInjEntries (R391) -/
def monInjEntries_ENTRY : Field := ⟨.monInjEntries, 0, 48, .rw, 0, 8, 48⟩

/-! monInjResults (R391) -/
def monInjResults_RESULT : Field := ⟨.monInjResults, 0, 16, .ro, 0, 8, 16⟩
def monInjResults_INJ_WALL_NS : Field := ⟨.monInjResults, 128, 64, .ro, 0, 1, 0⟩

/-! monCal (R392) -/
def monCal_OFFSET : Field := ⟨.monCal, 0, 16, .ro, 0, 1, 0⟩
def monCal_GAIN : Field := ⟨.monCal, 16, 16, .ro, 32768, 1, 0⟩
def monCal_CAL_WALL_NS : Field := ⟨.monCal, 32, 64, .ro, 0, 1, 0⟩
def monCal_CAL_COUNT : Field := ⟨.monCal, 96, 32, .ro, 0, 1, 0⟩

/-! modeRecord (R416) -/
def modeRecord_MODE : Field := ⟨.modeRecord, 0, 3, .ro, 0, 1, 0⟩
def modeRecord_PREV_MODE : Field := ⟨.modeRecord, 3, 3, .ro, 0, 1, 0⟩
def modeRecord_CAUSE : Field := ⟨.modeRecord, 8, 16, .ro, 0, 1, 0⟩
def modeRecord_CORE : Field := ⟨.modeRecord, 24, 1, .ro, 0, 1, 0⟩
def modeRecord_B_PARKED : Field := ⟨.modeRecord, 25, 1, .ro, 0, 1, 0⟩
def modeRecord_A_OUT : Field := ⟨.modeRecord, 26, 1, .ro, 0, 1, 0⟩
def modeRecord_B_OUT : Field := ⟨.modeRecord, 27, 1, .ro, 0, 1, 0⟩
def modeRecord_BOOT_IMAGE : Field := ⟨.modeRecord, 28, 1, .ro, 0, 1, 0⟩
def modeRecord_RECOVERY : Field := ⟨.modeRecord, 29, 1, .ro, 0, 1, 0⟩
def modeRecord_HANDOVERS : Field := ⟨.modeRecord, 32, 16, .ro, 0, 1, 0⟩
def modeRecord_TAKEBACKS : Field := ⟨.modeRecord, 48, 16, .ro, 0, 1, 0⟩
def modeRecord_MODE_WALL_NS : Field := ⟨.modeRecord, 64, 64, .ro, 0, 1, 0⟩
def modeRecord_SAFE_ENTRIES : Field := ⟨.modeRecord, 128, 32, .ro, 0, 1, 0⟩

/-! logStatus (R416) -/
def logStatus_ENTRIES : Field := ⟨.logStatus, 0, 10, .ro, 0, 1, 0⟩
def logStatus_OVERFLOW : Field := ⟨.logStatus, 10, 1, .ro, 0, 1, 0⟩
def logStatus_INTAKE : Field := ⟨.logStatus, 16, 6, .ro, 0, 1, 0⟩
def logStatus_LOST : Field := ⟨.logStatus, 32, 32, .ro, 0, 1, 0⟩
def logStatus_NEXT_SEQ : Field := ⟨.logStatus, 64, 32, .ro, 0, 1, 0⟩

end F

/-- The fields of a family; the bits that no field covers are reserved. -/
def Rec.fields : Rec → List Field
  | .lateStatus =>
    [F.lateStatus_LATE_COUNT, F.lateStatus_MIN_MARGIN, F.lateStatus_MIN_MARGIN_CH]
  | .timingSet =>
    [F.timingSet_OFS_DRV0, F.timingSet_OFS_DRV1, F.timingSet_OFS_DRV2, F.timingSet_OFS_DRV3,
     F.timingSet_OFS_PRB, F.timingSet_OFS_ACQ, F.timingSet_OFS_BIAS0, F.timingSet_OFS_BIAS1,
     F.timingSet_OFS_BIAS2, F.timingSet_OFS_BIAS3, F.timingSet_OFS_BIAS4, F.timingSet_OFS_BIAS5,
     F.timingSet_OFS_BIAS6, F.timingSet_OFS_BIAS7]
  | .gridStatus =>
    [F.gridStatus_SI, F.gridStatus_SI_VALID, F.gridStatus_PLL_LOCK, F.gridStatus_REFCLK_OK,
     F.gridStatus_SYNC_ARMED, F.gridStatus_SYNC_MARGIN_LOW, F.gridStatus_SYNC_EXTRA_COUNT,
     F.gridStatus_SYNC_ACCEPT_COUNT]
  | .syncControl =>
    [F.syncControl_SYNC_OUT_MODE, F.syncControl_EPOCH_ADJ, F.syncControl_SYNC_TAP,
     F.syncControl_SYNC_PHASE]
  | .blockGroup =>
    [F.blockGroup_CAL_COUNT, F.blockGroup_LAST_CAL_TIME, F.blockGroup_HOLD, F.blockGroup_ACTIVE,
     F.blockGroup_WORST_ERROR, F.blockGroup_STEP_INTERVAL]
  | .blockControl =>
    [F.blockControl_CAL_INTERVAL]
  | .matrixRow =>
    [F.matrixRow_COEF_0, F.matrixRow_COEF_1, F.matrixRow_COEF_2, F.matrixRow_COEF_3,
     F.matrixRow_COEF_4, F.matrixRow_COEF_5, F.matrixRow_COEF_6, F.matrixRow_COEF_7,
     F.matrixRow_COEF_8, F.matrixRow_COEF_9, F.matrixRow_COEF_10, F.matrixRow_COEF_11,
     F.matrixRow_COEF_12, F.matrixRow_COEF_13, F.matrixRow_COEF_14, F.matrixRow_COEF_15,
     F.matrixRow_ROW_DELAY, F.matrixRow_ROW_ENABLE]
  | .matrixControl =>
    [F.matrixControl_COMMIT, F.matrixControl_PENDING, F.matrixControl_COMMIT_COUNT]
  | .driveTone =>
    [F.driveTone_FTW, F.driveTone_FRAME, F.driveTone_ENABLE, F.driveTone_FREQ_MODE]
  | .xyConfig =>
    [F.xyConfig_MODE, F.xyConfig_OUT_ENABLE, F.xyConfig_POWER_K, F.xyConfig_POWER_ACTION,
     F.xyConfig_POWER_LIMIT]
  | .xyStatus =>
    [F.xyStatus_CLIP_COUNT, F.xyStatus_CLIP_SEEN, F.xyStatus_MUTED, F.xyStatus_POWER_NOW,
     F.xyStatus_POWER_PEAK, F.xyStatus_ENV_SAT]
  | .biasConfig =>
    [F.biasConfig_PARK_VALUE, F.biasConfig_PARK_SLEW, F.biasConfig_OUT_ENABLE,
     F.biasConfig_COMP_ACTION, F.biasConfig_OL_ACTION, F.biasConfig_COMP_WINDOW,
     F.biasConfig_PD_BYPASS]
  | .biasStatus =>
    [F.biasStatus_LEVEL, F.biasStatus_OUTPUT, F.biasStatus_COMP_LATCH, F.biasStatus_OL_LATCH,
     F.biasStatus_HELD, F.biasStatus_PARKED, F.biasStatus_SINE_ON, F.biasStatus_PD_SET,
     F.biasStatus_VSENSE, F.biasStatus_SAT_COUNT, F.biasStatus_PARKED_DROP]
  | .biasIir =>
    [F.biasIir_SECT_0, F.biasIir_SECT_1, F.biasIir_SECT_2, F.biasIir_SECT_3, F.biasIir_SECT_4,
     F.biasIir_SECT_5, F.biasIir_SECT_6, F.biasIir_SECT_7]
  | .biasFir =>
    [F.biasFir_TAP_0_1, F.biasFir_TAP_2_3, F.biasFir_TAP_4_5, F.biasFir_TAP_6_7, F.biasFir_TAP_8_9,
     F.biasFir_TAP_10_11, F.biasFir_TAP_12_13, F.biasFir_TAP_14_15, F.biasFir_TAP_16_17,
     F.biasFir_TAP_18_19, F.biasFir_TAP_20_21, F.biasFir_TAP_22_23, F.biasFir_TAP_24_25,
     F.biasFir_TAP_26_27, F.biasFir_TAP_28_29, F.biasFir_TAP_30_31, F.biasFir_FIR_REF]
  | .probeTone =>
    [F.probeTone_FTW, F.probeTone_FRAME, F.probeTone_ENABLE, F.probeTone_FREQ_MODE]
  | .probeConfig =>
    [F.probeConfig_OUT_ENABLE]
  | .probeStatus =>
    [F.probeStatus_CLIP_COUNT, F.probeStatus_CLIP_SEEN, F.probeStatus_ENV_SAT]
  | .acqTone =>
    [F.acqTone_FTW, F.acqTone_PHASE_REF, F.acqTone_ENABLE, F.acqTone_CHANNEL, F.acqTone_INT_SHIFT]
  | .acqConfig =>
    [F.acqConfig_ADC_ENABLE, F.acqConfig_IQ_DECIM, F.acqConfig_SNAP_LEN, F.acqConfig_SNAP_EVC,
     F.acqConfig_SNAP_EVC_EN]
  | .acqStatus =>
    [F.acqStatus_WINDOWS, F.acqStatus_OVR_COUNT, F.acqStatus_ACQ_OVERLAP, F.acqStatus_NO_TONE,
     F.acqStatus_SNAP_DROP, F.acqStatus_SNAP_BUSY]
  | .weightControl =>
    [F.weightControl_COMMIT_MASK, F.weightControl_PENDING_MASK]
  | .histConfig =>
    [F.histConfig_CENTRE_I, F.histConfig_CENTRE_Q, F.histConfig_SHIFT, F.histConfig_HIST_ENABLE,
     F.histConfig_CLEAR]
  | .histStatus =>
    [F.histStatus_BINNED, F.histStatus_OUTSIDE, F.histStatus_HIST_OVER, F.histStatus_SAT]
  | .model =>
    [F.model_MU0_I, F.model_MU0_Q, F.model_MU1_I, F.model_MU1_Q, F.model_MU2_I, F.model_MU2_Q,
     F.model_SIGMA_I, F.model_SIGMA_Q, F.model_RHO, F.model_LOGPRIOR_0, F.model_LOGPRIOR_1,
     F.model_LOGPRIOR_2, F.model_VALID]
  | .pounceStatus =>
    [F.pounceStatus_DECISIONS, F.pounceStatus_EARLY_STOPS, F.pounceStatus_LOW_CONF_COUNT,
     F.pounceStatus_RESID_SUM, F.pounceStatus_RESID_N, F.pounceStatus_RESID_OUT,
     F.pounceStatus_LAST_OUTCOME, F.pounceStatus_LAST_LOW_CONF, F.pounceStatus_LAST_STOP,
     F.pounceStatus_MODEL_INVALID]
  | .tilePounce =>
    [F.tilePounce_REC_OVER]
  | .mcVersion =>
    [F.mcVersion_ROM_ID, F.mcVersion_PATCH_ID, F.mcVersion_PATCH_HASH, F.mcVersion_PATCH_PENDING]
  | .patchControl =>
    [F.patchControl_PATCH_WAIT]
  | .engineStatus =>
    [F.engineStatus_STATE, F.engineStatus_GUARD, F.engineStatus_MC_LASTING,
     F.engineStatus_HOLDOFF_MAX, F.engineStatus_TIMEOUT_COUNT, F.engineStatus_ABANDON_COUNT,
     F.engineStatus_GUARD_COUNT, F.engineStatus_MC_TRANSIENT, F.engineStatus_LAST_MC_ADDR,
     F.engineStatus_ATTN_MERGE]
  | .engineInterrupt =>
    [F.engineInterrupt_ATTN_0, F.engineInterrupt_ATTN_1, F.engineInterrupt_ATTN_2,
     F.engineInterrupt_ATTN_3, F.engineInterrupt_ATTN_4, F.engineInterrupt_ATTN_5,
     F.engineInterrupt_ATTN_6, F.engineInterrupt_ATTN_7]
  | .matchReg =>
    [F.matchReg_ROM_ADDR, F.matchReg_PATCH_ADDR, F.matchReg_ENABLE]
  | .program =>
    [F.program_JUMP_LATE, F.program_JUMP_EVC, F.program_JUMP_EVC_EN, F.program_JUMP_EVC_ENTRY]
  | .runStatus =>
    [F.runStatus_RUN_STATE, F.runStatus_SEG_ID, F.runStatus_LIST_POS, F.runStatus_SHOT_SEQ,
     F.runStatus_VOID_SHOTS, F.runStatus_UNDERRUN_COUNT, F.runStatus_JUMP_DROP,
     F.runStatus_JUMP_DEFER, F.runStatus_JUMP_REPLACED, F.runStatus_MARK]
  | .counters =>
    [F.counters_CNT]
  | .channel =>
    [F.channel_SRC_EN, F.channel_OWNER, F.channel_GUARDED, F.channel_GROUP, F.channel_GROUP_GATE,
     F.channel_CUT]
  | .channelStatus =>
    [F.channelStatus_ACTIVATIONS, F.channelStatus_MERGES, F.channelStatus_LATCH_HELD,
     F.channelStatus_GATED_DROP, F.channelStatus_CUT_DROP, F.channelStatus_LAST_P,
     F.channelStatus_LAST_F, F.channelStatus_LAST_H]
  | .group =>
    [F.group_ON_EVC, F.group_ON_EN, F.group_OFF_EVC, F.group_OFF_EN, F.group_INIT, F.group_STATE]
  | .eventCounter =>
    [F.eventCounter_EVC, F.eventCounter_ENABLE, F.eventCounter_CLEAR, F.eventCounter_COUNT]
  | .hatbandControl =>
    [F.hatbandControl_LOOP_POLICY, F.hatbandControl_LAST_LOOP_EVC, F.hatbandControl_LOOP_COUNT]
  | .trigIn =>
    [F.trigIn_FILTER, F.trigIn_POLARITY, F.trigIn_MIN_INTERVAL, F.trigIn_STUCK, F.trigIn_ENABLE]
  | .trigInStatus =>
    [F.trigInStatus_EDGE_SI, F.trigInStatus_EDGES, F.trigInStatus_TRIG_OVERRATE,
     F.trigInStatus_MASKED, F.trigInStatus_LEVEL, F.trigInStatus_STUCK_COUNT]
  | .trigOut =>
    [F.trigOut_EVC, F.trigOut_ENABLE, F.trigOut_WIDTH, F.trigOut_POLARITY]
  | .storeRequester =>
    [F.storeRequester_RANK, F.storeRequester_RANK_ACTIVE, F.storeRequester_BURST,
     F.storeRequester_BURST_ACTIVE, F.storeRequester_GRANTS, F.storeRequester_BEATS]
  | .storeControl =>
    [F.storeControl_COMMIT, F.storeControl_PENDING, F.storeControl_SCRUB_PERIOD,
     F.storeControl_COMMIT_COUNT]
  | .storeStatus =>
    [F.storeStatus_CORRECTED, F.storeStatus_TRANSIENT, F.storeStatus_LASTING,
     F.storeStatus_SPARES_LEFT, F.storeStatus_SELF_REFRESH, F.storeStatus_SCRUB_PASSES]
  | .libArbiter =>
    [F.libArbiter_RANK_PLAYBACK, F.libArbiter_RANK_REFILL, F.libArbiter_RANK_HOST_WRITE,
     F.libArbiter_RANK_READBACK, F.libArbiter_RANK_CROWN, F.libArbiter_RANK_SCRUB,
     F.libArbiter_COMMIT]
  | .libStatus =>
    [F.libStatus_PARITY_TRANSIENT, F.libStatus_PARITY_LASTING, F.libStatus_SPARES_LEFT]
  | .ulpControl =>
    [F.ulpControl_TX_POWER, F.ulpControl_RX_POWER, F.ulpControl_ENABLE, F.ulpControl_BARRIER_PORT,
     F.ulpControl_BAR_LEAD, F.ulpControl_COMMIT, F.ulpControl_TEST, F.ulpControl_LOOPBACK]
  | .ulpStatus =>
    [F.ulpStatus_RX_STATE, F.ulpStatus_TX_STATE, F.ulpStatus_LANE_LOCK, F.ulpStatus_MISMATCH,
     F.ulpStatus_SWAP_PENDING, F.ulpStatus_SWAP_FAILED, F.ulpStatus_ACTIVE_BANK,
     F.ulpStatus_SUPERFRAME, F.ulpStatus_DEC_DUP_USED, F.ulpStatus_DEC_MISSING, F.ulpStatus_BULK_RETX,
     F.ulpStatus_BULK_LASTING, F.ulpStatus_LOCK_LOSS, F.ulpStatus_VOID_STALE, F.ulpStatus_ACTIVE_HASH,
     F.ulpStatus_REMOTE_HASH]
  | .slotTable =>
    [F.slotTable_ENTRY]
  | .ulpStreams =>
    [F.ulpStreams_STREAM]
  | .ulpLane =>
    [F.ulpLane_FFE_PRE, F.ulpLane_FFE_MAIN, F.ulpLane_FFE_POST, F.ulpLane_CTLE, F.ulpLane_PRBS,
     F.ulpLane_PRBS_CHECK, F.ulpLane_INJ_MODE, F.ulpLane_INJ_LEN, F.ulpLane_INJ_RATE,
     F.ulpLane_INJ_GO, F.ulpLane_PRBS_ERRORS, F.ulpLane_PRBS_SYNC]
  | .capControl =>
    [F.capControl_CAP_BASE, F.capControl_CAP_SIZE, F.capControl_DEC_REC, F.capControl_IQ_REC,
     F.capControl_AUTO, F.capControl_RESERVE]
  | .capStatus =>
    [F.capStatus_CAP_WP, F.capStatus_CAP_RP, F.capStatus_IQ_DROP, F.capStatus_DEC_DROP,
     F.capStatus_SURVEY_STEP, F.capStatus_SHED_STOP]
  | .outQueue =>
    [F.outQueue_BASE, F.outQueue_SIZE, F.outQueue_ENABLE, F.outQueue_WP, F.outQueue_RP,
     F.outQueue_JOBS_DONE, F.outQueue_NO_SPACE_COUNT, F.outQueue_FAULT_COUNT]
  | .fullingStatus =>
    [F.fullingStatus_ENGINE_BUSY, F.fullingStatus_THROTTLED, F.fullingStatus_JOBS_WAITING,
     F.fullingStatus_SEAL_BAD_BLOCKS]
  | .timeControl =>
    [F.timeControl_SOURCE, F.timeControl_TIME_PORT, F.timeControl_PTP_ROLE,
     F.timeControl_PTP_TWO_STEP, F.timeControl_PTP_TRANSPORT, F.timeControl_PTP_DOMAIN,
     F.timeControl_PTP_PRIORITY1, F.timeControl_PTP_PRIORITY2, F.timeControl_LOG_ANNOUNCE,
     F.timeControl_LOG_SYNC, F.timeControl_LOG_DELAY_REQ, F.timeControl_ANNOUNCE_TIMEOUT,
     F.timeControl_PPS_OUT_EN, F.timeControl_PPS_WIDTH, F.timeControl_PPS_IN_POLARITY,
     F.timeControl_ULP_SERVE, F.timeControl_LOCK_WINDOW]
  | .timeStatus =>
    [F.timeStatus_WALL_NS, F.timeStatus_WALL_FRAC, F.timeStatus_WALL_SI, F.timeStatus_TIME_VALID,
     F.timeStatus_STEPPED, F.timeStatus_LOCKED, F.timeStatus_HOLDOVER, F.timeStatus_RATE_ADJ,
     F.timeStatus_OFFSET, F.timeStatus_STEP_COUNT]
  | .compareUnit =>
    [F.compareUnit_TARGET, F.compareUnit_PERIOD, F.compareUnit_ARM, F.compareUnit_FIRED,
     F.compareUnit_MISSED]
  | .linkStatus =>
    [F.linkStatus_RATE, F.linkStatus_WIDTH, F.linkStatus_LINK_UP, F.linkStatus_SHED_X4,
     F.linkStatus_NUM_VFS, F.linkStatus_LINK_DOWN_COUNT]
  | .ownership =>
    [F.ownership_OWNER]
  | .mailboxAssign =>
    [F.mailboxAssign_MBX]
  | .bar4Window =>
    [F.bar4Window_WIN_BASE]
  | .ethPort =>
    [F.ethPort_ENABLE, F.ethPort_FEC_EN, F.ethPort_REMOTE_EN, F.ethPort_REMOTE_Q, F.ethPort_LINK_OK]
  | .ring =>
    [F.ring_BASE, F.ring_LOG2_SIZE, F.ring_ENABLE, F.ring_SOURCE, F.ring_STALLED, F.ring_COALESCE,
     F.ring_FLUSH_US, F.ring_DESCRIPTORS]
  | .powerStatus =>
    [F.powerStatus_VIN_A, F.powerStatus_IIN_A, F.powerStatus_VIN_B, F.powerStatus_IIN_B,
     F.powerStatus_FEED_A_OK, F.powerStatus_FEED_B_OK, F.powerStatus_SHED_STAGE,
     F.powerStatus_THROTTLE_STEP, F.powerStatus_THROTTLE_ENGAGED, F.powerStatus_WARNING,
     F.powerStatus_PIN, F.powerStatus_FEED_A_DROPS, F.powerStatus_FEED_B_DROPS,
     F.powerStatus_SHED_ENTRIES]
  | .thermalControl =>
    [F.thermalControl_WARN_C, F.thermalControl_THROTTLE_C, F.thermalControl_SHUTDOWN_C,
     F.thermalControl_FAIL_MODE, F.thermalControl_NB_MARGIN, F.thermalControl_THROTTLE_DWELL,
     F.thermalControl_THR_SURVEY_STEP, F.thermalControl_THR_HOST_CAP, F.thermalControl_THR_GAP_FACTOR]
  | .sensor =>
    [F.sensor_TEMP, F.sensor_EFFECTIVE, F.sensor_FAILED, F.sensor_FAIL_CAUSE, F.sensor_LEVEL,
     F.sensor_FAST, F.sensor_FAIL_COUNT, F.sensor_PEAK]
  | .monControl =>
    [F.monControl_REG_TRIG, F.monControl_REG_LAST, F.monControl_INJ_LAST, F.monControl_TIMER_PERIOD,
     F.monControl_REG_EVC, F.monControl_INJ_EVC, F.monControl_INJ_EVC_EN, F.monControl_INJ_COMPLIANCE,
     F.monControl_INJ_SAG, F.monControl_INJ_THROTTLE, F.monControl_START_DELAY, F.monControl_PW_BIAS,
     F.monControl_PW_THRESH, F.monControl_PW_WIDTH]
  | .monStatus =>
    [F.monStatus_REG_BUSY, F.monStatus_INJ_BUSY, F.monStatus_REG_POS, F.monStatus_CAL_BUSY,
     F.monStatus_REG_TRIG_DROP, F.monStatus_INJ_TRIG_DROP, F.monStatus_LIMIT_COUNT,
     F.monStatus_REG_RUNS, F.monStatus_INJ_RUNS]
  | .monEntries =>
    [F.monEntries_ENTRY]
  | .monInjEntries =>
    [F.monInjEntries_ENTRY]
  | .monInjResults =>
    [F.monInjResults_RESULT, F.monInjResults_INJ_WALL_NS]
  | .monCal =>
    [F.monCal_OFFSET, F.monCal_GAIN, F.monCal_CAL_WALL_NS, F.monCal_CAL_COUNT]
  | .modeRecord =>
    [F.modeRecord_MODE, F.modeRecord_PREV_MODE, F.modeRecord_CAUSE, F.modeRecord_CORE,
     F.modeRecord_B_PARKED, F.modeRecord_A_OUT, F.modeRecord_B_OUT, F.modeRecord_BOOT_IMAGE,
     F.modeRecord_RECOVERY, F.modeRecord_HANDOVERS, F.modeRecord_TAKEBACKS, F.modeRecord_MODE_WALL_NS,
     F.modeRecord_SAFE_ENTRIES]
  | .logStatus =>
    [F.logStatus_ENTRIES, F.logStatus_OVERFLOW, F.logStatus_INTAKE, F.logStatus_LOST,
     F.logStatus_NEXT_SEQ]

end Sys2Proof.Machine
end

