-- ==== Sys2Proof/Machine/Bits.lean ====
section
/-! DEFINITION. Bit fields, signed values, byte order, the CRC-32C seal and the sparse store. -/

namespace Sys2Proof.Machine

/-! ### Bit fields -/

/-- Bits [lo + w − 1 : lo] of a record image. -/
def bits (x lo w : Nat) : Nat := (x >>> lo) % 2 ^ w

/-- Bit `lo`. -/
def bit (x lo : Nat) : Bool := bits x lo 1 = 1

/-- `x` with `v` in bits [lo + w − 1 : lo]. -/
def setBits (x lo w v : Nat) : Nat :=
  (x >>> (lo + w)) <<< (lo + w) + (v % 2 ^ w) <<< lo + x % 2 ^ lo

/-- A `w`-bit field read as two's complement. -/
def signed (x w : Nat) : Int := if 2 ^ (w - 1) ≤ x then (x : Int) - 2 ^ w else x

/-- An integer as a `w`-bit two's complement field. -/
def unsigned (x : Int) (w : Nat) : Nat := (x % 2 ^ w).toNat

/-- The residue of an integer, from 0 to n − 1. -/
def unsignedMod (x : Int) (n : Nat) : Nat := (x % n).toNat

/-- `x` held within [lo, hi]. -/
def clampInt (lo hi x : Int) : Int := max lo (min hi x)

/-- Saturation to a signed field of `w` bits. -/
def satSigned (x : Int) (w : Nat) : Int := clampInt (-(2 ^ (w - 1))) (2 ^ (w - 1) - 1) x

/-- `n` counted up by `k` with saturation at `w` bits. -/
def satAdd (n k w : Nat) : Nat := min (n + k) (2 ^ w - 1)

/-- The number of set bits among the lowest `w`. -/
def popCount (x : Nat) : Nat → Nat
  | 0 => 0
  | w + 1 => popCount x w + bits x w 1

/-- The indices below `w` whose bit is set, ascending. -/
def bitList (x w : Nat) : List Nat := (List.range w).filter (bit x)

/-! ### Single precision -/

/-- The quotient of two numbers rounded to the nearest, ties to even. -/
def nearestEven (num den : Nat) : Nat :=
  let q := num / den
  let r := 2 * (num % den)
  if den < r || (r = den && q % 2 = 1) then q + 1 else q

/-- ⌊log₂⌋ of a positive quotient. -/
def floorLog2 (num den : Nat) : Int :=
  let e : Int := (num.log2 : Int) - den.log2
  if num * 2 ^ (-e).toNat < den * 2 ^ e.toNat then e - 1 else e

/-- A value rounded to IEEE 754 single precision, to nearest even (R135). -/
def single (x : Rat) : Rat :=
  if x = 0 then 0
  else
    let u := max (floorLog2 x.num.natAbs x.den - 23) (-149)
    let m := nearestEven (x.num.natAbs * 2 ^ (-u).toNat) (x.den * 2 ^ u.toNat)
    let v : Rat := if 0 ≤ u then (m * 2 ^ u.toNat : Nat) else ((m : Nat) : Rat) / (2 ^ (-u).toNat : Nat)
    if x < 0 then -v else v

/-! ### Bytes -/

/-- The little-endian number of `n` bytes at offset `off`; bytes beyond the end read 0. -/
def le (b : List Byte) (off : Nat) : Nat → Nat
  | 0 => 0
  | n + 1 => (b.getD off 0).toNat + 256 * le b (off + 1) n

/-- `n` bytes of a number, least significant first. -/
def leBytes (v : Nat) : Nat → List Byte
  | 0 => []
  | n + 1 => BitVec.ofNat 8 v :: leBytes (v / 256) n

/-- `n` zero bytes. -/
def zeros (n : Nat) : List Byte := List.replicate n 0

/-- `n` bytes from offset `off`, zeros beyond the end. -/
def slice (b : List Byte) (off n : Nat) : List Byte :=
  let r := (b.drop off).take n
  r ++ zeros (n - r.length)

/-- The list cut into pieces of `n`, at most `fuel` of them. -/
def pieces {α : Type} (n : Nat) (fuel : Nat) (b : List α) : List (List α) :=
  match fuel with
  | 0 => []
  | k + 1 => if b.isEmpty then [] else b.take n :: pieces n k (b.drop n)

/-! ### The seal (R21) -/

/-- One bit of the reflected CRC-32C. -/
def crcBit (c : Nat) : Nat := if c % 2 = 1 then (c / 2) ^^^ 0x82F63B78 else c / 2

/-- One byte of it. -/
def crcByte (c : Nat) (b : Byte) : Nat :=
  crcBit (crcBit (crcBit (crcBit (crcBit (crcBit (crcBit (crcBit (c ^^^ b.toNat))))))))

/-- CRC-32C: the Castagnoli polynomial, reflected, initial value and final exclusive-OR all ones. -/
def crc32c (b : List Byte) : Nat := (b.foldl crcByte 0xFFFFFFFF) ^^^ 0xFFFFFFFF

/-! ### The sparse store -/

/-- The value at a key, the default where the key is not listed. -/
def SMap.read {α : Type} (m : SMap α) (d : α) (k : Nat) : α :=
  match m with
  | [] => d
  | (k', v) :: r => if k' = k then v else SMap.read r d k

/-- The value at a key where it is listed. -/
def SMap.find {α : Type} (m : SMap α) (k : Nat) : Option α :=
  match m with
  | [] => none
  | (k', v) :: r => if k' = k then some v else SMap.find r k

/-- The store without a key. -/
def SMap.drop {α : Type} (m : SMap α) (k : Nat) : SMap α :=
  match m with
  | [] => []
  | (k', v) :: r => if k' = k then SMap.drop r k else (k', v) :: SMap.drop r k

/-- The store with a key listed at its place. -/
def SMap.list {α : Type} (m : SMap α) (k : Nat) (v : α) : SMap α :=
  match m with
  | [] => [(k, v)]
  | (k', v') :: r =>
    if k < k' then (k, v) :: (k', v') :: r
    else if k = k' then (k, v) :: r
    else (k', v') :: SMap.list r k v

/-- A write that keeps the canonical form: the default is not listed. -/
def SMap.write {α : Type} [DecidableEq α] (m : SMap α) (d : α) (k : Nat) (v : α) : SMap α :=
  if v = d then SMap.drop m k else SMap.list m k v

/-- A read, a change and a write. -/
def SMap.update {α : Type} [DecidableEq α] (m : SMap α) (d : α) (k : Nat) (f : α → α) : SMap α :=
  m.write d k (f (m.read d k))

/-- The keys of a store lie above `lo` and rise, and no value is the default of its key. -/
def SMap.above {α : Type} [DecidableEq α] (d : Nat → α) (lo : Option Nat) (m : SMap α) : Bool :=
  match m with
  | [] => true
  | (k, v) :: r =>
    (match lo with
     | none => true
     | some l => decide (l < k)) && decide (v ≠ d k) && SMap.above d (some k) r

/-- The canonical form of a store. -/
def SMap.wf {α : Type} [DecidableEq α] (d : Nat → α) (m : SMap α) : Bool := SMap.above d none m

/-- Consecutive values written from a key on. -/
def SMap.writeAll {α : Type} [DecidableEq α] (m : SMap α) (d : α) (k : Nat) (vs : List α) : SMap α :=
  match vs with
  | [] => m
  | v :: r => SMap.writeAll (m.write d k v) d (k + 1) r

/-- `n` consecutive values from a key on. -/
def SMap.readAll {α : Type} (m : SMap α) (d : α) (k n : Nat) : List α :=
  (List.range n).map fun i => m.read d (k + i)

/-! ### Record images -/

/-- The image in which every copy of a field holds its reset value. -/
def Field.resetImage (f : Field) : Nat :=
  (List.range f.n).foldl (fun x j => x + f.init <<< (f.lo + j * f.stride)) 0

/-- The default rank and burst of stream store requester `q` (R233). -/
def storeDefault (q : Nat) : Nat × Nat :=
  if q < 16 then (2, 32)
  else if q = 16 then (3, 64)
  else if q = 17 then (5, 128)
  else if q = 18 then (1, 64)
  else if q < 23 then (4, 64)
  else (0, 4)

/-- The default slot table (R252): CONTROL in slot 0, pairs starting at slots 1 + 8i, bulk elsewhere. -/
def defaultTable : Nat :=
  (List.range 32).foldl (fun x i => x + (1 <<< (2 * (1 + 8 * i))) + (2 <<< (2 * (2 + 8 * i)))) 3

/-- The mailbox assignment at reset (R331): MBX[0..3] on F0 slots 0 to 3. -/
def defaultMailboxes : Nat :=
  (List.range 4).foldl (fun x m => x + ((m <<< 3) + (1 <<< 5)) <<< (8 * m)) 0

/-- The reset image of record `i` of a family, from the field maps; the three families whose reset values
another rule gives are taken from it. -/
def Rec.resetImage (r : Rec) (i : Nat) : Nat :=
  match r with
  | .storeRequester =>
    let (rank, burst) := storeDefault i
    rank + rank <<< 4 + burst <<< 8 + burst <<< 17
  | .slotTable => defaultTable
  | .mailboxAssign => defaultMailboxes
  | r => r.fields.foldl (fun x f => x + f.resetImage) 0

/-- The family and index that an identifier names (R340): none where no chapter gives a map for it. -/
def recordOf (id : Nat) : Option (Rec × Nat) :=
  (Rec.all.find? fun r => r.place.base ≤ id && id < r.place.base + r.place.count
      && !(r = .ring && 33 ≤ (id - r.place.base) % 64)).map fun r => (r, id - r.place.base)

/-- The bits of an image that fields of the family cover. -/
def Rec.fieldMask (r : Rec) : Nat :=
  r.fields.foldl (fun x f =>
    (List.range f.n).foldl (fun y j => y + (2 ^ f.width - 1) <<< (f.lo + j * f.stride)) x) 0

end Sys2Proof.Machine
end

