-- ==== Sys2Proof/Machine/Ops.lean ====
section
/-! DEFINITION. The shared operations: record fields and shadows, Hatband sources, fault reports, time,
mailbox responses, bias levels and holds, voids and stand-downs, the end of a run, shot boundaries and mode
changes. Every meaning is built from these. -/

namespace Sys2Proof.Machine

/-! ### Records -/

/-- The image in force of record `i` of a family. -/
def State.image (s : State) (r : Rec) (i : Nat) : Nat := s.records.read (r.resetImage i) (r.key i)

/-- The state with the image of a record replaced. -/
def State.setImage (s : State) (r : Rec) (i v : Nat) : State :=
  { s with records := s.records.write (r.resetImage i) (r.key i) v }

/-- A field of record `i`. -/
def State.get (s : State) (f : Field) (i : Nat := 0) : Nat := bits (s.image f.record i) f.lo f.width

/-- Copy `j` of a field of record `i`. -/
def State.getAt (s : State) (f : Field) (i j : Nat) : Nat :=
  bits (s.image f.record i) (f.lo + j * f.stride) f.width

/-- A one-bit field of record `i` reads 1. -/
def State.flag (s : State) (f : Field) (i : Nat := 0) : Bool := s.get f i = 1

/-- A write of copy `j` of a field of record `i`. -/
def State.putAt (s : State) (f : Field) (i j v : Nat) : State :=
  s.setImage f.record i (setBits (s.image f.record i) (f.lo + j * f.stride) f.width v)

/-- A write of a field of record `i`. -/
def State.put (s : State) (f : Field) (i v : Nat) : State :=
  s.setImage f.record i (setBits (s.image f.record i) f.lo f.width v)

/-- A write of a one-bit field. -/
def State.putFlag (s : State) (f : Field) (i : Nat) (b : Bool) : State := s.put f i (if b then 1 else 0)

/-- A saturating count of `k`. -/
def State.count (s : State) (f : Field) (i : Nat) (k : Nat := 1) : State :=
  s.put f i (satAdd (s.get f i) k f.width)

/-- Of pending values with the SI at which each was served, oldest first: the one that a boundary brings into force
whose switch point stands at SI `cut` (R439). -/
def served {α : Type} (cut : Nat) (l : List (α × Nat)) : Option α :=
  ((l.filter fun x => x.2 ≤ cut).getLast?).map Prod.fst

/-- Those that wait for the boundary after it. -/
def unserved {α : Type} (cut : Nat) (l : List (α × Nat)) : List (α × Nat) := l.filter fun x => cut < x.2

/-- One more pending value, which takes the place of one served at the same SI. -/
def serveAlso {α : Type} (l : List (α × Nat)) (v : α) (si : Nat) : List (α × Nat) :=
  l.filter (fun x => x.2 ≠ si) ++ [(v, si)]

/-- The shadow image of a record as the last write left it, the image in force where none is pending (R438). -/
def State.shadowImage (s : State) (r : Rec) (i : Nat) : Nat :=
  match (s.shadows.read [] (r.key i)).getLast? with
  | some x => x.1
  | none => s.image r i

/-! ### Time, output and free values -/

/-- SI as a number. -/
def State.si (s : State) : Nat := s.clock.si.toNat

/-- WALL_NS as a number. -/
def State.wall (s : State) : Nat := s.clock.wallNs.toNat

/-- The wall time of a sample index (R308), counted back or on from the present tick at the nominal rate. -/
def State.wallAt (s : State) (si : Nat) : Nat :=
  unsigned ((s.wall : Int) + ((si : Int) - s.si) * 5 / 64) 64

/-- One more output of the command in hand. -/
def State.emit (s : State) (o : Output) : State := { s with out := s.out ++ [o] }

/-- The state as a command begins: it has sent nothing yet. -/
def State.fresh (s : State) : State := { s with out := [] }

/-- The next free value (the manual leaves it open), and the state that has drawn it. -/
def State.free (s : State) : BitVec 64 × State :=
  (Config.freeWord s.freeCount, { s with freeCount := s.freeCount + 1 })

/-- An output toward the host: held while the PCIe link is down (R322). -/
def State.send (s : State) (o : Output) : State :=
  if s.flag F.linkStatus_LINK_UP then s.emit o
  else { s with host := { s.host with heldOut := s.host.heldOut ++ [o] } }

/-- An MSI-X vector of a function (R345). -/
def State.signal (s : State) (f v : Nat) : State := s.send (.msix f v)

/-- The function-event vector of every enabled function (R345). -/
def State.signalAll (s : State) : State :=
  (List.range (s.get F.linkStatus_NUM_VFS + 1)).foldl (fun s f => s.signal f 0) s

/-! ### Hatband sources -/

/-- The channels that a source is wired to (R212). -/
def wiredTo (src : Nat) : List Nat := (List.range 4).map fun i => src % 128 + 128 * i

/-- A source is raised with payload, flag and hop count: the event is on its way to every channel that it is wired to,
which enables it or not as it arrives (R210, R212). -/
def State.raise (s : State) (src : Nat) (p : Nat := 0) (f : Nat := 0) (h : Nat := 0) : State :=
  let s := s.emit (.source src p f h)
  { s with hatband := { s.hatband with
      arriving := s.hatband.arriving ++ (wiredTo src).map fun c => ⟨c, src, p, f, h, 1, false⟩ } }

/-- Sequencer event source `k` of tile `t` (R195). -/
def seqSource (t k : Nat) : Nat := 256 + 16 * t + k

/-! ### The error log -/

/-- The entries among the 16 newest that have a class and LASTING bit get one more REPEAT, the newest of
them only; none where there is none (R413). -/
def Log.coalesce (l : Log) (cls : Nat) (lasting : Bool) : Option Log :=
  let newest := (l.entries.reverse.take 16)
  match newest.find? fun e => e.cls = cls ∧ e.lasting = lasting with
  | none => none
  | some e => some { l with entries := l.entries.map fun x =>
      if x.seq = e.seq then { x with repeats := satAdd x.repeats 1 16 } else x }

/-- A report that the log cannot take coalesces or is dropped (R413). -/
def State.overflowReport (s : State) (cls : Nat) (lasting : Bool) : State :=
  match s.log.coalesce cls lasting with
  | some l => { s with log := l }
  | none =>
    let was := s.flag F.logStatus_OVERFLOW
    let s := (s.count F.logStatus_LOST 0).putFlag F.logStatus_OVERFLOW 0 true
    if was then s else s.raise 1142

/-- A fault report (R412): its class counter counts, the first of its class since RESET fills the snapshot,
and it enters the intake queue, or coalesces or is dropped where the queue is full (R413). -/
def State.report (s : State) (cls : Nat) (lasting : Bool := false) (source : Nat := 0xFFF)
    (a : Nat := 0) (b : Nat := 0) : State :=
  let first := (s.log.snapshots.find cls).isNone
  let e : LogEntry :=
    { seq := if first then 1 else 0, cls, lasting, repeats := 0,
      mode := s.mode.ctorIdx, wall := s.wall, si := s.si, source, detailA := a % 2 ^ 16,
      detailB := b % 2 ^ 32 }
  let s := { s with log := { s.log with
    counters := s.log.counters.update 0 cls fun n => satAdd n 1 32
    snapshots := if first then s.log.snapshots.list cls { e with seq := 0xFFFFFFFF }
      else s.log.snapshots } }
  if s.log.intake.length < 32 then
    { s with log := { s.log with intake := s.log.intake ++ [e] } }
  else s.overflowReport cls lasting

/-- A task emits a source in response to an input event (R223, R224): the event's H plus 1, or 0 where no
event caused it. With H = 3 the emission is discarded, HATBAND_LOOP is raised, and under LOOP_POLICY CUT the
originating channel is cut. -/
def State.raiseFrom (s : State) (src p f : Nat) (cause : Option (Nat × Nat)) : State :=
  match cause with
  | none => s.raise src p f 0
  | some (h, evc) =>
    if h + 1 < 3 then s.raise src p f (h + 1)
    else
      let s := s.raise 1139
      let s := (s.count F.hatbandControl_LOOP_COUNT 0).put F.hatbandControl_LAST_LOOP_EVC 0 evc
      let s := s.report 30 false 1139 evc
      if s.flag F.hatbandControl_LOOP_POLICY then s else s.putFlag F.channel_CUT evc true

/-! ### Urgent monitor triggers -/

/-- Whether the monitor control record enables an urgent trigger (R384, R390). -/
def State.urgentOn (s : State) (c : InjCause) : Bool :=
  match c with
  | .trip => s.flag F.monControl_INJ_COMPLIANCE
  | .shed => s.flag F.monControl_INJ_SAG
  | .throttle => s.flag F.monControl_INJ_THROTTLE
  | .event => s.flag F.monControl_INJ_EVC_EN

/-- An urgent trigger of the injected sequence occurs (R384). -/
def State.urge (s : State) (c : InjCause) : State :=
  if s.urgentOn c then { s with monitor := { s.monitor with urgent := s.monitor.urgent ++ [c] } } else s

/-! ### Mailbox responses -/

/-- A mailbox. -/
def State.mailbox (s : State) (m : Nat) : Mailbox := s.host.mailboxes.read .init m

/-- A change of a mailbox. -/
def State.setMailbox (s : State) (m : Nat) (x : Mailbox) : State :=
  { s with host := { s.host with mailboxes := s.host.mailboxes.write .init m x } }

/-- The function, slot and assignment of a mailbox (R348). -/
def State.mailboxFn (s : State) (m : Nat) : Nat := bits (s.getAt F.mailboxAssign_MBX 0 m) 0 3
def State.mailboxSlot (s : State) (m : Nat) : Nat := bits (s.getAt F.mailboxAssign_MBX 0 m) 3 2
def State.mailboxAssigned (s : State) (m : Nat) : Bool := bit (s.getAt F.mailboxAssign_MBX 0 m) 5

/-- The code of a status (R334) and of a mode (R353). -/
def Status.code (s : Status) : Nat := s.ctorIdx
def Mode.code (m : Mode) : Nat := m.ctorIdx

/-- The statuses whose retry R337 classifies. -/
def Status.classified (s : Status) : Bool := s = .timeout || s = .faulted || s = .sealMismatch

/-- Jutan writes a response (R335): DONE sets, BUSY clears and the slot's vector is signalled. A retry that
succeeds after a classified failure is logged as transient, one that fails so again as lasting (R337). -/
def State.respond (s : State) (m : Nat) (r : Response) (reqSeal : Nat) : State :=
  let x := s.mailbox m
  let failed : Option Status := match x.stored with
    | some (old, _) => if old.tag = r.tag && old.status.classified then some old.status else none
    | none => none
  let s := match failed with
    | some e =>
      if r.status = Status.ok then s.report 13 false 0xFFF m e.code
      else if r.status.classified then s.report 13 true 0xFFF m r.status.code
      else s
    | none => s
  let s := s.setMailbox m { x with busy := false, done := true, stored := some (r, reqSeal) }
  if s.mailboxAssigned m then s.signal (s.mailboxFn m) (1 + s.mailboxSlot m) else s

/-- The deferred command of a mailbox. -/
def State.deferredOf (s : State) (m : Nat) : Option Deferred := s.host.deferred.find? fun d => d.m = m

/-- A deferred command ends: it leaves the list and its response is written, or discarded where its
function has been reset (R356). -/
def State.finish (s : State) (d : Deferred) (st : Status) (payload : List Byte) : State :=
  let s := { s with host := { s.host with deferred := s.host.deferred.filter fun x => x.m ≠ d.m } }
  if d.discard then s
  else s.respond d.m
    { command := d.command, tag := d.tag, fn := d.fn, status := st, detail := 0, replayed := false,
      payload := if st = .ok then payload else [] } d.reqSeal

/-- Every deferred command that waits for `p` ends with a status. -/
def State.finishAll (s : State) (p : Wait → Bool) (st : Status) (payload : List Byte) : State :=
  (s.host.deferred.filter fun d => p d.wait).foldl (fun s d => s.finish d st payload) s

/-! ### Tiles, groups and their time -/

/-- The run of a tile. -/
def State.tile (s : State) (t : Nat) : TileRun := s.program.tiles.read .init t

/-- A change of it. -/
def State.setTile (s : State) (t : Nat) (r : TileRun) : State :=
  { s with program := { s.program with tiles := s.program.tiles.write .init t r } }

/-- A run group. -/
def State.group (s : State) (g : Nat) : RunGroup := s.program.groups.read .init g

/-- A change of it. -/
def State.setGroup (s : State) (g : Nat) (r : RunGroup) : State :=
  { s with program := { s.program with groups := s.program.groups.write .init g r } }

/-- The tile is part of an active run (R19, R439). -/
def State.inRun (s : State) (t : Nat) : Bool := (s.tile t).group.isSome

/-- Some run group is active. -/
def State.anyRun (s : State) : Bool := (List.range 16).any s.inRun

/-- The tiles of a group. -/
def State.members (s : State) (g : Nat) : List Nat := bitList (s.group g).mask 16

/-- The shot tick of a tile: negative while the engine works ahead of the base (R32). -/
def State.tick (s : State) (t : Nat) : Int := ((s.si : Int) - (s.tile t).base) / 16

/-- An engine. -/
def State.engine (s : State) (e : Nat) : Engine := s.engines.read .init e

/-- A change of it. -/
def State.setEngine (s : State) (e : Nat) (x : Engine) : State :=
  { s with engines := s.engines.write .init e x }

/-- The acquisition of a tile. -/
def State.acq (s : State) (t : Nat) : Acq := s.readout.acq.read .init t

/-- A change of it. -/
def State.setAcq (s : State) (t : Nat) (a : Acq) : State :=
  { s with readout := { s.readout with acq := s.readout.acq.write .init t a } }

/-- A tone: `k` is 16t + u for a drive tone, 256 + 16t + u for a probe tone. -/
def State.tone (s : State) (k : Nat) : Tone := s.drive.tones.read .init k

/-- A change of it. -/
def State.setTone (s : State) (k : Nat) (x : Tone) : State :=
  { s with drive := { s.drive with tones := s.drive.tones.write .init k x } }

/-- A Uluforam port. -/
def State.port (s : State) (p : Nat) : Port := s.ports.read .init p

/-- A change of it. -/
def State.setPort (s : State) (p : Nat) (x : Port) : State := { s with ports := s.ports.write .init p x }

/-! ### Bias levels -/

/-- The rounding of R90: to the nearest, ties away from zero. -/
def roundDiv (a : Int) (b : Nat) : Int :=
  if 0 ≤ a then (2 * a + b) / (2 * b) else -((2 * -a + b) / (2 * b))

/-- The half tick at which the first bias sample of the present tick begins; the second begins one later (R88). -/
def State.half (s : State) : Nat := 2 * s.clock.now

/-- LEVEL of a ramp at half tick `h`, in units of 2⁻¹⁶ code (R90). -/
def Ramp.at (r : Ramp) (h : Nat) : Int :=
  if h < r.start then r.l0
  else
    let k := h - r.start + 1
    if r.n ≤ k then r.v else roundDiv (r.l0 * r.n + (r.v - r.l0) * k) r.n

/-- What a park ramp moves in `n` half ticks at PARK_SLEW, in units of 2⁻¹⁶ code: 0.0625 nA a half tick for each unit
of PARK_SLEW, where a code is 2.5 mA ÷ 32,768 (R87, R98). DESIGN CHOICE (log 96): the rule states no rounding of a park
ramp; the distance is rounded as R90 rounds a ramp, to the nearest unit with ties away from zero. -/
def parkStep (slew n : Nat) : Int := roundDiv ((slew * n : Nat) * 2 ^ 29) 10000000

/-- LEVEL of a park ramp at a half tick (R98). -/
def ParkRamp.at (r : ParkRamp) (h : Nat) : Int :=
  let d := parkStep r.slew (h - r.start)
  if r.l0 ≤ r.target then min r.target (r.l0 + d) else max r.target (r.l0 - d)

/-- LEVEL as commanded at a half tick. -/
def Commanded.levelAt (c : Commanded) (h : Nat) : Int :=
  match c.ramp with
  | some r => r.at h
  | none => c.level

/-- What was commanded at a half tick of the present or the last tick (R89). -/
def Bias.cmdAt (b : Bias) (h : Nat) : Commanded :=
  match b.was with
  | some (d, c) => if h < d then c else b.cmd
  | none => b.cmd

/-- The half tick at which LEVEL last moved on the park oscillator: it steps every 10 ns (R99). -/
def Bias.oscHalf (b : Bias) (h : Nat) : Nat :=
  match b.parkOsc with
  | some t => 2 * t + (h - 2 * t) / 16 * 16
  | none => h

/-- LEVEL of a channel at a half tick: the park ramp's where one runs (R98, R99). -/
def Bias.levelAt (b : Bias) (h : Nat) : Int :=
  match b.park with
  | some p => p.at (b.oscHalf h)
  | none => (b.cmdAt h).levelAt h

/-- A bias channel. -/
def State.biasOf (s : State) (n : Nat) : Bias := s.bias.read .init n

/-- A change of it. -/
def State.setBias (s : State) (n : Nat) (b : Bias) : State := { s with bias := s.bias.write .init n b }

/-- LEVEL of a channel at the present instant, in units of 2⁻¹⁶ code. -/
def State.level (s : State) (n : Nat) : Int := (s.biasOf n).levelAt s.half

/-- A sine begins to fade at a half tick, where it does not fade yet (R92). -/
def Sine.fadeFrom (x : Sine) (h : Nat) : Sine := { x with fade := some (x.fade.getD h) }

/-- Any sine of a channel begins to fade at a half tick. -/
def Bias.fade (b : Bias) (h : Nat) : Bias :=
  { b with cmd := { b.cmd with sine := b.cmd.sine.map fun x => x.fadeFrom h } }

/-- From half tick `h` on LEVEL stays at its value there, a ramp ends and any sine fades (R104). -/
def Bias.freeze (b : Bias) (h : Nat) : Bias :=
  let c := b.cmdAt h
  { b with
    cmd := { c with level := b.levelAt h, ramp := none, sine := c.sine.map fun x => x.fadeFrom h }
    was := some (h, b.cmdAt (h - 1)) }

/-- A hold of LEVEL from half tick `h` on, of the segment instance that begins at `seg` (R104); none for a hold of no
segment. A park ramp that has begun runs on (R102). -/
def State.holdBias (s : State) (n : Nat) (c : HoldCause) (h : Nat) (seg : Option Nat) : State :=
  let b := s.biasOf n
  let b := if b.park.isSome then b.fade h else b.freeze h
  let s := s.setBias n { b with
    holds := if c ∈ b.holds then b.holds else b.holds ++ [c]
    heldSeg := if seg.isSome then seg else b.heldSeg }
  s.putFlag F.biasStatus_HELD n true

/-- A hold ends. -/
def State.releaseBias (s : State) (n : Nat) (c : HoldCause) : State :=
  let b := s.biasOf n
  let holds := b.holds.filter (· ≠ c)
  (s.setBias n { b with holds }).putFlag F.biasStatus_HELD n (!holds.isEmpty)

/-- A park ramp of a channel toward a level in codes (R98): any ramp ends, any sine fades, PARKED sets.
`connect` is false where the 50 Ω path engages at the end (R105); on the way to RESET or to the reload of R395
every ramp leads there. -/
def State.parkBias (s : State) (n : Nat) (target : Int) (connect : Bool := true) : State :=
  let off := s.power.ramp.isSome
  let target := if off then 0 else target
  let connect := connect && !off
  let s := s.setBias n { (s.biasOf n).freeze s.half with
    park := some { l0 := s.level n, target := target * 2 ^ 16, start := s.half,
                   slew := s.get F.biasConfig_PARK_SLEW n, connect } }
  s.putFlag F.biasStatus_PARKED n true

/-- PARK_VALUE in codes. -/
def State.parkValue (s : State) (n : Nat) : Int := signed (s.get F.biasConfig_PARK_VALUE n) 16

/-- Every bias channel parks (R105). -/
def State.parkAll (s : State) : State :=
  (List.range 128).foldl (fun s n => s.parkBias n (s.parkValue n)) s

/-- Every bias channel ramps to 0 and then sinks to ground (R105: orderly power-off, reset by command). -/
def State.parkAllToZero (s : State) : State :=
  (List.range 128).foldl (fun s n => s.parkBias n 0 false) s

/-- The bias channels of a tile (R16). -/
def biasOfTile (t : Nat) : List Nat := (List.range 8).map (8 * t + ·)

/-! ### Voids, stand-downs and the end of a run -/

/-- The output channel keys of a tile: DRV[4t..4t+3] and 64 + t for PRB[t]. -/
def channelsOfTile (t : Nat) : List Nat := [4 * t, 4 * t + 1, 4 * t + 2, 4 * t + 3, 64 + t]

/-- The engine of a tile has begun on a shot that has not started (R199). -/
def TileRun.coming (r : TileRun) : Bool := r.prepared && !r.inShot

/-- The number of the shot that a tile works on: the coming one where its engine has begun on it. -/
def State.shotOf (s : State) (t : Nat) : Nat :=
  let r := s.tile t
  let g := s.group (r.group.getD 16)
  if r.coming && g.started then g.seq + 1 else g.seq

/-- The tile marks its shot VOID (R203, R141). A coming shot gets its mark when it starts. -/
def State.voidTile (s : State) (t : Nat) : State :=
  let r := s.tile t
  if r.voided ∨ r.group.isNone then s
  else
    let a := s.acq t
    let shot := s.shotOf t
    let s := s.setTile t { r with voided := true }
    let shots := a.shots.map fun l => if l.shot = shot && r.inShot then { l with void := true } else l
    (s.setAcq t { a with shots }).count F.runStatus_VOID_SHOTS t

/-- The shot of the tile's run group is voided for every tile of the group (R36, R205). Between shots there is
none to void. -/
def State.voidShot (s : State) (t : Nat) : State :=
  match (s.tile t).group with
  | none => s
  | some g =>
    let x := s.group g
    if !x.inShot && !(s.tile t).prepared then s
    else
      let s := if x.shotVoid then s
        else s.setGroup g { x with shotVoid := true, voided := x.voided + 1 }
      (s.members g).foldl State.voidTile s

/-- An XY or probe channel outputs zero for a cause, from an SI on. -/
def State.zeroChannel (s : State) (ch : Nat) (c : ZeroCause) (since : Nat) : State :=
  if s.drive.zeroed.any fun z => z.1 = ch && z.2.1 = c then s
  else { s with drive := { s.drive with zeroed := s.drive.zeroed ++ [(ch, c, since)] } }

/-- A tone plays nothing more: its units, grids and held bursts are dropped. -/
def State.silenceTone (s : State) (k : Nat) : State :=
  s.setTone k { s.tone k with units := [], grids := [], bursts := [] }

/-- The windows of a tile's shot are cut off at a tick: those that have not opened by then never open (R118,
R203). -/
def State.cutWindows (s : State) (t : Nat) (tick : Int) : State :=
  let a := s.acq t
  let shot := s.shotOf t
  let si := (s.tile t).base + tick * 16
  let cut := fun (w : Window) =>
    if w.shot = shot && w.cutAt.isNone && w.decided.isNone then { w with cutAt := some si } else w
  s.setAcq t { a with
    waiting := (a.waiting.filter fun w => w.shot ≠ shot || w.w + w.ofs < si).map cut
    windows := a.windows.map cut }

/-- The shot that a tile has played has ended: its records are passed once its windows are decided (R141). -/
def State.endLogs (s : State) (t : Nat) : State :=
  let a := s.acq t
  s.setAcq t { a with shots := a.shots.map fun l => { l with ended := true } }

/-- Operations that a bias channel has not yet taken are discarded. -/
def State.dropOps (s : State) (n : Nat) : State := s.setBias n { s.biasOf n with ops := [] }

/-- A jump request that is pending is discarded and counted (R200). -/
def State.dropJump (s : State) (t : Nat) : State :=
  let r := s.tile t
  match r.jump with
  | none => s
  | some _ => ((s.setTile t { r with jump := none }).count F.runStatus_JUMP_DROP t).raise (seqSource t 8)

/-- An engine goes IDLE, unless it is STOPPED (R173): its instance, the guard and its count end. -/
def State.idleEngine (s : State) (t : Nat) : State :=
  let s := (s.setEngine t { s.engine t with inst := false, abandoned := 0, held := false, waitSince := none }).putFlag
    F.engineStatus_GUARD t false
  if s.get F.engineStatus_STATE t = 3 then s else s.put F.engineStatus_STATE t 0

/-- A tile stands down (R203): it issues nothing more in the shot, its XY and probe outputs go to zero, its
bias outputs hold, its open windows are cut off, a pending jump request is discarded and its SHOT_END event is
raised. -/
def State.standDown (s : State) (t : Nat) : State :=
  let r := s.tile t
  if r.group.isNone || r.stoodDown.isSome || r.endTick.isSome || !(r.inShot || r.prepared) then s
  else
    let tick := s.tick t
    let s := s.setTile t { r with
      stoodDown := some tick.toNat, ended := true, emitAt := none, untilTick := none, barrier := none,
      chosen := some none, endTick := some tick.toNat }
    let s := s.put F.runStatus_RUN_STATE t 2
    let s := (channelsOfTile t).foldl (fun s c => s.zeroChannel c .standDown s.si) s
    let s := (List.range 16).foldl (fun s u => (s.silenceTone (16 * t + u)).silenceTone (256 + 16 * t + u)) s
    let s := (biasOfTile t).foldl (fun s n => (s.holdBias n .standDown s.half (some s.si)).dropOps n) s
    let s := (s.cutWindows t tick).dropJump t
    (s.idleEngine t).raise (seqSource t 6)

/-- The record families whose writes in an active run go to a shadow that comes into force at the tile's
next shot boundary (R43, R84, R97, R129, R131, R133, R146), with the tile of record `i`. -/
def Rec.shadowTile (r : Rec) (i : Nat) : Option Nat :=
  match r with
  | .timingSet => some (i / 8)
  | .driveTone => some (i / 16)
  | .probeTone => some (i / 16)
  | .acqTone => some (i / 16)
  | .biasIir => some (i / 32)
  | .biasFir => some (i / 32)
  | .histConfig => some (i / 16)
  | .model => some (i / 16)
  | _ => none

/-- A record that keeps a shadow is written (R438): to its shadow while its tile is in an active run, and at
once otherwise. -/
def State.writeShadowed (s : State) (r : Rec) (i v : Nat) : State :=
  match r.shadowTile i with
  | some t =>
    if s.inRun t then
      { s with shadows := s.shadows.list (r.key i) (serveAlso (s.shadows.read [] (r.key i)) v s.si) }
    else s.setImage r i v
  | none => s.setImage r i v

/-- Copies the shadow bank of a weight set and its progress table to the active bank (R123, R134); `more` says that a
commit served later is still pending. -/
def State.bringWeights (s : State) (t j : Nat) (more : Bool := false) : State :=
  let k0 := 3200 * (32 * t + j)
  let inSet := fun (kv : Nat × Nat) => k0 ≤ kv.1 ∧ kv.1 < k0 + 3200
  let keep : SMap Nat := s.readout.weights.filter fun kv => !decide (inSet kv)
  let moved : SMap Nat := s.readout.weightShadow.filter fun kv => decide (inSet kv)
  let w := moved.foldl (fun (m : SMap Nat) kv => SMap.write m 0 kv.1 kv.2) keep
  let s := { s with readout := { s.readout with weights := w } }
  s.put F.weightControl_PENDING_MASK t
    (setBits (s.get F.weightControl_PENDING_MASK t) j 1 (if more then 1 else 0))

/-- The committed matrix of a tile comes into force (R78). -/
def State.bringMatrix (s : State) (t : Nat) : State :=
  let s := (List.range 16).foldl (fun s d =>
    let i := 16 * t + d
    { s with drive := { s.drive with matrix := s.drive.matrix.write 0 i (s.shadowImage .matrixRow i) } }) s
  (s.putFlag F.matrixControl_PENDING t false).count F.matrixControl_COMMIT_COUNT t

/-- The bins and status counts of a slot's histogram are zeroed (R133). -/
def State.clearHist (s : State) (slot : Nat) : State :=
  let s := { s with readout := { s.readout with
    bins := s.readout.bins.filter fun kv => kv.1 / 4096 ≠ slot } }
  s.setImage .histStatus slot 0

/-- The power mute of a channel ends (R82). -/
def State.endMute (s : State) (n : Nat) : State := s.putFlag F.xyStatus_MUTED n false

/-- A latch whose action is HOLD is set (R102). -/
def State.latchHolds (s : State) (n : Nat) : Bool :=
  (s.flag F.biasStatus_COMP_LATCH n && s.get F.biasConfig_COMP_ACTION n = 0) ||
    (s.flag F.biasStatus_OL_LATCH n && s.get F.biasConfig_OL_ACTION n = 0)

/-- The latches named in `which` clear (bit 0 COMP_LATCH, bit 1 OL_LATCH); the last HOLD latch that clears
ends a latched hold, and the open-load check starts again at the clear (R102). -/
def State.clearLatches (s : State) (n which : Nat) : State :=
  let s := if bit which 0 then s.putFlag F.biasStatus_COMP_LATCH n false else s
  let s := if bit which 1 then
      (s.putFlag F.biasStatus_OL_LATCH n false).setBias n { s.biasOf n with openSince := none }
    else s
  if s.latchHolds n then s else s.releaseBias n .latched

/-- What DEC_REC, IQ_REC and the mode say of a tile's capture (R279). -/
def State.captureWanted (s : State) (t : Nat) : Bool × Bool × Bool :=
  (s.flag F.capControl_DEC_REC, bit (s.get F.capControl_IQ_REC) t, s.mode = .survey)

/-- The shadow of a record of tile `t` comes into force as the writes served at or before SI `cut` left it; what a
later write made of it waits. -/
def State.serveShadow (s : State) (t cut : Nat) (kv : Nat × List (Nat × Nat)) : State :=
  match recordOf kv.1 with
  | some (r, i) =>
    if r.shadowTile i = some t then
      let s := match served cut kv.2 with
        | some v => s.setImage r i v
        | none => s
      { s with shadows := s.shadows.write [] kv.1 (unserved cut kv.2) }
    else s
  | none => s

/-- The shadow records of a tile that were served at or before SI `cut` come into force (R438, R439). -/
def State.serveShadows (s : State) (t cut : Nat) : State := s.shadows.foldl (fun s kv => s.serveShadow t cut kv) s

/-- The loaded words of a context come into force as under R439. -/
def State.serveCtx (s : State) (cut : Nat) (kv : Nat × List (Nat × Nat)) : State :=
  match served cut kv.2 with
  | some v => { s with program := { s.program with
      contexts := s.program.contexts.write 0 kv.1 v
      ctxShadow := s.program.ctxShadow.write [] kv.1 (unserved cut kv.2) } }
  | none => s

/-- The requests of a list that a boundary does not serve whose switch point stands at SI `cut` (R439). -/
def later (cut : Nat) (l : List Nat) : List Nat := l.filter fun x => cut < x

/-- The requested clears of a channel's latches are made (R102). -/
def State.serveLatches (s : State) (cut n : Nat) : State :=
  let b := s.biasOf n
  let due := b.latchClear.filter fun x => x.2 ≤ cut
  if due.isEmpty then s
  else (s.setBias n { b with latchClear := unserved cut b.latchClear }).clearLatches n
    (due.foldl (fun x y => x ||| y.1) 0)

/-- Everything of a tile that was served at or before SI `cut` comes into force (R438, R439): shadow records,
contexts, the matrix, weight sets, histogram clears, mute clears, latch clears, the capture settings and the
SURVEY step. -/
def State.boundary (s : State) (t : Nat) (cut : Nat) : State :=
  let s := s.serveShadows t cut
  let ctx := s.program.ctxShadow.filter fun kv => kv.1 / 1024 = t
  let s := ctx.foldl (fun s kv => s.serveCtx cut kv) s
  let s := match s.drive.matrixCommit.find t with
    | some at_ => if at_ ≤ cut then
        (({ s with drive := { s.drive with matrixCommit := s.drive.matrixCommit.drop t } } : State).bringMatrix t)
      else s
    | none => s
  let ws := s.readout.weightCommit.filter fun kv => kv.1 / 32 = t && kv.2.any (· ≤ cut)
  let s := ws.foldl (fun s kv =>
    ({ s with readout := { s.readout with
      weightCommit := s.readout.weightCommit.write [] kv.1 (later cut kv.2) } } : State).bringWeights
      t (kv.1 % 32) (!(later cut kv.2).isEmpty)) s
  let hs := s.readout.histClear.filter fun kv => kv.1 / 16 = t && kv.2.any (· ≤ cut)
  let s := hs.foldl (fun s kv =>
    ({ s with readout := { s.readout with
      histClear := s.readout.histClear.write [] kv.1 (later cut kv.2) } } : State).clearHist kv.1) s
  let ms := s.drive.muteClear.filter fun kv => kv.1 / 4 = t && kv.2.any (· ≤ cut)
  let s := ms.foldl (fun s kv =>
    ({ s with drive := { s.drive with
      muteClear := s.drive.muteClear.write [] kv.1 (later cut kv.2) } } : State).endMute kv.1) s
  let s := (biasOfTile t).foldl (fun s n => s.serveLatches cut n) s
  let s := { s with blocking := { s.blocking with
    deferred := s.blocking.deferred.write false t (1 ≤ s.get F.powerStatus_THROTTLE_STEP) } }
  { s with readout := { s.readout with
    capture := s.readout.capture.write (true, false, false) t (s.captureWanted t)
    surveyStep := s.readout.surveyStep.write 0 t (s.get F.capStatus_SURVEY_STEP) } }

/-- A tile in no active run parks while the shed stage is 3 or more, or the throttle step 5 or more (R368,
R377). -/
def State.parkIdle (s : State) (t : Nat) : State :=
  if s.inRun t then s
  else if 3 ≤ s.get F.powerStatus_SHED_STAGE || 5 ≤ s.get F.powerStatus_THROTTLE_STEP then
    (biasOfTile t).foldl (fun s n =>
      if s.flag F.biasStatus_PARKED n then s else s.parkBias n (s.parkValue n)) s
  else s

/-- The engine of a tile gives up what it has begun of a shot that will not start: its pulses, bias operations
and windows. -/
def State.unprepare (s : State) (t : Nat) : State :=
  let r := s.tile t
  if !r.coming then s
  else
    let shot := s.shotOf t
    let s := (List.range 16).foldl (fun s u => (s.silenceTone (16 * t + u)).silenceTone (256 + 16 * t + u)) s
    let s := (biasOfTile t).foldl State.dropOps s
    let s := s.setAcq t { s.acq t with waiting := (s.acq t).waiting.filter fun w => w.shot ≠ shot }
    let s := s.setTile t { r with prepared := false }
    match r.group with
    | none => s
    | some g =>
      let x := s.group g
      let barriers := x.barriers.map fun b => { b with arrivals := b.arrivals.filter fun a => a.1 ≠ t }
      s.setGroup g { x with barriers }

/-- An engine stops dispatching for a pending patch, from now on (R171). -/
def State.stopForPatch (s : State) (e : Nat) : State :=
  let x := s.engine e
  if x.patchStop.isSome then s else s.setEngine e { x with patchStop := some s.clock.now }

/-- It does so where a patch is pending. -/
def State.stopIfPatch (s : State) (e : Nat) : State :=
  if s.upload.patchSince.isSome then s.stopForPatch e else s

/-- A tile leaves its run (R439, R105): everything pending comes into force, and a stand-down hold ends. -/
def State.leaveRun (s : State) (t : Nat) : State :=
  let s := (s.unprepare t).boundary t 0xFFFFFFFFFFFFFFFF
  let s := s.setTile t { s.tile t with
    group := none, inShot := false, prepared := false, stoodDown := none, jump := none, jumps := [],
    chosen := none, chosenSeg := none, ended := true, emitAt := none, untilTick := none, barrier := none }
  let s := (biasOfTile t).foldl (fun s n => (s.releaseBias n .standDown).releaseBias n .segment) s
  let s := { s with drive := { s.drive with
    zeroed := s.drive.zeroed.filter fun z => z.1 ∉ channelsOfTile t } }
  let s := s.endLogs t
  let a := s.acq t
  let s := s.setAcq t { a with iq := a.iq.map fun x => { x with stop := some (x.stop.getD s.si) } }
  (((s.idleEngine t).put F.runStatus_RUN_STATE t 0).stopIfPatch t).parkIdle t

/-- The run of a group ends (R202, R206, R359): its tiles leave the run, and a RUN_STOP that waits for it
returns the last SHOT_SEQ and the voided shots. -/
def State.endRun (s : State) (g : Nat) : State :=
  let x := s.group g
  let s := (s.members g).foldl State.leaveRun s
  let s := s.setGroup g { x with
    state := .idle, inShot := false, awaitStart := false, startLatch := none, stopAfter := false,
    abort := false, missing := [], barriers := [] }
  s.finishAll (fun w => w = .runStop g) .ok (leBytes (x.seq % 2 ^ 32) 4 ++ leBytes (x.voided % 2 ^ 32) 4)

/-- HALT reaches an engine (R162). -/
def State.demandHalt (s : State) (e : Nat) : State := s.setEngine e { s.engine e with haltPending := true }

/-- A VOID order reaches an engine (R162). -/
def State.demandVoid (s : State) (e : Nat) : State := s.setEngine e { s.engine e with voidPending := true }

/-- HALT of a group in hardware (R404): every engine of it takes HALT, the shot in progress is voided, every tile stands
down and the run ends. -/
def State.haltGroup (s : State) (g : Nat) : State :=
  if (s.group g).state = .idle then s
  else
    let s := (s.members g).foldl State.demandHalt s
    let s := if (s.group g).inShot then
        (s.members g).foldl (fun s t => (s.voidShot t).standDown t) s
      else s
    s.endRun g

/-- Every run that includes the tile ends as under ABORT, at the shot's boundary (R194, R160). -/
def State.abortRun (s : State) (t : Nat) : State :=
  match (s.tile t).group with
  | none => s
  | some g => s.setGroup g { s.group g with abort := true }

/-- PROGRAM_FAULT on a tile (R194): the event is raised, the shot is voided, the tile stands down and its
run ends as under ABORT. -/
def State.programFault (s : State) (t : Nat) : State :=
  let s := s.raise (seqSource t 9)
  let s := s.report 16 false (seqSource t 9) t (s.shotOf t)
  (((s.voidShot t).demandVoid t).abortRun t).standDown t

/-! ### Mode changes -/

/-- A mode change (R396): the mode record, MODE_CHANGE, the function-event vectors, and SYNC disarms outside
PARKED and CALIBRATE (R47). -/
def State.enterMode (s : State) (m : Mode) (cause : Nat) : State :=
  let s := (s.put F.modeRecord_PREV_MODE 0 s.mode.code).put F.modeRecord_CAUSE 0 cause
  let s := s.put F.modeRecord_MODE_WALL_NS 0 s.wall
  let s := { s with mode := m, crown := { s.crown with modeSince := s.clock.now } }
  let s := s.putFlag F.modeRecord_B_PARKED 0 (m = .calibrate || m = .parked || m = .run || m = .survey)
  let s := if m = .parked ∨ m = .calibrate then s else s.putFlag F.gridStatus_SYNC_ARMED 0 false
  (s.raise 1140).signalAll

/-- The base of the completion ring entry that the next completion of a function takes (R344, R351). -/
def ringKey (f i : Nat) : Nat := 64 * f + i

/-- The entries of a ring between its CI and its PI, which count modulo 2³² (R341), and its size. -/
def State.ringCount (s : State) (k : Nat) : Nat := (s.host.pi.read 0 k + 2 ^ 32 - s.host.ci.read 0 k) % 2 ^ 32
def State.ringSize (s : State) (k : Nat) : Nat := 2 ^ s.get F.ring_LOG2_SIZE k

/-- The completion ring of a function has no room for one more job (R344). DEDUCED: a running job of the function
keeps room for its own entry. -/
def State.completionFull (s : State) (f : Nat) : Bool :=
  s.ringSize (ringKey f 32) ≤ s.ringCount (ringKey f 32)
    + (s.capture.running.filter fun kv => !kv.2.job.auto && kv.2.job.fn = f).length

/-- A completion entry of R296 goes to the function's completion ring: its PI advances, DESCRIPTORS counts
and vector 37 is signalled with source 1104 + f. -/
def State.postCompletion (s : State) (f tag : Nat) (st : Status) (engine frames inBlocks outUnits : Nat) : State :=
  let k := ringKey f 32
  let pi := s.host.pi.read 0 k
  let size := 2 ^ s.get F.ring_LOG2_SIZE k
  let entry := tag % 2 ^ 16 + st.code <<< 16 + (engine % 8) <<< 24 + (frames % 2 ^ 32) <<< 32
    + (inBlocks % 2 ^ 32) <<< 64 + (outUnits % 2 ^ 32) <<< 96
  if s.flag F.ring_ENABLE k then
    let s := s.send (.hostWrite f (s.get F.ring_BASE k + 16 * (pi % size)) (leBytes entry 16))
    let s := { s with host := { s.host with pi := s.host.pi.write 0 k ((pi + 1) % 2 ^ 32) } }
    ((s.count F.ring_DESCRIPTORS k).signal f 37).raise (1104 + f)
  else s

/-! ### Chunks and jobs that fail -/

/-- A change of capture and Fulling. -/
def State.setCapture (s : State) (c : Capture) : State := { s with capture := c }

/-- The bytes of a chunk, header block included. -/
def Chunk.bytes (c : Chunk) : Nat := 256 * (c.blocks + 1)

/-- A chunk is an IQ or SNAPSHOT chunk, whose drops count in IQ_DROP. -/
def isStream (kind : Nat) : Bool := kind = 2 || kind = 3

/-- A drop (R282); `b` is DETAIL_B of its report. -/
def State.dropChunk (s : State) (kind tile b : Nat) : State :=
  if isStream kind then
    let s := s.count F.capStatus_IQ_DROP 0
    let s := if s.capture.dropSeen then s
      else (s.setCapture { s.capture with dropSeen := true }).raise 977
    s.report 22 false 977 tile b
  else ((s.count F.capStatus_DEC_DROP 0).raise 976).report 22 false 976 tile b

/-- A written chunk has been consumed: marked done, and CAP_RP passes the chunks done at the front (R300). -/
def State.consume (s : State) (at_ : Nat) : State :=
  let written := s.capture.written.map fun c => if c.at_ = at_ then { c with done := true } else c
  let gone := written.takeWhile fun c => c.done
  (s.setCapture { s.capture with written := written.dropWhile fun c => c.done }).put F.capStatus_CAP_RP 0
    (s.get F.capStatus_CAP_RP + (gone.map Chunk.bytes).sum)

/-- A job goes back to the front of its queue. -/
def State.requeue (s : State) (j : Job) : State := s.setCapture { s.capture with jobs := j :: s.capture.jobs }

/-- The kind of the chunks of an AUTO stream (R300). -/
def autoKind (stream : Nat) : Nat :=
  if stream / 16 = 0 then 2 else if stream / 16 = 1 then 1 else if stream / 16 = 2 then 3 else 4

/-- What becomes of a failed AUTO job (R300): after NO_SPACE it waits for room; after FAULTED it runs once more, a
failure that shedding caused not counted, and a second failure discards its chunk. -/
def State.retryAuto (s : State) (j : Job) (st : Status) (shed : Bool) : State :=
  if st = .noSpace then s.requeue { j with waitSpace := true }
  else if shed then s.requeue { j with waitFault := true }
  else if j.faults = 0 then s.requeue { j with waitFault := true, faults := 1 }
  else
    let stream := bits j.desc 16 12
    (s.dropChunk (autoKind stream) (stream % 16) j.chunkAt).consume j.chunkAt

/-- A Fulling job fails as a whole (R294, R295): source 968 + e, its queue's counts, a report where it is FAULTED,
and the completion of a submitted job. -/
def State.failJob (s : State) (j : Job) (st : Status) (shed : Bool) : State :=
  let q := bits j.desc 28 4
  let e := q % 8
  let s := s.raise (968 + e)
  let s := if st = .faulted then
      (s.count F.outQueue_FAULT_COUNT q).report 21 false (968 + e) (bits j.desc 0 16) st.code
    else if st = .noSpace then s.count F.outQueue_NO_SPACE_COUNT q
    else s
  if j.auto then s.retryAuto j st shed
  else s.postCompletion j.fn (bits j.desc 0 16) st e 0 0 0

/-- Bytes of the store that a failed job leaves are undefined (R294, R299): `n` bytes from `a` on, modulo a ring
of `size` bytes at `base`. -/
def State.blurStore (s : State) (base size a n : Nat) : State :=
  let lib := (List.range n).foldl (fun (m : SMap Byte) i =>
    SMap.write m 0 (base + (a + i) % size) (Config.freeByte (s.freeCount + i))) s.memory.store
  { s with memory := { s.memory with store := lib }, freeCount := s.freeCount + n }

/-- What a failed job has written of its output is undefined. -/
def State.blurOutput (s : State) (x : RunJob) : State :=
  if bit x.job.desc 35 then
    let a := bits x.job.desc 192 64
    s.blurStore a (256 * x.written + 1) 0 (256 * x.written)
  else
    s.blurStore (4096 * s.get F.outQueue_BASE x.queue) (4096 * s.get F.outQueue_SIZE x.queue)
      (s.get F.outQueue_WP x.queue) x.bytes

/-- The job that engine `e` runs fails. -/
def State.failRun (s : State) (e : Nat) (st : Status) (shed : Bool) : State :=
  match s.capture.running.find e with
  | none => s
  | some x =>
    let s := s.setCapture { s.capture with running := s.capture.running.drop e }
    (s.blurOutput x).failJob x.job st shed

/-- Every Fulling job, running or waiting, fails (R295: entry to SAFE). -/
def State.failAllJobs (s : State) : State :=
  let s := (List.range 8).foldl (fun s e => s.failRun e .faulted false) s
  let jobs := s.capture.jobs.filter fun j => !j.waitFault
  let s := s.setCapture { s.capture with jobs := s.capture.jobs.filter fun j => j.waitFault }
  jobs.reverse.foldl (fun s j => s.failJob j .faulted false) s

/-- Capture and Fulling resume where that is due (R370). -/
def State.resumeCapture (s : State) : State :=
  if s.capture.resumeDue then
    (s.setCapture { s.capture with resumeDue := false }).putFlag F.capStatus_SHED_STOP 0 false
  else s

/-- Entry to SAFE (R404): every engine takes HALT, XY and probe outputs go to zero, every bias channel starts
its park ramp, Fulling jobs fail, Blocking stops, and a waiting MODE_SET returns FAULTED (R396). A fatal
fault that arrives in SAFE is only logged (R403). -/
def State.enterSafe (s : State) (cause : Nat) : State :=
  let s := s.report 37 false 0xFFF cause
  if s.mode = .safe then s
  else
    let s := ((List.range 16).foldl State.haltGroup s).demandHalt 16
    let s := (List.range 512).foldl State.silenceTone s
    let s := if s.power.ramp = some 1 then { s with power := { s.power with ramp := none } } else s
    let s := s.parkAll
    let s := s.failAllJobs
    let s := { s with blocking := { s.blocking with stepping := [] } }
    let s := s.count F.modeRecord_SAFE_ENTRIES 0
    let s := s.enterMode .safe cause
    s.finishAll (fun w => match w with | .modeSet _ => true | _ => false) .faulted []

/-! ### Reset, boot and power-off -/

/-- Entry to RESET (R407): only boot flash keeps its contents. What lies outside the reset (the feeds, the
balls, the power stages' latches and held cause, the model's clock and queue) stays as it is. -/
def State.enterReset (s : State) (cause : Nat) : State :=
  { State.reset with
    pending := s.pending
    out := s.out ++ [.source 1140 0 0 0]
    clock := { Clock.init with now := s.clock.now }
    flash := s.flash
    power := { s.power with heldCause := cause, ramp := none }
    crown := { Crown.init with modeSince := s.clock.now }
    host := { HostIf.init with perst := s.host.perst }
    freeCount := s.freeCount }

/-- The bias channels go onto their islands' park oscillators: SCLK is lost while they park or are parked
(R99). -/
def State.toParkOsc (s : State) : State :=
  (List.range 128).foldl (fun s n =>
    s.setBias n { s.biasOf n with parkOsc := some ((s.biasOf n).parkOsc.getD s.clock.now) }) s

/-- The lane settings of the board profile, codes of 0 where its seal fails (R250, R399). -/
def loadProfile (s : State) : State :=
  (List.range 32).foldl (fun s i =>
    s.setImage .ulpLane i (setBits (s.image .ulpLane i) 0 22
      (if Config.profileSealGood then (Config.boardProfile i).toNat else 0))) s

/-- BOOT begins (R396, R397): core A is in control and starts from its ROM loader. -/
def State.beginBoot (s : State) (cause : Nat) : State := (loadProfile s).enterMode .boot cause

/-- BOOT begins where the device stands in RESET with the rails in regulation and RESET_N high, and nothing holds
it there (R396, R407, R411). -/
def State.tryBoot (s : State) : State :=
  if s.mode = .reset && s.power.rails && s.power.resetN && !s.power.stayReset && s.power.resetUntil.isNone then
    s.beginBoot s.power.heldCause
  else s

/-- Every load is switched off (R368): the device is unpowered. -/
def State.powerOff (s : State) (cause : Nat) : State :=
  let s := s.enterReset cause
  let x := s.power
  { s with power := { x with
      rails := false, thermalOff := x.thermalOff || cause = 6
      feedA := { x.feedA with qualified := false, drawn := false }
      feedB := { x.feedB with qualified := false, drawn := false } } }

/-- The records whose fields report state that a MODE_SET BOOT keeps (R395): the grid, time, mode, log, power and
link status, and the spares of the store and the libraries. -/
def keptRecord (id : Nat) : Bool :=
  match recordOf id with
  | some (.gridStatus, _) | some (.timeStatus, _) | some (.modeRecord, _) | some (.logStatus, _) => true
  | some (.powerStatus, _) | some (.linkStatus, _) => true
  | _ => false

/-- The reload of a MODE_SET BOOT (R395): what it names is kept, and everything else starts again. -/
def State.reload (s : State) : State :=
  let s := if s.get F.timeControl_SOURCE = 0 then s
    else if s.flag F.timeStatus_HOLDOVER then s.putFlag F.timeStatus_LOCKED 0 false
    else (((s.putFlag F.timeStatus_LOCKED 0 false).putFlag F.timeStatus_HOLDOVER 0 true).raise 864).report 31 false 864
  let s := s.finishAll (fun _ => true) .faulted []
  let spares := s.get F.storeStatus_SPARES_LEFT
  let libSpares := (List.range 16).map fun t => s.get F.libStatus_SPARES_LEFT t
  let bias := (s.bias.filter fun kv => kv.2.parkOsc.isSome).map fun kv => (kv.1, { Bias.init with parkOsc := kv.2.parkOsc })
  let fresh : State := { State.reset with
    pending := s.pending, out := s.out, mode := s.mode, clock := s.clock
    records := s.records.filter fun kv => keptRecord kv.1
    blocking := { Blocking.init with taps := s.blocking.taps }
    bias
    memory := { Memory.init with libUnusable := s.memory.libUnusable, pageUnusable := s.memory.pageUnusable }
    host := { HostIf.init with
      mailboxes := s.host.mailboxes, accepted := s.host.accepted, perst := s.host.perst
      trainedWidth := s.host.trainedWidth, heldOut := s.host.heldOut }
    power := { s.power with ramp := none }
    crown := s.crown, log := s.log, flash := s.flash, freeCount := s.freeCount }
  let fresh := (fresh.putFlag F.gridStatus_SYNC_ARMED 0 false).put F.storeStatus_SPARES_LEFT 0 spares
  loadProfile ((List.range 16).foldl (fun x t => x.put F.libStatus_SPARES_LEFT t (libSpares.getD t 0)) fresh)

/-- The watchdog resets within the last 10 minutes, this one included (R411). -/
def State.watchdogCount (s : State) : List Nat :=
  s.power.watchdogs.filter (fun x => s.clock.now < x + 600 * Config.ticksPerS) ++ [s.clock.now]

/-- What follows once every bias channel stands at 0 (R368, R395, R407, R411). -/
def State.rampDone (s : State) (cause : Nat) : State :=
  if cause = 1 then s.reload
  else if cause = 2 then
    let s := s.enterReset 2
    { s with power := { s.power with resetUntil := some (s.clock.now + 10 * Config.ticksPerUs) } }
  else if cause = 4 then
    let dogs := s.watchdogCount
    let s := s.enterReset 4
    ({ s with power := { s.power with watchdogs := dogs, stayReset := decide (3 ≤ dogs.length) } } : State).tryBoot
  else s.powerOff cause

/-- The ramps to 0 have ended, where they all have. -/
def State.rampEnded (s : State) : State :=
  match s.power.ramp with
  | some cause => if (List.range 128).all fun n => s.level n = 0 then s.rampDone cause else s
  | none => s

/-- Every bias channel ramps to 0, and the device then goes where the cause takes it (R105): with the last ramp's
end, or at the next tick where every channel stands at 0 already. A ramp to RESET under way is not put off by a
later one. -/
def State.rampTo (s : State) (cause : Nat) : State :=
  match s.power.ramp with
  | some c => if c = 1 then { s with power := { s.power with ramp := some cause } } else s
  | none => ({ s with power := { s.power with ramp := some cause } } : State).parkAllToZero

end Sys2Proof.Machine
end

