-- ==== Sys2Proof/Machine/Operands.lean ====
section
/-! DEFINITION. The operand forms: a mailbox request, how it is screened and served (R332 to R337, R352 to
R356), the fields of operation words, contexts and segment descriptors (R176 to R196), bindings (R17), timing
sets (R40 to R44) and the placed instant (R33). -/

namespace Sys2Proof.Machine

/-! ### Requests -/

/-- A request as it stands in a mailbox's request buffer (R332). `header` is the 32-byte header. -/
structure Request where
  m : Nat
  command : Nat
  tag : Nat
  len : Nat
  fn : Nat
  sealWord : Nat
  header : Nat
  payload : List Byte
deriving DecidableEq, Repr

/-- The fields of R332. The buffer holds 4,096 bytes. -/
def requestOf (m : Nat) (buf : List Byte) : Request :=
  let h := le buf 0 32
  { m, command := bits h 0 16, tag := bits h 16 16, len := bits h 32 12, fn := bits h 48 3,
    sealWord := bits h 224 32, header := h, payload := slice buf 32 (min (bits h 32 12) 4064) }

/-- `n` bytes of the payload at an offset, least significant first (R355). -/
def Request.at (r : Request) (off n : Nat) : Nat := le r.payload off n

/-- The request seal: the CRC-32C over the header with SEAL taken as 0, and the payload (R332). -/
def Request.sealGood (r : Request) : Bool :=
  crc32c (leBytes (bits r.header 0 224) 32 ++ r.payload) = r.sealWord

/-- The byte offset of the first header field that step 2 of R354 refuses. -/
def Request.headerBad (r : Request) (owner : Option Nat) : Option Nat :=
  if 4064 < r.len then some 4
  else if bits r.header 44 4 ≠ 0 then some 5
  else if owner ≠ some r.fn ∨ bits r.header 51 173 ≠ 0 then some 6
  else none

/-- A firmware-administrator command arrives on MBX[0] (R325). -/
def Request.adm (r : Request) : Bool := r.m = 0

/-- The command codes that the command reference defines. -/
def commandCodes : List Nat :=
  [0x0101, 0x0102, 0x0103, 0x0104, 0x0105, 0x0106, 0x0107, 0x0108, 0x0109, 0x0201, 0x0202, 0x0203,
   0x0204, 0x0205, 0x0206, 0x0207, 0x0208, 0x0301, 0x0302, 0x0303, 0x0304, 0x0305, 0x0401, 0x0402,
   0x0501, 0x0502, 0x0503, 0x0504, 0x0505, 0x0506, 0x0507, 0x0508, 0x0509, 0x0601, 0x0602, 0x0603,
   0x0604, 0x0605, 0x0701, 0x0702, 0x0703, 0x0801, 0x0802, 0x0803, 0x0804, 0x0901, 0x0902, 0x0A01,
   0x0A02, 0x0A03, 0x0B01, 0x0B02, 0x0B03, 0x0B04, 0x0B05, 0x0C01, 0x0C02]

/-- The outcome of a command that has passed its checks. -/
inductive Answer where
  /-- done, with a response payload -/
  | ok (s : State) (payload : List Byte)
  /-- refused or failed, with a status and DETAIL -/
  | fail (s : State) (st : Status) (detail : Nat)
  /-- deferred (R356) -/
  | wait (s : State) (w : Wait)
  /-- already answered -/
  | quiet (s : State)

/-- One command of the command reference for one request: what R354 checks in its steps 5 to 9, in order,
and what it then does. -/
structure Command where
  /-- step 5: DETAIL of a framing error -/
  frame : Option Nat
  /-- step 6 -/
  access : Option (Status × Nat)
  /-- step 7 -/
  modes : List Mode
  refused : Bool
  /-- steps 8 and 9 -/
  checks : List (Bool × Status × Nat)
  /-- step 10 -/
  act : State → Answer

/-- The first check that fails. -/
def firstBad : List (Bool × Status × Nat) → Option (Status × Nat)
  | [] => none
  | (b, st, d) :: r => if b then some (st, d) else firstBad r

/-- Steps 5 to 9 of R354: the status and DETAIL of the first check that fails. -/
def Command.verdict (c : Command) (mode : Mode) : Option (Status × Nat) :=
  match c.frame, c.access with
  | some d, _ => some (.badRecord, d)
  | none, some a => some a
  | none, none =>
    if !c.modes.contains mode || c.refused then some (.refusedMode, mode.code)
    else firstBad c.checks

/-- The modes of the command tables (R353). -/
def modesAll : List Mode :=
  [Mode.selftest, Mode.calibrate, Mode.parked, Mode.run, Mode.survey, Mode.safe]
def modesCP : List Mode := [Mode.calibrate, Mode.parked]
def modesCPF : List Mode := [Mode.calibrate, Mode.parked, Mode.safe]
def modesCPRS : List Mode := [Mode.calibrate, Mode.parked, Mode.run, Mode.survey]
def modesCPRSF : List Mode := [Mode.calibrate, Mode.parked, Mode.run, Mode.survey, Mode.safe]
def modesRS : List Mode := [Mode.run, Mode.survey]
def modesRSF : List Mode := [Mode.run, Mode.survey, Mode.safe]
def modesPRS : List Mode := [Mode.parked, Mode.run, Mode.survey]
def modesPRSF : List Mode := [Mode.parked, Mode.run, Mode.survey, Mode.safe]

/-- The payload has exactly `n` bytes, or the refusal of step 5 (DETAIL 4). -/
def exactly (r : Request) (n : Nat) : Option Nat := if r.len = n then none else some 4

/-- The access columns of R355. -/
def accessAny : Option (Status × Nat) := none
def accessAdm (r : Request) : Option (Status × Nat) := if r.adm then none else some (.guarded, 0)
def accessF0 (r : Request) : Option (Status × Nat) := if r.fn = 0 then none else some (.notOwner, 0)
def accessIf (b : Bool) : Option (Status × Nat) := if b then none else some (.notOwner, 0)

/-- The function that owns a tile (R326). -/
def State.owner (s : State) (t : Nat) : Nat := s.getAt F.ownership_OWNER 0 t

/-- The issuing function owns a tile; a tile that does not exist is judged by step 8. -/
def State.owns (s : State) (r : Request) (t : Nat) : Bool := 16 ≤ t || s.owner t = r.fn

/-- A reserved field of a payload is not 0 (R6): BAD_VALUE at its offset. -/
def Request.rsv (r : Request) (off n : Nat) : Bool × Status × Nat :=
  (r.at off n ≠ 0, .badValue, 32 + off)

/-- A field of a payload is out of range: BAD_VALUE at its offset. -/
def badAt (off : Nat) (b : Bool) : Bool × Status × Nat := (b, .badValue, 32 + off)

/-- The commands that the recovery form serves (R406). -/
def recoveryCodes : List Nat := [0x0101, 0x0102, 0x0103, 0x0105, 0x0108, 0x0109, 0x0B01, 0x0B02, 0x0B05]

/-- Jutan serves in these modes (R352), while a Crown core is in control (R409). -/
def State.serves (s : State) : Bool := modesAll.contains s.mode && s.crown.noneSince.isNone

/-- The request of mailbox `m` is the next that Jutan serves (R336). -/
def State.atHead (s : State) (m : Nat) : Bool := s.serves && s.host.accepted.head? = some m

/-- A request leaves the accepted list. -/
def State.popAccepted (s : State) : State :=
  { s with host := { s.host with accepted := s.host.accepted.tail } }

/-- What steps 1 to 4 of R354 make of a request. -/
inductive Screen where
  | refuse (st : Status) (detail : Nat)
  | replay (old : Response)
  | go
deriving DecidableEq, Repr

/-- The owner that step 2 of R354 compares FUNCTION with. -/
def State.mailboxOwner (s : State) (m : Nat) : Option Nat :=
  if s.mailboxAssigned m then some (s.mailboxFn m) else none

/-- Step 3 of R354: the retry rule (R337). -/
def retryScreen (stored : Option (Response × Nat)) (r : Request) : Screen :=
  match stored with
  | none => .go
  | some (old, sl) =>
    if old.tag ≠ r.tag then .go
    else if sl ≠ r.sealWord then .refuse .badRecord 28
    else if old.status = .ok then .replay old
    else .go

/-- Steps 1 to 4 of R354. -/
def State.screen (s : State) (r : Request) : Screen :=
  if !r.sealGood then .refuse .sealMismatch 0
  else match r.headerBad (s.mailboxOwner r.m) with
    | some d => .refuse .badRecord d
    | none => match retryScreen (s.mailbox r.m).stored r with
      | .go => if commandCodes.contains r.command then .go else .refuse .badCommand 0
      | x => x

/-- The response to a request (R333). -/
def Request.response (r : Request) (st : Status) (detail : Nat) (payload : List Byte) : Response :=
  { command := r.command, tag := r.tag, fn := r.fn, status := st, detail, replayed := false, payload }

/-- Jutan answers a request. -/
def State.reply (s : State) (r : Request) (st : Status) (detail : Nat) (payload : List Byte) : State :=
  s.respond r.m (r.response st detail payload) r.sealWord

/-- A command that has been checked ends, or stands aside (R336). -/
def State.settle (s : State) (r : Request) (a : Answer) : State :=
  match a with
  | .ok s p => s.reply r .ok 0 p
  | .fail s st d => s.reply r st d []
  | .quiet s => s
  | .wait s' w => { s' with host := { s'.host with deferred := s'.host.deferred ++
      [{ m := r.m, command := r.command, tag := r.tag, fn := r.fn, reqSeal := r.sealWord,
         since := s.clock.now, discard := false, wait := w }] } }

/-- At shed stage 5 and above only commands of 0x01xx, 0x08xx and 0x0Bxx are served (R368), and in recovery form
only those of R406. -/
def State.refuses (s : State) (r : Request) : Bool :=
  (decide (5 ≤ s.get F.powerStatus_SHED_STAGE) && !([1, 8, 11].contains (r.command / 256)))
    || (s.flag F.modeRecord_RECOVERY && !recoveryCodes.contains r.command)

/-- Steps 5 to 10 of R354. -/
def State.run (s : State) (r : Request) (c : Command) : State :=
  match ({ c with refused := c.refused || s.refuses r } : Command).verdict s.mode with
  | some (st, d) => s.reply r st d []
  | none => s.settle r (c.act s)

/-- Jutan serves the request of mailbox `m` as the command with this code (R335, R354). Where another request
is next, or the request carries another defined command, nothing happens. -/
def State.serve (s : State) (m code : Nat) (cmd : Request → State → Command) : State :=
  let r := requestOf m (s.mailbox m).request
  if s.atHead m && (r.command = code || !commandCodes.contains r.command) then
    let s := s.popAccepted
    match s.screen r with
    | .refuse st d => s.reply r st d []
    | .replay old => s.respond m { old with replayed := true } r.sealWord
    | .go => s.run r (cmd r s)
  else s

/-- The bytes of a response as the response buffer holds them (R333). -/
def Response.bytes (r : Response) : List Byte :=
  let h := r.command + r.tag <<< 16 + r.payload.length <<< 32 + r.fn <<< 48
    + (if r.replayed then 1 else 0) <<< 51 + r.status.code <<< 64 + r.detail <<< 80
  let head := leBytes h 28
  head ++ leBytes (crc32c (head ++ zeros 4 ++ r.payload)) 4 ++ r.payload

/-- The slot status that BAR0 shows of a mailbox (R328). -/
def Mailbox.slotStatus (x : Mailbox) : Nat :=
  (if x.busy then 1 else 0) + (if x.done then 2 else 0) + 4
    + (match x.stored with | some (r, _) => r.tag <<< 16 | none => 0) + x.drops <<< 32

/-! ### Operation words (R176 to R179) -/

/-- OPCODE, kind and index of TARGET, the CTX field, OPERAND and its parts. -/
def opcodeOf (w : Nat) : Nat := bits w 56 8
def kindOf (w : Nat) : Nat := bits w 52 4
def indexOf (w : Nat) : Nat := bits w 48 4
def ctxOf (w : Nat) : Nat := bits w 38 10
def operandOf (w : Nat) : Nat := bits w 0 38
def dtOf (w : Nat) : Nat := bits w 0 32
def offsetOf (w : Nat) : Nat := bits w 32 4
def relOf (w : Nat) : Bool := bit w 36

/-- The operations of R177, with the modes and kinds that the opcode table lists apart. -/
inductive Op where
  | play
  | playParam
  | frame
  | biasSet
  | biasRamp
  | biasSine
  | acquire
  | tset
  | waitUntil
  | waitEvent
  | align
  | branchDecision
  | branchEvent
  | branchCounter
  | branchAlways
  | seg
  | loop
  | jump
  | emit
  | barrier
  | countSet
  | countAdd
  | countAddIf
  | shotEnd
  | bad
deriving DecidableEq, Repr

/-- The operation of a word. An undefined opcode dispatches BAD_OP (R150, R177); so does a kind that R178
does not list. -/
def opOf (w : Nat) : Op :=
  match opcodeOf w, kindOf w with
  | 0x01, 0 => .play | 0x01, 1 => .play | 0x01, 2 => .play | 0x01, 3 => .play
  | 0x02, 0 => .playParam | 0x02, 1 => .playParam | 0x02, 2 => .playParam | 0x02, 3 => .playParam
  | 0x08, 0 => .frame | 0x08, 1 => .frame | 0x08, 2 => .frame | 0x08, 3 => .frame
  | 0x10, 0 => .biasSet | 0x10, 1 => .biasSet | 0x10, 2 => .biasSet
  | 0x11, 0 => .biasRamp | 0x11, 1 => .biasRamp | 0x11, 2 => .biasRamp
  | 0x12, 0 => .biasSine | 0x12, 1 => .biasSine | 0x12, 2 => .biasSine
  | 0x18, 0 => .acquire
  | 0x19, 0 => .tset
  | 0x20, 0 => .waitUntil | 0x20, 1 => .waitEvent
  | 0x21, 0 => .align
  | 0x28, 0 => .branchDecision | 0x28, 1 => .branchEvent | 0x28, 2 => .branchCounter
  | 0x28, 3 => .branchAlways
  | 0x30, 0 => .seg
  | 0x31, 0 => .loop
  | 0x32, 0 => .jump
  | 0x38, 0 => .emit
  | 0x39, 0 => .barrier | 0x39, 1 => .barrier
  | 0x40, 0 => .countSet | 0x40, 1 => .countAdd | 0x40, 2 => .countAddIf
  | 0x48, 0 => .shotEnd
  | _, _ => .bad

/-- The operation takes an extension word (R177). -/
def Op.ext (o : Op) : Bool :=
  match o with
  | .playParam | .frame | .biasSet | .biasRamp | .biasSine => true
  | .branchDecision | .branchEvent | .branchCounter | .branchAlways => true
  | _ => false

/-- The word is timed (R177). -/
def Op.timed (o : Op) : Bool :=
  match o with
  | .play | .playParam | .frame | .biasSet | .biasRamp | .biasSine => true
  | .acquire | .tset | .waitUntil | .emit => true
  | _ => false

/-- The word ends its segment (R197). -/
def Op.ends (o : Op) : Bool :=
  match o with
  | .seg | .loop | .jump | .shotEnd => true
  | _ => false

/-- The words that must have S = 0 (R179). -/
def Op.noOffset (o : Op) : Bool :=
  match o with
  | .biasSet | .biasRamp | .biasSine | .acquire | .tset | .emit => true
  | _ => false

/-- The bits of a word that its operation leaves reserved: CTX and OPERAND bits that R177, R178, R184 and
R189 do not name, and an unused index. -/
def Op.reserved (o : Op) (w : Nat) : Bool :=
  let timedRsv := bit w 37
  match o with
  | .play | .playParam => timedRsv
  | .frame => timedRsv || bits w 42 6 ≠ 0
  | .biasSet | .biasRamp | .biasSine => timedRsv || (kindOf w = 0 && 8 ≤ indexOf w)
  | .acquire => timedRsv
  | .tset => timedRsv || ctxOf w ≠ 0 || 8 ≤ indexOf w
  | .waitUntil => timedRsv || ctxOf w ≠ 0 || indexOf w ≠ 0
  | .waitEvent => timedRsv || ctxOf w ≠ 0 || indexOf w ≠ 0
  | .align => ctxOf w ≠ 0 || indexOf w ≠ 0 || bits w 32 6 ≠ 0 || bits w 0 16 = 0
  | .branchDecision => ctxOf w ≠ 0 || bits w 28 10 ≠ 0
  | .branchEvent => ctxOf w ≠ 0 || indexOf w ≠ 0 || bit w 37
  | .branchCounter => ctxOf w ≠ 0 || bits w 32 6 ≠ 0
  | .branchAlways => ctxOf w ≠ 0 || indexOf w ≠ 0 || operandOf w ≠ 0
  | .seg => ctxOf w ≠ 0 || indexOf w ≠ 0 || operandOf w ≠ 0
  | .loop => ctxOf w ≠ 0 || indexOf w ≠ 0 || bits w 24 14 ≠ 0 || bits w 0 24 = 0
  | .jump => ctxOf w ≠ 0 || indexOf w ≠ 0 || bits w 8 30 ≠ 0
  | .emit => timedRsv || bits w 40 8 ≠ 0 || 4 ≤ indexOf w
  | .barrier => indexOf w ≠ 0
  | .countSet => ctxOf w ≠ 0 || bits w 32 6 ≠ 0
  | .countAdd => ctxOf w ≠ 0 || bits w 32 6 ≠ 0
  | .countAddIf => ctxOf w ≠ 0 || bits w 8 30 ≠ 0
  | .shotEnd => ctxOf w ≠ 0 || indexOf w ≠ 0 || bits w 1 37 ≠ 0
  | .bad => true

/-- An extension word that breaks R177, R184 or R185. -/
def Op.extBad (o : Op) (w x : Nat) : Bool :=
  match o with
  | .playParam => signed (bits x 32 32) 32 < -1000000000 || 1000000000 < signed (bits x 32 32) 32
  | .frame => !bit w 38 && bits x 32 32 ≠ 0
  | .biasSet => bits x 16 48 ≠ 0
  | .biasRamp => bits x 40 24 ≠ 0
  | .biasSine => 32767 < bits x 0 16
  | _ => false

/-- The instances of a list of words: each word with its extension word, 0 where it takes none. -/
def instancesOf : List Nat → List (Nat × Nat)
  | [] => []
  | [w] => [(w, 0)]
  | w :: x :: r => if (opOf w).ext then (w, x) :: instancesOf r else (w, 0) :: instancesOf (x :: r)

/-- The channel that a WAIT or BRANCH_ON of kind EVENT names (R188, R189). -/
def namedChannel (w : Nat) : Option Nat :=
  match opOf w with
  | .waitEvent => some (bits w 0 9)
  | .branchEvent => some (bits w 28 9)
  | _ => none

/-! ### Contexts (R181) -/

/-- The fields of a context. -/
def ctxLibPtr (c : Nat) : Nat := bits c 0 20
def ctxLibLen (c : Nat) : Nat := bits c 20 20
def ctxDuration (c : Nat) : Nat := bits c 40 24
def ctxAmp (c : Nat) : Nat := bits c 64 16
def ctxPhase (c : Nat) : Nat := bits c 80 16
def ctxFofs (c : Nat) : Int := signed (bits c 96 32) 32
def ctxFrac (c : Nat) : Nat := bits c 128 4
def ctxTset (c : Nat) : Nat := bits c 132 3
def ctxPdSel (c : Nat) : Nat := bits c 135 2
def ctxSnap (c : Nat) : Bool := bit c 137
def ctxAcqLen (c : Nat) : Nat := bits c 138 11
def ctxWset (c : Nat) : Nat := bits c 149 5
def ctxPounce (c : Nat) : Nat := bits c 160 32

/-- The Pounce settings word breaks R145. -/
def pounceBad (p : Nat) : Bool :=
  (bits p 0 10 ≠ 0 && bits p 0 10 < 339) || 929 < bits p 0 10 || 1600 < bits p 10 11
    || bits p 24 8 ≠ 0

/-- A context that R182 refuses. -/
def ctxBad (c : Nat) : Bool :=
  bits c 154 6 ≠ 0 || bits c 192 64 ≠ 0
    || 1048576 < ctxLibPtr c + ctxLibLen c
    || (ctxDuration c ≠ 0 && ctxDuration c < ctxLibLen c)
    || ctxFofs c < -1000000000 || 1000000000 < ctxFofs c
    || 1600 < ctxAcqLen c || pounceBad (ctxPounce c)

/-- What governs the words and samples of the shot that a tile works on (R439): a shadow value served by
the cutoff of a base that has not come yet, and the value in force otherwise. -/
def State.cutoff (s : State) (t : Nat) : Option Nat :=
  let r := s.tile t
  if r.prepared && !r.inShot then some (r.base - 16 * Config.switchLead) else none

/-- A record image as it governs the shot that tile `t` works on. -/
def State.imageFor (s : State) (t : Nat) (r : Rec) (i : Nat) : Nat :=
  match s.cutoff t with
  | some c => (served c (s.shadows.read [] (r.key i))).getD (s.image r i)
  | none => s.image r i

/-- A field of it. -/
def State.getFor (s : State) (t : Nat) (f : Field) (i : Nat) : Nat :=
  bits (s.imageFor t f.record i) f.lo f.width

/-- A context as it governs the shot that tile `t` works on. -/
def State.context (s : State) (t i : Nat) : Nat :=
  let now := s.program.contexts.read 0 (1024 * t + i)
  match s.cutoff t with
  | some c => (served c (s.program.ctxShadow.read [] (1024 * t + i))).getD now
  | none => now

/-! ### Bindings (R17) and targets (R178) -/

/-- The binding of slot `n` of a tile: byte `j` is the drive channel, drive tone, probe tone, acquisition
tone, first and second bias channel; 0xFF binds none. -/
def State.bindingByte (s : State) (t n j : Nat) : Option Nat :=
  let b := bits (s.program.bindings.read 0xFFFFFFFFFFFF (16 * t + n)) (8 * j) 8
  if b = 0xFF then none else some b

/-- The drive tone of a slot, tile-local. -/
def State.slotDrive (s : State) (t n : Nat) : Option Nat :=
  match s.bindingByte t n 0, s.bindingByte t n 1 with
  | some c, some k => some (4 * c + k)
  | _, _ => none

/-- The tone that a PLAY, PLAY_PARAM or FRAME names: probe or drive, and its tile-local number. -/
def State.targetTone (s : State) (t w : Nat) : Option (Bool × Nat) :=
  match kindOf w with
  | 0 => (s.slotDrive t (indexOf w)).map fun u => (false, u)
  | 1 => (s.bindingByte t (indexOf w) 2).map fun u => (true, u)
  | 2 => some (false, indexOf w)
  | _ => some (true, indexOf w)

/-- The tile-local bias channel that a BIAS_* word names. -/
def State.targetBias (s : State) (t w : Nat) : Option Nat :=
  match kindOf w with
  | 0 => some (indexOf w)
  | 1 => s.bindingByte t (indexOf w) 4
  | _ => s.bindingByte t (indexOf w) 5

/-- The key of a tone of tile `t`. -/
def toneKey (t : Nat) (probe : Bool) (u : Nat) : Nat := if probe then 256 + 16 * t + u else 16 * t + u

/-- The output channel key of a tone: DRV[4t + u div 4], or 64 + t for PRB[t]. -/
def toneChannel (t : Nat) (probe : Bool) (u : Nat) : Nat := if probe then 64 + t else 4 * t + u / 4

/-- The tile-local channel number of R40 of a tone. -/
def toneLocal (probe : Bool) (u : Nat) : Nat := if probe then 4 else u / 4

/-! ### Timing sets and the placed instant -/

/-- The offset of a tile-local channel in a timing set, at the resolution of R41, in sixteenths of a
sample. -/
def State.edgeOffset (s : State) (t set ch : Nat) : Int :=
  let raw := bits (s.imageFor t .timingSet (8 * t + set)) (16 * ch) 16
  let kept := if ch < 5 then raw else if ch = 5 then raw / 16 * 16 else raw / 128 * 128
  signed kept 16

/-- The timing set in force for a nominal start tick (R44): that of the TSET with the latest tick not after
it, the last in program order among equals; the default where there is none. -/
def TileRun.setAt (r : TileRun) (tick dflt : Nat) : Nat :=
  (r.tsets.foldl (fun (acc : Nat × Nat) x =>
    if x.1 ≤ tick ∧ acc.1 ≤ x.1 then x else acc) (0, dflt)).2

/-- The output instant of R33: the due stamp and the fraction. -/
def placed (base tick offs frac : Nat) (o : Int) : Int × Nat :=
  (base + 16 * tick + offs + (frac + o) / 16, unsigned ((frac + o) % 16) 4)

/-! ### Segment descriptors (R196) -/

/-- The segment that a descriptor describes. -/
def segmentOf (d : Nat) : Segment :=
  { opAddr := bits d 16 15, opWords := bits d 32 16, len := bits d 48 32, libFirst := bits d 80 14,
    libBlocks := bits d 96 15, resident := true }

/-- SEG_ID of a descriptor. -/
def segmentId (d : Nat) : Nat := bits d 0 10

/-- A descriptor field out of range, a reserved field that is not 0, or a region that overruns (R197). -/
def descriptorBad (d : Nat) : Bool :=
  let g := segmentOf d
  bits d 10 6 ≠ 0 || bit d 31 || bits d 94 2 ≠ 0 || bits d 111 145 ≠ 0
    || g.opWords = 0 || 32768 < g.opWords || g.len < 64 || 0x7FFFFFFF < g.len || 16384 < g.libBlocks
    || 32768 < g.opAddr + g.opWords || 16384 < g.libFirst + g.libBlocks

/-- A segment of a tile. -/
def State.segment (s : State) (t id : Nat) : Segment := s.program.segments.read .init (1024 * t + id)

/-- The program list of a tile (R198). -/
def State.list (s : State) (t : Nat) : List Nat := s.program.lists.read [] t

/-- The segment of a list entry: none beyond the end of the list. -/
def State.listSegment (s : State) (t entry : Nat) : Option Nat := (s.list t)[entry]?

/-- An operation word of a tile. -/
def State.opWord (s : State) (t a : Nat) : Nat := s.program.opMem.read 0 (32768 * t + a)

/-- The instances of a segment. -/
def State.segmentWords (s : State) (t : Nat) (g : Segment) : List (Nat × Nat) :=
  instancesOf (s.program.opMem.readAll 0 (32768 * t + g.opAddr) g.opWords)

end Sys2Proof.Machine
end

