-- ==== Sys2Proof/Machine/Arbiter.lean ====
section
/-! DEFINITION. The arbiters of the stream store and the pulse libraries (R230, R231, R233 to R238, R245): raised
requests, ranks and turns, grants and bursts, commits, emergency takings and the patrols. One arbiter cycle is half a
tick. -/

namespace Sys2Proof.Machine

/-- A change of the memories. -/
def State.setMemory (s : State) (x : Memory) : State := { s with memory := x }

/-! ### One arbiter (R230, R233 to R235) -/

/-- A requester asks for `n` more beats: its request stays raised until they have moved. -/
def Arbiter.ask (a : Arbiter) (q n : Nat) : Arbiter := { a with want := a.want.update 0 q fun k => k + n }

/-- Some request is raised, or a grant or a commit is under way. -/
def Arbiter.active (a : Arbiter) : Bool := !a.want.isEmpty || a.grant.isSome || a.commit || a.held ≠ 0

/-- The requester that wins an arbitration phase among `n`: of the highest rank that has a request raised, in turn from
the one after the last granted at that rank. -/
def Arbiter.winner (a : Arbiter) (n : Nat) (rank : Nat → Nat) : Option Nat :=
  let raised := (List.range n).filter fun q => a.want.read 0 q ≠ 0
  match (raised.map rank).min? with
  | none => none
  | some r =>
    let same := raised.filter fun q => rank q = r
    let next := match a.last.find r with
      | some l => same.find? fun q => l < q
      | none => none
    match next with
    | some q => some q
    | none => same.head?

/-- The beats that the grant in use moves in one cycle, `width` at most. -/
def Arbiter.moves (a : Arbiter) (width : Nat) : Nat :=
  match a.grant with
  | some (q, left) => min width (min left (a.want.read 0 q))
  | none => 0

/-- The grant after those beats: it ends where its burst has moved or its owner drops the request (R235). -/
def Arbiter.afterBeats (a : Arbiter) (width : Nat) : Arbiter :=
  match a.grant with
  | none => a
  | some (q, left) =>
    let k := a.moves width
    let want := a.want.update 0 q fun n => n - k
    { a with want, grant := if left - k = 0 || want.read 0 q = 0 then none else some (q, left - k) }

/-- The winner of a phase takes the path from the next cycle on, with its burst limit. -/
def Arbiter.give (a : Arbiter) (q rank burst : Nat) : Arbiter :=
  { a with grant := some (q, burst), last := a.last.list rank q }

/-! ### The stream store's arbiter -/

/-- The ranks and burst limits in force of the 24 requesters. -/
def State.storeRank (s : State) (q : Nat) : Nat := s.get F.storeRequester_RANK_ACTIVE q
def State.storeBurst (s : State) (q : Nat) : Nat := s.get F.storeRequester_BURST_ACTIVE q

/-- The stream store's arbiter, and a change of it. -/
def State.storeArb (s : State) : Arbiter := s.memory.storeArb
def State.setStoreArb (s : State) (a : Arbiter) : State := s.setMemory { s.memory with storeArb := a }

/-- `n` beats are asked for by requester `q` (R233). The data itself moves with the command that asks. -/
def State.moveBeats (s : State) (q n : Nat) : State := s.setStoreArb (s.storeArb.ask q n)

/-- The beats that hold `n` bytes. -/
def beatsOf (n : Nat) : Nat := (n + 63) / 64

/-- The requesters of R233. -/
def hostWriter : Nat := 16
def hostReader : Nat := 17
def captureWriter : Nat := 18
def fullingReader (e : Nat) : Nat := 19 + e % 4

/-- The store answers: it is not in self-refresh (R237). -/
def State.storeOpen (s : State) : Bool := !s.flag F.storeStatus_SELF_REFRESH

/-- Grants are made: not in self-refresh, nor before the first grant after it (R237). -/
def State.grantsOpen (s : State) : Bool := s.storeOpen && s.storeArb.openAt ≤ s.clock.now

/-- The phase of a cycle in which no grant goes on (R234). -/
def State.storePhase (s : State) : State :=
  if s.storeArb.grant.isSome || !s.grantsOpen then s
  else match s.storeArb.winner 24 s.storeRank with
    | some q => (s.count F.storeRequester_GRANTS q).setStoreArb (s.storeArb.give q (s.storeRank q) (s.storeBurst q))
    | none => s

/-- The beats of a cycle. -/
def State.storeBeats (s : State) : State :=
  match s.storeArb.grant with
  | some (q, _) => (s.count F.storeRequester_BEATS q (s.storeArb.moves 8)).setStoreArb (s.storeArb.afterBeats 8)
  | none => s

/-- The shadow ranks and bursts of all 24 requesters come into force together (R238). -/
def State.bringStore (s : State) : State :=
  let s := (List.range 24).foldl (fun s q =>
    (s.put F.storeRequester_RANK_ACTIVE q (s.get F.storeRequester_RANK q)).put F.storeRequester_BURST_ACTIVE q
      (s.get F.storeRequester_BURST q)) s
  ((s.count F.storeControl_COMMIT_COUNT 0).putFlag F.storeControl_PENDING 0 false).setStoreArb
    { s.storeArb with commit := false }

/-- One arbiter cycle: the emergency requester holds the path and the grant stands still (R236), or the grant moves its
beats and, where it ends, the cycle's phase gives the path on under the ranks in force at the cycle's start. A commit that
has become usable is in force from the next cycle on (R238). -/
def State.storeCycle (s : State) : State :=
  let a := s.storeArb
  if !a.active then s
  else
    let s := if a.held ≠ 0 then s.setStoreArb { a with held := a.held - 1 } else s.storeBeats.storePhase
    if a.commit then s.bringStore else s

/-- COMMIT of the store's arbiter (R238): a second one before the first is in force has no further effect. -/
def State.commitStore (s : State) : State :=
  (s.setStoreArb { s.storeArb with commit := true }).putFlag F.storeControl_PENDING 0 true

/-- STORE_EMERGENCY_TAKE (R236): the path is taken for at most 32 cycles, how many being free; two takings start at least
312 ticks apart, and the suspended grant resumes with the beats it has left. -/
def execStoreEmergencyTake (s : State) : Result :=
  let s := s.fresh
  let due := match s.memory.lastTake with
    | some t => decide (t + 312 ≤ s.clock.now)
    | none => true
  .next (if s.mode ≠ .reset && s.storeOpen && due then
    let (v, s) := s.free
    (s.setMemory { s.memory with lastTake := some s.clock.now }).setStoreArb
      { s.storeArb with held := v.toNat % 32 + 1 }
  else s)

/-- SCRUB_PERIOD in ticks (R244). -/
def State.scrubTicks (s : State) : Nat := s.get F.storeControl_SCRUB_PERIOD * 3600 * Config.ticksPerS

/-- SCRUB_PASS_DONE (R236): the patrol has read every beat once, a SCRUB_PERIOD after its pass began. -/
def execScrubPassDone (s : State) : Result :=
  let s := s.fresh
  .next (if s.mode ≠ .reset && s.storeOpen && s.memory.passSince + s.scrubTicks ≤ s.clock.now then
    ((s.setMemory { s.memory with passSince := s.clock.now }).count F.storeStatus_SCRUB_PASSES 0).raise 914
  else s)

/-! ### The library arbiters (R230, R231, R245) -/

/-- The default ranks of a library arbiter: the reset image of R245. -/
def libRanksDefault : Nat := Rec.libArbiter.resetImage 0

/-- The rank in force of requester `q` of a tile's library: PLAYBACK is fixed at 0. -/
def State.libRank (s : State) (t q : Nat) : Nat :=
  if q = 0 then 0 else bits (s.memory.libRanks.read libRanksDefault t) (4 * q) 4

/-- The requesters of R230. -/
def libPlayback : Nat := 0
def libRefill : Nat := 1
def libHostWrite : Nat := 2
def libReadback : Nat := 3
def libCrown : Nat := 4
def libScrub : Nat := 5

/-- The library arbiter of a tile, and a change of it. -/
def State.libArb (s : State) (t : Nat) : Arbiter := s.memory.libArbs.read .init t
def State.setLibArb (s : State) (t : Nat) (a : Arbiter) : State :=
  s.setMemory { s.memory with libArbs := s.memory.libArbs.write .init t a }

/-- `n` rows are asked for by requester `q` of a tile's library. -/
def State.askRows (s : State) (t q n : Nat) : State := s.setLibArb t ((s.libArb t).ask q n)

/-- The shadow ranks of a tile's library arbiter come into force (R245). -/
def State.bringLib (s : State) (t : Nat) : State :=
  (s.setMemory { s.memory with
    libRanks := s.memory.libRanks.write libRanksDefault t (bits (s.image .libArbiter t) 0 24) }).setLibArb t
    { s.libArb t with commit := false }

/-- One tile-island cycle of a library arbiter: the row granted before moves, and the phase grants one more row. Every
grant lasts one beat. -/
def State.libCycle (s : State) (t : Nat) : State :=
  let a := s.libArb t
  let b := a.afterBeats 1
  let next := match b.winner 6 (s.libRank t) with
    | some q => b.give q (s.libRank t q) 1
    | none => b
  let s := s.setLibArb t next
  if a.commit then s.bringLib t else s

/-- COMMIT of a library arbiter (R245), in force from the cycle after it has become usable (R238). -/
def State.commitLib (s : State) (t : Nat) : State := s.setLibArb t { s.libArb t with commit := true }

/-- A first-row read of a tile's library is requested (R231): first-row reads go before every continuing read and are
served in turn. The read is complete 8 cycles after its request, and one cycle later for each first-row read ahead of it
but one; the answer is the half tick at which it is. -/
def State.firstRow (s : State) (t : Nat) : Nat × State :=
  let ahead := (s.memory.firstReads.read [] t).filter fun g => s.half < g
  let beat := s.half + max 2 (ahead.length + 1)
  (beat + 6, (s.setMemory { s.memory with
    firstReads := s.memory.firstReads.write [] t (ahead ++ [beat]) }).askRows t libPlayback 1)

/-- The library patrol asks for one row of every tile, so that it reads every row once in a SCRUB_PERIOD (R230, R245). -/
def State.patrolLibs (s : State) : State :=
  if s.clock.now % (s.scrubTicks / 16384) = 0 && s.scrubTicks ≠ 0 then
    (List.range 16).foldl (fun s t => s.askRows t libScrub 1) s
  else s

/-- The two arbiter cycles of a tick: the store's, and those of the libraries that have something to do. -/
def State.arbitrate (s : State) : State :=
  if s.mode = .reset then s
  else
    let s := s.patrolLibs.storeCycle.storeCycle
    let busy := (s.memory.libArbs.filter fun kv => kv.2.active).map Prod.fst
    busy.foldl (fun s t => (s.libCycle t).libCycle t) s

end Sys2Proof.Machine
end

