-- ==== Sys2Proof/Machine/Time.lean ====
section
/-! DEFINITION. The time service (R306 to R319): the wall clock, acquisition, holdover, PPS, PTP, the compare
units, and the commands 0x06xx. -/

namespace Sys2Proof.Machine

/-- The sources of time (SOURCE). -/
def sourceNone : Nat := 0
def sourcePtp : Nat := 1
def sourcePps : Nat := 2
def sourceUlp : Nat := 3

/-- SOURCE in force. -/
def State.timeSource (s : State) : Nat := s.get F.timeControl_SOURCE

/-- A change of the clock. -/
def State.setClock (s : State) (c : Clock) : State := { s with clock := c }

/-- The wall clock enters holdover (R311): HOLDOVER sets, LOCKED clears, source 864 is raised and one report
of class TIME is made. A clock that is in holdover stays in it. -/
def State.holdover (s : State) : State :=
  let s := (s.putFlag F.timeStatus_LOCKED 0 false).setClock { s.clock with lockRun := 0 }
  if s.flag F.timeStatus_HOLDOVER then s
  else ((s.putFlag F.timeStatus_HOLDOVER 0 true).raise 864).report 31 false 864

/-- The one step of an acquisition (R309). -/
def State.stepClock (s : State) (ns : Nat) : State :=
  let s := s.setClock { s.clock with wallNs := BitVec.ofNat 64 ns, wallFrac := 0 }
  ((s.putFlag F.timeStatus_STEPPED 0 true).count F.timeStatus_STEP_COUNT 0).raise 866

/-- LOCKED after a measured offset (R310). -/
def State.judgeLock (s : State) (offset : Int) : State :=
  let w := s.get F.timeControl_LOCK_WINDOW
  let s := if 4 * w < offset.natAbs then s.putFlag F.timeStatus_LOCKED 0 false else s
  if offset.natAbs ≤ w then
    let s := s.setClock { s.clock with lockRun := min (s.clock.lockRun + 1) 16 }
    if s.clock.lockRun = 16 && !s.flag F.timeStatus_LOCKED then
      (s.putFlag F.timeStatus_LOCKED 0 true).raise 865
    else s
  else s.setClock { s.clock with lockRun := 0 }

/-- A measurement from the source, source less local in ns (R309 to R311): holdover ends; a clock that has
not stepped is stepped, and any other is corrected by rate. -/
def State.measured (s : State) (offset : Int) : State :=
  let s := s.put F.timeStatus_OFFSET 0 (unsigned (satSigned offset 32) 32)
  let s := s.putFlag F.timeStatus_HOLDOVER 0 false
  let s := s.judgeLock offset
  if s.flag F.timeStatus_STEPPED then
    let rate := Config.servo (signed (s.get F.timeStatus_RATE_ADJ) 32) offset
    s.put F.timeStatus_RATE_ADJ 0 (unsigned (clampInt (-2684354) 2684354 rate) 32)
  else s.stepClock (unsigned ((s.wall : Int) + offset) 64)

/-! ### Commands 0x06xx -/

/-- TIME_SET (R309). -/
def timeSetCommand (r : Request) (s : State) : Command :=
  { frame := exactly r 8, access := accessAdm r, modes := modesAll,
    refused := s.timeSource ≠ sourceNone || s.flag F.timeStatus_STEPPED,
    checks := [],
    act := fun s => .ok ((s.putFlag F.timeStatus_HOLDOVER 0 false).stepClock (r.at 0 8)) [] }

/-- TIME_SET (R309). -/
def execTimeSet (m : Fin 16) (s : State) : Result := .next (s.fresh.serve m 0x0601 timeSetCommand)

/-- TIME_OF_DAY (R315): a second one before the edge replaces the first. -/
def timeOfDayCommand (r : Request) (s : State) : Command :=
  { frame := exactly r 8, access := accessAdm r, modes := modesAll,
    refused := s.timeSource ≠ sourcePps, checks := [],
    act := fun s => .ok (s.setClock { s.clock with timeOfDay := some (BitVec.ofNat 64 (r.at 0 8)) }) [] }

/-- TIME_OF_DAY (R315). -/
def execTimeOfDay (m : Fin 16) (s : State) : Result := .next (s.fresh.serve m 0x0602 timeOfDayCommand)

/-- TIME_REARM (R309) clears STEPPED. -/
def timeRearmCommand (r : Request) (_ : State) : Command :=
  { frame := exactly r 0, access := accessAdm r, modes := modesAll, refused := false, checks := [],
    act := fun s => .ok (s.putFlag F.timeStatus_STEPPED 0 false) [] }

/-- TIME_REARM (R309). -/
def execTimeRearm (m : Fin 16) (s : State) : Result := .next (s.fresh.serve m 0x0603 timeRearmCommand)

/-- PORT_ADDRESS (R346, R355). -/
def portAddressCommand (r : Request) (_ : State) : Command :=
  { frame := exactly r 32, access := accessAdm r, modes := modesCPRS, refused := false,
    checks := [r.rsv 6 2, badAt 12 (32 < r.at 12 1), r.rsv 13 3],
    act := fun s => .ok { s with host := { s.host with portAddress := r.payload } } [] }

/-- PORT_ADDRESS (R346). -/
def execPortAddress (m : Fin 16) (s : State) : Result :=
  .next (s.fresh.serve m 0x0604 portAddressCommand)

/-- PTP_STATUS (R314): port state, steps removed, grandmaster, offset from master, mean path delay. -/
def ptpStatusPayload (s : State) : List Byte :=
  leBytes s.clock.ptpState 1 ++ zeros 1 ++ leBytes s.clock.ptpSteps 2 ++ zeros 4
    ++ leBytes ((s.clock.ptpMaster.map fun g => g.1).getD 0) 8
    ++ leBytes s.clock.ptpOffset.toNat 8 ++ leBytes s.clock.ptpPathDelay 8

/-- PTP_STATUS (R314). -/
def ptpStatusCommand (r : Request) (_ : State) : Command :=
  { frame := exactly r 0, access := accessAny, modes := modesAll, refused := false, checks := [],
    act := fun s => .ok s (ptpStatusPayload s) }

/-- PTP_STATUS (R314). -/
def execPtpStatus (m : Fin 16) (s : State) : Result := .next (s.fresh.serve m 0x0605 ptpStatusCommand)

/-! ### Compare units (R313) -/

/-- WALL_NS less TARGET, modulo 2⁶⁴ as a signed value. -/
def State.compareDiff (s : State) (u : Nat) : Int :=
  signed (unsigned ((s.wall : Int) - s.get F.compareUnit_TARGET u) 64) 64

/-- A compare unit fires (R313). -/
def State.fireCompare (s : State) (u : Nat) : State :=
  let period := s.get F.compareUnit_PERIOD u
  let k := (s.compareDiff u).toNat / period + 1
  let s' := (s.count F.compareUnit_FIRED u).raise (832 + u)
  if period = 0 then s'.putFlag F.compareUnit_ARM u false
  else (s'.put F.compareUnit_TARGET u ((s.get F.compareUnit_TARGET u + k * period) % 2 ^ 64)).count
    F.compareUnit_MISSED u (k - 1)

/-- COMPARE_FIRE (R313). -/
def execCompareFire (u : Fin 32) (s : State) : Result :=
  let s := s.fresh
  .next (if s.flag F.compareUnit_ARM u && 0 ≤ s.compareDiff u then s.fireCompare u else s)

/-! ### PPS (R311, R315) -/

/-- The offset of an edge from the nearest whole second. -/
def nearestSecond (wall : Nat) : Int :=
  ((wall + 500000000) / 1000000000 * 1000000000 : Nat) - (wall : Int)

/-- A PPS_IN edge (R315): with SOURCE PPS it acquires, or corrects, the clock. -/
def State.ppsEdge (s : State) : State :=
  let s := (s.raise 867).setClock { s.clock with ppsLast := some s.clock.now }
  if s.timeSource ≠ sourcePps then s
  else match s.clock.timeOfDay with
    | some sec =>
      (s.setClock { s.clock with timeOfDay := none }).measured
        ((sec.toNat * 1000000000 : Nat) - (s.wall : Int))
    | none => if s.flag F.timeStatus_STEPPED then s.measured (nearestSecond s.wall) else s

/-- PPS_IN_EDGE (R315). -/
def execPpsInEdge (s : State) : Result :=
  let s := s.fresh
  .next (if s.mode = .reset then s else s.ppsEdge)

/-- PPS_MISSING (R311): 1.1 s have passed since the previous edge. -/
def execPpsMissing (s : State) : Result :=
  let s := s.fresh
  .next (match s.clock.ppsLast with
    | some t =>
      if s.timeSource = sourcePps && t + 880000000 ≤ s.clock.now then
        ((s.setClock { s.clock with ppsLast := none }).raise 868).holdover
      else s
    | none => s)

/-- PPS_OUT_RISE (R315): the first tick whose WALL_NS is at or past a whole second. -/
def execPpsOutRise (s : State) : Result :=
  let s := s.fresh
  let sec := s.wall / 1000000000
  .next (if s.flag F.timeControl_PPS_OUT_EN && s.wall % 1000000000 < 2
      && s.clock.ppsOutSecond ≠ some sec then
    (s.setClock { s.clock with
      ppsOutSecond := some sec
      ppsOutUntil := some (s.clock.now + s.get F.timeControl_PPS_WIDTH * Config.ticksPerMs) }).emit
      (.ppsOut true)
  else s)

/-- PPS_OUT_FALL (R315): PPS_WIDTH ms later. -/
def execPpsOutFall (s : State) : Result :=
  let s := s.fresh
  .next (match s.clock.ppsOutUntil with
    | some t => if t ≤ s.clock.now then (s.setClock { s.clock with ppsOutUntil := none }).emit (.ppsOut false)
      else s
    | none => s)

/-! ### PTP (R311, R314) -/

/-- The 25GBASE-R port runs, and so does Jutan. -/
def State.ptpRuns (s : State) : Bool :=
  s.serves && s.flag F.ethPort_ENABLE && s.flag F.ethPort_LINK_OK

/-- The device is a PTP slave. -/
def State.ptpSlave (s : State) : Bool := !s.flag F.timeControl_PTP_ROLE

/-- The order of the best master clock algorithm over what an Announce carries here: PRIORITY1, PRIORITY2,
identity. -/
def ptpBetter (a b : Nat × Nat × Nat) : Bool :=
  a.2.1 < b.2.1 || (a.2.1 = b.2.1 && (a.2.2 < b.2.2 || (a.2.2 = b.2.2 && a.1 < b.1)))

/-- An Announce: its sender becomes the selected master where it is better, and a change of grandmaster
identity puts a clock that follows PTP into holdover (R311). -/
def State.ptpAnnounce (s : State) (g : Nat × Nat × Nat) (steps : Nat) : State :=
  let pick := s.setClock { s.clock with
    ptpMaster := some g, ptpSteps := (steps + 1) % 2 ^ 16, ptpLastAnnounce := s.clock.now }
  match s.clock.ptpMaster with
  | none => pick.setClock { pick.clock with ptpState := 8 }
  | some old =>
    if old.1 = g.1 then pick
    else if ptpBetter g old then
      let s := pick.setClock { pick.clock with ptpState := 8, ptpSyncRx := none, ptpDelayTx := none }
      if s.timeSource = sourcePtp then s.holdover else s
    else s

/-- A Sync exchange gives one offset: master origin time plus mean path delay, less the receive time. -/
def State.ptpMeasure (s : State) (t1 t2 : Nat) : State :=
  let toMaster : Int := (t1 : Int) + s.clock.ptpPathDelay - t2
  let s := s.setClock { s.clock with
    ptpSyncRx := some (t2, t1), ptpAwaitFollowUp := false, ptpState := 9,
    ptpOffset := BitVec.ofNat 64 (unsigned (-toMaster) 64) }
  if s.timeSource = sourcePtp then s.measured toMaster else s

/-- A PTP message is received (R314). -/
def State.ptpReceive (s : State) (msg : PtpMessage) : State :=
  match msg with
  | .announce g p1 p2 n =>
    if s.ptpSlave then s.ptpAnnounce (g.toNat, p1.toNat, p2.toNat) n.toNat else s
  | .sync twoStep origin =>
    if s.ptpSlave && s.clock.ptpMaster.isSome then
      if twoStep then
        s.setClock { s.clock with ptpSyncRx := some (s.wall, 0), ptpAwaitFollowUp := true }
      else s.ptpMeasure origin.toNat s.wall
    else s
  | .followUp origin =>
    match s.clock.ptpSyncRx with
    | some (t2, _) =>
      if s.ptpSlave && s.clock.ptpAwaitFollowUp then s.ptpMeasure origin.toNat t2 else s
    | none => s
  | .delayReq => if s.ptpSlave then s else s.emit (.ptpDelayResp s.wall)
  | .delayResp rx =>
    match s.clock.ptpDelayTx, s.clock.ptpSyncRx with
    | some t3, some (t2, t1) =>
      s.setClock { s.clock with
        ptpDelayTx := none
        ptpPathDelay := ((((t2 : Int) - t1) + ((rx.toNat : Int) - t3)) / 2).toNat }
    | _, _ => s

/-- PTP_MESSAGE_RX (R314). -/
def execPtpMessageRx (msg : PtpMessage) (s : State) : Result :=
  let s := s.fresh
  .next (if s.ptpRuns then s.ptpReceive msg else s)

/-- The interval of a message in ticks (R314). -/
def State.ptpInterval (s : State) (k : PtpKind) : Nat :=
  match k with
  | .announce => Config.ticksPerS * 2 ^ s.get F.timeControl_LOG_ANNOUNCE
  | .sync => Config.ticksPerS / 2 * 2 ^ (signed (s.get F.timeControl_LOG_SYNC) 3 + 1).toNat
  | .delayReq => Config.ticksPerS * 2 ^ s.get F.timeControl_LOG_DELAY_REQ

/-- The role that sends a message, and the time since the last one, allow it. -/
def State.ptpDue (s : State) (k : PtpKind) : Bool :=
  (match k with
    | .delayReq => s.ptpSlave && s.clock.ptpMaster.isSome
    | _ => !s.ptpSlave) &&
  match s.clock.ptpLastTx.find? fun x => x.1 = k with
  | some (_, t) => decide (t + s.ptpInterval k ≤ s.clock.now)
  | none => true

/-- A message leaves (R314): a two-step master follows a Sync with its origin time. -/
def State.ptpSend (s : State) (k : PtpKind) : State :=
  let s := s.setClock { s.clock with
    ptpLastTx := (k, s.clock.now) :: s.clock.ptpLastTx.filter fun x => x.1 ≠ k }
  let s := s.emit (.ptp k s.wall)
  match k with
  | .announce => s
  | .sync => if s.flag F.timeControl_PTP_TWO_STEP then s.emit (.ptpFollowUp s.wall) else s
  | .delayReq => s.setClock { s.clock with ptpDelayTx := some s.wall }

/-- PTP_MESSAGE_TX (R314). -/
def execPtpMessageTx (kind : PtpKind) (s : State) : Result :=
  let s := s.fresh
  .next (if s.ptpRuns && s.ptpDue kind then s.ptpSend kind else s)

/-- PTP_ANNOUNCE_TIMEOUT (R311). -/
def execPtpAnnounceTimeout (s : State) : Result :=
  let s := s.fresh
  let limit := s.get F.timeControl_ANNOUNCE_TIMEOUT * s.ptpInterval .announce
  .next (if s.ptpSlave && s.clock.ptpMaster.isSome && s.clock.ptpLastAnnounce + limit ≤ s.clock.now then
    let s := s.setClock { s.clock with
      ptpMaster := none, ptpState := 4, ptpSteps := 0, ptpSyncRx := none, ptpDelayTx := none }
    if s.timeSource = sourcePtp then s.holdover else s
  else s)

/-! ### Time over Uluforam (R316) -/

/-- ULP_TIME_MEASURE (R309, R316): the first valid TIME acquires; after that one measurement is taken every
2,048 superframes. -/
def execUlpTimeMeasure (s : State) : Result :=
  let s := s.fresh
  let frame := (s.port (s.get F.timeControl_TIME_PORT)).superframe
  .next (match s.clock.ulpTime with
    | some (master, here) =>
      if s.timeSource = sourceUlp
          && (!s.flag F.timeStatus_STEPPED || s.clock.ulpLastMeasure + 2048 ≤ frame) then
        (s.setClock { s.clock with ulpTime := none, ulpLastMeasure := frame }).measured
          ((master : Int) - here)
      else s
    | none => s)

end Sys2Proof.Machine
end

