-- ==== Sys2Proof/Machine/Grid.lean ====
section
/-! DEFINITION. REFCLK and the PLL (R29), SYNC and the epoch (R45 to R53), Blocking (R54 to R58, R362) and the
die links (R11, R12). -/

namespace Sys2Proof.Machine

/-! ### REFCLK and the PLL -/

/-- SCLK is lost (R29, R307): PLL_LOCK, SI_VALID and TIME_VALID clear, one report of class CLOCK is made,
the device enters SAFE with cause 0x0010, and the park ramps run on the park oscillators. -/
def State.loseClock (s : State) (detail : Nat) : State :=
  let s := s.putFlag F.gridStatus_PLL_LOCK 0 false
  let s := s.putFlag F.gridStatus_SI_VALID 0 false
  let s := s.putFlag F.timeStatus_TIME_VALID 0 false
  let s := s.setClock { s.clock with epochAt := none }
  ((s.report 27 false 0xFFF detail).enterSafe 0x0010).toParkOsc

/-- REFCLK_LOSS (R29). -/
def execRefclkLoss (s : State) : Result :=
  let s := s.fresh
  .next (if s.flag F.gridStatus_REFCLK_OK then
    let s := s.putFlag F.gridStatus_REFCLK_OK 0 false
    if s.mode = .reset then s.putFlag F.gridStatus_PLL_LOCK 0 false else s.loseClock 1
  else s)

/-- REFCLK_PRESENT (R29): REFCLK_OK follows the presence of REFCLK alone. -/
def execRefclkPresent (s : State) : Result := .next (s.fresh.putFlag F.gridStatus_REFCLK_OK 0 true)

/-- SI is set back: no released sample or arrival of before stands in the new count. -/
def State.forgetSamples (s : State) : State := { s with drive := { s.drive with released := [], arrived := [] } }

/-- The PLL locks (R30, R307): SI counts from 0, and the wall clock starts at 0, or counts on in holdover with
STEPPED clear after a relock. -/
def State.lockPll (s : State) : State :=
  let s := s.putFlag F.gridStatus_PLL_LOCK 0 true
  let s := s.putFlag F.timeStatus_TIME_VALID 0 true
  let s := s.forgetSamples
  if s.clock.wallStarted then
    ((s.setClock { s.clock with si := 0 }).putFlag F.timeStatus_STEPPED 0 false).holdover
  else s.setClock { s.clock with si := 0, wallNs := 0, wallFrac := 0, wallStarted := true }

/-- PLL_LOCK (R29). -/
def execPllLock (s : State) : Result :=
  let s := s.fresh
  .next (if s.flag F.gridStatus_REFCLK_OK && !s.flag F.gridStatus_PLL_LOCK && s.mode ≠ .reset then s.lockPll
    else s)

/-- PLL_LOCK_LOSS (R29). -/
def execPllLockLoss (s : State) : Result :=
  let s := s.fresh
  .next (if s.flag F.gridStatus_PLL_LOCK then s.loseClock 0 else s)

/-! ### SYNC -/

/-- SYNC_ARM (R46, R49, R50): byte 0 arms or disarms; the response tells whether an edge was accepted. -/
def syncArmCommand (r : Request) (_ : State) : Command :=
  { frame := exactly r 4, access := accessAdm r, modes := modesCP, refused := false,
    checks := [badAt 0 (1 < r.at 0 1), r.rsv 1 3],
    act := fun s =>
      let s := if r.at 0 1 = 1 then
          ((s.putFlag F.gridStatus_SYNC_ARMED 0 true).putFlag F.gridStatus_SYNC_MARGIN_LOW 0 false).setClock
            { s.clock with edgeAccepted := false }
        else s.putFlag F.gridStatus_SYNC_ARMED 0 false
      .ok s (leBytes (if s.clock.edgeAccepted then 1 else 0) 1 ++ zeros 1
        ++ leBytes (s.get F.syncControl_SYNC_PHASE) 2) }

/-- SYNC_ARM (R46). -/
def execSyncArm (m : Fin 16) (s : State) : Result := .next (s.fresh.serve m 0x0106 syncArmCommand)

/-- The SI of the next REFCLK edge: REFCLK periods begin at multiples of 128 samples (R28, R48). -/
def State.nextRefclk (s : State) : Nat := (s.si + 127) / 128 * 128

/-- The tick of that edge. -/
def State.refclkTick (s : State) : Nat := s.clock.now + (s.nextRefclk - s.si) / 16

/-- One SYNC_OUT pulse of 4 REFCLK periods, which leaves on the next REFCLK rising edge (R51). -/
def State.syncPulse (s : State) : State :=
  (s.setClock { s.clock with syncOutUntil := some (s.refclkTick + 32) }).emit (.syncOut true s.refclkTick)

/-- SYNC_PULSE (R51). -/
def syncPulseCommand (r : Request) (s : State) : Command :=
  { frame := exactly r 0, access := accessAdm r, modes := modesCP,
    refused := s.get F.syncControl_SYNC_OUT_MODE ≠ 1, checks := [],
    act := fun s => .ok s.syncPulse (leBytes s.nextRefclk 8) }

/-- SYNC_PULSE (R51). -/
def execSyncPulse (m : Fin 16) (s : State) : Result := .next (s.fresh.serve m 0x0107 syncPulseCommand)

/-- SYNC_OUT_TRAINING_PULSE (R51): every 1,024 REFCLK periods in TRAINING. -/
def execSyncOutTrainingPulse (s : State) : Result :=
  let s := s.fresh
  let due := match s.clock.lastTraining with
    | some t => decide (t + 8192 ≤ s.refclkTick)
    | none => true
  .next (if s.get F.syncControl_SYNC_OUT_MODE = 2 && s.flag F.gridStatus_PLL_LOCK && due then
    (s.setClock { s.clock with lastTraining := some s.refclkTick }).syncPulse
  else s)

/-- SYNC_OUT_PULSE_END (R51). -/
def execSyncOutPulseEnd (s : State) : Result :=
  let s := s.fresh
  .next (match s.clock.syncOutUntil with
    | some t => if t ≤ s.clock.now then (s.setClock { s.clock with syncOutUntil := none }).emit (.syncOut false t)
      else s
    | none => s)

/-- SYNC_OUT_MODE OFF drives SYNC_OUT low, in the middle of a pulse too (R51). -/
def State.syncOff (s : State) : State :=
  if s.get F.syncControl_SYNC_OUT_MODE = 0 && s.clock.syncOutUntil.isSome then
    (s.setClock { s.clock with syncOutUntil := none }).emit (.syncOut false s.clock.now)
  else s

/-- φ below 1.0 ns or above 9.0 ns, in steps of 9.765625 ps (R49). -/
def marginLow (phi : Nat) : Bool := phi * 9765625 < 1000000000 || 9000000000 < phi * 9765625

/-- An accepted edge (R46, R48, R49): SYNC disarms, and the epoch comes 2 REFCLK periods later, moved by
EPOCH_ADJ. DESIGN CHOICE (log 90): SYNC_ACCEPT_COUNT stays at its largest value; R53 does not say that it saturates. -/
def State.acceptSync (s : State) (phi : Nat) : State :=
  let adj := signed (s.get F.syncControl_EPOCH_ADJ) 3
  let s := s.putFlag F.gridStatus_SYNC_ARMED 0 false
  let s := (s.count F.gridStatus_SYNC_ACCEPT_COUNT 0).setClock { s.clock with
    edgeAccepted := true, epochAt := some ((s.clock.now : Int) + 16 + 8 * adj).toNat }
  let s := s.raise 1136
  if marginLow phi then ((s.putFlag F.gridStatus_SYNC_MARGIN_LOW 0 true).raise 1138).report 28 false 1138 phi
  else s

/-- An ignored edge (R46, R47). -/
def State.ignoreSync (s : State) : State :=
  ((s.count F.gridStatus_SYNC_EXTRA_COUNT 0).raise 1137).report 28 false 1137

/-- SYNC_EDGE (R45 to R50): the time-to-digital converter measures every edge. -/
def execSyncEdge (phi : Fin 1024) (s : State) : Result :=
  let s := s.fresh
  .next (if s.mode = .reset then s
    else
      let s := s.put F.syncControl_SYNC_PHASE 0 phi
      if s.flag F.gridStatus_SYNC_ARMED then s.acceptSync phi else s.ignoreSync)

/-- SI_EPOCH (R48): SI is 0 at the sample that the accepted edge set, and SI_VALID sets. -/
def execSiEpoch (s : State) : Result :=
  let s := s.fresh
  .next (match s.clock.epochAt with
    | some t =>
      if t ≤ s.clock.now then
        ((s.setClock { s.clock with epochAt := none, si := BitVec.ofNat 64 (16 * (s.clock.now - t)) }).putFlag
          F.gridStatus_SI_VALID 0 true).forgetSamples
      else s
    | none => s)

/-! ### Blocking -/

/-- The number of trims of a group (R54, R362). -/
def trimCount (g : Nat) : Nat := if g < 16 then 5 else if g < 32 then 48 else if g < 48 then 8 else 1

/-- The number of taps of a trim (R54). -/
def tapCount (g trim : Nat) : Nat := if 16 ≤ g && g < 32 && trim % 3 = 0 then 128 else 256

/-- The key of a trim. -/
def trimKey (g trim : Nat) : Nat := 64 * g + trim

/-- The reset tap. R53 gives the middle of the range for SYNC_CAPTURE. DESIGN CHOICE: the others, which the
manual does not give, take the middle of theirs too. -/
def tapReset (g trim : Nat) : Nat := tapCount g trim / 2

/-- The tap in force of a trim. -/
def State.tap (s : State) (g trim : Nat) : Nat := s.blocking.taps.read (tapReset g trim) (trimKey g trim)

/-- The written target of a trim, 0xFFFF for none (R55). -/
def State.tapTarget (s : State) (g trim : Nat) : Nat := s.blocking.targets.read 0xFFFF (trimKey g trim)

/-- A change of Blocking. -/
def State.setBlocking (s : State) (b : Blocking) : State := { s with blocking := b }

/-- The tile of a group: none for SYNC_CAPTURE. -/
def groupTile (g : Nat) : Option Nat := if g < 48 then some (g % 16) else none

/-- Blocking runs (R56): in CALIBRATE once the monitor calibration has ended (R401). -/
def State.blockingRuns (s : State) : Bool :=
  s.mode = .parked || s.mode = .run || s.mode = .survey
    || (s.mode = .calibrate && s.crown.calEnded.isSome)

/-- The interval of a group in ticks (R56). -/
def State.stepInterval (s : State) (g : Nat) : Nat :=
  if s.mode = .calibrate then s.get F.blockControl_CAL_INTERVAL * Config.ticksPerUs
  else s.get F.blockGroup_STEP_INTERVAL g * 100 * Config.ticksPerUs

/-- The interval since the group's last step has passed; the trims of a group step in one tick, each of them once
(R55, R56). -/
def State.intervalPassed (s : State) (g trim : Nat) : Bool :=
  match s.blocking.lastStep.find g with
  | none => true
  | some t => t + s.stepInterval g ≤ s.clock.now
      || (t = s.clock.now && s.blocking.trimStep.find (trimKey g trim) ≠ some s.clock.now)

/-- Throttle step 1 defers the steps of every group but SYNC_CAPTURE (R57, R377); a tile in an active run
takes the step at its shot boundary. -/
def State.calDeferred (s : State) (g : Nat) : Bool :=
  match groupTile g with
  | none => false
  | some t => if s.inRun t then s.blocking.deferred.read false t
      else 1 ≤ s.get F.powerStatus_THROTTLE_STEP

/-- The first shot of the tile's run has begun: from that shot boundary on its groups step at shot boundaries alone
(R56). -/
def State.inShots (s : State) (t : Nat) : Bool :=
  match (s.tile t).group with
  | some g => (s.group g).started
  | none => false

/-- A step of a trim may be made now (R56, R57): a group whose tile is in an active run steps each trim at
most once, in the tick of its shot boundary. -/
def State.stepNow (s : State) (g trim : Nat) : Bool :=
  s.blockingRuns && s.intervalPassed g trim && !s.calDeferred g &&
  match groupTile g with
  | none => true
  | some t =>
    let r := s.tile t
    if s.inShots t then
      r.inShot && s.si = r.base && s.blocking.stepBase.find (trimKey g trim) ≠ some r.base
    else true

/-- The largest measured error of a group in whole taps (R58). DESIGN CHOICE (log 89): a part of a tap is dropped; the
rule states no rounding. -/
def State.worstError (s : State) (g : Nat) : Nat :=
  min 255 ((List.range (trimCount g)).foldl
    (fun w i => max w (s.blocking.errors.read 0 (trimKey g i)).natAbs) 0 / 256)

/-- Every trim of a group has been measured and lies within `limit`, in 1/256 tap. -/
def State.trimsWithin (s : State) (g limit : Nat) : Bool :=
  (List.range (trimCount g)).all fun i => match s.blocking.errors.find (trimKey g i) with
    | some e => e.natAbs ≤ limit
    | none => false

/-- A trim of the group is stepping or has a step pending. -/
def State.groupActive (s : State) (g : Nat) : Bool :=
  (List.range (trimCount g)).any fun i =>
    s.blocking.stepping.read false (trimKey g i) || s.tapTarget g i ≠ 0xFFFF && s.tapTarget g i ≠ s.tap g i

/-- A group completes a calibration (R58). -/
def State.completeGroup (s : State) (g : Nat) : State :=
  let s := (s.count F.blockGroup_CAL_COUNT g).put F.blockGroup_LAST_CAL_TIME g s.wall
  s.setBlocking { s.blocking with
    stepped := s.blocking.stepped.write false g false
    calDone := if s.mode = .calibrate then s.blocking.calDone ++ [g] else s.blocking.calDone }

/-- A measured error of a trim, in 1/256 tap, and the stepping state of R55 that follows from it. DESIGN CHOICE
(log 92): a measurement under HOLD ends the stepping, which after HOLD begins again with an error above 0.75 tap; R55
does not say. -/
def State.measureTrim (s : State) (g trim : Nat) (err : Int) : State :=
  let k := trimKey g trim
  let was := s.blocking.stepping.read false k
  let now := if was then decide (128 < err.natAbs) else decide (192 < err.natAbs)
  let s := s.setBlocking { s.blocking with
    errors := s.blocking.errors.list k err
    stepping := s.blocking.stepping.write false k (now && !s.flag F.blockGroup_HOLD g) }
  (s.put F.blockGroup_WORST_ERROR g (s.worstError g)).putFlag F.blockGroup_ACTIVE g (s.groupActive g)

/-- One tap up or down, within the trim's range. -/
def nudge (tap : Nat) (up : Bool) (taps : Nat) : Nat :=
  if up then min (tap + 1) (taps - 1) else tap - 1

/-- The tap moves by one (R55), and the step is noted. -/
def State.moveTap (s : State) (g trim : Nat) (up : Bool) : State :=
  let k := trimKey g trim
  s.setBlocking { s.blocking with
    taps := s.blocking.taps.write (tapReset g trim) k (nudge (s.tap g trim) up (tapCount g trim))
    stepped := s.blocking.stepped.write false g true
    lastStep := s.blocking.lastStep.list g s.clock.now
    trimStep := s.blocking.trimStep.list k s.clock.now
    stepBase := match groupTile g with
      | some t => if s.inRun t then s.blocking.stepBase.list k (s.tile t).base else s.blocking.stepBase
      | none => s.blocking.stepBase }

/-- A trim that stands at its written target has none any more (R55). -/
def State.reachTarget (s : State) (g trim : Nat) : State :=
  if s.tapTarget g trim = s.tap g trim then
    s.setBlocking { s.blocking with targets := s.blocking.targets.drop (trimKey g trim) }
  else s

/-- A step toward the written target until the trim stands there, or toward the measured error (R55). A positive error is
one that a larger tap removes. -/
def State.stepTrim (s : State) (g trim : Nat) : State :=
  let k := trimKey g trim
  let target := s.tapTarget g trim
  if target ≠ 0xFFFF then
    (if target = s.tap g trim then s else s.moveTap g trim (s.tap g trim < target)).reachTarget g trim
  else if s.blocking.stepping.read false k then
    let err := s.blocking.errors.read 0 k
    let left := if 0 < err then err - 256 else err + 256
    (s.moveTap g trim (0 < err)).measureTrim g trim left
  else s

/-- A calibration is complete when all trims are within the stop limit after at least one step (R58). -/
def State.judgeGroup (s : State) (g : Nat) : State :=
  if s.blocking.stepped.read false g && s.trimsWithin g 128 then s.completeGroup g else s

/-- BLOCKING_STEP (R55 to R58): a measured error of a trim, and the step that is due now. -/
def execBlockingStep (g : Fin 49) (trim : Fin 48) (err : Int) (s : State) : Result :=
  let s := s.fresh
  .next (if s.blockingRuns && trim < trimCount g then
    let s := (s.measureTrim g trim err).judgeGroup g
    let s := if s.stepNow g trim then (s.stepTrim g trim).judgeGroup g else s
    s.putFlag F.blockGroup_ACTIVE g (s.groupActive g)
  else s)

/-- FIRST_FULL_MEASUREMENT (R58): in CALIBRATE, a group whose every trim is within the start limit completes
at once. -/
def execFirstFullMeasurement (g : Fin 49) (errs : List Int) (s : State) : Result :=
  let s := s.fresh
  .next (if s.mode = .calibrate && s.blockingRuns && errs.length = trimCount g
      && !s.blocking.calDone.contains g.val then
    let s := errs.zipIdx.foldl (fun s e => s.measureTrim g e.2 e.1) s
    if s.trimsWithin g 192 then s.completeGroup g else s
  else s)

/-- A Blocking group belongs to the owner of its tile; group 48 needs adm (R362). -/
def groupAccess (r : Request) (s : State) (g : Nat) : Option (Status × Nat) :=
  if g = 48 then accessAdm r
  else accessIf (48 < g || r.adm || s.owns r (g % 16))

/-- BLOCK_TAPS (R362). -/
def blockTapsCommand (r : Request) (s : State) : Command :=
  let g := r.at 0 1
  { frame := exactly r 4, access := groupAccess r s g, modes := modesAll, refused := false,
    checks := [badAt 0 (48 < g), r.rsv 1 3],
    act := fun s => .ok s (leBytes (trimCount g) 2 ++ zeros 2 ++
      (List.range (trimCount g)).flatMap fun i => leBytes (s.tap g i) 2 ++ leBytes (s.tapTarget g i) 2) }

/-- BLOCK_TAPS (R362). -/
def execBlockTaps (m : Fin 16) (s : State) : Result := .next (s.fresh.serve m 0x0901 blockTapsCommand)

/-- BLOCK_TARGET (R55, R362). -/
def blockTargetCommand (r : Request) (s : State) : Command :=
  let g := r.at 0 1
  let trim := r.at 1 1
  let v := r.at 2 2
  { frame := exactly r 4, access := groupAccess r s g, modes := modesCPRS,
    refused := g ≤ 48 && !s.flag F.blockGroup_HOLD g,
    checks := [badAt 0 (48 < g), badAt 1 (trimCount g ≤ trim),
      badAt 2 (v ≠ 0xFFFF && tapCount g trim ≤ v)],
    act := fun s =>
      let s := s.setBlocking { s.blocking with
        targets := s.blocking.targets.write 0xFFFF (trimKey g trim) v }
      .ok (s.putFlag F.blockGroup_ACTIVE g (s.groupActive g)) [] }

/-- BLOCK_TARGET (R55). -/
def execBlockTarget (m : Fin 16) (s : State) : Result := .next (s.fresh.serve m 0x0902 blockTargetCommand)

/-! ### Die links (R11, R12) -/

/-- FLIT_CRC_FAIL (R11): the replay succeeds, one transient fault of class DIE_LINK_CRC. -/
def execFlitCrcFail (k : Fin 4) (s : State) : Result :=
  let s := s.fresh
  .next (if s.mode = .reset || s.crown.retraining.contains k.val then s else s.report 7 false 0xFFF k)

/-- The tiles that a converter die serves (R8). -/
def tilesOfDie (k : Nat) : List Nat := [4 * k, 4 * k + 1, 4 * k + 2, 4 * k + 3]

/-- FLIT_REPLAY_FAIL (R12, R25): a lasting fault of the flit; the module is retrained, and every tile of the die voids its shot and waits at
the next shot boundary. -/
def execFlitReplayFail (k : Fin 4) (s : State) : Result :=
  let s := s.fresh
  .next (if s.mode = .reset || s.crown.retraining.contains k.val then s
    else
      let s := s.report 7 true 0xFFF k
      let s := { s with crown := { s.crown with retraining := s.crown.retraining ++ [k.val] } }
      (tilesOfDie k).foldl (fun s t => if (s.tile t).inShot then s.voidShot t else s) s)

/-- MIN_MARGIN of a tile after a sample with a margin of `ticks` (R40). DESIGN CHOICE (log 91): of two channels that
show the same smallest margin MIN_MARGIN_CH names the one that showed it first; the rule names neither. -/
def State.noteMargin (s : State) (t ch : Nat) (ticks : Nat) : State :=
  let m := min 255 (max 1 ticks)
  if m < s.get F.lateStatus_MIN_MARGIN t then
    (s.put F.lateStatus_MIN_MARGIN t m).put F.lateStatus_MIN_MARGIN_CH t ch
  else s

/-- The die link of a tile carries data: its module is trained (R12). -/
def State.linkTrained (s : State) (t : Nat) : Bool :=
  !s.crown.retraining.contains (t / 4) && !s.crown.linksDown.contains (t / 4)

/-- What leaves a tile at SI `at_` reaches an island after its transit, and no earlier than what left before it: a
crossing never reorders (R15). `key` is that of `arrived`; none while the die link is being retrained. -/
def State.cross (s : State) (t key at_ transit : Nat) : Option Nat × State :=
  if s.linkTrained t then
    let v := max (at_ + 16 * transit) (s.drive.arrived.read 0 key)
    (some v, { s with drive := { s.drive with arrived := s.drive.arrived.write 0 key v } })
  else (none, s)

/-- The margin of a sample that is usable in time (R35, R40). -/
def State.noteArrival (s : State) (t ch due : Nat) (usable : Option Nat) : State :=
  match usable with
  | some v => if v + 128 ≤ due then s.noteMargin t ch ((due - 128 - v) / 16) else s
  | none => s

/-- The bursts in transit to a tone become usable, each with its margin (R40). -/
def State.landTone (s : State) (t : Nat) (probe : Bool) (u : Nat) : State :=
  let k := toneKey t probe u
  let x := s.tone k
  let s := s.setTone k { x with bursts := x.bursts.map fun b => { b with usable := some (b.usable.getD s.si) } }
  (x.bursts.filter fun b => b.usable.isNone).foldl (fun s b => s.noteArrival t (toneLocal probe u) b.due (some s.si)) s

/-- The operations in transit to a bias channel become usable, each with its margin (R40). -/
def State.landOps (s : State) (n : Nat) : State :=
  let b := s.biasOf n
  let s := s.setBias n { b with ops := b.ops.map fun o => { o with usable := some (o.usable.getD (max s.si o.issued)) } }
  (b.ops.filter fun o => o.usable.isNone).foldl (fun s o => s.noteArrival (n / 8) (6 + n % 8) o.due
    (some (max s.si o.issued))) s

/-- What was in transit to a tile's islands becomes usable as its module is trained again. -/
def State.landTransit (s : State) (t : Nat) : State :=
  let s := (List.range 16).foldl (fun s u => (s.landTone t false u).landTone t true u) s
  (biasOfTile t).foldl State.landOps s

/-- DIE_LINK_RETRAIN_DONE (R12): trained, or SAFE with cause 0x0012. One report of class DIE_LINK_RETRAIN tells
how the retraining ended. -/
def execDieLinkRetrainDone (k : Fin 4) (ok : Bool) (s : State) : Result :=
  let s := s.fresh
  .next (if s.crown.retraining.contains k.val || s.crown.linksDown.contains k.val then
    let s := { s with crown := { s.crown with
      retraining := s.crown.retraining.filter (· ≠ k.val)
      linksDown := s.crown.linksDown.filter (· ≠ k.val) } }
    if ok then (tilesOfDie k).foldl State.landTransit (s.report 8 false 0xFFF k)
    else
      ({ s with crown := { s.crown with linksDown := s.crown.linksDown ++ [k.val] } } : State).report 8 true
        0xFFF k |>.enterSafe 0x0012
  else s)

end Sys2Proof.Machine
end

