-- ==== Sys2Proof/Machine/Drive.lean ====
section
/-! DEFINITION. XY and probe synthesis (R59 to R86, R110): oscillators and phase frames, the envelope path,
bursts, and the power mute. -/

namespace Sys2Proof.Machine

/-! ### Bands (R60, R61, R110) -/

/-- FTW of a frequency in units of 0.1 GHz, rounded up: 2⁴⁸ ÷ 128 each. -/
def ftwOf (tenths : Nat) : Nat := tenths * 2 ^ 48 / 128

/-- A frequency word lies in the band of an XY channel's mode, or of a probe tone. -/
def inBand (probe mix : Bool) (ftw : Nat) : Bool :=
  if probe then ftwOf 66 ≤ ftw && ftw ≤ ftwOf 100
  else if mix then ftwOf 68 ≤ ftw && ftw ≤ ftwOf 110
  else ftwOf 5 ≤ ftw && ftw ≤ ftwOf 62

/-- The tone record field of a drive or probe tone: the two maps are one (R84, R129). -/
def toneField (probe : Bool) (drive probeF : Field) : Field := if probe then probeF else drive

/-- FTW, FRAME, ENABLE and FREQ_MODE of a tone as they govern the shot that its tile works on. -/
def State.toneFtw (s : State) (t : Nat) (probe : Bool) (u : Nat) : Nat :=
  s.get (toneField probe F.driveTone_FTW F.probeTone_FTW) (16 * t + u)
def State.toneFrame (s : State) (t : Nat) (probe : Bool) (u : Nat) : Nat :=
  s.get (toneField probe F.driveTone_FRAME F.probeTone_FRAME) (16 * t + u)
def State.toneEnabled (s : State) (t : Nat) (probe : Bool) (u : Nat) : Bool :=
  s.flag (toneField probe F.driveTone_ENABLE F.probeTone_ENABLE) (16 * t + u)
def State.toneAbsolute (s : State) (t : Nat) (probe : Bool) (u : Nat) : Bool :=
  s.getFor t (toneField probe F.driveTone_FREQ_MODE F.probeTone_FREQ_MODE) (16 * t + u) = 1

/-- The channel of a drive tone is in MIX mode. -/
def State.mixMode (s : State) (t u : Nat) : Bool := s.flag F.xyConfig_MODE (4 * t + u / 4)

/-! ### Oscillators and frames (R62 to R66) -/

/-- The accumulator of a segment of phase at a sample index. -/
def PhaseSeg.accAt (p : PhaseSeg) (si : Nat) : Nat := (p.acc + p.ftw * (si - p.start)) % 2 ^ 48

/-- The accumulator one sample before it holds `acc`, at a frequency word. -/
def accBefore (acc ftw : Nat) : Nat := (acc + 2 ^ 48 - ftw % 2 ^ 48) % 2 ^ 48

/-- The segment of phase in force at a sample index; before the first shot, the accumulator is FTW × SI. -/
def Tone.segAt (x : Tone) (ftw frame si : Nat) : PhaseSeg :=
  match x.segs.reverse.find? fun p => p.start ≤ si with
  | some p => p
  | none => { start := 0, before := accBefore 0 ftw, acc := 0, ftw, frame }

/-- The carrier phase P of a tone at a sample index, in units of 2π ÷ 2⁴⁸ (R62). -/
def State.phase (s : State) (t : Nat) (probe : Bool) (u si : Nat) : Nat :=
  let p := (s.tone (toneKey t probe u)).segAt (s.toneFtw t probe u) (s.toneFrame t probe u) si
  (p.accAt si + p.frame * 2 ^ 16) % 2 ^ 48

/-- The segments that samples still to be released, or delayed by a matrix row (R74), can need. -/
def keepSegs (si : Nat) (l : List PhaseSeg) : List PhaseSeg :=
  let recent := l.filter fun p => si < p.start + 64
  match (l.filter fun p => p.start + 64 ≤ si).reverse with
  | [] => recent
  | p :: _ => p :: recent

/-- A tone takes a new segment of phase from a sample on. -/
def State.addSeg (s : State) (k : Nat) (p : PhaseSeg) : State :=
  let x := s.tone k
  s.setTone k { x with segs := keepSegs s.si x.segs ++ [p] }

/-- The shot-start state of a tone (R63): record FTW and FRAME, accumulator FTW × SI at the base. An update of an
earlier shot that has not acted is dropped. DEDUCED (log 101): a CONTINUOUS change at the base itself goes on from
FTW × (SI − 1), the accumulator of the shot-start state at the sample before. -/
def State.startTone (s : State) (t : Nat) (probe : Bool) (u base : Nat) : State :=
  let ftw := s.toneFtw t probe u
  let k := toneKey t probe u
  let acc := ftw * base % 2 ^ 48
  let s := s.addSeg k { start := base, before := accBefore acc ftw, acc, ftw, frame := s.toneFrame t probe u }
  s.setTone k { s.tone k with updates := (s.tone k).updates.filter fun x => x.base = base }

/-- The accumulator at the sample before `si`: where the segment begins at `si`, the one that it went on from. -/
def PhaseSeg.lastAcc (p : PhaseSeg) (si : Nat) : Nat := if p.start < si then p.accAt (si - 1) else p.before

/-- The phase that follows from a FRAME update at sample `si` (R64, R65, R184). Of several updates at one sample the
frames add, and a frequency goes on from the sample before all of them (R66). -/
def PhaseSeg.update (p : PhaseSeg) (x : FrameUpdate) : PhaseSeg :=
  let si := x.due
  let before := p.lastAcc si
  let add := if x.setFreq then bits x.ext 48 16 * 2 ^ 16 else bits x.ext 0 32
  let frame := if x.setFrame then add % 2 ^ 32 else (p.frame + add) % 2 ^ 32
  if x.setFreq then
    let ftw := bits x.ext 0 48
    let acc := if x.absolute then ftw * si % 2 ^ 48 else (before + ftw) % 2 ^ 48
    { start := si, before, acc, ftw, frame }
  else { start := si, before, acc := p.accAt si, ftw := p.ftw, frame }

/-- A FRAME update that would take an enabled tone out of its band is not applied: FREQ_RANGE is raised and
the shot voided (R61). -/
def State.freqRange (s : State) (t : Nat) : State :=
  ((s.raise (seqSource t 2)).report 19 false (seqSource t 2) t).voidShot t

/-- The update at the front of a tone's list acts (R64 to R66). -/
def State.applyFrame (s : State) (t : Nat) (probe : Bool) (u : Nat) (x : FrameUpdate) : State :=
  let k := toneKey t probe u
  let tone := s.tone k
  let p := tone.segAt (s.toneFtw t probe u) (s.toneFrame t probe u) x.due
  let s := s.setTone k { tone with updates := tone.updates.drop 1 }
  if x.setFreq && s.toneEnabled t probe u && !inBand probe (s.mixMode t u) (bits x.ext 0 48) then
    s.freqRange t
  else s.addSeg k (p.update x)

/-- FRAME_UPDATE_APPLY (R64): the earliest update whose stamp lies in the present word or before it. -/
def execFrameUpdateApply (t : Fin 16) (probe : Bool) (u : Fin 16) (s : State) : Result :=
  let s := s.fresh
  .next (match (s.tone (toneKey t probe u)).updates with
    | x :: _ => if x.due < s.si + 16 then s.applyFrame t probe u x else s
    | [] => s)

/-- An update joins its tone's list, in order of stamps, behind those of the same sample (R66). -/
def insertUpdate (x : FrameUpdate) : List FrameUpdate → List FrameUpdate
  | [] => [x]
  | y :: r => if x.due < y.due then x :: y :: r else y :: insertUpdate x r

/-! ### The envelope path (R68, R69, R183) -/

/-- The library sample that sample `k` of a pulse of length D plays from L stored ones (R183). -/
def pulseIndex (l d k : Nat) : Nat :=
  let h := (l + 1) / 2
  if d ≤ l then k
  else if k < h then k
  else if k < h + (d - l) then h - 1
  else k - (d - l)

/-- An envelope sample of a tile's library: real part in the low half (R68). -/
def State.libSample (s : State) (t a : Nat) : Int × Int :=
  let byte := fun i => (s.memory.lib.read 0 (2 ^ 22 * t + (4 * a + i) % 2 ^ 22)).toNat
  (signed (byte 0 + 256 * byte 1) 16, signed (byte 2 + 256 * byte 3) 16)

/-- Saturation of a complex sample to 16 bits a component, and whether it saturated. -/
def sat16 (z : Int × Int) : (Int × Int) × Bool :=
  let r := (satSigned z.1 16, satSigned z.2 16)
  (r, r ≠ z)

/-- A quotient as the hardware rounds it: exact where it is whole, one of its two neighbours otherwise. -/
def roundFree (num : Int) (den : Nat) : Int :=
  num / den + (if num % den ≠ 0 && Config.roundUp num den then 1 else 0)

/-- The unit vector at `num ÷ den` of a turn in units of 2⁻³⁰: exact at a quarter turn (R62, R68). -/
def turn (num den : Nat) : Int × Int :=
  if 4 * num % den = 0 then
    match 4 * num / den % 4 with
    | 0 => (2 ^ 30, 0)
    | 1 => (0, 2 ^ 30)
    | 2 => (-(2 ^ 30), 0)
    | _ => (0, -(2 ^ 30))
  else Config.phasor num den

/-- The product of two complex values. -/
def cmul (a b : Int × Int) : Int × Int := (a.1 * b.1 - a.2 * b.2, a.1 * b.2 + a.2 * b.1)

/-- An envelope sample rotated by `num ÷ den` of a turn, before saturation (R68). -/
def rotate (z : Int × Int) (num den : Nat) : Int × Int :=
  let p := cmul z (turn num den)
  (roundFree p.1 (2 ^ 30), roundFree p.2 (2 ^ 30))

/-- The turns that a frequency offset in units of 0.1 Hz makes in `k` envelope samples of 2.5 ns, in units of
1 ÷ (4 × 10⁹) (R68): none at the pulse's first sample. -/
def offsetTurn (fofs : Int) (k : Nat) : Nat := unsignedMod (fofs * k) 4000000000

/-- Sample `k` of a pulse after amplitude, phase and frequency offset (R68), and whether it saturated. -/
def State.pulseSample (s : State) (t : Nat) (p : Pulse) (k : Nat) : (Int × Int) × Bool :=
  let e := s.libSample t (p.libPtr + pulseIndex p.libLen p.length k)
  let amp := signed p.amp 16
  let a := sat16 (roundFree (e.1 * amp) (2 ^ 15), roundFree (e.2 * amp) (2 ^ 15))
  let b := sat16 (rotate a.1 p.phase (2 ^ 16))
  let c := sat16 (rotate b.1 (offsetTurn p.fofs k) 4000000000)
  (c.1, a.2 || b.2 || c.2)

/-- A pulse plays grid sample `m`. -/
def Pulse.playsAt (p : Pulse) (m : Nat) : Bool := p.start ≤ m && m < p.start + p.length

/-- The sum of the pulses of a grid at a grid sample (R69), saturated once, and whether any component saturated. -/
def State.gridSample (s : State) (t : Nat) (units : List Pulse) (m : Nat) : (Int × Int) × Bool :=
  let made := (units.filter fun p => p.playsAt m).map fun p => s.pulseSample t p (m - p.start)
  let y := sat16 ((made.map fun x => x.1.1).sum, (made.map fun x => x.1.2).sum)
  (y.1, y.2 || made.any Prod.snd)

/-- Where sample 0 of a grid and the sample after its last one stand, in sixteenths of an SCLK sample. -/
def Grid.at16 (g : Grid) : Nat := 16 * g.origin + g.frac
def Grid.end16 (g : Grid) : Nat := g.at16 + 512 * g.stop

/-- A grid joins a tone's list, in order of time. -/
def insertGrid (g : Grid) : List Grid → List Grid
  | [] => [g]
  | h :: r => if g.at16 < h.at16 then g :: h :: r else h :: insertGrid g r

/-- A pulse takes its place on a tone (R69): on a grid on which a pulse still plays at its placed instant, at the grid
sample at or after that instant, fractions included; and on a grid of its own otherwise. DESIGN CHOICE (log 100): a
sample of that grid that has already been issued is issued again with the pulse in it. -/
def Tone.join (x : Tone) (p : Pulse) : Tone :=
  match x.grids.reverse.find? fun g => g.at16 ≤ p.placed && p.placed < g.end16 with
  | some g =>
    let m := (p.placed - g.at16 + 511) / 512
    { x with
      units := x.units ++ [{ p with grid := g.at16, start := m }]
      grids := x.grids.map fun h => if h.at16 = g.at16 then
        { h with stop := max h.stop (m + p.length), next := min h.next m } else h }
  | none =>
    { x with
      units := x.units ++ [{ p with grid := p.placed, start := 0 }]
      grids := insertGrid { origin := p.placed / 16, frac := p.placed % 16, next := 0, stop := p.length } x.grids }

/-- Pulses in order of their placed instants. -/
def insertPulse (p : Pulse) : List Pulse → List Pulse
  | [] => [p]
  | q :: r => if p.placed < q.placed then p :: q :: r else q :: insertPulse p r

/-- A grid of which samples have been issued. -/
def Tone.begun (x : Tone) (at16 : Nat) : Bool := x.grids.any fun g => g.at16 = at16 && 0 < g.next

/-- Pulses, new ones or ones that are placed anew, take their places on a tone (R69): a grid of which nothing has been
issued is laid again, since a pulse that starts earlier may now set it. A grid that has ended lapses. -/
def Tone.place (x : Tone) (si : Nat) (new : List Pulse) : Tone :=
  let grids := x.grids.filter fun g => 0 < g.next && (si < g.origin + 32 * g.stop || g.next < g.stop)
  let kept := x.units.filter fun p => x.begun p.grid
  let free := x.units.filter fun p => !x.begun p.grid
  let order := (free ++ new).foldl (fun l p => insertPulse p l) []
  order.foldl Tone.join { x with units := kept, grids }

/-- Some sample of a pulse has been issued. -/
def Tone.started (x : Tone) (p : Pulse) : Bool := x.grids.any fun g => g.at16 = p.grid && p.start < g.next

/-- The pulses that `moves` picks and of which nothing has been issued are placed anew (R44). -/
def Tone.retime (x : Tone) (si : Nat) (moves : Pulse → Bool) (f : Pulse → Pulse) : Tone :=
  let loose := x.units.filter fun p => moves p && !x.started p
  if loose.isEmpty then x
  else
    let units := x.units.filter fun p => !moves p || x.started p
    let grids := x.grids.map fun g =>
      { g with stop := (units.filter fun p => p.grid = g.at16).foldl (fun m p => max m (p.start + p.length)) g.next }
    ({ x with units, grids } : Tone).place si (loose.map f)

/-- A tone has 4 playback units (R180). -/
def Tone.unitFree (x : Tone) : Bool := x.units.length < 4

/-- The first grid of a tone that has samples left to issue. -/
def Tone.issuing (x : Tone) : Option Grid := x.grids.find? fun g => g.next < g.stop

/-- The library blocks that the samples of a grid sample come from. -/
def blocksOf (units : List Pulse) (m : Nat) : List Nat :=
  (units.filter fun p => p.playsAt m).map fun p => (p.libPtr + pulseIndex p.libLen p.length (m - p.start)) / 64

/-- ENV_SAT of a tone's channel (R69). -/
def State.countEnvSat (s : State) (t : Nat) (probe : Bool) (u k : Nat) : State :=
  if probe then s.count F.probeStatus_ENV_SAT t k else s.count F.xyStatus_ENV_SAT (4 * t + u / 4) k

/-- The rows that the units of a grid go on to within `n` grid samples from `m` on: each is a continuing read (R230). A
pulse's first row has been read before. -/
def rowsBegun (units : List Pulse) (m n : Nat) : Nat :=
  let row := fun (p : Pulse) (k : Nat) => (p.libPtr + pulseIndex p.libLen p.length k) / 64
  (units.map fun p => ((List.range n).filter fun i =>
    p.playsAt (m + i) && decide (p.start < m + i) && row p (m + i - p.start) ≠ row p (m + i - p.start - 1)).length).sum

/-- The first rows of the pulses that `n` grid samples from `m` on come from have been read (R231). -/
def rowsRead (units : List Pulse) (m n half : Nat) : Bool :=
  units.all fun p => !decide (p.start < m + n) || decide (p.ready ≤ half)

/-- An earlier burst of the same grid gives way to the samples of one that is issued again (log 100). -/
def Burst.cutAt (o b : Burst) : Burst :=
  if o.frac = b.frac && o.due % 32 = b.due % 32 then
    let n := (b.due - o.due) / 32
    { o with samples := o.samples.take n, blocks := o.blocks.take n }
  else o

/-- A burst of a tone is issued from its grid (R34, R38): up to 32 samples, usable in the island after the
transport. The units that have issued their last sample are free. -/
def State.issueBurst (s : State) (t : Nat) (probe : Bool) (u : Nat) (g : Grid) (transit : Nat) : State :=
  let k := toneKey t probe u
  let x := s.tone k
  let n := min 32 (g.stop - g.next)
  let mine := x.units.filter fun p => p.grid = g.at16
  let made := (List.range n).map fun i => s.gridSample t mine (g.next + i)
  let due := g.origin + 32 * g.next
  let (usable, s) := s.cross t t s.si transit
  let b : Burst :=
    { due, frac := g.frac, usable, blocks := (List.range n).map fun i => blocksOf mine (g.next + i)
      samples := made.map Prod.fst }
  let next := g.next + n
  let s := s.setTone k { x with
    bursts := ((x.bursts.filter fun b => s.si < b.due + 32 * b.samples.length + 192).map fun o => o.cutAt b) ++ [b]
    grids := x.grids.map fun h => if h.at16 = g.at16 then { h with next } else h
    units := x.units.filter fun p => p.grid ≠ g.at16 || next < p.start + p.length }
  let s := s.askRows t libPlayback (rowsBegun mine g.next n)
  let s := s.countEnvSat t probe u (made.filter Prod.snd).length
  s.noteArrival t (toneLocal probe u) due usable

/-- BURST_ISSUE (R38, R231): no earlier than 256 ticks before the due SI, with at most 4 bursts held a tone, and once the
first rows of its pulses have been read. -/
def execBurstIssue (t : Fin 16) (probe : Bool) (u : Fin 16) (transit : Fin 29) (s : State) : Result :=
  let s := s.fresh
  let x := s.tone (toneKey t probe u)
  .next (match x.issuing with
    | some g =>
      let held := x.bursts.filter fun b => s.si < b.due + 32 * b.samples.length
      let mine := x.units.filter fun p => p.grid = g.at16
      if g.origin + 32 * g.next ≤ s.si + 16 * Config.lookahead && held.length < 4
          && rowsRead mine g.next (min 32 (g.stop - g.next)) s.half then
        s.issueBurst t probe u g transit
      else s
    | none => s)

/-! ### The power integrator (R80 to R82) -/

/-- I after one word (R80): I ← I + (W − I) × 2⁻ᴷ, exactly. `sum` is Σ x² of the word, so W = sum ÷ 2¹⁴. -/
def Frac.step (i : Frac) (sum k : Nat) : Frac :=
  let e := max i.exp 14
  let num := i.num * 2 ^ (e - i.exp) * (2 ^ k - 1) + sum * 2 ^ (e - 14)
  if num = 0 then { num := 0, exp := 0 } else { num, exp := e + k }

/-- I in whole units. -/
def Frac.floor (i : Frac) : Nat := i.num / 2 ^ i.exp

/-- The integrator of DRV[n]. -/
def State.powerOf (s : State) (n : Nat) : Frac := s.drive.power.read { num := 0, exp := 0 } n

/-- I exceeds a limit, or lies at or below three quarters of it. -/
def Frac.exceeds (i : Frac) (limit : Nat) : Bool := limit * 2 ^ i.exp < i.num
def Frac.settled (i : Frac) (limit : Nat) : Bool := 4 * i.num ≤ 3 * limit * 2 ^ i.exp

/-- One word of DRV[n]'s integrator, with POWER_PEAK. -/
def State.integratePower (s : State) (n : Nat) : State :=
  let i := (s.powerOf n).step (s.drive.wordPower.read 0 n) (s.get F.xyConfig_POWER_K n)
  let s := { s with drive := { s.drive with power := s.drive.power.write { num := 0, exp := 0 } n i } }
  s.put F.xyStatus_POWER_PEAK n (max (s.get F.xyStatus_POWER_PEAK n) (min i.floor 65535))

/-- The integrators of one tick; a channel whose integrator is 0 and that released nothing stays at 0. -/
def State.integrateAll (s : State) : State :=
  let active := (List.range 64).filter fun n =>
    (s.drive.power.find n).isSome || (s.drive.wordPower.find n).isSome
  let s := active.foldl State.integratePower s
  { s with drive := { s.drive with wordPower := [] } }

/-- The channel mutes (R81, R83). -/
def State.mute (s : State) (n : Nat) : State :=
  let s := s.putFlag F.xyStatus_MUTED n true
  ((s.raise (640 + n)).report 15 false (640 + n) n).voidShot (n / 4)

/-- POWER_MUTE (R81): a POWER_LIMIT of 0 disables the action. -/
def execPowerMute (n : Fin 64) (s : State) : Result :=
  let s := s.fresh
  let limit := s.get F.xyConfig_POWER_LIMIT n
  .next (if limit ≠ 0 && (s.powerOf n).exceeds limit && !s.flag F.xyStatus_MUTED n then s.mute n else s)

/-- A segment boundary of the channel's tile: a mute under SEGMENT ends where I has settled (R82). -/
def State.boundaryMute (s : State) (n : Nat) : State :=
  if s.flag F.xyStatus_MUTED n && s.flag F.xyConfig_POWER_ACTION n
      && (s.powerOf n).settled (s.get F.xyConfig_POWER_LIMIT n) then s.endMute n
  else s

end Sys2Proof.Machine
end

