-- ==== Sys2Proof/Machine/Bias.lean ====
section
/-! DEFINITION. Bias current outputs (R87 to R109): operations, ramps, sines, the predistortion chain, park
ramps, and compliance and open-load supervision. -/

namespace Sys2Proof.Machine

/-! ### Seals at playback (R25, R26) -/

/-- A segment of a tile stops being resident (R25). -/
def State.dropSegment (s : State) (t id : Nat) : State :=
  { s with program := { s.program with
    segments := s.program.segments.write .init (1024 * t + id) { s.segment t id with resident := false } } }

/-- The base of the shot in which a first failure of `key` awaits its second attempt. -/
def TileRun.suspected (r : TileRun) (key : Nat) : Option Nat := (r.suspect.find? fun x => x.1 = key).map Prod.snd

/-- `key` awaits no second attempt any more. -/
def TileRun.cleared (r : TileRun) (key : Nat) : TileRun := { r with suspect := r.suspect.filter fun x => x.1 ≠ key }

/-- A seal check of `key` at playback fails for tile `t` (R25, R26): the first failure awaits the next playback in another
shot, and a failure there is lasting; segment `id` is then not resident. -/
def State.sealFault (s : State) (t key id detail : Nat) : State :=
  let r := s.tile t
  match r.suspected key with
  | none => s.setTile t { r with suspect := r.suspect ++ [(key, r.base)] }
  | some b =>
    if b = r.base then s
    else ((s.setTile t (r.cleared key)).report 2 true 0xFFF t detail).dropSegment t id

/-- A seal check of `key` passes: in another shot than the failure's, the fault was transient (R25, R26). -/
def State.sealPass (s : State) (t key detail : Nat) : State :=
  let r := s.tile t
  match r.suspected key with
  | none => s
  | some b => if b = r.base then s else (s.setTile t (r.cleared key)).report 2 false 0xFFF t detail

/-! ### Operations (R89 to R96) -/

/-- The half tick of the bias sample that begins at SI `x`: the present tick's first where `x` has passed. -/
def State.halfOf (s : State) (x : Nat) : Nat := s.half + (x - s.si) / 8

/-- What an operation makes of what is commanded, from half tick `h` on; `l0` is LEVEL at the sample before (R90, R91). -/
def Commanded.act (c : Commanded) (l0 : Int) (a : BiasAct) (h : Nat) : Commanded :=
  match a with
  | .level v => { c with level := v * 2 ^ 16, ramp := none }
  | .ramp v n => { c with level := l0, ramp := some { l0, v := v * 2 ^ 16, n, start := h } }
  | .sine amp ftw phase =>
    if amp = 0 then { c with sine := none } else { c with sine := some { amp, ftw, phase, fade := none } }

/-- The operation commands LEVEL. -/
def BiasAct.movesLevel (a : BiasAct) : Bool :=
  match a with
  | .sine _ _ _ => false
  | _ => true

/-- What is in force at a half tick, a park ramp's LEVEL included. -/
def Bias.inForce (b : Bias) (h : Nat) : Commanded :=
  if b.park.isSome then { b.cmdAt h with level := b.levelAt h, ramp := none } else b.cmdAt h

/-- An operation acts from half tick `h` on, with the predistortion set it carries (R89, R90, R96): the sample before it
keeps what was in force, and of several operations at one sample the last governs (R91). It ends a park ramp of a channel
whose run has begun (R98). -/
def Bias.apply (b : Bias) (o : BiasOp) (h : Nat) : Bias :=
  let c := b.cmd.act (b.levelAt (h - 1)) o.act h
  { b with
    was := some (h, b.inForce (h - 1))
    cmd := { c with pdSet := o.pd }
    park := if o.act.movesLevel then none else b.park }

/-- A BIAS_SINE above 600 MHz (R93). -/
def BiasAct.tooFast (a : BiasAct) : Bool :=
  match a with
  | .sine _ ftw _ => 0x60000000 < ftw
  | _ => false

/-- A hold discards an operation (R102, R104): a latched hold every one, and a hold of a segment those of the segment and
of what came before it. -/
def Bias.discards (b : Bias) (o : BiasOp) : Bool :=
  b.holds.contains .latched || (match b.heldSeg with
    | some x => o.seg ≤ x
    | none => false)

/-- The hold that a late operation begins at its due sample (R36), where none of its segment stands. -/
def State.lateHold (s : State) (n : Nat) (o : BiasOp) : State :=
  let b := s.biasOf n
  let s := s.setBias n { b with ops := b.ops.filter fun p => p ≠ o }
  if b.discards o then s else s.holdBias n .segment (s.halfOf o.due) (some o.seg)

/-- The holds of late operations that are due in the present tick begin. -/
def State.beginHolds (s : State) (n : Nat) : State :=
  ((s.biasOf n).ops.filter fun o => o.late && o.due < s.si + 16).foldl (fun s o => s.lateHold n o) s

/-- A segment hold of a bias channel after a seal failure of an operation's block (R23, R105), classified at the next
playback of the block in another shot (R25, R26). -/
def State.biasSealFail (s : State) (n : Nat) (o : BiasOp) : State :=
  let s := if (s.biasOf n).discards o then s else s.holdBias n .segment (s.halfOf o.due) (some o.seg)
  (s.voidShot (n / 8)).sealFault (n / 8) (32768 + o.block) o.segId n

/-- An operation of a channel acts (R89 to R93, R98, R104). -/
def State.actBias (s : State) (n : Nat) (o : BiasOp) (sealBad : Bool) : State :=
  let b := s.biasOf n
  let s := s.setBias n { b with ops := b.ops.drop 1 }
  if sealBad then s.biasSealFail n o
  else
    let s := s.sealPass (n / 8) (32768 + o.block) n
    if s.flag F.biasStatus_PARKED n then s.count F.biasStatus_PARKED_DROP n
    else if b.discards o then s
    else if o.act.tooFast then s.freqRange (n / 8)
    else s.setBias n ((s.biasOf n).apply o (s.halfOf o.due))

/-- BIAS_OP_ACT (R89): the first operation whose due sample lies in the present tick or before it. A late one begins its
hold there (R36). -/
def execBiasOpAct (n : Fin 128) (sealBad : Bool) (s : State) : Result :=
  let s := s.fresh
  .next (match (s.biasOf n).ops with
    | o :: _ =>
      if o.due < s.si + 16 then (if o.late then s.lateHold n o else s.actBias n o sealBad) else s
    | [] => s)

/-- An operation joins its channel's list, in order of stamps, behind those of the same sample (R91). -/
def insertOp (o : BiasOp) : List BiasOp → List BiasOp
  | [] => [o]
  | p :: r => if o.due < p.due then o :: p :: r else p :: insertOp o r

/-- BIAS_RAMP_COMPLETE (R90): LEVEL equals v at sample N. -/
def execBiasRampComplete (n : Fin 128) (s : State) : Result :=
  let s := s.fresh
  let b := s.biasOf n
  .next (match b.cmd.ramp with
    | some r =>
      if r.start + r.n ≤ s.half + 1 then s.setBias n { b with cmd := { b.cmd with level := r.v, ramp := none } } else s
    | none => s)

/-- SINE_FADE_END (R92): 80.0 ns after the fade began. -/
def execSineFadeEnd (n : Fin 128) (s : State) : Result :=
  let s := s.fresh
  let b := s.biasOf n
  .next (match b.cmd.sine with
    | some x => match x.fade with
      | some f => if f + 128 ≤ s.half then s.setBias n { b with cmd := { b.cmd with sine := none } } else s
      | none => s
    | none => s)

/-! ### The chain (R88, R93 to R96) -/

/-- A channel as it will stand at the bias sample `i` samples after the first of the present tick, with the operations
that act by then: for samples that are released before their row comes, and for the taps that act before the placed
instant (R95). -/
def State.biasAhead (s : State) (n i : Nat) : Bias :=
  let b := s.biasOf n
  if s.flag F.biasStatus_PARKED n then b
  else
    let due := (b.ops.takeWhile fun o => !o.late).filter fun o =>
      o.due ≤ s.si + 8 * i && !o.act.tooFast && !b.discards o
    due.foldl (fun b o => b.apply o (s.halfOf o.due)) b

/-- The table of the sine at a phase word: the top 12 bits index it and the next 12 interpolate linearly (R93), in
units of 2⁻³⁶. -/
def sineAt (w : Nat) : Int :=
  let i := w / 2 ^ 20
  let f := w / 2 ^ 8 % 2 ^ 12
  Config.sineEntry i * (4096 - f : Nat) + Config.sineEntry ((i + 1) % 4096) * f

/-- A sine at half tick `h` and bias sample `j` of SI, with its fade over 128 half ticks (R92, R93), in units of 2⁻¹⁶
code. -/
def Sine.at (x : Sine) (h j : Nat) : Int :=
  let v := x.amp * sineAt ((x.ftw * j + x.phase * 2 ^ 16) % 2 ^ 32)
  match x.fade with
  | none => roundFree v (2 ^ 20)
  | some f => roundFree (v * (min 128 (f + 128 - h) : Nat)) (2 ^ 27)

/-- The commanded value at the bias sample `i` after the first of the present tick, in units of 2⁻¹⁶ code, and whether the
sine stage saturated (R88). -/
def State.commanded (s : State) (n i : Nat) : Int × Bool :=
  let b := s.biasAhead n i
  let h := s.half + i
  let v := b.levelAt h + (match (b.cmdAt h).sine with
    | some x => x.at h (s.si / 8 + i)
    | none => 0)
  let r := clampInt (-(32768 * 2 ^ 16)) (32767 * 2 ^ 16) v
  (r, r ≠ v)

/-- A value of the chain is held in 40 bits, 16 of them fraction bits (R94; DEDUCED, log 98). -/
def chain40 (v : Int) : Int := if -(2 ^ 39) ≤ v && v < 2 ^ 39 then v else Config.overflow40 v

/-- One IIR section (R94): output and next state. -/
def iirSection (sect : Nat) (u st : Int) : Int × Int :=
  let g := signed (bits sect 24 16) 16
  let a := bits sect 0 24
  (chain40 (u + roundFree (g * (u - st)) (2 ^ 14)), chain40 (st + roundFree (a * (u - st)) (2 ^ 24)))

/-- The cascade of 8 sections (R94): output and next states. -/
def iirChain (image : Nat) (i : Nat) (u : Int) (states : List Int) : Int × List Int :=
  match states with
  | [] => (u, [])
  | st :: r =>
    let (y, st') := iirSection (bits image (40 * i) 40) u st
    let (z, r') := iirChain image (i + 1) y r
    (z, st' :: r')

/-- The FIR sum over its inputs, newest first (R95). -/
def firSum (image : Nat) (hist : List Int) : Int :=
  chain40 (roundFree ((List.range 32).foldl (fun a k =>
    a + signed (bits image (16 * k) 16) 16 * hist.getD k 0) 0) (2 ^ 14))

/-- The BIAS_OFFSET trim of a tap in units of 2⁻¹⁶ code: 1/8 code a tap about the middle of the range (R54). -/
def trimUnits (tap : Nat) : Int := ((tap : Int) - 128) * 2 ^ 13

/-- The tap of the BIAS_OFFSET trim of a channel (R362). -/
def State.biasTrim (s : State) (n : Nat) : Int := trimUnits (s.tap (32 + n / 8) (n % 8))

/-- The predistortion record that governs the bias sample `i` after the first of the present tick (R97, R439): a pending
shadow not before its shot's base. -/
def State.biasRecord (s : State) (n : Nat) (r : Rec) (p i : Nat) : Nat :=
  let x := s.tile (n / 8)
  if x.coming && s.si + 8 * i < x.base then s.image r (4 * n + p) else s.imageFor (n / 8) r (4 * n + p)

/-- The predistortion set of the bias sample `i` after the first of the present tick (R96). -/
def State.biasSet (s : State) (n i : Nat) : Nat := ((s.biasAhead n i).cmdAt (s.half + i)).pdSet

/-- The IIR output at the bias sample `i` and the states that follow (R94). -/
def State.iirAt (s : State) (n i : Nat) (states : List Int) : Int × List Int :=
  iirChain (s.biasRecord n .biasIir (s.biasSet n i) i) 0 (s.commanded n i).1 states

/-- The IIR outputs of `k` more samples from the bias sample `i` on, the last one first, in front of a history. -/
def State.iirOn (s : State) (n i : Nat) (states hist : List Int) : Nat → List Int
  | 0 => hist
  | k + 1 =>
    let (y, next) := s.iirAt n i states
    s.iirOn n (i + 1) next (y :: hist) k

/-- One output sample of a channel (R88), the one `i` after the first of the present tick: the DAC code, the chain that
follows, and whether it saturated. DESIGN CHOICE (log 94): under PD_BYPASS and on the park oscillator, which R96 and R99
say bypass the chain, its states and history stand still. DEDUCED (log 97): the precursor taps of R95 take what the
channel's waiting operations will command. -/
def State.biasSample (s : State) (n i : Nat) : Int × Bias × Bool :=
  let b := s.biasOf n
  let (c, sat) := s.commanded n i
  let bypass := b.parkOsc.isSome || s.flag F.biasConfig_PD_BYPASS n
  let fir := s.biasRecord n .biasFir (s.biasSet n i) i
  let (y, states) := s.iirAt n i b.iir
  let hist := (y :: b.fir).take 32
  let out := if bypass then c else firSum fir (s.iirOn n (i + 1) states hist (bits fir 512 3))
  let code := roundFree (out + s.biasTrim n) (2 ^ 16)
  let r := satSigned code 16
  (r, if bypass then b else { b with iir := states, fir := hist }, sat || r ≠ code)

/-- The 50 Ω path of a channel is engaged: its ball carries no current (R105). On the way to the reload of R395 the DAC
stays connected until the ramps have ended. -/
def State.biasGrounded (s : State) (n : Nat) : Bool :=
  (s.biasOf n).sink || !s.flag F.biasConfig_OUT_ENABLE n || s.mode = .reset
    || (s.mode = .boot && s.power.ramp.isNone) || s.mode = .selftest || s.mode = .calibrate

/-- The open-load check's timer after a sample (R101): it runs while |OUTPUT| is 328 codes or more with the latch
clear. -/
def State.timeOpenLoad (s : State) (n : Nat) (code : Int) : State :=
  let b := s.biasOf n
  s.setBias n { b with openSince :=
    if 328 ≤ code.natAbs && !s.flag F.biasStatus_OL_LATCH n then some (b.openSince.getD s.clock.now) else none }

/-- One bias sample is released (R88): OUTPUT, SAT_COUNT and the chain. -/
def State.stepBias (s : State) (n i : Nat) : Int × State :=
  let (code, b, sat) := s.biasSample n i
  let s := (s.setBias n b).put F.biasStatus_OUTPUT n (unsigned code 16)
  let s := if sat then s.count F.biasStatus_SAT_COUNT n else s
  (if s.biasGrounded n then 0 else code, s.timeOpenLoad n code)

/-- The two bias samples of a tick. -/
def State.releaseBiasWord (s : State) (n : Nat) : State :=
  let s := s.beginHolds n
  let (a, s) := s.stepBias n 0
  let (b, s) := s.stepBias n 1
  match Nat.decLt n 128 with
  | isTrue h => s.emit (.samples (.bias ⟨n, h⟩) [a, b])
  | isFalse _ => s

/-! ### Park ramps (R98, R99) -/

/-- PARK_RAMP_DONE (R98): LEVEL stays at the target; at an orderly power-off or a reset by command the 50 Ω
path then engages (R105). -/
def execParkRampDone (n : Fin 128) (s : State) : Result :=
  let s := s.fresh
  let b := s.biasOf n
  .next (match b.park with
    | some p =>
      if s.level n = p.target then
        (s.setBias n { b with
          cmd := { b.cmd with level := p.target, ramp := none }, park := none
          sink := b.sink || !p.connect }).rampEnded
      else s
    | none => s)

/-- The channels of a bias island (R13). -/
def biasOfIsland (i : Nat) : List Nat := (List.range 16).map (16 * i + ·)

/-- The chain in its steady state for LEVEL (R99). -/
def Bias.settle (b : Bias) : Bias :=
  { b with parkOsc := none, iir := List.replicate 8 b.cmd.level, fir := List.replicate 32 b.cmd.level }

/-- A channel on the park oscillator stands at a 10 ns step of it. -/
def Bias.atStep (b : Bias) (now : Nat) : Bool :=
  match b.parkOsc with
  | some t => (now - t) % 8 = 0
  | none => true

/-- PARK_OSC_HANDBACK (R99): SCLK has returned with the PLL locked, and every park ramp of the island has
reached its target; the island hands back at a 10 ns step. -/
def execParkOscHandback (i : Fin 8) (s : State) : Result :=
  let s := s.fresh
  let island := biasOfIsland i
  .next (if s.flag F.gridStatus_PLL_LOCK && (island.any fun n => (s.biasOf n).parkOsc.isSome)
      && (island.all fun n => (s.biasOf n).park.isNone && (s.biasOf n).atStep s.clock.now) then
    island.foldl (fun s n => s.setBias n (s.biasOf n).settle) s
  else s)

/-- BIAS_SUPPLY_FAULT (R105): the 50 Ω path engages on every channel, with no ramp. -/
def execBiasSupplyFault (s : State) : Result :=
  let s := s.fresh
  .next (if s.mode = .reset then s
    else (List.range 128).foldl (fun s n => s.setBias n { s.biasOf n with sink := true }) s)

/-! ### Supervision (R100 to R103) -/

/-- The strength of an action: PARK before HOLD before REPORT (R102). -/
def tripStrength (action : Nat) : Nat := if action = 1 then 2 else if action = 0 then 1 else 0

/-- The stronger of the actions of the latches that are set (R102). -/
def State.tripAction (s : State) (n : Nat) : Nat :=
  let c := if s.flag F.biasStatus_COMP_LATCH n then tripStrength (s.get F.biasConfig_COMP_ACTION n) else 0
  let o := if s.flag F.biasStatus_OL_LATCH n then tripStrength (s.get F.biasConfig_OL_ACTION n) else 0
  max c o

/-- A latch of a channel sets: source 512 + n is raised, the report is made and the action in force applies
(R102, R103). A latched hold lasts while a latch whose action is HOLD is set, beside a park ramp too. -/
def State.trip (s : State) (n : Nat) (latch : Field) (kind : Nat) : State :=
  let s := (((s.putFlag latch n true).raise (512 + n)).report 14 false (512 + n) n kind).urge .trip
  let s := if s.latchHolds n then s.holdBias n .latched s.half none else s
  match s.tripAction n with
  | 0 => s
  | 1 => s.voidShot (n / 8)
  | _ =>
    (if s.flag F.biasStatus_PARKED n then s else s.parkBias n (s.parkValue n)).voidShot (n / 8)

/-- COMPLIANCE_TRIP (R100): a compliance sample of the output voltage; a trip where it lies outside
±COMP_WINDOW and the latch is clear. -/
def execComplianceTrip (n : Fin 128) (v : BitVec 16) (s : State) : Result :=
  let s := s.fresh
  .next (if s.mode = .reset then s
    else
      let s := s.put F.biasStatus_VSENSE n v.toNat
      let breach := s.get F.biasConfig_COMP_WINDOW n * 10 < v.toInt.natAbs
      if breach && !s.flag F.biasStatus_COMP_LATCH n then s.trip n F.biasStatus_COMP_LATCH 0 else s)

/-- The open-load check has run for 800 ticks without a break (R101). -/
def State.openLoadDue (s : State) (n : Nat) : Bool :=
  match (s.biasOf n).openSince with
  | some t => t + 800 ≤ s.clock.now
  | none => false

/-- OPEN_LOAD_TRIP (R101): the sensed load current has stayed below 5 % of OUTPUT's current, while |OUTPUT| has been 328
codes or more, for 800 ticks. -/
def execOpenLoadTrip (n : Fin 128) (s : State) : Result :=
  let s := s.fresh
  .next (if s.openLoadDue n && !s.flag F.biasStatus_OL_LATCH n then
    (s.setBias n { s.biasOf n with openSince := none }).trip n F.biasStatus_OL_LATCH 1 else s)

end Sys2Proof.Machine
end

