-- ==== Sys2Proof/Machine/Signal.lean ====
section
/-! DEFINITION. What reaches the balls: the words of XY, probe and bias channels (R34, R70 to R79, R88), seal
failures at the RF island (R23, R25), and LATE (R35 to R37). -/

namespace Sys2Proof.Machine

/-! ### Samples of a tone and a channel -/

/-- The weight of an envelope sample at a distance from its instant, in units of 2⁻³⁰ (R70, R71): full at its instant,
the same on both sides, and none beyond 4 envelope samples. -/
def weightAt (d : Nat) : Int := if d = 0 then 2 ^ 30 else if 2048 < d then 0 else Config.impulse d

/-- The interpolated envelope of a tone at sample `x`, in units of 2⁻³⁰: a linear sum over the envelope samples of the
held bursts, whose instants lie at the stamp and the fraction (R33, R70). It is zero where they are (R73). -/
def envelopeAt (l : List Burst) (x : Nat) : Int × Int :=
  l.foldl (fun a b =>
    b.samples.zipIdx.foldl (fun a e =>
      let w := weightAt ((16 * x : Int) - (16 * (b.due + 32 * e.2) + b.frac : Nat)).natAbs
      (a.1 + w * e.1.1, a.2 + w * e.1.2)) a) (0, 0)

/-- z at a carrier phase in units of 2π ÷ 2⁴⁸, of which the top 24 bits drive the phasor (R62), in units of 2⁻⁶⁰. -/
def carrier (e : Int × Int) (phase : Nat) : Int × Int := cmul e (turn (phase / 2 ^ 24) (2 ^ 24))

/-- The complex conjugate. -/
def conj (z : Int × Int) : Int × Int := (z.1, -z.2)

/-- The causes for which an XY or probe channel outputs zero at a sample index (R36, R81, R85, R377,
R393). -/
def State.silent (s : State) (ch x : Nat) : Bool :=
  (s.drive.zeroed.any fun z => z.1 = ch && z.2.2 ≤ x)
    || (if ch < 64 then !s.flag F.xyConfig_OUT_ENABLE ch || s.flag F.xyStatus_MUTED ch
        else !s.flag F.probeConfig_OUT_ENABLE (ch - 64))
    || (5 ≤ s.get F.powerStatus_THROTTLE_STEP && !s.inRun (if ch < 64 then ch / 4 else ch - 64))
    || !(s.mode = .parked || s.mode = .run || s.mode = .survey)

/-- The tone runs as the image in the second Nyquist zone (R67). -/
def State.runsImage (s : State) (t : Nat) (probe : Bool) (u : Nat) : Bool := !probe && s.mixMode t u

/-- The complex value of a tone that enters its channel's sum at sample `x`, in units of 2⁻⁶⁰ (R62). In MIX mode the
tone runs at the alias 12.8 GHz − f with its phase negated and its envelope conjugated (R67). A disabled tone, and a tone
of a channel that is zeroed, contributes nothing (R73, R76, R84). -/
def State.toneZ (s : State) (t : Nat) (probe : Bool) (u x : Nat) : Int × Int :=
  if !s.toneEnabled t probe u || s.silent (toneChannel t probe u) x then (0, 0)
  else
    let e := envelopeAt (s.tone (toneKey t probe u)).bursts x
    let p := s.phase t probe u x
    if s.runsImage t probe u then carrier (conj e) ((2 ^ 48 - p) % 2 ^ 48) else carrier e p

/-- z per R62 of a drive tone at sample `x`. DEDUCED (log 102): in MIX mode the value of which R62 speaks is the conjugate
of the one that the alias runs with. -/
def State.sourceZ (s : State) (t u x : Nat) : Int × Int :=
  if s.runsImage t false u then conj (s.toneZ t false u x) else s.toneZ t false u x

/-- The values z of the present word of a drive tone, as they are released for its channel (R74). -/
def State.sourceWord (s : State) (t u : Nat) : List (Int × Int) :=
  (List.range 16).map fun i => s.sourceZ t u (s.si + i)

/-- z of a source tone at sample `x`, as released for its own channel (R74, R76): of an earlier word what was released,
which is nothing where none was. -/
def State.releasedZ (s : State) (t u x : Nat) : Int × Int :=
  match (s.drive.released.read [] (16 * t + u)).find? fun w => w.1 ≤ x && x < w.1 + 16 with
  | some w => w.2.getD (x - w.1) (0, 0)
  | none => if s.si ≤ x then s.sourceZ t u x else (0, 0)

/-- The real part of what matrix row `d` of a tile contributes at sample `x` (R74), in units of 2⁻⁷⁵. -/
def State.rowValue (s : State) (t d x : Nat) : Int :=
  let row := s.drive.matrix.read 0 (16 * t + d)
  let delay := bits row 512 5
  if !bit row 517 || x < delay then 0
  else (List.range 16).foldl (fun a u =>
    let z := s.releasedZ t u (x - delay)
    a + signed (bits row (32 * u) 16) 16 * z.1 - signed (bits row (32 * u + 16) 16) 16 * z.2) 0

/-- The output sample of DRV[4t + c] before saturation, and of PRB[t] for c = 4 (R73, R110). -/
def State.outSample (s : State) (t c x : Nat) : Int :=
  let tones := if c = 4 then (List.range 16).foldl (fun a u => a + (s.toneZ t true u x).1) 0
    else (List.range 4).foldl (fun a k => a + (s.toneZ t false (4 * c + k) x).1) 0
  let rows := if c = 4 then 0
    else (List.range 4).foldl (fun a k => a + s.rowValue t (4 * c + k) x) 0
  (tones * 2 ^ 15 + rows) / 2 ^ 77

/-- Saturation to the 14-bit code range (R73), and whether the sample is clipped (R79). -/
def toCode (v : Int) : Int × Bool := (clampInt (-8192) 8191 v, v < -8192 || 8191 < v)

/-- The 16 codes of the present word of a channel, each with its clip flag. -/
def State.word (s : State) (t c : Nat) : List (Int × Bool) :=
  let ch := if c = 4 then 64 + t else 4 * t + c
  (List.range 16).map fun i =>
    if s.silent ch (s.si + i) then (0, false) else toCode (s.outSample t c (s.si + i))

/-- The clip detector of DRV[n] (R79): CLIP_COUNT, CLIP_SEEN, and one event a segment. -/
def State.clipXy (s : State) (n k : Nat) : State :=
  if k = 0 then s
  else
    let s := (s.count F.xyStatus_CLIP_COUNT n k).putFlag F.xyStatus_CLIP_SEEN n true
    if s.drive.clipped.contains n then s
    else ({ s with drive := { s.drive with clipped := s.drive.clipped ++ [n] } } : State).raise (640 + n)

/-- The clip detector of PRB[t] counts only (R110). -/
def State.clipProbe (s : State) (t k : Nat) : State :=
  if k = 0 then s
  else (s.count F.probeStatus_CLIP_COUNT t k).putFlag F.probeStatus_CLIP_SEEN t true

/-! ### Seals at playback (R23, R25, R26) -/

/-- The keys of the tones of a channel of a tile: c = 4 for the probe channel. -/
def channelTones (t c : Nat) : List Nat :=
  if c = 4 then (List.range 16).map fun u => toneKey t true u
  else (List.range 4).map fun k => toneKey t false (4 * c + k)

/-- The samples of a burst that are due in the 16 SCLK samples from `lo` on, each with its SI and its library blocks. -/
def Burst.dueFrom (b : Burst) (lo : Nat) : List (Nat × List Nat) :=
  (b.blocks.zipIdx.map fun x => (b.due + 32 * x.2, x.1)).filter fun x => lo ≤ x.1 && x.1 < lo + 16

/-- The library blocks whose first sample a tone releases in the present word, each with that sample's SI. -/
def Tone.blocksBegun (x : Tone) (si : Nat) : List (Nat × Nat) :=
  let before := (x.bursts.flatMap fun b => (b.dueFrom (si - 32)).flatMap fun y => if si < 32 then [] else y.2)
  (x.bursts.flatMap fun b => b.dueFrom si).flatMap fun y => (y.2.filter fun k => k ∉ before).map fun k => (k, y.1)

/-- The library blocks that a channel begins to play in the present word. -/
def State.blocksBegun (s : State) (t c : Nat) : List (Nat × Nat) :=
  ((channelTones t c).flatMap fun k => (s.tone k).blocksBegun s.si).dedup

/-- A waveform block fails its seal (R23): the channel is zero from the block's first sample to the end of the segment,
and the shot is void. -/
def State.sealFail (s : State) (t c blk since : Nat) : State :=
  let ch := if c = 4 then 64 + t else 4 * t + c
  ((s.zeroChannel ch .badSeal since).voidShot t).sealFault t blk (s.get F.runStatus_SEG_ID t) blk

/-- The seal checks of the blocks that a channel begins to play in the present word (R23): before their samples are
released. Where several begin, which one fails is a free value. -/
def State.checkSeal (s : State) (t c : Nat) (bad : Bool) : State :=
  let l := s.blocksBegun t c
  if bad then
    let (v, s) := s.free
    match l[v.toNat % max 1 l.length]? with
    | some b => s.sealFail t c b.1 b.2
    | none => s
  else l.foldl (fun s b => s.sealPass t b.1 b.1) s

/-- The values z that the tones of a drive channel release with the present word are kept for the matrix rows that delay
them (R74): the newest 3 words. -/
def State.keepReleased (s : State) (n : Nat) : State :=
  (List.range 4).foldl (fun s k =>
    let u := 4 * (n % 4) + k
    let key := 16 * (n / 4) + u
    let w := (s.si, s.sourceWord (n / 4) u)
    { s with drive := { s.drive with
      released := s.drive.released.list key
        ((w :: (s.drive.released.read [] key).filter fun x => x.1 ≠ s.si).take 3) } }) s

/-- The word of an XY channel is released (R34, R73, R79, R80). -/
def State.releaseXy (s : State) (n : Fin 64) (sealBad : Bool) : State :=
  let s := s.checkSeal (n / 4) (n % 4) sealBad
  let s := s.keepReleased n
  let w := s.word (n / 4) (n % 4)
  let sum := (w.map fun x => x.1.natAbs * x.1.natAbs).sum
  let s := s.clipXy n (w.filter Prod.snd).length
  let s := { s with drive := { s.drive with wordPower := s.drive.wordPower.write 0 n sum } }
  s.emit (.samples (.drive n) (w.map Prod.fst))

/-- The word of a probe channel is released (R110). -/
def State.releaseProbe (s : State) (t : Fin 16) (sealBad : Bool) : State :=
  let s := s.checkSeal t 4 sealBad
  let w := s.word t 4
  (s.clipProbe t (w.filter Prod.snd).length).emit (.samples (.probe t) (w.map Prod.fst))

/-- SAMPLE_RELEASE (R34): the word of the present tick. Without SCLK nothing is released, but a bias island
carries on with its park oscillator (R99). -/
def execSampleRelease (ch : Channel) (sealBad : Bool) (s : State) : Result :=
  let s := s.fresh
  .next (match ch with
    | .drive n => if s.flag F.gridStatus_PLL_LOCK then s.releaseXy n sealBad else s
    | .probe t => if s.flag F.gridStatus_PLL_LOCK then s.releaseProbe t sealBad else s
    | .bias n =>
      if s.flag F.gridStatus_PLL_LOCK || (s.biasOf n).parkOsc.isSome then s.releaseBiasWord n else s)

/-! ### LATE (R35 to R37) -/

/-- The due SI of the first sample of a tone that is not usable when its release lead has expired: an issued
one that is not usable in time, or one that its unit has not issued. -/
def State.lateSample (s : State) (k : Nat) : Option Nat :=
  let x := s.tone k
  let slow := x.bursts.findSome? fun b =>
    let first := (List.range b.samples.length).find? fun i =>
      s.si ≤ b.due + 32 * i && (match b.usable with
        | none => b.due + 32 * i ≤ s.si + 128
        | some v => b.due + 32 * i < v + 128 && b.due + 32 * i ≤ s.si + 128)
    first.map fun i => b.due + 32 * i
  match slow with
  | some d => some d
  | none => (x.issuing.bind fun g =>
      if g.origin + 32 * g.next ≤ s.si + 128 then some (g.origin + 32 * g.next) else none)

/-- The LATE counters, event and report of a channel of a tile (R36, R40): one log entry for each voided
shot, and the class counter for every channel and segment. -/
def State.noteLate (s : State) (t ch : Nat) : State :=
  let s := s.count F.lateStatus_LATE_COUNT t
  let s := (s.put F.lateStatus_MIN_MARGIN t 0).put F.lateStatus_MIN_MARGIN_CH t ch
  let s := s.raise (seqSource t 0)
  let g := (s.tile t).group.getD 16
  let s := if (s.group g).lateLogged then { s with log := { s.log with
      counters := s.log.counters.update 0 0 fun n => satAdd n 1 32 } }
    else (s.report 0 false (seqSource t 0) (16 * t + ch) (s.group g).seq)
  let s := if g < 16 then s.setGroup g { s.group g with lateLogged := true } else s
  s.voidShot t

/-- A tone's channel goes LATE: zero from the sample's due SI to the end of the segment. -/
def State.lateChannel (s : State) (t c due : Nat) : State :=
  let ch := if c = 4 then 64 + t else 4 * t + c
  if s.drive.zeroed.any fun z => z.1 = ch && z.2.1 = .late then s
  else (s.zeroChannel ch .late due).noteLate t c

/-- The first late sample of a channel. -/
def State.lateDue (s : State) (t c : Nat) : Option Nat :=
  (channelTones t c).findSome? s.lateSample

/-- A bias operation goes LATE (R36): its channel's LATE is reported once for its segment, and the segment hold begins
at its due sample, where it would have acted. A seal failure's hold in the same segment hides no LATE (R37). -/
def State.lateBias (s : State) (n : Nat) (o : BiasOp) : State :=
  let b := s.biasOf n
  let s := s.setBias n { b with
    ops := b.ops.map fun p => if p = o then { p with late := true } else p
    lateSeg := some o.seg }
  if b.lateSeg = some o.seg then s else s.noteLate (n / 8) (6 + n % 8)

/-- A bias operation whose release lead has expired and that was not usable by then. -/
def State.lateOp (s : State) (n : Nat) : Option BiasOp :=
  (s.biasOf n).ops.find? fun o => !o.late && o.due ≤ s.si + 128 && (match o.usable with
    | none => true
    | some v => o.due < v + 128)

/-- LATE_DETECT (R36): at the instant at which the release lead of a sample expires. -/
def execLateDetect (ch : Channel) (s : State) : Result :=
  let s := s.fresh
  .next (match ch with
    | .drive n => match s.lateDue (n / 4) (n % 4) with
      | some d => s.lateChannel (n / 4) (n % 4) d
      | none => s
    | .probe t => match s.lateDue t 4 with
      | some d => s.lateChannel t 4 d
      | none => s
    | .bias n => match s.lateOp n with
      | some o => s.lateBias n o
      | none => s)

end Sys2Proof.Machine
end

