-- ==== Sys2Proof/Machine/Memory.lean ====
section
/-! DEFINITION. The pulse libraries and the stream store (R22, R229 to R242): their bytes and seals, poison
and retirement, and the commands LIB_WRITE and LIB_READ. -/

namespace Sys2Proof.Machine

/-- The seal of a block of zeros, which a row or block that nothing has written carries. -/
def zeroSeal : Nat := 0xB872B190

/-! ### The pulse library (R229, R242) -/

/-- The seal of a row. -/
def State.libRowSeal (s : State) (t row : Nat) : Nat := s.memory.libSeal.read zeroSeal (16384 * t + row)

/-- The bytes of a row. -/
def State.libRow (s : State) (t row : Nat) : List Byte :=
  s.memory.lib.readAll 0 (2 ^ 22 * t + 256 * row) 256

/-- A row is written in full with its seal; a retired row is then no longer poisoned (R242). -/
def State.writeRow (s : State) (t row : Nat) (data : List Byte) (sealWord : Nat) : State :=
  s.setMemory { s.memory with
    lib := s.memory.lib.writeAll 0 (2 ^ 22 * t + 256 * row) data
    libSeal := s.memory.libSeal.write zeroSeal (16384 * t + row) sealWord
    libPoison := s.memory.libPoison.filter (· ≠ 16384 * t + row) }

/-- Consecutive rows with their seals. -/
def State.writeRows (s : State) (t row : Nat) (blocks : List (List Byte × Nat)) : State :=
  match blocks with
  | [] => s
  | b :: r => (s.writeRow t row b.1 b.2).writeRows t (row + 1) r

/-- A block reads as poisoned, or has no spare row (R242). -/
def State.libBad (s : State) (t row : Nat) : Bool :=
  s.memory.libPoison.contains (16384 * t + row) || s.memory.libUnusable.contains (16384 * t + row)

/-- Blocks `first` to `first + n − 1` include one that satisfies `p`. -/
def anyBlock (first n : Nat) (p : Nat → Bool) : Bool := (List.range n).any fun i => p (first + i)

/-- Two block ranges overlap. -/
def overlaps (a n b k : Nat) : Bool := decide (a < b + k) && decide (b < a + n) && decide (0 < n) && decide (0 < k)

/-! ### Residency (R204) -/

/-- Segments of a tile that satisfy `p` stop being resident. -/
def State.evict (s : State) (t : Nat) (p : Segment → Bool) : State :=
  let segments := s.program.segments.map fun kv =>
    if kv.1 / 1024 = t && p kv.2 then (kv.1, { kv.2 with resident := false }) else kv
  { s with program := { s.program with segments } }

/-- The segments of a tile that play or have been chosen as successor: none once its shot has ended. -/
def State.activeSegs (s : State) (t : Nat) : List Nat :=
  let r := s.tile t
  if r.endTick.isSome || !(r.inShot || r.prepared) then []
  else s.get F.runStatus_SEG_ID t :: r.chosenSeg.toList

/-- One of the active segments of a tile satisfies `p`. -/
def State.anyActive (s : State) (t : Nat) (p : Segment → Bool) : Bool :=
  (s.activeSegs t).any fun id => p (s.segment t id)

/-! ### Block payloads (R22, R24) -/

/-- The blocks of a command's data with their seals: the host's where flag bit 0 is set, computed otherwise;
and whether every seal the host gives is right. -/
def payloadBlocks (r : Request) (off n : Nat) (sealed : Bool) : List (List Byte × Nat) × Bool :=
  let blocks := (List.range n).map fun i =>
    let b := slice r.payload (off + 256 * i) 256
    (b, crc32c b, r.at (off + 256 * n + 4 * i) 4)
  (blocks.map fun b => (b.1, b.2.1), !sealed || blocks.all fun b => b.2.1 = b.2.2)

/-- The length of a payload with `n` blocks after a header of `off` bytes (R355). -/
def blocksLen (r : Request) (off n flags : Nat) : Option Nat :=
  exactly r (off + n * (256 + 4 * (flags % 2)))

/-- A host seal differs (R24): nothing is written, and one report is made. -/
def State.sealRefused (s : State) (t : Nat) : Answer := .fail (s.report 3 false 0xFFF t) .sealMismatch 0

/-! ### LIB_WRITE and LIB_READ -/

/-- LIB_WRITE (R24, R204, R230, R242). -/
def libWriteCommand (r : Request) (s : State) : Command :=
  let t := r.at 0 1
  let first := r.at 2 2
  let n := r.at 4 2
  { frame := blocksLen r 8 n (r.at 1 1), access := accessIf (s.owns r t), modes := modesCPRS, refused := false,
    checks := [badAt 0 (16 ≤ t), badAt 1 (1 < r.at 1 1),
      badAt 2 (16384 ≤ first || 16384 < first + n
        || anyBlock first n fun b => s.memory.libUnusable.contains (16384 * t + b)),
      badAt 4 (n = 0 || 15 < n), r.rsv 6 2,
      (s.anyActive t fun g => overlaps first n g.libFirst g.libBlocks, .refusedActive, 0)],
    act := fun s =>
      let (blocks, good) := payloadBlocks r 8 n (bit (r.at 1 1) 0)
      if good then
        .ok (((s.writeRows t first blocks).evict t fun g => overlaps first n g.libFirst g.libBlocks).askRows t
          libHostWrite n) []
      else s.sealRefused t }

/-- LIB_WRITE. -/
def execLibWrite (m : Fin 16) (s : State) : Result := .next (s.fresh.serve m 0x0203 libWriteCommand)

/-- LIB_READ (R230, R242): data, then seals. -/
def libReadCommand (r : Request) (s : State) : Command :=
  let t := r.at 0 1
  let first := r.at 2 2
  let n := r.at 4 2
  { frame := exactly r 8, access := accessIf (s.owns r t), modes := modesCPRSF, refused := false,
    checks := [badAt 0 (16 ≤ t), r.rsv 1 1, badAt 2 (16384 ≤ first),
      badAt 4 (n = 0 || 15 < n || 16384 < first + n), r.rsv 6 2],
    act := fun s =>
      if anyBlock first n (s.libBad t) then .fail s .faulted 0
      else .ok (s.askRows t libReadback n) (((List.range n).flatMap fun i => s.libRow t (first + i)) ++
        (List.range n).flatMap fun i => leBytes (s.libRowSeal t (first + i)) 4) }

/-- LIB_READ. -/
def execLibRead (m : Fin 16) (s : State) : Result := .next (s.fresh.serve m 0x0204 libReadCommand)

/-! ### Library parity (R242) -/

/-- The due SI of the first sample of a tone that a row holds: of an issued burst, or of a pulse that a
playback unit has still to issue. -/
def State.rowDue (s : State) (k row : Nat) : Option Nat :=
  let x := s.tone k
  let held := x.bursts.findSome? fun b =>
    if s.si < b.due + 32 * b.samples.length then
      ((List.range b.blocks.length).find? fun i => (b.blocks.getD i []).contains row).map fun i => b.due + 32 * i
    else none
  let coming := x.units.findSome? fun p =>
    ((List.range p.length).find? fun i => (p.libPtr + pulseIndex p.libLen p.length i) / 64 = row).map
      fun i => p.grid / 16 + 32 * (p.start + i)
  match held with
  | some d => some d
  | none => coming

/-- The channels of a tile that play a row go to zero from the row's first sample on, and the shot is void. -/
def State.parityTone (s : State) (t row : Nat) (probe : Bool) (u : Nat) : State :=
  match s.rowDue (toneKey t probe u) row with
  | some d => (s.zeroChannel (toneChannel t probe u) .parity d).voidShot t
  | none => s

/-- The same on every tone of the tile. -/
def State.parityZero (s : State) (t row : Nat) : State :=
  (List.range 16).foldl (fun s u => (s.parityTone t row false u).parityTone t row true u) s

/-- The bytes of a row become undefined (R242): free values. -/
def State.blurRow (s : State) (t row : Nat) : State :=
  { s with
    memory := { s.memory with
      lib := s.memory.lib.writeAll 0 (2 ^ 22 * t + 256 * row)
        ((List.range 256).map fun i => Config.freeByte (s.freeCount + i)) }
    freeCount := s.freeCount + 256 }

/-- A row's block is remapped to a spare row, or unusable where none remains. -/
def State.remapRow (s : State) (t row : Nat) : State :=
  let k := 16384 * t + row
  let s := { s with flash := { s.flash with
    libRetired := if s.flash.libRetired.contains k then s.flash.libRetired else s.flash.libRetired ++ [k] } }
  if s.get F.libStatus_SPARES_LEFT t = 0 then
    s.setMemory { s.memory with libUnusable :=
      if s.memory.libUnusable.contains k then s.memory.libUnusable else s.memory.libUnusable ++ [k] }
  else
    (s.put F.libStatus_SPARES_LEFT t (s.get F.libStatus_SPARES_LEFT t - 1)).setMemory { s.memory with
      libPoison := if s.memory.libPoison.contains k then s.memory.libPoison else s.memory.libPoison ++ [k] }

/-- A row's block is retired: the spare row holds undefined data (R242). -/
def State.retireRow (s : State) (t row : Nat) : State := (s.blurRow t row).remapRow t row

/-- A lasting parity error of a row: on one during playback the segment in play is not resident either. -/
def State.libLasting (s : State) (t row : Nat) (playback : Bool) : State :=
  let s := s.count F.libStatus_PARITY_LASTING t
  let s := (s.raise (896 + t) 1).report 5 true (896 + t) t row
  let s := (s.retireRow t row).evict t fun g => overlaps row 1 g.libFirst g.libBlocks
  if playback then (s.parityZero t row).dropSegment t (s.get F.runStatus_SEG_ID t) else s

/-- LIB_PARITY_ERROR (R242). -/
def execLibParityError (t : Fin 16) (row : BitVec 14) (lasting playback : Bool) (s : State) : Result :=
  let s := s.fresh
  .next (if s.mode = .reset then s
    else if lasting then s.libLasting t row.toNat playback
    else ((s.count F.libStatus_PARITY_TRANSIENT t).raise (896 + t) 0).report 5 false (896 + t) t row.toNat)

/-! ### The stream store (R232, R240, R241) -/

/-- The page of a byte address. -/
def pageOf (a : Nat) : Nat := a / 4096

/-- A beat of the store is marked poisoned: its page is remapped and not yet written in full, or unusable. -/
def State.beatPoisoned (s : State) (a : Nat) : Bool :=
  (s.memory.pagePoison.find (pageOf a)).isSome || s.memory.pageUnusable.contains (pageOf a)

/-- Some beat of `n` bytes from `a` is marked poisoned. -/
def State.storePoisoned (s : State) (a n : Nat) : Bool :=
  (List.range (pageOf (a + n - 1) + 1 - pageOf a)).any fun i =>
    0 < n && s.beatPoisoned (4096 * (pageOf a + i))

/-- A host transfer of `n` bytes from `a` touches the Jutan region, an unusable page, or addresses beyond the
store (R232, R241). -/
def State.storeRefuses (s : State) (a n : Nat) : Bool :=
  a < Config.jutanRegion || Config.storeBytes < a + n
    || (List.range (pageOf (a + n - 1) + 1 - pageOf a)).any fun i =>
      0 < n && s.memory.pageUnusable.contains (pageOf a + i)

/-- The bytes of the store. -/
def State.storeBytes (s : State) (a n : Nat) : List Byte := s.memory.store.readAll 0 a n

/-- The seal of a 256-byte block of the store. -/
def State.storeBlockSeal (s : State) (block : Nat) : Nat := s.memory.storeSeal.read zeroSeal block

/-- The beats of a block are written; a remapped page whose 64 beats have all been written stops reading as
poisoned (R241). -/
def healPage (m : SMap (List Nat)) (block : Nat) : SMap (List Nat) :=
  let page := block / 16
  match m.find page with
  | none => m
  | some l =>
    let l := (List.range 4).foldl (fun l i =>
      let beat := 4 * (block % 16) + i
      if l.contains beat then l else l ++ [beat]) l
    if 64 ≤ l.length then m.drop page else m.list page l

/-- A 256-byte block of the store is written with its seal. -/
def State.writeBlock (s : State) (block : Nat) (data : List Byte) (sealWord : Nat) : State :=
  s.setMemory { s.memory with
    store := s.memory.store.writeAll 0 (256 * block) data
    storeSeal := s.memory.storeSeal.write zeroSeal block sealWord
    pagePoison := healPage s.memory.pagePoison block }

/-- Consecutive blocks with the seals that belong to them. -/
def State.writeBlocks (s : State) (block : Nat) (data : List (List Byte)) : State :=
  match data with
  | [] => s
  | b :: r => (s.writeBlock block b (crc32c b)).writeBlocks (block + 1) r

/-- A page is retired (R241): remapped to a spare page, or unusable where none remains. -/
def State.retirePage (s : State) (page : Nat) : State :=
  let s := { s with flash := { s.flash with
    pagesRetired := if s.flash.pagesRetired.contains page then s.flash.pagesRetired
      else s.flash.pagesRetired ++ [page] } }
  if s.get F.storeStatus_SPARES_LEFT = 0 then
    s.setMemory { s.memory with pageUnusable :=
      if s.memory.pageUnusable.contains page then s.memory.pageUnusable else s.memory.pageUnusable ++ [page] }
  else
    let s := (s.put F.storeStatus_SPARES_LEFT 0 (s.get F.storeStatus_SPARES_LEFT - 1)).raise 913
    s.setMemory { s.memory with pagePoison := s.memory.pagePoison.list page [] }

/-- STORE_UNCORRECTABLE (R240, R241): a single-bit error of a word is corrected and written back; an uncorrectable one is
classed after one re-read of the beat. -/
def execStoreUncorrectable (beat : BitVec 28) (e : EccError) (s : State) : Result :=
  let s := s.fresh
  let page := beat.toNat / 64
  .next (if s.mode = .reset || !s.storeOpen then s
    else match e with
      | .single => s.count F.storeStatus_CORRECTED 0
      | .transient => ((s.count F.storeStatus_TRANSIENT 0).raise 912 0).report 4 false 912 page (64 * beat.toNat)
      | .lasting =>
        (((s.count F.storeStatus_LASTING 0).raise 912 1).report 4 true 912 page (64 * beat.toNat)).retirePage page)

end Sys2Proof.Machine
end

