-- ==== Sys2Proof/Machine/Capture.lean ====
section
/-! DEFINITION. The capture writer (R276 to R283, R300): chunks, drops, the capture buffer and the AUTO
submission. -/

namespace Sys2Proof.Machine

/-- The kinds of R277. -/
def kindDecision : Nat := 1
def kindIq : Nat := 2
def kindSnapshot : Nat := 3
def kindHistogram : Nat := 4

/-- What a chunk header says (R278), beyond CHUNK_SEQ. -/
structure ChunkHead where
  kind : Nat
  tile : Nat
  blocks : Nat
  shot : Nat
  base : Nat
  wall : Nat
  void : Bool
  last : Bool
  decim : Nat
  mask : Nat
  paramA : Nat
  paramB : Nat
  firstSi : Nat
  /-- a raw sample failed its seal (R23); the header of R278 has no bit for it -/
  bad : Bool := false
deriving DecidableEq, Repr

/-- The header of R278. -/
def ChunkHead.word (h : ChunkHead) (seq : Nat) : Nat :=
  h.kind + (h.tile % 16) <<< 8 + (h.blocks % 1024) <<< 16 + (seq % 2 ^ 32) <<< 32
    + (h.shot % 2 ^ 32) <<< 64 + (h.base % 2 ^ 64) <<< 96 + (h.wall % 2 ^ 64) <<< 160
    + (if h.void then 1 else 0) <<< 224 + (if h.last then 1 else 0) <<< 225 + (h.decim % 8) <<< 226
    + (h.mask % 2 ^ 16) <<< 232 + (h.paramA % 2 ^ 32) <<< 248 + (h.paramB % 2 ^ 32) <<< 280
    + (h.firstSi % 2 ^ 64) <<< 312

/-- The capture buffer in bytes, and its first byte (R302). -/
def State.capSize (s : State) : Nat := 4096 * s.get F.capControl_CAP_SIZE
def State.capBase (s : State) : Nat := 4096 * s.get F.capControl_CAP_BASE

/-- The bytes that chunks hold in staging. -/
def State.stagedBytes (s : State) : Nat := (s.capture.staging.map Chunk.bytes).sum

/-- Free space in the ring, less what is staged for it (R282). -/
def State.capFree (s : State) : Nat :=
  s.capSize - (s.get F.capStatus_CAP_WP - s.get F.capStatus_CAP_RP) - s.stagedBytes

/-- A chunk of a kind and size is taken into staging: it fits the ring, under RESERVE where it is an IQ or
SNAPSHOT chunk; shedding stops those (R283); in self-refresh it must fit the 2 MiB staging buffer. -/
def State.chunkFits (s : State) (kind bytes : Nat) : Bool :=
  (if isStream kind then
      bytes + 65536 * s.get F.capControl_RESERVE ≤ s.capFree && !s.flag F.capStatus_SHED_STOP
    else bytes ≤ s.capFree)
    && (s.storeOpen || s.stagedBytes + bytes ≤ 2097152)

/-- CHUNK_SEQ of the next chunk of a tile and kind (R278). -/
def State.chunkSeq (s : State) (kind tile : Nat) : Nat := s.capture.seqs.read 0 (16 * kind + tile)

/-- The tile holds its snapshot no more (R125): the capture writer has taken its last block, or will not take it. -/
def State.endSnapBusy (s : State) (kind tile : Nat) : State :=
  if kind = kindSnapshot then s.putFlag F.acqStatus_SNAP_BUSY tile false else s

/-- A chunk is formed (R276, R277): nothing while CAP_SIZE is 0; otherwise CHUNK_SEQ advances, and the chunk
is staged or dropped. -/
def State.formChunk (s : State) (h : ChunkHead) (data : List Byte) : State :=
  if s.get F.capControl_CAP_SIZE = 0 then s.endSnapBusy h.kind h.tile
  else
    let seq := s.chunkSeq h.kind h.tile
    let s := s.setCapture { s.capture with
      seqs := s.capture.seqs.write 0 (16 * h.kind + h.tile) ((seq + 1) % 2 ^ 32) }
    if s.chunkFits h.kind (256 * (h.blocks + 1)) then
      let c : Chunk :=
        { kind := h.kind, tile := h.tile, seq, blocks := h.blocks,
          image := slice (leBytes (h.word seq) 256 ++ data) 0 (256 * (h.blocks + 1)), at_ := 0,
          submitted := false, done := false, bad := h.bad }
      s.setCapture { s.capture with staging := s.capture.staging ++ [c] }
    else (s.dropChunk h.kind h.tile h.shot).endSnapBusy h.kind h.tile

/-- The stream of an AUTO job (R300). -/
def autoStream (kind tile : Nat) : Nat :=
  (if kind = 2 then 0 else if kind = 1 then 16 else if kind = 3 then 32 else 48) + tile

/-- The descriptor of the AUTO job of a chunk (R290, R300). -/
def State.autoDesc (s : State) (c : Chunk) : Nat :=
  c.seq % 2 ^ 16 + autoStream c.kind c.tile <<< 16 + c.tile <<< 28
    + (if c.kind = 2 then 1 else 0) <<< 32 + (c.blocks + 1) <<< 40
    + (s.capBase + c.at_ % s.capSize) <<< 64 + (c.blocks + 1) <<< 128

/-- The chunk at a position is taken off the list of those not yet submitted. -/
def State.markSubmitted (s : State) (at_ : Nat) : State :=
  s.setCapture { s.capture with
    written := s.capture.written.map fun c => if c.at_ = at_ then { c with submitted := true } else c }

/-- AUTO submits a written chunk as one job, or discards it where its queue is not enabled (R300). -/
def State.autoSubmit (s : State) (c : Chunk) : State :=
  let s := s.markSubmitted c.at_
  if s.flag F.outQueue_ENABLE c.tile then
    let j : Job :=
      { desc := s.autoDesc c, fn := 0, auto := true, chunkAt := c.at_, faults := 0, waitSpace := false, waitFault := false }
    s.setCapture { s.capture with jobs := s.capture.jobs ++ [j] }
  else (s.dropChunk c.kind c.tile c.at_).consume c.at_

/-- AUTO submits the written chunks that have no job yet, oldest first, while fewer than 256 jobs wait. -/
def State.autoFeed (s : State) : State :=
  if s.flag F.capControl_AUTO then
    (s.capture.written.filter fun c => !c.submitted).foldl (fun s c =>
      if s.capture.jobs.length < 256 then s.autoSubmit c else s) s
  else s

/-- The blocks of a chunk go to the ring, modulo CAP_SIZE (R282). -/
def State.ringBlocks (s : State) (wp i : Nat) (blocks : List (List Byte)) : State :=
  match blocks with
  | [] => s
  | b :: r =>
    (s.writeBlock ((s.capBase + (wp + 256 * i) % s.capSize) / 256) b (crc32c b)).ringBlocks wp (i + 1) r

/-- A staged chunk is written (R276, R282): CAP_WP advances past it and a DECISION chunk raises
RECORD_BLOCK_READY; a written SNAPSHOT chunk ends SNAP_BUSY (R125). -/
def State.writeChunk (s : State) (c : Chunk) : State :=
  let wp := s.get F.capStatus_CAP_WP
  let s := s.ringBlocks wp 0 (pieces 256 (c.blocks + 1) c.image)
  let s := s.moveBeats captureWriter (4 * (c.blocks + 1))
  let s := s.put F.capStatus_CAP_WP 0 (wp + c.bytes)
  let s := s.setCapture { s.capture with
    staging := s.capture.staging.drop 1
    written := s.capture.written ++ [{ c with at_ := wp, image := [] }] }
  ((if c.kind = 1 then s.raise 978 else s).endSnapBusy c.kind c.tile).autoFeed

/-- CHUNK_WRITTEN (R276): the oldest staged chunk, while the stream store makes grants (R283). -/
def execChunkWritten (s : State) : Result :=
  let s := s.fresh
  .next (match s.capture.staging with
    | c :: _ => if s.mode ≠ .reset && s.storeOpen then s.writeChunk c else s
    | [] => s)

/-- The bytes of a histogram's rows `first` to `first + r − 1`: 3 a bin (R277). -/
def State.histBytes (s : State) (slot first r : Nat) : List Byte :=
  (List.range (64 * r)).flatMap fun i => leBytes (s.readout.bins.read 0 (4096 * slot + 64 * first + i)) 3

/-- A free bit. The manual does not say how LAST is known for a SNAPSHOT or HISTOGRAM chunk (R278). -/
def State.freeBit (s : State) : Bool × State := (s.free.1.getLsbD 0, s.free.2)

/-- The header fields of the shot that a tile plays, for chunks that belong to no ShotLog. -/
def State.shotHead (s : State) (t kind blocks : Nat) (last : Bool) : ChunkHead :=
  let r := s.tile t
  let base := if r.inShot then r.base else 0
  { kind, tile := t, blocks, shot := s.get F.runStatus_SHOT_SEQ t, base,
    wall := if r.inShot then s.wallAt base else 0, void := false, last, decim := 0, mask := 0,
    paramA := 0, paramB := 0, firstSi := 0 }

/-- HIST_DUMP (R277, R282): one HISTOGRAM chunk. -/
def histDumpCommand (r : Request) (s : State) : Command :=
  let slot := r.at 0 1
  { frame := exactly r 4, access := accessIf (s.owns r (slot / 16)), modes := modesPRS, refused := false,
    checks := [r.rsv 1 3, (s.get F.capControl_CAP_SIZE = 0, .noSpace, 0)],
    act := fun s =>
      let (last, s) := s.freeBit
      let seq := s.chunkSeq kindHistogram (slot / 16)
      let h := { s.shotHead (slot / 16) kindHistogram 48 last with
        paramA := slot, paramB := s.get F.histStatus_BINNED slot }
      .ok (s.formChunk h (s.histBytes slot 0 64)) (leBytes seq 4) }

/-- HIST_DUMP. -/
def execHistDump (m : Fin 16) (s : State) : Result := .next (s.fresh.serve m 0x0507 histDumpCommand)

end Sys2Proof.Machine
end

