-- ==== Sys2Proof/Machine/Readout.lean ====
section
/-! DEFINITION. Readout (R111 to R133) and Pounce (R134 to R147): windows, points, discriminants, decisions,
records, snapshots, histograms, weight sets and model fits. -/

namespace Sys2Proof.Machine

/-! ### Windows (R117 to R121) -/

/-- The SI after the last ADC sample of point `k` of a window. -/
def Window.spanEnd (w : Window) (k : Nat) : Int := w.w + w.ofs + 128 * (k + 1 : Nat)

/-- How many points of a window can complete: L, or fewer where SHOT_END cuts it off (R118). -/
def Window.complete (w : Window) : Nat :=
  match w.cutAt with
  | none => w.len
  | some c => min w.len ((c - w.w - w.ofs) / 128).toNat

/-- The window is cut off before its last point. -/
def Window.trunc (w : Window) : Bool := w.complete < w.len

/-- An undecided window of a tone is open on the tile. -/
def Acq.openOn (a : Acq) (u : Nat) : Bool := a.windows.any fun w => w.tone = u && w.decided.isNone

/-- The first waiting window whose first sample has come and whose tone is free (R117, R119). -/
def Acq.ready (a : Acq) (si : Nat) : Option Window :=
  a.waiting.find? fun w => w.w + w.ofs < si + 16 && !a.openOn w.tone

/-- The list without the first window that equals `w`. -/
def removeWindow (w : Window) : List Window → List Window
  | [] => []
  | x :: r => if x = w then r else x :: removeWindow w r

/-- A snapshot starts, or its trigger is discarded while one is held (R125). -/
def State.startSnapshot (s : State) (t : Nat) (start : Nat) (event : Bool) (cause : Option (Nat × Nat)) : State :=
  if s.flag F.acqStatus_SNAP_BUSY t then s.count F.acqStatus_SNAP_DROP t
  else
    let r := s.tile t
    let base := if r.inShot then r.base else 0
    let x : Snapshot :=
      { start, event, len := s.get F.acqConfig_SNAP_LEN t, cause, shot := s.get F.runStatus_SHOT_SEQ t, base,
        wall := if r.inShot then s.wallAt base else 0 }
    (s.setAcq t { s.acq t with snapshot := some x }).putFlag F.acqStatus_SNAP_BUSY t true

/-- A window opens (R117, R125, R128). -/
def State.openWindow (s : State) (t : Nat) (w : Window) : State :=
  let a := s.acq t
  let slot := w.slot
  let earlier := (a.shots.find? fun l => l.shot = w.shot).map fun l => (l.opened.filter (· = slot)).length
  let shots := a.shots.map fun l => if l.shot = w.shot then { l with opened := l.opened ++ [slot] } else l
  let s := s.setAcq t { a with
    waiting := removeWindow w a.waiting, windows := a.windows ++ [{ w with ordinal := earlier.getD 0 }], shots }
  let s := (s.count F.acqStatus_WINDOWS t).raise (704 + 4 * t)
  if w.snap then s.startSnapshot t (w.w + w.ofs).toNat false none else s

/-- WINDOW_OPEN (R117). A window whose tone still has an undecided window waits for that decision, which
discards it or lets it open (R119). -/
def execWindowOpen (t : Fin 16) (s : State) : Result :=
  let s := s.fresh
  .next (match (s.acq t).ready s.si with
    | some w => s.openWindow t w
    | none => s)

/-- A sample lies in the spans of a window. -/
def Window.covers (w : Window) (x : Nat) : Bool :=
  w.w + w.ofs ≤ x && x < w.w + w.ofs + 128 * w.len && (match w.cutAt with | none => true | some c => (x : Int) < c)

/-- An overrange sample in the spans of a window is marked in it. -/
def Window.overrange (w : Window) (x : Nat) : Window :=
  if w.covers x && w.ovrAt.isNone then { w with ovrAt := some x } else w

/-- An overrange sample is marked in the windows whose spans include it (R111), one that waits for the decision of an
earlier window on its tone among them. -/
def State.markOverrange (s : State) (t x : Nat) : State :=
  let a := s.acq t
  s.setAcq t { a with
    waiting := a.waiting.map fun w => w.overrange x, windows := a.windows.map fun w => w.overrange x }

/-- ADC_OVERRANGE (R111, R112, R128): the first of a tile in a shot raises ACQ_FAULT. -/
def execAdcOverrange (t k : Fin 16) (s : State) : Result :=
  let s := s.fresh
  .next (if s.flag F.acqConfig_ADC_ENABLE t && s.flag F.gridStatus_PLL_LOCK then
    let s := (s.count F.acqStatus_OVR_COUNT t).markOverrange t (s.si + k)
    let r := s.tile t
    if r.inShot && r.endTick.isNone && !(s.acq t).overranged then
      (s.setAcq t { s.acq t with overranged := true }).raise (707 + 4 * t)
    else s
  else s)

/-! ### The running sum (R121, R122) -/

/-- Weight `k` of a window's set: real and imaginary part. -/
def Window.weight (w : Window) (k : Nat) : Int × Int :=
  let x := w.weights.read 0 k
  (signed (bits x 0 16) 16, signed (bits x 16 16) 16)

/-- The integrated IQ point: S shifted right by INT_SHIFT, saturated to 32 bits (R121). -/
def Window.scaled (w : Window) : (Int × Int) × Bool :=
  let i := w.sumI / 2 ^ w.shift
  let q := w.sumQ / 2 ^ w.shift
  let r := (satSigned i 32, satSigned q 32)
  (r, r ≠ (i, q))

/-- A point against the demodulation reference A(SI_ref) + PHASE_REF × 2¹⁶ (R115): the point as it was demodulated
against FTW × SI, turned by `turn`, 16 bits a component (R116). -/
def referPoint (turn : Nat) (p : Int × Int) : Int × Int := (sat16 (rotate p turn (2 ^ 48))).1

/-- The window after its next point. -/
def Window.addPoint (w : Window) (i q : Int) (sealBad : Bool) : Window :=
  let (a, b) := w.weight w.points
  let p := referPoint w.turn (i, q)
  let w := { w with
    points := w.points + 1, sumI := w.sumI + a * p.1 - b * p.2, sumQ := w.sumQ + a * p.2 + b * p.1
    sealBad := w.sealBad || sealBad }
  { w with sat := w.sat || w.scaled.2 }

/-! ### Discriminants (R134 to R138, R144) -/

/-- A progress part in Q2.14, (n + 1) ÷ L where it is 0 (R134). -/
def progressPart (x n len : Nat) : Rat :=
  if x = 0 then ((n + 1 : Nat) : Rat) / (len : Nat) else (x : Nat) / (16384 : Nat)

/-- a_n and b_n of a window. -/
def Window.progress (w : Window) (n : Nat) : Rat × Rat :=
  let x := w.weights.read 0 (1600 + n)
  (progressPart (bits x 0 16) n w.len, progressPart (bits x 16 16) n w.len)

/-- The centre of a state in a model image. -/
def centre (model h : Nat) : Rat × Rat :=
  ((signed (bits model (64 * h) 32) 32 : Int), (signed (bits model (64 * h + 32) 32) 32 : Int))

/-- xᵀ Σ⁻¹ y under a model (R135). -/
def sigmaForm (model : Nat) (x y : Rat × Rat) : Rat :=
  let si : Rat := (bits model 192 32 : Nat)
  let sq : Rat := (bits model 224 32 : Nat)
  let rho : Rat := (signed (bits model 256 16) 16 : Int) / (32768 : Nat)
  (x.1 * y.1 / (si * si) - rho * (x.1 * y.2 + x.2 * y.1) / (si * sq) + x.2 * y.2 / (sq * sq)) / (1 - rho * rho)

/-- σ_I, σ_Q and ρ of a model image. -/
def covariance (model : Nat) : Nat := bits model 192 80

/-- The part of a discriminant at point n that the point and a centre give (R135), in single precision. -/
def Window.signal (w : Window) (n : Nat) (mu : Rat × Rat) : Rat :=
  if mu = (0, 0) then 0
  else
    let (a, b) := w.progress n
    let z := w.scaled.1
    single (a / b * sigmaForm w.model mu (z.1, z.2) - a * a / b * (sigmaForm w.model mu mu / 2)
      + Config.discrDeviation a b mu (covariance w.model) z.1 z.2)

/-- The log prior of a state, in units of 1/64 nat. -/
def prior (model h : Nat) : Rat := (signed (bits model (272 + 16 * h) 16) 16 : Int) / (64 : Nat)

/-- d_h at point n (R135) in single precision. DEDUCED (log 104): the prior is added last, as the formula is written, so
states with one centre differ by their priors alone (R146). -/
def Window.discriminant (w : Window) (n h : Nat) : Rat := single (w.signal n (centre w.model h) + prior w.model h)

/-- The states under consideration. -/
def Window.states (w : Window) : List Nat := if bit w.pounce 23 then [0, 1, 2] else [0, 1]

/-- The best state and its discriminant; a tie goes to the lowest number. -/
def Window.best (w : Window) (n : Nat) : Nat × Rat :=
  w.states.foldl (fun acc h =>
    if acc.2 < w.discriminant n h then (h, w.discriminant n h) else acc) (0, w.discriminant n 0)

/-- The margin M(n) (R135): the best discriminant less the next best. -/
def Window.margin (w : Window) (n : Nat) : Rat :=
  let (h, d) := w.best n
  match (w.states.filter (· ≠ h)).map fun j => w.discriminant n j with
  | [] => 0
  | x :: r => single (d - r.foldl max x)

/-- LAMBDA, MIN_DWELL, EARLY_EN and END_MODE of a window's settings (R145). -/
def Window.lambda (w : Window) : Nat := bits w.pounce 0 10
def Window.dwell (w : Window) : Nat := bits w.pounce 10 11
def Window.early (w : Window) : Bool := bit w.pounce 21
def Window.endBest (w : Window) : Bool := bit w.pounce 22

/-- The model may be used. -/
def Window.valid (w : Window) : Bool := bit w.model 320

/-- M reaches Λ. -/
def Window.reaches (w : Window) (m : Rat) : Bool := ((w.lambda : Nat) : Rat) / (64 : Nat) ≤ m

/-- MARGIN of the record (R142). -/
def marginCode (m : Rat) : Nat := min 65535 (m * (64 : Nat)).floor.toNat

/-- The residual of a check window at its last point (R144), in single precision: 0 where the point lies at its mean. -/
def Window.residual (w : Window) (n : Nat) : Rat :=
  let (a, b) := w.progress n
  let mu := centre w.model (w.best n).1
  let z := w.scaled.1
  let d : Rat × Rat := (z.1 - a * mu.1, z.2 - a * mu.2)
  if d = (0, 0) then 0
  else single (sigmaForm w.model d d / b + Config.residDeviation a b mu (covariance w.model) z.1 z.2)

/-- RESID_SUM's term, and whether r is 13.8125 or more. -/
def Window.check (w : Window) (n : Nat) : Option (Nat × Bool) :=
  if !w.early && w.valid && w.lambda ≠ 0 && !w.trunc && !w.sealBad then
    let r := w.residual n
    some ((r * (64 : Nat)).floor.toNat, decide ((221 : Rat) / 16 ≤ r))
  else none

/-- The decision at the last point `n` (R138, R139). -/
def Window.decideEnd (w : Window) (n : Nat) : Window :=
  if w.lambda = 0 then { w with decided := some (3, false, false, n, 0, false) }
  else if !w.valid then { w with decided := some (3, false, false, n, 0, true) }
  else
    let m := w.margin n
    let d :=
      if w.reaches m then ((w.best n).1, false)
      else if w.endBest then ((w.best n).1, true)
      else (3, false)
    { w with decided := some (d.1, d.2, false, n, marginCode m, false), resid := w.check n }

/-- The decision of a window that no point completed (R139). -/
def Window.decideNone (w : Window) : Window :=
  { w with decided := some (3, false, false, 2047, 0, w.lambda ≠ 0 && !w.valid) }

/-- The window stops early at point `n` (R137), which is not its last one: the last complete point of a window that
SHOT_END cuts off is decided under R138. -/
def Window.stopsAt (w : Window) (n : Nat) : Bool :=
  w.lambda ≠ 0 && w.valid && w.early && decide (max 1 w.dwell ≤ n + 1 ∧ n + 1 < w.complete)
    && w.reaches (w.margin n)

/-- What Pounce makes of a window after point `n` (R137 to R139). A stop closes the window before any SHOT_END that
would cut it off later (R118). -/
def Window.judge (w : Window) (n : Nat) (sealBad : Bool) : Window :=
  if w.lambda ≠ 0 && w.valid && sealBad then
    { w with cutAt := none, decided := some (3, false, false, n, 0, false) }
  else if w.stopsAt n then
    { w with cutAt := none, decided := some ((w.best n).1, false, true, n, marginCode (w.margin n), false) }
  else if n + 1 = w.complete then w.decideEnd n
  else w

/-- The SI at which a decided window has closed (R118): SHOT_END where that cut it off, else the end of the last
point of its decision. -/
def Window.closedAt (w : Window) : Int :=
  match w.decided with
  | some (_, _, _, stop, _, _) => if w.trunc then w.cutAt.getD 0 else w.spanEnd stop
  | none => 0

/-- The first undecided window of a tone, replaced. -/
def replaceOpen (u : Nat) (x : Window) : List Window → List Window
  | [] => []
  | w :: r => if w.tone = u && w.decided.isNone then x :: r else w :: replaceOpen u x r

/-- The later ACQUIRE operations whose first sample lies within the decided spans are discarded (R119); where SHOT_END
cut the window off before its first point, those that came before the cut. -/
def Window.absorbs (w x : Window) : Bool :=
  x.tone = w.tone && (match w.decided with
    | some (_, _, _, stop, _, _) => x.w + x.ofs < (if stop = 2047 then w.cutAt.getD 0 else w.spanEnd stop)
    | none => false)

/-- A window that has been decided closes (R118, R128). The input that a discarded ACQUIRE armed stays armed for
this window (R191). -/
def State.closeWindow (s : State) (t u : Nat) (w : Window) : State :=
  let a := s.acq t
  let gone := a.waiting.filter w.absorbs
  let w := { w with overlaps := w.overlaps + gone.length }
  let r := s.tile t
  let inputs := r.inputs.map fun x =>
    if gone.any fun y => y.serial = x.2.1 then (x.1, w.serial, x.2.2) else x
  let s := s.setTile t { r with inputs }
  let windows := replaceOpen u w a.windows
  let s := s.setAcq t { a with waiting := a.waiting.filter fun x => !w.absorbs x, windows }
  if windows.any fun x => x.decided.isNone && x.w + x.ofs < w.closedAt then s else s.raise (705 + 4 * t)

/-- A point of the open window of a tone (R120, R121, R137). -/
def State.evaluate (s : State) (t u : Nat) (w : Window) (i q : Int) (sealBad : Bool) : State :=
  let x := (w.addPoint i q sealBad).judge w.points sealBad
  if x.decided.isSome then s.closeWindow t u x
  else s.setAcq t { s.acq t with windows := replaceOpen u x (s.acq t).windows }

/-- POUNCE_EVALUATE (R137): the next point of the open window of a tone, 32 ticks after its last sample. -/
def execPounceEvaluate (t u : Fin 16) (i q : BitVec 16) (sealBad : Bool) (s : State) : Result :=
  let s := s.fresh
  .next (match (s.acq t).windows.find? fun w => w.tone = u.val && w.decided.isNone with
    | some w =>
      if w.points < w.complete && w.spanEnd w.points + 512 ≤ s.si then
        s.evaluate t u w i.toInt q.toInt sealBad
      else s
    | none => s)

/-! ### Decisions (R140 to R142) -/

/-- The decision of a window, once made. -/
structure Decision where
  outcome : Nat
  lowConf : Bool
  early : Bool
  stop : Nat
  margin : Nat
  invalid : Bool
deriving DecidableEq, Repr

/-- The decision of a window. -/
def Window.decision (w : Window) : Option Decision :=
  w.decided.map fun (o, l, e, n, m, i) => ⟨o, l, e, n, m, i⟩

/-- The decision record (R142). VOID is set when the records are passed. -/
def Window.record (w : Window) (d : Decision) : Nat :=
  let z := if d.stop = 2047 then (0, 0) else w.scaled.1
  let ovr := match w.ovrAt with | some x => decide ((x : Int) < w.spanEnd d.stop) | none => false
  unsigned z.1 32 + unsigned z.2 32 <<< 32 + d.outcome <<< 64 + (if d.lowConf then 1 else 0) <<< 66
    + (if d.early then 1 else 0) <<< 67 + (if w.trunc then 1 else 0) <<< 68 + (if ovr then 1 else 0) <<< 70
    + (if w.sat then 1 else 0) <<< 71 + (if w.sealBad then 1 else 0) <<< 72 + d.stop <<< 73
    + w.slot <<< 84 + min w.ordinal 3 <<< 92 + d.margin <<< 94 + (w.shot % 2 ^ 18) <<< 110

/-- The Pounce status of a slot after a decision (R147). -/
def State.countDecision (s : State) (slot : Nat) (d : Decision) : State :=
  let s := s.count F.pounceStatus_DECISIONS slot
  let s := if d.early then s.count F.pounceStatus_EARLY_STOPS slot else s
  let s := if d.lowConf || d.outcome = 3 then s.count F.pounceStatus_LOW_CONF_COUNT slot else s
  let s := if d.invalid then s.count F.pounceStatus_MODEL_INVALID slot else s
  ((s.put F.pounceStatus_LAST_OUTCOME slot d.outcome).putFlag F.pounceStatus_LAST_LOW_CONF slot d.lowConf).put
    F.pounceStatus_LAST_STOP slot d.stop

/-- What a window leaves in its shot's log (R127, R141, R144): its record, where fewer than 1,024 stand there;
its point, where fewer than 4 of its slot wait; its residual. -/
def ShotLog.take (l : ShotLog) (w : Window) (d : Decision) : ShotLog :=
  let l := if l.recs.length < 1024 then { l with recs := l.recs ++ [w.record d] } else l
  let mine := l.points.filter fun p => p.1 = w.slot
  let l := if bit w.hist 69 && d.stop ≠ 2047 && mine.length < 4 then
      { l with points := l.points ++ [(w.slot, w.scaled.1.1, w.scaled.1.2, w.hist)] } else l
  match w.resid with
  | some (r, out) => { l with resids := l.resids ++ [(w.slot, r, out)] }
  | none => l

/-- The window's record, point and residual join its shot's log; REC_OVER and HIST_OVER count what is not
kept. -/
def State.logDecision (s : State) (t : Nat) (w : Window) (d : Decision) : State :=
  let a := s.acq t
  match a.shots.find? fun l => l.shot = w.shot with
  | none => s
  | some l =>
    let s := if l.recs.length < 1024 then s else s.count F.tilePounce_REC_OVER t
    let spill := bit w.hist 69 && d.stop ≠ 2047 && 4 ≤ (l.points.filter fun p => p.1 = w.slot).length
    let s := if spill then s.count F.histStatus_HIST_OVER w.slot else s
    s.setAcq t { a with shots := a.shots.map fun x => if x.shot = w.shot then x.take w d else x }

/-- A decision sets the decision input that its ACQUIRE armed and enters the shot's decisions (R190, R191),
while its shot is the one in play. -/
def TileRun.decide (r : TileRun) (slot serial : Nat) (d : Decision) : TileRun :=
  let inputs := r.inputs.map fun x =>
    if x.1 = slot && x.2.1 = serial then (x.1, x.2.1, some (d.outcome, d.lowConf)) else x
  { r with
    inputs
    decisions := r.decisions ++ [(slot, d.outcome)] }

/-- The discards that a window has absorbed are counted and raise ACQ_FAULT (R119). -/
def State.countOverlaps (s : State) (t n : Nat) : State :=
  match n with
  | 0 => s
  | k + 1 => ((s.count F.acqStatus_ACQ_OVERLAP t).raise (707 + 4 * t)).countOverlaps t k

/-- A decision becomes ready (R140). -/
def State.passDecision (s : State) (t : Nat) (w : Window) (d : Decision) : State :=
  let s := s.setAcq t { s.acq t with windows := removeWindow w (s.acq t).windows }
  let s := (s.countDecision w.slot d).logDecision t w d
  let s := s.countOverlaps t w.overlaps
  let r := s.tile t
  let current := r.inShot && s.get F.runStatus_SHOT_SEQ t = w.shot % 2 ^ 32
  let s := if current then s.setTile t (r.decide (w.slot % 16) w.serial d) else s
  if w.trunc then s else s.raise w.slot d.outcome (if d.lowConf then 1 else 0)

/-- The instant at which a decision is ready: 34 ticks after the last sample of its point, or the cut where no
point completed. -/
def Window.readyAt (w : Window) (d : Decision) : Int :=
  if d.stop = 2047 then w.cutAt.getD 0 else w.spanEnd d.stop + 544

/-- A cut-off window whose complete points have all been evaluated is decided (R118, R139). -/
def Window.settle (w : Window) : Window :=
  if w.decided.isSome || w.cutAt.isNone || w.complete ≠ w.points then w
  else if w.points = 0 then w.decideNone
  else w.decideEnd (w.points - 1)

/-- A cut-off window closes where that decides it. -/
def State.settleWindow (s : State) (t u : Nat) (w : Window) : State :=
  if w.decided.isNone && w.settle.decided.isSome then s.closeWindow t u w.settle else s

/-- DECISION_READY (R140): the first window of a tone that is decided, or that SHOT_END has cut off. -/
def execDecisionReady (t u : Fin 16) (s : State) : Result :=
  let s := s.fresh
  .next (match (s.acq t).windows.find? fun w => w.tone = u.val with
    | none => s
    | some w =>
      let s := s.settleWindow t u w
      match (s.acq t).windows.find? fun w => w.tone = u.val with
      | none => s
      | some w => match w.decision with
        | some d => if w.readyAt d ≤ s.si then s.passDecision t w d else s
        | none => s)

/-! ### Records passed (R126, R127, R141, R144) -/

/-- A point is binned (R126). -/
def State.binPoint (s : State) (p : Nat × Int × Int × Nat) : State :=
  let (slot, i, q, cfg) := p
  let w : Int := 2 ^ bits cfg 64 5
  let bi := (i - signed (bits cfg 0 32) 32) / w + 32
  let bq := (q - signed (bits cfg 32 32) 32) / w + 32
  if 0 ≤ bi && bi < 64 && 0 ≤ bq && bq < 64 then
    let k := 4096 * slot + 64 * bi.toNat + bq.toNat
    let n := satAdd (s.readout.bins.read 0 k) 1 24
    let s := { s with readout := { s.readout with bins := s.readout.bins.write 0 k n } }
    let s := s.count F.histStatus_BINNED slot
    if n = 16777215 then s.putFlag F.histStatus_SAT slot true else s
  else s.count F.histStatus_OUTSIDE slot

/-- A residual is counted (R144). -/
def State.countResid (s : State) (x : Nat × Nat × Bool) : State :=
  let s := (s.count F.pounceStatus_RESID_SUM x.1 x.2.1).count F.pounceStatus_RESID_N x.1
  if x.2.2 then s.count F.pounceStatus_RESID_OUT x.1 else s

/-- The DECISION chunk of a shot (R277, R278): its records with VOID, 16 to a block. -/
def State.decisionChunk (s : State) (t : Nat) (l : ShotLog) : State :=
  let recs := l.recs.map fun r => setBits r 69 1 (if l.void then 1 else 0)
  let blocks := (recs.length + 15) / 16
  s.formChunk
    { kind := kindDecision, tile := t, blocks, shot := l.shot, base := l.base, wall := l.wall, void := l.void,
      last := true, decim := 0, mask := 0, paramA := recs.length, paramB := 0, firstSi := 0 }
    (slice (recs.flatMap fun r => leBytes r 16) 0 (256 * blocks))

/-- The mode allows DECISION and IQ chunks (R279). -/
def State.capturing (s : State) : Bool := s.mode = .run || s.mode = .survey

/-- The records of a shot are passed. -/
def State.passRecords (s : State) (t : Nat) (l : ShotLog) : State :=
  let s := s.setAcq t { s.acq t with shots := (s.acq t).shots.filter fun x => x.shot ≠ l.shot }
  let s := if l.keep && s.capturing then s.decisionChunk t l else s
  if l.void then s else l.resids.foldl State.countResid (l.points.foldl State.binPoint s)

/-- Every window of a shot has been decided. -/
def Acq.decidedAll (a : Acq) (shot : Nat) : Bool := (a.waiting ++ a.windows).all fun w => w.shot ≠ shot

/-- RECORDS_PASSED (R141): the oldest shot of the tile, once it has ended and its windows are decided. -/
def execRecordsPassed (t : Fin 16) (s : State) : Result :=
  let s := s.fresh
  .next (match (s.acq t).shots with
    | l :: _ => if l.ended && (s.acq t).decidedAll l.shot then s.passRecords t l else s
    | [] => s)

/-! ### Snapshots and IQ chunks (R124, R125, R280) -/

/-- A raw ADC sample as a 16-bit word, sign-extended. -/
def sampleBytes (c : BitVec 12) : List Byte := leBytes (unsigned c.toInt 16) 2

/-- A snapshot completes: its event and its chunk (R125, R277), which is marked bad where a sample failed its seal (R23).
SNAP_BUSY stays 1 until the capture writer has taken the last block. -/
def State.endSnapshot (s : State) (t : Nat) (x : Snapshot) (samples : List (BitVec 12)) (bad : Bool) : State :=
  let s := s.setAcq t { s.acq t with snapshot := none }
  let s := s.raiseFrom (706 + 4 * t) 0 0 x.cause
  let (last, s) := s.freeBit
  s.formChunk
    { kind := kindSnapshot, tile := t, blocks := 2 * x.len, shot := x.shot, base := x.base, wall := x.wall,
      void := false, last, decim := 0, mask := 0, paramA := 256 * x.len, paramB := 0, firstSi := x.start, bad }
    (samples.flatMap sampleBytes)

/-- The codes that the ADC of a tile has put out: 0 while ADC_ENABLE is 0 (R112). -/
def State.adcCodes (s : State) (t : Nat) (samples : List (BitVec 12)) : List (BitVec 12) :=
  if s.flag F.acqConfig_ADC_ENABLE t then samples else samples.map fun _ => 0

/-- SNAPSHOT_DONE (R125): SNAP_LEN × 256 samples have been taken. -/
def execSnapshotDone (t : Fin 16) (samples : List (BitVec 12)) (sealBad : Bool) (s : State) : Result :=
  let s := s.fresh
  .next (match (s.acq t).snapshot with
    | some x =>
      if samples.length = 256 * x.len && x.start + 256 * x.len ≤ s.si then
        s.endSnapshot t x (s.adcCodes t samples) sealBad
      else s
    | none => s)

/-- A block of up to 64 points of one tone, filled out with zero points. -/
def pointBlock (l : List (Int × Int)) : List Byte :=
  slice (l.flatMap fun p => leBytes (unsigned p.1 16) 2 ++ leBytes (unsigned p.2 16) 2) 0 256

/-- The mean of consecutive points: how it is rounded is free (R124). -/
def meanPoint (l : List (Int × Int)) : Int × Int :=
  (roundFree (l.map Prod.fst).sum l.length, roundFree (l.map Prod.snd).sum l.length)

/-- The stream points of a tone (R115, R124): each the mean of 2^d consecutive points against the tone's reference. -/
def streamPoints (d turn : Nat) (l : List (BitVec 16 × BitVec 16)) : List (Int × Int) :=
  (pieces (2 ^ d) l.length (l.map fun p => referPoint turn (p.1.toInt, p.2.toInt))).map meanPoint

/-- The data blocks of an IQ chunk: span-major, tones ascending within each span. -/
def iqBlocks (spans : Nat) (points : List (List (Int × Int))) : List Byte :=
  (List.range spans).flatMap fun i => points.flatMap fun tone => pointBlock ((tone.drop (64 * i)).take 64)

/-- SCLK samples in one stream point. -/
def IqRun.step (x : IqRun) : Nat := 128 * 2 ^ x.decim

/-- How many points the next chunk of a recording holds, and whether it is the shot's last: 960, or what is
left once the end is known. -/
def IqRun.due (x : IqRun) : Nat × Bool :=
  match x.stop with
  | none => (960, false)
  | some e =>
    let left := (e - x.base) / x.step - x.next
    (min 960 left, left ≤ 960)

/-- An IQ chunk of `n` points a tone (R278, R280). -/
def State.iqChunk (s : State) (t : Nat) (x : IqRun) (n : Nat) (last : Bool)
    (points : List (List (Int × Int))) : State :=
  let spans := (n + 63) / 64
  let rest := (s.acq t).iq.drop 1
  let s := s.setAcq t { s.acq t with iq := if last then rest else { x with next := x.next + n } :: rest }
  s.formChunk
    { kind := kindIq, tile := t, blocks := spans * points.length, shot := x.shot, base := x.base,
      wall := x.wall, void := false, last, decim := x.decim, mask := x.mask, paramA := x.next, paramB := n,
      firstSi := x.base + x.step * x.next }
    (iqBlocks spans points)

/-- IQ_CHUNK_FORM (R124, R280): after 15 spans of 64 stream points, or at the end of what the shot covers; of each tone
the points that the stream averages. -/
def execIqChunkForm (t : Fin 16) (points : List (List (BitVec 16 × BitVec 16))) (s : State) : Result :=
  let s := s.fresh
  .next (match (s.acq t).iq with
    | x :: _ =>
      let n := x.due.1
      if s.capturing && 0 < n && points.length = popCount x.mask 16 && (points.all fun l => l.length = n * 2 ^ x.decim)
          && (x.base + x.step * (x.next + n) : Nat) + x.ofs ≤ s.si then
        s.iqChunk t x n x.due.2 ((points.zip x.turns).map fun y => streamPoints x.decim y.2 y.1)
      else s
    | [] => s)

/-! ### Histograms, weights and fits -/

/-- HIST_READ (R126). -/
def histReadCommand (r : Request) (s : State) : Command :=
  let slot := r.at 0 1
  let first := r.at 1 1
  let n := r.at 2 1
  { frame := exactly r 4, access := accessIf (s.owns r (slot / 16)), modes := modesCPRSF, refused := false,
    checks := [badAt 1 (64 ≤ first), badAt 2 (n = 0 || 16 < n || 64 < first + n), r.rsv 3 1],
    act := fun s => .ok s (s.histBytes slot first n) }

/-- HIST_READ. -/
def execHistRead (m : Fin 16) (s : State) : Result := .next (s.fresh.serve m 0x0506 histReadCommand)

/-- The shadow bank of a weight set takes blocks: 0 to 24 hold the weights, 25 to 49 the progress table. -/
def State.loadWeights (s : State) (t j first : Nat) (blocks : List (List Byte × Nat)) : State :=
  let words := blocks.flatMap fun b => (List.range 64).map fun i => le b.1 (4 * i) 4
  { s with readout := { s.readout with
    weightShadow := s.readout.weightShadow.writeAll 0 (3200 * (32 * t + j) + 64 * first) words } }

/-- WEIGHT_LOAD (R122, R123, R134). -/
def weightLoadCommand (r : Request) (s : State) : Command :=
  let t := r.at 0 1
  let j := r.at 1 1
  let first := r.at 2 2
  let n := r.at 4 2
  { frame := blocksLen r 8 n (r.at 6 1), access := accessIf (s.owns r t), modes := modesCPRS, refused := false,
    checks := [badAt 0 (16 ≤ t), badAt 1 (32 ≤ j), badAt 2 (50 ≤ first || 50 < first + n),
      badAt 4 (n = 0 || 15 < n), badAt 6 (1 < r.at 6 1), r.rsv 7 1,
      (bit (s.get F.weightControl_PENDING_MASK t) j, .busy, 0)],
    act := fun s =>
      let (blocks, good) := payloadBlocks r 8 n (bit (r.at 6 1) 0)
      if good then .ok (s.loadWeights t j first blocks) [] else s.sealRefused t }

/-- WEIGHT_LOAD. -/
def execWeightLoad (m : Fin 16) (s : State) : Result := .next (s.fresh.serve m 0x0207 weightLoadCommand)

/-- Weight sets are committed (R123): at once outside an active run, at the next shot boundary in one. -/
def State.commitWeights (s : State) (t mask : Nat) : State :=
  (bitList mask 32).foldl (fun s j =>
    if s.inRun t then
      ({ s with readout := { s.readout with
        weightCommit := s.readout.weightCommit.update [] (32 * t + j) fun l => l ++ [s.si] } } : State).put F.weightControl_PENDING_MASK t
          (setBits (s.get F.weightControl_PENDING_MASK t) j 1 1)
    else s.bringWeights t j) s

/-- MODEL_FIT (R143): deferred. -/
def modelFitCommand (r : Request) (s : State) : Command :=
  let slot := r.at 0 1
  let k := r.at 1 1
  { frame := exactly r 28, access := accessIf (s.owns r (slot / 16)), modes := modesCPRS, refused := false,
    checks := [badAt 0 (s.get F.histStatus_BINNED slot < 1000 * s.get F.histStatus_OUTSIDE slot),
      badAt 1 (k ≠ 2 && k ≠ 3), r.rsv 2 2],
    act := fun s => .wait s (.modelFit slot k ((List.range 6).map fun i => signed (r.at (4 + 4 * i) 4) 32)) }

/-- MODEL_FIT. -/
def execModelFit (m : Fin 16) (s : State) : Result := .next (s.fresh.serve m 0x0508 modelFitCommand)

/-- The model image that a fit gives (R143, R146): centres, σ and ρ with VALID = 1; the priors stay. -/
def fittedModel (old : Nat) (f : List Int) : Nat :=
  let at32 := fun i => unsigned (f.getD i 0) 32
  let low := (List.range 8).foldl (fun x i => setBits x (32 * i) 32 (at32 i)) old
  setBits (setBits low 256 16 (unsigned (f.getD 8 0) 16)) 320 1 1

/-- A fit ends: the model's shadow is written and the weights, iterations and likelihood are returned. -/
def State.endFit (s : State) (d : Deferred) (slot k : Nat) (centres : List Int) : State :=
  let bins := (List.range 4096).map fun i => s.readout.bins.read 0 (4096 * slot + i)
  let f := Config.fit (s.image .histConfig slot :: bins) k centres
  let s := s.writeShadowed .model slot (fittedModel (s.shadowImage .model slot) f)
  s.finish d .ok (((List.range 3).flatMap fun i => leBytes (unsigned (f.getD (9 + i) 0) 32) 4)
    ++ leBytes (unsigned (f.getD 12 0) 16) 2 ++ zeros 2 ++ leBytes (unsigned (f.getD 13 0) 32) 4)

/-- MODEL_FIT_DONE (R143). -/
def execModelFitDone (m : Fin 16) (s : State) : Result :=
  let s := s.fresh
  .next (match s.deferredOf m with
    | some d => match d.wait with
      | .modelFit slot k centres => s.endFit d slot k centres
      | _ => s
    | none => s)

end Sys2Proof.Machine
end

