-- ==== Sys2Proof/Machine/Microcode.lean ====
section
/-! DEFINITION. Microwords, the control store with its match registers, the path rules of a routine, the wait
conditions, and the run of a routine that a patch has changed (R150 to R158). -/

namespace Sys2Proof.Machine

/-! ### Microwords (R153) -/

/-- The fields of a microword. -/
def uopOf (w : Nat) : Nat := bits w 123 5
def commits (w : Nat) : Bool := bit w 122
def endsInstance (w : Nat) : Bool := bit w 121
def repeats (w : Nat) : Bool := bit w 120
def dstOf (w : Nat) : Nat := bits w 112 8
def srcAOf (w : Nat) : Nat := bits w 104 8
def immOf (w : Nat) : Nat := bits w 64 32
def condOf (w : Nat) : Nat := bits w 60 4
def timeoutOf (w : Nat) : Nat := bits w 48 12
def nextOf (w : Nat) : Nat := bits w 33 15
def failOf (w : Nat) : Nat := bits w 18 15
def seqOf (w : Nat) : Nat := bits w 16 2
def auxOf (w : Nat) : Nat := bits w 0 16

/-- The micro-operations that a routine's control depends on: ISSUE, EMIT and SEND leave the engine; WAIT and TEST
judge WCOND. -/
def sends (w : Nat) : Bool := 5 ≤ uopOf w && uopOf w ≤ 7
def waits (w : Nat) : Bool := uopOf w = 8
def tests (w : Nat) : Bool := uopOf w = 9

/-- The 8 parity bits of a microword: odd parity over each 16 bits. -/
def parityOf (w : Nat) : Nat :=
  (List.range 8).foldl (fun p i => p + (1 - popCount (bits w (16 * i) 16) 16 % 2) <<< i) 0

/-- A microword as it is stored, with its parity bits above it, and whether a stored one passes its check. -/
def withParity (w : Nat) : Nat := bits w 0 128 + parityOf w <<< 128
def parityGood (x : Nat) : Bool := bits x 128 8 = parityOf x

/-! ### The control store (R154, R155) -/

/-- A control store as a fetch sees it: the enabled matches (a ROM address and a patch RAM offset) and the stored
words of the patch RAM. -/
structure Store where
  redirects : List (Nat × Nat)
  ram : SMap Nat
deriving DecidableEq, Repr

/-- The enabled match registers and the patch RAM in force. -/
def State.control (s : State) : Store :=
  { redirects := ((List.range 64).filter fun i => s.flag F.matchReg_ENABLE i).map fun i =>
      (s.get F.matchReg_ROM_ADDR i, s.get F.matchReg_PATCH_ADDR i)
    ram := s.upload.patchRam }

/-- The address that a fetch goes to: only ROM addresses are matched. -/
def Store.place (c : Store) (a : Nat) : Nat :=
  match c.redirects.find? fun m => m.1 = a with
  | some m => 0x4000 + m.2
  | none => a

/-- The microword of a fetch address: none where the fetch fails every time, from an unused address or a patch RAM
word whose parity is wrong. -/
def Store.word (c : Store) (a : Nat) : Option Nat :=
  let p := c.place a
  if p < 0x4000 then some (Config.romWord p).toNat
  else if p < 0x4400 && parityGood (c.ram.read 0 (p - 0x4000)) then some (bits (c.ram.read 0 (p - 0x4000)) 0 128)
  else none

/-- A fetch address gives another word than the ROM's. -/
def Store.changed (c : Store) (a : Nat) : Bool := a < 0x4000 && c.word a ≠ some (Config.romWord a).toNat

/-! ### Paths (R150 to R152, R158) -/

/-- Where a path goes on from the microword at a fetch address, with the cycles it takes: a taken branch or fail branch
adds one, and the wait that opens a routine is counted apart (R167). -/
def onward (a w : Nat) (free : Bool) : List (Nat × Nat) :=
  let here := if free then 0 else 1
  let fails := if waits w || tests w then [(failOf w, here + 1)] else []
  if endsInstance w || seqOf w = 3 then fails
  else (match seqOf w with
    | 0 => [(a + 1, here)]
    | 1 => [(nextOf w, here + 1)]
    | _ => [(nextOf w, here + 1), (a + 1, here)]) ++ fails

/-- A microword branches to a lower address of its routine. DEDUCED (log 105): a patch may branch back to the ROM, so
addresses of ROM and patch RAM are not compared with each other. -/
def backward (a w : Nat) : Bool :=
  (onward a w false).any fun x => x.2 = 2 && x.1 < a && (decide (x.1 < 0x4000) == decide (a < 0x4000))

/-- The paths of a routine from the addresses reached after the same number of cycles, and those reached one cycle
later, before the commit point: the addresses of the commit microwords, none where a path breaks R152 or is longer than
the cycles left. -/
def pathsBefore (c : Store) : Nat → List Nat → List Nat → List Nat → Option (List Nat)
  | 0, now, later, found =>
    let words := now.filterMap fun a => (c.word a).map fun w => (a, w)
    if later.isEmpty && words.all fun x => commits x.2 && !waits x.2 && !backward x.1 x.2 then
      some (found ++ words.map Prod.fst)
    else none
  | fuel + 1, now, later, found =>
    let words := now.filterMap fun a => (c.word a).map fun w => (a, w)
    if words.any fun x => waits x.2 || backward x.1 x.2 || (sends x.2 && !commits x.2) then none
    else
      let go := (words.filter fun x => !commits x.2).flatMap fun x => onward x.1 x.2 false
      pathsBefore c fuel
        (later ++ (go.filter fun x => x.2 = 1).map Prod.fst).dedup
        ((go.filter fun x => x.2 = 2).map Prod.fst).dedup
        (found ++ ((words.filter fun x => commits x.2).map Prod.fst)).dedup

/-- The same from the commit microwords to END, inclusive: no path breaks R152 or is longer than the cycles left. -/
def pathsAfter (c : Store) : Nat → List Nat → List Nat → Bool
  | 0, now, later => now.isEmpty && later.isEmpty
  | fuel + 1, now, later =>
    let words := now.filterMap fun a => (c.word a).map fun w => (a, w)
    if words.any fun x => waits x.2 || backward x.1 x.2 then false
    else
      let go := words.flatMap fun x => onward x.1 x.2 false
      pathsAfter c fuel
        (later ++ (go.filter fun x => x.2 = 1).map Prod.fst).dedup
        ((go.filter fun x => x.2 = 2).map Prod.fst).dedup

/-- The first microwords of an opcode's routine: where its dispatch table entry branches to (R150). -/
def Store.entries (c : Store) (op : Nat) : List Nat :=
  match c.word op with
  | some w => (onward op w false).map Prod.fst
  | none => []

/-- Every path of an opcode's routine obeys R152, but for its second rule: a wait only as the first microword, at most
192 cycles before the commit point and 64 from it to END. DEDUCED (log 105): a path that never commits is held to the
192 cycles as well. -/
def Store.obeys (c : Store) (op : Nat) : Bool :=
  let starts := (c.entries op).filterMap fun a => (c.word a).map fun w => (a, w)
  if starts.any fun x => waits x.2 && (commits x.2 || backward x.1 x.2) then false
  else
    let after := (starts.filter fun x => waits x.2).flatMap fun x => onward x.1 x.2 true
    let now := ((starts.filter fun x => !waits x.2).map Prod.fst) ++ (after.filter fun x => x.2 = 0).map Prod.fst
    match pathsBefore c 192 now ((after.filter fun x => x.2 = 1).map Prod.fst) [] with
    | some found => pathsAfter c 64 found []
    | none => false

/-- The fetch addresses of an opcode's routine, its dispatch table entry among them. -/
def Store.reached (c : Store) : Nat → List Nat → List Nat
  | 0, seen => seen
  | fuel + 1, seen =>
    let more := seen.flatMap fun a => match c.word a with
      | some w => (onward a w false).map Prod.fst
      | none => []
    let more := more.dedup.filter fun a => !seen.contains a
    if more.isEmpty then seen else Store.reached c fuel (seen ++ more)

/-- The addresses of an opcode's routine. -/
def Store.routine (c : Store) (op : Nat) : List Nat := c.reached 32768 [op]

/-- Every routine that a match reaches obeys R152 (R170). -/
def Store.pathsGood (c : Store) : Bool :=
  (List.range 256).all fun op =>
    !((c.routine op).any fun a => c.redirects.any fun m => m.1 = a) || c.obeys op

/-- A patch has changed a word of an opcode's routine. What follows R177 to R193 for an operation is the ROM's routine;
a patch that puts the ROM's own words in place of failed cells leaves it as it is (R155). -/
def State.rewritten (s : State) (op : Nat) : Bool :=
  s.get F.mcVersion_PATCH_ID ≠ 0 && (s.control.routine op).any s.control.changed

/-! ### Wait conditions (R156, R157) -/

/-- A decision input of a tile is set. -/
def TileRun.inputSet (r : TileRun) (slot : Nat) : Bool := r.inputs.any fun x => x.1 = slot && x.2.2.isSome

/-- The latch of an event input: P, F and H. -/
def TileRun.latch (r : TileRun) (c : Nat) : Option (Nat × Nat × Nat) :=
  (r.latches.find? fun x => x.1 = c).map fun x => x.2

/-- A register of an engine (R149). -/
def State.register (s : State) (e i : Nat) : Nat := (s.engine e).regs.read 0 i

/-- The entries of an issue queue of a tile: the units of a drive or probe tone, or the bias operations of a channel
that have not left. The numbers that AUX gives the queues are open. -/
def State.queueLevel (s : State) (t aux : Nat) : Nat :=
  let q := Config.issueQueue aux % 40
  if q < 16 then (s.tone (16 * t + q)).units.length
  else if q < 32 then (s.tone (256 + 16 * t + (q - 16))).units.length
  else ((s.biasOf (8 * t + (q - 32))).ops.filter fun o => s.si < o.issued).length

/-- A handshake latch of a tile: the release of its barrier, the end of its fetch, or its die link. The numbers that
AUX gives them are open. -/
def State.handshake (s : State) (t aux : Nat) : Bool :=
  match Config.handshake aux % 3 with
  | 0 => (s.tile t).barrier.isNone
  | 1 => (s.tile t).fetched
  | _ => s.linkTrained t

/-- A wait condition of R156 holds for the engine of a tile; a reserved one is open. -/
def State.condition (s : State) (t w : Nat) : Bool :=
  let x := immOf w
  match condOf w with
  | 0 => true
  | 1 => if bit x 9 then (s.tile t).inputSet (bits x 0 8) else ((s.tile t).latch (bits x 0 9)).isSome
  | 2 => decide ((x : Int) ≤ s.tick t)
  | 3 => s.queueLevel t (auxOf w) ≤ x
  | 4 => s.handshake t (auxOf w)
  | 5 => (s.segment t (s.register t (srcAOf w) % 1024)).resident
  | c => Config.reservedCondition c s.clock.now

/-! ### A changed routine -/

/-- What a microword does in the engine of a tile, with its ALU flag. The manual gives no codes for the functions of
ALU, for what LOAD reads or for which source MOVE copies, so DST takes a free value there; what STORE, ISSUE and SEND
reach is not given (log 106). EMIT raises the sequencer event that AUX numbers, with a free payload. -/
def State.microAct (s : State) (t w : Nat) (flag : Bool) : Bool × State :=
  let put := fun (s : State) (v : Nat) =>
    s.setEngine t { s.engine t with regs := (s.engine t).regs.write 0 (dstOf w) (v % 2 ^ 64) }
  match uopOf w with
  | 1 => let (v, s') := s.free
    let (f, s') := s'.free
    (f.toNat % 2 = 1, put s' v.toNat)
  | 2 => let (f, s') := s.free
    (flag, put s' (if f.toNat % 2 = 1 then immOf w else s'.register t (srcAOf w)))
  | 3 => let (v, s') := s.free
    (flag, put s' v.toNat)
  | 6 => let (v, s') := s.free
    (flag, s'.raise (seqSource t (auxOf w % 16)) (v.toNat % 4))
  | _ => (flag, s)

/-- How the run of a routine leaves its instance: it waits, it has ended (with REPEAT or without), or a fetch of it
fails. -/
inductive RunEnd where
  | waiting
  | ended (again : Bool)
  | failed
deriving DecidableEq, Repr

/-- The run of a changed routine from a fetch address on, one microword a step. -/
def State.runFrom (c : Store) (t : Nat) : Nat → Nat → Bool → State → RunEnd × State
  | 0, _, _, s => (.failed, s)
  | fuel + 1, a, flag, s =>
    match c.word a with
    | none => (.failed, s)
    | some w =>
      let (flag, s) := s.microAct t w flag
      if (waits w || tests w) && !s.condition t w then
        if waits w && timeoutOf w ≠ 0 then (.waiting, s)
        else State.runFrom c t fuel (failOf w) flag s
      else if endsInstance w || seqOf w = 3 then (.ended (repeats w), s)
      else if seqOf w = 1 || (seqOf w = 2 && flag) then State.runFrom c t fuel (nextOf w) flag s
      else State.runFrom c t fuel (a + 1) flag s

/-- The wait microword that opens the routine of an opcode (R152). -/
def Store.waitWord (c : Store) (op : Nat) : Option Nat :=
  ((c.entries op).filterMap c.word).find? waits

end Sys2Proof.Machine
end

