-- ==== Sys2Proof/Machine/Engine.lean ====
section
/-! DEFINITION. The engines (R148 to R175): instances and their waits, machine checks, interrupts, patches and
the restart of a stopped engine. -/

namespace Sys2Proof.Machine

/-! ### Instances and waits -/

/-- The instance of an engine ends (R150, R165): the guard and its count clear; what the guard has held off stays
pending. -/
def State.endInstance (s : State) (e : Nat) : State :=
  let x := s.engine e
  let s := s.setEngine e { x with inst := false, abandoned := 0, waitSince := none }
  (s.putFlag F.engineStatus_GUARD e false).put F.engineStatus_STATE e 1

/-- The instance of an engine waits before its commit (R156); one that waits already goes on. -/
def State.beginWait (s : State) (e : Nat) : State :=
  let x := s.engine e
  let x := match x.waitSince with
    | some _ => x
    | none => { x with waitSince := some s.clock.now, microSince := s.clock.now }
  (s.setEngine e { x with inst := true }).put F.engineStatus_STATE e 2

/-- A waiting instance ends with REPEAT, and the same word waits in a new instance (R152, R158). -/
def State.repeatWait (s : State) (e : Nat) : State :=
  let x := s.engine e
  (s.setEngine e { x with abandoned := 0, microSince := s.clock.now }).putFlag F.engineStatus_GUARD e false

/-! ### Machine checks (R159 to R161) -/

/-- A run whose group plays no shot ends at once; one that plays a shot ends at its boundary. -/
def State.endIfIdle (s : State) (g : Nat) : State :=
  if (s.group g).state ≠ .idle && !(s.group g).inShot then s.endRun g else s

/-- SEQ[t] has stopped (R160): the shot is void, the tile stands down, and its run ends as under ABORT. -/
def State.stopTile (s : State) (t : Nat) : State :=
  match (s.tile t).group with
  | none => s
  | some g => (((s.voidShot t).standDown t).abortRun t).endIfIdle g

/-- A lasting machine check (R159): the engine stops and its pending interrupts are discarded. -/
def State.stopEngine (s : State) (e : Nat) : State :=
  let s := (s.put F.engineStatus_STATE e 3).putFlag F.engineStatus_MC_LASTING e true
  let s := (s.putFlag F.engineStatus_GUARD e false).setEngine e { Engine.init with
    patchStop := (s.engine e).patchStop, regs := (s.engine e).regs }
  if e = 16 then s.enterSafe 0x0011 else s.stopTile e

/-- The Hatband source of an engine's machine checks (R195): CRD has none. -/
def checkSource (e : Nat) : Nat := if e < 16 then seqSource e 10 else 0xFFF

/-- MACHINE_CHECK (R153, R154, R159): a fetch from an unused address, or of a patch RAM word that was stored with wrong
parity, fails again. -/
def execMachineCheck (e : Fin 17) (addr : BitVec 15) (again : Bool) (s : State) : Result :=
  let s := s.fresh
  let lasting := again || (s.control.word addr.toNat).isNone
  .next (if s.mode = .reset || s.get F.engineStatus_STATE e = 3 then s
    else
      let s := s.put F.engineStatus_LAST_MC_ADDR e addr.toNat
      let s := if e.val < 16 then s.raise (checkSource e) else s
      let s := s.report 6 lasting (checkSource e) e addr.toNat
      if lasting then s.stopEngine e else s.count F.engineStatus_MC_TRANSIENT e)

/-! ### Interrupts (R162 to R168) -/

/-- An interrupt of an engine is pending. -/
def Engine.pending (x : Engine) : Bool := x.haltPending || x.voidPending || !x.attnPending.isEmpty

/-- The instance is abandoned (R163, R165): at the fourth time in a row the guard engages. -/
def State.abandon (s : State) (e : Nat) : State :=
  let x := s.engine e
  let s := (s.setEngine e { x with abandoned := x.abandoned + 1 }).count F.engineStatus_ABANDON_COUNT e
  if x.abandoned + 1 = 4 then
    (s.putFlag F.engineStatus_GUARD e true).count F.engineStatus_GUARD_COUNT e
  else s

/-- Where an interrupt finds an engine (R163): before its instance's commit, and by how many cycles it is held off within
R167. A wait comes before the commit. A running engine may be on either side, or between instances: its cycles lie
below the rows, so that is a free value (log 107). -/
def State.found (s : State) (e : Nat) : (Bool × Nat) × State :=
  let x := s.engine e
  let (v, s') := s.free
  let running := s.get F.engineStatus_STATE e = 1
  let before := x.inst || (running && v.toNat % 2 = 1)
  let limit := if x.held then 260 else if before || !running then 1 else 67
  ((before, v.toNat / 2 % limit), s')

/-- HOLDOFF_MAX after a hold-off. -/
def State.noteHoldoff (s : State) (e cycles : Nat) : State :=
  s.put F.engineStatus_HOLDOFF_MAX e (max (s.get F.engineStatus_HOLDOFF_MAX e) (min 255 cycles))

/-- The handlers of the pending classes run in priority order (R162, R164). After HALT or VOID the abandoned
routine does not restart; after ATTN it does. -/
def State.runHandlers (s : State) (e : Nat) : State :=
  let x := s.engine e
  let s := s.setEngine e { x with haltPending := false, voidPending := false, attnPending := [], held := false }
  if (x.haltPending || x.voidPending) && e < 16 then s.standDown e else s

/-- An engine acts on its pending interrupts. -/
def State.interrupt (s : State) (e : Nat) : State :=
  let (x, s) := s.found e
  let s := s.noteHoldoff e x.2
  (if x.1 then s.abandon e else s).runHandlers e

/-- INTERRUPT_TAKEN (R163 to R166): while the guard is engaged the interrupt is deferred and stays pending. -/
def execInterruptTaken (e : Fin 17) (s : State) : Result :=
  let s := s.fresh
  let x := s.engine e
  .next (if !x.pending || s.get F.engineStatus_STATE e = 3 then s
    else if s.flag F.engineStatus_GUARD e then s.setEngine e { x with held := true }
    else s.interrupt e)

/-! ### Patch images (R169, R170) -/

/-- A patch image's parts (R169). -/
def patchMagic (b : List Byte) : Nat := le b 0 4
def patchId (b : List Byte) : Nat := le b 4 4
def patchRom (b : List Byte) : Nat := le b 8 4
def patchMatches (b : List Byte) : Nat := le b 12 2
def patchWords (b : List Byte) : Nat := le b 14 2
def patchMatch (b : List Byte) (i : Nat) : Nat := le b (64 + 4 * i) 4
def patchWord (b : List Byte) (i : Nat) : Nat := le b (64 + 4 * patchMatches b + 16 * i) 16

/-- The first check of R170 fails: MAGIC, field ranges, reserved bits, or the total length. -/
def patchFormBad (b : List Byte) : Bool :=
  patchMagic b ≠ 0x4D435054 || patchId b = 0 || 64 < patchMatches b || 1024 < patchWords b || le b 16 48 ≠ 0
    || b.length ≠ 64 + 4 * patchMatches b + 16 * patchWords b + 96
    || (List.range (patchMatches b)).any fun i => bits (patchMatch b i) 25 7 ≠ 0

/-- The match settings break R170: two enabled entries on one address, or a target beyond the words. -/
def patchMatchBad (b : List Byte) : Bool :=
  let ms := (List.range (patchMatches b)).map (patchMatch b)
  let on := (ms.filter fun x => bit x 24).map fun x => bits x 0 14
  (ms.any fun x => patchWords b ≤ bits x 14 10) || !decide on.Nodup

/-- A microword holds a reserved UOP (R153). -/
def patchUopBad (b : List Byte) : Bool :=
  (List.range (patchWords b)).any fun i => 0x0A ≤ bits (patchWord b i) 123 5

/-- The control store that a patch image makes. -/
def patchStore (b : List Byte) : Store :=
  { redirects := (((List.range (patchMatches b)).map (patchMatch b)).filter fun x => bit x 24).map fun x =>
      (bits x 0 14, bits x 14 10)
    ram := SMap.writeAll [] 0 0 ((List.range (patchWords b)).map fun i => withParity (patchWord b i)) }

/-- The checks of R170 in order: the status of the first that fails. -/
def State.patchVerdict (s : State) (b : List Byte) : Option Status :=
  if patchFormBad b then some .badRecord
  else if !Config.signatureGood b then some .badRecord
  else if patchRom b ≠ Config.romId.toNat then some .badValue
  else if patchMatchBad b then some .badValue
  else if patchUopBad b || !(patchStore b).pathsGood then some .badRecord
  else if s.upload.patchSince.isSome then some .busy
  else none

/-- The bytes of a patch that have been taken, the next offset among them. -/
def State.patchTaken (s : State) (offset total : Nat) : List Byte :=
  match s.upload.patch with
  | some (n, b) => if offset = 0 then [] else if n = total then b else []
  | none => []

/-- A part of a patch image is taken; the last one is checked and staged (R363). A refused image changes
nothing, and the parts of it are dropped. -/
def State.takePatch (s : State) (total : Nat) (b : List Byte) : Answer :=
  if b.length < total then
    .ok { s with upload := { s.upload with patch := some (total, b) } } (leBytes 0 4)
  else
    let s := { s with upload := { s.upload with patch := none } }
    match s.patchVerdict b with
    | some st => .fail (s.report 35 false 0xFFF (patchId b) st.code) st
        (if st = .badRecord || st = .badValue then 40 else 0)
    | none => .ok { s with upload := { s.upload with staged := some b } } (leBytes 1 4)

/-- PATCH_LOAD (R363). -/
def patchLoadCommand (r : Request) (s : State) : Command :=
  let offset := r.at 0 4
  let total := r.at 4 4
  let data := r.payload.drop 8
  { frame := if r.len < 8 then some 4 else none, access := accessAdm r, modes := modesCPRS, refused := false,
    checks := [((s.patchTaken offset total).length ≠ offset, .badRecord, 32),
      badAt 4 (16800 < total || total < offset + data.length)],
    act := fun s => s.takePatch total (s.patchTaken offset total ++ data) }

/-- PATCH_LOAD. -/
def execPatchLoad (m : Fin 16) (s : State) : Result := .next (s.fresh.serve m 0x0A01 patchLoadCommand)

/-! ### Applying a patch (R171) -/

/-- An engine has reached its next shot boundary: its tile plays no shot. -/
def State.atBoundary (s : State) (e : Nat) : Bool := 16 ≤ e || !(s.tile e).inShot

/-- Every engine that plays no shot stops for the pending patch; what it has begun of a coming shot is given
up. -/
def State.stopEngines (s : State) : State :=
  (List.range 17).foldl (fun s e =>
    if s.upload.patchSince.isSome && s.atBoundary e then (s.unprepare e).stopForPatch e else s) s

/-- PATCH_APPLY (R171): deferred. -/
def patchApplyCommand (r : Request) (s : State) : Command :=
  { frame := exactly r 0, access := accessAdm r, modes := modesCPRS,
    refused := s.upload.staged.isNone || s.upload.patchSince.isSome, checks := [],
    act := fun s =>
      let s := { s with upload := { s.upload with patchSince := some s.clock.now } }
      .wait (s.putFlag F.mcVersion_PATCH_PENDING 0 true).stopEngines .patchApply }

/-- PATCH_APPLY. -/
def execPatchApply (m : Fin 16) (s : State) : Result := .next (s.fresh.serve m 0x0A02 patchApplyCommand)

/-- The next shot of a group whose engines stood starts later by the time that they stood. -/
def State.shiftStood (s : State) (g : Nat) : State :=
  let x := s.group g
  let stood := (s.members g).foldl (fun m t =>
    match (s.engine t).patchStop with
    | some w => max m (s.clock.now - w)
    | none => m) 0
  if x.state = .running && !x.inShot then s.setGroup g { x with base := x.base + 16 * stood } else s

/-- Every engine resumes dispatch. -/
def State.resumeEngines (s : State) : State :=
  let s := (List.range 16).foldl State.shiftStood s
  let s := (List.range 17).foldl (fun s e =>
    s.setEngine e { s.engine e with patchStop := none }) s
  let s := { s with upload := { s.upload with patchSince := none, staged := none } }
  s.putFlag F.mcVersion_PATCH_PENDING 0 false

/-- The patch RAM and the match registers take a patch image, whose parity bits the loader computes; an image without
matches removes the patch (R169, R172). -/
def State.installPatch (s : State) (b : List Byte) : State :=
  let n := patchMatches b
  let s := (List.range 64).foldl (fun s i =>
    s.setImage .matchReg i (if i < n then bits (patchMatch b i) 0 25 else 0)) s
  let words := if n = 0 then [] else (List.range (patchWords b)).map fun i => withParity (patchWord b i)
  let s := { s with upload := { s.upload with patchRam := SMap.writeAll [] 0 0 words } }
  (s.put F.mcVersion_PATCH_ID 0 (if n = 0 then 0 else patchId b)).put F.mcVersion_PATCH_HASH 0
    (if n = 0 then 0 else le (sha384 b) 0 8)

/-- PATCH_SWAP (R171): all seventeen engines have stopped. -/
def execPatchSwap (s : State) : Result :=
  let s := s.fresh
  .next (match s.upload.patchSince, s.upload.staged with
    | some _, some b =>
      if (List.range 17).all fun e => (s.engine e).patchStop.isSome then
        let s := (s.installPatch b).resumeEngines
        s.finishAll (fun w => w = .patchApply) .ok (leBytes (s.get F.mcVersion_PATCH_ID) 4 ++ zeros 4)
      else s
    | _, _ => s)

/-- PATCH_WAIT_EXPIRY (R171): the engines have not all stopped within PATCH_WAIT. -/
def execPatchWaitExpiry (s : State) : Result :=
  let s := s.fresh
  .next (match s.upload.patchSince with
    | some w =>
      if w + s.get F.patchControl_PATCH_WAIT * Config.ticksPerMs ≤ s.clock.now
          && !((List.range 17).all fun e => (s.engine e).patchStop.isSome) then
        (s.resumeEngines.report 35 false 0xFFF 0 Status.timeout.code).finishAll (fun w => w = .patchApply) .timeout []
      else s
    | none => s)

/-! ### Restart (R160) -/

/-- ENGINE_RESTART: deferred while the whole control store is re-read. -/
def engineRestartCommand (r : Request) (s : State) : Command :=
  let e := r.at 0 1
  { frame := exactly r 4, access := if e = 16 then accessAdm r else accessIf (s.owns r e), modes := modesCPRSF,
    refused := false,
    checks := [badAt 0 (16 < e), r.rsv 1 3, (s.get F.engineStatus_STATE e ≠ 3, .refusedActive, 0)],
    act := fun s => .wait s (.engineRestart e) }

/-- ENGINE_RESTART. -/
def execEngineRestart (m : Fin 16) (s : State) : Result := .next (s.fresh.serve m 0x0A03 engineRestartCommand)

/-- An enabled match register covers a control store address (R155). -/
def State.matched (s : State) (addr : Nat) : Bool :=
  (List.range 64).any fun i => s.flag F.matchReg_ENABLE i && s.get F.matchReg_ROM_ADDR i = addr

/-- A restart waits for the engine. -/
def State.restarting (s : State) (e : Nat) : Bool :=
  s.host.deferred.any fun d => d.wait = .engineRestart e

/-- ENGINE_RESTART_DONE (R160): the engine restarts, unless an address fails that no match covers. -/
def execEngineRestartDone (e : Fin 17) (bad : Option (BitVec 15)) (s : State) : Result :=
  let s := s.fresh
  let first := match bad with | some a => a.toNat | none => 0xFFFF
  .next (if s.restarting e && s.get F.engineStatus_STATE e = 3 then
    if bad.isNone || s.matched first then
      ((s.put F.engineStatus_STATE e 0).putFlag F.engineStatus_MC_LASTING e false).finishAll
        (fun w => w = .engineRestart e) .ok (leBytes first 2 ++ zeros 2)
    else s.finishAll (fun w => w = .engineRestart e) .faulted []
  else s)

end Sys2Proof.Machine
end

