-- ==== Sys2Proof/Machine/Runs.lean ====
section
/-! DEFINITION. Shots, segments and run groups (R31, R32, R196 to R206, R358 to R360, R439). -/

namespace Sys2Proof.Machine

/-! ### Successors (R197 to R200) -/

/-- The segment in play of a tile, and the tick at which its instance ends (R199). -/
def State.playing (s : State) (t : Nat) : Segment := s.segment t (s.get F.runStatus_SEG_ID t)
def State.segmentEnd (s : State) (t : Nat) : Nat := (s.tile t).segBase + (s.playing t).len

/-- The last word of the segment in play. -/
def State.endWord (s : State) (t : Nat) : Nat :=
  let g := s.playing t
  s.opWord t (g.opAddr + g.opWords - 1)

/-- The list entry that the segment's own last word chooses (R198): none where the shot ends. -/
def State.ownChoice (s : State) (t : Nat) : Option Nat :=
  let w := s.endWord t
  let pos := s.get F.runStatus_LIST_POS t
  match opOf w with
  | .seg => some (pos + 1)
  | .loop => if (s.tile t).instances < bits w 0 24 then some pos else some (pos + 1)
  | .jump => some (bits w 0 8)
  | _ => none

/-- The successor as chosen so far, with a pending jump request that the coming switch point honours (R200);
and whether it is that request's. -/
def State.nextEntry (s : State) (t : Nat) : Option Nat × Bool :=
  match s.ownChoice t, (s.tile t).jump with
  | none, _ => (none, false)
  | some e, none => (some e, false)
  | some e, some j => if j.deferred then (some e, false) else (some j.entry, true)

/-- A segment that is not resident when it is checked (R205): UNDERRUN. -/
def State.underrun (s : State) (t id : Nat) : State :=
  let s := (s.count F.runStatus_UNDERRUN_COUNT t).raise (seqSource t 1)
  let s := ((s.report 1 false (seqSource t 1) t (s.shotOf t)).voidShot t).demandVoid t
  let s := match (s.tile t).group with
    | some g => s.setGroup g { s.group g with missing := (s.group g).missing ++ [(t, id)] }
    | none => s
  s.standDown t

/-- The successor at list entry `e` is chosen (R198 to R200, R204). -/
def State.takeSuccessor (s : State) (t e : Nat) (jumped : Bool) : State :=
  match s.listSegment t e with
  | none => s.programFault t
  | some id =>
    let r := s.tile t
    let again := !jumped && e = s.get F.runStatus_LIST_POS t
    let hops := if jumped then r.jump.bind fun j => j.evc.map fun c => (j.hops, c) else none
    let jump := if jumped then none else r.jump.map fun j => { j with deferred := false }
    let checked := r.fetched && r.chosenSeg = some id
    let s := s.setTile t { r with
      chosen := some (some e), chosenSeg := some id, chosenHops := hops, jump, pc := 0, ended := false
      instances := if again then r.instances + 1 else 1 }
    if checked || (s.segment t id).resident then s else s.underrun t id

/-- The engine chooses the successor (R199). A jump request that is pending where the shot ends is dropped. -/
def State.choose (s : State) (t : Nat) : State :=
  match s.nextEntry t with
  | (some e, jumped) => s.takeSuccessor t e jumped
  | (none, _) =>
    let s := s.dropJump t
    s.setTile t { s.tile t with chosen := some none, chosenSeg := none, last := bit (s.endWord t) 0 }

/-- A block of operations or contexts fails its seal as it is loaded (R23, R25): nothing of the segment is
executed, the shot is void, and the tile's shot ends at the boundary in hand. -/
def State.loadFail (s : State) (t id : Nat) : State :=
  let s := (s.voidShot t).sealFault t (16384 + id) id id
  s.setTile t { s.tile t with ended := true, chosen := some none, chosenSeg := none }

/-- The operation and context blocks of a segment are loaded into the engine. -/
def State.loadSegment (s : State) (t id : Nat) (sealBad : Bool) : State :=
  if sealBad then s.loadFail t id else s.sealPass t (16384 + id) id

/-- The tile plays a shot whose end has not come. -/
def State.playsShot (s : State) (t : Nat) : Bool :=
  let r := s.tile t
  r.group.isSome && r.inShot && r.endTick.isNone

/-- SWITCH_POINT (R199): at B − 40 the engine, which has reached its end word, chooses the successor and loads
it. At base − 40 it loads the first segment of the coming shot. -/
def execSwitchPoint (t : Fin 16) (sealBad : Bool) (s : State) : Result :=
  let s := s.fresh
  let r := s.tile t
  .next (if s.playsShot t && r.chosen.isNone && r.ended
      && decide ((s.segmentEnd t : Int) ≤ s.tick t + Config.switchLead) then
    let s := s.choose t
    match (s.tile t).chosenSeg with
    | some id => if (s.tile t).stoodDown.isSome then s else s.loadSegment t id sealBad
    | none => s
  else if r.coming && r.pc = 0 && !r.ended && decide (0 ≤ s.tick t + Config.switchLead) then
    s.loadSegment t (s.get F.runStatus_SEG_ID t) sealBad
  else s)

/-! ### The coming shot (R201, R204) -/

/-- A run group starts no shot now: shedding (R369), a pending patch (R171), or a die link that is not trained
(R12). -/
def State.startBlocked (s : State) (g : Nat) : Bool :=
  3 ≤ s.get F.powerStatus_SHED_STAGE || s.upload.patchSince.isSome
    || (s.members g).any fun t => !s.linkTrained t

/-- Counters `c` to `c + n − 1` of a tile clear (R190). -/
def State.clearCounters (s : State) (t c n : Nat) : State :=
  (List.range n).foldl (fun s i => s.putAt F.counters_CNT t (c + i) 0) s

/-- The engine of a tile begins on the coming shot (R201), and its first segment is checked (R204), unless that was done
before the shot in play ended. An empty list has no entry 0 (R198). -/
def State.prepareTile (s : State) (g t : Nat) : State :=
  let r := s.tile t
  let s := s.setTile t { r with
    base := (s.group g).base, prepared := true, segBase := 0, pc := 0, instances := 1, ended := false,
    chosen := none, chosenSeg := none, chosenHops := none, mark := 0, tsets := [], latches := [], inputs := [],
    acquires := 0, decisions := [], lastHop := none, emitAt := none, untilTick := none, barrier := none,
    stoodDown := none, last := false, endTick := none, fetched := false, first := none }
  let s := s.clearCounters t 0 8
  match s.listSegment t 0 with
  | none => s.programFault t
  | some id =>
    let s := (s.put F.runStatus_SEG_ID t id).put F.runStatus_LIST_POS t 0
    if r.first.getD (s.segment t id).resident then s else s.underrun t id

/-- The successor chosen so far is checked at B − 64 (R204). One beyond the list is judged at the switch
point. -/
def State.checkFetch (s : State) (t : Nat) : State :=
  let r := s.tile t
  match (s.nextEntry t).1.bind (s.listSegment t) with
  | none => s.setTile t { r with fetched := true }
  | some id =>
    if (s.segment t id).resident then s.setTile t { r with fetched := true, chosenSeg := some id }
    else s.underrun t id

/-- The throttle factor of R202 (R377). -/
def State.gapFactor (s : State) : Nat :=
  if 6 ≤ s.get F.powerStatus_THROTTLE_STEP then s.get F.thermalControl_THR_GAP_FACTOR else 1

/-- The run of a group ends with this shot (R202, R206, R359). -/
def State.runOver (s : State) (g : Nat) : Bool :=
  let x := s.group g
  x.abort || (!x.missing.isEmpty && x.policy = 1) || x.stopAfter
    || (s.members g).any (fun t => (s.tile t).last) || (x.shots ≠ 0 && x.shots ≤ x.seq + 1)

/-- The tick at which a tile's shot ends, where its program leaves no doubt: it has ended, or the segment in play is
its last. -/
def State.knownEnd (s : State) (t : Nat) : Option Nat :=
  let r := s.tile t
  match r.endTick with
  | some e => some e
  | none => match r.chosen, s.ownChoice t with
    | some none, _ => some (s.segmentEnd t)
    | none, none => some (s.segmentEnd t)
    | _, _ => none

/-- The base of the shot after the one in play, once the end of that one is known (R202): none where no shot follows, or
its base waits for an event. -/
def State.comingBase (s : State) (g : Nat) : Option Nat :=
  let x := s.group g
  if !x.inShot || x.startEvc.isSome || s.runOver g || !x.missing.isEmpty then none
  else ((s.members g).mapM s.knownEnd).map fun es =>
    x.base + 16 * (es.foldl max 0 + x.gap * s.gapFactor)

/-- The first segment of the coming shot is checked at its base − 64 where the shot in play has not ended by then
(R204). DEDUCED (log 108): UNDERRUN of it is raised once that shot has ended, so that the tile stands down for the shot
whose segment is missing. -/
def State.checkFirst (s : State) (t g : Nat) : State :=
  let r := s.tile t
  match s.comingBase g, s.listSegment t 0 with
  | some b, some id =>
    if r.first.isNone && b ≤ s.si + 16 * Config.fetchLead then
      s.setTile t { r with first := some (s.segment t id).resident }
    else s
  | _, _ => s

/-- SEGMENT_FETCH_DEADLINE (R204): of the successor in a shot, or of the first segment of the coming shot. -/
def execSegmentFetchDeadline (t : Fin 16) (s : State) : Result :=
  let s := s.fresh
  let r := s.tile t
  .next (match r.group with
    | none => s
    | some g =>
      let x := s.group g
      if x.inShot && r.inShot then
        let s := if s.playsShot t && r.chosen.isNone && !r.fetched
            && decide ((s.segmentEnd t : Int) ≤ s.tick t + Config.fetchLead) then s.checkFetch t
          else s
        s.checkFirst t g
      else if x.state = .running && !x.inShot && !r.prepared && !x.awaitStart && !s.startBlocked g
          && x.base ≤ s.si + 16 * Config.fetchLead then
        s.prepareTile g t
      else s)

/-! ### Segment boundaries (R36, R79, R82, R104, R199) -/

/-- A new segment begins on the outputs of a tile at SI `b`: the holds and zeroes of the segment before end, but for a
zero that begins later. -/
def State.newSegment (s : State) (t b : Nat) : State :=
  let s := (biasOfTile t).foldl (fun s n => s.releaseBias n .segment) s
  let mine := channelsOfTile t
  let zeroed := s.drive.zeroed.filter fun z => !(mine.contains z.1) || z.2.1 = .standDown || decide (b ≤ z.2.2)
  let clipped := s.drive.clipped.filter fun n => n / 4 ≠ t
  let s := { s with drive := { s.drive with zeroed, clipped } }
  (List.range 4).foldl (fun s c => s.boundaryMute (4 * t + c)) s

/-- The shot of a tile ends at a tick (R92, R118, R195, R200). -/
def State.endTile (s : State) (t tick : Nat) : State :=
  let s := s.dropJump t
  let r := s.tile t
  let s := s.setTile t { r with
    endTick := some tick, ended := true, chosen := some none, emitAt := none, untilTick := none, barrier := none }
  let s := s.cutWindows t tick
  let e := r.base + 16 * tick
  let s := (biasOfTile t).foldl (fun s n =>
    s.setBias n ((s.biasOf n).fade (s.half + (e - s.si) / 8 - (s.si - e) / 8))) s
  (s.idleEngine t).raise (seqSource t 6)

/-- The successor begins (R199, R223). -/
def State.enterSegment (s : State) (t e : Nat) : State :=
  let r := s.tile t
  let b := s.segmentEnd t
  let s := (s.put F.runStatus_SEG_ID t (r.chosenSeg.getD 0)).put F.runStatus_LIST_POS t e
  let s := s.setTile t { r with
    segBase := b, chosen := none, chosenSeg := none, chosenHops := none, fetched := false }
  s.raiseFrom (seqSource t 7) 0 0 r.chosenHops

/-- SEGMENT_BOUNDARY (R199). -/
def execSegmentBoundary (t : Fin 16) (s : State) : Result :=
  let s := s.fresh
  .next (match (s.tile t).chosen with
    | some c =>
      if s.playsShot t && decide ((s.segmentEnd t : Int) ≤ s.tick t) then
        let s := s.newSegment t ((s.tile t).base + 16 * s.segmentEnd t)
        match c with
        | some e => s.enterSegment t e
        | none => s.endTile t (s.segmentEnd t)
      else s
    | none => s)

/-- SHOT_OVERRUN (R32). -/
def execShotOverrun (t : Fin 16) (s : State) : Result :=
  let s := s.fresh
  .next (if s.playsShot t && decide (0xFFFFFFFF ≤ s.tick t) then
    let s := (s.raise (seqSource t 3)).report 20 false (seqSource t 3) t (s.shotOf t)
    (s.voidShot t).endTile t 0xFFFFFFFF
  else s)

/-! ### Shots (R201 to R203, R439) -/

/-- The next base of a group that awaits its start event, once the latch is set (R202): the first tick at or after
the point, and strictly after the latch became usable. -/
def State.armStart (s : State) (g : Nat) : State :=
  let x := s.group g
  match x.startLatch with
  | some (_, _, h, si) =>
    if x.awaitStart && x.state = .running && !x.inShot then
      s.setGroup g { x with
        awaitStart := false, base := max x.base (si / 16 * 16 + 16), startHops := x.startEvc.map fun c => (h, c) }
    else s
  | none => s

/-- The outputs of a tile come out of a stand-down at the base of its next shot (R105, R203). -/
def State.releaseTile (s : State) (t : Nat) : State :=
  let s := (biasOfTile t).foldl (fun s n => s.releaseBias n .standDown) s
  let mine := channelsOfTile t
  let zeroed := s.drive.zeroed.filter fun z => !(mine.contains z.1 && z.2.1 = .standDown)
  { s with drive := { s.drive with zeroed } }

/-- The tones of a tile return to their shot-start state (R63). -/
def State.startTones (s : State) (t base : Nat) : State :=
  (List.range 16).foldl (fun s u => (s.startTone t false u base).startTone t true u base) s

/-- The acquisition tones that are enabled. -/
def State.acqMask (s : State) (t : Nat) : Nat :=
  (List.range 16).foldl (fun x u => x + s.get F.acqTone_ENABLE (16 * t + u) <<< u) 0

/-- What the demodulation reference A(SI_ref) + PHASE_REF × 2¹⁶ turns a point by that was demodulated against FTW × SI, for
an offset of `ofs` samples (R115), in units of 2⁻⁴⁸ of a turn. -/
def State.acqTurn (s : State) (t u : Nat) (ofs : Int) : Nat :=
  unsignedMod (s.getFor t F.acqTone_FTW (16 * t + u) * ofs
    - s.getFor t F.acqTone_PHASE_REF (16 * t + u) * 2 ^ 16) (2 ^ 48)

/-- The IQ recording of a shot, where the tile's IQ points are recorded in it (R279 to R281). DEDUCED: the stream
takes the offset of timing set 0, the set in force before any TSET. -/
def State.iqRun (s : State) (t seq : Nat) : List IqRun :=
  let (_, iq, survey) := s.readout.capture.read (true, false, false) t
  let base := (s.tile t).base
  if s.flag F.acqConfig_ADC_ENABLE t && (survey || iq) && s.acqMask t ≠ 0 then
    [{ shot := seq, base, wall := s.wallAt base
       decim := min 6 (s.get F.acqConfig_IQ_DECIM t + s.readout.surveyStep.read 0 t)
       mask := s.acqMask t, turns := (bitList (s.acqMask t) 16).map fun u => s.acqTurn t u (s.edgeOffset t 0 5 / 16)
       ofs := s.edgeOffset t 0 5 / 16, next := 0, stop := none }]
  else []

/-- The tile opens its log of the shot (R141, R279), and earlier IQ recordings end at its base (R280). -/
def State.openLog (s : State) (t seq : Nat) : State :=
  let r := s.tile t
  let a := s.acq t
  let (dec, _, survey) := s.readout.capture.read (true, false, false) t
  let l : ShotLog :=
    { shot := seq, base := r.base, wall := s.wallAt r.base, void := r.voided, ended := false
      keep := (survey && s.flag F.acqConfig_ADC_ENABLE t) || dec
      opened := [], recs := [], points := [], resids := [] }
  let iq := a.iq.map fun x => { x with stop := some (x.stop.getD r.base) }
  s.setAcq t { a with overranged := false, shots := a.shots ++ [l], iq := iq ++ s.iqRun t seq }

/-- A tile of the group starts the shot at its base (R63, R195, R201, R439). A tile that stood down before the
base stays down. -/
def State.enterShot (s : State) (t seq : Nat) (cause : Option (Nat × Nat)) : State :=
  let r := s.tile t
  let down := r.stoodDown.isSome
  let s := s.setTile t { r with inShot := true, latches := [] }
  let s := (s.put F.runStatus_SHOT_SEQ t seq).put F.runStatus_RUN_STATE t (if down then 2 else 1)
  let s := (s.boundary t (r.base - 16 * Config.switchLead)).startTones t r.base
  let s := (if down then s else s.releaseTile t).newSegment t r.base
  let s := (s.openLog t seq).raiseFrom (seqSource t 5) 0 0 cause
  if down then s else s.raise (seqSource t 7)

/-- A shot that was held up beyond its base starts at the present tick, and what the engines had begun of it is
given up. -/
def State.rebase (s : State) (g : Nat) : State :=
  let x := s.group g
  if x.base + 16 ≤ s.si then
    let s := (s.members g).foldl State.unprepare s
    s.setGroup g { s.group g with base := s.si / 16 * 16 }
  else s

/-- The shot of a run group starts. -/
def State.startShot (s : State) (g : Nat) : State :=
  let s := s.rebase g
  let s := (s.members g).foldl (fun s t => if (s.tile t).prepared then s else s.prepareTile g t) s
  let x := s.group g
  let seq := if x.started then x.seq + 1 else x.seq
  let s := s.setGroup g { x with inShot := true, seq, started := true, startLatch := none, startHops := none }
  (s.members g).foldl (fun s t => s.enterShot t seq x.startHops) s

/-- SHOT_START (R201, R439). -/
def execShotStart (g : Fin 16) (s : State) : Result :=
  let s := s.fresh
  let x := s.group g
  .next (if x.state = .running && !x.inShot && !x.awaitStart && x.base ≤ s.si && !s.startBlocked g then
    s.startShot g
  else s)

/-- The tick at which a group's shot ends (R202): none while a tile's end has not come. -/
def State.shotEnd (s : State) (g : Nat) : Option Nat :=
  let ts := (s.members g).map s.tile
  if ts.any fun r => r.endTick.isNone then none
  else
    let running := ts.filter fun r => r.stoodDown.isNone
    some ((if running.isEmpty then ts else running).foldl (fun m r => max m (r.endTick.getD 0)) 0)

/-- A tile is between shots: its shot's records are passed once its windows are decided (R141), a jump request that is
still pending is dropped (R200), and no VOID order for that shot is left. -/
def State.leaveTile (s : State) (t : Nat) : State :=
  let s := (s.endLogs t).dropJump t
  let s := s.setEngine t { s.engine t with voidPending := false }
  s.setTile t { s.tile t with inShot := false, prepared := false, voided := false }

/-- The tiles of a group are between shots. -/
def State.leaveShot (s : State) (g : Nat) : State := (s.members g).foldl State.leaveTile s

/-- A group's shot ends at tick `e`: the next base is set, the run ends, or it waits to resume (R202, R206). -/
def State.closeShot (s : State) (g e : Nat) : State :=
  let ends := s.runOver g
  let s := (s.leaveShot g).resumeCapture
  let x := s.group g
  let s := s.setGroup g { x with
    inShot := false, shotVoid := false, lateLogged := false, barriers := [], startHops := none,
    base := x.base + 16 * (e + x.gap * s.gapFactor), awaitStart := x.startEvc.isSome }
  if ends then s.endRun g
  else if !x.missing.isEmpty then
    let s := s.setGroup g { s.group g with state := .waitResume }
    ((s.members g).foldl (fun s t => s.put F.runStatus_RUN_STATE t 3) s).stopEngines
  else (s.armStart g).stopEngines

/-- SHOT_END_BOUNDARY (R202). -/
def execShotEndBoundary (g : Fin 16) (s : State) : Result :=
  let s := s.fresh
  let x := s.group g
  .next (match s.shotEnd g with
    | some e => if x.state = .running && x.inShot && x.base + 16 * e ≤ s.si then s.closeShot g e else s
    | none => s)

/-! ### Jump requests (R200) -/

/-- A jump request reaches the tile: `late` where it comes less than 6 ticks before the switch point, or after it
and before its boundary. -/
def State.takeJump (s : State) (t : Nat) (j : Jump) : State :=
  let r := s.tile t
  let late := s.playsShot t
    && (r.chosen.isSome || decide ((s.segmentEnd t : Int) < s.tick t + Config.switchLead + 6))
  if late && s.flag F.program_JUMP_LATE t then
    (s.count F.runStatus_JUMP_DROP t).raise (seqSource t 8)
  else
    let s := if r.jump.isSome then s.count F.runStatus_JUMP_REPLACED t else s
    let s := if late then s.count F.runStatus_JUMP_DEFER t else s
    s.setTile t { s.tile t with jump := some { j with deferred := late && r.chosen.isNone } }

/-- JUMP_REQUEST (R200): the oldest request on its way to the tile. -/
def execJumpRequest (t : Fin 16) (s : State) : Result :=
  let s := s.fresh
  let r := s.tile t
  .next (match r.jumps with
    | j :: rest => (s.setTile t { r with jumps := rest }).takeJump t j
    | [] => s)

/-! ### Run control, 0x03xx -/

/-- The lowest free group number (R358). -/
def State.freeGroup (s : State) : Nat :=
  ((List.range 16).find? fun g => (s.group g).state = .idle).getD 16

/-- A tile joins a run (R98, R190, R208). -/
def State.joinRun (s : State) (g t : Nat) : State :=
  let s := s.setTile t { TileRun.init with group := some g, suspect := (s.tile t).suspect }
  let s := s.setEngine t { s.engine t with haltPending := false, voidPending := false }
  let s := ((s.put F.runStatus_VOID_SHOTS t 0).put F.runStatus_SHOT_SEQ t 0).put F.runStatus_RUN_STATE t 1
  let s := s.clearCounters t 8 8
  let deferred := s.blocking.deferred.write false t (1 ≤ s.get F.powerStatus_THROTTLE_STEP)
  let s := { s with blocking := { s.blocking with deferred } }
  (biasOfTile t).foldl (fun s n =>
    (s.setBias n { s.biasOf n with heldSeg := none, lateSeg := none }).putFlag F.biasStatus_PARKED n false) s

/-- Every channel group takes INIT (R220). -/
def State.initGroups (s : State) : State :=
  (List.range 32).foldl (fun s g => s.putFlag F.group_STATE g (s.flag F.group_INIT g)) s

/-- The first multiple of 16 samples at least 8,000 ticks on (R358). -/
def State.firstBase (s : State) : Nat := (s.si + 128000 + 15) / 16 * 16

/-- A run group is formed (R201, R358). -/
def State.startRun (s : State) (r : Request) : Answer :=
  let g := s.freeGroup
  let mask := r.at 0 2
  let evc := if r.at 12 2 = 0xFFFF then none else some (r.at 12 2)
  let s := s.setGroup g { RunGroup.init with
    state := .running, mask, owner := r.fn, policy := r.at 2 1, shots := r.at 4 4, gap := r.at 8 4,
    startEvc := evc, base := s.firstBase, awaitStart := evc.isSome }
  let s := ((bitList mask 16).foldl (fun s t => s.joinRun g t) s).initGroups.stopEngines
  .ok s (leBytes g 1 ++ zeros 7 ++ leBytes (if evc.isSome then 0 else s.firstBase) 8)

/-- The start channel is owned by the caller or by CRD (R214, R358). -/
def State.startOwned (s : State) (r : Request) : Bool :=
  let c := r.at 12 2
  512 ≤ c || s.get F.channel_OWNER c = r.fn || s.get F.channel_OWNER c = 9

/-- The caller owns every tile of a mask. -/
def State.ownsAll (s : State) (r : Request) (mask : Nat) : Bool := (bitList mask 16).all (s.owns r)

/-- RUN_START (R358). -/
def runStartCommand (r : Request) (s : State) : Command :=
  let mask := r.at 0 2
  { frame := exactly r 16, access := accessIf (s.ownsAll r mask && s.startOwned r), modes := modesRS,
    refused := false,
    checks := [badAt 0 (mask = 0), badAt 2 (1 < r.at 2 1), r.rsv 3 1,
      badAt 12 (512 ≤ r.at 12 2 && r.at 12 2 ≠ 0xFFFF), r.rsv 14 2,
      ((bitList mask 16).any fun t => s.inRun t || s.get F.engineStatus_STATE t = 3, .busy, 0)],
    act := fun s => s.startRun r }

/-- RUN_START. -/
def execRunStart (m : Fin 16) (s : State) : Result := .next (s.fresh.serve m 0x0301 runStartCommand)

/-- A group belongs to the function that started it; one that is not active belongs to none. -/
def groupOwned (r : Request) (s : State) (g : Nat) : Option (Status × Nat) :=
  accessIf ((s.group g).state = .idle || (s.group g).owner = r.fn)

/-- The last SHOT_SEQ and the voided shots of a group. -/
def State.runFigures (s : State) (g : Nat) : List Byte :=
  leBytes ((s.group g).seq % 2 ^ 32) 4 ++ leBytes ((s.group g).voided % 2 ^ 32) 4

/-- HALT goes to every engine of a group (R162, R359): the shot in progress is voided, and the run ends at its
boundary. -/
def State.sendHalt (s : State) (g : Nat) : State :=
  let s := ((s.members g).foldl State.demandHalt s).demandHalt 16
  let s := (s.members g).foldl State.voidShot s
  s.setGroup g { s.group g with abort := true }

/-- RUN_STOP (R359): deferred while a shot is in progress. -/
def runStopCommand (r : Request) (s : State) : Command :=
  let g := r.at 0 1
  { frame := exactly r 4, access := groupOwned r s g, modes := modesRS, refused := false,
    checks := [badAt 0 ((s.group g).state = .idle), badAt 1 (1 < r.at 1 1), r.rsv 2 2],
    act := fun s =>
      if !(s.group g).inShot then let s := s.endRun g; .ok s (s.runFigures g)
      else if r.at 1 1 = 0 then .wait (s.setGroup g { s.group g with stopAfter := true }) (.runStop g)
      else .wait (s.sendHalt g) (.runStop g) }

/-- RUN_STOP. -/
def execRunStop (m : Fin 16) (s : State) : Result := .next (s.fresh.serve m 0x0302 runStopCommand)

/-- The stop is withdrawn (R356). -/
def State.withdrawStop (s : State) (g : Nat) : State :=
  let s := (s.members g ++ [16]).foldl (fun (s : State) t => s.setEngine t { s.engine t with haltPending := false }) s
  s.setGroup g { s.group g with stopAfter := false, abort := false }

/-- A deferred command has waited for `limit` ticks. -/
def State.expired (s : State) (d : Deferred) (limit : Nat) : Bool := d.since + limit ≤ s.clock.now

/-- RUN_STOP_TIMEOUT (R356): after 6 s. -/
def execRunStopTimeout (m : Fin 16) (s : State) : Result :=
  let s := s.fresh
  .next (match s.deferredOf m with
    | some d => match d.wait with
      | .runStop g =>
        if s.expired d (6 * Config.ticksPerS) then (s.withdrawStop g).finish d .timeout [] else s
      | _ => s
    | none => s)

/-- RUN_RESUME (R206): the next shot begins at entry 0. DESIGN CHOICE: at the point of R202, and no earlier than
the fetch lead after the command. -/
def State.resumeRun (s : State) (g : Nat) : State :=
  let x := s.group g
  let s := s.setGroup g { x with
    state := .running, missing := [], base := max x.base ((s.si + 15) / 16 * 16 + 16 * Config.fetchLead) }
  let s := (s.members g).foldl (fun s t => s.put F.runStatus_RUN_STATE t 1) s
  s.armStart g

/-- RUN_RESUME (R206). -/
def runResumeCommand (r : Request) (s : State) : Command :=
  let g := r.at 0 1
  let x := s.group g
  { frame := exactly r 4, access := groupOwned r s g, modes := modesRS, refused := x.state ≠ .waitResume,
    checks := [r.rsv 1 3, (x.missing.any fun k => !(s.segment k.1 k.2).resident, .busy, 0)],
    act := fun s => .ok (s.resumeRun g) [] }

/-- RUN_RESUME. -/
def execRunResume (m : Fin 16) (s : State) : Result := .next (s.fresh.serve m 0x0303 runResumeCommand)

/-- A tile is running (R360): it belongs to a run that does not wait to resume. -/
def State.running (s : State) (t : Nat) : Bool :=
  match (s.tile t).group with
  | some g => (s.group g).state = .running
  | none => false

/-- A jump request is on its way to a tile. -/
def State.postJump (s : State) (t : Nat) (j : Jump) : State :=
  let r := s.tile t
  s.setTile t { r with jumps := r.jumps ++ [j] }

/-- RUN_JUMP (R360): no event causes these requests. -/
def runJumpCommand (r : Request) (s : State) : Command :=
  let mask := r.at 0 2
  let e := r.at 2 1
  { frame := exactly r 4, access := accessIf (s.ownsAll r mask), modes := modesRS,
    refused := (bitList mask 16).any fun t => !s.running t,
    checks := [badAt 2 ((bitList mask 16).any fun t => (s.list t).length ≤ e), r.rsv 3 1],
    act := fun s =>
      let j : Jump := { entry := e, hops := 0, evc := none, deferred := false }
      .ok ((bitList mask 16).foldl (fun s t => s.postJump t j) s) [] }

/-- RUN_JUMP. -/
def execRunJump (m : Fin 16) (s : State) : Result := .next (s.fresh.serve m 0x0304 runJumpCommand)

/-- The state of a group as RUN_STATUS codes it. -/
def GroupState.code (x : GroupState) : Nat :=
  match x with
  | .idle => 0
  | .running => 1
  | .waitResume => 2

/-- RUN_STATUS (R208). -/
def runStatusCommand (r : Request) (s : State) : Command :=
  let g := r.at 0 1
  { frame := exactly r 4, access := groupOwned r s g, modes := modesRSF, refused := false,
    checks := [badAt 0 (16 ≤ g), r.rsv 1 3],
    act := fun s =>
      let x := s.group g
      .ok s (leBytes x.state.code 1 ++ leBytes x.policy 1 ++ leBytes x.mask 2 ++ leBytes x.shots 4
        ++ s.runFigures g) }

/-- RUN_STATUS. -/
def execRunStatus (m : Fin 16) (s : State) : Result := .next (s.fresh.serve m 0x0305 runStatusCommand)

end Sys2Proof.Machine
end

