-- ==== Sys2Proof/Machine/Words.lean ====
section
/-! DEFINITION. The operation words (R176 to R195): dispatch, pulses, frames, bias operations, acquisitions,
waits, branches, barriers, counters and segment ends. A row names a tile; the word is the one at the tile's
position in its operation memory. -/

namespace Sys2Proof.Machine

/-! ### Dispatch (R150, R179, R180, R199) -/

/-- Where the words of a tile are taken: the segment, its SEG_BASE and its boundary. -/
structure Site where
  id : Nat
  seg : Segment
  base : Nat
  stop : Nat
deriving DecidableEq, Repr

/-- The successor once it is chosen, and the segment in play before that. -/
def State.site (s : State) (t : Nat) : Site :=
  let r := s.tile t
  match r.chosen, r.chosenSeg with
  | some (some _), some id =>
    let g := s.segment t id
    { id, seg := g, base := s.segmentEnd t, stop := s.segmentEnd t + g.len }
  | _, _ => { id := s.get F.runStatus_SEG_ID t, seg := s.playing t, base := r.segBase, stop := s.segmentEnd t }

/-- The prefetch queue of a tile's engine (R149): the 16 words at its position. -/
def State.prefetch (s : State) (t : Nat) : List Nat :=
  s.program.opMem.readAll 0 (32768 * t + ((s.site t).seg.opAddr + (s.tile t).pc)) 16

/-- The word at the position of a tile, and the one after it. -/
def State.wordAt (s : State) (t : Nat) : Nat := (s.prefetch t).getD 0 0
def State.extAt (s : State) (t : Nat) : Nat := (s.prefetch t).getD 1 0

/-- The engine of a tile dispatches words: a shot is in play or has been begun on, and nothing holds it. -/
def State.dispatches (s : State) (t : Nat) : Bool :=
  let r := s.tile t
  r.group.isSome && (r.inShot || (r.prepared && decide (0 ≤ s.tick t + Config.switchLead))) && !r.ended
    && r.endTick.isNone && r.emitAt.isNone && r.untilTick.isNone && r.barrier.isNone
    && (s.engine t).patchStop.isNone && s.get F.engineStatus_STATE t ≠ 3

/-- The shot tick of a timed word (R179). -/
def State.wordTick (s : State) (t w : Nat) : Nat :=
  if relOf w then (s.tile t).mark + dtOf w else (s.site t).base + dtOf w

/-- A REL word falls at or after the boundary of its segment (R179). -/
def State.relLate (s : State) (t w : Nat) : Bool := relOf w && (s.site t).stop ≤ s.wordTick t w

/-- The instance of a word ends, and the engine goes on `n` words further. -/
def State.advance (s : State) (t n : Nat) : State :=
  (s.setTile t { s.tile t with pc := (s.tile t).pc + n }).endInstance t

/-- An end word is dispatched; after the switch point the engine chooses at once (R199). -/
def State.endSegment (s : State) (t : Nat) : State :=
  let r := s.tile t
  let s := (s.setTile t { r with ended := true }).endInstance t
  if r.chosen.isNone && decide ((s.segmentEnd t : Int) ≤ s.tick t + Config.switchLead) then
    s.choose t
  else s

/-- How the run of a changed routine leaves its word: it waits, it is dispatched again (REPEAT), or the engine goes on.
Where a fetch fails it stands for its machine check. -/
def State.leaveChanged (s : State) (t w : Nat) (e : RunEnd) : State :=
  match e with
  | .waiting => s.beginWait t
  | .ended true => s.endInstance t
  | .ended false => if (opOf w).ends then s.endSegment t else s.advance t (if (opOf w).ext then 2 else 1)
  | .failed => s

/-- A routine that a patch has changed runs from a fetch address on: 512 microwords are more than R152 allows. -/
def State.runChanged (s : State) (t w a : Nat) : State :=
  let x := State.runFrom s.control t 512 a false s
  x.2.leaveChanged t w x.1

/-- A word is dispatched: the routine that its opcode names in the dispatch table runs (R150), and does what this chapter
states of the operation, unless a patch has changed it (R155). -/
def State.perform (s : State) (t w : Nat) (act : State → State) : State :=
  if s.rewritten (opcodeOf w) then s.runChanged t w (opcodeOf w) else act s

/-- An untimed word of operation `o` is dispatched. -/
def State.dispatch (s : State) (t : Nat) (o : Op) (act : Nat → State → State) : State :=
  let w := s.wordAt t
  if s.dispatches t && opOf w = o then s.perform t w (act w) else s

/-- A timed word of operation `o` is dispatched, no earlier than T − 256 (R180). -/
def State.dispatchTimed (s : State) (t : Nat) (o : Op) (act : Nat → Nat → State → State) : State :=
  let w := s.wordAt t
  if s.dispatches t && opOf w = o then
    if s.relLate t w then s.programFault t
    else
      let tick := s.wordTick t w
      if (tick : Int) ≤ s.tick t + Config.lookahead then s.perform t w (act w tick) else s
  else s

/-! ### Pulses and frames (R180, R183, R184) -/

/-- A pulse from a context, with AMP, PHASE and FOFS as given (R181, R183). -/
def pulseOf (ctx amp phase : Nat) (fofs : Int) : Pulse :=
  { base := 0, tick := 0, offs := 0, frac := ctxFrac ctx, dflt := ctxTset ctx, placed := 0, ready := 0
    libPtr := ctxLibPtr ctx, libLen := ctxLibLen ctx
    length := if ctxDuration ctx = 0 then ctxLibLen ctx else ctxDuration ctx
    amp, phase, fofs, grid := 0, start := 0 }

/-- The placed instant of a pulse under the timing set in force for its nominal start (R33, R44). -/
def State.placePulse (s : State) (t : Nat) (probe : Bool) (u : Nat) (p : Pulse) : Pulse :=
  let set := (s.tile t).setAt p.tick p.dflt
  let (at_, frac) := placed p.base p.tick p.offs p.frac (s.edgeOffset t set (toneLocal probe u))
  { p with placed := 16 * at_.toNat + frac }

/-- A pulse of a timed word is handed to a unit of its tone (R180), which asks for its first row (R231): with all four
busy the word stands. A LIB_LEN of 0 makes no pulse (R183). -/
def State.playPulse (s : State) (t w tick n : Nat) (p : Pulse) : State :=
  match s.targetTone t w with
  | none => s.programFault t
  | some (probe, u) =>
    if p.libLen = 0 then s.advance t n
    else
      let k := toneKey t probe u
      if !(s.tone k).unitFree then s.beginWait t
      else
        let (ready, s) := s.firstRow t
        let p := s.placePulse t probe u { p with base := (s.tile t).base, tick, offs := offsetOf w, ready }
        (s.setTone k ((s.tone k).place s.si [p])).advance t n

/-- PLAY (R180, R181). -/
def execPlay (t : Fin 16) (s : State) : Result :=
  .next (s.fresh.dispatchTimed t .play fun w tick s =>
    let c := s.context t (ctxOf w)
    s.playPulse t w tick 1 (pulseOf c (ctxAmp c) (ctxPhase c) (ctxFofs c)))

/-- PLAY_PARAM (R183): AMP, PHASE and FOFS come from the extension word. -/
def execPlayParam (t : Fin 16) (s : State) : Result :=
  .next (s.fresh.dispatchTimed t .playParam fun w tick s =>
    let c := s.context t (ctxOf w)
    let x := s.extAt t
    s.playPulse t w tick 2 (pulseOf c (bits x 0 16) (bits x 16 16) (signed (bits x 32 32) 32)))

/-- The stamp of a FRAME update (R33, R44). DEDUCED: a FRAME has no context, so before any TSET its set is set 0. -/
def State.placeFrame (s : State) (t : Nat) (probe : Bool) (u : Nat) (x : FrameUpdate) : FrameUpdate :=
  let set := (s.tile t).setAt x.tick 0
  { x with due := (placed x.base x.tick x.offs 0 (s.edgeOffset t set (toneLocal probe u))).1.toNat }

/-- A FRAME update joins its tone (R64, R184). -/
def State.sendFrame (s : State) (t w tick : Nat) : State :=
  match s.targetTone t w with
  | none => s.programFault t
  | some (probe, u) =>
    let x := s.placeFrame t probe u
      { due := 0, base := (s.tile t).base, tick, offs := offsetOf w, setFreq := bit w 38, setFrame := bit w 39
        absolute := if bit w 40 then bit w 41 else s.toneAbsolute t probe u, ext := s.extAt t }
    let k := toneKey t probe u
    let tone := s.tone k
    (s.setTone k { tone with updates := insertUpdate x tone.updates }).advance t 2

/-- FRAME (R184). -/
def execFrame (t : Fin 16) (s : State) : Result :=
  .next (s.fresh.dispatchTimed t .frame fun w tick s => s.sendFrame t w tick)

/-! ### Bias operations (R89, R185) -/

/-- The stamp of a bias operation (R33, R41, R44). -/
def State.placeOp (s : State) (t c : Nat) (o : BiasOp) : BiasOp :=
  let set := (s.tile t).setAt o.tick o.dflt
  { o with due := (placed o.base o.tick 0 0 (s.edgeOffset t set (6 + c))).1.toNat }

/-- A bias operation leaves for its channel's island (R89, R34), no earlier than 256 ticks before its due SI, and with at
most 4 of its channel's held there (R38). -/
def State.sendBias (s : State) (t w tick transit : Nat) (act : BiasAct) : State :=
  match s.targetBias t w with
  | none => s.programFault t
  | some c =>
    let ctx := s.context t (ctxOf w)
    let x := s.site t
    let n := 8 * t + c
    let o := s.placeOp t c
      { due := 0, issued := 0, usable := none, late := false, base := (s.tile t).base, tick, dflt := ctxTset ctx
        seg := (s.tile t).base + 16 * x.base, segId := x.id, block := (x.seg.opAddr + (s.tile t).pc) / 32
        pd := ctxPdSel ctx, act }
    let ops := (s.biasOf n).ops
    let issued := max s.si (max (o.due - 16 * Config.lookahead) ((ops.reverse[3]?.map BiasOp.due).getD 0))
    let (usable, s) := s.cross t (16 + t) issued transit
    let s := s.setBias n { s.biasOf n with ops := insertOp { o with issued, usable } ops }
    (s.noteArrival t (6 + c) o.due usable).advance t 2

/-- BIAS_SET (R90). -/
def execBiasSet (t : Fin 16) (transit : Fin 29) (s : State) : Result :=
  .next (s.fresh.dispatchTimed t .biasSet fun w tick s =>
    s.sendBias t w tick transit (.level (signed (bits (s.extAt t) 0 16) 16)))

/-- BIAS_RAMP (R90). -/
def execBiasRamp (t : Fin 16) (transit : Fin 29) (s : State) : Result :=
  .next (s.fresh.dispatchTimed t .biasRamp fun w tick s =>
    let x := s.extAt t
    s.sendBias t w tick transit (.ramp (signed (bits x 0 16) 16) (bits x 16 24 + 1)))

/-- BIAS_SINE (R90, R93). -/
def execBiasSine (t : Fin 16) (transit : Fin 29) (s : State) : Result :=
  .next (s.fresh.dispatchTimed t .biasSine fun w tick s =>
    let x := s.extAt t
    s.sendBias t w tick transit (.sine (bits x 0 16) (bits x 16 32) (bits x 48 16)))

/-! ### Acquisition and timing sets (R44, R117, R119, R186, R191) -/

/-- The weights and progress table of a set that govern the shot that a tile works on (R123, R439). -/
def State.weightsFor (s : State) (t j : Nat) : SMap Nat :=
  let k0 := 3200 * (32 * t + j)
  let bank := match s.cutoff t, s.readout.weightCommit.find (32 * t + j) with
    | some c, some l => if l.any (· ≤ c) then s.readout.weightShadow else s.readout.weights
    | _, _ => s.readout.weights
  (bank.filter fun kv => k0 ≤ kv.1 && kv.1 < k0 + 3200).map fun kv => (kv.1 - k0, kv.2)

/-- The decision input of a slot is armed by an ACQUIRE, with its value where it is set at once (R191). -/
def TileRun.armInput (r : TileRun) (slot : Nat) (v : Option (Nat × Bool)) : TileRun :=
  { r with
    inputs := r.inputs.filter (fun x => x.1 ≠ slot) ++ [(slot, r.acquires, v)]
    acquires := r.acquires + 1 }

/-- An ACQUIRE that no window answers (R20, R119, R191): the input is set at once, with outcome 3 and LOW_CONF, and no
decision comes of it. -/
def State.noTone (s : State) (t slot : Nat) : State :=
  let s := (s.count F.acqStatus_NO_TONE t).raise (707 + 4 * t)
  s.setTile t ((s.tile t).armInput slot (some (3, true)))

/-- The acquisition tone of a slot, where a window can open on it (R119, R182). -/
def State.acquireTone (s : State) (t slot ctx : Nat) : Option Nat :=
  match s.bindingByte t slot 3 with
  | some u =>
    if s.getFor t F.acqTone_ENABLE (16 * t + u) = 1 && s.flag F.acqConfig_ADC_ENABLE t && ctxAcqLen ctx ≠ 0 then
      some u
    else none
  | none => none

/-- The window of an ACQUIRE (R117). -/
def State.windowOf (s : State) (t slot u ctx tick : Nat) : Window :=
  let r := s.tile t
  let set := r.setAt tick (ctxTset ctx)
  { slot := 16 * t + slot, tone := u, w := (r.base + 16 * tick : Nat), ofs := s.edgeOffset t set 5 / 16
    len := ctxAcqLen ctx, snap := ctxSnap ctx, pounce := ctxPounce ctx
    model := s.imageFor t .model (16 * t + slot), hist := s.imageFor t .histConfig (16 * t + slot)
    shift := s.getFor t F.acqTone_INT_SHIFT (16 * t + u), turn := s.acqTurn t u (s.edgeOffset t set 5 / 16)
    weights := s.weightsFor t (ctxWset ctx)
    shot := s.shotOf t, cutAt := none, serial := r.acquires, points := 0, sumI := 0, sumQ := 0
    ovrAt := none, sat := false, sealBad := false, ordinal := 0, overlaps := 0, decided := none, resid := none }

/-- An ACQUIRE on a slot (R117, R119, R191). -/
def State.acquire (s : State) (t w tick : Nat) : State :=
  let slot := indexOf w
  let ctx := s.context t (ctxOf w)
  match s.acquireTone t slot ctx with
  | none => (s.noTone t slot).advance t 1
  | some u =>
    let x := s.windowOf t slot u ctx tick
    let a := s.acq t
    let s := s.setAcq t { a with waiting := a.waiting ++ [x] }
    (s.setTile t ((s.tile t).armInput slot none)).advance t 1

/-- ACQUIRE (R186). -/
def execAcquire (t : Fin 16) (s : State) : Result :=
  .next (s.fresh.dispatchTimed t .acquire fun w tick s => s.acquire t w tick)

/-- The pulses and FRAME updates of a tone that start nominally at or after a tick are placed under the set in force,
where they have not begun to leave (R44). -/
def State.retimeTone (s : State) (t tick : Nat) (probe : Bool) (u : Nat) : State :=
  let b := (s.tile t).base
  let k := toneKey t probe u
  let x := (s.tone k).retime s.si (fun p => p.base = b && decide (tick ≤ p.tick)) (s.placePulse t probe u)
  let moves := fun (y : FrameUpdate) => y.base = b && decide (tick ≤ y.tick) && decide (s.si < y.due)
  let updates := ((x.updates.filter moves).map (s.placeFrame t probe u)).foldl (fun l y => insertUpdate y l)
    (x.updates.filter fun y => !moves y)
  s.setTone k { x with updates }

/-- An operation that has been placed anew leaves no earlier than 256 ticks before its due SI (R38). DESIGN CHOICE
(log 123): its arrival is put off by as much, and what left behind it keeps its own. -/
def BiasOp.putOff (o : BiasOp) : BiasOp :=
  let wait := (o.due - 16 * Config.lookahead) - o.issued
  { o with issued := o.issued + wait, usable := o.usable.map (· + wait) }

/-- The bias operations of a channel that have not left its tile, likewise. -/
def State.retimeOps (s : State) (t tick c : Nat) : State :=
  let b := s.biasOf (8 * t + c)
  let moves := fun (o : BiasOp) => o.base = (s.tile t).base && decide (tick ≤ o.tick) && decide (s.si < o.issued)
  let ops := ((b.ops.filter moves).map fun o => (s.placeOp t c o).putOff).foldl (fun l o => insertOp o l) (b.ops.filter fun o => !moves o)
  s.setBias (8 * t + c) { b with ops }

/-- OFS_ACQ in whole samples of the set in force for a window of the shot, behind a TSET that is not after it (R44,
R115). -/
def State.windowOfs (s : State) (t : Nat) (w : Window) : Int :=
  s.edgeOffset t ((s.tile t).setAt ((w.w.toNat - (s.tile t).base) / 16) 0) 5 / 16

/-- The windows that have not opened, likewise. -/
def State.retimeWindows (s : State) (t tick : Nat) : State :=
  let a := s.acq t
  let from_ : Int := ((s.tile t).base + 16 * tick : Nat)
  s.setAcq t { a with waiting := a.waiting.map fun w =>
    if w.shot = s.shotOf t && from_ ≤ w.w then
      { w with ofs := s.windowOfs t w, turn := s.acqTurn t w.tone (s.windowOfs t w) }
    else w }

/-- A TSET at a tick selects its set for what starts at that tick or later, whatever has been dispatched of it (R44). -/
def State.selectSet (s : State) (t tick set : Nat) : State :=
  let r := s.tile t
  let s := s.setTile t { r with tsets := r.tsets ++ [(tick, set)] }
  let s := (List.range 16).foldl (fun s u => (s.retimeTone t tick false u).retimeTone t tick true u) s
  let s := (List.range 8).foldl (fun s c => s.retimeOps t tick c) s
  s.retimeWindows t tick

/-- TSET (R44, R186). -/
def execTset (t : Fin 16) (s : State) : Result :=
  .next (s.fresh.dispatchTimed t .tset fun w tick s => (s.selectSet t tick (indexOf w)).advance t 1)

/-! ### Waits and branches (R158, R187 to R191) -/

/-- MARK takes a shot tick; a tick before the base counts as 0. -/
def State.setMark (s : State) (t : Nat) (tick : Int) : State :=
  s.setTile t { s.tile t with mark := tick.toNat }

/-- WAIT UNTIL (R188). -/
def execWaitUntil (t : Fin 16) (s : State) : Result :=
  .next (s.fresh.dispatchTimed t .waitUntil fun _ tick s =>
    (s.setTile t { s.tile t with untilTick := some tick }).beginWait t)

/-- WAIT_UNTIL_END (R188). -/
def execWaitUntilEnd (t : Fin 16) (s : State) : Result :=
  let s := s.fresh
  let r := s.tile t
  .next (match r.untilTick with
    | some x => if (x : Int) ≤ s.tick t then (s.setTile t { r with untilTick := none }).advance t 1 else s
    | none => s)

/-- A wait on an event ends: MARK takes its tick, the latch that it used clears, and the event is remembered
(R157, R187, R223). -/
def State.takeLatch (s : State) (t c h : Nat) : State :=
  let r := s.tile t
  let s := s.setTile t { r with latches := r.latches.filter fun x => x.1 ≠ c, lastHop := some (h, c) }
  s.setMark t (s.tick t)

/-- The channel and the timeout of a WAIT in EVENT mode. -/
def waitChannel (w : Nat) : Nat := bits w 0 9
def waitLimit (w : Nat) : Nat := bits w 9 28

/-- WAIT EVENT (R188): the row ends a wait whose latch is set, and begins or keeps it otherwise. -/
def execWaitEvent (t : Fin 16) (s : State) : Result :=
  .next (s.fresh.dispatch t .waitEvent fun w s =>
    match (s.tile t).latch (waitChannel w) with
    | some (_, _, h) => (s.takeLatch t (waitChannel w) h).advance t 1
    | none => s.beginWait t)

/-- A wait of `limit` ticks has expired (R158): the end of the Nth tick after the wait's first has passed. A limit
of 0 never expires. -/
def State.waitExpired (s : State) (t limit : Nat) : Bool :=
  match (s.engine t).waitSince with
  | some w => s.get F.engineStatus_STATE t = 2 && limit ≠ 0 && w + limit < s.clock.now
  | none => false

/-- WAIT_TIMEOUT of a tile (R158, R187 to R189): the event, the count and the report; MARK takes the tick. -/
def State.waitTimeout (s : State) (t : Nat) : State :=
  let s := (s.count F.engineStatus_TIMEOUT_COUNT t).raise (seqSource t 4)
  (s.report 18 false (seqSource t 4) t (s.shotOf t)).setMark t (s.tick t)

/-- WAIT_EVENT_TIMEOUT (R188): an event that comes with the expiry wins. -/
def execWaitEventTimeout (t : Fin 16) (s : State) : Result :=
  .next (s.fresh.dispatch t .waitEvent fun w s =>
    if s.waitExpired t (waitLimit w) && ((s.tile t).latch (waitChannel w)).isNone then
      (s.waitTimeout t).advance t 1
    else s)

/-- ALIGN (R187): the smallest multiple of GRID at or after the dispatch tick plus LEAD. -/
def execAlign (t : Fin 16) (s : State) : Result :=
  .next (s.fresh.dispatch t .align fun w s =>
    let grid := bits w 0 16
    let from_ := s.tick t + bits w 16 16
    (s.setMark t ((from_ + grid - 1) / grid * grid)).advance t 1)

/-- A BRANCH_ON goes on at the word that its extension names for an index (R189). -/
def State.branch (s : State) (t index : Nat) : State := s.advance t (2 + bits (s.extAt t) (16 * index) 16)

/-- BRANCH_ON DECISION (R189, R191): an input that no ACQUIRE of the shot has armed never comes, so index 3 is
taken at once. A decision counts as H = 0 (R223). -/
def execBranchOnDecision (t : Fin 16) (s : State) : Result :=
  .next (s.fresh.dispatch t .branchDecision fun w s =>
    let r := s.tile t
    match r.inputs.find? fun x => x.1 = indexOf w with
    | none => (s.setMark t (s.tick t)).branch t 3
    | some (_, _, none) => s.beginWait t
    | some (_, _, some (outcome, _)) =>
      let inputs := r.inputs.filter fun x => x.1 ≠ indexOf w
      let s := s.setTile t { r with inputs, lastHop := some (0, 0) }
      (s.setMark t (s.tick t)).branch t outcome)

/-- The channel and the timeout of a BRANCH_ON. -/
def branchChannel (w : Nat) : Nat := bits w 28 9
def branchLimit (w : Nat) : Nat := bits w 0 28

/-- BRANCH_ON EVENT (R189). -/
def execBranchOnEvent (t : Fin 16) (s : State) : Result :=
  .next (s.fresh.dispatch t .branchEvent fun w s =>
    match (s.tile t).latch (branchChannel w) with
    | some (p, _, h) => (s.takeLatch t (branchChannel w) h).branch t p
    | none => s.beginWait t)

/-- The condition of a waiting BRANCH_ON holds. -/
def State.branchReady (s : State) (t w : Nat) : Bool :=
  let r := s.tile t
  match opOf w with
  | .branchDecision => r.inputSet (indexOf w)
  | _ => (r.latch (branchChannel w)).isSome

/-- BRANCH_ON_TIMEOUT (R189): index 3. -/
def execBranchOnTimeout (t : Fin 16) (s : State) : Result :=
  let s := s.fresh
  let w := s.wordAt t
  .next (if s.dispatches t && (opOf w = .branchDecision || opOf w = .branchEvent)
      && s.waitExpired t (branchLimit w) && !s.branchReady t w then
    (s.waitTimeout t).branch t 3
  else s)

/-- What the word that an engine waits in waits for has come. -/
def State.waitOver (s : State) (t w : Nat) : Bool :=
  let r := s.tile t
  match r.untilTick, r.emitAt, r.barrier with
  | some x, _, _ => decide ((x : Int) ≤ s.tick t)
  | none, some x, _ => decide ((x.1 : Int) ≤ s.tick t)
  | none, none, some _ => false
  | none, none, none => match opOf w with
    | .waitEvent => (r.latch (waitChannel w)).isSome
    | .branchDecision | .branchEvent => s.branchReady t w
    | .play | .playParam => match s.targetTone t w with
      | some (probe, u) => (s.tone (toneKey t probe u)).unitFree
      | none => true
    | _ => true

/-- The WAIT microword `u` of an engine times out (R158): TIMEOUT_COUNT counts, and the engine goes to FAIL. The fail
branches of the ROM's routines end with REPEAT, and the word waits again. -/
def State.goToFail (s : State) (t w u : Nat) : State :=
  let s := s.count F.engineStatus_TIMEOUT_COUNT t
  if s.rewritten (opcodeOf w) then s.runChanged t w (failOf u) else s.repeatWait t

/-- MICROWORD_WAIT_TIMEOUT (R156, R158): the condition of the WAIT microword that the engine stands at has not come by the
end of the Nth tick after the wait's first; a TIMEOUT of 0 waits for nothing. CRD waits in no operation word. -/
def execMicrowordWaitTimeout (e : Fin 17) (s : State) : Result :=
  let s := s.fresh
  let w := s.wordAt e
  .next (match s.control.waitWord (opcodeOf w) with
    | none => s
    | some u =>
      let come := if s.rewritten (opcodeOf w) then s.condition e u else s.waitOver e w
      if e.val < 16 && s.get F.engineStatus_STATE e = 2 && timeoutOf u ≠ 0
          && decide ((s.engine e).microSince + timeoutOf u < s.clock.now) && !come then
        s.goToFail e w u
      else s)

/-- CNT[c] of a tile (R190). -/
def State.counter (s : State) (t c : Nat) : Nat := s.getAt F.counters_CNT t c

/-- The index of a comparison (R189). -/
def compareIndex (x v : Nat) : Nat := if x < v then 0 else if x = v then 1 else 2

/-- BRANCH_ON COUNTER (R189). -/
def execBranchOnCounter (t : Fin 16) (s : State) : Result :=
  .next (s.fresh.dispatch t .branchCounter fun w s =>
    s.branch t (compareIndex (s.counter t (indexOf w)) (bits w 0 32)))

/-- BRANCH_ON ALWAYS (R189). -/
def execBranchOnAlways (t : Fin 16) (s : State) : Result :=
  .next (s.fresh.dispatch t .branchAlways fun _ s => s.branch t 0)

/-! ### Segment ends (R198, R199) -/

/-- SEG (R198). -/
def execSeg (t : Fin 16) (s : State) : Result := .next (s.fresh.dispatch t .seg fun _ s => s.endSegment t)

/-- LOOP (R198). -/
def execLoop (t : Fin 16) (s : State) : Result := .next (s.fresh.dispatch t .loop fun _ s => s.endSegment t)

/-- JUMP (R198). -/
def execJump (t : Fin 16) (s : State) : Result := .next (s.fresh.dispatch t .jump fun _ s => s.endSegment t)

/-- SHOT_END (R198). -/
def execShotEnd (t : Fin 16) (s : State) : Result :=
  .next (s.fresh.dispatch t .shotEnd fun _ s => s.endSegment t)

/-- BAD_OP (R150, R177, R194). -/
def execBadOp (t : Fin 16) (s : State) : Result := .next (s.fresh.dispatch t .bad fun _ s => s.programFault t)

/-! ### EMIT (R192, R223) -/

/-- EMIT (R192): the engine holds it until T. -/
def execEmit (t : Fin 16) (s : State) : Result :=
  .next (s.fresh.dispatchTimed t .emit fun w tick s =>
    (s.setTile t { s.tile t with emitAt := some (tick, indexOf w, bits w 38 2) }).beginWait t)

/-- EMIT_RAISE (R192). -/
def execEmitRaise (t : Fin 16) (s : State) : Result :=
  let s := s.fresh
  let r := s.tile t
  .next (match r.emitAt with
    | some (tick, k, p) =>
      if (tick : Int) ≤ s.tick t then
        ((s.setTile t { r with emitAt := none }).raiseFrom (seqSource t (12 + k)) p 0 r.lastHop).advance t 1
      else s
    | none => s)

/-! ### Counters (R190) -/

/-- COUNT SET. -/
def execCountSet (t : Fin 16) (s : State) : Result :=
  .next (s.fresh.dispatch t .countSet fun w s =>
    (s.putAt F.counters_CNT t (indexOf w) (bits w 0 32)).advance t 1)

/-- COUNT ADD: modulo 2³². -/
def execCountAdd (t : Fin 16) (s : State) : Result :=
  .next (s.fresh.dispatch t .countAdd fun w s =>
    (s.putAt F.counters_CNT t (indexOf w) ((s.counter t (indexOf w) + bits w 0 32) % 2 ^ 32)).advance t 1)

/-- A decision of the shot on a slot lies in an outcome mask. -/
def TileRun.matchesMask (r : TileRun) (slot mask : Nat) : Bool :=
  r.decisions.any fun d => d.1 = slot && bit mask d.2

/-- COUNT ADD_IF. -/
def execCountAddIf (t : Fin 16) (s : State) : Result :=
  .next (s.fresh.dispatch t .countAddIf fun w s =>
    let c := indexOf w
    let s := if (s.tile t).matchesMask (bits w 0 4) (bits w 4 4) then
        s.putAt F.counters_CNT t c ((s.counter t c + 1) % 2 ^ 32)
      else s
    s.advance t 1)

/-! ### Barriers (R193, R260) -/

/-- A barrier of a group. -/
def RunGroup.barrier (x : RunGroup) (num : Nat) : Option Barrier := x.barriers.find? fun b => b.num = num

/-- A group with a barrier replaced, or added. -/
def RunGroup.setBarrier (x : RunGroup) (b : Barrier) : RunGroup :=
  { x with barriers := x.barriers.filter (fun y => y.num ≠ b.num) ++ [b] }

/-- The ports that take part in barriers of kind 1 (R260). -/
def State.barrierPorts (s : State) : List Nat := (List.range 4).filter fun p => s.flag F.ulpControl_BARRIER_PORT p

/-- Every tile that the mask names has arrived. -/
def Barrier.complete (b : Barrier) : Bool :=
  (bitList b.mask 16).all fun t => b.arrivals.any fun a => a.1 = t

/-- The tick of the last local arrival. -/
def Barrier.lastTick (b : Barrier) : Int := b.arrivals.foldl (fun m a => max m a.2.1) (-64)

/-- The shot tick of a group. -/
def State.groupTick (s : State) (g : Nat) : Int := ((s.si : Int) - (s.group g).base) / 16

/-- A port still carries an arrival: its barrier's release tick has not come (R260). -/
def State.carries (s : State) (p : Nat) : Option (Nat × Nat × Nat) :=
  match (s.port p).barrierOut with
  | none => none
  | some (num, tick, g) =>
    match (s.group g).barrier num with
    | none => none
    | some b => match b.release with
      | some x => if (x : Int) ≤ s.groupTick g then none else some (num, tick, g)
      | none => some (num, tick, g)

/-- L (R260). -/
def State.barrierL (s : State) : Nat :=
  s.barrierPorts.foldl (fun m p => max m (s.get F.ulpControl_BAR_LEAD p)) 0

/-- A VOID order goes to every engine of a group (R162, R193). -/
def State.orderVoid (s : State) (g : Nat) : State :=
  let s := (s.members g).foldl State.voidShot s
  (s.members g).foldl (fun s t =>
    if (s.tile t).endTick.isNone then s.demandVoid t else s) s

/-- The shot of a group is voided for barrier `num` (R193, R260): the events, the report, the VOID order, and VOID_ORDER to
partners until the shot ends; no arrival of the shot waits any longer. -/
def State.voidBarrier (s : State) (g num : Nat) (partner : Bool) : State :=
  let s := (s.members g).foldl (fun s t => s.raise (seqSource t 11)) s
  let seq := (s.group g).seq
  let s := s.report 17 false 0xFFF num seq
  let s := s.setGroup g { s.group g with barriers := (s.group g).barriers.map fun b => { b with arrivals := [] } }
  let s := if partner then s.barrierPorts.foldl (fun s p =>
      s.setPort p { s.port p with voidOrder := some (seq % 2 ^ 16) }) s
    else s
  s.orderVoid g

/-- A barrier fails. -/
def State.failBarrier (s : State) (g : Nat) (b : Barrier) : State :=
  (s.setGroup g ((s.group g).setBarrier b)).voidBarrier g b.num b.partner

/-- The partner arrivals of a barrier, one for each port; none where one is still missing. -/
def State.partnerTicks (s : State) (num : Nat) : Option (List (Nat × Nat)) :=
  s.barrierPorts.mapM fun p =>
    match (s.port p).barrierIn with
    | some (n, tick, used) => if n = num && !used then some (p, tick) else none
    | none => none

/-- The partner arrivals that a barrier has taken serve no other. -/
def State.useArrivals (s : State) : State :=
  s.barrierPorts.foldl (fun s p =>
    let x := s.port p
    s.setPort p { x with barrierIn := x.barrierIn.map fun a => (a.1, a.2.1, true) }) s

/-- The release of a barrier of kind 1 whose partners have all arrived (R260): a release tick that comes too soon
after the last arrival fails the barrier. -/
def State.releaseWith (s : State) (g : Nat) (b : Barrier) (ps : List (Nat × Nat)) : State :=
  let top := ps.foldl (fun m a => max m (signed a.2 32)) b.lastTick
  let release := top + Config.barrierLead + s.barrierL
  let b := { b with release := some release.toNat, partners := ps }
  let s := s.useArrivals
  if release < s.groupTick g + Config.barrierLead then s.failBarrier g b
  else s.setGroup g ((s.group g).setBarrier b)

/-- A complete barrier of kind 1 goes to the partners, unless another is in flight on a port; its release follows
once their arrivals are known. -/
def State.settlePartner (s : State) (g : Nat) (b : Barrier) : State :=
  if s.barrierPorts.any fun p => match s.carries p with
      | some (n, _, g') => decide (¬(n = b.num ∧ g' = g))
      | none => false then s
  else
    let tick := unsigned b.lastTick 32
    let s := s.barrierPorts.foldl (fun s p =>
      s.setPort p { s.port p with barrierOut := some (b.num, tick, g) }) s
    match s.partnerTicks b.num with
    | some ps => s.releaseWith g b ps
    | none => s

/-- The release tick of a barrier is set once the last arrival that it awaits is usable in CRD (R193). -/
def State.settleBarrier (s : State) (g num : Nat) : State :=
  match (s.group g).barrier num with
  | none => s
  | some b =>
    if !b.complete || b.release.isSome || b.arrivals.isEmpty then s
    else if b.partner then s.settlePartner g b
    else s.setGroup g ((s.group g).setBarrier { b with release := some (b.lastTick + Config.barrierLead).toNat })

/-- The barrier that an arrival joins: the one of that number in the shot, begun anew where its last use has been
released, or a new one. -/
def RunGroup.joinBarrier (x : RunGroup) (num mask : Nat) (partner : Bool) : Barrier :=
  match x.barrier num with
  | some b => if b.arrivals.isEmpty then { b with partner, release := none, partners := [] } else b
  | none => { num, mask, partner, arrivals := [], partners := [], release := none }

/-- The arrival of a tile (R193). A mask bit outside the run group, a mask without the tile, or a mask that
differs from the barrier's, is a PROGRAM_FAULT. -/
def State.arrive (s : State) (g t w : Nat) : State :=
  let num := ctxOf w
  let mask := bits w 0 16
  let x := s.group g
  let b := x.joinBarrier num mask (kindOf w = 1)
  if !((bitList mask 16).all (s.members g).contains) || !bit mask t || b.mask ≠ mask then s.programFault t
  else
    let b := { b with arrivals := b.arrivals ++ [(t, s.tick t, bits w 16 22)] }
    let s := s.setGroup g (x.setBarrier b)
    let s := (s.setTile t { s.tile t with barrier := some num }).beginWait t
    s.settleBarrier g num

/-- BARRIER (R193). -/
def execBarrier (t : Fin 16) (s : State) : Result :=
  .next (s.fresh.dispatch t .barrier fun w s =>
    match (s.tile t).group with
    | some g => s.arrive g t w
    | none => s)

/-- A waiting tile goes on after a release (R187). -/
def State.releaseTileFrom (s : State) (t num release : Nat) : State :=
  let r := s.tile t
  if r.barrier = some num then
    ((s.setTile t { r with barrier := none }).setMark t release).advance t 1
  else s

/-- BARRIER_RELEASE (R193): every waiting engine has the release by 40 ticks before its tick. -/
def execBarrierRelease (g : Fin 16) (b : Fin 1024) (s : State) : Result :=
  let s := s.fresh
  .next (match (s.group g).barrier b with
    | none => s
    | some x => match x.release with
      | none => s
      | some release =>
        if !x.arrivals.isEmpty && decide ((release : Int) ≤ s.groupTick g + Config.switchLead) then
          let s := (s.members g).foldl (fun s t => s.releaseTileFrom t b release) s
          s.setGroup g ((s.group g).setBarrier { x with arrivals := [] })
        else s)

/-- The timeout of an arrival has expired before the release (R193). -/
def Barrier.expired (b : Barrier) (now : Int) : Bool :=
  b.arrivals.any fun a =>
    a.2.2 ≠ 0 && a.2.1 + a.2.2 ≤ now && (match b.release with
      | some r => decide (a.2.1 + a.2.2 < (r : Int))
      | none => true)

/-- Every barrier that is complete is settled, where nothing is in its way any more (R193, R260). -/
def State.settleAll (s : State) : State :=
  (List.range 16).foldl (fun s h =>
    ((s.group h).barriers.map Barrier.num).foldl (fun s n => s.settleBarrier h n) s) s

/-- BARRIER_TIMEOUT (R193, R260). -/
def execBarrierTimeout (g : Fin 16) (b : Fin 1024) (s : State) : Result :=
  let s := s.fresh
  .next (match (s.group g).barrier b with
    | none => s
    | some x => if x.expired (s.groupTick g) then s.failBarrier g x else s)

end Sys2Proof.Machine
end

