-- ==== Sys2Proof/Machine/Hatband.lean ====
section
/-! DEFINITION. Hatband (R210 to R226): arrival, gating, merging and delivery of events, group switches, the
trigger balls, and the commands EVC_STATUS_READ and CUT_RESTORE. -/

namespace Sys2Proof.Machine

/-- A change of Hatband. -/
def State.setHatband (s : State) (x : Hatband) : State := { s with hatband := x }

/-! ### Arrival (R212, R218, R220, R224) -/

/-- The oldest `n` events of a channel in a list, and the rest in order. -/
def takeEvents (c : Nat) : Nat → List Event → List Event × List Event
  | _, [] => ([], [])
  | 0, l => ([], l)
  | n + 1, e :: r =>
    if e.evc = c then
      let (a, b) := takeEvents c n r
      (e :: a, b)
    else
      let (a, b) := takeEvents c (n + 1) r
      (a, e :: b)

/-- Events that arrive in one Hatband cycle merge: the largest P, the OR of the F bits, the largest H (R218). -/
def mergeEvents (c : Nat) (l : List Event) : Event :=
  { evc := c, src := (l.head?.map Event.src).getD 0, p := l.foldl (fun m e => max m e.p) 0, f := l.foldl (fun m e => max m e.f) 0,
    h := l.foldl (fun m e => max m e.h) 0, n := l.length, held := false }

/-- The channel is gated by its group (R220). -/
def State.gated (s : State) (c : Nat) : Bool :=
  s.flag F.channel_GROUP_GATE c && !s.flag F.group_STATE (s.get F.channel_GROUP c)

/-- The groups that channel `c` switches on (`on`) or off. -/
def State.switched (s : State) (c : Nat) (on : Bool) : List Nat :=
  (List.range 32).filter fun g =>
    if on then s.flag F.group_ON_EN g && s.get F.group_ON_EVC g = c
    else s.flag F.group_OFF_EN g && s.get F.group_OFF_EVC g = c

/-- An activation of channel `c` has found a latch set, which keeps what it holds: LATCH_HELD counts it once
(R216, R219). -/
def State.latchHeld (s : State) (c : Nat) (held : Bool) : State :=
  if held then s.count F.channelStatus_LATCH_HELD c else s

/-- A group's ON or OFF latch is set; it acts in the next Hatband cycle (R220). -/
def State.latchSwitch (s : State) (g : Nat) (on : Bool) : State :=
  if s.hatband.switching.contains (g, on) then s
  else s.setHatband { s.hatband with switching := s.hatband.switching ++ [(g, on)] }

/-- The ON and OFF inputs of a channel, and whether one of them is set. -/
def State.switchInputs (s : State) (c : Nat) : List (Nat × Bool) :=
  (s.switched c true).map (·, true) ++ (s.switched c false).map (·, false)
def State.switchHeld (s : State) (c : Nat) : Bool := (s.switchInputs c).any s.hatband.switching.contains

/-- A channel activates: the merged event is on its way to the inputs, and its group switches are latched. -/
def State.activate (s : State) (e : Event) : State :=
  let c := e.evc
  let s := s.count F.channelStatus_MERGES c (e.n - 1)
  let s := ((s.put F.channelStatus_LAST_P c e.p).put F.channelStatus_LAST_F c e.f).put F.channelStatus_LAST_H c e.h
  let held := s.switchHeld c
  let s := s.setHatband { s.hatband with delivering := s.hatband.delivering ++ [{ e with held }] }
  ((s.switchInputs c).foldl (fun s x => s.latchSwitch x.1 x.2) s).latchHeld c held

/-- A channel enables the source of an event in the cycle in which it arrives (R212). -/
def State.enables (s : State) (c : Nat) (e : Event) : Bool := bit (s.get F.channel_SRC_EN c) (e.src / 128)

/-- Events of one cycle reach a channel: source enable, the group gate, then the cut check (R217). -/
def State.arriveAt (s : State) (c : Nat) (l : List Event) : State :=
  let l := l.filter (s.enables c)
  if l.isEmpty then s
  else if s.gated c then s.count F.channelStatus_GATED_DROP c
  else if s.flag F.channel_CUT c then s.count F.channelStatus_CUT_DROP c
  else s.activate (mergeEvents c l)

/-- HATBAND_ARRIVAL (R212): the `n` oldest events on their way to channel `c` arrive in this cycle. -/
def execHatbandArrival (c : Fin 512) (n : Fin 10) (s : State) : Result :=
  let s := s.fresh
  let (now, rest) := takeEvents c n s.hatband.arriving
  .next ((s.setHatband { s.hatband with arriving := rest }).arriveAt c now)

/-- GROUP_SWITCH (R220): OFF governs where both inputs are set. -/
def execGroupSwitch (g : Fin 32) (s : State) : Result :=
  let s := s.fresh
  let on := s.hatband.switching.contains (g.val, true)
  let off := s.hatband.switching.contains (g.val, false)
  .next (if on || off then
    (s.setHatband { s.hatband with switching := s.hatband.switching.filter fun x => x.1 ≠ g }).putFlag
      F.group_STATE g (!off)
  else s)

/-! ### Delivery (R217, R219) -/

/-- A segment of the tile's list that is resident or in play names channel `c` in a WAIT or BRANCH_ON. -/
def State.namesChannel (s : State) (t c : Nat) : Bool :=
  (s.list t).dedup.any fun id =>
    let g := s.segment t id
    (g.resident || (s.activeSegs t).contains id)
      && (s.segmentWords t g).any fun w => namedChannel w.1 = some c

/-- The engine event input of a tile for this channel (R188, R189, R191): its latches clear at shot start. -/
def State.engineBound (s : State) (t c : Nat) : Bool := (s.tile t).inShot && s.namesChannel t c
def State.deliverEngine (s : State) (e : Event) (t : Nat) : State :=
  let r := s.tile t
  if !s.engineBound t e.evc || (r.latch e.evc).isSome then s
  else s.setTile t { r with latches := r.latches ++ [(e.evc, e.p, e.f, e.h)] }

/-- ATTN input `j` of engine `x` (R162, R174). -/
def State.attnBound (s : State) (x j c : Nat) : Bool := bits (s.image .engineInterrupt x) (10 * j) 10 = c + 512
def State.deliverAttn (s : State) (c x j : Nat) : State :=
  if !s.attnBound x j c then s
  else if (s.engine x).attnPending.contains j then s.count F.engineStatus_ATTN_MERGE x
  else s.setEngine x { s.engine x with attnPending := (s.engine x).attnPending ++ [j] }

/-- The jump request of a tile (R200, R207): its latch is set until the request has reached the tile. -/
def State.jumpBound (s : State) (t c : Nat) : Bool :=
  s.flag F.program_JUMP_EVC_EN t && s.get F.program_JUMP_EVC t = c && s.inRun t
def State.jumpHeld (s : State) (t : Nat) : Bool := (s.tile t).jumps.any fun j => j.evc.isSome
def State.deliverJump (s : State) (e : Event) (t : Nat) : State :=
  if !s.jumpBound t e.evc || s.jumpHeld t then s
  else s.postJump t { entry := s.get F.program_JUMP_EVC_ENTRY t, hops := e.h, evc := some e.evc, deferred := false }

/-- The snapshot trigger of a tile (R125, R132): the snapshot starts at the tile's next word, and until then the latch
is set. -/
def State.snapshotBound (s : State) (t c : Nat) : Bool :=
  s.flag F.acqConfig_SNAP_EVC_EN t && s.get F.acqConfig_SNAP_EVC t = c
def State.snapshotHeld (s : State) (t : Nat) : Bool :=
  match (s.acq t).snapshot with
  | some x => x.event && decide (s.si < x.start)
  | none => false
def State.deliverSnapshot (s : State) (e : Event) (t : Nat) : State :=
  if !s.snapshotBound t e.evc || s.snapshotHeld t then s
  else s.startSnapshot t (s.si / 16 * 16 + 16) true (some (e.h, e.evc))

/-- The run start of a group (R201, R202). -/
def RunGroup.startBound (x : RunGroup) (c : Nat) : Bool := x.state ≠ .idle && x.startEvc = some c
def State.deliverStart (s : State) (e : Event) (g : Nat) : State :=
  let x := s.group g
  if !x.startBound e.evc || x.startLatch.isSome then s
  else (s.setGroup g { x with startLatch := some (e.p, e.f, e.h, s.si) }).armStart g

/-- A trigger ball at work. -/
def State.trig (s : State) (i : Nat) : Trig := s.hatband.trig.read .init i

/-- The level of a trigger output ball that is active or not (R226). -/
def State.trigLevel (s : State) (i : Nat) (active : Bool) : Bool := active != s.flag F.trigOut_POLARITY i

/-- The trigger output of ball `i` (R226): an activation during a pulse restarts it. -/
def State.trigBound (s : State) (i c : Nat) : Bool := s.flag F.trigOut_ENABLE i && s.get F.trigOut_EVC i = c
def State.deliverTrig (s : State) (c i : Nat) : State :=
  if !s.trigBound i c then s
  else
    let x := s.trig i
    let s := if x.pulseUntil.isSome then s else s.emit (.trigOut i (s.trigLevel i true))
    let x := { x with pulseUntil := some (s.clock.now + s.get F.trigOut_WIDTH i) }
    s.setHatband { s.hatband with trig := s.hatband.trig.write .init i x }

/-- Event counter `k` (R218, R222): a COUNT input adds at most 8 a cycle. -/
def State.deliverCount (s : State) (e : Event) (k : Nat) : State :=
  if s.flag F.eventCounter_ENABLE k && s.get F.eventCounter_EVC k = e.evc then
    s.count F.eventCounter_COUNT k (min e.n 8)
  else s

/-- Transmit decision stream `j` of port `p` (R254, R255): it holds P, F and H + 1. -/
def State.streamBound (s : State) (p j c : Nat) : Bool := s.getAt F.ulpStreams_STREAM p j = c + 512
def State.streamHeld (s : State) (p j : Nat) : Bool := ((s.port p).latches.find j).isSome
def State.deliverStream (s : State) (e : Event) (p j : Nat) : State :=
  if !s.streamBound p j e.evc || s.streamHeld p j then s
  else s.setPort p { s.port p with latches := (s.port p).latches.list j (e.p, e.f, e.h + 1, e.evc) }

/-- The monitor ADC's triggers (R383, R384). -/
def State.monRegBound (s : State) (c : Nat) : Bool :=
  s.get F.monControl_REG_TRIG = 2 && s.get F.monControl_REG_EVC = c
def State.monInjBound (s : State) (c : Nat) : Bool :=
  s.flag F.monControl_INJ_EVC_EN && s.get F.monControl_INJ_EVC = c
def State.deliverMonitor (s : State) (e : Event) : State :=
  let s := if s.monRegBound e.evc && s.hatband.monReg.isNone then
      s.setHatband { s.hatband with monReg := some (e.h, e.evc) }
    else s
  if s.monInjBound e.evc && s.hatband.monInj.isNone then
    s.setHatband { s.hatband with monInj := some (e.h, e.evc) }
  else s

/-- Some latch that is bound to a channel is set (R219). -/
def State.findsLatch (s : State) (c : Nat) : Bool :=
  ((List.range 16).any fun t =>
    (s.engineBound t c && ((s.tile t).latch c).isSome) || (s.jumpBound t c && s.jumpHeld t)
      || (s.snapshotBound t c && s.snapshotHeld t)
      || ((s.group t).startBound c && (s.group t).startLatch.isSome))
    || ((List.range 17).any fun x => (List.range 8).any fun j =>
      s.attnBound x j c && (s.engine x).attnPending.contains j)
    || ((List.range 8).any fun i => s.trigBound i c && (s.trig i).pulseUntil.isSome)
    || ((List.range 4).any fun p => (List.range 8).any fun j => s.streamBound p j c && s.streamHeld p j)
    || (s.monRegBound c && s.hatband.monReg.isSome) || (s.monInjBound c && s.hatband.monInj.isSome)

/-- An activation reaches every task input bound to its channel. LATCH_HELD counts an activation once (R216). -/
def State.deliver (s : State) (e : Event) : State :=
  let s := (s.count F.channelStatus_ACTIVATIONS e.evc).latchHeld e.evc (!e.held && s.findsLatch e.evc)
  let s := (List.range 16).foldl (fun s t =>
    ((s.deliverEngine e t).deliverJump e t).deliverSnapshot e t) s
  let s := (List.range 17).foldl (fun s x => (List.range 8).foldl (fun s j => s.deliverAttn e.evc x j) s) s
  let s := (List.range 16).foldl (fun s g => s.deliverStart e g) s
  let s := (List.range 8).foldl (fun s i => s.deliverTrig e.evc i) s
  let s := (List.range 64).foldl (fun s k => s.deliverCount e k) s
  let s := (List.range 4).foldl (fun s p => (List.range 8).foldl (fun s j => s.deliverStream e p j) s) s
  s.deliverMonitor e

/-- HATBAND_DELIVERY (R217): the oldest activation of channel `c`. -/
def execHatbandDelivery (c : Fin 512) (s : State) : Result :=
  let s := s.fresh
  let (now, rest) := takeEvents c 1 s.hatband.delivering
  .next (match now with
    | e :: _ => (s.setHatband { s.hatband with delivering := rest }).deliver e
    | [] => s)

/-- The tile, or the owner's slot or channel, that a source belongs to (R211, R213): none for a device-wide
source. -/
def sourceTile (src : Nat) : Option Nat :=
  if src < 256 then some (src / 16)
  else if src < 512 then some (src / 16 - 16)
  else if src < 640 then some ((src - 512) / 8)
  else if src < 704 then some ((src - 640) / 4)
  else if src < 768 then some ((src - 704) / 4)
  else none

/-- The sources that a SRC_EN image enables on channel `c` (R212). -/
def sourcesOf (c srcEn : Nat) : List Nat := (bitList srcEn 9).map fun j => c % 128 + 128 * j

/-- The channels that the segments of a tile name. -/
def State.namedChannels (s : State) (t : Nat) : List Nat :=
  (s.list t).dedup.flatMap fun id => (s.segmentWords t (s.segment t id)).filterMap fun w => namedChannel w.1

/-! ### Trigger balls (R226) -/

/-- A change of a trigger ball. -/
def State.setTrig (s : State) (i : Nat) (x : Trig) : State :=
  s.setHatband { s.hatband with trig := s.hatband.trig.write .init i x }

/-- TRIG_FAULT of ball `i`, with its report (class 29). -/
def State.trigFault (s : State) (i p : Nat) : State :=
  (s.raise (1128 + i) p).report 29 false (1128 + i) i p

/-- An edge is accepted. -/
def State.acceptEdge (s : State) (i : Nat) : State :=
  let first := s.si / 16 * 16 - 16 * (s.get F.trigIn_FILTER i - 1)
  let s := (s.put F.trigInStatus_EDGE_SI i first).count F.trigInStatus_EDGES i
  (s.setTrig i { s.trig i with lastEdge := some s.clock.now }).raise (1120 + i)

/-- An edge that comes too soon is dropped; the first drop after each read of the status record raises
TRIG_FAULT. -/
def State.dropEdge (s : State) (i : Nat) : State :=
  let s := s.count F.trigInStatus_TRIG_OVERRATE i
  if (s.trig i).overrateSeen then s
  else (s.setTrig i { s.trig i with overrateSeen := true }).trigFault i 1

/-- TRIG_IN_ACCEPT: the input has held its active level for FILTER samples. -/
def execTrigInAccept (i : Fin 8) (s : State) : Result :=
  let s := s.fresh
  .next (if s.mode = .reset || !s.flag F.trigIn_ENABLE i || s.flag F.trigInStatus_MASKED i then s
    else
      let soon := match (s.trig i).lastEdge with
        | some x => decide (s.clock.now < x + s.get F.trigIn_MIN_INTERVAL i)
        | none => false
      let s := (s.setTrig i { s.trig i with activeSince := some s.clock.now, inactiveSince := none, seen := some s.clock.now }).putFlag
        F.trigInStatus_LEVEL i true
      if soon then s.dropEdge i else s.acceptEdge i)

/-- TRIG_IN_STUCK: the input has been active for STUCK, in units of 10 µs. -/
def execTrigInStuck (i : Fin 8) (s : State) : Result :=
  let s := s.fresh
  .next (match (s.trig i).activeSince with
    | some x =>
      if s.flag F.trigIn_ENABLE i && !s.flag F.trigInStatus_MASKED i
          && x + 8000 * s.get F.trigIn_STUCK i ≤ s.clock.now then
        let s := (s.putFlag F.trigInStatus_MASKED i true).count F.trigInStatus_STUCK_COUNT i
        ((s.setTrig i { s.trig i with
          activeSince := none, inactiveSince := some s.clock.now, seen := some s.clock.now }).putFlag
          F.trigInStatus_LEVEL i true).trigFault i 2
      else s
    | none => s)

/-- TRIG_IN_UNMASK: the masked input has been inactive for 1 ms. It went inactive after it was masked, at an instant that no
row tells. -/
def execTrigInUnmask (i : Fin 8) (s : State) : Result :=
  let s := s.fresh
  .next (match (s.trig i).inactiveSince with
    | some x =>
      if s.flag F.trigInStatus_MASKED i && x + Config.ticksPerMs ≤ s.clock.now then
        let s := (s.putFlag F.trigInStatus_MASKED i false).putFlag F.trigInStatus_LEVEL i false
        (s.setTrig i { s.trig i with inactiveSince := none, seen := some s.clock.now }).trigFault i 3
      else s
    | none => s)

/-- TRIG_OUT_PULSE_END: WIDTH ticks after the pulse began or was restarted. -/
def execTrigOutPulseEnd (i : Fin 8) (s : State) : Result :=
  let s := s.fresh
  .next (match (s.trig i).pulseUntil with
    | some x =>
      if x ≤ s.clock.now then (s.setTrig i { s.trig i with pulseUntil := none }).emit (.trigOut i (s.trigLevel i false))
      else s
    | none => s)

/-! ### Commands, 0x04xx -/

/-- EVC_STATUS_READ (R216): F0 only. -/
def evcStatusReadCommand (r : Request) (_ : State) : Command :=
  let first := r.at 0 2
  let n := r.at 2 2
  { frame := exactly r 4, access := accessF0 r, modes := modesAll, refused := false,
    checks := [badAt 0 (512 ≤ first), badAt 2 (n = 0 || 64 < n || 512 < first + n)],
    act := fun s => .ok s ((List.range n).flatMap fun i => leBytes (s.image .channelStatus (first + i)) 16) }

/-- EVC_STATUS_READ. -/
def execEvcStatusRead (m : Fin 16) (s : State) : Result := .next (s.fresh.serve m 0x0401 evcStatusReadCommand)

/-- The channels that are cut. -/
def State.cutChannels (s : State) : List Nat := (List.range 512).filter fun c => s.flag F.channel_CUT c

/-- CUT_RESTORE (R224): CUT clears on every cut channel. -/
def cutRestoreCommand (r : Request) (_ : State) : Command :=
  { frame := exactly r 0, access := accessAdm r, modes := modesAll, refused := false, checks := [],
    act := fun s =>
      let cut := s.cutChannels
      .ok (cut.foldl (fun s c => s.putFlag F.channel_CUT c false) s) (leBytes cut.length 2 ++ zeros 2) }

/-- CUT_RESTORE. -/
def execCutRestore (m : Fin 16) (s : State) : Result := .next (s.fresh.serve m 0x0402 cutRestoreCommand)

end Sys2Proof.Machine
end

