-- ==== Sys2Proof/Machine/Uluforam.lean ====
section
/-! DEFINITION. Uluforam (R246 to R275): lanes and their lock, superframes and control frames, decision frames,
partner barriers and void orders, bulk cells, slot tables, sleep and link test. -/

namespace Sys2Proof.Machine

/-! ### Tables and frames (R251 to R253) -/

/-- The record index of the table in force, and of the shadow table, of a port. -/
def State.activeTable (s : State) (p : Nat) : Nat := 2 * p + s.get F.ulpStatus_ACTIVE_BANK p
def State.shadowTable (s : State) (p : Nat) : Nat := 2 * p + (1 - s.get F.ulpStatus_ACTIVE_BANK p)

/-- A table's hash (R253). -/
def State.tableHash (s : State) (i : Nat) : Nat := crc32c (leBytes (s.image .slotTable i) 64)

/-- The kind of a slot under the table in force. -/
def State.slotKind (s : State) (p slot : Nat) : Nat := s.getAt F.slotTable_ENTRY (s.activeTable p) slot

/-- A frame or cell with its check in bits [511:480]. -/
def withCheck (x : Nat) : Nat := bits x 0 480 + crc32c (leBytes (bits x 0 480) 60) <<< 480

/-- The check of a frame or cell passes. -/
def checkGood (x : Nat) : Bool := crc32c (leBytes (bits x 0 480) 60) = bits x 480 32

/-- The port runs full framing in loopback (R270). -/
def State.looped (s : State) (p : Nat) : Bool :=
  s.flag F.ulpControl_TEST p && s.get F.ulpControl_LOOPBACK p ≠ 0
    && (List.range 8).all fun l => s.get F.ulpLane_PRBS (8 * p + l) = 0

/-- The port is awake and enabled: shed stage 5 idles it (R368). -/
def State.portOn (s : State) (p : Nat) : Bool :=
  s.flag F.ulpControl_ENABLE p && decide (s.get F.powerStatus_SHED_STAGE < 5)

/-- The transmitter sends frames. -/
def State.sends (s : State) (p : Nat) : Bool :=
  s.portOn p && s.flag F.gridStatus_PLL_LOCK && (s.get F.ulpStatus_TX_STATE p = 1 || s.looped p)

/-- The receiver uses frames: its direction is UP, or it hears itself in loopback. -/
def State.hears (s : State) (p : Nat) : Bool :=
  s.get F.ulpStatus_RX_STATE p = 2
    || (s.looped p && s.get F.ulpStatus_LANE_LOCK p = 0xFF && (s.port p).controlOk)

/-- The superframe in which a sample lies: 528 ns each, counted from SI 0 (R251). -/
def State.superframeNow (s : State) : Nat := s.si * 5 / 33792

/-! ### Blocks (R247), and injection (R269) -/

/-- The headers of R247: 01 for a data block, 10 for a control block. -/
def dataHeader : Nat := 1
def controlHeader : Nat := 2

/-- One bit through the self-synchronous scrambler x⁵⁸ + x³⁹ + 1: `reg` holds the 58 scrambled bits before it, the latest
in bit 0. -/
def scrambleBit (reg : Nat) (b : Bool) : Bool := b ^^ bit reg 38 ^^ bit reg 57

/-- The 64 payload bits of a block, bit 0 first: scrambled, with the register after them. -/
def scrambleBlock (reg x : Nat) : Nat × Nat :=
  (List.range 64).foldl (fun acc i =>
    let b := scrambleBit acc.2 (bit x i)
    (acc.1 + b.toNat <<< i, (2 * acc.2 + b.toNat) % 2 ^ 58)) (0, reg)

/-- `n` consecutive bits of a block's 64 are flipped, where being free. -/
def State.flips (s : State) (n : Nat) : Nat × State :=
  let (v, s) := s.free
  ((2 ^ n - 1) <<< (v.toNat % (65 - n)), s)

/-- The bits that injection flips in lane `l` of a slot that is sent: what SINGLE or BURST has set, and a bit that RATE may
flip there. -/
def State.injectLane (s : State) (p l : Nat) : Nat × State :=
  let x := s.port p
  let k := min 64 (x.injected.read 0 l)
  let (m, s) := if k = 0 then (0, s) else (s.setPort p { x with injected := x.injected.drop l }).flips k
  if x.injecting.contains l then
    let (v, s) := s.free
    let (n, s) := s.flips 1
    (if v.getLsbD 0 then m ^^^ n else m, s)
  else (m, s)

/-- The block of lane `l` in a slot: the lane carries bits [64l+63:64l] of the payload. -/
def State.sendBlock (s : State) (p header payload l : Nat) : Nat × State :=
  let (y, reg) := scrambleBlock ((s.port p).scrambled.read 0 l) (bits payload (64 * l) 64)
  let (m, s) := (s.setPort p { s.port p with scrambled := (s.port p).scrambled.write 0 l reg }).injectLane p l
  (header + (y ^^^ m) <<< 2, s)

/-- The blocks of a slot, from lane `l` on. -/
def State.sendBlocks (s : State) (p header payload : Nat) : List Nat → List Nat × State
  | [] => ([], s)
  | l :: ls =>
    let (b, s) := s.sendBlock p header payload l
    let (bs, s) := s.sendBlocks p header payload ls
    (b :: bs, s)

/-- A slot is sent; in loopback the port's own receiver has it (R270). -/
def State.sendSlot (s : State) (p header payload : Nat) : State :=
  let (blocks, u) := s.sendBlocks p header payload (List.range 8)
  u.emit (if s.looped p then .ulpLoop p header payload blocks else .ulpSlot p header payload blocks)

/-- The headers of a received slot are all `header`, that of the kind which the table expects (R252). -/
def headersAre (headers : BitVec 16) (header : Nat) : Bool :=
  (List.range 8).all fun l => bits headers.toNat (2 * l) 2 = header

/-! ### Lanes and the receive direction (R248, R249) -/

/-- A commit ends without a swap (R265). -/
def State.failSwap (s : State) (p : Nat) : State :=
  if s.flag F.ulpStatus_SWAP_PENDING p then
    let s := (s.putFlag F.ulpStatus_SWAP_PENDING p false).putFlag F.ulpStatus_SWAP_FAILED p true
    let s := s.setPort p { s.port p with commitAt := none, proposal := 0, swapAt := none }
    s.finishAll (fun w => w = .tableCommit p) .timeout []
  else s

/-- A header is valid (R247). -/
def validHeader (h : BitVec 2) : Bool := h.toNat = dataHeader || h.toNat = controlHeader

/-- A hunting lane has found the header of its next block: an invalid one moves the block boundary by one bit, and nothing
more is sought after 64 consecutive valid ones (R248). -/
def LaneAlign.hunt (a : LaneAlign) (h : BitVec 2) : LaneAlign :=
  if 64 ≤ a.run then a
  else if validHeader h then { a with run := a.run + 1 }
  else { a with boundary := (a.boundary + 1) % 66, run := 0 }

/-- A locked lane has received a header: 64 of them are remembered. -/
def LaneAlign.keep (a : LaneAlign) (h : BitVec 2) : LaneAlign :=
  { a with recent := ((!validHeader h) :: a.recent).take 64 }

/-- 16 of some 64 consecutive headers were invalid: the lock is lost (R248). -/
def LaneAlign.follow (a : LaneAlign) : List (BitVec 2) → Bool × LaneAlign
  | [] => (false, a)
  | h :: hs => if 16 ≤ (a.keep h).recent.count true then (true, a.keep h) else (a.keep h).follow hs

/-- The alignment of a lane, and a change of it. -/
def State.align (s : State) (p l : Nat) : LaneAlign := (s.port p).aligns.read .init l
def State.setAlign (s : State) (p l : Nat) (a : LaneAlign) : State :=
  s.setPort p { s.port p with aligns := (s.port p).aligns.write .init l a }

/-- The receive direction leaves UP: every lane hunts again from where it stands, a commit fails, a follower of its time
enters holdover (R311), and the receiver starts afresh. -/
def State.rxDown (s : State) (p state : Nat) : State :=
  let was := s.get F.ulpStatus_RX_STATE p
  let s := (s.put F.ulpStatus_RX_STATE p state).put F.ulpStatus_LANE_LOCK p 0
  let x := s.port p
  let s := s.setPort p { x with
    controlOk := false, sameFrame := false, keptValid := false, firstUsed := false, firstFailed := false
    rxFailed := false, partnerProposal := 0, rxNotice := 0
    aligns := (List.range 8).foldl (fun m l => m.update .init l fun a => { a with run := 0, recent := [] }) x.aligns }
  let s := s.failSwap p
  if was = 2 && s.timeSource = sourceUlp && s.get F.timeControl_TIME_PORT = p then s.holdover else s

/-- The receive direction is taken DOWN and realigned (R263, LINK_RETRAIN): LINK_DOWN is raised where it was UP. -/
def State.realign (s : State) (p : Nat) : State :=
  let was := s.get F.ulpStatus_RX_STATE p
  if was = 1 || was = 2 then
    let s := s.rxDown p 0
    if was = 2 then s.raise (768 + 16 * p + 11) else s
  else s

/-- The FFE and CTLE settings of a lane come into force at its lock (R250). -/
def State.lockLane (s : State) (p l : Nat) : State :=
  let x := s.port p
  let s := s.setPort p { x with lanes := x.lanes.write 0 l (bits (s.image .ulpLane (8 * p + l)) 0 22) }
  let s := s.put F.ulpStatus_LANE_LOCK p (setBits (s.get F.ulpStatus_LANE_LOCK p) l 1 1)
  if s.get F.ulpStatus_LANE_LOCK p = 0xFF && s.get F.ulpStatus_RX_STATE p ≠ 5 then
    s.put F.ulpStatus_RX_STATE p 1
  else s

/-- LANE_LOCK (R248): a lane of a direction that is DOWN or aligning, naps behind its partner, or is looped. -/
def execLaneLock (p : Fin 4) (l : Fin 8) (headers : List (BitVec 2)) (s : State) : Result :=
  let s := s.fresh
  let rx := s.get F.ulpStatus_RX_STATE p
  .next (if s.portOn p && !bit (s.get F.ulpStatus_LANE_LOCK p) l
      && (rx = 0 || rx = 1 || rx = 3 || (rx = 5 && s.looped p)) then
    let a := headers.foldl LaneAlign.hunt (s.align p l)
    if 64 ≤ a.run then (s.setAlign p l { a with run := 0 }).lockLane p l else s.setAlign p l a
  else s)

/-- LANE_LOCK_LOSS (R248, R249): the events are raised once for the episode; a loss while the lanes hunt raises none. -/
def execLaneLockLoss (p : Fin 4) (l : Fin 8) (headers : List (BitVec 2)) (s : State) : Result :=
  let s := s.fresh
  let rx := s.get F.ulpStatus_RX_STATE p
  let (lost, a) := (s.align p l).follow headers
  .next (if !bit (s.get F.ulpStatus_LANE_LOCK p) l then s
    else if !lost then s.setAlign p l a
    else if rx = 1 || rx = 2 then
      let s := (s.rxDown p 0).count F.ulpStatus_LOCK_LOSS p
      ((s.raise (768 + 16 * p + 9)).raise (768 + 16 * p + 11)).report 11 false (768 + 16 * p + 9) p
    else if rx = 5 then s.rxDown p 5
    else s.put F.ulpStatus_LANE_LOCK p 0)

/-! ### Control frames, transmit (R251, R253, R265, R267, R316) -/

/-- The TIME field: the wall time at the start of the previous superframe. -/
def State.timeField (s : State) (prev : Nat) : Nat :=
  if s.flag F.timeControl_ULP_SERVE then
    prev / 2 ^ 32 % 2 ^ 64 + (prev % 2 ^ 32) <<< 64
      + (if s.flag F.timeStatus_STEPPED && !s.flag F.timeStatus_HOLDOVER then 1 else 0) <<< 96
      + s.get F.timeStatus_LOCKED <<< 97
  else 0

/-- The transmitter has been told to nap or deep-sleep and still sends. -/
def State.sleepDue (s : State) (p : Nat) : Bool :=
  s.get F.ulpStatus_TX_STATE p = 1 && s.get F.ulpControl_TX_POWER p ≠ 0

/-- The control frame of superframe `n`. -/
def State.controlFrame (s : State) (p n time : Nat) : Nat :=
  let x := s.port p
  let pending := s.get F.ulpStatus_SWAP_PENDING p
  let power := if s.sleepDue p then s.get F.ulpControl_TX_POWER p else 0
  withCheck (0xC0 + (n % 2 ^ 64) <<< 8 + s.tableHash (s.activeTable p) <<< 72
    + s.tableHash (s.shadowTable p) <<< 104 + pending <<< 136
    + ((if pending = 1 then x.proposal else 0) % 2 ^ 64) <<< 137
    + (if power = 1 then 1 else 0) <<< 201 + (if power = 2 then 1 else 0) <<< 202
    + (x.rxExpected % 2 ^ 16) <<< 203 + (if x.nakFrame then 1 else 0) <<< 219 + time <<< 224)

/-- S is the larger proposal once both are known (R265). -/
def Port.settleSwap (x : Port) : Port :=
  if x.commitAt.isSome && x.proposal ≠ 0 && x.partnerProposal ≠ 0 && x.swapAt.isNone then
    { x with swapAt := some (max x.proposal x.partnerProposal) }
  else x

/-- The MISMATCH that a matching control frame has ended clears (R266). -/
def State.clearMismatch (s : State) (p n : Nat) : State :=
  match (s.port p).mismatchClearAt with
  | some x => if x ≤ n then
      (s.setPort p { s.port p with mismatchClearAt := none }).putFlag F.ulpStatus_MISMATCH p false else s
  | none => s

/-- The port starts superframe `n`. -/
def State.startSuperframe (s : State) (p n : Nat) : State :=
  let s := (s.clearMismatch p n).put F.ulpStatus_SUPERFRAME p (n % 2 ^ 32)
  let here := s.wall * 2 ^ 32 + s.clock.wallFrac.toNat
  let prev := (s.clock.frameWall.read (0, 0) p).1
  let s := s.setClock { s.clock with frameWall := s.clock.frameWall.write (0, 0) p (here, prev) }
  let x := s.port p
  let proposal := if x.commitAt.isSome && x.proposal = 0 then n + 4 else x.proposal
  let x := ({ x with superframe := n, lastFrame := n + 1, proposal } : Port).settleSwap
  let s := s.setPort p x
  let s := s.sendSlot p controlHeader (s.controlFrame p n (s.timeField prev))
  s.setPort p { s.port p with
    nakFrame := false, notices := if s.sleepDue p then (s.port p).notices + 1 else 0 }

/-- SUPERFRAME_START (R251). -/
def execSuperframeStart (p : Fin 4) (s : State) : Result :=
  let s := s.fresh
  let n := s.superframeNow
  .next (if s.sends p && (s.port p).lastFrame ≠ n + 1 then s.startSuperframe p n else s)

/-- LINK_SLEEP_ENTER (R267): at the superframe boundary after two control frames with the notice. -/
def execLinkSleepEnter (p : Fin 4) (s : State) : Result :=
  let s := s.fresh
  .next (if s.sleepDue p && decide (2 ≤ (s.port p).notices) && s.superframeNow + 1 ≠ (s.port p).lastFrame then
    (s.put F.ulpStatus_TX_STATE p (s.get F.ulpControl_TX_POWER p + 1)).setPort p { s.port p with notices := 0 }
  else s)

/-! ### Bulk (R261 to R263) -/

/-- The cells that are still unacknowledged under an ACK: none where it names no cell in the window. -/
def Port.after (x : Port) (ack : Nat) : Option (List (Nat × Nat)) :=
  if ack = x.txSeq then some []
  else match x.unacked.dropWhile fun c => c.1 ≠ ack with
    | [] => none
    | l => some l

/-- An ACK, with NAK, from the partner. -/
def State.takeAck (s : State) (p ack : Nat) (nak : Bool) : State :=
  let x := s.port p
  match x.after ack with
  | none => s
  | some l =>
    let x := { x with
      unacked := l
      ackSince := if l.length < x.unacked.length then x.superframe else x.ackSince
      resend := if nak then l else x.resend.filter fun c => l.contains c }
    let s := s.setPort p x
    if nak && !l.isEmpty then s.count F.ulpStatus_BULK_RETX p else s

/-- A cell with its SEQ, ACK and NAK. -/
def cellImage (body seq ack : Nat) (valid nak : Bool) : Nat :=
  withCheck (seq % 2 ^ 16 + (ack % 2 ^ 16) <<< 16 + (if valid then 1 else 0) <<< 32
    + (if nak then 1 else 0) <<< 33 + (bits body 34 446) <<< 34)

/-- The body of a data cell: channel, length and data. -/
def cellBody (channel : Nat) (data : List Byte) : Nat :=
  channel <<< 34 + data.length <<< 38 + le data 0 data.length <<< 64

/-- The next cell of a port: one to resend, new data, or ACK only. -/
def State.nextCell (s : State) (p : Nat) : State :=
  let x := s.port p
  let s := s.setPort p { x with nakCell := false }
  match x.resend, x.queue with
  | c :: r, _ =>
    (s.setPort p { s.port p with resend := r }).sendSlot p dataHeader (cellImage c.2 c.1 x.rxExpected true x.nakCell)
  | [], (ch, data) :: q =>
    if x.unacked.length < 1024 then
      let c := (x.txSeq, cellBody ch data)
      (s.setPort p { s.port p with
        queue := q, unacked := x.unacked ++ [c], txSeq := (x.txSeq + 1) % 2 ^ 16
        ackSince := if x.unacked.isEmpty then x.superframe else x.ackSince }).sendSlot p dataHeader
          (cellImage c.2 c.1 x.rxExpected true x.nakCell)
    else s.sendSlot p dataHeader (cellImage 0 x.txSeq x.rxExpected false x.nakCell)
  | [], [] => s.sendSlot p dataHeader (cellImage 0 x.txSeq x.rxExpected false x.nakCell)

/-- The table in force has a BULK slot; under MISMATCH every slot but slot 0 is one (R266). -/
def State.hasBulk (s : State) (p : Nat) : Bool :=
  s.flag F.ulpStatus_MISMATCH p || (List.range 256).any fun i => s.slotKind p i = 0

/-- BULK_CELL_TX (R262): bulk cells wait while the reverse direction is not UP. -/
def execBulkCellTx (p : Fin 4) (s : State) : Result :=
  let s := s.fresh
  .next (if s.sends p && s.hears p && s.hasBulk p then s.nextCell p else s)

/-- BULK_ACK_TIMEOUT (R262). -/
def execBulkAckTimeout (p : Fin 4) (s : State) : Result :=
  let s := s.fresh
  let x := s.port p
  .next (if !x.unacked.isEmpty && decide (x.ackSince + Config.bulkAckSuperframes ≤ x.superframe) then
    (s.setPort p { x with resend := x.unacked, ackSince := x.superframe }).count F.ulpStatus_BULK_RETX p
  else s)

/-- NAK is due. -/
def State.oweNak (s : State) (p : Nat) (failed : Bool) : State :=
  let x := s.port p
  s.setPort p { x with nakCell := true, nakFrame := true, rxFailed := failed }

/-- A cell that fails its check (R262, R263): the second failure before the expected cell arrives is lasting. -/
def State.badCell (s : State) (p : Nat) : State :=
  if (s.port p).rxFailed then
    ((s.count F.ulpStatus_BULK_LASTING p).report 10 true 0xFFF p (s.port p).rxExpected).realign p
  else s.oweNak p true

/-! ### Decision frames (R255 to R260) -/

/-- Stream `j` in a frame that is built: its latch is read and cleared. The bits of STREAM_j. -/
def State.buildStream (s : State) (p j : Nat) : State × Nat :=
  let x := s.port p
  let seq := x.seqSent.read 0 j
  match x.latches.find j with
  | none => (s, seq <<< 6)
  | some (pp, f, h, c) =>
    let s := s.setPort p { x with latches := x.latches.drop j }
    if 3 ≤ h then (s.raiseFrom 0 0 0 (some (2, c)), seq <<< 6)
    else
      let seq := (seq + 1) % 16
      let s := s.setPort p { s.port p with seqSent := x.seqSent.write 0 j seq }
      (s, 1 + pp <<< 1 + f <<< 3 + h <<< 4 + seq <<< 6)

/-- The streams of a frame. -/
def State.buildStreams (s : State) (p : Nat) : State × Nat :=
  (List.range 8).foldl (fun (acc : State × Nat) j =>
    let (s, v) := acc.1.buildStream p j
    (s, acc.2 + v <<< (16 + 12 * j))) (s, 0)

/-- The void order that a port still sends: until the shot that it names ends (R260). -/
def State.voidCarried (s : State) (p : Nat) : Option Nat :=
  match (s.port p).voidOrder with
  | some seq => if (List.range 16).any fun g => (s.group g).inShot && (s.group g).seq % 2 ^ 16 = seq
      then some seq else none
  | none => none

/-- A decision frame (R256). -/
def State.decisionFrame (s : State) (p slot streams : Nat) : Nat :=
  let bar := match s.carries p with
    | some (num, tick, _) => 1 <<< 112 + (num % 1024) <<< 113 + (tick % 2 ^ 32) <<< 123
    | none => 0
  let void := match s.voidCarried p with
    | some seq => 1 <<< 155 + (seq % 2 ^ 16) <<< 156
    | none => 0
  withCheck (0xD1 + (slot % 256) <<< 8 + streams + bar + void)

/-- A frame leaves: both copies in the pair, or under MISMATCH a bulk cell on channel 2 with the frame's first 52
bytes (R266). -/
def State.sendFrameOut (s : State) (p frame : Nat) : State :=
  if s.flag F.ulpStatus_MISMATCH p then
    let x := s.port p
    s.setPort p { x with queue := x.queue ++ [(2, leBytes frame 52)] }
  else (s.sendSlot p controlHeader frame).sendSlot p controlHeader frame

/-- DECISION_FRAME_BUILD (R255): a barrier that waited for an earlier one goes into the first frame after it (R260). -/
def execDecisionFrameBuild (p : Fin 4) (slot : BitVec 8) (s : State) : Result :=
  let s := s.fresh
  .next (if s.sends p && s.slotKind p slot.toNat = 1 then
    let (s, streams) := s.settleAll.buildStreams p
    let s := s.setPort p { s.port p with voidOrder := s.voidCarried p }
    s.sendFrameOut p (s.decisionFrame p slot.toNat streams)
  else s)

/-- Entry `j` of a used frame (R257). -/
def State.useStream (s : State) (p frame j : Nat) : State :=
  let v := bits frame (16 + 12 * j) 12
  let x := s.port p
  let valid := bits v 0 1
  let d := (bits v 6 4 + 16 - x.seqKept.read 0 j) % 16
  let src := 768 + 16 * p
  let s := if x.keptValid && valid < d then
      ((s.count F.ulpStatus_DEC_MISSING p (d - valid)).raise (src + 14) (j % 4) (j / 4)).report 9 true (src + 14) p j
    else s
  let s := s.setPort p { s.port p with seqKept := x.seqKept.write 0 j (bits v 6 4) }
  if valid = 1 then s.raise (src + j) (bits v 1 2) (bits v 3 1) (bits v 4 2) else s

/-- A partner arrival in a used frame (R260): a new one raises BARRIER_RX, and the barriers that await it are
judged. -/
def State.useArrival (s : State) (p frame : Nat) : State :=
  let x := s.port p
  let num := bits frame 113 10
  let tick := bits frame 123 32
  if bit frame 112 then
    let known : Bool := match x.barrierIn with
      | some (n, k, _) => n = num && k = tick
      | none => false
    if known then s
    else
      let s := (s.setPort p { x with barrierIn := some (num, tick, false) }).raise (768 + 16 * p + 8)
      (List.range 16).foldl (fun s g => s.settleBarrier g num) s
  else
    s.setPort p { x with barrierIn := x.barrierIn.bind fun a => if a.2.2 then none else some a }

/-- A segment of a tile holds a BARRIER of kind 1. -/
def State.partnerBarrier (s : State) (t : Nat) : Bool :=
  (s.list t).dedup.any fun id => (s.segmentWords t (s.segment t id)).any fun w =>
    opOf w.1 = .barrier && kindOf w.1 = 1

/-- The groups whose shot a void order names. DEDUCED: those that take part in barriers of kind 1. -/
def State.voidTargets (s : State) (seq : Nat) : List Nat :=
  (List.range 16).filter fun g =>
    (s.group g).inShot && (s.group g).seq % 2 ^ 16 = seq && (s.members g).any s.partnerBarrier

/-- The barrier of kind 1 of a group that is in flight: its number, 0 where none is. -/
def RunGroup.partnerNum (x : RunGroup) : Nat :=
  ((x.barriers.find? fun b => b.partner && !b.arrivals.isEmpty).map Barrier.num).getD 0

/-- A void order in a used frame (R260): the shot is voided as by its own device, once; frames that repeat the order find
it carried on. -/
def State.useVoid (s : State) (p frame : Nat) : State :=
  let seq := bits frame 156 16
  if !bit frame 155 then s
  else match s.voidTargets seq with
    | [] => s.count F.ulpStatus_VOID_STALE p
    | gs => if s.voidCarried p = some seq then s
      else gs.foldl (fun s g => s.voidBarrier g (s.group g).partnerNum true)
        (s.setPort p { s.port p with voidOrder := some seq })

/-- A decision frame is used. -/
def State.useFrame (s : State) (p frame : Nat) : State :=
  let s := (List.range 8).foldl (fun s j => s.useStream p frame j) s
  let s := s.setPort p { s.port p with keptValid := true }
  (s.useArrival p frame).useVoid p frame

/-- The second copy of a pair (R257), which passes its check where `good`. -/
def State.secondCopy (s : State) (p frame : Nat) (good : Bool) : State :=
  let x := s.port p
  let s := s.setPort p { x with firstUsed := false, firstFailed := false }
  if x.firstUsed || !good then s
  else
    let s := s.count F.ulpStatus_DEC_DUP_USED p
    (if x.firstFailed then s.report 9 false 0xFFF p else s).useFrame p frame


/-! ### Bulk cells, receive -/

/-- A good data cell (R262): the expected one is taken, and one that follows a gap owes a NAK. -/
def State.takeCell (s : State) (p cell : Nat) : State :=
  let x := s.port p
  let seq := bits cell 0 16
  if seq = x.rxExpected then
    let s := s.setPort p { x with rxExpected := (seq + 1) % 2 ^ 16, rxFailed := false }
    let s := if x.rxFailed then s.report 10 false 0xFFF p seq else s
    if bits cell 34 4 = 2 then s.useFrame p (bits cell 64 416) else s
  else if (seq + 2 ^ 16 - x.rxExpected) % 2 ^ 16 < 1024 && !x.rxFailed then s.oweNak p false
  else s

/-- A slot that is handled as a bulk slot has been received (R252, R262, R263). -/
def State.bulkSlot (s : State) (p : Nat) (headers : BitVec 16) (cell : Nat) : State :=
  if !(headersAre headers dataHeader && checkGood cell) then s.badCell p
  else
    let s := s.takeAck p (bits cell 16 16) (bit cell 33)
    if bit cell 32 then s.takeCell p cell else s

/-- BULK_CELL_RX (R252, R262, R263). -/
def execBulkCellRx (p : Fin 4) (headers : BitVec 16) (cell : BitVec 512) (s : State) : Result :=
  let s := s.fresh
  .next (if s.hears p then s.bulkSlot p headers cell.toNat else s)

/-- DECISION_FRAME_RX (R252, R257): a copy that a receive direction which is UP has in full. Under MISMATCH its slot is
handled as a bulk slot (R266). -/
def execDecisionFrameRx (p : Fin 4) (second : Bool) (headers : BitVec 16) (frame : BitVec 512) (s : State) : Result :=
  let s := s.fresh
  let x := s.port p
  let good := headersAre headers controlHeader && checkGood frame.toNat
  .next (if !s.hears p then s
    else if s.flag F.ulpStatus_MISMATCH p then s.bulkSlot p headers frame.toNat
    else if second then s.secondCopy p frame.toNat good
    else
      let s := s.setPort p { x with firstUsed := good, firstFailed := !good }
      if good then s.useFrame p frame.toNat else s)

/-! ### Control frames, receive -/

/-- A good control frame ends the alignment (R249). -/
def State.linkUp (s : State) (p : Nat) : State :=
  let s := s.setPort p { s.port p with controlOk := true }
  if s.get F.ulpStatus_RX_STATE p = 1 then (s.put F.ulpStatus_RX_STATE p 2).raise (768 + 16 * p + 10) else s

/-- The proposal of a control frame (R265). -/
def State.useProposal (s : State) (p frame : Nat) : State :=
  let x := s.port p
  let prop := if bit frame 136 then bits frame 137 64 else 0
  let at_ := if prop ≠ x.partnerProposal then x.superframe else x.partnerProposalAt
  s.setPort p ({ x with partnerProposal := prop, partnerProposalAt := at_ } : Port).settleSwap

/-- MISMATCH sets, with its event and its report (R266). -/
def State.setMismatch (s : State) (p : Nat) : State :=
  if s.flag F.ulpStatus_MISMATCH p then s
  else ((s.putFlag F.ulpStatus_MISMATCH p true).raise (768 + 16 * p + 12)).report 12 false (768 + 16 * p + 12) p

/-- The local hash that governed a received superframe: the old table's before the last swap (R265). -/
def State.hashAt (s : State) (p n : Nat) : Nat :=
  let x := s.port p
  let old : Bool := match x.swapAt with
    | some k => decide (n < k) && !s.flag F.ulpStatus_SWAP_PENDING p
    | none => false
  s.tableHash (if old then s.shadowTable p else s.activeTable p)

/-- The hashes of a control frame (R266). -/
def State.useHashes (s : State) (p frame : Nat) : State :=
  let n := bits frame 8 64
  let s := s.put F.ulpStatus_REMOTE_HASH p (bits frame 72 32)
  let good : Bool := bits frame 72 32 = s.hashAt p n
  let x := s.port p
  let swapAt := match x.swapAt with
    | some k => if k ≤ n && !s.flag F.ulpStatus_SWAP_PENDING p then none else some k
    | none => none
  let s := s.setPort p { x with remoteShadow := bits frame 104 32, swapAt }
  if !good then (s.setPort p { s.port p with mismatchClearAt := none }).setMismatch p
  else if s.flag F.ulpStatus_MISMATCH p then
    s.setPort p { s.port p with mismatchClearAt := some (x.superframe + 1) }
  else s

/-- The TIME field of a control frame from the followed partner (R311, R316). -/
def State.useTime (s : State) (p frame : Nat) : State :=
  if s.timeSource ≠ sourceUlp || s.get F.timeControl_TIME_PORT ≠ p then s
  else if bit frame 320 && (s.port p).sameFrame then
    let here := (s.clock.frameWall.read (0, 0) p).2 / 2 ^ 32
    s.setClock { s.clock with ulpTime := some (bits frame 224 64, here), ulpTimeMissing := 0 }
  else
    let s := s.setClock { s.clock with ulpTimeMissing := s.clock.ulpTimeMissing + 1 }
    if s.clock.ulpTimeMissing = 4 then s.holdover else s

/-- The sleep notice of a control frame: after the second the receiver follows the transmitter into NAP (R267). -/
def State.useNotice (s : State) (p frame : Nat) : State :=
  if bit frame 201 || bit frame 202 then
    let s := s.setPort p { s.port p with rxNotice := (s.port p).rxNotice + 1 }
    if 2 ≤ (s.port p).rxNotice && s.get F.ulpStatus_RX_STATE p = 2 then
      ((s.put F.ulpStatus_RX_STATE p 3).put F.ulpStatus_LANE_LOCK p 0).setPort p { s.port p with
        rxNotice := 0, controlOk := false }
    else s
  else s.setPort p { s.port p with rxNotice := 0 }

/-- A control frame is used. -/
def State.useControl (s : State) (p frame : Nat) : State :=
  let s := s.linkUp p
  let s := s.setPort p { s.port p with sameFrame := bits frame 8 64 = (s.port p).superframe }
  let s := (s.takeAck p (bits frame 203 16) (bit frame 219)).useProposal p frame
  ((s.useHashes p frame).useTime p frame).useNotice p frame

/-- CONTROL_FRAME_RX (R249, R252, R253): every lane is locked; a frame that fails its check is not used. -/
def execControlFrameRx (p : Fin 4) (headers : BitVec 16) (frame : BitVec 512) (s : State) : Result :=
  let s := s.fresh
  let rx := s.get F.ulpStatus_RX_STATE p
  .next (if s.get F.ulpStatus_LANE_LOCK p = 0xFF && (rx = 1 || rx = 2 || s.looped p)
      && headersAre headers controlHeader && checkGood frame.toNat then
    s.useControl p frame.toNat
  else s)

/-! ### The swap (R265, R266) -/

/-- A commit of the shadow table. -/
def State.commitTable (s : State) (p : Nat) : State :=
  let s := s.putFlag F.ulpStatus_SWAP_PENDING p true
  s.setPort p { s.port p with commitAt := some (s.port p).superframe, proposal := 0, swapAt := none }

/-- R265 refuses a commit; either direction sleeps (R267). -/
def State.commitRefused (s : State) (p : Nat) : Bool :=
  !(s.get F.ulpStatus_TX_STATE p = 1 && s.get F.ulpStatus_RX_STATE p = 2 && (s.port p).sameFrame)

/-- Both banks swap at superframe `k`. -/
def State.swapTables (s : State) (p k : Nat) : State :=
  let differ : Bool := (s.port p).remoteShadow ≠ s.tableHash (s.shadowTable p)
  let s := s.put F.ulpStatus_ACTIVE_BANK p (1 - s.get F.ulpStatus_ACTIVE_BANK p)
  let s := if differ then s.setMismatch p else s
  let s := (s.putFlag F.ulpStatus_SWAP_PENDING p false).raise (768 + 16 * p + 13)
  let s := s.setPort p { s.port p with commitAt := none, proposal := 0, partnerProposal := 0 }
  s.finishAll (fun w => w = .tableCommit p) .ok
    (leBytes k 8 ++ leBytes (s.get F.ulpStatus_MISMATCH p) 1 ++ zeros 3)

/-- SLOT_SWAP (R265): at S, where the partner's proposal came at least one superframe before. -/
def execSlotSwap (p : Fin 4) (s : State) : Result :=
  let s := s.fresh
  let x := s.port p
  .next (match x.swapAt with
    | some k =>
      if s.flag F.ulpStatus_SWAP_PENDING p && decide (k ≤ s.superframeNow) && decide (x.partnerProposalAt + 1 ≤ k) then
        s.swapTables p k
      else s
    | none => s)

/-- SWAP_TIMEOUT (R265). -/
def execSwapTimeout (p : Fin 4) (s : State) : Result :=
  let s := s.fresh
  .next (match (s.port p).commitAt with
    | some c => if c + Config.swapSuperframes ≤ s.superframeNow then s.failSwap p else s
    | none => s)

/-! ### Sleep and test (R267 to R270) -/

/-- A channel that feeds a transmit stream of port `p` enables a source of tile `t`. -/
def State.feedsStream (s : State) (p t : Nat) : Bool :=
  (List.range 8).any fun j =>
    let v := s.getAt F.ulpStreams_STREAM p j
    bit v 9 && (sourcesOf (v % 512) (s.get F.channel_SRC_EN (v % 512))).any fun src => sourceTile src = some t

/-- A segment of tile `t` names a channel that enables a receive stream of port `p`. -/
def State.hearsStream (s : State) (p t : Nat) : Bool :=
  (s.namedChannels t).any fun c =>
    (sourcesOf c (s.get F.channel_SRC_EN c)).any fun src => 768 + 16 * p ≤ src && src < 776 + 16 * p

/-- An active run group uses the streams or the barriers of port `p` (R267). DEDUCED. -/
def State.portUsed (s : State) (p : Nat) : Bool :=
  (List.range 16).any fun t => s.inRun t &&
    (s.feedsStream p t || s.hearsStream p t || (s.flag F.ulpControl_BARRIER_PORT p && s.partnerBarrier t))

/-- The port takes the states that its control record orders (R267, R268, R271). -/
def State.settlePort (s : State) (p : Nat) : State :=
  let tx := s.get F.ulpStatus_TX_STATE p
  let rx := s.get F.ulpStatus_RX_STATE p
  if !s.portOn p then
    let s := if rx = 0 then s else s.rxDown p 0
    s.put F.ulpStatus_TX_STATE p 0
  else if s.flag F.ulpControl_TEST p then
    let s := if rx = 5 then s else s.rxDown p 5
    s.put F.ulpStatus_TX_STATE p 4
  else
    let txPower := s.get F.ulpControl_TX_POWER p
    let rxPower := s.get F.ulpControl_RX_POWER p
    let tx' := if tx = 2 || tx = 3 then txPower + 1 else 1
    let s := s.put F.ulpStatus_TX_STATE p tx'
    if rx = 5 then s.rxDown p (if rxPower = 0 then 0 else rxPower + 2) else s

/-- A write of RX_POWER (R267): a receiver sleeps at once, and wakes to hunt. -/
def State.orderRx (s : State) (p : Nat) : State :=
  let rx := s.get F.ulpStatus_RX_STATE p
  let power := s.get F.ulpControl_RX_POWER p
  if !s.portOn p || rx = 5 then s
  else if power = 0 then (if rx = 3 || rx = 4 then s.rxDown p 0 else s)
  else s.rxDown p (power + 2)

/-- INJ_GO (R269): SINGLE and BURST act on the lane's next block; RATE starts or stops. -/
def State.inject (s : State) (p l : Nat) : State :=
  let x := s.port p
  let i := 8 * p + l
  let toggled := if x.injecting.contains l then x.injecting.filter (· ≠ l) else x.injecting ++ [l]
  match s.get F.ulpLane_INJ_MODE i with
  | 1 => s.setPort p { x with injected := x.injected.write 0 l 1 }
  | 2 => s.setPort p { x with injected := x.injected.write 0 l (s.get F.ulpLane_INJ_LEN i + 1) }
  | 3 => s.setPort p { x with injecting := toggled }
  | _ => s

/-- The lane's checker runs. -/
def State.checks (s : State) (p l : Nat) : Bool :=
  s.get F.ulpStatus_RX_STATE p = 5 && s.get F.ulpLane_PRBS (8 * p + l) ≠ 0 && s.flag F.ulpLane_PRBS_CHECK (8 * p + l)

/-- PRBS_SYNC (R268). -/
def execPrbsSync (p : Fin 4) (l : Fin 8) (s : State) : Result :=
  let s := s.fresh
  .next (if s.checks p l then s.putFlag F.ulpLane_PRBS_SYNC (8 * p + l) true else s)

/-- PRBS_CHECK_ERROR (R268): the first after each read of the lane record raises PRBS_ERROR. -/
def execPrbsCheckError (p : Fin 4) (l : Fin 8) (s : State) : Result :=
  let s := s.fresh
  .next (if s.checks p l && s.flag F.ulpLane_PRBS_SYNC (8 * p + l) then
    let s := s.count F.ulpLane_PRBS_ERRORS (8 * p + l)
    if (s.port p).prbsSeen.contains l.val then s
    else (s.setPort p { s.port p with prbsSeen := (s.port p).prbsSeen ++ [l.val] }).raise (768 + 16 * p + 15)
  else s)

/-! ### Commands, 0x07xx -/

/-- The port status record with the values that the port holds live. -/
def State.portStatus (s : State) (p : Nat) : Nat :=
  setBits (s.image .ulpStatus p) 160 32 (s.tableHash (s.activeTable p))

/-- ULP_STATUS (R272). -/
def ulpStatusCommand (r : Request) (_ : State) : Command :=
  { frame := exactly r 0, access := accessF0 r, modes := modesAll, refused := false, checks := [],
    act := fun s => .ok s ((List.range 4).flatMap fun p => leBytes (s.portStatus p) 32) }

/-- ULP_STATUS. -/
def execUlpStatus (m : Fin 16) (s : State) : Result := .next (s.fresh.serve m 0x0701 ulpStatusCommand)

/-- TABLE_COMMIT (R265): it returns at the swap. -/
def tableCommitCommand (r : Request) (s : State) : Command :=
  let p := r.at 0 1
  { frame := exactly r 4, access := accessAdm r, modes := modesCPRS,
    refused := decide (p < 4) && s.commitRefused p,
    checks := [badAt 0 (4 ≤ p), r.rsv 1 3, (s.flag F.ulpStatus_SWAP_PENDING p, .busy, 0)],
    act := fun s => .wait (s.commitTable p) (.tableCommit p) }

/-- TABLE_COMMIT. -/
def execTableCommit (m : Fin 16) (s : State) : Result := .next (s.fresh.serve m 0x0702 tableCommitCommand)

/-- LINK_RETRAIN (R249). -/
def linkRetrainCommand (r : Request) (s : State) : Command :=
  let p := r.at 0 1
  { frame := exactly r 4, access := accessAdm r, modes := modesCPRS,
    refused := decide (p < 4) && s.portUsed p,
    checks := [badAt 0 (4 ≤ p), r.rsv 1 3],
    act := fun s => .ok (s.realign p) [] }

/-- LINK_RETRAIN. -/
def execLinkRetrain (m : Fin 16) (s : State) : Result := .next (s.fresh.serve m 0x0703 linkRetrainCommand)

end Sys2Proof.Machine
end

