-- ==== Sys2Proof/Machine/Fulling.lean ====
section
/-! DEFINITION. Fulling (R284 to R305): jobs, frames, stream contexts, block mode, the AUTO retry, and the
commands FULLING_SUBMIT and STREAM_*. -/

namespace Sys2Proof.Machine

/-! ### Job descriptors (R290) -/

def jobTag (d : Nat) : Nat := bits d 0 16
def jobStream (d : Nat) : Nat := bits d 16 12
def jobQueue (d : Nat) : Nat := bits d 28 4
def jobDelta (d : Nat) : Bool := bit d 32
def jobIndep (d : Nat) : Bool := bit d 33
def jobBlock (d : Nat) : Bool := bit d 34
def jobExpand (d : Nat) : Bool := bit d 35
def jobFrameLen (d : Nat) : Nat := bits d 40 13
def jobSrc (d : Nat) : Nat := bits d 64 64
def jobSrcBlocks (d : Nat) : Nat := bits d 128 32
def jobFirstSeq (d : Nat) : Nat := bits d 160 32
def jobDst (d : Nat) : Nat := bits d 192 64
def jobDstBlocks (d : Nat) : Nat := bits d 256 32

/-- The context state of a stream (R298). -/
def State.streamCtx (s : State) (id : Nat) : Nat := s.capture.contexts.read id id

/-- The history of a stream: the bytes of its last 32 KiB of DEFLATE input, oldest first. -/
def State.streamHistory (s : State) (id : Nat) : List Byte := s.capture.history.read [] id

/-- A context and its history take new values. -/
def State.setStream (s : State) (id ctx : Nat) (history : List Byte) : State :=
  s.setCapture { s.capture with
    contexts := s.capture.contexts.write id id ctx
    history := s.capture.history.write [] id history }

/-- The fields of a descriptor that BAD_VALUE refuses, each with its byte offset in the descriptor (R290). -/
def State.jobFaults (s : State) (d : Nat) : List (Bool × Nat) :=
  let frames := jobFrameLen d
  let ctx := s.streamCtx (jobStream d)
  [(!s.flag F.outQueue_ENABLE (jobQueue d), 3),
   (jobDelta d && jobBlock d, 4),
   (!jobBlock d && bit ctx 12 && bit ctx 13 ≠ jobDelta d, 4),
   (jobExpand d && !jobBlock d, 4),
   (bits d 36 4 ≠ 0, 4),
   (frames = 0 || 4096 < frames || (jobBlock d && 256 < frames), 5),
   (bits d 53 11 ≠ 0, 6),
   (jobSrc d % 256 ≠ 0 || s.storeRefuses (jobSrc d) (256 * jobSrcBlocks d), 8),
   (jobSrcBlocks d = 0 || 67108864 < jobSrcBlocks d, 16),
   (!jobBlock d && jobFirstSeq d ≠ 0, 20),
   (jobExpand d && (jobDst d % 256 ≠ 0 || s.storeRefuses (jobDst d) (256 * jobDstBlocks d)), 24),
   (bits d 288 224 ≠ 0, 36)]

/-- The unfinished jobs: running and waiting. -/
def State.unfinished (s : State) : List Job := (s.capture.running.map fun kv => kv.2.job) ++ s.capture.jobs

/-- A stream has a job waiting or running (R297). -/
def State.streamBusy (s : State) (id : Nat) : Bool := s.unfinished.any fun j => jobStream j.desc = id

/-- A queue has a job waiting or running (R304). -/
def State.queueBusy (s : State) (q : Nat) : Bool := s.unfinished.any fun j => jobQueue j.desc = q

/-- A descriptor is refused with BUSY (R290), after the descriptors `before` it in the batch. -/
def State.jobBusy (s : State) (before : List Nat) (d : Nat) : Bool :=
  (s.unfinished.map Job.desc ++ before).any (fun x => jobStream x = jobStream d && jobQueue x ≠ jobQueue d)
    || decide (256 ≤ s.capture.jobs.length + before.length)
    || (s.flag F.capControl_AUTO && decide (jobStream d < 64))

/-- Some descriptor of a batch is refused with BUSY. -/
def State.batchBusy (s : State) : List Nat → List Nat → Bool
  | _, [] => false
  | before, d :: r => s.jobBusy before d || s.batchBusy (before ++ [d]) r

/-- FULLING_SUBMIT (R290, R361). -/
def fullingSubmitCommand (r : Request) (s : State) : Command :=
  let n := r.at 0 4
  let ds := (List.range (min n 63)).map fun i => r.at (8 + 64 * i) 64
  let owned := ds.all fun d => s.owner (jobStream d % 16) = r.fn && s.owner (jobQueue d) = r.fn
  let faults := (List.range (min n 63)).flatMap fun i =>
    (s.jobFaults (r.at (8 + 64 * i) 64)).map fun x => badAt (8 + 64 * i + x.2) x.1
  { frame := exactly r (8 + 64 * n), access := accessIf owned, modes := modesPRS,
    refused := !s.flag F.ring_ENABLE (ringKey r.fn 32),
    checks := [badAt 0 (n = 0 || 63 < n), r.rsv 4 4] ++ faults ++ [(s.batchBusy [] ds, .busy, 0)],
    act := fun s =>
      let jobs := ds.map fun d =>
        ({ desc := d, fn := r.fn, auto := false, chunkAt := 0, faults := 0, waitSpace := false, waitFault := false } : Job)
      .ok (s.setCapture { s.capture with jobs := s.capture.jobs ++ jobs }) (leBytes n 2 ++ zeros 2) }

/-- FULLING_SUBMIT. -/
def execFullingSubmit (m : Fin 16) (s : State) : Result := .next (s.fresh.serve m 0x0501 fullingSubmitCommand)

/-! ### Starting a job (R292, R297, R301) -/

/-- Fulling runs (R283, R295). -/
def State.fullingRuns (s : State) : Bool :=
  modesPRS.contains s.mode && !s.flag F.capStatus_SHED_STOP && s.storeOpen

/-- The first job of a queue. -/
def State.queueHead (s : State) (q : Nat) : Option Job := s.capture.jobs.find? fun j => jobQueue j.desc = q

/-- The first job of a queue, where it can start. -/
def State.queueReady (s : State) (q : Nat) : Option Job :=
  match s.queueHead q with
  | some j =>
    if s.flag F.outQueue_ENABLE q && !j.waitSpace && !j.waitFault && (j.auto || !s.completionFull j.fn) then some j
    else none
  | none => none

/-- The queue that engine `e` serves next: queues e and e + 8 alternate while both have jobs waiting. -/
def State.nextQueue (s : State) (e : Nat) : Option Nat :=
  let last := s.capture.turn.read 16 e
  let first := if last = e then e + 8 else e
  let second := if last = e then e else e + 8
  if (s.queueReady first).isSome then some first
  else if (s.queueReady second).isSome then some second
  else none

/-- The list without its first entry equal to `j`. -/
def removeJob (j : Job) : List Job → List Job
  | [] => []
  | x :: r => if x = j then r else x :: removeJob j r

/-- The beats of a context's image: 129 blocks (R297). -/
def contextBeats : Nat := 516

/-- Engine `e` takes a job: it holds the 8 contexts that it used last, loads one that it does not hold, and saves the one
that goes (R297, R301). -/
def State.startJob (s : State) (e q : Nat) (j : Job) : State :=
  let id := jobStream j.desc
  let held := s.capture.held.read [] e
  let here := jobBlock j.desc || held.contains id
  let s := if here then s else s.moveBeats (fullingReader (e / 2)) contextBeats
  let s := if !here && 8 ≤ held.length then s.moveBeats captureWriter contextBeats else s
  let held' := if jobBlock j.desc then held else (id :: held.filter (· ≠ id)).take 8
  let x : RunJob :=
    { job := j, queue := q, bytes := 0, frames := 0, taken := 0, written := 0, ctx := s.streamCtx id
      history := s.streamHistory id, chunkKind := 0, chunkLeft := 0, finished := false, lastSeal := 0
      ready := s.clock.now + (if here then 200 else 3200) }
  s.setCapture { s.capture with
    jobs := removeJob j s.capture.jobs
    running := s.capture.running.list e x
    held := s.capture.held.write [] e held'
    turn := s.capture.turn.write 16 e q }

/-- FULLING_JOB_START (R292). -/
def execFullingJobStart (e : Fin 8) (s : State) : Result :=
  let s := s.fresh
  .next (if !s.fullingRuns || (s.capture.running.find e).isSome then s
    else match s.nextQueue e with
      | none => s
      | some q => match s.queueReady q with
        | some j => s.startJob e q j
        | none => s)

/-! ### Reading the source (R291) -/

/-- The store address of a byte of a job's source: an AUTO job's chunk lies in the capture ring. -/
def State.sourceByte (s : State) (j : Job) (off : Nat) : Nat :=
  if j.auto then s.capBase + (j.chunkAt + off) % s.capSize else jobSrc j.desc + off

/-- Block `i` of a job's source as it is read: a block that fails its seal is taken as read, and what is read of it
is free. -/
def State.sourceBlock (s : State) (j : Job) (i : Nat) (bad : Bool) : List Byte :=
  if bad then (List.range 256).map fun k => Config.freeByte (s.freeCount + 256 * i + k)
  else s.storeBytes (s.sourceByte j (256 * i)) 256

/-- Blocks `first` to `first + n − 1` of a job's source; `bad` numbers the failing ones from `first` on. -/
def State.sourceBlocks (s : State) (j : Job) (first n : Nat) (bad : List Nat) : List (List Byte) :=
  (List.range n).map fun i => s.sourceBlock j (first + i) (bad.contains i)

/-- A beat of those blocks reads poisoned (R240, R241). -/
def State.sourcePoisoned (s : State) (j : Job) (first n : Nat) : Bool :=
  (List.range n).any fun i => s.storePoisoned (s.sourceByte j (256 * (first + i))) 256

/-- The failing blocks of a frame are counted, with one log entry each (R291). -/
def State.noteBad (s : State) (x : RunJob) (first n : Nat) (bad : List Nat) : State :=
  let hits := (List.range n).filter bad.contains
  let s := if hits.isEmpty then s else { s with freeCount := s.freeCount + 256 * (first + n) }
  hits.foldl (fun s i =>
    (s.count F.fullingStatus_SEAL_BAD_BLOCKS 0).report 21 false 0xFFF (jobTag x.job.desc)
      (s.sourceByte x.job (256 * (first + i)))) s

/-! ### The delta transform (R288) -/

/-- The 16-bit words of a block, one in two. -/
def component (b : List Byte) (off : Nat) : List Nat := (List.range 64).map fun i => le b (4 * i + off) 2

/-- Differences modulo 2¹⁶, zigzagged. -/
def zigzag (l : List Nat) : List Nat :=
  (List.range l.length).map fun i =>
    let d := if i = 0 then l.getD 0 0 else (l.getD i 0 + 65536 - l.getD (i - 1) 0) % 65536
    (d * 2 % 65536) ^^^ (if 32768 ≤ d then 65535 else 0)

/-- One data block of an IQ chunk, transformed. -/
def deltaBlock (b : List Byte) : List Byte :=
  let zi := zigzag (component b 0)
  let zq := zigzag (component b 2)
  (zi.map fun z => BitVec.ofNat 8 z) ++ (zq.map fun z => BitVec.ofNat 8 z)
    ++ (zi.map fun z => BitVec.ofNat 8 (z / 256)) ++ (zq.map fun z => BitVec.ofNat 8 (z / 256))

/-- The blocks of a frame after the transform, with the chunk that the last of them lies in: its kind and the data
blocks left. -/
def deltaBlocks : List (List Byte) → Nat → Nat → List (List Byte) × Nat × Nat
  | [], kind, left => ([], kind, left)
  | b :: r, _, 0 =>
    let (out, x) := deltaBlocks r (le b 0 1) (le b 2 2 % 1024)
    (b :: out, x)
  | b :: r, kind, left + 1 =>
    let (out, x) := deltaBlocks r kind left
    ((if kind = 2 then deltaBlock b else b) :: out, x)

/-! ### Frames (R284 to R287, R293, R299) -/

/-- What a frame header says. -/
structure FrameHead where
  stream : Nat
  raw : Bool
  indep : Bool
  delta : Bool
  sealBad : Bool
  seq : Nat
  rawLen : Nat
  compLen : Nat
  dataSeal : Nat
  seals : Nat
deriving DecidableEq, Repr

/-- Header bytes 0 to 27. -/
def FrameHead.bytes (h : FrameHead) : List Byte :=
  leBytes (0x46554C44 + (h.stream % 4096) <<< 32 + (if h.raw then 1 else 0) <<< 44 + (if h.indep then 1 else 0) <<< 45
    + (if h.indep then 0 else 1) <<< 46 + (if h.delta then 1 else 0) <<< 47 + (if h.sealBad then 1 else 0) <<< 48
    + (h.seq % 2 ^ 32) <<< 64 + h.rawLen <<< 96 + h.compLen <<< 128 + h.dataSeal <<< 160 + h.seals <<< 192) 28

/-- A frame: header, FRAME_SEAL, seal table and payload, padded with zeros to 64 bytes; and its FRAME_SEAL. -/
def frameBytes (h : FrameHead) (table payload : List Byte) : List Byte × Nat :=
  let head := h.bytes
  let sl := crc32c (head ++ table ++ payload)
  let body := head ++ leBytes sl 4 ++ table ++ payload
  (body ++ zeros ((64 - body.length % 64) % 64), sl)

/-- The space that the bound of R293 reserves for a frame of `n` blocks. -/
def frameBound (n : Nat) : Nat := (32 + 260 * n + 63) / 64 * 64

/-- Free bytes of an output queue beyond J. -/
def State.queueFree (s : State) (q j : Nat) : Nat :=
  4096 * s.get F.outQueue_SIZE q - (s.get F.outQueue_WP q + j - s.get F.outQueue_RP q)

/-- 64 bytes go to an address of the store: their block is written back with its seal. -/
def State.writeBeat (s : State) (a : Nat) (data : List Byte) : State :=
  let block := a / 256
  let old := s.storeBytes (256 * block) 256
  let off := a % 256
  let new := old.take off ++ data ++ old.drop (off + data.length)
  s.writeBlock block new (crc32c new)

/-- Bytes go to an output queue's ring from a position on. -/
def State.writeQueue (s : State) (q pos : Nat) : List (List Byte) → State
  | [] => s
  | b :: r =>
    let size := 4096 * s.get F.outQueue_SIZE q
    (s.writeBeat (4096 * s.get F.outQueue_BASE q + pos % size) b).writeQueue q (pos + 64) r

/-- The history after a frame: the last 32 KiB of the DEFLATE input. -/
def nextHistory (indep : Bool) (history data : List Byte) : List Byte :=
  let all := if indep then data else history ++ data
  all.drop (all.length - 32768)

/-- The running job of an engine takes a new value. -/
def State.setRun (s : State) (e : Nat) (x : RunJob) : State :=
  s.setCapture { s.capture with running := s.capture.running.list e x }

/-- One frame of a job that compresses: `n` blocks from the next one on. -/
def State.frameOf (s : State) (x : RunJob) (n : Nat) (bad : List Nat) : (List Byte × Nat) × RunJob :=
  let d := x.job.desc
  let blocks := s.sourceBlocks x.job x.taken n bad
  let (cooked, kind, left) :=
    if jobDelta d then deltaBlocks blocks x.chunkKind x.chunkLeft else (blocks, x.chunkKind, x.chunkLeft)
  let data := cooked.flatten
  let indep := jobBlock d || (x.frames = 0 && (jobIndep d || !bit x.ctx 12))
  let comp := Config.deflate (if indep then [] else x.history) data
  let raw := decide (256 * n ≤ comp.length)
  let payload := if raw then data else comp
  let table := if jobBlock d then []
    else (List.range n).flatMap fun i => leBytes (s.storeBlockSeal (s.sourceByte x.job (256 * (x.taken + i)) / 256)) 4
  let h : FrameHead :=
    { stream := jobStream d, raw, indep, delta := jobDelta d, sealBad := (List.range n).any bad.contains
      seq := (if jobBlock d then jobFirstSeq d else bits x.ctx 16 32) + x.frames, rawLen := 256 * n
      compLen := payload.length, dataSeal := crc32c blocks.flatten, seals := if jobBlock d then 0 else n }
  let f := frameBytes h table payload
  (f, { x with
    bytes := x.bytes + f.1.length, frames := x.frames + 1, taken := x.taken + n
    history := if jobBlock d then x.history else nextHistory indep x.history data
    chunkKind := kind, chunkLeft := left, finished := decide (jobSrcBlocks d ≤ x.taken + n), lastSeal := f.2 })

/-- A compressed frame is written, or its job fails with NO_SPACE (R293). -/
def State.writeFrame (s : State) (e : Nat) (x : RunJob) (bad : List Nat) (poisoned : Bool) : State :=
  let n := min (jobFrameLen x.job.desc) (jobSrcBlocks x.job.desc - x.taken)
  if poisoned || s.sourcePoisoned x.job x.taken n then s.failRun e .faulted false
  else
    let (f, x') := s.frameOf x n bad
    let s := s.noteBad x x.taken n bad
    if s.queueFree x.queue x.bytes < f.1.length then s.failRun e .noSpace false
    else
      let s := s.writeQueue x.queue (s.get F.outQueue_WP x.queue + x.bytes) (pieces 64 (f.1.length / 64) f.1)
      ((s.moveBeats (fullingReader (e / 2)) (4 * n)).moveBeats captureWriter (f.1.length / 64)).setRun e x'

/-! ### Block-mode expansion (R299) -/

/-- What a frame of an EXPAND job yields. -/
inductive Expanded where
  | bad (st : Status)
  /-- the frame's length in units of 64 bytes, and its data -/
  | frame (units : Nat) (data : List Byte)
deriving DecidableEq, Repr

/-- A block-mode header breaks the limits of R284 and R299. `seq` is the SEQ that the frame should carry and `room`
the source bytes from the frame on. -/
def headBad (h seq room : Nat) : Bool :=
  let raw := bits h 96 21
  let comp := bits h 128 21
  bits h 0 32 ≠ 0x46554C44 || !bit h 45 || bit h 46 || bit h 47 || bits h 49 15 ≠ 0
    || bits h 64 32 ≠ seq % 2 ^ 32 || raw % 256 ≠ 0 || raw = 0 || 65536 < raw || bits h 117 11 ≠ 0
    || bits h 149 11 ≠ 0 || (bit h 44 && comp ≠ raw) || raw < comp || bits h 192 16 ≠ 0 || bits h 208 16 ≠ 0
    || room < 32 + comp

/-- A block-mode frame is expanded: its header, FRAME_SEAL, payload and DATA_SEAL. -/
def expandFrame (src : List Byte) (seq : Nat) : Expanded :=
  let h := le src 0 32
  if headBad h seq src.length then .bad .badRecord
  else
    let comp := bits h 128 21
    let payload := slice src 32 comp
    if crc32c (slice src 0 28 ++ payload) ≠ bits h 224 32 then .bad .sealMismatch
    else match if bit h 44 then some payload else Config.inflate payload with
      | none => .bad .sealMismatch
      | some data =>
        if data.length ≠ bits h 96 21 || crc32c data ≠ bits h 160 32 then .bad .sealMismatch
        else .frame ((32 + comp + 63) / 64) data

/-- The end of an EXPAND job's source: all of it, or zeros that fill its last block. -/
def expandDone (src : List Byte) : Bool := src.isEmpty || (decide (src.length < 256) && src.all (· = 0))

/-- One frame of an EXPAND job. -/
def State.expandNext (s : State) (e : Nat) (x : RunJob) (bad : List Nat) (poisoned : Bool) : State :=
  let d := x.job.desc
  let first := x.taken / 4
  let left := jobSrcBlocks d - first
  let src := (s.sourceBlocks x.job first (min left 260) bad).flatten.drop (64 * (x.taken % 4))
  if poisoned then s.failRun e .faulted false
  else match expandFrame src (jobFirstSeq d + x.frames) with
    | .bad st => s.failRun e st false
    | .frame units data =>
      let n := data.length / 256
      let span := (x.taken % 4 + units + 3) / 4
      let s := s.noteBad x first span bad
      if s.sourcePoisoned x.job first span then s.failRun e .faulted false
      else if jobDstBlocks d < x.written + n then s.failRun e .noSpace false
      else
        let s := s.writeBlocks (jobDst d / 256 + x.written) (pieces 256 n data)
        let s := (s.moveBeats (fullingReader (e / 2)) units).moveBeats captureWriter (4 * n)
        s.setRun e { x with
          taken := x.taken + units, frames := x.frames + 1, written := x.written + n
          finished := expandDone (src.drop (64 * units)) }

/-- FULLING_FRAME_WRITE (R293). -/
def execFullingFrameWrite (e : Fin 8) (bad : List Nat) (poisoned : Bool) (s : State) : Result :=
  let s := s.fresh
  .next (match s.capture.running.find e with
    | none => s
    | some x =>
      if x.finished || !s.fullingRuns || s.clock.now < x.ready then s
      else if jobExpand x.job.desc then s.expandNext e x bad poisoned
      else s.writeFrame e x bad poisoned)

/-! ### Commit (R294, R296) -/

/-- The context after a committed job (R298). -/
def committedCtx (x : RunJob) : Nat :=
  let c := x.ctx
  let d := x.job.desc
  jobStream d + 1 <<< 12 + (if jobDelta d then 1 else 0) <<< 13 + ((bits c 16 32 + x.frames) % 2 ^ 32) <<< 16
    + x.history.length <<< 48 + ((bits c 64 64 + 256 * x.taken) % 2 ^ 64) <<< 64
    + ((bits c 128 64 + x.bytes) % 2 ^ 64) <<< 128 + x.lastSeal <<< 192 + ((bits c 224 32 + 1) % 2 ^ 32) <<< 224

/-- The job of engine `e` commits. -/
def State.commitJob (s : State) (e : Nat) (x : RunJob) : State :=
  let d := x.job.desc
  let q := x.queue
  let s := s.setCapture { s.capture with running := s.capture.running.drop e }
  let s := (s.put F.outQueue_WP q (s.get F.outQueue_WP q + x.bytes)).count F.outQueue_JOBS_DONE q
  let s := if jobBlock d then s else s.setStream (jobStream d) (committedCtx x) x.history
  let s := s.raise (960 + e)
  if x.job.auto then (s.consume x.job.chunkAt).autoFeed
  else
    let out := if jobExpand d then 4 * x.written else x.bytes / 64
    s.postCompletion x.job.fn (jobTag d) .ok e x.frames (if jobExpand d then (x.taken + 3) / 4 else x.taken) out

/-- FULLING_JOB_COMMIT (R294). -/
def execFullingJobCommit (e : Fin 8) (s : State) : Result :=
  let s := s.fresh
  .next (match s.capture.running.find e with
    | some x => if x.finished then s.commitJob e x else s
    | none => s)

/-! ### The AUTO retry (R300) -/

/-- The first job of a queue runs again. -/
def State.releaseJob (s : State) (j : Job) : State :=
  s.setCapture { s.capture with
    jobs := s.capture.jobs.map fun x => if x = j then { j with waitSpace := false, waitFault := false } else x }

/-- AUTO_JOB_RETRY (R300): after NO_SPACE, once the queue's free space reaches the job's bound. -/
def execAutoJobRetry (q : Fin 16) (s : State) : Result :=
  let s := s.fresh
  .next (match s.queueHead q with
    | some j =>
      if j.waitFault || (j.waitSpace && decide (frameBound (jobSrcBlocks j.desc) ≤ s.queueFree q 0)) then
        s.releaseJob j
      else s
    | none => s)

/-! ### Stream contexts (R297, R298) -/

/-- The image of a context: the block of its state and the 128 blocks of its history. -/
def State.streamImage (s : State) (id : Nat) : List Byte :=
  let h := s.streamHistory id
  leBytes (s.streamCtx id) 64 ++ zeros 192 ++ zeros (32768 - h.length) ++ h

/-- What the STREAM_* commands check of their request. -/
def streamChecks (r : Request) (s : State) : List (Bool × Status × Nat) :=
  [badAt 0 (4096 ≤ r.at 0 2), r.rsv 2 6,
    badAt 8 (r.at 8 8 % 256 ≠ 0 || s.storeRefuses (r.at 8 8) 33024), (s.streamBusy (r.at 0 2), .busy, 0)]

/-- The caller owns the stream (R361). -/
def State.ownsStream (s : State) (r : Request) : Option (Status × Nat) :=
  accessIf (s.owner (r.at 0 2 % 16) = r.fn)

/-- The reader of a stream's context for a save or a restore. DESIGN CHOICE: the one that feeds engine STREAM_ID mod 8
(log 113). -/
def contextReader (id : Nat) : Nat := fullingReader (id % 8 / 2)

/-- A context image is copied to a store address. -/
def State.saveStream (s : State) (id a : Nat) : State :=
  ((s.writeBlocks (a / 256) (pieces 256 129 (s.streamImage id))).moveBeats (contextReader id) contextBeats).moveBeats
    captureWriter contextBeats

/-- STREAM_SAVE (R297). -/
def streamSaveCommand (r : Request) (s : State) : Command :=
  { frame := exactly r 16, access := s.ownsStream r, modes := modesPRS, refused := false,
    checks := streamChecks r s,
    act := fun s => .ok (s.saveStream (r.at 0 2) (r.at 8 8)) [] }

/-- The request waits while the stream store makes no grants (R237): it stays the next to be served. -/
def State.serveStore (s : State) (m code : Nat) (cmd : Request → State → Command) : State :=
  if s.storeOpen then s.serve m code cmd else s

/-- STREAM_SAVE. -/
def execStreamSave (m : Fin 16) (s : State) : Result := .next (s.fresh.serveStore m 0x0502 streamSaveCommand)

/-- A context image is taken over after its checks. -/
def State.restoreStream (s : State) (id a : Nat) : Answer :=
  let blocks := (List.range 129).map fun i => s.storeBytes (a + 256 * i) 256
  let good := (List.range 129).all fun i => crc32c (blocks.getD i []) = s.storeBlockSeal (a / 256 + i)
  let ctx := le blocks.flatten 0 64
  let s := s.moveBeats (contextReader id) contextBeats
  if s.storePoisoned a 33024 then .fail s .faulted 0
  else if !good then .fail (s.report 3 false 0xFFF id (a / 256)) .sealMismatch 0
  else if bits ctx 0 12 ≠ id then .fail s .badValue 32
  else .ok ((s.moveBeats captureWriter contextBeats).setStream id ctx (blocks.flatten.drop (33024 - min 32768 (bits ctx 48 16)))) []

/-- STREAM_RESTORE (R297). -/
def streamRestoreCommand (r : Request) (s : State) : Command :=
  { frame := exactly r 16, access := s.ownsStream r, modes := modesPRS, refused := false,
    checks := streamChecks r s, act := fun s => s.restoreStream (r.at 0 2) (r.at 8 8) }

/-- STREAM_RESTORE. -/
def execStreamRestore (m : Fin 16) (s : State) : Result := .next (s.fresh.serveStore m 0x0503 streamRestoreCommand)

/-- STREAM_RESET (R297): VALID clears and the history empties. -/
def streamResetCommand (r : Request) (s : State) : Command :=
  let id := r.at 0 2
  { frame := exactly r 4, access := s.ownsStream r, modes := modesPRS, refused := false,
    checks := [badAt 0 (4096 ≤ id), r.rsv 2 2, (s.streamBusy id, .busy, 0)],
    act := fun s => .ok (s.setStream id (setBits (setBits (s.streamCtx id) 12 1 0) 48 16 0) []) [] }

/-- STREAM_RESET. -/
def execStreamReset (m : Fin 16) (s : State) : Result := .next (s.fresh.serve m 0x0504 streamResetCommand)

/-- STREAM_STATE (R298). -/
def streamStateCommand (r : Request) (s : State) : Command :=
  { frame := exactly r 4, access := s.ownsStream r, modes := modesPRSF, refused := false,
    checks := [badAt 0 (4096 ≤ r.at 0 2), r.rsv 2 2],
    act := fun s => .ok s (leBytes (s.streamCtx (r.at 0 2)) 64) }

/-- STREAM_STATE. -/
def execStreamState (m : Fin 16) (s : State) : Result := .next (s.fresh.serve m 0x0505 streamStateCommand)

end Sys2Proof.Machine
end

