-- ==== Sys2Proof/Machine/Modes.lean ====
section
/-! DEFINITION. Modes, start-up and recovery (R352 to R357, R393 to R416): the commands of 0x01xx and 0x0Bxx, boot,
self-test and calibration, RESET_N, the Crown pair, boot images and the error log. -/

namespace Sys2Proof.Machine

/-- A change of the Crown pair, and of the power stages. -/
def State.setCrown (s : State) (x : Crown) : State := { s with crown := x }
def State.setPower (s : State) (x : Power) : State := { s with power := x }

/-! ### SYS_INFO, MODE_GET, SELFTEST_REPORT -/

/-- IMAGE_VERSION of the image that runs (R398). -/
def State.jutanVersion (s : State) : Nat :=
  match s.flash.images.find s.flash.running with
  | some b => if s.flag F.modeRecord_RECOVERY then Config.loaderVersion.toNat else le b 4 4
  | none => Config.loaderVersion.toNat

/-- SYS_INFO (R353). -/
def sysInfoCommand (r : Request) (_ : State) : Command :=
  { frame := exactly r 0, access := accessAny, modes := modesAll, refused := false, checks := [],
    act := fun s => .ok s (leBytes 0x363532584E 8 ++ leBytes 0xB0 1 ++ leBytes s.mode.code 1
      ++ leBytes (s.get F.modeRecord_BOOT_IMAGE) 1 ++ zeros 1 ++ leBytes Config.romId.toNat 4
      ++ leBytes (s.get F.mcVersion_PATCH_ID) 4 ++ leBytes s.jutanVersion 4 ++ leBytes Config.serialNumber.toNat 8) }

/-- SYS_INFO. -/
def execSysInfo (m : Fin 16) (s : State) : Result := .next (s.fresh.serve m 0x0101 sysInfoCommand)

/-- The time in the present mode in ns: 1.25 ns a tick. -/
def State.timeInMode (s : State) : Nat := (s.clock.now - s.crown.modeSince) * 5 / 4

/-- MODE_GET (R403). -/
def modeGetCommand (r : Request) (_ : State) : Command :=
  { frame := exactly r 0, access := accessAny, modes := modesAll, refused := false, checks := [],
    act := fun s => .ok s (leBytes s.mode.code 1 ++ leBytes (s.get F.modeRecord_PREV_MODE) 1
      ++ leBytes (s.get F.modeRecord_CAUSE) 2 ++ leBytes s.timeInMode 8) }

/-- MODE_GET. -/
def execModeGet (m : Fin 16) (s : State) : Result := .next (s.fresh.serve m 0x0102 modeGetCommand)

/-- SELFTEST_REPORT (R400). -/
def selftestReportCommand (r : Request) (_ : State) : Command :=
  { frame := exactly r 0, access := accessAny, modes := modesAll, refused := false, checks := [],
    act := fun s => .ok s (leBytes s.crown.selftestResult 1 ++ leBytes s.crown.selftestCore 1 ++ zeros 2
      ++ leBytes s.crown.selftestFailed 8) }

/-- SELFTEST_REPORT. -/
def execSelftestReport (m : Fin 16) (s : State) : Result := .next (s.fresh.serve m 0x0105 selftestReportCommand)

/-! ### MODE_SET (R394, R395, R405, R406) -/

/-- The mode that a code names (R353). -/
def modeOf (code : Nat) : Option Mode :=
  match code with
  | 0 => some .reset | 1 => some .boot | 2 => some .selftest | 3 => some .calibrate
  | 4 => some .parked | 5 => some .run | 6 => some .survey | 7 => some .safe
  | _ => none

/-- The transitions that MODE_SET may request. -/
def mayRequest (m target : Mode) : Bool :=
  match m with
  | .selftest => [Mode.safe].contains target
  | .calibrate => [Mode.boot, Mode.safe].contains target
  | .parked => [Mode.calibrate, Mode.run, Mode.survey, Mode.boot, Mode.safe].contains target
  | .run => [Mode.survey, Mode.parked, Mode.safe].contains target
  | .survey => [Mode.run, Mode.parked, Mode.safe].contains target
  | .safe => [Mode.parked, Mode.boot].contains target
  | _ => false

/-- Every cause present has cleared (R405). -/
def State.safeCleared (s : State) : Bool :=
  s.flag F.gridStatus_PLL_LOCK && s.get F.engineStatus_STATE 16 ≠ 3 && s.crown.linksDown.isEmpty
    && s.crown.retraining.isEmpty && s.get F.modeRecord_CORE = 0 && !s.flag F.modeRecord_A_OUT
    && s.crown.noneSince.isNone

/-- A MODE_SET with this target is refused with REFUSED_MODE. DESIGN CHOICE: so is a code that names no mode (R7, R394,
log 87). -/
def State.modeRefused (s : State) (target : Option Mode) : Bool :=
  match target with
  | none => true
  | some t =>
    if s.flag F.modeRecord_RECOVERY && t ≠ .boot then true
    else if t = s.mode then false
    else !mayRequest s.mode t || (t = .parked && s.anyRun) || (t = .parked && s.mode = .safe && !s.safeCleared)

/-- CALIBRATE begins (R401): the monitor self-calibration runs first (R386). -/
def State.beginCalibrate (s : State) (cause : Nat) : State :=
  let s := s.enterMode .calibrate cause
  let s := s.setCrown { s.crown with calEnded := none }
  let s := { s with
    blocking := { s.blocking with calDone := [] }, monitor := { s.monitor with calibrating := some s.clock.now } }
  s.putFlag F.monStatus_CAL_BUSY 0 true

/-- The response of a MODE_SET. -/
def modeReached (m : Mode) : List Byte := leBytes m.code 1 ++ zeros 3

/-- A permitted MODE_SET acts. -/
def State.modeSet (s : State) (r : Request) (t : Mode) : Answer :=
  if t = s.mode then .ok s (modeReached t)
  else match t with
    | .safe => .ok (s.enterSafe 0x0001) (modeReached .safe)
    | .calibrate => .wait (s.beginCalibrate 0x0001) (.modeSet .calibrate)
    | .boot => .quiet (((s.reply r .ok 0 (modeReached .boot)).enterMode .boot 0x0001).rampTo 1)
    | t => .ok (s.enterMode t 0x0001) (modeReached t)

/-- A MODE_SET waits. -/
def State.modeSetWaits (s : State) : Bool :=
  s.host.deferred.any fun d => match d.wait with
    | .modeSet _ => true
    | _ => false

/-- MODE_SET (R394). -/
def modeSetCommand (r : Request) (s : State) : Command :=
  let target := modeOf (r.at 0 1)
  { frame := exactly r 4, access := accessAdm r, modes := modesAll, refused := s.modeRefused target,
    checks := [r.rsv 1 3, (s.modeSetWaits, .busy, 0)],
    act := fun s => match target with
      | some t => s.modeSet r t
      | none => .fail s .refusedMode s.mode.code }

/-- MODE_SET. -/
def execModeSet (m : Fin 16) (s : State) : Result := .next (s.fresh.serve m 0x0103 modeSetCommand)

/-- MODE_SET_TIMEOUT (R356): the transition to CALIBRATE is withdrawn after 10 s. -/
def execModeSetTimeout (m : Fin 16) (s : State) : Result :=
  let s := s.fresh
  .next (match s.deferredOf m with
    | some d => match d.wait with
      | .modeSet _ =>
        if s.expired d (10 * Config.ticksPerS) then
          let s := if s.mode = .calibrate then
              ({ s with monitor := { s.monitor with calibrating := none } } : State).enterMode .parked 0x0001
            else s
          (s.putFlag F.monStatus_CAL_BUSY 0 false).finish d .timeout []
        else s
      | _ => s
    | none => s)

/-! ### SYSTEM_RESET and RESET_N (R407) -/

/-- SYSTEM_RESET: the response comes before the device acts; every run ends, and bias ramps to 0. -/
def systemResetCommand (r : Request) (_ : State) : Command :=
  { frame := exactly r 4, access := accessAdm r, modes := modesCPRSF, refused := false,
    checks := [badAt 0 (r.at 0 4 ≠ 0xA5A5)],
    act := fun s =>
      let s := s.reply r .ok 0 []
      .quiet (((List.range 16).foldl State.haltGroup s).rampTo 2) }

/-- SYSTEM_RESET. -/
def execSystemReset (m : Fin 16) (s : State) : Result := .next (s.fresh.serve m 0x0104 systemResetCommand)

/-- SYSTEM_RESET_HOLD_END: RESET has been held for 10 µs. -/
def execSystemResetHoldEnd (s : State) : Result :=
  let s := s.fresh
  .next (match s.power.resetUntil with
    | some x => if x ≤ s.clock.now then (s.setPower { s.power with resetUntil := none }).tryBoot else s
    | none => s)

/-- RESET_N_ASSERT: the level has been low for 1.0 µs. -/
def execResetNAssert (s : State) : Result :=
  let s := s.fresh
  let s := s.setPower { s.power with resetN := false }
  .next (if s.mode = .reset then s else s.enterReset 3)

/-- RESET_N_RELEASE. -/
def execResetNRelease (s : State) : Result :=
  let s := s.fresh
  .next (s.setPower { s.power with resetN := true }).tryBoot

/-! ### Boot (R396 to R400) -/

/-- The image slot that the loader takes: the selected one first, then the other (R398). -/
def State.bootSlot (s : State) : Option Nat :=
  let a := s.flash.selected
  if (s.flash.images.find a).isSome then some a
  else if (s.flash.images.find (1 - a)).isSome then some (1 - a)
  else none

/-- IMAGE_AUTHENTICATED (R396, R398, R406): flash holds only images that authenticate. -/
def execImageAuthenticated (s : State) : Result :=
  let s := s.fresh
  .next (if s.mode ≠ .boot || s.power.ramp.isSome then s
    else match s.bootSlot with
      | some k =>
        let s := if k = s.flash.selected then s else s.report 34 false 0xFFF s.flash.selected
        let s := { s with flash := { s.flash with running := k } }
        ((s.put F.modeRecord_BOOT_IMAGE 0 k).putFlag F.modeRecord_RECOVERY 0 false).enterMode .selftest 0x0022
      | none =>
        (((s.report 34 true 0xFFF s.flash.selected).putFlag F.modeRecord_RECOVERY 0 true).enterSafe 0x0015))

/-- The store, the libraries and what lies in them after the self-test (R395, R400), with the stored retirement maps
applied (R399): the first spares serve the rows and pages retired first, and what is left over is unusable. -/
def State.applyRetired (s : State) : State :=
  let rows := fun t => s.flash.libRetired.filter fun k => k / 16384 = t
  let s := (List.range 16).foldl (fun s t => s.put F.libStatus_SPARES_LEFT t (64 - (rows t).length)) s
  let s := s.put F.storeStatus_SPARES_LEFT 0 (4096 - s.flash.pagesRetired.length)
  { s with memory := { s.memory with
      lib := [], libSeal := [], libPoison := [], libUnusable := (List.range 16).flatMap fun t => (rows t).drop 64
      store := [], storeSeal := [], pagePoison := [], pageUnusable := s.flash.pagesRetired.drop 4096 } }

/-- The bits of the self-test that the device's own state decides: the PLL's lock and a failed sensor. -/
def State.ownFailures (s : State) : Nat :=
  (if s.flag F.gridStatus_PLL_LOCK then 0 else 2 ^ 12)
    + (if (List.range 29).any fun i => s.flag F.sensor_FAILED i then 2 ^ 11 else 0)

/-- A failed test is fatal (R400): those of the library and the store only where the spares have run out. -/
def State.fatalTest (s : State) (i : Nat) : Bool :=
  match i with
  | 0 | 1 | 4 | 5 | 6 | 7 | 8 | 9 | 12 => true
  | 2 => (List.range 16).any fun t => s.get F.libStatus_SPARES_LEFT t = 0
  | 3 => s.get F.storeStatus_SPARES_LEFT = 0
  | _ => false

/-- SELFTEST_DONE (R400): every failed test is reported; a fatal one leads to SAFE, and CALIBRATE needs core A in
control (R410). -/
def execSelftestDone (failed : BitVec 64) (s : State) : Result :=
  let s := s.fresh
  .next (if s.mode ≠ .selftest then s
    else
      let s := s.applyRetired
      let bitmap := (failed.toNat ||| s.ownFailures) % 2 ^ 15
      let bad := bitList bitmap 15
      let fatal := bad.any s.fatalTest
      let s := bad.foldl (fun s i => s.report 36 (s.fatalTest i) 0xFFF i) s
      let s := s.setCrown { s.crown with
        selftestResult := if fatal then 1 else 0, selftestCore := s.get F.modeRecord_CORE, selftestFailed := bitmap }
      if fatal then s.enterSafe 0x0013
      else if s.get F.modeRecord_CORE = 1 || s.crown.noneSince.isSome then s.enterSafe 0x0014
      else s.beginCalibrate 0x0023)

/-- CALIBRATE_COMPLETE (R401): every group 0 to 47 has completed a calibration, or 50 ms have passed since the monitor
calibration ended; a group that has not completed is logged. -/
def execCalibrateComplete (s : State) : Result :=
  let s := s.fresh
  .next (match s.crown.calEnded with
    | some x =>
      let missing := (List.range 48).filter fun g => !s.blocking.calDone.contains g
      if s.mode = .calibrate && (missing.isEmpty || decide (x + 50 * Config.ticksPerMs ≤ s.clock.now)) then
        let s := missing.foldl (fun s g => s.report 36 false 0xFFF g) s
        (s.enterMode .parked 0x0021).finishAll (fun w => w = .modeSet .calibrate) .ok (modeReached .parked)
      else s
    | none => s)

/-! ### Boot images (R357, R398) -/

/-- What an IMAGE_WRITE part adds to: the partial image of its slot and total, or a new one at offset 0. -/
def State.imageTaken (s : State) (slot offset total : Nat) : List Byte :=
  if offset = 0 then []
  else match s.upload.image with
    | some (k, n, b) => if k = slot && n = total then b else []
    | none => []

/-- A whole image has its form, the reserved fields of its header 0 (R6), and authenticates (R398). -/
def imageGood (b : List Byte) : Bool :=
  le b 0 4 = 0x4A55544E && le b 12 4 = 0 && le b 112 16 = 0 && 1 ≤ le b 8 4 && le b 8 4 ≤ 16776960 && b.length = 128 + le b 8 4 + 96
    && Config.signatureGood b

/-- A part of an image is taken; the last one is authenticated and goes to flash. -/
def State.takeImage (s : State) (slot total : Nat) (b : List Byte) : Answer :=
  if b.length < total then
    .ok { s with upload := { s.upload with image := some (slot, total, b) } } (zeros 4)
  else
    let s := { s with upload := { s.upload with image := none } }
    if imageGood b then .wait { s with upload := { s.upload with flashing := some (slot, b) } } .imageWrite
    else .fail s .badRecord 44

/-- IMAGE_WRITE (R357). -/
def imageWriteCommand (r : Request) (s : State) : Command :=
  let slot := r.at 0 1
  let offset := r.at 4 4
  let total := r.at 8 4
  let data := r.payload.drop 12
  { frame := if r.len < 12 then some 4 else none, access := accessAdm r, modes := modesCPF, refused := false,
    checks := [badAt 0 (1 < slot), r.rsv 1 3, ((s.imageTaken slot offset total).length ≠ offset, .badRecord, 36),
      badAt 8 (total < offset + data.length),
      (s.flash.running = slot && !s.flag F.modeRecord_RECOVERY, .refusedActive, 0)],
    act := fun s => s.takeImage slot total (s.imageTaken slot offset total ++ data) }

/-- IMAGE_WRITE. -/
def execImageWrite (m : Fin 16) (s : State) : Result := .next (s.fresh.serve m 0x0108 imageWriteCommand)

/-- IMAGE_FLASH_WRITTEN (R357). -/
def execImageFlashWritten (s : State) : Result :=
  let s := s.fresh
  .next (match s.upload.flashing with
    | some (slot, b) =>
      let s := { s with
        flash := { s.flash with images := s.flash.images.list slot b }
        upload := { s.upload with flashing := none } }
      s.finishAll (fun w => w = .imageWrite) .ok (leBytes 1 4)
    | none => s)

/-- IMAGE_WRITE_TIMEOUT (R356): after 30 s, with nothing changed. -/
def execImageWriteTimeout (m : Fin 16) (s : State) : Result :=
  let s := s.fresh
  .next (match s.deferredOf m with
    | some d =>
      if d.wait = .imageWrite && s.expired d (30 * Config.ticksPerS) then
        ({ s with upload := { s.upload with flashing := none } } : State).finish d .timeout []
      else s
    | none => s)

/-- IMAGE_SELECT (R357). -/
def imageSelectCommand (r : Request) (s : State) : Command :=
  let slot := r.at 0 1
  { frame := exactly r 4, access := accessAdm r, modes := modesCPF, refused := false,
    checks := [badAt 0 (1 < slot), r.rsv 1 3, ((s.flash.images.find slot).isNone, .badRecord, 32)],
    act := fun s => .ok { s with flash := { s.flash with selected := slot } } [] }

/-- IMAGE_SELECT. -/
def execImageSelect (m : Fin 16) (s : State) : Result := .next (s.fresh.serve m 0x0109 imageSelectCommand)

/-! ### The Crown pair (R409 to R411) -/

/-- The modes in which only core A may be in control (R410). -/
def coreAModes : List Mode := [Mode.calibrate, Mode.parked, Mode.run, Mode.survey]

/-- The core in control, and its mark-out flag. -/
def outFlag (core : Nat) : Field := if core = 0 then F.modeRecord_A_OUT else F.modeRecord_B_OUT

/-- A core can take control: it has not released it, and it is not marked out. -/
def State.coreFree (s : State) (core : Nat) : Bool := !s.crown.released.contains core && !s.flag (outFlag core)

/-- The core in control loses it: the standby takes control, or no core holds it. -/
def State.handOver (s : State) : State :=
  let core := s.get F.modeRecord_CORE
  let released := if core ∈ s.crown.released then s.crown.released else s.crown.released ++ [core]
  let s := s.setCrown { s.crown with released }
  if s.coreFree (1 - core) then (s.put F.modeRecord_CORE 0 (1 - core)).count F.modeRecord_HANDOVERS 0
  else s.setCrown { s.crown with noneSince := some (s.crown.noneSince.getD s.clock.now) }

/-- A core that fails within 60 s of its take-back is marked out (R410). -/
def State.markOut (s : State) : State :=
  let core := s.get F.modeRecord_CORE
  match s.crown.lastTakeback with
  | some (c, t) =>
    if c = core && decide (s.clock.now ≤ t + 60 * Config.ticksPerS) then s.putFlag (outFlag core) 0 true else s
  | none => s

/-- CROWN_SELF_DIAGNOSIS (R409): a failure is reported, and in the modes that need core A it is fatal. -/
def execCrownSelfDiagnosis (pass : Bool) (s : State) : Result :=
  let s := s.fresh
  .next (if pass || s.mode = .reset || s.crown.noneSince.isSome then s
    else
      let fatal := coreAModes.contains s.mode
      let s := ((s.report 33 false 0xFFF (s.get F.modeRecord_CORE)).markOut).handOver
      if fatal then s.enterSafe 0x0014 else s)

/-- HEARTBEAT_TIMEOUT (R409): in BOOT, SELFTEST and SAFE the standby takes control after 200 µs without one. -/
def execHeartbeatTimeout (s : State) : Result :=
  let s := s.fresh
  .next (if [Mode.boot, Mode.selftest, Mode.safe].contains s.mode && s.crown.noneSince.isNone then
    (s.report 33 false 0xFFF (s.get F.modeRecord_CORE)).handOver
  else s)

/-- CROWN_TAKEBACK (R410): a released core that is not marked out takes control back. -/
def execCrownTakeback (s : State) : Result :=
  let s := s.fresh
  .next (match s.crown.released.find? fun c => !s.flag (outFlag c) with
    | some c =>
      if [Mode.boot, Mode.selftest, Mode.safe].contains s.mode then
        let s := (s.put F.modeRecord_CORE 0 c).count F.modeRecord_TAKEBACKS 0
        s.setCrown { s.crown with
          released := s.crown.released.filter (· ≠ c), lastTakeback := some (c, s.clock.now), noneSince := none }
      else s
    | none => s)

/-- CROWN_WATCHDOG (R411): neither core has held control for 10 ms. -/
def execCrownWatchdog (s : State) : Result :=
  let s := s.fresh
  .next (match s.crown.noneSince with
    | some x =>
      if x + 10 * Config.ticksPerMs ≤ s.clock.now && s.power.ramp.isNone then
        ((((List.range 16).foldl State.haltGroup s).report 33 true 0xFFF 2).toParkOsc).rampTo 4
      else s
    | none => s)

/-! ### The error log (R412 to R414) -/

/-- An entry as LOG_DRAIN and LOG_FIRST return it (R414). -/
def LogEntry.bytes (e : LogEntry) : List Byte :=
  leBytes (e.seq % 2 ^ 32 + (e.cls % 64) <<< 32 + (if e.lasting then 1 else 0) <<< 38 + (e.repeats % 2 ^ 16) <<< 40
    + (e.mode % 8) <<< 56 + (e.wall % 2 ^ 64) <<< 64 + (e.si % 2 ^ 64) <<< 128 + (e.source % 2 ^ 12) <<< 192
    + (e.detailA % 2 ^ 16) <<< 208 + (e.detailB % 2 ^ 32) <<< 224) 32

/-- The log makes an entry of a report. -/
def State.addEntry (s : State) (e : LogEntry) : State :=
  let seq := s.get F.logStatus_NEXT_SEQ
  let snapshots := match s.log.snapshots.find e.cls with
    | some x => if e.seq = 1 then s.log.snapshots.list e.cls { x with seq } else s.log.snapshots
    | none => s.log.snapshots
  let s := { s with log := { s.log with entries := s.log.entries ++ [{ e with seq }], snapshots } }
  (s.put F.logStatus_NEXT_SEQ 0 ((seq + 1) % 2 ^ 32)).raise 1141

/-- ERROR_LOG_TAKE (R413): 2.0 µs after the previous taking, at the earliest. -/
def execErrorLogTake (s : State) : Result :=
  let s := s.fresh
  let due : Bool := match s.log.lastTake with
    | some x => decide (x + 2 * Config.ticksPerUs ≤ s.clock.now)
    | none => true
  .next (match s.log.intake with
    | e :: rest =>
      if !due then s
      else
        let s := { s with log := { s.log with intake := rest, lastTake := some s.clock.now } }
        if s.log.entries.length < 512 then s.addEntry e else s.overflowReport e.cls e.lasting
    | [] => s)

/-- LOG_DRAIN (R413): the oldest entries are returned and removed. -/
def logDrainCommand (r : Request) (_ : State) : Command :=
  let n := r.at 0 2
  { frame := exactly r 4, access := accessF0 r, modes := modesAll, refused := false,
    checks := [badAt 0 (n = 0 || 126 < n), r.rsv 2 2],
    act := fun s =>
      let taken := s.log.entries.take n
      let left := s.log.entries.drop n
      .ok { s with log := { s.log with entries := left } }
        (leBytes taken.length 2 ++ leBytes left.length 2 ++ leBytes (s.get F.logStatus_OVERFLOW) 1 ++ zeros 3
          ++ taken.flatMap LogEntry.bytes) }

/-- LOG_DRAIN. -/
def execLogDrain (m : Fin 16) (s : State) : Result := .next (s.fresh.serve m 0x0B01 logDrainCommand)

/-- LOG_COUNTERS (R412). -/
def logCountersCommand (r : Request) (_ : State) : Command :=
  { frame := exactly r 0, access := accessF0 r, modes := modesAll, refused := false, checks := [],
    act := fun s => .ok s (leBytes (s.get F.logStatus_LOST) 4 ++ zeros 4
      ++ (List.range 64).flatMap fun c => leBytes (s.log.counters.read 0 c) 4) }

/-- LOG_COUNTERS. -/
def execLogCounters (m : Fin 16) (s : State) : Result := .next (s.fresh.serve m 0x0B02 logCountersCommand)

/-- LOG_FIRST (R412). -/
def logFirstCommand (r : Request) (_ : State) : Command :=
  { frame := exactly r 4, access := accessF0 r, modes := modesAll, refused := false,
    checks := [badAt 0 (64 ≤ r.at 0 1), r.rsv 1 3],
    act := fun s => .ok s (match s.log.snapshots.find (r.at 0 1) with
      | some e => e.bytes
      | none => zeros 32) }

/-- LOG_FIRST. -/
def execLogFirst (m : Fin 16) (s : State) : Result := .next (s.fresh.serve m 0x0B03 logFirstCommand)

/-- LOG_ACK_OVERFLOW (R413): OVERFLOW clears, and nothing else. -/
def logAckOverflowCommand (r : Request) (_ : State) : Command :=
  { frame := exactly r 0, access := accessAdm r, modes := modesAll, refused := false, checks := [],
    act := fun s => .ok (s.putFlag F.logStatus_OVERFLOW 0 false) (leBytes (s.get F.logStatus_LOST) 4) }

/-- LOG_ACK_OVERFLOW. -/
def execLogAckOverflow (m : Fin 16) (s : State) : Result := .next (s.fresh.serve m 0x0B04 logAckOverflowCommand)

/-- ECHO (R354). -/
def echoCommand (r : Request) (_ : State) : Command :=
  { frame := none, access := accessAny, modes := modesAll, refused := false, checks := [],
    act := fun s => .ok s (r.payload.take r.len) }

/-- ECHO. -/
def execEcho (m : Fin 16) (s : State) : Result := .next (s.fresh.serve m 0x0B05 echoCommand)

end Sys2Proof.Machine
end

