-- ==== Sys2Proof/Machine/Slots.lean ====
section
/-! DEFINITION. Slot bindings, contexts, program lists and the refill of segments (R17 to R19, R181, R182, R196 to
R198, R204, R342). -/

namespace Sys2Proof.Machine

/-! ### SLOT_BIND and SLOT_GET (R17, R18) -/

/-- The largest value of each resource byte of a binding. -/
def bindLimit (j : Nat) : Nat := if j < 2 then 3 else if j < 4 then 15 else 7

/-- Byte `j` of a binding image binds a resource, and does not name one that exists. -/
def bindRange (b j : Nat) : Bool := bits b (8 * j) 8 ≠ 0xFF && decide (bindLimit j < bits b (8 * j) 8)

/-- Two binding images share the resource of byte `j` of the first (R18). -/
def bindShares (b o j : Nat) : Bool :=
  let x := bits b (8 * j) 8
  if x = 0xFF then false
  else if j = 0 then bits b 8 8 ≠ 0xFF && bits b 0 16 = bits o 0 16
  else if j = 1 then false
  else if j < 4 then x = bits o (8 * j) 8
  else x = bits o 32 8 || x = bits o 40 8

/-- The image of the bindings of a slot. -/
def State.bindImage (s : State) (t n : Nat) : Nat := s.program.bindings.read 0xFFFFFFFFFFFF (16 * t + n)

/-- Another slot of the tile holds the resource of byte `j`. -/
def State.bindTaken (s : State) (t n b j : Nat) : Bool :=
  (List.range 16).any fun k => k ≠ n && bindShares b (s.bindImage t k) j

/-- A binding comes into force. -/
def State.setBinding (s : State) (t n b : Nat) : State :=
  { s with program := { s.program with bindings := s.program.bindings.write 0xFFFFFFFFFFFF (16 * t + n) b } }

/-- SLOT_BIND (R17 to R19). -/
def slotBindCommand (r : Request) (s : State) : Command :=
  let t := r.at 0 1
  let n := r.at 1 1
  let b := r.at 2 6
  { frame := exactly r 8, access := accessIf (s.owns r t), modes := modesCPRS,
    refused := decide (t < 16) && s.inRun t,
    checks := [badAt 0 (16 ≤ t), badAt 1 (16 ≤ n)]
      ++ ((List.range 6).map fun j => badAt (2 + j) (bindRange b j || s.bindTaken t n b j)),
    act := fun s => .ok (s.setBinding t n b) [] }

/-- SLOT_BIND. -/
def execSlotBind (m : Fin 16) (s : State) : Result := .next (s.fresh.serve m 0x0201 slotBindCommand)

/-- SLOT_GET. -/
def slotGetCommand (r : Request) (s : State) : Command :=
  let t := r.at 0 1
  let n := r.at 1 1
  { frame := exactly r 4, access := accessIf (s.owns r t), modes := modesCPRSF, refused := false,
    checks := [badAt 0 (16 ≤ t), badAt 1 (16 ≤ n), r.rsv 2 2],
    act := fun s => .ok s (leBytes t 1 ++ leBytes n 1 ++ leBytes (s.bindImage t n) 6) }

/-- SLOT_GET. -/
def execSlotGet (m : Fin 16) (s : State) : Result := .next (s.fresh.serve m 0x0202 slotGetCommand)

/-! ### CTX_LOAD and CTX_READ (R181, R182) -/

/-- The first field of a context that R182 refuses, as a byte offset in the context. -/
def ctxFault (c : Nat) : Option Nat :=
  let faults : List (Bool × Nat) :=
    [(1048576 < ctxLibPtr c + ctxLibLen c, 0), (ctxDuration c ≠ 0 && ctxDuration c < ctxLibLen c, 5),
      (ctxFofs c < -1000000000 || 1000000000 < ctxFofs c, 12), (1600 < ctxAcqLen c, 17), (bits c 154 6 ≠ 0, 19),
      (pounceBad (ctxPounce c), 20), (bits c 192 64 ≠ 0, 24)]
  (faults.find? fun x => x.1).map fun x => x.2

/-- Context `i` of a load. -/
def loadedCtx (r : Request) (i : Nat) : Nat := r.at (8 + 32 * i) 32

/-- The checks of the contexts of a load, in order. -/
def ctxChecks (r : Request) (n : Nat) : List (Bool × Status × Nat) :=
  (List.range (8 * n)).map fun i =>
    badAt (8 + 32 * i + (ctxFault (loadedCtx r i)).getD 0) (ctxFault (loadedCtx r i)).isSome

/-- A context is loaded: to its shadow while its tile is in an active run (R181). -/
def State.loadCtx (s : State) (t i c : Nat) : State :=
  if s.inRun t then
    { s with program := { s.program with
      ctxShadow := s.program.ctxShadow.list (1024 * t + i)
        (serveAlso (s.program.ctxShadow.read [] (1024 * t + i)) c s.si) } }
  else { s with program := { s.program with contexts := s.program.contexts.write 0 (1024 * t + i) c } }

/-- CTX_LOAD (R181, R182). -/
def ctxLoadCommand (r : Request) (s : State) : Command :=
  let t := r.at 0 1
  let first := r.at 2 2
  let n := r.at 4 2
  { frame := blocksLen r 8 n (r.at 1 1), access := accessIf (s.owns r t), modes := modesCPRS, refused := false,
    checks := [badAt 0 (16 ≤ t), badAt 1 (1 < r.at 1 1), badAt 2 (first % 8 ≠ 0 || 1024 < first + 8 * n),
      badAt 4 (n = 0 || 15 < n), r.rsv 6 2] ++ ctxChecks r (min n 15),
    act := fun s =>
      if (payloadBlocks r 8 n (bit (r.at 1 1) 0)).2 then
        .ok ((List.range (8 * n)).foldl (fun s i => s.loadCtx t (first + i) (loadedCtx r i)) s) []
      else s.sealRefused t }

/-- CTX_LOAD. -/
def execCtxLoad (m : Fin 16) (s : State) : Result := .next (s.fresh.serve m 0x0205 ctxLoadCommand)

/-- A context load of the tile is pending. -/
def State.ctxPending (s : State) (t : Nat) : Bool := s.program.ctxShadow.any fun kv => kv.1 / 1024 = t

/-- CTX_READ: the contexts in force. -/
def ctxReadCommand (r : Request) (s : State) : Command :=
  let t := r.at 0 1
  let first := r.at 2 2
  let n := r.at 4 2
  { frame := exactly r 8, access := accessIf (s.owns r t), modes := modesCPRSF, refused := false,
    checks := [badAt 0 (16 ≤ t), r.rsv 1 1, badAt 2 (1024 ≤ first), badAt 4 (n = 0 || 120 < n || 1024 < first + n),
      r.rsv 6 2],
    act := fun s => .ok s (leBytes (if s.ctxPending t then 1 else 0) 1 ++ zeros 7
      ++ (List.range n).flatMap fun i => leBytes (s.program.contexts.read 0 (1024 * t + first + i)) 32) }

/-- CTX_READ. -/
def execCtxRead (m : Fin 16) (s : State) : Result := .next (s.fresh.serve m 0x0206 ctxReadCommand)

/-! ### PROGRAM_LOAD (R198) -/

/-- PROGRAM_LOAD. -/
def programLoadCommand (r : Request) (s : State) : Command :=
  let t := r.at 0 1
  let n := r.at 2 2
  let ids := (List.range (min n 256)).map fun i => r.at (4 + 2 * i) 2
  { frame := exactly r (4 + 2 * n), access := accessIf (s.owns r t), modes := modesCPRS,
    refused := decide (t < 16) && s.inRun t,
    checks := [badAt 0 (16 ≤ t), r.rsv 1 1, badAt 2 (n = 0 || 256 < n)]
      ++ ((List.range (min n 256)).map fun i => badAt (4 + 2 * i) (1024 ≤ r.at (4 + 2 * i) 2)),
    act := fun s => .ok { s with program := { s.program with lists := s.program.lists.write [] t ids } } [] }

/-- PROGRAM_LOAD. -/
def execProgramLoad (m : Fin 16) (s : State) : Result := .next (s.fresh.serve m 0x0208 programLoadCommand)

/-! ### The form of a segment (R197) -/

/-- The positions of the operation words in a list of words, from position `p` on (R176). -/
def startsOf (p : Nat) : List Nat → List Nat
  | [] => []
  | [_] => [p]
  | w :: x :: r => if (opOf w).ext then p :: startsOf (p + 2) r else p :: startsOf (p + 1) (x :: r)

/-- An instance breaks a rule of its own (R177 to R179, R185, R189). -/
def instanceBad (t : Nat) (i : Nat × Nat) : Bool :=
  let o := opOf i.1
  o = .bad || o.reserved i.1 || (o.noOffset && offsetOf i.1 ≠ 0) || o.extBad i.1 i.2
    || (o = .branchAlways && bits i.2 16 48 ≠ 0) || (o = .barrier && !bit (bits i.1 0 16) t)

/-- The word branches. -/
def Op.branches (o : Op) : Bool :=
  match o with
  | .branchDecision | .branchEvent | .branchCounter | .branchAlways => true
  | _ => false

/-- An offset of a branch at position `p` names no operation word of the segment (R189). -/
def branchBad (starts : List Nat) (p : Nat) (i : Nat × Nat) : Bool :=
  (opOf i.1).branches && (List.range 4).any fun j => !starts.contains (p + 2 + bits i.2 (16 * j) 16)

/-- The ticks of the timed words that are not REL, in order. -/
def dueTicks (is : List (Nat × Nat)) : List Nat :=
  (is.filter fun i => (opOf i.1).timed && !relOf i.1).map fun i => dtOf i.1

/-- A list decreases somewhere. -/
def decreases : List Nat → Bool
  | a :: b :: r => decide (b < a) || decreases (b :: r)
  | _ => false

/-- The words of a segment are refused with BAD_RECORD (R197). -/
def wordsBad (t : Nat) (ws : List Nat) : Bool :=
  let is := instancesOf ws
  let starts := startsOf 0 ws
  is.any (instanceBad t) || decreases (dueTicks is)
    || (starts.zip is).any (fun x => branchBad starts x.1 x.2)
    || (is.dropLast.any fun i => (opOf i.1).ends) || !(is.getLast?.any fun i => (opOf i.1).ends)

/-- The blocks that the words of a segment fill. -/
def opBlocks (words : Nat) : Nat := (words + 31) / 32

/-- The blocks of the transfer of a segment: descriptor, words, library (R342). -/
def transferBlocks (g : Segment) : Nat := 1 + opBlocks g.opWords + g.libBlocks

/-! ### A refill descriptor (R342) -/

/-- The words of a transfer. -/
def transferWords (data : List Byte) (g : Segment) : List Nat :=
  (List.range g.opWords).map fun i => le (slice data (256 + 8 * i) 8) 0 8

/-- The library blocks of a transfer. -/
def transferLib (data : List Byte) (g : Segment) : List (List Byte) :=
  (List.range g.libBlocks).map fun i => slice data (256 * (1 + opBlocks g.opWords + i)) 256

/-- Checks 1 of R342: the descriptor itself. -/
def refillForm (d : Nat) : Option Status :=
  if bits d 0 64 % 256 ≠ 0 then some .badValue
  else if bits d 64 32 = 0 || 17409 < bits d 64 32 || bits d 96 32 ≠ 0 || bits d 209 7 ≠ 0 || bits d 225 31 ≠ 0 then
    some .badRecord
  else none

/-- Check 2: the host seals, where the descriptor names any (R24). -/
def refillSealsBad (d : Nat) (data : List Byte) (seals : List (BitVec 32)) : Bool :=
  bits d 128 64 ≠ 0 && (List.range (bits d 64 32)).any fun i =>
    crc32c (slice data (256 * i) 256) ≠ (seals.getD i 0).toNat

/-- Check 3: the form of the segment (R197, R242). -/
def State.segmentBad (s : State) (t d : Nat) (data : List Byte) : Bool :=
  let desc := le (slice data 0 32) 0 32
  let g := segmentOf desc
  descriptorBad desc || bits d 64 32 ≠ transferBlocks g || wordsBad t (transferWords data g)
    || anyBlock g.libFirst g.libBlocks fun b => s.memory.libUnusable.contains (16384 * t + b)

/-- A task input of a tile may be bound to channel `c` (R214). -/
def State.bindable (s : State) (t c : Nat) : Bool :=
  s.get F.channel_OWNER c = s.owner t || s.get F.channel_OWNER c = 9

/-- Check 4: the channels that WAIT and BRANCH_ON words name (R214). -/
def State.channelsBad (s : State) (t : Nat) (ws : List Nat) : Bool :=
  (instancesOf ws).any fun i => match namedChannel i.1 with
    | some c => !s.bindable t c
    | none => false

/-- A segment's operation words or library blocks overlap those of another (R197). -/
def Segment.overlaps (a b : Segment) : Bool :=
  Machine.overlaps a.opAddr a.opWords b.opAddr b.opWords || Machine.overlaps a.libFirst a.libBlocks b.libFirst b.libBlocks

/-- Check 5: the active test of R197. -/
def State.refillActive (s : State) (t id : Nat) (g : Segment) : Bool :=
  (s.activeSegs t).any fun k => k = id || (s.segment t k).overlaps g

/-- The status with which a refill descriptor is refused, where it is (R342). -/
def State.refillVerdict (s : State) (t d : Nat) (data : List Byte) (seals : List (BitVec 32)) (poisoned : Bool) :
    Option Status :=
  let desc := le (slice data 0 32) 0 32
  let g := segmentOf desc
  match refillForm d with
  | some st => some st
  | none =>
    if refillSealsBad d data seals then some .sealMismatch
    else if poisoned then some .faulted
    else if s.segmentBad t d data then some .badRecord
    else if s.channelsBad t (transferWords data g) then some .notOwner
    else if s.refillActive t (segmentId desc) g then some .refusedActive
    else none

/-- The segments that a refill overwrites stop being resident, and so does the segment itself until it has arrived
(R204). -/
def State.evictFor (s : State) (t id : Nat) (g : Segment) : State :=
  let segments := s.program.segments.map fun kv =>
    if kv.1 / 1024 = t && (kv.1 % 1024 = id || kv.2.overlaps g) then (kv.1, { kv.2 with resident := false }) else kv
  { s with program := { s.program with segments } }

/-- A segment has arrived: its words and blocks stand in the tile, it is resident, and what a first seal failure
awaits of it is forgotten (R204, R25). -/
def State.installSegment (s : State) (t : Nat) (x : Refill) : State :=
  let s := s.evictFor t x.segId x.seg
  let s := s.writeRows t x.seg.libFirst (x.blocks.map fun b => (b, crc32c b))
  let s := { s with program := { s.program with
    opMem := s.program.opMem.writeAll 0 (32768 * t + x.seg.opAddr) x.words
    segments := s.program.segments.list (1024 * t + x.segId) x.seg } }
  let r := s.tile t
  s.setTile t { r with suspect := r.suspect.filter fun k =>
    k.1 ≠ 16384 + x.segId && !(decide (x.seg.libFirst ≤ k.1) && decide (k.1 < x.seg.libFirst + x.seg.libBlocks)) }

end Sys2Proof.Machine
end

