-- ==== Sys2Proof/Machine/HostBus.lean ====
section
/-! DEFINITION. The host's side of the device (R320 to R346): doorbells, the BAR4 window and its merge buffer, the
descriptor rings, PCIe link events and resets, and the 25GBASE-R port's datagrams. -/

namespace Sys2Proof.Machine

/-- A change of the host interface. -/
def State.setHost (s : State) (x : HostIf) : State := { s with host := x }

/-- A host access to a BAR of function `f` reaches the device: the link is up and the function is enabled. -/
def State.hostReaches (s : State) (f : Nat) : Bool :=
  s.flag F.linkStatus_LINK_UP && decide (f ≤ s.get F.linkStatus_NUM_VFS) && s.mode ≠ .reset

/-! ### Doorbells (R328, R335) -/

/-- The mailbox that is assigned to a function and slot. -/
def State.mailboxAt (s : State) (f k : Nat) : Option Nat :=
  (List.range 16).find? fun m => s.mailboxAssigned m && s.mailboxFn m = f && s.mailboxSlot m = k

/-- A doorbell is accepted, or discarded while BUSY is 1. -/
def State.ring (s : State) (m : Nat) (buf : List Byte) : State :=
  let x := s.mailbox m
  if x.busy then s.setMailbox m { x with drops := satAdd x.drops 1 32 }
  else
    let s := s.setMailbox m { x with busy := true, done := false, request := slice buf 0 4096 }
    (s.setHost { s.host with accepted := s.host.accepted ++ [m] }).raise (1088 + m)

/-- DOORBELL_WRITE (R335). -/
def execDoorbellWrite (f : Fin 8) (k : Fin 4) (_tag : BitVec 16) (buf : List (BitVec 8)) (s : State) : Result :=
  let s := s.fresh
  .next (if s.hostReaches f then
    match s.mailboxAt f k with
    | some m => s.ring m buf
    | none => s
  else s)

/-- HOST_MARK (R328): F0 only. -/
def execHostMark (f : Fin 8) (s : State) : Result :=
  let s := s.fresh
  .next (if s.hostReaches f && f = 0 then s.raise 1113 else s)

/-! ### The BAR4 window (R329, R330) -/

/-- The store address of a window offset. -/
def State.window (s : State) (f off : Nat) : Nat := s.get F.bar4Window_WIN_BASE f * 2 ^ 20 + off

/-- A read of the store on the host's behalf; a poisoned beat gives the EP bit and an AER report. -/
def State.bar4Get (s : State) (a n : Nat) : State :=
  let s := s.moveBeats hostReader (beatsOf n)
  if s.storePoisoned a n then
    let data := (List.range n).map fun i => Config.freeByte (s.freeCount + i)
    ({ s with freeCount := s.freeCount + n } : State).emit (.completion data true) |>.emit .aer
  else s.emit (.completion (s.storeBytes a n) false)

/-- Byte `a` of the store, the `i`th that a command reads, where no rule says what its reader makes of a poisoned beat: the
byte of one is free (R240, R241, log 114). -/
def State.byteRead (s : State) (i a : Nat) : Byte :=
  if s.beatPoisoned a then Config.freeByte (s.freeCount + i) else s.memory.store.read 0 a

/-- `n` free bytes have been read. -/
def State.spend (s : State) (n : Nat) : State := { s with freeCount := s.freeCount + n }

/-- The bytes of a block, with those of a merge entry over them. -/
def State.mergedBlock (s : State) (x : Merge) : List Byte :=
  (List.range 256).map fun i => match x.bytes.find i with
    | some b => b
    | none => s.byteRead i (256 * x.block + i)

/-- A held block leaves the merge buffer: its missing bytes are read, and it is sealed and written. -/
def State.flushMerge (s : State) (x : Merge) : State :=
  let data := s.mergedBlock x
  let s := if x.bytes.length = 256 then s else (s.spend 256).moveBeats hostReader 4
  let s := s.setHost { s.host with merge := s.host.merge.filter fun y => y.block ≠ x.block }
  (s.writeBlock x.block data (crc32c data)).moveBeats hostWriter 4

/-- Room in the merge buffer for one more block: the one held longest goes where all 64 are in use. -/
def State.mergeRoom (s : State) : State :=
  match s.host.merge with
  | x :: _ => if 64 ≤ s.host.merge.length then s.flushMerge x else s
  | [] => s

/-- Bytes of one block enter the merge buffer. -/
def State.mergePut (s : State) (block off : Nat) (data : List Byte) : State :=
  let s := if s.host.merge.any fun x => x.block = block then s else s.mergeRoom
  let old := ((s.host.merge.find? fun x => x.block = block).map fun x => x.bytes).getD []
  let bytes := (List.range data.length).foldl (fun (m : SMap Byte) i => m.list (off + i) (data.getD i 0)) old
  let x : Merge := { block, bytes, last := s.clock.now }
  if bytes.length = 256 then s.flushMerge x
  else if s.host.merge.any fun y => y.block = block then
    s.setHost { s.host with merge := s.host.merge.map fun y => if y.block = block then x else y }
  else s.setHost { s.host with merge := s.host.merge ++ [x] }

/-- A write of the store on the host's behalf, block by block. -/
def State.bar4Put (s : State) (a : Nat) (data : List Byte) : State :=
  let n := data.length
  (List.range (if n = 0 then 0 else (a + n - 1) / 256 + 1 - a / 256)).foldl (fun s i =>
    let block := a / 256 + i
    let lo := max a (256 * block)
    let hi := min (a + n) (256 * (block + 1))
    s.mergePut block (lo - 256 * block) ((data.drop (lo - a)).take (hi - lo))) s

/-- A BAR4 access is made, or refused (R329). -/
def State.bar4Access (s : State) (w : Bar4Wait) : State :=
  match w.data with
  | none => if s.storeRefuses w.addr w.len then s.emit .unsupported else s.bar4Get w.addr w.len
  | some d => if s.storeRefuses w.addr w.len then s.emit .aer else s.bar4Put w.addr d

/-- A BAR4 access arrives: it waits while the store is in self-refresh. -/
def State.bar4 (s : State) (w : Bar4Wait) : State :=
  if s.storeOpen then s.bar4Access w else s.setHost { s.host with bar4 := s.host.bar4 ++ [w] }

/-- BAR4 reaches the store for a function. -/
def State.bar4Reaches (s : State) (f : Nat) : Bool := s.hostReaches f && modesAll.contains s.mode

/-- BAR4_READ (R329). -/
def execBar4Read (f : Fin 8) (offset : BitVec 28) (len : Fin 4097) (s : State) : Result :=
  let s := s.fresh
  .next (if s.bar4Reaches f then
    s.bar4 { fn := f, addr := s.window f offset.toNat, len, data := none, since := s.clock.now }
  else s)

/-- BAR4_WRITE (R330). -/
def execBar4Write (f : Fin 8) (offset : BitVec 28) (data : List (BitVec 8)) (s : State) : Result :=
  let s := s.fresh
  .next (if s.bar4Reaches f then
    s.bar4 { fn := f, addr := s.window f offset.toNat, len := data.length, data := some data, since := s.clock.now }
  else s)

/-- MERGE_BLOCK_TIMEOUT (R330): 10 µs after the last write to a held block. -/
def execMergeBlockTimeout (block : BitVec 26) (s : State) : Result :=
  let s := s.fresh
  .next (match s.host.merge.find? fun x => x.block = block.toNat with
    | some x => if x.last + 10 * Config.ticksPerUs ≤ s.clock.now && s.storeOpen then s.flushMerge x else s
    | none => s)

/-- BAR4_SELF_REFRESH_TIMEOUT (R329): the access that has waited longest, for 1 ms. -/
def execBar4SelfRefreshTimeout (s : State) : Result :=
  let s := s.fresh
  .next (match s.host.bar4 with
    | w :: r =>
      if w.since + Config.ticksPerMs ≤ s.clock.now then
        let s := s.setHost { s.host with bar4 := r }
        if w.data.isNone then s.emit .completerAbort else s
      else s
    | [] => s)

/-- The store leaves self-refresh: the accesses that wait are made in order. -/
def State.bar4Resume (s : State) : State :=
  s.host.bar4.foldl State.bar4Access (s.setHost { s.host with bar4 := [] })

/-! ### Rings (R341 to R345) -/

/-- Vector of ring `i`. -/
def ringVector (i : Nat) : Nat := 5 + i

/-- A descriptor of a ring is written back in place (R342, R343, R345). -/
def State.writeback (s : State) (f i desc : Nat) (irq : Bool) : State :=
  let k := ringKey f i
  let ci := s.host.ci.read 0 k
  let s := s.send (.hostWrite f (s.get F.ring_BASE k + 32 * (ci % s.ringSize k)) (leBytes desc 32))
  let s := s.setHost { s.host with ci := s.host.ci.write 0 k ((ci + 1) % 2 ^ 32) }
  let s := s.count F.ring_DESCRIPTORS k
  let free := match s.host.lastSignal.find k with
    | some t => decide (t + s.get F.ring_COALESCE k * Config.ticksPerUs ≤ s.clock.now)
    | none => true
  if irq && free then
    let s := s.setHost { s.host with lastSignal := s.host.lastSignal.list k s.clock.now }
    (s.signal f (ringVector i)).raise (1104 + f)
  else s

/-- A PI or CI that the host writes. -/
def State.setPi (s : State) (k v : Nat) : State := s.setHost { s.host with pi := s.host.pi.write 0 k v }
def State.setCi (s : State) (k v : Nat) : State := s.setHost { s.host with ci := s.host.ci.write 0 k v }

/-- REFILL_PI_WRITE (R341). -/
def execRefillPiWrite (f : Fin 8) (r : Fin 16) (pi : BitVec 32) (s : State) : Result :=
  let s := s.fresh
  .next (if s.hostReaches f then s.setPi (ringKey f r) pi.toNat else s)

/-- CAPTURE_PI_WRITE (R343). -/
def execCapturePiWrite (f : Fin 8) (c : Fin 16) (pi : BitVec 32) (s : State) : Result :=
  let s := s.fresh
  .next (if s.hostReaches f then s.setPi (ringKey f (16 + c)) pi.toNat else s)

/-- COMPLETION_CI_WRITE (R344). -/
def execCompletionCiWrite (f : Fin 8) (ci : BitVec 32) (s : State) : Result :=
  let s := s.fresh
  .next (if s.hostReaches f then s.setCi (ringKey f 32) ci.toNat else s)

/-- A ring works: it is enabled, the link is up, Jutan serves and the store makes grants. -/
def State.ringRuns (s : State) (f i : Nat) : Bool :=
  s.flag F.ring_ENABLE (ringKey f i) && s.hostReaches f && modesAll.contains s.mode && s.storeOpen

/-- A refill descriptor with its STATUS and DONE. -/
def refillDone (d : Nat) (st : Status) : Nat := setBits (setBits d 216 8 st.code) 224 1 1

/-- A refill descriptor completes. -/
def State.refillEnd (s : State) (f r d : Nat) (st : Status) : State :=
  let s := if st = .sealMismatch then s.report 3 false 0xFFF r else s
  s.writeback f r (refillDone d st) (bit d 208)

/-- A refill descriptor is checked; where it stands, its segment is on its way to the tile (R342). -/
def State.takeRefill (s : State) (f r d : Nat) (data : List Byte) (seals : List (BitVec 32)) (poisoned : Bool) :
    State :=
  match s.refillVerdict r d data seals poisoned with
  | some st => s.refillEnd f r d st
  | none =>
    let desc := le (slice data 0 32) 0 32
    let g := segmentOf desc
    let x : Refill :=
      { desc := d, segId := segmentId desc, seg := g, words := transferWords data g, blocks := transferLib data g,
        status := .ok }
    let s := (s.evictFor r x.segId g).moveBeats hostWriter (4 * bits d 64 32)
    s.setHost { s.host with refills := s.host.refills.list (ringKey f r) x }

/-- REFILL_DESCRIPTOR (R342): the next descriptor of the ring, once the one before it has completed. -/
def execRefillDescriptor (f : Fin 8) (r : Fin 16) (desc : BitVec 256) (data : List (BitVec 8))
    (seals : List (BitVec 32)) (poisoned : Bool) (s : State) : Result :=
  let s := s.fresh
  let k := ringKey f r
  .next (if s.ringRuns f r && s.ringCount k ≠ 0 && (s.host.refills.find k).isNone then
    s.takeRefill f r desc.toNat data seals poisoned
  else s)

/-- SEGMENT_RESIDENT (R204). -/
def execSegmentResident (f : Fin 8) (r : Fin 16) (s : State) : Result :=
  let s := s.fresh
  .next (match s.host.refills.find (ringKey f r) with
    | some x =>
      if s.storeOpen then
        let s := s.setHost { s.host with refills := s.host.refills.drop (ringKey f r) }
        let s := (s.installSegment r x).moveBeats r (4 * bits x.desc 64 32)
        s.refillEnd f r x.desc .ok
      else s
    | none => s)

/-- Bytes of a ring buffer in the store. -/
def State.ringBytes (s : State) (base size pos n : Nat) : List Byte :=
  (List.range n).map fun i => s.byteRead i (base + (pos + i) % size)

/-- The length of the frame whose header begins at a position of an output queue (R285). -/
def State.frameLength (s : State) (q pos : Nat) : Nat :=
  let size := 4096 * s.get F.outQueue_SIZE q
  let h := le (s.ringBytes (4096 * s.get F.outQueue_BASE q) size pos 32) 0 32
  (32 + 4 * bits h 192 16 + bits h 128 21 + 63) / 64 * 64

/-- The next whole unit of a capture source (R343): a frame of OQ[q], or a chunk of the capture buffer. -/
def State.captureUnit (s : State) (src : Nat) : Option (List Byte) :=
  if src < 16 then
    let rp := s.get F.outQueue_RP src
    if rp < s.get F.outQueue_WP src then
      some (s.ringBytes (4096 * s.get F.outQueue_BASE src) (4096 * s.get F.outQueue_SIZE src) rp (s.frameLength src rp))
    else none
  else s.capture.written.head?.map fun c => s.ringBytes s.capBase s.capSize c.at_ c.bytes

/-- The next unit of a source lies in an unusable page: the transfer is refused with BAD_VALUE (R241). -/
def State.unitRefused (s : State) (src n : Nat) : Bool :=
  let (base, size, pos) :=
    if src < 16 then
      (4096 * s.get F.outQueue_BASE src, 4096 * s.get F.outQueue_SIZE src, s.get F.outQueue_RP src)
    else (s.capBase, s.capSize, (s.capture.written.head?.map Chunk.at_).getD 0)
  (List.range ((n + 63) / 64)).any fun i => s.memory.pageUnusable.contains (pageOf (base + (pos + 64 * i) % size))

/-- The source's RP, or CAP_RP, moves past a unit. -/
def State.passUnit (s : State) (src n : Nat) : State :=
  if src < 16 then s.put F.outQueue_RP src (s.get F.outQueue_RP src + n)
  else match s.capture.written.head? with
    | some c => s.consume c.at_
    | none => s

/-- A capture descriptor with its FILLED, UNITS, STATUS and DONE. -/
def captureDone (b : CapBuf) (st : Status) : Nat :=
  setBits (setBits (setBits (setBits b.desc 128 32 b.filled) 160 32 b.units) 192 8 st.code) 200 1 1

/-- A capture buffer is written back. -/
def State.captureEnd (s : State) (f c : Nat) (b : CapBuf) (st : Status) : State :=
  let s := s.setHost { s.host with capBufs := s.host.capBufs.drop (ringKey f (16 + c)) }
  s.writeback f (16 + c) (captureDone b st) (bit b.desc 112)

/-- A unit goes into a buffer that it fits. -/
def State.captureFill (s : State) (f c src : Nat) (b : CapBuf) (data : List Byte) : State :=
  let n := data.length
  let s := s.emit (.hostWrite f (bits b.desc 0 64 + b.filled) data)
  let s := ((s.spend n).passUnit src n).moveBeats hostReader (beatsOf n)
  let b : CapBuf :=
    { b with filled := b.filled + n, units := b.units + 1, first := if b.units = 0 then s.clock.now else b.first }
  s.setHost { s.host with capBufs := s.host.capBufs.list (ringKey f (16 + c)) b }

/-- The form of a capture descriptor (R6, R7, R343). -/
def captureForm (d : Nat) : Option Status :=
  let len := bits d 64 32
  if bits d 0 64 % 64 ≠ 0 then some .badValue
  else if len % 64 ≠ 0 || len < 4096 || 16777216 < len || bits d 113 15 ≠ 0 || bits d 201 55 ≠ 0 then some .badRecord
  else none

/-- A unit goes into a new buffer, or leaves it written back with NO_SPACE. A malformed descriptor is written back
refused. -/
def State.captureOpen (s : State) (f c src desc : Nat) (data : List Byte) : State :=
  let k := ringKey f (16 + c)
  let b : CapBuf := { desc, filled := 0, units := 0, first := 0 }
  if s.ringCount k = 0 then s
  else if (captureForm desc).isSome then s.captureEnd f c b ((captureForm desc).getD .ok)
  else if s.unitRefused src data.length then s.captureEnd f c b .badValue
  else if bits desc 64 32 < data.length then (s.captureEnd f c b .noSpace).putFlag F.ring_STALLED k true
  else s.captureFill f c src b data

/-- CAPTURE_RING_FILL (R343): the next unit of the ring's source. -/
def execCaptureRingFill (f : Fin 8) (c : Fin 16) (desc : BitVec 256) (s : State) : Result :=
  let s := s.fresh
  let k := ringKey f (16 + c)
  let src := s.get F.ring_SOURCE k
  .next (if !s.ringRuns f (16 + c) || s.flag F.ring_STALLED k then s
    else match s.captureUnit src, s.host.capBufs.find k with
      | none, _ => s
      | some data, none => s.captureOpen f c src desc.toNat data
      | some data, some b =>
        if b.filled + data.length ≤ bits b.desc 64 32 && !s.unitRefused src data.length then s.captureFill f c src b data
        else (s.captureEnd f c b .ok).captureOpen f c src desc.toNat data)

/-- CAPTURE_FLUSH_TIMEOUT (R343). -/
def execCaptureFlushTimeout (f : Fin 8) (c : Fin 16) (s : State) : Result :=
  let s := s.fresh
  let k := ringKey f (16 + c)
  .next (match s.host.capBufs.find k with
    | some b =>
      if b.first + s.get F.ring_FLUSH_US k * Config.ticksPerUs ≤ s.clock.now then s.captureEnd f c b .ok else s
    | none => s)

/-! ### Resets and the link (R321 to R323) -/

/-- A ring is disabled, and its descriptors not yet written back are discarded. -/
def State.disableRing (s : State) (k : Nat) : State :=
  let s := s.putFlag F.ring_ENABLE k false
  s.setHost { s.host with refills := s.host.refills.drop k, capBufs := s.host.capBufs.drop k }

/-- The rings of a function are disabled. -/
def State.disableRings (s : State) (f : Nat) : State :=
  (List.range 33).foldl (fun s i => s.disableRing (ringKey f i)) s

/-- The mailboxes of a function are cleared: what waits is dropped, and the response of a deferred command will be
discarded (R323, R356). -/
def State.clearMailboxes (s : State) (f : Nat) : State :=
  let mine := (List.range 16).filter fun m => s.mailboxAssigned m && s.mailboxFn m = f
  let s := mine.foldl (fun s m => s.setMailbox m .init) s
  s.setHost { s.host with
    accepted := s.host.accepted.filter fun m => m ∉ mine
    deferred := s.host.deferred.map fun d => if d.m ∈ mine then { d with discard := true } else d }

/-- A run group stops as under HALT (R162, R323). -/
def State.stopRun (s : State) (g : Nat) : State :=
  if (s.group g).state = .idle then s
  else if (s.group g).inShot then s.sendHalt g
  else s.endRun g

/-- Every run group that includes a tile of a function stops. -/
def State.stopRuns (s : State) (f : Nat) : State :=
  (List.range 16).foldl (fun s g => if (s.members g).any fun t => s.owner t = f then s.stopRun g else s) s

/-- The effects of an FLR (R323). -/
def State.flr (s : State) (f : Nat) : State := ((s.stopRuns f).disableRings f).clearMailboxes f

/-- An FLR of every function. -/
def State.flrAll (s : State) : State := (List.range 8).foldl State.flr s

/-- PCIE_FLR (R323). -/
def execPcieFlr (f : Fin 8) (s : State) : Result :=
  let s := s.fresh
  .next (if s.mode = .reset then s else s.flr f)

/-- PCIE_HOT_RESET (R323). -/
def execPcieHotReset (s : State) : Result :=
  let s := s.fresh
  .next (if s.mode = .reset then s else s.flrAll)

/-- The link goes down (R322). -/
def State.linkDown (s : State) : State :=
  if s.flag F.linkStatus_LINK_UP then
    (((s.putFlag F.linkStatus_LINK_UP 0 false).count F.linkStatus_LINK_DOWN_COUNT 0).raise 1112).report 32 false 1112
  else s

/-- PERST_ASSERT (R407): the host interface alone is reset. -/
def execPerstAssert (s : State) : Result :=
  let s := s.fresh
  let s := s.setHost { s.host with perst := true }
  .next (if s.mode = .reset then s else s.flrAll.linkDown)

/-- PERST_RELEASE (R397). -/
def execPerstRelease (s : State) : Result :=
  let s := s.fresh
  .next (s.setHost { s.host with perst := false })

/-- PCIE_LINK_DOWN (R322). -/
def execPcieLinkDown (s : State) : Result := .next s.fresh.linkDown

/-- What was held while the link was down is delivered. -/
def State.deliverHeld (s : State) : State :=
  let held := s.host.heldOut
  let s := s.setHost { s.host with heldOut := [] }
  { s with out := s.out ++ held }

/-- The link width changes, which the function-event vectors signal (R345). -/
def State.setWidth (s : State) (w : Nat) : State :=
  if s.get F.linkStatus_WIDTH = w then s else (s.put F.linkStatus_WIDTH 0 w).signalAll

/-- PCIE_LINK_UP (R320 to R322, R397): under SHED_X4 the link runs at ×4. -/
def execPcieLinkUp (rate width : Fin 3) (s : State) : Result :=
  let s := s.fresh
  .next (if s.host.perst || s.mode = .reset then s
    else
      let s := ((s.putFlag F.linkStatus_LINK_UP 0 true).put F.linkStatus_RATE 0 rate).deliverHeld
      let s := s.setHost { s.host with trainedWidth := width }
      s.setWidth (if s.flag F.linkStatus_SHED_X4 then 0 else width))

/-! ### NumVFs (R326, R440) -/

/-- The segments of a tile stop being resident. -/
def State.evictAll (s : State) (t : Nat) : State := s.evict t fun _ => true

/-- The tile of a Hatband source, where it has one, is among `ts` (R16, R440). -/
def State.enablesTiles (s : State) (c : Nat) (ts : List Nat) : Bool :=
  (sourcesOf c (s.get F.channel_SRC_EN c)).any fun src => match sourceTile src with
    | some t => ts.contains t
    | none => false

/-- A function is removed. DEDUCED: run groups that it started pass to F0 with their tiles. -/
def State.removeFn (s : State) (f : Nat) : State :=
  let tiles := (List.range 16).filter fun t => s.owner t = f
  let s := s.disableRings f
  let s := (List.range 512).foldl (fun s c =>
    if s.get F.channel_OWNER c = f && s.enablesTiles c tiles then s.put F.channel_OWNER c 0 else s) s
  let s := tiles.foldl (fun s t => (s.putAt F.ownership_OWNER 0 t 0).evictAll t) s
  let s := (List.range 16).foldl (fun s g =>
    if (s.group g).state ≠ .idle && (s.group g).owner = f then s.setGroup g { s.group g with owner := 0 } else s) s
  (List.range 16).foldl (fun s m =>
    if s.mailboxAssigned m && s.mailboxFn m = f then
      s.putAt F.mailboxAssign_MBX 0 m (setBits (s.getAt F.mailboxAssign_MBX 0 m) 5 1 0)
    else s) s

/-- NUMVFS_CHANGE (R326). -/
def execNumvfsChange (n : Fin 8) (s : State) : Result :=
  let s := s.fresh
  .next (if s.mode = .reset then s
    else
      let gone := (List.range 8).filter fun f => decide (n.val < f) && decide (f ≤ s.get F.linkStatus_NUM_VFS)
      (gone.foldl State.removeFn s).put F.linkStatus_NUM_VFS 0 n)

/-! ### The 25GBASE-R port (R346, R350) -/

/-- REMOTE_DEST (R346): the destination of remote capture. -/
def remoteDestCommand (r : Request) (_ : State) : Command :=
  { frame := exactly r 32, access := accessAdm r, modes := modesCPRS, refused := false,
    checks := [badAt 0 (r.at 0 1 ≠ 4 && r.at 0 1 ≠ 6), r.rsv 1 1, r.rsv 6 2, r.rsv 14 2,
      badAt 20 (r.at 0 1 = 4 && r.at 20 12 ≠ 0)],
    act := fun s => .ok (s.setHost { s.host with remoteDest := r.payload }) [] }

/-- REMOTE_DEST. -/
def execRemoteDest (m : Fin 16) (s : State) : Result := .next (s.fresh.serve m 0x0509 remoteDestCommand)

/-- The header of a remote datagram. -/
def datagramHeader (q off n : Nat) : List Byte := leBytes (q % 16 + (n % 2 ^ 16) <<< 32 + (off % 2 ^ 64) <<< 64) 16

/-- REMOTE_DATAGRAM_TX (R346): up to 8,192 bytes of OQ[REMOTE_Q]. -/
def execRemoteDatagramTx (s : State) : Result :=
  let s := s.fresh
  let q := s.get F.ethPort_REMOTE_Q
  let rp := s.get F.outQueue_RP q
  let n := min 8192 (s.get F.outQueue_WP q - rp)
  .next (if s.flag F.ethPort_ENABLE && s.flag F.ethPort_REMOTE_EN && s.flag F.ethPort_LINK_OK
      && !s.host.remoteDest.isEmpty && s.storeOpen && n ≠ 0 then
    let data := s.ringBytes (4096 * s.get F.outQueue_BASE q) (4096 * s.get F.outQueue_SIZE q) rp n
    let s := (s.emit (.datagram (datagramHeader q rp n ++ data))).put F.outQueue_RP q (rp + n)
    (s.spend n).moveBeats hostReader (beatsOf n)
  else s)

/-- PCS_ALIGNMENT_CHANGE (R350). -/
def execPcsAlignmentChange (ok : Bool) (s : State) : Result :=
  let s := s.fresh
  .next (if s.mode = .reset then s else s.putFlag F.ethPort_LINK_OK 0 (ok && s.flag F.ethPort_ENABLE))

end Sys2Proof.Machine
end

