-- ==== Sys2Proof/Machine/Power.lean ====
section
/-! DEFINITION. Feeds, shedding, temperature sensors and throttling (R365 to R380, R387 to R389), PMBus (R371), and
the commands TELEMETRY and SENSOR_READ. -/

namespace Sys2Proof.Machine

/-! ### Feeds (R365, R366) -/

/-- A voltage in mV is in range. -/
def inRange (mv : Nat) : Bool := decide (10800 ≤ mv) && decide (mv ≤ 13200)

/-- A feed, and a change of it. -/
def Power.feed (x : Power) (f : Feed) : FeedState :=
  match f with
  | .a => x.feedA
  | .b => x.feedB
def Power.setFeed (x : Power) (f : Feed) (y : FeedState) : Power :=
  match f with
  | .a => { x with feedA := y }
  | .b => { x with feedB := y }

/-- The other feed. -/
def otherFeed (f : Feed) : Feed :=
  match f with
  | .a => .b
  | .b => .a

/-- The device draws from some feed. -/
def State.powered (s : State) : Bool := s.power.feedA.drawn || s.power.feedB.drawn

/-- A latch of the power stages keeps the device off (R378, R379). -/
def State.latchedOff (s : State) : Bool := s.power.thermalOff || s.power.analogTrip

/-- The device draws from a feed. -/
def State.drawFeed (s : State) (f : Feed) (mv : Nat) : State :=
  s.setPower (s.power.setFeed f { qualified := true, drawn := true, mv })

/-- FEED_QUALIFY (R365): the device starts from the feed, or shares its load with it. -/
def execFeedQualify (feed : Feed) (mv : BitVec 16) (s : State) : Result :=
  let s := s.fresh
  .next (if inRange mv.toNat && !(s.power.feed feed).qualified && !s.latchedOff then s.drawFeed feed mv.toNat else s)

/-- RAILS_IN_REGULATION (R397): BOOT begins. -/
def execRailsInRegulation (s : State) : Result :=
  let s := s.fresh
  .next (if s.powered && !s.power.rails then (s.setPower { s.power with rails := true }).tryBoot else s)

/-- The drop source and count of a feed. -/
def feedSource (f : Feed) : Nat :=
  match f with
  | .a => 1056
  | .b => 1057
def feedDrops (f : Feed) : Field :=
  match f with
  | .a => F.powerStatus_FEED_A_DROPS
  | .b => F.powerStatus_FEED_B_DROPS

/-- PMBus notes the drop of a feed. -/
def Power.noteDrop (x : Power) (f : Feed) (mv : Nat) : Power :=
  let x := { x with overVoltage := x.overVoltage || decide (13200 < mv) }
  match f with
  | .a => { x with dropSeenA := true }
  | .b => { x with dropSeenB := true }

/-- A feed is dropped: the other takes the whole load (R366). -/
def State.dropFeed (s : State) (f : Feed) (mv : Nat) : State :=
  let o := s.power.feed (otherFeed f)
  let x := s.power.setFeed f { qualified := false, drawn := false, mv }
  let s := s.setPower ((x.setFeed (otherFeed f) { o with drawn := true }).noteDrop f mv)
  ((s.count (feedDrops f) 0).raise (feedSource f)).report 26 false (feedSource f) mv

/-- FEED_DROP (R366): the other feed is in range. -/
def execFeedDrop (feed : Feed) (mv : BitVec 16) (s : State) : Result :=
  let s := s.fresh
  let o := s.power.feed (otherFeed feed)
  .next (if (s.power.feed feed).drawn && !inRange mv.toNat && o.qualified && inRange o.mv then
    s.dropFeed feed mv.toNat
  else s)

/-- FEED_REJOIN (R366). -/
def execFeedRejoin (feed : Feed) (mv : BitVec 16) (s : State) : Result :=
  let s := s.fresh
  .next (if inRange mv.toNat && !(s.power.feed feed).drawn && (s.power.feed (otherFeed feed)).drawn then
    s.drawFeed feed mv.toNat
  else s)

/-! ### Shedding (R367 to R370) -/

/-- The threshold of a stage in mV. -/
def shedThreshold (stage : Nat) : Nat :=
  match stage with
  | 1 => 10600
  | 2 => 10300
  | 3 => 10000
  | 4 => 9600
  | 5 => 9200
  | _ => 8800

/-- The present stage. -/
def State.shedStage (s : State) : Nat := s.get F.powerStatus_SHED_STAGE

/-- The link retrains to ×4 (R321), or to its trained width. -/
def State.shedWidth (s : State) (on : Bool) : State :=
  let s := s.putFlag F.linkStatus_SHED_X4 0 on
  if s.flag F.linkStatus_LINK_UP then s.setWidth (if on then 0 else s.host.trainedWidth) else s

/-- Stage 1 (R283, R295): capture of IQ and snapshots stops, and running Fulling jobs fail. -/
def State.shedCapture (s : State) : State :=
  let s := (s.setCapture { s.capture with resumeDue := false }).putFlag F.capStatus_SHED_STOP 0 true
  (List.range 8).foldl (fun s e => s.failRun e .faulted true) s

/-- Stage 4: every run ends as under ABORT with its shot voided, every output parks, and RUN and SURVEY pass to
PARKED. -/
def State.shedRuns (s : State) : State :=
  let s := ((List.range 16).foldl State.haltGroup s).parkAll
  if s.mode = .run || s.mode = .survey then s.enterMode .parked 0x0020 else s

/-- The actions that a stage adds (R368). -/
def State.shedAction (s : State) (stage : Nat) : State :=
  match stage with
  | 1 => s.shedCapture
  | 2 => s.shedWidth true
  | 3 => (List.range 16).foldl State.parkIdle s
  | 4 => s.shedRuns
  | 5 => (List.range 4).foldl State.settlePort s
  | _ => s.rampTo 5

/-- The stage changes, and its source is raised (R369). -/
def State.setStage (s : State) (stage : Nat) : State := (s.put F.powerStatus_SHED_STAGE 0 stage).raise 1055

/-- A stage is entered. -/
def State.enterStage (s : State) (stage : Nat) : State :=
  let s := ((s.setStage stage).count F.powerStatus_SHED_ENTRIES 0).report 25 false 1055 stage
  (s.urge .shed).shedAction stage

/-- SHED_STAGE_ENTER (R368, R369): the next stage, once the best remaining feed lies below its threshold. -/
def execShedStageEnter (mv : BitVec 16) (s : State) : Result :=
  let s := s.fresh
  let next := s.shedStage + 1
  .next (if s.powered && s.mode ≠ .reset && decide (next ≤ 6) && decide (mv.toNat < shedThreshold next) then
    s.enterStage next
  else s)

/-- Stage 3 is left: a group between shots begins its next shot under R202, counted from the recovery. -/
def State.restartGap (s : State) (g : Nat) : State :=
  let x := s.group g
  if x.state = .running && !x.inShot then
    let s := (s.members g).foldl State.unprepare s
    s.setGroup g { s.group g with base := (s.si + 15) / 16 * 16 + 16 * x.gap * s.gapFactor }
  else s

/-- The stream store leaves self-refresh: the first grant follows within 1,600 ticks, when being free (R237). -/
def State.leaveSelfRefresh (s : State) : State :=
  let (v, s) := (s.putFlag F.storeStatus_SELF_REFRESH 0 false).free
  s.setStoreArb { s.storeArb with openAt := s.clock.now + v.toNat % 1601 }

/-- What follows when a stage is left (R370). -/
def State.recoverAction (s : State) (stage : Nat) : State :=
  match stage with
  | 5 => (List.range 4).foldl State.settlePort s
  | 3 => (List.range 16).foldl State.restartGap s
  | 2 => (s.leaveSelfRefresh.shedWidth false).bar4Resume
  | 1 =>
    let s := s.setCapture { s.capture with resumeDue := true }
    if s.anyRun then s else s.resumeCapture
  | _ => s

/-- SHED_STAGE_RECOVER (R370): one stage, once the best remaining feed has stayed 150 mV above its threshold. Stage 6
does not recover. -/
def execShedStageRecover (mv : BitVec 16) (s : State) : Result :=
  let s := s.fresh
  let stage := s.shedStage
  .next (if 0 < stage && decide (stage < 6) && decide (shedThreshold stage + 150 ≤ mv.toNat) then
    (s.setStage (stage - 1)).recoverAction stage
  else s)

/-- SELF_REFRESH_ENTER (R237, R368): stage 2 and above, once the grant in progress has ended. -/
def execSelfRefreshEnter (s : State) : Result :=
  let s := s.fresh
  .next (if 2 ≤ s.shedStage && s.storeArb.grant.isNone then s.putFlag F.storeStatus_SELF_REFRESH 0 true else s)

/-- FEED_OVER_VOLTAGE (R366): both feeds above 13.2 V, the actions of stage 6. -/
def execFeedOverVoltage (s : State) : Result :=
  let s := s.fresh
  .next (if s.powered then (s.setPower { s.power with overVoltage := true }).rampTo 5 else s)

/-- FEEDS_BELOW_5V (R403): the power stages forget the cause that they hold; no load is left. -/
def execFeedsBelow5v (s : State) : Result :=
  let s := s.fresh
  .next (if s.powered then s.powerOff 0 else s.setPower { s.power with heldCause := 0 })

/-! ### Temperature sensors (R372 to R376) -/

/-- The named neighbours of a sensor (R372). -/
def sensorNeighbours (i : Nat) : List Nat :=
  if i < 8 then
    let row := i / 4 * 4
    let c := i % 4
    (if c = 0 then [] else [i - 1]) ++ (if c = 3 then [28] else [i + 1]) ++ [if row = 0 then i + 4 else i - 4]
  else if i < 24 then (List.range 4).map (8 + (i - 8) / 4 * 4 + ·) |>.filter (· ≠ i)
  else match i with
    | 24 => [25, 0]
    | 25 => [24, 0]
    | 26 => [27, 4]
    | 27 => [26, 4]
    | _ => [3, 7]

/-- The last reading of a sensor in 0.01 °C. -/
def State.temp (s : State) (i : Nat) : Int := signed (s.get F.sensor_TEMP i) 16

/-- The valid neighbours of a sensor. -/
def State.validNeighbours (s : State) (i : Nat) : List Nat :=
  (sensorNeighbours i).filter fun j => !s.flag F.sensor_FAILED j

/-- A reading differs by more than 15 °C from every valid neighbour, of which there is one. -/
def State.disagrees (s : State) (i : Nat) (reading : Int) : Bool :=
  !(s.validNeighbours i).isEmpty && (s.validNeighbours i).all fun j => 1500 < (reading - s.temp j).natAbs

/-- The thresholds of R374 in 0.01 °C, and the hysteresis. -/
def State.threshold (s : State) (level : Nat) : Int :=
  match level with
  | 1 => 100 * s.get F.thermalControl_WARN_C
  | 2 => 100 * s.get F.thermalControl_THROTTLE_C
  | _ => 100 * s.get F.thermalControl_SHUTDOWN_C
def hysteresis : Int := 400

/-- The level of a value: at or above a threshold, or still above it less the hysteresis (R374). -/
def State.levelOf (s : State) (old top : Nat) (v : Int) : Nat :=
  (List.range (top + 1)).foldl (fun m l =>
    if l ≠ 0 && (decide (s.threshold l ≤ v) || (decide (l ≤ old) && decide (s.threshold l - hysteresis ≤ v))) then l
    else m) 0

/-- A reading lies within 6 °C of a threshold (R373). -/
def State.nearThreshold (s : State) (v : Int) : Bool :=
  [1, 2, 3].any fun l => decide ((v - s.threshold l).natAbs ≤ 600)

/-- A sample is taken in: TEMP, PEAK and FAST, and the run of disagreeing samples. A faulted conversion gives no
reading. -/
def State.takeReading (s : State) (i : Nat) (v : Int) : State :=
  let n := if s.disagrees i v then s.monitor.disagree.read 0 i + 1 else 0
  let s := s.put F.sensor_TEMP i (unsigned (satSigned v 16) 16)
  let s := s.putFlag F.sensor_FAST i (s.nearThreshold v)
  let s := s.put F.sensor_PEAK i (unsigned (max (satSigned v 16) (signed (s.get F.sensor_PEAK i) 16)) 16)
  { s with monitor := { s.monitor with disagree := s.monitor.disagree.write 0 i n } }

/-- The cause for which a sensor fails at a sample (R375): 0 none. -/
def State.failCause (s : State) (i : Nat) (v : Int) (convFault stuck : Bool) : Nat :=
  if convFault || decide (v < -4000) || decide (15000 < v) then 1
  else if (s.validNeighbours i).isEmpty then 0
  else if stuck then 2
  else if 32 ≤ s.monitor.disagree.read 0 i then 3
  else 0

/-- A sensor fails: FAILED latches with its first cause (R375). -/
def State.failSensor (s : State) (i cause : Nat) : State :=
  let s := ((s.putFlag F.sensor_FAILED i true).put F.sensor_FAIL_CAUSE i cause).count F.sensor_FAIL_COUNT i
  (s.raise 1058).report 23 false 1058 i cause

/-- The effective value under HOT (R376). -/
def State.hotValue (s : State) (i : Nat) : Int :=
  let base := s.threshold 2 + hysteresis
  match s.monitor.lastValid.find i with
  | some v => max v base
  | none => base

/-- The effective value of a failed sensor (R376). -/
def State.effective (s : State) (i : Nat) : Int :=
  match s.validNeighbours i with
  | j :: r =>
    if s.flag F.thermalControl_FAIL_MODE then
      r.foldl (fun m k => max m (s.temp k)) (s.temp j) + 100 * s.get F.thermalControl_NB_MARGIN
    else s.hotValue i
  | [] => s.hotValue i

/-- Entries into levels raise the sensor's source with the level as P (R374). -/
def State.raiseLevels (s : State) (i old new : Nat) : State :=
  (List.range (new + 1)).foldl (fun s l =>
    if old < l then (s.raise (1024 + i) l).report 24 false (1024 + i) i l else s) s

/-- Some sensor stands at a level or above. -/
def State.anyLevel (s : State) (l : Nat) : Bool := (List.range 29).any fun i => decide (l ≤ s.get F.sensor_LEVEL i)

/-- The warning flag and the throttle follow the sensors (R374, R377). -/
def State.judgeThrottle (s : State) : State :=
  let s := s.putFlag F.powerStatus_WARNING 0 (s.anyLevel 1)
  let now := s.anyLevel 2
  if now = s.flag F.powerStatus_THROTTLE_ENGAGED then s
  else
    let s := s.putFlag F.powerStatus_THROTTLE_ENGAGED 0 now
    (s.setPower { s.power with lastThrottle := s.clock.now }).raise (if now then 1053 else 1054)

/-- A sensor is judged at a value: `top` is the highest level it may enter. -/
def State.judgeSensor (s : State) (i top : Nat) (v : Int) : State :=
  let old := s.get F.sensor_LEVEL i
  let new := s.levelOf old top v
  let s := (s.put F.sensor_EFFECTIVE i (unsigned (satSigned v 16) 16)).put F.sensor_LEVEL i new
  let s := (s.raiseLevels i old new).judgeThrottle
  if old < 3 && new = 3 then
    (s.setPower { s.power with hot := if s.power.hot.contains i then s.power.hot else s.power.hot ++ [i] }).rampTo 6
  else s

/-- A valid sample of a valid sensor. -/
def State.noteValid (s : State) (i : Nat) (v : Int) : State :=
  { s with monitor := { s.monitor with lastValid := s.monitor.lastValid.list i v } }

/-- A sensor whose re-admission has been requested starts afresh (R375). -/
def State.readmit (s : State) (i : Nat) : State :=
  if s.monitor.readmit.contains i then
    let s := (s.putFlag F.sensor_FAILED i false).put F.sensor_FAIL_CAUSE i 0
    { s with monitor := { s.monitor with
        readmit := s.monitor.readmit.filter (· ≠ i), disagree := s.monitor.disagree.drop i } }
  else s

/-- A sample of a sensor while the device runs. -/
def State.sampleSensor (s : State) (i : Nat) (v : Int) (convFault stuck : Bool) : State :=
  let s := s.readmit i
  let s := if convFault then s else s.takeReading i v
  let cause := s.failCause i v convFault stuck
  let s := if cause ≠ 0 && !s.flag F.sensor_FAILED i then s.failSensor i cause else s
  if s.flag F.sensor_FAILED i then s.judgeSensor i 2 (s.effective i) else (s.noteValid i v).judgeSensor i 3 v

/-- SENSOR_SAMPLE (R373 to R376). After a thermal shutdown the sensors that entered it are watched until they have
cooled (R378). -/
def execSensorSample (i : Fin 29) (reading : Int) (convFault stuck : Bool) (s : State) : Result :=
  let s := s.fresh
  .next (if s.power.thermalOff then
    if !convFault && decide (reading < s.threshold 3 - hysteresis) then
      s.setPower { s.power with hot := s.power.hot.filter (· ≠ i.val) }
    else s
  else if s.mode = .reset then s
  else s.sampleSensor i reading convFault stuck)

/-! ### Throttling (R377) -/

/-- A throttle step may change now: no run is active, or a group's shots meet at this tick. -/
def State.atShotBoundary (s : State) : Bool :=
  !s.anyRun || (List.range 16).any fun g =>
    (s.group g).state ≠ .idle && (!(s.group g).inShot || s.si / 16 = (s.group g).base / 16)

/-- The present step. -/
def State.throttleStep (s : State) : Nat := s.get F.powerStatus_THROTTLE_STEP

/-- A full THROTTLE_DWELL has passed since the last change. -/
def State.dwelled (s : State) : Bool :=
  s.power.lastThrottle + s.get F.thermalControl_THROTTLE_DWELL * Config.ticksPerMs ≤ s.clock.now

/-- The step changes, and with it what it throttles. -/
def State.setThrottle (s : State) (n : Nat) : State :=
  let rises := decide (s.throttleStep < n)
  let s := s.put F.powerStatus_THROTTLE_STEP 0 n
  let s := s.setPower { s.power with lastThrottle := s.clock.now }
  let s := s.put F.capStatus_SURVEY_STEP 0 (if 2 ≤ n then s.get F.thermalControl_THR_SURVEY_STEP else 0)
  let s := s.putFlag F.fullingStatus_THROTTLED 0 (3 ≤ n)
  if rises then
    let s := s.urge .throttle
    if n = 5 then (List.range 16).foldl State.parkIdle s else s
  else s

/-- The step that is due: engagement sets step 1, and each full dwell raises or lowers it by one. -/
def State.nextStep (s : State) : Nat :=
  let n := s.throttleStep
  if s.flag F.powerStatus_THROTTLE_ENGAGED then
    if n = 0 then 1 else if n < 6 && s.dwelled then n + 1 else n
  else if s.dwelled then n - 1
  else n

/-- THROTTLE_STEP_CHANGE (R377). -/
def execThrottleStepChange (s : State) : Result :=
  let s := s.fresh
  .next (if s.mode ≠ .reset && s.atShotBoundary && s.nextStep ≠ s.throttleStep then s.setThrottle s.nextStep else s)

/-! ### Trips and restart (R378, R379) -/

/-- ANALOG_TRIP (R379): every power stage stops at once, and the latch holds. -/
def execAnalogTrip (s : State) : Result :=
  let s := s.fresh
  .next (if s.powered then
    let s := s.powerOff 7
    s.setPower { s.power with analogTrip := true }
  else s)

/-- POWER_RESTART (R378, R379, R411): both feeds have been out of range for 100 ms. -/
def execPowerRestart (s : State) : Result :=
  let s := s.fresh
  let x := s.power
  .next (s.setPower { x with
    thermalOff := false, analogTrip := false, hot := [], watchdogs := [], stayReset := false
    dropSeenA := false, dropSeenB := false, overVoltage := false }).tryBoot

/-! ### PMBus (R371) -/

/-- PMBus is answered while a feed is in range (R408). -/
def State.pmbusUp (s : State) : Bool :=
  s.powered || (s.power.feedA.qualified && inRange s.power.feedA.mv) || (s.power.feedB.qualified && inRange s.power.feedB.mv)
    || s.latchedOff

/-- The address of the SMBus and PMBus target (R434). -/
def smbTarget : Nat := 0x58 + Config.smbAddr.toNat

/-- A transfer to an address is answered. -/
def State.answersAt (s : State) (addr : BitVec 7) : Bool := s.pmbusUp && addr.toNat = smbTarget

/-- PMBUS_PAGE: pages 0 and 1 exist. -/
def execPmbusPage (addr : BitVec 7) (page : BitVec 8) (s : State) : Result :=
  let s := s.fresh
  .next (if s.answersAt addr && page.toNat ≤ 1 then s.setPower { s.power with pmbusPage := page.toNat } else s)

/-- PMBUS_OPERATION: 0x00 powers off as stage 6, 0x80 restarts after a thermal shutdown once every sensor that
entered it has cooled (R378). -/
def execPmbusOperation (addr : BitVec 7) (op : BitVec 8) (s : State) : Result :=
  let s := s.fresh
  .next (if !s.answersAt addr then s
    else if op = 0x00 && s.powered then s.rampTo 5
    else if op = 0x80 && s.power.thermalOff && s.power.hot.isEmpty then s.setPower { s.power with thermalOff := false }
    else s)

/-- The feed of the page. -/
def State.pageFeed (s : State) : Feed := if s.power.pmbusPage = 0 then .a else .b

/-- The stage sensors of the page: TS[24], TS[25] or TS[26], TS[27]. -/
def State.pageSensors (s : State) : List Nat := if s.power.pmbusPage = 0 then [24, 25] else [26, 27]

/-- STATUS_INPUT. PRESUMED: bits as PMBus 1.4 numbers them. -/
def State.statusInput (s : State) : Nat :=
  let x := s.power
  let dropped := match s.pageFeed with
    | .a => x.dropSeenA
    | .b => x.dropSeenB
  (if x.overVoltage then 0x80 else 0) + (if 1 ≤ s.shedStage then 0x20 else 0) + (if dropped then 0x10 else 0)

/-- STATUS_TEMPERATURE. PRESUMED: bits as PMBus 1.4 numbers them. -/
def State.statusTemperature (s : State) : Nat :=
  (if s.latchedOff then 0x80 else 0)
    + (if s.pageSensors.any fun i => 1 ≤ s.get F.sensor_LEVEL i then 0x40 else 0)

/-- STATUS_WORD. PRESUMED: bits as PMBus 1.4 numbers them. -/
def State.statusWord (s : State) : Nat :=
  (if s.statusTemperature = 0 then 0 else 0x4) + (if bit s.statusInput 4 then 0x8 else 0)
    + (if s.statusInput = 0 then 0 else 0x2000) + (if s.powered then 0 else 0x40)

/-- PMBUS_STATUS_READ. -/
def execPmbusStatusRead (addr : BitVec 7) (code : BitVec 8) (s : State) : Result :=
  let s := s.fresh
  .next (if !s.answersAt addr then s
    else if code = 0x79 then s.emit (.pmbus s.statusWord)
    else if code = 0x7C then s.emit (.pmbus s.statusInput)
    else if code = 0x7D then s.emit (.pmbus s.statusTemperature)
    else s)

/-- A measured value at the present 1 ms update (R371, R387). -/
def State.measure (s : State) (what : Nat) : Nat := (Config.analogue what (s.clock.now / Config.ticksPerMs)).toNat

/-- PMBUS_READ_VALUE: the feed of the page in mV, mA and mW, and the hotter of its stage sensors. -/
def execPmbusReadValue (addr : BitVec 7) (code : BitVec 8) (s : State) : Result :=
  let s := s.fresh
  let p := s.power.pmbusPage
  let reply := fun (v : Int) => s.emit (.pmbus (Config.linear11 v).toNat)
  .next (if !s.answersAt addr then s
    else if code = 0x88 then reply (s.measure p)
    else if code = 0x89 then reply (s.measure (2 + p))
    else if code = 0x97 then reply (s.measure (5 + p))
    else if code = 0x8D then reply (10 * max (s.temp (24 + 2 * p)) (s.temp (25 + 2 * p)))
    else s)

/-- PMBUS_REVISION. -/
def execPmbusRevision (addr : BitVec 7) (s : State) : Result :=
  let s := s.fresh
  .next (if s.answersAt addr then s.emit (.pmbus 0x44) else s)

/-! ### TELEMETRY and SENSOR_READ, 0x08xx -/

/-- The hottest valid sensor: none where every sensor has failed. -/
def State.hottest (s : State) : Option Nat :=
  (List.range 29).foldl (fun m i =>
    if s.flag F.sensor_FAILED i then m
    else match m with
      | none => some i
      | some k => if s.temp k < s.temp i then some i else some k) none

/-- The sensors that have failed. -/
def State.failedSensors (s : State) : Nat := ((List.range 29).filter fun i => s.flag F.sensor_FAILED i).length

/-- TELEMETRY. With no valid sensor its number and temperature are free values. -/
def State.telemetry (s : State) : Answer :=
  let (free, s') := s.free
  let head := fun (n : Nat) => leBytes (s.measure 0) 2 ++ leBytes (s.measure 2) 2 ++ leBytes (s.measure 1) 2
    ++ leBytes (s.measure 3) 2 ++ leBytes (s.measure 4) 4 ++ leBytes s.shedStage 1 ++ leBytes s.throttleStep 1
    ++ leBytes n 1 ++ leBytes s.failedSensors 1
  match s.hottest with
  | some i => .ok s (head i ++ leBytes (s.get F.sensor_TEMP i) 2 ++ zeros 2)
  | none => .ok s' (head (free.toNat % 256) ++ leBytes (free.toNat / 256) 2 ++ zeros 2)

/-- TELEMETRY. -/
def telemetryCommand (r : Request) (_ : State) : Command :=
  { frame := exactly r 0, access := accessAny, modes := modesAll, refused := false, checks := [],
    act := State.telemetry }

/-- TELEMETRY. -/
def execTelemetry (m : Fin 16) (s : State) : Result := .next (s.fresh.serve m 0x0801 telemetryCommand)

/-- SENSOR_READ. -/
def sensorReadCommand (r : Request) (_ : State) : Command :=
  { frame := exactly r 0, access := accessAny, modes := modesAll, refused := false, checks := [],
    act := fun s => .ok s ((List.range 29).flatMap fun i =>
      leBytes (s.get F.sensor_TEMP i) 2 ++ leBytes (s.get F.sensor_FAILED i) 1 ++ zeros 1) }

/-- SENSOR_READ. -/
def execSensorRead (m : Fin 16) (s : State) : Result := .next (s.fresh.serve m 0x0802 sensorReadCommand)

end Sys2Proof.Machine
end

