-- ==== Sys2Proof/Machine/Monitor.lean ====
section
/-! DEFINITION. The monitor ADC (R381 to R386, R390 to R392): its sequences, limits and self-calibration, and the
commands MON_READ and MON_CALIBRATE. -/

namespace Sys2Proof.Machine

/-- A change of the monitor. -/
def State.setMonitor (s : State) (x : Monitor) : State := { s with monitor := x }

/-! ### Entries (R391) -/

/-- Regular entry `e` and injected entry `e`. -/
def State.regEntry (s : State) (e : Nat) : Nat := s.getAt F.monEntries_ENTRY (e / 16) (e % 16)
def State.injEntry (s : State) (e : Nat) : Nat := s.getAt F.monInjEntries_ENTRY 0 e

/-- POINT of an entry. -/
def entryPoint (x : Nat) : Nat := bits x 0 8

/-- A code breaks the limits of an entry (R385). -/
def entryBreach (x code : Nat) : Bool :=
  bit x 11 && (decide (code < bits x 14 14) || decide (bits x 28 14 < code))

/-- The entries of the two sequences. -/
def State.regEntries (s : State) : List Nat := (List.range (s.get F.monControl_REG_LAST + 1)).map s.regEntry
def State.injEntries (s : State) : List Nat := (List.range (s.get F.monControl_INJ_LAST + 1)).map s.injEntry

/-- The limits of a run are judged: MON_LIMIT is raised and counted for each entry that breaks its own (R385). -/
def State.judgeLimits (s : State) (l : List (Nat × Nat)) (cause : Option (Nat × Nat)) : State :=
  l.foldl (fun s x =>
    if entryBreach x.1 x.2 then (s.count F.monStatus_LIMIT_COUNT 0).raiseFrom 1061 0 0 cause else s) s

/-- Ticks of one conversion (R382). -/
def conversionTicks : Nat := 400

/-- A control write that waits for the end of a sequence takes effect once none runs (R390). -/
def State.settleControl (s : State) : State :=
  match s.monitor.controlNext with
  | some v =>
    if s.monitor.regular.isNone && s.monitor.injected.isNone then
      (s.setImage .monControl 0 v).setMonitor { s.monitor with controlNext := none }
    else s
  | none => s

/-! ### The regular sequence (R383) -/

/-- |LEVEL| of BIAS[PW_BIAS] is at or above PW_THRESH. -/
def State.pulseHigh (s : State) : Bool :=
  decide (s.get F.monControl_PW_THRESH * 2 ^ 16 ≤ (s.level (s.get F.monControl_PW_BIAS)).natAbs)

/-- The pulse-width condition is followed from tick to tick. -/
def State.watchPulse (s : State) : State :=
  if s.get F.monControl_REG_TRIG ≠ 3 then s
  else if s.pulseHigh then
    s.setMonitor { s.monitor with pulseSince := some (s.monitor.pulseSince.getD s.clock.now) }
  else s.setMonitor { s.monitor with pulseSince := none, pulseFired := false }

/-- A TIMER trigger is due. -/
def State.timerDue (s : State) : Bool :=
  s.monitor.lastTimer + s.get F.monControl_TIMER_PERIOD * Config.ticksPerUs ≤ s.clock.now

/-- A PULSE_WIDTH trigger is due: it fires once for each pulse. -/
def State.pulseDue (s : State) : Bool :=
  s.pulseHigh && !s.monitor.pulseFired && match s.monitor.pulseSince with
    | some t => decide (t + s.get F.monControl_PW_WIDTH ≤ s.clock.now)
    | none => false

/-- A regular trigger arrives: it starts the sequence after START_DELAY, or is counted as dropped (R383, R386). -/
def State.regTrigger (s : State) (cause : Option (Nat × Nat)) : State :=
  if s.monitor.regular.isSome || s.monitor.calibrating.isSome then s.count F.monStatus_REG_TRIG_DROP 0
  else
    let s := (s.putFlag F.monStatus_REG_BUSY 0 true).put F.monStatus_REG_POS 0 0
    s.setMonitor { s.monitor with regular := some (s.clock.now + s.get F.monControl_START_DELAY, cause) }

/-- MON_REG_TRIGGER (R383). -/
def execMonRegTrigger (s : State) : Result :=
  let s := s.fresh
  .next (if s.mode = .reset then s
    else match s.get F.monControl_REG_TRIG with
      | 1 => if s.timerDue then (s.setMonitor { s.monitor with lastTimer := s.clock.now }).regTrigger none else s
      | 2 => match s.hatband.monReg with
        | some c => (s.setHatband { s.hatband with monReg := none }).regTrigger (some c)
        | none => s
      | 3 => if s.pulseDue then (s.setMonitor { s.monitor with pulseFired := true }).regTrigger none else s
      | _ => s)

/-- The last regular result of each point (R385). -/
def State.keepResults (s : State) (l : List (Nat × Nat × Nat)) : State :=
  let results := l.foldl (fun (m : SMap (Nat × Nat)) x => m.list (entryPoint x.1) x.2) s.monitor.results
  s.setMonitor { s.monitor with results }

/-- A run of the regular sequence ends. -/
def State.regDone (s : State) (codes : List (Nat × Nat)) (cause : Option (Nat × Nat)) : State :=
  let es := s.regEntries
  let s := s.keepResults (es.zip codes)
  let s := s.judgeLimits (es.zip (codes.map fun x => x.1)) cause
  let s := (s.count F.monStatus_REG_RUNS 0).putFlag F.monStatus_REG_BUSY 0 false
  let s := (s.put F.monStatus_REG_POS 0 0).setMonitor { s.monitor with regular := none }
  (s.raiseFrom 1059 0 0 cause).settleControl

/-- MON_SEQ_DONE (R383): no sooner than its conversions take, and not while the injected sequence runs (R384). -/
def execMonSeqDone (codes : List (BitVec 14 × BitVec 64)) (s : State) : Result :=
  let s := s.fresh
  .next (match s.monitor.regular, s.monitor.injected with
    | some (t, cause), none =>
      if codes.length = s.regEntries.length && decide (t + conversionTicks * codes.length ≤ s.clock.now) then
        s.regDone (codes.map fun x => (x.1.toNat, x.2.toNat)) cause
      else s
    | _, _ => s)

/-! ### The injected sequence (R384) -/

/-- An urgent trigger is at hand, and the state in which it has been taken. -/
def State.takeUrgent (s : State) (c : InjCause) : Option (Option (Nat × Nat) × State) :=
  if c = .event then
    s.hatband.monInj.map fun e => (some e, s.setHatband { s.hatband with monInj := none })
  else if s.monitor.urgent.contains c then
    some (none, s.setMonitor { s.monitor with urgent := s.monitor.urgent.erase c })
  else none

/-- MON_INJ_TRIGGER (R384, R386). -/
def execMonInjTrigger (cause : InjCause) (s : State) : Result :=
  let s := s.fresh
  .next (match s.takeUrgent cause with
    | some (c, s) =>
      if s.monitor.injected.isSome || s.monitor.calibrating.isSome then s.count F.monStatus_INJ_TRIG_DROP 0
      else (s.putFlag F.monStatus_INJ_BUSY 0 true).setMonitor { s.monitor with injected := some c }
    | none => s)

/-- A run of the injected sequence ends. -/
def State.injDone (s : State) (codes : List Nat) (wall : Nat) (cause : Option (Nat × Nat)) : State :=
  let es := s.injEntries
  let s := (List.range codes.length).foldl (fun s e => s.putAt F.monInjResults_RESULT 0 e (codes.getD e 0)) s
  let s := s.put F.monInjResults_INJ_WALL_NS 0 wall
  let s := s.judgeLimits (es.zip codes) cause
  let s := (s.count F.monStatus_INJ_RUNS 0).putFlag F.monStatus_INJ_BUSY 0 false
  let s := s.setMonitor { s.monitor with injected := none }
  (s.raiseFrom 1060 0 0 cause).settleControl

/-- MON_INJ_DONE (R384). -/
def execMonInjDone (codes : List (BitVec 14)) (wall : BitVec 64) (s : State) : Result :=
  let s := s.fresh
  .next (match s.monitor.injected with
    | some cause =>
      if codes.length = s.injEntries.length then s.injDone (codes.map BitVec.toNat) wall.toNat cause else s
    | none => s)

/-! ### Self-calibration (R386, R392) -/

/-- The ticks of a self-calibration. -/
def calibrationTicks : Nat := 38 * Config.ticksPerMs

/-- Every factor lies within its limits: offsets within ±64 LSB, gains from 0.95 to 1.05. -/
def factorsGood (offsets gains : List (BitVec 16)) : Bool :=
  offsets.all (fun o => decide (o.toInt.natAbs ≤ 1024)) &&
    gains.all fun g => decide (31130 ≤ g.toNat) && decide (g.toNat ≤ 34406)

/-- MON_CAL takes the factors of its four paths (R392). -/
def State.writeFactors (s : State) (offsets gains : List (BitVec 16)) : State :=
  (List.range 4).foldl (fun s k =>
    let s := s.put F.monCal_OFFSET k (offsets.getD k 0).toNat
    let s := s.put F.monCal_GAIN k (gains.getD k 0).toNat
    (s.put F.monCal_CAL_WALL_NS k s.wall).count F.monCal_CAL_COUNT k) s

/-- A self-calibration ends. -/
def State.selfCalDone (s : State) (offsets gains : List (BitVec 16)) : State :=
  let good := factorsGood offsets gains
  let s := if good then s.writeFactors offsets gains else s
  let s := (s.putFlag F.monStatus_CAL_BUSY 0 false).setMonitor { s.monitor with calibrating := none }
  let s := if s.mode = .calibrate then s.setCrown { s.crown with calEnded := some s.clock.now } else s
  if good then s.finishAll (fun w => w = .monCalibrate) .ok (leBytes 160 2 ++ zeros 2)
  else s.finishAll (fun w => w = .monCalibrate) .faulted []

/-- MON_SELF_CAL_DONE (R386). -/
def execMonSelfCalDone (offsets gains : List (BitVec 16)) (s : State) : Result :=
  let s := s.fresh
  .next (match s.monitor.calibrating with
    | some t =>
      if offsets.length = 4 && gains.length = 4 && decide (t + calibrationTicks ≤ s.clock.now) then
        s.selfCalDone offsets gains
      else s
    | none => s)

/-- MON_CALIBRATE (R386): a calibration that runs already serves it as well. -/
def monCalibrateCommand (r : Request) (_ : State) : Command :=
  { frame := exactly r 0, access := accessAdm r, modes := modesCP, refused := false, checks := [],
    act := fun s =>
      let since := s.monitor.calibrating.getD s.clock.now
      .wait ((s.putFlag F.monStatus_CAL_BUSY 0 true).setMonitor { s.monitor with calibrating := some since })
        .monCalibrate }

/-- MON_CALIBRATE. -/
def execMonCalibrate (m : Fin 16) (s : State) : Result := .next (s.fresh.serve m 0x0804 monCalibrateCommand)

/-! ### MON_READ (R385) -/

/-- The last regular conversion of a point: code 0xFFFF and wall time 0 for one outside the sequence. -/
def State.pointResult (s : State) (p : Nat) : Nat × Nat :=
  if (s.regEntries.map entryPoint).contains p then s.monitor.results.read (0xFFFF, 0) p else (0xFFFF, 0)

/-- MON_READ. -/
def monReadCommand (r : Request) (_ : State) : Command :=
  let n := r.at 0 2
  { frame := exactly r (4 + n), access := accessAny, modes := modesAll, refused := false,
    checks := [badAt 0 (n = 0 || 64 < n), r.rsv 2 2]
      ++ ((List.range (min n 64)).map fun i => badAt (4 + i) (159 < r.at (4 + i) 1)),
    act := fun s => .ok s ((List.range n).flatMap fun i =>
      let (code, wall) := s.pointResult (r.at (4 + i) 1)
      leBytes code 2 ++ zeros 2 ++ leBytes wall 8) }

/-- MON_READ. -/
def execMonRead (m : Fin 16) (s : State) : Result := .next (s.fresh.serve m 0x0803 monReadCommand)

end Sys2Proof.Machine
end

