-- ==== Sys2Proof/Machine/Flags.lean ====
section
/-! DEFINITION. Status as it is read: fields of the status records that show something the device holds elsewhere, and
what a read clears (R339). -/

namespace Sys2Proof.Machine

/-- An image with a field replaced. -/
def putField (x : Nat) (f : Field) (v : Nat) : Nat := setBits x f.lo f.width v
def putBool (x : Nat) (f : Field) (b : Bool) : Nat := putField x f (if b then 1 else 0)

/-- The grid status record (R52): SI. -/
def State.gridImage (s : State) (x : Nat) : Nat := putField x F.gridStatus_SI s.si

/-- The SYNC control record (R52): the tap of the SYNC_CAPTURE trim. -/
def State.syncImage (s : State) (x : Nat) : Nat := putField x F.syncControl_SYNC_TAP (s.tap 48 0)

/-- The time status record (R318): the wall clock and the SI of the same tick. -/
def State.timeImage (s : State) (x : Nat) : Nat :=
  putField (putField (putField x F.timeStatus_WALL_NS s.wall) F.timeStatus_WALL_FRAC s.clock.wallFrac.toNat)
    F.timeStatus_WALL_SI s.si

/-- The bias status record (R107): LEVEL's integer part, a sine, the set in force. DESIGN CHOICE: the integer part of a
negative LEVEL is rounded down (log 95). -/
def State.biasImage (s : State) (n x : Nat) : Nat :=
  let c := (s.biasOf n).cmdAt s.half
  let x := putField x F.biasStatus_LEVEL (unsigned (s.level n / 2 ^ 16) 16)
  putField (putBool x F.biasStatus_SINE_ON c.sine.isSome) F.biasStatus_PD_SET c.pdSet

/-- The channelizer channel of an acquisition tone (R113): round(fₛ ÷ 200 MHz), a tie to the lower. -/
def tunerChannel (ftw : Nat) : Nat :=
  let m := (128 * (2 ^ 48 - ftw) - 2 ^ 48 + 2 ^ 49 - 1) / 2 ^ 49
  if m < 32 then m else 0

/-- The acquisition tone record (R131): CHANNEL. -/
def acqToneImage (x : Nat) : Nat := putField x F.acqTone_CHANNEL (tunerChannel (bits x 0 48))

/-- The XY status record (R86): the power integrator. DESIGN CHOICE: rounded down, and 65,535 for a full scale that the
field does not hold (log 93). -/
def State.xyImage (s : State) (n x : Nat) : Nat := putField x F.xyStatus_POWER_NOW (min (s.powerOf n).floor 65535)

/-- The trigger input status record (R226): the filtered level, free where nothing of this tick tells it. -/
def State.trigImage (s : State) (i x : Nat) : Nat :=
  if (s.trig i).seen = some s.clock.now then x
  else putBool x F.trigInStatus_LEVEL (Config.pinLevel i s.clock.now)

/-- The Fulling status record (R305). -/
def State.fullingImage (s : State) (x : Nat) : Nat :=
  let busy := (List.range 8).foldl (fun m e => m + (if (s.capture.running.find e).isSome then 1 else 0) <<< e) 0
  putField (putField x F.fullingStatus_ENGINE_BUSY busy) F.fullingStatus_JOBS_WAITING s.capture.jobs.length

/-- The mode record and the log status record (R416). -/
def State.modeImage (s : State) (x : Nat) : Nat := putField x F.modeRecord_MODE s.mode.code
def State.logImage (s : State) (x : Nat) : Nat :=
  putField (putField x F.logStatus_ENTRIES s.log.entries.length) F.logStatus_INTAKE s.log.intake.length

/-- The power status record (R387): what is measured is free. -/
def State.powerImage (s : State) (x : Nat) : Nat :=
  let x := putField (putField x F.powerStatus_VIN_A (s.measure 0)) F.powerStatus_VIN_B (s.measure 1)
  let x := putField (putField x F.powerStatus_IIN_A (s.measure 2)) F.powerStatus_IIN_B (s.measure 3)
  let x := putField x F.powerStatus_PIN (s.measure 4)
  putBool (putBool x F.powerStatus_FEED_A_OK s.power.feedA.drawn) F.powerStatus_FEED_B_OK s.power.feedB.drawn

/-- The monitor status record (R390): REG_POS while a run is under way. -/
def State.monImage (s : State) (x : Nat) : Nat :=
  match s.monitor.regular with
  | some (t, _) =>
    if t ≤ s.clock.now then
      putField x F.monStatus_REG_POS (Config.regPos s.clock.now % (s.get F.monControl_REG_LAST + 1))
    else x
  | none => x

/-- The image of a record as it is read: the image in force, with the fields that show what the device holds
elsewhere. -/
def State.live (s : State) (r : Rec) (i : Nat) : Nat :=
  let x := s.image r i
  match r with
  | .gridStatus => s.gridImage x
  | .syncControl => s.syncImage x
  | .timeStatus => s.timeImage x
  | .biasStatus => s.biasImage i x
  | .acqTone => acqToneImage x
  | .xyStatus => s.xyImage i x
  | .trigInStatus => s.trigImage i x
  | .fullingStatus => s.fullingImage x
  | .modeRecord => s.modeImage x
  | .logStatus => s.logImage x
  | .powerStatus => s.powerImage x
  | .monStatus => s.monImage x
  | .mcVersion => putField x F.mcVersion_ROM_ID Config.romId.toNat
  | .runStatus => putField x F.runStatus_MARK (s.tile i).mark
  | .ulpStatus => s.portStatus i
  | _ => x

/-- The image that a pending write of a record leaves (R438): the shadow's where there is one. -/
def State.rwImage (s : State) (r : Rec) (i : Nat) : Nat :=
  match r with
  | .monControl => s.monitor.controlNext.getD (s.image r i)
  | r => s.shadowImage r i

/-- All copies of a field, as a mask of the record. -/
def Field.mask (f : Field) : Nat :=
  (List.range f.n).foldl (fun y j => y + (2 ^ f.width - 1) <<< (f.lo + j * f.stride)) 0

/-- A field of an image moved into another, every copy of it. -/
def moveField (f : Field) (x y : Nat) : Nat :=
  (List.range f.n).foldl (fun x j => setBits x (f.lo + j * f.stride) f.width (bits y (f.lo + j * f.stride) f.width)) x

/-- The image that PARAM_GET returns (R339): RW fields from the shadow where a record keeps one, WO fields 0, every
other field as it stands. -/
def State.readImage (s : State) (r : Rec) (i : Nat) : Nat :=
  let live := s.live r i
  let rw := s.rwImage r i
  r.fields.foldl (fun x f =>
    match f.acc with
    | .wo => x
    | .rw => moveField f x rw
    | _ => moveField f x live) 0

/-- RC fields return to their reset value after a read (R339). -/
def State.resetRc (s : State) (r : Rec) (i : Nat) : State :=
  let x := r.fields.foldl (fun x f => if f.acc = .rc then moveField f x (r.resetImage i) else x) (s.image r i)
  s.setImage r i x

/-- What a read of a status record brings about besides (R226, R269, R282): the next drop or error is again the first
since a read. -/
def State.afterRead (s : State) (r : Rec) (i : Nat) : State :=
  let s := s.resetRc r i
  match r with
  | .trigInStatus => s.setTrig i { s.trig i with overrateSeen := false }
  | .ulpLane => s.setPort (i / 8) { s.port (i / 8) with prbsSeen := (s.port (i / 8)).prbsSeen.filter (· ≠ i % 8) }
  | .capStatus => s.setCapture { s.capture with dropSeen := false }
  | _ => s

end Sys2Proof.Machine
end

