-- ==== Sys2Proof/Machine/RecordRules.lean ====
section
/-! DEFINITION. What each record refuses, and what a write of it does: the records' own rules, which PARAM_SET
and every command that writes one record share (R339). -/

namespace Sys2Proof.Machine

/-- One write of a record: which mailbox and function issue it, the value and the mask (R338). -/
structure RecWrite where
  m : Nat
  fn : Nat
  r : Rec
  i : Nat
  value : Nat
  mask : Nat
deriving DecidableEq, Repr

/-! ### The mask -/

/-- A firmware-administrator command carries the write (R325). -/
def RecWrite.adm (w : RecWrite) : Bool := w.m = 0

/-- Any bit of copy `j` of a field is masked; all of them are. -/
def RecWrite.touches (w : RecWrite) (f : Field) (j : Nat := 0) : Bool :=
  bits w.mask (f.lo + j * f.stride) f.width ≠ 0
def RecWrite.covers (w : RecWrite) (f : Field) (j : Nat := 0) : Bool :=
  bits w.mask (f.lo + j * f.stride) f.width = 2 ^ f.width - 1

/-- Any copy of a field is masked. -/
def RecWrite.touchesAny (w : RecWrite) (f : Field) : Bool := (List.range f.n).any fun j => w.touches f j

/-- A field may be masked at all (R339). -/
def Access.writable (a : Access) : Bool := a = .rw || a = .wo || a = .w1c

/-- The bits that a mask may name. -/
def Rec.writeMask (r : Rec) : Nat :=
  (r.fields.filter fun f => f.acc.writable).foldl (fun x f => x ||| f.mask) 0

/-- The bits that take the written value. -/
def Rec.rwMask (r : Rec) : Nat := (r.fields.filter fun f => f.acc = .rw).foldl (fun x f => x ||| f.mask) 0

/-- A mask bit lies on a reserved, RO or RC bit, or covers part of a field (R339). -/
def RecWrite.maskBad (w : RecWrite) : Bool :=
  (w.mask ||| w.r.writeMask) ≠ w.r.writeMask
    || w.r.fields.any fun f => (List.range f.n).any fun j => w.touches f j && !w.covers f j

/-- A write of 1 to a WO or W1C field. -/
def RecWrite.acts (w : RecWrite) (f : Field) : Bool := w.covers f && bits w.value f.lo f.width = 1

/-- An image with the masked RW fields of the write (R438). -/
def RecWrite.onto (w : RecWrite) (x : Nat) : Nat :=
  let k := w.mask &&& w.r.rwMask
  (x ^^^ (x &&& k)) ||| (w.value &&& k)

/-- The image that the write would leave. -/
def State.wouldLeave (s : State) (w : RecWrite) : Nat := w.onto (s.rwImage w.r w.i)

/-- A field of an image, copy `j`. -/
def fieldOf (x : Nat) (f : Field) (j : Nat := 0) : Nat := bits x (f.lo + j * f.stride) f.width

/-! ### Access (R324, R213) -/

/-- The tile whose owner a record belongs to (R324, R362). -/
def Rec.tileOf (r : Rec) (i : Nat) : Option Nat :=
  match r with
  | .lateStatus | .matrixControl | .probeConfig | .probeStatus | .acqConfig | .acqStatus => some i
  | .weightControl | .tilePounce | .program | .runStatus | .counters => some i
  | .libArbiter | .libStatus | .outQueue => some i
  | .timingSet => some (i / 8)
  | .matrixRow | .driveTone | .probeTone | .acqTone => some (i / 16)
  | .histConfig | .histStatus | .model | .pounceStatus => some (i / 16)
  | .xyConfig | .xyStatus => some (i / 4)
  | .biasConfig | .biasStatus => some (i / 8)
  | .biasIir | .biasFir => some (i / 32)
  | .engineStatus | .engineInterrupt => if i < 16 then some i else none
  | .blockGroup => if i < 48 then some (i % 16) else none
  | _ => none

/-- The owner of a record: its tile's owner, the function of a ring or a BAR4 window, F0 for every other. -/
def State.recordOwner (s : State) (r : Rec) (i : Nat) : Nat :=
  match r with
  | .ring => i / 64
  | .bar4Window => i
  | r => match r.tileOf i with
    | some t => s.owner t
    | none => 0

/-- A function may read a record: its owner, or F0 where the record is a channel's, a ring's or a window's. -/
def State.mayRead (s : State) (fn : Nat) (r : Rec) (i : Nat) : Bool :=
  match r with
  | .channel | .channelStatus => fn = 0 || fn = s.get F.channel_OWNER i
  | .ring | .bar4Window => fn = 0 || fn = s.recordOwner r i
  | r => fn = s.recordOwner r i

/-- The records that only firmware-administrator commands write. -/
def Rec.admOnly (r : Rec) : Bool :=
  match r with
  | .ulpControl | .ulpStatus | .slotTable | .ulpStreams | .ulpLane => true
  | .timeControl | .timeStatus | .compareUnit | .powerStatus | .thermalControl => true
  | .ownership | .mailboxAssign | .ethPort | .hatbandControl => true
  | _ => false

/-- The last two rules of R213 on a channel record as a write would leave it. -/
def State.channelBreaks (s : State) (c x : Nat) : Bool :=
  (sourcesOf c (fieldOf x F.channel_SRC_EN)).any fun src =>
    (768 ≤ src && src < 1152 && fieldOf x F.channel_GUARDED = 0)
      || match sourceTile src with
        | some t => fieldOf x F.channel_OWNER ≠ s.owner t && fieldOf x F.channel_OWNER ≠ 8
            && fieldOf x F.channel_OWNER ≠ 9
        | none => false

/-- R213 on a write of a channel record. DEDUCED: an OWNER that R215 does not define is judged as a value. -/
def State.channelAccess (s : State) (w : RecWrite) : Option Status :=
  if !w.adm && (s.flag F.channel_GUARDED w.i || w.touches F.channel_OWNER || w.touches F.channel_GUARDED) then
    some .guarded
  else if !w.adm && w.fn ≠ s.get F.channel_OWNER w.i then some .notOwner
  else if fieldOf (s.wouldLeave w) F.channel_OWNER ≤ 9 && s.channelBreaks w.i (s.wouldLeave w) then some .notOwner
  else none

/-- A task input that a record binds: its channel, where it is enabled. -/
def boundAttn (x : Nat) : List Nat :=
  ((List.range 8).filter fun j => bit x (10 * j + 9)).map fun j => bits x (10 * j) 9

/-- A write binds a task input of a tile to a channel that R214 forbids, or a stream to one that R254 forbids. -/
def State.bindsBad (s : State) (w : RecWrite) : Bool :=
  let x := s.wouldLeave w
  match w.r with
  | .acqConfig => fieldOf x F.acqConfig_SNAP_EVC_EN = 1 && !s.bindable w.i (fieldOf x F.acqConfig_SNAP_EVC)
  | .program => fieldOf x F.program_JUMP_EVC_EN = 1 && !s.bindable w.i (fieldOf x F.program_JUMP_EVC)
  | .engineInterrupt => decide (w.i < 16) && (boundAttn x).any fun c => !s.bindable w.i c
  | .ulpStreams => (boundAttn x).any fun c => s.get F.channel_OWNER c < 8
  | _ => false

/-- A write names the source of a capture ring, or enables a ring. -/
def State.namesSource (s : State) (w : RecWrite) : Bool :=
  let x := s.wouldLeave w
  decide (16 ≤ w.i % 64) && decide (w.i % 64 < 32)
    && (w.touches F.ring_SOURCE || (w.touches F.ring_ENABLE && fieldOf x F.ring_ENABLE = 1))

/-- R342 and R343: who may enable a refill ring and name a source. -/
def State.ringAccess (s : State) (w : RecWrite) : Bool :=
  let x := s.wouldLeave w
  let src := fieldOf x F.ring_SOURCE
  let refill := decide (w.i % 64 < 16) && w.touches F.ring_ENABLE && fieldOf x F.ring_ENABLE = 1
  (refill && s.owner (w.i % 64) ≠ w.fn)
    || (s.namesSource w && ((decide (src < 16) && s.owner src ≠ w.fn) || (src = 16 && w.fn ≠ 0)))

/-- Step 6 of R354 for one write: GUARDED or NOT_OWNER. -/
def State.writeAccess (s : State) (w : RecWrite) : Option Status :=
  if w.r = .channel then s.channelAccess w
  else if w.r.admOnly then
    (if !w.adm then some .guarded else if s.bindsBad w then some .notOwner else none)
  else if w.r = .bar4Window then (if w.adm || w.fn = w.i then none else some .notOwner)
  else if w.fn ≠ s.recordOwner w.r w.i || s.bindsBad w then some .notOwner
  else if w.r = .ring && s.ringAccess w then some .notOwner
  else none

/-! ### Run state (step 7) -/

/-- OWNER of the tiles whose owner a write changes. -/
def State.movedTiles (s : State) (w : RecWrite) : List Nat :=
  (List.range 16).filter fun t => fieldOf (s.wouldLeave w) F.ownership_OWNER t ≠ s.owner t

/-- REFUSED_MODE of a port control write (R265, R267, R268, R270). -/
def State.portRefuses (s : State) (w : RecWrite) : Bool :=
  let x := s.wouldLeave w
  let sleeps := (w.touches F.ulpControl_TX_POWER && fieldOf x F.ulpControl_TX_POWER ≠ 0)
    || (w.touches F.ulpControl_RX_POWER && fieldOf x F.ulpControl_RX_POWER ≠ 0)
    || (w.touches F.ulpControl_TEST && fieldOf x F.ulpControl_TEST = 1)
  (sleeps && s.portUsed w.i) || (w.acts F.ulpControl_COMMIT && s.commitRefused w.i)
    || (fieldOf x F.ulpControl_LOOPBACK ≠ 0 && fieldOf x F.ulpControl_TEST = 0)

/-- REFUSED_MODE of a lane write (R275). -/
def State.laneRefuses (s : State) (w : RecWrite) : Bool :=
  let p := w.i / 8
  let eq := w.touches F.ulpLane_FFE_PRE || w.touches F.ulpLane_FFE_MAIN || w.touches F.ulpLane_FFE_POST
    || w.touches F.ulpLane_CTLE
  (eq && s.flag F.ulpControl_ENABLE p && !s.flag F.ulpControl_TEST p)
    || (w.touches F.ulpLane_PRBS && !s.flag F.ulpControl_TEST p)

/-- A write of CAP_BASE, CAP_SIZE or AUTO. -/
def RecWrite.movesBuffer (w : RecWrite) : Bool :=
  w.touches F.capControl_CAP_BASE || w.touches F.capControl_CAP_SIZE || w.touches F.capControl_AUTO

/-- Every REFUSED_MODE that a record's own rule gives. -/
def State.writeRefused (s : State) (w : RecWrite) : Bool :=
  match w.r with
  | .xyConfig | .biasConfig | .probeConfig | .acqConfig | .program =>
    s.inRun ((w.r.tileOf w.i).getD 16)
  | .engineInterrupt => if w.i < 16 then s.inRun w.i else s.anyRun
  | .ulpControl => s.portRefuses w
  | .ulpLane => s.laneRefuses w
  | .capControl => w.movesBuffer && s.anyRun
  | .timeStatus => w.touches F.timeStatus_RATE_ADJ && s.timeSource ≠ sourceNone
  | .ownership => (s.movedTiles w).any s.inRun
  | .ring => s.namesSource w && fieldOf (s.wouldLeave w) F.ring_SOURCE = 16 && s.flag F.capControl_AUTO
  | _ => false

/-! ### Values (step 8) -/

/-- `v` lies outside lo to hi. -/
def outside (lo hi v : Nat) : Bool := v < lo || hi < v
def outsideInt (lo hi : Int) (v : Int) : Bool := decide (v < lo) || decide (hi < v)

/-- A tone record with an enabled tone outside its band (R61, R110, R114). -/
def toneBad (probe mix : Bool) (x : Nat) : Bool := bit x 80 && !inBand probe mix (bits x 0 48)

/-- MODE of an XY channel changes while an enabled tone lies outside the new band (R85). -/
def State.bandBad (s : State) (n x : Nat) : Bool :=
  fieldOf x F.xyConfig_MODE ≠ s.get F.xyConfig_MODE n
    && (List.range 4).any fun k => toneBad false (fieldOf x F.xyConfig_MODE = 1) (s.image .driveTone (4 * n + k))

/-- A bias configuration that R106 refuses. -/
def State.biasConfigBad (s : State) (n x : Nat) : Bool :=
  (fieldOf x F.biasConfig_OUT_ENABLE ≠ s.get F.biasConfig_OUT_ENABLE n
      && (s.level n ≠ 0 || (s.biasOf n).cmd.sine.isSome))
    || fieldOf x F.biasConfig_COMP_ACTION = 3 || fieldOf x F.biasConfig_OL_ACTION = 3
    || fieldOf x F.biasConfig_PARK_SLEW = 0 || outside 100 1500 (fieldOf x F.biasConfig_COMP_WINDOW)

/-- A valid model that R146 refuses. -/
def modelBad (x : Nat) : Bool :=
  let mu := fun (h : Nat) => (bits x (64 * h) 32, bits x (64 * h + 32) 32)
  let prior := fun (f : Field) => outsideInt (-640) 640 (signed (fieldOf x f) 16)
  fieldOf x F.model_VALID = 1 &&
    (fieldOf x F.model_SIGMA_I = 0 || fieldOf x F.model_SIGMA_Q = 0
      || outsideInt (-32440) 32440 (signed (fieldOf x F.model_RHO) 16)
      || prior F.model_LOGPRIOR_0 || prior F.model_LOGPRIOR_1 || prior F.model_LOGPRIOR_2
      || mu 0 = mu 1 || (mu 2 ≠ (0, 0) && (mu 2 = mu 0 || mu 2 = mu 1)))

/-- A slot table that breaks R252. -/
def tableBad (x : Nat) : Bool :=
  fieldOf x F.slotTable_ENTRY ≠ 3 ||
    (List.range 255).any fun k =>
      let e := fieldOf x F.slotTable_ENTRY (k + 1)
      e = 3 || (e = 1 && (k = 254 || fieldOf x F.slotTable_ENTRY (k + 2) ≠ 2))
        || (e = 2 && fieldOf x F.slotTable_ENTRY k ≠ 1)

/-- A capture control record that R302 refuses. -/
def captureBad (x : Nat) : Bool :=
  let base := 4096 * fieldOf x F.capControl_CAP_BASE
  let size := 4096 * fieldOf x F.capControl_CAP_SIZE
  size ≠ 0 && (base < Config.jutanRegion || Config.storeBytes < base + size
    || size ≤ 65536 * fieldOf x F.capControl_RESERVE)

/-- A CAP_RP that R303 refuses. -/
def State.capRpBad (s : State) (v : Nat) : Bool :=
  s.flag F.capControl_AUTO || v < s.get F.capStatus_CAP_RP || s.get F.capStatus_CAP_WP < v
    || (v ≠ s.get F.capStatus_CAP_RP && !s.capture.written.any fun c => c.at_ + c.bytes = v)

/-- An output queue record that R304 refuses. DESIGN CHOICE: a queue beyond the store is refused. -/
def State.queueBad (s : State) (w : RecWrite) (x : Nat) : Bool :=
  let size := fieldOf x F.outQueue_SIZE
  ((w.touches F.outQueue_SIZE || fieldOf x F.outQueue_ENABLE = 1) && size < 256)
    || Config.storeBytes < 4096 * (fieldOf x F.outQueue_BASE + size)
    || (w.touches F.outQueue_RP && (fieldOf x F.outQueue_RP < s.get F.outQueue_RP w.i
        || s.get F.outQueue_WP w.i < fieldOf x F.outQueue_RP))

/-- A time control record out of range (R317). -/
def timeBad (x : Nat) : Bool :=
  fieldOf x F.timeControl_PTP_TRANSPORT = 3 || 127 < fieldOf x F.timeControl_PTP_DOMAIN
    || 4 < fieldOf x F.timeControl_LOG_ANNOUNCE || outsideInt (-1) 1 (signed (fieldOf x F.timeControl_LOG_SYNC) 3)
    || 5 < fieldOf x F.timeControl_LOG_DELAY_REQ || fieldOf x F.timeControl_ANNOUNCE_TIMEOUT < 2
    || outside 1 999 (fieldOf x F.timeControl_PPS_WIDTH)
    || outside 1 1000000 (fieldOf x F.timeControl_LOCK_WINDOW)

/-- An ownership record that R348 refuses: an owner that does not exist or is not enabled. -/
def State.ownershipBad (s : State) (w : RecWrite) : Bool :=
  (List.range 16).any fun t =>
    w.touches F.ownership_OWNER t && s.get F.linkStatus_NUM_VFS < fieldOf (s.wouldLeave w) F.ownership_OWNER t

/-- The function and slot of each assigned mailbox of an assignment image. -/
def assignedSlots (x : Nat) : List Nat :=
  ((List.range 16).map fun m => bits x (8 * m) 6).filter fun v => 32 ≤ v

/-- A mailbox assignment that R348 refuses. DEDUCED: so is one to a function that is not enabled, and one that gives
two mailboxes one slot. DESIGN CHOICE: bits [7:6] of MBX are refused by their value, not by the mask (log 88). -/
def State.assignBad (s : State) (w : RecWrite) : Bool :=
  let x := s.wouldLeave w
  fieldOf x F.mailboxAssign_MBX ≠ s.getAt F.mailboxAssign_MBX 0 0
    || ((List.range 16).any fun m => w.touches F.mailboxAssign_MBX m
      && (64 ≤ bits x (8 * m) 8 || (32 ≤ bits x (8 * m) 6 && s.get F.linkStatus_NUM_VFS < bits x (8 * m) 3)))
    || !decide (assignedSlots x).Nodup

/-- A ring record that R351 refuses. -/
def ringBad (i x : Nat) : Bool :=
  let c := i % 64
  fieldOf x F.ring_BASE % 4096 ≠ 0 || fieldOf x F.ring_LOG2_SIZE < 4
    || (if 16 ≤ c && c < 32 then decide (16 < fieldOf x F.ring_SOURCE) else fieldOf x F.ring_SOURCE ≠ 0)
    || fieldOf x F.ring_FLUSH_US = 0

/-- A thermal control record that R388 refuses. -/
def thermalBad (x : Nat) : Bool :=
  let warn := fieldOf x F.thermalControl_WARN_C
  let thr := fieldOf x F.thermalControl_THROTTLE_C
  let off := fieldOf x F.thermalControl_SHUTDOWN_C
  outside 85 100 warn || outside 95 110 thr || outside 110 120 off || thr ≤ warn || off ≤ thr
    || 20 < fieldOf x F.thermalControl_NB_MARGIN || outside 10 1000 (fieldOf x F.thermalControl_THROTTLE_DWELL)
    || outside 1 5 (fieldOf x F.thermalControl_THR_SURVEY_STEP)
    || outside 1 64 (fieldOf x F.thermalControl_THR_HOST_CAP) || fieldOf x F.thermalControl_THR_GAP_FACTOR = 0

/-- A monitor entry that R391 refuses: its point does not exist, or a reserved bit of the entry is not 0. -/
def entryBad (e : Nat) : Bool := 159 < bits e 0 8 || bits e 12 2 ≠ 0 || bits e 42 6 ≠ 0

/-- A lane record that R275 or R431 refuses. -/
def laneBad (x : Nat) : Bool :=
  63 < fieldOf x F.ulpLane_FFE_PRE + fieldOf x F.ulpLane_FFE_MAIN + fieldOf x F.ulpLane_FFE_POST
    || outside 10 40 (fieldOf x F.ulpLane_INJ_RATE)

/-- The requesters of a library arbiter have a rank (R245). -/
def libRankBad (x : Nat) : Bool := (List.range 5).any fun k => bits x (4 + 4 * k) 4 = 0

/-- What a record's own rules say of the values that a write would leave (R7 and the records' maps). -/
def State.valueBad (s : State) (w : RecWrite) : Bool :=
  let x := s.wouldLeave w
  match w.r with
  | .syncControl => fieldOf x F.syncControl_SYNC_OUT_MODE = 3
      || outsideInt (-2) 2 (signed (fieldOf x F.syncControl_EPOCH_ADJ) 3)
  | .blockGroup => fieldOf x F.blockGroup_STEP_INTERVAL = 0
  | .blockControl => outside 1 1000 (fieldOf x F.blockControl_CAL_INTERVAL)
  | .driveTone => toneBad false (s.flag F.xyConfig_MODE (w.i / 4)) x
  | .xyConfig => 20 < fieldOf x F.xyConfig_POWER_K || s.bandBad w.i x
  | .biasConfig => s.biasConfigBad w.i x
  | .probeTone => toneBad true false x
  | .acqTone => toneBad true false x || 16 < fieldOf x F.acqTone_INT_SHIFT
  | .acqConfig => outside 1 6 (fieldOf x F.acqConfig_IQ_DECIM) || outside 1 256 (fieldOf x F.acqConfig_SNAP_LEN)
  | .model => modelBad x
  | .patchControl => outside 1 1000 (fieldOf x F.patchControl_PATCH_WAIT)
  | .program => w.touches F.program_JUMP_EVC_ENTRY && (s.list w.i).length ≤ fieldOf x F.program_JUMP_EVC_ENTRY
  | .channel => 9 < fieldOf x F.channel_OWNER
  | .trigIn => outside 1 64 (fieldOf x F.trigIn_FILTER) || fieldOf x F.trigIn_MIN_INTERVAL = 0
      || fieldOf x F.trigIn_STUCK = 0
  | .trigOut => fieldOf x F.trigOut_WIDTH = 0
  | .storeRequester => outside 1 256 (fieldOf x F.storeRequester_BURST)
  | .storeControl => outside 1 168 (fieldOf x F.storeControl_SCRUB_PERIOD)
  | .libArbiter => libRankBad x
  | .ulpControl => fieldOf x F.ulpControl_TX_POWER = 3 || fieldOf x F.ulpControl_RX_POWER = 3
      || fieldOf x F.ulpControl_LOOPBACK = 3
  | .slotTable => tableBad x
  | .ulpLane => laneBad x
  | .capControl => captureBad x
  | .capStatus => w.touches F.capStatus_CAP_RP && s.capRpBad (fieldOf x F.capStatus_CAP_RP)
  | .outQueue => s.queueBad w x
  | .timeControl => timeBad x
  | .timeStatus => outsideInt (-2684354) 2684354 (signed (fieldOf x F.timeStatus_RATE_ADJ) 32)
  | .ownership => s.ownershipBad w
  | .mailboxAssign => s.assignBad w
  | .bar4Window => 16128 < fieldOf x F.bar4Window_WIN_BASE
  | .ring => ringBad w.i x
  | .thermalControl => thermalBad x
  | .monControl => fieldOf x F.monControl_TIMER_PERIOD = 0 || 32767 < fieldOf x F.monControl_PW_THRESH
      || fieldOf x F.monControl_PW_WIDTH = 0
  | .monEntries => (List.range 16).any fun e => entryBad (fieldOf x F.monEntries_ENTRY e)
  | .monInjEntries => (List.range 8).any fun e => entryBad (fieldOf x F.monInjEntries_ENTRY e)
  | _ => false

/-! ### State of the target (step 9) -/

/-- A source is drained by another enabled ring or by the 25GBASE-R port (R343). -/
def State.drained (s : State) (k src : Nat) : Bool :=
  ((List.range 128).any fun j =>
    let k' := ringKey (j / 16) (16 + j % 16)
    k' ≠ k && s.flag F.ring_ENABLE k' && s.get F.ring_SOURCE k' = src)
    || (s.flag F.ethPort_REMOTE_EN && s.get F.ethPort_REMOTE_Q = src)

/-- Tile `t` may not leave function `f` (R440). -/
def State.holdsTile (s : State) (f t : Nat) : Bool :=
  let owned := fun (c : Nat) => s.get F.channel_OWNER c = f
  s.flag F.ring_ENABLE (ringKey f t)
    || ((List.range 16).any fun c =>
        s.flag F.ring_ENABLE (ringKey f (16 + c)) && s.get F.ring_SOURCE (ringKey f (16 + c)) = t)
    || s.queueBusy t
    || ((List.range 512).any fun c => owned c && s.enablesTiles c [t])
    || (s.flag F.acqConfig_SNAP_EVC_EN t && owned (s.get F.acqConfig_SNAP_EVC t))
    || (s.flag F.program_JUMP_EVC_EN t && owned (s.get F.program_JUMP_EVC t))
    || (boundAttn (s.image .engineInterrupt t)).any owned

/-- Mailboxes whose assignment a write changes. -/
def State.movedMailboxes (s : State) (w : RecWrite) : List Nat :=
  (List.range 16).filter fun m =>
    fieldOf (s.wouldLeave w) F.mailboxAssign_MBX m ≠ s.getAt F.mailboxAssign_MBX 0 m

/-- BUSY of a ring write (R343, R351). -/
def State.ringBusy (s : State) (w : RecWrite) : Bool :=
  let x := s.wouldLeave w
  (s.flag F.ring_ENABLE w.i && (w.touches F.ring_BASE || w.touches F.ring_LOG2_SIZE || w.touches F.ring_SOURCE))
    || (decide (16 ≤ w.i % 64) && decide (w.i % 64 < 32) && fieldOf x F.ring_ENABLE = 1
        && s.drained w.i (fieldOf x F.ring_SOURCE))

/-- BUSY or REFUSED_ACTIVE that a record's own rule gives. -/
def State.targetRefuses (s : State) (w : RecWrite) : Option Status :=
  let busy := fun (b : Bool) => if b then some Status.busy else none
  match w.r with
  | .ulpControl => busy (w.acts F.ulpControl_COMMIT && s.flag F.ulpStatus_SWAP_PENDING w.i)
  | .slotTable =>
    if w.i % 2 = s.get F.ulpStatus_ACTIVE_BANK (w.i / 2) then some .refusedActive
    else busy (s.flag F.ulpStatus_SWAP_PENDING (w.i / 2))
  | .capControl => busy (w.movesBuffer && s.capture.jobs.any fun j => j.auto)
  | .outQueue =>
    busy ((w.touches F.outQueue_BASE || w.touches F.outQueue_SIZE || w.touches F.outQueue_ENABLE)
      && s.queueBusy w.i)
  | .ownership => busy ((s.movedTiles w).any fun t => s.holdsTile (s.owner t) t)
  | .mailboxAssign => busy ((s.movedMailboxes w).any fun m => (s.mailbox m).busy)
  | .ring => busy (s.ringBusy w)
  | _ => none

/-! ### What a write does (R339, step 10) -/

/-- A commit of the crosstalk matrix (R78). -/
def State.commitMatrix (s : State) (t : Nat) : State :=
  if s.flag F.matrixControl_PENDING t then s
  else if s.inRun t then
    ({ s with drive := { s.drive with matrixCommit := s.drive.matrixCommit.list t s.si } } : State).putFlag
      F.matrixControl_PENDING t true
  else s.bringMatrix t

/-- A requested clear of MUTED (R82). -/
def State.clearMute (s : State) (n : Nat) : State :=
  if !s.flag F.xyStatus_MUTED n then s
  else if s.inRun (n / 4) then
    { s with drive := { s.drive with
      muteClear := s.drive.muteClear.list n (s.drive.muteClear.read [] n ++ [s.si]) } }
  else s.endMute n

/-- A write of 1 to bias latches (R102): bit 0 COMP_LATCH, bit 1 OL_LATCH. -/
def State.askLatches (s : State) (n which : Nat) : State :=
  let set := (if s.flag F.biasStatus_COMP_LATCH n then 1 else 0) + (if s.flag F.biasStatus_OL_LATCH n then 2 else 0)
  let which := which &&& set
  if which = 0 then s
  else if s.inRun (n / 8) then
    s.setBias n { s.biasOf n with latchClear := (s.biasOf n).latchClear ++ [(which, s.si)] }
  else s.clearLatches n which

/-- CLEAR of a histogram (R133). -/
def State.askHistClear (s : State) (slot : Nat) : State :=
  if s.inRun (slot / 16) then
    { s with readout := { s.readout with
      histClear := s.readout.histClear.list slot (s.readout.histClear.read [] slot ++ [s.si]) } }
  else s.clearHist slot

/-- A write of a port control record (R265 to R271). -/
def State.writePort (s : State) (w : RecWrite) (x : Nat) : State :=
  let p := w.i
  let s := s.setImage .ulpControl p x
  let s := if w.touches F.ulpControl_TX_POWER then s.setPort p { s.port p with notices := 0 } else s
  let s := s.settlePort p
  let s := if w.touches F.ulpControl_RX_POWER then s.orderRx p else s
  if w.acts F.ulpControl_COMMIT then s.commitTable p else s

/-- A write of a lane record (R250, R268, R269, R275). -/
def State.writeLane (s : State) (w : RecWrite) (x : Nat) : State :=
  let restart := bits x 22 3 ≠ bits (s.image .ulpLane w.i) 22 3
  let s := s.setImage .ulpLane w.i x
  let s := if restart then s.putFlag F.ulpLane_PRBS_SYNC w.i false else s
  if w.acts F.ulpLane_INJ_GO then s.inject (w.i / 8) (w.i % 8) else s

/-- A write of the capture control record (R302). -/
def State.writeCapture (s : State) (w : RecWrite) (x : Nat) : State :=
  let s := s.setImage .capControl 0 x
  if w.touches F.capControl_CAP_BASE || w.touches F.capControl_CAP_SIZE then
    let s := s.setCapture { s.capture with staging := [], written := [], seqs := [] }
    (s.put F.capStatus_CAP_WP 0 0).put F.capStatus_CAP_RP 0 0
  else s

/-- A write of CAP_RP (R303). -/
def State.writeCapRp (s : State) (v : Nat) : State :=
  (s.setCapture { s.capture with written := s.capture.written.filter fun c => decide (v ≤ c.at_) }).put
    F.capStatus_CAP_RP 0 v

/-- A write of an output queue record (R304). -/
def State.writeOq (s : State) (q x : Nat) : State :=
  let starts := !s.flag F.outQueue_ENABLE q && fieldOf x F.outQueue_ENABLE = 1
  let s := s.setImage .outQueue q x
  if starts then (s.put F.outQueue_WP q 0).put F.outQueue_RP q 0 else s

/-- A write of the time control record (R311). -/
def State.writeTime (s : State) (x : Nat) : State :=
  let moved := fieldOf x F.timeControl_SOURCE ≠ s.timeSource
  let s := s.setImage .timeControl 0 x
  if moved then s.holdover else s

/-- A write of the ownership record (R326, R440). -/
def State.writeOwners (s : State) (w : RecWrite) (x : Nat) : State :=
  let moved := s.movedTiles w
  moved.foldl State.evictAll (s.setImage .ownership 0 x)

/-- A write of a ring record (R343, R351). -/
def State.writeRing (s : State) (w : RecWrite) (x : Nat) : State :=
  let k := w.i
  let was := s.flag F.ring_ENABLE k
  let on := fieldOf x F.ring_ENABLE = 1
  let s := s.setImage .ring k x
  let s := if w.acts F.ring_STALLED then s.putFlag F.ring_STALLED k false else s
  if on && !was then (s.setPi k 0).setCi k 0
  else if was && !on then s.disableRing k
  else s

/-- A write of 1 to FAILED of a sensor (R375). -/
def State.askReadmit (s : State) (i : Nat) : State :=
  if s.flag F.sensor_FAILED i && !s.monitor.readmit.contains i then
    s.setMonitor { s.monitor with readmit := s.monitor.readmit ++ [i] }
  else s

/-- A write of the monitor control record (R390). -/
def State.writeMonitor (s : State) (x : Nat) : State :=
  if s.monitor.regular.isSome || s.monitor.injected.isSome then
    s.setMonitor { s.monitor with controlNext := some x }
  else s.setImage .monControl 0 x

/-- A write of a bias configuration (R98, R106): a park ramp goes on at the new PARK_SLEW from where it stands. -/
def State.writeBiasConfig (s : State) (n x : Nat) : State :=
  let b := s.biasOf n
  let park := b.park.map fun p => { p with l0 := b.levelAt s.half, start := s.half, slew := fieldOf x F.biasConfig_PARK_SLEW }
  (s.setBias n { b with park }).setImage .biasConfig n x

/-- A write of the SYNC control record (R51, R53): mode OFF ends what SYNC_OUT sends. -/
def State.writeSync (s : State) (x : Nat) : State :=
  if fieldOf x F.syncControl_SYNC_OUT_MODE = 0 then (s.setImage .syncControl 0 x).syncOff else s.setImage .syncControl 0 x

/-- A write of a trigger output record (R226): the ball takes the level that POLARITY gives it. -/
def State.writeTrigOut (s : State) (i x : Nat) : State :=
  let was := s.flag F.trigOut_POLARITY i
  let s := s.setImage .trigOut i x
  if s.flag F.trigOut_POLARITY i = was || 8 ≤ i then s
  else s.emit (.trigOut i (s.trigLevel i (s.trig i).pulseUntil.isSome))

/-- The effect of a write that nothing refuses. -/
def State.writeRecord (s : State) (w : RecWrite) : State :=
  let x := s.wouldLeave w
  let i := w.i
  match w.r with
  | .matrixRow => { s with shadows := s.shadows.list (w.r.key i) [(x, s.si)] }
  | .matrixControl => if w.acts F.matrixControl_COMMIT then s.commitMatrix i else s
  | .timingSet | .driveTone | .probeTone | .acqTone | .biasIir | .biasFir | .model => s.writeShadowed w.r i x
  | .histConfig =>
    let s := s.writeShadowed w.r i x
    if w.acts F.histConfig_CLEAR then s.askHistClear i else s
  | .xyStatus => if w.acts F.xyStatus_MUTED then s.clearMute i else s
  | .biasStatus => s.askLatches i
      ((if w.acts F.biasStatus_COMP_LATCH then 1 else 0) + (if w.acts F.biasStatus_OL_LATCH then 2 else 0))
  | .weightControl =>
    if w.covers F.weightControl_COMMIT_MASK then s.commitWeights i (fieldOf w.value F.weightControl_COMMIT_MASK) else s
  | .channel =>
    let s := s.setImage .channel i x
    if w.acts F.channel_CUT then s.putFlag F.channel_CUT i false else s
  | .group => (s.setImage .group i x).put F.group_STATE i (fieldOf x F.group_INIT)
  | .eventCounter =>
    let s := s.setImage .eventCounter i x
    if w.acts F.eventCounter_CLEAR then s.put F.eventCounter_COUNT i 0 else s
  | .storeControl =>
    let s := s.setImage .storeControl 0 x
    if w.acts F.storeControl_COMMIT then s.commitStore else s
  | .libArbiter =>
    let s := s.setImage .libArbiter i x
    if w.acts F.libArbiter_COMMIT then s.commitLib i else s
  | .ulpControl => s.writePort w x
  | .ulpLane => s.writeLane w x
  | .capControl => s.writeCapture w x
  | .capStatus => if w.touches F.capStatus_CAP_RP then s.writeCapRp (fieldOf x F.capStatus_CAP_RP) else s
  | .outQueue => s.writeOq i x
  | .timeControl => s.writeTime x
  | .ownership => s.writeOwners w x
  | .ring => s.writeRing w x
  | .sensor => if w.acts F.sensor_FAILED then s.askReadmit i else s
  | .monControl => s.writeMonitor x
  | .trigOut => s.writeTrigOut i x
  | .biasConfig => s.writeBiasConfig i x
  | .syncControl => s.writeSync x
  | r => s.setImage r i x

end Sys2Proof.Machine
end

