-- ==== Sys2Proof/Machine/Params.lean ====
section
/-! DEFINITION. PARAM_GET and PARAM_SET (R338 to R340, R364, R438), and the rows of the operation table that are
a write of one record. -/

namespace Sys2Proof.Machine

/-- One record entry of a payload (R338): the offset of its header in the payload, and its parts. -/
structure ParamEntry where
  off : Nat
  id : Nat
  words : Nat
  rsv : Nat
  value : Nat
  mask : Nat
deriving DecidableEq, Repr

/-- The bytes of an entry. -/
def entryBytes (set : Bool) (words : Nat) : Nat := 8 + (if set then 8 else 4) * words

/-- The entry at an offset. -/
def entryAt (p : List Byte) (set : Bool) (off : Nat) : ParamEntry :=
  let words := le p (off + 2) 1
  { off, id := le p off 2, words, rsv := le p (off + 3) 5, value := le p (off + 8) (4 * words)
    mask := if set then le p (off + 8 + 4 * words) (4 * words) else 0 }

/-- The entries from an offset on, none where the payload does not end at the end of an entry. -/
def entriesFrom (p : List Byte) (set : Bool) : Nat → Nat → Option (List ParamEntry)
  | 0, _ => none
  | fuel + 1, off =>
    if off = p.length then some []
    else if p.length < off + entryBytes set (entryAt p set off).words then none
    else (entriesFrom p set fuel (off + entryBytes set (entryAt p set off).words)).map (entryAt p set off :: ·)

/-- The entries of a request: one or more. -/
def entriesOf (p : List Byte) (set : Bool) : Option (List ParamEntry) :=
  match entriesFrom p set 1024 0 with
  | some [] => none
  | x => x

/-- The record that an entry names, where its length is right (R339, R340). DEDUCED: of the two records that have the
identifier 0x3540, an entry of 2 words names match register 0 (R175, log 8). -/
def ParamEntry.record (e : ParamEntry) : Option (Rec × Nat) :=
  if e.id = 0x3540 && e.words = Rec.matchReg.words then some (.matchReg, 0)
  else match recordOf e.id with
  | some (r, i) => if e.words = r.words then some (r, i) else none
  | none => none

/-- DETAIL of a framing error: 4 for a payload that is not whole entries, otherwise the header of the first entry that
names no record or has another length. -/
def framing (es : Option (List ParamEntry)) : Option Nat :=
  match es with
  | none => some 4
  | some es => (es.find? fun e => e.record.isNone).map fun e => 32 + e.off

/-- The write that an entry stands for. -/
def ParamEntry.write (e : ParamEntry) (r : Request) : Option RecWrite :=
  e.record.map fun x => { m := r.m, fn := r.fn, r := x.1, i := x.2, value := e.value, mask := e.mask }

/-- Each entry's write, with the state that the writes before it leave (R339). -/
def writesFrom (r : Request) : List ParamEntry → State → List (ParamEntry × RecWrite × State)
  | [], _ => []
  | e :: es, s => match e.write r with
    | some w => (e, w, s) :: writesFrom r es (s.writeRecord w)
    | none => writesFrom r es s

/-- The first entry that fails its access check (R364). -/
def firstDenied {α : Type} (off : α → Nat) (deny : α → Option Status) : List α → Option (Status × Nat)
  | [] => none
  | x :: xs => match deny x with
    | some st => some (st, 32 + off x)
    | none => firstDenied off deny xs

/-- PARAM_SET of these entries: framing, access, run state, values and targets are checked whole, and then every entry
is written in order. -/
def setCommand (r : Request) (es : Option (List ParamEntry)) (s : State) : Command :=
  let ws := writesFrom r (es.getD []) s
  { frame := framing es
    access := firstDenied (fun (x : ParamEntry × RecWrite × State) => x.1.off) (fun x => x.2.2.writeAccess x.2.1) ws
    modes := modesAll
    refused := ws.any fun x => x.2.2.writeRefused x.2.1
    checks := (ws.flatMap fun x =>
        [(decide (x.1.rsv ≠ 0), Status.badValue, 32 + x.1.off + 3),
         (x.2.1.maskBad || x.2.2.valueBad x.2.1, Status.badValue, 32 + x.1.off + 8)])
      ++ ws.map fun x => ((x.2.2.targetRefuses x.2.1).isSome, (x.2.2.targetRefuses x.2.1).getD .busy, 0)
    act := fun s => .ok (ws.foldl (fun s x => s.writeRecord x.2.1) s) [] }

/-- PARAM_SET. -/
def paramSetCommand (r : Request) (s : State) : Command := setCommand r (entriesOf r.payload true) s

/-- PARAM_SET. -/
def execParamSet (m : Fin 16) (s : State) : Result := .next (s.fresh.serve m 0x0C02 paramSetCommand)

/-- One entry of a PARAM_GET response, and the state after the read. -/
def State.readEntry (s : State) (e : ParamEntry) : List Byte × State :=
  match e.record with
  | some (r, i) =>
    (leBytes (e.id + e.words <<< 16) 8 ++ leBytes (s.readImage r i) (4 * e.words), s.afterRead r i)
  | none => ([], s)

/-- The entries read in order. -/
def State.readEntries (s : State) : List ParamEntry → List Byte × State
  | [] => ([], s)
  | e :: es =>
    let (b, s) := s.readEntry e
    let (bs, s) := s.readEntries es
    (b ++ bs, s)

/-- PARAM_GET. -/
def paramGetCommand (r : Request) (s : State) : Command :=
  let es := entriesOf r.payload false
  let deny := fun (e : ParamEntry) => match e.record with
    | some (x, i) => if s.mayRead r.fn x i then none else some Status.notOwner
    | none => none
  { frame := framing es
    access := firstDenied ParamEntry.off deny (es.getD [])
    modes := modesAll, refused := false
    checks := (es.getD []).map fun e => (decide (e.rsv ≠ 0), .badValue, 32 + e.off + 3)
    act := fun s => .ok (s.readEntries (es.getD [])).2 (s.readEntries (es.getD [])).1 }

/-- PARAM_GET. -/
def execParamGet (m : Fin 16) (s : State) : Result := .next (s.fresh.serve m 0x0C01 paramGetCommand)

/-! ### Single record writes -/

/-- The request that a single record write stands for. -/
def bareRequest (s : State) (m : Nat) : Request :=
  { m, command := 0x0C02, tag := 0, len := 0, fn := s.mailboxFn m, sealWord := 0, header := 0, payload := [] }

/-- The entry of record `i` of a family that writes `mask` bits of `value`. -/
def bareEntry (id value mask : Nat) : ParamEntry :=
  let words := match recordOf id with
    | some (r, _) => r.words
    | none => 0
  { off := 0, id, words, rsv := 0, value := value % 2 ^ (32 * words), mask := mask % 2 ^ (32 * words) }

/-- A record write that stands alone: a PARAM_SET of one entry, issued on mailbox `m` by the mailbox's function. -/
def State.writeAlone (s : State) (m id value mask : Nat) : State :=
  if s.serves && s.mailboxAssigned m then
    let r := bareRequest s m
    let c := setCommand r (some [bareEntry id value mask]) s
    match ({ c with refused := c.refused || s.refuses r } : Command).verdict s.mode with
    | some (st, d) => s.emit (.writeStatus st d)
    | none => match c.act s with
      | .ok s _ | .wait s _ | .quiet s => s.emit (.writeStatus .ok 0)
      | .fail s st d => s.emit (.writeStatus st d)
  else s

/-- A record write of one field: its value, with every bit of the field masked. -/
def State.writeField (s : State) (m : Nat) (f : Field) (i v : Nat) : State :=
  s.writeAlone m (f.record.id i) ((v % 2 ^ f.width) <<< f.lo) f.mask

/-- RECORD_WRITE: a write of the record with an identifier. -/
def execRecordWrite (m : Fin 16) (id value mask : Nat) (s : State) : Result :=
  .next (s.fresh.writeAlone m id value mask)

/-- MATRIX_COMMIT (R78). -/
def execMatrixCommit (m : Fin 16) (t : Fin 16) (s : State) : Result :=
  .next (s.fresh.writeField m F.matrixControl_COMMIT t 1)

/-- MUTED_CLEAR (R82). -/
def execMutedClear (m : Fin 16) (n : Fin 64) (s : State) : Result :=
  .next (s.fresh.writeField m F.xyStatus_MUTED n 1)

/-- BIAS_LATCH_CLEAR (R102). -/
def execBiasLatchClear (m : Fin 16) (n : Fin 128) (comp ol : Bool) (s : State) : Result :=
  let x := (if comp then F.biasStatus_COMP_LATCH.mask else 0) + (if ol then F.biasStatus_OL_LATCH.mask else 0)
  .next (s.fresh.writeAlone m (Rec.biasStatus.id n) x x)

/-- WEIGHT_COMMIT (R123). -/
def execWeightCommit (m : Fin 16) (t : Fin 16) (sets : BitVec 32) (s : State) : Result :=
  .next (s.fresh.writeField m F.weightControl_COMMIT_MASK t sets.toNat)

/-- HIST_CLEAR (R133). -/
def execHistClear (m : Fin 16) (slot : Fin 256) (s : State) : Result :=
  .next (s.fresh.writeField m F.histConfig_CLEAR slot 1)

/-- CHANNEL_CUT_CLEAR (R215). -/
def execChannelCutClear (m : Fin 16) (c : Fin 512) (s : State) : Result :=
  .next (s.fresh.writeField m F.channel_CUT c 1)

/-- GROUP_RECORD_WRITE (R220, R221). -/
def execGroupRecordWrite (m : Fin 16) (g : Fin 32) (value mask : BitVec 64) (s : State) : Result :=
  .next (s.fresh.writeAlone m (Rec.group.id g) value.toNat mask.toNat)

/-- HCNT_CLEAR (R222). -/
def execHcntClear (m : Fin 16) (k : Fin 64) (s : State) : Result :=
  .next (s.fresh.writeField m F.eventCounter_CLEAR k 1)

/-- STORE_ARBITER_COMMIT (R238, R244). -/
def execStoreArbiterCommit (m : Fin 16) (s : State) : Result :=
  .next (s.fresh.writeField m F.storeControl_COMMIT 0 1)

/-- LIB_ARBITER_COMMIT (R245). -/
def execLibArbiterCommit (m : Fin 16) (t : Fin 16) (s : State) : Result :=
  .next (s.fresh.writeField m F.libArbiter_COMMIT t 1)

/-- PORT_COMMIT (R265). -/
def execPortCommit (m : Fin 16) (p : Fin 4) (s : State) : Result :=
  .next (s.fresh.writeField m F.ulpControl_COMMIT p 1)

/-- ULP_POWER_WRITE (R267). -/
def execUlpPowerWrite (m : Fin 16) (p : Fin 4) (tx rx : Option (Fin 4)) (s : State) : Result :=
  let part := fun (f : Field) (v : Option (Fin 4)) => match v with
    | some v => (v.val <<< f.lo, f.mask)
    | none => (0, 0)
  let a := part F.ulpControl_TX_POWER tx
  let b := part F.ulpControl_RX_POWER rx
  .next (s.fresh.writeAlone m (Rec.ulpControl.id p) (a.1 + b.1) (a.2 + b.2))

/-- ULP_TEST_WRITE (R268). -/
def execUlpTestWrite (m : Fin 16) (p : Fin 4) (on : Bool) (s : State) : Result :=
  .next (s.fresh.writeField m F.ulpControl_TEST p (if on then 1 else 0))

/-- ULP_LOOPBACK_WRITE (R270). -/
def execUlpLoopbackWrite (m : Fin 16) (p : Fin 4) (v : Fin 4) (s : State) : Result :=
  .next (s.fresh.writeField m F.ulpControl_LOOPBACK p v)

/-- INJ_GO (R269, R275). -/
def execInjGo (m : Fin 16) (p : Fin 4) (l : Fin 8) (s : State) : Result :=
  .next (s.fresh.writeField m F.ulpLane_INJ_GO (8 * p + l) 1)

/-- SENSOR_FAILED_CLEAR (R375). -/
def execSensorFailedClear (m : Fin 16) (i : Fin 29) (s : State) : Result :=
  .next (s.fresh.writeField m F.sensor_FAILED i 1)

/-- RING_STALLED_CLEAR (R343). -/
def execRingStalledClear (m : Fin 16) (f : Fin 8) (c : Fin 16) (s : State) : Result :=
  .next (s.fresh.writeField m F.ring_STALLED (ringKey f (16 + c)) 1)

/-- RING_ENABLE (R351). -/
def execRingEnable (m : Fin 16) (f : Fin 8) (i : Fin 33) (on : Bool) (s : State) : Result :=
  .next (s.fresh.writeField m F.ring_ENABLE (ringKey f i) (if on then 1 else 0))

/-- CAP_RP_WRITE (R303). -/
def execCapRpWrite (m : Fin 16) (v : BitVec 64) (s : State) : Result :=
  .next (s.fresh.writeField m F.capStatus_CAP_RP 0 v.toNat)

/-- CAPTURE_BUFFER_SET (R302). -/
def execCaptureBufferSet (m : Fin 16) (base size : Option (BitVec 22)) (s : State) : Result :=
  let part := fun (f : Field) (v : Option (BitVec 22)) => match v with
    | some v => (v.toNat <<< f.lo, f.mask)
    | none => (0, 0)
  let a := part F.capControl_CAP_BASE base
  let b := part F.capControl_CAP_SIZE size
  .next (s.fresh.writeAlone m (Rec.capControl.id 0) (a.1 + b.1) (a.2 + b.2))

/-- OQ_ENABLE_WRITE (R304). -/
def execOqEnableWrite (m : Fin 16) (q : Fin 16) (on : Bool) (s : State) : Result :=
  .next (s.fresh.writeField m F.outQueue_ENABLE q (if on then 1 else 0))

/-- OQ_RP_WRITE (R304). -/
def execOqRpWrite (m : Fin 16) (q : Fin 16) (v : BitVec 64) (s : State) : Result :=
  .next (s.fresh.writeField m F.outQueue_RP q v.toNat)

/-- TIME_SOURCE_WRITE (R311). -/
def execTimeSourceWrite (m : Fin 16) (src : Fin 4) (s : State) : Result :=
  .next (s.fresh.writeField m F.timeControl_SOURCE 0 src)

/-- RATE_ADJ_WRITE (R312). -/
def execRateAdjWrite (m : Fin 16) (v : BitVec 32) (s : State) : Result :=
  .next (s.fresh.writeField m F.timeStatus_RATE_ADJ 0 v.toNat)

/-- OWNERSHIP_WRITE (R326, R348, R440). -/
def execOwnershipWrite (m : Fin 16) (value mask : BitVec 64) (s : State) : Result :=
  .next (s.fresh.writeAlone m (Rec.ownership.id 0) value.toNat mask.toNat)

/-- MAILBOX_ASSIGN_WRITE (R331, R348). -/
def execMailboxAssignWrite (m : Fin 16) (value mask : BitVec 128) (s : State) : Result :=
  .next (s.fresh.writeAlone m (Rec.mailboxAssign.id 0) value.toNat mask.toNat)

end Sys2Proof.Machine
end

