-- ==== Sys2Proof/Machine/Dispatch.lean ====
section
/-! DEFINITION. The dispatch: one arm per command, each one direct call of its meaning. -/

namespace Sys2Proof.Machine

def exec (i : Instr) (s : State) : Host.Outcome State Fault Refusal :=
  match i with
  | .sysInfo m => Sys2Proof.Machine.execSysInfo m s
  | .modeGet m => Sys2Proof.Machine.execModeGet m s
  | .modeSet m => Sys2Proof.Machine.execModeSet m s
  | .modeSetTimeout m => Sys2Proof.Machine.execModeSetTimeout m s
  | .systemReset m => Sys2Proof.Machine.execSystemReset m s
  | .selftestReport m => Sys2Proof.Machine.execSelftestReport m s
  | .syncArm m => Sys2Proof.Machine.execSyncArm m s
  | .syncPulse m => Sys2Proof.Machine.execSyncPulse m s
  | .imageWrite m => Sys2Proof.Machine.execImageWrite m s
  | .imageWriteTimeout m => Sys2Proof.Machine.execImageWriteTimeout m s
  | .imageSelect m => Sys2Proof.Machine.execImageSelect m s
  | .slotBind m => Sys2Proof.Machine.execSlotBind m s
  | .slotGet m => Sys2Proof.Machine.execSlotGet m s
  | .libWrite m => Sys2Proof.Machine.execLibWrite m s
  | .libRead m => Sys2Proof.Machine.execLibRead m s
  | .ctxLoad m => Sys2Proof.Machine.execCtxLoad m s
  | .ctxRead m => Sys2Proof.Machine.execCtxRead m s
  | .weightLoad m => Sys2Proof.Machine.execWeightLoad m s
  | .programLoad m => Sys2Proof.Machine.execProgramLoad m s
  | .runStart m => Sys2Proof.Machine.execRunStart m s
  | .runStop m => Sys2Proof.Machine.execRunStop m s
  | .runStopTimeout m => Sys2Proof.Machine.execRunStopTimeout m s
  | .runResume m => Sys2Proof.Machine.execRunResume m s
  | .runJump m => Sys2Proof.Machine.execRunJump m s
  | .runStatus m => Sys2Proof.Machine.execRunStatus m s
  | .evcStatusRead m => Sys2Proof.Machine.execEvcStatusRead m s
  | .cutRestore m => Sys2Proof.Machine.execCutRestore m s
  | .fullingSubmit m => Sys2Proof.Machine.execFullingSubmit m s
  | .streamSave m => Sys2Proof.Machine.execStreamSave m s
  | .streamRestore m => Sys2Proof.Machine.execStreamRestore m s
  | .streamReset m => Sys2Proof.Machine.execStreamReset m s
  | .streamState m => Sys2Proof.Machine.execStreamState m s
  | .histRead m => Sys2Proof.Machine.execHistRead m s
  | .histDump m => Sys2Proof.Machine.execHistDump m s
  | .modelFit m => Sys2Proof.Machine.execModelFit m s
  | .remoteDest m => Sys2Proof.Machine.execRemoteDest m s
  | .timeSet m => Sys2Proof.Machine.execTimeSet m s
  | .timeOfDay m => Sys2Proof.Machine.execTimeOfDay m s
  | .timeRearm m => Sys2Proof.Machine.execTimeRearm m s
  | .portAddress m => Sys2Proof.Machine.execPortAddress m s
  | .ptpStatus m => Sys2Proof.Machine.execPtpStatus m s
  | .ulpStatus m => Sys2Proof.Machine.execUlpStatus m s
  | .tableCommit m => Sys2Proof.Machine.execTableCommit m s
  | .linkRetrain m => Sys2Proof.Machine.execLinkRetrain m s
  | .telemetry m => Sys2Proof.Machine.execTelemetry m s
  | .sensorRead m => Sys2Proof.Machine.execSensorRead m s
  | .monRead m => Sys2Proof.Machine.execMonRead m s
  | .monCalibrate m => Sys2Proof.Machine.execMonCalibrate m s
  | .blockTaps m => Sys2Proof.Machine.execBlockTaps m s
  | .blockTarget m => Sys2Proof.Machine.execBlockTarget m s
  | .patchLoad m => Sys2Proof.Machine.execPatchLoad m s
  | .patchApply m => Sys2Proof.Machine.execPatchApply m s
  | .engineRestart m => Sys2Proof.Machine.execEngineRestart m s
  | .logDrain m => Sys2Proof.Machine.execLogDrain m s
  | .logCounters m => Sys2Proof.Machine.execLogCounters m s
  | .logFirst m => Sys2Proof.Machine.execLogFirst m s
  | .logAckOverflow m => Sys2Proof.Machine.execLogAckOverflow m s
  | .echo m => Sys2Proof.Machine.execEcho m s
  | .paramGet m => Sys2Proof.Machine.execParamGet m s
  | .paramSet m => Sys2Proof.Machine.execParamSet m s
  | .recordWrite m id value mask => Sys2Proof.Machine.execRecordWrite m id value mask s
  | .matrixCommit m t => Sys2Proof.Machine.execMatrixCommit m t s
  | .mutedClear m n => Sys2Proof.Machine.execMutedClear m n s
  | .biasLatchClear m n comp ol => Sys2Proof.Machine.execBiasLatchClear m n comp ol s
  | .weightCommit m t sets => Sys2Proof.Machine.execWeightCommit m t sets s
  | .histClear m slot => Sys2Proof.Machine.execHistClear m slot s
  | .channelCutClear m c => Sys2Proof.Machine.execChannelCutClear m c s
  | .groupRecordWrite m g value mask => Sys2Proof.Machine.execGroupRecordWrite m g value mask s
  | .hcntClear m k => Sys2Proof.Machine.execHcntClear m k s
  | .storeArbiterCommit m => Sys2Proof.Machine.execStoreArbiterCommit m s
  | .libArbiterCommit m t => Sys2Proof.Machine.execLibArbiterCommit m t s
  | .portCommit m p => Sys2Proof.Machine.execPortCommit m p s
  | .ulpPowerWrite m p tx rx => Sys2Proof.Machine.execUlpPowerWrite m p tx rx s
  | .ulpTestWrite m p on => Sys2Proof.Machine.execUlpTestWrite m p on s
  | .ulpLoopbackWrite m p v => Sys2Proof.Machine.execUlpLoopbackWrite m p v s
  | .injGo m p l => Sys2Proof.Machine.execInjGo m p l s
  | .sensorFailedClear m idx => Sys2Proof.Machine.execSensorFailedClear m idx s
  | .ringStalledClear m f c => Sys2Proof.Machine.execRingStalledClear m f c s
  | .ringEnable m f idx on => Sys2Proof.Machine.execRingEnable m f idx on s
  | .capRpWrite m v => Sys2Proof.Machine.execCapRpWrite m v s
  | .captureBufferSet m base size => Sys2Proof.Machine.execCaptureBufferSet m base size s
  | .oqEnableWrite m q on => Sys2Proof.Machine.execOqEnableWrite m q on s
  | .oqRpWrite m q v => Sys2Proof.Machine.execOqRpWrite m q v s
  | .timeSourceWrite m src => Sys2Proof.Machine.execTimeSourceWrite m src s
  | .rateAdjWrite m v => Sys2Proof.Machine.execRateAdjWrite m v s
  | .ownershipWrite m value mask => Sys2Proof.Machine.execOwnershipWrite m value mask s
  | .mailboxAssignWrite m value mask => Sys2Proof.Machine.execMailboxAssignWrite m value mask s
  | .doorbellWrite f k tag buf => Sys2Proof.Machine.execDoorbellWrite f k tag buf s
  | .hostMark f => Sys2Proof.Machine.execHostMark f s
  | .bar4Read f offset len => Sys2Proof.Machine.execBar4Read f offset len s
  | .bar4Write f offset data => Sys2Proof.Machine.execBar4Write f offset data s
  | .mergeBlockTimeout block => Sys2Proof.Machine.execMergeBlockTimeout block s
  | .refillPiWrite f r pi => Sys2Proof.Machine.execRefillPiWrite f r pi s
  | .refillDescriptor f r desc data seals poisoned => Sys2Proof.Machine.execRefillDescriptor f r desc data seals poisoned s
  | .segmentResident f r => Sys2Proof.Machine.execSegmentResident f r s
  | .capturePiWrite f c pi => Sys2Proof.Machine.execCapturePiWrite f c pi s
  | .captureRingFill f c desc => Sys2Proof.Machine.execCaptureRingFill f c desc s
  | .captureFlushTimeout f c => Sys2Proof.Machine.execCaptureFlushTimeout f c s
  | .completionCiWrite f ci => Sys2Proof.Machine.execCompletionCiWrite f ci s
  | .pcieFlr f => Sys2Proof.Machine.execPcieFlr f s
  | .pcieLinkUp rate width => Sys2Proof.Machine.execPcieLinkUp rate width s
  | .numvfsChange n => Sys2Proof.Machine.execNumvfsChange n s
  | .syncEdge phi => Sys2Proof.Machine.execSyncEdge phi s
  | .blockingStep g trim err => Sys2Proof.Machine.execBlockingStep g trim err s
  | .flitCrcFail k => Sys2Proof.Machine.execFlitCrcFail k s
  | .flitReplayFail k => Sys2Proof.Machine.execFlitReplayFail k s
  | .dieLinkRetrainDone k ok => Sys2Proof.Machine.execDieLinkRetrainDone k ok s
  | .shotStart g => Sys2Proof.Machine.execShotStart g s
  | .shotOverrun t => Sys2Proof.Machine.execShotOverrun t s
  | .segmentFetchDeadline t => Sys2Proof.Machine.execSegmentFetchDeadline t s
  | .switchPoint t sealBad => Sys2Proof.Machine.execSwitchPoint t sealBad s
  | .segmentBoundary t => Sys2Proof.Machine.execSegmentBoundary t s
  | .shotEndBoundary g => Sys2Proof.Machine.execShotEndBoundary g s
  | .recordsPassed t => Sys2Proof.Machine.execRecordsPassed t s
  | .jumpRequest t => Sys2Proof.Machine.execJumpRequest t s
  | .play t => Sys2Proof.Machine.execPlay t s
  | .playParam t => Sys2Proof.Machine.execPlayParam t s
  | .frame t => Sys2Proof.Machine.execFrame t s
  | .frameUpdateApply t probe u => Sys2Proof.Machine.execFrameUpdateApply t probe u s
  | .biasSet t transit => Sys2Proof.Machine.execBiasSet t transit s
  | .biasRamp t transit => Sys2Proof.Machine.execBiasRamp t transit s
  | .biasSine t transit => Sys2Proof.Machine.execBiasSine t transit s
  | .biasOpAct n sealBad => Sys2Proof.Machine.execBiasOpAct n sealBad s
  | .biasRampComplete n => Sys2Proof.Machine.execBiasRampComplete n s
  | .sineFadeEnd n => Sys2Proof.Machine.execSineFadeEnd n s
  | .acquire t => Sys2Proof.Machine.execAcquire t s
  | .tset t => Sys2Proof.Machine.execTset t s
  | .waitUntil t => Sys2Proof.Machine.execWaitUntil t s
  | .waitUntilEnd t => Sys2Proof.Machine.execWaitUntilEnd t s
  | .waitEvent t => Sys2Proof.Machine.execWaitEvent t s
  | .waitEventTimeout t => Sys2Proof.Machine.execWaitEventTimeout t s
  | .align t => Sys2Proof.Machine.execAlign t s
  | .branchOnDecision t => Sys2Proof.Machine.execBranchOnDecision t s
  | .branchOnEvent t => Sys2Proof.Machine.execBranchOnEvent t s
  | .branchOnCounter t => Sys2Proof.Machine.execBranchOnCounter t s
  | .branchOnAlways t => Sys2Proof.Machine.execBranchOnAlways t s
  | .branchOnTimeout t => Sys2Proof.Machine.execBranchOnTimeout t s
  | .seg t => Sys2Proof.Machine.execSeg t s
  | .loop t => Sys2Proof.Machine.execLoop t s
  | .jump t => Sys2Proof.Machine.execJump t s
  | .emit t => Sys2Proof.Machine.execEmit t s
  | .emitRaise t => Sys2Proof.Machine.execEmitRaise t s
  | .barrier t => Sys2Proof.Machine.execBarrier t s
  | .barrierRelease g b => Sys2Proof.Machine.execBarrierRelease g b s
  | .barrierTimeout g b => Sys2Proof.Machine.execBarrierTimeout g b s
  | .countSet t => Sys2Proof.Machine.execCountSet t s
  | .countAdd t => Sys2Proof.Machine.execCountAdd t s
  | .countAddIf t => Sys2Proof.Machine.execCountAddIf t s
  | .shotEnd t => Sys2Proof.Machine.execShotEnd t s
  | .badOp t => Sys2Proof.Machine.execBadOp t s
  | .burstIssue t probe u transit => Sys2Proof.Machine.execBurstIssue t probe u transit s
  | .sampleRelease ch sealBad => Sys2Proof.Machine.execSampleRelease ch sealBad s
  | .lateDetect ch => Sys2Proof.Machine.execLateDetect ch s
  | .powerMute n => Sys2Proof.Machine.execPowerMute n s
  | .parkRampDone n => Sys2Proof.Machine.execParkRampDone n s
  | .parkOscHandback idx => Sys2Proof.Machine.execParkOscHandback idx s
  | .complianceTrip n v => Sys2Proof.Machine.execComplianceTrip n v s
  | .openLoadTrip n => Sys2Proof.Machine.execOpenLoadTrip n s
  | .windowOpen t => Sys2Proof.Machine.execWindowOpen t s
  | .adcOverrange t k => Sys2Proof.Machine.execAdcOverrange t k s
  | .pounceEvaluate t u idx q sealBad => Sys2Proof.Machine.execPounceEvaluate t u idx q sealBad s
  | .decisionReady t u => Sys2Proof.Machine.execDecisionReady t u s
  | .snapshotDone t samples sealBad => Sys2Proof.Machine.execSnapshotDone t samples sealBad s
  | .iqChunkForm t points => Sys2Proof.Machine.execIqChunkForm t points s
  | .machineCheck e addr again => Sys2Proof.Machine.execMachineCheck e addr again s
  | .interruptTaken e => Sys2Proof.Machine.execInterruptTaken e s
  | .microwordWaitTimeout e => Sys2Proof.Machine.execMicrowordWaitTimeout e s
  | .hatbandArrival c n => Sys2Proof.Machine.execHatbandArrival c n s
  | .hatbandDelivery c => Sys2Proof.Machine.execHatbandDelivery c s
  | .groupSwitch g => Sys2Proof.Machine.execGroupSwitch g s
  | .trigInAccept idx => Sys2Proof.Machine.execTrigInAccept idx s
  | .trigInStuck idx => Sys2Proof.Machine.execTrigInStuck idx s
  | .trigInUnmask idx => Sys2Proof.Machine.execTrigInUnmask idx s
  | .trigOutPulseEnd idx => Sys2Proof.Machine.execTrigOutPulseEnd idx s
  | .storeUncorrectable beat e => Sys2Proof.Machine.execStoreUncorrectable beat e s
  | .libParityError t row lasting playback => Sys2Proof.Machine.execLibParityError t row lasting playback s
  | .laneLock p l headers => Sys2Proof.Machine.execLaneLock p l headers s
  | .laneLockLoss p l headers => Sys2Proof.Machine.execLaneLockLoss p l headers s
  | .superframeStart p => Sys2Proof.Machine.execSuperframeStart p s
  | .controlFrameRx p headers frame => Sys2Proof.Machine.execControlFrameRx p headers frame s
  | .decisionFrameBuild p slot => Sys2Proof.Machine.execDecisionFrameBuild p slot s
  | .decisionFrameRx p second headers frame => Sys2Proof.Machine.execDecisionFrameRx p second headers frame s
  | .bulkCellRx p headers cell => Sys2Proof.Machine.execBulkCellRx p headers cell s
  | .bulkAckTimeout p => Sys2Proof.Machine.execBulkAckTimeout p s
  | .slotSwap p => Sys2Proof.Machine.execSlotSwap p s
  | .swapTimeout p => Sys2Proof.Machine.execSwapTimeout p s
  | .linkSleepEnter p => Sys2Proof.Machine.execLinkSleepEnter p s
  | .prbsCheckError p l => Sys2Proof.Machine.execPrbsCheckError p l s
  | .autoJobRetry q => Sys2Proof.Machine.execAutoJobRetry q s
  | .fullingJobStart e => Sys2Proof.Machine.execFullingJobStart e s
  | .fullingFrameWrite e bad poisoned => Sys2Proof.Machine.execFullingFrameWrite e bad poisoned s
  | .fullingJobCommit e => Sys2Proof.Machine.execFullingJobCommit e s
  | .compareFire u => Sys2Proof.Machine.execCompareFire u s
  | .ptpMessageRx msg => Sys2Proof.Machine.execPtpMessageRx msg s
  | .ptpMessageTx kind => Sys2Proof.Machine.execPtpMessageTx kind s
  | .feedQualify feed mv => Sys2Proof.Machine.execFeedQualify feed mv s
  | .feedDrop feed mv => Sys2Proof.Machine.execFeedDrop feed mv s
  | .feedRejoin feed mv => Sys2Proof.Machine.execFeedRejoin feed mv s
  | .shedStageEnter mv => Sys2Proof.Machine.execShedStageEnter mv s
  | .shedStageRecover mv => Sys2Proof.Machine.execShedStageRecover mv s
  | .pmbusPage addr page => Sys2Proof.Machine.execPmbusPage addr page s
  | .pmbusOperation addr op => Sys2Proof.Machine.execPmbusOperation addr op s
  | .pmbusStatusRead addr code => Sys2Proof.Machine.execPmbusStatusRead addr code s
  | .pmbusReadValue addr code => Sys2Proof.Machine.execPmbusReadValue addr code s
  | .sensorSample idx reading convFault stuck => Sys2Proof.Machine.execSensorSample idx reading convFault stuck s
  | .monSeqDone codes => Sys2Proof.Machine.execMonSeqDone codes s
  | .monInjTrigger cause => Sys2Proof.Machine.execMonInjTrigger cause s
  | .monInjDone codes wall => Sys2Proof.Machine.execMonInjDone codes wall s
  | .monSelfCalDone offsets gains => Sys2Proof.Machine.execMonSelfCalDone offsets gains s
  | .selftestDone failed => Sys2Proof.Machine.execSelftestDone failed s
  | .crownSelfDiagnosis pass => Sys2Proof.Machine.execCrownSelfDiagnosis pass s
  | .firstFullMeasurement g errs => Sys2Proof.Machine.execFirstFullMeasurement g errs s
  | .prbsSync p l => Sys2Proof.Machine.execPrbsSync p l s
  | .pcsAlignmentChange ok => Sys2Proof.Machine.execPcsAlignmentChange ok s
  | .bulkCellTx p => Sys2Proof.Machine.execBulkCellTx p s
  | .modelFitDone m => Sys2Proof.Machine.execModelFitDone m s
  | .engineRestartDone e bad => Sys2Proof.Machine.execEngineRestartDone e bad s
  | .systemResetHoldEnd => Sys2Proof.Machine.execSystemResetHoldEnd s
  | .patchSwap => Sys2Proof.Machine.execPatchSwap s
  | .patchWaitExpiry => Sys2Proof.Machine.execPatchWaitExpiry s
  | .bar4SelfRefreshTimeout => Sys2Proof.Machine.execBar4SelfRefreshTimeout s
  | .pcieHotReset => Sys2Proof.Machine.execPcieHotReset s
  | .perstAssert => Sys2Proof.Machine.execPerstAssert s
  | .pcieLinkDown => Sys2Proof.Machine.execPcieLinkDown s
  | .remoteDatagramTx => Sys2Proof.Machine.execRemoteDatagramTx s
  | .refclkLoss => Sys2Proof.Machine.execRefclkLoss s
  | .pllLock => Sys2Proof.Machine.execPllLock s
  | .pllLockLoss => Sys2Proof.Machine.execPllLockLoss s
  | .siEpoch => Sys2Proof.Machine.execSiEpoch s
  | .syncOutTrainingPulse => Sys2Proof.Machine.execSyncOutTrainingPulse s
  | .biasSupplyFault => Sys2Proof.Machine.execBiasSupplyFault s
  | .storeEmergencyTake => Sys2Proof.Machine.execStoreEmergencyTake s
  | .scrubPassDone => Sys2Proof.Machine.execScrubPassDone s
  | .selfRefreshEnter => Sys2Proof.Machine.execSelfRefreshEnter s
  | .chunkWritten => Sys2Proof.Machine.execChunkWritten s
  | .ppsInEdge => Sys2Proof.Machine.execPpsInEdge s
  | .ppsMissing => Sys2Proof.Machine.execPpsMissing s
  | .ppsOutRise => Sys2Proof.Machine.execPpsOutRise s
  | .ppsOutFall => Sys2Proof.Machine.execPpsOutFall s
  | .ptpAnnounceTimeout => Sys2Proof.Machine.execPtpAnnounceTimeout s
  | .ulpTimeMeasure => Sys2Proof.Machine.execUlpTimeMeasure s
  | .railsInRegulation => Sys2Proof.Machine.execRailsInRegulation s
  | .pmbusRevision addr => Sys2Proof.Machine.execPmbusRevision addr s
  | .throttleStepChange => Sys2Proof.Machine.execThrottleStepChange s
  | .analogTrip => Sys2Proof.Machine.execAnalogTrip s
  | .powerRestart => Sys2Proof.Machine.execPowerRestart s
  | .monRegTrigger => Sys2Proof.Machine.execMonRegTrigger s
  | .imageAuthenticated => Sys2Proof.Machine.execImageAuthenticated s
  | .calibrateComplete => Sys2Proof.Machine.execCalibrateComplete s
  | .heartbeatTimeout => Sys2Proof.Machine.execHeartbeatTimeout s
  | .crownTakeback => Sys2Proof.Machine.execCrownTakeback s
  | .crownWatchdog => Sys2Proof.Machine.execCrownWatchdog s
  | .resetNAssert => Sys2Proof.Machine.execResetNAssert s
  | .resetNRelease => Sys2Proof.Machine.execResetNRelease s
  | .errorLogTake => Sys2Proof.Machine.execErrorLogTake s
  | .refclkPresent => Sys2Proof.Machine.execRefclkPresent s
  | .syncOutPulseEnd => Sys2Proof.Machine.execSyncOutPulseEnd s
  | .feedOverVoltage => Sys2Proof.Machine.execFeedOverVoltage s
  | .feedsBelow5v => Sys2Proof.Machine.execFeedsBelow5v s
  | .perstRelease => Sys2Proof.Machine.execPerstRelease s
  | .imageFlashWritten => Sys2Proof.Machine.execImageFlashWritten s

end Sys2Proof.Machine
end

