-- ==== Sys2Proof/Machine/Tick.lean ====
section
/-! DEFINITION. One WCLK tick: what the passing of time alone does (R28, R30, R80, R230, R233, R306, R383). -/

namespace Sys2Proof.Machine

/-- INC of R306 with the RATE_ADJ in force. -/
def State.wallStep (s : State) : Int := (Config.wallInc : Int) + signed (s.get F.timeStatus_RATE_ADJ) 32

/-- The wall clock in units of 2⁻³² ns (R306). -/
def Clock.wall96 (c : Clock) : Nat := c.wallNs.toNat * 2 ^ 32 + c.wallFrac.toNat

/-- SI counts 16 samples and the wall clock adds INC. -/
def State.countOn (s : State) : State :=
  let w := unsigned ((s.clock.wall96 : Int) + s.wallStep) 96
  { s with clock := { s.clock with
      si := s.clock.si + 16, wallNs := BitVec.ofNat 64 (w / 2 ^ 32), wallFrac := BitVec.ofNat 32 w } }

/-- A tick: `now` counts, and while the PLL is locked the power integrators take their word and SI and the wall clock
advance. The arbiters run their cycles (R230, R233). A ramp to 0 that had no channel to move ends. -/
def State.tickOn (s : State) : State :=
  let s := { s with out := [], clock := { s.clock with now := s.clock.now + 1 } }
  let s := if s.flag F.gridStatus_PLL_LOCK then s.integrateAll.countOn else s
  s.arbitrate.watchPulse.rampEnded

end Sys2Proof.Machine
end

