-- ==== Sys2Proof/Safety.lean ====
section
/-! DEFINITION. The terms that claims are stated in: the parts of the state, what a command leaves unchanged, and
the invariant of the memories. -/

namespace Sys2Proof

open Machine

namespace Machine

/-- The memories are in canonical form: the bytes and seals of the libraries and of the stream store, and the
arbiter images in use, are listed with rising addresses, and no listed value is what an unlisted address reads as. -/
def Memory.wf (x : Memory) : Prop :=
  SMap.wf (fun _ => 0) x.lib = true ∧ SMap.wf (fun _ => zeroSeal) x.libSeal = true
    ∧ SMap.wf (fun _ => 0) x.store = true ∧ SMap.wf (fun _ => zeroSeal) x.storeSeal = true
    ∧ SMap.wf (fun _ => libRanksDefault) x.libRanks = true

end Machine

/-- The parts of the state that a claim about unchanged state names. Together they are the whole of it. -/
inductive Part where
  /-- the queue of waiting commands -/
  | pending
  /-- what the last command sent out -/
  | out
  | mode
  /-- the tick count -/
  | now
  /-- the sample index -/
  | si
  /-- the wall clock -/
  | wall
  /-- the clocks otherwise -/
  | clock
  /-- the record images of a family -/
  | image (r : Rec)
  | shadows
  | blocking
  | drive
  | bias
  /-- acquisition: windows, shots, snapshots, streams -/
  | acq
  /-- histogram bins -/
  | bins
  /-- weight sets, active and shadow -/
  | weights
  /-- readout otherwise -/
  | readout
  | engines
  /-- operation words, segments, contexts, bindings and program lists -/
  | loaded
  /-- tiles and run groups -/
  | runs
  | hatband
  /-- the bytes and seals of the libraries -/
  | library
  /-- the bytes and seals of the stream store -/
  | store
  /-- the memories otherwise -/
  | memory
  /-- that the memories are in canonical form -/
  | form
  | ports
  | capture
  /-- mailboxes, and the requests accepted and deferred -/
  | mailboxes
  /-- the host interface otherwise -/
  | host
  | monitor
  | power
  | crown
  | log
  | flash
  | upload
  /-- the model's counter of free values -/
  | free
deriving DecidableEq, Repr

/-- A part is the same in two states; the canonical form of the memories is kept from the first to the second. -/
def Part.same (s t : State) : Part → Prop
  | .pending => t.pending = s.pending
  | .out => t.out = s.out
  | .mode => t.mode = s.mode
  | .now => t.clock.now = s.clock.now
  | .si => t.clock.si = s.clock.si
  | .wall => t.clock.wallNs = s.clock.wallNs ∧ t.clock.wallFrac = s.clock.wallFrac
  | .clock => ({ t.clock with now := 0, si := 0, wallNs := 0, wallFrac := 0 } : Clock) =
      { s.clock with now := 0, si := 0, wallNs := 0, wallFrac := 0 }
  | .image r => ∀ i, t.image r i = s.image r i
  | .shadows => t.shadows = s.shadows
  | .blocking => t.blocking = s.blocking
  | .drive => t.drive = s.drive
  | .bias => t.bias = s.bias
  | .acq => t.readout.acq = s.readout.acq
  | .bins => t.readout.bins = s.readout.bins
  | .weights => t.readout.weights = s.readout.weights ∧ t.readout.weightShadow = s.readout.weightShadow
  | .readout => ({ t.readout with acq := [], bins := [], weights := [], weightShadow := [] } : Readout) =
      { s.readout with acq := [], bins := [], weights := [], weightShadow := [] }
  | .engines => t.engines = s.engines
  | .loaded => ({ t.program with tiles := [], groups := [] } : Program) = { s.program with tiles := [], groups := [] }
  | .runs => t.program.tiles = s.program.tiles ∧ t.program.groups = s.program.groups
  | .hatband => t.hatband = s.hatband
  | .library => t.memory.lib = s.memory.lib ∧ t.memory.libSeal = s.memory.libSeal
  | .store => t.memory.store = s.memory.store ∧ t.memory.storeSeal = s.memory.storeSeal
  | .memory => ({ t.memory with lib := [], libSeal := [], store := [], storeSeal := [] } : Memory) =
      { s.memory with lib := [], libSeal := [], store := [], storeSeal := [] }
  | .form => s.memory.wf → t.memory.wf
  | .ports => t.ports = s.ports
  | .capture => t.capture = s.capture
  | .mailboxes => t.host.mailboxes = s.host.mailboxes ∧ t.host.accepted = s.host.accepted
      ∧ t.host.deferred = s.host.deferred
  | .host => ({ t.host with mailboxes := [], accepted := [], deferred := [] } : HostIf) =
      { s.host with mailboxes := [], accepted := [], deferred := [] }
  | .monitor => t.monitor = s.monitor
  | .power => t.power = s.power
  | .crown => t.crown = s.crown
  | .log => t.log = s.log
  | .flash => t.flash = s.flash
  | .upload => t.upload = s.upload
  | .free => t.freeCount = s.freeCount

/-- Every part but those listed is the same in two states. -/
def Only (ps : List Part) (s t : State) : Prop := ∀ p, p ∉ ps → p.same s t

/-! ### Commands that complete -/

/-- A command answers a next state, of which `P` holds. -/
def Runs (c : Instr) (s : State) (P : State → Prop) : Prop := ∃ t, Machine.exec c s = .next t ∧ P t

namespace Machine

/-- The request in the request buffer of mailbox `m` (R332). -/
def State.request (s : State) (m : Nat) : Request := requestOf m (s.mailbox m).request

/-- The state in which a mailbox command acts: nothing sent yet, and the request off the accepted list (R336). -/
def State.taken (s : State) : State := s.fresh.popAccepted

end Machine

/-- The request of mailbox `m` is the next that Jutan serves, it carries the command code `code`, and every check of
R354 lets it through. `cmd` is the command of that code: its checks and its effect. -/
structure Passes (s : State) (m code : Nat) (cmd : Request → State → Command) : Prop where
  next : s.atHead m = true
  code : (s.request m).command = code
  screen : s.screen (s.request m) = .go
  served : s.refuses (s.request m) = false
  verdict : (cmd (s.request m) s.taken).verdict s.mode = none

/-- Mailbox `m` holds the response to its request (R333, R335): DONE is set, BUSY is clear, and the rest of the mailbox
is as it was. -/
def Answered (s t : State) (m : Nat) (st : Status) (detail : Nat) (payload : List Byte) : Prop :=
  t.mailbox m = { s.mailbox m with busy := false, done := true, stored := some ((s.request m).response st detail payload, (s.request m).sealWord) }

/-- A command of mailbox `m` has had its effect, which `P` states of the state that it left, and the response OK with
its payload has then been written. -/
def Done (s t : State) (m : Nat) (payload : List Byte) (P : State → Prop) : Prop :=
  ∃ u : State, P u ∧ u.mailbox m = s.mailbox m ∧ t = u.reply (s.request m) .ok 0 payload

/-- The request of mailbox `m` waits for `w` (R356): BUSY stays as it was, and the mailbox has no response yet. -/
def Deferring (s t : State) (m : Nat) (w : Wait) : Prop :=
  t.mailbox m = s.mailbox m ∧ t.host.deferred = s.host.deferred ++ [{ m, command := (s.request m).command, tag := (s.request m).tag, fn := (s.request m).fn, reqSeal := (s.request m).sealWord, since := s.clock.now, discard := false, wait := w }]

/-- The deferred command `d` has ended (R356): its response stands in its mailbox, and it waits no longer. -/
def Ended (s t : State) (d : Deferred) (st : Status) (payload : List Byte) : Prop :=
  t.mailbox d.m = { s.mailbox d.m with busy := false, done := true, stored := some ({ command := d.command, tag := d.tag, fn := d.fn, status := st, detail := 0, replayed := false, payload }, d.reqSeal) } ∧ t.deferredOf d.m = none

/-! ### Record writes that complete -/

namespace Machine

/-- The write of record `i` of a family that a row of mailbox `m` stands for (R339). -/
def State.bareWrite (s : State) (m : Nat) (r : Rec) (i value mask : Nat) : RecWrite :=
  { m, fn := s.mailboxFn m, r, i, value := value % 2 ^ (32 * r.words), mask := mask % 2 ^ (32 * r.words) }

/-- The write of one field of record `i`. -/
def State.fieldWrite (s : State) (m : Nat) (f : Field) (i v : Nat) : RecWrite :=
  s.bareWrite m f.record i ((v % 2 ^ f.width) <<< f.lo) f.mask

end Machine

/-- Jutan serves, the mailbox is assigned, and every check of R354 lets the write through: access (step 6), the mode
and the run state (step 7), the mask and the values (step 8), and the state of the target (step 9). -/
structure Writes (s : State) (w : RecWrite) : Prop where
  serves : s.serves = true
  assigned : s.mailboxAssigned w.m = true
  served : s.refuses (bareRequest s w.m) = false
  access : s.writeAccess w = none
  run : s.writeRefused w = false
  mask : w.maskBad = false
  value : s.valueBad w = false
  target : s.targetRefuses w = none

/-- A write of record `i` of a family has put the masked RW bits of `value` into it (R339, R438), and has left every
other bit of it, and every other record of the family, as they were. -/
def Took (s u : State) (r : Rec) (i value mask : Nat) : Prop :=
  (∀ k < r.place.count, k ≠ i → u.image r k = s.image r k)
    ∧ ∀ j < 32 * r.words, (u.image r i).testBit j =
      if mask.testBit j && r.rwMask.testBit j then value.testBit j else (s.rwImage r i).testBit j

/-- A record write completes: what it leaves but for the status OK that it then reports. -/
def Wrote (t : State) (P : State → Prop) : Prop := ∃ u : State, P u ∧ t = u.emit (.writeStatus .ok 0)

/-! ### Hatband sources -/

/-- A command raises source `src` with payload `p` and flag `f` (R210, R212): it leaves the block, and an event is on
its way to every channel that the source is wired to, which enables it or not as it arrives. -/
def Raised (_ t : State) (src p f : Nat) : Prop :=
  .source src p f 0 ∈ t.out ∧ ∀ c ∈ wiredTo src, ⟨c, src, p, f, 0, 1, false⟩ ∈ t.hatband.arriving

/-! ### Fault reports -/

/-- A fault of class `cls` is reported once (R412): its class counter counts one, up to its greatest value. -/
def Reported (s t : State) (cls : Nat) : Prop := t.log.counters.read 0 cls = satAdd (s.log.counters.read 0 cls) 1 32

/-! ### Tiles -/

/-- PROGRAM_FAULT on tile `t` (R194): its source is raised, it is reported, the run ends as under ABORT, and a tile that
plays or prepares a shot stands down. -/
def Faulted (s u : State) (t : Nat) : Prop :=
  Raised s u (seqSource t 9) 0 0 ∧ Reported s u 16
    ∧ (∀ g, (s.tile t).group = some g → (u.group g).abort = true)
    ∧ ((s.tile t).group.isSome = true → (s.tile t).stoodDown = none → (s.tile t).endTick = none →
      ((s.tile t).inShot = true ∨ (s.tile t).prepared = true) →
      (u.tile t).stoodDown = some (s.tick t).toNat ∧ (u.tile t).ended = true)

/-! ### Blocking -/

/-- A trim with measured error `err` steps toward it (R55): it starts above 192/256 tap, goes on above 128/256 tap, and
never while its group is held. -/
def Machine.State.stepsOn (s : State) (g trim : Nat) (err : Int) : Bool :=
  !s.flag F.blockGroup_HOLD g && (if s.blocking.stepping.read false (trimKey g trim) then decide (128 < err.natAbs)
    else decide (192 < err.natAbs))

/-! ### Capture -/

/-- A chunk of a kind, tile and size in bytes is formed (R276, R277, R278): while there is a capture buffer, its sequence
number advances, and it is staged with that number where it fits. -/
def Formed (s t : State) (kind tile size : Nat) : Prop := s.get F.capControl_CAP_SIZE ≠ 0 →
  t.chunkSeq kind tile = (s.chunkSeq kind tile + 1) % 2 ^ 32 ∧ (s.chunkFits kind size = true →
    ∃ c : Chunk, t.capture.staging = s.capture.staging ++ [c] ∧ c.kind = kind ∧ c.tile = tile
      ∧ c.seq = s.chunkSeq kind tile)

/-! ### Histograms -/

/-- The key of the bin that a point of a slot falls in, none where it lies outside the plane (R126): its offset from the
centre of the slot's histogram in steps of the bin width, 64 steps a side. -/
def pointBin (p : Nat × Int × Int × Nat) : Option Nat :=
  let bi := (p.2.1 - signed (bits p.2.2.2 0 32) 32) / 2 ^ bits p.2.2.2 64 5 + 32
  let bq := (p.2.2.1 - signed (bits p.2.2.2 32 32) 32) / 2 ^ bits p.2.2.2 64 5 + 32
  if 0 ≤ bi ∧ bi < 64 ∧ 0 ≤ bq ∧ bq < 64 then some (4096 * p.1 + 64 * bi.toNat + bq.toNat) else none

/-! ### Rings -/

/-- The descriptor at CI of ring `i` of function `f` has been written back (R341): its 32 bytes have gone to the host, and
CI has passed it. -/
def WrittenBack (s t : State) (f i desc : Nat) : Prop :=
  .hostWrite f (s.get F.ring_BASE (ringKey f i) + 32 * (s.host.ci.read 0 (ringKey f i) % s.ringSize (ringKey f i)))
      (leBytes desc 32) ∈ t.out
    ∧ t.host.ci.read 0 (ringKey f i) = (s.host.ci.read 0 (ringKey f i) + 1) % 2 ^ 32

end Sys2Proof
end

