-- ==== Sys2Proof/Safety/Rows.lean ====
section
/-! DEFINITION. More terms that claims are stated in: the rows of the mailboxes, the
operation words, what the rows of tiles, channels, ports and engines leave, and the seal bit by bit. -/

namespace Sys2Proof

open Machine

/-! ### The commands of the mailboxes -/

/-- The rows that serve a request of a mailbox: the row, its command code, and its command (R352, R353). -/
def mailboxRows : List ((Fin 16 → Instr) × Nat × (Request → State → Command)) :=
    [(Instr.sysInfo, 0x0101, sysInfoCommand),
     (Instr.modeGet, 0x0102, modeGetCommand),
     (Instr.modeSet, 0x0103, modeSetCommand),
     (Instr.systemReset, 0x0104, systemResetCommand),
     (Instr.selftestReport, 0x0105, selftestReportCommand),
     (Instr.syncArm, 0x0106, syncArmCommand),
     (Instr.syncPulse, 0x0107, syncPulseCommand),
     (Instr.imageWrite, 0x0108, imageWriteCommand),
     (Instr.imageSelect, 0x0109, imageSelectCommand),
     (Instr.slotBind, 0x0201, slotBindCommand),
     (Instr.slotGet, 0x0202, slotGetCommand),
     (Instr.libWrite, 0x0203, libWriteCommand),
     (Instr.libRead, 0x0204, libReadCommand),
     (Instr.ctxLoad, 0x0205, ctxLoadCommand)]
  ++ [(Instr.ctxRead, 0x0206, ctxReadCommand),
     (Instr.weightLoad, 0x0207, weightLoadCommand),
     (Instr.programLoad, 0x0208, programLoadCommand),
     (Instr.runStart, 0x0301, runStartCommand),
     (Instr.runStop, 0x0302, runStopCommand),
     (Instr.runResume, 0x0303, runResumeCommand),
     (Instr.runJump, 0x0304, runJumpCommand),
     (Instr.runStatus, 0x0305, runStatusCommand),
     (Instr.evcStatusRead, 0x0401, evcStatusReadCommand),
     (Instr.cutRestore, 0x0402, cutRestoreCommand),
     (Instr.fullingSubmit, 0x0501, fullingSubmitCommand),
     (Instr.streamReset, 0x0504, streamResetCommand),
     (Instr.streamState, 0x0505, streamStateCommand),
     (Instr.histRead, 0x0506, histReadCommand)]
  ++ [(Instr.histDump, 0x0507, histDumpCommand),
     (Instr.modelFit, 0x0508, modelFitCommand),
     (Instr.remoteDest, 0x0509, remoteDestCommand),
     (Instr.timeSet, 0x0601, timeSetCommand),
     (Instr.timeOfDay, 0x0602, timeOfDayCommand),
     (Instr.timeRearm, 0x0603, timeRearmCommand),
     (Instr.portAddress, 0x0604, portAddressCommand),
     (Instr.ptpStatus, 0x0605, ptpStatusCommand),
     (Instr.ulpStatus, 0x0701, ulpStatusCommand),
     (Instr.tableCommit, 0x0702, tableCommitCommand),
     (Instr.linkRetrain, 0x0703, linkRetrainCommand),
     (Instr.telemetry, 0x0801, telemetryCommand),
     (Instr.sensorRead, 0x0802, sensorReadCommand),
     (Instr.monRead, 0x0803, monReadCommand)]
  ++ [(Instr.monCalibrate, 0x0804, monCalibrateCommand),
     (Instr.blockTaps, 0x0901, blockTapsCommand),
     (Instr.blockTarget, 0x0902, blockTargetCommand),
     (Instr.patchLoad, 0x0A01, patchLoadCommand),
     (Instr.patchApply, 0x0A02, patchApplyCommand),
     (Instr.engineRestart, 0x0A03, engineRestartCommand),
     (Instr.logDrain, 0x0B01, logDrainCommand),
     (Instr.logCounters, 0x0B02, logCountersCommand),
     (Instr.logFirst, 0x0B03, logFirstCommand),
     (Instr.logAckOverflow, 0x0B04, logAckOverflowCommand),
     (Instr.echo, 0x0B05, echoCommand),
     (Instr.paramGet, 0x0C01, paramGetCommand),
     (Instr.paramSet, 0x0C02, paramSetCommand)]

/-! ### Operation words -/

/-- The engine of tile `t` dispatches, the word at its position is an operation `o`, and no patch has changed its routine
(R150, R155, R177). -/
structure Dispatches (s : State) (t : Nat) (o : Op) : Prop where
  go : s.dispatches t = true
  op : opOf (s.wordAt t) = o
  unpatched : s.rewritten (opcodeOf (s.wordAt t)) = false

/-- A timed word is dispatched: it stands before the boundary of its segment, and T − 256 has come (R179, R180). -/
structure Timed (s : State) (t : Nat) (o : Op) : Prop extends Dispatches s t o where
  early : s.relLate t (s.wordAt t) = false
  soon : (s.wordTick t (s.wordAt t) : Int) ≤ s.tick t + Config.lookahead

/-- The timed words, with their operations (R177). The second operand is a bias operation's transit to its island; the
other words have none. -/
def timedRows : List ((Fin 16 → Fin 29 → Instr) × Op) :=
  [(fun t _ => Instr.play t, Op.play), (fun t _ => Instr.playParam t, Op.playParam),
   (fun t _ => Instr.frame t, Op.frame), (Instr.biasSet, Op.biasSet), (Instr.biasRamp, Op.biasRamp),
   (Instr.biasSine, Op.biasSine), (fun t _ => Instr.acquire t, Op.acquire), (fun t _ => Instr.tset t, Op.tset),
   (fun t _ => Instr.emit t, Op.emit), (fun t _ => Instr.waitUntil t, Op.waitUntil)]

/-! ### What the words of a tile leave -/

/-- The other tiles and engines stand as they did, and so do the run groups. -/
def OthersStand (s u : State) (t : Nat) : Prop :=
  (∀ i, i ≠ t → u.tile i = s.tile i ∧ u.engine i = s.engine i)
    ∧ (∀ i < 17, i ≠ t → u.image .engineStatus i = s.image .engineStatus i) ∧ ∀ g, u.group g = s.group g

/-- The instance of a word has ended, and its engine goes on `n` words further (R150, R165). The word has made the tile
`r`; no other tile or engine has moved. -/
def GoesOn (s u : State) (t n : Nat) (r : TileRun) : Prop :=
  u.tile t = { r with pc := (s.tile t).pc + n } ∧ (u.engine t).inst = false ∧ (u.engine t).abandoned = 0
    ∧ u.get F.engineStatus_STATE t = 1 ∧ u.flag F.engineStatus_GUARD t = false ∧ OthersStand s u t

/-- The word stands: its engine waits before the commit, since the tick in which it began to (R156). The word has made
the tile `r`; no other tile or engine has moved. -/
def Waits (s u : State) (t : Nat) (r : TileRun) : Prop :=
  u.tile t = r ∧ (u.engine t).inst = true ∧ (u.engine t).waitSince = some ((s.engine t).waitSince.getD s.clock.now)
    ∧ u.get F.engineStatus_STATE t = 2 ∧ OthersStand s u t

/-- The three bias operations: their rows, and what each makes of its extension word (R90, R185). -/
def biasWords : List ((Fin 16 → Fin 29 → Instr) × Op × (Nat → BiasAct)) :=
  [(Instr.biasSet, Op.biasSet, fun x => .level (signed (bits x 0 16) 16)),
   (Instr.biasRamp, Op.biasRamp, fun x => .ramp (signed (bits x 0 16) 16) (bits x 16 24 + 1)),
   (Instr.biasSine, Op.biasSine, fun x => .sine (bits x 0 16) (bits x 16 32) (bits x 48 16))]

/-- PLAY and PLAY_PARAM: the row, its operation, its words, and AMP, PHASE and FOFS from the context and the
extension word (R181, R183). -/
def playWords : List ((Fin 16 → Instr) × Op × Nat × (Nat → Nat → Nat × Nat × Int)) :=
  [(Instr.play, Op.play, 1, fun c _ => (ctxAmp c, ctxPhase c, ctxFofs c)),
   (Instr.playParam, Op.playParam, 2, fun _ x => (bits x 0 16, bits x 16 16, signed (bits x 32 32) 32))]

/-- WAIT_TIMEOUT of tile `t` (R158, R187): counted, raised and reported once; MARK takes the tick, and the engine goes on
`n` words further. -/
def TimedOut (s u : State) (t n : Nat) : Prop :=
  GoesOn s u t n { s.tile t with mark := (s.tick t).toNat }
    ∧ u.get F.engineStatus_TIMEOUT_COUNT t = satAdd (s.get F.engineStatus_TIMEOUT_COUNT t) 1 F.engineStatus_TIMEOUT_COUNT.width
    ∧ Raised s u (seqSource t 4) 0 0 ∧ Reported s u 18
    ∧ Only [.out, .hatband, .log, .image .logStatus, .runs, .engines, .image .engineStatus] s u

/-- A wait on the latch of channel `c` ends with `n` words to go (R157, R187, R223): MARK takes the tick, the latch clears,
and the event is remembered with its H. -/
def TookLatch (s u : State) (t n c h : Nat) : Prop :=
  GoesOn s u t n { s.tile t with
      mark := (s.tick t).toNat, lastHop := some (h, c), latches := (s.tile t).latches.filter (fun x => x.1 ≠ c) }
    ∧ Only [.out, .runs, .engines, .image .engineStatus] s u

/-- The words that end a segment. -/
def endRows : List ((Fin 16 → Instr) × Op) :=
  [(Instr.seg, .seg), (Instr.loop, .loop), (Instr.jump, .jump), (Instr.shotEnd, .shotEnd)]

/-! ### Channels and shots -/

/-- The shot of tile `t`'s run group is void for every tile of the group (R36, R205). -/
def ShotVoided (s u : State) (t : Nat) : Prop :=
  ∀ g, (s.tile t).group = some g → ((s.group g).inShot = true ∨ (s.tile t).prepared = true) →
    (u.group g).shotVoid = true ∧ ∀ i ∈ s.members g, (s.tile i).group.isSome = true → (u.tile i).voided = true

/-- Bias channel `n` becomes `b`, and no other changes. -/
def BiasBecomes (s u : State) (n : Nat) (b : Bias) : Prop :=
  u.biasOf n = b ∧ ∀ k, k ≠ n → u.biasOf k = s.biasOf k

/-- A supervision trip of bias channel `n` whose action is `x` (R102, R103): 0 REPORT, 1 HOLD, 2 PARK. -/
def Tripped (s u : State) (n x : Nat) : Prop :=
  Raised s u (512 + n) 0 0 ∧ Reported s u 14 ∧ (∀ k, k ≠ n → u.biasOf k = s.biasOf k)
    ∧ (x = 0 → u.bias = s.bias ∧ u.program = s.program)
    ∧ (x = 1 → .latched ∈ (u.biasOf n).holds ∧ u.flag F.biasStatus_HELD n = true ∧ ShotVoided s u (n / 8))
    ∧ (x = 2 → u.flag F.biasStatus_PARKED n = true ∧ ShotVoided s u (n / 8)
      ∧ (u.latchHolds n = true → .latched ∈ (u.biasOf n).holds ∧ u.flag F.biasStatus_HELD n = true)
      ∧ (s.flag F.biasStatus_PARKED n = true → (u.biasOf n).park = (s.biasOf n).park)
      ∧ (s.flag F.biasStatus_PARKED n = false → s.power.ramp = none → (u.biasOf n).park = some
        { l0 := s.level n, target := signed (s.get F.biasConfig_PARK_VALUE n) 16 * 2 ^ 16, start := s.half
          slew := s.get F.biasConfig_PARK_SLEW n, connect := true }))
    ∧ Only [.out, .hatband, .log, .image .logStatus, .monitor, .bias, .image .biasStatus, .runs, .image .runStatus, .acq] s u

/-- A channel of tile `t` is LATE for the first time in its segment (R36, R40). -/
def WentLate (s u : State) (t ch : Nat) : Prop :=
  u.get F.lateStatus_LATE_COUNT t = satAdd (s.get F.lateStatus_LATE_COUNT t) 1 F.lateStatus_LATE_COUNT.width
    ∧ u.get F.lateStatus_MIN_MARGIN t = 0 ∧ u.get F.lateStatus_MIN_MARGIN_CH t = ch
    ∧ Raised s u (seqSource t 0) 0 0 ∧ Reported s u 0 ∧ ShotVoided s u t

/-- The codes of a word (R73). -/
def codesOf (w : List (Int × Bool)) : List Int := w.map Prod.fst

/-- How many codes of a word are clipped (R73, R79). -/
def clippedOf (w : List (Int × Bool)) : Nat := (w.filter Prod.snd).length

/-! ### Requests and modes -/

/-- The request of mailbox `m` is the next that Jutan serves, it carries the command code `code` and `n` bytes of
payload, a holder of ADM sends it, and steps 1 to 6 of R354 let it through. -/
structure Asks (s : State) (m code n : Nat) : Prop where
  next : s.atHead m = true
  code : (s.request m).command = code
  screen : s.screen (s.request m) = .go
  len : (s.request m).len = n
  adm : (s.request m).adm = true

/-- The transitions that MODE_SET may request, as the table of R394 lists them. -/
def modeSetTable : Mode → List Mode
  | .selftest => [.safe]
  | .calibrate => [.boot, .safe]
  | .parked => [.calibrate, .run, .survey, .boot, .safe]
  | .run => [.survey, .parked, .safe]
  | .survey => [.run, .parked, .safe]
  | .safe => [.parked, .boot]
  | _ => []

/-! ### Deferred commands -/

/-- Every deferred command that waits for `w` has ended with a status and a payload (R356), where no mailbox has two. -/
def AllEnded (s u : State) (w : Wait) (st : Status) (payload : List Byte) : Prop :=
  (s.host.deferred.map Deferred.m).Nodup →
    ∀ d ∈ s.host.deferred, d.wait = w → d.discard = false → Ended s u d st payload

/-! ### Ports -/

/-- Port `p` becomes `x`, and no other changes. -/
def PortBecomes (s u : State) (p : Nat) (x : Port) : Prop := u.port p = x ∧ ∀ q, q ≠ p → u.port q = s.port q

/-- The receive direction of port `p` has gone to state `x` (R249): no lane is locked, the receiver starts afresh, and a
commit that was pending has failed (R265). -/
def WentDown (s u : State) (p x : Nat) : Prop :=
  u.get F.ulpStatus_RX_STATE p = x ∧ u.get F.ulpStatus_LANE_LOCK p = 0
    ∧ (u.port p).controlOk = false ∧ (u.port p).keptValid = false ∧ (u.port p).rxFailed = false
    ∧ (s.flag F.ulpStatus_SWAP_PENDING p = true → u.flag F.ulpStatus_SWAP_PENDING p = false
      ∧ u.flag F.ulpStatus_SWAP_FAILED p = true ∧ AllEnded s u (.tableCommit p) .timeout [])
    ∧ (∀ q, q ≠ p → u.port q = s.port q) ∧ ∀ q < 4, q ≠ p → u.image .ulpStatus q = s.image .ulpStatus q

/-- The parts that the receive direction of a port may change when it goes down. -/
def downParts : List Part :=
  [.image .ulpStatus, .ports, .mailboxes, .log, .image .logStatus, .out, .hatband, .host, .clock, .image .timeStatus]

/-- A decision frame `f` has been used on port `p` (R257, R260): the sequence numbers are kept, every valid entry raises its
source with its P, F and H, a gap raises DEC_MISSING, and an arrival that is not known yet raises BARRIER_RX. -/
def FrameUsed (s u : State) (p f : Nat) : Prop :=
  (u.port p).keptValid = true ∧ (∀ j < 8, (u.port p).seqKept.read 0 j = bits f (22 + 12 * j) 4)
    ∧ (∀ j < 8, bits f (16 + 12 * j) 1 = 1 →
      .source (768 + 16 * p + j) (bits f (17 + 12 * j) 2) (bits f (19 + 12 * j) 1) (bits f (20 + 12 * j) 2) ∈ u.out)
    ∧ ((s.port p).keptValid = true → ∀ j < 8,
      bits f (16 + 12 * j) 1 < (bits f (22 + 12 * j) 4 + 16 - (s.port p).seqKept.read 0 j) % 16 →
        Raised s u (768 + 16 * p + 14) (j % 4) (j / 4))
    ∧ (bit f 112 = true → (∀ k, (s.port p).barrierIn ≠ some (bits f 113 10, bits f 123 32, k)) →
      Raised s u (768 + 16 * p + 8) 0 0)

/-- The parts that a used decision frame may change. -/
def frameParts : List Part :=
  [.ports, .image .ulpStatus, .log, .image .logStatus, .out, .hatband, .runs, .image .runStatus, .acq, .engines]

/-- An ACK has been taken on port `p` (R262): the cells before the one it names are acknowledged, all of them where it
names the next to be sent, and none where it names no cell of the window. -/
def AckTaken (s u : State) (p ack : Nat) : Prop :=
  (ack = (s.port p).txSeq → (u.port p).unacked = [])
    ∧ (ack ≠ (s.port p).txSeq → ∀ a c b, (s.port p).unacked = a ++ c :: b → c.1 = ack → (∀ x ∈ a, x.1 ≠ ack) →
      (u.port p).unacked = c :: b)
    ∧ (ack ≠ (s.port p).txSeq → (∀ c ∈ (s.port p).unacked, c.1 ≠ ack) → (u.port p).unacked = (s.port p).unacked)

/-- A slot of port `p` with the payload `f` and the header `h` in each of its eight blocks (R247) leaves the block, or
reaches its own receiver in loopback (R270). -/
def SlotSent (s u : State) (p h f : Nat) : Prop :=
  ∃ blocks : List Nat, blocks.length = 8
    ∧ (if s.looped p then Output.ulpLoop p h f blocks else .ulpSlot p h f blocks) ∈ u.out

/-- A bulk cell `f` with SEQ, the receiver's ACK, VALID, its NAK and the body `b` (R261). -/
def CellSent (s u : State) (p f seq : Nat) (valid : Bool) (b : Nat) : Prop :=
  SlotSent s u p dataHeader f ∧ checkGood f = true ∧ bits f 0 16 = seq % 2 ^ 16 ∧ bits f 16 16 = (s.port p).rxExpected % 2 ^ 16
    ∧ bit f 32 = valid ∧ bit f 33 = (s.port p).nakCell ∧ bits f 34 446 = bits b 34 446

/-! ### Fulling -/

/-- Stream context `id` has the state `ctx` and the history `h`; no other context has changed (R297, R298). -/
def StreamBecomes (s u : State) (id ctx : Nat) (h : List Byte) : Prop :=
  u.streamCtx id = ctx ∧ u.streamHistory id = h
    ∧ ∀ k, k ≠ id → u.streamCtx k = s.streamCtx k ∧ u.streamHistory k = s.streamHistory k

/-- What engine `e` runs becomes `x`; the other engines run what they did. -/
def EngineRuns (s u : State) (e : Nat) (x : Option RunJob) : Prop :=
  u.capture.running.find e = x ∧ ∀ k, k ≠ e → u.capture.running.find k = s.capture.running.find k

/-- The completion entry of a job of function `f` is posted where its completion ring is enabled (R296). -/
def Completed (s u : State) (f tag : Nat) (st : Status) (engine frames inBlocks outUnits : Nat) : Prop :=
  ∀ k n, k = ringKey f 32 → n = s.host.pi.read 0 k → s.flag F.ring_ENABLE k = true →
    u.host.pi.read 0 k = (n + 1) % 2 ^ 32 ∧ Raised s u (1104 + f) 0 0
    ∧ (s.flag F.linkStatus_LINK_UP = true →
      .hostWrite f (s.get F.ring_BASE k + 16 * (n % 2 ^ s.get F.ring_LOG2_SIZE k))
        (leBytes (tag % 2 ^ 16 + st.code <<< 16 + (engine % 8) <<< 24 + (frames % 2 ^ 32) <<< 32
          + (inBlocks % 2 ^ 32) <<< 64 + (outUnits % 2 ^ 32) <<< 96) 16) ∈ u.out)

/-- The job `x` of engine `e` has failed as a whole with a status (R294, R295): the engine is idle, source 968 + e is
raised, WP stands, the queue counts it, and a submitted job completes with the status. -/
def JobFailed (s u : State) (e : Nat) (x : RunJob) (st : Status) : Prop :=
  ∀ q, q = jobQueue x.job.desc → EngineRuns s u e none ∧ Raised s u (968 + q % 8) 0 0
    ∧ u.get F.outQueue_WP q = s.get F.outQueue_WP q
    ∧ (st = .faulted → u.get F.outQueue_FAULT_COUNT q = satAdd (s.get F.outQueue_FAULT_COUNT q) 1 16)
    ∧ (st = .noSpace → u.get F.outQueue_NO_SPACE_COUNT q = satAdd (s.get F.outQueue_NO_SPACE_COUNT q) 1 16)
    ∧ (x.job.auto = false → u.capture.jobs = s.capture.jobs
      ∧ Completed s u x.job.fn (jobTag x.job.desc) st (q % 8) 0 0 0)
    ∧ (x.job.auto = true → st = .noSpace → u.capture.jobs = { x.job with waitSpace := true } :: s.capture.jobs)

/-- The parts that an engine of Fulling may change in a frame. -/
def jobParts : List Part :=
  [.free, .log, .image .logStatus, .out, .hatband, .image .fullingStatus, .capture, .image .outQueue, .image .capStatus,
   .host, .image .ring, .store, .memory]

/-! ### The seal, bit by bit -/

/-- One bit enters the register of R21: the register shifts up, and the polynomial is added where the bit that leaves
differs from the bit that enters. -/
def sealBit (r : BitVec 32) (b : Bool) : BitVec 32 := if r.msb != b then (r <<< 1) ^^^ 0x1EDC6F41#32 else r <<< 1

/-- The bits of a byte, the least significant first: reflected input. -/
def bitsOfByte (b : Byte) : List Bool := (List.range 8).map b.getLsbD

/-- The register after every bit of a list of bytes, from all ones. -/
def sealRegister (l : List Byte) : BitVec 32 := (l.flatMap bitsOfByte).foldl sealBit 0xFFFFFFFF#32

end Sys2Proof
end

