-- ==== Sys2Proof/Certificates/Slice0/Obligations.lean ====
section
/-! DEFINITION. The statements about the model. A statement about rows says what each of them completes with: `Runs c s P`
says that `exec c s` answers a next state and that `P` holds of it, from hypotheses on the state and the operands alone.
The words they are said in (`Passes`, `Answered`, `Done`, `Only` and the like) are defined in Safety and Safety/Rows. -/

open Sys2Proof Sys2Proof.Machine

/-- Log 1, log 2 and the cut of this row: a step takes the command at the front of the queue and runs it on the state
with the queue's rest. -/
def Obligations.FrontCommandRuns : Prop :=
  ∀ (c : Instr) (rest : List Instr) (s : State), s.pending = c :: rest → step s = exec c { s with pending := rest }

/-- R28, R30, R306: a step on an empty queue is one tick (log 2). The tick count rises by one; while the PLL is locked
SI rises by 16 and the wall clock by its increment with RATE_ADJ, and otherwise both hold. -/
def Obligations.EmptyQueueIsOneTick : Prop :=
  ∀ s : State, s.pending = [] → s.power.ramp = none → ∃ t, step s = .next t ∧ t.pending = [] ∧ t.out = []
    ∧ t.clock.now = s.clock.now + 1
    ∧ (s.flag F.gridStatus_PLL_LOCK = true → t.clock.si = s.clock.si + 16
      ∧ (t.clock.wall96 : Int) = ((s.clock.wall96 : Int) + 0x140000000 + signed (s.get F.timeStatus_RATE_ADJ) 32) % 2 ^ 96)
    ∧ (s.flag F.gridStatus_PLL_LOCK = false → t.clock.si = s.clock.si ∧ t.clock.wall96 = s.clock.wall96)

/-- R403, R413, R437: after RESET the device is in mode RESET, every record of the register map reads at its reset
image, SI is 0, no request stands in a mailbox, the error log and its counters are empty; no memory lists anything and
the queue is empty (logs 5 to 7 for what the manual does not give). -/
def Obligations.ResetLeavesEveryRecord : Prop :=
  State.reset.mode = .reset ∧ (∀ r i, State.reset.image r i = r.resetImage i) ∧ State.reset.si = 0
    ∧ (∀ m, (State.reset.mailbox m).busy = false ∧ (State.reset.mailbox m).done = false)
    ∧ State.reset.log.entries = [] ∧ (∀ c, State.reset.log.counters.read 0 c = 0)
    ∧ (∀ a, State.reset.memory.lib.read 0 a = 0 ∧ State.reset.memory.store.read 0 a = 0)
    ∧ State.reset.memory.wf ∧ State.reset.pending = []

/-- R21: the seal. It is the remainder register of the Castagnoli polynomial with the bits of each byte entering least
significant first, from all ones, its bits then taken in reverse order, and a final exclusive-OR with all ones. Over
"123456789" it yields 0xE306_9283. -/
def Obligations.SealIsReflectedCastagnoli : Prop :=
  (∀ l : List Byte, crc32c l = ((sealRegister l).reverse ^^^ 0xFFFFFFFF#32).toNat)
    ∧ crc32c [0x31, 0x32, 0x33, 0x34, 0x35, 0x36, 0x37, 0x38, 0x39] = 0xE3069283

/-- Every row of the table answers a next state, for all operands and in every state: no command faults and none is
refused by the model. -/
def Obligations.EveryCommandAnswers : Prop := ∀ (c : Instr) (s : State), ∃ t, exec c s = .next t

/-- R229, R232: an invariant of every step. Where the memories are in canonical form (rising addresses, and nothing
listed that an unlisted address reads as), they are so after any step, from every state, a command's and a tick's. -/
def Obligations.EveryStepKeepsMemoryForm : Prop :=
  ∀ s t : State, s.memory.wf → step s = .next t → t.memory.wf

/-- Logs 2 and 85: no command touches the queue or the count of ticks, whatever it does, a reset among them; so a run
takes each command once, in order, and ticks pass only in steps on an empty queue. -/
def Obligations.CommandsLeaveQueueAndTicks : Prop :=
  ∀ (c : Instr) (s t : State), exec c s = .next t → t.pending = s.pending ∧ t.clock.now = s.clock.now

/-- R335, R336, R352, R354: every row that serves a mailbox. Where another request is next, or the request carries
another defined command, the row does nothing. Where a check of R354 fails after the request has been screened, the
response carries the first failing check's status and DETAIL and no payload, and nothing but the request's own
mailbox, the list of accepted requests and the outputs changes. -/
def Obligations.RefusedRequestsChangeNothing : Prop :=
  (∀ row ∈ mailboxRows, ∀ (m : Fin 16) (s : State),
    (s.atHead m = false ∨ ((s.request m).command ≠ row.2.1 ∧ commandCodes.contains (s.request m).command = true)) →
    exec (row.1 m) s = .next s.fresh)
  ∧ ∀ row ∈ mailboxRows, ∀ (m : Fin 16) (s : State) (st : Status) (d : Nat), s.atHead m = true →
    (s.request m).command = row.2.1 → s.screen (s.request m) = .go →
    ({ row.2.2 (s.request m) s.taken with
      refused := (row.2.2 (s.request m) s.taken).refused || s.refuses (s.request m) } : Command).verdict s.mode = some (st, d) →
    Runs (row.1 m) s fun t => Answered s t m st d [] ∧ Only [.out, .mailboxes, .host, .hatband, .log, .image .logStatus] s t

/-- R353, R357, R400, R403, R412 to R414: the commands that only ask. Each is answered OK with what the rule names.
Rows whose own effect completes: SYS_INFO, MODE_GET, SELFTEST_REPORT, LOG_COUNTERS, LOG_FIRST, ECHO. -/
def Obligations.QueryAnswers : Prop :=
  ∀ (m : Fin 16) (s : State),
    (Passes s m 0x0101 sysInfoCommand → Runs (.sysInfo m) s fun t => Answered s t m .ok 0
      (leBytes 0x363532584E 8 ++ leBytes 0xB0 1 ++ leBytes s.mode.code 1 ++ leBytes (s.get F.modeRecord_BOOT_IMAGE) 1
        ++ zeros 1 ++ leBytes Config.romId.toNat 4 ++ leBytes (s.get F.mcVersion_PATCH_ID) 4
        ++ leBytes s.jutanVersion 4 ++ leBytes Config.serialNumber.toNat 8))
    ∧ (Passes s m 0x0102 modeGetCommand → Runs (.modeGet m) s fun t => Answered s t m .ok 0
      (leBytes s.mode.code 1 ++ leBytes (s.get F.modeRecord_PREV_MODE) 1 ++ leBytes (s.get F.modeRecord_CAUSE) 2
        ++ leBytes s.timeInMode 8))
    ∧ (Passes s m 0x0105 selftestReportCommand → Runs (.selftestReport m) s fun t => Answered s t m .ok 0
      (leBytes s.crown.selftestResult 1 ++ leBytes s.crown.selftestCore 1 ++ zeros 2
        ++ leBytes s.crown.selftestFailed 8))
    ∧ (Passes s m 0x0B02 logCountersCommand → Runs (.logCounters m) s fun t => Answered s t m .ok 0
      (leBytes (s.get F.logStatus_LOST) 4 ++ zeros 4
        ++ (List.range 64).flatMap fun c => leBytes (s.log.counters.read 0 c) 4))
    ∧ (Passes s m 0x0B03 logFirstCommand → Runs (.logFirst m) s fun t => Answered s t m .ok 0
      (match s.log.snapshots.find ((s.request m).at 0 1) with
        | some e => e.bytes
        | none => zeros 32))
    ∧ (Passes s m 0x0B05 echoCommand → Runs (.echo m) s fun t => Answered s t m .ok 0
      ((s.request m).payload.take (s.request m).len))

/-- R413: LOG_DRAIN returns and removes the oldest entries; LOG_ACK_OVERFLOW clears OVERFLOW and nothing else of the
log; ERROR_LOG_TAKE takes the oldest report of the intake queue, 2.0 µs after the previous taking at the earliest, and
makes an entry of it with the next sequence number. Rows whose own effect completes: LOG_DRAIN, LOG_ACK_OVERFLOW,
ERROR_LOG_TAKE. -/
def Obligations.ErrorLogEffects : Prop :=
  (∀ (m : Fin 16) (s : State), Passes s m 0x0B01 logDrainCommand → Runs (.logDrain m) s fun t =>
    Done s t m
      (leBytes (s.log.entries.take ((s.request m).at 0 2)).length 2
        ++ leBytes (s.log.entries.drop ((s.request m).at 0 2)).length 2
        ++ leBytes (s.get F.logStatus_OVERFLOW) 1 ++ zeros 3
        ++ (s.log.entries.take ((s.request m).at 0 2)).flatMap LogEntry.bytes)
      fun u => u.log = { s.log with entries := s.log.entries.drop ((s.request m).at 0 2) }
        ∧ Only [.log, .out, .mailboxes] s u)
  ∧ (∀ (m : Fin 16) (s : State), Passes s m 0x0B04 logAckOverflowCommand → Runs (.logAckOverflow m) s fun t =>
    Done s t m (leBytes (s.get F.logStatus_LOST) 4) fun u =>
      u.flag F.logStatus_OVERFLOW = false ∧ u.get F.logStatus_LOST = s.get F.logStatus_LOST
        ∧ u.get F.logStatus_NEXT_SEQ = s.get F.logStatus_NEXT_SEQ
        ∧ Only [.image .logStatus, .out, .mailboxes] s u)
  ∧ (∀ (s : State) (e : LogEntry) (rest : List LogEntry), s.log.intake = e :: rest →
    (∀ x, s.log.lastTake = some x → x + 2 * Config.ticksPerUs ≤ s.clock.now) → s.log.entries.length < 512 →
    Runs .errorLogTake s fun t => t.log.intake = rest ∧ t.log.lastTake = some s.clock.now
      ∧ t.log.entries = s.log.entries ++ [{ e with seq := s.get F.logStatus_NEXT_SEQ }]
      ∧ t.get F.logStatus_NEXT_SEQ = (s.get F.logStatus_NEXT_SEQ + 1) % 2 ^ 32
      ∧ Only [.log, .image .logStatus, .out, .hatband] s t)

/-- R394 to R396, R356: a permitted MODE_SET. A target that is the present mode is answered and changes nothing;
PARKED, RUN and SURVEY are entered and then answered; SAFE is entered and then answered; CALIBRATE begins with the
monitor self-calibration and the answer waits; BOOT is answered first, and every bias channel then ramps to 0. After
10 s a transition to CALIBRATE is withdrawn with TIMEOUT. Rows whose own effect completes: MODE_SET, MODE_SET_TIMEOUT.
-/
def Obligations.ModeSetEffects : Prop :=
  (∀ (m : Fin 16) (s : State) (x : Mode), Passes s m 0x0103 modeSetCommand → modeOf ((s.request m).at 0 1) = some x →
    (x = s.mode → Runs (.modeSet m) s fun t => Answered s t m .ok 0 (leBytes x.code 1 ++ zeros 3))
    ∧ (x ≠ s.mode → x ≠ .safe → x ≠ .calibrate → x ≠ .boot → Runs (.modeSet m) s fun t =>
      Done s t m (leBytes x.code 1 ++ zeros 3) fun u => u.mode = x ∧ u.get F.modeRecord_CAUSE = 1
        ∧ u.get F.modeRecord_PREV_MODE = s.mode.code % 8 ∧ u.get F.modeRecord_MODE_WALL_NS = s.wall)
    ∧ (x ≠ s.mode → x = .safe → s.deferredOf m = none → Runs (.modeSet m) s fun t => t.mode = .safe
      ∧ t.get F.modeRecord_CAUSE = 1 ∧ Answered s t m .ok 0 (leBytes 7 1 ++ zeros 3))
    ∧ (x ≠ s.mode → x = .calibrate → Runs (.modeSet m) s fun t => Deferring s t m (.modeSet .calibrate)
      ∧ t.mode = .calibrate ∧ t.flag F.monStatus_CAL_BUSY = true ∧ t.monitor.calibrating = some s.clock.now)
    ∧ (x ≠ s.mode → x = .boot → s.power.ramp = none → Runs (.modeSet m) s fun t => t.mode = .boot
      ∧ t.power.ramp = some 1 ∧ Answered s t m .ok 0 (leBytes 1 1 ++ zeros 3)))
  ∧ (∀ (m : Fin 16) (s : State) (d : Deferred) (x : Mode), s.deferredOf m = some d → d.wait = .modeSet x →
    d.discard = false → d.since + 10 * Config.ticksPerS ≤ s.clock.now → Runs (.modeSetTimeout m) s fun t =>
      Ended s t d .timeout [] ∧ t.mode = (if s.mode = .calibrate then .parked else s.mode)
        ∧ t.flag F.monStatus_CAL_BUSY = false)

/-- R407, R396: the ways into RESET and out of it. SYSTEM_RESET answers and then ramps every bias channel to 0; after
10 µs, and at a release of RESET_N, BOOT begins with the cause that is held, where the rails stand and nothing holds
the device; RESET_N low puts every record to its reset value and leaves boot flash alone. Rows whose own effect
completes: SYSTEM_RESET, SYSTEM_RESET_HOLD_END, RESET_N_ASSERT, RESET_N_RELEASE. -/
def Obligations.ResetEffects : Prop :=
  (∀ (m : Fin 16) (s : State), Passes s m 0x0104 systemResetCommand → s.power.ramp = none → s.deferredOf m = none →
    Runs (.systemReset m) s fun t => Answered s t m .ok 0 [] ∧ t.power.ramp = some 2 ∧ t.mode = s.mode)
  ∧ (∀ (s : State) (x : Nat), s.power.resetUntil = some x → x ≤ s.clock.now → s.mode = .reset →
    s.power.rails = true → s.power.resetN = true → s.power.stayReset = false → Runs .systemResetHoldEnd s fun t =>
      t.mode = .boot ∧ t.power.resetUntil = none ∧ t.get F.modeRecord_CAUSE = s.power.heldCause % 2 ^ 16)
  ∧ (∀ s : State, s.mode ≠ .reset → Runs .resetNAssert s fun t => t.mode = .reset ∧ t.power.resetN = false
    ∧ t.power.heldCause = 3 ∧ t.flash = s.flash ∧ (∀ r i, t.image r i = r.resetImage i) ∧ t.memory = Memory.init)
  ∧ (∀ s : State, s.mode = .reset → Runs .resetNAssert s fun t => t.power = { s.power with resetN := false }
    ∧ Only [.power, .out] s t)
  ∧ (∀ s : State, s.mode = .reset → s.power.rails = true → s.power.stayReset = false → s.power.resetUntil = none →
    Runs .resetNRelease s fun t => t.mode = .boot ∧ t.power.resetN = true
      ∧ t.get F.modeRecord_CAUSE = s.power.heldCause % 2 ^ 16)

/-- R396, R398, R400, R401: start-up. The loader takes the selected image, or the other one, and goes to SELFTEST, or
with neither to SAFE in recovery; a self-test without failures leads to CALIBRATE, and one with a fatal failure to
SAFE; CALIBRATE ends in PARKED once every group is calibrated, or after 50 ms. Rows whose own effect completes:
SELFTEST_DONE, IMAGE_AUTHENTICATED, CALIBRATE_COMPLETE. -/
def Obligations.BootEffects : Prop :=
  (∀ (s : State) (k : Nat), s.mode = .boot → s.power.ramp = none → s.bootSlot = some k →
    Runs .imageAuthenticated s fun t => t.mode = .selftest ∧ t.flash.running = k
      ∧ t.get F.modeRecord_BOOT_IMAGE = k % 2 ∧ t.flag F.modeRecord_RECOVERY = false)
  ∧ (∀ s : State, s.mode = .boot → s.power.ramp = none → s.bootSlot = none →
    Runs .imageAuthenticated s fun t => t.mode = .safe ∧ t.flag F.modeRecord_RECOVERY = true
      ∧ t.get F.modeRecord_CAUSE = 0x15)
  ∧ (∀ s : State, s.mode = .selftest → s.ownFailures = 0 → s.get F.modeRecord_CORE = 0 → s.crown.noneSince = none →
    Runs (.selftestDone 0) s fun t => t.mode = .calibrate ∧ t.crown.selftestResult = 0 ∧ t.crown.selftestFailed = 0
      ∧ t.flag F.monStatus_CAL_BUSY = true)
  ∧ (∀ (s : State) (failed : BitVec 64) (i : Nat), s.mode = .selftest → i ∈ [0, 1, 4, 5, 6, 7, 8, 9, 12] →
    failed.toNat.testBit i = true → Runs (.selftestDone failed) s fun t =>
      t.mode = .safe ∧ t.get F.modeRecord_CAUSE = 0x13)
  ∧ (∀ (s : State) (x : Nat), s.mode = .calibrate → s.crown.calEnded = some x →
    ((∀ g < 48, g ∈ s.blocking.calDone) ∨ x + 50 * Config.ticksPerMs ≤ s.clock.now) → Runs .calibrateComplete s fun t =>
      t.mode = .parked ∧ t.get F.modeRecord_CAUSE = 0x21 ∧ ∀ d ∈ t.host.deferred, d.wait ≠ .modeSet .calibrate)

/-- R409 to R411: control of the Crown pair. A core that fails its self-diagnosis, or misses its heartbeats where no
mode needs core A, hands over to the standby where the standby may take it; with core A needed the device goes to
SAFE; a core that passes changes nothing. A core takes back, and the watchdog resets a device that no core has held
for 10 ms. Rows whose own effect completes: CROWN_SELF_DIAGNOSIS, HEARTBEAT_TIMEOUT, CROWN_TAKEBACK, CROWN_WATCHDOG.
-/
def Obligations.CrownEffects : Prop :=
  (∀ s : State, Runs (.crownSelfDiagnosis true) s fun t => t = s.fresh)
  ∧ (∀ s : State, coreAModes.contains s.mode = true → s.crown.noneSince = none →
    Runs (.crownSelfDiagnosis false) s fun t => t.mode = .safe ∧ t.get F.modeRecord_CAUSE = 0x14)
  ∧ (∀ s : State, s.mode ∈ [.boot, .selftest, .safe] → s.crown.noneSince = none →
    s.coreFree (1 - s.get F.modeRecord_CORE) = true → Runs .heartbeatTimeout s fun t =>
      t.get F.modeRecord_CORE = 1 - s.get F.modeRecord_CORE ∧ s.get F.modeRecord_CORE ∈ t.crown.released
        ∧ t.get F.modeRecord_HANDOVERS = satAdd (s.get F.modeRecord_HANDOVERS) 1 16 ∧ t.mode = s.mode)
  ∧ (∀ s : State, s.mode ∈ [.boot, .selftest, .safe] → s.crown.noneSince = none →
    s.coreFree (1 - s.get F.modeRecord_CORE) = false → Runs .heartbeatTimeout s fun t =>
      t.get F.modeRecord_CORE = s.get F.modeRecord_CORE ∧ t.crown.noneSince = some s.clock.now)
  ∧ (∀ (s : State) (c : Nat), s.crown.released.find? (fun c => !s.flag (outFlag c)) = some c → c < 2 →
    s.mode ∈ [.boot, .selftest, .safe] → Runs .crownTakeback s fun t => t.get F.modeRecord_CORE = c
      ∧ c ∉ t.crown.released ∧ t.crown.lastTakeback = some (c, s.clock.now) ∧ t.crown.noneSince = none
      ∧ t.get F.modeRecord_TAKEBACKS = satAdd (s.get F.modeRecord_TAKEBACKS) 1 16)
  ∧ (∀ (s : State) (x : Nat), s.crown.noneSince = some x → x + 10 * Config.ticksPerMs ≤ s.clock.now →
    s.power.ramp = none → Runs .crownWatchdog s fun t => t.power.ramp = some 4 ∧ t.mode = s.mode)

/-- R357, R398, R356: boot images. IMAGE_WRITE takes a part; the part that completes an image that authenticates
starts its write to flash, and the command waits for it; an image that does not is answered BAD_RECORD with DETAIL 44.
The write done, the slot holds the image and no IMAGE_WRITE waits; after 30 s it is given up. IMAGE_SELECT selects.
Rows whose own effect completes: IMAGE_WRITE, IMAGE_WRITE_TIMEOUT, IMAGE_SELECT, IMAGE_FLASH_WRITTEN. -/
def Obligations.ImageEffects : Prop :=
  (∀ (m : Fin 16) (s : State) (slot offset total : Nat) (b : List Byte), Passes s m 0x0108 imageWriteCommand →
    slot = (s.request m).at 0 1 → offset = (s.request m).at 4 4 → total = (s.request m).at 8 4 →
    b = s.imageTaken slot offset total ++ (s.request m).payload.drop 12 →
    (b.length < total → Runs (.imageWrite m) s fun t => Done s t m (zeros 4) fun u =>
      u.upload.image = some (slot, total, b) ∧ Only [.upload, .out, .mailboxes] s u)
    ∧ (total ≤ b.length → imageGood b = true → Runs (.imageWrite m) s fun t => Deferring s t m .imageWrite
      ∧ t.upload = { s.upload with image := none, flashing := some (slot, b) })
    ∧ (total ≤ b.length → imageGood b = false → Runs (.imageWrite m) s fun t => Answered s t m .badRecord 44 []
      ∧ t.upload = { s.upload with image := none }))
  ∧ (∀ (s : State) (slot : Nat) (b : List Byte), s.upload.flashing = some (slot, b) →
    Runs .imageFlashWritten s fun t => t.flash.images.find slot = some b ∧ t.upload.flashing = none
      ∧ ∀ d ∈ t.host.deferred, d.wait ≠ .imageWrite)
  ∧ (∀ (m : Fin 16) (s : State) (d : Deferred), s.deferredOf m = some d → d.wait = .imageWrite → d.discard = false →
    d.since + 30 * Config.ticksPerS ≤ s.clock.now → Runs (.imageWriteTimeout m) s fun t =>
      Ended s t d .timeout [] ∧ t.upload.flashing = none ∧ t.flash = s.flash)
  ∧ (∀ (m : Fin 16) (s : State), Passes s m 0x0109 imageSelectCommand → Runs (.imageSelect m) s fun t =>
    Done s t m [] fun u => u.flash = { s.flash with selected := (s.request m).at 0 1 } ∧ Only [.flash, .out, .mailboxes] s u)

/-- R339, R78, R82, R102, R123, R133: record writes that a run defers: MATRIX_COMMIT, MUTED_CLEAR, BIAS_LATCH_CLEAR,
WEIGHT_COMMIT and HIST_CLEAR. Each of them acts at once where its tile is in no active run, and otherwise is kept,
with the sample index at which it was served, for the next shot boundary, behind those that are kept already. A second
MATRIX_COMMIT while one is pending, and a clear of what is not set, change nothing that they name. Rows whose own
effect completes: MATRIX_COMMIT, MUTED_CLEAR, BIAS_LATCH_CLEAR, WEIGHT_COMMIT, HIST_CLEAR. -/
def Obligations.DeferredWriteEffects : Prop :=
  (∀ (m t : Fin 16) (s : State), Writes s (s.fieldWrite m F.matrixControl_COMMIT t 1) →
    (s.flag F.matrixControl_PENDING t = true → Runs (.matrixCommit m t) s fun u => Wrote u fun u => u = s.fresh)
    ∧ (s.flag F.matrixControl_PENDING t = false → s.inRun t = true → Runs (.matrixCommit m t) s fun u => Wrote u fun u =>
      u.flag F.matrixControl_PENDING t = true ∧ u.drive.matrixCommit.find t = some s.si
        ∧ u.drive.matrix = s.drive.matrix)
    ∧ (s.flag F.matrixControl_PENDING t = false → s.inRun t = false → Runs (.matrixCommit m t) s fun u => Wrote u fun u =>
      (∀ d < 16, u.drive.matrix.read 0 (16 * t + d) = s.shadowImage .matrixRow (16 * t + d))
      ∧ u.flag F.matrixControl_PENDING t = false
      ∧ u.get F.matrixControl_COMMIT_COUNT t = satAdd (s.get F.matrixControl_COMMIT_COUNT t) 1 32))
  ∧ (∀ (m : Fin 16) (n : Fin 64) (s : State), Writes s (s.fieldWrite m F.xyStatus_MUTED n 1) →
    (s.flag F.xyStatus_MUTED n = false → Runs (.mutedClear m n) s fun u => Wrote u fun u => u = s.fresh)
    ∧ (s.flag F.xyStatus_MUTED n = true → s.inRun (n / 4) = true → Runs (.mutedClear m n) s fun u => Wrote u fun u =>
      u.drive.muteClear.read [] n = s.drive.muteClear.read [] n ++ [s.si] ∧ u.flag F.xyStatus_MUTED n = true)
    ∧ (s.flag F.xyStatus_MUTED n = true → s.inRun (n / 4) = false → Runs (.mutedClear m n) s fun u => Wrote u fun u =>
      u.flag F.xyStatus_MUTED n = false ∧ Only [.image .xyStatus, .out] s u))
  ∧ (∀ (m : Fin 16) (n : Fin 128) (c o : Bool) (s : State) (v : Nat),
    v = (if c then F.biasStatus_COMP_LATCH.mask else 0) + (if o then F.biasStatus_OL_LATCH.mask else 0) →
    Writes s (s.bareWrite m .biasStatus n v v) →
    ((c && s.flag F.biasStatus_COMP_LATCH n) = false → (o && s.flag F.biasStatus_OL_LATCH n) = false →
      Runs (.biasLatchClear m n c o) s fun u => Wrote u fun u => u = s.fresh)
    ∧ (((c && s.flag F.biasStatus_COMP_LATCH n) || (o && s.flag F.biasStatus_OL_LATCH n)) = true → s.inRun (n / 8) = true →
      Runs (.biasLatchClear m n c o) s fun u => Wrote u fun u =>
        (u.biasOf n).latchClear = (s.biasOf n).latchClear ++
          [((if c && s.flag F.biasStatus_COMP_LATCH n then 1 else 0) + (if o && s.flag F.biasStatus_OL_LATCH n then 2 else 0),
            s.si)]
        ∧ Only [.bias, .out] s u)
    ∧ (((c && s.flag F.biasStatus_COMP_LATCH n) || (o && s.flag F.biasStatus_OL_LATCH n)) = true → s.inRun (n / 8) = false →
      Runs (.biasLatchClear m n c o) s fun u => Wrote u fun u =>
        u.flag F.biasStatus_COMP_LATCH n = (s.flag F.biasStatus_COMP_LATCH n && !c)
        ∧ u.flag F.biasStatus_OL_LATCH n = (s.flag F.biasStatus_OL_LATCH n && !o)
        ∧ (u.latchHolds n = false → .latched ∉ (u.biasOf n).holds)))
  ∧ (∀ (m : Fin 16) (t : Fin 16) (mask : BitVec 32) (s : State),
    Writes s (s.fieldWrite m F.weightControl_COMMIT_MASK t mask.toNat) →
    (s.inRun t = true → Runs (.weightCommit m t mask) s fun u => Wrote u fun u => u.readout.weights = s.readout.weights
      ∧ ∀ j < 32, mask.getLsbD j = true → bit (u.get F.weightControl_PENDING_MASK t) j = true
        ∧ u.readout.weightCommit.read [] (32 * t + j) = s.readout.weightCommit.read [] (32 * t + j) ++ [s.si])
    ∧ (s.inRun t = false → SMap.wf (fun _ => 0) s.readout.weights = true →
      SMap.wf (fun _ => 0) s.readout.weightShadow = true → Runs (.weightCommit m t mask) s fun u => Wrote u fun u =>
        ∀ j < 32, mask.getLsbD j = true → bit (u.get F.weightControl_PENDING_MASK t) j = false
          ∧ ∀ k < 3200, u.readout.weights.read 0 (3200 * (32 * t + j) + k) =
            s.readout.weightShadow.read 0 (3200 * (32 * t + j) + k)))
  ∧ (∀ (m : Fin 16) (k : Fin 256) (s : State), Writes s (s.fieldWrite m F.histConfig_CLEAR k 1) →
    (s.inRun (k / 16) = true → Runs (.histClear m k) s fun u => Wrote u fun u =>
      u.readout.histClear.find k = some (s.readout.histClear.read [] k ++ [s.si]) ∧ u.readout.bins = s.readout.bins)
    ∧ (s.inRun (k / 16) = false → Runs (.histClear m k) s fun u => Wrote u fun u =>
      (∀ b < 4096, u.readout.bins.read 0 (4096 * k + b) = 0) ∧ u.image .histStatus k = 0))

/-- R339, R438, R51, R98, R226: record writes, three families that a write acts on among them. RECORD_WRITE of any
record of the families named puts the masked RW bits of the value into the record and leaves every other bit of it,
every other record of its family and all else alone. A write of a bias configuration leaves LEVEL where it stands, and
a park ramp goes on from there at the new PARK_SLEW; mode OFF ends what SYNC_OUT sends; a trigger output whose
POLARITY is changed changes level. Rows whose own effect completes: RECORD_WRITE. -/
def Obligations.RecordWriteEffects : Prop :=
  (∀ (m : Fin 16) (r : Rec) (i value mask : Nat) (s : State),
    r ∈ [.blockGroup, .blockControl, .xyConfig, .probeConfig, .acqConfig, .patchControl, .program, .trigIn,
      .storeRequester, .slotTable, .ulpStreams, .compareUnit, .bar4Window, .ethPort, .hatbandControl, .thermalControl,
      .monEntries, .monInjEntries] →
    i < r.place.count → Writes s (s.bareWrite m r i value mask) →
    Runs (.recordWrite m (r.id i) value mask) s fun t => Wrote t fun u => Only [.image r, .out] s u
      ∧ Took s u r i value mask)
  ∧ (∀ (m : Fin 16) (value mask : Nat) (s : State), Writes s (s.bareWrite m .syncControl 0 value mask) →
    Runs (.recordWrite m (Rec.syncControl.id 0) value mask) s fun t => Wrote t fun u =>
      Only [.image .syncControl, .clock, .out] s u ∧ Took s u .syncControl 0 value mask
        ∧ (u.get F.syncControl_SYNC_OUT_MODE = 0 → u.clock.syncOutUntil = none
          ∧ (s.clock.syncOutUntil.isSome = true → .syncOut false s.clock.now ∈ u.out)))
  ∧ (∀ (m : Fin 16) (n : Fin 128) (value mask : Nat) (s : State), Writes s (s.bareWrite m .biasConfig n value mask) →
    Runs (.recordWrite m (Rec.biasConfig.id n) value mask) s fun t => Wrote t fun u =>
      Only [.image .biasConfig, .bias, .out] s u ∧ Took s u .biasConfig n value mask ∧ u.level n = s.level n
        ∧ (∀ k, k ≠ n.val → u.biasOf k = s.biasOf k)
        ∧ ∀ p, (s.biasOf n).park = some p → (u.biasOf n).park =
          some { p with l0 := s.level n, start := s.half, slew := u.get F.biasConfig_PARK_SLEW n })
  ∧ (∀ (m : Fin 16) (i : Fin 8) (value mask : Nat) (s : State), Writes s (s.bareWrite m .trigOut i value mask) →
    Runs (.recordWrite m (Rec.trigOut.id i) value mask) s fun t => Wrote t fun u =>
      Only [.image .trigOut, .out] s u ∧ Took s u .trigOut i value mask
        ∧ (u.flag F.trigOut_POLARITY i ≠ s.flag F.trigOut_POLARITY i →
          .trigOut i ((s.trig i).pulseUntil.isSome != u.flag F.trigOut_POLARITY i) ∈ u.out))

/-- R215, R220 to R222, R238, R245: writes that act on Hatband channels, groups and counters, and on the arbiters: a
channel is no longer CUT; a group starts from its INIT; a counter reads 0. STORE_ARBITER_COMMIT and LIB_ARBITER_COMMIT
leave a commit that is under way; a tick then brings the shadow ranks and bursts of all 24 requesters of the store,
and the shadow ranks of a library, into force together. Rows whose own effect completes: CHANNEL_CUT_CLEAR,
GROUP_RECORD_WRITE, HCNT_CLEAR, STORE_ARBITER_COMMIT, LIB_ARBITER_COMMIT. -/
def Obligations.ActingWriteEffects : Prop :=
  (∀ (m : Fin 16) (c : Fin 512) (s : State), Writes s (s.fieldWrite m F.channel_CUT c 1) →
    Runs (.channelCutClear m c) s fun t => Wrote t fun u => u.flag F.channel_CUT c = false
      ∧ Only [.image .channel, .out] s u)
  ∧ (∀ (m : Fin 16) (g : Fin 32) (value mask : BitVec 64) (s : State),
    Writes s (s.bareWrite m .group g value.toNat mask.toNat) → F.group_INIT.mask &&& mask.toNat = F.group_INIT.mask →
    Runs (.groupRecordWrite m g value mask) s fun t => Wrote t fun u =>
      u.get F.group_INIT g = fieldOf value.toNat F.group_INIT ∧ u.get F.group_STATE g = fieldOf value.toNat F.group_INIT
        ∧ Only [.image .group, .out] s u)
  ∧ (∀ (m : Fin 16) (k : Fin 64) (s : State), Writes s (s.fieldWrite m F.eventCounter_CLEAR k 1) →
    Runs (.hcntClear m k) s fun t => Wrote t fun u => u.get F.eventCounter_COUNT k = 0
      ∧ Only [.image .eventCounter, .out] s u)
  ∧ (∀ (m : Fin 16) (s : State), Writes s (s.fieldWrite m F.storeControl_COMMIT 0 1) →
    Runs (.storeArbiterCommit m) s fun t => Wrote t fun u => u.flag F.storeControl_PENDING 0 = true
      ∧ u.storeArb = { s.storeArb with commit := true } ∧ Only [.image .storeControl, .memory, .out] s u)
  ∧ (∀ (m t : Fin 16) (s : State), Writes s (s.fieldWrite m F.libArbiter_COMMIT t 1) →
    Runs (.libArbiterCommit m t) s fun v => Wrote v fun u => u.libArb t = { s.libArb t with commit := true }
      ∧ u.memory.libRanks = s.memory.libRanks ∧ Only [.image .libArbiter, .memory, .out] s u)
  ∧ (∀ s : State, s.pending = [] → s.mode ≠ .reset → s.power.ramp = none → s.storeArb.commit = true →
    ∃ t, step s = .next t ∧ t.flag F.storeControl_PENDING 0 = false ∧ t.storeArb.commit = false
      ∧ t.get F.storeControl_COMMIT_COUNT = satAdd (s.get F.storeControl_COMMIT_COUNT) 1 F.storeControl_COMMIT_COUNT.width
      ∧ ∀ q < 24, t.get F.storeRequester_RANK_ACTIVE q = s.get F.storeRequester_RANK q
        ∧ t.get F.storeRequester_BURST_ACTIVE q = s.get F.storeRequester_BURST q)
  ∧ (∀ (s : State) (t : Fin 16), s.pending = [] → s.mode ≠ .reset → s.power.ramp = none → (s.libArb t).commit = true →
    ∃ u, step s = .next u ∧ (u.libArb t).commit = false
      ∧ u.memory.libRanks.read libRanksDefault t = bits (s.image .libArbiter t) 0 24)

/-- R265 to R270, R275: writes of the port and lane records. A commit starts a swap; power orders, TEST and LOOPBACK
stand in the control record afterwards, and a port in TEST sends its pattern; INJ_GO in mode 1 has one symbol
corrupted. Rows whose own effect completes: PORT_COMMIT, ULP_POWER_WRITE, ULP_TEST_WRITE, ULP_LOOPBACK_WRITE, INJ_GO.
-/
def Obligations.PortWriteEffects : Prop :=
  (∀ (m : Fin 16) (p : Fin 4) (s : State), Writes s (s.fieldWrite m F.ulpControl_COMMIT p 1) →
    Runs (.portCommit m p) s fun t => Wrote t fun u => u.flag F.ulpStatus_SWAP_PENDING p = true
      ∧ (u.port p).commitAt.isSome = true ∧ (u.port p).proposal = 0 ∧ (u.port p).swapAt = none)
  ∧ (∀ (m : Fin 16) (p v w : Fin 4) (s : State),
    Writes s (s.bareWrite m .ulpControl p (v.val <<< F.ulpControl_TX_POWER.lo + w.val <<< F.ulpControl_RX_POWER.lo)
      (F.ulpControl_TX_POWER.mask + F.ulpControl_RX_POWER.mask)) →
    Runs (.ulpPowerWrite m p (some v) (some w)) s fun t => Wrote t fun u =>
      u.get F.ulpControl_TX_POWER p = v ∧ u.get F.ulpControl_RX_POWER p = w)
  ∧ (∀ (m : Fin 16) (p v : Fin 4) (s : State),
    Writes s (s.bareWrite m .ulpControl p (v.val <<< F.ulpControl_TX_POWER.lo) F.ulpControl_TX_POWER.mask) →
    Runs (.ulpPowerWrite m p (some v) none) s fun t => Wrote t fun u => u.get F.ulpControl_TX_POWER p = v
      ∧ u.get F.ulpControl_RX_POWER p = bits (s.rwImage .ulpControl p) F.ulpControl_RX_POWER.lo 2)
  ∧ (∀ (m : Fin 16) (p w : Fin 4) (s : State),
    Writes s (s.bareWrite m .ulpControl p (w.val <<< F.ulpControl_RX_POWER.lo) F.ulpControl_RX_POWER.mask) →
    Runs (.ulpPowerWrite m p none (some w)) s fun t => Wrote t fun u => u.get F.ulpControl_RX_POWER p = w
      ∧ u.get F.ulpControl_TX_POWER p = bits (s.rwImage .ulpControl p) F.ulpControl_TX_POWER.lo 2)
  ∧ (∀ (m : Fin 16) (p : Fin 4) (on : Bool) (s : State),
    Writes s (s.fieldWrite m F.ulpControl_TEST p (if on then 1 else 0)) →
    Runs (.ulpTestWrite m p on) s fun t => Wrote t fun u => u.flag F.ulpControl_TEST p = on)
  ∧ (∀ (m : Fin 16) (p v : Fin 4) (s : State), Writes s (s.fieldWrite m F.ulpControl_LOOPBACK p v) →
    Runs (.ulpLoopbackWrite m p v) s fun t => Wrote t fun u => u.get F.ulpControl_LOOPBACK p = v)
  ∧ (∀ (m : Fin 16) (p : Fin 4) (l : Fin 8) (s : State), Writes s (s.fieldWrite m F.ulpLane_INJ_GO (8 * p + l) 1) →
    bits (s.rwImage .ulpLane (8 * p + l)) F.ulpLane_INJ_MODE.lo 2 = 1 →
    Runs (.injGo m p l) s fun t => Wrote t fun u => (u.port p).injected.read 0 l = 1)

/-- R311, R312, R326, R331, R343, R348, R351, R375, R440: writes that concern the host interface, time and sensors. A
ring that is enabled starts empty and one that is disabled gives up what it had taken; STALLED clears; a failed sensor
waits for readmission; a new time source stands and the device goes to holdover; the owners and the mailboxes that are
masked take their new values and the others keep theirs. Rows whose own effect completes: SENSOR_FAILED_CLEAR,
RING_STALLED_CLEAR, RING_ENABLE, TIME_SOURCE_WRITE, RATE_ADJ_WRITE, OWNERSHIP_WRITE, MAILBOX_ASSIGN_WRITE. -/
def Obligations.HostWriteEffects : Prop :=
  (∀ (m : Fin 16) (f : Fin 8) (i : Fin 33) (s : State), Writes s (s.fieldWrite m F.ring_ENABLE (ringKey f i) 1) →
    s.flag F.ring_ENABLE (ringKey f i) = false → Runs (.ringEnable m f i true) s fun t => Wrote t fun u =>
      u.flag F.ring_ENABLE (ringKey f i) = true ∧ u.host.pi.read 0 (ringKey f i) = 0
        ∧ u.host.ci.read 0 (ringKey f i) = 0)
  ∧ (∀ (m : Fin 16) (f : Fin 8) (i : Fin 33) (s : State), Writes s (s.fieldWrite m F.ring_ENABLE (ringKey f i) 0) →
    s.flag F.ring_ENABLE (ringKey f i) = true → Runs (.ringEnable m f i false) s fun t => Wrote t fun u =>
      u.flag F.ring_ENABLE (ringKey f i) = false ∧ u.host.refills = s.host.refills.drop (ringKey f i)
        ∧ u.host.capBufs = s.host.capBufs.drop (ringKey f i))
  ∧ (∀ (m : Fin 16) (f : Fin 8) (c : Fin 16) (s : State),
    Writes s (s.fieldWrite m F.ring_STALLED (ringKey f (16 + c)) 1) →
    Runs (.ringStalledClear m f c) s fun t => Wrote t fun u => u.flag F.ring_STALLED (ringKey f (16 + c)) = false)
  ∧ (∀ (m : Fin 16) (i : Fin 29) (s : State), Writes s (s.fieldWrite m F.sensor_FAILED i 1) →
    s.flag F.sensor_FAILED i = true → Runs (.sensorFailedClear m i) s fun t => Wrote t fun u =>
      i.val ∈ u.monitor.readmit ∧ u.flag F.sensor_FAILED i = true)
  ∧ (∀ (m : Fin 16) (src : Fin 4) (s : State), Writes s (s.fieldWrite m F.timeControl_SOURCE 0 src) →
    Runs (.timeSourceWrite m src) s fun t => Wrote t fun u => u.get F.timeControl_SOURCE = src
      ∧ (src.val ≠ s.timeSource → u.flag F.timeStatus_LOCKED = false ∧ u.flag F.timeStatus_HOLDOVER = true))
  ∧ (∀ (m : Fin 16) (v : BitVec 32) (s : State), Writes s (s.fieldWrite m F.timeStatus_RATE_ADJ 0 v.toNat) →
    Runs (.rateAdjWrite m v) s fun t => Wrote t fun u => u.get F.timeStatus_RATE_ADJ = v.toNat
      ∧ Only [.image .timeStatus, .out] s u)
  ∧ (∀ (m : Fin 16) (value mask : BitVec 64) (s : State),
    Writes s (s.bareWrite m .ownership 0 value.toNat mask.toNat) →
    Runs (.ownershipWrite m value mask) s fun v => Wrote v fun u => ∀ t < 16,
      (bits mask.toNat (4 * t) 4 = 15 → u.getAt F.ownership_OWNER 0 t = bits value.toNat (4 * t) 4)
      ∧ (bits mask.toNat (4 * t) 4 = 0 → u.getAt F.ownership_OWNER 0 t = bits (s.rwImage .ownership 0) (4 * t) 4))
  ∧ (∀ (m : Fin 16) (value mask : BitVec 128) (s : State),
    Writes s (s.bareWrite m .mailboxAssign 0 value.toNat mask.toNat) →
    Runs (.mailboxAssignWrite m value mask) s fun v => Wrote v fun u => ∀ k < 16,
      (bits mask.toNat (8 * k) 8 = 255 → u.getAt F.mailboxAssign_MBX 0 k = bits value.toNat (8 * k) 8)
      ∧ (bits mask.toNat (8 * k) 8 = 0 → u.getAt F.mailboxAssign_MBX 0 k = bits (s.rwImage .mailboxAssign 0) (8 * k) 8))

/-- R302 to R304: writes that concern capture. CAP_RP takes its value and the chunks before it are gone; a write of
CAP_BASE or CAP_SIZE empties the ring; an output queue that is enabled starts empty; OQ_RP takes its value. Rows whose
own effect completes: CAP_RP_WRITE, CAPTURE_BUFFER_SET, OQ_ENABLE_WRITE, OQ_RP_WRITE. -/
def Obligations.CaptureWriteEffects : Prop :=
  (∀ (m : Fin 16) (v : BitVec 64) (s : State), Writes s (s.fieldWrite m F.capStatus_CAP_RP 0 v.toNat) →
    Runs (.capRpWrite m v) s fun t => Wrote t fun u => u.get F.capStatus_CAP_RP = v.toNat
      ∧ u.capture.written = s.capture.written.filter (fun c => decide (v.toNat ≤ c.at_))
      ∧ Only [.image .capStatus, .capture, .out] s u)
  ∧ (∀ (m : Fin 16) (b z : BitVec 22) (s : State),
    Writes s (s.bareWrite m .capControl 0 (b.toNat <<< F.capControl_CAP_BASE.lo + z.toNat <<< F.capControl_CAP_SIZE.lo)
      (F.capControl_CAP_BASE.mask + F.capControl_CAP_SIZE.mask)) →
    Runs (.captureBufferSet m (some b) (some z)) s fun t => Wrote t fun u => u.get F.capControl_CAP_BASE = b.toNat
      ∧ u.get F.capControl_CAP_SIZE = z.toNat ∧ u.get F.capStatus_CAP_WP = 0 ∧ u.get F.capStatus_CAP_RP = 0
      ∧ u.capture.written = [] ∧ u.capture.staging = [] ∧ u.capture.seqs = [])
  ∧ (∀ (m : Fin 16) (b : BitVec 22) (s : State), Writes s (s.fieldWrite m F.capControl_CAP_BASE 0 b.toNat) →
    Runs (.captureBufferSet m (some b) none) s fun t => Wrote t fun u => u.get F.capControl_CAP_BASE = b.toNat
      ∧ u.get F.capStatus_CAP_WP = 0 ∧ u.get F.capStatus_CAP_RP = 0 ∧ u.capture.written = [] ∧ u.capture.staging = [])
  ∧ (∀ (m : Fin 16) (z : BitVec 22) (s : State), Writes s (s.fieldWrite m F.capControl_CAP_SIZE 0 z.toNat) →
    Runs (.captureBufferSet m none (some z)) s fun t => Wrote t fun u => u.get F.capControl_CAP_SIZE = z.toNat
      ∧ u.get F.capStatus_CAP_WP = 0 ∧ u.get F.capStatus_CAP_RP = 0 ∧ u.capture.written = [] ∧ u.capture.staging = [])
  ∧ (∀ (m q : Fin 16) (on : Bool) (s : State), Writes s (s.fieldWrite m F.outQueue_ENABLE q (if on then 1 else 0)) →
    Runs (.oqEnableWrite m q on) s fun t => Wrote t fun u => u.flag F.outQueue_ENABLE q = on
      ∧ (on = true → s.flag F.outQueue_ENABLE q = false → u.get F.outQueue_WP q = 0 ∧ u.get F.outQueue_RP q = 0))
  ∧ (∀ (m q : Fin 16) (v : BitVec 64) (s : State), Writes s (s.fieldWrite m F.outQueue_RP q v.toNat) →
    s.flag F.outQueue_ENABLE q = true →
    Runs (.oqRpWrite m q v) s fun t => Wrote t fun u => u.get F.outQueue_RP q = v.toNat)

/-- R338, R339: PARAM_GET returns each entry's record in order, the entry's header first, with the readout of one
entry the record's image as it reads; PARAM_SET writes every entry in order and answers OK without a payload. Rows
whose own effect completes: PARAM_GET, PARAM_SET. -/
def Obligations.ParamEffects : Prop :=
  (∀ (m : Fin 16) (s : State) (es : List ParamEntry), Passes s m 0x0C01 paramGetCommand →
    entriesOf (s.request m).payload false = some es → Runs (.paramGet m) s fun t =>
      t = (s.taken.readEntries es).2.reply (s.request m) .ok 0 (s.taken.readEntries es).1
        ∧ Answered s t m .ok 0 (s.taken.readEntries es).1)
  ∧ (∀ (s : State) (e : ParamEntry) (r : Rec) (i : Nat), e.record = some (r, i) →
    (s.readEntries [e]).1 = leBytes (e.id + e.words <<< 16) 8 ++ leBytes (s.readImage r i) (4 * e.words))
  ∧ (∀ (m : Fin 16) (s : State) (es : List ParamEntry), Passes s m 0x0C02 paramSetCommand →
    entriesOf (s.request m).payload true = some es → Runs (.paramSet m) s fun t =>
      t = ((writesFrom (s.request m) es s.taken).foldl (fun u x => u.writeRecord x.2.1) s.taken).reply (s.request m) .ok 0 [])

/-- R24, R230, R242: the pulse library. LIB_WRITE writes its rows whole with their seals and no other byte, and
nothing where a host seal differs; LIB_READ returns rows and seals, and FAULTED where a row reads as poisoned; a
transient parity error is counted, raised and reported; a lasting one also takes a spare row where one remains, the
row then reads as poisoned and its bytes are free, every other byte stands, and no segment of the tile that uses the
row is resident. Rows whose own effect completes: LIB_WRITE, LIB_READ, LIB_PARITY_ERROR. -/
def Obligations.LibraryEffects : Prop :=
  (∀ (m : Fin 16) (s : State) (t first n : Nat), Passes s m 0x0203 libWriteCommand → t = (s.request m).at 0 1 →
    first = (s.request m).at 2 2 → n = (s.request m).at 4 2 →
    ((payloadBlocks (s.request m) 8 n (bit ((s.request m).at 1 1) 0)).2 = true → Runs (.libWrite m) s fun v =>
      Done s v m [] fun u =>
        (∀ i < n, u.libRow t (first + i) = slice (s.request m).payload (8 + 256 * i) 256
          ∧ u.libRowSeal t (first + i) = crc32c (slice (s.request m).payload (8 + 256 * i) 256))
        ∧ (∀ a, a < 2 ^ 22 * t + 256 * first ∨ 2 ^ 22 * t + 256 * (first + n) ≤ a →
          u.memory.lib.read 0 a = s.memory.lib.read 0 a)
        ∧ Only [.library, .memory, .form, .loaded, .out, .mailboxes] s u)
    ∧ ((payloadBlocks (s.request m) 8 n (bit ((s.request m).at 1 1) 0)).2 = false → Runs (.libWrite m) s fun v =>
      Answered s v m .sealMismatch 0 [] ∧ v.memory = s.memory ∧ v.program = s.program))
  ∧ (∀ (m : Fin 16) (s : State) (t first n : Nat), Passes s m 0x0204 libReadCommand → t = (s.request m).at 0 1 →
    first = (s.request m).at 2 2 → n = (s.request m).at 4 2 →
    (anyBlock first n (s.libBad t) = false → Runs (.libRead m) s fun v => Answered s v m .ok 0
      (((List.range n).flatMap fun i => s.libRow t (first + i)) ++
        (List.range n).flatMap fun i => leBytes (s.libRowSeal t (first + i)) 4))
    ∧ (anyBlock first n (s.libBad t) = true → Runs (.libRead m) s fun v => Answered s v m .faulted 0 []))
  ∧ (∀ (t : Fin 16) (row : BitVec 14) (playback : Bool) (s : State), s.mode ≠ .reset →
    Runs (.libParityError t row false playback) s fun u =>
      u.get F.libStatus_PARITY_TRANSIENT t = satAdd (s.get F.libStatus_PARITY_TRANSIENT t) 1 F.libStatus_PARITY_TRANSIENT.width
        ∧ Raised s u (896 + t) 0 0 ∧ Reported s u 5 ∧ u.memory = s.memory)
  ∧ (∀ (t : Fin 16) (row : BitVec 14) (playback : Bool) (s : State), s.mode ≠ .reset →
    Runs (.libParityError t row true playback) s fun u =>
      u.get F.libStatus_PARITY_LASTING t = satAdd (s.get F.libStatus_PARITY_LASTING t) 1 F.libStatus_PARITY_LASTING.width
        ∧ Raised s u (896 + t) 1 0
        ∧ u.libBad t row.toNat = true ∧ u.get F.libStatus_SPARES_LEFT t = s.get F.libStatus_SPARES_LEFT t - 1
        ∧ 16384 * t.val + row.toNat ∈ u.flash.libRetired
        ∧ (∀ a, a < 2 ^ 22 * t + 256 * row.toNat ∨ 2 ^ 22 * t + 256 * row.toNat + 256 ≤ a →
          u.memory.lib.read 0 a = s.memory.lib.read 0 a)
        ∧ ∀ id < 1024, overlaps row.toNat 1 (s.segment t id).libFirst (s.segment t id).libBlocks = true →
          (u.segment t id).resident = false)

/-- R17, R18, R181, R182, R198: what a tile's slots are bound to, its contexts and its program list. A binding and a
list stand as given; contexts come into force at once where the tile is in no active run, and otherwise wait in their
shadow with the sample index of their load, behind those loaded before; SLOT_GET and CTX_READ answer what is in force.
Rows whose own effect completes: SLOT_BIND, SLOT_GET, CTX_LOAD, CTX_READ, PROGRAM_LOAD. -/
def Obligations.SlotEffects : Prop :=
  (∀ (m : Fin 16) (s : State), Passes s m 0x0201 slotBindCommand → Runs (.slotBind m) s fun v => Done s v m [] fun u =>
    u.bindImage ((s.request m).at 0 1) ((s.request m).at 1 1) = (s.request m).at 2 6
      ∧ ∀ k, k ≠ 16 * (s.request m).at 0 1 + (s.request m).at 1 1 →
        u.program.bindings.read 0xFFFFFFFFFFFF k = s.program.bindings.read 0xFFFFFFFFFFFF k)
  ∧ (∀ (m : Fin 16) (s : State), Passes s m 0x0202 slotGetCommand → Runs (.slotGet m) s fun v => Answered s v m .ok 0
    (leBytes ((s.request m).at 0 1) 1 ++ leBytes ((s.request m).at 1 1) 1
      ++ leBytes (s.bindImage ((s.request m).at 0 1) ((s.request m).at 1 1)) 6))
  ∧ (∀ (m : Fin 16) (s : State) (t first n : Nat), Passes s m 0x0205 ctxLoadCommand → t = (s.request m).at 0 1 →
    first = (s.request m).at 2 2 → n = (s.request m).at 4 2 →
    (payloadBlocks (s.request m) 8 n (bit ((s.request m).at 1 1) 0)).2 = true →
    (s.inRun t = false → Runs (.ctxLoad m) s fun v => Done s v m [] fun u => ∀ i < 8 * n,
      u.program.contexts.read 0 (1024 * t + (first + i)) = loadedCtx (s.request m) i)
    ∧ (s.inRun t = true → Runs (.ctxLoad m) s fun v => Done s v m [] fun u =>
      u.program.contexts = s.program.contexts ∧ ∀ i < 8 * n,
        ∃ l, u.program.ctxShadow.find (1024 * t + (first + i)) = some l ∧ l.getLast? = some (loadedCtx (s.request m) i, s.si)
          ∧ ∀ x ∈ s.program.ctxShadow.read [] (1024 * t + (first + i)), x.2 ≠ s.si → x ∈ l))
  ∧ (∀ (m : Fin 16) (s : State) (t first n : Nat), Passes s m 0x0206 ctxReadCommand → t = (s.request m).at 0 1 →
    first = (s.request m).at 2 2 → n = (s.request m).at 4 2 → Runs (.ctxRead m) s fun v => Answered s v m .ok 0
      (leBytes (if s.ctxPending t then 1 else 0) 1 ++ zeros 7
        ++ (List.range n).flatMap fun i => leBytes (s.program.contexts.read 0 (1024 * t + first + i)) 32))
  ∧ (∀ (m : Fin 16) (s : State), Passes s m 0x0208 programLoadCommand → Runs (.programLoad m) s fun v =>
    Done s v m [] fun u => u.list ((s.request m).at 0 1) =
      ((List.range (min ((s.request m).at 2 2) 256)).map fun i => (s.request m).at (4 + 2 * i) 2)
        ∧ ∀ t, t ≠ (s.request m).at 0 1 → u.list t = s.list t)

/-- R236, R240, R241, R276, R277, R282: the stream store and the capture writer. A single-bit error is counted as
corrected; an uncorrectable one is counted, raised and reported, and a lasting one takes a spare page where one
remains, and the page then reads as poisoned. A scrub pass is counted once its SCRUB_PERIOD has passed; an emergency
taking holds the path for 1 to 32 cycles, 312 ticks after the last at the earliest. The oldest staged chunk is
written, and CAP_WP passes it; HIST_DUMP forms a chunk. Rows whose own effect completes: HIST_DUMP,
STORE_UNCORRECTABLE, STORE_EMERGENCY_TAKE, SCRUB_PASS_DONE, CHUNK_WRITTEN. -/
def Obligations.StoreEffects : Prop :=
  (∀ (beat : BitVec 28) (s : State), s.mode ≠ .reset → s.storeOpen = true →
    Runs (.storeUncorrectable beat .single) s fun t => t.get F.storeStatus_CORRECTED =
      satAdd (s.get F.storeStatus_CORRECTED) 1 F.storeStatus_CORRECTED.width ∧ Only [.image .storeStatus, .out] s t)
  ∧ (∀ (beat : BitVec 28) (s : State), s.mode ≠ .reset → s.storeOpen = true →
    Runs (.storeUncorrectable beat .transient) s fun t => t.get F.storeStatus_TRANSIENT =
      satAdd (s.get F.storeStatus_TRANSIENT) 1 F.storeStatus_TRANSIENT.width ∧ Raised s t 912 0 0 ∧ Reported s t 4
        ∧ t.memory = s.memory)
  ∧ (∀ (beat : BitVec 28) (s : State), s.mode ≠ .reset → s.storeOpen = true →
    Runs (.storeUncorrectable beat .lasting) s fun t => t.get F.storeStatus_SPARES_LEFT = s.get F.storeStatus_SPARES_LEFT - 1
      ∧ t.get F.storeStatus_LASTING = satAdd (s.get F.storeStatus_LASTING) 1 F.storeStatus_LASTING.width
      ∧ Raised s t 912 1 0 ∧ Reported s t 4
      ∧ t.beatPoisoned (64 * beat.toNat) = true ∧ beat.toNat / 64 ∈ t.flash.pagesRetired
      ∧ t.memory.store = s.memory.store)
  ∧ (∀ s : State, s.mode ≠ .reset → s.storeOpen = true →
    (∀ x, s.memory.lastTake = some x → x + 312 ≤ s.clock.now) → Runs .storeEmergencyTake s fun t =>
      t.memory.lastTake = some s.clock.now ∧ 1 ≤ t.storeArb.held ∧ t.storeArb.held ≤ 32
        ∧ ({ t.storeArb with held := 0 } : Arbiter) = { s.storeArb with held := 0 } ∧ Only [.memory, .free, .out] s t)
  ∧ (∀ (s : State) (x : Nat), s.memory.lastTake = some x → s.clock.now < x + 312 → Runs .storeEmergencyTake s fun t =>
    t = s.fresh)
  ∧ (∀ s : State, s.mode ≠ .reset → s.storeOpen = true → s.memory.passSince + s.scrubTicks ≤ s.clock.now →
    Runs .scrubPassDone s fun t => t.memory = { s.memory with passSince := s.clock.now } ∧ Raised s t 914 0 0
      ∧ t.get F.storeStatus_SCRUB_PASSES = satAdd (s.get F.storeStatus_SCRUB_PASSES) 1 F.storeStatus_SCRUB_PASSES.width)
  ∧ (∀ (s : State) (c : Chunk) (l : List Chunk), s.mode ≠ .reset → s.storeOpen = true → s.capture.staging = c :: l →
    Runs .chunkWritten s fun t =>
      t.get F.capStatus_CAP_WP = (s.get F.capStatus_CAP_WP + c.bytes) % 2 ^ 64 ∧ t.capture.staging = l
        ∧ (s.flag F.capControl_AUTO = false → t.capture.written =
          s.capture.written ++ [{ c with at_ := s.get F.capStatus_CAP_WP, image := [] }])
        ∧ (c.kind = kindDecision → Raised s t 978 0 0)
        ∧ (c.kind = kindSnapshot → t.flag F.acqStatus_SNAP_BUSY c.tile = false))
  ∧ (∀ (m : Fin 16) (s : State) (slot : Nat), Passes s m 0x0507 histDumpCommand → slot = (s.request m).at 0 1 →
    Runs (.histDump m) s fun t =>
      Done s t m (leBytes (s.chunkSeq kindHistogram (slot / 16)) 4) fun u =>
        u.chunkSeq kindHistogram (slot / 16) = (s.chunkSeq kindHistogram (slot / 16) + 1) % 2 ^ 32
          ∧ (s.chunkFits kindHistogram (256 * 49) = true → u.capture.staging.length = s.capture.staging.length + 1))

/-- R328, R329, R330, R335: what the host reaches directly. A doorbell is accepted into the mailbox assigned to its
function and slot, or counted as dropped while BUSY is 1; HOST_MARK of F0 raises source 1113; a BAR4 read returns the
bytes of the store, or, where one is poisoned, a completion that says so; a BAR4 write within one block is held in the
merge buffer until its block is whole or has not been written for 10 µs, and is then written with its seal; a read
waits while the store is in self-refresh, and an access that has waited for 1 ms is given up. Rows whose own effect
completes: DOORBELL_WRITE, HOST_MARK, BAR4_READ, BAR4_WRITE, MERGE_BLOCK_TIMEOUT, BAR4_SELF_REFRESH_TIMEOUT. -/
def Obligations.HostAccessEffects : Prop :=
  (∀ (f : Fin 8) (k : Fin 4) (tag : BitVec 16) (buf : List Byte) (s : State) (m : Nat), s.hostReaches f = true →
    s.mailboxAt f k = some m →
    ((s.mailbox m).busy = false → Runs (.doorbellWrite f k tag buf) s fun t =>
      t.mailbox m = { s.mailbox m with busy := true, done := false, request := slice buf 0 4096 }
        ∧ t.host.accepted = s.host.accepted ++ [m] ∧ Raised s t (1088 + m) 0 0)
    ∧ ((s.mailbox m).busy = true → Runs (.doorbellWrite f k tag buf) s fun t =>
      t.mailbox m = { s.mailbox m with drops := satAdd (s.mailbox m).drops 1 32 } ∧ t.host.accepted = s.host.accepted))
  ∧ (∀ (f : Fin 8) (s : State), (f = 0 → s.hostReaches 0 = true → Runs (.hostMark f) s fun t => Raised s t 1113 0 0)
    ∧ (f ≠ 0 → Runs (.hostMark f) s fun t => t = s.fresh))
  ∧ (∀ (f : Fin 8) (off : BitVec 28) (n : Fin 4097) (s : State), s.bar4Reaches f = true →
    let a := s.window f off.toNat
    (s.storeOpen = true → s.storeRefuses a n = false → s.storePoisoned a n = false → Runs (.bar4Read f off n) s fun t =>
      t.out = [.completion (s.storeBytes a n) false] ∧ t.storeArb = s.storeArb.ask hostReader (beatsOf n)
        ∧ Only [.memory, .out] s t)
    ∧ (s.storeOpen = true → s.storeRefuses a n = false → s.storePoisoned a n = true → Runs (.bar4Read f off n) s fun t =>
      (∃ d : List Byte, d.length = n ∧ t.out = [.completion d true, .aer]) ∧ Only [.memory, .free, .out] s t)
    ∧ (s.storeOpen = true → s.storeRefuses a n = true → Runs (.bar4Read f off n) s fun t => t.out = [.unsupported])
    ∧ (s.storeOpen = false → Runs (.bar4Read f off n) s fun t => t.out = []
      ∧ t.host.bar4 = s.host.bar4 ++ [{ fn := f, addr := a, len := n, data := none, since := s.clock.now }]))
  ∧ (∀ (f : Fin 8) (off : BitVec 28) (data : List Byte) (s : State), s.bar4Reaches f = true → s.storeOpen = true →
    let a := s.window f off.toNat
    (s.storeRefuses a data.length = true → Runs (.bar4Write f off data) s fun t =>
      t.out = [.aer] ∧ t.memory = s.memory ∧ t.host = s.host)
    ∧ (s.storeRefuses a data.length = false → (∀ y ∈ s.host.merge, y.block ≠ a / 256) → s.host.merge.length < 64 →
      (0 < data.length → data.length < 256 → a % 256 + data.length ≤ 256 → Runs (.bar4Write f off data) s fun t =>
        t.memory = s.memory ∧ ∃ x, t.host.merge = s.host.merge ++ [x] ∧ x.block = a / 256 ∧ x.last = s.clock.now
          ∧ ∀ k, x.bytes.find k =
            if a % 256 ≤ k ∧ k < a % 256 + data.length then some (data.getD (k - a % 256) 0) else none)
      ∧ (data.length = 256 → a % 256 = 0 → Runs (.bar4Write f off data) s fun t => t.storeBytes a 256 = data
        ∧ t.storeBlockSeal (a / 256) = crc32c data ∧ t.host.merge = s.host.merge
        ∧ ∀ j, j < a ∨ a + 256 ≤ j → t.memory.store.read 0 j = s.memory.store.read 0 j)))
  ∧ (∀ (block : BitVec 26) (s : State) (x : Merge), s.host.merge.find? (fun y => y.block = block.toNat) = some x →
    s.storeOpen = true → x.last + 10 * Config.ticksPerUs ≤ s.clock.now → Runs (.mergeBlockTimeout block) s fun t =>
      (∀ i < 256, (∀ b, x.bytes.find i = some b → t.memory.store.read 0 (256 * block.toNat + i) = b)
        ∧ (x.bytes.find i = none → s.beatPoisoned (256 * block.toNat + i) = false →
          t.memory.store.read 0 (256 * block.toNat + i) = s.memory.store.read 0 (256 * block.toNat + i)))
        ∧ t.storeBlockSeal block.toNat = crc32c (t.storeBytes (256 * block.toNat) 256)
        ∧ t.host.merge = s.host.merge.filter (fun y => y.block ≠ block.toNat)
        ∧ ∀ j, j < 256 * block.toNat ∨ 256 * block.toNat + 256 ≤ j →
          t.memory.store.read 0 j = s.memory.store.read 0 j)
  ∧ (∀ (s : State) (w : Bar4Wait) (rest : List Bar4Wait), s.host.bar4 = w :: rest →
    w.since + Config.ticksPerMs ≤ s.clock.now → Runs .bar4SelfRefreshTimeout s fun t =>
      t.host.bar4 = rest ∧ t.memory = s.memory ∧ t.out = if w.data.isNone then [.completerAbort] else [])

/-- R204, R241, R341 to R344, R346, R350: the rings and the 25GBASE-R port. The host moves PI and CI; a refill
descriptor that stands is under way until its segment is resident and it is written back, and one that does not is
written back at once with its status; a capture ring packs whole units into a new buffer or the open one, stalls where
a unit does not fit a new one, refuses a unit in an unusable page with BAD_VALUE, and flushes; the port sends what its
output queue holds. Rows whose own effect completes: REMOTE_DEST, REFILL_PI_WRITE, REFILL_DESCRIPTOR,
SEGMENT_RESIDENT, CAPTURE_PI_WRITE, CAPTURE_RING_FILL, CAPTURE_FLUSH_TIMEOUT, COMPLETION_CI_WRITE,
PCS_ALIGNMENT_CHANGE, REMOTE_DATAGRAM_TX. -/
def Obligations.RingEffects : Prop :=
  (∀ (f : Fin 8) (r : Fin 16) (v : BitVec 32) (s : State), s.hostReaches f = true →
    Runs (.refillPiWrite f r v) s (fun t => t.host.pi.read 0 (ringKey f r) = v.toNat)
    ∧ Runs (.capturePiWrite f r v) s (fun t => t.host.pi.read 0 (ringKey f (16 + r)) = v.toNat)
    ∧ Runs (.completionCiWrite f v) s (fun t => t.host.ci.read 0 (ringKey f 32) = v.toNat))
  ∧ (∀ (f : Fin 8) (r : Fin 16) (d : BitVec 256) (data : List Byte) (seals : List (BitVec 32)) (p : Bool) (s : State),
    s.ringRuns f r = true → s.ringCount (ringKey f r) ≠ 0 → s.host.refills.find (ringKey f r) = none →
    (s.refillVerdict r d.toNat data seals p = none → Runs (.refillDescriptor f r d data seals p) s fun t =>
      let g := segmentOf (le (slice data 0 32) 0 32)
      t.host.refills.find (ringKey f r) = some
        { desc := d.toNat, segId := segmentId (le (slice data 0 32) 0 32), seg := g, words := transferWords data g,
          blocks := transferLib data g, status := .ok })
    ∧ (∀ st, s.refillVerdict r d.toNat data seals p = some st → Runs (.refillDescriptor f r d data seals p) s fun t =>
      WrittenBack s t f r (refillDone d.toNat st) ∧ t.memory = s.memory ∧ t.program = s.program))
  ∧ (∀ (f : Fin 8) (r : Fin 16) (s : State) (x : Refill), s.host.refills.find (ringKey f r) = some x →
    s.storeOpen = true → s.flag F.linkStatus_LINK_UP = true → Runs (.segmentResident f r) s fun t =>
      t.host.refills.find (ringKey f r) = none ∧ WrittenBack s t f r (refillDone x.desc .ok)
        ∧ t.segment r x.segId = x.seg ∧ (∀ i (h : i < x.words.length), t.opWord r (x.seg.opAddr + i) = x.words[i])
        ∧ ((∀ b ∈ x.blocks, b.length = 256) → ∀ i (h : i < x.blocks.length),
          t.libRow r (x.seg.libFirst + i) = x.blocks[i]))
  ∧ (∀ (f : Fin 8) (c : Fin 16) (desc : BitVec 256) (s : State) (data : List Byte), s.ringRuns f (16 + c) = true →
    s.flag F.ring_STALLED (ringKey f (16 + c)) = false →
    s.captureUnit (s.get F.ring_SOURCE (ringKey f (16 + c))) = some data →
    (s.host.capBufs.find (ringKey f (16 + c)) = none → s.ringCount (ringKey f (16 + c)) ≠ 0 →
      captureForm desc.toNat = none →
      s.unitRefused (s.get F.ring_SOURCE (ringKey f (16 + c))) data.length = true →
      Runs (.captureRingFill f c desc) s fun t => WrittenBack s t f (16 + c)
        (captureDone { desc := desc.toNat, filled := 0, units := 0, first := 0 } .badValue))
    ∧ (s.host.capBufs.find (ringKey f (16 + c)) = none → s.ringCount (ringKey f (16 + c)) ≠ 0 →
      captureForm desc.toNat = none →
      s.unitRefused (s.get F.ring_SOURCE (ringKey f (16 + c))) data.length = false →
      (data.length ≤ bits desc.toNat 64 32 → Runs (.captureRingFill f c desc) s fun t =>
        .hostWrite f (bits desc.toNat 0 64 + 0) data ∈ t.out ∧ t.host.capBufs.find (ringKey f (16 + c)) =
          some { desc := desc.toNat, filled := 0 + data.length, units := 1, first := s.clock.now })
      ∧ (bits desc.toNat 64 32 < data.length → Runs (.captureRingFill f c desc) s fun t =>
        WrittenBack s t f (16 + c) (captureDone { desc := desc.toNat, filled := 0, units := 0, first := 0 } .noSpace)
          ∧ t.flag F.ring_STALLED (ringKey f (16 + c)) = true))
    ∧ (∀ b, s.host.capBufs.find (ringKey f (16 + c)) = some b → b.units ≠ 0 →
      s.unitRefused (s.get F.ring_SOURCE (ringKey f (16 + c))) data.length = false → b.filled + data.length ≤ bits b.desc 64 32 →
      Runs (.captureRingFill f c desc) s fun t => .hostWrite f (bits b.desc 0 64 + b.filled) data ∈ t.out
        ∧ t.host.capBufs.find (ringKey f (16 + c)) = some { b with filled := b.filled + data.length, units := b.units + 1 }))
  ∧ (∀ (f : Fin 8) (c : Fin 16) (s : State) (b : CapBuf), s.host.capBufs.find (ringKey f (16 + c)) = some b →
    b.first + s.get F.ring_FLUSH_US (ringKey f (16 + c)) * Config.ticksPerUs ≤ s.clock.now →
    s.flag F.linkStatus_LINK_UP = true → Runs (.captureFlushTimeout f c) s fun t =>
      WrittenBack s t f (16 + c) (captureDone b .ok) ∧ t.host.capBufs.find (ringKey f (16 + c)) = none)
  ∧ (∀ (m : Fin 16) (s : State), Passes s m 0x0509 remoteDestCommand → Runs (.remoteDest m) s fun t =>
    Done s t m [] fun u => u.host.remoteDest = (s.request m).payload ∧ Only [.host, .out, .mailboxes] s u)
  ∧ (∀ (s : State) (q rp n : Nat), s.flag F.ethPort_ENABLE = true → s.flag F.ethPort_REMOTE_EN = true →
    s.flag F.ethPort_LINK_OK = true → s.host.remoteDest ≠ [] → s.storeOpen = true → q = s.get F.ethPort_REMOTE_Q →
    rp = s.get F.outQueue_RP q → n = min 8192 (s.get F.outQueue_WP q - rp) → n ≠ 0 → Runs .remoteDatagramTx s fun t =>
      t.get F.outQueue_RP q = (rp + n) % 2 ^ 64 ∧ t.out = [.datagram (datagramHeader q rp n
        ++ s.ringBytes (4096 * s.get F.outQueue_BASE q) (4096 * s.get F.outQueue_SIZE q) rp n)])
  ∧ (∀ (ok : Bool) (s : State), s.mode ≠ .reset → Runs (.pcsAlignmentChange ok) s fun t =>
    t.flag F.ethPort_LINK_OK = (ok && s.flag F.ethPort_ENABLE))

/-- R320 to R323, R326, R397, R407: PCIe events. An FLR disables the function's rings and clears its mailboxes, of
which a deferred command goes on and its response is discarded; a hot reset and PERST# do so for every function;
PERST# holds the host interface; the link goes down with a count and source 1112, and comes up at its rate and width
(×4 under SHED_X4) and delivers what was held; NumVFs takes its new value and tiles of removed functions pass to F0.
Rows whose own effect completes: PCIE_FLR, PCIE_LINK_UP, NUMVFS_CHANGE, PCIE_HOT_RESET, PERST_ASSERT, PCIE_LINK_DOWN,
PERST_RELEASE. -/
def Obligations.LinkEffects : Prop :=
  (∀ (f : Fin 8) (s : State), s.mode ≠ .reset → Runs (.pcieFlr f) s fun t =>
    (∀ i < 33, t.flag F.ring_ENABLE (ringKey f i) = false)
      ∧ (∀ m < 16, s.mailboxAssigned m = true → s.mailboxFn m = f → t.mailbox m = .init ∧ m ∉ t.host.accepted
        ∧ ∀ d ∈ t.host.deferred, d.m = m → d.discard = true))
  ∧ (∀ s : State, s.mode ≠ .reset → Runs .pcieHotReset s fun t =>
    ∀ f < 8, ∀ i < 33, t.flag F.ring_ENABLE (ringKey f i) = false)
  ∧ (∀ s : State, Runs .perstAssert s fun t => t.host.perst = true ∧ t.mode = s.mode ∧ (s.mode ≠ .reset →
    t.flag F.linkStatus_LINK_UP = false ∧ ∀ f < 8, ∀ i < 33, t.flag F.ring_ENABLE (ringKey f i) = false))
  ∧ (∀ s : State, Runs .perstRelease s fun t => t = { s with out := [], host := { s.host with perst := false } })
  ∧ (∀ s : State, s.flag F.linkStatus_LINK_UP = true → Runs .pcieLinkDown s fun t =>
    t.flag F.linkStatus_LINK_UP = false ∧ t.get F.linkStatus_LINK_DOWN_COUNT =
      satAdd (s.get F.linkStatus_LINK_DOWN_COUNT) 1 F.linkStatus_LINK_DOWN_COUNT.width ∧ Raised s t 1112 0 0)
  ∧ (∀ (rate width : Fin 3) (s : State), s.host.perst = false → s.mode ≠ .reset → Runs (.pcieLinkUp rate width) s fun t =>
    t.flag F.linkStatus_LINK_UP = true ∧ t.get F.linkStatus_RATE = rate
      ∧ t.get F.linkStatus_WIDTH = (if s.flag F.linkStatus_SHED_X4 then 0 else width.val)
      ∧ t.host.heldOut = [] ∧ ∀ o ∈ s.host.heldOut, o ∈ t.out)
  ∧ (∀ (n : Fin 8) (s : State), s.mode ≠ .reset → Runs (.numvfsChange n) s fun t =>
    t.get F.linkStatus_NUM_VFS = n
      ∧ ∀ k < 16, t.owner k = if n.val < s.owner k ∧ s.owner k ≤ s.get F.linkStatus_NUM_VFS then 0 else s.owner k)

/-- R365 to R370, R378, R379, R397, R403: feeds and shedding. A feed qualifies, drops to the other and rejoins; BOOT
begins with the rails in regulation; a stage is entered and left with its number and count, and stage 2 sets SHED_X4
and its end clears it with SELF_REFRESH, stage 4 takes RUN and SURVEY to PARKED, stage 6 begins the ramp of a
power-off; over-voltage begins the same ramp; with no load left the device stands in RESET; a restart clears the
latches. Rows whose own effect completes: FEED_QUALIFY, FEED_DROP, FEED_REJOIN, SHED_STAGE_ENTER, SHED_STAGE_RECOVER,
SELF_REFRESH_ENTER, RAILS_IN_REGULATION, ANALOG_TRIP, POWER_RESTART, FEED_OVER_VOLTAGE, FEEDS_BELOW_5V. -/
def Obligations.PowerEffects : Prop :=
  (∀ (f : Feed) (mv : BitVec 16) (s : State), inRange mv.toNat = true → (s.power.feed f).qualified = false →
    s.latchedOff = false → Runs (.feedQualify f mv) s fun t =>
      t.power = s.power.setFeed f { qualified := true, drawn := true, mv := mv.toNat } ∧ Only [.power, .out] s t)
  ∧ (∀ (f : Feed) (mv : BitVec 16) (s : State), inRange mv.toNat = true → (s.power.feed f).drawn = false →
    (s.power.feed (otherFeed f)).drawn = true → Runs (.feedRejoin f mv) s fun t =>
      t.power = s.power.setFeed f { qualified := true, drawn := true, mv := mv.toNat } ∧ Only [.power, .out] s t)
  ∧ (∀ (f : Feed) (mv : BitVec 16) (s : State), inRange mv.toNat = false → (s.power.feed f).drawn = true →
    (s.power.feed (otherFeed f)).qualified = true → inRange (s.power.feed (otherFeed f)).mv = true →
    Runs (.feedDrop f mv) s fun t => t.power.feed f = { qualified := false, drawn := false, mv := mv.toNat }
      ∧ t.power.feed (otherFeed f) = { s.power.feed (otherFeed f) with drawn := true }
      ∧ t.get (feedDrops f) = satAdd (s.get (feedDrops f)) 1 (feedDrops f).width ∧ Raised s t (feedSource f) 0 0)
  ∧ (∀ s : State, s.powered = true → s.power.rails = false →
    (s.mode = .reset → s.power.resetN = true → s.power.stayReset = false → s.power.resetUntil = none →
      Runs .railsInRegulation s fun t => t.power = { s.power with rails := true } ∧ t.mode = .boot
        ∧ t.get F.modeRecord_CAUSE = s.power.heldCause % 2 ^ 16)
    ∧ (s.mode ≠ .reset ∨ s.power.resetN = false ∨ s.power.stayReset = true ∨ s.power.resetUntil ≠ none →
      Runs .railsInRegulation s fun t =>
      t.power = { s.power with rails := true } ∧ Only [.power, .out] s t))
  ∧ (∀ (mv : BitVec 16) (s : State), s.powered = true → s.mode ≠ .reset → s.shedStage < 6 →
    mv.toNat < shedThreshold (s.shedStage + 1) → Runs (.shedStageEnter mv) s fun t =>
      t.shedStage = s.shedStage + 1
        ∧ t.get F.powerStatus_SHED_ENTRIES = satAdd (s.get F.powerStatus_SHED_ENTRIES) 1 F.powerStatus_SHED_ENTRIES.width
        ∧ (s.shedStage = 1 → t.flag F.linkStatus_SHED_X4 = true)
        ∧ (s.shedStage = 3 → t.mode = if s.mode = .run ∨ s.mode = .survey then .parked else s.mode)
        ∧ (s.shedStage = 5 → s.power.ramp = none → t.power.ramp = some 5))
  ∧ (∀ (mv : BitVec 16) (s : State), 0 < s.shedStage → s.shedStage < 6 →
    shedThreshold s.shedStage + 150 ≤ mv.toNat → Runs (.shedStageRecover mv) s fun t =>
      t.shedStage = s.shedStage - 1 ∧ (s.shedStage = 2 →
        t.flag F.linkStatus_SHED_X4 = false ∧ t.flag F.storeStatus_SELF_REFRESH = false))
  ∧ (∀ s : State, 2 ≤ s.shedStage → (s.storeArb.grant = none → Runs .selfRefreshEnter s fun t =>
      t.flag F.storeStatus_SELF_REFRESH = true ∧ Only [.image .storeStatus, .out] s t)
    ∧ (s.storeArb.grant ≠ none → Runs .selfRefreshEnter s fun t => t = s.fresh))
  ∧ (∀ s : State, s.powered = true → Runs .feedOverVoltage s fun t => t.power.overVoltage = true
    ∧ (s.power.ramp = none → t.power.ramp = some 5))
  ∧ (∀ s : State, (s.powered = true → Runs .feedsBelow5v s fun t => t.powered = false ∧ t.mode = .reset
      ∧ t.power.heldCause = 0 ∧ t.power.rails = false)
    ∧ (s.powered = false → Runs .feedsBelow5v s fun t => t.power = { s.power with heldCause := 0 }))
  ∧ (∀ s : State, s.powered = true → Runs .analogTrip s fun t => t.powered = false ∧ t.mode = .reset
    ∧ t.power.analogTrip = true ∧ t.power.heldCause = 7)
  ∧ (∀ s : State, Runs .powerRestart s fun t => t.power = { s.power with
      thermalOff := false, analogTrip := false, hot := [], watchdogs := [], stayReset := false, dropSeenA := false,
      dropSeenB := false, overVoltage := false }
    ∧ t.mode = if s.mode = .reset ∧ s.power.rails = true ∧ s.power.resetN = true ∧ s.power.resetUntil = none then .boot
      else s.mode)

/-- R371, R373 to R378, R387, R388, R434: temperatures, throttling and PMBus. A sample is taken in and judged; the
warning flag and the throttle follow the levels of all sensors; a conversion fault fails a sensor; the throttle takes
the step that is due; PMBus answers its commands at its target address, and at no other; TELEMETRY and SENSOR_READ
report. The bits of the PMBus status registers are the model's (log 41). Rows whose own effect completes: TELEMETRY,
SENSOR_READ, PMBUS_PAGE, PMBUS_OPERATION, PMBUS_STATUS_READ, PMBUS_READ_VALUE, SENSOR_SAMPLE, PMBUS_REVISION,
THROTTLE_STEP_CHANGE. -/
def Obligations.ThermalEffects : Prop :=
  (∀ (i : Fin 29) (v : Int) (stuck : Bool) (s : State), s.power.thermalOff = false → s.mode ≠ .reset →
    Runs (.sensorSample i v false stuck) s fun t => t.get F.sensor_TEMP i = unsigned (satSigned v 16) 16
      ∧ t.flag F.powerStatus_WARNING = t.anyLevel 1 ∧ t.flag F.powerStatus_THROTTLE_ENGAGED = t.anyLevel 2)
  ∧ (∀ (i : Fin 29) (v : Int) (stuck : Bool) (s : State), s.power.thermalOff = false → s.mode ≠ .reset →
    s.flag F.sensor_FAILED i = false → Runs (.sensorSample i v true stuck) s fun t =>
      t.flag F.sensor_FAILED i = true ∧ t.get F.sensor_FAIL_CAUSE i = 1 ∧ t.get F.sensor_TEMP i = s.get F.sensor_TEMP i
        ∧ t.get F.sensor_FAIL_COUNT i = satAdd (s.get F.sensor_FAIL_COUNT i) 1 F.sensor_FAIL_COUNT.width)
  ∧ (∀ (i : Fin 29) (v : Int) (stuck : Bool) (s : State), s.power.thermalOff = true →
    v < s.threshold 3 - hysteresis → Runs (.sensorSample i v false stuck) s fun t =>
      t.power = { s.power with hot := s.power.hot.filter (· ≠ i.val) } ∧ Only [.power, .out] s t)
  ∧ (∀ s : State, s.mode ≠ .reset → s.atShotBoundary = true → s.nextStep ≠ s.throttleStep →
    Runs .throttleStepChange s fun t => t.throttleStep = s.nextStep ∧ t.power.lastThrottle = s.clock.now
      ∧ t.flag F.fullingStatus_THROTTLED = decide (3 ≤ s.nextStep)
      ∧ t.get F.capStatus_SURVEY_STEP = (if 2 ≤ s.nextStep then s.get F.thermalControl_THR_SURVEY_STEP else 0) %
        2 ^ F.capStatus_SURVEY_STEP.width)
  ∧ (∀ (a : BitVec 7) (s : State), s.answersAt a = (s.pmbusUp && a.toNat = 0x58 + Config.smbAddr.toNat))
  ∧ (∀ (a : BitVec 7) (page : BitVec 8) (s : State), s.answersAt a = true → page.toNat ≤ 1 →
    Runs (.pmbusPage a page) s fun t => t = { s with out := [], power := { s.power with pmbusPage := page.toNat } })
  ∧ (∀ (a : BitVec 7) (s : State), s.answersAt a = true →
    (s.powered = true → s.power.ramp = none → Runs (.pmbusOperation a 0x00) s fun t => t.power.ramp = some 5)
    ∧ (s.power.thermalOff = true → s.power.hot = [] → Runs (.pmbusOperation a 0x80) s fun t =>
      t = { s with out := [], power := { s.power with thermalOff := false } }))
  ∧ (∀ (a : BitVec 7) (x : BitVec 8) (s : State), s.answersAt a = false → ∀ c ∈ [Instr.pmbusPage a x,
    .pmbusOperation a x, .pmbusStatusRead a x, .pmbusReadValue a x, .pmbusRevision a], Runs c s fun t => t = s.fresh)
  ∧ (∀ (a : BitVec 7) (s : State), s.answersAt a = true →
    Runs (.pmbusStatusRead a 0x79) s (fun t => t = { s with out := [.pmbus s.statusWord] })
    ∧ Runs (.pmbusStatusRead a 0x7C) s (fun t => t = { s with out := [.pmbus s.statusInput] })
    ∧ Runs (.pmbusStatusRead a 0x7D) s (fun t => t = { s with out := [.pmbus s.statusTemperature] })
    ∧ Runs (.pmbusReadValue a 0x88) s (fun t => t.out = [.pmbus (Config.linear11 (s.measure s.power.pmbusPage)).toNat])
    ∧ Runs (.pmbusReadValue a 0x89) s (fun t => t.out = [.pmbus (Config.linear11 (s.measure (2 + s.power.pmbusPage))).toNat])
    ∧ Runs (.pmbusReadValue a 0x97) s (fun t => t.out = [.pmbus (Config.linear11 (s.measure (5 + s.power.pmbusPage))).toNat])
    ∧ Runs (.pmbusReadValue a 0x8D) s (fun t => t.out = [.pmbus (Config.linear11
      (10 * max (s.temp (24 + 2 * s.power.pmbusPage)) (s.temp (25 + 2 * s.power.pmbusPage)))).toNat])
    ∧ Runs (.pmbusRevision a) s (fun t => t = { s with out := [.pmbus 0x44] }))
  ∧ (∀ (m : Fin 16) (s : State) (i : Nat), Passes s m 0x0801 telemetryCommand → s.hottest = some i →
    Runs (.telemetry m) s fun t => Answered s t m .ok 0 (leBytes (s.measure 0) 2 ++ leBytes (s.measure 2) 2
      ++ leBytes (s.measure 1) 2 ++ leBytes (s.measure 3) 2 ++ leBytes (s.measure 4) 4 ++ leBytes s.shedStage 1
      ++ leBytes s.throttleStep 1 ++ leBytes i 1 ++ leBytes s.failedSensors 1 ++ leBytes (s.get F.sensor_TEMP i) 2
      ++ zeros 2))
  ∧ (∀ (m : Fin 16) (s : State), Passes s m 0x0802 sensorReadCommand → Runs (.sensorRead m) s fun t =>
    Answered s t m .ok 0 ((List.range 29).flatMap fun i =>
      leBytes (s.get F.sensor_TEMP i) 2 ++ leBytes (s.get F.sensor_FAILED i) 1 ++ zeros 1))

/-- R382 to R386, R390 to R392: the monitor ADC. A trigger starts the regular sequence after START_DELAY, or is
counted as dropped while one runs; a run ends with its results, its count and BUSY clear; an urgent trigger starts the
injected sequence, whose results and wall time are kept; a self-calibration takes its factors where all of them lie
within their limits and ends what waits for it; MON_READ returns the last regular result of each point. Rows whose own
effect completes: MON_READ, MON_CALIBRATE, MON_SEQ_DONE, MON_INJ_TRIGGER, MON_INJ_DONE, MON_SELF_CAL_DONE,
MON_REG_TRIGGER. -/
def Obligations.MonitorEffects : Prop :=
  (∀ (m : Fin 16) (s : State), Passes s m 0x0803 monReadCommand → Runs (.monRead m) s fun t => Answered s t m .ok 0
    ((List.range ((s.request m).at 0 2)).flatMap fun i => leBytes (s.pointResult ((s.request m).at (4 + i) 1)).1 2
      ++ zeros 2 ++ leBytes (s.pointResult ((s.request m).at (4 + i) 1)).2 8))
  ∧ (∀ (m : Fin 16) (s : State), Passes s m 0x0804 monCalibrateCommand → Runs (.monCalibrate m) s fun t =>
    Deferring s t m .monCalibrate ∧ t.flag F.monStatus_CAL_BUSY = true
      ∧ t.monitor.calibrating = some (s.monitor.calibrating.getD s.clock.now))
  ∧ (∀ s : State, s.mode ≠ .reset → s.get F.monControl_REG_TRIG = 1 → s.timerDue = true →
    (s.monitor.regular = none → s.monitor.calibrating = none → Runs .monRegTrigger s fun t =>
      t.flag F.monStatus_REG_BUSY = true ∧ t.monitor = { s.monitor with
        lastTimer := s.clock.now, regular := some (s.clock.now + s.get F.monControl_START_DELAY, none) })
    ∧ (s.monitor.regular ≠ none → Runs .monRegTrigger s fun t => t.get F.monStatus_REG_TRIG_DROP =
      satAdd (s.get F.monStatus_REG_TRIG_DROP) 1 16 ∧ t.monitor = { s.monitor with lastTimer := s.clock.now }))
  ∧ (∀ (s : State) (c : Nat × Nat), s.mode ≠ .reset → s.get F.monControl_REG_TRIG = 2 → s.hatband.monReg = some c →
    s.monitor.regular = none → s.monitor.calibrating = none → Runs .monRegTrigger s fun t =>
      t.flag F.monStatus_REG_BUSY = true ∧ t.hatband.monReg = none
        ∧ t.monitor.regular = some (s.clock.now + s.get F.monControl_START_DELAY, some c))
  ∧ (∀ (codes : List (BitVec 14 × BitVec 64)) (s : State) (t0 : Nat) (cause : Option (Nat × Nat)),
    s.monitor.regular = some (t0, cause) → s.monitor.injected = none → codes.length = s.regEntries.length →
    t0 + conversionTicks * codes.length ≤ s.clock.now → Runs (.monSeqDone codes) s fun t =>
      t.monitor.regular = none ∧ t.flag F.monStatus_REG_BUSY = false
        ∧ t.get F.monStatus_REG_RUNS = satAdd (s.get F.monStatus_REG_RUNS) 1 32
        ∧ ∀ i (h : i < codes.length), (∀ j, i < j → j < codes.length →
            entryPoint (s.regEntry j) ≠ entryPoint (s.regEntry i)) →
          t.monitor.results.read (0xFFFF, 0) (entryPoint (s.regEntry i)) = (codes[i].1.toNat, codes[i].2.toNat))
  ∧ (∀ (c : InjCause) (s u : State) (e : Option (Nat × Nat)), s.fresh.takeUrgent c = some (e, u) →
    (s.monitor.injected = none → s.monitor.calibrating = none → Runs (.monInjTrigger c) s fun t =>
      t.flag F.monStatus_INJ_BUSY = true ∧ t.monitor.injected = some e)
    ∧ (s.monitor.injected ≠ none → Runs (.monInjTrigger c) s fun t => t.get F.monStatus_INJ_TRIG_DROP =
      satAdd (s.get F.monStatus_INJ_TRIG_DROP) 1 16 ∧ t.monitor.injected = s.monitor.injected))
  ∧ (∀ (codes : List (BitVec 14)) (wall : BitVec 64) (s : State) (cause : Option (Nat × Nat)),
    s.monitor.injected = some cause → codes.length = s.injEntries.length → codes.length ≤ 8 →
    Runs (.monInjDone codes wall) s fun t => t.monitor.injected = none ∧ t.flag F.monStatus_INJ_BUSY = false
      ∧ t.get F.monStatus_INJ_RUNS = satAdd (s.get F.monStatus_INJ_RUNS) 1 32
      ∧ t.get F.monInjResults_INJ_WALL_NS = wall.toNat
      ∧ ∀ i (h : i < codes.length), t.getAt F.monInjResults_RESULT 0 i = codes[i].toNat)
  ∧ (∀ (offsets gains : List (BitVec 16)) (s : State) (t0 : Nat), s.monitor.calibrating = some t0 →
    offsets.length = 4 → gains.length = 4 → t0 + calibrationTicks ≤ s.clock.now →
    Runs (.monSelfCalDone offsets gains) s fun t => t.monitor.calibrating = none ∧ t.flag F.monStatus_CAL_BUSY = false
      ∧ (∀ d ∈ t.host.deferred, d.wait ≠ .monCalibrate)
      ∧ (factorsGood offsets gains = true → ∀ k < 4, t.get F.monCal_OFFSET k = (offsets.getD k 0).toNat
        ∧ t.get F.monCal_GAIN k = (gains.getD k 0).toNat
        ∧ t.get F.monCal_CAL_COUNT k = satAdd (s.get F.monCal_CAL_COUNT k) 1 32)
      ∧ (factorsGood offsets gains = false → ∀ k, t.image .monCal k = s.image .monCal k))

/-- R309, R313, R314, R315, R346, R355: the commands of the time service, the compare units and PPS. TIME_SET steps
the clock; TIME_OF_DAY waits for the next edge and TIME_REARM allows one more step; a compare unit fires at its target
and moves on by whole periods, counting those it has missed; an edge with a time of day acquires the clock; PPS_OUT
rises and falls. Rows whose own effect completes: TIME_SET, TIME_OF_DAY, TIME_REARM, PORT_ADDRESS, PTP_STATUS,
COMPARE_FIRE, PPS_IN_EDGE, PPS_MISSING, PPS_OUT_RISE, PPS_OUT_FALL, ULP_TIME_MEASURE. -/
def Obligations.TimeCommandEffects : Prop :=
  (∀ (m : Fin 16) (s : State), Passes s m 0x0601 timeSetCommand → Runs (.timeSet m) s fun t => Done s t m [] fun u =>
    u.wall = (s.request m).at 0 8 % 2 ^ 64 ∧ u.flag F.timeStatus_STEPPED = true ∧ u.flag F.timeStatus_HOLDOVER = false
      ∧ u.get F.timeStatus_STEP_COUNT = satAdd (s.get F.timeStatus_STEP_COUNT) 1 F.timeStatus_STEP_COUNT.width
      ∧ Raised s u 866 0 0)
  ∧ (∀ (m : Fin 16) (s : State), Passes s m 0x0602 timeOfDayCommand → Runs (.timeOfDay m) s fun t => Done s t m [] fun u =>
    u.clock = { s.clock with timeOfDay := some (BitVec.ofNat 64 ((s.request m).at 0 8)) })
  ∧ (∀ (m : Fin 16) (s : State), Passes s m 0x0603 timeRearmCommand → Runs (.timeRearm m) s fun t => Done s t m [] fun u =>
    u.flag F.timeStatus_STEPPED = false ∧ u.clock = s.clock)
  ∧ (∀ (m : Fin 16) (s : State), Passes s m 0x0604 portAddressCommand → Runs (.portAddress m) s fun t =>
    Done s t m [] fun u => u.host.portAddress = (s.request m).payload ∧ Only [.host, .out, .mailboxes] s u)
  ∧ (∀ (m : Fin 16) (s : State), Passes s m 0x0605 ptpStatusCommand → Runs (.ptpStatus m) s fun t => Answered s t m .ok 0
    (leBytes s.clock.ptpState 1 ++ zeros 1 ++ leBytes s.clock.ptpSteps 2 ++ zeros 4
      ++ leBytes ((s.clock.ptpMaster.map fun g => g.1).getD 0) 8
      ++ leBytes s.clock.ptpOffset.toNat 8 ++ leBytes s.clock.ptpPathDelay 8))
  ∧ (∀ (n : Fin 32) (s : State), s.flag F.compareUnit_ARM n = true → 0 ≤ s.compareDiff n → Runs (.compareFire n) s fun t =>
    t.get F.compareUnit_FIRED n = satAdd (s.get F.compareUnit_FIRED n) 1 F.compareUnit_FIRED.width
      ∧ (s.get F.compareUnit_PERIOD n = 0 → t.flag F.compareUnit_ARM n = false)
      ∧ (s.get F.compareUnit_PERIOD n ≠ 0 → t.flag F.compareUnit_ARM n = true
        ∧ t.get F.compareUnit_TARGET n = (s.get F.compareUnit_TARGET n
          + ((s.compareDiff n).toNat / s.get F.compareUnit_PERIOD n + 1) * s.get F.compareUnit_PERIOD n) % 2 ^ 64
        ∧ t.get F.compareUnit_MISSED n = satAdd (s.get F.compareUnit_MISSED n)
          ((s.compareDiff n).toNat / s.get F.compareUnit_PERIOD n) F.compareUnit_MISSED.width))
  ∧ (∀ s : State, s.mode ≠ .reset →
    (s.timeSource ≠ sourcePps → Runs .ppsInEdge s fun t => t.clock = { s.clock with ppsLast := some s.clock.now }
      ∧ Raised s t 867 0 0)
    ∧ (∀ sec : BitVec 64, s.timeSource = sourcePps → s.clock.timeOfDay = some sec → s.flag F.timeStatus_STEPPED = false →
      Runs .ppsInEdge s fun t => t.wall = sec.toNat * 1000000000 % 2 ^ 64 ∧ t.flag F.timeStatus_STEPPED = true
        ∧ t.flag F.timeStatus_HOLDOVER = false ∧ t.clock.timeOfDay = none))
  ∧ (∀ (s : State) (t0 : Nat), s.clock.ppsLast = some t0 → s.timeSource = sourcePps → t0 + 880000000 ≤ s.clock.now →
    Runs .ppsMissing s fun t => t.flag F.timeStatus_HOLDOVER = true ∧ t.flag F.timeStatus_LOCKED = false
      ∧ t.clock.ppsLast = none ∧ Raised s t 868 0 0)
  ∧ (∀ s : State, s.flag F.timeControl_PPS_OUT_EN = true → s.wall % 1000000000 < 2 →
    s.clock.ppsOutSecond ≠ some (s.wall / 1000000000) → Runs .ppsOutRise s fun t => t.out = [.ppsOut true]
      ∧ t.clock.ppsOutUntil = some (s.clock.now + s.get F.timeControl_PPS_WIDTH * Config.ticksPerMs))
  ∧ (∀ (s : State) (t0 : Nat), s.clock.ppsOutUntil = some t0 → t0 ≤ s.clock.now → Runs .ppsOutFall s fun t =>
    t.out = [.ppsOut false] ∧ t.clock = { s.clock with ppsOutUntil := none })
  ∧ (∀ (s : State) (master here : Nat), s.clock.ulpTime = some (master, here) → s.timeSource = sourceUlp →
    s.flag F.timeStatus_STEPPED = false → Runs .ulpTimeMeasure s fun t =>
      t.wall = unsigned ((s.wall : Int) + ((master : Int) - here)) 64 ∧ t.flag F.timeStatus_STEPPED = true
        ∧ t.clock.ulpTime = none
        ∧ t.clock.ulpLastMeasure = (s.port (s.get F.timeControl_TIME_PORT)).superframe)

/-- R311, R314: PTP. A first Announce selects its sender; a one-step Sync gives the offset from the master, and a
two-step one waits for its Follow_Up; a Delay_Resp gives the mean path delay; a master answers Delay_Req with its
time. What a role sends leaves when its interval has passed. An Announce that fails to come ends the master and, with
SOURCE PTP, begins holdover. Rows whose own effect completes: PTP_MESSAGE_RX, PTP_MESSAGE_TX, PTP_ANNOUNCE_TIMEOUT. -/
def Obligations.PtpEffects : Prop :=
  (∀ (g : BitVec 64) (p1 p2 : BitVec 8) (n : BitVec 16) (s : State), s.ptpRuns = true → s.ptpSlave = true →
    s.clock.ptpMaster = none → Runs (.ptpMessageRx (.announce g p1 p2 n)) s fun t => t.clock = { s.clock with
      ptpMaster := some (g.toNat, p1.toNat, p2.toNat), ptpSteps := (n.toNat + 1) % 2 ^ 16,
      ptpLastAnnounce := s.clock.now, ptpState := 8 })
  ∧ (∀ (origin : BitVec 64) (s : State), s.ptpRuns = true → s.ptpSlave = true → s.clock.ptpMaster.isSome = true →
    Runs (.ptpMessageRx (.sync true origin)) s (fun t => t.clock = { s.clock with
      ptpSyncRx := some (s.wall, 0), ptpAwaitFollowUp := true })
    ∧ (s.timeSource ≠ sourcePtp → Runs (.ptpMessageRx (.sync false origin)) s fun t => t.clock = { s.clock with
      ptpSyncRx := some (s.wall, origin.toNat), ptpAwaitFollowUp := false, ptpState := 9,
      ptpOffset := BitVec.ofNat 64 (unsigned (-((origin.toNat : Int) + s.clock.ptpPathDelay - s.wall)) 64) })
    ∧ (s.timeSource = sourcePtp → s.flag F.timeStatus_STEPPED = false →
      Runs (.ptpMessageRx (.sync false origin)) s fun t => t.flag F.timeStatus_STEPPED = true ∧ t.wall =
        unsigned ((s.wall : Int) + ((origin.toNat : Int) + s.clock.ptpPathDelay - s.wall)) 64)
    ∧ (s.timeSource = sourcePtp → s.flag F.timeStatus_STEPPED = true →
      Runs (.ptpMessageRx (.sync false origin)) s fun t => t.wall = s.wall
        ∧ t.get F.timeStatus_RATE_ADJ = unsigned (clampInt (-2684354) 2684354
          (Config.servo (signed (s.get F.timeStatus_RATE_ADJ) 32)
            ((origin.toNat : Int) + s.clock.ptpPathDelay - s.wall))) 32))
  ∧ (∀ (origin : BitVec 64) (s : State) (t2 x : Nat), s.ptpRuns = true → s.ptpSlave = true →
    s.clock.ptpSyncRx = some (t2, x) → s.clock.ptpAwaitFollowUp = true → s.timeSource ≠ sourcePtp →
    Runs (.ptpMessageRx (.followUp origin)) s fun t => t.clock = { s.clock with
      ptpSyncRx := some (t2, origin.toNat), ptpAwaitFollowUp := false, ptpState := 9,
      ptpOffset := BitVec.ofNat 64 (unsigned (-((origin.toNat : Int) + s.clock.ptpPathDelay - t2)) 64) })
  ∧ (∀ s : State, s.ptpRuns = true → s.ptpSlave = false → Runs (.ptpMessageRx .delayReq) s fun t =>
    t.out = [.ptpDelayResp s.wall] ∧ t.clock = s.clock)
  ∧ (∀ (rx : BitVec 64) (s : State) (t1 t2 t3 : Nat), s.ptpRuns = true → s.clock.ptpDelayTx = some t3 →
    s.clock.ptpSyncRx = some (t2, t1) → Runs (.ptpMessageRx (.delayResp rx)) s fun t => t.clock = { s.clock with
      ptpDelayTx := none, ptpPathDelay := ((((t2 : Int) - t1) + ((rx.toNat : Int) - t3)) / 2).toNat })
  ∧ (∀ (k : PtpKind) (s : State), s.ptpRuns = true → s.ptpDue k = true → Runs (.ptpMessageTx k) s fun t =>
    .ptp k s.wall ∈ t.out ∧ (k, s.clock.now) ∈ t.clock.ptpLastTx
      ∧ (k = .sync → s.flag F.timeControl_PTP_TWO_STEP = true → .ptpFollowUp s.wall ∈ t.out)
      ∧ (k = .delayReq → t.clock.ptpDelayTx = some s.wall))
  ∧ (∀ s : State, s.ptpSlave = true → s.clock.ptpMaster.isSome = true →
    s.clock.ptpLastAnnounce + s.get F.timeControl_ANNOUNCE_TIMEOUT * s.ptpInterval .announce ≤ s.clock.now →
    Runs .ptpAnnounceTimeout s fun t => t.clock.ptpMaster = none ∧ t.clock.ptpState = 4
      ∧ (s.timeSource = sourcePtp → t.flag F.timeStatus_HOLDOVER = true ∧ t.flag F.timeStatus_LOCKED = false))

/-- R29, R30, R45 to R53: REFCLK, the PLL and SYNC. The loss of REFCLK or of the lock takes the device to SAFE with
cause 0x0010, but for a device in RESET, which stays there; the lock begins SI, and the wall clock where it has not
begun. An armed SYNC accepts one edge and sets the epoch 2 REFCLK periods later, moved by EPOCH_ADJ; any other edge is
counted as extra. At the epoch SI is 0 and SI_VALID sets. SYNC_OUT carries pulses of 4 REFCLK periods that begin on a
REFCLK rising edge. Rows whose own effect completes: SYNC_ARM, SYNC_PULSE, SYNC_EDGE, REFCLK_LOSS, PLL_LOCK,
PLL_LOCK_LOSS, SI_EPOCH, SYNC_OUT_TRAINING_PULSE, REFCLK_PRESENT, SYNC_OUT_PULSE_END. -/
def Obligations.ClockEffects : Prop :=
  (∀ s : State, s.flag F.gridStatus_REFCLK_OK = true →
    (s.mode = .reset → Runs .refclkLoss s fun t => t.flag F.gridStatus_REFCLK_OK = false
      ∧ t.flag F.gridStatus_PLL_LOCK = false ∧ Only [.out, .image .gridStatus] s t)
    ∧ (s.mode ≠ .reset → Runs .refclkLoss s fun t => t.mode = .safe ∧ t.flag F.gridStatus_REFCLK_OK = false
      ∧ t.flag F.gridStatus_PLL_LOCK = false ∧ t.flag F.gridStatus_SI_VALID = false
      ∧ t.flag F.timeStatus_TIME_VALID = false ∧ t.clock.epochAt = none
      ∧ (s.mode ≠ .safe → t.get F.modeRecord_CAUSE = 0x0010)))
  ∧ (∀ s : State, s.flag F.gridStatus_PLL_LOCK = true → Runs .pllLockLoss s fun t => t.mode = .safe
      ∧ t.flag F.gridStatus_REFCLK_OK = s.flag F.gridStatus_REFCLK_OK
      ∧ t.flag F.gridStatus_PLL_LOCK = false ∧ t.flag F.gridStatus_SI_VALID = false
      ∧ t.flag F.timeStatus_TIME_VALID = false ∧ t.clock.epochAt = none
      ∧ (s.mode ≠ .safe → t.get F.modeRecord_CAUSE = 0x0010))
  ∧ (∀ s : State, Runs .refclkPresent s fun t => t.flag F.gridStatus_REFCLK_OK = true
      ∧ Only [.out, .image .gridStatus] s t)
  ∧ (∀ s : State, s.flag F.gridStatus_REFCLK_OK = true → s.flag F.gridStatus_PLL_LOCK = false → s.mode ≠ .reset →
    Runs .pllLock s fun t => t.flag F.gridStatus_PLL_LOCK = true ∧ t.flag F.timeStatus_TIME_VALID = true ∧ t.si = 0
      ∧ (s.clock.wallStarted = false → t.wall = 0 ∧ t.clock.wallFrac = 0 ∧ t.clock.wallStarted = true)
      ∧ (s.clock.wallStarted = true → t.wall = s.wall ∧ t.flag F.timeStatus_STEPPED = false
        ∧ t.flag F.timeStatus_HOLDOVER = true))
  ∧ (∀ (m : Fin 16) (s : State), Passes s m 0x0106 syncArmCommand →
    ((s.request m).at 0 1 = 1 → Runs (.syncArm m) s fun t =>
      Done s t m (leBytes 0 1 ++ zeros 1 ++ leBytes (s.get F.syncControl_SYNC_PHASE) 2) fun u =>
        u.flag F.gridStatus_SYNC_ARMED = true ∧ u.flag F.gridStatus_SYNC_MARGIN_LOW = false
          ∧ u.clock = { s.clock with edgeAccepted := false })
    ∧ ((s.request m).at 0 1 ≠ 1 → Runs (.syncArm m) s fun t =>
      Done s t m (leBytes (if s.clock.edgeAccepted then 1 else 0) 1 ++ zeros 1
          ++ leBytes (s.get F.syncControl_SYNC_PHASE) 2) fun u =>
        u.flag F.gridStatus_SYNC_ARMED = false ∧ u.clock = s.clock))
  ∧ (∀ (phi : Fin 1024) (s : State), s.mode ≠ .reset →
    (s.flag F.gridStatus_SYNC_ARMED = true → Runs (.syncEdge phi) s fun t => t.get F.syncControl_SYNC_PHASE = phi.val
      ∧ t.flag F.gridStatus_SYNC_ARMED = false
      ∧ t.get F.gridStatus_SYNC_ACCEPT_COUNT = satAdd (s.get F.gridStatus_SYNC_ACCEPT_COUNT) 1 F.gridStatus_SYNC_ACCEPT_COUNT.width
      ∧ t.clock = { s.clock with
          edgeAccepted := true
          epochAt := some ((s.clock.now : Int) + 16 + 8 * signed (s.get F.syncControl_EPOCH_ADJ) 3).toNat }
      ∧ Raised s t 1136 0 0
      ∧ (marginLow phi = true → t.flag F.gridStatus_SYNC_MARGIN_LOW = true ∧ Raised s t 1138 0 0))
    ∧ (s.flag F.gridStatus_SYNC_ARMED = false → Runs (.syncEdge phi) s fun t =>
      t.get F.syncControl_SYNC_PHASE = phi.val ∧ t.clock = s.clock
      ∧ t.get F.gridStatus_SYNC_EXTRA_COUNT = satAdd (s.get F.gridStatus_SYNC_EXTRA_COUNT) 1 F.gridStatus_SYNC_EXTRA_COUNT.width
      ∧ Raised s t 1137 0 0))
  ∧ (∀ (s : State) (t0 : Nat), s.clock.epochAt = some t0 → t0 ≤ s.clock.now → Runs .siEpoch s fun t =>
    t.clock = { s.clock with epochAt := none, si := BitVec.ofNat 64 (16 * (s.clock.now - t0)) }
      ∧ t.flag F.gridStatus_SI_VALID = true ∧ Only [.out, .si, .clock, .drive, .image .gridStatus] s t)
  ∧ (∀ (m : Fin 16) (s : State), Passes s m 0x0107 syncPulseCommand → Runs (.syncPulse m) s fun t =>
    Done s t m (leBytes s.nextRefclk 8) fun u => u.out = [.syncOut true s.refclkTick]
      ∧ u.clock = { s.clock with syncOutUntil := some (s.refclkTick + 32) })
  ∧ (∀ s : State, s.nextRefclk % 128 = 0 ∧ s.si ≤ s.nextRefclk ∧ s.nextRefclk < s.si + 128
    ∧ s.refclkTick = s.clock.now + (s.nextRefclk - s.si) / 16)
  ∧ (∀ s : State, s.get F.syncControl_SYNC_OUT_MODE = 2 → s.flag F.gridStatus_PLL_LOCK = true →
    (∀ t0, s.clock.lastTraining = some t0 → t0 + 8192 ≤ s.refclkTick) → Runs .syncOutTrainingPulse s fun t =>
      t.out = [.syncOut true s.refclkTick] ∧ t.clock = { s.clock with
        lastTraining := some s.refclkTick, syncOutUntil := some (s.refclkTick + 32) })
  ∧ (∀ (s : State) (t0 : Nat), s.clock.syncOutUntil = some t0 → t0 ≤ s.clock.now → Runs .syncOutPulseEnd s fun t =>
    t.out = [.syncOut false t0] ∧ t.clock = { s.clock with syncOutUntil := none })

/-- R54 to R58, R362: Blocking. BLOCK_TAPS returns the taps and targets of a group, and BLOCK_TARGET sets the target
of one trim. A measurement keeps the error of a trim and decides whether the trim steps; where a step may be made now,
the tap moves by one toward the target until it stands there, or, with none, toward the error; no other trim moves. In
CALIBRATE a group whose trims all lie within the start limit at the first full measurement has completed its
calibration. Rows whose own effect completes: BLOCK_TAPS, BLOCK_TARGET, BLOCKING_STEP, FIRST_FULL_MEASUREMENT. -/
def Obligations.BlockingEffects : Prop :=
  (∀ (m : Fin 16) (s : State), Passes s m 0x0901 blockTapsCommand → Runs (.blockTaps m) s fun t => Answered s t m .ok 0
    (leBytes (trimCount ((s.request m).at 0 1)) 2 ++ zeros 2
      ++ (List.range (trimCount ((s.request m).at 0 1))).flatMap fun i =>
        leBytes (s.tap ((s.request m).at 0 1) i) 2 ++ leBytes (s.tapTarget ((s.request m).at 0 1) i) 2))
  ∧ (∀ (m : Fin 16) (s : State), Passes s m 0x0902 blockTargetCommand → Runs (.blockTarget m) s fun t =>
    Done s t m [] fun u => u.tapTarget ((s.request m).at 0 1) ((s.request m).at 1 1) = (s.request m).at 2 2
      ∧ u.blocking.taps = s.blocking.taps
      ∧ ∀ k, k ≠ trimKey ((s.request m).at 0 1) ((s.request m).at 1 1) →
        u.blocking.targets.read 0xFFFF k = s.blocking.targets.read 0xFFFF k)
  ∧ (∀ (g : Fin 49) (trim : Fin 48) (err : Int) (s : State), s.blockingRuns = true → trim.val < trimCount g →
    (s.stepNow g trim = false → Runs (.blockingStep g trim err) s fun t => t.blocking.taps = s.blocking.taps
      ∧ t.blocking.errors.read 0 (trimKey g trim) = err
      ∧ t.blocking.stepping.read false (trimKey g trim) = s.stepsOn g trim err)
    ∧ (s.stepNow g trim = true → Runs (.blockingStep g trim err) s fun t =>
      (s.tapTarget g trim = 0xFFFF → t.tap g trim = if s.stepsOn g trim err = true
        then nudge (s.tap g trim) (decide (0 < err)) (tapCount g trim) else s.tap g trim)
      ∧ (s.tapTarget g trim ≠ 0xFFFF → s.tapTarget g trim ≠ s.tap g trim → t.tap g trim =
        nudge (s.tap g trim) (decide (s.tap g trim < s.tapTarget g trim)) (tapCount g trim)
        ∧ t.tapTarget g trim = if t.tap g trim = s.tapTarget g trim then 0xFFFF else s.tapTarget g trim)
      ∧ (s.tapTarget g trim ≠ 0xFFFF → s.tapTarget g trim = s.tap g trim → t.tap g trim = s.tap g trim
        ∧ t.tapTarget g trim = 0xFFFF)
      ∧ ∀ h i, trimKey h i ≠ trimKey g trim → t.tap h i = s.tap h i))
  ∧ (∀ (g : Fin 49) (errs : List Int) (s : State), s.mode = .calibrate → s.crown.calEnded.isSome = true →
    errs.length = trimCount g → s.blocking.calDone.contains g.val = false → (∀ e ∈ errs, e.natAbs ≤ 192) →
    Runs (.firstFullMeasurement g errs) s fun t => t.blocking.calDone = s.blocking.calDone ++ [g.val]
      ∧ t.get F.blockGroup_CAL_COUNT g = satAdd (s.get F.blockGroup_CAL_COUNT g) 1 F.blockGroup_CAL_COUNT.width
      ∧ t.get F.blockGroup_LAST_CAL_TIME g = s.wall ∧ t.blocking.taps = s.blocking.taps)

/-- R11, R12, R25: the die links. A replayed flit is one transient fault; a flit that fails twice is reported once,
its module retrains, and the shots of the die's tiles are void; a retraining that ends well opens the module, and one
that fails takes the device to SAFE with cause 0x0012. Rows whose own effect completes: FLIT_CRC_FAIL,
FLIT_REPLAY_FAIL, DIE_LINK_RETRAIN_DONE. -/
def Obligations.DieLinkEffects : Prop :=
  (∀ (k : Fin 4) (s : State), s.mode ≠ .reset → s.crown.retraining.contains k.val = false →
    Runs (.flitCrcFail k) s (fun t => Reported s t 7 ∧ Only [.log, .image .logStatus, .out, .hatband] s t)
    ∧ Runs (.flitReplayFail k) s fun t => Reported s t 7 ∧ t.crown = { s.crown with
        retraining := s.crown.retraining ++ [k.val] }
      ∧ ∀ u ∈ tilesOfDie k, ∀ g, (s.tile u).inShot = true → (s.tile u).group = some g → (s.group g).inShot = true →
        u ∈ s.members g → (t.tile u).voided = true)
  ∧ (∀ (k : Fin 4) (s : State), s.crown.retraining.contains k.val = true ∨ s.crown.linksDown.contains k.val = true →
    Runs (.dieLinkRetrainDone k true) s (fun t => Reported s t 8 ∧ t.crown = { s.crown with
      retraining := s.crown.retraining.filter (· ≠ k.val)
      linksDown := s.crown.linksDown.filter (· ≠ k.val) })
    ∧ Runs (.dieLinkRetrainDone k false) s fun t => t.mode = .safe ∧ k.val ∈ t.crown.linksDown
      ∧ k.val ∉ t.crown.retraining ∧ (s.mode ≠ .safe → t.get F.modeRecord_CAUSE = 0x0012))

/-- R122, R123, R126, R143: the commands of readout. WEIGHT_LOAD writes words of a shadow weight set, and nothing
where a host seal differs; HIST_READ returns counts; MODEL_FIT waits, and ends with the fit in the model's shadow and
its weights, iterations and likelihood in the response. Rows whose own effect completes: WEIGHT_LOAD, HIST_READ,
MODEL_FIT, MODEL_FIT_DONE. -/
def Obligations.ReadoutCommandEffects : Prop :=
  (∀ (m : Fin 16) (s : State) (t j first n : Nat), Passes s m 0x0207 weightLoadCommand → t = (s.request m).at 0 1 →
    j = (s.request m).at 1 1 → first = (s.request m).at 2 2 → n = (s.request m).at 4 2 →
    ((payloadBlocks (s.request m) 8 n (bit ((s.request m).at 6 1) 0)).2 = true → Runs (.weightLoad m) s fun x =>
      Done s x m [] fun u => (∀ k < 64 * n, u.readout.weightShadow.read 0 (3200 * (32 * t + j) + 64 * first + k) =
          (s.request m).at (8 + 4 * k) 4)
        ∧ (∀ a, a < 3200 * (32 * t + j) + 64 * first ∨ 3200 * (32 * t + j) + 64 * first + 64 * n ≤ a →
          u.readout.weightShadow.read 0 a = s.readout.weightShadow.read 0 a) ∧ u.readout.weights = s.readout.weights)
    ∧ ((payloadBlocks (s.request m) 8 n (bit ((s.request m).at 6 1) 0)).2 = false → Runs (.weightLoad m) s fun x =>
      Answered s x m .sealMismatch 0 [] ∧ x.readout = s.readout))
  ∧ (∀ (m : Fin 16) (s : State), Passes s m 0x0506 histReadCommand → Runs (.histRead m) s fun t => Answered s t m .ok 0
    (s.histBytes ((s.request m).at 0 1) ((s.request m).at 1 1) ((s.request m).at 2 1)))
  ∧ (∀ (m : Fin 16) (s : State), Passes s m 0x0508 modelFitCommand → Runs (.modelFit m) s fun t =>
    Deferring s t m (.modelFit ((s.request m).at 0 1) ((s.request m).at 1 1)
      ((List.range 6).map fun i => signed ((s.request m).at (4 + 4 * i) 4) 32)) ∧ t.readout = s.readout)
  ∧ (∀ (m : Fin 16) (s : State) (d : Deferred) (slot k : Nat) (centres f : List Int), s.deferredOf m = some d →
    d.wait = .modelFit slot k centres → d.discard = false →
    f = Config.fit (s.image .histConfig slot
      :: (List.range 4096).map fun i => s.readout.bins.read 0 (4096 * slot + i)) k centres →
    Runs (.modelFitDone m) s fun t =>
      Ended s t d .ok (((List.range 3).flatMap fun i => leBytes (unsigned (f.getD (9 + i) 0) 32) 4)
        ++ leBytes (unsigned (f.getD 12 0) 16) 2 ++ zeros 2 ++ leBytes (unsigned (f.getD 13 0) 32) 4)
      ∧ (s.inRun (slot / 16) = true → ∃ l, t.shadows.find (Rec.model.key slot) = some l
        ∧ l.getLast? = some (fittedModel (s.shadowImage .model slot) f, s.si))
      ∧ (s.inRun (slot / 16) = false → t.image .model slot = fittedModel (s.shadowImage .model slot) f))

/-- R111, R117, R124 to R128, R277 to R280: acquisition. A window opens with a count and a source, and takes a
snapshot where it asks for one and none is held; overrange is counted, marked in the windows that cover it, and raised
once a shot; a complete snapshot leaves as a chunk, which holds its tile until it is written or dropped; IQ chunks
leave in order; the records of an ended shot leave in a chunk where they are kept, and its points are binned where it
is not void. Rows whose own effect completes: RECORDS_PASSED, WINDOW_OPEN, ADC_OVERRANGE, SNAPSHOT_DONE,
IQ_CHUNK_FORM. -/
def Obligations.AcquisitionEffects : Prop :=
  (∀ (t : Fin 16) (s : State) (w : Window), (s.acq t).ready s.si = some w → Runs (.windowOpen t) s fun u =>
    (∃ n, { w with ordinal := n } ∈ (u.acq t).windows) ∧ (u.acq t).waiting = removeWindow w (s.acq t).waiting
      ∧ u.get F.acqStatus_WINDOWS t = satAdd (s.get F.acqStatus_WINDOWS t) 1 F.acqStatus_WINDOWS.width
      ∧ Raised s u (704 + 4 * t) 0 0
      ∧ (w.snap = true → s.flag F.acqStatus_SNAP_BUSY t = false → u.flag F.acqStatus_SNAP_BUSY t = true
        ∧ ∃ x, (u.acq t).snapshot = some x ∧ x.start = (w.w + w.ofs).toNat ∧ x.len = s.get F.acqConfig_SNAP_LEN t
          ∧ x.event = false ∧ x.cause = none)
      ∧ (w.snap = true → s.flag F.acqStatus_SNAP_BUSY t = true → u.get F.acqStatus_SNAP_DROP t =
        satAdd (s.get F.acqStatus_SNAP_DROP t) 1 F.acqStatus_SNAP_DROP.width
        ∧ (u.acq t).snapshot = (s.acq t).snapshot))
  ∧ (∀ (t k : Fin 16) (s : State), s.flag F.acqConfig_ADC_ENABLE t = true → s.flag F.gridStatus_PLL_LOCK = true →
    Runs (.adcOverrange t k) s fun u =>
      u.get F.acqStatus_OVR_COUNT t = satAdd (s.get F.acqStatus_OVR_COUNT t) 1 F.acqStatus_OVR_COUNT.width
      ∧ (u.acq t).windows = (s.acq t).windows.map (fun w =>
        if w.covers (s.si + k) && w.ovrAt.isNone then { w with ovrAt := some (s.si + k) } else w)
      ∧ (u.acq t).waiting = (s.acq t).waiting.map (fun w =>
        if w.covers (s.si + k) && w.ovrAt.isNone then { w with ovrAt := some (s.si + k) } else w)
      ∧ ((s.tile t).inShot = true → (s.tile t).endTick = none → (s.acq t).overranged = false →
        (u.acq t).overranged = true ∧ Raised s u (707 + 4 * t) 0 0))
  ∧ (∀ (t : Fin 16) (samples : List (BitVec 12)) (bad : Bool) (s : State) (x : Snapshot),
    (s.acq t).snapshot = some x → samples.length = 256 * x.len → x.start + 256 * x.len ≤ s.si →
    Runs (.snapshotDone t samples bad) s fun u => (u.acq t).snapshot = none
        ∧ u.flag F.acqStatus_SNAP_BUSY t = (s.flag F.acqStatus_SNAP_BUSY t && s.get F.capControl_CAP_SIZE ≠ 0
          && s.chunkFits kindSnapshot (256 * (2 * x.len + 1)))
        ∧ Formed s u kindSnapshot t (256 * (2 * x.len + 1)) ∧ (x.cause = none → Raised s u (706 + 4 * t) 0 0))
  ∧ (∀ (t : Fin 16) (points : List (List (BitVec 16 × BitVec 16))) (s : State) (x : IqRun) (rest : List IqRun),
    (s.acq t).iq = x :: rest → s.capturing = true → 0 < x.due.1 → points.length = popCount x.mask 16 →
    (∀ l ∈ points, l.length = x.due.1 * 2 ^ x.decim) → (x.base + x.step * (x.next + x.due.1) : Nat) + x.ofs ≤ s.si →
    Runs (.iqChunkForm t points) s fun u =>
      (u.acq t).iq = (if x.due.2 then rest else { x with next := x.next + x.due.1 } :: rest)
        ∧ Formed s u kindIq t (256 * ((x.due.1 + 63) / 64 * min points.length x.turns.length + 1)))
  ∧ (∀ (t : Fin 16) (s : State) (l : ShotLog) (rest : List ShotLog), (s.acq t).shots = l :: rest → l.ended = true →
    (s.acq t).decidedAll l.shot = true → Runs (.recordsPassed t) s fun u =>
      (u.acq t).shots = (s.acq t).shots.filter (fun x => x.shot ≠ l.shot)
        ∧ (l.keep = true → s.capturing = true → Formed s u kindDecision t (256 * ((l.recs.length + 15) / 16 + 1)))
        ∧ (l.void = true → u.readout.bins = s.readout.bins)
        ∧ (l.void = false → ∀ k, u.readout.bins.read 0 k = if (l.points.filter fun p => pointBin p = some k) = []
          then s.readout.bins.read 0 k
          else satAdd (s.readout.bins.read 0 k) (l.points.filter fun p => pointBin p = some k).length 24))

/-- R115, R117 to R121, R137 to R142, R147: Pounce. A point of a window, turned to the window's reference, adds its
weighted sample to the running sum; a window that this decides closes, discards the acquisitions that it absorbs, and
raises WINDOWS_CLOSED where no window that began before its end is still open. A decision that is ready leaves its
window, is counted, enters the decisions of the shot in play, and leaves as a source where the window was not cut off.
Rows whose own effect completes: POUNCE_EVALUATE, DECISION_READY. -/
def Obligations.PounceEffects : Prop :=
  (∀ (t u : Fin 16) (i q : BitVec 16) (sealBad : Bool) (s : State) (w x : Window) (p : Int × Int),
    p = referPoint w.turn (i.toInt, q.toInt) →
    ((s.acq t).windows.find? fun y => y.tone = u.val && y.decided.isNone) = some w → w.points < w.complete →
    w.spanEnd w.points + 512 ≤ s.si → x = (w.addPoint i.toInt q.toInt sealBad).judge w.points sealBad →
    (x.points = w.points + 1
      ∧ x.sumI = w.sumI + (w.weight w.points).1 * p.1 - (w.weight w.points).2 * p.2
      ∧ x.sumQ = w.sumQ + (w.weight w.points).1 * p.2 + (w.weight w.points).2 * p.1)
    ∧ (x.decided = none → Runs (.pounceEvaluate t u i q sealBad) s fun v =>
      (v.acq t).windows = replaceOpen u x (s.acq t).windows ∧ (v.acq t).waiting = (s.acq t).waiting)
    ∧ (x.decided ≠ none → Runs (.pounceEvaluate t u i q sealBad) s fun v =>
      (v.acq t).waiting = (s.acq t).waiting.filter (fun y => !x.absorbs y)
        ∧ (v.acq t).windows = replaceOpen u { x with
            overlaps := x.overlaps + ((s.acq t).waiting.filter x.absorbs).length } (s.acq t).windows
        ∧ ((∀ y ∈ (v.acq t).windows, y.decided = none → x.closedAt ≤ y.w + y.ofs) → Raised s v (705 + 4 * t) 0 0)))
  ∧ (∀ (w : Window) (n : Nat) (sealBad : Bool),
    (w.lambda = 0 → n + 1 = w.complete → (w.judge n sealBad).decided = some (3, false, false, n, 0, false))
    ∧ (w.lambda ≠ 0 → w.valid = true → sealBad = true →
      (w.judge n sealBad).decided = some (3, false, false, n, 0, false))
    ∧ (w.stopsAt n = true → sealBad = false →
      (w.judge n sealBad).decided = some ((w.best n).1, false, true, n, marginCode (w.margin n), false)))
  ∧ (∀ (t u : Fin 16) (s : State) (w : Window) (d : Decision),
    ((s.acq t).windows.find? fun y => y.tone = u.val) = some w → w.decision = some d → w.readyAt d ≤ s.si →
    Runs (.decisionReady t u) s fun v =>
      (v.acq t).windows = removeWindow w (s.acq t).windows
      ∧ v.get F.pounceStatus_DECISIONS w.slot =
        satAdd (s.get F.pounceStatus_DECISIONS w.slot) 1 F.pounceStatus_DECISIONS.width
      ∧ (d.early = true → v.get F.pounceStatus_EARLY_STOPS w.slot =
        satAdd (s.get F.pounceStatus_EARLY_STOPS w.slot) 1 F.pounceStatus_EARLY_STOPS.width)
      ∧ (d.invalid = true → v.get F.pounceStatus_MODEL_INVALID w.slot =
        satAdd (s.get F.pounceStatus_MODEL_INVALID w.slot) 1 F.pounceStatus_MODEL_INVALID.width)
      ∧ v.get F.pounceStatus_LAST_OUTCOME w.slot = d.outcome % 2 ^ F.pounceStatus_LAST_OUTCOME.width
      ∧ v.get F.pounceStatus_LAST_STOP w.slot = d.stop % 2 ^ F.pounceStatus_LAST_STOP.width
      ∧ v.get F.acqStatus_ACQ_OVERLAP t = satAdd (s.get F.acqStatus_ACQ_OVERLAP t) w.overlaps F.acqStatus_ACQ_OVERLAP.width
      ∧ ((s.tile t).inShot = true → s.get F.runStatus_SHOT_SEQ t = w.shot % 2 ^ 32 →
        v.tile t = (s.tile t).decide (w.slot % 16) w.serial d)
      ∧ (w.trunc = false → Raised s v w.slot d.outcome (if d.lowConf then 1 else 0)))

/-- R201, R206, R208, R356, R358 to R360: run control. RUN_START forms the lowest free group with the tiles of its
mask, at the first base that is at least 8,000 ticks on; RUN_STOP ends a run between shots at once, and waits for the
end of a shot in progress, which kind 1 voids; after 6 s it is withdrawn; RUN_RESUME lets a waiting run go on, no
earlier than the fetch lead after it (the model's choice, assumption entry on the resume base); RUN_JUMP puts a
request on its way to each tile; RUN_STATUS returns the group. Rows whose own effect completes: RUN_START, RUN_STOP,
RUN_STOP_TIMEOUT, RUN_RESUME, RUN_JUMP, RUN_STATUS. -/
def Obligations.RunCommandEffects : Prop :=
  (∀ (m : Fin 16) (s : State) (g : Nat), Passes s m 0x0301 runStartCommand → g = s.freeGroup →
    s.upload.patchSince = none → Runs (.runStart m) s fun t =>
      Done s t m (leBytes g 1 ++ zeros 7 ++ leBytes (if (s.request m).at 12 2 = 0xFFFF then s.firstBase else 0) 8) fun u =>
        u.group g = { RunGroup.init with
          state := .running, mask := (s.request m).at 0 2, owner := (s.request m).fn, policy := (s.request m).at 2 1
          shots := (s.request m).at 4 4, gap := (s.request m).at 8 4, base := s.firstBase
          startEvc := if (s.request m).at 12 2 = 0xFFFF then none else some ((s.request m).at 12 2)
          awaitStart := decide ((s.request m).at 12 2 ≠ 0xFFFF) }
        ∧ (∀ i ∈ bitList ((s.request m).at 0 2) 16, u.tile i =
          { TileRun.init with group := some g, suspect := (s.tile i).suspect })
        ∧ (∀ i, i ∉ bitList ((s.request m).at 0 2) 16 → u.tile i = s.tile i)
        ∧ ∀ k < 32, u.flag F.group_STATE k = s.flag F.group_INIT k)
  ∧ (∀ (m : Fin 16) (s : State) (g : Nat), Passes s m 0x0302 runStopCommand → g = (s.request m).at 0 1 →
    s.deferredOf m = none →
    ((s.group g).inShot = false → Runs (.runStop m) s fun t => Answered s t m .ok 0 (s.runFigures g)
      ∧ (t.group g).state = .idle ∧ ∀ i ∈ s.members g, (t.tile i).group = none)
    ∧ ((s.group g).inShot = true → (s.request m).at 1 1 = 0 → Runs (.runStop m) s fun t =>
      Deferring s t m (.runStop g) ∧ t.group g = { s.group g with stopAfter := true })
    ∧ ((s.group g).inShot = true → (s.request m).at 1 1 = 1 → Runs (.runStop m) s fun t =>
      Deferring s t m (.runStop g) ∧ (t.group g).abort = true
        ∧ (∀ i ∈ s.members g, (t.engine i).haltPending = true)
        ∧ ∀ i ∈ s.members g, (s.tile i).group = some g → (t.tile i).voided = true))
  ∧ (∀ (m : Fin 16) (s : State) (d : Deferred) (g : Nat), s.deferredOf m = some d → d.wait = .runStop g →
    d.discard = false → d.since + 6 * Config.ticksPerS ≤ s.clock.now → Runs (.runStopTimeout m) s fun t =>
      Ended s t d .timeout [] ∧ t.group g = { s.group g with stopAfter := false, abort := false }
        ∧ ∀ i ∈ s.members g, (t.engine i).haltPending = false)
  ∧ (∀ (m : Fin 16) (s : State) (g : Nat), Passes s m 0x0303 runResumeCommand → g = (s.request m).at 0 1 →
    (s.group g).startLatch = none → Runs (.runResume m) s fun t => Done s t m [] fun u =>
      u.group g = { s.group g with
        state := .running, missing := []
        base := max (s.group g).base ((s.si + 15) / 16 * 16 + 16 * Config.fetchLead) }
      ∧ ∀ i ∈ s.members g, u.get F.runStatus_RUN_STATE i = 1)
  ∧ (∀ (m : Fin 16) (s : State), Passes s m 0x0304 runJumpCommand → Runs (.runJump m) s fun t => Done s t m [] fun u =>
    (∀ i ∈ bitList ((s.request m).at 0 2) 16, u.tile i = { s.tile i with
        jumps := (s.tile i).jumps ++ [⟨(s.request m).at 2 1, 0, none, false⟩] })
      ∧ ∀ i, i ∉ bitList ((s.request m).at 0 2) 16 → u.tile i = s.tile i)
  ∧ (∀ (m : Fin 16) (s : State) (x : RunGroup), Passes s m 0x0305 runStatusCommand →
    x = s.group ((s.request m).at 0 1) → Runs (.runStatus m) s fun t => Answered s t m .ok 0
      (leBytes x.state.code 1 ++ leBytes x.policy 1 ++ leBytes x.mask 2 ++ leBytes x.shots 4
        ++ leBytes (x.seq % 2 ^ 32) 4 ++ leBytes (x.voided % 2 ^ 32) 4))

/-- R32, R200 to R203, R206, R439: shots. A shot starts at its base for every tile of its group; one that overruns is
reported, voided and ended; at its end the tiles are between shots and the next base follows, or the run ends, or it
waits to resume. A jump request becomes pending, replaces one that is, or, where it comes late, is deferred or
dropped. Rows whose own effect completes: SHOT_START, SHOT_OVERRUN, SHOT_END_BOUNDARY, JUMP_REQUEST. -/
def Obligations.ShotEffects : Prop :=
  (∀ (g : Fin 16) (s : State) (x : RunGroup), x = s.group g → x.state = .running → x.inShot = false →
    x.awaitStart = false → x.base ≤ s.si → s.si < x.base + 16 → s.startBlocked g = false →
    (∀ i ∈ s.members g, (s.tile i).prepared = true) → Runs (.shotStart g) s fun t =>
      t.group g = { x with
        inShot := true, seq := if x.started then x.seq + 1 else x.seq, started := true, startLatch := none
        startHops := none }
      ∧ ∀ i ∈ s.members g, t.tile i = { s.tile i with inShot := true, latches := [] }
        ∧ t.get F.runStatus_SHOT_SEQ i = (if x.started then x.seq + 1 else x.seq) % 2 ^ 32
        ∧ t.get F.runStatus_RUN_STATE i = (if (s.tile i).stoodDown.isSome then 2 else 1)
        ∧ (x.startHops = none → Raised s t (seqSource i 5) 0 0
          ∧ ((s.tile i).stoodDown = none → Raised s t (seqSource i 7) 0 0)))
  ∧ (∀ (t : Fin 16) (s : State), s.playsShot t = true → 0xFFFFFFFF ≤ s.tick t → Runs (.shotOverrun t) s fun u =>
    Raised s u (seqSource t 3) 0 0 ∧ Reported s u 20 ∧ (u.tile t).endTick = some 0xFFFFFFFF
      ∧ Raised s u (seqSource t 6) 0 0
      ∧ ∀ g, (s.tile t).group = some g → (s.group g).inShot = true → t.val ∈ s.members g → (u.tile t).voided = true)
  ∧ (∀ (g : Fin 16) (s : State) (x : RunGroup) (e : Nat), x = s.group g → s.shotEnd g = some e → x.state = .running →
    x.inShot = true → x.base + 16 * e ≤ s.si →
    (s.runOver g = true → Runs (.shotEndBoundary g) s fun t => (t.group g).state = .idle
      ∧ (∀ i ∈ s.members g, (t.tile i).group = none) ∧ ∀ d ∈ t.host.deferred, d.wait ≠ .runStop g)
    ∧ (s.runOver g = false → s.upload.patchSince = none → x.startLatch = none →
      (x.missing = [] → Runs (.shotEndBoundary g) s fun t =>
        t.group g = { x with
          inShot := false, shotVoid := false, lateLogged := false, barriers := [], startHops := none
          base := x.base + 16 * (e + x.gap * s.gapFactor), awaitStart := x.startEvc.isSome }
        ∧ ∀ i ∈ s.members g, t.tile i =
          { s.tile i with inShot := false, prepared := false, voided := false, jump := none })
      ∧ (x.missing ≠ [] → Runs (.shotEndBoundary g) s fun t => (t.group g).state = .waitResume
        ∧ ∀ i ∈ s.members g, t.get F.runStatus_RUN_STATE i = 3)))
  ∧ (∀ (t : Fin 16) (s : State) (j : Jump) (rest : List Jump) (late : Bool), (s.tile t).jumps = j :: rest →
    late = (s.playsShot t && ((s.tile t).chosen.isSome
      || decide ((s.segmentEnd t : Int) < s.tick t + Config.switchLead + 6))) →
    (late = true → s.flag F.program_JUMP_LATE t = true → Runs (.jumpRequest t) s fun u =>
      u.tile t = { s.tile t with jumps := rest }
        ∧ u.get F.runStatus_JUMP_DROP t = satAdd (s.get F.runStatus_JUMP_DROP t) 1 F.runStatus_JUMP_DROP.width
        ∧ Raised s u (seqSource t 8) 0 0)
    ∧ ((late = false ∨ s.flag F.program_JUMP_LATE t = false) → Runs (.jumpRequest t) s fun u =>
      u.tile t = { s.tile t with
        jumps := rest
        jump := some { j with deferred := late && (s.tile t).chosen.isNone } }
      ∧ ((s.tile t).jump.isSome = true → u.get F.runStatus_JUMP_REPLACED t =
        satAdd (s.get F.runStatus_JUMP_REPLACED t) 1 F.runStatus_JUMP_REPLACED.width)
      ∧ (late = true → u.get F.runStatus_JUMP_DEFER t =
        satAdd (s.get F.runStatus_JUMP_DEFER t) 1 F.runStatus_JUMP_DEFER.width)))

/-- R36, R190, R194, R197 to R200, R204, R205: segments. A coming shot is prepared with its first segment, underruns
where that was not resident when it was checked, in the shot before it or now, or faults where the list is empty; a
successor is checked 64 ticks before its boundary and underruns where it is not resident; at 40 ticks it is chosen and
loaded, a block that fails its seal voiding the shot; at the boundary it begins, or the shot of the tile ends. Rows
whose own effect completes: SEGMENT_FETCH_DEADLINE, SWITCH_POINT, SEGMENT_BOUNDARY. -/
def Obligations.SegmentEffects : Prop :=
  (∀ (t : Fin 16) (s : State) (g id : Nat), (s.tile t).group = some g → (s.group g).inShot = true →
    s.playsShot t = true → (s.tile t).chosen = none →
    (s.tile t).fetched = false → (s.segmentEnd t : Int) ≤ s.tick t + Config.fetchLead →
    (s.nextEntry t).1.bind (s.listSegment t) = some id →
    ((s.segment t id).resident = true → Runs (.segmentFetchDeadline t) s fun u =>
      u.tile t = { s.tile t with fetched := true, chosenSeg := some id, first := (u.tile t).first }
        ∧ Only [.out, .runs] s u)
    ∧ ((s.segment t id).resident = false → (s.tile t).stoodDown = none → Runs (.segmentFetchDeadline t) s fun u =>
      u.get F.runStatus_UNDERRUN_COUNT t = satAdd (s.get F.runStatus_UNDERRUN_COUNT t) 1 F.runStatus_UNDERRUN_COUNT.width
        ∧ Raised s u (seqSource t 1) 0 0 ∧ Reported s u 1 ∧ (u.tile t).stoodDown = some (s.tick t).toNat
        ∧ (t.val, id) ∈ (u.group g).missing))
  ∧ (∀ (t : Fin 16) (s : State) (g b id : Nat), (s.tile t).group = some g → (s.group g).inShot = true →
    (s.tile t).inShot = true → (s.tile t).fetched = true → (s.tile t).first = none → s.comingBase g = some b →
    b ≤ s.si + 16 * Config.fetchLead → s.listSegment t 0 = some id → Runs (.segmentFetchDeadline t) s fun u =>
      u.tile t = { s.tile t with first := some (s.segment t id).resident } ∧ Only [.out, .runs] s u)
  ∧ (∀ (t : Fin 16) (s : State) (g : Nat) (x : RunGroup), (s.tile t).group = some g → x = s.group g →
    x.state = .running → x.inShot = false → (s.tile t).prepared = false →
    x.awaitStart = false → s.startBlocked g = false → x.base ≤ s.si + 16 * Config.fetchLead →
    (∀ id, s.listSegment t 0 = some id → (s.tile t).first.getD (s.segment t id).resident = false →
      Runs (.segmentFetchDeadline t) s fun u => Raised s u (seqSource t 1) 0 0 ∧ Reported s u 1
        ∧ u.get F.runStatus_UNDERRUN_COUNT t =
          satAdd (s.get F.runStatus_UNDERRUN_COUNT t) 1 F.runStatus_UNDERRUN_COUNT.width
        ∧ (u.tile t).stoodDown.isSome = true ∧ (t.val, id) ∈ (u.group g).missing)
    ∧ (∀ id, s.listSegment t 0 = some id → (s.tile t).first.getD (s.segment t id).resident = true →
      Runs (.segmentFetchDeadline t) s fun u => (u.tile t).prepared = true ∧ (u.tile t).base = x.base ∧ (u.tile t).pc = 0 ∧ (u.tile t).ended = false
        ∧ u.get F.runStatus_SEG_ID t = id % 2 ^ F.runStatus_SEG_ID.width ∧ u.get F.runStatus_LIST_POS t = 0
        ∧ ∀ c < 8, u.getAt F.counters_CNT t c = 0)
    ∧ (s.listSegment t 0 = none → Runs (.segmentFetchDeadline t) s fun u => Raised s u (seqSource t 9) 0 0
      ∧ Reported s u 16 ∧ (u.group g).abort = true ∧ (u.tile t).stoodDown.isSome = true))
  ∧ (∀ (t : Fin 16) (sealBad : Bool) (s : State), s.playsShot t = true → (s.tile t).chosen = none →
    (s.tile t).ended = true → (s.segmentEnd t : Int) ≤ s.tick t + Config.switchLead →
    (∀ e j id, s.nextEntry t = (some e, j) → s.listSegment t e = some id → (s.segment t id).resident = true →
      (s.tile t).stoodDown = none →
      (sealBad = false → Runs (.switchPoint t sealBad) s fun u => (u.tile t).chosen = some (some e)
        ∧ (u.tile t).chosenSeg = some id ∧ (u.tile t).pc = 0 ∧ (u.tile t).ended = false
        ∧ (u.tile t).instances =
          if !j && e = s.get F.runStatus_LIST_POS t then (s.tile t).instances + 1 else 1)
      ∧ (sealBad = true → Runs (.switchPoint t sealBad) s fun u => (u.tile t).chosen = some none
        ∧ (u.tile t).chosenSeg = none ∧ (u.tile t).ended = true))
    ∧ (∀ j, s.nextEntry t = (none, j) → Runs (.switchPoint t sealBad) s fun u => u.tile t = { s.tile t with
        jump := none, chosen := some none, chosenSeg := none, last := bit (s.endWord t) 0 }))
  ∧ (∀ (t : Fin 16) (s : State), s.playsShot t = true → (s.segmentEnd t : Int) ≤ s.tick t →
    (∀ e, (s.tile t).chosen = some (some e) → Runs (.segmentBoundary t) s fun u =>
      u.get F.runStatus_SEG_ID t = (s.tile t).chosenSeg.getD 0 % 2 ^ F.runStatus_SEG_ID.width
        ∧ u.get F.runStatus_LIST_POS t = e % 2 ^ F.runStatus_LIST_POS.width
        ∧ u.tile t = { s.tile t with
          segBase := s.segmentEnd t, chosen := none, chosenSeg := none, chosenHops := none, fetched := false }
        ∧ ((s.tile t).chosenHops = none → Raised s u (seqSource t 7) 0 0))
    ∧ ((s.tile t).chosen = some none → Runs (.segmentBoundary t) s fun u =>
      (u.tile t).endTick = some (s.segmentEnd t) ∧ (u.tile t).ended = true ∧ Raised s u (seqSource t 6) 0 0))

/-- R212, R216 to R220, R224, R226: Hatband. Of the events that arrive, those whose source the channel enables in that
cycle are dropped by the gate or the cut, or merge into one activation; an activation is counted, reaches the inputs
bound to its channel, and counts once in LATCH_HELD where a latch is set; a group switches, and OFF governs; trigger
balls accept, drop, mask and unmask, and end their pulses; EVC_STATUS_READ returns the records of channels, and
CUT_RESTORE clears every cut. Rows whose own effect completes: EVC_STATUS_READ, CUT_RESTORE, HATBAND_ARRIVAL,
HATBAND_DELIVERY, GROUP_SWITCH, TRIG_IN_ACCEPT, TRIG_IN_STUCK, TRIG_IN_UNMASK, TRIG_OUT_PULSE_END. -/
def Obligations.HatbandEffects : Prop :=
  (∀ (m : Fin 16) (s : State), Passes s m 0x0401 evcStatusReadCommand → Runs (.evcStatusRead m) s fun t =>
    Answered s t m .ok 0 ((List.range ((s.request m).at 2 2)).flatMap fun i =>
      leBytes (s.image .channelStatus ((s.request m).at 0 2 + i)) 16))
  ∧ (∀ (m : Fin 16) (s : State), Passes s m 0x0402 cutRestoreCommand → Runs (.cutRestore m) s fun t =>
    Done s t m (leBytes s.cutChannels.length 2 ++ zeros 2) fun u => ∀ c < 512, u.flag F.channel_CUT c = false)
  ∧ (∀ (c : Fin 512) (n : Fin 10) (s : State) (now rest : List Event),
    takeEvents c n s.hatband.arriving = (now, rest) → ∀ l, l = now.filter (s.enables c) →
    (l = [] → Runs (.hatbandArrival c n) s fun t => t.hatband = { s.hatband with arriving := rest }
      ∧ Only [.out, .hatband] s t)
    ∧ (l ≠ [] → s.gated c = true → Runs (.hatbandArrival c n) s fun t => t.hatband = { s.hatband with arriving := rest }
      ∧ t.get F.channelStatus_GATED_DROP c = satAdd (s.get F.channelStatus_GATED_DROP c) 1 16)
    ∧ (l ≠ [] → s.gated c = false → s.flag F.channel_CUT c = true → Runs (.hatbandArrival c n) s fun t =>
      t.hatband = { s.hatband with arriving := rest }
      ∧ t.get F.channelStatus_CUT_DROP c = satAdd (s.get F.channelStatus_CUT_DROP c) 1 16)
    ∧ (l ≠ [] → s.gated c = false → s.flag F.channel_CUT c = false → Runs (.hatbandArrival c n) s fun t =>
      t.hatband.arriving = rest
        ∧ t.hatband.delivering = s.hatband.delivering ++ [{ mergeEvents c l with held := s.switchHeld c }]
        ∧ t.get F.channelStatus_LATCH_HELD c = satAdd (s.get F.channelStatus_LATCH_HELD c)
          (if s.switchHeld c then 1 else 0) F.channelStatus_LATCH_HELD.width
        ∧ t.get F.channelStatus_MERGES c = satAdd (s.get F.channelStatus_MERGES c) (l.length - 1) 16
        ∧ t.get F.channelStatus_LAST_P c = (mergeEvents c l).p % 4
        ∧ t.get F.channelStatus_LAST_F c = (mergeEvents c l).f % 2
        ∧ t.get F.channelStatus_LAST_H c = (mergeEvents c l).h % 4
        ∧ ∀ g < 32, (s.flag F.group_ON_EN g = true → s.get F.group_ON_EVC g = c → (g, true) ∈ t.hatband.switching)
          ∧ (s.flag F.group_OFF_EN g = true → s.get F.group_OFF_EVC g = c → (g, false) ∈ t.hatband.switching)))
  ∧ (∀ (c : Fin 512) (s : State) (e : Event) (l rest : List Event),
    takeEvents c 1 s.hatband.delivering = (e :: l, rest) → Runs (.hatbandDelivery c) s fun t =>
      t.get F.channelStatus_ACTIVATIONS c = satAdd (s.get F.channelStatus_ACTIVATIONS c) 1 32
        ∧ t.hatband.delivering = rest
        ∧ t.get F.channelStatus_LATCH_HELD c = satAdd (s.get F.channelStatus_LATCH_HELD c)
          (if !e.held && s.findsLatch c then 1 else 0) F.channelStatus_LATCH_HELD.width
        ∧ (∀ k < 64, s.flag F.eventCounter_ENABLE k = true → s.get F.eventCounter_EVC k = c →
          t.get F.eventCounter_COUNT k = satAdd (s.get F.eventCounter_COUNT k) (min e.n 8) 32)
        ∧ (∀ i < 8, s.flag F.trigOut_ENABLE i = true → s.get F.trigOut_EVC i = c →
          (t.trig i).pulseUntil = some (s.clock.now + s.get F.trigOut_WIDTH i)
            ∧ ((s.trig i).pulseUntil = none → .trigOut i (s.trigLevel i true) ∈ t.out))
        ∧ ∀ i < 16, (s.tile i).inShot = true → s.namesChannel i c = true → (s.tile i).latch c = none →
          (c.val, e.p, e.f, e.h) ∈ (t.tile i).latches)
  ∧ (∀ (g : Fin 32) (s : State), ((g.val, true) ∈ s.hatband.switching ∨ (g.val, false) ∈ s.hatband.switching) →
    Runs (.groupSwitch g) s fun t =>
      t.flag F.group_STATE g = !s.hatband.switching.contains (g.val, false)
        ∧ t.hatband = { s.hatband with switching := s.hatband.switching.filter fun x => x.1 ≠ g })
  ∧ (∀ (i : Fin 8) (s : State) (x : Trig), x = s.trig i → s.mode ≠ .reset → s.flag F.trigIn_ENABLE i = true →
    s.flag F.trigInStatus_MASKED i = false →
    ((∀ l, x.lastEdge = some l → l + s.get F.trigIn_MIN_INTERVAL i ≤ s.clock.now) → Runs (.trigInAccept i) s fun t =>
      t.trig i = { x with
          lastEdge := some s.clock.now, activeSince := some s.clock.now, inactiveSince := none, seen := some s.clock.now }
        ∧ t.flag F.trigInStatus_LEVEL i = true ∧ Raised s t (1120 + i) 0 0
        ∧ t.get F.trigInStatus_EDGES i = satAdd (s.get F.trigInStatus_EDGES i) 1 32
        ∧ t.get F.trigInStatus_EDGE_SI i = (s.si / 16 * 16 - 16 * (s.get F.trigIn_FILTER i - 1)) % 2 ^ 64)
    ∧ (∀ l, x.lastEdge = some l → s.clock.now < l + s.get F.trigIn_MIN_INTERVAL i → Runs (.trigInAccept i) s fun t =>
      t.trig i = { x with
          activeSince := some s.clock.now, inactiveSince := none, overrateSeen := true, seen := some s.clock.now }
        ∧ t.flag F.trigInStatus_LEVEL i = true
        ∧ t.get F.trigInStatus_TRIG_OVERRATE i = satAdd (s.get F.trigInStatus_TRIG_OVERRATE i) 1 16
        ∧ (x.overrateSeen = false → Raised s t (1128 + i) 1 0 ∧ Reported s t 29)))
  ∧ (∀ (i : Fin 8) (s : State) (x : Trig) (a : Nat), x = s.trig i → x.activeSince = some a →
    s.flag F.trigIn_ENABLE i = true → s.flag F.trigInStatus_MASKED i = false →
    a + 8000 * s.get F.trigIn_STUCK i ≤ s.clock.now → Runs (.trigInStuck i) s fun t =>
      t.flag F.trigInStatus_MASKED i = true ∧ Raised s t (1128 + i) 2 0 ∧ Reported s t 29
        ∧ t.get F.trigInStatus_STUCK_COUNT i = satAdd (s.get F.trigInStatus_STUCK_COUNT i) 1 14
        ∧ t.flag F.trigInStatus_LEVEL i = true
        ∧ t.trig i = { x with activeSince := none, inactiveSince := some s.clock.now, seen := some s.clock.now })
  ∧ (∀ (i : Fin 8) (s : State) (x : Trig) (a : Nat), x = s.trig i → x.inactiveSince = some a →
    s.flag F.trigInStatus_MASKED i = true → a + Config.ticksPerMs ≤ s.clock.now → Runs (.trigInUnmask i) s fun t =>
      t.flag F.trigInStatus_MASKED i = false ∧ t.flag F.trigInStatus_LEVEL i = false ∧ Raised s t (1128 + i) 3 0
        ∧ Reported s t 29 ∧ t.trig i = { x with inactiveSince := none, seen := some s.clock.now })
  ∧ (∀ (i : Fin 8) (s : State) (a : Nat), (s.trig i).pulseUntil = some a → a ≤ s.clock.now →
    Runs (.trigOutPulseEnd i) s fun t => t.trig i = { s.trig i with pulseUntil := none } ∧ t.out = [.trigOut i (s.trigLevel i false)])

/-- R150, R179, R180, R194: timed words. A timed word that names a time before the present position of its segment
takes PROGRAM_FAULT; one whose tick is more than 256 ticks ahead waits, and nothing changes. -/
def Obligations.TimedWordTiming : Prop :=
  ∀ row ∈ timedRows, ∀ (t : Fin 16) (k : Fin 29) (s : State), Dispatches s t row.2 →
    (s.relLate t (s.wordAt t) = true → Runs (row.1 t k) s fun u => Faulted s u t)
    ∧ (s.relLate t (s.wordAt t) = false → s.tick t + Config.lookahead < s.wordTick t (s.wordAt t) →
      Runs (row.1 t k) s fun u => u = s.fresh)

/-- R15, R33, R38, R66, R69, R90, R180 to R185, R231: the words that drive. PLAY and PLAY_PARAM add one pulse to the
tone that the context names, with its library range, length, amplitude, phase and frequency offset, at its placed
instant and with its first row read 4 ticks later or, behind others, after them; they wait while the tone's 4 units
are taken, and do nothing where the range is empty. FRAME adds one update to its tone, and BIAS_SET, BIAS_RAMP and
BIAS_SINE one operation to their channel, at the placed instant; an operation leaves no earlier than 256 ticks before
it and with 4 of its channel held at most, and none overtakes another. A context that names no such target takes
PROGRAM_FAULT. Rows whose own effect completes: PLAY, PLAY_PARAM, FRAME, BIAS_SET, BIAS_RAMP, BIAS_SINE. -/
def Obligations.PulseWordEffects : Prop :=
  (∀ row ∈ playWords, ∀ (t : Fin 16) (s : State) (c : Nat) (v : Nat × Nat × Int), Timed s t row.2.1 →
    c = s.context t (ctxOf (s.wordAt t)) → v = row.2.2.2 c (s.extAt t) →
    (s.targetTone t (s.wordAt t) = none → Runs (row.1 t) s fun u => Faulted s u t)
    ∧ ∀ (probe : Bool) (n : Nat), s.targetTone t (s.wordAt t) = some (probe, n) →
      (ctxLibLen c = 0 → Runs (row.1 t) s fun u => GoesOn s u t row.2.2.1 (s.tile t)
        ∧ Only [.out, .runs, .engines, .image .engineStatus] s u)
      ∧ (ctxLibLen c ≠ 0 → 4 ≤ (s.tone (toneKey t probe n)).units.length → Runs (row.1 t) s fun u => Waits s u t (s.tile t)
        ∧ Only [.out, .engines, .image .engineStatus] s u)
      ∧ (ctxLibLen c ≠ 0 → (s.tone (toneKey t probe n)).units.length < 4 → Runs (row.1 t) s fun u =>
        GoesOn s u t row.2.2.1 (s.tile t) ∧ Only [.out, .drive, .memory, .runs, .engines, .image .engineStatus] s u
        ∧ (∀ k, k ≠ toneKey t probe n → u.tone k = s.tone k)
        ∧ (u.tone (toneKey t probe n)).units.length = (s.tone (toneKey t probe n)).units.length + 1
        ∧ (∀ p ∈ (s.tone (toneKey t probe n)).units, ∃ q ∈ (u.tone (toneKey t probe n)).units,
          { q with grid := p.grid, start := p.start } = p)
        ∧ ∀ i, i = placed (s.tile t).base (s.wordTick t (s.wordAt t)) (offsetOf (s.wordAt t)) (ctxFrac c) (s.edgeOffset t
            ((s.tile t).setAt (s.wordTick t (s.wordAt t)) (ctxTset c)) (toneLocal probe n)) →
          ∃ p ∈ (u.tone (toneKey t probe n)).units, p = {
            base := (s.tile t).base, tick := s.wordTick t (s.wordAt t), offs := offsetOf (s.wordAt t)
            frac := ctxFrac c, dflt := ctxTset c, placed := 16 * i.1.toNat + i.2
            ready := s.half + max 8 (((s.memory.firstReads.read [] t).filter (fun h => s.half < h)).length + 7)
            libPtr := ctxLibPtr c, libLen := ctxLibLen c
            length := if ctxDuration c = 0 then ctxLibLen c else ctxDuration c
            amp := v.1, phase := v.2.1, fofs := v.2.2, grid := p.grid, start := p.start }))
  ∧ (∀ (t : Fin 16) (s : State) (w : Nat), Timed s t .frame → w = s.wordAt t →
    (s.targetTone t w = none → Runs (.frame t) s fun u => Faulted s u t)
    ∧ ∀ (probe : Bool) (n : Nat), s.targetTone t w = some (probe, n) → Runs (.frame t) s fun u => GoesOn s u t 2 (s.tile t)
      ∧ Only [.out, .drive, .runs, .engines, .image .engineStatus] s u
      ∧ (∀ k, k ≠ toneKey t probe n → u.tone k = s.tone k)
      ∧ ∃ x : FrameUpdate, (u.tone (toneKey t probe n)).updates = insertUpdate x (s.tone (toneKey t probe n)).updates
        ∧ x.ext = s.extAt t ∧ x.setFreq = bit w 38 ∧ x.setFrame = bit w 39
        ∧ x.absolute = (if bit w 40 then bit w 41 else s.toneAbsolute t probe n)
        ∧ x.base = (s.tile t).base ∧ x.tick = s.wordTick t w ∧ x.offs = offsetOf w
        ∧ x.due = (placed (s.tile t).base (s.wordTick t w) (offsetOf w) 0
          (s.edgeOffset t ((s.tile t).setAt (s.wordTick t w) 0) (toneLocal probe n))).1.toNat)
  ∧ (∀ row ∈ biasWords, ∀ (t : Fin 16) (k : Fin 29) (s : State) (w : Nat), Timed s t row.2.1 → w = s.wordAt t →
    (s.targetBias t w = none → Runs (row.1 t k) s fun u => Faulted s u t)
    ∧ ∀ c, s.targetBias t w = some c → Runs (row.1 t k) s fun u => GoesOn s u t 2 (s.tile t)
      ∧ Only [.out, .drive, .bias, .runs, .engines, .image .engineStatus, .image .lateStatus] s u
      ∧ (∀ n, n ≠ 8 * t.val + c → u.biasOf n = s.biasOf n)
      ∧ ∃ o : BiasOp, u.biasOf (8 * t + c) = { s.biasOf (8 * t + c) with ops := insertOp o (s.biasOf (8 * t + c)).ops }
        ∧ o.act = row.2.2 (s.extAt t) ∧ o.pd = ctxPdSel (s.context t (ctxOf w))
        ∧ o.due = (placed (s.tile t).base (s.wordTick t w) 0 0
          (s.edgeOffset t ((s.tile t).setAt (s.wordTick t w) (ctxTset (s.context t (ctxOf w)))) (6 + c))).1.toNat
        ∧ o.late = false ∧ o.base = (s.tile t).base ∧ o.tick = s.wordTick t w ∧ o.dflt = ctxTset (s.context t (ctxOf w))
        ∧ o.seg = (s.tile t).base + 16 * (s.site t).base ∧ o.segId = (s.site t).id
        ∧ o.block = ((s.site t).seg.opAddr + (s.tile t).pc) / 32
        ∧ o.issued = max s.si (max (o.due - 16 * 256) ((((s.biasOf (8 * t + c)).ops.reverse[3]?).map BiasOp.due).getD 0))
        ∧ o.usable = if s.linkTrained t then
            some (max (o.issued + 16 * k) (s.drive.arrived.read 0 (16 + t))) else none)

/-- R114, R157, R186 to R188, R224: the words that acquire and that wait. ACQUIRE opens a window for its slot, or sets
its input to outcome 3 at once, with no decision, where no tone is enabled for it; TSET chooses an offset set from its
tick on, and a window that waits from then on takes the set's offset; WAIT_UNTIL and EMIT stand until their tick.
WAIT_UNTIL then goes on; an emission raises its source with the H of the event that it answers plus 1, and one whose H
would be 3 is discarded and raises HATBAND_LOOP. Rows whose own effect completes: ACQUIRE, TSET, WAIT_UNTIL,
WAIT_UNTIL_END, EMIT, EMIT_RAISE. -/
def Obligations.ShotWordEffects : Prop :=
  (∀ (t : Fin 16) (s : State) (slot ctx : Nat), Timed s t .acquire → slot = indexOf (s.wordAt t) →
    ctx = s.context t (ctxOf (s.wordAt t)) →
    (s.acquireTone t slot ctx = none → Runs (.acquire t) s fun u => GoesOn s u t 1 { s.tile t with
        inputs := (s.tile t).inputs.filter (fun x => x.1 ≠ slot) ++ [(slot, (s.tile t).acquires, some (3, true))]
        acquires := (s.tile t).acquires + 1 }
      ∧ u.get F.acqStatus_NO_TONE t = satAdd (s.get F.acqStatus_NO_TONE t) 1 F.acqStatus_NO_TONE.width
      ∧ Raised s u (707 + 4 * t) 0 0
      ∧ Only [.out, .hatband, .image .acqStatus, .runs, .engines, .image .engineStatus] s u)
    ∧ (∀ n, s.acquireTone t slot ctx = some n → Runs (.acquire t) s fun u => GoesOn s u t 1 { s.tile t with
        inputs := (s.tile t).inputs.filter (fun x => x.1 ≠ slot) ++ [(slot, (s.tile t).acquires, none)]
        acquires := (s.tile t).acquires + 1 }
      ∧ Only [.out, .acq, .runs, .engines, .image .engineStatus] s u ∧ (∀ i, i ≠ t.val → u.acq i = s.acq i)
      ∧ ∃ w : Window, u.acq t = { s.acq t with waiting := (s.acq t).waiting ++ [w] } ∧ w.slot = 16 * t + slot ∧ w.tone = n
        ∧ w.w = (s.tile t).base + 16 * s.wordTick t (s.wordAt t) ∧ w.len = ctxAcqLen ctx ∧ w.snap = ctxSnap ctx
        ∧ w.pounce = ctxPounce ctx ∧ w.serial = (s.tile t).acquires ∧ w.points = 0 ∧ w.decided = none))
  ∧ (∀ (t : Fin 16) (s : State) (r : TileRun) (ofs : Window → Int), Timed s t .tset →
    r = { s.tile t with tsets := (s.tile t).tsets ++ [(s.wordTick t (s.wordAt t), indexOf (s.wordAt t))] } →
    (∀ w, ofs w = s.edgeOffset t (r.setAt ((w.w.toNat - r.base) / 16) 0) 5 / 16) → Runs (.tset t) s fun u => GoesOn s u t 1 r
    ∧ (u.acq t).waiting = (s.acq t).waiting.map (fun w =>
      if w.shot = s.shotOf t ∧ ((r.base + 16 * s.wordTick t (s.wordAt t) : Nat) : Int) ≤ w.w then
        { w with ofs := ofs w, turn := s.acqTurn t w.tone (ofs w) } else w)
    ∧ Only [.out, .drive, .bias, .acq, .runs, .engines, .image .engineStatus] s u)
  ∧ (∀ (t : Fin 16) (s : State), Timed s t .waitUntil → Runs (.waitUntil t) s fun u =>
      Waits s u t { s.tile t with untilTick := some (s.wordTick t (s.wordAt t)) }
    ∧ Only [.out, .runs, .engines, .image .engineStatus] s u)
  ∧ (∀ (t : Fin 16) (s : State), Timed s t .emit → Runs (.emit t) s fun u => Waits s u t { s.tile t with
        emitAt := some (s.wordTick t (s.wordAt t), indexOf (s.wordAt t), bits (s.wordAt t) 38 2) }
    ∧ Only [.out, .runs, .engines, .image .engineStatus] s u)
  ∧ (∀ (t : Fin 16) (s : State) (x : Nat), (s.tile t).untilTick = some x →
    ((x : Int) ≤ s.tick t → Runs (.waitUntilEnd t) s fun u => GoesOn s u t 1 { s.tile t with untilTick := none }
      ∧ Only [.out, .runs, .engines, .image .engineStatus] s u)
    ∧ (s.tick t < x → Runs (.waitUntilEnd t) s fun u => u = s.fresh))
  ∧ (∀ (t : Fin 16) (s : State) (tick k p : Nat), (s.tile t).emitAt = some (tick, k, p) → (tick : Int) ≤ s.tick t →
    ((s.tile t).lastHop = none → Runs (.emitRaise t) s fun u =>
      GoesOn s u t 1 { s.tile t with emitAt := none }
      ∧ Raised s u (seqSource t (12 + k)) p 0)
    ∧ (∀ h c, (s.tile t).lastHop = some (h, c) → h < 2 → Runs (.emitRaise t) s fun u =>
      GoesOn s u t 1 { s.tile t with emitAt := none }
      ∧ u.out = [.source (seqSource t (12 + k)) p 0 (h + 1)])
    ∧ (∀ h c, (s.tile t).lastHop = some (h, c) → 2 ≤ h → Runs (.emitRaise t) s fun u =>
      GoesOn s u t 1 { s.tile t with emitAt := none }
      ∧ Raised s u 1139 0 0 ∧ Reported s u 30
      ∧ u.get F.hatbandControl_LAST_LOOP_EVC = c % 2 ^ F.hatbandControl_LAST_LOOP_EVC.width
      ∧ (s.flag F.hatbandControl_LOOP_POLICY = false → u.flag F.channel_CUT c = true))
    ∧ Runs (.emitRaise t) s fun u => Only [.out, .hatband, .log, .image .logStatus, .image .hatbandControl,
      .image .channel, .runs, .engines, .image .engineStatus] s u)

/-- R157, R158, R187 to R191, R223: waits and branches. A wait on a channel ends at its latch, which clears, and MARK
takes the tick; one that its limit ends is counted, raises WAIT_TIMEOUT and goes on with index 3 of a branch. BRANCH
on a decision, an event, a counter or always goes on by the offset of the outcome; ALIGN moves MARK to the next
multiple of its grid. Rows whose own effect completes: WAIT_EVENT, WAIT_EVENT_TIMEOUT, ALIGN, BRANCH_ON_DECISION,
BRANCH_ON_EVENT, BRANCH_ON_COUNTER, BRANCH_ON_ALWAYS, BRANCH_ON_TIMEOUT. -/
def Obligations.WaitEffects : Prop :=
  (∀ (t : Fin 16) (s : State) (c : Nat), Dispatches s t .waitEvent → c = waitChannel (s.wordAt t) →
    (∀ p f h, (s.tile t).latch c = some (p, f, h) → Runs (.waitEvent t) s fun u => TookLatch s u t 1 c h)
    ∧ ((s.tile t).latch c = none → Runs (.waitEvent t) s fun u => Waits s u t (s.tile t)
      ∧ Only [.out, .engines, .image .engineStatus] s u)
    ∧ (s.waitExpired t (waitLimit (s.wordAt t)) = true → (s.tile t).latch c = none →
      Runs (.waitEventTimeout t) s fun u => TimedOut s u t 1)
    ∧ ((s.waitExpired t (waitLimit (s.wordAt t)) = false ∨ (s.tile t).latch c ≠ none) →
      Runs (.waitEventTimeout t) s fun u => u = s.fresh))
  ∧ (∀ (t : Fin 16) (s : State) (grid : Nat) (x : Int), Dispatches s t .align → grid = bits (s.wordAt t) 0 16 →
    0 < grid → x = s.tick t + bits (s.wordAt t) 16 16 → 0 ≤ x → Runs (.align t) s fun u =>
      ∃ m : Nat, GoesOn s u t 1 { s.tile t with mark := m } ∧ grid ∣ m ∧ x ≤ m ∧ (m : Int) < x + grid
      ∧ Only [.out, .runs, .engines, .image .engineStatus] s u)
  ∧ (∀ (t : Fin 16) (s : State) (n : Nat), Dispatches s t .branchDecision → n = indexOf (s.wordAt t) →
    ((s.tile t).inputs.find? (fun x => x.1 = n) = none → Runs (.branchOnDecision t) s fun u =>
      GoesOn s u t (2 + bits (s.extAt t) 48 16) { s.tile t with mark := (s.tick t).toNat }
        ∧ Only [.out, .runs, .engines, .image .engineStatus] s u)
    ∧ (∀ k i, (s.tile t).inputs.find? (fun x => x.1 = n) = some (k, i, none) → Runs (.branchOnDecision t) s fun u =>
      Waits s u t (s.tile t) ∧ Only [.out, .engines, .image .engineStatus] s u)
    ∧ (∀ k i o b, (s.tile t).inputs.find? (fun x => x.1 = n) = some (k, i, some (o, b)) →
      Runs (.branchOnDecision t) s fun u => GoesOn s u t (2 + bits (s.extAt t) (16 * o) 16) { s.tile t with
          mark := (s.tick t).toNat, lastHop := some (0, 0), inputs := (s.tile t).inputs.filter (fun x => x.1 ≠ n) }
        ∧ Only [.out, .runs, .engines, .image .engineStatus] s u))
  ∧ (∀ (t : Fin 16) (s : State) (c : Nat), Dispatches s t .branchEvent → c = branchChannel (s.wordAt t) →
    (∀ p f h, (s.tile t).latch c = some (p, f, h) → Runs (.branchOnEvent t) s fun u =>
      TookLatch s u t (2 + bits (s.extAt t) (16 * p) 16) c h)
    ∧ ((s.tile t).latch c = none → Runs (.branchOnEvent t) s fun u => Waits s u t (s.tile t)
      ∧ Only [.out, .engines, .image .engineStatus] s u))
  ∧ (∀ (t : Fin 16) (s : State), (Dispatches s t .branchDecision ∨ Dispatches s t .branchEvent) →
    (s.waitExpired t (branchLimit (s.wordAt t)) = true → s.branchReady t (s.wordAt t) = false →
      Runs (.branchOnTimeout t) s fun u => TimedOut s u t (2 + bits (s.extAt t) 48 16))
    ∧ ((s.waitExpired t (branchLimit (s.wordAt t)) = false ∨ s.branchReady t (s.wordAt t) = true) →
      Runs (.branchOnTimeout t) s fun u => u = s.fresh))
  ∧ (∀ (t : Fin 16) (s : State) (x v : Nat), Dispatches s t .branchCounter →
    x = s.getAt F.counters_CNT t (indexOf (s.wordAt t)) → v = bits (s.wordAt t) 0 32 →
    Runs (.branchOnCounter t) s fun u =>
      GoesOn s u t (2 + bits (s.extAt t) (16 * (if x < v then 0 else if x = v then 1 else 2)) 16) (s.tile t)
        ∧ Only [.out, .runs, .engines, .image .engineStatus] s u)
  ∧ (∀ (t : Fin 16) (s : State), Dispatches s t .branchAlways → Runs (.branchOnAlways t) s fun u =>
    GoesOn s u t (2 + bits (s.extAt t) 0 16) (s.tile t) ∧ Only [.out, .runs, .engines, .image .engineStatus] s u)

/-- R150, R190, R192, R194, R197 to R200: the words that end a segment leave their tile ended until the switch point,
and at or behind it choose the next segment of the list at once, end the shot, or fault. A word of no operation takes
PROGRAM_FAULT. COUNT_SET, COUNT_ADD and COUNT_ADD_IF write their counter, modulo 2^32, and no other. Rows whose own
effect completes: SEG, LOOP, JUMP, SHOT_END, BAD_OP, COUNT_SET, COUNT_ADD, COUNT_ADD_IF. -/
def Obligations.EndAndCounterEffects : Prop :=
  (∀ row ∈ endRows, ∀ (t : Fin 16) (s : State), Dispatches s t row.2 →
    (((s.tile t).chosen ≠ none ∨ s.tick t + Config.switchLead < s.segmentEnd t) → Runs (row.1 t) s fun u =>
      u.tile t = { s.tile t with ended := true } ∧ (u.engine t).inst = false ∧ u.get F.engineStatus_STATE t = 1
        ∧ OthersStand s u t ∧ Only [.out, .runs, .engines, .image .engineStatus] s u)
    ∧ ((s.tile t).chosen = none → (s.segmentEnd t : Int) ≤ s.tick t + Config.switchLead →
      (∀ j, s.nextEntry t = (none, j) → Runs (row.1 t) s fun u => u.tile t = { s.tile t with
          ended := true, jump := none, chosen := some none, chosenSeg := none, last := bit (s.endWord t) 0 })
      ∧ (∀ e j, s.nextEntry t = (some e, j) → s.listSegment t e = none → Runs (row.1 t) s fun u =>
        Raised s u (seqSource t 9) 0 0 ∧ Reported s u 16)
      ∧ (∀ e j id, s.nextEntry t = (some e, j) → s.listSegment t e = some id → (s.segment t id).resident = true →
        Runs (row.1 t) s fun u => (u.tile t).chosen = some (some e) ∧ (u.tile t).chosenSeg = some id
          ∧ (u.tile t).pc = 0 ∧ (u.tile t).ended = false
          ∧ (u.tile t).instances = (if !j && e = s.get F.runStatus_LIST_POS t then (s.tile t).instances + 1 else 1)
          ∧ Only [.out, .runs, .engines, .image .engineStatus] s u)))
  ∧ (∀ (t : Fin 16) (s : State), Dispatches s t .bad → Runs (.badOp t) s fun u => Faulted s u t)
  ∧ (∀ (t : Fin 16) (s : State) (c : Nat), c = indexOf (s.wordAt t) →
    (Dispatches s t .countSet → Runs (.countSet t) s fun u => GoesOn s u t 1 (s.tile t)
      ∧ u.getAt F.counters_CNT t c = bits (s.wordAt t) 0 32)
    ∧ (Dispatches s t .countAdd → Runs (.countAdd t) s fun u => GoesOn s u t 1 (s.tile t)
      ∧ u.getAt F.counters_CNT t c = (s.getAt F.counters_CNT t c + bits (s.wordAt t) 0 32) % 2 ^ 32)
    ∧ (Dispatches s t .countAddIf → Runs (.countAddIf t) s fun u => GoesOn s u t 1 (s.tile t)
      ∧ ((∃ o, (bits (s.wordAt t) 0 4, o) ∈ (s.tile t).decisions ∧ bit (bits (s.wordAt t) 4 4) o = true) →
        u.getAt F.counters_CNT t c = (s.getAt F.counters_CNT t c + 1) % 2 ^ 32)
      ∧ ((∀ o, (bits (s.wordAt t) 0 4, o) ∈ (s.tile t).decisions → bit (bits (s.wordAt t) 4 4) o = false) →
        u.getAt F.counters_CNT t c = s.getAt F.counters_CNT t c)))
  ∧ (∀ row ∈ [(Instr.countSet, Op.countSet), (Instr.countAdd, Op.countAdd), (Instr.countAddIf, Op.countAddIf)],
    ∀ (t : Fin 16) (s : State), Dispatches s t row.2 → Runs (row.1 t) s fun u =>
      Only [.out, .image .counters, .runs, .engines, .image .engineStatus] s u
      ∧ (∀ k < 16, k ≠ indexOf (s.wordAt t) → u.getAt F.counters_CNT t k = s.getAt F.counters_CNT t k)
      ∧ ∀ i < 16, i ≠ t.val → u.image .counters i = s.image .counters i)

/-- R193, R260: barriers. An arrival that names a tile outside its group, not itself, or another mask than the
arrivals before it takes PROGRAM_FAULT; otherwise it is recorded and the tile waits. The last arrival releases every
tile 48 ticks later, or sends the arrival to the partners and awaits theirs. A release ends each wait with MARK at the
release tick; a timeout is reported, raises BARRIER_TIMEOUT on every tile and voids the shot. Rows whose own effect
completes: BARRIER, BARRIER_RELEASE, BARRIER_TIMEOUT. -/
def Obligations.BarrierEffects : Prop :=
  (∀ (t : Fin 16) (s : State) (g num mask : Nat) (b : Barrier), Dispatches s t .barrier → (s.tile t).group = some g →
    num = ctxOf (s.wordAt t) → mask = bits (s.wordAt t) 0 16 →
    b = (s.group g).joinBarrier num mask (kindOf (s.wordAt t) = 1) →
    (((∃ i ∈ bitList mask 16, i ∉ s.members g) ∨ bit mask t = false ∨ b.mask ≠ mask) →
      Runs (.barrier t) s fun u => Faulted s u t)
    ∧ ((∀ i ∈ bitList mask 16, i ∈ s.members g) → bit mask t = true → b.mask = mask → ∀ c : Barrier,
      c = { b with arrivals := b.arrivals ++ [(t.val, s.tick t, bits (s.wordAt t) 16 22)] } →
      ((c.complete = false ∨ c.release ≠ none) → Runs (.barrier t) s fun u =>
        Waits (s.setGroup g ((s.group g).setBarrier c)) u t { s.tile t with barrier := some num }
        ∧ Only [.out, .runs, .engines, .image .engineStatus] s u)
      ∧ (c.complete = true → c.release = none → c.partner = false → Runs (.barrier t) s fun u =>
        Waits (s.setGroup g ((s.group g).setBarrier { c with release := some (c.lastTick + 48).toNat })) u t
          { s.tile t with barrier := some num }
        ∧ Only [.out, .runs, .engines, .image .engineStatus] s u)
      ∧ (c.complete = true → c.release = none → c.partner = true → s.tick t = s.groupTick g →
        (∀ p ∈ s.barrierPorts, (s.port p).barrierOut = none) → Runs (.barrier t) s fun u =>
        Waits s (u.setGroup g (s.group g)) t { s.tile t with barrier := some num }
        ∧ (∀ p ∈ s.barrierPorts, (u.port p).barrierOut = some (num, unsigned c.lastTick 32, g))
        ∧ (s.partnerTicks num = none → (u.group g).barrier num = some c)
        ∧ (∀ ps, s.partnerTicks num = some ps → (u.group g).barrier num = some { c with
          release := some (ps.foldl (fun m a => max m (signed a.2 32)) c.lastTick + 48 + s.barrierL).toNat, partners := ps })
        ∧ Only [.out, .ports, .runs, .engines, .image .engineStatus] s u)))
  ∧ (∀ (g : Fin 16) (b : Fin 1024) (s : State) (x : Barrier) (r : Nat), (s.group g).barrier b = some x →
    x.release = some r → x.arrivals ≠ [] →
    ((r : Int) ≤ s.groupTick g + 40 → Runs (.barrierRelease g b) s fun u =>
      ∀ t ∈ s.members g, (s.tile t).barrier = some b.val → (u.tile t).pc = (s.tile t).pc + 1
        ∧ (u.tile t).barrier = none ∧ (u.tile t).mark = r ∧ (u.engine t).inst = false
        ∧ u.get F.engineStatus_STATE t = 1)
    ∧ (s.groupTick g + 40 < r → Runs (.barrierRelease g b) s fun u => u = s.fresh))
  ∧ (∀ (g : Fin 16) (b : Fin 1024) (s : State) (x : Barrier), (s.group g).barrier b = some x →
    (x.expired (s.groupTick g) = true → Runs (.barrierTimeout g b) s fun u => Reported s u 17
      ∧ (∀ t ∈ s.members g, Raised s u (seqSource t 11) 0 0)
      ∧ (∀ t ∈ s.members g, (s.tile t).group = some g.val → ((s.group g).inShot = true ∨ (s.tile t).prepared = true) →
        (u.tile t).voided = true)
      ∧ (∀ t ∈ s.members g, (s.tile t).endTick = none → (u.engine t).voidPending = true)
      ∧ (x.partner = true → ∀ p ∈ s.barrierPorts, (u.port p).voidOrder = some ((s.group g).seq % 2 ^ 16))
      ∧ Only [.out, .hatband, .log, .image .logStatus, .runs, .ports, .image .runStatus, .acq, .engines] s u)
    ∧ (x.expired (s.groupTick g) = false → Runs (.barrierTimeout g b) s fun u => u = s.fresh))

/-- R25, R26, R36, R90 to R93, R96 to R105: bias channels. The first due operation acts: a level, a ramp, a sine, from
its due sample on; it is dropped on a parked channel and where a hold of its segment, or a latched one, stands; a sine
out of range raises FREQ_RANGE, a late operation begins its hold, and one that fails its seal holds the channel, voids
the shot and is classified at its next playback in another shot. Ramps, fades and parks end at their targets; the park
oscillator hands back; a supply fault engages the 50 ohm path; compliance and open load latch, raise, are reported,
and hold or park by their action. Rows whose own effect completes: BIAS_OP_ACT, BIAS_RAMP_COMPLETE, SINE_FADE_END,
PARK_RAMP_DONE, PARK_OSC_HANDBACK, COMPLIANCE_TRIP, OPEN_LOAD_TRIP, BIAS_SUPPLY_FAULT. -/
def Obligations.BiasEffects : Prop :=
  (∀ (n : Fin 128) (sealBad : Bool) (s : State) (b : Bias) (o : BiasOp) (rest : List BiasOp) (key : Nat),
    b = s.biasOf n → b.ops = o :: rest → o.due < s.si + 16 → key = 32768 + o.block →
    (o.late = true → b.discards o = true → Runs (.biasOpAct n sealBad) s fun u =>
      BiasBecomes s u n { b with ops := b.ops.filter (fun p => p ≠ o) } ∧ Only [.out, .bias] s u)
    ∧ (o.late = true → b.discards o = false → Runs (.biasOpAct n sealBad) s fun u =>
      (u.biasOf n).ops = b.ops.filter (fun p => p ≠ o) ∧ .segment ∈ (u.biasOf n).holds
        ∧ (u.biasOf n).heldSeg = some o.seg ∧ u.flag F.biasStatus_HELD n = true
        ∧ (∀ k, k ≠ n.val → u.biasOf k = s.biasOf k) ∧ Only [.out, .bias, .image .biasStatus] s u)
    ∧ (o.late = false → sealBad = true → Runs (.biasOpAct n sealBad) s fun u => (u.biasOf n).ops = rest
      ∧ (b.discards o = false → .segment ∈ (u.biasOf n).holds ∧ (u.biasOf n).heldSeg = some o.seg
        ∧ u.flag F.biasStatus_HELD n = true)
      ∧ ShotVoided s u (n / 8)
      ∧ ((s.tile (n / 8)).suspected key = none → (u.tile (n / 8)).suspected key = some (s.tile (n / 8)).base)
      ∧ (∀ x, (s.tile (n / 8)).suspected key = some x → x ≠ (s.tile (n / 8)).base → Reported s u 2
        ∧ (u.tile (n / 8)).suspected key = none ∧ (u.segment (n / 8) o.segId).resident = false)
      ∧ ∀ k, k ≠ n.val → u.biasOf k = s.biasOf k)
    ∧ (o.late = false → sealBad = false → ∀ x, (s.tile (n / 8)).suspected key = some x → x ≠ (s.tile (n / 8)).base →
      Runs (.biasOpAct n sealBad) s fun u => Reported s u 2 ∧ (u.tile (n / 8)).suspected key = none)
    ∧ (o.late = false → sealBad = false → (s.tile (n / 8)).suspected key = none →
      (s.flag F.biasStatus_PARKED n = true → Runs (.biasOpAct n sealBad) s fun u => BiasBecomes s u n { b with ops := rest }
        ∧ u.get F.biasStatus_PARKED_DROP n = satAdd (s.get F.biasStatus_PARKED_DROP n) 1 F.biasStatus_PARKED_DROP.width
        ∧ Only [.out, .bias, .image .biasStatus] s u)
      ∧ (s.flag F.biasStatus_PARKED n = false → b.discards o = true → Runs (.biasOpAct n sealBad) s fun u =>
        BiasBecomes s u n { b with ops := rest } ∧ Only [.out, .bias] s u)
      ∧ (s.flag F.biasStatus_PARKED n = false → b.discards o = false → ∀ h, h = s.half + (o.due - s.si) / 8 →
        (∀ amp ftw phase, o.act = .sine amp ftw phase →
          (0x60000000 < ftw → Runs (.biasOpAct n sealBad) s fun u => BiasBecomes s u n { b with ops := rest }
            ∧ Raised s u (seqSource (n / 8) 2) 0 0 ∧ Reported s u 19 ∧ ShotVoided s u (n / 8))
          ∧ (ftw ≤ 0x60000000 → Runs (.biasOpAct n sealBad) s fun u => BiasBecomes s u n { b with
              ops := rest, was := some (h, b.inForce (h - 1))
              cmd := { b.cmd with
                pdSet := o.pd, sine := if amp = 0 then none else some { amp, ftw, phase, fade := none } } }
            ∧ Only [.out, .bias] s u))
        ∧ (∀ v, o.act = .level v → Runs (.biasOpAct n sealBad) s fun u => BiasBecomes s u n { b with
            ops := rest, was := some (h, b.inForce (h - 1)), park := none
            cmd := { b.cmd with pdSet := o.pd, level := v * 2 ^ 16, ramp := none } } ∧ Only [.out, .bias] s u)
        ∧ (∀ v len l0, o.act = .ramp v len → l0 = b.levelAt (h - 1) → Runs (.biasOpAct n sealBad) s fun u =>
          BiasBecomes s u n { b with
            ops := rest, was := some (h, b.inForce (h - 1)), park := none
            cmd := { b.cmd with
              pdSet := o.pd, level := l0, ramp := some { l0, v := v * 2 ^ 16, n := len, start := h } } }
          ∧ Only [.out, .bias] s u))))
  ∧ (∀ (n : Fin 128) (s : State) (r : Ramp) (c : Commanded), (s.biasOf n).cmd = c → c.ramp = some r →
    (r.start + r.n ≤ s.half + 1 → Runs (.biasRampComplete n) s fun u =>
      BiasBecomes s u n { s.biasOf n with cmd := { c with level := r.v, ramp := none } } ∧ Only [.out, .bias] s u)
    ∧ (s.half + 1 < r.start + r.n → Runs (.biasRampComplete n) s fun u => u = s.fresh))
  ∧ (∀ (n : Fin 128) (s : State) (x : Sine) (f : Nat) (c : Commanded), (s.biasOf n).cmd = c → c.sine = some x →
    x.fade = some f →
    (f + 128 ≤ s.half → Runs (.sineFadeEnd n) s fun u =>
      BiasBecomes s u n { s.biasOf n with cmd := { c with sine := none } } ∧ Only [.out, .bias] s u)
    ∧ (s.half < f + 128 → Runs (.sineFadeEnd n) s fun u => u = s.fresh))
  ∧ (∀ (n : Fin 128) (s : State) (p : ParkRamp) (c : Commanded), (s.biasOf n).cmd = c → (s.biasOf n).park = some p →
    (s.level n = p.target → (s.power.ramp = none ∨ ∃ k < 128, k ≠ n.val ∧ s.level k ≠ 0) →
      Runs (.parkRampDone n) s fun u => BiasBecomes s u n { s.biasOf n with
        cmd := { c with level := p.target, ramp := none }, park := none, sink := (s.biasOf n).sink || !p.connect }
        ∧ Only [.out, .bias] s u)
    ∧ (s.level n = p.target → p.target = 0 → (∀ x, (s.biasOf n).was = some x → x.1 ≤ s.half) → s.power.ramp = some 2 →
      (∀ k < 128, s.level k = 0) → Runs (.parkRampDone n) s fun u =>
        u.mode = .reset ∧ u.power.resetUntil = some (s.clock.now + 10 * Config.ticksPerUs))
    ∧ (s.level n ≠ p.target → Runs (.parkRampDone n) s fun u => u = s.fresh))
  ∧ (∀ (i : Fin 8) (s : State),
    (s.flag F.gridStatus_PLL_LOCK = true → (∃ n, n / 16 = i.val ∧ (s.biasOf n).parkOsc.isSome = true) →
      (∀ n, n / 16 = i.val → (s.biasOf n).park = none
        ∧ ∀ x, (s.biasOf n).parkOsc = some x → (s.clock.now - x) % 8 = 0) → Runs (.parkOscHandback i) s fun u =>
        (∀ n, n / 16 = i.val → u.biasOf n = { s.biasOf n with
          parkOsc := none, iir := List.replicate 8 (s.biasOf n).cmd.level
          fir := List.replicate 32 (s.biasOf n).cmd.level })
        ∧ (∀ n, n / 16 ≠ i.val → u.biasOf n = s.biasOf n) ∧ Only [.out, .bias] s u)
    ∧ ((s.flag F.gridStatus_PLL_LOCK = false ∨ (∃ n, n / 16 = i.val ∧ ((s.biasOf n).park ≠ none
        ∨ ∃ x, (s.biasOf n).parkOsc = some x ∧ (s.clock.now - x) % 8 ≠ 0))) →
      Runs (.parkOscHandback i) s fun u => u = s.fresh))
  ∧ (∀ s : State,
    (s.mode ≠ .reset → Runs .biasSupplyFault s fun u =>
      (∀ n < 128, u.biasOf n = { s.biasOf n with sink := true }) ∧ Only [.out, .bias] s u)
    ∧ (s.mode = .reset → Runs .biasSupplyFault s fun u => u = s.fresh))
  ∧ (∀ (n : Fin 128) (v : BitVec 16) (s : State), s.mode ≠ .reset →
    (v.toInt.natAbs ≤ s.get F.biasConfig_COMP_WINDOW n * 10 ∨ s.flag F.biasStatus_COMP_LATCH n = true →
      Runs (.complianceTrip n v) s fun u => u.get F.biasStatus_VSENSE n = v.toNat
        ∧ Only [.out, .image .biasStatus] s u)
    ∧ (s.get F.biasConfig_COMP_WINDOW n * 10 < v.toInt.natAbs → s.flag F.biasStatus_COMP_LATCH n = false →
      Runs (.complianceTrip n v) s fun u => u.get F.biasStatus_VSENSE n = v.toNat
        ∧ u.flag F.biasStatus_COMP_LATCH n = true ∧ u.flag F.biasStatus_OL_LATCH n = s.flag F.biasStatus_OL_LATCH n
        ∧ Tripped s u n (max (tripStrength (s.get F.biasConfig_COMP_ACTION n))
          (if s.flag F.biasStatus_OL_LATCH n then tripStrength (s.get F.biasConfig_OL_ACTION n) else 0))))
  ∧ (∀ (n : Fin 128) (s : State),
    (∀ x, (s.biasOf n).openSince = some x → x + 800 ≤ s.clock.now → s.flag F.biasStatus_OL_LATCH n = false →
      Runs (.openLoadTrip n) s fun u => u.flag F.biasStatus_OL_LATCH n = true ∧ (u.biasOf n).openSince = none
        ∧ u.flag F.biasStatus_COMP_LATCH n = s.flag F.biasStatus_COMP_LATCH n
        ∧ Tripped (s.setBias n { s.biasOf n with openSince := none }) u n
          (max (if s.flag F.biasStatus_COMP_LATCH n then tripStrength (s.get F.biasConfig_COMP_ACTION n) else 0)
            (tripStrength (s.get F.biasConfig_OL_ACTION n))))
    ∧ ((s.flag F.biasStatus_OL_LATCH n = true ∨ ∀ x, (s.biasOf n).openSince = some x → s.clock.now < x + 800) →
      Runs (.openLoadTrip n) s fun u => u = s.fresh))

/-- R15, R23, R25 to R26, R34 to R38, R61, R64 to R66, R73 to R74, R79 to R82, R88, R99, R105, R231: what drives the
balls. A FRAME update acts at its sample or raises FREQ_RANGE; a burst of up to 32 samples is issued once its first
rows have been read, and overtakes none; the power mute sets. Each tick a channel releases its word: its codes, its
clips, its power, and what its tones hand to the matrix rows; a block that fails its seal gives zeros from its first
sample on, voids the shot and is remembered, a second failure in another shot drops the segment, and a pass there is
logged. Without SCLK only a park oscillator releases. A sample that is not usable in time zeroes its channel, or marks
its bias operation, which holds its channel from its due sample on; it is counted and reported as LATE, and voids the
shot. Rows whose own effect completes: FRAME_UPDATE_APPLY, BURST_ISSUE, SAMPLE_RELEASE, LATE_DETECT, POWER_MUTE. -/
def Obligations.DriveEffects : Prop :=
  (∀ (t : Fin 16) (probe : Bool) (n : Fin 16) (s : State) (x : FrameUpdate) (rest : List FrameUpdate) (k : Nat) (p : PhaseSeg),
    k = toneKey t probe n → (s.tone k).updates = x :: rest →
    p = (s.tone k).segAt (s.toneFtw t probe n) (s.toneFrame t probe n) x.due →
    (x.due < s.si + 16 →
      (x.setFreq = true → s.toneEnabled t probe n = true → inBand probe (s.mixMode t n) (bits x.ext 0 48) = false →
        Runs (.frameUpdateApply t probe n) s fun u => Raised s u (seqSource t 2) 0 0 ∧ Reported s u 19
          ∧ ShotVoided s u t ∧ u.tone k = { s.tone k with updates := rest } ∧ ∀ j, j ≠ k → u.tone j = s.tone j)
      ∧ ((x.setFreq = false ∨ s.toneEnabled t probe n = false ∨ inBand probe (s.mixMode t n) (bits x.ext 0 48) = true) →
        Runs (.frameUpdateApply t probe n) s fun u => ∃ q : PhaseSeg,
          u.tone k = { s.tone k with updates := rest, segs := keepSegs s.si (s.tone k).segs ++ [q] } ∧ q.start = x.due
          ∧ q.before = (if p.start < x.due then p.accAt (x.due - 1) else p.before)
          ∧ (x.setFreq = false → q.ftw = p.ftw ∧ q.acc = p.accAt x.due
            ∧ q.frame = ((if x.setFrame then 0 else p.frame) + bits x.ext 0 32) % 2 ^ 32)
          ∧ (x.setFreq = true → q.ftw = bits x.ext 0 48
            ∧ q.acc = (if x.absolute then q.ftw * x.due else q.before + q.ftw) % 2 ^ 48
            ∧ q.frame = ((if x.setFrame then 0 else p.frame) + bits x.ext 48 16 * 2 ^ 16) % 2 ^ 32)
          ∧ (∀ j, j ≠ k → u.tone j = s.tone j) ∧ Only [.out, .drive] s u))
    ∧ (s.si + 16 ≤ x.due → Runs (.frameUpdateApply t probe n) s fun u => u = s.fresh))
  ∧ (∀ (t : Fin 16) (probe : Bool) (n : Fin 16) (transit : Fin 29) (s : State) (g : Grid) (k m : Nat) (held : List Burst)
      (mine : List Pulse), k = toneKey t probe n → (s.tone k).issuing = some g → m = min 32 (g.stop - g.next) →
    held = (s.tone k).bursts.filter (fun b => s.si < b.due + 32 * b.samples.length) →
    mine = (s.tone k).units.filter (fun p => p.grid = g.at16) →
    (g.origin + 32 * g.next ≤ s.si + 16 * 256 → held.length < 4 → rowsRead mine g.next m s.half = true →
      Runs (.burstIssue t probe n transit) s fun u =>
      (∃ b : Burst, b ∈ (u.tone k).bursts ∧ (∀ c ∈ held, c.cutAt b ∈ (u.tone k).bursts) ∧ b.due = g.origin + 32 * g.next
        ∧ b.frac = g.frac ∧ b.samples = (List.range m).map (fun i => (s.gridSample t mine (g.next + i)).1)
        ∧ b.usable = if s.linkTrained t then some (max (s.si + 16 * transit) (s.drive.arrived.read 0 t)) else none)
      ∧ (u.tone k).grids = (s.tone k).grids.map (fun h => if h.at16 = g.at16 then { h with next := g.next + m } else h)
      ∧ (u.tone k).units = (s.tone k).units.filter (fun p => p.grid ≠ g.at16 || g.next + m < p.start + p.length)
      ∧ (∀ j, j ≠ k → u.tone j = s.tone j)
      ∧ Only [.out, .drive, .memory, .image .probeStatus, .image .xyStatus, .image .lateStatus] s u)
    ∧ ((s.si + 16 * 256 < g.origin + 32 * g.next ∨ 4 ≤ held.length ∨ rowsRead mine g.next m s.half = false) →
      Runs (.burstIssue t probe n transit) s fun u => u = s.fresh))
  ∧ (∀ (n : Fin 64) (s : State),
    (s.get F.xyConfig_POWER_LIMIT n ≠ 0 → (s.powerOf n).exceeds (s.get F.xyConfig_POWER_LIMIT n) = true →
      s.flag F.xyStatus_MUTED n = false → Runs (.powerMute n) s fun u => u.flag F.xyStatus_MUTED n = true
        ∧ Raised s u (640 + n) 0 0 ∧ Reported s u 15 ∧ ShotVoided s u (n / 4) ∧ u.drive = s.drive)
    ∧ ((s.get F.xyConfig_POWER_LIMIT n = 0 ∨ (s.powerOf n).exceeds (s.get F.xyConfig_POWER_LIMIT n) = false
        ∨ s.flag F.xyStatus_MUTED n = true) →
      Runs (.powerMute n) s fun u => u = s.fresh))
  ∧ (∀ (n : Fin 64) (s : State) (w : List (Int × Bool)), s.flag F.gridStatus_PLL_LOCK = true →
    w = (s.keepReleased n).word (n / 4) (n % 4) → s.blocksBegun (n / 4) (n % 4) = [] → ∀ sealBad, Runs (.sampleRelease (.drive n) sealBad) s fun u =>
      .samples (.drive n) (codesOf w) ∈ u.out
      ∧ u.get F.xyStatus_CLIP_COUNT n = satAdd (s.get F.xyStatus_CLIP_COUNT n) (clippedOf w) F.xyStatus_CLIP_COUNT.width
      ∧ (0 < clippedOf w → u.flag F.xyStatus_CLIP_SEEN n = true ∧ n.val ∈ u.drive.clipped
        ∧ (n.val ∉ s.drive.clipped → Raised s u (640 + n) 0 0))
      ∧ (clippedOf w = 0 → u.flag F.xyStatus_CLIP_SEEN n = s.flag F.xyStatus_CLIP_SEEN n)
      ∧ u.flag F.xyStatus_MUTED n = s.flag F.xyStatus_MUTED n
      ∧ u.drive.wordPower.read 0 n = ((codesOf w).map fun x => x.natAbs * x.natAbs).sum
      ∧ (∀ k < 4, (u.drive.released.read [] (16 * (n / 4) + (4 * (n % 4) + k))).head? =
        some (s.si, s.sourceWord (n / 4) (4 * (n % 4) + k)))
      ∧ Only [.out, .hatband, .drive, .image .xyStatus, .free] s u)
  ∧ (∀ (t : Fin 16) (s : State) (w : List (Int × Bool)), s.flag F.gridStatus_PLL_LOCK = true → w = s.word t 4 →
    s.blocksBegun t 4 = [] → ∀ sealBad, Runs (.sampleRelease (.probe t) sealBad) s fun u =>
      .samples (.probe t) (codesOf w) ∈ u.out
      ∧ u.get F.probeStatus_CLIP_COUNT t = satAdd (s.get F.probeStatus_CLIP_COUNT t) (clippedOf w) F.probeStatus_CLIP_COUNT.width
      ∧ (0 < clippedOf w → u.flag F.probeStatus_CLIP_SEEN t = true) ∧ Only [.out, .image .probeStatus, .free] s u)
  ∧ (∀ (t : Fin 16) (c : Nat) (ch : Channel) (x blk y : Nat) (s : State), s.flag F.gridStatus_PLL_LOCK = true →
    ((c = 4 ∧ ch = .probe t ∧ x = 64 + t) ∨ ∃ n : Fin 64, ch = .drive n ∧ t.val = n / 4 ∧ c = n % 4 ∧ x = n) →
    s.blocksBegun t c = [(blk, y)] →
    ((s.tile t).suspected blk = none → (∀ z ∈ s.drive.zeroed, ¬(z.1 = x ∧ z.2.1 = .badSeal)) →
      Runs (.sampleRelease ch true) s fun u => (∃ l, .samples ch l ∈ u.out ∧ l.length = 16
        ∧ ∀ i < 16, y ≤ s.si + i → l[i]? = some 0)
      ∧ (x, ZeroCause.badSeal, y) ∈ u.drive.zeroed ∧ ShotVoided s u t
      ∧ (u.tile t).suspected blk = some (s.tile t).base)
    ∧ (∀ z, (s.tile t).suspected blk = some z → z ≠ (s.tile t).base →
      (Runs (.sampleRelease ch true) s fun u => ShotVoided s u t ∧ Reported s u 2 ∧ (u.tile t).suspected blk = none
        ∧ (u.segment t (s.get F.runStatus_SEG_ID t)).resident = false)
      ∧ Runs (.sampleRelease ch false) s fun u => Reported s u 2 ∧ (u.tile t).suspected blk = none)
    ∧ ((s.tile t).suspected blk = some (s.tile t).base → ∀ bad, Runs (.sampleRelease ch bad) s fun u =>
      (u.tile t).suspected blk = some (s.tile t).base ∧ u.log = s.log))
  ∧ (∀ (n : Fin 128) (s : State), (s.flag F.gridStatus_PLL_LOCK = true ∨ (s.biasOf n).parkOsc.isSome = true) → ∀ sealBad,
    Runs (.sampleRelease (.bias n) sealBad) s fun u => ∃ a b : Int, u.out = [.samples (.bias n) [a, b]]
      ∧ (s.biasGrounded n = true → a = 0 ∧ b = 0)
      ∧ (s.biasGrounded n = false → b = signed (u.get F.biasStatus_OUTPUT n) 16)
      ∧ (s.biasGrounded n = false → (∀ o ∈ (s.biasOf n).ops, o.late = false) → a = (s.biasSample n 0).1)
      ∧ (∀ k, k ≠ n.val → u.biasOf k = s.biasOf k) ∧ Only [.out, .bias, .image .biasStatus] s u)
  ∧ (∀ (ch : Channel) (sealBad : Bool) (s : State), s.flag F.gridStatus_PLL_LOCK = false →
    (∀ n, ch = .bias n → (s.biasOf n).parkOsc = none) → Runs (.sampleRelease ch sealBad) s fun u => u = s.fresh)
  ∧ (∀ (t : Fin 16) (c : Nat) (ch : Channel) (x : Nat) (s : State),
    ((c = 4 ∧ ch = .probe t ∧ x = 64 + t) ∨ ∃ n : Fin 64, ch = .drive n ∧ t.val = n / 4 ∧ c = n % 4 ∧ x = n) →
    (∀ d, s.lateDue t c = some d → (∀ z ∈ s.drive.zeroed, ¬(z.1 = x ∧ z.2.1 = .late)) → Runs (.lateDetect ch) s fun u =>
      (x, ZeroCause.late, d) ∈ u.drive.zeroed ∧ WentLate s u t c)
    ∧ ((s.lateDue t c = none ∨ ∃ z ∈ s.drive.zeroed, z.1 = x ∧ z.2.1 = .late) → Runs (.lateDetect ch) s fun u => u = s.fresh))
  ∧ (∀ (n : Fin 128) (s : State),
    (∀ o b, s.lateOp n = some o → b = s.biasOf n → Runs (.lateDetect (.bias n)) s fun u =>
      BiasBecomes s u n { b with
        ops := b.ops.map fun p => if p = o then { p with late := true } else p, lateSeg := some o.seg }
      ∧ (b.lateSeg ≠ some o.seg → WentLate s u (n / 8) (6 + n % 8)) ∧ (b.lateSeg = some o.seg → Only [.out, .bias] s u))
    ∧ (s.lateOp n = none → Runs (.lateDetect (.bias n)) s fun u => u = s.fresh))

/-- R161: a lasting machine check on CRD puts the device into SAFE: the mode becomes SAFE, and where it was another,
the mode record names the cause and the mode before. -/
def Obligations.LastingCheckOnCrdEntersSafe : Prop :=
  ∀ (s : State) (addr : BitVec 15) (again : Bool), s.mode ≠ .reset → s.get F.engineStatus_STATE 16 ≠ 3 →
    (again = true ∨ 0x4400 ≤ addr.toNat) → Runs (.machineCheck 16 addr again) s fun u => u.mode = .safe
      ∧ (s.mode ≠ .safe → u.get F.modeRecord_CAUSE = 0x11 ∧ u.get F.modeRecord_PREV_MODE = s.mode.code % 8)

/-- R394: MODE_SET. A transition that the table does not list is refused with REFUSED_MODE, a MODE_SET to the present
mode returns OK at once, and one that the table lists is made. -/
def Obligations.ModeSetTransitions : Prop :=
  ∀ (m : Fin 16) (s : State) (target : Option Mode), Asks s m 0x0103 4 → target = modeOf ((s.request m).at 0 1) →
    s.flag F.modeRecord_RECOVERY = false →
    ((∀ x, target = some x → x ≠ s.mode ∧ x ∉ modeSetTable s.mode) → Runs (.modeSet m) s fun u =>
      Answered s u m .refusedMode s.mode.code [] ∧ Only [.out, .mailboxes, .host, .hatband, .log, .image .logStatus] s u)
    ∧ ((s.request m).at 1 3 = 0 → s.modeSetWaits = false →
      (target = some s.mode → Runs (.modeSet m) s fun u => Answered s u m .ok 0 (leBytes s.mode.code 1 ++ zeros 3)
        ∧ Only [.out, .mailboxes, .host, .hatband, .log, .image .logStatus] s u)
      ∧ (∀ x, target = some x → x ∈ modeSetTable s.mode →
        (x = .parked → s.anyRun = false ∧ (s.mode = .safe → s.safeCleared = true)) →
        Runs (.modeSet m) s fun u => u.mode = x))

/-- R307: the wall clock is 0 at the first lock, and TIME_VALID then sets. A loss of lock or of the reference holds
its value and clears TIME_VALID; while unlocked a tick leaves it, while locked it counts. At a later lock it goes on
from the value held, with HOLDOVER set and STEPPED clear. -/
def Obligations.WallClockAcrossLock : Prop :=
  (∀ s : State, s.flag F.gridStatus_REFCLK_OK = true → s.flag F.gridStatus_PLL_LOCK = false → s.mode ≠ .reset →
    Runs .pllLock s fun u => u.flag F.gridStatus_PLL_LOCK = true ∧ u.flag F.timeStatus_TIME_VALID = true
      ∧ u.clock.wallStarted = true
      ∧ (s.clock.wallStarted = false → u.clock.wall96 = 0)
      ∧ (s.clock.wallStarted = true → u.clock.wall96 = s.clock.wall96 ∧ u.flag F.timeStatus_HOLDOVER = true
        ∧ u.flag F.timeStatus_STEPPED = false))
  ∧ (∀ s : State, s.flag F.gridStatus_PLL_LOCK = true → Runs .pllLockLoss s fun u =>
    u.flag F.gridStatus_PLL_LOCK = false ∧ u.flag F.timeStatus_TIME_VALID = false ∧ u.clock.wall96 = s.clock.wall96
      ∧ u.clock.wallStarted = s.clock.wallStarted)
  ∧ (∀ s : State, s.flag F.gridStatus_REFCLK_OK = true → s.mode ≠ .reset → Runs .refclkLoss s fun u =>
    u.flag F.gridStatus_PLL_LOCK = false ∧ u.flag F.timeStatus_TIME_VALID = false ∧ u.clock.wall96 = s.clock.wall96
      ∧ u.clock.wallStarted = s.clock.wallStarted)
  ∧ (∀ s : State, s.pending = [] → s.power.ramp = none → ∃ u, step s = .next u
    ∧ (s.flag F.gridStatus_PLL_LOCK = false → u.clock.wall96 = s.clock.wall96)
    ∧ (s.flag F.gridStatus_PLL_LOCK = true → (u.clock.wall96 : Int)
      = ((s.clock.wall96 : Int) + 0x140000000 + signed (s.get F.timeStatus_RATE_ADJ) 32) % 2 ^ 96))

/-- R46: SYNC. SYNC_ARM arms or disarms in PARKED and CALIBRATE alone; an edge that comes while armed is accepted,
once, with its phase, raises SYNC_ACCEPTED and disarms; one that comes while not armed is counted as extra and moves
nothing. -/
def Obligations.SyncArming : Prop :=
  (∀ (m : Fin 16) (s : State), Asks s m 0x0106 4 →
    (s.mode ≠ .parked → s.mode ≠ .calibrate → Runs (.syncArm m) s fun u =>
      Answered s u m .refusedMode s.mode.code [] ∧ u.flag F.gridStatus_SYNC_ARMED = s.flag F.gridStatus_SYNC_ARMED)
    ∧ (s.mode = .parked ∨ s.mode = .calibrate → s.refuses (s.request m) = false → (s.request m).at 1 3 = 0 →
      ((s.request m).at 0 1 = 1 → Runs (.syncArm m) s fun u => u.flag F.gridStatus_SYNC_ARMED = true
        ∧ u.clock.edgeAccepted = false
        ∧ Answered s u m .ok 0 (leBytes 0 2 ++ leBytes (s.get F.syncControl_SYNC_PHASE) 2))
      ∧ ((s.request m).at 0 1 = 0 → Runs (.syncArm m) s fun u => u.flag F.gridStatus_SYNC_ARMED = false
        ∧ Answered s u m .ok 0 (leBytes (if s.clock.edgeAccepted then 1 else 0) 1 ++ zeros 1
          ++ leBytes (s.get F.syncControl_SYNC_PHASE) 2))))
  ∧ (∀ (phi : Fin 1024) (s : State), s.mode ≠ .reset → Runs (.syncEdge phi) s fun u =>
    u.get F.syncControl_SYNC_PHASE = phi ∧ u.flag F.gridStatus_SYNC_ARMED = false
    ∧ (s.flag F.gridStatus_SYNC_ARMED = true → u.clock.edgeAccepted = true ∧ Raised s u 1136 0 0
      ∧ u.get F.gridStatus_SYNC_ACCEPT_COUNT = satAdd (s.get F.gridStatus_SYNC_ACCEPT_COUNT) 1 F.gridStatus_SYNC_ACCEPT_COUNT.width
      ∧ u.get F.gridStatus_SYNC_EXTRA_COUNT = s.get F.gridStatus_SYNC_EXTRA_COUNT)
    ∧ (s.flag F.gridStatus_SYNC_ARMED = false → u.clock = s.clock
      ∧ u.get F.gridStatus_SYNC_EXTRA_COUNT = satAdd (s.get F.gridStatus_SYNC_EXTRA_COUNT) 1 F.gridStatus_SYNC_EXTRA_COUNT.width
      ∧ u.get F.gridStatus_SYNC_ACCEPT_COUNT = s.get F.gridStatus_SYNC_ACCEPT_COUNT))

/-- R154, R156, R158 to R168: engines. A WAIT microword of the ROM whose condition has not come after its N ticks
times out: the count rises, and the word waits again; a machine check records its address and is reported, and a
lasting one stops the engine and aborts its run; an interrupt abandons an instance that waits, or is held behind the
guard, which sets at the fourth; ENGINE_RESTART waits for the engine's test, after which the engine idles, or fails
with FAULTED. Whether an interrupt finds a running engine before its commit is the model's free value (log 107), and
so is its hold-off: nothing is said of either. Rows whose own effect completes: ENGINE_RESTART, MACHINE_CHECK,
INTERRUPT_TAKEN, MICROWORD_WAIT_TIMEOUT, ENGINE_RESTART_DONE. -/
def Obligations.EngineEffects : Prop :=
  (∀ (e : Fin 17) (s : State),
    (∀ w, e.val < 16 → s.rewritten (opcodeOf (s.wordAt e)) = false → s.control.waitWord (opcodeOf (s.wordAt e)) = some w →
      s.get F.engineStatus_STATE e = 2 → timeoutOf w ≠ 0 → (s.engine e).microSince + timeoutOf w < s.clock.now →
      s.waitOver e (s.wordAt e) = false → Runs (.microwordWaitTimeout e) s fun u =>
      u.engine e = { s.engine e with abandoned := 0, microSince := s.clock.now } ∧ u.flag F.engineStatus_GUARD e = false
        ∧ u.get F.engineStatus_TIMEOUT_COUNT e = satAdd (s.get F.engineStatus_TIMEOUT_COUNT e) 1 F.engineStatus_TIMEOUT_COUNT.width
        ∧ u.get F.engineStatus_STATE e = 2 ∧ (∀ k, k ≠ e.val → u.engine k = s.engine k)
        ∧ Only [.out, .engines, .image .engineStatus] s u)
    ∧ ((e.val = 16 ∨ s.get F.engineStatus_STATE e ≠ 2 ∨ ∀ w, s.control.waitWord (opcodeOf (s.wordAt e)) = some w →
        timeoutOf w = 0 ∨ s.clock.now ≤ (s.engine e).microSince + timeoutOf w
          ∨ s.rewritten (opcodeOf (s.wordAt e)) = false ∧ s.waitOver e (s.wordAt e) = true) →
      Runs (.microwordWaitTimeout e) s fun u => u = s.fresh))
  ∧ (∀ (e : Fin 17) (addr : BitVec 15) (again : Bool) (s : State), s.mode ≠ .reset → s.get F.engineStatus_STATE e ≠ 3 →
    (again = false → (s.control.word addr.toNat).isSome = true → Runs (.machineCheck e addr again) s fun u =>
      u.get F.engineStatus_LAST_MC_ADDR e = addr.toNat ∧ Reported s u 6 ∧ (e.val < 16 → Raised s u (seqSource e 10) 0 0)
        ∧ u.get F.engineStatus_MC_TRANSIENT e = satAdd (s.get F.engineStatus_MC_TRANSIENT e) 1 F.engineStatus_MC_TRANSIENT.width
        ∧ u.get F.engineStatus_STATE e = s.get F.engineStatus_STATE e
        ∧ Only [.out, .hatband, .log, .image .logStatus, .image .engineStatus] s u)
    ∧ ((again = true ∨ s.control.word addr.toNat = none) → e.val < 16 → Runs (.machineCheck e addr again) s fun u =>
      u.get F.engineStatus_LAST_MC_ADDR e = addr.toNat ∧ Reported s u 6 ∧ Raised s u (seqSource e 10) 0 0
        ∧ u.get F.engineStatus_STATE e = 3 ∧ u.flag F.engineStatus_MC_LASTING e = true
        ∧ u.flag F.engineStatus_GUARD e = false ∧ (u.engine e).pending = false ∧ u.mode = s.mode
        ∧ ∀ g, (s.tile e).group = some g → (s.group g).state ≠ .idle →
          ((s.group g).inShot = true → (u.group g).abort = true ∧ (u.group g).shotVoid = true
            ∧ ((s.tile e).stoodDown = none → (s.tile e).endTick = none →
              ((s.tile e).inShot = true ∨ (s.tile e).prepared = true) →
              (u.tile e).stoodDown = some (s.tick e).toNat ∧ (u.tile e).ended = true))
          ∧ ((s.group g).inShot = false → (u.group g).state = .idle ∧ ∀ t ∈ s.members g, (u.tile t).group = none)))
  ∧ (∀ (e : Fin 17) (s : State) (x : Engine), x = s.engine e →
    ((x.pending = false ∨ s.get F.engineStatus_STATE e = 3) → Runs (.interruptTaken e) s fun u => u = s.fresh)
    ∧ (x.pending = true → s.get F.engineStatus_STATE e ≠ 3 →
      (s.flag F.engineStatus_GUARD e = true → Runs (.interruptTaken e) s fun u =>
        u.engine e = { x with held := true } ∧ (∀ k, k ≠ e.val → u.engine k = s.engine k) ∧ Only [.out, .engines] s u)
      ∧ (s.flag F.engineStatus_GUARD e = false → Runs (.interruptTaken e) s fun u =>
        (u.engine e).pending = false ∧ (u.engine e).held = false
          ∧ (x.inst = true → u.get F.engineStatus_ABANDON_COUNT e = satAdd (s.get F.engineStatus_ABANDON_COUNT e) 1 F.engineStatus_ABANDON_COUNT.width)
          ∧ (x.inst = false → s.get F.engineStatus_STATE e ≠ 1 →
            u.get F.engineStatus_ABANDON_COUNT e = s.get F.engineStatus_ABANDON_COUNT e)
          ∧ (x.haltPending = false → x.voidPending = false → (u.engine e).inst = x.inst
            ∧ (x.inst = true → (u.engine e).abandoned = x.abandoned + 1)
            ∧ (x.inst = false → s.get F.engineStatus_STATE e ≠ 1 → (u.engine e).abandoned = x.abandoned)
            ∧ (x.inst = true → x.abandoned = 3 → u.flag F.engineStatus_GUARD e = true
              ∧ u.get F.engineStatus_GUARD_COUNT e = satAdd (s.get F.engineStatus_GUARD_COUNT e) 1 F.engineStatus_GUARD_COUNT.width)
            ∧ (∀ k, k ≠ e.val → u.engine k = s.engine k) ∧ Only [.out, .engines, .free, .image .engineStatus] s u)
          ∧ ((x.haltPending = true ∨ x.voidPending = true) → e.val < 16 → (s.tile e).group.isSome = true →
            (s.tile e).stoodDown = none → (s.tile e).endTick = none → ((s.tile e).inShot = true ∨ (s.tile e).prepared = true) →
            (u.tile e).stoodDown = some (s.tick e).toNat ∧ (u.tile e).ended = true ∧ Raised s u (seqSource e 6) 0 0
            ∧ (u.engine e).inst = false ∧ u.get F.engineStatus_STATE e = 0))))
  ∧ (∀ (m : Fin 16) (s : State), Passes s m 0x0A03 engineRestartCommand → Runs (.engineRestart m) s fun u =>
    Deferring s u m (.engineRestart ((s.request m).at 0 1)) ∧ Only [.out, .mailboxes] s u)
  ∧ (∀ (e : Fin 17) (bad : Option (BitVec 15)) (s : State) (a : Nat), a = (bad.map BitVec.toNat).getD 0xFFFF →
    (s.restarting e = true → s.get F.engineStatus_STATE e = 3 →
      ((bad = none ∨ s.matched a = true) → Runs (.engineRestartDone e bad) s fun u =>
        u.get F.engineStatus_STATE e = 0 ∧ u.flag F.engineStatus_MC_LASTING e = false
          ∧ AllEnded s u (.engineRestart e) .ok (leBytes a 2 ++ zeros 2) ∧ u.engines = s.engines
          ∧ Only [.out, .image .engineStatus, .mailboxes, .host, .hatband, .log, .image .logStatus] s u)
      ∧ (bad ≠ none → s.matched a = false → Runs (.engineRestartDone e bad) s fun u =>
        AllEnded s u (.engineRestart e) .faulted []
          ∧ Only [.out, .mailboxes, .host, .hatband, .log, .image .logStatus] s u))
    ∧ ((s.restarting e = false ∨ s.get F.engineStatus_STATE e ≠ 3) → Runs (.engineRestartDone e bad) s fun u => u = s.fresh))

/-- R169 to R171, R363: patches. PATCH_LOAD gathers a patch and stages it where it passes its checks; PATCH_APPLY
stops every engine that plays no shot; when all have stopped, the match registers, the patch RAM with its parity,
PATCH_ID and PATCH_HASH change together, the engines go on, and the next shot of a group that stood starts later by
the time that it stood; where PATCH_WAIT expires first, nothing is installed and the command ends with TIMEOUT. Rows
whose own effect completes: PATCH_LOAD, PATCH_APPLY, PATCH_SWAP, PATCH_WAIT_EXPIRY. -/
def Obligations.PatchEffects : Prop :=
  (∀ (m : Fin 16) (s : State) (total : Nat) (b : List Byte), Passes s m 0x0A01 patchLoadCommand → total = (s.request m).at 4 4 →
    b = s.patchTaken ((s.request m).at 0 4) total ++ (s.request m).payload.drop 8 →
    (b.length < total → Runs (.patchLoad m) s fun t => Done s t m (leBytes 0 4) fun u =>
      u.upload = { s.upload with patch := some (total, b) } ∧ Only [.upload, .out, .mailboxes] s u)
    ∧ (total ≤ b.length → s.patchVerdict b = none → Runs (.patchLoad m) s fun t => Done s t m (leBytes 1 4) fun u =>
      u.upload = { s.upload with patch := none, staged := some b } ∧ Only [.upload, .out, .mailboxes] s u)
    ∧ (∀ st, total ≤ b.length → s.patchVerdict b = some st → Runs (.patchLoad m) s fun t =>
      Answered s t m st (if st = .badRecord ∨ st = .badValue then 40 else 0) [] ∧ Reported s t 35
        ∧ t.upload = { s.upload with patch := none }
        ∧ Only [.upload, .out, .mailboxes, .host, .hatband, .log, .image .logStatus] s t))
  ∧ (∀ (m : Fin 16) (s : State), Passes s m 0x0A02 patchApplyCommand → Runs (.patchApply m) s fun t =>
    Deferring s t m .patchApply ∧ t.upload = { s.upload with patchSince := some s.clock.now }
      ∧ t.flag F.mcVersion_PATCH_PENDING = true
      ∧ (∀ e < 17, s.atBoundary e = true → t.engine e =
        { s.engine e with patchStop := some ((s.engine e).patchStop.getD s.clock.now) })
      ∧ (∀ e < 17, s.atBoundary e = false → t.engine e = s.engine e)
      ∧ Only [.out, .mailboxes, .upload, .image .mcVersion, .engines, .drive, .bias, .acq, .runs] s t)
  ∧ (∀ (s : State) (w : Nat) (b : List Byte), s.upload.patchSince = some w → s.upload.staged = some b →
    ((∀ e < 17, (s.engine e).patchStop.isSome = true) → Runs .patchSwap s fun u =>
      (∀ i < 64, u.image .matchReg i = if i < patchMatches b then bits (patchMatch b i) 0 25 else 0)
      ∧ u.upload.patchRam = SMap.writeAll [] 0 0 (if patchMatches b = 0 then [] else (List.range (patchWords b)).map fun i => withParity (patchWord b i))
      ∧ u.upload.patchSince = none ∧ u.upload.staged = none ∧ u.flag F.mcVersion_PATCH_PENDING = false
      ∧ u.get F.mcVersion_PATCH_ID = (if patchMatches b = 0 then 0 else patchId b % 2 ^ F.mcVersion_PATCH_ID.width)
      ∧ u.get F.mcVersion_PATCH_HASH = (if patchMatches b = 0 then 0 else le (sha384 b) 0 8 % 2 ^ F.mcVersion_PATCH_HASH.width)
      ∧ (∀ e < 17, u.engine e = { s.engine e with patchStop := none })
      ∧ (∀ g < 16, ((s.group g).state ≠ .running ∨ (s.group g).inShot = true) → u.group g = s.group g)
      ∧ (∀ g < 16, ∀ k, (s.group g).state = .running → (s.group g).inShot = false → s.members g ≠ [] →
        (∀ t ∈ s.members g, (s.engine t).patchStop = some k) →
        u.group g = { s.group g with base := (s.group g).base + 16 * (s.clock.now - k) })
      ∧ AllEnded s u .patchApply .ok (leBytes (u.get F.mcVersion_PATCH_ID) 4 ++ zeros 4)
      ∧ Only [.out, .image .matchReg, .upload, .image .mcVersion, .runs, .engines, .mailboxes, .host, .hatband, .log, .image .logStatus] s u)
    ∧ ((∃ e < 17, (s.engine e).patchStop = none) → Runs .patchSwap s fun u => u = s.fresh))
  ∧ (∀ (s : State) (w : Nat), s.upload.patchSince = some w →
    (w + s.get F.patchControl_PATCH_WAIT * Config.ticksPerMs ≤ s.clock.now → (∃ e < 17, (s.engine e).patchStop = none) →
      Runs .patchWaitExpiry s fun u =>
        u.upload = { s.upload with patchSince := none, staged := none } ∧ u.flag F.mcVersion_PATCH_PENDING = false
        ∧ (∀ e < 17, u.engine e = { s.engine e with patchStop := none })
        ∧ Reported s u 35 ∧ AllEnded s u .patchApply .timeout []
        ∧ Only [.out, .upload, .image .mcVersion, .runs, .engines, .mailboxes, .host, .hatband, .log, .image .logStatus] s u)
    ∧ ((s.clock.now < w + s.get F.patchControl_PATCH_WAIT * Config.ticksPerMs ∨ (∀ e < 17, (s.engine e).patchStop.isSome = true)) →
      Runs .patchWaitExpiry s fun u => u = s.fresh))

/-- R247 to R253, R265 to R269, R272: Uluforam. A lane that hunts moves its block boundary by one bit at an invalid
header and locks after 64 valid ones, which sets its bit, and the eighth starts ALIGN; one that finds 16 invalid
headers among 64 loses its lock and takes the direction DOWN, raises and reports, and a commit that was pending fails.
A superframe sends its control frame once, sealed and under control headers; a control frame that passes its check and
has those headers brings the direction UP, notes the partner's hashes and marks a mismatch. A commit is deferred,
swaps the banks at its superframe where the partner agrees, and fails at its deadline with both banks unchanged.
Notices precede the low-power state; PRBS checkers synchronise and count; ULP_STATUS returns the records; LINK_RETRAIN
takes the direction DOWN. Rows whose own effect completes: ULP_STATUS, TABLE_COMMIT, LINK_RETRAIN, LANE_LOCK,
LANE_LOCK_LOSS, SUPERFRAME_START, CONTROL_FRAME_RX, SLOT_SWAP, SWAP_TIMEOUT, LINK_SLEEP_ENTER, PRBS_CHECK_ERROR,
PRBS_SYNC. -/
def Obligations.UluforamEffects : Prop :=
  (∀ (m : Fin 16) (s : State), Passes s m 0x0701 ulpStatusCommand → Runs (.ulpStatus m) s fun t =>
    Answered s t m .ok 0 ((List.range 4).flatMap fun p =>
      leBytes (setBits (s.image .ulpStatus p) 160 32 (s.tableHash (s.activeTable p))) 32)
    ∧ Only [.log, .image .logStatus, .out, .hatband, .mailboxes, .host] s t)
  ∧ (∀ (m : Fin 16) (s : State) (p : Nat), Passes s m 0x0702 tableCommitCommand → p = (s.request m).at 0 1 →
    Runs (.tableCommit m) s fun t => Deferring s t m (.tableCommit p) ∧ t.flag F.ulpStatus_SWAP_PENDING p = true
      ∧ PortBecomes s t p { s.port p with commitAt := some (s.port p).superframe, proposal := 0, swapAt := none }
      ∧ Only [.out, .mailboxes, .ports, .image .ulpStatus] s t)
  ∧ (∀ (m : Fin 16) (s : State) (p : Nat), Passes s m 0x0703 linkRetrainCommand → p = (s.request m).at 0 1 →
    s.deferredOf m = none →
    ((s.get F.ulpStatus_RX_STATE p = 1 ∨ s.get F.ulpStatus_RX_STATE p = 2) → Runs (.linkRetrain m) s fun t =>
      Done s t m [] fun u => WentDown s u p 0 ∧ Only downParts s u
        ∧ (s.get F.ulpStatus_RX_STATE p = 2 → Raised s u (768 + 16 * p + 11) 0 0))
    ∧ (s.get F.ulpStatus_RX_STATE p ≠ 1 → s.get F.ulpStatus_RX_STATE p ≠ 2 → Runs (.linkRetrain m) s fun t =>
      Answered s t m .ok 0 [] ∧ Only [.log, .image .logStatus, .out, .hatband, .mailboxes, .host] s t))
  ∧ (∀ (p : Fin 4) (l : Fin 8) (hs : List (BitVec 2)) (s : State) (rx : Nat) (a : LaneAlign),
    rx = s.get F.ulpStatus_RX_STATE p → a = hs.foldl LaneAlign.hunt (s.align p l) →
    (s.portOn p = true → bit (s.get F.ulpStatus_LANE_LOCK p) l = false →
      (rx = 0 ∨ rx = 1 ∨ rx = 3 ∨ (rx = 5 ∧ s.looped p = true)) →
      (64 ≤ a.run → Runs (.laneLock p l hs) s fun u =>
        (∀ k < 8, bit (u.get F.ulpStatus_LANE_LOCK p) k = (bit (s.get F.ulpStatus_LANE_LOCK p) k || k = l.val))
        ∧ u.get F.ulpStatus_RX_STATE p = (if u.get F.ulpStatus_LANE_LOCK p = 0xFF ∧ rx ≠ 5 then 1 else rx)
        ∧ PortBecomes s u p { s.port p with
            lanes := (s.port p).lanes.write 0 l (bits (s.image .ulpLane (8 * p + l)) 0 22)
            aligns := (s.port p).aligns.write .init l { a with run := 0 } }
        ∧ Only [.out, .ports, .image .ulpStatus] s u)
      ∧ (a.run < 64 → Runs (.laneLock p l hs) s fun u =>
        PortBecomes s u p { s.port p with aligns := (s.port p).aligns.write .init l a } ∧ Only [.out, .ports] s u))
    ∧ ((s.portOn p = false ∨ bit (s.get F.ulpStatus_LANE_LOCK p) l = true ∨ rx = 2 ∨ rx = 4
        ∨ (rx = 5 ∧ s.looped p = false)) → Runs (.laneLock p l hs) s fun u => u = s.fresh))
  ∧ (∀ (a : LaneAlign) (hs : List (BitVec 2)),
    (64 ≤ hs.length → (∀ h ∈ hs, h = 1 ∨ h = 2) → 64 ≤ (hs.foldl LaneAlign.hunt a).run)
    ∧ (a.run < 64 → ∀ h, (h = 0 ∨ h = 3) → a.hunt h = { a with boundary := (a.boundary + 1) % 66, run := 0 })
    ∧ (a.recent = [] → hs.length ≤ 64 → ((a.follow hs).1 = true ↔ 16 ≤ hs.countP fun h => h == 0 || h == 3)))
  ∧ (∀ (p : Fin 4) (l : Fin 8) (hs : List (BitVec 2)) (s : State) (rx : Nat) (a : LaneAlign) (lost : Bool),
    rx = s.get F.ulpStatus_RX_STATE p → (lost, a) = (s.align p l).follow hs →
    (bit (s.get F.ulpStatus_LANE_LOCK p) l = false → Runs (.laneLockLoss p l hs) s fun u => u = s.fresh)
    ∧ (bit (s.get F.ulpStatus_LANE_LOCK p) l = true → lost = false → Runs (.laneLockLoss p l hs) s fun u =>
      PortBecomes s u p { s.port p with aligns := (s.port p).aligns.write .init l a } ∧ Only [.out, .ports] s u)
    ∧ (bit (s.get F.ulpStatus_LANE_LOCK p) l = true → lost = true →
      ((rx = 1 ∨ rx = 2) → Runs (.laneLockLoss p l hs) s fun u => WentDown s u p 0 ∧ Only downParts s u
        ∧ u.get F.ulpStatus_LOCK_LOSS p = satAdd (s.get F.ulpStatus_LOCK_LOSS p) 1 F.ulpStatus_LOCK_LOSS.width
        ∧ Raised s u (768 + 16 * p + 9) 0 0 ∧ Raised s u (768 + 16 * p + 11) 0 0 ∧ Reported s u 11)
      ∧ (rx = 5 → Runs (.laneLockLoss p l hs) s fun u => WentDown s u p 5 ∧ Only downParts s u)
      ∧ (rx ≠ 1 → rx ≠ 2 → rx ≠ 5 → Runs (.laneLockLoss p l hs) s fun u => u.get F.ulpStatus_LANE_LOCK p = 0
        ∧ u.get F.ulpStatus_RX_STATE p = rx ∧ Only [.out, .image .ulpStatus] s u)))
  ∧ (∀ (p : Fin 4) (s : State) (n : Nat), n = s.superframeNow →
    (s.sends p = true → (s.port p).lastFrame ≠ n + 1 → Runs (.superframeStart p) s fun u =>
      u.get F.ulpStatus_SUPERFRAME p = n % 2 ^ 32 ∧ (u.port p).superframe = n ∧ (u.port p).lastFrame = n + 1
      ∧ (u.port p).nakFrame = false
      ∧ (∃ f, SlotSent s u p controlHeader f ∧ checkGood f = true ∧ bits f 0 8 = 0xC0 ∧ bits f 8 64 = n % 2 ^ 64)
      ∧ ((s.port p).commitAt ≠ none → (s.port p).proposal = 0 → (u.port p).proposal = n + 4)
      ∧ (∀ q, q ≠ p.val → u.port q = s.port q) ∧ Only [.out, .image .ulpStatus, .ports, .clock, .free] s u)
    ∧ ((s.sends p = false ∨ (s.port p).lastFrame = n + 1) → Runs (.superframeStart p) s fun u => u = s.fresh))
  ∧ (∀ (p : Fin 4) (s : State),
    (s.sleepDue p = true → 2 ≤ (s.port p).notices → (s.port p).lastFrame ≠ s.superframeNow + 1 →
      Runs (.linkSleepEnter p) s fun u => u.get F.ulpStatus_TX_STATE p = s.get F.ulpControl_TX_POWER p + 1
        ∧ PortBecomes s u p { s.port p with notices := 0 } ∧ Only [.out, .image .ulpStatus, .ports] s u)
    ∧ ((s.sleepDue p = false ∨ (s.port p).notices < 2 ∨ (s.port p).lastFrame = s.superframeNow + 1) →
      Runs (.linkSleepEnter p) s fun u => u = s.fresh))
  ∧ (∀ (p : Fin 4) (s : State) (k : Nat), (s.port p).swapAt = some k →
    (s.flag F.ulpStatus_SWAP_PENDING p = true → k ≤ s.superframeNow → (s.port p).partnerProposalAt + 1 ≤ k →
      Runs (.slotSwap p) s fun u => u.get F.ulpStatus_ACTIVE_BANK p = 1 - s.get F.ulpStatus_ACTIVE_BANK p
        ∧ u.flag F.ulpStatus_SWAP_PENDING p = false ∧ Raised s u (768 + 16 * p + 13) 0 0
        ∧ (u.flag F.ulpStatus_MISMATCH p = true ↔ s.flag F.ulpStatus_MISMATCH p = true
          ∨ (s.port p).remoteShadow ≠ s.tableHash (s.shadowTable p))
        ∧ ((s.port p).remoteShadow ≠ s.tableHash (s.shadowTable p) → s.flag F.ulpStatus_MISMATCH p = false →
          Raised s u (768 + 16 * p + 12) 0 0 ∧ Reported s u 12)
        ∧ PortBecomes s u p { s.port p with commitAt := none, proposal := 0, partnerProposal := 0 }
        ∧ AllEnded s u (.tableCommit p) .ok (leBytes k 8 ++ leBytes (u.get F.ulpStatus_MISMATCH p) 1 ++ zeros 3)
        ∧ Only [.image .ulpStatus, .log, .image .logStatus, .out, .hatband, .ports, .mailboxes, .host] s u)
    ∧ ((s.flag F.ulpStatus_SWAP_PENDING p = false ∨ s.superframeNow < k ∨ k < (s.port p).partnerProposalAt + 1) →
      Runs (.slotSwap p) s fun u => u = s.fresh))
  ∧ (∀ (p : Fin 4) (s : State) (c : Nat), (s.port p).commitAt = some c →
    (c + 1024 ≤ s.superframeNow → s.flag F.ulpStatus_SWAP_PENDING p = true → Runs (.swapTimeout p) s fun u =>
      u.flag F.ulpStatus_SWAP_PENDING p = false ∧ u.flag F.ulpStatus_SWAP_FAILED p = true
      ∧ u.get F.ulpStatus_ACTIVE_BANK p = s.get F.ulpStatus_ACTIVE_BANK p
      ∧ PortBecomes s u p { s.port p with commitAt := none, proposal := 0, swapAt := none }
      ∧ AllEnded s u (.tableCommit p) .timeout []
      ∧ Only [.image .ulpStatus, .ports, .mailboxes, .log, .image .logStatus, .out, .hatband, .host] s u)
    ∧ ((s.superframeNow < c + 1024 ∨ s.flag F.ulpStatus_SWAP_PENDING p = false) →
      Runs (.swapTimeout p) s fun u => u = s.fresh))
  ∧ (∀ (p : Fin 4) (hs : BitVec 16) (frame : BitVec 512) (s : State) (rx f : Nat),
    rx = s.get F.ulpStatus_RX_STATE p → f = frame.toNat →
    (s.get F.ulpStatus_LANE_LOCK p = 0xFF → (rx = 1 ∨ rx = 2 ∨ s.looped p = true) → headersAre hs controlHeader = true →
      checkGood f = true → Runs (.controlFrameRx p hs frame) s fun u => u.get F.ulpStatus_REMOTE_HASH p = bits f 72 32
        ∧ (u.port p).remoteShadow = bits f 104 32
        ∧ ((u.port p).sameFrame = true ↔ bits f 8 64 = (s.port p).superframe)
        ∧ (bit f 201 = false → bit f 202 = false → u.get F.ulpStatus_RX_STATE p = (if rx = 1 then 2 else rx)
          ∧ (u.port p).controlOk = true ∧ (u.port p).rxNotice = 0)
        ∧ (rx = 1 → Raised s u (768 + 16 * p + 10) 0 0)
        ∧ ((bit f 201 = true ∨ bit f 202 = true) → rx = 2 →
          ((s.port p).rxNotice = 0 → u.get F.ulpStatus_RX_STATE p = 2 ∧ (u.port p).rxNotice = 1)
          ∧ (1 ≤ (s.port p).rxNotice → u.get F.ulpStatus_RX_STATE p = 3 ∧ u.get F.ulpStatus_LANE_LOCK p = 0
            ∧ (u.port p).rxNotice = 0))
        ∧ (s.flag F.ulpStatus_SWAP_PENDING p = true → bits f 72 32 ≠ s.tableHash (s.activeTable p) →
          u.flag F.ulpStatus_MISMATCH p = true ∧ (s.flag F.ulpStatus_MISMATCH p = false →
            Raised s u (768 + 16 * p + 12) 0 0))
        ∧ (∀ q, q ≠ p.val → u.port q = s.port q)
        ∧ Only [.out, .ports, .hatband, .image .ulpStatus, .clock, .image .timeStatus, .log, .image .logStatus] s u)
    ∧ ((s.get F.ulpStatus_LANE_LOCK p ≠ 0xFF ∨ (rx ≠ 1 ∧ rx ≠ 2 ∧ s.looped p = false)
        ∨ headersAre hs controlHeader = false ∨ checkGood f = false) →
      Runs (.controlFrameRx p hs frame) s fun u => u = s.fresh))
  ∧ (∀ (p : Fin 4) (l : Fin 8) (s : State),
    (s.checks p l = true → Runs (.prbsSync p l) s fun u => u.flag F.ulpLane_PRBS_SYNC (8 * p + l) = true
      ∧ Only [.out, .image .ulpLane] s u)
    ∧ (s.checks p l = false → Runs (.prbsSync p l) s fun u => u = s.fresh)
    ∧ (s.checks p l = true → s.flag F.ulpLane_PRBS_SYNC (8 * p + l) = true → Runs (.prbsCheckError p l) s fun u =>
      u.get F.ulpLane_PRBS_ERRORS (8 * p + l) = satAdd (s.get F.ulpLane_PRBS_ERRORS (8 * p + l)) 1 F.ulpLane_PRBS_ERRORS.width
      ∧ (l.val ∉ (s.port p).prbsSeen → Raised s u (768 + 16 * p + 15) 0 0
        ∧ PortBecomes s u p { s.port p with prbsSeen := (s.port p).prbsSeen ++ [l.val] })
      ∧ (l.val ∈ (s.port p).prbsSeen → u.ports = s.ports ∧ u.hatband = s.hatband)
      ∧ Only [.out, .hatband, .ports, .image .ulpLane] s u)
    ∧ ((s.checks p l = false ∨ s.flag F.ulpLane_PRBS_SYNC (8 * p + l) = false) → Runs (.prbsCheckError p l) s fun u =>
      u = s.fresh))

/-- R252, R255 to R263, R266: decision frames and bulk cells. A frame that is built reads and clears its 8 latches,
advances the sequence numbers of those that it sends, and goes out sealed in a pair of slots, or under MISMATCH as a
bulk cell; a slot is good where its check passes and its headers are those of its kind; under MISMATCH a decision slot
is handled as a bulk slot; the first good copy of a pair is used and raises its streams, a gap raises DEC_MISSING, a
new partner arrival raises BARRIER_RX; a good second copy is used and counted where the first was not. A cell that
fails its check owes a NAK, a second one in a row is lasting, is reported and takes the direction DOWN; a good cell
takes its ACK, and the cell expected is taken once. Cells to send again go before new data; an ACK that stays out
makes every unacknowledged cell go again. Rows whose own effect completes: DECISION_FRAME_BUILD, DECISION_FRAME_RX,
BULK_CELL_RX, BULK_ACK_TIMEOUT, BULK_CELL_TX. -/
def Obligations.FrameAndCellEffects : Prop :=
  (∀ (p : Fin 4) (slot : BitVec 8) (s : State),
    (s.sends p = true → s.slotKind p slot.toNat = 1 → Runs (.decisionFrameBuild p slot) s fun u =>
      (∀ j < 8, (u.port p).latches.find j = none)
      ∧ (∀ j < 8, ∀ x h c, (s.port p).latches.find j = some (x, h, c) → c.1 < 3 →
        (u.port p).seqSent.read 0 j = ((s.port p).seqSent.read 0 j + 1) % 16)
      ∧ (∀ j < 8, (s.port p).latches.find j = none → (u.port p).seqSent.read 0 j = (s.port p).seqSent.read 0 j)
      ∧ (∃ f, checkGood f = true ∧ bits f 0 8 = 0xD1 ∧ bits f 8 8 = slot.toNat
        ∧ (s.flag F.ulpStatus_MISMATCH p = false → SlotSent s u p controlHeader f ∧ (u.port p).queue = (s.port p).queue)
        ∧ (s.flag F.ulpStatus_MISMATCH p = true → (u.port p).queue = (s.port p).queue ++ [(2, leBytes f 52)]))
      ∧ (u.port p).voidOrder = s.fresh.settleAll.voidCarried p
      ∧ (∀ q, q ≠ p.val → u.port q = s.fresh.settleAll.port q) ∧ u.program = s.fresh.settleAll.program
      ∧ Only [.ports, .out, .free, .hatband, .image .hatbandControl, .log, .image .logStatus, .image .channel, .runs,
        .image .runStatus, .acq, .engines] s u)
    ∧ ((s.sends p = false ∨ s.slotKind p slot.toNat ≠ 1) → Runs (.decisionFrameBuild p slot) s fun u => u = s.fresh))
  ∧ (∀ (p : Fin 4) (hs : BitVec 16) (frame : BitVec 512) (s : State) (f : Nat) (good : Bool), f = frame.toNat →
    good = (headersAre hs controlHeader && checkGood f) →
    (s.hears p = false → ∀ second, Runs (.decisionFrameRx p second hs frame) s fun u => u = s.fresh)
    ∧ (s.hears p = true → s.flag F.ulpStatus_MISMATCH p = true → ∀ second,
      exec (.decisionFrameRx p second hs frame) s = exec (.bulkCellRx p hs frame) s)
    ∧ (s.hears p = true → s.flag F.ulpStatus_MISMATCH p = false →
      (good = true → Runs (.decisionFrameRx p false hs frame) s fun u => FrameUsed s u p f
        ∧ (u.port p).firstUsed = true ∧ (u.port p).firstFailed = false ∧ Only frameParts s u)
      ∧ (good = false → Runs (.decisionFrameRx p false hs frame) s fun u =>
        PortBecomes s u p { s.port p with firstUsed := false, firstFailed := true } ∧ Only [.out, .ports] s u)
      ∧ (((s.port p).firstUsed = true ∨ good = false) → Runs (.decisionFrameRx p true hs frame) s fun u =>
        PortBecomes s u p { s.port p with firstUsed := false, firstFailed := false } ∧ Only [.out, .ports] s u)
      ∧ ((s.port p).firstUsed = false → good = true → Runs (.decisionFrameRx p true hs frame) s fun u =>
        FrameUsed s u p f ∧ (u.port p).firstFailed = false
        ∧ u.get F.ulpStatus_DEC_DUP_USED p = satAdd (s.get F.ulpStatus_DEC_DUP_USED p) 1 F.ulpStatus_DEC_DUP_USED.width
        ∧ Only frameParts s u)))
  ∧ (∀ (p : Fin 4) (hs : BitVec 16) (cell : BitVec 512) (s : State) (c : Nat) (good : Bool), c = cell.toNat →
    good = (headersAre hs dataHeader && checkGood c) →
    (s.hears p = false → Runs (.bulkCellRx p hs cell) s fun u => u = s.fresh)
    ∧ (s.hears p = true → good = false →
      ((s.port p).rxFailed = false → Runs (.bulkCellRx p hs cell) s fun u =>
        PortBecomes s u p { s.port p with nakCell := true, nakFrame := true, rxFailed := true } ∧ Only [.out, .ports] s u)
      ∧ ((s.port p).rxFailed = true → Runs (.bulkCellRx p hs cell) s fun u => Reported s u 10
        ∧ u.get F.ulpStatus_BULK_LASTING p = satAdd (s.get F.ulpStatus_BULK_LASTING p) 1 F.ulpStatus_BULK_LASTING.width
        ∧ (s.get F.ulpStatus_RX_STATE p = 2 → u.get F.ulpStatus_RX_STATE p = 0 ∧ u.get F.ulpStatus_LANE_LOCK p = 0
          ∧ Raised s u (768 + 16 * p + 11) 0 0)
        ∧ (u.port p).unacked = (s.port p).unacked ∧ (u.port p).queue = (s.port p).queue ∧ Only downParts s u))
    ∧ (s.hears p = true → good = true → ∀ seq, seq = bits c 0 16 →
      Runs (.bulkCellRx p hs cell) s fun u => AckTaken s u p (bits c 16 16) ∧ Only frameParts s u
        ∧ (bit c 32 = false → (u.port p).rxExpected = (s.port p).rxExpected ∧ (u.port p).nakCell = (s.port p).nakCell)
        ∧ (bit c 32 = true → seq = (s.port p).rxExpected → (u.port p).rxExpected = (seq + 1) % 2 ^ 16
          ∧ (u.port p).rxFailed = false ∧ (bits c 34 4 = 2 → FrameUsed s u p (bits c 64 416)))
        ∧ (bit c 32 = true → seq ≠ (s.port p).rxExpected → (u.port p).rxExpected = (s.port p).rxExpected
          ∧ ((seq + 2 ^ 16 - (s.port p).rxExpected) % 2 ^ 16 < 1024 → (s.port p).rxFailed = false →
            (u.port p).nakCell = true ∧ (u.port p).nakFrame = true))))
  ∧ (∀ (p : Fin 4) (s : State),
    (s.sends p = true → s.hears p = true → s.hasBulk p = true →
      (∀ c rest, (s.port p).resend = c :: rest → Runs (.bulkCellTx p) s fun u =>
        (∃ f, CellSent s u p f c.1 true c.2) ∧ (u.port p).resend = rest ∧ (u.port p).nakCell = false
        ∧ (u.port p).unacked = (s.port p).unacked ∧ (u.port p).queue = (s.port p).queue
        ∧ (∀ q, q ≠ p.val → u.port q = s.port q) ∧ Only [.out, .ports, .free] s u)
      ∧ (∀ ch data rest, (s.port p).resend = [] → (s.port p).queue = (ch, data) :: rest →
        (s.port p).unacked.length < 1024 → Runs (.bulkCellTx p) s fun u => ∃ b, (∃ f, CellSent s u p f (s.port p).txSeq true b)
          ∧ bits b 34 4 = ch % 16 ∧ (u.port p).unacked = (s.port p).unacked ++ [((s.port p).txSeq, b)]
          ∧ (u.port p).queue = rest ∧ (u.port p).txSeq = ((s.port p).txSeq + 1) % 2 ^ 16 ∧ (u.port p).nakCell = false
          ∧ (∀ q, q ≠ p.val → u.port q = s.port q) ∧ Only [.out, .ports, .free] s u)
      ∧ ((s.port p).resend = [] → ((s.port p).queue = [] ∨ 1024 ≤ (s.port p).unacked.length) →
        Runs (.bulkCellTx p) s fun u => (∃ f, CellSent s u p f (s.port p).txSeq false 0)
          ∧ (u.port p).unacked = (s.port p).unacked ∧ (u.port p).queue = (s.port p).queue
          ∧ (u.port p).txSeq = (s.port p).txSeq ∧ (u.port p).nakCell = false
          ∧ (∀ q, q ≠ p.val → u.port q = s.port q) ∧ Only [.out, .ports, .free] s u))
    ∧ ((s.sends p = false ∨ s.hears p = false ∨ s.hasBulk p = false) → Runs (.bulkCellTx p) s fun u => u = s.fresh))
  ∧ (∀ (p : Fin 4) (s : State),
    ((s.port p).unacked ≠ [] → (s.port p).ackSince + 8 ≤ (s.port p).superframe → Runs (.bulkAckTimeout p) s fun u =>
      PortBecomes s u p { s.port p with resend := (s.port p).unacked, ackSince := (s.port p).superframe }
      ∧ u.get F.ulpStatus_BULK_RETX p = satAdd (s.get F.ulpStatus_BULK_RETX p) 1 F.ulpStatus_BULK_RETX.width
      ∧ Only [.out, .ports, .image .ulpStatus] s u)
    ∧ (((s.port p).unacked = [] ∨ (s.port p).superframe < (s.port p).ackSince + 8) →
      Runs (.bulkAckTimeout p) s fun u => u = s.fresh))

/-- R237, R290 to R300: Fulling. FULLING_SUBMIT queues its descriptors in order; an engine takes the first ready job
of its two queues in turn; a frame is written to the ring of its queue where it fits, or the job fails with NO_SPACE;
a poisoned source fails it with FAULTED; an EXPAND job writes the data of each frame to its destination blocks, or
fails with the frame's status. A commit advances WP by J, leaves the context its new state, raises 960 + e and posts
the completion; a failed job leaves WP, raises 968 + e and is counted. STREAM_SAVE writes the context's image with its
seals, STREAM_RESTORE takes one over after its checks, STREAM_RESET clears VALID and the history, STREAM_STATE returns
the state. An AUTO job runs again once there is room. Rows whose own effect completes: FULLING_SUBMIT, STREAM_SAVE,
STREAM_RESTORE, STREAM_RESET, STREAM_STATE, AUTO_JOB_RETRY, FULLING_JOB_START, FULLING_FRAME_WRITE,
FULLING_JOB_COMMIT. -/
def Obligations.FullingEffects : Prop :=
  (∀ (m : Fin 16) (s : State) (n : Nat), Passes s m 0x0501 fullingSubmitCommand → n = (s.request m).at 0 4 →
    Runs (.fullingSubmit m) s fun t => Done s t m (leBytes n 2 ++ zeros 2) fun u =>
      u.capture = { s.capture with jobs := s.capture.jobs ++ (List.range n).map fun i =>
        { desc := (s.request m).at (8 + 64 * i) 64, fn := (s.request m).fn, auto := false, chunkAt := 0, faults := 0
          waitSpace := false, waitFault := false } }
      ∧ Only [.out, .mailboxes, .capture] s u)
  ∧ (∀ (m : Fin 16) (s : State) (id : Nat), Passes s m 0x0504 streamResetCommand → id = (s.request m).at 0 2 →
    Runs (.streamReset m) s fun t => Done s t m [] fun u =>
      StreamBecomes s u id (setBits (setBits (s.streamCtx id) 12 1 0) 48 16 0) []
      ∧ Only [.out, .mailboxes, .capture] s u)
  ∧ (∀ (m : Fin 16) (s : State), Passes s m 0x0505 streamStateCommand → Runs (.streamState m) s fun t =>
    Answered s t m .ok 0 (leBytes (s.streamCtx ((s.request m).at 0 2)) 64)
    ∧ Only [.log, .image .logStatus, .out, .hatband, .mailboxes, .host] s t)
  ∧ (∀ (m : Fin 16) (s : State), s.storeOpen = false → Runs (.streamSave m) s (fun t => t = s.fresh)
    ∧ Runs (.streamRestore m) s fun t => t = s.fresh)
  ∧ (∀ (m : Fin 16) (s : State) (id a : Nat), s.storeOpen = true → Passes s m 0x0502 streamSaveCommand →
    id = (s.request m).at 0 2 → a = (s.request m).at 8 8 → Runs (.streamSave m) s fun t => Done s t m [] fun u =>
      (∀ k < 129, u.storeBytes (a + 256 * k) 256 = ((s.streamImage id).drop (256 * k)).take 256
        ∧ u.storeBlockSeal (a / 256 + k) = crc32c (((s.streamImage id).drop (256 * k)).take 256))
      ∧ Only [.out, .mailboxes, .store, .memory] s u)
  ∧ (∀ (m : Fin 16) (s : State) (id a ctx : Nat) (img : List Byte), s.storeOpen = true →
    Passes s m 0x0503 streamRestoreCommand → id = (s.request m).at 0 2 → a = (s.request m).at 8 8 →
    img = ((List.range 129).map fun i => s.storeBytes (a + 256 * i) 256).flatten → ctx = le img 0 64 →
    (s.storePoisoned a 33024 = true → Runs (.streamRestore m) s fun t => Answered s t m .faulted 0 []
      ∧ Only [.log, .image .logStatus, .out, .hatband, .mailboxes, .host, .memory] s t)
    ∧ (s.storePoisoned a 33024 = false →
      (∃ i < 129, crc32c (s.storeBytes (a + 256 * i) 256) ≠ s.storeBlockSeal (a / 256 + i)) →
      Runs (.streamRestore m) s fun t => Answered s t m .sealMismatch 0 []
        ∧ Only [.log, .image .logStatus, .out, .hatband, .mailboxes, .host, .memory] s t)
    ∧ (s.storePoisoned a 33024 = false →
      (∀ i < 129, crc32c (s.storeBytes (a + 256 * i) 256) = s.storeBlockSeal (a / 256 + i)) →
      (bits ctx 0 12 ≠ id → Runs (.streamRestore m) s fun t => Answered s t m .badValue 32 []
        ∧ Only [.log, .image .logStatus, .out, .hatband, .mailboxes, .host, .memory] s t)
      ∧ (bits ctx 0 12 = id → Runs (.streamRestore m) s fun t => Done s t m [] fun u =>
        StreamBecomes s u id ctx (img.drop (33024 - min 32768 (bits ctx 48 16)))
        ∧ Only [.out, .mailboxes, .capture, .memory] s u)))
  ∧ (∀ (e : Fin 8) (s : State),
    (∀ (q o : Nat) (j : Job), s.fullingRuns = true → s.capture.running.find e = none →
      (q = e.val ∧ o = e.val + 8 ∨ q = e.val + 8 ∧ o = e.val) → s.queueReady q = some j →
      (s.queueReady o = none ∨ (s.capture.turn.read 16 e = e ↔ q = e.val + 8)) →
      Runs (.fullingJobStart e) s fun u => (∃ x : RunJob, EngineRuns s u e (some x) ∧ x.job = j ∧ x.queue = q
          ∧ x.bytes = 0 ∧ x.frames = 0 ∧ x.taken = 0 ∧ x.written = 0 ∧ x.finished = false
          ∧ x.ctx = s.streamCtx (jobStream j.desc) ∧ x.history = s.streamHistory (jobStream j.desc)
          ∧ x.ready = s.clock.now
            + (if jobBlock j.desc || (s.capture.held.read [] e).contains (jobStream j.desc) then 200 else 3200))
        ∧ u.capture.jobs = removeJob j s.capture.jobs ∧ u.capture.turn.read 16 e = q ∧ Only [.out, .capture, .memory] s u)
    ∧ ((s.fullingRuns = false ∨ s.capture.running.find e ≠ none
        ∨ s.queueReady e = none ∧ s.queueReady (e + 8) = none) → Runs (.fullingJobStart e) s fun u => u = s.fresh))
  ∧ (∀ (e : Fin 8) (bad : List Nat) (poisoned : Bool) (s : State) (x : RunJob) (n : Nat) (f : List Byte),
    s.capture.running.find e = some x → x.finished = false → s.fullingRuns = true → x.ready ≤ s.clock.now →
    jobExpand x.job.desc = false → n = min (jobFrameLen x.job.desc) (jobSrcBlocks x.job.desc - x.taken) →
    f = (s.frameOf x n bad).1.1 →
    ((poisoned = true ∨ s.sourcePoisoned x.job x.taken n = true) → Runs (.fullingFrameWrite e bad poisoned) s fun u =>
      JobFailed s u e x .faulted ∧ Reported s u 21 ∧ Only jobParts s u)
    ∧ (poisoned = false → s.sourcePoisoned x.job x.taken n = false →
      (s.queueFree x.queue x.bytes < f.length → Runs (.fullingFrameWrite e bad poisoned) s fun u =>
        JobFailed s u e x .noSpace ∧ Only jobParts s u)
      ∧ (f.length ≤ s.queueFree x.queue x.bytes → Runs (.fullingFrameWrite e bad poisoned) s fun u =>
        (∃ x' : RunJob, EngineRuns s u e (some x') ∧ x'.job = x.job ∧ x'.frames = x.frames + 1 ∧ x'.taken = x.taken + n
          ∧ x'.bytes = x.bytes + f.length ∧ (x'.finished = true ↔ jobSrcBlocks x.job.desc ≤ x.taken + n))
        ∧ ((s.get F.outQueue_WP x.queue + x.bytes) % 64 = 0 → ∀ i < f.length / 64,
          u.storeBytes (4096 * s.get F.outQueue_BASE x.queue
              + (s.get F.outQueue_WP x.queue + x.bytes + 64 * i) % (4096 * s.get F.outQueue_SIZE x.queue)) 64 =
            (f.drop (64 * i)).take 64)
        ∧ (∀ g : Field, g.record = .outQueue → ∀ k, u.get g k = s.get g k) ∧ Only jobParts s u)))
  ∧ (∀ (e : Fin 8) (bad : List Nat) (poisoned : Bool) (s : State) (x : RunJob) (src : List Byte),
    s.capture.running.find e = some x → x.finished = false → s.fullingRuns = true → x.ready ≤ s.clock.now →
    jobExpand x.job.desc = true →
    src = (s.sourceBlocks x.job (x.taken / 4) (min (jobSrcBlocks x.job.desc - x.taken / 4) 260) bad).flatten.drop
      (64 * (x.taken % 4)) →
    (poisoned = true → Runs (.fullingFrameWrite e bad poisoned) s fun u =>
      JobFailed s u e x .faulted ∧ Reported s u 21 ∧ Only jobParts s u)
    ∧ (∀ st, poisoned = false → expandFrame src (jobFirstSeq x.job.desc + x.frames) = .bad st →
      Runs (.fullingFrameWrite e bad poisoned) s fun u => JobFailed s u e x st ∧ Only jobParts s u)
    ∧ (∀ units data, poisoned = false → expandFrame src (jobFirstSeq x.job.desc + x.frames) = .frame units data →
      s.sourcePoisoned x.job (x.taken / 4) ((x.taken % 4 + units + 3) / 4) = false →
      (jobDstBlocks x.job.desc < x.written + data.length / 256 → Runs (.fullingFrameWrite e bad poisoned) s fun u =>
        JobFailed s u e x .noSpace ∧ Only jobParts s u)
      ∧ (x.written + data.length / 256 ≤ jobDstBlocks x.job.desc → Runs (.fullingFrameWrite e bad poisoned) s fun u =>
        EngineRuns s u e (some { x with taken := x.taken + units, frames := x.frames + 1
                                        written := x.written + data.length / 256
                                        finished := expandDone (src.drop (64 * units)) })
        ∧ (∀ i < data.length / 256, ∀ b, b = jobDst x.job.desc / 256 + x.written + i →
          u.storeBytes (256 * b) 256 = (data.drop (256 * i)).take 256
          ∧ u.storeBlockSeal b = crc32c ((data.drop (256 * i)).take 256))
        ∧ Only jobParts s u)))
  ∧ (∀ (e : Fin 8) (bad : List Nat) (poisoned : Bool) (s : State),
    (s.fullingRuns = false ∨ s.capture.running.find e = none
      ∨ ∃ x, s.capture.running.find e = some x ∧ (x.finished = true ∨ s.clock.now < x.ready)) →
    Runs (.fullingFrameWrite e bad poisoned) s fun u => u = s.fresh)
  ∧ (∀ (e : Fin 8) (s : State),
    (∀ x, s.capture.running.find e = some x → x.finished = true → Runs (.fullingJobCommit e) s fun u =>
      EngineRuns s u e none ∧ u.get F.outQueue_WP x.queue = (s.get F.outQueue_WP x.queue + x.bytes) % 2 ^ 64
      ∧ u.get F.outQueue_JOBS_DONE x.queue = satAdd (s.get F.outQueue_JOBS_DONE x.queue) 1 32
      ∧ (jobBlock x.job.desc = false → StreamBecomes s u (jobStream x.job.desc) (committedCtx x) x.history)
      ∧ (jobBlock x.job.desc = true → u.capture.contexts = s.capture.contexts ∧ u.capture.history = s.capture.history)
      ∧ Raised s u (960 + e) 0 0
      ∧ (x.job.auto = false → u.capture.jobs = s.capture.jobs
        ∧ Completed s u x.job.fn (jobTag x.job.desc) .ok e x.frames
          (if jobExpand x.job.desc then (x.taken + 3) / 4 else x.taken)
          (if jobExpand x.job.desc then 4 * x.written else x.bytes / 64))
      ∧ Only [.capture, .image .outQueue, .out, .hatband, .image .capStatus, .log, .image .logStatus, .host,
        .image .ring] s u)
    ∧ ((∀ x, s.capture.running.find e = some x → x.finished = false) → Runs (.fullingJobCommit e) s fun u =>
      u = s.fresh))
  ∧ (∀ (q : Fin 16) (s : State),
    (∀ j, s.queueHead q = some j →
      (j.waitFault = true ∨ j.waitSpace = true ∧ frameBound (jobSrcBlocks j.desc) ≤ s.queueFree q 0) →
      Runs (.autoJobRetry q) s fun u => u.capture = { s.capture with jobs := s.capture.jobs.map fun y =>
          if y = j then { j with waitSpace := false, waitFault := false } else y }
        ∧ Only [.out, .capture] s u)
    ∧ ((∀ j, s.queueHead q = some j → j.waitFault = false
        ∧ (j.waitSpace = false ∨ s.queueFree q 0 < frameBound (jobSrcBlocks j.desc))) →
      Runs (.autoJobRetry q) s fun u => u = s.fresh))
end

