-- ==== Sys2Proof/Laws/Frame.lean ====
section
/-! SUPPORT. The calculus of unchanged parts: `Only ps s t` composes along every construct that a meaning is built
from, so that what a whole meaning leaves alone follows from one lemma for each operation it uses. -/

namespace Sys2Proof

open Machine

theorem Part.same_refl (s : State) (p : Part) : p.same s s := by
  cases p <;> first | rfl | exact ⟨rfl, rfl⟩ | exact ⟨rfl, rfl, rfl⟩ | exact fun _ => rfl | exact id

theorem Part.same_trans {s t u : State} (p : Part) (h : p.same s t) (g : p.same t u) : p.same s u := by
  cases p <;> first
    | exact Eq.trans g h
    | exact ⟨g.1.trans h.1, g.2.trans h.2⟩
    | exact ⟨g.1.trans h.1, g.2.1.trans h.2.1, g.2.2.trans h.2.2⟩
    | exact fun i => (g i).trans (h i)
    | exact fun x => g (h x)

theorem image_congr {s t : State} (h : t.records = s.records) {r : Rec} (i : Nat) : t.image r i = s.image r i := by
  simp only [State.image, h]

namespace Only

theorem refl (ps : List Part) (s : State) : Only ps s s := fun p _ => p.same_refl s

theorem trans {ps : List Part} {s t u : State} (h : Only ps s t) (g : Only ps t u) : Only ps s u :=
  fun p hp => p.same_trans (h p hp) (g p hp)

theorem mono {ps qs : List Part} {s t : State} (h : Only ps s t) (hs : ps ⊆ qs) : Only qs s t :=
  fun p hp => h p fun x => hp (hs x)

/-- A step that touches fewer parts, after what came before it. -/
theorem step {ps qs : List Part} {s t u : State} (g : Only ps t u) (hs : ps ⊆ qs) (h : Only qs s t) : Only qs s u :=
  h.trans (g.mono hs)

theorem ite {ps : List Part} {s a b : State} {c : Prop} [Decidable c] (ha : Only ps s a) (hb : Only ps s b) :
    Only ps s (if c then a else b) := by
  split <;> assumption

theorem foldl {α : Type} {ps : List Part} {s : State} {f : State → α → State}
    (hf : ∀ x a, Only ps s x → Only ps s (f x a)) (l : List α) {x : State} (hx : Only ps s x) :
    Only ps s (l.foldl f x) := by
  induction l generalizing x with
  | nil => exact hx
  | cons a l ih => exact ih (hf x a hx)

theorem foldl_fst {α β : Type} {ps : List Part} {s : State} {f : State × β → α → State × β}
    (hf : ∀ x a, Only ps s x.1 → Only ps s (f x a).1) (l : List α) {x : State × β} (hx : Only ps s x.1) :
    Only ps s (l.foldl f x).1 := by
  induction l generalizing x with
  | nil => exact hx
  | cons a l ih => exact ih (hf x a hx)

theorem foldl_snd {α β : Type} {ps : List Part} {s : State} {f : β × State → α → β × State}
    (hf : ∀ x a, Only ps s x.2 → Only ps s (f x a).2) (l : List α) {x : β × State} (hx : Only ps s x.2) :
    Only ps s (l.foldl f x).2 := by
  induction l generalizing x with
  | nil => exact hx
  | cons a l ih => exact ih (hf x a hx)

/-- A step that changes one part. -/
theorem one {q : Part} {ps : List Part} {s0 s t : State} (h : ∀ p, p ≠ q → p.same s t) (hm : [q] ⊆ ps)
    (hs : Only ps s0 s) : Only ps s0 t :=
  step (fun p hp => h p fun e => hp (by simp [e])) hm hs

/-! One field of the state. -/

theorem setPending {ps : List Part} {s0 s : State} {x : List Instr} (hm : [Part.pending] ⊆ ps) (hs : Only ps s0 s) :
    Only ps s0 { s with pending := x } :=
  one (fun p hp => by
    cases p <;>
      first
      | rfl | exact ⟨rfl, rfl⟩ | exact ⟨rfl, rfl, rfl⟩ | exact image_congr rfl | exact fun h => h
      | exact absurd rfl hp) hm hs

theorem setOut {ps : List Part} {s0 s : State} {x : List Output} (hm : [Part.out] ⊆ ps) (hs : Only ps s0 s) :
    Only ps s0 { s with out := x } :=
  one (fun p hp => by
    cases p <;>
      first
      | rfl | exact ⟨rfl, rfl⟩ | exact ⟨rfl, rfl, rfl⟩ | exact image_congr rfl | exact fun h => h
      | exact absurd rfl hp) hm hs

theorem setMode {ps : List Part} {s0 s : State} {x : Mode} (hm : [Part.mode] ⊆ ps) (hs : Only ps s0 s) :
    Only ps s0 { s with mode := x } :=
  one (fun p hp => by
    cases p <;>
      first
      | rfl | exact ⟨rfl, rfl⟩ | exact ⟨rfl, rfl, rfl⟩ | exact image_congr rfl | exact fun h => h
      | exact absurd rfl hp) hm hs

theorem setShadows {ps : List Part} {s0 s : State} {x : SMap (List (Nat × Nat))} (hm : [Part.shadows] ⊆ ps) (hs : Only ps s0 s) :
    Only ps s0 { s with shadows := x } :=
  one (fun p hp => by
    cases p <;>
      first
      | rfl | exact ⟨rfl, rfl⟩ | exact ⟨rfl, rfl, rfl⟩ | exact image_congr rfl | exact fun h => h
      | exact absurd rfl hp) hm hs

theorem setBlocking {ps : List Part} {s0 s : State} {x : Blocking} (hm : [Part.blocking] ⊆ ps) (hs : Only ps s0 s) :
    Only ps s0 { s with blocking := x } :=
  one (fun p hp => by
    cases p <;>
      first
      | rfl | exact ⟨rfl, rfl⟩ | exact ⟨rfl, rfl, rfl⟩ | exact image_congr rfl | exact fun h => h
      | exact absurd rfl hp) hm hs

theorem setDrive {ps : List Part} {s0 s : State} {x : Drive} (hm : [Part.drive] ⊆ ps) (hs : Only ps s0 s) :
    Only ps s0 { s with drive := x } :=
  one (fun p hp => by
    cases p <;>
      first
      | rfl | exact ⟨rfl, rfl⟩ | exact ⟨rfl, rfl, rfl⟩ | exact image_congr rfl | exact fun h => h
      | exact absurd rfl hp) hm hs

theorem setBias {ps : List Part} {s0 s : State} {x : SMap Bias} (hm : [Part.bias] ⊆ ps) (hs : Only ps s0 s) :
    Only ps s0 { s with bias := x } :=
  one (fun p hp => by
    cases p <;>
      first
      | rfl | exact ⟨rfl, rfl⟩ | exact ⟨rfl, rfl, rfl⟩ | exact image_congr rfl | exact fun h => h
      | exact absurd rfl hp) hm hs

theorem setEngines {ps : List Part} {s0 s : State} {x : SMap Engine} (hm : [Part.engines] ⊆ ps) (hs : Only ps s0 s) :
    Only ps s0 { s with engines := x } :=
  one (fun p hp => by
    cases p <;>
      first
      | rfl | exact ⟨rfl, rfl⟩ | exact ⟨rfl, rfl, rfl⟩ | exact image_congr rfl | exact fun h => h
      | exact absurd rfl hp) hm hs

theorem setHatband {ps : List Part} {s0 s : State} {x : Hatband} (hm : [Part.hatband] ⊆ ps) (hs : Only ps s0 s) :
    Only ps s0 { s with hatband := x } :=
  one (fun p hp => by
    cases p <;>
      first
      | rfl | exact ⟨rfl, rfl⟩ | exact ⟨rfl, rfl, rfl⟩ | exact image_congr rfl | exact fun h => h
      | exact absurd rfl hp) hm hs

theorem setPorts {ps : List Part} {s0 s : State} {x : SMap Port} (hm : [Part.ports] ⊆ ps) (hs : Only ps s0 s) :
    Only ps s0 { s with ports := x } :=
  one (fun p hp => by
    cases p <;>
      first
      | rfl | exact ⟨rfl, rfl⟩ | exact ⟨rfl, rfl, rfl⟩ | exact image_congr rfl | exact fun h => h
      | exact absurd rfl hp) hm hs

theorem setCapture {ps : List Part} {s0 s : State} {x : Capture} (hm : [Part.capture] ⊆ ps) (hs : Only ps s0 s) :
    Only ps s0 { s with capture := x } :=
  one (fun p hp => by
    cases p <;>
      first
      | rfl | exact ⟨rfl, rfl⟩ | exact ⟨rfl, rfl, rfl⟩ | exact image_congr rfl | exact fun h => h
      | exact absurd rfl hp) hm hs

theorem setMonitor {ps : List Part} {s0 s : State} {x : Monitor} (hm : [Part.monitor] ⊆ ps) (hs : Only ps s0 s) :
    Only ps s0 { s with monitor := x } :=
  one (fun p hp => by
    cases p <;>
      first
      | rfl | exact ⟨rfl, rfl⟩ | exact ⟨rfl, rfl, rfl⟩ | exact image_congr rfl | exact fun h => h
      | exact absurd rfl hp) hm hs

theorem setPower {ps : List Part} {s0 s : State} {x : Power} (hm : [Part.power] ⊆ ps) (hs : Only ps s0 s) :
    Only ps s0 { s with power := x } :=
  one (fun p hp => by
    cases p <;>
      first
      | rfl | exact ⟨rfl, rfl⟩ | exact ⟨rfl, rfl, rfl⟩ | exact image_congr rfl | exact fun h => h
      | exact absurd rfl hp) hm hs

theorem setCrown {ps : List Part} {s0 s : State} {x : Crown} (hm : [Part.crown] ⊆ ps) (hs : Only ps s0 s) :
    Only ps s0 { s with crown := x } :=
  one (fun p hp => by
    cases p <;>
      first
      | rfl | exact ⟨rfl, rfl⟩ | exact ⟨rfl, rfl, rfl⟩ | exact image_congr rfl | exact fun h => h
      | exact absurd rfl hp) hm hs

theorem setLog {ps : List Part} {s0 s : State} {x : Log} (hm : [Part.log] ⊆ ps) (hs : Only ps s0 s) :
    Only ps s0 { s with log := x } :=
  one (fun p hp => by
    cases p <;>
      first
      | rfl | exact ⟨rfl, rfl⟩ | exact ⟨rfl, rfl, rfl⟩ | exact image_congr rfl | exact fun h => h
      | exact absurd rfl hp) hm hs

theorem setFlash {ps : List Part} {s0 s : State} {x : Flash} (hm : [Part.flash] ⊆ ps) (hs : Only ps s0 s) :
    Only ps s0 { s with flash := x } :=
  one (fun p hp => by
    cases p <;>
      first
      | rfl | exact ⟨rfl, rfl⟩ | exact ⟨rfl, rfl, rfl⟩ | exact image_congr rfl | exact fun h => h
      | exact absurd rfl hp) hm hs

theorem setUpload {ps : List Part} {s0 s : State} {x : Upload} (hm : [Part.upload] ⊆ ps) (hs : Only ps s0 s) :
    Only ps s0 { s with upload := x } :=
  one (fun p hp => by
    cases p <;>
      first
      | rfl | exact ⟨rfl, rfl⟩ | exact ⟨rfl, rfl, rfl⟩ | exact image_congr rfl | exact fun h => h
      | exact absurd rfl hp) hm hs

theorem setFree {ps : List Part} {s0 s : State} {x : Nat} (hm : [Part.free] ⊆ ps) (hs : Only ps s0 s) :
    Only ps s0 { s with freeCount := x } :=
  one (fun p hp => by
    cases p <;>
      first
      | rfl | exact ⟨rfl, rfl⟩ | exact ⟨rfl, rfl, rfl⟩ | exact image_congr rfl | exact fun h => h
      | exact absurd rfl hp) hm hs

theorem setBlockingMonitor {ps : List Part} {s0 s : State} {x : Blocking} {y : Monitor}
    (hm : [Part.blocking, Part.monitor] ⊆ ps) (hs : Only ps s0 s) :
    Only ps s0 { s with blocking := x, monitor := y } :=
  setMonitor (s := { s with blocking := x }) (List.Subset.trans (by decide) hm)
    (setBlocking (List.Subset.trans (by decide) hm) hs)

end Only

/-- The record images of every family. -/
def imageParts : List Part := Rec.all.map Part.image

/-- What an entry to RESET, and with it any command, may change: everything but the queue, the tick count, the
flash and the canonical form of the memories. -/
def resetParts : List Part :=
  imageParts ++ [Part.out, Part.mode, Part.si, Part.wall, Part.clock, Part.shadows, Part.blocking, Part.drive,
    Part.bias, Part.acq, Part.bins, Part.weights, Part.readout, Part.engines, Part.loaded, Part.runs, Part.hatband,
    Part.library, Part.store, Part.memory, Part.ports, Part.capture, Part.mailboxes, Part.host, Part.monitor,
    Part.power, Part.crown, Part.log, Part.upload, Part.free]

theorem mem_imageParts (r : Rec) : Part.image r ∈ imageParts := by
  cases r <;> decide

/-- Parts other than the four that no command changes lie within `resetParts`. -/
theorem sub_reset {l : List Part} (h : ∀ p ∈ l, p ≠ .pending ∧ p ≠ .now ∧ p ≠ .form ∧ p ≠ .flash) :
    l ⊆ resetParts := by
  intro p hp
  have hq := h p hp
  cases p with
  | image r => exact List.mem_append_left _ (mem_imageParts r)
  | pending => exact absurd rfl hq.1
  | now => exact absurd rfl hq.2.1
  | form => exact absurd rfl hq.2.2.1
  | flash => exact absurd rfl hq.2.2.2
  | _ => exact List.mem_append_right _ (by simp)

/-- Record images, and parts of a list, lie within the record images and that list. -/
theorem sub_images {l k : List Part} (h : ∀ p ∈ l, (match p with | .image _ => true | p => k.contains p) = true) :
    l ⊆ imageParts ++ k := by
  intro p hp
  have hq := h p hp
  cases p with
  | image r => exact List.mem_append_left _ (mem_imageParts r)
  | _ => exact List.mem_append_right _ (by simpa using hq)

theorem image_sub {r : Rec} {ps : List Part} (h : imageParts ⊆ ps) : [Part.image r] ⊆ ps := by
  simpa using h (mem_imageParts r)

end Sys2Proof
end

