-- ==== Sys2Proof/Laws/Store.lean ====
section
/-! SUPPORT. Laws of the sparse store and of bit fields: what a read sees after a write, that every write keeps the
canonical form, and what a field reads after its image is changed. -/

namespace Sys2Proof.Machine

/-! ### Reads after writes -/

section Reads

variable {α : Type}

theorem SMap.read_drop_self (m : SMap α) (d : α) (k : Nat) : (m.drop k).read d k = d := by
  induction m with
  | nil => rfl
  | cons x r ih =>
    obtain ⟨k', v⟩ := x
    by_cases h : k' = k <;> simp [SMap.drop, SMap.read, h, ih]

theorem SMap.read_drop_ne (m : SMap α) (d : α) {k j : Nat} (h : j ≠ k) : (m.drop k).read d j = m.read d j := by
  induction m with
  | nil => rfl
  | cons x r ih =>
    obtain ⟨k', v⟩ := x
    by_cases hk : k' = k
    · subst hk
      simp [SMap.drop, SMap.read, ih, Ne.symm h]
    · simp [SMap.drop, SMap.read, hk, ih]

theorem SMap.read_list_self (m : SMap α) (d : α) (k : Nat) (v : α) : (m.list k v).read d k = v := by
  induction m with
  | nil => simp [SMap.list, SMap.read]
  | cons x r ih =>
    obtain ⟨k', v'⟩ := x
    by_cases h : k < k'
    · simp [SMap.list, SMap.read, h]
    · by_cases e : k = k'
      · simp [SMap.list, SMap.read, e]
      · simp [SMap.list, SMap.read, h, e, Ne.symm e, ih]

theorem SMap.read_list_ne (m : SMap α) (d : α) {k j : Nat} (v : α) (h : j ≠ k) :
    (m.list k v).read d j = m.read d j := by
  induction m with
  | nil => simp [SMap.list, SMap.read, Ne.symm h]
  | cons x r ih =>
    obtain ⟨k', v'⟩ := x
    by_cases hk : k < k'
    · simp [SMap.list, SMap.read, hk, Ne.symm h]
    · by_cases e : k = k'
      · subst e
        simp [SMap.list, SMap.read, Ne.symm h]
      · simp [SMap.list, SMap.read, hk, e, ih]

variable [DecidableEq α]

/-- A read sees what was last written. -/
@[simp] theorem SMap.read_write_self (m : SMap α) (d : α) (k : Nat) (v : α) : (m.write d k v).read d k = v := by
  by_cases h : v = d
  · simp [SMap.write, h, SMap.read_drop_self]
  · simp [SMap.write, h, SMap.read_list_self]

/-- A write leaves every other key alone, whatever default the read takes. -/
theorem SMap.read_write_ne (m : SMap α) (d e : α) {k j : Nat} (v : α) (h : j ≠ k) :
    (m.write d k v).read e j = m.read e j := by
  by_cases hv : v = d
  · simp [SMap.write, hv, SMap.read_drop_ne m e h]
  · simp [SMap.write, hv, SMap.read_list_ne m e v h]

theorem SMap.read_writeAll_ne (vs : List α) (m : SMap α) (d : α) {k j : Nat} (h : j < k ∨ k + vs.length ≤ j) :
    (m.writeAll d k vs).read d j = m.read d j := by
  induction vs generalizing m k with
  | nil => rfl
  | cons v r ih =>
    simp only [List.length_cons] at h
    rw [SMap.writeAll, ih _ (by omega), SMap.read_write_ne _ _ _ _ (by omega)]

theorem SMap.read_writeAll (vs : List α) (m : SMap α) (d : α) (k i : Nat) (h : i < vs.length) :
    (m.writeAll d k vs).read d (k + i) = vs[i] := by
  induction vs generalizing m k i with
  | nil => simp at h
  | cons v r ih =>
    cases i with
    | zero =>
      rw [SMap.writeAll, SMap.read_writeAll_ne _ _ _ (by omega), Nat.add_zero, SMap.read_write_self]
      rfl
    | succ i =>
      rw [SMap.writeAll, show k + (i + 1) = k + 1 + i by omega,
        ih _ _ i (by simpa using h)]
      rfl

end Reads

/-! ### The canonical form -/

section Form

variable {α : Type} [DecidableEq α]

theorem SMap.above_weaken {d : Nat → α} {m : SMap α} {lo : Option Nat} {l : Nat}
    (h : SMap.above d (some l) m = true) (hl : ∀ x, lo = some x → x ≤ l) : SMap.above d lo m = true := by
  cases m with
  | nil => rfl
  | cons x r =>
    obtain ⟨k, v⟩ := x
    simp only [SMap.above, Bool.and_eq_true, decide_eq_true_eq] at h ⊢
    refine ⟨⟨?_, h.1.2⟩, h.2⟩
    cases lo with
    | none => rfl
    | some y =>
      have := hl y rfl
      simp only [decide_eq_true_eq]
      omega

theorem SMap.above_drop {d : Nat → α} {k : Nat} {m : SMap α} {lo : Option Nat} (h : SMap.above d lo m = true) :
    SMap.above d lo (m.drop k) = true := by
  induction m generalizing lo with
  | nil => rfl
  | cons x r ih =>
    obtain ⟨k', v⟩ := x
    simp only [SMap.above, Bool.and_eq_true] at h
    by_cases hk : k' = k
    · simp only [SMap.drop, hk, ↓reduceIte]
      refine SMap.above_weaken (ih h.2) fun y hy => ?_
      subst hy
      simpa using Nat.le_of_lt (by simpa using h.1.1)
    · simp only [SMap.drop, hk, ↓reduceIte, SMap.above, Bool.and_eq_true]
      exact ⟨h.1, ih h.2⟩

theorem SMap.above_list {d : Nat → α} {k : Nat} {v : α} (hv : v ≠ d k) {m : SMap α} {lo : Option Nat}
    (h : SMap.above d lo m = true) (hk : ∀ y, lo = some y → y < k) : SMap.above d lo (m.list k v) = true := by
  have low : ∀ o : Option Nat, (∀ y, o = some y → y < k) →
      (match o with | none => true | some l => decide (l < k)) = true := by
    intro o ho
    cases o with
    | none => rfl
    | some y => simpa using ho y rfl
  induction m generalizing lo with
  | nil =>
    simp only [SMap.list, SMap.above, Bool.and_eq_true]
    exact ⟨⟨low lo hk, by simpa using hv⟩, trivial⟩
  | cons x r ih =>
    obtain ⟨k', v'⟩ := x
    have h' := h
    simp only [SMap.above, Bool.and_eq_true] at h'
    by_cases h1 : k < k'
    · simp only [SMap.list, h1, ↓reduceIte]
      simp only [SMap.above, Bool.and_eq_true]
      exact ⟨⟨low lo hk, by simpa using hv⟩, ⟨by simpa using h1, h'.1.2⟩, h'.2⟩
    · by_cases h2 : k = k'
      · subst h2
        simp only [SMap.list, Nat.lt_irrefl, ↓reduceIte, SMap.above, Bool.and_eq_true]
        exact ⟨⟨low lo hk, by simpa using hv⟩, h'.2⟩
      · simp only [SMap.list, h1, h2, ↓reduceIte, SMap.above, Bool.and_eq_true]
        have lt : k' < k := by omega
        exact ⟨h'.1, ih h'.2 (fun y hy => by cases hy; exact lt)⟩

theorem SMap.wf_write {d : α} {m : SMap α} (k : Nat) (v : α) (h : SMap.wf (fun _ => d) m = true) :
    SMap.wf (fun _ => d) (m.write d k v) = true := by
  by_cases hv : v = d
  · simp only [SMap.write, hv, ↓reduceIte]
    exact SMap.above_drop h
  · simp only [SMap.write, hv, ↓reduceIte]
    exact SMap.above_list hv h fun _ hy => by cases hy

theorem SMap.wf_writeAll {d : α} (vs : List α) {m : SMap α} (k : Nat) (h : SMap.wf (fun _ => d) m = true) :
    SMap.wf (fun _ => d) (m.writeAll d k vs) = true := by
  induction vs generalizing m k with
  | nil => exact h
  | cons v r ih => exact ih _ (SMap.wf_write _ _ h)

/-- Equal memories are equal data: two canonical stores that read alike are one list. -/
theorem SMap.read_below {d : α} {m : SMap α} {l : Nat} (h : SMap.above (fun _ => d) (some l) m = true) {j : Nat}
    (hj : j ≤ l) : m.read d j = d := by
  induction m generalizing l with
  | nil => rfl
  | cons x r ih =>
    obtain ⟨k, v⟩ := x
    simp only [SMap.above, Bool.and_eq_true, decide_eq_true_eq] at h
    rw [SMap.read, if_neg (by omega)]
    exact ih h.2 (by omega)

theorem SMap.ext_above {d : α} {m n : SMap α} {lo : Option Nat} (hm : SMap.above (fun _ => d) lo m = true)
    (hn : SMap.above (fun _ => d) lo n = true) (h : ∀ k, m.read d k = n.read d k) : m = n := by
  induction m generalizing n lo with
  | nil =>
    cases n with
    | nil => rfl
    | cons x r =>
      obtain ⟨k, v⟩ := x
      simp only [SMap.above, Bool.and_eq_true, decide_eq_true_eq] at hn
      have := h k
      simp only [SMap.read, ↓reduceIte] at this
      exact absurd this.symm hn.1.2
  | cons x r ih =>
    obtain ⟨k, v⟩ := x
    simp only [SMap.above, Bool.and_eq_true, decide_eq_true_eq] at hm
    cases n with
    | nil =>
      have := h k
      simp only [SMap.read, ↓reduceIte] at this
      exact absurd this hm.1.2
    | cons y q =>
      obtain ⟨j, w⟩ := y
      simp only [SMap.above, Bool.and_eq_true, decide_eq_true_eq] at hn
      have hkj : k = j := by
        rcases Nat.lt_trichotomy k j with hlt | he | hgt
        · have a := h k
          rw [SMap.read, if_pos rfl, SMap.read, if_neg (by omega), SMap.read_below hn.2 (by omega)] at a
          exact absurd a hm.1.2
        · exact he
        · have a := h j
          rw [SMap.read, if_neg (by omega), SMap.read_below hm.2 (by omega), SMap.read, if_pos rfl] at a
          exact absurd a.symm hn.1.2
      subst hkj
      have hv := h k
      simp only [SMap.read, ↓reduceIte] at hv
      subst hv
      congr 1
      refine ih hm.2 hn.2 fun i => ?_
      by_cases hi : i ≤ k
      · rw [SMap.read_below hm.2 hi, SMap.read_below hn.2 hi]
      · have := h i
        rwa [SMap.read, if_neg (by omega), SMap.read, if_neg (by omega)] at this

end Form

/-! ### Bit fields -/

theorem bits_lt (x lo w : Nat) : bits x lo w < 2 ^ w := Nat.mod_lt _ (Nat.two_pow_pos w)

/-- Bit `j` of a field is bit `lo + j` of the image. -/
theorem testBit_bits (x lo w j : Nat) : (bits x lo w).testBit j = (decide (j < w) && x.testBit (lo + j)) := by
  simp [bits, Nat.testBit_mod_two_pow, Nat.testBit_shiftRight]

/-- The bits of an image with a field replaced: the field's from the value, every other as before. -/
theorem testBit_setBits (x lo w v j : Nat) :
    (setBits x lo w v).testBit j = if lo ≤ j ∧ j < lo + w then v.testBit (j - lo) else x.testBit j := by
  have hc : x % 2 ^ lo < 2 ^ lo := Nat.mod_lt _ (Nat.two_pow_pos lo)
  have hb : v % 2 ^ w < 2 ^ w := Nat.mod_lt _ (Nat.two_pow_pos w)
  have hl : 2 ^ lo * (v % 2 ^ w) + x % 2 ^ lo < 2 ^ (lo + w) := by
    rw [Nat.pow_add]
    calc 2 ^ lo * (v % 2 ^ w) + x % 2 ^ lo < 2 ^ lo * (v % 2 ^ w) + 2 ^ lo := by omega
      _ = 2 ^ lo * (v % 2 ^ w + 1) := by ring
      _ ≤ 2 ^ lo * 2 ^ w := Nat.mul_le_mul_left _ hb
  have e : setBits x lo w v = 2 ^ (lo + w) * (x >>> (lo + w)) + (2 ^ lo * (v % 2 ^ w) + x % 2 ^ lo) := by
    simp only [setBits, Nat.shiftLeft_eq]
    ring
  rw [e, Nat.testBit_two_pow_mul_add _ hl, Nat.testBit_two_pow_mul_add _ hc]
  by_cases h1 : j < lo
  · simp [h1, show j < lo + w by omega, show ¬ lo ≤ j by omega, Nat.testBit_mod_two_pow]
  · by_cases h2 : j < lo + w
    · simp [h1, h2, show lo ≤ j by omega, Nat.testBit_mod_two_pow, show j - lo < w by omega]
    · simp [h2, Nat.testBit_shiftRight, show lo + w + (j - (lo + w)) = j by omega]

/-- A field reads what was put into it. -/
@[simp] theorem bits_setBits_self (x lo w v : Nat) : bits (setBits x lo w v) lo w = v % 2 ^ w := by
  refine Nat.eq_of_testBit_eq fun j => ?_
  rw [testBit_bits, testBit_setBits, Nat.testBit_mod_two_pow]
  by_cases h : j < w
  · simp [h]
  · simp [h]

/-- Every field beside it reads as before. -/
theorem bits_setBits_ne (x lo w v : Nat) {l k : Nat} (h : l + k ≤ lo ∨ lo + w ≤ l) :
    bits (setBits x lo w v) l k = bits x l k := by
  refine Nat.eq_of_testBit_eq fun j => ?_
  rw [testBit_bits, testBit_bits, testBit_setBits]
  by_cases hj : j < k
  · rw [if_neg (by omega)]
  · simp [hj]

end Sys2Proof.Machine
end

