-- ==== Sys2Proof/Laws/FrameOps.lean ====
section
/-! SUPPORT. What each operation of Ops.lean may change: one lemma an operation. -/

namespace Sys2Proof

open Machine

namespace Machine

set_option maxRecDepth 100000 in
/-- Two families hold no record under one key. -/
theorem Rec.key_ne {q r : Rec} (h : q ≠ r) (i j : Nat) : q.key i ≠ r.key j := by
  have hd : ∀ q ∈ Rec.all, ∀ r ∈ Rec.all, q = r ∨ q = .matchReg ∨ r = .matchReg
      ∨ q.place.base + q.place.count ≤ r.place.base ∨ r.place.base + r.place.count ≤ q.place.base := by decide
  have ha : ∀ q : Rec, q ∈ Rec.all ∧ 0 < q.place.count ∧ q.place.base + q.place.count ≤ 0x10000 := by
    intro q; cases q <;> decide
  have h1 := Nat.mod_lt i (ha q).2.1
  have h2 := Nat.mod_lt j (ha r).2.1
  have h3 := (ha q).2.2
  have h4 := (ha r).2.2
  unfold Rec.key Rec.id
  rcases hd q (ha q).1 r (ha r).1 with e | e | e | e | e
  · exact absurd e h
  · rw [if_pos e, if_neg fun x => h (e.trans x.symm)]; omega
  · rw [if_pos e, if_neg fun x => h (x.trans e.symm)]; omega
  · split <;> split <;> omega
  · split <;> split <;> omega

/-- A record reads what its image was set to. -/
@[simp] theorem State.image_setImage_self (s : State) (r : Rec) (i v : Nat) : (s.setImage r i v).image r i = v := by
  simp [State.setImage, State.image]

/-- A change of one family's image leaves every other family's alone. -/
theorem State.image_setImage_ne (s : State) {q r : Rec} (h : q ≠ r) (i j v : Nat) :
    (s.setImage r i v).image q j = s.image q j :=
  SMap.read_write_ne _ _ _ _ (Rec.key_ne h j i)

theorem State.setImage_only {ps : List Part} {s0 s : State} {r : Rec} {i v : Nat} (hm : [Part.image r] ⊆ ps)
    (hs : Only ps s0 s) : Only ps s0 (s.setImage r i v) := by
  refine Only.step (ps := [Part.image r]) (fun p hp => ?_) hm hs
  cases p with
  | image q => exact fun j => s.image_setImage_ne (fun e => hp (by simp [e])) i j v
  | _ => first | rfl | exact ⟨rfl, rfl⟩ | exact ⟨rfl, rfl, rfl⟩ | exact id

theorem State.putAt_only {ps : List Part} {s0 s : State} {f : Field} {i j v : Nat} (hm : [Part.image f.record] ⊆ ps)
    (hs : Only ps s0 s) : Only ps s0 (s.putAt f i j v) := State.setImage_only hm hs

theorem State.put_only {ps : List Part} {s0 s : State} {f : Field} {i v : Nat} (hm : [Part.image f.record] ⊆ ps)
    (hs : Only ps s0 s) : Only ps s0 (s.put f i v) := State.setImage_only hm hs

theorem State.putFlag_only {ps : List Part} {s0 s : State} {f : Field} {i : Nat} {b : Bool}
    (hm : [Part.image f.record] ⊆ ps) (hs : Only ps s0 s) : Only ps s0 (s.putFlag f i b) := State.put_only hm hs

theorem State.count_only {ps : List Part} {s0 s : State} {f : Field} {i k : Nat} (hm : [Part.image f.record] ⊆ ps)
    (hs : Only ps s0 s) : Only ps s0 (s.count f i k) := State.put_only hm hs

theorem State.emit_only {ps : List Part} {s0 : State} {s : State} {o : Output}
    (hm : [Part.out] ⊆ ps) (hs : Only ps s0 s) : Only ps s0 (State.emit s o) := by
  unfold State.emit
  refine Only.setOut (List.Subset.trans (by decide) hm) ?_
  exact hs

theorem State.fresh_only {ps : List Part} {s0 : State} {s : State}
    (hm : [Part.out] ⊆ ps) (hs : Only ps s0 s) : Only ps s0 (State.fresh s) := by
  unfold State.fresh
  refine Only.setOut (List.Subset.trans (by decide) hm) ?_
  exact hs

theorem State.free_only {ps : List Part} {s0 : State} {s : State}
    (hm : [Part.free] ⊆ ps) (hs : Only ps s0 s) : Only ps s0 (State.free s).2 := by
  unfold State.free
  dsimp only
  refine Only.setFree (List.Subset.trans (by decide) hm) ?_
  exact hs

theorem State.send_only {ps : List Part} {s0 : State} {s : State} {o : Output}
    (hm : [Part.out, Part.host] ⊆ ps) (hs : Only ps s0 s) : Only ps s0 (State.send s o) := by
  unfold State.send
  refine Only.ite ?_ ?_
  · refine State.emit_only (List.Subset.trans (by decide) hm) ?_
    exact hs
  · refine Only.step (t := s) (ps := [Part.host]) (fun p hp => by cases p <;> first | rfl | exact ⟨rfl, rfl⟩ | exact ⟨rfl, rfl, rfl⟩ | exact image_congr rfl | exact fun h => h | exact absurd (by decide) hp) (List.Subset.trans (by decide) hm) ?_
    exact hs

theorem State.signal_only {ps : List Part} {s0 : State} {s : State} {f : Nat} {v : Nat}
    (hm : [Part.out, Part.host] ⊆ ps) (hs : Only ps s0 s) : Only ps s0 (State.signal s f v) := by
  unfold State.signal
  refine State.send_only (List.Subset.trans (by decide) hm) ?_
  exact hs

theorem State.signalAll_only {ps : List Part} {s0 : State} {s : State}
    (hm : [Part.out, Part.host] ⊆ ps) (hs : Only ps s0 s) : Only ps s0 (State.signalAll s) := by
  unfold State.signalAll
  refine Only.foldl (fun x1 _ hx1 => ?_) _ ?_
  · refine State.signal_only (List.Subset.trans (by decide) hm) ?_
    exact hx1
  · exact hs

theorem State.raise_only {ps : List Part} {s0 : State} {s : State} {src : Nat} {p : Nat} {f : Nat} {h : Nat}
    (hm : [Part.out, Part.hatband] ⊆ ps) (hs : Only ps s0 s) : Only ps s0 (State.raise s src p f h) := by
  unfold State.raise
  extract_lets v1 v2
  have hv1 : Only ps s0 v1 := by
    unfold v1
    refine State.emit_only (List.Subset.trans (by decide) hm) ?_
    exact hs
  try clear_value v1
  try clear_value v2
  refine Only.setHatband (List.Subset.trans (by decide) hm) ?_
  exact hv1

theorem State.overflowReport_only {ps : List Part} {s0 : State} {s : State} {cls : Nat} {lasting : Bool}
    (hm : [Part.log, Part.image Rec.logStatus, Part.out, Part.hatband] ⊆ ps) (hs : Only ps s0 s) : Only ps s0 (State.overflowReport s cls lasting) := by
  unfold State.overflowReport
  split
  · refine Only.setLog (List.Subset.trans (by decide) hm) ?_
    exact hs
  · extract_lets v1 v2
    try clear_value v1
    have hv2 : Only ps s0 v2 := by
      unfold v2
      refine State.putFlag_only (List.Subset.trans (by decide) hm) ?_
      refine State.count_only (List.Subset.trans (by decide) hm) ?_
      exact hs
    try clear_value v2
    refine Only.ite ?_ ?_
    · exact hv2
    · refine State.raise_only (List.Subset.trans (by decide) hm) ?_
      exact hv2

theorem State.report_only {ps : List Part} {s0 : State} {s : State} {cls : Nat} {lasting : Bool} {source : Nat} {a : Nat} {b : Nat}
    (hm : [Part.log, Part.image Rec.logStatus, Part.out, Part.hatband] ⊆ ps) (hs : Only ps s0 s) : Only ps s0 (State.report s cls lasting source a b) := by
  unfold State.report
  extract_lets v1 v2 v3 v4 v5
  try clear_value v1
  try clear_value v2
  try clear_value v3
  have hv4 : Only ps s0 v4 := by
    unfold v4
    refine Only.setLog (List.Subset.trans (by decide) hm) ?_
    exact hs
  try clear_value v4
  try clear_value v5
  refine Only.ite ?_ ?_
  · refine Only.setLog (List.Subset.trans (by decide) hm) ?_
    exact hv4
  · refine State.overflowReport_only (List.Subset.trans (by decide) hm) ?_
    exact hv4

theorem State.raiseFrom_only {ps : List Part} {s0 : State} {s : State} {src : Nat} {p : Nat} {f : Nat} {cause : Option (Nat × Nat)}
    (hm : [Part.out, Part.hatband, Part.image Rec.hatbandControl, Part.log, Part.image Rec.logStatus, Part.image Rec.channel] ⊆ ps) (hs : Only ps s0 s) : Only ps s0 (State.raiseFrom s src p f cause) := by
  unfold State.raiseFrom
  split
  · refine State.raise_only (List.Subset.trans (by decide) hm) ?_
    exact hs
  · refine Only.ite ?_ ?_
    · refine State.raise_only (List.Subset.trans (by decide) hm) ?_
      exact hs
    · extract_lets v1 v2 v3
      have hv1 : Only ps s0 v1 := by
        unfold v1
        refine State.raise_only (List.Subset.trans (by decide) hm) ?_
        exact hs
      try clear_value v1
      have hv2 : Only ps s0 v2 := by
        unfold v2
        refine State.put_only (List.Subset.trans (by decide) hm) ?_
        refine State.count_only (List.Subset.trans (by decide) hm) ?_
        exact hv1
      try clear_value v2
      have hv3 : Only ps s0 v3 := by
        unfold v3
        refine State.report_only (List.Subset.trans (by decide) hm) ?_
        exact hv2
      try clear_value v3
      refine Only.ite ?_ ?_
      · exact hv3
      · refine State.putFlag_only (List.Subset.trans (by decide) hm) ?_
        exact hv3

theorem State.urge_only {ps : List Part} {s0 : State} {s : State} {c : InjCause}
    (hm : [Part.monitor] ⊆ ps) (hs : Only ps s0 s) : Only ps s0 (State.urge s c) := by
  unfold State.urge
  refine Only.ite ?_ ?_
  · refine Only.setMonitor (List.Subset.trans (by decide) hm) ?_
    exact hs
  · exact hs

theorem State.setMailbox_only {ps : List Part} {s0 : State} {s : State} {m : Nat} {x : Mailbox}
    (hm : [Part.mailboxes] ⊆ ps) (hs : Only ps s0 s) : Only ps s0 (State.setMailbox s m x) := by
  unfold State.setMailbox
  refine Only.step (t := s) (ps := [Part.mailboxes]) (fun p hp => by cases p <;> first | rfl | exact ⟨rfl, rfl⟩ | exact ⟨rfl, rfl, rfl⟩ | exact image_congr rfl | exact fun h => h | exact absurd (by decide) hp) (List.Subset.trans (by decide) hm) ?_
  exact hs

theorem State.respond_only {ps : List Part} {s0 : State} {s : State} {m : Nat} {r : Response} {reqSeal : Nat}
    (hm : [Part.log, Part.image Rec.logStatus, Part.out, Part.hatband, Part.mailboxes, Part.host] ⊆ ps) (hs : Only ps s0 s) : Only ps s0 (State.respond s m r reqSeal) := by
  unfold State.respond
  extract_lets v1 v2 v3 v4
  try clear_value v1
  try clear_value v2
  have hv3 : Only ps s0 v3 := by
    unfold v3
    split
    · refine Only.ite ?_ ?_
      · refine State.report_only (List.Subset.trans (by decide) hm) ?_
        exact hs
      · refine Only.ite ?_ ?_
        · refine State.report_only (List.Subset.trans (by decide) hm) ?_
          exact hs
        · exact hs
    · exact hs
  try clear_value v3
  have hv4 : Only ps s0 v4 := by
    unfold v4
    refine State.setMailbox_only (List.Subset.trans (by decide) hm) ?_
    exact hv3
  try clear_value v4
  refine Only.ite ?_ ?_
  · refine State.signal_only (List.Subset.trans (by decide) hm) ?_
    exact hv4
  · exact hv4

theorem State.finish_only {ps : List Part} {s0 : State} {s : State} {d : Deferred} {st : Status} {payload : List Byte}
    (hm : [Part.mailboxes, Part.log, Part.image Rec.logStatus, Part.out, Part.hatband, Part.host] ⊆ ps) (hs : Only ps s0 s) : Only ps s0 (State.finish s d st payload) := by
  unfold State.finish
  extract_lets v1 v2
  have hv2 : Only ps s0 v2 := by
    unfold v2
    refine Only.step (t := s) (ps := [Part.mailboxes]) (fun p hp => by cases p <;> first | rfl | exact ⟨rfl, rfl⟩ | exact ⟨rfl, rfl, rfl⟩ | exact image_congr rfl | exact fun h => h | exact absurd (by decide) hp) (List.Subset.trans (by decide) hm) ?_
    exact hs
  try clear_value v2
  refine Only.ite ?_ ?_
  · exact hv2
  · refine State.respond_only (List.Subset.trans (by decide) hm) ?_
    exact hv2

theorem State.finishAll_only {ps : List Part} {s0 : State} {s : State} {p : Wait → Bool} {st : Status} {payload : List Byte}
    (hm : [Part.mailboxes, Part.log, Part.image Rec.logStatus, Part.out, Part.hatband, Part.host] ⊆ ps) (hs : Only ps s0 s) : Only ps s0 (State.finishAll s p st payload) := by
  unfold State.finishAll
  refine Only.foldl (fun x1 _ hx1 => ?_) _ ?_
  · refine State.finish_only (List.Subset.trans (by decide) hm) ?_
    exact hx1
  · exact hs

theorem State.setTile_only {ps : List Part} {s0 : State} {s : State} {t : Nat} {r : TileRun}
    (hm : [Part.runs] ⊆ ps) (hs : Only ps s0 s) : Only ps s0 (State.setTile s t r) := by
  unfold State.setTile
  refine Only.step (t := s) (ps := [Part.runs]) (fun p hp => by cases p <;> first | rfl | exact ⟨rfl, rfl⟩ | exact ⟨rfl, rfl, rfl⟩ | exact image_congr rfl | exact fun h => h | exact absurd (by decide) hp) (List.Subset.trans (by decide) hm) ?_
  exact hs

theorem State.setGroup_only {ps : List Part} {s0 : State} {s : State} {g : Nat} {r : RunGroup}
    (hm : [Part.runs] ⊆ ps) (hs : Only ps s0 s) : Only ps s0 (State.setGroup s g r) := by
  unfold State.setGroup
  refine Only.step (t := s) (ps := [Part.runs]) (fun p hp => by cases p <;> first | rfl | exact ⟨rfl, rfl⟩ | exact ⟨rfl, rfl, rfl⟩ | exact image_congr rfl | exact fun h => h | exact absurd (by decide) hp) (List.Subset.trans (by decide) hm) ?_
  exact hs

theorem State.setEngine_only {ps : List Part} {s0 : State} {s : State} {e : Nat} {x : Engine}
    (hm : [Part.engines] ⊆ ps) (hs : Only ps s0 s) : Only ps s0 (State.setEngine s e x) := by
  unfold State.setEngine
  refine Only.setEngines (List.Subset.trans (by decide) hm) ?_
  exact hs

theorem State.setAcq_only {ps : List Part} {s0 : State} {s : State} {t : Nat} {a : Acq}
    (hm : [Part.acq] ⊆ ps) (hs : Only ps s0 s) : Only ps s0 (State.setAcq s t a) := by
  unfold State.setAcq
  refine Only.step (t := s) (ps := [Part.acq]) (fun p hp => by cases p <;> first | rfl | exact ⟨rfl, rfl⟩ | exact ⟨rfl, rfl, rfl⟩ | exact image_congr rfl | exact fun h => h | exact absurd (by decide) hp) (List.Subset.trans (by decide) hm) ?_
  exact hs

theorem State.setTone_only {ps : List Part} {s0 : State} {s : State} {k : Nat} {x : Tone}
    (hm : [Part.drive] ⊆ ps) (hs : Only ps s0 s) : Only ps s0 (State.setTone s k x) := by
  unfold State.setTone
  refine Only.setDrive (List.Subset.trans (by decide) hm) ?_
  exact hs

theorem State.setPort_only {ps : List Part} {s0 : State} {s : State} {p : Nat} {x : Port}
    (hm : [Part.ports] ⊆ ps) (hs : Only ps s0 s) : Only ps s0 (State.setPort s p x) := by
  unfold State.setPort
  refine Only.setPorts (List.Subset.trans (by decide) hm) ?_
  exact hs

theorem State.setBias_only {ps : List Part} {s0 : State} {s : State} {n : Nat} {b : Bias}
    (hm : [Part.bias] ⊆ ps) (hs : Only ps s0 s) : Only ps s0 (State.setBias s n b) := by
  unfold State.setBias
  refine Only.setBias (List.Subset.trans (by decide) hm) ?_
  exact hs

theorem State.holdBias_only {ps : List Part} {s0 : State} {s : State} {n : Nat} {c : HoldCause} {h : Nat} {seg : Option Nat}
    (hm : [Part.bias, Part.image Rec.biasStatus] ⊆ ps) (hs : Only ps s0 s) : Only ps s0 (State.holdBias s n c h seg) := by
  unfold State.holdBias
  extract_lets v1 v2 v3
  try clear_value v1
  try clear_value v2
  have hv3 : Only ps s0 v3 := by
    unfold v3
    refine State.setBias_only (List.Subset.trans (by decide) hm) ?_
    exact hs
  try clear_value v3
  refine State.putFlag_only (List.Subset.trans (by decide) hm) ?_
  exact hv3

theorem State.releaseBias_only {ps : List Part} {s0 : State} {s : State} {n : Nat} {c : HoldCause}
    (hm : [Part.image Rec.biasStatus, Part.bias] ⊆ ps) (hs : Only ps s0 s) : Only ps s0 (State.releaseBias s n c) := by
  unfold State.releaseBias
  extract_lets v1 v2
  try clear_value v1
  try clear_value v2
  refine State.putFlag_only (List.Subset.trans (by decide) hm) ?_
  refine State.setBias_only (List.Subset.trans (by decide) hm) ?_
  exact hs

theorem State.parkBias_only {ps : List Part} {s0 : State} {s : State} {n : Nat} {target : Int} {connect : Bool}
    (hm : [Part.bias, Part.image Rec.biasStatus] ⊆ ps) (hs : Only ps s0 s) : Only ps s0 (State.parkBias s n target connect) := by
  unfold State.parkBias
  extract_lets v1 v2 v3 v4 v5
  try clear_value v1
  try clear_value v2
  try clear_value v3
  try clear_value v4
  have hv5 : Only ps s0 v5 := by
    unfold v5
    refine State.setBias_only (List.Subset.trans (by decide) hm) ?_
    exact hs
  try clear_value v5
  refine State.putFlag_only (List.Subset.trans (by decide) hm) ?_
  exact hv5

theorem State.parkAll_only {ps : List Part} {s0 : State} {s : State}
    (hm : [Part.bias, Part.image Rec.biasStatus] ⊆ ps) (hs : Only ps s0 s) : Only ps s0 (State.parkAll s) := by
  unfold State.parkAll
  refine Only.foldl (fun x1 _ hx1 => ?_) _ ?_
  · refine State.parkBias_only (List.Subset.trans (by decide) hm) ?_
    exact hx1
  · exact hs

theorem State.parkAllToZero_only {ps : List Part} {s0 : State} {s : State}
    (hm : [Part.bias, Part.image Rec.biasStatus] ⊆ ps) (hs : Only ps s0 s) : Only ps s0 (State.parkAllToZero s) := by
  unfold State.parkAllToZero
  refine Only.foldl (fun x1 _ hx1 => ?_) _ ?_
  · refine State.parkBias_only (List.Subset.trans (by decide) hm) ?_
    exact hx1
  · exact hs

theorem State.voidTile_only {ps : List Part} {s0 : State} {s : State} {t : Nat}
    (hm : [Part.runs, Part.image Rec.runStatus, Part.acq] ⊆ ps) (hs : Only ps s0 s) : Only ps s0 (State.voidTile s t) := by
  unfold State.voidTile
  extract_lets v1 v2 v3 v4 v5
  try clear_value v1
  try clear_value v2
  try clear_value v3
  have hv4 : Only ps s0 v4 := by
    unfold v4
    refine State.setTile_only (List.Subset.trans (by decide) hm) ?_
    exact hs
  try clear_value v4
  try clear_value v5
  refine Only.ite ?_ ?_
  · exact hs
  · refine State.count_only (List.Subset.trans (by decide) hm) ?_
    refine State.setAcq_only (List.Subset.trans (by decide) hm) ?_
    exact hv4

theorem State.voidShot_only {ps : List Part} {s0 : State} {s : State} {t : Nat}
    (hm : [Part.runs, Part.image Rec.runStatus, Part.acq] ⊆ ps) (hs : Only ps s0 s) : Only ps s0 (State.voidShot s t) := by
  unfold State.voidShot
  split
  · exact hs
  · extract_lets v1 v2
    try clear_value v1
    have hv2 : Only ps s0 v2 := by
      unfold v2
      refine Only.ite ?_ ?_
      · exact hs
      · refine State.setGroup_only (List.Subset.trans (by decide) hm) ?_
        exact hs
    try clear_value v2
    refine Only.ite ?_ ?_
    · exact hs
    · refine Only.foldl (fun x3 _ hx3 => ?_) _ ?_
      · refine State.voidTile_only (List.Subset.trans (by decide) hm) ?_
        exact hx3
      · exact hv2

theorem State.zeroChannel_only {ps : List Part} {s0 : State} {s : State} {ch : Nat} {c : ZeroCause} {since : Nat}
    (hm : [Part.drive] ⊆ ps) (hs : Only ps s0 s) : Only ps s0 (State.zeroChannel s ch c since) := by
  unfold State.zeroChannel
  refine Only.ite ?_ ?_
  · exact hs
  · refine Only.setDrive (List.Subset.trans (by decide) hm) ?_
    exact hs

theorem State.silenceTone_only {ps : List Part} {s0 : State} {s : State} {k : Nat}
    (hm : [Part.drive] ⊆ ps) (hs : Only ps s0 s) : Only ps s0 (State.silenceTone s k) := by
  unfold State.silenceTone
  refine State.setTone_only (List.Subset.trans (by decide) hm) ?_
  exact hs

theorem State.cutWindows_only {ps : List Part} {s0 : State} {s : State} {t : Nat} {tick : Int}
    (hm : [Part.acq] ⊆ ps) (hs : Only ps s0 s) : Only ps s0 (State.cutWindows s t tick) := by
  unfold State.cutWindows
  extract_lets v1 v2 v3 v4
  try clear_value v1
  try clear_value v2
  try clear_value v3
  try clear_value v4
  refine State.setAcq_only (List.Subset.trans (by decide) hm) ?_
  exact hs

theorem State.endLogs_only {ps : List Part} {s0 : State} {s : State} {t : Nat}
    (hm : [Part.acq] ⊆ ps) (hs : Only ps s0 s) : Only ps s0 (State.endLogs s t) := by
  unfold State.endLogs
  extract_lets v1
  try clear_value v1
  refine State.setAcq_only (List.Subset.trans (by decide) hm) ?_
  exact hs

theorem State.dropOps_only {ps : List Part} {s0 : State} {s : State} {n : Nat}
    (hm : [Part.bias] ⊆ ps) (hs : Only ps s0 s) : Only ps s0 (State.dropOps s n) := by
  unfold State.dropOps
  refine State.setBias_only (List.Subset.trans (by decide) hm) ?_
  exact hs

theorem State.dropJump_only {ps : List Part} {s0 : State} {s : State} {t : Nat}
    (hm : [Part.out, Part.hatband, Part.image Rec.runStatus, Part.runs] ⊆ ps) (hs : Only ps s0 s) : Only ps s0 (State.dropJump s t) := by
  unfold State.dropJump
  extract_lets v1
  try clear_value v1
  split
  · exact hs
  · refine State.raise_only (List.Subset.trans (by decide) hm) ?_
    refine State.count_only (List.Subset.trans (by decide) hm) ?_
    refine State.setTile_only (List.Subset.trans (by decide) hm) ?_
    exact hs

theorem State.idleEngine_only {ps : List Part} {s0 : State} {s : State} {t : Nat}
    (hm : [Part.image Rec.engineStatus, Part.engines] ⊆ ps) (hs : Only ps s0 s) : Only ps s0 (State.idleEngine s t) := by
  unfold State.idleEngine
  extract_lets v1 v2
  try clear_value v1
  have hv2 : Only ps s0 v2 := by
    unfold v2
    refine State.putFlag_only (List.Subset.trans (by decide) hm) ?_
    refine State.setEngine_only (List.Subset.trans (by decide) hm) ?_
    exact hs
  try clear_value v2
  refine Only.ite ?_ ?_
  · exact hv2
  · refine State.put_only (List.Subset.trans (by decide) hm) ?_
    exact hv2

theorem State.standDown_only {ps : List Part} {s0 : State} {s : State} {t : Nat}
    (hm : [Part.runs, Part.image Rec.runStatus, Part.drive, Part.bias, Part.image Rec.biasStatus, Part.out, Part.hatband, Part.acq, Part.image Rec.engineStatus, Part.engines] ⊆ ps) (hs : Only ps s0 s) : Only ps s0 (State.standDown s t) := by
  unfold State.standDown
  extract_lets v1 v2 v3 v4 v5 v6 v7 v8
  try clear_value v1
  try clear_value v2
  have hv3 : Only ps s0 v3 := by
    unfold v3
    refine State.setTile_only (List.Subset.trans (by decide) hm) ?_
    exact hs
  try clear_value v3
  have hv4 : Only ps s0 v4 := by
    unfold v4
    refine State.put_only (List.Subset.trans (by decide) hm) ?_
    exact hv3
  try clear_value v4
  have hv5 : Only ps s0 v5 := by
    unfold v5
    refine Only.foldl (fun x9 _ hx9 => ?_) _ ?_
    · refine State.zeroChannel_only (List.Subset.trans (by decide) hm) ?_
      exact hx9
    · exact hv4
  try clear_value v5
  have hv6 : Only ps s0 v6 := by
    unfold v6
    refine Only.foldl (fun x10 _ hx10 => ?_) _ ?_
    · refine State.silenceTone_only (List.Subset.trans (by decide) hm) ?_
      refine State.silenceTone_only (List.Subset.trans (by decide) hm) ?_
      exact hx10
    · exact hv5
  try clear_value v6
  have hv7 : Only ps s0 v7 := by
    unfold v7
    refine Only.foldl (fun x11 _ hx11 => ?_) _ ?_
    · refine State.dropOps_only (List.Subset.trans (by decide) hm) ?_
      refine State.holdBias_only (List.Subset.trans (by decide) hm) ?_
      exact hx11
    · exact hv6
  try clear_value v7
  have hv8 : Only ps s0 v8 := by
    unfold v8
    refine State.dropJump_only (List.Subset.trans (by decide) hm) ?_
    refine State.cutWindows_only (List.Subset.trans (by decide) hm) ?_
    exact hv7
  try clear_value v8
  refine Only.ite ?_ ?_
  · exact hs
  · refine State.raise_only (List.Subset.trans (by decide) hm) ?_
    refine State.idleEngine_only (List.Subset.trans (by decide) hm) ?_
    exact hv8

theorem State.writeShadowed_only {ps : List Part} {s0 : State} {s : State} {r : Rec} {i : Nat} {v : Nat}
    (hm : [Part.shadows, Part.image r] ⊆ ps) (hs : Only ps s0 s) : Only ps s0 (State.writeShadowed s r i v) := by
  unfold State.writeShadowed
  split
  · refine Only.ite ?_ ?_
    · refine Only.setShadows (List.Subset.trans (by first | decide | simp) hm) ?_
      exact hs
    · refine State.setImage_only (List.Subset.trans (by first | decide | simp) hm) ?_
      exact hs
  · refine State.setImage_only (List.Subset.trans (by first | decide | simp) hm) ?_
    exact hs

theorem State.bringWeights_only {ps : List Part} {s0 : State} {s : State} {t : Nat} {j : Nat} {more : Bool}
    (hm : [Part.weights, Part.image Rec.weightControl] ⊆ ps) (hs : Only ps s0 s) : Only ps s0 (State.bringWeights s t j more) := by
  unfold State.bringWeights
  extract_lets v1 v2 v3 v4 v5 v6 v7
  try clear_value v1
  try clear_value v2
  try clear_value v3
  try clear_value v4
  try clear_value v5
  have hv7 : Only ps s0 v7 := by
    unfold v7
    refine Only.step (t := s) (ps := [Part.weights]) (fun p hp => by cases p <;> first | rfl | exact ⟨rfl, rfl⟩ | exact ⟨rfl, rfl, rfl⟩ | exact image_congr rfl | exact fun h => h | exact absurd (by decide) hp) (List.Subset.trans (by decide) hm) ?_
    exact hs
  try clear_value v7
  refine State.put_only (List.Subset.trans (by decide) hm) ?_
  exact hv7

theorem State.bringMatrix_only {ps : List Part} {s0 : State} {s : State} {t : Nat}
    (hm : [Part.drive, Part.image Rec.matrixControl] ⊆ ps) (hs : Only ps s0 s) : Only ps s0 (State.bringMatrix s t) := by
  unfold State.bringMatrix
  extract_lets v1
  have hv1 : Only ps s0 v1 := by
    unfold v1
    refine Only.foldl (fun x2 _ hx2 => ?_) _ ?_
    · extract_lets v3 v4
      try clear_value v3
      try clear_value v4
      refine Only.setDrive (List.Subset.trans (by decide) hm) ?_
      exact hx2
    · exact hs
  try clear_value v1
  refine State.count_only (List.Subset.trans (by decide) hm) ?_
  refine State.putFlag_only (List.Subset.trans (by decide) hm) ?_
  exact hv1

theorem State.clearHist_only {ps : List Part} {s0 : State} {s : State} {slot : Nat}
    (hm : [Part.bins, Part.image Rec.histStatus] ⊆ ps) (hs : Only ps s0 s) : Only ps s0 (State.clearHist s slot) := by
  unfold State.clearHist
  extract_lets v1 v2
  have hv2 : Only ps s0 v2 := by
    unfold v2
    refine Only.step (t := s) (ps := [Part.bins]) (fun p hp => by cases p <;> first | rfl | exact ⟨rfl, rfl⟩ | exact ⟨rfl, rfl, rfl⟩ | exact image_congr rfl | exact fun h => h | exact absurd (by decide) hp) (List.Subset.trans (by decide) hm) ?_
    exact hs
  try clear_value v2
  refine State.setImage_only (List.Subset.trans (by decide) hm) ?_
  exact hv2

theorem State.endMute_only {ps : List Part} {s0 : State} {s : State} {n : Nat}
    (hm : [Part.image Rec.xyStatus] ⊆ ps) (hs : Only ps s0 s) : Only ps s0 (State.endMute s n) := by
  unfold State.endMute
  refine State.putFlag_only (List.Subset.trans (by decide) hm) ?_
  exact hs

theorem State.clearLatches_only {ps : List Part} {s0 : State} {s : State} {n : Nat} {which : Nat}
    (hm : [Part.image Rec.biasStatus, Part.bias] ⊆ ps) (hs : Only ps s0 s) : Only ps s0 (State.clearLatches s n which) := by
  unfold State.clearLatches
  extract_lets v1 v2 v3
  have hv1 : Only ps s0 v1 := by
    unfold v1
    refine Only.ite ?_ ?_
    · refine State.putFlag_only (List.Subset.trans (by decide) hm) ?_
      exact hs
    · exact hs
  try clear_value v1
  try clear_value v2
  have hv3 : Only ps s0 v3 := by
    unfold v3
    refine Only.ite ?_ ?_
    · refine State.setBias_only (List.Subset.trans (by decide) hm) ?_
      refine State.putFlag_only (List.Subset.trans (by decide) hm) ?_
      exact hv1
    · exact hv1
  try clear_value v3
  refine Only.ite ?_ ?_
  · exact hv3
  · refine State.releaseBias_only (List.Subset.trans (by decide) hm) ?_
    exact hv3

theorem State.serveShadow_only {ps : List Part} {s0 s : State} {t cut : Nat} {kv : Nat × List (Nat × Nat)}
    (hm : [Part.shadows, Part.image Rec.timingSet, Part.image Rec.driveTone, Part.image Rec.probeTone, Part.image Rec.acqTone, Part.image Rec.biasIir, Part.image Rec.biasFir, Part.image Rec.histConfig, Part.image Rec.model] ⊆ ps)
    (hs : Only ps s0 s) : Only ps s0 (s.serveShadow t cut kv) := by
  unfold State.serveShadow
  split
  · rename_i r i _
    split
    · rename_i hr
      have hi : [Part.image r] ⊆ ps := by
        refine List.Subset.trans ?_ hm
        cases r <;> first | decide | exact absurd hr (by simp [Rec.shadowTile])
      extract_lets s1
      have hs1 : Only ps s0 s1 := by
        unfold s1
        split
        · exact State.setImage_only hi hs
        · exact hs
      clear_value s1
      exact Only.setShadows (List.Subset.trans (by decide) hm) hs1
    · exact hs
  · exact hs

theorem State.serveShadows_only {ps : List Part} {s0 : State} {s : State} {t : Nat} {cut : Nat}
    (hm : [Part.shadows, Part.image Rec.timingSet, Part.image Rec.driveTone, Part.image Rec.probeTone, Part.image Rec.acqTone, Part.image Rec.biasIir, Part.image Rec.biasFir, Part.image Rec.histConfig, Part.image Rec.model] ⊆ ps) (hs : Only ps s0 s) : Only ps s0 (State.serveShadows s t cut) := by
  unfold State.serveShadows
  refine Only.foldl (fun x1 _ hx1 => ?_) _ ?_
  · refine State.serveShadow_only (List.Subset.trans (by decide) hm) ?_
    exact hx1
  · exact hs

theorem State.serveCtx_only {ps : List Part} {s0 : State} {s : State} {cut : Nat} {kv : Nat × List (Nat × Nat)}
    (hm : [Part.loaded] ⊆ ps) (hs : Only ps s0 s) : Only ps s0 (State.serveCtx s cut kv) := by
  unfold State.serveCtx
  split
  · refine Only.step (t := s) (ps := [Part.loaded]) (fun p hp => by cases p <;> first | rfl | exact ⟨rfl, rfl⟩ | exact ⟨rfl, rfl, rfl⟩ | exact image_congr rfl | exact fun h => h | exact absurd (by decide) hp) (List.Subset.trans (by decide) hm) ?_
    exact hs
  · exact hs

theorem State.serveLatches_only {ps : List Part} {s0 : State} {s : State} {cut : Nat} {n : Nat}
    (hm : [Part.image Rec.biasStatus, Part.bias] ⊆ ps) (hs : Only ps s0 s) : Only ps s0 (State.serveLatches s cut n) := by
  unfold State.serveLatches
  extract_lets v1 v2
  try clear_value v1
  try clear_value v2
  refine Only.ite ?_ ?_
  · exact hs
  · refine State.clearLatches_only (List.Subset.trans (by decide) hm) ?_
    refine State.setBias_only (List.Subset.trans (by decide) hm) ?_
    exact hs

theorem State.boundary_only {ps : List Part} {s0 : State} {s : State} {t : Nat} {cut : Nat}
    (hm : [Part.shadows, Part.image Rec.timingSet, Part.image Rec.driveTone, Part.image Rec.probeTone, Part.image Rec.acqTone, Part.image Rec.biasIir, Part.image Rec.biasFir, Part.image Rec.histConfig, Part.image Rec.model, Part.loaded, Part.drive, Part.image Rec.matrixControl, Part.weights, Part.image Rec.weightControl, Part.readout, Part.bins, Part.image Rec.histStatus, Part.image Rec.xyStatus, Part.image Rec.biasStatus, Part.bias, Part.blocking] ⊆ ps) (hs : Only ps s0 s) : Only ps s0 (State.boundary s t cut) := by
  unfold State.boundary
  extract_lets v1 v2 v3 v4 v5 v6 v7 v8 v9 v10 v11 v12 v13 v14 v15
  have hv1 : Only ps s0 v1 := by
    unfold v1
    refine State.serveShadows_only (List.Subset.trans (by decide) hm) ?_
    exact hs
  try clear_value v1
  try clear_value v2
  have hv3 : Only ps s0 v3 := by
    unfold v3
    refine Only.foldl (fun x16 _ hx16 => ?_) _ ?_
    · refine State.serveCtx_only (List.Subset.trans (by decide) hm) ?_
      exact hx16
    · exact hv1
  try clear_value v3
  try clear_value v4
  have hv5 : Only ps s0 v5 := by
    unfold v5
    split
    · refine Only.ite ?_ ?_
      · refine State.bringMatrix_only (List.Subset.trans (by decide) hm) ?_
        refine Only.setDrive (List.Subset.trans (by decide) hm) ?_
        exact hv3
      · exact hv3
    · exact hv3
  try clear_value v5
  try clear_value v6
  have hv7 : Only ps s0 v7 := by
    unfold v7
    refine Only.foldl (fun x17 _ hx17 => ?_) _ ?_
    · refine State.bringWeights_only (List.Subset.trans (by decide) hm) ?_
      refine Only.step (t := x17) (ps := [Part.readout]) (fun p hp => by cases p <;> first | rfl | exact ⟨rfl, rfl⟩ | exact ⟨rfl, rfl, rfl⟩ | exact image_congr rfl | exact fun h => h | exact absurd (by decide) hp) (List.Subset.trans (by decide) hm) ?_
      exact hx17
    · exact hv5
  try clear_value v7
  try clear_value v8
  have hv9 : Only ps s0 v9 := by
    unfold v9
    refine Only.foldl (fun x18 _ hx18 => ?_) _ ?_
    · refine State.clearHist_only (List.Subset.trans (by decide) hm) ?_
      refine Only.step (t := x18) (ps := [Part.readout]) (fun p hp => by cases p <;> first | rfl | exact ⟨rfl, rfl⟩ | exact ⟨rfl, rfl, rfl⟩ | exact image_congr rfl | exact fun h => h | exact absurd (by decide) hp) (List.Subset.trans (by decide) hm) ?_
      exact hx18
    · exact hv7
  try clear_value v9
  try clear_value v10
  have hv11 : Only ps s0 v11 := by
    unfold v11
    refine Only.foldl (fun x19 _ hx19 => ?_) _ ?_
    · refine State.endMute_only (List.Subset.trans (by decide) hm) ?_
      refine Only.setDrive (List.Subset.trans (by decide) hm) ?_
      exact hx19
    · exact hv9
  try clear_value v11
  have hv12 : Only ps s0 v12 := by
    unfold v12
    refine Only.foldl (fun x20 _ hx20 => ?_) _ ?_
    · refine State.serveLatches_only (List.Subset.trans (by decide) hm) ?_
      exact hx20
    · exact hv11
  try clear_value v12
  try clear_value v13
  have hv14 : Only ps s0 v14 := by
    unfold v14
    refine Only.setBlocking (List.Subset.trans (by decide) hm) ?_
    exact hv12
  try clear_value v14
  refine Only.step (t := v14) (ps := [Part.readout]) (fun p hp => by cases p <;> first | rfl | exact ⟨rfl, rfl⟩ | exact ⟨rfl, rfl, rfl⟩ | exact image_congr rfl | exact fun h => h | exact absurd (by decide) hp) (List.Subset.trans (by decide) hm) ?_
  exact hv14

theorem State.parkIdle_only {ps : List Part} {s0 : State} {s : State} {t : Nat}
    (hm : [Part.bias, Part.image Rec.biasStatus] ⊆ ps) (hs : Only ps s0 s) : Only ps s0 (State.parkIdle s t) := by
  unfold State.parkIdle
  refine Only.ite ?_ ?_
  · exact hs
  · refine Only.ite ?_ ?_
    · refine Only.foldl (fun x1 _ hx1 => ?_) _ ?_
      · refine Only.ite ?_ ?_
        · exact hx1
        · refine State.parkBias_only (List.Subset.trans (by decide) hm) ?_
          exact hx1
      · exact hs
    · exact hs

theorem State.unprepare_only {ps : List Part} {s0 : State} {s : State} {t : Nat}
    (hm : [Part.drive, Part.bias, Part.acq, Part.runs] ⊆ ps) (hs : Only ps s0 s) : Only ps s0 (State.unprepare s t) := by
  unfold State.unprepare
  extract_lets v1 v2 v3 v4 v5 v6 v7
  try clear_value v1
  try clear_value v2
  have hv3 : Only ps s0 v3 := by
    unfold v3
    refine Only.foldl (fun x8 _ hx8 => ?_) _ ?_
    · refine State.silenceTone_only (List.Subset.trans (by decide) hm) ?_
      refine State.silenceTone_only (List.Subset.trans (by decide) hm) ?_
      exact hx8
    · exact hs
  try clear_value v3
  have hv4 : Only ps s0 v4 := by
    unfold v4
    refine Only.foldl (fun x9 _ hx9 => ?_) _ ?_
    · refine State.dropOps_only (List.Subset.trans (by decide) hm) ?_
      exact hx9
    · exact hv3
  try clear_value v4
  try clear_value v5
  have hv6 : Only ps s0 v6 := by
    unfold v6
    refine State.setAcq_only (List.Subset.trans (by decide) hm) ?_
    exact hv4
  try clear_value v6
  have hv7 : Only ps s0 v7 := by
    unfold v7
    refine State.setTile_only (List.Subset.trans (by decide) hm) ?_
    exact hv6
  try clear_value v7
  refine Only.ite ?_ ?_
  · exact hs
  · split
    · exact hv7
    · extract_lets v10 v11
      try clear_value v10
      try clear_value v11
      refine State.setGroup_only (List.Subset.trans (by decide) hm) ?_
      exact hv7

theorem State.stopForPatch_only {ps : List Part} {s0 : State} {s : State} {e : Nat}
    (hm : [Part.engines] ⊆ ps) (hs : Only ps s0 s) : Only ps s0 (State.stopForPatch s e) := by
  unfold State.stopForPatch
  extract_lets v1
  try clear_value v1
  refine Only.ite ?_ ?_
  · exact hs
  · refine State.setEngine_only (List.Subset.trans (by decide) hm) ?_
    exact hs

theorem State.stopIfPatch_only {ps : List Part} {s0 : State} {s : State} {e : Nat}
    (hm : [Part.engines] ⊆ ps) (hs : Only ps s0 s) : Only ps s0 (State.stopIfPatch s e) := by
  unfold State.stopIfPatch
  refine Only.ite ?_ ?_
  · refine State.stopForPatch_only (List.Subset.trans (by decide) hm) ?_
    exact hs
  · exact hs

theorem State.leaveRun_only {ps : List Part} {s0 : State} {s : State} {t : Nat}
    (hm : [Part.shadows, Part.image Rec.timingSet, Part.image Rec.driveTone, Part.image Rec.probeTone, Part.image Rec.acqTone, Part.image Rec.biasIir, Part.image Rec.biasFir, Part.image Rec.histConfig, Part.image Rec.model, Part.loaded, Part.drive, Part.image Rec.matrixControl, Part.weights, Part.image Rec.weightControl, Part.readout, Part.bins, Part.image Rec.histStatus, Part.image Rec.xyStatus, Part.image Rec.biasStatus, Part.bias, Part.blocking, Part.acq, Part.runs, Part.engines, Part.image Rec.runStatus, Part.image Rec.engineStatus] ⊆ ps) (hs : Only ps s0 s) : Only ps s0 (State.leaveRun s t) := by
  unfold State.leaveRun
  extract_lets v1 v2 v3 v4 v5 v6 v7 v8 v9
  have hv1 : Only ps s0 v1 := by
    unfold v1
    refine State.boundary_only (List.Subset.trans (by decide) hm) ?_
    refine State.unprepare_only (List.Subset.trans (by decide) hm) ?_
    exact hs
  try clear_value v1
  try clear_value v2
  have hv3 : Only ps s0 v3 := by
    unfold v3
    refine State.setTile_only (List.Subset.trans (by decide) hm) ?_
    exact hv1
  try clear_value v3
  have hv4 : Only ps s0 v4 := by
    unfold v4
    refine Only.foldl (fun x10 _ hx10 => ?_) _ ?_
    · refine State.releaseBias_only (List.Subset.trans (by decide) hm) ?_
      refine State.releaseBias_only (List.Subset.trans (by decide) hm) ?_
      exact hx10
    · exact hv3
  try clear_value v4
  try clear_value v5
  have hv6 : Only ps s0 v6 := by
    unfold v6
    refine Only.setDrive (List.Subset.trans (by decide) hm) ?_
    exact hv4
  try clear_value v6
  have hv7 : Only ps s0 v7 := by
    unfold v7
    refine State.endLogs_only (List.Subset.trans (by decide) hm) ?_
    exact hv6
  try clear_value v7
  try clear_value v8
  have hv9 : Only ps s0 v9 := by
    unfold v9
    refine State.setAcq_only (List.Subset.trans (by decide) hm) ?_
    exact hv7
  try clear_value v9
  refine State.parkIdle_only (List.Subset.trans (by decide) hm) ?_
  refine State.stopIfPatch_only (List.Subset.trans (by decide) hm) ?_
  refine State.put_only (List.Subset.trans (by decide) hm) ?_
  refine State.idleEngine_only (List.Subset.trans (by decide) hm) ?_
  exact hv9

theorem State.endRun_only {ps : List Part} {s0 : State} {s : State} {g : Nat}
    (hm : [Part.shadows, Part.image Rec.timingSet, Part.image Rec.driveTone, Part.image Rec.probeTone, Part.image Rec.acqTone, Part.image Rec.biasIir, Part.image Rec.biasFir, Part.image Rec.histConfig, Part.image Rec.model, Part.loaded, Part.drive, Part.image Rec.matrixControl, Part.weights, Part.image Rec.weightControl, Part.readout, Part.bins, Part.image Rec.histStatus, Part.image Rec.xyStatus, Part.image Rec.biasStatus, Part.bias, Part.blocking, Part.acq, Part.runs, Part.engines, Part.image Rec.runStatus, Part.image Rec.engineStatus, Part.mailboxes, Part.log, Part.image Rec.logStatus, Part.out, Part.hatband, Part.host] ⊆ ps) (hs : Only ps s0 s) : Only ps s0 (State.endRun s g) := by
  unfold State.endRun
  extract_lets v1 v2 v3
  try clear_value v1
  have hv2 : Only ps s0 v2 := by
    unfold v2
    refine Only.foldl (fun x4 _ hx4 => ?_) _ ?_
    · refine State.leaveRun_only (List.Subset.trans (by decide) hm) ?_
      exact hx4
    · exact hs
  try clear_value v2
  have hv3 : Only ps s0 v3 := by
    unfold v3
    refine State.setGroup_only (List.Subset.trans (by decide) hm) ?_
    exact hv2
  try clear_value v3
  refine State.finishAll_only (List.Subset.trans (by decide) hm) ?_
  exact hv3

theorem State.demandHalt_only {ps : List Part} {s0 : State} {s : State} {e : Nat}
    (hm : [Part.engines] ⊆ ps) (hs : Only ps s0 s) : Only ps s0 (State.demandHalt s e) := by
  unfold State.demandHalt
  refine State.setEngine_only (List.Subset.trans (by decide) hm) ?_
  exact hs

theorem State.demandVoid_only {ps : List Part} {s0 : State} {s : State} {e : Nat}
    (hm : [Part.engines] ⊆ ps) (hs : Only ps s0 s) : Only ps s0 (State.demandVoid s e) := by
  unfold State.demandVoid
  refine State.setEngine_only (List.Subset.trans (by decide) hm) ?_
  exact hs

theorem State.haltGroup_only {ps : List Part} {s0 : State} {s : State} {g : Nat}
    (hm : [Part.engines, Part.runs, Part.image Rec.runStatus, Part.drive, Part.bias, Part.image Rec.biasStatus, Part.out, Part.hatband, Part.acq, Part.image Rec.engineStatus, Part.shadows, Part.image Rec.timingSet, Part.image Rec.driveTone, Part.image Rec.probeTone, Part.image Rec.acqTone, Part.image Rec.biasIir, Part.image Rec.biasFir, Part.image Rec.histConfig, Part.image Rec.model, Part.loaded, Part.image Rec.matrixControl, Part.weights, Part.image Rec.weightControl, Part.readout, Part.bins, Part.image Rec.histStatus, Part.image Rec.xyStatus, Part.blocking, Part.mailboxes, Part.log, Part.image Rec.logStatus, Part.host] ⊆ ps) (hs : Only ps s0 s) : Only ps s0 (State.haltGroup s g) := by
  unfold State.haltGroup
  refine Only.ite ?_ ?_
  · exact hs
  · extract_lets v1 v2
    have hv1 : Only ps s0 v1 := by
      unfold v1
      refine Only.foldl (fun x3 _ hx3 => ?_) _ ?_
      · refine State.demandHalt_only (List.Subset.trans (by decide) hm) ?_
        exact hx3
      · exact hs
    try clear_value v1
    have hv2 : Only ps s0 v2 := by
      unfold v2
      refine Only.ite ?_ ?_
      · refine Only.foldl (fun x4 _ hx4 => ?_) _ ?_
        · refine State.standDown_only (List.Subset.trans (by decide) hm) ?_
          refine State.voidShot_only (List.Subset.trans (by decide) hm) ?_
          exact hx4
        · exact hv1
      · exact hv1
    try clear_value v2
    refine State.endRun_only (List.Subset.trans (by decide) hm) ?_
    exact hv2

theorem State.abortRun_only {ps : List Part} {s0 : State} {s : State} {t : Nat}
    (hm : [Part.runs] ⊆ ps) (hs : Only ps s0 s) : Only ps s0 (State.abortRun s t) := by
  unfold State.abortRun
  split
  · exact hs
  · refine State.setGroup_only (List.Subset.trans (by decide) hm) ?_
    exact hs

theorem State.programFault_only {ps : List Part} {s0 : State} {s : State} {t : Nat}
    (hm : [Part.out, Part.hatband, Part.log, Part.image Rec.logStatus, Part.runs, Part.image Rec.runStatus, Part.drive, Part.bias, Part.image Rec.biasStatus, Part.acq, Part.image Rec.engineStatus, Part.engines] ⊆ ps) (hs : Only ps s0 s) : Only ps s0 (State.programFault s t) := by
  unfold State.programFault
  extract_lets v1 v2
  have hv1 : Only ps s0 v1 := by
    unfold v1
    refine State.raise_only (List.Subset.trans (by decide) hm) ?_
    exact hs
  try clear_value v1
  have hv2 : Only ps s0 v2 := by
    unfold v2
    refine State.report_only (List.Subset.trans (by decide) hm) ?_
    exact hv1
  try clear_value v2
  refine State.standDown_only (List.Subset.trans (by decide) hm) ?_
  refine State.abortRun_only (List.Subset.trans (by decide) hm) ?_
  refine State.demandVoid_only (List.Subset.trans (by decide) hm) ?_
  refine State.voidShot_only (List.Subset.trans (by decide) hm) ?_
  exact hv2

theorem State.enterMode_only {ps : List Part} {s0 : State} {s : State} {m : Mode} {cause : Nat}
    (hm : [Part.image Rec.modeRecord, Part.mode, Part.crown, Part.image Rec.gridStatus, Part.out, Part.host, Part.hatband] ⊆ ps) (hs : Only ps s0 s) : Only ps s0 (State.enterMode s m cause) := by
  unfold State.enterMode
  extract_lets v1 v2 v3 v4 v5 v6
  have hv1 : Only ps s0 v1 := by
    unfold v1
    refine State.put_only (List.Subset.trans (by decide) hm) ?_
    refine State.put_only (List.Subset.trans (by decide) hm) ?_
    exact hs
  try clear_value v1
  have hv2 : Only ps s0 v2 := by
    unfold v2
    refine State.put_only (List.Subset.trans (by decide) hm) ?_
    exact hv1
  try clear_value v2
  try clear_value v3
  have hv4 : Only ps s0 v4 := by
    unfold v4
    refine Only.step (t := v2) (ps := [Part.mode, Part.crown]) (fun p hp => by cases p <;> first | rfl | exact ⟨rfl, rfl⟩ | exact ⟨rfl, rfl, rfl⟩ | exact image_congr rfl | exact fun h => h | exact absurd (by decide) hp) (List.Subset.trans (by decide) hm) ?_
    exact hv2
  try clear_value v4
  have hv5 : Only ps s0 v5 := by
    unfold v5
    refine State.putFlag_only (List.Subset.trans (by decide) hm) ?_
    exact hv4
  try clear_value v5
  have hv6 : Only ps s0 v6 := by
    unfold v6
    refine Only.ite ?_ ?_
    · exact hv5
    · refine State.putFlag_only (List.Subset.trans (by decide) hm) ?_
      exact hv5
  try clear_value v6
  refine State.signalAll_only (List.Subset.trans (by decide) hm) ?_
  refine State.raise_only (List.Subset.trans (by decide) hm) ?_
  exact hv6

theorem State.postCompletion_only {ps : List Part} {s0 : State} {s : State} {f : Nat} {tag : Nat} {st : Status} {engine : Nat} {frames : Nat} {inBlocks : Nat} {outUnits : Nat}
    (hm : [Part.out, Part.host, Part.hatband, Part.image Rec.ring] ⊆ ps) (hs : Only ps s0 s) : Only ps s0 (State.postCompletion s f tag st engine frames inBlocks outUnits) := by
  unfold State.postCompletion
  extract_lets v1 v2 v3 v4 v5 v6 v7
  try clear_value v1
  try clear_value v2
  try clear_value v3
  try clear_value v4
  have hv5 : Only ps s0 v5 := by
    unfold v5
    refine State.send_only (List.Subset.trans (by decide) hm) ?_
    exact hs
  try clear_value v5
  have hv7 : Only ps s0 v7 := by
    unfold v7
    refine Only.step (t := v5) (ps := [Part.host]) (fun p hp => by cases p <;> first | rfl | exact ⟨rfl, rfl⟩ | exact ⟨rfl, rfl, rfl⟩ | exact image_congr rfl | exact fun h => h | exact absurd (by decide) hp) (List.Subset.trans (by decide) hm) ?_
    exact hv5
  try clear_value v7
  refine Only.ite ?_ ?_
  · refine State.raise_only (List.Subset.trans (by decide) hm) ?_
    refine State.signal_only (List.Subset.trans (by decide) hm) ?_
    refine State.count_only (List.Subset.trans (by decide) hm) ?_
    exact hv7
  · exact hs

theorem State.setCapture_only {ps : List Part} {s0 : State} {s : State} {c : Capture}
    (hm : [Part.capture] ⊆ ps) (hs : Only ps s0 s) : Only ps s0 (State.setCapture s c) := by
  unfold State.setCapture
  refine Only.setCapture (List.Subset.trans (by decide) hm) ?_
  exact hs

theorem State.dropChunk_only {ps : List Part} {s0 : State} {s : State} {kind : Nat} {tile : Nat} {b : Nat}
    (hm : [Part.image Rec.capStatus, Part.out, Part.hatband, Part.capture, Part.log, Part.image Rec.logStatus] ⊆ ps) (hs : Only ps s0 s) : Only ps s0 (State.dropChunk s kind tile b) := by
  unfold State.dropChunk
  refine Only.ite ?_ ?_
  · extract_lets v1 v2 v3
    have hv1 : Only ps s0 v1 := by
      unfold v1
      refine State.count_only (List.Subset.trans (by decide) hm) ?_
      exact hs
    try clear_value v1
    try clear_value v2
    have hv3 : Only ps s0 v3 := by
      unfold v3
      refine Only.ite ?_ ?_
      · exact hv1
      · refine State.raise_only (List.Subset.trans (by decide) hm) ?_
        refine State.setCapture_only (List.Subset.trans (by decide) hm) ?_
        exact hv1
    try clear_value v3
    refine State.report_only (List.Subset.trans (by decide) hm) ?_
    exact hv3
  · refine State.report_only (List.Subset.trans (by decide) hm) ?_
    refine State.raise_only (List.Subset.trans (by decide) hm) ?_
    refine State.count_only (List.Subset.trans (by decide) hm) ?_
    exact hs

theorem State.consume_only {ps : List Part} {s0 : State} {s : State} {at_ : Nat}
    (hm : [Part.image Rec.capStatus, Part.capture] ⊆ ps) (hs : Only ps s0 s) : Only ps s0 (State.consume s at_) := by
  unfold State.consume
  extract_lets v1 v2 v3
  try clear_value v1
  try clear_value v2
  try clear_value v3
  refine State.put_only (List.Subset.trans (by decide) hm) ?_
  refine State.setCapture_only (List.Subset.trans (by decide) hm) ?_
  exact hs

theorem State.requeue_only {ps : List Part} {s0 : State} {s : State} {j : Job}
    (hm : [Part.capture] ⊆ ps) (hs : Only ps s0 s) : Only ps s0 (State.requeue s j) := by
  unfold State.requeue
  refine State.setCapture_only (List.Subset.trans (by decide) hm) ?_
  exact hs

theorem State.retryAuto_only {ps : List Part} {s0 : State} {s : State} {j : Job} {st : Status} {shed : Bool}
    (hm : [Part.capture, Part.image Rec.capStatus, Part.out, Part.hatband, Part.log, Part.image Rec.logStatus] ⊆ ps) (hs : Only ps s0 s) : Only ps s0 (State.retryAuto s j st shed) := by
  unfold State.retryAuto
  refine Only.ite ?_ ?_
  · refine State.requeue_only (List.Subset.trans (by decide) hm) ?_
    exact hs
  · refine Only.ite ?_ ?_
    · refine State.requeue_only (List.Subset.trans (by decide) hm) ?_
      exact hs
    · refine Only.ite ?_ ?_
      · refine State.requeue_only (List.Subset.trans (by decide) hm) ?_
        exact hs
      · extract_lets v1
        try clear_value v1
        refine State.consume_only (List.Subset.trans (by decide) hm) ?_
        refine State.dropChunk_only (List.Subset.trans (by decide) hm) ?_
        exact hs

theorem State.failJob_only {ps : List Part} {s0 : State} {s : State} {j : Job} {st : Status} {shed : Bool}
    (hm : [Part.out, Part.hatband, Part.log, Part.image Rec.logStatus, Part.image Rec.outQueue, Part.capture, Part.image Rec.capStatus, Part.host, Part.image Rec.ring] ⊆ ps) (hs : Only ps s0 s) : Only ps s0 (State.failJob s j st shed) := by
  unfold State.failJob
  extract_lets v1 v2 v3 v4
  try clear_value v1
  try clear_value v2
  have hv3 : Only ps s0 v3 := by
    unfold v3
    refine State.raise_only (List.Subset.trans (by decide) hm) ?_
    exact hs
  try clear_value v3
  have hv4 : Only ps s0 v4 := by
    unfold v4
    refine Only.ite ?_ ?_
    · refine State.report_only (List.Subset.trans (by decide) hm) ?_
      refine State.count_only (List.Subset.trans (by decide) hm) ?_
      exact hv3
    · refine Only.ite ?_ ?_
      · refine State.count_only (List.Subset.trans (by decide) hm) ?_
        exact hv3
      · exact hv3
  try clear_value v4
  refine Only.ite ?_ ?_
  · refine State.retryAuto_only (List.Subset.trans (by decide) hm) ?_
    exact hv4
  · refine State.postCompletion_only (List.Subset.trans (by decide) hm) ?_
    exact hv4

theorem State.blurStore_only {ps : List Part} {s0 s : State} {base size a n : Nat}
    (hm : [Part.store, Part.free] ⊆ ps) (hs : Only ps s0 s) : Only ps s0 (s.blurStore base size a n) := by
  have wf : ∀ (l : List Nat) (m : SMap Byte) (f : Nat → Nat) (g : Nat → Byte), SMap.wf (fun _ => 0) m = true →
      SMap.wf (fun _ => 0) (l.foldl (fun (m : SMap Byte) i => SMap.write m 0 (f i) (g i)) m) = true := by
    intro l
    induction l with
    | nil => exact fun _ _ _ h => h
    | cons x l ih => exact fun m f g h => ih _ f g (SMap.wf_write _ _ h)
  refine Only.step (ps := [Part.store, Part.free]) (fun p hp => ?_) hm hs
  cases p with
  | form => exact fun h => ⟨h.1, h.2.1, wf _ _ _ _ h.2.2.1, h.2.2.2⟩
  | _ => first | rfl | exact ⟨rfl, rfl⟩ | exact ⟨rfl, rfl, rfl⟩ | exact fun _ => rfl | exact absurd (by decide) hp

theorem State.blurOutput_only {ps : List Part} {s0 : State} {s : State} {x : RunJob}
    (hm : [Part.store, Part.free] ⊆ ps) (hs : Only ps s0 s) : Only ps s0 (State.blurOutput s x) := by
  unfold State.blurOutput
  refine Only.ite ?_ ?_
  · extract_lets v1
    try clear_value v1
    refine State.blurStore_only (List.Subset.trans (by decide) hm) ?_
    exact hs
  · refine State.blurStore_only (List.Subset.trans (by decide) hm) ?_
    exact hs

theorem State.failRun_only {ps : List Part} {s0 : State} {s : State} {e : Nat} {st : Status} {shed : Bool}
    (hm : [Part.capture, Part.out, Part.hatband, Part.log, Part.image Rec.logStatus, Part.image Rec.outQueue, Part.image Rec.capStatus, Part.host, Part.image Rec.ring, Part.store, Part.free] ⊆ ps) (hs : Only ps s0 s) : Only ps s0 (State.failRun s e st shed) := by
  unfold State.failRun
  split
  · exact hs
  · extract_lets v1 v2
    try clear_value v1
    have hv2 : Only ps s0 v2 := by
      unfold v2
      refine State.setCapture_only (List.Subset.trans (by decide) hm) ?_
      exact hs
    try clear_value v2
    refine State.failJob_only (List.Subset.trans (by decide) hm) ?_
    refine State.blurOutput_only (List.Subset.trans (by decide) hm) ?_
    exact hv2

theorem State.failAllJobs_only {ps : List Part} {s0 : State} {s : State}
    (hm : [Part.capture, Part.out, Part.hatband, Part.log, Part.image Rec.logStatus, Part.image Rec.outQueue, Part.image Rec.capStatus, Part.host, Part.image Rec.ring, Part.store, Part.free] ⊆ ps) (hs : Only ps s0 s) : Only ps s0 (State.failAllJobs s) := by
  unfold State.failAllJobs
  extract_lets v1 v2 v3 v4
  have hv1 : Only ps s0 v1 := by
    unfold v1
    refine Only.foldl (fun x5 _ hx5 => ?_) _ ?_
    · refine State.failRun_only (List.Subset.trans (by decide) hm) ?_
      exact hx5
    · exact hs
  try clear_value v1
  try clear_value v2
  try clear_value v3
  have hv4 : Only ps s0 v4 := by
    unfold v4
    refine State.setCapture_only (List.Subset.trans (by decide) hm) ?_
    exact hv1
  try clear_value v4
  refine Only.foldl (fun x6 _ hx6 => ?_) _ ?_
  · refine State.failJob_only (List.Subset.trans (by decide) hm) ?_
    exact hx6
  · exact hv4

theorem State.resumeCapture_only {ps : List Part} {s0 : State} {s : State}
    (hm : [Part.image Rec.capStatus, Part.capture] ⊆ ps) (hs : Only ps s0 s) : Only ps s0 (State.resumeCapture s) := by
  unfold State.resumeCapture
  refine Only.ite ?_ ?_
  · refine State.putFlag_only (List.Subset.trans (by decide) hm) ?_
    refine State.setCapture_only (List.Subset.trans (by decide) hm) ?_
    exact hs
  · exact hs

theorem State.enterSafe_only {ps : List Part} {s0 : State} {s : State} {cause : Nat}
    (hm : [Part.log, Part.image Rec.logStatus, Part.out, Part.hatband, Part.engines, Part.runs, Part.image Rec.runStatus, Part.drive, Part.bias, Part.image Rec.biasStatus, Part.acq, Part.image Rec.engineStatus, Part.shadows, Part.image Rec.timingSet, Part.image Rec.driveTone, Part.image Rec.probeTone, Part.image Rec.acqTone, Part.image Rec.biasIir, Part.image Rec.biasFir, Part.image Rec.histConfig, Part.image Rec.model, Part.loaded, Part.image Rec.matrixControl, Part.weights, Part.image Rec.weightControl, Part.readout, Part.bins, Part.image Rec.histStatus, Part.image Rec.xyStatus, Part.blocking, Part.mailboxes, Part.host, Part.power, Part.capture, Part.image Rec.outQueue, Part.image Rec.capStatus, Part.image Rec.ring, Part.store, Part.free, Part.image Rec.modeRecord, Part.mode, Part.crown, Part.image Rec.gridStatus] ⊆ ps) (hs : Only ps s0 s) : Only ps s0 (State.enterSafe s cause) := by
  unfold State.enterSafe
  extract_lets v1 v2 v3 v4 v5 v6 v7 v8 v9 v10 v11
  have hv1 : Only ps s0 v1 := by
    unfold v1
    refine State.report_only (List.Subset.trans (by decide) hm) ?_
    exact hs
  try clear_value v1
  have hv2 : Only ps s0 v2 := by
    unfold v2
    refine State.demandHalt_only (List.Subset.trans (by decide) hm) ?_
    refine Only.foldl (fun x12 _ hx12 => ?_) _ ?_
    · refine State.haltGroup_only (List.Subset.trans (by decide) hm) ?_
      exact hx12
    · exact hv1
  try clear_value v2
  have hv3 : Only ps s0 v3 := by
    unfold v3
    refine Only.foldl (fun x13 _ hx13 => ?_) _ ?_
    · refine State.silenceTone_only (List.Subset.trans (by decide) hm) ?_
      exact hx13
    · exact hv2
  try clear_value v3
  try clear_value v4
  have hv5 : Only ps s0 v5 := by
    unfold v5
    refine Only.ite ?_ ?_
    · refine Only.setPower (List.Subset.trans (by decide) hm) ?_
      exact hv3
    · exact hv3
  try clear_value v5
  have hv6 : Only ps s0 v6 := by
    unfold v6
    refine State.parkAll_only (List.Subset.trans (by decide) hm) ?_
    exact hv5
  try clear_value v6
  have hv7 : Only ps s0 v7 := by
    unfold v7
    refine State.failAllJobs_only (List.Subset.trans (by decide) hm) ?_
    exact hv6
  try clear_value v7
  try clear_value v8
  have hv9 : Only ps s0 v9 := by
    unfold v9
    refine Only.setBlocking (List.Subset.trans (by decide) hm) ?_
    exact hv7
  try clear_value v9
  have hv10 : Only ps s0 v10 := by
    unfold v10
    refine State.count_only (List.Subset.trans (by decide) hm) ?_
    exact hv9
  try clear_value v10
  have hv11 : Only ps s0 v11 := by
    unfold v11
    refine State.enterMode_only (List.Subset.trans (by decide) hm) ?_
    exact hv10
  try clear_value v11
  refine Only.ite ?_ ?_
  · exact hv1
  · refine State.finishAll_only (List.Subset.trans (by decide) hm) ?_
    exact hv11

/-- The reset memories are in canonical form. -/
theorem Memory.init_wf : Memory.init.wf := ⟨rfl, rfl, rfl, rfl, rfl⟩

theorem State.enterReset_only {ps : List Part} {s0 s : State} {cause : Nat} (hm : resetParts ⊆ ps)
    (hs : Only ps s0 s) : Only ps s0 (s.enterReset cause) := by
  refine Only.step (ps := resetParts) (fun p hp => ?_) hm hs
  cases p with
  | image r => exact absurd (List.mem_append_left _ (mem_imageParts r)) hp
  | form => exact fun _ => Memory.init_wf
  | _ => first | rfl | exact absurd (sub_reset (by decide) (List.mem_singleton_self _)) hp

theorem State.toParkOsc_only {ps : List Part} {s0 : State} {s : State}
    (hm : [Part.bias] ⊆ ps) (hs : Only ps s0 s) : Only ps s0 (State.toParkOsc s) := by
  unfold State.toParkOsc
  refine Only.foldl (fun x1 _ hx1 => ?_) _ ?_
  · refine State.setBias_only (List.Subset.trans (by decide) hm) ?_
    exact hx1
  · exact hs

theorem loadProfile_only {ps : List Part} {s0 : State} {s : State}
    (hm : [Part.image Rec.ulpLane] ⊆ ps) (hs : Only ps s0 s) : Only ps s0 (loadProfile s) := by
  unfold loadProfile
  refine Only.foldl (fun x1 _ hx1 => ?_) _ ?_
  · refine State.setImage_only (List.Subset.trans (by decide) hm) ?_
    exact hx1
  · exact hs

theorem State.beginBoot_only {ps : List Part} {s0 : State} {s : State} {cause : Nat}
    (hm : [Part.image Rec.modeRecord, Part.mode, Part.crown, Part.image Rec.gridStatus, Part.out, Part.host, Part.hatband, Part.image Rec.ulpLane] ⊆ ps) (hs : Only ps s0 s) : Only ps s0 (State.beginBoot s cause) := by
  unfold State.beginBoot
  refine State.enterMode_only (List.Subset.trans (by decide) hm) ?_
  refine loadProfile_only (List.Subset.trans (by decide) hm) ?_
  exact hs

theorem State.tryBoot_only {ps : List Part} {s0 : State} {s : State}
    (hm : [Part.image Rec.modeRecord, Part.mode, Part.crown, Part.image Rec.gridStatus, Part.out, Part.host, Part.hatband, Part.image Rec.ulpLane] ⊆ ps) (hs : Only ps s0 s) : Only ps s0 (State.tryBoot s) := by
  unfold State.tryBoot
  refine Only.ite ?_ ?_
  · refine State.beginBoot_only (List.Subset.trans (by decide) hm) ?_
    exact hs
  · exact hs

theorem State.powerOff_only {ps : List Part} {s0 : State} {s : State} {cause : Nat}
    (hm : resetParts ⊆ ps) (hs : Only ps s0 s) : Only ps s0 (State.powerOff s cause) := by
  unfold State.powerOff
  extract_lets v1 v2 v3 v4
  have hv1 : Only ps s0 v1 := by
    unfold v1
    refine State.enterReset_only hm ?_
    exact hs
  try clear_value v1
  try clear_value v2
  try clear_value v3
  try clear_value v4
  refine Only.setPower (List.Subset.trans (sub_reset (by decide)) hm) ?_
  exact hv1

theorem State.reload_only {ps : List Part} {s0 s : State} (hm : resetParts ⊆ ps) (hs : Only ps s0 s) :
    Only ps s0 s.reload := by
  unfold State.reload
  extract_lets s1 s2 spares libSpares b bias src1 src2 src3 src4 src5 f1 f2
  have hs1 : Only ps s0 s1 := by
    refine Only.ite hs (Only.ite (State.putFlag_only ?_ hs) (State.report_only ?_ (State.raise_only ?_
      (State.putFlag_only ?_ (State.putFlag_only ?_ hs)))))
    all_goals exact List.Subset.trans (sub_reset (by decide)) hm
  have hs2 : Only ps s0 s2 := State.finishAll_only (List.Subset.trans (sub_reset (by decide)) hm) hs1
  have hf1 : Only ps s0 f1 := by
    refine Only.step (t := s2) (ps := resetParts) (fun p hp => ?_) hm hs2
    cases p with
    | image r => exact absurd (List.mem_append_left _ (mem_imageParts r)) hp
    | form => exact fun _ => Memory.init_wf
    | _ => first | rfl | exact absurd (sub_reset (by decide) (List.mem_singleton_self _)) hp
  have hf2 : Only ps s0 f2 := State.put_only (List.Subset.trans (sub_reset (by decide)) hm)
    (State.putFlag_only (List.Subset.trans (sub_reset (by decide)) hm) hf1)
  exact loadProfile_only (List.Subset.trans (sub_reset (by decide)) hm)
    (Only.foldl (fun x _ hx => State.put_only (List.Subset.trans (sub_reset (by decide)) hm) hx) _ hf2)

theorem State.rampDone_only {ps : List Part} {s0 : State} {s : State} {cause : Nat}
    (hm : resetParts ⊆ ps) (hs : Only ps s0 s) : Only ps s0 (State.rampDone s cause) := by
  unfold State.rampDone
  refine Only.ite ?_ ?_
  · refine State.reload_only hm ?_
    exact hs
  · refine Only.ite ?_ ?_
    · extract_lets v1 v2
      have hv1 : Only ps s0 v1 := by
        unfold v1
        refine State.enterReset_only hm ?_
        exact hs
      try clear_value v1
      try clear_value v2
      refine Only.setPower (List.Subset.trans (sub_reset (by decide)) hm) ?_
      exact hv1
    · refine Only.ite ?_ ?_
      · extract_lets v3 v4 v5
        try clear_value v3
        have hv4 : Only ps s0 v4 := by
          unfold v4
          refine State.enterReset_only hm ?_
          exact hs
        try clear_value v4
        try clear_value v5
        refine State.tryBoot_only (List.Subset.trans (sub_reset (by decide)) hm) ?_
        refine Only.setPower (List.Subset.trans (sub_reset (by decide)) hm) ?_
        exact hv4
      · refine State.powerOff_only hm ?_
        exact hs

theorem State.rampEnded_only {ps : List Part} {s0 : State} {s : State}
    (hm : resetParts ⊆ ps) (hs : Only ps s0 s) : Only ps s0 (State.rampEnded s) := by
  unfold State.rampEnded
  split
  · refine Only.ite ?_ ?_
    · refine State.rampDone_only hm ?_
      exact hs
    · exact hs
  · exact hs

theorem State.rampTo_only {ps : List Part} {s0 : State} {s : State} {cause : Nat}
    (hm : [Part.power, Part.bias, Part.image Rec.biasStatus] ⊆ ps) (hs : Only ps s0 s) : Only ps s0 (State.rampTo s cause) := by
  unfold State.rampTo
  split
  · refine Only.ite ?_ ?_
    · refine Only.setPower (List.Subset.trans (by decide) hm) ?_
      exact hs
    · exact hs
  · refine State.parkAllToZero_only (List.Subset.trans (by decide) hm) ?_
    refine Only.setPower (List.Subset.trans (by decide) hm) ?_
    exact hs

end Machine

end Sys2Proof
end

