-- ==== Sys2Proof/Laws/FrameOperands.lean ====
section
/-! SUPPORT. What each operation of Operands.lean may change: one lemma an operation. -/

namespace Sys2Proof

open Machine

namespace Machine

/-- Every state that an answer carries differs from `s0` only in the parts listed. -/
def Answer.Within (ps : List Part) (s0 : State) : Answer → Prop
  | .ok s _ => Only ps s0 s
  | .fail s _ _ => Only ps s0 s
  | .wait s _ => Only ps s0 s
  | .quiet s => Only ps s0 s

theorem Answer.within_ite {ps : List Part} {s0 : State} {c : Prop} [Decidable c] {a b : Answer}
    (ha : a.Within ps s0) (hb : b.Within ps s0) : (if c then a else b).Within ps s0 := by
  split <;> assumption

theorem State.popAccepted_only {ps : List Part} {s0 : State} {s : State}
    (hm : [Part.mailboxes] ⊆ ps) (hs : Only ps s0 s) : Only ps s0 (State.popAccepted s) := by
  unfold State.popAccepted
  refine Only.step (t := s) (ps := [Part.mailboxes]) (fun p hp => by cases p <;> first | rfl | exact ⟨rfl, rfl⟩ | exact ⟨rfl, rfl, rfl⟩ | exact image_congr rfl | exact fun h => h | exact absurd (by decide) hp) (List.Subset.trans (by decide) hm) ?_
  exact hs

theorem State.reply_only {ps : List Part} {s0 : State} {s : State} {r : Request} {st : Status} {detail : Nat} {payload : List Byte}
    (hm : [Part.log, Part.image Rec.logStatus, Part.out, Part.hatband, Part.mailboxes, Part.host] ⊆ ps) (hs : Only ps s0 s) : Only ps s0 (State.reply s r st detail payload) := by
  unfold State.reply
  refine State.respond_only (List.Subset.trans (by decide) hm) ?_
  exact hs

theorem State.settle_only {ps : List Part} {s0 s : State} {r : Request} {a : Answer}
    (hm : [Part.log, Part.image Rec.logStatus, Part.out, Part.hatband, Part.mailboxes, Part.host] ⊆ ps)
    (ha : a.Within ps s0) : Only ps s0 (s.settle r a) := by
  cases a with
  | ok x p => exact State.reply_only hm ha
  | fail x st d => exact State.reply_only hm ha
  | quiet x => exact ha
  | wait x w =>
    refine Only.step (t := x) (ps := [Part.mailboxes]) (fun p hp => ?_) (List.Subset.trans (by decide) hm) ha
    cases p <;> first | rfl | exact ⟨rfl, rfl⟩ | exact ⟨rfl, rfl, rfl⟩ | exact fun _ => rfl | exact id | exact absurd (by decide) hp

theorem State.run_only {ps : List Part} {s0 s : State} {r : Request} {c : Command}
    (hm : [Part.log, Part.image Rec.logStatus, Part.out, Part.hatband, Part.mailboxes, Part.host] ⊆ ps)
    (hs : Only ps s0 s) (hc : (c.act s).Within ps s0) : Only ps s0 (s.run r c) := by
  unfold State.run
  split
  · exact State.reply_only hm hs
  · exact State.settle_only hm hc

theorem State.serve_only {ps : List Part} {s0 s : State} {m code : Nat} {cmd : Request → State → Command}
    (hm : [Part.log, Part.image Rec.logStatus, Part.out, Part.hatband, Part.mailboxes, Part.host] ⊆ ps)
    (hs : Only ps s0 s) (hc : ∀ r x, Only ps s0 x → ((cmd r x).act x).Within ps s0) :
    Only ps s0 (s.serve m code cmd) := by
  unfold State.serve
  extract_lets r s1
  have hp : Only ps s0 s1 := State.popAccepted_only (List.Subset.trans (by decide) hm) hs
  clear_value s1
  refine Only.ite ?_ hs
  split
  · exact State.reply_only hm hp
  · exact State.respond_only hm hp
  · exact State.run_only hm hp (hc r s1 hp)

end Machine

end Sys2Proof
end

