-- ==== Sys2Proof/Laws/FrameArbiter.lean ====
section
/-! SUPPORT. What each operation of Arbiter.lean may change: one lemma an operation. -/

namespace Sys2Proof

open Machine

namespace Machine

theorem State.setMemory_only {ps : List Part} {s0 s : State} {x : Memory} (hm : [Part.memory] ⊆ ps)
    (hl : Part.library ∈ ps ∨ (x.lib = s.memory.lib ∧ x.libSeal = s.memory.libSeal))
    (ht : Part.store ∈ ps ∨ (x.store = s.memory.store ∧ x.storeSeal = s.memory.storeSeal))
    (hf : s.memory.wf → x.wf) (hs : Only ps s0 s) : Only ps s0 (s.setMemory x) := by
  refine hs.trans fun p hp => ?_
  cases p with
  | library => exact hl.resolve_left hp
  | store => exact ht.resolve_left hp
  | memory => exact absurd (hm (by simp)) hp
  | form => exact hf
  | image r => exact fun _ => rfl
  | _ => first | rfl | exact ⟨rfl, rfl⟩ | exact ⟨rfl, rfl, rfl⟩

theorem State.setStoreArb_only {ps : List Part} {s0 : State} {s : State} {a : Arbiter}
    (hm : [Part.memory] ⊆ ps) (hs : Only ps s0 s) : Only ps s0 (State.setStoreArb s a) := by
  unfold State.setStoreArb
  refine State.setMemory_only (List.Subset.trans (by decide) hm) (.inr ⟨rfl, rfl⟩) (.inr ⟨rfl, rfl⟩) (fun h => ⟨h.1, h.2.1, h.2.2.1, h.2.2.2.1, h.2.2.2.2⟩) ?_
  exact hs

theorem State.moveBeats_only {ps : List Part} {s0 : State} {s : State} {q : Nat} {n : Nat}
    (hm : [Part.memory] ⊆ ps) (hs : Only ps s0 s) : Only ps s0 (State.moveBeats s q n) := by
  unfold State.moveBeats
  refine State.setStoreArb_only (List.Subset.trans (by decide) hm) ?_
  exact hs

theorem State.storePhase_only {ps : List Part} {s0 : State} {s : State}
    (hm : [Part.memory, Part.image Rec.storeRequester] ⊆ ps) (hs : Only ps s0 s) : Only ps s0 (State.storePhase s) := by
  unfold State.storePhase
  refine Only.ite ?_ ?_
  · exact hs
  · split
    · refine State.setStoreArb_only (List.Subset.trans (by decide) hm) ?_
      refine State.count_only (List.Subset.trans (by decide) hm) ?_
      exact hs
    · exact hs

theorem State.storeBeats_only {ps : List Part} {s0 : State} {s : State}
    (hm : [Part.memory, Part.image Rec.storeRequester] ⊆ ps) (hs : Only ps s0 s) : Only ps s0 (State.storeBeats s) := by
  unfold State.storeBeats
  split
  · refine State.setStoreArb_only (List.Subset.trans (by decide) hm) ?_
    refine State.count_only (List.Subset.trans (by decide) hm) ?_
    exact hs
  · exact hs

theorem State.bringStore_only {ps : List Part} {s0 : State} {s : State}
    (hm : [Part.image Rec.storeRequester, Part.memory, Part.image Rec.storeControl] ⊆ ps) (hs : Only ps s0 s) : Only ps s0 (State.bringStore s) := by
  unfold State.bringStore
  extract_lets v1 v2
  have hv1 : Only ps s0 v1 := by
    unfold v1
    refine Only.foldl (fun x3 _ hx3 => ?_) _ ?_
    · refine State.put_only (List.Subset.trans (by decide) hm) ?_
      refine State.put_only (List.Subset.trans (by decide) hm) ?_
      exact hx3
    · exact hs
  try clear_value v1
  try clear_value v2
  refine State.setStoreArb_only (List.Subset.trans (by decide) hm) ?_
  refine State.putFlag_only (List.Subset.trans (by decide) hm) ?_
  refine State.count_only (List.Subset.trans (by decide) hm) ?_
  exact hv1

theorem State.storeCycle_only {ps : List Part} {s0 : State} {s : State}
    (hm : [Part.memory, Part.image Rec.storeRequester, Part.image Rec.storeControl] ⊆ ps) (hs : Only ps s0 s) : Only ps s0 (State.storeCycle s) := by
  unfold State.storeCycle
  extract_lets v1 v2
  try clear_value v1
  have hv2 : Only ps s0 v2 := by
    unfold v2
    refine Only.ite ?_ ?_
    · refine State.setStoreArb_only (List.Subset.trans (by decide) hm) ?_
      exact hs
    · refine State.storePhase_only (List.Subset.trans (by decide) hm) ?_
      refine State.storeBeats_only (List.Subset.trans (by decide) hm) ?_
      exact hs
  try clear_value v2
  refine Only.ite ?_ ?_
  · exact hs
  · refine Only.ite ?_ ?_
    · refine State.bringStore_only (List.Subset.trans (by decide) hm) ?_
      exact hv2
    · exact hv2

theorem State.commitStore_only {ps : List Part} {s0 : State} {s : State}
    (hm : [Part.image Rec.storeControl, Part.memory] ⊆ ps) (hs : Only ps s0 s) : Only ps s0 (State.commitStore s) := by
  unfold State.commitStore
  refine State.putFlag_only (List.Subset.trans (by decide) hm) ?_
  refine State.setStoreArb_only (List.Subset.trans (by decide) hm) ?_
  exact hs

theorem State.setLibArb_only {ps : List Part} {s0 : State} {s : State} {t : Nat} {a : Arbiter}
    (hm : [Part.memory] ⊆ ps) (hs : Only ps s0 s) : Only ps s0 (State.setLibArb s t a) := by
  unfold State.setLibArb
  refine State.setMemory_only (List.Subset.trans (by decide) hm) (.inr ⟨rfl, rfl⟩) (.inr ⟨rfl, rfl⟩) (fun h => ⟨h.1, h.2.1, h.2.2.1, h.2.2.2.1, h.2.2.2.2⟩) ?_
  exact hs

theorem State.askRows_only {ps : List Part} {s0 : State} {s : State} {t : Nat} {q : Nat} {n : Nat}
    (hm : [Part.memory] ⊆ ps) (hs : Only ps s0 s) : Only ps s0 (State.askRows s t q n) := by
  unfold State.askRows
  refine State.setLibArb_only (List.Subset.trans (by decide) hm) ?_
  exact hs

theorem State.bringLib_only {ps : List Part} {s0 s : State} {t : Nat} (hm : [Part.memory] ⊆ ps)
    (hs : Only ps s0 s) : Only ps s0 (s.bringLib t) := by
  unfold State.bringLib
  refine State.setLibArb_only (List.Subset.trans (by decide) hm) ?_
  exact State.setMemory_only hm (.inr ⟨rfl, rfl⟩) (.inr ⟨rfl, rfl⟩)
    (fun h => ⟨h.1, h.2.1, h.2.2.1, h.2.2.2.1, SMap.wf_write _ _ h.2.2.2.2⟩) hs

theorem State.libCycle_only {ps : List Part} {s0 : State} {s : State} {t : Nat}
    (hm : [Part.memory] ⊆ ps) (hs : Only ps s0 s) : Only ps s0 (State.libCycle s t) := by
  unfold State.libCycle
  extract_lets v1 v2 v3 v4
  try clear_value v1
  try clear_value v2
  try clear_value v3
  have hv4 : Only ps s0 v4 := by
    unfold v4
    refine State.setLibArb_only (List.Subset.trans (by decide) hm) ?_
    exact hs
  try clear_value v4
  refine Only.ite ?_ ?_
  · refine State.bringLib_only (List.Subset.trans (by decide) hm) ?_
    exact hv4
  · exact hv4

theorem State.commitLib_only {ps : List Part} {s0 : State} {s : State} {t : Nat}
    (hm : [Part.memory] ⊆ ps) (hs : Only ps s0 s) : Only ps s0 (State.commitLib s t) := by
  unfold State.commitLib
  refine State.setLibArb_only (List.Subset.trans (by decide) hm) ?_
  exact hs

theorem State.firstRow_only {ps : List Part} {s0 : State} {s : State} {t : Nat}
    (hm : [Part.memory] ⊆ ps) (hs : Only ps s0 s) : Only ps s0 (State.firstRow s t).2 := by
  unfold State.firstRow
  extract_lets v1 v2 v3
  try clear_value v1
  try clear_value v2
  dsimp only
  refine State.askRows_only (List.Subset.trans (by decide) hm) ?_
  refine State.setMemory_only (List.Subset.trans (by decide) hm) (.inr ⟨rfl, rfl⟩) (.inr ⟨rfl, rfl⟩) (fun h => ⟨h.1, h.2.1, h.2.2.1, h.2.2.2.1, h.2.2.2.2⟩) ?_
  exact hs

theorem State.patrolLibs_only {ps : List Part} {s0 : State} {s : State}
    (hm : [Part.memory] ⊆ ps) (hs : Only ps s0 s) : Only ps s0 (State.patrolLibs s) := by
  unfold State.patrolLibs
  refine Only.ite ?_ ?_
  · refine Only.foldl (fun x1 _ hx1 => ?_) _ ?_
    · refine State.askRows_only (List.Subset.trans (by decide) hm) ?_
      exact hx1
    · exact hs
  · exact hs

theorem State.arbitrate_only {ps : List Part} {s0 : State} {s : State}
    (hm : [Part.memory, Part.image Rec.storeRequester, Part.image Rec.storeControl] ⊆ ps) (hs : Only ps s0 s) : Only ps s0 (State.arbitrate s) := by
  unfold State.arbitrate
  refine Only.ite ?_ ?_
  · exact hs
  · extract_lets v1 v2
    have hv1 : Only ps s0 v1 := by
      unfold v1
      refine State.storeCycle_only (List.Subset.trans (by decide) hm) ?_
      refine State.storeCycle_only (List.Subset.trans (by decide) hm) ?_
      refine State.patrolLibs_only (List.Subset.trans (by decide) hm) ?_
      exact hs
    try clear_value v1
    try clear_value v2
    refine Only.foldl (fun x3 _ hx3 => ?_) _ ?_
    · refine State.libCycle_only (List.Subset.trans (by decide) hm) ?_
      refine State.libCycle_only (List.Subset.trans (by decide) hm) ?_
      exact hx3
    · exact hv1

end Machine

end Sys2Proof
end

