-- ==== Sys2Proof/Laws/FrameTime.lean ====
section
/-! SUPPORT. What each operation of Time.lean may change: one lemma an operation. -/

namespace Sys2Proof

open Machine

namespace Machine

theorem State.setClock_only {ps : List Part} {s0 s : State} {c : Clock} (hm : [Part.clock] ⊆ ps)
    (hn : Part.now ∈ ps ∨ c.now = s.clock.now) (hi : Part.si ∈ ps ∨ c.si = s.clock.si)
    (hw : Part.wall ∈ ps ∨ (c.wallNs = s.clock.wallNs ∧ c.wallFrac = s.clock.wallFrac)) (hs : Only ps s0 s) :
    Only ps s0 (s.setClock c) := by
  refine hs.trans fun p hp => ?_
  cases p with
  | now => exact hn.resolve_left hp
  | si => exact hi.resolve_left hp
  | wall => exact hw.resolve_left hp
  | clock => exact absurd (hm (by simp)) hp
  | image r => exact fun _ => rfl
  | _ => first | rfl | exact ⟨rfl, rfl⟩ | exact ⟨rfl, rfl, rfl⟩ | exact id

theorem State.holdover_only {ps : List Part} {s0 : State} {s : State}
    (hm : [Part.clock, Part.image Rec.timeStatus, Part.log, Part.image Rec.logStatus, Part.out, Part.hatband] ⊆ ps) (hs : Only ps s0 s) : Only ps s0 (State.holdover s) := by
  unfold State.holdover
  extract_lets v1 v2
  have hv2 : Only ps s0 v2 := by
    unfold v2
    refine State.setClock_only (List.Subset.trans (by decide) hm) (.inr rfl) (.inr rfl) (.inr ⟨rfl, rfl⟩) ?_
    refine State.putFlag_only (List.Subset.trans (by decide) hm) ?_
    exact hs
  try clear_value v2
  refine Only.ite ?_ ?_
  · exact hv2
  · refine State.report_only (List.Subset.trans (by decide) hm) ?_
    refine State.raise_only (List.Subset.trans (by decide) hm) ?_
    refine State.putFlag_only (List.Subset.trans (by decide) hm) ?_
    exact hv2

theorem State.stepClock_only {ps : List Part} {s0 : State} {s : State} {ns : Nat}
    (hm : [Part.wall, Part.clock, Part.out, Part.hatband, Part.image Rec.timeStatus] ⊆ ps) (hs : Only ps s0 s) : Only ps s0 (State.stepClock s ns) := by
  unfold State.stepClock
  extract_lets v1 v2
  have hv2 : Only ps s0 v2 := by
    unfold v2
    refine State.setClock_only (List.Subset.trans (by decide) hm) (.inr rfl) (.inr rfl) (.inl (hm (by simp))) ?_
    exact hs
  try clear_value v2
  refine State.raise_only (List.Subset.trans (by decide) hm) ?_
  refine State.count_only (List.Subset.trans (by decide) hm) ?_
  refine State.putFlag_only (List.Subset.trans (by decide) hm) ?_
  exact hv2

theorem State.judgeLock_only {ps : List Part} {s0 : State} {s : State} {offset : Int}
    (hm : [Part.image Rec.timeStatus, Part.clock, Part.out, Part.hatband] ⊆ ps) (hs : Only ps s0 s) : Only ps s0 (State.judgeLock s offset) := by
  unfold State.judgeLock
  extract_lets v1 v2 v3 v4
  try clear_value v1
  have hv2 : Only ps s0 v2 := by
    unfold v2
    refine Only.ite ?_ ?_
    · refine State.putFlag_only (List.Subset.trans (by decide) hm) ?_
      exact hs
    · exact hs
  try clear_value v2
  have hv4 : Only ps s0 v4 := by
    unfold v4
    refine State.setClock_only (List.Subset.trans (by decide) hm) (.inr rfl) (.inr rfl) (.inr ⟨rfl, rfl⟩) ?_
    exact hv2
  try clear_value v4
  refine Only.ite ?_ ?_
  · refine Only.ite ?_ ?_
    · refine State.raise_only (List.Subset.trans (by decide) hm) ?_
      refine State.putFlag_only (List.Subset.trans (by decide) hm) ?_
      exact hv4
    · exact hv4
  · refine State.setClock_only (List.Subset.trans (by decide) hm) (.inr rfl) (.inr rfl) (.inr ⟨rfl, rfl⟩) ?_
    exact hv2

theorem State.measured_only {ps : List Part} {s0 : State} {s : State} {offset : Int}
    (hm : [Part.image Rec.timeStatus, Part.clock, Part.out, Part.hatband, Part.wall] ⊆ ps) (hs : Only ps s0 s) : Only ps s0 (State.measured s offset) := by
  unfold State.measured
  extract_lets v1 v2 v3 v4
  have hv1 : Only ps s0 v1 := by
    unfold v1
    refine State.put_only (List.Subset.trans (by decide) hm) ?_
    exact hs
  try clear_value v1
  have hv2 : Only ps s0 v2 := by
    unfold v2
    refine State.putFlag_only (List.Subset.trans (by decide) hm) ?_
    exact hv1
  try clear_value v2
  have hv3 : Only ps s0 v3 := by
    unfold v3
    refine State.judgeLock_only (List.Subset.trans (by decide) hm) ?_
    exact hv2
  try clear_value v3
  try clear_value v4
  refine Only.ite ?_ ?_
  · refine State.put_only (List.Subset.trans (by decide) hm) ?_
    exact hv3
  · refine State.stepClock_only (List.Subset.trans (by decide) hm) ?_
    exact hv3

theorem State.fireCompare_only {ps : List Part} {s0 : State} {s : State} {u : Nat}
    (hm : [Part.out, Part.hatband, Part.image Rec.compareUnit] ⊆ ps) (hs : Only ps s0 s) : Only ps s0 (State.fireCompare s u) := by
  unfold State.fireCompare
  extract_lets v1 v2 v3
  try clear_value v1
  try clear_value v2
  have hv3 : Only ps s0 v3 := by
    unfold v3
    refine State.raise_only (List.Subset.trans (by decide) hm) ?_
    refine State.count_only (List.Subset.trans (by decide) hm) ?_
    exact hs
  try clear_value v3
  refine Only.ite ?_ ?_
  · refine State.putFlag_only (List.Subset.trans (by decide) hm) ?_
    exact hv3
  · refine State.count_only (List.Subset.trans (by decide) hm) ?_
    refine State.put_only (List.Subset.trans (by decide) hm) ?_
    exact hv3

theorem State.ppsEdge_only {ps : List Part} {s0 : State} {s : State}
    (hm : [Part.clock, Part.out, Part.hatband, Part.image Rec.timeStatus, Part.wall] ⊆ ps) (hs : Only ps s0 s) : Only ps s0 (State.ppsEdge s) := by
  unfold State.ppsEdge
  extract_lets v1 v2 v3
  have hv2 : Only ps s0 v2 := by
    unfold v2
    refine State.setClock_only (List.Subset.trans (by decide) hm) (.inr rfl) (.inr rfl) (.inr ⟨rfl, rfl⟩) ?_
    refine State.raise_only (List.Subset.trans (by decide) hm) ?_
    exact hs
  try clear_value v2
  refine Only.ite ?_ ?_
  · exact hv2
  · split
    · refine State.measured_only (List.Subset.trans (by decide) hm) ?_
      refine State.setClock_only (List.Subset.trans (by decide) hm) (.inr rfl) (.inr rfl) (.inr ⟨rfl, rfl⟩) ?_
      exact hv2
    · refine Only.ite ?_ ?_
      · refine State.measured_only (List.Subset.trans (by decide) hm) ?_
        exact hv2
      · exact hv2

theorem State.ptpAnnounce_only {ps : List Part} {s0 : State} {s : State} {g : Nat × Nat × Nat} {steps : Nat}
    (hm : [Part.clock, Part.image Rec.timeStatus, Part.log, Part.image Rec.logStatus, Part.out, Part.hatband] ⊆ ps) (hs : Only ps s0 s) : Only ps s0 (State.ptpAnnounce s g steps) := by
  unfold State.ptpAnnounce
  extract_lets v1 v2 v3 v4
  have hv2 : Only ps s0 v2 := by
    unfold v2
    refine State.setClock_only (List.Subset.trans (by decide) hm) (.inr rfl) (.inr rfl) (.inr ⟨rfl, rfl⟩) ?_
    exact hs
  try clear_value v2
  have hv4 : Only ps s0 v4 := by
    unfold v4
    refine State.setClock_only (List.Subset.trans (by decide) hm) (.inr rfl) (.inr rfl) (.inr ⟨rfl, rfl⟩) ?_
    exact hv2
  try clear_value v4
  split
  · refine State.setClock_only (List.Subset.trans (by decide) hm) (.inr rfl) (.inr rfl) (.inr ⟨rfl, rfl⟩) ?_
    exact hv2
  · refine Only.ite ?_ ?_
    · exact hv2
    · refine Only.ite ?_ ?_
      · refine Only.ite ?_ ?_
        · refine State.holdover_only (List.Subset.trans (by decide) hm) ?_
          exact hv4
        · exact hv4
      · exact hs

theorem State.ptpMeasure_only {ps : List Part} {s0 : State} {s : State} {t1 : Nat} {t2 : Nat}
    (hm : [Part.clock, Part.image Rec.timeStatus, Part.out, Part.hatband, Part.wall] ⊆ ps) (hs : Only ps s0 s) : Only ps s0 (State.ptpMeasure s t1 t2) := by
  unfold State.ptpMeasure
  extract_lets v1 v2 v3
  try clear_value v1
  have hv3 : Only ps s0 v3 := by
    unfold v3
    refine State.setClock_only (List.Subset.trans (by decide) hm) (.inr rfl) (.inr rfl) (.inr ⟨rfl, rfl⟩) ?_
    exact hs
  try clear_value v3
  refine Only.ite ?_ ?_
  · refine State.measured_only (List.Subset.trans (by decide) hm) ?_
    exact hv3
  · exact hv3

theorem State.ptpReceive_only {ps : List Part} {s0 : State} {s : State} {msg : PtpMessage}
    (hm : [Part.clock, Part.image Rec.timeStatus, Part.log, Part.image Rec.logStatus, Part.out, Part.hatband, Part.wall] ⊆ ps) (hs : Only ps s0 s) : Only ps s0 (State.ptpReceive s msg) := by
  unfold State.ptpReceive
  split
  · refine Only.ite ?_ ?_
    · refine State.ptpAnnounce_only (List.Subset.trans (by decide) hm) ?_
      exact hs
    · exact hs
  · refine Only.ite ?_ ?_
    · refine Only.ite ?_ ?_
      · refine State.setClock_only (List.Subset.trans (by decide) hm) (.inr rfl) (.inr rfl) (.inr ⟨rfl, rfl⟩) ?_
        exact hs
      · refine State.ptpMeasure_only (List.Subset.trans (by decide) hm) ?_
        exact hs
    · exact hs
  · split
    · refine Only.ite ?_ ?_
      · refine State.ptpMeasure_only (List.Subset.trans (by decide) hm) ?_
        exact hs
      · exact hs
    · exact hs
  · refine Only.ite ?_ ?_
    · exact hs
    · refine State.emit_only (List.Subset.trans (by decide) hm) ?_
      exact hs
  · split
    · refine State.setClock_only (List.Subset.trans (by decide) hm) (.inr rfl) (.inr rfl) (.inr ⟨rfl, rfl⟩) ?_
      exact hs
    · exact hs

theorem State.ptpSend_only {ps : List Part} {s0 : State} {s : State} {k : PtpKind}
    (hm : [Part.clock, Part.out] ⊆ ps) (hs : Only ps s0 s) : Only ps s0 (State.ptpSend s k) := by
  unfold State.ptpSend
  extract_lets v1 v2 v3 v4
  have hv2 : Only ps s0 v2 := by
    unfold v2
    refine State.setClock_only (List.Subset.trans (by decide) hm) (.inr rfl) (.inr rfl) (.inr ⟨rfl, rfl⟩) ?_
    exact hs
  try clear_value v2
  have hv3 : Only ps s0 v3 := by
    unfold v3
    refine State.emit_only (List.Subset.trans (by decide) hm) ?_
    exact hv2
  try clear_value v3
  split
  · exact hv3
  · refine Only.ite ?_ ?_
    · refine State.emit_only (List.Subset.trans (by decide) hm) ?_
      exact hv3
    · exact hv3
  · refine State.setClock_only (List.Subset.trans (by decide) hm) (.inr rfl) (.inr rfl) (.inr ⟨rfl, rfl⟩) ?_
    exact hv3

end Machine

end Sys2Proof
end

