-- ==== Sys2Proof/Laws/FrameGrid.lean ====
section
/-! SUPPORT. What each operation of Grid.lean may change: one lemma an operation. -/

namespace Sys2Proof

open Machine

namespace Machine

theorem State.loseClock_only {ps : List Part} {s0 : State} {s : State} {detail : Nat}
    (hm : [Part.image Rec.gridStatus, Part.image Rec.timeStatus, Part.clock, Part.bias, Part.log, Part.image Rec.logStatus, Part.out, Part.hatband, Part.engines, Part.runs, Part.image Rec.runStatus, Part.drive, Part.image Rec.biasStatus, Part.acq, Part.image Rec.engineStatus, Part.shadows, Part.image Rec.timingSet, Part.image Rec.driveTone, Part.image Rec.probeTone, Part.image Rec.acqTone, Part.image Rec.biasIir, Part.image Rec.biasFir, Part.image Rec.histConfig, Part.image Rec.model, Part.loaded, Part.image Rec.matrixControl, Part.weights, Part.image Rec.weightControl, Part.readout, Part.bins, Part.image Rec.histStatus, Part.image Rec.xyStatus, Part.blocking, Part.mailboxes, Part.host, Part.power, Part.capture, Part.image Rec.outQueue, Part.image Rec.capStatus, Part.image Rec.ring, Part.store, Part.free, Part.image Rec.modeRecord, Part.mode, Part.crown] ⊆ ps) (hs : Only ps s0 s) : Only ps s0 (State.loseClock s detail) := by
  unfold State.loseClock
  extract_lets v1 v2 v3 v4 v5
  have hv1 : Only ps s0 v1 := by
    unfold v1
    refine State.putFlag_only (List.Subset.trans (by decide) hm) ?_
    exact hs
  try clear_value v1
  have hv2 : Only ps s0 v2 := by
    unfold v2
    refine State.putFlag_only (List.Subset.trans (by decide) hm) ?_
    exact hv1
  try clear_value v2
  have hv3 : Only ps s0 v3 := by
    unfold v3
    refine State.putFlag_only (List.Subset.trans (by decide) hm) ?_
    exact hv2
  try clear_value v3
  have hv5 : Only ps s0 v5 := by
    unfold v5
    refine State.setClock_only (List.Subset.trans (by decide) hm) (.inr rfl) (.inr rfl) (.inr ⟨rfl, rfl⟩) ?_
    exact hv3
  try clear_value v5
  refine State.toParkOsc_only (List.Subset.trans (by decide) hm) ?_
  refine State.enterSafe_only (List.Subset.trans (by decide) hm) ?_
  refine State.report_only (List.Subset.trans (by decide) hm) ?_
  exact hv5

theorem State.forgetSamples_only {ps : List Part} {s0 : State} {s : State}
    (hm : [Part.drive] ⊆ ps) (hs : Only ps s0 s) : Only ps s0 (State.forgetSamples s) := by
  unfold State.forgetSamples
  refine Only.setDrive (List.Subset.trans (by decide) hm) ?_
  exact hs

theorem State.lockPll_only {ps : List Part} {s0 : State} {s : State}
    (hm : [Part.image Rec.gridStatus, Part.image Rec.timeStatus, Part.drive, Part.clock, Part.log, Part.image Rec.logStatus, Part.out, Part.hatband, Part.si, Part.wall] ⊆ ps) (hs : Only ps s0 s) : Only ps s0 (State.lockPll s) := by
  unfold State.lockPll
  extract_lets v1 v2 v3 v4
  have hv1 : Only ps s0 v1 := by
    unfold v1
    refine State.putFlag_only (List.Subset.trans (by decide) hm) ?_
    exact hs
  try clear_value v1
  have hv2 : Only ps s0 v2 := by
    unfold v2
    refine State.putFlag_only (List.Subset.trans (by decide) hm) ?_
    exact hv1
  try clear_value v2
  have hv3 : Only ps s0 v3 := by
    unfold v3
    refine State.forgetSamples_only (List.Subset.trans (by decide) hm) ?_
    exact hv2
  try clear_value v3
  refine Only.ite ?_ ?_
  · refine State.holdover_only (List.Subset.trans (by decide) hm) ?_
    refine State.putFlag_only (List.Subset.trans (by decide) hm) ?_
    refine State.setClock_only (List.Subset.trans (by decide) hm) (.inr rfl) (.inl (hm (by simp))) (.inr ⟨rfl, rfl⟩) ?_
    exact hv3
  · refine State.setClock_only (List.Subset.trans (by decide) hm) (.inr rfl) (.inl (hm (by simp))) (.inl (hm (by simp))) ?_
    exact hv3

theorem State.syncPulse_only {ps : List Part} {s0 : State} {s : State}
    (hm : [Part.out, Part.clock] ⊆ ps) (hs : Only ps s0 s) : Only ps s0 (State.syncPulse s) := by
  unfold State.syncPulse
  refine State.emit_only (List.Subset.trans (by decide) hm) ?_
  refine State.setClock_only (List.Subset.trans (by decide) hm) (.inr rfl) (.inr rfl) (.inr ⟨rfl, rfl⟩) ?_
  exact hs

theorem State.syncOff_only {ps : List Part} {s0 : State} {s : State}
    (hm : [Part.out, Part.clock] ⊆ ps) (hs : Only ps s0 s) : Only ps s0 (State.syncOff s) := by
  unfold State.syncOff
  refine Only.ite ?_ ?_
  · refine State.emit_only (List.Subset.trans (by decide) hm) ?_
    refine State.setClock_only (List.Subset.trans (by decide) hm) (.inr rfl) (.inr rfl) (.inr ⟨rfl, rfl⟩) ?_
    exact hs
  · exact hs

theorem State.acceptSync_only {ps : List Part} {s0 : State} {s : State} {phi : Nat}
    (hm : [Part.image Rec.gridStatus, Part.clock, Part.out, Part.hatband, Part.log, Part.image Rec.logStatus] ⊆ ps) (hs : Only ps s0 s) : Only ps s0 (State.acceptSync s phi) := by
  unfold State.acceptSync
  extract_lets v1 v2 v3 v4 v5
  try clear_value v1
  have hv2 : Only ps s0 v2 := by
    unfold v2
    refine State.putFlag_only (List.Subset.trans (by decide) hm) ?_
    exact hs
  try clear_value v2
  have hv4 : Only ps s0 v4 := by
    unfold v4
    refine State.setClock_only (List.Subset.trans (by decide) hm) (.inr rfl) (.inr rfl) (.inr ⟨rfl, rfl⟩) ?_
    refine State.count_only (List.Subset.trans (by decide) hm) ?_
    exact hv2
  try clear_value v4
  have hv5 : Only ps s0 v5 := by
    unfold v5
    refine State.raise_only (List.Subset.trans (by decide) hm) ?_
    exact hv4
  try clear_value v5
  refine Only.ite ?_ ?_
  · refine State.report_only (List.Subset.trans (by decide) hm) ?_
    refine State.raise_only (List.Subset.trans (by decide) hm) ?_
    refine State.putFlag_only (List.Subset.trans (by decide) hm) ?_
    exact hv5
  · exact hv5

theorem State.ignoreSync_only {ps : List Part} {s0 : State} {s : State}
    (hm : [Part.log, Part.image Rec.logStatus, Part.out, Part.hatband, Part.image Rec.gridStatus] ⊆ ps) (hs : Only ps s0 s) : Only ps s0 (State.ignoreSync s) := by
  unfold State.ignoreSync
  refine State.report_only (List.Subset.trans (by decide) hm) ?_
  refine State.raise_only (List.Subset.trans (by decide) hm) ?_
  refine State.count_only (List.Subset.trans (by decide) hm) ?_
  exact hs

theorem State.setBlocking_only {ps : List Part} {s0 : State} {s : State} {b : Blocking}
    (hm : [Part.blocking] ⊆ ps) (hs : Only ps s0 s) : Only ps s0 (State.setBlocking s b) := by
  unfold State.setBlocking
  refine Only.setBlocking (List.Subset.trans (by decide) hm) ?_
  exact hs

theorem State.completeGroup_only {ps : List Part} {s0 : State} {s : State} {g : Nat}
    (hm : [Part.image Rec.blockGroup, Part.blocking] ⊆ ps) (hs : Only ps s0 s) : Only ps s0 (State.completeGroup s g) := by
  unfold State.completeGroup
  extract_lets v1 v2
  have hv1 : Only ps s0 v1 := by
    unfold v1
    refine State.put_only (List.Subset.trans (by decide) hm) ?_
    refine State.count_only (List.Subset.trans (by decide) hm) ?_
    exact hs
  try clear_value v1
  try clear_value v2
  refine State.setBlocking_only (List.Subset.trans (by decide) hm) ?_
  exact hv1

theorem State.measureTrim_only {ps : List Part} {s0 : State} {s : State} {g : Nat} {trim : Nat} {err : Int}
    (hm : [Part.blocking, Part.image Rec.blockGroup] ⊆ ps) (hs : Only ps s0 s) : Only ps s0 (State.measureTrim s g trim err) := by
  unfold State.measureTrim
  extract_lets v1 v2 v3 v4 v5
  try clear_value v1
  try clear_value v2
  try clear_value v3
  try clear_value v4
  have hv5 : Only ps s0 v5 := by
    unfold v5
    refine State.setBlocking_only (List.Subset.trans (by decide) hm) ?_
    exact hs
  try clear_value v5
  refine State.putFlag_only (List.Subset.trans (by decide) hm) ?_
  refine State.put_only (List.Subset.trans (by decide) hm) ?_
  exact hv5

theorem State.moveTap_only {ps : List Part} {s0 : State} {s : State} {g : Nat} {trim : Nat} {up : Bool}
    (hm : [Part.blocking] ⊆ ps) (hs : Only ps s0 s) : Only ps s0 (State.moveTap s g trim up) := by
  unfold State.moveTap
  extract_lets v1 v2
  try clear_value v1
  try clear_value v2
  refine State.setBlocking_only (List.Subset.trans (by decide) hm) ?_
  exact hs

theorem State.reachTarget_only {ps : List Part} {s0 : State} {s : State} {g : Nat} {trim : Nat}
    (hm : [Part.blocking] ⊆ ps) (hs : Only ps s0 s) : Only ps s0 (State.reachTarget s g trim) := by
  unfold State.reachTarget
  refine Only.ite ?_ ?_
  · refine State.setBlocking_only (List.Subset.trans (by decide) hm) ?_
    exact hs
  · exact hs

theorem State.stepTrim_only {ps : List Part} {s0 : State} {s : State} {g : Nat} {trim : Nat}
    (hm : [Part.blocking, Part.image Rec.blockGroup] ⊆ ps) (hs : Only ps s0 s) : Only ps s0 (State.stepTrim s g trim) := by
  unfold State.stepTrim
  extract_lets v1 v2 v3 v4
  try clear_value v1
  try clear_value v2
  try clear_value v3
  try clear_value v4
  refine Only.ite ?_ ?_
  · refine State.reachTarget_only (List.Subset.trans (by decide) hm) ?_
    refine Only.ite ?_ ?_
    · exact hs
    · refine State.moveTap_only (List.Subset.trans (by decide) hm) ?_
      exact hs
  · refine Only.ite ?_ ?_
    · refine State.measureTrim_only (List.Subset.trans (by decide) hm) ?_
      refine State.moveTap_only (List.Subset.trans (by decide) hm) ?_
      exact hs
    · exact hs

theorem State.judgeGroup_only {ps : List Part} {s0 : State} {s : State} {g : Nat}
    (hm : [Part.image Rec.blockGroup, Part.blocking] ⊆ ps) (hs : Only ps s0 s) : Only ps s0 (State.judgeGroup s g) := by
  unfold State.judgeGroup
  refine Only.ite ?_ ?_
  · refine State.completeGroup_only (List.Subset.trans (by decide) hm) ?_
    exact hs
  · exact hs

theorem State.noteMargin_only {ps : List Part} {s0 : State} {s : State} {t : Nat} {ch : Nat} {ticks : Nat}
    (hm : [Part.image Rec.lateStatus] ⊆ ps) (hs : Only ps s0 s) : Only ps s0 (State.noteMargin s t ch ticks) := by
  unfold State.noteMargin
  extract_lets v1
  try clear_value v1
  refine Only.ite ?_ ?_
  · refine State.put_only (List.Subset.trans (by decide) hm) ?_
    refine State.put_only (List.Subset.trans (by decide) hm) ?_
    exact hs
  · exact hs

theorem State.cross_only {ps : List Part} {s0 : State} {s : State} {t : Nat} {key : Nat} {at_ : Nat} {transit : Nat}
    (hm : [Part.drive] ⊆ ps) (hs : Only ps s0 s) : Only ps s0 (State.cross s t key at_ transit).2 := by
  unfold State.cross
  split
  · extract_lets v1 v2
    try clear_value v1
    try clear_value v2
    dsimp only
    refine Only.setDrive (List.Subset.trans (by decide) hm) ?_
    exact hs
  · dsimp only
    exact hs

theorem State.noteArrival_only {ps : List Part} {s0 : State} {s : State} {t : Nat} {ch : Nat} {due : Nat} {usable : Option Nat}
    (hm : [Part.image Rec.lateStatus] ⊆ ps) (hs : Only ps s0 s) : Only ps s0 (State.noteArrival s t ch due usable) := by
  unfold State.noteArrival
  split
  · refine Only.ite ?_ ?_
    · refine State.noteMargin_only (List.Subset.trans (by decide) hm) ?_
      exact hs
    · exact hs
  · exact hs

theorem State.landTone_only {ps : List Part} {s0 : State} {s : State} {t : Nat} {probe : Bool} {u : Nat}
    (hm : [Part.drive, Part.image Rec.lateStatus] ⊆ ps) (hs : Only ps s0 s) : Only ps s0 (State.landTone s t probe u) := by
  unfold State.landTone
  extract_lets v1 v2 v3
  try clear_value v1
  try clear_value v2
  have hv3 : Only ps s0 v3 := by
    unfold v3
    refine State.setTone_only (List.Subset.trans (by decide) hm) ?_
    exact hs
  try clear_value v3
  refine Only.foldl (fun x4 _ hx4 => ?_) _ ?_
  · refine State.noteArrival_only (List.Subset.trans (by decide) hm) ?_
    exact hx4
  · exact hv3

theorem State.landOps_only {ps : List Part} {s0 : State} {s : State} {n : Nat}
    (hm : [Part.bias, Part.image Rec.lateStatus] ⊆ ps) (hs : Only ps s0 s) : Only ps s0 (State.landOps s n) := by
  unfold State.landOps
  extract_lets v1 v2
  try clear_value v1
  have hv2 : Only ps s0 v2 := by
    unfold v2
    refine State.setBias_only (List.Subset.trans (by decide) hm) ?_
    exact hs
  try clear_value v2
  refine Only.foldl (fun x3 _ hx3 => ?_) _ ?_
  · refine State.noteArrival_only (List.Subset.trans (by decide) hm) ?_
    exact hx3
  · exact hv2

theorem State.landTransit_only {ps : List Part} {s0 : State} {s : State} {t : Nat}
    (hm : [Part.drive, Part.image Rec.lateStatus, Part.bias] ⊆ ps) (hs : Only ps s0 s) : Only ps s0 (State.landTransit s t) := by
  unfold State.landTransit
  extract_lets v1
  have hv1 : Only ps s0 v1 := by
    unfold v1
    refine Only.foldl (fun x2 _ hx2 => ?_) _ ?_
    · refine State.landTone_only (List.Subset.trans (by decide) hm) ?_
      refine State.landTone_only (List.Subset.trans (by decide) hm) ?_
      exact hx2
    · exact hs
  try clear_value v1
  refine Only.foldl (fun x3 _ hx3 => ?_) _ ?_
  · refine State.landOps_only (List.Subset.trans (by decide) hm) ?_
    exact hx3
  · exact hv1

end Machine

end Sys2Proof
end

