-- ==== Sys2Proof/Laws/FrameDrive.lean ====
section
/-! SUPPORT. What each operation of Drive.lean may change: one lemma an operation. -/

namespace Sys2Proof

open Machine

namespace Machine

theorem State.addSeg_only {ps : List Part} {s0 : State} {s : State} {k : Nat} {p : PhaseSeg}
    (hm : [Part.drive] ⊆ ps) (hs : Only ps s0 s) : Only ps s0 (State.addSeg s k p) := by
  unfold State.addSeg
  extract_lets v1
  try clear_value v1
  refine State.setTone_only (List.Subset.trans (by decide) hm) ?_
  exact hs

theorem State.startTone_only {ps : List Part} {s0 : State} {s : State} {t : Nat} {probe : Bool} {u : Nat} {base : Nat}
    (hm : [Part.drive] ⊆ ps) (hs : Only ps s0 s) : Only ps s0 (State.startTone s t probe u base) := by
  unfold State.startTone
  extract_lets v1 v2 v3 v4 v5
  try clear_value v1
  try clear_value v2
  try clear_value v3
  have hv4 : Only ps s0 v4 := by
    unfold v4
    refine State.addSeg_only (List.Subset.trans (by decide) hm) ?_
    exact hs
  try clear_value v4
  try clear_value v5
  refine State.setTone_only (List.Subset.trans (by decide) hm) ?_
  exact hv4

theorem State.freqRange_only {ps : List Part} {s0 : State} {s : State} {t : Nat}
    (hm : [Part.runs, Part.image Rec.runStatus, Part.acq, Part.log, Part.image Rec.logStatus, Part.out, Part.hatband] ⊆ ps) (hs : Only ps s0 s) : Only ps s0 (State.freqRange s t) := by
  unfold State.freqRange
  refine State.voidShot_only (List.Subset.trans (by decide) hm) ?_
  refine State.report_only (List.Subset.trans (by decide) hm) ?_
  refine State.raise_only (List.Subset.trans (by decide) hm) ?_
  exact hs

theorem State.applyFrame_only {ps : List Part} {s0 : State} {s : State} {t : Nat} {probe : Bool} {u : Nat} {x : FrameUpdate}
    (hm : [Part.drive, Part.runs, Part.image Rec.runStatus, Part.acq, Part.log, Part.image Rec.logStatus, Part.out, Part.hatband] ⊆ ps) (hs : Only ps s0 s) : Only ps s0 (State.applyFrame s t probe u x) := by
  unfold State.applyFrame
  extract_lets v1 v2 v3 v4
  try clear_value v1
  try clear_value v2
  try clear_value v3
  have hv4 : Only ps s0 v4 := by
    unfold v4
    refine State.setTone_only (List.Subset.trans (by decide) hm) ?_
    exact hs
  try clear_value v4
  refine Only.ite ?_ ?_
  · refine State.freqRange_only (List.Subset.trans (by decide) hm) ?_
    exact hv4
  · refine State.addSeg_only (List.Subset.trans (by decide) hm) ?_
    exact hv4

theorem State.countEnvSat_only {ps : List Part} {s0 : State} {s : State} {t : Nat} {probe : Bool} {u : Nat} {k : Nat}
    (hm : [Part.image Rec.probeStatus, Part.image Rec.xyStatus] ⊆ ps) (hs : Only ps s0 s) : Only ps s0 (State.countEnvSat s t probe u k) := by
  unfold State.countEnvSat
  refine Only.ite ?_ ?_
  · refine State.count_only (List.Subset.trans (by decide) hm) ?_
    exact hs
  · refine State.count_only (List.Subset.trans (by decide) hm) ?_
    exact hs

theorem State.issueBurst_only {ps : List Part} {s0 : State} {s : State} {t : Nat} {probe : Bool} {u : Nat} {g : Grid} {transit : Nat}
    (hm : [Part.drive, Part.memory, Part.image Rec.probeStatus, Part.image Rec.xyStatus, Part.image Rec.lateStatus] ⊆ ps) (hs : Only ps s0 s) : Only ps s0 (State.issueBurst s t probe u g transit) := by
  unfold State.issueBurst
  extract_lets v1 v2 v3 v4 v5 v6 v7
  try clear_value v1
  try clear_value v2
  try clear_value v3
  try clear_value v4
  try clear_value v5
  try clear_value v6
  try clear_value v7
  split
  · rename_i x8 ex8
    have hx8 : Only ps s0 x8 := by
      refine (congrArg (fun q => Only ps s0 (Prod.snd q)) ex8).mp ?_
      refine State.cross_only (List.Subset.trans (by decide) hm) ?_
      exact hs
    extract_lets v9 v10 v11 v12
    try clear_value v9
    have hv10 : Only ps s0 v10 := by
      unfold v10
      refine State.setTone_only (List.Subset.trans (by decide) hm) ?_
      exact hx8
    try clear_value v10
    have hv11 : Only ps s0 v11 := by
      unfold v11
      refine State.askRows_only (List.Subset.trans (by decide) hm) ?_
      exact hv10
    try clear_value v11
    have hv12 : Only ps s0 v12 := by
      unfold v12
      refine State.countEnvSat_only (List.Subset.trans (by decide) hm) ?_
      exact hv11
    try clear_value v12
    refine State.noteArrival_only (List.Subset.trans (by decide) hm) ?_
    exact hv12

theorem State.integratePower_only {ps : List Part} {s0 : State} {s : State} {n : Nat}
    (hm : [Part.drive, Part.image Rec.xyStatus] ⊆ ps) (hs : Only ps s0 s) : Only ps s0 (State.integratePower s n) := by
  unfold State.integratePower
  extract_lets v1 v2 v3
  try clear_value v1
  try clear_value v2
  have hv3 : Only ps s0 v3 := by
    unfold v3
    refine Only.setDrive (List.Subset.trans (by decide) hm) ?_
    exact hs
  try clear_value v3
  refine State.put_only (List.Subset.trans (by decide) hm) ?_
  exact hv3

theorem State.integrateAll_only {ps : List Part} {s0 : State} {s : State}
    (hm : [Part.drive, Part.image Rec.xyStatus] ⊆ ps) (hs : Only ps s0 s) : Only ps s0 (State.integrateAll s) := by
  unfold State.integrateAll
  extract_lets v1 v2 v3
  try clear_value v1
  have hv2 : Only ps s0 v2 := by
    unfold v2
    refine Only.foldl (fun x4 _ hx4 => ?_) _ ?_
    · refine State.integratePower_only (List.Subset.trans (by decide) hm) ?_
      exact hx4
    · exact hs
  try clear_value v2
  try clear_value v3
  refine Only.setDrive (List.Subset.trans (by decide) hm) ?_
  exact hv2

theorem State.mute_only {ps : List Part} {s0 : State} {s : State} {n : Nat}
    (hm : [Part.image Rec.xyStatus, Part.runs, Part.image Rec.runStatus, Part.acq, Part.log, Part.image Rec.logStatus, Part.out, Part.hatband] ⊆ ps) (hs : Only ps s0 s) : Only ps s0 (State.mute s n) := by
  unfold State.mute
  extract_lets v1
  have hv1 : Only ps s0 v1 := by
    unfold v1
    refine State.putFlag_only (List.Subset.trans (by decide) hm) ?_
    exact hs
  try clear_value v1
  refine State.voidShot_only (List.Subset.trans (by decide) hm) ?_
  refine State.report_only (List.Subset.trans (by decide) hm) ?_
  refine State.raise_only (List.Subset.trans (by decide) hm) ?_
  exact hv1

theorem State.boundaryMute_only {ps : List Part} {s0 : State} {s : State} {n : Nat}
    (hm : [Part.image Rec.xyStatus] ⊆ ps) (hs : Only ps s0 s) : Only ps s0 (State.boundaryMute s n) := by
  unfold State.boundaryMute
  refine Only.ite ?_ ?_
  · refine State.endMute_only (List.Subset.trans (by decide) hm) ?_
    exact hs
  · exact hs

end Machine

end Sys2Proof
end

