-- ==== Sys2Proof/Laws/FrameBias.lean ====
section
/-! SUPPORT. What each operation of Bias.lean may change: one lemma an operation. -/

namespace Sys2Proof

open Machine

namespace Machine

theorem State.dropSegment_only {ps : List Part} {s0 : State} {s : State} {t : Nat} {id : Nat}
    (hm : [Part.loaded] ⊆ ps) (hs : Only ps s0 s) : Only ps s0 (State.dropSegment s t id) := by
  unfold State.dropSegment
  refine Only.step (t := s) (ps := [Part.loaded]) (fun p hp => by cases p <;> first | rfl | exact ⟨rfl, rfl⟩ | exact ⟨rfl, rfl, rfl⟩ | exact image_congr rfl | exact fun h => h | exact absurd (by decide) hp) (List.Subset.trans (by decide) hm) ?_
  exact hs

theorem State.sealFault_only {ps : List Part} {s0 : State} {s : State} {t : Nat} {key : Nat} {id : Nat} {detail : Nat}
    (hm : [Part.runs, Part.loaded, Part.log, Part.image Rec.logStatus, Part.out, Part.hatband] ⊆ ps) (hs : Only ps s0 s) : Only ps s0 (State.sealFault s t key id detail) := by
  unfold State.sealFault
  extract_lets v1
  try clear_value v1
  split
  · refine State.setTile_only (List.Subset.trans (by decide) hm) ?_
    exact hs
  · refine Only.ite ?_ ?_
    · exact hs
    · refine State.dropSegment_only (List.Subset.trans (by decide) hm) ?_
      refine State.report_only (List.Subset.trans (by decide) hm) ?_
      refine State.setTile_only (List.Subset.trans (by decide) hm) ?_
      exact hs

theorem State.sealPass_only {ps : List Part} {s0 : State} {s : State} {t : Nat} {key : Nat} {detail : Nat}
    (hm : [Part.log, Part.image Rec.logStatus, Part.out, Part.hatband, Part.runs] ⊆ ps) (hs : Only ps s0 s) : Only ps s0 (State.sealPass s t key detail) := by
  unfold State.sealPass
  extract_lets v1
  try clear_value v1
  split
  · exact hs
  · refine Only.ite ?_ ?_
    · exact hs
    · refine State.report_only (List.Subset.trans (by decide) hm) ?_
      refine State.setTile_only (List.Subset.trans (by decide) hm) ?_
      exact hs

theorem State.lateHold_only {ps : List Part} {s0 : State} {s : State} {n : Nat} {o : BiasOp}
    (hm : [Part.bias, Part.image Rec.biasStatus] ⊆ ps) (hs : Only ps s0 s) : Only ps s0 (State.lateHold s n o) := by
  unfold State.lateHold
  extract_lets v1 v2
  try clear_value v1
  have hv2 : Only ps s0 v2 := by
    unfold v2
    refine State.setBias_only (List.Subset.trans (by decide) hm) ?_
    exact hs
  try clear_value v2
  refine Only.ite ?_ ?_
  · exact hv2
  · refine State.holdBias_only (List.Subset.trans (by decide) hm) ?_
    exact hv2

theorem State.beginHolds_only {ps : List Part} {s0 : State} {s : State} {n : Nat}
    (hm : [Part.bias, Part.image Rec.biasStatus] ⊆ ps) (hs : Only ps s0 s) : Only ps s0 (State.beginHolds s n) := by
  unfold State.beginHolds
  refine Only.foldl (fun x1 _ hx1 => ?_) _ ?_
  · refine State.lateHold_only (List.Subset.trans (by decide) hm) ?_
    exact hx1
  · exact hs

theorem State.biasSealFail_only {ps : List Part} {s0 : State} {s : State} {n : Nat} {o : BiasOp}
    (hm : [Part.bias, Part.image Rec.biasStatus, Part.runs, Part.loaded, Part.log, Part.image Rec.logStatus, Part.out, Part.hatband, Part.image Rec.runStatus, Part.acq] ⊆ ps) (hs : Only ps s0 s) : Only ps s0 (State.biasSealFail s n o) := by
  unfold State.biasSealFail
  extract_lets v1
  have hv1 : Only ps s0 v1 := by
    unfold v1
    refine Only.ite ?_ ?_
    · exact hs
    · refine State.holdBias_only (List.Subset.trans (by decide) hm) ?_
      exact hs
  try clear_value v1
  refine State.sealFault_only (List.Subset.trans (by decide) hm) ?_
  refine State.voidShot_only (List.Subset.trans (by decide) hm) ?_
  exact hv1

theorem State.actBias_only {ps : List Part} {s0 : State} {s : State} {n : Nat} {o : BiasOp} {sealBad : Bool}
    (hm : [Part.bias, Part.log, Part.image Rec.logStatus, Part.out, Part.hatband, Part.runs, Part.image Rec.biasStatus, Part.loaded, Part.image Rec.runStatus, Part.acq] ⊆ ps) (hs : Only ps s0 s) : Only ps s0 (State.actBias s n o sealBad) := by
  unfold State.actBias
  extract_lets v1 v2 v3
  try clear_value v1
  have hv2 : Only ps s0 v2 := by
    unfold v2
    refine State.setBias_only (List.Subset.trans (by decide) hm) ?_
    exact hs
  try clear_value v2
  have hv3 : Only ps s0 v3 := by
    unfold v3
    refine State.sealPass_only (List.Subset.trans (by decide) hm) ?_
    exact hv2
  try clear_value v3
  refine Only.ite ?_ ?_
  · refine State.biasSealFail_only (List.Subset.trans (by decide) hm) ?_
    exact hv2
  · refine Only.ite ?_ ?_
    · refine State.count_only (List.Subset.trans (by decide) hm) ?_
      exact hv3
    · refine Only.ite ?_ ?_
      · exact hv3
      · refine Only.ite ?_ ?_
        · refine State.freqRange_only (List.Subset.trans (by decide) hm) ?_
          exact hv3
        · refine State.setBias_only (List.Subset.trans (by decide) hm) ?_
          exact hv3

theorem State.timeOpenLoad_only {ps : List Part} {s0 : State} {s : State} {n : Nat} {code : Int}
    (hm : [Part.bias] ⊆ ps) (hs : Only ps s0 s) : Only ps s0 (State.timeOpenLoad s n code) := by
  unfold State.timeOpenLoad
  extract_lets v1
  try clear_value v1
  refine State.setBias_only (List.Subset.trans (by decide) hm) ?_
  exact hs

theorem State.stepBias_only {ps : List Part} {s0 : State} {s : State} {n : Nat} {i : Nat}
    (hm : [Part.image Rec.biasStatus, Part.bias] ⊆ ps) (hs : Only ps s0 s) : Only ps s0 (State.stepBias s n i).2 := by
  unfold State.stepBias
  split
  · extract_lets v1 v2
    have hv1 : Only ps s0 v1 := by
      unfold v1
      refine State.put_only (List.Subset.trans (by decide) hm) ?_
      refine State.setBias_only (List.Subset.trans (by decide) hm) ?_
      exact hs
    try clear_value v1
    have hv2 : Only ps s0 v2 := by
      unfold v2
      refine Only.ite ?_ ?_
      · refine State.count_only (List.Subset.trans (by decide) hm) ?_
        exact hv1
      · exact hv1
    try clear_value v2
    dsimp only
    refine State.timeOpenLoad_only (List.Subset.trans (by decide) hm) ?_
    exact hv2

theorem State.releaseBiasWord_only {ps : List Part} {s0 : State} {s : State} {n : Nat}
    (hm : [Part.bias, Part.image Rec.biasStatus, Part.out] ⊆ ps) (hs : Only ps s0 s) : Only ps s0 (State.releaseBiasWord s n) := by
  unfold State.releaseBiasWord
  extract_lets v1
  have hv1 : Only ps s0 v1 := by
    unfold v1
    refine State.beginHolds_only (List.Subset.trans (by decide) hm) ?_
    exact hs
  try clear_value v1
  split
  · rename_i x2 ex2
    have hx2 : Only ps s0 x2 := by
      refine (congrArg (fun q => Only ps s0 (Prod.snd q)) ex2).mp ?_
      refine State.stepBias_only (List.Subset.trans (by decide) hm) ?_
      exact hv1
    split
    · rename_i x3 ex3
      have hx3 : Only ps s0 x3 := by
        refine (congrArg (fun q => Only ps s0 (Prod.snd q)) ex3).mp ?_
        refine State.stepBias_only (List.Subset.trans (by decide) hm) ?_
        exact hx2
      split
      · refine State.emit_only (List.Subset.trans (by decide) hm) ?_
        exact hx3
      · exact hx3

theorem State.trip_only {ps : List Part} {s0 : State} {s : State} {n : Nat} {latch : Field} {kind : Nat}
    (hm : [Part.monitor, Part.log, Part.image Rec.logStatus, Part.out, Part.hatband, Part.image latch.record, Part.runs, Part.image Rec.runStatus, Part.acq, Part.bias, Part.image Rec.biasStatus] ⊆ ps) (hs : Only ps s0 s) : Only ps s0 (State.trip s n latch kind) := by
  unfold State.trip
  extract_lets v1 v2
  have hv1 : Only ps s0 v1 := by
    unfold v1
    refine State.urge_only (List.Subset.trans (by first | decide | simp) hm) ?_
    refine State.report_only (List.Subset.trans (by first | decide | simp) hm) ?_
    refine State.raise_only (List.Subset.trans (by first | decide | simp) hm) ?_
    refine State.putFlag_only (List.Subset.trans (by first | decide | simp) hm) ?_
    exact hs
  try clear_value v1
  have hv2 : Only ps s0 v2 := by
    unfold v2
    exact Only.ite (State.holdBias_only (List.Subset.trans (by first | decide | simp) hm) hv1) hv1
  try clear_value v2
  split
  · exact hv2
  · refine State.voidShot_only (List.Subset.trans (by first | decide | simp) hm) ?_
    exact hv2
  · refine State.voidShot_only (List.Subset.trans (by first | decide | simp) hm) ?_
    refine Only.ite ?_ ?_
    · exact hv2
    · refine State.parkBias_only (List.Subset.trans (by first | decide | simp) hm) ?_
      exact hv2

end Machine

end Sys2Proof
end

