-- ==== Sys2Proof/Laws/FrameSignal.lean ====
section
/-! SUPPORT. What each operation of Signal.lean may change: one lemma an operation. -/

namespace Sys2Proof

open Machine

namespace Machine

theorem State.clipXy_only {ps : List Part} {s0 : State} {s : State} {n : Nat} {k : Nat}
    (hm : [Part.image Rec.xyStatus, Part.out, Part.hatband, Part.drive] ⊆ ps) (hs : Only ps s0 s) : Only ps s0 (State.clipXy s n k) := by
  unfold State.clipXy
  refine Only.ite ?_ ?_
  · exact hs
  · extract_lets v1 v2
    have hv1 : Only ps s0 v1 := by
      unfold v1
      refine State.putFlag_only (List.Subset.trans (by decide) hm) ?_
      refine State.count_only (List.Subset.trans (by decide) hm) ?_
      exact hs
    try clear_value v1
    try clear_value v2
    refine Only.ite ?_ ?_
    · exact hv1
    · refine State.raise_only (List.Subset.trans (by decide) hm) ?_
      refine Only.setDrive (List.Subset.trans (by decide) hm) ?_
      exact hv1

theorem State.clipProbe_only {ps : List Part} {s0 : State} {s : State} {t : Nat} {k : Nat}
    (hm : [Part.image Rec.probeStatus] ⊆ ps) (hs : Only ps s0 s) : Only ps s0 (State.clipProbe s t k) := by
  unfold State.clipProbe
  refine Only.ite ?_ ?_
  · exact hs
  · refine State.putFlag_only (List.Subset.trans (by decide) hm) ?_
    refine State.count_only (List.Subset.trans (by decide) hm) ?_
    exact hs

theorem State.sealFail_only {ps : List Part} {s0 : State} {s : State} {t : Nat} {c : Nat} {blk : Nat} {since : Nat}
    (hm : [Part.runs, Part.loaded, Part.log, Part.image Rec.logStatus, Part.out, Part.hatband, Part.image Rec.runStatus, Part.acq, Part.drive] ⊆ ps) (hs : Only ps s0 s) : Only ps s0 (State.sealFail s t c blk since) := by
  unfold State.sealFail
  extract_lets v1
  try clear_value v1
  refine State.sealFault_only (List.Subset.trans (by decide) hm) ?_
  refine State.voidShot_only (List.Subset.trans (by decide) hm) ?_
  refine State.zeroChannel_only (List.Subset.trans (by decide) hm) ?_
  exact hs

theorem State.checkSeal_only {ps : List Part} {s0 : State} {s : State} {t : Nat} {c : Nat} {bad : Bool}
    (hm : [Part.free, Part.runs, Part.loaded, Part.log, Part.image Rec.logStatus, Part.out, Part.hatband, Part.image Rec.runStatus, Part.acq, Part.drive] ⊆ ps) (hs : Only ps s0 s) : Only ps s0 (State.checkSeal s t c bad) := by
  unfold State.checkSeal
  extract_lets v1
  try clear_value v1
  refine Only.ite ?_ ?_
  · split
    · rename_i x2 ex2
      have hx2 : Only ps s0 x2 := by
        refine (congrArg (fun q => Only ps s0 (Prod.snd q)) ex2).mp ?_
        refine State.free_only (List.Subset.trans (by decide) hm) ?_
        exact hs
      split
      · refine State.sealFail_only (List.Subset.trans (by decide) hm) ?_
        exact hx2
      · exact hx2
  · refine Only.foldl (fun x3 _ hx3 => ?_) _ ?_
    · refine State.sealPass_only (List.Subset.trans (by decide) hm) ?_
      exact hx3
    · exact hs

theorem State.keepReleased_only {ps : List Part} {s0 : State} {s : State} {n : Nat}
    (hm : [Part.drive] ⊆ ps) (hs : Only ps s0 s) : Only ps s0 (State.keepReleased s n) := by
  unfold State.keepReleased
  refine Only.foldl (fun x1 _ hx1 => ?_) _ ?_
  · extract_lets v2 v3 v4 v5
    try clear_value v2
    try clear_value v3
    try clear_value v4
    try clear_value v5
    refine Only.setDrive (List.Subset.trans (by decide) hm) ?_
    exact hx1
  · exact hs

theorem State.releaseXy_only {ps : List Part} {s0 : State} {s : State} {n : Fin 64} {sealBad : Bool}
    (hm : [Part.free, Part.runs, Part.loaded, Part.log, Part.image Rec.logStatus, Part.out, Part.hatband, Part.image Rec.runStatus, Part.acq, Part.drive, Part.image Rec.xyStatus] ⊆ ps) (hs : Only ps s0 s) : Only ps s0 (State.releaseXy s n sealBad) := by
  unfold State.releaseXy
  extract_lets v1 v2 v3 v4 v5 v6 v7
  have hv1 : Only ps s0 v1 := by
    unfold v1
    refine State.checkSeal_only (List.Subset.trans (by decide) hm) ?_
    exact hs
  try clear_value v1
  have hv2 : Only ps s0 v2 := by
    unfold v2
    refine State.keepReleased_only (List.Subset.trans (by decide) hm) ?_
    exact hv1
  try clear_value v2
  try clear_value v3
  try clear_value v4
  have hv5 : Only ps s0 v5 := by
    unfold v5
    refine State.clipXy_only (List.Subset.trans (by decide) hm) ?_
    exact hv2
  try clear_value v5
  try clear_value v6
  have hv7 : Only ps s0 v7 := by
    unfold v7
    refine Only.setDrive (List.Subset.trans (by decide) hm) ?_
    exact hv5
  try clear_value v7
  refine State.emit_only (List.Subset.trans (by decide) hm) ?_
  exact hv7

theorem State.releaseProbe_only {ps : List Part} {s0 : State} {s : State} {t : Fin 16} {sealBad : Bool}
    (hm : [Part.free, Part.runs, Part.loaded, Part.log, Part.image Rec.logStatus, Part.out, Part.hatband, Part.image Rec.runStatus, Part.acq, Part.drive, Part.image Rec.probeStatus] ⊆ ps) (hs : Only ps s0 s) : Only ps s0 (State.releaseProbe s t sealBad) := by
  unfold State.releaseProbe
  extract_lets v1 v2
  have hv1 : Only ps s0 v1 := by
    unfold v1
    refine State.checkSeal_only (List.Subset.trans (by decide) hm) ?_
    exact hs
  try clear_value v1
  try clear_value v2
  refine State.emit_only (List.Subset.trans (by decide) hm) ?_
  refine State.clipProbe_only (List.Subset.trans (by decide) hm) ?_
  exact hv1

theorem State.noteLate_only {ps : List Part} {s0 : State} {s : State} {t : Nat} {ch : Nat}
    (hm : [Part.image Rec.lateStatus, Part.out, Part.hatband, Part.log, Part.image Rec.logStatus, Part.runs, Part.image Rec.runStatus, Part.acq] ⊆ ps) (hs : Only ps s0 s) : Only ps s0 (State.noteLate s t ch) := by
  unfold State.noteLate
  extract_lets v1 v2 v3 v4 v5 v6 v7 v8
  have hv1 : Only ps s0 v1 := by
    unfold v1
    refine State.count_only (List.Subset.trans (by decide) hm) ?_
    exact hs
  try clear_value v1
  have hv2 : Only ps s0 v2 := by
    unfold v2
    refine State.put_only (List.Subset.trans (by decide) hm) ?_
    refine State.put_only (List.Subset.trans (by decide) hm) ?_
    exact hv1
  try clear_value v2
  have hv3 : Only ps s0 v3 := by
    unfold v3
    refine State.raise_only (List.Subset.trans (by decide) hm) ?_
    exact hv2
  try clear_value v3
  try clear_value v4
  try clear_value v5
  have hv6 : Only ps s0 v6 := by
    unfold v6
    refine Only.ite ?_ ?_
    · refine Only.setLog (List.Subset.trans (by decide) hm) ?_
      exact hv3
    · refine State.report_only (List.Subset.trans (by decide) hm) ?_
      exact hv3
  try clear_value v6
  try clear_value v7
  have hv8 : Only ps s0 v8 := by
    unfold v8
    refine Only.ite ?_ ?_
    · refine State.setGroup_only (List.Subset.trans (by decide) hm) ?_
      exact hv6
    · exact hv6
  try clear_value v8
  refine State.voidShot_only (List.Subset.trans (by decide) hm) ?_
  exact hv8

theorem State.lateChannel_only {ps : List Part} {s0 : State} {s : State} {t : Nat} {c : Nat} {due : Nat}
    (hm : [Part.image Rec.lateStatus, Part.out, Part.hatband, Part.log, Part.image Rec.logStatus, Part.runs, Part.image Rec.runStatus, Part.acq, Part.drive] ⊆ ps) (hs : Only ps s0 s) : Only ps s0 (State.lateChannel s t c due) := by
  unfold State.lateChannel
  extract_lets v1
  try clear_value v1
  refine Only.ite ?_ ?_
  · exact hs
  · refine State.noteLate_only (List.Subset.trans (by decide) hm) ?_
    refine State.zeroChannel_only (List.Subset.trans (by decide) hm) ?_
    exact hs

theorem State.lateBias_only {ps : List Part} {s0 : State} {s : State} {n : Nat} {o : BiasOp}
    (hm : [Part.bias, Part.image Rec.lateStatus, Part.out, Part.hatband, Part.log, Part.image Rec.logStatus, Part.runs, Part.image Rec.runStatus, Part.acq] ⊆ ps) (hs : Only ps s0 s) : Only ps s0 (State.lateBias s n o) := by
  unfold State.lateBias
  extract_lets v1 v2
  try clear_value v1
  have hv2 : Only ps s0 v2 := by
    unfold v2
    refine State.setBias_only (List.Subset.trans (by decide) hm) ?_
    exact hs
  try clear_value v2
  refine Only.ite ?_ ?_
  · exact hv2
  · refine State.noteLate_only (List.Subset.trans (by decide) hm) ?_
    exact hv2

end Machine

end Sys2Proof
end

