-- ==== Sys2Proof/Laws/FrameMemory.lean ====
section
/-! SUPPORT. What each operation of Memory.lean may change: one lemma an operation. -/

namespace Sys2Proof

open Machine

namespace Machine

theorem State.writeRow_only {ps : List Part} {s0 s : State} {t row : Nat} {data : List Byte} {sealWord : Nat}
    (hm : [Part.library, Part.memory] ⊆ ps) (hs : Only ps s0 s) : Only ps s0 (s.writeRow t row data sealWord) :=
  State.setMemory_only (List.Subset.trans (by decide) hm) (.inl (hm (by simp))) (.inr ⟨rfl, rfl⟩)
    (fun h => ⟨SMap.wf_writeAll _ _ h.1, SMap.wf_write _ _ h.2.1, h.2.2⟩) hs

theorem State.writeRows_only {ps : List Part} {s0 s : State} {t row : Nat} {blocks : List (List Byte × Nat)}
    (hm : [Part.library, Part.memory] ⊆ ps) (hs : Only ps s0 s) : Only ps s0 (s.writeRows t row blocks) := by
  induction blocks generalizing s row with
  | nil => exact hs
  | cons b r ih => exact ih (State.writeRow_only hm hs)

theorem State.evict_only {ps : List Part} {s0 : State} {s : State} {t : Nat} {p : Segment → Bool}
    (hm : [Part.loaded] ⊆ ps) (hs : Only ps s0 s) : Only ps s0 (State.evict s t p) := by
  unfold State.evict
  extract_lets v1 v2
  try clear_value v1
  refine Only.step (t := s) (ps := [Part.loaded]) (fun p hp => by cases p <;> first | rfl | exact ⟨rfl, rfl⟩ | exact ⟨rfl, rfl, rfl⟩ | exact image_congr rfl | exact fun h => h | exact absurd (by decide) hp) (List.Subset.trans (by decide) hm) ?_
  exact hs

theorem State.parityTone_only {ps : List Part} {s0 : State} {s : State} {t : Nat} {row : Nat} {probe : Bool} {u : Nat}
    (hm : [Part.runs, Part.image Rec.runStatus, Part.acq, Part.drive] ⊆ ps) (hs : Only ps s0 s) : Only ps s0 (State.parityTone s t row probe u) := by
  unfold State.parityTone
  split
  · refine State.voidShot_only (List.Subset.trans (by decide) hm) ?_
    refine State.zeroChannel_only (List.Subset.trans (by decide) hm) ?_
    exact hs
  · exact hs

theorem State.parityZero_only {ps : List Part} {s0 : State} {s : State} {t : Nat} {row : Nat}
    (hm : [Part.runs, Part.image Rec.runStatus, Part.acq, Part.drive] ⊆ ps) (hs : Only ps s0 s) : Only ps s0 (State.parityZero s t row) := by
  unfold State.parityZero
  refine Only.foldl (fun x1 _ hx1 => ?_) _ ?_
  · refine State.parityTone_only (List.Subset.trans (by decide) hm) ?_
    refine State.parityTone_only (List.Subset.trans (by decide) hm) ?_
    exact hx1
  · exact hs

theorem State.blurRow_only {ps : List Part} {s0 s : State} {t row : Nat} (hm : [Part.memory, Part.library, Part.free] ⊆ ps)
    (hs : Only ps s0 s) : Only ps s0 (s.blurRow t row) := by
  unfold State.blurRow
  generalize (List.range 256).map (fun i => Config.freeByte (s.freeCount + i)) = bytes
  generalize 2 ^ 22 * t + 256 * row = a
  generalize s.freeCount + 256 = n
  exact Only.setFree (s := s.setMemory { s.memory with lib := s.memory.lib.writeAll 0 a bytes })
    (List.Subset.trans (by decide) hm)
    (State.setMemory_only (List.Subset.trans (by decide) hm) (.inl (hm (by simp))) (.inr ⟨rfl, rfl⟩)
      (fun h => ⟨SMap.wf_writeAll _ _ h.1, h.2.1, h.2.2.1, h.2.2.2.1, h.2.2.2.2⟩) hs)

theorem State.remapRow_only {ps : List Part} {s0 s : State} {t row : Nat}
    (hm : [Part.flash, Part.memory, Part.image Rec.libStatus] ⊆ ps) (hs : Only ps s0 s) : Only ps s0 (s.remapRow t row) := by
  unfold State.remapRow
  extract_lets v1 v2 v3
  have hv3 : Only ps s0 v3 := by
    unfold v3
    refine Only.setFlash (List.Subset.trans (by decide) hm) ?_
    exact hs
  refine Only.ite ?_ ?_
  · exact State.setMemory_only (List.Subset.trans (by decide) hm) (.inr ⟨rfl, rfl⟩) (.inr ⟨rfl, rfl⟩)
      (fun h => ⟨h.1, h.2.1, h.2.2.1, h.2.2.2.1, h.2.2.2.2⟩) hv3
  · exact State.setMemory_only (List.Subset.trans (by decide) hm) (.inr ⟨rfl, rfl⟩) (.inr ⟨rfl, rfl⟩)
      (fun h => ⟨h.1, h.2.1, h.2.2.1, h.2.2.2.1, h.2.2.2.2⟩) (State.put_only (List.Subset.trans (by decide) hm) hv3)

theorem State.retireRow_only {ps : List Part} {s0 : State} {s : State} {t : Nat} {row : Nat}
    (hm : [Part.flash, Part.memory, Part.image Rec.libStatus, Part.library, Part.free] ⊆ ps) (hs : Only ps s0 s) : Only ps s0 (State.retireRow s t row) := by
  unfold State.retireRow
  refine State.remapRow_only (List.Subset.trans (by decide) hm) ?_
  refine State.blurRow_only (List.Subset.trans (by decide) hm) ?_
  exact hs

theorem State.libLasting_only {ps : List Part} {s0 : State} {s : State} {t : Nat} {row : Nat} {playback : Bool}
    (hm : [Part.image Rec.libStatus, Part.log, Part.image Rec.logStatus, Part.out, Part.hatband, Part.loaded, Part.flash, Part.memory, Part.library, Part.free, Part.runs, Part.image Rec.runStatus, Part.acq, Part.drive] ⊆ ps) (hs : Only ps s0 s) : Only ps s0 (State.libLasting s t row playback) := by
  unfold State.libLasting
  extract_lets v1 v2 v3
  have hv1 : Only ps s0 v1 := by
    unfold v1
    refine State.count_only (List.Subset.trans (by decide) hm) ?_
    exact hs
  try clear_value v1
  have hv2 : Only ps s0 v2 := by
    unfold v2
    refine State.report_only (List.Subset.trans (by decide) hm) ?_
    refine State.raise_only (List.Subset.trans (by decide) hm) ?_
    exact hv1
  try clear_value v2
  have hv3 : Only ps s0 v3 := by
    unfold v3
    refine State.evict_only (List.Subset.trans (by decide) hm) ?_
    refine State.retireRow_only (List.Subset.trans (by decide) hm) ?_
    exact hv2
  try clear_value v3
  refine Only.ite ?_ ?_
  · refine State.dropSegment_only (List.Subset.trans (by decide) hm) ?_
    refine State.parityZero_only (List.Subset.trans (by decide) hm) ?_
    exact hv3
  · exact hv3

theorem State.writeBlock_only {ps : List Part} {s0 s : State} {block : Nat} {data : List Byte} {sealWord : Nat}
    (hm : [Part.store, Part.memory] ⊆ ps) (hs : Only ps s0 s) : Only ps s0 (s.writeBlock block data sealWord) :=
  State.setMemory_only (List.Subset.trans (by decide) hm) (.inr ⟨rfl, rfl⟩) (.inl (hm (by simp)))
    (fun h => ⟨h.1, h.2.1, SMap.wf_writeAll _ _ h.2.2.1, SMap.wf_write _ _ h.2.2.2.1, h.2.2.2.2⟩) hs

theorem State.writeBlocks_only {ps : List Part} {s0 s : State} {block : Nat} {data : List (List Byte)}
    (hm : [Part.store, Part.memory] ⊆ ps) (hs : Only ps s0 s) : Only ps s0 (s.writeBlocks block data) := by
  induction data generalizing s block with
  | nil => exact hs
  | cons b r ih => exact ih (State.writeBlock_only hm hs)

theorem State.retirePage_only {ps : List Part} {s0 : State} {s : State} {page : Nat}
    (hm : [Part.flash, Part.out, Part.hatband, Part.image Rec.storeStatus, Part.memory] ⊆ ps) (hs : Only ps s0 s) : Only ps s0 (State.retirePage s page) := by
  unfold State.retirePage
  extract_lets v1 v2 v3 v4 v5
  have hv2 : Only ps s0 v2 := by
    unfold v2
    refine Only.setFlash (List.Subset.trans (by decide) hm) ?_
    exact hs
  have hv4 : Only ps s0 v4 := by
    unfold v4
    refine State.raise_only (List.Subset.trans (by decide) hm) ?_
    refine State.put_only (List.Subset.trans (by decide) hm) ?_
    exact hv2
  try clear_value v4
  refine Only.ite ?_ ?_
  · refine State.setMemory_only (List.Subset.trans (by decide) hm) (.inr ⟨rfl, rfl⟩) (.inr ⟨rfl, rfl⟩) (fun h => ⟨h.1, h.2.1, h.2.2.1, h.2.2.2.1, h.2.2.2.2⟩) ?_
    exact hv2
  · refine State.setMemory_only (List.Subset.trans (by decide) hm) (.inr ⟨rfl, rfl⟩) (.inr ⟨rfl, rfl⟩) (fun h => ⟨h.1, h.2.1, h.2.2.1, h.2.2.2.1, h.2.2.2.2⟩) ?_
    exact hv4

end Machine

end Sys2Proof
end

