-- ==== Sys2Proof/Laws/FrameCapture.lean ====
section
/-! SUPPORT. What each operation of Capture.lean may change: one lemma an operation. -/

namespace Sys2Proof

open Machine

namespace Machine

theorem State.endSnapBusy_only {ps : List Part} {s0 : State} {s : State} {kind : Nat} {tile : Nat}
    (hm : [Part.image Rec.acqStatus] ⊆ ps) (hs : Only ps s0 s) : Only ps s0 (State.endSnapBusy s kind tile) := by
  unfold State.endSnapBusy
  refine Only.ite ?_ ?_
  · refine State.putFlag_only (List.Subset.trans (by decide) hm) ?_
    exact hs
  · exact hs

theorem State.formChunk_only {ps : List Part} {s0 : State} {s : State} {h : ChunkHead} {data : List Byte}
    (hm : [Part.image Rec.acqStatus, Part.capture, Part.image Rec.capStatus, Part.out, Part.hatband, Part.log, Part.image Rec.logStatus] ⊆ ps) (hs : Only ps s0 s) : Only ps s0 (State.formChunk s h data) := by
  unfold State.formChunk
  refine Only.ite ?_ ?_
  · refine State.endSnapBusy_only (List.Subset.trans (by decide) hm) ?_
    exact hs
  · extract_lets v1 v2 v3 v4 v5
    try clear_value v1
    try clear_value v2
    have hv3 : Only ps s0 v3 := by
      unfold v3
      refine State.setCapture_only (List.Subset.trans (by decide) hm) ?_
      exact hs
    try clear_value v3
    try clear_value v4
    try clear_value v5
    refine Only.ite ?_ ?_
    · refine State.setCapture_only (List.Subset.trans (by decide) hm) ?_
      exact hv3
    · refine State.endSnapBusy_only (List.Subset.trans (by decide) hm) ?_
      refine State.dropChunk_only (List.Subset.trans (by decide) hm) ?_
      exact hv3

theorem State.markSubmitted_only {ps : List Part} {s0 : State} {s : State} {at_ : Nat}
    (hm : [Part.capture] ⊆ ps) (hs : Only ps s0 s) : Only ps s0 (State.markSubmitted s at_) := by
  unfold State.markSubmitted
  refine State.setCapture_only (List.Subset.trans (by decide) hm) ?_
  exact hs

theorem State.autoSubmit_only {ps : List Part} {s0 : State} {s : State} {c : Chunk}
    (hm : [Part.capture, Part.image Rec.capStatus, Part.out, Part.hatband, Part.log, Part.image Rec.logStatus] ⊆ ps) (hs : Only ps s0 s) : Only ps s0 (State.autoSubmit s c) := by
  unfold State.autoSubmit
  extract_lets v1 v2 v3
  have hv1 : Only ps s0 v1 := by
    unfold v1
    refine State.markSubmitted_only (List.Subset.trans (by decide) hm) ?_
    exact hs
  try clear_value v1
  try clear_value v2
  try clear_value v3
  refine Only.ite ?_ ?_
  · refine State.setCapture_only (List.Subset.trans (by decide) hm) ?_
    exact hv1
  · refine State.consume_only (List.Subset.trans (by decide) hm) ?_
    refine State.dropChunk_only (List.Subset.trans (by decide) hm) ?_
    exact hv1

theorem State.autoFeed_only {ps : List Part} {s0 : State} {s : State}
    (hm : [Part.capture, Part.image Rec.capStatus, Part.out, Part.hatband, Part.log, Part.image Rec.logStatus] ⊆ ps) (hs : Only ps s0 s) : Only ps s0 (State.autoFeed s) := by
  unfold State.autoFeed
  refine Only.ite ?_ ?_
  · refine Only.foldl (fun x1 _ hx1 => ?_) _ ?_
    · refine Only.ite ?_ ?_
      · refine State.autoSubmit_only (List.Subset.trans (by decide) hm) ?_
        exact hx1
      · exact hx1
    · exact hs
  · exact hs

theorem State.ringBlocks_only {ps : List Part} {s0 s : State} {wp i : Nat} {blocks : List (List Byte)}
    (hm : [Part.store, Part.memory] ⊆ ps) (hs : Only ps s0 s) : Only ps s0 (s.ringBlocks wp i blocks) := by
  induction blocks generalizing s i with
  | nil => exact hs
  | cons b r ih => exact ih (State.writeBlock_only hm hs)

theorem State.writeChunk_only {ps : List Part} {s0 : State} {s : State} {c : Chunk}
    (hm : [Part.store, Part.memory, Part.image Rec.capStatus, Part.capture, Part.out, Part.hatband, Part.log, Part.image Rec.logStatus, Part.image Rec.acqStatus] ⊆ ps) (hs : Only ps s0 s) : Only ps s0 (State.writeChunk s c) := by
  unfold State.writeChunk
  extract_lets v1 v2 v3 v4 v5 v6
  try clear_value v1
  have hv2 : Only ps s0 v2 := by
    unfold v2
    refine State.ringBlocks_only (List.Subset.trans (by decide) hm) ?_
    exact hs
  try clear_value v2
  have hv3 : Only ps s0 v3 := by
    unfold v3
    refine State.moveBeats_only (List.Subset.trans (by decide) hm) ?_
    exact hv2
  try clear_value v3
  have hv4 : Only ps s0 v4 := by
    unfold v4
    refine State.put_only (List.Subset.trans (by decide) hm) ?_
    exact hv3
  try clear_value v4
  try clear_value v5
  have hv6 : Only ps s0 v6 := by
    unfold v6
    refine State.setCapture_only (List.Subset.trans (by decide) hm) ?_
    exact hv4
  try clear_value v6
  refine State.autoFeed_only (List.Subset.trans (by decide) hm) ?_
  refine State.endSnapBusy_only (List.Subset.trans (by decide) hm) ?_
  refine Only.ite ?_ ?_
  · refine State.raise_only (List.Subset.trans (by decide) hm) ?_
    exact hv6
  · exact hv6

theorem State.freeBit_only {ps : List Part} {s0 : State} {s : State}
    (hm : [Part.free] ⊆ ps) (hs : Only ps s0 s) : Only ps s0 (State.freeBit s).2 := by
  unfold State.freeBit
  dsimp only
  refine State.free_only (List.Subset.trans (by decide) hm) ?_
  exact hs

end Machine

end Sys2Proof
end

