-- ==== Sys2Proof/Laws/FrameReadout.lean ====
section
/-! SUPPORT. What each operation of Readout.lean may change: one lemma an operation. -/

namespace Sys2Proof

open Machine

namespace Machine

theorem State.startSnapshot_only {ps : List Part} {s0 : State} {s : State} {t : Nat} {start : Nat} {event : Bool} {cause : Option (Nat × Nat)}
    (hm : [Part.image Rec.acqStatus, Part.acq] ⊆ ps) (hs : Only ps s0 s) : Only ps s0 (State.startSnapshot s t start event cause) := by
  unfold State.startSnapshot
  refine Only.ite ?_ ?_
  · refine State.count_only (List.Subset.trans (by decide) hm) ?_
    exact hs
  · extract_lets v1 v2 v3 v4
    try clear_value v1
    try clear_value v2
    try clear_value v3
    try clear_value v4
    refine State.putFlag_only (List.Subset.trans (by decide) hm) ?_
    refine State.setAcq_only (List.Subset.trans (by decide) hm) ?_
    exact hs

theorem State.openWindow_only {ps : List Part} {s0 : State} {s : State} {t : Nat} {w : Window}
    (hm : [Part.acq, Part.out, Part.hatband, Part.image Rec.acqStatus] ⊆ ps) (hs : Only ps s0 s) : Only ps s0 (State.openWindow s t w) := by
  unfold State.openWindow
  extract_lets v1 v2 v3 v4 v5 v6
  try clear_value v1
  try clear_value v2
  try clear_value v3
  try clear_value v4
  have hv5 : Only ps s0 v5 := by
    unfold v5
    refine State.setAcq_only (List.Subset.trans (by decide) hm) ?_
    exact hs
  try clear_value v5
  have hv6 : Only ps s0 v6 := by
    unfold v6
    refine State.raise_only (List.Subset.trans (by decide) hm) ?_
    refine State.count_only (List.Subset.trans (by decide) hm) ?_
    exact hv5
  try clear_value v6
  refine Only.ite ?_ ?_
  · refine State.startSnapshot_only (List.Subset.trans (by decide) hm) ?_
    exact hv6
  · exact hv6

theorem State.markOverrange_only {ps : List Part} {s0 : State} {s : State} {t : Nat} {x : Nat}
    (hm : [Part.acq] ⊆ ps) (hs : Only ps s0 s) : Only ps s0 (State.markOverrange s t x) := by
  unfold State.markOverrange
  extract_lets v1
  try clear_value v1
  refine State.setAcq_only (List.Subset.trans (by decide) hm) ?_
  exact hs

theorem State.closeWindow_only {ps : List Part} {s0 : State} {s : State} {t : Nat} {u : Nat} {w : Window}
    (hm : [Part.runs, Part.acq, Part.out, Part.hatband] ⊆ ps) (hs : Only ps s0 s) : Only ps s0 (State.closeWindow s t u w) := by
  unfold State.closeWindow
  extract_lets v1 v2 v3 v4 v5 v6 v7 v8
  try clear_value v1
  try clear_value v2
  try clear_value v3
  try clear_value v4
  try clear_value v5
  have hv6 : Only ps s0 v6 := by
    unfold v6
    refine State.setTile_only (List.Subset.trans (by decide) hm) ?_
    exact hs
  try clear_value v6
  try clear_value v7
  have hv8 : Only ps s0 v8 := by
    unfold v8
    refine State.setAcq_only (List.Subset.trans (by decide) hm) ?_
    exact hv6
  try clear_value v8
  refine Only.ite ?_ ?_
  · exact hv8
  · refine State.raise_only (List.Subset.trans (by decide) hm) ?_
    exact hv8

theorem State.evaluate_only {ps : List Part} {s0 : State} {s : State} {t : Nat} {u : Nat} {w : Window} {i : Int} {q : Int} {sealBad : Bool}
    (hm : [Part.runs, Part.acq, Part.out, Part.hatband] ⊆ ps) (hs : Only ps s0 s) : Only ps s0 (State.evaluate s t u w i q sealBad) := by
  unfold State.evaluate
  extract_lets v1 v2
  try clear_value v1
  try clear_value v2
  refine Only.ite ?_ ?_
  · refine State.closeWindow_only (List.Subset.trans (by decide) hm) ?_
    exact hs
  · refine State.setAcq_only (List.Subset.trans (by decide) hm) ?_
    exact hs

theorem State.countDecision_only {ps : List Part} {s0 : State} {s : State} {slot : Nat} {d : Decision}
    (hm : [Part.image Rec.pounceStatus] ⊆ ps) (hs : Only ps s0 s) : Only ps s0 (State.countDecision s slot d) := by
  unfold State.countDecision
  extract_lets v1 v2 v3 v4
  have hv1 : Only ps s0 v1 := by
    unfold v1
    refine State.count_only (List.Subset.trans (by decide) hm) ?_
    exact hs
  try clear_value v1
  have hv2 : Only ps s0 v2 := by
    unfold v2
    refine Only.ite ?_ ?_
    · refine State.count_only (List.Subset.trans (by decide) hm) ?_
      exact hv1
    · exact hv1
  try clear_value v2
  have hv3 : Only ps s0 v3 := by
    unfold v3
    refine Only.ite ?_ ?_
    · refine State.count_only (List.Subset.trans (by decide) hm) ?_
      exact hv2
    · exact hv2
  try clear_value v3
  have hv4 : Only ps s0 v4 := by
    unfold v4
    refine Only.ite ?_ ?_
    · refine State.count_only (List.Subset.trans (by decide) hm) ?_
      exact hv3
    · exact hv3
  try clear_value v4
  refine State.put_only (List.Subset.trans (by decide) hm) ?_
  refine State.putFlag_only (List.Subset.trans (by decide) hm) ?_
  refine State.put_only (List.Subset.trans (by decide) hm) ?_
  exact hv4

theorem State.logDecision_only {ps : List Part} {s0 : State} {s : State} {t : Nat} {w : Window} {d : Decision}
    (hm : [Part.image Rec.tilePounce, Part.image Rec.histStatus, Part.acq] ⊆ ps) (hs : Only ps s0 s) : Only ps s0 (State.logDecision s t w d) := by
  unfold State.logDecision
  extract_lets v1
  try clear_value v1
  split
  · exact hs
  · extract_lets v2 v3 v4
    have hv2 : Only ps s0 v2 := by
      unfold v2
      refine Only.ite ?_ ?_
      · exact hs
      · refine State.count_only (List.Subset.trans (by decide) hm) ?_
        exact hs
    try clear_value v2
    try clear_value v3
    have hv4 : Only ps s0 v4 := by
      unfold v4
      refine Only.ite ?_ ?_
      · refine State.count_only (List.Subset.trans (by decide) hm) ?_
        exact hv2
      · exact hv2
    try clear_value v4
    refine State.setAcq_only (List.Subset.trans (by decide) hm) ?_
    exact hv4

theorem State.countOverlaps_only {ps : List Part} {s0 s : State} {t n : Nat}
    (hm : [Part.image Rec.acqStatus, Part.out, Part.hatband] ⊆ ps) (hs : Only ps s0 s) :
    Only ps s0 (s.countOverlaps t n) := by
  induction n generalizing s with
  | zero => exact hs
  | succ k ih =>
    exact ih (State.raise_only (List.Subset.trans (by decide) hm)
      (State.count_only (List.Subset.trans (by decide) hm) hs))

theorem State.passDecision_only {ps : List Part} {s0 : State} {s : State} {t : Nat} {w : Window} {d : Decision}
    (hm : [Part.acq, Part.image Rec.tilePounce, Part.image Rec.histStatus, Part.image Rec.pounceStatus, Part.image Rec.acqStatus, Part.out, Part.hatband, Part.runs] ⊆ ps) (hs : Only ps s0 s) : Only ps s0 (State.passDecision s t w d) := by
  unfold State.passDecision
  extract_lets v1 v2 v3 v4 v5 v6 v7
  try clear_value v1
  have hv2 : Only ps s0 v2 := by
    unfold v2
    refine State.setAcq_only (List.Subset.trans (by decide) hm) ?_
    exact hs
  try clear_value v2
  have hv3 : Only ps s0 v3 := by
    unfold v3
    refine State.logDecision_only (List.Subset.trans (by decide) hm) ?_
    refine State.countDecision_only (List.Subset.trans (by decide) hm) ?_
    exact hv2
  try clear_value v3
  have hv4 : Only ps s0 v4 := by
    unfold v4
    refine State.countOverlaps_only (List.Subset.trans (by decide) hm) ?_
    exact hv3
  try clear_value v4
  try clear_value v5
  try clear_value v6
  have hv7 : Only ps s0 v7 := by
    unfold v7
    refine Only.ite ?_ ?_
    · refine State.setTile_only (List.Subset.trans (by decide) hm) ?_
      exact hv4
    · exact hv4
  try clear_value v7
  refine Only.ite ?_ ?_
  · exact hv7
  · refine State.raise_only (List.Subset.trans (by decide) hm) ?_
    exact hv7

theorem State.settleWindow_only {ps : List Part} {s0 : State} {s : State} {t : Nat} {u : Nat} {w : Window}
    (hm : [Part.runs, Part.acq, Part.out, Part.hatband] ⊆ ps) (hs : Only ps s0 s) : Only ps s0 (State.settleWindow s t u w) := by
  unfold State.settleWindow
  refine Only.ite ?_ ?_
  · refine State.closeWindow_only (List.Subset.trans (by decide) hm) ?_
    exact hs
  · exact hs

theorem State.binPoint_only {ps : List Part} {s0 : State} {s : State} {p : Nat × Int × Int × Nat}
    (hm : [Part.bins, Part.image Rec.histStatus] ⊆ ps) (hs : Only ps s0 s) : Only ps s0 (State.binPoint s p) := by
  unfold State.binPoint
  split
  · extract_lets v1 v2 v3 v4 v5 v6 v7 v8
    try clear_value v1
    try clear_value v2
    try clear_value v3
    try clear_value v4
    try clear_value v5
    have hv7 : Only ps s0 v7 := by
      unfold v7
      refine Only.step (t := s) (ps := [Part.bins]) (fun p hp => by cases p <;> first | rfl | exact ⟨rfl, rfl⟩ | exact ⟨rfl, rfl, rfl⟩ | exact image_congr rfl | exact fun h => h | exact absurd (by decide) hp) (List.Subset.trans (by decide) hm) ?_
      exact hs
    try clear_value v7
    have hv8 : Only ps s0 v8 := by
      unfold v8
      refine State.count_only (List.Subset.trans (by decide) hm) ?_
      exact hv7
    try clear_value v8
    refine Only.ite ?_ ?_
    · refine Only.ite ?_ ?_
      · refine State.putFlag_only (List.Subset.trans (by decide) hm) ?_
        exact hv8
      · exact hv8
    · refine State.count_only (List.Subset.trans (by decide) hm) ?_
      exact hs

theorem State.countResid_only {ps : List Part} {s0 : State} {s : State} {x : Nat × Nat × Bool}
    (hm : [Part.image Rec.pounceStatus] ⊆ ps) (hs : Only ps s0 s) : Only ps s0 (State.countResid s x) := by
  unfold State.countResid
  extract_lets v1
  have hv1 : Only ps s0 v1 := by
    unfold v1
    refine State.count_only (List.Subset.trans (by decide) hm) ?_
    refine State.count_only (List.Subset.trans (by decide) hm) ?_
    exact hs
  try clear_value v1
  refine Only.ite ?_ ?_
  · refine State.count_only (List.Subset.trans (by decide) hm) ?_
    exact hv1
  · exact hv1

theorem State.decisionChunk_only {ps : List Part} {s0 : State} {s : State} {t : Nat} {l : ShotLog}
    (hm : [Part.image Rec.acqStatus, Part.capture, Part.image Rec.capStatus, Part.out, Part.hatband, Part.log, Part.image Rec.logStatus] ⊆ ps) (hs : Only ps s0 s) : Only ps s0 (State.decisionChunk s t l) := by
  unfold State.decisionChunk
  extract_lets v1 v2
  try clear_value v1
  try clear_value v2
  refine State.formChunk_only (List.Subset.trans (by decide) hm) ?_
  exact hs

theorem State.passRecords_only {ps : List Part} {s0 : State} {s : State} {t : Nat} {l : ShotLog}
    (hm : [Part.acq, Part.image Rec.acqStatus, Part.capture, Part.image Rec.capStatus, Part.out, Part.hatband, Part.log, Part.image Rec.logStatus, Part.image Rec.pounceStatus, Part.bins, Part.image Rec.histStatus] ⊆ ps) (hs : Only ps s0 s) : Only ps s0 (State.passRecords s t l) := by
  unfold State.passRecords
  extract_lets v1 v2 v3
  try clear_value v1
  have hv2 : Only ps s0 v2 := by
    unfold v2
    refine State.setAcq_only (List.Subset.trans (by decide) hm) ?_
    exact hs
  try clear_value v2
  have hv3 : Only ps s0 v3 := by
    unfold v3
    refine Only.ite ?_ ?_
    · refine State.decisionChunk_only (List.Subset.trans (by decide) hm) ?_
      exact hv2
    · exact hv2
  try clear_value v3
  refine Only.ite ?_ ?_
  · exact hv3
  · refine Only.foldl (fun x4 _ hx4 => ?_) _ ?_
    · refine State.countResid_only (List.Subset.trans (by decide) hm) ?_
      exact hx4
    · refine Only.foldl (fun x5 _ hx5 => ?_) _ ?_
      · refine State.binPoint_only (List.Subset.trans (by decide) hm) ?_
        exact hx5
      · exact hv3

theorem State.endSnapshot_only {ps : List Part} {s0 : State} {s : State} {t : Nat} {x : Snapshot} {samples : List (BitVec 12)} {bad : Bool}
    (hm : [Part.acq, Part.out, Part.hatband, Part.image Rec.hatbandControl, Part.log, Part.image Rec.logStatus, Part.image Rec.channel, Part.free, Part.image Rec.acqStatus, Part.capture, Part.image Rec.capStatus] ⊆ ps) (hs : Only ps s0 s) : Only ps s0 (State.endSnapshot s t x samples bad) := by
  unfold State.endSnapshot
  extract_lets v1 v2 v3
  try clear_value v1
  have hv2 : Only ps s0 v2 := by
    unfold v2
    refine State.setAcq_only (List.Subset.trans (by decide) hm) ?_
    exact hs
  try clear_value v2
  have hv3 : Only ps s0 v3 := by
    unfold v3
    refine State.raiseFrom_only (List.Subset.trans (by decide) hm) ?_
    exact hv2
  try clear_value v3
  split
  · rename_i x4 ex4
    have hx4 : Only ps s0 x4 := by
      refine (congrArg (fun q => Only ps s0 (Prod.snd q)) ex4).mp ?_
      refine State.freeBit_only (List.Subset.trans (by decide) hm) ?_
      exact hv3
    refine State.formChunk_only (List.Subset.trans (by decide) hm) ?_
    exact hx4

theorem State.iqChunk_only {ps : List Part} {s0 : State} {s : State} {t : Nat} {x : IqRun} {n : Nat} {last : Bool} {points : List (List (Int × Int))}
    (hm : [Part.acq, Part.image Rec.acqStatus, Part.capture, Part.image Rec.capStatus, Part.out, Part.hatband, Part.log, Part.image Rec.logStatus] ⊆ ps) (hs : Only ps s0 s) : Only ps s0 (State.iqChunk s t x n last points) := by
  unfold State.iqChunk
  extract_lets v1 v2 v3 v4
  try clear_value v1
  try clear_value v2
  try clear_value v3
  have hv4 : Only ps s0 v4 := by
    unfold v4
    refine State.setAcq_only (List.Subset.trans (by decide) hm) ?_
    exact hs
  try clear_value v4
  refine State.formChunk_only (List.Subset.trans (by decide) hm) ?_
  exact hv4

theorem State.loadWeights_only {ps : List Part} {s0 : State} {s : State} {t : Nat} {j : Nat} {first : Nat} {blocks : List (List Byte × Nat)}
    (hm : [Part.weights] ⊆ ps) (hs : Only ps s0 s) : Only ps s0 (State.loadWeights s t j first blocks) := by
  unfold State.loadWeights
  extract_lets v1 v2
  try clear_value v1
  refine Only.step (t := s) (ps := [Part.weights]) (fun p hp => by cases p <;> first | rfl | exact ⟨rfl, rfl⟩ | exact ⟨rfl, rfl, rfl⟩ | exact image_congr rfl | exact fun h => h | exact absurd (by decide) hp) (List.Subset.trans (by decide) hm) ?_
  exact hs

theorem State.commitWeights_only {ps : List Part} {s0 : State} {s : State} {t : Nat} {mask : Nat}
    (hm : [Part.image Rec.weightControl, Part.readout, Part.weights] ⊆ ps) (hs : Only ps s0 s) : Only ps s0 (State.commitWeights s t mask) := by
  unfold State.commitWeights
  refine Only.foldl (fun x1 _ hx1 => ?_) _ ?_
  · refine Only.ite ?_ ?_
    · refine State.put_only (List.Subset.trans (by decide) hm) ?_
      refine Only.step (t := x1) (ps := [Part.readout]) (fun p hp => by cases p <;> first | rfl | exact ⟨rfl, rfl⟩ | exact ⟨rfl, rfl, rfl⟩ | exact image_congr rfl | exact fun h => h | exact absurd (by decide) hp) (List.Subset.trans (by decide) hm) ?_
      exact hx1
    · refine State.bringWeights_only (List.Subset.trans (by decide) hm) ?_
      exact hx1
  · exact hs

theorem State.endFit_only {ps : List Part} {s0 : State} {s : State} {d : Deferred} {slot : Nat} {k : Nat} {centres : List Int}
    (hm : [Part.shadows, Part.image Rec.model, Part.mailboxes, Part.log, Part.image Rec.logStatus, Part.out, Part.hatband, Part.host] ⊆ ps) (hs : Only ps s0 s) : Only ps s0 (State.endFit s d slot k centres) := by
  unfold State.endFit
  extract_lets v1 v2 v3
  try clear_value v1
  try clear_value v2
  have hv3 : Only ps s0 v3 := by
    unfold v3
    refine State.writeShadowed_only (List.Subset.trans (by decide) hm) ?_
    exact hs
  try clear_value v3
  refine State.finish_only (List.Subset.trans (by decide) hm) ?_
  exact hv3

end Machine

end Sys2Proof
end

