-- ==== Sys2Proof/Laws/FrameMicrocode.lean ====
section
/-! SUPPORT. What each operation of Microcode.lean may change: one lemma an operation. -/

namespace Sys2Proof

open Machine

namespace Machine

theorem State.microAct_only {ps : List Part} {s0 s : State} {t w : Nat} {flag : Bool}
    (hm : [Part.free, Part.engines, Part.out, Part.hatband] ⊆ ps) (hs : Only ps s0 s) :
    Only ps s0 (s.microAct t w flag).2 := by
  have hf : Only ps s0 s.free.2 := State.free_only (List.Subset.trans (by decide) hm) hs
  unfold State.microAct
  extract_lets put
  have hp : ∀ (x : State) (v : Nat), Only ps s0 x → Only ps s0 (put x v) := fun x v hx =>
    State.setEngine_only (List.Subset.trans (by decide) hm) hx
  split
  · exact hp _ _ (State.free_only (List.Subset.trans (by decide) hm) hf)
  · exact hp _ _ hf
  · exact hp _ _ hf
  · exact State.raise_only (List.Subset.trans (by decide) hm) hf
  · exact hs

theorem State.runFrom_only {ps : List Part} {s0 : State} {c : Store} {t : Nat}
    (hm : [Part.free, Part.engines, Part.out, Part.hatband] ⊆ ps) :
    ∀ (fuel a : Nat) (flag : Bool) {s : State}, Only ps s0 s → Only ps s0 (State.runFrom c t fuel a flag s).2
  | 0, _, _, _, hs => hs
  | fuel + 1, a, flag, s, hs => by
    unfold State.runFrom
    split
    · exact hs
    · rename_i w _
      have hx : Only ps s0 (s.microAct t w flag).2 := State.microAct_only hm hs
      generalize s.microAct t w flag = r at hx ⊢
      obtain ⟨f, x⟩ := r
      have ih := fun b g => State.runFrom_only (c := c) (t := t) hm fuel b g hx
      dsimp only
      split
      · split
        · exact hx
        · exact ih _ _
      · split
        · exact hx
        · split
          · exact ih _ _
          · exact ih _ _

end Machine

end Sys2Proof
end

