-- ==== Sys2Proof/Laws/FrameEngine.lean ====
section
/-! SUPPORT. What each operation of Engine.lean may change: one lemma an operation. -/

namespace Sys2Proof

open Machine

namespace Machine

theorem State.endInstance_only {ps : List Part} {s0 : State} {s : State} {e : Nat}
    (hm : [Part.engines, Part.image Rec.engineStatus] ⊆ ps) (hs : Only ps s0 s) : Only ps s0 (State.endInstance s e) := by
  unfold State.endInstance
  extract_lets v1 v2
  try clear_value v1
  have hv2 : Only ps s0 v2 := by
    unfold v2
    refine State.setEngine_only (List.Subset.trans (by decide) hm) ?_
    exact hs
  try clear_value v2
  refine State.put_only (List.Subset.trans (by decide) hm) ?_
  refine State.putFlag_only (List.Subset.trans (by decide) hm) ?_
  exact hv2

theorem State.beginWait_only {ps : List Part} {s0 : State} {s : State} {e : Nat}
    (hm : [Part.image Rec.engineStatus, Part.engines] ⊆ ps) (hs : Only ps s0 s) : Only ps s0 (State.beginWait s e) := by
  unfold State.beginWait
  extract_lets v1 v2
  try clear_value v1
  try clear_value v2
  refine State.put_only (List.Subset.trans (by decide) hm) ?_
  refine State.setEngine_only (List.Subset.trans (by decide) hm) ?_
  exact hs

theorem State.repeatWait_only {ps : List Part} {s0 : State} {s : State} {e : Nat}
    (hm : [Part.image Rec.engineStatus, Part.engines] ⊆ ps) (hs : Only ps s0 s) : Only ps s0 (State.repeatWait s e) := by
  unfold State.repeatWait
  extract_lets v1
  try clear_value v1
  refine State.putFlag_only (List.Subset.trans (by decide) hm) ?_
  refine State.setEngine_only (List.Subset.trans (by decide) hm) ?_
  exact hs

theorem State.endIfIdle_only {ps : List Part} {s0 : State} {s : State} {g : Nat}
    (hm : [Part.shadows, Part.image Rec.timingSet, Part.image Rec.driveTone, Part.image Rec.probeTone, Part.image Rec.acqTone, Part.image Rec.biasIir, Part.image Rec.biasFir, Part.image Rec.histConfig, Part.image Rec.model, Part.loaded, Part.drive, Part.image Rec.matrixControl, Part.weights, Part.image Rec.weightControl, Part.readout, Part.bins, Part.image Rec.histStatus, Part.image Rec.xyStatus, Part.image Rec.biasStatus, Part.bias, Part.blocking, Part.acq, Part.runs, Part.engines, Part.image Rec.runStatus, Part.image Rec.engineStatus, Part.mailboxes, Part.log, Part.image Rec.logStatus, Part.out, Part.hatband, Part.host] ⊆ ps) (hs : Only ps s0 s) : Only ps s0 (State.endIfIdle s g) := by
  unfold State.endIfIdle
  refine Only.ite ?_ ?_
  · refine State.endRun_only (List.Subset.trans (by decide) hm) ?_
    exact hs
  · exact hs

theorem State.stopTile_only {ps : List Part} {s0 : State} {s : State} {t : Nat}
    (hm : [Part.shadows, Part.image Rec.timingSet, Part.image Rec.driveTone, Part.image Rec.probeTone, Part.image Rec.acqTone, Part.image Rec.biasIir, Part.image Rec.biasFir, Part.image Rec.histConfig, Part.image Rec.model, Part.loaded, Part.drive, Part.image Rec.matrixControl, Part.weights, Part.image Rec.weightControl, Part.readout, Part.bins, Part.image Rec.histStatus, Part.image Rec.xyStatus, Part.image Rec.biasStatus, Part.bias, Part.blocking, Part.acq, Part.runs, Part.engines, Part.image Rec.runStatus, Part.image Rec.engineStatus, Part.mailboxes, Part.log, Part.image Rec.logStatus, Part.out, Part.hatband, Part.host] ⊆ ps) (hs : Only ps s0 s) : Only ps s0 (State.stopTile s t) := by
  unfold State.stopTile
  split
  · exact hs
  · refine State.endIfIdle_only (List.Subset.trans (by decide) hm) ?_
    refine State.abortRun_only (List.Subset.trans (by decide) hm) ?_
    refine State.standDown_only (List.Subset.trans (by decide) hm) ?_
    refine State.voidShot_only (List.Subset.trans (by decide) hm) ?_
    exact hs

theorem State.stopEngine_only {ps : List Part} {s0 : State} {s : State} {e : Nat}
    (hm : [Part.image Rec.engineStatus, Part.engines, Part.log, Part.image Rec.logStatus, Part.out, Part.hatband, Part.runs, Part.image Rec.runStatus, Part.drive, Part.bias, Part.image Rec.biasStatus, Part.acq, Part.shadows, Part.image Rec.timingSet, Part.image Rec.driveTone, Part.image Rec.probeTone, Part.image Rec.acqTone, Part.image Rec.biasIir, Part.image Rec.biasFir, Part.image Rec.histConfig, Part.image Rec.model, Part.loaded, Part.image Rec.matrixControl, Part.weights, Part.image Rec.weightControl, Part.readout, Part.bins, Part.image Rec.histStatus, Part.image Rec.xyStatus, Part.blocking, Part.mailboxes, Part.host, Part.power, Part.capture, Part.image Rec.outQueue, Part.image Rec.capStatus, Part.image Rec.ring, Part.store, Part.free, Part.image Rec.modeRecord, Part.mode, Part.crown, Part.image Rec.gridStatus] ⊆ ps) (hs : Only ps s0 s) : Only ps s0 (State.stopEngine s e) := by
  unfold State.stopEngine
  extract_lets v1 v2 v3
  have hv1 : Only ps s0 v1 := by
    unfold v1
    refine State.putFlag_only (List.Subset.trans (by decide) hm) ?_
    refine State.put_only (List.Subset.trans (by decide) hm) ?_
    exact hs
  try clear_value v1
  try clear_value v2
  have hv3 : Only ps s0 v3 := by
    unfold v3
    refine State.setEngine_only (List.Subset.trans (by decide) hm) ?_
    refine State.putFlag_only (List.Subset.trans (by decide) hm) ?_
    exact hv1
  try clear_value v3
  refine Only.ite ?_ ?_
  · refine State.enterSafe_only (List.Subset.trans (by decide) hm) ?_
    exact hv3
  · refine State.stopTile_only (List.Subset.trans (by decide) hm) ?_
    exact hv3

theorem State.abandon_only {ps : List Part} {s0 : State} {s : State} {e : Nat}
    (hm : [Part.image Rec.engineStatus, Part.engines] ⊆ ps) (hs : Only ps s0 s) : Only ps s0 (State.abandon s e) := by
  unfold State.abandon
  extract_lets v1 v2
  try clear_value v1
  have hv2 : Only ps s0 v2 := by
    unfold v2
    refine State.count_only (List.Subset.trans (by decide) hm) ?_
    refine State.setEngine_only (List.Subset.trans (by decide) hm) ?_
    exact hs
  try clear_value v2
  refine Only.ite ?_ ?_
  · refine State.count_only (List.Subset.trans (by decide) hm) ?_
    refine State.putFlag_only (List.Subset.trans (by decide) hm) ?_
    exact hv2
  · exact hv2

theorem State.found_only {ps : List Part} {s0 : State} {s : State} {e : Nat}
    (hm : [Part.free] ⊆ ps) (hs : Only ps s0 s) : Only ps s0 (State.found s e).2 := by
  unfold State.found
  extract_lets v1 v2
  try clear_value v1
  try clear_value v2
  split
  · rename_i x3 ex3
    have hx3 : Only ps s0 x3 := by
      refine (congrArg (fun q => Only ps s0 (Prod.snd q)) ex3).mp ?_
      refine State.free_only (List.Subset.trans (by decide) hm) ?_
      exact hs
    extract_lets v4 v5
    try clear_value v4
    try clear_value v5
    dsimp only
    exact hx3

theorem State.noteHoldoff_only {ps : List Part} {s0 : State} {s : State} {e : Nat} {cycles : Nat}
    (hm : [Part.image Rec.engineStatus] ⊆ ps) (hs : Only ps s0 s) : Only ps s0 (State.noteHoldoff s e cycles) := by
  unfold State.noteHoldoff
  refine State.put_only (List.Subset.trans (by decide) hm) ?_
  exact hs

theorem State.runHandlers_only {ps : List Part} {s0 : State} {s : State} {e : Nat}
    (hm : [Part.engines, Part.runs, Part.image Rec.runStatus, Part.drive, Part.bias, Part.image Rec.biasStatus, Part.out, Part.hatband, Part.acq, Part.image Rec.engineStatus] ⊆ ps) (hs : Only ps s0 s) : Only ps s0 (State.runHandlers s e) := by
  unfold State.runHandlers
  extract_lets v1 v2
  try clear_value v1
  have hv2 : Only ps s0 v2 := by
    unfold v2
    refine State.setEngine_only (List.Subset.trans (by decide) hm) ?_
    exact hs
  try clear_value v2
  refine Only.ite ?_ ?_
  · refine State.standDown_only (List.Subset.trans (by decide) hm) ?_
    exact hv2
  · exact hv2

theorem State.interrupt_only {ps : List Part} {s0 : State} {s : State} {e : Nat}
    (hm : [Part.free, Part.image Rec.engineStatus, Part.engines, Part.runs, Part.image Rec.runStatus, Part.drive, Part.bias, Part.image Rec.biasStatus, Part.out, Part.hatband, Part.acq] ⊆ ps) (hs : Only ps s0 s) : Only ps s0 (State.interrupt s e) := by
  unfold State.interrupt
  split
  · rename_i x1 ex1
    have hx1 : Only ps s0 x1 := by
      refine (congrArg (fun q => Only ps s0 (Prod.snd q)) ex1).mp ?_
      refine State.found_only (List.Subset.trans (by decide) hm) ?_
      exact hs
    extract_lets v2
    have hv2 : Only ps s0 v2 := by
      unfold v2
      refine State.noteHoldoff_only (List.Subset.trans (by decide) hm) ?_
      exact hx1
    try clear_value v2
    refine State.runHandlers_only (List.Subset.trans (by decide) hm) ?_
    refine Only.ite ?_ ?_
    · refine State.abandon_only (List.Subset.trans (by decide) hm) ?_
      exact hv2
    · exact hv2

theorem State.stopEngines_only {ps : List Part} {s0 : State} {s : State}
    (hm : [Part.engines, Part.drive, Part.bias, Part.acq, Part.runs] ⊆ ps) (hs : Only ps s0 s) : Only ps s0 (State.stopEngines s) := by
  unfold State.stopEngines
  refine Only.foldl (fun x1 _ hx1 => ?_) _ ?_
  · refine Only.ite ?_ ?_
    · refine State.stopForPatch_only (List.Subset.trans (by decide) hm) ?_
      refine State.unprepare_only (List.Subset.trans (by decide) hm) ?_
      exact hx1
    · exact hx1
  · exact hs

theorem State.shiftStood_only {ps : List Part} {s0 : State} {s : State} {g : Nat}
    (hm : [Part.runs] ⊆ ps) (hs : Only ps s0 s) : Only ps s0 (State.shiftStood s g) := by
  unfold State.shiftStood
  extract_lets v1 v2
  try clear_value v1
  try clear_value v2
  refine Only.ite ?_ ?_
  · refine State.setGroup_only (List.Subset.trans (by decide) hm) ?_
    exact hs
  · exact hs

theorem State.resumeEngines_only {ps : List Part} {s0 : State} {s : State}
    (hm : [Part.runs, Part.engines, Part.upload, Part.image Rec.mcVersion] ⊆ ps) (hs : Only ps s0 s) : Only ps s0 (State.resumeEngines s) := by
  unfold State.resumeEngines
  extract_lets v1 v2 v3 v4
  have hv1 : Only ps s0 v1 := by
    unfold v1
    refine Only.foldl (fun x5 _ hx5 => ?_) _ ?_
    · refine State.shiftStood_only (List.Subset.trans (by decide) hm) ?_
      exact hx5
    · exact hs
  try clear_value v1
  have hv2 : Only ps s0 v2 := by
    unfold v2
    refine Only.foldl (fun x6 _ hx6 => ?_) _ ?_
    · refine State.setEngine_only (List.Subset.trans (by decide) hm) ?_
      exact hx6
    · exact hv1
  try clear_value v2
  try clear_value v3
  have hv4 : Only ps s0 v4 := by
    unfold v4
    refine Only.setUpload (List.Subset.trans (by decide) hm) ?_
    exact hv2
  try clear_value v4
  refine State.putFlag_only (List.Subset.trans (by decide) hm) ?_
  exact hv4

theorem State.installPatch_only {ps : List Part} {s0 : State} {s : State} {b : List Byte}
    (hm : [Part.image Rec.matchReg, Part.upload, Part.image Rec.mcVersion] ⊆ ps) (hs : Only ps s0 s) : Only ps s0 (State.installPatch s b) := by
  unfold State.installPatch
  extract_lets v1 v2 v3 v4 v5
  try clear_value v1
  have hv2 : Only ps s0 v2 := by
    unfold v2
    refine Only.foldl (fun x6 _ hx6 => ?_) _ ?_
    · refine State.setImage_only (List.Subset.trans (by decide) hm) ?_
      exact hx6
    · exact hs
  try clear_value v2
  try clear_value v3
  try clear_value v4
  have hv5 : Only ps s0 v5 := by
    unfold v5
    refine Only.setUpload (List.Subset.trans (by decide) hm) ?_
    exact hv2
  try clear_value v5
  refine State.put_only (List.Subset.trans (by decide) hm) ?_
  refine State.put_only (List.Subset.trans (by decide) hm) ?_
  exact hv5

end Machine

end Sys2Proof
end

