-- ==== Sys2Proof/Laws/FrameRuns.lean ====
section
/-! SUPPORT. What each operation of Runs.lean may change: one lemma an operation. -/

namespace Sys2Proof

open Machine

namespace Machine

theorem State.underrun_only {ps : List Part} {s0 : State} {s : State} {t : Nat} {id : Nat}
    (hm : [Part.out, Part.hatband, Part.image Rec.runStatus, Part.engines, Part.runs, Part.acq, Part.log, Part.image Rec.logStatus, Part.drive, Part.bias, Part.image Rec.biasStatus, Part.image Rec.engineStatus] ⊆ ps) (hs : Only ps s0 s) : Only ps s0 (State.underrun s t id) := by
  unfold State.underrun
  extract_lets v1 v2 v3
  have hv1 : Only ps s0 v1 := by
    unfold v1
    refine State.raise_only (List.Subset.trans (by decide) hm) ?_
    refine State.count_only (List.Subset.trans (by decide) hm) ?_
    exact hs
  try clear_value v1
  have hv2 : Only ps s0 v2 := by
    unfold v2
    refine State.demandVoid_only (List.Subset.trans (by decide) hm) ?_
    refine State.voidShot_only (List.Subset.trans (by decide) hm) ?_
    refine State.report_only (List.Subset.trans (by decide) hm) ?_
    exact hv1
  try clear_value v2
  have hv3 : Only ps s0 v3 := by
    unfold v3
    split
    · refine State.setGroup_only (List.Subset.trans (by decide) hm) ?_
      exact hv2
    · exact hv2
  try clear_value v3
  refine State.standDown_only (List.Subset.trans (by decide) hm) ?_
  exact hv3

theorem State.takeSuccessor_only {ps : List Part} {s0 : State} {s : State} {t : Nat} {e : Nat} {jumped : Bool}
    (hm : [Part.out, Part.hatband, Part.log, Part.image Rec.logStatus, Part.runs, Part.image Rec.runStatus, Part.drive, Part.bias, Part.image Rec.biasStatus, Part.acq, Part.image Rec.engineStatus, Part.engines] ⊆ ps) (hs : Only ps s0 s) : Only ps s0 (State.takeSuccessor s t e jumped) := by
  unfold State.takeSuccessor
  split
  · refine State.programFault_only (List.Subset.trans (by decide) hm) ?_
    exact hs
  · extract_lets v1 v2 v3 v4 v5 v6
    try clear_value v1
    try clear_value v2
    try clear_value v3
    try clear_value v4
    try clear_value v5
    have hv6 : Only ps s0 v6 := by
      unfold v6
      refine State.setTile_only (List.Subset.trans (by decide) hm) ?_
      exact hs
    try clear_value v6
    refine Only.ite ?_ ?_
    · exact hv6
    · refine State.underrun_only (List.Subset.trans (by decide) hm) ?_
      exact hv6

theorem State.choose_only {ps : List Part} {s0 : State} {s : State} {t : Nat}
    (hm : [Part.out, Part.hatband, Part.log, Part.image Rec.logStatus, Part.runs, Part.image Rec.runStatus, Part.drive, Part.bias, Part.image Rec.biasStatus, Part.acq, Part.image Rec.engineStatus, Part.engines] ⊆ ps) (hs : Only ps s0 s) : Only ps s0 (State.choose s t) := by
  unfold State.choose
  split
  · refine State.takeSuccessor_only (List.Subset.trans (by decide) hm) ?_
    exact hs
  · extract_lets v1 v2
    have hv1 : Only ps s0 v1 := by
      unfold v1
      refine State.dropJump_only (List.Subset.trans (by decide) hm) ?_
      exact hs
    try clear_value v1
    try clear_value v2
    refine State.setTile_only (List.Subset.trans (by decide) hm) ?_
    exact hv1

theorem State.loadFail_only {ps : List Part} {s0 : State} {s : State} {t : Nat} {id : Nat}
    (hm : [Part.runs, Part.loaded, Part.log, Part.image Rec.logStatus, Part.out, Part.hatband, Part.image Rec.runStatus, Part.acq] ⊆ ps) (hs : Only ps s0 s) : Only ps s0 (State.loadFail s t id) := by
  unfold State.loadFail
  extract_lets v1 v2
  have hv1 : Only ps s0 v1 := by
    unfold v1
    refine State.sealFault_only (List.Subset.trans (by decide) hm) ?_
    refine State.voidShot_only (List.Subset.trans (by decide) hm) ?_
    exact hs
  try clear_value v1
  try clear_value v2
  refine State.setTile_only (List.Subset.trans (by decide) hm) ?_
  exact hv1

theorem State.loadSegment_only {ps : List Part} {s0 : State} {s : State} {t : Nat} {id : Nat} {sealBad : Bool}
    (hm : [Part.runs, Part.loaded, Part.log, Part.image Rec.logStatus, Part.out, Part.hatband, Part.image Rec.runStatus, Part.acq] ⊆ ps) (hs : Only ps s0 s) : Only ps s0 (State.loadSegment s t id sealBad) := by
  unfold State.loadSegment
  refine Only.ite ?_ ?_
  · refine State.loadFail_only (List.Subset.trans (by decide) hm) ?_
    exact hs
  · refine State.sealPass_only (List.Subset.trans (by decide) hm) ?_
    exact hs

theorem State.clearCounters_only {ps : List Part} {s0 : State} {s : State} {t : Nat} {c : Nat} {n : Nat}
    (hm : [Part.image Rec.counters] ⊆ ps) (hs : Only ps s0 s) : Only ps s0 (State.clearCounters s t c n) := by
  unfold State.clearCounters
  refine Only.foldl (fun x1 _ hx1 => ?_) _ ?_
  · refine State.putAt_only (List.Subset.trans (by decide) hm) ?_
    exact hx1
  · exact hs

theorem State.prepareTile_only {ps : List Part} {s0 : State} {s : State} {g : Nat} {t : Nat}
    (hm : [Part.runs, Part.image Rec.counters, Part.out, Part.hatband, Part.log, Part.image Rec.logStatus, Part.image Rec.runStatus, Part.drive, Part.bias, Part.image Rec.biasStatus, Part.acq, Part.image Rec.engineStatus, Part.engines] ⊆ ps) (hs : Only ps s0 s) : Only ps s0 (State.prepareTile s g t) := by
  unfold State.prepareTile
  extract_lets v1 v2 v3
  try clear_value v1
  have hv2 : Only ps s0 v2 := by
    unfold v2
    refine State.setTile_only (List.Subset.trans (by decide) hm) ?_
    exact hs
  try clear_value v2
  have hv3 : Only ps s0 v3 := by
    unfold v3
    refine State.clearCounters_only (List.Subset.trans (by decide) hm) ?_
    exact hv2
  try clear_value v3
  split
  · refine State.programFault_only (List.Subset.trans (by decide) hm) ?_
    exact hv3
  · extract_lets v4
    have hv4 : Only ps s0 v4 := by
      unfold v4
      refine State.put_only (List.Subset.trans (by decide) hm) ?_
      refine State.put_only (List.Subset.trans (by decide) hm) ?_
      exact hv3
    try clear_value v4
    refine Only.ite ?_ ?_
    · exact hv4
    · refine State.underrun_only (List.Subset.trans (by decide) hm) ?_
      exact hv4

theorem State.checkFetch_only {ps : List Part} {s0 : State} {s : State} {t : Nat}
    (hm : [Part.runs, Part.out, Part.hatband, Part.image Rec.runStatus, Part.engines, Part.acq, Part.log, Part.image Rec.logStatus, Part.drive, Part.bias, Part.image Rec.biasStatus, Part.image Rec.engineStatus] ⊆ ps) (hs : Only ps s0 s) : Only ps s0 (State.checkFetch s t) := by
  unfold State.checkFetch
  extract_lets v1
  try clear_value v1
  split
  · refine State.setTile_only (List.Subset.trans (by decide) hm) ?_
    exact hs
  · refine Only.ite ?_ ?_
    · refine State.setTile_only (List.Subset.trans (by decide) hm) ?_
      exact hs
    · refine State.underrun_only (List.Subset.trans (by decide) hm) ?_
      exact hs

theorem State.checkFirst_only {ps : List Part} {s0 : State} {s : State} {t : Nat} {g : Nat}
    (hm : [Part.runs] ⊆ ps) (hs : Only ps s0 s) : Only ps s0 (State.checkFirst s t g) := by
  unfold State.checkFirst
  extract_lets v1
  try clear_value v1
  split
  · refine Only.ite ?_ ?_
    · refine State.setTile_only (List.Subset.trans (by decide) hm) ?_
      exact hs
    · exact hs
  · exact hs

theorem State.newSegment_only {ps : List Part} {s0 : State} {s : State} {t : Nat} {b : Nat}
    (hm : [Part.image Rec.biasStatus, Part.bias, Part.drive, Part.image Rec.xyStatus] ⊆ ps) (hs : Only ps s0 s) : Only ps s0 (State.newSegment s t b) := by
  unfold State.newSegment
  extract_lets v1 v2 v3 v4 v5 v6
  have hv1 : Only ps s0 v1 := by
    unfold v1
    refine Only.foldl (fun x7 _ hx7 => ?_) _ ?_
    · refine State.releaseBias_only (List.Subset.trans (by decide) hm) ?_
      exact hx7
    · exact hs
  try clear_value v1
  try clear_value v2
  try clear_value v3
  try clear_value v4
  try clear_value v5
  have hv6 : Only ps s0 v6 := by
    unfold v6
    refine Only.setDrive (List.Subset.trans (by decide) hm) ?_
    exact hv1
  try clear_value v6
  refine Only.foldl (fun x8 _ hx8 => ?_) _ ?_
  · refine State.boundaryMute_only (List.Subset.trans (by decide) hm) ?_
    exact hx8
  · exact hv6

theorem State.endTile_only {ps : List Part} {s0 : State} {s : State} {t : Nat} {tick : Nat}
    (hm : [Part.out, Part.hatband, Part.image Rec.runStatus, Part.runs, Part.acq, Part.bias, Part.image Rec.engineStatus, Part.engines] ⊆ ps) (hs : Only ps s0 s) : Only ps s0 (State.endTile s t tick) := by
  unfold State.endTile
  extract_lets v1 v2 v3 v4 v5 v6
  have hv1 : Only ps s0 v1 := by
    unfold v1
    refine State.dropJump_only (List.Subset.trans (by decide) hm) ?_
    exact hs
  try clear_value v1
  try clear_value v2
  have hv3 : Only ps s0 v3 := by
    unfold v3
    refine State.setTile_only (List.Subset.trans (by decide) hm) ?_
    exact hv1
  try clear_value v3
  have hv4 : Only ps s0 v4 := by
    unfold v4
    refine State.cutWindows_only (List.Subset.trans (by decide) hm) ?_
    exact hv3
  try clear_value v4
  try clear_value v5
  have hv6 : Only ps s0 v6 := by
    unfold v6
    refine Only.foldl (fun x7 _ hx7 => ?_) _ ?_
    · refine State.setBias_only (List.Subset.trans (by decide) hm) ?_
      exact hx7
    · exact hv4
  try clear_value v6
  refine State.raise_only (List.Subset.trans (by decide) hm) ?_
  refine State.idleEngine_only (List.Subset.trans (by decide) hm) ?_
  exact hv6

theorem State.enterSegment_only {ps : List Part} {s0 : State} {s : State} {t : Nat} {e : Nat}
    (hm : [Part.image Rec.runStatus, Part.runs, Part.out, Part.hatband, Part.image Rec.hatbandControl, Part.log, Part.image Rec.logStatus, Part.image Rec.channel] ⊆ ps) (hs : Only ps s0 s) : Only ps s0 (State.enterSegment s t e) := by
  unfold State.enterSegment
  extract_lets v1 v2 v3 v4
  try clear_value v1
  try clear_value v2
  have hv3 : Only ps s0 v3 := by
    unfold v3
    refine State.put_only (List.Subset.trans (by decide) hm) ?_
    refine State.put_only (List.Subset.trans (by decide) hm) ?_
    exact hs
  try clear_value v3
  have hv4 : Only ps s0 v4 := by
    unfold v4
    refine State.setTile_only (List.Subset.trans (by decide) hm) ?_
    exact hv3
  try clear_value v4
  refine State.raiseFrom_only (List.Subset.trans (by decide) hm) ?_
  exact hv4

theorem State.armStart_only {ps : List Part} {s0 : State} {s : State} {g : Nat}
    (hm : [Part.runs] ⊆ ps) (hs : Only ps s0 s) : Only ps s0 (State.armStart s g) := by
  unfold State.armStart
  extract_lets v1
  try clear_value v1
  split
  · refine Only.ite ?_ ?_
    · refine State.setGroup_only (List.Subset.trans (by decide) hm) ?_
      exact hs
    · exact hs
  · exact hs

theorem State.releaseTile_only {ps : List Part} {s0 : State} {s : State} {t : Nat}
    (hm : [Part.image Rec.biasStatus, Part.bias, Part.drive] ⊆ ps) (hs : Only ps s0 s) : Only ps s0 (State.releaseTile s t) := by
  unfold State.releaseTile
  extract_lets v1 v2 v3 v4
  have hv1 : Only ps s0 v1 := by
    unfold v1
    refine Only.foldl (fun x5 _ hx5 => ?_) _ ?_
    · refine State.releaseBias_only (List.Subset.trans (by decide) hm) ?_
      exact hx5
    · exact hs
  try clear_value v1
  try clear_value v2
  try clear_value v3
  try clear_value v4
  refine Only.setDrive (List.Subset.trans (by decide) hm) ?_
  exact hv1

theorem State.startTones_only {ps : List Part} {s0 : State} {s : State} {t : Nat} {base : Nat}
    (hm : [Part.drive] ⊆ ps) (hs : Only ps s0 s) : Only ps s0 (State.startTones s t base) := by
  unfold State.startTones
  refine Only.foldl (fun x1 _ hx1 => ?_) _ ?_
  · refine State.startTone_only (List.Subset.trans (by decide) hm) ?_
    refine State.startTone_only (List.Subset.trans (by decide) hm) ?_
    exact hx1
  · exact hs

theorem State.openLog_only {ps : List Part} {s0 : State} {s : State} {t : Nat} {seq : Nat}
    (hm : [Part.acq] ⊆ ps) (hs : Only ps s0 s) : Only ps s0 (State.openLog s t seq) := by
  unfold State.openLog
  extract_lets v1 v2 v3
  try clear_value v1
  try clear_value v2
  try clear_value v3
  split
  · extract_lets v4
    try clear_value v4
    refine State.setAcq_only (List.Subset.trans (by decide) hm) ?_
    exact hs

theorem State.enterShot_only {ps : List Part} {s0 : State} {s : State} {t : Nat} {seq : Nat} {cause : Option (Nat × Nat)}
    (hm : [Part.runs, Part.image Rec.runStatus, Part.drive, Part.shadows, Part.image Rec.timingSet, Part.image Rec.driveTone, Part.image Rec.probeTone, Part.image Rec.acqTone, Part.image Rec.biasIir, Part.image Rec.biasFir, Part.image Rec.histConfig, Part.image Rec.model, Part.loaded, Part.image Rec.matrixControl, Part.weights, Part.image Rec.weightControl, Part.readout, Part.bins, Part.image Rec.histStatus, Part.image Rec.xyStatus, Part.image Rec.biasStatus, Part.bias, Part.blocking, Part.out, Part.hatband, Part.image Rec.hatbandControl, Part.log, Part.image Rec.logStatus, Part.image Rec.channel, Part.acq] ⊆ ps) (hs : Only ps s0 s) : Only ps s0 (State.enterShot s t seq cause) := by
  unfold State.enterShot
  extract_lets v1 v2 v3 v4 v5 v6 v7
  try clear_value v1
  try clear_value v2
  have hv3 : Only ps s0 v3 := by
    unfold v3
    refine State.setTile_only (List.Subset.trans (by decide) hm) ?_
    exact hs
  try clear_value v3
  have hv4 : Only ps s0 v4 := by
    unfold v4
    refine State.put_only (List.Subset.trans (by decide) hm) ?_
    refine State.put_only (List.Subset.trans (by decide) hm) ?_
    exact hv3
  try clear_value v4
  have hv5 : Only ps s0 v5 := by
    unfold v5
    refine State.startTones_only (List.Subset.trans (by decide) hm) ?_
    refine State.boundary_only (List.Subset.trans (by decide) hm) ?_
    exact hv4
  try clear_value v5
  have hv6 : Only ps s0 v6 := by
    unfold v6
    refine State.newSegment_only (List.Subset.trans (by decide) hm) ?_
    refine Only.ite ?_ ?_
    · exact hv5
    · refine State.releaseTile_only (List.Subset.trans (by decide) hm) ?_
      exact hv5
  try clear_value v6
  have hv7 : Only ps s0 v7 := by
    unfold v7
    refine State.raiseFrom_only (List.Subset.trans (by decide) hm) ?_
    refine State.openLog_only (List.Subset.trans (by decide) hm) ?_
    exact hv6
  try clear_value v7
  refine Only.ite ?_ ?_
  · exact hv7
  · refine State.raise_only (List.Subset.trans (by decide) hm) ?_
    exact hv7

theorem State.rebase_only {ps : List Part} {s0 : State} {s : State} {g : Nat}
    (hm : [Part.drive, Part.bias, Part.acq, Part.runs] ⊆ ps) (hs : Only ps s0 s) : Only ps s0 (State.rebase s g) := by
  unfold State.rebase
  extract_lets v1 v2 v3
  try clear_value v1
  have hv2 : Only ps s0 v2 := by
    unfold v2
    refine Only.foldl (fun x4 _ hx4 => ?_) _ ?_
    · refine State.unprepare_only (List.Subset.trans (by decide) hm) ?_
      exact hx4
    · exact hs
  try clear_value v2
  try clear_value v3
  refine Only.ite ?_ ?_
  · refine State.setGroup_only (List.Subset.trans (by decide) hm) ?_
    exact hv2
  · exact hs

theorem State.startShot_only {ps : List Part} {s0 : State} {s : State} {g : Nat}
    (hm : [Part.drive, Part.bias, Part.acq, Part.runs, Part.image Rec.counters, Part.out, Part.hatband, Part.log, Part.image Rec.logStatus, Part.image Rec.runStatus, Part.image Rec.biasStatus, Part.image Rec.engineStatus, Part.engines, Part.shadows, Part.image Rec.timingSet, Part.image Rec.driveTone, Part.image Rec.probeTone, Part.image Rec.acqTone, Part.image Rec.biasIir, Part.image Rec.biasFir, Part.image Rec.histConfig, Part.image Rec.model, Part.loaded, Part.image Rec.matrixControl, Part.weights, Part.image Rec.weightControl, Part.readout, Part.bins, Part.image Rec.histStatus, Part.image Rec.xyStatus, Part.blocking, Part.image Rec.hatbandControl, Part.image Rec.channel] ⊆ ps) (hs : Only ps s0 s) : Only ps s0 (State.startShot s g) := by
  unfold State.startShot
  extract_lets v1 v2 v3 v4 v5
  have hv1 : Only ps s0 v1 := by
    unfold v1
    refine State.rebase_only (List.Subset.trans (by decide) hm) ?_
    exact hs
  try clear_value v1
  have hv2 : Only ps s0 v2 := by
    unfold v2
    refine Only.foldl (fun x6 _ hx6 => ?_) _ ?_
    · refine Only.ite ?_ ?_
      · exact hx6
      · refine State.prepareTile_only (List.Subset.trans (by decide) hm) ?_
        exact hx6
    · exact hv1
  try clear_value v2
  try clear_value v3
  try clear_value v4
  have hv5 : Only ps s0 v5 := by
    unfold v5
    refine State.setGroup_only (List.Subset.trans (by decide) hm) ?_
    exact hv2
  try clear_value v5
  refine Only.foldl (fun x7 _ hx7 => ?_) _ ?_
  · refine State.enterShot_only (List.Subset.trans (by decide) hm) ?_
    exact hx7
  · exact hv5

theorem State.leaveTile_only {ps : List Part} {s0 : State} {s : State} {t : Nat}
    (hm : [Part.out, Part.hatband, Part.image Rec.runStatus, Part.runs, Part.acq, Part.engines] ⊆ ps) (hs : Only ps s0 s) : Only ps s0 (State.leaveTile s t) := by
  unfold State.leaveTile
  extract_lets v1 v2 v3 v4
  have hv1 : Only ps s0 v1 := by
    unfold v1
    refine State.dropJump_only (List.Subset.trans (by decide) hm) ?_
    refine State.endLogs_only (List.Subset.trans (by decide) hm) ?_
    exact hs
  try clear_value v1
  try clear_value v2
  have hv3 : Only ps s0 v3 := by
    unfold v3
    refine State.setEngine_only (List.Subset.trans (by decide) hm) ?_
    exact hv1
  try clear_value v3
  try clear_value v4
  refine State.setTile_only (List.Subset.trans (by decide) hm) ?_
  exact hv3

theorem State.leaveShot_only {ps : List Part} {s0 : State} {s : State} {g : Nat}
    (hm : [Part.out, Part.hatband, Part.image Rec.runStatus, Part.runs, Part.acq, Part.engines] ⊆ ps) (hs : Only ps s0 s) : Only ps s0 (State.leaveShot s g) := by
  unfold State.leaveShot
  refine Only.foldl (fun x1 _ hx1 => ?_) _ ?_
  · refine State.leaveTile_only (List.Subset.trans (by decide) hm) ?_
    exact hx1
  · exact hs

theorem State.closeShot_only {ps : List Part} {s0 : State} {s : State} {g : Nat} {e : Nat}
    (hm : [Part.image Rec.capStatus, Part.capture, Part.out, Part.hatband, Part.image Rec.runStatus, Part.runs, Part.acq, Part.engines, Part.shadows, Part.image Rec.timingSet, Part.image Rec.driveTone, Part.image Rec.probeTone, Part.image Rec.acqTone, Part.image Rec.biasIir, Part.image Rec.biasFir, Part.image Rec.histConfig, Part.image Rec.model, Part.loaded, Part.drive, Part.image Rec.matrixControl, Part.weights, Part.image Rec.weightControl, Part.readout, Part.bins, Part.image Rec.histStatus, Part.image Rec.xyStatus, Part.image Rec.biasStatus, Part.bias, Part.blocking, Part.image Rec.engineStatus, Part.mailboxes, Part.log, Part.image Rec.logStatus, Part.host] ⊆ ps) (hs : Only ps s0 s) : Only ps s0 (State.closeShot s g e) := by
  unfold State.closeShot
  extract_lets v1 v2 v3 v4 v5 v6
  try clear_value v1
  have hv2 : Only ps s0 v2 := by
    unfold v2
    refine State.resumeCapture_only (List.Subset.trans (by decide) hm) ?_
    refine State.leaveShot_only (List.Subset.trans (by decide) hm) ?_
    exact hs
  try clear_value v2
  try clear_value v3
  have hv4 : Only ps s0 v4 := by
    unfold v4
    refine State.setGroup_only (List.Subset.trans (by decide) hm) ?_
    exact hv2
  try clear_value v4
  try clear_value v5
  have hv6 : Only ps s0 v6 := by
    unfold v6
    refine State.setGroup_only (List.Subset.trans (by decide) hm) ?_
    exact hv4
  try clear_value v6
  refine Only.ite ?_ ?_
  · refine State.endRun_only (List.Subset.trans (by decide) hm) ?_
    exact hv4
  · refine Only.ite ?_ ?_
    · refine State.stopEngines_only (List.Subset.trans (by decide) hm) ?_
      refine Only.foldl (fun x7 _ hx7 => ?_) _ ?_
      · refine State.put_only (List.Subset.trans (by decide) hm) ?_
        exact hx7
      · exact hv6
    · refine State.stopEngines_only (List.Subset.trans (by decide) hm) ?_
      refine State.armStart_only (List.Subset.trans (by decide) hm) ?_
      exact hv4

theorem State.takeJump_only {ps : List Part} {s0 : State} {s : State} {t : Nat} {j : Jump}
    (hm : [Part.image Rec.runStatus, Part.out, Part.hatband, Part.runs] ⊆ ps) (hs : Only ps s0 s) : Only ps s0 (State.takeJump s t j) := by
  unfold State.takeJump
  extract_lets v1 v2 v3 v4 v5
  try clear_value v1
  try clear_value v2
  have hv3 : Only ps s0 v3 := by
    unfold v3
    refine Only.ite ?_ ?_
    · refine State.count_only (List.Subset.trans (by decide) hm) ?_
      exact hs
    · exact hs
  try clear_value v3
  have hv4 : Only ps s0 v4 := by
    unfold v4
    refine Only.ite ?_ ?_
    · refine State.count_only (List.Subset.trans (by decide) hm) ?_
      exact hv3
    · exact hv3
  try clear_value v4
  try clear_value v5
  refine Only.ite ?_ ?_
  · refine State.raise_only (List.Subset.trans (by decide) hm) ?_
    refine State.count_only (List.Subset.trans (by decide) hm) ?_
    exact hs
  · refine State.setTile_only (List.Subset.trans (by decide) hm) ?_
    exact hv4

theorem State.joinRun_only {ps : List Part} {s0 : State} {s : State} {g : Nat} {t : Nat}
    (hm : [Part.runs, Part.engines, Part.image Rec.runStatus, Part.image Rec.counters, Part.blocking, Part.image Rec.biasStatus, Part.bias] ⊆ ps) (hs : Only ps s0 s) : Only ps s0 (State.joinRun s g t) := by
  unfold State.joinRun
  extract_lets v1 v2 v3 v4 v5 v6 v7 v8 v9
  try clear_value v1
  have hv2 : Only ps s0 v2 := by
    unfold v2
    refine State.setTile_only (List.Subset.trans (by decide) hm) ?_
    exact hs
  try clear_value v2
  try clear_value v3
  have hv4 : Only ps s0 v4 := by
    unfold v4
    refine State.setEngine_only (List.Subset.trans (by decide) hm) ?_
    exact hv2
  try clear_value v4
  have hv5 : Only ps s0 v5 := by
    unfold v5
    refine State.put_only (List.Subset.trans (by decide) hm) ?_
    refine State.put_only (List.Subset.trans (by decide) hm) ?_
    refine State.put_only (List.Subset.trans (by decide) hm) ?_
    exact hv4
  try clear_value v5
  have hv6 : Only ps s0 v6 := by
    unfold v6
    refine State.clearCounters_only (List.Subset.trans (by decide) hm) ?_
    exact hv5
  try clear_value v6
  try clear_value v7
  try clear_value v8
  have hv9 : Only ps s0 v9 := by
    unfold v9
    refine Only.setBlocking (List.Subset.trans (by decide) hm) ?_
    exact hv6
  try clear_value v9
  refine Only.foldl (fun x10 _ hx10 => ?_) _ ?_
  · refine State.putFlag_only (List.Subset.trans (by decide) hm) ?_
    refine State.setBias_only (List.Subset.trans (by decide) hm) ?_
    exact hx10
  · exact hv9

theorem State.initGroups_only {ps : List Part} {s0 : State} {s : State}
    (hm : [Part.image Rec.group] ⊆ ps) (hs : Only ps s0 s) : Only ps s0 (State.initGroups s) := by
  unfold State.initGroups
  refine Only.foldl (fun x1 _ hx1 => ?_) _ ?_
  · refine State.putFlag_only (List.Subset.trans (by decide) hm) ?_
    exact hx1
  · exact hs

theorem State.sendHalt_only {ps : List Part} {s0 : State} {s : State} {g : Nat}
    (hm : [Part.engines, Part.runs, Part.image Rec.runStatus, Part.acq] ⊆ ps) (hs : Only ps s0 s) : Only ps s0 (State.sendHalt s g) := by
  unfold State.sendHalt
  extract_lets v1 v2 v3
  have hv1 : Only ps s0 v1 := by
    unfold v1
    refine State.demandHalt_only (List.Subset.trans (by decide) hm) ?_
    refine Only.foldl (fun x4 _ hx4 => ?_) _ ?_
    · refine State.demandHalt_only (List.Subset.trans (by decide) hm) ?_
      exact hx4
    · exact hs
  try clear_value v1
  have hv2 : Only ps s0 v2 := by
    unfold v2
    refine Only.foldl (fun x5 _ hx5 => ?_) _ ?_
    · refine State.voidShot_only (List.Subset.trans (by decide) hm) ?_
      exact hx5
    · exact hv1
  try clear_value v2
  try clear_value v3
  refine State.setGroup_only (List.Subset.trans (by decide) hm) ?_
  exact hv2

theorem State.withdrawStop_only {ps : List Part} {s0 : State} {s : State} {g : Nat}
    (hm : [Part.engines, Part.runs] ⊆ ps) (hs : Only ps s0 s) : Only ps s0 (State.withdrawStop s g) := by
  unfold State.withdrawStop
  extract_lets v1 v2
  have hv1 : Only ps s0 v1 := by
    unfold v1
    refine Only.foldl (fun x3 _ hx3 => ?_) _ ?_
    · refine State.setEngine_only (List.Subset.trans (by decide) hm) ?_
      exact hx3
    · exact hs
  try clear_value v1
  try clear_value v2
  refine State.setGroup_only (List.Subset.trans (by decide) hm) ?_
  exact hv1

theorem State.resumeRun_only {ps : List Part} {s0 : State} {s : State} {g : Nat}
    (hm : [Part.runs, Part.image Rec.runStatus] ⊆ ps) (hs : Only ps s0 s) : Only ps s0 (State.resumeRun s g) := by
  unfold State.resumeRun
  extract_lets v1 v2 v3
  try clear_value v1
  have hv2 : Only ps s0 v2 := by
    unfold v2
    refine State.setGroup_only (List.Subset.trans (by decide) hm) ?_
    exact hs
  try clear_value v2
  have hv3 : Only ps s0 v3 := by
    unfold v3
    refine Only.foldl (fun x4 _ hx4 => ?_) _ ?_
    · refine State.put_only (List.Subset.trans (by decide) hm) ?_
      exact hx4
    · exact hv2
  try clear_value v3
  refine State.armStart_only (List.Subset.trans (by decide) hm) ?_
  exact hv3

theorem State.postJump_only {ps : List Part} {s0 : State} {s : State} {t : Nat} {j : Jump}
    (hm : [Part.runs] ⊆ ps) (hs : Only ps s0 s) : Only ps s0 (State.postJump s t j) := by
  unfold State.postJump
  extract_lets v1
  try clear_value v1
  refine State.setTile_only (List.Subset.trans (by decide) hm) ?_
  exact hs

end Machine

end Sys2Proof
end

