-- ==== Sys2Proof/Laws/FrameWords.lean ====
section
/-! SUPPORT. What each operation of Words.lean may change: one lemma an operation. -/

namespace Sys2Proof

open Machine

namespace Machine

theorem State.advance_only {ps : List Part} {s0 : State} {s : State} {t : Nat} {n : Nat}
    (hm : [Part.engines, Part.image Rec.engineStatus, Part.runs] ⊆ ps) (hs : Only ps s0 s) : Only ps s0 (State.advance s t n) := by
  unfold State.advance
  refine State.endInstance_only (List.Subset.trans (by decide) hm) ?_
  refine State.setTile_only (List.Subset.trans (by decide) hm) ?_
  exact hs

theorem State.endSegment_only {ps : List Part} {s0 : State} {s : State} {t : Nat}
    (hm : [Part.engines, Part.image Rec.engineStatus, Part.runs, Part.out, Part.hatband, Part.log, Part.image Rec.logStatus, Part.image Rec.runStatus, Part.drive, Part.bias, Part.image Rec.biasStatus, Part.acq] ⊆ ps) (hs : Only ps s0 s) : Only ps s0 (State.endSegment s t) := by
  unfold State.endSegment
  extract_lets v1 v2
  try clear_value v1
  have hv2 : Only ps s0 v2 := by
    unfold v2
    refine State.endInstance_only (List.Subset.trans (by decide) hm) ?_
    refine State.setTile_only (List.Subset.trans (by decide) hm) ?_
    exact hs
  try clear_value v2
  refine Only.ite ?_ ?_
  · refine State.choose_only (List.Subset.trans (by decide) hm) ?_
    exact hv2
  · exact hv2

theorem State.leaveChanged_only {ps : List Part} {s0 : State} {s : State} {t : Nat} {w : Nat} {e : RunEnd}
    (hm : [Part.image Rec.engineStatus, Part.engines, Part.runs, Part.out, Part.hatband, Part.log, Part.image Rec.logStatus, Part.image Rec.runStatus, Part.drive, Part.bias, Part.image Rec.biasStatus, Part.acq] ⊆ ps) (hs : Only ps s0 s) : Only ps s0 (State.leaveChanged s t w e) := by
  unfold State.leaveChanged
  split
  · refine State.beginWait_only (List.Subset.trans (by decide) hm) ?_
    exact hs
  · refine State.endInstance_only (List.Subset.trans (by decide) hm) ?_
    exact hs
  · refine Only.ite ?_ ?_
    · refine State.endSegment_only (List.Subset.trans (by decide) hm) ?_
      exact hs
    · refine State.advance_only (List.Subset.trans (by decide) hm) ?_
      exact hs
  · exact hs

theorem State.runChanged_only {ps : List Part} {s0 s : State} {t w a : Nat}
    (hm : [Part.image Rec.engineStatus, Part.engines, Part.runs, Part.out, Part.hatband, Part.log, Part.image Rec.logStatus, Part.image Rec.runStatus, Part.drive, Part.bias, Part.image Rec.biasStatus, Part.acq, Part.free] ⊆ ps)
    (hs : Only ps s0 s) : Only ps s0 (s.runChanged t w a) :=
  State.leaveChanged_only (List.Subset.trans (by decide) hm)
    (State.runFrom_only (List.Subset.trans (by decide) hm) 512 a false hs)

theorem State.perform_only {ps : List Part} {s0 s : State} {t w : Nat} {act : State → State}
    (hm : [Part.image Rec.engineStatus, Part.engines, Part.runs, Part.out, Part.hatband, Part.log, Part.image Rec.logStatus, Part.image Rec.runStatus, Part.drive, Part.bias, Part.image Rec.biasStatus, Part.acq, Part.free] ⊆ ps)
    (hs : Only ps s0 s) (hact : ∀ x, Only ps s0 x → Only ps s0 (act x)) : Only ps s0 (s.perform t w act) := by
  unfold State.perform
  exact Only.ite (State.runChanged_only hm hs) (hact s hs)

theorem State.dispatch_only {ps : List Part} {s0 s : State} {t : Nat} {o : Op} {act : Nat → State → State}
    (hm : [Part.image Rec.engineStatus, Part.engines, Part.runs, Part.out, Part.hatband, Part.log, Part.image Rec.logStatus, Part.image Rec.runStatus, Part.drive, Part.bias, Part.image Rec.biasStatus, Part.acq, Part.free] ⊆ ps)
    (hs : Only ps s0 s) (hact : ∀ w x, Only ps s0 x → Only ps s0 (act w x)) : Only ps s0 (s.dispatch t o act) := by
  unfold State.dispatch
  extract_lets w
  exact Only.ite (State.perform_only hm hs (hact w)) hs

theorem State.dispatchTimed_only {ps : List Part} {s0 s : State} {t : Nat} {o : Op} {act : Nat → Nat → State → State}
    (hm : [Part.image Rec.engineStatus, Part.engines, Part.runs, Part.out, Part.hatband, Part.log, Part.image Rec.logStatus, Part.image Rec.runStatus, Part.drive, Part.bias, Part.image Rec.biasStatus, Part.acq, Part.free] ⊆ ps)
    (hs : Only ps s0 s) (hact : ∀ w k x, Only ps s0 x → Only ps s0 (act w k x)) :
    Only ps s0 (s.dispatchTimed t o act) := by
  unfold State.dispatchTimed
  extract_lets w k
  exact Only.ite (Only.ite (State.programFault_only (List.Subset.trans (by decide) hm) hs)
    (Only.ite (State.perform_only hm hs (hact w k)) hs)) hs

theorem State.playPulse_only {ps : List Part} {s0 : State} {s : State} {t : Nat} {w : Nat} {tick : Nat} {n : Nat} {p : Pulse}
    (hm : [Part.out, Part.hatband, Part.log, Part.image Rec.logStatus, Part.runs, Part.image Rec.runStatus, Part.drive, Part.bias, Part.image Rec.biasStatus, Part.acq, Part.image Rec.engineStatus, Part.engines, Part.memory] ⊆ ps) (hs : Only ps s0 s) : Only ps s0 (State.playPulse s t w tick n p) := by
  unfold State.playPulse
  split
  · refine State.programFault_only (List.Subset.trans (by decide) hm) ?_
    exact hs
  · refine Only.ite ?_ ?_
    · refine State.advance_only (List.Subset.trans (by decide) hm) ?_
      exact hs
    · extract_lets v1
      try clear_value v1
      refine Only.ite ?_ ?_
      · refine State.beginWait_only (List.Subset.trans (by decide) hm) ?_
        exact hs
      · split
        · rename_i x2 ex2
          have hx2 : Only ps s0 x2 := by
            refine (congrArg (fun q => Only ps s0 (Prod.snd q)) ex2).mp ?_
            refine State.firstRow_only (List.Subset.trans (by decide) hm) ?_
            exact hs
          extract_lets v3
          try clear_value v3
          refine State.advance_only (List.Subset.trans (by decide) hm) ?_
          refine State.setTone_only (List.Subset.trans (by decide) hm) ?_
          exact hx2

theorem State.sendFrame_only {ps : List Part} {s0 : State} {s : State} {t : Nat} {w : Nat} {tick : Nat}
    (hm : [Part.out, Part.hatband, Part.log, Part.image Rec.logStatus, Part.runs, Part.image Rec.runStatus, Part.drive, Part.bias, Part.image Rec.biasStatus, Part.acq, Part.image Rec.engineStatus, Part.engines] ⊆ ps) (hs : Only ps s0 s) : Only ps s0 (State.sendFrame s t w tick) := by
  unfold State.sendFrame
  split
  · refine State.programFault_only (List.Subset.trans (by decide) hm) ?_
    exact hs
  · extract_lets v1 v2 v3
    try clear_value v1
    try clear_value v2
    try clear_value v3
    refine State.advance_only (List.Subset.trans (by decide) hm) ?_
    refine State.setTone_only (List.Subset.trans (by decide) hm) ?_
    exact hs

theorem State.sendBias_only {ps : List Part} {s0 : State} {s : State} {t : Nat} {w : Nat} {tick : Nat} {transit : Nat} {act : BiasAct}
    (hm : [Part.out, Part.hatband, Part.log, Part.image Rec.logStatus, Part.runs, Part.image Rec.runStatus, Part.drive, Part.bias, Part.image Rec.biasStatus, Part.acq, Part.image Rec.engineStatus, Part.engines, Part.image Rec.lateStatus] ⊆ ps) (hs : Only ps s0 s) : Only ps s0 (State.sendBias s t w tick transit act) := by
  unfold State.sendBias
  split
  · refine State.programFault_only (List.Subset.trans (by decide) hm) ?_
    exact hs
  · extract_lets v1 v2 v3 v4 v5 v6
    try clear_value v1
    try clear_value v2
    try clear_value v3
    try clear_value v4
    try clear_value v5
    try clear_value v6
    split
    · rename_i x7 ex7
      have hx7 : Only ps s0 x7 := by
        refine (congrArg (fun q => Only ps s0 (Prod.snd q)) ex7).mp ?_
        refine State.cross_only (List.Subset.trans (by decide) hm) ?_
        exact hs
      extract_lets v8 v9
      try clear_value v8
      have hv9 : Only ps s0 v9 := by
        unfold v9
        refine State.setBias_only (List.Subset.trans (by decide) hm) ?_
        exact hx7
      try clear_value v9
      refine State.advance_only (List.Subset.trans (by decide) hm) ?_
      refine State.noteArrival_only (List.Subset.trans (by decide) hm) ?_
      exact hv9

theorem State.noTone_only {ps : List Part} {s0 : State} {s : State} {t : Nat} {slot : Nat}
    (hm : [Part.out, Part.hatband, Part.image Rec.acqStatus, Part.runs] ⊆ ps) (hs : Only ps s0 s) : Only ps s0 (State.noTone s t slot) := by
  unfold State.noTone
  extract_lets v1
  have hv1 : Only ps s0 v1 := by
    unfold v1
    refine State.raise_only (List.Subset.trans (by decide) hm) ?_
    refine State.count_only (List.Subset.trans (by decide) hm) ?_
    exact hs
  try clear_value v1
  refine State.setTile_only (List.Subset.trans (by decide) hm) ?_
  exact hv1

theorem State.acquire_only {ps : List Part} {s0 : State} {s : State} {t : Nat} {w : Nat} {tick : Nat}
    (hm : [Part.engines, Part.image Rec.engineStatus, Part.runs, Part.out, Part.hatband, Part.image Rec.acqStatus, Part.acq] ⊆ ps) (hs : Only ps s0 s) : Only ps s0 (State.acquire s t w tick) := by
  unfold State.acquire
  extract_lets v1 v2 v3
  try clear_value v1
  try clear_value v2
  try clear_value v3
  split
  · refine State.advance_only (List.Subset.trans (by decide) hm) ?_
    refine State.noTone_only (List.Subset.trans (by decide) hm) ?_
    exact hs
  · extract_lets v4 v5
    try clear_value v4
    have hv5 : Only ps s0 v5 := by
      unfold v5
      refine State.setAcq_only (List.Subset.trans (by decide) hm) ?_
      exact hs
    try clear_value v5
    refine State.advance_only (List.Subset.trans (by decide) hm) ?_
    refine State.setTile_only (List.Subset.trans (by decide) hm) ?_
    exact hv5

theorem State.retimeTone_only {ps : List Part} {s0 : State} {s : State} {t : Nat} {tick : Nat} {probe : Bool} {u : Nat}
    (hm : [Part.drive] ⊆ ps) (hs : Only ps s0 s) : Only ps s0 (State.retimeTone s t tick probe u) := by
  unfold State.retimeTone
  extract_lets v1 v2 v3 v4 v5
  try clear_value v1
  try clear_value v2
  try clear_value v3
  try clear_value v4
  try clear_value v5
  refine State.setTone_only (List.Subset.trans (by decide) hm) ?_
  exact hs

theorem State.retimeOps_only {ps : List Part} {s0 : State} {s : State} {t : Nat} {tick : Nat} {c : Nat}
    (hm : [Part.bias] ⊆ ps) (hs : Only ps s0 s) : Only ps s0 (State.retimeOps s t tick c) := by
  unfold State.retimeOps
  extract_lets v1 v2 v3
  try clear_value v1
  try clear_value v2
  try clear_value v3
  refine State.setBias_only (List.Subset.trans (by decide) hm) ?_
  exact hs

theorem State.retimeWindows_only {ps : List Part} {s0 : State} {s : State} {t : Nat} {tick : Nat}
    (hm : [Part.acq] ⊆ ps) (hs : Only ps s0 s) : Only ps s0 (State.retimeWindows s t tick) := by
  unfold State.retimeWindows
  extract_lets v1 v2 v3
  try clear_value v1
  try clear_value v2
  try clear_value v3
  refine State.setAcq_only (List.Subset.trans (by decide) hm) ?_
  exact hs

theorem State.selectSet_only {ps : List Part} {s0 : State} {s : State} {t : Nat} {tick : Nat} {set : Nat}
    (hm : [Part.runs, Part.drive, Part.bias, Part.acq] ⊆ ps) (hs : Only ps s0 s) : Only ps s0 (State.selectSet s t tick set) := by
  unfold State.selectSet
  extract_lets v1 v2 v3 v4
  try clear_value v1
  have hv2 : Only ps s0 v2 := by
    unfold v2
    refine State.setTile_only (List.Subset.trans (by decide) hm) ?_
    exact hs
  try clear_value v2
  have hv3 : Only ps s0 v3 := by
    unfold v3
    refine Only.foldl (fun x5 _ hx5 => ?_) _ ?_
    · refine State.retimeTone_only (List.Subset.trans (by decide) hm) ?_
      refine State.retimeTone_only (List.Subset.trans (by decide) hm) ?_
      exact hx5
    · exact hv2
  try clear_value v3
  have hv4 : Only ps s0 v4 := by
    unfold v4
    refine Only.foldl (fun x6 _ hx6 => ?_) _ ?_
    · refine State.retimeOps_only (List.Subset.trans (by decide) hm) ?_
      exact hx6
    · exact hv3
  try clear_value v4
  refine State.retimeWindows_only (List.Subset.trans (by decide) hm) ?_
  exact hv4

theorem State.setMark_only {ps : List Part} {s0 : State} {s : State} {t : Nat} {tick : Int}
    (hm : [Part.runs] ⊆ ps) (hs : Only ps s0 s) : Only ps s0 (State.setMark s t tick) := by
  unfold State.setMark
  refine State.setTile_only (List.Subset.trans (by decide) hm) ?_
  exact hs

theorem State.takeLatch_only {ps : List Part} {s0 : State} {s : State} {t : Nat} {c : Nat} {h : Nat}
    (hm : [Part.runs] ⊆ ps) (hs : Only ps s0 s) : Only ps s0 (State.takeLatch s t c h) := by
  unfold State.takeLatch
  extract_lets v1 v2
  try clear_value v1
  have hv2 : Only ps s0 v2 := by
    unfold v2
    refine State.setTile_only (List.Subset.trans (by decide) hm) ?_
    exact hs
  try clear_value v2
  refine State.setMark_only (List.Subset.trans (by decide) hm) ?_
  exact hv2

theorem State.waitTimeout_only {ps : List Part} {s0 : State} {s : State} {t : Nat}
    (hm : [Part.out, Part.hatband, Part.image Rec.engineStatus, Part.runs, Part.log, Part.image Rec.logStatus] ⊆ ps) (hs : Only ps s0 s) : Only ps s0 (State.waitTimeout s t) := by
  unfold State.waitTimeout
  extract_lets v1
  have hv1 : Only ps s0 v1 := by
    unfold v1
    refine State.raise_only (List.Subset.trans (by decide) hm) ?_
    refine State.count_only (List.Subset.trans (by decide) hm) ?_
    exact hs
  try clear_value v1
  refine State.setMark_only (List.Subset.trans (by decide) hm) ?_
  refine State.report_only (List.Subset.trans (by decide) hm) ?_
  exact hv1

theorem State.branch_only {ps : List Part} {s0 : State} {s : State} {t : Nat} {index : Nat}
    (hm : [Part.engines, Part.image Rec.engineStatus, Part.runs] ⊆ ps) (hs : Only ps s0 s) : Only ps s0 (State.branch s t index) := by
  unfold State.branch
  refine State.advance_only (List.Subset.trans (by decide) hm) ?_
  exact hs

theorem State.goToFail_only {ps : List Part} {s0 : State} {s : State} {t : Nat} {w : Nat} {u : Nat}
    (hm : [Part.image Rec.engineStatus, Part.engines, Part.runs, Part.out, Part.hatband, Part.log, Part.image Rec.logStatus, Part.image Rec.runStatus, Part.drive, Part.bias, Part.image Rec.biasStatus, Part.acq, Part.free] ⊆ ps) (hs : Only ps s0 s) : Only ps s0 (State.goToFail s t w u) := by
  unfold State.goToFail
  extract_lets v1
  have hv1 : Only ps s0 v1 := by
    unfold v1
    refine State.count_only (List.Subset.trans (by decide) hm) ?_
    exact hs
  try clear_value v1
  refine Only.ite ?_ ?_
  · refine State.runChanged_only (List.Subset.trans (by decide) hm) ?_
    exact hv1
  · refine State.repeatWait_only (List.Subset.trans (by decide) hm) ?_
    exact hv1

theorem State.orderVoid_only {ps : List Part} {s0 : State} {s : State} {g : Nat}
    (hm : [Part.runs, Part.image Rec.runStatus, Part.acq, Part.engines] ⊆ ps) (hs : Only ps s0 s) : Only ps s0 (State.orderVoid s g) := by
  unfold State.orderVoid
  extract_lets v1
  have hv1 : Only ps s0 v1 := by
    unfold v1
    refine Only.foldl (fun x2 _ hx2 => ?_) _ ?_
    · refine State.voidShot_only (List.Subset.trans (by decide) hm) ?_
      exact hx2
    · exact hs
  try clear_value v1
  refine Only.foldl (fun x3 _ hx3 => ?_) _ ?_
  · refine Only.ite ?_ ?_
    · refine State.demandVoid_only (List.Subset.trans (by decide) hm) ?_
      exact hx3
    · exact hx3
  · exact hv1

theorem State.voidBarrier_only {ps : List Part} {s0 : State} {s : State} {g : Nat} {num : Nat} {partner : Bool}
    (hm : [Part.out, Part.hatband, Part.log, Part.image Rec.logStatus, Part.runs, Part.ports, Part.image Rec.runStatus, Part.acq, Part.engines] ⊆ ps) (hs : Only ps s0 s) : Only ps s0 (State.voidBarrier s g num partner) := by
  unfold State.voidBarrier
  extract_lets v1 v2 v3 v4 v5 v6
  have hv1 : Only ps s0 v1 := by
    unfold v1
    refine Only.foldl (fun x7 _ hx7 => ?_) _ ?_
    · refine State.raise_only (List.Subset.trans (by decide) hm) ?_
      exact hx7
    · exact hs
  try clear_value v1
  try clear_value v2
  have hv3 : Only ps s0 v3 := by
    unfold v3
    refine State.report_only (List.Subset.trans (by decide) hm) ?_
    exact hv1
  try clear_value v3
  try clear_value v4
  have hv5 : Only ps s0 v5 := by
    unfold v5
    refine State.setGroup_only (List.Subset.trans (by decide) hm) ?_
    exact hv3
  try clear_value v5
  have hv6 : Only ps s0 v6 := by
    unfold v6
    refine Only.ite ?_ ?_
    · refine Only.foldl (fun x8 _ hx8 => ?_) _ ?_
      · refine State.setPort_only (List.Subset.trans (by decide) hm) ?_
        exact hx8
      · exact hv5
    · exact hv5
  try clear_value v6
  refine State.orderVoid_only (List.Subset.trans (by decide) hm) ?_
  exact hv6

theorem State.failBarrier_only {ps : List Part} {s0 : State} {s : State} {g : Nat} {b : Barrier}
    (hm : [Part.out, Part.hatband, Part.log, Part.image Rec.logStatus, Part.runs, Part.ports, Part.image Rec.runStatus, Part.acq, Part.engines] ⊆ ps) (hs : Only ps s0 s) : Only ps s0 (State.failBarrier s g b) := by
  unfold State.failBarrier
  refine State.voidBarrier_only (List.Subset.trans (by decide) hm) ?_
  refine State.setGroup_only (List.Subset.trans (by decide) hm) ?_
  exact hs

theorem State.useArrivals_only {ps : List Part} {s0 : State} {s : State}
    (hm : [Part.ports] ⊆ ps) (hs : Only ps s0 s) : Only ps s0 (State.useArrivals s) := by
  unfold State.useArrivals
  refine Only.foldl (fun x1 _ hx1 => ?_) _ ?_
  · extract_lets v2
    try clear_value v2
    refine State.setPort_only (List.Subset.trans (by decide) hm) ?_
    exact hx1
  · exact hs

theorem State.releaseWith_only {ps : List Part} {s0 : State} {s : State} {g : Nat} {b : Barrier} {ps1 : List (Nat × Nat)}
    (hm : [Part.ports, Part.out, Part.hatband, Part.log, Part.image Rec.logStatus, Part.runs, Part.image Rec.runStatus, Part.acq, Part.engines] ⊆ ps) (hs : Only ps s0 s) : Only ps s0 (State.releaseWith s g b ps1) := by
  unfold State.releaseWith
  extract_lets v1 v2 v3 v4
  try clear_value v1
  try clear_value v2
  try clear_value v3
  have hv4 : Only ps s0 v4 := by
    unfold v4
    refine State.useArrivals_only (List.Subset.trans (by decide) hm) ?_
    exact hs
  try clear_value v4
  refine Only.ite ?_ ?_
  · refine State.failBarrier_only (List.Subset.trans (by decide) hm) ?_
    exact hv4
  · refine State.setGroup_only (List.Subset.trans (by decide) hm) ?_
    exact hv4

theorem State.settlePartner_only {ps : List Part} {s0 : State} {s : State} {g : Nat} {b : Barrier}
    (hm : [Part.ports, Part.out, Part.hatband, Part.log, Part.image Rec.logStatus, Part.runs, Part.image Rec.runStatus, Part.acq, Part.engines] ⊆ ps) (hs : Only ps s0 s) : Only ps s0 (State.settlePartner s g b) := by
  unfold State.settlePartner
  refine Only.ite ?_ ?_
  · exact hs
  · extract_lets v1 v2
    try clear_value v1
    have hv2 : Only ps s0 v2 := by
      unfold v2
      refine Only.foldl (fun x3 _ hx3 => ?_) _ ?_
      · refine State.setPort_only (List.Subset.trans (by decide) hm) ?_
        exact hx3
      · exact hs
    try clear_value v2
    split
    · refine State.releaseWith_only (List.Subset.trans (by decide) hm) ?_
      exact hv2
    · exact hv2

theorem State.settleBarrier_only {ps : List Part} {s0 : State} {s : State} {g : Nat} {num : Nat}
    (hm : [Part.ports, Part.out, Part.hatband, Part.log, Part.image Rec.logStatus, Part.runs, Part.image Rec.runStatus, Part.acq, Part.engines] ⊆ ps) (hs : Only ps s0 s) : Only ps s0 (State.settleBarrier s g num) := by
  unfold State.settleBarrier
  split
  · exact hs
  · refine Only.ite ?_ ?_
    · exact hs
    · refine Only.ite ?_ ?_
      · refine State.settlePartner_only (List.Subset.trans (by decide) hm) ?_
        exact hs
      · refine State.setGroup_only (List.Subset.trans (by decide) hm) ?_
        exact hs

theorem State.arrive_only {ps : List Part} {s0 : State} {s : State} {g : Nat} {t : Nat} {w : Nat}
    (hm : [Part.runs, Part.image Rec.engineStatus, Part.engines, Part.out, Part.hatband, Part.log, Part.image Rec.logStatus, Part.image Rec.runStatus, Part.drive, Part.bias, Part.image Rec.biasStatus, Part.acq, Part.ports] ⊆ ps) (hs : Only ps s0 s) : Only ps s0 (State.arrive s g t w) := by
  unfold State.arrive
  extract_lets v1 v2 v3 v4 v5 v6 v7 v8
  try clear_value v1
  try clear_value v2
  try clear_value v3
  try clear_value v4
  try clear_value v5
  have hv6 : Only ps s0 v6 := by
    unfold v6
    refine State.setGroup_only (List.Subset.trans (by decide) hm) ?_
    exact hs
  try clear_value v6
  try clear_value v7
  have hv8 : Only ps s0 v8 := by
    unfold v8
    refine State.beginWait_only (List.Subset.trans (by decide) hm) ?_
    refine State.setTile_only (List.Subset.trans (by decide) hm) ?_
    exact hv6
  try clear_value v8
  refine Only.ite ?_ ?_
  · refine State.programFault_only (List.Subset.trans (by decide) hm) ?_
    exact hs
  · refine State.settleBarrier_only (List.Subset.trans (by decide) hm) ?_
    exact hv8

theorem State.releaseTileFrom_only {ps : List Part} {s0 : State} {s : State} {t : Nat} {num : Nat} {release : Nat}
    (hm : [Part.engines, Part.image Rec.engineStatus, Part.runs] ⊆ ps) (hs : Only ps s0 s) : Only ps s0 (State.releaseTileFrom s t num release) := by
  unfold State.releaseTileFrom
  extract_lets v1
  try clear_value v1
  refine Only.ite ?_ ?_
  · refine State.advance_only (List.Subset.trans (by decide) hm) ?_
    refine State.setMark_only (List.Subset.trans (by decide) hm) ?_
    refine State.setTile_only (List.Subset.trans (by decide) hm) ?_
    exact hs
  · exact hs

theorem State.settleAll_only {ps : List Part} {s0 : State} {s : State}
    (hm : [Part.ports, Part.out, Part.hatband, Part.log, Part.image Rec.logStatus, Part.runs, Part.image Rec.runStatus, Part.acq, Part.engines] ⊆ ps) (hs : Only ps s0 s) : Only ps s0 (State.settleAll s) := by
  unfold State.settleAll
  refine Only.foldl (fun x1 _ hx1 => ?_) _ ?_
  · refine Only.foldl (fun x2 _ hx2 => ?_) _ ?_
    · refine State.settleBarrier_only (List.Subset.trans (by decide) hm) ?_
      exact hx2
    · exact hx1
  · exact hs

end Machine

end Sys2Proof
end

