-- ==== Sys2Proof/Laws/FrameHatband.lean ====
section
/-! SUPPORT. What each operation of Hatband.lean may change: one lemma an operation. -/

namespace Sys2Proof

open Machine

namespace Machine

theorem State.setHatband_only {ps : List Part} {s0 : State} {s : State} {x : Hatband}
    (hm : [Part.hatband] ⊆ ps) (hs : Only ps s0 s) : Only ps s0 (State.setHatband s x) := by
  unfold State.setHatband
  refine Only.setHatband (List.Subset.trans (by decide) hm) ?_
  exact hs

theorem State.latchHeld_only {ps : List Part} {s0 : State} {s : State} {c : Nat} {held : Bool}
    (hm : [Part.image Rec.channelStatus] ⊆ ps) (hs : Only ps s0 s) : Only ps s0 (State.latchHeld s c held) := by
  unfold State.latchHeld
  refine Only.ite ?_ ?_
  · refine State.count_only (List.Subset.trans (by decide) hm) ?_
    exact hs
  · exact hs

theorem State.latchSwitch_only {ps : List Part} {s0 : State} {s : State} {g : Nat} {on : Bool}
    (hm : [Part.hatband] ⊆ ps) (hs : Only ps s0 s) : Only ps s0 (State.latchSwitch s g on) := by
  unfold State.latchSwitch
  refine Only.ite ?_ ?_
  · exact hs
  · refine State.setHatband_only (List.Subset.trans (by decide) hm) ?_
    exact hs

theorem State.activate_only {ps : List Part} {s0 : State} {s : State} {e : Event}
    (hm : [Part.image Rec.channelStatus, Part.hatband] ⊆ ps) (hs : Only ps s0 s) : Only ps s0 (State.activate s e) := by
  unfold State.activate
  extract_lets v1 v2 v3 v4 v5 v6
  try clear_value v1
  have hv2 : Only ps s0 v2 := by
    unfold v2
    refine State.count_only (List.Subset.trans (by decide) hm) ?_
    exact hs
  try clear_value v2
  have hv3 : Only ps s0 v3 := by
    unfold v3
    refine State.put_only (List.Subset.trans (by decide) hm) ?_
    refine State.put_only (List.Subset.trans (by decide) hm) ?_
    refine State.put_only (List.Subset.trans (by decide) hm) ?_
    exact hv2
  try clear_value v3
  try clear_value v4
  try clear_value v5
  have hv6 : Only ps s0 v6 := by
    unfold v6
    refine State.setHatband_only (List.Subset.trans (by decide) hm) ?_
    exact hv3
  try clear_value v6
  refine State.latchHeld_only (List.Subset.trans (by decide) hm) ?_
  refine Only.foldl (fun x7 _ hx7 => ?_) _ ?_
  · refine State.latchSwitch_only (List.Subset.trans (by decide) hm) ?_
    exact hx7
  · exact hv6

theorem State.arriveAt_only {ps : List Part} {s0 : State} {s : State} {c : Nat} {l : List Event}
    (hm : [Part.image Rec.channelStatus, Part.hatband] ⊆ ps) (hs : Only ps s0 s) : Only ps s0 (State.arriveAt s c l) := by
  unfold State.arriveAt
  extract_lets v1
  try clear_value v1
  refine Only.ite ?_ ?_
  · exact hs
  · refine Only.ite ?_ ?_
    · refine State.count_only (List.Subset.trans (by decide) hm) ?_
      exact hs
    · refine Only.ite ?_ ?_
      · refine State.count_only (List.Subset.trans (by decide) hm) ?_
        exact hs
      · refine State.activate_only (List.Subset.trans (by decide) hm) ?_
        exact hs

theorem State.deliverEngine_only {ps : List Part} {s0 : State} {s : State} {e : Event} {t : Nat}
    (hm : [Part.runs] ⊆ ps) (hs : Only ps s0 s) : Only ps s0 (State.deliverEngine s e t) := by
  unfold State.deliverEngine
  extract_lets v1
  try clear_value v1
  refine Only.ite ?_ ?_
  · exact hs
  · refine State.setTile_only (List.Subset.trans (by decide) hm) ?_
    exact hs

theorem State.deliverAttn_only {ps : List Part} {s0 : State} {s : State} {c : Nat} {x : Nat} {j : Nat}
    (hm : [Part.image Rec.engineStatus, Part.engines] ⊆ ps) (hs : Only ps s0 s) : Only ps s0 (State.deliverAttn s c x j) := by
  unfold State.deliverAttn
  refine Only.ite ?_ ?_
  · exact hs
  · refine Only.ite ?_ ?_
    · refine State.count_only (List.Subset.trans (by decide) hm) ?_
      exact hs
    · refine State.setEngine_only (List.Subset.trans (by decide) hm) ?_
      exact hs

theorem State.deliverJump_only {ps : List Part} {s0 : State} {s : State} {e : Event} {t : Nat}
    (hm : [Part.runs] ⊆ ps) (hs : Only ps s0 s) : Only ps s0 (State.deliverJump s e t) := by
  unfold State.deliverJump
  refine Only.ite ?_ ?_
  · exact hs
  · refine State.postJump_only (List.Subset.trans (by decide) hm) ?_
    exact hs

theorem State.deliverSnapshot_only {ps : List Part} {s0 : State} {s : State} {e : Event} {t : Nat}
    (hm : [Part.image Rec.acqStatus, Part.acq] ⊆ ps) (hs : Only ps s0 s) : Only ps s0 (State.deliverSnapshot s e t) := by
  unfold State.deliverSnapshot
  refine Only.ite ?_ ?_
  · exact hs
  · refine State.startSnapshot_only (List.Subset.trans (by decide) hm) ?_
    exact hs

theorem State.deliverStart_only {ps : List Part} {s0 : State} {s : State} {e : Event} {g : Nat}
    (hm : [Part.runs] ⊆ ps) (hs : Only ps s0 s) : Only ps s0 (State.deliverStart s e g) := by
  unfold State.deliverStart
  extract_lets v1
  try clear_value v1
  refine Only.ite ?_ ?_
  · exact hs
  · refine State.armStart_only (List.Subset.trans (by decide) hm) ?_
    refine State.setGroup_only (List.Subset.trans (by decide) hm) ?_
    exact hs

theorem State.deliverTrig_only {ps : List Part} {s0 : State} {s : State} {c : Nat} {i : Nat}
    (hm : [Part.out, Part.hatband] ⊆ ps) (hs : Only ps s0 s) : Only ps s0 (State.deliverTrig s c i) := by
  unfold State.deliverTrig
  refine Only.ite ?_ ?_
  · exact hs
  · extract_lets v1 v2 v3 v4
    try clear_value v1
    have hv2 : Only ps s0 v2 := by
      unfold v2
      refine Only.ite ?_ ?_
      · exact hs
      · refine State.emit_only (List.Subset.trans (by decide) hm) ?_
        exact hs
    try clear_value v2
    try clear_value v3
    try clear_value v4
    refine State.setHatband_only (List.Subset.trans (by decide) hm) ?_
    exact hv2

theorem State.deliverCount_only {ps : List Part} {s0 : State} {s : State} {e : Event} {k : Nat}
    (hm : [Part.image Rec.eventCounter] ⊆ ps) (hs : Only ps s0 s) : Only ps s0 (State.deliverCount s e k) := by
  unfold State.deliverCount
  refine Only.ite ?_ ?_
  · refine State.count_only (List.Subset.trans (by decide) hm) ?_
    exact hs
  · exact hs

theorem State.deliverStream_only {ps : List Part} {s0 : State} {s : State} {e : Event} {p : Nat} {j : Nat}
    (hm : [Part.ports] ⊆ ps) (hs : Only ps s0 s) : Only ps s0 (State.deliverStream s e p j) := by
  unfold State.deliverStream
  refine Only.ite ?_ ?_
  · exact hs
  · refine State.setPort_only (List.Subset.trans (by decide) hm) ?_
    exact hs

theorem State.deliverMonitor_only {ps : List Part} {s0 : State} {s : State} {e : Event}
    (hm : [Part.hatband] ⊆ ps) (hs : Only ps s0 s) : Only ps s0 (State.deliverMonitor s e) := by
  unfold State.deliverMonitor
  extract_lets v1 v2 v3
  try clear_value v1
  have hv2 : Only ps s0 v2 := by
    unfold v2
    refine Only.ite ?_ ?_
    · refine State.setHatband_only (List.Subset.trans (by decide) hm) ?_
      exact hs
    · exact hs
  try clear_value v2
  try clear_value v3
  refine Only.ite ?_ ?_
  · refine State.setHatband_only (List.Subset.trans (by decide) hm) ?_
    exact hv2
  · exact hv2

theorem State.deliver_only {ps : List Part} {s0 : State} {s : State} {e : Event}
    (hm : [Part.image Rec.channelStatus, Part.image Rec.acqStatus, Part.acq, Part.runs, Part.image Rec.engineStatus, Part.engines, Part.out, Part.hatband, Part.image Rec.eventCounter, Part.ports] ⊆ ps) (hs : Only ps s0 s) : Only ps s0 (State.deliver s e) := by
  unfold State.deliver
  extract_lets v1 v2 v3 v4 v5 v6 v7
  have hv1 : Only ps s0 v1 := by
    unfold v1
    refine State.latchHeld_only (List.Subset.trans (by decide) hm) ?_
    refine State.count_only (List.Subset.trans (by decide) hm) ?_
    exact hs
  try clear_value v1
  have hv2 : Only ps s0 v2 := by
    unfold v2
    refine Only.foldl (fun x8 _ hx8 => ?_) _ ?_
    · refine State.deliverSnapshot_only (List.Subset.trans (by decide) hm) ?_
      refine State.deliverJump_only (List.Subset.trans (by decide) hm) ?_
      refine State.deliverEngine_only (List.Subset.trans (by decide) hm) ?_
      exact hx8
    · exact hv1
  try clear_value v2
  have hv3 : Only ps s0 v3 := by
    unfold v3
    refine Only.foldl (fun x9 _ hx9 => ?_) _ ?_
    · refine Only.foldl (fun x10 _ hx10 => ?_) _ ?_
      · refine State.deliverAttn_only (List.Subset.trans (by decide) hm) ?_
        exact hx10
      · exact hx9
    · exact hv2
  try clear_value v3
  have hv4 : Only ps s0 v4 := by
    unfold v4
    refine Only.foldl (fun x11 _ hx11 => ?_) _ ?_
    · refine State.deliverStart_only (List.Subset.trans (by decide) hm) ?_
      exact hx11
    · exact hv3
  try clear_value v4
  have hv5 : Only ps s0 v5 := by
    unfold v5
    refine Only.foldl (fun x12 _ hx12 => ?_) _ ?_
    · refine State.deliverTrig_only (List.Subset.trans (by decide) hm) ?_
      exact hx12
    · exact hv4
  try clear_value v5
  have hv6 : Only ps s0 v6 := by
    unfold v6
    refine Only.foldl (fun x13 _ hx13 => ?_) _ ?_
    · refine State.deliverCount_only (List.Subset.trans (by decide) hm) ?_
      exact hx13
    · exact hv5
  try clear_value v6
  have hv7 : Only ps s0 v7 := by
    unfold v7
    refine Only.foldl (fun x14 _ hx14 => ?_) _ ?_
    · refine Only.foldl (fun x15 _ hx15 => ?_) _ ?_
      · refine State.deliverStream_only (List.Subset.trans (by decide) hm) ?_
        exact hx15
      · exact hx14
    · exact hv6
  try clear_value v7
  refine State.deliverMonitor_only (List.Subset.trans (by decide) hm) ?_
  exact hv7

theorem State.setTrig_only {ps : List Part} {s0 : State} {s : State} {i : Nat} {x : Trig}
    (hm : [Part.hatband] ⊆ ps) (hs : Only ps s0 s) : Only ps s0 (State.setTrig s i x) := by
  unfold State.setTrig
  refine State.setHatband_only (List.Subset.trans (by decide) hm) ?_
  exact hs

theorem State.trigFault_only {ps : List Part} {s0 : State} {s : State} {i : Nat} {p : Nat}
    (hm : [Part.log, Part.image Rec.logStatus, Part.out, Part.hatband] ⊆ ps) (hs : Only ps s0 s) : Only ps s0 (State.trigFault s i p) := by
  unfold State.trigFault
  refine State.report_only (List.Subset.trans (by decide) hm) ?_
  refine State.raise_only (List.Subset.trans (by decide) hm) ?_
  exact hs

theorem State.acceptEdge_only {ps : List Part} {s0 : State} {s : State} {i : Nat}
    (hm : [Part.image Rec.trigInStatus, Part.out, Part.hatband] ⊆ ps) (hs : Only ps s0 s) : Only ps s0 (State.acceptEdge s i) := by
  unfold State.acceptEdge
  extract_lets v1 v2 v3
  try clear_value v1
  have hv2 : Only ps s0 v2 := by
    unfold v2
    refine State.count_only (List.Subset.trans (by decide) hm) ?_
    refine State.put_only (List.Subset.trans (by decide) hm) ?_
    exact hs
  try clear_value v2
  try clear_value v3
  refine State.raise_only (List.Subset.trans (by decide) hm) ?_
  refine State.setTrig_only (List.Subset.trans (by decide) hm) ?_
  exact hv2

theorem State.dropEdge_only {ps : List Part} {s0 : State} {s : State} {i : Nat}
    (hm : [Part.image Rec.trigInStatus, Part.log, Part.image Rec.logStatus, Part.out, Part.hatband] ⊆ ps) (hs : Only ps s0 s) : Only ps s0 (State.dropEdge s i) := by
  unfold State.dropEdge
  extract_lets v1 v2
  have hv1 : Only ps s0 v1 := by
    unfold v1
    refine State.count_only (List.Subset.trans (by decide) hm) ?_
    exact hs
  try clear_value v1
  try clear_value v2
  refine Only.ite ?_ ?_
  · exact hv1
  · refine State.trigFault_only (List.Subset.trans (by decide) hm) ?_
    refine State.setTrig_only (List.Subset.trans (by decide) hm) ?_
    exact hv1

end Machine

end Sys2Proof
end

