-- ==== Sys2Proof/Laws/FrameUluforam.lean ====
section
/-! SUPPORT. What each operation of Uluforam.lean may change: one lemma an operation. -/

namespace Sys2Proof

open Machine

namespace Machine

theorem State.flips_only {ps : List Part} {s0 : State} {s : State} {n : Nat}
    (hm : [Part.free] ⊆ ps) (hs : Only ps s0 s) : Only ps s0 (State.flips s n).2 := by
  unfold State.flips
  split
  · rename_i x1 ex1
    have hx1 : Only ps s0 x1 := by
      refine (congrArg (fun q => Only ps s0 (Prod.snd q)) ex1).mp ?_
      refine State.free_only (List.Subset.trans (by decide) hm) ?_
      exact hs
    dsimp only
    exact hx1

theorem State.injectLane_only {ps : List Part} {s0 : State} {s : State} {p : Nat} {l : Nat}
    (hm : [Part.free, Part.ports] ⊆ ps) (hs : Only ps s0 s) : Only ps s0 (State.injectLane s p l).2 := by
  unfold State.injectLane
  extract_lets v1 v2
  try clear_value v1
  try clear_value v2
  split
  · rename_i x3 ex3
    have hx3 : Only ps s0 x3 := by
      refine (congrArg (fun q => Only ps s0 (Prod.snd q)) ex3).mp ?_
      split
      · dsimp only
        exact hs
      · refine State.flips_only (List.Subset.trans (by decide) hm) ?_
        refine State.setPort_only (List.Subset.trans (by decide) hm) ?_
        exact hs
    split
    · split
      · rename_i x4 ex4
        have hx4 : Only ps s0 x4 := by
          refine (congrArg (fun q => Only ps s0 (Prod.snd q)) ex4).mp ?_
          refine State.free_only (List.Subset.trans (by decide) hm) ?_
          exact hx3
        split
        · rename_i x5 ex5
          have hx5 : Only ps s0 x5 := by
            refine (congrArg (fun q => Only ps s0 (Prod.snd q)) ex5).mp ?_
            refine State.flips_only (List.Subset.trans (by decide) hm) ?_
            exact hx4
          dsimp only
          exact hx5
    · dsimp only
      exact hx3

theorem State.sendBlock_only {ps : List Part} {s0 : State} {s : State} {p : Nat} {header : Nat} {payload : Nat} {l : Nat}
    (hm : [Part.free, Part.ports] ⊆ ps) (hs : Only ps s0 s) : Only ps s0 (State.sendBlock s p header payload l).2 := by
  unfold State.sendBlock
  split
  · split
    · rename_i x1 ex1
      have hx1 : Only ps s0 x1 := by
        refine (congrArg (fun q => Only ps s0 (Prod.snd q)) ex1).mp ?_
        refine State.injectLane_only (List.Subset.trans (by decide) hm) ?_
        refine State.setPort_only (List.Subset.trans (by decide) hm) ?_
        exact hs
      dsimp only
      exact hx1

theorem State.sendBlocks_only {ps : List Part} {s0 : State} {p header payload : Nat} :
    ∀ (ls : List Nat) {s : State}, [Part.ports, Part.free] ⊆ ps → Only ps s0 s → Only ps s0 (s.sendBlocks p header payload ls).2
  | [], _, _, hs => hs
  | l :: ls, s, hm, hs => State.sendBlocks_only (header := header) (payload := payload) ls hm
      (State.sendBlock_only (header := header) (payload := payload) (l := l) (List.Subset.trans (by decide) hm) hs)

theorem State.sendSlot_only {ps : List Part} {s0 : State} {s : State} {p : Nat} {header : Nat} {payload : Nat}
    (hm : [Part.ports, Part.free, Part.out] ⊆ ps) (hs : Only ps s0 s) : Only ps s0 (State.sendSlot s p header payload) := by
  unfold State.sendSlot
  have h := State.sendBlocks_only (p := p) (header := header) (payload := payload) (List.range 8)
    (List.Subset.trans (by decide) hm) hs
  generalize s.sendBlocks p header payload (List.range 8) = r at h ⊢
  obtain ⟨blocks, u⟩ := r
  exact State.emit_only (List.Subset.trans (by decide) hm) h

theorem State.failSwap_only {ps : List Part} {s0 : State} {s : State} {p : Nat}
    (hm : [Part.image Rec.ulpStatus, Part.ports, Part.mailboxes, Part.log, Part.image Rec.logStatus, Part.out, Part.hatband, Part.host] ⊆ ps) (hs : Only ps s0 s) : Only ps s0 (State.failSwap s p) := by
  unfold State.failSwap
  refine Only.ite ?_ ?_
  · extract_lets v1 v2 v3
    have hv1 : Only ps s0 v1 := by
      unfold v1
      refine State.putFlag_only (List.Subset.trans (by decide) hm) ?_
      refine State.putFlag_only (List.Subset.trans (by decide) hm) ?_
      exact hs
    try clear_value v1
    try clear_value v2
    have hv3 : Only ps s0 v3 := by
      unfold v3
      refine State.setPort_only (List.Subset.trans (by decide) hm) ?_
      exact hv1
    try clear_value v3
    refine State.finishAll_only (List.Subset.trans (by decide) hm) ?_
    exact hv3
  · exact hs

theorem State.setAlign_only {ps : List Part} {s0 : State} {s : State} {p : Nat} {l : Nat} {a : LaneAlign}
    (hm : [Part.ports] ⊆ ps) (hs : Only ps s0 s) : Only ps s0 (State.setAlign s p l a) := by
  unfold State.setAlign
  refine State.setPort_only (List.Subset.trans (by decide) hm) ?_
  exact hs

theorem State.rxDown_only {ps : List Part} {s0 : State} {s : State} {p : Nat} {state : Nat}
    (hm : [Part.image Rec.ulpStatus, Part.ports, Part.mailboxes, Part.log, Part.image Rec.logStatus, Part.out, Part.hatband, Part.host, Part.clock, Part.image Rec.timeStatus] ⊆ ps) (hs : Only ps s0 s) : Only ps s0 (State.rxDown s p state) := by
  unfold State.rxDown
  extract_lets v1 v2 v3 v4 v5
  try clear_value v1
  have hv2 : Only ps s0 v2 := by
    unfold v2
    refine State.put_only (List.Subset.trans (by decide) hm) ?_
    refine State.put_only (List.Subset.trans (by decide) hm) ?_
    exact hs
  try clear_value v2
  try clear_value v3
  have hv4 : Only ps s0 v4 := by
    unfold v4
    refine State.setPort_only (List.Subset.trans (by decide) hm) ?_
    exact hv2
  try clear_value v4
  have hv5 : Only ps s0 v5 := by
    unfold v5
    refine State.failSwap_only (List.Subset.trans (by decide) hm) ?_
    exact hv4
  try clear_value v5
  refine Only.ite ?_ ?_
  · refine State.holdover_only (List.Subset.trans (by decide) hm) ?_
    exact hv5
  · exact hv5

theorem State.realign_only {ps : List Part} {s0 : State} {s : State} {p : Nat}
    (hm : [Part.image Rec.ulpStatus, Part.ports, Part.mailboxes, Part.log, Part.image Rec.logStatus, Part.out, Part.hatband, Part.host, Part.clock, Part.image Rec.timeStatus] ⊆ ps) (hs : Only ps s0 s) : Only ps s0 (State.realign s p) := by
  unfold State.realign
  extract_lets v1 v2
  try clear_value v1
  have hv2 : Only ps s0 v2 := by
    unfold v2
    refine State.rxDown_only (List.Subset.trans (by decide) hm) ?_
    exact hs
  try clear_value v2
  refine Only.ite ?_ ?_
  · refine Only.ite ?_ ?_
    · refine State.raise_only (List.Subset.trans (by decide) hm) ?_
      exact hv2
    · exact hv2
  · exact hs

theorem State.lockLane_only {ps : List Part} {s0 : State} {s : State} {p : Nat} {l : Nat}
    (hm : [Part.ports, Part.image Rec.ulpStatus] ⊆ ps) (hs : Only ps s0 s) : Only ps s0 (State.lockLane s p l) := by
  unfold State.lockLane
  extract_lets v1 v2 v3
  try clear_value v1
  have hv2 : Only ps s0 v2 := by
    unfold v2
    refine State.setPort_only (List.Subset.trans (by decide) hm) ?_
    exact hs
  try clear_value v2
  have hv3 : Only ps s0 v3 := by
    unfold v3
    refine State.put_only (List.Subset.trans (by decide) hm) ?_
    exact hv2
  try clear_value v3
  refine Only.ite ?_ ?_
  · refine State.put_only (List.Subset.trans (by decide) hm) ?_
    exact hv3
  · exact hv3

theorem State.clearMismatch_only {ps : List Part} {s0 : State} {s : State} {p : Nat} {n : Nat}
    (hm : [Part.image Rec.ulpStatus, Part.ports] ⊆ ps) (hs : Only ps s0 s) : Only ps s0 (State.clearMismatch s p n) := by
  unfold State.clearMismatch
  split
  · refine Only.ite ?_ ?_
    · refine State.putFlag_only (List.Subset.trans (by decide) hm) ?_
      refine State.setPort_only (List.Subset.trans (by decide) hm) ?_
      exact hs
    · exact hs
  · exact hs

theorem State.startSuperframe_only {ps : List Part} {s0 : State} {s : State} {p : Nat} {n : Nat}
    (hm : [Part.image Rec.ulpStatus, Part.ports, Part.clock, Part.free, Part.out] ⊆ ps) (hs : Only ps s0 s) : Only ps s0 (State.startSuperframe s p n) := by
  unfold State.startSuperframe
  extract_lets v1 v2 v3 v4 v5 v6 v7 v8 v9 v10 v11
  have hv1 : Only ps s0 v1 := by
    unfold v1
    refine State.put_only (List.Subset.trans (by decide) hm) ?_
    refine State.clearMismatch_only (List.Subset.trans (by decide) hm) ?_
    exact hs
  try clear_value v1
  try clear_value v2
  try clear_value v3
  have hv5 : Only ps s0 v5 := by
    unfold v5
    refine State.setClock_only (List.Subset.trans (by decide) hm) (.inr rfl) (.inr rfl) (.inr ⟨rfl, rfl⟩) ?_
    exact hv1
  try clear_value v5
  try clear_value v6
  try clear_value v7
  try clear_value v8
  have hv9 : Only ps s0 v9 := by
    unfold v9
    refine State.setPort_only (List.Subset.trans (by decide) hm) ?_
    exact hv5
  try clear_value v9
  have hv10 : Only ps s0 v10 := by
    unfold v10
    refine State.sendSlot_only (List.Subset.trans (by decide) hm) ?_
    exact hv9
  try clear_value v10
  try clear_value v11
  refine State.setPort_only (List.Subset.trans (by decide) hm) ?_
  exact hv10

theorem State.takeAck_only {ps : List Part} {s0 : State} {s : State} {p : Nat} {ack : Nat} {nak : Bool}
    (hm : [Part.ports, Part.image Rec.ulpStatus] ⊆ ps) (hs : Only ps s0 s) : Only ps s0 (State.takeAck s p ack nak) := by
  unfold State.takeAck
  extract_lets v1
  try clear_value v1
  split
  · exact hs
  · extract_lets v2 v3
    try clear_value v2
    have hv3 : Only ps s0 v3 := by
      unfold v3
      refine State.setPort_only (List.Subset.trans (by decide) hm) ?_
      exact hs
    try clear_value v3
    refine Only.ite ?_ ?_
    · refine State.count_only (List.Subset.trans (by decide) hm) ?_
      exact hv3
    · exact hv3

theorem State.nextCell_only {ps : List Part} {s0 : State} {s : State} {p : Nat}
    (hm : [Part.ports, Part.free, Part.out] ⊆ ps) (hs : Only ps s0 s) : Only ps s0 (State.nextCell s p) := by
  unfold State.nextCell
  extract_lets v1 v2 v3
  try clear_value v1
  have hv2 : Only ps s0 v2 := by
    unfold v2
    refine State.setPort_only (List.Subset.trans (by decide) hm) ?_
    exact hs
  try clear_value v2
  try clear_value v3
  split
  · refine State.sendSlot_only (List.Subset.trans (by decide) hm) ?_
    refine State.setPort_only (List.Subset.trans (by decide) hm) ?_
    exact hv2
  · refine Only.ite ?_ ?_
    · extract_lets v4
      try clear_value v4
      refine State.sendSlot_only (List.Subset.trans (by decide) hm) ?_
      refine State.setPort_only (List.Subset.trans (by decide) hm) ?_
      exact hv2
    · refine State.sendSlot_only (List.Subset.trans (by decide) hm) ?_
      exact hv2
  · refine State.sendSlot_only (List.Subset.trans (by decide) hm) ?_
    exact hv2

theorem State.oweNak_only {ps : List Part} {s0 : State} {s : State} {p : Nat} {failed : Bool}
    (hm : [Part.ports] ⊆ ps) (hs : Only ps s0 s) : Only ps s0 (State.oweNak s p failed) := by
  unfold State.oweNak
  extract_lets v1
  try clear_value v1
  refine State.setPort_only (List.Subset.trans (by decide) hm) ?_
  exact hs

theorem State.badCell_only {ps : List Part} {s0 : State} {s : State} {p : Nat}
    (hm : [Part.image Rec.ulpStatus, Part.ports, Part.mailboxes, Part.log, Part.image Rec.logStatus, Part.out, Part.hatband, Part.host, Part.clock, Part.image Rec.timeStatus] ⊆ ps) (hs : Only ps s0 s) : Only ps s0 (State.badCell s p) := by
  unfold State.badCell
  refine Only.ite ?_ ?_
  · refine State.realign_only (List.Subset.trans (by decide) hm) ?_
    refine State.report_only (List.Subset.trans (by decide) hm) ?_
    refine State.count_only (List.Subset.trans (by decide) hm) ?_
    exact hs
  · refine State.oweNak_only (List.Subset.trans (by decide) hm) ?_
    exact hs

theorem State.buildStream_only {ps : List Part} {s0 : State} {s : State} {p : Nat} {j : Nat}
    (hm : [Part.ports, Part.out, Part.hatband, Part.image Rec.hatbandControl, Part.log, Part.image Rec.logStatus, Part.image Rec.channel] ⊆ ps) (hs : Only ps s0 s) : Only ps s0 (State.buildStream s p j).1 := by
  unfold State.buildStream
  extract_lets v1 v2 v3 v4 v5 v6
  try clear_value v1
  try clear_value v2
  have hv3 : Only ps s0 v3 := by
    unfold v3
    refine State.setPort_only (List.Subset.trans (by decide) hm) ?_
    exact hs
  try clear_value v3
  try clear_value v4
  try clear_value v5
  have hv6 : Only ps s0 v6 := by
    unfold v6
    refine State.setPort_only (List.Subset.trans (by decide) hm) ?_
    exact hv3
  try clear_value v6
  split
  · dsimp only
    exact hs
  · split
    · dsimp only
      refine State.raiseFrom_only (List.Subset.trans (by decide) hm) ?_
      exact hv3
    · dsimp only
      exact hv6

theorem State.buildStreams_only {ps : List Part} {s0 : State} {s : State} {p : Nat}
    (hm : [Part.ports, Part.out, Part.hatband, Part.image Rec.hatbandControl, Part.log, Part.image Rec.logStatus, Part.image Rec.channel] ⊆ ps) (hs : Only ps s0 s) : Only ps s0 (State.buildStreams s p).1 := by
  unfold State.buildStreams
  refine Only.foldl_fst (fun x1 _ hx1 => ?_) _ ?_
  · split
    · rename_i x2 _ ex2
      have hx2 : Only ps s0 x2 := by
        refine (congrArg (fun q => Only ps s0 (Prod.fst q)) ex2).mp ?_
        refine State.buildStream_only (List.Subset.trans (by decide) hm) ?_
        exact hx1
      dsimp only
      exact hx2
  · dsimp only
    exact hs

theorem State.sendFrameOut_only {ps : List Part} {s0 : State} {s : State} {p : Nat} {frame : Nat}
    (hm : [Part.ports, Part.free, Part.out] ⊆ ps) (hs : Only ps s0 s) : Only ps s0 (State.sendFrameOut s p frame) := by
  unfold State.sendFrameOut
  refine Only.ite ?_ ?_
  · extract_lets v1
    try clear_value v1
    refine State.setPort_only (List.Subset.trans (by decide) hm) ?_
    exact hs
  · refine State.sendSlot_only (List.Subset.trans (by decide) hm) ?_
    refine State.sendSlot_only (List.Subset.trans (by decide) hm) ?_
    exact hs

theorem State.useStream_only {ps : List Part} {s0 : State} {s : State} {p : Nat} {frame : Nat} {j : Nat}
    (hm : [Part.log, Part.image Rec.logStatus, Part.out, Part.hatband, Part.image Rec.ulpStatus, Part.ports] ⊆ ps) (hs : Only ps s0 s) : Only ps s0 (State.useStream s p frame j) := by
  unfold State.useStream
  extract_lets v1 v2 v3 v4 v5 v6 v7 v8
  try clear_value v1
  try clear_value v2
  try clear_value v3
  try clear_value v4
  try clear_value v5
  have hv6 : Only ps s0 v6 := by
    unfold v6
    refine Only.ite ?_ ?_
    · refine State.report_only (List.Subset.trans (by decide) hm) ?_
      refine State.raise_only (List.Subset.trans (by decide) hm) ?_
      refine State.count_only (List.Subset.trans (by decide) hm) ?_
      exact hs
    · exact hs
  try clear_value v6
  try clear_value v7
  have hv8 : Only ps s0 v8 := by
    unfold v8
    refine State.setPort_only (List.Subset.trans (by decide) hm) ?_
    exact hv6
  try clear_value v8
  refine Only.ite ?_ ?_
  · refine State.raise_only (List.Subset.trans (by decide) hm) ?_
    exact hv8
  · exact hv8

theorem State.useArrival_only {ps : List Part} {s0 : State} {s : State} {p : Nat} {frame : Nat}
    (hm : [Part.out, Part.hatband, Part.ports, Part.log, Part.image Rec.logStatus, Part.runs, Part.image Rec.runStatus, Part.acq, Part.engines] ⊆ ps) (hs : Only ps s0 s) : Only ps s0 (State.useArrival s p frame) := by
  unfold State.useArrival
  extract_lets v1 v2 v3 v4 v5
  try clear_value v1
  try clear_value v2
  try clear_value v3
  try clear_value v4
  have hv5 : Only ps s0 v5 := by
    unfold v5
    refine State.raise_only (List.Subset.trans (by decide) hm) ?_
    refine State.setPort_only (List.Subset.trans (by decide) hm) ?_
    exact hs
  try clear_value v5
  refine Only.ite ?_ ?_
  · refine Only.ite ?_ ?_
    · exact hs
    · refine Only.foldl (fun x6 _ hx6 => ?_) _ ?_
      · refine State.settleBarrier_only (List.Subset.trans (by decide) hm) ?_
        exact hx6
      · exact hv5
  · refine State.setPort_only (List.Subset.trans (by decide) hm) ?_
    exact hs

theorem State.useVoid_only {ps : List Part} {s0 : State} {s : State} {p : Nat} {frame : Nat}
    (hm : [Part.image Rec.ulpStatus, Part.out, Part.hatband, Part.log, Part.image Rec.logStatus, Part.runs, Part.ports, Part.image Rec.runStatus, Part.acq, Part.engines] ⊆ ps) (hs : Only ps s0 s) : Only ps s0 (State.useVoid s p frame) := by
  unfold State.useVoid
  extract_lets v1 v2
  try clear_value v1
  try clear_value v2
  refine Only.ite ?_ ?_
  · exact hs
  · split
    · refine State.count_only (List.Subset.trans (by decide) hm) ?_
      exact hs
    · refine Only.ite ?_ ?_
      · exact hs
      · refine Only.foldl (fun x3 _ hx3 => ?_) _ ?_
        · refine State.voidBarrier_only (List.Subset.trans (by decide) hm) ?_
          exact hx3
        · refine State.setPort_only (List.Subset.trans (by decide) hm) ?_
          exact hs

theorem State.useFrame_only {ps : List Part} {s0 : State} {s : State} {p : Nat} {frame : Nat}
    (hm : [Part.log, Part.image Rec.logStatus, Part.out, Part.hatband, Part.image Rec.ulpStatus, Part.ports, Part.runs, Part.image Rec.runStatus, Part.acq, Part.engines] ⊆ ps) (hs : Only ps s0 s) : Only ps s0 (State.useFrame s p frame) := by
  unfold State.useFrame
  extract_lets v1 v2 v3
  have hv1 : Only ps s0 v1 := by
    unfold v1
    refine Only.foldl (fun x4 _ hx4 => ?_) _ ?_
    · refine State.useStream_only (List.Subset.trans (by decide) hm) ?_
      exact hx4
    · exact hs
  try clear_value v1
  try clear_value v2
  have hv3 : Only ps s0 v3 := by
    unfold v3
    refine State.setPort_only (List.Subset.trans (by decide) hm) ?_
    exact hv1
  try clear_value v3
  refine State.useVoid_only (List.Subset.trans (by decide) hm) ?_
  refine State.useArrival_only (List.Subset.trans (by decide) hm) ?_
  exact hv3

theorem State.secondCopy_only {ps : List Part} {s0 : State} {s : State} {p : Nat} {frame : Nat} {good : Bool}
    (hm : [Part.ports, Part.image Rec.ulpStatus, Part.log, Part.image Rec.logStatus, Part.out, Part.hatband, Part.runs, Part.image Rec.runStatus, Part.acq, Part.engines] ⊆ ps) (hs : Only ps s0 s) : Only ps s0 (State.secondCopy s p frame good) := by
  unfold State.secondCopy
  extract_lets v1 v2 v3
  try clear_value v1
  have hv2 : Only ps s0 v2 := by
    unfold v2
    refine State.setPort_only (List.Subset.trans (by decide) hm) ?_
    exact hs
  try clear_value v2
  have hv3 : Only ps s0 v3 := by
    unfold v3
    refine State.count_only (List.Subset.trans (by decide) hm) ?_
    exact hv2
  try clear_value v3
  refine Only.ite ?_ ?_
  · exact hv2
  · refine State.useFrame_only (List.Subset.trans (by decide) hm) ?_
    refine Only.ite ?_ ?_
    · refine State.report_only (List.Subset.trans (by decide) hm) ?_
      exact hv3
    · exact hv3

theorem State.takeCell_only {ps : List Part} {s0 : State} {s : State} {p : Nat} {cell : Nat}
    (hm : [Part.ports, Part.log, Part.image Rec.logStatus, Part.out, Part.hatband, Part.image Rec.ulpStatus, Part.runs, Part.image Rec.runStatus, Part.acq, Part.engines] ⊆ ps) (hs : Only ps s0 s) : Only ps s0 (State.takeCell s p cell) := by
  unfold State.takeCell
  extract_lets v1 v2 v3 v4
  try clear_value v1
  try clear_value v2
  have hv3 : Only ps s0 v3 := by
    unfold v3
    refine State.setPort_only (List.Subset.trans (by decide) hm) ?_
    exact hs
  try clear_value v3
  have hv4 : Only ps s0 v4 := by
    unfold v4
    refine Only.ite ?_ ?_
    · refine State.report_only (List.Subset.trans (by decide) hm) ?_
      exact hv3
    · exact hv3
  try clear_value v4
  refine Only.ite ?_ ?_
  · refine Only.ite ?_ ?_
    · refine State.useFrame_only (List.Subset.trans (by decide) hm) ?_
      exact hv4
    · exact hv4
  · refine Only.ite ?_ ?_
    · refine State.oweNak_only (List.Subset.trans (by decide) hm) ?_
      exact hs
    · exact hs

theorem State.bulkSlot_only {ps : List Part} {s0 : State} {s : State} {p : Nat} {headers : BitVec 16} {cell : Nat}
    (hm : [Part.image Rec.ulpStatus, Part.ports, Part.mailboxes, Part.log, Part.image Rec.logStatus, Part.out, Part.hatband, Part.host, Part.clock, Part.image Rec.timeStatus, Part.runs, Part.image Rec.runStatus, Part.acq, Part.engines] ⊆ ps) (hs : Only ps s0 s) : Only ps s0 (State.bulkSlot s p headers cell) := by
  unfold State.bulkSlot
  refine Only.ite ?_ ?_
  · refine State.badCell_only (List.Subset.trans (by decide) hm) ?_
    exact hs
  · extract_lets v1
    have hv1 : Only ps s0 v1 := by
      unfold v1
      refine State.takeAck_only (List.Subset.trans (by decide) hm) ?_
      exact hs
    try clear_value v1
    refine Only.ite ?_ ?_
    · refine State.takeCell_only (List.Subset.trans (by decide) hm) ?_
      exact hv1
    · exact hv1

theorem State.linkUp_only {ps : List Part} {s0 : State} {s : State} {p : Nat}
    (hm : [Part.ports, Part.out, Part.hatband, Part.image Rec.ulpStatus] ⊆ ps) (hs : Only ps s0 s) : Only ps s0 (State.linkUp s p) := by
  unfold State.linkUp
  extract_lets v1 v2
  try clear_value v1
  have hv2 : Only ps s0 v2 := by
    unfold v2
    refine State.setPort_only (List.Subset.trans (by decide) hm) ?_
    exact hs
  try clear_value v2
  refine Only.ite ?_ ?_
  · refine State.raise_only (List.Subset.trans (by decide) hm) ?_
    refine State.put_only (List.Subset.trans (by decide) hm) ?_
    exact hv2
  · exact hv2

theorem State.useProposal_only {ps : List Part} {s0 : State} {s : State} {p : Nat} {frame : Nat}
    (hm : [Part.ports] ⊆ ps) (hs : Only ps s0 s) : Only ps s0 (State.useProposal s p frame) := by
  unfold State.useProposal
  extract_lets v1 v2 v3
  try clear_value v1
  try clear_value v2
  try clear_value v3
  refine State.setPort_only (List.Subset.trans (by decide) hm) ?_
  exact hs

theorem State.setMismatch_only {ps : List Part} {s0 : State} {s : State} {p : Nat}
    (hm : [Part.log, Part.image Rec.logStatus, Part.out, Part.hatband, Part.image Rec.ulpStatus] ⊆ ps) (hs : Only ps s0 s) : Only ps s0 (State.setMismatch s p) := by
  unfold State.setMismatch
  refine Only.ite ?_ ?_
  · exact hs
  · refine State.report_only (List.Subset.trans (by decide) hm) ?_
    refine State.raise_only (List.Subset.trans (by decide) hm) ?_
    refine State.putFlag_only (List.Subset.trans (by decide) hm) ?_
    exact hs

theorem State.useHashes_only {ps : List Part} {s0 : State} {s : State} {p : Nat} {frame : Nat}
    (hm : [Part.image Rec.ulpStatus, Part.ports, Part.log, Part.image Rec.logStatus, Part.out, Part.hatband] ⊆ ps) (hs : Only ps s0 s) : Only ps s0 (State.useHashes s p frame) := by
  unfold State.useHashes
  extract_lets v1 v2 v3 v4 v5 v6 v7
  try clear_value v1
  have hv2 : Only ps s0 v2 := by
    unfold v2
    refine State.put_only (List.Subset.trans (by decide) hm) ?_
    exact hs
  try clear_value v2
  try clear_value v3
  try clear_value v4
  try clear_value v5
  have hv6 : Only ps s0 v6 := by
    unfold v6
    refine State.setPort_only (List.Subset.trans (by decide) hm) ?_
    exact hv2
  try clear_value v6
  try clear_value v7
  refine Only.ite ?_ ?_
  · refine State.setMismatch_only (List.Subset.trans (by decide) hm) ?_
    refine State.setPort_only (List.Subset.trans (by decide) hm) ?_
    exact hv6
  · refine Only.ite ?_ ?_
    · refine State.setPort_only (List.Subset.trans (by decide) hm) ?_
      exact hv6
    · exact hv6

theorem State.useTime_only {ps : List Part} {s0 : State} {s : State} {p : Nat} {frame : Nat}
    (hm : [Part.clock, Part.image Rec.timeStatus, Part.log, Part.image Rec.logStatus, Part.out, Part.hatband] ⊆ ps) (hs : Only ps s0 s) : Only ps s0 (State.useTime s p frame) := by
  unfold State.useTime
  refine Only.ite ?_ ?_
  · exact hs
  · refine Only.ite ?_ ?_
    · extract_lets v1 v2
      try clear_value v1
      refine State.setClock_only (List.Subset.trans (by decide) hm) (.inr rfl) (.inr rfl) (.inr ⟨rfl, rfl⟩) ?_
      exact hs
    · extract_lets v3 v4
      have hv4 : Only ps s0 v4 := by
        unfold v4
        refine State.setClock_only (List.Subset.trans (by decide) hm) (.inr rfl) (.inr rfl) (.inr ⟨rfl, rfl⟩) ?_
        exact hs
      try clear_value v4
      refine Only.ite ?_ ?_
      · refine State.holdover_only (List.Subset.trans (by decide) hm) ?_
        exact hv4
      · exact hv4

theorem State.useNotice_only {ps : List Part} {s0 : State} {s : State} {p : Nat} {frame : Nat}
    (hm : [Part.ports, Part.image Rec.ulpStatus] ⊆ ps) (hs : Only ps s0 s) : Only ps s0 (State.useNotice s p frame) := by
  unfold State.useNotice
  refine Only.ite ?_ ?_
  · extract_lets v1 v2 v3
    try clear_value v1
    have hv2 : Only ps s0 v2 := by
      unfold v2
      refine State.setPort_only (List.Subset.trans (by decide) hm) ?_
      exact hs
    try clear_value v2
    try clear_value v3
    refine Only.ite ?_ ?_
    · refine State.setPort_only (List.Subset.trans (by decide) hm) ?_
      refine State.put_only (List.Subset.trans (by decide) hm) ?_
      refine State.put_only (List.Subset.trans (by decide) hm) ?_
      exact hv2
    · exact hv2
  · refine State.setPort_only (List.Subset.trans (by decide) hm) ?_
    exact hs

theorem State.useControl_only {ps : List Part} {s0 : State} {s : State} {p : Nat} {frame : Nat}
    (hm : [Part.ports, Part.out, Part.hatband, Part.image Rec.ulpStatus, Part.clock, Part.image Rec.timeStatus, Part.log, Part.image Rec.logStatus] ⊆ ps) (hs : Only ps s0 s) : Only ps s0 (State.useControl s p frame) := by
  unfold State.useControl
  extract_lets v1 v2 v3 v4
  have hv1 : Only ps s0 v1 := by
    unfold v1
    refine State.linkUp_only (List.Subset.trans (by decide) hm) ?_
    exact hs
  try clear_value v1
  try clear_value v2
  have hv3 : Only ps s0 v3 := by
    unfold v3
    refine State.setPort_only (List.Subset.trans (by decide) hm) ?_
    exact hv1
  try clear_value v3
  have hv4 : Only ps s0 v4 := by
    unfold v4
    refine State.useProposal_only (List.Subset.trans (by decide) hm) ?_
    refine State.takeAck_only (List.Subset.trans (by decide) hm) ?_
    exact hv3
  try clear_value v4
  refine State.useNotice_only (List.Subset.trans (by decide) hm) ?_
  refine State.useTime_only (List.Subset.trans (by decide) hm) ?_
  refine State.useHashes_only (List.Subset.trans (by decide) hm) ?_
  exact hv4

theorem State.commitTable_only {ps : List Part} {s0 : State} {s : State} {p : Nat}
    (hm : [Part.image Rec.ulpStatus, Part.ports] ⊆ ps) (hs : Only ps s0 s) : Only ps s0 (State.commitTable s p) := by
  unfold State.commitTable
  extract_lets v1 v2
  have hv1 : Only ps s0 v1 := by
    unfold v1
    refine State.putFlag_only (List.Subset.trans (by decide) hm) ?_
    exact hs
  try clear_value v1
  try clear_value v2
  refine State.setPort_only (List.Subset.trans (by decide) hm) ?_
  exact hv1

theorem State.swapTables_only {ps : List Part} {s0 : State} {s : State} {p : Nat} {k : Nat}
    (hm : [Part.image Rec.ulpStatus, Part.log, Part.image Rec.logStatus, Part.out, Part.hatband, Part.ports, Part.mailboxes, Part.host] ⊆ ps) (hs : Only ps s0 s) : Only ps s0 (State.swapTables s p k) := by
  unfold State.swapTables
  extract_lets v1 v2 v3 v4 v5 v6
  try clear_value v1
  have hv2 : Only ps s0 v2 := by
    unfold v2
    refine State.put_only (List.Subset.trans (by decide) hm) ?_
    exact hs
  try clear_value v2
  have hv3 : Only ps s0 v3 := by
    unfold v3
    refine Only.ite ?_ ?_
    · refine State.setMismatch_only (List.Subset.trans (by decide) hm) ?_
      exact hv2
    · exact hv2
  try clear_value v3
  have hv4 : Only ps s0 v4 := by
    unfold v4
    refine State.raise_only (List.Subset.trans (by decide) hm) ?_
    refine State.putFlag_only (List.Subset.trans (by decide) hm) ?_
    exact hv3
  try clear_value v4
  try clear_value v5
  have hv6 : Only ps s0 v6 := by
    unfold v6
    refine State.setPort_only (List.Subset.trans (by decide) hm) ?_
    exact hv4
  try clear_value v6
  refine State.finishAll_only (List.Subset.trans (by decide) hm) ?_
  exact hv6

theorem State.settlePort_only {ps : List Part} {s0 : State} {s : State} {p : Nat}
    (hm : [Part.image Rec.ulpStatus, Part.ports, Part.mailboxes, Part.log, Part.image Rec.logStatus, Part.out, Part.hatband, Part.host, Part.clock, Part.image Rec.timeStatus] ⊆ ps) (hs : Only ps s0 s) : Only ps s0 (State.settlePort s p) := by
  unfold State.settlePort
  extract_lets v1 v2 v3 v4 v5 v6 v7 v8
  try clear_value v1
  try clear_value v2
  have hv3 : Only ps s0 v3 := by
    unfold v3
    refine Only.ite ?_ ?_
    · exact hs
    · refine State.rxDown_only (List.Subset.trans (by decide) hm) ?_
      exact hs
  try clear_value v3
  have hv4 : Only ps s0 v4 := by
    unfold v4
    refine Only.ite ?_ ?_
    · exact hs
    · refine State.rxDown_only (List.Subset.trans (by decide) hm) ?_
      exact hs
  try clear_value v4
  try clear_value v5
  try clear_value v6
  try clear_value v7
  have hv8 : Only ps s0 v8 := by
    unfold v8
    refine State.put_only (List.Subset.trans (by decide) hm) ?_
    exact hs
  try clear_value v8
  refine Only.ite ?_ ?_
  · refine State.put_only (List.Subset.trans (by decide) hm) ?_
    exact hv3
  · refine Only.ite ?_ ?_
    · refine State.put_only (List.Subset.trans (by decide) hm) ?_
      exact hv4
    · refine Only.ite ?_ ?_
      · refine State.rxDown_only (List.Subset.trans (by decide) hm) ?_
        exact hv8
      · exact hv8

theorem State.orderRx_only {ps : List Part} {s0 : State} {s : State} {p : Nat}
    (hm : [Part.image Rec.ulpStatus, Part.ports, Part.mailboxes, Part.log, Part.image Rec.logStatus, Part.out, Part.hatband, Part.host, Part.clock, Part.image Rec.timeStatus] ⊆ ps) (hs : Only ps s0 s) : Only ps s0 (State.orderRx s p) := by
  unfold State.orderRx
  extract_lets v1 v2
  try clear_value v1
  try clear_value v2
  refine Only.ite ?_ ?_
  · exact hs
  · refine Only.ite ?_ ?_
    · refine Only.ite ?_ ?_
      · refine State.rxDown_only (List.Subset.trans (by decide) hm) ?_
        exact hs
      · exact hs
    · refine State.rxDown_only (List.Subset.trans (by decide) hm) ?_
      exact hs

theorem State.inject_only {ps : List Part} {s0 : State} {s : State} {p : Nat} {l : Nat}
    (hm : [Part.ports] ⊆ ps) (hs : Only ps s0 s) : Only ps s0 (State.inject s p l) := by
  unfold State.inject
  extract_lets v1 v2 v3
  try clear_value v1
  try clear_value v2
  try clear_value v3
  split
  · refine State.setPort_only (List.Subset.trans (by decide) hm) ?_
    exact hs
  · refine State.setPort_only (List.Subset.trans (by decide) hm) ?_
    exact hs
  · refine State.setPort_only (List.Subset.trans (by decide) hm) ?_
    exact hs
  · exact hs

end Machine

end Sys2Proof
end

