-- ==== Sys2Proof/Laws/FrameFulling.lean ====
section
/-! SUPPORT. What each operation of Fulling.lean may change: one lemma an operation. -/

namespace Sys2Proof

open Machine

namespace Machine

theorem State.setStream_only {ps : List Part} {s0 : State} {s : State} {id : Nat} {ctx : Nat} {history : List Byte}
    (hm : [Part.capture] ⊆ ps) (hs : Only ps s0 s) : Only ps s0 (State.setStream s id ctx history) := by
  unfold State.setStream
  refine State.setCapture_only (List.Subset.trans (by decide) hm) ?_
  exact hs

theorem State.startJob_only {ps : List Part} {s0 : State} {s : State} {e : Nat} {q : Nat} {j : Job}
    (hm : [Part.memory, Part.capture] ⊆ ps) (hs : Only ps s0 s) : Only ps s0 (State.startJob s e q j) := by
  unfold State.startJob
  extract_lets v1 v2 v3 v4 v5 v6 v7 v8
  try clear_value v1
  try clear_value v2
  try clear_value v3
  have hv4 : Only ps s0 v4 := by
    unfold v4
    refine Only.ite ?_ ?_
    · exact hs
    · refine State.moveBeats_only (List.Subset.trans (by decide) hm) ?_
      exact hs
  try clear_value v4
  have hv5 : Only ps s0 v5 := by
    unfold v5
    refine Only.ite ?_ ?_
    · refine State.moveBeats_only (List.Subset.trans (by decide) hm) ?_
      exact hv4
    · exact hv4
  try clear_value v5
  try clear_value v6
  try clear_value v7
  try clear_value v8
  refine State.setCapture_only (List.Subset.trans (by decide) hm) ?_
  exact hv5

theorem State.noteBad_only {ps : List Part} {s0 : State} {s : State} {x : RunJob} {first : Nat} {n : Nat} {bad : List Nat}
    (hm : [Part.free, Part.log, Part.image Rec.logStatus, Part.out, Part.hatband, Part.image Rec.fullingStatus] ⊆ ps) (hs : Only ps s0 s) : Only ps s0 (State.noteBad s x first n bad) := by
  unfold State.noteBad
  extract_lets v1 v2
  try clear_value v1
  have hv2 : Only ps s0 v2 := by
    unfold v2
    refine Only.ite ?_ ?_
    · exact hs
    · refine Only.setFree (List.Subset.trans (by decide) hm) ?_
      exact hs
  try clear_value v2
  refine Only.foldl (fun x3 _ hx3 => ?_) _ ?_
  · refine State.report_only (List.Subset.trans (by decide) hm) ?_
    refine State.count_only (List.Subset.trans (by decide) hm) ?_
    exact hx3
  · exact hv2

theorem State.writeBeat_only {ps : List Part} {s0 : State} {s : State} {a : Nat} {data : List Byte}
    (hm : [Part.store, Part.memory] ⊆ ps) (hs : Only ps s0 s) : Only ps s0 (State.writeBeat s a data) := by
  unfold State.writeBeat
  extract_lets v1 v2 v3 v4
  try clear_value v1
  try clear_value v2
  try clear_value v3
  try clear_value v4
  refine State.writeBlock_only (List.Subset.trans (by decide) hm) ?_
  exact hs

theorem State.writeQueue_only {ps : List Part} {s0 s : State} {q pos : Nat} {x : List (List Byte)}
    (hm : [Part.store, Part.memory] ⊆ ps) (hs : Only ps s0 s) : Only ps s0 (s.writeQueue q pos x) := by
  induction x generalizing s pos with
  | nil => exact hs
  | cons b r ih => exact ih (State.writeBeat_only hm hs)

theorem State.setRun_only {ps : List Part} {s0 : State} {s : State} {e : Nat} {x : RunJob}
    (hm : [Part.capture] ⊆ ps) (hs : Only ps s0 s) : Only ps s0 (State.setRun s e x) := by
  unfold State.setRun
  refine State.setCapture_only (List.Subset.trans (by decide) hm) ?_
  exact hs

theorem State.writeFrame_only {ps : List Part} {s0 : State} {s : State} {e : Nat} {x : RunJob} {bad : List Nat} {poisoned : Bool}
    (hm : [Part.free, Part.log, Part.image Rec.logStatus, Part.out, Part.hatband, Part.image Rec.fullingStatus, Part.capture, Part.image Rec.outQueue, Part.image Rec.capStatus, Part.host, Part.image Rec.ring, Part.store, Part.memory] ⊆ ps) (hs : Only ps s0 s) : Only ps s0 (State.writeFrame s e x bad poisoned) := by
  unfold State.writeFrame
  extract_lets v1 v2
  try clear_value v1
  have hv2 : Only ps s0 v2 := by
    unfold v2
    refine State.noteBad_only (List.Subset.trans (by decide) hm) ?_
    exact hs
  try clear_value v2
  refine Only.ite ?_ ?_
  · refine State.failRun_only (List.Subset.trans (by decide) hm) ?_
    exact hs
  · split
    · refine Only.ite ?_ ?_
      · refine State.failRun_only (List.Subset.trans (by decide) hm) ?_
        exact hv2
      · extract_lets v3
        have hv3 : Only ps s0 v3 := by
          unfold v3
          refine State.writeQueue_only (List.Subset.trans (by decide) hm) ?_
          exact hv2
        try clear_value v3
        refine State.setRun_only (List.Subset.trans (by decide) hm) ?_
        refine State.moveBeats_only (List.Subset.trans (by decide) hm) ?_
        refine State.moveBeats_only (List.Subset.trans (by decide) hm) ?_
        exact hv3

theorem State.expandNext_only {ps : List Part} {s0 : State} {s : State} {e : Nat} {x : RunJob} {bad : List Nat} {poisoned : Bool}
    (hm : [Part.capture, Part.out, Part.hatband, Part.log, Part.image Rec.logStatus, Part.image Rec.outQueue, Part.image Rec.capStatus, Part.host, Part.image Rec.ring, Part.store, Part.free, Part.image Rec.fullingStatus, Part.memory] ⊆ ps) (hs : Only ps s0 s) : Only ps s0 (State.expandNext s e x bad poisoned) := by
  unfold State.expandNext
  extract_lets v1 v2 v3 v4
  try clear_value v1
  try clear_value v2
  try clear_value v3
  try clear_value v4
  refine Only.ite ?_ ?_
  · refine State.failRun_only (List.Subset.trans (by decide) hm) ?_
    exact hs
  · split
    · refine State.failRun_only (List.Subset.trans (by decide) hm) ?_
      exact hs
    · extract_lets v5 v6 v7 v8 v9
      try clear_value v5
      try clear_value v6
      have hv7 : Only ps s0 v7 := by
        unfold v7
        refine State.noteBad_only (List.Subset.trans (by decide) hm) ?_
        exact hs
      try clear_value v7
      have hv8 : Only ps s0 v8 := by
        unfold v8
        refine State.writeBlocks_only (List.Subset.trans (by decide) hm) ?_
        exact hv7
      try clear_value v8
      have hv9 : Only ps s0 v9 := by
        unfold v9
        refine State.moveBeats_only (List.Subset.trans (by decide) hm) ?_
        refine State.moveBeats_only (List.Subset.trans (by decide) hm) ?_
        exact hv8
      try clear_value v9
      refine Only.ite ?_ ?_
      · refine State.failRun_only (List.Subset.trans (by decide) hm) ?_
        exact hv7
      · refine Only.ite ?_ ?_
        · refine State.failRun_only (List.Subset.trans (by decide) hm) ?_
          exact hv7
        · refine State.setRun_only (List.Subset.trans (by decide) hm) ?_
          exact hv9

theorem State.commitJob_only {ps : List Part} {s0 : State} {s : State} {e : Nat} {x : RunJob}
    (hm : [Part.capture, Part.image Rec.outQueue, Part.out, Part.hatband, Part.image Rec.capStatus, Part.log, Part.image Rec.logStatus, Part.host, Part.image Rec.ring] ⊆ ps) (hs : Only ps s0 s) : Only ps s0 (State.commitJob s e x) := by
  unfold State.commitJob
  extract_lets v1 v2 v3 v4 v5 v6 v7 v8
  try clear_value v1
  try clear_value v2
  try clear_value v3
  have hv4 : Only ps s0 v4 := by
    unfold v4
    refine State.setCapture_only (List.Subset.trans (by decide) hm) ?_
    exact hs
  try clear_value v4
  have hv5 : Only ps s0 v5 := by
    unfold v5
    refine State.count_only (List.Subset.trans (by decide) hm) ?_
    refine State.put_only (List.Subset.trans (by decide) hm) ?_
    exact hv4
  try clear_value v5
  have hv6 : Only ps s0 v6 := by
    unfold v6
    refine Only.ite ?_ ?_
    · exact hv5
    · refine State.setStream_only (List.Subset.trans (by decide) hm) ?_
      exact hv5
  try clear_value v6
  have hv7 : Only ps s0 v7 := by
    unfold v7
    refine State.raise_only (List.Subset.trans (by decide) hm) ?_
    exact hv6
  try clear_value v7
  try clear_value v8
  refine Only.ite ?_ ?_
  · refine State.autoFeed_only (List.Subset.trans (by decide) hm) ?_
    refine State.consume_only (List.Subset.trans (by decide) hm) ?_
    exact hv7
  · refine State.postCompletion_only (List.Subset.trans (by decide) hm) ?_
    exact hv7

theorem State.releaseJob_only {ps : List Part} {s0 : State} {s : State} {j : Job}
    (hm : [Part.capture] ⊆ ps) (hs : Only ps s0 s) : Only ps s0 (State.releaseJob s j) := by
  unfold State.releaseJob
  refine State.setCapture_only (List.Subset.trans (by decide) hm) ?_
  exact hs

theorem State.saveStream_only {ps : List Part} {s0 : State} {s : State} {id : Nat} {a : Nat}
    (hm : [Part.memory, Part.store] ⊆ ps) (hs : Only ps s0 s) : Only ps s0 (State.saveStream s id a) := by
  unfold State.saveStream
  refine State.moveBeats_only (List.Subset.trans (by decide) hm) ?_
  refine State.moveBeats_only (List.Subset.trans (by decide) hm) ?_
  refine State.writeBlocks_only (List.Subset.trans (by decide) hm) ?_
  exact hs

theorem State.serveStore_only {ps : List Part} {s0 s : State} {m code : Nat} {cmd : Request → State → Command}
    (hm : [Part.log, Part.image Rec.logStatus, Part.out, Part.hatband, Part.mailboxes, Part.host] ⊆ ps)
    (hs : Only ps s0 s) (hc : ∀ r x, Only ps s0 x → ((cmd r x).act x).Within ps s0) :
    Only ps s0 (s.serveStore m code cmd) :=
  Only.ite (State.serve_only hm hs hc) hs

end Machine

end Sys2Proof
end

