-- ==== Sys2Proof/Laws/FrameModes.lean ====
section
/-! SUPPORT. What each operation of Modes.lean may change: one lemma an operation. -/

namespace Sys2Proof

open Machine

namespace Machine

theorem State.setCrown_only {ps : List Part} {s0 : State} {s : State} {x : Crown}
    (hm : [Part.crown] ⊆ ps) (hs : Only ps s0 s) : Only ps s0 (State.setCrown s x) := by
  unfold State.setCrown
  refine Only.setCrown (List.Subset.trans (by decide) hm) ?_
  exact hs

theorem State.setPower_only {ps : List Part} {s0 : State} {s : State} {x : Power}
    (hm : [Part.power] ⊆ ps) (hs : Only ps s0 s) : Only ps s0 (State.setPower s x) := by
  unfold State.setPower
  refine Only.setPower (List.Subset.trans (by decide) hm) ?_
  exact hs

theorem State.beginCalibrate_only {ps : List Part} {s0 : State} {s : State} {cause : Nat}
    (hm : [Part.image Rec.modeRecord, Part.mode, Part.crown, Part.image Rec.gridStatus, Part.out, Part.host, Part.hatband, Part.blocking, Part.monitor, Part.image Rec.monStatus] ⊆ ps) (hs : Only ps s0 s) : Only ps s0 (State.beginCalibrate s cause) := by
  unfold State.beginCalibrate
  extract_lets v1 v2 v3 v4 v5 v6
  have hv1 : Only ps s0 v1 := by
    unfold v1
    refine State.enterMode_only (List.Subset.trans (by decide) hm) ?_
    exact hs
  try clear_value v1
  try clear_value v2
  have hv3 : Only ps s0 v3 := by
    unfold v3
    refine State.setCrown_only (List.Subset.trans (by decide) hm) ?_
    exact hv1
  try clear_value v3
  try clear_value v4
  try clear_value v5
  have hv6 : Only ps s0 v6 := by
    unfold v6
    exact Only.setBlockingMonitor (List.Subset.trans (by decide) hm) hv3
  try clear_value v6
  refine State.putFlag_only (List.Subset.trans (by decide) hm) ?_
  exact hv6

theorem State.applyRetired_only {ps : List Part} {s0 s : State}
    (hm : [Part.image Rec.libStatus, Part.image Rec.storeStatus, Part.library, Part.store, Part.memory] ⊆ ps)
    (hs : Only ps s0 s) : Only ps s0 s.applyRetired := by
  unfold State.applyRetired
  extract_lets rows s1 s2
  have hs1 : Only ps s0 s1 :=
    Only.foldl (fun x _ hx => State.put_only (List.Subset.trans (by decide) hm) hx) _ hs
  clear_value s1
  have hs2 : Only ps s0 s2 := State.put_only (List.Subset.trans (by decide) hm) hs1
  clear_value s2
  refine hs2.trans fun p hp => ?_
  cases p with
  | library => exact absurd (hm (by decide)) hp
  | store => exact absurd (hm (by decide)) hp
  | memory => exact absurd (hm (by decide)) hp
  | form => exact fun h => ⟨rfl, rfl, rfl, rfl, h.2.2.2.2⟩
  | image r => exact fun _ => rfl
  | _ => first | rfl | exact ⟨rfl, rfl⟩ | exact ⟨rfl, rfl, rfl⟩

theorem State.handOver_only {ps : List Part} {s0 : State} {s : State}
    (hm : [Part.crown, Part.image Rec.modeRecord] ⊆ ps) (hs : Only ps s0 s) : Only ps s0 (State.handOver s) := by
  unfold State.handOver
  extract_lets v1 v2 v3 v4 v5
  try clear_value v1
  try clear_value v2
  try clear_value v3
  have hv4 : Only ps s0 v4 := by
    unfold v4
    refine State.setCrown_only (List.Subset.trans (by decide) hm) ?_
    exact hs
  try clear_value v4
  try clear_value v5
  refine Only.ite ?_ ?_
  · refine State.count_only (List.Subset.trans (by decide) hm) ?_
    refine State.put_only (List.Subset.trans (by decide) hm) ?_
    exact hv4
  · refine State.setCrown_only (List.Subset.trans (by decide) hm) ?_
    exact hv4

theorem State.markOut_only {ps : List Part} {s0 s : State} (hm : [Part.image Rec.modeRecord] ⊆ ps)
    (hs : Only ps s0 s) : Only ps s0 s.markOut := by
  have hf : ∀ c, (outFlag c).record = Rec.modeRecord := fun c => by unfold outFlag; split <;> rfl
  unfold State.markOut
  extract_lets core
  split
  · exact Only.ite (State.putFlag_only (by rw [hf]; exact hm) hs) hs
  · exact hs

theorem State.addEntry_only {ps : List Part} {s0 : State} {s : State} {e : LogEntry}
    (hm : [Part.log, Part.out, Part.hatband, Part.image Rec.logStatus] ⊆ ps) (hs : Only ps s0 s) : Only ps s0 (State.addEntry s e) := by
  unfold State.addEntry
  extract_lets v1 v2 v3 v4
  try clear_value v1
  try clear_value v2
  try clear_value v3
  have hv4 : Only ps s0 v4 := by
    unfold v4
    refine Only.setLog (List.Subset.trans (by decide) hm) ?_
    exact hs
  try clear_value v4
  refine State.raise_only (List.Subset.trans (by decide) hm) ?_
  refine State.put_only (List.Subset.trans (by decide) hm) ?_
  exact hv4

end Machine

end Sys2Proof
end

