-- ==== Sys2Proof/Laws/FrameSlots.lean ====
section
/-! SUPPORT. What each operation of Slots.lean may change: one lemma an operation. -/

namespace Sys2Proof

open Machine

namespace Machine

theorem State.setBinding_only {ps : List Part} {s0 : State} {s : State} {t : Nat} {n : Nat} {b : Nat}
    (hm : [Part.loaded] ⊆ ps) (hs : Only ps s0 s) : Only ps s0 (State.setBinding s t n b) := by
  unfold State.setBinding
  refine Only.step (t := s) (ps := [Part.loaded]) (fun p hp => by cases p <;> first | rfl | exact ⟨rfl, rfl⟩ | exact ⟨rfl, rfl, rfl⟩ | exact image_congr rfl | exact fun h => h | exact absurd (by decide) hp) (List.Subset.trans (by decide) hm) ?_
  exact hs

theorem State.loadCtx_only {ps : List Part} {s0 : State} {s : State} {t : Nat} {i : Nat} {c : Nat}
    (hm : [Part.loaded] ⊆ ps) (hs : Only ps s0 s) : Only ps s0 (State.loadCtx s t i c) := by
  unfold State.loadCtx
  refine Only.ite ?_ ?_
  · refine Only.step (t := s) (ps := [Part.loaded]) (fun p hp => by cases p <;> first | rfl | exact ⟨rfl, rfl⟩ | exact ⟨rfl, rfl, rfl⟩ | exact image_congr rfl | exact fun h => h | exact absurd (by decide) hp) (List.Subset.trans (by decide) hm) ?_
    exact hs
  · refine Only.step (t := s) (ps := [Part.loaded]) (fun p hp => by cases p <;> first | rfl | exact ⟨rfl, rfl⟩ | exact ⟨rfl, rfl, rfl⟩ | exact image_congr rfl | exact fun h => h | exact absurd (by decide) hp) (List.Subset.trans (by decide) hm) ?_
    exact hs

theorem State.evictFor_only {ps : List Part} {s0 : State} {s : State} {t : Nat} {id : Nat} {g : Segment}
    (hm : [Part.loaded] ⊆ ps) (hs : Only ps s0 s) : Only ps s0 (State.evictFor s t id g) := by
  unfold State.evictFor
  extract_lets v1 v2
  try clear_value v1
  refine Only.step (t := s) (ps := [Part.loaded]) (fun p hp => by cases p <;> first | rfl | exact ⟨rfl, rfl⟩ | exact ⟨rfl, rfl, rfl⟩ | exact image_congr rfl | exact fun h => h | exact absurd (by decide) hp) (List.Subset.trans (by decide) hm) ?_
  exact hs

theorem State.installSegment_only {ps : List Part} {s0 : State} {s : State} {t : Nat} {x : Refill}
    (hm : [Part.loaded, Part.library, Part.memory, Part.runs] ⊆ ps) (hs : Only ps s0 s) : Only ps s0 (State.installSegment s t x) := by
  unfold State.installSegment
  extract_lets v1 v2 v3 v4 v5
  have hv1 : Only ps s0 v1 := by
    unfold v1
    refine State.evictFor_only (List.Subset.trans (by decide) hm) ?_
    exact hs
  try clear_value v1
  have hv2 : Only ps s0 v2 := by
    unfold v2
    refine State.writeRows_only (List.Subset.trans (by decide) hm) ?_
    exact hv1
  try clear_value v2
  have hv4 : Only ps s0 v4 := by
    unfold v4
    refine Only.step (t := v2) (ps := [Part.loaded]) (fun p hp => by cases p <;> first | rfl | exact ⟨rfl, rfl⟩ | exact ⟨rfl, rfl, rfl⟩ | exact image_congr rfl | exact fun h => h | exact absurd (by decide) hp) (List.Subset.trans (by decide) hm) ?_
    exact hv2
  try clear_value v4
  try clear_value v5
  refine State.setTile_only (List.Subset.trans (by decide) hm) ?_
  exact hv4

end Machine

end Sys2Proof
end

