-- ==== Sys2Proof/Laws/FrameHostBus.lean ====
section
/-! SUPPORT. What each operation of HostBus.lean may change: one lemma an operation. -/

namespace Sys2Proof

open Machine

namespace Machine

theorem State.setHost_only {ps : List Part} {s0 s : State} {x : HostIf} (hm : [Part.host] ⊆ ps)
    (hb : Part.mailboxes ∈ ps ∨ (x.mailboxes = s.host.mailboxes ∧ x.accepted = s.host.accepted
      ∧ x.deferred = s.host.deferred)) (hs : Only ps s0 s) : Only ps s0 (s.setHost x) := by
  refine hs.trans fun p hp => ?_
  cases p with
  | mailboxes => exact hb.resolve_left hp
  | host => exact absurd (hm (by simp)) hp
  | image r => exact fun _ => rfl
  | _ => first | rfl | exact ⟨rfl, rfl⟩ | exact id

theorem State.ring_only {ps : List Part} {s0 : State} {s : State} {m : Nat} {buf : List Byte}
    (hm : [Part.mailboxes, Part.out, Part.hatband, Part.host] ⊆ ps) (hs : Only ps s0 s) : Only ps s0 (State.ring s m buf) := by
  unfold State.ring
  extract_lets v1 v2 v3
  try clear_value v1
  have hv2 : Only ps s0 v2 := by
    unfold v2
    refine State.setMailbox_only (List.Subset.trans (by decide) hm) ?_
    exact hs
  try clear_value v2
  refine Only.ite ?_ ?_
  · refine State.setMailbox_only (List.Subset.trans (by decide) hm) ?_
    exact hs
  · refine State.raise_only (List.Subset.trans (by decide) hm) ?_
    refine State.setHost_only (List.Subset.trans (by decide) hm) (.inl (hm (by simp))) ?_
    exact hv2

theorem State.bar4Get_only {ps : List Part} {s0 : State} {s : State} {a : Nat} {n : Nat}
    (hm : [Part.memory, Part.out, Part.free] ⊆ ps) (hs : Only ps s0 s) : Only ps s0 (State.bar4Get s a n) := by
  unfold State.bar4Get
  extract_lets v1 v2
  have hv1 : Only ps s0 v1 := by
    unfold v1
    refine State.moveBeats_only (List.Subset.trans (by decide) hm) ?_
    exact hs
  try clear_value v1
  try clear_value v2
  refine Only.ite ?_ ?_
  · refine State.emit_only (List.Subset.trans (by decide) hm) ?_
    refine State.emit_only (List.Subset.trans (by decide) hm) ?_
    refine Only.setFree (List.Subset.trans (by decide) hm) ?_
    exact hv1
  · refine State.emit_only (List.Subset.trans (by decide) hm) ?_
    exact hv1

theorem State.spend_only {ps : List Part} {s0 : State} {s : State} {n : Nat}
    (hm : [Part.free] ⊆ ps) (hs : Only ps s0 s) : Only ps s0 (State.spend s n) := by
  unfold State.spend
  refine Only.setFree (List.Subset.trans (by decide) hm) ?_
  exact hs

theorem State.flushMerge_only {ps : List Part} {s0 : State} {s : State} {x : Merge}
    (hm : [Part.memory, Part.free, Part.host, Part.store] ⊆ ps) (hs : Only ps s0 s) : Only ps s0 (State.flushMerge s x) := by
  unfold State.flushMerge
  extract_lets v1 v2 v3 v4
  try clear_value v1
  have hv2 : Only ps s0 v2 := by
    unfold v2
    refine Only.ite ?_ ?_
    · exact hs
    · refine State.moveBeats_only (List.Subset.trans (by decide) hm) ?_
      refine State.spend_only (List.Subset.trans (by decide) hm) ?_
      exact hs
  try clear_value v2
  have hv4 : Only ps s0 v4 := by
    unfold v4
    refine State.setHost_only (List.Subset.trans (by decide) hm) (.inr ⟨rfl, rfl, rfl⟩) ?_
    exact hv2
  try clear_value v4
  refine State.moveBeats_only (List.Subset.trans (by decide) hm) ?_
  refine State.writeBlock_only (List.Subset.trans (by decide) hm) ?_
  exact hv4

theorem State.mergeRoom_only {ps : List Part} {s0 : State} {s : State}
    (hm : [Part.memory, Part.free, Part.host, Part.store] ⊆ ps) (hs : Only ps s0 s) : Only ps s0 (State.mergeRoom s) := by
  unfold State.mergeRoom
  split
  · refine Only.ite ?_ ?_
    · refine State.flushMerge_only (List.Subset.trans (by decide) hm) ?_
      exact hs
    · exact hs
  · exact hs

theorem State.mergePut_only {ps : List Part} {s0 : State} {s : State} {block : Nat} {off : Nat} {data : List Byte}
    (hm : [Part.memory, Part.free, Part.host, Part.store] ⊆ ps) (hs : Only ps s0 s) : Only ps s0 (State.mergePut s block off data) := by
  unfold State.mergePut
  extract_lets v1 v2 v3 v4 v5
  have hv1 : Only ps s0 v1 := by
    unfold v1
    refine Only.ite ?_ ?_
    · exact hs
    · refine State.mergeRoom_only (List.Subset.trans (by decide) hm) ?_
      exact hs
  try clear_value v1
  try clear_value v2
  try clear_value v3
  try clear_value v4
  refine Only.ite ?_ ?_
  · refine State.flushMerge_only (List.Subset.trans (by decide) hm) ?_
    exact hv1
  · refine Only.ite ?_ ?_
    · refine State.setHost_only (List.Subset.trans (by decide) hm) (.inr ⟨rfl, rfl, rfl⟩) ?_
      exact hv1
    · refine State.setHost_only (List.Subset.trans (by decide) hm) (.inr ⟨rfl, rfl, rfl⟩) ?_
      exact hv1

theorem State.bar4Put_only {ps : List Part} {s0 : State} {s : State} {a : Nat} {data : List Byte}
    (hm : [Part.memory, Part.free, Part.host, Part.store] ⊆ ps) (hs : Only ps s0 s) : Only ps s0 (State.bar4Put s a data) := by
  unfold State.bar4Put
  extract_lets v1
  try clear_value v1
  refine Only.foldl (fun x2 _ hx2 => ?_) _ ?_
  · extract_lets v3 v4 v5
    try clear_value v3
    try clear_value v4
    try clear_value v5
    refine State.mergePut_only (List.Subset.trans (by decide) hm) ?_
    exact hx2
  · exact hs

theorem State.bar4Access_only {ps : List Part} {s0 : State} {s : State} {w : Bar4Wait}
    (hm : [Part.out, Part.memory, Part.free, Part.host, Part.store] ⊆ ps) (hs : Only ps s0 s) : Only ps s0 (State.bar4Access s w) := by
  unfold State.bar4Access
  split
  · refine Only.ite ?_ ?_
    · refine State.emit_only (List.Subset.trans (by decide) hm) ?_
      exact hs
    · refine State.bar4Get_only (List.Subset.trans (by decide) hm) ?_
      exact hs
  · refine Only.ite ?_ ?_
    · refine State.emit_only (List.Subset.trans (by decide) hm) ?_
      exact hs
    · refine State.bar4Put_only (List.Subset.trans (by decide) hm) ?_
      exact hs

theorem State.bar4_only {ps : List Part} {s0 : State} {s : State} {w : Bar4Wait}
    (hm : [Part.out, Part.memory, Part.free, Part.host, Part.store] ⊆ ps) (hs : Only ps s0 s) : Only ps s0 (State.bar4 s w) := by
  unfold State.bar4
  refine Only.ite ?_ ?_
  · refine State.bar4Access_only (List.Subset.trans (by decide) hm) ?_
    exact hs
  · refine State.setHost_only (List.Subset.trans (by decide) hm) (.inr ⟨rfl, rfl, rfl⟩) ?_
    exact hs

theorem State.bar4Resume_only {ps : List Part} {s0 : State} {s : State}
    (hm : [Part.out, Part.memory, Part.free, Part.host, Part.store] ⊆ ps) (hs : Only ps s0 s) : Only ps s0 (State.bar4Resume s) := by
  unfold State.bar4Resume
  refine Only.foldl (fun x1 _ hx1 => ?_) _ ?_
  · refine State.bar4Access_only (List.Subset.trans (by decide) hm) ?_
    exact hx1
  · refine State.setHost_only (List.Subset.trans (by decide) hm) (.inr ⟨rfl, rfl, rfl⟩) ?_
    exact hs

theorem State.writeback_only {ps : List Part} {s0 : State} {s : State} {f : Nat} {i : Nat} {desc : Nat} {irq : Bool}
    (hm : [Part.out, Part.host, Part.image Rec.ring, Part.hatband] ⊆ ps) (hs : Only ps s0 s) : Only ps s0 (State.writeback s f i desc irq) := by
  unfold State.writeback
  extract_lets v1 v2 v3 v4 v5 v6 v7 v8 v9
  try clear_value v1
  try clear_value v2
  have hv3 : Only ps s0 v3 := by
    unfold v3
    refine State.send_only (List.Subset.trans (by decide) hm) ?_
    exact hs
  try clear_value v3
  have hv5 : Only ps s0 v5 := by
    unfold v5
    refine State.setHost_only (List.Subset.trans (by decide) hm) (.inr ⟨rfl, rfl, rfl⟩) ?_
    exact hv3
  try clear_value v5
  have hv6 : Only ps s0 v6 := by
    unfold v6
    refine State.count_only (List.Subset.trans (by decide) hm) ?_
    exact hv5
  try clear_value v6
  try clear_value v7
  have hv9 : Only ps s0 v9 := by
    unfold v9
    refine State.setHost_only (List.Subset.trans (by decide) hm) (.inr ⟨rfl, rfl, rfl⟩) ?_
    exact hv6
  try clear_value v9
  refine Only.ite ?_ ?_
  · refine State.raise_only (List.Subset.trans (by decide) hm) ?_
    refine State.signal_only (List.Subset.trans (by decide) hm) ?_
    exact hv9
  · exact hv6

theorem State.setPi_only {ps : List Part} {s0 : State} {s : State} {k : Nat} {v : Nat}
    (hm : [Part.host] ⊆ ps) (hs : Only ps s0 s) : Only ps s0 (State.setPi s k v) := by
  unfold State.setPi
  refine State.setHost_only (List.Subset.trans (by decide) hm) (.inr ⟨rfl, rfl, rfl⟩) ?_
  exact hs

theorem State.setCi_only {ps : List Part} {s0 : State} {s : State} {k : Nat} {v : Nat}
    (hm : [Part.host] ⊆ ps) (hs : Only ps s0 s) : Only ps s0 (State.setCi s k v) := by
  unfold State.setCi
  refine State.setHost_only (List.Subset.trans (by decide) hm) (.inr ⟨rfl, rfl, rfl⟩) ?_
  exact hs

theorem State.refillEnd_only {ps : List Part} {s0 : State} {s : State} {f : Nat} {r : Nat} {d : Nat} {st : Status}
    (hm : [Part.log, Part.image Rec.logStatus, Part.out, Part.hatband, Part.host, Part.image Rec.ring] ⊆ ps) (hs : Only ps s0 s) : Only ps s0 (State.refillEnd s f r d st) := by
  unfold State.refillEnd
  extract_lets v1
  have hv1 : Only ps s0 v1 := by
    unfold v1
    refine Only.ite ?_ ?_
    · refine State.report_only (List.Subset.trans (by decide) hm) ?_
      exact hs
    · exact hs
  try clear_value v1
  refine State.writeback_only (List.Subset.trans (by decide) hm) ?_
  exact hv1

theorem State.takeRefill_only {ps : List Part} {s0 : State} {s : State} {f : Nat} {r : Nat} {d : Nat} {data : List Byte} {seals : List (BitVec 32)} {poisoned : Bool}
    (hm : [Part.log, Part.image Rec.logStatus, Part.out, Part.hatband, Part.host, Part.image Rec.ring, Part.memory, Part.loaded] ⊆ ps) (hs : Only ps s0 s) : Only ps s0 (State.takeRefill s f r d data seals poisoned) := by
  unfold State.takeRefill
  split
  · refine State.refillEnd_only (List.Subset.trans (by decide) hm) ?_
    exact hs
  · extract_lets v1 v2 v3 v4 v5
    try clear_value v1
    try clear_value v2
    try clear_value v3
    have hv4 : Only ps s0 v4 := by
      unfold v4
      refine State.moveBeats_only (List.Subset.trans (by decide) hm) ?_
      refine State.evictFor_only (List.Subset.trans (by decide) hm) ?_
      exact hs
    try clear_value v4
    refine State.setHost_only (List.Subset.trans (by decide) hm) (.inr ⟨rfl, rfl, rfl⟩) ?_
    exact hv4

theorem State.passUnit_only {ps : List Part} {s0 : State} {s : State} {src : Nat} {n : Nat}
    (hm : [Part.image Rec.outQueue, Part.image Rec.capStatus, Part.capture] ⊆ ps) (hs : Only ps s0 s) : Only ps s0 (State.passUnit s src n) := by
  unfold State.passUnit
  refine Only.ite ?_ ?_
  · refine State.put_only (List.Subset.trans (by decide) hm) ?_
    exact hs
  · split
    · refine State.consume_only (List.Subset.trans (by decide) hm) ?_
      exact hs
    · exact hs

theorem State.captureEnd_only {ps : List Part} {s0 : State} {s : State} {f : Nat} {c : Nat} {b : CapBuf} {st : Status}
    (hm : [Part.host, Part.out, Part.image Rec.ring, Part.hatband] ⊆ ps) (hs : Only ps s0 s) : Only ps s0 (State.captureEnd s f c b st) := by
  unfold State.captureEnd
  extract_lets v1 v2
  have hv2 : Only ps s0 v2 := by
    unfold v2
    refine State.setHost_only (List.Subset.trans (by decide) hm) (.inr ⟨rfl, rfl, rfl⟩) ?_
    exact hs
  try clear_value v2
  refine State.writeback_only (List.Subset.trans (by decide) hm) ?_
  exact hv2

theorem State.captureFill_only {ps : List Part} {s0 : State} {s : State} {f : Nat} {c : Nat} {src : Nat} {b : CapBuf} {data : List Byte}
    (hm : [Part.out, Part.memory, Part.image Rec.outQueue, Part.image Rec.capStatus, Part.capture, Part.free, Part.host] ⊆ ps) (hs : Only ps s0 s) : Only ps s0 (State.captureFill s f c src b data) := by
  unfold State.captureFill
  extract_lets v1 v2 v3 v4 v5
  try clear_value v1
  have hv2 : Only ps s0 v2 := by
    unfold v2
    refine State.emit_only (List.Subset.trans (by decide) hm) ?_
    exact hs
  try clear_value v2
  have hv3 : Only ps s0 v3 := by
    unfold v3
    refine State.moveBeats_only (List.Subset.trans (by decide) hm) ?_
    refine State.passUnit_only (List.Subset.trans (by decide) hm) ?_
    refine State.spend_only (List.Subset.trans (by decide) hm) ?_
    exact hv2
  try clear_value v3
  try clear_value v4
  refine State.setHost_only (List.Subset.trans (by decide) hm) (.inr ⟨rfl, rfl, rfl⟩) ?_
  exact hv3

theorem State.captureOpen_only {ps : List Part} {s0 : State} {s : State} {f : Nat} {c : Nat} {src : Nat} {desc : Nat} {data : List Byte}
    (hm : [Part.host, Part.out, Part.image Rec.ring, Part.hatband, Part.memory, Part.image Rec.outQueue, Part.image Rec.capStatus, Part.capture, Part.free] ⊆ ps) (hs : Only ps s0 s) : Only ps s0 (State.captureOpen s f c src desc data) := by
  unfold State.captureOpen
  extract_lets v1 v2
  try clear_value v1
  try clear_value v2
  refine Only.ite ?_ ?_
  · exact hs
  · refine Only.ite ?_ ?_
    · refine State.captureEnd_only (List.Subset.trans (by decide) hm) ?_
      exact hs
    · refine Only.ite ?_ ?_
      · refine State.captureEnd_only (List.Subset.trans (by decide) hm) ?_
        exact hs
      · refine Only.ite ?_ ?_
        · refine State.putFlag_only (List.Subset.trans (by decide) hm) ?_
          refine State.captureEnd_only (List.Subset.trans (by decide) hm) ?_
          exact hs
        · refine State.captureFill_only (List.Subset.trans (by decide) hm) ?_
          exact hs

theorem State.disableRing_only {ps : List Part} {s0 : State} {s : State} {k : Nat}
    (hm : [Part.image Rec.ring, Part.host] ⊆ ps) (hs : Only ps s0 s) : Only ps s0 (State.disableRing s k) := by
  unfold State.disableRing
  extract_lets v1 v2
  have hv1 : Only ps s0 v1 := by
    unfold v1
    refine State.putFlag_only (List.Subset.trans (by decide) hm) ?_
    exact hs
  try clear_value v1
  refine State.setHost_only (List.Subset.trans (by decide) hm) (.inr ⟨rfl, rfl, rfl⟩) ?_
  exact hv1

theorem State.disableRings_only {ps : List Part} {s0 : State} {s : State} {f : Nat}
    (hm : [Part.image Rec.ring, Part.host] ⊆ ps) (hs : Only ps s0 s) : Only ps s0 (State.disableRings s f) := by
  unfold State.disableRings
  refine Only.foldl (fun x1 _ hx1 => ?_) _ ?_
  · refine State.disableRing_only (List.Subset.trans (by decide) hm) ?_
    exact hx1
  · exact hs

theorem State.clearMailboxes_only {ps : List Part} {s0 : State} {s : State} {f : Nat}
    (hm : [Part.mailboxes, Part.host] ⊆ ps) (hs : Only ps s0 s) : Only ps s0 (State.clearMailboxes s f) := by
  unfold State.clearMailboxes
  extract_lets v1 v2 v3
  try clear_value v1
  have hv2 : Only ps s0 v2 := by
    unfold v2
    refine Only.foldl (fun x4 _ hx4 => ?_) _ ?_
    · refine State.setMailbox_only (List.Subset.trans (by decide) hm) ?_
      exact hx4
    · exact hs
  try clear_value v2
  refine State.setHost_only (List.Subset.trans (by decide) hm) (.inl (hm (by simp))) ?_
  exact hv2

theorem State.stopRun_only {ps : List Part} {s0 : State} {s : State} {g : Nat}
    (hm : [Part.engines, Part.runs, Part.image Rec.runStatus, Part.acq, Part.shadows, Part.image Rec.timingSet, Part.image Rec.driveTone, Part.image Rec.probeTone, Part.image Rec.acqTone, Part.image Rec.biasIir, Part.image Rec.biasFir, Part.image Rec.histConfig, Part.image Rec.model, Part.loaded, Part.drive, Part.image Rec.matrixControl, Part.weights, Part.image Rec.weightControl, Part.readout, Part.bins, Part.image Rec.histStatus, Part.image Rec.xyStatus, Part.image Rec.biasStatus, Part.bias, Part.blocking, Part.image Rec.engineStatus, Part.mailboxes, Part.log, Part.image Rec.logStatus, Part.out, Part.hatband, Part.host] ⊆ ps) (hs : Only ps s0 s) : Only ps s0 (State.stopRun s g) := by
  unfold State.stopRun
  refine Only.ite ?_ ?_
  · exact hs
  · refine Only.ite ?_ ?_
    · refine State.sendHalt_only (List.Subset.trans (by decide) hm) ?_
      exact hs
    · refine State.endRun_only (List.Subset.trans (by decide) hm) ?_
      exact hs

theorem State.stopRuns_only {ps : List Part} {s0 : State} {s : State} {f : Nat}
    (hm : [Part.engines, Part.runs, Part.image Rec.runStatus, Part.acq, Part.shadows, Part.image Rec.timingSet, Part.image Rec.driveTone, Part.image Rec.probeTone, Part.image Rec.acqTone, Part.image Rec.biasIir, Part.image Rec.biasFir, Part.image Rec.histConfig, Part.image Rec.model, Part.loaded, Part.drive, Part.image Rec.matrixControl, Part.weights, Part.image Rec.weightControl, Part.readout, Part.bins, Part.image Rec.histStatus, Part.image Rec.xyStatus, Part.image Rec.biasStatus, Part.bias, Part.blocking, Part.image Rec.engineStatus, Part.mailboxes, Part.log, Part.image Rec.logStatus, Part.out, Part.hatband, Part.host] ⊆ ps) (hs : Only ps s0 s) : Only ps s0 (State.stopRuns s f) := by
  unfold State.stopRuns
  refine Only.foldl (fun x1 _ hx1 => ?_) _ ?_
  · refine Only.ite ?_ ?_
    · refine State.stopRun_only (List.Subset.trans (by decide) hm) ?_
      exact hx1
    · exact hx1
  · exact hs

theorem State.flr_only {ps : List Part} {s0 : State} {s : State} {f : Nat}
    (hm : [Part.mailboxes, Part.host, Part.image Rec.ring, Part.engines, Part.runs, Part.image Rec.runStatus, Part.acq, Part.shadows, Part.image Rec.timingSet, Part.image Rec.driveTone, Part.image Rec.probeTone, Part.image Rec.acqTone, Part.image Rec.biasIir, Part.image Rec.biasFir, Part.image Rec.histConfig, Part.image Rec.model, Part.loaded, Part.drive, Part.image Rec.matrixControl, Part.weights, Part.image Rec.weightControl, Part.readout, Part.bins, Part.image Rec.histStatus, Part.image Rec.xyStatus, Part.image Rec.biasStatus, Part.bias, Part.blocking, Part.image Rec.engineStatus, Part.log, Part.image Rec.logStatus, Part.out, Part.hatband] ⊆ ps) (hs : Only ps s0 s) : Only ps s0 (State.flr s f) := by
  unfold State.flr
  refine State.clearMailboxes_only (List.Subset.trans (by decide) hm) ?_
  refine State.disableRings_only (List.Subset.trans (by decide) hm) ?_
  refine State.stopRuns_only (List.Subset.trans (by decide) hm) ?_
  exact hs

theorem State.flrAll_only {ps : List Part} {s0 : State} {s : State}
    (hm : [Part.mailboxes, Part.host, Part.image Rec.ring, Part.engines, Part.runs, Part.image Rec.runStatus, Part.acq, Part.shadows, Part.image Rec.timingSet, Part.image Rec.driveTone, Part.image Rec.probeTone, Part.image Rec.acqTone, Part.image Rec.biasIir, Part.image Rec.biasFir, Part.image Rec.histConfig, Part.image Rec.model, Part.loaded, Part.drive, Part.image Rec.matrixControl, Part.weights, Part.image Rec.weightControl, Part.readout, Part.bins, Part.image Rec.histStatus, Part.image Rec.xyStatus, Part.image Rec.biasStatus, Part.bias, Part.blocking, Part.image Rec.engineStatus, Part.log, Part.image Rec.logStatus, Part.out, Part.hatband] ⊆ ps) (hs : Only ps s0 s) : Only ps s0 (State.flrAll s) := by
  unfold State.flrAll
  refine Only.foldl (fun x1 _ hx1 => ?_) _ ?_
  · refine State.flr_only (List.Subset.trans (by decide) hm) ?_
    exact hx1
  · exact hs

theorem State.linkDown_only {ps : List Part} {s0 : State} {s : State}
    (hm : [Part.log, Part.image Rec.logStatus, Part.out, Part.hatband, Part.image Rec.linkStatus] ⊆ ps) (hs : Only ps s0 s) : Only ps s0 (State.linkDown s) := by
  unfold State.linkDown
  refine Only.ite ?_ ?_
  · refine State.report_only (List.Subset.trans (by decide) hm) ?_
    refine State.raise_only (List.Subset.trans (by decide) hm) ?_
    refine State.count_only (List.Subset.trans (by decide) hm) ?_
    refine State.putFlag_only (List.Subset.trans (by decide) hm) ?_
    exact hs
  · exact hs

theorem State.deliverHeld_only {ps : List Part} {s0 : State} {s : State}
    (hm : [Part.host, Part.out] ⊆ ps) (hs : Only ps s0 s) : Only ps s0 (State.deliverHeld s) := by
  unfold State.deliverHeld
  extract_lets v1 v2 v3
  try clear_value v1
  have hv3 : Only ps s0 v3 := by
    unfold v3
    refine State.setHost_only (List.Subset.trans (by decide) hm) (.inr ⟨rfl, rfl, rfl⟩) ?_
    exact hs
  try clear_value v3
  refine Only.setOut (List.Subset.trans (by decide) hm) ?_
  exact hv3

theorem State.setWidth_only {ps : List Part} {s0 : State} {s : State} {w : Nat}
    (hm : [Part.out, Part.host, Part.image Rec.linkStatus] ⊆ ps) (hs : Only ps s0 s) : Only ps s0 (State.setWidth s w) := by
  unfold State.setWidth
  refine Only.ite ?_ ?_
  · exact hs
  · refine State.signalAll_only (List.Subset.trans (by decide) hm) ?_
    refine State.put_only (List.Subset.trans (by decide) hm) ?_
    exact hs

theorem State.evictAll_only {ps : List Part} {s0 : State} {s : State} {t : Nat}
    (hm : [Part.loaded] ⊆ ps) (hs : Only ps s0 s) : Only ps s0 (State.evictAll s t) := by
  unfold State.evictAll
  refine State.evict_only (List.Subset.trans (by decide) hm) ?_
  exact hs

theorem State.removeFn_only {ps : List Part} {s0 : State} {s : State} {f : Nat}
    (hm : [Part.image Rec.ring, Part.host, Part.image Rec.channel, Part.loaded, Part.image Rec.ownership, Part.runs, Part.image Rec.mailboxAssign] ⊆ ps) (hs : Only ps s0 s) : Only ps s0 (State.removeFn s f) := by
  unfold State.removeFn
  extract_lets v1 v2 v3 v4 v5
  try clear_value v1
  have hv2 : Only ps s0 v2 := by
    unfold v2
    refine State.disableRings_only (List.Subset.trans (by decide) hm) ?_
    exact hs
  try clear_value v2
  have hv3 : Only ps s0 v3 := by
    unfold v3
    refine Only.foldl (fun x6 _ hx6 => ?_) _ ?_
    · refine Only.ite ?_ ?_
      · refine State.put_only (List.Subset.trans (by decide) hm) ?_
        exact hx6
      · exact hx6
    · exact hv2
  try clear_value v3
  have hv4 : Only ps s0 v4 := by
    unfold v4
    refine Only.foldl (fun x7 _ hx7 => ?_) _ ?_
    · refine State.evictAll_only (List.Subset.trans (by decide) hm) ?_
      refine State.putAt_only (List.Subset.trans (by decide) hm) ?_
      exact hx7
    · exact hv3
  try clear_value v4
  have hv5 : Only ps s0 v5 := by
    unfold v5
    refine Only.foldl (fun x8 _ hx8 => ?_) _ ?_
    · refine Only.ite ?_ ?_
      · refine State.setGroup_only (List.Subset.trans (by decide) hm) ?_
        exact hx8
      · exact hx8
    · exact hv4
  try clear_value v5
  refine Only.foldl (fun x9 _ hx9 => ?_) _ ?_
  · refine Only.ite ?_ ?_
    · refine State.putAt_only (List.Subset.trans (by decide) hm) ?_
      exact hx9
    · exact hx9
  · exact hv5

end Machine

end Sys2Proof
end

