-- ==== Sys2Proof/Laws/FramePower.lean ====
section
/-! SUPPORT. What each operation of Power.lean may change: one lemma an operation. -/

namespace Sys2Proof

open Machine

namespace Machine

theorem State.drawFeed_only {ps : List Part} {s0 : State} {s : State} {f : Feed} {mv : Nat}
    (hm : [Part.power] ⊆ ps) (hs : Only ps s0 s) : Only ps s0 (State.drawFeed s f mv) := by
  unfold State.drawFeed
  refine State.setPower_only (List.Subset.trans (by decide) hm) ?_
  exact hs

theorem State.dropFeed_only {ps : List Part} {s0 s : State} {f : Feed} {mv : Nat}
    (hm : [Part.power, Part.log, Part.image Rec.logStatus, Part.out, Part.hatband, Part.image Rec.powerStatus] ⊆ ps)
    (hs : Only ps s0 s) : Only ps s0 (s.dropFeed f mv) := by
  have hf : (feedDrops f).record = Rec.powerStatus := by cases f <;> rfl
  unfold State.dropFeed
  extract_lets o x s1
  have hs1 : Only ps s0 s1 := State.setPower_only (List.Subset.trans (by decide) hm) hs
  clear_value s1
  exact State.report_only (List.Subset.trans (by decide) hm) (State.raise_only (List.Subset.trans (by decide) hm)
    (State.count_only (by rw [hf]; exact List.Subset.trans (by decide) hm) hs1))

theorem State.shedWidth_only {ps : List Part} {s0 : State} {s : State} {on : Bool}
    (hm : [Part.image Rec.linkStatus, Part.out, Part.host] ⊆ ps) (hs : Only ps s0 s) : Only ps s0 (State.shedWidth s on) := by
  unfold State.shedWidth
  extract_lets v1
  have hv1 : Only ps s0 v1 := by
    unfold v1
    refine State.putFlag_only (List.Subset.trans (by decide) hm) ?_
    exact hs
  try clear_value v1
  refine Only.ite ?_ ?_
  · refine State.setWidth_only (List.Subset.trans (by decide) hm) ?_
    exact hv1
  · exact hv1

theorem State.shedCapture_only {ps : List Part} {s0 : State} {s : State}
    (hm : [Part.image Rec.capStatus, Part.capture, Part.out, Part.hatband, Part.log, Part.image Rec.logStatus, Part.image Rec.outQueue, Part.host, Part.image Rec.ring, Part.store, Part.free] ⊆ ps) (hs : Only ps s0 s) : Only ps s0 (State.shedCapture s) := by
  unfold State.shedCapture
  extract_lets v1 v2
  try clear_value v1
  have hv2 : Only ps s0 v2 := by
    unfold v2
    refine State.putFlag_only (List.Subset.trans (by decide) hm) ?_
    refine State.setCapture_only (List.Subset.trans (by decide) hm) ?_
    exact hs
  try clear_value v2
  refine Only.foldl (fun x3 _ hx3 => ?_) _ ?_
  · refine State.failRun_only (List.Subset.trans (by decide) hm) ?_
    exact hx3
  · exact hv2

theorem State.shedRuns_only {ps : List Part} {s0 : State} {s : State}
    (hm : [Part.bias, Part.image Rec.biasStatus, Part.engines, Part.runs, Part.image Rec.runStatus, Part.drive, Part.out, Part.hatband, Part.acq, Part.image Rec.engineStatus, Part.shadows, Part.image Rec.timingSet, Part.image Rec.driveTone, Part.image Rec.probeTone, Part.image Rec.acqTone, Part.image Rec.biasIir, Part.image Rec.biasFir, Part.image Rec.histConfig, Part.image Rec.model, Part.loaded, Part.image Rec.matrixControl, Part.weights, Part.image Rec.weightControl, Part.readout, Part.bins, Part.image Rec.histStatus, Part.image Rec.xyStatus, Part.blocking, Part.mailboxes, Part.log, Part.image Rec.logStatus, Part.host, Part.image Rec.modeRecord, Part.mode, Part.crown, Part.image Rec.gridStatus] ⊆ ps) (hs : Only ps s0 s) : Only ps s0 (State.shedRuns s) := by
  unfold State.shedRuns
  extract_lets v1
  have hv1 : Only ps s0 v1 := by
    unfold v1
    refine State.parkAll_only (List.Subset.trans (by decide) hm) ?_
    refine Only.foldl (fun x2 _ hx2 => ?_) _ ?_
    · refine State.haltGroup_only (List.Subset.trans (by decide) hm) ?_
      exact hx2
    · exact hs
  try clear_value v1
  refine Only.ite ?_ ?_
  · refine State.enterMode_only (List.Subset.trans (by decide) hm) ?_
    exact hv1
  · exact hv1

theorem State.shedAction_only {ps : List Part} {s0 : State} {s : State} {stage : Nat}
    (hm : [Part.image Rec.capStatus, Part.capture, Part.out, Part.hatband, Part.log, Part.image Rec.logStatus, Part.image Rec.outQueue, Part.host, Part.image Rec.ring, Part.store, Part.free, Part.image Rec.linkStatus, Part.bias, Part.image Rec.biasStatus, Part.engines, Part.runs, Part.image Rec.runStatus, Part.drive, Part.acq, Part.image Rec.engineStatus, Part.shadows, Part.image Rec.timingSet, Part.image Rec.driveTone, Part.image Rec.probeTone, Part.image Rec.acqTone, Part.image Rec.biasIir, Part.image Rec.biasFir, Part.image Rec.histConfig, Part.image Rec.model, Part.loaded, Part.image Rec.matrixControl, Part.weights, Part.image Rec.weightControl, Part.readout, Part.bins, Part.image Rec.histStatus, Part.image Rec.xyStatus, Part.blocking, Part.mailboxes, Part.image Rec.modeRecord, Part.mode, Part.crown, Part.image Rec.gridStatus, Part.image Rec.ulpStatus, Part.ports, Part.clock, Part.image Rec.timeStatus, Part.power] ⊆ ps) (hs : Only ps s0 s) : Only ps s0 (State.shedAction s stage) := by
  unfold State.shedAction
  split
  · refine State.shedCapture_only (List.Subset.trans (by decide) hm) ?_
    exact hs
  · refine State.shedWidth_only (List.Subset.trans (by decide) hm) ?_
    exact hs
  · refine Only.foldl (fun x1 _ hx1 => ?_) _ ?_
    · refine State.parkIdle_only (List.Subset.trans (by decide) hm) ?_
      exact hx1
    · exact hs
  · refine State.shedRuns_only (List.Subset.trans (by decide) hm) ?_
    exact hs
  · refine Only.foldl (fun x2 _ hx2 => ?_) _ ?_
    · refine State.settlePort_only (List.Subset.trans (by decide) hm) ?_
      exact hx2
    · exact hs
  · refine State.rampTo_only (List.Subset.trans (by decide) hm) ?_
    exact hs

theorem State.setStage_only {ps : List Part} {s0 : State} {s : State} {stage : Nat}
    (hm : [Part.out, Part.hatband, Part.image Rec.powerStatus] ⊆ ps) (hs : Only ps s0 s) : Only ps s0 (State.setStage s stage) := by
  unfold State.setStage
  refine State.raise_only (List.Subset.trans (by decide) hm) ?_
  refine State.put_only (List.Subset.trans (by decide) hm) ?_
  exact hs

theorem State.enterStage_only {ps : List Part} {s0 : State} {s : State} {stage : Nat}
    (hm : [Part.log, Part.image Rec.logStatus, Part.out, Part.hatband, Part.image Rec.powerStatus, Part.image Rec.capStatus, Part.capture, Part.image Rec.outQueue, Part.host, Part.image Rec.ring, Part.store, Part.free, Part.image Rec.linkStatus, Part.bias, Part.image Rec.biasStatus, Part.engines, Part.runs, Part.image Rec.runStatus, Part.drive, Part.acq, Part.image Rec.engineStatus, Part.shadows, Part.image Rec.timingSet, Part.image Rec.driveTone, Part.image Rec.probeTone, Part.image Rec.acqTone, Part.image Rec.biasIir, Part.image Rec.biasFir, Part.image Rec.histConfig, Part.image Rec.model, Part.loaded, Part.image Rec.matrixControl, Part.weights, Part.image Rec.weightControl, Part.readout, Part.bins, Part.image Rec.histStatus, Part.image Rec.xyStatus, Part.blocking, Part.mailboxes, Part.image Rec.modeRecord, Part.mode, Part.crown, Part.image Rec.gridStatus, Part.image Rec.ulpStatus, Part.ports, Part.clock, Part.image Rec.timeStatus, Part.power, Part.monitor] ⊆ ps) (hs : Only ps s0 s) : Only ps s0 (State.enterStage s stage) := by
  unfold State.enterStage
  extract_lets v1
  have hv1 : Only ps s0 v1 := by
    unfold v1
    refine State.report_only (List.Subset.trans (by decide) hm) ?_
    refine State.count_only (List.Subset.trans (by decide) hm) ?_
    refine State.setStage_only (List.Subset.trans (by decide) hm) ?_
    exact hs
  try clear_value v1
  refine State.shedAction_only (List.Subset.trans (by decide) hm) ?_
  refine State.urge_only (List.Subset.trans (by decide) hm) ?_
  exact hv1

theorem State.restartGap_only {ps : List Part} {s0 : State} {s : State} {g : Nat}
    (hm : [Part.drive, Part.bias, Part.acq, Part.runs] ⊆ ps) (hs : Only ps s0 s) : Only ps s0 (State.restartGap s g) := by
  unfold State.restartGap
  extract_lets v1 v2 v3
  try clear_value v1
  have hv2 : Only ps s0 v2 := by
    unfold v2
    refine Only.foldl (fun x4 _ hx4 => ?_) _ ?_
    · refine State.unprepare_only (List.Subset.trans (by decide) hm) ?_
      exact hx4
    · exact hs
  try clear_value v2
  try clear_value v3
  refine Only.ite ?_ ?_
  · refine State.setGroup_only (List.Subset.trans (by decide) hm) ?_
    exact hv2
  · exact hs

theorem State.leaveSelfRefresh_only {ps : List Part} {s0 : State} {s : State}
    (hm : [Part.free, Part.image Rec.storeStatus, Part.memory] ⊆ ps) (hs : Only ps s0 s) : Only ps s0 (State.leaveSelfRefresh s) := by
  unfold State.leaveSelfRefresh
  split
  · rename_i x1 ex1
    have hx1 : Only ps s0 x1 := by
      refine (congrArg (fun q => Only ps s0 (Prod.snd q)) ex1).mp ?_
      refine State.free_only (List.Subset.trans (by decide) hm) ?_
      refine State.putFlag_only (List.Subset.trans (by decide) hm) ?_
      exact hs
    refine State.setStoreArb_only (List.Subset.trans (by decide) hm) ?_
    exact hx1

theorem State.recoverAction_only {ps : List Part} {s0 : State} {s : State} {stage : Nat}
    (hm : [Part.image Rec.ulpStatus, Part.ports, Part.mailboxes, Part.log, Part.image Rec.logStatus, Part.out, Part.hatband, Part.host, Part.clock, Part.image Rec.timeStatus, Part.drive, Part.bias, Part.acq, Part.runs, Part.memory, Part.free, Part.store, Part.image Rec.linkStatus, Part.image Rec.storeStatus, Part.capture, Part.image Rec.capStatus] ⊆ ps) (hs : Only ps s0 s) : Only ps s0 (State.recoverAction s stage) := by
  unfold State.recoverAction
  split
  · refine Only.foldl (fun x1 _ hx1 => ?_) _ ?_
    · refine State.settlePort_only (List.Subset.trans (by decide) hm) ?_
      exact hx1
    · exact hs
  · refine Only.foldl (fun x2 _ hx2 => ?_) _ ?_
    · refine State.restartGap_only (List.Subset.trans (by decide) hm) ?_
      exact hx2
    · exact hs
  · refine State.bar4Resume_only (List.Subset.trans (by decide) hm) ?_
    refine State.shedWidth_only (List.Subset.trans (by decide) hm) ?_
    refine State.leaveSelfRefresh_only (List.Subset.trans (by decide) hm) ?_
    exact hs
  · extract_lets v3 v4
    try clear_value v3
    have hv4 : Only ps s0 v4 := by
      unfold v4
      refine State.setCapture_only (List.Subset.trans (by decide) hm) ?_
      exact hs
    try clear_value v4
    refine Only.ite ?_ ?_
    · exact hv4
    · refine State.resumeCapture_only (List.Subset.trans (by decide) hm) ?_
      exact hv4
  · exact hs

theorem State.takeReading_only {ps : List Part} {s0 : State} {s : State} {i : Nat} {v : Int}
    (hm : [Part.image Rec.sensor, Part.monitor] ⊆ ps) (hs : Only ps s0 s) : Only ps s0 (State.takeReading s i v) := by
  unfold State.takeReading
  extract_lets v1 v2 v3 v4 v5
  try clear_value v1
  have hv2 : Only ps s0 v2 := by
    unfold v2
    refine State.put_only (List.Subset.trans (by decide) hm) ?_
    exact hs
  try clear_value v2
  have hv3 : Only ps s0 v3 := by
    unfold v3
    refine State.putFlag_only (List.Subset.trans (by decide) hm) ?_
    exact hv2
  try clear_value v3
  have hv4 : Only ps s0 v4 := by
    unfold v4
    refine State.put_only (List.Subset.trans (by decide) hm) ?_
    exact hv3
  try clear_value v4
  try clear_value v5
  refine Only.setMonitor (List.Subset.trans (by decide) hm) ?_
  exact hv4

theorem State.failSensor_only {ps : List Part} {s0 : State} {s : State} {i : Nat} {cause : Nat}
    (hm : [Part.image Rec.sensor, Part.log, Part.image Rec.logStatus, Part.out, Part.hatband] ⊆ ps) (hs : Only ps s0 s) : Only ps s0 (State.failSensor s i cause) := by
  unfold State.failSensor
  extract_lets v1
  have hv1 : Only ps s0 v1 := by
    unfold v1
    refine State.count_only (List.Subset.trans (by decide) hm) ?_
    refine State.put_only (List.Subset.trans (by decide) hm) ?_
    refine State.putFlag_only (List.Subset.trans (by decide) hm) ?_
    exact hs
  try clear_value v1
  refine State.report_only (List.Subset.trans (by decide) hm) ?_
  refine State.raise_only (List.Subset.trans (by decide) hm) ?_
  exact hv1

theorem State.raiseLevels_only {ps : List Part} {s0 : State} {s : State} {i : Nat} {old : Nat} {new : Nat}
    (hm : [Part.log, Part.image Rec.logStatus, Part.out, Part.hatband] ⊆ ps) (hs : Only ps s0 s) : Only ps s0 (State.raiseLevels s i old new) := by
  unfold State.raiseLevels
  refine Only.foldl (fun x1 _ hx1 => ?_) _ ?_
  · refine Only.ite ?_ ?_
    · refine State.report_only (List.Subset.trans (by decide) hm) ?_
      refine State.raise_only (List.Subset.trans (by decide) hm) ?_
      exact hx1
    · exact hx1
  · exact hs

theorem State.judgeThrottle_only {ps : List Part} {s0 : State} {s : State}
    (hm : [Part.image Rec.powerStatus, Part.out, Part.hatband, Part.power] ⊆ ps) (hs : Only ps s0 s) : Only ps s0 (State.judgeThrottle s) := by
  unfold State.judgeThrottle
  extract_lets v1 v2 v3 v4
  have hv1 : Only ps s0 v1 := by
    unfold v1
    refine State.putFlag_only (List.Subset.trans (by decide) hm) ?_
    exact hs
  try clear_value v1
  try clear_value v2
  have hv3 : Only ps s0 v3 := by
    unfold v3
    refine State.putFlag_only (List.Subset.trans (by decide) hm) ?_
    exact hv1
  try clear_value v3
  try clear_value v4
  refine Only.ite ?_ ?_
  · exact hv1
  · refine State.raise_only (List.Subset.trans (by decide) hm) ?_
    refine State.setPower_only (List.Subset.trans (by decide) hm) ?_
    exact hv3

theorem State.judgeSensor_only {ps : List Part} {s0 : State} {s : State} {i : Nat} {top : Nat} {v : Int}
    (hm : [Part.image Rec.sensor, Part.image Rec.powerStatus, Part.out, Part.hatband, Part.power, Part.log, Part.image Rec.logStatus, Part.bias, Part.image Rec.biasStatus] ⊆ ps) (hs : Only ps s0 s) : Only ps s0 (State.judgeSensor s i top v) := by
  unfold State.judgeSensor
  extract_lets v1 v2 v3 v4 v5
  try clear_value v1
  try clear_value v2
  have hv3 : Only ps s0 v3 := by
    unfold v3
    refine State.put_only (List.Subset.trans (by decide) hm) ?_
    refine State.put_only (List.Subset.trans (by decide) hm) ?_
    exact hs
  try clear_value v3
  have hv4 : Only ps s0 v4 := by
    unfold v4
    refine State.judgeThrottle_only (List.Subset.trans (by decide) hm) ?_
    refine State.raiseLevels_only (List.Subset.trans (by decide) hm) ?_
    exact hv3
  try clear_value v4
  try clear_value v5
  refine Only.ite ?_ ?_
  · refine State.rampTo_only (List.Subset.trans (by decide) hm) ?_
    refine State.setPower_only (List.Subset.trans (by decide) hm) ?_
    exact hv4
  · exact hv4

theorem State.noteValid_only {ps : List Part} {s0 : State} {s : State} {i : Nat} {v : Int}
    (hm : [Part.monitor] ⊆ ps) (hs : Only ps s0 s) : Only ps s0 (State.noteValid s i v) := by
  unfold State.noteValid
  refine Only.setMonitor (List.Subset.trans (by decide) hm) ?_
  exact hs

theorem State.readmit_only {ps : List Part} {s0 : State} {s : State} {i : Nat}
    (hm : [Part.image Rec.sensor, Part.monitor] ⊆ ps) (hs : Only ps s0 s) : Only ps s0 (State.readmit s i) := by
  unfold State.readmit
  refine Only.ite ?_ ?_
  · extract_lets v1 v2
    have hv1 : Only ps s0 v1 := by
      unfold v1
      refine State.put_only (List.Subset.trans (by decide) hm) ?_
      refine State.putFlag_only (List.Subset.trans (by decide) hm) ?_
      exact hs
    try clear_value v1
    try clear_value v2
    refine Only.setMonitor (List.Subset.trans (by decide) hm) ?_
    exact hv1
  · exact hs

theorem State.sampleSensor_only {ps : List Part} {s0 : State} {s : State} {i : Nat} {v : Int} {convFault : Bool} {stuck : Bool}
    (hm : [Part.image Rec.sensor, Part.monitor, Part.log, Part.image Rec.logStatus, Part.out, Part.hatband, Part.image Rec.powerStatus, Part.power, Part.bias, Part.image Rec.biasStatus] ⊆ ps) (hs : Only ps s0 s) : Only ps s0 (State.sampleSensor s i v convFault stuck) := by
  unfold State.sampleSensor
  extract_lets v1 v2 v3 v4
  have hv1 : Only ps s0 v1 := by
    unfold v1
    refine State.readmit_only (List.Subset.trans (by decide) hm) ?_
    exact hs
  try clear_value v1
  have hv2 : Only ps s0 v2 := by
    unfold v2
    refine Only.ite ?_ ?_
    · exact hv1
    · refine State.takeReading_only (List.Subset.trans (by decide) hm) ?_
      exact hv1
  try clear_value v2
  try clear_value v3
  have hv4 : Only ps s0 v4 := by
    unfold v4
    refine Only.ite ?_ ?_
    · refine State.failSensor_only (List.Subset.trans (by decide) hm) ?_
      exact hv2
    · exact hv2
  try clear_value v4
  refine Only.ite ?_ ?_
  · refine State.judgeSensor_only (List.Subset.trans (by decide) hm) ?_
    exact hv4
  · refine State.judgeSensor_only (List.Subset.trans (by decide) hm) ?_
    refine State.noteValid_only (List.Subset.trans (by decide) hm) ?_
    exact hv4

theorem State.setThrottle_only {ps : List Part} {s0 : State} {s : State} {n : Nat}
    (hm : [Part.image Rec.powerStatus, Part.power, Part.image Rec.capStatus, Part.image Rec.fullingStatus, Part.monitor, Part.bias, Part.image Rec.biasStatus] ⊆ ps) (hs : Only ps s0 s) : Only ps s0 (State.setThrottle s n) := by
  unfold State.setThrottle
  extract_lets v1 v2 v3 v4 v5 v6 v7
  try clear_value v1
  have hv2 : Only ps s0 v2 := by
    unfold v2
    refine State.put_only (List.Subset.trans (by decide) hm) ?_
    exact hs
  try clear_value v2
  try clear_value v3
  have hv4 : Only ps s0 v4 := by
    unfold v4
    refine State.setPower_only (List.Subset.trans (by decide) hm) ?_
    exact hv2
  try clear_value v4
  have hv5 : Only ps s0 v5 := by
    unfold v5
    refine State.put_only (List.Subset.trans (by decide) hm) ?_
    exact hv4
  try clear_value v5
  have hv6 : Only ps s0 v6 := by
    unfold v6
    refine State.putFlag_only (List.Subset.trans (by decide) hm) ?_
    exact hv5
  try clear_value v6
  have hv7 : Only ps s0 v7 := by
    unfold v7
    refine State.urge_only (List.Subset.trans (by decide) hm) ?_
    exact hv6
  try clear_value v7
  refine Only.ite ?_ ?_
  · refine Only.ite ?_ ?_
    · refine Only.foldl (fun x8 _ hx8 => ?_) _ ?_
      · refine State.parkIdle_only (List.Subset.trans (by decide) hm) ?_
        exact hx8
      · exact hv7
    · exact hv7
  · exact hv6

end Machine

end Sys2Proof
end

