-- ==== Sys2Proof/Laws/FrameMonitor.lean ====
section
/-! SUPPORT. What each operation of Monitor.lean may change: one lemma an operation. -/

namespace Sys2Proof

open Machine

namespace Machine

theorem State.setMonitor_only {ps : List Part} {s0 : State} {s : State} {x : Monitor}
    (hm : [Part.monitor] ⊆ ps) (hs : Only ps s0 s) : Only ps s0 (State.setMonitor s x) := by
  unfold State.setMonitor
  refine Only.setMonitor (List.Subset.trans (by decide) hm) ?_
  exact hs

theorem State.judgeLimits_only {ps : List Part} {s0 : State} {s : State} {l : List (Nat × Nat)} {cause : Option (Nat × Nat)}
    (hm : [Part.out, Part.hatband, Part.image Rec.hatbandControl, Part.log, Part.image Rec.logStatus, Part.image Rec.channel, Part.image Rec.monStatus] ⊆ ps) (hs : Only ps s0 s) : Only ps s0 (State.judgeLimits s l cause) := by
  unfold State.judgeLimits
  refine Only.foldl (fun x1 _ hx1 => ?_) _ ?_
  · refine Only.ite ?_ ?_
    · refine State.raiseFrom_only (List.Subset.trans (by decide) hm) ?_
      refine State.count_only (List.Subset.trans (by decide) hm) ?_
      exact hx1
    · exact hx1
  · exact hs

theorem State.settleControl_only {ps : List Part} {s0 : State} {s : State}
    (hm : [Part.monitor, Part.image Rec.monControl] ⊆ ps) (hs : Only ps s0 s) : Only ps s0 (State.settleControl s) := by
  unfold State.settleControl
  split
  · refine Only.ite ?_ ?_
    · refine State.setMonitor_only (List.Subset.trans (by decide) hm) ?_
      refine State.setImage_only (List.Subset.trans (by decide) hm) ?_
      exact hs
    · exact hs
  · exact hs

theorem State.watchPulse_only {ps : List Part} {s0 : State} {s : State}
    (hm : [Part.monitor] ⊆ ps) (hs : Only ps s0 s) : Only ps s0 (State.watchPulse s) := by
  unfold State.watchPulse
  refine Only.ite ?_ ?_
  · exact hs
  · refine Only.ite ?_ ?_
    · refine State.setMonitor_only (List.Subset.trans (by decide) hm) ?_
      exact hs
    · refine State.setMonitor_only (List.Subset.trans (by decide) hm) ?_
      exact hs

theorem State.regTrigger_only {ps : List Part} {s0 : State} {s : State} {cause : Option (Nat × Nat)}
    (hm : [Part.image Rec.monStatus, Part.monitor] ⊆ ps) (hs : Only ps s0 s) : Only ps s0 (State.regTrigger s cause) := by
  unfold State.regTrigger
  refine Only.ite ?_ ?_
  · refine State.count_only (List.Subset.trans (by decide) hm) ?_
    exact hs
  · extract_lets v1 v2
    have hv1 : Only ps s0 v1 := by
      unfold v1
      refine State.put_only (List.Subset.trans (by decide) hm) ?_
      refine State.putFlag_only (List.Subset.trans (by decide) hm) ?_
      exact hs
    try clear_value v1
    try clear_value v2
    refine State.setMonitor_only (List.Subset.trans (by decide) hm) ?_
    exact hv1

theorem State.keepResults_only {ps : List Part} {s0 : State} {s : State} {l : List (Nat × Nat × Nat)}
    (hm : [Part.monitor] ⊆ ps) (hs : Only ps s0 s) : Only ps s0 (State.keepResults s l) := by
  unfold State.keepResults
  extract_lets v1 v2
  try clear_value v1
  try clear_value v2
  refine State.setMonitor_only (List.Subset.trans (by decide) hm) ?_
  exact hs

theorem State.regDone_only {ps : List Part} {s0 : State} {s : State} {codes : List (Nat × Nat)} {cause : Option (Nat × Nat)}
    (hm : [Part.monitor, Part.out, Part.hatband, Part.image Rec.hatbandControl, Part.log, Part.image Rec.logStatus, Part.image Rec.channel, Part.image Rec.monStatus, Part.image Rec.monControl] ⊆ ps) (hs : Only ps s0 s) : Only ps s0 (State.regDone s codes cause) := by
  unfold State.regDone
  extract_lets v1 v2 v3 v4 v5 v6
  try clear_value v1
  have hv2 : Only ps s0 v2 := by
    unfold v2
    refine State.keepResults_only (List.Subset.trans (by decide) hm) ?_
    exact hs
  try clear_value v2
  have hv3 : Only ps s0 v3 := by
    unfold v3
    refine State.judgeLimits_only (List.Subset.trans (by decide) hm) ?_
    exact hv2
  try clear_value v3
  have hv4 : Only ps s0 v4 := by
    unfold v4
    refine State.putFlag_only (List.Subset.trans (by decide) hm) ?_
    refine State.count_only (List.Subset.trans (by decide) hm) ?_
    exact hv3
  try clear_value v4
  try clear_value v5
  have hv6 : Only ps s0 v6 := by
    unfold v6
    refine State.setMonitor_only (List.Subset.trans (by decide) hm) ?_
    refine State.put_only (List.Subset.trans (by decide) hm) ?_
    exact hv4
  try clear_value v6
  refine State.settleControl_only (List.Subset.trans (by decide) hm) ?_
  refine State.raiseFrom_only (List.Subset.trans (by decide) hm) ?_
  exact hv6

theorem State.injDone_only {ps : List Part} {s0 : State} {s : State} {codes : List Nat} {wall : Nat} {cause : Option (Nat × Nat)}
    (hm : [Part.image Rec.monInjResults, Part.out, Part.hatband, Part.image Rec.hatbandControl, Part.log, Part.image Rec.logStatus, Part.image Rec.channel, Part.image Rec.monStatus, Part.monitor, Part.image Rec.monControl] ⊆ ps) (hs : Only ps s0 s) : Only ps s0 (State.injDone s codes wall cause) := by
  unfold State.injDone
  extract_lets v1 v2 v3 v4 v5 v6 v7
  try clear_value v1
  have hv2 : Only ps s0 v2 := by
    unfold v2
    refine Only.foldl (fun x8 _ hx8 => ?_) _ ?_
    · refine State.putAt_only (List.Subset.trans (by decide) hm) ?_
      exact hx8
    · exact hs
  try clear_value v2
  have hv3 : Only ps s0 v3 := by
    unfold v3
    refine State.put_only (List.Subset.trans (by decide) hm) ?_
    exact hv2
  try clear_value v3
  have hv4 : Only ps s0 v4 := by
    unfold v4
    refine State.judgeLimits_only (List.Subset.trans (by decide) hm) ?_
    exact hv3
  try clear_value v4
  have hv5 : Only ps s0 v5 := by
    unfold v5
    refine State.putFlag_only (List.Subset.trans (by decide) hm) ?_
    refine State.count_only (List.Subset.trans (by decide) hm) ?_
    exact hv4
  try clear_value v5
  try clear_value v6
  have hv7 : Only ps s0 v7 := by
    unfold v7
    refine State.setMonitor_only (List.Subset.trans (by decide) hm) ?_
    exact hv5
  try clear_value v7
  refine State.settleControl_only (List.Subset.trans (by decide) hm) ?_
  refine State.raiseFrom_only (List.Subset.trans (by decide) hm) ?_
  exact hv7

theorem State.writeFactors_only {ps : List Part} {s0 : State} {s : State} {offsets : List (BitVec 16)} {gains : List (BitVec 16)}
    (hm : [Part.image Rec.monCal] ⊆ ps) (hs : Only ps s0 s) : Only ps s0 (State.writeFactors s offsets gains) := by
  unfold State.writeFactors
  refine Only.foldl (fun x1 _ hx1 => ?_) _ ?_
  · extract_lets v2 v3
    have hv2 : Only ps s0 v2 := by
      unfold v2
      refine State.put_only (List.Subset.trans (by decide) hm) ?_
      exact hx1
    try clear_value v2
    have hv3 : Only ps s0 v3 := by
      unfold v3
      refine State.put_only (List.Subset.trans (by decide) hm) ?_
      exact hv2
    try clear_value v3
    refine State.count_only (List.Subset.trans (by decide) hm) ?_
    refine State.put_only (List.Subset.trans (by decide) hm) ?_
    exact hv3
  · exact hs

theorem State.selfCalDone_only {ps : List Part} {s0 : State} {s : State} {offsets : List (BitVec 16)} {gains : List (BitVec 16)}
    (hm : [Part.image Rec.monCal, Part.monitor, Part.image Rec.monStatus, Part.crown, Part.mailboxes, Part.log, Part.image Rec.logStatus, Part.out, Part.hatband, Part.host] ⊆ ps) (hs : Only ps s0 s) : Only ps s0 (State.selfCalDone s offsets gains) := by
  unfold State.selfCalDone
  extract_lets v1 v2 v3 v4 v5 v6
  try clear_value v1
  have hv2 : Only ps s0 v2 := by
    unfold v2
    refine Only.ite ?_ ?_
    · refine State.writeFactors_only (List.Subset.trans (by decide) hm) ?_
      exact hs
    · exact hs
  try clear_value v2
  try clear_value v3
  have hv4 : Only ps s0 v4 := by
    unfold v4
    refine State.setMonitor_only (List.Subset.trans (by decide) hm) ?_
    refine State.putFlag_only (List.Subset.trans (by decide) hm) ?_
    exact hv2
  try clear_value v4
  try clear_value v5
  have hv6 : Only ps s0 v6 := by
    unfold v6
    refine Only.ite ?_ ?_
    · refine State.setCrown_only (List.Subset.trans (by decide) hm) ?_
      exact hv4
    · exact hv4
  try clear_value v6
  refine Only.ite ?_ ?_
  · refine State.finishAll_only (List.Subset.trans (by decide) hm) ?_
    exact hv6
  · refine State.finishAll_only (List.Subset.trans (by decide) hm) ?_
    exact hv6

end Machine

end Sys2Proof
end

