-- ==== Sys2Proof/Laws/FrameFlags.lean ====
section
/-! SUPPORT. What each operation of Flags.lean may change: one lemma an operation. -/

namespace Sys2Proof

open Machine

namespace Machine

theorem State.resetRc_only {ps : List Part} {s0 : State} {s : State} {r : Rec} {i : Nat}
    (hm : [Part.image r] ⊆ ps) (hs : Only ps s0 s) : Only ps s0 (State.resetRc s r i) := by
  unfold State.resetRc
  extract_lets v1
  refine State.setImage_only (List.Subset.trans (by first | decide | simp) hm) ?_
  exact hs

theorem State.afterRead_only {ps : List Part} {s0 : State} {s : State} {r : Rec} {i : Nat}
    (hm : (imageParts ++ [Part.hatband, Part.ports, Part.capture]) ⊆ ps) (hs : Only ps s0 s) : Only ps s0 (State.afterRead s r i) := by
  unfold State.afterRead
  extract_lets v1 v2 v3 v4
  have hv1 : Only ps s0 v1 := by
    unfold v1
    refine State.resetRc_only (List.Subset.trans (by first | exact List.Subset.refl _ | exact image_sub (List.subset_append_left _ _) | exact List.append_subset.mpr ⟨List.subset_append_left _ _, sub_images (by decide)⟩) hm) ?_
    exact hs
  try clear_value v1
  try clear_value v2
  try clear_value v3
  try clear_value v4
  split
  · refine State.setTrig_only (List.Subset.trans (sub_images (by decide)) hm) ?_
    exact hv1
  · refine State.setPort_only (List.Subset.trans (sub_images (by decide)) hm) ?_
    exact hv1
  · refine State.setCapture_only (List.Subset.trans (sub_images (by decide)) hm) ?_
    exact hv1
  · exact hv1

end Machine

end Sys2Proof
end

