-- ==== Sys2Proof/Laws/FrameRecordRules.lean ====
section
/-! SUPPORT. What each operation of RecordRules.lean may change: one lemma an operation. -/

namespace Sys2Proof

open Machine

namespace Machine

theorem State.commitMatrix_only {ps : List Part} {s0 : State} {s : State} {t : Nat}
    (hm : [Part.image Rec.matrixControl, Part.drive] ⊆ ps) (hs : Only ps s0 s) : Only ps s0 (State.commitMatrix s t) := by
  unfold State.commitMatrix
  refine Only.ite ?_ ?_
  · exact hs
  · refine Only.ite ?_ ?_
    · refine State.putFlag_only (List.Subset.trans (by decide) hm) ?_
      refine Only.setDrive (List.Subset.trans (by decide) hm) ?_
      exact hs
    · refine State.bringMatrix_only (List.Subset.trans (by decide) hm) ?_
      exact hs

theorem State.clearMute_only {ps : List Part} {s0 : State} {s : State} {n : Nat}
    (hm : [Part.drive, Part.image Rec.xyStatus] ⊆ ps) (hs : Only ps s0 s) : Only ps s0 (State.clearMute s n) := by
  unfold State.clearMute
  refine Only.ite ?_ ?_
  · exact hs
  · refine Only.ite ?_ ?_
    · refine Only.setDrive (List.Subset.trans (by decide) hm) ?_
      exact hs
    · refine State.endMute_only (List.Subset.trans (by decide) hm) ?_
      exact hs

theorem State.askLatches_only {ps : List Part} {s0 : State} {s : State} {n : Nat} {which : Nat}
    (hm : [Part.bias, Part.image Rec.biasStatus] ⊆ ps) (hs : Only ps s0 s) : Only ps s0 (State.askLatches s n which) := by
  unfold State.askLatches
  extract_lets v1 v2 v3
  try clear_value v1
  try clear_value v2
  try clear_value v3
  refine Only.ite ?_ ?_
  · exact hs
  · refine Only.ite ?_ ?_
    · refine State.setBias_only (List.Subset.trans (by decide) hm) ?_
      exact hs
    · refine State.clearLatches_only (List.Subset.trans (by decide) hm) ?_
      exact hs

theorem State.askHistClear_only {ps : List Part} {s0 : State} {s : State} {slot : Nat}
    (hm : [Part.readout, Part.bins, Part.image Rec.histStatus] ⊆ ps) (hs : Only ps s0 s) : Only ps s0 (State.askHistClear s slot) := by
  unfold State.askHistClear
  refine Only.ite ?_ ?_
  · refine Only.step (t := s) (ps := [Part.readout]) (fun p hp => by cases p <;> first | rfl | exact ⟨rfl, rfl⟩ | exact ⟨rfl, rfl, rfl⟩ | exact image_congr rfl | exact fun h => h | exact absurd (by decide) hp) (List.Subset.trans (by decide) hm) ?_
    exact hs
  · refine State.clearHist_only (List.Subset.trans (by decide) hm) ?_
    exact hs

theorem State.writePort_only {ps : List Part} {s0 : State} {s : State} {w : RecWrite} {x : Nat}
    (hm : [Part.image Rec.ulpControl, Part.ports, Part.image Rec.ulpStatus, Part.mailboxes, Part.log, Part.image Rec.logStatus, Part.out, Part.hatband, Part.host, Part.clock, Part.image Rec.timeStatus] ⊆ ps) (hs : Only ps s0 s) : Only ps s0 (State.writePort s w x) := by
  unfold State.writePort
  extract_lets v1 v2 v3 v4 v5 v6
  try clear_value v1
  have hv2 : Only ps s0 v2 := by
    unfold v2
    refine State.setImage_only (List.Subset.trans (by decide) hm) ?_
    exact hs
  try clear_value v2
  try clear_value v3
  have hv4 : Only ps s0 v4 := by
    unfold v4
    refine Only.ite ?_ ?_
    · refine State.setPort_only (List.Subset.trans (by decide) hm) ?_
      exact hv2
    · exact hv2
  try clear_value v4
  have hv5 : Only ps s0 v5 := by
    unfold v5
    refine State.settlePort_only (List.Subset.trans (by decide) hm) ?_
    exact hv4
  try clear_value v5
  have hv6 : Only ps s0 v6 := by
    unfold v6
    refine Only.ite ?_ ?_
    · refine State.orderRx_only (List.Subset.trans (by decide) hm) ?_
      exact hv5
    · exact hv5
  try clear_value v6
  refine Only.ite ?_ ?_
  · refine State.commitTable_only (List.Subset.trans (by decide) hm) ?_
    exact hv6
  · exact hv6

theorem State.writeLane_only {ps : List Part} {s0 : State} {s : State} {w : RecWrite} {x : Nat}
    (hm : [Part.image Rec.ulpLane, Part.ports] ⊆ ps) (hs : Only ps s0 s) : Only ps s0 (State.writeLane s w x) := by
  unfold State.writeLane
  extract_lets v1 v2 v3
  try clear_value v1
  have hv2 : Only ps s0 v2 := by
    unfold v2
    refine State.setImage_only (List.Subset.trans (by decide) hm) ?_
    exact hs
  try clear_value v2
  have hv3 : Only ps s0 v3 := by
    unfold v3
    refine Only.ite ?_ ?_
    · refine State.putFlag_only (List.Subset.trans (by decide) hm) ?_
      exact hv2
    · exact hv2
  try clear_value v3
  refine Only.ite ?_ ?_
  · refine State.inject_only (List.Subset.trans (by decide) hm) ?_
    exact hv3
  · exact hv3

theorem State.writeCapture_only {ps : List Part} {s0 : State} {s : State} {w : RecWrite} {x : Nat}
    (hm : [Part.image Rec.capControl, Part.capture, Part.image Rec.capStatus] ⊆ ps) (hs : Only ps s0 s) : Only ps s0 (State.writeCapture s w x) := by
  unfold State.writeCapture
  extract_lets v1 v2 v3
  have hv1 : Only ps s0 v1 := by
    unfold v1
    refine State.setImage_only (List.Subset.trans (by decide) hm) ?_
    exact hs
  try clear_value v1
  try clear_value v2
  have hv3 : Only ps s0 v3 := by
    unfold v3
    refine State.setCapture_only (List.Subset.trans (by decide) hm) ?_
    exact hv1
  try clear_value v3
  refine Only.ite ?_ ?_
  · refine State.put_only (List.Subset.trans (by decide) hm) ?_
    refine State.put_only (List.Subset.trans (by decide) hm) ?_
    exact hv3
  · exact hv1

theorem State.writeCapRp_only {ps : List Part} {s0 : State} {s : State} {v : Nat}
    (hm : [Part.image Rec.capStatus, Part.capture] ⊆ ps) (hs : Only ps s0 s) : Only ps s0 (State.writeCapRp s v) := by
  unfold State.writeCapRp
  refine State.put_only (List.Subset.trans (by decide) hm) ?_
  refine State.setCapture_only (List.Subset.trans (by decide) hm) ?_
  exact hs

theorem State.writeOq_only {ps : List Part} {s0 : State} {s : State} {q : Nat} {x : Nat}
    (hm : [Part.image Rec.outQueue] ⊆ ps) (hs : Only ps s0 s) : Only ps s0 (State.writeOq s q x) := by
  unfold State.writeOq
  extract_lets v1 v2
  try clear_value v1
  have hv2 : Only ps s0 v2 := by
    unfold v2
    refine State.setImage_only (List.Subset.trans (by decide) hm) ?_
    exact hs
  try clear_value v2
  refine Only.ite ?_ ?_
  · refine State.put_only (List.Subset.trans (by decide) hm) ?_
    refine State.put_only (List.Subset.trans (by decide) hm) ?_
    exact hv2
  · exact hv2

theorem State.writeTime_only {ps : List Part} {s0 : State} {s : State} {x : Nat}
    (hm : [Part.image Rec.timeControl, Part.clock, Part.image Rec.timeStatus, Part.log, Part.image Rec.logStatus, Part.out, Part.hatband] ⊆ ps) (hs : Only ps s0 s) : Only ps s0 (State.writeTime s x) := by
  unfold State.writeTime
  extract_lets v1 v2
  try clear_value v1
  have hv2 : Only ps s0 v2 := by
    unfold v2
    refine State.setImage_only (List.Subset.trans (by decide) hm) ?_
    exact hs
  try clear_value v2
  refine Only.ite ?_ ?_
  · refine State.holdover_only (List.Subset.trans (by decide) hm) ?_
    exact hv2
  · exact hv2

theorem State.writeOwners_only {ps : List Part} {s0 : State} {s : State} {w : RecWrite} {x : Nat}
    (hm : [Part.loaded, Part.image Rec.ownership] ⊆ ps) (hs : Only ps s0 s) : Only ps s0 (State.writeOwners s w x) := by
  unfold State.writeOwners
  extract_lets v1
  try clear_value v1
  refine Only.foldl (fun x2 _ hx2 => ?_) _ ?_
  · refine State.evictAll_only (List.Subset.trans (by decide) hm) ?_
    exact hx2
  · refine State.setImage_only (List.Subset.trans (by decide) hm) ?_
    exact hs

theorem State.writeRing_only {ps : List Part} {s0 : State} {s : State} {w : RecWrite} {x : Nat}
    (hm : [Part.image Rec.ring, Part.host] ⊆ ps) (hs : Only ps s0 s) : Only ps s0 (State.writeRing s w x) := by
  unfold State.writeRing
  extract_lets v1 v2 v3 v4 v5
  try clear_value v1
  try clear_value v2
  try clear_value v3
  have hv4 : Only ps s0 v4 := by
    unfold v4
    refine State.setImage_only (List.Subset.trans (by decide) hm) ?_
    exact hs
  try clear_value v4
  have hv5 : Only ps s0 v5 := by
    unfold v5
    refine Only.ite ?_ ?_
    · refine State.putFlag_only (List.Subset.trans (by decide) hm) ?_
      exact hv4
    · exact hv4
  try clear_value v5
  refine Only.ite ?_ ?_
  · refine State.setCi_only (List.Subset.trans (by decide) hm) ?_
    refine State.setPi_only (List.Subset.trans (by decide) hm) ?_
    exact hv5
  · refine Only.ite ?_ ?_
    · refine State.disableRing_only (List.Subset.trans (by decide) hm) ?_
      exact hv5
    · exact hv5

theorem State.askReadmit_only {ps : List Part} {s0 : State} {s : State} {i : Nat}
    (hm : [Part.monitor] ⊆ ps) (hs : Only ps s0 s) : Only ps s0 (State.askReadmit s i) := by
  unfold State.askReadmit
  refine Only.ite ?_ ?_
  · refine State.setMonitor_only (List.Subset.trans (by decide) hm) ?_
    exact hs
  · exact hs

theorem State.writeMonitor_only {ps : List Part} {s0 : State} {s : State} {x : Nat}
    (hm : [Part.monitor, Part.image Rec.monControl] ⊆ ps) (hs : Only ps s0 s) : Only ps s0 (State.writeMonitor s x) := by
  unfold State.writeMonitor
  refine Only.ite ?_ ?_
  · refine State.setMonitor_only (List.Subset.trans (by decide) hm) ?_
    exact hs
  · refine State.setImage_only (List.Subset.trans (by decide) hm) ?_
    exact hs

theorem State.writeBiasConfig_only {ps : List Part} {s0 : State} {s : State} {n : Nat} {x : Nat}
    (hm : [Part.image Rec.biasConfig, Part.bias] ⊆ ps) (hs : Only ps s0 s) : Only ps s0 (State.writeBiasConfig s n x) := by
  unfold State.writeBiasConfig
  extract_lets v1 v2
  try clear_value v1
  try clear_value v2
  refine State.setImage_only (List.Subset.trans (by decide) hm) ?_
  refine State.setBias_only (List.Subset.trans (by decide) hm) ?_
  exact hs

theorem State.writeSync_only {ps : List Part} {s0 : State} {s : State} {x : Nat}
    (hm : [Part.out, Part.clock, Part.image Rec.syncControl] ⊆ ps) (hs : Only ps s0 s) : Only ps s0 (State.writeSync s x) := by
  unfold State.writeSync
  refine Only.ite ?_ ?_
  · refine State.syncOff_only (List.Subset.trans (by decide) hm) ?_
    refine State.setImage_only (List.Subset.trans (by decide) hm) ?_
    exact hs
  · refine State.setImage_only (List.Subset.trans (by decide) hm) ?_
    exact hs

theorem State.writeTrigOut_only {ps : List Part} {s0 : State} {s : State} {i : Nat} {x : Nat}
    (hm : [Part.image Rec.trigOut, Part.out] ⊆ ps) (hs : Only ps s0 s) : Only ps s0 (State.writeTrigOut s i x) := by
  unfold State.writeTrigOut
  extract_lets v1 v2
  try clear_value v1
  have hv2 : Only ps s0 v2 := by
    unfold v2
    refine State.setImage_only (List.Subset.trans (by decide) hm) ?_
    exact hs
  try clear_value v2
  refine Only.ite ?_ ?_
  · exact hv2
  · refine State.emit_only (List.Subset.trans (by decide) hm) ?_
    exact hv2

theorem State.writeRecord_only {ps : List Part} {s0 : State} {s : State} {w : RecWrite}
    (hm : resetParts ⊆ ps) (hs : Only ps s0 s) : Only ps s0 (State.writeRecord s w) := by
  unfold State.writeRecord
  extract_lets v1 v2 v3 v4 v5 v6 v7
  have hv3 : Only ps s0 v3 := by
    unfold v3
    refine State.writeShadowed_only (List.Subset.trans (by first | exact image_sub (List.subset_append_left _ _) | exact sub_reset (by first | decide | simp)) hm) ?_
    exact hs
  try clear_value v3
  have hv4 : Only ps s0 v4 := by
    unfold v4
    refine State.setImage_only (List.Subset.trans (by first | exact image_sub (List.subset_append_left _ _) | exact sub_reset (by first | decide | simp)) hm) ?_
    exact hs
  try clear_value v4
  have hv5 : Only ps s0 v5 := by
    unfold v5
    refine State.setImage_only (List.Subset.trans (by first | exact image_sub (List.subset_append_left _ _) | exact sub_reset (by first | decide | simp)) hm) ?_
    exact hs
  try clear_value v5
  have hv6 : Only ps s0 v6 := by
    unfold v6
    refine State.setImage_only (List.Subset.trans (by first | exact image_sub (List.subset_append_left _ _) | exact sub_reset (by first | decide | simp)) hm) ?_
    exact hs
  try clear_value v6
  have hv7 : Only ps s0 v7 := by
    unfold v7
    refine State.setImage_only (List.Subset.trans (by first | exact image_sub (List.subset_append_left _ _) | exact sub_reset (by first | decide | simp)) hm) ?_
    exact hs
  try clear_value v7
  split
  · refine Only.setShadows (List.Subset.trans (by first | exact image_sub (List.subset_append_left _ _) | exact sub_reset (by first | decide | simp)) hm) ?_
    exact hs
  · refine Only.ite ?_ ?_
    · refine State.commitMatrix_only (List.Subset.trans (by first | exact image_sub (List.subset_append_left _ _) | exact sub_reset (by first | decide | simp)) hm) ?_
      exact hs
    · exact hs
  · refine State.writeShadowed_only (List.Subset.trans (by first | exact image_sub (List.subset_append_left _ _) | exact sub_reset (by first | decide | simp)) hm) ?_
    exact hs
  · refine State.writeShadowed_only (List.Subset.trans (by first | exact image_sub (List.subset_append_left _ _) | exact sub_reset (by first | decide | simp)) hm) ?_
    exact hs
  · refine State.writeShadowed_only (List.Subset.trans (by first | exact image_sub (List.subset_append_left _ _) | exact sub_reset (by first | decide | simp)) hm) ?_
    exact hs
  · refine State.writeShadowed_only (List.Subset.trans (by first | exact image_sub (List.subset_append_left _ _) | exact sub_reset (by first | decide | simp)) hm) ?_
    exact hs
  · refine State.writeShadowed_only (List.Subset.trans (by first | exact image_sub (List.subset_append_left _ _) | exact sub_reset (by first | decide | simp)) hm) ?_
    exact hs
  · refine State.writeShadowed_only (List.Subset.trans (by first | exact image_sub (List.subset_append_left _ _) | exact sub_reset (by first | decide | simp)) hm) ?_
    exact hs
  · refine State.writeShadowed_only (List.Subset.trans (by first | exact image_sub (List.subset_append_left _ _) | exact sub_reset (by first | decide | simp)) hm) ?_
    exact hs
  · refine Only.ite ?_ ?_
    · refine State.askHistClear_only (List.Subset.trans (by first | exact image_sub (List.subset_append_left _ _) | exact sub_reset (by first | decide | simp)) hm) ?_
      exact hv3
    · exact hv3
  · refine Only.ite ?_ ?_
    · refine State.clearMute_only (List.Subset.trans (by first | exact image_sub (List.subset_append_left _ _) | exact sub_reset (by first | decide | simp)) hm) ?_
      exact hs
    · exact hs
  · refine State.askLatches_only (List.Subset.trans (by first | exact image_sub (List.subset_append_left _ _) | exact sub_reset (by first | decide | simp)) hm) ?_
    exact hs
  · refine Only.ite ?_ ?_
    · refine State.commitWeights_only (List.Subset.trans (by first | exact image_sub (List.subset_append_left _ _) | exact sub_reset (by first | decide | simp)) hm) ?_
      exact hs
    · exact hs
  · refine Only.ite ?_ ?_
    · refine State.putFlag_only (List.Subset.trans (by first | exact image_sub (List.subset_append_left _ _) | exact sub_reset (by first | decide | simp)) hm) ?_
      exact hv4
    · exact hv4
  · refine State.put_only (List.Subset.trans (by first | exact image_sub (List.subset_append_left _ _) | exact sub_reset (by first | decide | simp)) hm) ?_
    refine State.setImage_only (List.Subset.trans (by first | exact image_sub (List.subset_append_left _ _) | exact sub_reset (by first | decide | simp)) hm) ?_
    exact hs
  · refine Only.ite ?_ ?_
    · refine State.put_only (List.Subset.trans (by first | exact image_sub (List.subset_append_left _ _) | exact sub_reset (by first | decide | simp)) hm) ?_
      exact hv5
    · exact hv5
  · refine Only.ite ?_ ?_
    · refine State.commitStore_only (List.Subset.trans (by first | exact image_sub (List.subset_append_left _ _) | exact sub_reset (by first | decide | simp)) hm) ?_
      exact hv6
    · exact hv6
  · refine Only.ite ?_ ?_
    · refine State.commitLib_only (List.Subset.trans (by first | exact image_sub (List.subset_append_left _ _) | exact sub_reset (by first | decide | simp)) hm) ?_
      exact hv7
    · exact hv7
  · refine State.writePort_only (List.Subset.trans (by first | exact image_sub (List.subset_append_left _ _) | exact sub_reset (by first | decide | simp)) hm) ?_
    exact hs
  · refine State.writeLane_only (List.Subset.trans (by first | exact image_sub (List.subset_append_left _ _) | exact sub_reset (by first | decide | simp)) hm) ?_
    exact hs
  · refine State.writeCapture_only (List.Subset.trans (by first | exact image_sub (List.subset_append_left _ _) | exact sub_reset (by first | decide | simp)) hm) ?_
    exact hs
  · refine Only.ite ?_ ?_
    · refine State.writeCapRp_only (List.Subset.trans (by first | exact image_sub (List.subset_append_left _ _) | exact sub_reset (by first | decide | simp)) hm) ?_
      exact hs
    · exact hs
  · refine State.writeOq_only (List.Subset.trans (by first | exact image_sub (List.subset_append_left _ _) | exact sub_reset (by first | decide | simp)) hm) ?_
    exact hs
  · refine State.writeTime_only (List.Subset.trans (by first | exact image_sub (List.subset_append_left _ _) | exact sub_reset (by first | decide | simp)) hm) ?_
    exact hs
  · refine State.writeOwners_only (List.Subset.trans (by first | exact image_sub (List.subset_append_left _ _) | exact sub_reset (by first | decide | simp)) hm) ?_
    exact hs
  · refine State.writeRing_only (List.Subset.trans (by first | exact image_sub (List.subset_append_left _ _) | exact sub_reset (by first | decide | simp)) hm) ?_
    exact hs
  · refine Only.ite ?_ ?_
    · refine State.askReadmit_only (List.Subset.trans (by first | exact image_sub (List.subset_append_left _ _) | exact sub_reset (by first | decide | simp)) hm) ?_
      exact hs
    · exact hs
  · refine State.writeMonitor_only (List.Subset.trans (by first | exact image_sub (List.subset_append_left _ _) | exact sub_reset (by first | decide | simp)) hm) ?_
    exact hs
  · refine State.writeTrigOut_only (List.Subset.trans (by first | exact image_sub (List.subset_append_left _ _) | exact sub_reset (by first | decide | simp)) hm) ?_
    exact hs
  · refine State.writeBiasConfig_only (List.Subset.trans (by first | exact image_sub (List.subset_append_left _ _) | exact sub_reset (by first | decide | simp)) hm) ?_
    exact hs
  · refine State.writeSync_only (List.Subset.trans (by first | exact image_sub (List.subset_append_left _ _) | exact sub_reset (by first | decide | simp)) hm) ?_
    exact hs
  · refine State.setImage_only (List.Subset.trans (by first | exact image_sub (List.subset_append_left _ _) | exact sub_reset (by first | decide | simp)) hm) ?_
    exact hs

end Machine

end Sys2Proof
end

