-- ==== Sys2Proof/Laws/FrameParams.lean ====
section
/-! SUPPORT. What each operation of Params.lean may change: one lemma an operation. -/

namespace Sys2Proof

open Machine

namespace Machine

theorem State.readEntry_only {ps : List Part} {s0 : State} {s : State} {e : ParamEntry}
    (hm : (imageParts ++ [Part.hatband, Part.ports, Part.capture]) ⊆ ps) (hs : Only ps s0 s) : Only ps s0 (State.readEntry s e).2 := by
  unfold State.readEntry
  split
  · dsimp only
    refine State.afterRead_only (List.Subset.trans (by first | exact List.Subset.refl _ | exact image_sub (List.subset_append_left _ _) | exact List.append_subset.mpr ⟨List.subset_append_left _ _, sub_images (by decide)⟩) hm) ?_
    exact hs
  · dsimp only
    exact hs

theorem State.readEntries_only {ps : List Part} {s0 s : State} {x : List ParamEntry}
    (hm : imageParts ++ [Part.hatband, Part.ports, Part.capture] ⊆ ps) (hs : Only ps s0 s) :
    Only ps s0 (s.readEntries x).2 := by
  induction x generalizing s with
  | nil => exact hs
  | cons e es ih => exact ih (State.readEntry_only hm hs)

theorem State.writeAlone_only {ps : List Part} {s0 s : State} {m id value mask : Nat} (hm : resetParts ⊆ ps)
    (hs : Only ps s0 s) : Only ps s0 (s.writeAlone m id value mask) := by
  have he : [Part.out] ⊆ ps := List.Subset.trans (sub_reset (by decide)) hm
  have hw : ∀ (l : List (ParamEntry × RecWrite × State)) (x : State), Only ps s0 x →
      Only ps s0 (l.foldl (fun s x => s.writeRecord x.2.1) x) := fun l x hx =>
    Only.foldl (fun y _ hy => State.writeRecord_only (List.Subset.trans (by first | exact image_sub (List.subset_append_left _ _) | exact List.append_subset.mpr ⟨List.subset_append_left _ _, sub_reset (by decide)⟩) hm) hy) l hx
  unfold State.writeAlone
  refine Only.ite ?_ hs
  extract_lets r c
  split
  · exact State.emit_only he hs
  · exact State.emit_only he (hw _ _ hs)

theorem State.writeField_only {ps : List Part} {s0 : State} {s : State} {m : Nat} {f : Field} {i : Nat} {v : Nat}
    (hm : resetParts ⊆ ps) (hs : Only ps s0 s) : Only ps s0 (State.writeField s m f i v) := by
  unfold State.writeField
  refine State.writeAlone_only hm ?_
  exact hs

end Machine

end Sys2Proof
end

