-- ==== Sys2Proof/Laws/FrameTick.lean ====
section
/-! SUPPORT. What each operation of Tick.lean may change: one lemma an operation. -/

namespace Sys2Proof

open Machine

namespace Machine

theorem State.countOn_only {ps : List Part} {s0 : State} {s : State}
    (hm : [Part.si, Part.wall] ⊆ ps) (hs : Only ps s0 s) : Only ps s0 (State.countOn s) := by
  unfold State.countOn
  extract_lets v1 v2
  try clear_value v1
  refine Only.step (t := s) (ps := [Part.si, Part.wall]) (fun p hp => by cases p <;> first | rfl | exact ⟨rfl, rfl⟩ | exact ⟨rfl, rfl, rfl⟩ | exact image_congr rfl | exact fun h => h | exact absurd (by decide) hp) (List.Subset.trans (by decide) hm) ?_
  exact hs

theorem State.tickOn_only {ps : List Part} {s0 : State} {s : State}
    (hm : Part.now :: resetParts ⊆ ps) (hs : Only ps s0 s) : Only ps s0 (State.tickOn s) := by
  have hr : resetParts ⊆ ps := List.Subset.trans (List.subset_cons_self _ _) hm
  have ho : Part.out ∈ ps := hr (by decide)
  have hn : Part.now ∈ ps := hm (by simp)
  unfold State.tickOn
  extract_lets v1 v2 v3
  have hv2 : Only ps s0 v2 :=
    State.setClock_only (s := { s with out := [] }) (List.Subset.trans (sub_reset (by decide)) hr) (.inl hn) (.inr rfl)
      (.inr ⟨rfl, rfl⟩) (Only.setOut (by simpa using ho) hs)
  clear_value v2
  have hv3 : Only ps s0 v3 :=
    Only.ite (State.countOn_only (List.Subset.trans (sub_reset (by decide)) hr)
      (State.integrateAll_only (List.Subset.trans (sub_reset (by decide)) hr) hv2)) hv2
  clear_value v3
  exact State.rampEnded_only hr (State.watchPulse_only (List.Subset.trans (sub_reset (by decide)) hr)
    (State.arbitrate_only (List.Subset.trans (sub_reset (by decide)) hr) hv3))

end Machine

end Sys2Proof
end

