-- ==== Sys2Proof/Laws/FrameStep.lean ====
section
/-! SUPPORT. What each operation of Step.lean may change: one lemma an operation. -/

namespace Sys2Proof

open Machine

namespace Machine

theorem State.withFetchWord_only {ps : List Part} {s0 : State} {s : State} {nbits : Nat} {w : Nat}
    (hm : [Part.pending] ⊆ ps) (hs : Only ps s0 s) : Only ps s0 (State.withFetchWord s nbits w) := by
  unfold State.withFetchWord
  split
  · refine Only.setPending (List.Subset.trans (by decide) hm) ?_
    exact hs
  · exact hs

end Machine

end Sys2Proof
end

