-- ==== Sys2Proof/Laws/Fields.lean ====
section
/-! SUPPORT. What a record field reads after a write, and after any step whose footprint leaves its family alone. -/

namespace Sys2Proof

open Machine

namespace Machine

/-! ### Images -/

@[simp] theorem State.image_setImage (s : State) (r : Rec) (i v : Nat) : (s.setImage r i v).image r i = v :=
  SMap.read_write_self _ _ _ _

/-- Two records of a family whose numbers differ are held under two keys. -/
theorem Rec.key_ne_of_mod (r : Rec) {i j : Nat} (h : i % r.place.count ≠ j % r.place.count) : r.key i ≠ r.key j := by
  unfold Rec.key Rec.id
  split <;> omega

theorem State.image_setImage_index (s : State) (r : Rec) {i j : Nat} (v : Nat)
    (h : i % r.place.count ≠ j % r.place.count) : (s.setImage r i v).image r j = s.image r j :=
  SMap.read_write_ne _ _ _ _ (r.key_ne_of_mod (Ne.symm h))

/-! ### Fields -/

theorem State.get_lt (s : State) (f : Field) (i : Nat) : s.get f i < 2 ^ f.width := bits_lt _ _ _

theorem State.get_put (s : State) (f : Field) (i v : Nat) : (s.put f i v).get f i = v % 2 ^ f.width := by
  simp [State.get, State.put]

theorem State.get_put_of_lt (s : State) (f : Field) (i : Nat) {v : Nat} (h : v < 2 ^ f.width) :
    (s.put f i v).get f i = v := by
  rw [State.get_put, Nat.mod_eq_of_lt h]

/-- A write of a field leaves a field beside it in the same record alone. -/
theorem State.get_put_ne (s : State) (f g : Field) (i v : Nat) (hr : g.record = f.record)
    (h : g.lo + g.width ≤ f.lo ∨ f.lo + f.width ≤ g.lo) : (s.put f i v).get g i = s.get g i := by
  simp only [State.get, State.put, hr, State.image_setImage]
  exact bits_setBits_ne _ _ _ _ h

/-- A write of a field leaves every other record of its family alone. -/
theorem State.get_put_index (s : State) (f g : Field) {i j : Nat} (v : Nat) (hr : g.record = f.record)
    (h : i % f.record.place.count ≠ j % f.record.place.count) : (s.put f i v).get g j = s.get g j := by
  simp only [State.get, State.put, hr, State.image_setImage_index s f.record _ h]

/-- A write of a field leaves the records of every other family alone. -/
theorem State.get_put_record (s : State) (f g : Field) (i j v : Nat) (h : g.record ≠ f.record) :
    (s.put f i v).get g j = s.get g j := by
  simp only [State.get, State.put]
  rw [s.image_setImage_ne h]

theorem State.get_congr {s t : State} (h : t.records = s.records) (f : Field) (i : Nat) : t.get f i = s.get f i := by
  unfold State.get
  rw [image_congr h]

theorem State.flag_congr {s t : State} (h : t.records = s.records) (f : Field) (i : Nat) :
    t.flag f i = s.flag f i := by
  unfold State.flag
  rw [State.get_congr h]

/-- A write of a field leaves every field beside it alone, wherever it stands. -/
theorem State.get_put_other (s : State) {f g : Field} {i v : Nat}
    (h : g.record = f.record → g.lo + g.width ≤ f.lo ∨ f.lo + f.width ≤ g.lo) : (s.put f i v).get g i = s.get g i := by
  by_cases hr : g.record = f.record
  · exact s.get_put_ne f g i v hr (h hr)
  · exact s.get_put_record f g i i v hr

theorem State.flag_putFlag (s : State) (f : Field) (i : Nat) (b : Bool) (h : 0 < f.width) :
    (s.putFlag f i b).flag f i = b := by
  have h2 : 2 ≤ 2 ^ f.width := Nat.pow_le_pow_right (n := 2) (by omega) h
  cases b <;> simp [State.flag, State.putFlag, State.get_put, Nat.mod_eq_of_lt, show 1 < 2 ^ f.width by omega]

theorem satAdd_lt (n k w : Nat) : satAdd n k w < 2 ^ w := by
  have := Nat.two_pow_pos w
  unfold satAdd
  omega

/-- A counter counts with saturation. -/
theorem State.get_count (s : State) (f : Field) (i k : Nat) :
    (s.count f i k).get f i = satAdd (s.get f i) k f.width :=
  State.get_put_of_lt _ _ _ (satAdd_lt _ _ _)

/-- A copy of a field reads what was put into it. -/
theorem State.getAt_putAt (s : State) (f : Field) (i j v : Nat) :
    (s.putAt f i j v).getAt f i j = v % 2 ^ f.width := by
  simp [State.getAt, State.putAt]

end Machine

/-! ### Fields under a footprint -/

namespace Only

theorem image {ps : List Part} {s t : State} (h : Only ps s t) {r : Rec} (hr : Part.image r ∉ ps) (i : Nat) :
    t.image r i = s.image r i := h (.image r) hr i

theorem get {ps : List Part} {s t : State} (h : Only ps s t) {f : Field} (hr : Part.image f.record ∉ ps) (i : Nat) :
    t.get f i = s.get f i := by
  unfold State.get
  rw [h.image hr]

theorem getAt {ps : List Part} {s t : State} (h : Only ps s t) {f : Field} (hr : Part.image f.record ∉ ps)
    (i j : Nat) : t.getAt f i j = s.getAt f i j := by
  unfold State.getAt
  rw [h.image hr]

theorem flag {ps : List Part} {s t : State} (h : Only ps s t) {f : Field} (hr : Part.image f.record ∉ ps) (i : Nat) :
    t.flag f i = s.flag f i := by
  unfold State.flag
  rw [h.get hr]

end Only

end Sys2Proof
end

