-- ==== Sys2Proof/Laws/Serve.lean ====
section
/-! SUPPORT. What a mailbox command answers: one lemma for each of the ways in which a request that passes its checks
can end. -/

namespace Sys2Proof

open Machine

namespace Machine

theorem State.mailbox_setMailbox (s : State) (m : Nat) (x : Mailbox) : (s.setMailbox m x).mailbox m = x :=
  SMap.read_write_self _ _ _ _

theorem State.mailbox_signal (s : State) (f v m : Nat) : (s.signal f v).mailbox m = s.mailbox m := by
  unfold State.signal State.send
  split <;> rfl

theorem State.mailbox_report (s : State) (cls : Nat) (l : Bool) (src a b m : Nat) :
    (s.report cls l src a b).mailbox m = s.mailbox m := by
  have h := State.report_only (ps := [Part.log, Part.image Rec.logStatus, Part.out, Part.hatband])
    (cls := cls) (lasting := l) (source := src) (a := a) (b := b) (List.Subset.refl _) (Only.refl _ s)
  unfold State.mailbox
  rw [(h .mailboxes (by decide)).1]

/-- The mailbox after a response. -/
theorem State.mailbox_respond (s : State) (m : Nat) (r : Response) (q : Nat) :
    (s.respond m r q).mailbox m =
      { s.mailbox m with busy := false, done := true, stored := some (r, q) } := by
  unfold State.respond
  extract_lets x failed s1 s2
  clear_value s1
  have h2 : s2.mailbox m = { x with busy := false, done := true, stored := some (r, q) } :=
    State.mailbox_setMailbox _ _ _
  split
  · rw [State.mailbox_signal, h2]
  · exact h2

theorem State.mailbox_reply (s : State) (r : Request) (st : Status) (d : Nat) (p : List Byte) :
    (s.reply r st d p).mailbox r.m =
      { s.mailbox r.m with busy := false, done := true, stored := some (r.response st d p, r.sealWord) } :=
  State.mailbox_respond _ _ _ _

theorem State.verdict_refused (c : Command) (b : Bool) (h : b = false) (mode : Mode) :
    ({ c with refused := c.refused || b } : Command).verdict mode = c.verdict mode := by
  subst h
  simp [Command.verdict]

/-- A request that passes runs its command on the state in which it has been taken. -/
theorem State.serve_passes {s : State} {m code : Nat} {cmd : Request → State → Command} (h : Passes s m code cmd) :
    s.fresh.serve m code cmd = s.taken.settle (s.request m) ((cmd (s.request m) s.taken).act s.taken) := by
  have hr : requestOf m (s.fresh.mailbox m).request = s.request m := rfl
  have hh : s.fresh.atHead m = true := h.next
  have hs : s.fresh.popAccepted.screen (s.request m) = .go := h.screen
  have hv : s.taken.refuses (s.request m) = false := h.served
  unfold State.serve
  simp only [hr, hh, h.code, decide_true, Bool.true_or, Bool.and_true, ↓reduceIte, hs]
  change s.taken.run (s.request m) (cmd (s.request m) s.taken) = _
  unfold State.run
  rw [State.verdict_refused _ _ hv]
  have : s.taken.mode = s.mode := rfl
  rw [this, h.verdict]

end Machine

theorem Passes.m_request (s : State) (m : Nat) : (s.request m).m = m := rfl

/-- What a request that passes and is done leaves: its response, and whatever the effect left that a response does not
touch. -/
theorem Passes.ok {s : State} {m code : Nat} {cmd : Request → State → Command} (h : Passes s m code cmd) {u : State}
    {p : List Byte} (ha : (cmd (s.request m) s.taken).act s.taken = .ok u p) :
    s.fresh.serve m code cmd = u.reply (s.request m) .ok 0 p := by
  rw [State.serve_passes h, ha]
  rfl

theorem Passes.fail {s : State} {m code : Nat} {cmd : Request → State → Command} (h : Passes s m code cmd) {u : State}
    {st : Status} {d : Nat} (ha : (cmd (s.request m) s.taken).act s.taken = .fail u st d) :
    s.fresh.serve m code cmd = u.reply (s.request m) st d [] := by
  rw [State.serve_passes h, ha]
  rfl

theorem Passes.quiet {s : State} {m code : Nat} {cmd : Request → State → Command} (h : Passes s m code cmd) {u : State}
    (ha : (cmd (s.request m) s.taken).act s.taken = .quiet u) : s.fresh.serve m code cmd = u := by
  rw [State.serve_passes h, ha]
  rfl

/-- The response to a request, where the effect left the mailbox alone. -/
theorem Answered.reply {s u : State} {m : Nat} {st : Status} {d : Nat} {p : List Byte}
    (hu : u.mailbox m = s.mailbox m) : Answered s (u.reply (s.request m) st d p) m st d p := by
  unfold Answered
  rw [← hu]
  exact State.mailbox_reply u (s.request m) st d p

/-- A command that has had its effect has been answered. -/
theorem Done.answered {s t : State} {m : Nat} {p : List Byte} {P : State → Prop} (h : Done s t m p P) :
    Answered s t m .ok 0 p := by
  obtain ⟨u, -, hu, rfl⟩ := h
  exact Answered.reply hu

/-- A request that passes and only asks. -/
theorem Passes.query {c : Instr} {s : State} {m code : Nat} {cmd : Request → State → Command} {p : List Byte}
    (h : Passes s m code cmd) (he : exec c s = .next (s.fresh.serve m code cmd))
    (ha : (cmd (s.request m) s.taken).act s.taken = .ok s.taken p) : Runs c s fun t => Answered s t m .ok 0 p :=
  ⟨_, he.trans (congrArg Host.Outcome.next (h.ok ha)), Answered.reply rfl⟩

/-- A request that passes and acts at once. -/
theorem Passes.done {c : Instr} {s u : State} {m code : Nat} {cmd : Request → State → Command} {p : List Byte}
    {P : State → Prop} (h : Passes s m code cmd) (he : exec c s = .next (s.fresh.serve m code cmd))
    (ha : (cmd (s.request m) s.taken).act s.taken = .ok u p) (hu : u.mailbox m = s.mailbox m) (hP : P u) :
    Runs c s fun t => Done s t m p P :=
  ⟨_, he.trans (congrArg Host.Outcome.next (h.ok ha)), u, hP, hu, rfl⟩

/-- A request that passes and is answered within its effect. -/
theorem Passes.quietly {c : Instr} {s u : State} {m code : Nat} {cmd : Request → State → Command} {P : State → Prop}
    (h : Passes s m code cmd) (he : exec c s = .next (s.fresh.serve m code cmd))
    (ha : (cmd (s.request m) s.taken).act s.taken = .quiet u) (hP : P u) : Runs c s P :=
  ⟨_, he.trans (congrArg Host.Outcome.next (h.quiet ha)), hP⟩

/-- A request that passes and acts at once, where the effect touches the mailboxes. -/
theorem Passes.replied {c : Instr} {s u : State} {m code : Nat} {cmd : Request → State → Command} {p : List Byte}
    {P : State → Prop} (h : Passes s m code cmd) (he : exec c s = .next (s.fresh.serve m code cmd))
    (ha : (cmd (s.request m) s.taken).act s.taken = .ok u p) (hP : P (u.reply (s.request m) .ok 0 p)) : Runs c s P :=
  ⟨_, he.trans (congrArg Host.Outcome.next (h.ok ha)), hP⟩

/-- A request that passes its checks and fails in the act. -/
theorem Passes.failed {c : Instr} {s u : State} {m code : Nat} {cmd : Request → State → Command} {st : Status} {d : Nat}
    {P : State → Prop} (h : Passes s m code cmd) (he : exec c s = .next (s.fresh.serve m code cmd))
    (ha : (cmd (s.request m) s.taken).act s.taken = .fail u st d) (hP : P (u.reply (s.request m) st d [])) :
    Runs c s P :=
  ⟨_, he.trans (congrArg Host.Outcome.next (h.fail ha)), hP⟩

/-- A change of the list of deferred commands. -/
theorem Only.setDeferred (u : State) (d : List Deferred) :
    Only [Part.mailboxes] u { u with host := { u.host with deferred := d } } := by
  intro p hp
  cases p <;>
    first
    | rfl | exact ⟨rfl, rfl⟩ | exact image_congr rfl | exact fun h => h | exact absurd (by decide) hp

/-- A request that passes and waits. -/
theorem Passes.deferring {c : Instr} {s u : State} {m code : Nat} {cmd : Request → State → Command} {w : Wait}
    {P : State → Prop} (h : Passes s m code cmd) (he : exec c s = .next (s.fresh.serve m code cmd))
    (ha : (cmd (s.request m) s.taken).act s.taken = .wait u w) (hd : u.host.deferred = s.host.deferred)
    (hu : u.mailbox m = s.mailbox m) (hP : ∀ v, Only [Part.mailboxes] u v → P v) :
    Runs c s fun t => Deferring s t m w ∧ P t := by
  refine ⟨_, he.trans (congrArg Host.Outcome.next ((State.serve_passes h).trans (congrArg _ ha))), ⟨hu, ?_⟩, hP _ ?_⟩
  · change u.host.deferred ++ _ = _
    rw [hd]
    rfl
  · exact Only.setDeferred u _

/-- The state in which a command acts differs from the one it found in the accepted list and in what was sent. -/
theorem taken_only {ps : List Part} (s : State) (h : [Part.out, Part.mailboxes] ⊆ ps) : Only ps s s.taken :=
  State.popAccepted_only (List.Subset.trans (by decide) h)
    (State.fresh_only (List.Subset.trans (by decide) h) (Only.refl _ s))

/-- A response changes the log, the Hatband, what is sent and the mailboxes, and nothing else. -/
theorem Answered.only {u : State} (r : Request) (st : Status) (d : Nat) (p : List Byte) :
    Only [Part.log, Part.image Rec.logStatus, Part.out, Part.hatband, Part.mailboxes, Part.host] u
      (u.reply r st d p) :=
  State.reply_only (List.Subset.refl _) (Only.refl _ u)

theorem Machine.State.deferred_respond (s : State) (m : Nat) (r : Response) (q : Nat) :
    (s.respond m r q).host.deferred = s.host.deferred := by
  unfold State.respond
  extract_lets x failed s1 s2
  have h1 : s1.host.deferred = s.host.deferred := by
    have hr : ∀ cls l src a b, (s.report cls l src a b).host.deferred = s.host.deferred := fun cls l src a b =>
      (State.report_only (ps := [Part.log, Part.image Rec.logStatus, Part.out, Part.hatband]) (cls := cls)
        (lasting := l) (source := src) (a := a) (b := b) (List.Subset.refl _) (Only.refl _ s) .mailboxes (by decide)).2.2
    unfold s1
    clear_value failed
    split
    · split
      · exact hr _ _ _ _ _
      · split
        · exact hr _ _ _ _ _
        · rfl
    · rfl
  have h2 : s2.host.deferred = s1.host.deferred := rfl
  split
  · unfold State.signal State.send
    split
    · exact h1
    · exact h1
  · exact h1

/-- A deferred command ends. -/
theorem Ended.finish {s : State} {d : Deferred} (h : d.discard = false) (st : Status) (p : List Byte) :
    Ended s (s.finish d st p) d st (if st = .ok then p else []) := by
  have e : s.finish d st p =
      ({ s with host := { s.host with deferred := s.host.deferred.filter fun x => x.m ≠ d.m } } : State).respond d.m
        { command := d.command, tag := d.tag, fn := d.fn, status := st, detail := 0, replayed := false,
          payload := if st = .ok then p else [] } d.reqSeal := by
    unfold State.finish
    rw [h]
    rfl
  rw [e]
  refine ⟨State.mailbox_respond _ _ _ _, ?_⟩
  unfold State.deferredOf
  rw [State.deferred_respond]
  simp [List.find?_eq_none]

end Sys2Proof
end

