-- ==== Sys2Proof/Laws/State.lean ====
section
/-! SUPPORT. What an update of the state leaves alone: one lemma for each field and each update, and for each accessor. -/

namespace Sys2Proof.Machine

/-! ### fresh -/

@[simp] theorem State.fresh_pending (s : State) : (s.fresh).pending = s.pending := rfl
@[simp] theorem State.fresh_mode (s : State) : (s.fresh).mode = s.mode := rfl
@[simp] theorem State.fresh_clock (s : State) : (s.fresh).clock = s.clock := rfl
@[simp] theorem State.fresh_records (s : State) : (s.fresh).records = s.records := rfl
@[simp] theorem State.fresh_shadows (s : State) : (s.fresh).shadows = s.shadows := rfl
@[simp] theorem State.fresh_blocking (s : State) : (s.fresh).blocking = s.blocking := rfl
@[simp] theorem State.fresh_drive (s : State) : (s.fresh).drive = s.drive := rfl
@[simp] theorem State.fresh_bias (s : State) : (s.fresh).bias = s.bias := rfl
@[simp] theorem State.fresh_readout (s : State) : (s.fresh).readout = s.readout := rfl
@[simp] theorem State.fresh_engines (s : State) : (s.fresh).engines = s.engines := rfl
@[simp] theorem State.fresh_program (s : State) : (s.fresh).program = s.program := rfl
@[simp] theorem State.fresh_hatband (s : State) : (s.fresh).hatband = s.hatband := rfl
@[simp] theorem State.fresh_memory (s : State) : (s.fresh).memory = s.memory := rfl
@[simp] theorem State.fresh_ports (s : State) : (s.fresh).ports = s.ports := rfl
@[simp] theorem State.fresh_capture (s : State) : (s.fresh).capture = s.capture := rfl
@[simp] theorem State.fresh_host (s : State) : (s.fresh).host = s.host := rfl
@[simp] theorem State.fresh_monitor (s : State) : (s.fresh).monitor = s.monitor := rfl
@[simp] theorem State.fresh_power (s : State) : (s.fresh).power = s.power := rfl
@[simp] theorem State.fresh_crown (s : State) : (s.fresh).crown = s.crown := rfl
@[simp] theorem State.fresh_log (s : State) : (s.fresh).log = s.log := rfl
@[simp] theorem State.fresh_flash (s : State) : (s.fresh).flash = s.flash := rfl
@[simp] theorem State.fresh_upload (s : State) : (s.fresh).upload = s.upload := rfl
@[simp] theorem State.fresh_freeCount (s : State) : (s.fresh).freeCount = s.freeCount := rfl
@[simp] theorem State.fresh_image (s : State) (r : Rec) (i : Nat) :
    (s.fresh).image r i = s.image r i := rfl
@[simp] theorem State.fresh_get (s : State) (g : Field) (i : Nat) :
    (s.fresh).get g i = s.get g i := rfl
@[simp] theorem State.fresh_getAt (s : State) (g : Field) (i j : Nat) :
    (s.fresh).getAt g i j = s.getAt g i j := rfl
@[simp] theorem State.fresh_flag (s : State) (g : Field) (i : Nat) :
    (s.fresh).flag g i = s.flag g i := rfl
@[simp] theorem State.fresh_biasOf (s : State) (n : Nat) :
    (s.fresh).biasOf n = s.biasOf n := rfl
@[simp] theorem State.fresh_tile (s : State) (t : Nat) :
    (s.fresh).tile t = s.tile t := rfl
@[simp] theorem State.fresh_group (s : State) (g : Nat) :
    (s.fresh).group g = s.group g := rfl
@[simp] theorem State.fresh_engine (s : State) (e : Nat) :
    (s.fresh).engine e = s.engine e := rfl
@[simp] theorem State.fresh_acq (s : State) (t : Nat) :
    (s.fresh).acq t = s.acq t := rfl
@[simp] theorem State.fresh_tone (s : State) (k : Nat) :
    (s.fresh).tone k = s.tone k := rfl
@[simp] theorem State.fresh_port (s : State) (p : Nat) :
    (s.fresh).port p = s.port p := rfl
@[simp] theorem State.fresh_mailbox (s : State) (m : Nat) :
    (s.fresh).mailbox m = s.mailbox m := rfl
@[simp] theorem State.fresh_si (s : State) : (s.fresh).si = s.si := rfl
@[simp] theorem State.fresh_wall (s : State) : (s.fresh).wall = s.wall := rfl

/-! ### emit -/

@[simp] theorem State.emit_pending (s : State) (o : Output) : (s.emit o).pending = s.pending := rfl
@[simp] theorem State.emit_mode (s : State) (o : Output) : (s.emit o).mode = s.mode := rfl
@[simp] theorem State.emit_clock (s : State) (o : Output) : (s.emit o).clock = s.clock := rfl
@[simp] theorem State.emit_records (s : State) (o : Output) : (s.emit o).records = s.records := rfl
@[simp] theorem State.emit_shadows (s : State) (o : Output) : (s.emit o).shadows = s.shadows := rfl
@[simp] theorem State.emit_blocking (s : State) (o : Output) : (s.emit o).blocking = s.blocking := rfl
@[simp] theorem State.emit_drive (s : State) (o : Output) : (s.emit o).drive = s.drive := rfl
@[simp] theorem State.emit_bias (s : State) (o : Output) : (s.emit o).bias = s.bias := rfl
@[simp] theorem State.emit_readout (s : State) (o : Output) : (s.emit o).readout = s.readout := rfl
@[simp] theorem State.emit_engines (s : State) (o : Output) : (s.emit o).engines = s.engines := rfl
@[simp] theorem State.emit_program (s : State) (o : Output) : (s.emit o).program = s.program := rfl
@[simp] theorem State.emit_hatband (s : State) (o : Output) : (s.emit o).hatband = s.hatband := rfl
@[simp] theorem State.emit_memory (s : State) (o : Output) : (s.emit o).memory = s.memory := rfl
@[simp] theorem State.emit_ports (s : State) (o : Output) : (s.emit o).ports = s.ports := rfl
@[simp] theorem State.emit_capture (s : State) (o : Output) : (s.emit o).capture = s.capture := rfl
@[simp] theorem State.emit_host (s : State) (o : Output) : (s.emit o).host = s.host := rfl
@[simp] theorem State.emit_monitor (s : State) (o : Output) : (s.emit o).monitor = s.monitor := rfl
@[simp] theorem State.emit_power (s : State) (o : Output) : (s.emit o).power = s.power := rfl
@[simp] theorem State.emit_crown (s : State) (o : Output) : (s.emit o).crown = s.crown := rfl
@[simp] theorem State.emit_log (s : State) (o : Output) : (s.emit o).log = s.log := rfl
@[simp] theorem State.emit_flash (s : State) (o : Output) : (s.emit o).flash = s.flash := rfl
@[simp] theorem State.emit_upload (s : State) (o : Output) : (s.emit o).upload = s.upload := rfl
@[simp] theorem State.emit_freeCount (s : State) (o : Output) : (s.emit o).freeCount = s.freeCount := rfl
@[simp] theorem State.emit_image (s : State) (o : Output) (r : Rec) (i : Nat) :
    (s.emit o).image r i = s.image r i := rfl
@[simp] theorem State.emit_get (s : State) (o : Output) (g : Field) (i : Nat) :
    (s.emit o).get g i = s.get g i := rfl
@[simp] theorem State.emit_getAt (s : State) (o : Output) (g : Field) (i j : Nat) :
    (s.emit o).getAt g i j = s.getAt g i j := rfl
@[simp] theorem State.emit_flag (s : State) (o : Output) (g : Field) (i : Nat) :
    (s.emit o).flag g i = s.flag g i := rfl
@[simp] theorem State.emit_biasOf (s : State) (o : Output) (n : Nat) :
    (s.emit o).biasOf n = s.biasOf n := rfl
@[simp] theorem State.emit_tile (s : State) (o : Output) (t : Nat) :
    (s.emit o).tile t = s.tile t := rfl
@[simp] theorem State.emit_group (s : State) (o : Output) (g : Nat) :
    (s.emit o).group g = s.group g := rfl
@[simp] theorem State.emit_engine (s : State) (o : Output) (e : Nat) :
    (s.emit o).engine e = s.engine e := rfl
@[simp] theorem State.emit_acq (s : State) (o : Output) (t : Nat) :
    (s.emit o).acq t = s.acq t := rfl
@[simp] theorem State.emit_tone (s : State) (o : Output) (k : Nat) :
    (s.emit o).tone k = s.tone k := rfl
@[simp] theorem State.emit_port (s : State) (o : Output) (p : Nat) :
    (s.emit o).port p = s.port p := rfl
@[simp] theorem State.emit_mailbox (s : State) (o : Output) (m : Nat) :
    (s.emit o).mailbox m = s.mailbox m := rfl
@[simp] theorem State.emit_si (s : State) (o : Output) : (s.emit o).si = s.si := rfl
@[simp] theorem State.emit_wall (s : State) (o : Output) : (s.emit o).wall = s.wall := rfl

/-! ### setImage -/

@[simp] theorem State.setImage_pending (s : State) (r : Rec) (i v : Nat) : (s.setImage r i v).pending = s.pending := rfl
@[simp] theorem State.setImage_out (s : State) (r : Rec) (i v : Nat) : (s.setImage r i v).out = s.out := rfl
@[simp] theorem State.setImage_mode (s : State) (r : Rec) (i v : Nat) : (s.setImage r i v).mode = s.mode := rfl
@[simp] theorem State.setImage_clock (s : State) (r : Rec) (i v : Nat) : (s.setImage r i v).clock = s.clock := rfl
@[simp] theorem State.setImage_shadows (s : State) (r : Rec) (i v : Nat) : (s.setImage r i v).shadows = s.shadows := rfl
@[simp] theorem State.setImage_blocking (s : State) (r : Rec) (i v : Nat) : (s.setImage r i v).blocking = s.blocking := rfl
@[simp] theorem State.setImage_drive (s : State) (r : Rec) (i v : Nat) : (s.setImage r i v).drive = s.drive := rfl
@[simp] theorem State.setImage_bias (s : State) (r : Rec) (i v : Nat) : (s.setImage r i v).bias = s.bias := rfl
@[simp] theorem State.setImage_readout (s : State) (r : Rec) (i v : Nat) : (s.setImage r i v).readout = s.readout := rfl
@[simp] theorem State.setImage_engines (s : State) (r : Rec) (i v : Nat) : (s.setImage r i v).engines = s.engines := rfl
@[simp] theorem State.setImage_program (s : State) (r : Rec) (i v : Nat) : (s.setImage r i v).program = s.program := rfl
@[simp] theorem State.setImage_hatband (s : State) (r : Rec) (i v : Nat) : (s.setImage r i v).hatband = s.hatband := rfl
@[simp] theorem State.setImage_memory (s : State) (r : Rec) (i v : Nat) : (s.setImage r i v).memory = s.memory := rfl
@[simp] theorem State.setImage_ports (s : State) (r : Rec) (i v : Nat) : (s.setImage r i v).ports = s.ports := rfl
@[simp] theorem State.setImage_capture (s : State) (r : Rec) (i v : Nat) : (s.setImage r i v).capture = s.capture := rfl
@[simp] theorem State.setImage_host (s : State) (r : Rec) (i v : Nat) : (s.setImage r i v).host = s.host := rfl
@[simp] theorem State.setImage_monitor (s : State) (r : Rec) (i v : Nat) : (s.setImage r i v).monitor = s.monitor := rfl
@[simp] theorem State.setImage_power (s : State) (r : Rec) (i v : Nat) : (s.setImage r i v).power = s.power := rfl
@[simp] theorem State.setImage_crown (s : State) (r : Rec) (i v : Nat) : (s.setImage r i v).crown = s.crown := rfl
@[simp] theorem State.setImage_log (s : State) (r : Rec) (i v : Nat) : (s.setImage r i v).log = s.log := rfl
@[simp] theorem State.setImage_flash (s : State) (r : Rec) (i v : Nat) : (s.setImage r i v).flash = s.flash := rfl
@[simp] theorem State.setImage_upload (s : State) (r : Rec) (i v : Nat) : (s.setImage r i v).upload = s.upload := rfl
@[simp] theorem State.setImage_freeCount (s : State) (r : Rec) (i v : Nat) : (s.setImage r i v).freeCount = s.freeCount := rfl
@[simp] theorem State.setImage_biasOf (s : State) (r : Rec) (i v : Nat) (n : Nat) :
    (s.setImage r i v).biasOf n = s.biasOf n := rfl
@[simp] theorem State.setImage_tile (s : State) (r : Rec) (i v : Nat) (t : Nat) :
    (s.setImage r i v).tile t = s.tile t := rfl
@[simp] theorem State.setImage_group (s : State) (r : Rec) (i v : Nat) (g : Nat) :
    (s.setImage r i v).group g = s.group g := rfl
@[simp] theorem State.setImage_engine (s : State) (r : Rec) (i v : Nat) (e : Nat) :
    (s.setImage r i v).engine e = s.engine e := rfl
@[simp] theorem State.setImage_acq (s : State) (r : Rec) (i v : Nat) (t : Nat) :
    (s.setImage r i v).acq t = s.acq t := rfl
@[simp] theorem State.setImage_tone (s : State) (r : Rec) (i v : Nat) (k : Nat) :
    (s.setImage r i v).tone k = s.tone k := rfl
@[simp] theorem State.setImage_port (s : State) (r : Rec) (i v : Nat) (p : Nat) :
    (s.setImage r i v).port p = s.port p := rfl
@[simp] theorem State.setImage_mailbox (s : State) (r : Rec) (i v : Nat) (m : Nat) :
    (s.setImage r i v).mailbox m = s.mailbox m := rfl
@[simp] theorem State.setImage_si (s : State) (r : Rec) (i v : Nat) : (s.setImage r i v).si = s.si := rfl
@[simp] theorem State.setImage_wall (s : State) (r : Rec) (i v : Nat) : (s.setImage r i v).wall = s.wall := rfl

/-! ### put -/

@[simp] theorem State.put_pending (s : State) (f : Field) (i v : Nat) : (s.put f i v).pending = s.pending := rfl
@[simp] theorem State.put_out (s : State) (f : Field) (i v : Nat) : (s.put f i v).out = s.out := rfl
@[simp] theorem State.put_mode (s : State) (f : Field) (i v : Nat) : (s.put f i v).mode = s.mode := rfl
@[simp] theorem State.put_clock (s : State) (f : Field) (i v : Nat) : (s.put f i v).clock = s.clock := rfl
@[simp] theorem State.put_shadows (s : State) (f : Field) (i v : Nat) : (s.put f i v).shadows = s.shadows := rfl
@[simp] theorem State.put_blocking (s : State) (f : Field) (i v : Nat) : (s.put f i v).blocking = s.blocking := rfl
@[simp] theorem State.put_drive (s : State) (f : Field) (i v : Nat) : (s.put f i v).drive = s.drive := rfl
@[simp] theorem State.put_bias (s : State) (f : Field) (i v : Nat) : (s.put f i v).bias = s.bias := rfl
@[simp] theorem State.put_readout (s : State) (f : Field) (i v : Nat) : (s.put f i v).readout = s.readout := rfl
@[simp] theorem State.put_engines (s : State) (f : Field) (i v : Nat) : (s.put f i v).engines = s.engines := rfl
@[simp] theorem State.put_program (s : State) (f : Field) (i v : Nat) : (s.put f i v).program = s.program := rfl
@[simp] theorem State.put_hatband (s : State) (f : Field) (i v : Nat) : (s.put f i v).hatband = s.hatband := rfl
@[simp] theorem State.put_memory (s : State) (f : Field) (i v : Nat) : (s.put f i v).memory = s.memory := rfl
@[simp] theorem State.put_ports (s : State) (f : Field) (i v : Nat) : (s.put f i v).ports = s.ports := rfl
@[simp] theorem State.put_capture (s : State) (f : Field) (i v : Nat) : (s.put f i v).capture = s.capture := rfl
@[simp] theorem State.put_host (s : State) (f : Field) (i v : Nat) : (s.put f i v).host = s.host := rfl
@[simp] theorem State.put_monitor (s : State) (f : Field) (i v : Nat) : (s.put f i v).monitor = s.monitor := rfl
@[simp] theorem State.put_power (s : State) (f : Field) (i v : Nat) : (s.put f i v).power = s.power := rfl
@[simp] theorem State.put_crown (s : State) (f : Field) (i v : Nat) : (s.put f i v).crown = s.crown := rfl
@[simp] theorem State.put_log (s : State) (f : Field) (i v : Nat) : (s.put f i v).log = s.log := rfl
@[simp] theorem State.put_flash (s : State) (f : Field) (i v : Nat) : (s.put f i v).flash = s.flash := rfl
@[simp] theorem State.put_upload (s : State) (f : Field) (i v : Nat) : (s.put f i v).upload = s.upload := rfl
@[simp] theorem State.put_freeCount (s : State) (f : Field) (i v : Nat) : (s.put f i v).freeCount = s.freeCount := rfl
@[simp] theorem State.put_biasOf (s : State) (f : Field) (i v : Nat) (n : Nat) :
    (s.put f i v).biasOf n = s.biasOf n := rfl
@[simp] theorem State.put_tile (s : State) (f : Field) (i v : Nat) (t : Nat) :
    (s.put f i v).tile t = s.tile t := rfl
@[simp] theorem State.put_group (s : State) (f : Field) (i v : Nat) (g : Nat) :
    (s.put f i v).group g = s.group g := rfl
@[simp] theorem State.put_engine (s : State) (f : Field) (i v : Nat) (e : Nat) :
    (s.put f i v).engine e = s.engine e := rfl
@[simp] theorem State.put_acq (s : State) (f : Field) (i v : Nat) (t : Nat) :
    (s.put f i v).acq t = s.acq t := rfl
@[simp] theorem State.put_tone (s : State) (f : Field) (i v : Nat) (k : Nat) :
    (s.put f i v).tone k = s.tone k := rfl
@[simp] theorem State.put_port (s : State) (f : Field) (i v : Nat) (p : Nat) :
    (s.put f i v).port p = s.port p := rfl
@[simp] theorem State.put_mailbox (s : State) (f : Field) (i v : Nat) (m : Nat) :
    (s.put f i v).mailbox m = s.mailbox m := rfl
@[simp] theorem State.put_si (s : State) (f : Field) (i v : Nat) : (s.put f i v).si = s.si := rfl
@[simp] theorem State.put_wall (s : State) (f : Field) (i v : Nat) : (s.put f i v).wall = s.wall := rfl

/-! ### putAt -/

@[simp] theorem State.putAt_pending (s : State) (f : Field) (i j v : Nat) : (s.putAt f i j v).pending = s.pending := rfl
@[simp] theorem State.putAt_out (s : State) (f : Field) (i j v : Nat) : (s.putAt f i j v).out = s.out := rfl
@[simp] theorem State.putAt_mode (s : State) (f : Field) (i j v : Nat) : (s.putAt f i j v).mode = s.mode := rfl
@[simp] theorem State.putAt_clock (s : State) (f : Field) (i j v : Nat) : (s.putAt f i j v).clock = s.clock := rfl
@[simp] theorem State.putAt_shadows (s : State) (f : Field) (i j v : Nat) : (s.putAt f i j v).shadows = s.shadows := rfl
@[simp] theorem State.putAt_blocking (s : State) (f : Field) (i j v : Nat) : (s.putAt f i j v).blocking = s.blocking := rfl
@[simp] theorem State.putAt_drive (s : State) (f : Field) (i j v : Nat) : (s.putAt f i j v).drive = s.drive := rfl
@[simp] theorem State.putAt_bias (s : State) (f : Field) (i j v : Nat) : (s.putAt f i j v).bias = s.bias := rfl
@[simp] theorem State.putAt_readout (s : State) (f : Field) (i j v : Nat) : (s.putAt f i j v).readout = s.readout := rfl
@[simp] theorem State.putAt_engines (s : State) (f : Field) (i j v : Nat) : (s.putAt f i j v).engines = s.engines := rfl
@[simp] theorem State.putAt_program (s : State) (f : Field) (i j v : Nat) : (s.putAt f i j v).program = s.program := rfl
@[simp] theorem State.putAt_hatband (s : State) (f : Field) (i j v : Nat) : (s.putAt f i j v).hatband = s.hatband := rfl
@[simp] theorem State.putAt_memory (s : State) (f : Field) (i j v : Nat) : (s.putAt f i j v).memory = s.memory := rfl
@[simp] theorem State.putAt_ports (s : State) (f : Field) (i j v : Nat) : (s.putAt f i j v).ports = s.ports := rfl
@[simp] theorem State.putAt_capture (s : State) (f : Field) (i j v : Nat) : (s.putAt f i j v).capture = s.capture := rfl
@[simp] theorem State.putAt_host (s : State) (f : Field) (i j v : Nat) : (s.putAt f i j v).host = s.host := rfl
@[simp] theorem State.putAt_monitor (s : State) (f : Field) (i j v : Nat) : (s.putAt f i j v).monitor = s.monitor := rfl
@[simp] theorem State.putAt_power (s : State) (f : Field) (i j v : Nat) : (s.putAt f i j v).power = s.power := rfl
@[simp] theorem State.putAt_crown (s : State) (f : Field) (i j v : Nat) : (s.putAt f i j v).crown = s.crown := rfl
@[simp] theorem State.putAt_log (s : State) (f : Field) (i j v : Nat) : (s.putAt f i j v).log = s.log := rfl
@[simp] theorem State.putAt_flash (s : State) (f : Field) (i j v : Nat) : (s.putAt f i j v).flash = s.flash := rfl
@[simp] theorem State.putAt_upload (s : State) (f : Field) (i j v : Nat) : (s.putAt f i j v).upload = s.upload := rfl
@[simp] theorem State.putAt_freeCount (s : State) (f : Field) (i j v : Nat) : (s.putAt f i j v).freeCount = s.freeCount := rfl
@[simp] theorem State.putAt_biasOf (s : State) (f : Field) (i j v : Nat) (n : Nat) :
    (s.putAt f i j v).biasOf n = s.biasOf n := rfl
@[simp] theorem State.putAt_tile (s : State) (f : Field) (i j v : Nat) (t : Nat) :
    (s.putAt f i j v).tile t = s.tile t := rfl
@[simp] theorem State.putAt_group (s : State) (f : Field) (i j v : Nat) (g : Nat) :
    (s.putAt f i j v).group g = s.group g := rfl
@[simp] theorem State.putAt_engine (s : State) (f : Field) (i j v : Nat) (e : Nat) :
    (s.putAt f i j v).engine e = s.engine e := rfl
@[simp] theorem State.putAt_acq (s : State) (f : Field) (i j v : Nat) (t : Nat) :
    (s.putAt f i j v).acq t = s.acq t := rfl
@[simp] theorem State.putAt_tone (s : State) (f : Field) (i j v : Nat) (k : Nat) :
    (s.putAt f i j v).tone k = s.tone k := rfl
@[simp] theorem State.putAt_port (s : State) (f : Field) (i j v : Nat) (p : Nat) :
    (s.putAt f i j v).port p = s.port p := rfl
@[simp] theorem State.putAt_mailbox (s : State) (f : Field) (i j v : Nat) (m : Nat) :
    (s.putAt f i j v).mailbox m = s.mailbox m := rfl
@[simp] theorem State.putAt_si (s : State) (f : Field) (i j v : Nat) : (s.putAt f i j v).si = s.si := rfl
@[simp] theorem State.putAt_wall (s : State) (f : Field) (i j v : Nat) : (s.putAt f i j v).wall = s.wall := rfl

/-! ### putFlag -/

@[simp] theorem State.putFlag_pending (s : State) (f : Field) (i : Nat) (b : Bool) : (s.putFlag f i b).pending = s.pending := rfl
@[simp] theorem State.putFlag_out (s : State) (f : Field) (i : Nat) (b : Bool) : (s.putFlag f i b).out = s.out := rfl
@[simp] theorem State.putFlag_mode (s : State) (f : Field) (i : Nat) (b : Bool) : (s.putFlag f i b).mode = s.mode := rfl
@[simp] theorem State.putFlag_clock (s : State) (f : Field) (i : Nat) (b : Bool) : (s.putFlag f i b).clock = s.clock := rfl
@[simp] theorem State.putFlag_shadows (s : State) (f : Field) (i : Nat) (b : Bool) : (s.putFlag f i b).shadows = s.shadows := rfl
@[simp] theorem State.putFlag_blocking (s : State) (f : Field) (i : Nat) (b : Bool) : (s.putFlag f i b).blocking = s.blocking := rfl
@[simp] theorem State.putFlag_drive (s : State) (f : Field) (i : Nat) (b : Bool) : (s.putFlag f i b).drive = s.drive := rfl
@[simp] theorem State.putFlag_bias (s : State) (f : Field) (i : Nat) (b : Bool) : (s.putFlag f i b).bias = s.bias := rfl
@[simp] theorem State.putFlag_readout (s : State) (f : Field) (i : Nat) (b : Bool) : (s.putFlag f i b).readout = s.readout := rfl
@[simp] theorem State.putFlag_engines (s : State) (f : Field) (i : Nat) (b : Bool) : (s.putFlag f i b).engines = s.engines := rfl
@[simp] theorem State.putFlag_program (s : State) (f : Field) (i : Nat) (b : Bool) : (s.putFlag f i b).program = s.program := rfl
@[simp] theorem State.putFlag_hatband (s : State) (f : Field) (i : Nat) (b : Bool) : (s.putFlag f i b).hatband = s.hatband := rfl
@[simp] theorem State.putFlag_memory (s : State) (f : Field) (i : Nat) (b : Bool) : (s.putFlag f i b).memory = s.memory := rfl
@[simp] theorem State.putFlag_ports (s : State) (f : Field) (i : Nat) (b : Bool) : (s.putFlag f i b).ports = s.ports := rfl
@[simp] theorem State.putFlag_capture (s : State) (f : Field) (i : Nat) (b : Bool) : (s.putFlag f i b).capture = s.capture := rfl
@[simp] theorem State.putFlag_host (s : State) (f : Field) (i : Nat) (b : Bool) : (s.putFlag f i b).host = s.host := rfl
@[simp] theorem State.putFlag_monitor (s : State) (f : Field) (i : Nat) (b : Bool) : (s.putFlag f i b).monitor = s.monitor := rfl
@[simp] theorem State.putFlag_power (s : State) (f : Field) (i : Nat) (b : Bool) : (s.putFlag f i b).power = s.power := rfl
@[simp] theorem State.putFlag_crown (s : State) (f : Field) (i : Nat) (b : Bool) : (s.putFlag f i b).crown = s.crown := rfl
@[simp] theorem State.putFlag_log (s : State) (f : Field) (i : Nat) (b : Bool) : (s.putFlag f i b).log = s.log := rfl
@[simp] theorem State.putFlag_flash (s : State) (f : Field) (i : Nat) (b : Bool) : (s.putFlag f i b).flash = s.flash := rfl
@[simp] theorem State.putFlag_upload (s : State) (f : Field) (i : Nat) (b : Bool) : (s.putFlag f i b).upload = s.upload := rfl
@[simp] theorem State.putFlag_freeCount (s : State) (f : Field) (i : Nat) (b : Bool) : (s.putFlag f i b).freeCount = s.freeCount := rfl
@[simp] theorem State.putFlag_biasOf (s : State) (f : Field) (i : Nat) (b : Bool) (n : Nat) :
    (s.putFlag f i b).biasOf n = s.biasOf n := rfl
@[simp] theorem State.putFlag_tile (s : State) (f : Field) (i : Nat) (b : Bool) (t : Nat) :
    (s.putFlag f i b).tile t = s.tile t := rfl
@[simp] theorem State.putFlag_group (s : State) (f : Field) (i : Nat) (b : Bool) (g : Nat) :
    (s.putFlag f i b).group g = s.group g := rfl
@[simp] theorem State.putFlag_engine (s : State) (f : Field) (i : Nat) (b : Bool) (e : Nat) :
    (s.putFlag f i b).engine e = s.engine e := rfl
@[simp] theorem State.putFlag_acq (s : State) (f : Field) (i : Nat) (b : Bool) (t : Nat) :
    (s.putFlag f i b).acq t = s.acq t := rfl
@[simp] theorem State.putFlag_tone (s : State) (f : Field) (i : Nat) (b : Bool) (k : Nat) :
    (s.putFlag f i b).tone k = s.tone k := rfl
@[simp] theorem State.putFlag_port (s : State) (f : Field) (i : Nat) (b : Bool) (p : Nat) :
    (s.putFlag f i b).port p = s.port p := rfl
@[simp] theorem State.putFlag_mailbox (s : State) (f : Field) (i : Nat) (b : Bool) (m : Nat) :
    (s.putFlag f i b).mailbox m = s.mailbox m := rfl
@[simp] theorem State.putFlag_si (s : State) (f : Field) (i : Nat) (b : Bool) : (s.putFlag f i b).si = s.si := rfl
@[simp] theorem State.putFlag_wall (s : State) (f : Field) (i : Nat) (b : Bool) : (s.putFlag f i b).wall = s.wall := rfl

/-! ### count -/

@[simp] theorem State.count_pending (s : State) (f : Field) (i k : Nat) : (s.count f i k).pending = s.pending := rfl
@[simp] theorem State.count_out (s : State) (f : Field) (i k : Nat) : (s.count f i k).out = s.out := rfl
@[simp] theorem State.count_mode (s : State) (f : Field) (i k : Nat) : (s.count f i k).mode = s.mode := rfl
@[simp] theorem State.count_clock (s : State) (f : Field) (i k : Nat) : (s.count f i k).clock = s.clock := rfl
@[simp] theorem State.count_shadows (s : State) (f : Field) (i k : Nat) : (s.count f i k).shadows = s.shadows := rfl
@[simp] theorem State.count_blocking (s : State) (f : Field) (i k : Nat) : (s.count f i k).blocking = s.blocking := rfl
@[simp] theorem State.count_drive (s : State) (f : Field) (i k : Nat) : (s.count f i k).drive = s.drive := rfl
@[simp] theorem State.count_bias (s : State) (f : Field) (i k : Nat) : (s.count f i k).bias = s.bias := rfl
@[simp] theorem State.count_readout (s : State) (f : Field) (i k : Nat) : (s.count f i k).readout = s.readout := rfl
@[simp] theorem State.count_engines (s : State) (f : Field) (i k : Nat) : (s.count f i k).engines = s.engines := rfl
@[simp] theorem State.count_program (s : State) (f : Field) (i k : Nat) : (s.count f i k).program = s.program := rfl
@[simp] theorem State.count_hatband (s : State) (f : Field) (i k : Nat) : (s.count f i k).hatband = s.hatband := rfl
@[simp] theorem State.count_memory (s : State) (f : Field) (i k : Nat) : (s.count f i k).memory = s.memory := rfl
@[simp] theorem State.count_ports (s : State) (f : Field) (i k : Nat) : (s.count f i k).ports = s.ports := rfl
@[simp] theorem State.count_capture (s : State) (f : Field) (i k : Nat) : (s.count f i k).capture = s.capture := rfl
@[simp] theorem State.count_host (s : State) (f : Field) (i k : Nat) : (s.count f i k).host = s.host := rfl
@[simp] theorem State.count_monitor (s : State) (f : Field) (i k : Nat) : (s.count f i k).monitor = s.monitor := rfl
@[simp] theorem State.count_power (s : State) (f : Field) (i k : Nat) : (s.count f i k).power = s.power := rfl
@[simp] theorem State.count_crown (s : State) (f : Field) (i k : Nat) : (s.count f i k).crown = s.crown := rfl
@[simp] theorem State.count_log (s : State) (f : Field) (i k : Nat) : (s.count f i k).log = s.log := rfl
@[simp] theorem State.count_flash (s : State) (f : Field) (i k : Nat) : (s.count f i k).flash = s.flash := rfl
@[simp] theorem State.count_upload (s : State) (f : Field) (i k : Nat) : (s.count f i k).upload = s.upload := rfl
@[simp] theorem State.count_freeCount (s : State) (f : Field) (i k : Nat) : (s.count f i k).freeCount = s.freeCount := rfl
@[simp] theorem State.count_biasOf (s : State) (f : Field) (i k : Nat) (n : Nat) :
    (s.count f i k).biasOf n = s.biasOf n := rfl
@[simp] theorem State.count_tile (s : State) (f : Field) (i k : Nat) (t : Nat) :
    (s.count f i k).tile t = s.tile t := rfl
@[simp] theorem State.count_group (s : State) (f : Field) (i k : Nat) (g : Nat) :
    (s.count f i k).group g = s.group g := rfl
@[simp] theorem State.count_engine (s : State) (f : Field) (i k : Nat) (e : Nat) :
    (s.count f i k).engine e = s.engine e := rfl
@[simp] theorem State.count_acq (s : State) (f : Field) (i k : Nat) (t : Nat) :
    (s.count f i k).acq t = s.acq t := rfl
@[simp] theorem State.count_tone (s : State) (f : Field) (i k : Nat) (k' : Nat) :
    (s.count f i k).tone k' = s.tone k' := rfl
@[simp] theorem State.count_port (s : State) (f : Field) (i k : Nat) (p : Nat) :
    (s.count f i k).port p = s.port p := rfl
@[simp] theorem State.count_mailbox (s : State) (f : Field) (i k : Nat) (m : Nat) :
    (s.count f i k).mailbox m = s.mailbox m := rfl
@[simp] theorem State.count_si (s : State) (f : Field) (i k : Nat) : (s.count f i k).si = s.si := rfl
@[simp] theorem State.count_wall (s : State) (f : Field) (i k : Nat) : (s.count f i k).wall = s.wall := rfl

/-! ### raise -/

@[simp] theorem State.raise_pending (s : State) (src p f h : Nat) : (s.raise src p f h).pending = s.pending := rfl
@[simp] theorem State.raise_mode (s : State) (src p f h : Nat) : (s.raise src p f h).mode = s.mode := rfl
@[simp] theorem State.raise_clock (s : State) (src p f h : Nat) : (s.raise src p f h).clock = s.clock := rfl
@[simp] theorem State.raise_records (s : State) (src p f h : Nat) : (s.raise src p f h).records = s.records := rfl
@[simp] theorem State.raise_shadows (s : State) (src p f h : Nat) : (s.raise src p f h).shadows = s.shadows := rfl
@[simp] theorem State.raise_blocking (s : State) (src p f h : Nat) : (s.raise src p f h).blocking = s.blocking := rfl
@[simp] theorem State.raise_drive (s : State) (src p f h : Nat) : (s.raise src p f h).drive = s.drive := rfl
@[simp] theorem State.raise_bias (s : State) (src p f h : Nat) : (s.raise src p f h).bias = s.bias := rfl
@[simp] theorem State.raise_readout (s : State) (src p f h : Nat) : (s.raise src p f h).readout = s.readout := rfl
@[simp] theorem State.raise_engines (s : State) (src p f h : Nat) : (s.raise src p f h).engines = s.engines := rfl
@[simp] theorem State.raise_program (s : State) (src p f h : Nat) : (s.raise src p f h).program = s.program := rfl
@[simp] theorem State.raise_memory (s : State) (src p f h : Nat) : (s.raise src p f h).memory = s.memory := rfl
@[simp] theorem State.raise_ports (s : State) (src p f h : Nat) : (s.raise src p f h).ports = s.ports := rfl
@[simp] theorem State.raise_capture (s : State) (src p f h : Nat) : (s.raise src p f h).capture = s.capture := rfl
@[simp] theorem State.raise_host (s : State) (src p f h : Nat) : (s.raise src p f h).host = s.host := rfl
@[simp] theorem State.raise_monitor (s : State) (src p f h : Nat) : (s.raise src p f h).monitor = s.monitor := rfl
@[simp] theorem State.raise_power (s : State) (src p f h : Nat) : (s.raise src p f h).power = s.power := rfl
@[simp] theorem State.raise_crown (s : State) (src p f h : Nat) : (s.raise src p f h).crown = s.crown := rfl
@[simp] theorem State.raise_log (s : State) (src p f h : Nat) : (s.raise src p f h).log = s.log := rfl
@[simp] theorem State.raise_flash (s : State) (src p f h : Nat) : (s.raise src p f h).flash = s.flash := rfl
@[simp] theorem State.raise_upload (s : State) (src p f h : Nat) : (s.raise src p f h).upload = s.upload := rfl
@[simp] theorem State.raise_freeCount (s : State) (src p f h : Nat) : (s.raise src p f h).freeCount = s.freeCount := rfl
@[simp] theorem State.raise_image (s : State) (src p f h : Nat) (r : Rec) (i : Nat) :
    (s.raise src p f h).image r i = s.image r i := rfl
@[simp] theorem State.raise_get (s : State) (src p f h : Nat) (g : Field) (i : Nat) :
    (s.raise src p f h).get g i = s.get g i := rfl
@[simp] theorem State.raise_getAt (s : State) (src p f h : Nat) (g : Field) (i j : Nat) :
    (s.raise src p f h).getAt g i j = s.getAt g i j := rfl
@[simp] theorem State.raise_flag (s : State) (src p f h : Nat) (g : Field) (i : Nat) :
    (s.raise src p f h).flag g i = s.flag g i := rfl
@[simp] theorem State.raise_biasOf (s : State) (src p f h : Nat) (n : Nat) :
    (s.raise src p f h).biasOf n = s.biasOf n := rfl
@[simp] theorem State.raise_tile (s : State) (src p f h : Nat) (t : Nat) :
    (s.raise src p f h).tile t = s.tile t := rfl
@[simp] theorem State.raise_group (s : State) (src p f h : Nat) (g : Nat) :
    (s.raise src p f h).group g = s.group g := rfl
@[simp] theorem State.raise_engine (s : State) (src p f h : Nat) (e : Nat) :
    (s.raise src p f h).engine e = s.engine e := rfl
@[simp] theorem State.raise_acq (s : State) (src p f h : Nat) (t : Nat) :
    (s.raise src p f h).acq t = s.acq t := rfl
@[simp] theorem State.raise_tone (s : State) (src p f h : Nat) (k : Nat) :
    (s.raise src p f h).tone k = s.tone k := rfl
@[simp] theorem State.raise_port (s : State) (src p f h : Nat) (p' : Nat) :
    (s.raise src p f h).port p' = s.port p' := rfl
@[simp] theorem State.raise_mailbox (s : State) (src p f h : Nat) (m : Nat) :
    (s.raise src p f h).mailbox m = s.mailbox m := rfl
@[simp] theorem State.raise_si (s : State) (src p f h : Nat) : (s.raise src p f h).si = s.si := rfl
@[simp] theorem State.raise_wall (s : State) (src p f h : Nat) : (s.raise src p f h).wall = s.wall := rfl

/-! ### setMailbox -/

@[simp] theorem State.setMailbox_pending (s : State) (m : Nat) (x : Mailbox) : (s.setMailbox m x).pending = s.pending := rfl
@[simp] theorem State.setMailbox_out (s : State) (m : Nat) (x : Mailbox) : (s.setMailbox m x).out = s.out := rfl
@[simp] theorem State.setMailbox_mode (s : State) (m : Nat) (x : Mailbox) : (s.setMailbox m x).mode = s.mode := rfl
@[simp] theorem State.setMailbox_clock (s : State) (m : Nat) (x : Mailbox) : (s.setMailbox m x).clock = s.clock := rfl
@[simp] theorem State.setMailbox_records (s : State) (m : Nat) (x : Mailbox) : (s.setMailbox m x).records = s.records := rfl
@[simp] theorem State.setMailbox_shadows (s : State) (m : Nat) (x : Mailbox) : (s.setMailbox m x).shadows = s.shadows := rfl
@[simp] theorem State.setMailbox_blocking (s : State) (m : Nat) (x : Mailbox) : (s.setMailbox m x).blocking = s.blocking := rfl
@[simp] theorem State.setMailbox_drive (s : State) (m : Nat) (x : Mailbox) : (s.setMailbox m x).drive = s.drive := rfl
@[simp] theorem State.setMailbox_bias (s : State) (m : Nat) (x : Mailbox) : (s.setMailbox m x).bias = s.bias := rfl
@[simp] theorem State.setMailbox_readout (s : State) (m : Nat) (x : Mailbox) : (s.setMailbox m x).readout = s.readout := rfl
@[simp] theorem State.setMailbox_engines (s : State) (m : Nat) (x : Mailbox) : (s.setMailbox m x).engines = s.engines := rfl
@[simp] theorem State.setMailbox_program (s : State) (m : Nat) (x : Mailbox) : (s.setMailbox m x).program = s.program := rfl
@[simp] theorem State.setMailbox_hatband (s : State) (m : Nat) (x : Mailbox) : (s.setMailbox m x).hatband = s.hatband := rfl
@[simp] theorem State.setMailbox_memory (s : State) (m : Nat) (x : Mailbox) : (s.setMailbox m x).memory = s.memory := rfl
@[simp] theorem State.setMailbox_ports (s : State) (m : Nat) (x : Mailbox) : (s.setMailbox m x).ports = s.ports := rfl
@[simp] theorem State.setMailbox_capture (s : State) (m : Nat) (x : Mailbox) : (s.setMailbox m x).capture = s.capture := rfl
@[simp] theorem State.setMailbox_monitor (s : State) (m : Nat) (x : Mailbox) : (s.setMailbox m x).monitor = s.monitor := rfl
@[simp] theorem State.setMailbox_power (s : State) (m : Nat) (x : Mailbox) : (s.setMailbox m x).power = s.power := rfl
@[simp] theorem State.setMailbox_crown (s : State) (m : Nat) (x : Mailbox) : (s.setMailbox m x).crown = s.crown := rfl
@[simp] theorem State.setMailbox_log (s : State) (m : Nat) (x : Mailbox) : (s.setMailbox m x).log = s.log := rfl
@[simp] theorem State.setMailbox_flash (s : State) (m : Nat) (x : Mailbox) : (s.setMailbox m x).flash = s.flash := rfl
@[simp] theorem State.setMailbox_upload (s : State) (m : Nat) (x : Mailbox) : (s.setMailbox m x).upload = s.upload := rfl
@[simp] theorem State.setMailbox_freeCount (s : State) (m : Nat) (x : Mailbox) : (s.setMailbox m x).freeCount = s.freeCount := rfl
@[simp] theorem State.setMailbox_host_accepted (s : State) (m : Nat) (x : Mailbox) :
    (s.setMailbox m x).host.accepted = s.host.accepted := rfl
@[simp] theorem State.setMailbox_host_deferred (s : State) (m : Nat) (x : Mailbox) :
    (s.setMailbox m x).host.deferred = s.host.deferred := rfl
@[simp] theorem State.setMailbox_host_pi (s : State) (m : Nat) (x : Mailbox) :
    (s.setMailbox m x).host.pi = s.host.pi := rfl
@[simp] theorem State.setMailbox_host_ci (s : State) (m : Nat) (x : Mailbox) :
    (s.setMailbox m x).host.ci = s.host.ci := rfl
@[simp] theorem State.setMailbox_host_refills (s : State) (m : Nat) (x : Mailbox) :
    (s.setMailbox m x).host.refills = s.host.refills := rfl
@[simp] theorem State.setMailbox_host_capBufs (s : State) (m : Nat) (x : Mailbox) :
    (s.setMailbox m x).host.capBufs = s.host.capBufs := rfl
@[simp] theorem State.setMailbox_host_lastSignal (s : State) (m : Nat) (x : Mailbox) :
    (s.setMailbox m x).host.lastSignal = s.host.lastSignal := rfl
@[simp] theorem State.setMailbox_host_merge (s : State) (m : Nat) (x : Mailbox) :
    (s.setMailbox m x).host.merge = s.host.merge := rfl
@[simp] theorem State.setMailbox_host_bar4 (s : State) (m : Nat) (x : Mailbox) :
    (s.setMailbox m x).host.bar4 = s.host.bar4 := rfl
@[simp] theorem State.setMailbox_host_perst (s : State) (m : Nat) (x : Mailbox) :
    (s.setMailbox m x).host.perst = s.host.perst := rfl
@[simp] theorem State.setMailbox_host_trainedWidth (s : State) (m : Nat) (x : Mailbox) :
    (s.setMailbox m x).host.trainedWidth = s.host.trainedWidth := rfl
@[simp] theorem State.setMailbox_host_heldOut (s : State) (m : Nat) (x : Mailbox) :
    (s.setMailbox m x).host.heldOut = s.host.heldOut := rfl
@[simp] theorem State.setMailbox_host_remoteDest (s : State) (m : Nat) (x : Mailbox) :
    (s.setMailbox m x).host.remoteDest = s.host.remoteDest := rfl
@[simp] theorem State.setMailbox_host_portAddress (s : State) (m : Nat) (x : Mailbox) :
    (s.setMailbox m x).host.portAddress = s.host.portAddress := rfl
@[simp] theorem State.setMailbox_image (s : State) (m : Nat) (x : Mailbox) (r : Rec) (i : Nat) :
    (s.setMailbox m x).image r i = s.image r i := rfl
@[simp] theorem State.setMailbox_get (s : State) (m : Nat) (x : Mailbox) (g : Field) (i : Nat) :
    (s.setMailbox m x).get g i = s.get g i := rfl
@[simp] theorem State.setMailbox_getAt (s : State) (m : Nat) (x : Mailbox) (g : Field) (i j : Nat) :
    (s.setMailbox m x).getAt g i j = s.getAt g i j := rfl
@[simp] theorem State.setMailbox_flag (s : State) (m : Nat) (x : Mailbox) (g : Field) (i : Nat) :
    (s.setMailbox m x).flag g i = s.flag g i := rfl
@[simp] theorem State.setMailbox_biasOf (s : State) (m : Nat) (x : Mailbox) (n : Nat) :
    (s.setMailbox m x).biasOf n = s.biasOf n := rfl
@[simp] theorem State.setMailbox_tile (s : State) (m : Nat) (x : Mailbox) (t : Nat) :
    (s.setMailbox m x).tile t = s.tile t := rfl
@[simp] theorem State.setMailbox_group (s : State) (m : Nat) (x : Mailbox) (g : Nat) :
    (s.setMailbox m x).group g = s.group g := rfl
@[simp] theorem State.setMailbox_engine (s : State) (m : Nat) (x : Mailbox) (e : Nat) :
    (s.setMailbox m x).engine e = s.engine e := rfl
@[simp] theorem State.setMailbox_acq (s : State) (m : Nat) (x : Mailbox) (t : Nat) :
    (s.setMailbox m x).acq t = s.acq t := rfl
@[simp] theorem State.setMailbox_tone (s : State) (m : Nat) (x : Mailbox) (k : Nat) :
    (s.setMailbox m x).tone k = s.tone k := rfl
@[simp] theorem State.setMailbox_port (s : State) (m : Nat) (x : Mailbox) (p : Nat) :
    (s.setMailbox m x).port p = s.port p := rfl
@[simp] theorem State.setMailbox_mailbox_self (s : State) (m : Nat) (x : Mailbox) : (s.setMailbox m x).mailbox m = x :=
  SMap.read_write_self _ _ _ _
theorem State.setMailbox_mailbox_ne (s : State) (m : Nat) (x : Mailbox) {j : Nat} (h : j ≠ m) :
    (s.setMailbox m x).mailbox j = s.mailbox j := SMap.read_write_ne _ _ _ _ h
@[simp] theorem State.setMailbox_si (s : State) (m : Nat) (x : Mailbox) : (s.setMailbox m x).si = s.si := rfl
@[simp] theorem State.setMailbox_wall (s : State) (m : Nat) (x : Mailbox) : (s.setMailbox m x).wall = s.wall := rfl

/-! ### setTile -/

@[simp] theorem State.setTile_pending (s : State) (t : Nat) (x : TileRun) : (s.setTile t x).pending = s.pending := rfl
@[simp] theorem State.setTile_out (s : State) (t : Nat) (x : TileRun) : (s.setTile t x).out = s.out := rfl
@[simp] theorem State.setTile_mode (s : State) (t : Nat) (x : TileRun) : (s.setTile t x).mode = s.mode := rfl
@[simp] theorem State.setTile_clock (s : State) (t : Nat) (x : TileRun) : (s.setTile t x).clock = s.clock := rfl
@[simp] theorem State.setTile_records (s : State) (t : Nat) (x : TileRun) : (s.setTile t x).records = s.records := rfl
@[simp] theorem State.setTile_shadows (s : State) (t : Nat) (x : TileRun) : (s.setTile t x).shadows = s.shadows := rfl
@[simp] theorem State.setTile_blocking (s : State) (t : Nat) (x : TileRun) : (s.setTile t x).blocking = s.blocking := rfl
@[simp] theorem State.setTile_drive (s : State) (t : Nat) (x : TileRun) : (s.setTile t x).drive = s.drive := rfl
@[simp] theorem State.setTile_bias (s : State) (t : Nat) (x : TileRun) : (s.setTile t x).bias = s.bias := rfl
@[simp] theorem State.setTile_readout (s : State) (t : Nat) (x : TileRun) : (s.setTile t x).readout = s.readout := rfl
@[simp] theorem State.setTile_engines (s : State) (t : Nat) (x : TileRun) : (s.setTile t x).engines = s.engines := rfl
@[simp] theorem State.setTile_hatband (s : State) (t : Nat) (x : TileRun) : (s.setTile t x).hatband = s.hatband := rfl
@[simp] theorem State.setTile_memory (s : State) (t : Nat) (x : TileRun) : (s.setTile t x).memory = s.memory := rfl
@[simp] theorem State.setTile_ports (s : State) (t : Nat) (x : TileRun) : (s.setTile t x).ports = s.ports := rfl
@[simp] theorem State.setTile_capture (s : State) (t : Nat) (x : TileRun) : (s.setTile t x).capture = s.capture := rfl
@[simp] theorem State.setTile_host (s : State) (t : Nat) (x : TileRun) : (s.setTile t x).host = s.host := rfl
@[simp] theorem State.setTile_monitor (s : State) (t : Nat) (x : TileRun) : (s.setTile t x).monitor = s.monitor := rfl
@[simp] theorem State.setTile_power (s : State) (t : Nat) (x : TileRun) : (s.setTile t x).power = s.power := rfl
@[simp] theorem State.setTile_crown (s : State) (t : Nat) (x : TileRun) : (s.setTile t x).crown = s.crown := rfl
@[simp] theorem State.setTile_log (s : State) (t : Nat) (x : TileRun) : (s.setTile t x).log = s.log := rfl
@[simp] theorem State.setTile_flash (s : State) (t : Nat) (x : TileRun) : (s.setTile t x).flash = s.flash := rfl
@[simp] theorem State.setTile_upload (s : State) (t : Nat) (x : TileRun) : (s.setTile t x).upload = s.upload := rfl
@[simp] theorem State.setTile_freeCount (s : State) (t : Nat) (x : TileRun) : (s.setTile t x).freeCount = s.freeCount := rfl
@[simp] theorem State.setTile_program_contexts (s : State) (t : Nat) (x : TileRun) :
    (s.setTile t x).program.contexts = s.program.contexts := rfl
@[simp] theorem State.setTile_program_ctxShadow (s : State) (t : Nat) (x : TileRun) :
    (s.setTile t x).program.ctxShadow = s.program.ctxShadow := rfl
@[simp] theorem State.setTile_program_bindings (s : State) (t : Nat) (x : TileRun) :
    (s.setTile t x).program.bindings = s.program.bindings := rfl
@[simp] theorem State.setTile_program_lists (s : State) (t : Nat) (x : TileRun) :
    (s.setTile t x).program.lists = s.program.lists := rfl
@[simp] theorem State.setTile_program_segments (s : State) (t : Nat) (x : TileRun) :
    (s.setTile t x).program.segments = s.program.segments := rfl
@[simp] theorem State.setTile_program_opMem (s : State) (t : Nat) (x : TileRun) :
    (s.setTile t x).program.opMem = s.program.opMem := rfl
@[simp] theorem State.setTile_program_groups (s : State) (t : Nat) (x : TileRun) :
    (s.setTile t x).program.groups = s.program.groups := rfl
@[simp] theorem State.setTile_image (s : State) (t : Nat) (x : TileRun) (r : Rec) (i : Nat) :
    (s.setTile t x).image r i = s.image r i := rfl
@[simp] theorem State.setTile_get (s : State) (t : Nat) (x : TileRun) (g : Field) (i : Nat) :
    (s.setTile t x).get g i = s.get g i := rfl
@[simp] theorem State.setTile_getAt (s : State) (t : Nat) (x : TileRun) (g : Field) (i j : Nat) :
    (s.setTile t x).getAt g i j = s.getAt g i j := rfl
@[simp] theorem State.setTile_flag (s : State) (t : Nat) (x : TileRun) (g : Field) (i : Nat) :
    (s.setTile t x).flag g i = s.flag g i := rfl
@[simp] theorem State.setTile_biasOf (s : State) (t : Nat) (x : TileRun) (n : Nat) :
    (s.setTile t x).biasOf n = s.biasOf n := rfl
@[simp] theorem State.setTile_group (s : State) (t : Nat) (x : TileRun) (g : Nat) :
    (s.setTile t x).group g = s.group g := rfl
@[simp] theorem State.setTile_engine (s : State) (t : Nat) (x : TileRun) (e : Nat) :
    (s.setTile t x).engine e = s.engine e := rfl
@[simp] theorem State.setTile_acq (s : State) (t : Nat) (x : TileRun) (t' : Nat) :
    (s.setTile t x).acq t' = s.acq t' := rfl
@[simp] theorem State.setTile_tone (s : State) (t : Nat) (x : TileRun) (k : Nat) :
    (s.setTile t x).tone k = s.tone k := rfl
@[simp] theorem State.setTile_port (s : State) (t : Nat) (x : TileRun) (p : Nat) :
    (s.setTile t x).port p = s.port p := rfl
@[simp] theorem State.setTile_mailbox (s : State) (t : Nat) (x : TileRun) (m : Nat) :
    (s.setTile t x).mailbox m = s.mailbox m := rfl
@[simp] theorem State.setTile_tile_self (s : State) (t : Nat) (x : TileRun) : (s.setTile t x).tile t = x :=
  SMap.read_write_self _ _ _ _
theorem State.setTile_tile_ne (s : State) (t : Nat) (x : TileRun) {j : Nat} (h : j ≠ t) :
    (s.setTile t x).tile j = s.tile j := SMap.read_write_ne _ _ _ _ h
@[simp] theorem State.setTile_si (s : State) (t : Nat) (x : TileRun) : (s.setTile t x).si = s.si := rfl
@[simp] theorem State.setTile_wall (s : State) (t : Nat) (x : TileRun) : (s.setTile t x).wall = s.wall := rfl

/-! ### setGroup -/

@[simp] theorem State.setGroup_pending (s : State) (g : Nat) (x : RunGroup) : (s.setGroup g x).pending = s.pending := rfl
@[simp] theorem State.setGroup_out (s : State) (g : Nat) (x : RunGroup) : (s.setGroup g x).out = s.out := rfl
@[simp] theorem State.setGroup_mode (s : State) (g : Nat) (x : RunGroup) : (s.setGroup g x).mode = s.mode := rfl
@[simp] theorem State.setGroup_clock (s : State) (g : Nat) (x : RunGroup) : (s.setGroup g x).clock = s.clock := rfl
@[simp] theorem State.setGroup_records (s : State) (g : Nat) (x : RunGroup) : (s.setGroup g x).records = s.records := rfl
@[simp] theorem State.setGroup_shadows (s : State) (g : Nat) (x : RunGroup) : (s.setGroup g x).shadows = s.shadows := rfl
@[simp] theorem State.setGroup_blocking (s : State) (g : Nat) (x : RunGroup) : (s.setGroup g x).blocking = s.blocking := rfl
@[simp] theorem State.setGroup_drive (s : State) (g : Nat) (x : RunGroup) : (s.setGroup g x).drive = s.drive := rfl
@[simp] theorem State.setGroup_bias (s : State) (g : Nat) (x : RunGroup) : (s.setGroup g x).bias = s.bias := rfl
@[simp] theorem State.setGroup_readout (s : State) (g : Nat) (x : RunGroup) : (s.setGroup g x).readout = s.readout := rfl
@[simp] theorem State.setGroup_engines (s : State) (g : Nat) (x : RunGroup) : (s.setGroup g x).engines = s.engines := rfl
@[simp] theorem State.setGroup_hatband (s : State) (g : Nat) (x : RunGroup) : (s.setGroup g x).hatband = s.hatband := rfl
@[simp] theorem State.setGroup_memory (s : State) (g : Nat) (x : RunGroup) : (s.setGroup g x).memory = s.memory := rfl
@[simp] theorem State.setGroup_ports (s : State) (g : Nat) (x : RunGroup) : (s.setGroup g x).ports = s.ports := rfl
@[simp] theorem State.setGroup_capture (s : State) (g : Nat) (x : RunGroup) : (s.setGroup g x).capture = s.capture := rfl
@[simp] theorem State.setGroup_host (s : State) (g : Nat) (x : RunGroup) : (s.setGroup g x).host = s.host := rfl
@[simp] theorem State.setGroup_monitor (s : State) (g : Nat) (x : RunGroup) : (s.setGroup g x).monitor = s.monitor := rfl
@[simp] theorem State.setGroup_power (s : State) (g : Nat) (x : RunGroup) : (s.setGroup g x).power = s.power := rfl
@[simp] theorem State.setGroup_crown (s : State) (g : Nat) (x : RunGroup) : (s.setGroup g x).crown = s.crown := rfl
@[simp] theorem State.setGroup_log (s : State) (g : Nat) (x : RunGroup) : (s.setGroup g x).log = s.log := rfl
@[simp] theorem State.setGroup_flash (s : State) (g : Nat) (x : RunGroup) : (s.setGroup g x).flash = s.flash := rfl
@[simp] theorem State.setGroup_upload (s : State) (g : Nat) (x : RunGroup) : (s.setGroup g x).upload = s.upload := rfl
@[simp] theorem State.setGroup_freeCount (s : State) (g : Nat) (x : RunGroup) : (s.setGroup g x).freeCount = s.freeCount := rfl
@[simp] theorem State.setGroup_program_contexts (s : State) (g : Nat) (x : RunGroup) :
    (s.setGroup g x).program.contexts = s.program.contexts := rfl
@[simp] theorem State.setGroup_program_ctxShadow (s : State) (g : Nat) (x : RunGroup) :
    (s.setGroup g x).program.ctxShadow = s.program.ctxShadow := rfl
@[simp] theorem State.setGroup_program_bindings (s : State) (g : Nat) (x : RunGroup) :
    (s.setGroup g x).program.bindings = s.program.bindings := rfl
@[simp] theorem State.setGroup_program_lists (s : State) (g : Nat) (x : RunGroup) :
    (s.setGroup g x).program.lists = s.program.lists := rfl
@[simp] theorem State.setGroup_program_segments (s : State) (g : Nat) (x : RunGroup) :
    (s.setGroup g x).program.segments = s.program.segments := rfl
@[simp] theorem State.setGroup_program_opMem (s : State) (g : Nat) (x : RunGroup) :
    (s.setGroup g x).program.opMem = s.program.opMem := rfl
@[simp] theorem State.setGroup_program_tiles (s : State) (g : Nat) (x : RunGroup) :
    (s.setGroup g x).program.tiles = s.program.tiles := rfl
@[simp] theorem State.setGroup_image (s : State) (g : Nat) (x : RunGroup) (r : Rec) (i : Nat) :
    (s.setGroup g x).image r i = s.image r i := rfl
@[simp] theorem State.setGroup_get (s : State) (g : Nat) (x : RunGroup) (g' : Field) (i : Nat) :
    (s.setGroup g x).get g' i = s.get g' i := rfl
@[simp] theorem State.setGroup_getAt (s : State) (g : Nat) (x : RunGroup) (g' : Field) (i j : Nat) :
    (s.setGroup g x).getAt g' i j = s.getAt g' i j := rfl
@[simp] theorem State.setGroup_flag (s : State) (g : Nat) (x : RunGroup) (g' : Field) (i : Nat) :
    (s.setGroup g x).flag g' i = s.flag g' i := rfl
@[simp] theorem State.setGroup_biasOf (s : State) (g : Nat) (x : RunGroup) (n : Nat) :
    (s.setGroup g x).biasOf n = s.biasOf n := rfl
@[simp] theorem State.setGroup_tile (s : State) (g : Nat) (x : RunGroup) (t : Nat) :
    (s.setGroup g x).tile t = s.tile t := rfl
@[simp] theorem State.setGroup_engine (s : State) (g : Nat) (x : RunGroup) (e : Nat) :
    (s.setGroup g x).engine e = s.engine e := rfl
@[simp] theorem State.setGroup_acq (s : State) (g : Nat) (x : RunGroup) (t : Nat) :
    (s.setGroup g x).acq t = s.acq t := rfl
@[simp] theorem State.setGroup_tone (s : State) (g : Nat) (x : RunGroup) (k : Nat) :
    (s.setGroup g x).tone k = s.tone k := rfl
@[simp] theorem State.setGroup_port (s : State) (g : Nat) (x : RunGroup) (p : Nat) :
    (s.setGroup g x).port p = s.port p := rfl
@[simp] theorem State.setGroup_mailbox (s : State) (g : Nat) (x : RunGroup) (m : Nat) :
    (s.setGroup g x).mailbox m = s.mailbox m := rfl
@[simp] theorem State.setGroup_group_self (s : State) (g : Nat) (x : RunGroup) : (s.setGroup g x).group g = x :=
  SMap.read_write_self _ _ _ _
theorem State.setGroup_group_ne (s : State) (g : Nat) (x : RunGroup) {j : Nat} (h : j ≠ g) :
    (s.setGroup g x).group j = s.group j := SMap.read_write_ne _ _ _ _ h
@[simp] theorem State.setGroup_si (s : State) (g : Nat) (x : RunGroup) : (s.setGroup g x).si = s.si := rfl
@[simp] theorem State.setGroup_wall (s : State) (g : Nat) (x : RunGroup) : (s.setGroup g x).wall = s.wall := rfl

/-! ### setEngine -/

@[simp] theorem State.setEngine_pending (s : State) (e : Nat) (x : Engine) : (s.setEngine e x).pending = s.pending := rfl
@[simp] theorem State.setEngine_out (s : State) (e : Nat) (x : Engine) : (s.setEngine e x).out = s.out := rfl
@[simp] theorem State.setEngine_mode (s : State) (e : Nat) (x : Engine) : (s.setEngine e x).mode = s.mode := rfl
@[simp] theorem State.setEngine_clock (s : State) (e : Nat) (x : Engine) : (s.setEngine e x).clock = s.clock := rfl
@[simp] theorem State.setEngine_records (s : State) (e : Nat) (x : Engine) : (s.setEngine e x).records = s.records := rfl
@[simp] theorem State.setEngine_shadows (s : State) (e : Nat) (x : Engine) : (s.setEngine e x).shadows = s.shadows := rfl
@[simp] theorem State.setEngine_blocking (s : State) (e : Nat) (x : Engine) : (s.setEngine e x).blocking = s.blocking := rfl
@[simp] theorem State.setEngine_drive (s : State) (e : Nat) (x : Engine) : (s.setEngine e x).drive = s.drive := rfl
@[simp] theorem State.setEngine_bias (s : State) (e : Nat) (x : Engine) : (s.setEngine e x).bias = s.bias := rfl
@[simp] theorem State.setEngine_readout (s : State) (e : Nat) (x : Engine) : (s.setEngine e x).readout = s.readout := rfl
@[simp] theorem State.setEngine_program (s : State) (e : Nat) (x : Engine) : (s.setEngine e x).program = s.program := rfl
@[simp] theorem State.setEngine_hatband (s : State) (e : Nat) (x : Engine) : (s.setEngine e x).hatband = s.hatband := rfl
@[simp] theorem State.setEngine_memory (s : State) (e : Nat) (x : Engine) : (s.setEngine e x).memory = s.memory := rfl
@[simp] theorem State.setEngine_ports (s : State) (e : Nat) (x : Engine) : (s.setEngine e x).ports = s.ports := rfl
@[simp] theorem State.setEngine_capture (s : State) (e : Nat) (x : Engine) : (s.setEngine e x).capture = s.capture := rfl
@[simp] theorem State.setEngine_host (s : State) (e : Nat) (x : Engine) : (s.setEngine e x).host = s.host := rfl
@[simp] theorem State.setEngine_monitor (s : State) (e : Nat) (x : Engine) : (s.setEngine e x).monitor = s.monitor := rfl
@[simp] theorem State.setEngine_power (s : State) (e : Nat) (x : Engine) : (s.setEngine e x).power = s.power := rfl
@[simp] theorem State.setEngine_crown (s : State) (e : Nat) (x : Engine) : (s.setEngine e x).crown = s.crown := rfl
@[simp] theorem State.setEngine_log (s : State) (e : Nat) (x : Engine) : (s.setEngine e x).log = s.log := rfl
@[simp] theorem State.setEngine_flash (s : State) (e : Nat) (x : Engine) : (s.setEngine e x).flash = s.flash := rfl
@[simp] theorem State.setEngine_upload (s : State) (e : Nat) (x : Engine) : (s.setEngine e x).upload = s.upload := rfl
@[simp] theorem State.setEngine_freeCount (s : State) (e : Nat) (x : Engine) : (s.setEngine e x).freeCount = s.freeCount := rfl
@[simp] theorem State.setEngine_image (s : State) (e : Nat) (x : Engine) (r : Rec) (i : Nat) :
    (s.setEngine e x).image r i = s.image r i := rfl
@[simp] theorem State.setEngine_get (s : State) (e : Nat) (x : Engine) (g : Field) (i : Nat) :
    (s.setEngine e x).get g i = s.get g i := rfl
@[simp] theorem State.setEngine_getAt (s : State) (e : Nat) (x : Engine) (g : Field) (i j : Nat) :
    (s.setEngine e x).getAt g i j = s.getAt g i j := rfl
@[simp] theorem State.setEngine_flag (s : State) (e : Nat) (x : Engine) (g : Field) (i : Nat) :
    (s.setEngine e x).flag g i = s.flag g i := rfl
@[simp] theorem State.setEngine_biasOf (s : State) (e : Nat) (x : Engine) (n : Nat) :
    (s.setEngine e x).biasOf n = s.biasOf n := rfl
@[simp] theorem State.setEngine_tile (s : State) (e : Nat) (x : Engine) (t : Nat) :
    (s.setEngine e x).tile t = s.tile t := rfl
@[simp] theorem State.setEngine_group (s : State) (e : Nat) (x : Engine) (g : Nat) :
    (s.setEngine e x).group g = s.group g := rfl
@[simp] theorem State.setEngine_acq (s : State) (e : Nat) (x : Engine) (t : Nat) :
    (s.setEngine e x).acq t = s.acq t := rfl
@[simp] theorem State.setEngine_tone (s : State) (e : Nat) (x : Engine) (k : Nat) :
    (s.setEngine e x).tone k = s.tone k := rfl
@[simp] theorem State.setEngine_port (s : State) (e : Nat) (x : Engine) (p : Nat) :
    (s.setEngine e x).port p = s.port p := rfl
@[simp] theorem State.setEngine_mailbox (s : State) (e : Nat) (x : Engine) (m : Nat) :
    (s.setEngine e x).mailbox m = s.mailbox m := rfl
@[simp] theorem State.setEngine_engine_self (s : State) (e : Nat) (x : Engine) : (s.setEngine e x).engine e = x :=
  SMap.read_write_self _ _ _ _
theorem State.setEngine_engine_ne (s : State) (e : Nat) (x : Engine) {j : Nat} (h : j ≠ e) :
    (s.setEngine e x).engine j = s.engine j := SMap.read_write_ne _ _ _ _ h
@[simp] theorem State.setEngine_si (s : State) (e : Nat) (x : Engine) : (s.setEngine e x).si = s.si := rfl
@[simp] theorem State.setEngine_wall (s : State) (e : Nat) (x : Engine) : (s.setEngine e x).wall = s.wall := rfl

/-! ### setAcq -/

@[simp] theorem State.setAcq_pending (s : State) (t : Nat) (x : Acq) : (s.setAcq t x).pending = s.pending := rfl
@[simp] theorem State.setAcq_out (s : State) (t : Nat) (x : Acq) : (s.setAcq t x).out = s.out := rfl
@[simp] theorem State.setAcq_mode (s : State) (t : Nat) (x : Acq) : (s.setAcq t x).mode = s.mode := rfl
@[simp] theorem State.setAcq_clock (s : State) (t : Nat) (x : Acq) : (s.setAcq t x).clock = s.clock := rfl
@[simp] theorem State.setAcq_records (s : State) (t : Nat) (x : Acq) : (s.setAcq t x).records = s.records := rfl
@[simp] theorem State.setAcq_shadows (s : State) (t : Nat) (x : Acq) : (s.setAcq t x).shadows = s.shadows := rfl
@[simp] theorem State.setAcq_blocking (s : State) (t : Nat) (x : Acq) : (s.setAcq t x).blocking = s.blocking := rfl
@[simp] theorem State.setAcq_drive (s : State) (t : Nat) (x : Acq) : (s.setAcq t x).drive = s.drive := rfl
@[simp] theorem State.setAcq_bias (s : State) (t : Nat) (x : Acq) : (s.setAcq t x).bias = s.bias := rfl
@[simp] theorem State.setAcq_engines (s : State) (t : Nat) (x : Acq) : (s.setAcq t x).engines = s.engines := rfl
@[simp] theorem State.setAcq_program (s : State) (t : Nat) (x : Acq) : (s.setAcq t x).program = s.program := rfl
@[simp] theorem State.setAcq_hatband (s : State) (t : Nat) (x : Acq) : (s.setAcq t x).hatband = s.hatband := rfl
@[simp] theorem State.setAcq_memory (s : State) (t : Nat) (x : Acq) : (s.setAcq t x).memory = s.memory := rfl
@[simp] theorem State.setAcq_ports (s : State) (t : Nat) (x : Acq) : (s.setAcq t x).ports = s.ports := rfl
@[simp] theorem State.setAcq_capture (s : State) (t : Nat) (x : Acq) : (s.setAcq t x).capture = s.capture := rfl
@[simp] theorem State.setAcq_host (s : State) (t : Nat) (x : Acq) : (s.setAcq t x).host = s.host := rfl
@[simp] theorem State.setAcq_monitor (s : State) (t : Nat) (x : Acq) : (s.setAcq t x).monitor = s.monitor := rfl
@[simp] theorem State.setAcq_power (s : State) (t : Nat) (x : Acq) : (s.setAcq t x).power = s.power := rfl
@[simp] theorem State.setAcq_crown (s : State) (t : Nat) (x : Acq) : (s.setAcq t x).crown = s.crown := rfl
@[simp] theorem State.setAcq_log (s : State) (t : Nat) (x : Acq) : (s.setAcq t x).log = s.log := rfl
@[simp] theorem State.setAcq_flash (s : State) (t : Nat) (x : Acq) : (s.setAcq t x).flash = s.flash := rfl
@[simp] theorem State.setAcq_upload (s : State) (t : Nat) (x : Acq) : (s.setAcq t x).upload = s.upload := rfl
@[simp] theorem State.setAcq_freeCount (s : State) (t : Nat) (x : Acq) : (s.setAcq t x).freeCount = s.freeCount := rfl
@[simp] theorem State.setAcq_readout_bins (s : State) (t : Nat) (x : Acq) :
    (s.setAcq t x).readout.bins = s.readout.bins := rfl
@[simp] theorem State.setAcq_readout_weights (s : State) (t : Nat) (x : Acq) :
    (s.setAcq t x).readout.weights = s.readout.weights := rfl
@[simp] theorem State.setAcq_readout_weightShadow (s : State) (t : Nat) (x : Acq) :
    (s.setAcq t x).readout.weightShadow = s.readout.weightShadow := rfl
@[simp] theorem State.setAcq_readout_weightCommit (s : State) (t : Nat) (x : Acq) :
    (s.setAcq t x).readout.weightCommit = s.readout.weightCommit := rfl
@[simp] theorem State.setAcq_readout_histClear (s : State) (t : Nat) (x : Acq) :
    (s.setAcq t x).readout.histClear = s.readout.histClear := rfl
@[simp] theorem State.setAcq_readout_capture (s : State) (t : Nat) (x : Acq) :
    (s.setAcq t x).readout.capture = s.readout.capture := rfl
@[simp] theorem State.setAcq_readout_surveyStep (s : State) (t : Nat) (x : Acq) :
    (s.setAcq t x).readout.surveyStep = s.readout.surveyStep := rfl
@[simp] theorem State.setAcq_image (s : State) (t : Nat) (x : Acq) (r : Rec) (i : Nat) :
    (s.setAcq t x).image r i = s.image r i := rfl
@[simp] theorem State.setAcq_get (s : State) (t : Nat) (x : Acq) (g : Field) (i : Nat) :
    (s.setAcq t x).get g i = s.get g i := rfl
@[simp] theorem State.setAcq_getAt (s : State) (t : Nat) (x : Acq) (g : Field) (i j : Nat) :
    (s.setAcq t x).getAt g i j = s.getAt g i j := rfl
@[simp] theorem State.setAcq_flag (s : State) (t : Nat) (x : Acq) (g : Field) (i : Nat) :
    (s.setAcq t x).flag g i = s.flag g i := rfl
@[simp] theorem State.setAcq_biasOf (s : State) (t : Nat) (x : Acq) (n : Nat) :
    (s.setAcq t x).biasOf n = s.biasOf n := rfl
@[simp] theorem State.setAcq_tile (s : State) (t : Nat) (x : Acq) (t' : Nat) :
    (s.setAcq t x).tile t' = s.tile t' := rfl
@[simp] theorem State.setAcq_group (s : State) (t : Nat) (x : Acq) (g : Nat) :
    (s.setAcq t x).group g = s.group g := rfl
@[simp] theorem State.setAcq_engine (s : State) (t : Nat) (x : Acq) (e : Nat) :
    (s.setAcq t x).engine e = s.engine e := rfl
@[simp] theorem State.setAcq_tone (s : State) (t : Nat) (x : Acq) (k : Nat) :
    (s.setAcq t x).tone k = s.tone k := rfl
@[simp] theorem State.setAcq_port (s : State) (t : Nat) (x : Acq) (p : Nat) :
    (s.setAcq t x).port p = s.port p := rfl
@[simp] theorem State.setAcq_mailbox (s : State) (t : Nat) (x : Acq) (m : Nat) :
    (s.setAcq t x).mailbox m = s.mailbox m := rfl
@[simp] theorem State.setAcq_acq_self (s : State) (t : Nat) (x : Acq) : (s.setAcq t x).acq t = x :=
  SMap.read_write_self _ _ _ _
theorem State.setAcq_acq_ne (s : State) (t : Nat) (x : Acq) {j : Nat} (h : j ≠ t) :
    (s.setAcq t x).acq j = s.acq j := SMap.read_write_ne _ _ _ _ h
@[simp] theorem State.setAcq_si (s : State) (t : Nat) (x : Acq) : (s.setAcq t x).si = s.si := rfl
@[simp] theorem State.setAcq_wall (s : State) (t : Nat) (x : Acq) : (s.setAcq t x).wall = s.wall := rfl

/-! ### setTone -/

@[simp] theorem State.setTone_pending (s : State) (k : Nat) (x : Tone) : (s.setTone k x).pending = s.pending := rfl
@[simp] theorem State.setTone_out (s : State) (k : Nat) (x : Tone) : (s.setTone k x).out = s.out := rfl
@[simp] theorem State.setTone_mode (s : State) (k : Nat) (x : Tone) : (s.setTone k x).mode = s.mode := rfl
@[simp] theorem State.setTone_clock (s : State) (k : Nat) (x : Tone) : (s.setTone k x).clock = s.clock := rfl
@[simp] theorem State.setTone_records (s : State) (k : Nat) (x : Tone) : (s.setTone k x).records = s.records := rfl
@[simp] theorem State.setTone_shadows (s : State) (k : Nat) (x : Tone) : (s.setTone k x).shadows = s.shadows := rfl
@[simp] theorem State.setTone_blocking (s : State) (k : Nat) (x : Tone) : (s.setTone k x).blocking = s.blocking := rfl
@[simp] theorem State.setTone_bias (s : State) (k : Nat) (x : Tone) : (s.setTone k x).bias = s.bias := rfl
@[simp] theorem State.setTone_readout (s : State) (k : Nat) (x : Tone) : (s.setTone k x).readout = s.readout := rfl
@[simp] theorem State.setTone_engines (s : State) (k : Nat) (x : Tone) : (s.setTone k x).engines = s.engines := rfl
@[simp] theorem State.setTone_program (s : State) (k : Nat) (x : Tone) : (s.setTone k x).program = s.program := rfl
@[simp] theorem State.setTone_hatband (s : State) (k : Nat) (x : Tone) : (s.setTone k x).hatband = s.hatband := rfl
@[simp] theorem State.setTone_memory (s : State) (k : Nat) (x : Tone) : (s.setTone k x).memory = s.memory := rfl
@[simp] theorem State.setTone_ports (s : State) (k : Nat) (x : Tone) : (s.setTone k x).ports = s.ports := rfl
@[simp] theorem State.setTone_capture (s : State) (k : Nat) (x : Tone) : (s.setTone k x).capture = s.capture := rfl
@[simp] theorem State.setTone_host (s : State) (k : Nat) (x : Tone) : (s.setTone k x).host = s.host := rfl
@[simp] theorem State.setTone_monitor (s : State) (k : Nat) (x : Tone) : (s.setTone k x).monitor = s.monitor := rfl
@[simp] theorem State.setTone_power (s : State) (k : Nat) (x : Tone) : (s.setTone k x).power = s.power := rfl
@[simp] theorem State.setTone_crown (s : State) (k : Nat) (x : Tone) : (s.setTone k x).crown = s.crown := rfl
@[simp] theorem State.setTone_log (s : State) (k : Nat) (x : Tone) : (s.setTone k x).log = s.log := rfl
@[simp] theorem State.setTone_flash (s : State) (k : Nat) (x : Tone) : (s.setTone k x).flash = s.flash := rfl
@[simp] theorem State.setTone_upload (s : State) (k : Nat) (x : Tone) : (s.setTone k x).upload = s.upload := rfl
@[simp] theorem State.setTone_freeCount (s : State) (k : Nat) (x : Tone) : (s.setTone k x).freeCount = s.freeCount := rfl
@[simp] theorem State.setTone_drive_released (s : State) (k : Nat) (x : Tone) :
    (s.setTone k x).drive.released = s.drive.released := rfl
@[simp] theorem State.setTone_drive_arrived (s : State) (k : Nat) (x : Tone) :
    (s.setTone k x).drive.arrived = s.drive.arrived := rfl
@[simp] theorem State.setTone_drive_zeroed (s : State) (k : Nat) (x : Tone) :
    (s.setTone k x).drive.zeroed = s.drive.zeroed := rfl
@[simp] theorem State.setTone_drive_clipped (s : State) (k : Nat) (x : Tone) :
    (s.setTone k x).drive.clipped = s.drive.clipped := rfl
@[simp] theorem State.setTone_drive_muteClear (s : State) (k : Nat) (x : Tone) :
    (s.setTone k x).drive.muteClear = s.drive.muteClear := rfl
@[simp] theorem State.setTone_drive_power (s : State) (k : Nat) (x : Tone) :
    (s.setTone k x).drive.power = s.drive.power := rfl
@[simp] theorem State.setTone_drive_wordPower (s : State) (k : Nat) (x : Tone) :
    (s.setTone k x).drive.wordPower = s.drive.wordPower := rfl
@[simp] theorem State.setTone_drive_matrix (s : State) (k : Nat) (x : Tone) :
    (s.setTone k x).drive.matrix = s.drive.matrix := rfl
@[simp] theorem State.setTone_drive_matrixCommit (s : State) (k : Nat) (x : Tone) :
    (s.setTone k x).drive.matrixCommit = s.drive.matrixCommit := rfl
@[simp] theorem State.setTone_image (s : State) (k : Nat) (x : Tone) (r : Rec) (i : Nat) :
    (s.setTone k x).image r i = s.image r i := rfl
@[simp] theorem State.setTone_get (s : State) (k : Nat) (x : Tone) (g : Field) (i : Nat) :
    (s.setTone k x).get g i = s.get g i := rfl
@[simp] theorem State.setTone_getAt (s : State) (k : Nat) (x : Tone) (g : Field) (i j : Nat) :
    (s.setTone k x).getAt g i j = s.getAt g i j := rfl
@[simp] theorem State.setTone_flag (s : State) (k : Nat) (x : Tone) (g : Field) (i : Nat) :
    (s.setTone k x).flag g i = s.flag g i := rfl
@[simp] theorem State.setTone_biasOf (s : State) (k : Nat) (x : Tone) (n : Nat) :
    (s.setTone k x).biasOf n = s.biasOf n := rfl
@[simp] theorem State.setTone_tile (s : State) (k : Nat) (x : Tone) (t : Nat) :
    (s.setTone k x).tile t = s.tile t := rfl
@[simp] theorem State.setTone_group (s : State) (k : Nat) (x : Tone) (g : Nat) :
    (s.setTone k x).group g = s.group g := rfl
@[simp] theorem State.setTone_engine (s : State) (k : Nat) (x : Tone) (e : Nat) :
    (s.setTone k x).engine e = s.engine e := rfl
@[simp] theorem State.setTone_acq (s : State) (k : Nat) (x : Tone) (t : Nat) :
    (s.setTone k x).acq t = s.acq t := rfl
@[simp] theorem State.setTone_port (s : State) (k : Nat) (x : Tone) (p : Nat) :
    (s.setTone k x).port p = s.port p := rfl
@[simp] theorem State.setTone_mailbox (s : State) (k : Nat) (x : Tone) (m : Nat) :
    (s.setTone k x).mailbox m = s.mailbox m := rfl
@[simp] theorem State.setTone_tone_self (s : State) (k : Nat) (x : Tone) : (s.setTone k x).tone k = x :=
  SMap.read_write_self _ _ _ _
theorem State.setTone_tone_ne (s : State) (k : Nat) (x : Tone) {j : Nat} (h : j ≠ k) :
    (s.setTone k x).tone j = s.tone j := SMap.read_write_ne _ _ _ _ h
@[simp] theorem State.setTone_si (s : State) (k : Nat) (x : Tone) : (s.setTone k x).si = s.si := rfl
@[simp] theorem State.setTone_wall (s : State) (k : Nat) (x : Tone) : (s.setTone k x).wall = s.wall := rfl

/-! ### setPort -/

@[simp] theorem State.setPort_pending (s : State) (p : Nat) (x : Port) : (s.setPort p x).pending = s.pending := rfl
@[simp] theorem State.setPort_out (s : State) (p : Nat) (x : Port) : (s.setPort p x).out = s.out := rfl
@[simp] theorem State.setPort_mode (s : State) (p : Nat) (x : Port) : (s.setPort p x).mode = s.mode := rfl
@[simp] theorem State.setPort_clock (s : State) (p : Nat) (x : Port) : (s.setPort p x).clock = s.clock := rfl
@[simp] theorem State.setPort_records (s : State) (p : Nat) (x : Port) : (s.setPort p x).records = s.records := rfl
@[simp] theorem State.setPort_shadows (s : State) (p : Nat) (x : Port) : (s.setPort p x).shadows = s.shadows := rfl
@[simp] theorem State.setPort_blocking (s : State) (p : Nat) (x : Port) : (s.setPort p x).blocking = s.blocking := rfl
@[simp] theorem State.setPort_drive (s : State) (p : Nat) (x : Port) : (s.setPort p x).drive = s.drive := rfl
@[simp] theorem State.setPort_bias (s : State) (p : Nat) (x : Port) : (s.setPort p x).bias = s.bias := rfl
@[simp] theorem State.setPort_readout (s : State) (p : Nat) (x : Port) : (s.setPort p x).readout = s.readout := rfl
@[simp] theorem State.setPort_engines (s : State) (p : Nat) (x : Port) : (s.setPort p x).engines = s.engines := rfl
@[simp] theorem State.setPort_program (s : State) (p : Nat) (x : Port) : (s.setPort p x).program = s.program := rfl
@[simp] theorem State.setPort_hatband (s : State) (p : Nat) (x : Port) : (s.setPort p x).hatband = s.hatband := rfl
@[simp] theorem State.setPort_memory (s : State) (p : Nat) (x : Port) : (s.setPort p x).memory = s.memory := rfl
@[simp] theorem State.setPort_capture (s : State) (p : Nat) (x : Port) : (s.setPort p x).capture = s.capture := rfl
@[simp] theorem State.setPort_host (s : State) (p : Nat) (x : Port) : (s.setPort p x).host = s.host := rfl
@[simp] theorem State.setPort_monitor (s : State) (p : Nat) (x : Port) : (s.setPort p x).monitor = s.monitor := rfl
@[simp] theorem State.setPort_power (s : State) (p : Nat) (x : Port) : (s.setPort p x).power = s.power := rfl
@[simp] theorem State.setPort_crown (s : State) (p : Nat) (x : Port) : (s.setPort p x).crown = s.crown := rfl
@[simp] theorem State.setPort_log (s : State) (p : Nat) (x : Port) : (s.setPort p x).log = s.log := rfl
@[simp] theorem State.setPort_flash (s : State) (p : Nat) (x : Port) : (s.setPort p x).flash = s.flash := rfl
@[simp] theorem State.setPort_upload (s : State) (p : Nat) (x : Port) : (s.setPort p x).upload = s.upload := rfl
@[simp] theorem State.setPort_freeCount (s : State) (p : Nat) (x : Port) : (s.setPort p x).freeCount = s.freeCount := rfl
@[simp] theorem State.setPort_image (s : State) (p : Nat) (x : Port) (r : Rec) (i : Nat) :
    (s.setPort p x).image r i = s.image r i := rfl
@[simp] theorem State.setPort_get (s : State) (p : Nat) (x : Port) (g : Field) (i : Nat) :
    (s.setPort p x).get g i = s.get g i := rfl
@[simp] theorem State.setPort_getAt (s : State) (p : Nat) (x : Port) (g : Field) (i j : Nat) :
    (s.setPort p x).getAt g i j = s.getAt g i j := rfl
@[simp] theorem State.setPort_flag (s : State) (p : Nat) (x : Port) (g : Field) (i : Nat) :
    (s.setPort p x).flag g i = s.flag g i := rfl
@[simp] theorem State.setPort_biasOf (s : State) (p : Nat) (x : Port) (n : Nat) :
    (s.setPort p x).biasOf n = s.biasOf n := rfl
@[simp] theorem State.setPort_tile (s : State) (p : Nat) (x : Port) (t : Nat) :
    (s.setPort p x).tile t = s.tile t := rfl
@[simp] theorem State.setPort_group (s : State) (p : Nat) (x : Port) (g : Nat) :
    (s.setPort p x).group g = s.group g := rfl
@[simp] theorem State.setPort_engine (s : State) (p : Nat) (x : Port) (e : Nat) :
    (s.setPort p x).engine e = s.engine e := rfl
@[simp] theorem State.setPort_acq (s : State) (p : Nat) (x : Port) (t : Nat) :
    (s.setPort p x).acq t = s.acq t := rfl
@[simp] theorem State.setPort_tone (s : State) (p : Nat) (x : Port) (k : Nat) :
    (s.setPort p x).tone k = s.tone k := rfl
@[simp] theorem State.setPort_mailbox (s : State) (p : Nat) (x : Port) (m : Nat) :
    (s.setPort p x).mailbox m = s.mailbox m := rfl
@[simp] theorem State.setPort_port_self (s : State) (p : Nat) (x : Port) : (s.setPort p x).port p = x :=
  SMap.read_write_self _ _ _ _
theorem State.setPort_port_ne (s : State) (p : Nat) (x : Port) {j : Nat} (h : j ≠ p) :
    (s.setPort p x).port j = s.port j := SMap.read_write_ne _ _ _ _ h
@[simp] theorem State.setPort_si (s : State) (p : Nat) (x : Port) : (s.setPort p x).si = s.si := rfl
@[simp] theorem State.setPort_wall (s : State) (p : Nat) (x : Port) : (s.setPort p x).wall = s.wall := rfl

/-! ### setBias -/

@[simp] theorem State.setBias_pending (s : State) (n : Nat) (x : Bias) : (s.setBias n x).pending = s.pending := rfl
@[simp] theorem State.setBias_out (s : State) (n : Nat) (x : Bias) : (s.setBias n x).out = s.out := rfl
@[simp] theorem State.setBias_mode (s : State) (n : Nat) (x : Bias) : (s.setBias n x).mode = s.mode := rfl
@[simp] theorem State.setBias_clock (s : State) (n : Nat) (x : Bias) : (s.setBias n x).clock = s.clock := rfl
@[simp] theorem State.setBias_records (s : State) (n : Nat) (x : Bias) : (s.setBias n x).records = s.records := rfl
@[simp] theorem State.setBias_shadows (s : State) (n : Nat) (x : Bias) : (s.setBias n x).shadows = s.shadows := rfl
@[simp] theorem State.setBias_blocking (s : State) (n : Nat) (x : Bias) : (s.setBias n x).blocking = s.blocking := rfl
@[simp] theorem State.setBias_drive (s : State) (n : Nat) (x : Bias) : (s.setBias n x).drive = s.drive := rfl
@[simp] theorem State.setBias_readout (s : State) (n : Nat) (x : Bias) : (s.setBias n x).readout = s.readout := rfl
@[simp] theorem State.setBias_engines (s : State) (n : Nat) (x : Bias) : (s.setBias n x).engines = s.engines := rfl
@[simp] theorem State.setBias_program (s : State) (n : Nat) (x : Bias) : (s.setBias n x).program = s.program := rfl
@[simp] theorem State.setBias_hatband (s : State) (n : Nat) (x : Bias) : (s.setBias n x).hatband = s.hatband := rfl
@[simp] theorem State.setBias_memory (s : State) (n : Nat) (x : Bias) : (s.setBias n x).memory = s.memory := rfl
@[simp] theorem State.setBias_ports (s : State) (n : Nat) (x : Bias) : (s.setBias n x).ports = s.ports := rfl
@[simp] theorem State.setBias_capture (s : State) (n : Nat) (x : Bias) : (s.setBias n x).capture = s.capture := rfl
@[simp] theorem State.setBias_host (s : State) (n : Nat) (x : Bias) : (s.setBias n x).host = s.host := rfl
@[simp] theorem State.setBias_monitor (s : State) (n : Nat) (x : Bias) : (s.setBias n x).monitor = s.monitor := rfl
@[simp] theorem State.setBias_power (s : State) (n : Nat) (x : Bias) : (s.setBias n x).power = s.power := rfl
@[simp] theorem State.setBias_crown (s : State) (n : Nat) (x : Bias) : (s.setBias n x).crown = s.crown := rfl
@[simp] theorem State.setBias_log (s : State) (n : Nat) (x : Bias) : (s.setBias n x).log = s.log := rfl
@[simp] theorem State.setBias_flash (s : State) (n : Nat) (x : Bias) : (s.setBias n x).flash = s.flash := rfl
@[simp] theorem State.setBias_upload (s : State) (n : Nat) (x : Bias) : (s.setBias n x).upload = s.upload := rfl
@[simp] theorem State.setBias_freeCount (s : State) (n : Nat) (x : Bias) : (s.setBias n x).freeCount = s.freeCount := rfl
@[simp] theorem State.setBias_image (s : State) (n : Nat) (x : Bias) (r : Rec) (i : Nat) :
    (s.setBias n x).image r i = s.image r i := rfl
@[simp] theorem State.setBias_get (s : State) (n : Nat) (x : Bias) (g : Field) (i : Nat) :
    (s.setBias n x).get g i = s.get g i := rfl
@[simp] theorem State.setBias_getAt (s : State) (n : Nat) (x : Bias) (g : Field) (i j : Nat) :
    (s.setBias n x).getAt g i j = s.getAt g i j := rfl
@[simp] theorem State.setBias_flag (s : State) (n : Nat) (x : Bias) (g : Field) (i : Nat) :
    (s.setBias n x).flag g i = s.flag g i := rfl
@[simp] theorem State.setBias_tile (s : State) (n : Nat) (x : Bias) (t : Nat) :
    (s.setBias n x).tile t = s.tile t := rfl
@[simp] theorem State.setBias_group (s : State) (n : Nat) (x : Bias) (g : Nat) :
    (s.setBias n x).group g = s.group g := rfl
@[simp] theorem State.setBias_engine (s : State) (n : Nat) (x : Bias) (e : Nat) :
    (s.setBias n x).engine e = s.engine e := rfl
@[simp] theorem State.setBias_acq (s : State) (n : Nat) (x : Bias) (t : Nat) :
    (s.setBias n x).acq t = s.acq t := rfl
@[simp] theorem State.setBias_tone (s : State) (n : Nat) (x : Bias) (k : Nat) :
    (s.setBias n x).tone k = s.tone k := rfl
@[simp] theorem State.setBias_port (s : State) (n : Nat) (x : Bias) (p : Nat) :
    (s.setBias n x).port p = s.port p := rfl
@[simp] theorem State.setBias_mailbox (s : State) (n : Nat) (x : Bias) (m : Nat) :
    (s.setBias n x).mailbox m = s.mailbox m := rfl
@[simp] theorem State.setBias_biasOf_self (s : State) (n : Nat) (x : Bias) : (s.setBias n x).biasOf n = x :=
  SMap.read_write_self _ _ _ _
theorem State.setBias_biasOf_ne (s : State) (n : Nat) (x : Bias) {j : Nat} (h : j ≠ n) :
    (s.setBias n x).biasOf j = s.biasOf j := SMap.read_write_ne _ _ _ _ h
@[simp] theorem State.setBias_si (s : State) (n : Nat) (x : Bias) : (s.setBias n x).si = s.si := rfl
@[simp] theorem State.setBias_wall (s : State) (n : Nat) (x : Bias) : (s.setBias n x).wall = s.wall := rfl

/-! ### setCapture -/

@[simp] theorem State.setCapture_pending (s : State) (x : Capture) : (s.setCapture x).pending = s.pending := rfl
@[simp] theorem State.setCapture_out (s : State) (x : Capture) : (s.setCapture x).out = s.out := rfl
@[simp] theorem State.setCapture_mode (s : State) (x : Capture) : (s.setCapture x).mode = s.mode := rfl
@[simp] theorem State.setCapture_clock (s : State) (x : Capture) : (s.setCapture x).clock = s.clock := rfl
@[simp] theorem State.setCapture_records (s : State) (x : Capture) : (s.setCapture x).records = s.records := rfl
@[simp] theorem State.setCapture_shadows (s : State) (x : Capture) : (s.setCapture x).shadows = s.shadows := rfl
@[simp] theorem State.setCapture_blocking (s : State) (x : Capture) : (s.setCapture x).blocking = s.blocking := rfl
@[simp] theorem State.setCapture_drive (s : State) (x : Capture) : (s.setCapture x).drive = s.drive := rfl
@[simp] theorem State.setCapture_bias (s : State) (x : Capture) : (s.setCapture x).bias = s.bias := rfl
@[simp] theorem State.setCapture_readout (s : State) (x : Capture) : (s.setCapture x).readout = s.readout := rfl
@[simp] theorem State.setCapture_engines (s : State) (x : Capture) : (s.setCapture x).engines = s.engines := rfl
@[simp] theorem State.setCapture_program (s : State) (x : Capture) : (s.setCapture x).program = s.program := rfl
@[simp] theorem State.setCapture_hatband (s : State) (x : Capture) : (s.setCapture x).hatband = s.hatband := rfl
@[simp] theorem State.setCapture_memory (s : State) (x : Capture) : (s.setCapture x).memory = s.memory := rfl
@[simp] theorem State.setCapture_ports (s : State) (x : Capture) : (s.setCapture x).ports = s.ports := rfl
@[simp] theorem State.setCapture_host (s : State) (x : Capture) : (s.setCapture x).host = s.host := rfl
@[simp] theorem State.setCapture_monitor (s : State) (x : Capture) : (s.setCapture x).monitor = s.monitor := rfl
@[simp] theorem State.setCapture_power (s : State) (x : Capture) : (s.setCapture x).power = s.power := rfl
@[simp] theorem State.setCapture_crown (s : State) (x : Capture) : (s.setCapture x).crown = s.crown := rfl
@[simp] theorem State.setCapture_log (s : State) (x : Capture) : (s.setCapture x).log = s.log := rfl
@[simp] theorem State.setCapture_flash (s : State) (x : Capture) : (s.setCapture x).flash = s.flash := rfl
@[simp] theorem State.setCapture_upload (s : State) (x : Capture) : (s.setCapture x).upload = s.upload := rfl
@[simp] theorem State.setCapture_freeCount (s : State) (x : Capture) : (s.setCapture x).freeCount = s.freeCount := rfl
@[simp] theorem State.setCapture_capture (s : State) (x : Capture) : (s.setCapture x).capture = x := rfl
@[simp] theorem State.setCapture_image (s : State) (x : Capture) (r : Rec) (i : Nat) :
    (s.setCapture x).image r i = s.image r i := rfl
@[simp] theorem State.setCapture_get (s : State) (x : Capture) (g : Field) (i : Nat) :
    (s.setCapture x).get g i = s.get g i := rfl
@[simp] theorem State.setCapture_getAt (s : State) (x : Capture) (g : Field) (i j : Nat) :
    (s.setCapture x).getAt g i j = s.getAt g i j := rfl
@[simp] theorem State.setCapture_flag (s : State) (x : Capture) (g : Field) (i : Nat) :
    (s.setCapture x).flag g i = s.flag g i := rfl
@[simp] theorem State.setCapture_biasOf (s : State) (x : Capture) (n : Nat) :
    (s.setCapture x).biasOf n = s.biasOf n := rfl
@[simp] theorem State.setCapture_tile (s : State) (x : Capture) (t : Nat) :
    (s.setCapture x).tile t = s.tile t := rfl
@[simp] theorem State.setCapture_group (s : State) (x : Capture) (g : Nat) :
    (s.setCapture x).group g = s.group g := rfl
@[simp] theorem State.setCapture_engine (s : State) (x : Capture) (e : Nat) :
    (s.setCapture x).engine e = s.engine e := rfl
@[simp] theorem State.setCapture_acq (s : State) (x : Capture) (t : Nat) :
    (s.setCapture x).acq t = s.acq t := rfl
@[simp] theorem State.setCapture_tone (s : State) (x : Capture) (k : Nat) :
    (s.setCapture x).tone k = s.tone k := rfl
@[simp] theorem State.setCapture_port (s : State) (x : Capture) (p : Nat) :
    (s.setCapture x).port p = s.port p := rfl
@[simp] theorem State.setCapture_mailbox (s : State) (x : Capture) (m : Nat) :
    (s.setCapture x).mailbox m = s.mailbox m := rfl
@[simp] theorem State.setCapture_si (s : State) (x : Capture) : (s.setCapture x).si = s.si := rfl
@[simp] theorem State.setCapture_wall (s : State) (x : Capture) : (s.setCapture x).wall = s.wall := rfl

/-! ### setClock -/

@[simp] theorem State.setClock_pending (s : State) (x : Clock) : (s.setClock x).pending = s.pending := rfl
@[simp] theorem State.setClock_out (s : State) (x : Clock) : (s.setClock x).out = s.out := rfl
@[simp] theorem State.setClock_mode (s : State) (x : Clock) : (s.setClock x).mode = s.mode := rfl
@[simp] theorem State.setClock_records (s : State) (x : Clock) : (s.setClock x).records = s.records := rfl
@[simp] theorem State.setClock_shadows (s : State) (x : Clock) : (s.setClock x).shadows = s.shadows := rfl
@[simp] theorem State.setClock_blocking (s : State) (x : Clock) : (s.setClock x).blocking = s.blocking := rfl
@[simp] theorem State.setClock_drive (s : State) (x : Clock) : (s.setClock x).drive = s.drive := rfl
@[simp] theorem State.setClock_bias (s : State) (x : Clock) : (s.setClock x).bias = s.bias := rfl
@[simp] theorem State.setClock_readout (s : State) (x : Clock) : (s.setClock x).readout = s.readout := rfl
@[simp] theorem State.setClock_engines (s : State) (x : Clock) : (s.setClock x).engines = s.engines := rfl
@[simp] theorem State.setClock_program (s : State) (x : Clock) : (s.setClock x).program = s.program := rfl
@[simp] theorem State.setClock_hatband (s : State) (x : Clock) : (s.setClock x).hatband = s.hatband := rfl
@[simp] theorem State.setClock_memory (s : State) (x : Clock) : (s.setClock x).memory = s.memory := rfl
@[simp] theorem State.setClock_ports (s : State) (x : Clock) : (s.setClock x).ports = s.ports := rfl
@[simp] theorem State.setClock_capture (s : State) (x : Clock) : (s.setClock x).capture = s.capture := rfl
@[simp] theorem State.setClock_host (s : State) (x : Clock) : (s.setClock x).host = s.host := rfl
@[simp] theorem State.setClock_monitor (s : State) (x : Clock) : (s.setClock x).monitor = s.monitor := rfl
@[simp] theorem State.setClock_power (s : State) (x : Clock) : (s.setClock x).power = s.power := rfl
@[simp] theorem State.setClock_crown (s : State) (x : Clock) : (s.setClock x).crown = s.crown := rfl
@[simp] theorem State.setClock_log (s : State) (x : Clock) : (s.setClock x).log = s.log := rfl
@[simp] theorem State.setClock_flash (s : State) (x : Clock) : (s.setClock x).flash = s.flash := rfl
@[simp] theorem State.setClock_upload (s : State) (x : Clock) : (s.setClock x).upload = s.upload := rfl
@[simp] theorem State.setClock_freeCount (s : State) (x : Clock) : (s.setClock x).freeCount = s.freeCount := rfl
@[simp] theorem State.setClock_clock (s : State) (x : Clock) : (s.setClock x).clock = x := rfl
@[simp] theorem State.setClock_image (s : State) (x : Clock) (r : Rec) (i : Nat) :
    (s.setClock x).image r i = s.image r i := rfl
@[simp] theorem State.setClock_get (s : State) (x : Clock) (g : Field) (i : Nat) :
    (s.setClock x).get g i = s.get g i := rfl
@[simp] theorem State.setClock_getAt (s : State) (x : Clock) (g : Field) (i j : Nat) :
    (s.setClock x).getAt g i j = s.getAt g i j := rfl
@[simp] theorem State.setClock_flag (s : State) (x : Clock) (g : Field) (i : Nat) :
    (s.setClock x).flag g i = s.flag g i := rfl
@[simp] theorem State.setClock_biasOf (s : State) (x : Clock) (n : Nat) :
    (s.setClock x).biasOf n = s.biasOf n := rfl
@[simp] theorem State.setClock_tile (s : State) (x : Clock) (t : Nat) :
    (s.setClock x).tile t = s.tile t := rfl
@[simp] theorem State.setClock_group (s : State) (x : Clock) (g : Nat) :
    (s.setClock x).group g = s.group g := rfl
@[simp] theorem State.setClock_engine (s : State) (x : Clock) (e : Nat) :
    (s.setClock x).engine e = s.engine e := rfl
@[simp] theorem State.setClock_acq (s : State) (x : Clock) (t : Nat) :
    (s.setClock x).acq t = s.acq t := rfl
@[simp] theorem State.setClock_tone (s : State) (x : Clock) (k : Nat) :
    (s.setClock x).tone k = s.tone k := rfl
@[simp] theorem State.setClock_port (s : State) (x : Clock) (p : Nat) :
    (s.setClock x).port p = s.port p := rfl
@[simp] theorem State.setClock_mailbox (s : State) (x : Clock) (m : Nat) :
    (s.setClock x).mailbox m = s.mailbox m := rfl

/-! ### setHost -/

@[simp] theorem State.setHost_pending (s : State) (x : HostIf) : (s.setHost x).pending = s.pending := rfl
@[simp] theorem State.setHost_out (s : State) (x : HostIf) : (s.setHost x).out = s.out := rfl
@[simp] theorem State.setHost_mode (s : State) (x : HostIf) : (s.setHost x).mode = s.mode := rfl
@[simp] theorem State.setHost_clock (s : State) (x : HostIf) : (s.setHost x).clock = s.clock := rfl
@[simp] theorem State.setHost_records (s : State) (x : HostIf) : (s.setHost x).records = s.records := rfl
@[simp] theorem State.setHost_shadows (s : State) (x : HostIf) : (s.setHost x).shadows = s.shadows := rfl
@[simp] theorem State.setHost_blocking (s : State) (x : HostIf) : (s.setHost x).blocking = s.blocking := rfl
@[simp] theorem State.setHost_drive (s : State) (x : HostIf) : (s.setHost x).drive = s.drive := rfl
@[simp] theorem State.setHost_bias (s : State) (x : HostIf) : (s.setHost x).bias = s.bias := rfl
@[simp] theorem State.setHost_readout (s : State) (x : HostIf) : (s.setHost x).readout = s.readout := rfl
@[simp] theorem State.setHost_engines (s : State) (x : HostIf) : (s.setHost x).engines = s.engines := rfl
@[simp] theorem State.setHost_program (s : State) (x : HostIf) : (s.setHost x).program = s.program := rfl
@[simp] theorem State.setHost_hatband (s : State) (x : HostIf) : (s.setHost x).hatband = s.hatband := rfl
@[simp] theorem State.setHost_memory (s : State) (x : HostIf) : (s.setHost x).memory = s.memory := rfl
@[simp] theorem State.setHost_ports (s : State) (x : HostIf) : (s.setHost x).ports = s.ports := rfl
@[simp] theorem State.setHost_capture (s : State) (x : HostIf) : (s.setHost x).capture = s.capture := rfl
@[simp] theorem State.setHost_monitor (s : State) (x : HostIf) : (s.setHost x).monitor = s.monitor := rfl
@[simp] theorem State.setHost_power (s : State) (x : HostIf) : (s.setHost x).power = s.power := rfl
@[simp] theorem State.setHost_crown (s : State) (x : HostIf) : (s.setHost x).crown = s.crown := rfl
@[simp] theorem State.setHost_log (s : State) (x : HostIf) : (s.setHost x).log = s.log := rfl
@[simp] theorem State.setHost_flash (s : State) (x : HostIf) : (s.setHost x).flash = s.flash := rfl
@[simp] theorem State.setHost_upload (s : State) (x : HostIf) : (s.setHost x).upload = s.upload := rfl
@[simp] theorem State.setHost_freeCount (s : State) (x : HostIf) : (s.setHost x).freeCount = s.freeCount := rfl
@[simp] theorem State.setHost_host (s : State) (x : HostIf) : (s.setHost x).host = x := rfl
@[simp] theorem State.setHost_image (s : State) (x : HostIf) (r : Rec) (i : Nat) :
    (s.setHost x).image r i = s.image r i := rfl
@[simp] theorem State.setHost_get (s : State) (x : HostIf) (g : Field) (i : Nat) :
    (s.setHost x).get g i = s.get g i := rfl
@[simp] theorem State.setHost_getAt (s : State) (x : HostIf) (g : Field) (i j : Nat) :
    (s.setHost x).getAt g i j = s.getAt g i j := rfl
@[simp] theorem State.setHost_flag (s : State) (x : HostIf) (g : Field) (i : Nat) :
    (s.setHost x).flag g i = s.flag g i := rfl
@[simp] theorem State.setHost_biasOf (s : State) (x : HostIf) (n : Nat) :
    (s.setHost x).biasOf n = s.biasOf n := rfl
@[simp] theorem State.setHost_tile (s : State) (x : HostIf) (t : Nat) :
    (s.setHost x).tile t = s.tile t := rfl
@[simp] theorem State.setHost_group (s : State) (x : HostIf) (g : Nat) :
    (s.setHost x).group g = s.group g := rfl
@[simp] theorem State.setHost_engine (s : State) (x : HostIf) (e : Nat) :
    (s.setHost x).engine e = s.engine e := rfl
@[simp] theorem State.setHost_acq (s : State) (x : HostIf) (t : Nat) :
    (s.setHost x).acq t = s.acq t := rfl
@[simp] theorem State.setHost_tone (s : State) (x : HostIf) (k : Nat) :
    (s.setHost x).tone k = s.tone k := rfl
@[simp] theorem State.setHost_port (s : State) (x : HostIf) (p : Nat) :
    (s.setHost x).port p = s.port p := rfl
@[simp] theorem State.setHost_si (s : State) (x : HostIf) : (s.setHost x).si = s.si := rfl
@[simp] theorem State.setHost_wall (s : State) (x : HostIf) : (s.setHost x).wall = s.wall := rfl

/-! ### setMemory -/

@[simp] theorem State.setMemory_pending (s : State) (x : Memory) : (s.setMemory x).pending = s.pending := rfl
@[simp] theorem State.setMemory_out (s : State) (x : Memory) : (s.setMemory x).out = s.out := rfl
@[simp] theorem State.setMemory_mode (s : State) (x : Memory) : (s.setMemory x).mode = s.mode := rfl
@[simp] theorem State.setMemory_clock (s : State) (x : Memory) : (s.setMemory x).clock = s.clock := rfl
@[simp] theorem State.setMemory_records (s : State) (x : Memory) : (s.setMemory x).records = s.records := rfl
@[simp] theorem State.setMemory_shadows (s : State) (x : Memory) : (s.setMemory x).shadows = s.shadows := rfl
@[simp] theorem State.setMemory_blocking (s : State) (x : Memory) : (s.setMemory x).blocking = s.blocking := rfl
@[simp] theorem State.setMemory_drive (s : State) (x : Memory) : (s.setMemory x).drive = s.drive := rfl
@[simp] theorem State.setMemory_bias (s : State) (x : Memory) : (s.setMemory x).bias = s.bias := rfl
@[simp] theorem State.setMemory_readout (s : State) (x : Memory) : (s.setMemory x).readout = s.readout := rfl
@[simp] theorem State.setMemory_engines (s : State) (x : Memory) : (s.setMemory x).engines = s.engines := rfl
@[simp] theorem State.setMemory_program (s : State) (x : Memory) : (s.setMemory x).program = s.program := rfl
@[simp] theorem State.setMemory_hatband (s : State) (x : Memory) : (s.setMemory x).hatband = s.hatband := rfl
@[simp] theorem State.setMemory_ports (s : State) (x : Memory) : (s.setMemory x).ports = s.ports := rfl
@[simp] theorem State.setMemory_capture (s : State) (x : Memory) : (s.setMemory x).capture = s.capture := rfl
@[simp] theorem State.setMemory_host (s : State) (x : Memory) : (s.setMemory x).host = s.host := rfl
@[simp] theorem State.setMemory_monitor (s : State) (x : Memory) : (s.setMemory x).monitor = s.monitor := rfl
@[simp] theorem State.setMemory_power (s : State) (x : Memory) : (s.setMemory x).power = s.power := rfl
@[simp] theorem State.setMemory_crown (s : State) (x : Memory) : (s.setMemory x).crown = s.crown := rfl
@[simp] theorem State.setMemory_log (s : State) (x : Memory) : (s.setMemory x).log = s.log := rfl
@[simp] theorem State.setMemory_flash (s : State) (x : Memory) : (s.setMemory x).flash = s.flash := rfl
@[simp] theorem State.setMemory_upload (s : State) (x : Memory) : (s.setMemory x).upload = s.upload := rfl
@[simp] theorem State.setMemory_freeCount (s : State) (x : Memory) : (s.setMemory x).freeCount = s.freeCount := rfl
@[simp] theorem State.setMemory_memory (s : State) (x : Memory) : (s.setMemory x).memory = x := rfl
@[simp] theorem State.setMemory_image (s : State) (x : Memory) (r : Rec) (i : Nat) :
    (s.setMemory x).image r i = s.image r i := rfl
@[simp] theorem State.setMemory_get (s : State) (x : Memory) (g : Field) (i : Nat) :
    (s.setMemory x).get g i = s.get g i := rfl
@[simp] theorem State.setMemory_getAt (s : State) (x : Memory) (g : Field) (i j : Nat) :
    (s.setMemory x).getAt g i j = s.getAt g i j := rfl
@[simp] theorem State.setMemory_flag (s : State) (x : Memory) (g : Field) (i : Nat) :
    (s.setMemory x).flag g i = s.flag g i := rfl
@[simp] theorem State.setMemory_biasOf (s : State) (x : Memory) (n : Nat) :
    (s.setMemory x).biasOf n = s.biasOf n := rfl
@[simp] theorem State.setMemory_tile (s : State) (x : Memory) (t : Nat) :
    (s.setMemory x).tile t = s.tile t := rfl
@[simp] theorem State.setMemory_group (s : State) (x : Memory) (g : Nat) :
    (s.setMemory x).group g = s.group g := rfl
@[simp] theorem State.setMemory_engine (s : State) (x : Memory) (e : Nat) :
    (s.setMemory x).engine e = s.engine e := rfl
@[simp] theorem State.setMemory_acq (s : State) (x : Memory) (t : Nat) :
    (s.setMemory x).acq t = s.acq t := rfl
@[simp] theorem State.setMemory_tone (s : State) (x : Memory) (k : Nat) :
    (s.setMemory x).tone k = s.tone k := rfl
@[simp] theorem State.setMemory_port (s : State) (x : Memory) (p : Nat) :
    (s.setMemory x).port p = s.port p := rfl
@[simp] theorem State.setMemory_mailbox (s : State) (x : Memory) (m : Nat) :
    (s.setMemory x).mailbox m = s.mailbox m := rfl
@[simp] theorem State.setMemory_si (s : State) (x : Memory) : (s.setMemory x).si = s.si := rfl
@[simp] theorem State.setMemory_wall (s : State) (x : Memory) : (s.setMemory x).wall = s.wall := rfl

/-! ### setStoreArb -/

@[simp] theorem State.setStoreArb_pending (s : State) (a : Arbiter) : (s.setStoreArb a).pending = s.pending := rfl
@[simp] theorem State.setStoreArb_out (s : State) (a : Arbiter) : (s.setStoreArb a).out = s.out := rfl
@[simp] theorem State.setStoreArb_mode (s : State) (a : Arbiter) : (s.setStoreArb a).mode = s.mode := rfl
@[simp] theorem State.setStoreArb_clock (s : State) (a : Arbiter) : (s.setStoreArb a).clock = s.clock := rfl
@[simp] theorem State.setStoreArb_records (s : State) (a : Arbiter) : (s.setStoreArb a).records = s.records := rfl
@[simp] theorem State.setStoreArb_shadows (s : State) (a : Arbiter) : (s.setStoreArb a).shadows = s.shadows := rfl
@[simp] theorem State.setStoreArb_blocking (s : State) (a : Arbiter) : (s.setStoreArb a).blocking = s.blocking := rfl
@[simp] theorem State.setStoreArb_drive (s : State) (a : Arbiter) : (s.setStoreArb a).drive = s.drive := rfl
@[simp] theorem State.setStoreArb_bias (s : State) (a : Arbiter) : (s.setStoreArb a).bias = s.bias := rfl
@[simp] theorem State.setStoreArb_readout (s : State) (a : Arbiter) : (s.setStoreArb a).readout = s.readout := rfl
@[simp] theorem State.setStoreArb_engines (s : State) (a : Arbiter) : (s.setStoreArb a).engines = s.engines := rfl
@[simp] theorem State.setStoreArb_program (s : State) (a : Arbiter) : (s.setStoreArb a).program = s.program := rfl
@[simp] theorem State.setStoreArb_hatband (s : State) (a : Arbiter) : (s.setStoreArb a).hatband = s.hatband := rfl
@[simp] theorem State.setStoreArb_ports (s : State) (a : Arbiter) : (s.setStoreArb a).ports = s.ports := rfl
@[simp] theorem State.setStoreArb_capture (s : State) (a : Arbiter) : (s.setStoreArb a).capture = s.capture := rfl
@[simp] theorem State.setStoreArb_host (s : State) (a : Arbiter) : (s.setStoreArb a).host = s.host := rfl
@[simp] theorem State.setStoreArb_monitor (s : State) (a : Arbiter) : (s.setStoreArb a).monitor = s.monitor := rfl
@[simp] theorem State.setStoreArb_power (s : State) (a : Arbiter) : (s.setStoreArb a).power = s.power := rfl
@[simp] theorem State.setStoreArb_crown (s : State) (a : Arbiter) : (s.setStoreArb a).crown = s.crown := rfl
@[simp] theorem State.setStoreArb_log (s : State) (a : Arbiter) : (s.setStoreArb a).log = s.log := rfl
@[simp] theorem State.setStoreArb_flash (s : State) (a : Arbiter) : (s.setStoreArb a).flash = s.flash := rfl
@[simp] theorem State.setStoreArb_upload (s : State) (a : Arbiter) : (s.setStoreArb a).upload = s.upload := rfl
@[simp] theorem State.setStoreArb_freeCount (s : State) (a : Arbiter) : (s.setStoreArb a).freeCount = s.freeCount := rfl
@[simp] theorem State.setStoreArb_image (s : State) (a : Arbiter) (r : Rec) (i : Nat) :
    (s.setStoreArb a).image r i = s.image r i := rfl
@[simp] theorem State.setStoreArb_get (s : State) (a : Arbiter) (g : Field) (i : Nat) :
    (s.setStoreArb a).get g i = s.get g i := rfl
@[simp] theorem State.setStoreArb_getAt (s : State) (a : Arbiter) (g : Field) (i j : Nat) :
    (s.setStoreArb a).getAt g i j = s.getAt g i j := rfl
@[simp] theorem State.setStoreArb_flag (s : State) (a : Arbiter) (g : Field) (i : Nat) :
    (s.setStoreArb a).flag g i = s.flag g i := rfl
@[simp] theorem State.setStoreArb_biasOf (s : State) (a : Arbiter) (n : Nat) :
    (s.setStoreArb a).biasOf n = s.biasOf n := rfl
@[simp] theorem State.setStoreArb_tile (s : State) (a : Arbiter) (t' : Nat) :
    (s.setStoreArb a).tile t' = s.tile t' := rfl
@[simp] theorem State.setStoreArb_group (s : State) (a : Arbiter) (g : Nat) :
    (s.setStoreArb a).group g = s.group g := rfl
@[simp] theorem State.setStoreArb_engine (s : State) (a : Arbiter) (e : Nat) :
    (s.setStoreArb a).engine e = s.engine e := rfl
@[simp] theorem State.setStoreArb_acq (s : State) (a : Arbiter) (t' : Nat) :
    (s.setStoreArb a).acq t' = s.acq t' := rfl
@[simp] theorem State.setStoreArb_tone (s : State) (a : Arbiter) (k : Nat) :
    (s.setStoreArb a).tone k = s.tone k := rfl
@[simp] theorem State.setStoreArb_port (s : State) (a : Arbiter) (p : Nat) :
    (s.setStoreArb a).port p = s.port p := rfl
@[simp] theorem State.setStoreArb_mailbox (s : State) (a : Arbiter) (m : Nat) :
    (s.setStoreArb a).mailbox m = s.mailbox m := rfl
@[simp] theorem State.setStoreArb_si (s : State) (a : Arbiter) : (s.setStoreArb a).si = s.si := rfl
@[simp] theorem State.setStoreArb_wall (s : State) (a : Arbiter) : (s.setStoreArb a).wall = s.wall := rfl
@[simp] theorem State.setStoreArb_memory_lib (s : State) (a : Arbiter) :
    (s.setStoreArb a).memory.lib = s.memory.lib := rfl
@[simp] theorem State.setStoreArb_memory_libSeal (s : State) (a : Arbiter) :
    (s.setStoreArb a).memory.libSeal = s.memory.libSeal := rfl
@[simp] theorem State.setStoreArb_memory_libPoison (s : State) (a : Arbiter) :
    (s.setStoreArb a).memory.libPoison = s.memory.libPoison := rfl
@[simp] theorem State.setStoreArb_memory_libUnusable (s : State) (a : Arbiter) :
    (s.setStoreArb a).memory.libUnusable = s.memory.libUnusable := rfl
@[simp] theorem State.setStoreArb_memory_store (s : State) (a : Arbiter) :
    (s.setStoreArb a).memory.store = s.memory.store := rfl
@[simp] theorem State.setStoreArb_memory_storeSeal (s : State) (a : Arbiter) :
    (s.setStoreArb a).memory.storeSeal = s.memory.storeSeal := rfl
@[simp] theorem State.setStoreArb_memory_pagePoison (s : State) (a : Arbiter) :
    (s.setStoreArb a).memory.pagePoison = s.memory.pagePoison := rfl
@[simp] theorem State.setStoreArb_memory_pageUnusable (s : State) (a : Arbiter) :
    (s.setStoreArb a).memory.pageUnusable = s.memory.pageUnusable := rfl
@[simp] theorem State.setStoreArb_memory_libRanks (s : State) (a : Arbiter) :
    (s.setStoreArb a).memory.libRanks = s.memory.libRanks := rfl
@[simp] theorem State.setStoreArb_memory_lastTake (s : State) (a : Arbiter) :
    (s.setStoreArb a).memory.lastTake = s.memory.lastTake := rfl
@[simp] theorem State.setStoreArb_memory_passSince (s : State) (a : Arbiter) :
    (s.setStoreArb a).memory.passSince = s.memory.passSince := rfl
@[simp] theorem State.setStoreArb_memory_libArbs (s : State) (a : Arbiter) :
    (s.setStoreArb a).memory.libArbs = s.memory.libArbs := rfl
@[simp] theorem State.setStoreArb_memory_firstReads (s : State) (a : Arbiter) :
    (s.setStoreArb a).memory.firstReads = s.memory.firstReads := rfl

/-! ### setLibArb -/

@[simp] theorem State.setLibArb_pending (s : State) (t : Nat) (a : Arbiter) : (s.setLibArb t a).pending = s.pending := rfl
@[simp] theorem State.setLibArb_out (s : State) (t : Nat) (a : Arbiter) : (s.setLibArb t a).out = s.out := rfl
@[simp] theorem State.setLibArb_mode (s : State) (t : Nat) (a : Arbiter) : (s.setLibArb t a).mode = s.mode := rfl
@[simp] theorem State.setLibArb_clock (s : State) (t : Nat) (a : Arbiter) : (s.setLibArb t a).clock = s.clock := rfl
@[simp] theorem State.setLibArb_records (s : State) (t : Nat) (a : Arbiter) : (s.setLibArb t a).records = s.records := rfl
@[simp] theorem State.setLibArb_shadows (s : State) (t : Nat) (a : Arbiter) : (s.setLibArb t a).shadows = s.shadows := rfl
@[simp] theorem State.setLibArb_blocking (s : State) (t : Nat) (a : Arbiter) : (s.setLibArb t a).blocking = s.blocking := rfl
@[simp] theorem State.setLibArb_drive (s : State) (t : Nat) (a : Arbiter) : (s.setLibArb t a).drive = s.drive := rfl
@[simp] theorem State.setLibArb_bias (s : State) (t : Nat) (a : Arbiter) : (s.setLibArb t a).bias = s.bias := rfl
@[simp] theorem State.setLibArb_readout (s : State) (t : Nat) (a : Arbiter) : (s.setLibArb t a).readout = s.readout := rfl
@[simp] theorem State.setLibArb_engines (s : State) (t : Nat) (a : Arbiter) : (s.setLibArb t a).engines = s.engines := rfl
@[simp] theorem State.setLibArb_program (s : State) (t : Nat) (a : Arbiter) : (s.setLibArb t a).program = s.program := rfl
@[simp] theorem State.setLibArb_hatband (s : State) (t : Nat) (a : Arbiter) : (s.setLibArb t a).hatband = s.hatband := rfl
@[simp] theorem State.setLibArb_ports (s : State) (t : Nat) (a : Arbiter) : (s.setLibArb t a).ports = s.ports := rfl
@[simp] theorem State.setLibArb_capture (s : State) (t : Nat) (a : Arbiter) : (s.setLibArb t a).capture = s.capture := rfl
@[simp] theorem State.setLibArb_host (s : State) (t : Nat) (a : Arbiter) : (s.setLibArb t a).host = s.host := rfl
@[simp] theorem State.setLibArb_monitor (s : State) (t : Nat) (a : Arbiter) : (s.setLibArb t a).monitor = s.monitor := rfl
@[simp] theorem State.setLibArb_power (s : State) (t : Nat) (a : Arbiter) : (s.setLibArb t a).power = s.power := rfl
@[simp] theorem State.setLibArb_crown (s : State) (t : Nat) (a : Arbiter) : (s.setLibArb t a).crown = s.crown := rfl
@[simp] theorem State.setLibArb_log (s : State) (t : Nat) (a : Arbiter) : (s.setLibArb t a).log = s.log := rfl
@[simp] theorem State.setLibArb_flash (s : State) (t : Nat) (a : Arbiter) : (s.setLibArb t a).flash = s.flash := rfl
@[simp] theorem State.setLibArb_upload (s : State) (t : Nat) (a : Arbiter) : (s.setLibArb t a).upload = s.upload := rfl
@[simp] theorem State.setLibArb_freeCount (s : State) (t : Nat) (a : Arbiter) : (s.setLibArb t a).freeCount = s.freeCount := rfl
@[simp] theorem State.setLibArb_image (s : State) (t : Nat) (a : Arbiter) (r : Rec) (i : Nat) :
    (s.setLibArb t a).image r i = s.image r i := rfl
@[simp] theorem State.setLibArb_get (s : State) (t : Nat) (a : Arbiter) (g : Field) (i : Nat) :
    (s.setLibArb t a).get g i = s.get g i := rfl
@[simp] theorem State.setLibArb_getAt (s : State) (t : Nat) (a : Arbiter) (g : Field) (i j : Nat) :
    (s.setLibArb t a).getAt g i j = s.getAt g i j := rfl
@[simp] theorem State.setLibArb_flag (s : State) (t : Nat) (a : Arbiter) (g : Field) (i : Nat) :
    (s.setLibArb t a).flag g i = s.flag g i := rfl
@[simp] theorem State.setLibArb_biasOf (s : State) (t : Nat) (a : Arbiter) (n : Nat) :
    (s.setLibArb t a).biasOf n = s.biasOf n := rfl
@[simp] theorem State.setLibArb_tile (s : State) (t : Nat) (a : Arbiter) (t' : Nat) :
    (s.setLibArb t a).tile t' = s.tile t' := rfl
@[simp] theorem State.setLibArb_group (s : State) (t : Nat) (a : Arbiter) (g : Nat) :
    (s.setLibArb t a).group g = s.group g := rfl
@[simp] theorem State.setLibArb_engine (s : State) (t : Nat) (a : Arbiter) (e : Nat) :
    (s.setLibArb t a).engine e = s.engine e := rfl
@[simp] theorem State.setLibArb_acq (s : State) (t : Nat) (a : Arbiter) (t' : Nat) :
    (s.setLibArb t a).acq t' = s.acq t' := rfl
@[simp] theorem State.setLibArb_tone (s : State) (t : Nat) (a : Arbiter) (k : Nat) :
    (s.setLibArb t a).tone k = s.tone k := rfl
@[simp] theorem State.setLibArb_port (s : State) (t : Nat) (a : Arbiter) (p : Nat) :
    (s.setLibArb t a).port p = s.port p := rfl
@[simp] theorem State.setLibArb_mailbox (s : State) (t : Nat) (a : Arbiter) (m : Nat) :
    (s.setLibArb t a).mailbox m = s.mailbox m := rfl
@[simp] theorem State.setLibArb_si (s : State) (t : Nat) (a : Arbiter) : (s.setLibArb t a).si = s.si := rfl
@[simp] theorem State.setLibArb_wall (s : State) (t : Nat) (a : Arbiter) : (s.setLibArb t a).wall = s.wall := rfl
@[simp] theorem State.setLibArb_memory_lib (s : State) (t : Nat) (a : Arbiter) :
    (s.setLibArb t a).memory.lib = s.memory.lib := rfl
@[simp] theorem State.setLibArb_memory_libSeal (s : State) (t : Nat) (a : Arbiter) :
    (s.setLibArb t a).memory.libSeal = s.memory.libSeal := rfl
@[simp] theorem State.setLibArb_memory_libPoison (s : State) (t : Nat) (a : Arbiter) :
    (s.setLibArb t a).memory.libPoison = s.memory.libPoison := rfl
@[simp] theorem State.setLibArb_memory_libUnusable (s : State) (t : Nat) (a : Arbiter) :
    (s.setLibArb t a).memory.libUnusable = s.memory.libUnusable := rfl
@[simp] theorem State.setLibArb_memory_store (s : State) (t : Nat) (a : Arbiter) :
    (s.setLibArb t a).memory.store = s.memory.store := rfl
@[simp] theorem State.setLibArb_memory_storeSeal (s : State) (t : Nat) (a : Arbiter) :
    (s.setLibArb t a).memory.storeSeal = s.memory.storeSeal := rfl
@[simp] theorem State.setLibArb_memory_pagePoison (s : State) (t : Nat) (a : Arbiter) :
    (s.setLibArb t a).memory.pagePoison = s.memory.pagePoison := rfl
@[simp] theorem State.setLibArb_memory_pageUnusable (s : State) (t : Nat) (a : Arbiter) :
    (s.setLibArb t a).memory.pageUnusable = s.memory.pageUnusable := rfl
@[simp] theorem State.setLibArb_memory_libRanks (s : State) (t : Nat) (a : Arbiter) :
    (s.setLibArb t a).memory.libRanks = s.memory.libRanks := rfl
@[simp] theorem State.setLibArb_memory_lastTake (s : State) (t : Nat) (a : Arbiter) :
    (s.setLibArb t a).memory.lastTake = s.memory.lastTake := rfl
@[simp] theorem State.setLibArb_memory_passSince (s : State) (t : Nat) (a : Arbiter) :
    (s.setLibArb t a).memory.passSince = s.memory.passSince := rfl
@[simp] theorem State.setLibArb_memory_storeArb (s : State) (t : Nat) (a : Arbiter) :
    (s.setLibArb t a).memory.storeArb = s.memory.storeArb := rfl
@[simp] theorem State.setLibArb_memory_firstReads (s : State) (t : Nat) (a : Arbiter) :
    (s.setLibArb t a).memory.firstReads = s.memory.firstReads := rfl

/-! ### setBlocking -/

@[simp] theorem State.setBlocking_pending (s : State) (x : Blocking) : (s.setBlocking x).pending = s.pending := rfl
@[simp] theorem State.setBlocking_out (s : State) (x : Blocking) : (s.setBlocking x).out = s.out := rfl
@[simp] theorem State.setBlocking_mode (s : State) (x : Blocking) : (s.setBlocking x).mode = s.mode := rfl
@[simp] theorem State.setBlocking_clock (s : State) (x : Blocking) : (s.setBlocking x).clock = s.clock := rfl
@[simp] theorem State.setBlocking_records (s : State) (x : Blocking) : (s.setBlocking x).records = s.records := rfl
@[simp] theorem State.setBlocking_shadows (s : State) (x : Blocking) : (s.setBlocking x).shadows = s.shadows := rfl
@[simp] theorem State.setBlocking_drive (s : State) (x : Blocking) : (s.setBlocking x).drive = s.drive := rfl
@[simp] theorem State.setBlocking_bias (s : State) (x : Blocking) : (s.setBlocking x).bias = s.bias := rfl
@[simp] theorem State.setBlocking_readout (s : State) (x : Blocking) : (s.setBlocking x).readout = s.readout := rfl
@[simp] theorem State.setBlocking_engines (s : State) (x : Blocking) : (s.setBlocking x).engines = s.engines := rfl
@[simp] theorem State.setBlocking_program (s : State) (x : Blocking) : (s.setBlocking x).program = s.program := rfl
@[simp] theorem State.setBlocking_hatband (s : State) (x : Blocking) : (s.setBlocking x).hatband = s.hatband := rfl
@[simp] theorem State.setBlocking_memory (s : State) (x : Blocking) : (s.setBlocking x).memory = s.memory := rfl
@[simp] theorem State.setBlocking_ports (s : State) (x : Blocking) : (s.setBlocking x).ports = s.ports := rfl
@[simp] theorem State.setBlocking_capture (s : State) (x : Blocking) : (s.setBlocking x).capture = s.capture := rfl
@[simp] theorem State.setBlocking_host (s : State) (x : Blocking) : (s.setBlocking x).host = s.host := rfl
@[simp] theorem State.setBlocking_monitor (s : State) (x : Blocking) : (s.setBlocking x).monitor = s.monitor := rfl
@[simp] theorem State.setBlocking_power (s : State) (x : Blocking) : (s.setBlocking x).power = s.power := rfl
@[simp] theorem State.setBlocking_crown (s : State) (x : Blocking) : (s.setBlocking x).crown = s.crown := rfl
@[simp] theorem State.setBlocking_log (s : State) (x : Blocking) : (s.setBlocking x).log = s.log := rfl
@[simp] theorem State.setBlocking_flash (s : State) (x : Blocking) : (s.setBlocking x).flash = s.flash := rfl
@[simp] theorem State.setBlocking_upload (s : State) (x : Blocking) : (s.setBlocking x).upload = s.upload := rfl
@[simp] theorem State.setBlocking_freeCount (s : State) (x : Blocking) : (s.setBlocking x).freeCount = s.freeCount := rfl
@[simp] theorem State.setBlocking_blocking (s : State) (x : Blocking) : (s.setBlocking x).blocking = x := rfl
@[simp] theorem State.setBlocking_image (s : State) (x : Blocking) (r : Rec) (i : Nat) :
    (s.setBlocking x).image r i = s.image r i := rfl
@[simp] theorem State.setBlocking_get (s : State) (x : Blocking) (g : Field) (i : Nat) :
    (s.setBlocking x).get g i = s.get g i := rfl
@[simp] theorem State.setBlocking_getAt (s : State) (x : Blocking) (g : Field) (i j : Nat) :
    (s.setBlocking x).getAt g i j = s.getAt g i j := rfl
@[simp] theorem State.setBlocking_flag (s : State) (x : Blocking) (g : Field) (i : Nat) :
    (s.setBlocking x).flag g i = s.flag g i := rfl
@[simp] theorem State.setBlocking_biasOf (s : State) (x : Blocking) (n : Nat) :
    (s.setBlocking x).biasOf n = s.biasOf n := rfl
@[simp] theorem State.setBlocking_tile (s : State) (x : Blocking) (t : Nat) :
    (s.setBlocking x).tile t = s.tile t := rfl
@[simp] theorem State.setBlocking_group (s : State) (x : Blocking) (g : Nat) :
    (s.setBlocking x).group g = s.group g := rfl
@[simp] theorem State.setBlocking_engine (s : State) (x : Blocking) (e : Nat) :
    (s.setBlocking x).engine e = s.engine e := rfl
@[simp] theorem State.setBlocking_acq (s : State) (x : Blocking) (t : Nat) :
    (s.setBlocking x).acq t = s.acq t := rfl
@[simp] theorem State.setBlocking_tone (s : State) (x : Blocking) (k : Nat) :
    (s.setBlocking x).tone k = s.tone k := rfl
@[simp] theorem State.setBlocking_port (s : State) (x : Blocking) (p : Nat) :
    (s.setBlocking x).port p = s.port p := rfl
@[simp] theorem State.setBlocking_mailbox (s : State) (x : Blocking) (m : Nat) :
    (s.setBlocking x).mailbox m = s.mailbox m := rfl
@[simp] theorem State.setBlocking_si (s : State) (x : Blocking) : (s.setBlocking x).si = s.si := rfl
@[simp] theorem State.setBlocking_wall (s : State) (x : Blocking) : (s.setBlocking x).wall = s.wall := rfl

/-! ### setHatband -/

@[simp] theorem State.setHatband_pending (s : State) (x : Hatband) : (s.setHatband x).pending = s.pending := rfl
@[simp] theorem State.setHatband_out (s : State) (x : Hatband) : (s.setHatband x).out = s.out := rfl
@[simp] theorem State.setHatband_mode (s : State) (x : Hatband) : (s.setHatband x).mode = s.mode := rfl
@[simp] theorem State.setHatband_clock (s : State) (x : Hatband) : (s.setHatband x).clock = s.clock := rfl
@[simp] theorem State.setHatband_records (s : State) (x : Hatband) : (s.setHatband x).records = s.records := rfl
@[simp] theorem State.setHatband_shadows (s : State) (x : Hatband) : (s.setHatband x).shadows = s.shadows := rfl
@[simp] theorem State.setHatband_blocking (s : State) (x : Hatband) : (s.setHatband x).blocking = s.blocking := rfl
@[simp] theorem State.setHatband_drive (s : State) (x : Hatband) : (s.setHatband x).drive = s.drive := rfl
@[simp] theorem State.setHatband_bias (s : State) (x : Hatband) : (s.setHatband x).bias = s.bias := rfl
@[simp] theorem State.setHatband_readout (s : State) (x : Hatband) : (s.setHatband x).readout = s.readout := rfl
@[simp] theorem State.setHatband_engines (s : State) (x : Hatband) : (s.setHatband x).engines = s.engines := rfl
@[simp] theorem State.setHatband_program (s : State) (x : Hatband) : (s.setHatband x).program = s.program := rfl
@[simp] theorem State.setHatband_memory (s : State) (x : Hatband) : (s.setHatband x).memory = s.memory := rfl
@[simp] theorem State.setHatband_ports (s : State) (x : Hatband) : (s.setHatband x).ports = s.ports := rfl
@[simp] theorem State.setHatband_capture (s : State) (x : Hatband) : (s.setHatband x).capture = s.capture := rfl
@[simp] theorem State.setHatband_host (s : State) (x : Hatband) : (s.setHatband x).host = s.host := rfl
@[simp] theorem State.setHatband_monitor (s : State) (x : Hatband) : (s.setHatband x).monitor = s.monitor := rfl
@[simp] theorem State.setHatband_power (s : State) (x : Hatband) : (s.setHatband x).power = s.power := rfl
@[simp] theorem State.setHatband_crown (s : State) (x : Hatband) : (s.setHatband x).crown = s.crown := rfl
@[simp] theorem State.setHatband_log (s : State) (x : Hatband) : (s.setHatband x).log = s.log := rfl
@[simp] theorem State.setHatband_flash (s : State) (x : Hatband) : (s.setHatband x).flash = s.flash := rfl
@[simp] theorem State.setHatband_upload (s : State) (x : Hatband) : (s.setHatband x).upload = s.upload := rfl
@[simp] theorem State.setHatband_freeCount (s : State) (x : Hatband) : (s.setHatband x).freeCount = s.freeCount := rfl
@[simp] theorem State.setHatband_hatband (s : State) (x : Hatband) : (s.setHatband x).hatband = x := rfl
@[simp] theorem State.setHatband_image (s : State) (x : Hatband) (r : Rec) (i : Nat) :
    (s.setHatband x).image r i = s.image r i := rfl
@[simp] theorem State.setHatband_get (s : State) (x : Hatband) (g : Field) (i : Nat) :
    (s.setHatband x).get g i = s.get g i := rfl
@[simp] theorem State.setHatband_getAt (s : State) (x : Hatband) (g : Field) (i j : Nat) :
    (s.setHatband x).getAt g i j = s.getAt g i j := rfl
@[simp] theorem State.setHatband_flag (s : State) (x : Hatband) (g : Field) (i : Nat) :
    (s.setHatband x).flag g i = s.flag g i := rfl
@[simp] theorem State.setHatband_biasOf (s : State) (x : Hatband) (n : Nat) :
    (s.setHatband x).biasOf n = s.biasOf n := rfl
@[simp] theorem State.setHatband_tile (s : State) (x : Hatband) (t : Nat) :
    (s.setHatband x).tile t = s.tile t := rfl
@[simp] theorem State.setHatband_group (s : State) (x : Hatband) (g : Nat) :
    (s.setHatband x).group g = s.group g := rfl
@[simp] theorem State.setHatband_engine (s : State) (x : Hatband) (e : Nat) :
    (s.setHatband x).engine e = s.engine e := rfl
@[simp] theorem State.setHatband_acq (s : State) (x : Hatband) (t : Nat) :
    (s.setHatband x).acq t = s.acq t := rfl
@[simp] theorem State.setHatband_tone (s : State) (x : Hatband) (k : Nat) :
    (s.setHatband x).tone k = s.tone k := rfl
@[simp] theorem State.setHatband_port (s : State) (x : Hatband) (p : Nat) :
    (s.setHatband x).port p = s.port p := rfl
@[simp] theorem State.setHatband_mailbox (s : State) (x : Hatband) (m : Nat) :
    (s.setHatband x).mailbox m = s.mailbox m := rfl
@[simp] theorem State.setHatband_si (s : State) (x : Hatband) : (s.setHatband x).si = s.si := rfl
@[simp] theorem State.setHatband_wall (s : State) (x : Hatband) : (s.setHatband x).wall = s.wall := rfl

/-! ### setCrown -/

@[simp] theorem State.setCrown_pending (s : State) (x : Crown) : (s.setCrown x).pending = s.pending := rfl
@[simp] theorem State.setCrown_out (s : State) (x : Crown) : (s.setCrown x).out = s.out := rfl
@[simp] theorem State.setCrown_mode (s : State) (x : Crown) : (s.setCrown x).mode = s.mode := rfl
@[simp] theorem State.setCrown_clock (s : State) (x : Crown) : (s.setCrown x).clock = s.clock := rfl
@[simp] theorem State.setCrown_records (s : State) (x : Crown) : (s.setCrown x).records = s.records := rfl
@[simp] theorem State.setCrown_shadows (s : State) (x : Crown) : (s.setCrown x).shadows = s.shadows := rfl
@[simp] theorem State.setCrown_blocking (s : State) (x : Crown) : (s.setCrown x).blocking = s.blocking := rfl
@[simp] theorem State.setCrown_drive (s : State) (x : Crown) : (s.setCrown x).drive = s.drive := rfl
@[simp] theorem State.setCrown_bias (s : State) (x : Crown) : (s.setCrown x).bias = s.bias := rfl
@[simp] theorem State.setCrown_readout (s : State) (x : Crown) : (s.setCrown x).readout = s.readout := rfl
@[simp] theorem State.setCrown_engines (s : State) (x : Crown) : (s.setCrown x).engines = s.engines := rfl
@[simp] theorem State.setCrown_program (s : State) (x : Crown) : (s.setCrown x).program = s.program := rfl
@[simp] theorem State.setCrown_hatband (s : State) (x : Crown) : (s.setCrown x).hatband = s.hatband := rfl
@[simp] theorem State.setCrown_memory (s : State) (x : Crown) : (s.setCrown x).memory = s.memory := rfl
@[simp] theorem State.setCrown_ports (s : State) (x : Crown) : (s.setCrown x).ports = s.ports := rfl
@[simp] theorem State.setCrown_capture (s : State) (x : Crown) : (s.setCrown x).capture = s.capture := rfl
@[simp] theorem State.setCrown_host (s : State) (x : Crown) : (s.setCrown x).host = s.host := rfl
@[simp] theorem State.setCrown_monitor (s : State) (x : Crown) : (s.setCrown x).monitor = s.monitor := rfl
@[simp] theorem State.setCrown_power (s : State) (x : Crown) : (s.setCrown x).power = s.power := rfl
@[simp] theorem State.setCrown_log (s : State) (x : Crown) : (s.setCrown x).log = s.log := rfl
@[simp] theorem State.setCrown_flash (s : State) (x : Crown) : (s.setCrown x).flash = s.flash := rfl
@[simp] theorem State.setCrown_upload (s : State) (x : Crown) : (s.setCrown x).upload = s.upload := rfl
@[simp] theorem State.setCrown_freeCount (s : State) (x : Crown) : (s.setCrown x).freeCount = s.freeCount := rfl
@[simp] theorem State.setCrown_crown (s : State) (x : Crown) : (s.setCrown x).crown = x := rfl
@[simp] theorem State.setCrown_image (s : State) (x : Crown) (r : Rec) (i : Nat) :
    (s.setCrown x).image r i = s.image r i := rfl
@[simp] theorem State.setCrown_get (s : State) (x : Crown) (g : Field) (i : Nat) :
    (s.setCrown x).get g i = s.get g i := rfl
@[simp] theorem State.setCrown_getAt (s : State) (x : Crown) (g : Field) (i j : Nat) :
    (s.setCrown x).getAt g i j = s.getAt g i j := rfl
@[simp] theorem State.setCrown_flag (s : State) (x : Crown) (g : Field) (i : Nat) :
    (s.setCrown x).flag g i = s.flag g i := rfl
@[simp] theorem State.setCrown_biasOf (s : State) (x : Crown) (n : Nat) :
    (s.setCrown x).biasOf n = s.biasOf n := rfl
@[simp] theorem State.setCrown_tile (s : State) (x : Crown) (t : Nat) :
    (s.setCrown x).tile t = s.tile t := rfl
@[simp] theorem State.setCrown_group (s : State) (x : Crown) (g : Nat) :
    (s.setCrown x).group g = s.group g := rfl
@[simp] theorem State.setCrown_engine (s : State) (x : Crown) (e : Nat) :
    (s.setCrown x).engine e = s.engine e := rfl
@[simp] theorem State.setCrown_acq (s : State) (x : Crown) (t : Nat) :
    (s.setCrown x).acq t = s.acq t := rfl
@[simp] theorem State.setCrown_tone (s : State) (x : Crown) (k : Nat) :
    (s.setCrown x).tone k = s.tone k := rfl
@[simp] theorem State.setCrown_port (s : State) (x : Crown) (p : Nat) :
    (s.setCrown x).port p = s.port p := rfl
@[simp] theorem State.setCrown_mailbox (s : State) (x : Crown) (m : Nat) :
    (s.setCrown x).mailbox m = s.mailbox m := rfl
@[simp] theorem State.setCrown_si (s : State) (x : Crown) : (s.setCrown x).si = s.si := rfl
@[simp] theorem State.setCrown_wall (s : State) (x : Crown) : (s.setCrown x).wall = s.wall := rfl

/-! ### setPower -/

@[simp] theorem State.setPower_pending (s : State) (x : Power) : (s.setPower x).pending = s.pending := rfl
@[simp] theorem State.setPower_out (s : State) (x : Power) : (s.setPower x).out = s.out := rfl
@[simp] theorem State.setPower_mode (s : State) (x : Power) : (s.setPower x).mode = s.mode := rfl
@[simp] theorem State.setPower_clock (s : State) (x : Power) : (s.setPower x).clock = s.clock := rfl
@[simp] theorem State.setPower_records (s : State) (x : Power) : (s.setPower x).records = s.records := rfl
@[simp] theorem State.setPower_shadows (s : State) (x : Power) : (s.setPower x).shadows = s.shadows := rfl
@[simp] theorem State.setPower_blocking (s : State) (x : Power) : (s.setPower x).blocking = s.blocking := rfl
@[simp] theorem State.setPower_drive (s : State) (x : Power) : (s.setPower x).drive = s.drive := rfl
@[simp] theorem State.setPower_bias (s : State) (x : Power) : (s.setPower x).bias = s.bias := rfl
@[simp] theorem State.setPower_readout (s : State) (x : Power) : (s.setPower x).readout = s.readout := rfl
@[simp] theorem State.setPower_engines (s : State) (x : Power) : (s.setPower x).engines = s.engines := rfl
@[simp] theorem State.setPower_program (s : State) (x : Power) : (s.setPower x).program = s.program := rfl
@[simp] theorem State.setPower_hatband (s : State) (x : Power) : (s.setPower x).hatband = s.hatband := rfl
@[simp] theorem State.setPower_memory (s : State) (x : Power) : (s.setPower x).memory = s.memory := rfl
@[simp] theorem State.setPower_ports (s : State) (x : Power) : (s.setPower x).ports = s.ports := rfl
@[simp] theorem State.setPower_capture (s : State) (x : Power) : (s.setPower x).capture = s.capture := rfl
@[simp] theorem State.setPower_host (s : State) (x : Power) : (s.setPower x).host = s.host := rfl
@[simp] theorem State.setPower_monitor (s : State) (x : Power) : (s.setPower x).monitor = s.monitor := rfl
@[simp] theorem State.setPower_crown (s : State) (x : Power) : (s.setPower x).crown = s.crown := rfl
@[simp] theorem State.setPower_log (s : State) (x : Power) : (s.setPower x).log = s.log := rfl
@[simp] theorem State.setPower_flash (s : State) (x : Power) : (s.setPower x).flash = s.flash := rfl
@[simp] theorem State.setPower_upload (s : State) (x : Power) : (s.setPower x).upload = s.upload := rfl
@[simp] theorem State.setPower_freeCount (s : State) (x : Power) : (s.setPower x).freeCount = s.freeCount := rfl
@[simp] theorem State.setPower_power (s : State) (x : Power) : (s.setPower x).power = x := rfl
@[simp] theorem State.setPower_image (s : State) (x : Power) (r : Rec) (i : Nat) :
    (s.setPower x).image r i = s.image r i := rfl
@[simp] theorem State.setPower_get (s : State) (x : Power) (g : Field) (i : Nat) :
    (s.setPower x).get g i = s.get g i := rfl
@[simp] theorem State.setPower_getAt (s : State) (x : Power) (g : Field) (i j : Nat) :
    (s.setPower x).getAt g i j = s.getAt g i j := rfl
@[simp] theorem State.setPower_flag (s : State) (x : Power) (g : Field) (i : Nat) :
    (s.setPower x).flag g i = s.flag g i := rfl
@[simp] theorem State.setPower_biasOf (s : State) (x : Power) (n : Nat) :
    (s.setPower x).biasOf n = s.biasOf n := rfl
@[simp] theorem State.setPower_tile (s : State) (x : Power) (t : Nat) :
    (s.setPower x).tile t = s.tile t := rfl
@[simp] theorem State.setPower_group (s : State) (x : Power) (g : Nat) :
    (s.setPower x).group g = s.group g := rfl
@[simp] theorem State.setPower_engine (s : State) (x : Power) (e : Nat) :
    (s.setPower x).engine e = s.engine e := rfl
@[simp] theorem State.setPower_acq (s : State) (x : Power) (t : Nat) :
    (s.setPower x).acq t = s.acq t := rfl
@[simp] theorem State.setPower_tone (s : State) (x : Power) (k : Nat) :
    (s.setPower x).tone k = s.tone k := rfl
@[simp] theorem State.setPower_port (s : State) (x : Power) (p : Nat) :
    (s.setPower x).port p = s.port p := rfl
@[simp] theorem State.setPower_mailbox (s : State) (x : Power) (m : Nat) :
    (s.setPower x).mailbox m = s.mailbox m := rfl
@[simp] theorem State.setPower_si (s : State) (x : Power) : (s.setPower x).si = s.si := rfl
@[simp] theorem State.setPower_wall (s : State) (x : Power) : (s.setPower x).wall = s.wall := rfl

/-! ### setMonitor -/

@[simp] theorem State.setMonitor_pending (s : State) (x : Monitor) : (s.setMonitor x).pending = s.pending := rfl
@[simp] theorem State.setMonitor_out (s : State) (x : Monitor) : (s.setMonitor x).out = s.out := rfl
@[simp] theorem State.setMonitor_mode (s : State) (x : Monitor) : (s.setMonitor x).mode = s.mode := rfl
@[simp] theorem State.setMonitor_clock (s : State) (x : Monitor) : (s.setMonitor x).clock = s.clock := rfl
@[simp] theorem State.setMonitor_records (s : State) (x : Monitor) : (s.setMonitor x).records = s.records := rfl
@[simp] theorem State.setMonitor_shadows (s : State) (x : Monitor) : (s.setMonitor x).shadows = s.shadows := rfl
@[simp] theorem State.setMonitor_blocking (s : State) (x : Monitor) : (s.setMonitor x).blocking = s.blocking := rfl
@[simp] theorem State.setMonitor_drive (s : State) (x : Monitor) : (s.setMonitor x).drive = s.drive := rfl
@[simp] theorem State.setMonitor_bias (s : State) (x : Monitor) : (s.setMonitor x).bias = s.bias := rfl
@[simp] theorem State.setMonitor_readout (s : State) (x : Monitor) : (s.setMonitor x).readout = s.readout := rfl
@[simp] theorem State.setMonitor_engines (s : State) (x : Monitor) : (s.setMonitor x).engines = s.engines := rfl
@[simp] theorem State.setMonitor_program (s : State) (x : Monitor) : (s.setMonitor x).program = s.program := rfl
@[simp] theorem State.setMonitor_hatband (s : State) (x : Monitor) : (s.setMonitor x).hatband = s.hatband := rfl
@[simp] theorem State.setMonitor_memory (s : State) (x : Monitor) : (s.setMonitor x).memory = s.memory := rfl
@[simp] theorem State.setMonitor_ports (s : State) (x : Monitor) : (s.setMonitor x).ports = s.ports := rfl
@[simp] theorem State.setMonitor_capture (s : State) (x : Monitor) : (s.setMonitor x).capture = s.capture := rfl
@[simp] theorem State.setMonitor_host (s : State) (x : Monitor) : (s.setMonitor x).host = s.host := rfl
@[simp] theorem State.setMonitor_power (s : State) (x : Monitor) : (s.setMonitor x).power = s.power := rfl
@[simp] theorem State.setMonitor_crown (s : State) (x : Monitor) : (s.setMonitor x).crown = s.crown := rfl
@[simp] theorem State.setMonitor_log (s : State) (x : Monitor) : (s.setMonitor x).log = s.log := rfl
@[simp] theorem State.setMonitor_flash (s : State) (x : Monitor) : (s.setMonitor x).flash = s.flash := rfl
@[simp] theorem State.setMonitor_upload (s : State) (x : Monitor) : (s.setMonitor x).upload = s.upload := rfl
@[simp] theorem State.setMonitor_freeCount (s : State) (x : Monitor) : (s.setMonitor x).freeCount = s.freeCount := rfl
@[simp] theorem State.setMonitor_monitor (s : State) (x : Monitor) : (s.setMonitor x).monitor = x := rfl
@[simp] theorem State.setMonitor_image (s : State) (x : Monitor) (r : Rec) (i : Nat) :
    (s.setMonitor x).image r i = s.image r i := rfl
@[simp] theorem State.setMonitor_get (s : State) (x : Monitor) (g : Field) (i : Nat) :
    (s.setMonitor x).get g i = s.get g i := rfl
@[simp] theorem State.setMonitor_getAt (s : State) (x : Monitor) (g : Field) (i j : Nat) :
    (s.setMonitor x).getAt g i j = s.getAt g i j := rfl
@[simp] theorem State.setMonitor_flag (s : State) (x : Monitor) (g : Field) (i : Nat) :
    (s.setMonitor x).flag g i = s.flag g i := rfl
@[simp] theorem State.setMonitor_biasOf (s : State) (x : Monitor) (n : Nat) :
    (s.setMonitor x).biasOf n = s.biasOf n := rfl
@[simp] theorem State.setMonitor_tile (s : State) (x : Monitor) (t : Nat) :
    (s.setMonitor x).tile t = s.tile t := rfl
@[simp] theorem State.setMonitor_group (s : State) (x : Monitor) (g : Nat) :
    (s.setMonitor x).group g = s.group g := rfl
@[simp] theorem State.setMonitor_engine (s : State) (x : Monitor) (e : Nat) :
    (s.setMonitor x).engine e = s.engine e := rfl
@[simp] theorem State.setMonitor_acq (s : State) (x : Monitor) (t : Nat) :
    (s.setMonitor x).acq t = s.acq t := rfl
@[simp] theorem State.setMonitor_tone (s : State) (x : Monitor) (k : Nat) :
    (s.setMonitor x).tone k = s.tone k := rfl
@[simp] theorem State.setMonitor_port (s : State) (x : Monitor) (p : Nat) :
    (s.setMonitor x).port p = s.port p := rfl
@[simp] theorem State.setMonitor_mailbox (s : State) (x : Monitor) (m : Nat) :
    (s.setMonitor x).mailbox m = s.mailbox m := rfl
@[simp] theorem State.setMonitor_si (s : State) (x : Monitor) : (s.setMonitor x).si = s.si := rfl
@[simp] theorem State.setMonitor_wall (s : State) (x : Monitor) : (s.setMonitor x).wall = s.wall := rfl

end Sys2Proof.Machine
end

