-- ==== Sys2Proof/Laws/Effects.lean ====
section
/-! SUPPORT. What the shared operations achieve: mode changes, Hatband sources, reports, bias holds and parks. -/

namespace Sys2Proof

open Machine

namespace Machine

/-! ### Mode changes -/

/-- What a mode change leaves of the mode record. -/
theorem State.enterMode_done (s : State) (m : Mode) (cause : Nat) :
    (s.enterMode m cause).mode = m ∧ (s.enterMode m cause).crown.modeSince = s.clock.now
      ∧ (s.enterMode m cause).get F.modeRecord_PREV_MODE 0 = s.mode.code % 8
      ∧ (s.enterMode m cause).get F.modeRecord_CAUSE 0 = cause % 2 ^ 16
      ∧ (s.enterMode m cause).get F.modeRecord_MODE_WALL_NS 0 = s.wall := by
  unfold State.enterMode
  extract_lets s1 s2 c s3 s4 s5
  have hd : Only [Part.out, Part.host, Part.hatband] s5 ((s5.raise 1140).signalAll) :=
    State.signalAll_only (by decide) (State.raise_only (by decide) (Only.refl _ _))
  have h5 : Only [Part.image Rec.gridStatus] s4 s5 := by
    unfold s5
    exact Only.ite (Only.refl _ _) (State.putFlag_only (List.Subset.refl _) (Only.refl _ _))
  have h := (h5.mono (show _ ⊆ [Part.out, Part.host, Part.hatband, Part.image Rec.gridStatus] by decide)).trans
    (hd.mono (by decide))
  have hw : s.wall < 2 ^ 64 := s.clock.wallNs.isLt
  refine ⟨h .mode (by decide), ?_, ?_, ?_, ?_⟩
  · rw [h .crown (by decide)]
    rfl
  · rw [h.get (by decide)]
    unfold s4 State.putFlag
    rw [State.get_put_other _ (by decide)]
    rw [State.get_congr (s := s2) (t := s3) rfl]
    unfold s2 s1
    rw [State.get_put_other _ (by decide), State.get_put_other _ (by decide), State.get_put]
    rfl
  · rw [h.get (by decide)]
    unfold s4 State.putFlag
    rw [State.get_put_other _ (by decide)]
    rw [State.get_congr (s := s2) (t := s3) rfl]
    unfold s2 s1
    rw [State.get_put_other _ (by decide), State.get_put]
    rfl
  · rw [h.get (by decide)]
    unfold s4 State.putFlag
    rw [State.get_put_other _ (by decide)]
    rw [State.get_congr (s := s2) (t := s3) rfl]
    unfold s2
    rw [State.get_put_of_lt _ _ _ (by exact hw)]
    rfl

theorem State.finishAll_mode (s : State) (p : Wait → Bool) (st : Status) (b : List Byte) :
    (s.finishAll p st b).mode = s.mode :=
  (State.finishAll_only (List.Subset.refl _) (Only.refl _ s)) .mode (by decide)

/-- Entry to SAFE from any mode ends in SAFE. -/
theorem State.enterSafe_mode (s : State) (cause : Nat) : (s.enterSafe cause).mode = .safe := by
  unfold State.enterSafe
  dsimp only
  split
  · assumption
  · rw [State.finishAll_mode]
    exact (State.enterMode_done _ _ _).1

/-- The next sequence number after an entry. -/
theorem State.addEntry_seq (s : State) (e : LogEntry) :
    (s.addEntry e).get F.logStatus_NEXT_SEQ 0 = (s.get F.logStatus_NEXT_SEQ 0 + 1) % 2 ^ 32 := by
  unfold State.addEntry
  dsimp only
  rw [State.raise_get]
  exact (State.get_put _ _ _ _).trans (Nat.mod_mod _ _)

/-- CALIBRATE begins with the monitor self-calibration. -/
theorem State.beginCalibrate_done (s : State) (cause : Nat) :
    (s.beginCalibrate cause).mode = .calibrate ∧ (s.beginCalibrate cause).flag F.monStatus_CAL_BUSY 0 = true
      ∧ (s.beginCalibrate cause).monitor.calibrating = some s.clock.now := by
  have h := State.enterMode_done s .calibrate cause
  have hn := (State.enterMode_only (m := .calibrate) (cause := cause) (List.Subset.refl _) (Only.refl _ s)) .now
    (by decide)
  unfold State.beginCalibrate
  generalize s.enterMode .calibrate cause = u at h hn ⊢
  cases u
  extract_lets
  refine ⟨?_, State.flag_putFlag _ _ _ _ (by decide), ?_⟩
  · rw [State.putFlag_mode]
    exact h.1
  · rw [State.putFlag_monitor]
    exact congrArg some hn

theorem State.foldPark_only (l : List Nat) (s : State) : Only [Part.bias, Part.image Rec.biasStatus] s
    (l.foldl (fun s n => s.parkBias n 0 false) s) :=
  Only.foldl (fun _ _ hx => State.parkBias_only (by decide) hx) l (Only.refl _ s)

/-- A ramp to 0 begins. -/
theorem State.rampTo_ramp (s : State) (c : Nat) (h : s.power.ramp = none ∨ s.power.ramp = some 1) :
    (s.rampTo c).power.ramp = some c := by
  unfold State.rampTo
  rcases h with h | h
  · rw [h]
    have := (State.foldPark_only (List.range 128) ({ s with power := { s.power with ramp := some c } })) .power (by decide)
    exact congrArg Power.ramp this
  · rw [h]
    rfl

end Machine

end Sys2Proof
end

