-- ==== Sys2Proof/Laws/Ends.lean ====
section
/-! SUPPORT. The mailboxes across deferred commands that end and runs that end: a mailbox with no deferred command of its
own keeps what it holds. -/

namespace Sys2Proof

open Machine

namespace Machine

/-- Mailbox `m` waits for nothing, before and after, and holds what it held. -/
def Kept (m : Nat) (s t : State) : Prop := s.deferredOf m = none → t.mailbox m = s.mailbox m ∧ t.deferredOf m = none

theorem Kept.refl (m : Nat) (s : State) : Kept m s s := fun h => ⟨rfl, h⟩

theorem Kept.trans {m : Nat} {s t u : State} (h : Kept m s t) (g : Kept m t u) : Kept m s u := fun hs =>
  ⟨(g (h hs).2).1.trans (h hs).1, (g (h hs).2).2⟩

theorem Kept.foldl {α : Type} {m : Nat} {f : State → α → State} (hf : ∀ s x, Kept m s (f s x)) :
    ∀ (l : List α) (s : State), Kept m s (l.foldl f s)
  | [], s => Kept.refl m s
  | x :: l, s => (hf s x).trans (Kept.foldl hf l (f s x))

/-- An operation that leaves the mailboxes alone. -/
theorem Kept.of_only {ps : List Part} {m : Nat} {s t : State} (h : Only ps s t) (hp : Part.mailboxes ∉ ps) : Kept m s t :=
  fun hs => by
    obtain ⟨h1, -, h3⟩ := h .mailboxes hp
    refine ⟨?_, ?_⟩
    · unfold State.mailbox
      rw [h1]
    · unfold State.deferredOf at hs ⊢
      rw [h3]
      exact hs

theorem State.mailbox_setMailbox_ne (s : State) {m k : Nat} (x : Mailbox) (h : m ≠ k) :
    (s.setMailbox k x).mailbox m = s.mailbox m := SMap.read_write_ne _ _ _ _ h

/-- A response to one mailbox leaves every other alone. -/
theorem State.mailbox_respond_ne (s : State) {m k : Nat} (r : Response) (q : Nat) (h : m ≠ k) :
    (s.respond k r q).mailbox m = s.mailbox m := by
  unfold State.respond
  extract_lets x failed s1 s2
  have h1 : s1.mailbox m = s.mailbox m := by
    unfold s1
    clear_value failed
    split
    · split
      · exact State.mailbox_report _ _ _ _ _ _ _
      · split
        · exact State.mailbox_report _ _ _ _ _ _ _
        · rfl
    · rfl
  have h2 : s2.mailbox m = s1.mailbox m := State.mailbox_setMailbox_ne _ _ h
  split
  · rw [State.mailbox_signal, h2, h1]
  · exact h2.trans h1

/-- What waits after a deferred command has ended. -/
theorem State.deferred_finish (s : State) (d : Deferred) (st : Status) (p : List Byte) :
    (s.finish d st p).host.deferred = s.host.deferred.filter fun x => x.m ≠ d.m := by
  unfold State.finish
  dsimp only
  split
  · rfl
  · rw [State.deferred_respond]

theorem State.mailbox_finish_ne (s : State) (d : Deferred) (st : Status) (p : List Byte) {m : Nat} (h : m ≠ d.m) :
    (s.finish d st p).mailbox m = s.mailbox m := by
  unfold State.finish
  dsimp only
  split
  · rfl
  · rw [State.mailbox_respond_ne _ _ _ h]
    rfl

theorem State.finish_kept (s : State) (d : Deferred) (st : Status) (p : List Byte) {m : Nat} (h : m ≠ d.m) :
    Kept m s (s.finish d st p) := fun hs => by
  refine ⟨State.mailbox_finish_ne _ _ _ _ h, ?_⟩
  unfold State.deferredOf at hs ⊢
  rw [State.deferred_finish]
  rw [List.find?_eq_none] at hs ⊢
  intro x hx
  exact hs x (List.mem_filter.mp hx).1

theorem State.foldFinish_kept (st : Status) (p : List Byte) {m : Nat} :
    ∀ (l : List Deferred) (s : State), (∀ d ∈ l, m ≠ d.m) → Kept m s (l.foldl (fun s d => s.finish d st p) s)
  | [], s, _ => Kept.refl m s
  | d :: l, s, h => (State.finish_kept s d st p (h d (List.mem_cons_self ..))).trans
      (State.foldFinish_kept st p l _ fun x hx => h x (List.mem_cons_of_mem _ hx))

theorem State.finishAll_kept (s : State) (p : Wait → Bool) (st : Status) (b : List Byte) {m : Nat} :
    Kept m s (s.finishAll p st b) := fun hs => by
  have hm : ∀ d ∈ s.host.deferred, m ≠ d.m := by
    unfold State.deferredOf at hs
    rw [List.find?_eq_none] at hs
    intro d hd e
    exact hs d hd (by simp [e])
  exact State.foldFinish_kept st b _ s (fun d hd => hm d (List.mem_filter.mp hd).1) hs

theorem State.foldFinish_gone (st : Status) (p : List Byte) :
    ∀ (l : List Deferred) (s : State) (x : Deferred), x ∈ (l.foldl (fun s d => s.finish d st p) s).host.deferred →
      x ∈ s.host.deferred ∧ ∀ d ∈ l, x.m ≠ d.m
  | [], s, x, h => ⟨h, fun d hd => absurd hd (List.not_mem_nil)⟩
  | d :: l, s, x, h => by
    obtain ⟨h1, h2⟩ := State.foldFinish_gone st p l _ x h
    rw [State.deferred_finish, List.mem_filter] at h1
    refine ⟨h1.1, fun y hy => ?_⟩
    rcases List.mem_cons.mp hy with rfl | hy
    · exact of_decide_eq_true h1.2
    · exact h2 y hy

/-- No command waits any more for what has come, and no other command has begun to wait. -/
theorem State.finishAll_gone (s : State) (p : Wait → Bool) (st : Status) (b : List Byte) {x : Deferred}
    (h : x ∈ (s.finishAll p st b).host.deferred) : x ∈ s.host.deferred ∧ p x.wait = false := by
  obtain ⟨h1, h2⟩ := State.foldFinish_gone st b _ s x h
  refine ⟨h1, ?_⟩
  cases hp : p x.wait with
  | false => rfl
  | true => exact absurd rfl (h2 x (List.mem_filter.mpr ⟨h1, hp⟩))

/-- A listed key is found with the value listed. -/
theorem SMap.find_list {α : Type} (m : SMap α) (k : Nat) (v : α) : (m.list k v).find k = some v := by
  induction m with
  | nil => simp [SMap.list, SMap.find]
  | cons h r ih =>
    obtain ⟨j, x⟩ := h
    unfold SMap.list
    split
    · simp [SMap.find]
    · split
      · simp [SMap.find]
      · simp only [SMap.find]
        rw [if_neg (by omega)]
        exact ih

/-- A key beside the one listed. -/
theorem SMap.find_list_ne {α : Type} (m : SMap α) {k j : Nat} (v : α) (h : j ≠ k) : (m.list k v).find j = m.find j := by
  induction m with
  | nil => simp [SMap.list, SMap.find, Ne.symm h]
  | cons x r ih =>
    obtain ⟨k', v'⟩ := x
    by_cases hk : k < k'
    · simp [SMap.list, SMap.find, hk, Ne.symm h]
    · by_cases e : k = k'
      · subst e
        simp [SMap.list, SMap.find, Ne.symm h]
      · simp [SMap.list, SMap.find, hk, e, ih]

/-! ### What a change of a numbered part leaves -/

theorem State.biasOf_setBias (s : State) (n : Nat) (x : Bias) : (s.setBias n x).biasOf n = x :=
  SMap.read_write_self _ _ _ _
theorem State.biasOf_setBias_ne (s : State) {n k : Nat} (x : Bias) (h : k ≠ n) : (s.setBias n x).biasOf k = s.biasOf k :=
  SMap.read_write_ne _ _ _ _ h

theorem State.tile_setTile (s : State) (n : Nat) (x : TileRun) : (s.setTile n x).tile n = x :=
  SMap.read_write_self _ _ _ _
theorem State.tile_setTile_ne (s : State) {n k : Nat} (x : TileRun) (h : k ≠ n) : (s.setTile n x).tile k = s.tile k :=
  SMap.read_write_ne _ _ _ _ h

theorem State.group_setGroup (s : State) (n : Nat) (x : RunGroup) : (s.setGroup n x).group n = x :=
  SMap.read_write_self _ _ _ _
theorem State.group_setGroup_ne (s : State) {n k : Nat} (x : RunGroup) (h : k ≠ n) : (s.setGroup n x).group k = s.group k :=
  SMap.read_write_ne _ _ _ _ h

theorem State.engine_setEngine (s : State) (n : Nat) (x : Engine) : (s.setEngine n x).engine n = x :=
  SMap.read_write_self _ _ _ _
theorem State.engine_setEngine_ne (s : State) {n k : Nat} (x : Engine) (h : k ≠ n) : (s.setEngine n x).engine k = s.engine k :=
  SMap.read_write_ne _ _ _ _ h

theorem State.acq_setAcq (s : State) (n : Nat) (x : Acq) : (s.setAcq n x).acq n = x :=
  SMap.read_write_self _ _ _ _
theorem State.acq_setAcq_ne (s : State) {n k : Nat} (x : Acq) (h : k ≠ n) : (s.setAcq n x).acq k = s.acq k :=
  SMap.read_write_ne _ _ _ _ h

theorem State.tone_setTone (s : State) (n : Nat) (x : Tone) : (s.setTone n x).tone n = x :=
  SMap.read_write_self _ _ _ _
theorem State.tone_setTone_ne (s : State) {n k : Nat} (x : Tone) (h : k ≠ n) : (s.setTone n x).tone k = s.tone k :=
  SMap.read_write_ne _ _ _ _ h

theorem State.port_setPort (s : State) (n : Nat) (x : Port) : (s.setPort n x).port n = x :=
  SMap.read_write_self _ _ _ _
theorem State.port_setPort_ne (s : State) {n k : Nat} (x : Port) (h : k ≠ n) : (s.setPort n x).port k = s.port k :=
  SMap.read_write_ne _ _ _ _ h

/-! ### Fields beside those that change -/

theorem State.get_put_family (s : State) {f g : Field} {i j v : Nat} (h : g.record ≠ f.record) :
    (s.put f i v).get g j = s.get g j := State.get_put_record s f g i j v h
theorem State.get_count_family (s : State) {f g : Field} {i j k : Nat} (h : g.record ≠ f.record) :
    (s.count f i k).get g j = s.get g j := State.get_put_record s f g i j _ h
theorem State.get_count_other (s : State) {f g : Field} {i k : Nat}
    (h : g.record = f.record → g.lo + g.width ≤ f.lo ∨ f.lo + f.width ≤ g.lo) : (s.count f i k).get g i = s.get g i :=
  State.get_put_other s h
theorem State.get_putFlag_other (s : State) {f g : Field} {i : Nat} {b : Bool}
    (h : g.record = f.record → g.lo + g.width ≤ f.lo ∨ f.lo + f.width ≤ g.lo) : (s.putFlag f i b).get g i = s.get g i :=
  State.get_put_other s h
theorem State.get_putFlag_family (s : State) {f g : Field} {i j : Nat} {b : Bool} (h : g.record ≠ f.record) :
    (s.putFlag f i b).get g j = s.get g j := State.get_put_record s f g i j _ h
theorem State.flag_put_other (s : State) {f g : Field} {i v : Nat}
    (h : g.record = f.record → g.lo + g.width ≤ f.lo ∨ f.lo + f.width ≤ g.lo) : (s.put f i v).flag g i = s.flag g i := by
  unfold State.flag
  rw [State.get_put_other s h]
theorem State.flag_putFlag_other (s : State) {f g : Field} {i : Nat} {b : Bool}
    (h : g.record = f.record → g.lo + g.width ≤ f.lo ∨ f.lo + f.width ≤ g.lo) : (s.putFlag f i b).flag g i = s.flag g i :=
  State.flag_put_other s h
theorem State.flag_count_other (s : State) {f g : Field} {i k : Nat}
    (h : g.record = f.record → g.lo + g.width ≤ f.lo ∨ f.lo + f.width ≤ g.lo) : (s.count f i k).flag g i = s.flag g i :=
  State.flag_put_other s h

/-! ### Copies of a field -/

/-- Copies that do not overlap: another copy is not touched by a write of one. -/
theorem State.getAt_putAt_ne (s : State) (f : Field) (i v : Nat) {j k : Nat} (hw : f.width ≤ f.stride) (h : j ≠ k) :
    (s.putAt f i k v).getAt f i j = s.getAt f i j := by
  unfold State.getAt State.putAt
  rw [State.image_setImage_self]
  refine bits_setBits_ne _ _ _ _ ?_
  rcases Nat.lt_or_gt_of_ne h with h | h
  · left
    have : (j + 1) * f.stride ≤ k * f.stride := Nat.mul_le_mul_right _ h
    rw [Nat.add_mul] at this
    omega
  · right
    have : (k + 1) * f.stride ≤ j * f.stride := Nat.mul_le_mul_right _ h
    rw [Nat.add_mul] at this
    omega

/-- A write of another field leaves a copy alone. -/
theorem State.getAt_put_ne (s : State) (f g : Field) (i j v : Nat) (hr : g.record = f.record)
    (h : g.lo + j * g.stride + g.width ≤ f.lo ∨ f.lo + f.width ≤ g.lo + j * g.stride) :
    (s.put f i v).getAt g i j = s.getAt g i j := by
  unfold State.getAt State.put
  rw [hr, State.image_setImage_self]
  exact bits_setBits_ne _ _ _ _ h

/-- Every copy below `n` written in turn. -/
theorem State.getAt_puts (f : Field) (i : Nat) (g : Nat → Nat) (hw : f.width ≤ f.stride) (s : State) {j : Nat} : ∀ n : Nat,
    ((List.range n).foldl (fun s e => s.putAt f i e (g e)) s).getAt f i j =
      if j < n then g j % 2 ^ f.width else s.getAt f i j
  | 0 => by rw [if_neg (by omega)]; rfl
  | n + 1 => by
    rw [List.range_succ, List.foldl_append, List.foldl_cons, List.foldl_nil]
    by_cases e : j = n
    · subst e
      rw [State.getAt_putAt, if_pos (by omega)]
    · rw [State.getAt_putAt_ne _ _ _ _ hw e, State.getAt_puts f i g hw s n]
      by_cases h : j < n
      · rw [if_pos h, if_pos (by omega)]
      · rw [if_neg h, if_neg (by omega)]


/-- In holdover the device is not locked. -/
theorem State.holdover_done (u : State) :
    u.holdover.flag F.timeStatus_LOCKED = false ∧ u.holdover.flag F.timeStatus_HOLDOVER = true := by
  unfold State.holdover
  extract_lets v w
  have hv : w.flag F.timeStatus_LOCKED = false :=
    (State.flag_congr (s := u.putFlag F.timeStatus_LOCKED 0 false) rfl _ _).trans (State.flag_putFlag _ _ _ _ (by decide))
  clear_value w
  split
  · exact ⟨hv, by assumption⟩
  · refine ⟨?_, ?_⟩
    · rw [(State.report_only (List.Subset.refl _) (Only.refl _ _)).flag (by decide),
        (State.raise_only (List.Subset.refl _) (Only.refl _ _)).flag (by decide), State.flag_putFlag_other _ (by decide)]
      exact hv
    · rw [(State.report_only (List.Subset.refl _) (Only.refl _ _)).flag (by decide),
        (State.raise_only (List.Subset.refl _) (Only.refl _ _)).flag (by decide)]
      exact State.flag_putFlag _ _ _ _ (by decide)

/-- An operation that leaves the mailboxes alone leaves each of them alone. -/
theorem mailbox_of_only {ps : List Part} {s t : State} (h : Only ps s t) (hp : Part.mailboxes ∉ ps) (m : Nat) :
    t.mailbox m = s.mailbox m := by
  unfold State.mailbox
  rw [(h .mailboxes hp).1]

theorem memory_of_only {ps : List Part} {s t : State} (h : Only ps s t) (h1 : Part.library ∉ ps) (h2 : Part.store ∉ ps)
    (h3 : Part.memory ∉ ps) : t.memory = s.memory := by
  obtain ⟨a1, a2⟩ := h .library h1
  obtain ⟨b1, b2⟩ := h .store h2
  have c := h .memory h3
  change _ = _ at c
  generalize t.memory = x at *
  generalize s.memory = y at *
  cases x
  cases y
  simp only at a1 a2 b1 b2
  subst a1 a2 b1 b2
  simpa using c

theorem host_of_only {ps : List Part} {s t : State} (h : Only ps s t) (h1 : Part.mailboxes ∉ ps) (h2 : Part.host ∉ ps) :
    t.host = s.host := by
  obtain ⟨a1, a2, a3⟩ := h .mailboxes h1
  have c : ({ t.host with mailboxes := [], accepted := [], deferred := [] } : HostIf) =
      { s.host with mailboxes := [], accepted := [], deferred := [] } := h .host h2
  generalize t.host = x at *
  generalize s.host = y at *
  cases x
  cases y
  simp_all

theorem clock_of_only {ps : List Part} {s t : State} (h : Only ps s t) (h1 : Part.now ∉ ps) (h2 : Part.si ∉ ps)
    (h3 : Part.wall ∉ ps) (h4 : Part.clock ∉ ps) : t.clock = s.clock := by
  have a := h .now h1
  have b := h .si h2
  obtain ⟨c, d⟩ := h .wall h3
  have e := h .clock h4
  change _ = _ at a b e
  generalize t.clock = x at *
  generalize s.clock = y at *
  cases x
  cases y
  simp only at a b c d
  subst a b c d
  simpa using e

/-- What holdover does to the clock. -/
theorem State.holdover_clock (u : State) : u.holdover.clock = { u.clock with lockRun := 0 } := by
  unfold State.holdover
  extract_lets a v
  have hv : v.clock = { u.clock with lockRun := 0 } := by
    show ({ (u.putFlag F.timeStatus_LOCKED 0 false).clock with lockRun := 0 } : Clock) = _
    rw [State.putFlag_clock]
  clear_value v
  split
  · exact hv
  · refine (clock_of_only (State.report_only (List.Subset.refl _) (Only.refl _ _)) (by decide) (by decide) (by decide)
      (by decide)).trans ?_
    rw [State.raise_clock, State.putFlag_clock]
    exact hv

theorem program_of_only {ps : List Part} {s t : State} (h : Only ps s t) (h1 : Part.loaded ∉ ps) (h2 : Part.runs ∉ ps) :
    t.program = s.program := by
  obtain ⟨a1, a2⟩ := h .runs h2
  have c := h .loaded h1
  change _ = _ at c
  generalize t.program = x at *
  generalize s.program = y at *
  cases x
  cases y
  simp only at a1 a2
  subst a1 a2
  simpa using c

theorem mem_addOnce (k : Nat) (l : List Nat) : k ∈ (if l.contains k then l else l ++ [k]) := by
  split
  · rename_i h
    exact List.contains_iff_mem.mp h
  · simp

/-! ### Runs -/

theorem State.endRun_kept (s : State) (g : Nat) {m : Nat} : Kept m s (s.endRun g) := by
  unfold State.endRun
  refine Kept.trans ?_ (State.finishAll_kept _ _ _ _)
  refine Kept.trans (t := (s.members g).foldl State.leaveRun s) ?_ ?_
  · exact Kept.foldl (fun s t => Kept.of_only (State.leaveRun_only (List.Subset.refl _) (Only.refl _ s)) (by decide)) _ _
  · exact Kept.of_only (State.setGroup_only (List.Subset.refl _) (Only.refl _ _)) (by decide)

theorem State.haltGroup_kept (s : State) (g : Nat) {m : Nat} : Kept m s (s.haltGroup g) := by
  unfold State.haltGroup
  split
  · exact Kept.refl m s
  · extract_lets s1 s2
    have h1 : Kept m s s1 :=
      Kept.foldl (fun s t => Kept.of_only (State.demandHalt_only (List.Subset.refl _) (Only.refl _ s)) (by decide)) _ _
    have h2 : Kept m s1 s2 := by
      unfold s2
      split
      · exact Kept.foldl (fun s t => (Kept.of_only (State.voidShot_only (List.Subset.refl _) (Only.refl _ s)) (by decide)).trans
          (Kept.of_only (State.standDown_only (List.Subset.refl _) (Only.refl _ _)) (by decide))) _ _
      · exact Kept.refl m s1
    exact (h1.trans h2).trans (State.endRun_kept s2 g)

theorem State.haltAll_kept (s : State) {m : Nat} : Kept m s ((List.range 16).foldl State.haltGroup s) :=
  Kept.foldl (fun s g => State.haltGroup_kept s g) _ _

/-- What entry to SAFE changes before the mode changes: no part of the mode, its record or the Crown pair. -/
def safeParts : List Part :=
  [Part.log, Part.image Rec.logStatus, Part.out, Part.hatband, Part.runs, Part.image Rec.runStatus, Part.drive,
    Part.bias, Part.image Rec.biasStatus, Part.acq, Part.image Rec.engineStatus, Part.engines, Part.shadows,
    Part.image Rec.timingSet, Part.image Rec.driveTone, Part.image Rec.probeTone, Part.image Rec.acqTone,
    Part.image Rec.biasIir, Part.image Rec.biasFir, Part.image Rec.histConfig, Part.image Rec.model, Part.loaded,
    Part.image Rec.matrixControl, Part.weights, Part.image Rec.weightControl, Part.readout, Part.bins,
    Part.image Rec.histStatus, Part.image Rec.xyStatus, Part.blocking, Part.mailboxes, Part.host, Part.power,
    Part.capture, Part.image Rec.outQueue, Part.image Rec.capStatus, Part.image Rec.ring, Part.store, Part.free]

/-- The mode change, and what ends with it, come last in an entry to SAFE: what comes before leaves the mode and its
record, and every mailbox that waits for nothing, alone. -/
theorem State.enterSafe_split (s : State) (cause : Nat) (h : s.mode ≠ .safe) : ∃ u : State,
    Only safeParts s u ∧ (∀ m, Kept m s u) ∧ s.enterSafe cause =
      ((u.count F.modeRecord_SAFE_ENTRIES 0).enterMode .safe cause).finishAll
        (fun w => match w with | .modeSet _ => true | _ => false) .faulted [] := by
  unfold State.enterSafe
  extract_lets v1 v2 v3 p1 v5 v6 v7 p2 v9 v10 v11
  let G : State → Prop := fun u => Only safeParts s u ∧ ∀ m, Kept m s u
  have add : ∀ {u v : State} {ps : List Part}, G u → Only ps u v → ps ⊆ safeParts → Part.mailboxes ∉ ps → G v :=
    fun g o hs hm => ⟨g.1.trans (o.mono hs), fun m => (g.2 m).trans (Kept.of_only o hm)⟩
  have h1 : G v1 := add ⟨Only.refl _ s, fun m => Kept.refl m s⟩
    (State.report_only (List.Subset.refl _) (Only.refl _ s)) (by decide) (by decide)
  have hm : v1.mode = s.mode := (State.report_only (List.Subset.refl _) (Only.refl _ s)) .mode (by decide)
  clear_value v1
  rw [if_neg (by rw [hm]; exact h)]
  have h2 : G v2 := add (ps := [Part.engines])
    ⟨h1.1.trans (Only.foldl (fun _ _ hx => State.haltGroup_only (by decide) hx) _ (Only.refl _ v1)),
      fun m => (h1.2 m).trans (State.haltAll_kept v1)⟩
    (State.demandHalt_only (List.Subset.refl _) (Only.refl _ _)) (by decide) (by decide)
  clear_value v2
  have h3 : G v3 := add h2 (Only.foldl (fun _ _ hx => State.silenceTone_only (List.Subset.refl _) hx) _ (Only.refl _ v2))
    (by decide) (by decide)
  clear_value v3
  have h5 : G v5 := add (ps := [Part.power]) h3 (by
    unfold v5; exact Only.ite (Only.setPower (List.Subset.refl _) (Only.refl _ v3)) (Only.refl _ v3)) (by decide) (by decide)
  clear_value v5
  have h6 : G v6 := add h5 (State.parkAll_only (List.Subset.refl _) (Only.refl _ v5)) (by decide) (by decide)
  clear_value v6
  have h7 : G v7 := add h6 (State.failAllJobs_only (List.Subset.refl _) (Only.refl _ v6)) (by decide) (by decide)
  clear_value v7
  have h9 : G v9 := add h7 (Only.setBlocking (List.Subset.refl _) (Only.refl _ v7)) (by decide) (by decide)
  exact ⟨v9, h9.1, h9.2, rfl⟩

/-- Entry to SAFE leaves a mailbox that waits for nothing alone. -/
theorem State.enterSafe_kept (s : State) (cause : Nat) {m : Nat} : Kept m s (s.enterSafe cause) := by
  by_cases h : s.mode = .safe
  · have e : s.enterSafe cause = s.report 37 false 0xFFF cause := by
      unfold State.enterSafe
      extract_lets v1 v2 v3 p1 v5 v6 v7 p2 v9 v10 v11
      have hm : v1.mode = s.mode := (State.report_only (List.Subset.refl _) (Only.refl _ s)) .mode (by decide)
      exact if_pos (hm.trans h)
    rw [e]
    exact Kept.of_only (State.report_only (List.Subset.refl _) (Only.refl _ s)) (by decide)
  · obtain ⟨u, -, hk, e⟩ := State.enterSafe_split s cause h
    rw [e]
    refine (hk m).trans (Kept.trans ?_ (State.finishAll_kept _ _ _ _))
    exact (Kept.of_only (State.count_only (List.Subset.refl _) (Only.refl _ u)) (by decide)).trans
      (Kept.of_only (State.enterMode_only (List.Subset.refl _) (Only.refl _ _)) (by decide))

/-- What entry to SAFE leaves of the mode record, and of the commands that wait. -/
theorem State.enterSafe_done (s : State) (cause : Nat) (h : s.mode ≠ .safe) :
    (s.enterSafe cause).get F.modeRecord_CAUSE 0 = cause % 2 ^ 16
      ∧ (s.enterSafe cause).get F.modeRecord_PREV_MODE 0 = s.mode.code % 8
      ∧ (∀ x ∈ (s.enterSafe cause).host.deferred, ∀ y, x.wait ≠ .modeSet y) := by
  obtain ⟨u, ho, hk, e⟩ := State.enterSafe_split s cause h
  rw [e]
  have hd := State.enterMode_done (u.count F.modeRecord_SAFE_ENTRIES 0) .safe cause
  have hf := fun p => State.finishAll_only (p := p) (st := .faulted) (payload := []) (List.Subset.refl _)
    (Only.refl _ ((u.count F.modeRecord_SAFE_ENTRIES 0).enterMode .safe cause))
  refine ⟨?_, ?_, ?_⟩
  · rw [(hf _).get (by decide)]
    exact hd.2.2.2.1
  · rw [(hf _).get (by decide), hd.2.2.1]
    have : (u.count F.modeRecord_SAFE_ENTRIES 0).mode = s.mode := ho .mode (by decide)
    rw [this]
  · intro x hx y hy
    have := (State.finishAll_gone _ _ _ _ hx).2
    rw [hy] at this
    exact absurd this (by simp)

/-- The fields that a mode change writes. -/
def modeChangeFields : List Field :=
  [F.modeRecord_PREV_MODE, F.modeRecord_CAUSE, F.modeRecord_MODE_WALL_NS, F.modeRecord_B_PARKED, F.gridStatus_SYNC_ARMED]

/-- A mode change leaves every other field alone. -/
theorem State.enterMode_get (s : State) (x : Mode) (cause : Nat) (f : Field)
    (h : ∀ g ∈ modeChangeFields, f.record = g.record → f.lo + f.width ≤ g.lo ∨ g.lo + g.width ≤ f.lo) :
    (s.enterMode x cause).get f 0 = s.get f 0 := by
  have hb : ∀ {u : State} {g : Field} {v : Nat}, g ∈ modeChangeFields → (u.put g 0 v).get f 0 = u.get f 0 :=
    fun hg => State.get_put_other _ (h _ hg)
  unfold State.enterMode
  extract_lets s1 s2 c s3 s4 s5
  have h5 : s5.get f 0 = s4.get f 0 := by
    unfold s5
    split
    · rfl
    · exact hb (by simp [modeChangeFields])
  have h6 : ((s5.raise 1140).signalAll).get f 0 = s5.get f 0 := by
    rw [State.get, State.get, State.image, State.image]
    have : ((s5.raise 1140).signalAll).records = s5.records := by
      have hs : ∀ (l : List Nat) (u : State), (l.foldl (fun s k => s.signal k 0) u).records = u.records := by
        intro l
        induction l with
        | nil => intro u; rfl
        | cons k l ih =>
          intro u
          rw [List.foldl_cons, ih]
          unfold State.signal State.send
          split <;> rfl
      exact hs _ _
    rw [this]
  rw [h6, h5]
  unfold s4 State.putFlag
  rw [hb (by simp [modeChangeFields]), State.get_congr (s := s2) (t := s3) rfl]
  unfold s2 s1
  rw [hb (by simp [modeChangeFields]), hb (by simp [modeChangeFields]), hb (by simp [modeChangeFields])]

/-- Entry to SAFE leaves every field of the mode record alone but those of the change and SAFE_ENTRIES. -/
theorem State.enterSafe_get (s : State) (cause : Nat) (f : Field) (hr : f.record = .modeRecord)
    (h : ∀ g ∈ F.modeRecord_SAFE_ENTRIES :: modeChangeFields,
      f.record = g.record → f.lo + f.width ≤ g.lo ∨ g.lo + g.width ≤ f.lo) :
    (s.enterSafe cause).get f 0 = s.get f 0 := by
  by_cases hs : s.mode = .safe
  · have e : s.enterSafe cause = s.report 37 false 0xFFF cause := by
      unfold State.enterSafe
      extract_lets v1 v2 v3 p1 v5 v6 v7 p2 v9 v10 v11
      have hm : v1.mode = s.mode := (State.report_only (List.Subset.refl _) (Only.refl _ s)) .mode (by decide)
      exact if_pos (hm.trans hs)
    rw [e]
    exact (State.report_only (List.Subset.refl _) (Only.refl _ s)).get (by rw [hr]; decide) 0
  · obtain ⟨u, ho, hk, e⟩ := State.enterSafe_split s cause hs
    rw [e, (State.finishAll_only (List.Subset.refl _) (Only.refl _ _)).get (by rw [hr]; decide) 0,
      State.enterMode_get _ _ _ _ (fun g hg => h g (List.mem_cons_of_mem _ hg))]
    unfold State.count
    rw [State.get_put_other _ (h _ (List.mem_cons_self ..)), ho.get (by rw [hr]; decide)]

/-- A mode change leaves the Crown pair otherwise alone. -/
theorem State.enterMode_crown (s : State) (x : Mode) (cause : Nat) :
    (s.enterMode x cause).crown = { s.crown with modeSince := s.clock.now } := by
  unfold State.enterMode
  extract_lets s1 s2 c s3 s4 s5
  have hd : Only [Part.out, Part.host, Part.hatband] s5 ((s5.raise 1140).signalAll) :=
    State.signalAll_only (by decide) (State.raise_only (by decide) (Only.refl _ _))
  have h5 : Only [Part.image Rec.gridStatus] s4 s5 := by
    unfold s5
    exact Only.ite (Only.refl _ _) (State.putFlag_only (List.Subset.refl _) (Only.refl _ _))
  rw [hd .crown (by decide), h5 .crown (by decide)]
  rfl

theorem State.beginCalibrate_crown (s : State) (cause : Nat) :
    (s.beginCalibrate cause).crown = { s.crown with modeSince := s.clock.now, calEnded := none } := by
  have h := State.enterMode_crown s .calibrate cause
  unfold State.beginCalibrate
  generalize s.enterMode .calibrate cause = u at h ⊢
  cases u
  extract_lets
  rw [State.putFlag_crown]
  exact congrArg (fun x : Crown => { x with calEnded := none }) h

/-- What halting a group changes. -/
def haltParts : List Part :=
  [Part.runs, Part.image Rec.runStatus, Part.drive, Part.bias, Part.image Rec.biasStatus, Part.out, Part.hatband,
    Part.acq, Part.image Rec.engineStatus, Part.engines, Part.shadows, Part.image Rec.timingSet,
    Part.image Rec.driveTone, Part.image Rec.probeTone, Part.image Rec.acqTone, Part.image Rec.biasIir,
    Part.image Rec.biasFir, Part.image Rec.histConfig, Part.image Rec.model, Part.loaded,
    Part.image Rec.matrixControl, Part.weights, Part.image Rec.weightControl, Part.readout, Part.bins,
    Part.image Rec.histStatus, Part.image Rec.xyStatus, Part.blocking, Part.mailboxes, Part.log,
    Part.image Rec.logStatus, Part.host]

/-- The footprint of halting every group. -/
theorem State.haltAll_only (s : State) : Only haltParts s ((List.range 16).foldl State.haltGroup s) :=
  Only.foldl (f := State.haltGroup) (fun _ _ hx => State.haltGroup_only (by decide) hx) _ (Only.refl _ s)

/-- BOOT begins where nothing holds the device in RESET. -/
theorem State.tryBoot_done (s : State) (h1 : s.mode = .reset) (h2 : s.power.rails = true) (h3 : s.power.resetN = true)
    (h4 : s.power.stayReset = false) (h5 : s.power.resetUntil = none) :
    s.tryBoot.mode = .boot ∧ s.tryBoot.get F.modeRecord_CAUSE = s.power.heldCause % 2 ^ 16
      ∧ s.tryBoot.power = s.power := by
  have e : s.tryBoot = s.beginBoot s.power.heldCause := by
    unfold State.tryBoot
    rw [if_pos]
    simp [h1, h2, h3, h4, h5]
  rw [e]
  refine ⟨(State.enterMode_done _ _ _).1, (State.enterMode_done _ _ _).2.2.2.1, ?_⟩
  exact (State.beginBoot_only (List.Subset.refl _) (Only.refl _ s)) .power (by decide)

theorem bitList_mem (x n i : Nat) (h : i < n) (hb : x.testBit i = true) : i ∈ bitList x n := by
  unfold bitList
  simp only [List.mem_filter, List.mem_range, h, true_and, bit, bits, Nat.shiftRight_eq_div_pow]
  simpa [Nat.testBit_eq_decide_div_mod_eq] using hb

/-- The readout is the same where its parts are. -/
theorem readout_of_only {ps : List Part} {a b : State} (o : Only ps a b) (p1 : Part.acq ∉ ps) (p2 : Part.bins ∉ ps)
    (p3 : Part.weights ∉ ps) (p4 : Part.readout ∉ ps) : b.readout = a.readout := by
  have q1 := o .acq p1
  have q2 := o .bins p2
  obtain ⟨q3, q3'⟩ := o .weights p3
  have q4 := o .readout p4
  change _ = _ at q1 q2 q4
  generalize a.readout = x at *
  generalize b.readout = y at *
  cases x; cases y
  simp only at q1 q2 q3 q3'
  subst q1 q2 q3 q3'
  simpa using q4

/-- Entry to SAFE leaves every field alone that it does not name. -/
theorem State.enterSafe_field (s : State) (cause : Nat) (f : Field) (hp : Part.image f.record ∉ safeParts)
    (h : ∀ g ∈ F.modeRecord_SAFE_ENTRIES :: modeChangeFields,
      f.record = g.record → f.lo + f.width ≤ g.lo ∨ g.lo + g.width ≤ f.lo) :
    (s.enterSafe cause).get f 0 = s.get f 0 := by
  have rep : (s.report 37 false 0xFFF cause).get f 0 = s.get f 0 :=
    (State.report_only (ps := safeParts) (by decide) (Only.refl _ s)).get hp 0
  by_cases hs : s.mode = .safe
  · have e : s.enterSafe cause = s.report 37 false 0xFFF cause := by
      unfold State.enterSafe
      extract_lets v1 v2 v3 p1 v5 v6 v7 p2 v9 v10 v11
      have hm : v1.mode = s.mode := (State.report_only (List.Subset.refl _) (Only.refl _ s)) .mode (by decide)
      exact if_pos (hm.trans hs)
    rw [e]; exact rep
  · obtain ⟨u, ho, hk, e⟩ := State.enterSafe_split s cause hs
    rw [e, (State.finishAll_only (ps := safeParts) (by decide) (Only.refl _ _)).get hp 0,
      State.enterMode_get _ _ _ _ (fun g hg => h g (List.mem_cons_of_mem _ hg))]
    unfold State.count
    rw [State.get_put_other _ (h _ (List.mem_cons_self ..)), ho.get hp]

theorem State.enterSafe_flag (s : State) (cause : Nat) (f : Field) (hp : Part.image f.record ∉ safeParts)
    (h : ∀ g ∈ F.modeRecord_SAFE_ENTRIES :: modeChangeFields,
      f.record = g.record → f.lo + f.width ≤ g.lo ∨ g.lo + g.width ≤ f.lo) :
    (s.enterSafe cause).flag f 0 = s.flag f 0 := by
  unfold State.flag; rw [State.enterSafe_field s cause f hp h]

theorem acq_of_only {ps : List Part} {s t : State} (h : Only ps s t) (hp : Part.acq ∉ ps) (n : Nat) :
    t.acq n = s.acq n := by
  unfold State.acq
  rw [show t.readout.acq = s.readout.acq from h .acq hp]

theorem tile_of_only {ps : List Part} {s t : State} (h : Only ps s t) (hp : Part.runs ∉ ps) (n : Nat) :
    t.tile n = s.tile n := by
  unfold State.tile
  rw [(h .runs hp).1]

theorem group_of_only {ps : List Part} {s t : State} (h : Only ps s t) (hp : Part.runs ∉ ps) (n : Nat) :
    t.group n = s.group n := by
  unfold State.group
  rw [(h .runs hp).2]

theorem tone_of_only {ps : List Part} {s t : State} (h : Only ps s t) (hp : Part.drive ∉ ps) (n : Nat) :
    t.tone n = s.tone n := by
  unfold State.tone
  rw [show t.drive = s.drive from h .drive hp]

theorem biasOf_of_only {ps : List Part} {s t : State} (h : Only ps s t) (hp : Part.bias ∉ ps) (n : Nat) :
    t.biasOf n = s.biasOf n := by
  unfold State.biasOf
  rw [show t.bias = s.bias from h .bias hp]

theorem engine_of_only {ps : List Part} {s t : State} (h : Only ps s t) (hp : Part.engines ∉ ps) (n : Nat) :
    t.engine n = s.engine n := by
  unfold State.engine
  rw [show t.engines = s.engines from h .engines hp]

theorem port_of_only {ps : List Part} {s t : State} (h : Only ps s t) (hp : Part.ports ∉ ps) (n : Nat) :
    t.port n = s.port n := by
  unfold State.port
  rw [show t.ports = s.ports from h .ports hp]

theorem si_of_only {ps : List Part} {s t : State} (h : Only ps s t) (hp : Part.si ∉ ps) : t.si = s.si := by
  unfold State.si
  rw [show t.clock.si = s.clock.si from h .si hp]

theorem inRun_of_only {ps : List Part} {s t : State} (h : Only ps s t) (hp : Part.runs ∉ ps) (n : Nat) :
    t.inRun n = s.inRun n := by
  unfold State.inRun
  rw [tile_of_only h hp]

end Machine

end Sys2Proof
end

