-- ==== Sys2Proof/Laws/Blocks.lean ====
section
/-! SUPPORT. What the library and the stream store hold after writes of rows and blocks. -/

namespace Sys2Proof

open Machine

namespace Machine

theorem slice_length (b : List Byte) (off n : Nat) : (slice b off n).length = n := by
  unfold slice
  simp only [List.length_append, List.length_take, List.length_drop, zeros, List.length_replicate]
  omega

/-- The values just written, read back. -/
theorem SMap.readAll_writeAll {α : Type} [DecidableEq α] (m : SMap α) (d : α) (k : Nat) (vs : List α) {n : Nat}
    (h : vs.length = n) : (m.writeAll d k vs).readAll d k n = vs := by
  unfold SMap.readAll
  refine List.ext_getElem (by simp [h]) fun i h1 h2 => ?_
  simp only [List.getElem_map, List.getElem_range]
  exact SMap.read_writeAll vs m d k i h2

/-- Values beside those written. -/
theorem SMap.readAll_writeAll_ne {α : Type} [DecidableEq α] (m : SMap α) (d : α) {k j n : Nat} (vs : List α)
    (h : j + n ≤ k ∨ k + vs.length ≤ j) : (m.writeAll d k vs).readAll d j n = m.readAll d j n := by
  unfold SMap.readAll
  refine List.map_congr_left fun i hi => ?_
  have := List.mem_range.mp hi
  exact SMap.read_writeAll_ne vs m d (by omega)

/-! ### Retirement -/

/-- A row whose block is remapped to a spare row. -/
theorem State.remapRow_spare (s : State) (t row : Nat) (h : s.get F.libStatus_SPARES_LEFT t ≠ 0) :
    (s.remapRow t row).get F.libStatus_SPARES_LEFT t = s.get F.libStatus_SPARES_LEFT t - 1
      ∧ 16384 * t + row ∈ (s.remapRow t row).memory.libPoison ∧ 16384 * t + row ∈ (s.remapRow t row).flash.libRetired
      ∧ (s.remapRow t row).memory.lib = s.memory.lib := by
  generalize hk : 16384 * t + row = k
  have key : ∀ d : State, d.get F.libStatus_SPARES_LEFT t = s.get F.libStatus_SPARES_LEFT t → k ∈ d.flash.libRetired →
      d.memory = s.memory → ∀ u, u = (if d.get F.libStatus_SPARES_LEFT t = 0 then
        d.setMemory { d.memory with libUnusable :=
          if d.memory.libUnusable.contains k then d.memory.libUnusable else d.memory.libUnusable ++ [k] }
      else (d.put F.libStatus_SPARES_LEFT t (d.get F.libStatus_SPARES_LEFT t - 1)).setMemory { d.memory with
          libPoison := if d.memory.libPoison.contains k then d.memory.libPoison else d.memory.libPoison ++ [k] }) →
      u.get F.libStatus_SPARES_LEFT t = s.get F.libStatus_SPARES_LEFT t - 1 ∧ k ∈ u.memory.libPoison
        ∧ k ∈ u.flash.libRetired ∧ u.memory.lib = s.memory.lib := by
    rintro d hd hf hm u rfl
    rw [if_neg (by rw [hd]; exact h)]
    refine ⟨?_, mem_addOnce k _, hf, by rw [← hm]; rfl⟩
    refine (State.get_congr (s := d.put F.libStatus_SPARES_LEFT t _) rfl _ _).trans ?_
    rw [hd]
    refine State.get_put_of_lt _ _ _ ?_
    have := State.get_lt s F.libStatus_SPARES_LEFT t
    omega
  refine key { s with flash := { s.flash with
    libRetired := if s.flash.libRetired.contains k then s.flash.libRetired else s.flash.libRetired ++ [k] } }
    (State.get_congr rfl _ _) (mem_addOnce k _) rfl _ ?_
  subst hk
  rfl

/-- A row whose block is retired to a spare row: its own bytes are open, every other byte of the library stays. -/
theorem State.retireRow_spare (s : State) (t row : Nat) (h : s.get F.libStatus_SPARES_LEFT t ≠ 0) :
    (s.retireRow t row).get F.libStatus_SPARES_LEFT t = s.get F.libStatus_SPARES_LEFT t - 1
      ∧ 16384 * t + row ∈ (s.retireRow t row).memory.libPoison ∧ 16384 * t + row ∈ (s.retireRow t row).flash.libRetired
      ∧ (∀ a, (a < 2 ^ 22 * t + 256 * row ∨ 2 ^ 22 * t + 256 * row + 256 ≤ a) →
        (s.retireRow t row).memory.lib.read 0 a = s.memory.lib.read 0 a) := by
  unfold State.retireRow
  have hb : (s.blurRow t row).get F.libStatus_SPARES_LEFT t = s.get F.libStatus_SPARES_LEFT t := State.get_congr rfl _ _
  have hl : ∀ a, (a < 2 ^ 22 * t + 256 * row ∨ 2 ^ 22 * t + 256 * row + 256 ≤ a) →
      (s.blurRow t row).memory.lib.read 0 a = s.memory.lib.read 0 a := fun a ha => by
    unfold State.blurRow
    dsimp only
    generalize hv : (List.range 256).map (fun i => Config.freeByte (s.freeCount + i)) = vs
    have hn : vs.length = 256 := by rw [← hv, List.length_map, List.length_range]
    generalize 2 ^ 22 * t + 256 * row = k at ha ⊢
    exact SMap.read_writeAll_ne _ _ _ (by rw [hn]; exact ha)
  generalize s.blurRow t row = b at hb hl ⊢
  obtain ⟨h1, h2, h3, h4⟩ := b.remapRow_spare t row (by rw [hb]; exact h)
  exact ⟨by rw [h1, hb], h2, h3, fun a ha => by rw [h4]; exact hl a ha⟩

/-- A page that is retired to a spare page. -/
theorem State.retirePage_spare (s : State) (page : Nat) (h : s.get F.storeStatus_SPARES_LEFT ≠ 0) :
    (s.retirePage page).get F.storeStatus_SPARES_LEFT = s.get F.storeStatus_SPARES_LEFT - 1
      ∧ (s.retirePage page).memory.pagePoison.find page = some [] ∧ page ∈ (s.retirePage page).flash.pagesRetired
      ∧ (s.retirePage page).memory.store = s.memory.store := by
  have key : ∀ d : State, d.get F.storeStatus_SPARES_LEFT = s.get F.storeStatus_SPARES_LEFT →
      page ∈ d.flash.pagesRetired → d.memory = s.memory →
      ∀ u v, u = (d.put F.storeStatus_SPARES_LEFT 0 (d.get F.storeStatus_SPARES_LEFT - 1)).raise 913 →
      v = (if d.get F.storeStatus_SPARES_LEFT = 0 then
        d.setMemory { d.memory with pageUnusable :=
          if d.memory.pageUnusable.contains page then d.memory.pageUnusable else d.memory.pageUnusable ++ [page] }
      else u.setMemory { u.memory with pagePoison := u.memory.pagePoison.list page [] }) →
      v.get F.storeStatus_SPARES_LEFT = s.get F.storeStatus_SPARES_LEFT - 1
        ∧ v.memory.pagePoison.find page = some [] ∧ page ∈ v.flash.pagesRetired
        ∧ v.memory.store = s.memory.store := by
    rintro d hd hf hm u v hu rfl
    have h1 : u.get F.storeStatus_SPARES_LEFT = s.get F.storeStatus_SPARES_LEFT - 1 := by
      rw [hu, (State.raise_only (List.Subset.refl _) (Only.refl _ _)).get (by decide), hd]
      refine State.get_put_of_lt _ _ _ ?_
      have := State.get_lt s F.storeStatus_SPARES_LEFT 0
      omega
    have h2 : u.flash = d.flash := by
      rw [hu]
      rfl
    have h3 : u.memory = d.memory := by
      rw [hu]
      rfl
    clear hu
    rw [if_neg (by rw [hd]; exact h)]
    refine ⟨(State.get_congr (s := u) rfl _ _).trans h1, SMap.find_list _ _ _, ?_, ?_⟩
    · rw [← h2] at hf
      exact hf
    · rw [← hm, ← h3]
      rfl
  exact key { s with flash := { s.flash with
    pagesRetired := if s.flash.pagesRetired.contains page then s.flash.pagesRetired
      else s.flash.pagesRetired ++ [page] } } (State.get_congr rfl _ _) (mem_addOnce page _) rfl _ _ rfl rfl

/-! ### Residency leaves the memories alone -/

theorem State.evict_memory (s : State) (t : Nat) (p : Segment → Bool) : (s.evict t p).memory = s.memory := rfl
theorem State.libRow_evict (s : State) (t k row : Nat) (p : Segment → Bool) : (s.evict t p).libRow k row = s.libRow k row := rfl
theorem State.libRowSeal_evict (s : State) (t k row : Nat) (p : Segment → Bool) :
    (s.evict t p).libRowSeal k row = s.libRowSeal k row := rfl

/-! ### Library rows -/

theorem State.libRow_writeRow (s : State) (t row : Nat) (data : List Byte) (w : Nat) (h : data.length = 256) :
    (s.writeRow t row data w).libRow t row = data := SMap.readAll_writeAll _ _ _ _ h

theorem State.lib_writeRow_ne (s : State) (t row : Nat) (data : List Byte) (w : Nat) (h : data.length = 256) {a : Nat}
    (ha : a < 2 ^ 22 * t + 256 * row ∨ 2 ^ 22 * t + 256 * row + 256 ≤ a) :
    (s.writeRow t row data w).memory.lib.read 0 a = s.memory.lib.read 0 a :=
  SMap.read_writeAll_ne _ _ _ (by rw [h]; exact ha)

/-- Bytes beside the rows written. -/
theorem State.lib_writeRows_ne : ∀ (bs : List (List Byte × Nat)) (s : State) (t row : Nat),
    (∀ b ∈ bs, b.1.length = 256) → ∀ {a : Nat},
    (a < 2 ^ 22 * t + 256 * row ∨ 2 ^ 22 * t + 256 * (row + bs.length) ≤ a) →
    (s.writeRows t row bs).memory.lib.read 0 a = s.memory.lib.read 0 a
  | [], _, _, _, _, _, _ => rfl
  | b :: bs, s, t, row, hb, a, ha => by
    rw [State.writeRows]
    simp only [List.length_cons] at ha
    refine (State.lib_writeRows_ne bs _ t (row + 1) (fun x hx => hb x (List.mem_cons_of_mem _ hx)) (by omega)).trans ?_
    refine State.lib_writeRow_ne s t row b.1 b.2 (hb b (List.mem_cons_self ..)) ?_
    generalize 2 ^ 22 * t = base at ha ⊢
    rcases ha with ha | ha
    · exact .inl ha
    · refine .inr (Nat.le_trans ?_ ha)
      rw [Nat.mul_add, Nat.mul_add, Nat.mul_one, Nat.add_assoc]
      exact Nat.add_le_add_left (Nat.add_le_add_left (Nat.le_add_left _ _) _) _

/-- Seals beside those of the rows written. -/
theorem State.libSeal_writeRows_ne : ∀ (bs : List (List Byte × Nat)) (s : State) (t row : Nat) {k : Nat},
    (k < 16384 * t + row ∨ 16384 * t + row + bs.length ≤ k) →
    (s.writeRows t row bs).memory.libSeal.read zeroSeal k = s.memory.libSeal.read zeroSeal k
  | [], _, _, _, _, _ => rfl
  | b :: bs, s, t, row, k, hk => by
    rw [State.writeRows]
    simp only [List.length_cons] at hk
    rw [State.libSeal_writeRows_ne bs _ t (row + 1) (by omega)]
    exact SMap.read_write_ne _ _ _ _ (by omega)

/-- Each row written holds its block and carries its seal. -/
theorem State.writeRows_row : ∀ (bs : List (List Byte × Nat)) (s : State) (t row : Nat),
    (∀ b ∈ bs, b.1.length = 256) → ∀ (i : Nat) (hi : i < bs.length),
    (s.writeRows t row bs).libRow t (row + i) = bs[i].1 ∧ (s.writeRows t row bs).libRowSeal t (row + i) = bs[i].2
  | [], _, _, _, _, i, hi => absurd hi (by simp)
  | b :: bs, s, t, row, hb, i, hi => by
    rw [State.writeRows]
    cases i with
    | zero =>
      have h1 : ((s.writeRow t row b.1 b.2).writeRows t (row + 1) bs).libRow t row = (s.writeRow t row b.1 b.2).libRow t row := by
        unfold State.libRow SMap.readAll
        refine List.map_congr_left fun j hj => ?_
        have := List.mem_range.mp hj
        exact State.lib_writeRows_ne bs _ t (row + 1) (fun x hx => hb x (List.mem_cons_of_mem _ hx)) (by omega)
      have h2 : ((s.writeRow t row b.1 b.2).writeRows t (row + 1) bs).libRowSeal t row = b.2 := by
        unfold State.libRowSeal
        rw [State.libSeal_writeRows_ne bs _ t (row + 1) (by omega)]
        exact SMap.read_write_self _ _ _ _
      exact ⟨h1.trans (State.libRow_writeRow _ _ _ _ _ (hb b (List.mem_cons_self ..))), h2⟩
    | succ i =>
      have := State.writeRows_row bs (s.writeRow t row b.1 b.2) t (row + 1)
        (fun x hx => hb x (List.mem_cons_of_mem _ hx)) i (by simpa using hi)
      rw [show row + (i + 1) = row + 1 + i by omega]
      exact this

/-! ### Store blocks -/

theorem State.storeBytes_writeBlock (s : State) (block : Nat) (data : List Byte) (w : Nat) (h : data.length = 256) :
    (s.writeBlock block data w).storeBytes (256 * block) 256 = data := SMap.readAll_writeAll _ _ _ _ h

/-- Bytes of the store beside the blocks written. -/
theorem State.store_writeBlocks_ne : ∀ (bs : List (List Byte)) (s : State) (block : Nat),
    (∀ b ∈ bs, b.length = 256) → ∀ {a : Nat}, (a < 256 * block ∨ 256 * (block + bs.length) ≤ a) →
    (s.writeBlocks block bs).memory.store.read 0 a = s.memory.store.read 0 a
  | [], _, _, _, _, _ => rfl
  | b :: bs, s, block, hb, a, ha => by
    rw [State.writeBlocks]
    simp only [List.length_cons] at ha
    rw [State.store_writeBlocks_ne bs _ (block + 1) (fun x hx => hb x (List.mem_cons_of_mem _ hx)) (by omega)]
    exact SMap.read_writeAll_ne _ _ _ (by rw [hb b (List.mem_cons_self ..)]; omega)

/-- Seals of the store beside those of the blocks written. -/
theorem State.storeSeal_writeBlocks_ne : ∀ (bs : List (List Byte)) (s : State) (block : Nat) {k : Nat},
    (k < block ∨ block + bs.length ≤ k) →
    (s.writeBlocks block bs).memory.storeSeal.read zeroSeal k = s.memory.storeSeal.read zeroSeal k
  | [], _, _, _, _ => rfl
  | b :: bs, s, block, k, hk => by
    rw [State.writeBlocks]
    simp only [List.length_cons] at hk
    rw [State.storeSeal_writeBlocks_ne bs _ (block + 1) (by omega)]
    exact SMap.read_write_ne _ _ _ _ (by omega)

/-- Each block written holds its bytes and carries their seal. -/
theorem State.writeBlocks_block : ∀ (bs : List (List Byte)) (s : State) (block : Nat),
    (∀ b ∈ bs, b.length = 256) → ∀ (i : Nat) (hi : i < bs.length),
    (s.writeBlocks block bs).storeBytes (256 * (block + i)) 256 = bs[i]
      ∧ (s.writeBlocks block bs).storeBlockSeal (block + i) = crc32c bs[i]
  | [], _, _, _, i, hi => absurd hi (by simp)
  | b :: bs, s, block, hb, i, hi => by
    rw [State.writeBlocks]
    cases i with
    | zero =>
      have h1 : ((s.writeBlock block b (crc32c b)).writeBlocks (block + 1) bs).storeBytes (256 * block) 256 =
          (s.writeBlock block b (crc32c b)).storeBytes (256 * block) 256 := by
        unfold State.storeBytes SMap.readAll
        refine List.map_congr_left fun j hj => ?_
        have := List.mem_range.mp hj
        exact State.store_writeBlocks_ne bs _ (block + 1) (fun x hx => hb x (List.mem_cons_of_mem _ hx)) (by omega)
      have h2 : ((s.writeBlock block b (crc32c b)).writeBlocks (block + 1) bs).storeBlockSeal block = crc32c b := by
        unfold State.storeBlockSeal
        rw [State.storeSeal_writeBlocks_ne bs _ (block + 1) (by omega)]
        exact SMap.read_write_self _ _ _ _
      exact ⟨h1.trans (State.storeBytes_writeBlock _ _ _ _ (hb b (List.mem_cons_self ..))), h2⟩
    | succ i =>
      have := State.writeBlocks_block bs (s.writeBlock block b (crc32c b)) (block + 1)
        (fun x hx => hb x (List.mem_cons_of_mem _ hx)) i (by simpa using hi)
      rw [show block + (i + 1) = block + 1 + i by omega]
      exact this

end Machine

end Sys2Proof
end

