-- ==== Sys2Proof/Laws/Raise.lean ====
section
/-! SUPPORT. What a command sends out and what is on its way to the Hatband only grows while the command acts. -/

namespace Sys2Proof

open Machine

/-- Everything sent, and every event under way, in `s` is so in `t`. -/
def Grows (s t : State) : Prop := (∀ o ∈ s.out, o ∈ t.out) ∧ ∀ e ∈ s.hatband.arriving, e ∈ t.hatband.arriving

namespace Grows

theorem refl (s : State) : Grows s s := ⟨fun _ h => h, fun _ h => h⟩

theorem trans {s t u : State} (h : Grows s t) (g : Grows t u) : Grows s u :=
  ⟨fun o ho => g.1 o (h.1 o ho), fun e he => g.2 e (h.2 e he)⟩

theorem of_eq {s t : State} (h : t.out = s.out) (g : t.hatband.arriving = s.hatband.arriving) : Grows s t :=
  ⟨fun _ ho => h ▸ ho, fun _ he => g ▸ he⟩

theorem of_only {ps : List Part} {s t : State} (h : Only ps s t) (ho : Part.out ∉ ps) (hh : Part.hatband ∉ ps) :
    Grows s t := of_eq (h .out ho) (congrArg Hatband.arriving (h .hatband hh))

theorem foldl {α : Type} {f : State → α → State} (hf : ∀ s x, Grows s (f s x)) :
    ∀ (l : List α) (s : State), Grows s (l.foldl f s)
  | [], s => refl s
  | x :: l, s => (hf s x).trans (foldl hf l (f s x))

theorem emit (s : State) (o : Output) : Grows s (s.emit o) :=
  ⟨fun _ h => List.mem_append_left _ h, fun _ h => h⟩

theorem send (s : State) (o : Output) : Grows s (s.send o) := by
  unfold State.send
  split
  · exact emit s o
  · exact of_eq rfl rfl

theorem raise (s : State) (src p f h : Nat) : Grows s (s.raise src p f h) :=
  ⟨fun _ ho => List.mem_append_left _ ho, fun _ he => List.mem_append_left _ he⟩

theorem signalAll (s : State) : Grows s s.signalAll := foldl (fun s _ => send s _) _ s

theorem report (s : State) (cls : Nat) (l : Bool) (src a b : Nat) : Grows s (s.report cls l src a b) := by
  unfold State.report
  extract_lets first e cs v
  have hv : Grows s v := of_eq rfl rfl
  split
  · exact of_eq rfl rfl
  · refine hv.trans ?_
    unfold State.overflowReport
    split
    · exact of_eq rfl rfl
    · extract_lets was w
      have hw : Grows v w := of_eq rfl rfl
      split
      · exact hw
      · exact hw.trans (raise _ _ _ _ _)

theorem holdover (s : State) : Grows s s.holdover := by
  unfold State.holdover
  extract_lets a v
  have hv : Grows s v := by
    have h : Grows s (s.putFlag F.timeStatus_LOCKED 0 false) :=
      of_only (State.putFlag_only (ps := [.image .timeStatus]) (by decide) (Only.refl _ s)) (by decide) (by decide)
    exact h.trans (of_eq rfl rfl)
  clear_value v
  split
  · exact hv
  · exact hv.trans ((of_only (State.putFlag_only (ps := [.image .timeStatus]) (by decide) (Only.refl _ v)) (by decide)
      (by decide)).trans ((raise _ _ _ _ _).trans (report _ _ _ _ _ _)))

end Grows

/-- A source that is raised. -/
theorem Raised.raise {s t : State} (src p f : Nat) :
    Raised s (t.raise src p f) src p f :=
  ⟨List.mem_append_right _ (List.mem_singleton_self _), fun _ hc =>
    List.mem_append_right _ (List.mem_map_of_mem (f := fun c => (⟨c, src, p, f, 0, 1, false⟩ : Event)) hc)⟩

theorem Raised.grow {s t u : State} {src p f : Nat} (h : Raised s t src p f) (g : Grows t u) : Raised s u src p f :=
  ⟨g.1 _ h.1, fun c hc => g.2 _ (h.2 c hc)⟩

/-- A report counts its class. -/
theorem Machine.State.report_counters (s : State) (cls : Nat) (l : Bool) (src a b : Nat) :
    (s.report cls l src a b).log.counters = s.log.counters.update 0 cls fun n => satAdd n 1 32 := by
  unfold State.report
  extract_lets first e cs v
  have hv : v.log.counters = s.log.counters.update 0 cls fun n => satAdd n 1 32 := rfl
  split
  · exact hv
  · unfold State.overflowReport
    split
    · rename_i l h
      rw [← hv]
      unfold Log.coalesce at h
      dsimp only at h
      split at h
      · cases h
      · cases h; rfl
    · extract_lets was w
      split
      · exact hv
      · exact hv

/-- A fault that is reported. -/
theorem Reported.report {s t : State} (cls : Nat) (l : Bool) (src a b : Nat) (h : t.log.counters = s.log.counters) :
    Reported s (t.report cls l src a b) cls := by
  unfold Reported
  rw [State.report_counters, h]
  exact SMap.read_write_self _ _ _ _

theorem Reported.congr {s t u : State} {cls : Nat} (h : Reported s t cls) (e : u.log.counters = t.log.counters) :
    Reported s u cls := by
  unfold Reported
  rw [e]
  exact h

theorem Reported.only {ps : List Part} {s t u : State} {cls : Nat} (h : Reported s t cls) (o : Only ps t u)
    (hp : Part.log ∉ ps) : Reported s u cls := h.congr (congrArg Log.counters (o .log hp))

end Sys2Proof
end

