-- ==== Sys2Proof/Laws/Chunk.lean ====
section
/-! SUPPORT. Chunks formed, and bytes and words cut from a payload. -/

namespace Sys2Proof

open Machine

theorem Machine.State.dropChunk_seq (s : State) (k t b kind tile : Nat) :
    (s.dropChunk k t b).chunkSeq kind tile = s.chunkSeq kind tile := by
  unfold State.dropChunk
  split
  · extract_lets v x w
    have h1 : v.chunkSeq kind tile = s.chunkSeq kind tile := rfl
    have h2 : w.chunkSeq kind tile = s.chunkSeq kind tile := by
      unfold w
      split
      · exact h1
      · exact h1
    clear h1
    clear_value w
    unfold State.chunkSeq at h2 ⊢
    rw [(State.report_only (List.Subset.refl _) (Only.refl _ w)) .capture (by decide)]
    exact h2
  · unfold State.chunkSeq
    rw [(State.report_only (List.Subset.refl _) (Only.refl _ _)) .capture (by decide)]
    rfl

/-- A chunk formed where nothing that it depends on has changed. -/
theorem Formed.form {s u : State} (h : ChunkHead) (data : List Byte) {n : Nat} (hn : n = 256 * (h.blocks + 1))
    (hc : u.capture = s.capture) (h1 : ∀ f : Field, f.record = .capControl ∨ f.record = .capStatus → u.get f = s.get f)
    (ho : u.storeOpen = s.storeOpen) : Formed s (u.formChunk h data) h.kind h.tile n := by
  intro hz
  unfold State.formChunk
  rw [if_neg (by rw [h1 _ (.inl rfl)]; exact hz)]
  extract_lets q y v c z
  have hq : q = s.chunkSeq h.kind h.tile := by
    unfold q State.chunkSeq
    rw [hc]
  have hv : v.chunkSeq h.kind h.tile = (s.chunkSeq h.kind h.tile + 1) % 2 ^ 32 := by
    rw [← hq]
    exact SMap.read_write_self _ _ _ _
  have hs : v.capture.staging = s.capture.staging := by
    show u.capture.staging = _
    rw [hc]
  have hf : v.chunkFits h.kind (256 * (h.blocks + 1)) = s.chunkFits h.kind n := by
    have a : ∀ f : Field, f.record = .capControl ∨ f.record = .capStatus → v.get f = s.get f := fun f hf => h1 f hf
    have b : v.storeOpen = s.storeOpen := ho
    clear_value v
    unfold State.chunkFits State.capFree State.capSize State.stagedBytes State.flag
    rw [hs, b, hn, a _ (.inl rfl), a _ (.inl rfl), a _ (.inr rfl), a _ (.inr rfl), a _ (.inr rfl)]
  clear_value v
  split
  · refine ⟨hv, fun _ => ⟨c, ?_, rfl, rfl, hq⟩⟩
    show v.capture.staging ++ [c] = _
    rw [hs]
  · rename_i hh
    have ho := State.endSnapBusy_only (kind := h.kind) (tile := h.tile) (List.Subset.refl _)
      (Only.refl _ (v.dropChunk h.kind h.tile h.shot))
    refine ⟨?_, fun h' => absurd (hf.trans h') hh⟩
    have e : ((v.dropChunk h.kind h.tile h.shot).endSnapBusy h.kind h.tile).chunkSeq h.kind h.tile =
        (v.dropChunk h.kind h.tile h.shot).chunkSeq h.kind h.tile := by
      unfold State.chunkSeq
      rw [ho .capture (by decide)]
    exact e.trans ((State.dropChunk_seq _ _ _ _ _ _).trans hv)

/-- A slice, byte by byte. -/
theorem Machine.slice_getD (b : List Byte) (off n k : Nat) (h : k < n) :
    (slice b off n).getD k 0 = b.getD (off + k) 0 := by
  unfold slice
  dsimp only
  simp only [List.getD_eq_getElem?_getD]
  by_cases hk : off + k < b.length
  · rw [List.getElem?_append_left (by simp; omega), List.getElem?_take, if_pos h, List.getElem?_drop]
  · rw [List.getElem?_append_right (by simp; omega), List.getElem?_eq_none (l := b) (by omega)]
    unfold zeros
    rw [List.getElem?_replicate]
    split <;> rfl

/-- A word of a slice. -/
theorem Machine.le_slice (b : List Byte) (off n : Nat) : ∀ (len k : Nat), k + len ≤ n →
    le (slice b off n) k len = le b (off + k) len
  | 0, _, _ => rfl
  | len + 1, k, h => by
    unfold le
    rw [slice_getD b off n k (by omega), le_slice b off n len (k + 1) (by omega)]
    rfl

/-- A list of equal pieces, joined: where each entry stands. -/
theorem Machine.flatMap_getElem {α β : Type} (f : α → List β) (n : Nat) (hn : 0 < n) : ∀ (l : List α),
    (∀ x ∈ l, (f x).length = n) → ∀ k (hk : k / n < l.length),
      (l.flatMap f)[k]? = (f (l[k / n]'hk))[k % n]?
  | [], _, k, hk => absurd hk (by simp)
  | x :: l, h, k, hk => by
    rw [List.flatMap_cons]
    have hx : (f x).length = n := h x (List.mem_cons_self ..)
    by_cases e : k < n
    · rw [List.getElem?_append_left (by omega)]
      simp only [Nat.div_eq_of_lt e, Nat.mod_eq_of_lt e]
      rfl
    · obtain ⟨j, rfl⟩ : ∃ j, k = j + n := ⟨k - n, by omega⟩
      have hj : (j + n) / n = j / n + 1 := Nat.add_div_right j hn
      have hl : j / n < l.length := by
        rw [hj] at hk
        simpa using hk
      rw [List.getElem?_append_right (by omega), hx, Nat.add_sub_cancel, flatMap_getElem f n hn l
        (fun y hy => h y (List.mem_cons_of_mem _ hy)) j hl, Nat.add_mod_right]
      simp only [hj]
      rfl

end Sys2Proof
end

