-- ==== Sys2Proof/Laws/Shots.lean ====
section
/-! SUPPORT. What it does to the tiles that a shot is voided. -/

namespace Sys2Proof

open Machine

/-- From `s` to `t` tiles have at most been marked VOID, and groups have at most counted a voided shot. -/
def Voids (s t : State) : Prop :=
  (∀ u, ∃ v, t.tile u = { s.tile u with voided := v } ∧ ((s.tile u).voided = true → v = true))
    ∧ ∀ g, ∃ v n, t.group g = { s.group g with shotVoid := v, voided := n } ∧ ((s.group g).shotVoid = true → v = true)

namespace Voids

theorem refl (s : State) : Voids s s :=
  ⟨fun u => ⟨(s.tile u).voided, rfl, id⟩, fun g => ⟨(s.group g).shotVoid, (s.group g).voided, rfl, id⟩⟩

theorem trans {s t u : State} (h : Voids s t) (k : Voids t u) : Voids s u := by
  refine ⟨fun i => ?_, fun g => ?_⟩
  · obtain ⟨v, h1, h2⟩ := h.1 i
    obtain ⟨w, k1, k2⟩ := k.1 i
    refine ⟨w, ?_, fun hs => k2 (by rw [h1]; exact h2 hs)⟩
    rw [k1, h1]
  · obtain ⟨v, n, h1, h2⟩ := h.2 g
    obtain ⟨w, p, k1, k2⟩ := k.2 g
    refine ⟨w, p, ?_, fun hs => k2 (by rw [h1]; exact h2 hs)⟩
    rw [k1, h1]

theorem foldl {α : Type} {f : State → α → State} (hf : ∀ s x, Voids s (f s x)) :
    ∀ (l : List α) (s : State), Voids s (l.foldl f s)
  | [], s => refl s
  | x :: l, s => (hf s x).trans (foldl hf l (f s x))

/-- An operation that leaves runs alone. -/
theorem of_only {ps : List Part} {s t : State} (h : Only ps s t) (hp : Part.runs ∉ ps) : Voids s t := by
  obtain ⟨h1, h2⟩ := h .runs hp
  have a : ∀ u, t.tile u = s.tile u := fun u => by unfold State.tile; rw [h1]
  have b : ∀ g, t.group g = s.group g := fun g => by unfold State.group; rw [h2]
  exact ⟨fun u => ⟨_, a u, id⟩, fun g => ⟨_, _, b g, id⟩⟩

theorem voided {s t : State} (h : Voids s t) {u : Nat} (hu : (s.tile u).voided = true) : (t.tile u).voided = true := by
  obtain ⟨v, h1, h2⟩ := h.1 u
  rw [h1]
  exact h2 hu

theorem group {s t : State} (h : Voids s t) (u : Nat) : (t.tile u).group = (s.tile u).group := by
  obtain ⟨v, h1, h2⟩ := h.1 u
  rw [h1]

theorem inShot {s t : State} (h : Voids s t) (u : Nat) : (t.tile u).inShot = (s.tile u).inShot := by
  obtain ⟨v, h1, h2⟩ := h.1 u
  rw [h1]

theorem prepared {s t : State} (h : Voids s t) (u : Nat) : (t.tile u).prepared = (s.tile u).prepared := by
  obtain ⟨v, h1, h2⟩ := h.1 u
  rw [h1]

theorem members {s t : State} (h : Voids s t) (g : Nat) : t.members g = s.members g := by
  obtain ⟨v, n, h1, h2⟩ := h.2 g
  unfold State.members
  rw [h1]

theorem shotOn {s t : State} (h : Voids s t) (g : Nat) : (t.group g).inShot = (s.group g).inShot := by
  obtain ⟨v, n, h1, h2⟩ := h.2 g
  rw [h1]

theorem shotVoid {s t : State} (h : Voids s t) {g : Nat} (hg : (s.group g).shotVoid = true) :
    (t.group g).shotVoid = true := by
  obtain ⟨v, n, h1, h2⟩ := h.2 g
  rw [h1]
  exact h2 hg

end Voids

/-- A tile of a run marks its shot VOID. -/
theorem Machine.State.voidTile_done (s : State) (t : Nat) :
    Voids s (s.voidTile t) ∧ ((s.tile t).group.isSome = true → ((s.voidTile t).tile t).voided = true) := by
  unfold State.voidTile
  extract_lets r a shot v shots
  split
  · rename_i h
    refine ⟨Voids.refl s, fun hg => ?_⟩
    rcases h with h | h
    · exact h
    · rw [show r = s.tile t from rfl, ← Option.not_isSome, hg] at h
      exact absurd h (by decide)
  · have ht : ∀ u, ((v.setAcq t { a with shots }).count F.runStatus_VOID_SHOTS t).tile u =
        (s.setTile t { r with voided := true }).tile u := fun u => rfl
    refine ⟨⟨fun u => ?_, fun g => ⟨_, _, rfl, id⟩⟩, fun _ => ?_⟩
    · rw [ht]
      by_cases e : u = t
      · subst e
        exact ⟨true, State.tile_setTile _ _ _, fun _ => rfl⟩
      · exact ⟨_, State.tile_setTile_ne _ _ e, id⟩
    · rw [ht, State.tile_setTile]

/-- A voided shot of a group is void for each of its tiles (R36, R205). -/
theorem Machine.State.voidShot_done (s : State) (t : Nat) : Voids s (s.voidShot t)
    ∧ ∀ g, (s.tile t).group = some g → ((s.group g).inShot = true ∨ (s.tile t).prepared = true) →
      ((s.voidShot t).group g).shotVoid = true
        ∧ ∀ u ∈ s.members g, (s.tile u).group.isSome = true → ((s.voidShot t).tile u).voided = true := by
  unfold State.voidShot
  cases hg : (s.tile t).group with
  | none => exact ⟨Voids.refl s, fun g h => absurd h (by simp)⟩
  | some g =>
    dsimp only
    by_cases hc : (!(s.group g).inShot && !(s.tile t).prepared) = true
    · rw [if_pos hc]
      refine ⟨Voids.refl s, fun g' e h => ?_⟩
      cases e
      rcases h with h | h <;> rw [h] at hc <;> simp at hc
    · rw [if_neg hc]
      obtain ⟨u, hu⟩ : ∃ u, u = (if (s.group g).shotVoid = true then s
          else s.setGroup g { s.group g with
            shotVoid := true
            voided := (s.group g).voided + 1 }) := ⟨_, rfl⟩
      have h1 : Voids s u ∧ (u.group g).shotVoid = true := by
        rw [hu]
        split
        · rename_i h
          exact ⟨Voids.refl s, h⟩
        · refine ⟨⟨fun i => ⟨_, rfl, id⟩, fun j => ?_⟩, ?_⟩
          · by_cases e : j = g
            · subst e
              exact ⟨true, _, State.group_setGroup _ _ _, fun _ => rfl⟩
            · exact ⟨_, _, State.group_setGroup_ne _ _ e, id⟩
          · rw [State.group_setGroup]
      rw [← hu]
      clear hu
      have all : ∀ (l : List Nat) (v : State), Voids v (l.foldl State.voidTile v)
          ∧ ∀ i ∈ l, (v.tile i).group.isSome = true → ((l.foldl State.voidTile v).tile i).voided = true := by
        intro l
        induction l with
        | nil => exact fun v => ⟨Voids.refl v, fun i hi => absurd hi List.not_mem_nil⟩
        | cons a l ih =>
          intro v
          obtain ⟨x1, x2⟩ := State.voidTile_done v a
          obtain ⟨y1, y2⟩ := ih (v.voidTile a)
          refine ⟨x1.trans y1, fun i hi hg => ?_⟩
          rcases List.mem_cons.mp hi with rfl | hi
          · exact y1.voided (x2 hg)
          · exact y2 i hi (by rw [x1.group]; exact hg)
      obtain ⟨k1, k2⟩ := all (u.members g) u
      refine ⟨h1.1.trans k1, fun g' e _ => ?_⟩
      cases e
      exact ⟨k1.shotVoid h1.2, fun i hi hs => k2 i (by rw [h1.1.members]; exact hi)
        (by rw [h1.1.group]; exact hs)⟩

/-- The shot of every tile of a list is void, where its group has one. -/
theorem Machine.State.voidShots_done (p : State → Nat → Bool) (hp : ∀ s t u, Voids s t → p t u = p s u) :
    ∀ (l : List Nat) (s : State), Voids s (l.foldl (fun s t => if p s t then s.voidShot t else s) s)
      ∧ ∀ t ∈ l, p s t = true → ∀ g, (s.tile t).group = some g → (s.group g).inShot = true → t ∈ s.members g →
        ((l.foldl (fun s t => if p s t then s.voidShot t else s) s).tile t).voided = true
  | [], s => ⟨Voids.refl s, fun t ht => absurd ht List.not_mem_nil⟩
  | a :: l, s => by
    rw [List.foldl_cons]
    have h1 : Voids s (if p s a then s.voidShot a else s) := by
      split
      · exact (State.voidShot_done s a).1
      · exact Voids.refl s
    obtain ⟨k1, k2⟩ := Machine.State.voidShots_done p hp l (if p s a then s.voidShot a else s)
    refine ⟨h1.trans k1, fun t ht hpt g hg hi hm => ?_⟩
    rcases List.mem_cons.mp ht with rfl | ht
    · refine k1.voided ?_
      rw [if_pos hpt]
      exact ((State.voidShot_done s t).2 g hg (.inl hi)).2 t hm (by rw [hg]; rfl)
    · exact k2 t ht (by rw [hp s _ t h1]; exact hpt) g (by rw [h1.group]; exact hg) (by rw [h1.shotOn]; exact hi)
        (by rw [h1.members]; exact hm)

end Sys2Proof
end

