-- ==== Sys2Proof/Laws/Runs.lean ====
section
/-! SUPPORT. Operations over the tiles of a group, and runs that end. -/

namespace Sys2Proof

open Machine

theorem Machine.bitList_nodup (x w : Nat) : (bitList x w).Nodup := List.Nodup.filter _ List.nodup_range

theorem Machine.bitList_lt {x w i : Nat} (h : i ∈ bitList x w) : i < w := by
  unfold bitList at h
  simpa using (List.mem_filter.mp h).1

/-- An operation on each part of a list in turn that does something to that part alone: every part of the list has had it
done once. -/
theorem foldl_each {α : Type} (part : State → Nat → α) (f : State → Nat → State) (g : α → α)
    (h1 : ∀ s t, part (f s t) t = g (part s t)) (h2 : ∀ s t u, u ≠ t → part (f s t) u = part s u) :
    ∀ (l : List Nat) (s : State), l.Nodup → (∀ t ∈ l, part (l.foldl f s) t = g (part s t))
      ∧ ∀ u, u ∉ l → part (l.foldl f s) u = part s u
  | [], s, _ => ⟨fun t ht => absurd ht List.not_mem_nil, fun _ _ => rfl⟩
  | a :: l, s, hn => by
    obtain ⟨k1, k2⟩ := foldl_each part f g h1 h2 l (f s a) (List.nodup_cons.mp hn).2
    refine ⟨fun t ht => ?_, fun u hu => ?_⟩
    · rcases List.mem_cons.mp ht with rfl | ht
      · rw [List.foldl_cons, k2 _ (List.nodup_cons.mp hn).1, h1]
      · rw [List.foldl_cons, k1 t ht, h2]
        intro e
        rw [e] at ht
        exact (List.nodup_cons.mp hn).1 ht
    · rw [List.foldl_cons, k2 u (fun h => hu (List.mem_cons_of_mem _ h)), h2]
      rintro rfl
      exact hu (List.mem_cons_self ..)

/-- A property that an operation gives to its own part and takes from none. -/
theorem foldl_gives {P : State → Nat → Prop} {f : State → Nat → State} (h1 : ∀ s t, P (f s t) t)
    (h2 : ∀ s t u, P s u → P (f s t) u) : ∀ (l : List Nat) (s : State), (∀ t ∈ l, P (l.foldl f s) t)
      ∧ ∀ u, P s u → P (l.foldl f s) u
  | [], s => ⟨fun t ht => absurd ht List.not_mem_nil, fun _ h => h⟩
  | a :: l, s => by
    obtain ⟨k1, k2⟩ := foldl_gives h1 h2 l (f s a)
    refine ⟨fun t ht => ?_, fun u hu => k2 u (h2 s a u hu)⟩
    rcases List.mem_cons.mp ht with rfl | ht
    · exact k2 _ (h1 s _)
    · exact k1 t ht

/-- A field of each record of a list put in turn. -/
theorem get_foldl_put (f : Field) (v : Nat) (l : List Nat) (s : State) (hl : ∀ t ∈ l, t < f.record.place.count)
    {i : Nat} (hi : i ∈ l) : (l.foldl (fun s t => s.put f t v) s).get f i = v % 2 ^ f.width := by
  have h : ∀ (l : List Nat) (s : State), (∀ t ∈ l, t < f.record.place.count) → ∀ i, i < f.record.place.count →
      (i ∈ l → (l.foldl (fun s t => s.put f t v) s).get f i = v % 2 ^ f.width)
        ∧ (s.get f i = v % 2 ^ f.width → (l.foldl (fun s t => s.put f t v) s).get f i = v % 2 ^ f.width) := by
    intro l
    induction l with
    | nil => exact fun s _ i _ => ⟨fun h => absurd h List.not_mem_nil, id⟩
    | cons a l ih =>
      intro s hl i hi
      obtain ⟨k1, k2⟩ := ih (s.put f a v) (fun t ht => hl t (List.mem_cons_of_mem _ ht)) i hi
      have ha := hl a (List.mem_cons_self ..)
      refine ⟨fun h => ?_, fun h => ?_⟩
      · rcases List.mem_cons.mp h with rfl | h
        · exact k2 (State.get_put _ _ _ _)
        · exact k1 h
      · refine k2 ?_
        by_cases e : i = a
        · subst e
          exact State.get_put _ _ _ _
        · rw [State.get_put_index s f f v rfl (by rw [Nat.mod_eq_of_lt hi, Nat.mod_eq_of_lt ha]; exact fun h => e h.symm)]
          exact h
  exact (h l s hl i (hl i hi)).1 hi

/-! ### Runs that end -/

/-- What has been begun of a coming shot is given up for one tile alone. -/
theorem Machine.State.unprepare_tile (s : State) (t : Nat) : ((s.unprepare t).tile t).group = (s.tile t).group
    ∧ ∀ u, u ≠ t → (s.unprepare t).tile u = s.tile u := by
  unfold State.unprepare
  dsimp only
  split
  · exact ⟨rfl, fun _ _ => rfl⟩
  · generalize hv : State.setTile (State.setAcq _ _ _) t _ = v
    have h1 : (v.tile t).group = (s.tile t).group := by
      rw [← hv, State.tile_setTile]
    have h2 : ∀ u, u ≠ t → v.tile u = s.tile u := by
      intro u hu
      rw [← hv, State.tile_setTile_ne _ _ hu]
      have o : Only [.acq, .drive, .bias] s ((biasOfTile t).foldl State.dropOps
          ((List.range 16).foldl (fun s u => (s.silenceTone (16 * t + u)).silenceTone (256 + 16 * t + u)) s)) :=
        Only.foldl (fun _ _ hx => State.dropOps_only (by decide) hx) _ (Only.foldl (fun _ _ hx =>
          State.silenceTone_only (by decide) (State.silenceTone_only (by decide) hx)) _ (Only.refl _ s))
      exact tile_of_only (State.setAcq_only (by decide) o) (by decide) u
    clear hv
    split
    · exact ⟨h1, h2⟩
    · exact ⟨h1, h2⟩

/-- A tile leaves its run, and no other does. -/
theorem Machine.State.leaveRun_tile (s : State) (t : Nat) : ((s.leaveRun t).tile t).group = none
    ∧ ((s.leaveRun t).tile t).inShot = false ∧ ∀ u, u ≠ t → (s.leaveRun t).tile u = s.tile u := by
  unfold State.leaveRun
  extract_lets v1 src v2 v3 dr v4 v4' a v5
  have h1 : ∀ u, u ≠ t → v1.tile u = s.tile u := fun u hu => by
    have o := State.boundary_only (t := t) (cut := 0xFFFFFFFFFFFFFFFF) (List.Subset.refl _) (Only.refl _ (s.unprepare t))
    exact (tile_of_only o (by decide) u).trans ((State.unprepare_tile s t).2 u hu)
  clear_value v1
  have h2 : (v2.tile t).group = none ∧ (v2.tile t).inShot = false ∧ ∀ u, u ≠ t → v2.tile u = s.tile u := by
    unfold v2
    clear_value src
    rw [State.tile_setTile]
    exact ⟨rfl, rfl, fun u hu => (State.tile_setTile_ne _ _ hu).trans (h1 u hu)⟩
  clear_value v2
  have o3 : Only [.image .biasStatus, .bias] v2 v3 := by
    unfold v3
    exact Only.foldl (fun _ _ hx => State.releaseBias_only (by decide) (State.releaseBias_only (by decide) hx)) _
      (Only.refl _ v2)
  clear_value v3
  have o5 : Only [.drive, .acq] v3 v5 :=
    State.setAcq_only (by decide) (State.endLogs_only (by decide) (Only.setDrive (by decide) (Only.refl _ v3)))
  clear_value v5
  have o6 : Only [.image .engineStatus, .engines, .image .runStatus, .bias, .image .biasStatus] v5
      ((((v5.idleEngine t).put F.runStatus_RUN_STATE t 0).stopIfPatch t).parkIdle t) :=
    State.parkIdle_only (by decide) (State.stopIfPatch_only (by decide)
      (State.put_only (by decide) (State.idleEngine_only (by decide) (Only.refl _ v5))))
  have h : ∀ u, ((((v5.idleEngine t).put F.runStatus_RUN_STATE t 0).stopIfPatch t).parkIdle t).tile u = v2.tile u :=
    fun u => by rw [tile_of_only o6 (by decide), tile_of_only o5 (by decide), tile_of_only o3 (by decide)]
  refine ⟨by rw [h]; exact h2.1, by rw [h]; exact h2.2.1, fun u hu => by rw [h]; exact h2.2.2 u hu⟩

/-- The run of a group ends: the group is idle, and its tiles belong to no run. -/
theorem Machine.State.endRun_done (s : State) (g : Nat) : (s.endRun g).group g = { s.group g with
      state := .idle, inShot := false, awaitStart := false, startLatch := none, stopAfter := false, abort := false,
      missing := [], barriers := [] }
    ∧ (∀ t ∈ s.members g, ((s.endRun g).tile t).group = none)
    ∧ ∀ u, u ∉ s.members g → (s.endRun g).tile u = s.tile u := by
  unfold State.endRun
  extract_lets x v w
  have hl := foldl_gives (P := fun s t => (s.tile t).group = none) (f := State.leaveRun)
    (fun s t => (State.leaveRun_tile s t).1) (fun s t u h => by
      by_cases e : u = t
      · subst e
        exact (State.leaveRun_tile s _).1
      · rw [(State.leaveRun_tile s t).2.2 u e]
        exact h) (s.members g) s
  have hn : ∀ (l : List Nat) (s : State) (u : Nat), u ∉ l → (l.foldl State.leaveRun s).tile u = s.tile u := by
    intro l
    induction l with
    | nil => intro s u _; rfl
    | cons a l ih =>
      intro s u hu
      rw [List.foldl_cons, ih _ u (fun h => hu (List.mem_cons_of_mem _ h)),
        (State.leaveRun_tile s a).2.2 u (fun h => hu (h ▸ List.mem_cons_self ..))]
  have hv1 : ∀ t ∈ s.members g, (v.tile t).group = none := hl.1
  have hv2 : ∀ u, u ∉ s.members g → v.tile u = s.tile u := fun u hu => hn _ _ u hu
  have w1 : w.group g = { s.group g with
      state := .idle, inShot := false, awaitStart := false, startLatch := none, stopAfter := false, abort := false,
      missing := [], barriers := [] } := by
    unfold w
    rw [State.group_setGroup]
  have w2 : ∀ u, w.tile u = v.tile u := fun u => rfl
  have o := State.finishAll_only (p := fun w => w = .runStop g) (st := .ok)
    (payload := leBytes (x.seq % 2 ^ 32) 4 ++ leBytes (x.voided % 2 ^ 32) 4) (List.Subset.refl _) (Only.refl _ w)
  refine ⟨(group_of_only o (by decide) g).trans w1, fun t ht => ?_, fun u hu => ?_⟩
  · rw [tile_of_only o (by decide), w2]
    exact hv1 t ht
  · rw [tile_of_only o (by decide), w2]
    exact hv2 u hu

/-! ### Shots that end -/

/-- A pending jump request is discarded. -/
theorem Machine.State.dropJump_done (s : State) (t : Nat) : (s.dropJump t).tile t = { s.tile t with jump := none }
    ∧ (∀ u, u ≠ t → (s.dropJump t).tile u = s.tile u) ∧ Grows s (s.dropJump t)
    ∧ ((s.tile t).jump.isSome = true → (s.dropJump t).get F.runStatus_JUMP_DROP t =
        satAdd (s.get F.runStatus_JUMP_DROP t) 1 F.runStatus_JUMP_DROP.width
      ∧ Raised s (s.dropJump t) (seqSource t 8) 0 0) := by
  unfold State.dropJump
  dsimp only
  cases hj : (s.tile t).jump with
  | none =>
    refine ⟨?_, fun _ _ => rfl, Grows.refl s, fun h => absurd h (by decide)⟩
    dsimp only
    generalize s.tile t = r at hj ⊢
    cases r
    subst hj
    rfl
  | some j =>
    dsimp only
    generalize hv : s.setTile t { s.tile t with jump := none } = v
    have h1 : v.tile t = { s.tile t with jump := none } := by
      rw [← hv, State.tile_setTile]
    have h2 : ∀ u, u ≠ t → v.tile u = s.tile u := fun u hu => by
      rw [← hv, State.tile_setTile_ne _ _ hu]
    have o : Only [.runs] s v := by
      rw [← hv]
      exact State.setTile_only (List.Subset.refl _) (Only.refl _ s)
    clear hv
    have o2 : Only [.image .runStatus] v (v.count F.runStatus_JUMP_DROP t) :=
      State.count_only (List.Subset.refl _) (Only.refl _ v)
    refine ⟨by rw [State.raise_tile, State.count_tile]; exact h1, fun u hu => by
      rw [State.raise_tile, State.count_tile]; exact h2 u hu, ?_, fun _ => ⟨?_, ?_⟩⟩
    · exact (Grows.of_only o (by decide) (by decide)).trans
        ((Grows.of_only o2 (by decide) (by decide)).trans (Grows.raise _ _ _ _ _))
    · rw [State.raise_get, State.get_count, o.get (by decide)]
    · exact Raised.raise _ _ _

/-- The shot of a tile ends at a tick. -/
theorem Machine.State.endTile_done (s : State) (t tick : Nat) : (s.endTile t tick).tile t = { s.tile t with
      jump := none, endTick := some tick, ended := true, chosen := some none, emitAt := none, untilTick := none
      barrier := none }
    ∧ (∀ u, u ≠ t → (s.endTile t tick).tile u = s.tile u)
    ∧ Raised s (s.endTile t tick) (seqSource t 6) 0 0 ∧ Grows s (s.endTile t tick) := by
  unfold State.endTile
  obtain ⟨d1, d2, d3, -⟩ := State.dropJump_done s t
  have d4 : Only [.out, .hatband, .image .runStatus, .runs] s (s.dropJump t) :=
    State.dropJump_only (List.Subset.refl _) (Only.refl _ s)
  generalize s.dropJump t = a at *
  dsimp only
  generalize hb : a.setTile t _ = b
  have b1 : b.tile t = { s.tile t with
      jump := none, endTick := some tick, ended := true, chosen := some none, emitAt := none, untilTick := none
      barrier := none } := by
    rw [← hb, State.tile_setTile, d1]
  have b2 : ∀ u, u ≠ t → b.tile u = s.tile u := fun u hu => by
    rw [← hb, State.tile_setTile_ne _ _ hu]
    exact d2 u hu
  have b3 : Only [.runs] a b := by
    rw [← hb]
    exact State.setTile_only (List.Subset.refl _) (Only.refl _ a)
  clear hb
  generalize hc : State.idleEngine _ t = c
  have o : Only [.acq, .bias, .image .engineStatus, .engines] b c := by
    rw [← hc]
    exact State.idleEngine_only (by decide) (Only.foldl (fun _ _ hx => State.setBias_only (by decide) hx) _
      (State.cutWindows_only (by decide) (Only.refl _ b)))
  clear hc
  have ht : ∀ u, (c.raise (seqSource t 6)).tile u = b.tile u := fun u => by
    rw [State.raise_tile, tile_of_only o (by decide)]
  refine ⟨by rw [ht]; exact b1, fun u hu => by rw [ht]; exact b2 u hu, Raised.raise _ _ _, ?_⟩
  · exact d3.trans ((Grows.of_only b3 (by decide) (by decide)).trans
      ((Grows.of_only o (by decide) (by decide)).trans (Grows.raise _ _ _ _ _)))

/-- A tile that plays or prepares a shot stands down. -/
theorem Machine.State.standDown_done (s : State) (t : Nat) :
    (∀ u, u ≠ t → (s.standDown t).tile u = s.tile u) ∧ Grows s (s.standDown t)
    ∧ ((s.tile t).group.isSome = true → (s.tile t).stoodDown = none → (s.tile t).endTick = none →
      ((s.tile t).inShot = true ∨ (s.tile t).prepared = true) → (s.standDown t).tile t = { s.tile t with
          jump := none, stoodDown := some (s.tick t).toNat, ended := true, emitAt := none, untilTick := none
          barrier := none, chosen := some none, endTick := some (s.tick t).toNat }
        ∧ (s.standDown t).get F.runStatus_RUN_STATE t = 2
        ∧ Raised s (s.standDown t) (seqSource t 6) 0 0) := by
  by_cases hc : ((s.tile t).group.isNone || (s.tile t).stoodDown.isSome || (s.tile t).endTick.isSome
      || !((s.tile t).inShot || (s.tile t).prepared)) = true
  · have e : s.standDown t = s := if_pos hc
    rw [e]
    refine ⟨fun _ _ => rfl, Grows.refl s, fun h1 h2 h3 h4 => absurd hc ?_⟩
    rw [← Option.not_isSome, h1, h2, h3]
    rcases h4 with h4 | h4 <;> rw [h4] <;> simp
  · have key : ∀ b c d f e v : State, b = s.setTile t { s.tile t with
          stoodDown := some (s.tick t).toNat, ended := true, emitAt := none, untilTick := none
          barrier := none, chosen := some none, endTick := some (s.tick t).toNat } →
        c = b.put F.runStatus_RUN_STATE t 2 →
        d = (channelsOfTile t).foldl (fun x c => x.zeroChannel c .standDown x.si) c →
        f = (List.range 16).foldl (fun s u => (s.silenceTone (16 * t + u)).silenceTone (256 + 16 * t + u)) d →
        e = ((biasOfTile t).foldl (fun s n => (s.holdBias n .standDown s.half (some s.si)).dropOps n) f).cutWindows t (s.tick t) →
        v = ((e.dropJump t).idleEngine t).raise (seqSource t 6) →
        (∀ u, u ≠ t → v.tile u = s.tile u) ∧ Grows s v ∧ v.tile t = { s.tile t with
          jump := none, stoodDown := some (s.tick t).toNat, ended := true, emitAt := none, untilTick := none
          barrier := none, chosen := some none, endTick := some (s.tick t).toNat }
        ∧ v.get F.runStatus_RUN_STATE t = 2 ∧ Raised s v (seqSource t 6) 0 0 := by
      intro b c d f e v hb hcc hd hf he hv
      have b1 : b.tile t = { s.tile t with
          stoodDown := some (s.tick t).toNat, ended := true, emitAt := none, untilTick := none
          barrier := none, chosen := some none, endTick := some (s.tick t).toNat } := by
        rw [hb, State.tile_setTile]
      have b2 : ∀ u, u ≠ t → b.tile u = s.tile u := fun u hu => by
        rw [hb, State.tile_setTile_ne _ _ hu]
      have b3 : Only [.runs] s b := by
        rw [hb]
        exact State.setTile_only (List.Subset.refl _) (Only.refl _ s)
      have eo : Only [.drive, .bias, .image .biasStatus, .acq] c e := by
        rw [he, hf, hd]
        refine State.cutWindows_only (by decide) (Only.foldl (fun _ _ hx => State.dropOps_only (by decide)
          (State.holdBias_only (by decide) hx)) _ (Only.foldl (fun _ _ hx => State.silenceTone_only (by decide)
          (State.silenceTone_only (by decide) hx)) _ (Only.foldl (fun _ _ hx =>
          State.zeroChannel_only (by decide) hx) _ (Only.refl _ _))))
      have et : ∀ u, e.tile u = b.tile u := fun u => by
        rw [tile_of_only eo (by decide), hcc, State.put_tile]
      have er : e.get F.runStatus_RUN_STATE t = 2 := by
        rw [eo.get (by decide), hcc]
        exact State.get_put _ _ _ _
      have bo : Only [.image .runStatus] b c := by
        rw [hcc]
        exact State.put_only (List.Subset.refl _) (Only.refl _ b)
      have eg : Grows s e := (Grows.of_only b3 (by decide) (by decide)).trans
        ((Grows.of_only bo (by decide) (by decide)).trans (Grows.of_only eo (by decide) (by decide)))
      clear eo bo b3 hb hcc hd hf he
      obtain ⟨d1, d2, d3, -⟩ := State.dropJump_done e t
      have d4 : (e.dropJump t).get F.runStatus_RUN_STATE t = e.get F.runStatus_RUN_STATE t := by
        unfold State.dropJump
        dsimp only
        split
        · rfl
        · rw [State.raise_get, State.get_count_other _ (by decide)]
          exact State.get_congr rfl _ _
      have d5 : Only [.out, .hatband, .image .runStatus, .runs] e (e.dropJump t) :=
        State.dropJump_only (List.Subset.refl _) (Only.refl _ e)
      generalize e.dropJump t = f at *
      have fo : Only [.image .engineStatus, .engines] f (f.idleEngine t) :=
        State.idleEngine_only (List.Subset.refl _) (Only.refl _ f)
      rw [hv]
      refine ⟨fun u hu => ?_, ?_, ?_, ?_, Raised.raise _ _ _⟩
      · rw [State.raise_tile, tile_of_only fo (by decide), d2 u hu, et, b2 u hu]
      · exact eg.trans (d3.trans ((Grows.of_only fo (by decide) (by decide)).trans (Grows.raise _ _ _ _ _)))
      · rw [State.raise_tile, tile_of_only fo (by decide), d1, et, b1]
      · rw [State.raise_get, fo.get (by decide), d4, er]
    obtain ⟨k1, k2, k3⟩ := key _ _ _ _ _ (s.standDown t) rfl rfl rfl rfl rfl (if_neg hc)
    exact ⟨k1, k2, fun _ _ _ _ => k3⟩

theorem Machine.State.dropJump_group (s : State) (t k : Nat) : (s.dropJump t).group k = s.group k := by
  unfold State.dropJump
  dsimp only
  split
  · rfl
  · rw [State.raise_group, State.count_group]
    rfl

theorem Machine.State.standDown_group (s : State) (t k : Nat) : (s.standDown t).group k = s.group k := by
  by_cases hc : ((s.tile t).group.isNone || (s.tile t).stoodDown.isSome || (s.tile t).endTick.isSome
      || !((s.tile t).inShot || (s.tile t).prepared)) = true
  · have e : s.standDown t = s := if_pos hc
    rw [e]
  · have key : ∀ b c d f e v : State, b = s.setTile t { s.tile t with
          stoodDown := some (s.tick t).toNat, ended := true, emitAt := none, untilTick := none
          barrier := none, chosen := some none, endTick := some (s.tick t).toNat } →
        c = b.put F.runStatus_RUN_STATE t 2 →
        d = (channelsOfTile t).foldl (fun x c => x.zeroChannel c .standDown x.si) c →
        f = (List.range 16).foldl (fun s u => (s.silenceTone (16 * t + u)).silenceTone (256 + 16 * t + u)) d →
        e = ((biasOfTile t).foldl (fun s n => (s.holdBias n .standDown s.half (some s.si)).dropOps n) f).cutWindows t (s.tick t) →
        v = ((e.dropJump t).idleEngine t).raise (seqSource t 6) → v.group k = s.group k := by
      intro b c d f e v hb hcc hd hf he hv
      have eo : Only [.drive, .bias, .image .biasStatus, .acq] c e := by
        rw [he, hf, hd]
        refine State.cutWindows_only (by decide) (Only.foldl (fun _ _ hx => State.dropOps_only (by decide)
          (State.holdBias_only (by decide) hx)) _ (Only.foldl (fun _ _ hx => State.silenceTone_only (by decide)
          (State.silenceTone_only (by decide) hx)) _ (Only.foldl (fun _ _ hx =>
          State.zeroChannel_only (by decide) hx) _ (Only.refl _ _))))
      have fo : Only [.image .engineStatus, .engines] (e.dropJump t) ((e.dropJump t).idleEngine t) :=
        State.idleEngine_only (List.Subset.refl _) (Only.refl _ _)
      rw [hv, State.raise_group, group_of_only fo (by decide), State.dropJump_group, group_of_only eo (by decide), hcc,
        State.put_group, hb]
      rfl
    exact key _ _ _ _ _ (s.standDown t) rfl rfl rfl rfl rfl (if_neg hc)

/-- PROGRAM_FAULT on a tile. -/
theorem Machine.State.programFault_done (s : State) (t : Nat) :
    Raised s (s.programFault t) (seqSource t 9) 0 0 ∧ Reported s (s.programFault t) 16
    ∧ (∀ g, (s.tile t).group = some g → ((s.programFault t).group g).abort = true)
    ∧ ((s.tile t).group.isSome = true → (s.tile t).stoodDown = none → (s.tile t).endTick = none →
      ((s.tile t).inShot = true ∨ (s.tile t).prepared = true) →
        ((s.programFault t).tile t).stoodDown = some (s.tick t).toNat ∧ ((s.programFault t).tile t).ended = true
          ∧ (s.programFault t).get F.runStatus_RUN_STATE t = 2)
    ∧ (∀ g, (s.tile t).group = some g → (s.group g).inShot = true → t ∈ s.members g →
      ((s.programFault t).tile t).voided = true) := by
  have key : ∀ a b c d v : State, a = s.raise (seqSource t 9) →
      b = a.report 16 false (seqSource t 9) t (a.shotOf t) → c = b.voidShot t → d = (c.demandVoid t).abortRun t →
      v = d.standDown t → Raised s v (seqSource t 9) 0 0 ∧ Reported s v 16
    ∧ (∀ g, (s.tile t).group = some g → (v.group g).abort = true)
    ∧ ((s.tile t).group.isSome = true → (s.tile t).stoodDown = none → (s.tile t).endTick = none →
      ((s.tile t).inShot = true ∨ (s.tile t).prepared = true) →
        (v.tile t).stoodDown = some (s.tick t).toNat ∧ (v.tile t).ended = true
          ∧ v.get F.runStatus_RUN_STATE t = 2)
    ∧ (∀ g, (s.tile t).group = some g → (s.group g).inShot = true → t ∈ s.members g → (v.tile t).voided = true) := by
    intro a b c d v ha hb hc hd hv
    have bo : Only [.out, .hatband, .log, .image .logStatus] s b := by
      rw [hb, ha]
      exact State.report_only (by decide) (State.raise_only (by decide) (Only.refl _ s))
    have co : Only [.runs, .image .runStatus, .acq] b c := by
      rw [hc]
      exact State.voidShot_only (by decide) (Only.refl _ b)
    have cv := State.voidShot_done b t
    rw [← hc] at cv
    have d1 : Only [.runs, .engines] c d := by
      rw [hd]
      exact State.abortRun_only (by decide) (State.demandVoid_only (by decide) (Only.refl _ c))
    have d2 : ∀ u, d.tile u = c.tile u := by
      intro u
      rw [hd]
      unfold State.abortRun
      split <;> rfl
    obtain ⟨v1, v2, v3⟩ := State.standDown_done d t
    have v4 := State.standDown_group d t
    have v5 : Only [.runs, .image .runStatus, .drive, .bias, .image .biasStatus, .out, .hatband, .acq,
        .image .engineStatus, .engines] d v := by
      rw [hv]
      exact State.standDown_only (by decide) (Only.refl _ d)
    rw [← hv] at v1 v2 v3 v4
    obtain ⟨w, ct, cw⟩ := cv.1.1 t
    have bt : b.tile t = s.tile t := tile_of_only bo (by decide) t
    refine ⟨?_, ?_, fun g hg => ?_, fun h1 h2 h3 h4 => ?_, fun g hg hi hm => ?_⟩
    · have r : Raised s a (seqSource t 9) 0 0 := by
        rw [ha]
        exact Raised.raise _ _ _
      refine r.grow (Grows.trans ?_ (Grows.trans (Grows.of_only co (by decide) (by decide))
        (Grows.trans (Grows.of_only d1 (by decide) (by decide)) v2)))
      rw [hb]
      exact Grows.report _ _ _ _ _ _
    · refine Reported.only (Reported.only (Reported.only ?_ co (by decide)) d1 (by decide)) v5 (by decide)
      rw [hb]
      refine Reported.report _ _ _ _ _ ?_
      rw [ha]
      rfl
    · rw [v4, hd]
      unfold State.abortRun
      have e : ((c.demandVoid t).tile t).group = some g := by
        show (c.tile t).group = some g
        rw [cv.1.group, bt, hg]
      rw [e]
      dsimp only
      rw [State.group_setGroup]
    · have e := v3 (by rw [d2, ct, bt]; exact h1) (by rw [d2, ct, bt]; exact h2) (by rw [d2, ct, bt]; exact h3)
        (by rw [d2, ct, bt]; exact h4)
      have tk : d.tick t = s.tick t := by
        unfold State.tick
        rw [d2, ct, bt, si_of_only d1 (by decide), si_of_only co (by decide), si_of_only bo (by decide)]
      rw [e.1, tk]
      exact ⟨rfl, rfl, e.2.1⟩
    · have x := (cv.2 g (by rw [bt]; exact hg) (.inl (by rw [group_of_only bo (by decide)]; exact hi))).2 t
        (by unfold State.members; rw [group_of_only bo (by decide)]; exact hm) (by rw [bt, hg]; rfl)
      have y : (d.tile t).voided = true := by rw [d2]; exact x
      rw [hv]
      by_cases hh : ((d.tile t).group.isNone || (d.tile t).stoodDown.isSome || (d.tile t).endTick.isSome
          || !((d.tile t).inShot || (d.tile t).prepared)) = true
      · have e : d.standDown t = d := if_pos hh
        rw [e]
        exact y
      · simp only [Bool.or_eq_true, not_or, Option.isNone_iff_eq_none, Option.isSome_iff_ne_none, Bool.not_eq_true',
          Bool.or_eq_false_iff, not_and, Bool.not_eq_false, ne_eq, not_not] at hh
        rw [← hv, (v3 (Option.isSome_iff_ne_none.mpr hh.1.1.1) hh.1.1.2 hh.1.2 (by
          by_cases q : (d.tile t).inShot = true
          · exact .inl q
          · exact .inr (hh.2 (by simpa using q)))).1]
        exact y
  exact key _ _ _ _ _ rfl rfl rfl rfl rfl

theorem Faulted.of (s : State) (t : Nat) : Faulted s (s.programFault t) t := by
  obtain ⟨h1, h2, h3, h4, -⟩ := State.programFault_done s t
  exact ⟨h1, h2, h3, fun a b c d => ⟨(h4 a b c d).1, (h4 a b c d).2.1⟩⟩

end Sys2Proof
end

