-- ==== Sys2Proof/Laws/Downs.lean ====
section
/-! SUPPORT. What voiding a shot, standing a tile down and an underrun leave of the run records, and what they do. -/

namespace Sys2Proof

open Machine

/-- Fields that share no bit. -/
abbrev Apart (f g : Field) : Prop := g.record = f.record → g.lo + g.width ≤ f.lo ∨ f.lo + f.width ≤ g.lo

/-- A write of a field leaves a field that shares no bit with it alone, in every record of the family. -/
theorem Machine.State.get_put_apart (s : State) {f g : Field} {i j v : Nat} (h : Apart f g)
    (hi : i < f.record.place.count) (hj : j < f.record.place.count) : (s.put f i v).get g j = s.get g j := by
  by_cases hr : g.record = f.record
  · by_cases e : i = j
    · subst e
      exact State.get_put_other s h
    · exact State.get_put_index _ _ _ _ hr (by rwa [Nat.mod_eq_of_lt hi, Nat.mod_eq_of_lt hj])
  · exact s.get_put_record f g i j v hr

theorem Machine.State.voidTile_get (s : State) {f : Field} {t i : Nat} (h : Apart F.runStatus_VOID_SHOTS f)
    (ht : t < 16) (hi : i < 16) : (s.voidTile t).get f i = s.get f i := by
  unfold State.voidTile
  dsimp only
  split
  · rfl
  · exact (State.get_put_apart _ h ht hi).trans (State.get_congr rfl _ _)

theorem Machine.State.voidShot_get (s : State) {f : Field} {t i : Nat} (h : Apart F.runStatus_VOID_SHOTS f)
    (hi : i < 16) : (s.voidShot t).get f i = s.get f i := by
  have hl : ∀ (l : List Nat) (v : State), (∀ t ∈ l, t < 16) → (l.foldl State.voidTile v).get f i = v.get f i := by
    intro l
    induction l with
    | nil => exact fun _ _ => rfl
    | cons a l ih =>
      intro v hv
      rw [List.foldl_cons, ih _ fun t ht => hv t (List.mem_cons_of_mem _ ht)]
      exact State.voidTile_get v h (hv a (List.mem_cons_self ..)) hi
  unfold State.voidShot
  split
  · rfl
  · dsimp only
    split
    · rfl
    · refine (hl _ _ fun t ht => ?_).trans ?_
      · unfold State.members at ht
        exact bitList_lt ht
      split
      · rfl
      · exact State.get_congr rfl _ _

theorem Machine.State.dropJump_get (s : State) {f : Field} {t i : Nat} (h : Apart F.runStatus_JUMP_DROP f)
    (ht : t < 16) (hi : i < 16) : (s.dropJump t).get f i = s.get f i := by
  unfold State.dropJump
  dsimp only
  split
  · rfl
  · rw [State.raise_get]
    exact (State.get_put_apart _ h ht hi).trans (State.get_congr rfl _ _)

theorem Machine.State.standDown_get (s : State) {f : Field} {t i : Nat} (hf : f.record = .runStatus)
    (h : Apart F.runStatus_RUN_STATE f) (k : Apart F.runStatus_JUMP_DROP f) (ht : t < 16) (hi : i < 16) :
    (s.standDown t).get f i = s.get f i := by
  by_cases hc : ((s.tile t).group.isNone || (s.tile t).stoodDown.isSome || (s.tile t).endTick.isSome
      || !((s.tile t).inShot || (s.tile t).prepared)) = true
  · have e : s.standDown t = s := if_pos hc
    rw [e]
  · have key : ∀ b c d g e v : State, b = s.setTile t { s.tile t with
          stoodDown := some (s.tick t).toNat, ended := true, emitAt := none, untilTick := none
          barrier := none, chosen := some none, endTick := some (s.tick t).toNat } →
        c = b.put F.runStatus_RUN_STATE t 2 →
        d = (channelsOfTile t).foldl (fun x c => x.zeroChannel c .standDown x.si) c →
        g = (List.range 16).foldl (fun s u => (s.silenceTone (16 * t + u)).silenceTone (256 + 16 * t + u)) d →
        e = ((biasOfTile t).foldl (fun s n => (s.holdBias n .standDown s.half (some s.si)).dropOps n) g).cutWindows t (s.tick t) →
        v = ((e.dropJump t).idleEngine t).raise (seqSource t 6) → v.get f i = s.get f i := by
      intro b c d g e v hb hcc hd hg he hv
      have eo : Only [.drive, .bias, .image .biasStatus, .acq] c e := by
        rw [he, hg, hd]
        refine State.cutWindows_only (by decide) (Only.foldl (fun _ _ hx => State.dropOps_only (by decide)
          (State.holdBias_only (by decide) hx)) _ (Only.foldl (fun _ _ hx => State.silenceTone_only (by decide)
          (State.silenceTone_only (by decide) hx)) _ (Only.foldl (fun _ _ hx =>
          State.zeroChannel_only (by decide) hx) _ (Only.refl _ _))))
      have io : Only [.image .engineStatus, .engines] (e.dropJump t) ((e.dropJump t).idleEngine t) :=
        State.idleEngine_only (List.Subset.refl _) (Only.refl _ _)
      rw [hv, State.raise_get, io.get (by rw [hf]; decide), State.dropJump_get _ k ht hi, eo.get (by rw [hf]; decide),
        hcc, State.get_put_apart _ h ht hi, hb]
      exact State.get_congr rfl _ _
    exact key _ _ _ _ _ (s.standDown t) rfl rfl rfl rfl rfl (if_neg hc)

/-- An underrun (R205) of a tile that plays or prepares a shot. -/
theorem Machine.State.underrun_done (s : State) (t id : Nat) (ht : t < 16) (h1 : (s.tile t).group.isSome = true)
    (h2 : (s.tile t).stoodDown = none) (h3 : (s.tile t).endTick = none)
    (h4 : (s.tile t).inShot = true ∨ (s.tile t).prepared = true) :
    (s.underrun t id).get F.runStatus_UNDERRUN_COUNT t =
      satAdd (s.get F.runStatus_UNDERRUN_COUNT t) 1 F.runStatus_UNDERRUN_COUNT.width
    ∧ Raised s (s.underrun t id) (seqSource t 1) 0 0 ∧ Reported s (s.underrun t id) 1
    ∧ ((s.underrun t id).tile t).stoodDown = some (s.tick t).toNat
    ∧ ∀ g, (s.tile t).group = some g → (t, id) ∈ ((s.underrun t id).group g).missing := by
  obtain ⟨g, hg⟩ := Option.isSome_iff_exists.mp h1
  have key : ∀ (q : Nat) (a b c d e v : State), a = s.count F.runStatus_UNDERRUN_COUNT t → b = a.raise (seqSource t 1) →
      c = b.report 1 false (seqSource t 1) t q → d = (c.voidShot t).demandVoid t →
      e = d.setGroup g { d.group g with missing := (d.group g).missing ++ [(t, id)] } → v = e.standDown t →
      v.get F.runStatus_UNDERRUN_COUNT t = satAdd (s.get F.runStatus_UNDERRUN_COUNT t) 1 F.runStatus_UNDERRUN_COUNT.width
      ∧ Raised s v (seqSource t 1) 0 0 ∧ Reported s v 1
      ∧ (v.tile t).stoodDown = some (s.tick t).toNat
      ∧ ∀ g, (s.tile t).group = some g → (t, id) ∈ (v.group g).missing := by
    intro q a b c d e v ha hb hc hd he hv
    have co : Only [.out, .hatband, .log, .image .logStatus] a c := by
      rw [hc, hb]
      exact State.report_only (by decide) (State.raise_only (by decide) (Only.refl _ a))
    have ao : Only [.image .runStatus] s a := by
      rw [ha]
      exact State.count_only (by decide) (Only.refl _ s)
    have dd := State.voidShot_done c t
    have vo : Only [.engines] (c.voidShot t) d := by
      rw [hd]
      exact State.demandVoid_only (by decide) (Only.refl _ _)
    have dO : Only [.runs, .image .runStatus, .acq, .engines] c d := by
      rw [hd]
      exact State.demandVoid_only (by decide) (State.voidShot_only (by decide) (Only.refl _ c))
    have eo : Only [.runs] d e := by
      rw [he]
      exact State.setGroup_only (by decide) (Only.refl _ d)
    have et : e.tile t = (c.voidShot t).tile t := by rw [he, hd]; rfl
    have ct : c.tile t = s.tile t := by
      rw [tile_of_only co (by decide), tile_of_only ao (by decide)]
    obtain ⟨w, hw, -⟩ := dd.1.1 t
    obtain ⟨k1, k2, k3⟩ := State.standDown_done e t
    have esi : e.si = s.si := by
      rw [si_of_only eo (by decide), si_of_only dO (by decide), si_of_only co (by decide), si_of_only ao (by decide)]
    have etk : e.tick t = s.tick t := by
      unfold State.tick
      rw [esi, et, hw, ct]
    have k4 := (k3 (by rw [et, hw, ct]; exact h1) (by rw [et, hw, ct]; exact h2) (by rw [et, hw, ct]; exact h3)
      (by rw [et, hw, ct]; exact h4)).1
    have so : Only [.out, .hatband, .image .runStatus, .runs, .drive, .bias, .image .biasStatus, .acq, .image .engineStatus,
        .engines] e v := by
      rw [hv]
      exact State.standDown_only (by decide) (Only.refl _ e)
    rw [← hv] at k2 k4
    have gde : Grows c e := (Grows.of_only dO (by decide) (by decide)).trans (Grows.of_only eo (by decide) (by decide))
    refine ⟨?_, ?_, ?_, ?_, ?_⟩
    · rw [hv, State.standDown_get _ rfl (by decide) (by decide) ht ht, eo.get (by decide), vo.get (by decide),
        State.voidShot_get _ (by decide) ht, co.get (by decide), ha, State.get_count]
    · refine Raised.grow ?_ ((gde.trans k2))
      rw [hc, hb]
      exact (Raised.raise _ _ _).grow (Grows.report _ _ _ _ _ _)
    · refine Reported.only (Reported.only (Reported.only ?_ dO (by decide)) eo (by decide)) so (by decide)
      rw [hc]
      refine Reported.report _ _ _ _ _ ?_
      rw [hb, ha]
      rfl
    · rw [k4, etk]
    · intro k hk
      rw [hg] at hk
      obtain rfl := Option.some.inj hk
      rw [hv, State.standDown_group, he, State.group_setGroup]
      exact List.mem_append_right _ (List.mem_singleton_self _)
  obtain ⟨d, hd⟩ : ∃ d, d = ((((s.count F.runStatus_UNDERRUN_COUNT t).raise (seqSource t 1)).report 1 false
      (seqSource t 1) t (((s.count F.runStatus_UNDERRUN_COUNT t).raise (seqSource t 1)).shotOf t)).voidShot t).demandVoid t :=
    ⟨_, rfl⟩
  have hgg : (d.tile t).group = some g := by
    rw [hd]
    show (State.tile (State.voidShot _ t) t).group = _
    rw [(State.voidShot_done _ t).1.group, tile_of_only (State.report_only (List.Subset.refl _) (Only.refl _ _))
      (by decide), State.raise_tile, State.count_tile]
    exact hg
  have hu : s.underrun t id = (d.setGroup g { d.group g with missing := (d.group g).missing ++ [(t, id)] }).standDown
      t := by
    unfold State.underrun
    dsimp only
    rw [← hd, hgg]
  exact key _ _ _ _ d _ (s.underrun t id) rfl rfl rfl hd rfl hu

theorem segment_of_only {ps : List Part} {s t : State} (h : Only ps s t) (hp : Part.loaded ∉ ps) :
    t.segment = s.segment := by
  have := congrArg Program.segments (h .loaded hp)
  unfold State.segment
  funext i id
  exact congrArg (fun m : SMap Segment => m.read .init (1024 * i + id)) this

theorem listSegment_of_only {ps : List Part} {s t : State} (h : Only ps s t) (hp : Part.loaded ∉ ps) :
    t.listSegment = s.listSegment := by
  have := congrArg Program.lists (h .loaded hp)
  unfold State.listSegment State.list
  funext i e
  exact congrArg (fun m : SMap (List Nat) => (m.read [] i)[e]?) this

end Sys2Proof
end

