-- ==== Sys2Proof/Laws/Host.lean ====
section
/-! SUPPORT. The merge buffer of the BAR4 window: the bytes that an entry lists, and the block that it writes. -/

namespace Sys2Proof

open Machine

namespace Machine

/-- A key above all that are listed goes to the end. -/
theorem SMap.list_last {α : Type} : ∀ (m : SMap α) (k : Nat) (v : α), (∀ p ∈ m, p.1 < k) → m.list k v = m ++ [(k, v)]
  | [], _, _, _ => rfl
  | (j, w) :: m, k, v, h => by
    have hj : j < k := h (j, w) (List.mem_cons_self ..)
    have ih := SMap.list_last m k v fun p hp => h p (List.mem_cons_of_mem _ hp)
    unfold SMap.list
    rw [if_neg (by omega), if_neg (by omega), ih]
    rfl

theorem SMap.find_drop_self {α : Type} : ∀ (m : SMap α) (k : Nat), (m.drop k).find k = none
  | [], _ => rfl
  | (j, v) :: m, k => by
    unfold SMap.drop
    split
    · exact SMap.find_drop_self m k
    · rename_i h
      unfold SMap.find
      rw [if_neg h]
      exact SMap.find_drop_self m k

/-- The bytes of one access, listed from an offset on. -/
theorem SMap.find_lists (data : List Byte) (off : Nat) (m : SMap Byte) (k : Nat) : ∀ n : Nat,
    ((List.range n).foldl (fun (m : SMap Byte) i => m.list (off + i) (data.getD i 0)) m).find k =
      if off ≤ k ∧ k < off + n then some (data.getD (k - off) 0) else m.find k
  | 0 => by rw [if_neg (by omega)]; rfl
  | n + 1 => by
    rw [List.range_succ, List.foldl_append, List.foldl_cons, List.foldl_nil]
    by_cases e : k = off + n
    · subst e
      rw [SMap.find_list, if_pos (by omega), show off + n - off = n by omega]
    · rw [SMap.find_list_ne _ _ e, SMap.find_lists data off m k n]
      by_cases h : off ≤ k ∧ k < off + n
      · rw [if_pos h, if_pos (by omega)]
      · rw [if_neg h, if_neg (by omega)]

theorem SMap.lists_nil (data : List Byte) (off : Nat) : ∀ n : Nat,
    (List.range n).foldl (fun (m : SMap Byte) i => m.list (off + i) (data.getD i 0)) [] =
      (List.range n).map fun i => (off + i, data.getD i 0)
  | 0 => rfl
  | n + 1 => by
    rw [List.range_succ, List.foldl_append, List.foldl_cons, List.foldl_nil, SMap.lists_nil data off n, SMap.list_last,
      List.map_append]
    · rfl
    · intro p hp
      obtain ⟨i, hi, rfl⟩ := List.mem_map.mp hp
      have := List.mem_range.mp hi
      show off + i < off + n
      omega

/-- A held block that leaves the merge buffer. -/
theorem State.flushMerge_block (s : State) (x : Merge) :
    (s.flushMerge x).storeBytes (256 * x.block) 256 = s.mergedBlock x
      ∧ (s.flushMerge x).storeBlockSeal x.block = crc32c (s.mergedBlock x)
      ∧ (s.flushMerge x).host.merge = s.host.merge.filter (fun y => y.block ≠ x.block)
      ∧ ∀ a, a < 256 * x.block ∨ 256 * x.block + 256 ≤ a →
        (s.flushMerge x).memory.store.read 0 a = s.memory.store.read 0 a := by
  unfold State.flushMerge
  extract_lets data w _ u
  have hl : data.length = 256 := by
    show (List.map _ _).length = 256
    rw [List.length_map, List.length_range]
  have hw : Only [.free, .memory] s w := by
    unfold w
    exact Only.ite (Only.refl _ s) (State.moveBeats_only (by decide) (State.spend_only (by decide) (Only.refl _ s)))
  have hu : u.memory.store = s.memory.store := (hw .store (by decide)).1
  have hh : u.host.merge = s.host.merge.filter (fun y => y.block ≠ x.block) := by
    show w.host.merge.filter _ = _
    rw [host_of_only hw (by decide) (by decide)]
  have hd : data = s.mergedBlock x := rfl
  clear_value u data
  have hv := State.moveBeats_only (ps := [.memory]) (q := hostWriter) (n := 4) (List.Subset.refl _)
    (Only.refl _ (u.writeBlock x.block data (crc32c data)))
  obtain ⟨hm, hz⟩ := hv .store (by decide)
  have hk := host_of_only hv (by decide) (by decide)
  refine ⟨?_, ?_, ?_, fun a ha => ?_⟩
  · rw [← hd]
    exact (congrArg (fun y : SMap Byte => y.readAll 0 (256 * x.block) 256) hm).trans
      (State.storeBytes_writeBlock u x.block data _ hl)
  · rw [← hd]
    exact (congrArg (fun y : SMap Nat => y.read zeroSeal x.block) hz).trans
      (SMap.read_write_self u.memory.storeSeal zeroSeal x.block _)
  · rw [← hh]
    exact congrArg HostIf.merge hk
  · refine (congrArg (fun y : SMap Byte => y.read 0 a) hm).trans ?_
    rw [← hu]
    exact SMap.read_writeAll_ne _ _ _ (by rw [hl]; exact ha)

/-! ### Write-backs -/

theorem State.send_up (s : State) (o : Output) (h : s.flag F.linkStatus_LINK_UP = true) : s.send o = s.emit o := if_pos h

/-- A write-back with the link up, and what of the host interface it leaves alone. -/
theorem State.writeback_done (s : State) (f i d : Nat) (irq : Bool) (h : s.flag F.linkStatus_LINK_UP = true) :
    WrittenBack s (s.writeback f i d irq) f i d ∧ Grows s (s.writeback f i d irq)
      ∧ (s.writeback f i d irq).host.refills = s.host.refills ∧ (s.writeback f i d irq).host.capBufs = s.host.capBufs := by
  have key : ∀ (k : Nat) (u v w x y : State) (o : Output) (b : Bool), k = ringKey f i →
      o = .hostWrite f (s.get F.ring_BASE k + 32 * (s.host.ci.read 0 k % s.ringSize k)) (leBytes d 32) → u = s.send o →
      v = u.setHost { u.host with ci := u.host.ci.write 0 k ((s.host.ci.read 0 k + 1) % 2 ^ 32) } →
      w = v.count F.ring_DESCRIPTORS k → x = w.setHost { w.host with lastSignal := w.host.lastSignal.list k w.clock.now } →
      y = (if b then (x.signal f (ringVector i)).raise (1104 + f) else w) →
      WrittenBack s y f i d ∧ Grows s y ∧ y.host.refills = s.host.refills ∧ y.host.capBufs = s.host.capBufs := by
    intro k u v w x y o b hk ho hu hv hw hx hy
    rw [State.send_up _ _ h] at hu
    have g1 : Grows s w := by
      rw [hw, hv, hu]
      exact (Grows.emit s o).trans (Grows.of_eq rfl rfl)
    have g2 : o ∈ w.out := by
      rw [hw, hv, hu]
      exact List.mem_append_right _ (List.mem_singleton_self _)
    have hw1 : w.host.ci.read 0 k = (s.host.ci.read 0 k + 1) % 2 ^ 32 := by
      rw [hw, hv]
      exact SMap.read_write_self _ _ _ _
    have hw2 : w.host.refills = s.host.refills ∧ w.host.capBufs = s.host.capBufs := by
      rw [hw, hv, hu]
      exact ⟨rfl, rfl⟩
    have hy' : Grows w y ∧ y.host.ci = w.host.ci ∧ y.host.refills = w.host.refills ∧ y.host.capBufs = w.host.capBufs := by
      rw [hy]
      cases b with
      | true =>
        have hx1 : Grows w x := by rw [hx]; exact Grows.of_eq rfl rfl
        have hx2 : x.host.ci = w.host.ci ∧ x.host.refills = w.host.refills ∧ x.host.capBufs = w.host.capBufs := by
          rw [hx]
          exact ⟨rfl, rfl, rfl⟩
        refine ⟨hx1.trans ((Grows.send x _).trans (Grows.raise _ _ _ _ _)), ?_⟩
        have : ∀ o : Output, (x.send o).host.ci = x.host.ci ∧ (x.send o).host.refills = x.host.refills
            ∧ (x.send o).host.capBufs = x.host.capBufs := by
          intro o
          unfold State.send
          split
          · exact ⟨rfl, rfl, rfl⟩
          · exact ⟨rfl, rfl, rfl⟩
        obtain ⟨a, b, c⟩ := this (.msix f (ringVector i))
        exact ⟨a.trans hx2.1, b.trans hx2.2.1, c.trans hx2.2.2⟩
      | false => exact ⟨Grows.refl _, rfl, rfl, rfl⟩
    obtain ⟨e1, e2, e3, e4⟩ := hy'
    subst hk
    exact ⟨⟨ho ▸ e1.1 _ g2, by rw [e2]; exact hw1⟩, g1.trans e1, e3.trans hw2.1, e4.trans hw2.2⟩
  exact key _ _ _ _ _ (s.writeback f i d irq) _ _ rfl rfl rfl rfl rfl rfl rfl

theorem WrittenBack.of {s u t : State} {f i d : Nat} (h : WrittenBack u t f i d) (hc : u.host.ci = s.host.ci)
    (hg : ∀ g : Field, g.record = .ring → u.get g (ringKey f i) = s.get g (ringKey f i)) : WrittenBack s t f i d := by
  unfold WrittenBack State.ringSize at h ⊢
  rw [hc, hg _ rfl, hg _ rfl] at h
  exact h

theorem WrittenBack.onto {s t u : State} {f i d : Nat} (h : WrittenBack s t f i d) (ho : u.out = t.out)
    (hc : u.host.ci = t.host.ci) : WrittenBack s u f i d := ⟨ho ▸ h.1, hc ▸ h.2⟩

end Machine

end Sys2Proof
end

