-- ==== Sys2Proof/Laws/Writes.lean ====
section
/-! SUPPORT. What a record write does once its checks let it through, and what it leaves of each field. -/

namespace Sys2Proof

open Machine

namespace Machine

/-! ### Identifiers -/

/-- Two families whose identifiers overlap: CRD's interrupt record and match register 0 (0x3540). -/
def Rec.sharesId (r : Rec) : Bool := r = .matchReg || r = .engineInterrupt

theorem Rec.disjoint : ∀ r ∈ Rec.all, r.sharesId = false → ∀ q ∈ Rec.all, q ≠ r →
    q.place.base + q.place.count ≤ r.place.base ∨ r.place.base + r.place.count ≤ q.place.base := by
  decide +kernel

theorem Rec.mem_all (r : Rec) : r ∈ Rec.all := by cases r <;> decide

/-- The one element that a test accepts is found. -/
theorem find?_unique {α : Type} (p : α → Bool) (a : α) (hp : p a = true) :
    ∀ l : List α, a ∈ l → (∀ q ∈ l, p q = true → q = a) → l.find? p = some a
  | [], h, _ => absurd h List.not_mem_nil
  | q :: l, h, hu => by
    rw [List.find?_cons]
    split
    · rename_i hb
      rw [hu q (List.mem_cons_self ..) hb]
    · rename_i hb
      rcases List.mem_cons.mp h with rfl | h
      · rw [hp] at hb
        cases hb
      · exact find?_unique p a hp l h fun q hq => hu q (List.mem_cons_of_mem _ hq)

/-- No other family holds the identifier of match register 0. -/
theorem Rec.id_ne_matchReg {r : Rec} {i : Nat} (hr : r.sharesId = false) (hi : i < r.place.count) : r.id i ≠ 0x3540 := by
  have hne : Rec.matchReg ≠ r := fun h => by rw [← h] at hr; exact absurd hr (by decide)
  have h := Rec.disjoint r (Rec.mem_all r) hr .matchReg (Rec.mem_all _) hne
  have hb : Rec.matchReg.place.base = 0x3540 := rfl
  have hc : 0 < Rec.matchReg.place.count := by decide
  unfold Rec.id
  rw [Nat.mod_eq_of_lt hi]
  omega

/-- The record that an identifier names. -/
theorem recordOf_id {r : Rec} {i : Nat} (hr : r.sharesId = false) (hi : i < r.place.count)
    (hring : r = .ring → i % 64 < 33) : recordOf (r.id i) = some (r, i) := by
  have hid : r.id i = r.place.base + i := by
    unfold Rec.id
    rw [Nat.mod_eq_of_lt hi]
  unfold recordOf
  rw [find?_unique _ r ?_ _ (Rec.mem_all r) ?_, hid]
  · simp
  · rw [hid]
    by_cases h : r = .ring
    · have := hring h
      simp [hi, this]
    · simp [hi, h]
  · intro q hq h
    apply Classical.byContradiction
    intro hne
    have := Rec.disjoint r (Rec.mem_all r) hr q hq hne
    simp only [hid, Bool.and_eq_true, decide_eq_true_eq] at h
    omega

/-! ### The write -/

/-- A row that writes one record: the write, and the status that it reports. -/
theorem State.writeAlone_passes {s : State} {m i value mask : Nat} {r : Rec} (hr : r.sharesId = false)
    (hi : i < r.place.count) (hring : r = .ring → i % 64 < 33) (h : Writes s (s.bareWrite m r i value mask)) :
    s.fresh.writeAlone m (r.id i) value mask =
      (s.fresh.writeRecord (s.bareWrite m r i value mask)).emit (.writeStatus .ok 0) := by
  have hid := recordOf_id hr hi hring
  let e := bareEntry (r.id i) value mask
  have hw : e.words = r.words := by
    show (match recordOf (r.id i) with | some (r, _) => r.words | none => 0) = _
    rw [hid]
  have he : e.record = some (r, i) := by
    unfold ParamEntry.record
    rw [if_neg (by
      have : r.id i ≠ 0x3540 := Rec.id_ne_matchReg hr hi
      simp [e, bareEntry, this])]
    show (match recordOf (r.id i) with | some (r, i) => if e.words = r.words then some (r, i) else none | none => none) = _
    rw [hid]
    exact if_pos hw
  have hwr : e.write (bareRequest s.fresh m) = some (s.bareWrite m r i value mask) := by
    unfold ParamEntry.write
    rw [he]
    show some _ = some _
    rw [show e.value = value % 2 ^ (32 * r.words) by rw [← hw]; rfl, show e.mask = mask % 2 ^ (32 * r.words) by rw [← hw]; rfl]
    rfl
  generalize hwd : s.bareWrite m r i value mask = w at *
  have hws : writesFrom (bareRequest s.fresh m) ((some [e]).getD []) s.fresh = [(e, w, s.fresh)] := by
    show writesFrom _ [e] _ = _
    unfold writesFrom
    rw [hwr]
    rfl
  have hm : w.m = m := by rw [← hwd]; rfl
  have hrf : s.fresh.refuses (bareRequest s.fresh m) = false := by
    have := h.served
    rw [hm] at this
    exact this
  have hcmd : setCommand (bareRequest s.fresh m) (some [e]) s.fresh =
      { frame := none, access := none, modes := modesAll, refused := false,
        checks := [(false, .badValue, 35), (false, .badValue, 40), (false, .busy, 0)],
        act := fun s' => .ok ((writesFrom (bareRequest s.fresh m) ((some [e]).getD []) s.fresh).foldl
          (fun s x => s.writeRecord x.2.1) s') [] } := by
    unfold setCommand
    rw [hws]
    have h1 : framing (some [e]) = none := by
      show (([e].find? fun e => e.record.isNone).map _) = none
      rw [List.find?_cons, he]
      rfl
    have h2 : s.fresh.writeAccess w = none := h.access
    have h3 : s.fresh.writeRefused w = false := h.run
    have h4 : (w.maskBad || s.fresh.valueBad w) = false := by
      rw [h.mask, show s.fresh.valueBad w = false from h.value]
      rfl
    have h5 : s.fresh.targetRefuses w = none := h.target
    simp only [h1, firstDenied, h2, List.any_cons, List.any_nil, h3, Bool.or_false, List.flatMap_cons, List.flatMap_nil,
      h4, List.map_cons, List.map_nil, h5, List.append_nil]
    rfl
  unfold State.writeAlone
  have hs : (s.fresh.serves && s.fresh.mailboxAssigned m) = true := by
    have h1 : s.fresh.serves = true := h.serves
    have h2 : s.fresh.mailboxAssigned m = true := hm ▸ h.assigned
    rw [h1, h2]
    rfl
  rw [if_pos hs]
  have hv : (setCommand (bareRequest s.fresh m) (some [e]) s.fresh).verdict s.fresh.mode = none := by
    have hmode : modesAll.contains s.fresh.mode = true := by
      have := h.serves
      unfold State.serves at this
      exact (Bool.and_eq_true _ _ ▸ this).1
    rw [hcmd]
    unfold Command.verdict
    simp only [hmode]
    rfl
  have ha : (setCommand (bareRequest s.fresh m) (some [e]) s.fresh).act s.fresh = .ok (s.fresh.writeRecord w) [] := by
    rw [hcmd, hws]
    rfl
  dsimp only
  rw [State.verdict_refused (setCommand (bareRequest s.fresh m) (some [e]) s.fresh) _ hrf, hv]
  dsimp only
  rw [ha]

end Machine

/-- A row that writes one record completes. -/
theorem Writes.wrote {c : Instr} {s : State} {m i value mask : Nat} {r : Rec} {P : State → Prop}
    (h : Writes s (s.bareWrite m r i value mask)) (hi : i < r.place.count)
    (he : exec c s = .next (s.fresh.writeAlone m (r.id i) value mask)) {u : State}
    (hu : s.fresh.writeRecord (s.bareWrite m r i value mask) = u) (hP : P u) (hr : r.sharesId = false)
    (hring : r = .ring → i % 64 < 33) : Runs c s fun t => Wrote t P :=
  ⟨_, he, _, hP, by rw [State.writeAlone_passes hr hi hring h, hu]⟩

/-! ### Fields of the image that a write leaves -/

/-- A bit of the image: the value's where it is masked and takes the written value, and the old one otherwise. -/
theorem Machine.RecWrite.onto_testBit (w : RecWrite) (x j : Nat) : (w.onto x).testBit j =
    (if w.mask.testBit j && w.r.rwMask.testBit j then w.value.testBit j else x.testBit j) := by
  unfold RecWrite.onto
  simp only [Nat.testBit_or, Nat.testBit_xor, Nat.testBit_and]
  cases x.testBit j <;> cases w.mask.testBit j <;> cases w.r.rwMask.testBit j <;> simp

/-- A field that is masked whole takes its part of the value. -/
theorem Machine.RecWrite.onto_masked (w : RecWrite) (x lo n : Nat)
    (h : bits (w.mask &&& w.r.rwMask) lo n = 2 ^ n - 1) : bits (w.onto x) lo n = bits w.value lo n := by
  refine Nat.eq_of_testBit_eq fun j => ?_
  rw [testBit_bits, testBit_bits, RecWrite.onto_testBit]
  by_cases hj : j < n
  · have : (bits (w.mask &&& w.r.rwMask) lo n).testBit j = true := by
      rw [h]
      simp [hj]
    rw [testBit_bits, Nat.testBit_and] at this
    simp only [hj, decide_true, Bool.true_and] at this ⊢
    rw [if_pos this]
  · simp [hj]

/-- A field of which nothing is masked keeps its value. -/
theorem Machine.RecWrite.onto_unmasked (w : RecWrite) (x lo n : Nat)
    (h : bits (w.mask &&& w.r.rwMask) lo n = 0) : bits (w.onto x) lo n = bits x lo n := by
  refine Nat.eq_of_testBit_eq fun j => ?_
  rw [testBit_bits, testBit_bits, RecWrite.onto_testBit]
  by_cases hj : j < n
  · have : (bits (w.mask &&& w.r.rwMask) lo n).testBit j = false := by
      rw [h]
      simp
    rw [testBit_bits, Nat.testBit_and] at this
    simp only [hj, decide_true, Bool.true_and] at this ⊢
    rw [if_neg (by simp [this])]
  · simp [hj]

/-- A write of 1 to a field that is masked whole acts. -/
theorem Machine.RecWrite.acts_of (w : RecWrite) (f : Field) (hm : bits w.mask f.lo f.width = 2 ^ f.width - 1)
    (hv : bits w.value f.lo f.width = 1) : w.acts f = true := by
  unfold RecWrite.acts RecWrite.covers
  rw [Nat.zero_mul, Nat.add_zero, Bool.and_eq_true]
  exact ⟨decide_eq_true hm, decide_eq_true hv⟩

/-- A write of 1 to a field that acts. -/
theorem Machine.State.acts_field (s : State) (m : Nat) (f : Field) (i : Nat)
    (hm : bits (f.mask % 2 ^ (32 * f.record.words)) f.lo f.width = 2 ^ f.width - 1)
    (hv : bits (((1 % 2 ^ f.width) <<< f.lo) % 2 ^ (32 * f.record.words)) f.lo f.width = 1) :
    (s.fieldWrite m f i 1).acts f = true := RecWrite.acts_of _ _ hm hv

/-- Bit `j` after it has been set. -/
theorem bit_setBits (x j w : Nat) (h : j < w) : bit (setBits x j 1 1 % 2 ^ w) j = true := by
  have ht : (setBits x j 1 1 % 2 ^ w).testBit j = true := by
    rw [Nat.testBit_mod_two_pow, testBit_setBits]
    simp [h]
  unfold bit bits
  rw [Nat.shiftRight_eq_div_pow]
  simpa [Nat.testBit_eq_decide_div_mod_eq] using ht

/-- What a filter that keeps a key leaves of it, and what it drops. -/
theorem SMap.read_filter {α : Type} (m : SMap α) (d : α) (p : Nat → Bool) (k : Nat) :
    SMap.read (List.filter (fun kv => p kv.1) m) d k = if p k then m.read d k else d := by
  induction m with
  | nil => simp [SMap.read]
  | cons x r ih =>
    obtain ⟨j, v⟩ := x
    by_cases hj : p j = true
    · rw [List.filter_cons_of_pos (p := fun kv : Nat × α => p kv.1) hj]
      simp only [SMap.read]
      by_cases e : j = k
      · subst e
        simp [hj]
      · rw [if_neg e, if_neg e]
        exact ih
    · rw [List.filter_cons_of_neg (p := fun kv : Nat × α => p kv.1) hj, ih]
      simp only [SMap.read]
      by_cases e : j = k
      · subst e
        simp [hj]
      · rw [if_neg e]

/-- A value put at a place reads back there. -/
theorem bits_shift (v lo w k : Nat) (h : lo + w ≤ k) : bits (((v % 2 ^ w) <<< lo) % 2 ^ k) lo w = v % 2 ^ w := by
  refine Nat.eq_of_testBit_eq fun j => ?_
  rw [testBit_bits, Nat.testBit_mod_two_pow, Nat.testBit_shiftLeft, Nat.testBit_mod_two_pow]
  by_cases hj : j < w
  · have h1 : lo + j < k := by omega
    simp [hj, h1]
  · simp [hj]

/-- A write of an RW field: the field takes the value. -/
theorem Machine.State.fieldWrite_onto (s : State) (m : Nat) (f : Field) (i v x : Nat)
    (hm : bits ((f.mask % 2 ^ (32 * f.record.words)) &&& f.record.rwMask) f.lo f.width = 2 ^ f.width - 1)
    (hk : f.lo + f.width ≤ 32 * f.record.words) :
    bits ((s.fieldWrite m f i v).onto x) f.lo f.width = v % 2 ^ f.width :=
  (RecWrite.onto_masked _ _ _ _ hm).trans (bits_shift _ _ _ _ hk)

/-- A write of one field leaves a field that it does not mask. -/
theorem Machine.State.fieldWrite_other (s : State) (m : Nat) (f g : Field) (i v x : Nat)
    (hm : bits ((f.mask % 2 ^ (32 * f.record.words)) &&& f.record.rwMask) g.lo g.width = 0) :
    bits ((s.fieldWrite m f i v).onto x) g.lo g.width = bits x g.lo g.width :=
  RecWrite.onto_unmasked _ _ _ _ hm

theorem Machine.State.get_setImage (s : State) (f : Field) (i x : Nat) :
    (s.setImage f.record i x).get f i = bits x f.lo f.width := by
  unfold State.get
  rw [State.image_setImage_self]

/-- The port's control record after a write is the written image. -/
theorem Machine.State.writePort_image (s : State) (w : RecWrite) (x : Nat) :
    (s.writePort w x).image .ulpControl w.i = x := by
  unfold State.writePort
  extract_lets p s1 x0 s2 s3 s4
  have h1 : s1.image .ulpControl w.i = x := State.image_setImage_self _ _ _ _
  clear_value s1
  have h2 : s2.image .ulpControl w.i = x := by
    unfold s2
    split
    · exact h1
    · exact h1
  clear_value s2
  have h3 : s3.image .ulpControl w.i = x :=
    ((State.settlePort_only (List.Subset.refl _) (Only.refl _ s2)).image (by decide) _).trans h2
  clear_value s3
  have h4 : s4.image .ulpControl w.i = x := by
    unfold s4
    split
    · exact ((State.orderRx_only (List.Subset.refl _) (Only.refl _ s3)).image (by decide) _).trans h3
    · exact h3
  clear_value s4
  split
  · exact ((State.commitTable_only (List.Subset.refl _) (Only.refl _ s4)).image (by decide) _).trans h4
  · exact h4

/-- A commit of the store arbiter. -/
theorem Machine.State.writeRecord_storeControl (s : State) (w : RecWrite) (h : w.r = .storeControl)
    (ha : w.acts F.storeControl_COMMIT = true) :
    s.writeRecord w = (s.setImage .storeControl 0 (s.wouldLeave w)).commitStore := by
  unfold State.writeRecord
  simp only [h, ha, if_true]

/-- A write of CAP_RP. -/
theorem Machine.State.writeRecord_capStatus (s : State) (w : RecWrite) (h : w.r = .capStatus)
    (ht : w.touches F.capStatus_CAP_RP = true) :
    s.writeRecord w = s.writeCapRp (bits (s.wouldLeave w) F.capStatus_CAP_RP.lo F.capStatus_CAP_RP.width) := by
  unfold State.writeRecord
  simp only [h, ht, if_true, fieldOf, Nat.zero_mul, Nat.add_zero]

/-- A write of the capture control record that moves the buffer empties it. -/
theorem Machine.State.writeCapture_moves (s : State) (w : RecWrite) (x : Nat)
    (h : (w.touches F.capControl_CAP_BASE || w.touches F.capControl_CAP_SIZE) = true) :
    (s.writeCapture w x).image .capControl 0 = x ∧ (s.writeCapture w x).get F.capStatus_CAP_WP = 0
      ∧ (s.writeCapture w x).get F.capStatus_CAP_RP = 0 ∧ (s.writeCapture w x).capture.written = []
      ∧ (s.writeCapture w x).capture.staging = [] ∧ (s.writeCapture w x).capture.seqs = [] := by
  unfold State.writeCapture
  extract_lets s1 c s2
  have h1 : s2.image .capControl 0 = x := State.image_setImage_self s .capControl 0 x
  have h2 : s2.capture.written = [] ∧ s2.capture.staging = [] ∧ s2.capture.seqs = [] := ⟨rfl, rfl, rfl⟩
  clear_value s2
  rw [if_pos h]
  refine ⟨?_, ?_, State.get_put _ _ _ _, h2⟩
  · have := State.put_only (f := F.capStatus_CAP_RP) (i := 0) (v := 0) (List.Subset.refl _)
      (State.put_only (f := F.capStatus_CAP_WP) (i := 0) (v := 0) (List.Subset.refl _) (Only.refl _ s2))
    rw [this.image (by decide)]
    exact h1
  · rw [State.get_put_other _ (by decide)]
    exact State.get_put _ _ _ _

/-- A field of an image. -/
theorem fieldOf_zero (f : Field) (x : Nat) : fieldOf x f = bits x f.lo f.width := by
  unfold fieldOf
  rw [Nat.zero_mul, Nat.add_zero]

/-- A masked field is touched. -/
theorem Machine.RecWrite.touches_of (w : RecWrite) (f : Field) (h : bits w.mask f.lo f.width ≠ 0) : w.touches f = true := by
  unfold RecWrite.touches
  rw [Nat.zero_mul, Nat.add_zero]
  exact decide_eq_true h

end Sys2Proof
end

