-- ==== Sys2Proof/WellFormed.lean ====
section
/-! DEFINITION. Well-formed commands: the bounds that an operand's type does not hold already. -/

namespace Sys2Proof

/-- The operands lie within what the spec gives: a record identifier of 16 bits and record images of at most 1,024
bits (R338); a request buffer (R332); one access of BAR4 (R329); a refill transfer (R342); a snapshot of at most 256
times 256 samples and the points of at most 16 tones (R125, R280); a frame of at most 4,096 input blocks (R293); a
sensor reading of 16 bits (R389); the entries of a monitor sequence (R391) and the factors of its four paths (R392); a
group's trims (R54). Every other operand is bounded by its type. -/
def Instr.wellFormed (i : Instr) : Bool :=
  match i with
  | .recordWrite _ id value mask => decide (id < 65536) && decide (value < 2 ^ 1024) && decide (mask < 2 ^ 1024)
  | .doorbellWrite _ _ _ buf => decide (buf.length ≤ 4096)
  | .bar4Write _ _ data => decide (data.length ≤ 4096)
  | .refillDescriptor _ _ _ data seals _ => decide (data.length ≤ 256 * 17409) && decide (seals.length ≤ 17409)
  | .snapshotDone _ samples _ => decide (samples.length ≤ 65536)
  | .iqChunkForm _ points => decide (points.length ≤ 16)
  | .fullingFrameWrite _ bad _ => bad.all fun b => decide (b < 4096)
  | .sensorSample _ reading _ _ => decide (-32768 ≤ reading) && decide (reading ≤ 32767)
  | .monSeqDone codes => decide (codes.length ≤ 64)
  | .monInjDone codes _ => decide (codes.length ≤ 8)
  | .monSelfCalDone offsets gains => decide (offsets.length = 4) && decide (gains.length = 4)
  | .firstFullMeasurement _ errs => decide (errs.length ≤ 768)
  | _ => true

end Sys2Proof
end

