-- ==== Sys2Proof/Tests/Slice0.lean ====
section
/-! SUPPORT. Tests: ill-formed commands are refused by the check of their form, and the hypotheses of the statements are
met together by small states built from the state after reset. A case whose hypothesis rests on a value that the manual
leaves open cannot be evaluated; it is named where it stands. -/

namespace Sys2Proof
open Machine

/-! ### WellFormed: one ill-formed term for each check -/

theorem test_wellFormed_identifier : (Instr.recordWrite 0 65536 0 0).wellFormed = false := by decide
theorem test_wellFormed_value : (Instr.recordWrite 0 0x2000 (2 ^ 1024) 0).wellFormed = false := by decide +kernel
theorem test_wellFormed_mask : (Instr.recordWrite 0 0x2000 0 (2 ^ 1024)).wellFormed = false := by decide +kernel
theorem test_wellFormed_request : (Instr.doorbellWrite 0 0 0 (List.replicate 4097 0)).wellFormed = false := by decide +kernel
theorem test_wellFormed_bar4 : (Instr.bar4Write 0 0 (List.replicate 4097 0)).wellFormed = false := by decide +kernel
theorem test_wellFormed_refill : (Instr.refillDescriptor 0 0 0 [] (List.replicate 17410 0) false).wellFormed = false := by decide +kernel
theorem test_wellFormed_snapshot : (Instr.snapshotDone 0 (List.replicate 65537 0) false).wellFormed = false := by decide +kernel
theorem test_wellFormed_points : (Instr.iqChunkForm 0 (List.replicate 17 [])).wellFormed = false := by decide +kernel
theorem test_wellFormed_block : (Instr.fullingFrameWrite 0 [4096] 0).wellFormed = false := by decide
theorem test_wellFormed_reading : (Instr.sensorSample 0 32768 false 0).wellFormed = false := by decide
theorem test_wellFormed_sequence : (Instr.monSeqDone (List.replicate 65 0)).wellFormed = false := by decide +kernel
theorem test_wellFormed_injected : (Instr.monInjDone (List.replicate 9 0) 0).wellFormed = false := by decide +kernel
theorem test_wellFormed_factors : (Instr.monSelfCalDone [0, 0, 0] [0, 0, 0, 0]).wellFormed = false := by decide
theorem test_wellFormed_trims : (Instr.firstFullMeasurement 0 (List.replicate 769 0)).wellFormed = false := by decide +kernel


/-! ### Helpers: small states built from the state after reset -/

/-- The device after reset, in another mode. -/
def testIn (x : Mode) : State := { State.reset with mode := x }

/-- A sealed request of function 0 (R332). -/
def testRequest (command : Nat) (payload : List Byte) : List Byte :=
  leBytes (command + 2 ^ 16 + 2 ^ 32 * payload.length) 28
    ++ leBytes (crc32c (leBytes (command + 2 ^ 16 + 2 ^ 32 * payload.length) 32 ++ payload)) 4 ++ payload

/-- A state in which that request, in mailbox 0, is the next. -/
def testAsk (s : State) (command : Nat) (payload : List Byte) : State :=
  { s with host := { s.host with
    mailboxes := [(0, { Mailbox.init with busy := true, request := testRequest command payload })], accepted := [0] } }

/-- `Passes`, as it is evaluated. -/
def testPasses (s : State) (code : Nat) (cmd : Request → State → Command) : Bool :=
  s.atHead 0 && (s.request 0).command = code && s.screen (s.request 0) = .go && !s.refuses (s.request 0)
    && (cmd (s.request 0) s.taken).verdict s.mode = none

theorem passes_of (s : State) (code : Nat) (cmd : Request → State → Command) (h : testPasses s code cmd = true) :
    Passes s (0 : Fin 16) code cmd := by
  simp only [testPasses, Bool.and_eq_true, Bool.not_eq_true', decide_eq_true_eq] at h
  obtain ⟨⟨⟨⟨h1, h2⟩, h3⟩, h4⟩, h5⟩ := h
  exact ⟨h1, h2, h3, h4, h5⟩

/-- A run group of tile 0, of function 0. -/
def testGroup (g : GroupState) : RunGroup := { RunGroup.init with state := g, mask := 1 }

/-- Mode RUN, with run group 0 of tile 0, whose list has one entry. -/
def testRun (g : GroupState) (x : TileRun) : State :=
  let s := ((testIn .run).setGroup 0 (testGroup g)).setTile 0 { x with group := some 0 }
  { s with program := { s.program with lists := [(0, [3])] } }

/-- A state and a payload with which a request of this command passes its checks. -/
def testCase (code : Nat) : State × List Byte :=
  match code with
  | 0x0103 => (testIn .parked, [4, 0, 0, 0])
  | 0x0104 => (testIn .parked, [0xA5, 0xA5, 0, 0])
  | 0x0106 => (testIn .parked, [1, 0, 0, 0])
  | 0x0107 => ((testIn .parked).put F.syncControl_SYNC_OUT_MODE 0 1, [])
  | 0x0108 => (testIn .parked, [1, 0, 0, 0, 0, 0, 0, 0, 4, 0, 0, 0, 7])
  | 0x0109 => ({ testIn .parked with flash := { Flash.init with images := [(1, [7])] } }, [1, 0, 0, 0])
  | 0x0201 => (testIn .parked, [0, 0, 255, 255, 255, 255, 255, 255])
  | 0x0203 => (testIn .parked, [0, 0, 0, 0, 1, 0, 0, 0] ++ List.replicate 256 5)
  | 0x0205 => (testIn .parked, [0, 0, 0, 0, 1, 0, 0, 0] ++ zeros 256)
  | 0x0207 => (testIn .parked, [0, 0, 0, 0, 1, 0, 0, 0] ++ List.replicate 256 5)
  | 0x0208 => (testIn .parked, [0, 0, 1, 0, 3, 0])
  | 0x0301 => (testIn .run, [1, 0, 0, 0, 1, 0, 0, 0, 0, 0, 0, 0, 255, 255, 0, 0])
  | 0x0302 => (testRun .running .init, zeros 4)
  | 0x0303 => (testRun .waitResume .init, zeros 4)
  | 0x0304 => (testRun .running .init, [1, 0, 0, 0])
  | 0x0305 => (testRun .running .init, zeros 4)
  | 0x0401 => (testIn .parked, [0, 0, 1, 0])
  | 0x0501 => (((testIn .parked).putFlag F.ring_ENABLE (ringKey 0 32) true).putFlag F.outQueue_ENABLE 0 true,
    [1, 0, 0, 0, 0, 0, 0, 0] ++ leBytes (2 ^ 40 + 2 ^ 92 + 2 ^ 128) 64)
  | 0x0506 => (testIn .parked, [0, 0, 1, 0])
  | 0x0507 => ((testIn .parked).put F.capControl_CAP_SIZE 0 512, zeros 4)
  | 0x0508 => (testIn .parked, [0, 2] ++ zeros 26)
  | 0x0509 => (testIn .parked, [4] ++ zeros 31)
  | 0x0601 => (testIn .parked, zeros 8)
  | 0x0602 => ((testIn .parked).put F.timeControl_SOURCE 0 sourcePps, zeros 8)
  | 0x0604 => (testIn .parked, zeros 32)
  | 0x0702 => ((((testIn .parked).put F.ulpStatus_TX_STATE 0 1).put F.ulpStatus_RX_STATE 0 2).setPort 0
    { Port.init with sameFrame := true }, zeros 4)
  | 0x0803 => (testIn .parked, [1, 0, 0, 0, 0])
  | 0x0902 => ((testIn .parked).putFlag F.blockGroup_HOLD 0 true, [0, 0, 255, 255])
  | 0x0A01 => (testIn .parked, [0, 0, 0, 0, 8, 0, 0, 0, 7])
  | 0x0A02 => ({ testIn .parked with upload := { Upload.init with staged := some [7] } }, [])
  | 0x0A03 => ((testIn .parked).put F.engineStatus_STATE 0 3, zeros 4)
  | 0x0B01 => (testIn .parked, [8, 0, 0, 0])
  | 0x0B05 => (testIn .parked, [7])
  | 0x0C01 => (testIn .parked, leBytes (Rec.syncControl.id 0 + Rec.syncControl.words <<< 16) 8
    ++ zeros (4 * Rec.syncControl.words))
  | 0x0C02 => (testIn .parked, leBytes (Rec.syncControl.id 0 + Rec.syncControl.words <<< 16) 8
    ++ zeros (8 * Rec.syncControl.words))
  | 0x0202 | 0x0505 | 0x0504 | 0x0703 | 0x0901 | 0x0B03 => (testIn .parked, zeros 4)
  | 0x0204 | 0x0206 => (testIn .parked, [0, 0, 0, 0, 1, 0, 0, 0])
  | 0x0502 | 0x0503 => (testIn .parked, zeros 8 ++ leBytes 0x10000000 8)
  | _ => (testIn .parked, [])

/-- The state in which that request is the next. -/
def testServed (code : Nat) : State := testAsk (testCase code).1 code (testCase code).2


set_option maxRecDepth 100000 in
/-- Every row that serves a mailbox has a request that is next and passes its checks; so have the rows of stream
contexts, while the store is open. -/
theorem test_requests_pass :
    (∀ row ∈ mailboxRows, Passes (testServed row.2.1) (0 : Fin 16) row.2.1 row.2.2)
    ∧ (testServed 0x0502).storeOpen = true ∧ Passes (testServed 0x0502) (0 : Fin 16) 0x0502 streamSaveCommand
    ∧ (testServed 0x0503).storeOpen = true ∧ Passes (testServed 0x0503) (0 : Fin 16) 0x0503 streamRestoreCommand := by
  have h : (mailboxRows.all fun row => testPasses (testServed row.2.1) row.2.1 row.2.2) = true := by decide +kernel
  exact ⟨fun row hr => passes_of _ _ _ (List.all_eq_true.1 h row hr), by decide +kernel,
    passes_of _ _ _ (by decide +kernel), by decide +kernel, passes_of _ _ _ (by decide +kernel)⟩

/-- The state at another tick. -/
def testAt (s : State) (now : Nat) : State := { s with clock := { s.clock with now := now } }

/-- The state with another sample index. -/
def testSi (s : State) (si : Nat) : State := { s with clock := { s.clock with si := BitVec.ofNat 64 si } }

/-- The state with another power part. -/
def testPower (s : State) (x : Power) : State := { s with power := x }

/-- A state in which mailbox 0 waits since tick 0. -/
def testDefer (s : State) (w : Wait) : State :=
  { s with host := { s.host with deferred := [⟨0, 0x0103, 0, 0, 0, 0, false, w⟩] } }

/-- A request of MODE_SET in a mode. -/
def testModeSet (x : Mode) (target : Byte) : State := testAsk (testIn x) 0x0103 [target, 0, 0, 0]

/-- The queue and the ticks. -/
theorem test_steps : (State.reset.pending = [] ∧ State.reset.power.ramp = none)
    ∧ (State.reset.putFlag F.gridStatus_PLL_LOCK 0 true).flag F.gridStatus_PLL_LOCK = true
    ∧ State.reset.flag F.gridStatus_PLL_LOCK = false
    ∧ ({ State.reset with pending := [.hostMark 1] } : State).pending = .hostMark 1 :: []
    ∧ State.reset.memory.wf ∧ (∃ t, step State.reset = .next t) ∧ (∃ t, exec (.hostMark 1) State.reset = .next t) := by
  refine ⟨by decide +kernel, by decide +kernel, by decide +kernel, rfl, ?_, ⟨_, rfl⟩, ⟨_, rfl⟩⟩
  unfold Memory.wf
  decide +kernel

/-- A row whose request is not next, one whose request carries another command, and one whose check fails. -/
theorem test_requests_refused : State.reset.atHead 0 = false
    ∧ (let s := testServed 0x0101; (s.request 0).command ≠ 0x0102 ∧ commandCodes.contains (s.request 0).command = true)
    ∧ (let s := testAsk (testIn .parked) 0x0101 [7]
      s.atHead 0 = true ∧ (s.request 0).command = 0x0101 ∧ s.screen (s.request 0) = .go
      ∧ ({ sysInfoCommand (s.request 0) s.taken with refused := s.refuses (s.request 0) } : Command).verdict s.mode
        = some (.badRecord, 4)) := by decide +kernel

/-- ERROR_LOG_TAKE with an entry in the intake queue. -/
theorem test_log_take : let s := { State.reset with log := { Log.init with intake := [⟨1, 5, false, 0, 4, 0, 0, 0, 0, 0⟩] } }
    s.log.intake ≠ [] ∧ s.log.lastTake = none ∧ s.log.entries.length < 512 := by decide +kernel

/-- MODE_SET to each kind of target, and its timeout. -/
theorem test_modeSet : (∀ x ∈ [4, 5, 6, 7, 3, 1], testPasses (testModeSet .parked x) 0x0103 modeSetCommand = true
      ∧ modeOf (((testModeSet .parked x).request 0).at 0 1) = modeOf x.toNat)
    ∧ (testModeSet .parked 7).deferredOf 0 = none ∧ (testModeSet .parked 1).power.ramp = none
    ∧ (let s := testAt (testDefer (testIn .calibrate) (.modeSet .calibrate)) (10 * Config.ticksPerS)
      ∃ d, s.deferredOf 0 = some d ∧ d.wait = .modeSet .calibrate ∧ d.discard = false
        ∧ d.since + 10 * Config.ticksPerS ≤ s.clock.now) := by
  exact ⟨by decide +kernel, by decide +kernel, by decide +kernel, ⟨_, rfl, by decide +kernel⟩⟩

/-- The ways into RESET and out of it. -/
theorem test_resets : ((testServed 0x0104).power.ramp = none ∧ (testServed 0x0104).deferredOf 0 = none)
    ∧ (let s := testPower State.reset { Power.init with rails := true, resetUntil := some 0 }
      s.power.resetUntil = some 0 ∧ 0 ≤ s.clock.now ∧ s.mode = .reset ∧ s.power.rails = true ∧ s.power.resetN = true
        ∧ s.power.stayReset = false)
    ∧ (testIn .run).mode ≠ .reset ∧ State.reset.mode = .reset
    ∧ (let s := testPower State.reset { Power.init with rails := true, resetN := false }
      s.mode = .reset ∧ s.power.rails = true ∧ s.power.stayReset = false ∧ s.power.resetUntil = none) := by decide +kernel

/-- Start-up. -/
theorem test_boot : (let s := { testIn .boot with flash := { Flash.init with images := [(0, [7])] } }
      s.mode = .boot ∧ s.power.ramp = none ∧ s.bootSlot = some 0)
    ∧ ((testIn .boot).mode = .boot ∧ (testIn .boot).power.ramp = none ∧ (testIn .boot).bootSlot = none)
    ∧ (let s := (testIn .selftest).putFlag F.gridStatus_PLL_LOCK 0 true
      s.mode = .selftest ∧ s.ownFailures = 0 ∧ s.get F.modeRecord_CORE = 0 ∧ s.crown.noneSince = none)
    ∧ ((testIn .selftest).mode = .selftest ∧ (1#64).toNat.testBit 0 = true)
    ∧ (let s := { testAt (testIn .calibrate) (50 * Config.ticksPerMs) with crown := { Crown.init with calEnded := some 0 } }
      s.mode = .calibrate ∧ s.crown.calEnded = some 0 ∧ 0 + 50 * Config.ticksPerMs ≤ s.clock.now) := by decide +kernel

/-- The Crown pair. -/
theorem test_crown : (coreAModes.contains (testIn .run).mode = true ∧ (testIn .run).crown.noneSince = none)
    ∧ ((testIn .safe).mode ∈ [.boot, .selftest, .safe] ∧ (testIn .safe).crown.noneSince = none
      ∧ (testIn .safe).coreFree (1 - (testIn .safe).get F.modeRecord_CORE) = true)
    ∧ (let s := { testIn .safe with crown := { Crown.init with released := [1] } }
      s.coreFree (1 - s.get F.modeRecord_CORE) = false
        ∧ s.crown.released.find? (fun c => !s.flag (outFlag c)) = some 1)
    ∧ (let s := { testAt State.reset (10 * Config.ticksPerMs) with crown := { Crown.init with noneSince := some 0 } }
      s.crown.noneSince = some 0 ∧ 0 + 10 * Config.ticksPerMs ≤ s.clock.now ∧ s.power.ramp = none) := by decide +kernel

/-- Images: a part that is not the last, the last part, and the write to flash. Whether an image authenticates is open
(log 11), and each of the two cases is stated. -/
theorem test_images : (let s := testServed 0x0108
      s.imageTaken 1 0 4 ++ (s.request 0).payload.drop 12 = [7] ∧ [(7 : Byte)].length < (s.request 0).at 8 4)
    ∧ (let s := testAsk (testIn .parked) 0x0108 [1, 0, 0, 0, 0, 0, 0, 0, 1, 0, 0, 0, 7]
      testPasses s 0x0108 imageWriteCommand = true
        ∧ (s.request 0).at 8 4 ≤ (s.imageTaken 1 0 1 ++ (s.request 0).payload.drop 12).length)
    ∧ ({ State.reset with upload := { Upload.init with flashing := some (1, [7]) } } : State).upload.flashing = some (1, [7])
    ∧ (let s := testAt (testDefer (testIn .parked) .imageWrite) (30 * Config.ticksPerS)
      ∃ d, s.deferredOf 0 = some d ∧ d.wait = .imageWrite ∧ d.discard = false
        ∧ d.since + 30 * Config.ticksPerS ≤ s.clock.now) := by
  exact ⟨by decide +kernel, by decide +kernel, rfl, ⟨_, rfl, by decide +kernel⟩⟩

/-- MODE_SET and SYNC_ARM as the two rules state them: a transition that the table does not list, and one that it does. -/
theorem test_transitions : let z := testAsk ((testIn .safe).putFlag F.gridStatus_PLL_LOCK 0 true) 0x0103 [4, 0, 0, 0]
    (∀ x ∈ [testModeSet .run 3, testModeSet .parked 5, z, testModeSet .run 5],
      x.atHead 0 = true ∧ (x.request 0).command = 0x0103 ∧ x.screen (x.request 0) = .go ∧ (x.request 0).len = 4
      ∧ (x.request 0).adm = true ∧ x.flag F.modeRecord_RECOVERY = false ∧ (x.request 0).at 1 3 = 0 ∧ x.modeSetWaits = false)
    ∧ ((testModeSet .run 3).mode ≠ .calibrate ∧ Mode.calibrate ∉ modeSetTable .run)
    ∧ Mode.run ∈ modeSetTable .parked
    ∧ (Mode.parked ∈ modeSetTable .safe ∧ z.anyRun = false ∧ z.safeCleared = true)
    ∧ (∀ y ∈ [(Mode.run, (1 : Byte)), (.parked, 1), (.parked, 0)], ∀ x, x = testAsk (testIn y.1) 0x0106 [y.2, 0, 0, 0] →
      x.atHead 0 = true ∧ (x.request 0).command = 0x0106 ∧ x.screen (x.request 0) = .go ∧ (x.request 0).len = 4
      ∧ (x.request 0).adm = true ∧ x.refuses (x.request 0) = false ∧ (x.request 0).at 1 3 = 0) := by
  refine ⟨by decide +kernel, by decide +kernel, by decide +kernel, by decide +kernel, ?_⟩
  intro y hy x hx
  subst hx
  revert y
  decide +kernel

/-- `Writes`, as it is evaluated. -/
def testWrites (s : State) (w : RecWrite) : Bool :=
  s.serves && s.mailboxAssigned w.m && !s.refuses (bareRequest s w.m) && s.writeAccess w = none && !s.writeRefused w
    && !w.maskBad && !s.valueBad w && s.targetRefuses w = none

theorem writes_of (s : State) (w : RecWrite) (h : testWrites s w = true) : Writes s w := by
  simp only [testWrites, Bool.and_eq_true, Bool.not_eq_true', decide_eq_true_eq] at h
  obtain ⟨⟨⟨⟨⟨⟨⟨h1, h2⟩, h3⟩, h4⟩, h5⟩, h6⟩, h7⟩, h8⟩ := h
  exact ⟨h1, h2, h3, h4, h5, h6, h7, h8⟩

/-- Writes of one field that pass their checks, each in a state for it, by the constructor's name. -/
def testFieldWrites : List (State × Field × Nat × Nat) :=
  let p := testIn .parked
  let r := testRun .running .init
  let l := (p.putFlag F.biasStatus_COMP_LATCH 0 true).putFlag F.biasStatus_OL_LATCH 0 true
  let t := (p.setPort 0 { Port.init with sameFrame := true }).put F.ulpStatus_TX_STATE 0 1
  [(p, F.matrixControl_COMMIT, 0, 1), (r, F.matrixControl_COMMIT, 0, 1),
   (p.putFlag F.xyStatus_MUTED 0 true, F.xyStatus_MUTED, 0, 1), (r.putFlag F.xyStatus_MUTED 0 true, F.xyStatus_MUTED, 0, 1),
   (l, F.biasStatus_COMP_LATCH, 0, 1), (r, F.weightControl_COMMIT_MASK, 0, 2 ^ 3),
   (p, F.histConfig_CLEAR, 0, 1), (r, F.histConfig_CLEAR, 0, 1), (p.putFlag F.channel_CUT 0 true, F.channel_CUT, 0, 1),
   (p, F.eventCounter_CLEAR, 0, 1), (p, F.storeControl_COMMIT, 0, 1), (p, F.libArbiter_COMMIT, 0, 1),
   (t.put F.ulpStatus_RX_STATE 0 2, F.ulpControl_COMMIT, 0, 1), (p, F.ulpControl_TEST, 0, 1), (p, F.ulpControl_TEST, 0, 0)]
  ++ [(p.putFlag F.ulpControl_TEST 0 true, F.ulpControl_LOOPBACK, 0, 1),
   ((p.putFlag F.ulpControl_TEST 0 true).put F.ulpLane_INJ_MODE 0 1, F.ulpLane_INJ_GO, 0, 1),
   (p, F.ring_ENABLE, ringKey 0 32, 1), (p.putFlag F.ring_ENABLE (ringKey 0 32) true, F.ring_ENABLE, ringKey 0 32, 0),
   (p.putFlag F.ring_STALLED (ringKey 0 16) true, F.ring_STALLED, ringKey 0 16, 1),
   (p.putFlag F.sensor_FAILED 0 true, F.sensor_FAILED, 0, 1), (p, F.timeControl_SOURCE, 0, 1),
   (p, F.timeStatus_RATE_ADJ, 0, 7), (p, F.capStatus_CAP_RP, 0, 0), (p, F.capControl_CAP_BASE, 0, 65536),
   (p, F.capControl_CAP_SIZE, 0, 0), (p.put F.outQueue_SIZE 0 256, F.outQueue_ENABLE, 0, 1),
   ((p.put F.outQueue_SIZE 0 256).putFlag F.outQueue_ENABLE 0 true, F.outQueue_RP, 0, 0)]

/-- Writes of one field. -/
theorem test_field_writes : ∀ x ∈ testFieldWrites, Writes x.1 (x.1.fieldWrite (0 : Fin 16) x.2.1 x.2.2.1 x.2.2.2) := by
  have h : (testFieldWrites.all fun x => testWrites x.1 (x.1.fieldWrite 0 x.2.1 x.2.2.1 x.2.2.2)) = true := by
    decide +kernel
  exact fun x hx => writes_of _ _ (List.all_eq_true.1 h x hx)

/-- The latches of bias channel 0 are set. -/
def testLatched (s : State) : State := (s.putFlag F.biasStatus_COMP_LATCH 0 true).putFlag F.biasStatus_OL_LATCH 0 true

/-- The conditions that the statements about these writes add, where the tile is in no run and where it is in one. -/
theorem test_field_writes_cases : (testIn .parked).inRun 0 = false ∧ (testRun .running .init).inRun 0 = true
    ∧ (∀ s ∈ [testIn .parked, testRun .running .init], s.flag F.matrixControl_PENDING 0 = false
      ∧ (s.putFlag F.xyStatus_MUTED 0 true).flag F.xyStatus_MUTED 0 = true
      ∧ (testLatched s).flag F.biasStatus_COMP_LATCH 0 = true ∧ (testLatched s).flag F.biasStatus_OL_LATCH 0 = true
      ∧ (s.biasOf 0).latchClear = [])
    ∧ bits (((testIn .parked).put F.ulpLane_INJ_MODE 0 1).rwImage .ulpLane 0) F.ulpLane_INJ_MODE.lo 2 = 1
    ∧ (testIn .parked).flag F.ring_ENABLE (ringKey 0 32) = false
    ∧ ((testIn .parked).putFlag F.ring_ENABLE (ringKey 0 32) true).flag F.ring_ENABLE (ringKey 0 32) = true
    ∧ ((testIn .parked).putFlag F.sensor_FAILED 0 true).flag F.sensor_FAILED 0 = true
    ∧ (1 ≠ (testIn .parked).timeSource) ∧ (testIn .parked).flag F.outQueue_ENABLE 0 = false
    ∧ ((testIn .parked).putFlag F.outQueue_ENABLE 0 true).flag F.outQueue_ENABLE 0 = true := by decide +kernel

/-- A commit of the store's arbiter, and of a library's, under way; and none of them after it. -/
theorem test_commits : (let s := { testIn .parked with memory := { Memory.init with
        storeArb := { Arbiter.init with commit := true }, libArbs := [(3, { Arbiter.init with commit := true })] } }
      s.pending = [] ∧ s.mode ≠ .reset ∧ s.power.ramp = none ∧ s.storeArb.commit = true ∧ (s.libArb 3).commit = true) := by
  decide +kernel

/-- The families of RecordWriteEffects, and writes of several fields. -/
def testRecordWrites : List (State × Rec × Nat × Nat × Nat) :=
  let p := testIn .parked
  let q : State := { p with program := { p.program with lists := [(0, [3])] } }
  let fs : List Rec := [.syncControl, .blockGroup, .blockControl, .xyConfig, .biasConfig, .probeConfig, .acqConfig,
    .patchControl, .program, .trigIn, .trigOut, .storeRequester, .slotTable, .ulpStreams, .compareUnit, .bar4Window, .ethPort,
    .hatbandControl, .thermalControl, .monEntries, .monInjEntries]
  let both := F.biasStatus_COMP_LATCH.mask + F.biasStatus_OL_LATCH.mask
  fs.map (fun r => (q, r, if r = .slotTable then 1 else 0, p.rwImage r (if r = .slotTable then 1 else 0), r.rwMask))
  ++ [({ p with clock := { p.clock with syncOutUntil := some 9 } }, .syncControl, 0, p.rwImage .syncControl 0, Rec.syncControl.rwMask),
    (p.setBias 0 { Bias.init with park := some ⟨65536, 0, 0, 0, true⟩ }, .biasConfig, 0, p.rwImage .biasConfig 0,
      Rec.biasConfig.rwMask),
    (p, .trigOut, 0, p.rwImage .trigOut 0 ^^^ F.trigOut_POLARITY.mask, Rec.trigOut.rwMask)]
  ++ [(testLatched p, .biasStatus, 0, both, both), (testLatched (testRun .running .init), .biasStatus, 0, both, both),
    (p, .group, 0, F.group_INIT.mask, F.group_INIT.mask),
    (p, .ulpControl, 0, 1 <<< F.ulpControl_TX_POWER.lo + 1 <<< F.ulpControl_RX_POWER.lo,
      F.ulpControl_TX_POWER.mask + F.ulpControl_RX_POWER.mask),
    (p, .ulpControl, 0, 1 <<< F.ulpControl_TX_POWER.lo, F.ulpControl_TX_POWER.mask),
    (p, .ulpControl, 0, 1 <<< F.ulpControl_RX_POWER.lo, F.ulpControl_RX_POWER.mask),
    (p, .ownership, 0, 0, 15), (p, .mailboxAssign, 0, 0, 255 * 256),
    (p, .capControl, 0, 65536 <<< F.capControl_CAP_BASE.lo + 512 <<< F.capControl_CAP_SIZE.lo,
      F.capControl_CAP_BASE.mask + F.capControl_CAP_SIZE.mask)]

theorem test_record_writes :
    ∀ x ∈ testRecordWrites, x.2.2.1 < x.2.1.place.count
      ∧ Writes x.1 (x.1.bareWrite (0 : Fin 16) x.2.1 x.2.2.1 x.2.2.2.1 x.2.2.2.2) := by
  have h : (testRecordWrites.all fun x => decide (x.2.2.1 < x.2.1.place.count)
      && testWrites x.1 (x.1.bareWrite 0 x.2.1 x.2.2.1 x.2.2.2.1 x.2.2.2.2)) = true := by decide +kernel
  intro x hx
  have := List.all_eq_true.1 h x hx
  simp only [Bool.and_eq_true, decide_eq_true_eq] at this
  exact ⟨this.1, writes_of _ _ this.2⟩

/-- In PARKED, with the PCIe link up. -/
def testHost : State := (testIn .parked).putFlag F.linkStatus_LINK_UP 0 true

set_option maxRecDepth 100000 in
/-- A block list with a good seal, and with a bad one. -/
theorem test_block_seals : (let r := (testServed 0x0203).request 0
      (payloadBlocks r 8 (r.at 4 2) (bit (r.at 1 1) 0)).2 = true)
    ∧ (let r : Request := ⟨0, 0x0203, 0, 0, 0, 0, 0, [0, 1, 0, 0, 1, 0, 0, 0]⟩
      (payloadBlocks r 8 (r.at 4 2) (bit (r.at 1 1) 0)).2 = false) := by decide +kernel

/-- Libraries and contexts: rows that read well and that are poisoned, parity errors, and a tile in a run. -/
theorem test_library : anyBlock 0 1 ((testIn .parked).libBad 0) = false
    ∧ (let s := testAsk { testIn .parked with memory := { Memory.init with libPoison := [0] } } 0x0204 [0, 0, 0, 0, 1, 0, 0, 0]
      testPasses s 0x0204 libReadCommand = true ∧ anyBlock 0 1 (s.libBad 0) = true)
    ∧ ((testIn .parked).mode ≠ .reset ∧ (testIn .parked).get F.libStatus_SPARES_LEFT 0 ≠ 0)
    ∧ (testServed 0x0205).inRun 0 = false := by decide +kernel

set_option maxRecDepth 100000 in
theorem test_contexts : let s := testAsk (testRun .running .init) 0x0205 ([0, 0, 0, 0, 1, 0, 0, 0] ++ zeros 256)
    testPasses s 0x0205 ctxLoadCommand = true ∧ s.inRun 0 = true := by decide +kernel

/-- The store and the capture writer. -/
theorem test_store : ((testIn .parked).mode ≠ .reset ∧ (testIn .parked).storeOpen = true
      ∧ (testIn .parked).memory.lastTake = none ∧ (testAt (testIn .parked) (2 ^ 60)).memory.passSince
        + (testAt (testIn .parked) (2 ^ 60)).scrubTicks ≤ (testAt (testIn .parked) (2 ^ 60)).clock.now)
    ∧ (let s := testAt { testIn .parked with memory := { Memory.init with lastTake := some 0 } } 311
      s.memory.lastTake = some 0 ∧ s.clock.now < 0 + 312 ∧ 0 + 312 ≤ (testAt s 312).clock.now)
    ∧ (let s := { testIn .run with capture := { Capture.init with staging := [⟨1, 0, 0, 1, zeros 512, 0, false, false, false⟩] } }
      s.mode ≠ .reset ∧ s.storeOpen = true ∧ s.capture.staging ≠ [] ∧ s.flag F.capControl_AUTO = false)
    ∧ ((testServed 0x0507).get F.capControl_CAP_SIZE ≠ 0
      ∧ (testServed 0x0507).chunkFits kindHistogram (256 * 49) = true) := by decide +kernel

/-- What the host reaches directly. -/
theorem test_host_access : (testHost.hostReaches 0 = true ∧ testHost.mailboxAt 0 0 = some 0 ∧ (testHost.mailbox 0).busy = false)
    ∧ (let s := testHost.setMailbox 0 { Mailbox.init with busy := true }
      s.hostReaches 0 = true ∧ s.mailboxAt 0 0 = some 0 ∧ (s.mailbox 0).busy = true)
    ∧ (let s := testHost.put F.bar4Window_WIN_BASE 0 0
      s.bar4Reaches 0 = true ∧ s.storeOpen = true ∧ s.storeRefuses (s.window 0 0) 4 = true)
    ∧ (let s := testHost.put F.bar4Window_WIN_BASE 0 512
      s.bar4Reaches 0 = true ∧ s.storeOpen = true ∧ s.storeRefuses (s.window 0 0) 256 = false
        ∧ s.storePoisoned (s.window 0 0) 256 = false ∧ s.host.merge = [] ∧ s.window 0 0 % 256 = 0
        ∧ s.window 0 0 % 256 + 4 ≤ 256)
    ∧ (let s := testHost.putFlag F.storeStatus_SELF_REFRESH 0 true
      s.bar4Reaches 0 = true ∧ s.storeOpen = false)
    ∧ (let s := { testAt testHost (10 * Config.ticksPerUs) with
        host := { testHost.host with merge := [⟨7, [(0, 5)], 0⟩] } }
      s.host.merge.find? (fun y => y.block = 7) = some ⟨7, [(0, 5)], 0⟩ ∧ s.storeOpen = true
        ∧ 0 + 10 * Config.ticksPerUs ≤ s.clock.now)
    ∧ (let s := { testAt testHost Config.ticksPerMs with host := { testHost.host with bar4 := [⟨0, 0, 4, none, 0⟩] } }
      s.host.bar4 = ⟨0, 0, 4, none, 0⟩ :: [] ∧ 0 + Config.ticksPerMs ≤ s.clock.now) := by decide +kernel

/-- The transfer of a segment of one word, SHOT_END, and a state whose ring 0 holds a descriptor. -/
def testTransfer : List Byte := leBytes (1 <<< 32 + 512 <<< 48) 256 ++ leBytes (0x48 <<< 56) 8
def testRing (i : Nat) : State :=
  let s := testHost.putFlag F.ring_ENABLE (ringKey 0 i) true
  { s with host := { s.host with pi := [(ringKey 0 i, 1)] } }

/-- Refill rings. -/
theorem test_refill : (let s := testRing 0
      s.ringRuns 0 0 = true ∧ s.ringCount (ringKey 0 0) ≠ 0 ∧ s.host.refills.find (ringKey 0 0) = none
        ∧ s.refillVerdict 0 (2 <<< 64) testTransfer [] false = none
        ∧ s.refillVerdict 0 (2 <<< 64) testTransfer [] true = some .faulted)
    ∧ (let x : Refill := ⟨2 <<< 64, 0, segmentOf (le (slice testTransfer 0 32) 0 32), [0x48 <<< 56], [], .ok⟩
      let s := { testRing 0 with host := { (testRing 0).host with refills := [(ringKey 0 0, x)] } }
      s.host.refills.find (ringKey 0 0) = some x ∧ s.storeOpen = true ∧ s.flag F.linkStatus_LINK_UP = true) := by
  decide +kernel

/-- Capture rings and the 25GBASE-R port. -/
theorem test_capture_ring : (let s := (testRing 16).put F.ring_SOURCE (ringKey 0 16) 0
      let u := (s.put F.outQueue_SIZE 0 256).put F.outQueue_WP 0 64
      u.ringRuns 0 16 = true ∧ u.flag F.ring_STALLED (ringKey 0 16) = false
        ∧ (u.captureUnit (u.get F.ring_SOURCE (ringKey 0 16))).isSome = true
        ∧ u.host.capBufs.find (ringKey 0 16) = none ∧ u.ringCount (ringKey 0 16) ≠ 0 ∧ captureForm (4096 <<< 64) = none
        ∧ u.unitRefused (u.get F.ring_SOURCE (ringKey 0 16)) 64 = false
        ∧ ({ u with memory := { Memory.init with pageUnusable := [0] } } : State).unitRefused
          (u.get F.ring_SOURCE (ringKey 0 16)) 64 = true)
    ∧ (let b : CapBuf := ⟨4096 <<< 64, 64, 1, 0⟩
      let s := { testAt (testRing 16) (65536 * Config.ticksPerUs) with host := { (testRing 16).host with capBufs := [(ringKey 0 16, b)] } }
      s.host.capBufs.find (ringKey 0 16) = some b ∧ b.units ≠ 0 ∧ b.filled + 64 ≤ bits b.desc 64 32
        ∧ b.first + s.get F.ring_FLUSH_US (ringKey 0 16) * Config.ticksPerUs ≤ s.clock.now
        ∧ s.flag F.linkStatus_LINK_UP = true)
    ∧ (let p := ((testHost.putFlag F.ethPort_ENABLE 0 true).putFlag F.ethPort_REMOTE_EN 0 true).putFlag F.ethPort_LINK_OK 0 true
      let s := { p with host := { p.host with remoteDest := zeros 32 } }
      let s := (s.put F.outQueue_SIZE 0 256).put F.outQueue_WP 0 64
      s.flag F.ethPort_ENABLE = true ∧ s.flag F.ethPort_REMOTE_EN = true ∧ s.flag F.ethPort_LINK_OK = true
        ∧ s.host.remoteDest ≠ [] ∧ s.storeOpen = true
        ∧ min 8192 (s.get F.outQueue_WP (s.get F.ethPort_REMOTE_Q) - s.get F.outQueue_RP (s.get F.ethPort_REMOTE_Q)) ≠ 0) := by
  decide +kernel

/-- PCIe events. -/
theorem test_link : (testHost.mode ≠ .reset ∧ testHost.flag F.linkStatus_LINK_UP = true ∧ testHost.host.perst = false)
    ∧ (testHost.mailboxAssigned 0 = true ∧ testHost.mailboxFn 0 = 0) := by decide +kernel

/-- A supply at 12 V from feed A. -/
def testFed : Power := Power.init.setFeed .a ⟨true, true, 12000⟩

/-- Feeds and shedding. -/
theorem test_power : (inRange (12000#16).toNat = true ∧ (State.reset.power.feed .a).qualified = false ∧ State.reset.latchedOff = false)
    ∧ (let s := testPower (testIn .run) testFed
      (s.power.feed .b).drawn = false ∧ (s.power.feed (otherFeed .b)).drawn = true ∧ s.powered = true
        ∧ s.shedStage < 6 ∧ (10000#16).toNat < shedThreshold (s.shedStage + 1) ∧ s.power.ramp = none)
    ∧ (let s := testPower (testIn .run) (testFed.setFeed .b ⟨true, false, 12000⟩)
      inRange (9000#16).toNat = false ∧ (s.power.feed .a).drawn = true ∧ (s.power.feed (otherFeed .a)).qualified = true
        ∧ inRange (s.power.feed (otherFeed .a)).mv = true)
    ∧ (let s := testPower State.reset testFed
      s.powered = true ∧ s.power.rails = false ∧ s.mode = .reset ∧ s.power.resetN = true ∧ s.power.stayReset = false
        ∧ s.power.resetUntil = none)
    ∧ (let s := testPower State.reset { testFed with resetN := false }
      s.powered = true ∧ s.power.rails = false ∧ s.power.resetN = false)
    ∧ (let s := (testIn .parked).put F.powerStatus_SHED_STAGE 0 2
      0 < s.shedStage ∧ s.shedStage < 6 ∧ 2 ≤ s.shedStage ∧ shedThreshold s.shedStage + 150 ≤ (12000#16).toNat
        ∧ s.storeArb.grant = none
        ∧ ({ s with memory := { Memory.init with storeArb := { Arbiter.init with grant := some (0, 4) } } } : State).storeArb.grant ≠ none)
    ∧ State.reset.powered = false := by decide +kernel

/-- Temperatures, throttling and PMBus. -/
theorem test_thermal : (let s := testIn .parked
      s.power.thermalOff = false ∧ s.mode ≠ .reset ∧ s.flag F.sensor_FAILED 0 = false ∧ s.hottest = some 0)
    ∧ (let s := testPower (testIn .parked) { Power.init with thermalOff := true }
      s.power.thermalOff = true ∧ (-20000 : Int) < s.threshold 3 - hysteresis ∧ s.power.hot = [])
    ∧ (let s := (testIn .parked).putFlag F.powerStatus_THROTTLE_ENGAGED 0 true
      s.mode ≠ .reset ∧ s.atShotBoundary = true ∧ s.nextStep ≠ s.throttleStep)
    ∧ (let s := testPower (testIn .parked) testFed
      s.pmbusUp = true ∧ (1#8).toNat ≤ 1 ∧ s.powered = true ∧ s.power.ramp = none)
    ∧ (let s := testPower (testIn .parked) { testFed with thermalOff := true }
      s.pmbusUp = true ∧ s.power.thermalOff = true ∧ s.power.hot = []) := by decide +kernel

/-- PMBus answers at one address, and at no other: the pins that choose it are a constant of the model (log 118). -/
theorem test_pmbus_address (s : State) (h : s.pmbusUp = true) :
    s.answersAt (BitVec.ofNat 7 (0x58 + Config.smbAddr.toNat)) = true ∧ s.answersAt 0 = false := by
  have k := Config.smbAddr.isLt
  simp only [State.answersAt, smbTarget, h, Bool.true_and, decide_eq_true_eq, decide_eq_false_iff_not, BitVec.toNat_ofNat]
  refine ⟨by omega, decide_eq_false fun e => ?_⟩
  have e' : 0 = 0x58 + Config.smbAddr.toNat := e
  omega

/-- The monitor ADC. -/
def testMonitor (s : State) (x : Monitor) : State := { s with monitor := x }

theorem test_monitor : (let s := testAt ((testIn .parked).put F.monControl_REG_TRIG 0 1) Config.ticksPerS
      s.mode ≠ .reset ∧ s.get F.monControl_REG_TRIG = 1 ∧ s.timerDue = true ∧ s.monitor.regular = none
        ∧ s.monitor.calibrating = none)
    ∧ (let s := testMonitor (testAt ((testIn .parked).put F.monControl_REG_TRIG 0 1) Config.ticksPerS) { Monitor.init with regular := some (0, none) }
      s.timerDue = true ∧ s.monitor.regular ≠ none)
    ∧ (let s := { (testIn .parked).put F.monControl_REG_TRIG 0 2 with hatband := { Hatband.init with monReg := some (0, 5) } }
      s.get F.monControl_REG_TRIG = 2 ∧ s.hatband.monReg = some (0, 5) ∧ s.monitor.regular = none)
    ∧ (let s := testMonitor (testAt (testIn .parked) Config.ticksPerS) { Monitor.init with regular := some (0, none) }
      s.monitor.injected = none ∧ (List.replicate s.regEntries.length (0 : Nat)).length = s.regEntries.length
        ∧ 0 + conversionTicks * s.regEntries.length ≤ s.clock.now)
    ∧ (let s := testMonitor (testIn .parked) { Monitor.init with urgent := [.trip] }
      (s.fresh.takeUrgent .trip).isSome = true ∧ s.monitor.injected = none ∧ s.monitor.calibrating = none)
    ∧ (let s := testMonitor (testIn .parked) { Monitor.init with urgent := [.trip], injected := some none }
      (s.fresh.takeUrgent .trip).isSome = true ∧ s.monitor.injected ≠ none ∧ s.monitor.injected = some none
        ∧ s.injEntries.length ≤ 8)
    ∧ (let s := testMonitor (testAt (testIn .parked) calibrationTicks) { Monitor.init with calibrating := some 0 }
      s.monitor.calibrating = some 0 ∧ 0 + calibrationTicks ≤ s.clock.now)
    ∧ factorsGood [0, 0, 0, 0] [32768, 32768, 32768, 32768] = true
    ∧ factorsGood [0, 0, 0, 0] [32768, 32768, 32768, 0] = false := by decide +kernel

/-- The state with another clock. -/
def testClock (s : State) (x : Clock) : State := { s with clock := x }

/-- Time commands, compare units and PPS. -/
theorem test_time : (let s := (testIn .parked).putFlag F.compareUnit_ARM 0 true
      s.flag F.compareUnit_ARM 0 = true ∧ 0 ≤ s.compareDiff 0 ∧ s.get F.compareUnit_PERIOD 0 = 0)
    ∧ ((testIn .parked).mode ≠ .reset ∧ (testIn .parked).timeSource ≠ sourcePps)
    ∧ (let s := testClock ((testIn .parked).put F.timeControl_SOURCE 0 sourcePps) { Clock.init with
          now := 880000000, ppsLast := some 0, timeOfDay := some 5 }
      s.timeSource = sourcePps ∧ s.clock.timeOfDay = some 5 ∧ s.flag F.timeStatus_STEPPED = false
        ∧ s.clock.ppsLast = some 0 ∧ 0 + 880000000 ≤ s.clock.now)
    ∧ (let s := (testIn .parked).putFlag F.timeControl_PPS_OUT_EN 0 true
      s.flag F.timeControl_PPS_OUT_EN = true ∧ s.wall % 1000000000 < 2 ∧ s.clock.ppsOutSecond ≠ some (s.wall / 1000000000))
    ∧ (let s := testClock State.reset { Clock.init with ppsOutUntil := some 0 }
      s.clock.ppsOutUntil = some 0 ∧ 0 ≤ s.clock.now)
    ∧ (let s := testClock ((testIn .parked).put F.timeControl_SOURCE 0 sourceUlp) { Clock.init with ulpTime := some (9, 4) }
      s.clock.ulpTime = some (9, 4) ∧ s.timeSource = sourceUlp ∧ s.flag F.timeStatus_STEPPED = false) := by decide +kernel

/-- A running PTP port. -/
def testPtp (source : Nat) (x : Clock) : State :=
  testClock ((((testIn .parked).putFlag F.ethPort_ENABLE 0 true).putFlag F.ethPort_LINK_OK 0 true).put
    F.timeControl_SOURCE 0 source) x

theorem test_ptp : (let s := testPtp 0 .init
      s.ptpRuns = true ∧ s.ptpSlave = true ∧ s.clock.ptpMaster = none ∧ s.timeSource ≠ sourcePtp)
    ∧ (let s := testPtp sourcePtp { Clock.init with ptpMaster := some (1, 2, 3), now := 2 ^ 40 }
      s.ptpRuns = true ∧ s.ptpSlave = true ∧ s.clock.ptpMaster.isSome = true ∧ s.timeSource = sourcePtp
        ∧ s.flag F.timeStatus_STEPPED = false ∧ (s.putFlag F.timeStatus_STEPPED 0 true).flag F.timeStatus_STEPPED = true
        ∧ s.ptpDue .delayReq = true
        ∧ s.clock.ptpLastAnnounce + s.get F.timeControl_ANNOUNCE_TIMEOUT * s.ptpInterval .announce ≤ s.clock.now)
    ∧ (let s := testPtp 0 { Clock.init with ptpSyncRx := some (7, 0), ptpAwaitFollowUp := true, ptpDelayTx := some 9 }
      s.clock.ptpSyncRx = some (7, 0) ∧ s.clock.ptpAwaitFollowUp = true ∧ s.timeSource ≠ sourcePtp
        ∧ s.clock.ptpDelayTx = some 9)
    ∧ (let s := (testPtp 0 .init).putFlag F.timeControl_PTP_ROLE 0 true
      s.ptpRuns = true ∧ s.ptpSlave = false ∧ s.ptpDue .sync = true) := by decide +kernel

/-- REFCLK, the PLL and SYNC. -/
theorem test_clock : (let s := State.reset.putFlag F.gridStatus_REFCLK_OK 0 true
      s.flag F.gridStatus_REFCLK_OK = true ∧ s.mode = .reset)
    ∧ (let s := (testIn .run).putFlag F.gridStatus_REFCLK_OK 0 true
      s.flag F.gridStatus_REFCLK_OK = true ∧ s.mode ≠ .reset ∧ s.mode ≠ .safe ∧ s.flag F.gridStatus_PLL_LOCK = false
        ∧ s.clock.wallStarted = false ∧ (s.putFlag F.gridStatus_PLL_LOCK 0 true).flag F.gridStatus_PLL_LOCK = true)
    ∧ (testClock (testIn .run) { Clock.init with wallStarted := true }).clock.wallStarted = true
    ∧ (testServed 0x0106 |>.request 0).at 0 1 = 1
    ∧ ((testAsk (testIn .parked) 0x0106 [0, 0, 0, 0]).request 0).at 0 1 ≠ 1
    ∧ (let s := (testIn .parked).putFlag F.gridStatus_SYNC_ARMED 0 true
      s.mode ≠ .reset ∧ s.flag F.gridStatus_SYNC_ARMED = true ∧ (testIn .parked).flag F.gridStatus_SYNC_ARMED = false)
    ∧ (let s := testClock State.reset { Clock.init with epochAt := some 0, syncOutUntil := some 0 }
      s.clock.epochAt = some 0 ∧ s.clock.syncOutUntil = some 0 ∧ 0 ≤ s.clock.now)
    ∧ (let s := ((testIn .parked).put F.syncControl_SYNC_OUT_MODE 0 2).putFlag F.gridStatus_PLL_LOCK 0 true
      s.get F.syncControl_SYNC_OUT_MODE = 2 ∧ s.flag F.gridStatus_PLL_LOCK = true ∧ s.clock.lastTraining = none) := by
  decide +kernel

/-- Blocking and the die links. -/
theorem test_blocking : (let s := testAt (testIn .parked) (2 ^ 40)
      s.blockingRuns = true ∧ 0 < trimCount 0 ∧ s.stepNow 0 0 = true ∧ s.tapTarget 0 0 = 0xFFFF)
    ∧ (let s := ({ testAt (testIn .parked) (2 ^ 40) with
        blocking := { Blocking.init with lastStep := [(0, 2 ^ 40 - 1)] } } : State).put F.blockGroup_STEP_INTERVAL 0 1
      s.blockingRuns = true ∧ s.stepNow 0 0 = false)
    ∧ (∀ n ∈ [3, 0], let s := { testAt (testIn .parked) (2 ^ 40) with blocking := { Blocking.init with taps := [(0, 0)], targets := [(0, n)] } }
      s.stepNow 0 0 = true ∧ s.tapTarget 0 0 ≠ 0xFFFF ∧ (s.tapTarget 0 0 = s.tap 0 0 ↔ n = 0))
    ∧ (let s := { testIn .calibrate with crown := { Crown.init with calEnded := some 0 } }
      s.mode = .calibrate ∧ s.crown.calEnded.isSome = true ∧ (List.replicate 5 (0 : Int)).length = trimCount 0
        ∧ s.blocking.calDone.contains 0 = false ∧ ∀ e ∈ List.replicate 5 (0 : Int), e.natAbs ≤ 192)
    ∧ ((testIn .run).mode ≠ .reset ∧ (testIn .run).crown.retraining.contains 0 = false)
    ∧ ({ testIn .run with crown := { Crown.init with retraining := [0] } } : State).crown.retraining.contains 0 = true := by
  decide +kernel

/-- A window of slot 0 of tile 0 on tone 0, of 2 points. -/
def testWindow : Window :=
  { slot := 0, tone := 0, w := 0, ofs := 0, len := 2, snap := true, pounce := 0, model := 0, hist := 0, shift := 0,
    turn := 0, weights := [], shot := 0, cutAt := none, serial := 0, points := 0, sumI := 0, sumQ := 0, ovrAt := none, sat := false,
    sealBad := false, ordinal := 0, overlaps := 0, decided := none, resid := none }

/-- The commands of readout. -/
theorem test_readout : (let s := testDefer (testIn .parked) (.modelFit 0 2 [0, 0, 0, 0, 0, 0])
      ∃ d, s.deferredOf 0 = some d ∧ d.wait = .modelFit 0 2 [0, 0, 0, 0, 0, 0] ∧ d.discard = false)
    ∧ (testIn .parked).inRun 0 = false ∧ (testRun .running .init).inRun 0 = true :=
  ⟨⟨_, rfl, rfl, rfl⟩, by decide +kernel, by decide +kernel⟩

/-- Acquisition. -/
theorem test_acquisition : (let s := (testIn .run).setAcq 0 { Acq.init with waiting := [testWindow] }
      (s.acq 0).ready s.si = some testWindow ∧ testWindow.snap = true ∧ s.flag F.acqStatus_SNAP_BUSY 0 = false
        ∧ (s.putFlag F.acqStatus_SNAP_BUSY 0 true).flag F.acqStatus_SNAP_BUSY 0 = true)
    ∧ (let s := ((testIn .run).putFlag F.acqConfig_ADC_ENABLE 0 true).putFlag F.gridStatus_PLL_LOCK 0 true
      let u := s.setTile 0 { TileRun.init with inShot := true }
      u.flag F.acqConfig_ADC_ENABLE 0 = true ∧ u.flag F.gridStatus_PLL_LOCK = true ∧ (u.tile 0).inShot = true
        ∧ (u.tile 0).endTick = none ∧ (u.acq 0).overranged = false)
    ∧ (let x : Snapshot := ⟨0, false, 1, none, 0, 0, 0⟩
      let s := testSi ((testIn .run).setAcq 0 { Acq.init with snapshot := some x }) 256
      (s.acq 0).snapshot = some x ∧ (List.replicate 256 (0 : Nat)).length = 256 * x.len ∧ x.start + 256 * x.len ≤ s.si)
    ∧ (let x : IqRun := ⟨0, 0, 0, 1, 1, [0], 0, 0, some 4096⟩
      let s := testSi ((testIn .run).setAcq 0 { Acq.init with iq := [x] }) 8192
      (s.acq 0).iq = [x] ∧ s.capturing = true ∧ 0 < x.due.1 ∧ popCount x.mask 16 = 1
        ∧ ((x.base + x.step * (x.next + x.due.1) : Nat) : Int) + x.ofs ≤ s.si)
    ∧ (let l : ShotLog := ⟨0, 0, 0, false, true, true, [], [], [], []⟩
      let s := (testIn .run).setAcq 0 { Acq.init with shots := [l] }
      (s.acq 0).shots = [l] ∧ l.ended = true ∧ (s.acq 0).decidedAll l.shot = true ∧ l.keep = true ∧ s.capturing = true
        ∧ l.void = false) := by decide +kernel

/-- Pounce. -/
theorem test_pounce : (let s := testSi ((testIn .run).setAcq 0 { Acq.init with windows := [testWindow] }) 640
      ((s.acq 0).windows.find? fun y => y.tone = 0 && y.decided.isNone) = some testWindow
        ∧ testWindow.points < testWindow.complete ∧ testWindow.spanEnd testWindow.points + 512 ≤ s.si
        ∧ ((testWindow.addPoint 1 1 false).judge 0 false).decided = none
        ∧ (({ testWindow with len := 1 }.addPoint 1 1 false).judge 0 false).decided ≠ none)
    ∧ (testWindow.lambda = 0 ∧ 1 + 1 = testWindow.complete)
    ∧ (let w := { testWindow with decided := some (3, false, false, 1, 0, false) }
      let s := testSi ((testIn .run).setAcq 0 { Acq.init with windows := [w] }) 2048
      ((s.acq 0).windows.find? fun y => y.tone = 0) = some w ∧ w.decision = some ⟨3, false, false, 1, 0, false⟩
        ∧ w.readyAt ⟨3, false, false, 1, 0, false⟩ ≤ s.si ∧ w.trunc = false) := by decide +kernel

/-- Run control. -/
theorem test_run_commands : (testServed 0x0301).upload.patchSince = none
    ∧ ((testServed 0x0302).deferredOf 0 = none ∧ ((testServed 0x0302).group 0).inShot = false)
    ∧ (∀ k ∈ [(0 : Byte), 1], ∀ s, s = testAsk ((testRun .running .init).setGroup 0 { testGroup .running with inShot := true })
        0x0302 [0, k, 0, 0] → testPasses s 0x0302 runStopCommand = true ∧ s.deferredOf 0 = none
        ∧ (s.group 0).inShot = true ∧ (s.request 0).at 1 1 = k.toNat)
    ∧ (let s := testAt (testDefer (testIn .run) (.runStop 0)) (6 * Config.ticksPerS)
      ∃ d, s.deferredOf 0 = some d ∧ d.wait = .runStop 0 ∧ d.discard = false
        ∧ d.since + 6 * Config.ticksPerS ≤ s.clock.now)
    ∧ ((testServed 0x0303).group 0).startLatch = none := by
  refine ⟨by decide +kernel, by decide +kernel, ?_, ⟨_, rfl, by decide +kernel⟩, by decide +kernel⟩
  intro k hk s hs
  subst hs
  revert k
  decide +kernel

/-- The word of an operation, its operands 0 but for the first kind that has it. -/
def testOp (o : Op) : Nat :=
  match o with
  | .play => 0x0120 <<< 48 | .playParam => 0x0220 <<< 48 | .frame => 0x0820 <<< 48
  | .biasSet => 0x1000 <<< 48 | .biasRamp => 0x1100 <<< 48 | .biasSine => 0x1200 <<< 48
  | .acquire => 0x1800 <<< 48 | .tset => 0x1900 <<< 48 | .waitUntil => 0x2000 <<< 48 | .waitEvent => 0x2010 <<< 48
  | .align => 0x2100 <<< 48 + 16 | .branchDecision => 0x2800 <<< 48 | .branchEvent => 0x2810 <<< 48
  | .branchCounter => 0x2820 <<< 48 | .branchAlways => 0x2830 <<< 48
  | .seg => 0x3000 <<< 48 | .loop => 0x3100 <<< 48 | .jump => 0x3200 <<< 48 | .emit => 0x3800 <<< 48
  | .barrier => 0x3900 <<< 48 + 1 | .countSet => 0x4000 <<< 48 | .countAdd => 0x4010 <<< 48 | .countAddIf => 0x4020 <<< 48
  | .shotEnd => 0x4800 <<< 48 | .bad => 0

/-- Tile 0 plays a shot of run group 0: its segment of `len` ticks holds the words `ws`, and its list that segment. -/
def testPlay (ws : List Nat) (len : Nat) (x : TileRun) : State :=
  let s := testRun .running { x with inShot := true }
  let s := s.setGroup 0 { testGroup .running with inShot := true }
  { s with program := { s.program with
    lists := [(0, [0, 1])], segments := [(0, ⟨0, ws.length, len, 0, 0, true⟩)],
    opMem := ((List.range ws.length).zip ws).filter fun x => x.2 ≠ 0 } }

theorem dispatches_of (s : State) (o : Op)
    (h : (s.dispatches 0 && decide (opOf (s.wordAt 0) = o) && decide (s.get F.mcVersion_PATCH_ID = 0)) = true) :
    Dispatches s (0 : Fin 16) o := by
  simp only [Bool.and_eq_true, decide_eq_true_eq] at h
  exact ⟨h.1.1, h.1.2, by simp [State.rewritten, h.2]⟩

/-- Timed words: in time, behind their segment's position, and more than 256 ticks ahead. -/
theorem test_timed_words : (∀ row ∈ timedRows, Timed (testPlay [testOp row.2, 0] 4096 .init) (0 : Fin 16) row.2)
    ∧ (∀ row ∈ timedRows, Dispatches (testPlay [testOp row.2 + 2 ^ 36 + 5000, 0] 4096 .init) (0 : Fin 16) row.2
      ∧ (testPlay [testOp row.2 + 2 ^ 36 + 5000, 0] 4096 .init).relLate 0 (testOp row.2 + 2 ^ 36 + 5000) = true)
    ∧ ∀ row ∈ timedRows, Dispatches (testPlay [testOp row.2 + 1000, 0] 4096 .init) (0 : Fin 16) row.2
      ∧ (testPlay [testOp row.2 + 1000, 0] 4096 .init).relLate 0 (testOp row.2 + 1000) = false
      ∧ (testPlay [testOp row.2 + 1000, 0] 4096 .init).tick 0 + Config.lookahead
        < (testPlay [testOp row.2 + 1000, 0] 4096 .init).wordTick 0 (testOp row.2 + 1000) := by
  have e : ∀ row ∈ timedRows, row.2 ∈ timedRows.map Prod.snd := fun row h => List.mem_map_of_mem h
  have h : ∀ o ∈ timedRows.map Prod.snd,
      ((testPlay [testOp o, 0] 4096 .init).dispatches 0 && decide (opOf ((testPlay [testOp o, 0] 4096 .init).wordAt 0) = o)
        && decide ((testPlay [testOp o, 0] 4096 .init).get F.mcVersion_PATCH_ID = 0)) = true
      ∧ (testPlay [testOp o, 0] 4096 .init).relLate 0 ((testPlay [testOp o, 0] 4096 .init).wordAt 0) = false
      ∧ ((testPlay [testOp o, 0] 4096 .init).wordTick 0 ((testPlay [testOp o, 0] 4096 .init).wordAt 0) : Int)
        ≤ (testPlay [testOp o, 0] 4096 .init).tick 0 + Config.lookahead := by decide +kernel
  have k : ∀ o ∈ timedRows.map Prod.snd, ∀ n ∈ [2 ^ 36 + 5000, 1000],
      ((testPlay [testOp o + n, 0] 4096 .init).dispatches 0
        && decide (opOf ((testPlay [testOp o + n, 0] 4096 .init).wordAt 0) = o)
        && decide ((testPlay [testOp o + n, 0] 4096 .init).get F.mcVersion_PATCH_ID = 0)) = true := by decide +kernel
  have l : ∀ o ∈ timedRows.map Prod.snd,
      (testPlay [testOp o + (2 ^ 36 + 5000), 0] 4096 .init).relLate 0 (testOp o + (2 ^ 36 + 5000)) = true
      ∧ (testPlay [testOp o + 1000, 0] 4096 .init).relLate 0 (testOp o + 1000) = false
      ∧ (testPlay [testOp o + 1000, 0] 4096 .init).tick 0 + Config.lookahead
        < (testPlay [testOp o + 1000, 0] 4096 .init).wordTick 0 (testOp o + 1000) := by decide +kernel
  refine ⟨fun row m => ?_, fun row m => ?_, fun row m => ?_⟩
  · exact ⟨dispatches_of _ _ (h _ (e _ m)).1, (h _ (e _ m)).2.1, (h _ (e _ m)).2.2⟩
  · simp only [Nat.add_assoc]
    exact ⟨dispatches_of _ _ (k _ (e _ m) _ (by simp)), (l _ (e _ m)).1⟩
  · exact ⟨dispatches_of _ _ (k _ (e _ m) _ (by simp)), (l _ (e _ m)).2⟩

/-- The untimed words. -/
theorem test_words : ∀ o ∈ [Op.waitEvent, .align, .branchDecision, .branchEvent, .branchCounter, .branchAlways, .seg, .loop,
    .jump, .shotEnd, .bad, .countSet, .countAdd, .countAddIf, .barrier],
    Dispatches (testPlay [testOp o, 0] 4096 .init) (0 : Fin 16) o := by
  have h : ∀ o ∈ [Op.waitEvent, .align, .branchDecision, .branchEvent, .branchCounter, .branchAlways, .seg, .loop,
    .jump, .shotEnd, .bad, .countSet, .countAdd, .countAddIf, .barrier],
    ((testPlay [testOp o, 0] 4096 .init).dispatches 0
      && decide (opOf ((testPlay [testOp o, 0] 4096 .init).wordAt 0) = o)
      && decide ((testPlay [testOp o, 0] 4096 .init).get F.mcVersion_PATCH_ID = 0)) = true := by decide +kernel
  exact fun o m => dispatches_of _ _ (h o m)

/-- Shots. -/
theorem test_shots : (let s := (testRun .running { TileRun.init with prepared := true })
      let x := s.group 0
      x.state = .running ∧ x.inShot = false ∧ x.awaitStart = false ∧ x.base ≤ s.si ∧ s.si < x.base + 16
        ∧ s.startBlocked 0 = false ∧ (∀ i ∈ s.members 0, (s.tile i).prepared = true) ∧ x.startHops = none)
    ∧ (let s := testSi (testPlay [testOp .shotEnd] 4096 .init) (16 * 0xFFFFFFFF)
      s.playsShot 0 = true ∧ 0xFFFFFFFF ≤ s.tick 0)
    ∧ (∀ x ∈ [testGroup .running, { testGroup .running with abort := true }, { testGroup .running with missing := [(0, 0)] }],
      ∀ s, s = testSi ((testPlay [testOp .shotEnd] 4096 { TileRun.init with endTick := some 5, ended := true }).setGroup 0
        { x with inShot := true }) 80 → s.shotEnd 0 = some 5 ∧ (s.group 0).state = .running ∧ (s.group 0).inShot = true
        ∧ (s.group 0).base + 16 * 5 ≤ s.si ∧ s.runOver 0 = x.abort ∧ s.upload.patchSince = none ∧ (s.group 0).startLatch = none)
    ∧ (let j : Jump := ⟨1, 0, none, false⟩
      let s := testPlay [testOp .seg] 4096 { TileRun.init with jumps := [j], jump := some j }
      let u := testSi s (16 * 4090)
      (s.tile 0).jumps = [j] ∧ (s.tile 0).jump.isSome = true ∧ s.flag F.program_JUMP_LATE 0 = false
        ∧ (s.playsShot 0 && ((s.tile 0).chosen.isSome
          || decide ((s.segmentEnd 0 : Int) < s.tick 0 + Config.switchLead + 6))) = false
        ∧ (u.playsShot 0 && ((u.tile 0).chosen.isSome
          || decide ((u.segmentEnd 0 : Int) < u.tick 0 + Config.switchLead + 6))) = true
        ∧ (u.putFlag F.program_JUMP_LATE 0 true).flag F.program_JUMP_LATE 0 = true) := by
  refine ⟨by decide +kernel, by decide +kernel, ?_, by decide +kernel⟩
  intro x hx s hs
  subst hs
  revert x
  decide +kernel

/-- Segments. -/
theorem test_segments : (let s := testSi (testPlay [testOp .loop + 3] 4096 .init) (16 * 4090)
      s.playsShot 0 = true ∧ (s.tile 0).chosen = none ∧ (s.tile 0).fetched = false
        ∧ (s.segmentEnd 0 : Int) ≤ s.tick 0 + Config.fetchLead ∧ (s.nextEntry 0).1.bind (s.listSegment 0) = some 0
        ∧ (s.segment 0 0).resident = true)
    ∧ (let s := testSi (testPlay [testOp .seg] 4096 .init) (16 * 4090)
      s.playsShot 0 = true ∧ (s.nextEntry 0).1.bind (s.listSegment 0) = some 1 ∧ (s.segment 0 1).resident = false
        ∧ (s.tile 0).stoodDown = none)
    ∧ (let s := testSi (testPlay [testOp .shotEnd] 4096
        { TileRun.init with fetched := true, ended := true, chosen := some none }) (16 * 4090)
      (s.tile 0).group = some 0 ∧ (s.group 0).inShot = true ∧ (s.tile 0).inShot = true ∧ (s.tile 0).fetched = true
        ∧ (s.tile 0).first = none ∧ s.comingBase 0 = some 65536 ∧ 65536 ≤ s.si + 16 * Config.fetchLead
        ∧ s.listSegment 0 0 = some 0)
    ∧ (let s := testRun .running .init
      (s.tile 0).group = some 0 ∧ s.playsShot 0 = false ∧ (s.group 0).state = .running ∧ (s.group 0).inShot = false
        ∧ (s.tile 0).prepared = false ∧ (s.group 0).awaitStart = false ∧ s.startBlocked 0 = false
        ∧ (s.group 0).base ≤ s.si + 16 * Config.fetchLead ∧ s.listSegment 0 0 = some 3
        ∧ ({ s with program := { s.program with segments := [(3, ⟨0, 1, 64, 0, 0, true⟩)] } } : State).segment 0 3
          = ⟨0, 1, 64, 0, 0, true⟩
        ∧ ({ s with program := { s.program with lists := [] } } : State).listSegment 0 0 = none)
    ∧ (let s := testSi (testPlay [testOp .loop + 3] 4096 { TileRun.init with ended := true }) (16 * 4090)
      s.playsShot 0 = true ∧ (s.tile 0).ended = true ∧ (s.segmentEnd 0 : Int) ≤ s.tick 0 + Config.switchLead
        ∧ s.nextEntry 0 = (some 0, false) ∧ s.listSegment 0 0 = some 0 ∧ (s.segment 0 0).resident = true)
    ∧ (let s := testSi (testPlay [testOp .shotEnd] 4096 { TileRun.init with ended := true }) (16 * 4090)
      s.nextEntry 0 = (none, false))
    ∧ (let s := testSi (testPlay [testOp .loop + 3] 4096 { TileRun.init with chosen := some (some 0) }) (16 * 4096)
      s.playsShot 0 = true ∧ (s.segmentEnd 0 : Int) ≤ s.tick 0 ∧ (s.tile 0).chosen = some (some 0)
        ∧ (s.tile 0).chosenHops = none)
    ∧ (let s := testSi (testPlay [testOp .shotEnd] 4096 { TileRun.init with chosen := some none }) (16 * 4096)
      s.playsShot 0 = true ∧ (s.segmentEnd 0 : Int) ≤ s.tick 0 ∧ (s.tile 0).chosen = some none) := by decide +kernel

/-- Hatband. -/
def testHatband (s : State) (x : Hatband) : State := { s with hatband := x }

theorem test_hatband : (let e : Event := ⟨5, 5, 0, 0, 0, 1, false⟩
      let s := testHatband ((testIn .run).put F.channel_SRC_EN 5 1) { Hatband.init with arriving := [e] }
      takeEvents 5 9 s.hatband.arriving = ([e], []) ∧ [e].filter (s.enables 5) = [e]
        ∧ [e].filter ((testIn .run).enables 5) = [] ∧ s.gated 5 = false ∧ s.flag F.channel_CUT 5 = false
        ∧ (s.putFlag F.channel_CUT 5 true).gated 5 = false ∧ (s.putFlag F.channel_CUT 5 true).flag F.channel_CUT 5 = true
        ∧ ((s.putFlag F.channel_GROUP_GATE 5 true).putFlag F.group_STATE 0 false).gated 5 = true)
    ∧ (let e : Event := ⟨5, 5, 0, 0, 0, 1, false⟩
      let s := testHatband (testIn .run) { Hatband.init with delivering := [e] }
      takeEvents 5 1 s.hatband.delivering = (e :: [], []))
    ∧ (let s := testHatband (testIn .run) { Hatband.init with switching := [(3, true)] }
      (3, true) ∈ s.hatband.switching)
    ∧ (let s := (testIn .run).putFlag F.trigIn_ENABLE 0 true
      s.mode ≠ .reset ∧ s.flag F.trigIn_ENABLE 0 = true ∧ s.flag F.trigInStatus_MASKED 0 = false ∧ (s.trig 0).lastEdge = none)
    ∧ (let s := ((testIn .run).putFlag F.trigIn_ENABLE 0 true).setTrig 0 { Trig.init with lastEdge := some 0 }
      (s.trig 0).lastEdge = some 0 ∧ s.clock.now < 0 + s.get F.trigIn_MIN_INTERVAL 0 ∧ (s.trig 0).overrateSeen = false)
    ∧ (let s := testAt (((testIn .run).putFlag F.trigIn_ENABLE 0 true).setTrig 0 { Trig.init with activeSince := some 0 }) (2 ^ 40)
      (s.trig 0).activeSince = some 0 ∧ s.flag F.trigIn_ENABLE 0 = true ∧ s.flag F.trigInStatus_MASKED 0 = false
        ∧ 0 + 8000 * s.get F.trigIn_STUCK 0 ≤ s.clock.now)
    ∧ (let s := testAt (((testIn .run).putFlag F.trigInStatus_MASKED 0 true).setTrig 0 { Trig.init with inactiveSince := some 0 })
        Config.ticksPerMs
      (s.trig 0).inactiveSince = some 0 ∧ s.flag F.trigInStatus_MASKED 0 = true ∧ 0 + Config.ticksPerMs ≤ s.clock.now)
    ∧ (let s := (testIn .run).setTrig 0 { Trig.init with pulseUntil := some 0 }
      (s.trig 0).pulseUntil = some 0 ∧ 0 ≤ s.clock.now) := by decide +kernel

/-- A pulse of 64 samples on the grid that begins at sample 0. -/
def testPulse : Pulse :=
  { base := 0, tick := 0, offs := 0, frac := 0, dflt := 0, placed := 0, ready := 0, libPtr := 0, libLen := 64, length := 64,
    amp := 0, phase := 0, fofs := 0, grid := 0, start := 0 }

/-- The words that drive: a tone that is named or is not, an empty range, and a tone whose units are taken. -/
theorem test_pulse_words : (let s := testPlay [testOp .play, 0] 4096 .init
      s.targetTone 0 (s.wordAt 0) = some (false, 0) ∧ ctxLibLen (s.context 0 (ctxOf (s.wordAt 0))) = 0)
    ∧ (let s := testPlay [testOp .playParam, 0] 4096 .init
      let s := { s with program := { s.program with contexts := [(0, 64 <<< 20)] } }
      s.targetTone 0 (s.wordAt 0) = some (false, 0) ∧ ctxLibLen (s.context 0 (ctxOf (s.wordAt 0))) ≠ 0
        ∧ (s.tone (toneKey 0 false 0)).units.length < 4
        ∧ 4 ≤ ((s.setTone 0 { Tone.init with units := List.replicate 4 testPulse }).tone 0).units.length)
    ∧ (∀ w ∈ [0x0100 <<< 48, 0x0200 <<< 48, 0x0800 <<< 48], ∀ s, s = testPlay [w, 0] 4096 .init → s.targetTone 0 (s.wordAt 0) = none)
    ∧ (let s := testPlay [testOp .frame, 0] 4096 .init
      s.targetTone 0 (s.wordAt 0) = some (false, 0))
    ∧ (∀ w ∈ [0x1010 <<< 48, 0x1110 <<< 48, 0x1210 <<< 48], ∀ s, s = testPlay [w, 0] 4096 .init → s.targetBias 0 (s.wordAt 0) = none)
    ∧ ∀ w ∈ [0x1000 <<< 48, 0x1100 <<< 48, 0x1200 <<< 48], ∀ s, s = testPlay [w, 0] 4096 .init →
      s.targetBias 0 (s.wordAt 0) = some 0 := by
  refine ⟨by decide +kernel, by decide +kernel, ?_, by decide +kernel, ?_, ?_⟩ <;>
  · intro w hw s hs
    subst hs
    revert w
    decide +kernel

/-- The words that acquire and that wait for their tick. -/
theorem test_shot_words : (let s := testPlay [testOp .acquire, 0] 4096 .init
      s.acquireTone 0 0 0 = none)
    ∧ (let s := testPlay [testOp .acquire, 0] 4096 .init
      let s := { s with program := { s.program with contexts := [(0, 2 ^ 256 - 1)], bindings := [(0, 0)] } }
      let s := (s.putFlag F.acqTone_ENABLE 0 true).putFlag F.acqConfig_ADC_ENABLE 0 true
      s.acquireTone 0 (indexOf (s.wordAt 0)) (s.context 0 (ctxOf (s.wordAt 0))) = some 0)
    ∧ (let s := testPlay [testOp .waitUntil, 0] 4096 { TileRun.init with untilTick := some 0, emitAt := some (0, 1, 2) }
      (s.tile 0).untilTick = some 0 ∧ ((0 : Nat) : Int) ≤ s.tick 0 ∧ (s.tile 0).emitAt = some (0, 1, 2) ∧ (s.tile 0).lastHop = none)
    ∧ (let s := testPlay [testOp .waitUntil, 0] 4096 { TileRun.init with untilTick := some 9 }
      (s.tile 0).untilTick = some 9 ∧ s.tick 0 < 9)
    ∧ (∀ h ∈ [1, 2], ((testPlay [testOp .emit, 0] 4096 { TileRun.init with emitAt := some (0, 1, 2), lastHop := some (h, 7) }).tile 0).lastHop
      = some (h, 7)) := by decide +kernel

/-- Waits and branches. -/
theorem test_waits : (∀ l ∈ [[], [(0, 1, 0, 2)]], ∀ w ∈ [testOp .waitEvent, testOp .branchEvent], ∀ s,
      s = testPlay [w, 0] 4096 { TileRun.init with latches := l } → ((s.tile 0).latch 0).isSome = !l.isEmpty)
    ∧ (∀ w ∈ [testOp .waitEvent + 1 <<< 9, testOp .branchEvent + 1, testOp .branchDecision + 1], ∀ s,
      s = testAt (((testPlay [w, 0] 4096 .init).setEngine 0 { Engine.init with inst := true, waitSince := some 0 }).put
        F.engineStatus_STATE 0 2) 10 → (s.waitExpired 0 (waitLimit w) = true ∨ s.waitExpired 0 (branchLimit w) = true)
        ∧ s.branchReady 0 w = false)
    ∧ (let s := testPlay [testOp .align, 0] 4096 .init
      0 < bits (s.wordAt 0) 0 16 ∧ 0 ≤ s.tick 0 + bits (s.wordAt 0) 16 16)
    ∧ (∀ i ∈ [[], [(0, 0, none)], [(0, 0, some (1, false))]],
      ((testPlay [testOp .branchDecision, 0] 4096 { TileRun.init with inputs := i }).tile 0).inputs.find? (fun x => x.1 = 0)
        = i.head?) := by
  refine ⟨?_, ?_, by decide +kernel, by decide +kernel⟩
  · intro l hl w hw s hs
    subst hs
    revert l w
    decide +kernel
  · intro w hw s hs
    subst hs
    revert w
    decide +kernel

/-- Segment ends: before the switch point and behind it, with an entry beyond the list among them; COUNT_ADD_IF. -/
theorem test_ends : (let s := testPlay [testOp .seg, 0] 4096 .init
      s.tick 0 + Config.switchLead < s.segmentEnd 0)
    ∧ (let s := testSi (testPlay [testOp .shotEnd] 4096 .init) (16 * 4090)
      (s.tile 0).chosen = none ∧ (s.segmentEnd 0 : Int) ≤ s.tick 0 + Config.switchLead ∧ s.nextEntry 0 = (none, false))
    ∧ (let s := testSi (testPlay [testOp .jump + 7] 4096 .init) (16 * 4090)
      s.nextEntry 0 = (some 7, false) ∧ s.listSegment 0 7 = none)
    ∧ (let s := testSi (testPlay [testOp .loop + 3] 4096 .init) (16 * 4090)
      s.nextEntry 0 = (some 0, false) ∧ s.listSegment 0 0 = some 0 ∧ (s.segment 0 0).resident = true)
    ∧ (let s := testPlay [testOp .countAddIf + 1 <<< 5, 0] 4096 { TileRun.init with decisions := [(0, 1)] }
      (bits (s.wordAt 0) 0 4, 1) ∈ (s.tile 0).decisions ∧ bit (bits (s.wordAt 0) 4 4) 1 = true) := by decide +kernel

/-- A barrier of tile 0 alone, with these arrivals. -/
def testBarrier (num : Nat) (l : List (Nat × Int × Nat)) (release : Option Nat) : Barrier :=
  { num, mask := 1, partner := false, arrivals := l, partners := [], release }

/-- Barriers: an arrival that faults, the last one with a partner and without, a release, and a timeout. -/
theorem test_barriers : (let s := testPlay [0x3900 <<< 48 + 2, 0] 4096 .init
      (s.tile 0).group = some 0 ∧ bit (bits (s.wordAt 0) 0 16) 0 = false)
    ∧ (∀ w ∈ [0x3900 <<< 48 + 1, 0x3910 <<< 48 + 1], ∀ s, s = testPlay [w, 0] 4096 .init →
      (∀ i ∈ bitList 1 16, i ∈ s.members 0) ∧ bits (s.wordAt 0) 0 16 = 1
        ∧ ((s.group 0).joinBarrier 0 1 (kindOf (s.wordAt 0) = 1)).mask = 1
        ∧ (testBarrier 0 [(0, s.tick 0, 0)] none).complete = true ∧ s.tick 0 = s.groupTick 0
        ∧ (∀ p ∈ s.barrierPorts, (s.port p).barrierOut = none) ∧ s.partnerTicks 0 = some [])
    ∧ { testBarrier 0 [(0, 0, 0)] none with mask := 3 }.complete = false
    ∧ ((testPlay [0x3910 <<< 48 + 1, 0] 4096 .init).putFlag F.ulpControl_BARRIER_PORT 0 true).partnerTicks 0 = none
    ∧ (let s := testRun .running .init
      let u := s.setGroup 0 { testGroup .running with barriers := [testBarrier 3 [(0, 0, 0)] (some 40)] }
      let v := s.setGroup 0 { testGroup .running with barriers := [testBarrier 3 [(0, 0, 0)] (some 41)] }
      (u.group 0).barrier 3 = some (testBarrier 3 [(0, 0, 0)] (some 40)) ∧ ((40 : Nat) : Int) ≤ u.groupTick 0 + 40
        ∧ (v.group 0).barrier 3 = some (testBarrier 3 [(0, 0, 0)] (some 41)) ∧ v.groupTick 0 + 40 < 41)
    ∧ (testBarrier 3 [(0, 0, 5)] none).expired 5 = true ∧ (testBarrier 3 [(0, 0, 5)] none).expired 4 = false := by
  refine ⟨by decide +kernel, ?_, by decide +kernel, by decide +kernel, by decide +kernel, by decide +kernel, by decide +kernel⟩
  intro w hw s hs
  subst hs
  revert w
  decide +kernel

/-- An operation of segment 0, of the shot at base 0, due at sample 0. -/
def testBiasOp (a : BiasAct) (late : Bool) : BiasOp :=
  { due := 0, issued := 0, usable := some 0, late, base := 0, tick := 0, dflt := 0, seg := 0, segId := 0, block := 9, pd := 0,
    act := a }

/-- Bias channel 0 in mode RUN. -/
def testBias (b : Bias) : State := (testIn .run).setBias 0 b

/-- Bias channels. -/
theorem test_bias : (∀ a ∈ [BiasAct.level 3, .ramp 3 8, .sine 1 0x60000000 0, .sine 1 0x60000001 0],
      let o := testBiasOp a false
      let s := testBias { Bias.init with ops := [o] }
      (s.biasOf 0).ops = [o] ∧ o.due < s.si + 16 ∧ s.flag F.biasStatus_PARKED 0 = false ∧ (s.biasOf 0).discards o = false
        ∧ (s.tile 0).suspected (32768 + o.block) = none
        ∧ (testBias { Bias.init with ops := [o], heldSeg := some 0 } |>.biasOf 0).discards o = true
        ∧ (testBiasOp a true).late = true)
    ∧ ((testIn .run).setTile 0 { TileRun.init with suspect := [(32777, 1)] } |>.tile 0).suspected 32777 = some 1
    ∧ (1 ≠ (TileRun.init).base)
    ∧ ((testIn .run).putFlag F.biasStatus_PARKED 0 true).flag F.biasStatus_PARKED 0 = true
    ∧ (let r : Ramp := ⟨0, 65536, 8, 0⟩
      let s := testAt (testBias { Bias.init with cmd := { Bias.init.cmd with ramp := some r } }) 4
      (s.biasOf 0).cmd.ramp = some r ∧ r.start + r.n ≤ s.half + 1 ∧ (testAt s 3).half + 1 < r.start + r.n)
    ∧ (let x : Sine := ⟨1, 1, 0, some 0⟩
      let s := testAt (testBias { Bias.init with cmd := { Bias.init.cmd with sine := some x } }) 64
      (s.biasOf 0).cmd.sine = some x ∧ x.fade = some 0 ∧ 0 + 128 ≤ s.half ∧ (testAt s 63).half < 0 + 128)
    ∧ (let p : ParkRamp := ⟨0, 0, 0, 0, true⟩
      let s := testBias { Bias.init with park := some p }
      (s.biasOf 0).park = some p ∧ s.level 0 = p.target ∧ s.power.ramp = none ∧ (s.biasOf 0).was = none
        ∧ (∀ k < 128, (testPower s { Power.init with ramp := some 2 }).level k = 0))
    ∧ (let p : ParkRamp := ⟨65536, 0, 0, 0, true⟩
      (testBias { Bias.init with park := some p }).level 0 ≠ p.target)
    ∧ (0 ≤ (testIn .run).get F.biasConfig_COMP_WINDOW 0 * 10 ∧ (testIn .run).get F.biasConfig_COMP_WINDOW 0 * 10 < (0x7FFF#16).toInt.natAbs
      ∧ (testIn .run).flag F.biasStatus_COMP_LATCH 0 = false ∧ (testIn .run).mode ≠ .reset)
    ∧ (let s := testAt (testBias { Bias.init with openSince := some 0 }) 800
      (s.biasOf 0).openSince = some 0 ∧ 0 + 800 ≤ s.clock.now ∧ s.flag F.biasStatus_OL_LATCH 0 = false
        ∧ (testAt s 799).clock.now < 0 + 800)
    ∧ (∀ x ∈ [0, 1, 2, 3], let s := (testIn .run).put F.biasConfig_OL_ACTION 0 x
      tripStrength (s.get F.biasConfig_OL_ACTION 0) = tripStrength x) := by decide +kernel

/-- The park oscillator hands back. -/
theorem test_handback : let s := (testBias { Bias.init with parkOsc := some 0 }).putFlag F.gridStatus_PLL_LOCK 0 true
    s.flag F.gridStatus_PLL_LOCK = true ∧ (∃ n, n / 16 = (0 : Fin 8).val ∧ (s.biasOf n).parkOsc.isSome = true)
      ∧ (∀ n, n / 16 = (0 : Fin 8).val → (s.biasOf n).park = none
        ∧ ∀ x, (s.biasOf n).parkOsc = some x → (s.clock.now - x) % 8 = 0)
      ∧ ∃ n, n / 16 = (0 : Fin 8).val ∧ ∃ x, ((testAt s 1).biasOf n).parkOsc = some x ∧ ((testAt s 1).clock.now - x) % 8 ≠ 0 := by
  refine ⟨by decide +kernel, ⟨0, by decide +kernel⟩, fun n hn => ?_, ⟨0, rfl, 0, by decide +kernel⟩⟩
  have h : n < 16 := by
    have : (0 : Fin 8).val = 0 := rfl
    omega
  have k : ∀ m < 16, (((testBias { Bias.init with parkOsc := some 0 }).putFlag F.gridStatus_PLL_LOCK 0 true).biasOf m).park = none
      ∧ (((testBias { Bias.init with parkOsc := some 0 }).putFlag F.gridStatus_PLL_LOCK 0 true).biasOf m).parkOsc
        ∈ [none, some 0] := by decide +kernel
  refine ⟨(k n h).1, fun x hx => ?_⟩
  have := (k n h).2
  rw [hx] at this
  simp only [List.mem_cons, reduceCtorEq, Option.some.injEq, List.not_mem_nil, or_false, false_or] at this
  subst this
  rfl

/-- A burst of one sample, of library block 9, due at sample 0 and not usable. -/
def testBurst : Burst := ⟨0, 0, none, [[9]], [(0, 0)]⟩

/-- Tone 0 of tile 0 in mode RUN, with the PLL locked. -/
def testTone (x : Tone) : State := ((testIn .run).setTone 0 x).putFlag F.gridStatus_PLL_LOCK 0 true

/-- What drives the balls. -/
theorem test_drive : (let x : FrameUpdate := ⟨0, 0, 0, 0, true, false, false, 0⟩
      let s := (testTone { Tone.init with updates := [x] }).putFlag F.driveTone_ENABLE 0 true
      (s.tone (toneKey 0 false 0)).updates = [x] ∧ x.due < s.si + 16 ∧ x.setFreq = true ∧ s.toneEnabled 0 false 0 = true
        ∧ inBand false (s.mixMode 0 0) (bits x.ext 0 48) = false ∧ inBand false false (ftwOf 10) = true
        ∧ s.si + 16 ≤ { x with due := 16 }.due)
    ∧ (let g : Grid := ⟨0, 0, 0, 64⟩
      let s := (testIn .run).setTone 0 { Tone.init with grids := [g] }
      (s.tone (toneKey 0 false 0)).issuing = some g ∧ g.origin + 32 * g.next ≤ s.si + 16 * 256
        ∧ ((s.tone 0).bursts.filter (fun b => s.si < b.due + 32 * b.samples.length)).length < 4
        ∧ rowsRead [testPulse] 0 32 s.half = true ∧ rowsRead [{ testPulse with ready := 1 }] 0 32 s.half = false)
    ∧ (let s := { (testIn .run).put F.xyConfig_POWER_LIMIT 0 5 with drive := { Drive.init with power := [(0, ⟨6, 0⟩)] } }
      s.get F.xyConfig_POWER_LIMIT 0 ≠ 0 ∧ (s.powerOf 0).exceeds (s.get F.xyConfig_POWER_LIMIT 0) = true
        ∧ s.flag F.xyStatus_MUTED 0 = false)
    ∧ (let s := testTone .init
      s.flag F.gridStatus_PLL_LOCK = true ∧ s.blocksBegun 0 0 = [] ∧ s.blocksBegun 0 4 = [] ∧ s.lateDue 0 0 = none)
    ∧ (let s := testTone { Tone.init with bursts := [testBurst] }
      s.blocksBegun 0 0 = [(9, 0)] ∧ (s.tile 0).suspected 9 = none ∧ s.drive.zeroed = [] ∧ s.lateDue 0 0 = some 0
        ∧ ∀ z ∈ [0, 1], ((s.setTile 0 { TileRun.init with suspect := [(9, z)] }).tile 0).suspected 9 = some z)
    ∧ ((testIn .run).biasGrounded 0 = true
      ∧ ((testIn .run).putFlag F.biasConfig_OUT_ENABLE 0 true).biasGrounded 0 = false)
    ∧ (testIn .run).flag F.gridStatus_PLL_LOCK = false ∧ ((testIn .run).biasOf 0).parkOsc = none
    ∧ ((testBias { Bias.init with parkOsc := some 0 }).biasOf 0).parkOsc.isSome = true
    ∧ (let o := { testBiasOp (.level 3) false with usable := none }
      ∀ x ∈ [none, some 0], let s := testBias { Bias.init with ops := [o], lateSeg := x }
        s.lateOp 0 = some o ∧ (s.biasOf 0).lateSeg = x ∧ (testIn .run).lateOp 0 = none) := by decide +kernel

/-- Tile 0 waits in WAIT_EVENT since tick 0. The routine of its opcode begins, behind its dispatch table entry, with a
WAIT of 5 ticks: the two words stand in the patch RAM, and a match register leads the entry there. -/
def testMicro (l : List (Nat × Nat × Nat × Nat)) : State :=
  let s := ((testPlay [testOp .waitEvent, 0] 4096 { TileRun.init with latches := l }).setEngine 0
    { Engine.init with inst := true, waitSince := some 0 }).put F.engineStatus_STATE 0 2
  let s := ((s.put F.matchReg_ROM_ADDR 0 0x20).putFlag F.matchReg_ENABLE 0 true)
  { s with upload := { Upload.init with patchRam :=
      [(0, withParity (0x4001 <<< 33 + 1 <<< 16)), (1, withParity (8 <<< 123 + 5 <<< 48 + 3 <<< 16))] } }

/-- Engines. -/
theorem test_engines : (let s := testAt (testMicro []) 6
      s.get F.mcVersion_PATCH_ID = 0
        ∧ s.control.waitWord (opcodeOf (s.wordAt 0)) = some (8 <<< 123 + 5 <<< 48 + 3 <<< 16)
        ∧ timeoutOf (8 <<< 123 + 5 <<< 48 + 3 <<< 16) = 5 ∧ s.get F.engineStatus_STATE 0 = 2
        ∧ (s.engine 0).microSince + 5 < s.clock.now ∧ s.waitOver 0 (s.wordAt 0) = false
        ∧ (testAt s 5).clock.now ≤ ((testAt s 5).engine 0).microSince + 5
        ∧ (testMicro [(0, 1, 0, 2)]).waitOver 0 (s.wordAt 0) = true)
    ∧ ((testIn .run).mode ≠ .reset ∧ (testIn .run).get F.engineStatus_STATE 0 ≠ 3 ∧ (testIn .run).get F.engineStatus_STATE 16 ≠ 3
      ∧ ((testIn .run).control.word 0).isSome = true ∧ (testIn .run).control.word 0x4400 = none ∧ 0x4400 ≤ (0x4400#15).toNat)
    ∧ (let s := (testIn .run).setEngine 0 { Engine.init with attnPending := [1], inst := true, abandoned := 3 }
      (s.engine 0).pending = true ∧ (s.engine 0).inst = true ∧ s.get F.engineStatus_STATE 0 ≠ 3
        ∧ s.flag F.engineStatus_GUARD 0 = false ∧ (s.engine 0).haltPending = false ∧ (s.engine 0).voidPending = false
        ∧ (s.putFlag F.engineStatus_GUARD 0 true).flag F.engineStatus_GUARD 0 = true)
    ∧ (let s := (testIn .run).setEngine 0 { Engine.init with attnPending := [1] }
      (s.engine 0).pending = true ∧ (s.engine 0).inst = false ∧ s.get F.engineStatus_STATE 0 ≠ 1)
    ∧ (let s := (testPlay [0] 64 .init).setEngine 0 { Engine.init with haltPending := true }
      (s.engine 0).pending = true ∧ (s.engine 0).haltPending = true ∧ (s.tile 0).group.isSome = true
        ∧ (s.tile 0).stoodDown = none ∧ (s.tile 0).endTick = none ∧ (s.tile 0).inShot = true)
    ∧ (let s := (testDefer (testIn .run) (.engineRestart 0)).put F.engineStatus_STATE 0 3
      s.restarting 0 = true ∧ s.get F.engineStatus_STATE 0 = 3 ∧ s.matched 7 = false
        ∧ ((s.put F.matchReg_ROM_ADDR 0 7).putFlag F.matchReg_ENABLE 0 true).matched 7 = true
        ∧ (s.host.deferred.map Deferred.m).Nodup) := by decide +kernel

/-- Patches. Whether one passes every check is open (logs 11 and 12); one that does not is refused. -/
theorem test_patches : (let s := testServed 0x0A01
      (s.patchTaken ((s.request 0).at 0 4) 8 ++ (s.request 0).payload.drop 8).length < (s.request 0).at 4 4)
    ∧ (let s := testAsk (testIn .parked) 0x0A01 [0, 0, 0, 0, 1, 0, 0, 0, 7]
      testPasses s 0x0A01 patchLoadCommand = true
        ∧ (s.request 0).at 4 4 ≤ (s.patchTaken ((s.request 0).at 0 4) 1 ++ (s.request 0).payload.drop 8).length
        ∧ s.patchVerdict [7] = some .badRecord)
    ∧ (let s := testAt { testRun .running .init with upload := { Upload.init with patchSince := some 0, staged := some [7] } } (2 ^ 40)
      let u := (List.range 17).foldl (fun s e => s.setEngine e { Engine.init with patchStop := some 5 }) s
      s.upload.patchSince = some 0 ∧ s.upload.staged = some [7] ∧ (s.engine 0).patchStop = none
        ∧ 0 + s.get F.patchControl_PATCH_WAIT * Config.ticksPerMs ≤ s.clock.now
        ∧ (∀ e < 17, (u.engine e).patchStop.isSome = true) ∧ (u.group 0).state = .running ∧ (u.group 0).inShot = false
        ∧ u.members 0 ≠ [] ∧ ∀ t ∈ u.members 0, (u.engine t).patchStop = some 5)
    ∧ ((testIn .run).atBoundary 0 = true ∧ (testPlay [0] 64 .init).atBoundary 0 = false) := by decide +kernel

/-- Port 0 is enabled and up in both directions, and its bank 0 of slots has one decision pair and bulk slots. -/
def testPort (x : Port) : State :=
  let s := ((testIn .run).putFlag F.ulpControl_ENABLE 0 true).putFlag F.gridStatus_PLL_LOCK 0 true
  let s := (s.put F.ulpStatus_TX_STATE 0 1).put F.ulpStatus_RX_STATE 0 2
  (s.put F.ulpStatus_LANE_LOCK 0 0xFF).setPort 0 x

/-- Lanes, directions and superframes. -/
theorem test_uluforam : (∀ rx ∈ [0, 1, 3], let s := ((testPort .init).put F.ulpStatus_RX_STATE 0 rx).put F.ulpStatus_LANE_LOCK 0 0x7F
      s.portOn 0 = true ∧ bit (s.get F.ulpStatus_LANE_LOCK 0) 7 = false ∧ s.get F.ulpStatus_RX_STATE 0 = rx)
    ∧ (64 ≤ ((List.replicate 64 (1 : BitVec 2)).foldl LaneAlign.hunt ((testPort .init).align 0 7)).run
      ∧ ((List.replicate 63 (2 : BitVec 2)).foldl LaneAlign.hunt ((testPort .init).align 0 7)).run < 64
      ∧ (LaneAlign.init.run < 64 ∧ LaneAlign.init.recent = [])
      ∧ (((testPort .init).align 0 7).follow (List.replicate 16 (0 : BitVec 2))).1 = true
      ∧ (((testPort .init).align 0 7).follow (List.replicate 15 (3 : BitVec 2))).1 = false)
    ∧ (∀ rx ∈ [1, 2, 3, 5], let s := (testPort .init).put F.ulpStatus_RX_STATE 0 rx
      bit (s.get F.ulpStatus_LANE_LOCK 0) 7 = true ∧ s.get F.ulpStatus_RX_STATE 0 = rx)
    ∧ (let s := testPort { Port.init with commitAt := some 0 }
      s.sends 0 = true ∧ (s.port 0).lastFrame ≠ s.superframeNow + 1 ∧ (s.port 0).commitAt ≠ none ∧ (s.port 0).proposal = 0
        ∧ (testIn .run).sends 0 = false)
    ∧ (let s := (testPort { Port.init with notices := 2 }).put F.ulpControl_TX_POWER 0 1
      s.sleepDue 0 = true ∧ 2 ≤ (s.port 0).notices ∧ (s.port 0).lastFrame ≠ s.superframeNow + 1)
    ∧ (let s := testSi ((testPort { Port.init with swapAt := some 9, commitAt := some 5, remoteShadow := 2 ^ 32 }).putFlag F.ulpStatus_SWAP_PENDING 0 true)
        (33792 * 2000)
      (s.port 0).swapAt = some 9 ∧ s.flag F.ulpStatus_SWAP_PENDING 0 = true ∧ 9 ≤ s.superframeNow
        ∧ (s.port 0).partnerProposalAt + 1 ≤ 9 ∧ s.flag F.ulpStatus_MISMATCH 0 = false
        ∧ (s.port 0).commitAt = some 5 ∧ 5 + 1024 ≤ s.superframeNow)
    ∧ (∀ p ∈ [1, 2, 3, 4, 5, 6, 7], (testServed 0x0703).get F.ulpStatus_RX_STATE 0 ≠ p)
    ∧ (let s := (((testIn .run).put F.ulpStatus_RX_STATE 0 5).put F.ulpLane_PRBS 0 1).putFlag F.ulpLane_PRBS_CHECK 0 true
      s.checks 0 0 = true ∧ (testIn .run).checks 0 0 = false ∧ 0 ∉ (s.port 0).prbsSeen
        ∧ (s.putFlag F.ulpLane_PRBS_SYNC 0 true).flag F.ulpLane_PRBS_SYNC 0 = true
        ∧ 0 ∈ ((s.setPort 0 { Port.init with prbsSeen := [0] }).port 0).prbsSeen) := by decide +kernel

/-- LINK_RETRAIN of a port that is aligning, and of one that is up. -/
theorem test_retrain : ∀ rx ∈ [1, 2], ∀ s, s = testAsk ((testIn .parked).put F.ulpStatus_RX_STATE 0 rx) 0x0703 [0, 0, 0, 0] →
    testPasses s 0x0703 linkRetrainCommand = true ∧ s.get F.ulpStatus_RX_STATE 0 = rx ∧ s.deferredOf 0 = none := by
  intro rx hrx s hs
  subst hs
  revert rx
  decide +kernel

/-- Frames and cells whose check passes, and one whose check does not. -/
theorem test_frames : (∀ f ∈ [0, 2 ^ 201, 2 ^ 202, 2 ^ 32, 2 ^ 32 + 5, 2 ^ 32 + 2 ^ 35], checkGood (withCheck f) = true)
    ∧ checkGood 1 = false
    ∧ (bit (withCheck (2 ^ 201)) 201 = true ∧ bit (withCheck (2 ^ 32)) 201 = false ∧ bit (withCheck (2 ^ 32)) 202 = false)
    ∧ (bit (withCheck (2 ^ 32)) 32 = true ∧ bits (withCheck (2 ^ 32)) 0 16 = (testPort .init |>.port 0).rxExpected
      ∧ bits (withCheck (2 ^ 32 + 5)) 0 16 ≠ (testPort .init |>.port 0).rxExpected
      ∧ bits (withCheck (2 ^ 32 + 2 ^ 35)) 34 4 = 2 ∧ bit (withCheck 0) 32 = false)
    ∧ (∀ n ∈ [0, 1], ((testPort { Port.init with rxNotice := n }).port 0).rxNotice = n)
    ∧ ((testPort .init).hears 0 = true ∧ (testIn .run).hears 0 = false
      ∧ ((testPort { Port.init with firstUsed := true, rxFailed := true, keptValid := true }).port 0).firstUsed = true)
    ∧ (headersAre 0xAAAA controlHeader = true ∧ headersAre 0xAAAA dataHeader = false ∧ headersAre 0x5555 dataHeader = true)
    ∧ (let s := (testPort .init).putFlag F.ulpStatus_MISMATCH 0 true
      s.hears 0 = true ∧ s.flag F.ulpStatus_MISMATCH 0 = true ∧ (testPort .init).flag F.ulpStatus_MISMATCH 0 = false) := by
  decide +kernel

/-- Decision frames that are built, and bulk cells that are sent. -/
theorem test_cells : (let s := (testPort { Port.init with latches := [(0, 1, 0, 1, 5)] }).putAt F.slotTable_ENTRY 0 1 1
      s.sends 0 = true ∧ s.slotKind 0 1 = 1 ∧ (s.port 0).latches.find 0 = some (1, 0, 1, 5)
        ∧ (s.port 0).latches.find 1 = none ∧ s.flag F.ulpStatus_MISMATCH 0 = false
        ∧ (s.putFlag F.ulpStatus_MISMATCH 0 true).flag F.ulpStatus_MISMATCH 0 = true)
    ∧ (∀ x ∈ [{ Port.init with resend := [(3, 9)], unacked := [(3, 9)] }, { Port.init with queue := [(1, [7])] }, Port.init],
      (testPort x).sends 0 = true ∧ (testPort x).hears 0 = true ∧ (testPort x).hasBulk 0 = true
        ∧ ((testPort x).port 0).resend = x.resend ∧ ((testPort x).port 0).queue = x.queue
        ∧ ((testPort x).port 0).unacked.length < 1024)
    ∧ (let s := testPort { Port.init with unacked := [(3, 9)], superframe := 8 }
      (s.port 0).unacked ≠ [] ∧ (s.port 0).ackSince + 8 ≤ (s.port 0).superframe) := by decide +kernel

/-- A job of queue 0: stream 0, frames of one block, one block at the start of the host's part of the store. -/
def testJob : Job := ⟨2 ^ 40 + 2 ^ 92 + 2 ^ 128, 0, false, 0, 0, false, false⟩

/-- The same job as an AUTO job that waits for space, and as an EXPAND job in block mode. -/
def testWait : Job := { testJob with auto := true, waitSpace := true }
def testExpand : Job := { testJob with desc := testJob.desc + 2 ^ 34 + 2 ^ 35 + 2 ^ 220 + 2 ^ 256 }

def testRunJob (j : Job) (finished : Bool) : RunJob :=
  { job := j, queue := 0, bytes := 0, frames := 0, taken := 0, written := 0, ctx := 0, history := [], chunkKind := 0,
    chunkLeft := 0, finished, lastSeal := 0, ready := 0 }

/-- A state in which engine 0 of Fulling has jobs to run, or runs one. -/
def testFulling (x : Capture) : State :=
  let s := (((testIn .run).putFlag F.outQueue_ENABLE 0 true).put F.outQueue_SIZE 0 256).putFlag F.ring_ENABLE (ringKey 0 32) true
  { s with capture := x }

/-- Fulling. -/
theorem test_fulling : (let s := testFulling { Capture.init with jobs := [testJob] }
      s.fullingRuns = true ∧ s.capture.running.find 0 = none ∧ s.queueReady 0 = some testJob ∧ s.queueReady 8 = none)
    ∧ (let s := testFulling { Capture.init with running := [(0, testRunJob testJob false)] }
      s.capture.running.find 0 = some (testRunJob testJob false) ∧ s.fullingRuns = true ∧ 0 ≤ s.clock.now
        ∧ jobExpand testJob.desc = false ∧ s.sourcePoisoned testJob 0 1 = false)
    ∧ (let s := testFulling { Capture.init with running := [(0, testRunJob testExpand false)] }
      s.capture.running.find 0 = some (testRunJob testExpand false) ∧ jobExpand testExpand.desc = true
        ∧ expandFrame (s.sourceBlocks testExpand 0 1 []).flatten (jobFirstSeq testExpand.desc) = .bad .badRecord)
    ∧ (let s := testFulling { Capture.init with running := [(0, testRunJob testJob true)] }
      s.capture.running.find 0 = some (testRunJob testJob true) ∧ jobBlock testJob.desc = false
        ∧ jobBlock testExpand.desc = true)
    ∧ (let s := testFulling { Capture.init with jobs := [testWait] }
      s.queueHead 0 = some testWait ∧ testWait.waitSpace = true ∧ frameBound (jobSrcBlocks testWait.desc) ≤ s.queueFree 0 0)
    ∧ (testFulling .init).queueHead 0 = none := by decide +kernel

/-- What else a statement asks for: an entry that names a record, a source that reads as poisoned, and a model that is
valid with an energy limit. Whether a window stops early rests on values that are open (log 15). -/
theorem test_other_cases : (entriesOf ((testServed 0x0C01).request 0).payload false).isSome = true
    ∧ (entriesOf ((testServed 0x0C02).request 0).payload true).isSome = true
    ∧ (entryAt ((testServed 0x0C01).request 0).payload false 0).record = some (.syncControl, 0)
    ∧ ({ testServed 0x0503 with memory := { Memory.init with pagePoison := [(65536, [])] } } : State).storePoisoned
      (((testServed 0x0503).request 0).at 8 8) 33024 = true
    ∧ (testServed 0x0503).storePoisoned (((testServed 0x0503).request 0).at 8 8) 33024 = false
    ∧ ({ testWindow with pounce := 1 }.lambda ≠ 0 ∧ { testWindow with model := 2 ^ 320 }.valid = true) := by decide +kernel

end Sys2Proof
end

section
namespace Sys2Proof.Machine

/-! ### The seal, bit by bit (R21) -/

/-- A shift up, reflected, is a shift down. -/
theorem reverse_shiftLeft_one (r : BitVec 32) : (r <<< 1).reverse = r.reverse >>> 1 := by
  refine BitVec.eq_of_getLsbD_eq fun i hi => ?_
  rw [BitVec.getLsbD_reverse, BitVec.getLsbD_ushiftRight, BitVec.getLsbD_reverse, BitVec.getMsbD_eq_getLsbD,
    BitVec.getMsbD_eq_getLsbD, BitVec.getLsbD_shiftLeft, show 32 - 1 - (1 + i) = 32 - 1 - i - 1 by omega]
  by_cases h : i = 31
  · simp [h]
  · simp [show 1 + i < 32 by omega, show 31 - i ≠ 0 by omega, show 31 - i < 32 by omega, hi]

theorem reverse_xor (x y : BitVec 32) : (x ^^^ y).reverse = x.reverse ^^^ y.reverse := by
  ext i hi
  simp [BitVec.getElem_reverse]

/-- The bit that leaves the register is the lowest of the reflected one. -/
theorem toNat_reverse_mod_two (r : BitVec 32) : r.reverse.toNat % 2 = r.msb.toNat := by
  have h := r.reverse.toNat.testBit_zero
  rw [BitVec.testBit_toNat, BitVec.getLsbD_reverse, ← BitVec.msb_eq_getMsbD_zero] at h
  rw [h]
  rcases Nat.mod_two_eq_zero_or_one r.reverse.toNat with e | e <;> simp [e]

/-- One bit of the seal, with the register reflected. -/
theorem toNat_reverse_sealBit (r : BitVec 32) (b : Bool) :
    (sealBit r b).reverse.toNat = crcBit (r.reverse.toNat ^^^ b.toNat) := by
  have hp : (r.reverse.toNat ^^^ b.toNat) % 2 = (r.msb != b).toNat := by
    rw [Nat.xor_mod_two_eq, Nat.add_mod, toNat_reverse_mod_two]
    cases r.msb <;> cases b <;> rfl
  have hd : (r.reverse.toNat ^^^ b.toNat) / 2 = r.reverse.toNat / 2 := by
    rw [Nat.xor_div_two]
    cases b <;> simp
  have hs : (r.reverse >>> 1).toNat = r.reverse.toNat / 2 := by
    rw [BitVec.toNat_ushiftRight, Nat.shiftRight_eq_div_pow, pow_one]
  unfold sealBit crcBit
  rw [hp, hd, ← hs]
  cases h : (r.msb != b) with
  | false => simp [reverse_shiftLeft_one]
  | true =>
    have hP : (0x1EDC6F41#32).reverse = 0x82F63B78#32 := by decide +kernel
    simp [reverse_xor, reverse_shiftLeft_one, hP]

/-- A step takes the lowest bit alone: what stands above it is shifted down. -/
theorem crcBit_xor (c y : Nat) : crcBit (c ^^^ y) = crcBit (c ^^^ (y.testBit 0).toNat) ^^^ (y / 2) := by
  have hb : (y.testBit 0).toNat = y % 2 := by
    rcases Nat.mod_two_eq_zero_or_one y with e | e <;> simp [e]
  have hp : (c ^^^ y) % 2 = (c ^^^ y % 2) % 2 := by rw [Nat.xor_mod_two_eq, Nat.xor_mod_two_eq, Nat.add_mod_mod]
  have hy : y % 2 / 2 = 0 := by omega
  unfold crcBit
  rw [hb, hp, Nat.xor_div_two, Nat.xor_div_two, hy, Nat.xor_zero]
  split
  · exact Nat.xor_right_comm _ _ _
  · rfl

/-- Bits entered one by one, the lowest first, and all at once. -/
theorem crcBit_iterate_xor : ∀ (n c y : Nat), y < 2 ^ n →
    crcBit^[n] (c ^^^ y) = ((List.range n).map y.testBit).foldl (fun c b => crcBit (c ^^^ b.toNat)) c
  | 0, c, y, h => by
    obtain rfl : y = 0 := by omega
    simp
  | n + 1, c, y, h => by
    rw [Function.iterate_succ_apply, crcBit_xor, crcBit_iterate_xor n _ (y / 2) (by omega), List.range_succ_eq_map]
    simp [Function.comp_def, Nat.testBit_add_one]

/-- One byte of the seal, with the register reflected. -/
theorem toNat_reverse_sealByte (r : BitVec 32) (b : Byte) :
    ((bitsOfByte b).foldl sealBit r).reverse.toNat = crcByte r.reverse.toNat b := by
  have hf : ∀ (l : List Bool) (r : BitVec 32), (l.foldl sealBit r).reverse.toNat =
      l.foldl (fun c b => crcBit (c ^^^ b.toNat)) r.reverse.toNat := by
    intro l
    induction l with
    | nil => exact fun _ => rfl
    | cons a l ih =>
      intro r
      rw [List.foldl_cons, ih, toNat_reverse_sealBit, List.foldl_cons]
  rw [hf]
  exact (crcBit_iterate_xor 8 _ _ b.isLt).symm

end Sys2Proof.Machine

namespace Sys2Proof
open Machine
/-- Settles O4, by induction on the bytes: the model's register is the reflection of R21's. -/
theorem sealIsReflectedCastagnoli : Obligations.SealIsReflectedCastagnoli := by
  have hf : ∀ (l : List Byte) (r : BitVec 32), l.foldl crcByte r.reverse.toNat =
      ((l.flatMap bitsOfByte).foldl sealBit r).reverse.toNat := by
    intro l
    induction l with
    | nil => exact fun _ => rfl
    | cons b l ih =>
      intro r
      rw [List.foldl_cons, ← toNat_reverse_sealByte, ih, List.flatMap_cons, List.foldl_append]
  refine ⟨fun l => ?_, by decide +kernel⟩
  rw [BitVec.toNat_xor]
  exact congrArg (· ^^^ 0xFFFFFFFF) (hf l 0xFFFFFFFF#32)
end Sys2Proof
end

section
namespace Sys2Proof
open Machine
namespace Machine

/-! ### Blocks of a payload (R22, R24) -/

theorem payloadBlocks_fst (r : Request) (off n : Nat) (sealed : Bool) : (payloadBlocks r off n sealed).1 =
    (List.range n).map fun i => (slice r.payload (off + 256 * i) 256, crc32c (slice r.payload (off + 256 * i) 256)) := by
  unfold payloadBlocks
  simp only [List.map_map]
  rfl

/-- The rows of a payload, written from `first` on: each holds its slice and carries its seal. -/
theorem State.writeRows_payload (s : State) (r : Request) (t first off n : Nat) (sealed : Bool) {i : Nat} (hi : i < n) :
    (s.writeRows t first (payloadBlocks r off n sealed).1).libRow t (first + i) = slice r.payload (off + 256 * i) 256
      ∧ (s.writeRows t first (payloadBlocks r off n sealed).1).libRowSeal t (first + i) =
        crc32c (slice r.payload (off + 256 * i) 256) := by
  have h := State.writeRows_row (payloadBlocks r off n sealed).1 s t first
    (by simp [payloadBlocks_fst, slice_length]) i (by simpa [payloadBlocks_fst] using hi)
  simpa [payloadBlocks_fst] using h

/-- No byte beside the rows of a payload is written. -/
theorem State.writeRows_payload_ne (s : State) (r : Request) (t first off n : Nat) (sealed : Bool) {a : Nat}
    (ha : a < 2 ^ 22 * t + 256 * first ∨ 2 ^ 22 * t + 256 * (first + n) ≤ a) :
    (s.writeRows t first (payloadBlocks r off n sealed).1).memory.lib.read 0 a = s.memory.lib.read 0 a :=
  State.lib_writeRows_ne _ s t first (by simp [payloadBlocks_fst, slice_length]) (by simpa [payloadBlocks_fst] using ha)

/-- What the library holds is the same where its part is. -/
theorem library_of_only {ps : List Part} {s u : State} (h : Only ps s u) (hp : Part.library ∉ ps) :
    (∀ a, u.memory.lib.read 0 a = s.memory.lib.read 0 a) ∧ (∀ t row, u.libRow t row = s.libRow t row)
      ∧ ∀ t row, u.libRowSeal t row = s.libRowSeal t row := by
  obtain ⟨h1, h2⟩ := h .library hp
  unfold State.libRow State.libRowSeal
  exact ⟨fun a => by rw [h1], fun t row => by rw [h1], fun t row => by rw [h2]⟩

/-! ### Residency (R204, R242) -/

/-- A store whose values are mapped, key by key, reads the mapped value, where the default is mapped to itself. -/
theorem SMap.read_map {α : Type} (m : SMap α) (d : α) (f : Nat → α → α) {k : Nat} (hd : f k d = d) :
    SMap.read (List.map (fun kv : Nat × α => (kv.1, f kv.1 kv.2)) m) d k = f k (SMap.read m d k) := by
  induction m with
  | nil => exact hd.symm
  | cons x m ih =>
    obtain ⟨j, v⟩ := x
    rw [List.map_cons]
    by_cases e : j = k
    · simp [SMap.read, e]
    · simpa [SMap.read, e] using ih

/-- What eviction makes of a segment of the tile. -/
theorem State.segment_evict (s : State) (t : Nat) (p : Segment → Bool) {id : Nat} (hid : id < 1024) :
    (s.evict t p).segment t id =
      if p (s.segment t id) then { s.segment t id with resident := false } else s.segment t id := by
  have hk : (1024 * t + id) / 1024 = t := by omega
  have hm : (s.evict t p).program.segments = s.program.segments.map fun kv : Nat × Segment =>
      (kv.1, if kv.1 / 1024 = t && p kv.2 then { kv.2 with resident := false } else kv.2) :=
    List.map_congr_left fun kv _ => by split <;> rfl
  unfold State.segment
  rw [hm, SMap.read_map s.program.segments .init
    (fun k g => if k / 1024 = t && p g then { g with resident := false } else g) (by split <;> rfl)]
  simp [hk]

/-! ### LIB_WRITE and LIB_READ (R24, R230, R242) -/

/-- The state that LIB_WRITE leaves where no host seal differs. -/
def State.libWritten (s : State) (r : Request) : State :=
  ((s.writeRows (r.at 0 1) (r.at 2 2) (payloadBlocks r 8 (r.at 4 2) (bit (r.at 1 1) 0)).1).evict (r.at 0 1)
    fun g => overlaps (r.at 2 2) (r.at 4 2) g.libFirst g.libBlocks).askRows (r.at 0 1) libHostWrite (r.at 4 2)

theorem libWriteCommand_act (r : Request) (s u : State) : (libWriteCommand r s).act u =
    if (payloadBlocks r 8 (r.at 4 2) (bit (r.at 1 1) 0)).2 then .ok (u.libWritten r) [] else u.sealRefused (r.at 0 1) := rfl

theorem libReadCommand_act (r : Request) (s u : State) : (libReadCommand r s).act u =
    if anyBlock (r.at 2 2) (r.at 4 2) (u.libBad (r.at 0 1)) then .fail u .faulted 0
    else .ok (u.askRows (r.at 0 1) libReadback (r.at 4 2))
      (((List.range (r.at 4 2)).flatMap fun i => u.libRow (r.at 0 1) (r.at 2 2 + i)) ++
        (List.range (r.at 4 2)).flatMap fun i => leBytes (u.libRowSeal (r.at 0 1) (r.at 2 2 + i)) 4) := rfl

theorem State.libWritten_only (s : State) (r : Request) :
    Only [.library, .memory, .loaded] s (s.libWritten r) :=
  State.askRows_only (by decide) (State.evict_only (by decide) (State.writeRows_only (by decide) (Only.refl _ s)))

/-- What the library holds once LIB_WRITE has written. -/
theorem State.libWritten_rows (s : State) (r : Request) {t first n : Nat} (ht : t = r.at 0 1) (hf : first = r.at 2 2)
    (hn : n = r.at 4 2) :
    (∀ i < n, (s.libWritten r).libRow t (first + i) = slice r.payload (8 + 256 * i) 256
      ∧ (s.libWritten r).libRowSeal t (first + i) = crc32c (slice r.payload (8 + 256 * i) 256))
    ∧ ∀ a, a < 2 ^ 22 * t + 256 * first ∨ 2 ^ 22 * t + 256 * (first + n) ≤ a →
      (s.libWritten r).memory.lib.read 0 a = s.memory.lib.read 0 a := by
  subst ht hf hn
  obtain ⟨h1, h2, h3⟩ := library_of_only (State.askRows_only (t := r.at 0 1) (q := libHostWrite) (n := r.at 4 2)
    (ps := [.memory]) (List.Subset.refl _) (Only.refl _ ((s.writeRows (r.at 0 1) (r.at 2 2)
      (payloadBlocks r 8 (r.at 4 2) (bit (r.at 1 1) 0)).1).evict (r.at 0 1)
        fun g => overlaps (r.at 2 2) (r.at 4 2) g.libFirst g.libBlocks))) (by decide)
  refine ⟨fun i hi => ?_, fun a ha => ?_⟩
  · obtain ⟨g1, g2⟩ := s.writeRows_payload r (r.at 0 1) (r.at 2 2) 8 (r.at 4 2) (bit (r.at 1 1) 0) hi
    exact ⟨(h2 _ _).trans g1, (h3 _ _).trans g2⟩
  · exact (h1 a).trans (s.writeRows_payload_ne r _ _ 8 _ _ ha)

/-! ### A lasting parity error (R242) -/

theorem mem_libBad (s : State) {t row : Nat}
    (h : 16384 * t + row ∈ s.memory.libPoison ∨ 16384 * t + row ∈ s.memory.libUnusable) : s.libBad t row = true := by
  unfold State.libBad
  rcases h with h | h <;> simp [h]

/-- A row whose block is retired, whether or not a spare row remains. -/
theorem State.remapRow_done (s : State) (t row : Nat) :
    (s.remapRow t row).get F.libStatus_SPARES_LEFT t = s.get F.libStatus_SPARES_LEFT t - 1
      ∧ (s.remapRow t row).libBad t row = true ∧ 16384 * t + row ∈ (s.remapRow t row).flash.libRetired
      ∧ (s.remapRow t row).memory.lib = s.memory.lib
      ∧ (s.remapRow t row).get F.libStatus_PARITY_LASTING t = s.get F.libStatus_PARITY_LASTING t := by
  have bad : ∀ v : State, (16384 * t + row ∈ v.memory.libPoison ∨ 16384 * t + row ∈ v.memory.libUnusable) →
      v.libBad t row = true := fun v => mem_libBad v
  have key : ∀ d : State, (∀ f i, d.get f i = s.get f i) → d.memory = s.memory → 16384 * t + row ∈ d.flash.libRetired →
      ∀ u, u = (if d.get F.libStatus_SPARES_LEFT t = 0 then
        d.setMemory { d.memory with libUnusable := if d.memory.libUnusable.contains (16384 * t + row)
          then d.memory.libUnusable else d.memory.libUnusable ++ [16384 * t + row] }
      else (d.put F.libStatus_SPARES_LEFT t (d.get F.libStatus_SPARES_LEFT t - 1)).setMemory { d.memory with
        libPoison := if d.memory.libPoison.contains (16384 * t + row) then d.memory.libPoison
          else d.memory.libPoison ++ [16384 * t + row] }) →
      u.get F.libStatus_SPARES_LEFT t = s.get F.libStatus_SPARES_LEFT t - 1 ∧ u.libBad t row = true
        ∧ 16384 * t + row ∈ u.flash.libRetired ∧ u.memory.lib = s.memory.lib
        ∧ u.get F.libStatus_PARITY_LASTING t = s.get F.libStatus_PARITY_LASTING t := by
    generalize 16384 * t + row = k at bad ⊢
    rintro d hg hm hk u rfl
    split
    · rename_i h
      refine ⟨(hg _ _).trans ?_, bad _ (.inr (mem_addOnce k _)), hk, by rw [← hm]; rfl, hg _ _⟩
      rw [hg] at h
      omega
    · refine ⟨?_, bad _ (.inl (mem_addOnce k _)), hk, by rw [← hm]; rfl, ?_⟩
      · have := State.get_lt s F.libStatus_SPARES_LEFT t
        rw [hg]
        exact (State.get_congr (s := d.put F.libStatus_SPARES_LEFT t _) rfl _ _).trans
          (State.get_put_of_lt _ _ _ (by omega))
      · exact (State.get_congr (s := d.put F.libStatus_SPARES_LEFT t _) rfl _ _).trans
          ((State.get_put_other _ (by decide)).trans (hg _ _))
  exact key { s with flash := { s.flash with libRetired := if s.flash.libRetired.contains (16384 * t + row)
    then s.flash.libRetired else s.flash.libRetired ++ [16384 * t + row] } }
    (State.get_congr rfl) rfl (mem_addOnce _ s.flash.libRetired) _ rfl

/-- A row whose block is retired: its own bytes are open, and every other byte of the library stands. -/
theorem State.retireRow_done (s : State) (t row : Nat) :
    (s.retireRow t row).get F.libStatus_SPARES_LEFT t = s.get F.libStatus_SPARES_LEFT t - 1
      ∧ (s.retireRow t row).libBad t row = true ∧ 16384 * t + row ∈ (s.retireRow t row).flash.libRetired
      ∧ (s.retireRow t row).get F.libStatus_PARITY_LASTING t = s.get F.libStatus_PARITY_LASTING t
      ∧ ∀ a, a < 2 ^ 22 * t + 256 * row ∨ 2 ^ 22 * t + 256 * row + 256 ≤ a →
        (s.retireRow t row).memory.lib.read 0 a = s.memory.lib.read 0 a := by
  unfold State.retireRow
  have hg : ∀ f i, (s.blurRow t row).get f i = s.get f i := State.get_congr rfl
  have hl : ∀ a, (a < 2 ^ 22 * t + 256 * row ∨ 2 ^ 22 * t + 256 * row + 256 ≤ a) →
      (s.blurRow t row).memory.lib.read 0 a = s.memory.lib.read 0 a := fun a ha => by
    unfold State.blurRow
    dsimp only
    refine SMap.read_writeAll_ne _ _ _ ?_
    rw [List.length_map, List.length_range]
    exact ha
  generalize s.blurRow t row = b at hg hl ⊢
  obtain ⟨h1, h2, h3, h4, h5⟩ := b.remapRow_done t row
  exact ⟨by rw [h1, hg], h2, h3, by rw [h5, hg], fun a ha => by rw [h4]; exact hl a ha⟩

/-- A segment of which `dropSegment` makes nothing resident that was not. -/
theorem State.dropSegment_not_resident (s : State) (t id k : Nat) (h : (s.segment t k).resident = false) :
    ((s.dropSegment t id).segment t k).resident = false := by
  by_cases e : k = id
  · subst e
    exact congrArg Segment.resident (SMap.read_write_self _ _ _ _)
  · exact (congrArg Segment.resident (SMap.read_write_ne s.program.segments Segment.init Segment.init _
      (show 1024 * t + k ≠ 1024 * t + id by omega))).trans h

/-- Rows read as poisoned as the memories have it. -/
theorem libBad_of_only {ps : List Part} {s u : State} (h : Only ps s u) (h1 : Part.library ∉ ps) (h2 : Part.store ∉ ps)
    (h3 : Part.memory ∉ ps) (t row : Nat) : u.libBad t row = s.libBad t row := by
  unfold State.libBad
  rw [memory_of_only h h1 h2 h3]

/-- A lasting parity error: what it counts and raises, and what becomes of the row and of its segments. -/
theorem State.libLasting_done (s : State) (t row : Nat) (playback : Bool) {u : State}
    (hu : u = s.libLasting t row playback) :
    u.get F.libStatus_PARITY_LASTING t = satAdd (s.get F.libStatus_PARITY_LASTING t) 1 F.libStatus_PARITY_LASTING.width
      ∧ Raised s u (896 + t) 1 0
      ∧ u.libBad t row = true ∧ u.get F.libStatus_SPARES_LEFT t = s.get F.libStatus_SPARES_LEFT t - 1
      ∧ 16384 * t + row ∈ u.flash.libRetired
      ∧ (∀ a, a < 2 ^ 22 * t + 256 * row ∨ 2 ^ 22 * t + 256 * row + 256 ≤ a →
        u.memory.lib.read 0 a = s.memory.lib.read 0 a)
      ∧ ∀ id < 1024, overlaps row 1 (s.segment t id).libFirst (s.segment t id).libBlocks = true →
        (u.segment t id).resident = false := by
  unfold State.libLasting at hu
  extract_lets a b c at hu
  have hap : a.get F.libStatus_PARITY_LASTING t = satAdd (s.get F.libStatus_PARITY_LASTING t) 1 _ := State.get_count _ _ _ _
  have has : a.get F.libStatus_SPARES_LEFT t = s.get F.libStatus_SPARES_LEFT t := State.get_count_other _ (by decide)
  have oa : Only [.image .libStatus] s a := State.count_only (by decide) (Only.refl _ s)
  have hra : Raised s b (896 + t) 1 0 := (Raised.raise _ _ _).grow (Grows.report _ _ _ _ _ _)
  have ob : Only [.log, .image .logStatus, .out, .hatband] a b :=
    State.report_only (by decide) (State.raise_only (by decide) (Only.refl _ a))
  clear_value a b
  obtain ⟨r, hr⟩ : ∃ r, r = b.retireRow t row := ⟨_, rfl⟩
  obtain ⟨r1, r2, r3, r4, r5⟩ := b.retireRow_done t row
  have or : Only [.flash, .memory, .image .libStatus, .library, .free] b r := by
    rw [hr]
    exact State.retireRow_only (by decide) (Only.refl _ b)
  rw [← hr] at r1 r2 r3 r4 r5
  have hseg : r.segment t = s.segment t := by
    rw [segment_of_only or (by decide), segment_of_only ob (by decide), segment_of_only oa (by decide)]
  have hc : c = r.evict t fun g => overlaps row 1 g.libFirst g.libBlocks := by rw [hr]
  have oc : Only [.loaded] r c := by
    rw [hc]
    exact State.evict_only (by decide) (Only.refl _ r)
  have ou : Only [.loaded, .runs, .image .runStatus, .acq, .drive] r u := by
    rw [hu]
    exact Only.ite (State.dropSegment_only (by decide) (State.parityZero_only (by decide) (oc.mono (by decide))))
      (oc.mono (by decide))
  refine ⟨?_, ?_, ?_, ?_, ?_, fun x hx => ?_, fun id hid ho => ?_⟩
  · rw [ou.get (by decide), r4, ob.get (by decide), hap]
  · exact hra.grow ((Grows.of_only or (by decide) (by decide)).trans (Grows.of_only ou (by decide) (by decide)))
  · rw [libBad_of_only ou (by decide) (by decide) (by decide), r2]
  · rw [ou.get (by decide), r1, ob.get (by decide), has]
  · rw [show u.flash = r.flash from ou .flash (by decide)]
    exact r3
  · rw [(library_of_only ou (by decide)).1, r5 x hx, (library_of_only ob (by decide)).1,
      (library_of_only oa (by decide)).1]
  · have hcs : (c.segment t id).resident = false := by
      rw [hc, State.segment_evict _ _ _ hid, hseg, if_pos ho]
    rw [hu]
    split
    · refine State.dropSegment_not_resident _ _ _ _ ?_
      rw [segment_of_only (State.parityZero_only (List.Subset.refl _) (Only.refl _ c)) (by decide)]
      exact hcs
    · exact hcs

end Machine

/-- Settles O23: what LIB_WRITE writes, what LIB_READ returns, and what a parity error leaves, each by its own lemma. -/
theorem libraryEffects : Obligations.LibraryEffects := by
  refine ⟨fun m s t first n h ht hf hn => ⟨fun hg => ?_, fun hg => ?_⟩, fun m s t first n h ht hf hn => ⟨fun hb => ?_, fun hb => ?_⟩,
    fun t row playback s hm => ?_, fun t row playback s hm => ?_⟩
  · have o := s.taken.libWritten_only (s.request m)
    obtain ⟨h1, h2⟩ := s.taken.libWritten_rows (s.request m) ht hf hn
    refine h.done rfl (u := s.taken.libWritten (s.request m)) ?_ (mailbox_of_only o (by decide) m) ⟨h1, h2, ?_⟩
    · rw [libWriteCommand_act, if_pos (by rw [← hn]; exact hg)]
    · exact (taken_only s (by decide)).trans (o.mono (by decide))
  · have o : Only [.log, .image .logStatus, .out, .hatband] s.taken (s.taken.report 3 false 0xFFF t) :=
      State.report_only (List.Subset.refl _) (Only.refl _ _)
    refine h.failed rfl (u := s.taken.report 3 false 0xFFF t) (st := .sealMismatch) (d := 0) ?_ ⟨?_, ?_, ?_⟩
    · rw [libWriteCommand_act, if_neg (by rw [← hn, hg]; decide), ht]
      rfl
    · exact Answered.reply (mailbox_of_only o (by decide) m)
    · rw [memory_of_only (Answered.only _ _ _ _) (by decide) (by decide) (by decide),
        memory_of_only o (by decide) (by decide) (by decide)]
      rfl
    · rw [program_of_only (Answered.only _ _ _ _) (by decide) (by decide), program_of_only o (by decide) (by decide)]
      rfl
  · have o : Only [.memory] s.taken (s.taken.askRows t libReadback n) := State.askRows_only (List.Subset.refl _) (Only.refl _ _)
    refine h.replied rfl (u := s.taken.askRows t libReadback n) ?_ (Answered.reply (mailbox_of_only o (by decide) m))
    subst ht hf hn
    exact (libReadCommand_act _ _ _).trans (if_neg (Bool.not_eq_true _ ▸ hb))
  · refine h.failed rfl (u := s.taken) ?_ (Answered.reply rfl)
    subst ht hf hn
    exact (libReadCommand_act _ _ _).trans (if_pos hb)
  · have e : exec (.libParityError t row false playback) s =
        .next (((s.fresh.count F.libStatus_PARITY_TRANSIENT t).raise (896 + t) 0).report 5 false (896 + t) t row.toNat) :=
      congrArg Host.Outcome.next (if_neg hm)
    have o := State.report_only (cls := 5) (lasting := false) (source := 896 + t) (a := t) (b := row.toNat) (List.Subset.refl _)
      (Only.refl _ ((s.fresh.count F.libStatus_PARITY_TRANSIENT t).raise (896 + t) 0))
    refine ⟨_, e, ?_, (Raised.raise _ _ _).grow (Grows.report _ _ _ _ _ _), Reported.report _ _ _ _ _ rfl, ?_⟩
    · rw [o.get (by decide), State.raise_get, State.get_count]
      rfl
    · exact (memory_of_only o (by decide) (by decide) (by decide)).trans rfl
  · have e : exec (.libParityError t row true playback) s = .next (s.fresh.libLasting t row.toNat playback) :=
      congrArg Host.Outcome.next (if_neg hm)
    exact ⟨_, e, s.fresh.libLasting_done t row.toNat playback rfl⟩

end Sys2Proof
end

section
namespace Sys2Proof
open Machine
namespace Machine

/-! ### Bindings, contexts and program lists (R17, R18, R181, R198) -/

theorem State.bindImage_setBinding (s : State) (t n b : Nat) : (s.setBinding t n b).bindImage t n = b :=
  SMap.read_write_self _ _ _ _

theorem State.bindings_setBinding_ne (s : State) (t n b : Nat) {k : Nat} (h : k ≠ 16 * t + n) :
    (s.setBinding t n b).program.bindings.read 0xFFFFFFFFFFFF k = s.program.bindings.read 0xFFFFFFFFFFFF k :=
  SMap.read_write_ne _ _ _ _ h

/-- The contexts of a load, one after the other. -/
def State.loadCtxs (s : State) (t first n : Nat) (c : Nat → Nat) : State :=
  (List.range n).foldl (fun s i => s.loadCtx t (first + i) (c i)) s

theorem State.loadCtxs_succ (s : State) (t first n : Nat) (c : Nat → Nat) :
    s.loadCtxs t first (n + 1) c = (s.loadCtxs t first n c).loadCtx t (first + n) (c n) := by
  unfold State.loadCtxs
  rw [List.range_succ, List.foldl_append, List.foldl_cons, List.foldl_nil]

theorem State.loadCtxs_only (s : State) (t first n : Nat) (c : Nat → Nat) : Only [.loaded] s (s.loadCtxs t first n c) :=
  Only.foldl (fun _ _ hx => State.loadCtx_only (List.Subset.refl _) hx) _ (Only.refl _ s)

/-- Contexts loaded while the tile is in no active run: each is in force (R181). -/
theorem State.loadCtx_idle (t first : Nat) (c : Nat → Nat) (s : State) (h : s.inRun t = false) : ∀ n : Nat,
    (s.loadCtxs t first n c).inRun t = false
      ∧ ∀ i < n, (s.loadCtxs t first n c).program.contexts.read 0 (1024 * t + (first + i)) = c i
  | 0 => ⟨h, fun i hi => absurd hi (by omega)⟩
  | n + 1 => by
    obtain ⟨h1, h2⟩ := State.loadCtx_idle t first c s h n
    rw [State.loadCtxs_succ]
    generalize s.loadCtxs t first n c = u at *
    have e : (u.loadCtx t (first + n) (c n)).program.contexts = u.program.contexts.write 0 (1024 * t + (first + n)) (c n) := by
      unfold State.loadCtx
      rw [if_neg (by rw [h1]; decide)]
    refine ⟨?_, fun i hi => ?_⟩
    · rw [inRun_of_only (State.loadCtx_only (List.Subset.refl _) (Only.refl _ u)) (by decide), h1]
    · rw [e]
      by_cases hn : i = n
      · subst hn
        exact SMap.read_write_self _ _ _ _
      · rw [SMap.read_write_ne _ _ _ _ (by omega)]
        exact h2 i (by omega)

/-- Contexts loaded while the tile is in an active run: each waits in its shadow, behind those loaded before (R181). -/
theorem State.loadCtx_busy (t first : Nat) (c : Nat → Nat) (s : State) (h : s.inRun t = true) : ∀ n u,
    u = s.loadCtxs t first n c →
    u.inRun t = true ∧ u.si = s.si ∧ u.program.contexts = s.program.contexts
      ∧ (∀ i < n, u.program.ctxShadow.find (1024 * t + (first + i)) =
        some (serveAlso (s.program.ctxShadow.read [] (1024 * t + (first + i))) (c i) s.si))
      ∧ ∀ k, 1024 * t + (first + n) ≤ k → u.program.ctxShadow.read [] k = s.program.ctxShadow.read [] k
  | 0, _, rfl => ⟨h, rfl, rfl, fun i hi => absurd hi (by omega), fun _ _ => rfl⟩
  | n + 1, _, rfl => by
    obtain ⟨h1, h2, h3, h4, h5⟩ := State.loadCtx_busy t first c s h n _ rfl
    rw [State.loadCtxs_succ]
    generalize s.loadCtxs t first n c = u at *
    have o : Only [.loaded] u (u.loadCtx t (first + n) (c n)) := State.loadCtx_only (List.Subset.refl _) (Only.refl _ u)
    have e : (u.loadCtx t (first + n) (c n)).program = { u.program with
        ctxShadow := u.program.ctxShadow.list (1024 * t + (first + n))
          (serveAlso (s.program.ctxShadow.read [] (1024 * t + (first + n))) (c n) s.si) } := by
      rw [← h5 _ (Nat.le_refl _), ← h2]
      unfold State.loadCtx
      rw [if_pos h1]
    rw [inRun_of_only o (by decide), si_of_only o (by decide), e]
    refine ⟨h1, h2, h3, fun i hi => ?_, fun k hk => ?_⟩
    · by_cases hn : i = n
      · subst hn
        exact SMap.find_list _ _ _
      · exact (SMap.find_list_ne _ _ (by omega)).trans (h4 i (by omega))
    · exact (SMap.read_list_ne _ _ _ (by omega)).trans (h5 k (by omega))

theorem serveAlso_getLast? {α : Type} (l : List (α × Nat)) (v : α) (si : Nat) :
    (serveAlso l v si).getLast? = some (v, si) := by
  simp [serveAlso]

theorem mem_serveAlso {α : Type} {l : List (α × Nat)} {x : α × Nat} (v : α) {si : Nat} (hx : x ∈ l) (hs : x.2 ≠ si) :
    x ∈ serveAlso l v si := by
  simp [serveAlso, hx, hs]

theorem ctxLoadCommand_act (r : Request) (s u : State)
    (h : (payloadBlocks r 8 (r.at 4 2) (bit (r.at 1 1) 0)).2 = true) : (ctxLoadCommand r s).act u =
    .ok (u.loadCtxs (r.at 0 1) (r.at 2 2) (8 * r.at 4 2) (loadedCtx r)) [] :=
  if_pos h

end Machine

/-- CTX_LOAD of a request that passes, with every host seal right. -/
theorem Passes.ctxLoad {m : Fin 16} {s : State} {t first n : Nat} {P : State → Prop} (h : Passes s m 0x0205 ctxLoadCommand)
    (ht : t = (s.request m).at 0 1) (hf : first = (s.request m).at 2 2) (hn : n = (s.request m).at 4 2)
    (hg : (payloadBlocks (s.request m) 8 n (bit ((s.request m).at 1 1) 0)).2 = true)
    (hP : P (s.taken.loadCtxs t first (8 * n) (loadedCtx (s.request m)))) :
    Runs (.ctxLoad m) s fun v => Done s v m [] P := by
  subst ht hf hn
  exact h.done rfl (ctxLoadCommand_act _ _ _ hg) (mailbox_of_only (State.loadCtxs_only _ _ _ _ _) (by decide) m) hP

/-- Settles O24: bindings and lists stand as given, and CTX_LOAD loads context by context. -/
theorem slotEffects : Obligations.SlotEffects := by
  refine ⟨fun m s h => ?_, fun m s h => ?_, fun m s t first n h ht hf hn hg => ⟨fun hr => ?_, fun hr => ?_⟩,
    fun m s t first n h ht hf hn => ?_, fun m s h => ?_⟩
  · exact h.done (u := s.taken.setBinding ((s.request m).at 0 1) ((s.request m).at 1 1) ((s.request m).at 2 6)) rfl rfl rfl
      ⟨State.bindImage_setBinding _ _ _ _, fun k hk => State.bindings_setBinding_ne _ _ _ _ hk⟩
  · exact h.query rfl rfl
  · exact h.ctxLoad ht hf hn hg (State.loadCtx_idle t first _ s.taken hr (8 * n)).2
  · refine h.ctxLoad ht hf hn hg ?_
    obtain ⟨-, -, h3, h4, -⟩ := State.loadCtx_busy t first (loadedCtx (s.request m)) s.taken hr (8 * n) _ rfl
    exact ⟨h3, fun i hi => ⟨_, h4 i hi, serveAlso_getLast? _ _ _, fun x hx hs => mem_serveAlso _ hx hs⟩⟩
  · subst ht hf hn
    exact h.query rfl rfl
  · exact h.done rfl rfl rfl ⟨SMap.read_write_self _ _ _ _, fun t ht => SMap.read_write_ne _ _ _ _ ht⟩

end Sys2Proof
end

section
namespace Sys2Proof
open Machine
namespace Machine

/-! ### Die links (R11, R12) -/

/-- What a module's transit holds reaches the islands: neither the log nor the Crown pair changes. -/
theorem State.landTransits_only (s : State) (l : List Nat) :
    Only [.drive, .bias, .image .lateStatus] s (l.foldl State.landTransit s) :=
  Only.foldl (fun _ _ hx => State.landTransit_only (by decide) hx) _ (Only.refl _ s)

/-- Entry to SAFE in SAFE is a report (R401). -/
theorem State.enterSafe_of_safe (s : State) (cause : Nat) (h : s.mode = .safe) :
    s.enterSafe cause = s.report 37 false 0xFFF cause := by
  unfold State.enterSafe
  extract_lets v
  have hm : v.mode = s.mode := (State.report_only (List.Subset.refl _) (Only.refl _ s)) .mode (by decide)
  exact if_pos (hm.trans h)

/-- Entry to SAFE changes no module of the die links. -/
theorem State.enterSafe_links (s : State) (cause : Nat) :
    (s.enterSafe cause).crown.linksDown = s.crown.linksDown ∧ (s.enterSafe cause).crown.retraining = s.crown.retraining := by
  by_cases h : s.mode = .safe
  · rw [s.enterSafe_of_safe cause h, (State.report_only (List.Subset.refl _) (Only.refl _ s)) .crown (by decide)]
    exact ⟨rfl, rfl⟩
  · obtain ⟨u, ho, -, e⟩ := State.enterSafe_split s cause h
    rw [e, (State.finishAll_only (ps := safeParts) (by decide) (Only.refl _ _)) .crown (by decide), State.enterMode_crown,
      State.count_crown, show u.crown = s.crown from ho .crown (by decide)]
    exact ⟨rfl, rfl⟩

/-- A module whose retraining has ended. -/
def State.retrained (s : State) (k : Nat) : State := s.setCrown { s.crown with
  retraining := s.crown.retraining.filter (· ≠ k), linksDown := s.crown.linksDown.filter (· ≠ k) }

/-- A module whose retraining has failed. -/
def State.retrainFailed (s : State) (k : Nat) : State :=
  (s.retrained k).setCrown { (s.retrained k).crown with linksDown := (s.retrained k).crown.linksDown ++ [k] }

theorem execDieLinkRetrainDone_ok {k : Fin 4} {s : State}
    (h : s.crown.retraining.contains k.val = true ∨ s.crown.linksDown.contains k.val = true) :
    exec (.dieLinkRetrainDone k true) s =
      .next ((tilesOfDie k).foldl State.landTransit ((s.fresh.retrained k).report 8 false 0xFFF k)) :=
  congrArg Host.Outcome.next (if_pos ((Bool.or_eq_true _ _).mpr h))

theorem execDieLinkRetrainDone_failed {k : Fin 4} {s : State}
    (h : s.crown.retraining.contains k.val = true ∨ s.crown.linksDown.contains k.val = true) :
    exec (.dieLinkRetrainDone k false) s =
      .next (((s.fresh.retrainFailed k).report 8 true 0xFFF k).enterSafe 0x0012) := by
  change execDieLinkRetrainDone k false s = _
  unfold execDieLinkRetrainDone
  extract_lets a b
  have ha : (a.crown.retraining.contains k.val || a.crown.linksDown.contains k.val) = true := (Bool.or_eq_true _ _).mpr h
  rw [if_pos ha, if_neg Bool.false_ne_true]
  rfl

/-- What FLIT_REPLAY_FAIL makes of a die's tiles: of those in a shot, each voids the shot. -/
def State.voidDie (s : State) (k : Nat) : State :=
  (tilesOfDie k).foldl (fun s t => if (s.tile t).inShot then s.voidShot t else s) s

theorem State.voidDie_only (s : State) (k : Nat) : Only [.runs, .image .runStatus, .acq] s (s.voidDie k) :=
  Only.foldl (fun _ _ hx => Only.ite (State.voidShot_only (by decide) hx) hx) _ (Only.refl _ s)

theorem execFlitReplayFail_next {k : Fin 4} {s : State} (hm : s.mode ≠ .reset)
    (hr : s.crown.retraining.contains k.val = false) : exec (.flitReplayFail k) s =
      .next (((s.fresh.report 7 true 0xFFF k).setCrown { (s.fresh.report 7 true 0xFFF k).crown with
        retraining := (s.fresh.report 7 true 0xFFF k).crown.retraining ++ [k.val] }).voidDie k) :=
  congrArg Host.Outcome.next (if_neg (by simpa [State.fresh, hm] using hr))

end Machine

/-- Settles O36: every row is its report, after which the log stands, and its change of the Crown pair. -/
theorem dieLinkEffects : Obligations.DieLinkEffects := by
  refine ⟨fun k s hm hr => ⟨?_, ?_⟩, fun k s h => ⟨?_, ?_⟩⟩
  · have e : exec (.flitCrcFail k) s = .next (s.fresh.report 7 false 0xFFF k) :=
      congrArg Host.Outcome.next (if_neg (by simpa [State.fresh, hm] using hr))
    exact ⟨_, e, Reported.report _ _ _ _ _ rfl,
      State.report_only (by decide) (State.fresh_only (by decide) (Only.refl _ s))⟩
  · have o : Only [.log, .image .logStatus, .out, .hatband] s (s.fresh.report 7 true 0xFFF k) :=
      State.report_only (by decide) (State.fresh_only (by decide) (Only.refl _ s))
    have hre : Reported s (s.fresh.report 7 true 0xFFF k) 7 := Reported.report _ _ _ _ _ rfl
    have e := execFlitReplayFail_next hm hr
    generalize s.fresh.report 7 true 0xFFF k = a at o hre e
    have oc := State.setCrown_only (x := { a.crown with retraining := a.crown.retraining ++ [k.val] }) (List.Subset.refl _)
      (Only.refl _ a)
    have hc : a.crown = s.crown := o .crown (by decide)
    refine ⟨_, e, ?_, ?_, fun u hu g hi hg hgi hmem => ?_⟩
    · exact (hre.only oc (by decide)).only (State.voidDie_only _ _) (by decide)
    · rw [(State.voidDie_only _ _) .crown (by decide), State.setCrown_crown, hc]
    · refine (State.voidShots_done (fun s t => (s.tile t).inShot) (fun _ _ u hv => hv.inShot u) _ _).2 u hu ?_ g ?_ ?_ ?_
      · rw [tile_of_only oc (by decide), tile_of_only o (by decide), hi]
      · rw [tile_of_only oc (by decide), tile_of_only o (by decide), hg]
      · rw [group_of_only oc (by decide), group_of_only o (by decide), hgi]
      · unfold State.members
        rw [group_of_only oc (by decide), group_of_only o (by decide)]
        exact hmem
  · have o := State.landTransits_only ((s.fresh.retrained k).report 8 false 0xFFF k) (tilesOfDie k)
    have hre : Reported s ((s.fresh.retrained k).report 8 false 0xFFF k) 8 := Reported.report _ _ _ _ _ rfl
    refine ⟨_, execDieLinkRetrainDone_ok h, hre.only o (by decide), ?_⟩
    rw [o .crown (by decide), (State.report_only (List.Subset.refl _) (Only.refl _ _)) .crown (by decide)]
    rfl
  · have o := State.report_only (cls := 8) (lasting := true) (source := 0xFFF) (a := k) (b := 0) (List.Subset.refl _)
      (Only.refl _ (s.fresh.retrainFailed k))
    have e := execDieLinkRetrainDone_failed h
    have hm : ((s.fresh.retrainFailed k).report 8 true 0xFFF k).mode = s.mode := o .mode (by decide)
    have hc : ((s.fresh.retrainFailed k).report 8 true 0xFFF k).crown = (s.fresh.retrainFailed k).crown :=
      o .crown (by decide)
    clear o
    generalize (s.fresh.retrainFailed k).report 8 true 0xFFF k = a at e hm hc
    obtain ⟨h1, h2⟩ := a.enterSafe_links 0x0012
    rw [hc] at h1 h2
    refine ⟨_, e, a.enterSafe_mode _, ?_, ?_, fun hs => ?_⟩
    · rw [h1]
      exact List.mem_append_right _ (List.mem_singleton_self _)
    · rw [h2]
      simp [State.retrainFailed, State.retrained]
    · exact (a.enterSafe_done 0x0012 (by rw [hm]; exact hs)).1
end Sys2Proof
end

section
namespace Sys2Proof
open Machine

/-! ### Words that are dispatched, that go on and that wait (R150, R156, R180) -/

/-- A timed word that is dispatched does what its operation says. -/
theorem Timed.dispatched {s : State} {t : Nat} {o : Op} (h : Timed s t o) (act : Nat → Nat → State → State) :
    s.fresh.dispatchTimed t o act = act (s.wordAt t) (s.wordTick t (s.wordAt t)) s.fresh := by
  have h1 : (s.fresh.dispatches t && decide (opOf (s.fresh.wordAt t) = o)) = true := by
    rw [show s.fresh.dispatches t = true from h.go, show opOf (s.fresh.wordAt t) = o from h.op]
    simp
  have h2 : ¬ s.fresh.relLate t (s.fresh.wordAt t) = true := ne_true_of_eq_false h.early
  have h3 : (s.fresh.wordTick t (s.fresh.wordAt t) : Int) ≤ s.fresh.tick t + Config.lookahead := h.soon
  have h4 : ¬ s.fresh.rewritten (opcodeOf (s.fresh.wordAt t)) = true := ne_true_of_eq_false h.unpatched
  unfold State.dispatchTimed
  dsimp only
  rw [if_pos h1, if_neg h2, if_pos h3]
  exact if_neg h4

/-- A timed row whose word is dispatched. -/
theorem Timed.runs {s : State} {t : Nat} {o : Op} {c : Instr} {act : Nat → Nat → State → State} {P : State → Prop}
    (h : Timed s t o) (he : exec c s = .next (s.fresh.dispatchTimed t o act))
    (hP : P (act (s.wordAt t) (s.wordTick t (s.wordAt t)) s.fresh)) : Runs c s P :=
  ⟨_, he.trans (congrArg Host.Outcome.next (h.dispatched act)), hP⟩

theorem OthersStand.of_only {ps : List Part} {s u : State} (h : Only ps s u) (t : Nat) (h1 : Part.runs ∉ ps)
    (h2 : Part.engines ∉ ps) (h3 : Part.image .engineStatus ∉ ps) : OthersStand s u t :=
  ⟨fun i _ => ⟨tile_of_only h h1 i, engine_of_only h h2 i⟩, fun i _ _ => h.image h3 i, fun g => group_of_only h h1 g⟩

theorem OthersStand.trans {s u v : State} {t : Nat} (h : OthersStand s u t) (g : OthersStand u v t) : OthersStand s v t := by
  obtain ⟨h1, h2, h3⟩ := h
  obtain ⟨g1, g2, g3⟩ := g
  exact ⟨fun i hi => ⟨(g1 i hi).1.trans (h1 i hi).1, (g1 i hi).2.trans (h1 i hi).2⟩,
    fun i hi hn => (g2 i hi hn).trans (h2 i hi hn), fun g => (g3 g).trans (h3 g)⟩

theorem OthersStand.setTile (s : State) (t : Nat) (r : TileRun) : OthersStand s (s.setTile t r) t :=
  ⟨fun _ hi => ⟨State.tile_setTile_ne s r hi, rfl⟩, fun _ _ _ => rfl, fun _ => rfl⟩

theorem OthersStand.setEngine (s : State) (t : Nat) (e : Engine) : OthersStand s (s.setEngine t e) t :=
  ⟨fun _ hi => ⟨rfl, State.engine_setEngine_ne s e hi⟩, fun _ _ _ => rfl, fun _ => rfl⟩

theorem OthersStand.put (s : State) {t : Nat} (ht : t < 17) (f : Field) (v : Nat) (hf : f.record = .engineStatus) :
    OthersStand s (s.put f t v) t := by
  refine ⟨fun _ _ => ⟨rfl, rfl⟩, fun i hi hn => ?_, fun _ => rfl⟩
  unfold State.put
  rw [hf]
  refine State.image_setImage_index _ .engineStatus _ ?_
  rw [show Rec.engineStatus.place.count = 17 from rfl, Nat.mod_eq_of_lt ht, Nat.mod_eq_of_lt hi]
  exact Ne.symm hn

/-- A word that has ended: nothing beside the tile's own run and engine has moved before (R165). -/
theorem GoesOn.advance {s v : State} {t n : Nat} {r : TileRun} (ht : t < 17) (hr : v.tile t = r)
    (hpc : r.pc = (s.tile t).pc) (ho : OthersStand s v t) : GoesOn s (v.advance t n) t n r := by
  obtain ⟨w, hw⟩ : ∃ w, w = v.setTile t { v.tile t with pc := (v.tile t).pc + n } := ⟨_, rfl⟩
  obtain ⟨x, hx⟩ : ∃ x, x = w.setEngine t { w.engine t with inst := false, abandoned := 0, waitSince := none } := ⟨_, rfl⟩
  have e : v.advance t n = (x.putFlag F.engineStatus_GUARD t false).put F.engineStatus_STATE t 1 := by
    rw [hx, hw]
    rfl
  have hxe : x.engine t = { w.engine t with inst := false, abandoned := 0, waitSince := none } := by
    rw [hx]
    exact State.engine_setEngine _ _ _
  rw [e]
  refine ⟨?_, ?_, ?_, State.get_put _ _ _ _, ?_, ?_⟩
  · rw [State.put_tile, State.putFlag_tile, hx, State.setEngine_tile, hw, State.tile_setTile, hr, ← hpc]
  · rw [State.put_engine, State.putFlag_engine, hxe]
  · rw [State.put_engine, State.putFlag_engine, hxe]
  · rw [State.flag_put_other _ (by decide)]
    exact State.flag_putFlag _ _ _ _ (by decide)
  · have h1 : OthersStand v w t := hw ▸ OthersStand.setTile v t _
    have h2 : OthersStand w x t := hx ▸ OthersStand.setEngine w t _
    exact ((ho.trans h1).trans h2).trans ((OthersStand.put x ht _ _ rfl).trans (OthersStand.put _ ht _ _ rfl))

/-- A word that stands (R156). -/
theorem Waits.beginWait {s v : State} {t : Nat} (ht : t < 17) (he : v.engine t = s.engine t)
    (hn : v.clock.now = s.clock.now) (ho : OthersStand s v t) : Waits s (v.beginWait t) t (v.tile t) := by
  obtain ⟨y, hy1, hy2, hy⟩ : ∃ y : Engine, y.inst = true
      ∧ y.waitSince = some ((s.engine t).waitSince.getD s.clock.now)
      ∧ v.beginWait t = (v.setEngine t y).put F.engineStatus_STATE t 2 := by
    unfold State.beginWait
    extract_lets x z
    refine ⟨{ z with inst := true }, rfl, ?_, rfl⟩
    unfold z x
    rw [← he, ← hn]
    cases hw : (v.engine t).waitSince with
    | none => rfl
    | some a => exact hw
  rw [hy]
  refine ⟨rfl, ?_, ?_, State.get_put _ _ _ _, ?_⟩
  · rw [State.put_engine, State.engine_setEngine, hy1]
  · rw [State.put_engine, State.engine_setEngine, hy2]
  · exact (ho.trans (OthersStand.setEngine v t y)).trans (OthersStand.put _ ht _ _ rfl)

end Sys2Proof
end

section
namespace Sys2Proof
open Machine
namespace Machine

/-! ### Pulses that take their places (R69) -/

/-- A pulse that differs from another in its grid and its place on it alone. -/
def Pulse.Laid (p q : Pulse) : Prop := q = { p with grid := q.grid, start := q.start }

theorem Pulse.Laid.refl (p : Pulse) : p.Laid p := rfl

theorem Pulse.Laid.back {p q : Pulse} (h : p.Laid q) : { q with grid := p.grid, start := p.start } = p := by
  rw [h]

theorem insertPulse_perm (p : Pulse) : ∀ l : List Pulse, (insertPulse p l).Perm (p :: l)
  | [] => List.Perm.refl _
  | q :: l => by
    unfold insertPulse
    split
    · exact List.Perm.refl _
    · exact ((insertPulse_perm p l).cons q).trans (List.Perm.swap p q l)

theorem insertPulses_perm : ∀ l k : List Pulse, (l.foldl (fun l p => insertPulse p l) k).Perm (l ++ k)
  | [], _ => List.Perm.refl _
  | p :: l, k => (insertPulses_perm l _).trans (((insertPulse_perm p k).append_left l).trans List.perm_middle)

/-- A pulse that joins a tone is one more unit, laid on a grid. -/
theorem Tone.join_units (x : Tone) (p : Pulse) : ∃ q, (x.join p).units = x.units ++ [q] ∧ p.Laid q := by
  unfold Tone.join
  split
  · exact ⟨_, rfl, rfl⟩
  · exact ⟨_, rfl, rfl⟩

/-- Pulses that join a tone in turn. -/
theorem Tone.joins_units : ∀ (l : List Pulse) (x : Tone), ∃ k, (l.foldl Tone.join x).units = x.units ++ k
    ∧ List.Forall₂ Pulse.Laid l k
  | [], x => ⟨[], (List.append_nil _).symm, .nil⟩
  | p :: l, x => by
    obtain ⟨q, hq, hl⟩ := x.join_units p
    obtain ⟨k, hk, hf⟩ := Tone.joins_units l (x.join p)
    exact ⟨q :: k, by rw [List.foldl_cons, hk, hq, List.append_assoc]; rfl, .cons hl hf⟩

theorem Forall₂.exists_of_mem {α β : Type} {R : α → β → Prop} {l : List α} {k : List β} (h : List.Forall₂ R l k) {a : α}
    (ha : a ∈ l) : ∃ b ∈ k, R a b := by
  induction h with
  | nil => exact absurd ha List.not_mem_nil
  | cons hr _ ih =>
    rcases List.mem_cons.mp ha with rfl | ha
    · exact ⟨_, List.mem_cons_self .., hr⟩
    · obtain ⟨b, hb, hr⟩ := ih ha
      exact ⟨b, List.mem_cons_of_mem _ hb, hr⟩

/-- Pulses that take their places on a tone: each unit of before and each new one is there, laid on a grid. -/
theorem Tone.place_units (x : Tone) (si : Nat) (new : List Pulse) :
    (x.place si new).units.length = x.units.length + new.length
      ∧ ∀ p ∈ x.units ++ new, ∃ q ∈ (x.place si new).units, p.Laid q := by
  unfold Tone.place
  extract_lets grids kept free order
  obtain ⟨k, hk, hf⟩ := Tone.joins_units order { x with units := kept, grids }
  have ho : order.Perm (free ++ new) := (List.append_nil (free ++ new)) ▸ insertPulses_perm (free ++ new) []
  rw [hk]
  refine ⟨?_, fun p hp => ?_⟩
  · have hlen : kept.length + free.length = x.units.length := (List.length_eq_length_filter_add _).symm
    rw [List.length_append, ← hf.length_eq, ho.length_eq, List.length_append]
    dsimp only
    omega
  · by_cases hb : p ∈ kept
    · exact ⟨p, List.mem_append_left _ hb, rfl⟩
    · have hm : p ∈ order := by
        rw [ho.mem_iff, List.mem_append]
        rcases List.mem_append.mp hp with hp | hp
        · refine .inl (List.mem_filter.mpr ⟨hp, ?_⟩)
          have : ¬ x.begun p.grid = true := fun h => hb (List.mem_filter.mpr ⟨hp, h⟩)
          simpa using this
        · exact .inr hp
      obtain ⟨q, hq, hl⟩ := Forall₂.exists_of_mem hf hm
      exact ⟨q, List.mem_append_right _ hq, hl⟩

/-! ### PLAY and PLAY_PARAM (R180, R183) -/

theorem State.playPulse_faults {s : State} {t w tick n : Nat} {p : Pulse} (h : s.targetTone t w = none) :
    s.playPulse t w tick n p = s.programFault t := by
  unfold State.playPulse
  rw [h]

theorem State.playPulse_empty {s : State} {t w tick n u : Nat} {p : Pulse} {probe : Bool}
    (h : s.targetTone t w = some (probe, u)) (hl : p.libLen = 0) : s.playPulse t w tick n p = s.advance t n := by
  unfold State.playPulse
  rw [h]
  exact if_pos hl

theorem State.playPulse_busy {s : State} {t w tick n u : Nat} {p : Pulse} {probe : Bool}
    (h : s.targetTone t w = some (probe, u)) (hl : p.libLen ≠ 0) (hu : 4 ≤ (s.tone (toneKey t probe u)).units.length) :
    s.playPulse t w tick n p = s.beginWait t := by
  unfold State.playPulse
  rw [h]
  dsimp only
  rw [if_neg hl, if_pos]
  simpa [Tone.unitFree] using hu

/-- A pulse that goes to a unit, in the state that has asked for its first row. -/
def State.handPulse (s : State) (t w tick u : Nat) (probe : Bool) (p : Pulse) : State :=
  let v := (s.firstRow t).2
  v.setTone (toneKey t probe u) ((v.tone (toneKey t probe u)).place v.si [v.placePulse t probe u { p with
    base := (v.tile t).base, tick, offs := offsetOf w, ready := (s.firstRow t).1 }])

theorem State.playPulse_plays {s : State} {t w tick n u : Nat} {p : Pulse} {probe : Bool}
    (h : s.targetTone t w = some (probe, u)) (hl : p.libLen ≠ 0) (hu : (s.tone (toneKey t probe u)).units.length < 4) :
    s.playPulse t w tick n p = (s.handPulse t w tick u probe p).advance t n := by
  unfold State.playPulse
  rw [h]
  dsimp only
  rw [if_neg hl, if_neg]
  · rfl
  · simpa [Tone.unitFree] using hu

/-- An edge offset is the same where the records, their shadows and the runs are. -/
theorem edgeOffset_of_only {ps : List Part} {s u : State} (h : Only ps s u) (h1 : Part.runs ∉ ps) (h2 : Part.shadows ∉ ps)
    (h3 : Part.image .timingSet ∉ ps) (t set ch : Nat) : u.edgeOffset t set ch = s.edgeOffset t set ch := by
  unfold State.edgeOffset State.imageFor State.cutoff
  rw [tile_of_only h h1, h.image h3, show u.shadows = s.shadows from h .shadows h2]

/-- What a pulse that goes to a unit leaves of the tones. -/
theorem State.handPulse_done (s : State) (t w tick u : Nat) (probe : Bool) (p : Pulse) {v : State}
    (hv : v = s.handPulse t w tick u probe p) : Only [.memory, .drive] s v
    ∧ (∀ k, k ≠ toneKey t probe u → v.tone k = s.tone k)
    ∧ (v.tone (toneKey t probe u)).units.length = (s.tone (toneKey t probe u)).units.length + 1
    ∧ ∀ q, q ∈ (s.tone (toneKey t probe u)).units ∨ q = s.placePulse t probe u { p with
        base := (s.tile t).base, tick, offs := offsetOf w, ready := (s.firstRow t).1 } →
      ∃ x ∈ (v.tone (toneKey t probe u)).units, q.Laid x := by
  subst hv
  have o : Only [.memory] s (s.firstRow t).2 := State.firstRow_only (List.Subset.refl _) (Only.refl _ s)
  unfold State.handPulse State.placePulse
  dsimp only
  simp only [edgeOffset_of_only o (by decide) (by decide) (by decide), tile_of_only o (by decide)]
  generalize (s.firstRow t).1 = r
  generalize (s.firstRow t).2 = f at *
  obtain ⟨h1, h2⟩ := (f.tone (toneKey t probe u)).place_units f.si [{ p with
    base := (s.tile t).base, tick, offs := offsetOf w, ready := r
    placed := 16 * (placed (s.tile t).base tick (offsetOf w) p.frac (s.edgeOffset t ((s.tile t).setAt tick p.dflt)
      (toneLocal probe u))).1.toNat + (placed (s.tile t).base tick (offsetOf w) p.frac
        (s.edgeOffset t ((s.tile t).setAt tick p.dflt) (toneLocal probe u))).2 }]
  rw [tone_of_only o (by decide)] at h1 h2
  refine ⟨State.setTone_only (by decide) (o.mono (by decide)), fun k hk => ?_, ?_, fun q hq => ?_⟩
  · rw [State.tone_setTone_ne _ _ hk, tone_of_only o (by decide)]
  · rw [State.tone_setTone, tone_of_only o (by decide)]
    exact h1
  · rw [State.tone_setTone, tone_of_only o (by decide)]
    exact h2 q (List.mem_append.mpr (hq.imp_right List.mem_singleton.mpr))

theorem State.firstRow_ready (s : State) (t : Nat) : (s.firstRow t).1 =
    s.half + max 8 (((s.memory.firstReads.read [] t).filter fun h => s.half < h).length + 7) := by
  show s.half + max 2 (List.length _ + 1) + 6 = _
  omega

/-- What a word of `playWords` does when it is dispatched. -/
def playAct (t : Nat) (row : (Fin 16 → Instr) × Op × Nat × (Nat → Nat → Nat × Nat × Int)) (w tick : Nat) (s : State) : State :=
  let v := row.2.2.2 (s.context t (ctxOf w)) (s.extAt t)
  s.playPulse t w tick row.2.2.1 (pulseOf (s.context t (ctxOf w)) v.1 v.2.1 v.2.2)

theorem exec_playWords : ∀ row ∈ playWords, ∀ (t : Fin 16) (s : State),
    exec (row.1 t) s = .next (s.fresh.dispatchTimed t row.2.1 (playAct t row)) := by
  intro row hr t s
  rcases List.mem_cons.mp hr with rfl | hr
  · rfl
  · obtain rfl := List.mem_singleton.mp hr
    rfl

end Machine

/-- The clause of O45 on PLAY and PLAY_PARAM. -/
theorem playWords_effects : ∀ row ∈ playWords, ∀ (t : Fin 16) (s : State) (c : Nat) (v : Nat × Nat × Int),
    Timed s t row.2.1 → c = s.context t (ctxOf (s.wordAt t)) → v = row.2.2.2 c (s.extAt t) →
    (s.targetTone t (s.wordAt t) = none → Runs (row.1 t) s fun u => Faulted s u t)
    ∧ ∀ (probe : Bool) (n : Nat), s.targetTone t (s.wordAt t) = some (probe, n) →
      (ctxLibLen c = 0 → Runs (row.1 t) s fun u => GoesOn s u t row.2.2.1 (s.tile t)
        ∧ Only [.out, .runs, .engines, .image .engineStatus] s u)
      ∧ (ctxLibLen c ≠ 0 → 4 ≤ (s.tone (toneKey t probe n)).units.length → Runs (row.1 t) s fun u => Waits s u t (s.tile t)
        ∧ Only [.out, .engines, .image .engineStatus] s u)
      ∧ (ctxLibLen c ≠ 0 → (s.tone (toneKey t probe n)).units.length < 4 → Runs (row.1 t) s fun u =>
        GoesOn s u t row.2.2.1 (s.tile t) ∧ Only [.out, .drive, .memory, .runs, .engines, .image .engineStatus] s u
        ∧ (∀ k, k ≠ toneKey t probe n → u.tone k = s.tone k)
        ∧ (u.tone (toneKey t probe n)).units.length = (s.tone (toneKey t probe n)).units.length + 1
        ∧ (∀ p ∈ (s.tone (toneKey t probe n)).units, ∃ q ∈ (u.tone (toneKey t probe n)).units,
          { q with grid := p.grid, start := p.start } = p)
        ∧ ∀ i, i = placed (s.tile t).base (s.wordTick t (s.wordAt t)) (offsetOf (s.wordAt t)) (ctxFrac c) (s.edgeOffset t
            ((s.tile t).setAt (s.wordTick t (s.wordAt t)) (ctxTset c)) (toneLocal probe n)) →
          ∃ p ∈ (u.tone (toneKey t probe n)).units, p = {
            base := (s.tile t).base, tick := s.wordTick t (s.wordAt t), offs := offsetOf (s.wordAt t)
            frac := ctxFrac c, dflt := ctxTset c, placed := 16 * i.1.toNat + i.2
            ready := s.half + max 8 (((s.memory.firstReads.read [] t).filter (fun h => s.half < h)).length + 7)
            libPtr := ctxLibPtr c, libLen := ctxLibLen c
            length := if ctxDuration c = 0 then ctxLibLen c else ctxDuration c
            amp := v.1, phase := v.2.1, fofs := v.2.2, grid := p.grid, start := p.start }) := by
  rintro row hrow t s c v h rfl rfl
  have ht : t.val < 17 := by omega
  have of : Only [.out] s s.fresh := State.fresh_only (List.Subset.refl _) (Only.refl _ s)
  refine ⟨fun hT => h.runs (exec_playWords row hrow t s) ?_, fun probe n hT =>
    ⟨fun hl => h.runs (exec_playWords row hrow t s) ?_, fun hl hu => h.runs (exec_playWords row hrow t s) ?_,
      fun hl hu => h.runs (exec_playWords row hrow t s) ?_⟩⟩
  · rw [show playAct t row _ _ s.fresh = _ from State.playPulse_faults (s := s.fresh) hT]
    exact Faulted.of s.fresh t
  · rw [show playAct t row _ _ s.fresh = _ from State.playPulse_empty (s := s.fresh) hT hl]
    exact ⟨GoesOn.advance ht rfl rfl (OthersStand.of_only of t (by decide) (by decide) (by decide)),
      State.advance_only (by decide) (of.mono (by decide))⟩
  · rw [show playAct t row _ _ s.fresh = _ from State.playPulse_busy (s := s.fresh) hT hl hu]
    exact ⟨Waits.beginWait ht rfl rfl (OthersStand.of_only of t (by decide) (by decide) (by decide)),
      State.beginWait_only (by decide) (of.mono (by decide))⟩
  · rw [show playAct t row _ _ s.fresh = _ from State.playPulse_plays (s := s.fresh) hT hl hu]
    obtain ⟨o, h1, h2, h3⟩ := s.fresh.handPulse_done t (s.wordAt t) (s.wordTick t (s.wordAt t)) n probe _ rfl
    generalize s.fresh.handPulse _ _ _ _ _ _ = v at *
    have ov : Only [.out, .memory, .drive] s v := (of.mono (by decide)).trans (o.mono (by decide))
    have oa : Only [.runs, .engines, .image .engineStatus] v (v.advance t row.2.2.1) :=
      State.advance_only (by decide) (Only.refl _ v)
    refine ⟨GoesOn.advance ht (tile_of_only ov (by decide) t) rfl (OthersStand.of_only ov t (by decide) (by decide) (by decide)),
      (ov.mono (by decide)).trans (oa.mono (by decide)), ?_⟩
    simp only [tone_of_only oa (by decide)]
    refine ⟨h1, h2, fun p hp => ?_, fun i hi => ?_⟩
    · obtain ⟨x, hx, hl⟩ := h3 p (.inl hp)
      exact ⟨x, hx, hl.back⟩
    · obtain ⟨x, hx, hl⟩ := h3 _ (.inr rfl)
      refine ⟨x, hx, hl.trans ?_⟩
      rw [hi, State.firstRow_ready]
      rfl

namespace Machine

/-! ### FRAME (R184) -/

theorem State.sendFrame_faults {s : State} {t w tick : Nat} (h : s.targetTone t w = none) :
    s.sendFrame t w tick = s.programFault t := by
  unfold State.sendFrame
  rw [h]

/-- The update that a FRAME word sends to its tone. -/
def State.frameSent (s : State) (t w tick u : Nat) (probe : Bool) : FrameUpdate :=
  s.placeFrame t probe u
    { due := 0, base := (s.tile t).base, tick, offs := offsetOf w, setFreq := bit w 38, setFrame := bit w 39
      absolute := if bit w 40 then bit w 41 else s.toneAbsolute t probe u, ext := s.extAt t }

theorem State.sendFrame_sends {s : State} {t w tick u : Nat} {probe : Bool} (h : s.targetTone t w = some (probe, u)) :
    s.sendFrame t w tick = (s.setTone (toneKey t probe u) { s.tone (toneKey t probe u) with
      updates := insertUpdate (s.frameSent t w tick u probe) (s.tone (toneKey t probe u)).updates }).advance t 2 := by
  unfold State.sendFrame
  rw [h]
  rfl

/-! ### The bias words (R89, R185) -/

theorem State.sendBias_faults {s : State} {t w tick k : Nat} {a : BiasAct} (h : s.targetBias t w = none) :
    s.sendBias t w tick k a = s.programFault t := by
  unfold State.sendBias
  rw [h]

/-- The operation that a bias word sends to its channel, but for its crossing. -/
def State.biasSent (s : State) (t w tick c : Nat) (a : BiasAct) : BiasOp :=
  let ctx := s.context t (ctxOf w)
  let x := s.site t
  s.placeOp t c
    { due := 0, issued := 0, usable := none, late := false, base := (s.tile t).base, tick, dflt := ctxTset ctx
      seg := (s.tile t).base + 16 * x.base, segId := x.id, block := (x.seg.opAddr + (s.tile t).pc) / 32
      pd := ctxPdSel ctx, act := a }

/-- When the operation leaves: not before its lookahead, nor before the fourth of those in front of it is due. -/
def State.biasLeaves (s : State) (n due : Nat) : Nat :=
  max s.si (max (due - 16 * Config.lookahead) ((((s.biasOf n).ops.reverse[3]?).map BiasOp.due).getD 0))

/-- An operation that leaves for its channel. -/
def State.handOp (s : State) (t c k : Nat) (o : BiasOp) : State :=
  let at_ := s.biasLeaves (8 * t + c) o.due
  let x := s.cross t (16 + t) at_ k
  (x.2.setBias (8 * t + c) { x.2.biasOf (8 * t + c) with
    ops := insertOp { o with issued := at_, usable := x.1 } (s.biasOf (8 * t + c)).ops }).noteArrival t (6 + c) o.due x.1

theorem State.sendBias_sends {s : State} {t w tick k c : Nat} {a : BiasAct} (h : s.targetBias t w = some c) :
    s.sendBias t w tick k a = (s.handOp t c k (s.biasSent t w tick c a)).advance t 2 := by
  unfold State.sendBias
  rw [h]
  rfl

/-- What a crossing makes usable, and what it changes (R15). -/
theorem State.cross_done (s : State) (t key at_ k : Nat) : (s.cross t key at_ k).1 =
      (if s.linkTrained t then some (max (at_ + 16 * k) (s.drive.arrived.read 0 key)) else none)
    ∧ Only [.drive] s (s.cross t key at_ k).2 := by
  refine ⟨?_, State.cross_only (List.Subset.refl _) (Only.refl _ s)⟩
  unfold State.cross
  split <;> rfl

/-- What an operation that leaves makes of the channels. -/
theorem State.handOp_done (s : State) (t c k : Nat) (o : BiasOp) {v : State} (hv : v = s.handOp t c k o) :
    Only [.drive, .bias, .image .lateStatus] s v ∧ (∀ n, n ≠ 8 * t + c → v.biasOf n = s.biasOf n)
    ∧ v.biasOf (8 * t + c) = { s.biasOf (8 * t + c) with ops := insertOp { o with
        issued := s.biasLeaves (8 * t + c) o.due
        usable := (if s.linkTrained t then
          some (max (s.biasLeaves (8 * t + c) o.due + 16 * k) (s.drive.arrived.read 0 (16 + t))) else none) } (s.biasOf
            (8 * t + c)).ops } := by
  unfold State.handOp at hv
  extract_lets at_ x b at hv
  obtain ⟨h1, o1⟩ : x.1 = _ ∧ Only [.drive] s x.2 := s.cross_done t (16 + t) at_ k
  rw [← show at_ = s.biasLeaves (8 * t + c) o.due from rfl, ← h1]
  rw [← show b = s.biasOf (8 * t + c) from biasOf_of_only o1 (by decide) _] at hv ⊢
  clear_value b at_ x
  have o2 : ∀ w : State, Only [.image .lateStatus] w (w.noteArrival t (6 + c) o.due x.1) := fun w =>
    State.noteArrival_only (List.Subset.refl _) (Only.refl _ w)
  rw [hv]
  refine ⟨?_, fun n hn => ?_, ?_⟩
  · exact State.noteArrival_only (by decide) (State.setBias_only (by decide) (o1.mono (by decide)))
  · rw [biasOf_of_only (o2 _) (by decide), State.biasOf_setBias_ne _ _ hn, biasOf_of_only o1 (by decide)]
  · exact (biasOf_of_only (o2 _) (by decide) _).trans (State.biasOf_setBias _ _ _)

/-- What a word of `biasWords` does when it is dispatched. -/
def biasWordAct (t k : Nat) (f : Nat → BiasAct) (w tick : Nat) (s : State) : State :=
  s.sendBias t w tick k (f (s.extAt t))

theorem exec_biasWords : ∀ row ∈ biasWords, ∀ (t : Fin 16) (k : Fin 29) (s : State),
    exec (row.1 t k) s = .next (s.fresh.dispatchTimed t row.2.1 (biasWordAct t k row.2.2)) := by
  intro row hr t k s
  rcases List.mem_cons.mp hr with rfl | hr
  · rfl
  rcases List.mem_cons.mp hr with rfl | hr
  · rfl
  · obtain rfl := List.mem_singleton.mp hr
    rfl

end Machine

/-- The clause of O45 on FRAME. -/
theorem frame_effects : ∀ (t : Fin 16) (s : State) (w : Nat), Timed s t .frame → w = s.wordAt t →
    (s.targetTone t w = none → Runs (.frame t) s fun u => Faulted s u t)
    ∧ ∀ (probe : Bool) (n : Nat), s.targetTone t w = some (probe, n) → Runs (.frame t) s fun u => GoesOn s u t 2 (s.tile t)
      ∧ Only [.out, .drive, .runs, .engines, .image .engineStatus] s u
      ∧ (∀ k, k ≠ toneKey t probe n → u.tone k = s.tone k)
      ∧ ∃ x : FrameUpdate, (u.tone (toneKey t probe n)).updates = insertUpdate x (s.tone (toneKey t probe n)).updates
        ∧ x.ext = s.extAt t ∧ x.setFreq = bit w 38 ∧ x.setFrame = bit w 39
        ∧ x.absolute = (if bit w 40 then bit w 41 else s.toneAbsolute t probe n)
        ∧ x.base = (s.tile t).base ∧ x.tick = s.wordTick t w ∧ x.offs = offsetOf w
        ∧ x.due = (placed (s.tile t).base (s.wordTick t w) (offsetOf w) 0
          (s.edgeOffset t ((s.tile t).setAt (s.wordTick t w) 0) (toneLocal probe n))).1.toNat := by
  rintro t s w h rfl
  have ht : t.val < 17 := by omega
  refine ⟨fun hT => h.runs (act := fun w tick s => s.sendFrame t w tick) rfl ?_, fun probe n hT =>
    h.runs (act := fun w tick s => s.sendFrame t w tick) rfl ?_⟩
  · rw [State.sendFrame_faults (s := s.fresh) hT]
    exact Faulted.of s.fresh t
  · rw [State.sendFrame_sends (s := s.fresh) hT]
    obtain ⟨v, hv⟩ : ∃ v, v = s.fresh.setTone (toneKey t probe n) { s.fresh.tone (toneKey t probe n) with
      updates := insertUpdate (s.fresh.frameSent t (s.wordAt t) (s.wordTick t (s.wordAt t)) n probe)
        (s.fresh.tone (toneKey t probe n)).updates } := ⟨_, rfl⟩
    have ov : Only [.out, .drive] s v := by
      rw [hv]
      exact State.setTone_only (by decide) (State.fresh_only (by decide) (Only.refl _ s))
    have hk : ∀ k, k ≠ toneKey t probe n → v.tone k = s.tone k := fun k hk => by
      rw [hv]
      exact State.tone_setTone_ne _ _ hk
    have hx : (v.tone (toneKey t probe n)).updates = insertUpdate (s.fresh.frameSent t (s.wordAt t)
        (s.wordTick t (s.wordAt t)) n probe) (s.tone (toneKey t probe n)).updates := by
      rw [hv, State.tone_setTone]
      rfl
    rw [← hv]
    clear hv
    have oa : Only [.runs, .engines, .image .engineStatus] v (v.advance t 2) := State.advance_only (by decide) (Only.refl _ v)
    refine ⟨GoesOn.advance ht (tile_of_only ov (by decide) t) rfl (OthersStand.of_only ov t (by decide) (by decide) (by decide)),
      (ov.mono (by decide)).trans (oa.mono (by decide)), ?_⟩
    simp only [tone_of_only oa (by decide)]
    exact ⟨hk, _, hx, rfl, rfl, rfl, rfl, rfl, rfl, rfl, rfl⟩

/-- The clause of O45 on BIAS_SET, BIAS_RAMP and BIAS_SINE. -/
theorem biasWords_effects : ∀ row ∈ biasWords, ∀ (t : Fin 16) (k : Fin 29) (s : State) (w : Nat), Timed s t row.2.1 →
    w = s.wordAt t →
    (s.targetBias t w = none → Runs (row.1 t k) s fun u => Faulted s u t)
    ∧ ∀ c, s.targetBias t w = some c → Runs (row.1 t k) s fun u => GoesOn s u t 2 (s.tile t)
      ∧ Only [.out, .drive, .bias, .runs, .engines, .image .engineStatus, .image .lateStatus] s u
      ∧ (∀ n, n ≠ 8 * t.val + c → u.biasOf n = s.biasOf n)
      ∧ ∃ o : BiasOp, u.biasOf (8 * t + c) = { s.biasOf (8 * t + c) with ops := insertOp o (s.biasOf (8 * t + c)).ops }
        ∧ o.act = row.2.2 (s.extAt t) ∧ o.pd = ctxPdSel (s.context t (ctxOf w))
        ∧ o.due = (placed (s.tile t).base (s.wordTick t w) 0 0
          (s.edgeOffset t ((s.tile t).setAt (s.wordTick t w) (ctxTset (s.context t (ctxOf w)))) (6 + c))).1.toNat
        ∧ o.late = false ∧ o.base = (s.tile t).base ∧ o.tick = s.wordTick t w ∧ o.dflt = ctxTset (s.context t (ctxOf w))
        ∧ o.seg = (s.tile t).base + 16 * (s.site t).base ∧ o.segId = (s.site t).id
        ∧ o.block = ((s.site t).seg.opAddr + (s.tile t).pc) / 32
        ∧ o.issued = max s.si (max (o.due - 16 * 256) ((((s.biasOf (8 * t + c)).ops.reverse[3]?).map BiasOp.due).getD 0))
        ∧ o.usable = if s.linkTrained t then
            some (max (o.issued + 16 * k) (s.drive.arrived.read 0 (16 + t))) else none := by
  rintro row hrow t k s w h rfl
  have ht : t.val < 17 := by omega
  refine ⟨fun hT => h.runs (exec_biasWords row hrow t k s) ?_, fun c hT => h.runs (exec_biasWords row hrow t k s) ?_⟩
  · rw [show biasWordAct t k row.2.2 _ _ s.fresh = _ from State.sendBias_faults (s := s.fresh) hT]
    exact Faulted.of s.fresh t
  · rw [show biasWordAct t k row.2.2 _ _ s.fresh = _ from State.sendBias_sends (s := s.fresh) hT]
    obtain ⟨o, h1, h2⟩ := s.fresh.handOp_done t c k (s.fresh.biasSent t (s.wordAt t) (s.wordTick t (s.wordAt t)) c
      (row.2.2 (s.fresh.extAt t))) rfl
    generalize s.fresh.handOp _ _ _ _ = v at *
    have ov : Only [.out, .drive, .bias, .image .lateStatus] s v :=
      (State.fresh_only (by decide) (Only.refl _ s)).trans (o.mono (by decide))
    have oa : Only [.runs, .engines, .image .engineStatus] v (v.advance t 2) := State.advance_only (by decide) (Only.refl _ v)
    refine ⟨GoesOn.advance ht (tile_of_only ov (by decide) t) rfl (OthersStand.of_only ov t (by decide) (by decide) (by decide)),
      (ov.mono (by decide)).trans (oa.mono (by decide)), ?_⟩
    simp only [biasOf_of_only oa (by decide)]
    exact ⟨h1, _, h2, rfl, rfl, rfl, rfl, rfl, rfl, rfl, rfl, rfl, rfl, rfl, rfl⟩

/-- Settles O45: a timed word that is dispatched does what its operation says, word by word. -/
theorem pulseWordEffects : Obligations.PulseWordEffects :=
  ⟨playWords_effects, frame_effects, biasWords_effects⟩

end Sys2Proof
end

section
namespace Sys2Proof
open Machine

/-! ### Voided shots and reports across other changes -/

theorem Reported.from {ps : List Part} {s t u : State} {cls : Nat} (h : Reported t u cls) (o : Only ps s t)
    (hp : Part.log ∉ ps) : Reported s u cls := by
  unfold Reported at h ⊢
  rw [h, show t.log = s.log from o .log hp]

/-- A report of another class leaves a class's counter (R412). -/
theorem Reported.other {s t : State} {cls : Nat} (h : Reported s t cls) {c : Nat} (hc : cls ≠ c) (l : Bool) (src a b : Nat) :
    Reported s (t.report c l src a b) cls := by
  unfold Reported
  rw [State.report_counters]
  exact (SMap.read_write_ne t.log.counters 0 0 _ hc).trans h

theorem Machine.State.setGroup_members (s : State) {g : Nat} {x : RunGroup} (h : x.mask = (s.group g).mask) (k : Nat) :
    (s.setGroup g x).members k = s.members k := by
  unfold State.members
  by_cases e : k = g
  · rw [e, State.group_setGroup, h]
  · rw [State.group_setGroup_ne _ _ e]

/-- The shot is void once it has been voided after changes that left the tiles and the shots of the groups. -/
theorem ShotVoided.of_tiles {s v : State} (ht : ∀ i, v.tile i = s.tile i)
    (hg : ∀ g, (v.group g).inShot = (s.group g).inShot ∧ v.members g = s.members g) (t : Nat) :
    ShotVoided s (v.voidShot t) t := by
  intro g h1 h2
  obtain ⟨k1, k2⟩ := (v.voidShot_done t).2 g ((ht t).symm ▸ h1) (by rw [(hg g).1, ht]; exact h2)
  exact ⟨k1, fun i hi hs => k2 i (by rw [(hg g).2]; exact hi) (by rw [ht]; exact hs)⟩

theorem Machine.State.members_of_only {ps : List Part} {s t : State} (h : Only ps s t) (hp : Part.runs ∉ ps) (g : Nat) :
    t.members g = s.members g := by
  unfold State.members
  rw [group_of_only h hp]

theorem ShotVoided.of_only {ps : List Part} {s v : State} (o : Only ps s v) (hp : Part.runs ∉ ps) (t : Nat) :
    ShotVoided s (v.voidShot t) t :=
  ShotVoided.of_tiles (tile_of_only o hp)
    (fun g => ⟨congrArg RunGroup.inShot (group_of_only o hp g), State.members_of_only o hp g⟩) t

/-- What keeps the marks keeps the shot void. -/
theorem ShotVoided.keep {s v u : State} {t : Nat} (h : ShotVoided s v t) (ht : ∀ i, (u.tile i).voided = (v.tile i).voided)
    (hg : ∀ g, u.group g = v.group g) : ShotVoided s u t := by
  intro g h1 h2
  obtain ⟨k1, k2⟩ := h g h1 h2
  exact ⟨(hg g).symm ▸ k1, fun i hi hs => (ht i).trans (k2 i hi hs)⟩

theorem ShotVoided.only {ps : List Part} {s v u : State} {t : Nat} (h : ShotVoided s v t) (o : Only ps v u)
    (hp : Part.runs ∉ ps) : ShotVoided s u t :=
  h.keep (fun i => congrArg TileRun.voided (tile_of_only o hp i)) (group_of_only o hp)

theorem ShotVoided.from {ps : List Part} {s v u : State} {t : Nat} (h : ShotVoided v u t) (o : Only ps s v)
    (hp : Part.runs ∉ ps) : ShotVoided s u t := by
  intro g h1 h2
  rw [← tile_of_only o hp] at h1 h2
  rw [← group_of_only o hp] at h2
  obtain ⟨k1, k2⟩ := h g h1 h2
  exact ⟨k1, fun i hi hs => k2 i (by rw [State.members_of_only o hp]; exact hi) (by rw [tile_of_only o hp]; exact hs)⟩

namespace Machine

/-! ### Seals at playback (R25, R26) -/

theorem TileRun.suspected_cleared (r : TileRun) (key : Nat) : (r.cleared key).suspected key = none := by
  unfold TileRun.suspected TileRun.cleared
  simp

theorem TileRun.suspected_append {r : TileRun} {key : Nat} (h : r.suspected key = none) (b : Nat) :
    ({ r with suspect := r.suspect ++ [(key, b)] } : TileRun).suspected key = some b := by
  unfold TileRun.suspected at h ⊢
  rw [List.find?_append, Option.map_eq_none_iff.mp h]
  simp

/-- What a mark of VOID leaves of a tile's failures and of its shot's base. -/
theorem State.voidShot_suspected (s : State) (t i key : Nat) :
    ((s.voidShot t).tile i).suspected key = (s.tile i).suspected key
      ∧ ((s.voidShot t).tile i).base = (s.tile i).base := by
  obtain ⟨v, h, -⟩ := (s.voidShot_done t).1.1 i
  rw [h]
  exact ⟨rfl, rfl⟩

/-- A segment that stops being resident. -/
theorem State.segment_dropSegment (s : State) (t id : Nat) : ((s.dropSegment t id).segment t id).resident = false :=
  congrArg Segment.resident (SMap.read_write_self _ _ _ _)

theorem State.sealFault_first {s : State} {t key : Nat} (h : (s.tile t).suspected key = none) (id d : Nat) :
    s.sealFault t key id d =
      s.setTile t { s.tile t with suspect := (s.tile t).suspect ++ [(key, (s.tile t).base)] } := by
  unfold State.sealFault
  dsimp only
  rw [h]

theorem State.sealFault_same {s : State} {t key : Nat} (h : (s.tile t).suspected key = some (s.tile t).base) (id d : Nat) :
    s.sealFault t key id d = s := by
  unfold State.sealFault
  dsimp only
  rw [h]
  exact if_pos rfl

theorem State.sealFault_again {s : State} {t key x : Nat} (h : (s.tile t).suspected key = some x)
    (hx : x ≠ (s.tile t).base) (id d : Nat) : s.sealFault t key id d =
      ((s.setTile t ((s.tile t).cleared key)).report 2 true 0xFFF t d).dropSegment t id := by
  unfold State.sealFault
  dsimp only
  rw [h]
  exact if_neg hx

theorem State.sealPass_first {s : State} {t key : Nat} (h : (s.tile t).suspected key = none) (d : Nat) :
    s.sealPass t key d = s := by
  unfold State.sealPass
  dsimp only
  rw [h]

theorem State.sealPass_same {s : State} {t key : Nat} (h : (s.tile t).suspected key = some (s.tile t).base) (d : Nat) :
    s.sealPass t key d = s := by
  unfold State.sealPass
  dsimp only
  rw [h]
  exact if_pos rfl

theorem State.sealPass_again {s : State} {t key x : Nat} (h : (s.tile t).suspected key = some x)
    (hx : x ≠ (s.tile t).base) (d : Nat) : s.sealPass t key d =
      (s.setTile t ((s.tile t).cleared key)).report 2 false 0xFFF t d := by
  unfold State.sealPass
  dsimp only
  rw [h]
  exact if_neg hx

/-- A pass in another shot is logged, and nothing is remembered any more. -/
theorem State.sealPass_logs {s : State} {t key x : Nat} (h : (s.tile t).suspected key = some x)
    (hx : x ≠ (s.tile t).base) (d : Nat) :
    Reported s (s.sealPass t key d) 2 ∧ ((s.sealPass t key d).tile t).suspected key = none := by
  rw [State.sealPass_again h hx]
  refine ⟨Reported.report _ _ _ _ _ rfl, ?_⟩
  rw [tile_of_only (State.report_only (List.Subset.refl _) (Only.refl _ _)) (by decide), State.tile_setTile]
  exact TileRun.suspected_cleared _ _

/-- What a failure at playback leaves: remembered at first, and lasting in another shot. -/
theorem State.sealFault_done (s : State) (t key id d : Nat) {u : State} (hu : u = s.sealFault t key id d) :
    ((s.tile t).suspected key = none → (u.tile t).suspected key = some (s.tile t).base)
    ∧ (∀ x, (s.tile t).suspected key = some x → x ≠ (s.tile t).base → Reported s u 2
      ∧ (u.tile t).suspected key = none ∧ (u.segment t id).resident = false) := by
  subst hu
  refine ⟨fun h => ?_, fun x h hx => ?_⟩
  · rw [State.sealFault_first h, State.tile_setTile]
    exact TileRun.suspected_append h _
  · rw [State.sealFault_again h hx]
    have o := State.report_only (cls := 2) (lasting := true) (source := 0xFFF) (a := t) (b := d) (List.Subset.refl _)
      (Only.refl _ (s.setTile t ((s.tile t).cleared key)))
    have hr : Reported s ((s.setTile t ((s.tile t).cleared key)).report 2 true 0xFFF t d) 2 := Reported.report _ _ _ _ _ rfl
    have ht := tile_of_only o (by decide) t
    rw [State.tile_setTile] at ht
    generalize (s.setTile t ((s.tile t).cleared key)).report 2 true 0xFFF t d = v at *
    have od := State.dropSegment_only (t := t) (id := id) (List.Subset.refl _) (Only.refl _ v)
    refine ⟨hr.only od (by decide), ?_, State.segment_dropSegment v t id⟩
    rw [tile_of_only od (by decide), ht]
    exact TileRun.suspected_cleared _ _

/-- A failure at playback marks no shot. -/
theorem State.sealFault_marks (s : State) (t key id d : Nat) :
    (∀ i, ((s.sealFault t key id d).tile i).voided = (s.tile i).voided) ∧
    ∀ g, (s.sealFault t key id d).group g = s.group g := by
  have hs : ∀ r : TileRun, r.voided = (s.tile t).voided → ∀ i, ((s.setTile t r).tile i).voided = (s.tile i).voided := by
    intro r hr i
    by_cases e : i = t
    · rw [e, State.tile_setTile, hr]
    · rw [State.tile_setTile_ne _ _ e]
  unfold State.sealFault
  dsimp only
  split
  · exact ⟨hs _ rfl, fun _ => rfl⟩
  · split
    · exact ⟨fun _ => rfl, fun _ => rfl⟩
    · have o := State.dropSegment_only (ps := [.log, .image .logStatus, .out, .hatband, .loaded]) (t := t) (id := id) (by decide)
        (State.report_only (cls := 2) (lasting := true) (source := 0xFFF) (a := t) (b := d) (by decide)
          (Only.refl _ (s.setTile t ((s.tile t).cleared key))))
      exact ⟨fun i => (congrArg TileRun.voided (tile_of_only o (by decide) i)).trans (hs ((s.tile t).cleared key) rfl i),
        fun g => group_of_only o (by decide) g⟩

end Machine

/-- The shot stays void across a failure at playback. -/
theorem ShotVoided.sealFault {s v : State} {i : Nat} (h : ShotVoided s v i) (t key id d : Nat) :
    ShotVoided s (v.sealFault t key id d) i :=
  h.keep (v.sealFault_marks t key id d).1 (v.sealFault_marks t key id d).2

end Sys2Proof
end

section
namespace Sys2Proof
open Machine
namespace Machine

/-! ### Holds of LEVEL (R102, R104) -/

/-- What a hold makes of its channel. -/
def Bias.held (b : Bias) (c : HoldCause) (h : Nat) (seg : Option Nat) : Bias :=
  let b := if b.park.isSome then b.fade h else b.freeze h
  { b with
    holds := if c ∈ b.holds then b.holds else b.holds ++ [c]
    heldSeg := if seg.isSome then seg else b.heldSeg }

theorem State.holdBias_eq (s : State) (n : Nat) (c : HoldCause) (h : Nat) (seg : Option Nat) :
    s.holdBias n c h seg = (s.setBias n ((s.biasOf n).held c h seg)).putFlag F.biasStatus_HELD n true := rfl

/-- A hold stands, and what is neither LEVEL nor a hold is as it was. -/
theorem Bias.held_done (b : Bias) (c : HoldCause) (h : Nat) (seg : Option Nat) : c ∈ (b.held c h seg).holds
    ∧ (b.held c h seg).heldSeg = (if seg.isSome then seg else b.heldSeg) ∧ (b.held c h seg).ops = b.ops
    ∧ (b.held c h seg).park = b.park ∧ (b.held c h seg).openSince = b.openSince := by
  unfold Bias.held
  extract_lets d
  have hd : d.heldSeg = b.heldSeg ∧ d.ops = b.ops ∧ d.park = b.park ∧ d.openSince = b.openSince := by
    unfold d
    split <;> exact ⟨rfl, rfl, rfl, rfl⟩
  obtain ⟨h1, h2, h3, h4⟩ := hd
  refine ⟨?_, by rw [← h1], h2, h3, h4⟩
  dsimp only
  split
  · assumption
  · exact List.mem_append_right _ (List.mem_singleton_self _)

/-- What a hold changes: its channel, which it marks HELD. -/
theorem State.holdBias_done (s : State) (n : Nat) (c : HoldCause) (h : Nat) (seg : Option Nat) {u : State}
    (hu : u = s.holdBias n c h seg) : u.biasOf n = (s.biasOf n).held c h seg
      ∧ u.flag F.biasStatus_HELD n = true ∧ ∀ k, k ≠ n → u.biasOf k = s.biasOf k := by
  rw [State.holdBias_eq] at hu
  subst hu
  refine ⟨?_, State.flag_putFlag _ _ _ _ (by decide), fun k hk => ?_⟩
  · rw [State.putFlag_biasOf, State.biasOf_setBias]
  · rw [State.putFlag_biasOf, State.biasOf_setBias_ne _ _ hk]

/-! ### BIAS_OP_ACT (R89 to R93) -/

/-- The first operation of a channel is taken from its list. -/
def State.takeOp (s : State) (n : Nat) : State := s.setBias n { s.biasOf n with ops := (s.biasOf n).ops.drop 1 }

theorem State.takeOp_biasOf {s : State} {n : Nat} {o : BiasOp} {rest : List BiasOp} (h : (s.biasOf n).ops = o :: rest) :
    (s.takeOp n).biasOf n = { s.biasOf n with ops := rest } := by
  unfold State.takeOp
  rw [State.biasOf_setBias, h]
  rfl

theorem State.takeOp_ne (s : State) {n k : Nat} (h : k ≠ n) : (s.takeOp n).biasOf k = s.biasOf k :=
  State.biasOf_setBias_ne _ _ h

theorem State.takeOp_only (s : State) (n : Nat) : Only [.bias] s (s.takeOp n) :=
  State.setBias_only (List.Subset.refl _) (Only.refl _ s)

theorem State.takeOp_becomes {s u : State} {n : Nat} {o : BiasOp} {rest : List BiasOp} (h : (s.biasOf n).ops = o :: rest)
    (hu : ∀ k, u.biasOf k = (s.takeOp n).biasOf k) : BiasBecomes s u n { s.biasOf n with ops := rest } :=
  ⟨(hu n).trans (State.takeOp_biasOf h), fun k hk => (hu k).trans (s.takeOp_ne hk)⟩

/-- The first operation of a channel, where it is due, begins its hold or acts. -/
theorem exec_biasOpAct {n : Fin 128} {bad : Bool} {s : State} {o : BiasOp} {rest : List BiasOp}
    (h : (s.biasOf n).ops = o :: rest) (hd : o.due < s.si + 16) :
    exec (.biasOpAct n bad) s = .next (if o.late then s.fresh.lateHold n o else s.fresh.actBias n o bad) := by
  change execBiasOpAct n bad s = _
  unfold execBiasOpAct
  dsimp only
  rw [show (s.fresh.biasOf n).ops = o :: rest from h]
  exact congrArg Host.Outcome.next (if_pos hd)

theorem exec_biasOpAct_late {n : Fin 128} {bad : Bool} {s : State} {o : BiasOp} {rest : List BiasOp}
    (h : (s.biasOf n).ops = o :: rest) (hd : o.due < s.si + 16) (hl : o.late = true) :
    exec (.biasOpAct n bad) s = .next (s.fresh.lateHold n o) :=
  (exec_biasOpAct h hd).trans (congrArg Host.Outcome.next (if_pos hl))

theorem exec_biasOpAct_early {n : Fin 128} {bad : Bool} {s : State} {o : BiasOp} {rest : List BiasOp}
    (h : (s.biasOf n).ops = o :: rest) (hd : o.due < s.si + 16) (hl : o.late = false) :
    exec (.biasOpAct n bad) s = .next (s.fresh.actBias n o bad) :=
  (exec_biasOpAct h hd).trans (congrArg Host.Outcome.next (if_neg (ne_true_of_eq_false hl)))

/-- A late operation leaves its list; it begins a hold where none discards it (R36). -/
theorem State.lateHold_done (s : State) (n : Nat) (o : BiasOp) {u : State} (hu : u = s.lateHold n o) :
    ((s.biasOf n).discards o = true →
      BiasBecomes s u n { s.biasOf n with ops := (s.biasOf n).ops.filter (fun p => p ≠ o) } ∧ Only [.bias] s u)
    ∧ ((s.biasOf n).discards o = false → (u.biasOf n).ops = (s.biasOf n).ops.filter (fun p => p ≠ o)
      ∧ .segment ∈ (u.biasOf n).holds ∧ (u.biasOf n).heldSeg = some o.seg ∧ u.flag F.biasStatus_HELD n = true
      ∧ ∀ k, k ≠ n → u.biasOf k = s.biasOf k) := by
  obtain ⟨v, hv⟩ : ∃ v, v = s.setBias n { s.biasOf n with ops := (s.biasOf n).ops.filter (fun p => p ≠ o) } := ⟨_, rfl⟩
  have hn : v.biasOf n = { s.biasOf n with ops := (s.biasOf n).ops.filter (fun p => p ≠ o) } :=
    hv ▸ State.biasOf_setBias _ _ _
  have hk : ∀ k, k ≠ n → v.biasOf k = s.biasOf k := fun k hk => hv ▸ State.biasOf_setBias_ne _ _ hk
  have ho : Only [.bias] s v := hv ▸ State.setBias_only (List.Subset.refl _) (Only.refl _ s)
  have e : u = if (s.biasOf n).discards o then v else v.holdBias n .segment (v.halfOf o.due) (some o.seg) := by
    rw [hu, hv]
    rfl
  refine ⟨fun hd => ?_, fun hd => ?_⟩
  · rw [if_pos hd] at e
    exact e ▸ ⟨⟨hn, hk⟩, ho⟩
  · rw [if_neg (ne_true_of_eq_false hd)] at e
    obtain ⟨h1, h2, h3⟩ := v.holdBias_done n _ _ _ e
    obtain ⟨k1, k2, k3, -⟩ := (v.biasOf n).held_done .segment (v.halfOf o.due) (some o.seg)
    rw [h1]
    exact ⟨k3.trans (congrArg Bias.ops hn), k1, k2, h2, fun k h => (h3 k h).trans (hk k h)⟩

/-- An operation whose block fails its seal holds its channel (R23). -/
def State.sealHold (s : State) (n : Nat) (o : BiasOp) : State :=
  if (s.biasOf n).discards o then s else s.holdBias n .segment (s.halfOf o.due) (some o.seg)

theorem State.sealHold_only (s : State) (n : Nat) (o : BiasOp) : Only [.bias, .image .biasStatus] s (s.sealHold n o) :=
  Only.ite (Only.refl _ s) (State.holdBias_only (List.Subset.refl _) (Only.refl _ s))

theorem State.sealHold_done (s : State) (n : Nat) (o : BiasOp) {u : State} (hu : u = s.sealHold n o) :
    (u.biasOf n).ops = (s.biasOf n).ops ∧ ((s.biasOf n).discards o = false → .segment ∈ (u.biasOf n).holds
      ∧ (u.biasOf n).heldSeg = some o.seg ∧ u.flag F.biasStatus_HELD n = true) ∧ ∀ k, k ≠ n → u.biasOf k = s.biasOf k := by
  unfold State.sealHold at hu
  split at hu
  · next hd =>
    subst hu
    exact ⟨rfl, fun h => absurd (hd.symm.trans h) (by decide), fun _ _ => rfl⟩
  · obtain ⟨h1, h2, h3⟩ := s.holdBias_done n _ _ _ hu
    obtain ⟨k1, k2, k3, -⟩ := (s.biasOf n).held_done .segment (s.halfOf o.due) (some o.seg)
    rw [h1]
    exact ⟨k3, fun _ => ⟨k1, k2, h2⟩, h3⟩

theorem State.actBias_fails (s : State) (n : Nat) (o : BiasOp) : s.actBias n o true =
    (((s.takeOp n).sealHold n o).voidShot (n / 8)).sealFault (n / 8) (32768 + o.block) o.segId n := rfl

/-- What an operation does whose block passes its seal. -/
def State.actOn (s : State) (n : Nat) (b : Bias) (o : BiasOp) : State :=
  if s.flag F.biasStatus_PARKED n then s.count F.biasStatus_PARKED_DROP n
  else if b.discards o then s
  else if o.act.tooFast then s.freqRange (n / 8)
  else s.setBias n ((s.biasOf n).apply o (s.halfOf o.due))

theorem State.actBias_passes (s : State) (n : Nat) (o : BiasOp) : s.actBias n o false =
    ((s.takeOp n).sealPass (n / 8) (32768 + o.block) n).actOn n (s.biasOf n) o := rfl

/-- Only FREQ_RANGE reports, and it reports another class than a seal does. -/
theorem State.actOn_keeps (s : State) (n : Nat) (b : Bias) (o : BiasOp) {x : State} (h : Reported x s 2) :
    Reported x (s.actOn n b o) 2 ∧ ∀ t key, ((s.actOn n b o).tile t).suspected key = (s.tile t).suspected key := by
  have hc : ∀ {u : State}, Only [.image .biasStatus, .bias] s u →
      Reported x u 2 ∧ ∀ t key, (u.tile t).suspected key = (s.tile t).suspected key := fun o =>
    ⟨h.only o (by decide), fun t key => congrArg (TileRun.suspected · key) (tile_of_only o (by decide) t)⟩
  unfold State.actOn
  split
  · exact hc (State.count_only (by decide) (Only.refl _ s))
  split
  · exact hc (Only.refl _ s)
  split
  · unfold State.freqRange
    have o1 : Only [.log, .image .logStatus, .out, .hatband] s ((s.raise (seqSource (n / 8) 2)).report 19 false
        (seqSource (n / 8) 2) (n / 8)) := State.report_only (by decide) (State.raise_only (by decide) (Only.refl _ s))
    have h1 := Reported.other (s := x) (c := 19) (h.only (State.raise_only (src := seqSource (n / 8) 2) (p := 0) (f := 0) (h := 0)
      (List.Subset.refl _) (Only.refl _ s)) (by decide)) (by decide) false (seqSource (n / 8) 2) (n / 8) 0
    refine ⟨h1.only (State.voidShot_only (List.Subset.refl _) (Only.refl _ _)) (by decide), fun t key => ?_⟩
    rw [(State.voidShot_suspected _ _ _ _).1, tile_of_only o1 (by decide)]
  · exact hc (State.setBias_only (by decide) (Only.refl _ s))

/-- FREQ_RANGE (R61, R93): raised, reported, and the shot void. -/
theorem State.freqRange_done (s : State) (t : Nat) : Raised s (s.freqRange t) (seqSource t 2) 0 0
    ∧ Reported s (s.freqRange t) 19 ∧ ShotVoided s (s.freqRange t) t := by
  have ov : ∀ v : State, Only [.runs, .image .runStatus, .acq] v (v.voidShot t) := fun v =>
    State.voidShot_only (List.Subset.refl _) (Only.refl _ v)
  refine ⟨?_, ?_, ?_⟩
  · exact ((Raised.raise (s := s) (t := s) _ _ _).grow (Grows.report _ _ _ _ _ _)).grow
      (Grows.of_only (ov _) (by decide) (by decide))
  · have h : Reported s ((s.raise (seqSource t 2)).report 19 false (seqSource t 2) t) 19 := Reported.report _ _ _ _ _ rfl
    exact h.only (ov _) (by decide)
  · exact ShotVoided.of_only (ps := [.log, .image .logStatus, .out, .hatband])
      (State.report_only (by decide) (State.raise_only (by decide) (Only.refl _ s))) (by decide) t

end Machine

/-! ### The clauses of O50 on BIAS_OP_ACT -/

section opAct

variable {n : Fin 128} {s : State} {o : BiasOp} {rest : List BiasOp} (h : (s.biasOf n).ops = o :: rest)
  (hd : o.due < s.si + 16)
include h hd

theorem biasOpAct_late_dropped (bad : Bool) (hl : o.late = true) (hb : (s.biasOf n).discards o = true) :
    Runs (.biasOpAct n bad) s fun u =>
      BiasBecomes s u n { s.biasOf n with ops := (s.biasOf n).ops.filter (fun p => p ≠ o) } ∧ Only [.out, .bias] s u := by
  obtain ⟨hu, hO⟩ := (s.fresh.lateHold_done n o rfl).1 hb
  exact ⟨_, exec_biasOpAct_late h hd hl, hu,
    (State.fresh_only (by decide) (Only.refl _ s)).trans (hO.mono (by decide))⟩

theorem biasOpAct_late_holds (bad : Bool) (hl : o.late = true) (hb : (s.biasOf n).discards o = false) :
    Runs (.biasOpAct n bad) s fun u =>
      (u.biasOf n).ops = (s.biasOf n).ops.filter (fun p => p ≠ o) ∧ .segment ∈ (u.biasOf n).holds
        ∧ (u.biasOf n).heldSeg = some o.seg ∧ u.flag F.biasStatus_HELD n = true
        ∧ (∀ k, k ≠ n.val → u.biasOf k = s.biasOf k) ∧ Only [.out, .bias, .image .biasStatus] s u := by
  obtain ⟨h1, h2, h3, h4, h5⟩ := (s.fresh.lateHold_done n o rfl).2 hb
  exact ⟨_, exec_biasOpAct_late h hd hl, h1, h2, h3, h4, h5,
    State.lateHold_only (by decide) (State.fresh_only (by decide) (Only.refl _ s))⟩

theorem biasOpAct_sealFails (hl : o.late = false) {key : Nat} (hk : key = 32768 + o.block) :
    Runs (.biasOpAct n true) s fun u => (u.biasOf n).ops = rest
      ∧ ((s.biasOf n).discards o = false → .segment ∈ (u.biasOf n).holds ∧ (u.biasOf n).heldSeg = some o.seg
        ∧ u.flag F.biasStatus_HELD n = true)
      ∧ ShotVoided s u (n / 8)
      ∧ ((s.tile (n / 8)).suspected key = none → (u.tile (n / 8)).suspected key = some (s.tile (n / 8)).base)
      ∧ (∀ x, (s.tile (n / 8)).suspected key = some x → x ≠ (s.tile (n / 8)).base → Reported s u 2
        ∧ (u.tile (n / 8)).suspected key = none ∧ (u.segment (n / 8) o.segId).resident = false)
      ∧ ∀ k, k ≠ n.val → u.biasOf k = s.biasOf k := by
  refine ⟨_, exec_biasOpAct_early h hd hl, ?_⟩
  rw [State.actBias_fails, ← hk]
  obtain ⟨a, ha⟩ : ∃ a, a = s.fresh.takeOp n := ⟨_, rfl⟩
  have han : a.biasOf n = { s.biasOf n with ops := rest } := ha ▸ State.takeOp_biasOf (s := s.fresh) h
  have hak : ∀ k, k ≠ n.val → a.biasOf k = s.biasOf k := fun k hk => ha ▸ s.fresh.takeOp_ne hk
  have oa : Only [.out, .bias] s a := by
    rw [ha]
    exact (State.fresh_only (by decide) (Only.refl _ s)).trans ((s.fresh.takeOp_only n).mono (by decide))
  rw [← ha]
  clear ha
  obtain ⟨b, hb⟩ : ∃ b, b = a.sealHold n o := ⟨_, rfl⟩
  obtain ⟨b1, b2, b3⟩ := a.sealHold_done n o hb
  rw [han] at b1 b2
  have ob : Only [.out, .bias, .image .biasStatus] s b := by
    rw [hb]
    exact (oa.mono (by decide)).trans ((a.sealHold_only n o).mono (by decide))
  rw [← hb]
  clear hb
  obtain ⟨v, hv⟩ : ∃ v, v = b.voidShot (n / 8) := ⟨_, rfl⟩
  have ov : Only [.runs, .image .runStatus, .acq] b v := hv ▸ State.voidShot_only (List.Subset.refl _) (Only.refl _ b)
  have hs : (v.tile (n / 8)).suspected key = (s.tile (n / 8)).suspected key ∧ (v.tile (n / 8)).base = (s.tile (n / 8)).base := by
    rw [hv, (b.voidShot_suspected _ _ _).1, (b.voidShot_suspected _ _ key).2, tile_of_only ob (by decide)]
    exact ⟨rfl, rfl⟩
  have hvoid : ShotVoided s v (n / 8) := hv ▸ ShotVoided.of_only ob (by decide) _
  rw [← hv]
  clear hv
  obtain ⟨f1, f2⟩ := v.sealFault_done (n / 8) key o.segId n rfl
  have hshot := hvoid.sealFault (n / 8) key o.segId n
  have ou := State.sealFault_only (t := n / 8) (key := key) (id := o.segId) (detail := n) (List.Subset.refl _) (Only.refl _ v)
  generalize v.sealFault (n / 8) key o.segId n = u at *
  have hbias : ∀ k, u.biasOf k = b.biasOf k := fun k =>
    (biasOf_of_only ou (by decide) k).trans (biasOf_of_only ov (by decide) k)
  rw [hs.1, hs.2] at f1 f2
  refine ⟨by rw [hbias, b1], fun hdc => ?_, hshot, f1, fun x hx hne => ?_, fun k hk => ?_⟩
  · rw [hbias, ou.flag (by decide), ov.flag (by decide)]
    exact b2 hdc
  · obtain ⟨g1, g2, g3⟩ := f2 x hx hne
    have o2 : Only [.out, .bias, .image .biasStatus, .runs, .image .runStatus, .acq] s v :=
      (ob.mono (by decide)).trans (ov.mono (by decide))
    exact ⟨g1.from o2 (by decide), g2, g3⟩
  · rw [hbias, b3 k hk, hak k hk]

theorem biasOpAct_logs (hl : o.late = false) {key : Nat} (hk : key = 32768 + o.block) {x : Nat}
    (hx : (s.tile (n / 8)).suspected key = some x) (hne : x ≠ (s.tile (n / 8)).base) :
    Runs (.biasOpAct n false) s fun u => Reported s u 2 ∧ (u.tile (n / 8)).suspected key = none := by
  refine ⟨_, exec_biasOpAct_early h hd hl, ?_⟩
  rw [State.actBias_passes, ← hk]
  obtain ⟨h1, h2⟩ := State.sealPass_logs (s := s.fresh.takeOp n) hx hne n
  obtain ⟨k1, k2⟩ := State.actOn_keeps (x := s) _ n (s.fresh.biasOf n) o h1
  exact ⟨k1, (k2 _ _).trans h2⟩

theorem biasOpAct_passes (hl : o.late = false) {key : Nat} (hk : key = 32768 + o.block)
    (hx : (s.tile (n / 8)).suspected key = none) :
    exec (.biasOpAct n false) s = .next ((s.fresh.takeOp n).actOn n (s.biasOf n) o) := by
  rw [exec_biasOpAct_early h hd hl, State.actBias_passes, ← hk,
    State.sealPass_first (show ((s.fresh.takeOp n).tile (n / 8)).suspected key = none from hx)]
  rfl

theorem biasOpAct_parked (hl : o.late = false) (hx : (s.tile (n / 8)).suspected (32768 + o.block) = none)
    (hp : s.flag F.biasStatus_PARKED n = true) : Runs (.biasOpAct n false) s fun u =>
      BiasBecomes s u n { s.biasOf n with ops := rest }
        ∧ u.get F.biasStatus_PARKED_DROP n = satAdd (s.get F.biasStatus_PARKED_DROP n) 1 F.biasStatus_PARKED_DROP.width
        ∧ Only [.out, .bias, .image .biasStatus] s u := by
  refine ⟨_, biasOpAct_passes h hd hl rfl hx, ?_⟩
  have e : (s.fresh.takeOp n).actOn n (s.biasOf n) o = (s.fresh.takeOp n).count F.biasStatus_PARKED_DROP n := if_pos hp
  have o1 : Only [.out, .bias] s (s.fresh.takeOp n) := (State.fresh_only (by decide) (Only.refl _ s)).trans
    ((s.fresh.takeOp_only n).mono (by decide))
  rw [e]
  refine ⟨State.takeOp_becomes (s := s.fresh) h fun k => rfl, ?_, State.count_only (by decide) (o1.mono (by decide))⟩
  rw [State.get_count, o1.get (by decide)]

theorem biasOpAct_held (hl : o.late = false) (hx : (s.tile (n / 8)).suspected (32768 + o.block) = none)
    (hp : s.flag F.biasStatus_PARKED n = false) (hb : (s.biasOf n).discards o = true) : Runs (.biasOpAct n false) s fun u =>
      BiasBecomes s u n { s.biasOf n with ops := rest } ∧ Only [.out, .bias] s u := by
  refine ⟨_, biasOpAct_passes h hd hl rfl hx, ?_⟩
  have e : (s.fresh.takeOp n).actOn n (s.biasOf n) o = s.fresh.takeOp n :=
    (if_neg (ne_true_of_eq_false hp)).trans (if_pos hb)
  rw [e]
  exact ⟨State.takeOp_becomes (s := s.fresh) h fun k => rfl, (State.fresh_only (by decide) (Only.refl _ s)).trans
    ((s.fresh.takeOp_only n).mono (by decide))⟩

theorem biasOpAct_tooFast (hl : o.late = false) (hx : (s.tile (n / 8)).suspected (32768 + o.block) = none)
    (hp : s.flag F.biasStatus_PARKED n = false) (hb : (s.biasOf n).discards o = false) (hf : o.act.tooFast = true) :
    Runs (.biasOpAct n false) s fun u => BiasBecomes s u n { s.biasOf n with ops := rest }
      ∧ Raised s u (seqSource (n / 8) 2) 0 0 ∧ Reported s u 19 ∧ ShotVoided s u (n / 8) := by
  refine ⟨_, biasOpAct_passes h hd hl rfl hx, ?_⟩
  have e : (s.fresh.takeOp n).actOn n (s.biasOf n) o = (s.fresh.takeOp n).freqRange (n / 8) :=
    (if_neg (ne_true_of_eq_false hp)).trans ((if_neg (ne_true_of_eq_false hb)).trans (if_pos hf))
  have of := State.freqRange_only (t := n / 8) (List.Subset.refl _) (Only.refl _ (s.fresh.takeOp n))
  obtain ⟨h1, h2, h3⟩ := (s.fresh.takeOp n).freqRange_done (n / 8)
  rw [e]
  exact ⟨State.takeOp_becomes (s := s.fresh) h fun k => biasOf_of_only of (by decide) k, h1, h2, h3⟩

/-- An operation that acts makes its channel what `Bias.apply` says (R89, R90). -/
theorem biasOpAct_acts (hl : o.late = false) (hx : (s.tile (n / 8)).suspected (32768 + o.block) = none)
    (hp : s.flag F.biasStatus_PARKED n = false) (hb : (s.biasOf n).discards o = false) (hf : o.act.tooFast = false)
    {b : Bias} (hb' : b = ({ s.biasOf n with ops := rest } : Bias).apply o (s.half + (o.due - s.si) / 8)) :
    Runs (.biasOpAct n false) s fun u => BiasBecomes s u n b ∧ Only [.out, .bias] s u := by
  refine ⟨_, biasOpAct_passes h hd hl rfl hx, ?_⟩
  have hn : (s.fresh.takeOp n).biasOf n = { s.biasOf n with ops := rest } := State.takeOp_biasOf (s := s.fresh) h
  have e : (s.fresh.takeOp n).actOn n (s.biasOf n) o = (s.fresh.takeOp n).setBias n b := by
    rw [hb', ← hn]
    exact (if_neg (ne_true_of_eq_false hp)).trans ((if_neg (ne_true_of_eq_false hb)).trans
      (if_neg (ne_true_of_eq_false hf)))
  rw [e]
  exact ⟨⟨State.biasOf_setBias _ _ _, fun k hk => (State.biasOf_setBias_ne _ _ hk).trans (s.fresh.takeOp_ne hk)⟩,
    State.setBias_only (by decide) ((State.fresh_only (by decide) (Only.refl _ s)).trans
      ((s.fresh.takeOp_only n).mono (by decide)))⟩

end opAct

end Sys2Proof
end

section
namespace Sys2Proof
open Machine

/-! ### Ramps, fades, parks and the supply (R90, R92, R98, R99, R105) -/

/-- A row that does nothing else than change a channel. -/
theorem Runs.biasBecomes {c : Instr} {s : State} {n : Nat} {b : Bias} (e : exec c s = .next (s.fresh.setBias n b)) :
    Runs c s fun u => BiasBecomes s u n b ∧ Only [.out, .bias] s u :=
  ⟨_, e, ⟨State.biasOf_setBias _ _ _, fun _ hk => State.biasOf_setBias_ne _ _ hk⟩,
    State.setBias_only (by decide) (State.fresh_only (by decide) (Only.refl _ s))⟩

/-- A row that does nothing. -/
theorem Runs.stands {c : Instr} {s : State} (e : exec c s = .next s.fresh) : Runs c s fun u => u = s.fresh := ⟨_, e, rfl⟩

theorem exec_biasRampComplete {n : Fin 128} {s : State} {r : Ramp} (h : (s.biasOf n).cmd.ramp = some r) :
    exec (.biasRampComplete n) s = .next (if r.start + r.n ≤ s.half + 1 then
      s.fresh.setBias n { s.biasOf n with cmd := { (s.biasOf n).cmd with level := r.v, ramp := none } } else s.fresh) := by
  change execBiasRampComplete n s = _
  unfold execBiasRampComplete
  dsimp only
  rw [show (s.fresh.biasOf n).cmd.ramp = some r from h]
  rfl

theorem exec_sineFadeEnd {n : Fin 128} {s : State} {x : Sine} {f : Nat} (h : (s.biasOf n).cmd.sine = some x)
    (hf : x.fade = some f) : exec (.sineFadeEnd n) s = .next (if f + 128 ≤ s.half then
      s.fresh.setBias n { s.biasOf n with cmd := { (s.biasOf n).cmd with sine := none } } else s.fresh) := by
  change execSineFadeEnd n s = _
  unfold execSineFadeEnd
  dsimp only
  rw [show (s.fresh.biasOf n).cmd.sine = some x from h]
  dsimp only
  rw [hf]
  rfl

namespace Machine

/-! ### Park ramps that end (R98) -/

theorem State.rampEnded_stands {s : State} (h : s.power.ramp = none ∨ ∃ k < 128, s.level k ≠ 0) : s.rampEnded = s := by
  unfold State.rampEnded
  split
  · next c hc =>
    rcases h with h | ⟨k, hk, hl⟩
    · rw [h] at hc
      cases hc
    · refine if_neg fun ha => hl ?_
      exact of_decide_eq_true (List.all_eq_true.mp ha k (List.mem_range.mpr hk))
  · rfl

theorem State.rampEnded_resets {s : State} (h : s.power.ramp = some 2) (hl : ∀ k < 128, s.level k = 0) :
    s.rampEnded.mode = .reset ∧ s.rampEnded.power.resetUntil = some (s.clock.now + 10 * Config.ticksPerUs) := by
  have e : s.rampEnded = s.rampDone 2 := by
    unfold State.rampEnded
    rw [h]
    exact if_pos (List.all_eq_true.mpr fun k hk => decide_eq_true (hl k (List.mem_range.mp hk)))
  rw [e]
  exact ⟨rfl, rfl⟩

/-- A channel whose park ramp has reached its target. -/
def Bias.parkedAt (b : Bias) (p : ParkRamp) : Bias :=
  { b with cmd := { b.cmd with level := p.target, ramp := none }, park := none, sink := b.sink || !p.connect }

theorem exec_parkRampDone {n : Fin 128} {s : State} {p : ParkRamp} (h : (s.biasOf n).park = some p) :
    exec (.parkRampDone n) s = .next (if s.level n = p.target then
      (s.fresh.setBias n ((s.biasOf n).parkedAt p)).rampEnded else s.fresh) := by
  change execParkRampDone n s = _
  unfold execParkRampDone
  dsimp only
  rw [show (s.fresh.biasOf n).park = some p from h]
  rfl

theorem State.level_setBias_ne (s : State) {n k : Nat} (b : Bias) (h : k ≠ n) : (s.setBias n b).level k = s.level k := by
  unfold State.level
  rw [State.biasOf_setBias_ne _ _ h]
  rfl

/-- A channel that has parked stands at its target, whatever an operation of an earlier sample left. -/
theorem State.level_parkedAt (s : State) (n : Nat) (b : Bias) (p : ParkRamp) (h : ∀ x, b.was = some x → x.1 ≤ s.half) :
    (s.setBias n (b.parkedAt p)).level n = p.target := by
  have hc : (b.parkedAt p).cmdAt s.half = (b.parkedAt p).cmd := by
    unfold Bias.cmdAt
    split
    · next d c hw => exact if_neg (Nat.not_lt.mpr (h (d, c) hw))
    · rfl
  unfold State.level
  rw [State.biasOf_setBias]
  exact congrArg (Commanded.levelAt · s.half) hc

/-! ### The park oscillator hands back (R99) -/

theorem mem_biasOfIsland {i n : Nat} : n ∈ biasOfIsland i ↔ n / 16 = i := by
  unfold biasOfIsland
  simp only [List.mem_map, List.mem_range]
  constructor
  · rintro ⟨a, ha, rfl⟩
    omega
  · rintro rfl
    exact ⟨n % 16, by omega, by omega⟩

theorem biasOfIsland_nodup (i : Nat) : (biasOfIsland i).Nodup :=
  List.Nodup.map (fun _ _ h => Nat.add_left_cancel h) List.nodup_range

/-- A change of every channel of a list, each by itself. -/
theorem State.setBias_each (s : State) (g : Bias → Bias) {l : List Nat} (hl : l.Nodup) {u : State}
    (hu : u = l.foldl (fun s n => s.setBias n (g (s.biasOf n))) s) :
    (∀ n ∈ l, u.biasOf n = g (s.biasOf n)) ∧ (∀ n, n ∉ l → u.biasOf n = s.biasOf n) ∧ Only [.bias] s u := by
  obtain ⟨h1, h2⟩ := foldl_each State.biasOf (fun s n => s.setBias n (g (s.biasOf n))) g
    (fun s t => State.biasOf_setBias s t _) (fun s t u h => State.biasOf_setBias_ne s _ h) l s hl
  exact hu ▸ ⟨h1, h2, Only.foldl (fun _ _ hx => State.setBias_only (List.Subset.refl _) hx) _ (Only.refl _ s)⟩

theorem exec_parkOscHandback_hands {i : Fin 8} {s : State} (hl : s.flag F.gridStatus_PLL_LOCK = true)
    (ho : ∃ n, n / 16 = i.val ∧ (s.biasOf n).parkOsc.isSome = true)
    (ha : ∀ n, n / 16 = i.val → (s.biasOf n).park = none
        ∧ ∀ x, (s.biasOf n).parkOsc = some x → (s.clock.now - x) % 8 = 0) :
    exec (.parkOscHandback i) s =
      .next ((biasOfIsland i).foldl (fun s n => s.setBias n (s.biasOf n).settle) s.fresh) := by
  refine congrArg Host.Outcome.next (if_pos ?_)
  obtain ⟨n, hn, hs⟩ := ho
  simp only [Bool.and_eq_true, List.any_eq_true, List.all_eq_true]
  refine ⟨⟨hl, n, mem_biasOfIsland.mpr hn, hs⟩, fun k hk => ?_⟩
  obtain ⟨h1, h2⟩ := ha k (mem_biasOfIsland.mp hk)
  refine ⟨Option.isNone_iff_eq_none.mpr h1, ?_⟩
  unfold Bias.atStep
  split
  · next x hx => exact decide_eq_true (h2 x hx)
  · rfl

theorem exec_parkOscHandback_stands {i : Fin 8} {s : State} (h : s.flag F.gridStatus_PLL_LOCK = false ∨
    ∃ n, n / 16 = i.val ∧ ((s.biasOf n).park ≠ none ∨ ∃ x, (s.biasOf n).parkOsc = some x ∧ (s.clock.now - x) % 8 ≠ 0)) :
    exec (.parkOscHandback i) s = .next s.fresh := by
  refine congrArg Host.Outcome.next (if_neg fun hc => ?_)
  simp only [Bool.and_eq_true, List.any_eq_true, List.all_eq_true] at hc
  obtain ⟨⟨hl, -⟩, ha⟩ := hc
  rcases h with h | ⟨n, hn, h⟩
  · exact absurd (h.symm.trans hl) (by decide)
  · obtain ⟨h1, h2⟩ := ha n (mem_biasOfIsland.mpr hn)
    rcases h with h | ⟨x, hx, h⟩
    · exact h (Option.isNone_iff_eq_none.mp h1)
    · unfold Bias.atStep at h2
      rw [show (s.fresh.biasOf n).parkOsc = some x from hx] at h2
      exact h (of_decide_eq_true h2)

end Machine
end Sys2Proof
end

section
namespace Sys2Proof
open Machine
theorem half_of_only {ps : List Part} {s t : State} (h : Only ps s t) (hp : Part.now ∉ ps) : t.half = s.half :=
  congrArg (2 * ·) (h .now hp)

namespace Machine

/-! ### Supervision (R100 to R103) -/

theorem State.holdBias_get (s : State) {f : Field} (hf : Apart F.biasStatus_HELD f) (n : Nat) (c : HoldCause) (h : Nat)
    (seg : Option Nat) : (s.holdBias n c h seg).get f n = s.get f n := by
  rw [State.holdBias_eq, State.get_putFlag_other _ hf]
  exact (State.setBias_only (List.Subset.refl _) (Only.refl _ s)).get (by simp) n

/-- A hold that begins at a half tick leaves LEVEL there as it was. -/
theorem Bias.held_levelAt (b : Bias) (c : HoldCause) (h : Nat) (seg : Option Nat) :
    (b.held c h seg).levelAt h = b.levelAt h := by
  by_cases hp : b.park.isSome = true
  · obtain ⟨p, hp'⟩ := Option.isSome_iff_exists.mp hp
    have e : (b.held c h seg).park = some p ∧ (b.held c h seg).oscHalf h = b.oscHalf h := by
      unfold Bias.held
      rw [if_pos hp]
      exact ⟨hp', rfl⟩
    unfold Bias.levelAt
    rw [e.1, e.2, hp']
  · have hn : b.park = none := by simpa using hp
    have e : (b.held c h seg).park = none ∧ (b.held c h seg).was = some (h, b.cmdAt (h - 1))
        ∧ (b.held c h seg).cmd.ramp = none ∧ (b.held c h seg).cmd.level = b.levelAt h := by
      unfold Bias.held
      rw [if_neg hp]
      exact ⟨hn, rfl, rfl, rfl⟩
    obtain ⟨e1, e2, e3, e4⟩ := e
    have ec : (b.held c h seg).cmdAt h = (b.held c h seg).cmd := by
      unfold Bias.cmdAt
      rw [e2]
      exact if_neg (Nat.lt_irrefl h)
    conv_lhs => unfold Bias.levelAt
    rw [e1]
    dsimp only
    rw [ec]
    unfold Commanded.levelAt
    rw [e3]
    exact e4

/-- A hold that begins now leaves LEVEL as it is. -/
theorem State.holdBias_level (s : State) (n : Nat) (c : HoldCause) (seg : Option Nat) :
    (s.holdBias n c s.half seg).level n = s.level n := by
  have e : (s.holdBias n c s.half seg).half = s.half :=
    half_of_only (State.holdBias_only (List.Subset.refl _) (Only.refl _ s)) (by decide)
  unfold State.level
  rw [e, (s.holdBias_done n c s.half seg rfl).1, Bias.held_levelAt]

theorem State.parkBias_get (s : State) {f : Field} (hf : Apart F.biasStatus_PARKED f) (n : Nat) (x : Int) (c : Bool) :
    (s.parkBias n x c).get f n = s.get f n := by
  unfold State.parkBias
  extract_lets off y d b v
  have ov : Only [.bias] s v := State.setBias_only (List.Subset.refl _) (Only.refl _ s)
  clear_value v
  exact (State.get_putFlag_other v hf).trans (ov.get (by simp) n)

/-- What a park leaves of its channel. -/
theorem State.parkBias_done (s : State) (n : Nat) (x : Int) {u : State} (hu : u = s.parkBias n x) :
    u.flag F.biasStatus_PARKED n = true ∧ (u.biasOf n).holds = (s.biasOf n).holds
      ∧ (u.biasOf n).openSince = (s.biasOf n).openSince ∧ (∀ k, k ≠ n → u.biasOf k = s.biasOf k)
      ∧ (s.power.ramp = none → (u.biasOf n).park = some { l0 := s.level n, target := x * 2 ^ 16, start := s.half
                                                          slew := s.get F.biasConfig_PARK_SLEW n, connect := true }) := by
  unfold State.parkBias at hu
  extract_lets off y d b v at hu
  have o : Only [.image .biasStatus] v u := hu ▸ State.putFlag_only (by decide) (Only.refl _ v)
  have hv : v.biasOf n = _ := State.biasOf_setBias _ _ _
  rw [biasOf_of_only o (by decide), hv]
  refine ⟨?_, rfl, rfl, fun k hk => ?_, fun hr => ?_⟩
  · rw [hu]
    exact State.flag_putFlag _ _ _ _ (by decide)
  · rw [biasOf_of_only o (by decide)]
    exact State.biasOf_setBias_ne _ _ hk
  · have ho : off = false := by
      unfold off
      rw [hr]
      rfl
    unfold y d
    rw [ho]
    rfl

/-- The latches and their actions decide what a trip does. -/
theorem State.tripAction_congr {s t : State} {n : Nat} (hc : t.get F.biasStatus_COMP_LATCH n = s.get F.biasStatus_COMP_LATCH n)
    (ho : t.get F.biasStatus_OL_LATCH n = s.get F.biasStatus_OL_LATCH n) (hi : t.image .biasConfig n = s.image .biasConfig n) :
    t.tripAction n = s.tripAction n ∧ t.latchHolds n = s.latchHolds n := by
  have h1 : t.get F.biasConfig_COMP_ACTION n = s.get F.biasConfig_COMP_ACTION n :=
    congrArg (bits · F.biasConfig_COMP_ACTION.lo F.biasConfig_COMP_ACTION.width) hi
  have h2 : t.get F.biasConfig_OL_ACTION n = s.get F.biasConfig_OL_ACTION n :=
    congrArg (bits · F.biasConfig_OL_ACTION.lo F.biasConfig_OL_ACTION.width) hi
  unfold State.tripAction State.latchHolds State.flag
  rw [hc, ho, h1, h2]
  exact ⟨rfl, rfl⟩

/-- HOLD is the action in force only where a latch of that action is set, and REPORT only where none is. -/
theorem State.tripAction_holds (s : State) (n : Nat) : (s.tripAction n = 0 → s.latchHolds n = false)
    ∧ (s.tripAction n = 1 → s.latchHolds n = true) := by
  unfold State.tripAction State.latchHolds tripStrength
  dsimp only
  cases s.flag F.biasStatus_COMP_LATCH n <;> cases s.flag F.biasStatus_OL_LATCH n <;>
    generalize s.get F.biasConfig_COMP_ACTION n = a <;> generalize s.get F.biasConfig_OL_ACTION n = b <;>
    simp only [Bool.false_and, Bool.true_and, Bool.false_or, Bool.or_false, Bool.false_eq_true, if_true, if_false] <;>
    grind

/-- A latch sets, its source is raised and the report is made. -/
def State.tripNoted (s : State) (n : Nat) (latch : Field) (kind : Nat) : State :=
  (((s.putFlag latch n true).raise (512 + n)).report 14 false (512 + n) n kind).urge .trip

/-- The latched hold, where a latch holds. -/
def State.tripHeld (s : State) (n : Nat) : State := if s.latchHolds n then s.holdBias n .latched s.half none else s

/-- The park of a trip, where the channel is not parked. -/
def State.tripParked (s : State) (n : Nat) : State :=
  if s.flag F.biasStatus_PARKED n then s else s.parkBias n (s.parkValue n)

/-- What the action in force makes of a trip. -/
def State.tripActs (s : State) (n : Nat) : Nat → State
  | 0 => s
  | 1 => s.voidShot (n / 8)
  | _ => (s.tripParked n).voidShot (n / 8)

theorem State.trip_split (s : State) (n : Nat) (latch : Field) (kind : Nat) : s.trip n latch kind =
    (((s.tripNoted n latch kind).tripHeld n).tripActs n (((s.tripNoted n latch kind).tripHeld n).tripAction n)) := by
  unfold State.trip
  extract_lets v w
  rw [← show w = (s.tripNoted n latch kind).tripHeld n from rfl]
  clear_value w
  generalize w.tripAction n = x
  match x with
  | 0 => rfl
  | 1 => rfl
  | _ + 2 => rfl


/-- The fields of a bias channel's status that a latch, a hold and a park leave as they are. -/
def tripKept : List Field := [F.biasStatus_COMP_LATCH, F.biasStatus_OL_LATCH, F.biasStatus_VSENSE]

theorem tripKept_apart : ∀ f ∈ tripKept, f.record = .biasStatus ∧ Apart F.biasStatus_HELD f ∧ Apart F.biasStatus_PARKED f := by
  decide

/-- What a latch that sets leaves, before its action. -/
theorem State.tripNoted_done {s : State} {n : Nat} {latch : Field} {kind : Nat}
    (hl : latch = F.biasStatus_COMP_LATCH ∨ latch = F.biasStatus_OL_LATCH) {v : State} (hv : v = s.tripNoted n latch kind) :
    Raised s v (512 + n) 0 0 ∧ Reported s v 14
    ∧ Only [.out, .hatband, .log, .image .logStatus, .monitor, .image .biasStatus] s v ∧ v.flag latch n = true
    ∧ ∀ f, f.record = .biasStatus → Apart latch f → v.get f n = s.get f n := by
  obtain ⟨a, ha⟩ : ∃ a, a = s.putFlag latch n true := ⟨_, rfl⟩
  have hr : latch.record = .biasStatus := by
    rcases hl with rfl | rfl <;> rfl
  have hw : 0 < latch.width := by
    rcases hl with rfl | rfl <;> decide
  have oa : Only [.image .biasStatus] s a := ha ▸ State.putFlag_only (by rw [hr]; decide) (Only.refl _ s)
  have hlog : a.log = s.log := oa .log (by decide)
  have hf : a.flag latch n = true := ha ▸ State.flag_putFlag _ _ _ _ hw
  have hg : ∀ f, Apart latch f → a.get f n = s.get f n := fun f h => ha ▸ State.get_putFlag_other s h
  have ov : Only [.out, .hatband, .log, .image .logStatus, .monitor] a v := by
    rw [hv, ha]
    exact State.urge_only (by decide) (State.report_only (by decide) (State.raise_only (by decide) (Only.refl _ _)))
  have ou : Only [.monitor] ((a.raise (512 + n)).report 14 false (512 + n) n kind) v := by
    rw [hv, ha]
    exact State.urge_only (List.Subset.refl _) (Only.refl _ _)
  refine ⟨?_, ?_, (oa.mono (by decide)).trans (ov.mono (by decide)), ?_, fun f hfr h => ?_⟩
  · exact ((Raised.raise (s := s) (t := a) _ _ _).grow (Grows.report _ _ _ _ _ _)).grow
      (Grows.of_only ou (by decide) (by decide))
  · have h : Reported s ((a.raise (512 + n)).report 14 false (512 + n) n kind) 14 :=
      Reported.report _ _ _ _ _ (congrArg Log.counters hlog)
    exact h.only ou (by decide)
  · rw [ov.flag (by rw [hr]; decide), hf]
  · rw [ov.get (by rw [hfr]; decide), hg f h]

/-- The latched hold of a trip. -/
theorem State.tripHeld_done (v : State) (n : Nat) {w : State} (hw : w = v.tripHeld n) :
    Only [.bias, .image .biasStatus] v w ∧ (∀ k, k ≠ n → w.biasOf k = v.biasOf k) ∧ w.level n = v.level n
    ∧ (w.biasOf n).park = (v.biasOf n).park ∧ (w.biasOf n).openSince = (v.biasOf n).openSince
    ∧ (v.latchHolds n = true → .latched ∈ (w.biasOf n).holds ∧ w.flag F.biasStatus_HELD n = true)
    ∧ (v.latchHolds n = false → w = v)
    ∧ ∀ f, Apart F.biasStatus_HELD f → w.get f n = v.get f n := by
  unfold State.tripHeld at hw
  split at hw
  · next h =>
    obtain ⟨h1, h2, h3⟩ := v.holdBias_done n .latched v.half none hw
    obtain ⟨k1, -, -, k4, k5⟩ := (v.biasOf n).held_done .latched v.half none
    rw [← h1] at k1 k4 k5
    refine ⟨?_, h3, ?_, k4, k5, fun _ => ⟨k1, h2⟩, fun e => absurd (h.symm.trans e) (by decide), fun f hf => ?_⟩
    · exact hw ▸ State.holdBias_only (List.Subset.refl _) (Only.refl _ v)
    · exact hw ▸ v.holdBias_level n .latched none
    · exact hw ▸ v.holdBias_get hf n .latched v.half none
  · next h =>
    subst hw
    exact ⟨Only.refl _ w, fun _ _ => rfl, rfl, rfl, rfl, fun e => absurd e h, fun _ => rfl, fun _ _ => rfl⟩

/-- The park of a trip. -/
theorem State.tripParked_done (w : State) (n : Nat) {y : State} (hy : y = w.tripParked n) :
    Only [.bias, .image .biasStatus] w y ∧ (∀ k, k ≠ n → y.biasOf k = w.biasOf k) ∧ y.flag F.biasStatus_PARKED n = true
    ∧ (y.biasOf n).holds = (w.biasOf n).holds ∧ (y.biasOf n).openSince = (w.biasOf n).openSince
    ∧ (w.flag F.biasStatus_PARKED n = true → (y.biasOf n).park = (w.biasOf n).park)
    ∧ (w.flag F.biasStatus_PARKED n = false → w.power.ramp = none → (y.biasOf n).park = some
      { l0 := w.level n, target := w.parkValue n * 2 ^ 16, start := w.half
        slew := w.get F.biasConfig_PARK_SLEW n, connect := true })
    ∧ ∀ f, Apart F.biasStatus_PARKED f → y.get f n = w.get f n := by
  unfold State.tripParked at hy
  split at hy
  · next h =>
    subst hy
    exact ⟨Only.refl _ y, fun _ _ => rfl, h, rfl, rfl, fun _ => rfl, fun e => absurd (h.symm.trans e) (by decide), fun _ _ => rfl⟩
  · next h =>
    obtain ⟨h1, h2, h3, h4, h5⟩ := w.parkBias_done n _ hy
    refine ⟨?_, h4, h1, h2, h3, fun e => absurd e h, fun _ => h5, fun f hf => ?_⟩
    · exact hy ▸ State.parkBias_only (List.Subset.refl _) (Only.refl _ w)
    · exact hy ▸ w.parkBias_get hf n _ _

/-- The parts that a trip may change before its shot is void. -/
def tripParts : List Part := [.out, .hatband, .log, .image .logStatus, .monitor, .bias, .image .biasStatus]

/-- A trip that voids the shot: what has been raised, reported and changed before stands. -/
theorem State.tripVoids {s y u : State} {n : Nat} (o : Only tripParts s y) (h1 : Raised s y (512 + n) 0 0)
    (h2 : Reported s y 14) (hu : u = y.voidShot (n / 8)) : Raised s u (512 + n) 0 0 ∧ Reported s u 14
    ∧ ShotVoided s u (n / 8) ∧ (∀ k, u.biasOf k = y.biasOf k)
    ∧ (∀ f : Field, f.record = .biasStatus → u.get f n = y.get f n)
    ∧ Only (tripParts ++ [.runs, .image .runStatus, .acq]) s u := by
  have ou : Only [.runs, .image .runStatus, .acq] y u := hu ▸ State.voidShot_only (List.Subset.refl _) (Only.refl _ y)
  refine ⟨h1.grow (Grows.of_only ou (by decide) (by decide)), h2.only ou (by decide), ?_,
    fun k => biasOf_of_only ou (by decide) k, fun f hf => ou.get (by rw [hf]; decide) n, ?_⟩
  · exact hu ▸ ShotVoided.of_only o (by decide) _
  · exact (o.mono (by decide)).trans (ou.mono (by decide))

theorem State.latchHolds_kept {s t : State} {n : Nat} (h : ∀ f ∈ tripKept, t.get f n = s.get f n)
    (hi : t.image .biasConfig n = s.image .biasConfig n) : t.tripAction n = s.tripAction n ∧ t.latchHolds n = s.latchHolds n :=
  State.tripAction_congr (h _ (by decide)) (h _ (by decide)) hi

theorem State.flag_of_get {s t : State} {f : Field} {n : Nat} (h : t.get f n = s.get f n) : t.flag f n = s.flag f n :=
  congrArg (fun x : Nat => decide (x = 1)) h

/-- A trip before its action: the latch has set, and the latched hold stands where a latch holds. -/
structure HeldTrip (s w : State) (n : Nat) (latch : Field) : Prop where
  raised : Raised s w (512 + n) 0 0
  reported : Reported s w 14
  only : Only tripParts s w
  others : ∀ k, k ≠ n → w.biasOf k = s.biasOf k
  level : w.level n = s.level n
  park : (w.biasOf n).park = (s.biasOf n).park
  openSince : (w.biasOf n).openSince = (s.biasOf n).openSince
  latched : w.latchHolds n = true → .latched ∈ (w.biasOf n).holds ∧ w.flag F.biasStatus_HELD n = true
  stands : w.latchHolds n = false → w.bias = s.bias
  isLatch : latch ∈ tripKept
  isSet : w.flag latch n = true
  kept : ∀ f ∈ tripKept, f ≠ latch → w.get f n = s.get f n
  parked : w.flag F.biasStatus_PARKED n = s.flag F.biasStatus_PARKED n

theorem State.heldTrip {s : State} {n : Nat} {latch : Field} {kind : Nat}
    (hl : latch = F.biasStatus_COMP_LATCH ∨ latch = F.biasStatus_OL_LATCH) {w : State}
    (hw : w = (s.tripNoted n latch kind).tripHeld n) :
    HeldTrip s w n latch ∧ w.tripAction n = (s.tripNoted n latch kind).tripAction n := by
  obtain ⟨v, hv⟩ : ∃ v, v = s.tripNoted n latch kind := ⟨_, rfl⟩
  obtain ⟨v1, v2, v3, v4, v5⟩ := State.tripNoted_done hl hv
  rw [← hv] at hw ⊢
  clear hv
  obtain ⟨w1, w2, w3, w4, w5, w6, w7, w8⟩ := v.tripHeld_done n hw
  have hkept : ∀ f ∈ tripKept, w.get f n = v.get f n := fun f hf => w8 f (tripKept_apart f hf).2.1
  obtain ⟨hact, hholds⟩ := State.latchHolds_kept hkept (w1.image (by decide) n)
  have hlatch : latch ∈ tripKept := by
    rcases hl with rfl | rfl <;> decide
  have hapart : ∀ f ∈ tripKept, f ≠ latch → Apart latch f := by
    rcases hl with rfl | rfl <;> decide
  have hparked : Apart latch F.biasStatus_PARKED := by
    rcases hl with rfl | rfl <;> decide
  have hb : ∀ k, v.biasOf k = s.biasOf k := fun k => biasOf_of_only v3 (by decide) k
  refine ⟨?_, hact⟩
  constructor
  case raised => exact v1.grow (Grows.of_only w1 (by decide) (by decide))
  case reported => exact v2.only w1 (by decide)
  case only => exact (v3.mono (by decide)).trans (w1.mono (by decide))
  case others => exact fun k hk => (w2 k hk).trans (hb k)
  case level =>
    rw [w3]
    unfold State.level
    rw [hb, half_of_only v3 (by decide)]
  case park => rw [w4, hb]
  case openSince => rw [w5, hb]
  case latched => exact fun h => w6 (hholds.symm.trans h)
  case stands =>
    intro h
    rw [w7 (hholds.symm.trans h)]
    exact v3 .bias (by decide)
  case isLatch => exact hlatch
  case isSet => exact (State.flag_of_get (hkept latch hlatch)).trans v4
  case kept => exact fun f hf hne => (hkept f hf).trans (v5 f (tripKept_apart f hf).1 (hapart f hf hne))
  case parked => exact State.flag_of_get ((w8 _ (by decide)).trans (v5 _ rfl hparked))

/-- A trip that has acted: what it says of its channel, and the status fields that it leaves. -/
def TripLeft (s u : State) (n : Nat) (latch : Field) (x : Nat) : Prop :=
  Tripped s u n x ∧ u.flag latch n = true ∧ (u.biasOf n).openSince = (s.biasOf n).openSince
    ∧ ∀ f ∈ tripKept, f ≠ latch → u.get f n = s.get f n

/-- REPORT: nothing follows. -/
theorem HeldTrip.reports {s w : State} {n : Nat} {latch : Field} (h : HeldTrip s w n latch) (hx : w.tripAction n = 0) :
    TripLeft s w n latch 0 :=
  ⟨⟨h.raised, h.reported, h.others,
      fun _ => ⟨h.stands ((w.tripAction_holds n).1 hx), program_of_only h.only (by decide) (by decide)⟩,
      fun e => absurd e (by decide), fun e => absurd e (by decide), h.only.mono (by decide)⟩,
    h.isSet, h.openSince, h.kept⟩

/-- HOLD: LEVEL is held, and the shot is void. -/
theorem HeldTrip.holds {s w : State} {n : Nat} {latch : Field} (h : HeldTrip s w n latch) (hx : w.tripAction n = 1) :
    TripLeft s (w.voidShot (n / 8)) n latch 1 := by
  obtain ⟨u1, u2, u3, u4, u5, u6⟩ := State.tripVoids h.only h.raised h.reported rfl
  obtain ⟨k1, k2⟩ := h.latched ((w.tripAction_holds n).2 hx)
  refine ⟨⟨u1, u2, fun k hk => (u4 k).trans (h.others k hk), fun e => absurd e (by decide), fun _ => ⟨?_, ?_, u3⟩,
    fun e => absurd e (by decide), u6.mono (by decide)⟩, ?_, ?_, fun f hf hne => ?_⟩
  · rw [u4]
    exact k1
  · exact (State.flag_of_get (u5 _ rfl)).trans k2
  · exact (State.flag_of_get (u5 _ (tripKept_apart _ h.isLatch).1)).trans h.isSet
  · rw [u4, h.openSince]
  · rw [u5 f (tripKept_apart f hf).1, h.kept f hf hne]

/-- PARK: the channel parks where it is not parked, and the shot is void. -/
theorem HeldTrip.parks {s w : State} {n : Nat} {latch : Field} (h : HeldTrip s w n latch) (m : Nat) :
    TripLeft s ((w.tripParked n).voidShot (n / 8)) n latch (m + 2) := by
  obtain ⟨y1, y2, y3, y4, y5, y6, y7, y8⟩ := w.tripParked_done n rfl
  generalize w.tripParked n = y at *
  obtain ⟨u1, u2, u3, u4, u5, u6⟩ := State.tripVoids (h.only.trans (y1.mono (by decide)))
    (h.raised.grow (Grows.of_only y1 (by decide) (by decide))) (h.reported.only y1 (by decide)) rfl
  generalize y.voidShot (n / 8) = u at *
  have hku : ∀ f ∈ tripKept, u.get f n = w.get f n := fun f hf =>
    (u5 f (tripKept_apart f hf).1).trans (y8 f (tripKept_apart f hf).2.2)
  refine ⟨⟨u1, u2, fun k hk => (u4 k).trans ((y2 k hk).trans (h.others k hk)), fun e => absurd e (by omega),
    fun e => absurd e (by omega), fun _ => ⟨?_, u3, fun hh => ⟨?_, ?_⟩, fun hp => ?_, fun hp hr => ?_⟩,
    u6.mono (by decide)⟩, ?_, ?_, fun f hf hne => ?_⟩
  · exact (State.flag_of_get (u5 _ rfl)).trans y3
  · rw [(State.latchHolds_kept hku ((u6.image (by decide) n).trans (h.only.image (by decide) n).symm)).2] at hh
    rw [u4, y4]
    exact (h.latched hh).1
  · rw [(State.latchHolds_kept hku ((u6.image (by decide) n).trans (h.only.image (by decide) n).symm)).2] at hh
    exact (State.flag_of_get ((u5 _ rfl).trans (y8 _ (by decide)))).trans (h.latched hh).2
  · rw [u4, y6 (h.parked.trans hp), h.park]
  · rw [u4, y7 (h.parked.trans hp) (by rw [h.only .power (by decide)]; exact hr), h.level, half_of_only h.only (by decide)]
    unfold State.parkValue
    rw [h.only.get (by decide), h.only.get (by decide)]
  · exact (State.flag_of_get (hku _ h.isLatch)).trans h.isSet
  · rw [u4, y5, h.openSince]
  · rw [hku f hf, h.kept f hf hne]

/-- What a trip leaves (R102, R103). -/
theorem State.trip_done {s : State} {n : Nat} {latch : Field} {kind : Nat}
    (hl : latch = F.biasStatus_COMP_LATCH ∨ latch = F.biasStatus_OL_LATCH) {u : State} (hu : u = s.trip n latch kind) {x : Nat}
    (hx : x = (s.tripNoted n latch kind).tripAction n) : TripLeft s u n latch x := by
  rw [State.trip_split] at hu
  obtain ⟨h, hact⟩ := State.heldTrip (s := s) (n := n) (kind := kind) hl rfl
  generalize (s.tripNoted n latch kind).tripHeld n = w at *
  rw [hact, ← hx] at hu
  rw [← hx] at hact
  subst hu
  match x, hact with
  | 0, hact => exact h.reports hact
  | 1, hact => exact h.holds hact
  | m + 2, _ => exact h.parks m

end Machine
end Sys2Proof
end

section
namespace Sys2Proof
open Machine

/-! ### The clauses of O50 on the trips -/

/-- A trip seen from a state before what led to it. -/
theorem Tripped.from {s v u : State} {n x : Nat} (h : Tripped v u n x) (o : Only [.out, .image .biasStatus] s v)
    (hp : v.flag F.biasStatus_PARKED n = s.flag F.biasStatus_PARKED n) : Tripped s u n x := by
  obtain ⟨h1, h2, h3, h4, h5, h6, h7⟩ := h
  refine ⟨h1, h2.from o (by decide), fun k hk => (h3 k hk).trans (biasOf_of_only o (by decide) k), fun hx => ?_,
    fun hx => ?_, fun hx => ?_, (o.mono (by decide)).trans h7⟩
  · exact ⟨(h4 hx).1.trans (o .bias (by decide)), (h4 hx).2.trans (program_of_only o (by decide) (by decide))⟩
  · obtain ⟨k1, k2, k3⟩ := h5 hx
    exact ⟨k1, k2, k3.from o (by decide)⟩
  · obtain ⟨k1, k2, k3, k4, k5⟩ := h6 hx
    refine ⟨k1, k2.from o (by decide), k3, fun hs => ?_, fun hs hr => ?_⟩
    · rw [k4 (hp.trans hs), biasOf_of_only o (by decide)]
    · rw [k5 (hp.trans hs) (by rw [o .power (by decide)]; exact hr)]
      unfold State.level
      rw [half_of_only o (by decide), biasOf_of_only o (by decide), o.get (by decide), o.get (by decide)]

namespace Machine

theorem exec_complianceTrip {n : Fin 128} {v : BitVec 16} {s : State} (h : s.mode ≠ .reset) :
    exec (.complianceTrip n v) s = .next (if s.get F.biasConfig_COMP_WINDOW n * 10 < v.toInt.natAbs
        ∧ s.flag F.biasStatus_COMP_LATCH n = false then
      (s.fresh.put F.biasStatus_VSENSE n v.toNat).trip n F.biasStatus_COMP_LATCH 0
      else s.fresh.put F.biasStatus_VSENSE n v.toNat) := by
  change execComplianceTrip n v s = _
  unfold execComplianceTrip
  extract_lets a b c
  have oa : Only [.out, .image .biasStatus] s b := State.put_only (by decide) (State.fresh_only (by decide) (Only.refl _ s))
  have h1 : b.get F.biasConfig_COMP_WINDOW n = s.get F.biasConfig_COMP_WINDOW n := oa.get (by decide) n
  have h2 : b.flag F.biasStatus_COMP_LATCH n = s.flag F.biasStatus_COMP_LATCH n :=
    State.flag_put_other s.fresh (g := F.biasStatus_COMP_LATCH) (by decide)
  unfold c
  rw [if_neg (show ¬ a.mode = .reset from h), h1, h2]
  refine congrArg Host.Outcome.next (ite_congr ?_ (fun _ => rfl) (fun _ => rfl))
  simp

theorem exec_openLoadTrip {n : Fin 128} {s : State} : exec (.openLoadTrip n) s =
    .next (if (s.openLoadDue n && !s.flag F.biasStatus_OL_LATCH n) = true then
      (s.setBias n { s.biasOf n with openSince := none }).fresh.trip n F.biasStatus_OL_LATCH 1 else s.fresh) := rfl

/-- The strength of the actions in force once COMP_LATCH has set (R102). -/
theorem State.tripAction_comp {s : State} {n : Nat} {kind : Nat} :
    (s.tripNoted n F.biasStatus_COMP_LATCH kind).tripAction n = max (tripStrength (s.get F.biasConfig_COMP_ACTION n))
      (if s.flag F.biasStatus_OL_LATCH n then tripStrength (s.get F.biasConfig_OL_ACTION n) else 0) := by
  obtain ⟨v, hv⟩ : ∃ v, v = s.tripNoted n F.biasStatus_COMP_LATCH kind := ⟨_, rfl⟩
  obtain ⟨-, -, h3, h4, h5⟩ := State.tripNoted_done (.inl rfl) hv
  have h6 : v.flag F.biasStatus_OL_LATCH n = s.flag F.biasStatus_OL_LATCH n := by
    unfold State.flag
    rw [h5 _ rfl (by decide)]
  rw [← hv]
  unfold State.tripAction
  rw [h4, h6, h3.get (by decide), h3.get (by decide)]
  rfl

/-- The strength of the actions in force once OL_LATCH has set (R102). -/
theorem State.tripAction_openLoad {s : State} {n : Nat} {kind : Nat} :
    (s.tripNoted n F.biasStatus_OL_LATCH kind).tripAction n =
      max (if s.flag F.biasStatus_COMP_LATCH n then tripStrength (s.get F.biasConfig_COMP_ACTION n) else 0)
        (tripStrength (s.get F.biasConfig_OL_ACTION n)) := by
  obtain ⟨v, hv⟩ : ∃ v, v = s.tripNoted n F.biasStatus_OL_LATCH kind := ⟨_, rfl⟩
  obtain ⟨-, -, h3, h4, h5⟩ := State.tripNoted_done (.inr rfl) hv
  have h6 : v.flag F.biasStatus_COMP_LATCH n = s.flag F.biasStatus_COMP_LATCH n := by
    unfold State.flag
    rw [h5 _ rfl (by decide)]
  rw [← hv]
  unfold State.tripAction
  rw [h4, h6, h3.get (by decide), h3.get (by decide)]
  rfl

end Machine

/-- The clause of O50 on COMPLIANCE_TRIP. -/
theorem complianceTrip_effects {n : Fin 128} {v : BitVec 16} {s : State} (h : s.mode ≠ .reset) :
    (v.toInt.natAbs ≤ s.get F.biasConfig_COMP_WINDOW n * 10 ∨ s.flag F.biasStatus_COMP_LATCH n = true →
      Runs (.complianceTrip n v) s fun u => u.get F.biasStatus_VSENSE n = v.toNat
        ∧ Only [.out, .image .biasStatus] s u)
    ∧ (s.get F.biasConfig_COMP_WINDOW n * 10 < v.toInt.natAbs → s.flag F.biasStatus_COMP_LATCH n = false →
      Runs (.complianceTrip n v) s fun u => u.get F.biasStatus_VSENSE n = v.toNat
        ∧ u.flag F.biasStatus_COMP_LATCH n = true ∧ u.flag F.biasStatus_OL_LATCH n = s.flag F.biasStatus_OL_LATCH n
        ∧ Tripped s u n (max (tripStrength (s.get F.biasConfig_COMP_ACTION n))
          (if s.flag F.biasStatus_OL_LATCH n then tripStrength (s.get F.biasConfig_OL_ACTION n) else 0))) := by
  have e := exec_complianceTrip (n := n) (v := v) h
  obtain ⟨a, ha⟩ : ∃ a, a = s.fresh.put F.biasStatus_VSENSE n v.toNat := ⟨_, rfl⟩
  have oa : Only [.out, .image .biasStatus] s a :=
    ha ▸ State.put_only (by decide) (State.fresh_only (by decide) (Only.refl _ s))
  have hs : a.get F.biasStatus_VSENSE n = v.toNat := ha ▸ State.get_put_of_lt _ _ _ v.isLt
  have hf : ∀ f, Apart F.biasStatus_VSENSE f → a.flag f n = s.flag f n := fun f hf =>
    ha ▸ State.flag_put_other s.fresh hf
  rw [← ha] at e
  clear ha
  refine ⟨fun hc => ⟨a, e.trans (congrArg Host.Outcome.next (if_neg ?_)), hs, oa⟩, fun hb hn => ?_⟩
  · rintro ⟨h1, h2⟩
    rcases hc with hc | hc
    · omega
    · exact absurd (hc.symm.trans h2) (by decide)
  · refine ⟨_, e.trans (congrArg Host.Outcome.next (if_pos ⟨hb, hn⟩)), ?_⟩
    obtain ⟨h1, h2, -, h4⟩ := State.trip_done (s := a) (n := n) (kind := 0) (.inl rfl) rfl State.tripAction_comp.symm
    rw [hf _ (by decide), oa.get (by decide), oa.get (by decide)] at h1
    refine ⟨(h4 _ (by decide) (by decide)).trans hs, h2, ?_, h1.from oa (hf _ (by decide))⟩
    refine (State.flag_of_get (h4 F.biasStatus_OL_LATCH (by decide) (by decide))).trans ?_
    exact hf _ (by decide)

/-- The clause of O50 on OPEN_LOAD_TRIP. -/
theorem openLoadTrip_effects (n : Fin 128) (s : State) :
    (∀ x, (s.biasOf n).openSince = some x → x + 800 ≤ s.clock.now → s.flag F.biasStatus_OL_LATCH n = false →
      Runs (.openLoadTrip n) s fun u => u.flag F.biasStatus_OL_LATCH n = true ∧ (u.biasOf n).openSince = none
        ∧ u.flag F.biasStatus_COMP_LATCH n = s.flag F.biasStatus_COMP_LATCH n
        ∧ Tripped (s.setBias n { s.biasOf n with openSince := none }) u n
          (max (if s.flag F.biasStatus_COMP_LATCH n then tripStrength (s.get F.biasConfig_COMP_ACTION n) else 0)
            (tripStrength (s.get F.biasConfig_OL_ACTION n))))
    ∧ ((s.flag F.biasStatus_OL_LATCH n = true ∨ ∀ x, (s.biasOf n).openSince = some x → s.clock.now < x + 800) →
      Runs (.openLoadTrip n) s fun u => u = s.fresh) := by
  refine ⟨fun x hx hd hn => ?_, fun h => Runs.stands (congrArg Host.Outcome.next (if_neg fun hc => ?_))⟩
  · have hdue : s.openLoadDue n = true := by
      unfold State.openLoadDue
      rw [hx]
      exact decide_eq_true hd
    refine ⟨_, exec_openLoadTrip.trans (congrArg Host.Outcome.next (if_pos (by rw [hdue, hn]; rfl))), ?_⟩
    obtain ⟨a, ha⟩ : ∃ a, a = s.setBias n { s.biasOf n with openSince := none } := ⟨_, rfl⟩
    have oa : Only [.bias] s a := ha ▸ State.setBias_only (List.Subset.refl _) (Only.refl _ s)
    have hb : (a.biasOf n).openSince = none := by
      rw [ha, State.biasOf_setBias]
    rw [← ha]
    clear ha
    obtain ⟨h1, h2, h3, h4⟩ := State.trip_done (s := a.fresh) (n := n) (kind := 1) (.inr rfl) rfl State.tripAction_openLoad.symm
    rw [show a.fresh.flag F.biasStatus_COMP_LATCH n = s.flag F.biasStatus_COMP_LATCH n from oa.flag (by decide) n,
      show a.fresh.get F.biasConfig_COMP_ACTION n = s.get F.biasConfig_COMP_ACTION n from oa.get (by decide) n,
      show a.fresh.get F.biasConfig_OL_ACTION n = s.get F.biasConfig_OL_ACTION n from oa.get (by decide) n] at h1
    refine ⟨h2, h3.trans hb, ?_, h1.from (State.fresh_only (by decide) (Only.refl _ a)) rfl⟩
    refine (State.flag_of_get (h4 F.biasStatus_COMP_LATCH (by decide) (by decide))).trans ?_
    exact oa.flag (by decide) n
  · simp only [Bool.and_eq_true, Bool.not_eq_true'] at hc
    obtain ⟨hd, hn⟩ := hc
    rcases h with h | h
    · exact absurd (h.symm.trans hn) (by decide)
    · unfold State.openLoadDue at hd
      split at hd
      · next x hx => exact absurd (of_decide_eq_true hd) (Nat.not_le.mpr (h x hx))
      · cases hd

/-- Settles O50: what each row of the bias channels makes of its channel, and what a trip and a seal failure leave beside it. -/
theorem biasEffects : Obligations.BiasEffects := by
  refine ⟨?_, ?_, ?_, ?_, ?_, ?_, fun n v s h => complianceTrip_effects h, openLoadTrip_effects⟩
  · rintro n bad s b o rest key rfl h hd rfl
    refine ⟨biasOpAct_late_dropped h hd bad, biasOpAct_late_holds h hd bad, ?_, ?_, ?_⟩
    · rintro hl rfl
      exact biasOpAct_sealFails h hd hl rfl
    · rintro hl rfl x hx hne
      exact biasOpAct_logs h hd hl rfl hx hne
    · rintro hl rfl hx
      refine ⟨biasOpAct_parked h hd hl hx, biasOpAct_held h hd hl hx, ?_⟩
      rintro hp hb _ rfl
      refine ⟨fun amp ftw phase ha => ⟨fun hf => ?_, fun hf => ?_⟩, fun v ha => ?_, ?_⟩
      · exact biasOpAct_tooFast h hd hl hx hp hb (by rw [ha]; exact decide_eq_true hf)
      · refine biasOpAct_acts h hd hl hx hp hb (by rw [ha]; exact decide_eq_false (Nat.not_lt.mpr hf)) ?_
        unfold Bias.apply Commanded.act
        rw [ha]
        dsimp only
        split <;> rfl
      · refine biasOpAct_acts h hd hl hx hp hb (by rw [ha]; rfl) ?_
        unfold Bias.apply
        rw [ha]
        rfl
      · rintro v len l0 ha rfl
        refine biasOpAct_acts h hd hl hx hp hb (by rw [ha]; rfl) ?_
        unfold Bias.apply
        rw [ha]
        rfl
  · rintro n s r _ rfl h
    refine ⟨fun he => Runs.biasBecomes ?_, fun he => Runs.stands ?_⟩
    · exact (exec_biasRampComplete h).trans (congrArg Host.Outcome.next (if_pos he))
    · exact (exec_biasRampComplete h).trans (congrArg Host.Outcome.next (if_neg (Nat.not_le.mpr he)))
  · rintro n s x f _ rfl h hf
    refine ⟨fun he => Runs.biasBecomes ?_, fun he => Runs.stands ?_⟩
    · exact (exec_sineFadeEnd h hf).trans (congrArg Host.Outcome.next (if_pos he))
    · exact (exec_sineFadeEnd h hf).trans (congrArg Host.Outcome.next (if_neg (Nat.not_le.mpr he)))
  · rintro n s p _ rfl h
    refine ⟨fun hl hr => Runs.biasBecomes ?_, fun hl h0 hw hr ha => ?_, fun hl => Runs.stands ?_⟩
    · refine (exec_parkRampDone h).trans ((congrArg Host.Outcome.next (if_pos hl)).trans
        (congrArg Host.Outcome.next (State.rampEnded_stands ?_)))
      refine hr.imp id fun ⟨k, hk, hkn, hz⟩ => ⟨k, hk, ?_⟩
      rw [State.level_setBias_ne _ _ hkn]
      exact hz
    · refine ⟨_, (exec_parkRampDone h).trans (congrArg Host.Outcome.next (if_pos hl)), State.rampEnded_resets hr fun k hk => ?_⟩
      by_cases hkn : k = n.val
      · rw [hkn]
        exact (State.level_parkedAt s.fresh n (s.biasOf n) p hw).trans h0
      · rw [State.level_setBias_ne _ _ hkn]
        exact ha k hk
    · exact (exec_parkRampDone h).trans (congrArg Host.Outcome.next (if_neg hl))
  · refine fun i s => ⟨fun hl ho ha => ?_, fun h => Runs.stands (exec_parkOscHandback_stands h)⟩
    obtain ⟨h1, h2, h3⟩ := s.fresh.setBias_each Bias.settle (biasOfIsland_nodup i) rfl
    exact ⟨_, exec_parkOscHandback_hands hl ho ha, fun n hn => h1 n (mem_biasOfIsland.mpr hn),
      fun n hn => h2 n (fun h => hn (mem_biasOfIsland.mp h)),
      (State.fresh_only (by decide) (Only.refl _ s)).trans (h3.mono (by decide))⟩
  · refine fun s => ⟨fun hm => ?_, fun hm => Runs.stands (congrArg Host.Outcome.next (if_pos hm))⟩
    obtain ⟨h1, -, h3⟩ := s.fresh.setBias_each (fun b => { b with sink := true }) List.nodup_range rfl
    exact ⟨_, congrArg Host.Outcome.next (if_neg hm), fun n hn => h1 n (List.mem_range.mpr hn),
      (State.fresh_only (by decide) (Only.refl _ s)).trans (h3.mono (by decide))⟩

end Sys2Proof
end

section
namespace Sys2Proof
open Machine
namespace Machine

/-! ### FRAME updates that act (R61, R64 to R66) -/

/-- The update at the front of a tone's list is taken from it. -/
def State.takeUpdate (s : State) (k : Nat) : State :=
  s.setTone k { s.tone k with updates := (s.tone k).updates.drop 1 }

theorem State.takeUpdate_tone {s : State} {k : Nat} {x : FrameUpdate} {rest : List FrameUpdate}
    (h : (s.tone k).updates = x :: rest) : (s.takeUpdate k).tone k = { s.tone k with updates := rest } := by
  unfold State.takeUpdate
  rw [State.tone_setTone, h]
  rfl

theorem State.takeUpdate_only (s : State) (k : Nat) : Only [.drive] s (s.takeUpdate k) :=
  State.setTone_only (List.Subset.refl _) (Only.refl _ s)

theorem exec_frameUpdateApply {t : Fin 16} {probe : Bool} {n : Fin 16} {s : State} {x : FrameUpdate}
    {rest : List FrameUpdate} (h : (s.tone (toneKey t probe n)).updates = x :: rest) :
    exec (.frameUpdateApply t probe n) s = .next (if x.due < s.si + 16 then s.fresh.applyFrame t probe n x else s.fresh) := by
  change execFrameUpdateApply t probe n s = _
  unfold execFrameUpdateApply
  dsimp only
  rw [show (s.fresh.tone (toneKey t probe n)).updates = x :: rest from h]
  rfl

theorem State.applyFrame_refused {s : State} {t u : Nat} {probe : Bool} {x : FrameUpdate} (hf : x.setFreq = true)
    (he : s.toneEnabled t probe u = true) (hb : inBand probe (s.mixMode t u) (bits x.ext 0 48) = false) :
    s.applyFrame t probe u x = (s.takeUpdate (toneKey t probe u)).freqRange t := by
  unfold State.applyFrame
  extract_lets k tone p v
  have hc : (x.setFreq && v.toneEnabled t probe u && !inBand probe (v.mixMode t u) (bits x.ext 0 48)) = true := by
    rw [hf, show v.toneEnabled t probe u = true from he,
      show inBand probe (v.mixMode t u) (bits x.ext 0 48) = false from hb]
    rfl
  exact if_pos hc

theorem State.applyFrame_acts {s : State} {t u : Nat} {probe : Bool} {x : FrameUpdate} (h : x.setFreq = false ∨
    s.toneEnabled t probe u = false ∨ inBand probe (s.mixMode t u) (bits x.ext 0 48) = true) :
    s.applyFrame t probe u x = (s.takeUpdate (toneKey t probe u)).addSeg (toneKey t probe u)
      (((s.tone (toneKey t probe u)).segAt (s.toneFtw t probe u) (s.toneFrame t probe u) x.due).update x) := by
  unfold State.applyFrame
  extract_lets k tone p v
  have hc : ¬ (x.setFreq && v.toneEnabled t probe u && !inBand probe (v.mixMode t u) (bits x.ext 0 48)) = true := by
    rw [show v.toneEnabled t probe u = s.toneEnabled t probe u from rfl,
      show inBand probe (v.mixMode t u) (bits x.ext 0 48) = inBand probe (s.mixMode t u) (bits x.ext 0 48) from rfl]
    rcases h with h | h | h <;> rw [h] <;> simp
  exact if_neg hc

/-- A tone takes a new segment of phase behind those that are still needed. -/
theorem State.addSeg_tone (s : State) (k : Nat) (p : PhaseSeg) : (s.addSeg k p).tone k =
      { s.tone k with segs := keepSegs s.si (s.tone k).segs ++ [p] }
    ∧ ∀ j, j ≠ k → (s.addSeg k p).tone j = s.tone j :=
  ⟨State.tone_setTone _ _ _, fun _ hj => State.tone_setTone_ne _ _ hj⟩

/-- The phase after an update, case by case (R64 to R66). -/
theorem PhaseSeg.update_done (p : PhaseSeg) (x : FrameUpdate) {q : PhaseSeg} (hq : q = p.update x) : q.start = x.due
    ∧ q.before = (if p.start < x.due then p.accAt (x.due - 1) else p.before)
    ∧ (x.setFreq = false → q.ftw = p.ftw ∧ q.acc = p.accAt x.due
      ∧ q.frame = ((if x.setFrame then 0 else p.frame) + bits x.ext 0 32) % 2 ^ 32)
    ∧ (x.setFreq = true → q.ftw = bits x.ext 0 48
      ∧ q.acc = (if x.absolute then q.ftw * x.due else q.before + q.ftw) % 2 ^ 48
      ∧ q.frame = ((if x.setFrame then 0 else p.frame) + bits x.ext 48 16 * 2 ^ 16) % 2 ^ 32) := by
  subst hq
  unfold PhaseSeg.update PhaseSeg.lastAcc
  cases x.setFreq <;> cases x.setFrame <;> cases x.absolute <;> simp

/-! ### Bursts (R34, R38, R231) -/

/-- A burst of `m` samples of a tone's grid. -/
def State.burstOf (s : State) (t : Nat) (x : Tone) (g : Grid) (m : Nat) (usable : Option Nat) : Burst :=
  let mine := x.units.filter fun p => p.grid = g.at16
  { due := g.origin + 32 * g.next, frac := g.frac, usable
    blocks := (List.range m).map fun i => blocksOf mine (g.next + i)
    samples := ((List.range m).map fun i => s.gridSample t mine (g.next + i)).map Prod.fst }

/-- What a burst of `m` samples makes of its tone. -/
def Tone.issue (x : Tone) (si m : Nat) (g : Grid) (b : Burst) : Tone :=
  { x with
    bursts := ((x.bursts.filter fun b => si < b.due + 32 * b.samples.length + 192).map fun o => o.cutAt b) ++ [b]
    grids := x.grids.map fun h => if h.at16 = g.at16 then { h with next := g.next + m } else h
    units := x.units.filter fun p => p.grid ≠ g.at16 || g.next + m < p.start + p.length }

/-- A burst that is issued changes its tone, and counts. -/
theorem State.issueBurst_split (s : State) (t : Nat) (probe : Bool) (u : Nat) (g : Grid) (transit : Nat) {x : Tone} {m : Nat}
    (hx : x = s.tone (toneKey t probe u)) (hm : m = min 32 (g.stop - g.next)) {w : State}
    (hw : w = (s.cross t t s.si transit).2.setTone (toneKey t probe u)
      (x.issue s.si m g (s.burstOf t x g m (s.cross t t s.si transit).1))) :
    Only [.memory, .image .probeStatus, .image .xyStatus, .image .lateStatus] w (s.issueBurst t probe u g transit) := by
  subst hw hx hm
  unfold State.issueBurst
  have hsi : (s.cross t t s.si transit).2.si = s.si :=
    si_of_only (State.cross_only (List.Subset.refl _) (Only.refl _ s)) (by decide)
  generalize s.cross t t s.si transit = y at *
  obtain ⟨usable, v⟩ := y
  rw [← hsi]
  exact State.noteArrival_only (by decide) (State.countEnvSat_only (by decide) (State.askRows_only (by decide) (Only.refl _ _)))

/-- What an issued burst leaves of the tones. -/
theorem State.issueBurst_done (s : State) (t : Nat) (probe : Bool) (u : Nat) (g : Grid) (transit : Nat) {x : Tone} {m : Nat}
    (hx : x = s.tone (toneKey t probe u)) (hm : m = min 32 (g.stop - g.next)) {v : State}
    (hv : v = s.issueBurst t probe u g transit) :
    v.tone (toneKey t probe u) = x.issue s.si m g (s.burstOf t x g m (if s.linkTrained t then
        some (max (s.si + 16 * transit) (s.drive.arrived.read 0 t)) else none))
      ∧ ∀ j, j ≠ toneKey t probe u → v.tone j = s.tone j := by
  have o := s.issueBurst_split t probe u g transit hx hm rfl
  obtain ⟨c1, c2⟩ := s.cross_done t t s.si transit
  rw [← hv, c1] at o
  refine ⟨(tone_of_only o (by decide) _).trans (State.tone_setTone _ _ _), fun j hj => ?_⟩
  rw [tone_of_only o (by decide), State.tone_setTone_ne _ _ hj]
  unfold State.cross
  split <;> rfl

theorem exec_burstIssue {t : Fin 16} {probe : Bool} {n : Fin 16} {transit : Fin 29} {s : State} {g : Grid}
    (h : (s.tone (toneKey t probe n)).issuing = some g) {held : List Burst} {mine : List Pulse} {m : Nat}
    (hm : m = min 32 (g.stop - g.next))
    (hh : held = (s.tone (toneKey t probe n)).bursts.filter (fun b => s.si < b.due + 32 * b.samples.length))
    (hi : mine = (s.tone (toneKey t probe n)).units.filter (fun p => p.grid = g.at16)) :
    exec (.burstIssue t probe n transit) s = .next (if g.origin + 32 * g.next ≤ s.si + 16 * 256 ∧ held.length < 4
      ∧ rowsRead mine g.next m s.half = true then s.fresh.issueBurst t probe n g transit else s.fresh) := by
  subst hm hh hi
  change execBurstIssue t probe n transit s = _
  unfold execBurstIssue
  dsimp only
  rw [show (s.fresh.tone (toneKey t probe n)).issuing = some g from h]
  refine congrArg Host.Outcome.next (ite_congr ?_ (fun _ => rfl) (fun _ => rfl))
  simp only [Bool.and_eq_true, decide_eq_true_eq, and_assoc]
  rfl

/-! ### The power mute (R81) -/

theorem State.mute_done (s : State) (n : Nat) : (s.mute n).flag F.xyStatus_MUTED n = true ∧ Raised s (s.mute n) (640 + n) 0 0
    ∧ Reported s (s.mute n) 15 ∧ ShotVoided s (s.mute n) (n / 4) ∧ (s.mute n).drive = s.drive := by
  obtain ⟨a, ha⟩ : ∃ a, a = s.putFlag F.xyStatus_MUTED n true := ⟨_, rfl⟩
  have oa : Only [.image .xyStatus] s a := ha ▸ State.putFlag_only (by decide) (Only.refl _ s)
  have hf : a.flag F.xyStatus_MUTED n = true := ha ▸ State.flag_putFlag _ _ _ _ (by decide)
  obtain ⟨b, hb⟩ : ∃ b, b = (a.raise (640 + n)).report 15 false (640 + n) n := ⟨_, rfl⟩
  have ob : Only [.out, .hatband, .log, .image .logStatus] a b :=
    hb ▸ State.report_only (by decide) (State.raise_only (by decide) (Only.refl _ a))
  have hR : Raised s b (640 + n) 0 0 := hb ▸ (Raised.raise (s := s) (t := a) _ _ _).grow (Grows.report _ _ _ _ _ _)
  have hP : Reported s b 15 := hb ▸ Reported.report _ _ _ _ _ (congrArg Log.counters (oa .log (by decide)))
  have e : s.mute n = b.voidShot (n / 4) := by
    rw [hb, ha]
    rfl
  have ov : Only [.runs, .image .runStatus, .acq] b (s.mute n) := e ▸ State.voidShot_only (List.Subset.refl _) (Only.refl _ b)
  have o : Only [.image .xyStatus, .out, .hatband, .log, .image .logStatus] s b :=
    (oa.mono (by decide)).trans (ob.mono (by decide))
  refine ⟨?_, hR.grow (Grows.of_only ov (by decide) (by decide)), hP.only ov (by decide), ?_, ?_⟩
  · rw [ov.flag (by decide), ob.flag (by decide), hf]
  · exact e ▸ ShotVoided.of_only o (by decide) _
  · rw [ov .drive (by decide), o .drive (by decide)]

theorem exec_powerMute (n : Fin 64) (s : State) : exec (.powerMute n) s = .next (if s.get F.xyConfig_POWER_LIMIT n ≠ 0
    ∧ (s.powerOf n).exceeds (s.get F.xyConfig_POWER_LIMIT n) = true ∧ s.flag F.xyStatus_MUTED n = false
    then s.fresh.mute n else s.fresh) := by
  change execPowerMute n s = _
  unfold execPowerMute
  dsimp only
  refine congrArg Host.Outcome.next (ite_congr ?_ (fun _ => rfl) (fun _ => rfl))
  simp only [Bool.and_eq_true, Bool.not_eq_true', decide_eq_true_eq, and_assoc]
  rfl

end Machine

/-- The clause of O51 on FRAME_UPDATE_APPLY. -/
theorem frameUpdateApply_effects {t : Fin 16} {probe : Bool} {n : Fin 16} {s : State} {x : FrameUpdate}
    {rest : List FrameUpdate} {k : Nat} {p : PhaseSeg} (hk : k = toneKey t probe n) (h : (s.tone k).updates = x :: rest)
    (hp : p = (s.tone k).segAt (s.toneFtw t probe n) (s.toneFrame t probe n) x.due) :
    (x.due < s.si + 16 →
      (x.setFreq = true → s.toneEnabled t probe n = true → inBand probe (s.mixMode t n) (bits x.ext 0 48) = false →
        Runs (.frameUpdateApply t probe n) s fun u => Raised s u (seqSource t 2) 0 0 ∧ Reported s u 19
          ∧ ShotVoided s u t ∧ u.tone k = { s.tone k with updates := rest } ∧ ∀ j, j ≠ k → u.tone j = s.tone j)
      ∧ ((x.setFreq = false ∨ s.toneEnabled t probe n = false ∨ inBand probe (s.mixMode t n) (bits x.ext 0 48) = true) →
        Runs (.frameUpdateApply t probe n) s fun u => ∃ q : PhaseSeg,
          u.tone k = { s.tone k with updates := rest, segs := keepSegs s.si (s.tone k).segs ++ [q] } ∧ q.start = x.due
          ∧ q.before = (if p.start < x.due then p.accAt (x.due - 1) else p.before)
          ∧ (x.setFreq = false → q.ftw = p.ftw ∧ q.acc = p.accAt x.due
            ∧ q.frame = ((if x.setFrame then 0 else p.frame) + bits x.ext 0 32) % 2 ^ 32)
          ∧ (x.setFreq = true → q.ftw = bits x.ext 0 48
            ∧ q.acc = (if x.absolute then q.ftw * x.due else q.before + q.ftw) % 2 ^ 48
            ∧ q.frame = ((if x.setFrame then 0 else p.frame) + bits x.ext 48 16 * 2 ^ 16) % 2 ^ 32)
          ∧ (∀ j, j ≠ k → u.tone j = s.tone j) ∧ Only [.out, .drive] s u))
    ∧ (s.si + 16 ≤ x.due → Runs (.frameUpdateApply t probe n) s fun u => u = s.fresh) := by
  subst hk hp
  obtain ⟨v, hv⟩ : ∃ v, v = s.fresh.takeUpdate (toneKey t probe n) := ⟨_, rfl⟩
  have ov : Only [.out, .drive] s v :=
    hv ▸ (State.fresh_only (by decide) (Only.refl _ s)).trans ((s.fresh.takeUpdate_only _).mono (by decide))
  have hk : v.tone (toneKey t probe n) = { s.tone (toneKey t probe n) with updates := rest } :=
    hv ▸ State.takeUpdate_tone (s := s.fresh) h
  have hj : ∀ j, j ≠ toneKey t probe n → v.tone j = s.tone j := fun j hj => hv ▸ State.tone_setTone_ne _ _ hj
  have e := exec_frameUpdateApply h
  refine ⟨fun hd => ⟨fun hf he hb => ?_, fun hc => ?_⟩,
    fun hd => Runs.stands (e.trans (congrArg Host.Outcome.next (if_neg (Nat.not_lt.mpr hd))))⟩
  · rw [if_pos hd, State.applyFrame_refused (s := s.fresh) hf he hb, ← hv] at e
    have of := State.freqRange_only (t := t) (List.Subset.refl _) (Only.refl _ v)
    obtain ⟨h1, h2, h3⟩ := v.freqRange_done t
    exact ⟨_, e, h1, h2.from ov (by decide), h3.from ov (by decide), (tone_of_only of (by decide) _).trans hk,
      fun j h => (tone_of_only of (by decide) j).trans (hj j h)⟩
  · rw [if_pos hd, State.applyFrame_acts (s := s.fresh) hc, ← hv] at e
    obtain ⟨q, hq⟩ : ∃ q, q = ((s.fresh.tone (toneKey t probe n)).segAt (s.fresh.toneFtw t probe n)
      (s.fresh.toneFrame t probe n) x.due).update x := ⟨_, rfl⟩
    rw [← hq] at e
    obtain ⟨h1, h2⟩ := v.addSeg_tone (toneKey t probe n) q
    obtain ⟨q1, q2, q3, q4⟩ := PhaseSeg.update_done _ x hq
    refine ⟨_, e, q, ?_, q1, q2, q3, q4, fun j h => (h2 j h).trans (hj j h), State.addSeg_only (by decide) ov⟩
    rw [h1, hk, si_of_only ov (by decide)]

/-- The clause of O51 on BURST_ISSUE. -/
theorem burstIssue_effects {t : Fin 16} {probe : Bool} {n : Fin 16} {transit : Fin 29} {s : State} {g : Grid} {k m : Nat}
    {held : List Burst} {mine : List Pulse} (hk : k = toneKey t probe n) (h : (s.tone k).issuing = some g)
    (hm : m = min 32 (g.stop - g.next))
    (hh : held = (s.tone k).bursts.filter (fun b => s.si < b.due + 32 * b.samples.length))
    (hi : mine = (s.tone k).units.filter (fun p => p.grid = g.at16)) :
    (g.origin + 32 * g.next ≤ s.si + 16 * 256 → held.length < 4 → rowsRead mine g.next m s.half = true →
      Runs (.burstIssue t probe n transit) s fun u =>
      (∃ b : Burst, b ∈ (u.tone k).bursts ∧ (∀ c ∈ held, c.cutAt b ∈ (u.tone k).bursts) ∧ b.due = g.origin + 32 * g.next
        ∧ b.frac = g.frac ∧ b.samples = (List.range m).map (fun i => (s.gridSample t mine (g.next + i)).1)
        ∧ b.usable = if s.linkTrained t then some (max (s.si + 16 * transit) (s.drive.arrived.read 0 t)) else none)
      ∧ (u.tone k).grids = (s.tone k).grids.map (fun h => if h.at16 = g.at16 then { h with next := g.next + m } else h)
      ∧ (u.tone k).units = (s.tone k).units.filter (fun p => p.grid ≠ g.at16 || g.next + m < p.start + p.length)
      ∧ (∀ j, j ≠ k → u.tone j = s.tone j)
      ∧ Only [.out, .drive, .memory, .image .probeStatus, .image .xyStatus, .image .lateStatus] s u)
    ∧ ((s.si + 16 * 256 < g.origin + 32 * g.next ∨ 4 ≤ held.length ∨ rowsRead mine g.next m s.half = false) →
      Runs (.burstIssue t probe n transit) s fun u => u = s.fresh) := by
  subst hk
  have e := exec_burstIssue (transit := transit) h hm hh hi
  refine ⟨fun h1 h2 h3 => ⟨_, e.trans (congrArg Host.Outcome.next (if_pos ⟨h1, h2, h3⟩)), ?_⟩,
    fun hc => Runs.stands (e.trans (congrArg Host.Outcome.next (if_neg ?_)))⟩
  · obtain ⟨v1, v2⟩ := s.fresh.issueBurst_done t probe n g transit rfl hm rfl
    have o : Only [.out, .drive, .memory, .image .probeStatus, .image .xyStatus, .image .lateStatus] s
        (s.fresh.issueBurst t probe n g transit) := State.issueBurst_only (by decide) (State.fresh_only (by decide) (Only.refl _ s))
    generalize s.fresh.issueBurst t probe n g transit = u at *
    rw [v1]
    refine ⟨⟨_, List.mem_append_right _ (List.mem_singleton_self _), fun c hc => ?_, rfl, rfl, ?_, rfl⟩, rfl, rfl, v2, o⟩
    · rw [hh] at hc
      obtain ⟨k1, k2⟩ := List.mem_filter.mp hc
      refine List.mem_append_left _ (List.mem_map_of_mem (List.mem_filter.mpr ⟨k1, decide_eq_true ?_⟩))
      exact Nat.lt_of_lt_of_le (of_decide_eq_true k2) (Nat.le_add_right _ 192)
    · rw [hi]
      exact List.map_map
  · rintro ⟨h1, h2, h3⟩
    rcases hc with hc | hc | hc
    · omega
    · omega
    · exact absurd (hc.symm.trans h3) (by decide)

/-- The clause of O51 on POWER_MUTE. -/
theorem powerMute_effects (n : Fin 64) (s : State) :
    (s.get F.xyConfig_POWER_LIMIT n ≠ 0 → (s.powerOf n).exceeds (s.get F.xyConfig_POWER_LIMIT n) = true →
      s.flag F.xyStatus_MUTED n = false → Runs (.powerMute n) s fun u => u.flag F.xyStatus_MUTED n = true
        ∧ Raised s u (640 + n) 0 0 ∧ Reported s u 15 ∧ ShotVoided s u (n / 4) ∧ u.drive = s.drive)
    ∧ ((s.get F.xyConfig_POWER_LIMIT n = 0 ∨ (s.powerOf n).exceeds (s.get F.xyConfig_POWER_LIMIT n) = false
        ∨ s.flag F.xyStatus_MUTED n = true) →
      Runs (.powerMute n) s fun u => u = s.fresh) := by
  refine ⟨fun h1 h2 h3 => ⟨_, (exec_powerMute n s).trans (congrArg Host.Outcome.next (if_pos ⟨h1, h2, h3⟩)), ?_⟩,
    fun h => Runs.stands ((exec_powerMute n s).trans (congrArg Host.Outcome.next (if_neg ?_)))⟩
  · exact s.fresh.mute_done n
  · rintro ⟨h1, h2, h3⟩
    rcases h with h | h | h
    · exact h1 h
    · exact absurd (h.symm.trans h2) (by decide)
    · exact absurd (h.symm.trans h3) (by decide)

end Sys2Proof
end

section
namespace Sys2Proof
open Machine
namespace Machine

/-! ### What a word depends on (R73, R74) -/

/-- A state with other outputs and another count of free values. -/
def State.aside (s : State) (o : List Output) (f : Nat) : State := { s with out := o, freeCount := f }

/-- A state with other words kept for the matrix rows. -/
def State.withReleased (s : State) (r : SMap (List (Nat × List (Int × Int)))) : State :=
  { s with drive := { s.drive with released := r } }

theorem State.aside_word (s : State) (o : List Output) (f t c : Nat) : (s.aside o f).word t c = s.word t c := rfl

/-! ### The words kept for the matrix rows (R74) -/

/-- The word of tone `k` of a drive channel is kept. -/
def State.keepWord (n : Nat) (s : State) (k : Nat) : State :=
  let u := 4 * (n % 4) + k
  let key := 16 * (n / 4) + u
  s.withReleased (s.drive.released.list key (((s.si, s.sourceWord (n / 4) u) ::
    (s.drive.released.read [] key).filter fun x => x.1 ≠ s.si).take 3))

theorem State.keepReleased_fold (s : State) (n : Nat) : s.keepReleased n = (List.range 4).foldl (State.keepWord n) s := rfl

/-- Words that are kept, tone by tone: each is the newest of its tone, and nothing else changes. -/
theorem State.keepWords_done (n : Nat) : ∀ (l : List Nat) (s : State), l.Nodup → ∃ r, l.foldl (State.keepWord n) s = s.withReleased r
    ∧ (∀ k ∈ l, (r.read [] (16 * (n / 4) + (4 * (n % 4) + k))).head? = some (s.si, s.sourceWord (n / 4) (4 * (n % 4) + k)))
    ∧ ∀ key, (∀ k ∈ l, key ≠ 16 * (n / 4) + (4 * (n % 4) + k)) → r.read [] key = s.drive.released.read [] key
  | [], s, _ => ⟨s.drive.released, rfl, fun _ hk => absurd hk List.not_mem_nil, fun _ _ => rfl⟩
  | k :: l, s, hn => by
    obtain ⟨hk, hl⟩ := List.nodup_cons.mp hn
    obtain ⟨r, h1, h2, h3⟩ := State.keepWords_done n l (State.keepWord n s k) hl
    refine ⟨r, h1, fun j hj => ?_, fun key hkey => ?_⟩
    · rcases List.mem_cons.mp hj with rfl | hj
      · rw [h3 _ fun i hi e => hk (by rw [show j = i by omega]; exact hi)]
        exact congrArg List.head? (SMap.read_list_self s.drive.released [] _ _)
      · exact h2 j hj
    · rw [h3 key fun i hi => hkey i (List.mem_cons_of_mem _ hi)]
      exact SMap.read_list_ne s.drive.released [] _ (hkey k (List.mem_cons_self ..))

theorem State.keepReleased_done (s : State) (n : Nat) : ∃ r, s.keepReleased n = s.withReleased r
    ∧ ∀ k < 4, (r.read [] (16 * (n / 4) + (4 * (n % 4) + k))).head? = some (s.si, s.sourceWord (n / 4) (4 * (n % 4) + k)) := by
  obtain ⟨r, h1, h2, -⟩ := State.keepWords_done n (List.range 4) s List.nodup_range
  exact ⟨r, h1, fun k hk => h2 k (List.mem_range.mpr hk)⟩

theorem State.aside_keepWords (o : List Output) (f n : Nat) : ∀ (l : List Nat) (s : State),
    l.foldl (State.keepWord n) (s.aside o f) = (l.foldl (State.keepWord n) s).aside o f
  | [], _ => rfl
  | k :: l, s => State.aside_keepWords o f n l (State.keepWord n s k)

/-- What a channel releases does not depend on what has been sent, or on the free values drawn. -/
theorem State.aside_keptWord (s : State) (o : List Output) (f n t c : Nat) :
    ((s.aside o f).keepReleased n).word t c = (s.keepReleased n).word t c := by
  rw [State.keepReleased_fold, State.aside_keepWords, State.aside_word]
  rfl

/-! ### Words that are released (R34, R73, R79, R80) -/

theorem State.satAdd_get_zero (s : State) (f : Field) (i : Nat) : satAdd (s.get f i) 0 f.width = s.get f i := by
  have h := s.get_lt f i
  unfold satAdd
  omega

/-- The clip detector of an XY channel (R79). -/
theorem State.clipXy_done (s : State) (n k : Nat) {u : State} (hu : u = s.clipXy n k) :
    u.get F.xyStatus_CLIP_COUNT n = satAdd (s.get F.xyStatus_CLIP_COUNT n) k F.xyStatus_CLIP_COUNT.width
    ∧ (0 < k → u.flag F.xyStatus_CLIP_SEEN n = true ∧ n ∈ u.drive.clipped ∧ (n ∉ s.drive.clipped → Raised s u (640 + n) 0 0))
    ∧ (k = 0 → u.flag F.xyStatus_CLIP_SEEN n = s.flag F.xyStatus_CLIP_SEEN n)
    ∧ u.flag F.xyStatus_MUTED n = s.flag F.xyStatus_MUTED n
    ∧ ({ u.drive with clipped := s.drive.clipped } : Drive) = s.drive := by
  unfold State.clipXy at hu
  split at hu
  · next h =>
    subst hu h
    exact ⟨(State.satAdd_get_zero _ _ _).symm, fun h => absurd h (Nat.lt_irrefl 0), fun _ => rfl, rfl, rfl⟩
  · next h =>
    dsimp only at hu
    obtain ⟨v, hv⟩ : ∃ v, v = (s.count F.xyStatus_CLIP_COUNT n k).putFlag F.xyStatus_CLIP_SEEN n true := ⟨_, rfl⟩
    have h1 : v.get F.xyStatus_CLIP_COUNT n = satAdd (s.get F.xyStatus_CLIP_COUNT n) k F.xyStatus_CLIP_COUNT.width := by
      rw [hv, State.get_putFlag_other _ (by decide), State.get_count]
    have h2 : v.flag F.xyStatus_CLIP_SEEN n = true := hv ▸ State.flag_putFlag _ _ _ _ (by decide)
    have h3 : v.flag F.xyStatus_MUTED n = s.flag F.xyStatus_MUTED n := by
      rw [hv, State.flag_putFlag_other _ (by decide), State.flag_count_other _ (by decide)]
    have hd : v.drive = s.drive := by
      rw [hv, State.putFlag_drive, State.count_drive]
    rw [← hv] at hu
    clear hv
    split at hu
    · next hc =>
      subst hu
      refine ⟨h1, fun _ => ⟨h2, by simpa using hc, fun hn => absurd ?_ hn⟩, fun h0 => absurd h0 h, h3, by rw [hd]⟩
      rw [← hd]
      simpa using hc
    · subst hu
      refine ⟨h1, fun _ => ⟨h2, List.mem_append_right _ (List.mem_singleton_self _), fun _ => Raised.raise _ _ _⟩,
        fun h0 => absurd h0 h, h3, ?_⟩
      rw [← hd]
      rfl

/-- The clip detector of a probe channel (R110). -/
theorem State.clipProbe_done (s : State) (t k : Nat) {u : State} (hu : u = s.clipProbe t k) :
    u.get F.probeStatus_CLIP_COUNT t = satAdd (s.get F.probeStatus_CLIP_COUNT t) k F.probeStatus_CLIP_COUNT.width
    ∧ (0 < k → u.flag F.probeStatus_CLIP_SEEN t = true) := by
  unfold State.clipProbe at hu
  split at hu
  · next h =>
    subst hu h
    exact ⟨(State.satAdd_get_zero _ _ _).symm, fun h => absurd h (Nat.lt_irrefl 0)⟩
  · subst hu
    refine ⟨?_, fun _ => State.flag_putFlag _ _ _ _ (by decide)⟩
    rw [State.get_putFlag_other _ (by decide), State.get_count]

/-- The word of an XY channel is released, its seals being checked. -/
def State.releaseWord (s : State) (n : Fin 64) : State :=
  let s := s.keepReleased n
  let w := s.word (n / 4) (n % 4)
  let sum := (w.map fun x => x.1.natAbs * x.1.natAbs).sum
  let s := s.clipXy n (w.filter Prod.snd).length
  let s := { s with drive := { s.drive with wordPower := s.drive.wordPower.write 0 n sum } }
  s.emit (.samples (.drive n) (w.map Prod.fst))

theorem State.releaseXy_split (s : State) (n : Fin 64) (bad : Bool) :
    s.releaseXy n bad = (s.checkSeal (n / 4) (n % 4) bad).releaseWord n := rfl

/-- The word of a probe channel is released, its seals being checked. -/
def State.releaseProbeWord (s : State) (t : Fin 16) : State :=
  (s.clipProbe t ((s.word t 4).filter Prod.snd).length).emit (.samples (.probe t) ((s.word t 4).map Prod.fst))

theorem State.releaseProbe_split (s : State) (t : Fin 16) (bad : Bool) :
    s.releaseProbe t bad = (s.checkSeal t 4 bad).releaseProbeWord t := rfl

/-- What a released word of an XY channel leaves. -/
theorem State.releaseWord_done (s : State) (n : Fin 64) {w : List (Int × Bool)}
    (hw : w = (s.keepReleased n).word (n / 4) (n % 4)) {u : State} (hu : u = s.releaseWord n) :
    .samples (.drive n) (codesOf w) ∈ u.out
      ∧ u.get F.xyStatus_CLIP_COUNT n = satAdd (s.get F.xyStatus_CLIP_COUNT n) (clippedOf w) F.xyStatus_CLIP_COUNT.width
      ∧ (0 < clippedOf w → u.flag F.xyStatus_CLIP_SEEN n = true ∧ n.val ∈ u.drive.clipped
        ∧ (n.val ∉ s.drive.clipped → Raised s u (640 + n) 0 0))
      ∧ (clippedOf w = 0 → u.flag F.xyStatus_CLIP_SEEN n = s.flag F.xyStatus_CLIP_SEEN n)
      ∧ u.flag F.xyStatus_MUTED n = s.flag F.xyStatus_MUTED n
      ∧ u.drive.wordPower.read 0 n = ((codesOf w).map fun x => x.natAbs * x.natAbs).sum
      ∧ (∀ k < 4, (u.drive.released.read [] (16 * (n / 4) + (4 * (n % 4) + k))).head? =
        some (s.si, s.sourceWord (n / 4) (4 * (n % 4) + k)))
      ∧ u.drive.zeroed = s.drive.zeroed
      ∧ Only [.out, .hatband, .drive, .image .xyStatus] s u := by
  obtain ⟨r, hr, hk⟩ := s.keepReleased_done n
  obtain ⟨a, ha⟩ : ∃ a, a = s.withReleased r := ⟨_, rfl⟩
  rw [hr, ← ha] at hw
  obtain ⟨b, hb⟩ : ∃ b, b = a.clipXy n (clippedOf w) := ⟨_, rfl⟩
  have e : u = ({ b with drive := { b.drive with
      wordPower := b.drive.wordPower.write 0 n (w.map fun x => x.1.natAbs * x.1.natAbs).sum } } : State).emit
        (.samples (.drive n) (codesOf w)) := by
    rw [hu]
    unfold State.releaseWord
    rw [hr, ← ha, hb, hw]
    rfl
  obtain ⟨b1, b2, b3, b4, b5⟩ := a.clipXy_done n _ hb
  have oa : Only [.drive] s a := by
    rw [ha, ← hr]
    exact State.keepReleased_only (List.Subset.refl _) (Only.refl _ s)
  have ob : Only [.out, .hatband, .drive, .image .xyStatus] s b :=
    hb ▸ State.clipXy_only (by decide) (oa.mono (by decide))
  have had : a.drive.clipped = s.drive.clipped ∧ a.drive.zeroed = s.drive.zeroed ∧ a.drive.released = r := by
    rw [ha]
    exact ⟨rfl, rfl, rfl⟩
  obtain ⟨a1, a2, a3⟩ := had
  have hz : b.drive.zeroed = s.drive.zeroed ∧ b.drive.released = r :=
    ⟨(congrArg Drive.zeroed b5).trans a2, (congrArg Drive.released b5).trans a3⟩
  rw [oa.get (by decide)] at b1
  rw [oa.flag (by decide)] at b3 b4
  rw [a1] at b2
  subst e
  refine ⟨List.mem_append_right _ (List.mem_singleton_self _), b1, fun h => ?_, b3, b4, ?_, fun k hk4 => ?_, hz.1, ?_⟩
  · obtain ⟨c1, c2, c3⟩ := b2 h
    exact ⟨c1, c2, fun hn => (c3 hn).grow ⟨fun o ho => List.mem_append_left _ ho, fun e he => he⟩⟩
  · refine (SMap.read_write_self _ _ _ _).trans ?_
    unfold codesOf
    rw [List.map_map]
    rfl
  · rw [← hk k hk4, ← hz.2]
    rfl
  · exact State.emit_only (by decide) (Only.setDrive (by decide) ob)

/-- What a released word of a probe channel leaves. -/
theorem State.releaseProbeWord_done (s : State) (t : Fin 16) {w : List (Int × Bool)} (hw : w = s.word t 4) {u : State}
    (hu : u = s.releaseProbeWord t) : .samples (.probe t) (codesOf w) ∈ u.out
      ∧ u.get F.probeStatus_CLIP_COUNT t =
        satAdd (s.get F.probeStatus_CLIP_COUNT t) (clippedOf w) F.probeStatus_CLIP_COUNT.width
      ∧ (0 < clippedOf w → u.flag F.probeStatus_CLIP_SEEN t = true) ∧ Only [.out, .image .probeStatus] s u := by
  subst hw
  obtain ⟨a, ha⟩ : ∃ a, a = s.clipProbe t (clippedOf (s.word t 4)) := ⟨_, rfl⟩
  obtain ⟨a1, a2⟩ := s.clipProbe_done t _ ha
  have e : u = a.emit (.samples (.probe t) (codesOf (s.word t 4))) := by
    rw [hu, ha]
    rfl
  have oa : Only [.out, .image .probeStatus] s a := ha ▸ State.clipProbe_only (by decide) (Only.refl _ s)
  subst e
  exact ⟨List.mem_append_right _ (List.mem_singleton_self _), a1, a2, State.emit_only (by decide) oa⟩

/-! ### Seal checks at the RF island (R23, R25) -/

theorem State.checkSeal_nil {s : State} {t c : Nat} (h : s.blocksBegun t c = []) (bad : Bool) :
    ∃ f, s.checkSeal t c bad = s.aside s.out f := by
  unfold State.checkSeal
  rw [h]
  cases bad
  · exact ⟨s.freeCount, rfl⟩
  · exact ⟨s.freeCount + 1, rfl⟩

theorem State.checkSeal_passes {s : State} {t c blk y : Nat} (h : s.blocksBegun t c = [(blk, y)]) :
    s.checkSeal t c false = s.sealPass t blk blk := by
  unfold State.checkSeal
  rw [h]
  rfl

theorem State.checkSeal_fails {s : State} {t c blk y : Nat} (h : s.blocksBegun t c = [(blk, y)]) :
    s.checkSeal t c true = (s.aside s.out (s.freeCount + 1)).sealFail t c blk y := by
  unfold State.checkSeal
  rw [h]
  have e : ∀ v : BitVec 64, [(blk, y)][v.toNat % max 1 [(blk, y)].length]? = some (blk, y) := fun v => by
    simp [Nat.mod_one]
  simp only [if_true, e]
  rfl

/-- A channel outputs zero from then on. -/
theorem State.zeroChannel_zeroed {s : State} {ch : Nat} {c : ZeroCause} (since : Nat)
    (h : ∀ z ∈ s.drive.zeroed, ¬(z.1 = ch ∧ z.2.1 = c)) : (ch, c, since) ∈ (s.zeroChannel ch c since).drive.zeroed := by
  have hn : ¬ (s.drive.zeroed.any fun z => z.1 = ch && z.2.1 = c) = true := by
    rw [List.any_eq_true]
    rintro ⟨z, hz, hc⟩
    exact h z hz (by simpa using hc)
  unfold State.zeroChannel
  rw [if_neg hn]
  exact List.mem_append_right _ (List.mem_singleton_self _)

/-- The channel key of a channel of a tile. -/
def channelKey (t c : Nat) : Nat := if c = 4 then 64 + t else 4 * t + c

/-- What a block that fails its seal leaves (R23, R25, R26). -/
theorem State.sealFail_done (s : State) (t c blk y : Nat) {u : State} (hu : u = s.sealFail t c blk y) :
    ((∀ z ∈ s.drive.zeroed, ¬(z.1 = channelKey t c ∧ z.2.1 = .badSeal)) →
      (channelKey t c, ZeroCause.badSeal, y) ∈ u.drive.zeroed)
    ∧ ShotVoided s u t
    ∧ ((s.tile t).suspected blk = none → (u.tile t).suspected blk = some (s.tile t).base)
    ∧ (∀ z, (s.tile t).suspected blk = some z → z ≠ (s.tile t).base → Reported s u 2 ∧ (u.tile t).suspected blk = none
      ∧ (u.segment t (s.get F.runStatus_SEG_ID t)).resident = false)
    ∧ ((s.tile t).suspected blk = some (s.tile t).base → (u.tile t).suspected blk = some (s.tile t).base ∧ u.log = s.log) := by
  obtain ⟨a, ha⟩ : ∃ a, a = s.zeroChannel (channelKey t c) .badSeal y := ⟨_, rfl⟩
  have oa : Only [.drive] s a := ha ▸ State.zeroChannel_only (List.Subset.refl _) (Only.refl _ s)
  have hz : (∀ z ∈ s.drive.zeroed, ¬(z.1 = channelKey t c ∧ z.2.1 = .badSeal)) →
      (channelKey t c, ZeroCause.badSeal, y) ∈ a.drive.zeroed := fun h => ha ▸ State.zeroChannel_zeroed y h
  obtain ⟨v, hv⟩ : ∃ v, v = a.voidShot t := ⟨_, rfl⟩
  have ov : Only [.runs, .image .runStatus, .acq] a v := hv ▸ State.voidShot_only (List.Subset.refl _) (Only.refl _ a)
  have hvoid : ShotVoided s v t := hv ▸ ShotVoided.of_only oa (by decide) t
  have hs : (v.tile t).suspected blk = (s.tile t).suspected blk ∧ (v.tile t).base = (s.tile t).base := by
    rw [hv, (a.voidShot_suspected _ _ _).1, (a.voidShot_suspected _ _ blk).2, tile_of_only oa (by decide)]
    exact ⟨rfl, rfl⟩
  have e : u = v.sealFault t blk (s.get F.runStatus_SEG_ID t) blk := by
    rw [hu, hv, ha]
    rfl
  clear hv ha
  have osv : Only [.drive, .runs, .image .runStatus, .acq] s v := (oa.mono (by decide)).trans (ov.mono (by decide))
  obtain ⟨f1, f2⟩ := v.sealFault_done t blk (s.get F.runStatus_SEG_ID t) blk e
  rw [hs.1, hs.2] at f1 f2
  refine ⟨fun h => ?_, ?_, f1, fun z hz hne => ?_, fun h => ?_⟩
  · have ou : Only [.runs, .loaded, .log, .image .logStatus, .out, .hatband] v u :=
      e ▸ State.sealFault_only (List.Subset.refl _) (Only.refl _ v)
    rw [ou .drive (by decide), ov .drive (by decide)]
    exact hz h
  · exact e ▸ hvoid.sealFault _ _ _ _
  · obtain ⟨g1, g2, g3⟩ := f2 z hz hne
    exact ⟨g1.from osv (by decide), g2, g3⟩
  · rw [State.sealFault_same (by rw [hs.1, hs.2]; exact h)] at e
    rw [e, hs.1]
    exact ⟨h, osv .log (by decide)⟩

end Machine
end Sys2Proof
end

section
namespace Sys2Proof
open Machine
namespace Machine

/-! ### A channel's word and its tile (R73) -/

/-- The channel `ch` is channel `c` of tile `t`, and `x` is its key. -/
def IsChannel (t : Fin 16) (c : Nat) (ch : Channel) (x : Nat) : Prop :=
  (c = 4 ∧ ch = .probe t ∧ x = 64 + t) ∨ ∃ n : Fin 64, ch = .drive n ∧ t.val = n / 4 ∧ c = n % 4 ∧ x = n

theorem IsChannel.key {t : Fin 16} {c : Nat} {ch : Channel} {x : Nat} (h : IsChannel t c ch x) : channelKey t c = x := by
  unfold channelKey
  rcases h with ⟨rfl, -, rfl⟩ | ⟨n, -, h1, rfl, rfl⟩
  · exact if_pos rfl
  · rw [if_neg (by omega), h1]
    omega

theorem State.codesOf_word_length (s : State) (t c : Nat) : (codesOf (s.word t c)).length = 16 := by
  unfold codesOf State.word
  simp

/-- A channel outputs zero at a sample for which it is silent. -/
theorem State.codesOf_word_silent {s : State} {t c i : Nat} (hi : i < 16) (h : s.silent (channelKey t c) (s.si + i) = true) :
    (codesOf (s.word t c))[i]? = some 0 := by
  unfold codesOf State.word
  rw [List.getElem?_map, List.getElem?_map, List.getElem?_range hi]
  exact congrArg (fun x : Int × Bool => some x.1) (if_pos h)

theorem State.silent_of_zeroed {s : State} {ch x y : Nat} {c : ZeroCause} (h : (ch, c, y) ∈ s.drive.zeroed) (hy : y ≤ x) :
    s.silent ch x = true := by
  have h1 : (s.drive.zeroed.any fun z => z.1 = ch && z.2.2 ≤ x) = true :=
    List.any_eq_true.mpr ⟨_, h, by simpa using hy⟩
  unfold State.silent
  rw [h1]
  rfl

theorem State.aside_only (s : State) (o : List Output) (f : Nat) : Only [.out, .free] s (s.aside o f) :=
  Only.setFree (s := { s with out := o }) (by decide) (Only.setOut (by decide) (Only.refl _ s))

theorem exec_sampleRelease_drive {n : Fin 64} {bad : Bool} {s : State} (h : s.flag F.gridStatus_PLL_LOCK = true) :
    exec (.sampleRelease (.drive n) bad) s = .next ((s.fresh.checkSeal (n / 4) (n % 4) bad).releaseWord n) :=
  congrArg Host.Outcome.next ((if_pos h).trans (s.fresh.releaseXy_split n bad))

theorem exec_sampleRelease_probe {t : Fin 16} {bad : Bool} {s : State} (h : s.flag F.gridStatus_PLL_LOCK = true) :
    exec (.sampleRelease (.probe t) bad) s = .next ((s.fresh.checkSeal t 4 bad).releaseProbeWord t) :=
  congrArg Host.Outcome.next ((if_pos h).trans (s.fresh.releaseProbe_split t bad))

/-- A word that is released after the seals have been checked, which left `a`. -/
structure WordReleased (a u : State) (ch : Channel) (x : Nat) : Prop where
  samples : ∃ l, .samples ch l ∈ u.out ∧ l.length = 16 ∧ ∀ i < 16, a.silent x (a.si + i) = true → l[i]? = some 0
  zeroed : u.drive.zeroed = a.drive.zeroed
  only : Only [.out, .hatband, .drive, .image .xyStatus, .image .probeStatus] a u

/-- Each word is released after its seal check. -/
theorem exec_sampleRelease {t : Fin 16} {c : Nat} {ch : Channel} {x : Nat} {s : State} (hc : IsChannel t c ch x)
    (h : s.flag F.gridStatus_PLL_LOCK = true) (bad : Bool) {a : State} (ha : a = s.fresh.checkSeal t c bad) :
    ∃ u, exec (.sampleRelease ch bad) s = .next u ∧ WordReleased a u ch x := by
  have hk := hc.key
  rcases hc with ⟨rfl, rfl, rfl⟩ | ⟨n, rfl, ht, rfl, rfl⟩
  · obtain ⟨h1, -, -, h4⟩ := a.releaseProbeWord_done t rfl rfl
    refine ⟨a.releaseProbeWord t, ?_, ⟨_, h1, a.codesOf_word_length _ _, fun i hi hs => ?_⟩, ?_, h4.mono (by decide)⟩
    · rw [exec_sampleRelease_probe h, ha]
    · exact State.codesOf_word_silent hi (by rw [hk]; exact hs)
    · rw [h4 .drive (by decide)]
  · obtain ⟨h1, -, -, -, -, -, -, h8, h9⟩ := a.releaseWord_done n rfl rfl
    refine ⟨a.releaseWord n, ?_, ⟨_, h1, State.codesOf_word_length _ _ _, fun i hi hs => ?_⟩, h8, h9.mono (by decide)⟩
    · rw [exec_sampleRelease_drive h, ha, ht]
    · obtain ⟨r, hr, -⟩ := a.keepReleased_done n
      rw [ht] at hk
      refine State.codesOf_word_silent hi ?_
      rw [hk, hr]
      exact hs

end Machine

/-- The clause of O51 on SAMPLE_RELEASE of an XY channel that begins no block. -/
theorem driveRelease_effects {n : Fin 64} {s : State} {w : List (Int × Bool)} (h : s.flag F.gridStatus_PLL_LOCK = true)
    (hw : w = (s.keepReleased n).word (n / 4) (n % 4)) (hb : s.blocksBegun (n / 4) (n % 4) = []) (sealBad : Bool) :
    Runs (.sampleRelease (.drive n) sealBad) s fun u =>
      .samples (.drive n) (codesOf w) ∈ u.out
      ∧ u.get F.xyStatus_CLIP_COUNT n = satAdd (s.get F.xyStatus_CLIP_COUNT n) (clippedOf w) F.xyStatus_CLIP_COUNT.width
      ∧ (0 < clippedOf w → u.flag F.xyStatus_CLIP_SEEN n = true ∧ n.val ∈ u.drive.clipped
        ∧ (n.val ∉ s.drive.clipped → Raised s u (640 + n) 0 0))
      ∧ (clippedOf w = 0 → u.flag F.xyStatus_CLIP_SEEN n = s.flag F.xyStatus_CLIP_SEEN n)
      ∧ u.flag F.xyStatus_MUTED n = s.flag F.xyStatus_MUTED n
      ∧ u.drive.wordPower.read 0 n = ((codesOf w).map fun x => x.natAbs * x.natAbs).sum
      ∧ (∀ k < 4, (u.drive.released.read [] (16 * (n / 4) + (4 * (n % 4) + k))).head? =
        some (s.si, s.sourceWord (n / 4) (4 * (n % 4) + k)))
      ∧ Only [.out, .hatband, .drive, .image .xyStatus, .free] s u := by
  obtain ⟨f, hf⟩ := State.checkSeal_nil (s := s.fresh) hb sealBad
  have e := exec_sampleRelease_drive (n := n) (bad := sealBad) h
  rw [hf] at e
  refine ⟨_, e, ?_⟩
  obtain ⟨h1, h2, h3, h4, h5, h6, h7, -, h9⟩ := (s.fresh.aside s.fresh.out f).releaseWord_done n
    (hw.trans (s.aside_keptWord s.fresh.out f n (n / 4) (n % 4)).symm) rfl
  exact ⟨h1, h2, h3, h4, h5, h6, h7, ((s.aside_only s.fresh.out f).mono (by decide)).trans (h9.mono (by decide))⟩

/-- The clause of O51 on SAMPLE_RELEASE of a probe channel that begins no block. -/
theorem probeRelease_effects {t : Fin 16} {s : State} {w : List (Int × Bool)} (h : s.flag F.gridStatus_PLL_LOCK = true)
    (hw : w = s.word t 4) (hb : s.blocksBegun t 4 = []) (sealBad : Bool) :
    Runs (.sampleRelease (.probe t) sealBad) s fun u => .samples (.probe t) (codesOf w) ∈ u.out
      ∧ u.get F.probeStatus_CLIP_COUNT t = satAdd (s.get F.probeStatus_CLIP_COUNT t) (clippedOf w) F.probeStatus_CLIP_COUNT.width
      ∧ (0 < clippedOf w → u.flag F.probeStatus_CLIP_SEEN t = true) ∧ Only [.out, .image .probeStatus, .free] s u := by
  obtain ⟨f, hf⟩ := State.checkSeal_nil (s := s.fresh) hb sealBad
  have e := exec_sampleRelease_probe (t := t) (bad := sealBad) h
  rw [hf] at e
  obtain ⟨h1, h2, h3, h4⟩ := (s.fresh.aside s.fresh.out f).releaseProbeWord_done t
    (hw.trans (s.aside_word s.fresh.out f t 4).symm) rfl
  exact ⟨_, e, h1, h2, h3, ((s.aside_only s.fresh.out f).mono (by decide)).trans (h4.mono (by decide))⟩

/-- The clause of O51 on a block that fails, or passes, its seal as a channel begins to play it. -/
theorem sealRelease_effects {t : Fin 16} {c : Nat} {ch : Channel} {x blk y : Nat} {s : State}
    (h : s.flag F.gridStatus_PLL_LOCK = true) (hc : IsChannel t c ch x) (hb : s.blocksBegun t c = [(blk, y)]) :
    ((s.tile t).suspected blk = none → (∀ z ∈ s.drive.zeroed, ¬(z.1 = x ∧ z.2.1 = .badSeal)) →
      Runs (.sampleRelease ch true) s fun u => (∃ l, .samples ch l ∈ u.out ∧ l.length = 16
        ∧ ∀ i < 16, y ≤ s.si + i → l[i]? = some 0)
      ∧ (x, ZeroCause.badSeal, y) ∈ u.drive.zeroed ∧ ShotVoided s u t
      ∧ (u.tile t).suspected blk = some (s.tile t).base)
    ∧ (∀ z, (s.tile t).suspected blk = some z → z ≠ (s.tile t).base →
      (Runs (.sampleRelease ch true) s fun u => ShotVoided s u t ∧ Reported s u 2 ∧ (u.tile t).suspected blk = none
        ∧ (u.segment t (s.get F.runStatus_SEG_ID t)).resident = false)
      ∧ Runs (.sampleRelease ch false) s fun u => Reported s u 2 ∧ (u.tile t).suspected blk = none)
    ∧ ((s.tile t).suspected blk = some (s.tile t).base → ∀ bad, Runs (.sampleRelease ch bad) s fun u =>
      (u.tile t).suspected blk = some (s.tile t).base ∧ u.log = s.log) := by
  obtain ⟨a, ha⟩ : ∃ a, a = s.fresh.checkSeal t c true := ⟨_, rfl⟩
  obtain ⟨p, hp⟩ : ∃ p, p = s.fresh.checkSeal t c false := ⟨_, rfl⟩
  obtain ⟨u, eu, ⟨su, zu, ou⟩⟩ := exec_sampleRelease hc h true ha
  obtain ⟨v, ev, ⟨-, -, ov⟩⟩ := exec_sampleRelease hc h false hp
  have hut : ∀ i, u.tile i = a.tile i := fun i => tile_of_only ou (by decide) i
  have hvt : ∀ i, v.tile i = p.tile i := fun i => tile_of_only ov (by decide) i
  rw [State.checkSeal_fails (s := s.fresh) hb] at ha
  rw [State.checkSeal_passes (s := s.fresh) hb] at hp
  have oa : Only [.runs, .loaded, .log, .image .logStatus, .out, .hatband, .image .runStatus, .acq, .drive, .free] s a :=
    ha ▸ State.sealFail_only (by decide) ((s.aside_only s.fresh.out (s.fresh.freeCount + 1)).mono (by decide))
  obtain ⟨f1, f2, f3, f4, f5⟩ := State.sealFail_done _ t c blk y ha
  rw [hc.key] at f1
  refine ⟨fun hs hz => ⟨u, eu, ?_, ?_, ?_, ?_⟩, fun z hs hne => ⟨⟨u, eu, ?_, ?_, ?_, ?_⟩, ⟨v, ev, ?_⟩⟩, fun hs bad => ?_⟩
  · obtain ⟨l, h1, h2, h3⟩ := su
    exact ⟨l, h1, h2, fun i hi hy => h3 i hi (State.silent_of_zeroed (f1 hz) (by rw [si_of_only oa (by decide)]; exact hy))⟩
  · rw [zu]
    exact f1 hz
  · exact ShotVoided.only (s := s) f2 ou (by decide)
  · rw [hut]
    exact f3 hs
  · exact ShotVoided.only (s := s) f2 ou (by decide)
  · exact Reported.only (s := s) (f4 z hs hne).1 ou (by decide)
  · rw [hut]
    exact (f4 z hs hne).2.1
  · rw [segment_of_only ou (by decide)]
    exact (f4 z hs hne).2.2
  · obtain ⟨g1, g2⟩ := State.sealPass_logs (s := s.fresh) hs hne blk
    rw [← hp] at g1 g2
    rw [hvt]
    exact ⟨Reported.only (s := s) g1 ov (by decide), g2⟩
  · cases bad
    · rw [State.sealPass_same (s := s.fresh) hs blk] at hp
      refine ⟨v, ev, show (v.tile t).suspected blk = _ ∧ v.log = s.log from ?_⟩
      rw [hvt, ov .log (by decide), hp]
      exact ⟨hs, rfl⟩
    · refine ⟨u, eu, show (u.tile t).suspected blk = _ ∧ u.log = s.log from ?_⟩
      rw [hut, ou .log (by decide)]
      exact f5 hs

end Sys2Proof
end

section
namespace Sys2Proof
open Machine
namespace Machine

/-! ### Bias words (R88, R99, R105) -/

theorem signed_unsigned {x : Int} (h1 : -2 ^ 15 ≤ x) (h2 : x < 2 ^ 15) : signed (unsigned x 16 % 2 ^ 16) 16 = x := by
  unfold signed unsigned
  split <;> omega

theorem satSigned_range (x : Int) : -2 ^ 15 ≤ satSigned x 16 ∧ satSigned x 16 < 2 ^ 15 := by
  unfold satSigned clampInt
  omega

/-- Whether a channel is grounded depends on its 50 Ω path, its OUT_ENABLE, the mode and the ramps. -/
theorem State.biasGrounded_congr {ps : List Part} {s t : State} {n : Nat} (o : Only ps s t) (hm : Part.mode ∉ ps)
    (hp : Part.power ∉ ps) (hc : Part.image .biasConfig ∉ ps) (hb : (t.biasOf n).sink = (s.biasOf n).sink) :
    t.biasGrounded n = s.biasGrounded n := by
  unfold State.biasGrounded
  rw [hb, o.flag hc, o .mode hm, o .power hp]

theorem State.biasSample_sink (s : State) (n i : Nat) : (s.biasSample n i).2.1.sink = (s.biasOf n).sink := by
  have h : ∀ (q : Bool) (b c : Bias), c.sink = b.sink → (if q then b else c).sink = b.sink := by
    intro q b c hc
    cases q
    · exact hc
    · rfl
  unfold State.biasSample
  exact h _ _ _ rfl

/-! What has been sent out has no part in a sample. -/

theorem State.fresh_commanded (s : State) (n i : Nat) : s.fresh.commanded n i = s.commanded n i := rfl

theorem State.fresh_biasRecord (s : State) (n : Nat) (r : Rec) (p i : Nat) : s.fresh.biasRecord n r p i = s.biasRecord n r p i := rfl

theorem State.fresh_biasSet (s : State) (n i : Nat) : s.fresh.biasSet n i = s.biasSet n i := rfl

theorem State.fresh_biasTrim (s : State) (n : Nat) : s.fresh.biasTrim n = s.biasTrim n := rfl

theorem State.fresh_iirAt (s : State) (n i : Nat) (states : List Int) : s.fresh.iirAt n i states = s.iirAt n i states := by
  unfold State.iirAt
  rw [State.fresh_commanded, State.fresh_biasRecord, State.fresh_biasSet]

theorem State.fresh_iirOn (s : State) (n : Nat) : ∀ (k i : Nat) (states hist : List Int),
    s.fresh.iirOn n i states hist k = s.iirOn n i states hist k
  | 0, _, _, _ => rfl
  | k + 1, i, states, hist => by
    unfold State.iirOn
    rw [State.fresh_iirAt]
    exact State.fresh_iirOn s n k (i + 1) _ _

theorem State.fresh_biasSample (s : State) (n i : Nat) : s.fresh.biasSample n i = s.biasSample n i := by
  unfold State.biasSample
  simp only [State.fresh_commanded, State.fresh_biasRecord, State.fresh_biasSet, State.fresh_biasTrim, State.fresh_iirAt,
    State.fresh_iirOn]
  rfl

/-- A sample is a code of 16 bits. -/
theorem State.biasSample_range (s : State) (n i : Nat) :
    -2 ^ 15 ≤ (s.biasSample n i).1 ∧ (s.biasSample n i).1 < 2 ^ 15 := satSigned_range _

theorem State.timeOpenLoad_sink (s : State) (n : Nat) (code : Int) :
    ((s.timeOpenLoad n code).biasOf n).sink = (s.biasOf n).sink := by
  unfold State.timeOpenLoad
  rw [State.biasOf_setBias]

/-- One bias sample that is released: its code, and what it leaves. -/
theorem State.stepBias_done (s : State) (n i : Nat) {a : Int} {u : State} (h : (a, u) = s.stepBias n i) :
    a = (if s.biasGrounded n then 0 else (s.biasSample n i).1)
      ∧ signed (u.get F.biasStatus_OUTPUT n) 16 = (s.biasSample n i).1
      ∧ u.biasGrounded n = s.biasGrounded n ∧ (∀ k, k ≠ n → u.biasOf k = s.biasOf k)
      ∧ Only [.bias, .image .biasStatus] s u := by
  obtain ⟨b, hb⟩ : ∃ b, b = s.setBias n (s.biasSample n i).2.1 := ⟨_, rfl⟩
  obtain ⟨c, hc⟩ : ∃ c, c = b.put F.biasStatus_OUTPUT n (unsigned (s.biasSample n i).1 16) := ⟨_, rfl⟩
  obtain ⟨d, hd⟩ : ∃ d, d = if (s.biasSample n i).2.2 then c.count F.biasStatus_SAT_COUNT n else c := ⟨_, rfl⟩
  have e : s.stepBias n i = (if d.biasGrounded n then 0 else (s.biasSample n i).1, d.timeOpenLoad n (s.biasSample n i).1) := by
    rw [hd, hc, hb]
    rfl
  rw [e] at h
  obtain ⟨ha, hu⟩ := Prod.mk.inj h
  have ob : Only [.bias] s b := hb ▸ State.setBias_only (List.Subset.refl _) (Only.refl _ s)
  have ocd : Only [.image .biasStatus] b d := by
    rw [hd, hc]
    exact Only.ite (State.count_only (by decide) (State.put_only (by decide) (Only.refl _ b)))
      (State.put_only (by decide) (Only.refl _ b))
  have ou : Only [.bias] d u := hu ▸ State.timeOpenLoad_only (List.Subset.refl _) (Only.refl _ d)
  have od : Only [.bias, .image .biasStatus] s d := (ob.mono (by decide)).trans (ocd.mono (by decide))
  have oau : Only [.bias, .image .biasStatus] s u := od.trans (ou.mono (by decide))
  have hdb : d.biasOf n = (s.biasSample n i).2.1 := by
    rw [biasOf_of_only ocd (by decide), hb, State.biasOf_setBias]
  have hub : (u.biasOf n).sink = (d.biasOf n).sink := by
    rw [hu]
    exact d.timeOpenLoad_sink n _
  have hs : (d.biasOf n).sink = (s.biasOf n).sink := by
    rw [hdb, State.biasSample_sink]
  have hcode : d.get F.biasStatus_OUTPUT n = unsigned (s.biasSample n i).1 16 % 2 ^ 16 := by
    have hcc : c.get F.biasStatus_OUTPUT n = unsigned (s.biasSample n i).1 16 % 2 ^ 16 := hc ▸ State.get_put _ _ _ _
    rw [hd]
    split
    · rw [State.get_count_other _ (by decide), hcc]
    · exact hcc
  refine ⟨?_, ?_, State.biasGrounded_congr oau (by decide) (by decide) (by decide) (hub.trans hs), fun k hk => ?_, oau⟩
  · rw [ha, State.biasGrounded_congr od (by decide) (by decide) (by decide) hs]
  · rw [ou.get (by decide), hcode]
    obtain ⟨h1, h2⟩ := s.biasSample_range n i
    exact signed_unsigned h1 h2
  · rw [hu]
    refine (State.biasOf_setBias_ne d _ hk).trans ?_
    rw [biasOf_of_only ocd (by decide), hb, State.biasOf_setBias_ne _ _ hk]

/-! ### Holds of late operations that begin (R36) -/

theorem Bias.held_sink (b : Bias) (c : HoldCause) (h : Nat) (seg : Option Nat) : (b.held c h seg).sink = b.sink := by
  unfold Bias.held
  split <;> rfl

theorem State.lateHold_sink (s : State) (n : Nat) (o : BiasOp) : ((s.lateHold n o).biasOf n).sink = (s.biasOf n).sink := by
  unfold State.lateHold
  extract_lets b v
  have hv : v.biasOf n = { b with ops := b.ops.filter fun p => p ≠ o } := State.biasOf_setBias _ _ _
  clear_value v
  split
  · rw [hv]
  · rw [(v.holdBias_done n _ _ _ rfl).1, Bias.held_sink, hv]

theorem State.lateHold_ne (s : State) {n k : Nat} (o : BiasOp) (hk : k ≠ n) : (s.lateHold n o).biasOf k = s.biasOf k := by
  cases hd : (s.biasOf n).discards o
  · obtain ⟨-, -, -, -, h⟩ := (s.lateHold_done n o rfl).2 hd
    exact h k hk
  · exact ((s.lateHold_done n o rfl).1 hd).1.2 k hk

theorem State.lateHolds_done (n : Nat) : ∀ (l : List BiasOp) (s : State),
    ((l.foldl (fun s o => s.lateHold n o) s).biasOf n).sink = (s.biasOf n).sink
      ∧ ∀ k, k ≠ n → (l.foldl (fun s o => s.lateHold n o) s).biasOf k = s.biasOf k
  | [], _ => ⟨rfl, fun _ _ => rfl⟩
  | o :: l, s => by
    obtain ⟨h1, h2⟩ := State.lateHolds_done n l (s.lateHold n o)
    exact ⟨h1.trans (s.lateHold_sink n o), fun k hk => (h2 k hk).trans (s.lateHold_ne o hk)⟩

theorem State.beginHolds_of_early {s : State} {n : Nat} (h : ∀ o ∈ (s.biasOf n).ops, o.late = false) : s.beginHolds n = s := by
  unfold State.beginHolds
  rw [List.filter_eq_nil_iff.mpr fun o ho => by rw [h o ho]; simp]
  rfl

end Machine

/-- The clause of O51 on SAMPLE_RELEASE of a bias channel. -/
theorem biasRelease_effects {n : Fin 128} {s : State}
    (h : s.flag F.gridStatus_PLL_LOCK = true ∨ (s.biasOf n).parkOsc.isSome = true) (sealBad : Bool) :
    Runs (.sampleRelease (.bias n) sealBad) s fun u => ∃ a b : Int, u.out = [.samples (.bias n) [a, b]]
      ∧ (s.biasGrounded n = true → a = 0 ∧ b = 0)
      ∧ (s.biasGrounded n = false → b = signed (u.get F.biasStatus_OUTPUT n) 16)
      ∧ (s.biasGrounded n = false → (∀ o ∈ (s.biasOf n).ops, o.late = false) → a = (s.biasSample n 0).1)
      ∧ (∀ k, k ≠ n.val → u.biasOf k = s.biasOf k) ∧ Only [.out, .bias, .image .biasStatus] s u := by
  obtain ⟨v, hv⟩ : ∃ v, v = s.fresh.beginHolds n := ⟨_, rfl⟩
  obtain ⟨p, hp⟩ : ∃ p, p = v.stepBias n 0 := ⟨_, rfl⟩
  obtain ⟨a, x⟩ := p
  obtain ⟨q, hq⟩ : ∃ q, q = x.stepBias n 1 := ⟨_, rfl⟩
  obtain ⟨b, y⟩ := q
  have e : exec (.sampleRelease (.bias n) sealBad) s = .next (y.emit (.samples (.bias n) [a, b])) := by
    have h1 : exec (.sampleRelease (.bias n) sealBad) s = .next (s.fresh.releaseBiasWord n) :=
      congrArg Host.Outcome.next (if_pos ((Bool.or_eq_true _ _).mpr h))
    rw [h1]
    unfold State.releaseBiasWord
    dsimp only
    rw [← hv, ← hp]
    dsimp only
    rw [← hq]
    dsimp only
    split
    · rfl
    · next hn _ => exact absurd n.isLt hn
  have ov : Only [.bias, .image .biasStatus] s.fresh v :=
    hv ▸ State.beginHolds_only (List.Subset.refl _) (Only.refl _ s.fresh)
  obtain ⟨k1, k2⟩ := State.lateHolds_done n ((s.fresh.biasOf n).ops.filter fun o => o.late && o.due < s.fresh.si + 16) s.fresh
  have hg : v.biasGrounded n = s.biasGrounded n :=
    State.biasGrounded_congr (s := s.fresh) ov (by decide) (by decide) (by decide) (by rw [hv]; exact k1)
  have hk : ∀ k, k ≠ n.val → v.biasOf k = s.biasOf k := fun k hk => by
    rw [hv]
    exact k2 k hk
  obtain ⟨a1, -, a3, a4, a5⟩ := v.stepBias_done n 0 hp
  obtain ⟨b1, b2, -, b4, b5⟩ := x.stepBias_done n 1 hq
  have oy : Only [.bias, .image .biasStatus] s.fresh y := (ov.trans a5).trans b5
  rw [a3, hg] at b1
  rw [hg] at a1
  refine ⟨_, e, a, b, ?_, fun hs => ?_, fun hs => ?_, fun hs hl => ?_, fun k hkn => ?_, ?_⟩
  · show y.out ++ [_] = [_]
    rw [oy .out (by decide)]
    rfl
  · rw [a1, b1, hs]
    exact ⟨rfl, rfl⟩
  · rw [hs] at b1
    rw [b1]
    exact b2.symm
  · rw [hs] at a1
    have hvs : v = s.fresh := hv.trans (State.beginHolds_of_early hl)
    rw [a1, hvs, if_neg Bool.false_ne_true]
    exact congrArg Prod.fst (s.fresh_biasSample n 0)
  · exact (b4 k hkn).trans ((a4 k hkn).trans (hk k hkn))
  · exact State.emit_only (by decide) ((State.fresh_only (by decide) (Only.refl _ s)).trans (oy.mono (by decide)))

/-- The clause of O51 on SAMPLE_RELEASE without SCLK. -/
theorem sampleRelease_stands {ch : Channel} {s : State} (h : s.flag F.gridStatus_PLL_LOCK = false)
    (hb : ∀ n, ch = .bias n → (s.biasOf n).parkOsc = none) (sealBad : Bool) :
    Runs (.sampleRelease ch sealBad) s fun u => u = s.fresh := by
  have hn : ¬ s.fresh.flag F.gridStatus_PLL_LOCK = true := ne_true_of_eq_false h
  cases ch with
  | drive n => exact Runs.stands (congrArg Host.Outcome.next (if_neg hn))
  | probe t => exact Runs.stands (congrArg Host.Outcome.next (if_neg hn))
  | bias n =>
    refine Runs.stands (congrArg Host.Outcome.next (if_neg ?_))
    rw [show s.fresh.flag F.gridStatus_PLL_LOCK = false from h, show (s.fresh.biasOf n).parkOsc = none from hb n rfl]
    decide

end Sys2Proof
end

section
namespace Sys2Proof
open Machine
namespace Machine

/-! ### LATE (R35 to R37) -/

/-- The log of a LATE: one entry for each voided shot, and the class counter each time (R36). -/
def State.logLate (s : State) (t ch : Nat) : State :=
  let g := (s.tile t).group.getD 16
  if (s.group g).lateLogged then { s with log := { s.log with counters := s.log.counters.update 0 0 fun n => satAdd n 1 32 } }
  else s.report 0 false (seqSource t 0) (16 * t + ch) (s.group g).seq

/-- The run group of a tile remembers that its shot's LATE has been logged. -/
def State.markLate (s : State) (g : Nat) : State :=
  if g < 16 then s.setGroup g { s.group g with lateLogged := true } else s

/-- The counters of a LATE (R40). -/
def State.countLate (s : State) (t ch : Nat) : State :=
  ((s.count F.lateStatus_LATE_COUNT t).put F.lateStatus_MIN_MARGIN t 0).put F.lateStatus_MIN_MARGIN_CH t ch

theorem State.logLate_done (s : State) (t ch : Nat) {u : State} (hu : u = s.logLate t ch) :
    Reported s u 0 ∧ Grows s u ∧ Only [.log, .image .logStatus, .out, .hatband] s u := by
  unfold State.logLate at hu
  extract_lets g at hu
  split at hu
  · subst hu
    refine ⟨?_, Grows.of_eq rfl rfl, Only.setLog (by decide) (Only.refl _ s)⟩
    exact SMap.read_write_self _ _ _ _
  · subst hu
    exact ⟨Reported.report _ _ _ _ _ rfl, Grows.report _ _ _ _ _ _, State.report_only (by decide) (Only.refl _ s)⟩

/-- The mark leaves the tiles, the shots and the members of the groups. -/
theorem State.markLate_done (s : State) (g : Nat) : (∀ i, (s.markLate g).tile i = s.tile i)
    ∧ (∀ k, ((s.markLate g).group k).inShot = (s.group k).inShot ∧ (s.markLate g).members k = s.members k)
    ∧ Only [.runs] s (s.markLate g) := by
  unfold State.markLate
  split
  · refine ⟨fun _ => rfl, fun k => ⟨?_, State.setGroup_members s (g := g) (x := { s.group g with lateLogged := true }) rfl k⟩, State.setGroup_only (List.Subset.refl _) (Only.refl _ s)⟩
    by_cases e : k = g
    · rw [e, State.group_setGroup]
    · rw [State.group_setGroup_ne _ _ e]
  · exact ⟨fun _ => rfl, fun _ => ⟨rfl, rfl⟩, Only.refl _ s⟩

theorem State.countLate_done (s : State) (t ch : Nat) (hc : ch < 16) {u : State} (hu : u = s.countLate t ch) :
    u.get F.lateStatus_LATE_COUNT t = satAdd (s.get F.lateStatus_LATE_COUNT t) 1 F.lateStatus_LATE_COUNT.width
      ∧ u.get F.lateStatus_MIN_MARGIN t = 0 ∧ u.get F.lateStatus_MIN_MARGIN_CH t = ch ∧ Only [.image .lateStatus] s u := by
  subst hu
  unfold State.countLate
  refine ⟨?_, ?_, ?_, State.put_only (by decide) (State.put_only (by decide) (State.count_only (by decide) (Only.refl _ s)))⟩
  · rw [State.get_put_other _ (by decide), State.get_put_other _ (by decide), State.get_count]
  · rw [State.get_put_other _ (by decide)]
    exact State.get_put_of_lt _ _ _ (by decide)
  · exact State.get_put_of_lt _ _ _ (Nat.lt_of_lt_of_le hc (by decide))

theorem State.noteLate_split (s : State) (t ch : Nat) : s.noteLate t ch =
    ((((s.countLate t ch).raise (seqSource t 0)).logLate t ch).markLate ((s.tile t).group.getD 16)).voidShot t := by
  unfold State.noteLate
  extract_lets a b c g d e
  rfl

/-- What a LATE leaves (R36, R40). -/
theorem State.noteLate_done (s : State) (t ch : Nat) (hc : ch < 16) {u : State} (hu : u = s.noteLate t ch) :
    WentLate s u t ch := by
  rw [State.noteLate_split] at hu
  obtain ⟨a, ha⟩ : ∃ a, a = s.countLate t ch := ⟨_, rfl⟩
  obtain ⟨a1, a2, a3, a4⟩ := s.countLate_done t ch hc ha
  obtain ⟨b, hb⟩ : ∃ b, b = a.raise (seqSource t 0) := ⟨_, rfl⟩
  have hr : Raised s b (seqSource t 0) 0 0 := hb ▸ Raised.raise _ _ _
  have ob : Only [.out, .hatband] a b := hb ▸ State.raise_only (List.Subset.refl _) (Only.refl _ a)
  obtain ⟨c, hc⟩ : ∃ c, c = b.logLate t ch := ⟨_, rfl⟩
  obtain ⟨c1, c2, c3⟩ := b.logLate_done t ch hc
  obtain ⟨d, hd⟩ : ∃ d, d = c.markLate ((s.tile t).group.getD 16) := ⟨_, rfl⟩
  obtain ⟨d1, d2, d3⟩ := c.markLate_done ((s.tile t).group.getD 16)
  rw [← ha, ← hb, ← hc, ← hd] at hu
  rw [← hd] at d1 d2 d3
  have osc : Only [.image .lateStatus, .out, .hatband, .log, .image .logStatus] s c :=
    (a4.mono (by decide)).trans ((ob.mono (by decide)).trans (c3.mono (by decide)))
  have oab : Only [.image .lateStatus, .out, .hatband] s b := (a4.mono (by decide)).trans (ob.mono (by decide))
  have ou : Only [.runs, .image .runStatus, .acq] d u := hu ▸ State.voidShot_only (List.Subset.refl _) (Only.refl _ d)
  have ocu : Only [.runs, .image .runStatus, .acq] c u := (d3.mono (by decide)).trans ou
  have oau : Only [.out, .hatband, .log, .image .logStatus, .runs, .image .runStatus, .acq] a u :=
    (ob.mono (by decide)).trans ((c3.mono (by decide)).trans (ocu.mono (by decide)))
  refine ⟨?_, ?_, ?_, ?_, ?_, ?_⟩
  · rw [oau.get (by decide), a1]
  · rw [oau.get (by decide), a2]
  · rw [oau.get (by decide), a3]
  · exact (hr.grow c2).grow (Grows.of_only ocu (by decide) (by decide))
  · exact (c1.from oab (by decide)).only ocu (by decide)
  · rw [hu]
    refine ShotVoided.of_tiles (fun i => (d1 i).trans (tile_of_only osc (by decide) i)) (fun k => ⟨?_, ?_⟩) t
    · rw [(d2 k).1, group_of_only osc (by decide)]
    · rw [(d2 k).2, State.members_of_only osc (by decide)]

/-- LATE_DETECT of an XY or probe channel. -/
theorem exec_lateDetect {t : Fin 16} {c : Nat} {ch : Channel} {x : Nat} {s : State} (hc : IsChannel t c ch x) :
    exec (.lateDetect ch) s = .next (match s.lateDue t c with
      | some d => s.fresh.lateChannel t c d
      | none => s.fresh) := by
  rcases hc with ⟨rfl, rfl, rfl⟩ | ⟨n, rfl, ht, rfl, rfl⟩
  · rfl
  · rw [ht]
    rfl

theorem exec_lateDetect_bias (n : Fin 128) (s : State) : exec (.lateDetect (.bias n)) s = .next (match s.lateOp n with
      | some o => s.fresh.lateBias n o
      | none => s.fresh) := rfl

theorem IsChannel.lt {t : Fin 16} {c : Nat} {ch : Channel} {x : Nat} (h : IsChannel t c ch x) : c < 16 := by
  rcases h with ⟨rfl, -, -⟩ | ⟨n, -, -, rfl, -⟩
  · decide
  · omega

end Machine

theorem WentLate.from {ps : List Part} {s v u : State} {t ch : Nat} (h : WentLate v u t ch) (o : Only ps s v)
    (hr : Part.runs ∉ ps) (hl : Part.log ∉ ps) (hi : Part.image .lateStatus ∉ ps) : WentLate s u t ch := by
  obtain ⟨h1, h2, h3, h4, h5, h6⟩ := h
  exact ⟨h1.trans (by rw [o.get hi]), h2, h3, h4, h5.from o hl, h6.from o hr⟩

/-- The clause of O51 on LATE_DETECT of an XY or probe channel. -/
theorem lateDetect_effects {t : Fin 16} {c : Nat} {ch : Channel} {x : Nat} {s : State} (hc : IsChannel t c ch x) :
    (∀ d, s.lateDue t c = some d → (∀ z ∈ s.drive.zeroed, ¬(z.1 = x ∧ z.2.1 = .late)) → Runs (.lateDetect ch) s fun u =>
      (x, ZeroCause.late, d) ∈ u.drive.zeroed ∧ WentLate s u t c)
    ∧ ((s.lateDue t c = none ∨ ∃ z ∈ s.drive.zeroed, z.1 = x ∧ z.2.1 = .late) →
      Runs (.lateDetect ch) s fun u => u = s.fresh) := by
  have e := exec_lateDetect (s := s) hc
  have hk := hc.key
  refine ⟨fun d hd hz => ?_, fun h => ?_⟩
  · rw [hd] at e
    obtain ⟨a, ha⟩ : ∃ a, a = s.fresh.zeroChannel x .late d := ⟨_, rfl⟩
    have hm : (x, ZeroCause.late, d) ∈ a.drive.zeroed := ha ▸ State.zeroChannel_zeroed d hz
    have oa : Only [.out, .drive] s a := ha ▸ State.zeroChannel_only (by decide) (State.fresh_only (by decide) (Only.refl _ s))
    have el : s.fresh.lateChannel t c d = a.noteLate t c := by
      rw [ha, ← hk]
      refine if_neg ?_
      rw [List.any_eq_true]
      rintro ⟨z, hz', h⟩
      exact hz z hz' (by simpa [← hk, channelKey] using h)
    have ou : Only [.image .lateStatus, .out, .hatband, .log, .image .logStatus, .runs, .image .runStatus, .acq] a
        (a.noteLate t c) := State.noteLate_only (List.Subset.refl _) (Only.refl _ a)
    refine ⟨_, e, ?_, ?_⟩
    · dsimp only
      rw [el, ou .drive (by decide)]
      exact hm
    · dsimp only
      rw [el]
      exact (a.noteLate_done t c hc.lt rfl).from oa (by decide) (by decide) (by decide)
  · refine Runs.stands (e.trans (congrArg Host.Outcome.next ?_))
    rcases h with h | ⟨z, hz, h⟩
    · rw [h]
    · split
      · refine if_pos (List.any_eq_true.mpr ⟨z, hz, ?_⟩)
        simpa [← hk, channelKey] using h
      · rfl

/-- The clause of O51 on LATE_DETECT of a bias channel. -/
theorem lateDetect_bias_effects (n : Fin 128) (s : State) :
    (∀ o b, s.lateOp n = some o → b = s.biasOf n → Runs (.lateDetect (.bias n)) s fun u =>
      BiasBecomes s u n { b with
        ops := b.ops.map fun p => if p = o then { p with late := true } else p, lateSeg := some o.seg }
      ∧ (b.lateSeg ≠ some o.seg → WentLate s u (n / 8) (6 + n % 8)) ∧ (b.lateSeg = some o.seg → Only [.out, .bias] s u))
    ∧ (s.lateOp n = none → Runs (.lateDetect (.bias n)) s fun u => u = s.fresh) := by
  have e := exec_lateDetect_bias n s
  refine ⟨?_, fun h => Runs.stands ?_⟩
  · rintro o _ h rfl
    rw [h] at e
    obtain ⟨a, ha⟩ : ∃ a, a = s.fresh.setBias n { s.biasOf n with
      ops := (s.biasOf n).ops.map fun p => if p = o then { p with late := true } else p, lateSeg := some o.seg } := ⟨_, rfl⟩
    have hb : BiasBecomes s a n { s.biasOf n with
        ops := (s.biasOf n).ops.map fun p => if p = o then { p with late := true } else p, lateSeg := some o.seg } :=
      ha ▸ ⟨State.biasOf_setBias _ _ _, fun k hk => State.biasOf_setBias_ne _ _ hk⟩
    have oa : Only [.out, .bias] s a := ha ▸ State.setBias_only (by decide) (State.fresh_only (by decide) (Only.refl _ s))
    have el : s.fresh.lateBias n o = if (s.biasOf n).lateSeg = some o.seg then a else a.noteLate (n / 8) (6 + n % 8) := by
      rw [ha]
      rfl
    refine ⟨_, e, ?_⟩
    dsimp only
    rw [el]
    split
    · next hs => exact ⟨hb, fun hn => absurd hs hn, fun _ => oa⟩
    · next hs =>
      have ou : Only [.image .lateStatus, .out, .hatband, .log, .image .logStatus, .runs, .image .runStatus, .acq] a
          (a.noteLate (n / 8) (6 + n % 8)) := State.noteLate_only (List.Subset.refl _) (Only.refl _ a)
      refine ⟨⟨(biasOf_of_only ou (by decide) _).trans hb.1, fun k hk => (biasOf_of_only ou (by decide) k).trans (hb.2 k hk)⟩,
        fun _ => ?_, fun h => absurd h hs⟩
      exact (a.noteLate_done (n / 8) (6 + n % 8) (by omega) rfl).from oa (by decide) (by decide) (by decide)
  · rw [e, h]

/-- Settles O51: each row that drives the balls, channel by channel, and what a seal failure and a LATE leave beside it. -/
theorem driveEffects : Obligations.DriveEffects :=
  ⟨fun _ _ _ _ _ _ _ _ hk h hp => frameUpdateApply_effects hk h hp,
    fun _ _ _ _ _ _ _ _ _ _ hk h hm hh hi => burstIssue_effects hk h hm hh hi,
    powerMute_effects,
    fun _ _ _ h hw hb => driveRelease_effects h hw hb,
    fun _ _ _ h hw hb => probeRelease_effects h hw hb,
    fun _ _ _ _ _ _ _ h hc hb => sealRelease_effects h hc hb,
    fun _ _ h => biasRelease_effects h,
    fun _ sealBad _ h hb => sampleRelease_stands h hb sealBad,
    fun _ _ _ _ _ hc => lateDetect_effects hc,
    lateDetect_bias_effects⟩

end Sys2Proof
end

section
namespace Sys2Proof
open Machine
namespace Machine

/-! ### One tick (R28, R30, R306) -/

/-- The wall clock advances by INC, in 96 bits. -/
theorem State.wall96_countOn (s : State) :
    (s.countOn.clock.wall96 : Int) = ((s.clock.wall96 : Int) + s.wallStep) % 2 ^ 96 := by
  obtain ⟨w, hw⟩ : ∃ w, w = unsigned ((s.clock.wall96 : Int) + s.wallStep) 96 := ⟨_, rfl⟩
  have hi : (w : Int) = ((s.clock.wall96 : Int) + s.wallStep) % 2 ^ 96 := by
    rw [hw, unsigned]
    omega
  have e : s.countOn.clock.wall96 = (BitVec.ofNat 64 (w / 2 ^ 32)).toNat * 2 ^ 32 + (BitVec.ofNat 32 w).toNat := by
    rw [hw]
    rfl
  rw [e, ← hi, BitVec.toNat_ofNat, BitVec.toNat_ofNat]
  omega

/-- A tick counts (log 2). -/
def State.nextTick (s : State) : State := { s with out := [], clock := { s.clock with now := s.clock.now + 1 } }

/-- What a tick makes of the clocks, before the arbiters and the monitor act in it. -/
def State.ticked (s : State) : State :=
  if s.flag F.gridStatus_PLL_LOCK then s.nextTick.integrateAll.countOn else s.nextTick

theorem State.ticked_only (s : State) :
    Only [Part.si, Part.wall, Part.drive, Part.image .xyStatus] s.nextTick s.ticked :=
  Only.ite (State.countOn_only (by decide) (State.integrateAll_only (by decide) (Only.refl _ _))) (Only.refl _ _)

/-- Of what a tick does besides, with no ramp to 0 under way, the clocks, the queue and the outputs have no part. -/
theorem State.tickOn_ticked (s : State) (h : s.power.ramp = none) :
    Only [.memory, .image .storeRequester, .image .storeControl, .monitor] s.ticked s.tickOn := by
  have o : Only [.memory, .image .storeRequester, .image .storeControl, .monitor] s.ticked s.ticked.arbitrate.watchPulse :=
    State.watchPulse_only (by decide) (State.arbitrate_only (by decide) (Only.refl _ _))
  have hp : s.ticked.power = s.power := s.ticked_only .power (by decide)
  have e : s.tickOn = s.ticked.arbitrate.watchPulse := by
    show s.ticked.arbitrate.watchPulse.rampEnded = _
    unfold State.rampEnded
    rw [o .power (by decide), hp, h]
  rw [e]
  exact o

end Machine

/-- Settles O2: the tick is taken before the arbiters and the monitor act, which touch no clock. -/
theorem emptyQueueIsOneTick : Obligations.EmptyQueueIsOneTick := by
  intro s hq hr
  have o := s.tickOn_ticked hr
  have k := s.ticked_only
  have hw : s.tickOn.clock.wall96 = s.ticked.clock.wall96 := by
    obtain ⟨hn, hf⟩ := o .wall (by decide)
    unfold Clock.wall96
    rw [hn, hf]
  have hs : s.tickOn.clock.si = s.ticked.clock.si := o .si (by decide)
  refine ⟨s.tickOn, ?_, ?_, ?_, ?_, fun h => ?_, fun h => ?_⟩
  · unfold step
    rw [hq]
  · exact (o .pending (by decide)).trans ((k .pending (by decide)).trans hq)
  · exact (o .out (by decide)).trans (k .out (by decide))
  · exact (o .now (by decide)).trans (k .now (by decide))
  · have i : Only [.drive, .image .xyStatus] s.nextTick s.nextTick.integrateAll :=
      State.integrateAll_only (List.Subset.refl _) (Only.refl _ _)
    have e : s.ticked = s.nextTick.integrateAll.countOn := if_pos h
    rw [hs, hw, e, State.wall96_countOn, State.wallStep,
      clock_of_only i (by decide) (by decide) (by decide) (by decide), i.get (by decide), ← Int.add_assoc]
    exact ⟨congrArg (· + 16) (i .si (by decide)), rfl⟩
  · have e : s.ticked = s.nextTick := if_neg (by rw [h]; decide)
    rw [hs, hw, e]
    exact ⟨rfl, rfl⟩

end Sys2Proof
end

section
namespace Sys2Proof
open Machine
namespace Machine

/-! ### The loss of SCLK and the lock of the PLL (R29, R30, R307) -/

/-- The clocks are marked as lost. -/
def State.unlocked (s : State) : State :=
  (((s.putFlag F.gridStatus_PLL_LOCK 0 false).putFlag F.gridStatus_SI_VALID 0 false).putFlag
    F.timeStatus_TIME_VALID 0 false).setClock { s.clock with epochAt := none }

theorem State.unlocked_done (s : State) : s.unlocked.flag F.gridStatus_PLL_LOCK = false
    ∧ s.unlocked.flag F.gridStatus_SI_VALID = false ∧ s.unlocked.flag F.timeStatus_TIME_VALID = false
    ∧ s.unlocked.flag F.gridStatus_REFCLK_OK = s.flag F.gridStatus_REFCLK_OK := by
  unfold State.unlocked
  simp only [State.setClock_flag]
  refine ⟨?_, ?_, State.flag_putFlag _ _ _ _ (by decide), ?_⟩
  · rw [State.flag_putFlag_other _ (by decide), State.flag_putFlag_other _ (by decide), State.flag_putFlag _ _ _ _ (by decide)]
  · rw [State.flag_putFlag_other _ (by decide), State.flag_putFlag _ _ _ _ (by decide)]
  · rw [State.flag_putFlag_other _ (by decide), State.flag_putFlag_other _ (by decide), State.flag_putFlag_other _ (by decide)]

/-- The device that loses SCLK is in SAFE, and its clocks are lost. -/
theorem State.loseClock_done (s : State) (d : Nat) {t : State} (ht : t = s.loseClock d) : t.mode = .safe
    ∧ t.flag F.gridStatus_REFCLK_OK = s.flag F.gridStatus_REFCLK_OK ∧ t.flag F.gridStatus_PLL_LOCK = false
    ∧ t.flag F.gridStatus_SI_VALID = false ∧ t.flag F.timeStatus_TIME_VALID = false
    ∧ t.clock = { s.clock with epochAt := none } ∧ (s.mode ≠ .safe → t.get F.modeRecord_CAUSE = 0x0010) := by
  obtain ⟨h1, h2, h3, h4⟩ := s.unlocked_done
  have o : Only [.log, .image .logStatus, .out, .hatband] s.unlocked (s.unlocked.report 27 false 0xFFF d) :=
    State.report_only (by decide) (Only.refl _ _)
  have hc : s.unlocked.clock = { s.clock with epochAt := none } := rfl
  have hm : s.unlocked.mode = s.mode := rfl
  have e : t = ((s.unlocked.report 27 false 0xFFF d).enterSafe 0x0010).toParkOsc := ht
  generalize s.unlocked = v at *
  generalize v.report 27 false 0xFFF d = a at *
  have p : Only [.bias] (a.enterSafe 0x0010) t := e ▸ State.toParkOsc_only (by decide) (Only.refl _ _)
  have oe := State.enterSafe_only (cause := 0x0010) (List.Subset.refl _) (Only.refl _ a)
  have fl : ∀ f : Field, f.record = .gridStatus ∨ f.record = .timeStatus →
      (∀ g ∈ F.modeRecord_SAFE_ENTRIES :: modeChangeFields,
        f.record = g.record → f.lo + f.width ≤ g.lo ∨ g.lo + g.width ≤ f.lo) → t.flag f 0 = v.flag f 0 := by
    intro f hf h
    have hp : Part.image f.record ∉ safeParts ∧ Part.image f.record ∉ [.log, .image .logStatus, .out, .hatband]
        ∧ Part.image f.record ∉ [Part.bias] := by
      rcases hf with hf | hf <;> rw [hf] <;> decide
    rw [p.flag hp.2.2, a.enterSafe_flag _ f hp.1 h, o.flag hp.2.1]
  refine ⟨(p .mode (by decide)).trans (a.enterSafe_mode _), ?_, ?_, ?_, ?_, ?_, fun hs => ?_⟩
  · rw [fl _ (.inl rfl) (by decide), h4]
  · rw [fl _ (.inl rfl) (by decide), h1]
  · rw [fl _ (.inl rfl) (by decide), h2]
  · rw [fl _ (.inr rfl) (by decide), h3]
  · rw [clock_of_only p (by decide) (by decide) (by decide) (by decide),
      clock_of_only oe (by decide) (by decide) (by decide) (by decide),
      clock_of_only o (by decide) (by decide) (by decide) (by decide), hc]
  · rw [p.get (by decide)]
    exact (a.enterSafe_done 0x0010 (by rw [show a.mode = v.mode from o .mode (by decide), hm]; exact hs)).1

/-- Holdover changes LOCKED and HOLDOVER of the time status alone. -/
theorem State.holdover_flag (s : State) {f : Field} (h1 : Apart F.timeStatus_LOCKED f) (h2 : Apart F.timeStatus_HOLDOVER f)
    (hr : Part.image f.record ∉ [.log, .image .logStatus, .out, .hatband]) : s.holdover.flag f 0 = s.flag f 0 := by
  unfold State.holdover
  extract_lets c v
  have hv : v.flag f 0 = s.flag f 0 := (State.setClock_flag _ _ _ _).trans (State.flag_putFlag_other _ h1)
  clear_value v
  split
  · exact hv
  · rw [(State.report_only (List.Subset.refl _) (Only.refl _ _)).flag hr, State.raise_flag,
      State.flag_putFlag_other _ h2, hv]

theorem State.forgetSamples_flag (s : State) (f : Field) (i : Nat) : s.forgetSamples.flag f i = s.flag f i := rfl

theorem State.forgetSamples_clock (s : State) : s.forgetSamples.clock = s.clock := rfl

/-- The PLL is locked, and what stood in the count of before is forgotten. -/
def State.locked (s : State) : State :=
  ((s.putFlag F.gridStatus_PLL_LOCK 0 true).putFlag F.timeStatus_TIME_VALID 0 true).forgetSamples

theorem State.locked_done (s : State) : s.locked.flag F.gridStatus_PLL_LOCK = true
    ∧ s.locked.flag F.timeStatus_TIME_VALID = true ∧ s.locked.clock = s.clock := by
  unfold State.locked
  rw [State.forgetSamples_flag, State.forgetSamples_flag, State.forgetSamples_clock, State.putFlag_clock,
    State.putFlag_clock, State.flag_putFlag_other _ (by decide)]
  exact ⟨State.flag_putFlag _ _ _ _ (by decide), State.flag_putFlag _ _ _ _ (by decide), rfl⟩

/-- SI counts from 0. The first lock begins the wall clock, and a later one leaves it in holdover. -/
def State.startSi (s : State) : State :=
  if s.clock.wallStarted then ((s.setClock { s.clock with si := 0 }).putFlag F.timeStatus_STEPPED 0 false).holdover
  else s.setClock { s.clock with si := 0, wallNs := 0, wallFrac := 0, wallStarted := true }

theorem State.lockPll_split (s : State) : s.lockPll = s.locked.startSi := rfl

theorem State.startSi_first {s : State} (h : s.clock.wallStarted = false) :
    s.startSi = s.setClock { s.clock with si := 0, wallNs := 0, wallFrac := 0, wallStarted := true } :=
  if_neg (by rw [h]; decide)

theorem State.startSi_again {s : State} (h : s.clock.wallStarted = true) :
    s.startSi.si = 0 ∧ s.startSi.wall = s.wall ∧ s.startSi.flag F.timeStatus_STEPPED = false
    ∧ s.startSi.flag F.timeStatus_HOLDOVER = true := by
  rw [show s.startSi = _ from if_pos h]
  generalize hv : (s.setClock { s.clock with si := 0 }).putFlag F.timeStatus_STEPPED 0 false = v
  have hs : v.flag F.timeStatus_STEPPED = false := hv ▸ State.flag_putFlag _ _ _ _ (by decide)
  have hc : v.holdover.clock = { s.clock with si := 0, lockRun := 0 } := by
    rw [v.holdover_clock, ← hv, State.putFlag_clock]
    rfl
  refine ⟨?_, ?_, ?_, v.holdover_done.2⟩
  · rw [State.si, hc]
    rfl
  · rw [State.wall, hc]
    rfl
  · rw [v.holdover_flag (by decide) (by decide) (by decide), hs]

/-- The start of SI leaves the flags of the grid, and that the time is valid, alone. -/
theorem State.startSi_flag (s : State) {f : Field} (h : ∀ g ∈ [F.timeStatus_LOCKED, F.timeStatus_HOLDOVER, F.timeStatus_STEPPED],
    Apart g f) (hr : Part.image f.record ∉ [.log, .image .logStatus, .out, .hatband]) : s.startSi.flag f 0 = s.flag f 0 := by
  unfold State.startSi
  split
  · rw [State.holdover_flag _ (h _ (by simp)) (h _ (by simp)) hr, State.flag_putFlag_other _ (h _ (by simp)),
      State.setClock_flag]
  · rw [State.setClock_flag]

/-- A locked PLL: SI counts from 0, and the wall clock from 0 too where it has not begun. -/
theorem State.lockPll_done (s : State) {t : State} (ht : t = s.lockPll) : t.flag F.gridStatus_PLL_LOCK = true
    ∧ t.flag F.timeStatus_TIME_VALID = true ∧ t.si = 0
    ∧ (s.clock.wallStarted = false → t.wall = 0 ∧ t.clock.wallFrac = 0 ∧ t.clock.wallStarted = true)
    ∧ (s.clock.wallStarted = true → t.wall = s.wall ∧ t.flag F.timeStatus_STEPPED = false
      ∧ t.flag F.timeStatus_HOLDOVER = true) := by
  obtain ⟨h1, h2, hc⟩ := s.locked_done
  have hw : s.locked.wall = s.wall := congrArg (fun c : Clock => c.wallNs.toNat) hc
  rw [State.lockPll_split] at ht
  rw [← hc, ← hw]
  generalize s.locked = v at *
  subst ht
  rw [v.startSi_flag (by decide) (by decide), v.startSi_flag (by decide) (by decide)]
  refine ⟨h1, h2, ?_, fun h => ?_, fun h => (State.startSi_again h).2⟩
  · cases h : v.clock.wallStarted with
    | false => rw [State.startSi_first h]; rfl
    | true => exact (State.startSi_again h).1
  · rw [State.startSi_first h]
    exact ⟨rfl, rfl, rfl⟩

/-! ### SYNC (R45 to R50) -/

/-- An accepted edge, before its margin is judged. -/
def State.syncAccepted (s : State) : State :=
  (((s.putFlag F.gridStatus_SYNC_ARMED 0 false).count F.gridStatus_SYNC_ACCEPT_COUNT 0).setClock { s.clock with
    edgeAccepted := true
    epochAt := some ((s.clock.now : Int) + 16 + 8 * signed (s.get F.syncControl_EPOCH_ADJ) 3).toNat }).raise 1136

/-- A low margin is marked and reported. -/
def State.marginNoted (s : State) (phi : Nat) : State :=
  ((s.putFlag F.gridStatus_SYNC_MARGIN_LOW 0 true).raise 1138).report 28 false 1138 phi

theorem State.acceptSync_split (s : State) (phi : Nat) : s.acceptSync phi =
    if marginLow phi then s.syncAccepted.marginNoted phi else s.syncAccepted := rfl

theorem State.marginNoted_done (s : State) (phi : Nat) : (s.marginNoted phi).flag F.gridStatus_SYNC_MARGIN_LOW = true
    ∧ Raised s (s.marginNoted phi) 1138 0 0 ∧ Grows s (s.marginNoted phi) ∧ (s.marginNoted phi).clock = s.clock
    ∧ ∀ f : Field, Apart F.gridStatus_SYNC_MARGIN_LOW f → f.record ≠ .logStatus →
      (s.marginNoted phi).get f = s.get f ∧ (s.marginNoted phi).flag f = s.flag f := by
  have o : Only [.log, .image .logStatus, .out, .hatband] ((s.putFlag F.gridStatus_SYNC_MARGIN_LOW 0 true).raise 1138)
      (s.marginNoted phi) := State.report_only (by decide) (Only.refl _ _)
  have g : Grows ((s.putFlag F.gridStatus_SYNC_MARGIN_LOW 0 true).raise 1138) (s.marginNoted phi) := Grows.report _ _ _ _ _ _
  refine ⟨?_, (Raised.raise _ _ _).grow g, ((Grows.of_eq (State.putFlag_out _ _ _ _)
      (congrArg Hatband.arriving (State.putFlag_hatband _ _ _ _))).trans (Grows.raise _ _ _ _ _)).trans g,
    (clock_of_only o (by decide) (by decide) (by decide) (by decide)).trans ((State.raise_clock _ _ _ _ _).trans (State.putFlag_clock _ _ _ _)), fun f h hr => ?_⟩
  · rw [o.flag (by decide), State.raise_flag]
    exact State.flag_putFlag _ _ _ _ (by decide)
  · have hp : Part.image f.record ∉ [.log, .image .logStatus, .out, .hatband] := by simp [hr]
    rw [o.get hp, o.flag hp, State.raise_get, State.raise_flag, State.get_putFlag_other _ h, State.flag_putFlag_other _ h]
    exact ⟨rfl, rfl⟩

/-- An accepted edge disarms SYNC, counts, and sets the epoch. -/
theorem State.syncAccepted_done (s : State) : s.syncAccepted.flag F.gridStatus_SYNC_ARMED = false
    ∧ s.syncAccepted.get F.gridStatus_SYNC_ACCEPT_COUNT =
      satAdd (s.get F.gridStatus_SYNC_ACCEPT_COUNT) 1 F.gridStatus_SYNC_ACCEPT_COUNT.width
    ∧ s.syncAccepted.get F.gridStatus_SYNC_EXTRA_COUNT = s.get F.gridStatus_SYNC_EXTRA_COUNT
    ∧ s.syncAccepted.get F.syncControl_SYNC_PHASE = s.get F.syncControl_SYNC_PHASE
    ∧ Raised s s.syncAccepted 1136 0 0 := by
  unfold State.syncAccepted
  simp only [State.raise_flag, State.raise_get, State.setClock_flag, State.setClock_get]
  refine ⟨?_, ?_, ?_, ?_, Raised.raise _ _ _⟩
  · rw [State.flag_count_other _ (by decide), State.flag_putFlag _ _ _ _ (by decide)]
  · rw [State.get_count, State.get_putFlag_other _ (by decide)]
  · rw [State.get_count_other _ (by decide), State.get_putFlag_other _ (by decide)]
  · rw [State.get_count_other _ (by decide), State.get_putFlag_other _ (by decide)]

theorem State.acceptSync_done (s : State) (phi : Nat) {t : State} (ht : t = s.acceptSync phi) :
    t.flag F.gridStatus_SYNC_ARMED = false
    ∧ t.get F.gridStatus_SYNC_ACCEPT_COUNT =
      satAdd (s.get F.gridStatus_SYNC_ACCEPT_COUNT) 1 F.gridStatus_SYNC_ACCEPT_COUNT.width
    ∧ t.get F.gridStatus_SYNC_EXTRA_COUNT = s.get F.gridStatus_SYNC_EXTRA_COUNT
    ∧ t.get F.syncControl_SYNC_PHASE = s.get F.syncControl_SYNC_PHASE
    ∧ t.clock = s.syncAccepted.clock ∧ Raised s t 1136 0 0
    ∧ (marginLow phi = true → t.flag F.gridStatus_SYNC_MARGIN_LOW = true ∧ Raised s t 1138 0 0) := by
  obtain ⟨h1, h2, h3, h4, h5⟩ := s.syncAccepted_done
  rw [State.acceptSync_split] at ht
  cases hm : marginLow phi with
  | false =>
    rw [hm] at ht
    subst ht
    exact ⟨h1, h2, h3, h4, rfl, h5, fun h => absurd h (by decide)⟩
  | true =>
    rw [hm] at ht
    obtain ⟨m1, m2, m3, m4, m5⟩ := s.syncAccepted.marginNoted_done phi
    subst ht
    refine ⟨?_, ?_, ?_, ?_, m4, h5.grow m3, fun _ => ⟨m1, m2⟩⟩
    · exact (m5 _ (by decide) (by decide)).2.trans h1
    · exact (m5 _ (by decide) (by decide)).1.trans h2
    · exact (m5 _ (by decide) (by decide)).1.trans h3
    · exact (m5 _ (by decide) (by decide)).1.trans h4

/-- An edge that is not accepted is counted as extra. -/
theorem State.ignoreSync_done (s : State) {t : State} (ht : t = s.ignoreSync) :
    t.get F.gridStatus_SYNC_EXTRA_COUNT =
      satAdd (s.get F.gridStatus_SYNC_EXTRA_COUNT) 1 F.gridStatus_SYNC_EXTRA_COUNT.width
    ∧ t.get F.gridStatus_SYNC_ACCEPT_COUNT = s.get F.gridStatus_SYNC_ACCEPT_COUNT
    ∧ t.flag F.gridStatus_SYNC_ARMED = s.flag F.gridStatus_SYNC_ARMED
    ∧ t.get F.syncControl_SYNC_PHASE = s.get F.syncControl_SYNC_PHASE
    ∧ t.clock = s.clock ∧ Raised s t 1137 0 0 := by
  have o : Only [.log, .image .logStatus, .out, .hatband] ((s.count F.gridStatus_SYNC_EXTRA_COUNT 0).raise 1137) t :=
    ht ▸ State.report_only (by decide) (Only.refl _ _)
  refine ⟨?_, ?_, ?_, ?_, (clock_of_only o (by decide) (by decide) (by decide) (by decide)).trans ((State.raise_clock _ _ _ _ _).trans (State.count_clock _ _ _ _)), ?_⟩
  · rw [o.get (by decide), State.raise_get, State.get_count]
  · rw [o.get (by decide), State.raise_get, State.get_count_other _ (by decide)]
  · rw [o.flag (by decide), State.raise_flag, State.flag_count_other _ (by decide)]
  · rw [o.get (by decide), State.raise_get, State.get_count_other _ (by decide)]
  · exact ht ▸ (Raised.raise _ _ _).grow (Grows.report _ _ _ _ _ _)

/-! ### SYNC_ARM (R46, R50) -/

/-- SYNC is armed: no edge has been accepted yet, and no margin judged. -/
def State.armed (s : State) : State :=
  ((s.putFlag F.gridStatus_SYNC_ARMED 0 true).putFlag F.gridStatus_SYNC_MARGIN_LOW 0 false).setClock
    { s.clock with edgeAccepted := false }

theorem State.armed_done (s : State) : s.armed.flag F.gridStatus_SYNC_ARMED = true
    ∧ s.armed.flag F.gridStatus_SYNC_MARGIN_LOW = false ∧ s.armed.clock = { s.clock with edgeAccepted := false }
    ∧ s.armed.get F.syncControl_SYNC_PHASE = s.get F.syncControl_SYNC_PHASE := by
  unfold State.armed
  rw [State.setClock_flag, State.setClock_flag, State.setClock_get, State.flag_putFlag_other _ (by decide),
    State.get_putFlag_other _ (by decide), State.get_putFlag_other _ (by decide)]
  exact ⟨State.flag_putFlag _ _ _ _ (by decide), State.flag_putFlag _ _ _ _ (by decide), rfl, rfl⟩

/-- The payload of the response to SYNC_ARM. -/
def syncAnswer (accepted : Bool) (phase : Nat) : List Byte :=
  leBytes (if accepted then 1 else 0) 1 ++ zeros 1 ++ leBytes phase 2

theorem syncArmCommand_arms {r : Request} {s u : State} (h : r.at 0 1 = 1) :
    (syncArmCommand r s).act u = .ok u.armed (syncAnswer false (u.get F.syncControl_SYNC_PHASE)) := by
  have e : (syncArmCommand r s).act u = .ok u.armed
      (syncAnswer u.armed.clock.edgeAccepted (u.armed.get F.syncControl_SYNC_PHASE)) := by
    unfold syncArmCommand
    dsimp only
    rw [if_pos h]
    rfl
  rw [e, u.armed_done.2.2.2]
  rfl

theorem syncArmCommand_disarms {r : Request} {s u : State} (h : r.at 0 1 ≠ 1) :
    (syncArmCommand r s).act u = .ok (u.putFlag F.gridStatus_SYNC_ARMED 0 false)
      (syncAnswer u.clock.edgeAccepted (u.get F.syncControl_SYNC_PHASE)) := by
  unfold syncArmCommand
  dsimp only
  rw [if_neg h, State.get_putFlag_other _ (by decide), State.putFlag_clock]
  rfl

/-- A request that fails a check of R354 is refused. -/
theorem State.serve_refuses {s : State} {m code : Nat} {cmd : Request → State → Command} {st : Status} {d : Nat}
    (hn : s.atHead m = true) (hc : (s.request m).command = code) (hs : s.screen (s.request m) = .go)
    (hv : ({ cmd (s.request m) s.taken with
      refused := (cmd (s.request m) s.taken).refused || s.refuses (s.request m) } : Command).verdict s.mode = some (st, d)) :
    s.fresh.serve m code cmd = s.taken.reply (s.request m) st d [] := by
  have hr : requestOf m (s.fresh.mailbox m).request = s.request m := rfl
  have hh : s.fresh.atHead m = true := hn
  have hg : s.fresh.popAccepted.screen (s.request m) = .go := hs
  unfold State.serve
  simp only [hr, hh, hc, decide_true, Bool.true_or, Bool.and_true, ↓reduceIte, hg]
  show s.taken.run (s.request m) (cmd (s.request m) s.taken) = _
  unfold State.run
  rw [show s.taken.mode = s.mode from rfl, show s.taken.refuses (s.request m) = s.refuses (s.request m) from rfl, hv]

end Machine

/-- SYNC_ARM with a byte 0 of 1. -/
theorem Passes.syncArm {m : Fin 16} {s : State} (h : Passes s m 0x0106 syncArmCommand) (ha : (s.request m).at 0 1 = 1) :
    Runs (.syncArm m) s fun t => Done s t m (syncAnswer false (s.get F.syncControl_SYNC_PHASE)) fun u =>
      u.flag F.gridStatus_SYNC_ARMED = true ∧ u.flag F.gridStatus_SYNC_MARGIN_LOW = false
        ∧ u.clock = { s.clock with edgeAccepted := false } :=
  have ⟨h1, h2, h3, _⟩ := s.taken.armed_done
  h.done rfl (syncArmCommand_arms ha) rfl ⟨h1, h2, h3⟩

/-- SYNC_ARM with another byte 0. -/
theorem Passes.syncDisarm {m : Fin 16} {s : State} (h : Passes s m 0x0106 syncArmCommand) (ha : (s.request m).at 0 1 ≠ 1) :
    Runs (.syncArm m) s fun t => Done s t m (syncAnswer s.clock.edgeAccepted (s.get F.syncControl_SYNC_PHASE)) fun u =>
      u.flag F.gridStatus_SYNC_ARMED = false ∧ u.clock = s.clock :=
  h.done rfl (syncArmCommand_disarms ha) rfl ⟨State.flag_putFlag _ _ _ _ (by decide), rfl⟩

/-- What holds of the grid's flags when a command has had its effect holds after its response. -/
theorem Done.flag {s t : State} {m : Nat} {p : List Byte} {P : State → Prop} (h : Done s t m p P) {f : Field}
    (hr : Part.image f.record ∉ [.log, .image .logStatus, .out, .hatband, .mailboxes, .host]) :
    ∃ u, P u ∧ t.flag f = u.flag f ∧ t.clock = u.clock := by
  obtain ⟨u, hp, -, rfl⟩ := h
  have o := Answered.only (u := u) (s.request m) .ok 0 p
  exact ⟨u, hp, o.flag hr 0, clock_of_only o (by decide) (by decide) (by decide) (by decide)⟩

/-- SYNC_ARM passes its checks in PARKED and CALIBRATE (R46). -/
theorem Asks.syncArm_passes {m : Fin 16} {s : State} (h : Asks s m 0x0106 4) (hm : s.mode = .parked ∨ s.mode = .calibrate)
    (hr : s.refuses (s.request m) = false) (hz : (s.request m).at 1 3 = 0) (ha : (s.request m).at 0 1 ≤ 1) :
    Passes s m 0x0106 syncArmCommand := by
  refine ⟨h.next, h.code, h.screen, hr, ?_⟩
  have hf : exactly (s.request m) 4 = none := if_pos h.len
  have hac : accessAdm (s.request m) = none := if_pos h.adm
  have hmod : modesCP.contains s.mode = true := by rcases hm with hm | hm <;> rw [hm] <;> decide
  unfold Command.verdict syncArmCommand
  simp only [hf, hac, hmod]
  simp [firstBad, badAt, Request.rsv, hz, Nat.not_lt.mpr ha]

/-- SYNC_ARM is refused in every other mode. -/
theorem Asks.syncArm_refused {m : Fin 16} {s : State} (h : Asks s m 0x0106 4) (h1 : s.mode ≠ .parked)
    (h2 : s.mode ≠ .calibrate) :
    exec (.syncArm m) s = .next (s.taken.reply (s.request m) .refusedMode s.mode.code []) := by
  have hf : exactly (s.request m) 4 = none := if_pos h.len
  have hac : accessAdm (s.request m) = none := if_pos h.adm
  have hmod : modesCP.contains s.mode = false := by simp [modesCP, h1, h2]
  refine congrArg Host.Outcome.next (State.serve_refuses h.next h.code h.screen ?_)
  unfold Command.verdict syncArmCommand
  simp only [hf, hac, hmod]
  simp

/-- An edge on SYNC_IN that comes while SYNC is armed. -/
theorem exec_syncEdge_armed {phi : Fin 1024} {s : State} (hm : s.mode ≠ .reset)
    (ha : s.flag F.gridStatus_SYNC_ARMED = true) :
    exec (.syncEdge phi) s = .next ((s.fresh.put F.syncControl_SYNC_PHASE 0 phi).acceptSync phi) := by
  have hf : (s.fresh.put F.syncControl_SYNC_PHASE 0 phi).flag F.gridStatus_SYNC_ARMED = true :=
    (State.flag_put_other _ (by decide)).trans ha
  exact congrArg Host.Outcome.next ((if_neg hm).trans (if_pos hf))

/-- An edge on SYNC_IN that comes while SYNC is not armed. -/
theorem exec_syncEdge_extra {phi : Fin 1024} {s : State} (hm : s.mode ≠ .reset)
    (ha : s.flag F.gridStatus_SYNC_ARMED = false) :
    exec (.syncEdge phi) s = .next (s.fresh.put F.syncControl_SYNC_PHASE 0 phi).ignoreSync := by
  have hf : (s.fresh.put F.syncControl_SYNC_PHASE 0 phi).flag F.gridStatus_SYNC_ARMED = false :=
    (State.flag_put_other _ (by decide)).trans ha
  exact congrArg Host.Outcome.next ((if_neg hm).trans (if_neg (by rw [hf]; decide)))

end Sys2Proof
end

section
namespace Sys2Proof
open Machine

/-- What an edge that comes while SYNC is armed leaves, with its phase (R46 to R49). -/
theorem Machine.State.syncEdge_armed (s : State) (phi : Fin 1024) {t : State}
    (ht : t = (s.fresh.put F.syncControl_SYNC_PHASE 0 phi).acceptSync phi) :
    t.get F.syncControl_SYNC_PHASE = phi.val ∧ t.flag F.gridStatus_SYNC_ARMED = false
    ∧ t.get F.gridStatus_SYNC_ACCEPT_COUNT =
      satAdd (s.get F.gridStatus_SYNC_ACCEPT_COUNT) 1 F.gridStatus_SYNC_ACCEPT_COUNT.width
    ∧ t.get F.gridStatus_SYNC_EXTRA_COUNT = s.get F.gridStatus_SYNC_EXTRA_COUNT
    ∧ t.clock = { s.clock with
        edgeAccepted := true
        epochAt := some ((s.clock.now : Int) + 16 + 8 * signed (s.get F.syncControl_EPOCH_ADJ) 3).toNat }
    ∧ Raised s t 1136 0 0
    ∧ (marginLow phi = true → t.flag F.gridStatus_SYNC_MARGIN_LOW = true ∧ Raised s t 1138 0 0) := by
  have hp : (s.fresh.put F.syncControl_SYNC_PHASE 0 phi).get F.syncControl_SYNC_PHASE = phi.val :=
    State.get_put_of_lt _ _ _ (Nat.lt_trans phi.isLt (by decide))
  have hk : ∀ f : Field, Apart F.syncControl_SYNC_PHASE f →
      (s.fresh.put F.syncControl_SYNC_PHASE 0 phi).get f = s.get f := fun f h => State.get_put_other _ h
  have hc : (s.fresh.put F.syncControl_SYNC_PHASE 0 phi).clock = s.clock := rfl
  generalize s.fresh.put F.syncControl_SYNC_PHASE 0 phi = v at *
  obtain ⟨h1, h2, h3, h4, h5, h6, h7⟩ := v.acceptSync_done phi ht
  refine ⟨h4.trans hp, h1, ?_, ?_, ?_, h6, h7⟩
  · rw [h2, hk _ (by decide)]
  · rw [h3, hk _ (by decide)]
  · rw [h5, ← hc, ← hk _ (by decide)]
    rfl

/-- What an edge that comes while SYNC is not armed leaves. -/
theorem Machine.State.syncEdge_extra (s : State) (phi : Fin 1024) {t : State}
    (ht : t = (s.fresh.put F.syncControl_SYNC_PHASE 0 phi).ignoreSync) :
    t.get F.syncControl_SYNC_PHASE = phi.val ∧ t.flag F.gridStatus_SYNC_ARMED = s.flag F.gridStatus_SYNC_ARMED
    ∧ t.clock = s.clock
    ∧ t.get F.gridStatus_SYNC_EXTRA_COUNT =
      satAdd (s.get F.gridStatus_SYNC_EXTRA_COUNT) 1 F.gridStatus_SYNC_EXTRA_COUNT.width
    ∧ t.get F.gridStatus_SYNC_ACCEPT_COUNT = s.get F.gridStatus_SYNC_ACCEPT_COUNT ∧ Raised s t 1137 0 0 := by
  have hp : (s.fresh.put F.syncControl_SYNC_PHASE 0 phi).get F.syncControl_SYNC_PHASE = phi.val :=
    State.get_put_of_lt _ _ _ (Nat.lt_trans phi.isLt (by decide))
  have hk : ∀ f : Field, Apart F.syncControl_SYNC_PHASE f →
      (s.fresh.put F.syncControl_SYNC_PHASE 0 phi).get f = s.get f := fun f h => State.get_put_other _ h
  have hf : (s.fresh.put F.syncControl_SYNC_PHASE 0 phi).flag F.gridStatus_SYNC_ARMED = s.flag F.gridStatus_SYNC_ARMED :=
    State.flag_put_other _ (by decide)
  have hc : (s.fresh.put F.syncControl_SYNC_PHASE 0 phi).clock = s.clock := rfl
  generalize s.fresh.put F.syncControl_SYNC_PHASE 0 phi = v at *
  obtain ⟨h1, h2, h3, h4, h5, h6⟩ := v.ignoreSync_done ht
  refine ⟨h4.trans hp, h3.trans hf, h5.trans hc, ?_, ?_, h6⟩
  · rw [h1, hk _ (by decide)]
  · rw [h2, hk _ (by decide)]

/-- Settles O55: SYNC_ARM is refused or arms and disarms as its checks and its byte 0 say, and an edge is accepted or
counted as SYNC is armed or not. -/
theorem syncArming : Obligations.SyncArming := by
  refine ⟨fun m s h => ⟨fun h1 h2 => ?_, fun hm hr hz => ⟨fun ha => ?_, fun ha => ?_⟩⟩, fun phi s hm => ?_⟩
  · refine ⟨_, h.syncArm_refused h1 h2, Answered.reply rfl, ?_⟩
    exact (Answered.only _ _ _ _).flag (by decide) 0
  · obtain ⟨t, e, hd⟩ := (h.syncArm_passes hm hr hz (by rw [ha])).syncArm ha
    obtain ⟨u, ⟨h1, -, h3⟩, hf, hc⟩ := hd.flag (f := F.gridStatus_SYNC_ARMED) (by decide)
    refine ⟨t, e, hf.trans h1, ?_, hd.answered⟩
    rw [hc, h3]
  · obtain ⟨t, e, hd⟩ := (h.syncArm_passes hm hr hz (by rw [ha]; decide)).syncDisarm (by rw [ha]; decide)
    obtain ⟨u, ⟨h1, -⟩, hf, -⟩ := hd.flag (f := F.gridStatus_SYNC_ARMED) (by decide)
    exact ⟨t, e, hf.trans h1, hd.answered⟩
  · cases ha : s.flag F.gridStatus_SYNC_ARMED with
    | true =>
      obtain ⟨h1, h2, h3, h4, h5, h6, -⟩ := s.syncEdge_armed phi rfl
      refine ⟨_, exec_syncEdge_armed hm ha, h1, h2, fun _ => ⟨?_, h6, h3, h4⟩, fun h => absurd h (by decide)⟩
      rw [h5]
    | false =>
      obtain ⟨h1, h2, h3, h4, h5, -⟩ := s.syncEdge_extra phi rfl
      exact ⟨_, exec_syncEdge_extra hm ha, h1, h2.trans ha, fun h => absurd h (by decide), fun _ => ⟨h3, h4, h5⟩⟩

/-- The epoch, from the tick that the accepted edge set (R48). -/
theorem siEpoch_effects {s : State} {t0 : Nat} (h0 : s.clock.epochAt = some t0) (h1 : t0 ≤ s.clock.now) :
    Runs .siEpoch s fun t => t.clock = { s.clock with epochAt := none, si := BitVec.ofNat 64 (16 * (s.clock.now - t0)) }
      ∧ t.flag F.gridStatus_SI_VALID = true ∧ Only [.out, .si, .clock, .drive, .image .gridStatus] s t := by
  obtain ⟨v, hv⟩ : ∃ v, v = s.fresh.setClock
    { s.clock with epochAt := none, si := BitVec.ofNat 64 (16 * (s.clock.now - t0)) } := ⟨_, rfl⟩
  have e : exec .siEpoch s = .next (v.putFlag F.gridStatus_SI_VALID 0 true).forgetSamples := by
    change execSiEpoch s = _
    unfold execSiEpoch
    simp only [State.fresh_clock, h0, hv]
    exact congrArg Host.Outcome.next (if_pos h1)
  have ov : Only [.out, .si, .clock] s v := hv ▸ State.setClock_only (by decide) (.inr rfl) (.inl (by decide))
    (.inr ⟨rfl, rfl⟩) (State.fresh_only (by decide) (Only.refl _ s))
  refine ⟨_, e, ?_, ?_, State.forgetSamples_only (by decide) (State.putFlag_only (by decide) (ov.mono (by decide)))⟩
  · rw [State.forgetSamples_clock, State.putFlag_clock, hv]
    rfl
  · rw [State.forgetSamples_flag]
    exact State.flag_putFlag _ _ _ _ (by decide)

/-- A SYNC_OUT pulse of TRAINING (R51). -/
theorem syncOutTrainingPulse_effects {s : State} (hm : s.get F.syncControl_SYNC_OUT_MODE = 2)
    (hl : s.flag F.gridStatus_PLL_LOCK = true) (hd : ∀ t0, s.clock.lastTraining = some t0 → t0 + 8192 ≤ s.refclkTick) :
    Runs .syncOutTrainingPulse s fun t => t.out = [.syncOut true s.refclkTick] ∧ t.clock = { s.clock with
      lastTraining := some s.refclkTick, syncOutUntil := some (s.refclkTick + 32) } := by
  have e : exec .syncOutTrainingPulse s =
      .next (s.fresh.setClock { s.clock with lastTraining := some s.refclkTick }).syncPulse := by
    change execSyncOutTrainingPulse s = _
    unfold execSyncOutTrainingPulse
    simp only [State.fresh_clock, State.fresh_get, State.fresh_flag, hm, hl]
    cases h : s.clock.lastTraining with
    | none => rfl
    | some t0 => exact congrArg Host.Outcome.next (if_pos (by
        have hk : t0 + 8192 ≤ s.fresh.refclkTick := hd t0 h
        simpa using hk))
  exact ⟨_, e, rfl, rfl⟩

/-- The end of a SYNC_OUT pulse (R51). -/
theorem syncOutPulseEnd_effects {s : State} {t0 : Nat} (h0 : s.clock.syncOutUntil = some t0) (h1 : t0 ≤ s.clock.now) :
    Runs .syncOutPulseEnd s fun t => t.out = [.syncOut false t0] ∧ t.clock = { s.clock with syncOutUntil := none } := by
  have e : exec .syncOutPulseEnd s =
      .next ((s.fresh.setClock { s.clock with syncOutUntil := none }).emit (.syncOut false t0)) := by
    change execSyncOutPulseEnd s = _
    unfold execSyncOutPulseEnd
    simp only [State.fresh_clock, h0]
    exact congrArg Host.Outcome.next (if_pos h1)
  exact ⟨_, e, rfl, rfl⟩

/-- Settles O34: each row of REFCLK, the PLL and SYNC by the lemma that says what its operation leaves. -/
theorem clockEffects : Obligations.ClockEffects := by
  refine ⟨fun s h => ⟨fun hm => ?_, fun hm => ?_⟩, fun s h => ?_, fun s => ?_, fun s hr hl hm => ?_, fun m s h =>
    ⟨fun ha => h.syncArm ha, fun ha => h.syncDisarm ha⟩, fun phi s hm => ⟨fun ha => ?_, fun ha => ?_⟩, fun s t0 h0 h1 => ?_,
    fun m s h => ?_, fun s => ?_, fun s h2 hl hd => ?_, fun s t0 h0 h1 => ?_⟩
  · have e : exec .refclkLoss s = .next ((s.fresh.putFlag F.gridStatus_REFCLK_OK 0 false).putFlag F.gridStatus_PLL_LOCK 0 false) :=
      congrArg Host.Outcome.next ((if_pos h).trans (if_pos hm))
    refine ⟨_, e, ?_, State.flag_putFlag _ _ _ _ (by decide),
      State.putFlag_only (by decide) (State.putFlag_only (by decide) (State.fresh_only (by decide) (Only.refl _ s)))⟩
    rw [State.flag_putFlag_other _ (by decide), State.flag_putFlag _ _ _ _ (by decide)]
  · have e : exec .refclkLoss s = .next ((s.fresh.putFlag F.gridStatus_REFCLK_OK 0 false).loseClock 1) :=
      congrArg Host.Outcome.next ((if_pos h).trans (if_neg hm))
    obtain ⟨h1, h2, h3, h4, h5, h6, h7⟩ := (s.fresh.putFlag F.gridStatus_REFCLK_OK 0 false).loseClock_done 1 rfl
    refine ⟨_, e, h1, h2.trans (State.flag_putFlag _ _ _ _ (by decide)), h3, h4, h5, ?_, h7⟩
    rw [h6]
  · have e : exec .pllLockLoss s = .next (s.fresh.loseClock 0) := congrArg Host.Outcome.next (if_pos h)
    obtain ⟨h1, h2, h3, h4, h5, h6, h7⟩ := s.fresh.loseClock_done 0 rfl
    refine ⟨_, e, h1, h2, h3, h4, h5, ?_, h7⟩
    rw [h6]
  · exact ⟨_, rfl, State.flag_putFlag _ _ _ _ (by decide),
      State.putFlag_only (by decide) (State.fresh_only (by decide) (Only.refl _ s))⟩
  · have e : exec .pllLock s = .next s.fresh.lockPll :=
      congrArg Host.Outcome.next (if_pos (by simp [hr, hl, hm]))
    exact ⟨_, e, s.fresh.lockPll_done rfl⟩
  · obtain ⟨h1, h2, h3, -, h5, h6, h7⟩ := s.syncEdge_armed phi rfl
    exact ⟨_, exec_syncEdge_armed hm ha, h1, h2, h3, h5, h6, h7⟩
  · obtain ⟨h1, -, h3, h4, -, h6⟩ := s.syncEdge_extra phi rfl
    exact ⟨_, exec_syncEdge_extra hm ha, h1, h3, h4, h6⟩
  · exact siEpoch_effects h0 h1
  · exact h.done rfl rfl rfl ⟨rfl, rfl⟩
  · unfold State.refclkTick State.nextRefclk
    omega
  · exact syncOutTrainingPulse_effects h2 hl hd
  · exact syncOutPulseEnd_effects h0 h1

end Sys2Proof
end

section
namespace Sys2Proof
open Machine
namespace Machine

/-! ### Measurements of trims (R55, R58) -/

/-- From `s` to `t` trims of group `g` have been measured: their errors, and which of them step, have changed, and nothing
else but what the group's record says of them. -/
structure Measured (s t : State) (g : Nat) : Prop where
  only : Only [.blocking, .image .blockGroup] s t
  blocking : ∃ e x, t.blocking = { s.blocking with errors := e, stepping := x }
  get : ∀ f : Field, Apart F.blockGroup_WORST_ERROR f → Apart F.blockGroup_ACTIVE f → t.get f g = s.get f g

theorem Measured.refl (s : State) (g : Nat) : Measured s s g := ⟨Only.refl _ s, ⟨_, _, rfl⟩, fun _ _ _ => rfl⟩

theorem Measured.trans {s t u : State} {g : Nat} (h : Measured s t g) (k : Measured t u g) : Measured s u g := by
  obtain ⟨e, x, hb⟩ := h.blocking
  obtain ⟨e', x', kb⟩ := k.blocking
  refine ⟨h.only.trans k.only, ⟨e', x', ?_⟩, fun f h1 h2 => (k.get f h1 h2).trans (h.get f h1 h2)⟩
  rw [kb, hb]

/-- Whether a trim steps after a measurement (R55): the same but for HOLD, which is asked apart. -/
theorem State.measureTrim_blocking (s : State) (g trim : Nat) (err : Int) : (s.measureTrim g trim err).blocking =
    { s.blocking with
      errors := s.blocking.errors.list (trimKey g trim) err
      stepping := s.blocking.stepping.write false (trimKey g trim) (s.stepsOn g trim err) } := by
  unfold State.measureTrim
  dsimp only
  rw [State.putFlag_blocking, State.put_blocking, Bool.and_comm]
  rfl

theorem State.measureTrim_measured (s : State) (g trim : Nat) (err : Int) : Measured s (s.measureTrim g trim err) g := by
  refine ⟨State.measureTrim_only (by decide) (Only.refl _ s), ⟨_, _, State.measureTrim_blocking _ _ _ _⟩, fun f h1 h2 => ?_⟩
  unfold State.measureTrim
  dsimp only
  rw [State.get_putFlag_other _ h2, State.get_put_other _ h1, State.setBlocking_get]

/-- Measurements of a group, one after the other. -/
theorem State.measureTrims_measured (g : Nat) : ∀ (l : List (Int × Nat)) (s : State),
    Measured s (l.foldl (fun s e => s.measureTrim g e.2 e.1) s) g
  | [], s => Measured.refl s g
  | x :: l, s => (s.measureTrim_measured g x.2 x.1).trans (State.measureTrims_measured g l _)

/-- Trim `i` of group `g` has been measured, within a limit. -/
def State.TrimWithin (s : State) (g limit i : Nat) : Prop :=
  ∃ e, s.blocking.errors.find (trimKey g i) = some e ∧ e.natAbs ≤ limit

/-- A trim that is measured within the limit is within it, and so is every trim that was. -/
theorem State.measureTrim_within (s : State) {g limit i k : Nat} {err : Int} (he : err.natAbs ≤ limit)
    (h : i = k ∨ s.TrimWithin g limit i) : (s.measureTrim g k err).TrimWithin g limit i := by
  unfold State.TrimWithin
  rw [State.measureTrim_blocking]
  by_cases e : i = k
  · rw [e]
    exact ⟨err, SMap.find_list _ _ _, he⟩
  · obtain ⟨x, hx⟩ := h.resolve_left e
    refine ⟨x, ?_, hx.2⟩
    rw [← hx.1]
    exact SMap.find_list_ne _ _ (by unfold trimKey; omega)

theorem State.measureTrims_within (g limit : Nat) : ∀ (l : List (Int × Nat)) (s : State) (i : Nat),
    (∀ e ∈ l, e.1.natAbs ≤ limit) → ((∃ e ∈ l, e.2 = i) ∨ s.TrimWithin g limit i) →
      (l.foldl (fun s e => s.measureTrim g e.2 e.1) s).TrimWithin g limit i
  | [], s, i, _, h => h.resolve_left (by simp)
  | x :: l, s, i, hl, h => by
    refine State.measureTrims_within g limit l _ i (fun e he => hl e (List.mem_cons_of_mem _ he)) ?_
    have hx := hl x (List.mem_cons_self ..)
    rcases h with ⟨e, he, rfl⟩ | h
    · rcases List.mem_cons.mp he with rfl | he
      · exact .inr (s.measureTrim_within hx (.inl rfl))
      · exact .inl ⟨e, he, rfl⟩
    · exact .inr (s.measureTrim_within hx (.inr h))

theorem State.trimsWithin_of {s : State} {g limit : Nat} (h : ∀ i < trimCount g, s.TrimWithin g limit i) :
    s.trimsWithin g limit = true := by
  refine List.all_eq_true.mpr fun i hi => ?_
  obtain ⟨e, he, hl⟩ := h i (List.mem_range.mp hi)
  rw [he]
  exact decide_eq_true hl

/-- Every trim of a group whose measured errors all lie within a limit is within it. -/
theorem State.fullMeasurement_within (s : State) {g limit : Nat} {errs : List Int} (hn : errs.length = trimCount g)
    (he : ∀ e ∈ errs, e.natAbs ≤ limit) :
    (errs.zipIdx.foldl (fun s e => s.measureTrim g e.2 e.1) s).trimsWithin g limit = true := by
  refine State.trimsWithin_of fun i hi => State.measureTrims_within g limit _ s i (fun e h => ?_) (.inl ?_)
  · exact he e.1 (List.fst_mem_of_mem_zipIdx h)
  · have hi' : i < errs.length := by omega
    exact ⟨(errs[i], i), List.mk_mem_zipIdx_iff_getElem?.mpr (List.getElem?_eq_getElem hi'), rfl⟩

/-! ### A calibration of a group that completes (R58) -/

theorem State.completeGroup_blocking (s : State) (g : Nat) : (s.completeGroup g).blocking = { s.blocking with
    stepped := s.blocking.stepped.write false g false
    calDone := if s.mode = .calibrate then s.blocking.calDone ++ [g] else s.blocking.calDone } := by
  unfold State.completeGroup
  dsimp only
  rw [State.put_blocking, State.put_mode, State.count_blocking, State.count_mode]
  rfl

theorem State.completeGroup_get (s : State) (g : Nat) :
    (s.completeGroup g).get F.blockGroup_CAL_COUNT g =
      satAdd (s.get F.blockGroup_CAL_COUNT g) 1 F.blockGroup_CAL_COUNT.width
    ∧ (s.completeGroup g).get F.blockGroup_LAST_CAL_TIME g = s.wall
    ∧ (s.completeGroup g).get F.blockGroup_STEP_INTERVAL g = s.get F.blockGroup_STEP_INTERVAL g := by
  unfold State.completeGroup
  dsimp only
  rw [State.setBlocking_get, State.setBlocking_get, State.setBlocking_get]
  refine ⟨?_, State.get_put_of_lt _ _ _ s.clock.wallNs.isLt, ?_⟩
  · rw [State.get_put_other _ (by decide), State.get_count]
  · rw [State.get_put_other _ (by decide), State.get_count_other _ (by decide)]

/-! ### What the steps of a group go by (R56) -/

/-- From `s` to `t` the taps, the targets and what the steps of group `g` are timed by stand as they were. -/
structure StepsAlike (s t : State) (g : Nat) : Prop where
  only : Only [.out, .blocking, .image .blockGroup] s t
  taps : t.blocking.taps = s.blocking.taps
  targets : t.blocking.targets = s.blocking.targets
  lastStep : t.blocking.lastStep = s.blocking.lastStep
  trimStep : t.blocking.trimStep = s.blocking.trimStep
  stepBase : t.blocking.stepBase = s.blocking.stepBase
  deferred : t.blocking.deferred = s.blocking.deferred
  interval : t.get F.blockGroup_STEP_INTERVAL g = s.get F.blockGroup_STEP_INTERVAL g

theorem StepsAlike.trans {s t u : State} {g : Nat} (h : StepsAlike s t g) (k : StepsAlike t u g) : StepsAlike s u g :=
  ⟨h.only.trans k.only, k.taps.trans h.taps, k.targets.trans h.targets, k.lastStep.trans h.lastStep,
    k.trimStep.trans h.trimStep, k.stepBase.trans h.stepBase, k.deferred.trans h.deferred, k.interval.trans h.interval⟩

theorem StepsAlike.fresh (s : State) (g : Nat) : StepsAlike s s.fresh g :=
  ⟨State.fresh_only (by decide) (Only.refl _ s), rfl, rfl, rfl, rfl, rfl, rfl, rfl⟩

theorem Measured.alike {s t : State} {g : Nat} (h : Measured s t g) : StepsAlike s t g := by
  obtain ⟨e, x, hb⟩ := h.blocking
  refine ⟨h.only.mono (by decide), ?_, ?_, ?_, ?_, ?_, ?_, h.get _ (by decide) (by decide)⟩ <;> rw [hb]

/-- A group that is judged has at most completed a calibration: no error is changed, and no trim begins or ends to step. -/
theorem State.judgeGroup_alike (s : State) (g : Nat) : StepsAlike s (s.judgeGroup g) g
    ∧ (s.judgeGroup g).blocking.errors = s.blocking.errors ∧ (s.judgeGroup g).blocking.stepping = s.blocking.stepping := by
  have o : Only [.out, .blocking, .image .blockGroup] s (s.judgeGroup g) := State.judgeGroup_only (by decide) (Only.refl _ s)
  by_cases h : (s.blocking.stepped.read false g && s.trimsWithin g 128) = true
  · have e : s.judgeGroup g = s.completeGroup g := if_pos h
    have hb := s.completeGroup_blocking g
    have hi := (s.completeGroup_get g).2.2
    rw [e] at o ⊢
    refine ⟨⟨o, ?_, ?_, ?_, ?_, ?_, ?_, hi⟩, ?_, ?_⟩ <;> rw [hb]
  · have e : s.judgeGroup g = s := if_neg h
    rw [e] at o ⊢
    exact ⟨⟨o, rfl, rfl, rfl, rfl, rfl, rfl, rfl⟩, rfl, rfl⟩

/-- Whether a step may be made now is the same where what steps are timed by is. -/
theorem StepsAlike.stepNow {s t : State} {g : Nat} (h : StepsAlike s t g) (trim : Nat) :
    t.stepNow g trim = s.stepNow g trim := by
  have hm : t.mode = s.mode := h.only .mode (by decide)
  have hc : t.crown = s.crown := h.only .crown (by decide)
  have hn : t.clock.now = s.clock.now := h.only .now (by decide)
  have ht := tile_of_only h.only (by decide)
  have hg := group_of_only h.only (by decide)
  have hr := inRun_of_only h.only (by decide)
  have hs : t.si = s.si := si_of_only h.only (by decide)
  have hi : t.stepInterval g = s.stepInterval g := by
    unfold State.stepInterval
    rw [hm, h.interval, h.only.get (by decide)]
  have hp : t.intervalPassed g trim = s.intervalPassed g trim := by
    unfold State.intervalPassed
    rw [h.lastStep, h.trimStep, hn, hi]
  have hd : t.calDeferred g = s.calDeferred g := by
    unfold State.calDeferred
    rw [h.deferred, h.only.get (by decide)]
    simp only [hr]
  have hin : ∀ i, t.inShots i = s.inShots i := fun i => by
    unfold State.inShots
    rw [ht]
    simp only [hg]
  unfold State.stepNow State.blockingRuns
  rw [hm, hc, hp, hd, hs, h.stepBase]
  simp only [ht, hin]

/-! ### Steps of trims (R55) -/

theorem StepsAlike.tap {s t : State} {g : Nat} (h : StepsAlike s t g) (k i : Nat) : t.tap k i = s.tap k i := by
  unfold State.tap
  rw [h.taps]

theorem StepsAlike.tapTarget {s t : State} {g : Nat} (h : StepsAlike s t g) (k i : Nat) :
    t.tapTarget k i = s.tapTarget k i := by
  unfold State.tapTarget
  rw [h.targets]

/-- The tap of a trim moves by one, and no other tap moves. -/
theorem State.moveTap_done (s : State) (g trim : Nat) (up : Bool) :
    (s.moveTap g trim up).tap g trim = nudge (s.tap g trim) up (tapCount g trim)
    ∧ (∀ h i, trimKey h i ≠ trimKey g trim → (s.moveTap g trim up).tap h i = s.tap h i)
    ∧ ∀ h i, (s.moveTap g trim up).tapTarget h i = s.tapTarget h i :=
  ⟨SMap.read_write_self _ _ _ _, fun _ _ hk => SMap.read_write_ne _ _ _ _ hk, fun _ _ => rfl⟩

/-- A trim that stands at its target has none. -/
theorem State.reachTarget_done (s : State) (g trim : Nat) : (∀ h i, (s.reachTarget g trim).tap h i = s.tap h i)
    ∧ (s.reachTarget g trim).tapTarget g trim = if s.tap g trim = s.tapTarget g trim then 0xFFFF else s.tapTarget g trim := by
  by_cases h : s.tapTarget g trim = s.tap g trim
  · have e : s.reachTarget g trim = _ := if_pos h
    rw [e, if_pos h.symm]
    exact ⟨fun _ _ => rfl, SMap.read_drop_self _ _ _⟩
  · have e : s.reachTarget g trim = s := if_neg h
    rw [e, if_neg (Ne.symm h)]
    exact ⟨fun _ _ => rfl, rfl⟩

/-- With no target a trim that steps moves toward its error. -/
theorem State.stepTrim_error {s : State} {g trim : Nat} (h : s.tapTarget g trim = 0xFFFF) : s.stepTrim g trim =
    if s.blocking.stepping.read false (trimKey g trim) then
      (s.moveTap g trim (0 < s.blocking.errors.read 0 (trimKey g trim))).measureTrim g trim
        (if 0 < s.blocking.errors.read 0 (trimKey g trim) then s.blocking.errors.read 0 (trimKey g trim) - 256
          else s.blocking.errors.read 0 (trimKey g trim) + 256)
    else s := if_neg (not_not.mpr h)

/-- With a target a trim moves toward it, until it stands there. -/
theorem State.stepTrim_target {s : State} {g trim : Nat} (h : s.tapTarget g trim ≠ 0xFFFF) : s.stepTrim g trim =
    (if s.tapTarget g trim = s.tap g trim then s
      else s.moveTap g trim (s.tap g trim < s.tapTarget g trim)).reachTarget g trim := if_pos h

theorem State.stepTrim_done (s : State) (g trim : Nat) {t : State} (ht : t = s.stepTrim g trim) :
    (s.tapTarget g trim = 0xFFFF → t.tap g trim = if s.blocking.stepping.read false (trimKey g trim) then
      nudge (s.tap g trim) (0 < s.blocking.errors.read 0 (trimKey g trim)) (tapCount g trim) else s.tap g trim)
    ∧ (s.tapTarget g trim ≠ 0xFFFF → s.tapTarget g trim ≠ s.tap g trim →
      t.tap g trim = nudge (s.tap g trim) (s.tap g trim < s.tapTarget g trim) (tapCount g trim)
      ∧ t.tapTarget g trim = if t.tap g trim = s.tapTarget g trim then 0xFFFF else s.tapTarget g trim)
    ∧ (s.tapTarget g trim ≠ 0xFFFF → s.tapTarget g trim = s.tap g trim →
      t.tap g trim = s.tap g trim ∧ t.tapTarget g trim = 0xFFFF)
    ∧ ∀ h i, trimKey h i ≠ trimKey g trim → t.tap h i = s.tap h i := by
  by_cases hx : s.tapTarget g trim = 0xFFFF
  · rw [State.stepTrim_error hx] at ht
    refine ⟨fun _ => ?_, fun h => absurd hx h, fun h => absurd hx h, fun k i hk => ?_⟩
    · rw [ht]
      split
      · rw [(State.measureTrim_measured _ _ _ _).alike.tap, (State.moveTap_done _ _ _ _).1]
      · rfl
    · rw [ht]
      split
      · rw [(State.measureTrim_measured _ _ _ _).alike.tap, (State.moveTap_done _ _ _ _).2.1 k i hk]
      · rfl
  · rw [State.stepTrim_target hx] at ht
    by_cases hs : s.tapTarget g trim = s.tap g trim
    · obtain ⟨r1, r2⟩ := s.reachTarget_done g trim
      rw [if_pos hs] at ht
      subst ht
      exact ⟨fun h => absurd h hx, fun _ h => absurd hs h, fun _ _ => ⟨r1 _ _, r2.trans (if_pos hs.symm)⟩, fun k i _ => r1 k i⟩
    · obtain ⟨m1, m2, m3⟩ := s.moveTap_done g trim (s.tap g trim < s.tapTarget g trim)
      obtain ⟨r1, r2⟩ := (s.moveTap g trim (s.tap g trim < s.tapTarget g trim)).reachTarget_done g trim
      rw [if_neg hs] at ht
      subst ht
      refine ⟨fun h => absurd h hx, fun _ _ => ⟨(r1 _ _).trans m1, ?_⟩, fun _ h => absurd h hs,
        fun k i hk => (r1 k i).trans (m2 k i hk)⟩
      rw [r2, m3, r1]

/-! ### BLOCKING_STEP and FIRST_FULL_MEASUREMENT -/

/-- A trim has been measured, and its group judged. -/
def State.measures (s : State) (g trim : Nat) (err : Int) : State := (s.fresh.measureTrim g trim err).judgeGroup g

theorem State.measures_done (s : State) (g trim : Nat) (err : Int) : StepsAlike s (s.measures g trim err) g
    ∧ (s.measures g trim err).blocking.errors.read 0 (trimKey g trim) = err
    ∧ (s.measures g trim err).blocking.stepping.read false (trimKey g trim) = s.stepsOn g trim err := by
  obtain ⟨h1, h2, h3⟩ := (s.fresh.measureTrim g trim err).judgeGroup_alike g
  refine ⟨(StepsAlike.fresh s g).trans ((s.fresh.measureTrim_measured g trim err).alike.trans h1), ?_, ?_⟩
  · show SMap.read ((s.fresh.measureTrim g trim err).judgeGroup g).blocking.errors 0 _ = err
    rw [h2, State.measureTrim_blocking]
    exact SMap.read_list_self _ _ _ _
  · show SMap.read ((s.fresh.measureTrim g trim err).judgeGroup g).blocking.stepping false _ = _
    rw [h3, State.measureTrim_blocking]
    exact SMap.read_write_self _ _ _ _

/-- A measurement of a trim, and the step that follows where one may be made. -/
theorem exec_blockingStep {g : Fin 49} {trim : Fin 48} {err : Int} {s : State} (hr : s.blockingRuns = true)
    (ht : trim.val < trimCount g) : ∃ v, exec (.blockingStep g trim err) s = .next v ∧ v.blocking =
      (if s.stepNow g trim then ((s.measures g trim err).stepTrim g trim).judgeGroup g
        else s.measures g trim err).blocking := by
  obtain ⟨v, hv⟩ : ∃ v, v = if s.stepNow g trim then ((s.measures g trim err).stepTrim g trim).judgeGroup g
    else s.measures g trim err := ⟨_, rfl⟩
  refine ⟨v.putFlag F.blockGroup_ACTIVE g (v.groupActive g), ?_, ?_⟩
  · change execBlockingStep g trim err s = _
    unfold execBlockingStep
    have hc : (s.fresh.blockingRuns && decide (trim.val < trimCount g)) = true := by
      rw [show s.fresh.blockingRuns = true from hr, decide_eq_true ht]
      rfl
    have hn : ((s.fresh.measureTrim g trim err).judgeGroup g).stepNow g trim = s.stepNow g trim :=
      (s.measures_done g trim err).1.stepNow trim
    dsimp only
    rw [if_pos hc, hn, hv]
    rfl
  · rw [State.putFlag_blocking, hv]

end Machine
end Sys2Proof
end

section
namespace Sys2Proof
open Machine

/-- A measurement of a trim where no step may be made. -/
theorem blockingStep_measures {g : Fin 49} {trim : Fin 48} {err : Int} {s : State} (hr : s.blockingRuns = true)
    (ht : trim.val < trimCount g) (hn : s.stepNow g trim = false) :
    Runs (.blockingStep g trim err) s fun t => t.blocking.taps = s.blocking.taps
      ∧ t.blocking.errors.read 0 (trimKey g trim) = err
      ∧ t.blocking.stepping.read false (trimKey g trim) = s.stepsOn g trim err := by
  obtain ⟨t, e, hb⟩ := exec_blockingStep (err := err) hr ht
  obtain ⟨h1, h2, h3⟩ := s.measures_done g trim err
  rw [hn, if_neg (by decide)] at hb
  refine ⟨t, e, ?_, ?_, ?_⟩ <;> rw [hb]
  · exact h1.taps
  · exact h2
  · exact h3

/-- A measurement of a trim, and the step that may be made now. -/
theorem blockingStep_steps {g : Fin 49} {trim : Fin 48} {err : Int} {s : State} (hr : s.blockingRuns = true)
    (ht : trim.val < trimCount g) (hn : s.stepNow g trim = true) :
    Runs (.blockingStep g trim err) s fun t =>
      (s.tapTarget g trim = 0xFFFF → t.tap g trim = if s.stepsOn g trim err = true
        then nudge (s.tap g trim) (decide (0 < err)) (tapCount g trim) else s.tap g trim)
      ∧ (s.tapTarget g trim ≠ 0xFFFF → s.tapTarget g trim ≠ s.tap g trim → t.tap g trim =
        nudge (s.tap g trim) (decide (s.tap g trim < s.tapTarget g trim)) (tapCount g trim)
        ∧ t.tapTarget g trim = if t.tap g trim = s.tapTarget g trim then 0xFFFF else s.tapTarget g trim)
      ∧ (s.tapTarget g trim ≠ 0xFFFF → s.tapTarget g trim = s.tap g trim → t.tap g trim = s.tap g trim
        ∧ t.tapTarget g trim = 0xFFFF)
      ∧ ∀ h i, trimKey h i ≠ trimKey g trim → t.tap h i = s.tap h i := by
  obtain ⟨t, e, hb⟩ := exec_blockingStep (err := err) hr ht
  obtain ⟨h1, h2, h3⟩ := s.measures_done g trim err
  obtain ⟨k1, k2, k3, k4⟩ := (s.measures g trim err).stepTrim_done g trim rfl
  have hj := (((s.measures g trim err).stepTrim g trim).judgeGroup_alike g).1
  rw [hn, if_pos rfl] at hb
  have tp : ∀ k i, t.tap k i = ((s.measures g trim err).stepTrim g trim).tap k i := fun k i => by
    rw [← hj.tap]
    unfold State.tap
    rw [hb]
  have tg : ∀ k i, t.tapTarget k i = ((s.measures g trim err).stepTrim g trim).tapTarget k i := fun k i => by
    rw [← hj.tapTarget]
    unfold State.tapTarget
    rw [hb]
  simp only [h1.tap, h1.tapTarget, h2, h3, ← tp, ← tg] at k1 k2 k3 k4
  exact ⟨t, e, k1, k2, k3, k4⟩

/-- The first full measurement of a group whose trims all lie within the start limit (R58). -/
theorem firstFullMeasurement_completes {g : Fin 49} {errs : List Int} {s : State} (hm : s.mode = .calibrate)
    (hc : s.crown.calEnded.isSome = true) (hn : errs.length = trimCount g)
    (hd : s.blocking.calDone.contains g.val = false) (he : ∀ e ∈ errs, e.natAbs ≤ 192) :
    Runs (.firstFullMeasurement g errs) s fun t => t.blocking.calDone = s.blocking.calDone ++ [g.val]
      ∧ t.get F.blockGroup_CAL_COUNT g = satAdd (s.get F.blockGroup_CAL_COUNT g) 1 F.blockGroup_CAL_COUNT.width
      ∧ t.get F.blockGroup_LAST_CAL_TIME g = s.wall ∧ t.blocking.taps = s.blocking.taps := by
  obtain ⟨v, hv⟩ : ∃ v, v = errs.zipIdx.foldl (fun s e => s.measureTrim g e.2 e.1) s.fresh := ⟨_, rfl⟩
  have hw : v.trimsWithin g 192 = true := hv ▸ s.fresh.fullMeasurement_within hn he
  have k : Measured s.fresh v g := hv ▸ State.measureTrims_measured g _ _
  have e : exec (.firstFullMeasurement g errs) s = .next (v.completeGroup g) := by
    have hg : (s.fresh.mode = .calibrate && s.fresh.blockingRuns && errs.length = trimCount g
        && !s.fresh.blocking.calDone.contains g.val) = true := by
      have hb : s.fresh.blockingRuns = true := by simp [State.blockingRuns, hm, hc]
      simp only [State.fresh_mode, State.fresh_blocking, hm, hb, hn, hd]
      rfl
    subst hv
    exact congrArg Host.Outcome.next ((if_pos hg).trans (if_pos hw))
  obtain ⟨c1, c2, -⟩ := v.completeGroup_get g
  obtain ⟨x, y, hb⟩ := k.blocking
  have hk : v.mode = .calibrate := (k.only .mode (by decide)).trans hm
  have hwall : v.wall = s.wall := congrArg BitVec.toNat (k.only .wall (by decide)).1
  refine ⟨_, e, ?_, ?_, c2.trans hwall, ?_⟩
  · rw [State.completeGroup_blocking, if_pos hk, hb]
    rfl
  · rw [c1, k.get _ (by decide) (by decide), State.fresh_get]
  · rw [State.completeGroup_blocking, hb]
    rfl

/-- Settles O35: the rows of Blocking, from what a measurement, a step and a completed calibration leave of a group. -/
theorem blockingEffects : Obligations.BlockingEffects := by
  refine ⟨fun m s h => h.query rfl rfl, fun m s h => ?_, fun g trim err s hr ht =>
    ⟨fun hn => blockingStep_measures hr ht hn, fun hn => blockingStep_steps hr ht hn⟩,
    fun g errs s hm hc hn hd he => firstFullMeasurement_completes hm hc hn hd he⟩
  refine h.done rfl rfl (State.putFlag_mailbox _ _ _ _ _) ⟨?_, ?_, fun k hk => ?_⟩
  · unfold State.tapTarget
    rw [State.putFlag_blocking]
    exact SMap.read_write_self _ _ _ _
  · rw [State.putFlag_blocking]
    rfl
  · rw [State.putFlag_blocking]
    exact SMap.read_write_ne _ _ _ _ hk

end Sys2Proof
end

section
namespace Sys2Proof
open Machine
namespace Machine

/-! ### Tiles that enter a shot (R63, R195, R201, R439) -/

theorem image_setImage_kept (s : State) (r : Rec) {i k : Nat} (v : Nat) (h : k ≠ i) (hi : i < r.place.count)
    (hk : k < r.place.count) : (s.setImage r i v).image r k = s.image r k :=
  State.image_setImage_index s r v (by rw [Nat.mod_eq_of_lt hi, Nat.mod_eq_of_lt hk]; exact Ne.symm h)

/-- The run state of a tile that enters a shot: RUNNING, or STOOD_DOWN where it stood down before the base. -/
def TileRun.entryState (r : TileRun) : Nat := if r.stoodDown.isSome then 2 else 1

/-- A tile marks that it is in a shot. -/
def State.markShot (s : State) (t seq : Nat) : State :=
  ((s.setTile t { s.tile t with inShot := true, latches := [] }).put F.runStatus_SHOT_SEQ t seq).put
    F.runStatus_RUN_STATE t (s.tile t).entryState

theorem State.markShot_done (s : State) {t : Nat} (seq : Nat) (ht : t < 16) :
    (s.markShot t seq).tile t = { s.tile t with inShot := true, latches := [] }
    ∧ (∀ k, k ≠ t → (s.markShot t seq).tile k = s.tile k) ∧ (∀ k, (s.markShot t seq).group k = s.group k)
    ∧ (s.markShot t seq).get F.runStatus_SHOT_SEQ t = seq % 2 ^ 32
    ∧ (s.markShot t seq).get F.runStatus_RUN_STATE t = (s.tile t).entryState
    ∧ (∀ k < 16, k ≠ t → (s.markShot t seq).image .runStatus k = s.image .runStatus k)
    ∧ Grows s (s.markShot t seq) := by
  unfold State.markShot
  refine ⟨?_, fun k hk => ?_, fun k => ?_, ?_, ?_, fun k hk hkt => ?_, ?_⟩
  · rw [State.put_tile, State.put_tile, State.tile_setTile]
  · rw [State.put_tile, State.put_tile, State.tile_setTile_ne _ _ hk]
  · rw [State.put_group, State.put_group]
    rfl
  · rw [State.get_put_other _ (by decide), State.get_put]
    rfl
  · refine State.get_put_of_lt _ _ _ ?_
    unfold TileRun.entryState
    split <;> decide
  · exact (image_setImage_kept _ .runStatus _ hkt ht hk).trans (image_setImage_kept _ .runStatus _ hkt ht hk)
  · have o : Only [.runs, .image .runStatus] s (s.markShot t seq) :=
      State.put_only (by decide) (State.put_only (by decide) (State.setTile_only (by decide) (Only.refl _ s)))
    exact Grows.of_only o (by decide) (by decide)

/-- The parts that a shot that begins on a tile changes besides: its outputs, the shadows served, and its log. -/
def shotBeginParts : List Part :=
  [.drive, .shadows, .image .timingSet, .image .driveTone, .image .probeTone, .image .acqTone, .image .biasIir,
    .image .biasFir, .image .histConfig, .image .model, .loaded, .image .matrixControl, .weights, .image .weightControl,
    .readout, .bins, .image .histStatus, .image .xyStatus, .image .biasStatus, .bias, .blocking, .acq]

/-- The outputs of a tile begin on a shot, and its log of it is opened. -/
def State.beginShot (s : State) (t seq base : Nat) (down : Bool) : State :=
  let s := (s.boundary t (base - 16 * Config.switchLead)).startTones t base
  ((if down then s else s.releaseTile t).newSegment t base).openLog t seq

theorem State.beginShot_only (s : State) (t seq base : Nat) (down : Bool) :
    Only shotBeginParts s (s.beginShot t seq base down) := by
  have h : Only shotBeginParts s ((s.boundary t (base - 16 * Config.switchLead)).startTones t base) :=
    State.startTones_only (by decide) (State.boundary_only (by decide) (Only.refl _ s))
  exact State.openLog_only (by decide) (State.newSegment_only (by decide)
    (Only.ite h (State.releaseTile_only (by decide) h)))

theorem State.enterShot_split (s : State) (t seq : Nat) (cause : Option (Nat × Nat)) : ∃ v : State,
    v = ((s.markShot t seq).beginShot t seq (s.tile t).base (s.tile t).stoodDown.isSome).raiseFrom (seqSource t 5) 0 0 cause
      ∧ s.enterShot t seq cause = if (s.tile t).stoodDown.isSome then v else v.raise (seqSource t 7) := ⟨_, rfl, rfl⟩

theorem Grows.put (s : State) (f : Field) (i v : Nat) : Grows s (s.put f i v) := Grows.of_eq rfl rfl

theorem Grows.raiseFrom (s : State) (src p f : Nat) (cause : Option (Nat × Nat)) : Grows s (s.raiseFrom src p f cause) := by
  unfold State.raiseFrom
  split
  · exact Grows.raise _ _ _ _ _
  · split
    · exact Grows.raise _ _ _ _ _
    · extract_lets a b c
      have h : Grows s c := (Grows.raise s 1139 0 0 0).trans ((Grows.put _ _ _ _).trans ((Grows.put _ _ _ _).trans
        (Grows.report _ _ _ _ _ _)))
      clear_value c
      split
      · exact h
      · exact h.trans (Grows.put _ _ _ _)

/-- Tile `i` has entered the shot `seq`, which no event has caused where `cause` is none. -/
structure Entered (s u : State) (seq : Nat) (cause : Option (Nat × Nat)) (i : Nat) : Prop where
  tile : u.tile i = { s.tile i with inShot := true, latches := [] }
  seq : u.get F.runStatus_SHOT_SEQ i = seq % 2 ^ 32
  state : u.get F.runStatus_RUN_STATE i = (s.tile i).entryState
  base : cause = none → Raised s u (seqSource i 5) 0 0
  segment : cause = none → (s.tile i).stoodDown = none → Raised s u (seqSource i 7) 0 0

/-- From `s` to `u` tile `i` and its run record stand. -/
def TileStands (s u : State) (i : Nat) : Prop := u.tile i = s.tile i ∧ u.image .runStatus i = s.image .runStatus i

theorem TileStands.of_only {ps : List Part} {s u : State} (h : Only ps s u) (h1 : Part.runs ∉ ps)
    (h2 : Part.image .runStatus ∉ ps) (i : Nat) : TileStands s u i := ⟨tile_of_only h h1 i, h.image h2 i⟩

theorem TileStands.get {s u : State} {i : Nat} (h : TileStands s u i) {f : Field} (hf : f.record = .runStatus) :
    u.get f i = s.get f i := by
  unfold State.get
  rw [hf, h.2]

/-- What stands before and grows after leaves a tile entered. -/
theorem Entered.extend {s t u v : State} {seq : Nat} {cause : Option (Nat × Nat)} {i : Nat} (h : Entered t u seq cause i)
    (hs : t.tile i = s.tile i) (hu : TileStands u v i) (g : Grows u v) : Entered s v seq cause i := by
  refine ⟨?_, ?_, ?_, fun hc => (h.base hc).grow g, fun hc hd => (h.segment hc (by rw [hs]; exact hd)).grow g⟩
  · rw [hu.1, h.tile, hs]
  · rw [hu.get rfl, h.seq]
  · rw [hu.get rfl, h.state, hs]

/-- One tile enters a shot, and no other tile does anything. -/
theorem State.enterShot_done (s : State) {t : Nat} (seq : Nat) (cause : Option (Nat × Nat)) (ht : t < 16) :
    Entered s (s.enterShot t seq cause) seq cause t ∧ (∀ k < 16, k ≠ t → TileStands s (s.enterShot t seq cause) k)
    ∧ (∀ k, (s.enterShot t seq cause).group k = s.group k) ∧ Grows s (s.enterShot t seq cause) := by
  obtain ⟨m1, m2, m3, m4, m5, m6, m7⟩ := s.markShot_done seq ht
  obtain ⟨v, hv, e⟩ := s.enterShot_split t seq cause
  have ob := (s.markShot t seq).beginShot_only t seq (s.tile t).base (s.tile t).stoodDown.isSome
  generalize s.markShot t seq = a at *
  generalize a.beginShot t seq (s.tile t).base (s.tile t).stoodDown.isSome = b at *
  have ov : Only [.out, .hatband, .image .hatbandControl, .log, .image .logStatus, .image .channel] b v :=
    hv ▸ State.raiseFrom_only (by decide) (Only.refl _ b)
  have gv : Grows s v := m7.trans ((Grows.of_only ob (by decide) (by decide)).trans (hv ▸ Grows.raiseFrom _ _ _ _ _))
  have r5 : cause = none → Raised s v (seqSource t 5) 0 0 := fun hc => by
    rw [hv, hc]
    exact Raised.raise _ _ _
  have st : ∀ k, TileStands a v k := fun k =>
    ⟨(tile_of_only ov (by decide) k).trans (tile_of_only ob (by decide) k),
      (ov.image (by decide) k).trans (ob.image (by decide) k)⟩
  have sg : ∀ k, v.group k = s.group k := fun k =>
    (group_of_only ov (by decide) k).trans ((group_of_only ob (by decide) k).trans (m3 k))
  have key : ∀ u : State, (∀ k, TileStands v u k) → (∀ k, u.group k = v.group k) → Grows v u →
      ((s.tile t).stoodDown = none → Raised s u (seqSource t 7) 0 0) →
      Entered s u seq cause t ∧ (∀ k < 16, k ≠ t → TileStands s u k) ∧ (∀ k, u.group k = s.group k) ∧ Grows s u := by
    intro u hu hg gu r7
    refine ⟨⟨?_, ?_, ?_, fun hc => (r5 hc).grow gu, fun _ hd => r7 hd⟩, fun k hk hkt => ⟨?_, ?_⟩,
      fun k => (hg k).trans (sg k), gv.trans gu⟩
    · rw [(hu t).1, (st t).1, m1]
    · rw [(hu t).get rfl, (st t).get rfl, m4]
    · rw [(hu t).get rfl, (st t).get rfl, m5]
    · rw [(hu k).1, (st k).1, m2 k hkt]
    · rw [(hu k).2, (st k).2, m6 k hk hkt]
  rw [e]
  cases hd : (s.tile t).stoodDown with
  | some d => exact key v (fun _ => ⟨rfl, rfl⟩) (fun _ => rfl) (Grows.refl v) fun h => absurd (hd.symm.trans h) (by simp)
  | none => exact key _ (fun _ => ⟨rfl, rfl⟩) (fun _ => rfl) (Grows.raise _ _ _ _ _) fun _ => Raised.raise _ _ _

/-- Every tile of a list enters a shot. -/
theorem State.enterShots_done (seq : Nat) (cause : Option (Nat × Nat)) : ∀ (l : List Nat) (s u : State), l.Nodup →
    (∀ i ∈ l, i < 16) → u = l.foldl (fun s t => s.enterShot t seq cause) s →
      (∀ i ∈ l, Entered s u seq cause i) ∧ (∀ k < 16, k ∉ l → TileStands s u k) ∧ (∀ k, u.group k = s.group k) ∧ Grows s u
  | [], s, u, _, _, hu => by
    subst hu
    exact ⟨fun i hi => absurd hi List.not_mem_nil, fun _ _ _ => ⟨rfl, rfl⟩, fun _ => rfl, Grows.refl _⟩
  | a :: l, s, u, hn, hl, hu => by
    have ha : a < 16 := hl a (List.mem_cons_self ..)
    obtain ⟨hal, hn⟩ := List.nodup_cons.mp hn
    obtain ⟨e1, e2, e3, e4⟩ := s.enterShot_done seq cause ha
    obtain ⟨k1, k2, k3, k4⟩ := State.enterShots_done seq cause l (s.enterShot a seq cause) u hn
      (fun i hi => hl i (List.mem_cons_of_mem _ hi)) hu
    refine ⟨fun i hi => ?_, fun k hk hkl => ?_, fun k => (k3 k).trans (e3 k), e4.trans k4⟩
    · rcases List.mem_cons.mp hi with rfl | hi
      · exact e1.extend rfl (k2 _ ha hal) k4
      · have hne : i ≠ a := fun h => hal (h ▸ hi)
        exact (k1 i hi).extend (e2 i (hl i (List.mem_cons_of_mem _ hi)) hne).1 ⟨rfl, rfl⟩ (Grows.refl u)
    · obtain ⟨x1, x2⟩ := e2 k hk fun h => hkl (h ▸ List.mem_cons_self ..)
      obtain ⟨y1, y2⟩ := k2 k hk fun h => hkl (List.mem_cons_of_mem _ h)
      exact ⟨y1.trans x1, y2.trans x2⟩

/-- A group that stands at its base, and whose tiles are all prepared, starts its shot. -/
theorem State.startShot_done {s : State} {g : Nat} {x : RunGroup} (hx : x = s.group g) (hb : s.si < x.base + 16)
    (hp : ∀ i ∈ s.members g, (s.tile i).prepared = true) {seq : Nat} (hs : seq = if x.started then x.seq + 1 else x.seq)
    {u : State} (hu : u = s.startShot g) :
    u.group g = { x with inShot := true, seq, started := true, startLatch := none, startHops := none }
    ∧ ∀ i ∈ s.members g, Entered s u seq x.startHops i := by
  obtain ⟨v, hv⟩ : ∃ v, v = s.setGroup g { x with
    inShot := true, seq, started := true, startLatch := none, startHops := none } := ⟨_, rfl⟩
  have hr : s.rebase g = s := if_neg (by rw [← hx]; omega)
  have hf : ∀ l : List Nat, (∀ i ∈ l, (s.tile i).prepared = true) →
      l.foldl (fun s t => if (s.tile t).prepared then s else s.prepareTile g t) s = s := by
    intro l
    induction l with
    | nil => exact fun _ => rfl
    | cons a l ih =>
      intro h
      rw [List.foldl_cons, if_pos (h a (List.mem_cons_self ..))]
      exact ih fun i hi => h i (List.mem_cons_of_mem _ hi)
  have hg : v.group g = _ := hv ▸ State.group_setGroup _ _ _
  have hm : v.members g = s.members g := by
    unfold State.members
    rw [hg, hx]
  have e : u = (v.members g).foldl (fun s t => s.enterShot t seq x.startHops) v := by
    rw [hu, hv, hs, hx]
    unfold State.startShot
    dsimp only
    rw [hr, hf _ hp]
  rw [hm] at e
  obtain ⟨k1, -, k3, -⟩ := State.enterShots_done seq x.startHops _ v u (bitList_nodup _ _) (fun i => bitList_lt) e
  exact ⟨(k3 g).trans hg, fun i hi => (k1 i hi).extend (by rw [hv]; rfl) ⟨rfl, rfl⟩ (Grows.refl u)⟩

end Machine

/-- SHOT_START of a group at its base (R201, R439). -/
theorem shotStart_effects {g : Fin 16} {s : State} {x : RunGroup} (hx : x = s.group g) (h1 : x.state = .running)
    (h2 : x.inShot = false) (h3 : x.awaitStart = false) (h4 : x.base ≤ s.si) (h5 : s.si < x.base + 16)
    (h6 : s.startBlocked g = false) (hp : ∀ i ∈ s.members g, (s.tile i).prepared = true) :
    Runs (.shotStart g) s fun t =>
      t.group g = { x with
        inShot := true, seq := if x.started then x.seq + 1 else x.seq, started := true, startLatch := none
        startHops := none }
      ∧ ∀ i ∈ s.members g, t.tile i = { s.tile i with inShot := true, latches := [] }
        ∧ t.get F.runStatus_SHOT_SEQ i = (if x.started then x.seq + 1 else x.seq) % 2 ^ 32
        ∧ t.get F.runStatus_RUN_STATE i = (if (s.tile i).stoodDown.isSome then 2 else 1)
        ∧ (x.startHops = none → Raised s t (seqSource i 5) 0 0
          ∧ ((s.tile i).stoodDown = none → Raised s t (seqSource i 7) 0 0)) := by
  have e : exec (.shotStart g) s = .next (s.fresh.startShot g) := by
    have hc : ((s.fresh.group g).state = .running && !(s.fresh.group g).inShot && !(s.fresh.group g).awaitStart
        && (s.fresh.group g).base ≤ s.fresh.si && !s.fresh.startBlocked g) = true := by
      have h6' : s.fresh.startBlocked g = false := h6
      simp [← hx, h1, h2, h3, h4, h6']
    exact congrArg Host.Outcome.next (if_pos hc)
  obtain ⟨k1, k2⟩ := State.startShot_done (s := s.fresh) hx h5 hp rfl rfl
  refine ⟨_, e, k1, fun i hi => ?_⟩
  obtain ⟨a, b, c, d, f⟩ := k2 i hi
  exact ⟨a, b, c, fun hc => ⟨d hc, f hc⟩⟩

end Sys2Proof
end

section
namespace Sys2Proof
open Machine
namespace Machine

/-! ### Tiles that are between shots (R141, R200, R202) -/

/-- A tile that is between shots. -/
def TileRun.left (r : TileRun) : TileRun := { r with inShot := false, prepared := false, voided := false, jump := none }

theorem State.leaveTile_done (s : State) (t : Nat) : (s.leaveTile t).tile t = (s.tile t).left
    ∧ (∀ k, k ≠ t → (s.leaveTile t).tile k = s.tile k) ∧ ∀ k, (s.leaveTile t).group k = s.group k := by
  obtain ⟨d1, d2, -, -⟩ := State.dropJump_done (s.endLogs t) t
  have d3 := State.dropJump_group (s.endLogs t) t
  unfold State.leaveTile
  generalize (s.endLogs t).dropJump t = a at *
  refine ⟨?_, fun k hk => ?_, fun k => d3 k⟩
  · rw [State.tile_setTile]
    exact congrArg (fun r : TileRun => { r with inShot := false, prepared := false, voided := false }) d1
  · rw [State.tile_setTile_ne _ _ hk]
    exact d2 k hk

theorem State.leaveShot_done (s : State) (g : Nat) : (∀ i ∈ s.members g, (s.leaveShot g).tile i = (s.tile i).left)
    ∧ ∀ k, (s.leaveShot g).group k = s.group k := by
  refine ⟨(foldl_each State.tile State.leaveTile TileRun.left (fun s t => (s.leaveTile_done t).1)
    (fun s t u hu => (s.leaveTile_done t).2.1 u hu) _ s (bitList_nodup _ _)).1, fun k => ?_⟩
  have h : ∀ (l : List Nat) (s : State), (l.foldl State.leaveTile s).group k = s.group k := by
    intro l
    induction l with
    | nil => exact fun _ => rfl
    | cons a l ih => exact fun s => (ih _).trans ((s.leaveTile_done a).2.2 k)
  exact h _ s

/-- Without a patch that waits no engine is stopped between shots. -/
theorem State.stopEngines_none {s : State} (h : s.upload.patchSince = none) : s.stopEngines = s := by
  refine List.foldl_fixed' (fun e => if_neg ?_) _
  rw [h]
  simp

/-! ### A shot of a group that ends (R202, R206) -/

/-- The next base of a group whose shot has ended at tick `e`, `n` the gap in ticks. -/
def RunGroup.closed (x : RunGroup) (e n : Nat) : RunGroup :=
  { x with
    inShot := false, shotVoid := false, lateLogged := false, barriers := [], startHops := none
    base := x.base + 16 * (e + n), awaitStart := x.startEvc.isSome }

/-- The tiles of a group have left a shot, and its next base is set. -/
def State.betweenShots (s : State) (g e : Nat) : State :=
  ((s.leaveShot g).resumeCapture).setGroup g ((s.group g).closed e ((s.group g).gap * s.gapFactor))

theorem State.leaveShot_group (s : State) (g : Nat) : ∃ v : State, v = (s.leaveShot g).resumeCapture
    ∧ Only [.image .capStatus, .capture, .out, .hatband, .image .runStatus, .runs, .acq, .engines] s v
    ∧ (∀ i ∈ s.members g, v.tile i = (s.tile i).left) ∧ ∀ k, v.group k = s.group k := by
  obtain ⟨h1, h2⟩ := s.leaveShot_done g
  have o : Only [.image .capStatus, .capture] (s.leaveShot g) (s.leaveShot g).resumeCapture :=
    State.resumeCapture_only (by decide) (Only.refl _ _)
  exact ⟨_, rfl, State.resumeCapture_only (by decide) (State.leaveShot_only (by decide) (Only.refl _ s)),
    fun i hi => (tile_of_only o (by decide) i).trans (h1 i hi), fun k => (group_of_only o (by decide) k).trans (h2 k)⟩

theorem State.gapFactor_of_only {ps : List Part} {s t : State} (h : Only ps s t) (h1 : Part.image .powerStatus ∉ ps)
    (h2 : Part.image .thermalControl ∉ ps) : t.gapFactor = s.gapFactor := by
  unfold State.gapFactor
  rw [h.get h1, h.get h2]

theorem State.betweenShots_done (s : State) (g e : Nat) {v : State} (hv : v = s.betweenShots g e) :
    v.group g = (s.group g).closed e ((s.group g).gap * s.gapFactor) ∧ v.members g = s.members g
    ∧ (∀ i ∈ s.members g, v.tile i = (s.tile i).left) ∧ v.upload = s.upload := by
  obtain ⟨a, ha, o, h1, h2⟩ := s.leaveShot_group g
  have hva : v = a.setGroup g ((s.group g).closed e ((s.group g).gap * s.gapFactor)) := by
    rw [hv, ha]
    rfl
  have hg := State.group_setGroup a g ((s.group g).closed e ((s.group g).gap * s.gapFactor))
  rw [hva]
  refine ⟨hg, ?_, fun i hi => h1 i hi, o .upload (by decide)⟩
  unfold State.members
  rw [hg]
  rfl

/-- What a group whose shot has ended comes to: its run ends, it waits to resume, or its next shot follows. -/
theorem State.closeShot_split (s : State) (g e : Nat) : s.closeShot g e =
    if s.runOver g then (s.betweenShots g e).endRun g
    else if !(s.group g).missing.isEmpty then
      (((s.members g).foldl (fun s t => s.put F.runStatus_RUN_STATE t 3)
        ((s.betweenShots g e).setGroup g { (s.betweenShots g e).group g with state := .waitResume }))).stopEngines
    else ((s.betweenShots g e).armStart g).stopEngines := by
  obtain ⟨a, ha, o, h1, h2⟩ := s.leaveShot_group g
  have hf : a.gapFactor = s.gapFactor := State.gapFactor_of_only o (by decide) (by decide)
  have hb : s.betweenShots g e = a.setGroup g ((a.group g).closed e ((a.group g).gap * a.gapFactor)) := by
    rw [h2, hf, ha]
    rfl
  have hm : ((s.betweenShots g e).setGroup g
      { (s.betweenShots g e).group g with state := .waitResume }).members g = s.members g := by
    rw [State.setGroup_members _ (by rfl)]
    exact (s.betweenShots_done g e rfl).2.1
  rw [← hm, hb, ← h2, ha]
  rfl

/-- No command waits any more for the end of a run that has ended. -/
theorem State.endRun_waits (s : State) (g : Nat) : ∀ d ∈ (s.endRun g).host.deferred, d.wait ≠ .runStop g := by
  intro d hd
  unfold State.endRun at hd
  simpa using (State.finishAll_gone _ _ _ _ hd).2

/-! ### A shot that overruns (R32) -/

/-- The overrun of a tile's shot is told. -/
def State.overrunNoted (s : State) (t : Nat) : State :=
  (s.raise (seqSource t 3)).report 20 false (seqSource t 3) t ((s.raise (seqSource t 3)).shotOf t)

theorem State.overrunNoted_done (s : State) (t : Nat) : Raised s (s.overrunNoted t) (seqSource t 3) 0 0
    ∧ Reported s (s.overrunNoted t) 20 ∧ Only [.log, .image .logStatus, .out, .hatband] s (s.overrunNoted t) :=
  ⟨(Raised.raise _ _ _).grow (Grows.report _ _ _ _ _ _), Reported.report _ _ _ _ _ rfl,
    State.report_only (by decide) (State.raise_only (by decide) (Only.refl _ s))⟩

/-- Voiding a shot sends nothing. -/
theorem Grows.voidShot (s : State) (t : Nat) : Grows s (s.voidShot t) :=
  Grows.of_only (State.voidShot_only (List.Subset.refl _) (Only.refl _ s)) (by decide) (by decide)

/-! ### Jump requests (R200) -/

/-- A jump request comes late: less than 6 ticks before the switch point, or after it and before its boundary. -/
def State.jumpLate (s : State) (t : Nat) : Bool :=
  s.playsShot t && ((s.tile t).chosen.isSome || decide ((s.segmentEnd t : Int) < s.tick t + Config.switchLead + 6))

/-- The oldest request has reached the tile. -/
def State.takeRequest (s : State) (t : Nat) (rest : List Jump) : State := s.setTile t { s.tile t with jumps := rest }

theorem State.jumpLate_takeRequest (s : State) (t : Nat) (rest : List Jump) :
    (s.takeRequest t rest).jumpLate t = s.jumpLate t := by
  have h : (s.takeRequest t rest).tile t = { s.tile t with jumps := rest } := State.tile_setTile _ _ _
  unfold State.jumpLate State.playsShot State.segmentEnd State.tick
  rw [h]
  rfl

theorem exec_jumpRequest {t : Fin 16} {s : State} {j : Jump} {rest : List Jump} (h : (s.tile t).jumps = j :: rest) :
    exec (.jumpRequest t) s = .next ((s.fresh.takeRequest t rest).takeJump t j) := by
  change execJumpRequest t s = _
  unfold execJumpRequest
  simp only [State.fresh_tile, h]
  rfl

/-- A late request is dropped under DROP. -/
theorem State.takeJump_drops {s : State} {t : Nat} {j : Jump} (h : s.jumpLate t = true)
    (hd : s.flag F.program_JUMP_LATE t = true) :
    s.takeJump t j = (s.count F.runStatus_JUMP_DROP t).raise (seqSource t 8) :=
  if_pos (by
    show (s.jumpLate t && _) = true
    rw [h, hd]
    rfl)

/-- Every other request becomes the pending one. -/
theorem State.takeJump_takes {s : State} {t : Nat} {j : Jump} (h : s.jumpLate t = false ∨ s.flag F.program_JUMP_LATE t = false)
    {u : State} (hu : u = s.takeJump t j) :
    u.tile t = { s.tile t with jump := some { j with deferred := s.jumpLate t && (s.tile t).chosen.isNone } }
    ∧ ((s.tile t).jump.isSome = true → u.get F.runStatus_JUMP_REPLACED t =
      satAdd (s.get F.runStatus_JUMP_REPLACED t) 1 F.runStatus_JUMP_REPLACED.width)
    ∧ (s.jumpLate t = true → u.get F.runStatus_JUMP_DEFER t =
      satAdd (s.get F.runStatus_JUMP_DEFER t) 1 F.runStatus_JUMP_DEFER.width) := by
  obtain ⟨a, ha⟩ : ∃ a, a = if (s.tile t).jump.isSome then s.count F.runStatus_JUMP_REPLACED t else s := ⟨_, rfl⟩
  obtain ⟨b, hb⟩ : ∃ b, b = if s.jumpLate t then a.count F.runStatus_JUMP_DEFER t else a := ⟨_, rfl⟩
  have e : u = b.setTile t { b.tile t with
      jump := some { j with deferred := s.jumpLate t && (s.tile t).chosen.isNone } } := by
    rw [hu, hb, ha]
    refine if_neg ?_
    show ¬ (s.jumpLate t && s.flag F.program_JUMP_LATE t) = true
    rcases h with h | h <;> rw [h] <;> simp
  have at_ : a.tile t = s.tile t := by
    rw [ha]
    split <;> rfl
  have bt : b.tile t = s.tile t := by
    rw [hb, ← at_]
    split <;> rfl
  rw [e]
  refine ⟨?_, fun hj => ?_, fun hl => ?_⟩
  · rw [State.tile_setTile, bt]
  · rw [State.setTile_get, hb, ha, if_pos hj]
    split
    · rw [State.get_count_other _ (by decide), State.get_count]
    · rw [State.get_count]
  · rw [State.setTile_get, hb, if_pos hl, State.get_count, ha]
    split
    · rw [State.get_count_other _ (by decide)]
    · rfl

end Machine

/-- A shot that overruns (R32): reported, voided and ended. -/
theorem shotOverrun_effects {t : Fin 16} {s : State} (hp : s.playsShot t = true) (ht : 0xFFFFFFFF ≤ s.tick t) :
    Runs (.shotOverrun t) s fun u => Raised s u (seqSource t 3) 0 0 ∧ Reported s u 20
      ∧ (u.tile t).endTick = some 0xFFFFFFFF ∧ Raised s u (seqSource t 6) 0 0
      ∧ ∀ g, (s.tile t).group = some g → (s.group g).inShot = true → t.val ∈ s.members g → (u.tile t).voided = true := by
  have e : exec (.shotOverrun t) s = .next (((s.fresh.overrunNoted t).voidShot t).endTile t 0xFFFFFFFF) := by
    have hc : (s.fresh.playsShot t && decide (0xFFFFFFFF ≤ s.fresh.tick t)) = true := by
      rw [show s.fresh.playsShot t = true from hp, decide_eq_true (show 0xFFFFFFFF ≤ s.fresh.tick t from ht)]
      rfl
    exact congrArg Host.Outcome.next (if_pos hc)
  obtain ⟨h1, h2, o⟩ := s.fresh.overrunNoted_done t
  generalize s.fresh.overrunNoted t = a at *
  have ov : Only [.runs, .image .runStatus, .acq] a (a.voidShot t) := State.voidShot_only (by decide) (Only.refl _ a)
  have hv := (a.voidShot_done t).2
  have g1 := Grows.voidShot a t
  generalize a.voidShot t = b at *
  obtain ⟨k1, -, k3, k4⟩ := b.endTile_done t 0xFFFFFFFF
  have oe := State.endTile_only (t := t) (tick := 0xFFFFFFFF) (List.Subset.refl _) (Only.refl _ b)
  refine ⟨_, e, (h1.grow g1).grow k4, (h2.only ov (by decide)).only oe (by decide), ?_, k3, fun g hg hi hm => ?_⟩
  · rw [k1]
  · rw [k1]
    have hs : (a.tile t).group = some g := (congrArg TileRun.group (tile_of_only o (by decide) t)).trans hg
    have hb : (a.group g).inShot = true := (congrArg RunGroup.inShot (group_of_only o (by decide) g)).trans hi
    exact (hv g hs (.inl hb)).2 t ((State.members_of_only o (by decide) g).symm ▸ hm) (by rw [hs]; rfl)

/-- A shot of a group that is over. -/
theorem exec_shotEndBoundary {g : Fin 16} {s : State} {e : Nat} (he : s.shotEnd g = some e) (h1 : (s.group g).state = .running)
    (h2 : (s.group g).inShot = true) (h3 : (s.group g).base + 16 * e ≤ s.si) :
    exec (.shotEndBoundary g) s = .next (s.fresh.closeShot g e) := by
  change execShotEndBoundary g s = _
  have he' : s.fresh.shotEnd g = some e := he
  unfold execShotEndBoundary
  simp only [he']
  exact congrArg Host.Outcome.next (if_pos (by simp [h1, h2, h3]))

/-- The shot that ends is the last of its run (R202, R206). -/
theorem shotEndBoundary_ends {g : Fin 16} {s : State} {e : Nat} (he : s.shotEnd g = some e)
    (h1 : (s.group g).state = .running) (h2 : (s.group g).inShot = true) (h3 : (s.group g).base + 16 * e ≤ s.si)
    (ho : s.runOver g = true) : Runs (.shotEndBoundary g) s fun t => (t.group g).state = .idle
      ∧ (∀ i ∈ s.members g, (t.tile i).group = none) ∧ ∀ d ∈ t.host.deferred, d.wait ≠ .runStop g := by
  obtain ⟨-, b2, -, -⟩ := s.fresh.betweenShots_done g e rfl
  obtain ⟨k1, k2, -⟩ := (s.fresh.betweenShots g e).endRun_done g
  refine ⟨_, exec_shotEndBoundary he h1 h2 h3, ?_⟩
  rw [State.closeShot_split, if_pos (show s.fresh.runOver g = true from ho)]
  refine ⟨by rw [k1], fun i hi => k2 i ?_, State.endRun_waits _ _⟩
  rw [b2]
  exact hi

section goesOn

variable {g : Fin 16} {s : State} {e : Nat} (he : s.shotEnd g = some e) (h1 : (s.group g).state = .running)
  (h2 : (s.group g).inShot = true) (h3 : (s.group g).base + 16 * e ≤ s.si) (ho : s.runOver g = false)
  (hu : s.upload.patchSince = none)

include he h1 h2 h3 ho hu

/-- Another shot of the run follows at the next base. -/
theorem shotEndBoundary_follows (hl : (s.group g).startLatch = none) (hm : (s.group g).missing = []) :
    Runs (.shotEndBoundary g) s fun t =>
      t.group g = { s.group g with
        inShot := false, shotVoid := false, lateLogged := false, barriers := [], startHops := none
        base := (s.group g).base + 16 * (e + (s.group g).gap * s.gapFactor), awaitStart := (s.group g).startEvc.isSome }
      ∧ ∀ i ∈ s.members g, t.tile i = { s.tile i with inShot := false, prepared := false, voided := false, jump := none } := by
  obtain ⟨b1, -, b3, b4⟩ := s.fresh.betweenShots_done g e rfl
  have ha : (s.fresh.betweenShots g e).armStart g = s.fresh.betweenShots g e := by
    have hn : ((s.fresh.betweenShots g e).group g).startLatch = none := by
      rw [b1]
      exact hl
    unfold State.armStart
    simp only [hn]
  refine ⟨_, exec_shotEndBoundary he h1 h2 h3, ?_⟩
  rw [State.closeShot_split, if_neg (by rw [show s.fresh.runOver g = false from ho]; decide),
    if_neg (by rw [State.fresh_group, hm]; decide), ha, State.stopEngines_none (by rw [b4]; exact hu)]
  exact ⟨b1, b3⟩

/-- The run waits to resume, with segments missing. -/
theorem shotEndBoundary_waits (hm : (s.group g).missing ≠ []) :
    Runs (.shotEndBoundary g) s fun t => (t.group g).state = .waitResume
      ∧ ∀ i ∈ s.members g, t.get F.runStatus_RUN_STATE i = 3 := by
  obtain ⟨-, -, -, b4⟩ := s.fresh.betweenShots_done g e rfl
  refine ⟨_, exec_shotEndBoundary he h1 h2 h3, ?_⟩
  rw [State.closeShot_split, if_neg (by rw [show s.fresh.runOver g = false from ho]; decide),
    if_pos (by rw [State.fresh_group]; simpa using hm)]
  generalize hv : (s.fresh.betweenShots g e).setGroup g _ = v
  have hg : (v.group g).state = .waitResume := by rw [← hv, State.group_setGroup]
  have hp : v.upload.patchSince = none := by
    rw [← hv]
    exact (congrArg Upload.patchSince b4).trans hu
  have o : Only [.image .runStatus] v ((s.fresh.members g).foldl (fun s t => s.put F.runStatus_RUN_STATE t 3) v) :=
    Only.foldl (fun _ _ hx => State.put_only (by decide) hx) _ (Only.refl _ v)
  rw [State.stopEngines_none ((congrArg Upload.patchSince (o .upload (by decide))).trans hp)]
  exact ⟨by rw [group_of_only o (by decide), hg],
    fun i hi => get_foldl_put F.runStatus_RUN_STATE 3 (s.fresh.members g) v (fun t ht => bitList_lt ht) hi⟩

end goesOn

/-- Settles O41: a shot that starts, overruns or ends, and a jump request that reaches its tile. -/
theorem shotEffects : Obligations.ShotEffects := by
  refine ⟨fun g s x hx h1 h2 h3 h4 h5 h6 hp => shotStart_effects hx h1 h2 h3 h4 h5 h6 hp,
    fun t s hp ht => shotOverrun_effects hp ht, ?_, ?_⟩
  · rintro g s _ e rfl he h1 h2 h3
    exact ⟨fun ho => shotEndBoundary_ends he h1 h2 h3 ho, fun ho hu hl =>
      ⟨fun hm => shotEndBoundary_follows he h1 h2 h3 ho hu hl hm, fun hm => shotEndBoundary_waits he h1 h2 h3 ho hu hm⟩⟩
  · rintro t s j rest _ hj rfl
    have hl : (s.fresh.takeRequest t rest).jumpLate t = s.jumpLate t := State.jumpLate_takeRequest _ _ _
    have ht : (s.fresh.takeRequest t rest).tile t = { s.tile t with jumps := rest } := State.tile_setTile _ _ _
    have hf : ∀ f : Field, (s.fresh.takeRequest t rest).get f t = s.get f t := fun _ => rfl
    have hd : (s.fresh.takeRequest t rest).flag F.program_JUMP_LATE t = s.flag F.program_JUMP_LATE t := rfl
    have e := exec_jumpRequest hj
    generalize s.fresh.takeRequest t rest = v at *
    refine ⟨fun h1 h2 => ⟨_, e, ?_⟩, fun h => ⟨_, e, ?_⟩⟩
    · rw [State.takeJump_drops (hl.trans h1) (hd.trans h2)]
      refine ⟨ht, ?_, Raised.raise _ _ _⟩
      rw [State.raise_get, State.get_count, hf]
    · obtain ⟨k1, k2, k3⟩ := State.takeJump_takes (j := j) (h.imp hl.trans hd.trans) rfl
      rw [hl, ht] at k1
      rw [ht, hf] at k2
      rw [hl, hf] at k3
      exact ⟨k1, k2, k3⟩

end Sys2Proof
end

section
namespace Sys2Proof
open Machine
namespace Machine

/-! ### Checks of segments before they begin (R204, R205) -/

/-- The check of the coming shot's first segment is all that it changes. -/
theorem State.checkFirst_done (s : State) (t g : Nat) : ∃ f, (s.checkFirst t g).tile t = { s.tile t with first := f }
    ∧ Only [.runs] s (s.checkFirst t g) ∧ ∀ k, (s.checkFirst t g).group k = s.group k := by
  have o : Only [.runs] s (s.checkFirst t g) := State.checkFirst_only (by decide) (Only.refl _ s)
  unfold State.checkFirst at o ⊢
  dsimp only at o ⊢
  split
  · split
    · exact ⟨_, State.tile_setTile _ _ _, State.setTile_only (by decide) (Only.refl _ s), fun _ => rfl⟩
    · exact ⟨(s.tile t).first, rfl, Only.refl _ s, fun _ => rfl⟩
  · exact ⟨(s.tile t).first, rfl, Only.refl _ s, fun _ => rfl⟩

/-- The first segment of the coming shot is checked at its base − 64. -/
theorem State.checkFirst_checks {s : State} {t g b id : Nat} (hb : s.comingBase g = some b) (hl : s.listSegment t 0 = some id)
    (hf : (s.tile t).first = none) (hs : b ≤ s.si + 16 * Config.fetchLead) :
    s.checkFirst t g = s.setTile t { s.tile t with first := some (s.segment t id).resident } := by
  unfold State.checkFirst
  simp only [hb, hl]
  exact if_pos (by simp [hf, hs])

/-- A successor that is resident has been checked. -/
theorem State.checkFetch_resident {s : State} {t id : Nat} (h : (s.nextEntry t).1.bind (s.listSegment t) = some id)
    (hr : (s.segment t id).resident = true) :
    s.checkFetch t = s.setTile t { s.tile t with fetched := true, chosenSeg := some id } := by
  unfold State.checkFetch
  simp only [h]
  exact if_pos hr

/-- A successor that is not resident underruns. -/
theorem State.checkFetch_absent {s : State} {t id : Nat} (h : (s.nextEntry t).1.bind (s.listSegment t) = some id)
    (hr : (s.segment t id).resident = false) : s.checkFetch t = s.underrun t id := by
  unfold State.checkFetch
  simp only [h]
  exact if_neg (by rw [hr]; decide)

/-- In a shot: the successor is checked where that is due, and the coming shot's first segment. -/
theorem exec_segmentFetchDeadline_inShot {t : Fin 16} {s : State} {g : Nat} (hg : (s.tile t).group = some g)
    (hx : (s.group g).inShot = true) (ht : (s.tile t).inShot = true) : exec (.segmentFetchDeadline t) s = .next
      ((if s.playsShot t && (s.tile t).chosen.isNone && !(s.tile t).fetched
        && decide ((s.segmentEnd t : Int) ≤ s.tick t + Config.fetchLead) then s.fresh.checkFetch t else s.fresh).checkFirst t g) := by
  change execSegmentFetchDeadline t s = _
  unfold execSegmentFetchDeadline
  simp only [State.fresh_tile, hg, State.fresh_group, hx, ht]
  rfl

/-- Between shots: the engine begins on the coming shot. -/
theorem exec_segmentFetchDeadline_prepares {t : Fin 16} {s : State} {g : Nat} (hg : (s.tile t).group = some g)
    (h1 : (s.group g).state = .running) (h2 : (s.group g).inShot = false) (h3 : (s.tile t).prepared = false)
    (h4 : (s.group g).awaitStart = false) (h5 : s.startBlocked g = false)
    (h6 : (s.group g).base ≤ s.si + 16 * Config.fetchLead) :
    exec (.segmentFetchDeadline t) s = .next (s.fresh.prepareTile g t) := by
  change execSegmentFetchDeadline t s = _
  have h5' : s.fresh.startBlocked g = false := h5
  unfold execSegmentFetchDeadline
  simp only [State.fresh_tile, hg, State.fresh_group]
  exact congrArg Host.Outcome.next ((if_neg (by simp [h2])).trans (if_pos (by simp [h1, h2, h3, h4, h5', h6])))

/-! ### The coming shot (R190, R201) -/

/-- The tile on which the engine begins the coming shot at a base. -/
def TileRun.begun (r : TileRun) (base : Nat) : TileRun :=
  { r with
    base, prepared := true, segBase := 0, pc := 0, instances := 1, ended := false,
    chosen := none, chosenSeg := none, chosenHops := none, mark := 0, tsets := [], latches := [], inputs := [],
    acquires := 0, decisions := [], lastHop := none, emitAt := none, untilTick := none, barrier := none,
    stoodDown := none, last := false, endTick := none, fetched := false, first := none }

/-- The engine has begun on the coming shot, its counters clear. -/
def State.beginShotOf (s : State) (g t : Nat) : State :=
  (s.setTile t ((s.tile t).begun (s.group g).base)).clearCounters t 0 8

/-- The first segment of the coming shot is in play. -/
def State.playFirst (s : State) (t id : Nat) : State := (s.put F.runStatus_SEG_ID t id).put F.runStatus_LIST_POS t 0

theorem State.beginShotOf_done (s : State) (g t : Nat) {v : State} (hv : v = s.beginShotOf g t) :
    v.tile t = (s.tile t).begun (s.group g).base ∧ (∀ k, v.group k = s.group k)
    ∧ (∀ c < 8, v.getAt F.counters_CNT t c = 0) ∧ Only [.runs, .image .counters] s v := by
  have o : Only [.image .counters] (s.setTile t ((s.tile t).begun (s.group g).base)) v :=
    hv ▸ State.clearCounters_only (by decide) (Only.refl _ _)
  refine ⟨?_, fun k => ?_, fun c hc => ?_, hv ▸ State.clearCounters_only (by decide)
    (State.setTile_only (by decide) (Only.refl _ s))⟩
  · rw [tile_of_only o (by decide), State.tile_setTile]
  · exact group_of_only o (by decide) k
  · have h := State.getAt_puts F.counters_CNT t (fun _ => 0) (by decide)
      (s.setTile t ((s.tile t).begun (s.group g).base)) (j := c) 8
    rw [if_pos hc] at h
    rw [hv]
    unfold State.beginShotOf State.clearCounters
    simp only [Nat.zero_add]
    exact h

/-- An empty list has no entry 0 (R198). -/
theorem State.prepareTile_empty {s : State} {g t : Nat} (h : s.listSegment t 0 = none) :
    s.prepareTile g t = (s.beginShotOf g t).programFault t := by
  have hl : (s.beginShotOf g t).listSegment t 0 = none :=
    (congrFun (congrFun (listSegment_of_only (s.beginShotOf_done g t rfl).2.2.2 (by decide)) t) 0).trans h
  unfold State.beginShotOf TileRun.begun at hl
  unfold State.prepareTile
  simp only [hl]
  rfl

/-- The first segment underruns where it was not resident when it was checked, in the shot before or now. -/
theorem State.prepareTile_first {s : State} {g t id : Nat} (h : s.listSegment t 0 = some id) : s.prepareTile g t =
    if (s.tile t).first.getD (s.segment t id).resident then (s.beginShotOf g t).playFirst t id
    else ((s.beginShotOf g t).playFirst t id).underrun t id := by
  have o : Only [.runs, .image .counters, .image .runStatus] s ((s.beginShotOf g t).playFirst t id) :=
    State.put_only (by decide) (State.put_only (by decide) ((s.beginShotOf_done g t rfl).2.2.2.mono (by decide)))
  have hl : (s.beginShotOf g t).listSegment t 0 = some id :=
    (congrFun (congrFun (listSegment_of_only (s.beginShotOf_done g t rfl).2.2.2 (by decide)) t) 0).trans h
  rw [← segment_of_only o (by decide)]
  unfold State.beginShotOf TileRun.begun at hl
  unfold State.prepareTile
  simp only [hl]
  rfl

theorem State.playFirst_done (s : State) (t id : Nat) {v : State} (hv : v = s.playFirst t id) :
    v.tile t = s.tile t ∧ (∀ k, v.group k = s.group k)
    ∧ v.get F.runStatus_SEG_ID t = id % 2 ^ F.runStatus_SEG_ID.width ∧ v.get F.runStatus_LIST_POS t = 0
    ∧ v.get F.runStatus_UNDERRUN_COUNT t = s.get F.runStatus_UNDERRUN_COUNT t
    ∧ (∀ c, v.getAt F.counters_CNT t c = s.getAt F.counters_CNT t c)
    ∧ Only [.image .runStatus] s v := by
  have o : Only [.image .runStatus] s v := hv ▸ State.put_only (by decide) (State.put_only (by decide) (Only.refl _ s))
  refine ⟨tile_of_only o (by decide) t, group_of_only o (by decide), ?_, ?_, ?_, fun c => o.getAt (by decide) t c, o⟩
  · rw [hv, State.playFirst, State.get_put_other _ (by decide), State.get_put]
  · rw [hv]
    exact State.get_put _ _ _ _
  · rw [hv, State.playFirst, State.get_put_other _ (by decide), State.get_put_other _ (by decide)]

/-- What has been begun of the coming shot before its first segment is judged. -/
theorem State.beginFirst_done (s : State) (g t id : Nat) {v : State} (hv : v = (s.beginShotOf g t).playFirst t id) :
    v.tile t = (s.tile t).begun (s.group g).base ∧ (∀ k, v.group k = s.group k)
    ∧ v.get F.runStatus_SEG_ID t = id % 2 ^ F.runStatus_SEG_ID.width ∧ v.get F.runStatus_LIST_POS t = 0
    ∧ v.get F.runStatus_UNDERRUN_COUNT t = s.get F.runStatus_UNDERRUN_COUNT t
    ∧ (∀ c < 8, v.getAt F.counters_CNT t c = 0) ∧ v.log = s.log := by
  obtain ⟨b1, b2, b3, bo⟩ := s.beginShotOf_done g t rfl
  obtain ⟨p1, p2, p3, p4, p5, p6, po⟩ := (s.beginShotOf g t).playFirst_done t id hv
  exact ⟨p1.trans b1, fun k => (p2 k).trans (b2 k), p3, p4, p5.trans (bo.get (by decide) _),
    fun c hc => (p6 c).trans (b3 c hc), (po .log (by decide)).trans (bo .log (by decide))⟩

/-! ### The switch point (R199, R200) -/

/-- The tile whose successor is list entry `e` with segment `id`. -/
def TileRun.chose (r : TileRun) (e id : Nat) (jumped again : Bool) : TileRun :=
  { r with
    chosen := some (some e), chosenSeg := some id
    chosenHops := if jumped then r.jump.bind fun j => j.evc.map fun c => (j.hops, c) else none
    jump := if jumped then none else r.jump.map fun j => { j with deferred := false }
    pc := 0, ended := false, instances := if again then r.instances + 1 else 1 }

/-- A resident successor is chosen. -/
theorem State.choose_resident {s : State} {t e id : Nat} {j : Bool} (hn : s.nextEntry t = (some e, j))
    (hl : s.listSegment t e = some id) (hr : (s.segment t id).resident = true) :
    s.choose t = s.setTile t ((s.tile t).chose e id j (!j && e = s.get F.runStatus_LIST_POS t)) := by
  unfold State.choose
  simp only [hn]
  unfold State.takeSuccessor
  simp only [hl]
  refine if_pos ?_
  have h : ∀ r : TileRun, ((s.setTile t r).segment t id).resident = true := fun _ => hr
  rw [h, Bool.or_true]

theorem opMem_of_only {ps : List Part} {s t : State} (h : Only ps s t) (hp : Part.loaded ∉ ps) :
    t.program.opMem = s.program.opMem := by
  have := congrArg Program.opMem (h .loaded hp)
  exact this

/-- The engine finds that the shot ends. -/
theorem State.choose_ends {s : State} {t : Nat} {j : Bool} (hn : s.nextEntry t = (none, j)) (ht : t < 16) :
    (s.choose t).tile t =
      { s.tile t with jump := none, chosen := some none, chosenSeg := none, last := bit (s.endWord t) 0 } := by
  obtain ⟨d1, -, -, -⟩ := State.dropJump_done s t
  have o : Only [.out, .hatband, .image .runStatus, .runs] s (s.dropJump t) := State.dropJump_only (by decide) (Only.refl _ s)
  have hi := State.dropJump_get s (f := F.runStatus_SEG_ID) (by decide) ht ht
  have hw : (s.dropJump t).endWord t = s.endWord t := by
    unfold State.endWord State.playing State.opWord
    rw [hi, segment_of_only o (by decide), opMem_of_only o (by decide)]
  unfold State.choose
  simp only [hn]
  rw [State.tile_setTile, d1, hw]

/-- A check that passes changes no more of a tile than the failures it remembers. -/
theorem State.sealPass_tile (s : State) (t key d : Nat) :
    ∃ l, (s.sealPass t key d).tile t = { s.tile t with suspect := l } := by
  cases h : (s.tile t).suspected key with
  | none => exact ⟨_, by rw [State.sealPass_first h]⟩
  | some x =>
    by_cases hx : x = (s.tile t).base
    · rw [State.sealPass_same (by rw [h, hx])]
      exact ⟨_, rfl⟩
    · rw [State.sealPass_again h hx, tile_of_only (State.report_only (List.Subset.refl _) (Only.refl _ _)) (by decide),
        State.tile_setTile]
      exact ⟨_, rfl⟩

section switch

variable {t : Fin 16} {s : State} (hp : s.playsShot t = true) (hc : (s.tile t).chosen = none)
  (he : (s.tile t).ended = true) (hb : (s.segmentEnd t : Int) ≤ s.tick t + Config.switchLead)

include hp hc he hb

/-- The engine is at its switch point. -/
theorem switchPoint_due : (s.fresh.playsShot t && (s.fresh.tile t).chosen.isNone && (s.fresh.tile t).ended
    && decide ((s.fresh.segmentEnd t : Int) ≤ s.fresh.tick t + Config.switchLead)) = true := by
  have hp' : s.fresh.playsShot t = true := hp
  have hb' : (s.fresh.segmentEnd t : Int) ≤ s.fresh.tick t + Config.switchLead := hb
  simp [hp', hc, he, hb']

/-- The successor that it chooses is loaded. -/
theorem exec_switchPoint_loads (sealBad : Bool) {id : Nat} (h1 : ((s.fresh.choose t).tile t).chosenSeg = some id)
    (h2 : ((s.fresh.choose t).tile t).stoodDown = none) :
    exec (.switchPoint t sealBad) s = .next ((s.fresh.choose t).loadSegment t id sealBad) := by
  change execSwitchPoint t sealBad s = _
  unfold execSwitchPoint
  dsimp only
  rw [if_pos (switchPoint_due hp hc he hb)]
  simp only [h1, h2]
  rfl

/-- No successor follows. -/
theorem exec_switchPoint_ends (sealBad : Bool) (h1 : ((s.fresh.choose t).tile t).chosenSeg = none) :
    exec (.switchPoint t sealBad) s = .next (s.fresh.choose t) := by
  change execSwitchPoint t sealBad s = _
  unfold execSwitchPoint
  dsimp only
  rw [if_pos (switchPoint_due hp hc he hb)]
  simp only [h1]

end switch

/-! ### Segment boundaries (R199) -/

theorem segmentEnd_of_only {ps : List Part} {s t : State} (h : Only ps s t) (h1 : Part.runs ∉ ps) (h2 : Part.loaded ∉ ps)
    (h3 : Part.image .runStatus ∉ ps) (n : Nat) : t.segmentEnd n = s.segmentEnd n := by
  unfold State.segmentEnd State.playing
  rw [tile_of_only h h1, segment_of_only h h2, h.get h3]

/-- The successor begins. -/
theorem State.enterSegment_done (s : State) (t e : Nat) {u : State} (hu : u = s.enterSegment t e) :
    u.get F.runStatus_SEG_ID t = (s.tile t).chosenSeg.getD 0 % 2 ^ F.runStatus_SEG_ID.width
    ∧ u.get F.runStatus_LIST_POS t = e % 2 ^ F.runStatus_LIST_POS.width
    ∧ u.tile t = { s.tile t with
      segBase := s.segmentEnd t, chosen := none, chosenSeg := none, chosenHops := none, fetched := false }
    ∧ ((s.tile t).chosenHops = none → Raised s u (seqSource t 7) 0 0) := by
  obtain ⟨v, hv⟩ : ∃ v, v = ((s.put F.runStatus_SEG_ID t ((s.tile t).chosenSeg.getD 0)).put F.runStatus_LIST_POS t e).setTile t
    { s.tile t with
      segBase := s.segmentEnd t, chosen := none, chosenSeg := none, chosenHops := none, fetched := false } := ⟨_, rfl⟩
  have e1 : u = v.raiseFrom (seqSource t 7) 0 0 (s.tile t).chosenHops := by
    rw [hu, hv]
    rfl
  have o : Only [.out, .hatband, .image .hatbandControl, .log, .image .logStatus, .image .channel] v u :=
    e1 ▸ State.raiseFrom_only (by decide) (Only.refl _ v)
  refine ⟨?_, ?_, ?_, fun h => ?_⟩
  · rw [o.get (by decide), hv, State.setTile_get, State.get_put_other _ (by decide), State.get_put]
  · rw [o.get (by decide), hv, State.setTile_get, State.get_put]
  · rw [tile_of_only o (by decide), hv, State.tile_setTile]
  · rw [e1, h]
    exact Raised.raise _ _ _

/-- A boundary that has come. -/
theorem exec_segmentBoundary {t : Fin 16} {s : State} {c : Option Nat} (hp : s.playsShot t = true)
    (hb : (s.segmentEnd t : Int) ≤ s.tick t) (hc : (s.tile t).chosen = some c) : ∃ v : State,
      Only [.out, .image .biasStatus, .bias, .drive, .image .xyStatus] s v
        ∧ (∀ e, c = some e → exec (.segmentBoundary t) s = .next (v.enterSegment t e))
        ∧ (c = none → exec (.segmentBoundary t) s = .next (v.endTile t (v.segmentEnd t))) := by
  have hd : (s.fresh.playsShot t && decide ((s.fresh.segmentEnd t : Int) ≤ s.fresh.tick t)) = true := by
    rw [show s.fresh.playsShot t = true from hp,
      decide_eq_true (show (s.fresh.segmentEnd t : Int) ≤ s.fresh.tick t from hb)]
    rfl
  refine ⟨s.fresh.newSegment t ((s.tile t).base + 16 * s.segmentEnd t),
    State.newSegment_only (by decide) (State.fresh_only (by decide) (Only.refl _ s)), fun e h => ?_, fun h => ?_⟩
  all_goals
    change execSegmentBoundary t s = _
    unfold execSegmentBoundary
    simp only [State.fresh_tile, hc, h]
    exact congrArg Host.Outcome.next (if_pos hd)

end Machine
end Sys2Proof
end

section
namespace Sys2Proof
open Machine

/-- A shot whose end has not come. -/
theorem Machine.State.endTick_of_playsShot {s : State} {t : Nat} (h : s.playsShot t = true) : (s.tile t).endTick = none :=
  Option.isNone_iff_eq_none.mp (Bool.and_eq_true_iff.mp h).2

theorem Machine.State.inShot_of_playsShot {s : State} {t : Nat} (h : s.playsShot t = true) : (s.tile t).inShot = true :=
  (Bool.and_eq_true_iff.mp (Bool.and_eq_true_iff.mp h).1).2

section fetch

variable {t : Fin 16} {s : State} {g id : Nat} (hg : (s.tile t).group = some g)

include hg

section successor

variable (hx : (s.group g).inShot = true) (hp : s.playsShot t = true) (hc : (s.tile t).chosen = none)
  (hf : (s.tile t).fetched = false) (hb : (s.segmentEnd t : Int) ≤ s.tick t + Config.fetchLead)
  (hn : (s.nextEntry t).1.bind (s.listSegment t) = some id)

include hx hp hc hf hb

/-- The successor's check is due. -/
theorem exec_segmentFetchDeadline_checks : exec (.segmentFetchDeadline t) s = .next ((s.fresh.checkFetch t).checkFirst t g) := by
  rw [exec_segmentFetchDeadline_inShot hg hx (State.inShot_of_playsShot hp), if_pos]
  simp [hp, hc, hf, hb]

include hn

theorem segmentFetchDeadline_resident (hr : (s.segment t id).resident = true) :
    Runs (.segmentFetchDeadline t) s fun u =>
      u.tile t = { s.tile t with fetched := true, chosenSeg := some id, first := (u.tile t).first }
        ∧ Only [.out, .runs] s u := by
  refine ⟨_, exec_segmentFetchDeadline_checks hg hx hp hc hf hb, ?_⟩
  have hn' : (s.fresh.nextEntry t).1.bind (s.fresh.listSegment t) = some id := hn
  rw [State.checkFetch_resident hn' hr]
  obtain ⟨f, h1, h2, -⟩ := (s.fresh.setTile t { s.fresh.tile t with fetched := true, chosenSeg := some id }).checkFirst_done t g
  refine ⟨?_, State.checkFirst_only (by decide)
    (State.setTile_only (by decide) (State.fresh_only (by decide) (Only.refl _ s)))⟩
  rw [h1, State.tile_setTile]
  rfl

theorem segmentFetchDeadline_absent (hr : (s.segment t id).resident = false) (hd : (s.tile t).stoodDown = none) :
    Runs (.segmentFetchDeadline t) s fun u =>
      u.get F.runStatus_UNDERRUN_COUNT t = satAdd (s.get F.runStatus_UNDERRUN_COUNT t) 1 F.runStatus_UNDERRUN_COUNT.width
        ∧ Raised s u (seqSource t 1) 0 0 ∧ Reported s u 1 ∧ (u.tile t).stoodDown = some (s.tick t).toNat
        ∧ (t.val, id) ∈ (u.group g).missing := by
  refine ⟨_, exec_segmentFetchDeadline_checks hg hx hp hc hf hb, ?_⟩
  have hn' : (s.fresh.nextEntry t).1.bind (s.fresh.listSegment t) = some id := hn
  rw [State.checkFetch_absent hn' hr]
  obtain ⟨k1, k2, k3, k4, k5⟩ := s.fresh.underrun_done t id t.isLt (by rw [State.fresh_tile, hg]; rfl) hd
    (State.endTick_of_playsShot hp) (.inl (State.inShot_of_playsShot hp))
  generalize s.fresh.underrun t id = v at *
  obtain ⟨f, h1, o, h2⟩ := v.checkFirst_done t g
  refine ⟨?_, k2.grow (Grows.of_only o (by decide) (by decide)), k3.only o (by decide), ?_, ?_⟩
  · rw [o.get (by decide), k1, State.fresh_get]
  · rw [h1]
    exact k4
  · rw [h2]
    exact k5 g hg

end successor

theorem segmentFetchDeadline_checksFirst {b : Nat} (hx : (s.group g).inShot = true) (ht : (s.tile t).inShot = true)
    (hf : (s.tile t).fetched = true) (h1 : (s.tile t).first = none) (hb : s.comingBase g = some b)
    (hs : b ≤ s.si + 16 * Config.fetchLead) (hl : s.listSegment t 0 = some id) :
    Runs (.segmentFetchDeadline t) s fun u =>
      u.tile t = { s.tile t with first := some (s.segment t id).resident } ∧ Only [.out, .runs] s u := by
  have hb' : s.fresh.comingBase g = some b := hb
  refine ⟨_, exec_segmentFetchDeadline_inShot hg hx ht, ?_⟩
  rw [if_neg (by simp [hf]), State.checkFirst_checks hb' hl h1 hs]
  exact ⟨State.tile_setTile _ _ _, State.setTile_only (by decide) (State.fresh_only (by decide) (Only.refl _ s))⟩

section coming

variable (h1 : (s.group g).state = .running) (h2 : (s.group g).inShot = false) (h3 : (s.tile t).prepared = false)
  (h4 : (s.group g).awaitStart = false) (h5 : s.startBlocked g = false)
  (h6 : (s.group g).base ≤ s.si + 16 * Config.fetchLead)

include h1 h2 h3 h4 h5 h6

theorem segmentFetchDeadline_underruns (hl : s.listSegment t 0 = some id)
    (hr : (s.tile t).first.getD (s.segment t id).resident = false) :
    Runs (.segmentFetchDeadline t) s fun u => Raised s u (seqSource t 1) 0 0 ∧ Reported s u 1
      ∧ u.get F.runStatus_UNDERRUN_COUNT t =
        satAdd (s.get F.runStatus_UNDERRUN_COUNT t) 1 F.runStatus_UNDERRUN_COUNT.width
      ∧ (u.tile t).stoodDown.isSome = true ∧ (t.val, id) ∈ (u.group g).missing := by
  refine ⟨_, exec_segmentFetchDeadline_prepares hg h1 h2 h3 h4 h5 h6, ?_⟩
  have hl' : s.fresh.listSegment t 0 = some id := hl
  have hr' : (s.fresh.tile t).first.getD (s.fresh.segment t id).resident = false := hr
  rw [State.prepareTile_first hl', hr', if_neg (by decide)]
  obtain ⟨b1, b2, -, -, b5, -, b7⟩ := s.fresh.beginFirst_done g t id rfl
  generalize (s.fresh.beginShotOf g t).playFirst t id = v at *
  have hvg : (v.tile t).group = some g := by
    rw [b1]
    exact hg
  obtain ⟨k1, k2, k3, k4, k5⟩ := v.underrun_done t id t.isLt (by rw [hvg]; rfl) (by rw [b1]; rfl) (by rw [b1]; rfl)
    (.inr (by rw [b1]; rfl))
  refine ⟨k2, ?_, ?_, by rw [k4]; rfl, k5 g hvg⟩
  · unfold Reported at k3 ⊢
    rw [k3, b7]
    rfl
  · rw [k1, b5, State.fresh_get]

theorem segmentFetchDeadline_begins (hl : s.listSegment t 0 = some id)
    (hr : (s.tile t).first.getD (s.segment t id).resident = true) :
    Runs (.segmentFetchDeadline t) s fun u => (u.tile t).prepared = true ∧ (u.tile t).base = (s.group g).base
      ∧ (u.tile t).pc = 0 ∧ (u.tile t).ended = false
      ∧ u.get F.runStatus_SEG_ID t = id % 2 ^ F.runStatus_SEG_ID.width ∧ u.get F.runStatus_LIST_POS t = 0
      ∧ ∀ c < 8, u.getAt F.counters_CNT t c = 0 := by
  refine ⟨_, exec_segmentFetchDeadline_prepares hg h1 h2 h3 h4 h5 h6, ?_⟩
  have hl' : s.fresh.listSegment t 0 = some id := hl
  have hr' : (s.fresh.tile t).first.getD (s.fresh.segment t id).resident = true := hr
  rw [State.prepareTile_first hl', if_pos hr']
  obtain ⟨b1, -, b3, b4, -, b6, -⟩ := s.fresh.beginFirst_done g t id rfl
  dsimp only
  rw [b1]
  exact ⟨rfl, rfl, rfl, rfl, b3, b4, b6⟩

theorem segmentFetchDeadline_faults (hl : s.listSegment t 0 = none) :
    Runs (.segmentFetchDeadline t) s fun u => Raised s u (seqSource t 9) 0 0
      ∧ Reported s u 16 ∧ (u.group g).abort = true ∧ (u.tile t).stoodDown.isSome = true := by
  refine ⟨_, exec_segmentFetchDeadline_prepares hg h1 h2 h3 h4 h5 h6, ?_⟩
  have hl' : s.fresh.listSegment t 0 = none := hl
  rw [State.prepareTile_empty hl']
  obtain ⟨b1, -, -, o⟩ := s.fresh.beginShotOf_done g t rfl
  generalize s.fresh.beginShotOf g t = v at *
  have hvg : (v.tile t).group = some g := by
    rw [b1]
    exact hg
  obtain ⟨k1, k2, k3, k4, -⟩ := v.programFault_done t
  refine ⟨k1, Reported.from (s := s.fresh) k2 o (by decide), k3 g hvg, ?_⟩
  rw [(k4 (by rw [hvg]; rfl) (by rw [b1]; rfl) (by rw [b1]; rfl) (.inr (by rw [b1]; rfl))).1]
  rfl

end coming

end fetch

section switch

variable {t : Fin 16} {s : State} (hp : s.playsShot t = true) (hc : (s.tile t).chosen = none)
  (he : (s.tile t).ended = true) (hb : (s.segmentEnd t : Int) ≤ s.tick t + Config.switchLead)

include hp hc he hb

section chosen

variable {e id : Nat} {j : Bool} (hn : s.nextEntry t = (some e, j)) (hl : s.listSegment t e = some id)
  (hr : (s.segment t id).resident = true) (hd : (s.tile t).stoodDown = none)

include hn hl hr hd

/-- A resident successor is chosen and loaded. -/
theorem exec_switchPoint_chooses (sealBad : Bool) : exec (.switchPoint t sealBad) s = .next
    ((s.fresh.setTile t ((s.tile t).chose e id j (!j && e = s.get F.runStatus_LIST_POS t))).loadSegment t id sealBad) := by
  have hn' : s.fresh.nextEntry t = (some e, j) := hn
  have hch := State.choose_resident hn' hl hr
  have h := exec_switchPoint_loads hp hc he hb sealBad (id := id) (by rw [hch, State.tile_setTile]; rfl)
    (by rw [hch, State.tile_setTile]; exact hd)
  rw [h, hch]
  rfl

theorem switchPoint_passes : Runs (.switchPoint t false) s fun u => (u.tile t).chosen = some (some e)
    ∧ (u.tile t).chosenSeg = some id ∧ (u.tile t).pc = 0 ∧ (u.tile t).ended = false
    ∧ (u.tile t).instances = if !j && e = s.get F.runStatus_LIST_POS t then (s.tile t).instances + 1 else 1 := by
  refine ⟨_, exec_switchPoint_chooses hp hc he hb hn hl hr hd false, ?_⟩
  obtain ⟨l, h⟩ := State.sealPass_tile
    (s.fresh.setTile t ((s.tile t).chose e id j (!j && e = s.get F.runStatus_LIST_POS t))) t (16384 + id) id
  rw [show State.loadSegment _ t id false = State.sealPass _ t (16384 + id) id from rfl, h, State.tile_setTile]
  exact ⟨rfl, rfl, rfl, rfl, rfl⟩

theorem switchPoint_fails : Runs (.switchPoint t true) s fun u => (u.tile t).chosen = some none
    ∧ (u.tile t).chosenSeg = none ∧ (u.tile t).ended = true := by
  refine ⟨_, exec_switchPoint_chooses hp hc he hb hn hl hr hd true, ?_⟩
  rw [show State.loadSegment _ t id true = State.loadFail _ t id from rfl]
  unfold State.loadFail
  dsimp only
  rw [State.tile_setTile]
  exact ⟨rfl, rfl, rfl⟩

end chosen

theorem switchPoint_ends (sealBad : Bool) {j : Bool} (hn : s.nextEntry t = (none, j)) :
    Runs (.switchPoint t sealBad) s fun u => u.tile t = { s.tile t with
      jump := none, chosen := some none, chosenSeg := none, last := bit (s.endWord t) 0 } := by
  have hn' : s.fresh.nextEntry t = (none, j) := hn
  have h := State.choose_ends hn' t.isLt
  refine ⟨_, exec_switchPoint_ends hp hc he hb sealBad ?_, h⟩
  rw [h]

end switch

section boundary

variable {t : Fin 16} {s : State} (hp : s.playsShot t = true) (hb : (s.segmentEnd t : Int) ≤ s.tick t)

include hp hb

theorem segmentBoundary_enters {e : Nat} (hc : (s.tile t).chosen = some (some e)) :
    Runs (.segmentBoundary t) s fun u =>
      u.get F.runStatus_SEG_ID t = (s.tile t).chosenSeg.getD 0 % 2 ^ F.runStatus_SEG_ID.width
        ∧ u.get F.runStatus_LIST_POS t = e % 2 ^ F.runStatus_LIST_POS.width
        ∧ u.tile t = { s.tile t with
          segBase := s.segmentEnd t, chosen := none, chosenSeg := none, chosenHops := none, fetched := false }
        ∧ ((s.tile t).chosenHops = none → Raised s u (seqSource t 7) 0 0) := by
  obtain ⟨v, o, h, -⟩ := exec_segmentBoundary hp hb hc
  refine ⟨_, h e rfl, ?_⟩
  obtain ⟨k1, k2, k3, k4⟩ := v.enterSegment_done t e rfl
  rw [tile_of_only o (by decide)] at k1 k3 k4
  rw [segmentEnd_of_only o (by decide) (by decide) (by decide)] at k3
  exact ⟨k1, k2, k3, k4⟩

theorem segmentBoundary_ends (hc : (s.tile t).chosen = some none) :
    Runs (.segmentBoundary t) s fun u =>
      (u.tile t).endTick = some (s.segmentEnd t) ∧ (u.tile t).ended = true ∧ Raised s u (seqSource t 6) 0 0 := by
  obtain ⟨v, o, -, h⟩ := exec_segmentBoundary hp hb hc
  refine ⟨_, h rfl, ?_⟩
  rw [segmentEnd_of_only o (by decide) (by decide) (by decide)]
  obtain ⟨k1, -, k3, -⟩ := v.endTile_done t (s.segmentEnd t)
  rw [k1]
  exact ⟨rfl, rfl, k3⟩

end boundary

/-- Settles O42: a segment that is checked, prepared, chosen and loaded, and that begins or ends the shot. -/
theorem segmentEffects : Obligations.SegmentEffects := by
  refine ⟨?_, ?_, ?_, ?_, ?_⟩
  · exact fun t s g id hg hx hp hc hf hb hn => ⟨fun hr => segmentFetchDeadline_resident hg hx hp hc hf hb hn hr,
      fun hr hd => segmentFetchDeadline_absent hg hx hp hc hf hb hn hr hd⟩
  · exact fun t s g b id hg hx ht hf h1 hb hs hl => segmentFetchDeadline_checksFirst hg hx ht hf h1 hb hs hl
  · rintro t s g _ hg rfl h1 h2 h3 h4 h5 h6
    exact ⟨fun id hl hr => segmentFetchDeadline_underruns hg h1 h2 h3 h4 h5 h6 hl hr,
      fun id hl hr => segmentFetchDeadline_begins hg h1 h2 h3 h4 h5 h6 hl hr,
      fun hl => segmentFetchDeadline_faults hg h1 h2 h3 h4 h5 h6 hl⟩
  · rintro t sealBad s hp hc he hb
    refine ⟨fun e j id hn hl hr hd => ⟨?_, ?_⟩, fun j hn => switchPoint_ends hp hc he hb sealBad hn⟩
    · rintro rfl
      exact switchPoint_passes hp hc he hb hn hl hr hd
    · rintro rfl
      exact switchPoint_fails hp hc he hb hn hl hr hd
  · exact fun t s hp hb => ⟨fun e hc => segmentBoundary_enters hp hb hc, fun hc => segmentBoundary_ends hp hb hc⟩

end Sys2Proof
end

section
namespace Sys2Proof
open Machine

/-! ### What no command changes (logs 2 and 85) -/

/-- What a command may change: everything but the queue, the tick count and the canonical form of the memories. -/
def commandParts : List Part := .flash :: resetParts

theorem reset_within : resetParts ⊆ commandParts := List.subset_cons_self _ _

/-- Parts other than those that no command changes lie within `commandParts`. -/
theorem within {l : List Part} (h : ∀ p ∈ l, p ≠ .pending ∧ p ≠ .now ∧ p ≠ .form) : l ⊆ commandParts := by
  intro p hp
  obtain ⟨h1, h2, h3⟩ := h p hp
  by_cases h4 : p = .flash
  · exact h4 ▸ List.mem_cons_self
  · refine reset_within (sub_reset (l := [p]) (fun q hq => ?_) (List.mem_singleton_self p))
    obtain rfl := List.mem_singleton.mp hq
    exact ⟨h1, h2, h3, h4⟩

/-- A command that answers with a state in which nothing has changed that only the passing of time changes. -/
def Timeless (s : State) (r : Result) : Prop := ∃ t, r = .next t ∧ Only commandParts s t

namespace Timeless

theorem next {s t : State} (h : Only commandParts s t) : Timeless s (.next t) := ⟨t, rfl, h⟩

theorem pending_now {s t : State} {r : Result} (h : Timeless s r) (e : r = .next t) :
    t.pending = s.pending ∧ t.clock.now = s.clock.now := by
  obtain ⟨u, hu, o⟩ := h
  obtain rfl := Host.Outcome.next.inj (e.symm.trans hu)
  exact ⟨o .pending (by decide), o .now (by decide)⟩

end Timeless

/-! The parts of the state that are cut into several. -/

/-- A change of one field of the state, all of whose parts a command may change. -/
theorem setHost_within {s0 s : State} {x : HostIf} (hs : Only commandParts s0 s) : Only commandParts s0 (s.setHost x) :=
  State.setHost_only (within (by decide)) (.inl (within (l := [.mailboxes]) (by decide) (by decide))) hs

theorem setClock_within {s0 s : State} {c : Clock} (h : c.now = s.clock.now) (hs : Only commandParts s0 s) :
    Only commandParts s0 (s.setClock c) :=
  State.setClock_only (within (by decide)) (.inr h) (.inl (within (l := [.si]) (by decide) (by decide)))
    (.inl (within (l := [.wall]) (by decide) (by decide))) hs

theorem setMemory_within {s0 s : State} {x : Memory} (h : s.memory.wf → x.wf) (hs : Only commandParts s0 s) :
    Only commandParts s0 (s.setMemory x) :=
  State.setMemory_only (within (by decide)) (.inl (within (l := [.library]) (by decide) (by decide)))
    (.inl (within (l := [.store]) (by decide) (by decide))) h hs

theorem setProgram_within {s0 s : State} {x : Program} (hs : Only commandParts s0 s) :
    Only commandParts s0 { s with program := x } := by
  refine Only.step (ps := [.loaded, .runs]) (fun p hp => ?_) (within (by decide)) hs
  cases p with
  | loaded => exact absurd (by decide) hp
  | runs => exact absurd (by decide) hp
  | image r => exact image_congr rfl
  | form => exact id
  | wall => exact ⟨rfl, rfl⟩
  | weights => exact ⟨rfl, rfl⟩
  | library => exact ⟨rfl, rfl⟩
  | store => exact ⟨rfl, rfl⟩
  | mailboxes => exact ⟨rfl, rfl, rfl⟩
  | _ => rfl

theorem setFlashUpload_within {s0 s : State} {x : Flash} {y : Upload} (hs : Only commandParts s0 s) :
    Only commandParts s0 { s with flash := x, upload := y } :=
  Only.setUpload (s := { s with flash := x }) (within (by decide)) (Only.setFlash (within (by decide)) hs)

theorem fresh_within (s : State) : Only commandParts s s.fresh := State.fresh_only (within (by decide)) (Only.refl _ s)

theorem Timeless.when {s t : State} {c : Prop} [Decidable c] (h : Only commandParts s t) :
    Timeless s (.next (if c then t else s.fresh)) := .next (Only.ite h (fresh_within s))

theorem Timeless.unless {s t : State} {c : Prop} [Decidable c] (h : Only commandParts s t) :
    Timeless s (.next (if c then s.fresh else t)) := .next (Only.ite (fresh_within s) h)

/-- What comes after a state, and what came before it. -/
theorem afterwards {s t u : State} (g : Only commandParts t u) (h : Only commandParts s t) : Only commandParts s u :=
  h.trans g

/-- A row that serves a mailbox: the command's own act decides. -/
theorem serve_timeless {s : State} {m code : Nat} {cmd : Request → State → Command}
    (h : ∀ r x, Only commandParts s x → ((cmd r x).act x).Within commandParts s) :
    Timeless s (.next (s.fresh.serve m code cmd)) :=
  .next (State.serve_only (within (by decide)) (fresh_within s) h)

theorem serveStore_timeless {s : State} {m code : Nat} {cmd : Request → State → Command}
    (h : ∀ r x, Only commandParts s x → ((cmd r x).act x).Within commandParts s) :
    Timeless s (.next (s.fresh.serveStore m code cmd)) :=
  .next (State.serveStore_only (within (by decide)) (fresh_within s) h)

/-- An operation word of a program: what it does where it is dispatched. -/
theorem dispatch_timeless {s : State} {t : Nat} {o : Op} {act : Nat → State → State}
    (h : ∀ w x, Only commandParts s x → Only commandParts s (act w x)) : Timeless s (.next (s.fresh.dispatch t o act)) :=
  .next (State.dispatch_only (within (by decide)) (fresh_within s) h)

theorem dispatchTimed_timeless {s : State} {t : Nat} {o : Op} {act : Nat → Nat → State → State}
    (h : ∀ w k x, Only commandParts s x → Only commandParts s (act w k x)) :
    Timeless s (.next (s.fresh.dispatchTimed t o act)) :=
  .next (State.dispatchTimed_only (within (by decide)) (fresh_within s) h)

/-! ### The answers of commands that answer in several ways -/

section answers

variable {s0 s : State} (hs : Only commandParts s0 s)

include hs

theorem sealRefused_within (t : Nat) : (s.sealRefused t).Within commandParts s0 :=
  State.report_only (within (by decide)) hs

theorem modeSet_within (r : Request) (m : Mode) : (s.modeSet r m).Within commandParts s0 := by
  unfold State.modeSet
  refine Answer.within_ite hs ?_
  split
  · exact State.enterSafe_only (within (by decide)) hs
  · exact State.beginCalibrate_only (within (by decide)) hs
  · exact State.rampTo_only (within (by decide)) (State.enterMode_only (within (by decide))
      (State.reply_only (within (by decide)) hs))
  · exact State.enterMode_only (within (by decide)) hs

theorem takeImage_within (slot total : Nat) (b : List Byte) : (s.takeImage slot total b).Within commandParts s0 :=
  have h {x : Upload} : Only commandParts s0 { s with upload := x } := Only.setUpload (within (by decide)) hs
  Answer.within_ite h (Answer.within_ite h h)

theorem takePatch_within (total : Nat) (b : List Byte) : (s.takePatch total b).Within commandParts s0 := by
  unfold State.takePatch
  refine Answer.within_ite (Only.setUpload (within (by decide)) hs) ?_
  dsimp only
  split
  · exact State.report_only (within (by decide)) (Only.setUpload (within (by decide)) hs)
  · exact Only.setUpload (within (by decide)) hs

theorem startRun_within (r : Request) : (s.startRun r).Within commandParts s0 :=
  State.stopEngines_only (within (by decide)) (State.initGroups_only (within (by decide))
    (Only.foldl (fun _ _ hx => State.joinRun_only (within (by decide)) hx) _ (State.setGroup_only (within (by decide)) hs)))

theorem restoreStream_within (id a : Nat) : (s.restoreStream id a).Within commandParts s0 := by
  unfold State.restoreStream
  extract_lets blocks good ctx u
  have h : Only commandParts s0 u := State.moveBeats_only (within (by decide)) hs
  clear_value blocks good ctx u
  refine Answer.within_ite h (Answer.within_ite ?_ (Answer.within_ite h ?_))
  · exact State.report_only (within (by decide)) h
  · exact State.setStream_only (within (by decide)) (State.moveBeats_only (within (by decide)) h)

theorem telemetry_within : s.telemetry.Within commandParts s0 := by
  unfold State.telemetry
  dsimp only [State.free]
  split
  · exact hs
  · exact State.free_only (within (by decide)) hs

end answers

/-- The cause of an injected run is taken from its queue. -/
theorem takeUrgent_within {s0 s u : State} {c : InjCause} {x : Option (Nat × Nat)} (hs : Only commandParts s0 s)
    (h : s.takeUrgent c = some (x, u)) : Only commandParts s0 u := by
  unfold State.takeUrgent at h
  split at h
  · obtain ⟨e, -, he⟩ := Option.map_eq_some_iff.mp h
    rw [← (Prod.mk.inj he).2]
    exact State.setHatband_only (within (by decide)) hs
  · split at h
    · rw [← (Prod.mk.inj (Option.some.inj h)).2]
      exact State.setMonitor_only (within (by decide)) hs
    · exact nomatch h

end Sys2Proof
end

section
namespace Sys2Proof
open Machine

/-! ### Mailbox commands -/

section

variable (s : State)

theorem execSysInfo_timeless (m) : Timeless s (execSysInfo m s) := serve_timeless fun _ _ hx => hx

theorem execModeGet_timeless (m) : Timeless s (execModeGet m s) := serve_timeless fun _ _ hx => hx

theorem execModeSet_timeless (m) : Timeless s (execModeSet m s) := serve_timeless fun r _ hx => by
  unfold modeSetCommand
  dsimp only
  split
  · exact modeSet_within hx r _
  · exact hx

theorem execModeSetTimeout_timeless (m) : Timeless s (execModeSetTimeout m s) := by
  unfold execModeSetTimeout
  refine .next ?_
  have hs := fresh_within s
  split
  · split
    · exact Only.ite (State.finish_only (within (by decide))
          (State.putFlag_only (within (by decide)) (Only.ite
          (State.enterMode_only (within (by decide)) (Only.setMonitor (within (by decide)) hs)) hs))) hs
    · exact hs
  · exact hs

theorem execSystemReset_timeless (m) : Timeless s (execSystemReset m s) :=
  serve_timeless fun _ _ hx => State.rampTo_only (within (by decide))
    (Only.foldl (fun _ _ hx => State.haltGroup_only (within (by decide)) hx) _
    (State.reply_only (within (by decide)) hx))

theorem execSelftestReport_timeless (m) : Timeless s (execSelftestReport m s) := serve_timeless fun _ _ hx => hx

theorem execSyncArm_timeless (m) : Timeless s (execSyncArm m s) :=
  serve_timeless fun _ _ hx => Only.ite (setClock_within rfl
    (State.putFlag_only (within (by decide)) (State.putFlag_only (within (by decide)) hx)))
    (State.putFlag_only (within (by decide)) hx)

theorem execSyncPulse_timeless (m) : Timeless s (execSyncPulse m s) :=
  serve_timeless fun _ _ hx => State.syncPulse_only (within (by decide)) hx

theorem execImageWrite_timeless (m) : Timeless s (execImageWrite m s) :=
  serve_timeless fun _ _ hx => takeImage_within hx _ _ _

theorem execImageWriteTimeout_timeless (m) : Timeless s (execImageWriteTimeout m s) := by
  unfold execImageWriteTimeout
  refine .next ?_
  have hs := fresh_within s
  split
  · exact Only.ite (State.finish_only (within (by decide)) (Only.setUpload (within (by decide)) hs)) hs
  · exact hs

theorem execImageSelect_timeless (m) : Timeless s (execImageSelect m s) :=
  serve_timeless fun _ _ hx => Only.setFlash (within (by decide)) hx

theorem execSlotBind_timeless (m) : Timeless s (execSlotBind m s) :=
  serve_timeless fun _ _ hx => State.setBinding_only (within (by decide)) hx

theorem execSlotGet_timeless (m) : Timeless s (execSlotGet m s) := serve_timeless fun _ _ hx => hx

theorem execLibWrite_timeless (m) : Timeless s (execLibWrite m s) :=
  serve_timeless fun _ _ hx => Answer.within_ite (State.askRows_only (within (by decide))
    (State.evict_only (within (by decide)) (State.writeRows_only (within (by decide)) hx))) (sealRefused_within hx _)

theorem execLibRead_timeless (m) : Timeless s (execLibRead m s) :=
  serve_timeless fun _ _ hx => Answer.within_ite hx (State.askRows_only (within (by decide)) hx)

theorem execCtxLoad_timeless (m) : Timeless s (execCtxLoad m s) :=
  serve_timeless fun _ _ hx => Answer.within_ite (Only.foldl
    (fun _ _ hx => State.loadCtx_only (within (by decide)) hx) _ hx) (sealRefused_within hx _)

theorem execCtxRead_timeless (m) : Timeless s (execCtxRead m s) := serve_timeless fun _ _ hx => hx

theorem execWeightLoad_timeless (m) : Timeless s (execWeightLoad m s) :=
  serve_timeless fun _ _ hx => Answer.within_ite (State.loadWeights_only (within (by decide)) hx)
    (sealRefused_within hx _)

theorem execProgramLoad_timeless (m) : Timeless s (execProgramLoad m s) :=
  serve_timeless fun _ _ hx => setProgram_within hx

theorem execRunStart_timeless (m) : Timeless s (execRunStart m s) := serve_timeless fun r _ hx => startRun_within hx r

theorem execRunStop_timeless (m) : Timeless s (execRunStop m s) :=
  serve_timeless fun _ _ hx => Answer.within_ite (State.endRun_only (within (by decide)) hx)
    (Answer.within_ite (State.setGroup_only (within (by decide)) hx) (State.sendHalt_only (within (by decide)) hx))

theorem execRunStopTimeout_timeless (m) : Timeless s (execRunStopTimeout m s) := by
  unfold execRunStopTimeout
  refine .next ?_
  have hs := fresh_within s
  split
  · split
    · exact Only.ite (State.finish_only (within (by decide)) (State.withdrawStop_only (within (by decide)) hs)) hs
    · exact hs
  · exact hs

theorem execRunResume_timeless (m) : Timeless s (execRunResume m s) :=
  serve_timeless fun _ _ hx => State.resumeRun_only (within (by decide)) hx

theorem execRunJump_timeless (m) : Timeless s (execRunJump m s) :=
  serve_timeless fun _ _ hx => Only.foldl (fun _ _ hx => State.postJump_only (within (by decide)) hx) _ hx

theorem execRunStatus_timeless (m) : Timeless s (execRunStatus m s) := serve_timeless fun _ _ hx => hx

theorem execEvcStatusRead_timeless (m) : Timeless s (execEvcStatusRead m s) := serve_timeless fun _ _ hx => hx

theorem execCutRestore_timeless (m) : Timeless s (execCutRestore m s) :=
  serve_timeless fun _ _ hx => Only.foldl (fun _ _ hx => State.putFlag_only (within (by decide)) hx) _ hx

theorem execFullingSubmit_timeless (m) : Timeless s (execFullingSubmit m s) :=
  serve_timeless fun _ _ hx => State.setCapture_only (within (by decide)) hx

theorem execStreamSave_timeless (m) : Timeless s (execStreamSave m s) :=
  serveStore_timeless fun _ _ hx => State.saveStream_only (within (by decide)) hx

theorem execStreamRestore_timeless (m) : Timeless s (execStreamRestore m s) :=
  serveStore_timeless fun _ _ hx => restoreStream_within hx _ _

theorem execStreamReset_timeless (m) : Timeless s (execStreamReset m s) :=
  serve_timeless fun _ _ hx => State.setStream_only (within (by decide)) hx

theorem execStreamState_timeless (m) : Timeless s (execStreamState m s) := serve_timeless fun _ _ hx => hx

theorem execHistRead_timeless (m) : Timeless s (execHistRead m s) := serve_timeless fun _ _ hx => hx

theorem execHistDump_timeless (m) : Timeless s (execHistDump m s) :=
  serve_timeless fun _ _ hx => State.formChunk_only (within (by decide)) (State.freeBit_only (within (by decide)) hx)

theorem execModelFit_timeless (m) : Timeless s (execModelFit m s) := serve_timeless fun _ _ hx => hx

theorem execRemoteDest_timeless (m) : Timeless s (execRemoteDest m s) :=
  serve_timeless fun _ _ hx => setHost_within hx

theorem execTimeSet_timeless (m) : Timeless s (execTimeSet m s) :=
  serve_timeless fun _ _ hx => State.stepClock_only (within (by decide)) (State.putFlag_only (within (by decide)) hx)

theorem execTimeOfDay_timeless (m) : Timeless s (execTimeOfDay m s) :=
  serve_timeless fun _ _ hx => setClock_within rfl hx

theorem execTimeRearm_timeless (m) : Timeless s (execTimeRearm m s) :=
  serve_timeless fun _ _ hx => State.putFlag_only (within (by decide)) hx

theorem execPortAddress_timeless (m) : Timeless s (execPortAddress m s) :=
  serve_timeless fun _ _ hx => setHost_within hx

theorem execPtpStatus_timeless (m) : Timeless s (execPtpStatus m s) := serve_timeless fun _ _ hx => hx

theorem execUlpStatus_timeless (m) : Timeless s (execUlpStatus m s) := serve_timeless fun _ _ hx => hx

theorem execTableCommit_timeless (m) : Timeless s (execTableCommit m s) :=
  serve_timeless fun _ _ hx => State.commitTable_only (within (by decide)) hx

theorem execLinkRetrain_timeless (m) : Timeless s (execLinkRetrain m s) :=
  serve_timeless fun _ _ hx => State.realign_only (within (by decide)) hx

theorem execTelemetry_timeless (m) : Timeless s (execTelemetry m s) :=
  serve_timeless fun _ _ hx => telemetry_within hx

theorem execSensorRead_timeless (m) : Timeless s (execSensorRead m s) := serve_timeless fun _ _ hx => hx

theorem execMonRead_timeless (m) : Timeless s (execMonRead m s) := serve_timeless fun _ _ hx => hx

theorem execMonCalibrate_timeless (m) : Timeless s (execMonCalibrate m s) :=
  serve_timeless fun _ _ hx => State.setMonitor_only (within (by decide)) (State.putFlag_only (within (by decide)) hx)

theorem execBlockTaps_timeless (m) : Timeless s (execBlockTaps m s) := serve_timeless fun _ _ hx => hx

theorem execBlockTarget_timeless (m) : Timeless s (execBlockTarget m s) :=
  serve_timeless fun _ _ hx => State.putFlag_only (within (by decide))
    (State.setBlocking_only (within (by decide)) hx)

theorem execPatchLoad_timeless (m) : Timeless s (execPatchLoad m s) :=
  serve_timeless fun _ _ hx => takePatch_within hx _ _

theorem execPatchApply_timeless (m) : Timeless s (execPatchApply m s) :=
  serve_timeless fun _ _ hx => State.stopEngines_only (within (by decide))
    (State.putFlag_only (within (by decide)) (Only.setUpload (within (by decide)) hx))

theorem execEngineRestart_timeless (m) : Timeless s (execEngineRestart m s) := serve_timeless fun _ _ hx => hx

theorem execLogDrain_timeless (m) : Timeless s (execLogDrain m s) :=
  serve_timeless fun _ _ hx => Only.setLog (within (by decide)) hx

theorem execLogCounters_timeless (m) : Timeless s (execLogCounters m s) := serve_timeless fun _ _ hx => hx

theorem execLogFirst_timeless (m) : Timeless s (execLogFirst m s) := serve_timeless fun _ _ hx => hx

theorem execLogAckOverflow_timeless (m) : Timeless s (execLogAckOverflow m s) :=
  serve_timeless fun _ _ hx => State.putFlag_only (within (by decide)) hx

theorem execEcho_timeless (m) : Timeless s (execEcho m s) := serve_timeless fun _ _ hx => hx

theorem execParamGet_timeless (m) : Timeless s (execParamGet m s) :=
  serve_timeless fun _ _ hx => State.readEntries_only (within (by decide)) hx

theorem execParamSet_timeless (m) : Timeless s (execParamSet m s) :=
  serve_timeless fun _ _ hx => Only.foldl (fun _ _ hx => State.writeRecord_only reset_within hx) _ hx

end

/-! ### Writes of records -/

section

variable (s : State)

theorem execRecordWrite_timeless (m id value mask) : Timeless s (execRecordWrite m id value mask s) :=
  .next (State.writeAlone_only reset_within (fresh_within s))

theorem execMatrixCommit_timeless (m t) : Timeless s (execMatrixCommit m t s) :=
  .next (State.writeField_only reset_within (fresh_within s))

theorem execMutedClear_timeless (m n) : Timeless s (execMutedClear m n s) :=
  .next (State.writeField_only reset_within (fresh_within s))

theorem execBiasLatchClear_timeless (m n comp ol) : Timeless s (execBiasLatchClear m n comp ol s) :=
  .next (State.writeAlone_only reset_within (fresh_within s))

theorem execWeightCommit_timeless (m t sets) : Timeless s (execWeightCommit m t sets s) :=
  .next (State.writeField_only reset_within (fresh_within s))

theorem execHistClear_timeless (m slot) : Timeless s (execHistClear m slot s) :=
  .next (State.writeField_only reset_within (fresh_within s))

theorem execChannelCutClear_timeless (m c) : Timeless s (execChannelCutClear m c s) :=
  .next (State.writeField_only reset_within (fresh_within s))

theorem execGroupRecordWrite_timeless (m g value mask) : Timeless s (execGroupRecordWrite m g value mask s) :=
  .next (State.writeAlone_only reset_within (fresh_within s))

theorem execHcntClear_timeless (m k) : Timeless s (execHcntClear m k s) :=
  .next (State.writeField_only reset_within (fresh_within s))

theorem execStoreArbiterCommit_timeless (m) : Timeless s (execStoreArbiterCommit m s) :=
  .next (State.writeField_only reset_within (fresh_within s))

theorem execLibArbiterCommit_timeless (m t) : Timeless s (execLibArbiterCommit m t s) :=
  .next (State.writeField_only reset_within (fresh_within s))

theorem execPortCommit_timeless (m p) : Timeless s (execPortCommit m p s) :=
  .next (State.writeField_only reset_within (fresh_within s))

theorem execUlpPowerWrite_timeless (m p tx rx) : Timeless s (execUlpPowerWrite m p tx rx s) :=
  .next (State.writeAlone_only reset_within (fresh_within s))

theorem execUlpTestWrite_timeless (m p on) : Timeless s (execUlpTestWrite m p on s) :=
  .next (State.writeField_only reset_within (fresh_within s))

theorem execUlpLoopbackWrite_timeless (m p v) : Timeless s (execUlpLoopbackWrite m p v s) :=
  .next (State.writeField_only reset_within (fresh_within s))

theorem execInjGo_timeless (m p l) : Timeless s (execInjGo m p l s) :=
  .next (State.writeField_only reset_within (fresh_within s))

theorem execSensorFailedClear_timeless (m idx) : Timeless s (execSensorFailedClear m idx s) :=
  .next (State.writeField_only reset_within (fresh_within s))

theorem execRingStalledClear_timeless (m f c) : Timeless s (execRingStalledClear m f c s) :=
  .next (State.writeField_only reset_within (fresh_within s))

theorem execRingEnable_timeless (m f idx on) : Timeless s (execRingEnable m f idx on s) :=
  .next (State.writeField_only reset_within (fresh_within s))

theorem execCapRpWrite_timeless (m v) : Timeless s (execCapRpWrite m v s) :=
  .next (State.writeField_only reset_within (fresh_within s))

theorem execCaptureBufferSet_timeless (m base size) : Timeless s (execCaptureBufferSet m base size s) :=
  .next (State.writeAlone_only reset_within (fresh_within s))

theorem execOqEnableWrite_timeless (m q on) : Timeless s (execOqEnableWrite m q on s) :=
  .next (State.writeField_only reset_within (fresh_within s))

theorem execOqRpWrite_timeless (m q v) : Timeless s (execOqRpWrite m q v s) :=
  .next (State.writeField_only reset_within (fresh_within s))

theorem execTimeSourceWrite_timeless (m src) : Timeless s (execTimeSourceWrite m src s) :=
  .next (State.writeField_only reset_within (fresh_within s))

theorem execRateAdjWrite_timeless (m v) : Timeless s (execRateAdjWrite m v s) :=
  .next (State.writeField_only reset_within (fresh_within s))

theorem execOwnershipWrite_timeless (m value mask) : Timeless s (execOwnershipWrite m value mask s) :=
  .next (State.writeAlone_only reset_within (fresh_within s))

theorem execMailboxAssignWrite_timeless (m value mask) : Timeless s (execMailboxAssignWrite m value mask s) :=
  .next (State.writeAlone_only reset_within (fresh_within s))

end

/-! ### The host interface -/

section

variable (s : State)

theorem execDoorbellWrite_timeless (f k tag buf) : Timeless s (execDoorbellWrite f k tag buf s) := by
  unfold execDoorbellWrite
  refine .next ?_
  have hs := fresh_within s
  refine Only.ite ?_ ?_
  · split
    · exact State.ring_only (within (by decide)) hs
    · exact hs
  · exact hs

theorem execHostMark_timeless (f) : Timeless s (execHostMark f s) :=
  .when (State.raise_only (within (by decide)) (fresh_within s))

theorem execBar4Read_timeless (f offset len) : Timeless s (execBar4Read f offset len s) :=
  .when (State.bar4_only (within (by decide)) (fresh_within s))

theorem execBar4Write_timeless (f offset data) : Timeless s (execBar4Write f offset data s) :=
  .when (State.bar4_only (within (by decide)) (fresh_within s))

theorem execMergeBlockTimeout_timeless (block) : Timeless s (execMergeBlockTimeout block s) := by
  unfold execMergeBlockTimeout
  refine .next ?_
  have hs := fresh_within s
  split
  · exact Only.ite (State.flushMerge_only (within (by decide)) hs) hs
  · exact hs

theorem execRefillPiWrite_timeless (f r pi) : Timeless s (execRefillPiWrite f r pi s) :=
  .when (State.setPi_only (within (by decide)) (fresh_within s))

theorem execRefillDescriptor_timeless (f r desc data seals poisoned) :
    Timeless s (execRefillDescriptor f r desc data seals poisoned s) :=
  .when (State.takeRefill_only (within (by decide)) (fresh_within s))

theorem execSegmentResident_timeless (f r) : Timeless s (execSegmentResident f r s) := by
  unfold execSegmentResident
  refine .next ?_
  have hs := fresh_within s
  split
  · exact Only.ite (State.refillEnd_only (within (by decide))
        (State.moveBeats_only (within (by decide)) (State.installSegment_only (within (by decide))
        (setHost_within hs)))) hs
  · exact hs

theorem execCapturePiWrite_timeless (f c pi) : Timeless s (execCapturePiWrite f c pi s) :=
  .when (State.setPi_only (within (by decide)) (fresh_within s))

theorem execCaptureRingFill_timeless (f c desc) : Timeless s (execCaptureRingFill f c desc s) := by
  unfold execCaptureRingFill
  refine .next ?_
  have hs := fresh_within s
  refine Only.ite ?_ ?_
  · exact hs
  · split
    · exact hs
    · exact State.captureOpen_only (within (by decide)) hs
    · exact Only.ite (State.captureFill_only (within (by decide)) hs)
          (State.captureOpen_only (within (by decide)) (State.captureEnd_only (within (by decide)) hs))

theorem execCaptureFlushTimeout_timeless (f c) : Timeless s (execCaptureFlushTimeout f c s) := by
  unfold execCaptureFlushTimeout
  refine .next ?_
  have hs := fresh_within s
  split
  · exact Only.ite (State.captureEnd_only (within (by decide)) hs) hs
  · exact hs

theorem execCompletionCiWrite_timeless (f ci) : Timeless s (execCompletionCiWrite f ci s) :=
  .when (State.setCi_only (within (by decide)) (fresh_within s))

theorem execPcieFlr_timeless (f) : Timeless s (execPcieFlr f s) :=
  .unless (State.flr_only (within (by decide)) (fresh_within s))

theorem execPcieLinkUp_timeless (rate width) : Timeless s (execPcieLinkUp rate width s) :=
  .unless (State.setWidth_only (within (by decide)) (setHost_within
    (State.deliverHeld_only (within (by decide)) (State.put_only (within (by decide))
    (State.putFlag_only (within (by decide)) (fresh_within s))))))

theorem execNumvfsChange_timeless (n) : Timeless s (execNumvfsChange n s) :=
  .unless (State.put_only (within (by decide)) (Only.foldl (fun _ _ hx => State.removeFn_only (within
    (by decide)) hx) _ (fresh_within s)))

end

/-! ### SYNC, Blocking and die links -/

section

variable (s : State)

theorem execSyncEdge_timeless (phi) : Timeless s (execSyncEdge phi s) :=
  .unless (Only.ite (State.acceptSync_only (within (by decide))
    (State.put_only (within (by decide)) (fresh_within s))) (State.ignoreSync_only (within (by decide))
    (State.put_only (within (by decide)) (fresh_within s))))

theorem execBlockingStep_timeless (g trim err) : Timeless s (execBlockingStep g trim err s) :=
  .when (State.putFlag_only (within (by decide)) (afterwards
    (Only.ite (State.judgeGroup_only (within (by decide)) (State.stepTrim_only (within (by decide))
    (Only.refl _ _))) (Only.refl _ _)) (State.judgeGroup_only (within (by decide))
    (State.measureTrim_only (within (by decide)) (fresh_within s)))))

theorem execFlitCrcFail_timeless (k) : Timeless s (execFlitCrcFail k s) :=
  .unless (State.report_only (within (by decide)) (fresh_within s))

theorem execFlitReplayFail_timeless (k) : Timeless s (execFlitReplayFail k s) :=
  .unless (Only.foldl (fun _ _ hx => Only.ite (State.voidShot_only (within (by decide)) hx) hx) _
    (Only.setCrown (within (by decide)) (State.report_only (within (by decide)) (fresh_within s))))

theorem execDieLinkRetrainDone_timeless (k ok) : Timeless s (execDieLinkRetrainDone k ok s) := by
  unfold execDieLinkRetrainDone
  refine .next ?_
  have hs := fresh_within s
  refine Only.ite ?_ hs
  dsimp only
  refine Only.ite (Only.foldl (fun _ _ hx => State.landTransit_only (within (by decide)) hx) _ ?_) ?_
  · exact State.report_only (within (by decide)) (Only.setCrown (within (by decide)) hs)
  · exact State.enterSafe_only (within (by decide)) (State.report_only (within (by decide))
        (Only.setCrown (within (by decide)) hs))

end

/-! ### Shots, segments and jumps -/

section

variable (s : State)

theorem execShotStart_timeless (g) : Timeless s (execShotStart g s) :=
  .when (State.startShot_only (within (by decide)) (fresh_within s))

theorem execShotOverrun_timeless (t) : Timeless s (execShotOverrun t s) :=
  .when (State.endTile_only (within (by decide)) (State.voidShot_only (within (by decide))
    (State.report_only (within (by decide)) (State.raise_only (within (by decide)) (fresh_within s)))))

theorem execSegmentFetchDeadline_timeless (t) : Timeless s (execSegmentFetchDeadline t s) := by
  unfold execSegmentFetchDeadline
  refine .next ?_
  have hs := fresh_within s
  split
  · exact hs
  · exact Only.ite (State.checkFirst_only (within (by decide))
        (Only.ite (State.checkFetch_only (within (by decide)) hs) hs))
        (Only.ite (State.prepareTile_only (within (by decide)) hs) hs)

theorem execSwitchPoint_timeless (t sealBad) : Timeless s (execSwitchPoint t sealBad s) := by
  unfold execSwitchPoint
  refine .next ?_
  have hs := fresh_within s
  refine Only.ite ?_ ?_
  · dsimp only
    split
    · exact Only.ite (State.choose_only (within (by decide)) hs)
          (State.loadSegment_only (within (by decide)) (State.choose_only (within (by decide)) hs))
    · exact State.choose_only (within (by decide)) hs
  · exact Only.ite (State.loadSegment_only (within (by decide)) hs) hs

theorem execSegmentBoundary_timeless (t) : Timeless s (execSegmentBoundary t s) := by
  unfold execSegmentBoundary
  refine .next ?_
  have hs := fresh_within s
  split
  · refine Only.ite ?_ ?_
    · dsimp only
      split
      · exact State.enterSegment_only (within (by decide)) (State.newSegment_only (within (by decide)) hs)
      · exact State.endTile_only (within (by decide)) (State.newSegment_only (within (by decide)) hs)
    · exact hs
  · exact hs

theorem execShotEndBoundary_timeless (g) : Timeless s (execShotEndBoundary g s) := by
  unfold execShotEndBoundary
  refine .next ?_
  have hs := fresh_within s
  split
  · exact Only.ite (State.closeShot_only (within (by decide)) hs) hs
  · exact hs

theorem execRecordsPassed_timeless (t) : Timeless s (execRecordsPassed t s) := by
  unfold execRecordsPassed
  refine .next ?_
  have hs := fresh_within s
  split
  · exact Only.ite (State.passRecords_only (within (by decide)) hs) hs
  · exact hs

theorem execJumpRequest_timeless (t) : Timeless s (execJumpRequest t s) := by
  unfold execJumpRequest
  refine .next ?_
  have hs := fresh_within s
  split
  · exact State.takeJump_only (within (by decide)) (State.setTile_only (within (by decide)) hs)
  · exact hs

end

/-! ### Operation words -/

section

variable (s : State)

theorem execPlay_timeless (t) : Timeless s (execPlay t s) :=
  dispatchTimed_timeless fun _ _ _ hx => State.playPulse_only (within (by decide)) hx

theorem execPlayParam_timeless (t) : Timeless s (execPlayParam t s) :=
  dispatchTimed_timeless fun _ _ _ hx => State.playPulse_only (within (by decide)) hx

theorem execFrame_timeless (t) : Timeless s (execFrame t s) :=
  dispatchTimed_timeless fun _ _ _ hx => State.sendFrame_only (within (by decide)) hx

theorem execFrameUpdateApply_timeless (t probe u) : Timeless s (execFrameUpdateApply t probe u s) := by
  unfold execFrameUpdateApply
  refine .next ?_
  have hs := fresh_within s
  split
  · exact Only.ite (State.applyFrame_only (within (by decide)) hs) hs
  · exact hs

theorem execBiasSet_timeless (t transit) : Timeless s (execBiasSet t transit s) :=
  dispatchTimed_timeless fun _ _ _ hx => State.sendBias_only (within (by decide)) hx

theorem execBiasRamp_timeless (t transit) : Timeless s (execBiasRamp t transit s) :=
  dispatchTimed_timeless fun _ _ _ hx => State.sendBias_only (within (by decide)) hx

theorem execBiasSine_timeless (t transit) : Timeless s (execBiasSine t transit s) :=
  dispatchTimed_timeless fun _ _ _ hx => State.sendBias_only (within (by decide)) hx

theorem execBiasOpAct_timeless (n sealBad) : Timeless s (execBiasOpAct n sealBad s) := by
  unfold execBiasOpAct
  refine .next ?_
  have hs := fresh_within s
  split
  · exact Only.ite (Only.ite (State.lateHold_only (within (by decide)) hs)
        (State.actBias_only (within (by decide)) hs)) hs
  · exact hs

theorem execBiasRampComplete_timeless (n) : Timeless s (execBiasRampComplete n s) := by
  unfold execBiasRampComplete
  refine .next ?_
  have hs := fresh_within s
  split
  · exact Only.ite (State.setBias_only (within (by decide)) hs) hs
  · exact hs

theorem execSineFadeEnd_timeless (n) : Timeless s (execSineFadeEnd n s) := by
  unfold execSineFadeEnd
  refine .next ?_
  have hs := fresh_within s
  split
  · split
    · exact Only.ite (State.setBias_only (within (by decide)) hs) hs
    · exact hs
  · exact hs

theorem execAcquire_timeless (t) : Timeless s (execAcquire t s) :=
  dispatchTimed_timeless fun _ _ _ hx => State.acquire_only (within (by decide)) hx

theorem execTset_timeless (t) : Timeless s (execTset t s) :=
  dispatchTimed_timeless fun _ _ _ hx => State.advance_only (within (by decide))
    (State.selectSet_only (within (by decide)) hx)

theorem execWaitUntil_timeless (t) : Timeless s (execWaitUntil t s) :=
  dispatchTimed_timeless fun _ _ _ hx => State.beginWait_only (within (by decide))
    (State.setTile_only (within (by decide)) hx)

theorem execWaitUntilEnd_timeless (t) : Timeless s (execWaitUntilEnd t s) := by
  unfold execWaitUntilEnd
  refine .next ?_
  have hs := fresh_within s
  split
  · exact Only.ite (State.advance_only (within (by decide)) (State.setTile_only (within (by decide)) hs)) hs
  · exact hs

theorem execWaitEvent_timeless (t) : Timeless s (execWaitEvent t s) := dispatch_timeless fun _ _ hx => by
  split
  · exact State.advance_only (within (by decide)) (State.takeLatch_only (within (by decide)) hx)
  · exact State.beginWait_only (within (by decide)) hx

theorem execWaitEventTimeout_timeless (t) : Timeless s (execWaitEventTimeout t s) :=
  dispatch_timeless fun _ _ hx => Only.ite (State.advance_only (within (by decide))
    (State.waitTimeout_only (within (by decide)) hx)) hx

theorem execAlign_timeless (t) : Timeless s (execAlign t s) :=
  dispatch_timeless fun _ _ hx => State.advance_only (within (by decide)) (State.setMark_only (within (by decide)) hx)

theorem execBranchOnDecision_timeless (t) : Timeless s (execBranchOnDecision t s) :=
  dispatch_timeless fun _ _ hx => by
    dsimp only
    split
    · exact State.branch_only (within (by decide)) (State.setMark_only (within (by decide)) hx)
    · exact State.beginWait_only (within (by decide)) hx
    · exact State.branch_only (within (by decide)) (State.setMark_only (within (by decide))
      (State.setTile_only (within (by decide)) hx))

theorem execBranchOnEvent_timeless (t) : Timeless s (execBranchOnEvent t s) := dispatch_timeless fun _ _ hx => by
  split
  · exact State.branch_only (within (by decide)) (State.takeLatch_only (within (by decide)) hx)
  · exact State.beginWait_only (within (by decide)) hx

theorem execBranchOnCounter_timeless (t) : Timeless s (execBranchOnCounter t s) :=
  dispatch_timeless fun _ _ hx => State.branch_only (within (by decide)) hx

theorem execBranchOnAlways_timeless (t) : Timeless s (execBranchOnAlways t s) :=
  dispatch_timeless fun _ _ hx => State.branch_only (within (by decide)) hx

theorem execBranchOnTimeout_timeless (t) : Timeless s (execBranchOnTimeout t s) :=
  .when (State.branch_only (within (by decide)) (State.waitTimeout_only (within (by decide)) (fresh_within s)))

theorem execSeg_timeless (t) : Timeless s (execSeg t s) :=
  dispatch_timeless fun _ _ hx => State.endSegment_only (within (by decide)) hx

theorem execLoop_timeless (t) : Timeless s (execLoop t s) :=
  dispatch_timeless fun _ _ hx => State.endSegment_only (within (by decide)) hx

theorem execJump_timeless (t) : Timeless s (execJump t s) :=
  dispatch_timeless fun _ _ hx => State.endSegment_only (within (by decide)) hx

theorem execEmit_timeless (t) : Timeless s (execEmit t s) :=
  dispatchTimed_timeless fun _ _ _ hx => State.beginWait_only (within (by decide))
    (State.setTile_only (within (by decide)) hx)

theorem execEmitRaise_timeless (t) : Timeless s (execEmitRaise t s) := by
  unfold execEmitRaise
  refine .next ?_
  have hs := fresh_within s
  split
  · exact Only.ite (State.advance_only (within (by decide)) (State.raiseFrom_only (within (by decide))
        (State.setTile_only (within (by decide)) hs))) hs
  · exact hs

theorem execBarrier_timeless (t) : Timeless s (execBarrier t s) := dispatch_timeless fun _ _ hx => by
  split
  · exact State.arrive_only (within (by decide)) hx
  · exact hx

theorem execBarrierRelease_timeless (g b) : Timeless s (execBarrierRelease g b s) := by
  unfold execBarrierRelease
  refine .next ?_
  have hs := fresh_within s
  split
  · exact hs
  · split
    · exact hs
    · exact Only.ite (State.setGroup_only (within (by decide))
          (Only.foldl (fun _ _ hx => State.releaseTileFrom_only (within (by decide)) hx) _ hs)) hs

theorem execBarrierTimeout_timeless (g b) : Timeless s (execBarrierTimeout g b s) := by
  unfold execBarrierTimeout
  refine .next ?_
  have hs := fresh_within s
  split
  · exact hs
  · exact Only.ite (State.failBarrier_only (within (by decide)) hs) hs

theorem execCountSet_timeless (t) : Timeless s (execCountSet t s) :=
  dispatch_timeless fun _ _ hx => State.advance_only (within (by decide)) (State.putAt_only (within (by decide)) hx)

theorem execCountAdd_timeless (t) : Timeless s (execCountAdd t s) :=
  dispatch_timeless fun _ _ hx => State.advance_only (within (by decide)) (State.putAt_only (within (by decide)) hx)

theorem execCountAddIf_timeless (t) : Timeless s (execCountAddIf t s) :=
  dispatch_timeless fun _ _ hx => State.advance_only (within (by decide))
    (Only.ite (State.putAt_only (within (by decide)) hx) hx)

theorem execShotEnd_timeless (t) : Timeless s (execShotEnd t s) :=
  dispatch_timeless fun _ _ hx => State.endSegment_only (within (by decide)) hx

theorem execBadOp_timeless (t) : Timeless s (execBadOp t s) :=
  dispatch_timeless fun _ _ hx => State.programFault_only (within (by decide)) hx

end

/-! ### Bursts and samples -/

section

variable (s : State)

theorem execBurstIssue_timeless (t probe u transit) : Timeless s (execBurstIssue t probe u transit s) := by
  unfold execBurstIssue
  refine .next ?_
  have hs := fresh_within s
  split
  · exact Only.ite (State.issueBurst_only (within (by decide)) hs) hs
  · exact hs

theorem execSampleRelease_timeless (ch sealBad) : Timeless s (execSampleRelease ch sealBad s) := by
  unfold execSampleRelease
  refine .next ?_
  have hs := fresh_within s
  split
  · exact Only.ite (State.releaseXy_only (within (by decide)) hs) hs
  · exact Only.ite (State.releaseProbe_only (within (by decide)) hs) hs
  · exact Only.ite (State.releaseBiasWord_only (within (by decide)) hs) hs

theorem execLateDetect_timeless (ch) : Timeless s (execLateDetect ch s) := by
  unfold execLateDetect
  refine .next ?_
  have hs := fresh_within s
  split
  · split
    · exact State.lateChannel_only (within (by decide)) hs
    · exact hs
  · split
    · exact State.lateChannel_only (within (by decide)) hs
    · exact hs
  · split
    · exact State.lateBias_only (within (by decide)) hs
    · exact hs

theorem execPowerMute_timeless (n) : Timeless s (execPowerMute n s) :=
  .when (State.mute_only (within (by decide)) (fresh_within s))

theorem execParkRampDone_timeless (n) : Timeless s (execParkRampDone n s) := by
  unfold execParkRampDone
  refine .next ?_
  have hs := fresh_within s
  split
  · exact Only.ite (State.rampEnded_only reset_within (State.setBias_only (within (by decide)) hs)) hs
  · exact hs

theorem execParkOscHandback_timeless (idx) : Timeless s (execParkOscHandback idx s) :=
  .when (Only.foldl (fun _ _ hx => State.setBias_only (within (by decide)) hx) _ (fresh_within s))

theorem execComplianceTrip_timeless (n v) : Timeless s (execComplianceTrip n v s) :=
  .unless (Only.ite (State.trip_only (within (by decide)) (State.put_only (within (by decide)) (fresh_within s)))
    (State.put_only (within (by decide)) (fresh_within s)))

theorem execOpenLoadTrip_timeless (n) : Timeless s (execOpenLoadTrip n s) :=
  .when (State.trip_only (within (by decide)) (State.setBias_only (within (by decide)) (fresh_within s)))

end

/-! ### Windows and decisions -/

section

variable (s : State)

theorem execWindowOpen_timeless (t) : Timeless s (execWindowOpen t s) := by
  unfold execWindowOpen
  refine .next ?_
  have hs := fresh_within s
  split
  · exact State.openWindow_only (within (by decide)) hs
  · exact hs

theorem execAdcOverrange_timeless (t k) : Timeless s (execAdcOverrange t k s) :=
  .when (afterwards (Only.ite (State.raise_only (within (by decide))
    (State.setAcq_only (within (by decide)) (Only.refl _ _))) (Only.refl _ _))
    (State.markOverrange_only (within (by decide)) (State.count_only (within (by decide)) (fresh_within s))))

theorem execPounceEvaluate_timeless (t u idx q sealBad) : Timeless s (execPounceEvaluate t u idx q sealBad s) := by
  unfold execPounceEvaluate
  refine .next ?_
  have hs := fresh_within s
  split
  · exact Only.ite (State.evaluate_only (within (by decide)) hs) hs
  · exact hs

theorem execDecisionReady_timeless (t u) : Timeless s (execDecisionReady t u s) := by
  unfold execDecisionReady
  refine .next ?_
  have hs := fresh_within s
  split
  · exact hs
  · dsimp only
    split
    · exact State.settleWindow_only (within (by decide)) hs
    · split
      · exact Only.ite (State.passDecision_only (within (by decide))
            (State.settleWindow_only (within (by decide)) hs)) (State.settleWindow_only (within (by decide)) hs)
      · exact State.settleWindow_only (within (by decide)) hs

theorem execSnapshotDone_timeless (t samples sealBad) : Timeless s (execSnapshotDone t samples sealBad s) := by
  unfold execSnapshotDone
  refine .next ?_
  have hs := fresh_within s
  split
  · exact Only.ite (State.endSnapshot_only (within (by decide)) hs) hs
  · exact hs

theorem execIqChunkForm_timeless (t points) : Timeless s (execIqChunkForm t points s) := by
  unfold execIqChunkForm
  refine .next ?_
  have hs := fresh_within s
  split
  · exact Only.ite (State.iqChunk_only (within (by decide)) hs) hs
  · exact hs

end

/-! ### Engines -/

section

variable (s : State)

theorem execMachineCheck_timeless (e addr again) : Timeless s (execMachineCheck e addr again s) :=
  .unless (afterwards (Only.ite (State.stopEngine_only (within (by decide)) (Only.refl _ _))
    (State.count_only (within (by decide)) (Only.refl _ _)))
    (State.report_only (within (by decide)) (afterwards (Only.ite
    (State.raise_only (within (by decide)) (Only.refl _ _)) (Only.refl _ _))
    (State.put_only (within (by decide)) (fresh_within s)))))

theorem execInterruptTaken_timeless (e) : Timeless s (execInterruptTaken e s) :=
  .unless (Only.ite (State.setEngine_only (within (by decide)) (fresh_within s))
    (State.interrupt_only (within (by decide)) (fresh_within s)))

theorem execMicrowordWaitTimeout_timeless (e) : Timeless s (execMicrowordWaitTimeout e s) := by
  unfold execMicrowordWaitTimeout
  refine .next ?_
  have hs := fresh_within s
  split
  · exact hs
  · exact Only.ite (State.goToFail_only (within (by decide)) hs) hs

end

/-! ### Hatband and triggers -/

section

variable (s : State)

theorem execHatbandArrival_timeless (c n) : Timeless s (execHatbandArrival c n s) :=
  .next (State.arriveAt_only (within (by decide)) (State.setHatband_only (within (by decide)) (fresh_within s)))

theorem execHatbandDelivery_timeless (c) : Timeless s (execHatbandDelivery c s) := by
  unfold execHatbandDelivery
  refine .next ?_
  have hs := fresh_within s
  split
  · exact State.deliver_only (within (by decide)) (State.setHatband_only (within (by decide)) hs)
  · exact hs

theorem execGroupSwitch_timeless (g) : Timeless s (execGroupSwitch g s) :=
  .when (State.putFlag_only (within (by decide)) (State.setHatband_only (within (by decide)) (fresh_within s)))

theorem execTrigInAccept_timeless (idx) : Timeless s (execTrigInAccept idx s) :=
  .unless (afterwards (Only.ite (State.dropEdge_only (within (by decide)) (Only.refl _ _))
    (State.acceptEdge_only (within (by decide)) (Only.refl _ _)))
    (State.putFlag_only (within (by decide)) (State.setTrig_only (within (by decide)) (fresh_within s))))

theorem execTrigInStuck_timeless (idx) : Timeless s (execTrigInStuck idx s) := by
  unfold execTrigInStuck
  refine .next ?_
  have hs := fresh_within s
  split
  · exact Only.ite (State.trigFault_only (within (by decide))
        (State.putFlag_only (within (by decide)) (State.setTrig_only (within (by decide))
        (State.count_only (within (by decide)) (State.putFlag_only (within (by decide)) hs))))) hs
  · exact hs

theorem execTrigInUnmask_timeless (idx) : Timeless s (execTrigInUnmask idx s) := by
  unfold execTrigInUnmask
  refine .next ?_
  have hs := fresh_within s
  split
  · exact Only.ite (State.trigFault_only (within (by decide))
        (State.setTrig_only (within (by decide)) (State.putFlag_only (within (by decide))
        (State.putFlag_only (within (by decide)) hs)))) hs
  · exact hs

theorem execTrigOutPulseEnd_timeless (idx) : Timeless s (execTrigOutPulseEnd idx s) := by
  unfold execTrigOutPulseEnd
  refine .next ?_
  have hs := fresh_within s
  split
  · exact Only.ite (State.emit_only (within (by decide)) (State.setTrig_only (within (by decide)) hs)) hs
  · exact hs

end

/-! ### Memory errors -/

section

variable (s : State)

theorem execStoreUncorrectable_timeless (beat e) : Timeless s (execStoreUncorrectable beat e s) := by
  unfold execStoreUncorrectable
  refine .next ?_
  have hs := fresh_within s
  refine Only.ite ?_ ?_
  · exact hs
  · split
    · exact State.count_only (within (by decide)) hs
    · exact State.report_only (within (by decide)) (State.raise_only (within (by decide))
          (State.count_only (within (by decide)) hs))
    · exact State.retirePage_only (within (by decide)) (State.report_only (within (by decide))
          (State.raise_only (within (by decide)) (State.count_only (within (by decide)) hs)))

theorem execLibParityError_timeless (t row lasting playback) :
    Timeless s (execLibParityError t row lasting playback s) :=
  .unless (Only.ite (State.libLasting_only (within (by decide)) (fresh_within s))
    (State.report_only (within (by decide)) (State.raise_only (within (by decide))
    (State.count_only (within (by decide)) (fresh_within s)))))

end

/-! ### Ports -/

section

variable (s : State)

theorem execLaneLock_timeless (p l headers) : Timeless s (execLaneLock p l headers s) :=
  .when (Only.ite (State.lockLane_only (within (by decide)) (State.setAlign_only (within (by decide))
    (fresh_within s))) (State.setAlign_only (within (by decide)) (fresh_within s)))

theorem execLaneLockLoss_timeless (p l headers) : Timeless s (execLaneLockLoss p l headers s) :=
  .unless (Only.ite (State.setAlign_only (within (by decide)) (fresh_within s))
    (Only.ite (State.report_only (within (by decide)) (State.raise_only (within (by decide))
    (State.raise_only (within (by decide)) (State.count_only (within (by decide))
    (State.rxDown_only (within (by decide)) (fresh_within s))))))
    (Only.ite (State.rxDown_only (within (by decide)) (fresh_within s))
    (State.put_only (within (by decide)) (fresh_within s)))))

theorem execSuperframeStart_timeless (p) : Timeless s (execSuperframeStart p s) :=
  .when (State.startSuperframe_only (within (by decide)) (fresh_within s))

theorem execControlFrameRx_timeless (p headers frame) : Timeless s (execControlFrameRx p headers frame s) :=
  .when (State.useControl_only (within (by decide)) (fresh_within s))

theorem execDecisionFrameBuild_timeless (p slot) : Timeless s (execDecisionFrameBuild p slot s) := by
  unfold execDecisionFrameBuild
  refine .next ?_
  have hs := fresh_within s
  refine Only.ite ?_ hs
  have hu := State.buildStreams_only (p := p) (within (by decide)) (State.settleAll_only (within (by decide)) hs)
  generalize s.fresh.settleAll.buildStreams p = u at hu ⊢
  exact State.sendFrameOut_only (within (by decide)) (State.setPort_only (within (by decide)) hu)

theorem execDecisionFrameRx_timeless (p second headers frame) :
    Timeless s (execDecisionFrameRx p second headers frame s) :=
  .unless (Only.ite (State.bulkSlot_only (within (by decide)) (fresh_within s))
    (Only.ite (State.secondCopy_only (within (by decide)) (fresh_within s))
    (Only.ite (State.useFrame_only (within (by decide)) (State.setPort_only (within (by decide)) (fresh_within s)))
    (State.setPort_only (within (by decide)) (fresh_within s)))))

theorem execBulkCellRx_timeless (p headers cell) : Timeless s (execBulkCellRx p headers cell s) :=
  .when (State.bulkSlot_only (within (by decide)) (fresh_within s))

theorem execBulkAckTimeout_timeless (p) : Timeless s (execBulkAckTimeout p s) :=
  .when (State.count_only (within (by decide)) (State.setPort_only (within (by decide)) (fresh_within s)))

theorem execSlotSwap_timeless (p) : Timeless s (execSlotSwap p s) := by
  unfold execSlotSwap
  refine .next ?_
  have hs := fresh_within s
  split
  · exact Only.ite (State.swapTables_only (within (by decide)) hs) hs
  · exact hs

theorem execSwapTimeout_timeless (p) : Timeless s (execSwapTimeout p s) := by
  unfold execSwapTimeout
  refine .next ?_
  have hs := fresh_within s
  split
  · exact Only.ite (State.failSwap_only (within (by decide)) hs) hs
  · exact hs

theorem execLinkSleepEnter_timeless (p) : Timeless s (execLinkSleepEnter p s) :=
  .when (State.setPort_only (within (by decide)) (State.put_only (within (by decide)) (fresh_within s)))

theorem execPrbsCheckError_timeless (p l) : Timeless s (execPrbsCheckError p l s) :=
  .when (Only.ite (State.count_only (within (by decide)) (fresh_within s))
    (State.raise_only (within (by decide)) (State.setPort_only (within (by decide))
    (State.count_only (within (by decide)) (fresh_within s)))))

end

/-! ### Fulling -/

section

variable (s : State)

theorem execAutoJobRetry_timeless (q) : Timeless s (execAutoJobRetry q s) := by
  unfold execAutoJobRetry
  refine .next ?_
  have hs := fresh_within s
  split
  · exact Only.ite (State.releaseJob_only (within (by decide)) hs) hs
  · exact hs

theorem execFullingJobStart_timeless (e) : Timeless s (execFullingJobStart e s) := by
  unfold execFullingJobStart
  refine .next ?_
  have hs := fresh_within s
  refine Only.ite ?_ ?_
  · exact hs
  · split
    · exact hs
    · split
      · exact State.startJob_only (within (by decide)) hs
      · exact hs

theorem execFullingFrameWrite_timeless (e bad poisoned) : Timeless s (execFullingFrameWrite e bad poisoned s) := by
  unfold execFullingFrameWrite
  refine .next ?_
  have hs := fresh_within s
  split
  · exact hs
  · exact Only.ite hs (Only.ite (State.expandNext_only (within (by decide)) hs)
        (State.writeFrame_only (within (by decide)) hs))

theorem execFullingJobCommit_timeless (e) : Timeless s (execFullingJobCommit e s) := by
  unfold execFullingJobCommit
  refine .next ?_
  have hs := fresh_within s
  split
  · exact Only.ite (State.commitJob_only (within (by decide)) hs) hs
  · exact hs

end

/-! ### Timekeeping messages -/

section

variable (s : State)

theorem execCompareFire_timeless (u) : Timeless s (execCompareFire u s) :=
  .when (State.fireCompare_only (within (by decide)) (fresh_within s))

theorem execPtpMessageRx_timeless (msg) : Timeless s (execPtpMessageRx msg s) :=
  .when (State.ptpReceive_only (within (by decide)) (fresh_within s))

theorem execPtpMessageTx_timeless (kind) : Timeless s (execPtpMessageTx kind s) :=
  .when (State.ptpSend_only (within (by decide)) (fresh_within s))

end

/-! ### Feeds and rails -/

section

variable (s : State)

theorem execFeedQualify_timeless (feed mv) : Timeless s (execFeedQualify feed mv s) :=
  .when (State.drawFeed_only (within (by decide)) (fresh_within s))

theorem execFeedDrop_timeless (feed mv) : Timeless s (execFeedDrop feed mv s) :=
  .when (State.dropFeed_only (within (by decide)) (fresh_within s))

theorem execFeedRejoin_timeless (feed mv) : Timeless s (execFeedRejoin feed mv s) :=
  .when (State.drawFeed_only (within (by decide)) (fresh_within s))

theorem execShedStageEnter_timeless (mv) : Timeless s (execShedStageEnter mv s) :=
  .when (State.enterStage_only (within (by decide)) (fresh_within s))

theorem execShedStageRecover_timeless (mv) : Timeless s (execShedStageRecover mv s) :=
  .when (State.recoverAction_only (within (by decide)) (State.setStage_only (within (by decide)) (fresh_within s)))

theorem execPmbusPage_timeless (addr page) : Timeless s (execPmbusPage addr page s) :=
  .when (State.setPower_only (within (by decide)) (fresh_within s))

theorem execPmbusOperation_timeless (addr op) : Timeless s (execPmbusOperation addr op s) :=
  .unless (Only.ite (State.rampTo_only (within (by decide)) (fresh_within s))
    (Only.ite (State.setPower_only (within (by decide)) (fresh_within s)) (fresh_within s)))

theorem execPmbusStatusRead_timeless (addr code) : Timeless s (execPmbusStatusRead addr code s) :=
  .unless (Only.ite (State.emit_only (within (by decide)) (fresh_within s))
    (Only.ite (State.emit_only (within (by decide)) (fresh_within s))
    (Only.ite (State.emit_only (within (by decide)) (fresh_within s)) (fresh_within s))))

theorem execPmbusReadValue_timeless (addr code) : Timeless s (execPmbusReadValue addr code s) :=
  .unless (Only.ite (State.emit_only (within (by decide)) (fresh_within s))
    (Only.ite (State.emit_only (within (by decide)) (fresh_within s))
    (Only.ite (State.emit_only (within (by decide)) (fresh_within s))
    (Only.ite (State.emit_only (within (by decide)) (fresh_within s)) (fresh_within s)))))

end

/-! ### Sensors and the monitor -/

section

variable (s : State)

theorem execSensorSample_timeless (idx reading convFault stuck) :
    Timeless s (execSensorSample idx reading convFault stuck s) :=
  .next (Only.ite (Only.ite (State.setPower_only (within (by decide)) (fresh_within s)) (fresh_within s))
    (Only.ite (fresh_within s) (State.sampleSensor_only (within (by decide)) (fresh_within s))))

theorem execMonSeqDone_timeless (codes) : Timeless s (execMonSeqDone codes s) := by
  unfold execMonSeqDone
  refine .next ?_
  have hs := fresh_within s
  split
  · exact Only.ite (State.regDone_only (within (by decide)) hs) hs
  · exact hs

theorem execMonInjTrigger_timeless (cause) : Timeless s (execMonInjTrigger cause s) := by
  unfold execMonInjTrigger
  refine .next ?_
  have hs := fresh_within s
  split
  · have hu := takeUrgent_within hs ‹_›
    exact Only.ite (State.count_only (within (by decide)) hu)
        (State.setMonitor_only (within (by decide)) (State.putFlag_only (within (by decide)) hu))
  · exact hs

theorem execMonInjDone_timeless (codes wall) : Timeless s (execMonInjDone codes wall s) := by
  unfold execMonInjDone
  refine .next ?_
  have hs := fresh_within s
  split
  · exact Only.ite (State.injDone_only (within (by decide)) hs) hs
  · exact hs

theorem execMonSelfCalDone_timeless (offsets gains) : Timeless s (execMonSelfCalDone offsets gains s) := by
  unfold execMonSelfCalDone
  refine .next ?_
  have hs := fresh_within s
  split
  · exact Only.ite (State.selfCalDone_only (within (by decide)) hs) hs
  · exact hs

end

/-! ### What completes later -/

section

variable (s : State)

theorem execSelftestDone_timeless (failed) : Timeless s (execSelftestDone failed s) :=
  .unless (afterwards (Only.ite (State.enterSafe_only (within (by decide)) (Only.refl _ _))
    (Only.ite (State.enterSafe_only (within (by decide)) (Only.refl _ _))
    (State.beginCalibrate_only (within (by decide)) (Only.refl _ _))))
    (State.setCrown_only (within (by decide)) (Only.foldl (fun _ _ hx => State.report_only (within
    (by decide)) hx) _ (State.applyRetired_only (within (by decide)) (fresh_within s)))))

theorem execCrownSelfDiagnosis_timeless (pass) : Timeless s (execCrownSelfDiagnosis pass s) :=
  .unless (afterwards (Only.ite (State.enterSafe_only (within (by decide)) (Only.refl _ _)) (Only.refl _ _))
    (State.handOver_only (within (by decide)) (State.markOut_only (within (by decide))
    (State.report_only (within (by decide)) (fresh_within s)))))

theorem execFirstFullMeasurement_timeless (g errs) : Timeless s (execFirstFullMeasurement g errs s) :=
  .when (afterwards (Only.ite (State.completeGroup_only (within (by decide)) (Only.refl _ _)) (Only.refl _ _))
    (Only.foldl (fun _ _ hx => State.measureTrim_only (within (by decide)) hx) _ (fresh_within s)))

theorem execPrbsSync_timeless (p l) : Timeless s (execPrbsSync p l s) :=
  .when (State.putFlag_only (within (by decide)) (fresh_within s))

theorem execPcsAlignmentChange_timeless (ok) : Timeless s (execPcsAlignmentChange ok s) :=
  .unless (State.putFlag_only (within (by decide)) (fresh_within s))

theorem execBulkCellTx_timeless (p) : Timeless s (execBulkCellTx p s) :=
  .when (State.nextCell_only (within (by decide)) (fresh_within s))

theorem execModelFitDone_timeless (m) : Timeless s (execModelFitDone m s) := by
  unfold execModelFitDone
  refine .next ?_
  have hs := fresh_within s
  split
  · split
    · exact State.endFit_only (within (by decide)) hs
    · exact hs
  · exact hs

theorem execEngineRestartDone_timeless (e bad) : Timeless s (execEngineRestartDone e bad s) :=
  .when (Only.ite (State.finishAll_only (within (by decide))
    (State.putFlag_only (within (by decide)) (State.put_only (within (by decide)) (fresh_within s))))
    (State.finishAll_only (within (by decide)) (fresh_within s)))

end

/-! ### Resets and links -/

section

variable (s : State)

theorem execSystemResetHoldEnd_timeless : Timeless s (execSystemResetHoldEnd s) := by
  unfold execSystemResetHoldEnd
  refine .next ?_
  have hs := fresh_within s
  split
  · exact Only.ite (State.tryBoot_only (within (by decide)) (State.setPower_only (within (by decide)) hs)) hs
  · exact hs

theorem execPatchSwap_timeless : Timeless s (execPatchSwap s) := by
  unfold execPatchSwap
  refine .next ?_
  have hs := fresh_within s
  split
  · exact Only.ite (State.finishAll_only (within (by decide))
        (State.resumeEngines_only (within (by decide)) (State.installPatch_only (within (by decide)) hs))) hs
  · exact hs

theorem execPatchWaitExpiry_timeless : Timeless s (execPatchWaitExpiry s) := by
  unfold execPatchWaitExpiry
  refine .next ?_
  have hs := fresh_within s
  split
  · exact Only.ite (State.finishAll_only (within (by decide))
        (State.report_only (within (by decide)) (State.resumeEngines_only (within (by decide)) hs))) hs
  · exact hs

theorem execBar4SelfRefreshTimeout_timeless : Timeless s (execBar4SelfRefreshTimeout s) := by
  unfold execBar4SelfRefreshTimeout
  refine .next ?_
  have hs := fresh_within s
  split
  · exact Only.ite (Only.ite (State.emit_only (within (by decide)) (setHost_within hs)) (setHost_within hs)) hs
  · exact hs

theorem execPcieHotReset_timeless : Timeless s (execPcieHotReset s) :=
  .unless (State.flrAll_only (within (by decide)) (fresh_within s))

theorem execPerstAssert_timeless : Timeless s (execPerstAssert s) :=
  .next (Only.ite (setHost_within (fresh_within s)) (State.linkDown_only (within (by decide))
    (State.flrAll_only (within (by decide)) (setHost_within (fresh_within s)))))

theorem execPcieLinkDown_timeless : Timeless s (execPcieLinkDown s) :=
  .next (State.linkDown_only (within (by decide)) (fresh_within s))

theorem execRemoteDatagramTx_timeless : Timeless s (execRemoteDatagramTx s) :=
  .when (State.moveBeats_only (within (by decide)) (State.spend_only (within (by decide))
    (State.put_only (within (by decide)) (State.emit_only (within (by decide)) (fresh_within s)))))

end

/-! ### Clocks -/

section

variable (s : State)

theorem execRefclkLoss_timeless : Timeless s (execRefclkLoss s) :=
  .when (Only.ite (State.putFlag_only (within (by decide)) (State.putFlag_only (within (by decide))
    (fresh_within s))) (State.loseClock_only (within (by decide))
    (State.putFlag_only (within (by decide)) (fresh_within s))))

theorem execPllLock_timeless : Timeless s (execPllLock s) :=
  .when (State.lockPll_only (within (by decide)) (fresh_within s))

theorem execPllLockLoss_timeless : Timeless s (execPllLockLoss s) :=
  .when (State.loseClock_only (within (by decide)) (fresh_within s))

theorem execSiEpoch_timeless : Timeless s (execSiEpoch s) := by
  unfold execSiEpoch
  refine .next ?_
  have hs := fresh_within s
  split
  · exact Only.ite (State.forgetSamples_only (within (by decide))
        (State.putFlag_only (within (by decide)) (setClock_within rfl hs))) hs
  · exact hs

theorem execSyncOutTrainingPulse_timeless : Timeless s (execSyncOutTrainingPulse s) :=
  .when (State.syncPulse_only (within (by decide)) (setClock_within rfl (fresh_within s)))

end

/-! ### Stores and time -/

section

variable (s : State)

theorem execBiasSupplyFault_timeless : Timeless s (execBiasSupplyFault s) :=
  .unless (Only.foldl (fun _ _ hx => State.setBias_only (within (by decide)) hx) _ (fresh_within s))

theorem execStoreEmergencyTake_timeless : Timeless s (execStoreEmergencyTake s) :=
  .when (State.setStoreArb_only (within (by decide)) (setMemory_within id
    (State.free_only (within (by decide)) (fresh_within s))))

theorem execScrubPassDone_timeless : Timeless s (execScrubPassDone s) :=
  .when (State.raise_only (within (by decide)) (State.count_only (within (by decide))
    (setMemory_within id (fresh_within s))))

theorem execSelfRefreshEnter_timeless : Timeless s (execSelfRefreshEnter s) :=
  .when (State.putFlag_only (within (by decide)) (fresh_within s))

theorem execChunkWritten_timeless : Timeless s (execChunkWritten s) := by
  unfold execChunkWritten
  refine .next ?_
  have hs := fresh_within s
  split
  · exact Only.ite (State.writeChunk_only (within (by decide)) hs) hs
  · exact hs

theorem execPpsInEdge_timeless : Timeless s (execPpsInEdge s) :=
  .unless (State.ppsEdge_only (within (by decide)) (fresh_within s))

theorem execPpsMissing_timeless : Timeless s (execPpsMissing s) := by
  unfold execPpsMissing
  refine .next ?_
  have hs := fresh_within s
  split
  · exact Only.ite (State.holdover_only (within (by decide))
        (State.raise_only (within (by decide)) (setClock_within rfl hs))) hs
  · exact hs

theorem execPpsOutRise_timeless : Timeless s (execPpsOutRise s) :=
  .when (State.emit_only (within (by decide)) (setClock_within rfl (fresh_within s)))

theorem execPpsOutFall_timeless : Timeless s (execPpsOutFall s) := by
  unfold execPpsOutFall
  refine .next ?_
  have hs := fresh_within s
  split
  · exact Only.ite (State.emit_only (within (by decide)) (setClock_within rfl hs)) hs
  · exact hs

theorem execPtpAnnounceTimeout_timeless : Timeless s (execPtpAnnounceTimeout s) :=
  .when (Only.ite (State.holdover_only (within (by decide)) (setClock_within rfl (fresh_within s)))
    (setClock_within rfl (fresh_within s)))

theorem execUlpTimeMeasure_timeless : Timeless s (execUlpTimeMeasure s) := by
  unfold execUlpTimeMeasure
  refine .next ?_
  have hs := fresh_within s
  split
  · exact Only.ite (State.measured_only (within (by decide)) (setClock_within rfl hs)) hs
  · exact hs

end

/-! ### Power, the Crown and the rest -/

section

variable (s : State)

theorem execRailsInRegulation_timeless : Timeless s (execRailsInRegulation s) :=
  .when (State.tryBoot_only (within (by decide)) (State.setPower_only (within (by decide)) (fresh_within s)))

theorem execPmbusRevision_timeless (addr) : Timeless s (execPmbusRevision addr s) :=
  .when (State.emit_only (within (by decide)) (fresh_within s))

theorem execThrottleStepChange_timeless : Timeless s (execThrottleStepChange s) :=
  .when (State.setThrottle_only (within (by decide)) (fresh_within s))

theorem execAnalogTrip_timeless : Timeless s (execAnalogTrip s) :=
  .when (State.setPower_only (within (by decide)) (State.powerOff_only reset_within (fresh_within s)))

theorem execPowerRestart_timeless : Timeless s (execPowerRestart s) :=
  .next (State.tryBoot_only (within (by decide)) (State.setPower_only (within (by decide)) (fresh_within s)))

theorem execMonRegTrigger_timeless : Timeless s (execMonRegTrigger s) := by
  unfold execMonRegTrigger
  refine .next ?_
  have hs := fresh_within s
  refine Only.ite ?_ ?_
  · exact hs
  · split
    · exact Only.ite (State.regTrigger_only (within (by decide)) (State.setMonitor_only (within (by decide)) hs)) hs
    · split
      · exact State.regTrigger_only (within (by decide)) (State.setHatband_only (within (by decide)) hs)
      · exact hs
    · exact Only.ite (State.regTrigger_only (within (by decide)) (State.setMonitor_only (within (by decide)) hs)) hs
    · exact hs

theorem execImageAuthenticated_timeless : Timeless s (execImageAuthenticated s) := by
  unfold execImageAuthenticated
  refine .next ?_
  have hs := fresh_within s
  refine Only.ite ?_ ?_
  · exact hs
  · split
    · exact State.enterMode_only (within (by decide)) (State.putFlag_only (within (by decide))
          (State.put_only (within (by decide)) (Only.setFlash (within (by decide))
          (Only.ite hs (State.report_only (within (by decide)) hs)))))
    · exact State.enterSafe_only (within (by decide)) (State.putFlag_only (within (by decide))
          (State.report_only (within (by decide)) hs))

theorem execCalibrateComplete_timeless : Timeless s (execCalibrateComplete s) := by
  unfold execCalibrateComplete
  refine .next ?_
  have hs := fresh_within s
  split
  · exact Only.ite (State.finishAll_only (within (by decide))
        (State.enterMode_only (within (by decide)) (Only.foldl
        (fun _ _ hx => State.report_only (within (by decide)) hx) _ hs))) hs
  · exact hs

theorem execHeartbeatTimeout_timeless : Timeless s (execHeartbeatTimeout s) :=
  .when (State.handOver_only (within (by decide)) (State.report_only (within (by decide)) (fresh_within s)))

theorem execCrownTakeback_timeless : Timeless s (execCrownTakeback s) := by
  unfold execCrownTakeback
  refine .next ?_
  have hs := fresh_within s
  split
  · exact Only.ite (State.setCrown_only (within (by decide))
        (State.count_only (within (by decide)) (State.put_only (within (by decide)) hs))) hs
  · exact hs

theorem execCrownWatchdog_timeless : Timeless s (execCrownWatchdog s) := by
  unfold execCrownWatchdog
  refine .next ?_
  have hs := fresh_within s
  split
  · exact Only.ite (State.rampTo_only (within (by decide)) (State.toParkOsc_only (within (by decide))
        (State.report_only (within (by decide)) (Only.foldl (fun _ _ hx => State.haltGroup_only (within
        (by decide)) hx) _ hs)))) hs
  · exact hs

theorem execResetNAssert_timeless : Timeless s (execResetNAssert s) :=
  .next (Only.ite (State.setPower_only (within (by decide)) (fresh_within s))
    (State.enterReset_only reset_within (State.setPower_only (within (by decide)) (fresh_within s))))

theorem execResetNRelease_timeless : Timeless s (execResetNRelease s) :=
  .next (State.tryBoot_only (within (by decide)) (State.setPower_only (within (by decide)) (fresh_within s)))

theorem execErrorLogTake_timeless : Timeless s (execErrorLogTake s) := by
  unfold execErrorLogTake
  refine .next ?_
  have hs := fresh_within s
  split
  · exact Only.ite hs (Only.ite (State.addEntry_only (within (by decide)) (Only.setLog (within (by decide)) hs))
        (State.overflowReport_only (within (by decide)) (Only.setLog (within (by decide)) hs)))
  · exact hs

theorem execRefclkPresent_timeless : Timeless s (execRefclkPresent s) :=
  .next (State.putFlag_only (within (by decide)) (fresh_within s))

theorem execSyncOutPulseEnd_timeless : Timeless s (execSyncOutPulseEnd s) := by
  unfold execSyncOutPulseEnd
  refine .next ?_
  have hs := fresh_within s
  split
  · exact Only.ite (State.emit_only (within (by decide)) (setClock_within rfl hs)) hs
  · exact hs

theorem execFeedOverVoltage_timeless : Timeless s (execFeedOverVoltage s) :=
  .when (State.rampTo_only (within (by decide)) (State.setPower_only (within (by decide)) (fresh_within s)))

theorem execFeedsBelow5v_timeless : Timeless s (execFeedsBelow5v s) :=
  .next (Only.ite (State.powerOff_only reset_within (fresh_within s))
    (State.setPower_only (within (by decide)) (fresh_within s)))

theorem execPerstRelease_timeless : Timeless s (execPerstRelease s) := .next (setHost_within (fresh_within s))

theorem execImageFlashWritten_timeless : Timeless s (execImageFlashWritten s) := by
  unfold execImageFlashWritten
  refine .next ?_
  have hs := fresh_within s
  split
  · exact State.finishAll_only (within (by decide)) (setFlashUpload_within hs)
  · exact hs

end

/-- No command changes what only the passing of time changes. -/
theorem exec_timeless (c : Instr) (s : State) : Timeless s (exec c s) :=
  match c with
  | .sysInfo m => execSysInfo_timeless s m
  | .modeGet m => execModeGet_timeless s m
  | .modeSet m => execModeSet_timeless s m
  | .modeSetTimeout m => execModeSetTimeout_timeless s m
  | .systemReset m => execSystemReset_timeless s m
  | .selftestReport m => execSelftestReport_timeless s m
  | .syncArm m => execSyncArm_timeless s m
  | .syncPulse m => execSyncPulse_timeless s m
  | .imageWrite m => execImageWrite_timeless s m
  | .imageWriteTimeout m => execImageWriteTimeout_timeless s m
  | .imageSelect m => execImageSelect_timeless s m
  | .slotBind m => execSlotBind_timeless s m
  | .slotGet m => execSlotGet_timeless s m
  | .libWrite m => execLibWrite_timeless s m
  | .libRead m => execLibRead_timeless s m
  | .ctxLoad m => execCtxLoad_timeless s m
  | .ctxRead m => execCtxRead_timeless s m
  | .weightLoad m => execWeightLoad_timeless s m
  | .programLoad m => execProgramLoad_timeless s m
  | .runStart m => execRunStart_timeless s m
  | .runStop m => execRunStop_timeless s m
  | .runStopTimeout m => execRunStopTimeout_timeless s m
  | .runResume m => execRunResume_timeless s m
  | .runJump m => execRunJump_timeless s m
  | .runStatus m => execRunStatus_timeless s m
  | .evcStatusRead m => execEvcStatusRead_timeless s m
  | .cutRestore m => execCutRestore_timeless s m
  | .fullingSubmit m => execFullingSubmit_timeless s m
  | .streamSave m => execStreamSave_timeless s m
  | .streamRestore m => execStreamRestore_timeless s m
  | .streamReset m => execStreamReset_timeless s m
  | .streamState m => execStreamState_timeless s m
  | .histRead m => execHistRead_timeless s m
  | .histDump m => execHistDump_timeless s m
  | .modelFit m => execModelFit_timeless s m
  | .remoteDest m => execRemoteDest_timeless s m
  | .timeSet m => execTimeSet_timeless s m
  | .timeOfDay m => execTimeOfDay_timeless s m
  | .timeRearm m => execTimeRearm_timeless s m
  | .portAddress m => execPortAddress_timeless s m
  | .ptpStatus m => execPtpStatus_timeless s m
  | .ulpStatus m => execUlpStatus_timeless s m
  | .tableCommit m => execTableCommit_timeless s m
  | .linkRetrain m => execLinkRetrain_timeless s m
  | .telemetry m => execTelemetry_timeless s m
  | .sensorRead m => execSensorRead_timeless s m
  | .monRead m => execMonRead_timeless s m
  | .monCalibrate m => execMonCalibrate_timeless s m
  | .blockTaps m => execBlockTaps_timeless s m
  | .blockTarget m => execBlockTarget_timeless s m
  | .patchLoad m => execPatchLoad_timeless s m
  | .patchApply m => execPatchApply_timeless s m
  | .engineRestart m => execEngineRestart_timeless s m
  | .logDrain m => execLogDrain_timeless s m
  | .logCounters m => execLogCounters_timeless s m
  | .logFirst m => execLogFirst_timeless s m
  | .logAckOverflow m => execLogAckOverflow_timeless s m
  | .echo m => execEcho_timeless s m
  | .paramGet m => execParamGet_timeless s m
  | .paramSet m => execParamSet_timeless s m
  | .recordWrite m id value mask => execRecordWrite_timeless s m id value mask
  | .matrixCommit m t => execMatrixCommit_timeless s m t
  | .mutedClear m n => execMutedClear_timeless s m n
  | .biasLatchClear m n comp ol => execBiasLatchClear_timeless s m n comp ol
  | .weightCommit m t sets => execWeightCommit_timeless s m t sets
  | .histClear m slot => execHistClear_timeless s m slot
  | .channelCutClear m c => execChannelCutClear_timeless s m c
  | .groupRecordWrite m g value mask => execGroupRecordWrite_timeless s m g value mask
  | .hcntClear m k => execHcntClear_timeless s m k
  | .storeArbiterCommit m => execStoreArbiterCommit_timeless s m
  | .libArbiterCommit m t => execLibArbiterCommit_timeless s m t
  | .portCommit m p => execPortCommit_timeless s m p
  | .ulpPowerWrite m p tx rx => execUlpPowerWrite_timeless s m p tx rx
  | .ulpTestWrite m p on => execUlpTestWrite_timeless s m p on
  | .ulpLoopbackWrite m p v => execUlpLoopbackWrite_timeless s m p v
  | .injGo m p l => execInjGo_timeless s m p l
  | .sensorFailedClear m idx => execSensorFailedClear_timeless s m idx
  | .ringStalledClear m f c => execRingStalledClear_timeless s m f c
  | .ringEnable m f idx on => execRingEnable_timeless s m f idx on
  | .capRpWrite m v => execCapRpWrite_timeless s m v
  | .captureBufferSet m base size => execCaptureBufferSet_timeless s m base size
  | .oqEnableWrite m q on => execOqEnableWrite_timeless s m q on
  | .oqRpWrite m q v => execOqRpWrite_timeless s m q v
  | .timeSourceWrite m src => execTimeSourceWrite_timeless s m src
  | .rateAdjWrite m v => execRateAdjWrite_timeless s m v
  | .ownershipWrite m value mask => execOwnershipWrite_timeless s m value mask
  | .mailboxAssignWrite m value mask => execMailboxAssignWrite_timeless s m value mask
  | .doorbellWrite f k tag buf => execDoorbellWrite_timeless s f k tag buf
  | .hostMark f => execHostMark_timeless s f
  | .bar4Read f offset len => execBar4Read_timeless s f offset len
  | .bar4Write f offset data => execBar4Write_timeless s f offset data
  | .mergeBlockTimeout block => execMergeBlockTimeout_timeless s block
  | .refillPiWrite f r pi => execRefillPiWrite_timeless s f r pi
  | .refillDescriptor f r desc data seals poisoned => execRefillDescriptor_timeless s f r desc data seals poisoned
  | .segmentResident f r => execSegmentResident_timeless s f r
  | .capturePiWrite f c pi => execCapturePiWrite_timeless s f c pi
  | .captureRingFill f c desc => execCaptureRingFill_timeless s f c desc
  | .captureFlushTimeout f c => execCaptureFlushTimeout_timeless s f c
  | .completionCiWrite f ci => execCompletionCiWrite_timeless s f ci
  | .pcieFlr f => execPcieFlr_timeless s f
  | .pcieLinkUp rate width => execPcieLinkUp_timeless s rate width
  | .numvfsChange n => execNumvfsChange_timeless s n
  | .syncEdge phi => execSyncEdge_timeless s phi
  | .blockingStep g trim err => execBlockingStep_timeless s g trim err
  | .flitCrcFail k => execFlitCrcFail_timeless s k
  | .flitReplayFail k => execFlitReplayFail_timeless s k
  | .dieLinkRetrainDone k ok => execDieLinkRetrainDone_timeless s k ok
  | .shotStart g => execShotStart_timeless s g
  | .shotOverrun t => execShotOverrun_timeless s t
  | .segmentFetchDeadline t => execSegmentFetchDeadline_timeless s t
  | .switchPoint t sealBad => execSwitchPoint_timeless s t sealBad
  | .segmentBoundary t => execSegmentBoundary_timeless s t
  | .shotEndBoundary g => execShotEndBoundary_timeless s g
  | .recordsPassed t => execRecordsPassed_timeless s t
  | .jumpRequest t => execJumpRequest_timeless s t
  | .play t => execPlay_timeless s t
  | .playParam t => execPlayParam_timeless s t
  | .frame t => execFrame_timeless s t
  | .frameUpdateApply t probe u => execFrameUpdateApply_timeless s t probe u
  | .biasSet t transit => execBiasSet_timeless s t transit
  | .biasRamp t transit => execBiasRamp_timeless s t transit
  | .biasSine t transit => execBiasSine_timeless s t transit
  | .biasOpAct n sealBad => execBiasOpAct_timeless s n sealBad
  | .biasRampComplete n => execBiasRampComplete_timeless s n
  | .sineFadeEnd n => execSineFadeEnd_timeless s n
  | .acquire t => execAcquire_timeless s t
  | .tset t => execTset_timeless s t
  | .waitUntil t => execWaitUntil_timeless s t
  | .waitUntilEnd t => execWaitUntilEnd_timeless s t
  | .waitEvent t => execWaitEvent_timeless s t
  | .waitEventTimeout t => execWaitEventTimeout_timeless s t
  | .align t => execAlign_timeless s t
  | .branchOnDecision t => execBranchOnDecision_timeless s t
  | .branchOnEvent t => execBranchOnEvent_timeless s t
  | .branchOnCounter t => execBranchOnCounter_timeless s t
  | .branchOnAlways t => execBranchOnAlways_timeless s t
  | .branchOnTimeout t => execBranchOnTimeout_timeless s t
  | .seg t => execSeg_timeless s t
  | .loop t => execLoop_timeless s t
  | .jump t => execJump_timeless s t
  | .emit t => execEmit_timeless s t
  | .emitRaise t => execEmitRaise_timeless s t
  | .barrier t => execBarrier_timeless s t
  | .barrierRelease g b => execBarrierRelease_timeless s g b
  | .barrierTimeout g b => execBarrierTimeout_timeless s g b
  | .countSet t => execCountSet_timeless s t
  | .countAdd t => execCountAdd_timeless s t
  | .countAddIf t => execCountAddIf_timeless s t
  | .shotEnd t => execShotEnd_timeless s t
  | .badOp t => execBadOp_timeless s t
  | .burstIssue t probe u transit => execBurstIssue_timeless s t probe u transit
  | .sampleRelease ch sealBad => execSampleRelease_timeless s ch sealBad
  | .lateDetect ch => execLateDetect_timeless s ch
  | .powerMute n => execPowerMute_timeless s n
  | .parkRampDone n => execParkRampDone_timeless s n
  | .parkOscHandback idx => execParkOscHandback_timeless s idx
  | .complianceTrip n v => execComplianceTrip_timeless s n v
  | .openLoadTrip n => execOpenLoadTrip_timeless s n
  | .windowOpen t => execWindowOpen_timeless s t
  | .adcOverrange t k => execAdcOverrange_timeless s t k
  | .pounceEvaluate t u idx q sealBad => execPounceEvaluate_timeless s t u idx q sealBad
  | .decisionReady t u => execDecisionReady_timeless s t u
  | .snapshotDone t samples sealBad => execSnapshotDone_timeless s t samples sealBad
  | .iqChunkForm t points => execIqChunkForm_timeless s t points
  | .machineCheck e addr again => execMachineCheck_timeless s e addr again
  | .interruptTaken e => execInterruptTaken_timeless s e
  | .microwordWaitTimeout e => execMicrowordWaitTimeout_timeless s e
  | .hatbandArrival c n => execHatbandArrival_timeless s c n
  | .hatbandDelivery c => execHatbandDelivery_timeless s c
  | .groupSwitch g => execGroupSwitch_timeless s g
  | .trigInAccept idx => execTrigInAccept_timeless s idx
  | .trigInStuck idx => execTrigInStuck_timeless s idx
  | .trigInUnmask idx => execTrigInUnmask_timeless s idx
  | .trigOutPulseEnd idx => execTrigOutPulseEnd_timeless s idx
  | .storeUncorrectable beat e => execStoreUncorrectable_timeless s beat e
  | .libParityError t row lasting playback => execLibParityError_timeless s t row lasting playback
  | .laneLock p l headers => execLaneLock_timeless s p l headers
  | .laneLockLoss p l headers => execLaneLockLoss_timeless s p l headers
  | .superframeStart p => execSuperframeStart_timeless s p
  | .controlFrameRx p headers frame => execControlFrameRx_timeless s p headers frame
  | .decisionFrameBuild p slot => execDecisionFrameBuild_timeless s p slot
  | .decisionFrameRx p second headers frame => execDecisionFrameRx_timeless s p second headers frame
  | .bulkCellRx p headers cell => execBulkCellRx_timeless s p headers cell
  | .bulkAckTimeout p => execBulkAckTimeout_timeless s p
  | .slotSwap p => execSlotSwap_timeless s p
  | .swapTimeout p => execSwapTimeout_timeless s p
  | .linkSleepEnter p => execLinkSleepEnter_timeless s p
  | .prbsCheckError p l => execPrbsCheckError_timeless s p l
  | .autoJobRetry q => execAutoJobRetry_timeless s q
  | .fullingJobStart e => execFullingJobStart_timeless s e
  | .fullingFrameWrite e bad poisoned => execFullingFrameWrite_timeless s e bad poisoned
  | .fullingJobCommit e => execFullingJobCommit_timeless s e
  | .compareFire u => execCompareFire_timeless s u
  | .ptpMessageRx msg => execPtpMessageRx_timeless s msg
  | .ptpMessageTx kind => execPtpMessageTx_timeless s kind
  | .feedQualify feed mv => execFeedQualify_timeless s feed mv
  | .feedDrop feed mv => execFeedDrop_timeless s feed mv
  | .feedRejoin feed mv => execFeedRejoin_timeless s feed mv
  | .shedStageEnter mv => execShedStageEnter_timeless s mv
  | .shedStageRecover mv => execShedStageRecover_timeless s mv
  | .pmbusPage addr page => execPmbusPage_timeless s addr page
  | .pmbusOperation addr op => execPmbusOperation_timeless s addr op
  | .pmbusStatusRead addr code => execPmbusStatusRead_timeless s addr code
  | .pmbusReadValue addr code => execPmbusReadValue_timeless s addr code
  | .sensorSample idx reading convFault stuck => execSensorSample_timeless s idx reading convFault stuck
  | .monSeqDone codes => execMonSeqDone_timeless s codes
  | .monInjTrigger cause => execMonInjTrigger_timeless s cause
  | .monInjDone codes wall => execMonInjDone_timeless s codes wall
  | .monSelfCalDone offsets gains => execMonSelfCalDone_timeless s offsets gains
  | .selftestDone failed => execSelftestDone_timeless s failed
  | .crownSelfDiagnosis pass => execCrownSelfDiagnosis_timeless s pass
  | .firstFullMeasurement g errs => execFirstFullMeasurement_timeless s g errs
  | .prbsSync p l => execPrbsSync_timeless s p l
  | .pcsAlignmentChange ok => execPcsAlignmentChange_timeless s ok
  | .bulkCellTx p => execBulkCellTx_timeless s p
  | .modelFitDone m => execModelFitDone_timeless s m
  | .engineRestartDone e bad => execEngineRestartDone_timeless s e bad
  | .systemResetHoldEnd => execSystemResetHoldEnd_timeless s
  | .patchSwap => execPatchSwap_timeless s
  | .patchWaitExpiry => execPatchWaitExpiry_timeless s
  | .bar4SelfRefreshTimeout => execBar4SelfRefreshTimeout_timeless s
  | .pcieHotReset => execPcieHotReset_timeless s
  | .perstAssert => execPerstAssert_timeless s
  | .pcieLinkDown => execPcieLinkDown_timeless s
  | .remoteDatagramTx => execRemoteDatagramTx_timeless s
  | .refclkLoss => execRefclkLoss_timeless s
  | .pllLock => execPllLock_timeless s
  | .pllLockLoss => execPllLockLoss_timeless s
  | .siEpoch => execSiEpoch_timeless s
  | .syncOutTrainingPulse => execSyncOutTrainingPulse_timeless s
  | .biasSupplyFault => execBiasSupplyFault_timeless s
  | .storeEmergencyTake => execStoreEmergencyTake_timeless s
  | .scrubPassDone => execScrubPassDone_timeless s
  | .selfRefreshEnter => execSelfRefreshEnter_timeless s
  | .chunkWritten => execChunkWritten_timeless s
  | .ppsInEdge => execPpsInEdge_timeless s
  | .ppsMissing => execPpsMissing_timeless s
  | .ppsOutRise => execPpsOutRise_timeless s
  | .ppsOutFall => execPpsOutFall_timeless s
  | .ptpAnnounceTimeout => execPtpAnnounceTimeout_timeless s
  | .ulpTimeMeasure => execUlpTimeMeasure_timeless s
  | .railsInRegulation => execRailsInRegulation_timeless s
  | .pmbusRevision addr => execPmbusRevision_timeless s addr
  | .throttleStepChange => execThrottleStepChange_timeless s
  | .analogTrip => execAnalogTrip_timeless s
  | .powerRestart => execPowerRestart_timeless s
  | .monRegTrigger => execMonRegTrigger_timeless s
  | .imageAuthenticated => execImageAuthenticated_timeless s
  | .calibrateComplete => execCalibrateComplete_timeless s
  | .heartbeatTimeout => execHeartbeatTimeout_timeless s
  | .crownTakeback => execCrownTakeback_timeless s
  | .crownWatchdog => execCrownWatchdog_timeless s
  | .resetNAssert => execResetNAssert_timeless s
  | .resetNRelease => execResetNRelease_timeless s
  | .errorLogTake => execErrorLogTake_timeless s
  | .refclkPresent => execRefclkPresent_timeless s
  | .syncOutPulseEnd => execSyncOutPulseEnd_timeless s
  | .feedOverVoltage => execFeedOverVoltage_timeless s
  | .feedsBelow5v => execFeedsBelow5v_timeless s
  | .perstRelease => execPerstRelease_timeless s
  | .imageFlashWritten => execImageFlashWritten_timeless s

/-- Settles O7: the queue and the tick count are no part that a command may change. -/
theorem commandsLeaveQueueAndTicks : Obligations.CommandsLeaveQueueAndTicks :=
  fun c s _ h => (exec_timeless c s).pending_now h

end Sys2Proof
end

section
namespace Sys2Proof
open Machine
namespace Machine

/-! ### The commands of readout (R122, R123, R126, R143) -/

/-- The words that blocks of data hold, 64 a block. -/
def blockWords (blocks : List (List Byte × Nat)) : List Nat :=
  blocks.flatMap fun b => (List.range 64).map fun i => le b.1 (4 * i) 4

theorem State.loadWeights_shadow (s : State) (t j first : Nat) (blocks : List (List Byte × Nat)) :
    (s.loadWeights t j first blocks).readout = { s.readout with
      weightShadow := s.readout.weightShadow.writeAll 0 (3200 * (32 * t + j) + 64 * first) (blockWords blocks) } := rfl

theorem blockWords_payload_length (r : Request) (off n : Nat) (sealed : Bool) :
    (blockWords (payloadBlocks r off n sealed).1).length = 64 * n := by
  simp [blockWords, payloadBlocks_fst, List.length_flatMap, Function.comp_def, Nat.mul_comm]

/-- Word `k` of the blocks of a payload is word `k` of the payload behind its header. -/
theorem blockWords_payload (r : Request) (off n : Nat) (sealed : Bool) {k : Nat} (hk : k < 64 * n) :
    (blockWords (payloadBlocks r off n sealed).1)[k]? = some (r.at (off + 4 * k) 4) := by
  have hb : k / 64 < ((payloadBlocks r off n sealed).1).length := by
    simp [payloadBlocks_fst]
    omega
  have hw : le (slice r.payload (off + 256 * (k / 64)) 256) (4 * (k % 64)) 4 = r.at (off + 4 * k) 4 := by
    rw [le_slice _ _ _ _ _ (by omega), show off + 256 * (k / 64) + 4 * (k % 64) = off + 4 * k by omega]
    rfl
  refine (flatMap_getElem _ 64 (by decide) _ (fun _ _ => by simp) k hb).trans ?_
  simp only [payloadBlocks_fst, List.getElem_map, List.getElem_range]
  rw [List.getElem?_map, List.getElem?_range (by omega)]
  exact congrArg some hw

/-- The blocks of a payload in the shadow bank of a weight set: each word in its place, and no word beside them. -/
theorem State.loadWeights_payload (s : State) (r : Request) (t j first off n : Nat) (sealed : Bool) {u : State}
    (hu : u = s.loadWeights t j first (payloadBlocks r off n sealed).1) :
    (∀ k < 64 * n, u.readout.weightShadow.read 0 (3200 * (32 * t + j) + 64 * first + k) = r.at (off + 4 * k) 4)
    ∧ (∀ a, a < 3200 * (32 * t + j) + 64 * first ∨ 3200 * (32 * t + j) + 64 * first + 64 * n ≤ a →
      u.readout.weightShadow.read 0 a = s.readout.weightShadow.read 0 a)
    ∧ u.readout.weights = s.readout.weights := by
  have hl := blockWords_payload_length r off n sealed
  rw [hu, State.loadWeights_shadow]
  refine ⟨fun k hk => ?_, fun a ha => SMap.read_writeAll_ne _ _ _ (by rw [hl]; exact ha), rfl⟩
  refine (SMap.read_writeAll _ _ _ _ k (by rw [hl]; exact hk)).trans ?_
  exact Option.some.inj ((List.getElem?_eq_getElem _).symm.trans (blockWords_payload r off n sealed hk))

theorem weightLoadCommand_good (r : Request) (s u : State)
    (h : (payloadBlocks r 8 (r.at 4 2) (bit (r.at 6 1) 0)).2 = true) : (weightLoadCommand r s).act u =
    .ok (u.loadWeights (r.at 0 1) (r.at 1 1) (r.at 2 2) (payloadBlocks r 8 (r.at 4 2) (bit (r.at 6 1) 0)).1) [] :=
  if_pos h

theorem weightLoadCommand_bad (r : Request) (s u : State)
    (h : (payloadBlocks r 8 (r.at 4 2) (bit (r.at 6 1) 0)).2 = false) : (weightLoadCommand r s).act u =
    u.sealRefused (r.at 0 1) :=
  if_neg (ne_true_of_eq_false h)

/-- A record that keeps a shadow, written in an active run: the value waits behind those written before. -/
theorem State.writeShadowed_busy (s : State) {r : Rec} {i t : Nat} (v : Nat) (ht : r.shadowTile i = some t)
    (h : s.inRun t = true) : ∃ l, (s.writeShadowed r i v).shadows.find (r.key i) = some l ∧ l.getLast? = some (v, s.si) := by
  refine ⟨_, ?_, serveAlso_getLast? (s.shadows.read [] (r.key i)) v s.si⟩
  unfold State.writeShadowed
  rw [ht]
  dsimp only
  rw [if_pos h]
  exact SMap.find_list _ _ _

/-- A record that keeps a shadow, written outside an active run: the value is in force. -/
theorem State.writeShadowed_idle (s : State) {r : Rec} {i t : Nat} (v : Nat) (ht : r.shadowTile i = some t)
    (h : s.inRun t = false) : (s.writeShadowed r i v).image r i = v := by
  unfold State.writeShadowed
  rw [ht]
  dsimp only
  rw [if_neg (ne_true_of_eq_false h)]
  exact State.image_setImage _ _ _ _

/-- A request that ends leaves the shadows and the record images, but for the log's, as they were. -/
theorem State.finish_shadows (s : State) (d : Deferred) (st : Status) (p : List Byte) :
    (s.finish d st p).shadows = s.shadows ∧ ∀ r i, r ≠ .logStatus → (s.finish d st p).image r i = s.image r i := by
  have o := State.finish_only (d := d) (st := st) (payload := p) (List.Subset.refl _) (Only.refl _ s)
  exact ⟨o .shadows (by decide), fun r i hr => o.image (by simpa using hr) i⟩

theorem exec_modelFitDone {m : Fin 16} {s : State} {d : Deferred} {slot k : Nat} {centres : List Int}
    (hd : s.deferredOf m = some d) (hw : d.wait = .modelFit slot k centres) :
    exec (.modelFitDone m) s = .next (s.fresh.endFit d slot k centres) := by
  change execModelFitDone m s = _
  unfold execModelFitDone
  dsimp only
  rw [show s.fresh.deferredOf m = some d from hd]
  dsimp only
  rw [hw]

end Machine

/-- A command has ended where the response is the same and the mailbox was. -/
theorem Ended.of_mailbox {s v t : State} {d : Deferred} {st : Status} {p : List Byte} (h : Ended v t d st p)
    (e : v.mailbox d.m = s.mailbox d.m) : Ended s t d st p := by
  unfold Ended
  rw [← e]
  exact h

/-- What MODEL_FIT_DONE leaves: the response of the request that waited, and the fit in its model. -/
theorem modelFitDone_effects {m : Fin 16} {s : State} {d : Deferred} {slot k : Nat} {centres f : List Int}
    (hd : s.deferredOf m = some d) (hw : d.wait = .modelFit slot k centres) (hk : d.discard = false)
    (hf : f = Config.fit (s.image .histConfig slot
      :: (List.range 4096).map fun i => s.readout.bins.read 0 (4096 * slot + i)) k centres) :
    Runs (.modelFitDone m) s fun t =>
      Ended s t d .ok (((List.range 3).flatMap fun i => leBytes (unsigned (f.getD (9 + i) 0) 32) 4)
        ++ leBytes (unsigned (f.getD 12 0) 16) 2 ++ zeros 2 ++ leBytes (unsigned (f.getD 13 0) 32) 4)
      ∧ (s.inRun (slot / 16) = true → ∃ l, t.shadows.find (Rec.model.key slot) = some l
        ∧ l.getLast? = some (fittedModel (s.shadowImage .model slot) f, s.si))
      ∧ (s.inRun (slot / 16) = false → t.image .model slot = fittedModel (s.shadowImage .model slot) f) := by
  subst hf
  refine ⟨_, exec_modelFitDone hd hw, ?_⟩
  unfold State.endFit
  extract_lets bins f v
  obtain ⟨hs, hi⟩ := v.finish_shadows d .ok (((List.range 3).flatMap fun i => leBytes (unsigned (f.getD (9 + i) 0) 32) 4)
    ++ leBytes (unsigned (f.getD 12 0) 16) 2 ++ zeros 2 ++ leBytes (unsigned (f.getD 13 0) 32) 4)
  refine ⟨?_, fun hr => ?_, fun hr => ?_⟩
  · exact (Ended.finish (s := v) hk .ok _).of_mailbox
      (mailbox_of_only (State.writeShadowed_only (List.Subset.refl _) (Only.refl _ s.fresh)) (by decide) d.m)
  · rw [hs]
    exact State.writeShadowed_busy _ _ rfl hr
  · rw [hi _ _ (by decide)]
    exact State.writeShadowed_idle _ _ rfl hr

/-- Settles O37: what each command leaves of the shadow weights, the model and its mailbox, each by its own lemma. -/
theorem readoutCommandEffects : Obligations.ReadoutCommandEffects := by
  refine ⟨fun m s t j first n h ht hj hf hn => ⟨fun hg => ?_, fun hb => ?_⟩, fun m s h => h.query rfl rfl,
    fun m s h => ?_, fun m s d slot k centres f hd hw hk hf => modelFitDone_effects hd hw hk hf⟩
  · subst ht hj hf hn
    exact h.done rfl (weightLoadCommand_good _ _ _ hg) (mailbox_of_only (State.loadWeights_only (List.Subset.refl _)
      (Only.refl _ _)) (by decide) m) (s.taken.loadWeights_payload _ _ _ _ _ _ _ rfl)
  · subst hn
    have o := State.report_only (cls := 3) (lasting := false) (source := 0xFFF) (a := (s.request m).at 0 1) (b := 0)
      (List.Subset.refl _) (Only.refl _ s.taken)
    refine h.failed rfl (weightLoadCommand_bad _ _ _ hb) ⟨Answered.reply (mailbox_of_only o (by decide) m), ?_⟩
    rw [readout_of_only (Answered.only _ _ _ _) (by decide) (by decide) (by decide) (by decide),
      readout_of_only o (by decide) (by decide) (by decide) (by decide)]
    rfl
  · exact h.deferring rfl rfl rfl rfl fun v o =>
      show v.readout = s.taken.readout from readout_of_only o (by decide) (by decide) (by decide) (by decide)

end Sys2Proof
end

section
namespace Sys2Proof
open Machine

theorem Grows.setAcq (s : State) (t : Nat) (x : Acq) : Grows s (s.setAcq t x) := Grows.of_eq rfl rfl

namespace Machine

/-! ### Windows that open (R117, R125, R128) -/

/-- A window that opens, before it asks for a snapshot: `n` windows of its slot have opened before it in its shot, whose log
notes it. -/
def State.addWindow (s : State) (t : Nat) (w : Window) (n : Nat) (shots : List ShotLog) : State :=
  ((s.setAcq t { s.acq t with
    waiting := removeWindow w (s.acq t).waiting
    windows := (s.acq t).windows ++ [{ w with ordinal := n }]
    shots }).count F.acqStatus_WINDOWS t).raise (704 + 4 * t)

theorem State.openWindow_split (s : State) (t : Nat) (w : Window) : ∃ n shots, s.openWindow t w =
    if w.snap then (s.addWindow t w n shots).startSnapshot t (w.w + w.ofs).toNat false none else s.addWindow t w n shots :=
  ⟨_, _, rfl⟩

theorem exec_windowOpen {t : Fin 16} {s : State} {w : Window} (h : (s.acq t).ready s.si = some w) :
    exec (.windowOpen t) s = .next (s.fresh.openWindow t w) := by
  change execWindowOpen t s = _
  unfold execWindowOpen
  dsimp only
  rw [show (s.fresh.acq t).ready s.fresh.si = some w from h]

/-- From `s` to `u` window `w` of tile `t` has opened: it is counted and raised. -/
structure Opened (s u : State) (t : Nat) (w : Window) : Prop where
  opened : ∃ n, { w with ordinal := n } ∈ (u.acq t).windows
  waiting : (u.acq t).waiting = removeWindow w (s.acq t).waiting
  counted : u.get F.acqStatus_WINDOWS t = satAdd (s.get F.acqStatus_WINDOWS t) 1 F.acqStatus_WINDOWS.width
  raised : Raised s u (704 + 4 * t) 0 0

theorem State.addWindow_opened (s : State) (t : Nat) (w : Window) (n : Nat) (shots : List ShotLog) :
    Opened s (s.fresh.addWindow t w n shots) t w where
  opened := ⟨n, by simp [State.addWindow]⟩
  waiting := by simp [State.addWindow]
  counted := by
    unfold State.addWindow
    rw [State.raise_get, State.get_count, State.setAcq_get, State.fresh_get]
  raised := Raised.raise _ _ _

/-- What a window that opens leaves of the tile's snapshot. -/
theorem State.addWindow_snapshot (s : State) (t : Nat) (w : Window) (n : Nat) (shots : List ShotLog) {v : State}
    (hv : v = s.addWindow t w n shots) : v.flag F.acqStatus_SNAP_BUSY t = s.flag F.acqStatus_SNAP_BUSY t
      ∧ v.get F.acqStatus_SNAP_DROP t = s.get F.acqStatus_SNAP_DROP t
      ∧ v.get F.acqConfig_SNAP_LEN t = s.get F.acqConfig_SNAP_LEN t ∧ (v.acq t).snapshot = (s.acq t).snapshot := by
  subst hv
  unfold State.addWindow
  refine ⟨?_, ?_, ?_, ?_⟩
  · rw [State.raise_flag, State.flag_count_other _ (by decide), State.setAcq_flag]
  · rw [State.raise_get, State.get_count_other _ (by decide), State.setAcq_get]
  · rw [State.raise_get, State.get_count_family _ (by decide), State.setAcq_get]
  · simp

/-! ### Snapshots that start (R125) -/

theorem State.startSnapshot_free {s : State} {t : Nat} (h : s.flag F.acqStatus_SNAP_BUSY t = false) (start : Nat)
    (event : Bool) (cause : Option (Nat × Nat)) : ∃ x : Snapshot, s.startSnapshot t start event cause =
        (s.setAcq t { s.acq t with snapshot := some x }).putFlag F.acqStatus_SNAP_BUSY t true
      ∧ x.start = start ∧ x.len = s.get F.acqConfig_SNAP_LEN t ∧ x.event = event ∧ x.cause = cause := by
  unfold State.startSnapshot
  rw [if_neg (ne_true_of_eq_false h)]
  exact ⟨_, rfl, rfl, rfl, rfl, rfl⟩

theorem State.startSnapshot_held {s : State} {t : Nat} (h : s.flag F.acqStatus_SNAP_BUSY t = true) (start : Nat)
    (event : Bool) (cause : Option (Nat × Nat)) : s.startSnapshot t start event cause = s.count F.acqStatus_SNAP_DROP t :=
  if_pos h

/-- A snapshot that starts, or that is dropped, leaves the windows alone. -/
theorem Opened.startSnapshot {s v : State} {t : Nat} {w : Window} (h : Opened s v t w) (start : Nat) :
    Opened s (v.startSnapshot t start false none) t w := by
  obtain ⟨h1, h2, h3, h4⟩ := h
  by_cases hb : v.flag F.acqStatus_SNAP_BUSY t = true
  · rw [State.startSnapshot_held hb]
    constructor
    · rw [State.count_acq]
      exact h1
    · rw [State.count_acq, h2]
    · rw [State.get_count_other _ (by decide), h3]
    · exact h4.grow (Grows.put _ _ _ _)
  · obtain ⟨x, e, -⟩ := State.startSnapshot_free (eq_false_of_ne_true hb) start false none
    rw [e]
    constructor
    · rw [State.putFlag_acq, State.acq_setAcq]
      exact h1
    · rw [State.putFlag_acq, State.acq_setAcq, h2]
    · rw [State.get_putFlag_other _ (by decide), State.setAcq_get, h3]
    · exact h4.grow ((Grows.setAcq v t _).trans (Grows.put _ _ _ _))

end Machine

/-- The clause of O38 on WINDOW_OPEN. -/
theorem windowOpen_effects {t : Fin 16} {s : State} {w : Window} (h : (s.acq t).ready s.si = some w) :
    Runs (.windowOpen t) s fun u =>
      (∃ n, { w with ordinal := n } ∈ (u.acq t).windows) ∧ (u.acq t).waiting = removeWindow w (s.acq t).waiting
      ∧ u.get F.acqStatus_WINDOWS t = satAdd (s.get F.acqStatus_WINDOWS t) 1 F.acqStatus_WINDOWS.width
      ∧ Raised s u (704 + 4 * t) 0 0
      ∧ (w.snap = true → s.flag F.acqStatus_SNAP_BUSY t = false → u.flag F.acqStatus_SNAP_BUSY t = true
        ∧ ∃ x, (u.acq t).snapshot = some x ∧ x.start = (w.w + w.ofs).toNat ∧ x.len = s.get F.acqConfig_SNAP_LEN t
          ∧ x.event = false ∧ x.cause = none)
      ∧ (w.snap = true → s.flag F.acqStatus_SNAP_BUSY t = true → u.get F.acqStatus_SNAP_DROP t =
        satAdd (s.get F.acqStatus_SNAP_DROP t) 1 F.acqStatus_SNAP_DROP.width
        ∧ (u.acq t).snapshot = (s.acq t).snapshot) := by
  obtain ⟨n, shots, e⟩ := s.fresh.openWindow_split t w
  refine ⟨_, (exec_windowOpen h).trans (congrArg _ e), ?_⟩
  have ho : Opened s (s.fresh.addWindow t w n shots) t w := s.addWindow_opened t w n shots
  obtain ⟨h1, h2, h3, h4⟩ := s.fresh.addWindow_snapshot t w n shots rfl
  simp only [State.fresh_flag, State.fresh_get, State.fresh_acq] at h1 h2 h3 h4
  generalize s.fresh.addWindow t w n shots = v at *
  beta_reduce
  by_cases hs : w.snap = true
  · rw [if_pos hs]
    obtain ⟨o1, o2, o3, o4⟩ := ho.startSnapshot (w.w + w.ofs).toNat
    refine ⟨o1, o2, o3, o4, fun _ hb => ?_, fun _ hb => ?_⟩
    · obtain ⟨x, e, x1, x2, x3, x4⟩ := State.startSnapshot_free (h1.trans hb) (w.w + w.ofs).toNat false none
      rw [e, State.putFlag_acq, State.acq_setAcq]
      exact ⟨State.flag_putFlag _ _ _ _ (by decide), x, rfl, x1, x2.trans h3, x3, x4⟩
    · rw [State.startSnapshot_held (h1.trans hb), State.get_count, h2]
      exact ⟨rfl, h4⟩
  · rw [if_neg hs]
    obtain ⟨o1, o2, o3, o4⟩ := ho
    exact ⟨o1, o2, o3, o4, fun x => absurd x hs, fun x => absurd x hs⟩

namespace Machine

/-! ### Overrange (R111, R128) -/

theorem exec_adcOverrange {t k : Fin 16} {s v : State} (h1 : s.flag F.acqConfig_ADC_ENABLE t = true)
    (h2 : s.flag F.gridStatus_PLL_LOCK = true)
    (hv : v = (s.fresh.count F.acqStatus_OVR_COUNT t).markOverrange t (s.si + k)) :
    exec (.adcOverrange t k) s = .next (if (v.tile t).inShot && (v.tile t).endTick.isNone && !(v.acq t).overranged then
      (v.setAcq t { v.acq t with overranged := true }).raise (707 + 4 * t) else v) := by
  subst hv
  change execAdcOverrange t k s = _
  unfold execAdcOverrange
  dsimp only
  rw [if_pos (by rw [State.fresh_flag, State.fresh_flag, h1, h2]; rfl)]
  rfl

/-- What a marked overrange sample leaves of the tile's acquisition. -/
theorem State.markOverrange_acq (s : State) (t x : Nat) : (s.markOverrange t x).acq t = { s.acq t with
    waiting := (s.acq t).waiting.map fun w => w.overrange x, windows := (s.acq t).windows.map fun w => w.overrange x } :=
  State.acq_setAcq _ _ _

end Machine

/-- The clause of O38 on ADC_OVERRANGE. -/
theorem adcOverrange_effects {t k : Fin 16} {s : State} (h1 : s.flag F.acqConfig_ADC_ENABLE t = true)
    (h2 : s.flag F.gridStatus_PLL_LOCK = true) : Runs (.adcOverrange t k) s fun u =>
      u.get F.acqStatus_OVR_COUNT t = satAdd (s.get F.acqStatus_OVR_COUNT t) 1 F.acqStatus_OVR_COUNT.width
      ∧ (u.acq t).windows = (s.acq t).windows.map (fun w => w.overrange (s.si + k))
      ∧ (u.acq t).waiting = (s.acq t).waiting.map (fun w => w.overrange (s.si + k))
      ∧ ((s.tile t).inShot = true → (s.tile t).endTick = none → (s.acq t).overranged = false →
        (u.acq t).overranged = true ∧ Raised s u (707 + 4 * t) 0 0) := by
  obtain ⟨v, hv⟩ : ∃ v, v = (s.fresh.count F.acqStatus_OVR_COUNT t).markOverrange t (s.si + k) := ⟨_, rfl⟩
  refine ⟨_, exec_adcOverrange h1 h2 hv, ?_⟩
  have hc : v.get F.acqStatus_OVR_COUNT t = satAdd (s.get F.acqStatus_OVR_COUNT t) 1 F.acqStatus_OVR_COUNT.width :=
    hv ▸ State.get_count s.fresh F.acqStatus_OVR_COUNT t 1
  have ha : v.acq t = { s.acq t with
      waiting := (s.acq t).waiting.map fun w => w.overrange (s.si + k)
      windows := (s.acq t).windows.map fun w => w.overrange (s.si + k) } := hv ▸ State.markOverrange_acq _ _ _
  have hr : v.tile t = s.tile t := hv ▸ rfl
  clear hv
  beta_reduce
  split
  · rw [State.raise_acq, State.acq_setAcq, ha]
    exact ⟨hc, rfl, rfl, fun _ _ _ => ⟨rfl, Raised.raise _ _ _⟩⟩
  · next hn =>
    rw [ha]
    refine ⟨hc, rfl, rfl, fun a b c => absurd ?_ hn⟩
    rw [hr, ha, a, b, c]
    rfl

namespace Machine

/-! ### Chunks that are formed (R277, R278, R282) -/

/-- Whether a chunk fits is the same where the capture buffer and the stream store are. -/
theorem chunkFits_of_only {ps : List Part} {s t : State} (h : Only ps s t) (h1 : Part.capture ∉ ps)
    (h2 : Part.image .capControl ∉ ps) (h3 : Part.image .capStatus ∉ ps) (h4 : Part.image .storeStatus ∉ ps) :
    t.chunkFits = s.chunkFits := by
  funext kind n
  unfold State.chunkFits State.capFree State.capSize State.stagedBytes State.storeOpen
  rw [show t.capture = s.capture from h .capture h1, h.get h2, h.get h2, h.get h3, h.get h3, h.flag h3, h.flag h4]

theorem State.chunkFits_setCapture (s : State) (x : Capture) (h : x.staging = s.capture.staging) :
    (s.setCapture x).chunkFits = s.chunkFits := by
  funext kind n
  unfold State.chunkFits State.capFree State.stagedBytes
  rw [State.setCapture_capture, h]
  rfl

/-- SNAP_BUSY after a SNAPSHOT chunk is formed: it stays where the chunk is staged (log 73). -/
theorem State.formChunk_snapBusy (s : State) (h : ChunkHead) (data : List Byte) (hk : h.kind = kindSnapshot) :
    (s.formChunk h data).flag F.acqStatus_SNAP_BUSY h.tile = (s.flag F.acqStatus_SNAP_BUSY h.tile
      && s.get F.capControl_CAP_SIZE ≠ 0 && s.chunkFits kindSnapshot (256 * (h.blocks + 1))) := by
  have clears : ∀ v : State, (v.endSnapBusy h.kind h.tile).flag F.acqStatus_SNAP_BUSY h.tile = false := fun v => by
    unfold State.endSnapBusy
    rw [if_pos hk]
    exact State.flag_putFlag _ _ _ _ (by decide)
  unfold State.formChunk
  split
  · next hz => simp [clears, hz]
  · next hz =>
    extract_lets seq c v x
    have hf : v.chunkFits = s.chunkFits := State.chunkFits_setCapture s c rfl
    have hb : v.flag F.acqStatus_SNAP_BUSY h.tile = s.flag F.acqStatus_SNAP_BUSY h.tile := State.setCapture_flag _ _ _ _
    rw [hf, hk]
    split
    · next hs => rw [State.setCapture_flag, hb, hs]; simp [hz]
    · next hs => rw [← hk, clears, hk, eq_false_of_ne_true hs, Bool.and_false]

end Machine

theorem Grows.dropChunk (s : State) (kind tile b : Nat) : Grows s (s.dropChunk kind tile b) := by
  unfold State.dropChunk
  split
  · extract_lets v x w
    have hw : Grows v w := by
      unfold w
      split
      · exact Grows.refl v
      · exact (Grows.of_eq rfl rfl : Grows v (v.setCapture x)).trans (Grows.raise _ _ _ _ _)
    exact ((Grows.put _ _ _ _ : Grows s v).trans hw).trans (Grows.report _ _ _ _ _ _)
  · exact ((Grows.put _ _ _ _).trans (Grows.raise _ _ _ _ _)).trans (Grows.report _ _ _ _ _ _)

theorem Grows.formChunk (s : State) (h : ChunkHead) (data : List Byte) : Grows s (s.formChunk h data) := by
  have ends : ∀ v : State, Grows v (v.endSnapBusy h.kind h.tile) := fun v =>
    Grows.of_only (State.endSnapBusy_only (List.Subset.refl _) (Only.refl _ v)) (by decide) (by decide)
  unfold State.formChunk
  split
  · exact ends s
  · extract_lets seq c v x
    have hv : Grows s v := Grows.of_eq rfl rfl
    split
    · exact hv.trans (Grows.of_eq rfl rfl)
    · exact hv.trans ((Grows.dropChunk _ _ _ _).trans (ends _))

/-- A chunk formed after a step that leaves the capture buffer and the stream store alone. -/
theorem Formed.of_only {ps : List Part} {s u : State} (o : Only ps s u) (h1 : Part.capture ∉ ps)
    (h2 : Part.image .capControl ∉ ps) (h3 : Part.image .capStatus ∉ ps) (h4 : Part.image .storeStatus ∉ ps) (h : ChunkHead)
    (data : List Byte) {n : Nat} (hn : n = 256 * (h.blocks + 1)) : Formed s (u.formChunk h data) h.kind h.tile n := by
  refine Formed.form h data hn (o .capture h1) (fun f hf => ?_) ?_
  · rcases hf with hf | hf
    · exact o.get (by rw [hf]; exact h2) 0
    · exact o.get (by rw [hf]; exact h3) 0
  · unfold State.storeOpen
    rw [o.flag h4]

/-- A chunk that has been formed stands where the capture buffer stands. -/
theorem Formed.onto {ps : List Part} {s t u : State} {kind tile n : Nat} (h : Formed s t kind tile n) (o : Only ps t u)
    (hp : Part.capture ∉ ps) : Formed s u kind tile n := by
  unfold Formed State.chunkSeq at h ⊢
  rw [show u.capture = t.capture from o .capture hp]
  exact h

namespace Machine

/-! ### Snapshots that end (R125, R277) -/

/-- A snapshot that ends, before its chunk is formed. -/
def State.snapshotEnded (s : State) (t : Nat) (x : Snapshot) : State :=
  ((s.setAcq t { s.acq t with snapshot := none }).raiseFrom (706 + 4 * t) 0 0 x.cause).freeBit.2

/-- The header of a snapshot's chunk (R278). -/
def State.snapshotHead (s : State) (t : Nat) (x : Snapshot) (bad : Bool) : ChunkHead :=
  { kind := kindSnapshot, tile := t, blocks := 2 * x.len, shot := x.shot, base := x.base, wall := x.wall, void := false
    last := ((s.setAcq t { s.acq t with snapshot := none }).raiseFrom (706 + 4 * t) 0 0 x.cause).freeBit.1
    decim := 0, mask := 0, paramA := 256 * x.len, paramB := 0, firstSi := x.start, bad }

theorem State.endSnapshot_split (s : State) (t : Nat) (x : Snapshot) (samples : List (BitVec 12)) (bad : Bool) :
    s.endSnapshot t x samples bad =
      (s.snapshotEnded t x).formChunk (s.snapshotHead t x bad) (samples.flatMap sampleBytes) := rfl

theorem exec_snapshotDone {t : Fin 16} {samples : List (BitVec 12)} {s : State} {x : Snapshot} (bad : Bool)
    (hx : (s.acq t).snapshot = some x) (hn : samples.length = 256 * x.len) (hs : x.start + 256 * x.len ≤ s.si) :
    exec (.snapshotDone t samples bad) s = .next (s.fresh.endSnapshot t x (s.fresh.adcCodes t samples) bad) := by
  change execSnapshotDone t samples bad s = _
  unfold execSnapshotDone
  dsimp only
  rw [show (s.fresh.acq t).snapshot = some x from hx]
  dsimp only
  rw [if_pos]
  simp only [hn, Bool.and_eq_true, decide_eq_true_eq]
  exact ⟨trivial, hs⟩

theorem State.snapshotEnded_done (s : State) (t : Nat) (x : Snapshot) {v : State} (hv : v = s.snapshotEnded t x) :
    Only [.acq, .out, .hatband, .image .hatbandControl, .log, .image .logStatus, .image .channel, .free] s v
    ∧ (v.acq t).snapshot = none ∧ (x.cause = none → Raised s v (706 + 4 * t) 0 0) := by
  subst hv
  unfold State.snapshotEnded
  obtain ⟨a, ha⟩ : ∃ a, a = s.setAcq t { s.acq t with snapshot := none } := ⟨_, rfl⟩
  have oa : Only [.acq] s a := ha ▸ State.setAcq_only (List.Subset.refl _) (Only.refl _ s)
  have hn : (a.acq t).snapshot = none := by rw [ha, State.acq_setAcq]
  rw [← ha]
  have ob := State.raiseFrom_only (src := 706 + 4 * t) (p := 0) (f := 0) (cause := x.cause) (List.Subset.refl _) (Only.refl _ a)
  have of : Only [.free] (a.raiseFrom (706 + 4 * t) 0 0 x.cause) (a.raiseFrom (706 + 4 * t) 0 0 x.cause).freeBit.2 :=
    State.freeBit_only (List.Subset.refl _) (Only.refl _ _)
  refine ⟨((oa.mono (by decide)).trans (ob.mono (by decide))).trans (of.mono (by decide)), ?_, fun hc => ?_⟩
  · rw [acq_of_only of (by decide), acq_of_only ob (by decide), hn]
  · refine Raised.grow ?_ (Grows.of_only of (by decide) (by decide))
    rw [hc]
    exact Raised.raise _ _ _

end Machine

/-- The clause of O38 on SNAPSHOT_DONE. -/
theorem snapshotDone_effects {t : Fin 16} {samples : List (BitVec 12)} {bad : Bool} {s : State} {x : Snapshot}
    (hx : (s.acq t).snapshot = some x) (hn : samples.length = 256 * x.len) (hs : x.start + 256 * x.len ≤ s.si) :
    Runs (.snapshotDone t samples bad) s fun u => (u.acq t).snapshot = none
        ∧ u.flag F.acqStatus_SNAP_BUSY t = (s.flag F.acqStatus_SNAP_BUSY t && s.get F.capControl_CAP_SIZE ≠ 0
          && s.chunkFits kindSnapshot (256 * (2 * x.len + 1)))
        ∧ Formed s u kindSnapshot t (256 * (2 * x.len + 1)) ∧ (x.cause = none → Raised s u (706 + 4 * t) 0 0) := by
  refine ⟨_, (exec_snapshotDone bad hx hn hs).trans (congrArg _ (State.endSnapshot_split _ _ _ _ _)), ?_⟩
  obtain ⟨o, h1, h2⟩ := s.fresh.snapshotEnded_done t x rfl
  generalize s.fresh.snapshotEnded t x = v at *
  have ov := (State.fresh_only (ps := [.out, .acq, .hatband, .image .hatbandControl, .log, .image .logStatus,
    .image .channel, .free]) (by decide) (Only.refl _ s)).trans (o.mono (by decide))
  have oc := State.formChunk_only (h := s.fresh.snapshotHead t x bad)
    (data := (s.fresh.adcCodes t samples).flatMap sampleBytes) (List.Subset.refl _) (Only.refl _ v)
  refine ⟨?_, ?_, ?_, fun hc => (h2 hc).grow (Grows.formChunk _ _ _)⟩
  · rw [acq_of_only oc (by decide)]
    exact h1
  · refine (v.formChunk_snapBusy (s.fresh.snapshotHead t x bad) _ rfl).trans ?_
    rw [ov.flag (by decide), ov.get (by decide), chunkFits_of_only ov (by decide) (by decide) (by decide) (by decide)]
    rfl
  · exact Formed.of_only ov (by decide) (by decide) (by decide) (by decide) (s.fresh.snapshotHead t x bad) _ rfl

namespace Machine

/-! ### IQ chunks (R124, R280) -/

theorem exec_iqChunkForm {t : Fin 16} {points : List (List (BitVec 16 × BitVec 16))} {s : State} {x : IqRun}
    {rest : List IqRun} (hx : (s.acq t).iq = x :: rest) (hc : s.capturing = true) (h0 : 0 < x.due.1)
    (hm : points.length = popCount x.mask 16) (hp : ∀ l ∈ points, l.length = x.due.1 * 2 ^ x.decim)
    (hs : (x.base + x.step * (x.next + x.due.1) : Nat) + x.ofs ≤ s.si) :
    exec (.iqChunkForm t points) s = .next (s.fresh.iqChunk t x x.due.1 x.due.2
      ((points.zip x.turns).map fun y => streamPoints x.decim y.2 y.1)) := by
  change execIqChunkForm t points s = _
  unfold execIqChunkForm
  dsimp only
  rw [show (s.fresh.acq t).iq = x :: rest from hx]
  dsimp only
  rw [if_pos]
  simp only [Bool.and_eq_true, decide_eq_true_eq, List.all_eq_true]
  exact ⟨⟨⟨⟨hc, h0⟩, hm⟩, hp⟩, hs⟩

/-- What an IQ chunk leaves of the recordings, and of the chunks. -/
theorem State.iqChunk_done (s : State) (t : Nat) (x : IqRun) (n : Nat) (last : Bool) (points : List (List (Int × Int)))
    {u : State} (hu : u = s.iqChunk t x n last points) :
    (u.acq t).iq = (if last then (s.acq t).iq.drop 1 else { x with next := x.next + n } :: (s.acq t).iq.drop 1)
    ∧ Formed s u kindIq t (256 * ((n + 63) / 64 * points.length + 1)) := by
  subst hu
  unfold State.iqChunk
  extract_lets spans rest a v
  refine ⟨?_, ?_⟩
  · rw [acq_of_only (State.formChunk_only (List.Subset.refl _) (Only.refl _ v)) (by decide), State.acq_setAcq]
  · exact Formed.of_only (State.setAcq_only (List.Subset.refl _) (Only.refl _ s)) (by decide) (by decide) (by decide)
      (by decide) _ _ rfl

end Machine

/-- The clause of O38 on IQ_CHUNK_FORM. -/
theorem iqChunkForm_effects {t : Fin 16} {points : List (List (BitVec 16 × BitVec 16))} {s : State} {x : IqRun}
    {rest : List IqRun} (hx : (s.acq t).iq = x :: rest) (hc : s.capturing = true) (h0 : 0 < x.due.1)
    (hm : points.length = popCount x.mask 16) (hp : ∀ l ∈ points, l.length = x.due.1 * 2 ^ x.decim)
    (hs : (x.base + x.step * (x.next + x.due.1) : Nat) + x.ofs ≤ s.si) :
    Runs (.iqChunkForm t points) s fun u =>
      (u.acq t).iq = (if x.due.2 then rest else { x with next := x.next + x.due.1 } :: rest)
        ∧ Formed s u kindIq t (256 * ((x.due.1 + 63) / 64 * min points.length x.turns.length + 1)) := by
  refine ⟨_, exec_iqChunkForm hx hc h0 hm hp hs, ?_⟩
  obtain ⟨h1, h2⟩ := s.fresh.iqChunk_done t x x.due.1 x.due.2
    ((points.zip x.turns).map fun y => streamPoints x.decim y.2 y.1) rfl
  rw [State.fresh_acq, hx] at h1
  rw [List.length_map, List.length_zip] at h2
  exact ⟨h1, h2⟩

namespace Machine

/-! ### Histograms and the records that are passed (R126, R127, R141) -/

theorem satAdd_satAdd (a m n w : Nat) : satAdd (satAdd a m w) n w = satAdd a (m + n) w := by
  unfold satAdd
  generalize 2 ^ w - 1 = x
  omega

/-- A point that is binned counts in its bin and in no other. -/
theorem State.binPoint_bins (s : State) (p : Nat × Int × Int × Nat) (k : Nat) : (s.binPoint p).readout.bins.read 0 k =
    if pointBin p = some k then satAdd (s.readout.bins.read 0 k) 1 24 else s.readout.bins.read 0 k := by
  obtain ⟨slot, i, q, cfg⟩ := p
  unfold State.binPoint pointBin
  dsimp only
  generalize (i - signed (bits cfg 0 32) 32) / 2 ^ bits cfg 64 5 + 32 = bi
  generalize (q - signed (bits cfg 32 32) 32) / 2 ^ bits cfg 64 5 + 32 = bq
  by_cases h : 0 ≤ bi ∧ bi < 64 ∧ 0 ≤ bq ∧ bq < 64
  · rw [if_pos (by simpa [and_assoc] using h), if_pos h]
    generalize 4096 * slot + 64 * bi.toNat + bq.toNat = key
    have hb : ∀ u : State, u.readout.bins = s.readout.bins.write 0 key (satAdd (s.readout.bins.read 0 key) 1 24) →
        u.readout.bins.read 0 k = if some key = some k then satAdd (s.readout.bins.read 0 k) 1 24
          else s.readout.bins.read 0 k := fun u hu => by
      rw [hu]
      by_cases e : key = k
      · rw [e, if_pos rfl, SMap.read_write_self]
      · rw [SMap.read_write_ne _ _ _ _ (Ne.symm e), if_neg (fun x => e (Option.some.inj x))]
    apply hb
    split
    · rw [State.putFlag_readout, State.count_readout]
    · rw [State.count_readout]
  · rw [if_neg (by simpa [and_assoc] using h), if_neg h, if_neg (by simp), State.count_readout]

/-- Points that are binned in turn. -/
theorem State.binPoints_bins (k : Nat) : ∀ (l : List (Nat × Int × Int × Nat)) (s : State),
    (l.foldl State.binPoint s).readout.bins.read 0 k = if (l.filter fun p => pointBin p = some k) = []
      then s.readout.bins.read 0 k
      else satAdd (s.readout.bins.read 0 k) (l.filter fun p => pointBin p = some k).length 24
  | [], _ => rfl
  | p :: l, s => by
    rw [List.foldl_cons, State.binPoints_bins k l, State.binPoint_bins]
    by_cases h : pointBin p = some k
    · rw [List.filter_cons_of_pos (by simpa using h), if_pos h, if_neg (List.cons_ne_nil _ _), List.length_cons]
      split
      · next e => rw [e]; rfl
      · rw [satAdd_satAdd, Nat.add_comm 1]
    · rw [List.filter_cons_of_neg (by simpa using h), if_neg h]

theorem exec_recordsPassed {t : Fin 16} {s : State} {l : ShotLog} {rest : List ShotLog} (hl : (s.acq t).shots = l :: rest)
    (he : l.ended = true) (hd : (s.acq t).decidedAll l.shot = true) :
    exec (.recordsPassed t) s = .next (s.fresh.passRecords t l) := by
  change execRecordsPassed t s = _
  unfold execRecordsPassed
  dsimp only
  rw [show (s.fresh.acq t).shots = l :: rest from hl]
  dsimp only
  rw [if_pos]
  rw [he]
  exact hd

/-- A shot that is passed, once its DECISION chunk has been formed where its records are kept (R141, R279). -/
def State.recordsKept (s : State) (t : Nat) (l : ShotLog) : State :=
  let v := s.setAcq t { s.acq t with shots := (s.acq t).shots.filter fun x => x.shot ≠ l.shot }
  if l.keep && v.capturing then v.decisionChunk t l else v

theorem State.passRecords_split (s : State) (t : Nat) (l : ShotLog) : s.passRecords t l = if l.void then s.recordsKept t l
    else l.resids.foldl State.countResid (l.points.foldl State.binPoint (s.recordsKept t l)) := rfl

/-- What formation of a shot's chunk leaves of the acquisition, the chunks and the bins. -/
theorem State.recordsKept_done (s : State) (t : Nat) (l : ShotLog) {v : State} (hv : v = s.recordsKept t l) :
    (v.acq t).shots = (s.acq t).shots.filter (fun x => x.shot ≠ l.shot) ∧ v.readout.bins = s.readout.bins
    ∧ (l.keep = true → s.capturing = true → Formed s v kindDecision t (256 * ((l.recs.length + 15) / 16 + 1))) := by
  subst hv
  unfold State.recordsKept
  obtain ⟨a, ha⟩ : ∃ a, a = s.setAcq t { s.acq t with shots := (s.acq t).shots.filter fun x => x.shot ≠ l.shot } :=
    ⟨_, rfl⟩
  have oa : Only [.acq] s a := ha ▸ State.setAcq_only (List.Subset.refl _) (Only.refl _ s)
  have h1 : (a.acq t).shots = (s.acq t).shots.filter (fun x => x.shot ≠ l.shot) := by rw [ha, State.acq_setAcq]
  have h2 : a.readout.bins = s.readout.bins := oa .bins (by decide)
  have hc : a.capturing = s.capturing := by
    unfold State.capturing
    rw [show a.mode = s.mode from oa .mode (by decide)]
  rw [← ha]
  dsimp only
  split
  · have o := State.decisionChunk_only (t := t) (l := l) (List.Subset.refl _) (Only.refl _ a)
    refine ⟨by rw [acq_of_only o (by decide), h1], (show _ = a.readout.bins from o .bins (by decide)).trans h2, fun _ _ => ?_⟩
    unfold State.decisionChunk
    dsimp only
    exact Formed.of_only oa (by decide) (by decide) (by decide) (by decide) _ _ (by rw [List.length_map])
  · next hk =>
    refine ⟨h1, h2, fun x y => absurd ?_ hk⟩
    rw [x, hc, y]
    rfl

/-- Points that are binned and residuals that are counted leave every other part alone. -/
theorem State.binned_only (s : State) (l : ShotLog) : Only [.bins, .image .histStatus, .image .pounceStatus] s
    (l.resids.foldl State.countResid (l.points.foldl State.binPoint s)) :=
  Only.foldl (fun _ _ hx => State.countResid_only (by decide) hx) _
    (Only.foldl (fun _ _ hx => State.binPoint_only (by decide) hx) _ (Only.refl _ s))

/-- Residuals that are counted leave the bins alone. -/
theorem State.countResids_bins (l : List (Nat × Nat × Bool)) (s : State) :
    (l.foldl State.countResid s).readout.bins = s.readout.bins :=
  (Only.foldl (fun _ _ hx => State.countResid_only (List.Subset.refl _) hx) l (Only.refl _ s)) .bins (by decide)

end Machine

/-- The clause of O38 on RECORDS_PASSED. -/
theorem recordsPassed_effects {t : Fin 16} {s : State} {l : ShotLog} {rest : List ShotLog}
    (hl : (s.acq t).shots = l :: rest) (he : l.ended = true) (hd : (s.acq t).decidedAll l.shot = true) :
    Runs (.recordsPassed t) s fun u =>
      (u.acq t).shots = (s.acq t).shots.filter (fun x => x.shot ≠ l.shot)
        ∧ (l.keep = true → s.capturing = true → Formed s u kindDecision t (256 * ((l.recs.length + 15) / 16 + 1)))
        ∧ (l.void = true → u.readout.bins = s.readout.bins)
        ∧ (l.void = false → ∀ k, u.readout.bins.read 0 k = if (l.points.filter fun p => pointBin p = some k) = []
          then s.readout.bins.read 0 k
          else satAdd (s.readout.bins.read 0 k) (l.points.filter fun p => pointBin p = some k).length 24) := by
  refine ⟨_, (exec_recordsPassed hl he hd).trans (congrArg _ (State.passRecords_split _ _ _)), ?_⟩
  obtain ⟨h1, h2, h3⟩ := s.fresh.recordsKept_done t l rfl
  generalize s.fresh.recordsKept t l = v at *
  cases hv : l.void with
  | true =>
    rw [if_pos rfl]
    exact ⟨h1, h3, fun _ => h2, fun x => absurd x (by decide)⟩
  | false =>
    rw [if_neg Bool.false_ne_true]
    have o := v.binned_only l
    refine ⟨by rw [acq_of_only o (by decide)]; exact h1, fun a b => (h3 a b).onto o (by decide),
      fun x => absurd x (by decide), fun _ k => ?_⟩
    rw [State.countResids_bins, State.binPoints_bins, h2]
    rfl

/-- Settles O38: each row of acquisition by its own lemma. -/
theorem acquisitionEffects : Obligations.AcquisitionEffects :=
  ⟨fun _ _ _ h => windowOpen_effects h, fun _ _ _ h1 h2 => adcOverrange_effects h1 h2,
    fun _ _ _ _ _ hx hn hs => snapshotDone_effects hx hn hs,
    fun _ _ _ _ _ hx hc h0 hm hp hs => iqChunkForm_effects hx hc h0 hm hp hs,
    fun _ _ _ _ hl he hd => recordsPassed_effects hl he hd⟩

end Sys2Proof
end

section
namespace Sys2Proof
open Machine
namespace Machine

/-! ### Points and running sums (R115, R120, R121) -/

/-- What a point of a window adds to its running sum, turned to the window's reference. -/
theorem Window.addPoint_sums (w : Window) (i q : Int) (sealBad : Bool) {p : Int × Int} (hp : p = referPoint w.turn (i, q)) :
    (w.addPoint i q sealBad).points = w.points + 1
    ∧ (w.addPoint i q sealBad).sumI = w.sumI + (w.weight w.points).1 * p.1 - (w.weight w.points).2 * p.2
    ∧ (w.addPoint i q sealBad).sumQ = w.sumQ + (w.weight w.points).1 * p.2 + (w.weight w.points).2 * p.1 := by
  subst hp
  exact ⟨rfl, rfl, rfl⟩

theorem Window.decideEnd_sums (w : Window) (n : Nat) : (w.decideEnd n).points = w.points ∧ (w.decideEnd n).sumI = w.sumI
    ∧ (w.decideEnd n).sumQ = w.sumQ := by
  unfold Window.decideEnd
  split
  · exact ⟨rfl, rfl, rfl⟩
  · split <;> exact ⟨rfl, rfl, rfl⟩

/-- Judgement leaves the running sum alone. -/
theorem Window.judge_sums (w : Window) (n : Nat) (sealBad : Bool) : (w.judge n sealBad).points = w.points
    ∧ (w.judge n sealBad).sumI = w.sumI ∧ (w.judge n sealBad).sumQ = w.sumQ := by
  unfold Window.judge
  split
  · exact ⟨rfl, rfl, rfl⟩
  · split
    · exact ⟨rfl, rfl, rfl⟩
    · split
      · exact w.decideEnd_sums n
      · exact ⟨rfl, rfl, rfl⟩

/-! ### Windows that are judged (R137 to R139) -/

theorem Window.judge_sealBad {w : Window} (n : Nat) (h1 : w.lambda ≠ 0) (h2 : w.valid = true) :
    (w.judge n true).decided = some (3, false, false, n, 0, false) := by
  unfold Window.judge
  rw [if_pos (by simp [h1, h2])]

theorem Window.judge_stops {w : Window} {n : Nat} (h : w.stopsAt n = true) :
    (w.judge n false).decided = some ((w.best n).1, false, true, n, marginCode (w.margin n), false) := by
  unfold Window.judge
  rw [if_neg (by simp), if_pos h]

/-- A window without a threshold is decided at its last point, with outcome 3. -/
theorem Window.judge_noThreshold {w : Window} {n : Nat} (h : w.lambda = 0) (hn : n + 1 = w.complete) (sealBad : Bool) :
    (w.judge n sealBad).decided = some (3, false, false, n, 0, false) := by
  unfold Window.judge Window.stopsAt
  rw [if_neg (by simp [h]), if_neg (by simp [h]), if_pos hn]
  unfold Window.decideEnd
  rw [if_pos h]

/-! ### Windows that close (R118, R119, R128) -/

/-- A window that has been decided, with the acquisitions that it absorbs. -/
def State.closedWindow (s : State) (t : Nat) (w : Window) : Window :=
  { w with overlaps := w.overlaps + ((s.acq t).waiting.filter w.absorbs).length }

theorem State.closeWindow_done (s : State) (t u : Nat) (w : Window) {v : State} (hv : v = s.closeWindow t u w) :
    (v.acq t).waiting = (s.acq t).waiting.filter (fun y => !w.absorbs y)
    ∧ (v.acq t).windows = replaceOpen u (s.closedWindow t w) (s.acq t).windows
    ∧ ((∀ y ∈ (v.acq t).windows, y.decided = none → w.closedAt ≤ y.w + y.ofs) → Raised s v (705 + 4 * t) 0 0) := by
  subst hv
  unfold State.closeWindow
  extract_lets a gone w' r inputs b windows v
  have h1 : (v.acq t).waiting = (s.acq t).waiting.filter (fun y => !w.absorbs y) := by
    unfold v
    rw [State.acq_setAcq]
    rfl
  have h2 : (v.acq t).windows = windows := by
    unfold v
    rw [State.acq_setAcq]
  split
  · next hlater =>
    refine ⟨h1, h2, fun hy => absurd hlater ?_⟩
    rw [h2] at hy
    simp only [List.any_eq_true, Bool.and_eq_true, Option.isNone_iff_eq_none, decide_eq_true_eq]
    rintro ⟨y, hm, hd, hlt⟩
    exact absurd hlt (Int.not_lt.mpr (hy y hm hd))
  · exact ⟨h1, h2, fun _ => Raised.raise _ _ _⟩

theorem exec_pounceEvaluate {t u : Fin 16} {i q : BitVec 16} {sealBad : Bool} {s : State} {w : Window}
    (hw : ((s.acq t).windows.find? fun y => y.tone = u.val && y.decided.isNone) = some w) (hp : w.points < w.complete)
    (hs : w.spanEnd w.points + 512 ≤ s.si) :
    exec (.pounceEvaluate t u i q sealBad) s = .next (s.fresh.evaluate t u w i.toInt q.toInt sealBad) := by
  change execPounceEvaluate t u i q sealBad s = _
  unfold execPounceEvaluate
  dsimp only
  rw [show ((s.fresh.acq t).windows.find? fun y => y.tone = u.val && y.decided.isNone) = some w from hw]
  dsimp only
  rw [if_pos]
  simp only [Bool.and_eq_true, decide_eq_true_eq]
  exact ⟨hp, hs⟩

theorem State.evaluate_open {s : State} {t u : Nat} {w x : Window} {i q : Int} {sealBad : Bool}
    (hx : x = (w.addPoint i q sealBad).judge w.points sealBad) (hd : x.decided = none) :
    s.evaluate t u w i q sealBad = s.setAcq t { s.acq t with windows := replaceOpen u x (s.acq t).windows } := by
  subst hx
  unfold State.evaluate
  dsimp only
  rw [if_neg (by rw [hd]; decide)]

theorem State.evaluate_decided {s : State} {t u : Nat} {w x : Window} {i q : Int} {sealBad : Bool}
    (hx : x = (w.addPoint i q sealBad).judge w.points sealBad) (hd : x.decided ≠ none) :
    s.evaluate t u w i q sealBad = s.closeWindow t u x := by
  subst hx
  unfold State.evaluate
  dsimp only
  rw [if_pos (Option.isSome_iff_ne_none.mpr hd)]

end Machine

/-- The clause of O39 on POUNCE_EVALUATE. -/
theorem pounceEvaluate_effects {t u : Fin 16} {i q : BitVec 16} {sealBad : Bool} {s : State} {w x : Window} {p : Int × Int}
    (hp : p = referPoint w.turn (i.toInt, q.toInt))
    (hw : ((s.acq t).windows.find? fun y => y.tone = u.val && y.decided.isNone) = some w) (hc : w.points < w.complete)
    (hs : w.spanEnd w.points + 512 ≤ s.si) (hx : x = (w.addPoint i.toInt q.toInt sealBad).judge w.points sealBad) :
    (x.points = w.points + 1
      ∧ x.sumI = w.sumI + (w.weight w.points).1 * p.1 - (w.weight w.points).2 * p.2
      ∧ x.sumQ = w.sumQ + (w.weight w.points).1 * p.2 + (w.weight w.points).2 * p.1)
    ∧ (x.decided = none → Runs (.pounceEvaluate t u i q sealBad) s fun v =>
      (v.acq t).windows = replaceOpen u x (s.acq t).windows ∧ (v.acq t).waiting = (s.acq t).waiting)
    ∧ (x.decided ≠ none → Runs (.pounceEvaluate t u i q sealBad) s fun v =>
      (v.acq t).waiting = (s.acq t).waiting.filter (fun y => !x.absorbs y)
        ∧ (v.acq t).windows = replaceOpen u (s.closedWindow t x) (s.acq t).windows
        ∧ ((∀ y ∈ (v.acq t).windows, y.decided = none → x.closedAt ≤ y.w + y.ofs) → Raised s v (705 + 4 * t) 0 0)) := by
  have he := exec_pounceEvaluate (i := i) (q := q) (sealBad := sealBad) hw hc hs
  refine ⟨?_, fun hd => ?_, fun hd => ?_⟩
  · obtain ⟨j1, j2, j3⟩ := (w.addPoint i.toInt q.toInt sealBad).judge_sums w.points sealBad
    rw [hx, j1, j2, j3]
    exact w.addPoint_sums i.toInt q.toInt sealBad hp
  · refine ⟨_, he.trans (congrArg _ (State.evaluate_open hx hd)), ?_⟩
    beta_reduce
    rw [State.acq_setAcq]
    exact ⟨rfl, rfl⟩
  · exact ⟨_, he.trans (congrArg _ (State.evaluate_decided hx hd)), s.fresh.closeWindow_done t u x rfl⟩

namespace Machine

/-! ### Decisions that are ready (R140 to R142, R147) -/

theorem State.settleWindow_decided {s : State} {t u : Nat} {w : Window} (h : w.decided.isSome = true) :
    s.settleWindow t u w = s := by
  unfold State.settleWindow
  rw [if_neg]
  rw [Option.isNone_eq_false_iff.mpr h]
  exact Bool.false_ne_true

theorem exec_decisionReady {t u : Fin 16} {s : State} {w : Window} {d : Decision}
    (hw : ((s.acq t).windows.find? fun y => y.tone = u.val) = some w) (hd : w.decision = some d) (hr : w.readyAt d ≤ s.si) :
    exec (.decisionReady t u) s = .next (s.fresh.passDecision t w d) := by
  have hw' : ((s.fresh.acq t).windows.find? fun y => y.tone = u.val) = some w := hw
  have hsome : w.decided.isSome = true := by
    unfold Window.decision at hd
    rw [← Option.isSome_map, hd]
    rfl
  change execDecisionReady t u s = _
  unfold execDecisionReady
  dsimp only
  rw [hw']
  dsimp only
  rw [State.settleWindow_decided hsome, hw']
  dsimp only
  rw [hd]
  dsimp only
  rw [if_pos (show w.readyAt d ≤ s.fresh.si from hr)]

/-- A field beside a counter that may count. -/
theorem State.get_countIf_apart (s : State) {f g : Field} (h : Apart f g) (i : Nat) (c : Prop) [Decidable c] :
    (if c then s.count f i else s).get g i = s.get g i := by
  split
  · exact State.get_count_other _ h
  · rfl

/-- What a decision leaves of the Pounce status of its slot: from `s` to `v` it is counted (R147). -/
structure DecisionCounted (s v : State) (slot : Nat) (d : Decision) : Prop where
  decisions : v.get F.pounceStatus_DECISIONS slot =
    satAdd (s.get F.pounceStatus_DECISIONS slot) 1 F.pounceStatus_DECISIONS.width
  early : d.early = true → v.get F.pounceStatus_EARLY_STOPS slot =
    satAdd (s.get F.pounceStatus_EARLY_STOPS slot) 1 F.pounceStatus_EARLY_STOPS.width
  invalid : d.invalid = true → v.get F.pounceStatus_MODEL_INVALID slot =
    satAdd (s.get F.pounceStatus_MODEL_INVALID slot) 1 F.pounceStatus_MODEL_INVALID.width
  outcome : v.get F.pounceStatus_LAST_OUTCOME slot = d.outcome % 2 ^ F.pounceStatus_LAST_OUTCOME.width
  stop : v.get F.pounceStatus_LAST_STOP slot = d.stop % 2 ^ F.pounceStatus_LAST_STOP.width

theorem State.countDecision_counted (s : State) (slot : Nat) (d : Decision) :
    DecisionCounted s (s.countDecision slot d) slot d := by
  unfold State.countDecision
  extract_lets a b c e
  have ha : ∀ {g}, Apart F.pounceStatus_DECISIONS g → a.get g slot = s.get g slot := fun h => State.get_count_other _ h
  have hb : ∀ {g}, Apart F.pounceStatus_EARLY_STOPS g → b.get g slot = a.get g slot := fun h => a.get_countIf_apart h slot _
  have hc : ∀ {g}, Apart F.pounceStatus_LOW_CONF_COUNT g → c.get g slot = b.get g slot :=
    fun h => b.get_countIf_apart h slot _
  have he : ∀ {g}, Apart F.pounceStatus_MODEL_INVALID g → e.get g slot = c.get g slot :=
    fun h => c.get_countIf_apart h slot _
  constructor
  · rw [State.get_put_other _ (by decide), State.get_putFlag_other _ (by decide), State.get_put_other _ (by decide),
      he (by decide), hc (by decide), hb (by decide)]
    exact State.get_count _ _ _ _
  · intro h
    rw [State.get_put_other _ (by decide), State.get_putFlag_other _ (by decide), State.get_put_other _ (by decide),
      he (by decide), hc (by decide), ← ha (by decide)]
    unfold b
    rw [if_pos h, State.get_count]
  · intro h
    rw [State.get_put_other _ (by decide), State.get_putFlag_other _ (by decide), State.get_put_other _ (by decide),
      ← ha (by decide), ← hb (by decide), ← hc (by decide)]
    unfold e
    rw [if_pos h, State.get_count]
  · rw [State.get_put_other _ (by decide), State.get_putFlag_other _ (by decide), State.get_put]
  · exact State.get_put _ _ _ _

theorem DecisionCounted.extend {ps qs : List Part} {s t u v : State} {slot : Nat} {d : Decision}
    (h : DecisionCounted t u slot d) (o : Only ps s t) (hp : Part.image .pounceStatus ∉ ps) (k : Only qs u v)
    (hq : Part.image .pounceStatus ∉ qs) : DecisionCounted s v slot d := by
  obtain ⟨h1, h2, h3, h4, h5⟩ := h
  constructor
  · rw [k.get hq, h1, o.get hp]
  · intro he
    rw [k.get hq, h2 he, o.get hp]
  · intro hi
    rw [k.get hq, h3 hi, o.get hp]
  · rw [k.get hq, h4]
  · rw [k.get hq, h5]

theorem State.logDecision_windows (s : State) (t : Nat) (w : Window) (d : Decision) :
    ((s.logDecision t w d).acq t).windows = (s.acq t).windows := by
  unfold State.logDecision
  extract_lets a
  split
  · rfl
  · extract_lets b spill c
    rw [State.acq_setAcq]

/-- Discards that are counted in turn (R119). -/
theorem State.countOverlaps_get (t : Nat) : ∀ (n : Nat) (s : State), (s.countOverlaps t n).get F.acqStatus_ACQ_OVERLAP t =
    satAdd (s.get F.acqStatus_ACQ_OVERLAP t) n F.acqStatus_ACQ_OVERLAP.width
  | 0, s => (State.satAdd_get_zero _ _ _).symm
  | n + 1, s => by
    rw [State.countOverlaps, State.countOverlaps_get t n, State.raise_get, State.get_count, satAdd_satAdd, Nat.add_comm 1]

/-- A decision that has left its window, is counted and logged. -/
def State.decisionNoted (s : State) (t : Nat) (w : Window) (d : Decision) : State :=
  (((s.setAcq t { s.acq t with windows := removeWindow w (s.acq t).windows }).countDecision w.slot d).logDecision t w
    d).countOverlaps t w.overlaps

/-- A decision enters the shot of its window, while that is in play (R190, R191). -/
def State.enterDecision (s : State) (t : Nat) (w : Window) (d : Decision) : State :=
  if (s.tile t).inShot && s.get F.runStatus_SHOT_SEQ t = w.shot % 2 ^ 32 then
    s.setTile t ((s.tile t).decide (w.slot % 16) w.serial d)
  else s

theorem State.passDecision_split (s : State) (t : Nat) (w : Window) (d : Decision) : s.passDecision t w d =
    if w.trunc then (s.decisionNoted t w d).enterDecision t w d
    else ((s.decisionNoted t w d).enterDecision t w d).raise w.slot d.outcome (if d.lowConf then 1 else 0) := rfl

theorem State.decisionNoted_done (s : State) (t : Nat) (w : Window) (d : Decision) {v : State}
    (hv : v = s.decisionNoted t w d) :
    Only [.acq, .image .pounceStatus, .image .tilePounce, .image .histStatus, .image .acqStatus, .out, .hatband] s v
    ∧ (v.acq t).windows = removeWindow w (s.acq t).windows ∧ DecisionCounted s v w.slot d
    ∧ v.get F.acqStatus_ACQ_OVERLAP t =
      satAdd (s.get F.acqStatus_ACQ_OVERLAP t) w.overlaps F.acqStatus_ACQ_OVERLAP.width := by
  obtain ⟨a, ha⟩ : ∃ a, a = s.setAcq t { s.acq t with windows := removeWindow w (s.acq t).windows } := ⟨_, rfl⟩
  have hw : (a.acq t).windows = removeWindow w (s.acq t).windows := by rw [ha, State.acq_setAcq]
  have oa : Only [.acq] s a := ha ▸ State.setAcq_only (List.Subset.refl _) (Only.refl _ s)
  have ob := State.countDecision_only (slot := w.slot) (d := d) (List.Subset.refl _) (Only.refl _ a)
  have oc := State.logDecision_only (t := t) (w := w) (d := d) (List.Subset.refl _) (Only.refl _ (a.countDecision w.slot d))
  have hl := (a.countDecision w.slot d).logDecision_windows t w d
  have hd := a.countDecision_counted w.slot d
  have oe : v = ((a.countDecision w.slot d).logDecision t w d).countOverlaps t w.overlaps := by
    rw [hv, ha]
    rfl
  generalize a.countDecision w.slot d = b at *
  generalize b.logDecision t w d = c at *
  have oo := State.countOverlaps_only (t := t) (n := w.overlaps) (List.Subset.refl _) (Only.refl _ c)
  have hn := State.countOverlaps_get t w.overlaps c
  rw [← oe] at oo hn
  refine ⟨?_, ?_, hd.extend oa (by decide) ((oc.mono (by decide)).trans (oo.mono (qs := [.image .tilePounce,
    .image .histStatus, .acq, .image .acqStatus, .out, .hatband]) (by decide))) (by decide), ?_⟩
  · exact ((oa.mono (by decide)).trans (ob.mono (by decide))).trans ((oc.mono (by decide)).trans (oo.mono (by decide)))
  · rw [acq_of_only oo (by decide), hl, acq_of_only ob (by decide), hw]
  · rw [hn, oc.get (by decide), ob.get (by decide), oa.get (by decide)]

theorem State.enterDecision_only (s : State) (t : Nat) (w : Window) (d : Decision) :
    Only [.runs] s (s.enterDecision t w d) :=
  Only.ite (State.setTile_only (List.Subset.refl _) (Only.refl _ s)) (Only.refl _ s)

theorem State.enterDecision_tile {s : State} {t : Nat} {w : Window} (h1 : (s.tile t).inShot = true)
    (h2 : s.get F.runStatus_SHOT_SEQ t = w.shot % 2 ^ 32) (d : Decision) :
    (s.enterDecision t w d).tile t = (s.tile t).decide (w.slot % 16) w.serial d := by
  unfold State.enterDecision
  rw [if_pos (by simp [h1, h2]), State.tile_setTile]

end Machine

/-- The clause of O39 on DECISION_READY. -/
theorem decisionReady_effects {t u : Fin 16} {s : State} {w : Window} {d : Decision}
    (hw : ((s.acq t).windows.find? fun y => y.tone = u.val) = some w) (hd : w.decision = some d) (hr : w.readyAt d ≤ s.si) :
    Runs (.decisionReady t u) s fun v =>
      (v.acq t).windows = removeWindow w (s.acq t).windows
      ∧ v.get F.pounceStatus_DECISIONS w.slot =
        satAdd (s.get F.pounceStatus_DECISIONS w.slot) 1 F.pounceStatus_DECISIONS.width
      ∧ (d.early = true → v.get F.pounceStatus_EARLY_STOPS w.slot =
        satAdd (s.get F.pounceStatus_EARLY_STOPS w.slot) 1 F.pounceStatus_EARLY_STOPS.width)
      ∧ (d.invalid = true → v.get F.pounceStatus_MODEL_INVALID w.slot =
        satAdd (s.get F.pounceStatus_MODEL_INVALID w.slot) 1 F.pounceStatus_MODEL_INVALID.width)
      ∧ v.get F.pounceStatus_LAST_OUTCOME w.slot = d.outcome % 2 ^ F.pounceStatus_LAST_OUTCOME.width
      ∧ v.get F.pounceStatus_LAST_STOP w.slot = d.stop % 2 ^ F.pounceStatus_LAST_STOP.width
      ∧ v.get F.acqStatus_ACQ_OVERLAP t = satAdd (s.get F.acqStatus_ACQ_OVERLAP t) w.overlaps F.acqStatus_ACQ_OVERLAP.width
      ∧ ((s.tile t).inShot = true → s.get F.runStatus_SHOT_SEQ t = w.shot % 2 ^ 32 →
        v.tile t = (s.tile t).decide (w.slot % 16) w.serial d)
      ∧ (w.trunc = false → Raised s v w.slot d.outcome (if d.lowConf then 1 else 0)) := by
  have he := exec_decisionReady hw hd hr
  rw [State.passDecision_split] at he
  obtain ⟨o, h1, h2, h3⟩ := s.fresh.decisionNoted_done t w d rfl
  generalize s.fresh.decisionNoted t w d = a at *
  have oe := a.enterDecision_only t w d
  have ht := a.enterDecision_tile (t := t) (w := w) (d := d)
  generalize a.enterDecision t w d = b at *
  obtain ⟨v, hv⟩ : ∃ v, v = if w.trunc then b else b.raise w.slot d.outcome (if d.lowConf then 1 else 0) := ⟨_, rfl⟩
  have ov : Only [.out, .hatband] b v := hv ▸ Only.ite (Only.refl _ b) (State.raise_only (List.Subset.refl _) (Only.refl _ b))
  have hraised : w.trunc = false → Raised s v w.slot d.outcome (if d.lowConf then 1 else 0) := fun h => by
    rw [hv, if_neg (ne_true_of_eq_false h)]
    exact Raised.raise _ _ _
  rw [← hv] at he
  clear hv
  have k : Only [.runs, .out, .hatband] a v := (oe.mono (by decide)).trans (ov.mono (by decide))
  obtain ⟨d1, d2, d3, d4, d5⟩ := h2.extend (State.fresh_only (List.Subset.refl _) (Only.refl _ s)) (by decide) k (by decide)
  refine ⟨v, he, by rw [acq_of_only k (by decide), h1]; rfl, d1, d2, d3, d4, d5, by rw [k.get (by decide), h3]; rfl,
    fun hi hs => ?_, hraised⟩
  rw [tile_of_only ov (by decide), ht (by rw [tile_of_only o (by decide)]; exact hi) (by rw [o.get (by decide)]; exact hs),
    tile_of_only o (by decide)]
  rfl

/-- Settles O39: a point that is evaluated, a window that is judged, and a decision that is ready. -/
theorem pounceEffects : Obligations.PounceEffects :=
  ⟨fun _ _ _ _ _ _ _ _ _ hp hw hc hs hx => pounceEvaluate_effects hp hw hc hs hx,
    fun _ n sealBad => ⟨fun h hn => Window.judge_noThreshold h hn sealBad,
      fun h1 h2 hb => hb ▸ Window.judge_sealBad n h1 h2, fun h hb => hb ▸ Window.judge_stops h⟩,
    fun _ _ _ _ _ hw hd hr => decisionReady_effects hw hd hr⟩

end Sys2Proof
end

section
namespace Sys2Proof
open Machine
namespace Machine

/-! ### ACQUIRE (R119, R186, R191) -/

theorem State.acquire_none {s : State} {t w tick : Nat}
    (h : s.acquireTone t (indexOf w) (s.context t (ctxOf w)) = none) :
    s.acquire t w tick = (s.noTone t (indexOf w)).advance t 1 := by
  unfold State.acquire
  dsimp only
  rw [h]

/-- An ACQUIRE that waits for its window, in the state that has armed its input. -/
def State.armWindow (s : State) (t w : Nat) (x : Window) : State :=
  (s.setAcq t { s.acq t with waiting := (s.acq t).waiting ++ [x] }).setTile t ((s.tile t).armInput (indexOf w) none)

theorem State.acquire_some {s : State} {t w tick n : Nat}
    (h : s.acquireTone t (indexOf w) (s.context t (ctxOf w)) = some n) : s.acquire t w tick =
      (s.armWindow t w (s.windowOf t (indexOf w) n (s.context t (ctxOf w)) tick)).advance t 1 := by
  unfold State.acquire
  dsimp only
  rw [h]
  rfl

end Machine

/-- A word that has ended, where the tile's own run has changed and no other part of the runs or engines (R165). -/
theorem GoesOn.setTile {ps : List Part} {s a : State} {t n : Nat} {r : TileRun} (ht : t < 17) (o : Only ps s a)
    (h1 : Part.runs ∉ ps) (h2 : Part.engines ∉ ps) (h3 : Part.image .engineStatus ∉ ps) (hpc : r.pc = (s.tile t).pc) :
    GoesOn s ((a.setTile t r).advance t n) t n r :=
  GoesOn.advance ht (State.tile_setTile _ _ _) hpc ((OthersStand.of_only o t h1 h2 h3).trans (OthersStand.setTile a t r))

/-- A word that stands, where the tile's own run has changed and nothing else (R156). -/
theorem Waits.setTile {t : Nat} {r : TileRun} (ht : t < 17) (s : State) :
    Waits s ((s.fresh.setTile t r).beginWait t) t r
    ∧ Only [.out, .runs, .engines, .image .engineStatus] s ((s.fresh.setTile t r).beginWait t) := by
  have of : Only [.out] s s.fresh := State.fresh_only (List.Subset.refl _) (Only.refl _ s)
  refine ⟨?_, State.beginWait_only (by decide) (State.setTile_only (by decide) (of.mono (by decide)))⟩
  have h := Waits.beginWait (s := s) (v := s.fresh.setTile t r) ht rfl rfl
    ((OthersStand.of_only of t (by decide) (by decide) (by decide)).trans (OthersStand.setTile _ t r))
  rw [State.tile_setTile] at h
  exact h

/-- The tile's own run and the end of its word, behind a step. -/
theorem Only.setTile_advance {ps : List Part} {s a : State} (o : Only ps s a) (t n : Nat) (r : TileRun)
    (h : [Part.engines, .image .engineStatus, .runs] ⊆ ps) : Only ps s ((a.setTile t r).advance t n) :=
  State.advance_only h (State.setTile_only (List.Subset.trans (by decide) h) o)

/-- The clause of O46 on ACQUIRE. -/
theorem acquire_effects {t : Fin 16} {s : State} {slot ctx : Nat} (h : Timed s t .acquire) (hs : slot = indexOf (s.wordAt t))
    (hc : ctx = s.context t (ctxOf (s.wordAt t))) :
    (s.acquireTone t slot ctx = none → Runs (.acquire t) s fun u => GoesOn s u t 1 { s.tile t with
        inputs := (s.tile t).inputs.filter (fun x => x.1 ≠ slot) ++ [(slot, (s.tile t).acquires, some (3, true))]
        acquires := (s.tile t).acquires + 1 }
      ∧ u.get F.acqStatus_NO_TONE t = satAdd (s.get F.acqStatus_NO_TONE t) 1 F.acqStatus_NO_TONE.width
      ∧ Raised s u (707 + 4 * t) 0 0
      ∧ Only [.out, .hatband, .image .acqStatus, .runs, .engines, .image .engineStatus] s u)
    ∧ (∀ n, s.acquireTone t slot ctx = some n → Runs (.acquire t) s fun u => GoesOn s u t 1 { s.tile t with
        inputs := (s.tile t).inputs.filter (fun x => x.1 ≠ slot) ++ [(slot, (s.tile t).acquires, none)]
        acquires := (s.tile t).acquires + 1 }
      ∧ Only [.out, .acq, .runs, .engines, .image .engineStatus] s u ∧ (∀ i, i ≠ t.val → u.acq i = s.acq i)
      ∧ ∃ w : Window, u.acq t = { s.acq t with waiting := (s.acq t).waiting ++ [w] } ∧ w.slot = 16 * t + slot ∧ w.tone = n
        ∧ w.w = (s.tile t).base + 16 * s.wordTick t (s.wordAt t) ∧ w.len = ctxAcqLen ctx ∧ w.snap = ctxSnap ctx
        ∧ w.pounce = ctxPounce ctx ∧ w.serial = (s.tile t).acquires ∧ w.points = 0 ∧ w.decided = none) := by
  subst hs hc
  have ht : t.val < 17 := by omega
  have of : Only [.out] s s.fresh := State.fresh_only (List.Subset.refl _) (Only.refl _ s)
  refine ⟨fun hT => h.runs (act := fun w tick s => s.acquire t w tick) rfl ?_, fun n hT =>
    h.runs (act := fun w tick s => s.acquire t w tick) rfl ?_⟩
  · rw [State.acquire_none (s := s.fresh) hT]
    obtain ⟨a, ha⟩ : ∃ a, a = (s.fresh.count F.acqStatus_NO_TONE t).raise (707 + 4 * t) := ⟨_, rfl⟩
    have e : s.fresh.noTone t (indexOf (s.wordAt t)) = a.setTile t ((a.tile t).armInput (indexOf (s.wordAt t)) (some (3, true))) := by
      rw [ha]
      rfl
    have oa : Only [.out, .hatband, .image .acqStatus] s a := ha ▸ State.raise_only (by decide) (State.count_only (by decide)
      (of.mono (by decide)))
    have hn : a.get F.acqStatus_NO_TONE t = satAdd (s.get F.acqStatus_NO_TONE t) 1 F.acqStatus_NO_TONE.width := by
      rw [ha, State.raise_get, State.get_count, State.fresh_get]
    have hr : Raised s a (707 + 4 * t) 0 0 := ha ▸ Raised.raise _ _ _
    rw [e, show a.tile t = s.tile t from tile_of_only oa (by decide) t]
    clear ha e
    have ov := Only.setTile_advance (Only.refl [.engines, .image .engineStatus, .runs] a) t 1
      ((s.tile t).armInput (indexOf (s.wordAt t)) (some (3, true))) (List.Subset.refl _)
    exact ⟨GoesOn.setTile ht oa (by decide) (by decide) (by decide) rfl, by rw [ov.get (by decide), hn],
      hr.grow (Grows.of_only ov (by decide) (by decide)), (oa.mono (by decide)).trans (ov.mono (by decide))⟩
  · rw [State.acquire_some (s := s.fresh) hT]
    obtain ⟨x, hx⟩ : ∃ x, x = s.fresh.windowOf t (indexOf (s.wordAt t)) n (s.fresh.context t (ctxOf (s.wordAt t)))
      (s.wordTick t (s.wordAt t)) := ⟨_, rfl⟩
    obtain ⟨a, ha⟩ : ∃ a, a = s.fresh.setAcq t { s.acq t with waiting := (s.acq t).waiting ++ [x] } := ⟨_, rfl⟩
    have e : s.fresh.armWindow t (s.wordAt t) x = a.setTile t ((s.tile t).armInput (indexOf (s.wordAt t)) none) := by
      rw [ha]
      rfl
    have oa : Only [.out, .acq] s a := ha ▸ State.setAcq_only (by decide) (of.mono (by decide))
    have hw : a.acq t = { s.acq t with waiting := (s.acq t).waiting ++ [x] } := by rw [ha, State.acq_setAcq]
    have hne : ∀ i, i ≠ t.val → a.acq i = s.acq i := fun i hi => by
      rw [ha, State.acq_setAcq_ne _ _ hi]
      rfl
    rw [← hx, e]
    clear ha e
    have ov := Only.setTile_advance (Only.refl [.engines, .image .engineStatus, .runs] a) t 1
      ((s.tile t).armInput (indexOf (s.wordAt t)) none) (List.Subset.refl _)
    refine ⟨GoesOn.setTile ht oa (by decide) (by decide) (by decide) rfl, (oa.mono (by decide)).trans (ov.mono (by decide)),
      fun i hi => by rw [acq_of_only ov (by decide), hne i hi], x, by rw [acq_of_only ov (by decide), hw], ?_⟩
    rw [hx]
    exact ⟨rfl, rfl, rfl, rfl, rfl, rfl, rfl, rfl, rfl⟩

namespace Machine

/-! ### TSET (R44, R186) -/

/-- The playback that a TSET moves: the pulses, FRAME updates and bias operations that have not begun to leave. -/
def State.retimeAll (s : State) (t tick : Nat) : State :=
  (List.range 8).foldl (fun s c => s.retimeOps t tick c)
    ((List.range 16).foldl (fun s u => (s.retimeTone t tick false u).retimeTone t tick true u) s)

theorem State.retimeAll_only (s : State) (t tick : Nat) : Only [.drive, .bias] s (s.retimeAll t tick) :=
  Only.foldl (fun _ _ hx => State.retimeOps_only (by decide) hx) _ (Only.foldl (fun _ _ hx =>
    State.retimeTone_only (by decide) (State.retimeTone_only (by decide) hx)) _ (Only.refl _ s))

theorem State.selectSet_split (s : State) (t tick set : Nat) : s.selectSet t tick set =
    ((s.setTile t { s.tile t with tsets := (s.tile t).tsets ++ [(tick, set)] }).retimeAll t tick).retimeWindows t tick := rfl

/-- What governs a shot of a tile is the same where the tile has only chosen another offset set. -/
theorem State.imageFor_setTile_tsets (s : State) (t : Nat) (l : List (Nat × Nat)) (r : Rec) (i : Nat) :
    (s.setTile t { s.tile t with tsets := l }).imageFor t r i = s.imageFor t r i := by
  unfold State.imageFor State.cutoff
  rw [State.tile_setTile]
  rfl

/-- What governs a shot of a tile is the same where the runs, the shadows and the record are. -/
theorem imageFor_of_only {ps : List Part} {s u : State} (h : Only ps s u) (h1 : Part.runs ∉ ps) (h2 : Part.shadows ∉ ps)
    (t : Nat) {r : Rec} (h3 : Part.image r ∉ ps) (i : Nat) : u.imageFor t r i = s.imageFor t r i := by
  unfold State.imageFor State.cutoff
  rw [tile_of_only h h1, h.image h3, show u.shadows = s.shadows from h .shadows h2]

/-- What a TSET leaves that the windows of its shot are placed by: the shot, the offsets of the timing sets, and the
references of the tones. -/
theorem State.retimeAll_governs (s : State) (t tick : Nat) (l : List (Nat × Nat)) {b : State}
    (hb : b = (s.setTile t { s.tile t with tsets := l }).retimeAll t tick) :
    b.tile t = { s.tile t with tsets := l } ∧ b.shotOf t = s.shotOf t
    ∧ (∀ set ch, b.edgeOffset t set ch = s.edgeOffset t set ch) ∧ ∀ u ofs, b.acqTurn t u ofs = s.acqTurn t u ofs := by
  have o := (s.setTile t { s.tile t with tsets := l }).retimeAll_only t tick
  rw [← hb] at o
  clear hb
  have hi : ∀ r i, b.imageFor t r i = s.imageFor t r i := fun r i =>
    (imageFor_of_only o (by decide) (by decide) t (by simp) i).trans (s.imageFor_setTile_tsets t l r i)
  have ht : b.tile t = { s.tile t with tsets := l } := (tile_of_only o (by decide) t).trans (State.tile_setTile _ _ _)
  refine ⟨ht, ?_, fun set ch => ?_, fun u ofs => ?_⟩
  · unfold State.shotOf
    rw [ht]
    dsimp only
    rw [group_of_only o (by decide), State.setTile_group]
    rfl
  · unfold State.edgeOffset
    rw [hi]
  · unfold State.acqTurn State.getFor
    rw [hi, hi]

theorem State.retimeWindows_acq (s : State) (t tick : Nat) : (s.retimeWindows t tick).acq t = { s.acq t with
    waiting := (s.acq t).waiting.map fun w =>
      if w.shot = s.shotOf t ∧ (((s.tile t).base + 16 * tick : Nat) : Int) ≤ w.w then
        { w with ofs := s.windowOfs t w, turn := s.acqTurn t w.tone (s.windowOfs t w) }
      else w } := by
  unfold State.retimeWindows
  rw [State.acq_setAcq]
  simp only [Bool.and_eq_true, decide_eq_true_eq]

end Machine

/-- The clause of O46 on TSET. -/
theorem tset_effects {t : Fin 16} {s : State} {r : TileRun} {ofs : Window → Int} (h : Timed s t .tset)
    (hr : r = { s.tile t with tsets := (s.tile t).tsets ++ [(s.wordTick t (s.wordAt t), indexOf (s.wordAt t))] })
    (ho : ∀ w, ofs w = s.edgeOffset t (r.setAt ((w.w.toNat - r.base) / 16) 0) 5 / 16) :
    Runs (.tset t) s fun u => GoesOn s u t 1 r
    ∧ (u.acq t).waiting = (s.acq t).waiting.map (fun w =>
      if w.shot = s.shotOf t ∧ ((r.base + 16 * s.wordTick t (s.wordAt t) : Nat) : Int) ≤ w.w then
        { w with ofs := ofs w, turn := s.acqTurn t w.tone (ofs w) } else w)
    ∧ Only [.out, .drive, .bias, .acq, .runs, .engines, .image .engineStatus] s u := by
  have ht : t.val < 17 := by omega
  have hpc : r.pc = (s.tile t).pc := by rw [hr]
  have of : Only [.out] s s.fresh := State.fresh_only (List.Subset.refl _) (Only.refl _ s)
  refine h.runs (act := fun w tick s => (s.selectSet t tick (indexOf w)).advance t 1) rfl ?_
  rw [State.selectSet_split]
  obtain ⟨g1, g2, g3, g4⟩ := s.fresh.retimeAll_governs t (s.wordTick t (s.wordAt t))
    ((s.fresh.tile t).tsets ++ [(s.wordTick t (s.wordAt t), indexOf (s.wordAt t))]) rfl
  have oa : Only [.drive, .bias] (s.fresh.setTile t r) ((s.fresh.setTile t r).retimeAll t (s.wordTick t (s.wordAt t))) :=
    State.retimeAll_only _ _ _
  rw [State.fresh_tile, ← hr] at g1 g2 g3 g4 ⊢
  generalize (s.fresh.setTile t r).retimeAll t (s.wordTick t (s.wordAt t)) = b at *
  have hw : ∀ w, b.windowOfs t w = ofs w := fun w => by
    unfold State.windowOfs
    rw [g1, g3, ho]
    rfl
  have ow : Only [.acq] b (b.retimeWindows t (s.wordTick t (s.wordAt t))) :=
    State.retimeWindows_only (List.Subset.refl _) (Only.refl _ b)
  have ha := b.retimeWindows_acq t (s.wordTick t (s.wordAt t))
  generalize b.retimeWindows t (s.wordTick t (s.wordAt t)) = v at *
  have ov : Only [.drive, .bias, .acq] (s.fresh.setTile t r) v := (oa.mono (by decide)).trans (ow.mono (by decide))
  have oe : Only [.runs, .engines, .image .engineStatus] v (v.advance t 1) := State.advance_only (by decide) (Only.refl _ v)
  refine ⟨GoesOn.advance ht ((tile_of_only ow (by decide) t).trans g1) hpc ?_, ?_, ?_⟩
  · exact ((OthersStand.of_only of t (by decide) (by decide) (by decide)).trans (OthersStand.setTile _ t r)).trans
      (OthersStand.of_only ov t (by decide) (by decide) (by decide))
  · rw [acq_of_only oe (by decide), ha, acq_of_only oa (by decide), g1, g2]
    simp only [hw, g4]
    rfl
  · exact ((State.setTile_only (by decide) (of.mono (by decide))).trans (ov.mono (by decide))).trans (oe.mono (by decide))

/-- The clause of O46 on WAIT_UNTIL. -/
theorem waitUntil_effects {t : Fin 16} {s : State} (h : Timed s t .waitUntil) : Runs (.waitUntil t) s fun u =>
      Waits s u t { s.tile t with untilTick := some (s.wordTick t (s.wordAt t)) }
    ∧ Only [.out, .runs, .engines, .image .engineStatus] s u :=
  h.runs (act := fun _ tick s => (s.setTile t { s.tile t with untilTick := some tick }).beginWait t) rfl
    (Waits.setTile (by omega) s)

/-- The clause of O46 on EMIT. -/
theorem emit_effects {t : Fin 16} {s : State} (h : Timed s t .emit) : Runs (.emit t) s fun u =>
      Waits s u t { s.tile t with
        emitAt := some (s.wordTick t (s.wordAt t), indexOf (s.wordAt t), bits (s.wordAt t) 38 2) }
    ∧ Only [.out, .runs, .engines, .image .engineStatus] s u :=
  h.runs (act := fun w tick s => (s.setTile t { s.tile t with emitAt := some (tick, indexOf w, bits w 38 2) }).beginWait t)
    rfl (Waits.setTile (by omega) s)

/-- The clause of O46 on WAIT_UNTIL_END. -/
theorem waitUntilEnd_effects {t : Fin 16} {s : State} {x : Nat} (h : (s.tile t).untilTick = some x) :
    ((x : Int) ≤ s.tick t → Runs (.waitUntilEnd t) s fun u => GoesOn s u t 1 { s.tile t with untilTick := none }
      ∧ Only [.out, .runs, .engines, .image .engineStatus] s u)
    ∧ (s.tick t < x → Runs (.waitUntilEnd t) s fun u => u = s.fresh) := by
  have e : exec (.waitUntilEnd t) s = .next (if (x : Int) ≤ s.tick t then
      (s.fresh.setTile t { s.tile t with untilTick := none }).advance t 1 else s.fresh) := by
    change execWaitUntilEnd t s = _
    unfold execWaitUntilEnd
    dsimp only
    rw [show (s.fresh.tile t).untilTick = some x from h]
    rfl
  have of : Only [.out] s s.fresh := State.fresh_only (List.Subset.refl _) (Only.refl _ s)
  constructor
  · intro hx
    rw [if_pos hx] at e
    exact ⟨_, e, GoesOn.setTile (by omega) of (by decide) (by decide) (by decide) rfl,
      (of.mono (by decide)).setTile_advance _ _ _ (by decide)⟩
  · intro hx
    rw [if_neg (by omega)] at e
    exact Runs.stands e

/-! ### An emission in response to an event (R223, R224) -/

namespace Machine

/-- HATBAND_LOOP on the event channel `c` up to its report: its source, its count, its last channel. -/
def State.loopFault (s : State) (c : Nat) : State :=
  (((s.raise 1139).count F.hatbandControl_LOOP_COUNT 0).put F.hatbandControl_LAST_LOOP_EVC 0 c).report 30 false 1139 c

theorem State.raiseFrom_loop (s : State) (src p f c : Nat) {h : Nat} (hh : 2 ≤ h) : s.raiseFrom src p f (some (h, c)) =
    if (s.loopFault c).flag F.hatbandControl_LOOP_POLICY then s.loopFault c
    else (s.loopFault c).putFlag F.channel_CUT c true := by
  unfold State.raiseFrom
  dsimp only
  rw [if_neg (by omega)]
  rfl

theorem State.raiseFrom_hop (s : State) (src p f c : Nat) {h : Nat} (hh : h < 2) :
    s.raiseFrom src p f (some (h, c)) = s.raise src p f (h + 1) := by
  unfold State.raiseFrom
  dsimp only
  rw [if_pos (by omega)]

theorem State.loopFault_holds (s : State) (c : Nat) : Raised s (s.loopFault c) 1139 0 0 ∧ Reported s (s.loopFault c) 30
    ∧ (s.loopFault c).get F.hatbandControl_LAST_LOOP_EVC = c % 2 ^ F.hatbandControl_LAST_LOOP_EVC.width
    ∧ (s.loopFault c).flag F.hatbandControl_LOOP_POLICY = s.flag F.hatbandControl_LOOP_POLICY := by
  unfold State.loopFault
  obtain ⟨a, ha⟩ : ∃ a, a = (s.raise 1139).count F.hatbandControl_LOOP_COUNT 0 := ⟨_, rfl⟩
  obtain ⟨b, hb⟩ : ∃ b, b = a.put F.hatbandControl_LAST_LOOP_EVC 0 c := ⟨_, rfl⟩
  have oa : Only [.out, .hatband, .image .hatbandControl] s a :=
    ha ▸ State.count_only (by decide) (State.raise_only (by decide) (Only.refl _ s))
  have ob : Only [.image .hatbandControl] a b := hb ▸ State.put_only (by decide) (Only.refl _ a)
  have ga : Grows (s.raise 1139) a := by
    rw [ha]
    exact Grows.put _ _ _ _
  have hr : Raised s b 1139 0 0 := ((Raised.raise _ _ _).grow ga).grow (hb ▸ Grows.put _ _ _ _)
  have hl : b.get F.hatbandControl_LAST_LOOP_EVC = c % 2 ^ F.hatbandControl_LAST_LOOP_EVC.width := by
    rw [hb, State.get_put]
  have hp : b.flag F.hatbandControl_LOOP_POLICY = s.flag F.hatbandControl_LOOP_POLICY := by
    rw [hb, State.flag_put_other _ (by decide), ha, State.flag_count_other _ (by decide), State.raise_flag]
  have oo : Only [.out, .hatband, .image .hatbandControl] s b := oa.trans (ob.mono (by decide))
  have or : Only [.log, .image .logStatus, .out, .hatband] b (b.report 30 false 1139 c) :=
    State.report_only (List.Subset.refl _) (Only.refl _ b)
  rw [← ha, ← hb]
  clear ha hb ga
  exact ⟨hr.grow (Grows.report _ _ _ _ _ _), Reported.report _ _ _ _ _ (congrArg Log.counters (oo .log (by decide))),
    (or.get (by decide) _).trans hl, (State.flag_of_get (or.get (by decide) _)).trans hp⟩

/-- An emission whose H would be 3 is discarded: HATBAND_LOOP, and under CUT the channel of the event is cut (R224). -/
theorem State.raiseFrom_loop_holds {s u : State} {src p f c h : Nat} (hh : 2 ≤ h)
    (hu : u = s.raiseFrom src p f (some (h, c))) : Raised s u 1139 0 0 ∧ Reported s u 30
    ∧ u.get F.hatbandControl_LAST_LOOP_EVC = c % 2 ^ F.hatbandControl_LAST_LOOP_EVC.width
    ∧ (s.flag F.hatbandControl_LOOP_POLICY = false → u.flag F.channel_CUT c = true) := by
  rw [State.raiseFrom_loop s src p f c hh] at hu
  obtain ⟨hr, hc, hl, hp⟩ := s.loopFault_holds c
  generalize s.loopFault c = b at *
  split at hu
  next h1 =>
    subst hu
    exact ⟨hr, hc, hl, fun h0 => by rw [hp, h0] at h1; cases h1⟩
  next h1 =>
    have ou : Only [.image .channel] b u := hu ▸ State.putFlag_only (by decide) (Only.refl _ b)
    refine ⟨hr.grow (hu ▸ Grows.put _ _ _ _), hc.only ou (by decide), (ou.get (by decide) _).trans hl, fun _ => ?_⟩
    rw [hu, State.flag_putFlag _ _ _ _ (by decide)]

end Machine

/-- The clause of O46 on EMIT_RAISE. -/
theorem emitRaise_effects {t : Fin 16} {s : State} {tick k p : Nat} (h : (s.tile t).emitAt = some (tick, k, p))
    (hx : (tick : Int) ≤ s.tick t) :
    ((s.tile t).lastHop = none → Runs (.emitRaise t) s fun u =>
      GoesOn s u t 1 { s.tile t with emitAt := none }
      ∧ Raised s u (seqSource t (12 + k)) p 0)
    ∧ (∀ h c, (s.tile t).lastHop = some (h, c) → h < 2 → Runs (.emitRaise t) s fun u =>
      GoesOn s u t 1 { s.tile t with emitAt := none }
      ∧ u.out = [.source (seqSource t (12 + k)) p 0 (h + 1)])
    ∧ (∀ h c, (s.tile t).lastHop = some (h, c) → 2 ≤ h → Runs (.emitRaise t) s fun u =>
      GoesOn s u t 1 { s.tile t with emitAt := none }
      ∧ Raised s u 1139 0 0 ∧ Reported s u 30
      ∧ u.get F.hatbandControl_LAST_LOOP_EVC = c % 2 ^ F.hatbandControl_LAST_LOOP_EVC.width
      ∧ (s.flag F.hatbandControl_LOOP_POLICY = false → u.flag F.channel_CUT c = true))
    ∧ Runs (.emitRaise t) s fun u => Only [.out, .hatband, .log, .image .logStatus, .image .hatbandControl,
      .image .channel, .runs, .engines, .image .engineStatus] s u := by
  have ht : t.val < 17 := by omega
  obtain ⟨a, ha⟩ : ∃ a, a = s.fresh.setTile t { s.tile t with emitAt := none } := ⟨_, rfl⟩
  obtain ⟨b, hb⟩ : ∃ b, b = a.raiseFrom (seqSource t (12 + k)) p 0 (s.tile t).lastHop := ⟨_, rfl⟩
  have e : exec (.emitRaise t) s = .next (b.advance t 1) := by
    change execEmitRaise t s = _
    unfold execEmitRaise
    dsimp only
    rw [show (s.fresh.tile t).emitAt = some (tick, k, p) from h, hb, ha]
    dsimp only
    rw [if_pos (show (tick : Int) ≤ s.fresh.tick t from hx)]
    rfl
  have of : Only [.out] s s.fresh := State.fresh_only (List.Subset.refl _) (Only.refl _ s)
  have oa : Only [.out, .runs] s a := ha ▸ State.setTile_only (by decide) (of.mono (by decide))
  have ob := State.raiseFrom_only (src := seqSource t (12 + k)) (p := p) (f := 0) (cause := (s.tile t).lastHop)
    (List.Subset.refl _) (Only.refl _ a)
  have ou : Only [.engines, .image .engineStatus, .runs] b (b.advance t 1) :=
    State.advance_only (List.Subset.refl _) (Only.refl _ b)
  rw [← hb] at ob
  have hl : a.log.counters = s.log.counters := congrArg Log.counters (oa .log (by decide))
  have hp : a.flag F.hatbandControl_LOOP_POLICY = s.flag F.hatbandControl_LOOP_POLICY :=
    State.flag_of_get (oa.get (by decide) _)
  have hout : a.out = [] := by rw [ha]; rfl
  have hg : GoesOn s (b.advance t 1) t 1 { s.tile t with emitAt := none } :=
    GoesOn.advance ht ((tile_of_only ob (by decide) t).trans (by rw [ha, State.tile_setTile])) rfl
      (((OthersStand.of_only of t (by decide) (by decide) (by decide)).trans (ha ▸ OthersStand.setTile _ t _)).trans
        (OthersStand.of_only ob t (by decide) (by decide) (by decide)))
  have gu : Grows b (b.advance t 1) := Grows.of_only ou (by decide) (by decide)
  clear ha
  refine ⟨fun h0 => ⟨_, e, hg, ?_⟩, fun n c h0 hn => ⟨_, e, hg, ?_⟩, fun n c h0 hn => ⟨_, e, hg, ?_⟩, _, e,
    ((oa.mono (by decide)).trans (ob.mono (by decide))).trans (ou.mono (by decide))⟩
  · rw [h0] at hb
    have hr : Raised s b (seqSource t (12 + k)) p 0 := hb ▸ Raised.raise _ _ _
    exact hr.grow gu
  · rw [h0, State.raiseFrom_hop _ _ _ _ _ hn] at hb
    have hq : b.out = a.out ++ [.source (seqSource t (12 + k)) p 0 (n + 1)] := by rw [hb]; rfl
    rw [show (b.advance t 1).out = b.out from ou .out (by decide), hq, hout]
    rfl
  · rw [h0] at hb
    obtain ⟨hr, hc, hv, hk⟩ := State.raiseFrom_loop_holds hn hb
    have hc' : Reported s b 30 := by
      unfold Reported at hc ⊢
      rw [hc, hl]
    exact ⟨Raised.grow hr gu, hc'.only ou (by decide), (ou.get (by decide) _).trans hv, fun h1 =>
      (State.flag_of_get (ou.get (by decide) _)).trans (hk (hp.trans h1))⟩

/-- Settles O46: ACQUIRE arms an input and opens its window, TSET moves the windows that wait, WAIT_UNTIL and EMIT stand
until their tick and then go on, and an emission carries the H of its event plus 1. -/
theorem shotWordEffects : Obligations.ShotWordEffects :=
  ⟨fun _ _ _ _ h hs hc => acquire_effects h hs hc, fun _ _ _ _ h hr ho => tset_effects h hr ho,
    fun _ _ h => waitUntil_effects h, fun _ _ h => emit_effects h, fun _ _ _ h => waitUntilEnd_effects h,
    fun _ _ _ _ _ h hx => emitRaise_effects h hx⟩

end Sys2Proof
end

section
namespace Sys2Proof
open Machine

/-! ### Timed words before and behind their time (R150, R179, R180) -/

/-- The engine stands at a word of operation `o`, also once nothing is sent yet. -/
theorem Dispatches.stands {s : State} {t : Nat} {o : Op} (h : Dispatches s t o) :
    (s.fresh.dispatches t && decide (opOf (s.fresh.wordAt t) = o)) = true := by
  rw [show s.fresh.dispatches t = true from h.go, show opOf (s.fresh.wordAt t) = o from h.op]
  simp

/-- A timed word that falls at or after its segment's boundary faults. -/
theorem Dispatches.timed_late {s : State} {t : Nat} {o : Op} (h : Dispatches s t o)
    (hl : s.relLate t (s.wordAt t) = true) (act : Nat → Nat → State → State) :
    s.fresh.dispatchTimed t o act = s.fresh.programFault t := by
  unfold State.dispatchTimed
  exact (if_pos h.stands).trans (if_pos hl)

/-- A timed word stands while T − 256 has not come. -/
theorem Dispatches.timed_early {s : State} {t : Nat} {o : Op} (h : Dispatches s t o)
    (hl : s.relLate t (s.wordAt t) = false) (hf : s.tick t + Config.lookahead < s.wordTick t (s.wordAt t))
    (act : Nat → Nat → State → State) : s.fresh.dispatchTimed t o act = s.fresh := by
  have hs : ¬ (s.fresh.wordTick t (s.fresh.wordAt t) : Int) ≤ s.fresh.tick t + Config.lookahead := not_le.mpr hf
  unfold State.dispatchTimed
  exact (if_pos h.stands).trans ((if_neg (ne_true_of_eq_false hl)).trans (if_neg hs))

/-- Each timed row is the dispatch of its word at the word's time. -/
theorem exec_timedRows : ∀ row ∈ timedRows, ∀ (t : Fin 16) (k : Fin 29) (s : State), ∃ act,
    exec (row.1 t k) s = .next (s.fresh.dispatchTimed t row.2 act) := by
  simp only [timedRows, List.forall_mem_cons]
  exact ⟨fun _ _ _ => ⟨_, rfl⟩, fun _ _ _ => ⟨_, rfl⟩, fun _ _ _ => ⟨_, rfl⟩, fun _ _ _ => ⟨_, rfl⟩, fun _ _ _ => ⟨_, rfl⟩,
    fun _ _ _ => ⟨_, rfl⟩, fun _ _ _ => ⟨_, rfl⟩, fun _ _ _ => ⟨_, rfl⟩, fun _ _ _ => ⟨_, rfl⟩, fun _ _ _ => ⟨_, rfl⟩,
    fun _ h => absurd h List.not_mem_nil⟩

/-- Settles O44: a word at or after its segment's boundary faults, and one whose T − 256 has not come stands. -/
theorem timedWordTiming : Obligations.TimedWordTiming := by
  intro row hrow t k s h
  obtain ⟨act, e⟩ := exec_timedRows row hrow t k s
  refine ⟨fun hl => ?_, fun hl hf => ?_⟩
  · rw [h.timed_late hl] at e
    exact ⟨_, e, Faulted.of s.fresh t⟩
  · rw [h.timed_early hl hf] at e
    exact Runs.stands e

end Sys2Proof
end

section
namespace Sys2Proof
open Machine

/-! ### Untimed words that are dispatched (R150, R177) -/

/-- An untimed word that is dispatched does what its operation says. -/
theorem Dispatches.dispatched {s : State} {t : Nat} {o : Op} (h : Dispatches s t o) (act : Nat → State → State) :
    s.fresh.dispatch t o act = act (s.wordAt t) s.fresh := by
  unfold State.dispatch
  exact (if_pos h.stands).trans (if_neg (ne_true_of_eq_false h.unpatched))

/-- An untimed row whose word is dispatched. -/
theorem Dispatches.runs {s : State} {t : Nat} {o : Op} {c : Instr} {act : Nat → State → State} {P : State → Prop}
    (h : Dispatches s t o) (he : exec c s = .next (s.fresh.dispatch t o act)) (hP : P (act (s.wordAt t) s.fresh)) :
    Runs c s P :=
  ⟨_, he.trans (congrArg Host.Outcome.next (h.dispatched act)), hP⟩

/-! ### A tile's own run that changes before its word ends -/

/-- The run of tile `t` has become `r`; no other tile, engine or group has moved, and only the parts `ps` have changed. -/
def TileBecomes (ps : List Part) (s v : State) (t : Nat) (r : TileRun) : Prop :=
  v.tile t = r ∧ OthersStand s v t ∧ Only ps s v

namespace TileBecomes

theorem fresh (s : State) (t : Nat) : TileBecomes [.out, .runs] s s.fresh t (s.tile t) := by
  have o : Only [.out] s s.fresh := State.fresh_only (List.Subset.refl _) (Only.refl _ s)
  exact ⟨rfl, OthersStand.of_only o t (by decide) (by decide) (by decide), o.mono (by decide)⟩

variable {ps : List Part} {s v : State} {t : Nat} {r : TileRun}

theorem setTile (h : TileBecomes ps s v t r) (hp : [Part.runs] ⊆ ps) (r' : TileRun) :
    TileBecomes ps s (v.setTile t r') t r' := by
  obtain ⟨-, ho, h⟩ := h
  exact ⟨State.tile_setTile _ _ _, ho.trans (OthersStand.setTile v t r'), State.setTile_only hp h⟩

/-- MARK takes a tick (R187). -/
theorem setMark (h : TileBecomes ps s v t r) (hp : [Part.runs] ⊆ ps) (x : Int) :
    TileBecomes ps s (v.setMark t x) t { r with mark := x.toNat } := by
  have e : v.setMark t x = v.setTile t { r with mark := x.toNat } := by
    unfold State.setMark
    rw [h.1]
  rw [e]
  exact h.setTile hp _

/-- The shot tick of the tile is the same while its base is. -/
theorem tick (h : TileBecomes ps s v t r) (hs : Part.si ∉ ps) (hb : r.base = (s.tile t).base) : v.tick t = s.tick t := by
  unfold State.tick
  rw [h.1, hb, si_of_only h.2.2 hs]

/-- MARK takes the present tick (R187). -/
theorem markNow (h : TileBecomes ps s v t r) (hp : [Part.runs] ⊆ ps) (hs : Part.si ∉ ps) (hb : r.base = (s.tile t).base) :
    TileBecomes ps s (v.setMark t (v.tick t)) t { r with mark := (s.tick t).toNat } := by
  rw [h.tick hs hb]
  exact h.setMark hp _

/-- The word ends (R165). -/
theorem advance (h : TileBecomes ps s v t r) (ht : t < 17) (hpc : r.pc = (s.tile t).pc) (n : Nat) {qs : List Part}
    (hp : ps ⊆ qs) (hq : [Part.engines, .image .engineStatus, .runs] ⊆ qs) :
    GoesOn s (v.advance t n) t n r ∧ Only qs s (v.advance t n) :=
  ⟨GoesOn.advance ht h.1 hpc h.2.1, State.advance_only hq (h.2.2.mono hp)⟩

/-- The words at the tile's place are the same while its place in its segment is. -/
theorem extAt (h : TileBecomes ps s v t r) (h1 : Part.loaded ∉ ps) (h2 : Part.image .runStatus ∉ ps)
    (hr : r.chosen = (s.tile t).chosen ∧ r.chosenSeg = (s.tile t).chosenSeg ∧ r.segBase = (s.tile t).segBase
      ∧ r.pc = (s.tile t).pc) : v.extAt t = s.extAt t := by
  obtain ⟨e, -, o⟩ := h
  obtain ⟨hc, hg, hb, hpc⟩ := hr
  unfold State.extAt State.prefetch State.site State.segmentEnd State.playing
  dsimp only
  rw [e, hc, hg, hb, hpc, segment_of_only o h1, opMem_of_only o h1, o.get h2]

/-- A branch goes on at the offset of its index (R189). -/
theorem branch (h : TileBecomes ps s v t r) (ht : t < 17) (h1 : Part.loaded ∉ ps) (h2 : Part.image .runStatus ∉ ps)
    (hr : r.chosen = (s.tile t).chosen ∧ r.chosenSeg = (s.tile t).chosenSeg ∧ r.segBase = (s.tile t).segBase
      ∧ r.pc = (s.tile t).pc) (i : Nat) {qs : List Part} (hp : ps ⊆ qs)
    (hq : [Part.engines, .image .engineStatus, .runs] ⊆ qs) :
    GoesOn s (v.branch t i) t (2 + bits (s.extAt t) (16 * i) 16) r ∧ Only qs s (v.branch t i) := by
  unfold State.branch
  rw [h.extAt h1 h2 hr]
  exact h.advance ht hr.2.2.2 _ hp hq

end TileBecomes

/-- The end of a word leaves the fields of its engine's status record beside GUARD and STATE alone. -/
theorem Machine.State.advance_get (s : State) (t n : Nat) {f : Field} (h1 : Apart F.engineStatus_GUARD f)
    (h2 : Apart F.engineStatus_STATE f) : (s.advance t n).get f t = s.get f t := by
  unfold State.advance State.endInstance
  dsimp only
  rw [State.get_put_other _ h2, State.get_putFlag_other _ h1]
  rfl

/-! ### Latches and timeouts of a waiting word (R157, R158, R187, R223) -/

/-- The tile once the wait on channel `c` has ended at a latch with H `h`, at a tick. -/
def Machine.TileRun.latchTaken (r : TileRun) (c h : Nat) (tick : Int) : TileRun :=
  { r with mark := tick.toNat, lastHop := some (h, c), latches := r.latches.filter (fun x => x.1 ≠ c) }

theorem Machine.State.takeLatch_becomes (s : State) (t c h : Nat) :
    TileBecomes [.out, .runs] s (s.fresh.takeLatch t c h) t ((s.tile t).latchTaken c h (s.tick t)) :=
  ((TileBecomes.fresh s t).setTile (by decide)
    { s.tile t with latches := (s.tile t).latches.filter (fun x => x.1 ≠ c), lastHop := some (h, c) }).markNow
      (by decide) (by decide) rfl

/-- What a wait that its limit ends leaves before its word ends. -/
theorem Machine.State.waitTimeout_holds (s : State) {t : Nat} (ht : t < 17) {v : State} (hv : v = s.fresh.waitTimeout t) :
    TileBecomes [.out, .hatband, .log, .image .logStatus, .runs, .image .engineStatus] s v t
      { s.tile t with mark := (s.tick t).toNat }
    ∧ v.get F.engineStatus_TIMEOUT_COUNT t
      = satAdd (s.get F.engineStatus_TIMEOUT_COUNT t) 1 F.engineStatus_TIMEOUT_COUNT.width
    ∧ Raised s v (seqSource t 4) 0 0 ∧ Reported s v 18 := by
  obtain ⟨a, ha⟩ : ∃ a, a = s.fresh.count F.engineStatus_TIMEOUT_COUNT t := ⟨_, rfl⟩
  obtain ⟨b, hb⟩ : ∃ b, b = (a.raise (seqSource t 4)).report 18 false (seqSource t 4) t ((a.raise (seqSource t 4)).shotOf t) :=
    ⟨_, rfl⟩
  have e : v = b.setMark t (s.tick t) := by
    rw [hv, hb, ha]
    rfl
  have hf := OthersStand.put s.fresh ht F.engineStatus_TIMEOUT_COUNT
    (satAdd (s.fresh.get F.engineStatus_TIMEOUT_COUNT t) 1 F.engineStatus_TIMEOUT_COUNT.width) rfl
  have oa : Only [.out, .image .engineStatus] s a :=
    ha ▸ State.count_only (by decide) (State.fresh_only (by decide) (Only.refl _ s))
  have ob : Only [.out, .hatband, .log, .image .logStatus] a b :=
    hb ▸ State.report_only (by decide) (State.raise_only (by decide) (Only.refl _ a))
  have k : TileBecomes [.out, .hatband, .log, .image .logStatus, .runs, .image .engineStatus] s b t (s.tile t) :=
    ⟨(tile_of_only ob (by decide) t).trans (tile_of_only oa (by decide) t),
      ((OthersStand.of_only (State.fresh_only (List.Subset.refl _) (Only.refl _ s)) t (by decide) (by decide)
        (by decide)).trans (ha ▸ hf)).trans (OthersStand.of_only ob t (by decide) (by decide) (by decide)),
      (oa.mono (by decide)).trans (ob.mono (by decide))⟩
  have om : Only [.runs] b v := e ▸ State.setMark_only (List.Subset.refl _) (Only.refl _ b)
  have hr : Raised s b (seqSource t 4) 0 0 := hb ▸ (Raised.raise _ _ _).grow (Grows.report _ _ _ _ _ _)
  have hc : Reported s b 18 := hb ▸ Reported.report _ _ _ _ _ (congrArg Log.counters (oa .log (by decide)))
  refine ⟨?_, ?_, hr.grow (Grows.of_only om (by decide) (by decide)), hc.only om (by decide)⟩
  · exact e ▸ k.setMark (by decide) (s.tick t)
  · rw [om.get (by decide), ob.get (by decide), ha, State.get_count, State.fresh_get]

/-- A wait that its limit ends, whose word then ends (R158). -/
theorem TimedOut.advance {s v : State} {t : Nat} (ht : t < 17) (hv : v = s.fresh.waitTimeout t) (n : Nat) :
    TimedOut s (v.advance t n) t n := by
  obtain ⟨k, hc, hr, hp⟩ := s.waitTimeout_holds ht hv
  have o : Only [.engines, .image .engineStatus, .runs] v (v.advance t n) :=
    State.advance_only (List.Subset.refl _) (Only.refl _ v)
  obtain ⟨g, w⟩ := k.advance ht rfl n (qs := [.out, .hatband, .log, .image .logStatus, .runs, .engines, .image .engineStatus])
    (by decide) (by decide)
  exact ⟨g, (v.advance_get t n (by decide) (by decide)).trans hc, hr.grow (Grows.of_only o (by decide) (by decide)),
    hp.only o (by decide), w⟩

/-- A branch that its limit ends goes on with index 3 (R189). -/
theorem TimedOut.branch {s : State} {t : Nat} (ht : t < 17) :
    TimedOut s ((s.fresh.waitTimeout t).branch t 3) t (2 + bits (s.extAt t) 48 16) := by
  have e := (s.waitTimeout_holds ht rfl).1.extAt (by decide) (by decide) ⟨rfl, rfl, rfl, rfl⟩
  unfold State.branch
  rw [e]
  exact TimedOut.advance ht rfl _

/-- A word that has changed nothing stands. -/
theorem Waits.fresh (s : State) {t : Nat} (ht : t < 17) : Waits s (s.fresh.beginWait t) t (s.tile t)
    ∧ Only [.out, .engines, .image .engineStatus] s (s.fresh.beginWait t) := by
  obtain ⟨-, ho, -⟩ := TileBecomes.fresh s t
  exact ⟨Waits.beginWait (v := s.fresh) ht rfl rfl ho,
    State.beginWait_only (by decide) (State.fresh_only (by decide) (Only.refl _ s))⟩

/-! ### The clauses of O47 -/

section waits

variable {t : Fin 16} {s : State}

/-- WAIT EVENT ends at its latch or stands; its limit ends it where no latch has come (R157, R158, R188). -/
theorem waitEvent_effects {c : Nat} (h : Dispatches s t .waitEvent) (hc : c = waitChannel (s.wordAt t)) :
    (∀ p f h, (s.tile t).latch c = some (p, f, h) → Runs (.waitEvent t) s fun u => TookLatch s u t 1 c h)
    ∧ ((s.tile t).latch c = none → Runs (.waitEvent t) s fun u => Waits s u t (s.tile t)
      ∧ Only [.out, .engines, .image .engineStatus] s u)
    ∧ (s.waitExpired t (waitLimit (s.wordAt t)) = true → (s.tile t).latch c = none →
      Runs (.waitEventTimeout t) s fun u => TimedOut s u t 1)
    ∧ ((s.waitExpired t (waitLimit (s.wordAt t)) = false ∨ (s.tile t).latch c ≠ none) →
      Runs (.waitEventTimeout t) s fun u => u = s.fresh) := by
  subst hc
  have ht : t.val < 17 := by omega
  have he := h.dispatched fun w s => match (s.tile t).latch (waitChannel w) with
    | some (_, _, h) => (s.takeLatch t (waitChannel w) h).advance t 1
    | none => s.beginWait t
  have hx := h.dispatched fun w s =>
    if s.waitExpired t (waitLimit w) && ((s.tile t).latch (waitChannel w)).isNone then (s.waitTimeout t).advance t 1 else s
  refine ⟨fun p f n hl => ?_, fun hl => ?_, fun hw hl => ?_, fun hn => ?_⟩
  · rw [show (s.fresh.tile t).latch (waitChannel (s.wordAt t)) = some (p, f, n) from hl] at he
    exact ⟨_, congrArg Host.Outcome.next he, (s.takeLatch_becomes t _ n).advance ht rfl 1 (by decide) (by decide)⟩
  · rw [show (s.fresh.tile t).latch (waitChannel (s.wordAt t)) = none from hl] at he
    exact ⟨_, congrArg Host.Outcome.next he, Waits.fresh s ht⟩
  · rw [show s.fresh.waitExpired t (waitLimit (s.wordAt t)) = true from hw, State.fresh_tile, hl] at hx
    exact ⟨_, congrArg Host.Outcome.next hx, TimedOut.advance ht rfl 1⟩
  · refine Runs.stands (congrArg Host.Outcome.next (hx.trans (if_neg ?_)))
    change ¬ (s.waitExpired t (waitLimit (s.wordAt t)) && ((s.tile t).latch (waitChannel (s.wordAt t))).isNone) = true
    rcases hn with hn | hn
    · simp [hn]
    · simp [hn]

/-- The smallest multiple of a grid at or after a tick that is not negative (R187). -/
theorem align_mark {grid : Nat} {x : Int} (hg : 0 < grid) (hx : 0 ≤ x) : ∃ m : Nat,
    ((x + grid - 1) / grid * grid).toNat = m ∧ grid ∣ m ∧ x ≤ m ∧ (m : Int) < x + grid := by
  have hg' : (0 : Int) < grid := by exact_mod_cast hg
  have hq := Int.emod_add_mul_ediv (x + grid - 1) grid
  have h0 := Int.emod_nonneg (x + grid - 1) hg'.ne'
  have h1 := Int.emod_lt_of_pos (x + grid - 1) hg'
  have hn : 0 ≤ (x + grid - 1) / grid := Int.ediv_nonneg (by omega) hg'.le
  rw [Int.mul_comm] at hq
  refine ⟨_, rfl, ⟨((x + grid - 1) / grid).toNat, ?_⟩, ?_, ?_⟩
  · rw [Int.toNat_mul hn hg'.le, Int.toNat_natCast, Nat.mul_comm]
  · omega
  · rw [Int.toNat_of_nonneg (Int.mul_nonneg hn hg'.le)]
    omega

/-- ALIGN moves MARK to its grid (R187). -/
theorem align_effects {grid : Nat} {x : Int} (h : Dispatches s t .align) (hg : grid = bits (s.wordAt t) 0 16)
    (h0 : 0 < grid) (hx : x = s.tick t + bits (s.wordAt t) 16 16) (hx0 : 0 ≤ x) : Runs (.align t) s fun u =>
      ∃ m : Nat, GoesOn s u t 1 { s.tile t with mark := m } ∧ grid ∣ m ∧ x ≤ m ∧ (m : Int) < x + grid
      ∧ Only [.out, .runs, .engines, .image .engineStatus] s u := by
  obtain ⟨m, hm, h1, h2, h3⟩ := align_mark h0 hx0
  have k := (TileBecomes.fresh s t).setMark (by decide) ((x + grid - 1) / grid * grid)
  rw [hm] at k
  obtain ⟨k1, k2⟩ := k.advance (by omega) rfl 1 (qs := [.out, .runs, .engines, .image .engineStatus]) (by decide) (by decide)
  subst hg hx
  exact ⟨_, congrArg Host.Outcome.next (h.dispatched fun w s =>
    (s.setMark t ((s.tick t + bits w 16 16 + bits w 0 16 - 1) / bits w 0 16 * bits w 0 16)).advance t 1), m, k1, h1, h2, h3, k2⟩

/-- BRANCH_ON DECISION: an input that nothing has armed, one that waits, and one that is set (R189, R191). -/
theorem branchOnDecision_effects {n : Nat} (h : Dispatches s t .branchDecision) (hn : n = indexOf (s.wordAt t)) :
    ((s.tile t).inputs.find? (fun x => x.1 = n) = none → Runs (.branchOnDecision t) s fun u =>
      GoesOn s u t (2 + bits (s.extAt t) 48 16) { s.tile t with mark := (s.tick t).toNat }
        ∧ Only [.out, .runs, .engines, .image .engineStatus] s u)
    ∧ (∀ k i, (s.tile t).inputs.find? (fun x => x.1 = n) = some (k, i, none) → Runs (.branchOnDecision t) s fun u =>
      Waits s u t (s.tile t) ∧ Only [.out, .engines, .image .engineStatus] s u)
    ∧ (∀ k i o b, (s.tile t).inputs.find? (fun x => x.1 = n) = some (k, i, some (o, b)) →
      Runs (.branchOnDecision t) s fun u => GoesOn s u t (2 + bits (s.extAt t) (16 * o) 16) { s.tile t with
          mark := (s.tick t).toNat, lastHop := some (0, 0), inputs := (s.tile t).inputs.filter (fun x => x.1 ≠ n) }
        ∧ Only [.out, .runs, .engines, .image .engineStatus] s u) := by
  subst hn
  have ht : t.val < 17 := by omega
  have he : exec (.branchOnDecision t) s = .next _ := congrArg Host.Outcome.next (h.dispatched _)
  dsimp only [State.fresh_tile] at he
  have kf := TileBecomes.fresh s t
  refine ⟨fun hf => ?_, fun k i hf => ?_, fun k i o b hf => ?_⟩
  · rw [hf] at he
    exact ⟨_, he, (kf.setMark (by decide) _).branch ht (by decide) (by decide) ⟨rfl, rfl, rfl, rfl⟩ 3 (by decide) (by decide)⟩
  · rw [hf] at he
    exact ⟨_, he, Waits.fresh s ht⟩
  · rw [hf] at he
    have k := kf.setTile (by decide)
      { s.tile t with inputs := (s.tile t).inputs.filter (fun x => x.1 ≠ indexOf (s.wordAt t)), lastHop := some (0, 0) }
    exact ⟨_, he, (k.markNow (by decide) (by decide) rfl).branch ht (by decide) (by decide) ⟨rfl, rfl, rfl, rfl⟩ o
      (by decide) (by decide)⟩

/-- BRANCH_ON EVENT ends at its latch or stands (R189). -/
theorem branchOnEvent_effects {c : Nat} (h : Dispatches s t .branchEvent) (hc : c = branchChannel (s.wordAt t)) :
    (∀ p f h, (s.tile t).latch c = some (p, f, h) → Runs (.branchOnEvent t) s fun u =>
      TookLatch s u t (2 + bits (s.extAt t) (16 * p) 16) c h)
    ∧ ((s.tile t).latch c = none → Runs (.branchOnEvent t) s fun u => Waits s u t (s.tile t)
      ∧ Only [.out, .engines, .image .engineStatus] s u) := by
  subst hc
  have ht : t.val < 17 := by omega
  have he := h.dispatched fun w s => match (s.tile t).latch (branchChannel w) with
    | some (p, _, h) => (s.takeLatch t (branchChannel w) h).branch t p
    | none => s.beginWait t
  refine ⟨fun p f n hl => ?_, fun hl => ?_⟩
  · rw [show (s.fresh.tile t).latch (branchChannel (s.wordAt t)) = some (p, f, n) from hl] at he
    exact ⟨_, congrArg Host.Outcome.next he, (s.takeLatch_becomes t _ n).branch ht (by decide) (by decide) ⟨rfl, rfl, rfl, rfl⟩ p
      (by decide) (by decide)⟩
  · rw [show (s.fresh.tile t).latch (branchChannel (s.wordAt t)) = none from hl] at he
    exact ⟨_, congrArg Host.Outcome.next he, Waits.fresh s ht⟩

/-- A waiting branch that its limit ends, and one that has not (R189). -/
theorem branchOnTimeout_effects (h : Dispatches s t .branchDecision ∨ Dispatches s t .branchEvent) :
    (s.waitExpired t (branchLimit (s.wordAt t)) = true → s.branchReady t (s.wordAt t) = false →
      Runs (.branchOnTimeout t) s fun u => TimedOut s u t (2 + bits (s.extAt t) 48 16))
    ∧ ((s.waitExpired t (branchLimit (s.wordAt t)) = false ∨ s.branchReady t (s.wordAt t) = true) →
      Runs (.branchOnTimeout t) s fun u => u = s.fresh) := by
  have hd : s.dispatches t = true := h.elim (·.go) (·.go)
  have ho : opOf (s.wordAt t) = .branchDecision ∨ opOf (s.wordAt t) = .branchEvent := h.imp (·.op) (·.op)
  have e : exec (.branchOnTimeout t) s = .next (if s.waitExpired t (branchLimit (s.wordAt t))
      && !s.branchReady t (s.wordAt t) then (s.fresh.waitTimeout t).branch t 3 else s.fresh) := by
    change Host.Outcome.next (if (s.dispatches t && (decide (opOf (s.wordAt t) = .branchDecision)
      || decide (opOf (s.wordAt t) = .branchEvent)) && s.waitExpired t (branchLimit (s.wordAt t))
      && !s.branchReady t (s.wordAt t)) = true then _ else _) = _
    rw [hd, show (decide (opOf (s.wordAt t) = .branchDecision) || decide (opOf (s.wordAt t) = .branchEvent)) = true by
      simpa using ho]
    rfl
  refine ⟨fun hw hr => ?_, fun hn => Runs.stands (e.trans (congrArg Host.Outcome.next (if_neg ?_)))⟩
  · rw [hw, hr] at e
    exact ⟨_, e, TimedOut.branch (by omega)⟩
  · rcases hn with hn | hn <;> simp [hn]

end waits

/-- Settles O47: each wait and branch by the lemma that says where its word goes on. -/
theorem waitEffects : Obligations.WaitEffects := by
  refine ⟨fun t s c h hc => waitEvent_effects h hc, fun t s grid x h hg h0 hx hx0 => align_effects h hg h0 hx hx0,
    fun t s n h hn => branchOnDecision_effects h hn, fun t s c h hc => branchOnEvent_effects h hc,
    fun t s h => branchOnTimeout_effects h, ?_, fun t s h => ?_⟩
  · rintro t s x v h rfl rfl
    exact h.runs (act := fun w s => s.branch t (compareIndex (s.counter t (indexOf w)) (bits w 0 32))) rfl
      ((TileBecomes.fresh s t).branch (by omega) (by decide) (by decide) ⟨rfl, rfl, rfl, rfl⟩ _ (by decide) (by decide))
  · exact h.runs (act := fun _ s => s.branch t 0) rfl
      ((TileBecomes.fresh s t).branch (by omega) (by decide) (by decide) ⟨rfl, rfl, rfl, rfl⟩ 0 (by decide) (by decide))

end Sys2Proof
end

section
namespace Sys2Proof
open Machine

/-! ### Words that end a segment (R198, R199) -/

namespace TileBecomes

variable {ps : List Part} {s v : State} {t : Nat} {r : TileRun}

/-- The last word of the segment in play is the same while the segment is. -/
theorem endWord (h : TileBecomes ps s v t r) (h1 : Part.loaded ∉ ps) (h2 : Part.image .runStatus ∉ ps) :
    v.endWord t = s.endWord t := by
  unfold State.endWord State.playing State.opWord
  rw [segment_of_only h.2.2 h1, opMem_of_only h.2.2 h1, h.2.2.get h2]

/-- The successor is the same while the segment, its instances and the pending jump request are (R198, R200). -/
theorem nextEntry (h : TileBecomes ps s v t r) (h1 : Part.loaded ∉ ps) (h2 : Part.image .runStatus ∉ ps)
    (hi : r.instances = (s.tile t).instances) (hj : r.jump = (s.tile t).jump) : v.nextEntry t = s.nextEntry t := by
  unfold State.nextEntry State.ownChoice
  rw [h.endWord h1 h2, h.1, hi, hj, h.2.2.get h2]

/-- The boundary is the same while the segment and its base are. -/
theorem segmentEnd (h : TileBecomes ps s v t r) (h1 : Part.loaded ∉ ps) (h2 : Part.image .runStatus ∉ ps)
    (hb : r.segBase = (s.tile t).segBase) : v.segmentEnd t = s.segmentEnd t := by
  unfold State.segmentEnd State.playing
  rw [h.1, hb, segment_of_only h.2.2 h1, h.2.2.get h2]

end TileBecomes

/-- What is left where one of the engine's instances ends (R150, R165). -/
theorem Machine.State.endInstance_holds (s : State) {t : Nat} (ht : t < 17) {v : State} (hv : v = s.endInstance t) :
    (v.engine t).inst = false ∧ v.get F.engineStatus_STATE t = 1 ∧ OthersStand s v t
    ∧ Only [.engines, .image .engineStatus] s v := by
  obtain ⟨a, ha⟩ : ∃ a, a = s.setEngine t { s.engine t with inst := false, abandoned := 0, waitSince := none } := ⟨_, rfl⟩
  have e : v = (a.putFlag F.engineStatus_GUARD t false).put F.engineStatus_STATE t 1 := by
    rw [hv, ha]
    rfl
  have h1 : OthersStand s a t := ha ▸ OthersStand.setEngine s t _
  rw [hv]
  refine ⟨?_, ?_, ?_, State.endInstance_only (List.Subset.refl _) (Only.refl _ s)⟩
  all_goals rw [← hv, e]
  · rw [State.put_engine, State.putFlag_engine, ha, State.engine_setEngine]
  · exact State.get_put _ _ _ _
  · exact h1.trans ((OthersStand.put a ht _ _ rfl).trans (OthersStand.put _ ht _ _ rfl))

/-- An end word has been dispatched, and no successor is chosen yet. -/
def Machine.State.atEnd (s : State) (t : Nat) : State := (s.setTile t { s.tile t with ended := true }).endInstance t

theorem Machine.State.atEnd_becomes (s : State) {t : Nat} (ht : t < 17) {v : State} (hv : v = s.fresh.atEnd t) :
    TileBecomes [.out, .runs, .engines, .image .engineStatus] s v t { s.tile t with ended := true }
    ∧ (v.engine t).inst = false ∧ v.get F.engineStatus_STATE t = 1 := by
  obtain ⟨k1, k2, k3⟩ := (TileBecomes.fresh s t).setTile (by decide) { s.tile t with ended := true }
  obtain ⟨e1, e2, e3, e4⟩ := (s.fresh.setTile t { s.tile t with ended := true }).endInstance_holds ht hv
  exact ⟨⟨(tile_of_only e4 (by decide) t).trans k1, k2.trans e3, (k3.mono (by decide)).trans (e4.mono (by decide))⟩, e1, e2⟩

/-- Before the switch point, and where the successor is chosen already, the tile stands ended. -/
theorem Machine.State.endSegment_before {s : State} {t : Nat} (ht : t < 17)
    (h : (s.tile t).chosen ≠ none ∨ s.tick t + Config.switchLead < s.segmentEnd t) :
    s.fresh.endSegment t = s.fresh.atEnd t := by
  obtain ⟨k, -, -⟩ := s.atEnd_becomes ht rfl
  have hs := k.segmentEnd (by decide) (by decide) rfl
  have hk := k.tick (by decide) rfl
  refine if_neg ?_
  change ¬ (((s.tile t).chosen.isNone && decide (((s.fresh.atEnd t).segmentEnd t : Int)
    ≤ (s.fresh.atEnd t).tick t + Config.switchLead)) = true)
  rw [hs, hk]
  rcases h with h | h
  · simp [h]
  · simp [h]

/-- At or behind the switch point the engine chooses at once. -/
theorem Machine.State.endSegment_behind {s : State} {t : Nat} (ht : t < 17) (h : (s.tile t).chosen = none)
    (hb : (s.segmentEnd t : Int) ≤ s.tick t + Config.switchLead) : s.fresh.endSegment t = (s.fresh.atEnd t).choose t := by
  obtain ⟨k, -, -⟩ := s.atEnd_becomes ht rfl
  have hs := k.segmentEnd (by decide) (by decide) rfl
  have hk := k.tick (by decide) rfl
  refine if_pos ?_
  change ((s.tile t).chosen.isNone && decide (((s.fresh.atEnd t).segmentEnd t : Int)
    ≤ (s.fresh.atEnd t).tick t + Config.switchLead)) = true
  rw [hs, hk]
  simp [h, hb]

/-- A list entry that names no segment faults (R194). -/
theorem Machine.State.choose_absent {s : State} {t e : Nat} {j : Bool} (hn : s.nextEntry t = (some e, j))
    (hl : s.listSegment t e = none) : s.choose t = s.programFault t := by
  unfold State.choose
  simp only [hn]
  unfold State.takeSuccessor
  simp only [hl]

/-- Each row that ends a segment is the dispatch of its end word. -/
theorem exec_endRows : ∀ row ∈ endRows, ∀ (t : Fin 16) (s : State),
    exec (row.1 t) s = .next (s.fresh.dispatch t row.2 fun _ s => s.endSegment t) := by
  simp only [endRows, List.forall_mem_cons]
  exact ⟨fun _ _ => rfl, fun _ _ => rfl, fun _ _ => rfl, fun _ _ => rfl, fun _ h => absurd h List.not_mem_nil⟩

section ends

variable {row : (Fin 16 → Instr) × Op} {t : Fin 16} {s : State} (hr : row ∈ endRows) (h : Dispatches s t row.2)

include hr h

theorem endRow_before (hb : (s.tile t).chosen ≠ none ∨ s.tick t + Config.switchLead < s.segmentEnd t) :
    Runs (row.1 t) s fun u => u.tile t = { s.tile t with ended := true } ∧ (u.engine t).inst = false
      ∧ u.get F.engineStatus_STATE t = 1 ∧ OthersStand s u t ∧ Only [.out, .runs, .engines, .image .engineStatus] s u := by
  obtain ⟨⟨k1, k2, k3⟩, k4, k5⟩ := s.atEnd_becomes (t := t) (by omega) rfl
  refine h.runs (exec_endRows row hr t s) ?_
  rw [State.endSegment_before (by omega) hb]
  exact ⟨k1, k4, k5, k2, k3⟩

section behind

variable (hc : (s.tile t).chosen = none) (hb : (s.segmentEnd t : Int) ≤ s.tick t + Config.switchLead)

include hc hb

theorem endRow_endsShot {j : Bool} (hn : s.nextEntry t = (none, j)) : Runs (row.1 t) s fun u => u.tile t = { s.tile t with
    ended := true, jump := none, chosen := some none, chosenSeg := none, last := bit (s.endWord t) 0 } := by
  obtain ⟨k, -, -⟩ := s.atEnd_becomes (t := t) (by omega) rfl
  refine h.runs (exec_endRows row hr t s) ?_
  rw [State.endSegment_behind (by omega) hc hb]
  have e := State.choose_ends ((k.nextEntry (by decide) (by decide) rfl rfl).trans hn) t.isLt
  rw [k.1, k.endWord (by decide) (by decide)] at e
  exact e

theorem endRow_faults {e : Nat} {j : Bool} (hn : s.nextEntry t = (some e, j)) (hl : s.listSegment t e = none) :
    Runs (row.1 t) s fun u => Raised s u (seqSource t 9) 0 0 ∧ Reported s u 16 := by
  obtain ⟨k, -, -⟩ := s.atEnd_becomes (t := t) (by omega) rfl
  refine h.runs (exec_endRows row hr t s) ?_
  rw [State.endSegment_behind (by omega) hc hb, State.choose_absent ((k.nextEntry (by decide) (by decide) rfl rfl).trans hn)
    ((congrFun (congrFun (listSegment_of_only k.2.2 (by decide)) t) e).trans hl)]
  obtain ⟨f1, f2, -⟩ := (s.fresh.atEnd t).programFault_done t
  exact ⟨f1, f2.from k.2.2 (by decide)⟩

theorem endRow_goesOn {e id : Nat} {j : Bool} (hn : s.nextEntry t = (some e, j)) (hl : s.listSegment t e = some id)
    (hi : (s.segment t id).resident = true) : Runs (row.1 t) s fun u => (u.tile t).chosen = some (some e)
      ∧ (u.tile t).chosenSeg = some id ∧ (u.tile t).pc = 0 ∧ (u.tile t).ended = false
      ∧ (u.tile t).instances = (if !j && e = s.get F.runStatus_LIST_POS t then (s.tile t).instances + 1 else 1)
      ∧ Only [.out, .runs, .engines, .image .engineStatus] s u := by
  obtain ⟨k, -, -⟩ := s.atEnd_becomes (t := t) (by omega) rfl
  refine h.runs (exec_endRows row hr t s) ?_
  rw [State.endSegment_behind (by omega) hc hb, State.choose_resident
    ((k.nextEntry (by decide) (by decide) rfl rfl).trans hn)
    ((congrFun (congrFun (listSegment_of_only k.2.2 (by decide)) t) e).trans hl)
    ((congrArg Segment.resident (congrFun (congrFun (segment_of_only k.2.2 (by decide)) t) id)).trans hi),
    State.tile_setTile, k.1, k.2.2.get (by decide)]
  exact ⟨rfl, rfl, rfl, rfl, rfl, State.setTile_only (by decide) k.2.2⟩

end behind

end ends

/-! ### Counter words (R190) -/

/-- A counter word has ended, and counter `c` of its tile holds `x`; no other counter has moved. -/
def Counted (s u : State) (t c x : Nat) : Prop :=
  GoesOn s u t 1 (s.tile t) ∧ u.getAt F.counters_CNT t c = x
    ∧ (∀ k, k ≠ c → u.getAt F.counters_CNT t k = s.getAt F.counters_CNT t k)
    ∧ (∀ i < 16, i ≠ t → u.image .counters i = s.image .counters i)
    ∧ Only [.out, .image .counters, .runs, .engines, .image .engineStatus] s u

/-- The word of a tile ends behind a change of its counters. -/
theorem Counted.advance {s v : State} {t c x : Nat} (ht : t < 17) (o : Only [.out, .image .counters] s v)
    (hc : v.getAt F.counters_CNT t c = x) (hk : ∀ k, k ≠ c → v.getAt F.counters_CNT t k = s.getAt F.counters_CNT t k)
    (hi : ∀ i < 16, i ≠ t → v.image .counters i = s.image .counters i) : Counted s (v.advance t 1) t c x := by
  have k : TileBecomes [.out, .image .counters] s v t (s.tile t) :=
    ⟨tile_of_only o (by decide) t, OthersStand.of_only o t (by decide) (by decide) (by decide), o⟩
  have ov : Only [.engines, .image .engineStatus, .runs] v (v.advance t 1) :=
    State.advance_only (List.Subset.refl _) (Only.refl _ v)
  obtain ⟨g, w⟩ := k.advance ht rfl 1 (qs := [.out, .image .counters, .runs, .engines, .image .engineStatus])
    (by decide) (by decide)
  exact ⟨g, (ov.getAt (by decide) t c).trans hc, fun j hj => (ov.getAt (by decide) t j).trans (hk j hj),
    fun i h1 h2 => (ov.image (by decide) i).trans (hi i h1 h2), w⟩

/-- Counter `c` takes a value, modulo 2³². -/
theorem Counted.put (s : State) (t : Fin 16) (c x : Nat) :
    Counted s ((s.fresh.putAt F.counters_CNT t c x).advance t 1) t c (x % 2 ^ 32) := by
  refine Counted.advance (by omega) (State.putAt_only (by decide) (State.fresh_only (by decide) (Only.refl _ s)))
    (State.getAt_putAt _ _ _ _ _) (fun k hk => State.getAt_putAt_ne _ _ _ _ (by decide) hk) fun i hi hn => ?_
  refine State.image_setImage_index _ .counters _ ?_
  rw [show Rec.counters.place.count = 16 from rfl, Nat.mod_eq_of_lt t.isLt, Nat.mod_eq_of_lt hi]
  exact Ne.symm hn

/-- A counter word that counts nothing. -/
theorem Counted.stands (s : State) {t : Nat} (ht : t < 17) (c : Nat) :
    Counted s (s.fresh.advance t 1) t c (s.getAt F.counters_CNT t c) :=
  Counted.advance ht (State.fresh_only (by decide) (Only.refl _ s)) rfl (fun _ _ => rfl) fun _ _ _ => rfl

/-- A decision of the shot lies in an outcome mask where one of the slot has an outcome of the mask. -/
theorem Machine.TileRun.matchesMask_iff (r : TileRun) (slot mask : Nat) :
    r.matchesMask slot mask = true ↔ ∃ o, (slot, o) ∈ r.decisions ∧ bit mask o = true := by
  unfold TileRun.matchesMask
  simp only [List.any_eq_true, Bool.and_eq_true, decide_eq_true_eq]
  exact ⟨fun ⟨⟨a, o⟩, hm, ha, hb⟩ => ⟨o, ha ▸ hm, hb⟩, fun ⟨o, hm, hb⟩ => ⟨(slot, o), hm, rfl, hb⟩⟩

section counters

variable {t : Fin 16} {s : State}

theorem countSet_counts (h : Dispatches s t .countSet) : Runs (.countSet t) s fun u =>
    Counted s u t (indexOf (s.wordAt t)) (bits (s.wordAt t) 0 32) := by
  have k := Counted.put s t (indexOf (s.wordAt t)) (bits (s.wordAt t) 0 32)
  rw [Nat.mod_eq_of_lt (bits_lt _ _ _)] at k
  exact h.runs (act := fun w s => (s.putAt F.counters_CNT t (indexOf w) (bits w 0 32)).advance t 1) rfl k

theorem countAdd_counts (h : Dispatches s t .countAdd) : Runs (.countAdd t) s fun u =>
    Counted s u t (indexOf (s.wordAt t))
      ((s.getAt F.counters_CNT t (indexOf (s.wordAt t)) + bits (s.wordAt t) 0 32) % 2 ^ 32) := by
  have k := Counted.put s t (indexOf (s.wordAt t))
    ((s.getAt F.counters_CNT t (indexOf (s.wordAt t)) + bits (s.wordAt t) 0 32) % 2 ^ 32)
  rw [Nat.mod_mod] at k
  exact h.runs (act := fun w s =>
    (s.putAt F.counters_CNT t (indexOf w) ((s.counter t (indexOf w) + bits w 0 32) % 2 ^ 32)).advance t 1) rfl k

theorem countAddIf_counts (h : Dispatches s t .countAddIf) : Runs (.countAddIf t) s fun u =>
    Counted s u t (indexOf (s.wordAt t))
      (if (s.tile t).matchesMask (bits (s.wordAt t) 0 4) (bits (s.wordAt t) 4 4) then
        (s.getAt F.counters_CNT t (indexOf (s.wordAt t)) + 1) % 2 ^ 32
      else s.getAt F.counters_CNT t (indexOf (s.wordAt t))) := by
  refine h.runs (act := fun w s => (if (s.tile t).matchesMask (bits w 0 4) (bits w 4 4) then
    s.putAt F.counters_CNT t (indexOf w) ((s.counter t (indexOf w) + 1) % 2 ^ 32) else s).advance t 1) rfl ?_
  by_cases hm : (s.fresh.tile t).matchesMask (bits (s.wordAt t) 0 4) (bits (s.wordAt t) 4 4) = true
  · have k := Counted.put s t (indexOf (s.wordAt t)) ((s.getAt F.counters_CNT t (indexOf (s.wordAt t)) + 1) % 2 ^ 32)
    rw [Nat.mod_mod] at k
    rw [if_pos hm, if_pos (show (s.tile t).matchesMask _ _ = true from hm)]
    exact k
  · rw [if_neg hm, if_neg (show ¬ (s.tile t).matchesMask _ _ = true from hm)]
    exact Counted.stands s (by omega) _

end counters

/-- The clause of O48 on what the counter words leave alone. -/
theorem Counted.frame {s u : State} {t c x : Nat} (h : Counted s u t c x) :
    Only [.out, .image .counters, .runs, .engines, .image .engineStatus] s u
      ∧ (∀ k < 16, k ≠ c → u.getAt F.counters_CNT t k = s.getAt F.counters_CNT t k)
      ∧ ∀ i < 16, i ≠ t → u.image .counters i = s.image .counters i := by
  obtain ⟨-, -, hk, hi, o⟩ := h
  exact ⟨o, fun k _ hn => hk k hn, hi⟩

/-- Settles O48: an end word before and behind its switch point, the word of no operation, and the counter words. -/
theorem endAndCounterEffects : Obligations.EndAndCounterEffects := by
  refine ⟨fun row hr t s h => ⟨fun hb => endRow_before hr h hb, fun hc hb => ⟨fun j hn => endRow_endsShot hr h hc hb hn,
    fun e j hn hl => endRow_faults hr h hc hb hn hl, fun e j id hn hl hi => endRow_goesOn hr h hc hb hn hl hi⟩⟩,
    fun t s h => h.runs (act := fun _ s => s.programFault t) rfl (Faulted.of s.fresh t), ?_, ?_⟩
  · rintro t s _ rfl
    refine ⟨fun h => ?_, fun h => ?_, fun h => ?_⟩
    · obtain ⟨u, e, g, hc, -⟩ := countSet_counts h
      exact ⟨u, e, g, hc⟩
    · obtain ⟨u, e, g, hc, -⟩ := countAdd_counts h
      exact ⟨u, e, g, hc⟩
    · obtain ⟨u, e, g, hc, -⟩ := countAddIf_counts h
      refine ⟨u, e, g, fun hm => hc.trans (if_pos ((TileRun.matchesMask_iff _ _ _).mpr hm)), fun hm => hc.trans (if_neg ?_)⟩
      rw [TileRun.matchesMask_iff]
      rintro ⟨o, ho, hb⟩
      rw [hm o ho] at hb
      cases hb
  · simp only [List.forall_mem_cons]
    refine ⟨fun t s h => ?_, fun t s h => ?_, fun t s h => ?_, fun _ h => absurd h List.not_mem_nil⟩
    · obtain ⟨u, e, k⟩ := countSet_counts h
      exact ⟨u, e, k.frame⟩
    · obtain ⟨u, e, k⟩ := countAdd_counts h
      exact ⟨u, e, k.frame⟩
    · obtain ⟨u, e, k⟩ := countAddIf_counts h
      exact ⟨u, e, k.frame⟩

end Sys2Proof
end

section
namespace Sys2Proof
open Machine

/-! ### Responses and deferred commands that end (R337, R356, R412) -/

/-- The counter of a fault class is as it was. -/
def SameCount (cls : Nat) (s t : State) : Prop := t.log.counters.read 0 cls = s.log.counters.read 0 cls

namespace SameCount

theorem refl (cls : Nat) (s : State) : SameCount cls s s := rfl

theorem trans {cls : Nat} {s t u : State} (h : SameCount cls s t) (g : SameCount cls t u) : SameCount cls s u := Eq.trans g h

theorem foldl {α : Type} {cls : Nat} {f : State → α → State} (hf : ∀ s x, SameCount cls s (f s x)) :
    ∀ (l : List α) (s : State), SameCount cls s (l.foldl f s)
  | [], s => refl cls s
  | x :: l, s => (hf s x).trans (foldl hf l (f s x))

/-- A report of another class. -/
theorem report {cls c : Nat} (h : cls ≠ c) (s : State) (l : Bool) (src a b : Nat) : SameCount cls s (s.report c l src a b) := by
  unfold SameCount
  rw [State.report_counters]
  exact SMap.read_write_ne s.log.counters 0 0 _ h

/-- A response reports at most in class 13 (R337). -/
theorem respond {cls : Nat} (h : cls ≠ 13) (s : State) (m : Nat) (r : Response) (q : Nat) : SameCount cls s (s.respond m r q) := by
  unfold State.respond
  extract_lets x failed s1 s2
  have h1 : SameCount cls s s1 := by
    unfold s1
    clear_value failed
    split
    · split
      · exact report h _ _ _ _ _
      · split
        · exact report h _ _ _ _ _
        · exact refl cls s
    · exact refl cls s
  split
  · refine h1.trans ?_
    unfold State.signal State.send
    split
    · exact refl cls s1
    · exact refl cls s1
  · exact h1

theorem finish {cls : Nat} (h : cls ≠ 13) (s : State) (d : Deferred) (st : Status) (p : List Byte) :
    SameCount cls s (s.finish d st p) := by
  unfold State.finish
  dsimp only
  split
  · exact refl cls s
  · exact respond h { s with host := { s.host with deferred := s.host.deferred.filter fun x => x.m ≠ d.m } } _ _ _

theorem finishAll {cls : Nat} (h : cls ≠ 13) (s : State) (p : Wait → Bool) (st : Status) (b : List Byte) :
    SameCount cls s (s.finishAll p st b) := foldl (fun s d => finish h s d st b) _ s

end SameCount

theorem Reported.same {s t u : State} {cls : Nat} (h : Reported s t cls) (g : SameCount cls t u) : Reported s u cls :=
  Eq.trans g h

theorem Grows.respond (s : State) (m : Nat) (r : Response) (q : Nat) : Grows s (s.respond m r q) := by
  unfold State.respond
  extract_lets x failed s1 s2
  have h1 : Grows s s1 := by
    unfold s1
    clear_value failed
    split
    · split
      · exact Grows.report _ _ _ _ _ _
      · split
        · exact Grows.report _ _ _ _ _ _
        · exact Grows.refl s
    · exact Grows.refl s
  have h2 : Grows s s2 := h1.trans (Grows.of_eq rfl rfl)
  split
  · exact h2.trans (Grows.send _ _)
  · exact h2

theorem Grows.finish (s : State) (d : Deferred) (st : Status) (p : List Byte) : Grows s (s.finish d st p) := by
  unfold State.finish
  dsimp only
  split
  · exact Grows.of_eq rfl rfl
  · exact Grows.respond { s with host := { s.host with deferred := s.host.deferred.filter fun x => x.m ≠ d.m } } _ _ _

theorem Grows.finishAll (s : State) (p : Wait → Bool) (st : Status) (b : List Byte) : Grows s (s.finishAll p st b) :=
  Grows.foldl (fun s d => Grows.finish s d st b) _ s

/-- Each deferred command of a list ends, where no mailbox has two. -/
theorem Ended.foldl {st : Status} {p : List Byte} : ∀ (l : List Deferred) (s : State), (l.map Deferred.m).Nodup →
    ∀ d ∈ l, d.discard = false → Ended s (l.foldl (fun s d => s.finish d st p) s) d st (if st = .ok then p else [])
  | [], _, _, _, hd, _ => absurd hd List.not_mem_nil
  | a :: l, s, hn, d, hd, hx => by
    obtain ⟨ha, hl⟩ := List.nodup_cons.mp hn
    have hne : ∀ x ∈ l, a.m ≠ x.m := fun x hx e => ha (e ▸ List.mem_map_of_mem hx)
    rcases List.mem_cons.mp hd with rfl | hm
    · obtain ⟨h1, h2⟩ := Ended.finish (s := s) hx st p
      obtain ⟨k1, k2⟩ := State.foldFinish_kept st p l _ hne h2
      exact ⟨k1.trans h1, k2⟩
    · obtain ⟨k1, k2⟩ := Ended.foldl l (s.finish a st p) hl d hm hx
      rw [State.mailbox_finish_ne s a st p (hne d hm).symm] at k1
      exact ⟨k1, k2⟩

/-- Every deferred command that waits for `w` has ended, behind changes that have left the mailboxes and what waits alone. -/
theorem AllEnded.finishAll {ps : List Part} {s v : State} (o : Only ps s v) (hp : Part.mailboxes ∉ ps) (w : Wait) (st : Status)
    (p : List Byte) : AllEnded s (v.finishAll (fun x => x = w) st p) w st (if st = .ok then p else []) := by
  intro hn d hd hw hx
  have e : v.host.deferred = s.host.deferred := (o .mailboxes hp).2.2
  rw [← e] at hn hd
  obtain ⟨h1, h2⟩ := Ended.foldl (st := st) (p := p) (v.host.deferred.filter fun d => decide (d.wait = w)) v
    (hn.sublist (List.filter_sublist.map _)) d (List.mem_filter.mpr ⟨hd, decide_eq_true hw⟩) hx
  rw [mailbox_of_only o hp] at h1
  exact ⟨h1, h2⟩

end Sys2Proof
end

section
namespace Sys2Proof
open Machine

/-! ### Operations over numbered parts -/

/-- An operation on each part of a list in turn, which makes of its own part what `new` says and moves no other: every part
of the list becomes what `new` says of it at the start. -/
theorem foldl_own {α : Type} (part : State → Nat → α) (f : State → Nat → State) (new : State → Nat → α)
    (h1 : ∀ s t, part (f s t) t = new s t) (h2 : ∀ s t u, u ≠ t → part (f s t) u = part s u)
    (h3 : ∀ s t u, u ≠ t → new (f s t) u = new s u) : ∀ (l : List Nat) (s : State), l.Nodup →
      (∀ t ∈ l, part (l.foldl f s) t = new s t) ∧ ∀ u, u ∉ l → part (l.foldl f s) u = part s u
  | [], s, _ => ⟨fun t ht => absurd ht List.not_mem_nil, fun _ _ => rfl⟩
  | a :: l, s, hn => by
    obtain ⟨ha, hl⟩ := List.nodup_cons.mp hn
    obtain ⟨k1, k2⟩ := foldl_own part f new h1 h2 h3 l (f s a) hl
    refine ⟨fun t ht => ?_, fun u hu => ?_⟩
    · rcases List.mem_cons.mp ht with rfl | ht
      · exact (k2 _ ha).trans (h1 s _)
      · exact (k1 t ht).trans (h3 s a t fun e => ha (e ▸ ht))
    · exact (k2 u fun h => hu (List.mem_cons_of_mem _ h)).trans (h2 s a u fun e => hu (e ▸ List.mem_cons_self ..))

namespace Machine

/-- The first records of a family set in turn. -/
theorem State.image_setImages (r : Rec) (g : Nat → Nat) (s : State) {j : Nat} (hj : j < r.place.count) :
    ∀ n ≤ r.place.count, ((List.range n).foldl (fun s i => s.setImage r i (g i)) s).image r j =
      if j < n then g j else s.image r j
  | 0, _ => by rw [if_neg (Nat.not_lt_zero j)]; rfl
  | n + 1, hn => by
    rw [List.range_succ, List.foldl_append, List.foldl_cons, List.foldl_nil]
    by_cases e : j = n
    · rw [e, State.image_setImage, if_pos (Nat.lt_succ_self n)]
    · rw [State.image_setImage_index _ _ _ (by rw [Nat.mod_eq_of_lt hj, Nat.mod_eq_of_lt hn]; exact Ne.symm e),
        State.image_setImages r g s hj n (Nat.le_of_succ_le hn)]
      by_cases h : j < n
      · rw [if_pos h, if_pos (by omega)]
      · rw [if_neg h, if_neg (by omega)]

/-! ### Engines that stop for a patch and go on (R171) -/

/-- The engine once it stands for a patch: since now, or since it stood already. -/
def Engine.standing (x : Engine) (now : Nat) : Engine := { x with patchStop := some (x.patchStop.getD now) }

theorem State.stopForPatch_engine (s : State) (e : Nat) : (s.stopForPatch e).engine e = (s.engine e).standing s.clock.now
    ∧ ∀ k, k ≠ e → (s.stopForPatch e).engine k = s.engine k := by
  unfold State.stopForPatch Engine.standing
  dsimp only
  cases h : (s.engine e).patchStop with
  | none => exact ⟨State.engine_setEngine _ _ _, fun k hk => State.engine_setEngine_ne _ _ hk⟩
  | some w =>
    refine ⟨?_, fun _ _ => rfl⟩
    change s.engine e = { s.engine e with patchStop := some w }
    rw [← h]

/-- Engine `e` stops for a pending patch where its tile plays no shot. -/
def State.stopAt (s : State) (e : Nat) : State :=
  if s.upload.patchSince.isSome && s.atBoundary e then (s.unprepare e).stopForPatch e else s

/-- What engine `e` becomes. -/
def State.stoppedAt (s : State) (e : Nat) : Engine :=
  if s.upload.patchSince.isSome && s.atBoundary e then (s.engine e).standing s.clock.now else s.engine e

theorem State.stopAt_only (s : State) (e : Nat) : Only [.drive, .bias, .acq, .runs, .engines] s (s.stopAt e) :=
  Only.ite (State.stopForPatch_only (by decide) (State.unprepare_only (by decide) (Only.refl _ s))) (Only.refl _ s)

theorem State.stopAt_engine (s : State) (e : Nat) : (s.stopAt e).engine e = s.stoppedAt e
    ∧ ∀ k, k ≠ e → (s.stopAt e).engine k = s.engine k := by
  have o : Only [.drive, .bias, .acq, .runs] s (s.unprepare e) := State.unprepare_only (List.Subset.refl _) (Only.refl _ s)
  obtain ⟨h1, h2⟩ := (s.unprepare e).stopForPatch_engine e
  rw [engine_of_only o (by decide), clock_of_only o (by decide) (by decide) (by decide) (by decide)] at h1
  unfold State.stopAt State.stoppedAt
  split
  · exact ⟨h1, fun k hk => (h2 k hk).trans (engine_of_only o (by decide) k)⟩
  · exact ⟨rfl, fun _ _ => rfl⟩

/-- No other tile moves. -/
theorem State.stopAt_tile (s : State) (e k : Nat) (hk : k ≠ e) : (s.stopAt e).tile k = s.tile k := by
  have o : Only [.engines] (s.unprepare e) ((s.unprepare e).stopForPatch e) :=
    State.stopForPatch_only (List.Subset.refl _) (Only.refl _ _)
  unfold State.stopAt
  split
  · exact (tile_of_only o (by decide) k).trans ((s.unprepare_tile e).2 k hk)
  · rfl

theorem State.stopAt_stoppedAt (s : State) (e k : Nat) (hk : k ≠ e) : (s.stopAt e).stoppedAt k = s.stoppedAt k := by
  have o := s.stopAt_only e
  unfold State.stoppedAt State.atBoundary
  rw [(s.stopAt_engine e).2 k hk, s.stopAt_tile e k hk, show (s.stopAt e).upload = s.upload from o .upload (by decide),
    clock_of_only o (by decide) (by decide) (by decide) (by decide)]

/-- While a patch is pending every engine at its boundary stands, and no other has moved (R171). -/
theorem State.stopEngines_engine {s : State} (h : s.upload.patchSince.isSome = true) {e : Nat} (he : e < 17) :
    (s.atBoundary e = true → s.stopEngines.engine e = (s.engine e).standing s.clock.now)
    ∧ (s.atBoundary e = false → s.stopEngines.engine e = s.engine e) := by
  have k := (foldl_own State.engine State.stopAt State.stoppedAt (fun s t => (s.stopAt_engine t).1)
    (fun s t u hu => (s.stopAt_engine t).2 u hu) (fun s t u hu => s.stopAt_stoppedAt t u hu) (List.range 17) s
    List.nodup_range).1 e (List.mem_range.mpr he)
  have hs : s.stopEngines.engine e = s.stoppedAt e := k
  unfold State.stoppedAt at hs
  rw [h] at hs
  exact ⟨fun hb => hs.trans (if_pos (by rw [hb]; rfl)), fun hb => hs.trans (if_neg (by rw [hb]; decide))⟩

/-- How long the engines of a group have stood. -/
def State.stood (s : State) (g : Nat) : Nat :=
  (s.members g).foldl (fun m t => match (s.engine t).patchStop with
    | some w => max m (s.clock.now - w)
    | none => m) 0

/-- The group with the base of its next shot put off by the time that its engines stood. -/
def State.shifted (s : State) (g : Nat) : RunGroup :=
  if (s.group g).state = .running && !(s.group g).inShot then
    { s.group g with base := (s.group g).base + 16 * s.stood g } else s.group g

/-- Where every engine of a group stands since tick `k`, it has stood since then. -/
theorem State.stood_since {s : State} {g k : Nat} (hm : s.members g ≠ [])
    (hk : ∀ t ∈ s.members g, (s.engine t).patchStop = some k) : s.stood g = s.clock.now - k := by
  have h : ∀ (l : List Nat) (m : Nat), (∀ t ∈ l, (s.engine t).patchStop = some k) → m ≤ s.clock.now - k →
      (l.foldl (fun m t => match (s.engine t).patchStop with
        | some w => max m (s.clock.now - w)
        | none => m) m) = if l = [] then m else s.clock.now - k := by
    intro l
    induction l with
    | nil => exact fun _ _ _ => rfl
    | cons a l ih =>
      intro m hl hmk
      rw [List.foldl_cons, hl a (List.mem_cons_self ..), if_neg (List.cons_ne_nil _ _),
        show (match some k with | some w => max m (s.clock.now - w) | none => m) = s.clock.now - k from Nat.max_eq_right hmk,
        ih _ (fun t ht => hl t (List.mem_cons_of_mem _ ht)) (Nat.le_refl _), ite_self]
  exact (h _ 0 hk (Nat.zero_le _)).trans (if_neg hm)

theorem State.shiftStood_group (s : State) (g : Nat) : (s.shiftStood g).group g = s.shifted g
    ∧ ∀ k, k ≠ g → (s.shiftStood g).group k = s.group k := by
  have e : s.shiftStood g = if (s.group g).state = .running && !(s.group g).inShot then
      s.setGroup g { s.group g with base := (s.group g).base + 16 * s.stood g } else s := rfl
  rw [e]
  unfold State.shifted
  split
  · exact ⟨State.group_setGroup _ _ _, fun k hk => State.group_setGroup_ne _ _ hk⟩
  · exact ⟨rfl, fun _ _ => rfl⟩

theorem State.shifted_congr {s t : State} {g : Nat} (hg : t.group g = s.group g) (he : ∀ e, t.engine e = s.engine e)
    (hc : t.clock = s.clock) : t.shifted g = s.shifted g := by
  unfold State.shifted State.stood State.members
  simp only [hg, he, hc]

/-- Every engine goes on, and every group that stood starts its next shot later (R171). -/
theorem State.resumeEngines_holds (s : State) {v : State} (hv : v = s.resumeEngines) :
    (∀ e < 17, v.engine e = { s.engine e with patchStop := none }) ∧ (∀ g < 16, v.group g = s.shifted g)
    ∧ v.upload = { s.upload with patchSince := none, staged := none } ∧ v.flag F.mcVersion_PATCH_PENDING = false
    ∧ (∀ f, Apart F.mcVersion_PATCH_PENDING f → v.get f = s.get f)
    ∧ Only [.runs, .engines, .upload, .image .mcVersion] s v := by
  obtain ⟨a, ha⟩ : ∃ a, a = (List.range 16).foldl State.shiftStood s := ⟨_, rfl⟩
  obtain ⟨b, hb⟩ : ∃ b, b = (List.range 17).foldl (fun s e => s.setEngine e { s.engine e with patchStop := none }) a := ⟨_, rfl⟩
  obtain ⟨c, hc⟩ : ∃ c : State, c = { b with upload := { b.upload with patchSince := none, staged := none } } := ⟨_, rfl⟩
  have e : v = c.putFlag F.mcVersion_PATCH_PENDING 0 false := by
    rw [hv, hc, hb, ha]
    rfl
  have oa : Only [.runs] s a := ha ▸ Only.foldl (fun _ _ hx => State.shiftStood_only (List.Subset.refl _) hx) _ (Only.refl _ s)
  have ob : Only [.engines] a b := hb ▸ Only.foldl (fun _ _ hx => State.setEngine_only (List.Subset.refl _) hx) _ (Only.refl _ a)
  have oc : Only [.upload] b c := hc ▸ Only.setUpload (List.Subset.refl _) (Only.refl _ b)
  have ov : Only [.image .mcVersion] c v := e ▸ State.putFlag_only (List.Subset.refl _) (Only.refl _ c)
  have hg := (foldl_own State.group State.shiftStood State.shifted (fun s t => (s.shiftStood_group t).1)
    (fun s t u hu => (s.shiftStood_group t).2 u hu) (fun s t u hu => by
      have o : Only [.runs] s (s.shiftStood t) := State.shiftStood_only (List.Subset.refl _) (Only.refl _ s)
      exact State.shifted_congr ((s.shiftStood_group t).2 u hu) (fun e => engine_of_only o (by decide) e)
        (clock_of_only o (by decide) (by decide) (by decide) (by decide))) (List.range 16) s List.nodup_range).1
  have he := (foldl_each State.engine (fun s e => s.setEngine e { s.engine e with patchStop := none })
    (fun x => { x with patchStop := none }) (fun s t => State.engine_setEngine _ _ _)
    (fun s t u hu => State.engine_setEngine_ne _ _ hu) (List.range 17) a List.nodup_range).1
  rw [← ha] at hg
  rw [← hb] at he
  refine ⟨fun i hi => ?_, fun g h => ?_, ?_, ?_, fun f hf => ?_,
    (oa.mono (by decide)).trans ((ob.mono (by decide)).trans ((oc.mono (by decide)).trans (ov.mono (by decide))))⟩
  · rw [engine_of_only ov (by decide), engine_of_only oc (by decide), he i (List.mem_range.mpr hi),
      engine_of_only oa (by decide)]
  · rw [group_of_only ov (by decide), group_of_only oc (by decide), group_of_only ob (by decide),
      hg g (List.mem_range.mpr h)]
  · rw [show v.upload = c.upload from ov .upload (by decide), hc, ← show a.upload = s.upload from oa .upload (by decide),
      ← show b.upload = a.upload from ob .upload (by decide)]
  · rw [e]
    exact State.flag_putFlag _ _ _ _ (by decide)
  · have o : Only [.runs, .engines] s b := (oa.mono (by decide)).trans (ob.mono (by decide))
    rw [e, State.get_putFlag_other _ hf, hc]
    exact o.get (by simp) 0

/-! ### Patches that are installed (R169, R172) -/

/-- The match registers, the patch RAM, PATCH_ID and PATCH_HASH take an image. -/
theorem State.installPatch_holds (s : State) (b : List Byte) {v : State} (hv : v = s.installPatch b) :
    (∀ i < 64, v.image .matchReg i = if i < patchMatches b then bits (patchMatch b i) 0 25 else 0)
    ∧ v.upload = { s.upload with patchRam := SMap.writeAll [] 0 0 (if patchMatches b = 0 then []
        else (List.range (patchWords b)).map fun i => withParity (patchWord b i)) }
    ∧ v.get F.mcVersion_PATCH_ID = (if patchMatches b = 0 then 0 else patchId b % 2 ^ F.mcVersion_PATCH_ID.width)
    ∧ v.get F.mcVersion_PATCH_HASH
      = (if patchMatches b = 0 then 0 else le (sha384 b) 0 8 % 2 ^ F.mcVersion_PATCH_HASH.width)
    ∧ Only [.image .matchReg, .upload, .image .mcVersion] s v := by
  obtain ⟨a, ha⟩ : ∃ a, a = (List.range 64).foldl (fun s i =>
    s.setImage .matchReg i (if i < patchMatches b then bits (patchMatch b i) 0 25 else 0)) s := ⟨_, rfl⟩
  obtain ⟨c, hc⟩ : ∃ c : State, c = { a with upload := { a.upload with patchRam := SMap.writeAll [] 0 0 (
    if patchMatches b = 0 then [] else (List.range (patchWords b)).map fun i => withParity (patchWord b i)) } } := ⟨_, rfl⟩
  obtain ⟨d, hd⟩ : ∃ d, d = c.put F.mcVersion_PATCH_ID 0 (if patchMatches b = 0 then 0 else patchId b) := ⟨_, rfl⟩
  have e : v = d.put F.mcVersion_PATCH_HASH 0 (if patchMatches b = 0 then 0 else le (sha384 b) 0 8) := by
    rw [hv, hd, hc, ha]
    rfl
  have oa : Only [.image .matchReg] s a :=
    ha ▸ Only.foldl (fun _ _ hx => State.setImage_only (List.Subset.refl _) hx) _ (Only.refl _ s)
  have oc : Only [.upload] a c := hc ▸ Only.setUpload (List.Subset.refl _) (Only.refl _ a)
  have ov : Only [.image .mcVersion] c v :=
    e ▸ State.put_only (List.Subset.refl _) (hd ▸ State.put_only (List.Subset.refl _) (Only.refl _ c))
  refine ⟨fun i hi => ?_, ?_, ?_, ?_, (oa.mono (by decide)).trans ((oc.mono (by decide)).trans (ov.mono (by decide)))⟩
  · rw [ov.image (by decide), oc.image (by decide), ha,
      State.image_setImages .matchReg _ s hi 64 (Nat.le_refl _), if_pos hi]
  · rw [show v.upload = c.upload from ov .upload (by decide), hc, ← show a.upload = s.upload from oa .upload (by decide)]
  · rw [e, State.get_put_other _ (by decide), hd, State.get_put]
    split <;> rfl
  · rw [e, State.get_put]
    split <;> rfl

end Machine

/-! ### The clauses of O57 -/

/-- PATCH_LOAD takes a part, stages the image or refuses it (R170, R363). -/
theorem patchLoad_effects {m : Fin 16} {s : State} {total : Nat} {b : List Byte} (h : Passes s m 0x0A01 patchLoadCommand)
    (ht : total = (s.request m).at 4 4)
    (hb : b = s.patchTaken ((s.request m).at 0 4) total ++ (s.request m).payload.drop 8) :
    (b.length < total → Runs (.patchLoad m) s fun t => Done s t m (leBytes 0 4) fun u =>
      u.upload = { s.upload with patch := some (total, b) } ∧ Only [.upload, .out, .mailboxes] s u)
    ∧ (total ≤ b.length → s.patchVerdict b = none → Runs (.patchLoad m) s fun t => Done s t m (leBytes 1 4) fun u =>
      u.upload = { s.upload with patch := none, staged := some b } ∧ Only [.upload, .out, .mailboxes] s u)
    ∧ (∀ st, total ≤ b.length → s.patchVerdict b = some st → Runs (.patchLoad m) s fun t =>
      Answered s t m st (if st = .badRecord ∨ st = .badValue then 40 else 0) [] ∧ Reported s t 35
        ∧ t.upload = { s.upload with patch := none }
        ∧ Only [.upload, .out, .mailboxes, .host, .hatband, .log, .image .logStatus] s t) := by
  have ha : (patchLoadCommand (s.request m) s.taken).act s.taken = s.taken.takePatch total b := by
    rw [hb, ht]
    rfl
  have hv : ∀ x, ({ s.taken with upload := x } : State).patchVerdict b = ({ s with upload := x } : State).patchVerdict b :=
    fun _ => rfl
  have ot : Only [.upload, .out, .mailboxes] s s.taken := taken_only s (by decide)
  unfold State.takePatch at ha
  refine ⟨fun hl => ?_, fun hl hn => ?_, fun st hl hn => ?_⟩
  · rw [if_pos hl] at ha
    exact h.done rfl ha rfl ⟨rfl, Only.setUpload (by decide) ot⟩
  · have hn' : ({ s.taken with upload := { s.taken.upload with patch := none } } : State).patchVerdict b = none := hn
    rw [if_neg (Nat.not_lt.mpr hl)] at ha
    dsimp only at ha
    rw [hn'] at ha
    exact h.done rfl ha rfl ⟨rfl, Only.setUpload (by decide) ot⟩
  · have hn' : ({ s.taken with upload := { s.taken.upload with patch := none } } : State).patchVerdict b = some st := hn
    obtain ⟨v, hv⟩ : ∃ v : State, v = { s.taken with upload := { s.taken.upload with patch := none } } := ⟨_, rfl⟩
    rw [if_neg (Nat.not_lt.mpr hl)] at ha
    dsimp only at ha
    rw [hn', ← hv] at ha
    have ov : Only [.upload, .out, .mailboxes] s v := hv ▸ Only.setUpload (by decide) ot
    have or : Only [.log, .image .logStatus, .out, .hatband] v (v.report 35 false 0xFFF (patchId b) st.code) :=
      State.report_only (List.Subset.refl _) (Only.refl _ v)
    have hr : Reported s (v.report 35 false 0xFFF (patchId b) st.code) 35 :=
      Reported.report _ _ _ _ _ (congrArg Log.counters (ov .log (by decide)))
    have hm : v.mailbox m = s.mailbox m := by
      rw [hv]
      rfl
    have hu : v.upload = { s.upload with patch := none } := by
      rw [hv]
      rfl
    refine h.failed rfl ha ⟨?_, hr.same (SameCount.respond (by decide) _ _ _ _), ?_, ?_⟩
    · simp only [Bool.or_eq_true, decide_eq_true_eq]
      exact Answered.reply ((mailbox_of_only or (by decide) m).trans hm)
    · rw [← hu, ← show _ = v.upload from or .upload (by decide)]
      exact Answered.only _ _ _ _ .upload (by decide)
    · exact (ov.mono (by decide)).trans ((or.mono (by decide)).trans ((Answered.only _ _ _ _).mono (by decide)))

/-- PATCH_APPLY waits, and every engine at its boundary stands (R171). -/
theorem patchApply_effects {m : Fin 16} {s : State} (h : Passes s m 0x0A02 patchApplyCommand) :
    Runs (.patchApply m) s fun t =>
    Deferring s t m .patchApply ∧ t.upload = { s.upload with patchSince := some s.clock.now }
      ∧ t.flag F.mcVersion_PATCH_PENDING = true
      ∧ (∀ e < 17, s.atBoundary e = true → t.engine e =
        { s.engine e with patchStop := some ((s.engine e).patchStop.getD s.clock.now) })
      ∧ (∀ e < 17, s.atBoundary e = false → t.engine e = s.engine e)
      ∧ Only [.out, .mailboxes, .upload, .image .mcVersion, .engines, .drive, .bias, .acq, .runs] s t := by
  obtain ⟨a, ha⟩ : ∃ a : State, a = ({ s.taken with upload := { s.taken.upload with patchSince := some s.clock.now } } :
    State).putFlag F.mcVersion_PATCH_PENDING 0 true := ⟨_, rfl⟩
  have hact : (patchApplyCommand (s.request m) s.taken).act s.taken = .wait a.stopEngines .patchApply := by
    rw [ha]
    rfl
  have oa : Only [.out, .mailboxes, .upload, .image .mcVersion] s a :=
    ha ▸ State.putFlag_only (by decide) (Only.setUpload (by decide) (taken_only s (by decide)))
  have os : Only [.engines, .drive, .bias, .acq, .runs] a a.stopEngines :=
    State.stopEngines_only (List.Subset.refl _) (Only.refl _ a)
  have hu : a.upload = { s.upload with patchSince := some s.clock.now } := by
    rw [ha]
    rfl
  have hp : a.flag F.mcVersion_PATCH_PENDING = true := by
    rw [ha]
    exact State.flag_putFlag _ _ _ _ (by decide)
  have hd : a.host.deferred = s.host.deferred ∧ a.mailbox m = s.mailbox m := by
    rw [ha]
    exact ⟨rfl, rfl⟩
  have hb : ∀ e, a.atBoundary e = s.atBoundary e := fun e => by
    unfold State.atBoundary
    rw [tile_of_only oa (by decide)]
  have he : ∀ e, a.engine e = s.engine e := fun e => engine_of_only oa (by decide) e
  have hc : a.clock = s.clock := clock_of_only oa (by decide) (by decide) (by decide) (by decide)
  clear ha
  refine h.deferring rfl hact ((os .mailboxes (by decide)).2.2.trans hd.1) ((mailbox_of_only os (by decide) m).trans hd.2)
    fun v ov => ?_
  have k := fun e (hi : e < 17) => State.stopEngines_engine (s := a) (by rw [hu]; rfl) hi
  refine ⟨?_, ?_, fun e hi h1 => ?_, fun e hi h1 => ?_,
    (oa.mono (by decide)).trans ((os.mono (by decide)).trans (ov.mono (by decide)))⟩
  · rw [show v.upload = a.stopEngines.upload from ov .upload (by decide),
      show a.stopEngines.upload = a.upload from os .upload (by decide), hu]
  · rw [ov.flag (by decide), os.flag (by decide), hp]
  · rw [engine_of_only ov (by decide), (k e hi).1 ((hb e).trans h1), he, hc]
    rfl
  · rw [engine_of_only ov (by decide), (k e hi).2 ((hb e).trans h1), he]

/-- Whether every engine stands for the pending patch. -/
theorem allStand_iff (s : State) : ((List.range 17).all fun e => (s.engine e).patchStop.isSome) = true
    ↔ ∀ e < 17, (s.engine e).patchStop.isSome = true := by
  simp only [List.all_eq_true, List.mem_range]

/-- One engine that does not stand. -/
theorem not_allStand {s : State} (h : ∃ e < 17, (s.engine e).patchStop = none) :
    ¬ ((List.range 17).all fun e => (s.engine e).patchStop.isSome) = true := by
  rw [allStand_iff]
  obtain ⟨e, he, hn⟩ := h
  intro k
  have h := k e he
  rw [hn] at h
  cases h

section swap

variable {s : State} {w : Nat} {b : List Byte} (hw : s.upload.patchSince = some w)

include hw

/-- PATCH_SWAP with all engines standing: everything of the patch changes together (R171). -/
theorem patchSwap_swaps (hs : s.upload.staged = some b) (ha : ∀ e < 17, (s.engine e).patchStop.isSome = true) :
    Runs .patchSwap s fun u =>
      (∀ i < 64, u.image .matchReg i = if i < patchMatches b then bits (patchMatch b i) 0 25 else 0)
      ∧ u.upload.patchRam = SMap.writeAll [] 0 0 (if patchMatches b = 0 then [] else (List.range (patchWords b)).map fun i => withParity (patchWord b i))
      ∧ u.upload.patchSince = none ∧ u.upload.staged = none ∧ u.flag F.mcVersion_PATCH_PENDING = false
      ∧ u.get F.mcVersion_PATCH_ID = (if patchMatches b = 0 then 0 else patchId b % 2 ^ F.mcVersion_PATCH_ID.width)
      ∧ u.get F.mcVersion_PATCH_HASH = (if patchMatches b = 0 then 0 else le (sha384 b) 0 8 % 2 ^ F.mcVersion_PATCH_HASH.width)
      ∧ (∀ e < 17, u.engine e = { s.engine e with patchStop := none })
      ∧ (∀ g < 16, ((s.group g).state ≠ .running ∨ (s.group g).inShot = true) → u.group g = s.group g)
      ∧ (∀ g < 16, ∀ k, (s.group g).state = .running → (s.group g).inShot = false → s.members g ≠ [] →
        (∀ t ∈ s.members g, (s.engine t).patchStop = some k) →
        u.group g = { s.group g with base := (s.group g).base + 16 * (s.clock.now - k) })
      ∧ AllEnded s u .patchApply .ok (leBytes (u.get F.mcVersion_PATCH_ID) 4 ++ zeros 4)
      ∧ Only [.out, .image .matchReg, .upload, .image .mcVersion, .runs, .engines, .mailboxes, .host, .hatband, .log, .image .logStatus] s u := by
  obtain ⟨a, hi⟩ : ∃ a, a = s.fresh.installPatch b := ⟨_, rfl⟩
  obtain ⟨v, hv⟩ : ∃ v, v = a.resumeEngines := ⟨_, rfl⟩
  have e : exec .patchSwap s = .next (v.finishAll (fun w => w = .patchApply) .ok
      (leBytes (v.get F.mcVersion_PATCH_ID) 4 ++ zeros 4)) := by
    change execPatchSwap s = _
    unfold execPatchSwap
    dsimp only
    rw [show s.fresh.upload.patchSince = some w from hw, show s.fresh.upload.staged = some b from hs, hv, hi]
    exact congrArg Host.Outcome.next (if_pos ((allStand_iff s).mpr ha))
  obtain ⟨i1, i2, i3, i4, io⟩ := s.fresh.installPatch_holds b hi
  obtain ⟨r1, r2, r3, r4, r5, ro⟩ := a.resumeEngines_holds hv
  have oa : Only [.out, .image .matchReg, .upload, .image .mcVersion] s a :=
    (State.fresh_only (by decide) (Only.refl _ s)).trans (io.mono (by decide))
  have ov : Only [.out, .image .matchReg, .upload, .image .mcVersion, .runs, .engines] s v :=
    (oa.mono (by decide)).trans (ro.mono (by decide))
  have hsh : ∀ g, a.shifted g = s.shifted g := fun g => State.shifted_congr (group_of_only oa (by decide) g)
    (fun e => engine_of_only oa (by decide) e) (clock_of_only oa (by decide) (by decide) (by decide) (by decide))
  have he : ∀ e, a.engine e = s.engine e := fun e => engine_of_only oa (by decide) e
  clear hi hv
  generalize hp : leBytes (v.get F.mcVersion_PATCH_ID) 4 ++ zeros 4 = p at e
  have hend := AllEnded.finishAll ov (by decide) .patchApply .ok p
  have ou := State.finishAll_only (p := fun w => w = .patchApply) (st := .ok) (payload := p) (List.Subset.refl _) (Only.refl _ v)
  refine ⟨_, e, ?_⟩
  generalize v.finishAll (fun w => w = .patchApply) .ok p = u at *
  have hu : u.upload = v.upload := ou .upload (by decide)
  have hid : u.get F.mcVersion_PATCH_ID = v.get F.mcVersion_PATCH_ID := ou.get (by decide) 0
  refine ⟨fun i h => ?_, ?_, ?_, ?_, ?_, ?_, ?_, fun e h => ?_, fun g h hn => ?_, fun g h k h1 h2 h3 h4 => ?_, ?_,
    (ov.mono (by decide)).trans (ou.mono (by decide))⟩
  · rw [ou.image (by decide), ro.image (by decide), i1 i h]
  · rw [hu, r3, i2]
  · rw [hu, r3]
  · rw [hu, r3]
  · rw [ou.flag (by decide), r4]
  · rw [hid, r5 _ (by decide), i3]
  · rw [ou.get (by decide), r5 _ (by decide), i4]
  · rw [engine_of_only ou (by decide), r1 e h, he]
  · rw [group_of_only ou (by decide), r2 g h, hsh]
    refine if_neg ?_
    rcases hn with hn | hn <;> simp [hn]
  · rw [group_of_only ou (by decide), r2 g h, hsh]
    refine (if_pos (by simp [h1, h2])).trans ?_
    rw [State.stood_since h3 h4]
  · rw [hid, hp]
    exact hend

/-- PATCH_SWAP before every engine stands. -/
theorem patchSwap_waits (hs : s.upload.staged = some b) (ha : ∃ e < 17, (s.engine e).patchStop = none) :
    Runs .patchSwap s fun u => u = s.fresh := by
  refine Runs.stands ?_
  change execPatchSwap s = _
  unfold execPatchSwap
  dsimp only
  rw [show s.fresh.upload.patchSince = some w from hw, show s.fresh.upload.staged = some b from hs]
  exact congrArg Host.Outcome.next (if_neg (not_allStand ha))

/-- PATCH_WAIT_EXPIRY does what its time and the engines say. -/
theorem exec_patchWaitExpiry : exec .patchWaitExpiry s = .next
    (if w + s.get F.patchControl_PATCH_WAIT * Config.ticksPerMs ≤ s.clock.now
      && !((List.range 17).all fun e => (s.engine e).patchStop.isSome) then
      (s.fresh.resumeEngines.report 35 false 0xFFF 0 Status.timeout.code).finishAll (fun w => w = .patchApply) .timeout []
    else s.fresh) := by
  change execPatchWaitExpiry s = _
  unfold execPatchWaitExpiry
  dsimp only
  rw [show s.fresh.upload.patchSince = some w from hw]
  rfl

/-- PATCH_WAIT has expired first: nothing is installed (R171). -/
theorem patchWaitExpiry_gives_up (ht : w + s.get F.patchControl_PATCH_WAIT * Config.ticksPerMs ≤ s.clock.now)
    (ha : ∃ e < 17, (s.engine e).patchStop = none) : Runs .patchWaitExpiry s fun u =>
        u.upload = { s.upload with patchSince := none, staged := none } ∧ u.flag F.mcVersion_PATCH_PENDING = false
        ∧ (∀ e < 17, u.engine e = { s.engine e with patchStop := none })
        ∧ Reported s u 35 ∧ AllEnded s u .patchApply .timeout []
        ∧ Only [.out, .upload, .image .mcVersion, .runs, .engines, .mailboxes, .host, .hatband, .log, .image .logStatus] s u := by
  obtain ⟨a, hr⟩ : ∃ a, a = s.fresh.resumeEngines := ⟨_, rfl⟩
  have e := exec_patchWaitExpiry hw
  rw [if_pos (by simp only [ht, not_allStand ha, decide_true, Bool.true_and, Bool.not_false]), ← hr] at e
  obtain ⟨r1, -, r3, r4, -, ro⟩ := s.fresh.resumeEngines_holds hr
  have oa : Only [.out, .upload, .image .mcVersion, .runs, .engines] s a :=
    (State.fresh_only (by decide) (Only.refl _ s)).trans (ro.mono (by decide))
  clear hr
  have ob : Only [.log, .image .logStatus, .out, .hatband] a (a.report 35 false 0xFFF 0 Status.timeout.code) :=
    State.report_only (List.Subset.refl _) (Only.refl _ a)
  have hc : Reported s (a.report 35 false 0xFFF 0 Status.timeout.code) 35 :=
    Reported.report _ _ _ _ _ (congrArg Log.counters (oa .log (by decide)))
  generalize a.report 35 false 0xFFF 0 Status.timeout.code = v at *
  have ov : Only [.out, .upload, .image .mcVersion, .runs, .engines, .hatband, .log, .image .logStatus] s v :=
    (oa.mono (by decide)).trans (ob.mono (by decide))
  have ou := State.finishAll_only (p := fun w => w = .patchApply) (st := .timeout) (payload := []) (List.Subset.refl _)
    (Only.refl _ v)
  refine ⟨_, e, ?_, ?_, fun i hi => ?_, hc.same (SameCount.finishAll (by decide) _ _ _ _),
    AllEnded.finishAll ov (by decide) .patchApply .timeout [], (ov.mono (by decide)).trans (ou.mono (by decide))⟩
  · exact ((ou .upload (by decide)).trans (ob .upload (by decide))).trans r3
  · rw [ou.flag (by decide), ob.flag (by decide), r4]
  · rw [engine_of_only ou (by decide), engine_of_only ob (by decide), r1 i hi]
    rfl

/-- PATCH_WAIT has not expired, or the swap comes first. -/
theorem patchWaitExpiry_waits (h : s.clock.now < w + s.get F.patchControl_PATCH_WAIT * Config.ticksPerMs
    ∨ ∀ e < 17, (s.engine e).patchStop.isSome = true) : Runs .patchWaitExpiry s fun u => u = s.fresh := by
  refine Runs.stands ((exec_patchWaitExpiry hw).trans (congrArg Host.Outcome.next (if_neg ?_)))
  rw [Bool.and_eq_true, decide_eq_true_eq, Bool.not_eq_true']
  rintro ⟨h1, h2⟩
  rcases h with h | h
  · omega
  · rw [(allStand_iff s).mpr h] at h2
    cases h2

end swap

/-- Settles O57: a patch that is loaded, applied, swapped and given up. -/
theorem patchEffects : Obligations.PatchEffects := by
  refine ⟨fun m s total b h ht hb => patchLoad_effects h ht hb, fun m s h => patchApply_effects h, fun s w b hw hs => ?_,
    fun s w hw => ?_⟩
  · exact ⟨fun ha => patchSwap_swaps hw hs ha, fun ha => patchSwap_waits hw hs ha⟩
  · exact ⟨fun ht ha => patchWaitExpiry_gives_up hw ht ha, fun h => patchWaitExpiry_waits hw h⟩

end Sys2Proof
end

section
namespace Sys2Proof
open Machine

namespace Machine

/-! ### Engines that go idle (R173) -/

/-- What going IDLE makes of what an engine runs. -/
def Engine.idle (x : Engine) : Engine := { x with inst := false, abandoned := 0, held := false, waitSince := none }

theorem State.idleEngine_engine (s : State) (t : Nat) : (s.idleEngine t).engine t = (s.engine t).idle
    ∧ ∀ k, k ≠ t → (s.idleEngine t).engine k = s.engine k := by
  have h : ∀ k, (s.idleEngine t).engine k = (s.setEngine t (s.engine t).idle).engine k := fun k => by
    unfold State.idleEngine
    dsimp only
    split <;> rfl
  exact ⟨(h t).trans (State.engine_setEngine _ _ _), fun k hk => (h k).trans (State.engine_setEngine_ne _ _ hk)⟩

/-- A STOPPED engine stays so; any other is IDLE, and its guard is off. -/
theorem State.idleEngine_status (s : State) (t : Nat) :
    (s.idleEngine t).get F.engineStatus_STATE t = (if s.get F.engineStatus_STATE t = 3 then 3 else 0)
    ∧ (s.idleEngine t).flag F.engineStatus_GUARD t = false
    ∧ ∀ f, Apart F.engineStatus_GUARD f → Apart F.engineStatus_STATE f → (s.idleEngine t).get f t = s.get f t := by
  obtain ⟨a, ha⟩ : ∃ a, a = (s.setEngine t (s.engine t).idle).putFlag F.engineStatus_GUARD t false := ⟨_, rfl⟩
  have h3 : a.get F.engineStatus_STATE t = s.get F.engineStatus_STATE t := by
    rw [ha, State.get_putFlag_other _ (by decide), State.setEngine_get]
  have hg : a.flag F.engineStatus_GUARD t = false := ha ▸ State.flag_putFlag _ _ _ _ (by decide)
  have hf : ∀ f, Apart F.engineStatus_GUARD f → a.get f t = s.get f t := fun f h => by
    rw [ha, State.get_putFlag_other _ h, State.setEngine_get]
  have e : s.idleEngine t = if a.get F.engineStatus_STATE t = 3 then a else a.put F.engineStatus_STATE t 0 := by
    rw [ha]
    rfl
  rw [e, ← h3]
  split
  next h => exact ⟨h, hg, fun f h1 _ => hf f h1⟩
  next => exact ⟨State.get_put _ _ _ _, (State.flag_put_other _ (by decide)).trans hg,
    fun f h1 h2 => (State.get_put_other _ h2).trans (hf f h1)⟩

/-- The status records of the other engines are as they were. -/
theorem State.idleEngine_image (s : State) {t i : Nat} (ht : t < 17) (hi : i < 17) (hn : i ≠ t) :
    (s.idleEngine t).image .engineStatus i = s.image .engineStatus i := by
  have k : ∀ (v : State) (f : Field) (x : Nat), f.record = .engineStatus →
      (v.put f t x).image .engineStatus i = v.image .engineStatus i := fun v f x hf =>
    (OthersStand.put v ht f x hf).2.1 i hi hn
  unfold State.idleEngine
  dsimp only
  split
  · exact k _ _ _ rfl
  · exact (k _ _ _ rfl).trans (k _ _ _ rfl)

/-- A tile that stands down: what it does before its engine goes idle touches no engine (R203). -/
theorem State.standDown_split (s : State) (t : Nat) : s.standDown t = s ∨ ∃ v,
    Only [.runs, .image .runStatus, .drive, .bias, .image .biasStatus, .out, .hatband, .acq] s v
      ∧ s.standDown t = (v.idleEngine t).raise (seqSource t 6) := by
  unfold State.standDown
  extract_lets r tick a b c d e f
  split
  · exact .inl rfl
  · have oa : Only [.runs] s a := State.setTile_only (List.Subset.refl _) (Only.refl _ s)
    have ob : Only [.image .runStatus] a b := State.put_only (List.Subset.refl _) (Only.refl _ a)
    have oc : Only [.drive] b c :=
      Only.foldl (fun _ _ hx => State.zeroChannel_only (List.Subset.refl _) hx) _ (Only.refl _ b)
    have od : Only [.drive] c d := Only.foldl (fun _ _ hx => State.silenceTone_only (List.Subset.refl _)
      (State.silenceTone_only (List.Subset.refl _) hx)) _ (Only.refl _ c)
    have oe : Only [.bias, .image .biasStatus] d e := Only.foldl (fun _ _ hx => State.dropOps_only (by decide)
      (State.holdBias_only (by decide) hx)) _ (Only.refl _ d)
    have of : Only [.acq, .out, .hatband, .image .runStatus, .runs] e f :=
      State.dropJump_only (by decide) (State.cutWindows_only (by decide) (Only.refl _ e))
    exact .inr ⟨f, (oa.mono (by decide)).trans ((ob.mono (by decide)).trans ((oc.mono (by decide)).trans
      ((od.mono (by decide)).trans ((oe.mono (by decide)).trans (of.mono (by decide)))))), rfl⟩

/-- Standing down leaves a tile in its run. -/
theorem State.standDown_keepsRun (s : State) (t : Nat) : ((s.standDown t).tile t).group = (s.tile t).group := by
  by_cases hc : ((s.tile t).group.isNone || (s.tile t).stoodDown.isSome || (s.tile t).endTick.isSome
      || !((s.tile t).inShot || (s.tile t).prepared)) = true
  · rw [show s.standDown t = s from if_pos hc]
  · simp only [Bool.or_eq_true, not_or, Option.isNone_iff_eq_none, Option.isSome_iff_ne_none, Bool.not_eq_true',
      Bool.or_eq_false_iff, not_and, Bool.not_eq_false, ne_eq, not_not] at hc
    obtain ⟨⟨⟨h1, h2⟩, h3⟩, h4⟩ := hc
    rw [((s.standDown_done t).2.2 (Option.isSome_iff_ne_none.mpr h1) h2 h3 (by
      cases h : (s.tile t).inShot
      · exact .inr (h4 h)
      · exact .inl rfl)).1]

/-- What a tile that leaves its run changes before its engine goes idle. -/
def leaveParts : List Part :=
  [.shadows, .image .timingSet, .image .driveTone, .image .probeTone, .image .acqTone, .image .biasIir, .image .biasFir,
    .image .histConfig, .image .model, .loaded, .drive, .image .matrixControl, .weights, .image .weightControl, .readout,
    .bins, .image .histStatus, .image .xyStatus, .image .biasStatus, .bias, .blocking, .acq, .runs]

/-- A tile that leaves its run: what it does before its engine goes idle touches no engine (R439). -/
theorem State.leaveRun_split (s : State) (t : Nat) : ∃ v, Only leaveParts s v
    ∧ s.leaveRun t = (((v.idleEngine t).put F.runStatus_RUN_STATE t 0).stopIfPatch t).parkIdle t := by
  unfold State.leaveRun
  extract_lets a src b c dr d d' q f
  have oa : Only leaveParts s a := State.boundary_only (by decide) (State.unprepare_only (by decide) (Only.refl _ s))
  have ob : Only leaveParts a b := State.setTile_only (by decide) (Only.refl _ a)
  have oc : Only leaveParts b c := Only.foldl (fun _ _ hx => State.releaseBias_only (by decide)
    (State.releaseBias_only (by decide) hx)) _ (Only.refl _ b)
  have of : Only leaveParts c f := State.setAcq_only (by decide) (State.endLogs_only (by decide)
    (Only.setDrive (by decide) (Only.refl _ c)))
  exact ⟨f, oa.trans (ob.trans (oc.trans of)), rfl⟩

/-- The run of a group ends: its tiles leave it, the group is idle, and what waits for its end is answered. -/
theorem State.endRun_split (s : State) (g : Nat) : ∃ v p b, Only [.runs] ((s.members g).foldl State.leaveRun s) v
    ∧ s.endRun g = v.finishAll p .ok b := by
  unfold State.endRun
  extract_lets x a v
  exact ⟨v, _, _, State.setGroup_only (List.Subset.refl _) (Only.refl _ a), rfl⟩

end Machine

/-! ### Engines that are STOPPED (R159) -/

/-- Engine `e` is STOPPED by a lasting machine check at an address, and no interrupt of it is pending. -/
def StoppedAt (s : State) (e addr : Nat) : Prop :=
  s.get F.engineStatus_LAST_MC_ADDR e = addr ∧ s.get F.engineStatus_STATE e = 3 ∧ s.flag F.engineStatus_MC_LASTING e = true
    ∧ s.flag F.engineStatus_GUARD e = false ∧ (s.engine e).pending = false

namespace StoppedAt

variable {s v : State} {e addr : Nat}

/-- The same status record and the same pending interrupts. -/
theorem congr (h : StoppedAt s e addr) (hi : v.image .engineStatus e = s.image .engineStatus e)
    (hp : (v.engine e).pending = (s.engine e).pending) : StoppedAt v e addr := by
  have hg : ∀ f : Field, f.record = .engineStatus → v.get f e = s.get f e := fun f hf => by
    unfold State.get
    rw [hf, hi]
  obtain ⟨h1, h2, h3, h4, h5⟩ := h
  exact ⟨(hg _ rfl).trans h1, (hg _ rfl).trans h2, (State.flag_of_get (hg _ rfl)).trans h3,
    (State.flag_of_get (hg _ rfl)).trans h4, hp.trans h5⟩

theorem only {ps : List Part} (h : StoppedAt s e addr) (o : Only ps s v) (h1 : Part.engines ∉ ps)
    (h2 : Part.image .engineStatus ∉ ps) : StoppedAt v e addr :=
  h.congr (o.image h2 e) (congrArg Engine.pending (engine_of_only o h1 e))

theorem idleEngine (h : StoppedAt s e addr) (he : e < 17) {t : Nat} (ht : t < 17) : StoppedAt (s.idleEngine t) e addr := by
  by_cases k : e = t
  · subst k
    obtain ⟨i1, i2, i3⟩ := s.idleEngine_status e
    obtain ⟨h1, h2, h3, h4, h5⟩ := h
    refine ⟨(i3 _ (by decide) (by decide)).trans h1, i1.trans (if_pos h2),
      (State.flag_of_get (i3 _ (by decide) (by decide))).trans h3, i2, ?_⟩
    rw [(s.idleEngine_engine e).1]
    exact h5
  · exact h.congr (s.idleEngine_image ht he k) (congrArg Engine.pending ((s.idleEngine_engine t).2 e k))

theorem standDown (h : StoppedAt s e addr) (he : e < 17) {t : Nat} (ht : t < 17) : StoppedAt (s.standDown t) e addr := by
  rcases s.standDown_split t with k | ⟨v, o, k⟩
  · rw [k]
    exact h
  · rw [k]
    exact ((h.only o (by decide) (by decide)).idleEngine he ht).congr rfl rfl

/-- To stand for a pending patch interrupts nothing. -/
theorem stopIfPatch (h : StoppedAt s e addr) (t : Nat) : StoppedAt (s.stopIfPatch t) e addr := by
  unfold State.stopIfPatch
  split
  · have o : Only [.engines] s (s.stopForPatch t) := State.stopForPatch_only (List.Subset.refl _) (Only.refl _ s)
    obtain ⟨k1, k2⟩ := s.stopForPatch_engine t
    refine h.congr (o.image (by decide) e) ?_
    by_cases k : e = t
    · rw [k, k1]
      rfl
    · rw [k2 e k]
  · exact h

theorem leaveRun (h : StoppedAt s e addr) (he : e < 17) {t : Nat} (ht : t < 17) : StoppedAt (s.leaveRun t) e addr := by
  obtain ⟨v, o, k⟩ := s.leaveRun_split t
  rw [k]
  have hv := (h.only o (by decide) (by decide)).idleEngine he ht
  exact ((hv.only (State.put_only (ps := [.image .runStatus]) (List.Subset.refl _) (Only.refl _ _)) (by decide)
    (by decide)).stopIfPatch t).only (State.parkIdle_only (List.Subset.refl _) (Only.refl _ _)) (by decide) (by decide)

theorem endRun (h : StoppedAt s e addr) (he : e < 17) (g : Nat) : StoppedAt (s.endRun g) e addr := by
  have hl : ∀ (l : List Nat) (s : State), (∀ t ∈ l, t < 17) → StoppedAt s e addr → StoppedAt (l.foldl State.leaveRun s) e addr := by
    intro l
    induction l with
    | nil => exact fun _ _ h => h
    | cons a l ih =>
      intro s ht h
      rw [List.foldl_cons]
      exact ih _ (fun t hm => ht t (List.mem_cons_of_mem _ hm)) (h.leaveRun he (ht a (List.mem_cons_self ..)))
  obtain ⟨v, p, b, o, k⟩ := s.endRun_split g
  rw [k]
  have hv := (hl _ s (fun t ht => Nat.lt_succ_of_lt (bitList_lt ht)) h).only o (by decide) (by decide)
  exact hv.only (State.finishAll_only (List.Subset.refl _) (Only.refl _ v)) (by decide) (by decide)

end StoppedAt

/-- What precedes the answers to those that wait for a run's end sends nothing and reports nothing. -/
theorem Machine.State.endRun_quiet (s : State) (g : Nat) : ∃ v p b, s.endRun g = v.finishAll p .ok b ∧ Grows s v
    ∧ ∀ cls, SameCount cls s v := by
  obtain ⟨v, p, b, o, k⟩ := s.endRun_split g
  have oa := Only.foldl (f := State.leaveRun) (fun _ _ hx => State.leaveRun_only (List.Subset.refl _) hx) (s.members g)
    (Only.refl _ s)
  exact ⟨v, p, b, k, (Grows.of_only oa (by decide) (by decide)).trans (Grows.of_only o (by decide) (by decide)), fun cls =>
    (congrArg (fun l : Log => l.counters.read 0 cls) (o .log (by decide))).trans
      (congrArg (fun l : Log => l.counters.read 0 cls) (oa .log (by decide)))⟩

theorem Grows.endRun (s : State) (g : Nat) : Grows s (s.endRun g) := by
  obtain ⟨v, p, b, e, h, -⟩ := s.endRun_quiet g
  rw [e]
  exact h.trans (Grows.finishAll _ _ _ _)

theorem SameCount.endRun {cls : Nat} (h : cls ≠ 13) (s : State) (g : Nat) : SameCount cls s (s.endRun g) := by
  obtain ⟨v, p, b, e, -, k⟩ := s.endRun_quiet g
  rw [e]
  exact (k cls).trans (SameCount.finishAll h _ _ _ _)

end Sys2Proof
end

section
namespace Sys2Proof
open Machine

namespace Machine

/-! ### Machine checks (R153, R154, R159) -/

/-- A machine check of an engine has been recorded, raised and reported. -/
def State.checkNoted (s : State) (e : Fin 17) (addr : BitVec 15) (lasting : Bool) : State :=
  (if e.val < 16 then (s.put F.engineStatus_LAST_MC_ADDR e addr.toNat).raise (checkSource e)
    else s.put F.engineStatus_LAST_MC_ADDR e addr.toNat).report 6 lasting (checkSource e) e addr.toNat

theorem State.checkNoted_holds (s : State) (e : Fin 17) (addr : BitVec 15) (lasting : Bool) {v : State}
    (hv : v = s.checkNoted e addr lasting) : v.get F.engineStatus_LAST_MC_ADDR e = addr.toNat
    ∧ (e.val < 16 → Raised s v (seqSource e 10) 0 0) ∧ Reported s v 6
    ∧ (∀ f : Field, f.record = .engineStatus → Apart F.engineStatus_LAST_MC_ADDR f → v.get f e = s.get f e)
    ∧ Only [.out, .hatband, .log, .image .logStatus, .image .engineStatus] s v := by
  obtain ⟨a, ha⟩ : ∃ a, a = s.put F.engineStatus_LAST_MC_ADDR e addr.toNat := ⟨_, rfl⟩
  obtain ⟨b, hb⟩ : ∃ b, b = if e.val < 16 then a.raise (checkSource e) else a := ⟨_, rfl⟩
  have hv' : v = b.report 6 lasting (checkSource e) e addr.toNat := by
    rw [hv, hb, ha]
    rfl
  have oa : Only [.image .engineStatus] s a := ha ▸ State.put_only (List.Subset.refl _) (Only.refl _ s)
  have ob : Only [.out, .hatband] a b :=
    hb ▸ Only.ite (State.raise_only (List.Subset.refl _) (Only.refl _ a)) (Only.refl _ a)
  have ov : Only [.log, .image .logStatus, .out, .hatband] b v :=
    hv' ▸ State.report_only (List.Subset.refl _) (Only.refl _ b)
  have oc : Only [.out, .hatband, .log, .image .logStatus] a v := (ob.mono (by decide)).trans (ov.mono (by decide))
  refine ⟨?_, fun he => ?_, ?_, fun f hf h => ?_, (oa.mono (by decide)).trans (oc.mono (by decide))⟩
  · rw [oc.get (by decide), ha]
    exact State.get_put_of_lt _ _ _ addr.isLt
  · rw [if_pos he, show checkSource e = seqSource e 10 from if_pos he] at hb
    have hr : Raised s b (seqSource e 10) 0 0 := hb ▸ Raised.raise _ _ _
    exact hr.grow (hv' ▸ Grows.report _ _ _ _ _ _)
  · rw [hv']
    exact Reported.report _ _ _ _ _ (congrArg Log.counters ((ob .log (by decide)).trans (oa .log (by decide))))
  · rw [oc.get (by rw [hf]; decide), ha]
    exact State.get_put_other _ h

/-- What a fetch that fails once, or every time, comes to. -/
theorem exec_machineCheck {e : Fin 17} {s : State} (addr : BitVec 15) (again : Bool) (h1 : s.mode ≠ .reset)
    (h2 : s.get F.engineStatus_STATE e ≠ 3) {l : Bool} (hl : (again || (s.control.word addr.toNat).isNone) = l) :
    exec (.machineCheck e addr again) s = .next (if l then (s.fresh.checkNoted e addr l).stopEngine e
      else (s.fresh.checkNoted e addr l).count F.engineStatus_MC_TRANSIENT e) := by
  change execMachineCheck e addr again s = _
  unfold execMachineCheck
  dsimp only
  rw [show (again || (s.fresh.control.word addr.toNat).isNone) = l from hl]
  have h : ¬ (s.fresh.mode = .reset || s.fresh.get F.engineStatus_STATE e = 3) = true := by
    rw [State.fresh_mode, State.fresh_get]
    simp [h1, h2]
  exact congrArg Host.Outcome.next (if_neg h)

/-- No match redirects a fetch address that is no ROM address (R155): beyond the patch RAM there is no word. -/
theorem State.control_word_unused (s : State) {a : Nat} (h : 0x4400 ≤ a) : s.control.word a = none := by
  have hp : s.control.place a = a := by
    unfold Store.place
    have hn : s.control.redirects.find? (fun m => m.1 = a) = none := by
      rw [List.find?_eq_none]
      intro x hx
      obtain ⟨i, -, rfl⟩ := List.mem_map.mp hx
      have := s.get_lt F.matchReg_ROM_ADDR i
      rw [show F.matchReg_ROM_ADDR.width = 14 from rfl] at this
      simp only [decide_eq_true_eq]
      omega
    rw [hn]
  unfold Store.word
  dsimp only
  rw [hp, if_neg (by omega), if_neg (by simp; omega)]

/-! ### Engines that a lasting machine check stops (R159 to R161) -/

/-- The engine is STOPPED and its pending interrupts are discarded. -/
def State.stopBegun (s : State) (e : Nat) : State :=
  (((s.put F.engineStatus_STATE e 3).putFlag F.engineStatus_MC_LASTING e true).putFlag F.engineStatus_GUARD e false).setEngine e
    { Engine.init with patchStop := (s.engine e).patchStop, regs := (s.engine e).regs }

theorem State.stopEngine_split (s : State) (e : Nat) : s.stopEngine e =
    if e = 16 then (s.stopBegun e).enterSafe 0x0011 else (s.stopBegun e).stopTile e := rfl

theorem State.stopBegun_only (s : State) (e : Nat) : Only [.image .engineStatus, .engines] s (s.stopBegun e) :=
  State.setEngine_only (by decide) (State.putFlag_only (by decide) (State.putFlag_only (by decide)
    (State.put_only (by decide) (Only.refl _ s))))

theorem State.stopBegun_stopped {s : State} {e addr : Nat} (h : s.get F.engineStatus_LAST_MC_ADDR e = addr) :
    StoppedAt (s.stopBegun e) e addr := by
  unfold State.stopBegun
  refine ⟨?_, ?_, ?_, ?_, ?_⟩
  · rw [State.setEngine_get, State.get_putFlag_other _ (by decide), State.get_putFlag_other _ (by decide),
      State.get_put_other _ (by decide), h]
  · rw [State.setEngine_get, State.get_putFlag_other _ (by decide), State.get_putFlag_other _ (by decide), State.get_put]
    rfl
  · rw [State.setEngine_flag, State.flag_putFlag_other _ (by decide), State.flag_putFlag _ _ _ _ (by decide)]
  · rw [State.setEngine_flag, State.flag_putFlag _ _ _ _ (by decide)]
  · rw [State.engine_setEngine]
    rfl

/-- SEQ[t] has stopped: its shot is void, its tile stands down and its run is to end as under ABORT. -/
def State.runAborted (s : State) (t : Nat) : State := ((s.voidShot t).standDown t).abortRun t

theorem State.abortRun_done (s : State) {t g : Nat} (h : (s.tile t).group = some g) :
    (s.abortRun t).group g = { s.group g with abort := true } ∧ (∀ k, (s.abortRun t).tile k = s.tile k) := by
  unfold State.abortRun
  rw [h]
  exact ⟨State.group_setGroup _ _ _, fun _ => rfl⟩

theorem State.runAborted_holds (s : State) {t g : Nat} (hg : (s.tile t).group = some g) {v : State}
    (hv : v = s.runAborted t) : (∃ x n, v.group g = { s.group g with shotVoid := x, voided := n, abort := true }
      ∧ ((s.group g).inShot = true → x = true))
    ∧ ((s.tile t).stoodDown = none → (s.tile t).endTick = none → ((s.tile t).inShot = true ∨ (s.tile t).prepared = true) →
      (v.tile t).stoodDown = some (s.tick t).toNat ∧ (v.tile t).ended = true) := by
  obtain ⟨c, hc⟩ : ∃ c, c = s.voidShot t := ⟨_, rfl⟩
  obtain ⟨k1, k2⟩ := s.voidShot_done t
  have oc : Only [.runs, .image .runStatus, .acq] s c := hc ▸ State.voidShot_only (List.Subset.refl _) (Only.refl _ s)
  rw [← hc] at k1 k2
  obtain ⟨x, n, hx, -⟩ := k1.2 g
  obtain ⟨y, ht, -⟩ := k1.1 t
  obtain ⟨a1, a2⟩ := (c.standDown t).abortRun_done (t := t) (g := g) (by rw [State.standDown_keepsRun, k1.group, hg])
  rw [show (c.standDown t).abortRun t = v by rw [hv, hc]; rfl] at a1 a2
  refine ⟨⟨x, n, by rw [a1, State.standDown_group, hx], fun hi => ?_⟩, fun h1 h2 h3 => ?_⟩
  · have h := (k2 g hg (.inl hi)).1
    rw [hx] at h
    exact h
  · have hs := ((c.standDown_done t).2.2 (by rw [ht]; exact Option.isSome_iff_exists.mpr ⟨g, hg⟩) (by rw [ht]; exact h1)
      (by rw [ht]; exact h2) (by rw [ht]; exact h3)).1
    have hk : c.tick t = s.tick t := by
      unfold State.tick
      rw [ht, si_of_only oc (by decide)]
    rw [a2, hs, hk]
    exact ⟨rfl, rfl⟩

end Machine

/-- Nothing that precedes the end of the run is lost or reported (R160). -/
theorem Machine.State.runAborted_quiet (s : State) (t : Nat) : Grows s (s.runAborted t)
    ∧ ∀ cls, SameCount cls s (s.runAborted t) := by
  have oa : Only [.runs] ((s.voidShot t).standDown t) (s.runAborted t) :=
    State.abortRun_only (List.Subset.refl _) (Only.refl _ _)
  have ol := State.standDown_only (t := t) (List.Subset.refl _)
    (State.voidShot_only (t := t) (ps := [Part.runs, Part.image Rec.runStatus, Part.drive, Part.bias, Part.image Rec.biasStatus,
      Part.out, Part.hatband, Part.acq, Part.image Rec.engineStatus, Part.engines]) (by decide) (Only.refl _ s))
  refine ⟨(Grows.voidShot s t).trans (((s.voidShot t).standDown_done t).2.1.trans (Grows.of_only oa (by decide) (by decide))),
    fun cls => ?_⟩
  exact (congrArg (fun l : Log => l.counters.read 0 cls) (oa .log (by decide))).trans
    (congrArg (fun l : Log => l.counters.read 0 cls) (ol .log (by decide)))

theorem StoppedAt.runAborted {s : State} {e addr : Nat} (h : StoppedAt s e addr) (he : e < 17) :
    StoppedAt (s.runAborted e) e addr :=
  ((h.only (State.voidShot_only (List.Subset.refl _) (Only.refl _ s)) (by decide) (by decide)).standDown he he).only
    (State.abortRun_only (ps := [.runs]) (List.Subset.refl _) (Only.refl _ _)) (by decide) (by decide)

/-- What the stop of SEQ[t] leaves of its engine, of what it has sent and reported, and of its run (R160). -/
theorem Machine.State.stopTile_holds (s : State) {t : Nat} (ht : t < 17) {u : State} (hu : u = s.stopTile t) :
    (∀ addr, StoppedAt s t addr → StoppedAt u t addr) ∧ Grows s u ∧ (∀ cls, cls ≠ 13 → SameCount cls s u)
    ∧ ∀ g, (s.tile t).group = some g → (s.group g).state ≠ .idle →
      ((s.group g).inShot = true → (u.group g).abort = true ∧ (u.group g).shotVoid = true
        ∧ ((s.tile t).stoodDown = none → (s.tile t).endTick = none →
          ((s.tile t).inShot = true ∨ (s.tile t).prepared = true) →
          (u.tile t).stoodDown = some (s.tick t).toNat ∧ (u.tile t).ended = true))
      ∧ ((s.group g).inShot = false → (u.group g).state = .idle ∧ ∀ i ∈ s.members g, (u.tile i).group = none) := by
  cases hg : (s.tile t).group with
  | none =>
    have e : u = s := by
      rw [hu]
      unfold State.stopTile
      rw [hg]
    subst e
    exact ⟨fun _ h => h, Grows.refl _, fun cls _ => SameCount.refl cls _, fun g h => absurd h (by simp)⟩
  | some g =>
    obtain ⟨v, hv⟩ : ∃ v, v = s.runAborted t := ⟨_, rfl⟩
    have e : u = if (v.group g).state ≠ .idle && !(v.group g).inShot then v.endRun g else v := by
      rw [hu, hv]
      unfold State.stopTile
      rw [hg]
      rfl
    obtain ⟨⟨x, n, hx, hxi⟩, hs⟩ := s.runAborted_holds hg hv
    obtain ⟨q1, q2⟩ := s.runAborted_quiet t
    have hst : ∀ addr, StoppedAt s t addr → StoppedAt v t addr := fun addr h => hv ▸ h.runAborted ht
    rw [← hv] at q1 q2
    have hm : v.members g = s.members g := by
      unfold State.members
      rw [hx]
    rw [hx] at e
    clear hv hu
    refine ⟨fun addr h => ?_, ?_, fun cls hc => ?_, fun k hk hi => ?_⟩
    · rw [e]
      split
      · exact (hst addr h).endRun ht g
      · exact hst addr h
    · rw [e]
      split
      · exact q1.trans (Grows.endRun v g)
      · exact q1
    · rw [e]
      split
      · exact (q2 cls).trans (SameCount.endRun hc v g)
      · exact q2 cls
    · obtain rfl := Option.some.inj hk
      refine ⟨fun h => ?_, fun h => ?_⟩
      · rw [if_neg (by simp [h])] at e
        rw [e, hx]
        exact ⟨rfl, hxi h, hs⟩
      · rw [if_pos (by simp [h, hi])] at e
        obtain ⟨r1, r2, -⟩ := v.endRun_done g
        rw [e, r1, ← hm]
        exact ⟨rfl, r2⟩

/-- Settles O52: the stop of CRD is an entry to SAFE with cause 0x0011. -/
theorem lastingCheckOnCrdEntersSafe : Obligations.LastingCheckOnCrdEntersSafe := by
  intro s addr again h1 h2 h
  have hl : (again || (s.control.word addr.toNat).isNone) = true := by
    rcases h with h | h
    · rw [h]
      rfl
    · rw [State.control_word_unused s h]
      exact Bool.or_true _
  have e := exec_machineCheck (e := 16) addr again h1 h2 hl
  obtain ⟨-, -, -, -, o⟩ := s.fresh.checkNoted_holds 16 addr true rfl
  generalize s.fresh.checkNoted 16 addr true = a at *
  rw [if_pos rfl, State.stopEngine_split, if_pos (show (16 : Fin 17).val = 16 from rfl)] at e
  have hm : (a.stopBegun 16).mode = s.mode := ((a.stopBegun_only 16) .mode (by decide)).trans (o .mode (by decide))
  refine ⟨(a.stopBegun 16).enterSafe 0x0011, e, State.enterSafe_mode _ _, fun hs => ?_⟩
  obtain ⟨hc, hp, -⟩ := (a.stopBegun 16).enterSafe_done 0x0011 (by rw [hm]; exact hs)
  exact ⟨hc, by rw [hp, hm]⟩

end Sys2Proof
end

section
namespace Sys2Proof
open Machine

namespace Machine

/-! ### Waits of microwords that time out (R156, R158) -/

/-- The control store in force rests on the match registers and the patch RAM (R155). -/
theorem control_of_only {ps : List Part} {s v : State} (o : Only ps s v) (h1 : Part.upload ∉ ps)
    (h2 : Part.image .matchReg ∉ ps) : v.control = s.control := by
  unfold State.control
  simp only [o.flag (f := F.matchReg_ENABLE) h2, o.get (f := F.matchReg_ROM_ADDR) h2,
    o.get (f := F.matchReg_PATCH_ADDR) h2, show v.upload = s.upload from o .upload h1]

theorem rewritten_of_only {ps : List Part} {s v : State} (o : Only ps s v) (h1 : Part.upload ∉ ps)
    (h2 : Part.image .matchReg ∉ ps) (h3 : Part.image .mcVersion ∉ ps) (op : Nat) : v.rewritten op = s.rewritten op := by
  unfold State.rewritten
  rw [control_of_only o h1 h2, o.get (f := F.mcVersion_PATCH_ID) h3]

/-- The wait of the ROM's word is over, or the condition of a rewritten routine has come. -/
def State.waitCame (s : State) (e w : Nat) : Bool :=
  if s.rewritten (opcodeOf (s.wordAt e)) then s.condition e w else s.waitOver e (s.wordAt e)

/-- The WAIT microword `w` that engine `e` stands at has timed out. -/
def State.timesOut (s : State) (e w : Nat) : Bool :=
  e < 16 && s.get F.engineStatus_STATE e = 2 && timeoutOf w ≠ 0
    && decide ((s.engine e).microSince + timeoutOf w < s.clock.now) && !s.waitCame e w

theorem exec_microwordWaitTimeout {e : Fin 17} {s : State} {w : Nat}
    (hw : s.control.waitWord (opcodeOf (s.wordAt e)) = some w) : exec (.microwordWaitTimeout e) s =
      .next (if s.timesOut e w then s.fresh.goToFail e (s.wordAt e) w else s.fresh) := by
  change execMicrowordWaitTimeout e s = _
  unfold execMicrowordWaitTimeout
  dsimp only
  rw [show s.fresh.control.waitWord (opcodeOf (s.fresh.wordAt e)) = some w from hw]
  rfl

theorem exec_microwordWaitTimeout_stands {e : Fin 17} {s : State}
    (h : ∀ w, s.control.waitWord (opcodeOf (s.wordAt e)) = some w → s.timesOut e w = false) :
    exec (.microwordWaitTimeout e) s = .next s.fresh := by
  cases hw : s.control.waitWord (opcodeOf (s.wordAt e)) with
  | none =>
    change execMicrowordWaitTimeout e s = _
    unfold execMicrowordWaitTimeout
    dsimp only
    rw [show s.fresh.control.waitWord (opcodeOf (s.fresh.wordAt e)) = none from hw]
  | some w => rw [exec_microwordWaitTimeout hw, h w hw, if_neg Bool.false_ne_true]

/-- The fail branch of a routine of the ROM repeats the word. -/
theorem State.goToFail_repeats {s : State} {w : Nat} (h : s.rewritten (opcodeOf w) = false) (t u : Nat) :
    s.goToFail t w u = (s.count F.engineStatus_TIMEOUT_COUNT t).repeatWait t := by
  have o : Only [.image .engineStatus] s (s.count F.engineStatus_TIMEOUT_COUNT t) :=
    State.count_only (List.Subset.refl _) (Only.refl _ s)
  refine if_neg ?_
  rw [rewritten_of_only o (by decide) (by decide) (by decide), h]
  exact Bool.false_ne_true

theorem State.repeatWait_holds (s : State) (e : Nat) :
    (s.repeatWait e).engine e = { s.engine e with abandoned := 0, microSince := s.clock.now }
    ∧ (∀ k, k ≠ e → (s.repeatWait e).engine k = s.engine k) ∧ (s.repeatWait e).flag F.engineStatus_GUARD e = false
    ∧ ∀ f, Apart F.engineStatus_GUARD f → (s.repeatWait e).get f e = s.get f e := by
  unfold State.repeatWait
  refine ⟨?_, fun k hk => ?_, State.flag_putFlag _ _ _ _ (by decide), fun f hf => ?_⟩
  · rw [State.putFlag_engine, State.engine_setEngine]
  · rw [State.putFlag_engine, State.engine_setEngine_ne _ _ hk]
  · rw [State.get_putFlag_other _ hf, State.setEngine_get]

end Machine

theorem microwordWaitTimeout_effects (e : Fin 17) (s : State) :
    (∀ w, e.val < 16 → s.rewritten (opcodeOf (s.wordAt e)) = false → s.control.waitWord (opcodeOf (s.wordAt e)) = some w →
      s.get F.engineStatus_STATE e = 2 → timeoutOf w ≠ 0 → (s.engine e).microSince + timeoutOf w < s.clock.now →
      s.waitOver e (s.wordAt e) = false → Runs (.microwordWaitTimeout e) s fun u =>
      u.engine e = { s.engine e with abandoned := 0, microSince := s.clock.now } ∧ u.flag F.engineStatus_GUARD e = false
        ∧ u.get F.engineStatus_TIMEOUT_COUNT e = satAdd (s.get F.engineStatus_TIMEOUT_COUNT e) 1 F.engineStatus_TIMEOUT_COUNT.width
        ∧ u.get F.engineStatus_STATE e = 2 ∧ (∀ k, k ≠ e.val → u.engine k = s.engine k)
        ∧ Only [.out, .engines, .image .engineStatus] s u)
    ∧ ((e.val = 16 ∨ s.get F.engineStatus_STATE e ≠ 2 ∨ ∀ w, s.control.waitWord (opcodeOf (s.wordAt e)) = some w →
        timeoutOf w = 0 ∨ s.clock.now ≤ (s.engine e).microSince + timeoutOf w
          ∨ s.rewritten (opcodeOf (s.wordAt e)) = false ∧ s.waitOver e (s.wordAt e) = true) →
      Runs (.microwordWaitTimeout e) s fun u => u = s.fresh) := by
  refine ⟨fun w he hr hw h2 ht hn ho => ?_, fun h => Runs.stands (exec_microwordWaitTimeout_stands fun w hw => ?_)⟩
  · have hc : s.timesOut e w = true := by simp [State.timesOut, State.waitCame, hr, he, h2, ht, hn, ho]
    obtain ⟨a, ha⟩ : ∃ a, a = s.fresh.count F.engineStatus_TIMEOUT_COUNT e := ⟨_, rfl⟩
    have oa : Only [.out, .image .engineStatus] s a :=
      ha ▸ State.count_only (by decide) (State.fresh_only (by decide) (Only.refl _ s))
    have hg : a.get F.engineStatus_TIMEOUT_COUNT e = satAdd (s.get F.engineStatus_TIMEOUT_COUNT e) 1
        F.engineStatus_TIMEOUT_COUNT.width := by
      rw [ha, State.get_count, State.fresh_get]
    have hs : a.get F.engineStatus_STATE e = 2 := by
      rw [ha, State.get_count_other _ (by decide), State.fresh_get, h2]
    have k : exec (.microwordWaitTimeout e) s = .next (a.repeatWait e) := by
      rw [exec_microwordWaitTimeout hw, if_pos hc, State.goToFail_repeats (s := s.fresh) hr, ha]
    have hx : ∀ k, a.engine k = s.engine k := fun k => engine_of_only oa (by decide) k
    have hk : a.clock = s.clock := clock_of_only oa (by decide) (by decide) (by decide) (by decide)
    clear ha
    obtain ⟨r1, r2, r3, r4⟩ := a.repeatWait_holds e
    refine ⟨_, k, ?_, r3, (r4 _ (by decide)).trans hg, (r4 _ (by decide)).trans hs, fun k hk => (r2 k hk).trans (hx k),
      (oa.mono (by decide)).trans (State.repeatWait_only (by decide) (Only.refl _ a))⟩
    rw [r1, hx, hk]
  · rw [Bool.eq_false_iff]
    intro hc
    simp only [State.timesOut, State.waitCame, Bool.and_eq_true, decide_eq_true_eq, Bool.not_eq_true'] at hc
    obtain ⟨⟨⟨⟨h1, h2⟩, h3⟩, h4⟩, h5⟩ := hc
    rcases h with h | h | h
    · omega
    · exact h h2
    · rcases h w hw with h | h | ⟨hr, ho⟩
      · exact h3 h
      · omega
      · rw [hr, if_neg Bool.false_ne_true, ho] at h5
        exact Bool.noConfusion h5

/-! ### Machine checks of an engine (R153, R154, R159) -/

theorem machineCheck_transient {e : Fin 17} {addr : BitVec 15} {s : State} (h1 : s.mode ≠ .reset)
    (h2 : s.get F.engineStatus_STATE e ≠ 3) (hw : (s.control.word addr.toNat).isSome = true) :
    Runs (.machineCheck e addr false) s fun u =>
      u.get F.engineStatus_LAST_MC_ADDR e = addr.toNat ∧ Reported s u 6 ∧ (e.val < 16 → Raised s u (seqSource e 10) 0 0)
        ∧ u.get F.engineStatus_MC_TRANSIENT e = satAdd (s.get F.engineStatus_MC_TRANSIENT e) 1 F.engineStatus_MC_TRANSIENT.width
        ∧ u.get F.engineStatus_STATE e = s.get F.engineStatus_STATE e
        ∧ Only [.out, .hatband, .log, .image .logStatus, .image .engineStatus] s u := by
  have k := exec_machineCheck (e := e) addr false h1 h2 (l := false) (by rw [← Option.not_isSome, hw]; rfl)
  obtain ⟨v, hv⟩ : ∃ v, v = s.fresh.checkNoted e addr false := ⟨_, rfl⟩
  obtain ⟨n1, n2, n3, n4, n5⟩ := s.fresh.checkNoted_holds e addr false hv
  rw [← hv, if_neg Bool.false_ne_true] at k
  clear hv
  have oc : Only [.image .engineStatus] v (v.count F.engineStatus_MC_TRANSIENT e) :=
    State.count_only (List.Subset.refl _) (Only.refl _ v)
  have of : Only [.out] s s.fresh := State.fresh_only (List.Subset.refl _) (Only.refl _ s)
  refine ⟨_, k, ?_, ?_, fun he => ?_, ?_, ?_,
    (of.mono (by decide)).trans (n5.trans (oc.mono (by decide)))⟩
  · rw [State.get_count_other _ (by decide), n1]
  · exact (n3.from of (by decide)).only oc (by decide)
  · exact (n2 he).grow (Grows.of_only oc (by decide) (by decide))
  · rw [State.get_count, n4 _ rfl (by decide), State.fresh_get]
  · rw [State.get_count_other _ (by decide), n4 _ rfl (by decide), State.fresh_get]

theorem machineCheck_lasting {e : Fin 17} {addr : BitVec 15} {again : Bool} {s : State} (h1 : s.mode ≠ .reset)
    (h2 : s.get F.engineStatus_STATE e ≠ 3) (h : again = true ∨ s.control.word addr.toNat = none) (he : e.val < 16) :
    Runs (.machineCheck e addr again) s fun u =>
      u.get F.engineStatus_LAST_MC_ADDR e = addr.toNat ∧ Reported s u 6 ∧ Raised s u (seqSource e 10) 0 0
        ∧ u.get F.engineStatus_STATE e = 3 ∧ u.flag F.engineStatus_MC_LASTING e = true
        ∧ u.flag F.engineStatus_GUARD e = false ∧ (u.engine e).pending = false ∧ u.mode = s.mode
        ∧ ∀ g, (s.tile e).group = some g → (s.group g).state ≠ .idle →
          ((s.group g).inShot = true → (u.group g).abort = true ∧ (u.group g).shotVoid = true
            ∧ ((s.tile e).stoodDown = none → (s.tile e).endTick = none →
              ((s.tile e).inShot = true ∨ (s.tile e).prepared = true) →
              (u.tile e).stoodDown = some (s.tick e).toNat ∧ (u.tile e).ended = true))
          ∧ ((s.group g).inShot = false → (u.group g).state = .idle ∧ ∀ t ∈ s.members g, (u.tile t).group = none) := by
  have hl : (again || (s.control.word addr.toNat).isNone) = true := by
    rcases h with h | h
    · rw [h, Bool.true_or]
    · rw [h, Option.isNone_none, Bool.or_true]
  have k := exec_machineCheck (e := e) addr again h1 h2 hl
  obtain ⟨a, ha⟩ : ∃ a, a = s.fresh.checkNoted e addr true := ⟨_, rfl⟩
  obtain ⟨n1, n2, n3, -, n5⟩ := s.fresh.checkNoted_holds e addr true ha
  rw [← ha, if_pos rfl, State.stopEngine_split, if_neg (by omega)] at k
  clear ha
  obtain ⟨v, hv⟩ : ∃ v, v = a.stopBegun e := ⟨_, rfl⟩
  have ov : Only [.image .engineStatus, .engines] a v := hv ▸ a.stopBegun_only e
  have hs : StoppedAt v e addr.toNat := hv ▸ State.stopBegun_stopped n1
  rw [← hv] at k
  clear hv
  have of : Only [.out] s s.fresh := State.fresh_only (List.Subset.refl _) (Only.refl _ s)
  have os : Only [.out, .hatband, .log, .image .logStatus, .image .engineStatus, .engines] s v :=
    (of.mono (by decide)).trans ((n5.mono (by decide)).trans (ov.mono (by decide)))
  have hn : ∀ g, v.group g = s.group g := fun g => group_of_only os (by decide) g
  have hm : ∀ g, v.members g = s.members g := fun g => by
    unfold State.members
    rw [hn]
  have ht : v.tile e = s.tile e := tile_of_only os (by decide) e
  have hk : v.tick e = s.tick e := by
    unfold State.tick
    rw [ht, si_of_only os (by decide)]
  have hu : (v.stopTile e).mode = v.mode := (State.stopTile_only (List.Subset.refl _) (Only.refl _ v)) .mode (by decide)
  obtain ⟨p1, p2, p3, p4⟩ := v.stopTile_holds (t := e) (by omega) rfl
  obtain ⟨q1, q2, q3, q4, q5⟩ := p1 _ hs
  refine ⟨_, k, q1, ((n3.from of (by decide)).only ov (by decide)).same (p3 6 (by decide)),
    ((n2 he).grow (Grows.of_only ov (by decide) (by decide))).grow p2, q2, q3, q4, q5,
    hu.trans (os .mode (by decide)), fun g hg hi => ?_⟩
  have r := p4 g (by rw [ht, hg]) (by rw [hn]; exact hi)
  rw [hn, ht, hk, hm] at r
  exact r

end Sys2Proof
end

section
namespace Sys2Proof
open Machine

namespace Machine

/-! ### Interrupts (R162 to R168) -/

/-- The engine once its handlers have begun: no interrupt of it is pending or held off. -/
def Engine.handled (x : Engine) : Engine :=
  { x with haltPending := false, voidPending := false, attnPending := [], held := false }

theorem State.abandon_holds (s : State) (e : Nat) :
    (s.abandon e).engine e = { s.engine e with abandoned := (s.engine e).abandoned + 1 }
    ∧ (∀ k, k ≠ e → (s.abandon e).engine k = s.engine k)
    ∧ (s.abandon e).get F.engineStatus_ABANDON_COUNT e
      = satAdd (s.get F.engineStatus_ABANDON_COUNT e) 1 F.engineStatus_ABANDON_COUNT.width
    ∧ ((s.engine e).abandoned = 3 → (s.abandon e).flag F.engineStatus_GUARD e = true
      ∧ (s.abandon e).get F.engineStatus_GUARD_COUNT e
        = satAdd (s.get F.engineStatus_GUARD_COUNT e) 1 F.engineStatus_GUARD_COUNT.width)
    ∧ (s.abandon e).get F.engineStatus_STATE e = s.get F.engineStatus_STATE e := by
  obtain ⟨a, ha⟩ : ∃ a, a = (s.setEngine e { s.engine e with abandoned := (s.engine e).abandoned + 1 }).count
    F.engineStatus_ABANDON_COUNT e := ⟨_, rfl⟩
  obtain ⟨b, hb⟩ : ∃ b, b = (a.putFlag F.engineStatus_GUARD e true).count F.engineStatus_GUARD_COUNT e := ⟨_, rfl⟩
  have k : s.abandon e = if (s.engine e).abandoned + 1 = 4 then b else a := by
    rw [hb, ha]
    rfl
  have he : ∀ k, a.engine k = (s.setEngine e { s.engine e with abandoned := (s.engine e).abandoned + 1 }).engine k :=
    fun k => by rw [ha, State.count_engine]
  have hc : a.get F.engineStatus_ABANDON_COUNT e
      = satAdd (s.get F.engineStatus_ABANDON_COUNT e) 1 F.engineStatus_ABANDON_COUNT.width := by
    rw [ha, State.get_count, State.setEngine_get]
  have hg : ∀ f, Apart F.engineStatus_ABANDON_COUNT f → a.get f e = s.get f e := fun f hf => by
    rw [ha, State.get_count_other _ hf, State.setEngine_get]
  have hbe : ∀ k, b.engine k = a.engine k := fun k => by rw [hb, State.count_engine, State.putFlag_engine]
  have hbg : ∀ f, Apart F.engineStatus_GUARD_COUNT f → Apart F.engineStatus_GUARD f → b.get f e = a.get f e :=
    fun f h1 h2 => by rw [hb, State.get_count_other _ h1, State.get_putFlag_other _ h2]
  have hbs : b.flag F.engineStatus_GUARD e = true ∧ b.get F.engineStatus_GUARD_COUNT e
      = satAdd (s.get F.engineStatus_GUARD_COUNT e) 1 F.engineStatus_GUARD_COUNT.width := by
    rw [hb]
    refine ⟨(State.flag_count_other _ (by decide)).trans (State.flag_putFlag _ _ _ _ (by decide)), ?_⟩
    rw [State.get_count, State.get_putFlag_other _ (by decide), hg _ (by decide)]
  clear hb ha
  have h1 : ∀ k, (s.abandon e).engine k = a.engine k := fun n => by
    rw [k]
    split
    · exact hbe n
    · rfl
  have h2 : ∀ f, Apart F.engineStatus_GUARD_COUNT f → Apart F.engineStatus_GUARD f →
      (s.abandon e).get f e = a.get f e := fun f p q => by
    rw [k]
    split
    · exact hbg f p q
    · rfl
  refine ⟨?_, fun n hn => ?_, (h2 _ (by decide) (by decide)).trans hc, fun h3 => ?_,
    (h2 _ (by decide) (by decide)).trans (hg _ (by decide))⟩
  · rw [h1, he, State.engine_setEngine]
  · rw [h1, he, State.engine_setEngine_ne _ _ hn]
  · rw [k, if_pos (by rw [h3])]
    exact hbs

/-- Standing down touches of its engine's status only the guard and the state. -/
theorem State.standDown_engine (s : State) (t : Nat) :
    ((s.standDown t).engine t = s.engine t ∨ (s.standDown t).engine t = (s.engine t).idle)
    ∧ ∀ f : Field, f.record = .engineStatus → Apart F.engineStatus_GUARD f → Apart F.engineStatus_STATE f →
      (s.standDown t).get f t = s.get f t := by
  rcases s.standDown_split t with h | ⟨v, o, h⟩
  · rw [h]
    exact ⟨.inl rfl, fun _ _ _ _ => rfl⟩
  · rw [h]
    refine ⟨.inr ?_, fun f hf p q => ?_⟩
    · change (v.idleEngine t).engine t = _
      rw [(v.idleEngine_engine t).1, engine_of_only o (by decide)]
    · rw [State.raise_get, (v.idleEngine_status t).2.2 f p q, o.get (by rw [hf]; decide)]

/-- A tile that does stand down has its engine go idle (R203). -/
theorem State.standDown_idles {s : State} {t : Nat} (h1 : (s.tile t).group.isSome = true)
    (h2 : (s.tile t).stoodDown = none) (h3 : (s.tile t).endTick = none)
    (h4 : (s.tile t).inShot = true ∨ (s.tile t).prepared = true) : (s.standDown t).engine t = (s.engine t).idle
    ∧ (s.standDown t).get F.engineStatus_STATE t = if s.get F.engineStatus_STATE t = 3 then 3 else 0 := by
  have k := ((s.standDown_done t).2.2 h1 h2 h3 h4).1
  rcases s.standDown_split t with h | ⟨v, o, h⟩
  · rw [h] at k
    exact absurd ((congrArg TileRun.stoodDown k).symm.trans h2) (by simp)
  · rw [h]
    refine ⟨?_, ?_⟩
    · change (v.idleEngine t).engine t = _
      rw [(v.idleEngine_engine t).1, engine_of_only o (by decide)]
    · rw [State.raise_get, (v.idleEngine_status t).1, o.get (by decide)]

/-- What the handlers of the pending classes leave (R162, R164). -/
theorem State.runHandlers_holds (s : State) (e : Nat) :
    ((s.runHandlers e).engine e).pending = false ∧ ((s.runHandlers e).engine e).held = false
    ∧ (∀ f : Field, f.record = .engineStatus → Apart F.engineStatus_GUARD f → Apart F.engineStatus_STATE f →
      (s.runHandlers e).get f e = s.get f e)
    ∧ ((s.engine e).haltPending = false → (s.engine e).voidPending = false →
      s.runHandlers e = s.setEngine e (s.engine e).handled)
    ∧ (((s.engine e).haltPending = true ∨ (s.engine e).voidPending = true) → e < 16 → (s.tile e).group.isSome = true →
      (s.tile e).stoodDown = none → (s.tile e).endTick = none → ((s.tile e).inShot = true ∨ (s.tile e).prepared = true) →
      s.get F.engineStatus_STATE e ≠ 3 → ((s.runHandlers e).tile e).stoodDown = some (s.tick e).toNat
        ∧ ((s.runHandlers e).tile e).ended = true ∧ Raised s (s.runHandlers e) (seqSource e 6) 0 0
        ∧ ((s.runHandlers e).engine e).inst = false ∧ (s.runHandlers e).get F.engineStatus_STATE e = 0) := by
  obtain ⟨c, hc⟩ : ∃ c, c = s.setEngine e (s.engine e).handled := ⟨_, rfl⟩
  have k : s.runHandlers e = if ((s.engine e).haltPending || (s.engine e).voidPending) && e < 16 then c.standDown e else c := by
    rw [hc]
    rfl
  have ce : c.engine e = (s.engine e).handled := hc ▸ State.engine_setEngine _ _ _
  have oc : Only [.engines] s c := hc ▸ State.setEngine_only (List.Subset.refl _) (Only.refl _ s)
  have ct : c.tile e = s.tile e := tile_of_only oc (by decide) e
  have ck : c.tick e = s.tick e := by
    unfold State.tick
    rw [ct, si_of_only oc (by decide)]
  obtain ⟨d1, d2⟩ := c.standDown_engine e
  have hp : ((s.runHandlers e).engine e).pending = false ∧ ((s.runHandlers e).engine e).held = false := by
    rw [k]
    split
    · rcases d1 with d | d
      · rw [d, ce]
        exact ⟨rfl, rfl⟩
      · rw [d, ce]
        exact ⟨rfl, rfl⟩
    · rw [ce]
      exact ⟨rfl, rfl⟩
  refine ⟨hp.1, hp.2, fun f hf h1 h2 => ?_, fun h1 h2 => ?_, fun h h16 h1 h2 h3 h4 h5 => ?_⟩
  · rw [k]
    split
    · rw [d2 f hf h1 h2, oc.get (by rw [hf]; decide)]
    · rw [oc.get (by rw [hf]; decide)]
  · rw [k, if_neg (by simp [h1, h2]), hc]
  · rw [k, if_pos (by rcases h with h | h <;> simp [h, h16])]
    obtain ⟨r1, -, r3⟩ := (c.standDown_done e).2.2 (by rw [ct]; exact h1) (by rw [ct]; exact h2) (by rw [ct]; exact h3)
      (by rw [ct]; exact h4)
    obtain ⟨i1, i2⟩ := State.standDown_idles (s := c) (t := e) (by rw [ct]; exact h1) (by rw [ct]; exact h2)
      (by rw [ct]; exact h3) (by rw [ct]; exact h4)
    refine ⟨?_, ?_, r3, ?_, ?_⟩
    · rw [r1, ck]
    · rw [r1]
    · rw [i1]
      rfl
    · rw [i2, oc.get (by decide), if_neg h5]

/-- An interrupt has found engine `e` (R163, R165, R167): it has noted its hold-off, and has abandoned what waits
before its commit; an engine that neither runs nor waits so has nothing to abandon. -/
structure InterruptMet (s c : State) (e : Nat) : Prop where
  only : Only [.free, .engines, .image .engineStatus] s c
  others : ∀ k, k ≠ e → c.engine k = s.engine k
  engine : c.engine e = { s.engine e with abandoned := (c.engine e).abandoned }
  state : c.get F.engineStatus_STATE e = s.get F.engineStatus_STATE e
  abandons : (s.engine e).inst = true → (c.engine e).abandoned = (s.engine e).abandoned + 1
    ∧ c.get F.engineStatus_ABANDON_COUNT e = satAdd (s.get F.engineStatus_ABANDON_COUNT e) 1 F.engineStatus_ABANDON_COUNT.width
    ∧ ((s.engine e).abandoned = 3 → c.flag F.engineStatus_GUARD e = true
      ∧ c.get F.engineStatus_GUARD_COUNT e = satAdd (s.get F.engineStatus_GUARD_COUNT e) 1 F.engineStatus_GUARD_COUNT.width)
  keeps : (s.engine e).inst = false → s.get F.engineStatus_STATE e ≠ 1 → (c.engine e).abandoned = (s.engine e).abandoned
    ∧ c.get F.engineStatus_ABANDON_COUNT e = s.get F.engineStatus_ABANDON_COUNT e

theorem InterruptMet.abandon {s a : State} {e : Nat} (o : Only [.free, .image .engineStatus] s a)
    (hg : ∀ f : Field, f.record = .engineStatus → Apart F.engineStatus_HOLDOFF_MAX f → a.get f e = s.get f e)
    (h : (s.engine e).inst = false → s.get F.engineStatus_STATE e = 1) : InterruptMet s (a.abandon e) e := by
  have he : ∀ k, a.engine k = s.engine k := fun k => engine_of_only o (by decide) k
  obtain ⟨n1, n2, n3, n4, n5⟩ := a.abandon_holds e
  rw [he] at n1 n4
  rw [hg _ rfl (by decide)] at n3 n4 n5
  exact ⟨(o.mono (by decide)).trans (State.abandon_only (by decide) (Only.refl _ a)), fun k hk => (n2 k hk).trans (he k),
    by rw [n1], n5, fun _ => ⟨by rw [n1], n3, n4⟩, fun h1 h2 => absurd (h h1) h2⟩

theorem InterruptMet.pass {s a : State} {e : Nat} (o : Only [.free, .image .engineStatus] s a)
    (hg : ∀ f : Field, f.record = .engineStatus → Apart F.engineStatus_HOLDOFF_MAX f → a.get f e = s.get f e)
    (h : (s.engine e).inst = false) : InterruptMet s a e := by
  have he : ∀ k, a.engine k = s.engine k := fun k => engine_of_only o (by decide) k
  exact ⟨o.mono (by decide), fun k _ => he k, by rw [he], hg _ rfl (by decide),
    fun h1 => absurd h1 (by rw [h]; exact Bool.false_ne_true),
    fun _ _ => ⟨by rw [he], hg _ rfl (by decide)⟩⟩

/-- An interrupt finds the engine, before its commit or not, and its handlers run. -/
theorem State.interrupt_split (s : State) (e : Nat) : ∃ c, s.interrupt e = c.runHandlers e ∧ InterruptMet s c e := by
  obtain ⟨a, ha⟩ : ∃ a, a = (s.found e).2.noteHoldoff e (s.found e).1.2 := ⟨_, rfl⟩
  have k : s.interrupt e = (if (s.found e).1.1 then a.abandon e else a).runHandlers e := by
    rw [ha]
    rfl
  have of : Only [.free] s (s.found e).2 := State.found_only (List.Subset.refl _) (Only.refl _ s)
  have o : Only [.free, .image .engineStatus] s a :=
    ha ▸ State.noteHoldoff_only (by decide) (of.mono (by decide))
  have hg : ∀ f : Field, f.record = .engineStatus → Apart F.engineStatus_HOLDOFF_MAX f → a.get f e = s.get f e :=
    fun f hf h => by
      rw [ha]
      unfold State.noteHoldoff
      rw [State.get_put_other _ h, of.get (by rw [hf]; decide)]
  have hb : (s.found e).1.1 = ((s.engine e).inst || (decide (s.get F.engineStatus_STATE e = 1)
      && decide (s.free.1.toNat % 2 = 1))) := rfl
  clear ha of
  refine ⟨_, k, ?_⟩
  split
  next h =>
    refine .abandon o hg fun hi => ?_
    rw [hb, hi, Bool.false_or, Bool.and_eq_true, decide_eq_true_eq] at h
    exact h.1
  next h =>
    rw [hb, Bool.not_eq_true, Bool.or_eq_false_iff] at h
    exact .pass o hg h.1

end Machine

theorem exec_interruptTaken {e : Fin 17} {s : State} (h1 : (s.engine e).pending = true)
    (h2 : s.get F.engineStatus_STATE e ≠ 3) : exec (.interruptTaken e) s =
      .next (if s.flag F.engineStatus_GUARD e then s.fresh.setEngine e { s.engine e with held := true }
        else s.fresh.interrupt e) := by
  have h : ¬ (!(s.fresh.engine e).pending || s.fresh.get F.engineStatus_STATE e = 3) = true := by
    rw [State.fresh_engine, State.fresh_get]
    simp [h1, h2]
  exact congrArg Host.Outcome.next (if_neg h)

theorem exec_interruptTaken_stands {e : Fin 17} {s : State}
    (h : (s.engine e).pending = false ∨ s.get F.engineStatus_STATE e = 3) : exec (.interruptTaken e) s = .next s.fresh := by
  have h : (!(s.fresh.engine e).pending || s.fresh.get F.engineStatus_STATE e = 3) = true := by
    rw [State.fresh_engine, State.fresh_get]
    rcases h with h | h <;> simp [h]
  exact congrArg Host.Outcome.next (if_pos h)

end Sys2Proof
end

section
namespace Sys2Proof
open Machine

theorem interruptTaken_held {e : Fin 17} {s : State} (h1 : (s.engine e).pending = true)
    (h2 : s.get F.engineStatus_STATE e ≠ 3) (hg : s.flag F.engineStatus_GUARD e = true) :
    Runs (.interruptTaken e) s fun u => u.engine e = { s.engine e with held := true }
      ∧ (∀ k, k ≠ e.val → u.engine k = s.engine k) ∧ Only [.out, .engines] s u := by
  refine ⟨_, (exec_interruptTaken h1 h2).trans (congrArg Host.Outcome.next (if_pos hg)), State.engine_setEngine _ _ _,
    fun k hk => ?_, State.setEngine_only (by decide) (State.fresh_only (by decide) (Only.refl _ s))⟩
  rw [State.engine_setEngine_ne _ _ hk, State.fresh_engine]

theorem interruptTaken_runs {e : Fin 17} {s : State} {x : Engine} (hx : s.engine e = x) (h1 : x.pending = true)
    (h2 : s.get F.engineStatus_STATE e ≠ 3) (hg : s.flag F.engineStatus_GUARD e = false) :
    Runs (.interruptTaken e) s fun u =>
      (u.engine e).pending = false ∧ (u.engine e).held = false
        ∧ (x.inst = true → u.get F.engineStatus_ABANDON_COUNT e = satAdd (s.get F.engineStatus_ABANDON_COUNT e) 1 F.engineStatus_ABANDON_COUNT.width)
        ∧ (x.inst = false → s.get F.engineStatus_STATE e ≠ 1 →
          u.get F.engineStatus_ABANDON_COUNT e = s.get F.engineStatus_ABANDON_COUNT e)
        ∧ (x.haltPending = false → x.voidPending = false → (u.engine e).inst = x.inst
          ∧ (x.inst = true → (u.engine e).abandoned = x.abandoned + 1)
          ∧ (x.inst = false → s.get F.engineStatus_STATE e ≠ 1 → (u.engine e).abandoned = x.abandoned)
          ∧ (x.inst = true → x.abandoned = 3 → u.flag F.engineStatus_GUARD e = true
            ∧ u.get F.engineStatus_GUARD_COUNT e = satAdd (s.get F.engineStatus_GUARD_COUNT e) 1 F.engineStatus_GUARD_COUNT.width)
          ∧ (∀ k, k ≠ e.val → u.engine k = s.engine k) ∧ Only [.out, .engines, .free, .image .engineStatus] s u)
        ∧ ((x.haltPending = true ∨ x.voidPending = true) → e.val < 16 → (s.tile e).group.isSome = true →
          (s.tile e).stoodDown = none → (s.tile e).endTick = none → ((s.tile e).inShot = true ∨ (s.tile e).prepared = true) →
          (u.tile e).stoodDown = some (s.tick e).toNat ∧ (u.tile e).ended = true ∧ Raised s u (seqSource e 6) 0 0
          ∧ (u.engine e).inst = false ∧ u.get F.engineStatus_STATE e = 0) := by
  obtain ⟨c, hi, hc⟩ := s.fresh.interrupt_split e
  have k := (exec_interruptTaken (by rw [hx]; exact h1) h2).trans (congrArg Host.Outcome.next
    (if_neg (by rw [hg]; exact Bool.false_ne_true)))
  rw [hi] at k
  obtain ⟨oc, others, ce, cs, yes, no⟩ := hc
  rw [State.fresh_engine, hx] at ce yes no
  simp only [State.fresh_get] at cs yes no
  have os : Only [.out, .free, .engines, .image .engineStatus] s c :=
    (State.fresh_only (by decide) (Only.refl _ s)).trans (oc.mono (by decide))
  have ct : c.tile e = s.tile e := tile_of_only os (by decide) e
  have ck : c.tick e = s.tick e := by
    unfold State.tick
    rw [ct, si_of_only os (by decide)]
  obtain ⟨p1, p2, p3, p4, p5⟩ := c.runHandlers_holds e
  have pa := p3 F.engineStatus_ABANDON_COUNT rfl (by decide) (by decide)
  rw [ct, ck, cs] at p5
  refine ⟨_, k, p1, p2, fun h => pa.trans (yes h).2.1, fun h h' => pa.trans (no h h').2, fun h h' => ?_,
    fun h h16 i1 i2 i3 i4 => p5 (by rw [ce]; exact h) h16 i1 i2 i3 i4 h2⟩
  rw [p4 (by rw [ce]; exact h) (by rw [ce]; exact h'), State.engine_setEngine, State.setEngine_flag, State.setEngine_get]
  refine ⟨by rw [ce]; rfl, fun h => (yes h).1, fun h h' => (no h h').1, fun h => (yes h).2.2, fun k hk => ?_,
    (os.mono (by decide)).trans (State.setEngine_only (by decide) (Only.refl _ c))⟩
  rw [State.engine_setEngine_ne _ _ hk, others k hk, State.fresh_engine]

/-! ### The restart of an engine (R160) -/

theorem engineRestart_deferred {m : Fin 16} {s : State} (h : Passes s m 0x0A03 engineRestartCommand) :
    Runs (.engineRestart m) s fun u => Deferring s u m (.engineRestart ((s.request m).at 0 1))
      ∧ Only [.out, .mailboxes] s u :=
  h.deferring rfl rfl rfl rfl fun _ o => (taken_only s (by decide)).trans (o.mono (by decide))

/-- What the end of an engine's test comes to: a good test, or failed cells that a match covers. -/
theorem exec_engineRestartDone {e : Fin 17} {bad : Option (BitVec 15)} {s : State} {a : Nat}
    (ha : a = (bad.map BitVec.toNat).getD 0xFFFF) (h1 : s.restarting e = true) (h2 : s.get F.engineStatus_STATE e = 3) :
    exec (.engineRestartDone e bad) s = .next (if bad.isNone || s.matched a then
      ((s.fresh.put F.engineStatus_STATE e 0).putFlag F.engineStatus_MC_LASTING e false).finishAll
        (fun w => w = .engineRestart e) .ok (leBytes a 2 ++ zeros 2)
      else s.fresh.finishAll (fun w => w = .engineRestart e) .faulted []) := by
  have h : (s.fresh.restarting e && s.fresh.get F.engineStatus_STATE e = 3) = true := by
    rw [State.fresh_get, h2]
    exact (Bool.and_true _).trans h1
  rw [ha]
  refine (congrArg Host.Outcome.next (if_pos h)).trans ?_
  cases bad <;> rfl

theorem engineRestartDone_effects (e : Fin 17) (bad : Option (BitVec 15)) (s : State) (a : Nat)
    (ha : a = (bad.map BitVec.toNat).getD 0xFFFF) :
    (s.restarting e = true → s.get F.engineStatus_STATE e = 3 →
      ((bad = none ∨ s.matched a = true) → Runs (.engineRestartDone e bad) s fun u =>
        u.get F.engineStatus_STATE e = 0 ∧ u.flag F.engineStatus_MC_LASTING e = false
          ∧ AllEnded s u (.engineRestart e) .ok (leBytes a 2 ++ zeros 2) ∧ u.engines = s.engines
          ∧ Only [.out, .image .engineStatus, .mailboxes, .host, .hatband, .log, .image .logStatus] s u)
      ∧ (bad ≠ none → s.matched a = false → Runs (.engineRestartDone e bad) s fun u =>
        AllEnded s u (.engineRestart e) .faulted []
          ∧ Only [.out, .mailboxes, .host, .hatband, .log, .image .logStatus] s u))
    ∧ ((s.restarting e = false ∨ s.get F.engineStatus_STATE e ≠ 3) → Runs (.engineRestartDone e bad) s fun u => u = s.fresh) := by
  refine ⟨fun h1 h2 => ⟨fun hb => ?_, fun hb hm => ?_⟩, fun h => Runs.stands ?_⟩
  · have k := exec_engineRestartDone ha h1 h2
    rw [if_pos (by rcases hb with hb | hb <;> simp [hb])] at k
    obtain ⟨v, hv⟩ : ∃ v, v = (s.fresh.put F.engineStatus_STATE e 0).putFlag F.engineStatus_MC_LASTING e false := ⟨_, rfl⟩
    have o : Only [.out, .image .engineStatus] s v :=
      hv ▸ State.putFlag_only (by decide) (State.put_only (by decide) (State.fresh_only (by decide) (Only.refl _ s)))
    have hs : v.get F.engineStatus_STATE e = 0 := by
      rw [hv, State.get_putFlag_other _ (by decide), State.get_put]
      rfl
    have hf : v.flag F.engineStatus_MC_LASTING e = false := hv ▸ State.flag_putFlag _ _ _ _ (by decide)
    rw [← hv] at k
    clear hv
    have r := AllEnded.finishAll o (by decide) (.engineRestart e) .ok (leBytes a 2 ++ zeros 2)
    have of := State.finishAll_only (p := fun w => w = .engineRestart e) (st := .ok) (payload := leBytes a 2 ++ zeros 2)
      (List.Subset.refl _) (Only.refl _ v)
    exact ⟨_, k, (of.get (by decide) _).trans hs, (of.flag (by decide) _).trans hf, r,
      (of .engines (by decide)).trans (o .engines (by decide)), (o.mono (by decide)).trans (of.mono (by decide))⟩
  · have k := exec_engineRestartDone ha h1 h2
    rw [if_neg (by simp [hb, hm])] at k
    have o : Only [.out] s s.fresh := State.fresh_only (List.Subset.refl _) (Only.refl _ s)
    exact ⟨_, k, AllEnded.finishAll o (by decide) (.engineRestart e) .faulted [],
      (o.mono (by decide)).trans (State.finishAll_only (by decide) (Only.refl _ s.fresh))⟩
  · have h : ¬ (s.fresh.restarting e && s.fresh.get F.engineStatus_STATE e = 3) = true := by
      rw [State.fresh_get, show s.fresh.restarting e = s.restarting e from rfl]
      rcases h with h | h <;> simp [h]
    exact congrArg Host.Outcome.next (if_neg h)

/-- Settles O56: the rows one by one. -/
theorem engineEffects : Obligations.EngineEffects :=
  ⟨microwordWaitTimeout_effects, fun _ _ _ _ h1 h2 => ⟨fun ha hw => ha ▸ machineCheck_transient h1 h2 hw,
    machineCheck_lasting h1 h2⟩, fun _ _ _ hx => ⟨fun h => Runs.stands (exec_interruptTaken_stands (hx ▸ h)),
    fun h1 h2 => ⟨fun hg => hx ▸ interruptTaken_held (hx ▸ h1) h2 hg, interruptTaken_runs hx.symm h1 h2⟩⟩,
    fun _ _ => engineRestart_deferred, engineRestartDone_effects⟩

end Sys2Proof
end

section
namespace Sys2Proof
open Machine
namespace Machine

/-! ### The barriers of a group (R193) -/

theorem RunGroup.barrier_num {x : RunGroup} {num : Nat} {b : Barrier} (h : x.barrier num = some b) : b.num = num :=
  of_decide_eq_true (List.find?_some (p := fun y : Barrier => decide (y.num = num)) h)

theorem RunGroup.joinBarrier_num (x : RunGroup) (num mask : Nat) (partner : Bool) :
    (x.joinBarrier num mask partner).num = num := by
  unfold RunGroup.joinBarrier
  split
  next b hb =>
    have e := RunGroup.barrier_num hb
    split <;> exact e
  · rfl

theorem RunGroup.barrier_setBarrier (x : RunGroup) {b : Barrier} {num : Nat} (h : b.num = num) :
    (x.setBarrier b).barrier num = some b := by
  subst h
  simp [RunGroup.barrier, RunGroup.setBarrier, List.find?_append, List.find?_eq_none.mpr]

theorem RunGroup.setBarrier_setBarrier (x : RunGroup) {b c : Barrier} (h : c.num = b.num) :
    (x.setBarrier b).setBarrier c = x.setBarrier c := by
  simp [RunGroup.setBarrier, List.filter_append, List.filter_filter, h]

/-- A running maximum is no less than where it starts. -/
theorem le_foldl_max {α : Type} (f : α → Int) : ∀ (l : List α) (m : Int), m ≤ l.foldl (fun m a => max m (f a)) m
  | [], _ => le_rfl
  | a :: l, m => (le_max_left m (f a)).trans (le_foldl_max f l _)

/-- No arrival is later than the last. -/
theorem Barrier.le_lastTick (b : Barrier) (l : List (Nat × Int × Nat)) (a : Nat × Int × Nat) :
    a.2.1 ≤ { b with arrivals := l ++ [a] }.lastTick := by
  unfold Barrier.lastTick
  rw [List.foldl_append]
  exact le_max_right _ _

/-! ### Arrivals (R193) -/

/-- The arrival of tile `t` stands in barrier `b` of its group, and the tile waits for it. -/
def State.joined (s : State) (g t : Nat) (b : Barrier) : State :=
  ((s.setGroup g ((s.group g).setBarrier b)).setTile t { s.tile t with barrier := some b.num }).beginWait t

/-- An arrival that names a tile outside its group, not itself, or another mask, faults (R193). -/
theorem State.arrive_faults {s : State} {g t w num mask : Nat} {b : Barrier} (hn : num = ctxOf w) (hm : mask = bits w 0 16)
    (hb : b = (s.group g).joinBarrier num mask (kindOf w = 1))
    (h : (∃ i ∈ bitList mask 16, i ∉ s.members g) ∨ bit mask t = false ∨ b.mask ≠ mask) :
    s.arrive g t w = s.programFault t := by
  subst hn hm hb
  refine if_pos ?_
  rcases h with ⟨i, hi, hg⟩ | h | h
  · have e : (bitList (bits w 0 16) 16).all (s.members g).contains = false :=
      List.all_eq_false.mpr ⟨i, hi, by simpa using hg⟩
    rw [e]
    rfl
  · simp [h]
  · simp [h]

/-- Any other arrival joins its barrier, which is then settled where it is complete. -/
theorem State.arrive_joins {s : State} {g t w num mask : Nat} {b c : Barrier} (hn : num = ctxOf w) (hm : mask = bits w 0 16)
    (hb : b = (s.group g).joinBarrier num mask (kindOf w = 1)) (h1 : ∀ i ∈ bitList mask 16, i ∈ s.members g)
    (h2 : bit mask t = true) (h3 : b.mask = mask)
    (hc : c = { b with arrivals := b.arrivals ++ [(t, s.tick t, bits w 16 22)] }) :
    s.arrive g t w = (s.joined g t c).settleBarrier g num := by
  have hcn : c.num = num := by
    rw [hc, hb]
    exact RunGroup.joinBarrier_num _ _ _ _
  have ha : (bitList mask 16).all (s.members g).contains = true := List.all_eq_true.mpr fun i hi => by simpa using h1 i hi
  unfold State.joined
  rw [hcn]
  subst hn hm hb hc
  refine if_neg ?_
  simp only [Bool.or_eq_true, decide_eq_true_eq, not_or, Bool.not_eq_true', Bool.not_eq_false]
  exact ⟨⟨ha, h2⟩, not_not.mpr h3⟩

/-- A barrier that still awaits a tile, or that has its release tick, is left as it is. -/
theorem State.settleBarrier_stands {s : State} {g num : Nat} {b : Barrier} (h : (s.group g).barrier num = some b)
    (ho : b.complete = false ∨ b.release ≠ none) : s.settleBarrier g num = s := by
  unfold State.settleBarrier
  rw [h]
  refine if_pos ?_
  rcases ho with ho | ho
  · simp [ho]
  · simp [Option.isSome_iff_ne_none.mpr ho]

/-- The last arrival settles its barrier, alone or with the partners. -/
theorem State.settleBarrier_last {s : State} {g num : Nat} {b : Barrier} (h : (s.group g).barrier num = some b)
    (hc : b.complete = true) (hr : b.release = none) (ha : b.arrivals ≠ []) : s.settleBarrier g num =
      if b.partner then s.settlePartner g b
      else s.setGroup g ((s.group g).setBarrier { b with release := some (b.lastTick + Config.barrierLead).toNat }) := by
  unfold State.settleBarrier
  rw [h]
  exact if_neg (by simp [hc, hr, ha])

/-! ### Barriers with partners (R260) -/

theorem barrierPorts_of_only {ps : List Part} {s u : State} (h : Only ps s u) (hp : Part.image .ulpControl ∉ ps) :
    u.barrierPorts = s.barrierPorts := by
  unfold State.barrierPorts
  simp only [h.flag (f := F.ulpControl_BARRIER_PORT) hp]

theorem barrierL_of_only {ps : List Part} {s u : State} (h : Only ps s u) (hp : Part.image .ulpControl ∉ ps) :
    u.barrierL = s.barrierL := by
  unfold State.barrierL
  simp only [barrierPorts_of_only h hp, h.get (f := F.ulpControl_BAR_LEAD) hp]

theorem State.barrierPorts_nodup (s : State) : s.barrierPorts.Nodup := List.nodup_range.filter _

/-- The partner arrivals are read off what the ports have received. -/
theorem State.partnerTicks_congr {s u : State} (hp : u.barrierPorts = s.barrierPorts)
    (h : ∀ p, (u.port p).barrierIn = (s.port p).barrierIn) (num : Nat) : u.partnerTicks num = s.partnerTicks num := by
  unfold State.partnerTicks
  simp only [hp, h]

/-- The arrival of a barrier is on its way to the partners. -/
def State.arrivalsOut (s : State) (a : Nat × Nat × Nat) : State :=
  s.barrierPorts.foldl (fun s p => s.setPort p { s.port p with barrierOut := some a }) s

theorem State.arrivalsOut_only (s : State) (a : Nat × Nat × Nat) : Only [.ports] s (s.arrivalsOut a) :=
  Only.foldl (fun _ _ hx => State.setPort_only (List.Subset.refl _) hx) _ (Only.refl _ s)

theorem State.arrivalsOut_done (s : State) (a : Nat × Nat × Nat) :
    (∀ p ∈ s.barrierPorts, ((s.arrivalsOut a).port p).barrierOut = some a)
    ∧ ∀ p, ((s.arrivalsOut a).port p).barrierIn = (s.port p).barrierIn := by
  obtain ⟨k1, k2⟩ := foldl_each State.port (fun s p => s.setPort p { s.port p with barrierOut := some a })
    (fun x => { x with barrierOut := some a }) (fun s p => State.port_setPort s p _)
    (fun s p q h => State.port_setPort_ne s _ h) _ s s.barrierPorts_nodup
  refine ⟨fun p hp => congrArg Port.barrierOut (k1 p hp), fun p => ?_⟩
  by_cases hp : p ∈ s.barrierPorts
  · exact (congrArg Port.barrierIn (k1 p hp)).trans rfl
  · exact congrArg Port.barrierIn (k2 p hp)

theorem State.useArrivals_out (s : State) (p : Nat) : (s.useArrivals.port p).barrierOut = (s.port p).barrierOut := by
  obtain ⟨k1, k2⟩ := foldl_each State.port
    (fun s p => s.setPort p { s.port p with barrierIn := (s.port p).barrierIn.map fun a => (a.1, a.2.1, true) })
    (fun x => { x with barrierIn := x.barrierIn.map fun a => (a.1, a.2.1, true) }) (fun s p => State.port_setPort s p _)
    (fun s p q h => State.port_setPort_ne s _ h) _ s s.barrierPorts_nodup
  by_cases hp : p ∈ s.barrierPorts
  · exact (congrArg Port.barrierOut (k1 p hp)).trans rfl
  · exact congrArg Port.barrierOut (k2 p hp)

theorem State.carries_none {s : State} {p : Nat} (h : (s.port p).barrierOut = none) : s.carries p = none := by
  unfold State.carries
  rw [h]

/-- The release tick of a barrier whose partners have all arrived. -/
def State.releaseTick (s : State) (b : Barrier) (ps : List (Nat × Nat)) : Int :=
  ps.foldl (fun m a => max m (signed a.2 32)) b.lastTick + Config.barrierLead + s.barrierL

/-- A release tick that comes soon enough releases the barrier. -/
theorem State.releaseWith_releases {s : State} {g : Nat} {b : Barrier} (ps : List (Nat × Nat))
    (h : s.groupTick g ≤ b.lastTick) : s.releaseWith g b ps = s.useArrivals.setGroup g ((s.group g).setBarrier
      { b with release := some (s.releaseTick b ps).toNat, partners := ps }) := by
  have o : Only [.ports] s s.useArrivals := State.useArrivals_only (List.Subset.refl _) (Only.refl _ s)
  have hg : s.useArrivals.group g = s.group g := group_of_only o (by decide) g
  have hk : s.useArrivals.groupTick g = s.groupTick g := by
    unfold State.groupTick
    rw [hg, si_of_only o (by decide)]
  have hr : ¬ s.releaseTick b ps < s.useArrivals.groupTick g + Config.barrierLead := by
    have := le_foldl_max (fun a : Nat × Nat => signed a.2 32) ps b.lastTick
    rw [hk]
    unfold State.releaseTick
    omega
  rw [← hg]
  exact if_neg hr

/-- A complete barrier that no other is in the way of goes to the partners; where theirs have arrived it is released. -/
theorem State.settlePartner_sends {s : State} {g : Nat} {b : Barrier} (h : ∀ p ∈ s.barrierPorts, (s.port p).barrierOut = none) :
    s.settlePartner g b = ((s.partnerTicks b.num).elim (s.arrivalsOut (b.num, unsigned b.lastTick 32, g))
      ((s.arrivalsOut (b.num, unsigned b.lastTick 32, g)).releaseWith g b)) := by
  have hp : (s.arrivalsOut (b.num, unsigned b.lastTick 32, g)).partnerTicks b.num = s.partnerTicks b.num :=
    State.partnerTicks_congr (barrierPorts_of_only (s.arrivalsOut_only _) (by decide)) (s.arrivalsOut_done _).2 _
  unfold State.settlePartner
  rw [if_neg]
  · change (match (s.arrivalsOut (b.num, unsigned b.lastTick 32, g)).partnerTicks b.num with
      | some ps => _
      | none => _) = _
    rw [hp]
    cases s.partnerTicks b.num <;> rfl
  · rw [Bool.not_eq_true, List.any_eq_false]
    intro p hp
    rw [State.carries_none (h p hp)]
    exact Bool.false_ne_true

end Machine

/-! ### The clauses of O49 on arrivals -/

/-- A tile goes on waiting where its group becomes another, and with parts that a wait does not speak of. -/
theorem Waits.regroup {ps : List Part} {s u v : State} {t g : Nat} {x y : RunGroup} {r : TileRun}
    (h : Waits (s.setGroup g x) u t r) (o : Only ps u v) (h1 : Part.runs ∉ ps) (h2 : Part.engines ∉ ps)
    (h3 : Part.image .engineStatus ∉ ps) : Waits (s.setGroup g y) (v.setGroup g y) t r := by
  obtain ⟨k1, k2, k3, k4, k5, k6, k7⟩ := h
  have he := engine_of_only o h2
  refine ⟨(tile_of_only o h1 t).trans k1, (congrArg Engine.inst (he t)).trans k2,
    (congrArg Engine.waitSince (he t)).trans k3, (o.get h3 t).trans k4,
    fun i hi => ⟨(tile_of_only o h1 i).trans (k5 i hi).1, (he i).trans (k5 i hi).2⟩,
    fun i hi hn => (o.image h3 i).trans (k6 i hi hn), fun k => ?_⟩
  by_cases e : k = g
  · rw [e, State.group_setGroup, State.group_setGroup]
  · rw [State.group_setGroup_ne _ _ e, State.group_setGroup_ne _ _ e, group_of_only o h1, k7 k, State.group_setGroup_ne _ _ e]

/-- It waits from the state before its group changed, once the group is put back. -/
theorem Waits.restore {ps : List Part} {s u v : State} {t g : Nat} {x : RunGroup} {r : TileRun}
    (h : Waits (s.setGroup g x) u t r) (o : Only ps u v) (h1 : Part.runs ∉ ps) (h2 : Part.engines ∉ ps)
    (h3 : Part.image .engineStatus ∉ ps) : Waits s (v.setGroup g (s.group g)) t r := by
  obtain ⟨k1, k2, k3, k4, k5, k6, k7⟩ := h.regroup (y := s.group g) o h1 h2 h3
  refine ⟨k1, k2, k3, k4, k5, k6, fun k => (k7 k).trans ?_⟩
  by_cases e : k = g
  · rw [e, State.group_setGroup]
  · exact State.group_setGroup_ne _ _ e

namespace Machine

/-- A tile whose arrival has been recorded waits. -/
theorem State.joined_waits (s : State) (g : Nat) {t : Nat} (ht : t < 17) (b : Barrier) :
    Waits (s.setGroup g ((s.group g).setBarrier b)) (s.fresh.joined g t b) t { s.tile t with barrier := some b.num }
    ∧ Only [.out, .runs, .engines, .image .engineStatus] s (s.fresh.joined g t b) := by
  obtain ⟨r, hr⟩ : ∃ r : TileRun, r = { s.tile t with barrier := some b.num } := ⟨_, rfl⟩
  obtain ⟨u, hu⟩ : ∃ u, u = s.fresh.setGroup g ((s.group g).setBarrier b) := ⟨_, rfl⟩
  have hw := Waits.beginWait (s := u) (v := u.setTile t r) ht rfl rfl (OthersStand.setTile u t r)
  have o : Only [.out, .runs] s u := hu ▸ State.setGroup_only (by decide) (State.fresh_only (by decide) (Only.refl _ s))
  have e : s.fresh.joined g t b = (u.setTile t r).beginWait t := by
    rw [hu, hr]
    rfl
  rw [State.tile_setTile, ← e, hu] at hw
  rw [← hr]
  refine ⟨hw, ?_⟩
  rw [e]
  exact State.beginWait_only (by decide) (State.setTile_only (by decide) (o.mono (by decide)))

theorem State.joined_group (s : State) (g t : Nat) (b : Barrier) : (s.joined g t b).group g = (s.group g).setBarrier b :=
  State.group_setGroup _ _ _

end Machine

/-- An arrival that does not fault stands in its barrier, which the row then settles. -/
theorem barrier_arrives {t : Fin 16} {s : State} {g num mask : Nat} {b c : Barrier} (h : Dispatches s t .barrier)
    (hg : (s.tile t).group = some g) (hn : num = ctxOf (s.wordAt t)) (hm : mask = bits (s.wordAt t) 0 16)
    (hb : b = (s.group g).joinBarrier num mask (kindOf (s.wordAt t) = 1)) (h1 : ∀ i ∈ bitList mask 16, i ∈ s.members g)
    (h2 : bit mask t = true) (h3 : b.mask = mask)
    (hc : c = { b with arrivals := b.arrivals ++ [(t.val, s.tick t, bits (s.wordAt t) 16 22)] }) :
    exec (.barrier t) s = .next ((s.fresh.joined g t c).settleBarrier g num) ∧ c.num = num
      ∧ ((s.fresh.joined g t c).group g).barrier num = some c := by
  have hcn : c.num = num := by
    rw [hc, hb]
    exact RunGroup.joinBarrier_num _ _ _ _
  have e := h.dispatched fun w s => match (s.tile t).group with
    | some g => s.arrive g t w
    | none => s
  rw [show (s.fresh.tile t).group = some g from hg] at e
  refine ⟨congrArg Host.Outcome.next (e.trans (State.arrive_joins hn hm hb h1 h2 h3 hc)), hcn, ?_⟩
  rw [State.joined_group]
  exact RunGroup.barrier_setBarrier _ hcn

section arrives

variable {t : Fin 16} {s : State} {g num : Nat} {c : Barrier}
  (he : exec (.barrier t) s = .next ((s.fresh.joined g t c).settleBarrier g num)) (hn : c.num = num)
  (hj : ((s.fresh.joined g t c).group g).barrier num = some c)
include he hn hj

/-- An arrival that others are still awaited after (R193). -/
theorem barrier_awaits (h : c.complete = false ∨ c.release ≠ none) : Runs (.barrier t) s fun u =>
    Waits (s.setGroup g ((s.group g).setBarrier c)) u t { s.tile t with barrier := some num }
    ∧ Only [.out, .runs, .engines, .image .engineStatus] s u := by
  rw [State.settleBarrier_stands hj h] at he
  exact ⟨_, he, hn ▸ s.joined_waits g (by omega) c⟩

/-- The last arrival of a barrier without partners (R193). -/
theorem barrier_releases (ha : c.arrivals ≠ []) (h1 : c.complete = true) (h2 : c.release = none) (h3 : c.partner = false) :
    Runs (.barrier t) s fun u =>
      Waits (s.setGroup g ((s.group g).setBarrier { c with release := some (c.lastTick + 48).toNat })) u t
        { s.tile t with barrier := some num }
      ∧ Only [.out, .runs, .engines, .image .engineStatus] s u := by
  rw [(State.settleBarrier_last hj h1 h2 ha).trans (if_neg (ne_true_of_eq_false h3)), State.joined_group,
    RunGroup.setBarrier_setBarrier _ (by rfl)] at he
  obtain ⟨hw, o⟩ := s.joined_waits g (t := t) (by omega) c
  rw [hn] at hw
  exact ⟨_, he, hw.regroup (Only.refl [] _) (by decide) (by decide) (by decide), State.setGroup_only (by decide) o⟩

/-- The last arrival of a barrier with partners goes to them, and their arrivals release it (R260). -/
theorem barrier_meets (ha : c.arrivals ≠ []) (h1 : c.complete = true) (h2 : c.release = none) (h3 : c.partner = true)
    (ht : s.tick t = s.groupTick g) (hl : s.tick t ≤ c.lastTick) (hp : ∀ p ∈ s.barrierPorts, (s.port p).barrierOut = none) :
    Runs (.barrier t) s fun u =>
      Waits s (u.setGroup g (s.group g)) t { s.tile t with barrier := some num }
      ∧ (∀ p ∈ s.barrierPorts, (u.port p).barrierOut = some (num, unsigned c.lastTick 32, g))
      ∧ (s.partnerTicks num = none → (u.group g).barrier num = some c)
      ∧ (∀ ps, s.partnerTicks num = some ps → (u.group g).barrier num = some { c with
        release := some (ps.foldl (fun m a => max m (signed a.2 32)) c.lastTick + 48 + s.barrierL).toNat, partners := ps })
      ∧ Only [.out, .ports, .runs, .engines, .image .engineStatus] s u := by
  obtain ⟨hw, o⟩ := s.joined_waits g (t := t) (by omega) c
  rw [hn] at hw
  rw [State.settleBarrier_last hj h1 h2 ha, h3, if_pos rfl] at he
  have jg : (s.fresh.joined g t c).group g = (s.group g).setBarrier c := s.fresh.joined_group g t c
  generalize s.fresh.joined g t c = v at *
  have vp := barrierPorts_of_only o (by decide)
  have vk : v.partnerTicks num = s.partnerTicks num :=
    State.partnerTicks_congr vp (fun p => congrArg Port.barrierIn (port_of_only o (by decide) p)) _
  rw [State.settlePartner_sends (fun p h => by rw [port_of_only o (by decide)]; exact hp p (vp ▸ h)), hn, vk] at he
  have oa := v.arrivalsOut_only (num, unsigned c.lastTick 32, g)
  have ka := (v.arrivalsOut_done (num, unsigned c.lastTick 32, g)).1
  rw [vp] at ka
  generalize v.arrivalsOut (num, unsigned c.lastTick 32, g) = a at *
  have ag := (group_of_only oa (by decide) g).trans jg
  cases hk : s.partnerTicks num with
  | none =>
    rw [hk] at he
    refine ⟨a, he, hw.restore oa (by decide) (by decide) (by decide), ka, fun _ => ?_, fun ps h => absurd h (by simp),
      (o.mono (by decide)).trans (oa.mono (by decide))⟩
    rw [ag]
    exact RunGroup.barrier_setBarrier _ hn
  | some ps =>
    have gt : a.groupTick g = s.groupTick g := by
      unfold State.groupTick
      rw [ag, si_of_only oa (by decide), si_of_only o (by decide)]
      rfl
    have ou : Only [.ports] a a.useArrivals := State.useArrivals_only (List.Subset.refl _) (Only.refl _ a)
    have oau := oa.trans ou
    have hr := State.releaseWith_releases (s := a) (g := g) (b := c) ps (by rw [gt, ← ht]; exact hl)
    have hL : a.barrierL = s.barrierL := (barrierL_of_only oa (by decide)).trans (barrierL_of_only o (by decide))
    rw [hk] at he
    refine ⟨_, he.trans (congrArg Host.Outcome.next hr), ?_, fun p h => (a.useArrivals_out p).trans (ka p h),
      fun h => absurd h (by simp), fun ps' h => ?_,
      State.setGroup_only (by decide) ((o.mono (by decide)).trans (oau.mono (by decide)))⟩
    · exact (hw.regroup (y := (a.group g).setBarrier _) oau (by decide) (by decide) (by decide)).restore (Only.refl [] _)
        (by decide) (by decide) (by decide)
    · obtain rfl := Option.some.inj h
      rw [State.group_setGroup]
      unfold State.releaseTick
      rw [hL]
      exact RunGroup.barrier_setBarrier _ hn

end arrives

/-- The row BARRIER (R193, R260). -/
theorem barrier_effects {t : Fin 16} {s : State} {g num mask : Nat} {b : Barrier} (h : Dispatches s t .barrier)
    (hg : (s.tile t).group = some g) (hn : num = ctxOf (s.wordAt t)) (hm : mask = bits (s.wordAt t) 0 16)
    (hb : b = (s.group g).joinBarrier num mask (kindOf (s.wordAt t) = 1)) :
    (((∃ i ∈ bitList mask 16, i ∉ s.members g) ∨ bit mask t = false ∨ b.mask ≠ mask) →
      Runs (.barrier t) s fun u => Faulted s u t)
    ∧ ((∀ i ∈ bitList mask 16, i ∈ s.members g) → bit mask t = true → b.mask = mask → ∀ c : Barrier,
      c = { b with arrivals := b.arrivals ++ [(t.val, s.tick t, bits (s.wordAt t) 16 22)] } →
      ((c.complete = false ∨ c.release ≠ none) → Runs (.barrier t) s fun u =>
        Waits (s.setGroup g ((s.group g).setBarrier c)) u t { s.tile t with barrier := some num }
        ∧ Only [.out, .runs, .engines, .image .engineStatus] s u)
      ∧ (c.complete = true → c.release = none → c.partner = false → Runs (.barrier t) s fun u =>
        Waits (s.setGroup g ((s.group g).setBarrier { c with release := some (c.lastTick + 48).toNat })) u t
          { s.tile t with barrier := some num }
        ∧ Only [.out, .runs, .engines, .image .engineStatus] s u)
      ∧ (c.complete = true → c.release = none → c.partner = true → s.tick t = s.groupTick g →
        (∀ p ∈ s.barrierPorts, (s.port p).barrierOut = none) → Runs (.barrier t) s fun u =>
        Waits s (u.setGroup g (s.group g)) t { s.tile t with barrier := some num }
        ∧ (∀ p ∈ s.barrierPorts, (u.port p).barrierOut = some (num, unsigned c.lastTick 32, g))
        ∧ (s.partnerTicks num = none → (u.group g).barrier num = some c)
        ∧ (∀ ps, s.partnerTicks num = some ps → (u.group g).barrier num = some { c with
          release := some (ps.foldl (fun m a => max m (signed a.2 32)) c.lastTick + 48 + s.barrierL).toNat, partners := ps })
        ∧ Only [.out, .ports, .runs, .engines, .image .engineStatus] s u)) := by
  refine ⟨fun hf => ?_, fun h1 h2 h3 c hc => ?_⟩
  · have e := h.dispatched fun w s => match (s.tile t).group with
      | some g => s.arrive g t w
      | none => s
    rw [show (s.fresh.tile t).group = some g from hg] at e
    exact ⟨_, congrArg Host.Outcome.next (e.trans (State.arrive_faults (s := s.fresh) hn hm hb hf)), Faulted.of s.fresh t⟩
  · obtain ⟨he, hcn, hj⟩ := barrier_arrives h hg hn hm hb h1 h2 h3 hc
    have ha : c.arrivals ≠ [] := by simp [hc]
    have hl : s.tick t ≤ c.lastTick := hc ▸ b.le_lastTick b.arrivals (t.val, s.tick t, bits (s.wordAt t) 16 22)
    exact ⟨barrier_awaits he hcn hj, barrier_releases he hcn hj ha,
      fun k1 k2 k3 k4 => barrier_meets he hcn hj ha k1 k2 k3 k4 hl⟩

end Sys2Proof
end

section
namespace Sys2Proof
open Machine

/-! ### Barriers that are released (R187, R193) -/

/-- What an operation on each part of a list makes of one of them: what it makes of that part alone, from a state in which
the part was as at first. -/
theorem foldl_at {α : Type} (part : State → Nat → α) (f : State → Nat → State) : ∀ (l : List Nat) (s : State),
    (∀ s, ∀ t ∈ l, ∀ u ∈ l, u ≠ t → part (f s t) u = part s u) → l.Nodup → ∀ t ∈ l, ∃ v, part v t = part s t
      ∧ part (l.foldl f s) t = part (f v t) t
  | [], _, _, _, t, ht => absurd ht List.not_mem_nil
  | a :: l, s, h, hn, t, ht => by
    obtain ⟨ha, hl⟩ := List.nodup_cons.mp hn
    have h' : ∀ s, ∀ t ∈ l, ∀ u ∈ l, u ≠ t → part (f s t) u = part s u := fun s t ht u hu =>
      h s t (List.mem_cons_of_mem _ ht) u (List.mem_cons_of_mem _ hu)
    rcases List.mem_cons.mp ht with rfl | hm
    · refine ⟨s, rfl, ?_⟩
      have hk : ∀ (k : List Nat) (v : State), k ⊆ l → part (k.foldl f v) t = part v t := by
        intro k
        induction k with
        | nil => exact fun _ _ => rfl
        | cons b k ih =>
          intro v hs
          obtain ⟨hb, hs⟩ := List.cons_subset.mp hs
          exact (ih _ hs).trans (h v b (List.mem_cons_of_mem _ hb) t (List.mem_cons_self ..) fun e => ha (e ▸ hb))
      exact hk l _ (List.Subset.refl l)
    · obtain ⟨v, k1, k2⟩ := foldl_at part f l (f s a) h' hl t hm
      exact ⟨v, k1.trans (h s a (List.mem_cons_self ..) t ht fun e => ha (e ▸ hm)), k2⟩

namespace Machine

/-- A release moves a tile that waits for it, and no other (R187). -/
theorem State.releaseTileFrom_done (s : State) {t : Nat} (ht : t < 17) (num r : Nat) :
    OthersStand s (s.releaseTileFrom t num r) t ∧ ((s.tile t).barrier = some num →
      GoesOn s (s.releaseTileFrom t num r) t 1 { s.tile t with barrier := none, mark := r }) := by
  unfold State.releaseTileFrom
  dsimp only
  split
  · have k : GoesOn s (((s.setTile t { s.tile t with barrier := none }).setMark t r).advance t 1) t 1
        { s.tile t with barrier := none, mark := r } := by
      refine GoesOn.advance ht ?_ rfl
        ((OthersStand.setTile s t { s.tile t with barrier := none }).trans (OthersStand.setTile _ t _))
      unfold State.setMark
      rw [State.tile_setTile, State.tile_setTile]
      rfl
    exact ⟨k.2.2.2.2.2, fun _ => k⟩
  next h =>
    exact ⟨OthersStand.of_only (Only.refl [] s) t (by decide) (by decide) (by decide), fun h' => absurd h' h⟩

/-- What a release moves of a tile: its run, its engine and its engine's status record. -/
def State.tileParts (s : State) (t : Nat) : TileRun × Engine × Nat := (s.tile t, s.engine t, s.image .engineStatus t)

theorem OthersStand.tileParts {s u : State} {t k : Nat} (h : OthersStand s u t) (hk : k < 17) (hn : k ≠ t) :
    u.tileParts k = s.tileParts k := by
  obtain ⟨h1, h2, -⟩ := h
  unfold State.tileParts
  rw [(h1 k hn).1, (h1 k hn).2, h2 k hk hn]

/-- The waiting tiles of a list go on after a release. -/
theorem State.releaseTiles_done (num r : Nat) (s : State) {l : List Nat} (hn : l.Nodup) (hl : ∀ t ∈ l, t < 17) {u : State}
    (hu : u = l.foldl (fun s t => s.releaseTileFrom t num r) s) : ∀ t ∈ l, (s.tile t).barrier = some num →
      (u.tile t).pc = (s.tile t).pc + 1 ∧ (u.tile t).barrier = none ∧ (u.tile t).mark = r ∧ (u.engine t).inst = false
        ∧ u.get F.engineStatus_STATE t = 1 := by
  intro t ht hb
  obtain ⟨v, hv, hf⟩ := foldl_at State.tileParts (fun s t => s.releaseTileFrom t num r) l s
    (fun s t ht u hu hne => OthersStand.tileParts (s.releaseTileFrom_done (hl t ht) num r).1 (hl u hu) hne) hn t ht
  rw [← hu] at hf
  obtain ⟨hvt, -⟩ := Prod.mk.inj hv
  obtain ⟨hut, hr⟩ := Prod.mk.inj hf
  obtain ⟨hue, hui⟩ := Prod.mk.inj hr
  obtain ⟨k1, k2, -, k4, -⟩ := (v.releaseTileFrom_done (hl t ht) num r).2 (by rw [hvt]; exact hb)
  rw [hvt] at k1
  rw [hut, hue, k1]
  refine ⟨rfl, rfl, rfl, k2, ?_⟩
  unfold State.get at k4 ⊢
  exact (congrArg (fun i => bits i F.engineStatus_STATE.lo F.engineStatus_STATE.width) hui).trans k4

theorem exec_barrierRelease {g : Fin 16} {b : Fin 1024} {s : State} {x : Barrier} {r : Nat}
    (hx : (s.group g).barrier b = some x) (hr : x.release = some r) : exec (.barrierRelease g b) s = .next (
      if !x.arrivals.isEmpty && decide ((r : Int) ≤ s.groupTick g + Config.switchLead) then
        let u := (s.members g).foldl (fun s t => s.releaseTileFrom t b r) s.fresh
        u.setGroup g ((u.group g).setBarrier { x with arrivals := [] })
      else s.fresh) := by
  change Host.Outcome.next (match (s.fresh.group g).barrier b with
    | none => s.fresh
    | some x => match x.release with
      | none => s.fresh
      | some release => _) = _
  rw [show (s.fresh.group g).barrier b = some x from hx]
  dsimp only
  rw [hr]
  rfl

end Machine

/-- The row BARRIER_RELEASE (R187, R193). -/
theorem barrierRelease_effects {g : Fin 16} {b : Fin 1024} {s : State} {x : Barrier} {r : Nat}
    (hx : (s.group g).barrier b = some x) (hr : x.release = some r) (ha : x.arrivals ≠ []) :
    ((r : Int) ≤ s.groupTick g + 40 → Runs (.barrierRelease g b) s fun u =>
      ∀ t ∈ s.members g, (s.tile t).barrier = some b.val → (u.tile t).pc = (s.tile t).pc + 1
        ∧ (u.tile t).barrier = none ∧ (u.tile t).mark = r ∧ (u.engine t).inst = false
        ∧ u.get F.engineStatus_STATE t = 1)
    ∧ (s.groupTick g + 40 < r → Runs (.barrierRelease g b) s fun u => u = s.fresh) := by
  have e := exec_barrierRelease hx hr
  refine ⟨fun h => ?_, fun h => Runs.stands (e.trans (congrArg Host.Outcome.next (if_neg ?_)))⟩
  · have hs : (r : Int) ≤ s.groupTick g + Config.switchLead := h
    have k := State.releaseTiles_done b r s.fresh (l := s.members g) (bitList_nodup _ _)
      (fun t ht => (bitList_lt ht).trans (by decide)) rfl
    exact ⟨_, e.trans (congrArg Host.Outcome.next (if_pos (by simp [ha, hs]))), fun t ht hb => k t ht hb⟩
  · have hs : ¬ (r : Int) ≤ s.groupTick g + Config.switchLead := not_le.mpr h
    simp [hs]

end Sys2Proof
end

section
namespace Sys2Proof
open Machine
namespace Machine

/-! ### Barriers that fail (R193, R260) -/

/-- A tile of a group that plays or prepares a shot has it marked VOID. -/
def State.TileVoid (s : State) (t : Nat) : Prop := ∀ g, (s.tile t).group = some g →
  ((s.group g).inShot = true ∨ (s.tile t).prepared = true) → t ∈ s.members g → (s.tile t).voided = true

/-- Whether a tile has a shot to be voided stands while shots are voided. -/
theorem State.TileVoid.of_voids {s u : State} {t : Nat} (v : Voids s u) (h : (∀ g, (s.tile t).group = some g →
    ((s.group g).inShot = true ∨ (s.tile t).prepared = true) → t ∈ s.members g → (u.tile t).voided = true)) :
    u.TileVoid t := fun g hg hi hm => by
  rw [v.group] at hg
  rw [v.shotOn, v.prepared] at hi
  rw [v.members] at hm
  exact h g hg hi hm

/-- The shot of every tile of a list is void that plays or prepares one (R36, R205). -/
theorem State.voidShots_voided (l : List Nat) (s : State) : Voids s (l.foldl State.voidShot s)
    ∧ ∀ t ∈ l, ∀ g, (s.tile t).group = some g → ((s.group g).inShot = true ∨ (s.tile t).prepared = true) →
      t ∈ s.members g → ((l.foldl State.voidShot s).tile t).voided = true := by
  have hv := Voids.foldl (fun s t => (State.voidShot_done s t).1) l s
  have own : ∀ s t, State.TileVoid (State.voidShot s t) t := fun s t =>
    .of_voids (State.voidShot_done s t).1 fun g hg hi hm =>
      ((State.voidShot_done s t).2 g hg hi).2 t hm (by rw [hg]; rfl)
  have others : ∀ s t u, State.TileVoid s u → State.TileVoid (State.voidShot s t) u := fun s t u h =>
    .of_voids (State.voidShot_done s t).1 fun g hg hi hm => (State.voidShot_done s t).1.voided (h g hg hi hm)
  refine ⟨hv, fun t ht g hg hi hm => (foldl_gives own others l s).1 t ht g ?_ ?_ ?_⟩
  · rw [hv.group]
    exact hg
  · rw [hv.shotOn, hv.prepared]
    exact hi
  · rw [hv.members]
    exact hm

/-- A VOID order voids the shot of every tile of the group, and reaches the engine of each whose shot has not ended. -/
theorem State.orderVoid_done (s : State) (g : Nat) {u : State} (hu : u = s.orderVoid g) :
    (∀ t ∈ s.members g, (s.tile t).group = some g → ((s.group g).inShot = true ∨ (s.tile t).prepared = true) →
      (u.tile t).voided = true)
    ∧ ∀ t ∈ s.members g, (s.tile t).endTick = none → (u.engine t).voidPending = true := by
  obtain ⟨v, hv⟩ : ∃ v, v = (s.members g).foldl State.voidShot s := ⟨_, rfl⟩
  obtain ⟨k1, k2⟩ := s.voidShots_voided (s.members g)
  rw [← hv] at k1 k2
  have e : u = (s.members g).foldl (fun s t => if (s.tile t).endTick.isNone then s.demandVoid t else s) v := by
    rw [hu, hv]
    unfold State.orderVoid
    dsimp only
    rw [← hv, k1.members, hv]
  have ho : Only [.engines] v u := by
    rw [e]
    exact Only.foldl (fun _ _ hx => Only.ite (State.demandVoid_only (List.Subset.refl _) hx) hx) _ (Only.refl _ v)
  refine ⟨fun t ht hg hi => ?_, fun t ht hn => ?_⟩
  · rw [tile_of_only ho (by decide)]
    exact k2 t ht g hg hi ht
  · have k := (foldl_gives (P := fun s t => (s.tile t).endTick = none → (s.engine t).voidPending = true)
      (f := fun s t => if (s.tile t).endTick.isNone then s.demandVoid t else s) (fun s t h => ?_) (fun s t u h h' => ?_)
      (s.members g) v).1 t ht
    · rw [← e] at k
      refine k ?_
      rw [tile_of_only ho (by decide)]
      obtain ⟨w, hw, -⟩ := k1.1 t
      rw [hw]
      exact hn
    · by_cases hc : (s.tile t).endTick.isNone = true
      · rw [if_pos hc]
        exact congrArg Engine.voidPending (State.engine_setEngine _ _ _)
      · rw [if_neg hc] at h
        simp [h] at hc
    · by_cases hc : (s.tile t).endTick.isNone = true
      · rw [if_pos hc] at h' ⊢
        by_cases eq : u = t
        · rw [eq]
          exact congrArg Engine.voidPending (State.engine_setEngine _ _ _)
        · exact (congrArg Engine.voidPending (State.engine_setEngine_ne _ _ eq)).trans (h h')
      · rw [if_neg hc] at h' ⊢
        exact h h'

/-- VOID_ORDER goes to the partners of a group (R260). -/
def State.voidOrders (s : State) (q : Nat) : State :=
  s.barrierPorts.foldl (fun s p => s.setPort p { s.port p with voidOrder := some q }) s

theorem State.voidOrders_only (s : State) (q : Nat) : Only [.ports] s (s.voidOrders q) :=
  Only.foldl (fun _ _ hx => State.setPort_only (List.Subset.refl _) hx) _ (Only.refl _ s)

theorem State.voidOrders_done (s : State) (q : Nat) : ∀ p ∈ s.barrierPorts, ((s.voidOrders q).port p).voidOrder = some q :=
  fun p hp => (congrArg Port.voidOrder ((foldl_each State.port (fun s p => s.setPort p { s.port p with voidOrder := some q })
    (fun x => { x with voidOrder := some q }) (fun s p => State.port_setPort s p _)
    (fun s _ _ h => State.port_setPort_ne s _ h) _ s s.barrierPorts_nodup).1 p hp)).trans rfl

/-- BARRIER_TIMEOUT of every tile of a group, and its report (R193). -/
def State.timeoutTold (s : State) (g num seq : Nat) : State :=
  ((s.members g).foldl (fun s t => s.raise (seqSource t 11)) s).report 17 false 0xFFF num seq

theorem State.timeoutTold_done (s : State) (g num seq : Nat) {u : State} (hu : u = s.timeoutTold g num seq) :
    Only [.out, .hatband, .log, .image .logStatus] s u ∧ Reported s u 17
      ∧ ∀ t ∈ s.members g, Raised s u (seqSource t 11) 0 0 := by
  obtain ⟨v, hv⟩ : ∃ v, v = (s.members g).foldl (fun s t => s.raise (seqSource t 11)) s := ⟨_, rfl⟩
  have o : Only [.out, .hatband] s v :=
    hv ▸ Only.foldl (fun _ _ hx => State.raise_only (List.Subset.refl _) hx) _ (Only.refl _ s)
  have hr : ∀ t ∈ s.members g, Raised s v (seqSource t 11) 0 0 :=
    hv ▸ (foldl_gives (P := fun v t => Raised s v (seqSource t 11) 0 0) (fun _ _ => Raised.raise _ _ _)
      (fun _ _ _ h => h.grow (Grows.raise _ _ _ _ _)) (s.members g) s).1
  have e : u = v.report 17 false 0xFFF num seq := by
    rw [hu, hv]
    rfl
  rw [e]
  exact ⟨State.report_only (by decide) (o.mono (by decide)), Reported.report _ _ _ _ _ (congrArg Log.counters (o .log (by decide))),
    fun t ht => (hr t ht).grow (Grows.report _ _ _ _ _ _)⟩

/-- A barrier that fails is told, voids the shot of its group, and orders the partners to void theirs. -/
theorem State.failBarrier_done (s : State) (g : Nat) (x : Barrier) {u : State} (hu : u = s.failBarrier g x) :
    Reported s u 17 ∧ (∀ t ∈ s.members g, Raised s u (seqSource t 11) 0 0)
      ∧ (∀ t ∈ s.members g, (s.tile t).group = some g → ((s.group g).inShot = true ∨ (s.tile t).prepared = true) →
        (u.tile t).voided = true)
      ∧ (∀ t ∈ s.members g, (s.tile t).endTick = none → (u.engine t).voidPending = true)
      ∧ (x.partner = true → ∀ p ∈ s.barrierPorts, (u.port p).voidOrder = some ((s.group g).seq % 2 ^ 16)) := by
  obtain ⟨a, ha⟩ : ∃ a, a = s.setGroup g ((s.group g).setBarrier x) := ⟨_, rfl⟩
  obtain ⟨b, hb⟩ : ∃ b, b = a.timeoutTold g x.num (s.group g).seq := ⟨_, rfl⟩
  obtain ⟨c, hc⟩ : ∃ c, c = b.setGroup g
      { b.group g with barriers := (b.group g).barriers.map fun b => { b with arrivals := [] } } := ⟨_, rfl⟩
  obtain ⟨d, hd⟩ : ∃ d, d = if x.partner then c.voidOrders ((s.group g).seq % 2 ^ 16) else c := ⟨_, rfl⟩
  obtain ⟨ob, kr, ks⟩ := a.timeoutTold_done g x.num _ hb
  have ag : a.group g = (s.group g).setBarrier x := ha ▸ State.group_setGroup _ _ _
  have bg : b.group g = (s.group g).setBarrier x := (group_of_only ob (by decide) g).trans ag
  have am : a.members g = s.members g := ha ▸ State.setGroup_members s (by rfl) g
  have e : u = d.orderVoid g := by
    have hs : (((a.members g).foldl (fun s t => s.raise (seqSource t 11)) a).group g).seq = (s.group g).seq := by
      rw [group_of_only (ps := [.out, .hatband])
        (Only.foldl (fun _ _ hx => State.raise_only (List.Subset.refl _) hx) _ (Only.refl _ a)) (by decide), ag]
      rfl
    rw [hu]
    unfold State.failBarrier State.voidBarrier
    dsimp only
    rw [← ha, hs, hd, hc, hb]
    rfl
  have oc : Only [.runs] b c := hc ▸ State.setGroup_only (List.Subset.refl _) (Only.refl _ b)
  have od : Only [.ports] c d := hd ▸ Only.ite (c.voidOrders_only _) (Only.refl _ c)
  have ou : Only [.runs, .image .runStatus, .acq, .engines] d u := e ▸ State.orderVoid_only (List.Subset.refl _) (Only.refl _ d)
  have dt : ∀ t, d.tile t = s.tile t := fun t => by
    rw [tile_of_only od (by decide), hc, State.setGroup_tile, tile_of_only ob (by decide), ha, State.setGroup_tile]
  have dg : (d.group g).inShot = (s.group g).inShot := by
    rw [group_of_only od (by decide), hc, State.group_setGroup, bg]
    rfl
  have dm : d.members g = s.members g := by
    unfold State.members
    rw [group_of_only od (by decide), hc, State.group_setGroup, bg]
    rfl
  obtain ⟨k1, k2⟩ := d.orderVoid_done g e
  rw [dm] at k1 k2
  have gu : Grows b u := (Grows.of_only oc (by decide) (by decide)).trans
    ((Grows.of_only od (by decide) (by decide)).trans (Grows.of_only ou (by decide) (by decide)))
  refine ⟨?_, fun t ht => (ks t (am ▸ ht)).grow gu, fun t ht hg hi => k1 t ht ?_ ?_, fun t ht hn => k2 t ht ?_,
    fun hp p h => ?_⟩
  · rw [ha] at kr
    exact (((show Reported s b 17 from kr).only oc (by decide)).only od (by decide)).only ou (by decide)
  · rw [dt]
    exact hg
  · rw [dt, dg]
    exact hi
  · rw [dt]
    exact hn
  · rw [if_pos hp] at hd
    have o : Only [.out, .hatband, .log, .image .logStatus, .runs] s c :=
      (ha ▸ State.setGroup_only (by decide) (Only.refl _ s) : Only [.out, .hatband, .log, .image .logStatus, .runs] s a).trans
        ((ob.mono (by decide)).trans (oc.mono (by decide)))
    rw [port_of_only ou (by decide), hd]
    exact c.voidOrders_done _ p (by rw [barrierPorts_of_only o (by decide)]; exact h)

end Machine
theorem Machine.State.failBarrier_fresh_only (s : State) (g : Nat) (x : Barrier) :
    Only [.out, .hatband, .log, .image .logStatus, .runs, .ports, .image .runStatus, .acq, .engines] s (s.fresh.failBarrier g x) :=
  State.failBarrier_only (List.Subset.refl _) (State.fresh_only (by decide) (Only.refl _ s))

theorem exec_barrierTimeout {g : Fin 16} {b : Fin 1024} {s : State} {x : Barrier} (hx : (s.group g).barrier b = some x) :
    exec (.barrierTimeout g b) s = .next (if x.expired (s.groupTick g) then s.fresh.failBarrier g x else s.fresh) := by
  change Host.Outcome.next (match (s.fresh.group g).barrier b with
    | none => s.fresh
    | some x => _) = _
  rw [show (s.fresh.group g).barrier b = some x from hx]
  rfl

/-- Settles O49: the rows one by one. -/
theorem barrierEffects : Obligations.BarrierEffects := by
  refine ⟨fun t s g num mask b h hg hn hm hb => barrier_effects h hg hn hm hb,
    fun g b s x r hx hr ha => barrierRelease_effects hx hr ha, fun g b s x hx => ⟨fun h => ?_, fun h => ?_⟩⟩
  · obtain ⟨h1, h2, h3, h4, h5⟩ := s.fresh.failBarrier_done g x rfl
    exact ⟨_, (exec_barrierTimeout hx).trans (congrArg Host.Outcome.next (if_pos h)), h1, h2, h3, h4, h5,
      s.failBarrier_fresh_only g x⟩
  · exact Runs.stands ((exec_barrierTimeout hx).trans (congrArg Host.Outcome.next (if_neg (ne_true_of_eq_false h))))

end Sys2Proof
end

section
namespace Sys2Proof
open Machine
namespace Machine

/-! ### Runs that start (R201, R358) -/

/-- The run of a tile that joins a group. -/
def TileRun.joining (r : TileRun) (g : Nat) : TileRun := { TileRun.init with group := some g, suspect := r.suspect }

/-- A tile that joins a group is the only one whose run changes. -/
theorem State.joinRun_split (s : State) (g t : Nat) :
    Only [.engines, .image .runStatus, .image .counters, .blocking, .image .biasStatus, .bias]
      (s.setTile t ((s.tile t).joining g)) (s.joinRun g t) := by
  unfold State.joinRun
  exact Only.foldl (fun _ _ hx => State.putFlag_only (by decide) (State.setBias_only (by decide) hx)) _
    (Only.setBlocking (by decide) (State.clearCounters_only (by decide) (State.put_only (by decide) (State.put_only (by decide)
      (State.put_only (by decide) (State.setEngine_only (by decide) (Only.refl _ _)))))))

theorem State.joinRuns_done (g : Nat) (l : List Nat) (s : State) (hn : l.Nodup) {u : State}
    (hu : u = l.foldl (fun s t => s.joinRun g t) s) :
    (∀ t ∈ l, u.tile t = (s.tile t).joining g) ∧ (∀ t, t ∉ l → u.tile t = s.tile t) ∧ ∀ k, u.group k = s.group k := by
  obtain ⟨k1, k2⟩ := foldl_each State.tile (fun s t => s.joinRun g t) (fun r => r.joining g)
    (fun s t => (tile_of_only (s.joinRun_split g t) (by decide) t).trans (State.tile_setTile _ _ _))
    (fun s t u h => (tile_of_only (s.joinRun_split g t) (by decide) u).trans (State.tile_setTile_ne _ _ h)) l s hn
  rw [hu]
  refine ⟨k1, k2, fun k => ?_⟩
  have h : ∀ (l : List Nat) (s : State), (l.foldl (fun s t => s.joinRun g t) s).group k = s.group k := by
    intro l
    induction l with
    | nil => exact fun _ => rfl
    | cons a l ih =>
      intro s
      rw [List.foldl_cons, ih, group_of_only (s.joinRun_split g a) (by decide), State.setTile_group]
  exact h l s

/-- Every channel group takes INIT (R220). -/
theorem State.initGroups_done (s : State) {k : Nat} (hk : k < 32) :
    s.initGroups.flag F.group_STATE k = s.flag F.group_INIT k := by
  obtain ⟨v, hv, hf⟩ := foldl_at (fun s k => s.image .group k)
    (fun s k => s.putFlag F.group_STATE k (s.flag F.group_INIT k)) (List.range 32) s
    (fun s t ht u hu hn => State.image_setImage_index _ .group _ (by
      rw [show Rec.group.place.count = 32 from rfl, Nat.mod_eq_of_lt (List.mem_range.mp ht),
        Nat.mod_eq_of_lt (List.mem_range.mp hu)]
      exact Ne.symm hn)) List.nodup_range k (List.mem_range.mpr hk)
  have h1 : s.initGroups.flag F.group_STATE k = (v.putFlag F.group_STATE k (v.flag F.group_INIT k)).flag F.group_STATE k := by
    unfold State.flag State.get
    exact congrArg (fun i => decide (bits i F.group_STATE.lo F.group_STATE.width = 1)) hf
  rw [h1, State.flag_putFlag _ _ _ _ (by decide)]
  unfold State.flag State.get
  exact congrArg (fun i => decide (bits i F.group_INIT.lo F.group_INIT.width = 1)) hv

/-- The group that RUN_START forms, as its request says (R358). -/
def Request.runGroup (r : Request) (base : Nat) : RunGroup :=
  { RunGroup.init with
    state := .running, mask := r.at 0 2, owner := r.fn, policy := r.at 2 1, shots := r.at 4 4, gap := r.at 8 4, base
    startEvc := if r.at 12 2 = 0xFFFF then none else some (r.at 12 2)
    awaitStart := decide (r.at 12 2 ≠ 0xFFFF) }

/-- The tiles of the request have joined the group, and every channel group has its INIT. -/
def State.started (s : State) (r : Request) (g : Nat) : State :=
  ((bitList (r.at 0 2) 16).foldl (fun s t => s.joinRun g t) (s.setGroup g (r.runGroup s.firstBase))).initGroups

theorem State.started_only (s : State) (r : Request) (g : Nat) :
    Only [.runs, .engines, .image .runStatus, .image .counters, .blocking, .image .biasStatus, .bias, .image .group] s
      (s.started r g) :=
  State.initGroups_only (by decide) (Only.foldl (fun _ _ hx => State.joinRun_only (by decide) hx) _
    (State.setGroup_only (by decide) (Only.refl _ s)))

theorem State.started_done (s : State) (r : Request) (g : Nat) {u : State} (hu : u = s.started r g) :
    u.group g = r.runGroup s.firstBase
    ∧ (∀ i ∈ bitList (r.at 0 2) 16, u.tile i = { TileRun.init with group := some g, suspect := (s.tile i).suspect })
    ∧ (∀ i, i ∉ bitList (r.at 0 2) 16 → u.tile i = s.tile i)
    ∧ ∀ k < 32, u.flag F.group_STATE k = s.flag F.group_INIT k := by
  obtain ⟨a, ha⟩ : ∃ a, a = s.setGroup g (r.runGroup s.firstBase) := ⟨_, rfl⟩
  obtain ⟨b, hb⟩ : ∃ b, b = (bitList (r.at 0 2) 16).foldl (fun s t => s.joinRun g t) a := ⟨_, rfl⟩
  have e : u = b.initGroups := by
    rw [hu, hb, ha]
    rfl
  have o : Only [.image .group] b u := e ▸ State.initGroups_only (List.Subset.refl _) (Only.refl _ b)
  have ob : Only [.runs, .engines, .image .runStatus, .image .counters, .blocking, .image .biasStatus, .bias] a b :=
    hb ▸ Only.foldl (fun _ _ hx => State.joinRun_only (List.Subset.refl _) hx) _ (Only.refl _ a)
  obtain ⟨k1, k2, k3⟩ := State.joinRuns_done g _ a (bitList_nodup _ _) hb
  have ta : ∀ i, a.tile i = s.tile i := fun i => by
    rw [ha]
    exact State.setGroup_tile _ _ _ _
  refine ⟨?_, fun i hi => ?_, fun i hi => ?_, fun k hk => ?_⟩
  · rw [group_of_only o (by decide), k3, ha]
    exact State.group_setGroup _ _ _
  · rw [tile_of_only o (by decide), k1 i hi, ta]
    rfl
  · rw [tile_of_only o (by decide), k2 i hi, ta]
  · rw [e, State.initGroups_done b hk, ob.flag (by decide), ha]
    rfl

/-- RUN_START answers with the group and, where no start event is awaited, the first base (R358). -/
theorem State.startRun_ok (s : State) (r : Request) (h : s.upload.patchSince = none) : s.startRun r =
    .ok (s.started r s.freeGroup)
      (leBytes s.freeGroup 1 ++ zeros 7 ++ leBytes (if r.at 12 2 = 0xFFFF then s.firstBase else 0) 8) := by
  have o := s.started_only r s.freeGroup
  have hs : (s.started r s.freeGroup).stopEngines = s.started r s.freeGroup := State.stopEngines_none (by
    rw [show (s.started r s.freeGroup).upload = s.upload from o .upload (by decide)]
    exact h)
  have hb : (s.started r s.freeGroup).firstBase = s.firstBase := by
    unfold State.firstBase
    rw [si_of_only o (by decide)]
  have e : s.startRun r = .ok (s.started r s.freeGroup).stopEngines (leBytes s.freeGroup 1 ++ zeros 7
      ++ leBytes (if r.at 12 2 = 0xFFFF then (s.started r s.freeGroup).stopEngines.firstBase else 0) 8) := by
    have hi : (if r.at 12 2 = 0xFFFF then none else some (r.at 12 2) : Option Nat).isSome = decide (r.at 12 2 ≠ 0xFFFF) := by
      split
      · simp [*]
      · simp [*]
    unfold State.startRun State.started Request.runGroup
    simp only [hi, ne_eq, decide_not, Bool.not_eq_true', decide_eq_false_iff_not, ite_not]
  rw [e, hs, hb]

end Machine
/-- The row RUN_START (R201, R358). -/
theorem runStart_effects {m : Fin 16} {s : State} {g : Nat} (h : Passes s m 0x0301 runStartCommand) (hg : g = s.freeGroup)
    (hp : s.upload.patchSince = none) : Runs (.runStart m) s fun t =>
      Done s t m (leBytes g 1 ++ zeros 7 ++ leBytes (if (s.request m).at 12 2 = 0xFFFF then s.firstBase else 0) 8) fun u =>
        u.group g = { RunGroup.init with
          state := .running, mask := (s.request m).at 0 2, owner := (s.request m).fn, policy := (s.request m).at 2 1
          shots := (s.request m).at 4 4, gap := (s.request m).at 8 4, base := s.firstBase
          startEvc := if (s.request m).at 12 2 = 0xFFFF then none else some ((s.request m).at 12 2)
          awaitStart := decide ((s.request m).at 12 2 ≠ 0xFFFF) }
        ∧ (∀ i ∈ bitList ((s.request m).at 0 2) 16, u.tile i =
          { TileRun.init with group := some g, suspect := (s.tile i).suspect })
        ∧ (∀ i, i ∉ bitList ((s.request m).at 0 2) 16 → u.tile i = s.tile i)
        ∧ ∀ k < 32, u.flag F.group_STATE k = s.flag F.group_INIT k := by
  subst hg
  refine h.done rfl (s.taken.startRun_ok (s.request m) hp) ?_ (s.taken.started_done (s.request m) s.freeGroup rfl)
  exact mailbox_of_only (s.taken.started_only (s.request m) s.freeGroup) (by decide) m

end Sys2Proof
end

section
namespace Sys2Proof
open Machine
namespace Machine

/-! ### Runs that are stopped (R359) -/

theorem State.runFigures_congr {s u : State} {g : Nat} (h1 : (u.group g).seq = (s.group g).seq)
    (h2 : (u.group g).voided = (s.group g).voided) : u.runFigures g = s.runFigures g := by
  unfold State.runFigures
  rw [h1, h2]

/-- The engines of a list are told to halt, or no longer. -/
theorem State.setHalts_done (b : Bool) (l : List Nat) (s : State) :
    ∀ t ∈ l, ((l.foldl (fun s t => s.setEngine t { s.engine t with haltPending := b }) s).engine t).haltPending = b :=
  (foldl_gives (P := fun s t => (s.engine t).haltPending = b)
    (fun _ _ => congrArg Engine.haltPending (State.engine_setEngine _ _ _)) (fun s t u h => by
      by_cases e : u = t
      · rw [e, State.engine_setEngine]
      · rw [State.engine_setEngine_ne _ _ e]
        exact h) l s).1

/-- HALT goes to the engines of a group, voids its shot and ends its run. -/
theorem State.sendHalt_done (s : State) (g : Nat) (hi : (s.group g).inShot = true) {u : State} (hu : u = s.sendHalt g) :
    (u.group g).abort = true ∧ (∀ i ∈ s.members g, (u.engine i).haltPending = true)
      ∧ ∀ i ∈ s.members g, (s.tile i).group = some g → (u.tile i).voided = true := by
  obtain ⟨a, ha⟩ : ∃ a, a = ((s.members g).foldl State.demandHalt s).demandHalt 16 := ⟨_, rfl⟩
  obtain ⟨b, hb⟩ : ∃ b, b = (s.members g).foldl State.voidShot a := ⟨_, rfl⟩
  have oa : Only [.engines] s a := ha ▸ State.demandHalt_only (List.Subset.refl _)
    (Only.foldl (fun _ _ hx => State.demandHalt_only (List.Subset.refl _) hx) _ (Only.refl _ s))
  have ob : Only [.runs, .image .runStatus, .acq] a b :=
    hb ▸ Only.foldl (fun _ _ hx => State.voidShot_only (List.Subset.refl _) hx) _ (Only.refl _ a)
  have am : a.members g = s.members g := State.members_of_only oa (by decide) g
  have e : u = b.setGroup g { b.group g with abort := true } := by
    rw [hu, hb, ← am, ha]
    rfl
  have hh : ∀ i ∈ s.members g, (a.engine i).haltPending = true := fun i hi => by
    have e : a = (s.members g ++ [16]).foldl (fun s t => s.setEngine t { s.engine t with haltPending := true }) s := by
      rw [List.foldl_append, ha]
      rfl
    rw [e]
    exact State.setHalts_done true _ s i (List.mem_append_left _ hi)
  obtain ⟨-, kv⟩ := State.voidShots_voided (s.members g) a
  rw [← hb] at kv
  rw [e]
  refine ⟨by rw [State.group_setGroup], fun i hi => ?_, fun i hm hg => ?_⟩
  · rw [State.setGroup_engine, engine_of_only ob (by decide)]
    exact hh i hi
  · rw [State.setGroup_tile]
    refine kv i hm g ?_ ?_ (am ▸ hm)
    · rw [tile_of_only oa (by decide)]
      exact hg
    · rw [group_of_only oa (by decide)]
      exact .inl hi

/-- A stop that is withdrawn. -/
theorem State.withdrawStop_done (s : State) (g : Nat) {u : State} (hu : u = s.withdrawStop g) :
    u.group g = { s.group g with stopAfter := false, abort := false }
      ∧ ∀ i ∈ s.members g, (u.engine i).haltPending = false := by
  obtain ⟨a, ha⟩ : ∃ a, a = (s.members g ++ [16]).foldl
    (fun (s : State) t => s.setEngine t { s.engine t with haltPending := false }) s := ⟨_, rfl⟩
  have oa : Only [.engines] s a :=
    ha ▸ Only.foldl (fun _ _ hx => State.setEngine_only (List.Subset.refl _) hx) _ (Only.refl _ s)
  have e : u = a.setGroup g { s.group g with stopAfter := false, abort := false } := by
    rw [← group_of_only oa (by decide) g, hu, ha]
    rfl
  rw [e]
  refine ⟨State.group_setGroup _ _ _, fun i hi => ?_⟩
  rw [State.setGroup_engine, ha]
  exact State.setHalts_done false _ s i (List.mem_append_left _ hi)

theorem exec_runStopTimeout {m : Fin 16} {s : State} {d : Deferred} {g : Nat} (hd : s.deferredOf m = some d)
    (hw : d.wait = .runStop g) (h : d.since + 6 * Config.ticksPerS ≤ s.clock.now) :
    exec (.runStopTimeout m) s = .next ((s.fresh.withdrawStop g).finish d .timeout []) := by
  have hx : s.fresh.expired d (6 * Config.ticksPerS) = true := decide_eq_true h
  change Host.Outcome.next (match s.fresh.deferredOf m with
    | some d => match d.wait with
      | .runStop g =>
        if s.fresh.expired d (6 * Config.ticksPerS) then (s.fresh.withdrawStop g).finish d .timeout [] else s.fresh
      | _ => s.fresh
    | none => s.fresh) = _
  rw [show s.fresh.deferredOf m = some d from hd]
  dsimp only
  rw [hw]
  exact congrArg Host.Outcome.next (if_pos hx)

end Machine

/-- The row RUN_STOP (R359). -/
theorem runStop_effects {m : Fin 16} {s : State} {g : Nat} (h : Passes s m 0x0302 runStopCommand)
    (hg : g = (s.request m).at 0 1) (hd : s.deferredOf m = none) :
    ((s.group g).inShot = false → Runs (.runStop m) s fun t => Answered s t m .ok 0 (s.runFigures g)
      ∧ (t.group g).state = .idle ∧ ∀ i ∈ s.members g, (t.tile i).group = none)
    ∧ ((s.group g).inShot = true → (s.request m).at 1 1 = 0 → Runs (.runStop m) s fun t =>
      Deferring s t m (.runStop g) ∧ t.group g = { s.group g with stopAfter := true })
    ∧ ((s.group g).inShot = true → (s.request m).at 1 1 = 1 → Runs (.runStop m) s fun t =>
      Deferring s t m (.runStop g) ∧ (t.group g).abort = true
        ∧ (∀ i ∈ s.members g, (t.engine i).haltPending = true)
        ∧ ∀ i ∈ s.members g, (s.tile i).group = some g → (t.tile i).voided = true) := by
  subst hg
  refine ⟨fun hi => ?_, fun hi hk => ?_, fun hi hk => ?_⟩
  · obtain ⟨k1, k2, -⟩ := s.taken.endRun_done ((s.request m).at 0 1)
    have hm := (s.taken.endRun_kept ((s.request m).at 0 1) (m := m) hd).1
    have hf : (s.taken.endRun ((s.request m).at 0 1)).runFigures ((s.request m).at 0 1) =
        s.runFigures ((s.request m).at 0 1) := State.runFigures_congr (by rw [k1]; rfl) (by rw [k1]; rfl)
    have ha : (runStopCommand (s.request m) s.taken).act s.taken = .ok (s.taken.endRun ((s.request m).at 0 1))
        ((s.taken.endRun ((s.request m).at 0 1)).runFigures ((s.request m).at 0 1)) :=
      if_pos (show (!(s.group ((s.request m).at 0 1)).inShot) = true by rw [hi]; rfl)
    rw [hf] at ha
    have o := Answered.only (u := s.taken.endRun ((s.request m).at 0 1)) (s.request m) .ok 0
      (s.runFigures ((s.request m).at 0 1))
    refine h.replied rfl ha ⟨Answered.reply hm, ?_, fun i hi => ?_⟩
    · rw [group_of_only o (by decide), k1]
    · rw [tile_of_only o (by decide)]
      exact k2 i hi
  · have ha : (runStopCommand (s.request m) s.taken).act s.taken = .wait (s.taken.setGroup ((s.request m).at 0 1)
        { s.taken.group ((s.request m).at 0 1) with stopAfter := true }) (.runStop ((s.request m).at 0 1)) :=
      (if_neg (show ¬ (!(s.group ((s.request m).at 0 1)).inShot) = true by rw [hi]; decide)).trans (if_pos hk)
    refine h.deferring rfl ha rfl rfl fun v o => ?_
    rw [group_of_only o (by decide)]
    exact State.group_setGroup _ _ _
  · have ha : (runStopCommand (s.request m) s.taken).act s.taken =
        .wait (s.taken.sendHalt ((s.request m).at 0 1)) (.runStop ((s.request m).at 0 1)) :=
      (if_neg (show ¬ (!(s.group ((s.request m).at 0 1)).inShot) = true by rw [hi]; decide)).trans
        (if_neg (by rw [hk]; decide))
    obtain ⟨k1, k2, k3⟩ := s.taken.sendHalt_done ((s.request m).at 0 1) hi rfl
    have os := State.sendHalt_only (g := (s.request m).at 0 1) (List.Subset.refl _) (Only.refl _ s.taken)
    refine h.deferring rfl ha (os .mailboxes (by decide)).2.2 (mailbox_of_only os (by decide) m) fun v o => ⟨?_, fun i hm => ?_,
      fun i hm hg => ?_⟩
    · rw [group_of_only o (by decide)]
      exact k1
    · rw [engine_of_only o (by decide)]
      exact k2 i hm
    · rw [tile_of_only o (by decide)]
      exact k3 i hm hg

/-- The row RUN_STOP_TIMEOUT (R356). -/
theorem runStopTimeout_effects {m : Fin 16} {s : State} {d : Deferred} {g : Nat} (hd : s.deferredOf m = some d)
    (hw : d.wait = .runStop g) (hx : d.discard = false) (h : d.since + 6 * Config.ticksPerS ≤ s.clock.now) :
    Runs (.runStopTimeout m) s fun t =>
      Ended s t d .timeout [] ∧ t.group g = { s.group g with stopAfter := false, abort := false }
        ∧ ∀ i ∈ s.members g, (t.engine i).haltPending = false := by
  obtain ⟨k1, k2⟩ := s.fresh.withdrawStop_done g rfl
  have o : Only [.out, .engines, .runs] s (s.fresh.withdrawStop g) :=
    State.withdrawStop_only (by decide) (State.fresh_only (by decide) (Only.refl _ s))
  have of := State.finish_only (d := d) (st := .timeout) (payload := []) (List.Subset.refl _)
    (Only.refl _ (s.fresh.withdrawStop g))
  refine ⟨_, exec_runStopTimeout hd hw h, (Ended.finish hx .timeout []).of_mailbox (mailbox_of_only o (by decide) d.m), ?_,
    fun i hi => ?_⟩
  · rw [group_of_only of (by decide)]
    exact k1
  · rw [engine_of_only of (by decide)]
    exact k2 i hi

end Sys2Proof
end

section
namespace Sys2Proof
open Machine
namespace Machine

/-! ### Runs that go on, jumps and status (R206, R208, R360) -/

/-- A run goes on where no start event has been latched for it (R206). -/
theorem State.resumeRun_done (s : State) (g : Nat) (h : (s.group g).startLatch = none) {u : State} (hu : u = s.resumeRun g) :
    u.group g = { s.group g with
      state := .running, missing := [], base := max (s.group g).base ((s.si + 15) / 16 * 16 + 16 * Config.fetchLead) }
    ∧ ∀ i ∈ s.members g, u.get F.runStatus_RUN_STATE i = 1 := by
  obtain ⟨a, ha⟩ : ∃ a, a = s.setGroup g { s.group g with
    state := .running, missing := [], base := max (s.group g).base ((s.si + 15) / 16 * 16 + 16 * Config.fetchLead) } := ⟨_, rfl⟩
  obtain ⟨b, hb⟩ : ∃ b, b = (a.members g).foldl (fun s t => s.put F.runStatus_RUN_STATE t 1) a := ⟨_, rfl⟩
  have ob : Only [.image .runStatus] a b :=
    hb ▸ Only.foldl (fun _ _ hx => State.put_only (by decide) hx) _ (Only.refl _ a)
  have bg := (group_of_only ob (by decide) g).trans (congrArg (State.group · g) ha)
  rw [State.group_setGroup] at bg
  have am : a.members g = s.members g := ha ▸ State.setGroup_members s (by rfl) g
  have e : u = b := by
    have : b.armStart g = b := by
      unfold State.armStart
      dsimp only
      rw [bg]
      dsimp only
      rw [h]
    rw [← this, hu, hb, ha]
    rfl
  rw [e]
  refine ⟨bg, fun i hi => ?_⟩
  rw [hb]
  exact get_foldl_put F.runStatus_RUN_STATE 1 (a.members g) a (fun t ht => bitList_lt ht) (by rw [am]; exact hi)

/-- A jump request is on its way to every tile of a list. -/
theorem State.postJumps_done (j : Jump) (l : List Nat) (s : State) (hn : l.Nodup) {u : State}
    (hu : u = l.foldl (fun s t => s.postJump t j) s) :
    (∀ t ∈ l, u.tile t = { s.tile t with jumps := (s.tile t).jumps ++ [j] }) ∧ ∀ t, t ∉ l → u.tile t = s.tile t := by
  rw [hu]
  exact foldl_each State.tile (fun s t => s.postJump t j) (fun r => { r with jumps := r.jumps ++ [j] })
    (fun s t => State.tile_setTile _ _ _) (fun s t u h => State.tile_setTile_ne _ _ h) l s hn

end Machine

/-- The row RUN_RESUME (R206). -/
theorem runResume_effects {m : Fin 16} {s : State} {g : Nat} (h : Passes s m 0x0303 runResumeCommand)
    (hg : g = (s.request m).at 0 1) (hl : (s.group g).startLatch = none) : Runs (.runResume m) s fun t => Done s t m [] fun u =>
      u.group g = { s.group g with
        state := .running, missing := []
        base := max (s.group g).base ((s.si + 15) / 16 * 16 + 16 * Config.fetchLead) }
      ∧ ∀ i ∈ s.members g, u.get F.runStatus_RUN_STATE i = 1 := by
  subst hg
  exact h.done rfl rfl (mailbox_of_only (State.resumeRun_only (List.Subset.refl _) (Only.refl _ s.taken)) (by decide) m)
    (s.taken.resumeRun_done _ hl rfl)

/-- The row RUN_JUMP (R360). -/
theorem runJump_effects {m : Fin 16} {s : State} (h : Passes s m 0x0304 runJumpCommand) :
    Runs (.runJump m) s fun t => Done s t m [] fun u =>
      (∀ i ∈ bitList ((s.request m).at 0 2) 16, u.tile i = { s.tile i with
          jumps := (s.tile i).jumps ++ [⟨(s.request m).at 2 1, 0, none, false⟩] })
        ∧ ∀ i, i ∉ bitList ((s.request m).at 0 2) 16 → u.tile i = s.tile i :=
  h.done rfl rfl (mailbox_of_only (ps := [.runs])
      (Only.foldl (fun _ _ hx => State.postJump_only (List.Subset.refl _) hx) _ (Only.refl _ s.taken)) (by decide) m)
    (State.postJumps_done _ _ s.taken (bitList_nodup _ _) rfl)

/-- The row RUN_STATUS (R208). -/
theorem runStatus_effects {m : Fin 16} {s : State} {x : RunGroup} (h : Passes s m 0x0305 runStatusCommand)
    (hx : x = s.group ((s.request m).at 0 1)) : Runs (.runStatus m) s fun t => Answered s t m .ok 0
      (leBytes x.state.code 1 ++ leBytes x.policy 1 ++ leBytes x.mask 2 ++ leBytes x.shots 4
        ++ leBytes (x.seq % 2 ^ 32) 4 ++ leBytes (x.voided % 2 ^ 32) 4) := by
  subst hx
  rw [List.append_assoc _ (leBytes _ 4) (leBytes _ 4)]
  exact h.query rfl rfl

/-- Settles O40: the rows one by one. -/
theorem runCommandEffects : Obligations.RunCommandEffects :=
  ⟨fun _ _ _ => runStart_effects, fun _ _ _ => runStop_effects, fun _ _ _ _ => runStopTimeout_effects,
    fun _ _ _ => runResume_effects, fun _ _ => runJump_effects, fun _ _ _ => runStatus_effects⟩

end Sys2Proof
end

section
namespace Sys2Proof
open Machine
namespace Machine

/-! ### Refill rings (R204, R341, R342) -/

/-- A ring that works has the link up. -/
theorem State.linkUp_of_ringRuns {s : State} {f i : Nat} (h : s.ringRuns f i = true) : s.flag F.linkStatus_LINK_UP = true := by
  unfold State.ringRuns State.hostReaches at h
  simp only [Bool.and_eq_true] at h
  obtain ⟨⟨⟨-, ⟨hl, -⟩, -⟩, -⟩, -⟩ := h
  exact hl

/-- A refill descriptor that completes is written back with its status. -/
theorem State.refillEnd_done (s : State) (f r d : Nat) (st : Status) (h : s.flag F.linkStatus_LINK_UP = true) :
    WrittenBack s (s.refillEnd f r d st) f r (refillDone d st) ∧ (s.refillEnd f r d st).host.refills = s.host.refills := by
  obtain ⟨v, hv⟩ : ∃ v, v = if st = .sealMismatch then s.report 3 false 0xFFF r else s := ⟨_, rfl⟩
  have o : Only [.log, .image .logStatus, .out, .hatband] s v :=
    hv ▸ Only.ite (State.report_only (List.Subset.refl _) (Only.refl _ s)) (Only.refl _ s)
  have hh : v.host = s.host := host_of_only o (by decide) (by decide)
  have e : s.refillEnd f r d st = v.writeback f r (refillDone d st) (bit d 208) := by
    rw [hv]
    rfl
  obtain ⟨k1, -, k2, -⟩ := v.writeback_done f r (refillDone d st) (bit d 208) (by rw [o.flag (by decide)]; exact h)
  rw [e]
  exact ⟨Machine.WrittenBack.of k1 (congrArg HostIf.ci hh) fun g hg => o.get (by rw [hg]; decide) _, k2.trans (congrArg HostIf.refills hh)⟩

/-- What a segment's arrival leaves: its words and blocks in the tile, and the segment itself (R204). -/
theorem State.installSegment_done (s : State) (t : Nat) (x : Refill) {u : State} (hu : u = s.installSegment t x) :
    u.segment t x.segId = x.seg
    ∧ (∀ i (h : i < x.words.length), u.opWord t (x.seg.opAddr + i) = x.words[i])
    ∧ ((∀ b ∈ x.blocks, b.length = 256) → ∀ i (h : i < x.blocks.length), u.libRow t (x.seg.libFirst + i) = x.blocks[i]) := by
  obtain ⟨v, hv⟩ : ∃ v, v = (s.evictFor t x.segId x.seg).writeRows t x.seg.libFirst
    (x.blocks.map fun b => (b, crc32c b)) := ⟨_, rfl⟩
  have h1 : u.program.segments = v.program.segments.list (1024 * t + x.segId) x.seg := by
    rw [hu, hv]
    rfl
  have h2 : u.program.opMem = v.program.opMem.writeAll 0 (32768 * t + x.seg.opAddr) x.words := by
    rw [hu, hv]
    rfl
  have h3 : u.memory = v.memory := by
    rw [hu, hv]
    rfl
  refine ⟨?_, fun i h => ?_, fun hb i h => ?_⟩
  · unfold State.segment
    rw [h1]
    exact SMap.read_list_self _ _ _ _
  · unfold State.opWord
    rw [h2, ← Nat.add_assoc]
    exact SMap.read_writeAll _ _ _ _ _ h
  · have k := (State.writeRows_row (x.blocks.map fun b => (b, crc32c b)) (s.evictFor t x.segId x.seg) t x.seg.libFirst
      (by simpa using hb) i (by simpa using h)).1
    rw [← hv, List.getElem_map] at k
    unfold State.libRow at k ⊢
    rw [h3]
    exact k

/-- A refill descriptor that does not stand ends at once (R342). -/
theorem State.takeRefill_refused {s : State} {f r d : Nat} {data : List Byte} {seals : List (BitVec 32)} {p : Bool} {st : Status}
    (h : s.refillVerdict r d data seals p = some st) : s.takeRefill f r d data seals p = s.refillEnd f r d st := by
  unfold State.takeRefill
  rw [h]

/-- One that stands is under way. -/
theorem State.takeRefill_stands {s : State} {f r d : Nat} {data : List Byte} {seals : List (BitVec 32)} {p : Bool}
    (h : s.refillVerdict r d data seals p = none) :
    (s.takeRefill f r d data seals p).host.refills.find (ringKey f r) = some
      { desc := d, segId := segmentId (le (slice data 0 32) 0 32), seg := segmentOf (le (slice data 0 32) 0 32)
        words := transferWords data (segmentOf (le (slice data 0 32) 0 32))
        blocks := transferLib data (segmentOf (le (slice data 0 32) 0 32)), status := .ok } := by
  unfold State.takeRefill
  rw [h]
  exact SMap.find_list _ _ _

theorem exec_refillDescriptor {f : Fin 8} {r : Fin 16} {d : BitVec 256} {data : List Byte} {seals : List (BitVec 32)}
    {p : Bool} {s : State} (h1 : s.ringRuns f r = true) (h2 : s.ringCount (ringKey f r) ≠ 0)
    (h3 : s.host.refills.find (ringKey f r) = none) : exec (.refillDescriptor f r d data seals p) s =
      .next (s.fresh.takeRefill f r d.toNat data seals p) := by
  refine congrArg Host.Outcome.next (if_pos ?_)
  change (s.ringRuns f r && decide (s.ringCount (ringKey f r) ≠ 0) && (s.host.refills.find (ringKey f r)).isNone) = true
  simp [h1, h2, h3]

theorem exec_segmentResident {f : Fin 8} {r : Fin 16} {s : State} {x : Refill}
    (hx : s.host.refills.find (ringKey f r) = some x) (ho : s.storeOpen = true) : exec (.segmentResident f r) s =
      .next ((((s.fresh.setHost { s.host with refills := s.host.refills.drop (ringKey f r) }).installSegment r x).moveBeats r
        (4 * bits x.desc 64 32)).refillEnd f r x.desc .ok) := by
  change Host.Outcome.next (match s.fresh.host.refills.find (ringKey f r) with
    | some x => if s.fresh.storeOpen then _ else s.fresh
    | none => s.fresh) = _
  rw [show s.fresh.host.refills.find (ringKey f r) = some x from hx]
  exact congrArg Host.Outcome.next (if_pos ho)

end Machine

/-- The row REFILL_DESCRIPTOR (R342). -/
theorem refillDescriptor_effects {f : Fin 8} {r : Fin 16} {d : BitVec 256} {data : List Byte} {seals : List (BitVec 32)}
    {p : Bool} {s : State} (h1 : s.ringRuns f r = true) (h2 : s.ringCount (ringKey f r) ≠ 0)
    (h3 : s.host.refills.find (ringKey f r) = none) :
    (s.refillVerdict r d.toNat data seals p = none → Runs (.refillDescriptor f r d data seals p) s fun t =>
      let g := segmentOf (le (slice data 0 32) 0 32)
      t.host.refills.find (ringKey f r) = some
        { desc := d.toNat, segId := segmentId (le (slice data 0 32) 0 32), seg := g, words := transferWords data g,
          blocks := transferLib data g, status := .ok })
    ∧ (∀ st, s.refillVerdict r d.toNat data seals p = some st → Runs (.refillDescriptor f r d data seals p) s fun t =>
      WrittenBack s t f r (refillDone d.toNat st) ∧ t.memory = s.memory ∧ t.program = s.program) := by
  have e := exec_refillDescriptor (d := d) (data := data) (seals := seals) (p := p) h1 h2 h3
  refine ⟨fun hv => ⟨_, e, State.takeRefill_stands (s := s.fresh) hv⟩, fun st hv => ?_⟩
  rw [State.takeRefill_refused (s := s.fresh) hv] at e
  have o : Only [.log, .image .logStatus, .out, .hatband, .host, .image .ring] s (s.fresh.refillEnd f r d.toNat st) :=
    State.refillEnd_only (List.Subset.refl _) (State.fresh_only (by decide) (Only.refl _ s))
  exact ⟨_, e, (s.fresh.refillEnd_done f r d.toNat st (State.linkUp_of_ringRuns h1)).1,
    memory_of_only o (by decide) (by decide) (by decide), program_of_only o (by decide) (by decide)⟩

/-- The row SEGMENT_RESIDENT (R204). -/
theorem segmentResident_effects {f : Fin 8} {r : Fin 16} {s : State} {x : Refill}
    (hx : s.host.refills.find (ringKey f r) = some x) (ho : s.storeOpen = true) (hl : s.flag F.linkStatus_LINK_UP = true) :
    Runs (.segmentResident f r) s fun t =>
      t.host.refills.find (ringKey f r) = none ∧ WrittenBack s t f r (refillDone x.desc .ok)
        ∧ t.segment r x.segId = x.seg ∧ (∀ i (h : i < x.words.length), t.opWord r (x.seg.opAddr + i) = x.words[i])
        ∧ ((∀ b ∈ x.blocks, b.length = 256) → ∀ i (h : i < x.blocks.length),
          t.libRow r (x.seg.libFirst + i) = x.blocks[i]) := by
  have e := exec_segmentResident hx ho
  obtain ⟨a, ha⟩ : ∃ a, a = s.fresh.setHost { s.host with refills := s.host.refills.drop (ringKey f r) } := ⟨_, rfl⟩
  obtain ⟨b, hb⟩ : ∃ b, b = a.installSegment r x := ⟨_, rfl⟩
  obtain ⟨c, hc⟩ : ∃ c, c = b.moveBeats r (4 * bits x.desc 64 32) := ⟨_, rfl⟩
  rw [← ha, ← hb, ← hc] at e
  have ob : Only [.loaded, .library, .memory, .runs] a b :=
    hb ▸ State.installSegment_only (List.Subset.refl _) (Only.refl _ a)
  have oc : Only [.memory] b c := hc ▸ State.moveBeats_only (List.Subset.refl _) (Only.refl _ b)
  have oac : Only [.loaded, .library, .memory, .runs] a c := ob.trans (oc.mono (by decide))
  have oe := State.refillEnd_only (f := f) (r := r) (d := x.desc) (st := .ok) (List.Subset.refl _) (Only.refl _ c)
  have fl : ∀ g i, c.get g i = s.get g i := fun g i => by
    rw [oac.get (by simp), ha]
    rfl
  have ch : c.host = a.host := host_of_only oac (by decide) (by decide)
  obtain ⟨k1, k2⟩ := c.refillEnd_done f r x.desc .ok (by unfold State.flag at hl ⊢; rw [fl]; exact hl)
  obtain ⟨i1, i2, i3⟩ := a.installSegment_done r x hb
  refine ⟨_, e, ?_, Machine.WrittenBack.of k1 (by rw [ch, ha]; rfl) fun g _ => fl g _, ?_, fun i h => ?_, fun hx i h => ?_⟩
  · rw [k2, ch, ha]
    exact SMap.find_drop_self _ _
  · rw [segment_of_only oe (by decide), segment_of_only oc (by decide)]
    exact i1
  · unfold State.opWord
    rw [opMem_of_only oe (by decide), opMem_of_only oc (by decide)]
    exact i2 i h
  · rw [(library_of_only oe (by decide)).2.1, (library_of_only oc (by decide)).2.1]
    exact i3 hx i h

end Sys2Proof
end

section
namespace Sys2Proof
open Machine
namespace Machine

/-! ### Capture rings (R241, R343) -/

/-- A capture buffer is written back with its figures. -/
theorem State.captureEnd_done (s : State) (f c : Nat) (b : CapBuf) (st : Status) (h : s.flag F.linkStatus_LINK_UP = true) :
    WrittenBack s (s.captureEnd f c b st) f (16 + c) (captureDone b st)
      ∧ (s.captureEnd f c b st).host.capBufs.find (ringKey f (16 + c)) = none := by
  obtain ⟨v, hv⟩ : ∃ v, v = s.setHost { s.host with capBufs := s.host.capBufs.drop (ringKey f (16 + c)) } := ⟨_, rfl⟩
  have e : s.captureEnd f c b st = v.writeback f (16 + c) (captureDone b st) (bit b.desc 112) := by
    rw [hv]
    rfl
  obtain ⟨k1, -, -, k2⟩ := v.writeback_done f (16 + c) (captureDone b st) (bit b.desc 112) (by rw [hv]; exact h)
  rw [e, k2]
  refine ⟨Machine.WrittenBack.of k1 (by rw [hv]; rfl) fun g _ => by rw [hv]; rfl, ?_⟩
  rw [hv]
  exact SMap.find_drop_self _ _

/-- A capture buffer with one more unit of `n` bytes, the first at `now`. -/
def CapBuf.filledBy (b : CapBuf) (n now : Nat) : CapBuf :=
  { b with filled := b.filled + n, units := b.units + 1, first := if b.units = 0 then now else b.first }

/-- The first unit of a buffer. -/
theorem CapBuf.filledBy_first (desc n now : Nat) : ({ desc, filled := 0, units := 0, first := 0 } : CapBuf).filledBy n now =
    { desc, filled := 0 + n, units := 1, first := now } := rfl

/-- A further unit. -/
theorem CapBuf.filledBy_next {b : CapBuf} (h : b.units ≠ 0) (n now : Nat) :
    b.filledBy n now = { b with filled := b.filled + n, units := b.units + 1 } := by
  unfold CapBuf.filledBy
  rw [if_neg h]

/-- A unit that goes into a buffer: its bytes reach the host, and the buffer counts it. -/
theorem State.captureFill_done (s : State) (f c src : Nat) (b : CapBuf) (data : List Byte) :
    .hostWrite f (bits b.desc 0 64 + b.filled) data ∈ (s.captureFill f c src b data).out
      ∧ (s.captureFill f c src b data).host.capBufs.find (ringKey f (16 + c)) =
        some (b.filledBy data.length s.clock.now) := by
  obtain ⟨a, ha⟩ : ∃ a, a = s.emit (.hostWrite f (bits b.desc 0 64 + b.filled) data) := ⟨_, rfl⟩
  obtain ⟨v, hv⟩ : ∃ v, v = ((a.spend data.length).passUnit src data.length).moveBeats hostReader (beatsOf data.length) :=
    ⟨_, rfl⟩
  have o : Only [.free, .image .outQueue, .image .capStatus, .capture, .memory] a v :=
    hv ▸ State.moveBeats_only (by decide) (State.passUnit_only (by decide) (State.spend_only (by decide) (Only.refl _ a)))
  have e : s.captureFill f c src b data = v.setHost
      { v.host with capBufs := v.host.capBufs.list (ringKey f (16 + c)) (b.filledBy data.length v.clock.now) } := by
    rw [hv, ha]
    rfl
  have hn : v.clock.now = s.clock.now := by
    rw [show v.clock.now = a.clock.now from o .now (by decide), ha]
    rfl
  rw [e, hn]
  refine ⟨?_, SMap.find_list _ _ _⟩
  rw [State.setHost_out, show v.out = a.out from o .out (by decide), ha]
  exact List.mem_append_right _ (List.mem_singleton_self _)

section fill

variable {f : Fin 8} {c : Fin 16} {d : BitVec 256} {s : State} {data : List Byte}

/-- A capture ring that works and is not stalled takes the next unit of its source. -/
theorem exec_captureRingFill (h1 : s.ringRuns f (16 + c) = true) (h2 : s.flag F.ring_STALLED (ringKey f (16 + c)) = false)
    (h3 : s.captureUnit (s.get F.ring_SOURCE (ringKey f (16 + c))) = some data) :
    (s.host.capBufs.find (ringKey f (16 + c)) = none → exec (.captureRingFill f c d) s =
      .next (s.fresh.captureOpen f c (s.get F.ring_SOURCE (ringKey f (16 + c))) d.toNat data))
    ∧ ∀ b, s.host.capBufs.find (ringKey f (16 + c)) = some b → b.filled + data.length ≤ bits b.desc 64 32 →
      s.unitRefused (s.get F.ring_SOURCE (ringKey f (16 + c))) data.length = false → exec (.captureRingFill f c d) s =
        .next (s.fresh.captureFill f c (s.get F.ring_SOURCE (ringKey f (16 + c))) b data) := by
  have hs : ¬ (!s.fresh.ringRuns f (16 + c) || s.fresh.flag F.ring_STALLED (ringKey f (16 + c))) = true := by
    rw [show s.fresh.ringRuns f (16 + c) = true from h1, State.fresh_flag, h2]
    decide
  have hu : s.fresh.captureUnit (s.fresh.get F.ring_SOURCE (ringKey f (16 + c))) = some data := h3
  refine ⟨fun hb => congrArg Host.Outcome.next ((if_neg hs).trans ?_), fun b hb hl hr =>
    congrArg Host.Outcome.next ((if_neg hs).trans ?_)⟩
  · have hb : s.fresh.host.capBufs.find (ringKey f (16 + c)) = none := hb
    rw [hu, hb]
    rfl
  · have hb : s.fresh.host.capBufs.find (ringKey f (16 + c)) = some b := hb
    have hr : s.fresh.unitRefused (s.fresh.get F.ring_SOURCE (ringKey f (16 + c))) data.length = false := hr
    rw [hu, hb]
    exact if_pos (by rw [hr]; simpa using hl)

end fill

section captureOpen

variable {s : State} {f c src desc : Nat} {data : List Byte} (h1 : s.ringCount (ringKey f (16 + c)) ≠ 0)
  (h2 : captureForm desc = none)
include h1 h2

/-- A unit in an unusable page leaves a new buffer written back with BAD_VALUE (R241). -/
theorem State.captureOpen_refused (h : s.unitRefused src data.length = true) : s.captureOpen f c src desc data =
    s.captureEnd f c { desc, filled := 0, units := 0, first := 0 } .badValue :=
  (if_neg h1).trans ((if_neg (by rw [h2]; decide)).trans (if_pos h))

/-- A unit that does not fit leaves a new buffer written back with NO_SPACE, and stalls the ring. -/
theorem State.captureOpen_stalls (h : s.unitRefused src data.length = false) (hl : bits desc 64 32 < data.length) :
    s.captureOpen f c src desc data = (s.captureEnd f c { desc, filled := 0, units := 0, first := 0 } .noSpace).putFlag
      F.ring_STALLED (ringKey f (16 + c)) true :=
  (if_neg h1).trans ((if_neg (by rw [h2]; decide)).trans ((if_neg (ne_true_of_eq_false h)).trans (if_pos hl)))

/-- A unit that fits goes into a new buffer. -/
theorem State.captureOpen_fills (h : s.unitRefused src data.length = false) (hl : data.length ≤ bits desc 64 32) :
    s.captureOpen f c src desc data = s.captureFill f c src { desc, filled := 0, units := 0, first := 0 } data :=
  (if_neg h1).trans ((if_neg (by rw [h2]; decide)).trans ((if_neg (ne_true_of_eq_false h)).trans (if_neg (not_lt.mpr hl))))

end captureOpen

end Machine

/-- The row CAPTURE_RING_FILL (R241, R343). -/
theorem captureRingFill_effects {f : Fin 8} {c : Fin 16} {desc : BitVec 256} {s : State} {data : List Byte}
    (h1 : s.ringRuns f (16 + c) = true) (h2 : s.flag F.ring_STALLED (ringKey f (16 + c)) = false)
    (h3 : s.captureUnit (s.get F.ring_SOURCE (ringKey f (16 + c))) = some data) :
    (s.host.capBufs.find (ringKey f (16 + c)) = none → s.ringCount (ringKey f (16 + c)) ≠ 0 →
      captureForm desc.toNat = none →
      s.unitRefused (s.get F.ring_SOURCE (ringKey f (16 + c))) data.length = true →
      Runs (.captureRingFill f c desc) s fun t => WrittenBack s t f (16 + c)
        (captureDone { desc := desc.toNat, filled := 0, units := 0, first := 0 } .badValue))
    ∧ (s.host.capBufs.find (ringKey f (16 + c)) = none → s.ringCount (ringKey f (16 + c)) ≠ 0 →
      captureForm desc.toNat = none →
      s.unitRefused (s.get F.ring_SOURCE (ringKey f (16 + c))) data.length = false →
      (data.length ≤ bits desc.toNat 64 32 → Runs (.captureRingFill f c desc) s fun t =>
        .hostWrite f (bits desc.toNat 0 64 + 0) data ∈ t.out ∧ t.host.capBufs.find (ringKey f (16 + c)) =
          some { desc := desc.toNat, filled := 0 + data.length, units := 1, first := s.clock.now })
      ∧ (bits desc.toNat 64 32 < data.length → Runs (.captureRingFill f c desc) s fun t =>
        WrittenBack s t f (16 + c) (captureDone { desc := desc.toNat, filled := 0, units := 0, first := 0 } .noSpace)
          ∧ t.flag F.ring_STALLED (ringKey f (16 + c)) = true))
    ∧ (∀ b, s.host.capBufs.find (ringKey f (16 + c)) = some b → b.units ≠ 0 →
      s.unitRefused (s.get F.ring_SOURCE (ringKey f (16 + c))) data.length = false → b.filled + data.length ≤ bits b.desc 64 32 →
      Runs (.captureRingFill f c desc) s fun t => .hostWrite f (bits b.desc 0 64 + b.filled) data ∈ t.out
        ∧ t.host.capBufs.find (ringKey f (16 + c)) = some { b with filled := b.filled + data.length, units := b.units + 1 }) := by
  obtain ⟨e1, e2⟩ := exec_captureRingFill (d := desc) h1 h2 h3
  have hl := State.linkUp_of_ringRuns h1
  refine ⟨fun hb hc hf hr => ?_, fun hb hc hf hr => ⟨fun hn => ?_, fun hn => ?_⟩, fun b hb hu hr hn => ?_⟩
  · have e := e1 hb
    rw [State.captureOpen_refused (s := s.fresh) hc hf hr] at e
    exact ⟨_, e, (s.fresh.captureEnd_done f c _ _ hl).1⟩
  · have e := e1 hb
    rw [State.captureOpen_fills (s := s.fresh) hc hf hr hn] at e
    obtain ⟨k1, k2⟩ := s.fresh.captureFill_done f c (s.get F.ring_SOURCE (ringKey f (16 + c)))
      { desc := desc.toNat, filled := 0, units := 0, first := 0 } data
    exact ⟨_, e, k1, k2.trans (congrArg some (CapBuf.filledBy_first desc.toNat data.length s.clock.now))⟩
  · have e := e1 hb
    rw [State.captureOpen_stalls (s := s.fresh) hc hf hr hn] at e
    exact ⟨_, e, Machine.WrittenBack.onto (s.fresh.captureEnd_done f c _ _ hl).1 (State.putFlag_out _ _ _ _)
      (congrArg HostIf.ci (State.putFlag_host _ _ _ _)), State.flag_putFlag _ _ _ _ (by decide)⟩
  · obtain ⟨k1, k2⟩ := s.fresh.captureFill_done f c (s.get F.ring_SOURCE (ringKey f (16 + c))) b data
    exact ⟨_, e2 b hb hn hr, k1, k2.trans (congrArg some (CapBuf.filledBy_next hu _ _))⟩
/-- The row CAPTURE_FLUSH_TIMEOUT (R343). -/
theorem captureFlushTimeout_effects {f : Fin 8} {c : Fin 16} {s : State} {b : CapBuf}
    (hb : s.host.capBufs.find (ringKey f (16 + c)) = some b)
    (hf : b.first + s.get F.ring_FLUSH_US (ringKey f (16 + c)) * Config.ticksPerUs ≤ s.clock.now)
    (hl : s.flag F.linkStatus_LINK_UP = true) : Runs (.captureFlushTimeout f c) s fun t =>
      WrittenBack s t f (16 + c) (captureDone b .ok) ∧ t.host.capBufs.find (ringKey f (16 + c)) = none := by
  have e : exec (.captureFlushTimeout f c) s = .next (s.fresh.captureEnd f c b .ok) := by
    change Host.Outcome.next (match s.fresh.host.capBufs.find (ringKey f (16 + c)) with
      | some b => if b.first + s.fresh.get F.ring_FLUSH_US (ringKey f (16 + c)) * Config.ticksPerUs ≤ s.fresh.clock.now then
          s.fresh.captureEnd f c b .ok else s.fresh
      | none => s.fresh) = _
    rw [show s.fresh.host.capBufs.find (ringKey f (16 + c)) = some b from hb]
    exact congrArg Host.Outcome.next (if_pos hf)
  exact ⟨_, e, s.fresh.captureEnd_done f c b .ok hl⟩

end Sys2Proof
end

section
namespace Sys2Proof
open Machine

/-! ### What the host moves, and the 25GBASE-R port (R341, R346, R350) -/

/-- A PI or CI that the host moves (R341, R343, R344). -/
theorem ringPointers_effects {f : Fin 8} {r : Fin 16} {v : BitVec 32} {s : State} (h : s.hostReaches f = true) :
    Runs (.refillPiWrite f r v) s (fun t => t.host.pi.read 0 (ringKey f r) = v.toNat)
    ∧ Runs (.capturePiWrite f r v) s (fun t => t.host.pi.read 0 (ringKey f (16 + r)) = v.toNat)
    ∧ Runs (.completionCiWrite f v) s (fun t => t.host.ci.read 0 (ringKey f 32) = v.toNat) :=
  ⟨⟨_, congrArg Host.Outcome.next (if_pos h), SMap.read_write_self _ _ _ _⟩,
    ⟨_, congrArg Host.Outcome.next (if_pos h), SMap.read_write_self _ _ _ _⟩,
    ⟨_, congrArg Host.Outcome.next (if_pos h), SMap.read_write_self _ _ _ _⟩⟩

/-- The row REMOTE_DEST (R346). -/
theorem remoteDest_effects {m : Fin 16} {s : State} (h : Passes s m 0x0509 remoteDestCommand) :
    Runs (.remoteDest m) s fun t => Done s t m [] fun u =>
      u.host.remoteDest = (s.request m).payload ∧ Only [.host, .out, .mailboxes] s u :=
  h.done rfl rfl rfl ⟨rfl, State.setHost_only (by decide) (.inl (by decide)) (taken_only s (by decide))⟩

/-- The row REMOTE_DATAGRAM_TX (R346). -/
theorem remoteDatagramTx_effects {s : State} {q rp n : Nat} (h1 : s.flag F.ethPort_ENABLE = true)
    (h2 : s.flag F.ethPort_REMOTE_EN = true) (h3 : s.flag F.ethPort_LINK_OK = true) (h4 : s.host.remoteDest ≠ [])
    (h5 : s.storeOpen = true) (hq : q = s.get F.ethPort_REMOTE_Q) (hrp : rp = s.get F.outQueue_RP q)
    (hn : n = min 8192 (s.get F.outQueue_WP q - rp)) (h6 : n ≠ 0) : Runs .remoteDatagramTx s fun t =>
      t.get F.outQueue_RP q = (rp + n) % 2 ^ 64 ∧ t.out = [.datagram (datagramHeader q rp n
        ++ s.ringBytes (4096 * s.get F.outQueue_BASE q) (4096 * s.get F.outQueue_SIZE q) rp n)] := by
  have hc : (s.fresh.flag F.ethPort_ENABLE && s.fresh.flag F.ethPort_REMOTE_EN && s.fresh.flag F.ethPort_LINK_OK
      && !s.fresh.host.remoteDest.isEmpty && s.fresh.storeOpen && decide (n ≠ 0)) = true := by
    rw [show s.fresh.storeOpen = true from h5]
    simp [h1, h2, h3, h4, h6]
  obtain ⟨o, ho⟩ : ∃ o : Output, o = .datagram (datagramHeader q rp n
    ++ s.ringBytes (4096 * s.get F.outQueue_BASE q) (4096 * s.get F.outQueue_SIZE q) rp n) := ⟨_, rfl⟩
  obtain ⟨v, hv⟩ : ∃ v, v = (s.fresh.emit o).put F.outQueue_RP q (rp + n) := ⟨_, rfl⟩
  have e : exec .remoteDatagramTx s = .next ((v.spend n).moveBeats hostReader (beatsOf n)) := by
    rw [hv, ho]
    subst hq hrp hn
    exact congrArg Host.Outcome.next (if_pos hc)
  have ou : Only [.free, .memory] v ((v.spend n).moveBeats hostReader (beatsOf n)) :=
    State.moveBeats_only (by decide) (State.spend_only (by decide) (Only.refl _ v))
  refine ⟨_, e, ?_, ?_⟩
  · rw [ou.get (by decide), hv, State.get_put]
    rfl
  · rw [ou .out (by decide), hv, ← ho]
    rfl

/-- The row PCS_ALIGNMENT_CHANGE (R350). -/
theorem pcsAlignmentChange_effects {ok : Bool} {s : State} (h : s.mode ≠ .reset) : Runs (.pcsAlignmentChange ok) s fun t =>
    t.flag F.ethPort_LINK_OK = (ok && s.flag F.ethPort_ENABLE) :=
  ⟨_, congrArg Host.Outcome.next (if_neg h), State.flag_putFlag _ _ _ _ (by decide)⟩

/-- Settles O27: the rows one by one. -/
theorem ringEffects : Obligations.RingEffects :=
  ⟨fun _ _ _ _ => ringPointers_effects, fun _ _ _ _ _ _ _ => refillDescriptor_effects,
    fun _ _ _ _ => segmentResident_effects, fun _ _ _ _ _ => captureRingFill_effects,
    fun _ _ _ _ => captureFlushTimeout_effects, fun _ _ => remoteDest_effects, fun _ _ _ _ => remoteDatagramTx_effects,
    fun _ _ => pcsAlignmentChange_effects⟩

end Sys2Proof
end

section
namespace Sys2Proof
open Machine

/-! ### A commit of the store's arbiter beside a grant to no requester (R238, R243) -/

/-- A commit that a tick brings into force with a rank other than the shadow rank of before. The grant in use names
requester 24, which R233 does not have: the machine holds the record of that number under the key of requester 0, so that
the beats counted for the grant leave the default ranks of requester 24 in the record of requester 0. -/
theorem tick_misses_shadowRank : ∃ s : State, s.pending = [] ∧ s.mode ≠ .reset ∧ s.power.ramp = none
    ∧ s.storeArb.commit = true ∧ s.get F.storeRequester_RANK 0 = 2 ∧ s.tickOn.get F.storeRequester_RANK_ACTIVE 0 = 0 :=
  ⟨{ State.reset with
      mode := .run
      memory := { Memory.init with storeArb :=
        { Arbiter.init with want := [(24, 4)], grant := some (24, 4), commit := true } } },
    rfl, by decide, rfl, rfl, by decide +kernel, by decide +kernel⟩

/-- Refutes O18 in its clause on the tick that brings a commit of the store's arbiter into force, which it states of every
state: where the grant in use names requester 24, the shadow rank 2 of requester 0 comes into force as rank 0. -/
theorem not_actingWriteEffects : ¬ Obligations.ActingWriteEffects := by
  rintro ⟨-, -, -, -, -, h, -⟩
  obtain ⟨s, hq, hm, hp, hc, hr, ha⟩ := tick_misses_shadowRank
  obtain ⟨t, ht, -, -, -, hf⟩ := h s hq hm hp hc
  have e : step s = .next s.tickOn := by
    unfold step
    rw [hq]
  rw [e] at ht
  cases ht
  have hf : s.tickOn.get F.storeRequester_RANK_ACTIVE 0 = s.get F.storeRequester_RANK 0 := (hf 0 (by decide)).1
  rw [ha, hr] at hf
  cases hf

end Sys2Proof
end

section
namespace Sys2Proof
open Machine
namespace Machine

/-! ### Events that are taken, and activations (R212, R216 to R220) -/

/-- What is taken for a channel are events of that channel. -/
theorem evc_of_mem_takeEvents {c n : Nat} {l : List Event} : ∀ e ∈ (takeEvents c n l).1, e.evc = c := by
  fun_induction takeEvents c n l with
  | case1 | case2 => exact fun _ h => absurd h List.not_mem_nil
  | case3 n e r he a b hab ih =>
    intro x hx
    rcases List.mem_cons.mp hx with rfl | hx
    · exact he
    · exact ih x (by rwa [hab])
  | case4 n e r he a b hab ih => exact fun x hx => ih x (by rwa [hab])

/-- LATCH_HELD counts an activation that has found a latch set. -/
theorem State.get_latchHeld (s : State) (c : Nat) (b : Bool) : (s.latchHeld c b).get F.channelStatus_LATCH_HELD c =
    satAdd (s.get F.channelStatus_LATCH_HELD c) (if b then 1 else 0) F.channelStatus_LATCH_HELD.width := by
  cases b with
  | true => exact s.get_count _ _ _
  | false => exact (s.satAdd_get_zero _ _).symm

theorem State.get_latchHeld_other (s : State) (c : Nat) (b : Bool) {f : Field} (hf : f.record = .channelStatus →
    f.lo + f.width ≤ F.channelStatus_LATCH_HELD.lo
      ∨ F.channelStatus_LATCH_HELD.lo + F.channelStatus_LATCH_HELD.width ≤ f.lo) :
    (s.latchHeld c b).get f c = s.get f c := by
  cases b with
  | true => exact s.get_count_other hf
  | false => rfl

@[simp] theorem State.latchHeld_hatband (s : State) (c : Nat) (b : Bool) : (s.latchHeld c b).hatband = s.hatband := by
  cases b <;> rfl

/-- Of two changes of Hatband the later stands. -/
theorem State.setHatband_setHatband (s : State) (x y : Hatband) : (s.setHatband x).setHatband y = s.setHatband y := rfl

/-- A group's latch is set, and those that were set stay so. -/
theorem State.latchSwitch_set (s : State) (g : Nat) (on : Bool) : ∃ w,
    s.latchSwitch g on = s.setHatband { s.hatband with switching := w } ∧ s.hatband.switching ⊆ w ∧ (g, on) ∈ w := by
  unfold State.latchSwitch
  split
  · rename_i h
    exact ⟨_, rfl, List.Subset.refl _, List.contains_iff_mem.mp h⟩
  · exact ⟨_, rfl, List.subset_append_left _ _, List.mem_append_right _ (List.mem_singleton_self _)⟩

theorem State.latchSwitches_set : ∀ (l : List (Nat × Bool)) (s : State), ∃ w,
    l.foldl (fun s x => s.latchSwitch x.1 x.2) s = s.setHatband { s.hatband with switching := w }
      ∧ s.hatband.switching ⊆ w ∧ l ⊆ w
  | [], s => ⟨_, rfl, List.Subset.refl _, List.nil_subset _⟩
  | x :: l, s => by
    obtain ⟨v, h1, h2, h3⟩ := s.latchSwitch_set x.1 x.2
    obtain ⟨w, k1, k2, k3⟩ := State.latchSwitches_set l (s.setHatband { s.hatband with switching := v })
    refine ⟨w, ?_, List.Subset.trans h2 k2, List.cons_subset.mpr ⟨k2 h3, k3⟩⟩
    rw [List.foldl_cons, h1, k1]
    rfl

/-- The ON and OFF inputs of a channel stand in the groups' records. -/
theorem switchInputs_of_only {ps : List Part} {s t : State} (o : Only ps s t) (h : Part.image .group ∉ ps) (c : Nat) :
    t.switchInputs c = s.switchInputs c := by
  have hg : ∀ f : Field, f.record = .group → ∀ g, t.get f g = s.get f g := fun f hf g => o.get (by rw [hf]; exact h) g
  unfold State.switchInputs State.switched State.flag
  simp only [hg F.group_ON_EN rfl, hg F.group_ON_EVC rfl, hg F.group_OFF_EN rfl, hg F.group_OFF_EVC rfl]

/-- A group that a channel switches is among its inputs. -/
theorem State.mem_switchInputs {s : State} {c g : Nat} (hg : g < 32) :
    (s.flag F.group_ON_EN g = true → s.get F.group_ON_EVC g = c → (g, true) ∈ s.switchInputs c)
      ∧ (s.flag F.group_OFF_EN g = true → s.get F.group_OFF_EVC g = c → (g, false) ∈ s.switchInputs c) := by
  simp only [State.switchInputs, State.switched, List.mem_append, List.mem_map, List.mem_filter, List.mem_range]
  exact ⟨fun h1 h2 => .inl ⟨g, ⟨hg, by simp [h1, h2]⟩, rfl⟩, fun h1 h2 => .inr ⟨g, ⟨hg, by simp [h1, h2]⟩, rfl⟩⟩

/-- What an activation writes into the record of its channel, but for LATCH_HELD (log 61). -/
def State.noteEvent (s : State) (e : Event) : State :=
  (((s.count F.channelStatus_MERGES e.evc (e.n - 1)).put F.channelStatus_LAST_P e.evc e.p).put
    F.channelStatus_LAST_F e.evc e.f).put F.channelStatus_LAST_H e.evc e.h

theorem State.noteEvent_only (s : State) (e : Event) : Only [.image .channelStatus] s (s.noteEvent e) :=
  State.put_only (by decide) (State.put_only (by decide) (State.put_only (by decide) (State.count_only (by decide)
    (Only.refl _ s))))

theorem State.noteEvent_get (s : State) (e : Event) :
    (s.noteEvent e).get F.channelStatus_MERGES e.evc = satAdd (s.get F.channelStatus_MERGES e.evc) (e.n - 1) 16
      ∧ (s.noteEvent e).get F.channelStatus_LAST_P e.evc = e.p % 4
      ∧ (s.noteEvent e).get F.channelStatus_LAST_F e.evc = e.f % 2
      ∧ (s.noteEvent e).get F.channelStatus_LAST_H e.evc = e.h % 4
      ∧ (s.noteEvent e).get F.channelStatus_LATCH_HELD e.evc = s.get F.channelStatus_LATCH_HELD e.evc := by
  unfold State.noteEvent
  refine ⟨?_, ?_, ?_, State.get_put _ _ _ _, ?_⟩
  · rw [State.get_put_other _ (by decide), State.get_put_other _ (by decide), State.get_put_other _ (by decide)]
    exact State.get_count _ _ _ _
  · rw [State.get_put_other _ (by decide), State.get_put_other _ (by decide)]
    exact State.get_put _ _ _ _
  · rw [State.get_put_other _ (by decide)]
    exact State.get_put _ _ _ _
  · rw [State.get_put_other _ (by decide), State.get_put_other _ (by decide), State.get_put_other _ (by decide),
      State.get_count_other _ (by decide)]

/-- An activation is noted, is on its way to its inputs, and has the latches of its groups set. -/
theorem State.activate_eq (s : State) (e : Event) : ∃ w, s.switchInputs e.evc ⊆ w ∧ s.activate e =
    ((s.noteEvent e).setHatband { s.hatband with
      delivering := s.hatband.delivering ++ [{ e with held := s.switchHeld e.evc }], switching := w }).latchHeld e.evc
        (s.switchHeld e.evc) := by
  obtain ⟨u, hu⟩ : ∃ u, u = s.noteEvent e := ⟨_, rfl⟩
  have o : Only [.image .channelStatus] s u := hu ▸ s.noteEvent_only e
  have hb : u.hatband = s.hatband := o .hatband (by decide)
  have hi : u.switchInputs e.evc = s.switchInputs e.evc := switchInputs_of_only o (by decide) e.evc
  have hh : u.switchHeld e.evc = s.switchHeld e.evc := by
    unfold State.switchHeld
    rw [hi, hb]
  obtain ⟨v, hv⟩ : ∃ v, v = u.setHatband { u.hatband with
      delivering := u.hatband.delivering ++ [{ e with held := u.switchHeld e.evc }] } := ⟨_, rfl⟩
  have ha : s.activate e = ((v.switchInputs e.evc).foldl (fun s x => s.latchSwitch x.1 x.2) v).latchHeld e.evc
      (u.switchHeld e.evc) := by
    rw [hv, hu]
    simp only [State.activate, State.noteEvent]
  have hvi : v.switchInputs e.evc = s.switchInputs e.evc := by
    rw [hv, ← hi]
    rfl
  obtain ⟨w, h1, -, h3⟩ := State.latchSwitches_set (v.switchInputs e.evc) v
  refine ⟨w, hvi ▸ h3, ?_⟩
  rw [ha, h1, hv, State.setHatband_setHatband, State.setHatband_hatband, hh, hb, hu]

/-! ### The clauses of O43 on arrivals (R212, R217, R218, R220) -/

/-- The state in which the events that are taken arrive. -/
def State.awaiting (s : State) (rest : List Event) : State :=
  s.fresh.setHatband { s.hatband with arriving := rest }

theorem execHatbandArrival_next {c : Fin 512} {n : Fin 10} {s : State} {now rest : List Event}
    (h : takeEvents c n s.hatband.arriving = (now, rest)) :
    exec (.hatbandArrival c n) s = .next ((s.awaiting rest).arriveAt c now) := by
  change execHatbandArrival c n s = _
  unfold execHatbandArrival
  dsimp only [State.fresh_hatband]
  rw [h]
  rfl

variable {s : State} {c : Nat} {l : List Event}

/-- Events of which the channel enables none. -/
theorem State.arriveAt_unenabled (h : l.filter (s.enables c) = []) : s.arriveAt c l = s :=
  if_pos (by rw [h]; rfl)

/-- Events that the gate drops. -/
theorem State.arriveAt_gated (h : l.filter (s.enables c) ≠ []) (hg : s.gated c = true) :
    s.arriveAt c l = s.count F.channelStatus_GATED_DROP c :=
  (if_neg (by simpa using h)).trans (if_pos hg)

/-- Events that the cut drops. -/
theorem State.arriveAt_cut (h : l.filter (s.enables c) ≠ []) (hg : s.gated c = false)
    (hc : s.flag F.channel_CUT c = true) : s.arriveAt c l = s.count F.channelStatus_CUT_DROP c :=
  (if_neg (by simpa using h)).trans ((if_neg (by simp [hg])).trans (if_pos hc))

/-- Events that merge into one activation. -/
theorem State.arriveAt_activates (h : l.filter (s.enables c) ≠ []) (hg : s.gated c = false)
    (hc : s.flag F.channel_CUT c = false) : s.arriveAt c l = s.activate (mergeEvents c (l.filter (s.enables c))) :=
  (if_neg (by simpa using h)).trans ((if_neg (by simp [hg])).trans (if_neg (by simp [hc])))

end Machine

/-- The row HATBAND_ARRIVAL (R212, R217, R218, R220). -/
theorem hatbandArrival_effects {c : Fin 512} {n : Fin 10} {s : State} {now rest : List Event}
    (h : takeEvents c n s.hatband.arriving = (now, rest)) {l : List Event} (hl : l = now.filter (s.enables c)) :
    (l = [] → Runs (.hatbandArrival c n) s fun t => t.hatband = { s.hatband with arriving := rest }
      ∧ Only [.out, .hatband] s t)
    ∧ (l ≠ [] → s.gated c = true → Runs (.hatbandArrival c n) s fun t => t.hatband = { s.hatband with arriving := rest }
      ∧ t.get F.channelStatus_GATED_DROP c = satAdd (s.get F.channelStatus_GATED_DROP c) 1 16)
    ∧ (l ≠ [] → s.gated c = false → s.flag F.channel_CUT c = true → Runs (.hatbandArrival c n) s fun t =>
      t.hatband = { s.hatband with arriving := rest }
      ∧ t.get F.channelStatus_CUT_DROP c = satAdd (s.get F.channelStatus_CUT_DROP c) 1 16)
    ∧ (l ≠ [] → s.gated c = false → s.flag F.channel_CUT c = false → Runs (.hatbandArrival c n) s fun t =>
      t.hatband.arriving = rest
        ∧ t.hatband.delivering = s.hatband.delivering ++ [{ mergeEvents c l with held := s.switchHeld c }]
        ∧ t.get F.channelStatus_LATCH_HELD c = satAdd (s.get F.channelStatus_LATCH_HELD c)
          (if s.switchHeld c then 1 else 0) F.channelStatus_LATCH_HELD.width
        ∧ t.get F.channelStatus_MERGES c = satAdd (s.get F.channelStatus_MERGES c) (l.length - 1) 16
        ∧ t.get F.channelStatus_LAST_P c = (mergeEvents c l).p % 4
        ∧ t.get F.channelStatus_LAST_F c = (mergeEvents c l).f % 2
        ∧ t.get F.channelStatus_LAST_H c = (mergeEvents c l).h % 4
        ∧ ∀ g < 32, (s.flag F.group_ON_EN g = true → s.get F.group_ON_EVC g = c → (g, true) ∈ t.hatband.switching)
          ∧ (s.flag F.group_OFF_EN g = true → s.get F.group_OFF_EVC g = c → (g, false) ∈ t.hatband.switching)) := by
  have e := execHatbandArrival_next h
  have hf : now.filter ((s.awaiting rest).enables c) = l := hl.symm
  refine ⟨fun hn => ?_, fun hn hg => ?_, fun hn hg hc => ?_, fun hn hg hc => ?_⟩
  · refine ⟨_, e.trans (congrArg Host.Outcome.next (State.arriveAt_unenabled (hf.trans hn))), rfl, ?_⟩
    exact State.setHatband_only (by decide) (State.fresh_only (by decide) (Only.refl _ s))
  · exact ⟨_, e.trans (congrArg Host.Outcome.next (State.arriveAt_gated (hf ▸ hn) hg)), rfl, State.get_count _ _ _ _⟩
  · exact ⟨_, e.trans (congrArg Host.Outcome.next (State.arriveAt_cut (hf ▸ hn) hg hc)), rfl, State.get_count _ _ _ _⟩
  · rw [(s.awaiting rest).arriveAt_activates (hf ▸ hn) hg hc, hf] at e
    obtain ⟨ev, hev⟩ : ∃ ev, ev = mergeEvents c l := ⟨_, rfl⟩
    have hec : ev.evc = c := by rw [hev]; rfl
    have hen : ev.n = l.length := by rw [hev]; rfl
    rw [← hev] at e ⊢
    obtain ⟨w, hw, ha⟩ := (s.awaiting rest).activate_eq ev
    obtain ⟨k1, k2, k3, k4, k5⟩ := (s.awaiting rest).noteEvent_get ev
    rw [hec] at hw ha k1 k2 k3 k4 k5
    rw [ha] at e
    refine ⟨_, e, ?_, ?_, ?_, ?_, ?_, ?_, ?_, fun g hg => ?_⟩
    · rw [State.latchHeld_hatband]
      rfl
    · rw [State.latchHeld_hatband, ← hec]
      rfl
    · rw [State.get_latchHeld, State.setHatband_get, k5]
      rfl
    · rw [State.get_latchHeld_other _ _ _ (by decide), State.setHatband_get, k1, hen]
      rfl
    · rw [State.get_latchHeld_other _ _ _ (by decide), State.setHatband_get, k2]
    · rw [State.get_latchHeld_other _ _ _ (by decide), State.setHatband_get, k3]
    · rw [State.get_latchHeld_other _ _ _ (by decide), State.setHatband_get, k4]
    · rw [State.latchHeld_hatband]
      obtain ⟨m1, m2⟩ := s.mem_switchInputs (c := c) hg
      exact ⟨fun h1 h2 => hw (m1 h1 h2), fun h1 h2 => hw (m2 h1 h2)⟩

end Sys2Proof
end

section
namespace Sys2Proof
open Machine

/-! ### An activation that reaches its inputs (R216 to R219) -/

/-- An operation over a list without repetition that brings about `Q` at one part of it, given `P`: at the other parts it
keeps both. -/
theorem foldl_reaches {P Q : State → Prop} {f : State → Nat → State} {i : Nat} {l : List Nat} (hn : l.Nodup) (hi : i ∈ l)
    (hp : ∀ s, ∀ t ∈ l, t ≠ i → P s → P (f s t)) (hq : ∀ s, ∀ t ∈ l, t ≠ i → Q s → Q (f s t))
    (h : ∀ s, P s → Q (f s i)) {s : State} (hs : P s) : Q (l.foldl f s) := by
  obtain ⟨k, r, rfl⟩ := List.append_of_mem hi
  have hne : ∀ t ∈ k ++ r, t ≠ i := fun t ht e => (List.nodup_cons.mp (List.nodup_middle.mp hn)).1 (e ▸ ht)
  have hk : P (k.foldl f s) := List.foldlRecOn k f hs fun u hu t ht =>
    hp u t (List.mem_append_left _ ht) (hne t (List.mem_append_left _ ht)) hu
  rw [List.foldl_append, List.foldl_cons]
  exact List.foldlRecOn r f (h _ hk) fun u hu t ht =>
    hq u t (List.mem_append_right _ (List.mem_cons_of_mem _ ht)) (hne t (List.mem_append_right _ ht)) hu

/-- What no operation of a list changes. -/
theorem foldl_keeps {α β : Type} {part : State → α} {f : State → β → State} (h : ∀ s t, part (f s t) = part s)
    (l : List β) (s : State) : part (l.foldl f s) = part s :=
  List.foldlRecOn (motive := fun u => part u = part s) l f rfl fun u hu t _ => (h u t).trans hu

namespace Machine

/-! The stages of a delivery, in their order. -/

/-- The activation is counted, and once in LATCH_HELD where a latch is set. -/
def State.countActivation (s : State) (e : Event) : State :=
  (s.count F.channelStatus_ACTIVATIONS e.evc).latchHeld e.evc (!e.held && s.findsLatch e.evc)

/-- It reaches the inputs of a tile, and those of every tile. -/
def State.deliverTile (s : State) (e : Event) (t : Nat) : State :=
  ((s.deliverEngine e t).deliverJump e t).deliverSnapshot e t
def State.deliverTiles (s : State) (e : Event) : State := (List.range 16).foldl (fun s t => s.deliverTile e t) s

/-- It reaches the ATTN inputs of the engines and the run starts of the groups. -/
def State.deliverRuns (s : State) (e : Event) : State :=
  (List.range 16).foldl (fun s g => s.deliverStart e g)
    ((List.range 17).foldl (fun s x => (List.range 8).foldl (fun s j => s.deliverAttn e.evc x j) s) s)

/-- It reaches the trigger outputs. -/
def State.deliverTrigs (s : State) (c : Nat) : State := (List.range 8).foldl (fun s i => s.deliverTrig c i) s

/-- It reaches the event counters. -/
def State.deliverCounts (s : State) (e : Event) : State := (List.range 64).foldl (fun s k => s.deliverCount e k) s

/-- It reaches the decision streams. -/
def State.deliverStreams (s : State) (e : Event) : State :=
  (List.range 4).foldl (fun s p => (List.range 8).foldl (fun s j => s.deliverStream e p j) s) s

theorem State.deliver_eq (s : State) (e : Event) : s.deliver e =
    ((((((s.countActivation e).deliverTiles e).deliverRuns e).deliverTrigs e.evc).deliverCounts e).deliverStreams
      e).deliverMonitor e := rfl

variable (s : State) (e : Event)

theorem State.countActivation_only : Only [.image .channelStatus] s (s.countActivation e) :=
  State.latchHeld_only (by decide) (State.count_only (by decide) (Only.refl _ s))

theorem State.deliverTile_only (t : Nat) : Only [.image .acqStatus, .acq, .runs] s (s.deliverTile e t) :=
  State.deliverSnapshot_only (by decide) (State.deliverJump_only (by decide) (State.deliverEngine_only (by decide)
    (Only.refl _ s)))

theorem State.deliverTiles_only : Only [.image .acqStatus, .acq, .runs] s (s.deliverTiles e) :=
  Only.foldl (fun _ t h => h.trans (State.deliverTile_only _ e t)) _ (Only.refl _ s)

theorem State.deliverRuns_only : Only [.runs, .image .engineStatus, .engines] s (s.deliverRuns e) :=
  Only.foldl (fun _ _ h => State.deliverStart_only (by decide) h) _
    (Only.foldl (fun _ _ h => Only.foldl (fun _ _ h => State.deliverAttn_only (by decide) h) _ h) _ (Only.refl _ s))

theorem State.deliverTrigs_only (c : Nat) : Only [.out, .hatband] s (s.deliverTrigs c) :=
  Only.foldl (fun _ _ h => State.deliverTrig_only (by decide) h) _ (Only.refl _ s)

theorem State.deliverCounts_only : Only [.image .eventCounter] s (s.deliverCounts e) :=
  Only.foldl (fun _ _ h => State.deliverCount_only (by decide) h) _ (Only.refl _ s)

theorem State.deliverStreams_only : Only [.ports] s (s.deliverStreams e) :=
  Only.foldl (fun _ _ h => Only.foldl (fun _ _ h => State.deliverStream_only (by decide) h) _ h) _ (Only.refl _ s)

/-- The monitor's triggers change nothing else of Hatband. -/
theorem State.deliverMonitor_keeps : (s.deliverMonitor e).hatband.delivering = s.hatband.delivering
    ∧ (s.deliverMonitor e).hatband.trig = s.hatband.trig := by
  unfold State.deliverMonitor
  dsimp only
  split <;> split <;> exact ⟨rfl, rfl⟩

/-! ### The channel's counters -/

theorem State.countActivation_get :
    (s.countActivation e).get F.channelStatus_ACTIVATIONS e.evc = satAdd (s.get F.channelStatus_ACTIVATIONS e.evc) 1 32
      ∧ (s.countActivation e).get F.channelStatus_LATCH_HELD e.evc = satAdd (s.get F.channelStatus_LATCH_HELD e.evc)
        (if !e.held && s.findsLatch e.evc then 1 else 0) F.channelStatus_LATCH_HELD.width := by
  unfold State.countActivation
  refine ⟨(State.get_latchHeld_other _ _ _ (by decide)).trans (State.get_count _ _ _ _), ?_⟩
  rw [State.get_latchHeld, State.get_count_other _ (by decide)]

/-- What a delivery changes once the activation is counted. -/
theorem State.deliver_counted_only : Only [.image .acqStatus, .acq, .runs, .image .engineStatus, .engines, .out, .hatband,
    .image .eventCounter, .ports] (s.countActivation e) (s.deliver e) := by
  rw [State.deliver_eq]
  exact State.deliverMonitor_only (by decide) ((State.deliverStreams_only _ e).step (by decide)
    ((State.deliverCounts_only _ e).step (by decide) ((State.deliverTrigs_only _ e.evc).step (by decide)
    ((State.deliverRuns_only _ e).step (by decide) ((State.deliverTiles_only _ e).mono (by decide))))))

/-! ### The latches of the tiles (R188, R189, R191) -/

variable {s e}

/-- Where a segment of a tile names a channel, it does so while neither the tile nor what is loaded changes. -/
theorem engineBound_of_only {ps : List Part} {u : State} (o : Only ps s u) (hl : Part.loaded ∉ ps)
    (hr : Part.image .runStatus ∉ ps) {i : Nat} (ht : u.tile i = s.tile i) (c : Nat) :
    u.engineBound i c = s.engineBound i c := by
  have hp : ({ u.program with tiles := [], groups := [] } : Program) = { s.program with tiles := [], groups := [] } :=
    o .loaded hl
  have hsg : u.program.segments = s.program.segments := (congrArg Program.segments hp :)
  have hls : u.program.lists = s.program.lists := (congrArg Program.lists hp :)
  have hop : u.program.opMem = s.program.opMem := (congrArg Program.opMem hp :)
  have hid : u.get F.runStatus_SEG_ID i = s.get F.runStatus_SEG_ID i := o.get hr i
  simp only [State.engineBound, State.namesChannel, State.list, State.segment, State.activeSegs, State.segmentWords, ht,
    hsg, hls, hop, hid]

/-- A delivery to one tile leaves the run of every other as it was. -/
theorem State.deliverTile_tile_ne {t i : Nat} (h : t ≠ i) : (s.deliverTile e t).tile i = s.tile i := by
  have h1 : (s.deliverEngine e t).tile i = s.tile i := by
    unfold State.deliverEngine
    extract_lets r
    split
    · rfl
    · exact State.tile_setTile_ne _ _ (Ne.symm h)
  have h2 : ((s.deliverEngine e t).deliverJump e t).tile i = (s.deliverEngine e t).tile i := by
    unfold State.deliverJump
    split
    · rfl
    · exact State.tile_setTile_ne _ _ (Ne.symm h)
  exact (tile_of_only (State.deliverSnapshot_only (List.Subset.refl _) (Only.refl _ _)) (by decide) i).trans (h2.trans h1)

/-- A latch that is bound and clear is set. -/
theorem State.deliverTile_latches {t : Nat} (hb : s.engineBound t e.evc = true) (hc : (s.tile t).latch e.evc = none) :
    (e.evc, e.p, e.f, e.h) ∈ ((s.deliverTile e t).tile t).latches := by
  have h1 : (e.evc, e.p, e.f, e.h) ∈ ((s.deliverEngine e t).tile t).latches := by
    unfold State.deliverEngine
    extract_lets r
    rw [if_neg (by simp [hb, r, hc]), State.tile_setTile]
    exact List.mem_append_right _ (List.mem_singleton_self _)
  have h2 : ∀ u : State, ((u.deliverJump e t).tile t).latches = (u.tile t).latches := fun u => by
    unfold State.deliverJump
    split
    · rfl
    · unfold State.postJump
      rw [State.tile_setTile]
  have h3 : ∀ u : State, (u.deliverSnapshot e t).tile t = u.tile t := fun u =>
    tile_of_only (State.deliverSnapshot_only (List.Subset.refl _) (Only.refl _ u)) (by decide) t
  rwa [State.deliverTile, h3, h2]

theorem State.deliverTiles_latches {i : Nat} (hi : i < 16) (hb : s.engineBound i e.evc = true)
    (hc : (s.tile i).latch e.evc = none) : (e.evc, e.p, e.f, e.h) ∈ ((s.deliverTiles e).tile i).latches := by
  refine foldl_reaches (P := fun u => Only [.image .acqStatus, .acq, .runs] s u ∧ u.tile i = s.tile i)
    (Q := fun u => (e.evc, e.p, e.f, e.h) ∈ (u.tile i).latches) List.nodup_range (List.mem_range.mpr hi) ?_ ?_ ?_
    ⟨Only.refl _ s, rfl⟩
  · exact fun u t _ ht hu => ⟨hu.1.trans (u.deliverTile_only e t), (State.deliverTile_tile_ne ht).trans hu.2⟩
  · intro u t _ ht hu
    rwa [State.deliverTile_tile_ne ht]
  · intro u hu
    refine State.deliverTile_latches ?_ (by rw [hu.2]; exact hc)
    rwa [engineBound_of_only hu.1 (by decide) (by decide) hu.2]

theorem State.deliverStart_tile (s : State) (e : Event) (g i : Nat) : (s.deliverStart e g).tile i = s.tile i := by
  unfold State.deliverStart
  extract_lets x
  split
  · rfl
  · unfold State.armStart
    extract_lets y
    split
    · split <;> rfl
    · rfl

/-- The latch of a tile once an activation has reached all its inputs. -/
theorem State.deliver_latches {i : Nat} (hi : i < 16) (hb : s.engineBound i e.evc = true)
    (hc : (s.tile i).latch e.evc = none) : (e.evc, e.p, e.f, e.h) ∈ ((s.deliver e).tile i).latches := by
  have oa := s.countActivation_only e
  have ha : (s.countActivation e).tile i = s.tile i := tile_of_only oa (by decide) i
  have hl := State.deliverTiles_latches (s := s.countActivation e) hi
    ((engineBound_of_only oa (by decide) (by decide) ha _).trans hb) (by rw [ha]; exact hc)
  have hr : ∀ u : State, (u.deliverRuns e).tile i = u.tile i := fun u => by
    refine (foldl_keeps (part := fun s => s.tile i) (fun u g => u.deliverStart_tile e g i) _ _).trans ?_
    refine tile_of_only (ps := [.image .engineStatus, .engines]) ?_ (by decide) i
    exact Only.foldl (fun _ _ h => Only.foldl (fun _ _ h => State.deliverAttn_only (by decide) h) _ h) _ (Only.refl _ u)
  have ho : ∀ u : State, Only [.out, .hatband, .image .eventCounter, .ports] u
      ((((u.deliverTrigs e.evc).deliverCounts e).deliverStreams e).deliverMonitor e) := fun u =>
    State.deliverMonitor_only (by decide) ((State.deliverStreams_only _ e).step (by decide)
      ((State.deliverCounts_only _ e).step (by decide) ((State.deliverTrigs_only _ e.evc).mono (by decide))))
  rw [State.deliver_eq, tile_of_only (ho _) (by decide), hr]
  exact hl

/-! ### Trigger outputs and event counters (R218, R222, R226) -/

theorem State.deliverTrig_keeps (s : State) (c i : Nat) : (s.deliverTrig c i).records = s.records
    ∧ (s.deliverTrig c i).clock = s.clock ∧ (s.deliverTrig c i).hatband.delivering = s.hatband.delivering
    ∧ (∀ o ∈ s.out, o ∈ (s.deliverTrig c i).out) ∧ ∀ k, k ≠ i → (s.deliverTrig c i).trig k = s.trig k := by
  unfold State.deliverTrig
  split
  · exact ⟨rfl, rfl, rfl, fun _ h => h, fun _ _ => rfl⟩
  · extract_lets x v y
    have hv : v.records = s.records ∧ v.clock = s.clock ∧ v.hatband = s.hatband ∧ ∀ o ∈ s.out, o ∈ v.out := by
      unfold v
      split
      · exact ⟨rfl, rfl, rfl, fun _ h => h⟩
      · exact ⟨rfl, rfl, rfl, fun _ h => List.mem_append_left _ h⟩
    obtain ⟨h1, h2, h3, h4⟩ := hv
    refine ⟨h1, h2, ?_, h4, fun k hk => ?_⟩
    · show v.hatband.delivering = _
      rw [h3]
    refine (SMap.read_write_ne _ _ _ _ hk).trans ?_
    rw [h3]
    rfl

/-- A trigger output that is bound to the channel begins its pulse, or begins it again. -/
theorem State.deliverTrig_bound {c i : Nat} (h : s.trigBound i c = true) :
    ((s.deliverTrig c i).trig i).pulseUntil = some (s.clock.now + s.get F.trigOut_WIDTH i)
      ∧ ((s.trig i).pulseUntil = none → .trigOut i (s.trigLevel i true) ∈ (s.deliverTrig c i).out) := by
  unfold State.deliverTrig
  rw [if_neg (by simp [h])]
  extract_lets x v y
  have hv : v.clock = s.clock ∧ v.records = s.records := by
    unfold v
    split <;> exact ⟨rfl, rfl⟩
  refine ⟨?_, fun hn => ?_⟩
  · refine (congrArg Trig.pulseUntil (SMap.read_write_self _ _ _ _)).trans ?_
    show some (v.clock.now + v.get F.trigOut_WIDTH i) = _
    rw [hv.1, State.get_congr hv.2]
  · have hx : x.pulseUntil.isSome = false := by rw [show x.pulseUntil = none from hn]; rfl
    show _ ∈ v.out
    unfold v
    rw [if_neg (by simp [hx])]
    exact List.mem_append_right _ (List.mem_singleton_self _)

theorem State.deliverTrigs_bound {c i : Nat} (hi : i < 8) (h : s.trigBound i c = true) :
    ((s.deliverTrigs c).trig i).pulseUntil = some (s.clock.now + s.get F.trigOut_WIDTH i)
      ∧ ((s.trig i).pulseUntil = none → .trigOut i (s.trigLevel i true) ∈ (s.deliverTrigs c).out) := by
  refine foldl_reaches (P := fun u => u.records = s.records ∧ u.clock = s.clock ∧ u.trig i = s.trig i)
    (Q := fun u => (u.trig i).pulseUntil = some (s.clock.now + s.get F.trigOut_WIDTH i)
      ∧ ((s.trig i).pulseUntil = none → .trigOut i (s.trigLevel i true) ∈ u.out))
    List.nodup_range (List.mem_range.mpr hi) ?_ ?_ ?_ ⟨rfl, rfl, rfl⟩
  · intro u t _ ht hu
    obtain ⟨k1, k2, -, -, k5⟩ := u.deliverTrig_keeps c t
    exact ⟨k1.trans hu.1, k2.trans hu.2.1, (k5 i (Ne.symm ht)).trans hu.2.2⟩
  · intro u t _ ht hu
    obtain ⟨-, -, -, k4, k5⟩ := u.deliverTrig_keeps c t
    rw [k5 i (Ne.symm ht)]
    exact ⟨hu.1, fun hn => k4 _ (hu.2 hn)⟩
  · rintro u ⟨h1, h2, h3⟩
    have hb : u.trigBound i c = true := by
      unfold State.trigBound
      rw [State.flag_congr h1, State.get_congr h1]
      exact h
    have hl : u.trigLevel i true = s.trigLevel i true := by
      unfold State.trigLevel
      rw [State.flag_congr h1]
    have k := u.deliverTrig_bound hb
    rwa [h2, h3, hl, State.get_congr h1] at k

/-- An event counter that is enabled for the channel counts the events that merged, 8 at most (R218). -/
theorem State.deliverCounts_get {k : Nat} (hk : k < 64) (h1 : s.flag F.eventCounter_ENABLE k = true)
    (h2 : s.get F.eventCounter_EVC k = e.evc) : (s.deliverCounts e).get F.eventCounter_COUNT k =
      satAdd (s.get F.eventCounter_COUNT k) (min e.n 8) 32 := by
  have hne : ∀ u : State, ∀ t ∈ List.range 64, t ≠ k →
      (u.deliverCount e t).image .eventCounter k = u.image .eventCounter k := by
    intro u t ht hk'
    unfold State.deliverCount
    split
    · exact State.image_setImage_index u .eventCounter _ (by
        have hc : Rec.eventCounter.place.count = 64 := rfl
        rw [hc, Nat.mod_eq_of_lt hk, Nat.mod_eq_of_lt (List.mem_range.mp ht)]
        exact hk')
    · rfl
  have hget : ∀ {u v : State}, u.image .eventCounter k = v.image .eventCounter k → ∀ f : Field,
      f.record = .eventCounter → u.get f k = v.get f k := fun he f hf => by
    unfold State.get
    rw [hf, he]
  refine foldl_reaches (P := fun u => u.image .eventCounter k = s.image .eventCounter k)
    (Q := fun u => u.get F.eventCounter_COUNT k = satAdd (s.get F.eventCounter_COUNT k) (min e.n 8) 32)
    List.nodup_range (List.mem_range.mpr hk) (fun u t ht hn hu => (hne u t ht hn).trans hu)
    (fun u t ht hn hu => (hget (hne u t ht hn) _ rfl).trans hu) ?_ rfl
  intro u hu
  unfold State.deliverCount
  have he : u.flag F.eventCounter_ENABLE k = true := by
    unfold State.flag
    rw [hget hu _ rfl]
    exact h1
  rw [if_pos (by simp [he, hget hu F.eventCounter_EVC rfl, h2]), ← hget hu F.eventCounter_COUNT rfl]
  exact State.get_count _ _ _ _

/-! ### The clauses of O43 on deliveries -/

section

variable (s : State) (e : Event)

/-- What comes before the trigger outputs and the event counters has no part in either. -/
def State.deliverTasks : State := ((s.countActivation e).deliverTiles e).deliverRuns e

theorem State.deliverTasks_only : Only [.image .channelStatus, .image .acqStatus, .acq, .runs, .image .engineStatus,
    .engines] s (s.deliverTasks e) :=
  (State.deliverRuns_only _ e).step (by decide) ((State.deliverTiles_only _ e).step (by decide)
    ((s.countActivation_only e).mono (by decide)))

/-- What comes after the event counters has no part in them. -/
theorem State.deliver_late_only : Only [.ports, .hatband] (((s.deliverTasks e).deliverTrigs e.evc).deliverCounts e)
    (s.deliver e) :=
  State.deliverMonitor_only (by decide) ((State.deliverStreams_only _ e).mono (by decide))

/-- What a delivery leaves in Hatband once the trigger outputs have begun their pulses. -/
theorem State.deliver_hatband :
    (s.deliver e).hatband.delivering = ((s.deliverTasks e).deliverTrigs e.evc).hatband.delivering
      ∧ (s.deliver e).hatband.trig = ((s.deliverTasks e).deliverTrigs e.evc).hatband.trig := by
  obtain ⟨w, hw⟩ : ∃ w, w = (((s.deliverTasks e).deliverTrigs e.evc).deliverCounts e).deliverStreams e := ⟨_, rfl⟩
  have ow : Only [.ports, .image .eventCounter] ((s.deliverTasks e).deliverTrigs e.evc) w := by
    rw [hw]
    exact (State.deliverStreams_only _ e).step (by decide) ((State.deliverCounts_only _ e).mono (by decide))
  have hd : s.deliver e = w.deliverMonitor e := hw ▸ rfl
  obtain ⟨k1, k2⟩ := w.deliverMonitor_keeps e
  have hh : w.hatband = ((s.deliverTasks e).deliverTrigs e.evc).hatband := ow .hatband (by decide)
  rw [hd, k1, k2, hh]
  exact ⟨rfl, rfl⟩

theorem State.deliver_delivering : (s.deliver e).hatband.delivering = s.hatband.delivering := by
  have ht : (s.deliverTasks e).hatband = s.hatband := s.deliverTasks_only e .hatband (by decide)
  rw [(s.deliver_hatband e).1, ← ht]
  exact foldl_keeps (part := fun s => s.hatband.delivering) (fun u i => (u.deliverTrig_keeps e.evc i).2.2.1) _ _

theorem State.deliver_counts {k : Nat} (hk : k < 64) (h1 : s.flag F.eventCounter_ENABLE k = true)
    (h2 : s.get F.eventCounter_EVC k = e.evc) : (s.deliver e).get F.eventCounter_COUNT k =
      satAdd (s.get F.eventCounter_COUNT k) (min e.n 8) 32 := by
  obtain ⟨u, hu⟩ : ∃ u, u = (s.deliverTasks e).deliverTrigs e.evc := ⟨_, rfl⟩
  have o : Only [.image .channelStatus, .image .acqStatus, .acq, .runs, .image .engineStatus, .engines, .out, .hatband]
      s u := by
    rw [hu]
    exact (State.deliverTrigs_only _ _).step (by decide) ((s.deliverTasks_only e).mono (by decide))
  rw [(s.deliver_late_only e).get (by decide), ← hu, State.deliverCounts_get hk ((o.flag (by decide) k).trans h1)
    ((o.get (by decide) k).trans h2), o.get (by decide)]

theorem State.deliver_trig {i : Nat} (hi : i < 8) (h : s.trigBound i e.evc = true) :
    ((s.deliver e).trig i).pulseUntil = some (s.clock.now + s.get F.trigOut_WIDTH i)
      ∧ ((s.trig i).pulseUntil = none → .trigOut i (s.trigLevel i true) ∈ (s.deliver e).out) := by
  have o := s.deliverTasks_only e
  have hc : (s.deliverTasks e).clock.now = s.clock.now := o .now (by decide)
  have hh : (s.deliverTasks e).hatband = s.hatband := o .hatband (by decide)
  have ht : (s.deliverTasks e).trig i = s.trig i := by
    unfold State.trig
    rw [hh]
  have hb : (s.deliverTasks e).trigBound i e.evc = true := by
    unfold State.trigBound
    rw [o.flag (by decide), o.get (by decide)]
    exact h
  have hl : (s.deliverTasks e).trigLevel i true = s.trigLevel i true := by
    unfold State.trigLevel
    rw [o.flag (by decide)]
  have hout : (s.deliver e).out = ((s.deliverTasks e).deliverTrigs e.evc).out :=
    (s.deliver_late_only e .out (by decide)).trans (State.deliverCounts_only _ e .out (by decide))
  have htr : (s.deliver e).trig i = ((s.deliverTasks e).deliverTrigs e.evc).trig i := by
    unfold State.trig
    rw [(s.deliver_hatband e).2]
  have k := State.deliverTrigs_bound hi hb
  rw [hc, ht, hl, o.get (by decide)] at k
  rwa [hout, htr]

end

/-- The state in which the activation that is taken is delivered. -/
def State.handing (s : State) (rest : List Event) : State :=
  s.fresh.setHatband { s.hatband with delivering := rest }

theorem execHatbandDelivery_next {c : Fin 512} {s : State} {e : Event} {l rest : List Event}
    (h : takeEvents c 1 s.hatband.delivering = (e :: l, rest)) :
    exec (.hatbandDelivery c) s = .next ((s.handing rest).deliver e) := by
  change execHatbandDelivery c s = _
  unfold execHatbandDelivery
  dsimp only [State.fresh_hatband]
  rw [h]
  rfl

end Machine

/-- The row HATBAND_DELIVERY (R216 to R219, R222, R226). -/
theorem hatbandDelivery_effects {c : Fin 512} {s : State} {e : Event} {l rest : List Event}
    (h : takeEvents c 1 s.hatband.delivering = (e :: l, rest)) : Runs (.hatbandDelivery c) s fun t =>
      t.get F.channelStatus_ACTIVATIONS c = satAdd (s.get F.channelStatus_ACTIVATIONS c) 1 32
        ∧ t.hatband.delivering = rest
        ∧ t.get F.channelStatus_LATCH_HELD c = satAdd (s.get F.channelStatus_LATCH_HELD c)
          (if !e.held && s.findsLatch c then 1 else 0) F.channelStatus_LATCH_HELD.width
        ∧ (∀ k < 64, s.flag F.eventCounter_ENABLE k = true → s.get F.eventCounter_EVC k = c →
          t.get F.eventCounter_COUNT k = satAdd (s.get F.eventCounter_COUNT k) (min e.n 8) 32)
        ∧ (∀ i < 8, s.flag F.trigOut_ENABLE i = true → s.get F.trigOut_EVC i = c →
          (t.trig i).pulseUntil = some (s.clock.now + s.get F.trigOut_WIDTH i)
            ∧ ((s.trig i).pulseUntil = none → .trigOut i (s.trigLevel i true) ∈ t.out))
        ∧ ∀ i < 16, (s.tile i).inShot = true → s.namesChannel i c = true → (s.tile i).latch c = none →
          (c.val, e.p, e.f, e.h) ∈ (t.tile i).latches := by
  have hc : e.evc = c := evc_of_mem_takeEvents (l := s.hatband.delivering) e (by rw [h]; exact List.mem_cons_self ..)
  rw [← hc]
  obtain ⟨k1, k2⟩ := (s.handing rest).countActivation_get e
  have o := (s.handing rest).deliver_counted_only e
  refine ⟨_, execHatbandDelivery_next h, (o.get (by decide) _).trans k1, (s.handing rest).deliver_delivering e,
    (o.get (by decide) _).trans k2, fun k hk h1 h2 => (s.handing rest).deliver_counts e hk h1 h2,
    fun i hi h1 h2 => (s.handing rest).deliver_trig e hi ?_, fun i hi h1 h2 h3 => State.deliver_latches hi ?_ h3⟩
  · exact Bool.and_eq_true_iff.mpr ⟨h1, decide_eq_true h2⟩
  · exact Bool.and_eq_true_iff.mpr ⟨h1, h2⟩

end Sys2Proof
end

section
namespace Sys2Proof
open Machine
namespace Machine

/-! ### Trigger balls (R226) -/

/-- A report leaves the trigger balls alone. -/
theorem State.report_trig (s : State) (cls : Nat) (lasting : Bool) (src a b i : Nat) :
    (s.report cls lasting src a b).trig i = s.trig i := by
  unfold State.report
  extract_lets first entry log v
  have hv : v.trig i = s.trig i := rfl
  split
  · exact hv
  · unfold State.overflowReport
    split
    · exact hv
    · extract_lets was w
      split
      · exact hv
      · exact hv

/-- A trigger ball is held in Hatband. -/
theorem trig_of_hatband {s t : State} (h : t.hatband = s.hatband) (i : Nat) : t.trig i = s.trig i := by
  unfold State.trig
  rw [h]

theorem State.trig_setTrig (s : State) (i : Nat) (x : Trig) : (s.setTrig i x).trig i = x :=
  SMap.read_write_self _ _ _ _

/-- TRIG_FAULT is raised and reported, and leaves the balls and their records alone. -/
theorem State.trigFault_done {s u : State} (h : u.log = s.log) (i p : Nat) :
    Raised s (u.trigFault i p) (1128 + i) p 0 ∧ Reported s (u.trigFault i p) 29
      ∧ (∀ k, (u.trigFault i p).trig k = u.trig k)
      ∧ ∀ f : Field, f.record = .trigInStatus → ∀ k, (u.trigFault i p).get f k = u.get f k := by
  refine ⟨(Raised.raise (t := u) _ _ _).grow (Grows.report _ _ _ _ _ _),
    Reported.report _ _ _ _ _ (congrArg Log.counters h), fun k => State.report_trig _ _ _ _ _ _ k, fun f hf k => ?_⟩
  exact (State.trigFault_only (List.Subset.refl _) (Only.refl _ u)).get (by rw [hf]; decide) k

/-- An input has held its active level: LEVEL is set, and the ball holds the instant. -/
def State.riseTrig (s : State) (i : Nat) : State :=
  (s.setTrig i { s.trig i with
    activeSince := some s.clock.now, inactiveSince := none, seen := some s.clock.now }).putFlag F.trigInStatus_LEVEL i true

theorem State.riseTrig_only (s : State) (i : Nat) : Only [.hatband, .image .trigInStatus] s (s.riseTrig i) :=
  State.putFlag_only (by decide) (State.setTrig_only (by decide) (Only.refl _ s))

theorem State.riseTrig_done (s : State) (i : Nat) :
    (s.riseTrig i).trig i = { s.trig i with
        activeSince := some s.clock.now, inactiveSince := none, seen := some s.clock.now }
      ∧ (s.riseTrig i).flag F.trigInStatus_LEVEL i = true
      ∧ ∀ f : Field, (f.record = .trigInStatus → f.lo + f.width ≤ F.trigInStatus_LEVEL.lo
        ∨ F.trigInStatus_LEVEL.lo + F.trigInStatus_LEVEL.width ≤ f.lo) → (s.riseTrig i).get f i = s.get f i := by
  unfold State.riseTrig
  refine ⟨(trig_of_hatband (State.putFlag_hatband _ _ _ _) i).trans (State.trig_setTrig s i _),
    State.flag_putFlag _ _ _ _ (by decide), fun f hf => ?_⟩
  exact State.get_putFlag_other _ hf

/-- Whether an edge comes before MIN_INTERVAL has passed since the last accepted one. -/
def Trig.early (x : Trig) (interval now : Nat) : Bool :=
  match x.lastEdge with
  | some l => decide (now < l + interval)
  | none => false

theorem execTrigInAccept_next {i : Fin 8} {s : State} (hm : s.mode ≠ .reset) (he : s.flag F.trigIn_ENABLE i = true)
    (hk : s.flag F.trigInStatus_MASKED i = false) : exec (.trigInAccept i) s =
      .next (if (s.trig i).early (s.get F.trigIn_MIN_INTERVAL i) s.clock.now then (s.fresh.riseTrig i).dropEdge i
        else (s.fresh.riseTrig i).acceptEdge i) := by
  have h : ¬ (s.fresh.mode = .reset || !s.fresh.flag F.trigIn_ENABLE i || s.fresh.flag F.trigInStatus_MASKED i) = true := by
    simp [State.fresh_mode, hm, he, hk]
  exact congrArg Host.Outcome.next (if_neg h)

/-- What an accepted edge leaves. -/
theorem State.acceptEdge_done {s : State} (u : State) (i : Nat) :
    (u.acceptEdge i).trig i = { u.trig i with lastEdge := some u.clock.now }
      ∧ (u.acceptEdge i).flag F.trigInStatus_LEVEL i = u.flag F.trigInStatus_LEVEL i
      ∧ Raised s (u.acceptEdge i) (1120 + i) 0 0
      ∧ (u.acceptEdge i).get F.trigInStatus_EDGES i = satAdd (u.get F.trigInStatus_EDGES i) 1 32
      ∧ (u.acceptEdge i).get F.trigInStatus_EDGE_SI i =
        (u.si / 16 * 16 - 16 * (u.get F.trigIn_FILTER i - 1)) % 2 ^ 64 := by
  unfold State.acceptEdge
  extract_lets first v
  have hc : v.clock = u.clock := rfl
  have hh : v.hatband = u.hatband := rfl
  have h1 : v.flag F.trigInStatus_LEVEL i = u.flag F.trigInStatus_LEVEL i := by
    unfold v
    rw [State.flag_count_other _ (by decide), State.flag_put_other _ (by decide)]
  have h2 : v.get F.trigInStatus_EDGES i = satAdd (u.get F.trigInStatus_EDGES i) 1 32 := by
    unfold v
    rw [State.get_count, State.get_put_other _ (by decide)]
    rfl
  have h3 : v.get F.trigInStatus_EDGE_SI i = first % 2 ^ 64 := by
    unfold v
    rw [State.get_count_other _ (by decide)]
    exact State.get_put _ _ _ _
  clear_value v
  refine ⟨?_, h1, Raised.raise _ _ _, h2, h3⟩
  refine Eq.trans (b := (v.setTrig i { v.trig i with lastEdge := some v.clock.now }).trig i) rfl ?_
  rw [State.trig_setTrig, hc, trig_of_hatband hh]

/-- What a dropped edge leaves (log 63). -/
theorem State.dropEdge_done {s u : State} (hu : u.log = s.log) (i : Nat) :
    (u.dropEdge i).trig i = { u.trig i with overrateSeen := true }
      ∧ (u.dropEdge i).flag F.trigInStatus_LEVEL i = u.flag F.trigInStatus_LEVEL i
      ∧ (u.dropEdge i).get F.trigInStatus_TRIG_OVERRATE i = satAdd (u.get F.trigInStatus_TRIG_OVERRATE i) 1 16
      ∧ ((u.trig i).overrateSeen = false →
        Raised s (u.dropEdge i) (1128 + i) 1 0 ∧ Reported s (u.dropEdge i) 29) := by
  unfold State.dropEdge
  extract_lets v
  have hl : v.log = s.log := hu
  have ht : v.trig i = u.trig i := rfl
  have h1 : v.flag F.trigInStatus_LEVEL i = u.flag F.trigInStatus_LEVEL i := State.flag_count_other _ (by decide)
  have h2 : v.get F.trigInStatus_TRIG_OVERRATE i = satAdd (u.get F.trigInStatus_TRIG_OVERRATE i) 1 16 :=
    State.get_count _ _ _ _
  clear_value v
  split
  · rename_i hs
    refine ⟨?_, h1, h2, fun hn => ?_⟩
    · show v.trig i = { u.trig i with overrateSeen := true }
      rw [← ht, ← hs]
    · rw [← ht, hs] at hn
      cases hn
  · obtain ⟨k1, k2, k3, k4⟩ :=
      State.trigFault_done (s := s) (u := v.setTrig i { v.trig i with overrateSeen := true }) hl i 1
    refine ⟨?_, ?_, (k4 _ rfl _).trans h2, fun _ => ⟨k1, k2⟩⟩
    · rw [k3, State.trig_setTrig, ht]
    · rw [← h1]
      unfold State.flag
      rw [k4 _ rfl]
      rfl

end Machine

/-! ### The clauses of O43 on trigger balls -/

/-- The row TRIG_IN_ACCEPT (R226). -/
theorem trigInAccept_effects {i : Fin 8} {s : State} {x : Trig} (hx : x = s.trig i) (hm : s.mode ≠ .reset)
    (he : s.flag F.trigIn_ENABLE i = true) (hk : s.flag F.trigInStatus_MASKED i = false) :
    ((∀ l, x.lastEdge = some l → l + s.get F.trigIn_MIN_INTERVAL i ≤ s.clock.now) → Runs (.trigInAccept i) s fun t =>
      t.trig i = { x with
          lastEdge := some s.clock.now, activeSince := some s.clock.now, inactiveSince := none, seen := some s.clock.now }
        ∧ t.flag F.trigInStatus_LEVEL i = true ∧ Raised s t (1120 + i) 0 0
        ∧ t.get F.trigInStatus_EDGES i = satAdd (s.get F.trigInStatus_EDGES i) 1 32
        ∧ t.get F.trigInStatus_EDGE_SI i = (s.si / 16 * 16 - 16 * (s.get F.trigIn_FILTER i - 1)) % 2 ^ 64)
    ∧ (∀ l, x.lastEdge = some l → s.clock.now < l + s.get F.trigIn_MIN_INTERVAL i → Runs (.trigInAccept i) s fun t =>
      t.trig i = { x with
          activeSince := some s.clock.now, inactiveSince := none, overrateSeen := true, seen := some s.clock.now }
        ∧ t.flag F.trigInStatus_LEVEL i = true
        ∧ t.get F.trigInStatus_TRIG_OVERRATE i = satAdd (s.get F.trigInStatus_TRIG_OVERRATE i) 1 16
        ∧ (x.overrateSeen = false → Raised s t (1128 + i) 1 0 ∧ Reported s t 29)) := by
  subst hx
  have e := execTrigInAccept_next hm he hk
  have o := s.fresh.riseTrig_only i
  obtain ⟨ht, hl, hg⟩ := s.fresh.riseTrig_done i
  refine ⟨fun hs => ?_, fun l hl' hs => ?_⟩
  · have hn : (s.trig i).early (s.get F.trigIn_MIN_INTERVAL i) s.clock.now = false := by
      unfold Trig.early
      split
      · next l hl' => exact decide_eq_false (Nat.not_lt.mpr (hs l hl'))
      · rfl
    rw [hn, if_neg Bool.false_ne_true] at e
    obtain ⟨k1, k2, k3, k4, k5⟩ := State.acceptEdge_done (s := s) (s.fresh.riseTrig i) i
    refine ⟨_, e, ?_, k2.trans hl, k3, ?_, ?_⟩
    · rw [k1, ht, show (s.fresh.riseTrig i).clock.now = s.clock.now from o .now (by decide)]
      rfl
    · rw [k4, hg _ (by decide)]
      rfl
    · rw [k5, o.get (by decide), si_of_only o (by decide)]
      rfl
  · have hn : (s.trig i).early (s.get F.trigIn_MIN_INTERVAL i) s.clock.now = true := by
      unfold Trig.early
      rw [hl']
      exact decide_eq_true hs
    rw [hn, if_pos rfl] at e
    obtain ⟨k1, k2, k3, k4⟩ := State.dropEdge_done (s := s) (u := s.fresh.riseTrig i) (o .log (by decide)) i
    refine ⟨_, e, ?_, k2.trans hl, ?_, fun hs => k4 (by rw [ht]; exact hs)⟩
    · rw [k1, ht]
      rfl
    · rw [k3, hg _ (by decide)]
      rfl

/-- The row TRIG_IN_STUCK (R226). -/
theorem trigInStuck_effects {i : Fin 8} {s : State} {x : Trig} {a : Nat} (hx : x = s.trig i) (ha : x.activeSince = some a)
    (he : s.flag F.trigIn_ENABLE i = true) (hk : s.flag F.trigInStatus_MASKED i = false)
    (hs : a + 8000 * s.get F.trigIn_STUCK i ≤ s.clock.now) : Runs (.trigInStuck i) s fun t =>
      t.flag F.trigInStatus_MASKED i = true ∧ Raised s t (1128 + i) 2 0 ∧ Reported s t 29
        ∧ t.get F.trigInStatus_STUCK_COUNT i = satAdd (s.get F.trigInStatus_STUCK_COUNT i) 1 14
        ∧ t.flag F.trigInStatus_LEVEL i = true
        ∧ t.trig i = { x with activeSince := none, inactiveSince := some s.clock.now, seen := some s.clock.now } := by
  subst hx
  obtain ⟨v, hv⟩ : ∃ v, v = (s.fresh.putFlag F.trigInStatus_MASKED i true).count F.trigInStatus_STUCK_COUNT i :=
    ⟨_, rfl⟩
  obtain ⟨u, hu⟩ : ∃ u, u = (v.setTrig i { v.trig i with
      activeSince := none, inactiveSince := some v.clock.now, seen := some v.clock.now }).putFlag
        F.trigInStatus_LEVEL i true := ⟨_, rfl⟩
  have e : exec (.trigInStuck i) s = .next (u.trigFault i 2) := by
    change execTrigInStuck i s = _
    unfold execTrigInStuck
    dsimp only
    rw [show s.fresh.trig i = s.trig i from rfl, ha]
    dsimp only
    rw [if_pos (by simp [State.fresh_clock, he, hk, hs]), hu, hv]
  have hc : v.clock = s.clock := hv ▸ rfl
  have hh : v.hatband = s.hatband := hv ▸ rfl
  have hl : u.log = s.log := by
    rw [hu, hv]
    rfl
  have hm : v.flag F.trigInStatus_MASKED i = true := by
    rw [hv, State.flag_count_other _ (by decide)]
    exact State.flag_putFlag _ _ _ _ (by decide)
  have hn : v.get F.trigInStatus_STUCK_COUNT i = satAdd (s.get F.trigInStatus_STUCK_COUNT i) 1 14 := by
    rw [hv, State.get_count, State.get_putFlag_other _ (by decide)]
    rfl
  obtain ⟨k1, k2, k3, k4⟩ := State.trigFault_done hl i 2
  have kf : ∀ f : Field, f.record = .trigInStatus → (u.trigFault i 2).flag f i = u.flag f i := fun f hf => by
    unfold State.flag
    rw [k4 f hf]
  refine ⟨_, e, ?_, k1, k2, ?_, ?_, ?_⟩
  · rw [kf _ rfl, hu, State.flag_putFlag_other _ (by decide)]
    exact hm
  · rw [k4 _ rfl, hu, State.get_putFlag_other _ (by decide)]
    exact hn
  · rw [kf _ rfl, hu]
    exact State.flag_putFlag _ _ _ _ (by decide)
  · rw [k3, hu, trig_of_hatband (State.putFlag_hatband _ _ _ _), State.trig_setTrig, hc, trig_of_hatband hh]

/-- The row TRIG_IN_UNMASK (R226). -/
theorem trigInUnmask_effects {i : Fin 8} {s : State} {x : Trig} {a : Nat} (hx : x = s.trig i)
    (ha : x.inactiveSince = some a) (hk : s.flag F.trigInStatus_MASKED i = true)
    (hs : a + Config.ticksPerMs ≤ s.clock.now) : Runs (.trigInUnmask i) s fun t =>
      t.flag F.trigInStatus_MASKED i = false ∧ t.flag F.trigInStatus_LEVEL i = false ∧ Raised s t (1128 + i) 3 0
        ∧ Reported s t 29 ∧ t.trig i = { x with inactiveSince := none, seen := some s.clock.now } := by
  subst hx
  obtain ⟨v, hv⟩ : ∃ v, v = (s.fresh.putFlag F.trigInStatus_MASKED i false).putFlag F.trigInStatus_LEVEL i false :=
    ⟨_, rfl⟩
  obtain ⟨u, hu⟩ : ∃ u, u = v.setTrig i { v.trig i with inactiveSince := none, seen := some v.clock.now } := ⟨_, rfl⟩
  have e : exec (.trigInUnmask i) s = .next (u.trigFault i 3) := by
    change execTrigInUnmask i s = _
    unfold execTrigInUnmask
    dsimp only
    rw [show s.fresh.trig i = s.trig i from rfl, ha]
    dsimp only
    rw [if_pos (by simp [State.fresh_clock, hk, hs]), hu, hv]
  have hc : v.clock = s.clock := hv ▸ rfl
  have hh : v.hatband = s.hatband := hv ▸ rfl
  have hl : u.log = s.log := by
    rw [hu, hv]
    rfl
  have hm : v.flag F.trigInStatus_MASKED i = false := by
    rw [hv, State.flag_putFlag_other _ (by decide)]
    exact State.flag_putFlag _ _ _ _ (by decide)
  have hn : v.flag F.trigInStatus_LEVEL i = false := by
    rw [hv]
    exact State.flag_putFlag _ _ _ _ (by decide)
  obtain ⟨k1, k2, k3, k4⟩ := State.trigFault_done hl i 3
  have kf : ∀ f : Field, f.record = .trigInStatus → (u.trigFault i 3).flag f i = v.flag f i := fun f hf => by
    unfold State.flag
    rw [k4 f hf, hu]
    rfl
  refine ⟨_, e, (kf _ rfl).trans hm, (kf _ rfl).trans hn, k1, k2, ?_⟩
  rw [k3, hu, State.trig_setTrig, hc, trig_of_hatband hh]

/-- The row TRIG_OUT_PULSE_END (R226). -/
theorem trigOutPulseEnd_effects {i : Fin 8} {s : State} {a : Nat} (ha : (s.trig i).pulseUntil = some a)
    (hs : a ≤ s.clock.now) : Runs (.trigOutPulseEnd i) s fun t =>
      t.trig i = { s.trig i with pulseUntil := none } ∧ t.out = [.trigOut i (s.trigLevel i false)] := by
  have e : exec (.trigOutPulseEnd i) s = .next ((s.fresh.setTrig i { s.trig i with pulseUntil := none }).emit
      (.trigOut i (s.trigLevel i false))) := by
    change execTrigOutPulseEnd i s = _
    unfold execTrigOutPulseEnd
    dsimp only
    rw [show s.fresh.trig i = s.trig i from rfl, ha]
    exact congrArg Host.Outcome.next (if_pos hs)
  exact ⟨_, e, (trig_of_hatband (State.emit_hatband _ _) i).trans (State.trig_setTrig _ _ _), rfl⟩

end Sys2Proof
end

section
namespace Sys2Proof
open Machine

/-! ### Group switches, and the commands of Hatband (R216, R220, R224) -/

/-- The row EVC_STATUS_READ (R216). -/
theorem evcStatusRead_effects {m : Fin 16} {s : State} (h : Passes s m 0x0401 evcStatusReadCommand) :
    Runs (.evcStatusRead m) s fun t =>
      Answered s t m .ok 0 ((List.range ((s.request m).at 2 2)).flatMap fun i =>
        leBytes (s.image .channelStatus ((s.request m).at 0 2 + i)) 16) :=
  h.query rfl rfl

/-- A channel that is cut no longer is once its flag, and those of other channels, are cleared. -/
theorem flag_cleared {c : Nat} : ∀ (l : List Nat) (s : State), (s.flag F.channel_CUT c = false ∨ c ∈ l) →
    (∀ k ∈ l, k < 512) → c < 512 → (l.foldl (fun s c => s.putFlag F.channel_CUT c false) s).flag F.channel_CUT c = false
  | [], s, h, _, _ => h.resolve_right List.not_mem_nil
  | k :: l, s, h, hl, hc => by
    refine flag_cleared l _ ?_ (fun j hj => hl j (List.mem_cons_of_mem _ hj)) hc
    by_cases e : c = k
    · exact .inl (e ▸ State.flag_putFlag _ _ _ _ (by decide))
    · have hn : F.channel_CUT.record.place.count = 512 := rfl
      have hk : k < 512 := hl k (List.mem_cons_self ..)
      have hg : (s.putFlag F.channel_CUT k false).flag F.channel_CUT c = s.flag F.channel_CUT c := by
        unfold State.flag State.putFlag
        rw [State.get_put_index s _ _ _ rfl (by rw [hn, Nat.mod_eq_of_lt hk, Nat.mod_eq_of_lt hc]; exact Ne.symm e)]
      rw [hg]
      exact h.imp_right fun hm => (List.mem_cons.mp hm).resolve_left e

/-- The row CUT_RESTORE (R224). -/
theorem cutRestore_effects {m : Fin 16} {s : State} (h : Passes s m 0x0402 cutRestoreCommand) :
    Runs (.cutRestore m) s fun t => Done s t m (leBytes s.cutChannels.length 2 ++ zeros 2) fun u =>
      ∀ c < 512, u.flag F.channel_CUT c = false := by
  have o : Only [.image .channel] s.taken (s.cutChannels.foldl (fun s c => s.putFlag F.channel_CUT c false) s.taken) :=
    Only.foldl (fun _ _ hx => State.putFlag_only (by decide) hx) _ (Only.refl _ _)
  refine h.done rfl rfl (mailbox_of_only o (by decide) m) fun c hc => ?_
  have hmem : ∀ k, k ∈ s.cutChannels ↔ k < 512 ∧ s.flag F.channel_CUT k = true := fun k => by
    unfold State.cutChannels
    rw [List.mem_filter, List.mem_range]
  refine flag_cleared _ _ ?_ (fun k hk => ((hmem k).mp hk).1) hc
  cases hf : s.flag F.channel_CUT c with
  | false => exact .inl hf
  | true => exact .inr ((hmem c).mpr ⟨hc, hf⟩)

/-- The row GROUP_SWITCH (R220). -/
theorem groupSwitch_effects {g : Fin 32} {s : State}
    (h : (g.val, true) ∈ s.hatband.switching ∨ (g.val, false) ∈ s.hatband.switching) :
    Runs (.groupSwitch g) s fun t => t.flag F.group_STATE g = !s.hatband.switching.contains (g.val, false)
      ∧ t.hatband = { s.hatband with switching := s.hatband.switching.filter fun x => x.1 ≠ g } := by
  have hs : (s.fresh.hatband.switching.contains (g.val, true) || s.fresh.hatband.switching.contains (g.val, false)) = true :=
    Bool.or_eq_true_iff.mpr (h.imp List.contains_iff_mem.mpr List.contains_iff_mem.mpr)
  exact ⟨_, congrArg Host.Outcome.next (if_pos hs), State.flag_putFlag _ _ _ _ (by decide), rfl⟩

/-- Settles O43: the rows one by one. -/
theorem hatbandEffects : Obligations.HatbandEffects :=
  ⟨fun _ _ => evcStatusRead_effects, fun _ _ => cutRestore_effects, fun _ _ _ _ _ h _ hl => hatbandArrival_effects h hl,
    fun _ _ _ _ _ => hatbandDelivery_effects, fun _ _ => groupSwitch_effects,
    fun _ _ _ hx hm he hk => trigInAccept_effects hx hm he hk, fun _ _ _ _ => trigInStuck_effects,
    fun _ _ _ _ => trigInUnmask_effects, fun _ _ _ => trigOutPulseEnd_effects⟩

end Sys2Proof
end

section
namespace Sys2Proof
open Machine

/-! ### The canonical form of the memories (R229, R232) -/

/-- Settles O6: a tick and a command keep the form, which is a part of the state that neither may change. -/
theorem everyStepKeepsMemoryForm : Obligations.EveryStepKeepsMemoryForm := by
  intro s t hw h
  unfold step at h
  split at h
  · obtain rfl := Host.Outcome.next.inj h
    exact State.tickOn_only (List.Subset.refl _) (Only.refl _ s) .form (by decide) hw
  · next c rest _ =>
    obtain ⟨u, hu, o⟩ := exec_timeless c { s with pending := rest }
    obtain rfl := Host.Outcome.next.inj (h.symm.trans hu)
    exact o .form (by decide) hw

end Sys2Proof
end

section
namespace Sys2Proof
open Machine
namespace Machine

/-! ### Checks that pass (R354) -/

theorem firstBad_none : ∀ {l : List (Bool × Status × Nat)}, firstBad l = none → ∀ x ∈ l, x.1 = false
  | (b, _, _) :: l, h, x, hx => by
    cases b with
    | true => exact absurd h (Option.some_ne_none _)
    | false => exact (List.mem_cons.mp hx).elim (fun e => e ▸ rfl) (firstBad_none (l := l) h x)

theorem Command.checks_of_verdict {c : Command} {mode : Mode} (h : c.verdict mode = none) : firstBad c.checks = none := by
  unfold Command.verdict at h
  split at h
  · exact absurd h (Option.some_ne_none _)
  · exact absurd h (Option.some_ne_none _)
  · split at h
    · exact absurd h (Option.some_ne_none _)
    · exact h

end Machine

/-- A request that passes fails none of its checks. -/
theorem Passes.check {s : State} {m code : Nat} {cmd : Request → State → Command} (h : Passes s m code cmd)
    {x : Bool × Status × Nat} (hx : x ∈ (cmd (s.request m) s.taken).checks) : x.1 = false :=
  firstBad_none (Command.checks_of_verdict h.verdict) x hx

namespace Machine

/-! ### Errors of the stream store (R240, R241) -/

/-- Out of RESET and of self-refresh the stream store is at work. -/
theorem store_works {s : State} (hm : s.mode ≠ .reset) (ho : s.storeOpen = true) :
    (decide (s.mode = .reset) || !s.storeOpen) = false := by
  simp [hm, ho]

/-- The list of retired pages takes a page (R241). -/
def State.listRetired (s : State) (page : Nat) : State :=
  { s with flash := { s.flash with
    pagesRetired := if s.flash.pagesRetired.contains page then s.flash.pagesRetired
      else s.flash.pagesRetired ++ [page] } }

/-- A page takes a spare page. -/
def State.spendSpare (s : State) : State :=
  (s.put F.storeStatus_SPARES_LEFT 0 (s.get F.storeStatus_SPARES_LEFT - 1)).raise 913

theorem State.retirePage_split (s : State) (page : Nat) : s.retirePage page =
    if (s.listRetired page).get F.storeStatus_SPARES_LEFT = 0 then
      (s.listRetired page).setMemory { (s.listRetired page).memory with
        pageUnusable := if (s.listRetired page).memory.pageUnusable.contains page
          then (s.listRetired page).memory.pageUnusable else (s.listRetired page).memory.pageUnusable ++ [page] }
    else (s.listRetired page).spendSpare.setMemory { (s.listRetired page).spendSpare.memory with
      pagePoison := (s.listRetired page).spendSpare.memory.pagePoison.list page [] } := rfl

theorem State.spendSpare_done (s : State) :
    s.spendSpare.get F.storeStatus_SPARES_LEFT = s.get F.storeStatus_SPARES_LEFT - 1
      ∧ s.spendSpare.get F.storeStatus_LASTING = s.get F.storeStatus_LASTING ∧ s.spendSpare.memory = s.memory
      ∧ s.spendSpare.flash = s.flash ∧ Grows s s.spendSpare := by
  have := State.get_lt s F.storeStatus_SPARES_LEFT 0
  unfold State.spendSpare
  refine ⟨?_, ?_, rfl, rfl, (Grows.put _ _ _ _).trans (Grows.raise _ _ _ _ _)⟩
  · rw [State.raise_get, State.get_put_of_lt _ _ _ (by omega)]
  · rw [State.raise_get, State.get_put_other _ (by decide)]

/-- A page that is retired: its beats read as poisoned, whether or not a spare page remains, and its bytes stand. -/
theorem State.retirePage_done (s : State) (page : Nat) :
    (s.retirePage page).get F.storeStatus_SPARES_LEFT = s.get F.storeStatus_SPARES_LEFT - 1
      ∧ (s.retirePage page).get F.storeStatus_LASTING = s.get F.storeStatus_LASTING
      ∧ (∀ a, pageOf a = page → (s.retirePage page).beatPoisoned a = true) ∧ page ∈ (s.retirePage page).flash.pagesRetired
      ∧ (s.retirePage page).memory.store = s.memory.store ∧ Grows s (s.retirePage page) := by
  rw [State.retirePage_split]
  have hg : ∀ f i, (s.listRetired page).get f i = s.get f i := State.get_congr rfl
  have hp : page ∈ (s.listRetired page).flash.pagesRetired := mem_addOnce page _
  have hm : (s.listRetired page).memory = s.memory := rfl
  have gd : Grows s (s.listRetired page) := Grows.of_eq rfl rfl
  generalize s.listRetired page = d at *
  split
  · next h =>
    refine ⟨?_, ?_, fun a ha => ?_, hp, (congrArg Memory.store hm :), gd.trans (Grows.of_eq rfl rfl)⟩
    · rw [State.setMemory_get, h, ← hg, h]
    · rw [State.setMemory_get, hg]
    · unfold State.beatPoisoned
      rw [ha, Bool.or_eq_true]
      exact .inr (List.contains_iff_mem.mpr (mem_addOnce page _))
  · obtain ⟨h1, h2, h3, h4, h5⟩ := d.spendSpare_done
    refine ⟨?_, ?_, fun a ha => ?_, h4 ▸ hp, (congrArg Memory.store (h3.trans hm) :),
      gd.trans (h5.trans (Grows.of_eq rfl rfl))⟩
    · rw [State.setMemory_get, h1, hg]
    · rw [State.setMemory_get, h2, hg]
    · unfold State.beatPoisoned
      rw [ha, Bool.or_eq_true]
      exact .inl (congrArg Option.isSome (SMap.find_list _ _ _))

end Machine

/-- A single-bit error is counted as corrected (R240). -/
theorem storeSingle_effects (beat : BitVec 28) {s : State} (hm : s.mode ≠ .reset) (ho : s.storeOpen = true) :
    Runs (.storeUncorrectable beat .single) s fun t => t.get F.storeStatus_CORRECTED =
      satAdd (s.get F.storeStatus_CORRECTED) 1 F.storeStatus_CORRECTED.width ∧ Only [.image .storeStatus, .out] s t :=
  ⟨s.fresh.count F.storeStatus_CORRECTED 0, congrArg Host.Outcome.next (if_neg (ne_true_of_eq_false (store_works hm ho))),
    State.get_count _ _ _ _, State.count_only (by decide) (State.fresh_only (by decide) (Only.refl _ s))⟩

/-- An uncorrectable error that a re-read does not show again (R240). -/
theorem storeTransient_effects (beat : BitVec 28) {s : State} (hm : s.mode ≠ .reset) (ho : s.storeOpen = true) :
    Runs (.storeUncorrectable beat .transient) s fun t => t.get F.storeStatus_TRANSIENT =
      satAdd (s.get F.storeStatus_TRANSIENT) 1 F.storeStatus_TRANSIENT.width ∧ Raised s t 912 0 0 ∧ Reported s t 4
        ∧ t.memory = s.memory := by
  refine ⟨((s.fresh.count F.storeStatus_TRANSIENT 0).raise 912 0).report 4 false 912 (beat.toNat / 64) (64 * beat.toNat),
    congrArg Host.Outcome.next (if_neg (ne_true_of_eq_false (store_works hm ho))), ?_⟩
  have o := State.report_only (cls := 4) (lasting := false) (source := 912) (a := beat.toNat / 64) (b := 64 * beat.toNat)
    (List.Subset.refl _) (Only.refl _ ((s.fresh.count F.storeStatus_TRANSIENT 0).raise 912 0))
  refine ⟨?_, (Raised.raise _ _ _).grow (Grows.report _ _ _ _ _ _), Reported.report _ _ _ _ _ rfl,
    (memory_of_only o (by decide) (by decide) (by decide) :)⟩
  rw [o.get (by decide), State.raise_get, State.get_count, State.fresh_get]

/-- An uncorrectable error that stays (R240, R241). -/
theorem storeLasting_effects (beat : BitVec 28) {s : State} (hm : s.mode ≠ .reset) (ho : s.storeOpen = true) :
    Runs (.storeUncorrectable beat .lasting) s fun t =>
      t.get F.storeStatus_SPARES_LEFT = s.get F.storeStatus_SPARES_LEFT - 1
      ∧ t.get F.storeStatus_LASTING = satAdd (s.get F.storeStatus_LASTING) 1 F.storeStatus_LASTING.width
      ∧ Raised s t 912 1 0 ∧ Reported s t 4
      ∧ t.beatPoisoned (64 * beat.toNat) = true ∧ beat.toNat / 64 ∈ t.flash.pagesRetired
      ∧ t.memory.store = s.memory.store := by
  obtain ⟨v, hv⟩ : ∃ v, v = ((s.fresh.count F.storeStatus_LASTING 0).raise 912 1).report 4 true 912 (beat.toNat / 64)
    (64 * beat.toNat) := ⟨_, rfl⟩
  have o : Only [.log, .image .logStatus, .out, .hatband] ((s.fresh.count F.storeStatus_LASTING 0).raise 912 1) v :=
    hv ▸ State.report_only (List.Subset.refl _) (Only.refl _ _)
  have hr : Raised s v 912 1 0 := hv ▸ (Raised.raise _ _ _).grow (Grows.report _ _ _ _ _ _)
  have hc : Reported s v 4 := hv ▸ Reported.report _ _ _ _ _ rfl
  have or := State.retirePage_only (page := beat.toNat / 64) (List.Subset.refl _) (Only.refl _ v)
  obtain ⟨h1, h2, h3, h4, h5, h6⟩ := v.retirePage_done (beat.toNat / 64)
  refine ⟨v.retirePage (beat.toNat / 64),
    (congrArg Host.Outcome.next (if_neg (ne_true_of_eq_false (store_works hm ho)))).trans (by rw [hv]), ?_, ?_, hr.grow h6,
    hc.only or (by decide), h3 _ (by unfold pageOf; omega), h4, ?_⟩
  · rw [h1, o.get (by decide), State.raise_get, State.get_count_other _ (by decide), State.fresh_get]
  · rw [h2, o.get (by decide), State.raise_get, State.get_count, State.fresh_get]
  · rw [h5, memory_of_only o (by decide) (by decide) (by decide), State.raise_memory, State.count_memory, State.fresh_memory]

/-! ### Emergency takings and scrubbing (R236) -/

/-- A taking that is due (log 109). -/
theorem storeEmergencyTake_effects {s : State} (hm : s.mode ≠ .reset) (ho : s.storeOpen = true)
    (hd : ∀ x, s.memory.lastTake = some x → x + 312 ≤ s.clock.now) : Runs .storeEmergencyTake s fun t =>
      t.memory.lastTake = some s.clock.now ∧ 1 ≤ t.storeArb.held ∧ t.storeArb.held ≤ 32
        ∧ ({ t.storeArb with held := 0 } : Arbiter) = { s.storeArb with held := 0 } ∧ Only [.memory, .free, .out] s t := by
  obtain ⟨v, hv⟩ : ∃ v, v = s.fresh.free.2.setMemory { s.memory with lastTake := some s.clock.now } := ⟨_, rfl⟩
  have ov : Only [.memory, .free, .out] s v := hv ▸ State.setMemory_only (by decide) (.inr ⟨rfl, rfl⟩)
    (.inr ⟨rfl, rfl⟩) id (State.free_only (by decide) (State.fresh_only (by decide) (Only.refl _ s)))
  refine ⟨v.setStoreArb { s.storeArb with held := s.fresh.free.1.toNat % 32 + 1 }, ?_,
    congrArg Memory.lastTake (congrArg State.memory hv), Nat.le_add_left 1 _, Nat.mod_lt _ (by decide), rfl, State.setStoreArb_only (by decide) ov⟩
  subst hv
  refine congrArg Host.Outcome.next (if_pos ?_)
  rw [show s.fresh.storeOpen = true from ho, Bool.and_true, Bool.and_eq_true]
  refine ⟨decide_eq_true hm, ?_⟩
  split
  · next x hx => exact decide_eq_true (hd x hx)
  · rfl

/-- A taking that comes too soon after the last. -/
theorem storeEmergencyTake_early {s : State} {x : Nat} (hx : s.memory.lastTake = some x) (hn : s.clock.now < x + 312) :
    Runs .storeEmergencyTake s fun t => t = s.fresh := by
  refine ⟨_, congrArg Host.Outcome.next (if_neg ?_), rfl⟩
  rw [State.fresh_memory, hx, State.fresh_clock]
  dsimp only
  rw [decide_eq_false (Nat.not_le.mpr hn), Bool.and_false]
  exact Bool.false_ne_true

/-- A scrub pass that ends once its period has passed. -/
theorem scrubPassDone_effects {s : State} (hm : s.mode ≠ .reset) (ho : s.storeOpen = true)
    (hp : s.memory.passSince + s.scrubTicks ≤ s.clock.now) : Runs .scrubPassDone s fun t =>
      t.memory = { s.memory with passSince := s.clock.now } ∧ Raised s t 914 0 0
      ∧ t.get F.storeStatus_SCRUB_PASSES = satAdd (s.get F.storeStatus_SCRUB_PASSES) 1 F.storeStatus_SCRUB_PASSES.width := by
  refine ⟨((s.fresh.setMemory { s.memory with passSince := s.clock.now }).count F.storeStatus_SCRUB_PASSES 0).raise 914,
    congrArg Host.Outcome.next (if_pos ?_), rfl, Raised.raise _ _ _, ?_⟩
  · rw [Bool.and_eq_true, Bool.and_eq_true]
    exact ⟨⟨decide_eq_true hm, ho⟩, decide_eq_true hp⟩
  · rw [State.raise_get, State.get_count, State.setMemory_get, State.fresh_get]

end Sys2Proof
end

section
namespace Sys2Proof
open Machine

/-! ### What AUTO and discarded chunks leave alone (R282, R300) -/

/-- The capture state without the chunks written, the jobs that wait and whether a drop has been seen. -/
def Machine.Capture.core (c : Capture) : Capture := { c with written := [], jobs := [], dropSeen := false }

/-- From `s` to `t` no more has become of the capture state than chunks marked, submitted as jobs or discarded: what is
staged and what Fulling holds stands, CAP_WP stands, and nothing has been reported but drops (class 22). -/
structure Feeds (s t : State) : Prop where
  capture : t.capture.core = s.capture.core
  wp : t.get F.capStatus_CAP_WP = s.get F.capStatus_CAP_WP
  grows : Grows s t
  counts : ∀ cls, cls ≠ 22 → SameCount cls s t

namespace Feeds

theorem refl (s : State) : Feeds s s := ⟨rfl, rfl, Grows.refl s, fun _ _ => rfl⟩

theorem trans {s t u : State} (h : Feeds s t) (g : Feeds t u) : Feeds s u :=
  ⟨g.capture.trans h.capture, g.wp.trans h.wp, h.grows.trans g.grows, fun c hc => (h.counts c hc).trans (g.counts c hc)⟩

theorem foldl {α : Type} {f : State → α → State} (hf : ∀ s x, Feeds s (f s x)) :
    ∀ (l : List α) (s : State), Feeds s (l.foldl f s)
  | [], s => refl s
  | x :: l, s => (hf s x).trans (foldl hf l (f s x))

theorem setCapture (s : State) {x : Capture} (h : x.core = s.capture.core) : Feeds s (s.setCapture x) :=
  ⟨h, State.setCapture_get _ _ _ _, Grows.of_eq rfl rfl, fun _ _ => rfl⟩

/-- A field beside CAP_WP is written. -/
theorem put (s : State) {f : Field} (v : Nat) (h : F.capStatus_CAP_WP.record = f.record →
    F.capStatus_CAP_WP.lo + F.capStatus_CAP_WP.width ≤ f.lo ∨ f.lo + f.width ≤ F.capStatus_CAP_WP.lo) :
    Feeds s (s.put f 0 v) :=
  ⟨rfl, State.get_put_other _ h, Grows.put _ _ _ _, fun _ _ => rfl⟩

theorem raise (s : State) (src : Nat) : Feeds s (s.raise src) :=
  ⟨rfl, State.raise_get _ _ _ _ _ _ _, Grows.raise _ _ _ _ _, fun _ _ => rfl⟩

/-- A report of a drop. -/
theorem report (s : State) (l : Bool) (src a b : Nat) : Feeds s (s.report 22 l src a b) := by
  have o := State.report_only (cls := 22) (lasting := l) (source := src) (a := a) (b := b) (List.Subset.refl _) (Only.refl _ s)
  have hc : (s.report 22 l src a b).capture = s.capture := o .capture (by decide)
  exact ⟨by rw [hc], o.get (by decide) 0, Grows.report _ _ _ _ _ _, fun c h => SameCount.report h s l src a b⟩

theorem dropChunk (s : State) (kind tile b : Nat) : Feeds s (s.dropChunk kind tile b) := by
  unfold State.dropChunk
  split
  · extract_lets v x w
    have hw : Feeds v w := by
      unfold w
      split
      · exact refl v
      · exact (setCapture v (x := { x with dropSeen := true }) rfl).trans (raise _ _)
    exact ((put s _ (by decide) : Feeds s v).trans hw).trans (report _ _ _ _ _)
  · exact ((put s _ (by decide)).trans (raise _ _)).trans (report _ _ _ _ _)

theorem consume (s : State) (a : Nat) : Feeds s (s.consume a) := by
  unfold State.consume
  refine Feeds.trans ?_ (put _ (f := F.capStatus_CAP_RP) _ (by decide))
  exact setCapture s rfl

theorem autoSubmit (s : State) (c : Chunk) : Feeds s (s.autoSubmit c) := by
  unfold State.autoSubmit
  extract_lets v
  have hv : Feeds s v := setCapture s rfl
  split
  · exact hv.trans (setCapture v rfl)
  · exact hv.trans ((dropChunk _ _ _ _).trans (consume _ _))

theorem autoFeed (s : State) : Feeds s s.autoFeed := by
  unfold State.autoFeed
  split
  · refine foldl (fun v c => ?_) _ s
    split
    · exact autoSubmit v c
    · exact refl v
  · exact refl s

theorem staging {s t : State} (h : Feeds s t) : t.capture.staging = s.capture.staging :=
  (congrArg Capture.staging h.capture :)
theorem running {s t : State} (h : Feeds s t) : t.capture.running = s.capture.running :=
  (congrArg Capture.running h.capture :)
theorem contexts {s t : State} (h : Feeds s t) : t.capture.contexts = s.capture.contexts :=
  (congrArg Capture.contexts h.capture :)
theorem history {s t : State} (h : Feeds s t) : t.capture.history = s.capture.history :=
  (congrArg Capture.history h.capture :)

end Feeds

namespace Machine

/-! ### The oldest staged chunk (R276, R282) -/

/-- The ring holds the chunk's blocks, and CAP_WP has passed it. -/
def State.chunkRinged (s : State) (c : Chunk) : State :=
  ((s.ringBlocks (s.get F.capStatus_CAP_WP) 0 (pieces 256 (c.blocks + 1) c.image)).moveBeats captureWriter
    (4 * (c.blocks + 1))).put F.capStatus_CAP_WP 0 (s.get F.capStatus_CAP_WP + c.bytes)

/-- The chunk has gone from staging to the list of those written. -/
def State.chunkListed (s : State) (c : Chunk) (wp : Nat) : State :=
  s.setCapture { s.capture with
    staging := s.capture.staging.drop 1
    written := s.capture.written ++ [{ c with at_ := wp, image := [] }] }

theorem State.writeChunk_split (s : State) (c : Chunk) : s.writeChunk c =
    ((if c.kind = 1 then ((s.chunkRinged c).chunkListed c (s.get F.capStatus_CAP_WP)).raise 978
      else (s.chunkRinged c).chunkListed c (s.get F.capStatus_CAP_WP)).endSnapBusy c.kind c.tile).autoFeed := rfl

theorem State.chunkRinged_done (s : State) (c : Chunk) :
    (s.chunkRinged c).get F.capStatus_CAP_WP = (s.get F.capStatus_CAP_WP + c.bytes) % 2 ^ 64
      ∧ Only [.store, .memory, .image .capStatus] s (s.chunkRinged c) :=
  ⟨State.get_put _ _ _ _, State.put_only (by decide) (State.moveBeats_only (by decide)
    (State.ringBlocks_only (by decide) (Only.refl _ s)))⟩

/-- With AUTO off no chunk is submitted. -/
theorem State.autoFeed_off (s : State) (h : s.flag F.capControl_AUTO = false) : s.autoFeed = s :=
  if_neg (ne_true_of_eq_false h)

/-- What becomes of the oldest staged chunk where it is written. -/
theorem State.writeChunk_done (s : State) {c : Chunk} {l : List Chunk} (hc : s.capture.staging = c :: l) :
    (s.writeChunk c).get F.capStatus_CAP_WP = (s.get F.capStatus_CAP_WP + c.bytes) % 2 ^ 64
      ∧ (s.writeChunk c).capture.staging = l
      ∧ (s.flag F.capControl_AUTO = false → (s.writeChunk c).capture.written =
        s.capture.written ++ [{ c with at_ := s.get F.capStatus_CAP_WP, image := [] }])
      ∧ (c.kind = kindDecision → Raised s (s.writeChunk c) 978 0 0)
      ∧ (c.kind = kindSnapshot → (s.writeChunk c).flag F.acqStatus_SNAP_BUSY c.tile = false) := by
  rw [State.writeChunk_split]
  obtain ⟨hw, oa⟩ := s.chunkRinged_done c
  generalize s.chunkRinged c = a at *
  obtain ⟨b, hb⟩ : ∃ b, b = a.chunkListed c (s.get F.capStatus_CAP_WP) := ⟨_, rfl⟩
  have ha : a.capture = s.capture := oa .capture (by decide)
  have ob : Only [.capture] a b := hb ▸ State.setCapture_only (List.Subset.refl _) (Only.refl _ a)
  have hbs : b.capture.staging = l := by
    rw [hb, show (a.chunkListed c (s.get F.capStatus_CAP_WP)).capture.staging = a.capture.staging.drop 1 from rfl, ha, hc]
    rfl
  have hbw : b.capture.written = s.capture.written ++ [{ c with at_ := s.get F.capStatus_CAP_WP, image := [] }] := by
    rw [hb, ← ha]
    rfl
  rw [← hb]
  obtain ⟨d, hd⟩ : ∃ d, d = if c.kind = 1 then b.raise 978 else b := ⟨_, rfl⟩
  have od : Only [.out, .hatband] b d := hd ▸ Only.ite (State.raise_only (List.Subset.refl _) (Only.refl _ b)) (Only.refl _ b)
  rw [← hd]
  have oe := State.endSnapBusy_only (kind := c.kind) (tile := c.tile) (List.Subset.refl _) (Only.refl _ d)
  have hs : c.kind = kindSnapshot → (d.endSnapBusy c.kind c.tile).flag F.acqStatus_SNAP_BUSY c.tile = false := fun h => by
    unfold State.endSnapBusy
    rw [if_pos h]
    exact State.flag_putFlag _ _ _ _ (by decide)
  have hr : c.kind = kindDecision → Raised s (d.endSnapBusy c.kind c.tile) 978 0 0 := fun h => by
    refine Raised.grow ?_ (Grows.of_only oe (by decide) (by decide))
    rw [hd, if_pos (show c.kind = 1 from h)]
    exact Raised.raise _ _ _
  generalize d.endSnapBusy c.kind c.tile = e at *
  have hec : e.capture = b.capture := (oe .capture (by decide)).trans (od .capture (by decide))
  have hf := Feeds.autoFeed e
  have of := State.autoFeed_only (List.Subset.refl _) (Only.refl _ e)
  refine ⟨?_, hf.staging.trans ((congrArg Capture.staging hec).trans hbs), fun h => ?_, fun h => (hr h).grow hf.grows,
    fun h => ?_⟩
  · rw [hf.wp, oe.get (by decide), od.get (by decide), ob.get (by decide), hw]
  · rw [State.autoFeed_off e, hec, hbw]
    rw [oe.flag (by decide), od.flag (by decide), ob.flag (by decide), oa.flag (by decide), h]
  · rw [of.flag (by decide), hs h]

end Machine

/-- CHUNK_WRITTEN where a chunk is staged. -/
theorem chunkWritten_effects {s : State} {c : Chunk} {l : List Chunk} (hm : s.mode ≠ .reset) (ho : s.storeOpen = true)
    (hc : s.capture.staging = c :: l) : Runs .chunkWritten s fun t =>
      t.get F.capStatus_CAP_WP = (s.get F.capStatus_CAP_WP + c.bytes) % 2 ^ 64 ∧ t.capture.staging = l
        ∧ (s.flag F.capControl_AUTO = false → t.capture.written =
          s.capture.written ++ [{ c with at_ := s.get F.capStatus_CAP_WP, image := [] }])
        ∧ (c.kind = kindDecision → Raised s t 978 0 0)
        ∧ (c.kind = kindSnapshot → t.flag F.acqStatus_SNAP_BUSY c.tile = false) := by
  refine ⟨s.fresh.writeChunk c, ?_, State.writeChunk_done s.fresh hc⟩
  change execChunkWritten s = _
  unfold execChunkWritten
  dsimp only
  rw [show s.fresh.capture.staging = c :: l from hc]
  refine congrArg Host.Outcome.next (if_pos ?_)
  rw [Bool.and_eq_true]
  exact ⟨decide_eq_true hm, ho⟩

/-! ### HIST_DUMP (R277, R282) -/

/-- HIST_DUMP forms a HISTOGRAM chunk. -/
theorem histDump_effects {m : Fin 16} {s : State} {slot : Nat} (h : Passes s m 0x0507 histDumpCommand)
    (hs : slot = (s.request m).at 0 1) : Runs (.histDump m) s fun t =>
      Done s t m (leBytes (s.chunkSeq kindHistogram (slot / 16)) 4) fun u =>
        u.chunkSeq kindHistogram (slot / 16) = (s.chunkSeq kindHistogram (slot / 16) + 1) % 2 ^ 32
          ∧ (s.chunkFits kindHistogram (256 * 49) = true → u.capture.staging.length = s.capture.staging.length + 1) := by
  subst hs
  have hz : s.get F.capControl_CAP_SIZE ≠ 0 := of_decide_eq_false
    (h.check (x := (s.get F.capControl_CAP_SIZE = 0, .noSpace, 0)) (List.mem_cons_of_mem _ List.mem_cons_self))
  have o : Only [.free, .out, .mailboxes] s s.taken.freeBit.2 :=
    State.freeBit_only (by decide) (taken_only s (by decide))
  refine h.done rfl rfl ?_ ?_
  · exact mailbox_of_only (State.formChunk_only (List.Subset.refl _) (Only.refl _ s.taken.freeBit.2)) (by decide) m
  · obtain ⟨h1, h2⟩ := Formed.of_only o (by decide) (by decide) (by decide) (by decide)
      { s.taken.freeBit.2.shotHead ((s.request m).at 0 1 / 16) kindHistogram 48 s.taken.freeBit.1 with
        paramA := (s.request m).at 0 1, paramB := s.taken.freeBit.2.get F.histStatus_BINNED ((s.request m).at 0 1) }
      (s.taken.freeBit.2.histBytes ((s.request m).at 0 1) 0 64) rfl hz
    refine ⟨h1, fun hf => ?_⟩
    obtain ⟨c, hc, -⟩ := h2 hf
    exact (congrArg List.length hc).trans List.length_append

/-- Settles O25: what an error, a taking and a pass leave of the store, and what is written and formed, each by its own
lemma. -/
theorem storeEffects : Obligations.StoreEffects :=
  ⟨fun beat _ hm ho => storeSingle_effects beat hm ho, fun beat _ hm ho => storeTransient_effects beat hm ho,
    fun beat _ hm ho => storeLasting_effects beat hm ho, fun _ hm ho hd => storeEmergencyTake_effects hm ho hd,
    fun _ _ hx hn => storeEmergencyTake_early hx hn, fun _ hm ho hp => scrubPassDone_effects hm ho hp,
    fun _ _ _ hm ho hc => chunkWritten_effects hm ho hc, fun _ _ _ h hs => histDump_effects h hs⟩

end Sys2Proof
end

section
namespace Sys2Proof
open Machine
namespace Machine

/-! ### Lists cut into pieces, and keys that are dropped -/

/-- A key beside the one dropped. -/
theorem SMap.find_drop_ne {α : Type} : ∀ (m : SMap α) {k j : Nat}, j ≠ k → (m.drop k).find j = m.find j
  | [], _, _, _ => rfl
  | (i, v) :: m, k, j, h => by
    by_cases e : i = k
    · rw [SMap.drop, if_pos e, SMap.find_drop_ne m h, SMap.find, if_neg (fun x => h (x.symm.trans e))]
    · rw [SMap.drop, if_neg e, SMap.find, SMap.find, SMap.find_drop_ne m h]

/-- A list that is long enough is cut into that many pieces. -/
theorem pieces_eq_map {α : Type} {n : Nat} (hn : 0 < n) : ∀ (fuel : Nat) (b : List α), n * fuel ≤ b.length →
    pieces n fuel b = (List.range fuel).map fun i => (b.drop (n * i)).take n
  | 0, _, _ => rfl
  | fuel + 1, b, h => by
    rw [Nat.mul_succ] at h
    have hb : b.isEmpty = false := by
      rw [List.isEmpty_eq_false_iff_exists_mem, ← List.length_pos_iff_exists_mem]
      omega
    rw [pieces, hb, if_neg Bool.false_ne_true, pieces_eq_map hn fuel (b.drop n) (by rw [List.length_drop]; omega),
      List.range_succ_eq_map, List.map_cons, List.map_map]
    simp only [List.drop_drop, Nat.mul_zero, List.drop_zero, Function.comp_def, Nat.mul_succ, Nat.add_comm]

theorem pieces_length {α : Type} {n fuel : Nat} (hn : 0 < n) {b : List α} (h : n * fuel ≤ b.length) :
    (pieces n fuel b).length = fuel := by
  rw [pieces_eq_map hn fuel b h, List.length_map, List.length_range]

theorem pieces_getElem {α : Type} {n fuel : Nat} (hn : 0 < n) {b : List α} (h : n * fuel ≤ b.length) {i : Nat}
    (hi : i < (pieces n fuel b).length) : (pieces n fuel b)[i] = (b.drop (n * i)).take n := by
  simp only [pieces_eq_map hn fuel b h, List.getElem_map, List.getElem_range]

/-- Every piece is full. -/
theorem length_of_mem_pieces {α : Type} {n fuel : Nat} (hn : 0 < n) {b : List α} (h : n * fuel ≤ b.length) {x : List α}
    (hx : x ∈ pieces n fuel b) : x.length = n := by
  rw [pieces_eq_map hn fuel b h] at hx
  obtain ⟨i, hi, rfl⟩ := List.mem_map.mp hx
  have : n * (i + 1) ≤ n * fuel := Nat.mul_le_mul_left n (List.mem_range.mp hi)
  rw [Nat.mul_succ] at this
  rw [List.length_take, List.length_drop]
  omega

/-- Pieces of 256 bytes, written as blocks: each block holds its piece and carries its seal. -/
theorem State.writeBlocks_pieces (s : State) (block fuel : Nat) {b : List Byte} (h : 256 * fuel ≤ b.length) {i : Nat}
    (hi : i < fuel) :
    (s.writeBlocks block (pieces 256 fuel b)).storeBytes (256 * (block + i)) 256 = (b.drop (256 * i)).take 256
      ∧ (s.writeBlocks block (pieces 256 fuel b)).storeBlockSeal (block + i) = crc32c ((b.drop (256 * i)).take 256) := by
  have hn : 0 < 256 := by decide
  have := State.writeBlocks_block (pieces 256 fuel b) s block (fun x hx => length_of_mem_pieces hn h hx) i
    (by rw [pieces_length hn h]; exact hi)
  rwa [pieces_getElem hn h] at this

/-- Beats that are asked for leave what the store holds. -/
theorem State.storeBytes_moveBeats (s : State) (q n a k : Nat) : (s.moveBeats q n).storeBytes a k = s.storeBytes a k := rfl
theorem State.storeBlockSeal_moveBeats (s : State) (q n k : Nat) : (s.moveBeats q n).storeBlockSeal k = s.storeBlockSeal k := rfl

end Machine

/-- A value that is not refused. -/
theorem Machine.badAt_passes {d : Nat} {b : Bool} (h : (badAt d b).1 = false) : b = false := h

/-! ### Stream contexts (R297, R298) -/

/-- A context takes new values behind changes that have left the capture state alone. -/
theorem StreamBecomes.set {s v : State} (h : v.capture = s.capture) (id ctx : Nat) (l : List Byte) :
    StreamBecomes s (v.setStream id ctx l) id ctx l := by
  refine ⟨SMap.read_write_self _ _ _ _, SMap.read_write_self _ _ _ _, fun k hk => ⟨?_, ?_⟩⟩
  · refine (SMap.read_write_ne v.capture.contexts id k ctx hk).trans ?_
    rw [h]
    rfl
  · refine (SMap.read_write_ne v.capture.history [] [] l hk).trans ?_
    rw [h]
    rfl

/-- The clause of O60 on STREAM_RESET. -/
theorem streamReset_effects {m : Fin 16} {s : State} {id : Nat} (h : Passes s m 0x0504 streamResetCommand)
    (hi : id = (s.request m).at 0 2) : Runs (.streamReset m) s fun t => Done s t m [] fun u =>
      StreamBecomes s u id (setBits (setBits (s.streamCtx id) 12 1 0) 48 16 0) []
      ∧ Only [.out, .mailboxes, .capture] s u := by
  subst hi
  exact h.done rfl rfl rfl ⟨StreamBecomes.set rfl _ _ _, State.setStream_only (by decide) (taken_only s (by decide))⟩

/-- The clause of O60 on STREAM_STATE. -/
theorem streamState_effects {m : Fin 16} {s : State} (h : Passes s m 0x0505 streamStateCommand) :
    Runs (.streamState m) s fun t => Answered s t m .ok 0 (leBytes (s.streamCtx ((s.request m).at 0 2)) 64)
      ∧ Only [.log, .image .logStatus, .out, .hatband, .mailboxes, .host] s t :=
  h.replied rfl rfl ⟨Answered.reply rfl, (taken_only s (by decide)).trans (Answered.only _ _ _ _)⟩

/-- A request of STREAM_SAVE or STREAM_RESTORE waits while the stream store makes no grants (R237). -/
theorem serveStore_waits {s : State} (h : s.storeOpen = false) (m code : Nat) (cmd : Request → State → Command) :
    s.fresh.serveStore m code cmd = s.fresh := if_neg (ne_true_of_eq_false h)

theorem serveStore_serves {s : State} (h : s.storeOpen = true) (m code : Nat) (cmd : Request → State → Command) :
    s.fresh.serveStore m code cmd = s.fresh.serve m code cmd := if_pos h

theorem Machine.length_leBytes : ∀ n v : Nat, (leBytes v n).length = n
  | 0, _ => rfl
  | n + 1, v => congrArg (· + 1) (length_leBytes n (v / 256))

/-- A context image fills its 129 blocks. -/
theorem Machine.State.streamImage_length (s : State) (id : Nat) : 256 * 129 ≤ (s.streamImage id).length := by
  unfold State.streamImage
  simp only [List.length_append, length_leBytes, zeros, List.length_replicate]
  omega

/-- The clause of O60 on STREAM_SAVE (log 113 for the reader of the context). -/
theorem streamSave_effects {m : Fin 16} {s : State} {id a : Nat} (ho : s.storeOpen = true)
    (h : Passes s m 0x0502 streamSaveCommand) (hi : id = (s.request m).at 0 2) (ha : a = (s.request m).at 8 8) :
    Runs (.streamSave m) s fun t => Done s t m [] fun u =>
      (∀ k < 129, u.storeBytes (a + 256 * k) 256 = ((s.streamImage id).drop (256 * k)).take 256
        ∧ u.storeBlockSeal (a / 256 + k) = crc32c (((s.streamImage id).drop (256 * k)).take 256))
      ∧ Only [.out, .mailboxes, .store, .memory] s u := by
  have hc := h.check (x := badAt 8 ((s.request m).at 8 8 % 256 ≠ 0 || s.taken.storeRefuses ((s.request m).at 8 8) 33024))
    (List.mem_cons_of_mem _ (List.mem_cons_of_mem _ List.mem_cons_self))
  have ha0 : a % 256 = 0 := by
    rw [ha]
    exact of_not_not (of_decide_eq_false (Bool.or_eq_false_iff.mp (badAt_passes hc)).1)
  subst hi
  have o : Only [.memory, .store] s.taken (s.taken.saveStream ((s.request m).at 0 2) a) :=
    State.saveStream_only (List.Subset.refl _) (Only.refl _ _)
  refine h.done (congrArg Host.Outcome.next (serveStore_serves ho _ _ _)) (u := s.taken.saveStream ((s.request m).at 0 2) a)
    (by rw [ha]; rfl) (mailbox_of_only o (by decide) m)
    ⟨fun k hk => ?_, (taken_only s (by decide)).trans (o.mono (by decide))⟩
  have hw := s.taken.writeBlocks_pieces (a / 256) 129 (s.streamImage_length ((s.request m).at 0 2)) hk
  rw [show 256 * (a / 256 + k) = a + 256 * k by omega] at hw
  unfold State.saveStream
  rw [State.storeBytes_moveBeats, State.storeBytes_moveBeats, State.storeBlockSeal_moveBeats, State.storeBlockSeal_moveBeats]
  exact hw

namespace Machine

/-- The blocks of a context image in the store carry their seals. -/
theorem imageBlocks_good (f : Nat → List Byte) (g : Nat → Nat) (n : Nat) :
    ((List.range n).all fun i => crc32c (((List.range n).map f).getD i []) = g i) = true ↔ ∀ i < n, crc32c (f i) = g i := by
  rw [List.all_eq_true]
  refine forall_congr' fun i => ?_
  rw [List.mem_range, decide_eq_true_iff]
  refine imp_congr_right fun hi => ?_
  rw [List.getD_eq_getElem?_getD, List.getElem?_map, List.getElem?_range hi]
  rfl

/-- The checks of STREAM_RESTORE on the image in the store, in their order. -/
theorem State.restoreStream_checks (s : State) (id a : Nat) {img : List Byte} {ctx : Nat} {good : Bool}
    (hg : good = true ↔ ∀ i < 129, crc32c (s.storeBytes (a + 256 * i) 256) = s.storeBlockSeal (a / 256 + i))
    (hi : img = ((List.range 129).map fun i => s.storeBytes (a + 256 * i) 256).flatten) (hx : ctx = le img 0 64) :
    s.restoreStream id a =
    if s.storePoisoned a 33024 = true then .fail (s.moveBeats (contextReader id) contextBeats) .faulted 0
    else if (!good) = true then
      .fail ((s.moveBeats (contextReader id) contextBeats).report 3 false 0xFFF id (a / 256)) .sealMismatch 0
    else if bits ctx 0 12 ≠ id then .fail (s.moveBeats (contextReader id) contextBeats) .badValue 32
    else .ok (((s.moveBeats (contextReader id) contextBeats).moveBeats captureWriter contextBeats).setStream id ctx
      (img.drop (33024 - min 32768 (bits ctx 48 16)))) [] := by
  rw [hx, hi, Bool.eq_iff_iff.mpr (hg.trans (imageBlocks_good _ _ 129).symm)]
  rfl

end Machine

/-- A request that fails in its act, where the act has left the mailboxes alone. -/
theorem Passes.refused {c : Instr} {s u : State} {m code : Nat} {cmd : Request → State → Command} {st : Status} {d : Nat}
    {ps : List Part} (h : Passes s m code cmd) (he : exec c s = .next (s.fresh.serve m code cmd))
    (ha : (cmd (s.request m) s.taken).act s.taken = .fail u st d) (o : Only ps s.taken u) (hp : Part.mailboxes ∉ ps)
    {qs : List Part} (hq : ps ++ [.log, .image .logStatus, .out, .hatband, .mailboxes, .host] ⊆ qs) :
    Runs c s fun t => Answered s t m st d [] ∧ Only qs s t := by
  obtain ⟨h1, h2⟩ := List.append_subset.mp hq
  exact h.failed he ha ⟨Answered.reply (mailbox_of_only o hp m),
    ((taken_only s (List.Subset.trans (by decide) h2)).trans (o.mono h1)).trans ((Answered.only _ _ _ _).mono h2)⟩

/-- The clause of O60 on STREAM_RESTORE. -/
theorem streamRestore_effects {m : Fin 16} {s : State} {id a ctx : Nat} {img : List Byte} (ho : s.storeOpen = true)
    (h : Passes s m 0x0503 streamRestoreCommand) (hi : id = (s.request m).at 0 2) (ha : a = (s.request m).at 8 8)
    (hm : img = ((List.range 129).map fun i => s.storeBytes (a + 256 * i) 256).flatten) (hx : ctx = le img 0 64) :
    (s.storePoisoned a 33024 = true → Runs (.streamRestore m) s fun t => Answered s t m .faulted 0 []
      ∧ Only [.log, .image .logStatus, .out, .hatband, .mailboxes, .host, .memory] s t)
    ∧ (s.storePoisoned a 33024 = false →
      (∃ i < 129, crc32c (s.storeBytes (a + 256 * i) 256) ≠ s.storeBlockSeal (a / 256 + i)) →
      Runs (.streamRestore m) s fun t => Answered s t m .sealMismatch 0 []
        ∧ Only [.log, .image .logStatus, .out, .hatband, .mailboxes, .host, .memory] s t)
    ∧ (s.storePoisoned a 33024 = false →
      (∀ i < 129, crc32c (s.storeBytes (a + 256 * i) 256) = s.storeBlockSeal (a / 256 + i)) →
      (bits ctx 0 12 ≠ id → Runs (.streamRestore m) s fun t => Answered s t m .badValue 32 []
        ∧ Only [.log, .image .logStatus, .out, .hatband, .mailboxes, .host, .memory] s t)
      ∧ (bits ctx 0 12 = id → Runs (.streamRestore m) s fun t => Done s t m [] fun u =>
        StreamBecomes s u id ctx (img.drop (33024 - min 32768 (bits ctx 48 16)))
        ∧ Only [.out, .mailboxes, .capture, .memory] s u)) := by
  have he : exec (.streamRestore m) s = .next (s.fresh.serve m 0x0503 streamRestoreCommand) :=
    congrArg Host.Outcome.next (serveStore_serves ho _ _ _)
  have hact : (streamRestoreCommand (s.request m) s.taken).act s.taken = s.taken.restoreStream id a := by
    rw [hi, ha]
    rfl
  have o : Only [.memory] s.taken (s.taken.moveBeats (contextReader id) contextBeats) :=
    State.moveBeats_only (List.Subset.refl _) (Only.refl _ _)
  refine ⟨fun hp => ?_, fun hp hb => ?_, fun hp hb => ?_⟩
  · exact h.refused he (hact.trans ((s.taken.restoreStream_checks id a (imageBlocks_good _ _ 129) hm hx).trans (if_pos hp))) o
      (by decide) (by decide)
  · obtain ⟨i, hi, hne⟩ := hb
    have hbad := s.taken.restoreStream_checks id a (good := false) (iff_of_false Bool.false_ne_true fun x => hne (x i hi)) hm hx
    exact h.refused he (hact.trans (hbad.trans ((if_neg (ne_true_of_eq_false hp)).trans (if_pos rfl))))
      (State.report_only (ps := [.log, .image .logStatus, .out, .hatband, .memory]) (by decide) (o.mono (by decide)))
      (by decide) (by decide)
  · replace hact := hact.trans ((s.taken.restoreStream_checks id a (good := true) (iff_of_true rfl hb) hm hx).trans
      ((if_neg (ne_true_of_eq_false hp)).trans (if_neg Bool.false_ne_true)))
    refine ⟨fun hid => h.refused he (hact.trans (if_pos hid)) o (by decide) (by decide), fun hid => ?_⟩
    have ou : Only [.memory, .capture] s.taken (((s.taken.moveBeats (contextReader id) contextBeats).moveBeats captureWriter
        contextBeats).setStream id ctx (img.drop (33024 - min 32768 (bits ctx 48 16)))) :=
      State.setStream_only (by decide) (State.moveBeats_only (by decide) (o.mono (by decide)))
    exact h.done he (hact.trans (if_neg (not_not_intro hid))) (mailbox_of_only ou (by decide) m)
      ⟨StreamBecomes.set rfl _ _ _, (taken_only s (by decide)).trans (ou.mono (by decide))⟩

/-! ### Jobs that are submitted and tried again (R290, R300) -/

/-- The clause of O60 on FULLING_SUBMIT. -/
theorem fullingSubmit_effects {m : Fin 16} {s : State} {n : Nat} (h : Passes s m 0x0501 fullingSubmitCommand)
    (hn : n = (s.request m).at 0 4) : Runs (.fullingSubmit m) s fun t => Done s t m (leBytes n 2 ++ zeros 2) fun u =>
      u.capture = { s.capture with jobs := s.capture.jobs ++ (List.range n).map fun i =>
        { desc := (s.request m).at (8 + 64 * i) 64, fn := (s.request m).fn, auto := false, chunkAt := 0, faults := 0
          waitSpace := false, waitFault := false } }
      ∧ Only [.out, .mailboxes, .capture] s u := by
  have hc := h.check (x := badAt 0 ((s.request m).at 0 4 = 0 || 63 < (s.request m).at 0 4)) List.mem_cons_self
  have hle : n ≤ 63 := by
    rw [hn]
    exact Nat.not_lt.mp (of_decide_eq_false (Bool.or_eq_false_iff.mp (badAt_passes hc)).2)
  rw [hn]
  refine h.done rfl rfl rfl ⟨?_, State.setCapture_only (by decide) (taken_only s (by decide))⟩
  rw [State.setCapture_capture, ← hn, Nat.min_eq_left hle, List.map_map]
  rfl

/-- The clause of O60 on AUTO_JOB_RETRY where the first job of the queue may run again. -/
theorem autoJobRetry_releases {q : Fin 16} {s : State} {j : Job} (hj : s.queueHead q = some j)
    (hw : j.waitFault = true ∨ j.waitSpace = true ∧ frameBound (jobSrcBlocks j.desc) ≤ s.queueFree q 0) :
    Runs (.autoJobRetry q) s fun u => u.capture = { s.capture with jobs := s.capture.jobs.map fun y =>
        if y = j then { j with waitSpace := false, waitFault := false } else y }
      ∧ Only [.out, .capture] s u := by
  refine ⟨s.fresh.releaseJob j, ?_, rfl, State.releaseJob_only (by decide) (State.fresh_only (by decide) (Only.refl _ s))⟩
  change execAutoJobRetry q s = _
  unfold execAutoJobRetry
  dsimp only
  rw [show s.fresh.queueHead q = some j from hj]
  refine congrArg Host.Outcome.next (if_pos ?_)
  rw [Bool.or_eq_true, Bool.and_eq_true, decide_eq_true_iff]
  exact hw

/-- The clause of O60 on AUTO_JOB_RETRY where no job may. -/
theorem autoJobRetry_waits {q : Fin 16} {s : State} (h : ∀ j, s.queueHead q = some j → j.waitFault = false
    ∧ (j.waitSpace = false ∨ s.queueFree q 0 < frameBound (jobSrcBlocks j.desc))) :
    Runs (.autoJobRetry q) s fun u => u = s.fresh := by
  refine ⟨s.fresh, ?_, rfl⟩
  change execAutoJobRetry q s = _
  unfold execAutoJobRetry
  dsimp only
  split
  · next j hj =>
    obtain ⟨h1, h2⟩ := h j hj
    refine congrArg Host.Outcome.next (if_neg ?_)
    rw [h1, Bool.false_or, Bool.and_eq_true, decide_eq_true_iff]
    rintro ⟨h3, h4⟩
    exact h2.elim (fun x => Bool.false_ne_true (x.symm.trans h3)) (Nat.not_lt.mpr h4)
  · rfl

end Sys2Proof
end

section
namespace Sys2Proof
open Machine

/-! ### What an engine runs (R292, R294) -/

theorem EngineRuns.list {s u : State} {e : Nat} {x : RunJob} (h : u.capture.running = s.capture.running.list e x) :
    EngineRuns s u e (some x) := by
  unfold EngineRuns
  rw [h]
  exact ⟨SMap.find_list _ _ _, fun _ hk => SMap.find_list_ne _ _ hk⟩

theorem EngineRuns.drop {s u : State} {e : Nat} (h : u.capture.running = s.capture.running.drop e) :
    EngineRuns s u e none := by
  unfold EngineRuns
  rw [h]
  exact ⟨SMap.find_drop_self _ _, fun _ hk => SMap.find_drop_ne _ hk⟩

namespace Machine

/-! ### Jobs that start (R292, R297, R301) -/

/-- The queue that an engine serves next: the one with a ready job, in turn where both have one. -/
theorem State.nextQueue_of_ready {s : State} {e q o : Nat} {j : Job} (hq : q = e ∧ o = e + 8 ∨ q = e + 8 ∧ o = e)
    (hj : s.queueReady q = some j) (ht : s.queueReady o = none ∨ (s.capture.turn.read 16 e = e ↔ q = e + 8)) :
    s.nextQueue e = some q := by
  unfold State.nextQueue
  dsimp only
  by_cases hl : s.capture.turn.read 16 e = e
  · rw [if_pos hl, if_pos hl]
    rcases hq with ⟨rfl, rfl⟩ | ⟨rfl, rfl⟩
    · have hn : s.queueReady (q + 8) = none := ht.resolve_right fun x => by have := x.mp hl; omega
      rw [hn, hj]
      rfl
    · rw [hj]
      rfl
  · rw [if_neg hl, if_neg hl]
    rcases hq with ⟨rfl, rfl⟩ | ⟨rfl, rfl⟩
    · rw [hj]
      rfl
    · have hn : s.queueReady o = none := ht.resolve_right fun x => hl (x.mpr rfl)
      rw [hn, hj]
      rfl

theorem State.nextQueue_none {s : State} {e : Nat} (h1 : s.queueReady e = none) (h2 : s.queueReady (e + 8) = none) :
    s.nextQueue e = none := by
  unfold State.nextQueue
  dsimp only
  split
  · rw [h1, h2]
    rfl
  · rw [h1, h2]
    rfl

/-- What an engine holds once it has taken a job. -/
theorem State.startJob_done (s : State) (e q : Nat) (j : Job) {u : State} (hu : u = s.startJob e q j) :
    (∃ x : RunJob, EngineRuns s u e (some x) ∧ x.job = j ∧ x.queue = q
      ∧ x.bytes = 0 ∧ x.frames = 0 ∧ x.taken = 0 ∧ x.written = 0 ∧ x.finished = false
      ∧ x.ctx = s.streamCtx (jobStream j.desc) ∧ x.history = s.streamHistory (jobStream j.desc)
      ∧ x.ready = s.clock.now
        + (if jobBlock j.desc || (s.capture.held.read [] e).contains (jobStream j.desc) then 200 else 3200))
    ∧ u.capture.jobs = removeJob j s.capture.jobs ∧ u.capture.turn.read 16 e = q := by
  unfold State.startJob at hu
  extract_lets id held here a b held' x at hu
  have hb : b.capture = s.capture ∧ b.clock = s.clock := by
    have ha : a.capture = s.capture ∧ a.clock = s.clock := by
      unfold a
      split <;> exact ⟨rfl, rfl⟩
    unfold b
    split
    · exact ha
    · exact ha
  have hx : x.ctx = s.streamCtx id ∧ x.history = s.streamHistory id
      ∧ x.ready = s.clock.now + (if here then 200 else 3200) := by
    refine ⟨congrArg (fun c : Capture => c.contexts.read id id) hb.1,
      congrArg (fun c : Capture => c.history.read [] id) hb.1, ?_⟩
    exact congrArg (fun c : Clock => c.now + (if here then 200 else 3200)) hb.2
  have hc : u.capture = { s.capture with
      jobs := removeJob j s.capture.jobs
      running := s.capture.running.list e x
      held := s.capture.held.write [] e held'
      turn := s.capture.turn.write 16 e q } := by
    rw [hu, ← hb.1]
    rfl
  exact ⟨⟨x, EngineRuns.list (congrArg Capture.running hc), rfl, rfl, rfl, rfl, rfl, rfl, rfl, hx⟩, congrArg Capture.jobs hc,
    (congrArg (fun c : Capture => c.turn.read 16 e) hc).trans (SMap.read_write_self _ _ _ _)⟩

end Machine

/-- The clause of O60 on FULLING_JOB_START where the engine takes a job. -/
theorem fullingJobStart_takes {e : Fin 8} {s : State} {q o : Nat} {j : Job} (hr : s.fullingRuns = true)
    (hn : s.capture.running.find e = none) (hq : q = e.val ∧ o = e.val + 8 ∨ q = e.val + 8 ∧ o = e.val)
    (hj : s.queueReady q = some j) (ht : s.queueReady o = none ∨ (s.capture.turn.read 16 e = e ↔ q = e.val + 8)) :
    Runs (.fullingJobStart e) s fun u => (∃ x : RunJob, EngineRuns s u e (some x) ∧ x.job = j ∧ x.queue = q
          ∧ x.bytes = 0 ∧ x.frames = 0 ∧ x.taken = 0 ∧ x.written = 0 ∧ x.finished = false
          ∧ x.ctx = s.streamCtx (jobStream j.desc) ∧ x.history = s.streamHistory (jobStream j.desc)
          ∧ x.ready = s.clock.now
            + (if jobBlock j.desc || (s.capture.held.read [] e).contains (jobStream j.desc) then 200 else 3200))
        ∧ u.capture.jobs = removeJob j s.capture.jobs ∧ u.capture.turn.read 16 e = q ∧ Only [.out, .capture, .memory] s u := by
  obtain ⟨h1, h2, h3⟩ := s.fresh.startJob_done e q j rfl
  refine ⟨s.fresh.startJob e q j, ?_, h1, h2, h3,
    State.startJob_only (by decide) (State.fresh_only (by decide) (Only.refl _ s))⟩
  change execFullingJobStart e s = _
  unfold execFullingJobStart
  dsimp only
  rw [show s.fresh.nextQueue e = some q from State.nextQueue_of_ready (s := s) hq hj ht]
  dsimp only
  rw [show s.fresh.queueReady q = some j from hj, State.fresh_capture, hn, show s.fresh.fullingRuns = true from hr]
  rfl

/-- The clause of O60 on FULLING_JOB_START where the engine takes none. -/
theorem fullingJobStart_idle {e : Fin 8} {s : State} (h : s.fullingRuns = false ∨ s.capture.running.find e ≠ none
    ∨ s.queueReady e = none ∧ s.queueReady (e + 8) = none) : Runs (.fullingJobStart e) s fun u => u = s.fresh := by
  refine ⟨s.fresh, ?_, rfl⟩
  rcases h with h | h | ⟨h1, h2⟩
  · exact congrArg Host.Outcome.next (if_pos (by rw [show s.fresh.fullingRuns = false from h]; rfl))
  · exact congrArg Host.Outcome.next (if_pos (by
      rw [State.fresh_capture, Option.isSome_iff_ne_none.mpr h, Bool.or_true]))
  · change execFullingJobStart e s = _
    unfold execFullingJobStart
    dsimp only
    rw [show s.fresh.nextQueue e = none from State.nextQueue_none (s := s) h1 h2]
    exact congrArg Host.Outcome.next (ite_self _)

/-! ### Completions (R296) -/

theorem Machine.State.send_pi (s : State) (o : Output) : (s.send o).host.pi = s.host.pi := by
  unfold State.send
  split <;> rfl

/-- A completion that is posted. -/
theorem Completed.post (s : State) (f tag : Nat) (st : Status) (engine frames inBlocks outUnits : Nat) :
    Completed s (s.postCompletion f tag st engine frames inBlocks outUnits) f tag st engine frames inBlocks outUnits := by
  rintro k n rfl rfl he
  unfold State.postCompletion
  dsimp only
  rw [if_pos he]
  refine ⟨?_, Raised.raise _ _ _, fun hl => ?_⟩
  · rw [State.raise_host]
    refine (congrArg (fun m : SMap Nat => m.read 0 (ringKey f 32)) (State.send_pi _ _)).trans ?_
    exact SMap.read_write_self _ _ _ _
  · rw [State.send_up s _ hl]
    refine (Grows.raise _ _ _ _ _).1 _ ((Grows.send _ _).1 _ ?_)
    exact List.mem_append_right _ (List.mem_singleton_self _)

theorem Grows.postCompletion (s : State) (f tag : Nat) (st : Status) (engine frames inBlocks outUnits : Nat) :
    Grows s (s.postCompletion f tag st engine frames inBlocks outUnits) := by
  unfold State.postCompletion
  extract_lets k pi size entry v h w
  split
  · have hw : Grows s w := (Grows.send s _ : Grows s v).trans (Grows.of_eq rfl rfl)
    exact hw.trans ((Grows.put _ _ _ _).trans ((Grows.send _ _).trans (Grows.raise _ _ _ _ _)))
  · exact Grows.refl s

/-- A completion posted behind changes that have left the rings and the link alone. -/
theorem Completed.of_only {ps : List Part} {s v u : State} {f tag : Nat} {st : Status} {engine frames inBlocks outUnits : Nat}
    (h : Completed v u f tag st engine frames inBlocks outUnits) (o : Only ps s v) (hh : Part.host ∉ ps)
    (hr : Part.image .ring ∉ ps) (hl : Part.image .linkStatus ∉ ps) :
    Completed s u f tag st engine frames inBlocks outUnits := by
  have hpi : v.host.pi = s.host.pi := (congrArg HostIf.pi (o .host hh) :)
  intro k n hk hn he
  have := h k n hk (by rw [hpi]; exact hn) (by rw [o.flag hr]; exact he)
  rwa [o.get hr, o.get hr, o.flag hl] at this

namespace Machine

/-! ### Jobs that fail (R294, R295, R300) -/

/-- What a job's failure counts, raises and reports. -/
def State.failNoted (s : State) (j : Job) (st : Status) : State :=
  if st = .faulted then
    ((s.raise (968 + jobQueue j.desc % 8)).count F.outQueue_FAULT_COUNT (jobQueue j.desc)).report 21 false
      (968 + jobQueue j.desc % 8) (bits j.desc 0 16) st.code
  else if st = .noSpace then (s.raise (968 + jobQueue j.desc % 8)).count F.outQueue_NO_SPACE_COUNT (jobQueue j.desc)
  else s.raise (968 + jobQueue j.desc % 8)

theorem State.failJob_split (s : State) (j : Job) (st : Status) (shed : Bool) : s.failJob j st shed =
    if j.auto then (s.failNoted j st).retryAuto j st shed
    else (s.failNoted j st).postCompletion j.fn (jobTag j.desc) st (jobQueue j.desc % 8) 0 0 0 := rfl

theorem State.failNoted_done (s : State) (j : Job) (st : Status) {u : State} (hu : u = s.failNoted j st) {q : Nat}
    (hq : q = jobQueue j.desc) :
    Raised s u (968 + q % 8) 0 0 ∧ u.get F.outQueue_WP q = s.get F.outQueue_WP q
      ∧ (st = .faulted → u.get F.outQueue_FAULT_COUNT q = satAdd (s.get F.outQueue_FAULT_COUNT q) 1 16 ∧ Reported s u 21)
      ∧ (st = .noSpace → u.get F.outQueue_NO_SPACE_COUNT q = satAdd (s.get F.outQueue_NO_SPACE_COUNT q) 1 16)
      ∧ Only [.log, .image .logStatus, .out, .hatband, .image .outQueue] s u := by
  subst hq
  unfold State.failNoted at hu
  have orr : Only [.log, .image .logStatus, .out, .hatband, .image .outQueue] s (s.raise (968 + jobQueue j.desc % 8)) :=
    State.raise_only (by decide) (Only.refl _ s)
  have hr : Raised s (s.raise (968 + jobQueue j.desc % 8)) (968 + jobQueue j.desc % 8) 0 0 := Raised.raise _ _ _
  split at hu
  · next hst =>
    have o := State.report_only (cls := 21) (lasting := false) (source := 968 + jobQueue j.desc % 8) (a := bits j.desc 0 16)
      (b := st.code) (List.Subset.refl _)
      (Only.refl _ ((s.raise (968 + jobQueue j.desc % 8)).count F.outQueue_FAULT_COUNT (jobQueue j.desc)))
    rw [← hu] at o
    refine ⟨hu ▸ hr.grow ((Grows.put _ _ _ _).trans (Grows.report _ _ _ _ _ _)), ?_, fun _ => ⟨?_, ?_⟩,
      fun h => absurd (hst.symm.trans h) (by decide), ?_⟩
    · rw [o.get (by decide), State.get_count_other _ (by decide), State.raise_get]
    · rw [o.get (by decide), State.get_count, State.raise_get]
      rfl
    · rw [hu]
      exact Reported.report _ _ _ _ _ rfl
    · exact (State.count_only (by decide) orr).trans (o.mono (by decide))
  · next hst =>
    split at hu
    · refine ⟨hu ▸ hr.grow (Grows.put _ _ _ _), ?_, fun h => absurd h hst, fun _ => ?_,
        hu ▸ State.count_only (by decide) orr⟩
      · rw [hu, State.get_count_other _ (by decide), State.raise_get]
      · rw [hu, State.get_count, State.raise_get]
        rfl
    · next hst' =>
      exact ⟨hu ▸ hr, by rw [hu, State.raise_get], fun h => absurd h hst, fun h => absurd h hst', hu ▸ orr⟩

/-- What becomes of a failed AUTO job that shedding did not cause. -/
theorem State.retryAuto_done (s : State) (j : Job) (st : Status) :
    Feeds s (s.retryAuto j st false)
      ∧ (st = .noSpace → (s.retryAuto j st false).capture.jobs = { j with waitSpace := true } :: s.capture.jobs) := by
  unfold State.retryAuto
  split
  · exact ⟨Feeds.setCapture s rfl, fun _ => rfl⟩
  · next hst =>
    rw [if_neg Bool.false_ne_true]
    refine ⟨?_, fun h => absurd h hst⟩
    split
    · exact Feeds.setCapture s rfl
    · exact (Feeds.dropChunk _ _ _ _).trans (Feeds.consume _ _)

/-- A job that has failed. -/
theorem State.failJob_done (s : State) (j : Job) (st : Status) {u : State} (hu : u = s.failJob j st false) {q : Nat}
    (hq : q = jobQueue j.desc) :
    u.capture.running = s.capture.running ∧ Raised s u (968 + q % 8) 0 0
      ∧ u.get F.outQueue_WP q = s.get F.outQueue_WP q
      ∧ (st = .faulted → u.get F.outQueue_FAULT_COUNT q = satAdd (s.get F.outQueue_FAULT_COUNT q) 1 16 ∧ Reported s u 21)
      ∧ (st = .noSpace → u.get F.outQueue_NO_SPACE_COUNT q = satAdd (s.get F.outQueue_NO_SPACE_COUNT q) 1 16)
      ∧ (j.auto = false → u.capture.jobs = s.capture.jobs ∧ Completed s u j.fn (jobTag j.desc) st (q % 8) 0 0 0)
      ∧ (j.auto = true → st = .noSpace → u.capture.jobs = { j with waitSpace := true } :: s.capture.jobs) := by
  rw [State.failJob_split, ← hq] at hu
  obtain ⟨h1, h2, h3, h4, ov⟩ := s.failNoted_done j st rfl hq
  generalize s.failNoted j st = v at *
  have hv : v.capture = s.capture := ov .capture (by decide)
  split at hu
  · next ha =>
    obtain ⟨hf, hn⟩ := v.retryAuto_done j st
    have o := State.retryAuto_only (j := j) (st := st) (shed := false) (List.Subset.refl _) (Only.refl _ v)
    rw [← hu] at hf hn o
    refine ⟨hf.running.trans (congrArg Capture.running hv), h1.grow hf.grows, (o.get (by decide) q).trans h2,
      fun h => ⟨(o.get (by decide) q).trans (h3 h).1, (h3 h).2.same (hf.counts 21 (by decide))⟩,
      fun h => (o.get (by decide) q).trans (h4 h), fun h => absurd (ha.symm.trans h) (by decide), fun _ h => ?_⟩
    rw [hn h, hv]
  · next ha =>
    have o := State.postCompletion_only (f := j.fn) (tag := jobTag j.desc) (st := st) (engine := q % 8) (frames := 0)
      (inBlocks := 0) (outUnits := 0) (List.Subset.refl _) (Only.refl _ v)
    have hc := Completed.post v j.fn (jobTag j.desc) st (q % 8) 0 0 0
    have hg : Grows v (v.postCompletion j.fn (jobTag j.desc) st (q % 8) 0 0 0) := Grows.postCompletion _ _ _ _ _ _ _ _
    rw [← hu] at o hc hg
    have hcap : u.capture = s.capture := (o .capture (by decide)).trans hv
    exact ⟨congrArg Capture.running hcap, h1.grow hg, (o.get (by decide) q).trans h2,
      fun h => ⟨(o.get (by decide) q).trans (h3 h).1, (h3 h).2.only o (by decide)⟩,
      fun h => (o.get (by decide) q).trans (h4 h),
      fun _ => ⟨congrArg Capture.jobs hcap, hc.of_only ov (by decide) (by decide) (by decide)⟩, fun h => absurd h ha⟩

end Machine

/-- The job that an engine runs fails as a whole. -/
theorem JobFailed.failRun {s : State} {e : Nat} {x : RunJob} (hx : s.capture.running.find e = some x) (st : Status) :
    JobFailed s (s.failRun e st false) e x st ∧ (st = .faulted → Reported s (s.failRun e st false) 21) := by
  obtain ⟨a, ha⟩ : ∃ a, a = s.setCapture { s.capture with running := s.capture.running.drop e } := ⟨_, rfl⟩
  have hf : s.failRun e st false = (a.blurOutput x).failJob x.job st false := by
    unfold State.failRun
    rw [hx, ha]
  have oa : Only [.capture] s a := ha ▸ State.setCapture_only (List.Subset.refl _) (Only.refl _ s)
  have ob : Only [.store, .free] a (a.blurOutput x) := State.blurOutput_only (List.Subset.refl _) (Only.refl _ a)
  rw [hf]
  generalize a.blurOutput x = b at *
  have o : Only [.capture, .store, .free] s b := (oa.mono (by decide)).trans (ob.mono (by decide))
  have hr : b.capture.running = s.capture.running.drop e ∧ b.capture.jobs = s.capture.jobs := by
    rw [show b.capture = a.capture from ob .capture (by decide), ha]
    exact ⟨rfl, rfl⟩
  have key := b.failJob_done x.job st rfl rfl
  refine ⟨?_, fun h => (key.2.2.2.1 h).2.from o (by decide)⟩
  rintro q rfl
  obtain ⟨h1, h2, h3, h4, h5, h6, h7⟩ := key
  rw [o.get (by decide)] at h3 h4 h5
  rw [hr.2] at h6 h7
  exact ⟨EngineRuns.drop (h1.trans hr.1), h2, h3, fun h => (h4 h).1, h5,
    fun h => ⟨(h6 h).1, (h6 h).2.of_only o (by decide) (by decide) (by decide)⟩, h7⟩

/-- A job that fails behind changes that have left Fulling, the queues and the rings alone. -/
theorem JobFailed.of_only {ps : List Part} {s v u : State} {e : Nat} {x : RunJob} {st : Status} (h : JobFailed v u e x st)
    (o : Only ps s v) (hc : Part.capture ∉ ps) (hq : Part.image .outQueue ∉ ps) (hh : Part.host ∉ ps)
    (hr : Part.image .ring ∉ ps) (hl : Part.image .linkStatus ∉ ps) : JobFailed s u e x st := by
  intro q hx
  obtain ⟨h1, h2, h3, h4, h5, h6, h7⟩ := h q hx
  have hv : v.capture = s.capture := o .capture hc
  unfold EngineRuns at h1 ⊢
  rw [o.get hq] at h3 h4 h5
  rw [hv] at h1 h6 h7
  exact ⟨h1, h2, h3, h4, h5, fun h => ⟨(h6 h).1, (h6 h).2.of_only o hh hr hl⟩, h7⟩

end Sys2Proof
end

section
namespace Sys2Proof
open Machine

/-! ### A job that commits (R294, R296) -/

namespace Machine

/-- The queue after a commit: WP has advanced by J, and the job is counted. -/
def State.jobCounted (s : State) (e : Nat) (x : RunJob) : State :=
  ((s.setCapture { s.capture with running := s.capture.running.drop e }).put F.outQueue_WP x.queue
    (s.get F.outQueue_WP x.queue + x.bytes)).count F.outQueue_JOBS_DONE x.queue

/-- The state before a commit is told of: queue and context have their new values, and source 960 + e is raised. -/
def State.jobCommitted (s : State) (e : Nat) (x : RunJob) : State :=
  (if jobBlock x.job.desc then s.jobCounted e x
    else (s.jobCounted e x).setStream (jobStream x.job.desc) (committedCtx x) x.history).raise (960 + e)

theorem State.commitJob_split (s : State) (e : Nat) (x : RunJob) : s.commitJob e x =
    if x.job.auto then ((s.jobCommitted e x).consume x.job.chunkAt).autoFeed
    else (s.jobCommitted e x).postCompletion x.job.fn (jobTag x.job.desc) .ok e x.frames
      (if jobExpand x.job.desc then (x.taken + 3) / 4 else x.taken)
      (if jobExpand x.job.desc then 4 * x.written else x.bytes / 64) := rfl

theorem State.jobCounted_done (s : State) (e : Nat) (x : RunJob) :
    (s.jobCounted e x).capture = { s.capture with running := s.capture.running.drop e }
      ∧ (s.jobCounted e x).get F.outQueue_WP x.queue = (s.get F.outQueue_WP x.queue + x.bytes) % 2 ^ 64
      ∧ (s.jobCounted e x).get F.outQueue_JOBS_DONE x.queue = satAdd (s.get F.outQueue_JOBS_DONE x.queue) 1 32
      ∧ Only [.capture, .image .outQueue] s (s.jobCounted e x) := by
  unfold State.jobCounted
  refine ⟨rfl, ?_, ?_, State.count_only (by decide) (State.put_only (by decide)
    (State.setCapture_only (by decide) (Only.refl _ s)))⟩
  · rw [State.get_count_other _ (by decide), State.get_put]
    rfl
  · rw [State.get_count, State.get_put_other _ (by decide), State.setCapture_get]
    rfl

/-- What stands once a job has committed. -/
theorem State.jobCommitted_done (s : State) (e : Nat) (x : RunJob) {u : State} (hu : u = s.jobCommitted e x) :
    u.capture.running = s.capture.running.drop e ∧ u.capture.jobs = s.capture.jobs
      ∧ u.get F.outQueue_WP x.queue = (s.get F.outQueue_WP x.queue + x.bytes) % 2 ^ 64
      ∧ u.get F.outQueue_JOBS_DONE x.queue = satAdd (s.get F.outQueue_JOBS_DONE x.queue) 1 32
      ∧ (jobBlock x.job.desc = false → StreamBecomes s u (jobStream x.job.desc) (committedCtx x) x.history)
      ∧ (jobBlock x.job.desc = true → u.capture.contexts = s.capture.contexts ∧ u.capture.history = s.capture.history)
      ∧ Raised s u (960 + e) 0 0 ∧ Only [.capture, .image .outQueue, .out, .hatband] s u := by
  unfold State.jobCommitted at hu
  obtain ⟨hc, hw, hj, o⟩ := s.jobCounted_done e x
  generalize s.jobCounted e x = a at *
  have hr : Raised s u (960 + e) 0 0 := hu ▸ Raised.raise _ _ _
  have ou : Only [.capture, .image .outQueue, .out, .hatband] s u := hu ▸ State.raise_only (by decide)
    (Only.ite (o.mono (by decide)) (State.setStream_only (by decide) (o.mono (by decide))))
  split at hu
  · next hb =>
    have huc : u.capture = a.capture := by rw [hu, State.raise_capture]
    exact ⟨by rw [huc, hc], by rw [huc, hc], by rw [hu, State.raise_get, hw], by rw [hu, State.raise_get, hj],
      fun h => absurd hb (ne_true_of_eq_false h), fun _ => by rw [huc, hc]; exact ⟨rfl, rfl⟩, hr, ou⟩
  · next hb =>
    have huc : u.capture = (a.setStream (jobStream x.job.desc) (committedCtx x) x.history).capture := by
      rw [hu, State.raise_capture]
    have hs := StreamBecomes.set (s := a) (v := a) rfl (jobStream x.job.desc) (committedCtx x) x.history
    unfold State.setStream at hu huc hs
    refine ⟨?_, ?_, by rw [hu, State.raise_get, State.setCapture_get, hw],
      by rw [hu, State.raise_get, State.setCapture_get, hj],
      fun _ => ?_, fun h => absurd h hb, hr, ou⟩
    · rw [huc, State.setCapture_capture, hc]
    · rw [huc, State.setCapture_capture, hc]
    · unfold StreamBecomes State.streamCtx State.streamHistory at hs ⊢
      rw [huc]
      rw [hc] at hs ⊢
      exact hs

/-- What tells of a commit leaves the queues, the engines and the contexts as they are. -/
theorem State.commitJob_tells (s : State) (e : Nat) (x : RunJob) {u : State} (hu : u = s.commitJob e x) :
    (∀ f i, f.record = .outQueue → u.get f i = (s.jobCommitted e x).get f i)
      ∧ u.capture.running = (s.jobCommitted e x).capture.running
      ∧ u.capture.contexts = (s.jobCommitted e x).capture.contexts
      ∧ u.capture.history = (s.jobCommitted e x).capture.history ∧ Grows (s.jobCommitted e x) u
      ∧ (x.job.auto = false → u.capture.jobs = (s.jobCommitted e x).capture.jobs
        ∧ Completed (s.jobCommitted e x) u x.job.fn (jobTag x.job.desc) .ok e x.frames
          (if jobExpand x.job.desc then (x.taken + 3) / 4 else x.taken)
          (if jobExpand x.job.desc then 4 * x.written else x.bytes / 64)) := by
  rw [State.commitJob_split] at hu
  generalize s.jobCommitted e x = a at *
  split at hu
  · next ha =>
    have hg : Feeds a u := hu ▸ (Feeds.consume a _).trans (Feeds.autoFeed _)
    have o : Only [.capture, .image .capStatus, .out, .hatband, .log, .image .logStatus] a u :=
      hu ▸ State.autoFeed_only (List.Subset.refl _) (State.consume_only (by decide) (Only.refl _ a))
    exact ⟨fun f i hr => o.get (by rw [hr]; decide) i, hg.running, hg.contexts, hg.history, hg.grows,
      fun h => absurd (ha.symm.trans h) (by decide)⟩
  · have o : Only [.out, .host, .hatband, .image .ring] a u :=
      hu ▸ State.postCompletion_only (List.Subset.refl _) (Only.refl _ a)
    have hc : u.capture = a.capture := o .capture (by decide)
    exact ⟨fun f i hr => o.get (by rw [hr]; decide) i, congrArg Capture.running hc, congrArg Capture.contexts hc,
      congrArg Capture.history hc, hu ▸ Grows.postCompletion _ _ _ _ _ _ _ _,
      fun _ => ⟨congrArg Capture.jobs hc, hu ▸ Completed.post a _ _ _ _ _ _ _⟩⟩

end Machine

/-- The clause of O60 on FULLING_JOB_COMMIT where the engine's job has been written. -/
theorem fullingJobCommit_commits {e : Fin 8} {s : State} {x : RunJob} (hx : s.capture.running.find e = some x)
    (hf : x.finished = true) : Runs (.fullingJobCommit e) s fun u =>
      EngineRuns s u e none ∧ u.get F.outQueue_WP x.queue = (s.get F.outQueue_WP x.queue + x.bytes) % 2 ^ 64
      ∧ u.get F.outQueue_JOBS_DONE x.queue = satAdd (s.get F.outQueue_JOBS_DONE x.queue) 1 32
      ∧ (jobBlock x.job.desc = false → StreamBecomes s u (jobStream x.job.desc) (committedCtx x) x.history)
      ∧ (jobBlock x.job.desc = true → u.capture.contexts = s.capture.contexts ∧ u.capture.history = s.capture.history)
      ∧ Raised s u (960 + e) 0 0
      ∧ (x.job.auto = false → u.capture.jobs = s.capture.jobs
        ∧ Completed s u x.job.fn (jobTag x.job.desc) .ok e x.frames
          (if jobExpand x.job.desc then (x.taken + 3) / 4 else x.taken)
          (if jobExpand x.job.desc then 4 * x.written else x.bytes / 64))
      ∧ Only [.capture, .image .outQueue, .out, .hatband, .image .capStatus, .log, .image .logStatus, .host,
        .image .ring] s u := by
  obtain ⟨u, hu⟩ : ∃ u, u = s.fresh.commitJob e x := ⟨_, rfl⟩
  refine ⟨u, ?_, ?_⟩
  · change execFullingJobCommit e s = _
    unfold execFullingJobCommit
    dsimp only
    rw [State.fresh_capture, hx, hu]
    exact congrArg Host.Outcome.next (if_pos hf)
  have ou : Only [.capture, .image .outQueue, .out, .hatband, .image .capStatus, .log, .image .logStatus, .host,
      .image .ring] s u := hu ▸ State.commitJob_only (by decide) (State.fresh_only (by decide) (Only.refl _ s))
  obtain ⟨h1, h2, h3, h4, h5, h6, h7, oa⟩ := s.fresh.jobCommitted_done e x rfl
  obtain ⟨k1, k2, k3, k4, k5, k6⟩ := s.fresh.commitJob_tells e x hu
  generalize s.fresh.jobCommitted e x = a at *
  have os : Only [.capture, .image .outQueue, .out, .hatband] s a := (State.fresh_only (by decide) (Only.refl _ s)).trans oa
  refine ⟨EngineRuns.drop (k2.trans h1), (k1 _ _ rfl).trans h3, (k1 _ _ rfl).trans h4, fun h => ?_,
    fun h => ⟨k3.trans (h6 h).1, k4.trans (h6 h).2⟩, h7.grow k5, fun h => ⟨(k6 h).1.trans h2, (k6 h).2.of_only os (by decide) (by decide) (by decide)⟩, ou⟩
  have := h5 h
  unfold StreamBecomes State.streamCtx State.streamHistory at this ⊢
  rwa [k3, k4]

/-- The clause of O60 on FULLING_JOB_COMMIT where no job has been written. -/
theorem fullingJobCommit_waits {e : Fin 8} {s : State} (h : ∀ x, s.capture.running.find e = some x → x.finished = false) :
    Runs (.fullingJobCommit e) s fun u => u = s.fresh := by
  refine ⟨s.fresh, ?_, rfl⟩
  change execFullingJobCommit e s = _
  unfold execFullingJobCommit
  dsimp only
  split
  · next x hx => exact congrArg Host.Outcome.next (if_neg (ne_true_of_eq_false (h x hx)))
  · rfl

end Sys2Proof
end

section
namespace Sys2Proof
open Machine
namespace Machine

/-! ### Bytes that go to an output queue (R293) -/

theorem State.storeBytes_length (s : State) (a n : Nat) : (s.storeBytes a n).length = n := by
  unfold State.storeBytes SMap.readAll
  rw [List.length_map, List.length_range]

theorem State.storeBytes_getD (s : State) (a n : Nat) {i : Nat} (h : i < n) :
    (s.storeBytes a n).getD i 0 = s.memory.store.read 0 (a + i) := by
  unfold State.storeBytes SMap.readAll
  rw [List.getD_eq_getElem?_getD, List.getElem?_map, List.getElem?_range h]
  rfl

/-- A list with a part of it replaced. -/
theorem getD_overlay {old data : List Byte} {off : Nat} (h : off + data.length ≤ old.length) (i : Nat) :
    (old.take off ++ data ++ old.drop (off + data.length)).getD i 0 =
      if off ≤ i ∧ i < off + data.length then data.getD (i - off) 0 else old.getD i 0 := by
  have ht : (old.take off).length = off := by rw [List.length_take]; omega
  have hd : (old.take off ++ data).length = off + data.length := by rw [List.length_append, ht]
  simp only [List.getD_eq_getElem?_getD]
  by_cases h1 : i < off
  · rw [if_neg (by omega), List.getElem?_append_left (by omega), List.getElem?_append_left (by omega), List.getElem?_take,
      if_pos h1]
  · by_cases h2 : i < off + data.length
    · rw [if_pos (by omega), List.getElem?_append_left (by omega), List.getElem?_append_right (by omega), ht]
    · rw [if_neg (by omega), List.getElem?_append_right (by omega), hd, List.getElem?_drop,
        show off + data.length + (i - (off + data.length)) = i by omega]

/-- Bytes written within a block: those bytes, and no other byte of the store. -/
theorem State.read_writeBeat (s : State) {a : Nat} {data : List Byte} (h : a % 256 + data.length ≤ 256) (k : Nat) :
    (s.writeBeat a data).memory.store.read 0 k =
      if a ≤ k ∧ k < a + data.length then data.getD (k - a) 0 else s.memory.store.read 0 k := by
  obtain ⟨old, ho⟩ : ∃ old, old = s.storeBytes (256 * (a / 256)) 256 := ⟨_, rfl⟩
  have hl : old.length = 256 := by rw [ho, State.storeBytes_length]
  obtain ⟨new, hn⟩ : ∃ new, new = old.take (a % 256) ++ data ++ old.drop (a % 256 + data.length) := ⟨_, rfl⟩
  have hnl : new.length = 256 := by
    rw [hn, List.length_append, List.length_append, List.length_take, List.length_drop]
    omega
  have hm : (s.writeBeat a data).memory.store = s.memory.store.writeAll 0 (256 * (a / 256)) new := by
    rw [hn, ho]
    rfl
  rw [hm]
  by_cases hk : k < 256 * (a / 256) ∨ 256 * (a / 256) + 256 ≤ k
  · rw [SMap.read_writeAll_ne _ _ _ (by omega), if_neg (by omega)]
  · obtain ⟨i, rfl⟩ : ∃ i, k = 256 * (a / 256) + i := ⟨k - 256 * (a / 256), by omega⟩
    have hi : i < 256 := by omega
    rw [SMap.read_writeAll _ _ _ _ i (by omega), ← List.getD_eq_getElem new 0 (by omega), hn, getD_overlay (by omega), ho,
      State.storeBytes_getD _ _ _ hi]
    refine if_congr ⟨fun _ => by omega, fun _ => by omega⟩ ?_ rfl
    congr 1
    omega

/-- Bytes of the store that read alike, byte by byte. -/
theorem State.storeBytes_congr {s u : State} {a n : Nat}
    (h : ∀ i < n, u.memory.store.read 0 (a + i) = s.memory.store.read 0 (a + i)) : u.storeBytes a n = s.storeBytes a n :=
  List.map_congr_left fun i hi => h i (List.mem_range.mp hi)

theorem State.storeBytes_writeBeat (s : State) {a : Nat} {data : List Byte} (h : a % 256 + data.length ≤ 256) :
    (s.writeBeat a data).storeBytes a data.length = data := by
  refine List.ext_getElem (State.storeBytes_length _ _ _) fun i h1 h2 => ?_
  rw [← List.getD_eq_getElem _ 0 h1, State.storeBytes_getD _ _ _ h2, State.read_writeBeat s h, if_pos (by omega),
    Nat.add_sub_cancel_left, List.getD_eq_getElem _ 0 h2]

/-- The store address of a position in a queue's ring. -/
def State.queueAt (s : State) (q pos : Nat) : Nat := 4096 * s.get F.outQueue_BASE q + pos % (4096 * s.get F.outQueue_SIZE q)

theorem State.writeQueue_cons (s : State) (q pos : Nat) (b : List Byte) (r : List (List Byte)) :
    s.writeQueue q pos (b :: r) = (s.writeBeat (s.queueAt q pos) b).writeQueue q (pos + 64) r := rfl

theorem State.queueAt_of_only {ps : List Part} {s u : State} (h : Only ps s u) (hp : Part.image .outQueue ∉ ps) (q pos : Nat) :
    u.queueAt q pos = s.queueAt q pos := by
  unfold State.queueAt
  rw [h.get hp, h.get hp]

theorem State.queueAt_writeBeat (s : State) (a : Nat) (b : List Byte) (q pos : Nat) :
    (s.writeBeat a b).queueAt q pos = s.queueAt q pos :=
  State.queueAt_of_only (State.writeBeat_only (List.Subset.refl _) (Only.refl _ s)) (by decide) q pos

/-- A beat of a ring lies at a multiple of 64. -/
theorem State.queueAt_aligned (s : State) (q : Nat) {pos : Nat} (h : pos % 64 = 0) : s.queueAt q pos % 64 = 0 := by
  have hd : 64 ∣ 4096 * s.get F.outQueue_SIZE q := Dvd.dvd.mul_right (by decide) _
  have := Nat.mod_mod_of_dvd pos hd
  unfold State.queueAt
  omega

/-- Positions less than a ring apart have different places in it. -/
theorem State.queueAt_ne (s : State) (q pos : Nat) {d : Nat} (h0 : 0 < d) (hd : d < 4096 * s.get F.outQueue_SIZE q) :
    s.queueAt q pos ≠ s.queueAt q (pos + d) := by
  intro h
  unfold State.queueAt at h
  have hm : pos + 0 ≡ pos + d [MOD 4096 * s.get F.outQueue_SIZE q] := by
    unfold Nat.ModEq
    rw [Nat.add_zero]
    omega
  have := Nat.ModEq.add_left_cancel' pos hm
  unfold Nat.ModEq at this
  rw [Nat.zero_mod, Nat.mod_eq_of_lt hd] at this
  omega

/-- Bytes of the store beside the beats written. -/
theorem State.store_writeQueue_ne : ∀ (l : List (List Byte)) (s : State) (q pos : Nat), (∀ b ∈ l, b.length = 64) →
    pos % 64 = 0 → ∀ {k : Nat}, (∀ i < l.length, k < s.queueAt q (pos + 64 * i) ∨ s.queueAt q (pos + 64 * i) + 64 ≤ k) →
    (s.writeQueue q pos l).memory.store.read 0 k = s.memory.store.read 0 k
  | [], _, _, _, _, _, _, _ => rfl
  | b :: l, s, q, pos, hb, hp, k, hk => by
    have ha := s.queueAt_aligned q hp
    have hl : b.length = 64 := hb b List.mem_cons_self
    have h0 := hk 0 (Nat.succ_pos _)
    rw [Nat.mul_zero, Nat.add_zero] at h0
    rw [State.writeQueue_cons,
      State.store_writeQueue_ne l _ q (pos + 64) (fun x hx => hb x (List.mem_cons_of_mem _ hx)) (by omega), State.read_writeBeat s (by omega), if_neg (by omega)]
    intro i hi
    rw [State.queueAt_writeBeat, show pos + 64 + 64 * i = pos + 64 * (i + 1) by omega]
    exact hk (i + 1) (Nat.succ_lt_succ hi)

/-- Each beat written stands at its place in the ring, where all of them fit. -/
theorem State.storeBytes_writeQueue : ∀ (l : List (List Byte)) (s : State) (q pos : Nat), (∀ b ∈ l, b.length = 64) →
    pos % 64 = 0 → 64 * l.length ≤ 4096 * s.get F.outQueue_SIZE q → ∀ (i : Nat) (hi : i < l.length),
    (s.writeQueue q pos l).storeBytes (s.queueAt q (pos + 64 * i)) 64 = l[i]
  | [], _, _, _, _, _, _, _, hi => absurd hi (Nat.not_lt_zero _)
  | b :: l, s, q, pos, hb, hp, hs, i, hi => by
    have ha := s.queueAt_aligned q hp
    have hl : b.length = 64 := hb b List.mem_cons_self
    have hr : ∀ x ∈ l, x.length = 64 := fun x hx => hb x (List.mem_cons_of_mem _ hx)
    rw [List.length_cons] at hs
    rw [State.writeQueue_cons]
    cases i with
    | zero =>
      have hw := s.storeBytes_writeBeat (a := s.queueAt q pos) (data := b) (by omega)
      rw [hl] at hw
      rw [show pos + 64 * 0 = pos from rfl]
      refine (State.storeBytes_congr fun k hk => ?_).trans hw
      refine State.store_writeQueue_ne l _ q (pos + 64) hr (by omega) fun j hj => ?_
      have hne := s.queueAt_ne q pos (d := 64 * (j + 1)) (by omega) (by omega)
      have haj := s.queueAt_aligned q (pos := pos + 64 * (j + 1)) (by omega)
      rw [State.queueAt_writeBeat, show pos + 64 + 64 * j = pos + 64 * (j + 1) by omega]
      omega
    | succ i =>
      have hsz : (s.writeBeat (s.queueAt q pos) b).get F.outQueue_SIZE q = s.get F.outQueue_SIZE q :=
        (State.writeBeat_only (List.Subset.refl _) (Only.refl _ s)).get (by decide) q
      have := State.storeBytes_writeQueue l (s.writeBeat (s.queueAt q pos) b) q (pos + 64) hr (by omega)
        (by rw [hsz]; omega) i (Nat.lt_of_succ_lt_succ hi)
      rw [State.queueAt_writeBeat, show pos + 64 + 64 * i = pos + 64 * (i + 1) by omega] at this
      exact this

/-! ### Frames that are written (R293) -/

/-- A frame of engine `e`'s job `x` goes to the ring of its queue, and the job goes on as `x'`. -/
def State.frameWritten (s : State) (e : Nat) (x : RunJob) (n : Nat) (f : List Byte) (x' : RunJob) : State :=
  (((s.writeQueue x.queue (s.get F.outQueue_WP x.queue + x.bytes) (pieces 64 (f.length / 64) f)).moveBeats
    (fullingReader (e / 2)) (4 * n)).moveBeats captureWriter (f.length / 64)).setRun e x'

theorem State.writeFrame_poisoned {s : State} {x : RunJob} {n : Nat} {poisoned : Bool}
    (hn : n = min (jobFrameLen x.job.desc) (jobSrcBlocks x.job.desc - x.taken))
    (h : poisoned = true ∨ s.sourcePoisoned x.job x.taken n = true) (e : Nat) (bad : List Nat) :
    s.writeFrame e x bad poisoned = s.failRun e .faulted false := by
  subst hn
  exact if_pos (Bool.or_eq_true_iff.mpr h)

theorem State.writeFrame_clean {s : State} {x : RunJob} {n : Nat} {poisoned : Bool}
    (hn : n = min (jobFrameLen x.job.desc) (jobSrcBlocks x.job.desc - x.taken)) (h1 : poisoned = false)
    (h2 : s.sourcePoisoned x.job x.taken n = false) (e : Nat) (bad : List Nat) :
    s.writeFrame e x bad poisoned =
      if (s.noteBad x x.taken n bad).queueFree x.queue x.bytes < (s.frameOf x n bad).1.1.length then
        (s.noteBad x x.taken n bad).failRun e .noSpace false
      else (s.noteBad x x.taken n bad).frameWritten e x n (s.frameOf x n bad).1.1 (s.frameOf x n bad).2 := by
  subst hn
  refine if_neg ?_
  rw [h1, h2]
  exact Bool.false_ne_true

theorem State.queueFree_of_only {ps : List Part} {s u : State} (h : Only ps s u) (hp : Part.image .outQueue ∉ ps) (q j : Nat) :
    u.queueFree q j = s.queueFree q j := by
  unfold State.queueFree
  rw [h.get hp, h.get hp, h.get hp]

/-- The job after a frame. -/
theorem State.frameOf_job (s : State) (x : RunJob) (n : Nat) (bad : List Nat) {x' : RunJob} (hx : x' = (s.frameOf x n bad).2) :
    x'.job = x.job ∧ x'.frames = x.frames + 1 ∧ x'.taken = x.taken + n
      ∧ x'.bytes = x.bytes + (s.frameOf x n bad).1.1.length
      ∧ (x'.finished = true ↔ jobSrcBlocks x.job.desc ≤ x.taken + n) := by
  subst hx
  exact ⟨rfl, rfl, rfl, rfl, decide_eq_true_iff⟩

/-- What an engine runs is no part of what the store holds. -/
theorem State.storeBytes_setRun (s : State) (e : Nat) (x : RunJob) (a k : Nat) : (s.setRun e x).storeBytes a k = s.storeBytes a k := rfl
theorem State.storeBlockSeal_setRun (s : State) (e : Nat) (x : RunJob) (k : Nat) :
    (s.setRun e x).storeBlockSeal k = s.storeBlockSeal k := rfl

/-- What a frame leaves in the ring of its queue, where it fits. -/
theorem State.frameWritten_ring (s : State) (e : Nat) (x : RunJob) (n : Nat) {f : List Byte} (x' : RunJob)
    (h : (s.get F.outQueue_WP x.queue + x.bytes) % 64 = 0) (hf : f.length ≤ s.queueFree x.queue x.bytes) {i : Nat}
    (hi : i < f.length / 64) : (s.frameWritten e x n f x').storeBytes
      (s.queueAt x.queue (s.get F.outQueue_WP x.queue + x.bytes + 64 * i)) 64 = (f.drop (64 * i)).take 64 := by
  have hn : 0 < 64 := by decide
  have hle : 64 * (f.length / 64) ≤ f.length := Nat.mul_div_le _ _
  unfold State.queueFree at hf
  have hl := pieces_length hn hle
  unfold State.frameWritten
  rw [State.storeBytes_setRun, State.storeBytes_moveBeats, State.storeBytes_moveBeats]
  refine (State.storeBytes_writeQueue (pieces 64 (f.length / 64) f) s x.queue (s.get F.outQueue_WP x.queue + x.bytes)
    (fun b hb => length_of_mem_pieces hn hle hb) h (by rw [hl]; omega) i (by rw [hl]; exact hi)).trans ?_
  exact pieces_getElem hn hle _

theorem State.frameWritten_only (s : State) (e : Nat) (x : RunJob) (n : Nat) (f : List Byte) (x' : RunJob) :
    Only [.store, .memory, .capture] s (s.frameWritten e x n f x') :=
  State.setRun_only (by decide) (State.moveBeats_only (by decide) (State.moveBeats_only (by decide)
    (State.writeQueue_only (by decide) (Only.refl _ s))))

/-- What FULLING_FRAME_WRITE does where the engine's job is at work. -/
theorem exec_fullingFrameWrite {e : Fin 8} {s : State} {x : RunJob} (hx : s.capture.running.find e = some x)
    (hf : x.finished = false) (hr : s.fullingRuns = true) (ht : x.ready ≤ s.clock.now) (bad : List Nat) (poisoned : Bool) :
    exec (.fullingFrameWrite e bad poisoned) s = .next (if jobExpand x.job.desc then s.fresh.expandNext e x bad poisoned
      else s.fresh.writeFrame e x bad poisoned) := by
  change execFullingFrameWrite e bad poisoned s = _
  unfold execFullingFrameWrite
  dsimp only
  rw [State.fresh_capture, hx]
  refine congrArg Host.Outcome.next (if_neg ?_)
  rw [hf, show s.fresh.fullingRuns = true from hr, State.fresh_clock, decide_eq_false (Nat.not_lt.mpr ht)]
  decide

end Machine

/-- The clause of O60 on FULLING_FRAME_WRITE where the engine is not at work. -/
theorem fullingFrameWrite_idle {e : Fin 8} {s : State} (h : s.fullingRuns = false ∨ s.capture.running.find e = none
    ∨ ∃ x, s.capture.running.find e = some x ∧ (x.finished = true ∨ s.clock.now < x.ready)) (bad : List Nat)
    (poisoned : Bool) : Runs (.fullingFrameWrite e bad poisoned) s fun u => u = s.fresh := by
  refine ⟨s.fresh, ?_, rfl⟩
  change execFullingFrameWrite e bad poisoned s = _
  unfold execFullingFrameWrite
  dsimp only
  split
  · rfl
  · next x hx =>
    refine congrArg Host.Outcome.next (if_pos ?_)
    rw [Bool.or_eq_true, Bool.or_eq_true, decide_eq_true_iff]
    rcases h with h | h | ⟨y, hy, h⟩
    · rw [show s.fresh.fullingRuns = false from h]
      exact .inl (.inr rfl)
    · exact absurd (hx.symm.trans h) (Option.some_ne_none _)
    · obtain rfl : y = x := Option.some.inj (hy.symm.trans hx)
      exact h.imp .inl id

/-- A job that fails once its failing source blocks have been noted (R291). -/
theorem jobFailed_behind {ps : List Part} {s v : State} {e : Nat} {x : RunJob} (hx : s.capture.running.find e = some x)
    (o : Only ps s v) (hp : ps ⊆ [.free, .log, .image .logStatus, .out, .hatband, .image .fullingStatus]) (st : Status) :
    JobFailed s (v.failRun e st false) e x st ∧ Only jobParts s (v.failRun e st false) := by
  have o' := o.mono hp
  have hv : v.capture = s.capture := o' .capture (by decide)
  exact ⟨(JobFailed.failRun (by rw [hv]; exact hx) st).1.of_only o' (by decide) (by decide) (by decide) (by decide) (by decide),
    State.failRun_only (by decide) (o'.mono (by decide))⟩

/-- A job that a poisoned source fails. -/
theorem jobFaulted {s : State} {e : Nat} {x : RunJob} (hx : s.capture.running.find e = some x) :
    JobFailed s (s.fresh.failRun e .faulted false) e x .faulted ∧ Reported s (s.fresh.failRun e .faulted false) 21
      ∧ Only jobParts s (s.fresh.failRun e .faulted false) := by
  have o : Only [.out] s s.fresh := State.fresh_only (List.Subset.refl _) (Only.refl _ s)
  obtain ⟨h1, h2⟩ := jobFailed_behind hx o (by decide) .faulted
  exact ⟨h1, ((JobFailed.failRun (s := s.fresh) hx .faulted).2 rfl).from o (by decide), h2⟩

/-- The clause of O60 on FULLING_FRAME_WRITE of a job that compresses. -/
theorem fullingFrameWrite_compresses {e : Fin 8} {bad : List Nat} {poisoned : Bool} {s : State} {x : RunJob} {n : Nat}
    {f : List Byte} (hx : s.capture.running.find e = some x) (hf : x.finished = false) (hr : s.fullingRuns = true)
    (ht : x.ready ≤ s.clock.now) (he : jobExpand x.job.desc = false)
    (hn : n = min (jobFrameLen x.job.desc) (jobSrcBlocks x.job.desc - x.taken)) (hfr : f = (s.frameOf x n bad).1.1) :
    ((poisoned = true ∨ s.sourcePoisoned x.job x.taken n = true) → Runs (.fullingFrameWrite e bad poisoned) s fun u =>
      JobFailed s u e x .faulted ∧ Reported s u 21 ∧ Only jobParts s u)
    ∧ (poisoned = false → s.sourcePoisoned x.job x.taken n = false →
      (s.queueFree x.queue x.bytes < f.length → Runs (.fullingFrameWrite e bad poisoned) s fun u =>
        JobFailed s u e x .noSpace ∧ Only jobParts s u)
      ∧ (f.length ≤ s.queueFree x.queue x.bytes → Runs (.fullingFrameWrite e bad poisoned) s fun u =>
        (∃ x' : RunJob, EngineRuns s u e (some x') ∧ x'.job = x.job ∧ x'.frames = x.frames + 1 ∧ x'.taken = x.taken + n
          ∧ x'.bytes = x.bytes + f.length ∧ (x'.finished = true ↔ jobSrcBlocks x.job.desc ≤ x.taken + n))
        ∧ ((s.get F.outQueue_WP x.queue + x.bytes) % 64 = 0 → ∀ i < f.length / 64,
          u.storeBytes (4096 * s.get F.outQueue_BASE x.queue
              + (s.get F.outQueue_WP x.queue + x.bytes + 64 * i) % (4096 * s.get F.outQueue_SIZE x.queue)) 64 =
            (f.drop (64 * i)).take 64)
        ∧ (∀ g : Field, g.record = .outQueue → ∀ k, u.get g k = s.get g k) ∧ Only jobParts s u)) := by
  have hexec := (exec_fullingFrameWrite hx hf hr ht bad poisoned).trans
    (congrArg Host.Outcome.next (if_neg (ne_true_of_eq_false he)))
  refine ⟨fun hp => ?_, fun h1 h2 => ?_⟩
  · exact ⟨_, hexec.trans (congrArg _ (State.writeFrame_poisoned (s := s.fresh) hn hp e bad)), jobFaulted hx⟩
  · rw [State.writeFrame_clean (s := s.fresh) hn h1 h2 e bad, show s.fresh.frameOf x n bad = s.frameOf x n bad from rfl, ← hfr]
      at hexec
    have o : Only [.free, .log, .image .logStatus, .out, .hatband, .image .fullingStatus] s (s.fresh.noteBad x x.taken n bad) :=
      State.noteBad_only (List.Subset.refl _) (State.fresh_only (by decide) (Only.refl _ s))
    generalize s.fresh.noteBad x x.taken n bad = v at *
    have hq := State.queueFree_of_only o (by decide) x.queue x.bytes
    refine ⟨fun hl => ?_, fun hl => ?_⟩
    · exact ⟨_, hexec.trans (congrArg _ (if_pos (by rw [hq]; exact hl))), jobFailed_behind hx o (List.Subset.refl _) .noSpace⟩
    · refine ⟨_, hexec.trans (congrArg _ (if_neg (by rw [hq]; exact Nat.not_lt.mpr hl))),
        ⟨(s.frameOf x n bad).2, ?_, ?_⟩, ?_, ?_, ?_⟩
      · refine EngineRuns.list ?_
        have hv : v.capture = s.capture := o .capture (by decide)
        have hw := State.writeQueue_only (q := x.queue) (pos := v.get F.outQueue_WP x.queue + x.bytes)
          (x := pieces 64 (f.length / 64) f) (List.Subset.refl _) (Only.refl _ v)
        rw [← hv, ← show (v.writeQueue x.queue (v.get F.outQueue_WP x.queue + x.bytes)
          (pieces 64 (f.length / 64) f)).capture = v.capture from hw .capture (by decide)]
        rfl
      · rw [hfr]
        exact s.frameOf_job x n bad rfl
      · intro h64 i hi
        have hr := v.frameWritten_ring e x n (s.frameOf x n bad).2 (by rw [o.get (by decide)]; exact h64)
          (by rw [hq]; exact hl) hi
        rw [State.queueAt_of_only o (by decide), o.get (by decide)] at hr
        exact hr
      · intro g hg k
        rw [(v.frameWritten_only e x n f _).get (by rw [hg]; decide), o.get (by rw [hg]; decide)]
      · exact (o.mono (by decide)).trans ((v.frameWritten_only e x n f _).mono (by decide))

namespace Machine

/-! ### Frames that are expanded (R299) -/

/-- The data of a frame goes to the destination of engine `e`'s job `x`, and the job goes on as `x'`. -/
def State.frameExpanded (s : State) (e : Nat) (x : RunJob) (units : Nat) (data : List Byte) (x' : RunJob) : State :=
  (((s.writeBlocks (jobDst x.job.desc / 256 + x.written) (pieces 256 (data.length / 256) data)).moveBeats
    (fullingReader (e / 2)) units).moveBeats captureWriter (4 * (data.length / 256))).setRun e x'

theorem State.expandNext_poisoned (s : State) (e : Nat) (x : RunJob) (bad : List Nat) :
    s.expandNext e x bad true = s.failRun e .faulted false := rfl

section expand

variable {s : State} {x : RunJob} {bad : List Nat} {src : List Byte}
  (hs : src = (s.sourceBlocks x.job (x.taken / 4) (min (jobSrcBlocks x.job.desc - x.taken / 4) 260) bad).flatten.drop
    (64 * (x.taken % 4)))

include hs

theorem State.expandNext_bad {st : Status} (h : expandFrame src (jobFirstSeq x.job.desc + x.frames) = .bad st) (e : Nat) :
    s.expandNext e x bad false = s.failRun e st false := by
  unfold State.expandNext
  dsimp only
  rw [if_neg Bool.false_ne_true, ← hs, h]

theorem State.expandNext_frame {units : Nat} {data : List Byte}
    (h : expandFrame src (jobFirstSeq x.job.desc + x.frames) = .frame units data) (e : Nat) {v : State}
    (hv : v = s.noteBad x (x.taken / 4) ((x.taken % 4 + units + 3) / 4) bad)
    (hp : v.sourcePoisoned x.job (x.taken / 4) ((x.taken % 4 + units + 3) / 4) = false) :
    s.expandNext e x bad false = if jobDstBlocks x.job.desc < x.written + data.length / 256 then v.failRun e .noSpace false
      else v.frameExpanded e x units data { x with
        taken := x.taken + units, frames := x.frames + 1, written := x.written + data.length / 256
        finished := expandDone (src.drop (64 * units)) } := by
  subst hv
  unfold State.expandNext
  dsimp only
  rw [if_neg Bool.false_ne_true, ← hs, h]
  exact if_neg (ne_true_of_eq_false hp)

end expand

theorem State.frameExpanded_only (s : State) (e : Nat) (x : RunJob) (units : Nat) (data : List Byte) (x' : RunJob) :
    Only [.store, .memory, .capture] s (s.frameExpanded e x units data x') :=
  State.setRun_only (by decide) (State.moveBeats_only (by decide) (State.moveBeats_only (by decide)
    (State.writeBlocks_only (by decide) (Only.refl _ s))))

/-- The blocks that a frame leaves at its job's destination. -/
theorem State.frameExpanded_blocks (s : State) (e : Nat) (x : RunJob) (units : Nat) (data : List Byte) (x' : RunJob) {i b : Nat}
    (hi : i < data.length / 256) (hb : b = jobDst x.job.desc / 256 + x.written + i) :
    (s.frameExpanded e x units data x').storeBytes (256 * b) 256 = (data.drop (256 * i)).take 256
      ∧ (s.frameExpanded e x units data x').storeBlockSeal b = crc32c ((data.drop (256 * i)).take 256) := by
  subst hb
  unfold State.frameExpanded
  rw [State.storeBytes_setRun, State.storeBytes_moveBeats, State.storeBytes_moveBeats, State.storeBlockSeal_setRun,
    State.storeBlockSeal_moveBeats, State.storeBlockSeal_moveBeats]
  exact s.writeBlocks_pieces _ _ (Nat.mul_div_le _ _) hi

/-- A source reads as poisoned as the memories and the capture buffer have it. -/
theorem sourcePoisoned_of_only {ps : List Part} {s u : State} (h : Only ps s u) (h1 : Part.library ∉ ps) (h2 : Part.store ∉ ps)
    (h3 : Part.memory ∉ ps) (h4 : Part.image .capControl ∉ ps) (j : Job) (first n : Nat) :
    u.sourcePoisoned j first n = s.sourcePoisoned j first n := by
  have hm := memory_of_only h h1 h2 h3
  unfold State.sourcePoisoned State.storePoisoned State.beatPoisoned State.sourceByte State.capBase State.capSize
  rw [hm, h.get h4, h.get h4]

end Machine

/-- The clause of O60 on FULLING_FRAME_WRITE of a job that expands (log 70 for the order of judgement). -/
theorem fullingFrameWrite_expands {e : Fin 8} {bad : List Nat} {poisoned : Bool} {s : State} {x : RunJob} {src : List Byte}
    (hx : s.capture.running.find e = some x) (hf : x.finished = false) (hr : s.fullingRuns = true)
    (ht : x.ready ≤ s.clock.now) (he : jobExpand x.job.desc = true)
    (hs : src = (s.sourceBlocks x.job (x.taken / 4) (min (jobSrcBlocks x.job.desc - x.taken / 4) 260) bad).flatten.drop
      (64 * (x.taken % 4))) :
    (poisoned = true → Runs (.fullingFrameWrite e bad poisoned) s fun u =>
      JobFailed s u e x .faulted ∧ Reported s u 21 ∧ Only jobParts s u)
    ∧ (∀ st, poisoned = false → expandFrame src (jobFirstSeq x.job.desc + x.frames) = .bad st →
      Runs (.fullingFrameWrite e bad poisoned) s fun u => JobFailed s u e x st ∧ Only jobParts s u)
    ∧ (∀ units data, poisoned = false → expandFrame src (jobFirstSeq x.job.desc + x.frames) = .frame units data →
      s.sourcePoisoned x.job (x.taken / 4) ((x.taken % 4 + units + 3) / 4) = false →
      (jobDstBlocks x.job.desc < x.written + data.length / 256 → Runs (.fullingFrameWrite e bad poisoned) s fun u =>
        JobFailed s u e x .noSpace ∧ Only jobParts s u)
      ∧ (x.written + data.length / 256 ≤ jobDstBlocks x.job.desc → Runs (.fullingFrameWrite e bad poisoned) s fun u =>
        EngineRuns s u e (some { x with taken := x.taken + units, frames := x.frames + 1
                                        written := x.written + data.length / 256
                                        finished := expandDone (src.drop (64 * units)) })
        ∧ (∀ i < data.length / 256, ∀ b, b = jobDst x.job.desc / 256 + x.written + i →
          u.storeBytes (256 * b) 256 = (data.drop (256 * i)).take 256
          ∧ u.storeBlockSeal b = crc32c ((data.drop (256 * i)).take 256))
        ∧ Only jobParts s u)) := by
  have hexec := (exec_fullingFrameWrite hx hf hr ht bad poisoned).trans (congrArg Host.Outcome.next (if_pos he))
  have of : Only [.out] s s.fresh := State.fresh_only (List.Subset.refl _) (Only.refl _ s)
  refine ⟨fun hp => ?_, fun st hp hb => ?_, fun units data hp hd hsp => ?_⟩
  · subst hp
    exact ⟨_, hexec.trans (congrArg _ (State.expandNext_poisoned _ _ _ _)), jobFaulted hx⟩
  · subst hp
    exact ⟨_, hexec.trans (congrArg _ (State.expandNext_bad (s := s.fresh) hs hb e)), jobFailed_behind hx of (by decide) st⟩
  · subst hp
    obtain ⟨v, hv⟩ : ∃ v, v = s.fresh.noteBad x (x.taken / 4) ((x.taken % 4 + units + 3) / 4) bad := ⟨_, rfl⟩
    have o : Only [.free, .log, .image .logStatus, .out, .hatband, .image .fullingStatus] s v :=
      hv ▸ State.noteBad_only (List.Subset.refl _) (of.mono (by decide))
    rw [State.expandNext_frame (s := s.fresh) hs hd e hv (by
      rw [sourcePoisoned_of_only o (by decide) (by decide) (by decide) (by decide)]; exact hsp)] at hexec
    refine ⟨fun hl => ?_, fun hl => ?_⟩
    · exact ⟨_, hexec.trans (congrArg _ (if_pos hl)), jobFailed_behind hx o (List.Subset.refl _) .noSpace⟩
    · refine ⟨_, hexec.trans (congrArg _ (if_neg (Nat.not_lt.mpr hl))), EngineRuns.list ?_, ?_,
        (o.mono (by decide)).trans ((v.frameExpanded_only _ _ _ _ _).mono (by decide))⟩
      · have hc : v.capture = s.capture := o .capture (by decide)
        have hw := State.writeBlocks_only (block := jobDst x.job.desc / 256 + x.written)
          (data := pieces 256 (data.length / 256) data) (List.Subset.refl _) (Only.refl _ v)
        rw [← hc, ← show (v.writeBlocks (jobDst x.job.desc / 256 + x.written)
          (pieces 256 (data.length / 256) data)).capture = v.capture from hw .capture (by decide)]
        rfl
      · exact fun i hi b hb => v.frameExpanded_blocks _ _ _ _ _ hi hb

/-- Settles O60: each row of Fulling by its own lemmas. -/
theorem fullingEffects : Obligations.FullingEffects :=
  ⟨fun _ _ _ h hn => fullingSubmit_effects h hn, fun _ _ _ h hi => streamReset_effects h hi, fun _ _ h => streamState_effects h,
    fun m _ ho => ⟨⟨_, congrArg Host.Outcome.next (serveStore_waits ho m _ _), rfl⟩,
      ⟨_, congrArg Host.Outcome.next (serveStore_waits ho m _ _), rfl⟩⟩,
    fun _ _ _ _ ho h hi ha => streamSave_effects ho h hi ha,
    fun _ _ _ _ _ _ ho h hi ha hm hx => streamRestore_effects ho h hi ha hm hx,
    fun _ _ => ⟨fun _ _ _ hr hn hq hj ht => fullingJobStart_takes hr hn hq hj ht, fullingJobStart_idle⟩,
    fun _ _ _ _ _ _ _ hx hf hr ht he hn hfr => fullingFrameWrite_compresses hx hf hr ht he hn hfr,
    fun _ _ _ _ _ _ hx hf hr ht he hs => fullingFrameWrite_expands hx hf hr ht he hs,
    fun _ bad poisoned _ h => fullingFrameWrite_idle h bad poisoned,
    fun _ _ => ⟨fun _ hx hf => fullingJobCommit_commits hx hf, fullingJobCommit_waits⟩,
    fun _ _ => ⟨fun _ hj hw => autoJobRetry_releases hj hw, autoJobRetry_waits⟩⟩

end Sys2Proof
end

section
namespace Sys2Proof
open Machine
namespace Machine

/-! ### Writes of the port and lane records (R265 to R270, R275) -/

/-- A commit of the shadow table is pending, at the port's present superframe, and nothing is agreed yet (R265). -/
theorem State.commitTable_done (s : State) (p : Nat) : (s.commitTable p).flag F.ulpStatus_SWAP_PENDING p = true
    ∧ PortBecomes s (s.commitTable p) p
      { s.port p with commitAt := some (s.port p).superframe, proposal := 0, swapAt := none } :=
  ⟨State.flag_putFlag s _ _ _ (by decide), State.port_setPort _ _ _, fun _ hq => State.port_setPort_ne _ _ hq⟩

/-- A field of the control record of a port after a write of it. -/
theorem State.writePort_get (s : State) (w : RecWrite) (x : Nat) {f : Field} (hf : f.record = .ulpControl) :
    (s.writePort w x).get f w.i = bits x f.lo f.width := by
  unfold State.get
  rw [hf, State.writePort_image]

/-- A write of the control record that commits ends with the commit. -/
theorem State.writePort_commits (s : State) {w : RecWrite} (x : Nat) (h : w.acts F.ulpControl_COMMIT = true) :
    ∃ v : State, s.writePort w x = v.commitTable w.i := ⟨_, if_pos h⟩

/-- A write of a lane record that acts on INJ_GO ends with the injection, in the mode that the write leaves. -/
theorem State.writeLane_injects (s : State) {w : RecWrite} (x : Nat) (h : w.acts F.ulpLane_INJ_GO = true) :
    ∃ v : State, s.writeLane w x = v.inject (w.i / 8) (w.i % 8)
      ∧ v.get F.ulpLane_INJ_MODE w.i = bits x F.ulpLane_INJ_MODE.lo F.ulpLane_INJ_MODE.width := by
  refine ⟨_, if_pos h, ?_⟩
  split
  · exact (State.get_putFlag_other _ (by decide)).trans (State.get_setImage s F.ulpLane_INJ_MODE w.i x)
  · exact State.get_setImage s F.ulpLane_INJ_MODE w.i x

/-- An injection in mode 1 flips one bit of the lane's next block (R269). -/
theorem State.inject_single (s : State) {p l : Nat} (h : s.get F.ulpLane_INJ_MODE (8 * p + l) = 1) :
    ((s.inject p l).port p).injected.read 0 l = 1 := by
  unfold State.inject
  dsimp only
  rw [h]
  change ((s.setPort p { s.port p with injected := (s.port p).injected.write 0 l 1 }).port p).injected.read 0 l = 1
  rw [State.port_setPort]
  exact SMap.read_write_self (s.port p).injected 0 l 1

/-- A field that a write masks whole takes its part of the value. -/
theorem State.bareWrite_masked (s : State) (m : Nat) (r : Rec) (i value mask x lo n : Nat)
    (h : bits ((mask % 2 ^ (32 * r.words)) &&& r.rwMask) lo n = 2 ^ n - 1) :
    bits ((s.bareWrite m r i value mask).onto x) lo n = bits (value % 2 ^ (32 * r.words)) lo n :=
  RecWrite.onto_masked _ _ _ _ h

/-- A field of which a write masks nothing keeps its value. -/
theorem State.bareWrite_unmasked (s : State) (m : Nat) (r : Rec) (i value mask x lo n : Nat)
    (h : bits ((mask % 2 ^ (32 * r.words)) &&& r.rwMask) lo n = 0) :
    bits ((s.bareWrite m r i value mask).onto x) lo n = bits x lo n :=
  RecWrite.onto_unmasked _ _ _ _ h

end Machine

section writes

variable {c : Instr} {s u : State} {m value mask i : Nat} {P : State → Prop}

/-- A write of the control record of a port completes. -/
theorem Writes.port (h : Writes s (s.bareWrite m .ulpControl i value mask)) (hi : i < 4)
    (he : exec c s = .next (s.fresh.writeAlone m (Rec.ulpControl.id i) value mask))
    (hu : s.fresh.writePort (s.bareWrite m .ulpControl i value mask)
      (s.wouldLeave (s.bareWrite m .ulpControl i value mask)) = u) (hP : P u) : Runs c s fun t => Wrote t P :=
  h.wrote hi he hu hP rfl fun hr => by cases hr

/-- What a write of the control record of a port leaves of its fields. -/
theorem Writes.portFields (h : Writes s (s.bareWrite m .ulpControl i value mask)) (hi : i < 4)
    (he : exec c s = .next (s.fresh.writeAlone m (Rec.ulpControl.id i) value mask))
    (hP : ∀ u : State, (∀ f : Field, f.record = .ulpControl → u.get f i =
      bits ((s.bareWrite m .ulpControl i value mask).onto (s.rwImage .ulpControl i)) f.lo f.width) → P u) :
    Runs c s fun t => Wrote t P :=
  h.port hi he rfl (hP _ fun _ hf => State.writePort_get _ _ _ hf)

/-- A write of the record of a lane completes. -/
theorem Writes.lane (h : Writes s (s.bareWrite m .ulpLane i value mask)) (hi : i < 32)
    (he : exec c s = .next (s.fresh.writeAlone m (Rec.ulpLane.id i) value mask))
    (hu : s.fresh.writeLane (s.bareWrite m .ulpLane i value mask)
      (s.wouldLeave (s.bareWrite m .ulpLane i value mask)) = u) (hP : P u) : Runs c s fun t => Wrote t P :=
  h.wrote hi he hu hP rfl fun hr => by cases hr

end writes

/-- Two orders of power, each in its field of the control record. -/
theorem powerOrder_fields : ∀ v w : Fin 4,
    bits ((v.val <<< F.ulpControl_TX_POWER.lo + w.val <<< F.ulpControl_RX_POWER.lo) % 2 ^ (32 * Rec.ulpControl.words))
      F.ulpControl_TX_POWER.lo 2 = v
    ∧ bits ((v.val <<< F.ulpControl_TX_POWER.lo + w.val <<< F.ulpControl_RX_POWER.lo) % 2 ^ (32 * Rec.ulpControl.words))
      F.ulpControl_RX_POWER.lo 2 = w := by decide

/-- One order of power, in its field of the control record. -/
theorem powerOrder_field : ∀ v : Fin 4,
    bits ((v.val <<< F.ulpControl_TX_POWER.lo) % 2 ^ (32 * Rec.ulpControl.words)) F.ulpControl_TX_POWER.lo 2 = v
    ∧ bits ((v.val <<< F.ulpControl_RX_POWER.lo) % 2 ^ (32 * Rec.ulpControl.words)) F.ulpControl_RX_POWER.lo 2 = v := by
  decide

/-- PORT_COMMIT starts a swap (R265). -/
theorem portCommit_effects {m : Fin 16} {p : Fin 4} {s : State} (h : Writes s (s.fieldWrite m F.ulpControl_COMMIT p 1)) :
    Runs (.portCommit m p) s fun t => Wrote t fun u => u.flag F.ulpStatus_SWAP_PENDING p = true
      ∧ (u.port p).commitAt.isSome = true ∧ (u.port p).proposal = 0 ∧ (u.port p).swapAt = none := by
  obtain ⟨v, hv⟩ := s.fresh.writePort_commits (s.wouldLeave (s.fieldWrite m F.ulpControl_COMMIT p 1))
    (s.acts_field m F.ulpControl_COMMIT p (by decide) (by decide))
  obtain ⟨h1, h2, -⟩ := v.commitTable_done p
  refine Writes.port h p.isLt rfl (u := v.commitTable p) hv ⟨h1, ?_⟩
  rw [h2]
  exact ⟨rfl, rfl, rfl⟩

/-- INJ_GO in mode 1 has one symbol of the lane corrupted (R269). -/
theorem injGo_effects {m : Fin 16} {p : Fin 4} {l : Fin 8} {s : State}
    (h : Writes s (s.fieldWrite m F.ulpLane_INJ_GO (8 * p + l) 1))
    (hm : bits (s.rwImage .ulpLane (8 * p + l)) F.ulpLane_INJ_MODE.lo 2 = 1) :
    Runs (.injGo m p l) s fun t => Wrote t fun u => (u.port p).injected.read 0 l = 1 := by
  obtain ⟨v, hv, hi⟩ := s.fresh.writeLane_injects (s.wouldLeave (s.fieldWrite m F.ulpLane_INJ_GO (8 * p + l) 1))
    (s.acts_field m F.ulpLane_INJ_GO (8 * p + l) (by decide) (by decide))
  have hp : (8 * p.val + l.val) / 8 = p ∧ (8 * p.val + l.val) % 8 = l := by omega
  refine Writes.lane h (by omega) rfl hv ?_
  change ((v.inject ((8 * p.val + l.val) / 8) ((8 * p.val + l.val) % 8)).port p).injected.read 0 l = 1
  rw [hp.1, hp.2]
  exact v.inject_single (hi.trans ((s.fieldWrite_other m F.ulpLane_INJ_GO F.ulpLane_INJ_MODE _ _ _ (by decide)).trans hm))

/-- Settles O19: what a write leaves of the control record of a port, and the commit and the injection that writes start. -/
theorem portWriteEffects : Obligations.PortWriteEffects := by
  refine ⟨fun m p s h => portCommit_effects h, fun m p v w s h => ?_, fun m p v s h => ?_, fun m p w s h => ?_,
    fun m p on s h => ?_, fun m p v s h => ?_, fun m p l s h hm => injGo_effects h hm⟩
  · refine h.portFields p.isLt rfl fun u hu => ⟨?_, ?_⟩
    · exact (hu _ rfl).trans ((s.bareWrite_masked _ _ _ _ _ _ _ _ (by decide)).trans (powerOrder_fields v w).1)
    · exact (hu _ rfl).trans ((s.bareWrite_masked _ _ _ _ _ _ _ _ (by decide)).trans (powerOrder_fields v w).2)
  · refine h.portFields p.isLt rfl fun u hu => ⟨?_, ?_⟩
    · exact (hu _ rfl).trans ((s.bareWrite_masked _ _ _ _ _ _ _ _ (by decide)).trans (powerOrder_field v).1)
    · exact (hu _ rfl).trans (s.bareWrite_unmasked _ _ _ _ _ _ _ _ (by decide))
  · refine h.portFields p.isLt ?_ fun u hu => ⟨?_, ?_⟩
    · change Host.Outcome.next (s.fresh.writeAlone m (Rec.ulpControl.id p) (0 + _) (0 + _)) = _
      rw [Nat.zero_add, Nat.zero_add]
    · exact (hu _ rfl).trans ((s.bareWrite_masked _ _ _ _ _ _ _ _ (by decide)).trans (powerOrder_field w).2)
    · exact (hu _ rfl).trans (s.bareWrite_unmasked _ _ _ _ _ _ _ _ (by decide))
  · refine Writes.portFields h p.isLt rfl fun u hu => ?_
    have e := (hu F.ulpControl_TEST rfl).trans (s.fieldWrite_onto m F.ulpControl_TEST p _ _ (by decide) (by decide))
    unfold State.flag
    rw [e]
    cases on <;> rfl
  · refine Writes.portFields h p.isLt rfl fun u hu => ?_
    exact (hu F.ulpControl_LOOPBACK rfl).trans ((s.fieldWrite_onto m F.ulpControl_LOOPBACK p _ _ (by decide) (by decide)).trans
      (Nat.mod_eq_of_lt v.isLt))

end Sys2Proof
end

section
namespace Sys2Proof
open Machine
namespace Machine

/-! ### Fields of sums, and frames with their check (R251, R256, R261) -/

/-- What is a multiple of the power behind a field does not reach into the field. -/
theorem bits_add_of_dvd {a b lo w : Nat} (h : 2 ^ (lo + w) ∣ b) : bits (a + b) lo w = bits a lo w := by
  obtain ⟨c, rfl⟩ := h
  unfold bits
  rw [Nat.shiftRight_eq_div_pow, Nat.shiftRight_eq_div_pow, Nat.pow_add, Nat.mul_assoc,
    Nat.add_mul_div_left _ _ (Nat.two_pow_pos lo), Nat.add_mul_mod_self_left]

theorem two_pow_dvd_shiftLeft {m k : Nat} (h : m ≤ k) (b : Nat) : 2 ^ m ∣ b <<< k := by
  rw [Nat.shiftLeft_eq]
  exact (Nat.pow_dvd_pow 2 h).mul_left b

/-- A part that is put in behind a field leaves it. -/
theorem bits_add_shiftLeft {a b k lo w : Nat} (h : lo + w ≤ k) : bits (a + b <<< k) lo w = bits a lo w :=
  bits_add_of_dvd (two_pow_dvd_shiftLeft h b)

/-- A part that is put in at its place is read there. -/
theorem bits_shiftLeft_add {a b k : Nat} (ha : a < 2 ^ k) (j w : Nat) : bits (a + b <<< k) (k + j) w = bits b j w := by
  unfold bits
  rw [Nat.shiftRight_add, Nat.shiftRight_eq_div_pow (a + b <<< k) k, Nat.shiftLeft_eq,
    Nat.add_mul_div_right _ _ (Nat.two_pow_pos k), Nat.div_eq_of_lt ha, Nat.zero_add]

theorem add_shiftLeft_lt {a b k w n : Nat} (ha : a < 2 ^ k) (hb : b < 2 ^ w) (h : k + w = n) : a + b <<< k < 2 ^ n := by
  subst h
  rw [Nat.shiftLeft_eq, Nat.pow_add]
  calc a + b * 2 ^ k < (b + 1) * 2 ^ k := by rw [Nat.add_mul]; omega
    _ ≤ 2 ^ w * 2 ^ k := Nat.mul_le_mul_right _ hb
    _ = 2 ^ k * 2 ^ w := Nat.mul_comm _ _

/-- A field of a field. -/
theorem bits_bits {x a n lo w b : Nat} (h : lo + w ≤ n) (hb : b = a + lo) : bits (bits x a n) lo w = bits x b w := by
  subst hb
  refine Nat.eq_of_testBit_eq fun j => ?_
  simp only [testBit_bits, Nat.add_assoc]
  by_cases hj : j < w
  · simp [hj, show lo + j < n by omega]
  · simp [hj]

theorem bits_zero_of_lt {x w : Nat} (h : x < 2 ^ w) : bits x 0 w = x := Nat.mod_eq_of_lt h

theorem crcBit_lt {c : Nat} (h : c < 2 ^ 32) : crcBit c < 2 ^ 32 := by
  unfold crcBit
  split
  · exact Nat.xor_lt_two_pow (by omega) (by decide)
  · omega

theorem crcByte_lt {c : Nat} (b : Byte) (h : c < 2 ^ 32) : crcByte c b < 2 ^ 32 := by
  have hb : b.toNat < 2 ^ 32 := b.isLt.trans (by decide)
  exact crcBit_lt (crcBit_lt (crcBit_lt (crcBit_lt (crcBit_lt (crcBit_lt (crcBit_lt (crcBit_lt
    (Nat.xor_lt_two_pow h hb))))))))

theorem crc32c_lt (b : List Byte) : crc32c b < 2 ^ 32 := by
  have hf : ∀ (l : List Byte) (c : Nat), c < 2 ^ 32 → l.foldl crcByte c < 2 ^ 32 := by
    intro l
    induction l with
    | nil => exact fun _ h => h
    | cons x l ih => exact fun c h => ih _ (crcByte_lt x h)
  exact Nat.xor_lt_two_pow (hf b _ (by decide)) (by decide)

/-- The check leaves every field before it. -/
theorem bits_withCheck {x lo w : Nat} (h : lo + w ≤ 480) : bits (withCheck x) lo w = bits x lo w :=
  (bits_add_shiftLeft h).trans (bits_bits h (Nat.zero_add lo).symm)

/-- A frame that carries its check passes it. -/
theorem checkGood_withCheck (x : Nat) : checkGood (withCheck x) = true := by
  have h := bits_shiftLeft_add (b := crc32c (leBytes (bits x 0 480) 60)) (bits_lt x 0 480) 0 32
  unfold checkGood
  rw [bits_withCheck (by decide), decide_eq_true_iff]
  exact (h.trans (bits_zero_of_lt (crc32c_lt _))).symm

end Machine

/-! ### What leaves the status and the ports of other links alone -/

/-- Of the status record of port `p` only the fields `fs` have changed, and nothing of the status record of another. -/
def StatusKept (fs : List Field) (p : Nat) (s u : State) : Prop :=
  (∀ g : Field, g.record = .ulpStatus → (∀ f ∈ fs, g.lo + g.width ≤ f.lo ∨ f.lo + f.width ≤ g.lo) →
    u.get g p = s.get g p) ∧ ∀ q < 4, q ≠ p → u.image .ulpStatus q = s.image .ulpStatus q

namespace StatusKept

variable {fs gs : List Field} {p : Nat} {s u v : State}

theorem refl (fs : List Field) (p : Nat) (s : State) : StatusKept fs p s s := ⟨fun _ _ _ => rfl, fun _ _ _ => rfl⟩

theorem trans (h : StatusKept fs p s u) (g : StatusKept fs p u v) : StatusKept fs p s v :=
  ⟨fun f hr hf => (g.1 f hr hf).trans (h.1 f hr hf), fun q hq hn => (g.2 q hq hn).trans (h.2 q hq hn)⟩

theorem mono (h : StatusKept fs p s u) (hs : fs ⊆ gs) : StatusKept gs p s u :=
  ⟨fun g hr hg => h.1 g hr fun f hf => hg f (hs hf), h.2⟩

theorem of_only {ps : List Part} (h : Only ps s u) (hp : Part.image .ulpStatus ∉ ps) : StatusKept fs p s u :=
  ⟨fun _ hr _ => h.get (by rw [hr]; exact hp) p, fun q _ _ => h.image hp q⟩

theorem put (s : State) {f : Field} (v : Nat) (hr : f.record = .ulpStatus) (hf : f ∈ fs) (hp : p < 4) :
    StatusKept fs p s (s.put f p v) := by
  refine ⟨fun g _ hg => State.get_put_other s fun _ => hg f hf, fun q hq hn => ?_⟩
  unfold State.put
  rw [hr]
  exact State.image_setImage_index s .ulpStatus _ (by
    change p % 4 ≠ q % 4
    rw [Nat.mod_eq_of_lt hp, Nat.mod_eq_of_lt hq]
    exact hn.symm)

theorem putFlag (s : State) {f : Field} (b : Bool) (hr : f.record = .ulpStatus) (hf : f ∈ fs) (hp : p < 4) :
    StatusKept fs p s (s.putFlag f p b) := put s _ hr hf hp

theorem count (s : State) {f : Field} (hr : f.record = .ulpStatus) (hf : f ∈ fs) (hp : p < 4) :
    StatusKept fs p s (s.count f p) := put s _ hr hf hp

/-- A field beside those that have changed. -/
theorem get (h : StatusKept fs p s u) {g : Field} (hr : g.record = .ulpStatus)
    (hg : ∀ f ∈ fs, g.lo + g.width ≤ f.lo ∨ f.lo + f.width ≤ g.lo) : u.get g p = s.get g p := h.1 g hr hg

theorem flag (h : StatusKept fs p s u) {g : Field} (hr : g.record = .ulpStatus)
    (hg : ∀ f ∈ fs, g.lo + g.width ≤ f.lo ∨ f.lo + f.width ≤ g.lo) : u.flag g p = s.flag g p := by
  unfold State.flag
  rw [h.get hr hg]

end StatusKept

namespace PortBecomes

variable {s u v : State} {p : Nat} {x y : Port}

theorem setPort (s : State) (p : Nat) (x : Port) : PortBecomes s (s.setPort p x) p x :=
  ⟨State.port_setPort _ _ _, fun _ hq => State.port_setPort_ne _ _ hq⟩

theorem trans (h : PortBecomes s u p x) (g : PortBecomes u v p y) : PortBecomes s v p y :=
  ⟨g.1, fun q hq => (g.2 q hq).trans (h.2 q hq)⟩

/-- Behind changes that leave the ports alone. -/
theorem behind {ps : List Part} (o : Only ps s u) (hp : Part.ports ∉ ps) (h : PortBecomes u v p x) : PortBecomes s v p x :=
  ⟨h.1, fun q hq => (h.2 q hq).trans (port_of_only o hp q)⟩

/-- Before changes that leave the ports alone. -/
theorem onto {ps : List Part} (h : PortBecomes s u p x) (o : Only ps u v) (hp : Part.ports ∉ ps) : PortBecomes s v p x :=
  ⟨(port_of_only o hp p).trans h.1, fun q hq => (port_of_only o hp q).trans (h.2 q hq)⟩

end PortBecomes

/-- Commands that have ended stay so while the mailboxes are left alone. -/
theorem AllEnded.onto {ps : List Part} {s u v : State} {w : Wait} {st : Status} {p : List Byte} (h : AllEnded s u w st p)
    (o : Only ps u v) (hp : Part.mailboxes ∉ ps) : AllEnded s v w st p := by
  intro hn d hd hw hx
  obtain ⟨h1, h2⟩ := h hn d hd hw hx
  refine ⟨(mailbox_of_only o hp _).trans h1, ?_⟩
  unfold State.deferredOf at h2 ⊢
  rw [show v.host.deferred = u.host.deferred from (o .mailboxes hp).2.2]
  exact h2

/-- Behind changes that leave the mailboxes alone. -/
theorem AllEnded.behind {ps : List Part} {s u v : State} {w : Wait} {st : Status} {p : List Byte} (h : AllEnded v u w st p)
    (o : Only ps s v) (hp : Part.mailboxes ∉ ps) : AllEnded s u w st p := by
  intro hn d hd hw hx
  rw [← show v.host.deferred = s.host.deferred from (o .mailboxes hp).2.2] at hn hd
  exact (h hn d hd hw hx).of_mailbox (mailbox_of_only o hp _)

/-! ### A swap that fails, and directions that go down (R249, R263, R265) -/

theorem SameCount.of_only {ps : List Part} {cls : Nat} {s u : State} (o : Only ps s u) (hp : Part.log ∉ ps) :
    SameCount cls s u := congrArg (fun l : Log => l.counters.read 0 cls) (o .log hp)

theorem SameCount.holdover {cls : Nat} (h : cls ≠ 31) (s : State) : SameCount cls s s.holdover := by
  unfold State.holdover
  extract_lets a v
  have hv : SameCount cls s v := SameCount.of_only (ps := [.clock, .image .timeStatus])
    (State.setClock_only (by decide) (.inr rfl) (.inr rfl) (.inr ⟨rfl, rfl⟩)
      (State.putFlag_only (by decide) (Only.refl _ s))) (by decide)
  clear_value v
  split
  · exact hv
  · exact hv.trans (SameCount.report h _ _ _ _ _)

namespace Machine

/-- A port whose commit has ended without a swap. -/
def Port.uncommitted (x : Port) : Port := { x with commitAt := none, proposal := 0, swapAt := none }

/-- The state before the commands that wait for a failed swap end. -/
def State.swapLost (s : State) (p : Nat) : State :=
  ((s.putFlag F.ulpStatus_SWAP_PENDING p false).putFlag F.ulpStatus_SWAP_FAILED p true).setPort p (s.port p).uncommitted

theorem State.swapLost_done (s : State) (p : Nat) : (s.swapLost p).flag F.ulpStatus_SWAP_PENDING p = false
    ∧ (s.swapLost p).flag F.ulpStatus_SWAP_FAILED p = true ∧ PortBecomes s (s.swapLost p) p (s.port p).uncommitted
    ∧ Only [.image .ulpStatus, .ports] s (s.swapLost p) := by
  have o : Only [.image .ulpStatus] s
      ((s.putFlag F.ulpStatus_SWAP_PENDING p false).putFlag F.ulpStatus_SWAP_FAILED p true) :=
    State.putFlag_only (by decide) (State.putFlag_only (by decide) (Only.refl _ s))
  unfold State.swapLost
  refine ⟨?_, ?_, (PortBecomes.setPort _ p _).behind o (by decide), State.setPort_only (by decide) (o.mono (by decide))⟩
  · rw [State.setPort_flag, State.flag_putFlag_other _ (by decide), State.flag_putFlag _ _ _ _ (by decide)]
  · rw [State.setPort_flag, State.flag_putFlag _ _ _ _ (by decide)]

/-- The fields of the status record that a failed swap may change. -/
def swapFields : List Field := [F.ulpStatus_SWAP_PENDING, F.ulpStatus_SWAP_FAILED]

theorem State.swapLost_status (s : State) {p : Nat} (hp : p < 4) : StatusKept swapFields p s (s.swapLost p) :=
  ((StatusKept.putFlag s false rfl (by decide) hp).trans (StatusKept.putFlag _ true rfl (by decide) hp)).trans
    (StatusKept.of_only (ps := [.ports]) (State.setPort_only (by decide) (Only.refl _ _)) (by decide))

theorem State.failSwap_pending {s : State} {p : Nat} (h : s.flag F.ulpStatus_SWAP_PENDING p = true) :
    s.failSwap p = (s.swapLost p).finishAll (fun w => w = .tableCommit p) .timeout [] := if_pos h

theorem State.failSwap_idle {s : State} {p : Nat} (h : s.flag F.ulpStatus_SWAP_PENDING p = false) : s.failSwap p = s :=
  if_neg (ne_true_of_eq_false h)

/-- A pending swap that fails. -/
theorem State.failSwap_fails {s : State} {p : Nat} (h : s.flag F.ulpStatus_SWAP_PENDING p = true) :
    (s.failSwap p).flag F.ulpStatus_SWAP_PENDING p = false ∧ (s.failSwap p).flag F.ulpStatus_SWAP_FAILED p = true
      ∧ PortBecomes s (s.failSwap p) p (s.port p).uncommitted ∧ AllEnded s (s.failSwap p) (.tableCommit p) .timeout [] := by
  rw [State.failSwap_pending h]
  have ou := State.finishAll_only (p := fun w => w = .tableCommit p) (st := .timeout) (payload := []) (List.Subset.refl _)
    (Only.refl _ (s.swapLost p))
  obtain ⟨h1, h2, h3, h4⟩ := s.swapLost_done p
  exact ⟨(ou.flag (by decide) p).trans h1, (ou.flag (by decide) p).trans h2, h3.onto ou (by decide),
    AllEnded.finishAll h4 (by decide) (.tableCommit p) .timeout []⟩

/-- What a swap that fails leaves alone, where one was pending or not. -/
theorem State.failSwap_keeps (s : State) {p : Nat} (hp : p < 4) : StatusKept swapFields p s (s.failSwap p)
    ∧ Grows s (s.failSwap p) ∧ (∀ cls, cls ≠ 13 → SameCount cls s (s.failSwap p))
    ∧ (∃ c a k, (s.failSwap p).port p = { s.port p with commitAt := c, proposal := a, swapAt := k })
    ∧ (∀ q, q ≠ p → (s.failSwap p).port q = s.port q) ∧ ∀ m, Kept m s (s.failSwap p) := by
  by_cases h : s.flag F.ulpStatus_SWAP_PENDING p = true
  · obtain ⟨-, -, hb, -⟩ := State.failSwap_fails h
    obtain ⟨-, -, -, o⟩ := s.swapLost_done p
    rw [State.failSwap_pending h] at hb ⊢
    have ou := State.finishAll_only (p := fun w => w = .tableCommit p) (st := .timeout) (payload := []) (List.Subset.refl _)
      (Only.refl _ (s.swapLost p))
    exact ⟨(s.swapLost_status hp).trans (StatusKept.of_only ou (by decide)),
      (Grows.of_only o (by decide) (by decide)).trans (Grows.finishAll _ _ _ _),
      fun cls hc => (SameCount.of_only o (by decide)).trans (SameCount.finishAll hc _ _ _ _), ⟨_, _, _, hb.1⟩, hb.2,
      fun m => (Kept.of_only o (by decide)).trans (State.finishAll_kept _ _ _ _)⟩
  · rw [State.failSwap_idle (Bool.eq_false_iff.mpr h)]
    exact ⟨StatusKept.refl _ _ _, Grows.refl s, fun cls _ => SameCount.refl cls s, ⟨_, _, _, rfl⟩, fun _ _ => rfl,
      fun m => Kept.refl m s⟩

end Machine

end Sys2Proof
end

section
namespace Sys2Proof
open Machine

/-! ### Directions that go down (R249, R263) -/

namespace Machine

/-- A receiver that starts afresh: every lane hunts again from where it stands. -/
def Port.restarted (x : Port) : Port := { x with
  controlOk := false, sameFrame := false, keptValid := false, firstUsed := false, firstFailed := false
  rxFailed := false, partnerProposal := 0, rxNotice := 0
  aligns := (List.range 8).foldl (fun m l => m.update .init l fun a => { a with run := 0, recent := [] }) x.aligns }

/-- The direction in its new state, before a pending swap fails and its time is given up. -/
def State.rxReset (s : State) (p x : Nat) : State :=
  ((s.put F.ulpStatus_RX_STATE p x).put F.ulpStatus_LANE_LOCK p 0).setPort p (s.port p).restarted

theorem State.rxDown_split (s : State) (p x : Nat) : s.rxDown p x =
    if s.get F.ulpStatus_RX_STATE p = 2 && ((s.rxReset p x).failSwap p).timeSource = sourceUlp
      && ((s.rxReset p x).failSwap p).get F.timeControl_TIME_PORT = p then ((s.rxReset p x).failSwap p).holdover
    else (s.rxReset p x).failSwap p := rfl

/-- The fields of the status record that a direction going down may change. -/
def downFields : List Field := [F.ulpStatus_RX_STATE, F.ulpStatus_LANE_LOCK] ++ swapFields

theorem State.rxReset_done (s : State) {p x : Nat} (hp : p < 4) (hx : x < 8) :
    (s.rxReset p x).get F.ulpStatus_RX_STATE p = x ∧ (s.rxReset p x).get F.ulpStatus_LANE_LOCK p = 0
      ∧ PortBecomes s (s.rxReset p x) p (s.port p).restarted
      ∧ StatusKept [F.ulpStatus_RX_STATE, F.ulpStatus_LANE_LOCK] p s (s.rxReset p x)
      ∧ Only [.image .ulpStatus, .ports] s (s.rxReset p x) := by
  have o : Only [.image .ulpStatus] s ((s.put F.ulpStatus_RX_STATE p x).put F.ulpStatus_LANE_LOCK p 0) :=
    State.put_only (by decide) (State.put_only (by decide) (Only.refl _ s))
  have k : StatusKept [F.ulpStatus_RX_STATE, F.ulpStatus_LANE_LOCK] p s
      ((s.put F.ulpStatus_RX_STATE p x).put F.ulpStatus_LANE_LOCK p 0) :=
    (StatusKept.put s x rfl (by decide) hp).trans (StatusKept.put _ 0 rfl (by decide) hp)
  unfold State.rxReset
  refine ⟨?_, ?_, (PortBecomes.setPort _ p _).behind o (by decide),
    k.trans (StatusKept.of_only (ps := [.ports]) (State.setPort_only (by decide) (Only.refl _ _)) (by decide)),
    State.setPort_only (by decide) (o.mono (by decide))⟩
  · rw [State.setPort_get, State.get_put_other _ (by decide), State.get_put_of_lt _ _ _ hx]
  · rw [State.setPort_get, State.get_put]
    rfl

/-- Behind the failed swap at most the clock is in holdover. -/
theorem State.rxDown_holds (s : State) (p x : Nat) : ∃ v, v = (s.rxReset p x).failSwap p
    ∧ (s.rxDown p x = v ∨ s.rxDown p x = v.holdover) := by
  refine ⟨_, rfl, ?_⟩
  rw [State.rxDown_split]
  split
  · exact .inr rfl
  · exact .inl rfl

theorem State.holdover_parts (s : State) :
    Only [.clock, .image .timeStatus, .log, .image .logStatus, .out, .hatband] s s.holdover :=
  State.holdover_only (List.Subset.refl _) (Only.refl _ s)

/-- What stays of a port and its status while its direction goes down, and what only grows. -/
theorem State.rxDown_keeps (s : State) {p x : Nat} (hp : p < 4) (hx : x < 8) : StatusKept downFields p s (s.rxDown p x)
    ∧ Grows s (s.rxDown p x) ∧ (∀ cls, cls ≠ 13 → cls ≠ 31 → SameCount cls s (s.rxDown p x))
    ∧ (∃ c a k, (s.rxDown p x).port p = { (s.port p).restarted with commitAt := c, proposal := a, swapAt := k })
    ∧ (∀ q, q ≠ p → (s.rxDown p x).port q = s.port q) ∧ (∀ m, Kept m s (s.rxDown p x))
    ∧ (s.rxDown p x).get F.ulpStatus_RX_STATE p = x ∧ (s.rxDown p x).get F.ulpStatus_LANE_LOCK p = 0 := by
  obtain ⟨h1, h2, h3, h4, o⟩ := s.rxReset_done hp hx
  obtain ⟨k1, k2, k3, ⟨c, a, k, k4⟩, k5, k6⟩ := (s.rxReset p x).failSwap_keeps hp
  obtain ⟨v, hv, hu⟩ := s.rxDown_holds p x
  rw [h3.1] at k4
  rw [← hv] at k1 k2 k3 k4 k5 k6
  have e1 : StatusKept downFields p s v := (h4.mono (by decide)).trans (k1.mono (by decide))
  have e2 : Grows s v := (Grows.of_only o (by decide) (by decide)).trans k2
  have e3 : ∀ cls, cls ≠ 13 → SameCount cls s v := fun cls hc => (SameCount.of_only o (by decide)).trans (k3 cls hc)
  have e5 : ∀ q, q ≠ p → v.port q = s.port q := fun q hq => (k5 q hq).trans (h3.2 q hq)
  have e6 : ∀ m, Kept m s v := fun m => (Kept.of_only o (by decide)).trans (k6 m)
  have e7 : v.get F.ulpStatus_RX_STATE p = x := (k1.get rfl (by decide)).trans h1
  have e8 : v.get F.ulpStatus_LANE_LOCK p = 0 := (k1.get rfl (by decide)).trans h2
  have oh := v.holdover_parts
  rcases hu with hu | hu
  · rw [hu]
    exact ⟨e1, e2, fun cls hc _ => e3 cls hc, ⟨c, a, k, k4⟩, e5, e6, e7, e8⟩
  · rw [hu]
    exact ⟨e1.trans (StatusKept.of_only oh (by decide)), e2.trans (Grows.holdover v),
      fun cls hc hd => (e3 cls hc).trans (SameCount.holdover hd v),
      ⟨c, a, k, (port_of_only oh (by decide) p).trans k4⟩, fun q hq => (port_of_only oh (by decide) q).trans (e5 q hq),
      fun m => (e6 m).trans (Kept.of_only oh (by decide)), (oh.get (by decide) p).trans e7, (oh.get (by decide) p).trans e8⟩

theorem State.rxDown_parts (s : State) (p x : Nat) : Only downParts s (s.rxDown p x) :=
  State.rxDown_only (List.Subset.refl _) (Only.refl _ s)

/-- A direction that goes down (R249, R265). -/
theorem State.rxDown_wentDown (s : State) {p x : Nat} (hp : p < 4) (hx : x < 8) : WentDown s (s.rxDown p x) p x := by
  obtain ⟨k1, -, -, ⟨c, a, k, k4⟩, k5, -, k7, k8⟩ := s.rxDown_keeps hp hx
  refine ⟨k7, k8, by rw [k4]; rfl, by rw [k4]; rfl, by rw [k4]; rfl, fun h => ?_, k5, k1.2⟩
  obtain ⟨-, -, -, h4, o⟩ := s.rxReset_done hp hx
  obtain ⟨f1, f2, -, f4⟩ := State.failSwap_fails (s := s.rxReset p x) ((h4.flag rfl (by decide)).trans h)
  obtain ⟨v, hv, hu⟩ := s.rxDown_holds p x
  rw [← hv] at f1 f2 f4
  have oh := v.holdover_parts
  have f5 : AllEnded s v (.tableCommit p) .timeout [] := f4.behind o (by decide)
  rcases hu with hu | hu
  · rw [hu]
    exact ⟨f1, f2, f5⟩
  · rw [hu]
    exact ⟨(oh.flag (by decide) p).trans f1, (oh.flag (by decide) p).trans f2, f5.onto oh (by decide)⟩

end Machine

/-- Behind changes that leave mailboxes, ports and their status alone. -/
theorem WentDown.behind {ps : List Part} {s v u : State} {p x : Nat} (h : WentDown v u p x) (o : Only ps s v)
    (h1 : Part.mailboxes ∉ ps) (h2 : Part.ports ∉ ps)
    (hf : v.flag F.ulpStatus_SWAP_PENDING p = s.flag F.ulpStatus_SWAP_PENDING p)
    (hq : ∀ q < 4, q ≠ p → v.image .ulpStatus q = s.image .ulpStatus q) : WentDown s u p x := by
  obtain ⟨k1, k2, k3, k4, k5, k6, k7, k8⟩ := h
  refine ⟨k1, k2, k3, k4, k5, fun hs => ?_, fun q hn => (k7 q hn).trans (port_of_only o h2 q),
    fun q h4 hn => (k8 q h4 hn).trans (hq q h4 hn)⟩
  obtain ⟨e1, e2, e3⟩ := k6 (hf.trans hs)
  exact ⟨e1, e2, e3.behind o h1⟩

/-- Before changes that leave mailboxes and ports alone, and of the status another field at most. -/
theorem WentDown.onto {ps : List Part} {s v u : State} {p x : Nat} {fs : List Field} (h : WentDown s v p x) (o : Only ps v u)
    (h1 : Part.mailboxes ∉ ps) (h2 : Part.ports ∉ ps) (k : StatusKept fs p v u)
    (hf : ∀ g ∈ downFields, ∀ f ∈ fs, g.lo + g.width ≤ f.lo ∨ f.lo + f.width ≤ g.lo) : WentDown s u p x := by
  obtain ⟨k1, k2, k3, k4, k5, k6, k7, k8⟩ := h
  have hp : u.port p = v.port p := port_of_only o h2 p
  rw [← hp] at k3 k4 k5
  refine ⟨(k.get rfl (hf _ (by decide))).trans k1, (k.get rfl (hf _ (by decide))).trans k2, k3, k4, k5, fun hs => ?_,
    fun q hn => (port_of_only o h2 q).trans (k7 q hn), fun q h4 hn => (k.2 q h4 hn).trans (k8 q h4 hn)⟩
  obtain ⟨e1, e2, e3⟩ := k6 hs
  exact ⟨(k.flag rfl (hf _ (by decide))).trans e1, (k.flag rfl (hf _ (by decide))).trans e2, e3.onto o h1⟩

namespace Machine

/-- A direction that is ALIGNING or UP goes down, and LINK_DOWN is raised where it was UP. -/
theorem State.realign_goes {s : State} {p : Nat} (h : s.get F.ulpStatus_RX_STATE p = 1 ∨ s.get F.ulpStatus_RX_STATE p = 2) :
    s.realign p = if s.get F.ulpStatus_RX_STATE p = 2 then (s.rxDown p 0).raise (768 + 16 * p + 11) else s.rxDown p 0 :=
  if_pos (by simpa using h)

theorem State.realign_stands {s : State} {p : Nat} (h1 : s.get F.ulpStatus_RX_STATE p ≠ 1)
    (h2 : s.get F.ulpStatus_RX_STATE p ≠ 2) : s.realign p = s := if_neg (by simp [h1, h2])

theorem State.realign_parts (s : State) (p : Nat) : Only downParts s (s.realign p) :=
  State.realign_only (List.Subset.refl _) (Only.refl _ s)

theorem State.realign_done {s : State} {p : Nat} (hp : p < 4)
    (h : s.get F.ulpStatus_RX_STATE p = 1 ∨ s.get F.ulpStatus_RX_STATE p = 2) : WentDown s (s.realign p) p 0
      ∧ (s.get F.ulpStatus_RX_STATE p = 2 → Raised s (s.realign p) (768 + 16 * p + 11) 0 0) := by
  have hd := s.rxDown_wentDown hp (x := 0) (by decide)
  rw [State.realign_goes h]
  split
  · have o : Only [.out, .hatband] (s.rxDown p 0) ((s.rxDown p 0).raise (768 + 16 * p + 11)) :=
      State.raise_only (List.Subset.refl _) (Only.refl _ _)
    exact ⟨hd.onto (fs := []) o (by decide) (by decide) (StatusKept.of_only o (by decide)) (by decide),
      fun _ => Raised.raise _ _ _⟩
  · next hn => exact ⟨hd, fun h2 => absurd h2 hn⟩

/-- What stays of a port and its status while its direction is realigned. -/
theorem State.realign_keeps (s : State) {p : Nat} (hp : p < 4) : StatusKept downFields p s (s.realign p)
    ∧ (∀ cls, cls ≠ 13 → cls ≠ 31 → SameCount cls s (s.realign p)) ∧ ((s.realign p).port p).unacked = (s.port p).unacked
    ∧ ((s.realign p).port p).queue = (s.port p).queue ∧ ∀ m, Kept m s (s.realign p) := by
  by_cases h : s.get F.ulpStatus_RX_STATE p = 1 ∨ s.get F.ulpStatus_RX_STATE p = 2
  · obtain ⟨k1, -, k3, ⟨c, a, k, k4⟩, -, k6, -, -⟩ := s.rxDown_keeps hp (x := 0) (by decide)
    have o : Only [.out, .hatband] (s.rxDown p 0) (s.realign p) := by
      rw [State.realign_goes h]
      exact Only.ite (State.raise_only (List.Subset.refl _) (Only.refl _ _)) (Only.refl _ _)
    refine ⟨k1.trans (StatusKept.of_only o (by decide)),
      fun cls hc hd => (k3 cls hc hd).trans (SameCount.of_only o (by decide)), ?_, ?_,
      fun m => (k6 m).trans (Kept.of_only o (by decide))⟩
    all_goals
      rw [port_of_only o (by decide), k4]
      rfl
  · obtain ⟨h1, h2⟩ := not_or.mp h
    rw [State.realign_stands h1 h2]
    exact ⟨StatusKept.refl _ _ _, fun cls _ _ => SameCount.refl cls s, rfl, rfl, fun m => Kept.refl m s⟩

end Machine

end Sys2Proof
end

section
namespace Sys2Proof
open Machine

/-! ### The commands of Uluforam (R249, R265, R272) -/

/-- ULP_STATUS returns the status records of the four ports with the hashes in force (R272). -/
theorem ulpStatus_effects {m : Fin 16} {s : State} (h : Passes s m 0x0701 ulpStatusCommand) : Runs (.ulpStatus m) s fun t =>
    Answered s t m .ok 0 ((List.range 4).flatMap fun p =>
      leBytes (setBits (s.image .ulpStatus p) 160 32 (s.tableHash (s.activeTable p))) 32)
    ∧ Only [.log, .image .logStatus, .out, .hatband, .mailboxes, .host] s t :=
  h.replied rfl rfl ⟨Answered.reply rfl, (taken_only s (by decide)).trans (Answered.only _ _ _ _)⟩

/-- TABLE_COMMIT waits for the swap (R265). -/
theorem tableCommit_effects {m : Fin 16} {s : State} {p : Nat} (h : Passes s m 0x0702 tableCommitCommand)
    (hp : p = (s.request m).at 0 1) : Runs (.tableCommit m) s fun t => Deferring s t m (.tableCommit p)
      ∧ t.flag F.ulpStatus_SWAP_PENDING p = true
      ∧ PortBecomes s t p { s.port p with commitAt := some (s.port p).superframe, proposal := 0, swapAt := none }
      ∧ Only [.out, .mailboxes, .ports, .image .ulpStatus] s t := by
  obtain ⟨h1, h2⟩ := s.taken.commitTable_done p
  have ou : Only [.image .ulpStatus, .ports] s.taken (s.taken.commitTable p) :=
    State.commitTable_only (List.Subset.refl _) (Only.refl _ _)
  have ha : (tableCommitCommand (s.request m) s.taken).act s.taken = .wait (s.taken.commitTable p) (.tableCommit p) := by
    rw [hp]
    rfl
  exact h.deferring rfl ha rfl rfl fun v ov => ⟨(ov.flag (by decide) p).trans h1, h2.onto ov (by decide),
    ((taken_only s (by decide)).trans (ou.mono (by decide))).trans (ov.mono (by decide))⟩

/-- The clause of O58 on LINK_RETRAIN. -/
theorem linkRetrain_effects {m : Fin 16} {s : State} {p : Nat} (h : Passes s m 0x0703 linkRetrainCommand)
    (hp : p = (s.request m).at 0 1) (hd : s.deferredOf m = none) :
    ((s.get F.ulpStatus_RX_STATE p = 1 ∨ s.get F.ulpStatus_RX_STATE p = 2) → Runs (.linkRetrain m) s fun t =>
      Done s t m [] fun u => WentDown s u p 0 ∧ Only downParts s u
        ∧ (s.get F.ulpStatus_RX_STATE p = 2 → Raised s u (768 + 16 * p + 11) 0 0))
    ∧ (s.get F.ulpStatus_RX_STATE p ≠ 1 → s.get F.ulpStatus_RX_STATE p ≠ 2 → Runs (.linkRetrain m) s fun t =>
      Answered s t m .ok 0 [] ∧ Only [.log, .image .logStatus, .out, .hatband, .mailboxes, .host] s t) := by
  have hc := h.check (x := badAt 0 (4 ≤ (s.request m).at 0 1)) List.mem_cons_self
  have h4 : p < 4 := by
    rw [hp]
    exact Nat.not_le.mp (of_decide_eq_false (badAt_passes hc))
  have ha : (linkRetrainCommand (s.request m) s.taken).act s.taken = .ok (s.taken.realign p) [] := by
    rw [hp]
    rfl
  refine ⟨fun hr => ?_, fun h1 h2 => ?_⟩
  · obtain ⟨k1, k2⟩ := State.realign_done (s := s.taken) h4 hr
    obtain ⟨-, -, -, -, hk⟩ := s.taken.realign_keeps h4
    exact h.done rfl ha (hk m hd).1 ⟨k1, (taken_only s (by decide)).trans (s.taken.realign_parts p), k2⟩
  · rw [State.realign_stands (s := s.taken) h1 h2] at ha
    exact h.replied rfl ha ⟨Answered.reply rfl, (taken_only s (by decide)).trans (Answered.only _ _ _ _)⟩

/-! ### Headers that a lane finds and follows (R247, R248) -/

namespace Machine

theorem validHeader_iff : ∀ h : BitVec 2, validHeader h = true ↔ h = 1 ∨ h = 2 := by decide

theorem not_validHeader : ∀ h : BitVec 2, (!validHeader h) = (h == 0 || h == 3) := by decide

/-- Consecutive valid headers end the search. -/
theorem LaneAlign.hunt_valid : ∀ (hs : List (BitVec 2)) (a : LaneAlign), (∀ h ∈ hs, h = 1 ∨ h = 2) → 64 ≤ a.run + hs.length →
    64 ≤ (hs.foldl LaneAlign.hunt a).run
  | [], _, _, hl => hl
  | h :: hs, a, hv, hl => by
    refine LaneAlign.hunt_valid hs (a.hunt h) (fun x hx => hv x (List.mem_cons_of_mem _ hx)) ?_
    rw [List.length_cons] at hl
    unfold LaneAlign.hunt
    split
    · omega
    · rw [if_pos ((validHeader_iff h).mpr (hv h List.mem_cons_self))]
      show 64 ≤ a.run + 1 + hs.length
      omega

/-- An invalid header moves the block boundary by one bit. -/
theorem LaneAlign.hunt_invalid {a : LaneAlign} (ha : a.run < 64) {h : BitVec 2} (hh : h = 0 ∨ h = 3) :
    a.hunt h = { a with boundary := (a.boundary + 1) % 66, run := 0 } := by
  have hv : ¬ validHeader h = true := by rcases hh with rfl | rfl <;> decide
  unfold LaneAlign.hunt
  rw [if_neg (Nat.not_le.mpr ha), if_neg hv]

/-- The lock is lost at the sixteenth invalid header among those that are remembered. -/
theorem LaneAlign.follow_iff : ∀ (hs : List (BitVec 2)) (a : LaneAlign), a.recent.length + hs.length ≤ 64 →
    a.recent.count true < 16 →
    ((a.follow hs).1 = true ↔ 16 ≤ a.recent.count true + hs.countP fun h => h == 0 || h == 3)
  | [], a, _, hc => by simp [LaneAlign.follow, hc]
  | h :: hs, a, hl, hc => by
    rw [List.length_cons] at hl
    have hk : (a.keep h).recent = (h == 0 || h == 3) :: a.recent := by
      unfold LaneAlign.keep
      rw [← not_validHeader]
      exact List.take_of_length_le (by rw [List.length_cons]; omega)
    have hn : (a.keep h).recent.count true = a.recent.count true + if (h == 0 || h == 3) = true then 1 else 0 := by
      rw [hk, List.count_cons]
      cases (h == 0 || h == 3) <;> rfl
    have hp : (a.recent.count true + (h :: hs).countP fun h => h == 0 || h == 3)
        = (a.keep h).recent.count true + hs.countP fun h => h == 0 || h == 3 := by
      rw [List.countP_cons, hn]
      omega
    rw [LaneAlign.follow, hp]
    split
    · next hc' => exact iff_of_true rfl (by omega)
    · next hc' =>
      refine LaneAlign.follow_iff hs (a.keep h) ?_ (Nat.not_le.mp hc')
      rw [hk, List.length_cons]
      omega

/-! ### Lanes that lock (R248, R250) -/

/-- The bits of LANE_LOCK after one is set. -/
theorem bit_setBits_one (x l k : Nat) (hk : k < 8) : bit (setBits x l 1 1 % 2 ^ 8) k = (bit x k || decide (k = l)) := by
  have hb : ∀ y, bit y k = y.testBit k := fun y => by
    unfold bit bits
    rw [Nat.shiftRight_eq_div_pow, pow_one, Nat.testBit_eq_decide_div_mod_eq]
  rw [hb, hb, Nat.testBit_mod_two_pow, testBit_setBits]
  by_cases e : k = l
  · simp [e, e ▸ hk]
  · rw [if_neg (by omega)]
    simp [hk, e]

/-- A lane whose settings have come into force and whose bit has been set. -/
def State.laneSet (s : State) (p l : Nat) : State :=
  (s.setPort p { s.port p with lanes := (s.port p).lanes.write 0 l (bits (s.image .ulpLane (8 * p + l)) 0 22) }).put
    F.ulpStatus_LANE_LOCK p (setBits (s.get F.ulpStatus_LANE_LOCK p) l 1 1)

theorem State.lockLane_split (s : State) (p l : Nat) : s.lockLane p l =
    if (s.laneSet p l).get F.ulpStatus_LANE_LOCK p = 0xFF && (s.laneSet p l).get F.ulpStatus_RX_STATE p ≠ 5 then
      (s.laneSet p l).put F.ulpStatus_RX_STATE p 1
    else s.laneSet p l := rfl

theorem State.laneSet_done (s : State) (p l : Nat) :
    (∀ k < 8, bit ((s.laneSet p l).get F.ulpStatus_LANE_LOCK p) k
      = (bit (s.get F.ulpStatus_LANE_LOCK p) k || decide (k = l)))
    ∧ (s.laneSet p l).get F.ulpStatus_RX_STATE p = s.get F.ulpStatus_RX_STATE p
    ∧ PortBecomes s (s.laneSet p l) p
      { s.port p with lanes := (s.port p).lanes.write 0 l (bits (s.image .ulpLane (8 * p + l)) 0 22) } := by
  unfold State.laneSet
  refine ⟨fun k hk => ?_, ?_, (PortBecomes.setPort s p _).onto (ps := [.image .ulpStatus])
    (State.put_only (by decide) (Only.refl _ _)) (by decide)⟩
  · rw [State.get_put]
    exact bit_setBits_one _ l k hk
  · rw [State.get_put_other _ (by decide), State.setPort_get]

/-- A lane's settings come into force and its bit sets; the eighth starts ALIGN. -/
theorem State.lockLane_done (s : State) (p l : Nat) :
    (∀ k < 8, bit ((s.lockLane p l).get F.ulpStatus_LANE_LOCK p) k
      = (bit (s.get F.ulpStatus_LANE_LOCK p) k || decide (k = l)))
    ∧ (s.lockLane p l).get F.ulpStatus_RX_STATE p = (if (s.lockLane p l).get F.ulpStatus_LANE_LOCK p = 0xFF
        ∧ s.get F.ulpStatus_RX_STATE p ≠ 5 then 1 else s.get F.ulpStatus_RX_STATE p)
    ∧ PortBecomes s (s.lockLane p l) p
      { s.port p with lanes := (s.port p).lanes.write 0 l (bits (s.image .ulpLane (8 * p + l)) 0 22) } := by
  obtain ⟨h1, h2, h3⟩ := s.laneSet_done p l
  rw [State.lockLane_split]
  generalize s.laneSet p l = v at *
  rw [h2]
  by_cases hc : v.get F.ulpStatus_LANE_LOCK p = 0xFF ∧ s.get F.ulpStatus_RX_STATE p ≠ 5
  · have hl : (v.put F.ulpStatus_RX_STATE p 1).get F.ulpStatus_LANE_LOCK p = v.get F.ulpStatus_LANE_LOCK p :=
      State.get_put_other v (by decide)
    rw [if_pos (by simpa using hc), hl, if_pos hc]
    exact ⟨h1, State.get_put_of_lt _ _ _ (by decide), h3.onto (ps := [.image .ulpStatus])
      (State.put_only (by decide) (Only.refl _ v)) (by decide)⟩
  · rw [if_neg (by simpa using hc), if_neg hc]
    exact ⟨h1, h2, h3⟩

end Machine

theorem exec_laneLock (p : Fin 4) (l : Fin 8) (hs : List (BitVec 2)) (s : State) : exec (.laneLock p l hs) s = .next
    (if s.portOn p && !bit (s.get F.ulpStatus_LANE_LOCK p) l && (s.get F.ulpStatus_RX_STATE p = 0
        || s.get F.ulpStatus_RX_STATE p = 1 || s.get F.ulpStatus_RX_STATE p = 3
        || (s.get F.ulpStatus_RX_STATE p = 5 && s.looped p)) then
      if 64 ≤ (hs.foldl LaneAlign.hunt (s.align p l)).run then
        (s.fresh.setAlign p l { hs.foldl LaneAlign.hunt (s.align p l) with run := 0 }).lockLane p l
      else s.fresh.setAlign p l (hs.foldl LaneAlign.hunt (s.align p l))
    else s.fresh) := rfl

/-- The clause of O58 on LANE_LOCK (ALIGNING at eight lanes is log 64). -/
theorem laneLock_effects {p : Fin 4} {l : Fin 8} {hs : List (BitVec 2)} {s : State} {rx : Nat} {a : LaneAlign}
    (hr : rx = s.get F.ulpStatus_RX_STATE p) (ha : a = hs.foldl LaneAlign.hunt (s.align p l)) :
    (s.portOn p = true → bit (s.get F.ulpStatus_LANE_LOCK p) l = false →
      (rx = 0 ∨ rx = 1 ∨ rx = 3 ∨ (rx = 5 ∧ s.looped p = true)) →
      (64 ≤ a.run → Runs (.laneLock p l hs) s fun u =>
        (∀ k < 8, bit (u.get F.ulpStatus_LANE_LOCK p) k = (bit (s.get F.ulpStatus_LANE_LOCK p) k || k = l.val))
        ∧ u.get F.ulpStatus_RX_STATE p = (if u.get F.ulpStatus_LANE_LOCK p = 0xFF ∧ rx ≠ 5 then 1 else rx)
        ∧ PortBecomes s u p { s.port p with
            lanes := (s.port p).lanes.write 0 l (bits (s.image .ulpLane (8 * p + l)) 0 22)
            aligns := (s.port p).aligns.write .init l { a with run := 0 } }
        ∧ Only [.out, .ports, .image .ulpStatus] s u)
      ∧ (a.run < 64 → Runs (.laneLock p l hs) s fun u =>
        PortBecomes s u p { s.port p with aligns := (s.port p).aligns.write .init l a } ∧ Only [.out, .ports] s u))
    ∧ ((s.portOn p = false ∨ bit (s.get F.ulpStatus_LANE_LOCK p) l = true ∨ rx = 2 ∨ rx = 4
        ∨ (rx = 5 ∧ s.looped p = false)) → Runs (.laneLock p l hs) s fun u => u = s.fresh) := by
  have e := exec_laneLock p l hs s
  rw [← hr, ← ha] at e
  have of : Only [.out] s s.fresh := State.fresh_only (List.Subset.refl _) (Only.refl _ s)
  refine ⟨fun h1 h2 h3 => ?_, fun h => Runs.stands (e.trans (congrArg Host.Outcome.next (if_neg ?_)))⟩
  · rw [if_pos (by simpa [h1, h2, or_assoc] using h3)] at e
    refine ⟨fun hl => ?_, fun hl => ?_⟩
    · rw [if_pos hl] at e
      have ha : PortBecomes s (s.fresh.setAlign p l { a with run := 0 }) p
          { s.port p with aligns := (s.port p).aligns.write .init l { a with run := 0 } } :=
        (PortBecomes.setPort s.fresh p _).behind of (by decide)
      have oa : Only [.out, .ports] s (s.fresh.setAlign p l { a with run := 0 }) :=
        State.setAlign_only (by decide) (of.mono (by decide))
      obtain ⟨k1, k2, k3⟩ := (s.fresh.setAlign p l { a with run := 0 }).lockLane_done p l
      rw [ha.1] at k3
      rw [oa.get (by decide)] at k2
      simp only [oa.get (f := F.ulpStatus_LANE_LOCK) (by decide)] at k1
      refine ⟨_, e, k1, hr ▸ k2, ?_, State.lockLane_only (by decide) (oa.mono (by decide))⟩
      exact ha.trans k3
    · rw [if_neg (Nat.not_le.mpr hl)] at e
      exact ⟨_, e, (PortBecomes.setPort s.fresh p _).behind of (by decide),
        State.setAlign_only (by decide) (of.mono (by decide))⟩
  · rcases h with h | h | h | h | ⟨h, h'⟩
    · simp [h]
    · simp [h]
    · simp [h]
    · simp [h]
    · simp [h, h']

end Sys2Proof
end

section
namespace Sys2Proof
open Machine

/-! ### Lanes that lose their lock (R248, R249) -/

namespace Machine

/-- A direction that was ALIGNING or UP when a lane lost its lock: it is down, and the loss is counted. -/
def State.laneLost (s : State) (p : Nat) : State := (s.rxDown p 0).count F.ulpStatus_LOCK_LOSS p

/-- What a lane's loss raises and reports. -/
def State.laneLossTold (s : State) (p : Nat) : State :=
  ((s.raise (768 + 16 * p + 9)).raise (768 + 16 * p + 11)).report 11 false (768 + 16 * p + 9) p

theorem State.laneLossTold_done (s : State) (p : Nat) : Raised s (s.laneLossTold p) (768 + 16 * p + 9) 0 0
    ∧ Raised s (s.laneLossTold p) (768 + 16 * p + 11) 0 0 ∧ Reported s (s.laneLossTold p) 11
    ∧ Only [.log, .image .logStatus, .out, .hatband] s (s.laneLossTold p) :=
  ⟨(Raised.raise _ _ _).grow ((Grows.raise _ _ _ _ _).trans (Grows.report _ _ _ _ _ _)),
    (Raised.raise _ _ _).grow (Grows.report _ _ _ _ _ _), Reported.report 11 _ _ _ _ rfl,
    State.report_only (by decide) (State.raise_only (by decide) (State.raise_only (by decide) (Only.refl _ s)))⟩

/-- A direction that goes down at the loss of a lane's lock. -/
theorem State.laneLost_done (s : State) {p : Nat} (hp : p < 4) : WentDown s (s.laneLost p) p 0 ∧ SameCount 11 s (s.laneLost p)
    ∧ (s.laneLost p).get F.ulpStatus_LOCK_LOSS p
      = satAdd (s.get F.ulpStatus_LOCK_LOSS p) 1 F.ulpStatus_LOCK_LOSS.width
    ∧ Only downParts s (s.laneLost p) := by
  have hw := s.rxDown_wentDown hp (x := 0) (by decide)
  have hd := s.rxDown_parts p 0
  obtain ⟨k1, -, k3, -⟩ := s.rxDown_keeps hp (x := 0) (by decide)
  unfold State.laneLost
  generalize s.rxDown p 0 = v at *
  have o : Only [.image .ulpStatus] v (v.count F.ulpStatus_LOCK_LOSS p) := State.count_only (by decide) (Only.refl _ v)
  refine ⟨hw.onto o (by decide) (by decide)
      (StatusKept.count (fs := [F.ulpStatus_LOCK_LOSS]) v rfl (by decide) hp) (by decide),
    (k3 11 (by decide) (by decide)).trans (SameCount.of_only o (by decide)), ?_, hd.trans (o.mono (by decide))⟩
  rw [State.get_count, k1.get rfl (by decide)]

end Machine

theorem exec_laneLockLoss {p : Fin 4} {l : Fin 8} {hs : List (BitVec 2)} {s : State} {a : LaneAlign} {lost : Bool}
    (h : (lost, a) = (s.align p l).follow hs) : exec (.laneLockLoss p l hs) s = .next
      (if !bit (s.get F.ulpStatus_LANE_LOCK p) l then s.fresh
      else if !lost then s.fresh.setAlign p l a
      else if s.get F.ulpStatus_RX_STATE p = 1 || s.get F.ulpStatus_RX_STATE p = 2 then
        (s.fresh.laneLost p).laneLossTold p
      else if s.get F.ulpStatus_RX_STATE p = 5 then s.fresh.rxDown p 5
      else s.fresh.put F.ulpStatus_LANE_LOCK p 0) := by
  obtain rfl : lost = ((s.align p l).follow hs).1 := congrArg Prod.fst h
  obtain rfl : a = ((s.align p l).follow hs).2 := congrArg Prod.snd h
  rfl

/-- The clause of O58 on LANE_LOCK_LOSS (log 64: a loss while the lanes hunt is silent). -/
theorem laneLockLoss_effects {p : Fin 4} {l : Fin 8} {hs : List (BitVec 2)} {s : State} {rx : Nat} {a : LaneAlign}
    {lost : Bool} (hr : rx = s.get F.ulpStatus_RX_STATE p) (h : (lost, a) = (s.align p l).follow hs) :
    (bit (s.get F.ulpStatus_LANE_LOCK p) l = false → Runs (.laneLockLoss p l hs) s fun u => u = s.fresh)
    ∧ (bit (s.get F.ulpStatus_LANE_LOCK p) l = true → lost = false → Runs (.laneLockLoss p l hs) s fun u =>
      PortBecomes s u p { s.port p with aligns := (s.port p).aligns.write .init l a } ∧ Only [.out, .ports] s u)
    ∧ (bit (s.get F.ulpStatus_LANE_LOCK p) l = true → lost = true →
      ((rx = 1 ∨ rx = 2) → Runs (.laneLockLoss p l hs) s fun u => WentDown s u p 0 ∧ Only downParts s u
        ∧ u.get F.ulpStatus_LOCK_LOSS p = satAdd (s.get F.ulpStatus_LOCK_LOSS p) 1 F.ulpStatus_LOCK_LOSS.width
        ∧ Raised s u (768 + 16 * p + 9) 0 0 ∧ Raised s u (768 + 16 * p + 11) 0 0 ∧ Reported s u 11)
      ∧ (rx = 5 → Runs (.laneLockLoss p l hs) s fun u => WentDown s u p 5 ∧ Only downParts s u)
      ∧ (rx ≠ 1 → rx ≠ 2 → rx ≠ 5 → Runs (.laneLockLoss p l hs) s fun u => u.get F.ulpStatus_LANE_LOCK p = 0
        ∧ u.get F.ulpStatus_RX_STATE p = rx ∧ Only [.out, .image .ulpStatus] s u)) := by
  have e := exec_laneLockLoss h
  rw [← hr] at e
  have of : Only [.out] s s.fresh := State.fresh_only (List.Subset.refl _) (Only.refl _ s)
  have hf : s.fresh.flag F.ulpStatus_SWAP_PENDING p = s.flag F.ulpStatus_SWAP_PENDING p := rfl
  refine ⟨fun hb => Runs.stands (e.trans (congrArg Host.Outcome.next (if_pos (by simp [hb])))), fun hb hl => ?_,
    fun hb hl => ⟨fun h12 => ?_, fun h5 => ?_, fun h1 h2 h5 => ?_⟩⟩
  · rw [if_neg (by simp [hb]), if_pos (by simp [hl])] at e
    exact ⟨_, e, (PortBecomes.setPort s.fresh p _).behind of (by decide),
      State.setAlign_only (by decide) (of.mono (by decide))⟩
  · rw [if_neg (by simp [hb]), if_neg (by simp [hl]), if_pos (by simpa using h12)] at e
    obtain ⟨k1, k2, k3, k4⟩ := s.fresh.laneLost_done p.isLt
    generalize s.fresh.laneLost p = v at *
    obtain ⟨g1, g2, g3, o⟩ := v.laneLossTold_done p
    exact ⟨_, e, (k1.behind of (by decide) (by decide) hf fun _ _ _ => rfl).onto (fs := []) o (by decide) (by decide)
        (StatusKept.of_only o (by decide)) (by decide), (of.mono (by decide)).trans (k4.trans (o.mono (by decide))),
      (o.get (by decide) p).trans k3, g1, g2,
      Eq.trans g3 (congrArg (satAdd · 1 32) k2)⟩
  · rw [if_neg (by simp [hb]), if_neg (by simp [hl]), if_neg (by simp [h5]), if_pos h5] at e
    exact ⟨_, e, (s.fresh.rxDown_wentDown p.isLt (by decide)).behind of (by decide) (by decide) hf fun _ _ _ => rfl,
      (of.mono (by decide)).trans (s.fresh.rxDown_parts p 5)⟩
  · rw [if_neg (by simp [hb]), if_neg (by simp [hl]), if_neg (by simp [h1, h2]), if_neg h5] at e
    refine ⟨_, e, State.get_put_of_lt _ _ _ (by decide), ?_, State.put_only (by decide) (of.mono (by decide))⟩
    rw [State.get_put_other _ (by decide), hr]
    rfl

/-! ### A transmitter that goes to sleep (R267) -/

theorem exec_linkSleepEnter (p : Fin 4) (s : State) : exec (.linkSleepEnter p) s = .next
    (if s.sleepDue p && decide (2 ≤ (s.port p).notices) && s.superframeNow + 1 ≠ (s.port p).lastFrame then
      (s.fresh.put F.ulpStatus_TX_STATE p (s.get F.ulpControl_TX_POWER p + 1)).setPort p { s.port p with notices := 0 }
    else s.fresh) := rfl

/-- The clause of O58 on LINK_SLEEP_ENTER (log 65: NAP after the second notice). -/
theorem linkSleepEnter_effects (p : Fin 4) (s : State) :
    (s.sleepDue p = true → 2 ≤ (s.port p).notices → (s.port p).lastFrame ≠ s.superframeNow + 1 →
      Runs (.linkSleepEnter p) s fun u => u.get F.ulpStatus_TX_STATE p = s.get F.ulpControl_TX_POWER p + 1
        ∧ PortBecomes s u p { s.port p with notices := 0 } ∧ Only [.out, .image .ulpStatus, .ports] s u)
    ∧ ((s.sleepDue p = false ∨ (s.port p).notices < 2 ∨ (s.port p).lastFrame = s.superframeNow + 1) →
      Runs (.linkSleepEnter p) s fun u => u = s.fresh) := by
  have e := exec_linkSleepEnter p s
  refine ⟨fun h1 h2 h3 => ?_, fun h => Runs.stands (e.trans (congrArg Host.Outcome.next (if_neg ?_)))⟩
  · rw [if_pos (by simp [h1, h2, h3.symm])] at e
    have o : Only [.out, .image .ulpStatus] s (s.fresh.put F.ulpStatus_TX_STATE p (s.get F.ulpControl_TX_POWER p + 1)) :=
      State.put_only (by decide) (State.fresh_only (by decide) (Only.refl _ s))
    have hl : s.get F.ulpControl_TX_POWER p < 2 ^ 2 := bits_lt _ _ 2
    refine ⟨_, e, ?_, (PortBecomes.setPort _ p _).behind o (by decide), State.setPort_only (by decide) (o.mono (by decide))⟩
    rw [State.setPort_get]
    exact State.get_put_of_lt _ _ _ (show _ < 2 ^ 3 by omega)
  · rcases h with h | h | h
    · simp [h]
    · simp [Nat.not_le.mpr h]
    · simp [h]

/-! ### PRBS checkers (R268) -/

theorem exec_prbsSync (p : Fin 4) (l : Fin 8) (s : State) : exec (.prbsSync p l) s = .next
    (if s.checks p l then s.fresh.putFlag F.ulpLane_PRBS_SYNC (8 * p + l) true else s.fresh) := rfl

theorem prbsSync_effects (p : Fin 4) (l : Fin 8) (s : State) :
    (s.checks p l = true → Runs (.prbsSync p l) s fun u => u.flag F.ulpLane_PRBS_SYNC (8 * p + l) = true
      ∧ Only [.out, .image .ulpLane] s u)
    ∧ (s.checks p l = false → Runs (.prbsSync p l) s fun u => u = s.fresh) := by
  have e := exec_prbsSync p l s
  refine ⟨fun h => ⟨_, e.trans (congrArg Host.Outcome.next (if_pos h)), State.flag_putFlag _ _ _ _ (by decide),
    State.putFlag_only (by decide) (State.fresh_only (by decide) (Only.refl _ s))⟩,
    fun h => Runs.stands (e.trans (congrArg Host.Outcome.next (if_neg (by simp [h]))))⟩

theorem exec_prbsCheckError (p : Fin 4) (l : Fin 8) (s : State) : exec (.prbsCheckError p l) s = .next
    (if s.checks p l && s.flag F.ulpLane_PRBS_SYNC (8 * p + l) then
      if (s.port p).prbsSeen.contains l.val then s.fresh.count F.ulpLane_PRBS_ERRORS (8 * p + l)
      else ((s.fresh.count F.ulpLane_PRBS_ERRORS (8 * p + l)).setPort p
        { s.port p with prbsSeen := (s.port p).prbsSeen ++ [l.val] }).raise (768 + 16 * p + 15)
    else s.fresh) := rfl

theorem prbsCheckError_effects (p : Fin 4) (l : Fin 8) (s : State) :
    (s.checks p l = true → s.flag F.ulpLane_PRBS_SYNC (8 * p + l) = true → Runs (.prbsCheckError p l) s fun u =>
      u.get F.ulpLane_PRBS_ERRORS (8 * p + l) = satAdd (s.get F.ulpLane_PRBS_ERRORS (8 * p + l)) 1 F.ulpLane_PRBS_ERRORS.width
      ∧ (l.val ∉ (s.port p).prbsSeen → Raised s u (768 + 16 * p + 15) 0 0
        ∧ PortBecomes s u p { s.port p with prbsSeen := (s.port p).prbsSeen ++ [l.val] })
      ∧ (l.val ∈ (s.port p).prbsSeen → u.ports = s.ports ∧ u.hatband = s.hatband)
      ∧ Only [.out, .hatband, .ports, .image .ulpLane] s u)
    ∧ ((s.checks p l = false ∨ s.flag F.ulpLane_PRBS_SYNC (8 * p + l) = false) → Runs (.prbsCheckError p l) s fun u =>
      u = s.fresh) := by
  have e := exec_prbsCheckError p l s
  refine ⟨fun h1 h2 => ?_, fun h => Runs.stands (e.trans (congrArg Host.Outcome.next (if_neg ?_)))⟩
  · rw [if_pos (by simp [h1, h2])] at e
    have hc : (s.fresh.count F.ulpLane_PRBS_ERRORS (8 * p + l)).get F.ulpLane_PRBS_ERRORS (8 * p + l)
        = satAdd (s.get F.ulpLane_PRBS_ERRORS (8 * p + l)) 1 F.ulpLane_PRBS_ERRORS.width := State.get_count _ _ _ _
    have o : Only [.out, .image .ulpLane] s (s.fresh.count F.ulpLane_PRBS_ERRORS (8 * p + l)) :=
      State.count_only (by decide) (State.fresh_only (by decide) (Only.refl _ s))
    by_cases hm : l.val ∈ (s.port p).prbsSeen
    · rw [if_pos (List.contains_iff_mem.mpr hm)] at e
      exact ⟨_, e, hc, fun hn => absurd hm hn, fun _ => ⟨rfl, rfl⟩, o.mono (by decide)⟩
    · rw [if_neg (mt List.contains_iff_mem.mp hm)] at e
      generalize s.fresh.count F.ulpLane_PRBS_ERRORS (8 * p + l) = v at *
      have or : Only [.out, .hatband] (v.setPort p { s.port p with prbsSeen := (s.port p).prbsSeen ++ [l.val] })
          ((v.setPort p { s.port p with prbsSeen := (s.port p).prbsSeen ++ [l.val] }).raise (768 + 16 * p + 15)) :=
        State.raise_only (by decide) (Only.refl _ _)
      refine ⟨_, e, ?_, fun _ => ⟨Raised.raise _ _ _, ?_⟩, fun h => absurd h hm,
        (State.setPort_only (by decide) (o.mono (by decide))).trans (or.mono (by decide))⟩
      · rw [or.get (by decide), State.setPort_get, hc]
      · exact ((PortBecomes.setPort v p _).behind o (by decide)).onto or (by decide)
  · rcases h with h | h
    · simp [h]
    · simp [h]

/-! ### The end of a commit (R265, R266) -/

/-- The clause of O58 on SWAP_TIMEOUT. -/
theorem swapTimeout_effects {p : Fin 4} {s : State} {c : Nat} (hc : (s.port p).commitAt = some c) :
    (c + 1024 ≤ s.superframeNow → s.flag F.ulpStatus_SWAP_PENDING p = true → Runs (.swapTimeout p) s fun u =>
      u.flag F.ulpStatus_SWAP_PENDING p = false ∧ u.flag F.ulpStatus_SWAP_FAILED p = true
      ∧ u.get F.ulpStatus_ACTIVE_BANK p = s.get F.ulpStatus_ACTIVE_BANK p
      ∧ PortBecomes s u p { s.port p with commitAt := none, proposal := 0, swapAt := none }
      ∧ AllEnded s u (.tableCommit p) .timeout []
      ∧ Only [.image .ulpStatus, .ports, .mailboxes, .log, .image .logStatus, .out, .hatband, .host] s u)
    ∧ ((s.superframeNow < c + 1024 ∨ s.flag F.ulpStatus_SWAP_PENDING p = false) →
      Runs (.swapTimeout p) s fun u => u = s.fresh) := by
  have e : exec (.swapTimeout p) s = .next (if c + 1024 ≤ s.superframeNow then s.fresh.failSwap p else s.fresh) := by
    have e0 : exec (.swapTimeout p) s = .next (match (s.port p).commitAt with
        | some c => if c + 1024 ≤ s.superframeNow then s.fresh.failSwap p else s.fresh
        | none => s.fresh) := rfl
    rw [e0, hc]
  have of : Only [.out] s s.fresh := State.fresh_only (List.Subset.refl _) (Only.refl _ s)
  refine ⟨fun h1 h2 => ?_, fun h => Runs.stands (e.trans (congrArg Host.Outcome.next ?_))⟩
  · obtain ⟨k1, k2, k3, k4⟩ := State.failSwap_fails (s := s.fresh) h2
    obtain ⟨k5, -⟩ := s.fresh.failSwap_keeps p.isLt
    exact ⟨_, e.trans (congrArg Host.Outcome.next (if_pos h1)), k1, k2, k5.get rfl (by decide), k3.behind of (by decide),
      k4.behind of (by decide), State.failSwap_only (List.Subset.refl _) (of.mono (by decide))⟩
  · rcases h with h | h
    · exact if_neg (Nat.not_le.mpr h)
    · rw [State.failSwap_idle (s := s.fresh) h, ite_self]

namespace Machine

/-- MISMATCH sets, and where it was not set it is raised and reported (R266). -/
theorem State.setMismatch_done (s : State) {p : Nat} (hp : p < 4) : (s.setMismatch p).flag F.ulpStatus_MISMATCH p = true
    ∧ (s.flag F.ulpStatus_MISMATCH p = false → Raised s (s.setMismatch p) (768 + 16 * p + 12) 0 0
      ∧ Reported s (s.setMismatch p) 12)
    ∧ StatusKept [F.ulpStatus_MISMATCH] p s (s.setMismatch p) ∧ Grows s (s.setMismatch p) := by
  unfold State.setMismatch
  split
  · next h => exact ⟨h, fun hf => absurd (h.symm.trans hf) (by decide), StatusKept.refl _ _ _, Grows.refl s⟩
  · have o : Only [.out, .hatband, .log, .image .logStatus] (s.putFlag F.ulpStatus_MISMATCH p true)
        (((s.putFlag F.ulpStatus_MISMATCH p true).raise (768 + 16 * p + 12)).report 12 false (768 + 16 * p + 12) p) :=
      State.report_only (by decide) (State.raise_only (by decide) (Only.refl _ _))
    refine ⟨(o.flag (by decide) p).trans (State.flag_putFlag _ _ _ _ (by decide)), fun _ =>
      ⟨(Raised.raise _ _ _).grow (Grows.report _ _ _ _ _ _), Reported.report 12 _ _ _ _ rfl⟩,
      (StatusKept.putFlag s true rfl (by decide) hp).trans (StatusKept.of_only o (by decide)), ?_⟩
    exact (Grows.put s F.ulpStatus_MISMATCH p 1).trans ((Grows.raise _ _ _ _ _).trans (Grows.report _ _ _ _ _ _))

/-- The bank in force has changed, and MISMATCH is set where the partner's shadow table is another. -/
def State.bankSwapped (s : State) (p : Nat) : State :=
  if decide ((s.port p).remoteShadow ≠ s.tableHash (s.shadowTable p)) = true then
    (s.put F.ulpStatus_ACTIVE_BANK p (1 - s.get F.ulpStatus_ACTIVE_BANK p)).setMismatch p
  else s.put F.ulpStatus_ACTIVE_BANK p (1 - s.get F.ulpStatus_ACTIVE_BANK p)

/-- The swap is told, and the commit is over but for the commands that wait. -/
def State.swapTold (s : State) (p : Nat) : State :=
  let t := (s.putFlag F.ulpStatus_SWAP_PENDING p false).raise (768 + 16 * p + 13)
  t.setPort p { t.port p with commitAt := none, proposal := 0, partnerProposal := 0 }

theorem State.bankSwapped_only (s : State) (p : Nat) :
    Only [.image .ulpStatus, .log, .image .logStatus, .out, .hatband] s (s.bankSwapped p) := by
  have o : Only [.image .ulpStatus, .log, .image .logStatus, .out, .hatband] s
      (s.put F.ulpStatus_ACTIVE_BANK p (1 - s.get F.ulpStatus_ACTIVE_BANK p)) :=
    State.put_only (by decide) (Only.refl _ s)
  unfold State.bankSwapped
  exact Only.ite (State.setMismatch_only (by decide) o) o

theorem State.bankSwapped_done (s : State) {p : Nat} (hp : p < 4) :
    (s.bankSwapped p).get F.ulpStatus_ACTIVE_BANK p = 1 - s.get F.ulpStatus_ACTIVE_BANK p
    ∧ ((s.bankSwapped p).flag F.ulpStatus_MISMATCH p = true ↔ s.flag F.ulpStatus_MISMATCH p = true
      ∨ (s.port p).remoteShadow ≠ s.tableHash (s.shadowTable p))
    ∧ ((s.port p).remoteShadow ≠ s.tableHash (s.shadowTable p) → s.flag F.ulpStatus_MISMATCH p = false →
      Raised s (s.bankSwapped p) (768 + 16 * p + 12) 0 0 ∧ Reported s (s.bankSwapped p) 12) := by
  have hb : (s.put F.ulpStatus_ACTIVE_BANK p (1 - s.get F.ulpStatus_ACTIVE_BANK p)).get F.ulpStatus_ACTIVE_BANK p
      = 1 - s.get F.ulpStatus_ACTIVE_BANK p := State.get_put_of_lt _ _ _ (show _ < 2 ^ 1 by omega)
  have hm : (s.put F.ulpStatus_ACTIVE_BANK p (1 - s.get F.ulpStatus_ACTIVE_BANK p)).flag F.ulpStatus_MISMATCH p
      = s.flag F.ulpStatus_MISMATCH p := State.flag_put_other _ (by decide)
  have hl : (s.put F.ulpStatus_ACTIVE_BANK p (1 - s.get F.ulpStatus_ACTIVE_BANK p)).log = s.log := rfl
  unfold State.bankSwapped
  generalize s.put F.ulpStatus_ACTIVE_BANK p (1 - s.get F.ulpStatus_ACTIVE_BANK p) = v at *
  split
  · next hd =>
    have h := of_decide_eq_true hd
    obtain ⟨k1, k2, k3, -⟩ := v.setMismatch_done hp
    refine ⟨(k3.get rfl (by decide)).trans hb, iff_of_true k1 (.inr h), fun _ hf => ?_⟩
    obtain ⟨r1, r2⟩ := k2 (hm.trans hf)
    exact ⟨r1, by rw [Reported, ← hl]; exact r2⟩
  · next hd =>
    have h := mt decide_eq_true hd
    exact ⟨hb, by rw [hm]; exact (or_iff_left h).symm, fun h' => absurd h' h⟩

theorem State.swapTold_done (s : State) (p : Nat) : (s.swapTold p).flag F.ulpStatus_SWAP_PENDING p = false
    ∧ Raised s (s.swapTold p) (768 + 16 * p + 13) 0 0 ∧ Grows s (s.swapTold p)
    ∧ (s.swapTold p).get F.ulpStatus_ACTIVE_BANK p = s.get F.ulpStatus_ACTIVE_BANK p
    ∧ (s.swapTold p).get F.ulpStatus_MISMATCH p = s.get F.ulpStatus_MISMATCH p
    ∧ PortBecomes s (s.swapTold p) p { s.port p with commitAt := none, proposal := 0, partnerProposal := 0 }
    ∧ Only [.image .ulpStatus, .out, .hatband, .ports] s (s.swapTold p) := by
  have o : Only [.image .ulpStatus, .out, .hatband] s
      ((s.putFlag F.ulpStatus_SWAP_PENDING p false).raise (768 + 16 * p + 13)) :=
    State.raise_only (by decide) (State.putFlag_only (by decide) (Only.refl _ s))
  unfold State.swapTold
  refine ⟨?_, Raised.raise (s := s) (t := s.putFlag F.ulpStatus_SWAP_PENDING p false) _ 0 0,
    (Grows.put s F.ulpStatus_SWAP_PENDING p 0).trans (Grows.raise _ _ _ _ _), ?_, ?_,
    (PortBecomes.setPort _ p _).behind o (by decide), State.setPort_only (by decide) (o.mono (by decide))⟩
  · exact State.flag_putFlag s F.ulpStatus_SWAP_PENDING p false (by decide)
  · exact State.get_putFlag_other s (f := F.ulpStatus_SWAP_PENDING) (by decide)
  · exact State.get_putFlag_other s (f := F.ulpStatus_SWAP_PENDING) (by decide)

/-- How a swap is made: the bank, what is told, and the commands that waited. -/
theorem State.swapTables_split (s : State) (p k : Nat) : s.swapTables p k =
    ((s.bankSwapped p).swapTold p).finishAll (fun w => w = .tableCommit p) .ok
      (leBytes k 8 ++ leBytes (((s.bankSwapped p).swapTold p).get F.ulpStatus_MISMATCH p) 1 ++ zeros 3) := rfl

end Machine

/-- The clause of O58 on SLOT_SWAP. -/
theorem slotSwap_effects {p : Fin 4} {s : State} {k : Nat} (hk : (s.port p).swapAt = some k) :
    (s.flag F.ulpStatus_SWAP_PENDING p = true → k ≤ s.superframeNow → (s.port p).partnerProposalAt + 1 ≤ k →
      Runs (.slotSwap p) s fun u => u.get F.ulpStatus_ACTIVE_BANK p = 1 - s.get F.ulpStatus_ACTIVE_BANK p
        ∧ u.flag F.ulpStatus_SWAP_PENDING p = false ∧ Raised s u (768 + 16 * p + 13) 0 0
        ∧ (u.flag F.ulpStatus_MISMATCH p = true ↔ s.flag F.ulpStatus_MISMATCH p = true
          ∨ (s.port p).remoteShadow ≠ s.tableHash (s.shadowTable p))
        ∧ ((s.port p).remoteShadow ≠ s.tableHash (s.shadowTable p) → s.flag F.ulpStatus_MISMATCH p = false →
          Raised s u (768 + 16 * p + 12) 0 0 ∧ Reported s u 12)
        ∧ PortBecomes s u p { s.port p with commitAt := none, proposal := 0, partnerProposal := 0 }
        ∧ AllEnded s u (.tableCommit p) .ok (leBytes k 8 ++ leBytes (u.get F.ulpStatus_MISMATCH p) 1 ++ zeros 3)
        ∧ Only [.image .ulpStatus, .log, .image .logStatus, .out, .hatband, .ports, .mailboxes, .host] s u)
    ∧ ((s.flag F.ulpStatus_SWAP_PENDING p = false ∨ s.superframeNow < k ∨ k < (s.port p).partnerProposalAt + 1) →
      Runs (.slotSwap p) s fun u => u = s.fresh) := by
  have e : exec (.slotSwap p) s = .next (if s.flag F.ulpStatus_SWAP_PENDING p && decide (k ≤ s.superframeNow)
      && decide ((s.port p).partnerProposalAt + 1 ≤ k) then s.fresh.swapTables p k else s.fresh) := by
    have e0 : exec (.slotSwap p) s = .next (match (s.port p).swapAt with
        | some k => if s.flag F.ulpStatus_SWAP_PENDING p && decide (k ≤ s.superframeNow)
            && decide ((s.port p).partnerProposalAt + 1 ≤ k) then s.fresh.swapTables p k else s.fresh
        | none => s.fresh) := rfl
    rw [e0, hk]
  have of : Only [.out] s s.fresh := State.fresh_only (List.Subset.refl _) (Only.refl _ s)
  refine ⟨fun h1 h2 h3 => ?_, fun h => Runs.stands (e.trans (congrArg Host.Outcome.next (if_neg ?_)))⟩
  · rw [if_pos (by simp only [h1, h2, h3]; rfl), State.swapTables_split] at e
    obtain ⟨b1, b2, b3⟩ := s.fresh.bankSwapped_done p.isLt
    have ob := s.fresh.bankSwapped_only p
    generalize s.fresh.bankSwapped p = v at *
    obtain ⟨t1, t2, t3, t4, t5, t6, ot⟩ := v.swapTold_done p
    generalize v.swapTold p = w at *
    have ou := State.finishAll_only (p := fun w => w = .tableCommit p) (st := .ok)
      (payload := leBytes k 8 ++ leBytes (w.get F.ulpStatus_MISMATCH p) 1 ++ zeros 3) (List.Subset.refl _) (Only.refl _ w)
    have hg := Grows.finishAll w (fun w => w = .tableCommit p) .ok
      (leBytes k 8 ++ leBytes (w.get F.ulpStatus_MISMATCH p) 1 ++ zeros 3)
    have oa : Only [.image .ulpStatus, .log, .image .logStatus, .out, .hatband, .ports] s w :=
      (of.mono (by decide)).trans ((ob.mono (by decide)).trans (ot.mono (by decide)))
    have he := AllEnded.finishAll oa (by decide) (.tableCommit p) .ok
      (leBytes k 8 ++ leBytes (w.get F.ulpStatus_MISMATCH p) 1 ++ zeros 3)
    have hc : SameCount 12 w (w.finishAll (fun w => w = .tableCommit p) .ok
      (leBytes k 8 ++ leBytes (w.get F.ulpStatus_MISMATCH p) 1 ++ zeros 3)) := SameCount.finishAll (by decide) _ _ _ _
    generalize hu : w.finishAll (fun w => w = .tableCommit p) .ok
      (leBytes k 8 ++ leBytes (w.get F.ulpStatus_MISMATCH p) 1 ++ zeros 3) = u at *
    have hm : u.get F.ulpStatus_MISMATCH p = v.get F.ulpStatus_MISMATCH p := (ou.get (by decide) p).trans t5
    have hmf : u.flag F.ulpStatus_MISMATCH p = v.flag F.ulpStatus_MISMATCH p := by
      unfold State.flag
      rw [hm]
    rw [show w.get F.ulpStatus_MISMATCH p = u.get F.ulpStatus_MISMATCH p from t5.trans hm.symm] at he
    refine ⟨u, e, (ou.get (by decide) p).trans (t4.trans b1), (ou.flag (by decide) p).trans t1, t2.grow hg, hmf ▸ b2,
      fun hd hf => ?_, ?_, he, (oa.mono (by decide)).trans (ou.mono (by decide))⟩
    · obtain ⟨r1, r2⟩ := b3 hd hf
      exact ⟨r1.grow (t3.trans hg), (r2.only ot (by decide)).same hc⟩
    · have hp : PortBecomes s w p { v.port p with commitAt := none, proposal := 0, partnerProposal := 0 } :=
        t6.behind ((of.mono (by decide)).trans ob) (by decide)
      rw [port_of_only ob (by decide)] at hp
      exact hp.onto ou (by decide)
  · rcases h with h | h | h
    · simp [h]
    · simp [Nat.not_le.mpr h]
    · simp [Nat.lt_succ_iff.mp h]

end Sys2Proof
end

section
namespace Sys2Proof
open Machine

/-! ### Slots that are sent (R247, R251, R269) -/

/-- Of the ports only `p` has changed, and of it only the scramblers and what injection still flips. -/
def PortSends (s u : State) (p : Nat) : Prop :=
  (∃ sc i, u.port p = { s.port p with scrambled := sc, injected := i }) ∧ ∀ q, q ≠ p → u.port q = s.port q

namespace PortSends

variable {s u v : State} {p : Nat}

theorem of_only {ps : List Part} (o : Only ps s u) (h : Part.ports ∉ ps) : PortSends s u p :=
  ⟨⟨(s.port p).scrambled, (s.port p).injected, port_of_only o h p⟩, fun q _ => port_of_only o h q⟩

theorem refl (s : State) (p : Nat) : PortSends s s p := of_only (ps := []) (Only.refl _ s) (by decide)

theorem trans (h : PortSends s u p) (g : PortSends u v p) : PortSends s v p := by
  obtain ⟨⟨a, b, h1⟩, h2⟩ := h
  obtain ⟨⟨c, d, g1⟩, g2⟩ := g
  refine ⟨⟨c, d, ?_⟩, fun q hq => (g2 q hq).trans (h2 q hq)⟩
  rw [g1, h1]

theorem setPort (s : State) (p : Nat) (sc : SMap Nat) (i : SMap Nat) :
    PortSends s (s.setPort p { s.port p with scrambled := sc, injected := i }) p :=
  ⟨⟨sc, i, State.port_setPort _ _ _⟩, fun _ hq => State.port_setPort_ne _ _ hq⟩

end PortSends

namespace Machine

/-- What a lane is to flip once, and the state behind it. -/
def State.injectOnce (s : State) (p l : Nat) : Nat × State :=
  if min 64 ((s.port p).injected.read 0 l) = 0 then (0, s)
  else (s.setPort p { s.port p with injected := (s.port p).injected.drop l }).flips (min 64 ((s.port p).injected.read 0 l))

theorem State.injectOnce_sends (s : State) (p l : Nat) : PortSends s (s.injectOnce p l).2 p := by
  unfold State.injectOnce
  split
  · exact PortSends.refl s p
  · exact (PortSends.setPort s p (s.port p).scrambled _).trans
      (PortSends.of_only (ps := [.free]) (State.flips_only (by decide) (Only.refl _ _)) (by decide))

theorem State.injectLane_split (s : State) (p l : Nat) : s.injectLane p l =
    if (s.port p).injecting.contains l then
      (if (s.injectOnce p l).2.free.1.getLsbD 0 then (s.injectOnce p l).1 ^^^ ((s.injectOnce p l).2.free.2.flips 1).1
        else (s.injectOnce p l).1, ((s.injectOnce p l).2.free.2.flips 1).2)
    else s.injectOnce p l := rfl

theorem State.injectLane_sends (s : State) (p l : Nat) : PortSends s (s.injectLane p l).2 p := by
  have h := s.injectOnce_sends p l
  rw [State.injectLane_split]
  split
  · exact h.trans (PortSends.of_only (ps := [.free])
      (State.flips_only (n := 1) (by decide) (State.free_only (by decide) (Only.refl _ _))) (by decide))
  · exact h

theorem State.sendBlock_sends (s : State) (p h f l : Nat) : PortSends s (s.sendBlock p h f l).2 p := by
  unfold State.sendBlock
  generalize scrambleBlock ((s.port p).scrambled.read 0 l) (bits f (64 * l) 64) = r
  obtain ⟨y, reg⟩ := r
  exact (PortSends.setPort s p ((s.port p).scrambled.write 0 l reg) (s.port p).injected).trans (State.injectLane_sends _ p l)

theorem State.sendBlocks_sends (p h f : Nat) : ∀ (ls : List Nat) (s : State), PortSends s (s.sendBlocks p h f ls).2 p
    ∧ (s.sendBlocks p h f ls).1.length = ls.length
  | [], s => ⟨PortSends.refl s p, rfl⟩
  | l :: ls, s => by
    obtain ⟨k1, k2⟩ := State.sendBlocks_sends p h f ls (s.sendBlock p h f l).2
    exact ⟨(s.sendBlock_sends p h f l).trans k1, congrArg Nat.succ k2⟩

theorem State.sendSlot_split (s : State) (p h f : Nat) : s.sendSlot p h f = (s.sendBlocks p h f (List.range 8)).2.emit
    (if s.looped p then .ulpLoop p h f (s.sendBlocks p h f (List.range 8)).1
      else .ulpSlot p h f (s.sendBlocks p h f (List.range 8)).1) := by
  unfold State.sendSlot
  generalize s.sendBlocks p h f (List.range 8) = r
  rfl

/-- A slot that is sent leaves the block, and its port but for the scramblers and what was to be injected (R247, R269). -/
theorem State.sendSlot_done (s : State) (p h f : Nat) : SlotSent s (s.sendSlot p h f) p h f
    ∧ PortSends s (s.sendSlot p h f) p ∧ Only [.ports, .free, .out] s (s.sendSlot p h f) := by
  obtain ⟨k1, k2⟩ := State.sendBlocks_sends p h f (List.range 8) s
  refine ⟨⟨_, k2, ?_⟩, ?_, State.sendSlot_only (List.Subset.refl _) (Only.refl _ s)⟩
  · rw [State.sendSlot_split]
    exact List.mem_append_right _ (List.mem_singleton_self _)
  · rw [State.sendSlot_split]
    exact k1.trans (PortSends.of_only (ps := [.out]) (State.emit_only (by decide) (Only.refl _ _)) (by decide))

/-- Whether a port is looped rests on its control and lane records alone. -/
theorem State.looped_of_only {ps : List Part} {s u : State} (o : Only ps s u) (h1 : Part.image .ulpControl ∉ ps)
    (h2 : Part.image .ulpLane ∉ ps) (p : Nat) : u.looped p = s.looped p := by
  have hl : (List.range 8).all (fun l => u.get F.ulpLane_PRBS (8 * p + l) = 0)
      = (List.range 8).all fun l => s.get F.ulpLane_PRBS (8 * p + l) = 0 := by
    refine congrArg (List.all (List.range 8)) (funext fun l => ?_)
    rw [o.get h2]
  unfold State.looped
  rw [o.flag h1, o.get h1, hl]

end Machine

/-- Behind changes after which the port is looped as before. -/
theorem SlotSent.behind {ps : List Part} {s v u : State} {p h f : Nat} (k : SlotSent v u p h f) (o : Only ps s v)
    (h1 : Part.image .ulpControl ∉ ps) (h2 : Part.image .ulpLane ∉ ps) : SlotSent s u p h f := by
  unfold SlotSent at k ⊢
  rw [← State.looped_of_only o h1 h2]
  exact k

theorem SlotSent.onto {ps : List Part} {s v u : State} {p h f : Nat} (k : SlotSent s v p h f) (o : Only ps v u)
    (h1 : Part.out ∉ ps) : SlotSent s u p h f := by
  obtain ⟨b, k1, k2⟩ := k
  exact ⟨b, k1, (o .out h1).symm ▸ k2⟩

/-! ### Superframes (R251) -/

namespace Machine

theorem bits_low_add {a b n : Nat} (ha : a < 2 ^ n) : bits (a + b <<< n) 0 n = a :=
  (bits_add_shiftLeft (Nat.zero_add n).le).trans (bits_zero_of_lt ha)

/-- A control frame carries its check, its type and the number of its superframe. -/
theorem State.controlFrame_bits (s : State) (p n time : Nat) : checkGood (s.controlFrame p n time) = true
    ∧ bits (s.controlFrame p n time) 0 8 = 0xC0 ∧ bits (s.controlFrame p n time) 8 64 = n % 2 ^ 64 := by
  unfold State.controlFrame
  refine ⟨checkGood_withCheck _, ?_, ?_⟩
  · rw [bits_withCheck (by decide), bits_add_shiftLeft (by decide), bits_add_shiftLeft (by decide),
      bits_add_shiftLeft (by decide), bits_add_shiftLeft (by decide), bits_add_shiftLeft (by decide),
      bits_add_shiftLeft (by decide), bits_add_shiftLeft (by decide), bits_add_shiftLeft (by decide),
      bits_add_shiftLeft (by decide)]
    exact bits_low_add (by decide)
  · rw [bits_withCheck (by decide), bits_add_shiftLeft (by decide), bits_add_shiftLeft (by decide),
      bits_add_shiftLeft (by decide), bits_add_shiftLeft (by decide), bits_add_shiftLeft (by decide),
      bits_add_shiftLeft (by decide), bits_add_shiftLeft (by decide), bits_add_shiftLeft (by decide),
      bits_add_shiftLeft (by decide)]
    exact (bits_shiftLeft_add (by decide) 0 64).trans (bits_zero_of_lt (Nat.mod_lt _ (by decide)))

theorem Port.settleSwap_keeps (x : Port) : ∃ k, x.settleSwap = { x with swapAt := k } := by
  unfold Port.settleSwap
  split
  · exact ⟨_, rfl⟩
  · exact ⟨x.swapAt, rfl⟩

/-- The port before its control frame of superframe `n` is sent. -/
def Port.framed (x : Port) (n : Nat) : Port :=
  ({ x with superframe := n, lastFrame := n + 1
            proposal := if x.commitAt.isSome && x.proposal = 0 then n + 4 else x.proposal } : Port).settleSwap

/-- The status and the clock before the control frame. -/
def State.frameStatus (s : State) (p n : Nat) : State :=
  (s.clearMismatch p n).put F.ulpStatus_SUPERFRAME p (n % 2 ^ 32)

def State.frameClock (s : State) (p : Nat) : State :=
  s.setClock { s.clock with
    frameWall := s.clock.frameWall.write (0, 0) p
      (s.wall * 2 ^ 32 + s.clock.wallFrac.toNat, (s.clock.frameWall.read (0, 0) p).1) }

def State.superframeSent (s : State) (p n prev : Nat) : State :=
  (s.setPort p ((s.port p).framed n)).sendSlot p controlHeader
    ((s.setPort p ((s.port p).framed n)).controlFrame p n ((s.setPort p ((s.port p).framed n)).timeField prev))

theorem State.startSuperframe_split (s : State) (p n : Nat) : ∃ prev v,
    v = ((s.frameStatus p n).frameClock p).superframeSent p n prev ∧ s.startSuperframe p n = v.setPort p { v.port p with
      nakFrame := false, notices := if v.sleepDue p then (v.port p).notices + 1 else 0 } := ⟨_, _, rfl, rfl⟩

theorem State.clearMismatch_keeps (s : State) (p n : Nat) :
    (∃ m, (s.clearMismatch p n).port p = { s.port p with mismatchClearAt := m })
      ∧ ∀ q, q ≠ p → (s.clearMismatch p n).port q = s.port q := by
  unfold State.clearMismatch
  split
  · next x h =>
    split
    · exact ⟨⟨none, State.port_setPort s p _⟩, fun q hq => State.port_setPort_ne s _ hq⟩
    · exact ⟨⟨_, rfl⟩, fun _ _ => rfl⟩
  · exact ⟨⟨_, rfl⟩, fun _ _ => rfl⟩

theorem State.frameStatus_done (s : State) (p n : Nat) :
    (s.frameStatus p n).get F.ulpStatus_SUPERFRAME p = n % 2 ^ 32
      ∧ (∃ m, (s.frameStatus p n).port p = { s.port p with mismatchClearAt := m })
      ∧ (∀ q, q ≠ p → (s.frameStatus p n).port q = s.port q)
      ∧ Only [.image .ulpStatus, .ports] s (s.frameStatus p n) := by
  obtain ⟨⟨m, k1⟩, k2⟩ := s.clearMismatch_keeps p n
  have o : Only [.image .ulpStatus] (s.clearMismatch p n) (s.frameStatus p n) :=
    State.put_only (by decide) (Only.refl _ _)
  exact ⟨State.get_put_of_lt _ _ _ (Nat.mod_lt _ (by decide)), ⟨m, (port_of_only o (by decide) p).trans k1⟩,
    fun q hq => (port_of_only o (by decide) q).trans (k2 q hq),
    (State.clearMismatch_only (by decide) (Only.refl _ s)).trans (o.mono (by decide))⟩

theorem Port.framed_keeps (x : Port) (n : Nat) : ∃ k, x.framed n = { x with
    superframe := n, lastFrame := n + 1
    proposal := if x.commitAt.isSome && x.proposal = 0 then n + 4 else x.proposal, swapAt := k } := Port.settleSwap_keeps _

theorem State.superframeSent_done (s : State) (p n prev : Nat) :
    (∃ k sc i, (s.superframeSent p n prev).port p = { s.port p with
      superframe := n, lastFrame := n + 1
      proposal := if (s.port p).commitAt.isSome && (s.port p).proposal = 0 then n + 4 else (s.port p).proposal
      swapAt := k, scrambled := sc, injected := i })
    ∧ (∃ f, SlotSent s (s.superframeSent p n prev) p controlHeader f ∧ checkGood f = true ∧ bits f 0 8 = 0xC0
      ∧ bits f 8 64 = n % 2 ^ 64)
    ∧ (∀ q, q ≠ p → (s.superframeSent p n prev).port q = s.port q)
    ∧ Only [.ports, .free, .out] s (s.superframeSent p n prev) := by
  obtain ⟨k, hk⟩ := (s.port p).framed_keeps n
  have o : Only [.ports] s (s.setPort p ((s.port p).framed n)) := State.setPort_only (by decide) (Only.refl _ s)
  have hp := PortBecomes.setPort s p ((s.port p).framed n)
  unfold State.superframeSent
  generalize s.setPort p ((s.port p).framed n) = v at *
  obtain ⟨h1, ⟨⟨sc, i, h2⟩, h3⟩, h4⟩ := v.sendSlot_done p controlHeader (v.controlFrame p n (v.timeField prev))
  rw [hp.1, hk] at h2
  exact ⟨⟨k, sc, i, h2⟩, ⟨_, h1.behind o (by decide) (by decide), v.controlFrame_bits p n _⟩,
    fun q hq => (h3 q hq).trans (hp.2 q hq), (o.mono (by decide)).trans h4⟩

theorem State.startSuperframe_done (s : State) (p n : Nat) :
    (s.startSuperframe p n).get F.ulpStatus_SUPERFRAME p = n % 2 ^ 32
      ∧ ((s.startSuperframe p n).port p).superframe = n ∧ ((s.startSuperframe p n).port p).lastFrame = n + 1
      ∧ ((s.startSuperframe p n).port p).nakFrame = false
      ∧ (∃ f, SlotSent s (s.startSuperframe p n) p controlHeader f ∧ checkGood f = true ∧ bits f 0 8 = 0xC0
        ∧ bits f 8 64 = n % 2 ^ 64)
      ∧ ((s.port p).commitAt ≠ none → (s.port p).proposal = 0 → ((s.startSuperframe p n).port p).proposal = n + 4)
      ∧ ∀ q, q ≠ p → (s.startSuperframe p n).port q = s.port q := by
  obtain ⟨prev, v, hv, hu⟩ := s.startSuperframe_split p n
  obtain ⟨a1, ⟨m, a2⟩, a3, a4⟩ := s.frameStatus_done p n
  generalize s.frameStatus p n = a at *
  have b4 : Only [.clock] a (a.frameClock p) :=
    State.setClock_only (by decide) (.inr rfl) (.inr rfl) (.inr ⟨rfl, rfl⟩) (Only.refl _ a)
  generalize a.frameClock p = b at *
  obtain ⟨⟨k, sc, i, c1⟩, ⟨f, c2, c3⟩, c4, c5⟩ := b.superframeSent_done p n prev
  rw [← hv] at c1 c2 c4 c5
  rw [port_of_only b4 (by decide), a2] at c1
  have o : Only [.ports] v (s.startSuperframe p n) := by
    rw [hu]
    exact State.setPort_only (by decide) (Only.refl _ v)
  obtain ⟨d1, d2⟩ : PortBecomes v (s.startSuperframe p n) p { v.port p with
      nakFrame := false, notices := if v.sleepDue p then (v.port p).notices + 1 else 0 } := by
    rw [hu]
    exact PortBecomes.setPort v p _
  generalize s.startSuperframe p n = u at *
  rw [c1] at d1
  refine ⟨(o.get (by decide) p).trans ((c5.get (by decide) p).trans ((b4.get (by decide) p).trans a1)),
    by rw [d1], by rw [d1], by rw [d1], ⟨f, ?_, c3⟩, fun hc hz => ?_, fun q hq => ?_⟩
  · have oc : Only [.clock, .image .ulpStatus, .ports] s b := (a4.mono (by decide)).trans (b4.mono (by decide))
    exact (c2.behind oc (by decide) (by decide)).onto o (by decide)
  · rw [d1]
    exact if_pos (by simp [Option.isSome_iff_ne_none.mpr hc, hz])
  · exact (d2 q hq).trans ((c4 q hq).trans ((port_of_only b4 (by decide) q).trans (a3 q hq)))

end Machine

theorem exec_superframeStart (p : Fin 4) (s : State) : exec (.superframeStart p) s = .next
    (if s.sends p && (s.port p).lastFrame ≠ s.superframeNow + 1 then s.fresh.startSuperframe p s.superframeNow
    else s.fresh) := rfl

/-- The clause of O58 on SUPERFRAME_START. -/
theorem superframeStart_effects {p : Fin 4} {s : State} {n : Nat} (hn : n = s.superframeNow) :
    (s.sends p = true → (s.port p).lastFrame ≠ n + 1 → Runs (.superframeStart p) s fun u =>
      u.get F.ulpStatus_SUPERFRAME p = n % 2 ^ 32 ∧ (u.port p).superframe = n ∧ (u.port p).lastFrame = n + 1
      ∧ (u.port p).nakFrame = false
      ∧ (∃ f, SlotSent s u p controlHeader f ∧ checkGood f = true ∧ bits f 0 8 = 0xC0 ∧ bits f 8 64 = n % 2 ^ 64)
      ∧ ((s.port p).commitAt ≠ none → (s.port p).proposal = 0 → (u.port p).proposal = n + 4)
      ∧ (∀ q, q ≠ p.val → u.port q = s.port q) ∧ Only [.out, .image .ulpStatus, .ports, .clock, .free] s u)
    ∧ ((s.sends p = false ∨ (s.port p).lastFrame = n + 1) → Runs (.superframeStart p) s fun u => u = s.fresh) := by
  have e := exec_superframeStart p s
  rw [← hn] at e
  have of : Only [.out] s s.fresh := State.fresh_only (List.Subset.refl _) (Only.refl _ s)
  refine ⟨fun h1 h2 => ?_, fun h => Runs.stands (e.trans (congrArg Host.Outcome.next (if_neg ?_)))⟩
  · rw [if_pos (by simp [h1, h2])] at e
    obtain ⟨k1, k2, k3, k4, ⟨f, k5, k6⟩, k7, k8⟩ := s.fresh.startSuperframe_done p n
    exact ⟨_, e, k1, k2, k3, k4, ⟨f, k5.behind of (by decide) (by decide), k6⟩, k7, k8,
      State.startSuperframe_only (by decide) (of.mono (by decide))⟩
  · rcases h with h | h
    · simp [h]
    · simp [h]

end Sys2Proof
end

section
namespace Sys2Proof
open Machine

/-! ### Acknowledgements (R262) -/

namespace Machine

/-- A port that has `l` unacknowledged still. -/
def Port.acked (x : Port) (l : List (Nat × Nat)) (nak : Bool) : Port :=
  { x with
    unacked := l
    ackSince := if l.length < x.unacked.length then x.superframe else x.ackSince
    resend := if nak then l else x.resend.filter fun c => l.contains c }

theorem State.takeAck_none {s : State} {p ack : Nat} {nak : Bool} (h : (s.port p).after ack = none) :
    s.takeAck p ack nak = s := by
  unfold State.takeAck
  dsimp only
  rw [h]

theorem State.takeAck_some {s : State} {p ack : Nat} {nak : Bool} {l : List (Nat × Nat)} (h : (s.port p).after ack = some l) :
    s.takeAck p ack nak = if nak && !l.isEmpty then (s.setPort p ((s.port p).acked l nak)).count F.ulpStatus_BULK_RETX p
      else s.setPort p ((s.port p).acked l nak) := by
  unfold State.takeAck
  dsimp only
  rw [h]
  rfl

theorem Port.after_last {x : Port} {ack : Nat} (h : ack = x.txSeq) : x.after ack = some [] := if_pos h

theorem Port.after_found {x : Port} {ack : Nat} {a b : List (Nat × Nat)} {c : Nat × Nat} (h : ack ≠ x.txSeq)
    (hu : x.unacked = a ++ c :: b) (hc : c.1 = ack) (ha : ∀ y ∈ a, y.1 ≠ ack) : x.after ack = some (c :: b) := by
  have hd : x.unacked.dropWhile (fun y => y.1 ≠ ack) = c :: b := by
    rw [hu, List.dropWhile_append_of_pos (by simpa using ha), List.dropWhile_cons_of_neg (by simpa using hc)]
  unfold Port.after
  rw [if_neg h, hd]

theorem Port.after_absent {x : Port} {ack : Nat} (h : ack ≠ x.txSeq) (hu : ∀ c ∈ x.unacked, c.1 ≠ ack) :
    x.after ack = none := by
  have hd : x.unacked.dropWhile (fun y => y.1 ≠ ack) = [] := List.dropWhile_eq_nil_iff.mpr (by simpa using hu)
  unfold Port.after
  rw [if_neg h, hd]

/-- What an ACK leaves of its port and of the status. -/
theorem State.takeAck_keeps (s : State) {p : Nat} (hp : p < 4) (ack : Nat) (nak : Bool) :
    (∃ l a r, PortBecomes s (s.takeAck p ack nak) p { s.port p with unacked := l, ackSince := a, resend := r })
    ∧ StatusKept [F.ulpStatus_BULK_RETX] p s (s.takeAck p ack nak)
    ∧ Only [.ports, .image .ulpStatus] s (s.takeAck p ack nak) := by
  refine ⟨?_, ?_, State.takeAck_only (List.Subset.refl _) (Only.refl _ s)⟩
  all_goals
    cases h : (s.port p).after ack with
    | none => ?_
    | some l => ?_
  · rw [State.takeAck_none h]
    exact ⟨_, _, _, rfl, fun _ _ => rfl⟩
  · have hb := PortBecomes.setPort s p ((s.port p).acked l nak)
    rw [State.takeAck_some h]
    split
    · exact ⟨_, _, _, hb.onto (ps := [.image .ulpStatus]) (State.count_only (by decide) (Only.refl _ _)) (by decide)⟩
    · exact ⟨_, _, _, hb⟩
  · rw [State.takeAck_none h]
    exact StatusKept.refl _ p s
  · have hk : StatusKept [F.ulpStatus_BULK_RETX] p s (s.setPort p ((s.port p).acked l nak)) :=
      StatusKept.of_only (ps := [.ports]) (State.setPort_only (by decide) (Only.refl _ s)) (by decide)
    rw [State.takeAck_some h]
    split
    · exact hk.trans (StatusKept.count _ rfl (by decide) hp)
    · exact hk

theorem State.takeAck_unacked {s : State} {p ack : Nat} {nak : Bool} {l : List (Nat × Nat)}
    (h : (s.port p).after ack = some l) : ((s.takeAck p ack nak).port p).unacked = l := by
  have hb : ((s.setPort p ((s.port p).acked l nak)).port p).unacked = l :=
    congrArg Port.unacked (State.port_setPort s p _)
  rw [State.takeAck_some h]
  split
  · rw [port_of_only (ps := [.image .ulpStatus]) (State.count_only (by decide) (Only.refl _ _)) (by decide), hb]
  · exact hb

/-- The cells before the one that an ACK names are acknowledged. -/
theorem State.takeAck_taken (s : State) (p ack : Nat) (nak : Bool) : AckTaken s (s.takeAck p ack nak) p ack := by
  refine ⟨fun h => State.takeAck_unacked (Port.after_last h),
    fun h a c b hu hc ha => State.takeAck_unacked (Port.after_found h hu hc ha), fun h hu => ?_⟩
  rw [State.takeAck_none (Port.after_absent h hu)]

/-! ### Control frames that are used (R249, R252, R265 to R267) -/

/-- A control frame ends the alignment. -/
theorem State.linkUp_done (s : State) {p : Nat} (hp : p < 4) :
    (s.linkUp p).get F.ulpStatus_RX_STATE p = (if s.get F.ulpStatus_RX_STATE p = 1 then 2 else s.get F.ulpStatus_RX_STATE p)
    ∧ (s.get F.ulpStatus_RX_STATE p = 1 → Raised s (s.linkUp p) (768 + 16 * p + 10) 0 0)
    ∧ PortBecomes s (s.linkUp p) p { s.port p with controlOk := true }
    ∧ StatusKept [F.ulpStatus_RX_STATE] p s (s.linkUp p)
    ∧ Only [.ports, .out, .hatband, .image .ulpStatus] s (s.linkUp p) := by
  have hb := PortBecomes.setPort s p { s.port p with controlOk := true }
  have o : Only [.ports] s (s.setPort p { s.port p with controlOk := true }) :=
    State.setPort_only (by decide) (Only.refl _ s)
  have ou : Only [.ports, .out, .hatband, .image .ulpStatus] s (s.linkUp p) :=
    State.linkUp_only (List.Subset.refl _) (Only.refl _ s)
  have e : s.linkUp p = if (s.setPort p { s.port p with controlOk := true }).get F.ulpStatus_RX_STATE p = 1 then
      ((s.setPort p { s.port p with controlOk := true }).put F.ulpStatus_RX_STATE p 2).raise (768 + 16 * p + 10)
    else s.setPort p { s.port p with controlOk := true } := rfl
  rw [e] at ou ⊢
  generalize s.setPort p { s.port p with controlOk := true } = v at *
  have hr : v.get F.ulpStatus_RX_STATE p = s.get F.ulpStatus_RX_STATE p := o.get (by decide) p
  have hk : StatusKept [F.ulpStatus_RX_STATE] p s v := StatusKept.of_only o (by decide)
  rw [hr] at ou ⊢
  split
  · have ow : Only [.out, .hatband] (v.put F.ulpStatus_RX_STATE p 2)
        ((v.put F.ulpStatus_RX_STATE p 2).raise (768 + 16 * p + 10)) := State.raise_only (by decide) (Only.refl _ _)
    have op : Only [.image .ulpStatus] v (v.put F.ulpStatus_RX_STATE p 2) := State.put_only (by decide) (Only.refl _ v)
    rw [if_pos (by assumption)] at ou
    exact ⟨(ow.get (by decide) p).trans (State.get_put_of_lt _ _ _ (by decide)), fun _ => Raised.raise _ _ _,
      (hb.onto op (by decide)).onto ow (by decide),
      (hk.trans (StatusKept.put v 2 rfl (by decide) hp)).trans (StatusKept.of_only ow (by decide)), ou⟩
  · next hn => exact ⟨hr, fun h => absurd h hn, hb, hk, o.mono (by decide)⟩

/-- The proposal of the partner. -/
theorem State.useProposal_done (s : State) (p f : Nat) : ∃ a b c, PortBecomes s (s.useProposal p f) p
    { s.port p with partnerProposal := a, partnerProposalAt := b, swapAt := c } := by
  unfold State.useProposal
  extract_lets x prop at_
  obtain ⟨k, hk⟩ := Port.settleSwap_keeps { x with partnerProposal := prop, partnerProposalAt := at_ }
  rw [hk]
  exact ⟨prop, at_, k, PortBecomes.setPort s p _⟩

/-- What the time of a control frame changes is the clock's. -/
theorem State.useTime_grows (s : State) (p f : Nat) : Grows s (s.useTime p f) := by
  unfold State.useTime
  split
  · exact Grows.refl s
  · split
    · exact Grows.of_eq rfl rfl
    · have h : Grows s (s.setClock { s.clock with ulpTimeMissing := s.clock.ulpTimeMissing + 1 }) := Grows.of_eq rfl rfl
      dsimp only
      split
      · exact h.trans (Grows.holdover _)
      · exact h

/-- One more control frame with a notice. -/
def State.noticed (s : State) (p : Nat) : State := s.setPort p { s.port p with rxNotice := (s.port p).rxNotice + 1 }

/-- The receiver follows its partner into NAP. -/
def State.followed (s : State) (p : Nat) : State :=
  ((s.put F.ulpStatus_RX_STATE p 3).put F.ulpStatus_LANE_LOCK p 0).setPort p
    { s.port p with rxNotice := 0, controlOk := false }

theorem State.useNotice_none {s : State} {p f : Nat} (h1 : bit f 201 = false) (h2 : bit f 202 = false) :
    s.useNotice p f = s.setPort p { s.port p with rxNotice := 0 } := if_neg (by rw [h1, h2]; decide)

theorem State.useNotice_some {s : State} {p f : Nat} (h : bit f 201 = true ∨ bit f 202 = true) : s.useNotice p f =
    if 2 ≤ ((s.noticed p).port p).rxNotice && (s.noticed p).get F.ulpStatus_RX_STATE p = 2 then (s.noticed p).followed p
    else s.noticed p := if_pos (by simpa using h)

theorem State.noticed_done (s : State) (p : Nat) : ((s.noticed p).port p).rxNotice = (s.port p).rxNotice + 1
    ∧ PortBecomes s (s.noticed p) p { s.port p with rxNotice := (s.port p).rxNotice + 1 } ∧ Only [.ports] s (s.noticed p) := by
  have h := PortBecomes.setPort s p { s.port p with rxNotice := (s.port p).rxNotice + 1 }
  exact ⟨congrArg Port.rxNotice h.1, h, State.setPort_only (by decide) (Only.refl _ s)⟩

theorem State.followed_done (s : State) {p : Nat} (hp : p < 4) : (s.followed p).get F.ulpStatus_RX_STATE p = 3
    ∧ (s.followed p).get F.ulpStatus_LANE_LOCK p = 0
    ∧ PortBecomes s (s.followed p) p { s.port p with rxNotice := 0, controlOk := false }
    ∧ StatusKept [F.ulpStatus_RX_STATE, F.ulpStatus_LANE_LOCK] p s (s.followed p) := by
  have o : Only [.image .ulpStatus] s ((s.put F.ulpStatus_RX_STATE p 3).put F.ulpStatus_LANE_LOCK p 0) :=
    State.put_only (by decide) (State.put_only (by decide) (Only.refl _ s))
  unfold State.followed
  refine ⟨?_, ?_, (PortBecomes.setPort _ p _).behind o (by decide),
    ((StatusKept.put s 3 rfl (by decide) hp).trans (StatusKept.put _ 0 rfl (by decide) hp)).trans
      (StatusKept.of_only (ps := [.ports]) (State.setPort_only (by decide) (Only.refl _ _)) (by decide))⟩
  · rw [State.setPort_get, State.get_put_other _ (by decide), State.get_put_of_lt _ _ _ (by decide)]
  · rw [State.setPort_get, State.get_put_of_lt _ _ _ (by decide)]

/-- The receiver follows the notice (R267; log 65). -/
theorem State.useNotice_done (s : State) {p : Nat} (hp : p < 4) (f : Nat) :
    (bit f 201 = false → bit f 202 = false → PortBecomes s (s.useNotice p f) p { s.port p with rxNotice := 0 }
      ∧ (s.useNotice p f).get F.ulpStatus_RX_STATE p = s.get F.ulpStatus_RX_STATE p)
    ∧ ((bit f 201 = true ∨ bit f 202 = true) → s.get F.ulpStatus_RX_STATE p = 2 →
      ((s.port p).rxNotice = 0 → (s.useNotice p f).get F.ulpStatus_RX_STATE p = 2
        ∧ ((s.useNotice p f).port p).rxNotice = 1)
      ∧ (1 ≤ (s.port p).rxNotice → (s.useNotice p f).get F.ulpStatus_RX_STATE p = 3
        ∧ (s.useNotice p f).get F.ulpStatus_LANE_LOCK p = 0 ∧ ((s.useNotice p f).port p).rxNotice = 0))
    ∧ StatusKept [F.ulpStatus_RX_STATE, F.ulpStatus_LANE_LOCK] p s (s.useNotice p f)
    ∧ ∃ n c, PortBecomes s (s.useNotice p f) p { s.port p with rxNotice := n, controlOk := c } := by
  by_cases hn : bit f 201 = true ∨ bit f 202 = true
  · obtain ⟨k1, k2, k3⟩ := s.noticed_done p
    have hr : (s.noticed p).get F.ulpStatus_RX_STATE p = s.get F.ulpStatus_RX_STATE p := k3.get (by decide) p
    have hk : StatusKept [F.ulpStatus_RX_STATE, F.ulpStatus_LANE_LOCK] p s (s.noticed p) := StatusKept.of_only k3 (by decide)
    rw [State.useNotice_some hn, k1, hr]
    generalize s.noticed p = v at *
    refine ⟨fun h1 h2 => by simp [h1, h2] at hn, fun _ h2 => ?_, ?_⟩
    · obtain ⟨f1, f2, f3, -⟩ := v.followed_done hp
      refine ⟨fun h0 => ?_, fun h1 => ?_⟩
      · rw [if_neg (by simp [h0])]
        exact ⟨hr.trans h2, by rw [k1, h0]⟩
      · rw [if_pos (by simp [h1, h2])]
        exact ⟨f1, f2, congrArg Port.rxNotice f3.1⟩
    · split
      · obtain ⟨-, -, f3, f4⟩ := v.followed_done hp
        rw [k2.1] at f3
        exact ⟨hk.trans f4, 0, false, k2.trans f3⟩
      · exact ⟨hk, _, _, k2⟩
  · obtain ⟨h1, h2⟩ : bit f 201 = false ∧ bit f 202 = false := by simpa using hn
    have hb := PortBecomes.setPort s p { s.port p with rxNotice := 0 }
    rw [State.useNotice_none h1 h2]
    exact ⟨fun _ _ => ⟨hb, State.setPort_get _ _ _ _ _⟩, fun h => absurd h hn,
      StatusKept.of_only (ps := [.ports]) (State.setPort_only (by decide) (Only.refl _ _)) (by decide), 0, _, hb⟩

/-- The hash of the table in force rests on the tables and on which of them is in force. -/
theorem State.activeHash_of_only {ps : List Part} {s u : State} {p : Nat} (o : Only ps s u) (h : Part.image .slotTable ∉ ps)
    (hb : u.get F.ulpStatus_ACTIVE_BANK p = s.get F.ulpStatus_ACTIVE_BANK p) :
    u.tableHash (u.activeTable p) = s.tableHash (s.activeTable p) := by
  unfold State.tableHash State.activeTable
  rw [hb, o.image h]

/-- While a swap is pending the table in force governs. -/
theorem State.hashAt_pending {s : State} {p : Nat} (h : s.flag F.ulpStatus_SWAP_PENDING p = true) (n : Nat) :
    s.hashAt p n = s.tableHash (s.activeTable p) := by
  unfold State.hashAt
  dsimp only
  split
  · simp [h]
  · rfl

/-- S where it is not passed. -/
def State.swapStill (s : State) (p n : Nat) : Option Nat :=
  match (s.port p).swapAt with
  | some k => if k ≤ n && !s.flag F.ulpStatus_SWAP_PENDING p then none else some k
  | none => none

/-- The hashes of a control frame are noted. -/
def State.hashesNoted (s : State) (p f : Nat) : State :=
  s.setPort p { s.port p with remoteShadow := bits f 104 32, swapAt := s.swapStill p (bits f 8 64) }

def State.remoteNoted (s : State) (p f : Nat) : State := s.put F.ulpStatus_REMOTE_HASH p (bits f 72 32)

theorem State.useHashes_split (s : State) (p f : Nat) : s.useHashes p f =
    if !decide (bits f 72 32 = (s.remoteNoted p f).hashAt p (bits f 8 64)) then
      (((s.remoteNoted p f).hashesNoted p f).setPort p
        { ((s.remoteNoted p f).hashesNoted p f).port p with mismatchClearAt := none }).setMismatch p
    else if ((s.remoteNoted p f).hashesNoted p f).flag F.ulpStatus_MISMATCH p then
      ((s.remoteNoted p f).hashesNoted p f).setPort p
        { ((s.remoteNoted p f).hashesNoted p f).port p with
          mismatchClearAt := some (((s.remoteNoted p f).port p).superframe + 1) }
    else (s.remoteNoted p f).hashesNoted p f := rfl

theorem State.remoteNoted_done (s : State) {p : Nat} (hp : p < 4) (f : Nat) :
    (s.remoteNoted p f).get F.ulpStatus_REMOTE_HASH p = bits f 72 32
      ∧ StatusKept [F.ulpStatus_REMOTE_HASH] p s (s.remoteNoted p f) ∧ Only [.image .ulpStatus] s (s.remoteNoted p f) :=
  ⟨State.get_put_of_lt _ _ _ (bits_lt _ _ 32), StatusKept.put s _ rfl (by decide) hp,
    State.put_only (by decide) (Only.refl _ s)⟩

theorem State.hashesNoted_done (s : State) (p f : Nat) : (∃ k, PortBecomes s (s.hashesNoted p f) p
      { s.port p with remoteShadow := bits f 104 32, swapAt := k })
    ∧ Only [.ports] s (s.hashesNoted p f) :=
  ⟨⟨_, PortBecomes.setPort s p _⟩, State.setPort_only (by decide) (Only.refl _ s)⟩

/-- The hashes of a control frame are the partner's, and one that differs from the table in force marks a mismatch. -/
theorem State.useHashes_done (s : State) {p : Nat} (hp : p < 4) (f : Nat) :
    (s.useHashes p f).get F.ulpStatus_REMOTE_HASH p = bits f 72 32
    ∧ (∃ k m, PortBecomes s (s.useHashes p f) p
      { s.port p with remoteShadow := bits f 104 32, swapAt := k, mismatchClearAt := m })
    ∧ StatusKept [F.ulpStatus_REMOTE_HASH, F.ulpStatus_MISMATCH] p s (s.useHashes p f) ∧ Grows s (s.useHashes p f)
    ∧ (s.flag F.ulpStatus_SWAP_PENDING p = true → bits f 72 32 ≠ s.tableHash (s.activeTable p) →
      (s.useHashes p f).flag F.ulpStatus_MISMATCH p = true ∧ (s.flag F.ulpStatus_MISMATCH p = false →
        Raised s (s.useHashes p f) (768 + 16 * p + 12) 0 0)) := by
  obtain ⟨a1, a2, a3⟩ := s.remoteNoted_done hp f
  have ha : s.flag F.ulpStatus_SWAP_PENDING p = true →
      (s.remoteNoted p f).hashAt p (bits f 8 64) = s.tableHash (s.activeTable p) := fun h => by
    rw [State.hashAt_pending ((a2.flag rfl (by decide)).trans h),
      State.activeHash_of_only a3 (by decide) (a2.get rfl (by decide))]
  rw [State.useHashes_split]
  generalize s.remoteNoted p f = v at *
  obtain ⟨⟨k, b1⟩, b2⟩ := v.hashesNoted_done p f
  rw [port_of_only a3 (by decide)] at b1
  have b3 := b1.behind a3 (by decide)
  have b4 : StatusKept [F.ulpStatus_REMOTE_HASH, F.ulpStatus_MISMATCH] p s (v.hashesNoted p f) :=
    (a2.mono (by decide)).trans (StatusKept.of_only b2 (by decide))
  have b5 : (v.hashesNoted p f).get F.ulpStatus_REMOTE_HASH p = bits f 72 32 := (b2.get (by decide) p).trans a1
  have b6 : Grows s (v.hashesNoted p f) :=
    (Grows.of_only a3 (by decide) (by decide)).trans (Grows.of_only b2 (by decide) (by decide))
  have b7 : (v.hashesNoted p f).flag F.ulpStatus_MISMATCH p = s.flag F.ulpStatus_MISMATCH p :=
    (b2.flag (by decide) p).trans (a2.flag rfl (by decide))
  generalize v.hashesNoted p f = w at *
  have hc : ∀ m, PortBecomes s (w.setPort p { w.port p with mismatchClearAt := m }) p
      { s.port p with remoteShadow := bits f 104 32, swapAt := k, mismatchClearAt := m } := fun m => by
    have h := PortBecomes.setPort w p { w.port p with mismatchClearAt := m }
    rw [b3.1] at h ⊢
    exact b3.trans h
  have oc : ∀ m, Only [.ports] w (w.setPort p { w.port p with mismatchClearAt := m }) := fun m =>
    State.setPort_only (by decide) (Only.refl _ w)
  by_cases hg : bits f 72 32 = v.hashAt p (bits f 8 64)
  · rw [if_neg (by simp [hg])]
    have hno : s.flag F.ulpStatus_SWAP_PENDING p = true → bits f 72 32 ≠ s.tableHash (s.activeTable p) → False :=
      fun h hn => hn (hg.trans (ha h))
    split
    · exact ⟨((oc _).get (by decide) p).trans b5, ⟨k, _, hc _⟩, b4.trans (StatusKept.of_only (oc _) (by decide)),
        b6.trans (Grows.of_only (oc _) (by decide) (by decide)), fun h hn => (hno h hn).elim⟩
    · exact ⟨b5, ⟨k, _, b3⟩, b4, b6, fun h hn => (hno h hn).elim⟩
  · rw [if_pos (by simp [hg])]
    have hm := hc none
    have om := oc none
    generalize w.setPort p { w.port p with mismatchClearAt := none } = x at *
    obtain ⟨c1, c2, c3, c4⟩ := x.setMismatch_done hp
    have ox : Only [.log, .image .logStatus, .out, .hatband, .image .ulpStatus] x (x.setMismatch p) :=
      State.setMismatch_only (List.Subset.refl _) (Only.refl _ x)
    refine ⟨(c3.get rfl (by decide)).trans ((om.get (by decide) p).trans b5), ⟨k, none, hm.onto ox (by decide)⟩,
      (b4.trans (StatusKept.of_only om (by decide))).trans (c3.mono (by decide)),
      (b6.trans (Grows.of_only om (by decide) (by decide))).trans c4, fun _ _ => ⟨c1, fun hf => ?_⟩⟩
    exact (c2 ((om.flag (by decide) p).trans (b7.trans hf))).1

/-- Whether the superframes agree is noted. -/
def State.frameMatched (s : State) (p f : Nat) : State :=
  s.setPort p { s.port p with sameFrame := bits f 8 64 = (s.port p).superframe }

/-- A control frame up to its hashes: the alignment, the agreement of superframes, its ACK and its proposal. -/
def State.controlTaken (s : State) (p f : Nat) : State :=
  (((s.linkUp p).frameMatched p f).takeAck p (bits f 203 16) (bit f 219)).useProposal p f

theorem State.useControl_split (s : State) (p f : Nat) :
    s.useControl p f = (((s.controlTaken p f).useHashes p f).useTime p f).useNotice p f := rfl

theorem State.controlTaken_done (s : State) {p : Nat} (hp : p < 4) (f : Nat) :
    (s.controlTaken p f).get F.ulpStatus_RX_STATE p
      = (if s.get F.ulpStatus_RX_STATE p = 1 then 2 else s.get F.ulpStatus_RX_STATE p)
    ∧ (s.get F.ulpStatus_RX_STATE p = 1 → Raised s (s.controlTaken p f) (768 + 16 * p + 10) 0 0)
    ∧ (∃ l a r x y k, PortBecomes s (s.controlTaken p f) p { s.port p with
      controlOk := true, sameFrame := bits f 8 64 = (s.port p).superframe, unacked := l, ackSince := a, resend := r
      partnerProposal := x, partnerProposalAt := y, swapAt := k })
    ∧ StatusKept [F.ulpStatus_RX_STATE, F.ulpStatus_BULK_RETX] p s (s.controlTaken p f)
    ∧ Only [.ports, .out, .hatband, .image .ulpStatus] s (s.controlTaken p f) := by
  obtain ⟨a1, a2, a3, a4, a5⟩ := s.linkUp_done hp
  unfold State.controlTaken
  generalize s.linkUp p = v at *
  have b1 : PortBecomes v (v.frameMatched p f) p { v.port p with sameFrame := bits f 8 64 = (v.port p).superframe } :=
    PortBecomes.setPort v p _
  have b2 : Only [.ports] v (v.frameMatched p f) := State.setPort_only (by decide) (Only.refl _ v)
  rw [a3.1] at b1
  generalize v.frameMatched p f = w at *
  obtain ⟨⟨l, a, r, c1⟩, c2, c3⟩ := w.takeAck_keeps hp (bits f 203 16) (bit f 219)
  rw [b1.1] at c1
  generalize w.takeAck p (bits f 203 16) (bit f 219) = x at *
  obtain ⟨y, z, k, d1⟩ := x.useProposal_done p f
  have d2 : Only [.ports] x (x.useProposal p f) := State.useProposal_only (by decide) (Only.refl _ x)
  rw [c1.1] at d1
  have o : Only [.ports, .image .ulpStatus] v (x.useProposal p f) :=
    (b2.mono (by decide)).trans (c3.trans (d2.mono (by decide)))
  have h : StatusKept [F.ulpStatus_BULK_RETX] p v (x.useProposal p f) :=
    ((StatusKept.of_only b2 (by decide)).trans c2).trans (StatusKept.of_only d2 (by decide))
  exact ⟨(h.get rfl (by decide)).trans a1, fun h => (a2 h).grow (Grows.of_only o (by decide) (by decide)),
    ⟨l, a, r, y, z, k, ((a3.trans b1).trans c1).trans d1⟩, (a4.mono (by decide)).trans (h.mono (by decide)),
    a5.trans (o.mono (by decide))⟩

/-- The hashes and the time of a control frame, behind which its notice is followed. -/
theorem State.hashesTimed_done (s : State) {p : Nat} (hp : p < 4) (f : Nat) :
    ((s.useHashes p f).useTime p f).get F.ulpStatus_REMOTE_HASH p = bits f 72 32
    ∧ (∃ k m, PortBecomes s ((s.useHashes p f).useTime p f) p
      { s.port p with remoteShadow := bits f 104 32, swapAt := k, mismatchClearAt := m })
    ∧ StatusKept [F.ulpStatus_REMOTE_HASH, F.ulpStatus_MISMATCH] p s ((s.useHashes p f).useTime p f)
    ∧ Grows s ((s.useHashes p f).useTime p f)
    ∧ (s.flag F.ulpStatus_SWAP_PENDING p = true → bits f 72 32 ≠ s.tableHash (s.activeTable p) →
      ((s.useHashes p f).useTime p f).flag F.ulpStatus_MISMATCH p = true ∧ (s.flag F.ulpStatus_MISMATCH p = false →
        Raised s ((s.useHashes p f).useTime p f) (768 + 16 * p + 12) 0 0)) := by
  obtain ⟨a1, ⟨k, m, a2⟩, a3, a4, a5⟩ := s.useHashes_done hp f
  generalize s.useHashes p f = v at *
  have o : Only [.clock, .image .timeStatus, .log, .image .logStatus, .out, .hatband] v (v.useTime p f) :=
    State.useTime_only (List.Subset.refl _) (Only.refl _ v)
  refine ⟨(o.get (by decide) p).trans a1, ⟨k, m, a2.onto o (by decide)⟩, a3.trans (StatusKept.of_only o (by decide)),
    a4.trans (v.useTime_grows p f), fun h hn => ?_⟩
  obtain ⟨b1, b2⟩ := a5 h hn
  exact ⟨(o.flag (by decide) p).trans b1, fun hf => (b2 hf).grow (v.useTime_grows p f)⟩

/-- What a control frame that is used does. -/
theorem State.useControl_done (s : State) {p rx : Nat} (hp : p < 4) (f : Nat) (hr : rx = s.get F.ulpStatus_RX_STATE p) :
    (s.useControl p f).get F.ulpStatus_REMOTE_HASH p = bits f 72 32
    ∧ ((s.useControl p f).port p).remoteShadow = bits f 104 32
    ∧ (((s.useControl p f).port p).sameFrame = true ↔ bits f 8 64 = (s.port p).superframe)
    ∧ (bit f 201 = false → bit f 202 = false →
      (s.useControl p f).get F.ulpStatus_RX_STATE p = (if rx = 1 then 2 else rx)
      ∧ ((s.useControl p f).port p).controlOk = true ∧ ((s.useControl p f).port p).rxNotice = 0)
    ∧ (rx = 1 → Raised s (s.useControl p f) (768 + 16 * p + 10) 0 0)
    ∧ ((bit f 201 = true ∨ bit f 202 = true) → rx = 2 →
      ((s.port p).rxNotice = 0 → (s.useControl p f).get F.ulpStatus_RX_STATE p = 2
        ∧ ((s.useControl p f).port p).rxNotice = 1)
      ∧ (1 ≤ (s.port p).rxNotice → (s.useControl p f).get F.ulpStatus_RX_STATE p = 3
        ∧ (s.useControl p f).get F.ulpStatus_LANE_LOCK p = 0 ∧ ((s.useControl p f).port p).rxNotice = 0))
    ∧ (s.flag F.ulpStatus_SWAP_PENDING p = true → bits f 72 32 ≠ s.tableHash (s.activeTable p) →
      (s.useControl p f).flag F.ulpStatus_MISMATCH p = true ∧ (s.flag F.ulpStatus_MISMATCH p = false →
        Raised s (s.useControl p f) (768 + 16 * p + 12) 0 0))
    ∧ ∀ q, q ≠ p → (s.useControl p f).port q = s.port q := by
  obtain ⟨a1, a2, ⟨l, a, r, x, y, k, a3⟩, a4, a5⟩ := s.controlTaken_done hp f
  rw [State.useControl_split]
  have ht : (s.controlTaken p f).tableHash ((s.controlTaken p f).activeTable p) = s.tableHash (s.activeTable p) :=
    State.activeHash_of_only a5 (by decide) (a4.get rfl (by decide))
  generalize s.controlTaken p f = v at *
  obtain ⟨b1, ⟨k', m, b2⟩, b3, b4, b5⟩ := v.hashesTimed_done hp f
  rw [a3.1] at b2
  have b6 := a3.trans b2
  rw [a4.flag rfl (by decide), a4.flag rfl (by decide), ht] at b5
  have b7 : ((v.useHashes p f).useTime p f).get F.ulpStatus_RX_STATE p = if rx = 1 then 2 else rx := by
    rw [b3.get rfl (by decide), a1, hr]
  generalize (v.useHashes p f).useTime p f = w at *
  obtain ⟨c1, c2, c3, n, c, c4⟩ := w.useNotice_done hp f
  have c5 : Only [.image .ulpStatus, .ports] w (w.useNotice p f) := State.useNotice_only (by decide) (Only.refl _ w)
  have hg : Grows w (w.useNotice p f) := Grows.of_only c5 (by decide) (by decide)
  rw [b6.1] at c1 c2 c4
  rw [b7] at c1 c2
  have c6 := b6.trans c4
  refine ⟨(c3.get rfl (by decide)).trans b1, by rw [c6.1], by rw [c6.1]; exact decide_eq_true_iff, fun h1 h2 => ?_,
    fun h => (a2 (hr ▸ h)).grow (b4.trans hg), fun hn h2 => c2 hn (by rw [h2]; rfl), fun h hn => ?_, c6.2⟩
  · obtain ⟨d1, d2⟩ := c1 h1 h2
    exact ⟨d2, by rw [d1.1], by rw [d1.1]⟩
  · obtain ⟨d1, d2⟩ := b5 h hn
    exact ⟨(c3.flag rfl (by decide)).trans d1, fun hf => (d2 hf).grow hg⟩

end Machine

theorem exec_controlFrameRx (p : Fin 4) (hs : BitVec 16) (frame : BitVec 512) (s : State) :
    exec (.controlFrameRx p hs frame) s = .next
      (if s.get F.ulpStatus_LANE_LOCK p = 0xFF && (s.get F.ulpStatus_RX_STATE p = 1 || s.get F.ulpStatus_RX_STATE p = 2
          || s.looped p) && headersAre hs controlHeader && checkGood frame.toNat then
        s.fresh.useControl p frame.toNat
      else s.fresh) := rfl

/-- The clause of O58 on CONTROL_FRAME_RX. -/
theorem controlFrameRx_effects {p : Fin 4} {hs : BitVec 16} {frame : BitVec 512} {s : State} {rx f : Nat}
    (hr : rx = s.get F.ulpStatus_RX_STATE p) (hf : f = frame.toNat) :
    (s.get F.ulpStatus_LANE_LOCK p = 0xFF → (rx = 1 ∨ rx = 2 ∨ s.looped p = true) → headersAre hs controlHeader = true →
      checkGood f = true → Runs (.controlFrameRx p hs frame) s fun u => u.get F.ulpStatus_REMOTE_HASH p = bits f 72 32
        ∧ (u.port p).remoteShadow = bits f 104 32
        ∧ ((u.port p).sameFrame = true ↔ bits f 8 64 = (s.port p).superframe)
        ∧ (bit f 201 = false → bit f 202 = false → u.get F.ulpStatus_RX_STATE p = (if rx = 1 then 2 else rx)
          ∧ (u.port p).controlOk = true ∧ (u.port p).rxNotice = 0)
        ∧ (rx = 1 → Raised s u (768 + 16 * p + 10) 0 0)
        ∧ ((bit f 201 = true ∨ bit f 202 = true) → rx = 2 →
          ((s.port p).rxNotice = 0 → u.get F.ulpStatus_RX_STATE p = 2 ∧ (u.port p).rxNotice = 1)
          ∧ (1 ≤ (s.port p).rxNotice → u.get F.ulpStatus_RX_STATE p = 3 ∧ u.get F.ulpStatus_LANE_LOCK p = 0
            ∧ (u.port p).rxNotice = 0))
        ∧ (s.flag F.ulpStatus_SWAP_PENDING p = true → bits f 72 32 ≠ s.tableHash (s.activeTable p) →
          u.flag F.ulpStatus_MISMATCH p = true ∧ (s.flag F.ulpStatus_MISMATCH p = false →
            Raised s u (768 + 16 * p + 12) 0 0))
        ∧ (∀ q, q ≠ p.val → u.port q = s.port q)
        ∧ Only [.out, .ports, .hatband, .image .ulpStatus, .clock, .image .timeStatus, .log, .image .logStatus] s u)
    ∧ ((s.get F.ulpStatus_LANE_LOCK p ≠ 0xFF ∨ (rx ≠ 1 ∧ rx ≠ 2 ∧ s.looped p = false)
        ∨ headersAre hs controlHeader = false ∨ checkGood f = false) →
      Runs (.controlFrameRx p hs frame) s fun u => u = s.fresh) := by
  have e := exec_controlFrameRx p hs frame s
  rw [← hr, ← hf] at e
  refine ⟨fun h1 h2 h3 h4 => ?_, fun h => Runs.stands (e.trans (congrArg Host.Outcome.next (if_neg ?_)))⟩
  · rw [if_pos (by simpa [h1, h3, h4, or_assoc] using h2)] at e
    obtain ⟨k1, k2, k3, k4, k5, k6, k7, k8⟩ := s.fresh.useControl_done p.isLt f hr
    exact ⟨_, e, k1, k2, k3, k4, k5, k6, k7, k8,
      State.useControl_only (by decide) (State.fresh_only (by decide) (Only.refl _ s))⟩
  · rcases h with h | ⟨h1, h2, h3⟩ | h | h
    · simp [h]
    · simp [h1, h2, h3]
    · simp [h]
    · simp [h]

/-! ### The effects of Uluforam (O58) -/

/-- The clause of O58 on headers that a lane finds and follows. -/
theorem laneAlign_effects (a : LaneAlign) (hs : List (BitVec 2)) :
    (64 ≤ hs.length → (∀ h ∈ hs, h = 1 ∨ h = 2) → 64 ≤ (hs.foldl LaneAlign.hunt a).run)
    ∧ (a.run < 64 → ∀ h, (h = 0 ∨ h = 3) → a.hunt h = { a with boundary := (a.boundary + 1) % 66, run := 0 })
    ∧ (a.recent = [] → hs.length ≤ 64 → ((a.follow hs).1 = true ↔ 16 ≤ hs.countP fun h => h == 0 || h == 3)) := by
  refine ⟨fun hl hv => LaneAlign.hunt_valid hs a hv (by omega), fun ha h hh => LaneAlign.hunt_invalid ha hh, fun hr hl => ?_⟩
  have h := LaneAlign.follow_iff hs a (by simpa [hr] using hl) (by simp [hr])
  rwa [hr, List.count_nil, Nat.zero_add] at h

/-- Settles O58: each clause is the effect of one instruction, proved above from what its operation does. -/
theorem uluforamEffects : Obligations.UluforamEffects := by
  unfold Obligations.UluforamEffects
  exact ⟨fun _ _ h => ulpStatus_effects h, fun _ _ _ h hp => tableCommit_effects h hp,
    fun _ _ _ h hp hd => linkRetrain_effects h hp hd, fun _ _ _ _ _ _ hr ha => laneLock_effects hr ha, laneAlign_effects,
    fun _ _ _ _ _ _ _ hr h => laneLockLoss_effects hr h, fun _ _ _ hn => superframeStart_effects hn, linkSleepEnter_effects,
    fun _ _ _ hk => slotSwap_effects hk, fun _ _ _ hc => swapTimeout_effects hc,
    fun _ _ _ _ _ _ hr hf => controlFrameRx_effects hr hf, fun p l s => by
      obtain ⟨a1, a2⟩ := prbsSync_effects p l s
      obtain ⟨b1, b2⟩ := prbsCheckError_effects p l s
      exact ⟨a1, a2, b1, b2⟩⟩

end Sys2Proof
end

section
namespace Sys2Proof
open Machine

/-! ### What barriers and void orders do to the ports (R260) -/

/-- Of every port only what it carries of barriers and void orders may have changed, and what is raised is only added to. -/
def Meets (s u : State) : Prop :=
  Grows s u ∧ ∀ q, ∃ o i v, u.port q = { s.port q with barrierOut := o, barrierIn := i, voidOrder := v }

namespace Meets

variable {s u v : State}

theorem of_only {ps : List Part} (o : Only ps s u) (h1 : Part.out ∉ ps) (h2 : Part.hatband ∉ ps) (h3 : Part.ports ∉ ps) :
    Meets s u := ⟨Grows.of_only o h1 h2, fun q => ⟨_, _, _, port_of_only o h3 q⟩⟩

theorem refl (s : State) : Meets s s := of_only (ps := []) (Only.refl _ s) (by decide) (by decide) (by decide)

theorem trans (h : Meets s u) (g : Meets u v) : Meets s v := by
  refine ⟨h.1.trans g.1, fun q => ?_⟩
  obtain ⟨a, b, c, h1⟩ := h.2 q
  obtain ⟨d, e, f, g1⟩ := g.2 q
  exact ⟨d, e, f, g1.trans (by rw [h1])⟩

theorem of_grows {ps : List Part} (g : Grows s u) (o : Only ps s u) (h : Part.ports ∉ ps) : Meets s u :=
  ⟨g, fun q => ⟨_, _, _, port_of_only o h q⟩⟩

theorem foldl {α : Type} {f : State → α → State} (hf : ∀ s x, Meets s (f s x)) :
    ∀ (l : List α) (s : State), Meets s (l.foldl f s)
  | [], s => refl s
  | x :: l, s => (hf s x).trans (foldl hf l (f s x))

theorem setGroup (s : State) (g : Nat) (x : RunGroup) : Meets s (s.setGroup g x) :=
  of_only (ps := [.runs]) (State.setGroup_only (by decide) (Only.refl _ s)) (by decide) (by decide) (by decide)

theorem setPort (s : State) (p : Nat) (o : Option (Nat × Nat × Nat)) (i : Option (Nat × Nat × Bool)) (v : Option Nat) :
    Meets s (s.setPort p { s.port p with barrierOut := o, barrierIn := i, voidOrder := v }) := by
  refine ⟨Grows.of_eq rfl rfl, fun q => ?_⟩
  by_cases e : q = p
  · exact e ▸ ⟨o, i, v, State.port_setPort s _ _⟩
  · exact ⟨_, _, _, State.port_setPort_ne s _ e⟩

theorem raise (s : State) (src p f h : Nat) : Meets s (s.raise src p f h) :=
  of_grows (Grows.raise _ _ _ _ _) (ps := [.out, .hatband]) (State.raise_only (by decide) (Only.refl _ s)) (by decide)

theorem report (s : State) (cls : Nat) (l : Bool) (src a b : Nat) : Meets s (s.report cls l src a b) :=
  of_grows (Grows.report _ _ _ _ _ _) (ps := [.out, .hatband, .log, .image .logStatus])
    (State.report_only (by decide) (Only.refl _ s)) (by decide)

theorem orderVoid (s : State) (g : Nat) : Meets s (s.orderVoid g) :=
  of_only (ps := [.runs, .image .runStatus, .acq, .engines]) (State.orderVoid_only (by decide) (Only.refl _ s)) (by decide)
    (by decide) (by decide)

theorem voidOrders (s : State) (q : Nat) : Meets s (s.voidOrders q) := foldl (fun s p => setPort s p _ _ _) _ s

theorem arrivalsOut (s : State) (a : Nat × Nat × Nat) : Meets s (s.arrivalsOut a) := foldl (fun s p => setPort s p _ _ _) _ s

theorem useArrivals (s : State) : Meets s s.useArrivals := foldl (fun s p => setPort s p _ _ _) _ s

theorem timeoutTold (s : State) (g num seq : Nat) : Meets s (s.timeoutTold g num seq) :=
  (foldl (fun s t => raise s (seqSource t 11) 0 0 0) (s.members g) s).trans (report _ _ _ _ _ _)

theorem voidBarrier (s : State) (g num : Nat) (partner : Bool) : Meets s (s.voidBarrier g num partner) := by
  unfold State.voidBarrier
  extract_lets a seq b x c d
  have ha : Meets s a := foldl (fun s t => raise s (seqSource t 11) 0 0 0) (s.members g) s
  have hc : Meets s c := (ha.trans (report _ _ _ _ _ _)).trans (setGroup _ _ _)
  have hd : Meets s d := by
    unfold d
    split
    · exact hc.trans (voidOrders _ _)
    · exact hc
  exact hd.trans (orderVoid _ _)

theorem failBarrier (s : State) (g : Nat) (b : Barrier) : Meets s (s.failBarrier g b) :=
  (setGroup s g _).trans (voidBarrier _ _ _ _)

theorem releaseWith (s : State) (g : Nat) (b : Barrier) (ps : List (Nat × Nat)) : Meets s (s.releaseWith g b ps) := by
  unfold State.releaseWith
  extract_lets top release b' v
  have hv : Meets s v := useArrivals s
  split
  · exact hv.trans (failBarrier _ _ _)
  · exact hv.trans (setGroup _ _ _)

theorem settlePartner (s : State) (g : Nat) (b : Barrier) : Meets s (s.settlePartner g b) := by
  unfold State.settlePartner
  split
  · exact refl s
  · extract_lets tick v
    have hv : Meets s v := arrivalsOut s _
    split
    · exact hv.trans (releaseWith _ _ _ _)
    · exact hv

theorem settleBarrier (s : State) (g num : Nat) : Meets s (s.settleBarrier g num) := by
  unfold State.settleBarrier
  split
  · exact refl s
  · split
    · exact refl s
    · split
      · exact settlePartner _ _ _
      · exact setGroup _ _ _

theorem settleAll (s : State) : Meets s s.settleAll :=
  foldl (fun s h => foldl (fun s n => settleBarrier s h n) _ s) _ s

end Meets

end Sys2Proof
end

section
namespace Sys2Proof
open Machine

/-! ### Decision frames that are used (R257, R260) -/

namespace Machine

/-- Entry `j` of a frame: its valid bit, P, F, H and sequence number. -/
theorem bits_entry {f j lo w b : Nat} (h : lo + w ≤ 12) (hb : b = 16 + 12 * j + lo) :
    bits (bits f (16 + 12 * j) 12) lo w = bits f b w := bits_bits h hb

/-- The sequence number of entry `j` has gone on by more than its valid bit accounts for. -/
def Port.gap (x : Port) (f j : Nat) : Bool :=
  x.keptValid && bits (bits f (16 + 12 * j) 12) 0 1 < (bits (bits f (16 + 12 * j) 12) 6 4 + 16 - x.seqKept.read 0 j) % 16

/-- A gap is counted, raised and reported. -/
def State.gapTold (s : State) (p j n : Nat) : State :=
  ((s.count F.ulpStatus_DEC_MISSING p n).raise (768 + 16 * p + 14) (j % 4) (j / 4)).report 9 true (768 + 16 * p + 14) p j

/-- The sequence number of an entry is kept. -/
def State.seqNoted (s : State) (p f j : Nat) (m : SMap Nat) : State :=
  s.setPort p { s.port p with seqKept := m.write 0 j (bits (bits f (16 + 12 * j) 12) 6 4) }

theorem State.useStream_split (s : State) (p f j : Nat) : ∃ n w, w = (if (s.port p).gap f j = true then s.gapTold p j n
      else s).seqNoted p f j (s.port p).seqKept
    ∧ s.useStream p f j = if bits (bits f (16 + 12 * j) 12) 0 1 = 1 then
        w.raise (768 + 16 * p + j) (bits (bits f (16 + 12 * j) 12) 1 2) (bits (bits f (16 + 12 * j) 12) 3 1)
          (bits (bits f (16 + 12 * j) 12) 4 2)
      else w := ⟨_, _, rfl, rfl⟩

theorem State.gapTold_done (s : State) {p : Nat} (hp : p < 4) (j n : Nat) :
    Raised s (s.gapTold p j n) (768 + 16 * p + 14) (j % 4) (j / 4) ∧ Grows s (s.gapTold p j n)
    ∧ StatusKept [F.ulpStatus_DEC_MISSING] p s (s.gapTold p j n)
    ∧ Only [.image .ulpStatus, .out, .hatband, .log, .image .logStatus] s (s.gapTold p j n) := by
  have o : Only [.out, .hatband, .log, .image .logStatus] (s.count F.ulpStatus_DEC_MISSING p n) (s.gapTold p j n) :=
    State.report_only (by decide) (State.raise_only (by decide) (Only.refl _ _))
  exact ⟨(Raised.raise _ _ _).grow (Grows.report _ _ _ _ _ _),
    (Grows.put _ _ _ _).trans ((Grows.raise _ _ _ _ _).trans (Grows.report _ _ _ _ _ _)),
    (StatusKept.put s _ rfl (by decide) hp).trans (StatusKept.of_only o (by decide)),
    (State.count_only (by decide) (Only.refl _ s)).trans (o.mono (by decide))⟩

end Machine

/-- The entries `l` of a frame have been used. -/
structure StreamsUsed (s u : State) (p f : Nat) (l : List Nat) : Prop where
  port : ∃ k, PortBecomes s u p { s.port p with seqKept := k }
  kept : ∀ j ∈ l, (u.port p).seqKept.read 0 j = bits f (22 + 12 * j) 4
  others : ∀ j, j ∉ l → (u.port p).seqKept.read 0 j = (s.port p).seqKept.read 0 j
  sources : ∀ j ∈ l, bits f (16 + 12 * j) 1 = 1 →
    .source (768 + 16 * p + j) (bits f (17 + 12 * j) 2) (bits f (19 + 12 * j) 1) (bits f (20 + 12 * j) 2) ∈ u.out
  gaps : (s.port p).keptValid = true → ∀ j ∈ l,
    bits f (16 + 12 * j) 1 < (bits f (22 + 12 * j) 4 + 16 - (s.port p).seqKept.read 0 j) % 16 →
      Raised s u (768 + 16 * p + 14) (j % 4) (j / 4)
  grows : Grows s u
  status : StatusKept [F.ulpStatus_DEC_MISSING] p s u

namespace StreamsUsed

variable {s u v : State} {p f : Nat}

theorem nil (s : State) (p f : Nat) : StreamsUsed s s p f [] where
  port := ⟨_, rfl, fun _ _ => rfl⟩
  kept _ h := absurd h List.not_mem_nil
  others _ _ := rfl
  sources _ h := absurd h List.not_mem_nil
  gaps _ _ h := absurd h List.not_mem_nil
  grows := Grows.refl s
  status := StatusKept.refl _ p s

/-- One entry, and then others. -/
theorem cons {j : Nat} {l : List Nat} (h : StreamsUsed s u p f [j]) (g : StreamsUsed u v p f l) (hj : j ∉ l) :
    StreamsUsed s v p f (j :: l) := by
  obtain ⟨k, hk⟩ := h.port
  obtain ⟨k', gk⟩ := g.port
  have hv : (u.port p).keptValid = (s.port p).keptValid := by rw [hk.1]
  refine ⟨⟨k', ?_⟩, fun i hi => ?_, fun i hi => ?_, fun i hi hb => ?_, fun hs i hi hb => ?_, h.grows.trans g.grows,
    h.status.trans g.status⟩
  · rw [hk.1] at gk
    exact hk.trans gk
  · rcases List.mem_cons.mp hi with rfl | hi
    · exact (g.others _ hj).trans (h.kept _ (List.mem_singleton_self _))
    · exact g.kept i hi
  · obtain ⟨h1, h2⟩ := not_or.mp (mt List.mem_cons.mpr hi)
    exact (g.others i h2).trans (h.others i (mt List.mem_singleton.mp h1))
  · rcases List.mem_cons.mp hi with rfl | hi
    · exact g.grows.1 _ (h.sources _ (List.mem_singleton_self _) hb)
    · exact g.sources i hi hb
  · rcases List.mem_cons.mp hi with rfl | hi
    · exact (h.gaps hs _ (List.mem_singleton_self _) hb).grow g.grows
    · rw [← h.others i (mt List.mem_singleton.mp fun e => hj (e ▸ hi))] at hb
      exact g.gaps (hv.trans hs) i hi hb

end StreamsUsed

namespace Machine

theorem State.seqNoted_done (s : State) (p f j : Nat) : PortBecomes s (s.seqNoted p f j (s.port p).seqKept) p
      { s.port p with seqKept := (s.port p).seqKept.write 0 j (bits f (22 + 12 * j) 4) }
    ∧ Only [.ports] s (s.seqNoted p f j (s.port p).seqKept) := by
  unfold State.seqNoted
  rw [bits_entry (by decide) (b := 22 + 12 * j) (by omega)]
  exact ⟨PortBecomes.setPort s p _, State.setPort_only (by decide) (Only.refl _ s)⟩

theorem Port.gap_iff (x : Port) (f j : Nat) : x.gap f j = true ↔ x.keptValid = true
    ∧ bits f (16 + 12 * j) 1 < (bits f (22 + 12 * j) 4 + 16 - x.seqKept.read 0 j) % 16 := by
  unfold Port.gap
  rw [bits_entry (by decide) (b := 16 + 12 * j) (by omega), bits_entry (by decide) (b := 22 + 12 * j) (by omega),
    Bool.and_eq_true, decide_eq_true_iff]

/-- An entry before its source: its gap is told and its sequence number is kept. -/
theorem State.useStream_gap (s : State) {p : Nat} (hp : p < 4) (f j n : Nat) {w : State}
    (hw : w = (if (s.port p).gap f j = true then s.gapTold p j n else s).seqNoted p f j (s.port p).seqKept) :
    PortBecomes s w p { s.port p with seqKept := (s.port p).seqKept.write 0 j (bits f (22 + 12 * j) 4) }
    ∧ ((s.port p).gap f j = true → Raised s w (768 + 16 * p + 14) (j % 4) (j / 4)) ∧ Grows s w
    ∧ StatusKept [F.ulpStatus_DEC_MISSING] p s w := by
  by_cases hg : (s.port p).gap f j = true
  · obtain ⟨a1, a2, a3, a4⟩ := s.gapTold_done hp j n
    rw [if_pos hg] at hw
    generalize s.gapTold p j n = v at *
    have hv := port_of_only a4 (by decide) p
    obtain ⟨b1, b2⟩ := v.seqNoted_done p f j
    rw [hv, ← hw] at b1 b2
    have hg : Grows v w := Grows.of_only b2 (by decide) (by decide)
    exact ⟨b1.behind a4 (by decide), fun _ => a1.grow hg, a2.trans hg, a3.trans (StatusKept.of_only b2 (by decide))⟩
  · rw [if_neg hg] at hw
    obtain ⟨b1, b2⟩ := s.seqNoted_done p f j
    rw [← hw] at b1 b2
    exact ⟨b1, fun h => absurd h hg, Grows.of_only b2 (by decide) (by decide), StatusKept.of_only b2 (by decide)⟩

/-- One entry of a used frame. -/
theorem State.useStream_done (s : State) {p : Nat} (hp : p < 4) (f j : Nat) : StreamsUsed s (s.useStream p f j) p f [j] := by
  obtain ⟨n, w, hw, hu⟩ := s.useStream_split p f j
  obtain ⟨a1, a2, a3, a4⟩ := s.useStream_gap hp f j n hw
  rw [bits_entry (by decide) (b := 16 + 12 * j) (by omega), bits_entry (by decide) (b := 17 + 12 * j) (by omega),
    bits_entry (by decide) (b := 19 + 12 * j) (by omega), bits_entry (by decide) (b := 20 + 12 * j) (by omega)] at hu
  have o : Only [.out, .hatband] w (s.useStream p f j) := by
    rw [hu]
    exact Only.ite (State.raise_only (by decide) (Only.refl _ w)) (Only.refl _ w)
  have g : Grows w (s.useStream p f j) := by
    rw [hu]
    split
    · exact Grows.raise _ _ _ _ _
    · exact Grows.refl w
  have hp := a1.onto o (by decide)
  refine ⟨⟨_, hp⟩, fun i hi => ?_, fun i hi => ?_, fun i hi hb => ?_, fun hv i hi hb => ?_, a3.trans g,
    a4.trans (StatusKept.of_only o (by decide))⟩
  · rw [List.mem_singleton.mp hi, hp.1]
    exact SMap.read_write_self _ _ _ _
  · rw [hp.1]
    exact SMap.read_write_ne _ _ _ _ (mt List.mem_singleton.mpr hi)
  · obtain rfl := List.mem_singleton.mp hi
    rw [hu, if_pos hb]
    exact List.mem_append_right _ (List.mem_singleton_self _)
  · obtain rfl := List.mem_singleton.mp hi
    exact (a2 ((Port.gap_iff _ f i).mpr ⟨hv, hb⟩)).grow g

/-- The entries of a used frame, each once. -/
theorem State.useStreams_done {p : Nat} (hp : p < 4) (f : Nat) : ∀ (l : List Nat) (s : State), l.Nodup →
    StreamsUsed s (l.foldl (fun s j => s.useStream p f j) s) p f l
  | [], s, _ => StreamsUsed.nil s p f
  | j :: l, s, hn => by
    obtain ⟨hj, hl⟩ := List.nodup_cons.mp hn
    exact (s.useStream_done hp f j).cons (State.useStreams_done hp f l (s.useStream p f j) hl) hj

end Machine

end Sys2Proof
end

section
namespace Sys2Proof
open Machine

namespace Machine

/-- The arrival of a frame that its port knows already. -/
def Port.knows (x : Port) (num tick : Nat) : Bool :=
  match x.barrierIn with
  | some (n, k, _) => n = num && k = tick
  | none => false

theorem Port.knows_of_ne {x : Port} {num tick : Nat} (h : ∀ k, x.barrierIn ≠ some (num, tick, k)) :
    x.knows num tick = false := by
  unfold Port.knows
  split
  · next n k c hb =>
    rw [Bool.and_eq_false_iff, decide_eq_false_iff_not, decide_eq_false_iff_not]
    by_contra hc
    obtain ⟨h1, h2⟩ := not_or.mp hc
    rw [not_not] at h1 h2
    exact h c (by rw [hb, h1, h2])
  · rfl

/-- A partner arrival that is not known is noted and raised. -/
def State.arrivalNoted (s : State) (p num tick : Nat) : State :=
  (s.setPort p { s.port p with barrierIn := some (num, tick, false) }).raise (768 + 16 * p + 8)

theorem State.useArrival_split (s : State) (p f : Nat) : s.useArrival p f =
    if bit f 112 then
      if (s.port p).knows (bits f 113 10) (bits f 123 32) then s
      else (List.range 16).foldl (fun s g => s.settleBarrier g (bits f 113 10))
        (s.arrivalNoted p (bits f 113 10) (bits f 123 32))
    else s.setPort p { s.port p with barrierIn := (s.port p).barrierIn.bind fun a => if a.2.2 then none else some a } := rfl

/-- A new arrival raises BARRIER_RX. -/
theorem State.useArrival_done (s : State) (p f : Nat) : Meets s (s.useArrival p f)
    ∧ (bit f 112 = true → (∀ k, (s.port p).barrierIn ≠ some (bits f 113 10, bits f 123 32, k)) →
      Raised s (s.useArrival p f) (768 + 16 * p + 8) 0 0) := by
  rw [State.useArrival_split]
  by_cases hb : bit f 112 = true
  · have hs := fun v => Meets.foldl (f := fun s g => s.settleBarrier g (bits f 113 10))
      (fun s g => Meets.settleBarrier s g _) (List.range 16) v
    rw [if_pos hb]
    split
    · next hk => exact ⟨Meets.refl s, fun _ h => absurd (hk.symm.trans (Port.knows_of_ne h)) (by decide)⟩
    · refine ⟨((Meets.setPort s p _ _ _).trans (Meets.raise _ _ _ _ _)).trans (hs _), fun _ _ => ?_⟩
      exact (Raised.raise (s := s) (t := s.setPort p { s.port p with barrierIn := some (bits f 113 10, bits f 123 32, false) })
        _ 0 0).grow (hs _).1
  · rw [if_neg hb]
    exact ⟨Meets.setPort s p _ _ _, fun h => absurd h hb⟩

/-- The shots that a void order names are voided. -/
def State.voidNamed (s : State) (p seq : Nat) (gs : List Nat) : State :=
  gs.foldl (fun s g => s.voidBarrier g (s.group g).partnerNum true) (s.setPort p { s.port p with voidOrder := some seq })

theorem State.useVoid_cases (s : State) (p f : Nat) : s.useVoid p f = s ∨ s.useVoid p f = s.count F.ulpStatus_VOID_STALE p
    ∨ ∃ gs, s.useVoid p f = s.voidNamed p (bits f 156 16) gs := by
  unfold State.useVoid
  dsimp only
  split
  · exact .inl rfl
  · split
    · exact .inr (.inl rfl)
    · split
      · exact .inl rfl
      · exact .inr (.inr ⟨_, rfl⟩)

theorem State.voidNamed_done (s : State) (p seq : Nat) (gs : List Nat) : Meets s (s.voidNamed p seq gs)
    ∧ StatusKept [F.ulpStatus_VOID_STALE] p s (s.voidNamed p seq gs) := by
  have o : Only [.out, .hatband, .log, .image .logStatus, .runs, .ports, .image .runStatus, .acq, .engines] s
      (s.voidNamed p seq gs) :=
    Only.foldl (fun _ _ hx => State.voidBarrier_only (List.Subset.refl _) hx) _
      (State.setPort_only (by decide) (Only.refl _ s))
  exact ⟨(Meets.setPort s p _ _ _).trans (Meets.foldl (fun s g => Meets.voidBarrier s g _ _) _ _),
    StatusKept.of_only o (by decide)⟩

theorem State.useVoid_done (s : State) {p : Nat} (hp : p < 4) (f : Nat) : Meets s (s.useVoid p f)
    ∧ StatusKept [F.ulpStatus_VOID_STALE] p s (s.useVoid p f) := by
  rcases s.useVoid_cases p f with h | h | ⟨gs, h⟩
  · rw [h]
    exact ⟨Meets.refl s, StatusKept.refl _ p s⟩
  · rw [h]
    exact ⟨Meets.of_only (ps := [.image .ulpStatus]) (State.count_only (by decide) (Only.refl _ s)) (by decide) (by decide)
      (by decide), StatusKept.count s rfl (by decide) hp⟩
  · rw [h]
    exact s.voidNamed_done p _ gs

/-- The sequence numbers that are kept count from now on. -/
def State.keptMarked (s : State) (p : Nat) : State := s.setPort p { s.port p with keptValid := true }

/-- The entries of a frame have been used. -/
def State.streamsUsed (s : State) (p f : Nat) : State :=
  ((List.range 8).foldl (fun s j => s.useStream p f j) s).keptMarked p

theorem State.useFrame_split (s : State) (p f : Nat) :
    s.useFrame p f = ((s.streamsUsed p f).useArrival p f).useVoid p f := rfl

/-- The fields of the status record that a used frame may change. -/
def frameFields : List Field := [F.ulpStatus_DEC_MISSING, F.ulpStatus_VOID_STALE]

theorem State.streamsUsed_done (s : State) {p : Nat} (hp : p < 4) (f : Nat) :
    (∃ k, PortBecomes s (s.streamsUsed p f) p { s.port p with seqKept := k, keptValid := true })
    ∧ (∀ j < 8, ((s.streamsUsed p f).port p).seqKept.read 0 j = bits f (22 + 12 * j) 4)
    ∧ (∀ j < 8, bits f (16 + 12 * j) 1 = 1 →
      .source (768 + 16 * p + j) (bits f (17 + 12 * j) 2) (bits f (19 + 12 * j) 1) (bits f (20 + 12 * j) 2)
        ∈ (s.streamsUsed p f).out)
    ∧ ((s.port p).keptValid = true → ∀ j < 8,
      bits f (16 + 12 * j) 1 < (bits f (22 + 12 * j) 4 + 16 - (s.port p).seqKept.read 0 j) % 16 →
        Raised s (s.streamsUsed p f) (768 + 16 * p + 14) (j % 4) (j / 4))
    ∧ Grows s (s.streamsUsed p f) ∧ StatusKept [F.ulpStatus_DEC_MISSING] p s (s.streamsUsed p f) := by
  have h := State.useStreams_done hp f (List.range 8) s List.nodup_range
  unfold State.streamsUsed
  generalize (List.range 8).foldl (fun s j => s.useStream p f j) s = v at *
  have hb : PortBecomes v (v.keptMarked p) p { v.port p with keptValid := true } := PortBecomes.setPort v p _
  have o : Only [.ports] v (v.keptMarked p) := State.setPort_only (by decide) (Only.refl _ v)
  have hg := Grows.of_only o (by decide) (by decide)
  have hk : ((v.keptMarked p).port p).seqKept = (v.port p).seqKept := by rw [hb.1]
  obtain ⟨k, h1⟩ := h.port
  rw [h1.1] at hb
  refine ⟨⟨k, ?_⟩, fun j hj => ?_, fun j hj hv => hg.1 _ (h.sources j (List.mem_range.mpr hj) hv),
    fun hv j hj hd => (h.gaps hv j (List.mem_range.mpr hj) hd).grow hg, h.grows.trans hg,
    h.status.trans (StatusKept.of_only o (by decide))⟩
  · exact h1.trans hb
  · rw [hk]
    exact h.kept j (List.mem_range.mpr hj)

/-- A decision frame that is used (R257, R260). -/
theorem State.useFrame_done (s : State) {p : Nat} (hp : p < 4) (f : Nat) : FrameUsed s (s.useFrame p f) p f
    ∧ (∃ k o i v, (s.useFrame p f).port p = { s.port p with
      seqKept := k, keptValid := true, barrierOut := o, barrierIn := i, voidOrder := v })
    ∧ StatusKept frameFields p s (s.useFrame p f) ∧ Grows s (s.useFrame p f) := by
  obtain ⟨⟨k, a1⟩, a2, a3, a4, a5, a6⟩ := s.streamsUsed_done hp f
  rw [State.useFrame_split]
  generalize s.streamsUsed p f = v at *
  obtain ⟨b1, b2⟩ := v.useArrival_done p f
  have ob : Only [.ports, .out, .hatband, .log, .image .logStatus, .runs, .image .runStatus, .acq, .engines] v
      (v.useArrival p f) := State.useArrival_only (by decide) (Only.refl _ v)
  rw [a1.1] at b2
  generalize v.useArrival p f = w at *
  obtain ⟨c1, c2⟩ := w.useVoid_done hp f
  generalize w.useVoid p f = u at *
  have hm := b1.trans c1
  obtain ⟨o, i, d, hd⟩ := hm.2 p
  have hk : (u.port p).seqKept = (v.port p).seqKept := by rw [hd]
  have hv : u.port p = { s.port p with seqKept := k, keptValid := true, barrierOut := o, barrierIn := i, voidOrder := d } := by
    rw [hd, a1.1]
  refine ⟨⟨by rw [hv], fun j hj => by rw [hk]; exact a2 j hj, fun j hj hb => hm.1.1 _ (a3 j hj hb),
    fun hs j hj hb => (a4 hs j hj hb).grow hm.1, fun hb hn => (b2 hb hn).grow c1.1⟩, ⟨k, o, i, d, hv⟩,
    (a6.mono (by decide)).trans ((StatusKept.of_only ob (by decide)).trans (c2.mono (by decide))), a5.trans hm.1⟩

end Machine

/-- A frame is used from a state in which its port has kept the same. -/
theorem FrameUsed.behind {s v u : State} {p f : Nat} (h : FrameUsed v u p f) (h1 : (v.port p).keptValid = (s.port p).keptValid)
    (h2 : (v.port p).seqKept = (s.port p).seqKept) (h3 : (v.port p).barrierIn = (s.port p).barrierIn) : FrameUsed s u p f := by
  obtain ⟨k1, k2, k3, k4, k5⟩ := h
  rw [h1, h2] at k4
  rw [h3] at k5
  exact ⟨k1, k2, k3, k4, k5⟩

end Sys2Proof
end

section
namespace Sys2Proof
open Machine

/-! ### Bulk cells that are received (R262, R263, R266) -/

namespace Machine

theorem State.badCell_first {s : State} {p : Nat} (h : (s.port p).rxFailed = false) :
    PortBecomes s (s.badCell p) p { s.port p with nakCell := true, nakFrame := true, rxFailed := true }
      ∧ Only [.ports] s (s.badCell p) := by
  have e : s.badCell p = s.oweNak p true := if_neg (ne_true_of_eq_false h)
  rw [e]
  exact ⟨PortBecomes.setPort s p _, State.oweNak_only (by decide) (Only.refl _ s)⟩

/-- A cell's second failure is counted and reported. -/
def State.lastingTold (s : State) (p : Nat) : State :=
  (s.count F.ulpStatus_BULK_LASTING p).report 10 true 0xFFF p (s.port p).rxExpected

theorem State.lastingTold_done (s : State) (p : Nat) : Reported s (s.lastingTold p) 10
    ∧ (s.lastingTold p).get F.ulpStatus_BULK_LASTING p
      = satAdd (s.get F.ulpStatus_BULK_LASTING p) 1 F.ulpStatus_BULK_LASTING.width
    ∧ (s.lastingTold p).get F.ulpStatus_RX_STATE p = s.get F.ulpStatus_RX_STATE p
    ∧ Only [.image .ulpStatus, .log, .image .logStatus, .out, .hatband] s (s.lastingTold p) := by
  have o : Only [.log, .image .logStatus, .out, .hatband] (s.count F.ulpStatus_BULK_LASTING p) (s.lastingTold p) :=
    State.report_only (by decide) (Only.refl _ _)
  exact ⟨Reported.report 10 _ _ _ _ rfl, (o.get (by decide) p).trans (State.get_count _ _ _ _),
    (o.get (by decide) p).trans (State.get_count_other _ (by decide)),
    (State.count_only (by decide) (Only.refl _ s)).trans (o.mono (by decide))⟩

/-- A second failure in a row is lasting, and takes the direction down where it was UP. -/
theorem State.badCell_second {s : State} {p : Nat} (hp : p < 4) (h : (s.port p).rxFailed = true) :
    Reported s (s.badCell p) 10
    ∧ (s.badCell p).get F.ulpStatus_BULK_LASTING p
      = satAdd (s.get F.ulpStatus_BULK_LASTING p) 1 F.ulpStatus_BULK_LASTING.width
    ∧ (s.get F.ulpStatus_RX_STATE p = 2 → (s.badCell p).get F.ulpStatus_RX_STATE p = 0
      ∧ (s.badCell p).get F.ulpStatus_LANE_LOCK p = 0 ∧ Raised s (s.badCell p) (768 + 16 * p + 11) 0 0)
    ∧ ((s.badCell p).port p).unacked = (s.port p).unacked ∧ ((s.badCell p).port p).queue = (s.port p).queue
    ∧ Only downParts s (s.badCell p) := by
  have e : s.badCell p = (s.lastingTold p).realign p := if_pos h
  rw [e]
  obtain ⟨a1, a2, a3, a4⟩ := s.lastingTold_done p
  generalize s.lastingTold p = v at *
  obtain ⟨b1, b2, b3, b4, -⟩ := v.realign_keeps hp
  rw [port_of_only a4 (by decide)] at b3 b4
  refine ⟨a1.same (b2 10 (by decide) (by decide)), (b1.get rfl (by decide)).trans a2, fun hr => ?_, b3, b4,
    (a4.mono (by decide)).trans (v.realign_parts p)⟩
  obtain ⟨⟨c1, c2, -⟩, c3⟩ := State.realign_done (s := v) hp (.inr (a3.trans hr))
  exact ⟨c1, c2, c3 (a3.trans hr)⟩

/-- The cell expected is taken. -/
def State.cellTaken (s : State) (p seq : Nat) : State :=
  s.setPort p { s.port p with rxExpected := (seq + 1) % 2 ^ 16, rxFailed := false }

/-- A cell that had failed once is reported. -/
def State.cellTold (s : State) (p seq : Nat) : State :=
  if (s.port p).rxFailed then (s.cellTaken p seq).report 10 false 0xFFF p seq else s.cellTaken p seq

theorem State.takeCell_split (s : State) (p c : Nat) : s.takeCell p c =
    if bits c 0 16 = (s.port p).rxExpected then
      if bits c 34 4 = 2 then (s.cellTold p (bits c 0 16)).useFrame p (bits c 64 416) else s.cellTold p (bits c 0 16)
    else if (bits c 0 16 + 2 ^ 16 - (s.port p).rxExpected) % 2 ^ 16 < 1024 && !(s.port p).rxFailed then s.oweNak p false
    else s := rfl

theorem State.cellTold_done (s : State) (p seq : Nat) : PortBecomes s (s.cellTold p seq) p
      { s.port p with rxExpected := (seq + 1) % 2 ^ 16, rxFailed := false }
    ∧ Only [.ports, .out, .hatband, .log, .image .logStatus] s (s.cellTold p seq) := by
  have hb : PortBecomes s (s.cellTaken p seq) p { s.port p with rxExpected := (seq + 1) % 2 ^ 16, rxFailed := false } :=
    PortBecomes.setPort s p _
  have o : Only [.ports] s (s.cellTaken p seq) := State.setPort_only (by decide) (Only.refl _ s)
  have ou : Only [.out, .hatband, .log, .image .logStatus] (s.cellTaken p seq) (s.cellTold p seq) :=
    Only.ite (State.report_only (by decide) (Only.refl _ _)) (Only.refl _ _)
  exact ⟨hb.onto ou (by decide), (o.mono (by decide)).trans (ou.mono (by decide))⟩

/-- The cell expected is taken once; a decision frame in it is used. -/
theorem State.takeCell_expected {s : State} {p c : Nat} (hp : p < 4) (h : bits c 0 16 = (s.port p).rxExpected) :
    (∃ k b o i v, (s.takeCell p c).port p = { s.port p with
      rxExpected := (bits c 0 16 + 1) % 2 ^ 16, rxFailed := false
      seqKept := k, keptValid := b, barrierOut := o, barrierIn := i, voidOrder := v })
    ∧ (bits c 34 4 = 2 → FrameUsed s (s.takeCell p c) p (bits c 64 416)) := by
  obtain ⟨a1, -⟩ := s.cellTold_done p (bits c 0 16)
  rw [State.takeCell_split, if_pos h]
  generalize s.cellTold p (bits c 0 16) = v at *
  by_cases hc : bits c 34 4 = 2
  · obtain ⟨b1, ⟨k, o, i, d, b2⟩, -, -⟩ := v.useFrame_done hp (bits c 64 416)
    rw [if_pos hc]
    rw [a1.1] at b2
    exact ⟨⟨k, true, o, i, d, b2⟩, fun _ => b1.behind (by rw [a1.1]) (by rw [a1.1]) (by rw [a1.1])⟩
  · rw [if_neg hc]
    exact ⟨⟨_, _, _, _, _, a1.1⟩, fun h => absurd h hc⟩

/-- Another cell is dropped, and owes a NAK where it follows a gap. -/
theorem State.takeCell_other {s : State} {p c : Nat} (h : bits c 0 16 ≠ (s.port p).rxExpected) :
    ((s.takeCell p c).port p).rxExpected = (s.port p).rxExpected ∧ ((s.takeCell p c).port p).unacked = (s.port p).unacked
    ∧ ((bits c 0 16 + 2 ^ 16 - (s.port p).rxExpected) % 2 ^ 16 < 1024 → (s.port p).rxFailed = false →
      ((s.takeCell p c).port p).nakCell = true ∧ ((s.takeCell p c).port p).nakFrame = true) := by
  have hb : PortBecomes s (s.oweNak p false) p { s.port p with nakCell := true, nakFrame := true, rxFailed := false } :=
    PortBecomes.setPort s p _
  rw [State.takeCell_split, if_neg h]
  split
  · exact ⟨by rw [hb.1], by rw [hb.1], fun _ _ => ⟨by rw [hb.1], by rw [hb.1]⟩⟩
  · next hn => exact ⟨rfl, rfl, fun h1 h2 => absurd (by rw [h2, decide_eq_true h1]; rfl) hn⟩

theorem State.takeCell_unacked (s : State) {p : Nat} (hp : p < 4) (c : Nat) :
    ((s.takeCell p c).port p).unacked = (s.port p).unacked := by
  by_cases h : bits c 0 16 = (s.port p).rxExpected
  · obtain ⟨⟨_, _, _, _, _, e⟩, -⟩ := State.takeCell_expected hp h
    rw [e]
  · obtain ⟨-, e, -⟩ := State.takeCell_other h
    exact e

/-- A bulk slot that is not good. -/
theorem State.bulkSlot_bad {s : State} {p c : Nat} {hs : BitVec 16} (h : (headersAre hs dataHeader && checkGood c) = false) :
    s.bulkSlot p hs c = s.badCell p := if_pos (by rw [h]; rfl)

theorem State.bulkSlot_good {s : State} {p c : Nat} {hs : BitVec 16} (h : (headersAre hs dataHeader && checkGood c) = true) :
    s.bulkSlot p hs c = if bit c 32 then (s.takeAck p (bits c 16 16) (bit c 33)).takeCell p c
      else s.takeAck p (bits c 16 16) (bit c 33) := if_neg (by rw [h]; decide)

/-- A bulk slot that is good: its ACK is taken, and the cell that it has. -/
theorem State.bulkSlot_taken {s : State} {p c seq : Nat} {hs : BitVec 16} (hp : p < 4)
    (h : (headersAre hs dataHeader && checkGood c) = true) (hq : seq = bits c 0 16) :
    AckTaken s (s.bulkSlot p hs c) p (bits c 16 16) ∧ Only frameParts s (s.bulkSlot p hs c)
    ∧ (bit c 32 = false → ((s.bulkSlot p hs c).port p).rxExpected = (s.port p).rxExpected
      ∧ ((s.bulkSlot p hs c).port p).nakCell = (s.port p).nakCell)
    ∧ (bit c 32 = true → seq = (s.port p).rxExpected → ((s.bulkSlot p hs c).port p).rxExpected = (seq + 1) % 2 ^ 16
      ∧ ((s.bulkSlot p hs c).port p).rxFailed = false ∧ (bits c 34 4 = 2 → FrameUsed s (s.bulkSlot p hs c) p (bits c 64 416)))
    ∧ (bit c 32 = true → seq ≠ (s.port p).rxExpected → ((s.bulkSlot p hs c).port p).rxExpected = (s.port p).rxExpected
      ∧ ((seq + 2 ^ 16 - (s.port p).rxExpected) % 2 ^ 16 < 1024 → (s.port p).rxFailed = false →
        ((s.bulkSlot p hs c).port p).nakCell = true ∧ ((s.bulkSlot p hs c).port p).nakFrame = true)) := by
  rw [State.bulkSlot_good h, hq]
  have ht := s.takeAck_taken p (bits c 16 16) (bit c 33)
  obtain ⟨⟨l, a, r, k1⟩, -, k2⟩ := s.takeAck_keeps hp (bits c 16 16) (bit c 33)
  generalize s.takeAck p (bits c 16 16) (bit c 33) = v at *
  have he : (v.port p).rxExpected = (s.port p).rxExpected := by rw [k1.1]
  have hf : (v.port p).rxFailed = (s.port p).rxFailed := by rw [k1.1]
  by_cases hb : bit c 32 = true
  · rw [if_pos hb]
    refine ⟨?_, (k2.mono (by decide)).trans (State.takeCell_only (by decide) (Only.refl _ v)),
      fun h => absurd (hb.symm.trans h) (by decide), fun _ hx => ?_, fun _ hx => ?_⟩
    · unfold AckTaken at ht ⊢
      rw [v.takeCell_unacked hp]
      exact ht
    · obtain ⟨⟨_, _, _, _, _, e1⟩, e2⟩ := State.takeCell_expected hp (hx.trans he.symm)
      exact ⟨by rw [e1], by rw [e1], fun h2 => (e2 h2).behind (by rw [k1.1]) (by rw [k1.1]) (by rw [k1.1])⟩
    · obtain ⟨e1, -, e2⟩ := State.takeCell_other (s := v) (he ▸ hx)
      rw [he, hf] at e2
      exact ⟨e1.trans he, e2⟩
  · rw [if_neg hb]
    exact ⟨ht, k2.mono (by decide), fun _ => ⟨he, by rw [k1.1]⟩, fun h => absurd h hb, fun h => absurd h hb⟩

end Machine

theorem exec_bulkCellRx (p : Fin 4) (hs : BitVec 16) (cell : BitVec 512) (s : State) : exec (.bulkCellRx p hs cell) s = .next
    (if s.hears p then s.fresh.bulkSlot p hs cell.toNat else s.fresh) := rfl

/-- The clause of O59 on BULK_CELL_RX (log 66: the second failure in a row is lasting; log 68 for what a cell under
MISMATCH holds of a frame). -/
theorem bulkCellRx_effects {p : Fin 4} {hs : BitVec 16} {cell : BitVec 512} {s : State} {c : Nat} {good : Bool}
    (hc : c = cell.toNat) (hgood : good = (headersAre hs dataHeader && checkGood c)) :
    (s.hears p = false → Runs (.bulkCellRx p hs cell) s fun u => u = s.fresh)
    ∧ (s.hears p = true → good = false →
      ((s.port p).rxFailed = false → Runs (.bulkCellRx p hs cell) s fun u =>
        PortBecomes s u p { s.port p with nakCell := true, nakFrame := true, rxFailed := true } ∧ Only [.out, .ports] s u)
      ∧ ((s.port p).rxFailed = true → Runs (.bulkCellRx p hs cell) s fun u => Reported s u 10
        ∧ u.get F.ulpStatus_BULK_LASTING p = satAdd (s.get F.ulpStatus_BULK_LASTING p) 1 F.ulpStatus_BULK_LASTING.width
        ∧ (s.get F.ulpStatus_RX_STATE p = 2 → u.get F.ulpStatus_RX_STATE p = 0 ∧ u.get F.ulpStatus_LANE_LOCK p = 0
          ∧ Raised s u (768 + 16 * p + 11) 0 0)
        ∧ (u.port p).unacked = (s.port p).unacked ∧ (u.port p).queue = (s.port p).queue ∧ Only downParts s u))
    ∧ (s.hears p = true → good = true → ∀ seq, seq = bits c 0 16 →
      Runs (.bulkCellRx p hs cell) s fun u => AckTaken s u p (bits c 16 16) ∧ Only frameParts s u
        ∧ (bit c 32 = false → (u.port p).rxExpected = (s.port p).rxExpected ∧ (u.port p).nakCell = (s.port p).nakCell)
        ∧ (bit c 32 = true → seq = (s.port p).rxExpected → (u.port p).rxExpected = (seq + 1) % 2 ^ 16
          ∧ (u.port p).rxFailed = false ∧ (bits c 34 4 = 2 → FrameUsed s u p (bits c 64 416)))
        ∧ (bit c 32 = true → seq ≠ (s.port p).rxExpected → (u.port p).rxExpected = (s.port p).rxExpected
          ∧ ((seq + 2 ^ 16 - (s.port p).rxExpected) % 2 ^ 16 < 1024 → (s.port p).rxFailed = false →
            (u.port p).nakCell = true ∧ (u.port p).nakFrame = true))) := by
  have e := exec_bulkCellRx p hs cell s
  rw [← hc] at e
  have of : Only [.out] s s.fresh := State.fresh_only (List.Subset.refl _) (Only.refl _ s)
  refine ⟨fun h => Runs.stands (e.trans (congrArg Host.Outcome.next (if_neg (by simp [h])))), fun h hg => ?_,
    fun h hg seq hq => ?_⟩
  · rw [if_pos h, State.bulkSlot_bad (hgood.symm.trans hg)] at e
    refine ⟨fun hx => ?_, fun hx => ?_⟩
    · obtain ⟨k1, k2⟩ := State.badCell_first (s := s.fresh) hx
      exact ⟨_, e, k1.behind of (by decide), (of.mono (by decide)).trans (k2.mono (by decide))⟩
    · obtain ⟨k1, k2, k3, k4, k5, k6⟩ := State.badCell_second (s := s.fresh) p.isLt hx
      exact ⟨_, e, k1, k2, k3, k4, k5, (of.mono (by decide)).trans k6⟩
  · rw [if_pos h] at e
    obtain ⟨k1, k2, k3, k4, k5⟩ := State.bulkSlot_taken (s := s.fresh) p.isLt (hgood.symm.trans hg) hq
    exact ⟨_, e, k1, (of.mono (by decide)).trans k2, k3, k4, k5⟩

/-! ### Decision frames that are received (R252, R257, R266) -/

namespace Machine

/-- What is known of the first copy of a pair. -/
def State.firstMarked (s : State) (p : Nat) (used failed : Bool) : State :=
  s.setPort p { s.port p with firstUsed := used, firstFailed := failed }

theorem State.firstMarked_done (s : State) (p : Nat) (used failed : Bool) :
    PortBecomes s (s.firstMarked p used failed) p { s.port p with firstUsed := used, firstFailed := failed }
    ∧ Only [.ports] s (s.firstMarked p used failed) :=
  ⟨PortBecomes.setPort s p _, State.setPort_only (by decide) (Only.refl _ s)⟩

/-- A second copy that is used is counted, and reported where the first had failed. -/
def State.dupTold (s : State) (p : Nat) (failed : Bool) : State :=
  if failed then (s.count F.ulpStatus_DEC_DUP_USED p).report 9 false 0xFFF p else s.count F.ulpStatus_DEC_DUP_USED p

theorem State.secondCopy_split (s : State) (p f : Nat) (good : Bool) : s.secondCopy p f good =
    if (s.port p).firstUsed || !good then s.firstMarked p false false
    else ((s.firstMarked p false false).dupTold p (s.port p).firstFailed).useFrame p f := rfl

theorem State.dupTold_done (s : State) (p : Nat) (failed : Bool) :
    (s.dupTold p failed).get F.ulpStatus_DEC_DUP_USED p
      = satAdd (s.get F.ulpStatus_DEC_DUP_USED p) 1 F.ulpStatus_DEC_DUP_USED.width
    ∧ Only [.image .ulpStatus, .log, .image .logStatus, .out, .hatband] s (s.dupTold p failed) := by
  have o : Only [.log, .image .logStatus, .out, .hatband] (s.count F.ulpStatus_DEC_DUP_USED p) (s.dupTold p failed) :=
    Only.ite (State.report_only (by decide) (Only.refl _ _)) (Only.refl _ _)
  exact ⟨(o.get (by decide) p).trans (State.get_count _ _ _ _),
    (State.count_only (by decide) (Only.refl _ s)).trans (o.mono (by decide))⟩

/-- A first copy that is used. -/
theorem State.firstCopy_used (s : State) {p : Nat} (hp : p < 4) (f : Nat) :
    FrameUsed s ((s.firstMarked p true false).useFrame p f) p f
    ∧ (((s.firstMarked p true false).useFrame p f).port p).firstUsed = true
    ∧ (((s.firstMarked p true false).useFrame p f).port p).firstFailed = false
    ∧ Only frameParts s ((s.firstMarked p true false).useFrame p f) := by
  obtain ⟨a1, a2⟩ := s.firstMarked_done p true false
  generalize s.firstMarked p true false = v at *
  obtain ⟨b1, ⟨k, o, i, d, b2⟩, -, -⟩ := v.useFrame_done hp f
  rw [a1.1] at b2
  exact ⟨b1.behind (by rw [a1.1]) (by rw [a1.1]) (by rw [a1.1]), by rw [b2], by rw [b2],
    State.useFrame_only (by decide) (a2.mono (by decide))⟩

/-- A good second copy is used and counted where the first was not (R257). -/
theorem State.secondCopy_used {s : State} {p : Nat} (hp : p < 4) (f : Nat) (h : (s.port p).firstUsed = false) :
    FrameUsed s (s.secondCopy p f true) p f ∧ ((s.secondCopy p f true).port p).firstFailed = false
    ∧ (s.secondCopy p f true).get F.ulpStatus_DEC_DUP_USED p
      = satAdd (s.get F.ulpStatus_DEC_DUP_USED p) 1 F.ulpStatus_DEC_DUP_USED.width
    ∧ Only frameParts s (s.secondCopy p f true) := by
  obtain ⟨a1, a2⟩ := s.firstMarked_done p false false
  rw [State.secondCopy_split, if_neg (by rw [h]; decide)]
  generalize s.firstMarked p false false = v at *
  obtain ⟨b1, b2⟩ := v.dupTold_done p (s.port p).firstFailed
  rw [a2.get (by decide)] at b1
  have hw := a1.onto b2 (by decide)
  generalize v.dupTold p (s.port p).firstFailed = w at *
  obtain ⟨c1, ⟨k, o, i, d, c2⟩, c3, -⟩ := w.useFrame_done hp f
  rw [hw.1] at c2
  exact ⟨c1.behind (by rw [hw.1]) (by rw [hw.1]) (by rw [hw.1]), by rw [c2], (c3.get rfl (by decide)).trans b1,
    State.useFrame_only (by decide) ((a2.mono (by decide)).trans (b2.mono (by decide)))⟩

theorem State.secondCopy_unused {s : State} {p f : Nat} {good : Bool} (h : (s.port p).firstUsed = true ∨ good = false) :
    PortBecomes s (s.secondCopy p f good) p { s.port p with firstUsed := false, firstFailed := false }
    ∧ Only [.ports] s (s.secondCopy p f good) := by
  rw [State.secondCopy_split, if_pos (by simpa using h)]
  exact s.firstMarked_done p false false

end Machine

theorem exec_decisionFrameRx {p : Fin 4} {second : Bool} {hs : BitVec 16} {frame : BitVec 512} {s : State} {f : Nat}
    {good : Bool} (hf : f = frame.toNat) (hg : good = (headersAre hs controlHeader && checkGood f)) :
    exec (.decisionFrameRx p second hs frame) s = .next (if !s.hears p then s.fresh
      else if s.flag F.ulpStatus_MISMATCH p then s.fresh.bulkSlot p hs f
      else if second then s.fresh.secondCopy p f good
      else if good then (s.fresh.firstMarked p good !good).useFrame p f else s.fresh.firstMarked p good !good) := by
  subst hf hg
  rfl

/-- The clause of O59 on DECISION_FRAME_RX (log 67: void orders; log 68: under MISMATCH the slot is a bulk slot). -/
theorem decisionFrameRx_effects {p : Fin 4} {hs : BitVec 16} {frame : BitVec 512} {s : State} {f : Nat} {good : Bool}
    (hf : f = frame.toNat) (hgood : good = (headersAre hs controlHeader && checkGood f)) :
    (s.hears p = false → ∀ second, Runs (.decisionFrameRx p second hs frame) s fun u => u = s.fresh)
    ∧ (s.hears p = true → s.flag F.ulpStatus_MISMATCH p = true → ∀ second,
      exec (.decisionFrameRx p second hs frame) s = exec (.bulkCellRx p hs frame) s)
    ∧ (s.hears p = true → s.flag F.ulpStatus_MISMATCH p = false →
      (good = true → Runs (.decisionFrameRx p false hs frame) s fun u => FrameUsed s u p f
        ∧ (u.port p).firstUsed = true ∧ (u.port p).firstFailed = false ∧ Only frameParts s u)
      ∧ (good = false → Runs (.decisionFrameRx p false hs frame) s fun u =>
        PortBecomes s u p { s.port p with firstUsed := false, firstFailed := true } ∧ Only [.out, .ports] s u)
      ∧ (((s.port p).firstUsed = true ∨ good = false) → Runs (.decisionFrameRx p true hs frame) s fun u =>
        PortBecomes s u p { s.port p with firstUsed := false, firstFailed := false } ∧ Only [.out, .ports] s u)
      ∧ ((s.port p).firstUsed = false → good = true → Runs (.decisionFrameRx p true hs frame) s fun u =>
        FrameUsed s u p f ∧ (u.port p).firstFailed = false
        ∧ u.get F.ulpStatus_DEC_DUP_USED p = satAdd (s.get F.ulpStatus_DEC_DUP_USED p) 1 F.ulpStatus_DEC_DUP_USED.width
        ∧ Only frameParts s u)) := by
  have e := fun second => exec_decisionFrameRx (p := p) (second := second) (s := s) hf hgood
  have of : Only [.out] s s.fresh := State.fresh_only (List.Subset.refl _) (Only.refl _ s)
  refine ⟨fun h second => Runs.stands ((e second).trans (congrArg Host.Outcome.next (if_pos (by simp [h])))),
    fun h hm second => ?_, fun h hm => ?_⟩
  · rw [e second, exec_bulkCellRx, if_neg (by simp [h]), if_pos hm, if_pos h, hf]
  · simp only [h, hm, Bool.not_true, Bool.false_eq_true, if_false] at e
    refine ⟨fun hg => ?_, fun hg => ?_, fun hx => ?_, fun hx hg => ?_⟩
    · obtain ⟨k1, k2, k3, k4⟩ := s.fresh.firstCopy_used p.isLt f
      have e1 := e false
      rw [hg, if_neg (by decide), if_pos rfl, Bool.not_true] at e1
      exact ⟨_, e1, k1, k2, k3, (of.mono (by decide)).trans k4⟩
    · obtain ⟨k1, k2⟩ := s.fresh.firstMarked_done p false true
      have e1 := e false
      rw [hg, if_neg (by decide), if_neg (by decide), Bool.not_false] at e1
      exact ⟨_, e1, k1.behind of (by decide), (of.mono (by decide)).trans (k2.mono (by decide))⟩
    · obtain ⟨k1, k2⟩ := State.secondCopy_unused (s := s.fresh) (p := p) (f := f) hx
      have e1 := e true
      rw [if_pos rfl] at e1
      exact ⟨_, e1, k1.behind of (by decide), (of.mono (by decide)).trans (k2.mono (by decide))⟩
    · obtain ⟨k1, k2, k3, k4⟩ := State.secondCopy_used (s := s.fresh) p.isLt f hx
      have e1 := e true
      rw [hg, if_pos rfl] at e1
      exact ⟨_, e1, k1, k2, k3, (of.mono (by decide)).trans k4⟩

end Sys2Proof
end

section
namespace Sys2Proof
open Machine

/-! ### Bulk cells that are sent (R261, R262) -/

namespace Machine

theorem bit_of_bits {x n : Nat} {b : Bool} (h : bits x n 1 = if b then 1 else 0) : bit x n = b := by
  unfold bit
  rw [h]
  cases b <;> rfl

theorem bool_lt (b : Bool) : (if b then 1 else 0 : Nat) < 2 ^ 1 := by
  cases b <;> decide

/-- What a cell carries (R261). -/
theorem cellImage_bits (body seq ack : Nat) (valid nak : Bool) : checkGood (cellImage body seq ack valid nak) = true
    ∧ bits (cellImage body seq ack valid nak) 0 16 = seq % 2 ^ 16
    ∧ bits (cellImage body seq ack valid nak) 16 16 = ack % 2 ^ 16
    ∧ bit (cellImage body seq ack valid nak) 32 = valid ∧ bit (cellImage body seq ack valid nak) 33 = nak
    ∧ bits (cellImage body seq ack valid nak) 34 446 = bits body 34 446 := by
  have h16 : seq % 2 ^ 16 < 2 ^ 16 := Nat.mod_lt _ (by decide)
  have h32 : seq % 2 ^ 16 + (ack % 2 ^ 16) <<< 16 < 2 ^ 32 := add_shiftLeft_lt h16 (Nat.mod_lt _ (by decide)) rfl
  have h33 : seq % 2 ^ 16 + (ack % 2 ^ 16) <<< 16 + (if valid then 1 else 0) <<< 32 < 2 ^ 33 :=
    add_shiftLeft_lt h32 (bool_lt valid) rfl
  have h34 : seq % 2 ^ 16 + (ack % 2 ^ 16) <<< 16 + (if valid then 1 else 0) <<< 32 + (if nak then 1 else 0) <<< 33 < 2 ^ 34 :=
    add_shiftLeft_lt h33 (bool_lt nak) rfl
  unfold cellImage
  refine ⟨checkGood_withCheck _, ?_, ?_, bit_of_bits ?_, bit_of_bits ?_, ?_⟩
  · rw [bits_withCheck (by decide), bits_add_shiftLeft (by decide), bits_add_shiftLeft (by decide),
      bits_add_shiftLeft (by decide)]
    exact bits_low_add h16
  · rw [bits_withCheck (by decide), bits_add_shiftLeft (by decide), bits_add_shiftLeft (by decide),
      bits_add_shiftLeft (by decide)]
    exact (bits_shiftLeft_add h16 0 16).trans (bits_zero_of_lt (Nat.mod_lt _ (by decide)))
  · rw [bits_withCheck (by decide), bits_add_shiftLeft (by decide), bits_add_shiftLeft (by decide)]
    exact (bits_shiftLeft_add h32 0 1).trans (bits_zero_of_lt (bool_lt valid))
  · rw [bits_withCheck (by decide), bits_add_shiftLeft (by decide)]
    exact (bits_shiftLeft_add h33 0 1).trans (bits_zero_of_lt (bool_lt nak))
  · rw [bits_withCheck (by decide)]
    exact (bits_shiftLeft_add h34 0 446).trans (bits_zero_of_lt (bits_lt _ _ 446))

/-- The channel of a body. -/
theorem cellBody_channel (ch : Nat) (data : List Byte) : bits (cellBody ch data) 34 4 = ch % 16 := by
  unfold cellBody
  rw [bits_add_shiftLeft (by decide), bits_add_shiftLeft (by decide)]
  have h := bits_shiftLeft_add (a := 0) (b := ch) (k := 34) (by decide) 0 4
  rwa [Nat.zero_add] at h

/-- The port that sends its next cell owes no NAK any more. -/
def State.nakPaid (s : State) (p : Nat) : State := s.setPort p { s.port p with nakCell := false }

/-- A cell leaves, with what its port has received and owes. -/
def State.cellOut (t : State) (p : Nat) (x : Port) (body seq : Nat) (valid : Bool) : State :=
  t.sendSlot p dataHeader (cellImage body seq x.rxExpected valid x.nakCell)

/-- The port takes its next cell from those to resend. -/
def State.resendTaken (s : State) (p : Nat) (r : List (Nat × Nat)) : State :=
  s.setPort p { s.port p with resend := r }

/-- The port takes new data for a cell. -/
def State.dataTaken (s : State) (p : Nat) (x : Port) (b : Nat) (q : List (Nat × List Byte)) : State :=
  s.setPort p { s.port p with
    queue := q, unacked := x.unacked ++ [(x.txSeq, b)], txSeq := (x.txSeq + 1) % 2 ^ 16
    ackSince := if x.unacked.isEmpty then x.superframe else x.ackSince }

/-- The cell that a port sends for what it has to resend and what is queued. -/
def State.cellFor (s : State) (p : Nat) (x : Port) : List (Nat × Nat) → List (Nat × List Byte) → State
  | c :: r, _ => (s.resendTaken p r).cellOut p x c.2 c.1 true
  | [], (ch, data) :: q =>
    if x.unacked.length < 1024 then
      (s.dataTaken p x (cellBody ch data) q).cellOut p x (cellBody ch data) x.txSeq true
    else s.cellOut p x 0 x.txSeq false
  | [], [] => s.cellOut p x 0 x.txSeq false

theorem State.nextCell_split (s : State) (p : Nat) :
    s.nextCell p = (s.nakPaid p).cellFor p (s.port p) (s.port p).resend (s.port p).queue := by
  unfold State.nextCell State.cellFor State.cellOut
  rfl

theorem State.nextCell_resend {s : State} {p : Nat} {c : Nat × Nat} {r : List (Nat × Nat)} (h : (s.port p).resend = c :: r) :
    s.nextCell p = ((s.nakPaid p).resendTaken p r).cellOut p (s.port p) c.2 c.1 true := by
  rw [State.nextCell_split, h, State.cellFor]

theorem State.nextCell_new {s : State} {p ch : Nat} {data : List Byte} {q : List (Nat × List Byte)}
    (h1 : (s.port p).resend = []) (h2 : (s.port p).queue = (ch, data) :: q) (h3 : (s.port p).unacked.length < 1024) :
    s.nextCell p = ((s.nakPaid p).dataTaken p (s.port p) (cellBody ch data) q).cellOut p (s.port p) (cellBody ch data)
      (s.port p).txSeq true := by
  rw [State.nextCell_split, h1, h2, State.cellFor, if_pos h3]

theorem State.nextCell_idle {s : State} {p : Nat} (h1 : (s.port p).resend = [])
    (h2 : (s.port p).queue = [] ∨ 1024 ≤ (s.port p).unacked.length) :
    s.nextCell p = (s.nakPaid p).cellOut p (s.port p) 0 (s.port p).txSeq false := by
  rw [State.nextCell_split, h1]
  cases hq : (s.port p).queue with
  | nil => rw [State.cellFor]
  | cons d q =>
    rw [hq] at h2
    rw [State.cellFor, if_neg (Nat.not_lt.mpr (h2.resolve_left (List.cons_ne_nil _ _)))]

theorem State.nakPaid_done (s : State) (p : Nat) : PortBecomes s (s.nakPaid p) p { s.port p with nakCell := false }
    ∧ Only [.ports] s (s.nakPaid p) := ⟨PortBecomes.setPort s p _, State.setPort_only (by decide) (Only.refl _ s)⟩

theorem State.resendTaken_done (s : State) (p : Nat) (r : List (Nat × Nat)) :
    PortBecomes s (s.resendTaken p r) p { s.port p with resend := r } ∧ Only [.ports] s (s.resendTaken p r) :=
  ⟨PortBecomes.setPort s p _, State.setPort_only (by decide) (Only.refl _ s)⟩

theorem State.dataTaken_done (s : State) (p : Nat) (x : Port) (b : Nat) (q : List (Nat × List Byte)) :
    (∃ a, PortBecomes s (s.dataTaken p x b q) p { s.port p with
      queue := q, unacked := x.unacked ++ [(x.txSeq, b)], txSeq := (x.txSeq + 1) % 2 ^ 16, ackSince := a })
    ∧ Only [.ports] s (s.dataTaken p x b q) :=
  ⟨⟨_, PortBecomes.setPort s p _⟩, State.setPort_only (by decide) (Only.refl _ s)⟩

/-- A cell that leaves carries its numbers, and its port keeps all but the scramblers. -/
theorem State.cellOut_done {s t : State} {p : Nat} {y : Port} (o : Only [.ports] s t) (h : PortBecomes s t p y)
    (body seq : Nat) (valid : Bool) : (∃ f, CellSent s (t.cellOut p (s.port p) body seq valid) p f seq valid body)
    ∧ (∃ sc i, PortBecomes s (t.cellOut p (s.port p) body seq valid) p { y with scrambled := sc, injected := i })
    ∧ Only [.ports, .free, .out] s (t.cellOut p (s.port p) body seq valid) := by
  obtain ⟨k1, ⟨⟨sc, i, k2⟩, k3⟩, k4⟩ := t.sendSlot_done p dataHeader
    (cellImage body seq (s.port p).rxExpected valid (s.port p).nakCell)
  rw [h.1] at k2
  exact ⟨⟨_, k1.behind o (by decide) (by decide), cellImage_bits _ _ _ _ _⟩,
    ⟨sc, i, k2, fun q hq => (k3 q hq).trans (h.2 q hq)⟩,
    (o.mono (by decide)).trans k4⟩

/-- A cell to send again goes first. -/
theorem State.nextCell_resends {s : State} {p : Nat} {c : Nat × Nat} {r : List (Nat × Nat)} (h : (s.port p).resend = c :: r) :
    (∃ f, CellSent s (s.nextCell p) p f c.1 true c.2)
    ∧ (∃ sc i, PortBecomes s (s.nextCell p) p
      { s.port p with nakCell := false, resend := r, scrambled := sc, injected := i })
    ∧ Only [.ports, .free, .out] s (s.nextCell p) := by
  obtain ⟨a1, a2⟩ := s.nakPaid_done p
  rw [State.nextCell_resend h]
  generalize s.nakPaid p = v at *
  obtain ⟨b1, b2⟩ := v.resendTaken_done p r
  rw [a1.1] at b1
  exact State.cellOut_done (a2.trans b2) (a1.trans b1) c.2 c.1 true

/-- New data follows, while the window is open. -/
theorem State.nextCell_sends {s : State} {p ch : Nat} {data : List Byte} {q : List (Nat × List Byte)}
    (h1 : (s.port p).resend = []) (h2 : (s.port p).queue = (ch, data) :: q) (h3 : (s.port p).unacked.length < 1024) :
    (∃ f, CellSent s (s.nextCell p) p f (s.port p).txSeq true (cellBody ch data))
    ∧ (∃ a sc i, PortBecomes s (s.nextCell p) p { s.port p with
      nakCell := false, queue := q, unacked := (s.port p).unacked ++ [((s.port p).txSeq, cellBody ch data)]
      txSeq := ((s.port p).txSeq + 1) % 2 ^ 16, ackSince := a, scrambled := sc, injected := i })
    ∧ Only [.ports, .free, .out] s (s.nextCell p) := by
  obtain ⟨a1, a2⟩ := s.nakPaid_done p
  rw [State.nextCell_new h1 h2 h3]
  generalize s.nakPaid p = v at *
  obtain ⟨⟨a, b1⟩, b2⟩ := v.dataTaken_done p (s.port p) (cellBody ch data) q
  rw [a1.1] at b1
  obtain ⟨c1, ⟨sc, i, c2⟩, c3⟩ := State.cellOut_done (a2.trans b2) (a1.trans b1) (cellBody ch data) (s.port p).txSeq true
  exact ⟨c1, ⟨a, sc, i, c2⟩, c3⟩

/-- Where there is nothing to send, or the window is full, a cell carries the ACK alone. -/
theorem State.nextCell_acks {s : State} {p : Nat} (h1 : (s.port p).resend = [])
    (h2 : (s.port p).queue = [] ∨ 1024 ≤ (s.port p).unacked.length) :
    (∃ f, CellSent s (s.nextCell p) p f (s.port p).txSeq false 0)
    ∧ (∃ sc i, PortBecomes s (s.nextCell p) p { s.port p with nakCell := false, scrambled := sc, injected := i })
    ∧ Only [.ports, .free, .out] s (s.nextCell p) := by
  obtain ⟨a1, a2⟩ := s.nakPaid_done p
  rw [State.nextCell_idle h1 h2]
  exact State.cellOut_done a2 a1 0 (s.port p).txSeq false

end Machine

theorem exec_bulkCellTx (p : Fin 4) (s : State) : exec (.bulkCellTx p) s = .next
    (if s.sends p && s.hears p && s.hasBulk p then s.fresh.nextCell p else s.fresh) := rfl

/-- The clause of O59 on BULK_CELL_TX. -/
theorem bulkCellTx_effects (p : Fin 4) (s : State) :
    (s.sends p = true → s.hears p = true → s.hasBulk p = true →
      (∀ c rest, (s.port p).resend = c :: rest → Runs (.bulkCellTx p) s fun u =>
        (∃ f, CellSent s u p f c.1 true c.2) ∧ (u.port p).resend = rest ∧ (u.port p).nakCell = false
        ∧ (u.port p).unacked = (s.port p).unacked ∧ (u.port p).queue = (s.port p).queue
        ∧ (∀ q, q ≠ p.val → u.port q = s.port q) ∧ Only [.out, .ports, .free] s u)
      ∧ (∀ ch data rest, (s.port p).resend = [] → (s.port p).queue = (ch, data) :: rest →
        (s.port p).unacked.length < 1024 → Runs (.bulkCellTx p) s fun u => ∃ b, (∃ f, CellSent s u p f (s.port p).txSeq true b)
          ∧ bits b 34 4 = ch % 16 ∧ (u.port p).unacked = (s.port p).unacked ++ [((s.port p).txSeq, b)]
          ∧ (u.port p).queue = rest ∧ (u.port p).txSeq = ((s.port p).txSeq + 1) % 2 ^ 16 ∧ (u.port p).nakCell = false
          ∧ (∀ q, q ≠ p.val → u.port q = s.port q) ∧ Only [.out, .ports, .free] s u)
      ∧ ((s.port p).resend = [] → ((s.port p).queue = [] ∨ 1024 ≤ (s.port p).unacked.length) →
        Runs (.bulkCellTx p) s fun u => (∃ f, CellSent s u p f (s.port p).txSeq false 0)
          ∧ (u.port p).unacked = (s.port p).unacked ∧ (u.port p).queue = (s.port p).queue
          ∧ (u.port p).txSeq = (s.port p).txSeq ∧ (u.port p).nakCell = false
          ∧ (∀ q, q ≠ p.val → u.port q = s.port q) ∧ Only [.out, .ports, .free] s u))
    ∧ ((s.sends p = false ∨ s.hears p = false ∨ s.hasBulk p = false) → Runs (.bulkCellTx p) s fun u => u = s.fresh) := by
  have e := exec_bulkCellTx p s
  have of : Only [.out] s s.fresh := State.fresh_only (List.Subset.refl _) (Only.refl _ s)
  refine ⟨fun h1 h2 h3 => ?_, fun h => Runs.stands (e.trans (congrArg Host.Outcome.next (if_neg ?_)))⟩
  · rw [if_pos (by simp [h1, h2, h3])] at e
    refine ⟨fun c rest hr => ?_, fun ch data rest hr hq hw => ?_, fun hr hq => ?_⟩
    · obtain ⟨k1, ⟨sc, i, k2⟩, k3⟩ := State.nextCell_resends (s := s.fresh) hr
      exact ⟨_, e, k1, by rw [k2.1], by rw [k2.1], by rw [k2.1]; rfl, by rw [k2.1]; rfl, k2.2,
        (of.mono (by decide)).trans (k3.mono (by decide))⟩
    · obtain ⟨k1, ⟨a, sc, i, k2⟩, k3⟩ := State.nextCell_sends (s := s.fresh) hr hq hw
      exact ⟨_, e, _, k1, cellBody_channel ch data, by rw [k2.1]; rfl, by rw [k2.1], by rw [k2.1]; rfl, by rw [k2.1], k2.2,
        (of.mono (by decide)).trans (k3.mono (by decide))⟩
    · obtain ⟨k1, ⟨sc, i, k2⟩, k3⟩ := State.nextCell_acks (s := s.fresh) hr hq
      exact ⟨_, e, k1, by rw [k2.1]; rfl, by rw [k2.1]; rfl, by rw [k2.1]; rfl, by rw [k2.1], k2.2,
        (of.mono (by decide)).trans (k3.mono (by decide))⟩
  · rcases h with h | h | h
    · simp [h]
    · simp [h]
    · simp [h]

theorem exec_bulkAckTimeout (p : Fin 4) (s : State) : exec (.bulkAckTimeout p) s = .next
    (if !(s.port p).unacked.isEmpty && decide ((s.port p).ackSince + 8 ≤ (s.port p).superframe) then
      (s.fresh.setPort p { s.port p with resend := (s.port p).unacked, ackSince := (s.port p).superframe }).count
        F.ulpStatus_BULK_RETX p
    else s.fresh) := rfl

/-- The clause of O59 on BULK_ACK_TIMEOUT (log 66: BULK_RETX counts events). -/
theorem bulkAckTimeout_effects (p : Fin 4) (s : State) :
    ((s.port p).unacked ≠ [] → (s.port p).ackSince + 8 ≤ (s.port p).superframe → Runs (.bulkAckTimeout p) s fun u =>
      PortBecomes s u p { s.port p with resend := (s.port p).unacked, ackSince := (s.port p).superframe }
      ∧ u.get F.ulpStatus_BULK_RETX p = satAdd (s.get F.ulpStatus_BULK_RETX p) 1 F.ulpStatus_BULK_RETX.width
      ∧ Only [.out, .ports, .image .ulpStatus] s u)
    ∧ (((s.port p).unacked = [] ∨ (s.port p).superframe < (s.port p).ackSince + 8) →
      Runs (.bulkAckTimeout p) s fun u => u = s.fresh) := by
  have e := exec_bulkAckTimeout p s
  refine ⟨fun h1 h2 => ?_, fun h => Runs.stands (e.trans (congrArg Host.Outcome.next (if_neg ?_)))⟩
  · rw [if_pos (by simp [h1, h2])] at e
    have of : Only [.out] s s.fresh := State.fresh_only (List.Subset.refl _) (Only.refl _ s)
    have hb := (PortBecomes.setPort s.fresh p
      { s.port p with resend := (s.port p).unacked, ackSince := (s.port p).superframe }).behind of (by decide)
    have ob : Only [.out, .ports] s (s.fresh.setPort p
      { s.port p with resend := (s.port p).unacked, ackSince := (s.port p).superframe }) :=
      State.setPort_only (by decide) (of.mono (by decide))
    generalize s.fresh.setPort p { s.port p with resend := (s.port p).unacked, ackSince := (s.port p).superframe } = v at *
    refine ⟨_, e, hb.onto (ps := [.image .ulpStatus]) (State.count_only (by decide) (Only.refl _ v)) (by decide), ?_,
      State.count_only (by decide) (ob.mono (by decide))⟩
    rw [State.get_count, ob.get (by decide)]
  · rcases h with h | h
    · simp [h]
    · simp [Nat.not_le.mpr h]

end Sys2Proof
end

section
namespace Sys2Proof
open Machine

/-! ### Decision frames that are built (R255, R256, R258, R260) -/

/-- The latches `l` of a port have been read into a frame. -/
structure StreamsBuilt (s u : State) (p : Nat) (l : List Nat) : Prop where
  port : ∃ m q, PortBecomes s u p { s.port p with latches := m, seqSent := q }
  cleared : ∀ j ∈ l, (u.port p).latches.find j = none
  latches : ∀ j, j ∉ l → (u.port p).latches.find j = (s.port p).latches.find j
  sent : ∀ j ∈ l, ∀ x h c, (s.port p).latches.find j = some (x, h, c) → c.1 < 3 →
    (u.port p).seqSent.read 0 j = ((s.port p).seqSent.read 0 j + 1) % 16
  unsent : ∀ j ∈ l, (s.port p).latches.find j = none → (u.port p).seqSent.read 0 j = (s.port p).seqSent.read 0 j
  others : ∀ j, j ∉ l → (u.port p).seqSent.read 0 j = (s.port p).seqSent.read 0 j

namespace StreamsBuilt

variable {s u v : State} {p : Nat}

theorem nil (s : State) (p : Nat) : StreamsBuilt s s p [] where
  port := ⟨_, _, rfl, fun _ _ => rfl⟩
  cleared _ h := absurd h List.not_mem_nil
  latches _ _ := rfl
  sent _ h := absurd h List.not_mem_nil
  unsent _ h := absurd h List.not_mem_nil
  others _ _ := rfl

/-- One latch, and then others. -/
theorem cons {j : Nat} {l : List Nat} (h : StreamsBuilt s u p [j]) (g : StreamsBuilt u v p l) (hj : j ∉ l) :
    StreamsBuilt s v p (j :: l) := by
  obtain ⟨m, q, hp⟩ := h.port
  obtain ⟨m', q', gp⟩ := g.port
  have hn : ∀ i ∈ l, i ∉ [j] := fun i hi e => hj (List.mem_singleton.mp e ▸ hi)
  have hs := List.mem_singleton_self j
  refine ⟨⟨m', q', ?_⟩, fun i hi => ?_, fun i hi => ?_, fun i hi => ?_, fun i hi => ?_, fun i hi => ?_⟩
  · rw [hp.1] at gp
    exact hp.trans gp
  · rcases List.mem_cons.mp hi with rfl | hi
    · exact (g.latches _ hj).trans (h.cleared _ hs)
    · exact g.cleared i hi
  · obtain ⟨h1, h2⟩ := not_or.mp (mt List.mem_cons.mpr hi)
    exact (g.latches i h2).trans (h.latches i (mt List.mem_singleton.mp h1))
  · rcases List.mem_cons.mp hi with rfl | hi
    · exact fun x y c hf hc => (g.others _ hj).trans (h.sent _ hs x y c hf hc)
    · have h1 := g.sent i hi
      rw [h.latches i (hn i hi), h.others i (hn i hi)] at h1
      exact h1
  · rcases List.mem_cons.mp hi with rfl | hi
    · exact fun hf => (g.others _ hj).trans (h.unsent _ hs hf)
    · have h1 := g.unsent i hi
      rw [h.latches i (hn i hi), h.others i (hn i hi)] at h1
      exact h1
  · obtain ⟨h1, h2⟩ := not_or.mp (mt List.mem_cons.mpr hi)
    exact (g.others i h2).trans (h.others i (mt List.mem_singleton.mp h1))

end StreamsBuilt

namespace Machine

/-- A latch is read and cleared. -/
def State.latchRead (s : State) (p j : Nat) : State := s.setPort p { s.port p with latches := (s.port p).latches.drop j }

/-- A stream's sequence number goes on. -/
def State.seqAdvanced (s : State) (p j : Nat) (m : SMap Nat) : State :=
  s.setPort p { s.port p with seqSent := m.write 0 j ((m.read 0 j + 1) % 16) }

theorem State.buildStream_none {s : State} {p j : Nat} (h : (s.port p).latches.find j = none) :
    (s.buildStream p j).1 = s := by
  unfold State.buildStream
  dsimp only
  split
  · rfl
  · next hf => rw [h] at hf; cases hf

theorem State.buildStream_some {s : State} {p j x h : Nat} {c : Nat × Nat}
    (hf : (s.port p).latches.find j = some (x, h, c)) : (s.buildStream p j).1 =
      if 3 ≤ c.1 then (s.latchRead p j).raiseFrom 0 0 0 (some (2, c.2))
      else (s.latchRead p j).seqAdvanced p j (s.port p).seqSent := by
  unfold State.buildStream
  dsimp only
  split
  · next hn => rw [hf] at hn; cases hn
  · next hs =>
    rw [hf] at hs
    cases hs
    split
    · rfl
    · rfl

/-- One latch of a frame that is built. -/
theorem State.buildStream_done (s : State) (p j : Nat) : StreamsBuilt s (s.buildStream p j).1 p [j] := by
  have hm : ∀ {i}, i ∉ [j] → i ≠ j := mt List.mem_singleton.mpr
  cases hf : (s.port p).latches.find j with
  | none =>
    rw [State.buildStream_none hf]
    refine ⟨⟨_, _, rfl, fun _ _ => rfl⟩, fun i hi => ?_, fun _ _ => rfl, fun i hi x h c hx => ?_,
      fun _ _ _ => rfl, fun _ _ => rfl⟩
    · rw [List.mem_singleton.mp hi, hf]
    · rw [List.mem_singleton.mp hi, hf] at hx
      cases hx
  | some y =>
    obtain ⟨x, h, c⟩ := y
    have a1 : PortBecomes s (s.latchRead p j) p { s.port p with latches := (s.port p).latches.drop j } :=
      PortBecomes.setPort s p _
    rw [State.buildStream_some hf]
    generalize s.latchRead p j = v at *
    by_cases h3 : 3 ≤ c.1
    · rw [if_pos h3]
      have o := State.raiseFrom_only (src := 0) (p := 0) (f := 0) (cause := some (2, c.2)) (List.Subset.refl _) (Only.refl _ v)
      have b1 := a1.onto o (by decide)
      refine ⟨⟨_, _, b1⟩, fun i hi => ?_, fun i hi => ?_, fun i hi x' h' c' hx hc => ?_, fun _ _ _ => by rw [b1.1],
        fun _ _ => by rw [b1.1]⟩
      · rw [List.mem_singleton.mp hi, b1.1]
        exact SMap.find_drop_self _ _
      · rw [b1.1]
        exact SMap.find_drop_ne _ (hm hi)
      · rw [List.mem_singleton.mp hi, hf] at hx
        cases hx
        omega
    · rw [if_neg h3]
      have b1 : PortBecomes v (v.seqAdvanced p j (s.port p).seqSent) p { v.port p with
          seqSent := (s.port p).seqSent.write 0 j (((s.port p).seqSent.read 0 j + 1) % 16) } := PortBecomes.setPort v p _
      rw [a1.1] at b1
      have b2 := a1.trans b1
      refine ⟨⟨_, _, b2⟩, fun i hi => ?_, fun i hi => ?_, fun i hi _ _ _ _ _ => ?_, fun i hi hx => ?_, fun i hi => ?_⟩
      · rw [List.mem_singleton.mp hi, b2.1]
        exact SMap.find_drop_self _ _
      · rw [b2.1]
        exact SMap.find_drop_ne _ (hm hi)
      · rw [List.mem_singleton.mp hi, b2.1]
        exact SMap.read_write_self _ _ _ _
      · rw [List.mem_singleton.mp hi, hf] at hx
        cases hx
      · rw [b2.1]
        exact SMap.read_write_ne _ _ _ _ (hm hi)

/-- One stream goes into a frame behind those before it. -/
def State.buildStep (p : Nat) (acc : State × Nat) (j : Nat) : State × Nat :=
  ((acc.1.buildStream p j).1, acc.2 + (acc.1.buildStream p j).2 <<< (16 + 12 * j))

theorem State.buildStreams_split (s : State) (p : Nat) :
    s.buildStreams p = (List.range 8).foldl (State.buildStep p) (s, 0) := rfl

/-- The streams of a frame lie behind its type and slot. -/
theorem State.buildSteps_done (p : Nat) : ∀ (l : List Nat) (acc : State × Nat), l.Nodup → 2 ^ 16 ∣ acc.2 →
    StreamsBuilt acc.1 (l.foldl (State.buildStep p) acc).1 p l ∧ 2 ^ 16 ∣ (l.foldl (State.buildStep p) acc).2
  | [], acc, _, hd => ⟨StreamsBuilt.nil acc.1 p, hd⟩
  | j :: l, acc, hn, hd => by
    obtain ⟨hj, hl⟩ := List.nodup_cons.mp hn
    obtain ⟨k1, k2⟩ := State.buildSteps_done p l (State.buildStep p acc j) hl
      (Nat.dvd_add hd (two_pow_dvd_shiftLeft (Nat.le_add_right 16 _) _))
    exact ⟨(acc.1.buildStream_done p j).cons k1 hj, k2⟩

theorem State.buildStreams_done (s : State) (p : Nat) :
    StreamsBuilt s (s.buildStreams p).1 p (List.range 8) ∧ 2 ^ 16 ∣ (s.buildStreams p).2 := by
  rw [State.buildStreams_split]
  exact State.buildSteps_done p (List.range 8) (s, 0) List.nodup_range (Nat.dvd_zero _)

/-- A void order is carried on as the port's order and the groups stand. -/
theorem State.voidCarried_congr {s u : State} {p : Nat} (h : (u.port p).voidOrder = (s.port p).voidOrder)
    (hg : ∀ g, u.group g = s.group g) : u.voidCarried p = s.voidCarried p := by
  unfold State.voidCarried
  simp only [h, hg]

/-- The arrival that a frame carries. -/
def State.barField (s : State) (p : Nat) : Nat :=
  match s.carries p with
  | some (num, tick, _) => 1 <<< 112 + (num % 1024) <<< 113 + (tick % 2 ^ 32) <<< 123
  | none => 0

/-- The void order that a frame carries. -/
def State.voidField (s : State) (p : Nat) : Nat :=
  match s.voidCarried p with
  | some seq => 1 <<< 155 + (seq % 2 ^ 16) <<< 156
  | none => 0

theorem State.barField_dvd (s : State) (p : Nat) : 2 ^ 16 ∣ s.barField p := by
  unfold State.barField
  split
  · exact Nat.dvd_add (Nat.dvd_add (two_pow_dvd_shiftLeft (by decide) _) (two_pow_dvd_shiftLeft (by decide) _))
      (two_pow_dvd_shiftLeft (by decide) _)
  · exact Nat.dvd_zero _

theorem State.voidField_dvd (s : State) (p : Nat) : 2 ^ 16 ∣ s.voidField p := by
  unfold State.voidField
  split
  · exact Nat.dvd_add (two_pow_dvd_shiftLeft (by decide) _) (two_pow_dvd_shiftLeft (by decide) _)
  · exact Nat.dvd_zero _

theorem State.decisionFrame_split (s : State) (p slot streams : Nat) : s.decisionFrame p slot streams =
    withCheck (0xD1 + (slot % 256) <<< 8 + streams + s.barField p + s.voidField p) := rfl

/-- A decision frame carries its check, its type and its slot (R256). -/
theorem State.decisionFrame_bits (s : State) (p slot : Nat) {streams : Nat} (h : 2 ^ 16 ∣ streams) :
    checkGood (s.decisionFrame p slot streams) = true ∧ bits (s.decisionFrame p slot streams) 0 8 = 0xD1
      ∧ bits (s.decisionFrame p slot streams) 8 8 = slot % 256 := by
  have hb := s.barField_dvd p
  have hv := s.voidField_dvd p
  have h8 : (2 : Nat) ^ (0 + 8) ∣ 2 ^ 16 := Nat.pow_dvd_pow 2 (by decide)
  rw [State.decisionFrame_split]
  refine ⟨checkGood_withCheck _, ?_, ?_⟩
  · rw [bits_withCheck (by decide), bits_add_of_dvd (h8.trans hv), bits_add_of_dvd (h8.trans hb),
      bits_add_of_dvd (h8.trans h)]
    exact bits_low_add (by decide)
  · rw [bits_withCheck (by decide), bits_add_of_dvd hv, bits_add_of_dvd hb, bits_add_of_dvd h]
    exact (bits_shiftLeft_add (by decide) 0 8).trans (bits_zero_of_lt (Nat.mod_lt _ (by decide)))

/-- Under MISMATCH a frame is queued as a bulk cell (R266; log 68: its first 52 bytes). -/
def State.frameQueued (s : State) (p f : Nat) : State :=
  s.setPort p { s.port p with queue := (s.port p).queue ++ [(2, leBytes f 52)] }

theorem State.sendFrameOut_split (s : State) (p f : Nat) : s.sendFrameOut p f =
    if s.flag F.ulpStatus_MISMATCH p then s.frameQueued p f
    else (s.sendSlot p controlHeader f).sendSlot p controlHeader f := rfl

/-- A frame leaves in a pair of slots, or under MISMATCH goes into the queue. -/
theorem State.sendFrameOut_done (s : State) (p f : Nat) :
    (∃ q sc i, PortBecomes s (s.sendFrameOut p f) p { s.port p with queue := q, scrambled := sc, injected := i })
    ∧ (s.flag F.ulpStatus_MISMATCH p = false → SlotSent s (s.sendFrameOut p f) p controlHeader f
      ∧ ((s.sendFrameOut p f).port p).queue = (s.port p).queue)
    ∧ (s.flag F.ulpStatus_MISMATCH p = true →
      ((s.sendFrameOut p f).port p).queue = (s.port p).queue ++ [(2, leBytes f 52)]) := by
  rw [State.sendFrameOut_split]
  by_cases hm : s.flag F.ulpStatus_MISMATCH p = true
  · have hb : PortBecomes s (s.frameQueued p f) p
        { s.port p with queue := (s.port p).queue ++ [(2, leBytes f 52)] } := PortBecomes.setPort s p _
    rw [if_pos hm]
    exact ⟨⟨_, _, _, hb⟩, fun h => absurd (hm.symm.trans h) (by decide), fun _ => by rw [hb.1]⟩
  · rw [if_neg hm]
    obtain ⟨-, a2, a3⟩ := s.sendSlot_done p controlHeader f
    generalize s.sendSlot p controlHeader f = v at *
    obtain ⟨b1, b2, -⟩ := v.sendSlot_done p controlHeader f
    obtain ⟨⟨sc, i, c1⟩, c2⟩ := a2.trans b2
    exact ⟨⟨_, sc, i, c1, c2⟩, fun _ => ⟨b1.behind a3 (by decide) (by decide), by rw [c1]⟩, fun h => absurd h hm⟩

/-- The void order that is still to be sent is carried on. -/
def State.voidKept (s : State) (p : Nat) : State := s.setPort p { s.port p with voidOrder := s.voidCarried p }

/-- A frame with the streams of `s`, sent in `slot`. -/
def State.frameBuilt (s : State) (p slot : Nat) : State :=
  ((s.buildStreams p).1.voidKept p).sendFrameOut p
    (((s.buildStreams p).1.voidKept p).decisionFrame p slot (s.buildStreams p).2)

/-- Behind the streams the port carries on its void order. -/
theorem State.voidKept_done (s : State) (p : Nat) : StreamsBuilt s (s.buildStreams p).1 p (List.range 8)
    ∧ 2 ^ 16 ∣ (s.buildStreams p).2
    ∧ PortBecomes s ((s.buildStreams p).1.voidKept p) p { s.port p with
      latches := ((s.buildStreams p).1.port p).latches, seqSent := ((s.buildStreams p).1.port p).seqSent
      voidOrder := s.voidCarried p }
    ∧ Only [.ports, .out, .hatband, .image .hatbandControl, .log, .image .logStatus, .image .channel] s
      ((s.buildStreams p).1.voidKept p) := by
  obtain ⟨a1, a2⟩ := s.buildStreams_done p
  have o : Only [.ports, .out, .hatband, .image .hatbandControl, .log, .image .logStatus, .image .channel] s
      (s.buildStreams p).1 := State.buildStreams_only (List.Subset.refl _) (Only.refl _ s)
  generalize (s.buildStreams p).1 = v at *
  have hb : PortBecomes v (v.voidKept p) p { v.port p with voidOrder := v.voidCarried p } := PortBecomes.setPort v p _
  obtain ⟨m, q, hp⟩ := a1.port
  rw [State.voidCarried_congr (by rw [hp.1]) fun g => group_of_only o (by decide) g, hp.1] at hb
  have hl : (v.port p).latches = m := by rw [hp.1]
  have hq : (v.port p).seqSent = q := by rw [hp.1]
  rw [hl, hq]
  exact ⟨a1, a2, hp.trans hb, State.setPort_only (by decide) o⟩

/-- A frame that is built (R255 to R258). -/
theorem State.frameBuilt_done (s : State) (p slot : Nat) : ∃ v, StreamsBuilt s v p (List.range 8)
    ∧ (∃ q sc i, PortBecomes s (s.frameBuilt p slot) p { s.port p with
      latches := (v.port p).latches, seqSent := (v.port p).seqSent, voidOrder := s.voidCarried p
      queue := q, scrambled := sc, injected := i })
    ∧ ∃ f, checkGood f = true ∧ bits f 0 8 = 0xD1 ∧ bits f 8 8 = slot % 256
      ∧ (s.flag F.ulpStatus_MISMATCH p = false → SlotSent s (s.frameBuilt p slot) p controlHeader f
        ∧ ((s.frameBuilt p slot).port p).queue = (s.port p).queue)
      ∧ (s.flag F.ulpStatus_MISMATCH p = true →
        ((s.frameBuilt p slot).port p).queue = (s.port p).queue ++ [(2, leBytes f 52)]) := by
  obtain ⟨a1, a2, a3, a4⟩ := s.voidKept_done p
  refine ⟨_, a1, ?_⟩
  unfold State.frameBuilt
  generalize (s.buildStreams p).1.voidKept p = w at *
  generalize (s.buildStreams p).1 = v at *
  obtain ⟨b1, b2, b3⟩ := w.decisionFrame_bits p slot a2
  generalize w.decisionFrame p slot (s.buildStreams p).2 = f at *
  obtain ⟨⟨q, sc, i, c1⟩, c2, c3⟩ := w.sendFrameOut_done p f
  have hq : (w.port p).queue = (s.port p).queue := by rw [a3.1]
  rw [a4.flag (by decide), hq] at c2 c3
  rw [a3.1] at c1
  refine ⟨⟨q, sc, i, a3.trans c1⟩, f, b1, b2, b3, fun hm => ?_, c3⟩
  obtain ⟨d1, d2⟩ := c2 hm
  exact ⟨d1.behind a4 (by decide) (by decide), d2⟩

theorem State.frameBuilt_only (s : State) (p slot : Nat) : Only [.ports, .out, .free, .hatband, .image .hatbandControl, .log,
    .image .logStatus, .image .channel] s (s.frameBuilt p slot) := by
  obtain ⟨-, -, -, o⟩ := s.voidKept_done p
  exact State.sendFrameOut_only (by decide) (o.mono (by decide))

end Machine

theorem exec_decisionFrameBuild (p : Fin 4) (slot : BitVec 8) (s : State) : exec (.decisionFrameBuild p slot) s = .next
    (if s.sends p && s.slotKind p slot.toNat = 1 then s.fresh.settleAll.frameBuilt p slot.toNat else s.fresh) := by
  change execDecisionFrameBuild p slot s = _
  unfold execDecisionFrameBuild State.frameBuilt
  extract_lets v
  change _ = Host.Outcome.next (if v.sends p && v.slotKind p slot.toNat = 1 then
    ((v.settleAll.buildStreams p).1.voidKept p).sendFrameOut p
      (((v.settleAll.buildStreams p).1.voidKept p).decisionFrame p slot.toNat (v.settleAll.buildStreams p).2) else v)
  generalize v.settleAll.buildStreams p = r
  rfl

/-- The clause of O59 on DECISION_FRAME_BUILD (log 68: what goes out under MISMATCH). -/
theorem decisionFrameBuild_effects (p : Fin 4) (slot : BitVec 8) (s : State) :
    (s.sends p = true → s.slotKind p slot.toNat = 1 → Runs (.decisionFrameBuild p slot) s fun u =>
      (∀ j < 8, (u.port p).latches.find j = none)
      ∧ (∀ j < 8, ∀ x h c, (s.port p).latches.find j = some (x, h, c) → c.1 < 3 →
        (u.port p).seqSent.read 0 j = ((s.port p).seqSent.read 0 j + 1) % 16)
      ∧ (∀ j < 8, (s.port p).latches.find j = none → (u.port p).seqSent.read 0 j = (s.port p).seqSent.read 0 j)
      ∧ (∃ f, checkGood f = true ∧ bits f 0 8 = 0xD1 ∧ bits f 8 8 = slot.toNat
        ∧ (s.flag F.ulpStatus_MISMATCH p = false → SlotSent s u p controlHeader f ∧ (u.port p).queue = (s.port p).queue)
        ∧ (s.flag F.ulpStatus_MISMATCH p = true → (u.port p).queue = (s.port p).queue ++ [(2, leBytes f 52)]))
      ∧ (u.port p).voidOrder = s.fresh.settleAll.voidCarried p
      ∧ (∀ q, q ≠ p.val → u.port q = s.fresh.settleAll.port q) ∧ u.program = s.fresh.settleAll.program
      ∧ Only [.ports, .out, .free, .hatband, .image .hatbandControl, .log, .image .logStatus, .image .channel, .runs,
        .image .runStatus, .acq, .engines] s u)
    ∧ ((s.sends p = false ∨ s.slotKind p slot.toNat ≠ 1) → Runs (.decisionFrameBuild p slot) s fun u => u = s.fresh) := by
  have e := exec_decisionFrameBuild p slot s
  refine ⟨fun h1 h2 => ?_, fun h => Runs.stands (e.trans (congrArg Host.Outcome.next (if_neg ?_)))⟩
  · rw [if_pos (by simp [h1, h2])] at e
    obtain ⟨-, hm⟩ := Meets.settleAll s.fresh
    obtain ⟨o, i, d, hp⟩ := hm p
    have ot : Only [.ports, .out, .hatband, .log, .image .logStatus, .runs, .image .runStatus, .acq, .engines] s
        s.fresh.settleAll := State.settleAll_only (List.Subset.refl _) (State.fresh_only (by decide) (Only.refl _ s))
    generalize s.fresh.settleAll = t at *
    have hl : (t.port p).latches = (s.port p).latches := by rw [hp]; rfl
    have hs : (t.port p).seqSent = (s.port p).seqSent := by rw [hp]; rfl
    have hq : (t.port p).queue = (s.port p).queue := by rw [hp]; rfl
    have ou := t.frameBuilt_only p slot.toNat
    obtain ⟨v, k1, ⟨q, sc, i', k2⟩, f, k3, k4, k5, k6, k7⟩ := t.frameBuilt_done p slot.toNat
    rw [ot.flag (by decide), hq] at k6 k7
    generalize t.frameBuilt p slot.toNat = u at *
    have hul : (u.port p).latches = (v.port p).latches := by rw [k2.1]
    have hus : (u.port p).seqSent = (v.port p).seqSent := by rw [k2.1]
    refine ⟨u, e, fun j hj => ?_, fun j hj x h c hf hc => ?_, fun j hj hf => ?_,
      ⟨f, k3, k4, k5.trans (Nat.mod_eq_of_lt slot.isLt), fun h => ?_, k7⟩, by rw [k2.1], k2.2,
      program_of_only ou (by decide) (by decide), (ot.mono (by decide)).trans (ou.mono (by decide))⟩
    · rw [hul]
      exact k1.cleared j (List.mem_range.mpr hj)
    · rw [hus, ← hs]
      exact k1.sent j (List.mem_range.mpr hj) x h c (hl ▸ hf) hc
    · rw [hus, ← hs]
      exact k1.unsent j (List.mem_range.mpr hj) (hl ▸ hf)
    · obtain ⟨h1, h2⟩ := k6 h
      exact ⟨h1.behind ot (by decide) (by decide), h2⟩
  · rcases h with h | h
    · simp [h]
    · simp [h]

/-! ### The effects of decision frames and bulk cells (O59) -/

/-- Settles O59: each clause is the effect of one instruction, proved above from what its operation does. -/
theorem frameAndCellEffects : Obligations.FrameAndCellEffects := by
  unfold Obligations.FrameAndCellEffects
  exact ⟨decisionFrameBuild_effects, fun _ _ _ _ _ _ hf hg => decisionFrameRx_effects hf hg,
    fun _ _ _ _ _ _ hc hg => bulkCellRx_effects hc hg, bulkCellTx_effects, bulkAckTimeout_effects⟩

end Sys2Proof
end
